-- ==== Sys2Proof/Word.lean ====
section
/-!
DEFINITION. The word types of the FZ9640: 8-bit bytes, the 32-bit register word and the 64-bit core register.
-/

namespace Sys2Proof

/-- One byte of a byte-addressed memory. -/
abbrev Byte := BitVec 8

/-- One 32-bit configuration register or engine register. -/
abbrev Word := BitVec 32

/-- One 64-bit core register or wide register. -/
abbrev DWord := BitVec 64

end Sys2Proof
end

