-- ==== Sys2Proof/Syntax.lean ====
section
/-!
DEFINITION. The commands and events of the FZ9640: one constructor of `Instr` for each row of the opcode table,
with the operands the spec's text gives that row, and the plain types those operands are made of.
-/

namespace Sys2Proof

/-- Completion statuses (R41). -/
inductive Status where
  | done | length | align | range | access | conflict
  | keyAbsent | keyUsage | keyCorrupt | keyRevoked | keyExhausted
  | fault | eccUncorr | aborted | timeout | stale | markLost | farError
  deriving DecidableEq, Repr, Inhabited

/-- Who issues a transaction; the tags follow from the issuer, never from its data (R18). -/
inductive Who where
  /-- Hart `h`: TID from its tenant register, W from its WORLD CSR. -/
  | hart (h : Fin 8)
  /-- Engine thread: both tags from its slice table entry. -/
  | thread (e : Fin 16) (t : Fin 8)
  /-- The debug module: TID 0, W while debug is open. -/
  | debug
  /-- A job, item or pair window, whose tags travel with it. -/
  | carried (tid : BitVec 8) (w : Bool)
  deriving DecidableEq, Repr, Inhabited

/-- One access as it reaches its target: its issuer, and whether the parity of its tags fails there (R20). -/
structure Acc where
  who : Who
  tagFail : Bool := false
  deriving DecidableEq, Repr, Inhabited

/-- The tags of a transaction (R18). -/
structure Tags where
  tid : BitVec 8
  w : Bool
  deriving DecidableEq, Repr, Inhabited

/-- Load channel CH0–CH63. -/
abbrev Ch := Fin 64
/-- Power die: 0 is P0, 1 is P1. -/
abbrev PDie := Fin 2
/-- Die-to-die link: 0 to P0, 1 to P1, 2 to F. -/
abbrev Link := Fin 3
/-- Clock island, by the island numbers of the ICU page. -/
abbrev Island := Fin 11
/-- Engine drive line DL0–DL63. -/
abbrev Line := Fin 64
/-- Signal engine SE0–SE15. -/
abbrev Eng := Fin 16
/-- Thread T0–T7 of an engine. -/
abbrev Thr := Fin 8
/-- Cask 0–511. -/
abbrev Cask := Fin 512
/-- Tenant identifier. -/
abbrev Tid := BitVec 8
/-- Register w0–w15 of an engine thread. -/
abbrev QReg := Fin 16
/-- Application core hart. -/
abbrev HartId := Fin 8
/-- A 48-bit physical address (R21). -/
abbrev Addr := BitVec 48

/-- The three supplies the always-on manager sequences (R55). -/
inductive Rail where
  | core | sys | io
  deriving DecidableEq, Repr, Inhabited

/-- What the core regulator answers to VOUT_MODE (R61). -/
inductive VoutReply where
  | ulinear16 | otherFormat | noAnswer
  deriving DecidableEq, Repr, Inhabited

/-- The instructions of the JTAG port (R84). -/
inductive JtagIr where
  | bypass | idcode | sample | extest
  deriving DecidableEq, Repr, Inhabited

/-- One tuning record that a migration routine converts (R114, R115): the old record's address, the new record's
version and payload. -/
structure Conversion where
  oldAt : Nat
  ver : Nat
  payload : List Byte
  deriving DecidableEq, Repr, Inhabited

/-- How the MIGRATE section of an image ended, with the records whose version it did not know (by address), or that it still
runs after these conversions (R115, R116). -/
inductive Migration where
  | completed (done : List Conversion) (unknown : List Nat)
  | running (done : List Conversion)
  deriving DecidableEq, Repr, Inhabited

/-- What the outside decides at a logic-die reset release: the strap lands (R73), uncorrectable errors met while an
image is read (R101), firmware loads that fail (R93) and what the migration routine does (R115). -/
structure BootEnv where
  bootSel : BitVec 2
  eccS1A : Bool
  eccS1B : Bool
  eccA : Bool
  eccB : Bool
  eccRec : Bool
  failP0 : Nat
  failP1 : Nat
  failF : Nat
  /-- Ports whose PHY firmware fails to start (fault 0x6008). -/
  phyFail : BitVec 15
  /-- A pair-wise consistency test of the attestation keys fails (R590). -/
  attFail : Bool
  migration : Migration
  deriving DecidableEq, Repr, Inhabited

/-- One fuse that a provisioning image programs (R119). -/
inductive Provision where
  | anchor (i : Fin 4) (value : BitVec 384)
  | revoke (i : Fin 4)
  | mfgClosed
  deriving DecidableEq, Repr, Inhabited

/-- A tag frame as the tasting receiver decodes it: the fields, the CRC received, and whether every half-bit run after
the start delimiter lasted 50 µs or 100 µs (R209, R212). -/
structure TagFrame where
  id : BitVec 64
  typ : BitVec 16
  crc : BitVec 8
  runsOk : Bool
  deriving DecidableEq, Repr, Inhabited

/-- A Classical CAN frame as a listening transceiver sees it (R411). -/
structure WakeFrame where
  ide : Bool
  id : BitVec 29
  remote : Bool
  dlc : BitVec 4
  data : BitVec 64
  deriving DecidableEq, Repr, Inhabited

/-- What a listening transceiver makes of a frame that does not wake (R412). -/
inductive SwFrame where
  | correct (f : WakeFrame) | errored | fdOrXl
  deriving DecidableEq, Repr, Inhabited

/-- A frame of any bus, as its frame slot carries it (R230): kinds 1 classical CAN, 2 CAN FD, 3 CAN XL, 4 LIN, 5 Ethernet. -/
structure Frame where
  kind : Nat := 1
  ide : Bool := false
  rtr : Bool := false
  brs : Bool := false
  esi : Bool := false
  xlSec : Bool := false
  rrs : Bool := false
  linClassic : Bool := false
  id : BitVec 32 := 0
  data : List Byte := []
  time : BitVec 32 := 0
  sub : Nat := 0
  tsValid : Bool := true
  sdt : Byte := 0
  vcid : Byte := 0
  af : BitVec 32 := 0
  ingress : Nat := 0
  deriving DecidableEq, Repr, Inhabited

/-- How a LIN response ended (LIN_STAT.LERR): 1 bit, 2 checksum, 3 no response, 4 incomplete, 5 sync, 6 parity, 7 framing. -/
abbrev LinErr := Fin 8

/-- CAN controller CAN0–CAN15. -/
abbrev Can := Fin 16
/-- LIN controller LIN0–LIN7. -/
abbrev Lin := Fin 8

/-- What the ECC of a memory word shows when it is read (R698). -/
inductive EccResult where
  | clean | corrected | uncorrectable
  deriving DecidableEq, Repr, Inhabited

/-- Where the word lies whose ECC result a reader meets: on the fabric, in a cache line of system SRAM that hart `h` uses (R549),
in the message RAM of a CAN controller, at the head of its transmit FIFO (0) or of receive queue 0 or 1 (1, 2; R698), or in the
switch buffer, in the frame at the head of queue `k` of port `p` (R460). -/
inductive EccSite where
  | word (addr : Addr) | cache (h : Fin 8) (addr : Addr) (dirty : Bool) | canRam (n : Fin 16) (q : Fin 3)
  | swBuffer (p : Fin 16) (k : Nat)
  deriving DecidableEq, Repr, Inhabited

/-- Which world setting a write names (R578). -/
inductive FillReg where
  | flSram | flMram | labelEn | label (n : Fin 512)
  deriving DecidableEq, Repr, Inhabited

/-! ### Hart instructions (R544, R561) -/

/-- Integer operations of RV64IM, Zba, Zbb, Zbs and Zicond but orc.b: classes 1 to 4 of R561. -/
inductive AluOp where
  | add | sub | and | or | xor | slt | sltu | addw | subw
  | andn | orn | xnor | min | max | minu | maxu | sextb | sexth | zexth | clz | ctz | cpop | clzw | ctzw | cpopw
  | sh1add | sh2add | sh3add | adduw | sh1adduw | sh2adduw | sh3adduw | slliuw | czeroeqz | czeronez
  | sll | srl | sra | sllw | srlw | sraw | rol | ror | rolw | rorw | bset | bclr | binv | bext | rev8
  | mul | mulh | mulhu | mulhsu | mulw
  | div | divu | rem | remu | divw | divuw | remw | remuw
  deriving DecidableEq, Repr, Inhabited

/-- Branch conditions. -/
inductive BrCond where
  | eq | ne | lt | ge | ltu | geu
  deriving DecidableEq, Repr, Inhabited

/-- Atomic memory operations. -/
inductive AmoOp where
  | swap | add | and | or | xor | min | max | minu | maxu
  deriving DecidableEq, Repr, Inhabited

/-- A second operand: a register or an immediate. -/
inductive Src2 where
  | reg (r : Fin 32) | imm (v : BitVec 64)
  deriving DecidableEq, Repr, Inhabited

/-- How an access is translated where translation is in force (Sv39, Sv48 and their G stages): by a walk of the page tables
as they stand, or from the TLB where it still holds the page. -/
inductive Xlate where
  | walk | tlb
  deriving DecidableEq, Repr, Inhabited

/-- What a CSR instruction does with its operand. -/
inductive CsrOp where
  | write | set | clear
  deriving DecidableEq, Repr, Inhabited

/-- One instruction of the profile of R544, by what it does. `guest` marks HLV and HSV. -/
inductive HartOp where
  | int (op : AluOp) (rd rs1 : Fin 32) (src2 : Src2)
  | orcb (rd rs1 : Fin 32)
  | lui (rd : Fin 32) (v : BitVec 64)
  | auipc (rd : Fin 32) (v : BitVec 64)
  | load (rd rs1 : Fin 32) (off : BitVec 64) (l2 : Fin 4) (signed guest : Bool) (tr : Xlate)
  /-- HLVX of 2 or, with `wide`, 4 bytes. -/
  | hlvx (rd rs1 : Fin 32) (wide : Bool) (tr : Xlate)
  | store (rs1 rs2 : Fin 32) (off : BitVec 64) (l2 : Fin 4) (guest : Bool) (tr : Xlate)
  | fload (fd rs1 : Fin 32) (off : BitVec 64) (wide : Bool) (tr : Xlate)
  | fstore (rs1 fs2 : Fin 32) (off : BitVec 64) (wide : Bool) (tr : Xlate)
  | lr (rd rs1 : Fin 32) (wide : Bool) (tr : Xlate)
  | sc (rd rs1 rs2 : Fin 32) (wide : Bool) (tr : Xlate)
  | amo (op : AmoOp) (rd rs1 rs2 : Fin 32) (wide : Bool) (tr : Xlate)
  | branch (c : BrCond) (rs1 rs2 : Fin 32) (off : BitVec 64)
  | jal (rd : Fin 32) (off : BitVec 64)
  | jalr (rd rs1 : Fin 32) (off : BitVec 64)
  /-- Floating point by its instruction word: result in a floating-point register, in an integer register, and from one. -/
  | fp (word : BitVec 32) (fd fs1 fs2 fs3 : Fin 32)
  | fpToX (word : BitVec 32) (rd fs1 fs2 : Fin 32)
  | xToFp (word : BitVec 32) (fd rs1 : Fin 32)
  | csr (op : CsrOp) (rd : Fin 32) (csr : BitVec 12) (src : Src2)
  | fence | fenceI | wfi | ecall | ebreak | mret | sret
  /-- SFENCE.VMA, and HFENCE.VVMA or HFENCE.GVMA. -/
  | sfence | hfence
  /-- Any word outside the profile. -/
  | illegal (word : BitVec 32)
  /-- In place of an instruction, the pending and enabled interrupt of the highest priority is taken. -/
  | interrupt
  deriving DecidableEq, Repr, Inhabited

/-- A hart instruction in its place: its length, how its fetch is translated, the bits by which the second copies of
its two runs are upset (R561, R565), whether the parity of its access's tags fails (R20), and whether a comparator
self-test that it sets off passes (R563). -/
structure HartStep where
  op : HartOp
  compressed : Bool := false
  fetch : Xlate := .walk
  upset : BitVec 64 := 0
  upsetRetry : BitVec 64 := 0
  tagFail : Bool := false
  detects : Bool := true
  deriving DecidableEq, Repr, Inhabited

/-- What a DMI access asks of the debug module (R556, R559): halts, resumes and halt-on-reset, registers by abstract register number,
a word of the program buffer, an instruction run from it, and system bus access, whose tags' parity may fail (R20). -/
inductive DmiOp where
  | haltReq (h : HartId) | resumeReq (h : HartId) | resetHalt (h : HartId) (on : Bool)
  | readReg (h : HartId) (r : BitVec 16) | writeReg (h : HartId) (r : BitVec 16) (v : BitVec 64)
  | progWrite (k : Fin 8) (v : Word) | progRead (k : Fin 8) | progExec (h : HartId) (i : HartStep)
  | sbRead (addr : Addr) (bytes : Nat) (tagFail : Bool) | sbWrite (addr : Addr) (bytes : Nat) (data : BitVec 64) (tagFail : Bool)
  deriving DecidableEq, Repr, Inhabited

/-- What the storage controller finds of a block it samples or a host has read (R653): its region, bit corrections of the
sampled codeword and of a host read, and reads since its last erase. -/
structure ScrubSample where
  data : Bool
  corrections : Nat
  hostCorrections : Nat
  reads : Nat
  /-- The block sampled, and the one into which a refresh rewrites its `valid` 4 KiB blocks. -/
  blk : Nat
  dest : Nat
  valid : Nat
  deriving DecidableEq, Repr, Inhabited

/-- A NAND program or erase that ends: of the buffered block at place `k` into block `b`, of `n` blocks moved within a
region into its block `b`, or an erase of block `b` of a region. -/
inductive NandOp where
  | program (k b : Nat) | move (data : Bool) (n b : Nat) | erase (data : Bool) (b : Nat)
  deriving DecidableEq, Repr, Inhabited

/-- How the tail of an Ethernet frame ends it: a correct FCS, a wrong one, the complement of the correct one (R442), a
receive error reported by the PHY, or an uncorrectable buffer error (R440, R460). -/
inductive EthTail where
  | good | fcs | marked | phy | ecc
  deriving DecidableEq, Repr, Inhabited

/-- The commands and events of the module, one constructor per row of the opcode table. Those that may wait at the
boundary of an island (R16) stand first: the compiler builds terms of the first 244 constructors only. -/
inductive Instr where
  /-- A write to a configuration, far-die or window register with no row of its own, checked for access, range and alignment and then applied (R24). -/
  | registerWrite (a : Acc) (addr : Addr) (bytes : Nat) (data : DWord)
  /-- A write with HELD set to an ownership register claims the resource or is refused (R32). -/
  | ownershipClaim (a : Acc) (addr : Addr) (func : BitVec 8)
  /-- A write with HELD clear to an ownership register releases the resource and sets off the release effects of the resource (R32). -/
  | ownershipRelease (a : Acc) (addr : Addr)
  /-- ISL_CTL.RESET requests an island reset, which clears that island's state with the effects the island needs (R40). -/
  | islReset (a : Acc) (i : Island)
  /-- A write of ISL_CTL.STOP stops an island's clock, or restarts it when STOP is cleared (R38). -/
  | islStop (a : Acc) (i : Island) (stop : Bool)
  /-- A write of ISL_CTL.GATE enables or disables idle clock gating for an island (R38). -/
  | islGate (a : Acc) (i : Island) (gate : Bool)
  /-- A write of ISL_CTL.FREQ changes the cluster clock, with VCORE moved in the order of R62 (R38). -/
  | islFreq (a : Acc) (i : Island) (freq : BitVec 7)
  /-- A write of PHY_PWR powers PHYs down or lets them train again (R38). -/
  | phyPowerWrite (a : Acc) (pd : Word)
  /-- A write of BANK_CTL.PENDING with PEND_BANK requests a trial of a bank at the next start (R105). -/
  | bankPend (a : Acc) (bank : Bool)
  /-- A write of BANK_CTL.CONFIRM during a trial makes the trial bank active and raises the anti-rollback floor (R106). -/
  | bankConfirm (a : Acc)
  /-- A write of SW_RESET.CHIP with the correct KEY causes a chip reset within 1 µs (R95). -/
  | swReset (a : Acc) (key : BitVec 16)
  /-- A write of CH_CTL.CLEAR moves a TRIPPED or LOCKED channel to OFF and sets RETRY_CNT to 0 (R128). -/
  | chClear (a : Acc) (c : Ch)
  /-- A write of CH_CTL.EN gives or withdraws the owner permit, which may start or stop the channel (R127). -/
  | chEn (a : Acc) (c : Ch) (en : Bool)
  /-- A write of CH_CTL.SW_ON changes the demand of a channel whose source is the register (R183). -/
  | chSwOn (a : Acc) (c : Ch) (on : Bool)
  /-- A write of CH_CFG, with PAR_EN, PAR_MASTER and DUAL deferred to the next entry to OFF (R166). -/
  | chCfgWrite (a : Acc) (c : Ch) (v : Word)
  /-- A read of MEAS_POP_LO returns the oldest FIFO sample and removes it, or returns EMPTY (R176). -/
  | measPop (a : Acc) (d : PDie)
  /-- A write of MEAS_CFG.OVF_RST sets OVF_CNT to 0 (R176). -/
  | measOvfRst (a : Acc) (d : PDie)
  /-- A write of MEAS_CFG.DEC sets the FIFO decimation and restarts its sample selection (R176). -/
  | measDecSet (a : Acc) (d : PDie) (dec : BitVec 10)
  /-- A write of CH_DRV selects a channel's demand source after the ownership checks of R184 and R185 (R184). -/
  | chDrvWrite (a : Acc) (c : Ch) (v : Word)
  /-- A write of SIN_CFG sets wetting and restarts the pulse series within 1 ms (R192). -/
  | sinCfgWrite (a : Acc) (n : Fin 32) (v : Word)
  /-- A read of the front-die MEAS_POP_LO pops the oldest sense-input sample (R194). -/
  | fmeasPop (a : Acc)
  /-- A write of FMEAS_CFG.OVF_RST sets the front-die OVF_CNT to 0 (R194). -/
  | fmeasOvfRst (a : Acc)
  /-- A write of CH_LIMP sets the limp policy, taking effect at once in limp-home (R202). -/
  | chLimpWrite (a : Acc) (c : Ch) (v : Word) (elapsed : Nat)
  /-- A write of LIMP_CTL.ADOPT switches every channel from its limp demand to its drive-source demand and ends limp-home (R205). -/
  | limpAdopt (a : Acc) (d : PDie)
  /-- A write of TS_CTL.GO queues a channel for tasting, or is refused with CONFLICT (R213). -/
  | tasteGo (a : Acc) (c : Ch)
  /-- A write of TS_CTL.ABORT ends a queued or running tasting with ABORTED (R214). -/
  | tasteAbort (a : Acc) (c : Ch)
  /-- Engine instruction frx, which takes the oldest frame from a receive port into the slot (R233). -/
  | frx (e : Eng) (t : Thr) (d : QReg) (a : QReg) (tagFail : Bool := false)
  /-- Engine instruction ftx, which checks the slot and sends it to a transmit port (R234). -/
  | ftx (e : Eng) (t : Thr) (d : QReg) (a : QReg) (tagFail : Bool := false)
  /-- Engine instruction csub, which submits a cipher job (R296). -/
  | csub (e : Eng) (t : Thr) (d : QReg) (a : QReg) (b : QReg) (tagFail : Bool := false)
  /-- Engine instruction lcmd, which writes a channel register (R259). -/
  | lcmd (e : Eng) (t : Thr) (d : QReg) (a : QReg) (b : QReg) (tagFail : Bool := false)
  /-- A write of T_CTL.START makes a HALTED, FAULTED or DEBUG thread READY at PC (R223). -/
  | threadStart (a : Acc) (e : Eng) (t : Thr) (pc : BitVec 14)
  /-- A write of T_CTL.HALT halts a thread at its next instruction boundary (R223). -/
  | threadHalt (a : Acc) (e : Eng) (t : Thr) (pc : BitVec 14)
  /-- A write of T_CTL.STEP issues one instruction and returns the thread to DEBUG (R269). -/
  | threadStep (a : Acc) (e : Eng) (t : Thr) (pc : BitVec 14)
  /-- A write of SE_CTL.HALT_ALL writes HALT to every thread of the engine (R223). -/
  | haltAll (a : Acc) (e : Eng)
  /-- A write of SE_CTL.IM_LOCK locks the engine's instruction memory (R262). -/
  | imLock (a : Acc) (e : Eng)
  /-- A write of T_DOOR sets doorbells of a thread (R238). -/
  | tDoorWrite (a : Acc) (e : Eng) (t : Thr) (v : Word)
  /-- A write of a thread's registers, flags or PC, accepted only while the thread is stopped (R268). -/
  | threadStateWrite (a : Acc) (e : Eng) (t : Thr) (off : Fin 32) (v : Word)
  /-- A write of DL_BIND binds or unbinds the thread that may queue edges on a drive line (R247). -/
  | dlBindWrite (a : Acc) (ln : Line) (v : Word)
  /-- A write of an MSUB register starts or stops a measurement subscription (R254). -/
  | msubWrite (a : Acc) (e : Eng) (j : Fin 16) (v : Word)
  /-- A write of MEAS_STAT.OVF_RST sets the engine FIFO's OVF_CNT to 0 (R255). -/
  | engineMeasOvfRst (a : Acc) (e : Eng)
  /-- A window write to engine instruction or data memory, checked against tags, lock and thread states (R261). -/
  | engineMemWindowWrite (a : Acc) (addr : Addr) (bytes : Nat) (data : DWord)
  /-- A window write to an entry's VALUE is dated, accepted or discarded, and may fire a decant schedule (R310). -/
  | cellarWindowValueWrite (a : Acc) (h : BitVec 16) (wide : Bool) (v : DWord)
  /-- A window write to words 4–7 of an entry changes its substitute, age limit, owner, watch or node link (R309). -/
  | cellarConfigWrite (a : Acc) (h : BitVec 16) (w : Fin 4) (wide : Bool) (v : DWord)
  /-- A write of DS_CFG, DS_GAP, DS_MAXG or DS_PHASE restarts a schedule's series (R329). -/
  | decantConfigWrite (a : Acc) (k : Fin 256) (r : Fin 4) (v : Word)
  /-- A write of CLR_CTL.CNT_RST sets CNT0–CNT7 to 0 (R353). -/
  | clrCntRst (a : Acc)
  /-- A write to word 0 of a routing entry commits the entry (R333). -/
  | routeEntryCommit (a : Acc) (e : Fin 2048) (v : Word)
  /-- A write to word 0 of a node-watch entry commits it, setting UNKNOWN and starting the timeout (R337). -/
  | nodeWatchCommit (a : Acc) (e : Fin 4096) (v : Word)
  /-- A write of SNAP_CTL.GO takes the cut instant and starts a Cellar snapshot (R348). -/
  | snapGo (a : Acc)
  /-- A write of SNAP_CTL.ABORT ends a running snapshot with ABORTED (R351). -/
  | snapAbort (a : Acc)
  /-- A write of CAN_CTL.MODE changes the controller mode, with OFF taking effect at the end of the frame in progress (R360). -/
  | canModeSet (a : Acc) (n : Can) (mode : Fin 8) (cntRst : Bool)
  /-- A write of CAN_CTL.CNT_RST sets the controller counters to 0 (R359). -/
  | canCntRst (a : Acc) (n : Can)
  /-- A write of CAN_CTL options or the bit-timing registers, accepted only in OFF (R359). -/
  | canConfigWrite (a : Acc) (n : Can) (r : Fin 5) (v : Word)
  /-- A write of CAN_RAM re-divides the message RAM and empties the FIFO and the queues (R364). -/
  | canRamWrite (a : Acc) (n : Can) (v : Word)
  /-- A write of CAN_TXC.RECOVER starts bus-off recovery at once (R382). -/
  | canRecover (a : Acc) (n : Can)
  /-- A write of CAN_TRX.TMODE changes the transceiver mode within 5 µs (R414). -/
  | canTmodeWrite (a : Acc) (n : Can) (m : Fin 8)
  /-- A write to word 0 of a filter element commits it (R377). -/
  | canFilterCommit (a : Acc) (n : Can) (e : Fin 64) (v : Word)
  /-- A write of TAT_HDR commits a slot's header, length and data and sets TAT_LDT (R371). -/
  | tatCommit (a : Acc) (n : Can) (k : Fin 8) (v : Word)
  /-- A write of TAT_TIME or TAT_PER restarts the slot's due series (R373). -/
  | tatTimeWrite (a : Acc) (n : Can) (k : Fin 8) (per : Bool) (v : Word)
  /-- A write of SCHED_CTL.ACT requests a bank switch at the end of the current slot (R393). -/
  | linSchedSwitch (a : Acc) (n : Lin) (act : Bool)
  /-- A write of LIN_CTL.WAKE sends a dominant wake-up signal of 1 ms (R394). -/
  | linWakeSend (a : Acc) (n : Lin)
  /-- A write of LIN_CTL.CNT_RST sets the LIN counters to 0 (R395). -/
  | linCntRst (a : Acc) (n : Lin)
  /-- A write of AO_CTL.SLEEP_REQ moves the manager to SLEEP_PENDING and arms the wake detectors (R401). -/
  | sleepReq (a : Acc)
  /-- A write of AO_CTL.CANCEL returns SLEEP_PENDING to AWAKE (R397). -/
  | sleepCancel (a : Acc)
  /-- A write of PORT_CTL.TC10_SLEEP sends a TC10 sleep request (R423). -/
  | tc10Sleep (a : Acc) (p : Fin 16)
  /-- A write of PORT_CTL.TC10_WUR sends a wake-up request on the medium (R423). -/
  | tc10Wur (a : Acc) (p : Fin 16)
  /-- A write of FDB_CMD.GO starts removal of the matching database entries (R434). -/
  | fdbFlush (a : Acc) (v : BitVec 32)
  /-- A write to word 0 of a database, VLAN, stream, meter, recovery or host class entry commits it (R430). -/
  | switchEntryCommit (a : Acc) (o : BitVec 20) (v : BitVec 32)
  /-- A write of BRES_CFG sets a buffer reservation and moves cells to or from the shared pool (R436). -/
  | bresCfgWrite (a : Acc) (r : Fin 16) (v : BitVec 32)
  /-- A write of TAS_CTL.CHANGE installs the admin gate list as pending (R447). -/
  | tasChange (a : Acc) (p : Fin 15) (v : BitVec 32)
  /-- A write to word 0 of a MACsec association commits it, after the key slot and packet-number checks (R456). -/
  | macsecSaCommit (a : Acc) (i : Fin 3) (ch : Fin 9) (an : Fin 4) (v : BitVec 32)
  /-- A write of ESW_CTL.SNAP copies every port counter into the shadow bank (R459). -/
  | counterSnapshot (a : Acc)
  /-- A write of TB_INC changes the time-base rate from the next tick (R465). -/
  | tbIncWrite (a : Acc) (v : BitVec 32)
  /-- A write of TB_STEP schedules a step and sets STEP_PEND (R466). -/
  | tbStepWrite (a : Acc) (v : BitVec 32)
  /-- A write of EV_CFG, EV_START, EV_PER or EV_WIDTH enables or restarts an event unit (R480). -/
  | evtConfigWrite (a : Acc) (k : Fin 4) (r : Fin 4) (v : BitVec 32)
  /-- A store to a Cask window's CK_PUT appends one item copied from system SRAM (R494). -/
  | ckPut (a : Acc) (n : Cask) (src : DWord)
  /-- A store to CK_GET copies the next or the idle item, with a trailer, to system SRAM (R493). -/
  | ckGet (a : Acc) (n : Cask) (dst : DWord)
  /-- A store to CK_MARK sets the rewind mark (R495). -/
  | ckMark (a : Acc) (n : Cask)
  /-- A store to CK_REWIND returns RD to the mark (R497). -/
  | ckRewind (a : Acc) (n : Cask)
  /-- A store to CK_REL releases taken items (R495). -/
  | ckRel (a : Acc) (n : Cask) (count : DWord)
  /-- A read of CK_FILL returns the Cask's available, held and mark state (R491). -/
  | ckFill (a : Acc) (n : Cask)
  /-- A write of CK_CFG, CK_BASE or CK_DEPTH reconfigures an empty Cask and sets its counters to 0 (R500). -/
  | caskConfigWrite (a : Acc) (n : Cask) (r : Fin 3) (v : Word)
  /-- A write of CK_CTL.CLEAR discards every item once any transfer in progress has ended (R500). -/
  | caskClear (a : Acc) (n : Cask)
  /-- A write of a slice quota register sets Q and G, or is refused (R502). -/
  | quotaWrite (a : Acc) (t : Tid) (r : Fin 5) (v : Word)
  /-- A write of HART_TIDh assigns a hart to a tenant for its later transactions (R504). -/
  | hartTidWrite (a : Acc) (h : HartId) (tid : Tid)
  /-- A write of TH_SLICE assigns an engine thread to a tenant, or is refused (R505). -/
  | thSliceWrite (a : Acc) (e : Eng) (t : Thr) (v : Word)
  /-- A write of TN_CFG enables or disables a tenant or sets its world (R510). -/
  | tenantConfigWrite (a : Acc) (t : Tid) (v : Word)
  /-- The manager sets DOWN_SEND; DOWN_FULL is set and an MSI goes to the tenant (R507). -/
  | mbDownSend (a : Acc) (t : Tid)
  /-- The tenant sets UP_SEND; UP_FULL is set and the manager is interrupted (R507). -/
  | mbUpSend (a : Acc) (t : Tid)
  /-- The tenant writes DOWN_ACK, which clears DOWN_FULL (R507). -/
  | mbDownAck (a : Acc) (t : Tid)
  /-- The manager writes UP_ACK, which clears UP_FULL (R507). -/
  | mbUpAck (a : Acc) (t : Tid)
  /-- A write of TN_CTL.RESET starts a tenant reset and stops the tenant's work in every shared engine (R511). -/
  | tenantReset (a : Acc) (t : Tid)
  /-- A write to a posted window is accepted by the bridge, sent and left outstanding (R520). -/
  | bridgePostedWrite (a : Acc) (addr : Addr) (bytes : Fin 9) (data : DWord)
  /-- A non-posted read or write reaches a bridge; it waits behind earlier posted writes, is checked for poison and is sent or served from prefetch (R522). -/
  | bridgeNonpostedAccess (a : Acc) (write : Bool) (addr : Addr) (bytes : Fin 9) (data : DWord)
  /-- An LR.W through a bridge makes a locked read that takes the far semaphore (R529). -/
  | bridgeLr (a : Acc) (addr : Addr) (d : Bool)
  /-- An SC.W through a bridge writes and releases when the semaphore is still held (R529). -/
  | bridgeSc (a : Acc) (addr : Addr) (d : Bool) (v : DWord)
  /-- An AMO through a bridge makes a locked read, a computation and an unlocking write (R529). -/
  | bridgeAmo (a : Acc) (addr : Addr) (d : Bool) (k : Fin 9) (v : DWord)
  /-- A write of WIN_CFG or WIN_BASE sets a window, or is refused for overlap or outstanding writes (R517). -/
  | windowConfigWrite (a : Acc) (b : Fin 4) (k : Fin 16) (base : Bool) (v : Word)
  /-- A write of 1 to WIN_CFG.POISON clears poison when no posted write is outstanding (R537). -/
  | poisonClear (a : Acc) (b : Fin 4) (k : Fin 16)
  /-- A write of ERR_CTL.NEXT removes the oldest error record (R535). -/
  | errRecordNext (a : Acc) (b : Fin 4)
  /-- A hart executes an RV64GCH instruction, in second pressing with mirror comparison when ACTIVE (R544). -/
  | hartInstruction (h : HartId) (i : HartStep)
  /-- A hart executes WCALL, which enters the monitor or raises an exception by world and mode (R572). -/
  | wcall (h : HartId) (upset : DWord) (upsetRetry : DWord)
  /-- A DMI access of the DTM reaches the debug module, or fails while debug is closed (R559). -/
  | dmiAccess (op : DmiOp)
  /-- A write of a fill line, LABEL_EN or a label word propagates to every cluster copy within 2 µs (R578). -/
  | fillLineWrite (a : Acc) (r : FillReg) (v : Word)
  /-- A write of WCU_CTL.LOCK locks the world settings (R579). -/
  | wcuLock (a : Acc)
  /-- A write of RWD_CTL.EN arms the Reserve watchdog (R583). -/
  | rwdEnable (a : Acc) (v : Word)
  /-- A write of RWD_KICK restarts the watchdog count, or expires the watchdog when the key or spacing is wrong (R583). -/
  | rwdKick (a : Acc) (key : BitVec 16) (high : BitVec 16)
  /-- KST_CMD APPLY checks a key update message and starts its commit (R600). -/
  | kstApply (a : Acc)
  /-- KST_CMD ERASE erases a slot (R607). -/
  | kstErase (a : Acc) (n : BitVec 8)
  /-- KST_CMD LOAD_PLAIN wraps and commits a plain key in manufacturing (R602). -/
  | kstLoadPlain (a : Acc) (n : BitVec 8)
  /-- A write of SLOT_GRANT commits a new persistent record with the grant (R598). -/
  | slotGrantWrite (a : Acc) (n : BitVec 8) (v : BitVec 32)
  /-- A write of ATT_CTL.GO starts signing an attestation statement (R625). -/
  | attGo (a : Acc)
  /-- A write of STG_CTL.EN starts the controller and its journal replay (R641). -/
  | stgEnable (a : Acc)
  /-- A write of QP_CFG enables a queue pair after the Cask checks (R633). -/
  | qpConfigWrite (a : Acc) (q : Fin 16) (v : BitVec 32)
  /-- A write of PRM_CTL.START makes the module SOLO or starts arbitration (R660). -/
  | prmStart (a : Acc)
  /-- A write of PRM_CTL.WAKE sends a 1 ms wake request on PAIR_HBO (R663). -/
  | pairWake (a : Acc)
  /-- A BR_REQ frame is run against the import mapping and answered with a BR_RSP (R672). -/
  | pairBrReq (tagFail : Bool := false)
  /-- A write of PRM_CTL.GO starts a vintage with a snapshot (R674). -/
  | vintageGo (a : Acc)
  /-- A write of PRM_CTL.HANDOVER starts a hand-over to a HOME module (R679). -/
  | handover (a : Acc)
  /-- A write to word 0 of an escalation entry commits it (R689). -/
  | escalationCommit (a : Acc) (k : Fin 32) (v : Word)
  /-- A write of FC_CTL.SAFE_CLR leaves the safe state and releases FLT_N (R692). -/
  | safeClr (a : Acc)
  /-- A write of FC_INJ makes a record of the named fault (R697). -/
  | fcInj (a : Acc) (id : BitVec 16)
  /-- A core's 64-bit store to CPH_SUBMIT submits a cipher job, checked for Cask, slice and job entry (R611). -/
  | cphSubmit (a : Acc) (v : BitVec 64)
  /-- VBAT_AO rises above 3.0 V; the always-on manager leaves power-on reset and everything starts from reset values (R55). -/
  | powerOnReset
  /-- After power-on reset or a wake, the always-on manager asserts REG_EN_CORE and starts the power-up sequence (R55). -/
  | regEnCoreAssert (pairSel : Bool)
  /-- A PG input is asserted, which starts the 0.5 ms or 1.0 ms delay of the next power-up step (R55). -/
  | pgInputAsserted (r : Rail)
  /-- The delay after a PG input expires, so the next REG_EN is asserted or, after PG_IO, the logic die is released (R55). -/
  | powerUpStepDelayExpiry
  /-- The logic die and RSTN_OUT are released: core 0 starts in the boot ROM, the straps are sampled, the time base starts at 0 and the awake timer starts (R86). -/
  | logicResetRelease (env : BootEnv)
  /-- A PG input is not asserted within 10 ms of its REG_EN; the enables are dropped and a retry is scheduled, or after three attempts the manager gives up (R56). -/
  | pgTimeout
  /-- The 100 ms wait after a failed power-up attempt expires, and the power-up sequence is repeated (R56). -/
  | powerUpRetryExpiry
  /-- An asserted PG input stays low for more than 20 µs; the logic die is held in reset, the rails are dropped and the power-up is run again (R57). -/
  | pgLoss (r : Rail)
  /-- During power-down, an enable falls when its successor's PG has gone low or 2 ms after that successor's REG_EN fell (R58). -/
  | regEnDropStep
  /-- The one read of VOUT_MODE after PG_IO completes; an unsupported format or no answer caps both clusters at 1.5 GHz (R61). -/
  | pmbusVoutModeRead (reply : VoutReply)
  /-- The next VCORE step of at most 25 mV becomes due after 20 µs during a frequency change (R62). -/
  | vcoreStep
  /-- A low level on RSTN of 10 µs or more causes a chip reset (R75). -/
  | rstnPinReset (lowNs : Nat) (taken : Bool)
  /-- The 1.0 ms hold of a chip reset without PG loss expires, and the logic die and RSTN_OUT are released (R95). -/
  | chipResetRelease (env : BootEnv)
  /-- EXTEST is selected at the JTAG port and holds the logic die in chip reset for as long as it is selected (R84). -/
  | jtagExtest
  /-- A die-to-die flit arrives with a CRC error and is replayed (R11). -/
  | flitCrcError (k : Link)
  /-- A lane fails training or exceeds 16 replays in 1 ms; the link retrains on fewer lanes and fault 0x0005 is reported (R12). -/
  | linkRetrain (k : Link) (lanes : Nat)
  /-- A die-to-die link has carried no valid flit for 2 ms; the far power die enters limp-home and the bridge marks the link lost (R13). -/
  | linkSilentTimeout (k : Link)
  /-- A die link carries valid flits again; LINK is set and the far die's buffered fault records are delivered (R539). -/
  | linkRestored (k : Link)
  /-- A transaction has waited 10 µs at the boundary of a reset or stopped island, and completes with TIMEOUT (R16). -/
  | islandTransactionTimeout (i : Island)
  /-- An island PLL loses lock, which reports fault 0x0007 of severity RESET (R45). -/
  | pllLockLost (i : Island)
  /-- The 25 MHz reference is lost; the PLLs are held on the RC oscillator and fault 0x0008 is reported (R45). -/
  | referenceClockLost
  /-- The 2 µs island reset hold expires, and the island begins to return to accepting transactions (R38). -/
  | islandResetRelease (i : Island)
  /-- The migration routine has run for 200 ms; stage 1 stops it and records the image as migrated (R116). -/
  | migrationTimeout
  /-- A provisioning image written through the debug port in manufacturing mode is checked and, once it passes, started (R119). -/
  | mfgProvisionImage (base : Addr) (ecc : Bool) (prog : List Provision)
  /-- TRIAL_WIN seconds pass without CONFIRM, and RBC causes a chip reset with cause TRIAL (R107). -/
  | trialExpiry
  /-- A drive input changes level after deglitching, and the demands of the channels that follow it change (R187). -/
  | dinEdge (k : Fin 16) (level : Bool)
  /-- A SOFT_ON output comes within 0.5 V of VBAT_Px with the gate fully enhanced, and the channel enters ON (R128). -/
  | softOnComplete (c : Ch)
  /-- A soft turn-on has not reached ON within its limit, and trips with cause SOFT_TO (R133). -/
  | softTurnOnTimeout (c : Ch) (also : List Nat := [])
  /-- The inrush window expires, and OC_TH applies again with the over-current filter restarted (R134). -/
  | inrushWindowClose (c : Ch)
  /-- The current exceeds its active threshold, or holds at the hard limit, for the filter time, and the channel trips with OC or INR (R135). -/
  | ocTrip (c : Ch) (also : List Nat)
  /-- A channel's current reaches its hard limit; the die regulates it at that limit and sets HARD_LIM (R136). -/
  | hardLimitEntry (c : Ch)
  /-- Every 100 µs the wire state is updated from the mean current, which may trip WIRE or clear the wire latch (R138). -/
  | wireModelUpdate (c : Ch) (mA : Int)
  /-- The junction rises above 150 °C and T_WARN is set, or falls below 145 °C and T_WARN clears (R141). -/
  | thermalWarn (c : Ch) (above : Bool)
  /-- The junction rises above T_SD; the thermal latch is set, which is a THERMAL trip in SOFT_ON and ON (R701). -/
  | thermalShutdown (c : Ch) (also : List Nat := [])
  /-- The junction falls below T_SD − 15 K and the thermal latch clears (R142). -/
  | thermalLatchClear (c : Ch)
  /-- VBAT_Px stays below UV_TH for 10 µs; undervoltage is signalled and channels in SOFT_ON or ON enter UV_OFF (R144). -/
  | uvDetect (d : PDie)
  /-- VBAT_Px stays at or above UV_TH + 0.5 V for 1 ms; undervoltage clears and the restart stagger starts (R145). -/
  | uvClear (d : PDie)
  /-- A 100 µs stagger slot begins, and up to 8 eligible channels restart in priority order (R147). -/
  | staggerSlot (d : PDie)
  /-- RETRY_DLY has elapsed since a protective turn-off, and the channel restarts when every restart condition holds (R151). -/
  | retryDelayExpiry (c : Ch)
  /-- RETRY_GOOD has passed since the last automatic restart without a trip, and RETRY_CNT returns to 0 (R155). -/
  | retryGoodExpiry (c : Ch)
  /-- Reverse current above the class level for 5 µs opens the reverse-blocking half of an ON channel (R159). -/
  | reverseCurrentBlock (c : Ch)
  /-- VBAT_Px exceeds the output by 20 mV, and forward conduction resumes (R159). -/
  | reverseBlockRelease (c : Ch)
  /-- VBAT_Px lies more than 2 V below PGND_Px; light channels are turned on and REV_BAT is set (R161). -/
  | reverseBattery (d : PDie)
  /-- A parallel member's current differs from the group mean by more than 25 % for 100 ms, and fault 0x8010 is reported (R165). -/
  | parShareFault (c : Ch)
  /-- A power die's control supply fails; its registers and wire states return to reset values (R180). -/
  | dieSupplyLoss (d : PDie)
  /-- Every 47 ms a calibrated converter takes over a channel and the relieved converter starts calibrating (R170). -/
  | converterHandover (d : PDie)
  /-- A 94 ms converter calibration ends; a failed one retires the converter (R171). -/
  | calibrationComplete (d : PDie) (slotB : Bool) (ok : Bool)
  /-- A measurement window ends; the sample goes to the latest-value registers, the FIFO and the on-state diagnostics (R175). -/
  | measSample (c : Ch) (kind : Fin 5) (value : Int) (time : Word)
  /-- I_SUM and P_EST are updated, and SUM_OVER and P_OVER are set or cleared with their faults (R177). -/
  | dieMonitorUpdate (d : PDie) (iSum : Bool) (pEst : Bool)
  /-- A drive-line edge reaches the power die; it is scheduled at its instant or, when late, applied at once and counted (R188). -/
  | driveEdgeReceive (ln : Line)
  /-- The die's time copy reaches a queued edge's instant; the edge changes the demand and frees its queue entry (R188). -/
  | driveEdgeApply (ln : Line)
  /-- No edge has reached the die for TMO ms; SAFE is applied as the line's level and fault 0x4008 is reported (R251). -/
  | driveLineTimeout (ln : Line)
  /-- A sense-input sample is taken, continuously or at the end of a wetting pulse, debounced and delivered (R191). -/
  | sinSample (n : Fin 32) (value : Int) (time : Word)
  /-- An off-state evaluation falls due; the pull-up is connected in OFF, or SHORT_BAT is evaluated without it (R197). -/
  | offDiagEvalStart (c : Ch) (vout : Int)
  /-- 500 µs after the pull-up connects, VOUT is compared and the SHORT_BAT and OPEN_OFF counts move (R197). -/
  | offDiagEvalCompare (c : Ch) (vout : Int)
  /-- The hold window expires; HOLD channels take demand off and fault 0x8045 is reported (R202). -/
  | holdWindowExpiry (d : PDie) (elapsed : Nat)
  /-- The probe source takes the next queued channel, which enters TASTE with the probe on (R215). -/
  | tasteStart (d : PDie)
  /-- 1 ms after probe-on, VOUT is checked, and a value out of range ends the tasting with LOW_Z or EXT_V (R215). -/
  | tasteVoutCheck (d : PDie) (vout : Int)
  /-- VOUT stays outside the probe range for 200 µs, and the tasting ends with LOW_Z or EXT_V (R215). -/
  | tasteVoutFault (d : PDie) (high : Bool)
  /-- No start delimiter is seen 12 ms after probe-on, and the tasting ends with NO_ANSWER (R215). -/
  | tasteNoAnswer (d : PDie)
  /-- A tag frame is decoded, checked and counted toward TRIES, and may decide the tasting result (R216). -/
  | tasteFrame (d : PDie) (f : TagFrame)
  /-- After a tasting ends, the probe is off and the output discharged; the channel returns to OFF and TASTE_DONE is set (R215). -/
  | tasteEnd (d : PDie)
  /-- Engine instruction add (R278). -/
  | add (e : Eng) (t : Thr) (d : QReg) (a : QReg) (b : QReg)
  /-- Engine instruction adds, signed saturating add (R278). -/
  | adds (e : Eng) (t : Thr) (d : QReg) (a : QReg) (b : QReg)
  /-- Engine instruction addsu, unsigned saturating add (R278). -/
  | addsu (e : Eng) (t : Thr) (d : QReg) (a : QReg) (b : QReg)
  /-- Engine instruction sub (R278). -/
  | sub (e : Eng) (t : Thr) (d : QReg) (a : QReg) (b : QReg)
  /-- Engine instruction subs, signed saturating subtract (R278). -/
  | subs (e : Eng) (t : Thr) (d : QReg) (a : QReg) (b : QReg)
  /-- Engine instruction subsu, unsigned saturating subtract (R278). -/
  | subsu (e : Eng) (t : Thr) (d : QReg) (a : QReg) (b : QReg)
  /-- Engine instruction and (R278). -/
  | and (e : Eng) (t : Thr) (d : QReg) (a : QReg) (b : QReg)
  /-- Engine instruction andn (R278). -/
  | andn (e : Eng) (t : Thr) (d : QReg) (a : QReg) (b : QReg)
  /-- Engine instruction or (R278). -/
  | or (e : Eng) (t : Thr) (d : QReg) (a : QReg) (b : QReg)
  /-- Engine instruction orn (R278). -/
  | orn (e : Eng) (t : Thr) (d : QReg) (a : QReg) (b : QReg)
  /-- Engine instruction xor (R278). -/
  | xor (e : Eng) (t : Thr) (d : QReg) (a : QReg) (b : QReg)
  /-- Engine instruction xnor (R278). -/
  | xnor (e : Eng) (t : Thr) (d : QReg) (a : QReg) (b : QReg)
  /-- Engine instruction sll, shift left logical (R278). -/
  | sll (e : Eng) (t : Thr) (d : QReg) (a : QReg) (b : QReg)
  /-- Engine instruction srl, shift right logical (R278). -/
  | srl (e : Eng) (t : Thr) (d : QReg) (a : QReg) (b : QReg)
  /-- Engine instruction sra, shift right arithmetic (R278). -/
  | sra (e : Eng) (t : Thr) (d : QReg) (a : QReg) (b : QReg)
  /-- Engine instruction ror, rotate right (R278). -/
  | ror (e : Eng) (t : Thr) (d : QReg) (a : QReg) (b : QReg)
  /-- Engine instruction min, signed (R278). -/
  | min (e : Eng) (t : Thr) (d : QReg) (a : QReg) (b : QReg)
  /-- Engine instruction max, signed (R278). -/
  | max (e : Eng) (t : Thr) (d : QReg) (a : QReg) (b : QReg)
  /-- Engine instruction minu, unsigned (R278). -/
  | minu (e : Eng) (t : Thr) (d : QReg) (a : QReg) (b : QReg)
  /-- Engine instruction maxu, unsigned (R278). -/
  | maxu (e : Eng) (t : Thr) (d : QReg) (a : QReg) (b : QReg)
  /-- Engine instruction slt, signed set-less-than (R278). -/
  | slt (e : Eng) (t : Thr) (d : QReg) (a : QReg) (b : QReg)
  /-- Engine instruction sltu, unsigned set-less-than (R278). -/
  | sltu (e : Eng) (t : Thr) (d : QReg) (a : QReg) (b : QReg)
  /-- Engine instruction mul, low product (R278). -/
  | mul (e : Eng) (t : Thr) (d : QReg) (a : QReg) (b : QReg)
  /-- Engine instruction mulh, signed high product (R278). -/
  | mulh (e : Eng) (t : Thr) (d : QReg) (a : QReg) (b : QReg)
  /-- Engine instruction mulhu, unsigned high product (R278). -/
  | mulhu (e : Eng) (t : Thr) (d : QReg) (a : QReg) (b : QReg)
  /-- Engine instruction mulsh, shifted, rounded and saturated fixed-point multiply (R279). -/
  | mulsh (e : Eng) (t : Thr) (d : QReg) (a : QReg) (b : QReg) (sh : Fin 32)
  /-- Engine instruction div, signed quotient (R279). -/
  | div (e : Eng) (t : Thr) (d : QReg) (a : QReg) (b : QReg)
  /-- Engine instruction divu, unsigned quotient (R279). -/
  | divu (e : Eng) (t : Thr) (d : QReg) (a : QReg) (b : QReg)
  /-- Engine instruction rem, signed remainder (R279). -/
  | rem (e : Eng) (t : Thr) (d : QReg) (a : QReg) (b : QReg)
  /-- Engine instruction remu, unsigned remainder (R279). -/
  | remu (e : Eng) (t : Thr) (d : QReg) (a : QReg) (b : QReg)
  /-- Engine instruction neg (R278). -/
  | neg (e : Eng) (t : Thr) (d : QReg) (a : QReg)
  /-- Engine instruction negs, saturating negate (R278). -/
  | negs (e : Eng) (t : Thr) (d : QReg) (a : QReg)
  /-- Engine instruction abs (R278). -/
  | abs (e : Eng) (t : Thr) (d : QReg) (a : QReg)
  /-- Engine instruction abss, saturating absolute value (R278). -/
  | abss (e : Eng) (t : Thr) (d : QReg) (a : QReg)
  /-- Engine instruction clz, count leading zeros (R278). -/
  | clz (e : Eng) (t : Thr) (d : QReg) (a : QReg)
  /-- Engine instruction ctz, count trailing zeros (R278). -/
  | ctz (e : Eng) (t : Thr) (d : QReg) (a : QReg)
  /-- Engine instruction popc, population count (R278). -/
  | popc (e : Eng) (t : Thr) (d : QReg) (a : QReg)
  /-- Engine instruction rev8, byte reverse (R278). -/
  | rev8 (e : Eng) (t : Thr) (d : QReg) (a : QReg)
  /-- Engine instruction sextb, sign-extend byte (R278). -/
  | sextb (e : Eng) (t : Thr) (d : QReg) (a : QReg)
  /-- Engine instruction sexth, sign-extend halfword (R278). -/
  | sexth (e : Eng) (t : Thr) (d : QReg) (a : QReg)
  /-- Engine instruction zexth, zero-extend halfword (R278). -/
  | zexth (e : Eng) (t : Thr) (d : QReg) (a : QReg)
  /-- Engine instruction sats, signed saturate to n bits (R278). -/
  | sats (e : Eng) (t : Thr) (d : QReg) (a : QReg) (n : Fin 32) (x : QReg)
  /-- Engine instruction satu, unsigned saturate to n bits (R278). -/
  | satu (e : Eng) (t : Thr) (d : QReg) (a : QReg) (n : Fin 32) (x : QReg)
  /-- Engine instruction cmp, which sets flags as sub (R278). -/
  | cmp (e : Eng) (t : Thr) (a : QReg) (b : QReg)
  /-- Engine instruction tst, which sets flags as and (R278). -/
  | tst (e : Eng) (t : Thr) (a : QReg) (b : QReg)
  /-- Engine instruction crc, which advances a CRC state by 1, 2 or 4 bytes (R281). -/
  | crcStep (e : Eng) (t : Thr) (d : QReg) (a : QReg) (b : QReg) (poly : Fin 4) (n : Fin 3) (refl : Bool)
  /-- Engine instruction sel, conditional select (R278). -/
  | sel (e : Eng) (t : Thr) (d : QReg) (a : QReg) (b : QReg) (cond : Fin 15)
  /-- Engine instruction addi (R280). -/
  | addi (e : Eng) (t : Thr) (d : QReg) (a : QReg) (imm : BitVec 18)
  /-- Engine instruction andi (R280). -/
  | andi (e : Eng) (t : Thr) (d : QReg) (a : QReg) (imm : BitVec 18)
  /-- Engine instruction ori (R280). -/
  | ori (e : Eng) (t : Thr) (d : QReg) (a : QReg) (imm : BitVec 18)
  /-- Engine instruction xori (R280). -/
  | xori (e : Eng) (t : Thr) (d : QReg) (a : QReg) (imm : BitVec 18)
  /-- Engine instruction slli (R280). -/
  | slli (e : Eng) (t : Thr) (d : QReg) (a : QReg) (k : Fin 32)
  /-- Engine instruction srli (R280). -/
  | srli (e : Eng) (t : Thr) (d : QReg) (a : QReg) (k : Fin 32)
  /-- Engine instruction srai (R280). -/
  | srai (e : Eng) (t : Thr) (d : QReg) (a : QReg) (k : Fin 32)
  /-- Engine instruction rori (R280). -/
  | rori (e : Eng) (t : Thr) (d : QReg) (a : QReg) (k : Fin 32)
  /-- Engine instruction lui (R280). -/
  | lui (e : Eng) (t : Thr) (d : QReg) (imm : BitVec 18)
  /-- Engine instruction cmpi (R280). -/
  | cmpi (e : Eng) (t : Thr) (a : QReg) (imm : BitVec 18)
  /-- Engine instruction muli (R280). -/
  | muli (e : Eng) (t : Thr) (d : QReg) (a : QReg) (imm : BitVec 18)
  /-- Engine instruction ldb, byte load (R282). -/
  | ldb (e : Eng) (t : Thr) (d : QReg) (a : QReg) (imm : BitVec 18)
  /-- Engine instruction ldh, halfword load (R282). -/
  | ldh (e : Eng) (t : Thr) (d : QReg) (a : QReg) (imm : BitVec 18)
  /-- Engine instruction ldw, word load (R282). -/
  | ldw (e : Eng) (t : Thr) (d : QReg) (a : QReg) (imm : BitVec 18)
  /-- Engine instruction stb, byte store (R282). -/
  | stb (e : Eng) (t : Thr) (d : QReg) (a : QReg) (imm : BitVec 18)
  /-- Engine instruction sth, halfword store (R282). -/
  | sth (e : Eng) (t : Thr) (d : QReg) (a : QReg) (imm : BitVec 18)
  /-- Engine instruction stw, word store (R282). -/
  | stw (e : Eng) (t : Thr) (d : QReg) (a : QReg) (imm : BitVec 18)
  /-- Engine instruction bfx, unsigned bit-field extract (R283). -/
  | bfx (e : Eng) (t : Thr) (d : QReg) (a : QReg) (pos : Fin 2048) (len : Fin 32) (be : Bool)
  /-- Engine instruction bfxs, signed bit-field extract (R283). -/
  | bfxs (e : Eng) (t : Thr) (d : QReg) (a : QReg) (pos : Fin 2048) (len : Fin 32) (be : Bool)
  /-- Engine instruction bfi, atomic bit-field insert (R284). -/
  | bfi (e : Eng) (t : Thr) (d : QReg) (a : QReg) (pos : Fin 2048) (len : Fin 32) (be : Bool)
  /-- Engine instruction bcond, conditional branch (R285). -/
  | bcond (e : Eng) (t : Thr) (cond : Fin 15) (off : BitVec 22)
  /-- Engine instruction bl, branch with link (R285). -/
  | bl (e : Eng) (t : Thr) (off : BitVec 22)
  /-- Engine instruction jalr (R286). -/
  | jalr (e : Eng) (t : Thr) (d : QReg) (a : QReg) (imm : BitVec 18)
  /-- Engine instruction cbz (R285). -/
  | cbz (e : Eng) (t : Thr) (d : QReg) (off : BitVec 22)
  /-- Engine instruction cbnz (R285). -/
  | cbnz (e : Eng) (t : Thr) (d : QReg) (off : BitVec 22)
  /-- Engine instruction dbnz, decrement and branch (R285). -/
  | dbnz (e : Eng) (t : Thr) (d : QReg) (off : BitVec 22)
  /-- Engine instruction crd, Cellar read of value or time by immediate handle (R288). -/
  | crd (e : Eng) (t : Thr) (d : QReg) (handle : BitVec 16) (time : Bool)
  /-- Engine instruction crdr, Cellar read by register handle (R288). -/
  | crdr (e : Eng) (t : Thr) (d : QReg) (a : QReg) (time : Bool)
  /-- Engine instruction cwr, Cellar write by immediate handle (R290). -/
  | cwr (e : Eng) (t : Thr) (d : QReg) (a : QReg) (handle : BitVec 16) (rx : Bool)
  /-- Engine instruction cwrr, Cellar write by register handle (R290). -/
  | cwrr (e : Eng) (t : Thr) (d : QReg) (a : QReg) (b : QReg) (rx : Bool)
  /-- Room appears in a full transmit port, and a waiting ftx copies its frame and completes (R234). -/
  | ftxPortRoom (e : Eng) (t : Thr)
  /-- A waiting ftx sees no room for 1 ms and completes with TIMEOUT (R234). -/
  | ftxTimeout (e : Eng) (t : Thr)
  /-- Engine instruction qput, waiting form (R294). -/
  | qput (e : Eng) (t : Thr) (d : QReg) (a : QReg) (b : QReg)
  /-- Engine instruction qput.nw, non-waiting form (R294). -/
  | qputNw (e : Eng) (t : Thr) (d : QReg) (a : QReg) (b : QReg)
  /-- Room appears in a Cask, and a waiting qput appends its item (R294). -/
  | qputRoom (e : Eng) (t : Thr)
  /-- A waiting qput sees no room for 1 ms and completes with TIMEOUT (R294). -/
  | qputTimeout (e : Eng) (t : Thr)
  /-- Engine instruction qget, which takes the next item or the idle item (R293). -/
  | qget (e : Eng) (t : Thr) (d : QReg) (a : QReg) (b : QReg)
  /-- Engine instruction qmark, which sets the rewind mark (R291). -/
  | qmark (e : Eng) (t : Thr) (d : QReg) (a : QReg)
  /-- Engine instruction qrewind, which returns the read position to the mark (R295). -/
  | qrewind (e : Eng) (t : Thr) (d : QReg) (a : QReg)
  /-- Engine instruction qrel, which releases taken items (R295). -/
  | qrel (e : Eng) (t : Thr) (d : QReg) (a : QReg) (b : QReg)
  /-- Engine instruction wait without deadline (R240). -/
  | wait (e : Eng) (t : Thr) (d : QReg) (a : QReg)
  /-- Engine instruction wait with a deadline (R240). -/
  | waitDeadline (e : Eng) (t : Thr) (d : QReg) (a : QReg) (b : QReg)
  /-- A bound event or the deadline ends a wait; the events are written and the returned doorbells cleared (R240). -/
  | waitEnd (e : Eng) (t : Thr)
  /-- Engine instruction sev, which sets a doorbell of a thread of the same engine (R238). -/
  | sev (e : Eng) (t : Thr) (a : QReg) (door : Fin 8)
  /-- Engine instruction dedge, which queues a timed edge on a drive line and waits for room (R249). -/
  | dedge (e : Eng) (t : Thr) (d : QReg) (a : QReg) (x : QReg) (ln : Line) (level : Bool)
  /-- Engine instruction dedge.nw, which queues a timed edge without waiting (R249). -/
  | dedgeNw (e : Eng) (t : Thr) (d : QReg) (a : QReg) (x : QReg) (ln : Line) (level : Bool)
  /-- Engine instruction dset, which queues an immediate edge and waits for room (R298). -/
  | dset (e : Eng) (t : Thr) (d : QReg) (x : QReg) (ln : Line) (level : Bool)
  /-- Engine instruction dset.nw, which queues an immediate edge without waiting (R298). -/
  | dsetNw (e : Eng) (t : Thr) (d : QReg) (x : QReg) (ln : Line) (level : Bool)
  /-- A drive-line queue entry frees, and a waiting dedge or dset queues its edge (R249). -/
  | dedgeQueueRoom (e : Eng) (t : Thr)
  /-- Engine instruction dlvl, which reads a line's level and queue count (R299). -/
  | dlvl (e : Eng) (t : Thr) (d : QReg) (ln : Line)
  /-- Engine instruction dflush, which discards a line's queued edges (R252). -/
  | dflush (e : Eng) (t : Thr) (d : QReg) (ln : Line)
  /-- Engine instruction mget, which pops the engine measurement FIFO (R256). -/
  | mget (e : Eng) (t : Thr) (d : QReg)
  /-- Engine instruction mlat, which reads the latest sample of one kind (R257). -/
  | mlat (e : Eng) (t : Thr) (d : QReg) (ch : Fin 64) (kind : Fin 8)
  /-- Engine instruction tnow, which reads the time base copy (R243). -/
  | tnow (e : Eng) (t : Thr) (d : QReg)
  /-- Engine instruction qclr, which returns Q and clears it (R297). -/
  | qclr (e : Eng) (t : Thr) (d : QReg)
  /-- Engine instruction swp, atomic word exchange (R301). -/
  | swp (e : Eng) (t : Thr) (d : QReg) (a : QReg) (b : QReg)
  /-- Engine instruction brk, which enters DEBUG (R267). -/
  | brk (e : Eng) (t : Thr)
  /-- Engine instruction halt, which enters HALTED (R222). -/
  | halt (e : Eng) (t : Thr)
  /-- An undefined or malformed instruction word faults the thread with ILLEGAL (R272). -/
  | illegalInstruction (e : Eng) (t : Thr)
  /-- An instruction that reached outside the engine memories completes, and its thread becomes READY (R221). -/
  | heldInstructionComplete (e : Eng) (t : Thr)
  /-- A thread reaches an enabled breakpoint and enters DEBUG (R267). -/
  | breakpointHit (e : Eng) (t : Thr)
  /-- A subscribed sample reaches the engine FIFO and latest-sample mirror, or is dropped when the FIFO is full (R255). -/
  | engineMeasArrival (d : Link) (n : Fin 32) (kind : Fin 8)
  /-- Every 1 ms a sweeper pass marks stale entries and updates node-watch states (R318). -/
  | sweeperPass (us : Fin 82)
  /-- A sweeper pass has not finished when the next one starts; SWEEP_LATE is set and fault 0x4049 is reported (R319). -/
  | sweepOverrun
  /-- A decant schedule fires at its instant and sets the target thread's doorbell (R328). -/
  | decantFire (k : Fin 256)
  /-- HOLD has passed since the first message entered a transmit tunnel, and the PDU is sent (R343). -/
  | tunnelHoldExpiry (t : Fin 32)
  /-- A receive tunnel takes an NTSCF PDU and turns its messages into frames, which are routed or delivered (R345). -/
  | tunnelPduReceive (t : Fin 32)
  /-- A snapshot has not finished 5 ms after its cut, and the copier takes 1 bank cycle in 16 (R350). -/
  | snapCopierEscalate
  /-- The snapshot copy ends, setting STATUS and clearing BUSY (R351). -/
  | snapComplete
  /-- After 11 consecutive recessive bits, a controller leaving OFF joins the bus and INTEG clears (R360). -/
  | canBusIntegration (n : Can)
  /-- A valid frame is received; it is routed and then filtered into a receive queue or rejected (R376). -/
  | canFrameReceive (n : Can) (f : Frame)
  /-- A recessive res bit with PXE set puts the controller into the protocol exception state (R362). -/
  | canProtocolException (n : Can)
  /-- The controller offers a due TAT slot or the FIFO head at arbitration, discarding a stale routed head (R374). -/
  | canArbitrationStart (n : Can)
  /-- A frame is transmitted successfully; it leaves the FIFO or slot, the counters move and BO_CNT is set to 0 (R367). -/
  | canFrameSent (n : Can)
  /-- The head frame loses arbitration; it is discarded when DAR is set or HOL_LIM has passed (R368). -/
  | canArbitrationLost (n : Can)
  /-- An error is detected; the error counters move and the controller may become error passive or bus-off (R379). -/
  | canBusError (n : Can) (lec : Fin 7) (late : Bool) (exempt : Bool)
  /-- BO_DELAY after bus-off, automatic recovery starts unless BO_MAX has been reached (R381). -/
  | canBusoffRecoveryStart (n : Can)
  /-- The bus-off recovery sequence of 128 × 11 recessive bits completes, and BO_REC is set (R379). -/
  | canBusoffRecovered (n : Can)
  /-- TXD dominant timeout, bus dominant or thermal shutdown turns the transceiver's transmitter off (R356). -/
  | canTransceiverFault (n : Can) (cause : Fin 3)
  /-- The cause has cleared and TXD is recessive, so the transmitter comes on again (R356). -/
  | canTransceiverRecover (n : Can) (cause : Fin 3)
  /-- A slot falls due, and is skipped when its data is older than MAX_AGE (R373). -/
  | tatDue (n : Can) (k : Fin 8)
  /-- A due slot has not started within WIN µs, and counts as MISSED (R374). -/
  | tatWindowExpiry (n : Can) (k : Fin 8)
  /-- A LIN header's identifier is received, and the response is received, built from the Cellar, sent from a port buffer or ignored (R389). -/
  | linHeader (n : Lin) (fid : Fin 64) (time : Word) (err : LinErr) (clash : Bool)
  /-- A subscribed LIN response is received and delivered, or counted as an error (R388). -/
  | linResponseReceive (n : Lin) (data : List Byte) (err : LinErr)
  /-- A commander schedule slot begins and the header is sent, with any pending bank switch or stop applied (R392). -/
  | linScheduleSlot (n : Lin)
  /-- A wake-up signal is received while awake, and WAKE_RX is set (R394). -/
  | linWakeReceive (n : Lin)
  /-- A LIN TXD timeout or dominant bus turns the transmitter off and reports fault 0x5042 (R396). -/
  | linTransceiverFault (n : Lin) (dom : Bool)
  /-- An armed wake source meets its condition; the WK_CAUSE bit is latched, and pending sleep is cancelled or power-up started (R407). -/
  | wakeCondition (src : Fin 44)
  /-- A listening transceiver decodes a matching wake-up frame, which wakes the module (R411). -/
  | canWakeFrame (n : Fin 16) (f : WakeFrame)
  /-- The selective-wake frame error counter exceeds FEC_TH, which wakes the module or stops decoding (R412). -/
  | canSwFecOverflow (n : Fin 16)
  /-- WK_TMR seconds have passed since entry to SLEEP, which wakes the module (R407). -/
  | wakeTimerExpiry
  /-- PEND_WIN passes in SLEEP_PENDING; the manager enters POWER_DOWN, puts the transceivers in STANDBY and drops the rails (R405). -/
  | pendWindowExpiry
  /-- The power-down of R58 completes, and the manager enters SLEEP (R397). -/
  | sleepEntry
  /-- The 10 ms after a wake latched in POWER_DOWN expire, and power-up starts at step 2 (R406). -/
  | wakePowerUpDelay
  /-- The awake timer expires; AW_HOLD is captured, SLEEP_ASK is set and the fail-safe timer starts (R416). -/
  | awakeTimerExpiry (can : BitVec 16) (lin : BitVec 8)
  /-- The fail-safe timer expires before POWER_DOWN, and the manager forces sleep (R417). -/
  | failSafeTimerExpiry
  /-- A frame's first 64 bytes arrive; VLAN, learning, stream filtering, lookup, admission and cut-through are decided (R433). -/
  | ethFrameIngress (p : Fin 15) (b : List Byte) (sub : BitVec 4)
  /-- A frame's tail arrives; the FCS is checked, stored frames are released, and bad cut-through frames are tail-marked (R440). -/
  | ethFrameTail (p : Fin 15) (t : EthTail)
  /-- An idle egress port chooses its next frame by priority, gates and credit, and starts sending it (R444). -/
  | ethTransmitSelect (p : Fin 15)
  /-- A frame finishes leaving a port, and a transmit time-stamp record is produced for PTP event frames (R474). -/
  | ethTxComplete (p : Fin 15) (sub : BitVec 4)
  /-- A frame forwarded to P15 is delivered to the pair manager, the tunnel unit, an engine queue or a Cask, or is dropped (R424). -/
  | hostPortDelivery
  /-- The host transmit Casks and engine transmit queues are served round robin onto P15 ingress (R426). -/
  | hostTxServe
  /-- A port finishes training and its link comes up (R422). -/
  | portLinkUp (p : Fin 15) (rate : Fin 7) (isMaster : Bool) (sqi : Fin 8)
  /-- A port's link goes down or its EN is cleared; its queues are flushed and its learned entries removed (R439). -/
  | portLinkDown (p : Fin 15)
  /-- The partner acknowledges a TC10 sleep request, and the port drops its link (R423). -/
  | tc10SleepAck (p : Fin 15)
  /-- A TC10 sleep request is refused or unanswered within 16 ms, and TC10_REF is set (R423). -/
  | tc10SleepTimeout (p : Fin 15)
  /-- Every AGE_TIME ÷ 2 seconds, dynamic entries without HIT are removed and HIT is cleared in the others (R432). -/
  | fdbAgeSweep
  /-- A database flush sweep ends and BUSY clears (R434). -/
  | fdbFlushDone
  /-- The new list's base time is reached; it becomes operating and PENDING clears (R447). -/
  | tasListTakeover (p : Fin 15)
  /-- A gate control entry's interval ends and the next entry's gates apply (R445). -/
  | tasGateEvent (p : Fin 15)
  /-- No frame has passed a recovery function for RESET_MS, and the function resets (R452). -/
  | frerResetTimeout (r : Fin 256)
  /-- KST commits PN_RESV + 2^20 for a persistent slot, and the frame that waits for it proceeds (R458). -/
  | msPnReserveCommit (i : Fin 3) (an : Fin 4)
  /-- The time base passes from 0xFFFF_FFFF to 0; TUN_EPOCH is incremented and WRAP is set (R470). -/
  | tbWrap
  /-- 1 µs after acceptance, the step is applied at the time base and every copy, with its epoch and wrap effects (R466). -/
  | tbStepApply
  /-- A time-base copy exceeds its bound and is resynchronised (R468). -/
  | tbCopyResync (copy : Fin 7)
  /-- Room appears in the record Cask, and a waiting transmit time-stamp record enters it (R476). -/
  | txtsRecordDrain (p : Fin 15)
  /-- An input edge on an event land is stamped and recorded, and entered into a Cask (R478). -/
  | evtCaptureEdge (k : Fin 4) (rising : Bool) (sub : BitVec 4)
  /-- An output series instant is reached, and the event land goes high or low (R479). -/
  | evtOutputEdge (k : Fin 4)
  /-- A held CK_PUT finds room or reaches its 2 µs limit, and completes with DONE or LENGTH (R494). -/
  | ckPutWaitEnd (n : Cask)
  /-- A tenant reset reaches step 7; the mailbox record is written, the manager interrupted and the tenant OFF (R511). -/
  | tenantResetEnd (t : Tid)
  /-- A tenant reset has not ended within 20 µs, and TNM completes it with TIMEOUT (R514). -/
  | tenantResetTimeout (t : Tid)
  /-- A bridge transaction reaches the far die, which performs it under the semaphore and answers (R527). -/
  | farDieAccess (b : Fin 3)
  /-- A far-side response reaches the bridge; an access completes, or a failed posted write poisons its window (R533). -/
  | bridgeResponse (b : Fin 3)
  /-- A transaction has had no response for TMO µs, and completes or fails with TIMEOUT (R524). -/
  | bridgeTimeout (b : Fin 4)
  /-- A far semaphore has been held for 2 µs and is released (R528). -/
  | semaphoreTimeout (b : Fin 3)
  /-- A prefetched line reaches its 2 µs age and is dropped, and an undelivered side-effect word counts as a discarded prefetch (R532). -/
  | prefetchLineExpiry (b : Fin 4)
  /-- A far-die interrupt source rises, or is reported again after a write, and its entry sends an MSI (R538). -/
  | farIrqRaise (b : Fin 3) (src : Fin 64)
  /-- An MRET in the Reserve world's M-mode sets W to RW and returns (R574). -/
  | mretReserve (h : HartId)
  /-- A pending Reserve machine-level interrupt enters the monitor from the Table world (R571). -/
  | monitorInterruptEntry (h : HartId)
  /-- A write that sets PRESS_CTL.EN copies the mirror file, self-tests the comparator and activates second pressing (R563). -/
  | pressEnable (h : HartId) (retry : Bool) (detects : Bool)
  /-- A write that clears PRESS_CTL.EN ends second pressing (R563). -/
  | pressDisable (h : HartId) (retry : Bool)
  /-- A write of MSI_SEND sends an MSI to a hart's interrupt file (R551). -/
  | msiSend (h : HartId) (v : DWord)
  /-- An MSI becomes pending in its IMSIC file (R550). -/
  | msiDelivery (k : Nat)
  /-- An APLIC source level changes, and the APLIC forwards it as an MSI (R552). -/
  | aplicSourceChange (src : Fin 39) (level : Bool)
  /-- The time CSR reaches MTIMECMP, and the machine timer interrupt becomes pending (R553). -/
  | machineTimerInterrupt (h : HartId)
  /-- A write of DBG_CTL.FUSE with the key blows the debug lock fuse (R558). -/
  | debugFuse (h : HartId) (key : BitVec 16)
  /-- A write of DBG_CTL.CLOSE_NEXT closes or reopens debug from the next start onwards (R557). -/
  | debugCloseNext (h : HartId) (close : Bool)
  /-- A hart enters debug mode; second pressing ends and PRESS_BROKEN is set (R567). -/
  | debugHaltEntry (h : HartId)
  /-- Half the watchdog timeout passes, and WARN is set (R585). -/
  | rwdWarn
  /-- The watchdog expires; fault 0x3004 is logged and a chip reset follows (R585). -/
  | rwdExpiry
  /-- An accepted key update record becomes durable, and the live slot changes (R601). -/
  | keyUpdateCommit
  /-- The integrity scan rechecks a slot, and reloads it or marks it CORRUPT (R595). -/
  | slotIntegrityScan (n : BitVec 8) (mismatch : Bool)
  /-- A slot's use count reaches 0 while a rewrite is pending; the new key takes effect and waiting operations start (R605). -/
  | slotRewriteEffect (n : BitVec 8)
  /-- A CIPHER job encrypts or decrypts in ECB, CBC, CTR, XTS or GCM (R613). -/
  | cphCipher (j : Fin 64) (mismatch : Bool) (tagFail : Bool := false)
  /-- A CMAC job generates or verifies a CMAC (R614). -/
  | cphCmac (j : Fin 64) (mismatch : Bool) (tagFail : Bool := false)
  /-- A DERIVE job fills a volatile slot by the KDF (R609). -/
  | cphDerive (j : Fin 64) (mismatch : Bool) (tagFail : Bool := false)
  /-- An IMPORT job unwraps a key into a volatile slot (R610). -/
  | cphImport (j : Fin 64) (mismatch : Bool) (tagFail : Bool := false)
  /-- A SAVE job writes a context out, clear or wrapped, and frees it (R617). -/
  | cphSave (j : Fin 64) (mismatch : Bool) (tagFail : Bool := false)
  /-- A RESTORE job rebuilds a context from a saved blob (R618). -/
  | cphRestore (j : Fin 64) (mismatch : Bool) (tagFail : Bool := false)
  /-- An ERASE job erases a volatile slot (R607). -/
  | cphErase (j : Fin 64)
  /-- A cipher job ends and its completion item is posted to its Cask (R611). -/
  | cphJobComplete (j : Fin 64)
  /-- A job has waited 10 ms behind a pending slot change, and completes with TIMEOUT (R606). -/
  | cphPendingTimeout (j : Fin 64)
  /-- A cipher completion finds no room for 1 ms and is dropped (R626). -/
  | cphCompletionDrop (j : Fin 64)
  /-- KST commits a new INV_RESV, and the GCM message that waits for it proceeds or fails (R621). -/
  | invReserveCommit (n : BitVec 8) (ok : Bool)
  /-- Both signatures are done and the statement is written to ATT_DST (R625). -/
  | attSignComplete
  /-- Signing has not ended within 50 ms, and the statement completes with TIMEOUT (R625). -/
  | attTimeout
  /-- Journal replay completes and READY is set (R641). -/
  | stgReady (nandOk : Bool)
  /-- A READ command copies blocks to system SRAM (R637). -/
  | stgRead (c : Fin 256) (bad : Option Nat) (mismatch : Bool) (tagFail : Bool := false)
  /-- A WRITE command copies blocks into the write buffer (R638). -/
  | stgWrite (c : Fin 256) (mismatch : Bool) (tagFail : Bool := false)
  /-- A FLUSH command completes when the earlier writes of the namespace are durable (R639). -/
  | stgFlush (c : Fin 256)
  /-- A TRIM command makes blocks read as zeros (R637). -/
  | stgTrim (c : Fin 256)
  /-- A FORMAT_NS command creates, resizes, re-keys or deletes a namespace (R644). -/
  | stgFormatNs (c : Fin 256)
  /-- A HEALTH command writes the health report (R657). -/
  | stgHealth (c : Fin 256) (tagFail : Bool := false)
  /-- A storage command ends and its completion item is posted (R637). -/
  | stgCommandComplete (c : Fin 256)
  /-- A storage completion finds no room for 1 ms and is dropped (R635). -/
  | stgCompletionDrop (c : Fin 256)
  /-- A command has waited 100 ms behind a pending key change, and completes with TIMEOUT (R648). -/
  | stgKeyPendingTimeout (c : Fin 256)
  /-- The KCV is recomputed, and the namespace enters KEY_ABSENT or READY (R647). -/
  | namespaceKeyCheck (n : Fin 16)
  /-- A program or erase fails; the block is retired and its data moved (R650). -/
  | nandProgramFail (data : Bool) (k : Nat)
  /-- The controller samples a block page and refreshes the block when needed (R653). -/
  | scrubSample (x : ScrubSample)
  /-- The NAND junction crosses 130 °C or 135 °C, and programs are throttled or stopped (R656). -/
  | nandTempChange (t : Int)
  /-- Each 1 ms, PRM commands a beat and sends a HEARTBEAT frame (R663). -/
  | beatTick
  /-- A pulse on PAIR_HBI is classified as a valid beat, and an ACTIVE beat may make position B yield (R663). -/
  | heartbeatPulseReceive (us : Nat)
  /-- A heartbeat path has delivered nothing for 5.2 ms, and PEER becomes SUSPECT or FAILED (R664). -/
  | peerPathSilent (frame : Bool)
  /-- The front die has had no beat command for 5 ms; it releases PAIR_OWN and the permit and becomes OFFLINE (R665). -/
  | beatCommandAbsent
  /-- The 20 ms listen ends, and the module becomes STANDBY or starts its guard (R666). -/
  | pairListenEnd
  /-- PAIR_OWN changes level, which restarts claim guards or makes the module STANDBY (R666). -/
  | pairOwnChange (low : Bool)
  /-- PAIR_OWN has read high for the guard; the module drives PAIR_OWN low and becomes ACTIVE (R668). -/
  | pairClaim
  /-- PAIR_OWN still reads low 10 ms after PEER became FAILED, and BLOCKED is set (R668). -/
  | takeoverBlocked
  /-- A HEARTBEAT pair frame is accepted, which updates the frame path and may make position B yield (R671). -/
  | pairHeartbeatFrame
  /-- A VIN_DATA frame is accepted and its data staged (R674). -/
  | pairVinData
  /-- A VIN_COMMIT frame is checked; the vintage is written to MRAM and acknowledged (R674). -/
  | pairVinCommit
  /-- A VIN_ACK frame completes the vintage with its status (R674). -/
  | pairVinAck
  /-- A HEALTH frame updates PEER_HEALTH on the active (R676). -/
  | pairHealthFrame
  /-- A BR_RSP frame completes a pair bridge transaction (R541). -/
  | pairBrRsp
  /-- A pair frame fails its tag, ID, length or sequence check and is dropped (R671). -/
  | pairFrameReject
  /-- Every PERIOD ms with AUTO set, a vintage starts or is skipped (R674). -/
  | vintageAutoTick
  /-- No VIN_ACK arrives within 10 ms of VIN_COMMIT, and the vintage completes with TIMEOUT (R674). -/
  | vintageAckTimeout
  /-- Each 100 ms a STANDBY module sends a HEALTH frame (R676). -/
  | healthReportTick
  /-- Each 100 ms the standby pulses its permit line under the test strobe, which sets health bit 7 (R677). -/
  | permitSelfTest (seen : Bool)
  /-- Three health reports are missing, and fault 0x7045 is reported (R677). -/
  | peerHealthMissing
  /-- 100 ms after the last HANDOVER frame, a HOME module is no longer armed (R679). -/
  | handoverArmExpiry
  /-- FC accepts a fault report; it is escalated, merged or recorded, and its reaction is carried out (R681). -/
  | faultReport (k : Nat)
  /-- A record's MRAM log write is durable or has failed, and a RESET record then causes a chip reset (R694). -/
  | faultLogWriteDone (ok : Bool)
  /-- An escalation window closes below COUNT, and the count restarts (R689). -/
  | escalationWindowExpiry (k : Fin 32)
  /-- The SRAM or MRAM scrubber reads a word and corrects or reports an error (R698). -/
  | memoryScrub (site : EccSite) (res : EccResult)
  /-- VBAT_AO is lost and the whole module loses power, cutting any MRAM, NAND or record write in progress (R97). -/
  | alwaysOnSupplyLoss
  /-- A power die's control supply comes up, and the die starts from reset values in limp-home (R200). -/
  | dieSupplyStart (d : PDie)
  /-- The 25 MHz reference returns, and ICU_STAT.REF_LOST clears (R45). -/
  | referenceClockRestored
  /-- The 32.768 kHz crystal starts oscillating, and the always-on manager leaves its 16 MHz RC oscillator (R83). -/
  | xtal32kOscillationStart
  /-- An island accepts transactions again after an island reset, or after its clock restarts, and RUN reads 1 (R40). -/
  | islandReady (i : Island)
  /-- EXTEST is deselected and the chip reset it held ends (R84). -/
  | jtagExtestRelease (env : BootEnv) (ir : JtagIr := .bypass)
  /-- A channel's current falls below its hard limit before a trip, and CH_STAT.HARD_LIM clears (R136). -/
  | hardLimitExit (c : Ch)
  /-- VBAT_Px returns above PGND_Px − 2 V, and the die ends forcing its light channels on (R161). -/
  | reverseBatteryEnd (d : PDie)
  /-- The tasting receiver locks on the preamble and aligns on the start delimiter of a tag frame (R212). -/
  | tasteDelimiterSeen (d : PDie)
  /-- The LIN TXD-dominant or bus-dominant condition clears, and the transmitter comes on again (R396). -/
  | linTransceiverRecover (n : Lin) (dom : Bool)
  /-- A listening transceiver decodes a non-matching or erroneous frame, and its frame error counter FEC moves (R412). -/
  | selectiveWakeFrameDecode (n : Fin 16) (f : SwFrame)
  /-- A shaped class's credit rises back to 0 while it holds a frame, making it eligible for transmission (R448). -/
  | cbsCreditZero (p : Fin 15) (c : Fin 8)
  /-- A NAND program or erase ends, making buffered blocks durable and freeing write-buffer room (R639). -/
  | nandOperationComplete (op : NandOp)
  /-- A fault-caused chip reset passes out of the last 60 s of powered time, and RST_CNT falls (R694). -/
  | rstCntAgeOut
  deriving DecidableEq, Repr

end Sys2Proof
end

