-- ==== Sys2Proof/Decode.lean ====
section
/-!
DEFINITION. The command that a word spells. No row of the opcode table carries bits: its commands are accesses and events, and
the spec gives none of them a word form.
-/

namespace Sys2Proof

/-- The command of a table word: none, since the table gives its rows no bits. -/
def decodeTableWord (_nbits _w : Nat) : Option Instr := none

end Sys2Proof
end

