-- ==== Sys2Proof/Config.lean ====
section
/-!
DEFINITION. What the spec leaves open: each constant below has no body, so no proof can lean on a value of it.
-/

namespace Sys2Proof.Config

/-- The n-th free value: a value the spec does not state, drawn fresh by the step that needs it (log 2). -/
opaque freeValue : Nat → DWord

/-- The rootstock in its fuse bank, and the test rootstock in the boot ROM: no register or bus reads either (R587; log 4). -/
opaque rootstock : BitVec 256
opaque testRootstock : BitVec 256

/-- What a guard settings body assigns: register addresses and the words stage 1 writes there. The body's layout is the
image's own (R112, R36; log 5). -/
opaque guardWords : List Byte → List (Nat × Word)

/-- The source address of the Ethernet frames that the tunnel unit and the pair manager build (R343, R666; log 7). -/
opaque hostMac : BitVec 48

/-- Where an engine's copy of the time base lies: `engSkew e` modulo 5, less 2, in nanoseconds from it (R243; log 142). -/
opaque engSkew : Nat → Nat

/-- Frames that a switch engine transmit queue holds before its port is full (R234; log 8). -/
opaque engTxDepth : Nat

/-- The core voltage in mV that the module sets for the two cluster clocks, in units of 25 MHz (R62, R38; log 9). -/
opaque vcoreFor : Nat → Nat → Nat

end Sys2Proof.Config
end

