-- ==== Sys2Proof/Machine/Bits.lean ====
section
/-!
DEFINITION. Bit fields, byte order, sparse maps in canonical form and cyclic redundancy checks, as every block uses them.
-/

namespace Sys2Proof.Machine

/-- Bits `hi:lo` of a word, as a number. -/
def fld {n : Nat} (w : BitVec n) (hi lo : Nat) : Nat := (w.toNat >>> lo) % 2 ^ (hi + 1 - lo)

/-- The word `w` with bits `hi:lo` replaced by the low bits of `v`. -/
def setFld {n : Nat} (w : BitVec n) (hi lo v : Nat) : BitVec n :=
  let m : BitVec n := BitVec.ofNat n ((2 ^ (hi + 1 - lo) - 1) <<< lo)
  (w &&& ~~~m) ||| (BitVec.ofNat n (v <<< lo) &&& m)

/-- Bit `i` of a word. -/
def bit {n : Nat} (w : BitVec n) (i : Nat) : Bool := w.getLsbD i

/-- The word `w` with bit `i` set to `b`. -/
def setBit {n : Nat} (w : BitVec n) (i : Nat) (b : Bool) : BitVec n := setFld w i i b.toNat

/-- A word from a number, modulo 2^32. -/
abbrev wd (n : Nat) : Word := BitVec.ofNat 32 n

/-- Two's-complement value of the low `bits` bits of `n`. -/
def sext (n bits : Nat) : Int :=
  let m := n % 2 ^ bits
  if m < 2 ^ (bits - 1) then (m : Int) else (m : Int) - (2 ^ bits : Nat)

/-- Saturating increment of a counter that stops at `top`. -/
def satInc (n top : Nat) : Nat := if n < top then n + 1 else top

/-! ### Sparse maps: (key, value) lists with strictly rising keys, no entry at its default. -/

/-- The value at `k`; a key that is not listed holds its default. -/
def smGet {α : Type} (d : Nat → α) : List (Nat × α) → Nat → α
  | [], k => d k
  | p :: r, k => if p.1 = k then p.2 else smGet d r k

/-- Insert in key order. -/
def smInsert {α : Type} (k : Nat) (v : α) : List (Nat × α) → List (Nat × α)
  | [] => [(k, v)]
  | p :: r => if k < p.1 then (k, v) :: p :: r else p :: smInsert k v r

/-- Drop every entry of a key. -/
def smErase {α : Type} (k : Nat) : List (Nat × α) → List (Nat × α)
  | [] => []
  | p :: r => if p.1 = k then smErase k r else p :: smErase k r

/-- Write `v` at `k`; writing the default removes the entry, so equal maps are equal lists. -/
def smSet {α : Type} [DecidableEq α] (d : Nat → α) (m : List (Nat × α)) (k : Nat) (v : α) : List (Nat × α) :=
  if v = d k then smErase k m else smInsert k v (smErase k m)

/-- The canonical form: keys strictly rising and no entry at its default. -/
def smWf {α : Type} [DecidableEq α] (d : Nat → α) : List (Nat × α) → Bool
  | [] => true
  | [p] => decide (p.2 ≠ d p.1)
  | p :: q :: r => decide (p.2 ≠ d p.1) && decide (p.1 < q.1) && smWf d (q :: r)

/-- Put several entries. -/
def smSetAll {α : Type} [DecidableEq α] (d : Nat → α) (m l : List (Nat × α)) : List (Nat × α) :=
  l.foldl (fun m x => smSet d m x.1 x.2) m

/-- Drop every entry whose key does not satisfy `keep`: those keys return to their defaults. -/
def smKeep {α : Type} (keep : Nat → Bool) (m : List (Nat × α)) : List (Nat × α) :=
  m.filter fun p => keep p.1

/-! ### Byte order: registers and in-memory structures are little-endian (R3). -/

/-- The `n` low bytes of `v`, least significant first. -/
def leBytes : Nat → Nat → List Byte
  | 0, _ => []
  | n + 1, v => BitVec.ofNat 8 v :: leBytes n (v >>> 8)

/-- The number a little-endian byte list spells. -/
def leNat : List Byte → Nat
  | [] => 0
  | b :: r => b.toNat + 256 * leNat r

/-- The number a big-endian byte list spells (network formats). -/
def beNat (l : List Byte) : Nat := leNat l.reverse

/-- The `n` low bytes of `v`, most significant first (network formats). -/
def beBytes (n v : Nat) : List Byte := (leBytes n v).reverse

/-- Byte `i` of a list, 0 past its end. -/
def byteAt (l : List Byte) (i : Nat) : Byte := l.getD i 0

/-- Bytes `i` to `i + n - 1` of a list, 0 past its end. -/
def slice (l : List Byte) (i n : Nat) : List Byte := (List.range n).map fun k => byteAt l (i + k)

/-- A byte list cut or filled with zeros to `n` bytes. -/
def padTo (n : Nat) (l : List Byte) : List Byte := l.take n ++ List.replicate (n - l.length) 0

/-! ### Cyclic redundancy checks -/

/-- One bit of a reflected CRC-32 step with polynomial 0x04C11DB7 (reflected 0xEDB88320). -/
def crc32Bit (c : Nat) : Nat := if c % 2 = 1 then (c >>> 1) ^^^ 0xEDB88320 else c >>> 1

/-- One byte of the CRC-32 of R5. -/
def crc32Byte (c : Nat) (b : Byte) : Nat :=
  crc32Bit (crc32Bit (crc32Bit (crc32Bit (crc32Bit (crc32Bit (crc32Bit (crc32Bit (c ^^^ b.toNat))))))))

/-- The CRC-32 of R5: initial value and final XOR 0xFFFF_FFFF, reflected input and output. -/
def crc32 (l : List Byte) : Nat := (l.foldl crc32Byte 0xFFFFFFFF) ^^^ 0xFFFFFFFF

/-! ### Lists -/

/-- Replace element `i` of a list by `f` of it. -/
def modAt {α : Type} (f : α → α) : List α → Nat → List α
  | [], _ => []
  | x :: r, 0 => f x :: r
  | x :: r, n + 1 => x :: modAt f r n

/-- Remove element `i` of a list. -/
def dropAt {α : Type} : List α → Nat → List α
  | [], _ => []
  | _ :: r, 0 => r
  | x :: r, n + 1 => x :: dropAt r n

/-- The first index below `n` that satisfies `p`. -/
def firstBelow (n : Nat) (p : Nat → Bool) : Option Nat := (List.range n).find? p

/-- The number of indices below `n` that satisfy `p`. -/
def countBelow (n : Nat) (p : Nat → Bool) : Nat := ((List.range n).filter p).length

/-- Append to a queue of at most `cap` entries, dropping the oldest when it is full. -/
def pushLatest {α : Type} (cap : Nat) (l : List α) (x : α) : List α :=
  if l.length < cap then l ++ [x] else l.drop (l.length + 1 - cap) ++ [x]

end Sys2Proof.Machine
end

