-- ==== Sys2Proof/Machine/Crypto.lean ====
section
/-!
DEFINITION. The cryptographic functions the spec names by their standards: AES (FIPS 197) with its modes, AES-CMAC, GCM, XTS,
AES key wrap, the KDF of R588, and SHA-384 (FIPS 180-4).
-/

namespace Sys2Proof.Machine

/-! ### AES (FIPS 197) -/

/-- Multiply by x in GF(2^8). -/
def xtime (a : Nat) : Nat := if 128 ≤ a then (a * 2 ^^^ 0x11B) % 256 else a * 2
/-- The product in GF(2^8). -/
def gmul (a b : Nat) : Nat :=
  ((List.range 8).foldl (fun (p : Nat × Nat) i => (if b / 2 ^ i % 2 = 1 then p.1 ^^^ p.2 else p.1, xtime p.2)) (0, a)).1
/-- The inverse in GF(2^8), 0 for 0: the 254th power. -/
def ginv (a : Nat) : Nat :=
  let sq := fun x => gmul x x
  let a2 := sq a; let a4 := sq a2; let a8 := sq a4; let a16 := sq a8; let a32 := sq a16; let a64 := sq a32; let a128 := sq a64
  gmul (gmul (gmul a2 a4) (gmul a8 a16)) (gmul (gmul a32 a64) a128)
def rotl8 (a k : Nat) : Nat := (a * 2 ^ k ||| a / 2 ^ (8 - k)) % 256
def sbox (a : Nat) : Nat :=
  let b := ginv a
  b ^^^ rotl8 b 1 ^^^ rotl8 b 2 ^^^ rotl8 b 3 ^^^ rotl8 b 4 ^^^ 0x63
def invSbox (a : Nat) : Nat := ginv (rotl8 a 1 ^^^ rotl8 a 3 ^^^ rotl8 a 6 ^^^ 0x05)

/-- XOR of two byte lists of one length. -/
def xorB (a b : List Byte) : List Byte := List.zipWith (· ^^^ ·) a b
def mapB (f : Nat → Nat) (l : List Byte) : List Byte := l.map fun b => BitVec.ofNat 8 (f b.toNat)

/-- Key expansion: the 4-byte words of all round keys, from the key's own words. -/
def aesWords (nk total : Nat) (w : List (List Byte)) : List (List Byte) :=
  (List.range (total - nk)).foldl (fun w j =>
    let i := nk + j
    let t := w.getD (i - 1) []
    let t := if i % nk = 0 then
        xorB (mapB sbox (t.drop 1 ++ t.take 1)) [BitVec.ofNat 8 ((List.range (i / nk - 1)).foldl (fun r _ => xtime r) 1), 0, 0, 0]
      else if 6 < nk && i % nk = 4 then mapB sbox t else t
    w ++ [xorB (w.getD (i - nk) []) t]) w

/-- The round keys of a key of 16, 24 or 32 bytes. -/
def aesKeys (k : List Byte) : List (List Byte) :=
  let nk := k.length / 4
  let w := aesWords nk (4 * (nk + 7)) ((List.range nk).map fun i => slice k (i * 4) 4)
  (List.range (nk + 7)).map fun r => ((List.range 4).map fun c => w.getD (4 * r + c) []).flatten

def shiftRows (st : List Byte) : List Byte := (List.range 16).map fun i => byteAt st (i % 4 + 4 * ((i / 4 + i % 4) % 4))
def invShiftRows (st : List Byte) : List Byte := (List.range 16).map fun i => byteAt st (i % 4 + 4 * ((i / 4 + 4 - i % 4) % 4))
/-- A column mix by the circulant of four coefficients. -/
def mixCols (c : List Nat) (st : List Byte) : List Byte :=
  (List.range 16).map fun i => BitVec.ofNat 8 ((List.range 4).foldl (fun v k =>
    v ^^^ gmul (c.getD ((k + 4 - i % 4) % 4) 0) (byteAt st (4 * (i / 4) + k)).toNat) 0)

/-- AES of one block. -/
def aesEnc (key blk : List Byte) : List Byte :=
  let ks := aesKeys key
  let n := ks.length - 1
  let st := (List.range (n - 1)).foldl (fun st r => xorB (mixCols [2, 3, 1, 1] (shiftRows (mapB sbox st))) (ks.getD (r + 1) []))
    (xorB blk (ks.getD 0 []))
  xorB (shiftRows (mapB sbox st)) (ks.getD n [])
/-- Inverse AES of one block. -/
def aesDec (key blk : List Byte) : List Byte :=
  let ks := aesKeys key
  let n := ks.length - 1
  let st := (List.range (n - 1)).foldl (fun st r =>
      mixCols [14, 11, 13, 9] (xorB (mapB invSbox (invShiftRows st)) (ks.getD (n - 1 - r) [])))
    (xorB blk (ks.getD n []))
  xorB (mapB invSbox (invShiftRows st)) (ks.getD 0 [])

/-! ### Modes (SP 800-38A, B, D, E, F; IEEE 1619) -/

/-- The whole blocks of a byte list, and a last part block if there is one. -/
def blocks (l : List Byte) : List (List Byte) := (List.range ((l.length + 15) / 16)).map fun i => (l.drop (16 * i)).take 16

def ecb (f : List Byte → List Byte) (l : List Byte) : List Byte := ((blocks l).map f).flatten
/-- CBC encryption from a chaining value: output and the next chaining value. -/
def cbcEnc (key : List Byte) (iv l : List Byte) : List Byte × List Byte :=
  (blocks l).foldl (fun p b => let c := aesEnc key (xorB b p.2); (p.1 ++ c, c)) ([], iv)
def cbcDec (key : List Byte) (iv l : List Byte) : List Byte × List Byte :=
  (blocks l).foldl (fun p b => (p.1 ++ xorB (aesDec key b) p.2, b)) ([], iv)
/-- The counter block after one block: the whole block counts for CTR, the last 32 bits for GCM. -/
def ctrInc (gcm : Bool) (b : List Byte) : List Byte :=
  if gcm then b.take 12 ++ beBytes 4 (beNat (b.drop 12) + 1) else beBytes 16 (beNat b + 1)
/-- Counter-mode encryption: output and the next counter block. -/
def ctr (gcm : Bool) (key c l : List Byte) : List Byte × List Byte :=
  (blocks l).foldl (fun p b => (p.1 ++ xorB b ((aesEnc key p.2).take b.length), ctrInc gcm p.2)) ([], c)

/-- Doubling of CMAC subkeys. -/
def dbl (l : List Byte) : List Byte :=
  let n := beNat l
  beBytes 16 (if 2 ^ 127 ≤ n then (n * 2) ^^^ 0x87 else n * 2)
/-- CMAC's chaining value over whole blocks that are not the last. -/
def cmacChain (key st l : List Byte) : List Byte := (blocks l).foldl (fun st b => aesEnc key (xorB st b)) st
/-- CMAC's last step: the last 0 to 16 bytes of the message. -/
def cmacEnd (key st l : List Byte) : List Byte :=
  let k1 := dbl (aesEnc key (List.replicate 16 0))
  let last := if l.length = 16 then xorB l k1 else xorB (padTo 16 (l ++ [0x80])) (dbl k1)
  aesEnc key (xorB st last)
/-- Bytes of a message before its last block. -/
def beforeLast (n : Nat) : Nat := (n - 1) / 16 * 16
def cmac (key l : List Byte) : List Byte :=
  cmacEnd key (cmacChain key (List.replicate 16 0) (l.take (beforeLast l.length))) (l.drop (beforeLast l.length))

/-- The product of GHASH. -/
def ghMul (x y : Nat) : Nat :=
  ((List.range 128).foldl (fun (p : Nat × Nat) i =>
    (if x / 2 ^ (127 - i) % 2 = 1 then p.1 ^^^ p.2 else p.1, if p.2 % 2 = 1 then p.2 / 2 ^^^ 0xE1 * 2 ^ 120 else p.2 / 2)) (0, y)).1
/-- GHASH from an accumulator over bytes padded to whole blocks. -/
def ghash (h acc : Nat) (l : List Byte) : Nat := (blocks l).foldl (fun a b => ghMul (a ^^^ beNat (padTo 16 b)) h) acc
/-- GCM's hash key and first counter block for a 96-bit IV. -/
def gcmH (key : List Byte) : Nat := beNat (aesEnc key (List.replicate 16 0))
def gcmJ0 (iv : List Byte) : List Byte := iv ++ [0, 0, 0, 1]
/-- The tag from the accumulator over additional data and ciphertext. -/
def gcmTag (key j0 : List Byte) (acc aadLen len : Nat) : List Byte :=
  xorB (beBytes 16 (ghMul (acc ^^^ (aadLen * 8 * 2 ^ 64 + len * 8)) (gcmH key))) (aesEnc key j0)
/-- GCM encryption: ciphertext and 16-byte tag. -/
def gcmSeal (key iv aad pt : List Byte) : List Byte × List Byte :=
  let j0 := gcmJ0 iv
  let ct := (ctr true key (ctrInc true j0) pt).1
  (ct, gcmTag key j0 (ghash (gcmH key) (ghash (gcmH key) 0 aad) ct) aad.length ct.length)
/-- GCM decryption: the plaintext when the tag verifies. -/
def gcmOpen (key iv aad ct tag : List Byte) : Option (List Byte) :=
  let j0 := gcmJ0 iv
  if (gcmTag key j0 (ghash (gcmH key) (ghash (gcmH key) 0 aad) ct) aad.length ct.length).take tag.length = tag
  then some (ctr true key (ctrInc true j0) ct).1 else none

/-- The tweak of the next XTS block. -/
def xtsNext (t : List Byte) : List Byte :=
  let n := leNat t * 2
  leBytes 16 (if 2 ^ 128 ≤ n then n ^^^ (2 ^ 128 + 0x87) else n)
/-- XTS of one data unit, with ciphertext stealing; the key's halves are Key1 and Key2 (R614). -/
def xts (dec : Bool) (key tweak l : List Byte) : List Byte :=
  let k1 := key.take (key.length / 2)
  let t0 := aesEnc (key.drop (key.length / 2)) tweak
  let one := fun (t b : List Byte) => xorB ((if dec then aesDec k1 else aesEnc k1) (xorB b t)) t
  let n := l.length / 16
  let r := l.length % 16
  let whole := if r = 0 then n else n - 1
  let p := (blocks (l.take (whole * 16))).foldl (fun (p : List Byte × List Byte) b => (p.1 ++ one p.2 b, xtsNext p.2)) ([], t0)
  if r = 0 then p.1
  else
    let tA := if dec then xtsNext p.2 else p.2
    let tB := if dec then p.2 else xtsNext p.2
    let c := one tA ((l.drop (whole * 16)).take 16)
    let tail := l.drop (n * 16)
    p.1 ++ one tB (tail ++ c.drop r) ++ c.take r

/-- AES key wrap (SP 800-38F KW). -/
def kwWrap (key pt : List Byte) : List Byte :=
  let n := pt.length / 8
  let r := (List.range (6 * n)).foldl (fun (p : List Byte × List (List Byte)) t =>
    let b := aesEnc key (p.1 ++ p.2.getD (t % n) [])
    (xorB (b.take 8) (beBytes 8 (t + 1)), modAt (fun _ => b.drop 8) p.2 (t % n)))
    (List.replicate 8 0xA6, (List.range n).map fun i => slice pt (8 * i) 8)
  r.1 ++ r.2.flatten
/-- AES key unwrap: the plaintext when the integrity check holds. -/
def kwUnwrap (key ct : List Byte) : Option (List Byte) :=
  let n := ct.length / 8 - 1
  let r := (List.range (6 * n)).foldl (fun (p : List Byte × List (List Byte)) j =>
    let t := 6 * n - 1 - j
    let b := aesDec key (xorB p.1 (beBytes 8 (t + 1)) ++ p.2.getD (t % n) [])
    (b.take 8, modAt (fun _ => b.drop 8) p.2 (t % n)))
    (ct.take 8, (List.range n).map fun i => slice ct (8 * (i + 1)) 8)
  if r.1 = List.replicate 8 0xA6 then some r.2.flatten else none

/-- The KDF in counter mode of R588: `n` bytes. -/
def kdf (key label context : List Byte) (n : Nat) : List Byte :=
  (((List.range ((n + 15) / 16)).map fun i =>
    cmac key (beBytes 4 (i + 1) ++ label ++ [0] ++ context ++ beBytes 4 (8 * n))).flatten).take n

/-- The bytes of an ASCII string. -/
def ascii (s : String) : List Byte := s.toList.map fun c => BitVec.ofNat 8 c.toNat

/-! ### SHA-384 (FIPS 180-4)

The constants are what FIPS 180-4 says they are, the first 64 fractional bits of roots of primes; the eight working
variables are kept as the last four values of two sequences, since b, c, d are earlier values of a and f, g, h of e. -/

/-- The primes up to 409, the 80th. -/
def primes80 : List Nat := (List.range 410).filter fun n => 2 ≤ n && (List.range n).all fun d => d < 2 || n % d != 0

/-- The first 64 fractional bits of the `k`-th root of `p`, bit by bit. -/
def rootBits (k p : Nat) : DWord :=
  BitVec.ofNat 64 ((List.range 70).foldl (fun r i => if (r + 2 ^ (69 - i)) ^ k ≤ p * 2 ^ (64 * k) then r + 2 ^ (69 - i) else r) 0)

/-- The word of each of the 80 rounds, and the initial hash value of SHA-384: a and e sequences, newest first. -/
def roundWords : List DWord := primes80.map (rootBits 3)
def hashStart : List DWord × List DWord :=
  let l := ((primes80.drop 8).take 8).map (rootBits 2)
  (l.take 4, l.drop 4)

/-- The exclusive or of the right rotations of a word by the listed amounts. -/
def turnsOf (l : List Nat) (x : DWord) : DWord := (l.map fun k => x.rotateRight k).foldl (· ^^^ ·) 0

/-- The words of a block: the 16 it holds, each later one from the 1st, 6th, 14th and 15th before it. -/
def blockWords (blk : List Byte) : List DWord :=
  let back (w : List DWord) (k : Nat) : DWord := w.getD k 0
  ((List.range 64).foldl (fun w _ =>
    (back w 15 + back w 6 + (turnsOf [1, 8] (back w 14) ^^^ (back w 14 >>> 7))
      + (turnsOf [19, 61] (back w 1) ^^^ (back w 1 >>> 6))) :: w)
    ((List.range 16).foldl (fun w i => BitVec.ofNat 64 (beNat (slice blk (8 * i) 8)) :: w) [])).reverse

/-- The next value of either sequence. -/
def hashStep (v : List DWord × List DWord) (kw : DWord) : List DWord × List DWord :=
  let a (k : Nat) : DWord := v.1.getD k 0
  let e (k : Nat) : DWord := v.2.getD k 0
  let pick := e 2 ^^^ (e 0 &&& (e 1 ^^^ e 2))
  let most := (a 0 &&& a 1) ||| (a 2 &&& (a 0 ||| a 1))
  let t := kw + e 3 + pick + turnsOf [14, 18, 41] (e 0)
  ((t + most + turnsOf [28, 34, 39] (a 0)) :: v.1.take 3, (t + a 3) :: v.2.take 3)

/-- The hash value after one more block. -/
def hashBlock (h : List DWord × List DWord) (blk : List Byte) : List DWord × List DWord :=
  let v := (List.zipWith (· + ·) roundWords (blockWords blk)).foldl hashStep h
  (List.zipWith (· + ·) h.1 v.1, List.zipWith (· + ·) h.2 v.2)

/-- SHA-384 of a byte string. -/
def sha384 (l : List Byte) : BitVec 384 :=
  let k := (l.length + 16) / 128 + 1
  let m := padTo (128 * k - 16) (l ++ [0x80]) ++ beBytes 16 (8 * l.length)
  let h := (List.range k).foldl (fun h i => hashBlock h (slice m (128 * i) 128)) hashStart
  BitVec.ofNat 384 (beNat (((h.1 ++ h.2.take 2).map fun x => beBytes 8 x.toNat).flatten))

/-! ### Keys of a start (R587–R589) -/

/-- The active root: the test rootstock or the rootstock. -/
def activeRoot (test : Bool) : BitVec 256 := if test then Config.testRootstock else Config.rootstock
/-- The 256-bit key that the active root gives under a label (R589). -/
def rootKey (test : Bool) (label : String) : List Byte := kdf (beBytes 32 (activeRoot test).toNat) (ascii label) [] 32
/-- AES-256-CMAC under fixed key slot 2 of a root (R103). -/
def sealTag (test : Bool) (m : List Byte) : BitVec 128 := BitVec.ofNat 128 (beNat (cmac (rootKey test "FZ9640-SEAL") m))

end Sys2Proof.Machine
end

