-- ==== Sys2Proof/Machine/RegMap.lean ====
section
/-!
DEFINITION. The register map: for every 32-bit register its reset value and which of its bits a plain write changes
(RW) or clears (W1C). Bits in neither mask keep their value under a write (R6). Addresses are those of R21 and R23.
-/

namespace Sys2Proof.Machine

/-- One register's reset value, its RW bits and its W1C bits (R6, R10). -/
structure RegDesc where
  reset : Nat := 0
  rw : Nat := 0
  w1c : Nat := 0
  deriving DecidableEq, Repr

/-- Shorthand for a register row. -/
abbrev rg (reset : Nat := 0) (rw : Nat := 0) (w1c : Nat := 0) : RegDesc := ⟨reset, rw, w1c⟩

/-! ### Block bases (R23) -/
def devBase : Nat := 0x40000000
def fcBase : Nat := 0x40010000
def icuBase : Nat := 0x40020000
def rbcBase : Nat := 0x40030000
def tnmBase : Nat := 0x40040000
def wcuBase : Nat := 0x40050000
def kstBase : Nat := 0x40060000
def cphBase : Nat := 0x40070000
def pkeBase : Nat := 0x40080000
def tbuBase : Nat := 0x40090000
def cskBase : Nat := 0x400A0000
def clrBase : Nat := 0x400B0000
def secBase : Nat := 0x400C0000
def canBase : Nat := 0x400D0000
def linBase : Nat := 0x400E0000
def eswBase : Nat := 0x400F0000
def stgBase : Nat := 0x40100000
def brgBase : Nat := 0x40110000
def prmBase : Nat := 0x40120000
def winBase : Nat := 0x40200000
def swtBase : Nat := 0x40400000
def cellarBase : Nat := 0x30000000
def caskWin : Nat := 0x31000000
def frontBase : Nat := 0x82000000
/-- Window base of power die `d`. -/
def dieBase (d : Nat) : Nat := 0x80000000 + d * 0x1000000

/-- The label chain (R26–R28): CAP_ID, BASE, INST, STRIDE_L2, PARAM of each entry, in order. -/
def chainRows : List (Nat × Nat × Nat × Nat × Nat) :=
  [(0x001, fcBase, 1, 0, 0), (0x002, icuBase, 1, 0, 0x0C08), (0x003, rbcBase, 1, 0, 0), (0x004, tnmBase, 1, 0, 0),
   (0x005, wcuBase, 1, 0, 0), (0x006, kstBase, 1, 0, 0), (0x007, cphBase, 1, 0, 0), (0x008, pkeBase, 1, 0, 0),
   (0x009, tbuBase, 1, 0, 0), (0x00A, cskBase, 1, 0, 0x3100), (0x00B, clrBase, 1, 0, 0x3000),
   (0x00C, secBase, 16, 12, 0x4020), (0x00D, canBase, 16, 12, 0), (0x00E, linBase, 8, 10, 0),
   (0x00F, eswBase, 1, 0, 0x4040), (0x010, stgBase, 1, 0, 0), (0x011, brgBase, 1, 0, 0), (0x012, prmBase, 1, 0, 0),
   (0x020, dieBase 0, 1, 0, 0), (0x021, dieBase 1, 1, 0, 0), (0x022, frontBase, 1, 0, 0),
   (0x030, eswBase + 0x8000, 3, 11, 0)]

/-- Word `w` of label chain entry `i`, the last one with NEXT 0 (R27). Where the entries after the first lie, and in which order,
the spec leaves open: here 12 bytes apart in the order of its table (DESIGN CHOICE, log 132). -/
def chainWord (i w : Nat) : Nat :=
  match chainRows[i]? with
  | none => 0
  | some (cap, base, inst, l2, par) =>
    if w = 0 then cap * 2 ^ 20 + 2 ^ 16 + (if i + 1 < chainRows.length then (i + 1) * 12 else 0)
    else if w = 1 then base
    else inst + l2 * 2 ^ 8 + par * 2 ^ 16

/-- DEVINFO, whose fused registers are read from the fuses. -/
def devReg (o : Nat) : RegDesc :=
  if o = 0 then rg 0x96400001 else if o = 8 then rg 0x40000100
  else if 0x100 ≤ o && o < 0x100 + 22 * 12 then rg (chainWord ((o - 0x100) / 12) ((o - 0x100) % 12 / 4))
  else rg

/-- Fault collector page. -/
def fcReg (o : Nat) : RegDesc :=
  if o = 0 then rg 0x80000000 else if o = 4 then rg 0x30000 0xF0000 else if o = 8 then rg 6 7
  else if o = 0xC then rg 7 7 else if o = 0x14 then rg 0 0xFFFFFFFF
  else if 0x100 ≤ o && o < 0x140 && o % 8 = 0 then rg 0 0 0x80000000
  else rg

/-- Island and clock unit page: islands, PHYs and ownership registers; the APLIC domains are at 0x8000 onwards. -/
def icuReg (o : Nat) : RegDesc :=
  if o = 0 then rg 0x7FF
  else if o = 0x40 || o = 0x44 then rg 0x10000028 0x6000007F
  else if 0x48 ≤ o && o < 0x6C then rg 0x10000000 0x60000000
  else if o = 0x80 then rg 0 0x7FFF
  else if o = 0x8000 || o = 0xC000 then rg 0x80000004 0x100
  else if 0x8000 ≤ o then rg 0 0xFFFFFFFF
  else rg

/-- Reset and boot control page; SEC_FLOOR is read from the fuses and the MRAM floor. -/
def rbcReg (o : Nat) : RegDesc :=
  if o = 0 then rg 1 0 0xFF else if o = 4 then rg 3 else if o = 8 then rg 0x3C00 0xFF01 else rg

/-- Tenancy manager page. -/
def tnmReg (o : Nat) : RegDesc :=
  if o < 0x20 then rg 0 0 0xFFFFFFFF
  else if 0x100 ≤ o && o < 0x120 then rg 0 0xFF
  else if 0x200 ≤ o && o < 0x400 then rg 0 0x800001FF
  else if 0x1000 ≤ o && o < 0x5000 then
    let r := o % 0x40
    if r = 0 then rg 0 0x80000100 else if 0x10 ≤ r && r < 0x20 then rg 0 0x3FF03FF
    else if r = 0x28 then rg 0 0x7F007F else rg
  else if 0x8000 ≤ o && o < 0xC000 then
    let r := o % 0x40
    if r < 0x20 then rg 0 0xFFFFFFFF else if r = 0x24 then rg 0 0x7FF003F
    else if r = 0x28 then rg 0 0 0x80000000 else rg
  else rg

/-- World control unit page. -/
def wcuReg (o : Nat) : RegDesc :=
  if o = 0 then rg 0 1 else if o = 0x10 then rg 512 0x3FF else if o = 0x14 then rg 384 0x3FF
  else if o = 0x18 then rg 0x37FFFE 0x27FF96 else if o = 0x20 then rg 0x1F4 0x7FFFFFFF
  else if o = 0x28 then rg 0x1F4 0 0x80000000 else if o = 0x30 then rg 0 0 0xFF00
  else if 0x8000 ≤ o && o < 0x8800 then rg 0 0xFFFFFFFF
  else rg

/-- Class of a channel by its index in the die (R122): 0 heavy, 1 medium, 2 light. -/
def chClass (n : Nat) : Nat := if n % 32 < 4 then 0 else if n % 32 < 16 then 1 else 2

/-- A value that depends on the class. -/
def byClass {α : Type} (n : Nat) (h m l : α) : α := if chClass n = 0 then h else if chClass n = 1 then m else l

/-- Channel block of channel `n` of a die. -/
def chReg (n o : Nat) : RegDesc :=
  if o = 0x04 then rg 0 0x13F03 else if o = 0x08 then rg 0x320000 0x1FFF01F3
  else if o = 0x0C then rg 0 3 else if o = 0x10 then rg 0x14 0x7FFFF
  else if o = 0x14 then rg (0x32000 + byClass n 30 48 144) 0x1FF3FF
  else if o = 0x18 then rg (byClass n 30 48 144) 0x7FF3FF
  else if o = 0x1C then rg (0xC80000 + byClass n 25 40 120) 0xFFF03FF
  else if o = 0x20 then rg 0xA006403 0xFF3FFF0F
  else if o = 0x24 then rg 0x40 else if o = 0x28 then rg 0 0 0x7FF else if o = 0x2C then rg 0 0x7FF
  else if o = 0x40 then rg 0 0xFFFFFFFF else if o = 0x44 then rg 0x50032 0x1FF0FFF
  else if o = 0x48 then rg 0x36400 0xFFF01 else if o = 0x50 then rg 0 0 0xEF else if o = 0x54 then rg 0 0xFF
  else if o = 0x60 then rg 0x100 0x33C
  else if o = 0x74 || o = 0x78 then rg 0 0xFFFFFFFF else if o = 0x7C then rg 0xFFFF0000 0xFFFFFFFF
  else rg

/-- A power die's window. -/
def dieReg (o : Nat) : RegDesc :=
  if o = 0 then rg 0 0 0x10 else if o = 4 then rg 0x37 0xFF else if o = 0xC then rg 0x22120
  else if o = 0x10 then rg 0 0x3FF else if o = 0x14 then rg 0 0x1F
  else if o = 0x20000 then rg 0x1C00000
  else if 0x10000 ≤ o && o < 0x12000 then chReg ((o - 0x10000) / 0x100) (o % 0x100)
  else rg

/-- The front die's window. -/
def frontReg (o : Nat) : RegDesc :=
  if o = 4 then rg 0 0 0x500
  else if o = 8 then rg 0x1414 0xFFFF else if o = 0xC then rg 0x708 0x1FFFF else if o = 0x10 then rg 1800
  else if o = 0x14 then rg 0 0xFFFFFFFF else if o = 0x18 then rg 0 0x1FFF
  else if o = 0x1C then rg 0 0 0xFFFFFFFF else if o = 0x20 then rg 0 0 0x1FFF
  else if o = 0x24 then rg 0x2D else if o = 0x28 then rg 0 0xFFFFFF else if o = 0x30 then rg 0 0x1FFFF
  else if 0x1000 ≤ o && o < 0x1400 then
    let r := o % 0x40
    if r = 0 then rg 0x601F0002 0xE01F0F03 else if r = 4 then rg 0 0x3FFFFFFF else if r = 8 then rg 0 0x1FFFFFFF
    else if r = 0xC || r = 0x10 then rg 0 0xFFFFFFFF else if r = 0x14 then rg 0 0 0xE0000000 else rg
  else if o = 0x2000 then rg 0 0x3FF
  else if 0x10000 ≤ o && o < 0x10400 then
    let r := o % 0x20
    if r = 4 then rg 0x5140203 0xFFFFFFBF else if r = 8 then rg 0x3818 0xFFFF else rg
  else if o = 0x20000 then rg 0x1C00000
  else rg

/-- SEC page of one engine. -/
def secReg (o : Nat) : RegDesc :=
  if o = 0 then rg 0 0 else if o = 8 then rg 0 0 0x80000000
  else if 0x40 ≤ o && o < 0x80 then
    if o % 0x10 = 4 then rg 0 0x81FF0F07 else if o % 0x10 = 8 then rg 0 0 0x10000 else rg
  else if 0x100 ≤ o && o < 0x500 then
    let r := o % 0x80
    if r = 8 then rg 0 0x7FFF3FFF else if r = 0xC then rg 0 0xFFFF else if r = 0x14 then rg 0 0x1F
    else if 0x20 ≤ r && r < 0x40 then rg 0 0x870001FF
    else if 0x44 ≤ r then rg 0 0xFFFFFFFF else rg
  else if 0x500 ≤ o && o < 0x510 then rg 0 0x80FF3FFF
  else if 0x600 ≤ o && o < 0x640 then rg 1 0x873F03FF
  else rg

/-- Cask controller page. -/
def cskReg (o : Nat) : RegDesc :=
  if o < 0x1000 || 0x5000 ≤ o then rg else
  let r := o % 0x20
  if r = 4 then rg 1 0x80FF01FF else if r = 8 then rg 0x10000000 0xFFFFFFF8 else if r = 0xC then rg 1 0xFFFF else rg

/-- Cellar entry word: writes of words 4 to 7. -/
def entryReg (o : Nat) : RegDesc :=
  let r := o % 0x20
  if r = 0 || r = 0x10 then rg 0 0xFFFFFFFF else if r = 0x14 then rg 0 0x7FFFF
  else if r = 0x18 then rg 0 0x1FF03FF else if r = 0x1C then rg 0 0x1FFF else rg

/-- Cellar controller page. -/
def clrReg (o : Nat) : RegDesc :=
  if o = 0 then rg 0 3 else if o = 4 then rg 0 0 1 else if o = 8 then rg 0 3 else if o = 0xC then rg 0 0xC00001FF
  else if o = 0x14 then rg 0xFFFF0000 0xFFFFFFFF else if o = 0x18 then rg 0x10000000 0xFFFFFFFF
  else if o = 0x24 then rg 0 0xFFFFFFFF else if o = 0x28 then rg 0 0 0x80000000
  else if 0x400 ≤ o && o < 0x800 then
    let r := o % 0x20
    if r = 0 then rg 0x10000 0xC0FF1FFF else if r = 4 then rg 0 0x1EFFF
    else if r = 8 || r = 0xC || r = 0x10 then rg 0 0xFFFFFFFF else if r = 0x14 then rg 0 0xFFFF else rg
  else if 0x800 ≤ o && o < 0xA00 then
    let r := o % 0x10
    if r = 0 then rg 0 0xE00F1F00 else if r = 8 || r = 0xC then rg 0 0xFFFFFFFF else rg
  else if 0x1000 ≤ o && o < 0x3000 then
    let r := o % 0x20
    if r = 4 then rg 0 0xFFF00000 else if r = 8 || r = 0xC then rg 1000 0xFFFFF
    else if r = 0x10 then rg 0 0xFFFFFFFF else rg
  else rg

/-- CAN controller page. -/
def canReg (o : Nat) : RegDesc :=
  if o = 0 then rg 0x40 0x3F7 else if o = 4 then rg 0x17E1F1F 0xFFFF7F7F
  else if o = 8 || o = 0xC then rg 0x3E0F0F 0xFFFF7F7F else if o = 0x10 then rg 0 0x8000FFFF
  else if o = 0x18 then rg 0x181810 0x3F3F3F else if o = 0x1C then rg 0x800A0000 0xCFFF00FF
  else if o = 0x30 then rg 2 7 else if o = 0x34 then rg 0 7 else if o = 0x38 then rg 0 0 0x3FF
  else if o = 0x3C then rg 0 0x3FF
  else if 0x200 ≤ o && o < 0x600 then
    let r := o % 0x80
    if r = 4 then rg 0 0xE0FFFFFF else if r = 8 || r = 0xC then rg 0 0xFFFFFFFF
    else if r = 0x1C then rg 0 0x7F else if r = 0x20 then rg 0 0xFFFFFFFF
    else if 0x40 ≤ r then rg 0 0xFFFFFFFF else rg
  else if 0x800 ≤ o && o < 0xC00 then
    let r := o % 0x10
    if r = 0 || r = 4 then rg 0 0xDFFFFFFF else if r = 8 then rg 0 0x1FF else rg
  else rg

/-- LIN controller page. -/
def linReg (o : Nat) : RegDesc :=
  if o = 0 then rg 0x10 0xE77 else if o = 4 then rg 19200 0x7FFF else if o = 0xC then rg 0 0 0x1F
  else if o = 0x10 then rg 0 0x1F else if o = 0x14 then rg 0x10100 0x803F3F00
  else if 0x100 ≤ o && o < 0x200 then rg 0 0xFF3F
  else if 0x200 ≤ o && o < 0x400 then (if o % 8 = 0 then rg 0 0xFFFF00FF else rg 0 0x1FFFF)
  else rg

/-- Key store page. -/
def kstReg (o : Nat) : RegDesc :=
  if o = 0 then rg 0 0xFF07 else if o = 8 || o = 0xC then rg 0 0xFFFFFFFF
  else if 0x1000 ≤ o && o < 0x3000 && o % 0x20 = 0xC then rg 0 0x800001FF
  else rg

/-- Public-key engine page. -/
def pkeReg (o : Nat) : RegDesc :=
  if o = 8 then rg 0 0xFFFFFFF0 else if o = 0xC then rg 0 0xFFFFFFFF else if 0x40 ≤ o && o < 0x90 then rg 0 0xFFFFFFFF else rg

/-- Port block of a port. -/
def portReg (o : Nat) : RegDesc :=
  if o = 0 then rg 0x2C0005F2 0xFFC03FFF else if o = 4 then rg 0x80000001 0xE000EFFF
  else if o = 8 then rg 0 0 0x4000000 else if o = 0xC then rg 0x66666666 0xFFFFFFFF
  else if o = 0x10 then rg 0xFAC688 0xFFFFFF else if o = 0x14 then rg 0x2008FF 0xCFFFFFFF
  else if o = 0x20 then rg 1 0xA00001FF else if o = 0x24 || o = 0x28 then rg 0 0xFFFFFFFF
  else if 0x40 ≤ o && o < 0x60 then rg 0 0x80FFFFFF
  else rg

/-- A MACsec instance. -/
def msReg (o : Nat) : RegDesc :=
  if o = 0 then rg 0x5E000000 0xFFC00003 else if o = 4 then rg 0 0 0x80000000
  else if o = 8 || o = 0xC || o = 0x10 then rg 0 0xFFFFFFFF else if o = 0x14 then rg 0xC0000000 0xFFFFFFFF
  else if 0x100 ≤ o && o < 0x600 && (o - 0x100) % 0xA0 < 8 then rg 0 0xFFFFFFFF
  else if 0x100 ≤ o && o < 0x600 && (o - 0x100) % 0xA0 = 8 then rg 0 0x80000000
  else rg

/-- Switch page: control, port blocks and MACsec instances. -/
def eswReg (o : Nat) : RegDesc :=
  if o = 0 then rg 300 0xB000FFFF else if o = 4 then rg 0 else if o = 8 then rg 0x20000000 0x3FFFFFFF
  else if 0x100 ≤ o && o < 0x180 && o % 8 = 4 then rg 0 0xF7003FFF
  else if 0x180 ≤ o && o < 0x1A0 then rg 0 0x800001FF
  else if o = 0x2E00 then rg 0xAC0005F2 0x7FC03FFF
  else if 0x1000 ≤ o && o < 0x3000 then portReg ((o - 0x1000) % 0x200)
  else if 0x8000 ≤ o && o < 0x9800 then msReg ((o - 0x8000) % 0x800)
  else rg

/-- Time base unit page. -/
def tbuReg (o : Nat) : RegDesc :=
  if o = 8 then rg 0x20000000 0xFFFFFFFF else if o = 0x10 then rg 2 else if o = 0x14 then rg 0 0 7
  else if o = 0x18 then rg 0 7
  else if 0x100 ≤ o && o < 0x1F0 then
    let r := o % 0x10
    if r = 0 then rg 0 0x800001FF else if r = 4 || r = 8 then rg 0 0xFFFFFFFF else rg
  else if 0x200 ≤ o && o < 0x280 then
    let r := o % 0x20
    if r = 4 then rg 0 0xF00003FF else if r = 8 || r = 0xC || r = 0x10 then rg 0 0xFFFFFFFF else rg
  else rg

/-- Storage controller page. -/
def stgReg (o : Nat) : RegDesc :=
  if o = 0 then rg 0 1 else if o = 4 then rg 0 0 2
  else if 0x100 ≤ o && o < 0x200 && o % 0x10 = 4 then rg 0 0x87FC01FF
  else rg

/-- Block of a bridge: reset value and range of TMO differ for the pair bridge. -/
def brgReg (o : Nat) : RegDesc :=
  let r := o % 0x1000
  if 0x4000 ≤ o then rg
  else if r = 0 then rg (if 0x3000 ≤ o then 500 else 20) 0xFFFF else if r = 0x1C then rg 0 0 0x100
  else if 0x100 ≤ r && r < 0x200 then
    let w := r % 0x10
    if w = 0 then rg (if r = 0x100 && o < 0x3000 then 0x80000000 else 0) 0xE000FFFF 0x10000000
    else if w = 4 then rg 0 0xFFFF else if w = 8 then rg 0 0x7FFFFBF
    else if 0x3000 ≤ o then rg 0 0xFFFFFFFF else rg
  else if 0x400 ≤ r && r < 0x500 && o < 0x3000 then rg 0 0x87FF003F
  else rg

/-- Pair manager page. -/
def prmReg (o : Nat) : RegDesc :=
  if o = 0 then rg 0 0xC0FFFFFF else if o = 8 then rg 0 0 0x8000
  else if o = 0xC || o = 0x14 || o = 0x24 || o = 0x2C then rg 0 0xFFFFFFFF
  else if o = 0x10 || o = 0x18 then rg 0 0xFFFF else if o = 0x20 then rg 0x640000 0x83FF0000
  else if o = 0x28 then rg 0 0xFFFFFFF8 else if o = 0x30 then rg 0 0xFFFFFFE0
  else if o = 0x40 then rg 0 0xFFFFFF else if o = 0x44 then rg 0x4F 0xFFFFFFFF
  else if 0x100 ≤ o && o < 0x180 then (if o % 8 = 0 then rg 0 0xFFFFFFFF else rg 0 0xC1FFFFFF)
  else rg

/-- The register at a physical address. -/
def regDesc (a : Nat) : RegDesc :=
  if 0x40000000 ≤ a && a < 0x40500000 then
    let o := a % 0x10000
    let p := (a - 0x40000000) / 0x10000
    if p = 0 then devReg o else if p = 1 then fcReg o else if p = 2 then icuReg o else if p = 3 then rbcReg o
    else if p = 4 then tnmReg o else if p = 5 then wcuReg o
    else if p = 6 then kstReg o else if p = 8 then pkeReg o else if p = 9 then tbuReg o else if p = 0xF then eswReg o else if p = 0x10 then stgReg o
    else if p = 0x11 then brgReg o else if p = 0x12 then prmReg o
    else if p = 0xA then cskReg o else if p = 0xB then clrReg o else if p = 0xC then secReg (o % 0x1000)
    else if p = 0xD then canReg (o % 0x1000) else if p = 0xE then linReg (o % 0x400)
    else rg
  else if 0x30000000 ≤ a && a < 0x30200000 then entryReg a
  else if 0x80000000 ≤ a && a < 0x82000000 then dieReg (a % 0x1000000)
  else if 0x82000000 ≤ a && a < 0x83000000 then frontReg (a % 0x1000000)
  else rg

end Sys2Proof.Machine
end

