-- ==== Sys2Proof/Machine/State.lean ====
section
/-!
DEFINITION. The state of the FZ9640 as plain data. Memory-mapped registers and tables live in `regs`, keyed by physical
address; byte-addressed memories in `mem`; everything the spec gives the module that has no register lives in the
structures below.
-/

namespace Sys2Proof.Machine

/-- Why the module would stop: nothing stops it (log 110). -/
inductive Fault where
  /-- A command that no sender can form (`Instr.wf` is false of it). No meaning raises it: each carries such a command out on
  its operands as they stand. Safe: the spec gives no such command. -/
  | malformed
  deriving DecidableEq, Repr

/-- Why a command has no meaning here. -/
inductive Refusal where
  /-- The command of that mnemonic is not modelled; raised by its arm of `exec` alone. Safe. -/
  | notModelled (mnemonic : String)
  deriving DecidableEq, Repr

/-- How the last access of an initiator completed (R41, R43). -/
structure Resp where
  status : Status := .done
  data : BitVec 64 := 0
  deriving DecidableEq, Repr

/-- A fault report on its way to the fault collector (R681). -/
structure Report where
  id : Nat
  /-- 0 logic die, 1 P0, 2 P1, 3 F. -/
  src : Nat := 0
  ctx0 : Word := 0
  ctx1 : Word := 0
  tid : BitVec 8 := 0
  w : Bool := false
  time : Word := 0
  fromLog : Bool := false
  noTime : Bool := false
  deriving DecidableEq, Repr

/-- The report buffer of a far die or the front die (R400, R687): at most 16 reports, and how many were overwritten. -/
structure DieLog where
  kept : List Report := []
  lost : Nat := 0
  deriving DecidableEq, Repr

/-! ### Supplies, power sequence and resets (chapter Module, lands, supplies and thermal limits) -/

/-- Where the always-on manager's power sequencer stands (R55–R58, R406). -/
inductive PwrPhase where
  /-- VBAT_AO is absent. -/
  | off
  /-- Left power-on reset, or woken: REG_EN_CORE is due. -/
  | start
  /-- REG_EN of the rail is asserted and its PG is awaited. -/
  | waitPg (r : Rail)
  /-- PG of the rail is asserted and the delay of the next step runs. -/
  | delay (r : Rail)
  /-- The delay after PG_IO has run: the logic die is released now. -/
  | release
  /-- All rails up. -/
  | run
  /-- 100 ms wait after a failed attempt. -/
  | retryWait
  /-- Rails dropped after a PG loss; the enable of the rail falls next. -/
  | lossDrop (r : Rail)
  /-- 10 ms wait after the drop. -/
  | lossWait
  /-- Power-down for sleep; the enable of the rail falls next. -/
  | sleepDrop (r : Rail)
  /-- Power-down complete. -/
  | dropped
  /-- 10 ms with REG_EN_CORE low after a wake latched in POWER_DOWN. -/
  | wakeWait
  /-- Asleep, or given up after three attempts. -/
  | asleep
  deriving DecidableEq, Repr

/-- The always-on manager's sequencer, the lands it drives and samples, and the core supply. -/
structure Power where
  phase : PwrPhase := .start
  enCore : Bool := false
  enSys : Bool := false
  enIo : Bool := false
  pgCore : Bool := false
  pgSys : Bool := false
  pgIo : Bool := false
  /-- Failed power-up attempts of this start. -/
  attempts : Nat := 0
  /-- The rail that failed (R56). -/
  failRail : Option Rail := none
  /-- RSTN_OUT released (R76). -/
  rstnOut : Bool := false
  /-- The logic die is held in reset. -/
  held : Bool := true
  /-- The 1.0 ms hold of a chip reset still runs (R95). -/
  holdRuns : Bool := false
  /-- The instruction selected at the JTAG port: IDCODE from its reset (IEEE 1149.1, R84). -/
  jtag : JtagIr := .idcode
  /-- This power-up follows a start from SLEEP (R399). -/
  fromSleep : Bool := false
  /-- This power-up follows a power-on reset. -/
  fromPor : Bool := true
  /-- PAIR_SEL sample (R73); before the first sampling as an open land with its pull-up reads (DESIGN CHOICE, log 22). -/
  pairSel : Bool := true
  /-- BOOT_SEL sample (R73); before the first sampling likewise (DESIGN CHOICE, log 22). -/
  bootSel : BitVec 2 := 3
  /-- VCORE in mV, and the value a frequency change moves it to (R62). -/
  vcore : Nat := 750
  vcoreGoal : Nat := 750
  /-- Clock of each cluster in 25 MHz: it follows ISL_CTL.FREQ, upwards only once VCORE has arrived. -/
  clk0 : Nat := 40
  clk1 : Nat := 40
  /-- VOUT_MODE has been read this start, and both clusters are capped at 1.5 GHz (R61). -/
  voutRead : Bool := false
  capped : Bool := false
  /-- The 32.768 kHz crystal oscillates (R83). -/
  xtal32k : Bool := false
  deriving DecidableEq, Repr

/-- A die-to-die link (R11–R13). -/
structure LinkSt where
  lanes : Nat := 4
  /-- Carries valid flits. -/
  up : Bool := false
  /-- Flits replayed after a CRC error. -/
  replays : Nat := 0
  deriving DecidableEq, Repr

/-- What an island that is not running waits for (R38, R40). -/
inductive IslPhase where
  | running | stopped | hold | starting
  deriving DecidableEq, Repr

/-- Who waits for a transaction at a boundary: an initiator's access to an address, or an engine thread's instruction with
its status register. -/
inductive WaitBy where
  | access (a : Acc) (addr : Nat) (load : Bool)
  | engine (e t d addr : Nat)
  /-- A BR_REQ of the partner (R541). -/
  | partner (addr : Nat) (load : Bool)
  deriving DecidableEq, Repr

/-! ### Fuses, boot records and the boot (chapter Start-up, reset, images and update) -/

/-- The fuses and what is fused at manufacture. -/
structure Fuses where
  /-- FZ9640-DV rather than FZ9640-AT. -/
  dv : Bool := false
  stepMaj : BitVec 8 := 1
  stepMin : BitVec 8 := 0
  unitId : BitVec 128 := 0
  /-- Blown floor fuses, 0–64 (R109). -/
  floor : Nat := 0
  /-- Signer anchors, none while unprogrammed (R100). -/
  anchors : List (Option (BitVec 384)) := [none, none, none, none]
  revoked : List Bool := [false, false, false, false]
  mfgClosed : Bool := false
  /-- Debug lock fuse (R558). -/
  dbgLock : Bool := false
  deriving DecidableEq, Repr

/-- A boot state record (R97). -/
structure BootRec where
  seq : Nat := 0
  /-- Active bank: false A, true B. -/
  active : Bool := false
  pending : Bool := false
  pendBank : Bool := false
  /-- The running start is a trial of the bank that is not active. -/
  trial : Bool := false
  migrated : Option (BitVec 384) := none
  closeNext : Bool := false
  deriving DecidableEq, Repr

/-- A sealed bank record (R103). -/
structure Sealed where
  digest : BitVec 384
  secVer : Nat
  tag : BitVec 128
  deriving DecidableEq, Repr

/-- Where an image lies: a bank, the NAND system region, a stage-1 copy, or system SRAM at an address. -/
inductive ImgSrc where
  | bank (b : Bool)
  | recovery
  | stage1 (b : Bool)
  | sram (base : Nat)
  deriving DecidableEq, Repr

/-- Boot records that no rule places in MRAM bytes, and the state of the running boot. -/
structure Boot where
  /-- The image that core 0 runs; none in the boot ROM. -/
  src : Option ImgSrc := none
  /-- The two copies of the key store's START_COUNT in MRAM (R598). -/
  startCopies : Nat × Nat := (0, 0)
  /-- Stage 1 waits for a reset or an image over an open debug port (R118), or the boot ROM for a provisioning image (R119). -/
  waitImage : Bool := false
  /-- The MIGRATE section still runs (R115). -/
  migrating : Bool := false
  /-- A provisioning image has passed R101 (R557). -/
  provisioned : Bool := false
  /-- Addresses of the records the migration has written. -/
  migrDone : List Nat := []
  /-- PHY classes whose firmware is loaded (R94). -/
  phyFw : List Nat := []
  /-- Ports whose PHY firmware failed to start; they stay link-down (0x6008). -/
  phyBad : BitVec 15 := 0
  /-- The powered time, in ticks, of each fault-caused chip reset of the last 60 s, oldest first (R694). -/
  rstAt : List Nat := []
  deriving DecidableEq, Repr

/-- Debug state of the running start (R557). -/
structure Debug where
  isOpen : Bool := false
  load : Bool := false
  /-- Program buffer, eight words (R556). -/
  prog : List (Nat × Word) := []
  deriving DecidableEq, Repr

/-! ### Load channels (chapters Load channels; Drive sources) -/

/-- A measurement sample in the two-word layout of R175. -/
structure Sample where
  w0 : Word
  w1 : Word
  deriving DecidableEq, Repr

/-- What a channel holds beside its registers. -/
structure ChInt where
  /-- Wire state θ in A² (R138). -/
  theta : Rat := 0
  /-- PAR_EN, PAR_MASTER and DUAL in effect (R166). -/
  parEn : Bool := false
  parMaster : Nat := 0
  dual : Bool := false
  /-- RETRY_DLY has elapsed since the protective turn-off. -/
  dlyDone : Bool := false
  /-- RETRY_GOOD runs since the last automatic restart (R155). -/
  goodRuns : Bool := false
  /-- Tick of the latest entry to ON; none when it lies before the logic die's latest reset (R195). -/
  onAt : Option Nat := none
  /-- The drive line that CH_DRV names is not held by the channel's owner (R246). -/
  barred : Bool := false
  /-- Current samples since the last monitor update: their number, the sum of forward currents in µA, and the sum of
  I² × R in µA² × µΩ / 2000 (R177). -/
  monN : Nat := 0
  monI : Nat := 0
  monP : Nat := 0
  /-- Demand held at the entry to limp-home, and whether its hold window has expired (R201, R202). -/
  held : Bool := false
  holdOver : Bool := false
  /-- On-state diagnostic counts (R196). -/
  olCnt : Nat := 0
  plCnt : Nat := 0
  /-- Off-state diagnostic counts and the pull-up (R197, R198). -/
  openCnt : Nat := 0
  shortCnt : Nat := 0
  pullUp : Bool := false
  /-- The 100 µA sink of R700 is connected. -/
  sink : Bool := true
  /-- The next current sample carries HANDOVER (R170). -/
  handover : Bool := false
  /-- Taking part in the running tasting: good frame seen before (R216). -/
  prevGood : Option (BitVec 64 × BitVec 16) := none
  deriving DecidableEq, Repr

/-- What a power die holds beside its registers. -/
structure DieInt where
  /-- The die's control supply is present (R52). -/
  supplied : Bool := false
  /-- Converter assigned to each channel of the die (R169). -/
  conv : List Nat := List.range 32
  /-- Next channel of the fixed rotation whose converter is relieved. -/
  rotation : Nat := 0
  /-- The calibration slot whose converter is calibrated and may take over: false A, true B. -/
  calibrated : Option Bool := none
  retired : List Nat := []
  uncal : Bool := false
  /-- Measurement FIFO, oldest first (R176), and samples seen since the last taken, by channel × 8 + kind. -/
  fifo : List Sample := []
  seen : List (Nat × Nat) := []
  /-- A stagger runs, its first slot has begun, and the channels it has restarted (R147–R149). -/
  stagger : Bool := false
  slotRan : Bool := false
  started : List Nat := []
  /-- Fault 0x8045 has been reported for this limp-home (R202). -/
  holdReported : Bool := false
  /-- The supervisor load of this start failed twice: the die stays in limp-home (R93). -/
  loadFailed : Bool := false
  /-- Sums of forward currents of the latest tenths of a second, in µA, newest first (R177). -/
  iTenths : List Nat := []
  /-- Reverse battery holds (R161). -/
  reversed : Bool := false
  /-- Tasting queue in order of acceptance, and the channel on the probe (R213). -/
  tasteQ : List Nat := []
  probe : Option Nat := none
  /-- The probe's tasting has been decided and its end is due; the receiver has seen a start delimiter. -/
  tasteOver : Bool := false
  delimiter : Bool := false
  deriving DecidableEq, Repr

/-- One queued edge of a drive line (R248, R249). -/
structure Edge where
  at_ : Word
  level : Bool
  /-- An immediate edge of `dset`. -/
  now : Bool := false
  /-- It has reached the die. -/
  arrived : Bool := false
  deriving DecidableEq, Repr

/-- A drive line: the queue of its engine, and the level each side has (R189, R248–R252). -/
structure LineInt where
  queue : List Edge := []
  /-- Level the line has at its die. -/
  dieLevel : Bool := false
  /-- Instant of the edge last queued, while none has been discarded since (R249). -/
  lastAt : Option Word := none
  /-- TMO has expired and no edge has been received since (R251). -/
  timedOut : Bool := false
  deriving DecidableEq, Repr

/-- What a sense input holds beside its registers (R191). -/
structure SinInt where
  cnt : Nat := 0
  /-- The pulse series of R192 restarts within 1 ms. -/
  restart : Bool := false
  deriving DecidableEq, Repr

/-- What the front die holds beside its registers. -/
structure FrontInt where
  fifo : List Sample := []
  seen : List (Nat × Nat) := []
  /-- Armed wake detectors by wake source code (R402). -/
  armed : List Nat := []
  /-- Detection turned off by a fail-safe sleep (R417). -/
  detOff : List Nat := []
  /-- CAN transceivers that have stopped decoding wake-up frames (R412). -/
  deaf : List Nat := []
  /-- CAN transceivers that decode frames because a wake-up pattern started them (R410). -/
  decoding : List Nat := []
  /-- Live frame error counters by CAN number (R412). -/
  fec : List (Nat × Nat) := []
  /-- The awake timer and the fail-safe timer run (R415, R416); the seconds the awake timer started from, and what is left
  of it in ticks of 2 ns. -/
  awakeRuns : Bool := false
  awakeMax : Nat := 1800
  awakeLeft : Nat := 900000000000
  failSafeRuns : Bool := false
  /-- A wake condition was met in POWER_DOWN (R406). -/
  wakeLatched : Bool := false
  /-- The running power-down was forced by the fail-safe timer (R417). -/
  forced : Bool := false
  /-- The permit line to both power dies: the pair interlock permits (R168, R661). -/
  permit : Bool := false
  /-- LIN transceivers in STANDBY, and the modes that the LIN controllers had when POWER_DOWN was entered, until the next
  logic-die start (R405, R413, R414). -/
  linStandby : List Nat := []
  linSlept : Option (List Nat) := none
  /-- The pair role (R659): 0 OFFLINE, 1 SOLO, 2 STANDBY, 3 ACTIVE; PAIR_OWN reads low; width of the last pulse on PAIR_HBO
  in µs, and the ticks for which it still stands high (R72). -/
  role : Nat := 0
  ownLow : Bool := false
  hbo : Nat := 0
  hboLeft : Nat := 0
  deriving DecidableEq, Repr

/-! ### Application cores and worlds -/

/-- Privilege mode of a hart (R544). -/
inductive Mode where
  | m | s | u | vs | vu
  deriving DecidableEq, Repr

/-- One bank of the machine trap CSRs (R570). -/
structure Bank where
  mstatus : DWord := 0
  mtvec : DWord := 0
  mepc : DWord := 0
  mcause : DWord := 0
  mtval : DWord := 0
  mscratch : DWord := 0
  mie : DWord := 0
  mip : DWord := 0
  deriving DecidableEq, Repr

/-- A hart's access under way (R43, R547): its physical and virtual address, the register that its data is loaded into, how,
and where the hart continues. -/
structure HWait where
  addr : Nat
  va : DWord
  rd : Nat := 0
  fp : Bool := false
  bytes : Nat := 8
  signed : Bool := false
  load : Bool := false
  next : DWord
  deriving DecidableEq, Repr

/-- A translation that a hart has made: everything that it depended on beside the page tables, and the pages. -/
structure TlbEnt where
  key : List Nat
  page : Nat
  base : Nat
  deriving DecidableEq, Repr

/-- One hart. -/
structure Hart where
  /-- Integer registers by number, x0 never listed; floating-point registers; mirror rows of both files (R560). -/
  x : List (Nat × DWord) := []
  f : List (Nat × DWord) := []
  mx : List (Nat × DWord) := []
  mf : List (Nat × DWord) := []
  pc : DWord := 0
  mode : Mode := .m
  /-- Held in reset until released through RBC (R86). -/
  held : Bool := true
  /-- Reserve and Table banks (R570). -/
  bankR : Bank := {}
  bankT : Bank := {}
  /-- CSRs shared by both worlds, by number, where they differ from their reset values. -/
  csrs : List (Nat × DWord) := []
  /-- Halted in debug mode. -/
  halted : Bool := false
  /-- Its access that is under way. -/
  await : Option HWait := none
  /-- LR reservation: physical address. -/
  resv : Option Nat := none
  /-- Ticks of the last mismatches, newest first (R566). -/
  mismatches : List Nat := []
  /-- Pages that its TLBs hold (R544). -/
  tlb : List TlbEnt := []
  /-- Halt-on-reset is set for it in the debug module (R556). -/
  resetHalt : Bool := false
  /-- Pending identities of the interrupt files: 0 machine, 1 supervisor, 1 + g guest file g (R550). -/
  imsic : List (Nat × List Nat) := []
  deriving DecidableEq, Repr

/-- An MSI in flight (R550): file 0 machine, 1 supervisor, 1 + g guest file g. -/
structure Msi where
  hart : Nat
  file : Nat
  eiid : Nat
  deriving DecidableEq, Repr

/-- Reserve watchdog state beside its registers (R583). -/
structure Rwd where
  /-- TMO and WMIN in force. -/
  tmo : Nat := 500
  wmin : Nat := 0
  /-- Tick from which it counts: the write of EN or the last accepted kick, moved on while it is paused. -/
  since : Nat := 0
  /-- Expired, its chip reset due. -/
  expired : Bool := false
  /-- Half the timeout has passed in this count. -/
  warned : Bool := false
  deriving DecidableEq, Repr

/-! ### Fault collection -/

/-- A record whose MRAM log write is under way (R686). -/
structure LogWrite where
  lseq : Nat
  seq : Nat
  /-- The record as it was made. -/
  record : List Byte
  /-- Bit of RST_CAUSE of the chip reset that follows (R694): 4 FAULT, 3 RES_WDT. -/
  reset : Option Nat
  deriving DecidableEq, Repr

/-- Escalation counting of one entry (R689). -/
structure EscCnt where
  count : Nat := 0
  /-- The tick at which the first report counted opened the window. -/
  since : Nat := 0
  staged : Word := 0
  deriving DecidableEq, Repr

/-- What FC holds beside its registers. -/
structure FcInt where
  esc : List (Nat × EscCnt) := []
  logWrites : List LogWrite := []
  /-- The ring is overwriting unread records (R685). -/
  overrun : Bool := false
  deriving DecidableEq, Repr

/-! ### Time base (chapter Time base and time-stamps) -/

/-- The time base beside its registers. -/
structure TbInt where
  /-- 60-bit accumulator: 32 integer and 28 fraction bits of nanoseconds (R463). -/
  acc : Nat := 0
  /-- The step that waits (R466), as the word written. -/
  step : Option Word := none
  deriving DecidableEq, Repr

/-! ### Signal engines (chapters Signal engines; Quifer instruction reference) -/

/-- What a thread that is HELD or WAITING still has to write (R221, R240). -/
inductive Held where
  /-- Completed outside: register writes and flags due. -/
  | result (ws : List (Nat × Word)) (flags : Word)
  /-- An `ftx` waits for room in its port, with the frame it has checked (R234). -/
  | ftx (d port : Nat) (frame : Frame)
  /-- A `qput` waits for room in its Cask. -/
  | qput (d cask addr : Nat)
  /-- A `dedge` or `dset` waits for a free queue entry; `at_` is none for an immediate edge. -/
  | edge (d line : Nat) (at_ : Option Word) (level : Bool)
  /-- A `wait`: its mask and deadline. -/
  | wait (d : Nat) (mask : Word) (deadline : Option Word)
  deriving DecidableEq, Repr

/-- What a thread holds beside its SEC registers. -/
structure ThrInt where
  held : Option Held := none
  /-- One instruction is released by STEP (R269). -/
  stepping : Bool := false
  /-- HALT was written while the thread was HELD (R223). -/
  haltReq : Bool := false
  deriving DecidableEq, Repr

/-- What an engine holds beside its SEC registers and memories: its measurement FIFO and the decimation count of each
subscription, with the time of its last write (R254, R255). -/
structure EngInt where
  fifo : List Sample := []
  seen : List (Nat × Nat) := []
  /-- Serial number of the first sample each subscription counts (R254). -/
  since : List (Nat × Nat) := []
  deriving DecidableEq, Repr

/-! ### Casks (chapter Casks, tenant slices and mailboxes) -/

/-- A measurement sample on its way to the SE island, with its serial number (R255). -/
structure MeasTx where
  x : Sample
  serial : Nat
  deriving DecidableEq, Repr

/-- A CK_PUT that waits for room (R494): who stored it, and its source. -/
structure PutWait where
  acc : Acc
  src : Nat
  deriving DecidableEq, Repr

/-- What a Cask holds beside its registers: the ring positions of WR, RD, REL and MARK (R482), and waiting stores. -/
structure CaskInt where
  pw : Nat := 0
  pr : Nat := 0
  pl : Nat := 0
  pm : Nat := 0
  waits : List PutWait := []
  deriving DecidableEq, Repr

/-- A tenant reset under way: items it has aborted (R512). -/
structure TnReset where
  tid : Nat
  aborted : Nat
  deriving DecidableEq, Repr

/-! ### CAN and LIN controllers (chapter CAN and LIN channels) -/

/-- A frame in a CAN transmit FIFO; a routed one carries its MAX_AGE in ms (R335). -/
structure TxFrame where
  f : Frame
  maxAge : Option Nat := none
  /-- Ticks when the FIFO accepted it. -/
  since : Nat := 0
  deriving DecidableEq, Repr

/-- What the controller has on the bus: the FIFO head or a transmit-at-time slot. -/
inductive Sending where
  | head | slot (k : Nat)
  deriving DecidableEq, Repr

/-- Committed contents and due state of a transmit-at-time slot (R371–R374). -/
structure TatInt where
  data : List Byte := []
  /-- Next instant of the due series, none when it has none. -/
  next : Option Word := none
  /-- Due since that instant. -/
  due : Option Word := none
  /-- The due instant of the instance that the controller has on the bus (R374). -/
  onBus : Option Word := none
  /-- Ticks when the data was last committed (TAT_LDT). -/
  date : Nat := 0
  deriving DecidableEq, Repr

/-- What a CAN controller holds beside its registers. -/
structure CanInt where
  txf : List TxFrame := []
  /-- Ticks when the frame at the head became the head (R369). -/
  headSince : Nat := 0
  q0 : List Frame := []
  q1 : List Frame := []
  tat : List (Nat × TatInt) := []
  /-- What the controller offers or sends, and the contents it started with. -/
  sending : Option (Sending × Frame) := none
  /-- A frame of any node is in progress on the bus, since that instant (R360, R378). -/
  inFrame : Option Word := none
  /-- The controller was the transmitter of the frame that the last error or overload flag followed (R379). -/
  flagTx : Bool := false
  /-- A write of OFF waits for the end of the frame in progress (R360). -/
  offDue : Bool := false
  /-- The bus-off recovery sequence runs (R379); automatic recovery has been decided for this bus-off (R381). -/
  recovering : Bool := false
  decided : Bool := false
  /-- Faults 0x5005 and 0x5004 have been reported since CNT_RST (R369, R378). -/
  holSaid : Bool := false
  dropSaid : Bool := false
  /-- The last frame sent on the bus. -/
  lastSent : Option Frame := none
  deriving DecidableEq, Repr

/-- What a LIN controller holds beside its registers. -/
structure LinInt where
  rx : List Frame := []
  /-- Port buffers by frame identifier (R390). -/
  bufs : List (Nat × List Byte) := []
  /-- Identifier whose response is awaited, with the time-stamp of the break. -/
  await : Option (Nat × Word) := none
  /-- Position in the active schedule bank. -/
  idx : Nat := 0
  /-- A slot of the schedule is running. -/
  inSlot : Bool := false
  /-- The last response with its checksum, the last header's protected identifier, and the wake-up signals sent. -/
  lastResp : Option (List Byte) := none
  lastHeader : Option Nat := none
  wakes : Nat := 0
  deriving DecidableEq, Repr

/-! ### The Cellar controller (chapter The Cellar) -/

/-- Where a decant schedule's series stands (R325–R329). -/
structure DsInt where
  /-- Next fire of CYCLIC, or the due fire of UPDATE and MIXED. -/
  next : Option Word := none
  /-- Ticks at the last fire (DS_LAST), none before the first. -/
  fired : Option Nat := none
  /-- DS_CFG was written and no merge has been reported since (R328). -/
  fresh : Bool := true
  deriving DecidableEq, Repr

/-- A transmit tunnel's collected messages (R343). -/
structure TunInt where
  msgs : List (List Byte) := []
  /-- Previous sequence number of a receive tunnel (R345). -/
  prevSeq : Option Nat := none
  deriving DecidableEq, Repr

/-- A running snapshot (R348–R351): its range and destination, and old contents of entries changed since the cut. -/
structure Snap where
  first : Nat
  last : Nat
  dst : Nat
  /-- Next handle to be copied; those below are done. -/
  done : Nat
  saved : List (Nat × List Word) := []
  /-- Handles that a write has put into their bank's save buffer. -/
  used : List Nat := []
  /-- 1 bank cycle in 16 is taken (R350). -/
  urgent : Bool := false
  /-- Taken for a vintage of the pair manager (R674). -/
  forPair : Bool := false
  deriving DecidableEq, Repr

/-- What CLR holds beside its registers and tables. -/
structure ClrInt where
  ds : List (Nat × DsInt) := []
  txTun : List (Nat × TunInt) := []
  rxTun : List (Nat × TunInt) := []
  snap : Option Snap := none
  /-- How the pair manager's snapshot ended. -/
  pairEnd : Option Status := none
  /-- A snapshot has ended ABORTED and been reported since the last CNT_RST (R351). -/
  abortSaid : Bool := false
  deriving DecidableEq, Repr

/-! ### The Ethernet switch (chapter Ethernet switch, PHYs and stream control) -/

/-- A frame inside the switch, without FCS: addresses, what follows its first VLAN tag and R-TAG, its VLAN and priority, the
sequence number of a generated or recovered stream, its length as received with FCS, and where and when it came in. -/
structure EFrame where
  uid : Nat := 0
  da : List Byte := []
  sa : List Byte := []
  rest : List Byte := []
  vid : Nat := 1
  pcp : Nat := 0
  dei : Bool := false
  seq : Option Nat := none
  size : Nat := 0
  ingress : Nat := 0
  time : Word := 0
  sub : Nat := 0
  /-- It leaves untagged whatever its VLAN (R670). -/
  plain : Bool := false
  deriving DecidableEq, Repr

/-- A frame in reception (R433–R441): the frame as it is forwarded, the egress queues that admitted it, and the ports that
send it by cut-through. -/
structure EthRx where
  f : EFrame
  /-- The bytes as received, without FCS. -/
  raw : List Byte := []
  /-- To be decided at its tail: a MACsec port verifies the whole frame first (R454). -/
  later : Bool := false
  admitted : List (Nat × Nat) := []
  cut : List Nat := []
  /-- Ticks at its first 64 bytes. -/
  since : Nat := 0
  deriving DecidableEq, Repr

/-- A frame that leaves a port. -/
structure EthSend where
  f : EFrame
  cls : Nat
  /-- The bytes it leaves with, without FCS. -/
  wire : List Byte := []
  /-- Sent by cut-through, and its tail has not arrived. -/
  thru : Bool := false
  open_ : Bool := false
  /-- It ends with a marked FCS. -/
  marked : Bool := false
  /-- Key slot whose key protects it (R603). -/
  ms : Option Nat := none
  /-- Time at its start. -/
  at_ : Word := 0
  deriving DecidableEq, Repr

/-- Scheduled traffic of a port beside its registers (R445–R447). -/
structure TasInt where
  idx : Nat := 0
  /-- Start of the running cycle, cycle length in force, and the instant at which a pending list takes over. -/
  start : Word := 0
  cycle : Nat := 0
  due : Word := 0
  /-- Bank, length and cycle of the pending list. -/
  newBank : Nat := 0
  newLen : Nat := 0
  newCycle : Nat := 0
  deriving DecidableEq, Repr

/-- A port. -/
structure EthPort where
  rx : Option EthRx := none
  /-- Class queues by class; on P15 by host destination. -/
  queues : List (Nat × List EFrame) := []
  sending : Option EthSend := none
  /-- Shaper credit by class in 2 × 10⁻⁶ bit, and the tick up to which it is counted (R448). -/
  credit : List (Nat × Int) := []
  creditAt : List (Nat × Nat) := []
  tas : TasInt := {}
  /-- Transmit records that wait for room in their Cask (R476). -/
  txts : List (List Byte) := []
  /-- One above the tick at which fault 0x6080 was last reported. -/
  txtsSaid : Nat := 0
  /-- One above the tick at which each drop fault was last reported (R459). -/
  said : List (Nat × Nat) := []
  /-- A TC10 sleep request awaits its answer; wake-up requests sent (R423). -/
  tc10 : Bool := false
  wur : Nat := 0
  /-- Counters by offset, and their shadow (R459). -/
  cnt : List (Nat × Nat) := []
  shadow : List (Nat × Nat) := []
  /-- The last frame sent, and whether its FCS was marked. -/
  lastTx : Option (List Byte × Bool) := none
  deriving DecidableEq, Repr

/-- One recovery function's history (R452): none until a frame has been passed since its reset. -/
structure FrerInt where
  seq : Option Nat := none
  hist : List Bool := []
  /-- Ticks when a frame was last passed. -/
  passed : Nat := 0
  deriving DecidableEq, Repr

/-- A flow meter's token buckets in 2 × 10⁻⁶ bit, and the tick up to which they are filled (R450). -/
structure MeterInt where
  c : Nat := 0
  e : Nat := 0
  at_ : Nat := 0
  deriving DecidableEq, Repr

/-- A MACsec association as committed (R455–R458). -/
structure MsSa where
  en : Bool := false
  slot : Nat := 0
  ssci : Word := 0
  salt : Nat := 0
  pn : Nat := 0
  exh : Bool := false
  /-- A frame waits for KST to commit PN_RESV + 2^20. -/
  waits : Bool := false
  deriving DecidableEq, Repr

/-- A PDU or frame delivered to an internal user: its bytes, its stamp and its ingress port. -/
structure HostRx where
  bytes : List Byte
  time : Word
  sub : Nat
  ingress : Nat
  deriving DecidableEq, Repr

/-- What the switch holds beside its registers and tables. -/
structure EswInt where
  nextUid : Nat := 1
  ports : List (Nat × EthPort) := []
  /-- Frames of the tunnel unit and the pair manager that wait to enter on P15. -/
  hostIn : List (List Byte) := []
  /-- PDUs delivered to the receive tunnels, by tunnel, and frames delivered to the pair manager. -/
  tunIn : List (Nat × List HostRx) := []
  pairIn : List HostRx := []
  /-- Engine receive and transmit queues by number. -/
  rxq : List (Nat × List Frame) := []
  txq : List (Nat × List Frame) := []
  /-- Next source of the round robin over HTX0–HTX7, the engine transmit queues and the internal frames; next host queue of
  P15. -/
  rr : Nat := 0
  hostRr : Nat := 0
  /-- FDB_CMD as written with the GO of the running flush (R434). -/
  flush : Word := 0
  frer : List (Nat × FrerInt) := []
  meters : List (Nat × MeterInt) := []
  /-- Associations by instance × 128 + channel × 8 + AN; channel 8 is the transmit channel. -/
  sas : List (Nat × MsSa) := []
  deriving DecidableEq, Repr

/-! ### Key store and cipher engine (chapter Key store, attestation and cipher engine) -/

/-- The new contents of a slot: key, attributes, GCM fixed field, first invocation counter value, grant and parent. -/
structure SlotFill where
  key : List Byte
  attr : Word
  ivFixed : Word := 0
  inv : Nat := 0
  grant : Word := 0
  parent : Option Nat := none
  deriving DecidableEq, Repr

/-- What a key slot holds beside its registers. -/
structure SlotInt where
  key : List Byte := []
  ivFixed : Word := 0
  /-- Next invocation counter value (R620). -/
  inv : Nat := 0
  /-- The slot's change count. -/
  gen : Nat := 0
  /-- INV and MS_HWM may not pass these of a persistent slot: INV_RESV and PN_RESV (R621, R458). -/
  resv : Nat := 0
  hwm : Nat := 0
  pnResv : Nat := 0
  /-- The copy of the persistent record that wins: false A, true B (R597). -/
  win : Option Bool := none
  /-- A staged rewrite that has not taken effect (R604). -/
  staged : Option SlotFill := none
  deriving DecidableEq, Repr

/-- A record that KST writes (R598), and what the slot becomes when it is durable: none for EMPTY. -/
structure KstCommit where
  slot : Nat
  record : List Byte
  fill : Option SlotFill
  deriving DecidableEq, Repr

/-- What KST and PKE hold beside their registers. -/
structure KstInt where
  /-- The test rootstock is the active root of this start (R587). -/
  testRoot : Bool := false
  epochSeq : Nat := 0
  slots : List (Nat × SlotInt) := []
  /-- The commit of an accepted key update message. -/
  commit : Option KstCommit := none
  /-- The statement being signed, bytes 0x000–0x8FF (R625), and its destination. -/
  signing : Option (List Byte × Nat) := none
  /-- RST_CAUSE at the start (R624). -/
  rstStart : Word := 0
  /-- Attestation is refused until the next start (R590). -/
  attFail : Bool := false
  deriving DecidableEq, Repr

/-- A cipher context (R612, R617). Mode 5 stands for a CMAC. -/
structure CphCtx where
  tid : BitVec 8
  w : Bool
  mode : Nat
  flags : Nat
  slot : Nat
  gen : Nat
  bytes : Nat := 0
  aad : Nat := 0
  chain : List Byte := []
  ghash : Nat := 0
  j0 : List Byte := []
  part : List Byte := []
  deriving DecidableEq, Repr

/-- Where a cipher job stands. -/
inductive JobPhase where
  /-- Behind a pending slot change, since that time. -/
  | waiting (since : Nat)
  | active
  /-- Its message waits for the commit of INV_RESV (R621). -/
  | invWait
  /-- Ended with its status, AUTH and OUT_LEN. -/
  | ended (st : Status) (auth out : Nat)
  /-- Its completion waits for room in its Cask, since that time. -/
  | posting (st : Status) (auth out : Nat) (since : Nat)
  deriving DecidableEq, Repr

/-- A cipher job: its entry, its submitter's tags, its completion Cask and the fields of its descriptor (R611). -/
structure CphJob where
  entry : Nat
  tid : BitVec 8
  w : Bool
  cask : Nat
  /-- Descriptor address as submitted, and the address of the descriptor on the fabric. -/
  desc : Nat
  descAt : Nat
  op : Nat
  mode : Nat
  slot : Nat
  flags : Nat
  ctx : Nat
  dstSlot : Nat
  keyLen : Nat
  tagLen : Nat
  srcLen : Nat
  aadLen : Nat
  src : Nat
  dst : Nat
  aad : Nat
  iv : List Byte
  attr : Word
  phase : JobPhase := .active
  deriving DecidableEq, Repr

/-- What CPH holds beside its registers: jobs in the order of their acceptance, contexts, tickets of saved GCM encryption
contexts, the next ticket's value, and the times of the last mismatches (R611–R619). -/
structure CphInt where
  jobs : List CphJob := []
  ctxs : List (Nat × Option CphCtx) := []
  tickets : List Nat := []
  nextTicket : Nat := 1
  mismatches : List Nat := []
  deriving DecidableEq, Repr

/-! ### Storage (chapter On-module storage) -/

/-- A namespace's entry in the namespace table (R630, R644–R647). -/
structure NsRec where
  size : Nat
  data : Bool
  enc : Nat
  unit : Bool
  slot : Nat
  tid : BitVec 8
  w : Bool
  salt : List Byte := []
  kcv : List Byte := []
  deriving DecidableEq, Repr

/-- Counts of a region's health record (R657). -/
structure RegionHealth where
  hostWr : Nat := 0
  nandWr : Nat := 0
  grown : Nat := 0
  /-- Erase counts by block. -/
  pe : List (Nat × Nat) := []
  deriving DecidableEq, Repr

/-- What the NAND keeps across every reset: namespace table, logical blocks as stored by (NSID × 2^40 + LBA), health. -/
structure Nand where
  table : List (Nat × NsRec) := [(0, ⟨16384, false, 0, false, 0, 0, true, [], []⟩)]
  blocks : List (Nat × List Byte) := []
  /-- The last shutdown was not clean (R641). -/
  unclean : Bool := false
  sys : RegionHealth := {}
  dat : RegionHealth := {}
  tempMax : Int := 0
  hostRd : Nat := 0
  uncCnt : Nat := 0
  refreshCnt : Nat := 0
  unsafeCnt : Nat := 0
  /-- Time above 105 °C in ticks of 2 ns. -/
  hotTicks : Nat := 0
  /-- Powered time of earlier starts in ticks, and the programmed blocks, by region × 65,536 + block, with the retention
  time at which each was first programmed since its erase (R654). -/
  powered : Nat := 0
  born : List (Nat × Nat) := []
  /-- Blocks that are never used again, numbered as in `born`: each was retired when a program or erase of it failed (R650). -/
  bad : List Nat := []
  deriving DecidableEq, Repr

/-- Blocks of the write buffer that are not yet durable: one block as it is stored, or a trimmed range (R639, R640). -/
structure BufBlk where
  uid : Nat
  ns : Nat
  lba : Nat
  cnt : Nat := 1
  data : Option (List Byte)
  deriving DecidableEq, Repr

/-- A storage command in flight (R634, R637). -/
structure StgCmd where
  entry : Nat
  qp : Nat
  tid : BitVec 8
  w : Bool
  opc : Nat
  ns : Nat
  flags : Nat
  tag : Nat
  lba : Nat
  count : Nat
  addr : Nat
  param : List Byte
  /-- The health report at the moment the command was taken; buffered blocks a FLUSH waits for are those below `mark`. -/
  report : List Byte := []
  mark : Nat := 0
  /-- Blocks already moved, and buffered blocks a WRITE with FUA waits for. -/
  moved : Nat := 0
  fua : List Nat := []
  /-- It waits behind a pending key change since that time. -/
  keyWait : Option Nat := none
  /-- Ended with its status and INFO; its completion waits for room since that time. -/
  ended : Option (Status × Nat) := none
  posting : Option Nat := none
  deriving DecidableEq, Repr

/-- What STG holds beside its registers. -/
structure StgInt where
  cmds : List StgCmd := []
  buf : List BufBlk := []
  nextUid : Nat := 1
  /-- Queue pair whose turn is next. -/
  rr : Nat := 0
  /-- Namespaces in KEY_ABSENT (R647). -/
  absent : List Nat := []
  /-- NAND junction in 0.0625 K, and whether programs are stopped since 135 °C (R656). -/
  temp : Int := 0
  stopped : Bool := false
  /-- Tick since which the junction has been above 105 °C. -/
  hotSince : Option Nat := none
  /-- Programmed blocks that this start has not sampled yet, and NAND slots that host commands have taken since the last
  slot of scrub (R654). -/
  due : List Nat := []
  hostSlots : Nat := 0
  /-- The last NAND slot was a host command's; was a program (R652, R656). -/
  lastHost : Bool := false
  lastProg : Bool := false
  deriving DecidableEq, Repr

/-- An event unit beside its registers (R478–R480): its land's level, and how many pulses of its series have risen. -/
structure EvInt where
  level : Bool := false
  k : Nat := 0
  deriving DecidableEq, Repr

/-! ### Inner bridges and the pair bridge (chapter Inner bridges and the pair bridge) -/

/-- What a bridge transaction asks of the far side (R519, R526, R531): a read, a write, a line fetch, a locked read, an
unlocking write of SC.W, and the two halves of an AMO, the second with the old value. -/
inductive BrOp where
  | read | write | line | lr | sc | amo (k : Fin 9) | amoWrite (k : Fin 9) (old : Word)
  deriving DecidableEq, Repr

/-- Where a bridge transaction stands: waiting at the bridge, sent, or performed with its answer on the way back. -/
inductive BrPhase where
  | queued | sent | answered (st : Status) (data : DWord)
  deriving DecidableEq, Repr

/-- A transaction of a bridge, with its offset in the bridge's region (R520–R524). -/
structure BrTx where
  tag : Nat
  acc : Acc
  tid : BitVec 8
  w : Bool
  off : Nat
  bytes : Nat
  op : BrOp
  data : DWord := 0
  win : Nat
  /-- A posted write that the bridge has accepted. -/
  posted : Bool := false
  /-- It holds one of the 64 places (R520). -/
  placed : Bool := false
  phase : BrPhase := .queued
  /-- Ticks when it was sent. -/
  sentAt : Nat := 0
  /-- It has timed out; its response is discarded (R524). -/
  dead : Bool := false
  /-- The link was lost while it was in flight: no answer comes. -/
  lost : Bool := false
  /-- Words of a fetched line, none where the far side refused one. -/
  words : List (Option Word) := []
  /-- A write has touched the line that it fetches (R531). -/
  spoiled : Bool := false
  /-- Its initiator's island has been reset since; its response is discarded (R17). -/
  orphan : Bool := false
  deriving DecidableEq, Repr

/-- An error record (R535). -/
structure BrErr where
  off : Nat
  win : Nat
  tid : BitVec 8
  w : Bool
  st : Status
  time : Word
  deriving DecidableEq, Repr

/-- A prefetched line of 64 bytes, tagged with its reader; `given` are the words delivered (R531, R532). -/
structure BrLine where
  uid : Nat
  base : Nat
  tid : BitVec 8
  w : Bool
  win : Nat
  words : List (Option Word)
  given : List Nat := []
  deriving DecidableEq, Repr

/-- The far die's semaphore: who holds it, the word, and the word's image at the locked read (R527). -/
structure BrSem where
  who : Who
  off : Nat
  image : Word
  deriving DecidableEq, Repr

/-- What a bridge holds beside its registers. -/
structure BridgeInt where
  /-- In order of acceptance; an AMO's write moves behind those already sent. -/
  txs : List BrTx := []
  nextTag : Nat := 0
  errs : List BrErr := []
  /-- In order of use, least recent first; `uid` rises with the fetch. -/
  lines : List BrLine := []
  sem : Option BrSem := none
  /-- Interrupt sources whose assertion has been acted on (R538). -/
  told : List Nat := []
  /-- The pair bridge has found its partner reachable (R542). -/
  pairUp : Bool := false
  deriving DecidableEq, Repr

/-! ### Paired operation (chapter Paired operation and fail-over) -/

/-- Arbitration after START (R666). -/
inductive PrmStart where
  | idle | listen | guard
  deriving DecidableEq, Repr

/-- What is known of a heartbeat path. -/
inductive PrmPath where
  | unknown | delivering | silent
  deriving DecidableEq, Repr

/-- Where the running vintage stands (R674): its snapshot runs, its frames go out, or its acknowledgement is awaited. -/
inductive VinPhase where
  | idle | copy | ack
  deriving DecidableEq, Repr

/-- Hand-over on the active (R679): none, its final vintage not yet started, running, or control given up. -/
inductive HandPhase where
  | none | wait | final | given
  deriving DecidableEq, Repr

/-- What PRM holds beside its registers. -/
structure PrmInt where
  start : PrmStart := .idle
  /-- An ACTIVE beat or a low PAIR_OWN during the listen. -/
  heard : Bool := false
  line : PrmPath := .unknown
  frame : PrmPath := .unknown
  /-- Frames sent since the start; those that wait for room in P14's queue. -/
  seq : Nat := 0
  out : List (List Byte) := []
  /-- (EPOCH, SEQ) last accepted, and one above the tick of the last report of fault 0x7046. -/
  last : Option (Nat × Nat) := none
  badSaid : Nat := 0
  /-- Vintages of the active: number of the last one started, its phase and header. -/
  vseq : Nat := 0
  vin : VinPhase := .idle
  header : List Byte := []
  hand : HandPhase := .none
  /-- Vintage being received by the standby: its VSEQ and the offsets that have arrived. -/
  rxSeq : Option Nat := none
  rxOffs : List Nat := []
  /-- Tick at which the standby last committed a vintage. -/
  vinAt : Option Nat := none
  /-- Tick from which HEALTH_RUN counts; the permit self-test passed in the last 100 ms. -/
  runFrom : Nat := 0
  selfTest : Bool := false
  /-- Armed for a hand-over (R679). -/
  armed : Bool := false
  deriving DecidableEq, Repr

/-! ### Transactions at island boundaries -/

/-- What the initiators of an island held when an island reset returned them to their reset state, for the transactions
that they had issued and that are still in flight (R17): harts of C1, or the engines' registers, memories and threads. -/
structure Past where
  isl : Nat
  harts : List (Nat × Hart) := []
  regs : List (Nat × Word) := []
  mem : List Host.Cell := []
  thrs : List (Nat × ThrInt) := []
  deriving DecidableEq, Repr

/-- A transaction that waits at the boundary of an island (R16). -/
structure Waiting where
  island : Nat
  cmd : Instr
  by_ : WaitBy
  /-- Its initiator has been reset since: what the initiator held; the response is discarded (R17). -/
  past : Option Past := none
  deriving DecidableEq, Repr

/-! ### The whole state -/

/-- The state of the module. Every map is sparse, with its keys strictly rising and no entry at its default. -/
structure State where
  /-- Memory-mapped registers and word tables, by physical address; an unlisted address holds its reset value. -/
  regs : List (Nat × Word) := []
  /-- Byte memories: boot ROM, system SRAM, MRAM, engine instruction and data memories. -/
  mem : List Host.Cell := []
  /-- 64-bit words of system SRAM and MRAM that hold an uncorrectable error, by address (R698). -/
  eccBad : List Nat := []
  /-- Completion of the last access. -/
  resp : Resp := {}
  /-- Fault reports in flight to FC, oldest first. -/
  reports : List Report := []
  /-- Report buffers of P0, P1 and F, by SRC code. -/
  dieLogs : List (Nat × DieLog) := []
  /-- Transactions that wait at island boundaries, oldest first (R16). -/
  boundary : List Waiting := []
  /-- The command being carried out is a boundary transaction that has been let through (the model's own field). -/
  draining : Bool := false
  /-- Index of the next free value (the model's own field, not the spec's). -/
  free : Nat := 0
  pwr : Power := {}
  links : List (Nat × LinkSt) := []
  isl : List (Nat × IslPhase) := []
  fuse : Fuses := {}
  boot : Boot := {}
  dbg : Debug := {}
  /-- Channels, power dies, drive lines and sense inputs, by number. -/
  chs : List (Nat × ChInt) := []
  dies : List (Nat × DieInt) := []
  lines : List (Nat × LineInt) := []
  sins : List (Nat × SinInt) := []
  front : FrontInt := {}
  /-- Levels of the lands DIN0–DIN15 (R80). -/
  dinLand : BitVec 16 := 0
  /-- Harts, MSIs in flight, APLIC source levels as the APLIC last saw them, and the time CSR's 2 ns ticks. -/
  harts : List (Nat × Hart) := []
  msis : List Msi := []
  aplic : List Nat := []
  ticks : Nat := 0
  rwd : Rwd := {}
  fc : FcInt := {}
  tb : TbInt := {}
  /-- Engine threads by engine × 8 + thread, engines, and the latest-sample mirror by channel × 8 + kind (R257). -/
  thrs : List (Nat × ThrInt) := []
  engs : List (Nat × EngInt) := []
  mirror : List (Nat × Option Sample) := []
  /-- Samples on their way to the SE island, and how many have been made since the reset release (R254, R255). -/
  measTx : List MeasTx := []
  measNo : Nat := 0
  /-- Casks by number; tenant resets that have started and not ended. -/
  casks : List (Nat × CaskInt) := []
  tnResets : List TnReset := []
  /-- CAN and LIN controllers by number, and the Cellar controller. -/
  cans : List (Nat × CanInt) := []
  lins : List (Nat × LinInt) := []
  clr : ClrInt := {}
  esw : EswInt := {}
  /-- Key store and cipher engine; storage controller and NAND; tick of each tenant's last report of a denial (R501). -/
  kst : KstInt := {}
  cph : CphInt := {}
  stg : StgInt := {}
  nand : Nand := {}
  tnSaid : List (Nat × Nat) := []
  /-- Items that a running tenant reset has ended with ABORTED, by TID (R512). -/
  tnAborted : List (Nat × Nat) := []
  /-- Event units by number. -/
  evs : List (Nat × EvInt) := []
  /-- Bridges by number, and the pair manager. -/
  brg : List (Nat × BridgeInt) := []
  prm : PrmInt := {}
  /-- Commands that wait, first in, first out. -/
  pending : List Instr := []
  deriving DecidableEq, Repr

/-- The module right after a power-on reset of its always-on manager: every register at its reset value (R10), memory with
nothing listed, the logic die held, no command waiting. -/
def State.reset : State := {}

end Sys2Proof.Machine
end

