-- ==== Sys2Proof/Machine/Ops.lean ====
section
/-!
DEFINITION. The named operations every block shares: registers by address, memory, tags, completion statuses, fault
reports, traps of a hart, and the front checks of an access.
-/

namespace Sys2Proof

/-- The 8-bit code of a status (R41). -/
def Status.code : Status → Nat
  | .done => 0x00 | .length => 0x10 | .align => 0x11 | .range => 0x12 | .access => 0x20 | .conflict => 0x21
  | .keyAbsent => 0x30 | .keyUsage => 0x31 | .keyCorrupt => 0x32 | .keyRevoked => 0x33 | .keyExhausted => 0x34
  | .fault => 0x40 | .eccUncorr => 0x41 | .aborted => 0x50 | .timeout => 0x51 | .stale => 0x60
  | .markLost => 0x61 | .farError => 0x70

/-- A status that a register gives before the width and the alignment of an access count (R24, R42). -/
def Status.beforeAlign (st : Status) : Bool := st == .access || st == .range || st == .aborted

/-- TID 0 in the Reserve world. -/
def Tags.manager (t : Tags) : Bool := t.tid == 0 && t.w
/-- TID 0 in either world. -/
def Tags.tid0 (t : Tags) : Bool := t.tid == 0

end Sys2Proof

namespace Sys2Proof.Machine

/-- What a command answers. -/
abbrev Out := Host.Outcome State Fault Refusal

/-- A status beside the state it leaves, as a block's own write rule answers. -/
abbrev Ans := Status × State

/-! ### Registers by physical address -/

/-- The reset value of the register at `a` (R10). -/
def regReset (a : Nat) : Word := wd (regDesc a).reset

/-- The word held at address `a`. -/
def State.rd (s : State) (a : Nat) : Word := smGet regReset s.regs a

/-- Put a word at address `a`. -/
def State.wr (s : State) (a : Nat) (v : Word) : State := { s with regs := smSet regReset s.regs a v }

/-- Bits `hi:lo` of the register at `a`. -/
def State.rf (s : State) (a hi lo : Nat) : Nat := fld (s.rd a) hi lo

/-- Replace bits `hi:lo` of the register at `a`. -/
def State.wf (s : State) (a hi lo v : Nat) : State := s.wr a (setFld (s.rd a) hi lo v)

/-- Bit `i` of the register at `a`. -/
def State.rb (s : State) (a i : Nat) : Bool := bit (s.rd a) i

/-- Set bit `i` of the register at `a` to `b`. -/
def State.wb (s : State) (a i : Nat) (b : Bool) : State := s.wr a (setBit (s.rd a) i b)

/-- Count one event in field `hi:lo` of the register at `a`, saturating at the field's top. -/
def State.bump (s : State) (a hi lo : Nat) : State := s.wf a hi lo (satInc (s.rf a hi lo) (2 ^ (hi + 1 - lo) - 1))

/-- The value a plain write leaves (R6): RW bits take the data, W1C bits written with 1 clear, all others stay. -/
def maskedWrite (d : RegDesc) (old v : Word) : Word :=
  ((old &&& ~~~(wd d.rw)) ||| (v &&& wd d.rw)) &&& ~~~(v &&& wd d.w1c)

/-- A plain write of the register at `a`. -/
def State.plainWr (s : State) (a : Nat) (v : Word) : State := s.wr a (maskedWrite (regDesc a) (s.rd a) v)

/-- Return every register whose address does not satisfy `keep` to its reset value. -/
def State.resetRegs (s : State) (keep : Nat → Bool) : State := { s with regs := smKeep keep s.regs }

/-! ### Byte memory -/

/-- What a byte of memory that nothing has written reads as. DESIGN CHOICE (log 3). -/
def memReset (_ : Nat) : Byte := 0

/-- The byte at address `a`. -/
def State.ldb (s : State) (a : Nat) : Byte := smGet memReset s.mem a

/-- Store a byte at address `a`. -/
def State.stb (s : State) (a : Nat) (v : Byte) : State := { s with mem := smSet memReset s.mem a v }

/-- Store bytes from address `a` upwards. -/
def State.stBytes (s : State) (a : Nat) : List Byte → State
  | [] => s
  | b :: r => (s.stb a b).stBytes (a + 1) r

/-- The `n` bytes from address `a` upwards. -/
def State.ldBytes (s : State) (a n : Nat) : List Byte := (List.range n).map fun i => s.ldb (a + i)

/-- The little-endian number in `n` bytes at `a` (R3). -/
def State.ldLE (s : State) (a n : Nat) : Nat := leNat (s.ldBytes a n)

/-- Store `n` bytes of a number little-endian at `a` (R3). -/
def State.stLE (s : State) (a n v : Nat) : State := s.stBytes a (leBytes n v)

/-- The canonical form of byte memory. -/
def Memory.wf (m : List Host.Cell) : Bool := smWf memReset m

/-- System SRAM (R21). -/
def inSram (a : Nat) : Bool := 0x10000000 ≤ a && a < 0x12000000
/-- MRAM, all its areas (R21). -/
def inMram (a : Nat) : Bool := 0x20000000 ≤ a && a < 0x22000000

/-! ### The start count (R598) -/

/-- START_COUNT: the higher of its two copies. -/
def Boot.startCount (b : Boot) : Nat := max b.startCopies.1 b.startCopies.2
/-- A start advances the count; the copy that does not win takes the new value. -/
def Boot.countStart (b : Boot) : Boot :=
  let n := (b.startCount + 1) % 2 ^ 64
  { b with startCopies := if b.startCopies.1 < b.startCopies.2 then (n, b.startCopies.2) else (b.startCopies.1, n) }

/-! ### Fault resets (R694) -/

/-- Powered time in ticks. -/
def State.powered (s : State) : Nat := s.nand.powered + s.ticks
/-- RST_CNT: chip resets caused by fault records. -/
def Boot.rstCnt (b : Boot) : Nat := min 15 b.rstAt.length

/-! ### Time -/

/-- The time base: 32-bit unsigned nanoseconds (R4). -/
def State.now (s : State) : Word := wd (s.tb.acc >>> 28)

/-- `t` lies in the future of `n`; otherwise it lies in the past (R4). -/
def future (t n : Word) : Bool := decide ((t - n).toNat < 2 ^ 31)

/-- `t` has been reached at `n`: it is `n`, or no longer in the future (R4, R241). -/
def reached (t n : Word) : Bool := t == n || !future t n

/-! ### Structured maps -/

def State.hart (s : State) (h : Nat) : Hart := smGet (fun _ => {}) s.harts h
def State.setHart (s : State) (h : Nat) (v : Hart) : State := { s with harts := smSet (fun _ => {}) s.harts h v }
def State.chI (s : State) (c : Nat) : ChInt := smGet (fun _ => {}) s.chs c
def State.setChI (s : State) (c : Nat) (v : ChInt) : State := { s with chs := smSet (fun _ => {}) s.chs c v }
def State.die (s : State) (d : Nat) : DieInt := smGet (fun _ => {}) s.dies d
def State.setDie (s : State) (d : Nat) (v : DieInt) : State := { s with dies := smSet (fun _ => {}) s.dies d v }
def State.line (s : State) (k : Nat) : LineInt := smGet (fun _ => {}) s.lines k
def State.setLine (s : State) (k : Nat) (v : LineInt) : State := { s with lines := smSet (fun _ => {}) s.lines k v }
def State.link (s : State) (k : Nat) : LinkSt := smGet (fun _ => {}) s.links k
def State.setLink (s : State) (k : Nat) (v : LinkSt) : State := { s with links := smSet (fun _ => {}) s.links k v }
def State.sin (s : State) (n : Nat) : SinInt := smGet (fun _ => {}) s.sins n
def State.setSin (s : State) (n : Nat) (v : SinInt) : State := { s with sins := smSet (fun _ => {}) s.sins n v }
def State.islOf (s : State) (i : Nat) : IslPhase := smGet (fun _ => .running) s.isl i
def State.setIsl (s : State) (i : Nat) (v : IslPhase) : State := { s with isl := smSet (fun _ => .running) s.isl i v }
def State.dieLog (s : State) (d : Nat) : DieLog := smGet (fun _ => {}) s.dieLogs d
def State.setDieLog (s : State) (d : Nat) (v : DieLog) : State := { s with dieLogs := smSet (fun _ => {}) s.dieLogs d v }

/-- Take a fresh index for a free value: the n-th free value is `Config.freeValue n`. -/
def State.fresh (s : State) : DWord × State := (Config.freeValue s.free, { s with free := s.free + 1 })

/-- The logic die runs: it is not held in reset. -/
def State.logicOn (s : State) : Bool := !s.pwr.held

/-! ### Fault reports -/

/-- Default severity by identifier (R44, R46, R699 and the fault tables): 0 NOTE, 1 DEGRADED, 2 SAFE_STATE, 3 RESET;
none for an identifier its domain's table reserves. Domain 0x9 repeats domain 0x8 (R182). -/
def defSev (id : Nat) : Option Nat :=
  let i := if id / 0x1000 = 9 then id - 0x1000 else id
  if [0x0002, 0x0003, 0x0004, 0x1002, 0x1006, 0x1008, 0x2001, 0x2003, 0x2010, 0x2011, 0x3001, 0x3002, 0x3005, 0x3040,
      0x3041, 0x3047, 0x3048, 0x3049, 0x304A, 0x4006, 0x4007, 0x4009, 0x4042, 0x4043, 0x4044, 0x4045, 0x4046, 0x4047,
      0x4048, 0x404A, 0x4080, 0x4082, 0x4083, 0x5001, 0x5004, 0x5005, 0x5008, 0x5009, 0x5040, 0x5041, 0x5080, 0x5081,
      0x6001, 0x6002, 0x6003, 0x6004, 0x6005, 0x6006, 0x6007, 0x600A, 0x6080, 0x6081, 0x6082, 0x7004, 0x7006, 0x7044,
      0x7046, 0x8001, 0x8002, 0x8003, 0x8006, 0x8007, 0x800C, 0x800E, 0x8040, 0x8041, 0x8042, 0x8043, 0x8046, 0x8047,
      0x8051, 0xA004, 0xA006, 0xB002, 0xB003, 0xB008, 0xB00A, 0xB00C, 0xC005, 0xC006, 0xC009, 0xC00A].contains i then some 0
  else if [0x0001, 0x0005, 0x1001, 0x1004, 0x1005, 0x1007, 0x2002, 0x2004, 0x2006, 0x2012, 0x3003, 0x3042, 0x3043, 0x3044,
      0x3046, 0x304B, 0x4001, 0x4002, 0x4003, 0x4004, 0x4005, 0x4008, 0x4040, 0x4081, 0x5002, 0x5003, 0x5007, 0x5042,
      0x6008, 0x600B, 0x600C, 0x600D, 0x6083, 0x7001, 0x7002, 0x7003, 0x7005, 0x7040, 0x7041, 0x7043, 0x7045, 0x7047,
      0x8004, 0x8005, 0x8008, 0x8009, 0x800A, 0x800B, 0x8010, 0x8044, 0x8045, 0x8050, 0xA001, 0xA002, 0xA005, 0xB001,
      0xB004, 0xB005, 0xB006, 0xB007, 0xB009, 0xC001, 0xC002, 0xC004, 0xC008].contains i then some 1
  else if [0x0006, 0x0008, 0x2005, 0x2013, 0x3045, 0x304C, 0x4049, 0x4084, 0x7042, 0xA003, 0xB00B, 0xC003, 0xC007].contains i
    then some 2
  else if [0x0007, 0x1003, 0x3004].contains i then some 3
  else none

/-- Send a report towards FC. A report of the logic die travels at once. A report of a far die or the front die waits in
that die's buffer of 16 while its link is silent or the logic die is held (R400, R687). -/
def State.send (s : State) (r : Report) : State :=
  if r.src = 0 then { s with reports := s.reports ++ [r] }
  else if (s.link (r.src - 1)).up && s.logicOn then { s with reports := s.reports ++ [r] }
  else
    let l := s.dieLog r.src
    s.setDieLog r.src
      { kept := pushLatest 16 l.kept { r with fromLog := true, noTime := !s.logicOn }
        lost := if l.kept.length < 16 then l.lost else l.lost + 1 }

/-- A report of the logic die, with its context words (R682) and the tags concerned. -/
def State.report (s : State) (id : Nat) (ctx0 : Nat := 0) (ctx1 : Nat := 0) (tid : BitVec 8 := 0) (w : Bool := false) : State :=
  s.send { id, ctx0 := wd ctx0, ctx1 := wd ctx1, tid, w, time := s.now }

/-- A report of the front die. -/
def State.reportF (s : State) (id : Nat) (ctx0 : Nat := 0) (ctx1 : Nat := 0) : State :=
  s.send { id, src := 3, ctx0 := wd ctx0, ctx1 := wd ctx1, time := s.now }

/-- A report that carries an address (domain 0x0, R682). -/
def State.reportAt (s : State) (id addr : Nat) (t : Tags) : State :=
  s.report id addr (addr >>> 32) t.tid t.w

/-! ### CSRs and traps of a hart -/

/-- Reset value of a shared CSR: WORLD, MTIMECMP, misa, marchid; 0 for the others (R544, R555). -/
def csrReset (n : Nat) : DWord :=
  if n = 0x7C2 then 7 else if n = 0x7C3 then 0xFFFFFFFFFFFFFFFF
  else if n = 0x301 then 0x80000000001411AD else if n = 0xF12 then 0x9640 else 0

def Hart.csr (h : Hart) (n : Nat) : DWord := smGet csrReset h.csrs n
def Hart.setCsr (h : Hart) (n : Nat) (v : DWord) : Hart := { h with csrs := smSet csrReset h.csrs n v }

/-- WORLD.W: the hart is in the Reserve world (R569). -/
def Hart.world (h : Hart) : Bool := bit (h.csr 0x7C2) 0

/-- The trap CSR bank of the current world (R570). -/
def Hart.bank (h : Hart) : Bank := if h.world then h.bankR else h.bankT
def Hart.setBank (h : Hart) (b : Bank) : Hart := if h.world then { h with bankR := b } else { h with bankT := b }

/-- The two-bit privilege code of a mode, and whether it is virtual. -/
def Mode.code : Mode → Nat
  | .m => 3 | .s => 1 | .vs => 1 | .u => 0 | .vu => 0
def Mode.virt : Mode → Bool
  | .vs => true | .vu => true | _ => false
/-- The mode of a privilege code and a virtualization bit. -/
def Mode.of (code : Nat) (v : Bool) : Mode :=
  if code = 3 then .m else if code = 0 then (if v then .vu else .u) else (if v then .vs else .s)

/-- The address a trap vectors to: base, plus 4 × cause for an interrupt in vectored mode. -/
def tvecTarget (tvec : DWord) (cause : Nat) (isInt : Bool) : DWord :=
  let base := tvec &&& ~~~(3 : DWord)
  if isInt && fld tvec 1 0 = 1 then base + BitVec.ofNat 64 (4 * cause) else base

/-- The mcause encoding: bit 63 marks an interrupt. -/
def causeWord (cause : Nat) (isInt : Bool) : DWord := BitVec.ofNat 64 (cause + if isInt then 2 ^ 63 else 0)

/-- Exceptions whose trap value is an address, which GVA marks as a guest's. -/
def addrCause (cause : Nat) : Bool := [0, 1, 3, 4, 5, 6, 7, 12, 13, 15, 20, 21, 23].contains cause

/-- What a guest-page fault adds to a trap: the guest physical address, and whether a walk of the page tables met it. -/
structure GuestInfo where
  gpa : Nat := 0
  walk : Bool := false
  deriving DecidableEq, Repr

/-- The word of mtval2 and htval, and of mtinst and htinst: a 64-bit read by a walk has a pseudoinstruction. -/
def GuestInfo.tval2 (g : GuestInfo) : DWord := BitVec.ofNat 64 (g.gpa / 4)
def GuestInfo.tinst (g : GuestInfo) : DWord := if g.walk then 0x3000 else 0

/-- Trap into M-mode in the bank of the current world: mepc, mcause and mtval are written, MPP and MPV hold the mode
left, MIE moves to MPIE and clears, and the hart continues at mtvec. -/
def Hart.trapM (h : Hart) (cause : Nat) (isInt : Bool) (tval : DWord) (g : GuestInfo := {}) : Hart :=
  let b := h.bank
  let st := setFld (setFld (setFld (setFld b.mstatus 7 7 (fld b.mstatus 3 3)) 3 3 0) 12 11 h.mode.code) 39 39 h.mode.virt.toNat
  let st := setBit st 38 (!isInt && h.mode.virt && addrCause cause)
  { ((h.setCsr 0x34B g.tval2).setCsr 0x34A g.tinst).setBank { b with mstatus := st, mepc := h.pc, mcause := causeWord cause isInt, mtval := tval } with
    mode := .m, pc := tvecTarget b.mtvec cause isInt }

/-- Trap into HS-mode: sepc, scause, stval, SPP, SPIE, SIE and hstatus.SPV. -/
def Hart.trapS (h : Hart) (cause : Nat) (isInt : Bool) (tval : DWord) (g : GuestInfo := {}) : Hart :=
  let b := h.bank
  let st := setFld (setFld (setFld b.mstatus 5 5 (fld b.mstatus 1 1)) 1 1 0) 8 8 (h.mode.code % 2)
  let hs := setBit (setBit (h.csr 0x600) 7 h.mode.virt) 6 (!isInt && h.mode.virt && addrCause cause)
  let hs := if h.mode.virt then setFld hs 8 8 (h.mode.code % 2) else hs
  let h1 := (((h.setCsr 0x141 h.pc).setCsr 0x142 (causeWord cause isInt)).setCsr 0x143 tval).setCsr 0x600 hs
  let h1 := (h1.setCsr 0x643 g.tval2).setCsr 0x64A g.tinst
  { h1.setBank { b with mstatus := st } with mode := .s, pc := tvecTarget (h.csr 0x105) cause isInt }

/-- Trap into VS-mode: the vs CSRs. -/
def Hart.trapVS (h : Hart) (cause : Nat) (isInt : Bool) (tval : DWord) : Hart :=
  let vs := h.csr 0x200
  let st := setFld (setFld (setFld vs 5 5 (fld vs 1 1)) 1 1 0) 8 8 (h.mode.code % 2)
  let h1 := (((h.setCsr 0x241 h.pc).setCsr 0x242 (causeWord cause isInt)).setCsr 0x243 tval).setCsr 0x200 st
  { h1 with mode := .vs, pc := tvecTarget (h.csr 0x205) cause isInt }

/-- Take an exception: into M-mode unless medeleg delegates its cause and the hart is below M; from a virtual mode
into VS-mode when hedeleg delegates it further. Causes 24 and 25 are never delegated (R565, R573). -/
def Hart.trap (h : Hart) (cause : Nat) (tval : DWord) (g : GuestInfo := {}) : Hart :=
  if h.mode != .m && cause != 24 && cause != 25 && bit (h.csr 0x302) cause then
    if h.mode.virt && bit (h.csr 0x602) cause then h.trapVS cause false tval else h.trapS cause false tval g
  else h.trapM cause false tval g

def State.trap (s : State) (h cause : Nat) (tval : DWord) (g : GuestInfo := {}) : State :=
  s.setHart h ((s.hart h).trap cause tval g)

/-! ### Register files of a hart (R560) -/

/-- Bit `i` at position 63 − `i`. -/
def mirrored (v : DWord) : DWord := (List.range 64).foldl (fun w i => setBit w (63 - i) (bit v i)) 0

/-- Second pressing is active. -/
def Hart.active (h : Hart) : Bool := bit (h.csr 0x7C1) 0

def Hart.xr (h : Hart) (k : Nat) : DWord := if k = 0 then 0 else smGet (fun _ => 0) h.x k
def Hart.fr (h : Hart) (k : Nat) : DWord := smGet (fun _ => 0) h.f k

/-- Write xk, and its mirror row while second pressing is active; x0 takes nothing. -/
def Hart.setX (h : Hart) (k : Nat) (v : DWord) : Hart :=
  if k = 0 then h
  else
    let h := { h with x := smSet (fun _ => 0) h.x k v }
    if h.active then { h with mx := smSet (fun _ => 0) h.mx (31 - k) (mirrored v) } else h

/-- Write fk, likewise. -/
def Hart.setF (h : Hart) (k : Nat) (v : DWord) : Hart :=
  let h := { h with f := smSet (fun _ => 0) h.f k v }
  if h.active then { h with mf := smSet (fun _ => 0) h.mf (31 - k) (mirrored v) } else h

/-- The value that a load of `bytes` bytes delivers; a single-precision one is boxed. -/
def loadValue (fp signed : Bool) (bytes : Nat) (data : DWord) : DWord :=
  let v := data.toNat % 2 ^ (8 * bytes)
  if fp then BitVec.ofNat 64 (if bytes = 4 then v + (2 ^ 32 - 1) * 2 ^ 32 else v)
  else if signed then BitVec.ofInt 64 (sext v (8 * bytes)) else BitVec.ofNat 64 v

/-- An access under way has completed with DONE: its data is written and the hart continues. -/
def Hart.deliver (h : Hart) (w : HWait) (data : DWord) : Hart :=
  let v := loadValue w.fp w.signed w.bytes data
  let h := if w.fp then h.setF w.rd v else h.setX w.rd v
  { h with await := none, pc := w.next }

/-! ### Tags -/

/-- The tenant of a hart (R18, R504). -/
def State.hartTid (s : State) (h : Nat) : BitVec 8 := BitVec.ofNat 8 (s.rf (tnmBase + 0x100 + h * 4) 7 0)

/-- The tags of an engine thread: its slice table entry; an unassigned thread carries TID 0 with W = 1. -/
def State.threadTags (s : State) (et : Nat) : Tags :=
  let v := s.rd (tnmBase + 0x200 + et * 4)
  if bit v 31 then ⟨BitVec.ofNat 8 (fld v 7 0), bit v 8⟩ else ⟨0, true⟩

/-- The tags of an initiator's transactions (R18). -/
def State.tagsOf (s : State) : Who → Tags
  | .hart h => ⟨s.hartTid h, (s.hart h).world⟩
  | .thread e t => s.threadTags (e.val * 8 + t.val)
  | .debug => ⟨0, s.dbg.isOpen⟩
  | .carried tid w => ⟨tid, w⟩

/-! ### Completion -/

/-- FC captures the status and address of hart `h`'s failed access (R695). -/
def State.capture (s : State) (h addr : Nat) (st : Status) : State :=
  let s := s.wr (fcBase + 0x100 + h * 8) (wd (0x80000000 + (addr >>> 32 % 65536) * 256 + st.code))
  s.wr (fcBase + 0x104 + h * 8) (wd addr)

/-- CTX0 of a core fault (R682). -/
def coreCtx (h cls : Nat) : Nat := h + cls * 256

/-- PRESS_CTL.EN and RETRY. -/
def Hart.pressEn (h : Hart) : Bool := bit (h.csr 0x7C0) 0
def Hart.pressRetry (h : Hart) : Bool := bit (h.csr 0x7C0) 1

/-- Set PRESS_STAT.ACTIVE. -/
def Hart.setActive (h : Hart) (b : Bool) : Hart := h.setCsr 0x7C1 (setBit (h.csr 0x7C1) 0 b)

/-- The hart enters debug mode; with EN set it leaves second pressing for good (R567). `cause` is dcsr.cause. -/
def State.debugEnter (s : State) (h cause : Nat) : State :=
  let x := s.hart h
  let en := x.pressEn
  let d := setFld (setBit (setFld (x.csr 0x7B0) 8 6 cause) 5 x.mode.virt) 1 0 x.mode.code
  let y := if en then ((x.setCsr 0x7C0 (x.csr 0x7C0 &&& 2)).setActive false) else x
  let y := if en then y.setCsr 0x7C1 (y.csr 0x7C1 ||| 2) else y
  let y := (y.setCsr 0x7B0 d).setCsr 0x7B1 x.pc
  let s := s.setHart h { y with halted := true, mode := .m }
  if en then (s.wb fcBase 30 true).report 0x1004 (coreCtx h 0) x.pc.toNat else s

/-- A single step has ended: the hart enters debug mode before its next instruction (R567). -/
def State.stepEnd (s : State) (h : Nat) : State :=
  if s.dbg.isOpen && !(s.hart h).halted && bit ((s.hart h).csr 0x7B0) 2 then s.debugEnter h 4 else s

/-- Deliver a completion: its status and data; a hart whose access did not complete with DONE has it captured and
takes a precise access-fault exception, cause 5 for a load and 7 for a store or AMO (R43, R695). -/
def State.finish (s : State) (a : Acc) (addr : Nat) (st : Status) (data : DWord := 0) (load : Bool := false) : State :=
  let s := { s with resp := ⟨st, data⟩ }
  match a.who with
  | .hart h =>
    let x := s.hart h
    let w := match x.await with | some w => if w.addr = addr then some w else none | none => none
    let cause := if load then 5 else 7
    match w, decide (st = .done) with
    | none, true => s
    | some w, true => (s.setHart h (x.deliver w data)).stepEnd h
    | none, false => (s.capture h addr st).trap h cause (BitVec.ofNat 64 addr)
    | some w, false => (((s.setHart h { x with await := none }).capture h addr st).trap h cause w.va).stepEnd h
  | _ => s

/-- A target denies a transaction by TID or W (R19): ACCESS, fault 0x0003. -/
def State.deny (s : State) (t : Tags) (addr : Nat) : Ans := (.access, s.reportAt 0x0003 addr t)

/-! ### The front checks of an access -/

/-- A page of configuration space is populated at the address (R23). -/
def confPop (a : Nat) : Bool :=
  let p := (a - 0x40000000) / 0x10000
  p ≤ 0x12 && !(p = 0xE && 0x2000 ≤ a % 0x10000)

/-- The address lies in a region of the physical address map, and in a populated page (R21–R23). -/
def mapped (a : Nat) : Bool :=
  a < 0x10000 || inSram a || inMram a || (0x30000000 ≤ a && a < 0x30200000) || (0x31000000 ≤ a && a < 0x31200000)
    || (0x40000000 ≤ a && a < 0x40200000 && confPop a) || (0x40200000 ≤ a && a < 0x40500000)
    || (0x80000000 ≤ a && a < 0x83000000) || (0x100000000 ≤ a && a < 0x200000000)

/-- The island that serves an address; the fabric answers for an unmapped one (R14, R22). -/
def islandOf (a : Nat) : Nat :=
  if !mapped a then 2
  else if inMram a then 3
  else if 0x30000000 ≤ a && a < 0x31200000 then 4
  else if 0x40000000 ≤ a && a < 0x40500000 then
    let p := (a - 0x40000000) / 0x10000
    if p = 6 || p = 7 || p = 8 then 8 else if p = 9 then 6
    else if p = 0xA || p = 0xB || p = 0xC || (0x20 ≤ p && p < 0x40) then 4
    else if p = 0xD || p = 0xE then 7 else if p = 0xF || 0x40 ≤ p then 5
    else if p = 0x10 then 9 else if p = 0x11 then 10 else 2
  else if 0x80000000 ≤ a then 10
  else 2

/-- An island accepts transactions. -/
def State.accepts (s : State) (i : Nat) : Bool := s.islOf i = .running

def State.bridge (s : State) (b : Nat) : BridgeInt := smGet (fun _ => {}) s.brg b
def State.setBridge (s : State) (b : Nat) (v : BridgeInt) : State := { s with brg := smSet (fun _ => {}) s.brg b v }

/-- A waiting place lets a transaction through: an island that accepts, or 16 + b, the way through bridge `b`, while none
of its transactions is under way (R521). -/
def State.takes (s : State) (i : Nat) : Bool :=
  if i < 16 then s.accepts i else s.accepts 10 && (s.bridge (i - 16)).txs.all fun x => x.dead

/-- A transaction for place `i` has to wait: the place lets none through, or others wait there already (R16, R521). -/
def State.mustWait (s : State) (i : Nat) : Bool :=
  !s.draining && (!s.takes i || s.boundary.any fun p => p.island == i)

/-- A transaction waits at place `i`. -/
def State.park (s : State) (i : Nat) (cmd : Instr) (w : WaitBy) : State := { s with boundary := s.boundary ++ [{ island := i, cmd, by_ := w }] }

/-- The page bit of BLK_RES that governs an address (R580). -/
def resPage (a : Nat) : Nat :=
  let p := (a - 0x40000000) / 0x10000
  if 0x20 ≤ p && p < 0x40 then 0xC else if 0x40 ≤ p then 0xF else p

/-- BLK_RES holds the page of a configuration-space address (R580). -/
def State.pageHeld (s : State) (a : Nat) : Bool :=
  0x40000000 ≤ a && a < 0x40500000 && s.rb (wcuBase + 0x18) (resPage a)

/-- A Table-world write to a page that BLK_RES holds: ACCESS, but ABORTED where the block's own answer `r` refuses a
RESETTING tenant, which comes before every check (R42, R510, R580). -/
def State.heldPage (s : State) (t : Tags) (a : Nat) (r : Ans) : Ans := if r.1 = .aborted then r else s.deny t a

/-- A write to a block on the logic die, by a command that spells it as `cmd`: it waits at the boundary of an island
that does not accept transactions (R16), is refused when its tags fail their parity (R20) or BLK_RES holds its page
against the Table world (R580), and is otherwise answered by the block's own rule `f`. -/
def State.cfgWrite (s : State) (a : Acc) (addr : Nat) (cmd : Instr) (f : Tags → State → Ans) : Out :=
  if !s.logicOn then .next s
  else if s.mustWait (islandOf addr) then .next (s.park (islandOf addr) cmd (.access a addr false))
  else
    let t := s.tagsOf a.who
    let r : Ans :=
      if a.tagFail then (.access, s.reportAt 0x0006 addr t)
      else if s.pageHeld addr && !t.w then s.heldPage t addr (f t s)
      else f t s
    .next (r.2.finish a addr r.1)

/-- A read that a block on the logic die answers with data, under the same front checks. -/
def State.cfgRead (s : State) (a : Acc) (addr : Nat) (cmd : Instr) (f : Tags → State → Status × DWord × State) : Out :=
  if !s.logicOn then .next s
  else if s.mustWait (islandOf addr) then .next (s.park (islandOf addr) cmd (.access a addr true))
  else
    let t := s.tagsOf a.who
    if a.tagFail then .next ((s.reportAt 0x0006 addr t).finish a addr .access 0 true)
    else if s.pageHeld addr && !t.w then .next ((s.reportAt 0x0003 addr t).finish a addr .access 0 true)
    else
      let r := f t s
      .next (r.2.2.finish a addr r.1 r.2.1 true)

/-! ### Accesses of one or two registers (R24, R519) -/

/-- A naturally aligned access of 4 or 8 bytes. -/
def wordAligned (a n : Nat) : Bool := (n = 4 || n = 8) && a % n = 0

/-- A write by 32-bit registers, the lower address first. What fails first gives the status, and the whole write is then
without effect (R43). -/
def twoPuts (put : State → Nat → Word → Ans) (s : State) (a n : Nat) (v : DWord) : Ans :=
  let lo := put s a (wd v.toNat)
  if n ≤ 4 || lo.1 != .done then lo
  else
    let hi := put lo.2 (a + 4) (wd (v.toNat >>> 32))
    if hi.1 = .done then hi
    else
      let alone := put s (a + 4) (wd (v.toNat >>> 32))
      (hi.1, if alone.1 = hi.1 then alone.2 else s)

/-- A read by 32-bit registers; one that is refused takes nothing from the other register. -/
def twoGets (get : State → Nat → Status × Word × State) (s : State) (a n : Nat) : Status × DWord × State :=
  let lo := get s a
  if n ≤ 4 || lo.1 != .done then (lo.1, lo.2.1.zeroExtend 64, lo.2.2)
  else
    let hi := get lo.2.2 (a + 4)
    if hi.1 = .done then (.done, BitVec.ofNat 64 (lo.2.1.toNat + hi.2.1.toNat * 2 ^ 32), hi.2.2)
    else (hi.1, 0, (get s (a + 4)).2.2)

/-- What a write of another width or alignment to the registers it touches ends with: the status that comes before ALIGN, or
ALIGN (R24, R42). -/
def narrowPut (r : Ans) (s : State) : Ans := if r.1.beforeAlign then r else (.align, s)

/-- Likewise for a read. -/
def narrowGet (r : Status × Word × State) (s : State) : Status × DWord × State :=
  if r.1.beforeAlign then (r.1, 0, r.2.2) else (.align, 0, s)

/-! ### Ownership registers (R31) -/

/-- The tags an ownership register holds. -/
def ownTags (v : Word) : Tags := ⟨BitVec.ofNat 8 (fld v 7 0), bit v 8⟩
/-- HELD. -/
def ownHeld (v : Word) : Bool := bit v 31
/-- The word of a held ownership register. -/
def ownWord (t : Tags) (func : Nat) : Word := wd (0x80000000 + (func % 256) * 65536 + t.w.toNat * 256 + t.tid.toNat)

/-- The owner recorded at `addr`, or TID 0 with W = 1 while nothing holds it (R184). -/
def State.ownerOf (s : State) (addr : Nat) : Tags :=
  if ownHeld (s.rd addr) then ownTags (s.rd addr) else ⟨0, true⟩

/-- The access rule of R179: the recorded owner, or TID 0 with W = 1. -/
def State.mayWriteOwned (s : State) (t : Tags) (own : Nat) : Bool :=
  t.manager || (ownHeld (s.rd own) && ownTags (s.rd own) == t)

/-- The read rule of R179: the recorded owner, or TID 0 in either world. -/
def State.mayReadOwned (s : State) (t : Tags) (own : Nat) : Bool :=
  t.tid0 || (ownHeld (s.rd own) && ownTags (s.rd own) == t)

/-! ### Resets -/

/-- The power dies, the front die and their lands keep their registers through a chip reset (R180). -/
def isFar (a : Nat) : Bool := 0x80000000 ≤ a && a < 0x83000000

end Sys2Proof.Machine
end

