-- ==== Sys2Proof/Machine/Mem.lean ====
section
/-!
DEFINITION. System SRAM and MRAM as their targets serve them: the world of each granule and page, the MRAM areas that only
the manager writes, and reads that meet an uncorrectable error (R96, R575–R577, R698).
-/

namespace Sys2Proof.Machine

/-- The 2-bit label of a 4 KiB page of system SRAM (R576). -/
def State.label (s : State) (page : Nat) : Nat :=
  let b := page % 16 * 2
  s.rf (wcuBase + 0x8000 + page / 16 * 4) (b + 1) b

/-- The byte at `a` belongs to the Reserve world (R575, R576). -/
def State.reserveMem (s : State) (a : Nat) : Bool :=
  if inSram a then
    let below := decide ((a - 0x10000000) / 0x10000 < s.rf (wcuBase + 0x10) 9 0)
    if s.rb wcuBase 0 then
      let l := s.label ((a - 0x10000000) / 0x1000)
      if l = 1 then true else if l = 2 then false else below
    else below
  else if 0x21800000 ≤ a then true
  else decide ((a - 0x20000000) / 0x10000 < s.rf (wcuBase + 0x14) 9 0)

/-- MRAM that accepts writes only with W = 1 and TID 0 (R96): banks, stage-1 copies and boot records. -/
def bootMram (a : Nat) : Bool := (0x20000000 ≤ a && a < 0x21800000) || (0x21F40000 ≤ a && a < 0x22000000)

/-- The tags may read `n` bytes at `a` of system SRAM or MRAM (R577). -/
def State.mayRead (s : State) (t : Tags) (a n : Nat) : Bool :=
  t.w || (List.range n).all fun i => !s.reserveMem (a + i)

/-- The tags may write them (R577, R96). -/
def State.mayWrite (s : State) (t : Tags) (a n : Nat) : Bool :=
  s.mayRead t a n && (t.manager || (List.range n).all fun i => !bootMram (a + i))

/-- `n` bytes at `a` lie wholly in system SRAM. -/
def sramSpan (a n : Nat) : Bool := 0x10000000 ≤ a && a + n ≤ 0x12000000

/-- The 64-bit word at `a` holds an uncorrectable error. -/
def State.isBad (s : State) (a : Nat) : Bool := s.eccBad.contains (a / 8 * 8)
/-- Any of the 64-bit words of `n` bytes at `a` does. -/
def State.anyBad (s : State) (a n : Nat) : Bool := (List.range n).any fun i => s.isBad (a + i)
/-- Mark the 64-bit word at `a` uncorrectable. -/
def State.spoil (s : State) (a : Nat) : State :=
  if s.isBad a then s else { s with eccBad := s.eccBad ++ [a / 8 * 8] }
/-- A whole 64-bit word is rewritten: its error is gone. -/
def State.mend (s : State) (a : Nat) : State := { s with eccBad := s.eccBad.filter (· != a / 8 * 8) }
/-- Every 64-bit word that `n` bytes at `a` cover wholly is rewritten. -/
def State.mendSpan (s : State) (a n : Nat) : State :=
  { s with eccBad := s.eccBad.filter fun b => !(a ≤ b && b + 8 ≤ a + n) }

/-- The fault of an uncorrectable word that a read meets (R698): 0x2002 for SRAM, 0x2004 for MRAM. -/
def State.eccReport (s : State) (a : Nat) : State := s.report (if inSram a then 0x2002 else 0x2004) a (a >>> 32)

/-- A write of `n` bytes at `a` ends every reservation of a line of 64 bytes that it touches (the granule is PRESUMED, log 86). -/
def State.dropResv (s : State) (a n : Nat) : State :=
  let hit (h : Hart) : Bool := match h.resv with
    | some r => r / 64 * 64 < a + n && a < r / 64 * 64 + 64
    | none => false
  (s.harts.map (·.1)).foldl (fun s h => if hit (s.hart h) then s.setHart h { s.hart h with resv := none } else s) s

/-- Store bytes in system SRAM or MRAM; the words they cover wholly lose their errors. -/
def State.memPut (s : State) (a : Nat) (b : List Byte) : State := ((s.stBytes a b).mendSpan a b.length).dropResv a b.length

/-- Raise the MSI of an identity: file 0 machine, 1 supervisor, 1 + g guest file g (R550). -/
def State.sendMsi (s : State) (hart file eiid : Nat) : State := { s with msis := s.msis ++ [⟨hart, file, eiid⟩] }

end Sys2Proof.Machine
end

