-- ==== Sys2Proof/Machine/Frames.lean ====
section
/-!
DEFINITION. Frames: the frame-slot layout, frame lengths, the FIFOs and queues of CAN, LIN and the switch engine queues, and
the pseudo-addresses of tables that a window selects (R230–R235, R364–R366, R372).
-/

namespace Sys2Proof.Machine

/-! ### Tables behind a window: keys above the physical address space -/

/-- Base of the tables that the Cellar's table window reaches, and of the copies that are staged. -/
def tblBase : Nat := 2 ^ 48
/-- Word `w` of routing entry `e`, committed and staged (R332, R333). -/
def rtA (e w : Nat) : Nat := tblBase + e * 16 + w * 4
def rtStageA (e w : Nat) : Nat := tblBase + 0x10000 + e * 16 + w * 4
/-- Word `w` of node-watch entry `e`, committed and staged (R337); its last-seen time and the instant of its commit. -/
def nwA (e w : Nat) : Nat := tblBase + 0x20000 + e * 8 + w * 4
def nwStageA (e : Nat) : Nat := tblBase + 0x28000 + e * 4
def nwSeenA (e : Nat) : Nat := tblBase + 0x2C000 + e * 4
def nwSinceA (e : Nat) : Nat := tblBase + 0x30000 + e * 4
/-- Staged word at physical address `a` of a table whose entries are committed by their word 0. -/
def stageA (a : Nat) : Nat := tblBase + 0x100000000 + a

end Sys2Proof.Machine

namespace Sys2Proof

open Sys2Proof.Machine

/-! ### The frame slot (R230) -/

/-- Valid CAN FD data lengths (R234). -/
def fdLen (n : Nat) : Bool := n ≤ 8 || [12, 16, 20, 24, 32, 48, 64].contains n

/-- The FLAGS word of a slot. -/
def Frame.flags (f : Frame) : Nat :=
  f.ide.toNat + 2 * f.rtr.toNat + 4 * f.brs.toNat + 8 * f.esi.toNat + 16 * f.xlSec.toNat + 32 * f.rrs.toNat
    + 64 * f.tsValid.toNat + 128 * f.linClassic.toNat

/-- Header bytes 0x00–0x18 of the slot that a receive writes, then its payload at 0x40. -/
def Frame.header (f : Frame) (port : Nat) : List Byte :=
  leBytes 1 f.kind ++ leBytes 1 port ++ leBytes 2 f.flags ++ leBytes 2 f.data.length ++ leBytes 2 0 ++ leBytes 4 f.id.toNat
    ++ leBytes 4 f.time.toNat ++ leBytes 1 (f.sub % 16) ++ [f.sdt, f.vcid, 0] ++ leBytes 4 f.af.toNat ++ leBytes 1 f.ingress

/-- The frame that a slot or an item of 2,112 bytes spells. -/
def Frame.ofBytes (b : List Byte) : Frame :=
  let fl : Word := wd (leNat (slice b 2 2))
  { kind := (byteAt b 0).toNat, ide := bit fl 0, rtr := bit fl 1, brs := bit fl 2, esi := bit fl 3, xlSec := bit fl 4
    rrs := bit fl 5, tsValid := bit fl 6, linClassic := bit fl 7
    id := wd (leNat (slice b 8 4)), data := slice b 0x40 (leNat (slice b 4 2)), time := wd (leNat (slice b 0xC 4))
    sub := (byteAt b 0x10).toNat % 16, sdt := byteAt b 0x11, vcid := byteAt b 0x12, af := wd (leNat (slice b 0x14 4))
    ingress := (byteAt b 0x18).toNat }

/-- A whole item of 2,112 bytes in the slot layout (R425). -/
def Frame.item (f : Frame) (port : Nat) : List Byte := padTo 2112 (padTo 0x40 (f.header port) ++ f.data)

end Sys2Proof

namespace Sys2Proof.Machine

/-! ### CAN controllers -/

def State.can (s : State) (n : Nat) : CanInt := smGet (fun _ => {}) s.cans n
def State.setCan (s : State) (n : Nat) (v : CanInt) : State := { s with cans := smSet (fun _ => {}) s.cans n v }
def State.lin (s : State) (n : Nat) : LinInt := smGet (fun _ => {}) s.lins n
def State.setLin (s : State) (n : Nat) (v : LinInt) : State := { s with lins := smSet (fun _ => {}) s.lins n v }
/-- Register `off` of CANn's page, of LINn's page. -/
def canA (n off : Nat) : Nat := canBase + n * 0x1000 + off
def linA (n off : Nat) : Nat := linBase + n * 0x400 + off
/-- Register `off` of TAT slot `k` of CANn. -/
def tatA (n k off : Nat) : Nat := canA n (0x200 + k * 0x80 + off)

/-- Bytes of a frame's record in message RAM (R365). -/
def recordSize (f : Frame) : Nat := (24 + f.data.length + 7) / 8 * 8
/-- Bytes held by a list of records. -/
def recordsSize (l : List Frame) : Nat := l.foldl (fun n f => n + recordSize f) 0
/-- Capacity of the transmit FIFO, of receive queue 0 and 1 (R364). -/
def State.txCap (s : State) (n : Nat) : Nat := s.rf (canA n 0x18) 5 0 * 1024
def State.q0Cap (s : State) (n : Nat) : Nat := s.rf (canA n 0x18) 13 8 * 1024
def State.q1Cap (s : State) (n : Nat) : Nat := s.rf (canA n 0x18) 21 16 * 1024
/-- The frame's record fits the FIFO's free bytes. -/
def State.txFits (s : State) (n : Nat) (f : Frame) : Bool :=
  recordsSize ((s.can n).txf.map (·.f)) + recordSize f ≤ s.txCap n
/-- Free bytes after `l` records in `cap`. -/
def freeBytes (cap : Nat) (l : List Frame) : Nat := cap - recordsSize l

/-- The controller is enabled for the frame's kind (R366). -/
def State.canKind (s : State) (n : Nat) (f : Frame) : Bool :=
  f.kind = 1 || (f.kind = 2 && s.rb (canA n 0) 4) || (f.kind = 3 && s.rb (canA n 0) 5)

/-- Count a CAN event in its counter `k` (CNTk), and set bit `b` of CAN_EVT. -/
def State.canCnt (s : State) (n k : Nat) : State := s.bump (canA n (0x80 + k * 4)) 31 0
def State.canEvt (s : State) (n b : Nat) : State := s.wb (canA n 0x38) b true

/-- TAT slot state. -/
def State.tat (s : State) (n k : Nat) : TatInt := smGet (fun _ => {}) (s.can n).tat k
def State.setTat (s : State) (n k : Nat) (v : TatInt) : State :=
  s.setCan n { s.can n with tat := smSet (fun _ => {}) (s.can n).tat k v }

/-- The TAT slot of CANn that captures a frame presented to its FIFO (R372): KIND 1 or 2 and the slot's committed IDE and ID. -/
def State.capturer (s : State) (n : Nat) (f : Frame) : Option Nat :=
  if f.kind != 1 && f.kind != 2 then none
  else firstBelow 8 fun k =>
    s.rb (tatA n k 4) 29 && s.rb (tatA n k 0x20) 29 == f.ide && s.rf (tatA n k 0x20) 28 0 == f.id.toNat % 2 ^ 29

/-- The capture: kind, BRS, length and data replaced as one commit (R371, R372). -/
def State.capture1 (s : State) (n k : Nat) (f : Frame) : State :=
  let h := s.rd (tatA n k 0x20)
  let s1 := s.wr (tatA n k 0x20) (setBit (setBit h 31 (f.kind == 2)) 30 f.brs)
  (s1.setTat n k { s1.tat n k with data := f.data, date := s.ticks }).wr (tatA n k 0x18) s.now

/-- A frame is presented to CANn's FIFO, which has room for it or captures it. -/
def State.txPush (s : State) (n : Nat) (f : Frame) (maxAge : Option Nat) : State :=
  match s.capturer n f with
  | some k => s.capture1 n k f
  | none =>
    let i := s.can n
    s.setCan n { i with txf := i.txf ++ [⟨f, maxAge, s.ticks⟩], headSince := if i.txf.isEmpty then s.ticks else i.headSince }

/-- Remove the FIFO's head; the next frame becomes the head now. -/
def State.txPop (s : State) (n : Nat) : State :=
  let i := s.can n
  s.setCan n { i with txf := i.txf.drop 1, headSince := s.ticks }

/-! ### The switch -/

def State.port (s : State) (p : Nat) : EthPort := smGet (fun _ => {}) s.esw.ports p
def State.setPort (s : State) (p : Nat) (v : EthPort) : State :=
  { s with esw := { s.esw with ports := smSet (fun _ => {}) s.esw.ports p v } }
/-- Count an event in the counter at offset `off` of port `p` (R459). -/
def State.pcnt (s : State) (p off : Nat) (k : Nat := 1) : State :=
  let x := s.port p
  s.setPort p { x with cnt := smSet (fun _ => 0) x.cnt off ((smGet (fun _ => 0) x.cnt off + k) % 2 ^ 64) }
/-- A fault that is reported at most once per second per port (R459). -/
def State.reportSec (s : State) (p id : Nat) : State :=
  let x := s.port p
  let t := smGet (fun _ => 0) x.said id
  if t != 0 && s.ticks + 1 < t + 500000000 then s
  else (s.setPort p { x with said := smSet (fun _ => 0) x.said id (s.ticks + 1) }).report id p
def State.rxq (s : State) (q : Nat) : List Frame := smGet (fun _ => []) s.esw.rxq q
def State.setRxq (s : State) (q : Nat) (l : List Frame) : State :=
  { s with esw := { s.esw with rxq := smSet (fun _ => []) s.esw.rxq q l } }
def State.txq (s : State) (q : Nat) : List Frame := smGet (fun _ => []) s.esw.txq q
def State.setTxq (s : State) (q : Nat) (l : List Frame) : State :=
  { s with esw := { s.esw with txq := smSet (fun _ => []) s.esw.txq q l } }
/-- Register `off` of the port block of Pp. -/
def portA (p off : Nat) : Nat := eswBase + 0x1000 + p * 0x200 + off

/-- Cells of a frame of `n` bytes (R435). -/
def cells (n : Nat) : Nat := (n + 127) / 128
/-- Cells held by a list of frames. -/
def heldCells (l : List EFrame) : Nat := l.foldl (fun n f => n + cells f.size) 0

/-- The key of a host destination among P15's queues: pair manager, tunnel, Cask, engine queue. -/
def hostPair : Nat := 0x80
def hostTunnel (t : Nat) : Nat := 0x100 + t
def hostCask (n : Nat) : Nat := 0x200 + n
def hostQueue (q : Nat) : Nat := 0x400 + q

/-- Queue `k` of port `p`. -/
def State.queue (s : State) (p k : Nat) : List EFrame := smGet (fun _ => []) (s.port p).queues k
def State.setQueue (s : State) (p k : Nat) (l : List EFrame) : State :=
  let x := s.port p
  s.setPort p { x with queues := smSet (fun _ => []) x.queues k l }

/-- Cells of frames delivered to an engine receive queue and not yet taken. -/
def queueCells (l : List Frame) : Nat := l.foldl (fun n f => n + cells (f.data.length + 4)) 0

/-- Rate of a RATE code in kbit/s, and of a port as it runs. -/
def rateOf (c : Nat) : Nat := [0, 10000, 100000, 1000000, 2500000, 5000000, 10000000].getD c 0
def State.portRate (s : State) (p : Nat) : Nat := if p = 15 then 20000000 else rateOf (s.rf (portA p 8) 30 28)

/-- Cells that a frame in reception has taken: those of its first 64 bytes and of what its port's rate has brought since. -/
def State.rxCells (s : State) (p : Nat) (r : EthRx) : Nat :=
  cells (min r.f.size (64 + (s.ticks - r.since) * s.portRate p / 4000000))

/-- Cells of a frame that some queue has admitted or some port sends by cut-through, while it is in reception. -/
def State.rxHeld (s : State) : List (EthRx × Nat) :=
  s.esw.ports.filterMap fun x => match x.2.rx with
    | some r => if r.admitted.isEmpty && r.cut.isEmpty then none else some (r, s.rxCells x.1 r)
    | none => none

/-- Cells that queue `k` of port `p` holds: of frames queued, in reception and being sent, and of an engine receive queue's. -/
def State.usedCells (s : State) (p k : Nat) : Nat :=
  heldCells (s.queue p k) + (if p = 15 && 0x400 ≤ k then queueCells (s.rxq (k - 0x400)) else 0)
    + (s.rxHeld.filter fun r => r.1.admitted.contains (p, k)).foldl (fun n r => n + r.2) 0
    + (match (s.port p).sending with | some x => if x.cls = k && !x.thru then cells x.f.size else 0 | none => 0)

/-- PORT, CLASS and CELLS of the held reservations (R436). -/
def State.bres (s : State) : List (Nat × Nat × Nat) :=
  (List.range 16).filterMap fun r =>
    let c := s.rd (eswBase + 0x104 + r * 8)
    if ownHeld (s.rd (eswBase + 0x100 + r * 8)) then some (fld c 31 28, fld c 26 24, fld c 13 0) else none

/-- The reservation of queue `k` of port `p`: CELLS of the held reservation that names it. -/
def State.resCells (s : State) (p k : Nat) : Nat :=
  s.bres.foldl (fun n r => if r.1 == p && r.2.1 == k then n + r.2.2 else n) 0

/-- Cells of every held reservation. -/
def State.resTotal (s : State) : Nat := s.bres.foldl (fun n r => n + r.2.2) 0

/-- Every frame in the buffer with its cells: in reception, queued, being sent; each stored once. -/
def State.stored (s : State) : List (Nat × Nat) :=
  ((s.rxHeld.map fun r => (r.1.f.uid, r.2)) ++ s.esw.ports.flatMap fun p =>
    ((p.2.queues.flatMap (·.2)) ++ (p.2.sending.map (·.f)).toList).map fun f => (f.uid, cells f.size)).foldl
    (fun l f => if l.any (fun g => g.1 == f.1) then l else l ++ [f]) []

/-- Cells of reservations that are in use. -/
def State.covered (s : State) : Nat := s.bres.foldl (fun n r => n + min (s.usedCells r.1 r.2.1) r.2.2) 0

/-- Cells of the buffer that are reserved or in use outside reservations. -/
def State.poolUsed (s : State) : Nat :=
  s.resTotal + (s.stored.foldl (fun n f => n + f.2) 0 - s.covered) + s.esw.rxq.foldl (fun n q => n + queueCells q.2) 0

/-- FREE: the shared pool's free cells (R435). -/
def State.freeCells (s : State) : Nat := 32768 - s.poolUsed

/-- Admission of R435 with ALPHA code `code`: used − RES < 2^(code − 6) × FREE, both sides × 64. -/
def State.admits (s : State) (p k code : Nat) : Bool :=
  let used := s.usedCells p k
  let res := s.resCells p k
  used < res || (used - res) * 64 < 2 ^ code * s.freeCells

/-- Engine receive queue `q` has room for another frame, by P15's class-0 code. -/
def State.eqRoom (s : State) (q : Nat) : Bool := s.admits 15 (hostQueue q) (s.rf (portA 15 0xC) 3 0)

end Sys2Proof.Machine
end

