-- ==== Sys2Proof/Machine/Casks.lean ====
section
/-!
DEFINITION. The Casks: rings of items in system SRAM, their software and hardware ends, marks and releases, and the CSK
registers (R482–R500).
-/

namespace Sys2Proof.Machine

/-- Register `off` of Cask `n`: CK_OWN +0, CK_CFG +4, CK_BASE +8, CK_DEPTH +C, CK_PTR +10, CK_PTR2 +14, CK_STAT +18. -/
def ckA (n off : Nat) : Nat := cskBase + 0x1000 + n * 0x20 + off
/-- Tenant block register of TID `t`. -/
def tnA (t off : Nat) : Nat := tnmBase + 0x1000 + t * 0x40 + off

/-- The tenant is RESETTING; TID 0 never is (R509, R510). -/
def State.resetting (s : State) (t : BitVec 8) : Bool := t != 0 && s.rf (tnA t.toNat 8) 1 0 == 2
/-- Allocations and submissions of the TID are accepted: the manager, or a tenant whose EN is set (R510). -/
def State.tenantOn (s : State) (t : BitVec 8) : Bool := t == 0 || s.rb (tnA t.toNat 0) 31

def State.cask (s : State) (n : Nat) : CaskInt := smGet (fun _ => {}) s.casks n
def State.setCask (s : State) (n : Nat) (v : CaskInt) : State := { s with casks := smSet (fun _ => {}) s.casks n v }

/-! ### Counters and conditions (R482, R484) -/

def State.ckWr (s : State) (n : Nat) : Nat := s.rf (ckA n 0x10) 31 16
def State.ckRd (s : State) (n : Nat) : Nat := s.rf (ckA n 0x10) 15 0
def State.ckMarkV (s : State) (n : Nat) : Nat := s.rf (ckA n 0x14) 31 16
def State.ckRel (s : State) (n : Nat) : Nat := s.rf (ckA n 0x14) 15 0
def State.ckItem (s : State) (n : Nat) : Nat := s.rf (ckA n 4) 8 0 * 8
def State.ckDepth (s : State) (n : Nat) : Nat := s.rf (ckA n 0xC) 15 0
def State.ckEn (s : State) (n : Nat) : Bool := s.rb (ckA n 4) 31
def State.ckMarked (s : State) (n : Nat) : Bool := s.rb (ckA n 0x18) 31
/-- (a − b) mod 2^16. -/
def sub16 (a b : Nat) : Nat := (a + 65536 - b) % 65536
/-- The Cask holds an item for taking. -/
def State.ckAvail (s : State) (n : Nat) : Nat := sub16 (s.ckWr n) (s.ckRd n)
/-- Items appended and not released. -/
def State.ckHeld (s : State) (n : Nat) : Nat := sub16 (s.ckWr n) (s.ckRel n)
/-- The Cask has room. -/
def State.ckRoom (s : State) (n : Nat) : Bool := s.ckHeld n < s.ckDepth n
/-- Address of ring place `j`; place DEPTH is the idle item. -/
def State.ckPlace (s : State) (n j : Nat) : Nat := (s.rd (ckA n 8)).toNat + j * s.ckItem n
/-- Tags of the Cask's owner. -/
def State.ckOwner (s : State) (n : Nat) : Tags := ownTags (s.rd (ckA n 0))
/-- The tags may use the Cask as software: the owner, or TID 0 with W = 1 (R486). -/
def State.ckMay (s : State) (t : Tags) (n : Nat) : Bool := s.mayWriteOwned t (ckA n 0)

/-- Advance a ring position by `k`. -/
def State.ckAdv (s : State) (n p k : Nat) : Nat := if s.ckDepth n = 0 then 0 else (p + k) % s.ckDepth n

/-- Every counter and position 0, the mark invalid (R500). -/
def State.ckZero (s : State) (n : Nat) : State :=
  (((s.wr (ckA n 0x10) 0).wr (ckA n 0x14) 0).wb (ckA n 0x18) 31 false).setCask n
    { s.cask n with pw := 0, pr := 0, pl := 0, pm := 0 }

/-! ### Operations (R484, R490, R493–R497) -/

/-- Append one whole item with the owner's tags; a denied ring access ends with ACCESS (R483). -/
def State.ckAppend (s : State) (n : Nat) (b : List Byte) : Ans :=
  let c := s.cask n
  let at_ := s.ckPlace n c.pw
  if !s.mayWrite (s.ckOwner n) at_ (s.ckItem n) then s.deny (s.ckOwner n) at_
  else
    let s1 := s.memPut at_ (padTo (s.ckItem n) b)
    (.done, (s1.wf (ckA n 0x10) 31 16 (s.ckWr n + 1)).setCask n { c with pw := s.ckAdv n c.pw 1 })

/-- Take the next item: its bytes; ECC_UNCORR when it holds an uncorrectable error, and it counts as taken (R490). -/
def State.ckTake (s : State) (n : Nat) : Status × List Byte × State :=
  let c := s.cask n
  let at_ := s.ckPlace n c.pr
  if !s.mayRead (s.ckOwner n) at_ (s.ckItem n) then
    let r := s.deny (s.ckOwner n) at_
    (r.1, [], r.2)
  else
    let s1 := (s.wf (ckA n 0x10) 15 0 (s.ckRd n + 1)).setCask n { c with pr := s.ckAdv n c.pr 1 }
    if s.anyBad at_ (s.ckItem n) then (.eccUncorr, [], (s1.eccReport at_).report 0x4081 n)
    else (.done, s.ldBytes at_ (s.ckItem n), s1)

/-- The idle item (R482, R493). -/
def State.ckIdle (s : State) (n : Nat) : Status × List Byte × State :=
  let at_ := s.ckPlace n (s.ckDepth n)
  if !s.mayRead (s.ckOwner n) at_ (s.ckItem n) then
    let r := s.deny (s.ckOwner n) at_
    (r.1, [], r.2)
  else if s.anyBad at_ (s.ckItem n) then (.eccUncorr, [], (s.eccReport at_).report 0x4081 n)
  else (.done, s.ldBytes at_ (s.ckItem n), s)

/-- MARK := RD. -/
def State.ckDoMark (s : State) (n : Nat) : State :=
  ((s.wf (ckA n 0x14) 31 16 (s.ckRd n)).wb (ckA n 0x18) 31 true).setCask n { s.cask n with pm := (s.cask n).pr }

/-- RD := MARK while the mark is valid (R497). -/
def State.ckDoRewind (s : State) (n : Nat) : Ans :=
  if !s.ckMarked n then (.markLost, s)
  else (.done, (s.wf (ckA n 0x10) 15 0 (s.ckMarkV n)).setCask n { s.cask n with pr := (s.cask n).pm })

/-- Release the `k` oldest taken items; one past the mark invalidates it (R495, R496). -/
def State.ckDoRelease (s : State) (n k : Nat) : Ans :=
  if sub16 (s.ckRd n) (s.ckRel n) < k then (.length, s)
  else
    let lost := decide (sub16 (s.ckMarkV n) (s.ckRel n) < k)
    let s1 := (s.wf (ckA n 0x14) 15 0 (s.ckRel n + k)).setCask n { s.cask n with pl := s.ckAdv n (s.cask n).pl k }
    (.done, if lost then s1.wb (ckA n 0x18) 31 false else s1)

/-- The checks of a software operation on Cask `n` before its own (R42, R486, R487, R510): ABORTED, ACCESS, also to the
memory it copies from or to when `barred` says so, RANGE for a Cask that does not exist or is disabled. -/
def State.ckGate (s : State) (t : Tags) (n : Nat) (barred : Bool := false) : Option Status :=
  if s.resetting t.tid then some .aborted
  else if 511 < n then some .range
  else if !s.ckMay t n || barred then some .access
  else if !s.ckEn n then some .range
  else none

/-- Run a software operation that came to address `x` behind those checks; a denial is reported (R19). -/
def State.ckOp (s : State) (t : Tags) (n x : Nat) (f : State → Ans) : Ans :=
  match s.ckGate t n with
  | some .access => s.deny t x
  | some st => (st, s)
  | none => f s

/-- The producer, the consumer end is software (R487). -/
def State.ckProdSoft (s : State) (n : Nat) : Bool := s.rf (ckA n 4) 19 16 == 0
def State.ckConsSoft (s : State) (n : Nat) : Bool := s.rf (ckA n 4) 23 20 == 0

/-- One software put refused for want of room. -/
def State.ckFull (s : State) (n : Nat) : State := s.bump (ckA n 0x18) 15 0

/-! ### Hardware ends (R487–R489) -/

/-- A hardware block puts an item. Without an owner it is dropped and counted (R489), and the block goes on as when it was
`sent`; a denied ring access has `lost` it (R483); without room the block's own chapter says what happens, `full` (R488). -/
def State.hwPut (s : State) (n : Nat) (b : List Byte) (sent lost full : State → State) : State :=
  if !ownHeld (s.rd (ckA n 0)) then sent ((s.bump cskBase 31 0).report 0x4080 n)
  else if !s.ckEn n || !s.ckRoom n then full s
  else
    let r := s.ckAppend n b
    if r.1 = .done then sent r.2 else lost r.2

/-- A hardware consumer takes and releases the next item (R488): none when there is none or the ring access is denied, which
takes nothing (R483); an item with an uncorrectable error counts as taken and gives no bytes (R490). -/
def State.hwTake (s : State) (n : Nat) : Option (Option (List Byte)) × State :=
  if !s.ckEn n || s.ckAvail n = 0 then (none, s)
  else
    let r := s.ckTake n
    if r.1 = .access then (none, r.2.2)
    else (some (if r.1 = .done then some r.2.1 else none), (r.2.2.ckDoRelease n 1).2)

/-- Cask `n` names block `code` as its producer, as its consumer. -/
def State.ckProdIs (s : State) (n code : Nat) : Bool := s.rf (ckA n 4) 19 16 == code
def State.ckConsIs (s : State) (n code : Nat) : Bool := s.rf (ckA n 4) 23 20 == code

/-! ### Core access (R491–R495) -/

/-- Address `off` of Cask `n`'s window. -/
def ckWinA (n off : Nat) : Nat := caskWin + n * 0x1000 + off

/-- Source or destination of a copy: 8-byte aligned and in system SRAM (R492); within it a denied copy comes first (R42). -/
def copyStatus (a n : Nat) : Option Status := if !sramSpan a n then some .range else if a % 8 != 0 then some .align else none

/-- The put of an item read from `src` with the storing party's tags. -/
def State.ckPutFrom (s : State) (n src : Nat) : Ans :=
  if s.anyBad src (s.ckItem n) then (.eccUncorr, s.eccReport src)
  else s.ckAppend n (s.ldBytes src (s.ckItem n))

/-- Held CK_PUT stores of a Cask for which there is room by now complete, oldest first (R486, R494). -/
def State.ckServe (s : State) (n : Nat) : State :=
  (s.cask n).waits.foldl (fun s p =>
    if !s.ckEn n || !s.ckRoom n then s
    else
      let r := (s.setCask n { s.cask n with waits := (s.cask n).waits.drop 1 }).ckPutFrom n p.src
      r.2.finish p.acc (ckWinA n 0) r.1) s

/-- A store to CK_PUT. Without room the store is held (R494). -/
def State.ckPutStore (s : State) (a : Acc) (t : Tags) (n src : Nat) : Ans × Bool :=
  let done (r : Ans) := (r, false)
  let barred := sramSpan src (s.ckItem n) && !s.mayRead t src (s.ckItem n)
  match s.ckGate t n barred with
  | some .access => done (s.deny t (if s.ckMay t n then src else ckWinA n 0))
  | some st => done (st, s)
  | none =>
    match copyStatus src (s.ckItem n) with
    | some st => done (st, s)
    | none =>
      let s := s.ckServe n
      if !s.ckProdSoft n then done (.conflict, s)
      else if s.ckRoom n then done (s.ckPutFrom n src)
      else ((.done, s.setCask n { s.cask n with waits := (s.cask n).waits ++ [⟨a, src⟩] }), true)

/-- CK_PUT. -/
def execCkPut (a : Acc) (n : Cask) (src : DWord) (s : State) : Out :=
  let t := s.tagsOf a.who
  if s.logicOn && (s.draining || (s.accepts 4 && !s.boundary.any fun p => p.island == 4)) && !a.tagFail && (s.ckPutStore a t n src.toNat).2
  then .next (s.ckPutStore a t n src.toNat).1.2
  else s.cfgWrite a (ckWinA n 0) (.ckPut a n src) fun t s => (s.ckPutStore a t n src.toNat).1

/-- The oldest held CK_PUT of a Cask ends: DONE when room has appeared, LENGTH at its 2 µs limit. -/
def execCkPutWaitEnd (n : Cask) (s : State) : Out :=
  .next (match (s.cask n).waits with
    | [] => s
    | p :: r =>
      let s1 := s.setCask n { s.cask n with waits := r }
      let x : Ans := if s1.ckEn n && s1.ckRoom n then s1.ckPutFrom n p.src else (.length, s1.ckFull n)
      x.2.finish p.acc (ckWinA n 0) x.1)

/-- A store to CK_GET: the item or the idle item, then the trailer (R493). -/
def State.ckGetStore (s : State) (t : Tags) (n dst : Nat) : Ans :=
  let barred := sramSpan dst (s.ckItem n + 8) && !s.mayWrite t dst (s.ckItem n + 8)
  match s.ckGate t n barred with
  | some .access => s.deny t (if s.ckMay t n then dst else ckWinA n 8)
  | some st => (st, s)
  | none =>
    match copyStatus dst (s.ckItem n + 8) with
    | some st => (st, s)
    | none =>
      if !s.ckConsSoft n then (.conflict, s)
      else
        let idle := s.ckAvail n == 0
        let r := if idle then s.ckIdle n else s.ckTake n
        if r.1 = .done then
          (.done, r.2.2.memPut dst (r.2.1 ++ leBytes 8 (idle.toNat + s.ckRd n * 65536)))
        else (r.1, r.2.2)

/-- CK_GET. -/
def execCkGet (a : Acc) (n : Cask) (dst : DWord) (s : State) : Out :=
  s.cfgWrite a (ckWinA n 8) (.ckGet a n dst) fun t s => s.ckGetStore t n dst.toNat

/-- Mark, rewind, release as software operations. -/
def State.ckSoftMark (s : State) (t : Tags) (n : Nat) : Ans :=
  s.ckOp t n (ckWinA n 0x10) fun s => if !s.ckConsSoft n then (.conflict, s) else (.done, s.ckDoMark n)
def State.ckSoftRewind (s : State) (t : Tags) (n : Nat) : Ans :=
  s.ckOp t n (ckWinA n 0x18) fun s => if !s.ckConsSoft n then (.conflict, s) else s.ckDoRewind n
def State.ckSoftRel (s : State) (t : Tags) (n k : Nat) : Ans :=
  s.ckOp t n (ckWinA n 0x20) fun s =>
    if sub16 (s.ckRd n) (s.ckRel n) < k then (.length, s) else if !s.ckConsSoft n then (.conflict, s) else s.ckDoRelease n k

def execCkMark (a : Acc) (n : Cask) (s : State) : Out :=
  s.cfgWrite a (ckWinA n 0x10) (.ckMark a n) fun t s => s.ckSoftMark t n
def execCkRewind (a : Acc) (n : Cask) (s : State) : Out :=
  s.cfgWrite a (ckWinA n 0x18) (.ckRewind a n) fun t s => s.ckSoftRewind t n
def execCkRel (a : Acc) (n : Cask) (count : DWord) (s : State) : Out :=
  s.cfgWrite a (ckWinA n 0x20) (.ckRel a n count) fun t s => s.ckSoftRel t n count.toNat

/-- The word CK_FILL returns. -/
def State.ckFillWord (s : State) (n : Nat) : DWord :=
  BitVec.ofNat 64 (s.ckAvail n + s.ckHeld n * 2 ^ 16 + (s.ckMarked n).toNat * 2 ^ 32)

/-- CK_FILL, whether or not the Cask is enabled. -/
def execCkFill (a : Acc) (n : Cask) (s : State) : Out :=
  s.cfgRead a (ckWinA n 0x28) (.ckFill a n) fun t s =>
    if s.resetting t.tid then (.aborted, 0, s)
    else if !s.ckMay t n then let r := s.deny t (ckWinA n 0x28); (r.1, 0, r.2)
    else (.done, s.ckFillWord n, s)

/-! ### Registers (R482, R496, R499, R500) -/

/-- CK_OWN is released: items discarded, CK_CFG at its reset value, counters 0 (R499). A held CK_PUT stays held to its
limit (R494). -/
def State.ckRelease (s : State) (n : Nat) : State :=
  (((s.ckZero n).wr (ckA n 4) 1).wf (ckA n 0x18) 15 0 0).setCask n { waits := (s.cask n).waits }

/-- The ring and its idle item lie in system SRAM (R482). -/
def ringFits (item depth base : Nat) : Bool := sramSpan base ((depth + 1) * item)

/-- A write of CK_CFG, CK_BASE, CK_DEPTH or CK_CTL. -/
def State.putCask (s : State) (t : Tags) (n off : Nat) (v : Word) : Ans :=
  let base := (s.rd (ckA n 8)).toNat
  if !s.ckMay t n then s.deny t (ckA n off)
  else if off = 4 then
    if 7 ≤ fld v 23 20 || 7 ≤ fld v 19 16 || fld v 8 0 = 0 || 264 < fld v 8 0 || !ringFits (fld v 8 0 * 8) (s.ckDepth n) base
    then (.range, s)
    else if s.ckWr n != s.ckRel n || (bit v 31 && !ownHeld (s.rd (ckA n 0))) then (.conflict, s)
    else (.done, ((s.plainWr (ckA n off) v).ckZero n).wf (ckA n 0x18) 15 0 0)
  else if off = 8 then
    if !ringFits (s.ckItem n) (s.ckDepth n) (fld v 31 3 * 8) then (.range, s)
    else if s.ckWr n != s.ckRel n then (.conflict, s)
    else (.done, (s.plainWr (ckA n off) v).ckZero n)
  else if off = 0xC then
    if fld v 15 0 = 0 || 32768 < fld v 15 0 || !ringFits (s.ckItem n) (fld v 15 0) base then (.range, s)
    else if s.ckWr n != s.ckRel n then (.conflict, s)
    else (.done, (s.plainWr (ckA n off) v).ckZero n)
  else if off = 0x1C then (.done, if bit v 0 then s.ckZero n else s)
  else (.done, s)

/-- CK_CFG (r = 0), CK_BASE (1) or CK_DEPTH (2). -/
def execCaskConfigWrite (a : Acc) (n : Cask) (r : Fin 3) (v : Word) (s : State) : Out :=
  s.cfgWrite a (ckA n (4 + r * 4)) (.caskConfigWrite a n r v) fun t s => s.putCask t n (4 + r * 4) v

/-- CK_CTL.CLEAR. -/
def execCaskClear (a : Acc) (n : Cask) (s : State) : Out :=
  s.cfgWrite a (ckA n 0x1C) (.caskClear a n) fun t s => s.putCask t n 0x1C 1

end Sys2Proof.Machine
end

