-- ==== Sys2Proof/Machine/Slices.lean ====
section
/-!
DEFINITION. The counted slices of the tenants: use, quota, guarantee and pool, and the refusal of an allocation (R501–R503).
-/

namespace Sys2Proof.Machine

/-- The counted slices. -/
inductive Slice where
  | casks | cphJob | stgCmd | keyVol | cphCtx
  deriving DecidableEq, Repr

/-- Capacity of a slice. -/
def Slice.cap : Slice → Nat
  | .casks => 512 | .cphJob => 64 | .stgCmd => 256 | .keyVol => 64 | .cphCtx => 64

/-- Offset of its quota register in the tenant block. -/
def Slice.reg : Slice → Nat
  | .casks => 0x10 | .cphJob => 0x14 | .stgCmd => 0x18 | .keyVol => 0x1C | .cphCtx => 0x28

/-- Register `off` of key slot `n`; its ownership register (R592). -/
def slA (n off : Nat) : Nat := kstBase + 0x1000 + n * 0x20 + off

/-- TIDs that hold ownership registers among the addresses `l`, once for each. -/
def State.holders (s : State) (l : List Nat) : List Nat :=
  (l.filter fun a => ownHeld (s.rd a)).map fun a => s.rf a 7 0

/-- TID of every allocation of a slice, once for each. -/
def State.allocs (s : State) : Slice → List Nat
  | .casks => s.holders ((List.range 512).map fun n => ckA n 0)
  | .cphJob => s.cph.jobs.map fun j => j.tid.toNat
  | .stgCmd => s.stg.cmds.map fun c => c.tid.toNat
  | .keyVol => s.holders ((List.range 64).map fun n => slA (192 + n) 0)
  | .cphCtx => s.cph.ctxs.filterMap fun p => p.2.map fun c => c.tid.toNat

/-- Use of slice `k` by tenant `t`. -/
def State.use (s : State) (k : Slice) (t : Nat) : Nat := (s.allocs k).count t
def State.quota (s : State) (k : Slice) (t : Nat) : Nat := s.rf (tnA t k.reg) 9 0
def State.guar (s : State) (k : Slice) (t : Nat) : Nat := s.rf (tnA t k.reg) 25 16

/-- Σ over t ≥ 1 of max(U(t), G(t)), for guarantees `g`. -/
def State.reserved (s : State) (k : Slice) (g : Nat → Nat) : Nat :=
  let l := s.allocs k
  (List.range 255).foldl (fun n i => n + max (l.count (i + 1)) (g (i + 1))) 0

/-- POOL > 0. -/
def State.poolFree (s : State) (k : Slice) : Bool := s.use k 0 + s.reserved k (s.guar k) < k.cap

/-- An allocation of slice `k` for TID `t` succeeds (R501). -/
def State.sliceAdmits (s : State) (k : Slice) (t : Tid) : Bool :=
  if t = 0 then s.poolFree k
  else s.use k t.toNat < s.quota k t.toNat && (s.use k t.toNat < s.guar k t.toNat || s.poolFree k)

/-- A slice has refused an allocation: DENY_CNT, and fault 0x4082 at most once per second per tenant. -/
def State.sliceDeny (s : State) (t : Tid) (w : Bool) : State :=
  let s := if t = 0 then s else s.bump (tnA t.toNat 8) 31 16
  let last := smGet (fun _ => 0) s.tnSaid t.toNat
  if last = 0 || last + 500000000 ≤ s.ticks + 1 then
    ({ s with tnSaid := smSet (fun _ => 0) s.tnSaid t.toNat (s.ticks + 1) }).report 0x4082 t.toNat 0 t w
  else s

end Sys2Proof.Machine
end

