-- ==== Sys2Proof/Machine/KeySlots.lean ====
section
/-!
DEFINITION. The key slots: who may use one, persistent records, what a fill, a pending rewrite, an erase and a cascade do
to the slot and to its users, and the start of the key store (R587–R608).
-/

namespace Sys2Proof.Machine

/-! ### Slots (R591–R594) -/

def State.slot (s : State) (n : Nat) : SlotInt := smGet (fun _ => {}) s.kst.slots n
def State.setSlot (s : State) (n : Nat) (v : SlotInt) : State :=
  { s with kst := { s.kst with slots := smSet (fun _ => {}) s.kst.slots n v } }
/-- SLOT_STAT.STATE: 0 EMPTY, 1 READY, 2 PENDING, 3 CORRUPT, 4 SEALED (R594). -/
def State.slState (s : State) (n : Nat) : Nat := s.rf (slA n 8) 2 0
def State.setSlState (s : State) (n v : Nat) : State := s.wf (slA n 8) 2 0 v
/-- The bits of SLOT_ATTR and of SLOT_GRANT that are not reserved. -/
def attrMask : Word := 0x7FF
def grantMask : Word := 0x800001FF
def persistent (n : Nat) : Bool := 16 ≤ n && n < 192
/-- Attribute bit of a slot (R593): 0 ENC, 1 DEC, 2 MAC, 3 DERIVE, 4 WRAP, 5 MACSEC, 6 STORAGE, 7 TRANSPORT, 10 EPOCH. -/
def State.slAttr (s : State) (n b : Nat) : Bool := s.rb (slA n 4) b
/-- SIZE: 0 128, 1 192, 2 256, 3 512 bits. -/
def State.slSize (s : State) (n : Nat) : Nat := s.rf (slA n 4) 9 8
/-- SIZE that a key of `n` bytes needs; 4 for none. -/
def sizeOf (n : Nat) : Nat := if n = 16 then 0 else if n = 24 then 1 else if n = 32 then 2 else if n = 64 then 3 else 4

/-- The tags may use slot `n` (R591). -/
def State.slotMay (s : State) (t : Tags) (n : Nat) : Bool :=
  if n < 16 then t.manager
  else if n < 192 then t.manager || s.rb (slA n 0xC) 31 || ownTags (s.rd (slA n 0xC)) == t
  else ownHeld (s.rd (slA n 0)) && ownTags (s.rd (slA n 0)) == t

/-- The key status of an operation that names slot `n` and needs attribute `b`: none when it may proceed (R593, R594). -/
def State.keyStatus (s : State) (n b : Nat) : Option Status :=
  let st := s.slState n
  if st = 0 || st = 4 then some .keyAbsent else if st = 3 then some .keyCorrupt
  else if !s.slAttr n b then some .keyUsage else none

/-! ### Persistent records (R597, R598) -/

def recA (n : Nat) (c : Bool) : Nat := 0x21900000 + (n - 16) * 0x100 + c.toNat * 0x80
/-- The key of fixed slot `k` of a root (R589). -/
def fixedLabel (k : Nat) : String := ["FZ9640-KDK", "FZ9640-WRAP", "FZ9640-SEAL", "FZ9640-STORE", "FZ9640-STG"].getD k ""
def fixedKey (test : Bool) (k : Nat) : List Byte := rootKey test (fixedLabel k)

/-- Copy `c` of slot `n` verifies under a root. -/
def State.recValid (s : State) (test : Bool) (n : Nat) (c : Bool) : Bool :=
  (s.ldb (recA n c + 0xD)).toNat == n
    && cmac (fixedKey test 2) (s.ldBytes (recA n c) 0x70) == s.ldBytes (recA n c + 0x70) 16

/-- The copy that wins at a start: none with no valid copy. -/
def State.recWinner (s : State) (n : Nat) : Option Bool :=
  let a := s.recValid s.kst.testRoot n false
  let b := s.recValid s.kst.testRoot n true
  if a && b then
    some (!decide ((s.ldLE (recA n false) 4 + 2 ^ 32 - s.ldLE (recA n true) 4) % 2 ^ 32 < 2 ^ 31))
  else if a then some false else if b then some true else none

/-- Replace bytes of a list from place `i` on. -/
def patch (l : List Byte) (i : Nat) (b : List Byte) : List Byte := l.take i ++ b ++ l.drop (i + b.length)

/-- Bytes 0x00–0x6F of the winning record of slot `n`; without one, a record of no key. -/
def State.recBody (s : State) (n : Nat) : List Byte :=
  match (s.slot n).win with
  | some c => s.ldBytes (recA n c) 0x70
  | none => patch (List.replicate 0x70 0) 0xD [BitVec.ofNat 8 n]

/-- Commit a record body: it goes to the copy that did not win, with SEQ one above the winner's, and wins. -/
def State.recCommit (s : State) (n : Nat) (body : List Byte) : State :=
  let seq := match (s.slot n).win with | some c => s.ldLE (recA n c) 4 + 1 | none => 1
  let c := match (s.slot n).win with | some c => !c | none => false
  let b := patch body 0 (leBytes 4 seq)
  let s := s.memPut (recA n c) (b ++ cmac (fixedKey s.kst.testRoot 2) b)
  (s.setSlot n { s.slot n with win := some c }).wr (slA n 0x10) (wd (leNat (slice body 4 4)))

/-- A record body that carries a key (R601, R602). -/
def State.recOf (s : State) (n ctr : Nat) (f : SlotFill) : List Byte :=
  let wrapped := kwWrap (fixedKey s.kst.testRoot 3) (padTo 64 f.key)
  leBytes 4 0 ++ leBytes 4 ctr ++ leBytes 4 f.attr.toNat ++ leBytes 1 f.key.length ++ leBytes 1 n ++ leBytes 2 0
    ++ leBytes 4 f.ivFixed.toNat ++ leBytes 4 f.grant.toNat ++ leBytes 8 0 ++ padTo 72 wrapped ++ leBytes 8 0

/-- A record body of an erased slot: KEY_LEN 0 and zero key fields. -/
def recErased (n ctr : Nat) (grant : Word) : List Byte :=
  leBytes 4 0 ++ leBytes 4 ctr ++ leBytes 4 0 ++ leBytes 1 0 ++ leBytes 1 n ++ leBytes 2 0 ++ leBytes 4 0
    ++ leBytes 4 grant.toNat ++ List.replicate 88 0

/-! ### Contexts and namespaces that a change reaches -/

def State.ctx (s : State) (k : Nat) : Option CphCtx := smGet (fun _ => none) s.cph.ctxs k
def State.setCtx (s : State) (k : Nat) (c : Option CphCtx) : State :=
  { s with cph := { s.cph with ctxs := smSet (fun _ => none) s.cph.ctxs k c } }

/-- Data unit number and key give the 8-byte check value of R647. -/
def kcvOf (key : List Byte) : List Byte :=
  (xts false key (List.replicate 8 255 ++ List.replicate 8 0) (List.replicate 16 0)).take 8

/-- The key of a namespace, when its source holds one (R645, R646). -/
def State.nsKey (s : State) (ns : Nat) (r : NsRec) : Option (List Byte) :=
  if r.unit then
    some (kdf (fixedKey s.kst.testRoot 4) (ascii "FZ9640-NS") (leBytes 1 ns ++ r.salt) (if r.enc = 2 then 64 else 32))
  else if s.slState r.slot = 1 || s.slState r.slot = 2 then some (s.slot r.slot).key else none

def stA (off : Nat) : Nat := stgBase + off
/-- Register `off` of queue pair `q`: QP_OWN +0, QP_CFG +4, QP_STAT +8. -/
def qpA (q off : Nat) : Nat := stA (0x100 + q * 0x10 + off)
/-- The ST island runs and the controller has replayed its journal. -/
def State.stOn (s : State) : Bool := s.logicOn && s.accepts 9 && s.rb (stA 0) 0
def State.stReady (s : State) : Bool := s.stOn && s.rb (stA 4) 0

/-- The key check of namespace `ns` (R647), by a controller that is READY. -/
def State.nsCheck (s : State) (ns : Nat) : State :=
  if !s.stReady then s else
  match s.nand.table.find? fun p => p.1 == ns with
  | none => s
  | some p =>
    let good := p.2.enc == 0 || (match s.nsKey ns p.2 with | some k => kcvOf k == p.2.kcv | none => false)
    if good then { s with stg := { s.stg with absent := s.stg.absent.filter (· != ns) } }
    else if s.stg.absent.contains ns then s
    else ({ s with stg := { s.stg with absent := s.stg.absent ++ [ns] } }).report 0xB006 ns

/-- Namespaces keyed by slot `n`. -/
def State.nsOf (s : State) (n : Nat) : List Nat :=
  (s.nand.table.filter fun p => p.2.enc != 0 && !p.2.unit && p.2.slot == n).map (·.1)

/-! ### MACsec associations that a change reaches (R457) -/

/-- MACsec instance `i` register `off`; the port it sits on. -/
def msA (i off : Nat) : Nat := eswBase + 0x8000 + i * 0x800 + off
def msPort (i : Nat) : Nat := if i = 2 then 14 else i
/-- The MACsec instance of a port. -/
def msOf (p : Nat) : Option Nat := if p = 0 then some 0 else if p = 1 then some 1 else if p = 14 then some 2 else none
/-- Key of transmit association `an`; of association `an` of receive channel `ch`. -/
def txSa (i an : Nat) : Nat := i * 128 + 64 + an
def rxSa (i ch an : Nat) : Nat := i * 128 + ch * 8 + an
/-- The receive channel of a protected frame: by its SCI, or by its source address for an end station, or the one channel
that is enabled. -/
def State.msChannel (s : State) (i : Nat) (b : List Byte) : Option Nat :=
  let tci := byteAt b 14
  let en (ch : Nat) : Bool := s.rb (msA i (0x108 + ch * 0xA0)) 31
  let sci (ch : Nat) : Nat := (s.rd (msA i (0x104 + ch * 0xA0))).toNat * 2 ^ 32 + (s.rd (msA i (0x100 + ch * 0xA0))).toNat
  if bit tci 5 then firstBelow 8 fun ch => en ch && sci ch == beNat (slice b 20 8)
  else if bit tci 6 then firstBelow 8 fun ch => en ch && sci ch == beNat (slice b 6 6) * 65536 + 1
  else firstBelow 8 en
/-- Count in the 64-bit counter `k` of instance `i`. -/
def State.msCnt (s : State) (i k : Nat) : State :=
  let a := msA i (0x600 + k * 8)
  let v := (s.rd a).toNat + (s.rd (a + 4)).toNat * 2 ^ 32 + 1
  (s.wr a (wd v)).wr (a + 4) (wd (v >>> 32))

def State.sa (s : State) (k : Nat) : MsSa := smGet (fun _ => {}) s.esw.sas k
def State.setSa (s : State) (k : Nat) (v : MsSa) : State :=
  { s with esw := { s.esw with sas := smSet (fun _ => {}) s.esw.sas k v } }
/-- Address of word 0 of association `k` (instance × 128 + channel × 8 + AN). -/
def saA (k : Nat) : Nat :=
  let i := k / 128
  let ch := k % 128 / 8
  if ch = 8 then msA i (0x80 + k % 8 * 0x20) else msA i (0x120 + ch * 0xA0 + k % 8 * 0x20)

/-- A frame in reception on a MACsec port is protected under slot `n`. -/
def State.msRxUnder (s : State) (p n : Nat) (r : EthRx) : Bool :=
  match msOf p with
  | some i => r.later && beNat (slice r.raw 12 2) == 0x88E5 && (match s.msChannel i r.raw with
    | some ch => let a := s.sa (rxSa i ch ((byteAt r.raw 14).toNat % 4)); a.en && a.slot == n
    | none => false)
  | none => false

/-! ### Use counts (R603) -/

/-- A job holds its slot. -/
def CphJob.holds (j : CphJob) : Bool := match j.phase with | .active => true | .invWait => true | _ => false

/-- Storage commands in progress on namespaces keyed by slot `n`. -/
def State.stgUsing (s : State) (n : Nat) (c : StgCmd) : Bool :=
  c.ended.isNone && c.keyWait.isNone &&
    s.nand.table.any fun p => p.1 == c.ns && p.2.enc != 0 && !p.2.unit && p.2.slot == n

/-- USE: jobs, contexts, MACsec frames and storage commands in progress. -/
def State.slotUse (s : State) (n : Nat) : Nat :=
  (s.cph.jobs.filter fun j => j.holds && j.slot == n).length
    + (s.cph.ctxs.filter fun p => match p.2 with | some c => c.slot == n | none => false).length
    + (s.esw.ports.filter fun p => match p.2.sending with | some x => x.ms == some n | none => false).length
    + (s.esw.ports.filter fun p => match p.2.rx with | some r => s.msRxUnder p.1 n r | none => false).length
    + (s.stg.cmds.filter (s.stgUsing n)).length

/-- Frames in progress under a slot end, one that is sent with a marked FCS, one that is received dropped, and the slot's
associations are disabled (R457, R440). -/
def State.msKeyLost (s : State) (n : Nat) : State :=
  let s := s.esw.ports.foldl (fun s p =>
    match p.2.sending with
    | some x =>
      if x.ms = some n then
        (((s.setPort p.1 { s.port p.1 with sending := some { x with marked := true, ms := none } }).msCnt
          (if p.1 = 14 then 2 else p.1) 7).pcnt p.1 0x70).reportSec p.1 0x6005
      else s
    | none => s) s
  let s := s.esw.ports.foldl (fun s p =>
    match p.2.rx with
    | some r =>
      if s.msRxUnder p.1 n r then (s.setPort p.1 { s.port p.1 with rx := none }).msCnt (if p.1 = 14 then 2 else p.1) 7 else s
    | none => s) s
  s.esw.sas.foldl (fun s p =>
    if p.2.en && p.2.slot = n then
      ((s.setSa p.1 { p.2 with en := false, waits := false }).wb (saA p.1) 31 false).report 0x600C (p.1 / 128 * 4 + p.1 % 8)
    else s) s

/-! ### Fill, erase, pending rewrite (R604–R608) -/

/-- A slot is emptied or marked with state `st`, without its derived keys: its users are aborted, and what was staged is
discarded; waiting operations start, to be checked anew. -/
def State.slotWipe (s : State) (n st : Nat) : State :=
  let x := s.slot n
  let s := ((s.wr (slA n 4) 0).wr (slA n 8) (wd st)).setSlot n { gen := x.gen + 1, win := x.win }
  let jobs := s.cph.jobs.map fun j =>
    if j.slot != n then j
    else if j.holds then { j with phase := .ended .keyRevoked 0 0 }
    else match j.phase with | .waiting _ => { j with phase := .active } | _ => j
  let keep (p : Nat × Option CphCtx) : Bool := match p.2 with | some c => c.slot != n | none => true
  let cmds := s.stg.cmds.map fun c =>
    if s.stgUsing n c then { c with ended := some (.keyRevoked, 0) }
    else if (s.nsOf n).contains c.ns then { c with keyWait := none } else c
  let s := { s with cph := { s.cph with jobs := jobs, ctxs := s.cph.ctxs.filter keep }
                    stg := { s.stg with cmds := cmds } }
  (s.nsOf n).foldl State.nsCheck (s.msKeyLost n)

/-- Slots derived from one of `l`, and from those again: `k` generations. -/
def State.derivedFrom (s : State) (l : List Nat) : Nat → List Nat
  | 0 => []
  | k + 1 =>
    let d := ((List.range 64).map (192 + ·)).filter fun v => s.rb (slA v 8) 16 && l.contains (s.rf (slA v 8) 15 8) && !l.contains v
    d ++ s.derivedFrom d k

/-- Every key derived from slot `n` is invalidated; fault 0x3047 once (R608). -/
def State.slotCascade (s : State) (n : Nat) : State :=
  let d := s.derivedFrom [n] 64
  if d.isEmpty then s else (d.foldl (fun s v => s.slotWipe v 0) s).report 0x3047 n

/-- An erase of slot `n` (R607). -/
def State.slotErase (s : State) (n : Nat) : State := (s.slotCascade n).slotWipe n 0

/-- Slot `n` becomes CORRUPT (R595, R604). -/
def State.slotCorrupt (s : State) (n : Nat) : State := ((s.slotCascade n).slotWipe n 3).report 0x3043 n

/-- New contents take effect: keys derived from the old one are invalidated, waiting operations start, and namespaces keyed
by the slot are checked again. -/
def State.slotFill (s : State) (n : Nat) (f : SlotFill) : State :=
  let s := s.slotCascade n
  let x := s.slot n
  let s := s.setSlot n { x with key := f.key, ivFixed := f.ivFixed, inv := f.inv, gen := x.gen + 1, resv := f.inv
                                hwm := 0, pnResv := 0, staged := none }
  let s := s.wr (slA n 4) (f.attr &&& attrMask)
  let s := if persistent n then s.wr (slA n 0xC) (f.grant &&& grantMask) else s
  let s := s.wr (slA n 8) (wd (1 + match f.parent with | some p => 0x10000 + p * 256 | none => 0))
  let jobs := s.cph.jobs.map fun j =>
    if j.slot != n then j else match j.phase with | .waiting _ => { j with phase := .active } | _ => j
  let cmds := s.stg.cmds.map fun c => if (s.nsOf n).contains c.ns then { c with keyWait := none } else c
  let s := { s with cph := { s.cph with jobs := jobs }, stg := { s.stg with cmds := cmds } }
  (s.nsOf n).foldl State.nsCheck s

/-- A rewrite is staged: it takes effect at once while nothing uses the slot; otherwise the slot is PENDING, and messages
that wait for INV_RESV wait behind it (R604). -/
def State.slotStage (s : State) (n : Nat) (f : SlotFill) : State :=
  let jobs := s.cph.jobs.map fun j =>
    if j.slot != n then j else match j.phase with | .invWait => { j with phase := .waiting s.ticks } | _ => j
  let s := { s with cph := { s.cph with jobs := jobs } }
  if s.slotUse n = 0 then s.slotFill n f else (s.setSlot n { s.slot n with staged := some f }).setSlState n 2

/-- The staged rewrite takes effect once nothing uses the slot (R605). -/
def State.slotEffect (s : State) (n : Nat) : State :=
  match (s.slot n).staged with
  | some f => if s.slotUse n = 0 then s.slotFill n f else s
  | none => s

/-! ### Starts of the key store (R587–R590, R597, R598, R621, R458) -/

/-- Persistent slot `n` is loaded from its winning copy. -/
def State.slotLoad (s : State) (n : Nat) : State :=
  match s.recWinner n with
  | none =>
    let foreign := s.kst.testRoot && !s.fuse.dv && (s.recValid false n false || s.recValid false n true)
    (s.setSlot n { gen := (s.slot n).gen }).wr (slA n 8) (if foreign then 4 else 3)
  | some c =>
    let a := recA n c
    let lone := !s.recValid s.kst.testRoot n (!c)
    let s := if lone then (s.memPut (recA n !c) (s.ldBytes a 0x80)).report 0x3041 n else s
    let key := ((kwUnwrap (fixedKey s.kst.testRoot 3) (s.ldBytes (a + 0x20) 72)).getD []).take (s.ldb (a + 0xC)).toNat
    let inv := s.ldLE (a + 0x18) 8
    let pn := s.ldLE (a + 0x68) 8
    let x : SlotInt := { key := key, ivFixed := wd (s.ldLE (a + 0x10) 4), inv := inv, gen := (s.slot n).gen, resv := inv
                         hwm := pn, pnResv := pn, win := some c }
    let s := ((s.setSlot n x).wr (slA n 4) (wd (s.ldLE (a + 8) 4) &&& attrMask)).wr (slA n 0xC) (wd (s.ldLE (a + 0x14) 4) &&& grantMask)
    let s := s.wr (slA n 0x10) (wd (s.ldLE (a + 4) 4))
    s.wr (slA n 8) (if key.isEmpty then 0 else if inv = 2 ^ 64 - 1 then 9 else 1)

/-- Fixed slot `k` is derived from the active root: attributes DERIVE, WRAP, MAC, WRAP, DERIVE with SIZE 256 bits. -/
def State.slotDerive (s : State) (k : Nat) : State :=
  ((s.setSlot k { key := fixedKey s.kst.testRoot k }).wr (slA k 4) (wd (0x200 + [8, 16, 4, 16, 8].getD k 0))).wr (slA k 8) 1

/-- START_COUNT advances, EPOCH_SEQ is 0, and fixed and persistent slots are filled. -/
def State.kstFill (s : State) (attFail : Bool) : State :=
  let s := { s with boot := s.boot.countStart
                    kst := { s.kst with epochSeq := 0, attFail := attFail } }
  let s := (s.wr (kstBase + 0x18) (wd s.boot.startCount)).wr (kstBase + 0x1C) (wd (s.boot.startCount >>> 32))
  let s := (List.range 5).foldl State.slotDerive s
  let s := ((List.range 176).map (16 + ·)).foldl State.slotLoad s
  if attFail then s.report 0x304C else s

/-- The start of KST and PKE at a logic-die reset release. -/
def State.kstStart (s : State) (attFail : Bool) : State :=
  let s := { s with kst := { testRoot := s.fuse.dv || s.dbg.isOpen, rstStart := s.rd rbcBase }, cph := {} }
  s.kstFill attFail

end Sys2Proof.Machine
end

