-- ==== Sys2Proof/Machine/FarOps.lean ====
section
/-!
DEFINITION. The windows of the inner bridges, and what a write through one meets before and after its far die acts: lost
links, poison, the semaphore, prefetched lines, posting (R516–R539).
-/

namespace Sys2Proof.Machine

/-- Register `off` of bridge `b`'s block, and of its window `k`. -/
def brA (b off : Nat) : Nat := brgBase + b * 0x1000 + off
def winA (b k off : Nat) : Nat := brA b (0x100 + k * 0x10 + off)

/-- First address of a bridge's region, and its granule (R516). -/
def brRegion (b : Nat) : Nat := if b = 3 then 0x100000000 else 0x80000000 + b * 0x1000000
def brGran (b : Nat) : Nat := if b = 3 then 0x10000 else 0x100

/-- The window of an offset: an enabled one of 1–15, else window 0, which the pair bridge does not have (R516). -/
def State.winAt (s : State) (b off : Nat) : Option Nat :=
  let g := off / brGran b
  match firstBelow 16 fun k => k != 0 && s.rb (winA b k 0) 31 && s.rf (winA b k 4) 15 0 ≤ g
      && g ≤ s.rf (winA b k 4) 15 0 + s.rf (winA b k 0) 15 0 with
  | some k => some k
  | none => if b = 3 then none else some 0

/-- The side-effect ranges (R530). -/
def inSide (b off : Nat) : Bool := b < 3 && 0x20000 ≤ off && off < 0x21000

/-- The side of the far die is reachable: its link carries flits, the partner is reachable (R539, R542). -/
def State.brUp (s : State) (b : Nat) : Bool := if b = 3 then (s.bridge 3).pairUp else (s.link b).up

/-- CTX0 of a bridge fault (R682). -/
def brCtx (b k : Nat) : Nat := b * 16 + k

/-! ### Prefetched lines (R531, R532) -/

/-- A line has been dropped: words never delivered make it a discarded prefetch. -/
def State.lineGone (s : State) (b : Nat) (l : BrLine) : State :=
  let left := (List.range 16).filter fun i => (l.words.getD i none).isSome && !l.given.contains i
  if left.isEmpty then s
  else
    let s := s.bump (brA b 0x20) 15 0
    match left.find? fun i => inSide b (l.base + 4 * i) with
    | none => s
    | some i =>
      let off := l.base + 4 * i
      ((s.bump (brA b 0x20) 31 16).wr (brA b 0x24) (wd off)).report 0x7004 (brCtx b l.win) off l.tid l.w

/-- Drop the lines of bridge `b` that satisfy `p`. -/
def State.dropLines (s : State) (b : Nat) (p : BrLine → Bool) : State :=
  let x := s.bridge b
  (x.lines.filter p).foldl (fun s l => s.lineGone b l) (s.setBridge b { x with lines := x.lines.filter fun l => !p l })

/-- Drop the lines that `n` bytes at `off` touch. -/
def State.dropAtOff (s : State) (b off n : Nat) : State := s.dropLines b fun l => l.base < off + n && off < l.base + 64

/-- A write to `n` bytes at `off` comes behind line fetches that are under way: a line of those bytes is dropped as soon as
it is there (R531). -/
def State.spoilLines (s : State) (b off n : Nat) : State :=
  let hit (x : BrTx) : Bool := x.op == .line && x.off / 64 * 64 < off + n && off < x.off / 64 * 64 + 64
  let x := s.bridge b
  s.setBridge b { x with txs := x.txs.map fun y => if hit y then { y with spoiled := true } else y }

/-! ### Failed posted writes (R533–R535) -/

/-- A posted write has failed with `st`: record, poison, lines, fault and interrupt. -/
def State.brFail (s : State) (b win off : Nat) (t : Tags) (st : Status) : State :=
  let x := s.bridge b
  let s := if 16 ≤ x.errs.length
    then (s.wb (brA b 0x1C) 8 true).report 0x7002 (brCtx b win) off t.tid t.w
    else s.setBridge b { x with errs := x.errs ++ [{ off, win, tid := t.tid, w := t.w, st, time := s.now }] }
  let s := (s.wb (winA b win 0) 28 true).dropLines b fun l => l.win == win
  let s := s.report 0x7001 (brCtx b win) off t.tid t.w
  let o := s.rd (winA b win 8)
  if fld o 26 16 = 0 then s else s.sendMsi (fld o 2 0) (1 + fld o 5 3) (fld o 26 16)

/-! ### The semaphore (R527, R528) -/

/-- The semaphore of bridge `b` is released. -/
def State.semFree (s : State) (b : Nat) : State := s.setBridge b { s.bridge b with sem := none }

/-- `n` bytes at `off` touch the word that another holder has locked. -/
def State.semBlocks (s : State) (b : Nat) (who : Who) (off n : Nat) : Bool :=
  match (s.bridge b).sem with
  | some m => m.who != who && m.off < off + n && off < m.off + 4
  | none => false

/-- The semaphore has been held for 2 µs (R528). -/
def State.semExpire (s : State) (b : Nat) : State :=
  match (s.bridge b).sem with
  | some m => (s.semFree b).report 0x7006 (brCtx b ((s.winAt b m.off).getD 0)) m.off
  | none => s

/-- An access of `who` to `n` bytes at `off` meets the semaphore: the holder's own releases it; one to the locked word
waits until the semaphore has been held for 2 µs. -/
def State.semPass (s : State) (b : Nat) (who : Who) (off n : Nat) : State :=
  match (s.bridge b).sem with
  | some m => if m.who = who then s.semFree b else if s.semBlocks b who off n then s.semExpire b else s
  | none => s

/-- The interrupt source whose registers hold offset `off` is reported again (R538). -/
def State.reReport (s : State) (b off : Nat) : State :=
  let src := if b < 2 && 0x10000 ≤ off && off < 0x12000 then (off - 0x10000) / 0x100 else 32
  s.setBridge b { s.bridge b with told := (s.bridge b).told.filter fun k => k != src }

/-! ### A whole write through a bridge -/

/-- A write of `n` bytes of far die `b` from its acceptance to its response, on a bridge with nothing under way: `f` is
the die's own rule. A posted one completes with DONE whatever the die answers (R520), unless its issuer waits for the die's
status all the same (R259). -/
def State.brWrite (s : State) (who : Who) (tagFail : Bool) (b addr : Nat) (f : Tags → State → Ans)
    (n : Nat := 4) (waits : Bool := false) : Ans :=
  let off := addr - brRegion b
  let k := (s.winAt b off).getD 0
  let t := s.tagsOf who
  if !s.brUp b then (.farError, s)
  else if s.rb (winA b k 0) 28 then (.farError, s)
  else
    let s := (s.dropAtOff b off n).semPass b who off n
    let r : Ans := if tagFail then (.access, s.reportAt 0x0006 addr t) else f t s
    let s := r.2.reReport b off
    if s.rb (winA b k 0) 30 && !waits then (.done, if r.1 = .done then s else s.brFail b k off t r.1) else (r.1, s)

/-- A write to a register of a far die by a command that spells it as `cmd`; it waits behind the transactions that its
bridge has under way (R521). -/
def State.farWrite (s : State) (a : Acc) (link addr : Nat) (cmd : Instr) (f : Tags → State → Ans) : Out :=
  if !s.logicOn then .next s
  else if s.mustWait (16 + link) then .next (s.park (16 + link) cmd (.access a addr false))
  else
    let r := s.brWrite a.who a.tagFail link addr f
    .next (r.2.finish a addr r.1)

/-- A read of `n` bytes of far die `b` on a bridge with nothing under way. -/
def State.brRead {w : Nat} (s : State) (who : Who) (tagFail : Bool) (b addr : Nat)
    (f : Tags → State → Status × BitVec w × State) (n : Nat := 4) : Status × BitVec w × State :=
  let off := addr - brRegion b
  let t := s.tagsOf who
  if !s.brUp b then (.farError, 0, s)
  else if s.rb (winA b ((s.winAt b off).getD 0) 0) 28 then (.farError, 0, s)
  else if tagFail then (.access, 0, (s.semPass b who off n).reportAt 0x0006 addr t)
  else f t (s.semPass b who off n)

/-- A read of a register of a far die by a command that spells it as `cmd`. -/
def State.farRead (s : State) (a : Acc) (link addr : Nat) (cmd : Instr) (f : Tags → State → Status × Word × State) : Out :=
  if !s.logicOn then .next s
  else if s.mustWait (16 + link) then .next (s.park (16 + link) cmd (.access a addr true))
  else
    let r := s.brRead a.who a.tagFail link addr f
    .next (r.2.2.finish a addr r.1 (r.2.1.zeroExtend 64) true)

end Sys2Proof.Machine
end

