-- ==== Sys2Proof/Machine/ChannelOps.lean ====
section
/-!
DEFINITION. The channel state machine of the power dies (R126–R168), its inputs, and the transitions every channel
command shares.
-/

namespace Sys2Proof.Machine

/-- Register `off` of channel `c`'s block (R178). -/
def chA (c off : Nat) : Nat := dieBase (c / 32) + 0x10000 + (c % 32) * 0x100 + off
/-- Die register `off` of power die `d`. -/
def dieA (d off : Nat) : Nat := dieBase d + off
/-- Register `off` of the block of drive line `k` in the SEC page (DL_OWN +0, DL_BIND +4, DL_STAT +8). -/
def dlA (k off : Nat) : Nat := secBase + (k / 4) * 0x1000 + 0x40 + (k % 4) * 0x10 + off
/-- Register `off` of sense input `n`'s block. -/
def sinA (n off : Nat) : Nat := frontBase + 0x10000 + n * 0x20 + off

/-- SINk stands at the level WK_SIN.POL selects: 0 HIGH, 1 LOW; a change has no level (R408, R415). -/
def State.sinAtWake (s : State) (k : Nat) (st : Bool) : Bool :=
  let p := s.rf (frontBase + 0x28) (2 * k + 1) (2 * k)
  (p == 0 && st) || (p == 1 && !st)

/-- CH_STAT.STATE: 0 OFF, 1 TASTE, 2 SOFT_ON, 3 ON, 4 TRIPPED, 5 UV_OFF, 6 LOCKED (R126). -/
def State.chState (s : State) (c : Nat) : Nat := s.rf (chA c 0x24) 2 0
def State.setChState (s : State) (c v : Nat) : State := s.wf (chA c 0x24) 2 0 v
/-- RETRY_CNT and RETRY_MAX. -/
def State.retryCnt (s : State) (c : Nat) : Nat := s.rf (chA c 0x24) 19 16
def State.setRetryCnt (s : State) (c v : Nat) : State := s.wf (chA c 0x24) 19 16 v
def State.retryMax (s : State) (c : Nat) : Nat := s.rf (chA c 0x20) 3 0
/-- Set bit `b` of CH_EVT, of DG_EVT. -/
def State.chEvt (s : State) (c b : Nat) : State := s.wb (chA c 0x28) b true
def State.dgEvt (s : State) (c b : Nat) : State := s.wb (chA c 0x50) b true
/-- DIE_STAT.UV and DIE_STAT.LIMP. -/
def State.uv (s : State) (d : Nat) : Bool := s.rb (dieA d 0) 0
def State.limp (s : State) (d : Nat) : Bool := s.rb (dieA d 0) 1

/-- A power die's report: domain 0x8 on P0 and 0x9 on P1 with the same index (R182); CTX0 0xFF names the die (R682). -/
def State.dieReport (s : State) (d idx : Nat) : State :=
  s.send { id := 0x8000 + d * 0x1000 + idx, src := d + 1, ctx0 := 0xFF, time := s.now }
/-- A channel's report, with CH_STAT and the owner's tags. -/
def State.chReport (s : State) (c idx : Nat) : State :=
  let o := s.rd (chA c 0)
  s.send { id := 0x8000 + (c / 32) * 0x1000 + idx, src := c / 32 + 1, ctx0 := wd c, ctx1 := s.rd (chA c 0x24)
           tid := (ownTags o).tid, w := (ownTags o).w, time := s.now }

/-! ### Parallel groups (R162–R164) -/

/-- The channels of `c`'s die in effect grouped under the same master. -/
def State.groupOf (s : State) (c : Nat) : List Nat :=
  ((List.range 32).map fun k => c / 32 * 32 + k).filter fun k =>
    (s.chI k).parEn && (s.chI k).parMaster == (s.chI c).parMaster

/-- The group of `c` is one R162 allows: two to four members of one class, the master among them. -/
def State.groupOk (s : State) (c : Nat) : Bool :=
  let g := s.groupOf c
  2 ≤ g.length && g.length ≤ 4 && g.contains (c / 32 * 32 + (s.chI c).parMaster) && g.all fun k => chClass k == chClass c

/-- The channel is set up for a group that R162 does not allow. -/
def State.groupBad (s : State) (c : Nat) : Bool := (s.chI c).parEn && !s.groupOk c

/-- The master that a channel follows: itself outside a group (R164). -/
def State.lead (s : State) (c : Nat) : Nat :=
  if (s.chI c).parEn && s.groupOk c then c / 32 * 32 + (s.chI c).parMaster else c

/-- The channels that switch with `c`. -/
def State.mates (s : State) (c : Nat) : List Nat := if (s.chI c).parEn && s.groupOk c then s.groupOf c else [c]

/-! ### Inputs of the state machine (R127) -/

/-- DIN level `k` as the die sees it. -/
def State.din (s : State) (d k : Nat) : Bool := s.rb (dieA d 0x108) k

/-- Demand of the selected drive source (R183): none, register, drive input or drive line, the last two inverted by INV. A
line that the channel's owner does not hold demands nothing (R246). -/
def State.srcDemand (s : State) (c : Nat) : Bool :=
  let l := s.lead c
  let v := s.rd (chA l 0x04)
  let src := fld v 1 0
  if src = 0 then false
  else if src = 1 then s.rb (chA l 0x0C) 0
  else if src = 2 then s.din (l / 32) (fld v 13 8) != bit v 16
  else !(s.chI l).barred && (s.line (fld v 13 8)).dieLevel != bit v 16

/-- Demand of the limp policy (R201). -/
def State.limpDemand (s : State) (c : Nat) : Bool :=
  let l := s.lead c
  let v := s.rd (chA l 0x08)
  let p := fld v 1 0
  if p = 0 then false
  else if p = 1 then (s.chI l).held && !(s.chI l).holdOver
  else if p = 2 then true
  else s.din (l / 32) (fld v 7 4) != bit v 8

/-- The channel's demand: from the limp policy in limp-home, from the drive source otherwise. -/
def State.demand (s : State) (c : Nat) : Bool := if s.limp (c / 32) then s.limpDemand c else s.srcDemand c

/-- The owner permit: CH_OWN held and CH_CTL.EN set, or the die in limp-home (R127, R203). -/
def State.permit (s : State) (c : Nat) : Bool :=
  let l := s.lead c
  s.limp (c / 32) || (ownHeld (s.rd (chA l 0)) && s.rb (chA l 0x0C) 1)

/-- The pair interlock permits: always when DUAL is clear (R127, R168). -/
def State.interlock (s : State) (c : Nat) : Bool := !(s.chI c).dual || s.front.permit

/-- Both thermal latches of every channel that switches with `c` are clear (R143). -/
def State.latchesClear (s : State) (c : Nat) : Bool :=
  (s.mates c).all fun k => !s.rb (chA k 0x24) 8 && !s.rb (chA k 0x24) 9

/-- The interlock permits every channel that switches with `c`: a group conducts as one channel (R164, R168). -/
def State.lockOk (s : State) (c : Nat) : Bool := (s.mates c).all s.interlock

/-- No channel that switches with `c` is in TASTE (R129). -/
def State.noTaste (s : State) (c : Nat) : Bool := (s.mates c).all fun k => s.chState k != 1

/-- The start condition of R127; a channel whose group R162 does not allow never starts, and a group waits for the end of
a member's tasting (R129). -/
def State.startCond (s : State) (c : Nat) : Bool :=
  !s.uv (c / 32) && s.latchesClear c && s.demand c && s.permit c && s.lockOk c && !s.groupBad c && s.noTaste c

/-- The restart conditions of R151. -/
def State.restartCond (s : State) (c : Nat) : Bool :=
  s.startCond c && decide (s.retryCnt c < s.retryMax c) && (s.chI c).dlyDone

/-! ### Transitions -/

/-- The deferred fields of CH_CFG as written. -/
def State.cfgWritten (s : State) (c : Nat) : Bool × Nat × Bool :=
  (s.rb (chA c 0x10) 11, s.rf (chA c 0x10) 16 12, s.rb (chA c 0x10) 10)

/-- A written PAR_EN, PAR_MASTER or DUAL still waits. -/
def State.cfgWaits (s : State) (c : Nat) : Bool :=
  s.cfgWritten c != ((s.chI c).parEn, (s.chI c).parMaster, (s.chI c).dual)

/-- The deferred fields take effect (R166). -/
def State.applyCfg (s : State) (c : Nat) : State :=
  let (p, m, d) := s.cfgWritten c
  s.setChI c { s.chI c with parEn := p, parMaster := m, dual := d }

/-- Status bits of CH_STAT that follow the inputs, and the channel's bit of ADOPT_DIFF (R204). -/
def State.refresh (s : State) (c : Nat) : State :=
  let w := s.rd (chA c 0x24)
  let w := setBit (setBit (setBit w 4 (s.demand c)) 5 (s.permit c)) 6 (s.interlock c)
  let s1 := s.wr (chA c 0x24) (setBit w 13 (s.cfgWaits c || s.groupBad c))
  s1.wb (dieA (c / 32) 0x104) (c % 32) (s.limp (c / 32) && (s.srcDemand c != s.limpDemand c))

/-- The channel conducts: SOFT_ON or ON. -/
def State.conducts (s : State) (c : Nat) : Bool := s.chState c = 2 || s.chState c = 3

/-- Put one channel's switch off in state `v`: hard limit and reverse block end, and the sink of R700 connects. An open
inrush window ends too, which the spec leaves open (DESIGN CHOICE, log 136). -/
def State.switchOff (s : State) (v c : Nat) : State :=
  let w := s.rd (chA c 0x24)
  let s := s.wr (chA c 0x24) (setBit (setBit (setBit (setFld w 2 0 v) 10 false) 11 false) 12 false)
  let s := s.setChI c { s.chI c with sink := true }
  if v = 0 || v = 6 then s.applyCfg c else s

/-- The listed channels enter OFF. -/
def State.toOff (s : State) (l : List Nat) : State := l.foldl State.refresh (l.foldl (fun s k => s.switchOff 0 k) s)

/-- One channel enters SOFT_ON: its inrush window opens when INR_WIN is not 0 (R134). -/
def State.softOn1 (s : State) (c : Nat) : State :=
  let w := s.rd (chA c 0x24)
  let s := s.wr (chA c 0x24) (setBit (setFld w 2 0 2) 10 (s.rf (chA c 0x18) 22 12 != 0))
  s.setChI c { s.chI c with sink := false, pullUp := false }

/-- The channel and those that switch with it enter SOFT_ON; a LOCKED one stays so (R154). -/
def State.toSoftOn (s : State) (c : Nat) : State :=
  ((s.mates c).filter fun k => s.chState k = 0 || s.chState k = 4 || s.chState k = 5).foldl State.softOn1 s

/-- The automatic restart of a TRIPPED channel: one retry is consumed and RESTART is set (R153, R155). -/
def State.restart (s : State) (c : Nat) : State :=
  let s := (s.setRetryCnt c (s.retryCnt c + 1)).chEvt c 7
  (s.setChI c { s.chI c with goodRuns := true }).toSoftOn c

/-- TS_STAT.RESULT and QUEUED. -/
def State.tasteResult (s : State) (c r : Nat) : State :=
  s.wr (chA c 0x64) (setBit (setFld (s.rd (chA c 0x64)) 3 0 r) 4 false)

/-- A tasting is decided: its result stands, and the probe's end follows (R215, step 6). -/
def State.tasteDecide (s : State) (c r : Nat) : State :=
  let d := c / 32
  if (s.die d).tasteOver then s else (s.tasteResult c r).setDie d { s.die d with tasteOver := true }

/-- A queued or running tasting ends with ABORTED (R214). -/
def State.tasteAbort (s : State) (c : Nat) : State :=
  let d := c / 32
  let di := s.die d
  if di.probe = some c then s.tasteDecide c 10
  else if di.tasteQ.contains c then
    (s.tasteResult c 10).setDie d { di with tasteQ := di.tasteQ.filter (· != c) }
  else s

/-- The transition that the inputs of a channel, or of the group it switches with, ask for (R128, R147, R148, R151, R162,
R164, R214). The master's state is the group's; a member that has joined from OFF follows a conducting group, and one that is
LOCKED stays so. -/
def State.settle1 (s : State) (c0 : Nat) : State :=
  let c := s.lead c0
  let d := c / 32
  let hadPermit := s.rb (chA c 0x24) 5
  let g := s.mates c
  let s := g.foldl State.refresh s
  let lost := !s.demand c || !s.permit c
  let s := if s.demand c || (hadPermit && !s.permit c) then g.foldl State.tasteAbort s else s
  let on := g.filter s.conducts
  match s.chState c with
  | 0 => if s.startCond c && !(s.die d).stagger then s.toSoftOn c else s
  | 2 | 3 =>
    if s.uv d then on.foldl (fun s k => (s.switchOff 5 k).chEvt k 5) s
    else if lost || !s.lockOk c || s.groupBad c then s.toOff on
    else if s.startCond c && !(s.die d).stagger then (g.filter fun k => s.chState k = 0).foldl State.softOn1 s
    else s
  | 4 => if s.restartCond c && !(s.die d).stagger then s.restart c else s
  | 5 =>
    if lost then s.toOff (g.filter fun k => s.chState k = 5)
    else if s.startCond c && !(s.die d).stagger then
      s.setDie d { s.die d with stagger := true, slotRan := false, started := [] }
    else s
  | _ => s

/-- The channels of a die. -/
def chansOf (d : Nat) : List Nat := (List.range 32).map fun k => d * 32 + k

/-- What a die's channels have in effect of PAR_EN, PAR_MASTER and DUAL. -/
def State.cfgs (s : State) (d : Nat) : List (Bool × Nat × Bool) :=
  (chansOf d).map fun c => ((s.chI c).parEn, (s.chI c).parMaster, (s.chI c).dual)

/-- Passes over the channels of a die, as long as a pass lets deferred fields take effect (R166) and so may change which
groups stand. -/
def State.settlePasses : Nat → State → Nat → State
  | 0, s, _ => s
  | n + 1, s, d =>
    let t := (chansOf d).foldl State.settle1 s
    if t.cfgs d == s.cfgs d then t else t.settlePasses n d

/-- Settle every channel of a die. Each of its 32 channels has at most one deferred write waiting. -/
def State.settleDie (s : State) (d : Nat) : State := s.settlePasses 33 d

/-- The die's channels settle again if `s`, which came from `old`, has other deferred fields in effect. -/
def State.regroup (s old : State) (d : Nat) : State := if s.cfgs d == old.cfgs d then s else s.settleDie d

/-- Settle the channel, and the others of its die where that changes which groups stand. -/
def State.settle (s : State) (c : Nat) : State := (s.settle1 c).regroup s (c / 32)

/-! ### Protective trips -/

/-- The CH_EVT bit and the fault index of a trip cause: 1 OC, 2 INR, 3 WIRE, 4 THERMAL, 5 SOFT_TO. -/
def tripEvt (cause : Nat) : Nat := if cause = 5 then 10 else cause - 1
def tripFault (cause : Nat) : Nat := if cause = 5 then 7 else cause

/-- One tripped protection sets its own event bit and its own latch (R140, R142, R156). -/
def State.tripMark (s : State) (c cause : Nat) : State :=
  let s := s.chEvt c (tripEvt cause)
  if cause = 3 then s.wb (chA c 0x24) 9 true else if cause = 4 then s.wb (chA c 0x24) 8 true else s

/-- Protections of channel `c` trip in SOFT_ON or ON (R128, R154, R156, R164): each sets its event and latch, LAST_TRIP
takes the lowest cause, every conducting member of the group turns off, and its master's retry budget decides between
TRIPPED and LOCKED. When a group locks, the LOCKED event and its fault are the master's alone, which the spec leaves open
(DESIGN CHOICE, log 135). -/
def State.tripCh (s : State) (c : Nat) (causes : List Nat) : State :=
  let old := s
  let l := s.lead c
  let g := (s.mates c).filter s.conducts
  let s := causes.foldl (fun s k => s.tripMark c k) s
  let s := s.wf (chA c 0x24) 22 20 (causes.foldl min 7)
  let locked := decide (s.retryMax l ≤ s.retryCnt l)
  let s := s.setChI l { s.chI l with dlyDone := false, goodRuns := false }
  let s := g.foldl (fun s k => s.switchOff (if locked then 6 else 4) k) s
  let s := causes.foldl (fun s k => s.chReport c (tripFault k)) s
  let s := if locked then (s.chEvt l 6).chReport l 5 else s
  (g.foldl State.refresh s).regroup old (c / 32)

/-- A latch sets outside SOFT_ON and ON: its event and fault, no transition (R701). -/
def State.latchOnly (s : State) (c cause : Nat) : State := (s.tripMark c cause).chReport c (tripFault cause)

/-- The switch of the channel is on: SOFT_ON or ON without reverse blocking, but under reverse battery every light channel
and no other (R159, R161). -/
def State.switchOn (s : State) (c : Nat) : Bool :=
  if (s.die (c / 32)).reversed then chClass c == 2 else s.conducts c && !s.rb (chA c 0x24) 12

/-! ### Limp-home (R200–R203) -/

/-- The drive lines of die `d`: all but those held for a channel of the other die, or named by one (R189, R246). -/
def State.linesOf (s : State) (d : Nat) : List Nat :=
  (List.range 64).filter fun k =>
    let f := s.rf (dlA k 0) 23 16
    let held := ownHeld (s.rd (dlA k 0)) && 0x80 ≤ f && f < 0xC0
    let names (c : Nat) : Bool := let v := s.rd (chA c 4); fld v 1 0 == 3 && fld v 13 8 == k
    !(held && (f - 0x80) / 32 != d) && (held || !(chansOf (1 - d)).any names)

/-- The die's drive lines read as off until a new edge arrives; edges that wait there for their instants are gone (R189). -/
def State.linesOff (s : State) (d : Nat) : State :=
  (s.linesOf d).foldl (fun s k =>
    s.setLine k { s.line k with dieLevel := false, queue := (s.line k).queue.filter fun e => !e.arrived }) s

/-- A power die enters limp-home: each channel's demand at that instant is held for HOLD, its drive lines read off
(R189), and the entry is reported once (R200). A die already in limp-home is unchanged. -/
def State.limpEnter (s : State) (d : Nat) : State :=
  if s.limp d then s
  else
    let s1 := (chansOf d).foldl (fun t c => t.setChI c { t.chI c with held := s.demand c, holdOver := false }) s
    let s2 := s1.linesOff d
    let s3 := (s2.wb (dieA d 0) 1 true).setDie d { s2.die d with holdReported := false }
    (s3.dieReport d 0x44).settleDie d

/-! ### Measurement samples (R175, R176) -/

/-- Word 0 of a sample. -/
def sampleWord (value : Nat) (ch kind : Nat) (ovr handover uncal st : Bool) : Word :=
  wd (value % 65536 + ch * 2 ^ 16 + kind * 2 ^ 22 + ovr.toNat * 2 ^ 25 + handover.toNat * 2 ^ 26 + uncal.toNat * 2 ^ 27
      + st.toNat * 2 ^ 31)

/-- What a pop register returns when its FIFO is empty: KIND 7. -/
def emptySample : Word := 0x01C00000

/-- Clamp an integer into a range and say whether it was clamped. -/
def clampInt (lo hi v : Int) : Int × Bool := if v < lo then (lo, true) else if hi < v then (hi, true) else (v, false)

/-- Decimation (R176): of the samples of one key, the first after a restart is taken and then every DEC-th. The second
component is the number seen since the last one taken, 0 when the next is to be taken. -/
def decimate (dec : Nat) (seen : List (Nat × Nat)) (key : Nat) : Bool × List (Nat × Nat) :=
  if dec = 0 then (false, seen)
  else
    let n := smGet (fun _ => 0) seen key
    (n == 0, smSet (fun _ => 0) seen key (if n + 1 ≥ dec then 0 else n + 1))

/-! ### Register writes of a channel -/

/-- The greatest OC_TH, INR_TH and the least of both, by class (chapter's field tables). -/
def ocMax (c : Nat) : Nat := byClass c 75 120 360
def inrMax (c : Nat) : Nat := byClass c 100 168 480
def thMin (c : Nat) : Nat := byClass c 5 4 4

/-- CH_CTL: CLEAR moves a TRIPPED or LOCKED channel to OFF with RETRY_CNT 0, and with a group's master every such member;
EN and SW_ON are written; the channel then takes the transition its inputs ask for. -/
def State.putCtl (s : State) (c : Nat) (v : Word) : State :=
  let old := s
  let s := s.plainWr (chA c 0x0C) v
  let l := (s.mates c).filter fun k => s.chState k = 4 || s.chState k = 6
  let s := if bit v 8 && s.lead c = c && !l.isEmpty then (s.setRetryCnt c 0).toOff l else s
  (s.settle1 c).regroup old (c / 32)

/-- CH_CFG (R162, R163, R166, R167, R173, R176, R181). -/
def State.putCfg (s : State) (c : Nat) (v : Word) : Ans :=
  let m := c / 32 * 32 + fld v 16 12
  if 200 < fld v 7 0 || (bit v 10 && chClass c == 2) || (bit v 17 && chClass c != 2) then (.range, s)
  else if bit v 11 && s.ownerOf (chA c 0) != s.ownerOf (chA m 0) then (.conflict, s)
  else
    let d := c / 32
    let fresh := bit v 18 && !s.rb (chA c 0x10) 18
    let s1 := s.plainWr (chA c 0x10) v
    let s2 := if fresh then s1.setDie d { s1.die d with seen := smKeep (fun k => k / 8 != c) (s1.die d).seen } else s1
    let s3 := if s2.chState c = 0 || s2.chState c = 6 then s2.applyCfg c else s2
    (.done, s3.settleDie d)

/-- DIN `k` is held for channel drive by the tags `o` (R184). -/
def State.dinHeldBy (s : State) (k : Nat) (o : Tags) : Bool :=
  let v := s.rd (icuBase + 0x100 + k * 4)
  ownHeld v && fld v 23 16 == 1 && ownTags v == o

/-- Drive line `k` is held for channel `c` by the tags `o` (R185). -/
def State.lineHeldBy (s : State) (k c : Nat) (o : Tags) : Bool :=
  let v := s.rd (dlA k 0)
  ownHeld v && fld v 23 16 == 0x80 + c && ownTags v == o

/-- CH_DRV (R184, R185, R187). -/
def State.putDrv (s : State) (c : Nat) (v : Word) : Ans :=
  let o := s.ownerOf (chA c 0)
  let src := fld v 1 0
  let sel := fld v 13 8
  if src = 2 && 15 < sel then (.range, s)
  else if (src = 2 && !s.dinHeldBy sel o) || (src = 3 && !s.lineHeldBy sel c o) then (.conflict, s)
  else (.done, ((s.plainWr (chA c 0x04) v).setChI c { s.chI c with barred := false }).settle c)

/-- The report of a hold window's expiry, once in a limp-home (R202). -/
def State.holdReport (s : State) (d : Nat) : State :=
  if (s.die d).holdReported then s else (s.setDie d { s.die d with holdReported := true }).dieReport d 0x45

/-- CH_LIMP (R202, R184 for FOLLOW_DIN): in limp-home it takes effect at once, a channel put on HOLD keeps the limp
demand it has, and a window that has run longer than the new HOLD_WIN expires at once. -/
def State.putLimp (s : State) (c : Nat) (v : Word) (elapsed : Nat) : Ans :=
  let win := fld v 28 16
  if 6000 < win then (.range, s)
  else if fld v 1 0 = 3 && !s.dinHeldBy (fld v 7 4) (s.ownerOf (chA c 0)) then (.conflict, s)
  else
    let i := s.chI c
    let past := decide (win ≠ 0 ∧ win ≤ elapsed)
    let s1 := if s.limp (c / 32) && fld v 1 0 = 1 then
        let t := s.setChI c { i with held := s.limpDemand c, holdOver := past }
        if past then t.holdReport (c / 32) else t
      else s
    (.done, (s1.plainWr (chA c 0x08) v).settle c)

/-- TS_CTL (R213, R214, R216): MATCH_MODE 3 is out of range; GO is refused unless the channel is in OFF with its demand
off, and changes nothing for one already queued or tasting. -/
def State.putTaste (s : State) (c : Nat) (v : Word) : Ans :=
  let d := c / 32
  let busy := (s.die d).tasteQ.contains c || (s.die d).probe == some c
  if fld v 3 2 = 3 then (.range, s)
  else if bit v 0 && !busy && (s.chState c != 0 || s.demand c) then (.conflict, s)
  else
    let s1 := s.plainWr (chA c 0x60) v
    let s2 := if bit v 0 && !busy
      then (s1.wb (chA c 0x64) 4 true).setDie d { s1.die d with tasteQ := (s1.die d).tasteQ ++ [c] } else s1
    (.done, if bit v 1 then s2.tasteAbort c else s2)

/-- Range rules of the channel registers with plain effect (R181). -/
def chRangeOk (c off : Nat) (v : Word) : Bool :=
  if off = 0x14 then 1 ≤ fld v 20 12 && fld v 20 12 ≤ 500 && thMin c ≤ fld v 9 0 && fld v 9 0 ≤ ocMax c
  else if off = 0x18 then fld v 22 12 ≤ 2000 && thMin c ≤ fld v 9 0 && fld v 9 0 ≤ inrMax c
  else if off = 0x1C then 1 ≤ fld v 27 16 && fld v 9 0 ≤ ocMax c
  else if off = 0x20 then 1 ≤ fld v 31 24 && 1 ≤ fld v 21 8 && fld v 21 8 ≤ 10000
  else if off = 0x44 then 1 ≤ fld v 23 16 && 1 ≤ fld v 11 0
  else if off = 0x48 then 1 ≤ fld v 19 16 && 1 ≤ fld v 15 8
  else true

/-- A write to register `off` of channel `c`'s block from 0x04 onwards, under the access rule of R179. -/
def State.putCh (s : State) (t : Tags) (c off : Nat) (v : Word) (elapsed : Nat := 0) : Ans :=
  if !s.mayWriteOwned t (chA c 0) then s.deny t (chA c off)
  else if !chRangeOk c off v then (.range, s)
  else if off = 0x04 then s.putDrv c v
  else if off = 0x08 then s.putLimp c v elapsed
  else if off = 0x0C then (.done, s.putCtl c v)
  else if off = 0x10 then s.putCfg c v
  else if off = 0x60 then s.putTaste c v
  else if off = 0x48 && !bit v 0 then
    let s := s.plainWr (chA c off) v
    (.done, if (s.chI c).pullUp then s.setChI c { s.chI c with pullUp := false, sink := true } else s)
  else if off = 0x1C && fld v 9 0 = 0 then
    (.done, (((s.plainWr (chA c off) v).wb (chA c 0x24) 9 false).wr (chA c 0x38) 0).settle c)
  else (.done, (s.plainWr (chA c off) v).settle c)

end Sys2Proof.Machine
end

