-- ==== Sys2Proof/Machine/Flags.lean ====
section
/-!
DEFINITION. The flags of an engine thread and every flag computation of the Quifer instructions (R224, R225, R276, R277,
R279).
-/

namespace Sys2Proof.Machine

/-- The five flags of a thread (R224). -/
structure Fl where
  z : Bool := false
  n : Bool := false
  c : Bool := false
  v : Bool := false
  q : Bool := false
  deriving DecidableEq, Repr

/-- T_FLAGS: Z in bit 0, N 1, C 2, V 3, Q 4. -/
def Fl.word (f : Fl) : Word :=
  wd (f.z.toNat + 2 * f.n.toNat + 4 * f.c.toNat + 8 * f.v.toNat + 16 * f.q.toNat)
def Fl.ofWord (w : Word) : Fl := ⟨bit w 0, bit w 1, bit w 2, bit w 3, bit w 4⟩

/-- zn(r): Z marks a zero result, N its bit 31. -/
def Fl.zn (r : Word) (f : Fl) : Fl := { f with z := r == 0, n := r.msb }
/-- ZN with C and V as given (ZNCV). -/
def Fl.zncv (r : Word) (c v : Bool) (f : Fl) : Fl := { f.zn r with c := c, v := v }
/-- ZN with C and V cleared (ZN00). -/
def Fl.zn00 (r : Word) (f : Fl) : Fl := f.zncv r false false
/-- ZN with C the last bit shifted out and V cleared (ZNC0). -/
def Fl.znc0 (r : Word) (c : Bool) (f : Fl) : Fl := f.zncv r c false
/-- ZN, C cleared, V set exactly when the result was clamped, Q set with V (SAT). -/
def Fl.sat (r : Word) (clamped : Bool) (f : Fl) : Fl := { f.zncv r false clamped with q := f.q || clamped }
/-- The flags of a status-returning instruction (R225). -/
def Fl.st (done c : Bool) (f : Fl) : Fl := { f with z := done, n := false, v := false, c := c }

/-- Borrow and signed overflow of a − b (R279). -/
def Fl.sub (a b : Word) (f : Fl) : Fl := f.zncv (a - b) (a.ult b) (BitVec.ssubOverflow a b)
/-- Carry and signed overflow of a + b (R279). -/
def Fl.add (a b : Word) (f : Fl) : Fl := f.zncv (a + b) (BitVec.uaddOverflow a b) (BitVec.saddOverflow a b)

/-- A condition code (R277); code 15 always holds. -/
def Fl.cond (f : Fl) (code : Nat) : Bool :=
  if code = 1 then f.z else if code = 2 then !f.z
  else if code = 3 then f.c else if code = 4 then !f.c
  else if code = 5 then f.n else if code = 6 then !f.n
  else if code = 7 then f.v else if code = 8 then !f.v
  else if code = 9 then f.n != f.v else if code = 10 then f.n == f.v
  else if code = 11 then f.z || f.n != f.v else if code = 12 then !f.z && f.n == f.v
  else if code = 13 then !f.c && !f.z else if code = 14 then f.c || f.z
  else true

end Sys2Proof.Machine
end

