-- ==== Sys2Proof/Machine/Operands.lean ====
section
/-!
DEFINITION. Quifer instruction words and the operand forms of the engine instructions (R271–R273, R278–R283), with the
results that need more than one machine operation.
-/

namespace Sys2Proof.Machine

/-! ### Word formats (R271) -/

def qA (op d a b sub : Nat) : Word := wd (op * 2 ^ 26 + d * 2 ^ 22 + a * 2 ^ 18 + b * 2 ^ 14 + sub)
def qI (op d a imm18 : Nat) : Word := wd (op * 2 ^ 26 + d * 2 ^ 22 + a * 2 ^ 18 + imm18)
def qK (op d imm22 : Nat) : Word := wd (op * 2 ^ 26 + d * 2 ^ 22 + imm22)
def qS (op d a mode handle : Nat) : Word := wd (op * 2 ^ 26 + d * 2 ^ 22 + a * 2 ^ 18 + mode * 2 ^ 16 + handle)

/-- Function values of an opcode of the register ALU: how many it has. -/
def qFuncs (op : Nat) : Nat :=
  if op = 0 || op = 1 then 3 else if op = 2 || op = 3 || op = 4 || op = 7 || op = 0xB || op = 0xC then 2
  else if op = 5 || op = 6 || op = 8 || op = 9 then 4 else 11

/-- A word that is not ILLEGAL by its encoding alone (R272): its opcode, function and mode are not reserved and every
field that its encoding marks 0 is 0. -/
def qLegal (w : Word) : Bool :=
  let op := fld w 31 26
  let d := fld w 25 22
  let a := fld w 21 18
  let b := fld w 17 14
  let sub := fld w 13 0
  let imm := fld w 17 0
  if op ≤ 0xC then
    let f := sub % 16
    f < qFuncs op && sub < 512 && (sub < 16 || op = 0xB || (op = 8 && f = 3)) && (op != 0xA || b == 0) && (op != 0xC || d == 0)
  else if op = 0xD then sub < 32 && sub / 4 % 4 != 3
  else if op = 0xE then sub < 15
  else if op = 0x0F then false
  else if op = 0x14 then imm < 128
  else if op = 0x15 then a = 0
  else if op = 0x16 then d = 0
  else if op = 0x1F then imm < 2 ^ 17
  else if op ≤ 0x23 then true
  else if op = 0x24 then d != 0
  else if op = 0x28 then a = 0 && imm < 2 ^ 17
  else if op = 0x29 then imm < 2 ^ 17
  else if op = 0x2A || op = 0x2B || op = 0x32 || op = 0x33 then b = 0 && sub = 0
  else if op = 0x2C then b = 0 && sub < 2
  else if op = 0x2D || op = 0x30 then sub < 2
  else if op = 0x31 || op = 0x34 || op = 0x35 || op = 0x3D then sub = 0
  else if op = 0x38 then sub = 1 || (sub = 0 && b = 0)
  else if op = 0x39 then d = 0 && imm < 8
  else if op = 0x3A then sub < 512 && (sub / 128 % 2 = 0 || a = 0)
  else if op = 0x3B then a = 0 && b = 0 && sub < 128
  else if op = 0x3C then
    a = 0 && b = 0 && d != 0 && d != 15 && (sub = 0 || (sub / 512 = 16 && sub / 64 % 8 < 6))
  else if op = 0x3F then
    if sub = 1 || sub = 2 then a = 0 && b = 0
    else if sub = 3 then true
    else (sub = 4 || sub = 5) && d = 0 && a = 0 && b = 0
  else false

/-! ### Immediates (R273) -/

/-- A sign-extended imm18. -/
def imms (i : BitVec 18) : Word := i.signExtend 32
/-- A zero-extended imm18. -/
def immz (i : BitVec 18) : Word := i.zeroExtend 32

/-! ### Arithmetic helpers -/

def minS : Int := -2147483648
def maxS : Int := 2147483647

/-- clamp(v, lo, hi) as a word, and whether it was clamped. -/
def clampW (v lo hi : Int) : Word × Bool :=
  if v < lo then (BitVec.ofInt 32 lo, true) else if hi < v then (BitVec.ofInt 32 hi, true) else (BitVec.ofInt 32 v, false)

/-- Shifts: result and last bit shifted out, none for amount 0. Kinds 0 sll, 1 srl, 2 sra, 3 ror. -/
def shift (kind : Nat) (a : Word) (n : Nat) : Word × Bool :=
  if n = 0 then (a, false)
  else if kind = 0 then (a <<< n, bit a (32 - n))
  else if kind = 1 then (a >>> n, bit a (n - 1))
  else if kind = 2 then (a.sshiftRight n, bit a (n - 1))
  else (a.rotateRight n, bit a (n - 1))

/-- The product of mulsh before clamping (R279). -/
def mulshRaw (a b : Word) (sh : Nat) : Int :=
  let p := a.toInt * b.toInt
  if sh = 0 then p else Int.fdiv (p + (2 ^ (sh - 1) : Nat)) (2 ^ sh : Nat)

/-- Quotient, remainder and V of R279. -/
def divide (signed : Bool) (a b : Word) : Word × Word × Bool :=
  if b = 0 then (0xFFFFFFFF, a, true)
  else if signed then
    if a = 0x80000000 && b = 0xFFFFFFFF then (0x80000000, 0, true)
    else (BitVec.ofInt 32 (Int.tdiv a.toInt b.toInt), BitVec.ofInt 32 (Int.tmod a.toInt b.toInt), false)
  else (wd (a.toNat / b.toNat), wd (a.toNat % b.toNat), false)

/-- Leading and trailing zero bits, and set bits. -/
def clzN (a : Word) : Nat := ((List.range 32).find? fun i => bit a (31 - i)).getD 32
def ctzN (a : Word) : Nat := ((List.range 32).find? fun i => bit a i).getD 32
def popN (a : Word) : Nat := countBelow 32 fun i => bit a i
/-- Bytes in reverse order. -/
def rev8 (a : Word) : Word := wd (beNat (leBytes 4 a.toNat))

/-! ### CRC step (R281) -/

def crcWidth (poly : Nat) : Nat := if poly = 0 || poly = 1 then 8 else if poly = 2 then 16 else 32
def crcPoly (poly : Nat) : Nat := if poly = 0 then 0x1D else if poly = 1 then 0x2F else if poly = 2 then 0x1021 else 0x04C11DB7
/-- reverse(v, w). -/
def bitRev : Nat → Nat → Nat
  | 0, _ => 0
  | w + 1, v => v % 2 * 2 ^ w + bitRev w (v / 2)

/-- One bit of a CRC step. -/
def qCrcBit (w p : Nat) (refl : Bool) (st : Nat) : Nat :=
  if refl then (if st % 2 = 1 then (st / 2) ^^^ bitRev w p else st / 2)
  else if 2 ^ (w - 1) ≤ st % 2 ^ w then (2 * st ^^^ p) % 2 ^ w else 2 * st % 2 ^ w

/-- One byte of a CRC step. -/
def qCrcByte (w p : Nat) (refl : Bool) (st : Nat) (b : Byte) : Nat :=
  let st := if refl then st ^^^ b.toNat else st ^^^ b.toNat <<< (w - 8)
  (List.range 8).foldl (fun st _ => qCrcBit w p refl st) st

/-- crc: the state of `poly` advanced by the `n` low bytes of `b`. -/
def qCrc (poly n : Nat) (refl : Bool) (a b : Word) : Word :=
  let w := crcWidth poly
  wd ((leBytes n b.toNat).foldl (qCrcByte w (crcPoly poly) refl) (a.toNat % 2 ^ w))

/-! ### Bit fields (R283) -/

/-- Byte offset and bit of field bit `k`. -/
def bfPos (be : Bool) (pos len k : Nat) : Nat × Nat :=
  if be then
    let t := 8 * (pos / 8) + 7 - pos % 8 + len - 1 - k
    (t / 8, 7 - t % 8)
  else ((pos + k) / 8, (pos + k) % 8)

/-- First and last byte offset that a field touches. -/
def bfSpan (be : Bool) (pos len : Nat) : Nat × Nat :=
  if be then ((bfPos be pos len (len - 1)).1, (bfPos be pos len 0).1)
  else ((bfPos be pos len 0).1, (bfPos be pos len (len - 1)).1)

/-- The field's value from a byte reader. -/
def bfRead (r : Nat → Byte) (be : Bool) (pos len : Nat) : Nat :=
  (List.range len).foldl (fun v k => v + (bit (r (bfPos be pos len k).1) (bfPos be pos len k).2).toNat * 2 ^ k) 0

/-- The byte at offset `o` with the field's bits set from `v`. -/
def bfByte (be : Bool) (pos len : Nat) (v : Word) (o : Nat) (b : Byte) : Byte :=
  (List.range len).foldl (fun b k =>
    if (bfPos be pos len k).1 = o then setBit b (bfPos be pos len k).2 (bit v k) else b) b

end Sys2Proof.Machine
end

