-- ==== Sys2Proof/Machine/EngineOps.lean ====
section
/-!
DEFINITION. The engine threads: their registers, states, issue, faults, data memory, drive-line queues and the write rules
of the SEC pages (R220–R269).
-/

namespace Sys2Proof.Machine

/-- Engine `e`'s copy of the time base (R243). -/
def State.engNow (s : State) (e : Nat) : Word := s.now + wd (Config.engSkew e % 5) - 2

/-! ### Addresses -/

/-- Register `off` of engine `e`'s SEC page. -/
def secA (e off : Nat) : Nat := secBase + e * 0x1000 + off
/-- Register `off` of the block of thread `t` of engine `e`. -/
def thA (e t off : Nat) : Nat := secA e (0x100 + t * 0x80 + off)
/-- Word `pc` of engine `e`'s instruction memory. -/
def imA (e pc : Nat) : Nat := winBase + e * 0x20000 + pc * 4
/-- Byte `x` of engine `e`'s data memory. -/
def dmA (e x : Nat) : Nat := winBase + e * 0x20000 + 0x10000 + x
/-- The frame slot of thread `t`, in data-memory addresses. -/
def slotA (t : Nat) : Nat := 0xBE00 + t * 0x840

def State.thr (s : State) (e t : Nat) : ThrInt := smGet (fun _ => {}) s.thrs (e * 8 + t)
def State.setThr (s : State) (e t : Nat) (v : ThrInt) : State := { s with thrs := smSet (fun _ => {}) s.thrs (e * 8 + t) v }
def State.eng (s : State) (e : Nat) : EngInt := smGet (fun _ => {}) s.engs e
def State.setEng (s : State) (e : Nat) (v : EngInt) : State := { s with engs := smSet (fun _ => {}) s.engs e v }

/-! ### Thread registers and states -/

/-- w`i`; w0 reads as 0 (R224). -/
def State.qreg (s : State) (e t i : Nat) : Word := if i = 0 then 0 else s.rd (thA e t (0x40 + i * 4))
/-- Write w`i`; writes to w0 are discarded (R224). -/
def State.setQreg (s : State) (e t i : Nat) (v : Word) : State := if i = 0 then s else s.wr (thA e t (0x40 + i * 4)) v
def State.flags (s : State) (e t : Nat) : Fl := Fl.ofWord (s.rd (thA e t 0x14))
def State.setFlags (s : State) (e t : Nat) (f : Fl) : State := s.wr (thA e t 0x14) f.word
/-- T_STAT.STATE: 0 HALTED, 1 READY, 2 WAITING, 3 HELD, 4 FAULTED, 5 DEBUG (R222). -/
def State.thState (s : State) (e t : Nat) : Nat := s.rf (thA e t 4) 2 0
def State.setThState (s : State) (e t v : Nat) : State := s.wf (thA e t 4) 2 0 v
/-- The program counter in instruction words. -/
def State.qpc (s : State) (e t : Nat) : Nat := s.rf (thA e t 0) 29 16
/-- Move the program counter; FPC names the next instruction with it. -/
def State.setQpc (s : State) (e t pc : Nat) : State := (s.wf (thA e t 0) 29 16 pc).wf (thA e t 4) 29 16 pc

/-- A thread in HALTED, FAULTED or DEBUG. -/
def State.thStopped (s : State) (e t : Nat) : Bool := s.thState e t = 0 || s.thState e t = 4 || s.thState e t = 5

/-- A thread fault (R264): FAULTED with its cause, FPC the faulting instruction, and the fault with engine and thread.
Causes: 1 ILLEGAL, 2 IFETCH, 3 DBOUND, 4 DALIGN, 5 ECC. -/
def State.thFault (s : State) (e t cause : Nat) : State :=
  let g := s.threadTags (e * 8 + t)
  let s1 := ((s.setQpc e t (s.qpc e t)).setThState e t 4).wf (thA e t 4) 7 4 cause
  (s1.setThr e t {}).report (0x4000 + cause) (e * 8 + t) (s.qpc e t) g.tid g.w

/-- An instruction completes with the next PC: the thread is READY, or stopped by STEP or HALT at this boundary. -/
def State.retire (s : State) (e t pc : Nat) : State :=
  let i := s.thr e t
  let s1 := (s.setQpc e t (pc % 16384)).setThr e t {}
  s1.setThState e t (if i.haltReq then 0 else if i.stepping then 5 else 1)

/-- Complete a non-branching instruction. -/
def State.next1 (s : State) (e t : Nat) : State := s.retire e t (s.qpc e t + 1)

/-- Write wd, set the flags and complete. -/
def State.result (s : State) (e t d : Nat) (v : Word) (f : Fl) : State := ((s.setQreg e t d v).setFlags e t f).next1 e t

/-- The thread is HELD until its instruction's results come back. -/
def State.hold (s : State) (e t : Nat) (h : Held) : State :=
  (s.setThr e t { s.thr e t with held := some h }).setThState e t 3

/-- HELD with a status due in wd and C as given (R225). -/
def State.holdSt (s : State) (e t d : Nat) (st : Status) (c : Bool := false) : State :=
  s.hold e t (.result [(d, wd st.code)] ((s.flags e t).st (st = .done) c).word)

/-- An uncorrectable error met in engine memory (SE_ECC). -/
def State.seEcc (s : State) (e a : Nat) (im : Bool) : State :=
  let w := s.rd (secA e 8)
  s.wr (secA e 8) (setFld (setBit (setBit w 31 true) 30 im) 28 16 ((a - winBase) % 0x10000 / 8))

/-- An enabled breakpoint matches the PC for thread `t` (R267). -/
def State.breakpoint (s : State) (e t pc : Nat) : Bool :=
  (List.range 4).any fun k =>
    let v := s.rd (secA e (0x500 + k * 4))
    bit v 31 && bit v (16 + t) && fld v 13 0 == pc

/-- The thread may issue, while the clock of the SE island runs: READY, or HELD at an island boundary that now lets its instruction through. -/
def State.mayIssue (s : State) (e t : Nat) : Bool :=
  s.accepts 4 && (s.thState e t = 1 || (s.draining && s.thState e t = 3 && (s.thr e t).held.isNone))

/-- The thread issues the instruction `w` (R220, R226, R263, R267, R272). A breakpoint, the fetch bounds, an uncorrectable
error in the word and an ILLEGAL word come first; an event whose word is not the one in the thread's memory changes
nothing. -/
def State.issue (s : State) (e t : Nat) (w : Word) (f : State → State) : State :=
  let pc := s.qpc e t
  if !s.mayIssue e t then s
  else if s.thState e t = 1 && s.breakpoint e t pc && !(s.thr e t).stepping then (s.setQpc e t pc).setThState e t 5
  else if pc < s.rf (thA e t 8) 13 0 || s.rf (thA e t 8) 30 16 ≤ pc then s.thFault e t 2
  else if s.isBad (imA e pc) then (s.seEcc e (imA e pc) true).thFault e t 5
  else if wd (s.ldLE (imA e pc) 4) != w then s
  else if !qLegal w then s.thFault e t 1
  else f s

/-! ### Data memory (R227–R229) -/

/-- `n` bytes at `x` lie wholly within the thread's data bounds or wholly within its frame slot (R227). -/
def State.inBounds (s : State) (e t x n : Nat) : Bool :=
  (s.rf (thA e t 0xC) 7 0 * 256 ≤ x && x + n ≤ s.rf (thA e t 0xC) 15 8 * 256)
    || (slotA t ≤ x && x + n ≤ slotA t + 0x840)

/-- DBOUND before DALIGN, then ECC for an access that reads (R227, R263); none when the access may run. -/
def State.dataFault (s : State) (e t x n align : Nat) (reads : Bool) : Option Nat :=
  if !s.inBounds e t x n then some 3
  else if x % align != 0 then some 4
  else if reads && s.anyBad (dmA e x) n then some 5
  else none

/-- Run an access of `n` bytes at data-memory address `x`, or fault the thread. -/
def State.dataAccess (s : State) (e t x n align : Nat) (reads : Bool) (f : State → State) : State :=
  match s.dataFault e t x n align reads with
  | none => f s
  | some 5 => (s.seEcc e (dmA e (x + (((List.range n).find? fun i => s.isBad (dmA e (x + i))).getD 0))) false).thFault e t 5
  | some c => s.thFault e t c

/-! ### Drive-line queues (R247–R253) -/

/-- DL_BIND is valid and names the thread, whose tags hold DL_OWN (R248). -/
def State.lineBound (s : State) (k e t : Nat) : Bool :=
  let b := s.rd (dlA k 4)
  let o := s.rd (dlA k 0)
  bit b 31 && fld b 11 8 == e && fld b 2 0 == t && ownHeld o && ownTags o == s.threadTags (e * 8 + t)

/-- Discard a line's queued edges; with `rep`, fault 0x4009 for those discarded (R252, R253). -/
def State.lineDiscard (s : State) (k : Nat) (rep : Bool) : State :=
  let l := s.line k
  let s1 := s.setLine k { l with queue := [], lastAt := none }
  if rep && !l.queue.isEmpty then s1.report 0x4009 k else s1

/-- A timed edge's instant on the 2 ns grid. -/
def onGrid (t : Word) : Word := t &&& ~~~(1 : Word)

/-- Queue an edge (R248, R249, R298): ACCESS, RANGE, or none while the queue is full. -/
def State.lineQueue (s : State) (k e t : Nat) (at_ : Option Word) (level : Bool) : Option Ans :=
  let l := s.line k
  let i := onGrid (at_.getD s.now)
  if !s.lineBound k e t then some (.access, s)
  else if (match l.lastAt with | some p => !future i p | none => false) then some (.range, s)
  else if 4 ≤ l.queue.length then none
  else some (.done, s.setLine k { l with
    queue := l.queue ++ [{ at_ := i, level := level, now := at_.isNone }], lastAt := some i })

/-- The edges of every line that a thread is bound to are discarded when the thread is removed (R253). -/
def State.threadGone (s : State) (e t : Nat) : State :=
  (List.range 64).foldl (fun s k =>
    let b := s.rd (dlA k 4)
    if bit b 31 && fld b 11 8 == e && fld b 2 0 == t then s.lineDiscard k true else s) s

/-! ### Halting and starting -/

/-- HALT (R223). -/
def State.thHalt (s : State) (e t : Nat) : State :=
  let st := s.thState e t
  if st = 3 then s.setThr e t { s.thr e t with haltReq := true }
  else if st = 1 || st = 2 then ((s.setQpc e t (s.qpc e t)).setThr e t {}).setThState e t 0
  else if st = 5 then s.setThState e t 0
  else s

/-- START (R223). -/
def State.thStart (s : State) (e t : Nat) : State :=
  if s.thStopped e t then ((s.setThr e t {}).setThState e t 1).wf (thA e t 4) 7 4 0 else s

/-- STEP (R269). -/
def State.thStep (s : State) (e t : Nat) : State :=
  if s.thState e t = 0 || s.thState e t = 5 then (s.setThr e t { stepping := true }).setThState e t 1 else s

/-- The command waits at a boundary for thread `t` of engine `e`. -/
def Waiting.ofThread (e t : Nat) (w : Waiting) : Bool :=
  w.past.isNone && match w.by_ with | .engine e' t' _ _ => e' == e && t' == t | _ => false

/-- The thread as a tenant reset leaves it (R265): registers, flags, doorbells, bindings, frame slot and data range zero, and
its instruction that waits at a boundary ended. -/
def State.thWipe (s : State) (e t : Nat) : State :=
  let lo := s.rf (thA e t 0xC) 7 0 * 256
  let hi := s.rf (thA e t 0xC) 15 8 * 256
  let s1 := s.resetRegs fun a => !((thA e t 0x10 ≤ a && a < thA e t 0x18) || (thA e t 0x20 ≤ a && a < thA e t 0x80))
  let keep (a : Nat) : Bool :=
    !((dmA e lo ≤ a && a < dmA e hi) || (dmA e (slotA t) ≤ a && a < dmA e (slotA t) + 0x840))
  ({ s1 with
      mem := smKeep keep s1.mem
      eccBad := s1.eccBad.filter keep
      boundary := s1.boundary.filter fun w => !w.ofThread e t }.setThr e t {}).setThState e t 0

/-! ### Write rules of the SEC page -/

/-- Data ranges given by DLIM and DBASE overlap. -/
def rangesMeet (lo hi lo' hi' : Nat) : Bool := lo < hi' && lo' < hi && lo < hi && lo' < hi'

/-- With bounds `lo`–`hi` and tags `g`, thread `t` would share data with a thread of other tags (R228). -/
def State.boundsMeet (s : State) (e t : Nat) (g : Tags) (lo hi : Nat) : Bool :=
  (List.range 8).any fun u =>
    u != t && s.threadTags (e * 8 + u) != g && rangesMeet lo hi (s.rf (thA e u 0xC) 7 0) (s.rf (thA e u 0xC) 15 8)

/-- T_CTL: the PC is taken while the thread is stopped. A write to a running thread is a write of its PC and completes with
CONFLICT (R268), unless it sets HALT, which acts and ignores the PC (R223). DEDUCED (log 21). -/
def State.putTctl (s : State) (e t : Nat) (v : Word) : Ans :=
  if !s.thStopped e t then if bit v 1 then (.done, s.thHalt e t) else (.conflict, s)
  else
    let s1 := s.setQpc e t (fld v 29 16)
    let s1 := if bit v 1 then s1.thHalt e t else s1
    let s1 := if bit v 0 then s1.thStart e t else s1
    (.done, if bit v 2 then s1.thStep e t else s1)

/-- A thread block register, written by TID 0 with W = 1. -/
def State.putThread (s : State) (e t r : Nat) (v : Word) : Ans :=
  if r = 0 then s.putTctl e t v
  else if r = 8 then
    if fld v 30 16 ≤ fld v 13 0 || 16384 < fld v 30 16 then (.range, s) else (.done, s.plainWr (thA e t r) v)
  else if r = 0xC then
    if 0xBE < fld v 15 8 || fld v 15 8 < fld v 7 0 then (.range, s)
    else if s.boundsMeet e t (s.threadTags (e * 8 + t)) (fld v 7 0) (fld v 15 8) then (.conflict, s)
    else (.done, s.plainWr (thA e t r) v)
  else if 0x20 ≤ r && r < 0x40 then
    if 6 ≤ fld v 26 24 then (.range, s) else (.done, s.plainWr (thA e t r) v)
  else if r = 0x14 || 0x40 ≤ r then
    if s.thStopped e t then (.done, s.plainWr (thA e t r) v) else (.conflict, s)
  else (.done, s)

/-- T_DOOR: doorbells are set by TID 0 with W = 1 or by the thread's own slice. -/
def State.putDoor (s : State) (g : Tags) (e t : Nat) (v : Word) : Ans :=
  if !g.manager && g != s.threadTags (e * 8 + t) then s.deny g (thA e t 0x10)
  else (.done, s.wr (thA e t 0x10) (s.rd (thA e t 0x10) ||| (v &&& 0xFF)))

/-- DL_BIND: the holder of DL_OWN or TID 0 with W = 1; CONFLICT while the queue holds edges (R247). -/
def State.putBind (s : State) (g : Tags) (k : Nat) (v : Word) : Ans :=
  if !s.mayWriteOwned g (dlA k 0) then s.deny g (dlA k 4)
  else if !(s.line k).queue.isEmpty then (.conflict, s)
  else (.done, s.plainWr (dlA k 4) v)

/-- MSUB: the subscription restarts with the first window that ends after the write (R254). -/
def State.putMsub (s : State) (e j : Nat) (v : Word) : Ans :=
  if 6 ≤ fld v 26 24 || fld v 9 0 = 0 || 1000 < fld v 9 0 || (fld v 26 24 = 5 && 32 ≤ fld v 21 16) then (.range, s)
  else
    let i := s.eng e
    (.done, (s.plainWr (secA e (0x600 + j * 4)) v).setEng e { i with
      seen := smSet (fun _ => 0) i.seen j 0, since := smSet (fun _ => 0) i.since j s.measNo })

/-- A write to offset `o` of engine `e`'s SEC page. -/
def State.putSec (s : State) (g : Tags) (e o : Nat) (v : Word) : Ans :=
  if 0x40 ≤ o && o < 0x80 && o % 0x10 = 4 then s.putBind g (e * 4 + (o - 0x40) / 0x10) v
  else if 0x100 ≤ o && o < 0x500 && o % 0x80 = 0x10 then s.putDoor g e ((o - 0x100) / 0x80) v
  else if !g.manager then s.deny g (secA e o)
  else if o = 0 then
    let s1 := if bit v 0 then s.wb (secA e 0) 0 true else s
    (.done, if bit v 1 then (List.range 8).foldl (fun s t => s.thHalt e t) s1 else s1)
  else if 0x100 ≤ o && o < 0x500 then s.putThread e ((o - 0x100) / 0x80) (o % 0x80) v
  else if 0x600 ≤ o && o < 0x640 then s.putMsub e ((o - 0x600) / 4) v
  else if o = 0x640 then (.done, if bit v 31 then s.wf (secA e o) 23 16 0 else s)
  else (.done, s.plainWr (secA e o) v)

/-! ### Measurement at the engine (R254–R256) -/

/-- A sample enters the engine FIFO of 64, or is dropped and counted; the first drop after OVF_RST is reported (R255). -/
def State.engTake (s : State) (e : Nat) (x : Sample) : State :=
  let i := s.eng e
  if i.fifo.length < 64 then s.setEng e { i with fifo := i.fifo ++ [x] }
  else
    let first := s.rf (secA e 0x640) 23 16 == 0
    let s1 := s.bump (secA e 0x640) 23 16
    if first then s1.report 0x4007 (e * 8) else s1

/-- Subscription `j` of engine `e` meets a sample; it counts those made since its MSUB was written (R254). -/
def State.subscribe (s : State) (e j : Nat) (m : MeasTx) : State :=
  let v := s.rd (secA e (0x600 + j * 4))
  let i := s.eng e
  let x := m.x
  if bit v 31 && fld v 26 24 == fld x.w0 24 22 && fld v 21 16 == fld x.w0 21 16
      && smGet (fun _ => 0) i.since j ≤ m.serial then
    let n := smGet (fun _ => 0) i.seen j
    let s1 := s.setEng e { i with seen := smSet (fun _ => 0) i.seen j (if fld v 9 0 ≤ n + 1 then 0 else n + 1) }
    if n = 0 then s1.engTake e x else s1
  else s

/-! ### Towards the engines (R192, R193, R254, R255) -/

/-- A sample arrives at the SE island: the latest-sample mirror takes it, and the FIFO of every engine that subscribes to it. -/
def State.measArrive (s : State) (m : MeasTx) : State :=
  let s := { s with mirror := smSet (fun _ => none) s.mirror (fld m.x.w0 21 16 * 8 + fld m.x.w0 24 22) (some m.x) }
  (List.range 16).foldl (fun s e => (List.range 16).foldl (fun s j => s.subscribe e j m) s) s

/-- Key of a sample: its channel or input, and its kind. -/
def measKey (x : Sample) : Nat := fld x.w0 24 16

/-- A sample made at die `d` sets out for the SE island. It overtakes none of its own source: one still under way, which its
2–4 µs have long brought there, arrives first. Nothing crosses a silent link. -/
def State.measSend (s : State) (d : Nat) (x : Sample) : State :=
  if !s.logicOn || !(s.link d).up then s
  else
    let old := s.measTx.filter fun m => measKey m.x == measKey x
    let s := if s.accepts 4 then old.foldl State.measArrive s else s
    { s with measTx := s.measTx.filter (fun m => measKey m.x != measKey x) ++ [⟨x, s.measNo⟩], measNo := s.measNo + 1 }

end Sys2Proof.Machine
end

