-- ==== Sys2Proof/Machine/Cellar.lean ====
section
/-!
DEFINITION. The Cellar: signal entries, the age check, the sweeper, decant schedules, routing, the node-watch table, the
tunnel unit, snapshots and the CLR registers (R306–R353).
-/

namespace Sys2Proof.Machine

/-! ### Entries (R306–R317) -/

/-- Word `w` of entry `h`. -/
def enA (h w : Nat) : Nat := cellarBase + h * 0x20 + w * 4
/-- Register `off` of CLR. -/
def clA (off : Nat) : Nat := clrBase + off

/-- Check word `k` of entry `h` holds an uncorrectable error (R317). -/
def State.enBad (s : State) (h k : Nat) : Bool := s.isBad (enA h (2 * k))
def State.enAnyBad (s : State) (h : Nat) : Bool := (List.range 4).any fun k => s.enBad h k
/-- The entry is unconfigured (R308). -/
def State.enBare (s : State) (h : Nat) : Bool := s.rf (enA h 5) 15 0 == 0
/-- The age limit in nanoseconds (R309). -/
def ageLimit (w5 : Word) : Nat := fld w5 15 0 * 10 ^ fld w5 17 16 * 1000
/-- Age of a date at `now` (R313). -/
def ageOf (date now : Word) : Nat := (now - date).toNat

/-- The entry's node is LOST with STALE_LINK (R313, R337). -/
def State.enNodeLost (s : State) (h : Nat) : Bool :=
  let n := s.rf (enA h 7) 11 0
  s.rb (enA h 7) 12 && s.rb (nwA n 0) 29 && s.rf (nwA n 1) 15 14 == 2

/-- The entry is stale by the check of R313. -/
def State.enStale (s : State) (h : Nat) : Bool :=
  !s.rb (enA h 1) 9 || s.rb (enA h 1) 8 || decide (ageLimit (s.rd (enA h 5)) < ageOf (s.rd (enA h 2)) s.now)
    || s.enNodeLost h || s.enAnyBad h

/-- A read delivers a stale value: by R313, or because the entry is unconfigured (R308). -/
def State.enReadStale (s : State) (h : Nat) : Bool := s.enBare h || s.enStale h

/-- The value a read delivers (R308, R314, R317). -/
def State.enValue (s : State) (h : Nat) : Word :=
  if s.enBare h || s.enAnyBad h then 0
  else if s.enStale h && s.rb (enA h 5) 18 then s.rd (enA h 4) else s.rd (enA h 0)

/-- The time a mode-1 read delivers (R288). -/
def State.enTime (s : State) (h : Nat) : Word :=
  if s.enBare h || s.enAnyBad h || !s.rb (enA h 1) 9 then 0 else s.rd (enA h 2)

/-- OWN_TID with OWN_W, or TID 0 with W = 1 (R307). -/
def State.enMayWrite (s : State) (t : Tags) (h : Nat) : Bool := t.manager || ownTags (s.rd (enA h 6)) == t
def State.enMayRead (s : State) (t : Tags) (h : Nat) : Bool := s.enMayWrite t h || s.rb (enA h 6) 9

/-- Count an event in CNTk; the first after CNT_RST reports the counter's fault (R353). -/
def State.clrCnt (s : State) (k : Nat) : State :=
  let first := s.rd (clA (0x40 + k * 4)) == 0
  let f := [0, 0x4042, 0x4043, 0x4044, 0x4046, 0, 0x4046, 0x4047].getD k 0
  let s := s.bump (clA (0x40 + k * 4)) 31 0
  if first && f != 0 then s.report f else s

/-! ### Snapshots: what a write leaves for the copier (R349, R351) -/

/-- The words a copy of entry `h` holds: RD_STATUS as 0. -/
def State.enWords (s : State) (h : Nat) : List Word :=
  (List.range 8).map fun w => if w = 1 then s.rd (enA h 1) &&& 0xFFFFFF00 else s.rd (enA h w)

/-- A snapshot ends: STATUS, BUSY clear; the first ABORTED after CNT_RST reports 0x4048. -/
def State.snapEnd (s : State) (st : Status) : State :=
  let pair := match s.clr.snap with | some n => n.forPair | none => false
  let s := ({ s with clr := { s.clr with snap := none, pairEnd := if pair then some st else s.clr.pairEnd } }).wr (clA 0x1C) (wd st.code)
  if st = .aborted && !s.clr.abortSaid then ({ s with clr := { s.clr with abortSaid := true } }).report 0x4048 else s

/-- Keep the old contents of an entry that is about to change after the cut and before it is copied. A write takes a place
in its bank's save buffer of 32; a mark of the sweeper takes none. -/
def State.snapSave (s : State) (h : Nat) (write : Bool) : State :=
  match s.clr.snap with
  | none => s
  | some n =>
    if h < n.first || n.last < h || h < n.done then s
    else
      let full := decide (32 ≤ (n.used.filter fun u => u % 16 == h % 16).length)
      let needs := write && !n.used.contains h
      if needs && full then s.snapEnd .aborted
      else
        let saved := if n.saved.any (fun p => p.1 == h) then n.saved else n.saved ++ [(h, s.enWords h)]
        { s with clr := { s.clr with snap := some { n with
          saved := saved, used := if needs then n.used ++ [h] else n.used } } }

/-! ### Decant schedules (R324–R329) -/

/-- Register `off` of decant schedule `k`. -/
def dsA (k off : Nat) : Nat := clA (0x1000 + k * 0x20 + off)
def State.ds (s : State) (k : Nat) : DsInt := smGet (fun _ => {}) s.clr.ds k
def State.setDs (s : State) (k : Nat) (v : DsInt) : State :=
  { s with clr := { s.clr with ds := smSet (fun _ => {}) s.clr.ds k v } }
def State.dsMode (s : State) (k : Nat) : Nat := s.rf (dsA k 4) 31 30
def State.dsGap (s : State) (k : Nat) : Nat := s.rf (dsA k 8) 19 0 * 1000
def State.dsMaxGap (s : State) (k : Nat) : Nat := s.rf (dsA k 0xC) 19 0 * 1000

/-- The first instant phase + k × gap that lies in the future (R325). -/
def seriesNext (phase now : Word) (gap : Nat) : Word :=
  if future phase now || gap = 0 then phase else phase + wd (((now - phase).toNat + gap - 1) / gap * gap)

/-- The last fire of schedule `k` lies less than `ns` back: in time-base time, and by the ticks since it within the reach of a
32-bit time (R326; DEDUCED, log 143). -/
def State.dsWithin (s : State) (k ns : Nat) : Bool :=
  match (s.ds k).fired with
  | some t => decide (s.ticks - t < 2 ^ 30) && decide (ageOf (s.rd (dsA k 0x14)) s.now < ns)
  | none => false

/-- Fire schedule `k` at instant `at_`: the doorbell is set, or the fire merges into one that is set (R328). -/
def State.dsFire (s : State) (k : Nat) (at_ : Word) : State :=
  let c := s.rd (dsA k 4)
  let e := fld c 29 26
  let t := fld c 25 23
  let door := fld c 22 20
  let o := s.ownerOf (dsA k 0)
  let merged := s.rb (thA e t 0x10) door
  let s := (s.wr (dsA k 0x14) at_).wf (dsA k 0x18) 31 16 (s.rf (dsA k 0x18) 31 16 + 1)
  let s := s.wb (thA e t 0x10) door true
  let i := s.ds k
  let next := if s.dsMode k = 1 then some (at_ + wd (s.dsGap k))
    else if s.dsMode k = 3 then some (at_ + wd (s.dsMaxGap k)) else none
  let s := s.setDs k { next := next, fired := some s.ticks, fresh := i.fresh && !merged }
  if merged then
    let s := s.bump (dsA k 0x18) 15 0
    if i.fresh then s.report 0x404A (e * 8 + t) 0 o.tid o.w else s
  else s

/-- An accepted write to an entry that schedule `k` watches (R326, R327). -/
def State.dsWrite (s : State) (k : Nat) : State :=
  let i := s.ds k
  if s.dsMode k = 2 || s.dsMode k = 3 then
    let last := s.rd (dsA k 0x14)
    if s.dsWithin k (s.dsGap k) then s.setDs k { i with next := some (last + wd (s.dsGap k)) }
    else s.dsFire k s.now
  else s

/-- The next fire of schedule `k` by its registers alone: the series of CYCLIC, and the heartbeat of MIXED, MAX_GAP after the
last fire or now where that has passed (R325, R327; DEDUCED, log 143). -/
def State.dsNext (s : State) (k : Nat) : Option Word :=
  if s.dsMode k = 1 then some (seriesNext (s.rd (dsA k 0x10)) s.now (s.dsGap k))
  else if s.dsMode k = 3 && (s.ds k).fired.isSome then
    some (if s.dsWithin k (s.dsMaxGap k) then s.rd (dsA k 0x14) + wd (s.dsMaxGap k) else s.now)
  else none

/-- The series restarts from the registers' values; a deferred fire is discarded (R329). -/
def State.dsRestart (s : State) (k : Nat) : State := s.setDs k { s.ds k with next := s.dsNext k }

/-- DS_OWN is released: MODE becomes OFF (R324). -/
def State.dsRelease (s : State) (k : Nat) : State := (s.wf (dsA k 4) 31 30 0).dsRestart k

/-- A write to schedule `k`: its owner or TID 0 with W = 1 (R324, R327, R329). -/
def State.putDs (s : State) (t : Tags) (k r : Nat) (v : Word) : Ans :=
  let th := fld v 29 26 * 8 + fld v 25 23
  let cfg := if r = 4 then v else s.rd (dsA k 4)
  let gap := if r = 8 then fld v 19 0 else s.rf (dsA k 8) 19 0
  let maxg := if r = 0xC then fld v 19 0 else s.rf (dsA k 0xC) 19 0
  if !s.mayWriteOwned t (dsA k 0) then s.deny t (dsA k r)
  else if r = 4 && s.threadTags th != s.ownerOf (dsA k 0) then s.deny t (dsA k r)
  else if r = 8 && (gap = 0 || 1000000 < gap) then (.range, s)
  else if (r = 4 || r = 8 || r = 0xC) && fld cfg 31 30 = 3 && maxg ≤ gap then (.range, s)
  else if r = 4 then
    (.done, (((s.plainWr (dsA k r) v).wf (dsA k 0x18) 15 0 0).setDs k { s.ds k with fresh := true }).dsRestart k)
  else if r = 8 || r = 0xC || r = 0x10 then (.done, (s.plainWr (dsA k r) v).dsRestart k)
  else (.done, s)

/-- A write of DS_CFG (r = 0), DS_GAP (1), DS_MAXG (2) or DS_PHASE (3). -/
def execDecantConfigWrite (a : Acc) (k : Fin 256) (r : Fin 4) (v : Word) (s : State) : Out :=
  s.cfgWrite a (dsA k (4 + r * 4)) (.decantConfigWrite a k r v) fun t s => s.putDs t k (4 + r * 4) v

/-- The schedule's fire instant has come. -/
def execDecantFire (k : Fin 256) (s : State) : Out :=
  .next (match (s.ds k).next with
    | some at_ => if s.accepts 4 && s.dsMode k != 0 && reached at_ s.now then s.dsFire k at_ else s
    | none => s)

/-! ### Writes of a value (R307–R312, R352) -/

/-- Both check words of a value are rewritten whole (R317). -/
def State.enMend (s : State) (h : Nat) : State := (s.mend (enA h 0)).mend (enA h 2)

/-- An accepted write of a value with its date (R310, R312). -/
def State.enAccept (s : State) (h : Nat) (v date : Word) : State :=
  let s := s.snapSave h true
  let late := decide (ageLimit (s.rd (enA h 5)) < ageOf date s.now)
  let w1 := s.rd (enA h 1)
  let w1 := setFld (setFld w1 31 16 (fld w1 31 16 + 1)) 9 8 (2 + late.toNat)
  let s := ((((s.wr (enA h 0) v).wr (enA h 1) w1).wr (enA h 2) date).wr (enA h 3) s.now).enMend h
  if s.rb (enA h 6) 24 then s.dsWrite (s.rf (enA h 6) 23 16) else s

/-- A value write by a party of tags `t`, dated `date`. -/
def State.enWrite (s : State) (t : Tags) (h : Nat) (v date : Word) : Ans :=
  let w1 := s.rd (enA h 1)
  if !s.enMayWrite t h then s.deny t (enA h 0)
  else if s.enBare h then (.range, s)
  else if s.enBad h 2 || s.enBad h 3 then (.eccUncorr, s)
  else if bit w1 9 && !bit w1 8 && !future date (s.rd (enA h 2)) then (.done, s.clrCnt 0)
  else (.done, s.enAccept h v date)

/-- The party is in restore mode (R352). -/
def State.restoring (s : State) (t : Tags) : Bool := t.manager && s.rb (clA 0) 1

/-- Store words of an entry as they are given; a whole check word loses its error, half of a bad one is refused (R317). -/
def State.enStore (s : State) (h w : Nat) (wide : Bool) (v : DWord) (f : State → Nat → Word → State) : Ans :=
  if s.enBad h (w / 2) && !wide then (.eccUncorr, s)
  else
    let s := f (s.snapSave h true) w (wd v.toNat)
    (.done, if wide then (f s (w + 1) (wd (v.toNat >>> 32))).mend (enA h w) else s)

/-- A restore of words 0 to 3. -/
def State.enRestoreWord (s : State) (h w : Nat) (v : Word) : State :=
  s.wr (enA h w) (if w = 1 then v &&& 0xFFFF0300 else v)

/-- The age limit a word 5 gives exceeds 2,000 ms (R309). -/
def ageTooLong (w5 : Word) : Bool := 2000000000 < ageLimit w5

/-- A window write of 4 bytes at word `w` of entry `h`, or of 8 bytes at an even word. -/
def State.putEntry (s : State) (t : Tags) (h w : Nat) (wide : Bool) (v : DWord) : Ans :=
  let w5 := if wide then wd (v.toNat >>> 32) else wd v.toNat
  if 4 ≤ w then
    if !t.manager then s.deny t (enA h w)
    else if ((w = 5 && !wide) || (w = 4 && wide)) && ageTooLong w5 then (.range, s)
    else if wide && w % 2 = 1 then (.align, s)
    else s.enStore h w wide v fun s w v => s.plainWr (enA h w) v
  else if !s.enMayWrite t h then s.deny t (enA h w)
  else if wide && w % 2 = 1 then (.align, s)
  else if s.restoring t then
    if w = 0 && s.enBare h then (.range, s)
    else if w = 0 && (s.enBad h 2 || s.enBad h 3) then (.eccUncorr, s)
    else s.enStore h w wide v fun s w v => s.enRestoreWord h w v
  else if w = 0 then s.enWrite t h (wd v.toNat) s.now
  else if s.enBad h (w / 2) && !wide then (.eccUncorr, s)
  else (.done, s)

/-- What a window read of word `w` returns (R306, R314). -/
def State.enRead (s : State) (h w : Nat) : Word :=
  if w = 0 then s.enValue h
  else if w = 1 then setFld (s.rd (enA h 1)) 7 0 (if s.enReadStale h then 0x60 else 0)
  else s.rd (enA h w)

/-- A window read: words 0 and 1 never complete with ECC_UNCORR (R317). -/
def State.getEntry (s : State) (t : Tags) (h w : Nat) (wide : Bool) : Status × DWord × State :=
  if !s.enMayRead t h then let r := s.deny t (enA h w); (r.1, 0, r.2)
  else if wide && w % 2 = 1 then (.align, 0, s)
  else if 2 ≤ w && s.enBad h (w / 2) then (.eccUncorr, 0, s)
  else (.done, BitVec.ofNat 64 ((s.enRead h w).toNat + if wide then (s.enRead h (w + 1)).toNat * 2 ^ 32 else 0), s)

/-- A window write of a value. -/
def execCellarWindowValueWrite (a : Acc) (h : BitVec 16) (wide : Bool) (v : DWord) (s : State) : Out :=
  s.cfgWrite a (enA h.toNat 0) (.cellarWindowValueWrite a h wide v) fun t s => s.putEntry t h.toNat 0 wide v

/-- A window write of words 4 to 7. -/
def execCellarConfigWrite (a : Acc) (h : BitVec 16) (w : Fin 4) (wide : Bool) (v : DWord) (s : State) : Out :=
  s.cfgWrite a (enA h.toNat (4 + w)) (.cellarConfigWrite a h w wide v) fun t s => s.putEntry t h.toNat (4 + w) wide v

/-- An uncorrectable error found in check word `k` of entry `h` (R317). -/
def State.enUncorr (s : State) (h k : Nat) : State :=
  let s := ((s.snapSave h false).spoil (enA h (2 * k))).wb (enA h 1) 8 true
  let e := s.rd (clA 0x28)
  (s.wr (clA 0x28) (setFld (setFld (setBit e 31 true) 25 24 k) 15 0 h)).report 0x4040 h

/-- STALE is set on every entry of a tenant (R316). -/
def State.enTenant (s : State) (t : Tid) : State :=
  s.regs.foldl (fun s p =>
    if cellarBase ≤ p.1 && p.1 < cellarBase + 0x200000 && p.1 % 0x20 = 0x18 && fld p.2 7 0 = t.toNat
    then (s.snapSave ((p.1 - cellarBase) / 0x20) false).wb (p.1 - 0x14) 8 true else s) s

/-! ### Routing and node watch (R330–R341) -/

/-- The hash of a key (R331). -/
def rtHash (src : Nat) (ide : Bool) (id : Nat) : Nat :=
  let k : List Byte := [BitVec.ofNat 8 src, BitVec.ofNat 8 (ide.toNat * 128 + id / 2 ^ 24 % 32), BitVec.ofNat 8 (id / 2 ^ 16),
    BitVec.ofNat 8 (id / 2 ^ 8), BitVec.ofNat 8 id]
  k.foldl (qCrcByte 16 0x1021 false) 0xFFFF % 4096

/-- Identifier and IDE of a frame's lookup key (R330). -/
def keyId (f : Frame) : Nat :=
  if f.kind = 4 then f.id.toNat % 64 else if f.kind = 3 then f.id.toNat % 2 ^ 11 else f.id.toNat % 2 ^ 29
def keyIde (f : Frame) : Bool := (f.kind = 1 || f.kind = 2) && f.ide

/-- The first of the eight places whose words hold the key. -/
def placeOf (w0 w1 : Nat → Word) (src : Nat) (f : Frame) : Option Nat :=
  let h := rtHash src (keyIde f) (keyId f)
  ((List.range 8).map fun i => (h + i) % 4096).find? fun e =>
    bit (w0 e) 31 && bit (w0 e) 30 == keyIde f && fld (w0 e) 28 0 == keyId f && fld (w1 e) 31 24 == src

/-- A change of a node's STATE: LOST counts and reports 0x4045, and NOTIFY puts an item (R339–R341). -/
def State.nwState (s : State) (e st : Nat) : State :=
  let s := s.wf (nwA e 1) 15 14 st
  let s := if st = 2 then (s.bump (nwA e 1) 7 0).report 0x4045 e else s
  if s.rb (clA 0xC) 30 then
    let item := leBytes 2 e ++ leBytes 2 st ++ leBytes 4 s.now.toNat ++ leBytes 4 (s.rd (nwSeenA e)).toNat ++ leBytes 4 0
    s.hwPut (s.rf (clA 0xC) 8 0) item id (·.clrCnt 7) (·.clrCnt 7)
  else s

/-- The node-watch lookup of a frame (R338). -/
def State.nodeWatch (s : State) (src : Nat) (f : Frame) : State :=
  if !s.rb (clA 0xC) 31 then s
  else match placeOf (fun e => s.rd (nwA e 0)) (fun e => s.rd (nwA e 1)) src f with
    | none => s
    | some e =>
      let s := s.wr (nwSeenA e) f.time
      if s.rf (nwA e 1) 15 14 = 1 then s else s.nwState e 1

/-- Bytes of an ACF message as transmit tunnel `t` sends frame `f` (R343, R344). -/
def State.acfMsg (s : State) (t : Nat) (f : Frame) : List Byte :=
  let c := s.rd (clA (0x400 + t * 0x20))
  let brief := bit c 30
  let pad := (4 - f.data.length % 4) % 4
  let len := ((if brief then 8 else 16) + f.data.length + pad) / 4
  let epoch := (s.rd (clA 0x24)).toNat
  let hi := if s.now.toNat < f.time.toNat then (epoch + 2 ^ 32 - 1) % 2 ^ 32 else epoch
  beBytes 2 ((if brief then 2 else 1) * 512 + len)
    ++ beBytes 1 (pad * 64 + (!brief).toNat * 32 + f.rtr.toNat * 16 + f.ide.toNat * 8 + f.brs.toNat * 4
      + (f.kind == 2).toNat * 2 + f.esi.toNat)
    ++ beBytes 1 (fld c 12 8) ++ (if brief then [] else beBytes 4 hi ++ beBytes 4 f.time.toNat)
    ++ beBytes 4 (f.id.toNat % 2 ^ 29) ++ f.data ++ List.replicate pad 0

def State.txTun (s : State) (t : Nat) : TunInt := smGet (fun _ => {}) s.clr.txTun t
def State.setTxTun (s : State) (t : Nat) (v : TunInt) : State :=
  { s with clr := { s.clr with txTun := smSet (fun _ => {}) s.clr.txTun t v } }

/-- Bytes of collected messages. -/
def msgBytes (l : List (List Byte)) : Nat := l.foldl (fun n m => n + m.length) 0

/-- Send the PDU of transmit tunnel `t` towards P15 (R343). -/
def State.tunSend (s : State) (t : Nat) : State :=
  let a := clA (0x400 + t * 0x20)
  let m := (s.txTun t).msgs
  if m.isEmpty then s
  else
    let seq := s.rf (a + 0x18) 7 0
    let pdu := beBytes 1 0x82 ++ beBytes 2 (0x8000 + msgBytes m) ++ beBytes 1 seq ++ beBytes 4 (s.rd (a + 0xC)).toNat
      ++ beBytes 4 (s.rd (a + 8)).toNat ++ m.flatten
    let v := s.rd (a + 4)
    let tag := if bit v 16 then beBytes 2 0x8100 ++ beBytes 2 (fld v 15 13 * 2 ^ 13 + fld v 11 0) else []
    let frame := beBytes 2 (s.rf (a + 0x14) 15 0) ++ beBytes 4 (s.rd (a + 0x10)).toNat ++ beBytes 6 Config.hostMac.toNat
      ++ tag ++ beBytes 2 0x22F0 ++ pdu
    let s := (s.wf (a + 0x18) 7 0 (seq + 1)).wf (a + 0x18) 31 8 (s.rf (a + 0x18) 31 8 + 1)
    let s := s.setTxTun t { s.txTun t with msgs := [] }
    { s with esw := { s.esw with hostIn := s.esw.hostIn ++ [frame] } }

/-- A routed frame enters transmit tunnel `t` (R343). -/
def State.tunPack (s : State) (t : Nat) (f : Frame) : State :=
  let c := s.rd (clA (0x400 + t * 0x20))
  let m := s.acfMsg t f
  let s := if 1488 < msgBytes (s.txTun t).msgs + m.length then s.tunSend t else s
  let s := s.setTxTun t { s.txTun t with msgs := (s.txTun t).msgs ++ [m] }
  if fld c 7 0 = 0 || fld c 23 16 ≤ (s.txTun t).msgs.length then s.tunSend t else s

/-- A frame as destination kind `k` carries it, none where it cannot be carried (R334). -/
def routedAs (f : Frame) (k : Nat) (tunnel brs : Bool) (newIde : Bool) (newId : Nat) : Option Frame :=
  let xl := f.kind = 3
  if k = 1 && 8 < f.data.length then none
  else if k = 2 && f.rtr then none
  else if xl && (k != 3 || tunnel || !fdLen f.data.length) then none
  else some { f with
    kind := k, ide := newIde, id := wd (if xl then newId % 2 ^ 11 else newId), brs := k = 2 && brs
    esi := k = 2 && f.kind = 2 && f.esi, linClassic := false }

/-- Send a matched frame to one destination (R334, R335, R366). -/
def State.routeTo (s : State) (dst : Nat) (f : Frame) (w1 w2 w3 : Word) : State :=
  let k := if fld w1 13 12 = 0 then f.kind else fld w1 13 12
  match routedAs f k (decide (0x20 ≤ dst)) (bit w1 14) (bit w2 29) (fld w2 28 0) with
  | none => s.clrCnt 2
  | some g =>
    if 0x20 ≤ dst then
      if s.rb (clA (0x400 + (dst - 0x20) * 0x20)) 31 then s.tunPack (dst - 0x20) g else s.clrCnt 1
    else if !s.canKind dst g then s.clrCnt 2
    else if (s.capturer dst g).isSome || s.txFits dst g then s.txPush dst g (some (fld w3 23 16))
    else s.clrCnt 1

/-- The lookups of a received frame; answers whether it goes on along its normal path (R330–R335, R338). -/
def State.route (s : State) (src : Nat) (f : Frame) : State × Bool :=
  let s := s.nodeWatch src f
  if !s.rb (clA 0) 0 then (s, true)
  else match placeOf (fun e => s.rd (rtA e 0)) (fun e => s.rd (rtA e 1)) src f with
    | none => (s, true)
    | some e =>
      let w1 := s.rd (rtA e 1)
      let w2 := s.rd (rtA e 2)
      let w3 := s.rd (rtA e 3)
      let s := s.bump (rtA e 3) 15 0
      let s := s.routeTo (fld w1 23 16) f w1 w2 w3
      let s := if fld w3 31 24 = 0xFF then s else s.routeTo (fld w3 31 24) f w1 w2 w3
      (s, bit w1 15)

/-- A destination code names a destination of frames from a source: a LIN frame goes only to CAN (R332, R333; DEDUCED, log 144). -/
def rtDst (lin : Bool) (d : Nat) : Bool := d < 0x10 || (!lin && 0x20 ≤ d && d < 0x40)

/-- A write to word `w` of routing entry `e` (R333). -/
def State.putRoute (s : State) (e w : Nat) (v : Word) : Ans :=
  if w = 1 then (.done, s.wr (rtStageA e 1) (v &&& 0xFFFFF000))
  else if w = 2 then (.done, s.wr (rtStageA e 2) (v &&& 0x3FFFFFFF))
  else if w = 3 then (.done, s.wr (rtStageA e 3) (v &&& 0xFFFF0000))
  else
    let w1 := s.rd (rtStageA e 1)
    let w3 := s.rd (rtStageA e 3)
    let lin := 0x10 ≤ fld w1 31 24 && fld w1 31 24 < 0x18
    if bit v 31 && (!rtDst lin (fld w1 23 16) || (fld w3 31 24 != 0xFF && !rtDst lin (fld w3 31 24)) || fld w3 23 16 = 0
        || fld w1 13 12 = 3 || (lin && fld w1 13 12 = 0)) then (.range, s)
    else (.done, (((s.wr (rtA e 0) (v &&& 0xDFFFFFFF)).wr (rtA e 1) w1).wr (rtA e 2) (s.rd (rtStageA e 2))).wr (rtA e 3) w3)

/-- A write to word `w` of node-watch entry `e` (R337). -/
def State.putNode (s : State) (e w : Nat) (v : Word) : Ans :=
  if w = 1 then (.done, s.wr (nwStageA e) (v &&& 0xFFFF0000))
  else if fld (s.rd (nwStageA e)) 23 16 = 0 then (.range, s)
  else (.done, (((s.wr (nwA e 0) v).wr (nwA e 1) (s.rd (nwStageA e))).wr (nwSinceA e) s.now).wr (nwSeenA e) 0)

/-- The address in the tables that offset `o` of the table window selects. -/
def State.tblAddr (s : State) (o : Nat) : Nat :=
  let sel := s.rf (clA 8) 1 0
  let x := o - 0x8000
  if sel = 2 then nwA (x / 8) (x % 8 / 4) else rtA (sel % 2 * 2048 + x / 16) (x % 16 / 4)

/-- A write through the table window. -/
def State.putTable (s : State) (o : Nat) (v : Word) : Ans :=
  let sel := s.rf (clA 8) 1 0
  let x := o - 0x8000
  if sel = 2 then s.putNode (x / 8) (x % 8 / 4) v else s.putRoute (sel % 2 * 2048 + x / 16) (x % 16 / 4) v

/-! ### Snapshots (R348–R352) -/

/-- Take a snapshot of entries `first` to `last` into `dst` (R348). -/
def State.snapTake (s : State) (first last dst : Nat) (forPair : Bool) : Ans :=
  if last < first || dst % 32 != 0 then (.range, s)
  else if !sramSpan dst ((last + 1 - first) * 0x20) then (.length, s)
  else if s.clr.snap.isSome then (.conflict, s)
  else
    let s := (s.wb (clA 0x1C) 8 true).wr (clA 0x20) s.now
    (.done, { s with clr := { s.clr with snap := some { first, last, dst, done := first, forPair } } })

/-- SNAP_CTL.GO. -/
def State.snapGo (s : State) : Ans :=
  s.snapTake (s.rf (clA 0x14) 15 0) (s.rf (clA 0x14) 31 16) (s.rd (clA 0x18)).toNat false

/-- The copier writes entry `n.done` to system SRAM. -/
def State.snapCopy (s : State) (n : Snap) : State :=
  let h := n.done
  let ws := match n.saved.find? fun p => p.1 == h with | some p => p.2 | none => s.enWords h
  let s := s.memPut (n.dst + (h - n.first) * 0x20) (ws.map fun w => leBytes 4 w.toNat).flatten
  { s with clr := { s.clr with snap := some { n with
    done := h + 1, saved := n.saved.filter fun p => p.1 != h, used := n.used.filter fun u => u != h } } }

/-- Copy up to `k` further entries. -/
def State.snapRun : Nat → State → State
  | 0, s => s
  | k + 1, s => match s.clr.snap with
    | some n => if n.last < n.done then s else State.snapRun k (s.snapCopy n)
    | none => s

/-- The copy ends with what is left of it: DONE (R351). -/
def execSnapComplete (s : State) : Out :=
  .next (match s.clr.snap with
    | some n => if s.accepts 4 then (State.snapRun (n.last + 1 - n.done) s).snapEnd .done else s
    | none => s)

/-- 5 ms after the cut the copier takes 1 bank cycle in 16 (R350). -/
def execSnapCopierEscalate (s : State) : Out :=
  .next (match s.clr.snap with
    | some n => if s.accepts 4 && 5000000 ≤ ageOf (s.rd (clA 0x20)) s.now
      then { s with clr := { s.clr with snap := some { n with urgent := true } } } else s
    | none => s)

/-! ### The CLR page -/

/-- CNT0–CNT7 return to 0, and the next events report again. -/
def State.clrCntRst (s : State) : State :=
  let s := (List.range 8).foldl (fun s k => s.wr (clA (0x40 + k * 4)) 0) s
  { s with clr := { s.clr with abortSaid := false } }

/-- A write to offset `o` of the CLR page. -/
def State.putClr (s : State) (t : Tags) (o : Nat) (v : Word) : Ans :=
  if 0x1000 ≤ o && o < 0x3000 then s.putDs t ((o - 0x1000) / 0x20) (o % 0x20) v
  else if !t.manager then s.deny t (clA o)
  else if o = 0 then (.done, if bit v 2 then (s.plainWr (clA o) v).clrCntRst else s.plainWr (clA o) v)
  else if o = 8 && fld v 1 0 = 3 then (.range, s)
  else if o = 0xC && bit v 30 && s.ckItem (fld v 8 0) != 16 then (.length, s)
  else if o = 0xC && bit v 30 && !s.ckProdIs (fld v 8 0) 4 then (.conflict, s)
  else if o = 0x10 then
    let s1 := if bit v 1 && s.clr.snap.isSome then s.snapEnd .aborted else s
    if bit v 0 then s1.snapGo else (.done, s1)
  else if 0x400 ≤ o && o < 0x800 && o % 0x20 = 0 && fld v 23 16 = 0 then (.range, s)
  else if 0x400 ≤ o && o < 0x800 && o % 0x20 = 4 && bit v 16 && (fld v 11 0 = 0 || fld v 11 0 = 4095) then (.range, s)
  else if 0x8000 ≤ o then s.putTable o v
  else (.done, s.plainWr (clA o) v)

/-- CLR_CTL.CNT_RST, with the register's other fields as they stand. -/
def execClrCntRst (a : Acc) (s : State) : Out :=
  s.cfgWrite a (clA 0) (.clrCntRst a) fun t s => s.putClr t 0 (setBit (s.rd (clA 0)) 2 true)

/-- A write to word 0 of the routing entry at place `e` of the table window. -/
def execRouteEntryCommit (a : Acc) (e : Fin 2048) (v : Word) (s : State) : Out :=
  s.cfgWrite a (clA (0x8000 + e * 0x10)) (.routeEntryCommit a e v) fun t s => s.putClr t (0x8000 + e * 0x10) v

/-- A write to word 0 of the node-watch entry at place `e` of the table window. -/
def execNodeWatchCommit (a : Acc) (e : Fin 4096) (v : Word) (s : State) : Out :=
  s.cfgWrite a (clA (0x8000 + e * 8)) (.nodeWatchCommit a e v) fun t s => s.putClr t (0x8000 + e * 8) v

/-- SNAP_CTL.GO. -/
def execSnapGo (a : Acc) (s : State) : Out :=
  s.cfgWrite a (clA 0x10) (.snapGo a) fun t s => s.putClr t 0x10 1

/-- SNAP_CTL.ABORT. -/
def execSnapAbort (a : Acc) (s : State) : Out :=
  s.cfgWrite a (clA 0x10) (.snapAbort a) fun t s => s.putClr t 0x10 2

/-! ### The sweeper (R318–R320, R339) -/

/-- Handles of the entries that have accepted a write. -/
def State.enValid (s : State) : List Nat :=
  (s.regs.filter fun p => cellarBase ≤ p.1 && p.1 < cellarBase + 0x200000 && p.1 % 0x20 = 4 && bit p.2 9).map fun p =>
    (p.1 - cellarBase) / 0x20

/-- Indices of the valid node-watch entries. -/
def State.nwValid (s : State) : List Nat :=
  (s.regs.filter fun p => nwA 0 0 ≤ p.1 && p.1 < nwA 4096 0 && p.1 % 8 = 0 && bit p.2 31).map fun p => (p.1 - nwA 0 0) / 8

/-- The sweeper visits entry `h`. -/
def State.sweepEntry (s : State) (h : Nat) : State :=
  if s.enStale h && !s.rb (enA h 1) 8 then (s.snapSave h false).wb (enA h 1) 8 true else s

/-- The sweeper visits node-watch entry `e`. -/
def State.sweepNode (s : State) (e : Nat) : State :=
  let tmo := s.rf (nwA e 1) 23 16 * 10000000
  let st := s.rf (nwA e 1) 15 14
  if (st = 1 && tmo < ageOf (s.rd (nwSeenA e)) s.now) || (st = 0 && tmo ≤ ageOf (s.rd (nwSinceA e)) s.now)
  then s.nwState e 2 else s

/-- A pass of `us` microseconds (5 to 81): every entry and every node is visited. -/
def execSweeperPass (us : Fin 82) (s : State) : Out :=
  .next (if !s.logicOn || !s.accepts 4 then s
    else
      let s := s.enValid.foldl State.sweepEntry s
      let s := s.nwValid.foldl State.sweepNode s
      s.wf (clA 4) 31 16 (max (s.rf (clA 4) 31 16) (max us 5)))

/-- A pass has not finished when the next one starts. -/
def execSweepOverrun (s : State) : Out :=
  .next (if !s.logicOn || !s.accepts 4 then s else (s.wb (clA 4) 0 true).report 0x4049)

/-! ### Tunnels (R342–R347) -/

/-- HOLD has passed since the first message entered transmit tunnel `t`. -/
def execTunnelHoldExpiry (t : Fin 32) (s : State) : Out :=
  .next (if s.accepts 4 then s.tunSend t else s)

/-- What the messages of a PDU bring with it: receive time-stamp and ingress port. -/
structure PduAt where
  time : Word
  sub : Nat
  ingress : Nat

/-- The frame of one ACF message that receive tunnel `t` accepts (R345, R346). -/
def State.acfFrame (s : State) (t : Nat) (m : List Byte) (at_ : PduAt) : Option Frame :=
  let c := s.rd (clA (0x800 + t * 0x10))
  let typ := beNat (m.take 2) / 512
  let brief := typ == 2
  let b2 : Word := wd (byteAt m 2).toNat
  let mtv := bit b2 5
  let hd := if brief then 8 else 16
  let pad := fld b2 7 6
  let id := beNat (slice m (hd - 4) 4) % 2 ^ 29
  let n := m.length - hd - pad
  let ts : Word := wd (beNat (slice m 8 4))
  let dated := bit c 30 && mtv && !brief && !future ts at_.time
  if typ != 1 && typ != 2 then none
  else if (byteAt m 3).toNat % 32 != fld c 12 8 then none
  else if !bit b2 3 && 2048 ≤ id then none
  else if m.length < hd + pad || (if bit b2 1 then !fdLen n else decide (8 < n)) then none
  else if mtv && brief then none
  else some {
    kind := if bit b2 1 then 2 else 1, rtr := bit b2 4, ide := bit b2 3, brs := bit b2 2, esi := bit b2 0, id := wd id
    data := if bit b2 4 then [] else slice m hd n, tsValid := true, ingress := at_.ingress
    time := if dated then ts else at_.time
    sub := if dated then 0 else at_.sub }

/-- A decapsulated frame is routed, then delivered or dropped (R347). -/
def State.tunDeliver (s : State) (t : Nat) (f : Frame) : State :=
  let c := s.rd (clA (0x800 + t * 0x10))
  let r := s.route (0x20 + t) f
  if !r.2 then r.1
  else
    let q := fld c 19 16
    if bit c 29 && r.1.eqRoom q then r.1.setRxq q (r.1.rxq q ++ [f]) else r.1.clrCnt 6

/-- The messages of a PDU, in order; `n` bounds their number. -/
def State.tunMsgs (s : State) (t : Nat) (at_ : PduAt) : Nat → List Byte → State
  | 0, _ => s
  | n + 1, l =>
    if l.isEmpty then s
    else
      let len := beNat (l.take 2) % 512 * 4
      if len = 0 || l.length < len then s.clrCnt 4
      else
        let s1 := match s.acfFrame t (l.take len) at_ with
          | some f => s.tunDeliver t f
          | none => s.clrCnt 4
        s1.tunMsgs t at_ n (l.drop len)

def State.rxTun (s : State) (t : Nat) : TunInt := smGet (fun _ => {}) s.clr.rxTun t

/-- Receive tunnel `t` takes an NTSCF PDU, from its subtype byte on (R345). -/
def State.tunTake (s : State) (t : Nat) (pdu : List Byte) (at_ : PduAt) : State :=
  let seq := (byteAt pdu 3).toNat
  let len := beNat (slice pdu 1 2) % 2048
  let gap := match (s.rxTun t).prevSeq with | some p => seq != (p + 1) % 256 | none => false
  let s := if gap then s.clrCnt 5 else s
  let s := { s with clr := { s.clr with rxTun := smSet (fun _ => {}) s.clr.rxTun t { prevSeq := some seq } } }
  s.tunMsgs t at_ 512 ((pdu.drop 12).take len)

end Sys2Proof.Machine
end

