-- ==== Sys2Proof/Machine/CanBus.lean ====
section
/-!
DEFINITION. The CAN controllers: modes, message RAM, the transmit FIFO, transmit-at-time slots, filters, errors and bus-off,
and the write rules of the CAN page (R354–R385).
-/

namespace Sys2Proof.Machine

def State.canMode (s : State) (n : Nat) : Nat := s.rf (canA n 0) 2 0
/-- CAN_STAT.EST: 0 ERROR_ACTIVE, 1 ERROR_PASSIVE, 2 BUS_OFF. -/
def State.canEst (s : State) (n : Nat) : Nat := s.rf (canA n 0x20) 1 0
/-- The controllers' clock runs. -/
def State.nwOn (s : State) : Bool := s.logicOn && s.accepts 7

/-! ### Modes (R359, R360) -/

/-- OFF takes effect: no bus activity, FIFO and queues keep their frames. -/
def State.canOff (s : State) (n : Nat) : State :=
  let s := (s.wf (canA n 0) 2 0 0).wf (canA n 0x20) 3 2 0
  s.setCan n { s.can n with sending := none, inFrame := none, offDue := false, recovering := false }

/-- The frame in progress has ended: a pending OFF takes effect. -/
def State.canFrameEnd (s : State) (n : Nat) : State :=
  if (s.can n).offDue then s.canOff n else s.setCan n { s.can n with inFrame := none }

/-- MODE is written (R360). -/
def State.canSetMode (s : State) (n m : Nat) : State :=
  let old := s.canMode n
  if m = 0 then
    if old = 0 then s
    else if (s.can n).inFrame.isSome && s.canEst n != 2 then s.setCan n { s.can n with offDue := true }
    else s.canOff n
  else
    let s := (s.wf (canA n 0) 2 0 m).setCan n { s.can n with offDue := false }
    if old = 0 then s.wb (canA n 0x20) 2 true else s

/-- CNT0–CNT7 return to 0. -/
def State.canCntRst (s : State) (n : Nat) : State :=
  let s := (List.range 8).foldl (fun s k => s.wr (canA n (0x80 + k * 4)) 0) s
  s.setCan n { s.can n with holSaid := false, dropSaid := false }

/-- Add `k` to counter CNTi. -/
def State.canAdd (s : State) (n i k : Nat) : State :=
  s.wr (canA n (0x80 + i * 4)) (wd (min ((s.rd (canA n (0x80 + i * 4))).toNat + k) (2 ^ 32 - 1)))

/-! ### Transmit-at-time slots (R370–R375, R384) -/

/-- The due series of slot `k` restarts (R373). -/
def State.tatRestart (s : State) (n k : Nat) : State :=
  let c := s.rd (tatA n k 4)
  let t0 := s.rd (tatA n k 8)
  let per := (s.rd (tatA n k 0xC)).toNat * 1000
  let next := if !bit c 31 then none
    else if future t0 s.now then some t0
    else if bit c 30 && per != 0 then some (seriesNext t0 s.now per) else none
  let i := s.tat n k
  s.setTat n k { i with next := next, due := if bit c 31 then i.due else none }

/-- Another slot of the controller captures the same identifier (R372). -/
def State.tatClash (s : State) (n k : Nat) (hdr : Word) : Bool :=
  (List.range 8).any fun j => j != k && s.rb (tatA n j 4) 29 && fld (s.rd (tatA n j 0x20)) 29 0 == fld hdr 29 0

/-- The staged payload of slot `k`. -/
def State.tatStaged (s : State) (n k : Nat) : List Byte :=
  (((List.range 16).map fun w => leBytes 4 (s.rd (tatA n k (0x40 + w * 4))).toNat).flatten).take (s.rf (tatA n k 0x1C) 6 0)

/-- A write to slot `k`: its owner or TID 0 with W = 1. -/
def State.putTat (s : State) (t : Tags) (n k r : Nat) (v : Word) : Ans :=
  let len := s.rf (tatA n k 0x1C) 6 0
  if !s.mayWriteOwned t (tatA n k 0) then s.deny t (tatA n k r)
  else if r = 4 then
    if bit v 31 && fld v 15 0 = 0 then (.range, s)
    else if bit v 29 && s.tatClash n k (s.rd (tatA n k 0x20)) then (.conflict, s)
    else (.done, (s.plainWr (tatA n k r) v).tatRestart n k)
  else if r = 8 then (.done, (s.plainWr (tatA n k r) v).tatRestart n k)
  else if r = 0xC then
    if v.toNat < 100 || 2000000 < v.toNat then (.range, s) else (.done, (s.plainWr (tatA n k r) v).tatRestart n k)
  else if r = 0x20 then
    if !(if bit v 31 then fdLen len else len ≤ 8) then (.range, s)
    else if s.rb (tatA n k 4) 29 && s.tatClash n k v then (.conflict, s)
    else (.done, ((s.wr (tatA n k r) v).setTat n k { s.tat n k with data := s.tatStaged n k, date := s.ticks }).wr (tatA n k 0x18) s.now)
  else (.done, s.plainWr (tatA n k r) v)

/-- A tenant reset has released slot `k` (R384). -/
def State.tatWipe (s : State) (n k : Nat) : State :=
  (s.resetRegs fun a => !(tatA n k 4 ≤ a && a < tatA n k 0x80)).setTat n k {}

/-- The committed frame of slot `k`. -/
def State.tatFrame (s : State) (n k : Nat) : Frame :=
  let h := s.rd (tatA n k 0x20)
  { kind := if bit h 31 then 2 else 1, brs := bit h 30, ide := bit h 29, id := wd (fld h 28 0), data := (s.tat n k).data }

/-- MAX_AGE is set, and the data of slot `k` is older (R373; counted in ticks: DEDUCED, log 146). -/
def State.tatOld (s : State) (n k : Nat) : Bool :=
  let lim := s.rf (tatA n k 4) 23 16
  lim != 0 && decide (lim * 500000 < s.ticks - (s.tat n k).date)

/-- A due instant of slot `k` ends without a send (R374, R375). -/
def State.tatMissed (s : State) (n k : Nat) : State :=
  let s := s.setTat n k { s.tat n k with due := none }
  ((s.bump (tatA n k 0x10) 15 8).canEvt n 8).report 0x5008 n

/-- A slot falls due (R373, R374). -/
def execTatDue (n : Can) (k : Fin 8) (s : State) : Out :=
  .next (match (s.tat n k).next with
    | none => s
    | some at_ =>
      if !s.nwOn || !reached at_ s.now || !s.rb (tatA n k 4) 31 then s
      else
        let i := s.tat n k
        let c := s.rd (tatA n k 4)
        let i := { i with next := if bit c 30 then some (at_ + wd ((s.rd (tatA n k 0xC)).toNat * 1000)) else none }
        if s.tatOld n k then
          (((s.setTat n k i).bump (tatA n k 0x10) 23 16).canEvt n 9).report 0x5009 n
        else
          let s := if i.due.isSome then s.tatMissed n k else s
          s.setTat n k { i with due := some at_ })

/-- WIN has passed for a due slot that has not started its frame (R374). -/
def execTatWindowExpiry (n : Can) (k : Fin 8) (s : State) : Out :=
  .next (match (s.tat n k).due with
    | none => s
    | some at_ =>
      if !s.nwOn || (((s.can n).sending.map (·.1)) == some (.slot k) && (s.tat n k).onBus == some at_) then s
      else if s.rf (tatA n k 4) 15 0 * 1000 ≤ ageOf at_ s.now then s.tatMissed n k else s)

/-! ### Transceivers (R356, R405, R414) -/

def State.canTmode (s : State) (n : Nat) : Nat := s.rf (canA n 0x34) 2 0

/-- The transmitter drives the bus: none of the causes of R356 has turned it off, and the transceiver is neither in STANDBY nor
SILENT (DEDUCED, log 147). -/
def State.canTxOn (s : State) (n : Nat) : Bool := s.rf (canA n 0x34) 10 8 == 0 && (s.canTmode n == 1 || s.canTmode n == 2)

/-! ### Transmission (R366–R369, R374) -/

/-- The instance of slot `k` that was on the bus is done with; one that came due since stays due (R374). -/
def State.tatDone (s : State) (n k : Nat) : State :=
  let i := s.tat n k
  s.setTat n k { i with due := if i.due == i.onBus then none else i.due, onBus := none }

/-- A frame is discarded at the head of the FIFO, or a slot's instance is: counted in CNT4 (R368, R369). -/
def State.canDiscard (s : State) (n : Nat) (w : Sending) : State :=
  let s := match w with
    | .head => s.txPop n
    | .slot k => s.tatDone n k
  (s.canCnt n 4).canEvt n 5

/-- The sending attempt has failed: discard under DAR or HOL_LIM, or keep for the next arbitration. -/
def State.canRetry (s : State) (n : Nat) : State :=
  match (s.can n).sending with
  | none => s
  | some (w, _) =>
    let s := s.setCan n { s.can n with sending := none }
    let lim := s.rf (canA n 0x1C) 7 0
    if s.rb (canA n 0) 9 then s.canDiscard n w
    else if w = .head && lim != 0 && lim * 500000 < s.ticks - (s.can n).headSince then
      let s := s.canDiscard n w
      if (s.can n).holSaid then s else (s.setCan n { s.can n with holSaid := true }).report 0x5005 n
    else s

/-- A queued frame's age at transmission start is beyond its MAX_AGE (R335): by its receive time, or because the FIFO has held it
longer than a time of 32 bits can tell. -/
def State.txStale (s : State) (x : TxFrame) : Bool :=
  match x.maxAge with
  | some m => decide (m * 1000000 < ageOf x.f.time s.now) || decide (2 ^ 30 ≤ s.ticks - x.since)
  | none => false

/-- Discard routed heads beyond their MAX_AGE (R335). -/
def State.dropStale (s : State) (n : Nat) : Nat → State
  | 0 => s
  | k + 1 => match (s.can n).txf with
    | x :: _ => if s.txStale x then ((s.txPop n).clrCnt 3).dropStale n k else s
    | [] => s

/-- The controller may offer a frame. -/
def State.canMaySend (s : State) (n : Nat) : Bool :=
  s.nwOn && (s.canMode n = 1 || s.canMode n = 4) && !s.rb (canA n 0x20) 2 && s.canEst n != 2 && !(s.can n).offDue
    && (s.can n).sending.isNone

/-- The controller takes part in bus traffic: not OFF, integrated and not bus-off. -/
def State.canActive (s : State) (n : Nat) : Bool :=
  s.nwOn && s.canMode n != 0 && !s.rb (canA n 0x20) 2 && s.canEst n != 2

/-- The lowest due slot is offered, else the FIFO head; the transmitter's part in it is the transceiver's (R356). -/
def State.canOffer (s : State) (n : Nat) : State :=
  if !s.canMaySend n then s
    else match firstBelow 8 fun k => ((s.tat n k).due).isSome with
      | some k =>
        let s := s.setTat n k { s.tat n k with onBus := (s.tat n k).due }
        (s.setCan n { s.can n with sending := some (.slot k, s.tatFrame n k) }).wr (tatA n k 0x14) s.now
      | none =>
        let s := s.dropStale n (s.can n).txf.length
        match (s.can n).txf with
        | x :: _ => s.setCan n { s.can n with sending := some (.head, x.f) }
        | [] => s

/-- An arbitration begins, with this controller or without: a frame is in progress from here on. -/
def execCanArbitrationStart (n : Can) (s : State) : Out :=
  .next (if !s.canActive n then s
    else let s := s.canOffer n; s.setCan n { s.can n with inFrame := some s.now })

/-- The frame offered loses arbitration. -/
def execCanArbitrationLost (n : Can) (s : State) : Out :=
  .next (s.canRetry n)

/-! ### Error counters (R379–R382) -/

/-- TEC and REC take new values: EW at 96, ERROR_PASSIVE beyond 127, BUS_OFF beyond 255. -/
def State.canCounters (s : State) (n tec rec : Nat) : State :=
  let st := s.rd (canA n 0x20)
  let was := fld st 1 0
  let est := if 255 < tec then 2 else if 127 < tec || 127 < rec then 1 else 0
  let s := s.wr (canA n 0x20) (setFld (setFld (setFld st 24 16 (min tec 511)) 15 8 (min rec 255)) 1 0 est)
  let s := if (fld st 24 16 < 96 && 96 ≤ tec) || (fld st 15 8 < 96 && 96 ≤ rec) then s.canEvt n 0 else s
  let s := if est = 1 && was = 0 then (s.canEvt n 1).report 0x5001 n else s
  if est = 2 && was != 2 then
    let s := (((s.canEvt n 2).canCnt n 7).bump (canA n 0x20) 31 28).report 0x5002 n
    let i := s.can n
    let s := if s.rb (canA n 0x1C) 30 then (s.canAdd n 4 i.txf.length).setCan n { i with txf := [] } else s
    (s.setCan n { s.can n with sending := none, recovering := false, decided := false }).canFrameEnd n
  else s

/-- An error is detected: `lec` of CAN_STAT.LEC; `late` marks one that belongs to the controller's own error or overload flag (a
bit error in it, a dominant bit first after a receiver's, each dominant run after it), counted by its part in the frame
before; `exempt` marks an error that leaves TEC as it is (ISO 11898-1). -/
def State.canError (s : State) (n lec : Nat) (late exempt : Bool) : State :=
  let s := ((s.canCnt n 5).wf (canA n 0x20) 6 4 lec)
  let st := s.rd (canA n 0x20)
  let sends := (s.can n).sending.isSome || (late && (s.can n).flagTx)
  let s := s.canRetry n
  let s := s.setCan n { s.can n with flagTx := sends }
  let s := if s.canMode n = 2 then s
    else if sends then (if exempt then s else s.canCounters n (fld st 24 16 + 8) (fld st 15 8))
    else s.canCounters n (fld st 24 16) (fld st 15 8 + if late then 8 else 1)
  s.canFrameEnd n

/-- An error is detected on the bus. -/
def execCanBusError (n : Can) (lec : Fin 7) (late exempt : Bool) (s : State) : Out :=
  .next (if s.canActive n && lec.val != 0 then s.canError n lec late exempt else s)

/-- A recessive res bit: the protocol exception state with PXE, a form error without (R362). -/
def execCanProtocolException (n : Can) (s : State) : Out :=
  .next (if !s.canActive n then s
    else if s.rb (canA n 0) 6 then (((s.wf (canA n 0x20) 3 2 3).canCnt n 6).canEvt n 6).canFrameEnd n
    else s.canError n 2 false false)

/-- 11 consecutive recessive bits: the controller joins the bus, on which no frame is in progress (R360, R362). -/
def execCanBusIntegration (n : Can) (s : State) : Out :=
  .next (if s.nwOn && s.canMode n != 0 then (s.wf (canA n 0x20) 3 2 0).canFrameEnd n else s)

/-- BO_DELAY after bus-off: recovery starts, or has ended for good at BO_MAX (R381). -/
def execCanBusoffRecoveryStart (n : Can) (s : State) : Out :=
  let max := s.rf (canA n 0x1C) 27 24
  .next (if !s.nwOn || s.canEst n != 2 || !s.rb (canA n 0x1C) 31 || (s.can n).decided || (s.can n).recovering then s
    else if max != 0 && max ≤ s.rf (canA n 0x20) 31 28 then (s.setCan n { s.can n with decided := true }).report 0x5003 n
    else s.setCan n { s.can n with recovering := true, decided := true })

/-- The recovery sequence completes: ERROR_ACTIVE with both counters at 0, BO_REC (R379). -/
def execCanBusoffRecovered (n : Can) (s : State) : Out :=
  .next (if s.nwOn && s.canEst n = 2 && (s.can n).recovering then
    let s := ((s.wf (canA n 0x20) 24 16 0).wf (canA n 0x20) 15 8 0).wf (canA n 0x20) 1 0 0
    (s.setCan n { s.can n with recovering := false }).canEvt n 3
  else s)

/-! ### Reception (R376–R378) -/

/-- Word `w` of filter element `e`. -/
def fltA (n e w : Nat) : Nat := canA n (0x800 + e * 0x10 + w * 4)

/-- Element `e` matches the frame (R376). -/
def State.fltMatch (s : State) (n e : Nat) (f : Frame) : Bool :=
  let w0 := s.rd (fltA n e 0)
  let w2 := s.rd (fltA n e 2)
  bit w0 31 && ((keyId f ^^^ fld w0 28 0) &&& s.rf (fltA n e 1) 28 0) == 0 && keyIde f == bit w0 30
    && (!bit w2 8 || (f.kind == 3 && f.vcid.toNat == fld w2 7 0))

/-- What becomes of a frame at the filters: 0 queue 0, 1 queue 1, 2 reject. -/
def State.fltAction (s : State) (n : Nat) (f : Frame) : Nat :=
  let d := s.rd (canA n 0x30)
  if bit d 2 && f.rtr then 2
  else match firstBelow 64 fun e => s.fltMatch n e f with
    | some e => s.rf (fltA n e 1) 31 30
    | none => fld d 1 0

/-- Store an accepted frame in queue `q`, or drop it whole (R378). -/
def State.canStore (s : State) (n q : Nat) (f : Frame) : State :=
  let i := s.can n
  let held := if q = 0 then i.q0 else i.q1
  if recordsSize held + recordSize f ≤ (if q = 0 then s.q0Cap n else s.q1Cap n) then
    s.setCan n (if q = 0 then { i with q0 := i.q0 ++ [f] } else { i with q1 := i.q1 ++ [f] })
  else
    let s := (s.canCnt n (2 + q)).canEvt n 4
    if i.dropSaid then s else (s.setCan n { s.can n with dropSaid := true }).report 0x5004 n

/-- A frame has been received valid, with the start-of-frame time-stamp `time`: counted, routed, filtered (R378). -/
def State.canAccept (s : State) (n : Nat) (f : Frame) (time : Word) : State :=
  let f := { f with time, sub := 0, tsValid := true, ingress := 0, linClassic := false }
  let r := (s.canCnt n 0).route n f
  if !r.2 then r.1
  else
    let q := r.1.fltAction n f
    if q < 2 then r.1.canStore n q f else r.1

/-- The receive error counter after a frame received without error (ISO 11898-1): above 127 it takes an unstated value from
119 to 127. -/
def State.recAfterFrame (s : State) (rec : Nat) : Nat × State :=
  if 127 < rec then let r := s.fresh; (119 + r.1.toNat % 9, r.2) else (rec - 1, s)

/-- A valid frame of another node is received. -/
def execCanFrameReceive (n : Can) (f : Frame) (s : State) : Out :=
  .next (if !s.canActive n || !s.canKind n f || (s.can n).sending.isSome || s.canTmode n = 0 then s
    else
      let st := s.rd (canA n 0x20)
      let s := if s.canMode n = 2 then s
        else let r := s.recAfterFrame (fld st 15 8); r.2.canCounters n (fld st 24 16) r.1
      let s := s.canAccept n f f.time
      (s.setCan n { s.can n with flagTx := false }).canFrameEnd n)

/-- The frame on the bus has been sent: through the transceiver, or recessive in LOOPBACK. -/
def execCanFrameSent (n : Can) (s : State) : Out :=
  .next (match (s.can n).sending with
    | none => s
    | some (w, f) =>
      if s.canMode n != 4 && !s.canTxOn n then s else
      let sof := (s.can n).inFrame.getD s.now
      let st := s.rd (canA n 0x20)
      let s := (s.setCan n { s.can n with sending := none, flagTx := true, lastSent := some f }).canCnt n 1
      let s := match w with
        | .head => s.txPop n
        | .slot k => (s.tatDone n k).wf (tatA n k 0x10) 7 0 (s.rf (tatA n k 0x10) 7 0 + 1)
      let s := (s.canCounters n (fld st 24 16 - 1) (fld st 15 8)).wf (canA n 0x20) 31 28 0
      let s := if s.canMode n = 4 then s.canAccept n f sof else s
      s.canFrameEnd n)

/-! ### Transceiver faults (R356) -/

/-- Cause bit of CAN_TRX: 0 TXD_TO, 1 TSD, 2 BUS_DOM. -/
def execCanTransceiverFault (n : Can) (cause : Fin 3) (s : State) : Out :=
  let s1 := s.wb (canA n 0x34) (8 + cause) true
  .next (if s.logicOn then (s1.canEvt n 7).report 0x5007 n else s1)

/-- The cause has cleared and TXD is recessive. -/
def execCanTransceiverRecover (n : Can) (cause : Fin 3) (s : State) : Out :=
  .next (s.wb (canA n 0x34) (8 + cause) false)

/-! ### Write rules of the CAN page (R357, R359, R363, R364, R377, R383) -/

/-- Bit timing outside the limits of R357. -/
def timingBad (nominal : Bool) (v : Word) : Bool :=
  fld v 14 8 < fld v 6 0
    || (if nominal then fld v 23 16 = 0 else 32 ≤ fld v 31 24 || 64 ≤ fld v 23 16 || 16 ≤ fld v 14 8)

/-- CAN_CTL: every field but MODE and CNT_RST changes only in OFF. Fields that stay as they stand are in range. -/
def State.putCanCtl (s : State) (n : Nat) (v : Word) : Ans :=
  let old := s.rd (canA n 0)
  if (5 ≤ fld v 2 0 && fld v 2 0 != s.canMode n)
      || ((old ^^^ v) &&& 0x3F0 != 0 && ((bit v 7 && !bit v 8) || (bit v 8 && (bit v 4 || !bit v 5)))) then (.range, s)
  else if s.canMode n != 0 && (old ^^^ v) &&& 0x3F0 != 0 then (.conflict, s)
  else
    let s := s.wr (canA n 0) ((old &&& ~~~0x3F0) ||| (v &&& 0x3F0))
    let s := if bit v 31 then s.canCntRst n else s
    (.done, s.canSetMode n (fld v 2 0))

/-- CAN_RAM: the division is set, the FIFO and both queues are emptied and their frames counted (R364). -/
def State.putCanRam (s : State) (n : Nat) (v : Word) : Ans :=
  let kb := [fld v 5 0, fld v 13 8, fld v 21 16]
  if kb.any (fun k => k = 0 || 62 < k) || 64 < kb.foldl (· + ·) 0 then (.range, s)
  else if s.canMode n != 0 then (.conflict, s)
  else
    let i := s.can n
    let s := ((s.canAdd n 4 i.txf.length).canAdd n 2 i.q0.length).canAdd n 3 i.q1.length
    (.done, (s.plainWr (canA n 0x18) v).setCan n { i with txf := [], q0 := [], q1 := [] })

/-- A filter element's word; word 0 commits (R377). -/
def State.putFilter (s : State) (n e w : Nat) (v : Word) : Ans :=
  if w = 0 then
    if fld (s.rd (stageA (fltA n e 1))) 31 30 = 3 then (.range, s)
    else (.done, ((s.wr (fltA n e 0) (v &&& 0xDFFFFFFF)).wr (fltA n e 1) (s.rd (stageA (fltA n e 1)))).wr (fltA n e 2)
      (s.rd (stageA (fltA n e 2))))
  else if w = 1 then (.done, s.wr (stageA (fltA n e 1)) (v &&& 0xDFFFFFFF))
  else if w = 2 then (.done, s.wr (stageA (fltA n e 2)) (v &&& 0x1FF))
  else (.done, s)

/-- CAN_TXC; RECOVER acts on a bus-off controller (R382). -/
def State.putCanTxc (s : State) (n : Nat) (v : Word) : State :=
  let s := s.plainWr (canA n 0x1C) v
  if bit v 29 && s.canEst n = 2 then
    (s.wf (canA n 0x20) 31 28 0).setCan n { s.can n with recovering := true }
  else s

/-- A write to offset `o` of CANn's page, other than its ownership registers. -/
def State.putCan (s : State) (t : Tags) (n o : Nat) (v : Word) : Ans :=
  if 0x200 ≤ o && o < 0x600 then s.putTat t n ((o - 0x200) / 0x80) (o % 0x80) v
  else if !t.manager then s.deny t (canA n o)
  else if o = 0 then s.putCanCtl n v
  else if o = 4 || o = 8 || o = 0xC then
    if timingBad (o = 4) v then (.range, s)
    else if s.canMode n != 0 then (.conflict, s) else (.done, s.plainWr (canA n o) v)
  else if o = 0x10 then
    if s.canMode n != 0 then (.conflict, s) else (.done, s.plainWr (canA n o) v)
  else if o = 0x18 then s.putCanRam n v
  else if o = 0x1C then (.done, s.putCanTxc n v)
  else if o = 0x30 && fld v 1 0 = 3 then (.range, s)
  else if o = 0x34 && 4 ≤ fld v 2 0 then (.range, s)
  else if 0x800 ≤ o && o < 0xC00 then s.putFilter n ((o - 0x800) / 0x10) (o % 0x10 / 4) v
  else (.done, s.plainWr (canA n o) v)

/-- A party may read CANn's page: TID 0 with W = 1, or a holder of one of its ownership registers (R383). -/
def State.canMayRead (s : State) (t : Tags) (n : Nat) : Bool :=
  t.manager || [0x60, 0x64, 0x68, 0x200, 0x280, 0x300, 0x380, 0x400, 0x480, 0x500, 0x580].any fun o =>
    ownHeld (s.rd (canA n o)) && ownTags (s.rd (canA n o)) == t

/-- CAN_CTL.MODE, with CNT_RST written too or not, the other fields as they stand. -/
def execCanModeSet (a : Acc) (n : Can) (mode : Fin 8) (cntRst : Bool) (s : State) : Out :=
  s.cfgWrite a (canA n 0) (.canModeSet a n mode cntRst) fun t s =>
    s.putCan t n 0 (setFld (setBit (s.rd (canA n 0)) 31 cntRst) 2 0 mode)

/-- CAN_CTL.CNT_RST, the other fields as they stand. -/
def execCanCntRst (a : Acc) (n : Can) (s : State) : Out :=
  s.cfgWrite a (canA n 0) (.canCntRst a n) fun t s => s.putCan t n 0 (setBit (s.rd (canA n 0)) 31 true)

/-- CAN_CTL (r = 0), CAN_NBT, CAN_DBT, CAN_XBT or CAN_TDC (4). -/
def execCanConfigWrite (a : Acc) (n : Can) (r : Fin 5) (v : Word) (s : State) : Out :=
  s.cfgWrite a (canA n (r * 4)) (.canConfigWrite a n r v) fun t s => s.putCan t n (r * 4) v

/-- CAN_RAM. -/
def execCanRamWrite (a : Acc) (n : Can) (v : Word) (s : State) : Out :=
  s.cfgWrite a (canA n 0x18) (.canRamWrite a n v) fun t s => s.putCan t n 0x18 v

/-- CAN_TXC.RECOVER, the other fields as they stand. -/
def execCanRecover (a : Acc) (n : Can) (s : State) : Out :=
  s.cfgWrite a (canA n 0x1C) (.canRecover a n) fun t s => s.putCan t n 0x1C (setBit (s.rd (canA n 0x1C)) 29 true)

/-- CAN_TRX.TMODE. -/
def execCanTmodeWrite (a : Acc) (n : Can) (m : Fin 8) (s : State) : Out :=
  s.cfgWrite a (canA n 0x34) (.canTmodeWrite a n m) fun t s => s.putCan t n 0x34 (wd m)

/-- Word 0 of filter element `e`. -/
def execCanFilterCommit (a : Acc) (n : Can) (e : Fin 64) (v : Word) (s : State) : Out :=
  s.cfgWrite a (fltA n e 0) (.canFilterCommit a n e v) fun t s => s.putCan t n (0x800 + e * 0x10) v

/-- TAT_HDR of slot `k`. -/
def execTatCommit (a : Acc) (n : Can) (k : Fin 8) (v : Word) (s : State) : Out :=
  s.cfgWrite a (tatA n k 0x20) (.tatCommit a n k v) fun t s => s.putCan t n (0x220 + k * 0x80) v

/-- TAT_TIME, or TAT_PER, of slot `k`. -/
def execTatTimeWrite (a : Acc) (n : Can) (k : Fin 8) (per : Bool) (v : Word) (s : State) : Out :=
  s.cfgWrite a (tatA n k (8 + per.toNat * 4)) (.tatTimeWrite a n k per v) fun t s =>
    s.putCan t n (0x208 + per.toNat * 4 + k * 0x80) v

end Sys2Proof.Machine
end

