-- ==== Sys2Proof/Machine/Channels.lean ====
section
/-!
DEFINITION. The load channel commands: register writes of a channel, protections, undervoltage and stagger, retries,
reverse current, converters and measurement (R126–R182, R700, R701).
-/

namespace Sys2Proof.Machine

/-! ### Register writes -/

/-- CH_CTL.CLEAR: a TRIPPED or LOCKED channel goes to OFF with RETRY_CNT 0 (R128). -/
def execChClear (a : Acc) (c : Ch) (s : State) : Out :=
  s.farWrite a (c.val / 32) (chA c 0x0C) (.chClear a c) fun t s =>
    s.putCh t c 0x0C (setBit (s.rd (chA c 0x0C)) 8 true)

/-- CH_CTL.EN: the owner permit is given or withdrawn (R127). -/
def execChEn (a : Acc) (c : Ch) (en : Bool) (s : State) : Out :=
  s.farWrite a (c.val / 32) (chA c 0x0C) (.chEn a c en) fun t s =>
    s.putCh t c 0x0C (setBit (s.rd (chA c 0x0C)) 1 en)

/-- CH_CTL.SW_ON: the demand of the register source (R183). -/
def execChSwOn (a : Acc) (c : Ch) (on : Bool) (s : State) : Out :=
  s.farWrite a (c.val / 32) (chA c 0x0C) (.chSwOn a c on) fun t s =>
    s.putCh t c 0x0C (setBit (s.rd (chA c 0x0C)) 0 on)

/-- CH_CFG, with PAR_EN, PAR_MASTER and DUAL deferred (R166). -/
def execChCfgWrite (a : Acc) (c : Ch) (v : Word) (s : State) : Out :=
  s.farWrite a (c.val / 32) (chA c 0x10) (.chCfgWrite a c v) fun t s => s.putCh t c 0x10 v

/-! ### Drive inputs and turn-on -/

/-- A drive input changes level after deglitching: both power dies that are supplied see it (R80, R187), and every
channel that follows it settles. -/
def execDinEdge (k : Fin 16) (level : Bool) (s : State) : Out :=
  .next ([0, 1].foldl (fun s d =>
    if (s.die d).supplied then (s.wb (dieA d 0x108) k level).settleDie d else s)
    { s with dinLand := BitVec.ofNat 16 (setBit (wd s.dinLand.toNat) k level).toNat })

/-- A SOFT_ON output has reached VBAT_Px − 0.5 V with the gate fully enhanced: ON (R128); the blanking of R195 counts
from here. -/
def execSoftOnComplete (c : Ch) (s : State) : Out :=
  .next (if s.chState c = 2 then
    ((s.mates c).filter fun k => s.chState k = 2).foldl (fun s k =>
      (s.setChState k 3).setChI k { s.chI k with onAt := some s.ticks }) s
  else s)

/-- The causes among `l` whose latch is not yet set; a latch that stays set does nothing further (R701). -/
def State.freshCauses (s : State) (c : Nat) (l : List Nat) : List Nat :=
  l.filter fun k => (k == 3 && !s.rb (chA c 0x24) 9) || (k == 4 && !s.rb (chA c 0x24) 8)

/-- A soft turn-on has not reached ON within its limit: a trip with cause SOFT_TO (R133), together with a wire or thermal
trip of the same 100 ns (R156). -/
def execSoftTurnOnTimeout (c : Ch) (s : State) (also : List Nat := []) : Out :=
  .next (if s.chState c = 2 then s.tripCh c (s.freshCauses c also ++ [5]) else s)

/-- The inrush window expires; OC_TH applies from here (R134). -/
def execInrushWindowClose (c : Ch) (s : State) : Out := .next (s.wb (chA c 0x24) 10 false)

/-! ### Over-current -/

/-- The active threshold or the hard limit was exceeded for the filter time: INR inside the inrush window, OC outside
(R135, R136), together with any protection that trips in the same 100 ns (R156). -/
def execOcTrip (c : Ch) (also : List Nat) (s : State) : Out :=
  .next (if s.conducts c then
    s.tripCh c ((if s.rb (chA c 0x24) 10 then 2 else 1) :: also.filter fun k => 3 ≤ k && k ≤ 5)
  else s)

/-- The current reaches the hard limit: HARD_LIM and its event are set (R136). -/
def execHardLimitEntry (c : Ch) (s : State) : Out :=
  .next (if s.conducts c && !s.rb (chA c 0x24) 11 then (s.wb (chA c 0x24) 11 true).chEvt c 8 else s)

/-- The current falls below the hard limit before a trip. -/
def execHardLimitExit (c : Ch) (s : State) : Out := .next (s.wb (chA c 0x24) 11 false)

/-! ### Wire model -/

/-- WIRE_I in amperes: class steps of 1 A, 0.25 A and 25 mA. -/
def wireAmps (c wireI : Nat) : Rat := byClass c (wireI : Rat) ((wireI : Rat) / 4) ((wireI : Rat) / 40)

/-- The wire state of R138 moved by one interval of 100 µs at mean current `mA`, with τ = WIRE_TAU × 0.1 s. -/
def wireNext (theta : Rat) (tau : Nat) (mA : Int) : Rat :=
  let i : Rat := (mA : Rat) / 1000
  theta + (i * i - theta) / (1000 * (tau : Rat))

/-- θ ÷ WIRE_I² in units of 1/4096, saturating; 0 when WIRE_I is 0 (CH_WLOAD). -/
def wireLoad (c wireI : Nat) (theta : Rat) : Nat :=
  if wireI = 0 then 0
  else min 0xFFFF (theta / (wireAmps c wireI * wireAmps c wireI) * 4096).floor.toNat

/-- Every 100 µs, in every channel state: the wire state moves, the latch sets at WIRE_I² (a trip in SOFT_ON and ON) and
clears at half of it (R138–R140, R701), after which a waiting restart may take place. -/
def execWireModelUpdate (c : Ch) (mA : Int) (s : State) : Out :=
  let wi := s.rf (chA c 0x1C) 9 0
  let th := wireNext (s.chI c).theta (s.rf (chA c 0x1C) 27 16) mA
  let s1 := (s.setChI c { s.chI c with theta := th }).wr (chA c 0x38) (wd (wireLoad c wi th))
  let lim := wireAmps c wi * wireAmps c wi
  let latched := s.rb (chA c 0x24) 9
  .next (
    if wi = 0 then (s1.wb (chA c 0x24) 9 false).settle c
    else if !latched && lim ≤ th then (if s1.conducts c then s1.tripCh c [3] else s1.latchOnly c 3)
    else if latched && th ≤ lim / 2 then (s1.wb (chA c 0x24) 9 false).settle c
    else s1)

/-! ### Temperature -/

/-- T_WARN follows the junction: above 150 °C it and its event set, below 145 °C it clears (R141). -/
def execThermalWarn (c : Ch) (above : Bool) (s : State) : Out :=
  .next (if above then
      (if s.rb (chA c 0x24) 7 then s else (s.wb (chA c 0x24) 7 true).chEvt c 4)
    else s.wb (chA c 0x24) 7 false)

/-- The junction rises above T_SD: the thermal latch sets, which in SOFT_ON and ON is a trip (R142, R701), together with a
wire trip of the same 100 ns (R156). A latch that stays set reports nothing further. -/
def execThermalShutdown (c : Ch) (s : State) (also : List Nat := []) : Out :=
  let more := (s.freshCauses c also).filter (· == 3)
  .next (if s.rb (chA c 0x24) 8 then s
    else if s.conducts c then s.tripCh c (more ++ [4]) else (more ++ [4]).foldl (fun s k => s.latchOnly c k) s)

/-- The junction falls below T_SD − 15 K: the thermal latch clears and a waiting restart may take place (R142, R151). -/
def execThermalLatchClear (c : Ch) (s : State) : Out := .next ((s.wb (chA c 0x24) 8 false).settle c)

/-! ### Undervoltage and stagger -/

/-- VBAT_Px below UV_TH for 10 µs: undervoltage is signalled, conducting channels enter UV_OFF, a tasting ends with an
error and a running stagger stops (R129, R144, R149). -/
def execUvDetect (d : PDie) (s : State) : Out :=
  .next (if s.uv d then s else
    let s := (s.wb (dieA d 0) 0 true).setDie d { s.die d with stagger := false, slotRan := false, started := [] }
    let s := s.dieReport d 0x06
    let s := match (s.die d).probe with | some c => s.tasteDecide c 10 | none => s
    s.settleDie d)

/-- VBAT_Px at or above UV_TH + 0.5 V for 1 ms: undervoltage clears and the stagger starts (R145, R147). -/
def execUvClear (d : PDie) (s : State) : Out :=
  .next (if s.uv d then
    (s.wb (dieA d 0) 0 false).setDie d { s.die d with stagger := true, slotRan := false, started := [] } else s)

/-- A channel is eligible in the stagger: its start or restart conditions hold; a group counts through its master. -/
def State.eligible (s : State) (c : Nat) : Bool :=
  s.lead c == c &&
    match s.chState c with
    | 0 | 5 => s.startCond c
    | 4 => s.restartCond c
    | _ => false

/-- Order of the stagger: ascending UV_PRI, then channel number (R147). -/
def State.staggerOrder (s : State) (d : Nat) : List Nat :=
  ([0, 1, 2, 3].map fun p => (chansOf d).filter fun c => s.eligible c && s.rf (chA c 0x10) 9 8 == p).flatten

/-- The leading channels of the order that fit in a slot of `room`, a group taking as many places as it has members. -/
def State.slotTake (s : State) : List Nat → Nat → List Nat
  | [], _ => []
  | c :: r, room => if (s.mates c).length ≤ room then c :: s.slotTake r (room - (s.mates c).length) else []

/-- One channel starts in the stagger: a TRIPPED one by an automatic restart. -/
def State.staggerStart (s : State) (c : Nat) : State := if s.chState c = 4 then s.restart c else s.toSoftOn c

/-- A stagger slot begins: the stagger ends when the slot before it leaves no eligible channel waiting; otherwise at most 8
eligible channels start in order (R147, R148). -/
def execStaggerSlot (d : PDie) (s : State) : Out :=
  .next (if (s.die d).stagger && !s.uv d then
    if (s.die d).slotRan && (s.staggerOrder d).isEmpty then
      s.setDie d { s.die d with stagger := false, slotRan := false }
    else
      let l := s.slotTake (s.staggerOrder d) 8
      let s1 := l.foldl State.staggerStart s
      s1.setDie d { s1.die d with slotRan := true, started := (s1.die d).started ++ l }
  else s)

/-! ### Retries -/

/-- RETRY_DLY has elapsed since the protective turn-off: the channel restarts when every restart condition holds (R151). -/
def execRetryDelayExpiry (c : Ch) (s : State) : Out :=
  .next (if s.chState c = 4 then (s.setChI (s.lead c) { s.chI (s.lead c) with dlyDone := true }).settle c else s)

/-- RETRY_GOOD has passed since the last automatic restart without a protective turn-off: RETRY_CNT returns to 0 (R155). -/
def execRetryGoodExpiry (c : Ch) (s : State) : Out :=
  .next (if (s.chI c).goodRuns then (s.setRetryCnt c 0).setChI c { s.chI c with goodRuns := false } else s)

/-! ### Reverse current, reverse battery, groups -/

/-- Reverse current for 5 µs in a heavy or medium channel that is ON: the reverse-blocking half opens (R159). -/
def execReverseCurrentBlock (c : Ch) (s : State) : Out :=
  .next (if s.chState c = 3 && chClass c != 2 && !s.rb (chA c 0x24) 12 then
    (s.wb (chA c 0x24) 12 true).chEvt c 9 else s)

/-- VBAT_Px exceeds the output by 20 mV: forward conduction resumes (R159). -/
def execReverseBlockRelease (c : Ch) (s : State) : Out := .next (s.wb (chA c 0x24) 12 false)

/-- VBAT_Px more than 2 V below PGND_Px: REV_BAT is set; heavy and medium channels block and light channels are turned fully
on by the die's own pump while it lasts (R161, State.switchOn). -/
def execReverseBattery (d : PDie) (s : State) : Out :=
  .next (if (s.die d).reversed then s else
    ((s.wb (dieA d 0) 4 true).setDie d { s.die d with reversed := true }).dieReport d 0x0C)

/-- VBAT_Px back above PGND_Px − 2 V: the forcing ends. -/
def execReverseBatteryEnd (d : PDie) (s : State) : Out := .next (s.setDie d { s.die d with reversed := false })

/-- A member's current differs from its group's mean by more than 25 % for 100 ms while ON: a report (R165). -/
def execParShareFault (c : Ch) (s : State) : Out :=
  .next (if s.chState c = 3 && 1 < (s.mates c).length then s.chReport c 0x10 else s)

/-! ### Die supply -/

/-- An address in the window of power die `d`. -/
def inDie (d a : Nat) : Bool := dieBase d ≤ a && a < dieBase d + 0x1000000

/-- The die's registers, wire states and every other piece of its state at reset values (R139, R180). -/
def State.dieReset (s : State) (d : Nat) : State :=
  let s := s.linesOff d
  let s := s.resetRegs fun a => !inDie d a
  { s with chs := smKeep (fun c => c / 32 != d) s.chs, dies := smKeep (fun k => k != d) s.dies }

/-- A power die's control supply fails: its registers and wire states return to reset values and its link is silent (R180). -/
def execDieSupplyLoss (d : PDie) (s : State) : Out :=
  .next ((s.dieReset d).setLink d { s.link d with up := false })

/-- A power die's control supply comes up: reset values, in limp-home until adopted (R200). -/
def execDieSupplyStart (d : PDie) (s : State) : Out :=
  .next (if (s.die d).supplied then s else
    let s := s.dieReset d
    (((s.setDie d { s.die d with supplied := true }).wb (dieA d 0) 1 true).wf (dieA d 0x108) 15 0 s.dinLand.toNat).settleDie d)

/-! ### Converters -/

/-- The field of CONV_STAT that names the converter in a calibration slot: CAL_A or CAL_B. -/
def State.calSlot (s : State) (d : Nat) (slotB : Bool) : Nat :=
  if slotB then s.rf (dieA d 0xC) 13 8 else s.rf (dieA d 0xC) 5 0
def State.setCalSlot (s : State) (d : Nat) (slotB : Bool) (v : Nat) : State :=
  if slotB then s.wf (dieA d 0xC) 13 8 v else s.wf (dieA d 0xC) 5 0 v

/-- Every 47 ms a calibrated converter takes over the next channel of the rotation, whose next sample carries HANDOVER,
and the converter it relieves starts calibration in its slot (R169, R170). -/
def execConverterHandover (d : PDie) (s : State) : Out :=
  let di := s.die d
  .next (match di.calibrated with
    | none => s
    | some slotB =>
      let k := di.rotation
      let inc := s.calSlot d slotB
      let out := di.conv.getD k 0x3F
      let s := s.setCalSlot d slotB out
      let s := s.setDie d { di with conv := modAt (fun _ => inc) di.conv k, rotation := (k + 1) % 32, calibrated := none }
      s.setChI (d.val * 32 + k) { s.chI (d.val * 32 + k) with handover := true })

/-- A 94 ms calibration ends: the converter is ready to take over, or is retired with fault 0x8008; when a second one is
retired every sample is UNCAL from then on and fault 0x8009 is reported (R171). -/
def execCalibrationComplete (d : PDie) (slotB ok : Bool) (s : State) : Out :=
  let n := s.calSlot d slotB
  .next (if n = 0x3F then s
    else if ok then s.setDie d { s.die d with calibrated := some slotB }
    else
      let di := s.die d
      let last := !di.retired.isEmpty
      let s := (s.setCalSlot d slotB 0x3F).wf (dieA d 0xC) 17 16 (if last then 0 else 1)
      let s := s.setDie d { di with retired := di.retired ++ [n], uncal := di.uncal || last }
      let s := s.dieReport d 0x08
      if last then s.dieReport d 0x09 else s)

/-! ### Measurement -/

/-- Range of a sample kind in its own resolution (R172): current by class or low range, output voltage, junction
temperature, VBAT_Px. -/
def kindRange (lLow : Bool) (kind : Nat) : Int × Int :=
  if kind = 0 then (-32000, 32000) else if kind = 1 then (0, if lLow then 16000 else 65535)
  else if kind = 2 then (-15000, 22500) else if kind = 3 then (-800, 3200) else (0, 22500)

/-- A 16-bit two's-complement field. -/
def to16 (v : Int) : Nat := (v % 65536).toNat

/-- On-state diagnostics on one qualifying sample (R196, R199). -/
def State.onDiag (s : State) (c : Nat) (v : Int) : State :=
  let filt := s.rf (chA c 0x44) 11 0
  let ol : Int := s.rf (chA c 0x40) 15 0
  let pl : Int := s.rf (chA c 0x40) 31 16
  let i := s.chI c
  let isOl := v < ol
  let isPl := pl != 0 && ol ≤ v && v < pl
  let n := if isOl then satInc i.olCnt 4095 else 0
  let m := if isPl then satInc i.plCnt 4095 else 0
  let s := s.setChI c { i with olCnt := n, plCnt := m }
  let was := s.rd (chA c 0x4C)
  let setOl := isOl && filt ≤ n
  let setPl := isPl && filt ≤ m
  let s := s.wr (chA c 0x4C) (setBit (setBit was 0 (setOl || (isOl && bit was 0))) 1 (setPl || (isPl && bit was 1)))
  let s := if setOl && !bit was 0 then (s.dgEvt c 0).chReport c 0x40 else s
  if setPl && !bit was 1 then (s.dgEvt c 1).chReport c 0x41 else s

/-- The sample's window started at least BLANK × 10 µs after the entry to ON, and the channel is still ON (R195). The
stamp marks the centre of the 20 µs window; the entry lies back the ticks of 2 ns since, or further than any BLANK. -/
def State.qualifies (s : State) (c : Nat) (time : Word) : Bool :=
  s.rb (chA c 0x44) 24 && s.chState c == 3 &&
    match (s.chI c).onAt with
    | none => true
    | some t => decide ((s.rf (chA c 0x44) 23 16 * 10000 + 10000 : Int) ≤ (2 * (s.ticks - t) : Nat) - (s.now - time).toInt)

/-- A sample enters a measurement FIFO of 256: when it is full the newest is dropped and counted in OVF_CNT, and the
first drop after a reset of OVF_CNT is reported (R176, R194). -/
def State.fifoTake (s : State) (d : Nat) (x : Sample) : State :=
  let di := s.die d
  if di.fifo.length < 256 then s.setDie d { di with fifo := di.fifo ++ [x] }
  else
    let first := s.rf (dieA d 0x10) 23 16 == 0
    let s := s.bump (dieA d 0x10) 23 16
    if first then s.dieReport d 0x0E else s

/-- Microamperes in one step of a current sample: by class, or of the low range (R172). -/
def stepUA (c k : Nat) : Nat := if k = 1 then 4 else byClass c 5000 2000 500

/-- Typical on-resistance at 25 °C in µΩ; it rises by 1/125 of that per kelvin (R122). -/
def rTyp (c : Nat) : Nat := byClass c 1000 4000 20000

/-- Forward current in µA of a reading, and I² times the typical resistance at junction temperature `tj` (1/16 K) in
µA² × µΩ / 2000 (R122, R177). -/
def monOf (c k : Nat) (v tj : Int) : Nat × Nat :=
  let ua : Int := v * stepUA c k
  (ua.toNat, ua.natAbs * ua.natAbs * rTyp c * (1600 + tj).toNat)

/-- The latest junction temperature of a channel, in 1/16 K. -/
def State.tjOf (s : State) (c : Nat) : Int := sext (s.rf (chA c 0x34) 31 16) 16

/-- A current sample enters the die monitors' sums. -/
def State.monTake (s : State) (c k : Nat) (v : Int) : State :=
  let m := monOf c k v (s.tjOf c)
  let i := s.chI c
  s.setChI c { i with monN := i.monN + 1, monI := i.monI + m.1, monP := i.monP + m.2 }

/-- Mean forward current and dissipation of a channel since the last update; without a sample, those of the latest reading. -/
def State.monMean (s : State) (c : Nat) : Nat × Nat :=
  let i := s.chI c
  let w := s.rd (chA c 0x30)
  if i.monN = 0 then monOf c (fld w 16 16) (if bit w 16 then (fld w 15 0 : Int) else sext (fld w 15 0) 16) (s.tjOf c)
  else (i.monI / i.monN, i.monP / i.monN)

/-- A measurement window ends: the sample reaches the latest-value registers, the FIFO by its decimation, and the
on-state diagnostics (R172–R177, R195, R196). KIND 4 is the die's VBAT_Px, carried by its lowest channel. -/
def execMeasSample (c : Ch) (kind : Fin 5) (value : Int) (time : Word) (s : State) : Out :=
  let d := c.val / 32
  let lLow := s.rb (chA c 0x10) 17
  let current := kind.val = 0 || kind.val = 1
  let k := if current then (if lLow then 1 else 0) else kind.val
  let ch := if k = 4 then d * 32 else c.val
  let (v, ovr) := clampInt (kindRange lLow k).1 (kindRange lLow k).2 value
  let i := s.chI c
  let w0 := sampleWord (to16 v) ch k ovr (current && i.handover) (s.die d).uncal false
  let s1 :=
    if current then
      (s.wr (chA c 0x30) (wd (to16 v + k * 2 ^ 16 + ovr.toNat * 2 ^ 17))).setChI c { i with handover := false }
    else if k = 2 then s.wf (chA c 0x34) 15 0 (to16 v)
    else if k = 3 then s.wf (chA c 0x34) 31 16 (to16 v)
    else s
  let s2 :=
    if s1.rb (chA ch 0x10) 18 then
      let (take, seen) := decimate (s1.rf (dieA d 0x10) 9 0) (s1.die d).seen (ch * 8 + k)
      let s1 := s1.setDie d { s1.die d with seen := seen }
      if take then s1.fifoTake d ⟨w0, time⟩ else s1
    else s1
  let s3 := if current && s2.qualifies c time then s2.onDiag c v else s2
  let s4 := if current then s3.monTake c k v else s3
  .next (s4.measSend d ⟨w0, time⟩)

/-- A read of MEAS_POP_LO: the oldest sample is returned and removed, its second word kept in MEAS_POP_HI; an empty FIFO
returns KIND 7 and removes nothing (R176). Accepted from TID 0 with W = 1 alone (R179). -/
def State.popDie (s : State) (t : Tags) (d : Nat) : Status × Word × State :=
  if !t.manager then
    let r := s.deny t (dieA d 0x20000)
    (r.1, 0, r.2)
  else match (s.die d).fifo with
    | [] => (.done, emptySample, s)
    | x :: r => (.done, x.w0, (s.setDie d { s.die d with fifo := r }).wr (dieA d 0x20004) x.w1)

/-- MEAS_POP: the pop register of a power die is read. -/
def execMeasPop (a : Acc) (d : PDie) (s : State) : Out :=
  s.farRead a d (dieA d 0x20000) (.measPop a d) fun t s => s.popDie t d

/-- The write rule of MEAS_CFG: DEC at most 1000; OVF_RST clears OVF_CNT; a write of DEC restarts the sample selection
(R176, R179). -/
def State.putMeasCfg (s : State) (t : Tags) (d : Nat) (v : Word) : Ans :=
  if !t.manager then s.deny t (dieA d 0x10)
  else if 1000 < fld v 9 0 then (.range, s)
  else
    let s := s.plainWr (dieA d 0x10) v
    let s := if bit v 31 then s.wf (dieA d 0x10) 23 16 0 else s
    (.done, s.setDie d { s.die d with seen := [] })

/-- MEAS_CFG.OVF_RST sets OVF_CNT to 0 and leaves DEC and the sample selection as they stand, where a generic write of the
register restarts the selection: whether one that changes nothing but OVF_RST does is open (DESIGN CHOICE, log 134). -/
def execMeasOvfRst (a : Acc) (d : PDie) (s : State) : Out :=
  s.farWrite a d (dieA d 0x10) (.measOvfRst a d) fun t s =>
    if !t.manager then s.deny t (dieA d 0x10) else (.done, s.wf (dieA d 0x10) 23 16 0)

/-- MEAS_CFG.DEC sets the decimation and restarts the sample selection. -/
def execMeasDecSet (a : Acc) (d : PDie) (dec : BitVec 10) (s : State) : Out :=
  s.farWrite a d (dieA d 0x10) (.measDecSet a d dec) fun t s =>
    s.putMeasCfg t d (setBit (setFld (s.rd (dieA d 0x10)) 9 0 dec.toNat) 31 false)

/-- A tenth of a second ends, and I_SUM (10 mA, over the last ten), P_EST (1 mW, over this one) or both are updated; SUM_OVER
stands while I_SUM exceeds 100 A and P_OVER while P_EST exceeds 8 W, each reporting its fault when it sets (R177). -/
def execDieMonitorUpdate (d : PDie) (iSum pEst : Bool) (s : State) : Out :=
  let l := (chansOf d).map s.monMean
  let tenths := ((l.map (·.1)).sum :: (s.die d).iTenths).take 10
  let uA := tenths.sum / tenths.length
  let pW := (l.map (·.2)).sum
  let was := s.rd (dieA d 0)
  let mon := s.rd (dieA d 8)
  let sumOver := if iSum then decide (100000000 < uA) else bit was 2
  let pover := if pEst then decide (8000 * (2000 * 10 ^ 15) < pW) else bit was 3
  let s := (chansOf d).foldl (fun s c => s.setChI c { s.chI c with monN := 0, monI := 0, monP := 0 }) s
  let s := s.setDie d { s.die d with iTenths := tenths }
  let mon := if iSum then setFld mon 15 0 (min (uA / 10000) 65535) else mon
  let s := s.wr (dieA d 8) (if pEst then setFld mon 31 16 (min (pW / (2000 * 10 ^ 15)) 65535) else mon)
  let s := s.wr (dieA d 0) (setBit (setBit was 2 sumOver) 3 pover)
  let s := if sumOver && !bit was 2 then s.dieReport d 0x0A else s
  .next (if pover && !bit was 3 then s.dieReport d 0x0B else s)

end Sys2Proof.Machine
end

