-- ==== Sys2Proof/Machine/Drive.lean ====
section
/-!
DEFINITION. Drive sources and lines at the dies, sense inputs, load diagnostics, limp-home and load tasting
(R183–R219, R702).
-/

namespace Sys2Proof.Machine

/-- CH_DRV selects the channel's demand source (R184, R185). -/
def execChDrvWrite (a : Acc) (c : Ch) (v : Word) (s : State) : Out :=
  s.farWrite a (c.val / 32) (chA c 0x04) (.chDrvWrite a c v) fun t s => s.putCh t c 0x04 v

/-- CH_LIMP sets the limp policy; `elapsed` is the time since the die entered limp-home in 10 ms (R202). -/
def execChLimpWrite (a : Acc) (c : Ch) (v : Word) (elapsed : Nat) (s : State) : Out :=
  s.farWrite a (c.val / 32) (chA c 0x08) (.chLimpWrite a c v elapsed) fun t s => s.putCh t c 0x08 v elapsed

/-! ### Drive lines at the die -/

/-- The channel a drive line serves: FUNC 0x80 + n of its ownership register (R185). -/
def State.lineCh (s : State) (k : Nat) : Option Nat :=
  let f := s.rf (dlA k 0) 23 16
  if ownHeld (s.rd (dlA k 0)) && 0x80 ≤ f && f < 0xC0 then some (f - 0x80) else none

/-- The line takes a level at its die, and the channel that follows it settles. -/
def State.lineApply (s : State) (k : Nat) (level : Bool) : State :=
  let s := s.setLine k { s.line k with dieLevel := level }
  match s.lineCh k with
  | some c => s.settle c
  | none => s

/-- An edge whose instant lies in the past: LATE event, and fault 0x8046 once until LATE is cleared (R188). -/
def State.lineLate (s : State) (k : Nat) : State :=
  match s.lineCh k with
  | some c => if s.rb (chA c 0x50) 5 then s else (s.dgEvt c 5).chReport c 0x46
  | none => s

/-- A timed edge arrived less than 2 µs before its instant, or after it (R188, R250). -/
def edgeTooLate (at_ now : Word) : Bool := !future at_ now || decide ((at_ - now).toNat < 2000)

/-- A drive-line edge reaches the power die: an immediate one, or a timed one that arrives less than 2 µs before its
instant, is applied at once and leaves the queue, the latter counted in LATE_CNT; any other waits for its instant (R188,
R250). One that a later edge of the same instant follows in the queue has no effect. Nothing arrives over a silent link. -/
def execDriveEdgeReceive (ln : Line) (s : State) : Out :=
  let l := s.line ln
  let die := match s.lineCh ln with | some c => c / 32 | none => 0
  .next (if !(s.link die).up then s else
    match l.queue.findIdx? fun e => !e.arrived with
    | none => s
    | some i =>
      let e := l.queue.getD i ⟨0, false, false, false⟩
      let l := { l with timedOut := false }
      if (l.queue.drop (i + 1)).any fun f => f.at_ == e.at_ then s.setLine ln { l with queue := dropAt l.queue i }
      else if e.now || edgeTooLate e.at_ s.now then
        let s1 := (s.setLine ln { l with queue := dropAt l.queue i }).lineApply ln e.level
        if e.now then s1
        else
          let s1 := s1.bump (dlA ln 8) 15 8
          if future e.at_ s.now then s1 else s1.lineLate ln
      else s.setLine ln { l with queue := modAt (fun e => { e with arrived := true }) l.queue i })

/-- The die's time copy reaches the instant of the oldest queued edge: the edge changes the demand and frees its entry. An
edge followed by one of the same instant has no effect (R250). -/
def execDriveEdgeApply (ln : Line) (s : State) : Out :=
  .next (match (s.line ln).queue with
    | e :: r =>
      if !e.arrived || !reached e.at_ s.now then s
      else if r.any fun f => f.at_ == e.at_ then s.setLine ln { s.line ln with queue := r }
      else (s.setLine ln { s.line ln with queue := r }).lineApply ln e.level
    | [] => s)

/-- No edge for TMO ms: SAFE becomes the line's level, TMO_HIT is set and fault 0x4008 reported; a line whose level
already equals SAFE is unchanged, TMO = 0 disables the timeout, and the timer runs again with the next edge (R251). -/
def execDriveLineTimeout (ln : Line) (s : State) : Out :=
  let b := s.rd (dlA ln 4)
  let safe := bit b 24
  .next (if fld b 23 16 = 0 || (s.line ln).timedOut then s
    else
      let s1 := s.setLine ln { s.line ln with timedOut := true }
      if (s1.line ln).dieLevel == safe then s1
      else ((s1.lineApply ln safe).wb (dlA ln 8) 16 true).report 0x4008 ln)

/-! ### Sense inputs -/

/-- SIN_CFG: reserved MODE 3, CUR 0, PER 0 and PW outside 1–200 are out of range; setting MODE 2 or changing PW or PER
restarts the pulse series within 1 ms (R179, R192). -/
def State.putSinCfg (s : State) (t : Tags) (n : Nat) (v : Word) : Ans :=
  let old := s.rd (sinA n 4)
  if !s.mayWriteOwned t (sinA n 0) then s.deny t (sinA n 4)
  else if fld v 5 4 = 3 || fld v 2 0 = 0 || fld v 23 16 = 0 || fld v 15 8 = 0 || 200 < fld v 15 8 then (.range, s)
  else
    let again := fld v 5 4 = 2 && (fld old 5 4 != 2 || fld v 23 8 != fld old 23 8)
    let seen := if bit v 7 && !bit old 7 then smKeep (fun k => k != n) s.front.seen else s.front.seen
    let s := s.plainWr (sinA n 4) v
    (.done, { s.setSin n { s.sin n with restart := (s.sin n).restart || again } with front := { s.front with seen := seen } })

/-- SIN_THR: TH_HI must exceed TH_LO (R191). -/
def State.putSinThr (s : State) (t : Tags) (n : Nat) (v : Word) : Ans :=
  if !s.mayWriteOwned t (sinA n 0) then s.deny t (sinA n 8)
  else if fld v 15 8 ≤ fld v 7 0 then (.range, s)
  else (.done, s.plainWr (sinA n 8) v)

def execSinCfgWrite (a : Acc) (n : Fin 32) (v : Word) (s : State) : Out :=
  s.farWrite a 2 (sinA n 4) (.sinCfgWrite a n v) fun t s => s.putSinCfg t n v

/-- Debounce of one sample of `mv` millivolts (R191): the new state and the count of consecutive samples beyond the
threshold of the other state. Thresholds count in 125 mV. -/
def debounce (st : Bool) (cnt deb thHi thLo : Nat) (mv : Int) : Bool × Nat :=
  let beyond := if st then mv < (thLo * 125 : Int) else (thHi * 125 : Int) < mv
  if !beyond then (st, 0) else if deb ≤ cnt + 1 then (!st, 0) else (st, cnt + 1)

/-- The front die's sample enters its FIFO of 256 (R194). -/
def State.frontTake (s : State) (x : Sample) : State :=
  if s.front.fifo.length < 256 then { s with front := { s.front with fifo := s.front.fifo ++ [x] } }
  else
    let first := s.rf (frontBase + 0x2000) 23 16 == 0
    let s := s.bump (frontBase + 0x2000) 23 16
    if first then s.reportF 0xA006 0 else s

/-- A sense-input sample of `value` × 8 mV is taken: debounced, written to SIN_VAL and entered in the FIFO by its
decimation, and it sets out for the engines (R191–R194). -/
def execSinSample (n : Fin 32) (value : Int) (time : Word) (s : State) : Out :=
  let (v, ovr) := clampInt 0 4000 value
  let cfg := s.rd (sinA n 4)
  let thr := s.rd (sinA n 8)
  let (st, cnt) := debounce (s.rb (sinA n 0xC) 31) (s.sin n).cnt (fld cfg 31 24) (fld thr 15 8) (fld thr 7 0) (value * 8)
  let s := s.setSin n { cnt := cnt, restart := false }
  let s := s.wr (sinA n 0xC) (wd (to16 v + st.toNat * 2 ^ 31))
  let x : Sample := ⟨sampleWord (to16 v) n 5 ovr false false st, time⟩
  .next (if bit cfg 7 then
    let (take, seen) := decimate (s.rf (frontBase + 0x2000) 9 0) s.front.seen n
    let s := { s with front := { s.front with seen := seen } }
    (if take then s.frontTake x else s).measSend 2 x
  else s.measSend 2 x)

/-- A read of the front die's MEAS_POP_LO (R194). -/
def State.popFront (s : State) (t : Tags) : Status × Word × State :=
  if !t.manager then
    let r := s.deny t (frontBase + 0x20000)
    (r.1, 0, r.2)
  else match s.front.fifo with
    | [] => (.done, emptySample, s)
    | x :: r => (.done, x.w0, { s with front := { s.front with fifo := r } }.wr (frontBase + 0x20004) x.w1)

def execFmeasPop (a : Acc) (s : State) : Out :=
  s.farRead a 2 (frontBase + 0x20000) (.fmeasPop a) fun t s => s.popFront t

/-- The write rule of FMEAS_CFG (R194). -/
def State.putFmeasCfg (s : State) (t : Tags) (v : Word) : Ans :=
  if !t.manager then s.deny t (frontBase + 0x2000)
  else if 1000 < fld v 9 0 then (.range, s)
  else
    let s := s.plainWr (frontBase + 0x2000) v
    let s := if bit v 31 then s.wf (frontBase + 0x2000) 23 16 0 else s
    (.done, { s with front := { s.front with seen := [] } })

/-- FMEAS_CFG.OVF_RST sets OVF_CNT to 0. -/
def execFmeasOvfRst (a : Acc) (s : State) : Out :=
  s.farWrite a 2 (frontBase + 0x2000) (.fmeasOvfRst a) fun t s =>
    if !t.manager then s.deny t (frontBase + 0x2000) else (.done, s.wf (frontBase + 0x2000) 23 16 0)

/-! ### Off-state diagnostics (R197–R199) -/

/-- Status bit `b` of DG_STAT follows its count: it sets, with its event and fault, once the count reaches OFF_CNT, and
clears at the first evaluation that does not count toward it. -/
def State.offStatus (s : State) (c b fault n : Nat) : State :=
  let was := s.rb (chA c 0x4C) b
  let now := decide (0 < n) && (was || decide (s.rf (chA c 0x48) 19 16 ≤ n))
  let s := s.wb (chA c 0x4C) b now
  if now && !was then (s.dgEvt c b).chReport c fault else s

/-- The die's probe source serves one of its channels. -/
def State.probeBusy (s : State) (d : Nat) : Bool := (s.die d).probe.isSome

/-- An off-state evaluation falls due: in OFF, with the probe source free, the sink opens and the pull-up connects;
in TRIPPED, UV_OFF and LOCKED, and in OFF where the pull-up may not connect, SHORT_BAT is judged at once against
5.6 V and the OPEN_OFF count stays. -/
def execOffDiagEvalStart (c : Ch) (vout : Int) (s : State) : Out :=
  let st := s.chState c
  .next (if !s.rb (chA c 0x48) 0 then s
    else if st = 0 && !s.probeBusy (c.val / 32) then s.setChI c { s.chI c with pullUp := true, sink := false }
    else if st = 0 || st = 4 || st = 5 || st = 6 then
      let n := if 2800 < vout then satInc (s.chI c).shortCnt 15 else 0
      (s.setChI c { s.chI c with shortCnt := n }).offStatus c 3 0x43 n
    else s)

/-- 500 µs after the pull-up connected, VOUT decides: above 5.6 V SHORT_BAT, above 3.5 V OPEN_OFF, else load present. Outside
OFF, or with OFF_EN cleared meanwhile, the pull-up is gone and nothing is judged. -/
def execOffDiagEvalCompare (c : Ch) (vout : Int) (s : State) : Out :=
  let i := s.chI c
  .next (if !i.pullUp then s
    else if s.chState c != 0 || !s.rb (chA c 0x48) 0 then s.setChI c { i with pullUp := false, sink := true }
    else
    let sh := if 2800 < vout then satInc i.shortCnt 15 else 0
    let op := if 1750 < vout && vout ≤ 2800 then satInc i.openCnt 15 else 0
    let s := s.setChI c { i with shortCnt := sh, openCnt := op, pullUp := false, sink := true }
    (s.offStatus c 3 0x43 sh).offStatus c 2 0x42 op)

/-! ### Limp-home -/

/-- The hold window of channel `c` has expired at `elapsed` × 10 ms after the entry (R202). -/
def State.holdExpires (s : State) (c elapsed : Nat) : Bool :=
  let v := s.rd (chA c 0x08)
  fld v 1 0 == 1 && fld v 28 16 != 0 && decide (fld v 28 16 ≤ elapsed) && !(s.chI c).holdOver

/-- Every HOLD channel of the die whose window has expired takes demand off, and the die reports it once (R202). -/
def execHoldWindowExpiry (d : PDie) (elapsed : Nat) (s : State) : Out :=
  let l := (chansOf d).filter fun c => s.holdExpires c elapsed
  .next (if !s.limp d || l.isEmpty then s else
    let s1 := l.foldl (fun s c => s.setChI c { s.chI c with holdOver := true }) s
    (s1.holdReport d).settleDie d)

/-- The write rule of LIMP_CTL: ADOPT in limp-home switches every channel from its limp demand to its drive-source demand
on one clock edge and ends limp-home; outside it is ignored (R205, R206). -/
def State.putLimpCtl (s : State) (t : Tags) (d : Nat) (v : Word) : Ans :=
  if !t.manager then s.deny t (dieA d 0x100)
  else if bit v 0 && s.limp d && !(s.die d).loadFailed then
    let s := s.wb (dieA d 0) 1 false
    let s := (chansOf d).foldl (fun s c => s.setChI c { s.chI c with held := false, holdOver := false }) s
    (.done, s.settleDie d)
  else (.done, s)

def execLimpAdopt (a : Acc) (d : PDie) (s : State) : Out :=
  s.farWrite a d (dieA d 0x100) (.limpAdopt a d) fun t s => s.putLimpCtl t d 1

/-! ### Load tasting (R208–R218) -/

/-- TS_CTL.GO queues the channel, with its other fields as they stand. -/
def execTasteGo (a : Acc) (c : Ch) (s : State) : Out :=
  s.farWrite a (c.val / 32) (chA c 0x60) (.tasteGo a c) fun t s =>
    s.putCh t c 0x60 (setFld (s.rd (chA c 0x60)) 1 0 1)

/-- TS_CTL.ABORT ends a queued or running tasting. -/
def execTasteAbort (a : Acc) (c : Ch) (s : State) : Out :=
  s.farWrite a (c.val / 32) (chA c 0x60) (.tasteAbort a c) fun t s =>
    s.putCh t c 0x60 (setFld (s.rd (chA c 0x60)) 1 0 2)

/-- The probe source takes the next queued channel, which enters TASTE, and no pull-up of the die stays connected (R198); the
queue waits while undervoltage is signalled. -/
def execTasteStart (d : PDie) (s : State) : Out :=
  let di := s.die d
  .next (if s.uv d || di.probe.isSome then s else
    match di.tasteQ with
    | [] => s
    | c :: r =>
      if s.chState c != 0 then s else
      let s := (chansOf d).foldl (fun s k =>
        if (s.chI k).pullUp then s.setChI k { s.chI k with pullUp := false, sink := true } else s) s
      let s := (s.wr (chA c 0x64) 1).setChState c 1
      let s := s.setChI c { s.chI c with prevGood := none }
      s.setDie d { di with tasteQ := r, probe := some c, tasteOver := false, delimiter := false })

/-- Act on the running tasting of a die, unless it has already been decided. -/
def State.onTaste (s : State) (d : Nat) (f : Nat → State) : State :=
  match (s.die d).probe with
  | some c => if (s.die d).tasteOver then s else f c
  | none => s

/-- 1 ms after probe-on: VOUT below 4.5 V ends with LOW_Z, above 5.5 V with EXT_V (in 2 mV). -/
def execTasteVoutCheck (d : PDie) (vout : Int) (s : State) : Out :=
  .next (s.onTaste d fun c => if vout < 2250 then s.tasteDecide c 5 else if 2750 < vout then s.tasteDecide c 6 else s)

/-- VOUT outside the probe range for 200 µs: EXT_V above it, LOW_Z below. -/
def execTasteVoutFault (d : PDie) (high : Bool) (s : State) : Out :=
  .next (s.onTaste d fun c => s.tasteDecide c (if high then 6 else 5))

/-- No start delimiter 12 ms after probe-on: NO_ANSWER. A tag that falls silent after a delimiter, with fewer than TRIES frames
decoded, has no result in R215: the tasting goes on until it is aborted (DESIGN CHOICE, log 133). -/
def execTasteNoAnswer (d : PDie) (s : State) : Out :=
  .next (s.onTaste d fun c => if (s.die d).delimiter then s else s.tasteDecide c 7)

/-- The receiver aligns on a start delimiter (R212). -/
def execTasteDelimiterSeen (d : PDie) (s : State) : Out :=
  .next (s.onTaste d fun _ => s.setDie d { s.die d with delimiter := true })

/-- One bit and one byte of the CRC-8 of R210. -/
def crc8Bit (c : Nat) : Nat := if 128 ≤ c % 256 then (2 * c ^^^ 0x2F) % 256 else 2 * c % 256
def crc8Byte (c : Nat) (b : Byte) : Nat :=
  crc8Bit (crc8Bit (crc8Bit (crc8Bit (crc8Bit (crc8Bit (crc8Bit (crc8Bit (c ^^^ b.toNat))))))))
/-- CRC-8: polynomial 0x2F, initial value and final XOR 0xFF, no reflection (R210). -/
def crc8 (l : List Byte) : Nat := l.foldl crc8Byte 0xFF ^^^ 0xFF

/-- The frame's CRC, over its identity and load type, most significant byte first. -/
def tagCrc (f : TagFrame) : Nat := crc8 (beBytes 8 f.id.toNat ++ beBytes 2 f.typ.toNat)

/-- The result the deciding frame gives (R216): READ, MATCH or MISMATCH. -/
def State.tasteMatch (s : State) (c : Nat) (f : TagFrame) : Nat :=
  let mode := s.rf (chA c 0x60) 3 2
  let e := s.rd (chA c 0x7C)
  let typeOk := (f.typ.toNat ^^^ fld e 15 0) &&& fld e 31 16 == 0
  let idOk := f.id.toNat == (s.rd (chA c 0x74)).toNat + (s.rd (chA c 0x78)).toNat * 2 ^ 32
  if mode = 0 then 2 else if mode = 1 then (if typeOk then 3 else 4) else (if typeOk && idOk then 3 else 4)

/-- A good frame decides the tasting: it is kept in TS_ID, TS_TYPE and CRC_RX with VALID. -/
def State.tasteKeep (s : State) (c : Nat) (f : TagFrame) : State :=
  let s := s.wr (chA c 0x68) (wd f.id.toNat)
  let s := s.wr (chA c 0x6C) (wd (f.id.toNat >>> 32))
  let s := s.wr (chA c 0x70) (wd f.typ.toNat)
  let s := s.wr (chA c 0x64) (setBit (setFld (s.rd (chA c 0x64)) 23 16 f.crc.toNat) 5 true)
  s.tasteDecide c (s.tasteMatch c f)

/-- A tag frame is decoded (R212, R216): good and failed frames count toward TRIES; the first good frame decides, or with
TWICE two equal consecutive good ones; frames used up without an outcome end with CRC. -/
def execTasteFrame (d : PDie) (f : TagFrame) (s : State) : Out :=
  .next (s.onTaste d fun c =>
    if !(s.die d).delimiter then s else
    let s := s.bump (chA c 0x64) 15 8
    let last := s.rf (chA c 0x60) 9 8 + 1 ≤ s.rf (chA c 0x64) 15 8
    let good := f.runsOk && tagCrc f == f.crc.toNat
    let giveUp (s : State) : State := if last then s.tasteDecide c 8 else s
    if !good then giveUp (s.setChI c { s.chI c with prevGood := none })
    else if !s.rb (chA c 0x60) 5 then s.tasteKeep c f
    else match (s.chI c).prevGood with
      | none => giveUp (s.setChI c { s.chI c with prevGood := some (f.id, f.typ) })
      | some p => if p = (f.id, f.typ) then s.tasteKeep c f else s.tasteDecide c 9)

/-- The end of a tasting (R215 step 6, R217, R218): GATE withdraws the owner permit on a result other than MATCH, the
result's fault is reported, TASTE_DONE is set, the probe is free, and the channel returns to OFF. -/
def execTasteEnd (d : PDie) (s : State) : Out :=
  let di := s.die d
  .next (match di.probe with
    | none => s
    | some c =>
      if !di.tasteOver then s else
      let r := s.rf (chA c 0x64) 3 0
      let s := if s.rb (chA c 0x60) 4 && s.rf (chA c 0x60) 3 2 != 0 && r != 3 then s.wb (chA c 0x0C) 1 false else s
      let s := s.dgEvt c 7
      let s := if r = 4 then s.chReport c 0x50 else if 5 ≤ r && r ≤ 9 then s.chReport c 0x51 else s
      (((s.setDie d { di with probe := none, tasteOver := false }).toOff [c]).settle1 c).regroup s d)

end Sys2Proof.Machine
end

