-- ==== Sys2Proof/Machine/TimeBase.lean ====
section
/-!
DEFINITION. The time base: counting, rate and step corrections, transmit time-stamp records and event units (R463–R481).
-/

namespace Sys2Proof.Machine

/-- Register `off` of TBU, of port `p`'s stamp block, of event unit `k`. -/
def tbA (off : Nat) : Nat := tbuBase + off
def tsA (p off : Nat) : Nat := tbA (0x100 + p * 0x10 + off)
def evA (k off : Nat) : Nat := tbA (0x200 + k * 0x20 + off)
/-- Ownership register of land TB_EVTk. -/
def evLandA (k : Nat) : Nat := icuBase + 0x140 + k * 4

/-! ### Counting (R463, R464, R470) -/

/-- TUN_EPOCH moves by one, and WRAP is set. -/
def State.epochMove (s : State) (up : Bool) : State :=
  let e := s.rd (clA 0x24)
  (s.wr (clA 0x24) (if up then e + 1 else e - 1)).wb (tbA 0x14) 0 true

/-- An input of WK_SIN.HOLD stands at its wake level (R415). -/
def State.awakeHeld (s : State) : Bool :=
  (List.range 8).any fun k => s.rb (frontBase + 0x28) (16 + k) && s.sinAtWake k (s.rb (sinA k 0xC) 31)

/-- Ticks of the awake timer's full value. -/
def FrontInt.awakeFull (f : FrontInt) : Nat := f.awakeMax * 500000000

/-- `n` ticks pass on the front die: the awake timer counts down, or is held at its full value (R415), and a pulse on
PAIR_HBO runs on. -/
def State.frontTicks (s : State) (n : Nat) : State :=
  let f := s.front
  { s with front := { f with
      hboLeft := f.hboLeft - n
      awakeLeft := if !f.awakeRuns then f.awakeLeft else if s.awakeHeld then f.awakeFull else f.awakeLeft - n } }

/-- AW_REM: the seconds left on the awake timer. -/
def State.awakeRem (s : State) : Word := wd ((s.front.awakeLeft + 499999999) / 500000000)

/-- `n` ticks of the TB clock, with the passage through 0 when the accumulator makes one. -/
def State.ticksOn (s : State) (n : Nat) : State :=
  let acc := s.tb.acc + n * (s.rd (tbA 8)).toNat
  let s := s.frontTicks n
  let s1 := { s with tb := { s.tb with acc := acc % 2 ^ 60 }, ticks := s.ticks + n }
  if 2 ^ 60 ≤ acc then s1.epochMove true else s1

/-- The time base runs on to the tick in which it passes 0. -/
def execTbWrap (s : State) : Out :=
  let inc := (s.rd (tbA 8)).toNat
  .next (if s.logicOn && inc != 0 then s.ticksOn ((2 ^ 60 - s.tb.acc + inc - 1) / inc) else s)

/-! ### Event units (R477–R480) -/

def State.ev (s : State) (k : Nat) : EvInt := smGet (fun _ => {}) s.evs k
def State.setEv (s : State) (k : Nat) (v : EvInt) : State := { s with evs := smSet (fun _ => {}) s.evs k v }
def State.evEn (s : State) (k : Nat) : Bool := s.rb (evA k 4) 31
def State.evOut (s : State) (k : Nat) : Bool := s.evEn k && s.rb (evA k 4) 0
def State.evPer (s : State) (k : Nat) : Nat := (s.rd (evA k 0xC)).toNat
/-- The rising instant of pulse `n` of the series; bit 0 is ignored. -/
def State.evRise (s : State) (k n : Nat) : Word := onGrid (s.rd (evA k 8) + wd (n * s.evPer k))
/-- The falling instant of pulse `n`. -/
def State.evFall (s : State) (k n : Nat) : Word := onGrid (s.rd (evA k 8) + wd (n * s.evPer k) + s.rd (evA k 0x10))

/-- `n` pulses are missed. -/
def State.evMissed (s : State) (k n : Nat) : State :=
  if n = 0 then s
  else (s.wf (evA k 0x1C) 23 16 (min 255 (s.rf (evA k 0x1C) 23 16 + n))).report 0x6081 k

/-- The series of an output unit starts anew: its first pulse is the first whose rising instant lies in the future; a single
pulse whose instant has passed is missed, and the unit disables itself (R480). -/
def State.evRestart (s : State) (k : Nat) : State :=
  let per := s.evPer k
  if !s.evOut k then s.setEv k {}
  else if future (s.evRise k 0) s.now then s.setEv k {}
  else if per = 0 then (((s.wb (evA k 4) 31 false).setEv k {}).evMissed k 1)
  else s.setEv k { k := (s.now - s.rd (evA k 8)).toNat / per + 1 }

/-- The level the series gives at the present time: the last pulse has risen and not yet fallen. -/
def State.evLevel (s : State) (k n : Nat) : Bool :=
  n != 0 && decide ((s.now - s.evRise k (n - 1)).toNat < (s.rd (evA k 0x10)).toNat)

/-- A step of the time base has carried the time from `before` by `d` nanoseconds (R480). -/
def State.evStep (s : State) (before : Word) (d : Int) (k : Nat) : State :=
  let i := s.ev k
  let per := s.evPer k
  if !s.evOut k then s
  else if 0 ≤ d then
    let ahead := (s.evRise k i.k - before).toNat
    let n := if (per = 0 && i.k != 0) || d.toNat < ahead then 0 else if per = 0 then 1 else (d.toNat - ahead) / per + 1
    let s := s.evMissed k n
    s.setEv k { k := i.k + n, level := s.evLevel k (i.k + n) }
  else if i.k = 0 then s
  else
    let since := (before - s.evRise k (i.k - 1)).toNat
    let n := if (-d).toNat ≤ since then 0 else if per = 0 then 1 else ((-d).toNat - since + per - 1) / per
    s.setEv k { k := i.k - n, level := s.evLevel k (i.k - n) }

/-- An edge of the series of unit `k` is reached: the land goes high or low. -/
def execEvtOutputEdge (k : Fin 4) (s : State) : Out :=
  let i := s.ev k
  .next (if !s.logicOn || !s.evOut k then s
    else if i.level then
      (if reached (s.evFall k (i.k - 1)) s.now then s.setEv k { i with level := false } else s)
    else if s.evPer k = 0 && i.k != 0 then s
    else if reached (s.evRise k i.k) s.now then s.setEv k { level := true, k := i.k + 1 } else s)

/-- An input edge at land TB_EVTk: rising or falling, `sub` its fraction in 62.5 ps (R471, R478). -/
def execEvtCaptureEdge (k : Fin 4) (rising : Bool) (sub : BitVec 4) (s : State) : Out :=
  let c := s.rd (evA k 4)
  let want := fld c 29 28
  .next (if !s.logicOn || !bit c 31 || bit c 0 || (want = 0 && !rising) || (want = 1 && rising) then s
    else
      let s := (s.wr (evA k 0x14) s.now).wr (evA k 0x18) (wd sub.toNat)
      let s := s.wf (evA k 0x1C) 15 0 (s.rf (evA k 0x1C) 15 0 + 1)
      if !bit c 30 then s
      else
        let item := leBytes 4 s.now.toNat ++ [BitVec.ofNat 8 sub.toNat, BitVec.ofNat 8 k.val, BitVec.ofNat 8 rising.toNat]
          ++ List.replicate 9 0
        let lost (s : State) := (s.bump (evA k 0x1C) 23 16).report 0x6082 k
        s.hwPut (fld c 9 1) item id lost lost)

/-- A write of EV_CFG, EV_START, EV_PER or EV_WIDTH (R477, R479, R480). -/
def State.putEv (s : State) (t : Tags) (k r : Nat) (v : Word) : Ans :=
  let own := s.rd (evA k 0)
  let land := s.rd (evLandA k)
  let wid := if r = 0x10 then v.toNat else (s.rd (evA k 0x10)).toNat
  let per := if r = 0xC then v.toNat else s.evPer k
  let widBad := wid < 4 || (per != 0 && per < wid + 4)
  if !s.mayWriteOwned t (evA k 0) then s.deny t (evA k r)
  else if r = 4 then
    if fld v 29 28 = 3 || (bit v 31 && bit v 0 && widBad) then (.range, s)
    else if bit v 30 && s.ckItem (fld v 9 1) != 16 then (.length, s)
    else if bit v 30 && !s.ckProdIs (fld v 9 1) 5 then (.conflict, s)
    else if bit v 31 && (!ownHeld own || !ownHeld land || fld land 23 16 != 1 || ownTags land != ownTags own
        || fld own 23 16 != (if bit v 0 then 2 else 1)) then (.conflict, s)
    else (.done, ((s.plainWr (evA k 4) v).wf (evA k 0x1C) 23 16 0).evRestart k)
  else if (r = 0x10 && widBad) || (r = 0xC && wid != 0 && widBad) then (.range, s)
  else if r = 8 || r = 0xC || r = 0x10 then
    let s := s.plainWr (evA k r) v
    (.done, if s.evOut k then s.evRestart k else s)
  else (.done, s)

/-- EV_CFG (r = 0), EV_START (1), EV_PER (2) or EV_WIDTH (3). -/
def execEvtConfigWrite (a : Acc) (k : Fin 4) (r : Fin 4) (v : Word) (s : State) : Out :=
  s.cfgWrite a (evA k (4 + r * 4)) (.evtConfigWrite a k r v) fun t s => s.putEv t k (4 + r * 4) v

/-- EV_OWN is released: the unit is disabled. -/
def State.evRelease (s : State) (k : Nat) : State := (s.wb (evA k 4) 31 false).setEv k {}

/-! ### Corrections (R465, R466) -/

/-- Decant schedules whose instants a step has passed over resume at their first future instant; nothing is fired (R325). -/
def State.dsStep (s : State) (k : Nat) : State :=
  match (s.ds k).next with
  | some t => if s.dsMode k = 1 && reached t s.now
    then s.setDs k { s.ds k with next := some (seriesNext t s.now (s.dsGap k)) } else s
  | none => s

/-- Instances of a transmit-at-time slot that a step has passed over count as MISSED (R374). -/
def State.tatStep (s : State) (n k : Nat) : State :=
  match (s.tat n k).next with
  | some t =>
    if reached t s.now then
      let per := (s.rd (tatA n k 0xC)).toNat * 1000
      let cyclic := s.rb (tatA n k 4) 30 && per != 0
      let missed := if cyclic then (s.now - t).toNat / per + 1 else 1
      let s := s.setTat n k { s.tat n k with next := if cyclic then some (t + wd (missed * per)) else none }
      let s := s.wf (tatA n k 0x10) 15 8 (min 255 (s.rf (tatA n k 0x10) 15 8 + missed))
      (s.canEvt n 8).report 0x5008 n
    else s
  | none => s

/-- Edges of line `k` that a step has passed over are applied at once and counted LATE (R188); `n` bounds their number. -/
def State.lineStep (s : State) (before : Word) (k : Nat) : Nat → State
  | 0 => s
  | n + 1 => match (s.line k).queue with
    | e :: r =>
      if e.arrived && future e.at_ before && reached e.at_ s.now then
        let s := s.setLine k { s.line k with queue := r }
        (if r.any fun f => f.at_ == e.at_ then s
          else ((s.lineApply k e.level).bump (dlA k 8) 15 8).lineLate k).lineStep before k n
      else s
    | [] => s

/-- The time base takes a step of `v`: the time, TUN_EPOCH, and every user that waits for an instant but the gate lists (R466,
R467, R470). -/
def State.stepTime (s : State) (v : Word) : State :=
  let before := s.now
  let at_ : Int := before.toNat + v.toInt
  let s := { s with tb := { acc := ((at_ % 2 ^ 32).toNat * 2 ^ 28 + s.tb.acc % 2 ^ 28), step := none } }
  let s := (s.wb (tbA 0x10) 0 false).wb (tbA 0x14) 1 true
  let s := if at_ < 0 then s.epochMove false else if 2 ^ 32 ≤ at_ then s.epochMove true else s
  let s := s.clr.ds.foldl (fun s p => s.dsStep p.1) s
  let s := s.cans.foldl (fun s p => p.2.tat.foldl (fun s q => s.tatStep p.1 q.1) s) s
  let s := s.lines.foldl (fun s p => s.lineStep before p.1 p.2.queue.length) s
  (List.range 4).foldl (fun s k => s.evStep before v.toInt k) s

/-- A copy of the time base exceeds its bound: `copy` is its row in the table of R467, from 0. -/
def execTbCopyResync (copy : Fin 7) (s : State) : Out :=
  .next (if s.logicOn then s.report 0x6083 copy else s)

/-! ### Transmit records (R474–R476) -/

/-- A transmit record of port `p` is dropped: counted, and reported at most once per second. -/
def State.tsLost (s : State) (p : Nat) : State :=
  let s := (s.bump (tsA p 0xC) 15 8).wb (tbA 0x14) 2 true
  let x := s.port p
  if x.txtsSaid != 0 && s.ticks + 1 < x.txtsSaid + 500000000 then s
  else (s.setPort p { x with txtsSaid := s.ticks + 1 }).report 0x6080 p

/-- A transmit record of port `p` waits in the queue of 16, or is dropped. -/
def State.tsWait (s : State) (p : Nat) (r : List Byte) : State :=
  let x := s.port p
  if x.txts.length < 16 then s.setPort p { x with txts := x.txts ++ [r] } else s.tsLost p

/-- A transmit record of port `p` enters its Cask, behind those that wait. -/
def State.tsRecord (s : State) (p : Nat) (r : List Byte) : State :=
  if (s.port p).txts.isEmpty then s.hwPut (s.rf (tsA p 0) 8 0) r id (·.tsLost p) (·.tsWait p r) else s.tsWait p r

/-- Room appears in the record Cask of port `p`. -/
def execTxtsRecordDrain (p : Fin 15) (s : State) : Out :=
  let x := s.port p
  .next (match x.txts with
    | [] => s
    | r :: rest =>
      let next (s : State) := s.setPort p { s.port p with txts := rest }
      if !s.logicOn then s else s.hwPut (s.rf (tsA p 0) 8 0) r next (fun s => (next s).tsLost p) id)

/-! ### The TBU page -/

/-- A write to offset `o` of the TBU page (R465, R466, R475). -/
def State.putTbu (s : State) (t : Tags) (o : Nat) (v : Word) : Ans :=
  if 0x200 ≤ o && o < 0x280 then s.putEv t ((o - 0x200) / 0x20) (o % 0x20) v
  else if !t.manager then s.deny t (tbA o)
  else if o = 8 && (v.toNat < 0x1FF00000 || 0x20100000 < v.toNat) then (.range, s)
  else if o = 0xC then
    if s.tb.step.isSome then (.conflict, s)
    else (.done, { s.wb (tbA 0x10) 0 true with tb := { s.tb with step := some v } })
  else if 0x100 ≤ o && o < 0x1F0 && o % 0x10 = 0 then
    if bit v 31 && s.ckItem (fld v 8 0) != 16 then (.length, s)
    else if bit v 31 && !s.ckProdIs (fld v 8 0) 5 then (.conflict, s)
    else (.done, (s.plainWr (tbA o) v).wf (tbA (o + 0xC)) 15 8 0)
  else (.done, s.plainWr (tbA o) v)

/-- TB_INC. -/
def execTbIncWrite (a : Acc) (v : Word) (s : State) : Out :=
  s.cfgWrite a (tbA 8) (.tbIncWrite a v) fun t s => s.putTbu t 8 v

/-- TB_STEP. -/
def execTbStepWrite (a : Acc) (v : Word) (s : State) : Out :=
  s.cfgWrite a (tbA 0xC) (.tbStepWrite a v) fun t s => s.putTbu t 0xC v

end Sys2Proof.Machine
end

