-- ==== Sys2Proof/Machine/EswOps.lean ====
section
/-!
DEFINITION. The switch: frames as they are read and sent, tables, streams, meters, sequence recovery, scheduled traffic and
shaping (R419–R452).
-/

namespace Sys2Proof.Machine

def esA (off : Nat) : Nat := eswBase + off
/-- Table addresses: database entry `e`, VLAN, stream, meter, recovery function, generator, host class, gate entry. -/
def fdbA (e : Nat) : Nat := swtBase + e * 16
def vlanA (v : Nat) : Nat := swtBase + 0x20000 + v * 8
def strA (h : Nat) : Nat := swtBase + 0x30000 + h * 16
def mtrA (m : Nat) : Nat := swtBase + 0x34000 + m * 16
def recvA (r : Nat) : Nat := swtBase + 0x35000 + r * 16
def genA (g : Nat) : Nat := swtBase + 0x36000 + g * 4
def hcA (e : Nat) : Nat := swtBase + 0x37000 + e * 8
def gateA (p bank e : Nat) : Nat := swtBase + 0x50000 + p * 0x1000 + bank * 0x800 + e * 8

/-- The SW island runs. -/
def State.swOn (s : State) : Bool := s.logicOn && s.accepts 5
/-- The port's link is up; P15 is always up. -/
def State.linkUp (s : State) (p : Nat) : Bool := p = 15 || s.rb (portA p 8) 31
/-- MAX_FRAME of a port. -/
def State.maxFrame (s : State) (p : Nat) : Nat := s.rf (portA p 0) 13 0

/-! ### Frames -/

/-- The EtherType and what follows it, after any VLAN tags (at most four). -/
def afterTags : Nat → List Byte → List Byte
  | 0, b => b
  | n + 1, b => if beNat (b.take 2) = 0x8100 || beNat (b.take 2) = 0x88A8 then afterTags n (b.drop 4) else b
def EFrame.ether (f : EFrame) : Nat := beNat ((afterTags 4 f.rest).take 2)

/-- DEI set in every tag. -/
def setDei : Nat → List Byte → List Byte
  | 0, b => b
  | n + 1, b =>
    if beNat (b.take 2) = 0x8100 || beNat (b.take 2) = 0x88A8
    then b.take 2 ++ [byteAt b 2 ||| 0x10, byteAt b 3] ++ setDei n (b.drop 4) else b

/-- A frame that enters at port `p`, with its form: 0 untagged, 1 priority-tagged, 2 VLAN-tagged (R427). -/
def State.parse (s : State) (p : Nat) (b : List Byte) (time : Word) (sub : Nat) : EFrame × Nat :=
  let tagged := beNat (slice b 12 2) = 0x8100 && 16 ≤ b.length
  let tci := beNat (slice b 14 2)
  let v := s.rd (portA p 4)
  let form := if !tagged then 0 else if tci % 4096 = 0 then 1 else 2
  ({ uid := s.esw.nextUid, da := b.take 6, sa := slice b 6 6, rest := b.drop (if tagged then 16 else 12)
     vid := if form = 2 then tci % 4096 else fld v 11 0
     pcp := if tagged then tci / 2 ^ 13 else fld v 15 13, dei := tagged && tci.testBit 12
     size := b.length + 4, ingress := p, time := time, sub := sub }, form)

/-- The bytes with which a frame leaves port `q` (R427, R450–R452). -/
def State.wireOf (s : State) (f : EFrame) (q : Nat) : List Byte :=
  let tag := if f.plain || s.rb (vlanA f.vid + 4) q then []
    else beBytes 2 0x8100 ++ beBytes 2 (f.pcp * 2 ^ 13 + f.dei.toNat * 2 ^ 12 + f.vid)
  let rtag := match f.seq with
    | some n => if s.rb (portA q 0) 28 then beBytes 2 0xF1C1 ++ [0, 0] ++ beBytes 2 n else []
    | none => []
  f.da ++ f.sa ++ tag ++ rtag ++ f.rest

/-- Traffic class of a frame (R427). -/
def State.classOf (s : State) (f : EFrame) : Nat := s.rf (portA f.ingress 0x10) (3 * f.pcp + 2) (3 * f.pcp)
/-- A group address; the addresses of R428. -/
def isGroup (a : List Byte) : Bool := bit (byteAt a 0) 0
def isLinkLocal (a : List Byte) : Bool := a.take 5 == [0x01, 0x80, 0xC2, 0, 0] && (byteAt a 5).toNat < 16

/-! ### Filtering database (R429–R434) -/

/-- The hash of R331 over any bytes. -/
def hash16 (b : List Byte) : Nat := b.foldl (qCrcByte 16 0x1021 false) 0xFFFF
/-- First entry of the bucket of a key. -/
def bucketOf (mac : List Byte) (fid : Nat) : Nat := hash16 (mac ++ beBytes 2 fid) % 2048 * 4
/-- Entry `e` is VALID with the key. -/
def State.fdbIs (s : State) (e : Nat) (mac : List Byte) (fid : Nat) : Bool :=
  let w := s.rd (fdbA e)
  bit w 31 && fld w 27 16 == fid && fld w 15 0 == beNat (mac.take 2) && (s.rd (fdbA e + 4)).toNat == beNat (mac.drop 2)
def State.fdbFind (s : State) (mac : List Byte) (fid : Nat) : Option Nat :=
  ((List.range 4).map (bucketOf mac fid + ·)).find? fun e => s.fdbIs e mac fid

/-- Learning (R431). -/
def State.fdbLearn (s : State) (mac : List Byte) (fid p : Nat) : State :=
  match s.fdbFind mac fid with
  | some e =>
    let s1 := s.wb (fdbA e) 29 true
    if s.rb (fdbA e) 30 then s1
    else
      let s1 := if (s.rd (fdbA e + 8)).toNat != 2 ^ p then s1.bump (esA 0x14) 31 0 else s1
      s1.wr (fdbA e + 8) (wd (2 ^ p))
  | none =>
    match ((List.range 4).map (bucketOf mac fid + ·)).find? fun e => !s.rb (fdbA e) 31 with
    | some e =>
      ((s.wr (fdbA e) (wd (0xA0000000 + fid * 65536 + beNat (mac.take 2)))).wr (fdbA e + 4) (wd (beNat (mac.drop 2)))).wr
        (fdbA e + 8) (wd (2 ^ p))
    | none => (s.bump (esA 0x10) 31 0).report 0x6002 p

/-- Places of the valid database entries. -/
def State.fdbValid (s : State) : List Nat :=
  (s.regs.filter fun r => swtBase ≤ r.1 && r.1 < swtBase + 0x20000 && r.1 % 16 = 0 && bit r.2 31).map fun r => (r.1 - swtBase) / 16

/-- Remove every entry that satisfies `q`. -/
def State.fdbDrop (s : State) (q : Nat → Bool) : State :=
  s.fdbValid.foldl (fun s e => if q e then (((s.wr (fdbA e) 0).wr (fdbA e + 4) 0).wr (fdbA e + 8) 0) else s) s

/-- Dynamic entries that name port `p` are removed (R439). -/
def State.fdbPort (s : State) (p : Nat) : State := s.fdbDrop fun e => !s.rb (fdbA e) 30 && s.rb (fdbA e + 8) p

/-! ### Streams, meters, recovery (R449–R452) -/

/-- The stream handle under a MODE. -/
def State.strFind (s : State) (mode : Nat) (f : EFrame) : Option Nat :=
  let mac := if mode = 0 then f.da else f.sa
  let h := hash16 (beBytes 1 mode ++ beBytes 2 f.vid ++ mac) % 1024
  ((List.range 8).map fun i => (h + i) % 1024).find? fun e =>
    let w := s.rd (strA e)
    bit w 31 && bit w 30 == (mode == 1) && fld w 27 16 == f.vid && fld w 15 0 == beNat (mac.take 2)
      && (s.rd (strA e + 4)).toNat == beNat (mac.drop 2)

def State.streamOf (s : State) (f : EFrame) : Option Nat :=
  if !s.rb (esA 0) 28 then none else match s.strFind 0 f with | some h => some h | none => s.strFind 1 f

/-- Units of 2 × 10⁻⁶ bit in a byte. -/
def byteUnits : Nat := 4000000

def State.meter (s : State) (m : Nat) : MeterInt := smGet (fun _ => {}) s.esw.meters m
def State.setMeter (s : State) (m : Nat) (v : MeterInt) : State :=
  { s with esw := { s.esw with meters := smSet (fun _ => {}) s.esw.meters m v } }

/-- The buckets of meter `m`, filled up to now (R450). -/
def State.meterFill (s : State) (m : Nat) : MeterInt :=
  let i := s.meter m
  let d := s.ticks - i.at_
  let cbs := s.rf (mtrA m + 8) 15 0 * byteUnits
  let ebs := s.rf (mtrA m + 8) 31 16 * byteUnits
  let c := i.c + s.rf (mtrA m) 23 0 * d
  let e := i.e + s.rf (mtrA m + 4) 23 0 * d + (if s.rb (mtrA m) 29 then c - cbs else 0)
  { c := min c cbs, e := min e ebs, at_ := s.ticks }

/-- A frame meets meter `m`: 0 green, 1 yellow, 2 red. -/
def State.meterTake (s : State) (m : Nat) (f : EFrame) : Nat × State :=
  let i := s.meterFill m
  let n := f.size * byteUnits
  if !s.rb (mtrA m) 31 then (0, s)
  else if n ≤ i.c && !(s.rb (mtrA m) 30 && f.dei) then (0, s.setMeter m { i with c := i.c - n })
  else if n ≤ i.e then (1, s.setMeter m { i with e := i.e - n })
  else (2, s.setMeter m i)

def State.frer (s : State) (r : Nat) : FrerInt := smGet (fun _ => {}) s.esw.frer r
def State.setFrer (s : State) (r : Nat) (v : FrerInt) : State :=
  { s with esw := { s.esw with frer := smSet (fun _ => {}) s.esw.frer r v } }

/-- Count word `w` of recovery function `r`. -/
def State.frerCnt (s : State) (r w : Nat) : State := s.wr (recvA r + w * 4) (s.rd (recvA r + w * 4) + 1)

/-- A frame is passed: counted, and RESET_MS runs anew. -/
def State.frerPassed (s : State) (r : Nat) : Bool × State :=
  (true, (s.setFrer r { s.frer r with passed := s.ticks }).frerCnt r 2)

/-- A number is passed: history as given. -/
def State.frerPass (s : State) (r seq : Nat) (h : List Bool) : Bool × State :=
  ((s.setFrer r { seq := some seq, hist := h }).wf (recvA r + 4) 15 0 seq).frerPassed r

/-- Vector recovery (R452): whether the frame is passed. -/
def State.frerTake (s : State) (r : Nat) (seq : Option Nat) : Bool × State :=
  let len := s.rf (recvA r) 21 16
  let i := s.frer r
  let drop := (false, s.frerCnt r 3)
  if !s.rb (recvA r) 31 then (true, s)
  else match seq, i.seq with
    | none, _ => if s.rb (recvA r) 30 then s.frerPassed r else drop
    | some n, none => s.frerPass r n (true :: List.replicate (len - 1) false)
    | some n, some p =>
      let d := sext (n + 65536 - p) 16
      if (len : Int) ≤ d || d ≤ -(len : Int) then drop
      else if d ≤ 0 then
        let k := (-d).toNat
        if i.hist.getD k false then drop else s.frerPass r p (modAt (fun _ => true) i.hist k)
      else s.frerPass r n ((true :: List.replicate (d.toNat - 1) false ++ i.hist).take len)

/-- A stream frame is dropped: RX_STREAMDROP of its ingress port. -/
def State.strDrop (s : State) (f : EFrame) : Option EFrame × State := (none, s.pcnt f.ingress 0x40)

/-- Sequence recovery and generation of stream `h` (R451, R452). -/
def State.strSeq (s : State) (h : Nat) (f : EFrame) : Option EFrame × State :=
  let w2 := s.rd (strA h + 8)
  let w3 := s.rd (strA h + 12)
  let has := beNat (f.rest.take 2) = 0xF1C1
  let seqIn := if has then some (beNat (slice f.rest 4 2)) else none
  let r := if bit w2 29 then s.frerTake (fld w3 23 16) seqIn else (true, s)
  let f := if bit w2 29 && has then { f with seq := seqIn, rest := f.rest.drop 6 } else f
  if !r.1 then (none, r.2)
  else if bit w2 30 then
    let g := fld w3 31 24
    (some { f with seq := some (r.2.rf (genA g) 15 0) }, r.2.wf (genA g) 15 0 (r.2.rf (genA g) 15 0 + 1))
  else (some f, r.2)

/-- A frame goes through stream filtering, policing and FRER (R449–R452); none when it is dropped. -/
def State.psfp (s : State) (f : EFrame) : Option EFrame × State :=
  match s.streamOf f with
  | none => (some f, s)
  | some h =>
    let w2 := s.rd (strA h + 8)
    let m := fld w2 23 16
    if fld w2 15 0 != 0 && fld w2 15 0 < f.size then (s.bump (strA h + 12) 15 0).strDrop f
    else
      let r := if bit w2 31 && !isLinkLocal f.da then s.meterTake m f else (0, s)
      if r.1 = 2 then (r.2.bump (mtrA m + 12) 31 16).strDrop f
      else if r.1 = 1 && s.rb (mtrA m) 28 then r.2.strDrop f
      else if r.1 = 1 then (r.2.bump (mtrA m + 12) 15 0).strSeq h { f with dei := true, rest := setDei 4 f.rest }
      else r.2.strSeq h f

/-! ### Destinations (R424, R428, R433) -/

/-- An EAPOL frame that a MACsec port has received: it goes to P15 alone (R453). -/
def State.uncontrolled (s : State) (f : EFrame) : Bool :=
  match msOf f.ingress with | some i => s.rb (msA i 0) 31 && f.ether == 0x888E | none => false

/-- Destination ports of a frame. -/
def State.destSet (s : State) (f : EFrame) : List Nat :=
  let ve := s.rd (vlanA f.vid)
  let base : List Nat :=
    if f.ingress != 15 && (isLinkLocal f.da || s.uncontrolled f) then [15]
    else
      let l : Nat → Bool := match s.fdbFind f.da (fld ve 27 16) with
        | some e => fun q => s.rb (fdbA e + 8) q
        | none =>
          if f.da == List.replicate 6 255 then fun _ => true
          else if isGroup f.da then fun q => s.rb (portA q 0) 26 else fun q => s.rb (portA q 0) 27
      (List.range 16).filter fun q => l q && bit ve q
  base.filter fun q => q != f.ingress && s.linkUp q

/-- The receive tunnels whose PDUs these are (R345, R424): of an NTSCF PDU with a valid stream_id, every enabled one with that
identifier. -/
def State.tunnelsOf (s : State) (f : EFrame) : List Nat :=
  let b := afterTags 4 f.rest
  if beNat (b.take 2) != 0x22F0 || byteAt b 2 != 0x82 || !bit (byteAt b 3) 7 then []
  else (List.range 32).filter fun t =>
    s.rb (clA (0x800 + t * 0x10)) 31 && (s.rd (clA (0x800 + t * 0x10 + 0xC))).toNat == beNat (slice b 6 4)
      && (s.rd (clA (0x800 + t * 0x10 + 8))).toNat == beNat (slice b 10 4)

/-- The host destination of a frame for P15, as a queue key (R424). -/
def State.hostDest (s : State) (f : EFrame) : Option Nat :=
  if f.ether = 0x88B5 && f.ingress = 14 then some hostPair
  else match s.tunnelsOf f with
    | t :: _ => some (hostTunnel t)
    | [] =>
      match firstBelow 32 fun e =>
          s.rb (hcA e) 31 && (!s.rb (hcA e) 30 || s.rf (hcA e) 15 0 == f.ether) && s.rb (hcA e + 4) (16 + f.ingress)
            && f.ingress != 15 with
      | some e =>
        let d := s.rf (hcA e + 4) 8 0
        some (if s.rb (hcA e + 4) 15 then hostCask d else hostQueue (d % 16))
      | none => none

/-! ### Scheduled traffic (R445–R447) -/

def State.tasLen (s : State) (p : Nat) : Nat := s.rf (portA p 0x2C) 8 0
def State.tasBank (s : State) (p : Nat) : Nat := s.rf (portA p 0x2C) 30 30
def State.tasOn (s : State) (p : Nat) : Bool := s.rb (portA p 0x20) 31 && s.tasLen p != 0
def State.gatesAt (s : State) (p e : Nat) : Nat := s.rf (gateA p (s.tasBank p) e) 7 0
/-- Open gates of a port now. -/
def State.gates (s : State) (p : Nat) : Nat := if s.tasOn p then s.gatesAt p (s.port p).tas.idx else 255

/-- The operating list laid over one cycle: gates and duration of each entry, the last held to the cycle's end, what lies
beyond it cut. -/
def State.gateList (s : State) (p : Nat) : List (Nat × Nat) :=
  let cyc := (s.port p).tas.cycle
  let n := s.tasLen p
  ((List.range n).foldl (fun (a : Nat × List (Nat × Nat)) e =>
    let d := if e + 1 = n then cyc - a.1 else min ((s.rd (gateA p (s.tasBank p) e + 4)).toNat) (cyc - a.1)
    (a.1 + d, a.2 ++ [(s.gatesAt p e, d)])) (0, [])).2

/-- How long the gate of class `c` stays open along a list from its head, and whether it closes within it. -/
def openRun (c : Nat) : List (Nat × Nat) → Nat × Bool
  | [] => (0, false)
  | x :: r => if x.2 != 0 && !x.1.testBit c then (0, true) else let y := openRun c r; (x.2 + y.1, y.2)

/-- Nanoseconds until the gate of class `c` closes; none when it never does. -/
def State.openFor (s : State) (p c : Nat) : Option Nat :=
  if !s.tasOn p then none
  else
    let l := s.gateList p
    let i := (s.port p).tas.idx
    let past := (s.now - (s.port p).tas.start).toNat - ((l.take i).foldl (fun n x => n + x.2) 0)
    let cur := match l[i]? with | some x => [(x.1, x.2 - past)] | none => []
    let r := openRun c (cur ++ l.drop (i + 1) ++ l)
    if r.2 then some r.1 else none

/-- The longest time the gate of class `c` stays open; none when it never closes. -/
def State.openMax (s : State) (p c : Nat) : Option Nat :=
  if !s.tasOn p then none
  else
    let l := s.gateList p
    let runs := (List.range l.length).map fun i => openRun c (l.drop i ++ l)
    if runs.all (·.2) then some (runs.foldl (fun n r => max n r.1) 0) else none

/-- Nanoseconds that a frame of `n` bytes with FCS takes on the wire of port `p`, preamble and inter-frame gap included. -/
def State.txTime (s : State) (p n : Nat) : Nat :=
  let r := s.portRate p
  if r = 0 then 0 else ((8 + n + 12) * 8 * 1000000 + r - 1) / r

/-- The entry of a list of gates and durations in which `t` nanoseconds lie. -/
def entryAt (t : Nat) : List (Nat × Nat) → Nat
  | [] => 0
  | x :: r => if t < x.2 || r.isEmpty then 0 else entryAt (t - x.2) r + 1

/-- After a step of the time base the running cycle of a port continues from its position at the new time (R467). -/
def State.tasStep (s : State) (p : Nat) : State :=
  let x := s.port p
  if !s.tasOn p || x.tas.cycle = 0 then s
  else
    let pos := ((s.now - x.tas.start).toInt % (x.tas.cycle : Int)).toNat
    s.setPort p { x with tas := { x.tas with start := s.now - wd pos, idx := entryAt pos (s.gateList p) } }

/-! ### Credit-based shaping (R448) -/

def State.cbsOn (s : State) (p c : Nat) : Bool := s.rb (portA p (0x40 + c * 4)) 31
def State.cbsSlope (s : State) (p c : Nat) : Nat := s.rf (portA p (0x40 + c * 4)) 23 0
/-- hiCredit and loCredit of a class, in 2 × 10⁻⁶ bit. -/
def State.hiCredit (s : State) (p c : Nat) : Int := (s.maxFrame p * byteUnits * s.cbsSlope p c / max 1 (s.portRate p) : Nat)
def State.loCredit (s : State) (p c : Nat) : Int :=
  -((s.maxFrame p * byteUnits * (s.portRate p - s.cbsSlope p c) / max 1 (s.portRate p) : Nat) : Int)

/-- Credit of class `c` brought up to now: it grows by idleSlope while the class waits or is in debt, is held while the gate
is closed or a frame of the class is being sent, which is paid for at its end, and does not stay positive with an empty queue. -/
def State.creditNow (s : State) (p c : Nat) : Int :=
  let x := s.port p
  let old := smGet (fun _ => (0 : Int)) x.credit c
  let d : Int := (s.ticks - smGet (fun _ => 0) x.creditAt c : Nat)
  let sends := match x.sending with | some y => y.cls == c | none => false
  let v := if (s.gates p).testBit c && !sends then old + (s.cbsSlope p c : Nat) * d else old
  if sends then old
  else if (s.queue p c).isEmpty then (if old < 0 then min v 0 else 0) else min v (s.hiCredit p c)

def State.setCredit (s : State) (p c : Nat) (v : Int) : State :=
  let x := s.port p
  s.setPort p { x with credit := smSet (fun _ => (0 : Int)) x.credit c v, creditAt := smSet (fun _ => 0) x.creditAt c s.ticks }

/-- Bring the credit of every shaped class of a port up to now. -/
def State.creditAll (s : State) (p : Nat) : State :=
  (List.range 8).foldl (fun s c => if s.cbsOn p c then s.setCredit p c (s.creditNow p c) else s) s

/-! ### A step of the time base (R466–R468) -/

/-- The step is applied at the time base and at every copy. -/
def execTbStepApply (s : State) : Out :=
  .next (match s.tb.step with
    | none => s
    | some v =>
      if !s.logicOn then s
      else (List.range 15).foldl State.tasStep (((List.range 15).foldl State.creditAll s).stepTime v))

/-! ### Discarded frames with a record (R474) -/

/-- SEQ_ID, MSG_TYPE and DOMAIN of a PTP event message, when the frame is one that entered at P15. -/
def EFrame.ptp (f : EFrame) : Option (Nat × Nat × Nat) :=
  let b := afterTags 4 f.rest
  let t := (byteAt b 2).toNat % 16
  if f.ingress = 15 && beNat (b.take 2) = 0x88F7 && t < 4 then some (beNat (slice b 32 2), t, (byteAt b 6).toNat) else none

/-- The transmit record of frame `f` at port `p`: STATUS 0 SENT, 1 MARKED, 2 LOST. -/
def State.ptpRecord (s : State) (p : Nat) (f : EFrame) (time : Word) (sub status : Nat) : State :=
  match f.ptp with
  | some x =>
    if p < 15 && s.rb (tsA p 0) 31 then
      s.tsRecord p (leBytes 2 x.1 ++ leBytes 1 x.2.1 ++ leBytes 1 x.2.2 ++ leBytes 4 time.toNat ++ leBytes 1 sub ++ leBytes 1 p
        ++ leBytes 1 status ++ List.replicate 5 0)
    else s
  | none => s

/-- A frame is discarded before it leaves port `p`. -/
def State.txLost (s : State) (p : Nat) (f : EFrame) : State := s.ptpRecord p f 0 0 2

end Sys2Proof.Machine
end

