-- ==== Sys2Proof/Machine/PairOps.lean ====
section
/-!
DEFINITION. What the pair manager's events share: roles and the permit, the partner's state, pair frames on P14, and the
vintages in MRAM (R659–R675).
-/

namespace Sys2Proof.Machine

def prA (off : Nat) : Nat := prmBase + off
def State.setPrm (s : State) (p : PrmInt) : State := { s with prm := p }

/-! ### Role, permit and PAIR_OWN (R659–R661) -/

/-- The interlock permits: SOLO, and ACTIVE while PAIR_OWN reads low. -/
def permits (role : Nat) (ownLow : Bool) : Bool := role == 1 || (role == 3 && ownLow)

/-- The permit line follows role and PAIR_OWN, and every channel of both dies its interlock (R661, R168). -/
def State.permitSync (s : State) : State :=
  let p := permits s.front.role s.front.ownLow
  if s.front.permit == p then s
  else (({ s with front := { s.front with permit := p } } : State).settleDie 0).settleDie 1

/-- The front die takes a role: ACTIVE drives PAIR_OWN low, and a role that ends ACTIVE stops driving it. -/
def State.setRole (s : State) (r : Nat) : State :=
  let low := if r = 3 then true else if s.front.role = 3 then false else s.front.ownLow
  let s := { s with front := { s.front with role := r, ownLow := low } }
  State.permitSync s

/-- The module becomes STANDBY: its health count starts. -/
def State.toStandby (s : State) : State :=
  (s.setRole 2).setPrm { s.prm with start := .idle, heard := false, armed := false, runFrom := s.ticks, selfTest := false }

/-- Position B (R662). -/
def State.posB (s : State) : Bool := s.pwr.pairSel

/-- Paired operation is configured. -/
def State.pairEn (s : State) : Bool := s.rb (prA 0) 31

/-! ### The partner's state (R664) -/

/-- PEER of two paths: NONE until both are known. -/
def peerOf (line frame : PrmPath) : Nat :=
  match line, frame with
  | .unknown, _ => 0
  | _, .unknown => 0
  | .silent, .silent => 3
  | .delivering, .delivering => 1
  | _, _ => 2

def State.peer (s : State) : Nat := s.rf (prA 8) 9 8

/-- PEER, LINE_OK and FRAME_OK follow the paths; SUSPECT and FAILED are reported when they are entered. -/
def State.peerSync (s : State) : State :=
  let old := s.peer
  let new := peerOf s.prm.line s.prm.frame
  let s := (s.wb (prA 8) 4 (s.prm.line == .delivering)).wb (prA 8) 5 (s.prm.frame == .delivering)
  let s := s.wf (prA 8) 9 8 new
  let s := if new != 3 then s.wb (prA 8) 13 false else s
  if new = old then s
  else if new = 2 then s.report 0x7040 else if new = 3 then s.report 0x7041 else s

/-! ### Vintages in MRAM (R673, R675) -/

def vinA (h : Nat) : Nat := 0x21940000 + h * 0x200000
def vinMagic : Nat := 0x96405649
def vinMax : Nat := 0x200000

/-- A header's field of `n` bytes at `off` (little-endian, R3). -/
def vinFld (hd : List Byte) (off n : Nat) : Nat := leNat (slice hd off n)

/-- Half `h` holds a vintage with a valid MAGIC and CRC. -/
def State.vinValid (s : State) (h : Nat) : Bool :=
  let hd := s.ldBytes (vinA h) 64
  vinFld hd 0 4 == vinMagic && 64 ≤ vinFld hd 8 4 && vinFld hd 8 4 ≤ vinMax
    && crc32 (hd.take 0x3C ++ s.ldBytes (vinA h + 0x40) (vinFld hd 8 4 - 0x40)) == vinFld hd 0x3C 4

/-- The winning vintage: the valid half with the higher VSEQ. -/
def State.vinWin (s : State) : Option Nat :=
  match s.vinValid 0, s.vinValid 1 with
  | true, true => some (if future (wd (s.ldLE (vinA 1 + 4) 4)) (wd (s.ldLE (vinA 0 + 4) 4)) then 1 else 0)
  | true, false => some 0
  | false, true => some 1
  | false, false => none

/-- VSEQ of the last committed vintage: the winner's on the standby, VIN_SEQ on the active (R671). -/
def State.lastVseq (s : State) : Nat :=
  if s.front.role = 3 then (s.rd (prA 0x38)).toNat
  else match s.vinWin with | some h => s.ldLE (vinA h + 4) 4 | none => 0

/-- SYNC (R675), by the tick of the last commit. -/
def State.pairSync (s : State) : Bool :=
  match s.prm.vinAt, s.prm.last with
  | some t, some l =>
    decide (s.ticks - t ≤ 3 * s.rf (prA 0x20) 25 16 * 500000) &&
      (match s.vinWin with | some h => s.ldLE (vinA h + 0x20) 4 == l.1 | none => false)
  | _, _ => false

/-- HEALTH_RUN in seconds (R676). -/
def State.healthRun (s : State) : Nat := min 0xFFFFFFFF ((s.ticks - s.prm.runFrom) / 500000000)

/-- This module sends HOME_READY (R679). -/
def State.homeReady (s : State) : Bool := s.front.role = 2 && s.rb (prA 0) 30 && s.pairSync && 60 ≤ s.healthRun

/-- The health word (R676). -/
def State.healthWord (s : State) : Nat :=
  (s.prm.line == .delivering).toNat + (s.prm.frame == .delivering).toNat * 2 + s.pairSync.toNat * 4
    + (!s.rb fcBase 31).toNat * 8
    + ((s.link 0).up && (s.link 1).up && !s.limp 0 && !s.limp 1).toNat * 16
    + (!s.rb fcBase 30).toNat * 32
    + (s.slState (s.rf (prA 0) 23 16) == 1).toNat * 64 + s.prm.selfTest.toNat * 128
    + s.rf (prA 0x40) 23 0 * 256

/-! ### Pair frames (R670, R671) -/

/-- A 48-bit address held in two registers. -/
def State.mac48 (s : State) (a : Nat) : List Byte := beBytes 6 (s.rf (a + 4) 15 0 * 2 ^ 32 + (s.rd a).toNat)

/-- The pair key, while its slot may compute a MAC of 256 bits. -/
def State.pairKey (s : State) : Option (List Byte) :=
  let n := s.rf (prA 0) 23 16
  if persistent n && (s.keyStatus n 2).isNone && s.slSize n = 2 then some (s.slot n).key else none

/-- The first waiting frames enter P14's class-7 queue as long as it admits them; without a link they are lost. -/
def State.pairDrain (s : State) : List (List Byte) → State
  | [] => s.setPrm { s.prm with out := [] }
  | b :: r =>
    if !s.swOn || !s.linkUp 14 then s.setPrm { s.prm with out := [] }
    else if !s.admits 14 7 (s.rf (portA 14 0xC) 31 28) then s.setPrm { s.prm with out := b :: r }
    else
      let f : EFrame := { uid := s.esw.nextUid, da := b.take 6, sa := slice b 6 6, rest := b.drop 12, pcp := 7,
                          size := b.length + 4, ingress := 15, time := s.now, plain := true }
      let s := { s with esw := { s.esw with nextUid := s.esw.nextUid + 1 } }
      State.pairDrain (s.setQueue 14 7 (s.queue 14 7 ++ [f])) r

/-- Send a pair frame of TYPE `typ`; without a usable key none can be made. -/
def State.pairSend (s : State) (typ : Nat) (payload : List Byte) : State :=
  match s.pairKey with
  | none => s
  | some key =>
    let n := s.prm.seq + 1
    let flags := s.homeReady.toNat + s.pairSync.toNat * 2 + s.posB.toNat * 4 + (s.prm.hand != .none).toNat * 8
    let head := [1, BitVec.ofNat 8 typ] ++ beBytes 2 payload.length ++ beBytes 2 (s.rf (prA 0) 15 0)
      ++ [BitVec.ofNat 8 s.front.role, BitVec.ofNat 8 flags] ++ beBytes 4 s.boot.startCount ++ beBytes 4 n
      ++ beBytes 4 s.now.toNat
    let m := s.mac48 (prA 0xC) ++ s.mac48 (prA 0x14) ++ beBytes 2 0x88B5 ++ head ++ payload
    let b := m ++ cmac key m
    let s := s.setPrm { s.prm with seq := n, out := s.prm.out ++ [b ++ List.replicate (60 - b.length) 0] }
    s.pairDrain s.prm.out

/-- Payload bytes of each TYPE (R671). -/
def pairLen (typ : Nat) : Option Nat :=
  [none, some 8, some 1416, some 64, some 8, some 8, some 20, some 12].getD typ none

/-- A pair frame as received. -/
structure PairFrame where
  typ : Nat
  role : Nat
  flags : Nat
  epoch : Nat
  seq : Nat
  time : Nat
  payload : List Byte
  deriving DecidableEq, Repr

/-- The frame in `b` when it is accepted (R671): its tag verifies, its PAIR_ID is this module's, its LEN matches its TYPE, and
its EPOCH and SEQ exceed those last accepted. -/
def State.pairAccept (s : State) (b : List Byte) : Option PairFrame :=
  let h := b.drop 14
  let len := beNat (slice h 2 2)
  let typ := (byteAt h 1).toNat
  let epoch := beNat (slice h 8 4)
  let seq := beNat (slice h 12 4)
  let newer := match s.prm.last with
    | none => true
    | some l => decide (l.1 < epoch ∨ (l.1 = epoch ∧ l.2 < seq))
  match s.pairKey with
  | none => none
  | some key =>
    if s.pairEn && byteAt h 0 == 1 && pairLen typ == some len && beNat (slice h 4 2) == s.rf (prA 0) 15 0 && newer
        && 34 + len + 16 ≤ b.length && cmac key (b.take (34 + len)) == slice b (34 + len) 16
    then some { typ, role := (byteAt h 6).toNat, flags := (byteAt h 7).toNat, epoch, seq, time := beNat (slice h 16 4)
                payload := slice h 20 len }
    else none

/-! ### Reachability of the partner (R542) -/

/-- The partner is reachable over the pair bridge: it is not OFFLINE by its last beat or frame, and P14 has a link. -/
def State.pairReach (s : State) : Bool := s.rf (prA 8) 18 16 != 0 && s.linkUp 14 && s.swOn

end Sys2Proof.Machine
end

