-- ==== Sys2Proof/Machine/BridgeOps.lean ====
section
/-!
DEFINITION. How a bridge carries its transactions: acceptance, places, order, waiting, sending, responses and timeouts
(R519–R524, R526–R533, R536, R539, R542).
-/

namespace Sys2Proof.Machine

/-- The initiator of an operation hears a load fault rather than a store fault. -/
def BrOp.load : BrOp → Bool
  | .read => true | .line => true | .lr => true | _ => false

/-- An atomic operation. -/
def BrOp.atomic : BrOp → Bool
  | .lr => true | .sc => true | .amo _ => true | .amoWrite _ _ => true | _ => false

/-- It writes the far side. -/
def BrOp.writes : BrOp → Bool
  | .write => true | .sc => true | .amo _ => true | .amoWrite _ _ => true | _ => false

def BrTx.tags (x : BrTx) : Tags := ⟨x.tid, x.w⟩

/-- A transaction that the far side still owes a response. -/
def BrTx.out (x : BrTx) : Bool :=
  !x.dead && match x.phase with | .queued => false | _ => true

/-- The far side has answered, and the link has not lost the answer. -/
def BrTx.answered (x : BrTx) : Bool := !x.lost && match x.phase with | .answered _ _ => true | _ => false

/-- Transactions that hold one of the 64 places (R520). -/
def State.inflight (s : State) (b : Nat) : Nat := ((s.bridge b).txs.filter fun x => x.placed && !x.dead).length

def State.setTxs (s : State) (b : Nat) (l : List BrTx) : State := s.setBridge b { s.bridge b with txs := l }
def State.brDrop (s : State) (b tag : Nat) : State := s.setTxs b ((s.bridge b).txs.filter fun x => x.tag != tag)
def State.brSet (s : State) (b : Nat) (x : BrTx) : State :=
  s.setTxs b ((s.bridge b).txs.map fun y => if y.tag == x.tag then x else y)

/-- The access of `x` completes at its initiator, unless that has been reset since (R17). -/
def State.brDone (s : State) (b : Nat) (x : BrTx) (st : Status) (data : DWord) : State :=
  if x.orphan then s else s.finish x.acc (brRegion b + x.off) st data x.op.load

/-! ### Reads of a line -/

/-- `n` bytes at offset `off` of a line's words, none when a word of them is missing. -/
def lineData (words : List (Option Word)) (base off n : Nat) : Option Nat :=
  let i := (off - base) / 4
  match words.getD i none with
  | none => none
  | some lo =>
    if n ≤ 4 then some (lo.toNat >>> ((off % 4) * 8) % 2 ^ (8 * n))
    else match words.getD (i + 1) none with
      | none => none
      | some hi => some (lo.toNat + hi.toNat * 2 ^ 32)

/-- The words of a line that `n` bytes at `off` read. -/
def lineWords (base off n : Nat) : List Nat := if n ≤ 4 then [(off - base) / 4] else [(off - base) / 4, (off - base) / 4 + 1]

/-- The held line that answers the read `x`, and its data (R531). -/
def State.lineHit (s : State) (b : Nat) (x : BrTx) : Option (BrLine × Nat) :=
  (s.bridge b).lines.findSome? fun l =>
    if l.base ≤ x.off && x.off < l.base + 64 && l.tid == x.tid && l.w == x.w then
      (lineData l.words l.base x.off x.bytes).map fun d => (l, d)
    else none

/-- Line `l` is used: words `ws` are delivered, and it becomes the one most recently used. -/
def State.lineUse (s : State) (b : Nat) (l : BrLine) (ws : List Nat) : State :=
  let x := s.bridge b
  s.setBridge b { x with lines := x.lines.filter (fun m => m.uid != l.uid) ++
    [{ l with given := l.given ++ ws.filter fun i => !l.given.contains i }] }

/-- A fetched line enters the buffer of four, in place of the one least recently used. -/
def State.lineKeep (s : State) (b : Nat) (l : BrLine) : State :=
  let same (m : BrLine) : Bool := m.base == l.base && m.tid == l.tid && m.w == l.w
  let s := s.dropLines b same
  let s := match (s.bridge b).lines with
    | m :: _ => if 4 ≤ (s.bridge b).lines.length then s.dropLines b fun k => k.uid == m.uid else s
    | [] => s
  s.setBridge b { s.bridge b with lines := (s.bridge b).lines ++ [l] }

/-! ### Sending -/

/-- The BR_REQ payload of transaction `x` of the pair bridge (R541, R671): offset `done` bytes into a line fetch. -/
def State.brReq (s : State) (x : BrTx) : List Byte :=
  let base := s.rf (winA 3 x.win 4) 15 0 * 0x10000
  let line := match x.op with | .line => true | _ => false
  let off := if line then x.off / 64 * 64 + x.words.length * 4 else x.off
  let op := if x.posted then 3 else if x.op.writes then 2 else 1
  let addr := (s.rd (winA 3 x.win 0xC)).toNat * 0x10000 + (off - base)
  [BitVec.ofNat 8 x.tag, BitVec.ofNat 8 op, BitVec.ofNat 8 (if line then 8 else x.bytes), 0] ++ beBytes 8 addr
    ++ beBytes 8 (if op = 1 then 0 else x.data.toNat)

/-- Transaction `x` goes out on the link, now; on the pair bridge as a frame. A lost link brings no answer (R539). -/
def State.brSend (s : State) (b : Nat) (x : BrTx) : State :=
  let s := s.brSet b { x with phase := .sent, sentAt := s.ticks, lost := !s.brUp b }
  if b = 3 then s.pairSend 6 (s.brReq x) else s

/-- A free place goes to the oldest access without one; a posted write then completes with DONE (R520, R521). -/
def State.brPlace (s : State) (b : Nat) : Nat → State
  | 0 => s
  | n + 1 =>
    match (s.bridge b).txs.find? fun x => !x.placed && !x.dead with
    | none => s
    | some x =>
      if 64 ≤ s.inflight b then s
      else
        let c := s.rd (winA b x.win 0)
        let posted := x.op == .write && bit c 30 && !bit c 28
        let s := s.brSet b { x with placed := true, posted := posted }
        State.brPlace (if posted then s.brDone b x .done 0 else s) b n

/-- Accesses leave in order of acceptance; a non-posted one waits behind the earlier posted writes of its window, then meets
POISON, a lost link and the prefetch buffer (R521, R522, R531, R536, R539). -/
def State.brPump (s : State) (b : Nat) : Nat → State
  | 0 => s
  | n + 1 =>
    let s := s.brPlace b (s.bridge b).txs.length
    match (s.bridge b).txs.find? fun x => x.phase == .queued with
    | none => s
    | some x =>
      if !x.placed then s
      else if x.posted then State.brPump (s.brSend b x) b n
      else if ((s.bridge b).txs.takeWhile fun y => y.tag != x.tag).any fun y => y.posted && !y.dead && y.win == x.win then s
      else if !s.brUp b || s.rb (winA b x.win 0) 28 then
        State.brPump ((s.brDrop b x.tag).brDone b x .farError 0) b n
      else if x.op == .read && s.rb (winA b x.win 0) 29 && !x.acc.tagFail then
        match s.lineHit b x with
        | some (l, d) =>
          let s := ((s.brDrop b x.tag).lineUse b l (lineWords l.base x.off x.bytes)).brDone b x .done (BitVec.ofNat 64 d)
          State.brPump s b n
        | none => State.brPump (s.brSend b { x with op := .line }) b n
      else State.brPump (s.brSend b x) b n

/-- Let the bridge carry on as far as it can. -/
def State.brRun (s : State) (b : Nat) : State := s.brPump b ((s.bridge b).txs.length + 1)

/-- Transaction numbers wrap: TAG is one byte on the pair bridge (R671). -/
def brTags (b : Nat) : Nat := if b = 3 then 256 else 2 ^ 32

/-- A number that no transaction under way has, from the next one onwards. -/
def State.brTag (s : State) (b : Nat) : Nat :=
  let x := s.bridge b
  (((List.range 256).map fun i => (x.nextTag + i) % brTags b).find? fun n => x.txs.all fun y => y.tag != n).getD 0

/-! ### Responses and timeouts -/

/-- The AMO of RV64A on words: 0 swap, 1 add, 2 and, 3 or, 4 xor, 5 min, 6 max, 7 minu, 8 maxu (R526). -/
def amoWord (k : Nat) (old v : Word) : Word :=
  if k = 0 then v else if k = 1 then old + v else if k = 2 then old &&& v else if k = 3 then old ||| v
  else if k = 4 then old ^^^ v else if k = 5 then (if old.toInt ≤ v.toInt then old else v)
  else if k = 6 then (if old.toInt ≤ v.toInt then v else old)
  else if k = 7 then (if old ≤ v then old else v) else (if old ≤ v then v else old)

/-- The response of `x`, no longer under way, is back at the bridge (R522, R529, R531, R533). -/
def State.brBack (s : State) (b : Nat) (x : BrTx) (st : Status) (data : DWord) : State :=
  if x.dead then s
  else if x.posted then (if st = .done then s else s.brFail b x.win x.off x.tags st)
  else match x.op with
    | .amo k =>
      if st != .done then s.brDone b x st 0
      else
        let old := wd data.toNat
        let y := { x with op := .amoWrite k old, data := (amoWord k old (wd x.data.toNat)).zeroExtend 64, phase := .sent,
                            sentAt := s.ticks }
        let l := (s.bridge b).txs
        s.setTxs b (l.filter (fun z => z.phase != .queued) ++ y :: l.filter fun z => z.phase == .queued)
    | .amoWrite _ old => s.brDone b x st (if st = .done then old.signExtend 64 else 0)
    | .line =>
      let base := x.off / 64 * 64
      match (if st = .done then lineData x.words base x.off x.bytes else none) with
      | none => s.brDone b x (if st = .done then .range else st) 0
      | some d =>
        let l : BrLine := { uid := x.tag, base, tid := x.tid, w := x.w, win := x.win, words := x.words
                            given := lineWords base x.off x.bytes }
        let s := if s.rb (winA b x.win 0) 29 && !s.rb (winA b x.win 0) 28 then s.lineKeep b l else s
        let s := if x.spoiled then s.dropLines b fun m => m.uid == l.uid else s
        s.brDone b x .done (BitVec.ofNat 64 d)
    | _ => s.brDone b x st data

/-- `x` has been sent for at least the BR_CTL.TMO in force (R524). -/
def State.brOverdue (s : State) (b : Nat) (x : BrTx) : Bool := s.rf (brA b 0) 15 0 * 500 ≤ s.ticks - x.sentAt

/-- The oldest overdue transaction sent and not answered times out (R524). -/
def State.brTimeout (s : State) (b : Nat) : State :=
  match (s.bridge b).txs.find? fun x => x.out && s.brOverdue b x with
  | none => s
  | some x =>
    let s := if b = 3 || x.lost then s.brDrop b x.tag else s.brSet b { x with dead := true }
    let s := if x.posted then s.brFail b x.win x.off x.tags .timeout
      else (s.report 0x7003 (brCtx b x.win) x.off x.tid x.w).brDone b x .timeout 0
    s.brRun b

/-- The far side of bridge `b` is lost (R539): what is in flight gets no answer, the semaphore counts as released. -/
def State.brLost (s : State) (b : Nat) : State :=
  let s := s.report 0x7005 (brCtx b 0)
  let l := ((s.bridge b).txs.filter fun x => !x.dead).map fun x => if x.phase == .queued then x else { x with lost := true }
  State.brRun (s.setBridge b { s.bridge b with txs := l, sem := none }) b

/-- The pair bridge finds its partner reachable or lost (R542). -/
def State.pairLink (s : State) : State :=
  if s.pairReach == (s.bridge 3).pairUp then s
  else
    let up := s.pairReach
    let s := s.setBridge 3 { s.bridge 3 with pairUp := up }
    if up then s else s.brLost 3

end Sys2Proof.Machine
end

