-- ==== Sys2Proof/Machine/Fabric.lean ====
section
/-!
DEFINITION. Memory as a block on the fabric reaches it with given tags: system SRAM, MRAM and the engines' data memories
(R21, R260, R261, R577).
-/

namespace Sys2Proof.Machine

/-- `n` bytes at `a` lie wholly in MRAM. -/
def mramSpan (a n : Nat) : Bool := 0x20000000 ≤ a && a + n ≤ 0x22000000

/-- `n` bytes at `a` lie wholly in the data memory of one engine. -/
def dataSpan (a n : Nat) : Bool :=
  winBase ≤ a && a < winBase + 0x200000 && 0x10000 ≤ (a - winBase) % 0x20000 && (a - winBase) % 0x20000 + n ≤ 0x20000

/-- The tags may use `n` bytes at `a` of a data memory: TID 0 with W = 1, or within the bounds or frame slot of a thread of
those tags (R261). -/
def State.dataMay (s : State) (t : Tags) (a n : Nat) : Bool :=
  let e := (a - winBase) / 0x20000
  t.manager || (List.range 8).any fun u => s.threadTags (e * 8 + u) == t && s.inBounds e u ((a - winBase) % 0x10000) n

/-- Why the tags may not read (or write) `n` bytes at `a`: ACCESS before RANGE; none when they may. No byte is no access. -/
def State.busStatus (s : State) (t : Tags) (a n : Nat) (write : Bool) : Option Status :=
  if n = 0 then none
  else if sramSpan a n || mramSpan a n then
    if (if write then s.mayWrite t a n else s.mayRead t a n) then none else some .access
  else if dataSpan a n then (if s.dataMay t a n then none else some .access)
  else some .range

/-- The first of several reasons: ACCESS before RANGE (R42). -/
def worst (l : List (Option Status)) : Option Status :=
  if l.contains (some .access) then some .access else if l.contains (some .range) then some .range else none

/-- An uncorrectable word among `n` bytes at `a` is reported. -/
def State.busEcc (s : State) (a : Nat) : State :=
  if dataSpan a 1 then s.seEcc ((a - winBase) / 0x20000) a false else s.eccReport a

end Sys2Proof.Machine
end

