-- ==== Sys2Proof/Machine/Cipher.lean ====
section
/-!
DEFINITION. The cipher engine: submission, CIPHER and CMAC jobs, contexts, derivation and import, and completions
(R609–R623).
-/

namespace Sys2Proof.Machine

def CphJob.tags (j : CphJob) : Tags := ⟨j.tid, j.w⟩
/-- The slot of a job in a fault record, 0 for a job without one (R682). -/
def CphJob.obj (j : CphJob) : Nat := if j.slot = 256 then 0 else j.slot
/-- FLAGS of a job: DECRYPT, FIRST, LAST, EPOCH, WRAPPED. -/
def CphJob.flag (j : CphJob) (b : Nat) : Bool := j.flags.testBit b
/-- The job continues a context: a CIPHER or CMAC without FIRST, or a SAVE. -/
def CphJob.continues (j : CphJob) : Bool := ((j.op = 1 || j.op = 2) && !j.flag 1) || j.op = 5

/-- Context `k` belongs to the job's TID and W. -/
def State.ctxOf (s : State) (j : CphJob) (k : Nat) : Option CphCtx :=
  match s.ctx k with
  | some c => if c.tid = j.tid && c.w = j.w then some c else none
  | none => none

/-- Put a job back in its place. -/
def State.setJob (s : State) (j : CphJob) : State :=
  { s with cph := { s.cph with jobs := s.cph.jobs.map fun x => if x.entry == j.entry then j else x } }
def State.job (s : State) (k : Nat) : Option CphJob := s.cph.jobs.find? fun j => j.entry == k

/-- A job ends; a denial is reported (R19). -/
def State.jobEnd (s : State) (j : CphJob) (st : Status) (auth : Nat := 0) (out : Nat := 0) : State :=
  (if st = .access then s.reportAt 0x0003 j.desc ⟨j.tid, j.w⟩ else s).setJob { j with phase := .ended st auth out }

/-- The job of the descriptor bytes `b`. Slot 256 stands for no slot. -/
def jobOf (b : List Byte) (entry : Nat) (t : Tags) (cask desc at_ : Nat) : CphJob :=
  let f (o n : Nat) : Nat := leNat (slice b o n)
  { entry, tid := t.tid, w := t.w, cask, desc, descAt := at_
    op := f 0 1, mode := f 1 1, slot := f 2 1, flags := f 3 1, ctx := f 4 1, dstSlot := f 5 1, keyLen := f 6 1
    tagLen := f 7 1, srcLen := f 8 4, aadLen := f 0xC 4, src := f 0x10 8, dst := f 0x18 8, aad := f 0x20 8
    iv := slice b 0x28 16, attr := wd (f 0x38 4) }

/-- An accepted job takes its place: it holds its slot, or waits behind a pending change of it; a descriptor whose OP does
not exist ends with RANGE. -/
def State.jobPlace (s : State) (j : CphJob) : State :=
  let j := { j with slot := if j.continues then (match s.ctxOf j j.ctx with | some c => c.slot | none => 256)
                            else if j.op = 6 || j.op = 7 then 256 else j.slot
                    ctx := if j.continues then j.ctx else 255 }
  let waits := !j.continues && j.slot != 256 && s.slState j.slot = 2
  let phase : JobPhase := if j.op = 0 || 7 < j.op then .ended .range 0 0 else if waits then .waiting s.ticks else .active
  { s with cph := { s.cph with jobs := s.cph.jobs ++ [{ j with phase := phase }] } }

/-- The checks of a submission that do not concern the descriptor's place, and its acceptance (R510, R611). -/
def State.cphAccept (s : State) (t : Tags) (cask desc at_ : Nat) : Ans :=
  if s.ckItem cask != 16 then (.length, s)
  else if !s.ckEn cask || !s.ckProdIs cask 1 then (.conflict, s)
  else if !s.sliceAdmits .cphJob t.tid then (.conflict, s.sliceDeny t.tid t.w)
  else match firstBelow 64 fun k => !s.cph.jobs.any fun j => j.entry == k with
    | none => (.conflict, s)
    | some k =>
      if s.anyBad at_ 64 then (.eccUncorr, s.busEcc at_)
      else (.done, s.jobPlace (jobOf (s.ldBytes at_ 64) k t cask desc at_))

/-- A submission from a core: the descriptor lies in system SRAM (R611, R626). -/
def State.cphSubmit (s : State) (t : Tags) (v : DWord) : Ans :=
  let a := fld v 47 0
  if s.resetting t.tid then (.aborted, s)
  else if !s.tenantOn t.tid then (.access, s)
  else if sramSpan a 64 && !s.mayRead t a 64 then s.deny t a
  else if !sramSpan a 64 then (.range, s)
  else if a % 8 != 0 then (.align, s)
  else s.cphAccept t (fld v 56 48) a a

/-- A store to CPH_SUBMIT. -/
def execCphSubmit (a : Acc) (v : DWord) (s : State) : Out :=
  s.cfgWrite a cphBase (.cphSubmit a v) fun t s => s.cphSubmit t v

/-! ### Running a job -/

/-- A mismatch of the two datapaths (R616): counted, 0x3044, and 0x3045 at the third within 1 s. -/
def State.cphMismatch (s : State) (j : CphJob) : State :=
  let l := (s.ticks :: s.cph.mismatches.filter fun t => s.ticks - t < 500000000).take 3
  let s := (s.bump (cphBase + 8) 23 16).report 0x3044 j.obj j.desc j.tid j.w
  let s := { s with cph := { s.cph with mismatches := l } }
  if l.length = 3 then s.report 0x3045 j.obj j.desc j.tid j.w else s

/-- Run job `k` when it is active with one of the operations `ops` and no earlier job of its context is unfinished. -/
def State.jobRun (s : State) (k : Nat) (op : Nat) (f : CphJob → State → State) : State :=
  if !(s.logicOn && s.accepts 8) then s
  else match s.job k with
    | none => s
    | some j =>
      let first := s.cph.jobs.find? fun x => x.ctx == j.ctx && (match x.phase with | .active => true | _ => false)
      match j.phase with
      | .active => if j.op = op && (j.ctx = 255 || first == some j) then f j s else s
      | _ => s

/-- A free context for job `j`: its number, or the CONFLICT that a full slice or engine gives. -/
def State.ctxAlloc (s : State) (j : CphJob) (c : CphCtx) : Option Nat × State :=
  if !s.sliceAdmits .cphCtx j.tid then (none, s.sliceDeny j.tid j.w)
  else match firstBelow 64 fun k => (s.ctx k).isNone with
    | none => (none, s)
    | some k => (some k, s.setCtx k (some c))

/-- The context a job works in: a new one, or the one it continues. -/
def State.jobCtx (s : State) (j : CphJob) : Option CphCtx :=
  if j.flag 1 then
    some { tid := j.tid, w := j.w, mode := if j.op = 2 then 5 else j.mode, flags := j.flags, slot := j.slot, gen := (s.slot j.slot).gen }
  else s.ctxOf j j.ctx

/-- Lengths of R613 for a mode. -/
def lengthOk (j : CphJob) (c : CphCtx) : Bool :=
  let whole := j.srcLen % 16 = 0
  if c.mode = 0 || c.mode = 1 then whole
  else if c.mode = 3 then j.flag 1 && j.flag 2 && 16 ≤ j.srcLen && j.srcLen ≤ 16777216
  else (whole || j.flag 2) && (c.mode != 4 || j.flag 1 || j.aadLen = 0) && (c.mode != 4 || c.bytes + j.srcLen ≤ 2 ^ 36 - 32)

/-- A tag length is in range where a tag is due. -/
def tagOk (j : CphJob) (c : CphCtx) : Bool :=
  !j.flag 2 || (if c.mode = 4 then 12 ≤ j.tagLen && j.tagLen ≤ 16 else if c.mode = 5 then 4 ≤ j.tagLen && j.tagLen ≤ 16 else true)

/-- Attribute that a context's work needs, and sizes of R614. -/
def State.jobKey (s : State) (c : CphCtx) : Option Status :=
  let dec := c.flags.testBit 0
  match s.keyStatus c.slot (if c.mode = 5 then 2 else if dec then 1 else 0) with
  | some st => some st
  | none =>
    let size := s.slSize c.slot
    if (if c.mode = 3 then size < 2 else size = 3) then some .keyUsage
    else if c.mode = 4 && !dec && !persistent c.slot && !(192 ≤ c.slot && s.slAttr c.slot 10) then some .keyUsage
    else none

/-- Bytes a CIPHER or CMAC job reads at SRC and at DST, and writes at DST: tags included. -/
def CphJob.spans (j : CphJob) (c : CphCtx) : Nat × Nat × Nat :=
  let dec := c.flags.testBit 0
  let tag := if j.flag 2 then j.tagLen else 0
  if c.mode = 4 then (if dec then (j.srcLen + tag, 0, j.srcLen) else (j.srcLen, 0, j.srcLen + tag))
  else if c.mode = 5 then (if dec then (j.srcLen, tag, 0) else (j.srcLen, 0, tag))
  else (j.srcLen, 0, j.srcLen)

/-- Every check of a CIPHER or CMAC job but those of the context's allocation (R42, R591, R593, R612, R613, R622). -/
def State.jobCheck (s : State) (j : CphJob) (c : CphCtx) : Option Status :=
  let sp := j.spans c
  let aad := if c.mode = 4 && j.flag 1 then j.aadLen else 0
  let bus := worst [s.busStatus j.tags j.src sp.1 false, s.busStatus j.tags j.dst sp.2.1 false,
    s.busStatus j.tags j.dst sp.2.2 true, s.busStatus j.tags j.aad aad false]
  if j.flag 1 && !s.slotMay j.tags j.slot then some .access
  else if bus = some .access then bus
  else if 5 < c.mode || (j.op = 1) != (c.mode != 5) || !tagOk j c || bus.isSome then some .range
  else if !lengthOk j c then some .length
  else none

/-- Take the GCM encryption IV of a new message (R620–R622). -/
def State.takeIv (s : State) (j : CphJob) : List Byte × State :=
  let x := s.slot j.slot
  let iv := beBytes 4 x.ivFixed.toNat ++ beBytes 8 x.inv
  let s := s.setSlot j.slot { x with inv := (x.inv + 1) % 2 ^ 64 }
  let s := if x.inv = 2 ^ 64 - 1 then (s.wb (slA j.slot 8) 3 true).report 0x3046 j.slot j.desc j.tid j.w else s
  (iv, s.stBytes (j.descAt + 0x28) iv)

/-- The context as a FIRST job starts it, with an IV for GCM. -/
def ctxStart (c : CphCtx) (key iv aad : List Byte) : CphCtx :=
  if c.mode = 4 then
    { c with j0 := gcmJ0 (iv.take 12), chain := ctrInc true (gcmJ0 (iv.take 12)), aad := aad.length, ghash := ghash (gcmH key) 0 aad }
  else if c.mode = 5 then { c with chain := List.replicate 16 0 }
  else { c with chain := iv }

/-- One job's data through a context: the bytes it puts out, and the context after it. -/
def ctxStep (c : CphCtx) (key b : List Byte) : List Byte × CphCtx :=
  let dec := c.flags.testBit 0
  let n := c.bytes + b.length
  if c.mode = 0 then (ecb (if dec then aesDec key else aesEnc key) b, { c with bytes := n })
  else if c.mode = 1 then
    let r := if dec then cbcDec key c.chain b else cbcEnc key c.chain b
    (r.1, { c with bytes := n, chain := r.2 })
  else if c.mode = 2 then
    let r := ctr false key c.chain b
    (r.1, { c with bytes := n, chain := r.2 })
  else if c.mode = 3 then (xts dec key c.chain b, { c with bytes := n })
  else if c.mode = 4 then
    let r := ctr true key c.chain b
    (r.1, { c with bytes := n, chain := r.2, ghash := ghash (gcmH key) c.ghash (if dec then b else r.1) })
  else
    let m := c.part ++ b
    let k := beforeLast m.length
    ([], { c with bytes := n, chain := cmacChain key c.chain (m.take k), part := m.drop k })

/-- The tag of the whole message. -/
def ctxTag (c : CphCtx) (key : List Byte) (n : Nat) : List Byte :=
  (if c.mode = 4 then gcmTag key c.j0 c.ghash c.aad c.bytes else cmacEnd key c.chain c.part).take n

/-- Data moves: output and tags are written, contexts advance (R614, R615). -/
def State.jobMove (s : State) (j : CphJob) (c : CphCtx) : State :=
  let key := (s.slot c.slot).key
  let r := ctxStep c key (s.ldBytes j.src j.srcLen)
  let s := if j.ctx = 255 then s else s.setCtx j.ctx (some r.2)
  let dec := c.flags.testBit 0
  let tag := ctxTag r.2 key j.tagLen
  if c.mode = 4 && j.flag 2 then
    if dec then
      if tag = s.ldBytes (j.src + j.srcLen) j.tagLen then (s.memPut j.dst r.1).jobEnd j .done 1 j.srcLen
      else (s.memPut j.dst (List.replicate j.srcLen 0)).jobEnd j .done 2 j.srcLen
    else (s.memPut j.dst (r.1 ++ tag)).jobEnd j .done 0 (j.srcLen + j.tagLen)
  else if c.mode = 5 then
    if !j.flag 2 then s.jobEnd j .done
    else if dec then s.jobEnd j .done (if tag = s.ldBytes j.dst j.tagLen then 1 else 2) 0
    else (s.memPut j.dst tag).jobEnd j .done 0 j.tagLen
  else (s.memPut j.dst r.1).jobEnd j .done 0 j.srcLen

/-- The parity of the tags fails at the target of a job's access to address `a` (R20). -/
def State.jobParity (s : State) (j : CphJob) (a : Nat) : State := (s.reportAt 0x0006 a j.tags).jobEnd j .access

/-- A CIPHER or CMAC job. -/
def State.runCipher (s : State) (j : CphJob) (mismatch tagFail : Bool) : State :=
  match s.jobCtx j with
  | none => s.jobEnd { j with ctx := 255 } .access
  | some c =>
    let sp := j.spans c
    let gcmEnc := c.mode = 4 && !c.flags.testBit 0 && j.flag 1
    match s.jobCheck j c with
    | some st => s.jobEnd j st
    | none =>
      let al := if j.flag 1 then s.ctxAlloc j c else (some j.ctx, s)
      match al.1 with
      | none => al.2.jobEnd j .conflict
      | some k =>
        let x := s.slot j.slot
        match s.jobKey c with
        | some st => al.2.jobEnd { j with ctx := k } st
        | none =>
          if gcmEnc && s.rb (slA j.slot 8) 3 then al.2.jobEnd { j with ctx := k } .keyExhausted
          else if gcmEnc && persistent j.slot && x.resv ≤ x.inv then s.setJob { j with phase := .invWait }
          else
            let s := al.2
            let j := { j with ctx := k }
            let aadLen := if c.mode = 4 && j.flag 1 then j.aadLen else 0
            if tagFail && sp.1 + aadLen + sp.2.1 != 0 then
              s.jobParity j (if sp.1 != 0 then j.src else if aadLen != 0 then j.aad else j.dst)
            else if s.anyBad j.src sp.1 then (s.busEcc j.src).jobEnd j .eccUncorr
            else if s.anyBad j.aad aadLen then (s.busEcc j.aad).jobEnd j .eccUncorr
            else if s.anyBad j.dst sp.2.1 then (s.busEcc j.dst).jobEnd j .eccUncorr
            else
              let p := if gcmEnc then s.takeIv j else (j.iv, s)
              if mismatch then (p.2.cphMismatch j).jobEnd j .fault
              else p.2.jobMove j (if j.flag 1 then ctxStart c (s.slot c.slot).key p.1 (s.ldBytes j.aad aadLen) else c)

/-- A CIPHER job. -/
def execCphCipher (j : Fin 64) (mismatch : Bool) (s : State) (tagFail : Bool := false) : Out :=
  .next (s.jobRun j 1 fun j s => s.runCipher j mismatch tagFail)

/-- A CMAC job. -/
def execCphCmac (j : Fin 64) (mismatch : Bool) (s : State) (tagFail : Bool := false) : Out :=
  .next (s.jobRun j 2 fun j s => s.runCipher j mismatch tagFail)

/-! ### Derivation, import, erase (R607–R610) -/

/-- The submitter holds volatile slot DST_SLOT. -/
def State.dstHeld (s : State) (j : CphJob) : Bool := 192 ≤ j.dstSlot && s.slotMay j.tags j.dstSlot

/-- ATTR and KEY_LEN of a derived or imported key agree, and TRANSPORT is not asked for. -/
def fillAttr (j : CphJob) : Bool := !bit j.attr 7 && fld j.attr 9 8 == sizeOf j.keyLen

/-- A DERIVE job (R609). -/
def State.runDerive (s : State) (j : CphJob) (mismatch tagFail : Bool) : State :=
  let bus := s.busStatus j.tags j.aad (min j.aadLen 65) false
  if !s.slotMay j.tags j.slot || !s.dstHeld j || bus = some .access then s.jobEnd j .access
  else if sizeOf j.keyLen = 4 || bus.isSome then s.jobEnd j .range
  else if 64 < j.aadLen then s.jobEnd j .length
  else match s.keyStatus j.slot 3 with
    | some st => s.jobEnd j st
    | none =>
      if s.slSize j.slot != 2 || !fillAttr j then s.jobEnd j .keyUsage
      else if tagFail && j.aadLen != 0 then s.jobParity j j.aad
      else if s.anyBad j.aad j.aadLen then (s.busEcc j.aad).jobEnd j .eccUncorr
      else
        let seq := (s.kst.epochSeq + 1) % 2 ^ 64
        let s := if j.flag 3 then { s with kst := { s.kst with epochSeq := seq } } else s
        let context := s.ldBytes j.aad j.aadLen ++ (if j.flag 3 then beBytes 8 s.boot.startCount ++ beBytes 8 seq else [])
        if mismatch then (s.cphMismatch j).jobEnd j .fault
        else
          let f : SlotFill := { key := kdf (s.slot j.slot).key j.iv context j.keyLen, parent := some j.slot
                                attr := wd (fld j.attr 9 0 + (j.flag 3).toNat * 1024) }
          (s.jobEnd j .done).slotStage j.dstSlot f

/-- A DERIVE job. -/
def execCphDerive (j : Fin 64) (mismatch : Bool) (s : State) (tagFail : Bool := false) : Out :=
  .next (s.jobRun j 3 fun j s => s.runDerive j mismatch tagFail)

/-- An IMPORT job (R610). -/
def State.runImport (s : State) (j : CphJob) (mismatch tagFail : Bool) : State :=
  let bus := s.busStatus j.tags j.src j.srcLen false
  if !s.slotMay j.tags j.slot || !s.dstHeld j || bus = some .access then s.jobEnd j .access
  else if sizeOf j.keyLen = 4 || bus.isSome then s.jobEnd j .range
  else if j.srcLen != j.keyLen + 8 then s.jobEnd j .length
  else match s.keyStatus j.slot 4 with
    | some st => s.jobEnd j st
    | none =>
      if s.slSize j.slot = 3 || !fillAttr j then s.jobEnd j .keyUsage
      else if tagFail then s.jobParity j j.src
      else if s.anyBad j.src j.srcLen then (s.busEcc j.src).jobEnd j .eccUncorr
      else if mismatch then (s.cphMismatch j).jobEnd j .fault
      else match kwUnwrap (s.slot j.slot).key (s.ldBytes j.src j.srcLen) with
        | none => s.jobEnd j .keyUsage
        | some key => (s.jobEnd j .done).slotStage j.dstSlot { key := key, attr := wd (fld j.attr 9 0) }

/-- An IMPORT job. -/
def execCphImport (j : Fin 64) (mismatch : Bool) (s : State) (tagFail : Bool := false) : Out :=
  .next (s.jobRun j 4 fun j s => s.runImport j mismatch tagFail)

/-- An ERASE job: its holder erases a volatile slot. -/
def execCphErase (j : Fin 64) (s : State) : Out :=
  .next (s.jobRun j 7 fun j s => if s.dstHeld j then (s.jobEnd j .done).slotErase j.dstSlot else s.jobEnd j .access)

/-! ### Saved contexts (R617–R619) -/

/-- A context in clear. -/
def CphCtx.bytesOf (c : CphCtx) : List Byte :=
  leBytes 1 c.mode ++ leBytes 1 c.flags ++ leBytes 1 c.slot ++ [0] ++ leBytes 4 c.gen ++ leBytes 8 c.bytes ++ leBytes 8 c.aad
    ++ padTo 16 c.chain ++ beBytes 16 c.ghash ++ padTo 16 c.j0 ++ padTo 16 c.part ++ List.replicate 8 0

/-- The context that 96 bytes spell, for tags. -/
def CphCtx.ofBytes (b : List Byte) (t : Tags) : CphCtx :=
  let n := leNat (slice b 8 8)
  let mode := (byteAt b 0).toNat
  { tid := t.tid, w := t.w, mode := mode, flags := (byteAt b 1).toNat, slot := (byteAt b 2).toNat, gen := leNat (slice b 4 4)
    bytes := n, aad := leNat (slice b 0x10 8), chain := slice b 0x18 16, ghash := beNat (slice b 0x28 16)
    j0 := slice b 0x38 16, part := if mode = 5 && n != 0 then slice b 0x48 16 else [] }

/-- A GCM encryption context. -/
def CphCtx.gcmEnc (c : CphCtx) : Bool := c.mode = 4 && !c.flags.testBit 0

/-- A SAVE job (R617, R619). -/
def State.runSave (s : State) (j : CphJob) (mismatch tagFail : Bool) : State :=
  let n := if j.flag 4 then 120 else 96
  match s.ctxOf j j.ctx with
  | none => s.jobEnd { j with ctx := 255 } .access
  | some c =>
    let keep := { j with ctx := 255 }
    match s.busStatus j.tags j.dst n true with
    | some st => s.jobEnd j st
    | none =>
      if j.flag 4 && c.gcmEnc && 256 ≤ s.cph.tickets.length then s.jobEnd keep .conflict
      else if c.mode = 4 && !j.flag 4 then s.jobEnd keep .keyUsage
      else if tagFail then s.jobParity j j.dst
      else if mismatch then (s.cphMismatch j).jobEnd j .fault
      else if !j.flag 4 then ((s.memPut j.dst c.bytesOf).setCtx j.ctx none).jobEnd j .done 0 96
      else
        let ticket := if c.gcmEnc then s.cph.nextTicket else 0
        let s := if c.gcmEnc then { s with cph := { s.cph with
            tickets := s.cph.tickets ++ [ticket], nextTicket := (ticket + 1) % 2 ^ 32 } } else s
        let b := c.bytesOf ++ leBytes 8 s.boot.startCount ++ [j.tid, BitVec.ofNat 8 j.w.toNat, 0, 0] ++ leBytes 4 ticket
        ((s.memPut j.dst (kwWrap (s.slot 1).key b)).setCtx j.ctx none).jobEnd j .done 0 120

/-- A SAVE job. -/
def execCphSave (j : Fin 64) (mismatch : Bool) (s : State) (tagFail : Bool := false) : Out :=
  .next (s.jobRun j 5 fun j s => s.runSave j mismatch tagFail)

/-- Bind a restored context (R618). -/
def State.rebind (s : State) (j : CphJob) (c : CphCtx) (ticket : Option Nat) : State :=
  if !s.slotMay j.tags c.slot then s.jobEnd j .access
  else if (s.slot c.slot).gen % 2 ^ 32 != c.gen then s.jobEnd j .keyRevoked
  else if s.slState c.slot = 2 then s.setJob { j with slot := c.slot, phase := .waiting s.ticks }
  else
    let r := s.ctxAlloc j { c with gen := (s.slot c.slot).gen }
    match r.1 with
    | none => r.2.jobEnd j .conflict
    | some k =>
      let s := match ticket with
        | some x => { r.2 with cph := { r.2.cph with tickets := r.2.cph.tickets.filter (· != x) } }
        | none => r.2
      s.jobEnd { j with ctx := k } .done

/-- A RESTORE job (R618, R619). A GCM context in clear is no saved context. -/
def State.runRestore (s : State) (j : CphJob) (mismatch tagFail : Bool) : State :=
  let n := if j.flag 4 then 120 else 96
  match s.busStatus j.tags j.src n false with
  | some st => s.jobEnd j st
  | none =>
    if j.srcLen != n then s.jobEnd j .length
    else if tagFail then s.jobParity j j.src
    else if s.anyBad j.src n then (s.busEcc j.src).jobEnd j .eccUncorr
    else if mismatch then (s.cphMismatch j).jobEnd j .fault
    else if !j.flag 4 then
      let c := CphCtx.ofBytes (s.ldBytes j.src 96) j.tags
      if c.mode = 4 || 5 < c.mode then s.jobEnd j .keyUsage else s.rebind j c none
    else match kwUnwrap (s.slot 1).key (s.ldBytes j.src 120) with
      | none => s.jobEnd j .keyUsage
      | some b =>
        let c := CphCtx.ofBytes b j.tags
        let ticket := leNat (slice b 0x6C 4)
        if byteAt b 0x68 != j.tid || byteAt b 0x69 != BitVec.ofNat 8 j.w.toNat then s.jobEnd j .access
        else if leNat (slice b 0x60 8) != s.boot.startCount then s.jobEnd j .keyUsage
        else if c.gcmEnc && !s.cph.tickets.contains ticket then s.jobEnd j .keyUsage
        else s.rebind j c (if c.gcmEnc then some ticket else none)

/-- A RESTORE job. -/
def execCphRestore (j : Fin 64) (mismatch : Bool) (s : State) (tagFail : Bool := false) : Out :=
  .next (s.jobRun j 6 fun j s => s.runRestore j mismatch tagFail)

/-! ### Completions (R611, R612, R626) -/

/-- The completion item. -/
def CphJob.item (j : CphJob) (st : Status) (auth out : Nat) : List Byte :=
  leBytes 8 j.desc ++ leBytes 1 st.code ++ leBytes 1 j.op ++ leBytes 1 j.ctx ++ leBytes 1 auth ++ leBytes 4 out

def State.dropJob (s : State) (k : Nat) : State :=
  { s with cph := { s.cph with jobs := s.cph.jobs.filter fun j => j.entry != k } }

/-- A completion of job `j` is dropped and counted (CPH_STAT.CDROP). -/
def State.jobLost (s : State) (j : CphJob) : State :=
  ((s.bump (cphBase + 8) 31 24).dropJob j.entry).report 0x3049 j.obj j.desc j.tid j.w

/-- The job posts its completion, and frees its context when it is the last or did not complete with DONE. -/
def State.jobPost (s : State) (j : CphJob) : State :=
  match j.phase with
  | .ended st auth out =>
    let s := if j.ctx != 255 && (j.flag 2 || st != .done) && (j.op = 1 || j.op = 2 || j.op = 5) then s.setCtx j.ctx none else s
    s.hwPut j.cask (j.item st auth out) (·.dropJob j.entry) (·.jobLost j)
      fun s => s.setJob { j with phase := .posting st auth out s.ticks }
  | .posting st auth out _ => s.hwPut j.cask (j.item st auth out) (·.dropJob j.entry) (·.jobLost j) id
  | _ => s

/-- Job `j` ends and its completion is posted. -/
def execCphJobComplete (j : Fin 64) (s : State) : Out :=
  .next (match s.job j with | some x => if s.logicOn && s.accepts 8 then s.jobPost x else s | none => s)

/-- A job has waited 10 ms behind a pending change (R606). -/
def execCphPendingTimeout (j : Fin 64) (s : State) : Out :=
  .next (match s.job j with
    | some x =>
      match x.phase with
      | .waiting t =>
        if s.logicOn && s.accepts 8 && 5000000 ≤ s.ticks - t
        then (s.jobEnd x .timeout).report 0x3048 x.slot x.desc x.tid x.w else s
      | _ => s
    | none => s)

/-- A completion has found no room for 1 ms. -/
def execCphCompletionDrop (j : Fin 64) (s : State) : Out :=
  .next (match s.job j with
    | some x =>
      match x.phase with
      | .posting _ _ _ t =>
        if s.logicOn && s.accepts 8 && 500000 ≤ s.ticks - t && !(s.ckEn x.cask && s.ckRoom x.cask)
        then s.jobLost x else s
      | _ => s
    | none => s)

/-- Stop jobs that satisfy `p`: each ends with ABORTED; those that had ended keep their status. -/
def State.cphAbort (s : State) (p : CphJob → Bool) : State :=
  let stop (j : CphJob) : CphJob := match j.phase with
    | .ended _ _ _ => j
    | .posting _ _ _ _ => j
    | _ => { j with phase := .ended .aborted 0 0 }
  { s with cph := { s.cph with jobs := s.cph.jobs.map fun j => if p j then stop j else j } }

/-- Post what has ended. -/
def State.cphPostAll (s : State) : State := s.cph.jobs.foldl State.jobPost s

end Sys2Proof.Machine
end

