-- ==== Sys2Proof/Machine/EngineAlu.lean ====
section
/-!
DEFINITION. The engine instructions that stay within a thread, its memories and its program counter: register and immediate
ALU, CRC step, loads, stores, bit fields, branches and jumps (R271–R286).
-/

namespace Sys2Proof.Machine

/-- Issue `w` and write wd from the values of wa and wb. -/
def State.alu2 (s : State) (e t : Nat) (w : Word) (d a b : Nat) (f : Word → Word → Word × (Fl → Fl)) : State :=
  s.issue e t w fun s =>
    let r := f (s.qreg e t a) (s.qreg e t b)
    s.result e t d r.1 (r.2 (s.flags e t))

/-- Issue `w` and write wd from the value of wa. -/
def State.alu1 (s : State) (e t : Nat) (w : Word) (d a : Nat) (f : Word → Word × (Fl → Fl)) : State :=
  s.issue e t w fun s =>
    let r := f (s.qreg e t a)
    s.result e t d r.1 (r.2 (s.flags e t))

/-- A result with Z and N from it, C and V cleared. -/
def zn00 (r : Word) : Word × (Fl → Fl) := (r, Fl.zn00 r)
/-- A clamped result with the flags of SAT. -/
def satOf (v lo hi : Int) : Word × (Fl → Fl) := let r := clampW v lo hi; (r.1, Fl.sat r.1 r.2)
/-- A shift with the flags of ZNC0. -/
def shiftOf (kind : Nat) (x : Word) (n : Nat) : Word × (Fl → Fl) := let r := shift kind x n; (r.1, Fl.znc0 r.1 r.2)
/-- A division result with Z and N from it, C cleared and V as R279 gives. -/
def divOf (signed rem : Bool) (x y : Word) : Word × (Fl → Fl) :=
  let r := divide signed x y
  let v := if rem then r.2.1 else r.1
  (v, Fl.zncv v false r.2.2)

/-! ### Register ALU (R278, R279) -/

/-- add: a + b, ZNCV. -/
def execAdd (e : Eng) (t : Thr) (d a b : QReg) (s : State) : Out :=
  .next (s.alu2 e t (qA 0 d a b 0) d a b fun x y => (x + y, Fl.add x y))

/-- adds: the signed sum, saturated. -/
def execAdds (e : Eng) (t : Thr) (d a b : QReg) (s : State) : Out :=
  .next (s.alu2 e t (qA 0 d a b 1) d a b fun x y => satOf (x.toInt + y.toInt) minS maxS)

/-- addsu: the unsigned sum, saturated. -/
def execAddsu (e : Eng) (t : Thr) (d a b : QReg) (s : State) : Out :=
  .next (s.alu2 e t (qA 0 d a b 2) d a b fun x y => satOf (x.toNat + y.toNat) 0 4294967295)

/-- sub: a − b, ZNCV. -/
def execSub (e : Eng) (t : Thr) (d a b : QReg) (s : State) : Out :=
  .next (s.alu2 e t (qA 1 d a b 0) d a b fun x y => (x - y, Fl.sub x y))

/-- subs: the signed difference, saturated. -/
def execSubs (e : Eng) (t : Thr) (d a b : QReg) (s : State) : Out :=
  .next (s.alu2 e t (qA 1 d a b 1) d a b fun x y => satOf (x.toInt - y.toInt) minS maxS)

/-- subsu: the unsigned difference, saturated. -/
def execSubsu (e : Eng) (t : Thr) (d a b : QReg) (s : State) : Out :=
  .next (s.alu2 e t (qA 1 d a b 2) d a b fun x y => satOf ((x.toNat : Int) - y.toNat) 0 4294967295)

/-- and: bitwise. -/
def execAnd (e : Eng) (t : Thr) (d a b : QReg) (s : State) : Out :=
  .next (s.alu2 e t (qA 2 d a b 0) d a b fun x y => zn00 (x &&& y))

/-- andn: bitwise. -/
def execAndn (e : Eng) (t : Thr) (d a b : QReg) (s : State) : Out :=
  .next (s.alu2 e t (qA 2 d a b 1) d a b fun x y => zn00 (x &&& ~~~y))

/-- or: bitwise. -/
def execOr (e : Eng) (t : Thr) (d a b : QReg) (s : State) : Out :=
  .next (s.alu2 e t (qA 3 d a b 0) d a b fun x y => zn00 (x ||| y))

/-- orn: bitwise. -/
def execOrn (e : Eng) (t : Thr) (d a b : QReg) (s : State) : Out :=
  .next (s.alu2 e t (qA 3 d a b 1) d a b fun x y => zn00 (x ||| ~~~y))

/-- xor: bitwise. -/
def execXor (e : Eng) (t : Thr) (d a b : QReg) (s : State) : Out :=
  .next (s.alu2 e t (qA 4 d a b 0) d a b fun x y => zn00 (x ^^^ y))

/-- xnor: bitwise. -/
def execXnor (e : Eng) (t : Thr) (d a b : QReg) (s : State) : Out :=
  .next (s.alu2 e t (qA 4 d a b 1) d a b fun x y => zn00 (~~~(x ^^^ y)))

/-- sll: by b[4:0], ZNC0. -/
def execSll (e : Eng) (t : Thr) (d a b : QReg) (s : State) : Out :=
  .next (s.alu2 e t (qA 5 d a b 0) d a b fun x y => shiftOf 0 x (fld y 4 0))

/-- srl: by b[4:0], ZNC0. -/
def execSrl (e : Eng) (t : Thr) (d a b : QReg) (s : State) : Out :=
  .next (s.alu2 e t (qA 5 d a b 1) d a b fun x y => shiftOf 1 x (fld y 4 0))

/-- sra: by b[4:0], ZNC0. -/
def execSra (e : Eng) (t : Thr) (d a b : QReg) (s : State) : Out :=
  .next (s.alu2 e t (qA 5 d a b 2) d a b fun x y => shiftOf 2 x (fld y 4 0))

/-- ror: by b[4:0], ZNC0. -/
def execRor (e : Eng) (t : Thr) (d a b : QReg) (s : State) : Out :=
  .next (s.alu2 e t (qA 5 d a b 3) d a b fun x y => shiftOf 3 x (fld y 4 0))

/-- min: the lesser, signed. -/
def execMin (e : Eng) (t : Thr) (d a b : QReg) (s : State) : Out :=
  .next (s.alu2 e t (qA 6 d a b 0) d a b fun x y => zn00 (if x.slt y then x else y))

/-- max: the greater, signed. -/
def execMax (e : Eng) (t : Thr) (d a b : QReg) (s : State) : Out :=
  .next (s.alu2 e t (qA 6 d a b 1) d a b fun x y => zn00 (if x.slt y then y else x))

/-- minu: the lesser, unsigned. -/
def execMinu (e : Eng) (t : Thr) (d a b : QReg) (s : State) : Out :=
  .next (s.alu2 e t (qA 6 d a b 2) d a b fun x y => zn00 (if x.ult y then x else y))

/-- maxu: the greater, unsigned. -/
def execMaxu (e : Eng) (t : Thr) (d a b : QReg) (s : State) : Out :=
  .next (s.alu2 e t (qA 6 d a b 3) d a b fun x y => zn00 (if x.ult y then y else x))

/-- slt: 1 when a < b, signed. -/
def execSlt (e : Eng) (t : Thr) (d a b : QReg) (s : State) : Out :=
  .next (s.alu2 e t (qA 7 d a b 0) d a b fun x y => zn00 (if x.slt y then 1 else 0))

/-- sltu: 1 when a < b, unsigned. -/
def execSltu (e : Eng) (t : Thr) (d a b : QReg) (s : State) : Out :=
  .next (s.alu2 e t (qA 7 d a b 1) d a b fun x y => zn00 (if x.ult y then 1 else 0))

/-- mul: the low product. -/
def execMul (e : Eng) (t : Thr) (d a b : QReg) (s : State) : Out :=
  .next (s.alu2 e t (qA 8 d a b 0) d a b fun x y => zn00 (x * y))

/-- mulh: the high signed product. -/
def execMulh (e : Eng) (t : Thr) (d a b : QReg) (s : State) : Out :=
  .next (s.alu2 e t (qA 8 d a b 1) d a b fun x y => zn00 (BitVec.ofInt 32 (Int.fdiv (x.toInt * y.toInt) 4294967296)))

/-- mulhu: the high unsigned product. -/
def execMulhu (e : Eng) (t : Thr) (d a b : QReg) (s : State) : Out :=
  .next (s.alu2 e t (qA 8 d a b 2) d a b fun x y => zn00 (wd (x.toNat * y.toNat / 4294967296)))

/-- mulsh: the signed product shifted right by `sh` with round half up, clamped. -/
def execMulsh (e : Eng) (t : Thr) (d a b : QReg) (sh : Fin 32) (s : State) : Out :=
  .next (s.alu2 e t (qA 8 d a b (3 + sh * 16)) d a b fun x y => satOf (mulshRaw x y sh) minS maxS)

/-- div: signed quotient of R279. -/
def execDiv (e : Eng) (t : Thr) (d a b : QReg) (s : State) : Out :=
  .next (s.alu2 e t (qA 9 d a b 0) d a b fun x y => divOf true false x y)

/-- divu: unsigned quotient of R279. -/
def execDivu (e : Eng) (t : Thr) (d a b : QReg) (s : State) : Out :=
  .next (s.alu2 e t (qA 9 d a b 1) d a b fun x y => divOf false false x y)

/-- rem: signed remainder of R279. -/
def execRem (e : Eng) (t : Thr) (d a b : QReg) (s : State) : Out :=
  .next (s.alu2 e t (qA 9 d a b 2) d a b fun x y => divOf true true x y)

/-- remu: unsigned remainder of R279. -/
def execRemu (e : Eng) (t : Thr) (d a b : QReg) (s : State) : Out :=
  .next (s.alu2 e t (qA 9 d a b 3) d a b fun x y => divOf false true x y)

/-- neg: 0 − a, flags as sub. -/
def execNeg (e : Eng) (t : Thr) (d a : QReg) (s : State) : Out :=
  .next (s.alu1 e t (qA 0xA d a 0 0) d a fun x => (0 - x, Fl.sub 0 x))

/-- negs: −a, saturated. -/
def execNegs (e : Eng) (t : Thr) (d a : QReg) (s : State) : Out :=
  .next (s.alu1 e t (qA 0xA d a 0 1) d a fun x => satOf (-x.toInt) minS maxS)

/-- abs: |a|, V set for 0x8000_0000. -/
def execAbs (e : Eng) (t : Thr) (d a : QReg) (s : State) : Out :=
  .next (s.alu1 e t (qA 0xA d a 0 2) d a fun x => (let r := if x.msb then 0 - x else x; (r, Fl.zncv r false (x == 0x80000000))))

/-- abss: |a|, saturated. -/
def execAbss (e : Eng) (t : Thr) (d a : QReg) (s : State) : Out :=
  .next (s.alu1 e t (qA 0xA d a 0 3) d a fun x => satOf x.toInt.natAbs 0 maxS)

/-- clz: leading zero bits, 32 for 0. -/
def execClz (e : Eng) (t : Thr) (d a : QReg) (s : State) : Out :=
  .next (s.alu1 e t (qA 0xA d a 0 4) d a fun x => zn00 (wd (clzN x)))

/-- ctz: trailing zero bits, 32 for 0. -/
def execCtz (e : Eng) (t : Thr) (d a : QReg) (s : State) : Out :=
  .next (s.alu1 e t (qA 0xA d a 0 5) d a fun x => zn00 (wd (ctzN x)))

/-- popc: set bits. -/
def execPopc (e : Eng) (t : Thr) (d a : QReg) (s : State) : Out :=
  .next (s.alu1 e t (qA 0xA d a 0 6) d a fun x => zn00 (wd (popN x)))

/-- rev8: bytes in reverse order. -/
def execRev8 (e : Eng) (t : Thr) (d a : QReg) (s : State) : Out :=
  .next (s.alu1 e t (qA 0xA d a 0 7) d a fun x => zn00 (rev8 x))

/-- sextb: a[7:0], sign-extended. -/
def execSextb (e : Eng) (t : Thr) (d a : QReg) (s : State) : Out :=
  .next (s.alu1 e t (qA 0xA d a 0 8) d a fun x => zn00 (BitVec.ofInt 32 (sext x.toNat 8)))

/-- sexth: a[15:0], sign-extended. -/
def execSexth (e : Eng) (t : Thr) (d a : QReg) (s : State) : Out :=
  .next (s.alu1 e t (qA 0xA d a 0 9) d a fun x => zn00 (BitVec.ofInt 32 (sext x.toNat 16)))

/-- zexth: a[15:0]. -/
def execZexth (e : Eng) (t : Thr) (d a : QReg) (s : State) : Out :=
  .next (s.alu1 e t (qA 0xA d a 0 10) d a fun x => zn00 (wd (fld x 15 0)))

/-- sats: a clamped to n + 1 signed bits; field `x` is not read. -/
def execSats (e : Eng) (t : Thr) (d a : QReg) (n : Fin 32) (x : QReg) (s : State) : Out :=
  .next (s.alu1 e t (qA 0xB d a x (n * 16)) d a fun v => satOf v.toInt (-((2 ^ n.val : Nat) : Int)) ((2 ^ n.val : Nat) - 1))

/-- satu: a clamped to n + 1 unsigned bits; field `x` is not read. -/
def execSatu (e : Eng) (t : Thr) (d a : QReg) (n : Fin 32) (x : QReg) (s : State) : Out :=
  .next (s.alu1 e t (qA 0xB d a x (1 + n * 16)) d a fun v => satOf v.toInt 0 ((2 ^ (n.val + 1) : Nat) - 1))

/-- cmp: the flags of sub. -/
def execCmp (e : Eng) (t : Thr) (a b : QReg) (s : State) : Out :=
  .next (s.alu2 e t (qA 0xC 0 a b 0) 0 a b fun x y => (0, Fl.sub x y))

/-- tst: the flags of and. -/
def execTst (e : Eng) (t : Thr) (a b : QReg) (s : State) : Out :=
  .next (s.alu2 e t (qA 0xC 0 a b 1) 0 a b fun x y => (0, Fl.zn00 (x &&& y)))

/-- crc: the state a advanced by 1, 2 or 4 bytes of b (R281). -/
def execCrcStep (e : Eng) (t : Thr) (d a b : QReg) (poly : Fin 4) (n : Fin 3) (refl : Bool) (s : State) : Out :=
  .next (s.alu2 e t (qA 0xD d a b (poly + n * 4 + refl.toNat * 16)) d a b fun x y => (qCrc poly (2 ^ n.val) refl x y, id))

/-- sel: a when the condition holds, else b. -/
def execSel (e : Eng) (t : Thr) (d a b : QReg) (cond : Fin 15) (s : State) : Out :=
  .next (s.issue e t (qA 0xE d a b cond) fun s =>
    s.result e t d (if (s.flags e t).cond cond then s.qreg e t a else s.qreg e t b) (s.flags e t))

/-! ### Immediate ALU (R280) -/

/-- addi. -/
def execAddi (e : Eng) (t : Thr) (d a : QReg) (imm : BitVec 18) (s : State) : Out :=
  .next (s.alu1 e t (qI 0x10 d a imm.toNat) d a fun x => (x + imms imm, Fl.add x (imms imm)))

/-- andi, zero-extended. -/
def execAndi (e : Eng) (t : Thr) (d a : QReg) (imm : BitVec 18) (s : State) : Out :=
  .next (s.alu1 e t (qI 0x11 d a imm.toNat) d a fun x => zn00 (x &&& immz imm))

/-- ori, zero-extended. -/
def execOri (e : Eng) (t : Thr) (d a : QReg) (imm : BitVec 18) (s : State) : Out :=
  .next (s.alu1 e t (qI 0x12 d a imm.toNat) d a fun x => zn00 (x ||| immz imm))

/-- xori, zero-extended. -/
def execXori (e : Eng) (t : Thr) (d a : QReg) (imm : BitVec 18) (s : State) : Out :=
  .next (s.alu1 e t (qI 0x13 d a imm.toNat) d a fun x => zn00 (x ^^^ immz imm))

/-- slli: by k, ZNC0. -/
def execSlli (e : Eng) (t : Thr) (d a : QReg) (k : Fin 32) (s : State) : Out :=
  .next (s.alu1 e t (qI 0x14 d a (0 + k)) d a fun x => shiftOf 0 x k)

/-- srli: by k, ZNC0. -/
def execSrli (e : Eng) (t : Thr) (d a : QReg) (k : Fin 32) (s : State) : Out :=
  .next (s.alu1 e t (qI 0x14 d a (32 + k)) d a fun x => shiftOf 1 x k)

/-- srai: by k, ZNC0. -/
def execSrai (e : Eng) (t : Thr) (d a : QReg) (k : Fin 32) (s : State) : Out :=
  .next (s.alu1 e t (qI 0x14 d a (64 + k)) d a fun x => shiftOf 2 x k)

/-- rori: by k, ZNC0. -/
def execRori (e : Eng) (t : Thr) (d a : QReg) (k : Fin 32) (s : State) : Out :=
  .next (s.alu1 e t (qI 0x14 d a (96 + k)) d a fun x => shiftOf 3 x k)

/-- lui: imm18 × 2^14. -/
def execLui (e : Eng) (t : Thr) (d : QReg) (imm : BitVec 18) (s : State) : Out :=
  .next (s.alu1 e t (qI 0x15 d 0 imm.toNat) d 0 fun _ => (wd (imm.toNat * 2 ^ 14), id))

/-- cmpi: the flags of a − imm. -/
def execCmpi (e : Eng) (t : Thr) (a : QReg) (imm : BitVec 18) (s : State) : Out :=
  .next (s.alu1 e t (qI 0x16 0 a imm.toNat) 0 a fun x => (0, Fl.sub x (imms imm)))

/-- muli: the low product. -/
def execMuli (e : Eng) (t : Thr) (d a : QReg) (imm : BitVec 18) (s : State) : Out :=
  .next (s.alu1 e t (qI 0x17 d a imm.toNat) d a fun x => zn00 (x * imms imm))

/-! ### Loads and stores (R282) -/

/-- The effective address a + sext(imm18, 18). -/
def State.qaddr (s : State) (e t a : Nat) (imm : BitVec 18) : Nat := (s.qreg e t a + imms imm).toNat

/-- A load of `n` bytes, zero-extended. -/
def State.qload (s : State) (e t : Nat) (w : Word) (d a : Nat) (imm : BitVec 18) (n : Nat) : State :=
  s.issue e t w fun s =>
    let x := s.qaddr e t a imm
    s.dataAccess e t x n n true fun s => s.result e t d (wd (s.ldLE (dmA e x) n)) (s.flags e t)

/-- A store of the `n` low bytes of register `d`. -/
def State.qstore (s : State) (e t : Nat) (w : Word) (d a : Nat) (imm : BitVec 18) (n : Nat) : State :=
  s.issue e t w fun s =>
    let x := s.qaddr e t a imm
    s.dataAccess e t x n n false fun s => (s.stLE (dmA e x) n (s.qreg e t d).toNat).next1 e t

/-- ldb. -/
def execLdb (e : Eng) (t : Thr) (d a : QReg) (imm : BitVec 18) (s : State) : Out :=
  .next (s.qload e t (qI 0x18 d a imm.toNat) d a imm 1)

/-- ldh. -/
def execLdh (e : Eng) (t : Thr) (d a : QReg) (imm : BitVec 18) (s : State) : Out :=
  .next (s.qload e t (qI 0x19 d a imm.toNat) d a imm 2)

/-- ldw. -/
def execLdw (e : Eng) (t : Thr) (d a : QReg) (imm : BitVec 18) (s : State) : Out :=
  .next (s.qload e t (qI 0x1A d a imm.toNat) d a imm 4)

/-- stb. -/
def execStb (e : Eng) (t : Thr) (d a : QReg) (imm : BitVec 18) (s : State) : Out :=
  .next (s.qstore e t (qI 0x1B d a imm.toNat) d a imm 1)

/-- sth. -/
def execSth (e : Eng) (t : Thr) (d a : QReg) (imm : BitVec 18) (s : State) : Out :=
  .next (s.qstore e t (qI 0x1C d a imm.toNat) d a imm 2)

/-- stw. -/
def execStw (e : Eng) (t : Thr) (d a : QReg) (imm : BitVec 18) (s : State) : Out :=
  .next (s.qstore e t (qI 0x1D d a imm.toNat) d a imm 4)

/-! ### Bit fields (R283, R284); `len` holds the length less 1 -/

/-- The imm18 of a bit-field instruction. -/
def bfImm (pos len : Nat) (be signed : Bool) : Nat := pos + len * 2 ^ 11 + be.toNat * 2 ^ 16 + signed.toNat * 2 ^ 17

/-- Run a bit-field access: every byte of the field's span must lie within one range of R227. The access is given the
data-memory address of the span's first byte. -/
def State.bfAccess (s : State) (e t a pos len : Nat) (be : Bool) (f : Nat → State → State) : State :=
  let p := bfSpan be pos (len + 1)
  let x := ((s.qreg e t a).toNat + p.1) % 2 ^ 32
  s.dataAccess e t x (p.2 + 1 - p.1) 1 true (f x)

/-- The field whose span starts at data-memory address `x`. -/
def State.bfValue (s : State) (e x pos len : Nat) (be : Bool) : Nat :=
  let p := bfSpan be pos (len + 1)
  bfRead (fun o => s.ldb (dmA e (x + o - p.1))) be pos (len + 1)

/-- bfx: the field, zero-extended. -/
def execBfx (e : Eng) (t : Thr) (d a : QReg) (pos : Fin 2048) (len : Fin 32) (be : Bool) (s : State) : Out :=
  .next (s.issue e t (qI 0x1E d a (bfImm pos len be false)) fun s =>
    s.bfAccess e t a pos len be fun x s => s.result e t d (wd (s.bfValue e x pos len be)) (s.flags e t))

/-- bfxs: the field, sign-extended. -/
def execBfxs (e : Eng) (t : Thr) (d a : QReg) (pos : Fin 2048) (len : Fin 32) (be : Bool) (s : State) : Out :=
  .next (s.issue e t (qI 0x1E d a (bfImm pos len be true)) fun s =>
    s.bfAccess e t a pos len be fun x s =>
      s.result e t d (BitVec.ofInt 32 (sext (s.bfValue e x pos len be) (len + 1))) (s.flags e t))

/-- bfi: the low bits of register `d` into the field, every other bit unchanged. -/
def execBfi (e : Eng) (t : Thr) (d a : QReg) (pos : Fin 2048) (len : Fin 32) (be : Bool) (s : State) : Out :=
  .next (s.issue e t (qI 0x1F d a (bfImm pos len be false)) fun s =>
    s.bfAccess e t a pos len be fun x s =>
      let p := bfSpan be pos (len + 1)
      let bytes := (List.range (p.2 + 1 - p.1)).map fun i =>
        bfByte be pos (len + 1) (s.qreg e t d) (p.1 + i) (s.ldb (dmA e (x + i)))
      (s.stBytes (dmA e x) bytes).next1 e t)

/-! ### Branches and jumps (R274, R285, R286) -/

/-- A branch target: PC + imm22, modulo 16,384. -/
def target (pc : Nat) (off : BitVec 22) : Nat := (((pc : Int) + off.toInt) % 16384).toNat

/-- Branch when `taken`. -/
def State.branch (s : State) (e t : Nat) (off : BitVec 22) (taken : Bool) : State :=
  s.retire e t (if taken then target (s.qpc e t) off else s.qpc e t + 1)

/-- bcond. -/
def execBcond (e : Eng) (t : Thr) (cond : Fin 15) (off : BitVec 22) (s : State) : Out :=
  .next (s.issue e t (qK 0x20 cond off.toNat) fun s => s.branch e t off ((s.flags e t).cond cond))

/-- bl: w15 := PC + 1, then branch. -/
def execBl (e : Eng) (t : Thr) (off : BitVec 22) (s : State) : Out :=
  .next (s.issue e t (qK 0x20 15 off.toNat) fun s =>
    (s.setQreg e t 15 (wd ((s.qpc e t + 1) % 16384))).branch e t off true)

/-- jalr: a is read before wd is written. -/
def execJalr (e : Eng) (t : Thr) (d a : QReg) (imm : BitVec 18) (s : State) : Out :=
  .next (s.issue e t (qI 0x21 d a imm.toNat) fun s =>
    (s.setQreg e t d (wd ((s.qpc e t + 1) % 16384))).retire e t (s.qaddr e t a imm))

/-- cbz: branch when register d is 0. -/
def execCbz (e : Eng) (t : Thr) (d : QReg) (off : BitVec 22) (s : State) : Out :=
  .next (s.issue e t (qK 0x22 d off.toNat) fun s => s.branch e t off (s.qreg e t d == 0))

/-- cbnz: branch when register d is not 0. -/
def execCbnz (e : Eng) (t : Thr) (d : QReg) (off : BitVec 22) (s : State) : Out :=
  .next (s.issue e t (qK 0x23 d off.toNat) fun s => s.branch e t off (s.qreg e t d != 0))

/-- dbnz: d := d − 1, branch when the new d is not 0; w0 is ILLEGAL. -/
def execDbnz (e : Eng) (t : Thr) (d : QReg) (off : BitVec 22) (s : State) : Out :=
  .next (s.issue e t (qK 0x24 d off.toNat) fun s =>
    let v := s.qreg e t d - 1
    (s.setQreg e t d v).branch e t off (v != 0))

end Sys2Proof.Machine
end

