-- ==== Sys2Proof/Machine/LinBus.lean ====
section
/-!
DEFINITION. The LIN controllers: headers, responses, the commander schedule, wake-up signals, and the write rules of the LIN
page (R386–R396).
-/

namespace Sys2Proof.Machine

def State.linMode (s : State) (n : Nat) : Nat := s.rf (linA n 0) 1 0
def State.linEvt (s : State) (n b : Nat) : State := s.wb (linA n 0xC) b true
def State.linCnt (s : State) (n k : Nat) : State := s.bump (linA n (0x30 + k * 4)) 31 0
/-- Word `w` of the response entry of identifier `f`. -/
def rspA (n f w : Nat) : Nat := linA n (0x200 + f * 8 + w * 4)
/-- Schedule entry `j`. -/
def schA (n j : Nat) : Nat := linA n (0x100 + j * 4)

/-- The protected identifier of `f`: parity bits P0 and P1 above it (ISO 17987-3). -/
def linPid (f : Nat) : Nat :=
  let b := fun i => f / 2 ^ i % 2
  f % 64 + (b 0 + b 1 + b 2 + b 4) % 2 * 64 + (1 + b 1 + b 3 + b 4 + b 5) % 2 * 128

/-- The inverted sum with carry of a checksum (ISO 17987-3): classic over the data, enhanced over identifier and data. -/
def linChecksum (classic : Bool) (pid : Nat) (data : List Byte) : Byte :=
  let add := fun (n : Nat) (b : Byte) => let x := n + b.toNat; if 256 ≤ x then x - 255 else x
  ~~~(BitVec.ofNat 8 (data.foldl add (if classic then 0 else pid)))

/-- The transmitter is on: neither timed out nor on a dominant bus. -/
def State.linTxOn (s : State) (n : Nat) : Bool := s.rf (linA n 8) 4 3 == 0

/-- A frame ends in error `err` (R388). -/
def State.linError (s : State) (n err : Nat) : State :=
  let s := (s.wf (linA n 8) 19 16 err).wf (linA n 8) 1 0 0
  (((s.setLin n { s.lin n with await := none }).linCnt n 2).linEvt n 0).report 0x5040 n

/-- The controller sends a response; `clash` marks a byte other than its own on the bus (R391). -/
def State.linRespond (s : State) (n fid : Nat) (data : List Byte) (clash : Bool) : State :=
  if !s.linTxOn n then s
  else if clash then s.linError n 1
  else
    let sum := linChecksum (s.rb (rspA n fid 0) 2) (linPid fid) data
    (s.setLin n { s.lin n with lastResp := some (data ++ [sum]) }).linCnt n 1

/-- The response built from the Cellar, read as TID 0 with W = 1 (R389). -/
def State.linCellar (s : State) (n fid : Nat) (clash : Bool) : State :=
  let w0 := s.rd (rspA n fid 0)
  let w1 := s.rd (rspA n fid 1)
  let ha := fld w0 31 16
  let hb := fld w1 15 0
  let stale := s.enReadStale ha || (bit w1 16 && s.enReadStale hb)
  let vb := if bit w1 16 then s.enValue hb else 0
  let data := (leBytes 4 (s.enValue ha).toNat ++ leBytes 4 vb.toNat).take (fld w0 7 4)
  let s := if stale then ((s.linCnt n 3).linEvt n 3).report 0x5041 n else s
  if stale && bit w0 3 then s else s.linRespond n fid data clash

/-- The response taken from the port buffer, which it empties (R390). -/
def State.linPort (s : State) (n fid : Nat) (clash : Bool) : State :=
  match smGet (fun _ => []) (s.lin n).bufs fid with
  | [] => s
  | data =>
    (s.setLin n { s.lin n with bufs := smSet (fun _ => []) (s.lin n).bufs fid [] }).linRespond n fid data clash

/-- A header has been received or sent: `time` is the falling edge of its break; `err` a sync, parity or framing error. -/
def execLinHeader (n : Lin) (fid : Fin 64) (time : Word) (err : LinErr) (clash : Bool) (s : State) : Out :=
  .next (if !s.logicOn || !s.accepts 7 || s.linMode n = 0 then s
    else if err.val != 0 then s.linError n err
    else
      let s := (s.wf (linA n 8) 13 8 fid).linCnt n 0
      let s := (s.setLin n { s.lin n with await := none }).wf (linA n 8) 1 0 0
      let src := s.rf (rspA n fid 0) 1 0
      if src = 1 then (s.setLin n { s.lin n with await := some (fid.val, time) }).wf (linA n 8) 1 0 2
      else if src = 2 then s.linCellar n fid clash
      else if src = 3 then s.linPort n fid clash
      else s)

/-- The awaited response ends: delivered as a frame of KIND 4, or counted as an error (R388). -/
def execLinResponseReceive (n : Lin) (data : List Byte) (err : LinErr) (s : State) : Out :=
  .next (match (s.lin n).await with
    | none => s
    | some (fid, time) =>
      let w0 := s.rd (rspA n fid 0)
      if err.val != 0 then s.linError n err
      else if data.length != fld w0 7 4 then s.linError n 4
      else
        let s := (s.setLin n { s.lin n with await := none }).wf (linA n 8) 1 0 0
        let f : Frame := { kind := 4, id := wd (linPid fid), data, time, linClassic := bit w0 2 }
        let r := s.route (0x10 + n) f
        if r.2 then r.1.setLin n { r.1.lin n with rx := (r.1.lin n).rx ++ [f] } else r.1)

/-- An `ftx` to the transmit port (R390). -/
def State.linPut (s : State) (n : Nat) (f : Frame) : State :=
  let fid := f.id.toNat % 64
  if s.rf (rspA n fid 0) 1 0 = 3 then s.setLin n { s.lin n with bufs := smSet (fun _ => []) (s.lin n).bufs fid f.data }
  else s.linCnt n 3

/-! ### Commander schedule (R392, R393) -/

/-- A slot boundary: a pending bank switch or stop takes effect, and the next header is sent. -/
def execLinScheduleSlot (n : Lin) (s : State) : Out :=
  .next (if !s.logicOn || !s.accepts 7 || s.linMode n != 1 then s
    else
      let c := s.rd (linA n 0x14)
      let i := s.lin n
      let switch := bit c 1
      let s := if switch then ((s.wr (linA n 0x14) (setFld c 1 0 (1 - fld c 0 0))).linEvt n 4) else s
      if !bit c 31 then s.setLin n { i with inSlot := false, idx := 0 }
      else
        let bank := s.rf (linA n 0x14) 0 0
        let len := if bank = 0 then fld c 13 8 else fld c 21 16
        let idx := if switch || !i.inSlot || len ≤ i.idx then 0 else i.idx
        let fid := s.rf (schA n (bank * 32 + idx)) 5 0
        s.setLin n { i with
          inSlot := true, idx := if len ≤ idx + 1 then 0 else idx + 1
          lastHeader := if s.linTxOn n then some (linPid fid) else i.lastHeader })

/-- SCHED_CTL: a new ACT waits for the end of the current slot. Lengths that stay as they stand are in range. -/
def State.putSched (s : State) (n : Nat) (v : Word) : Ans :=
  let bad := fun k => k = 0 || 32 < k
  let new := s.rf (linA n 0x14) 21 16 != fld v 21 16 || s.rf (linA n 0x14) 13 8 != fld v 13 8
  if new && (bad (fld v 21 16) || bad (fld v 13 8)) then (.range, s)
  else
    let act := s.rb (linA n 0x14) 0
    let want := bit v 0
    let s := s.plainWr (linA n 0x14) v
    if (s.lin n).inSlot then (.done, s.wb (linA n 0x14) 1 (want != act))
    else (.done, ((s.wb (linA n 0x14) 0 want).wb (linA n 0x14) 1 false))

/-! ### Write rules of the LIN page (R386, R395) -/

/-- A write to offset `o` of LINn's page, other than its ownership registers. -/
def State.putLin (s : State) (t : Tags) (n o : Nat) (v : Word) : Ans :=
  let rate := if o = 4 then fld v 14 0 else s.rf (linA n 4) 14 0
  let slope := if o = 0 then bit v 2 else s.rb (linA n 0) 2
  if !t.manager then s.deny t (linA n o)
  else if o = 0 then
    if (s.rd (linA n 0) ^^^ v) &&& 7 != 0 && (fld v 1 0 = 3 || (slope && 10400 < rate)) then (.range, s)
    else
      let s := s.plainWr (linA n o) v
      let s := if bit v 31 then (List.range 4).foldl (fun s k => s.wr (linA n (0x30 + k * 4)) 0) s else s
      let s := if bit v 12 then s.setLin n { s.lin n with wakes := (s.lin n).wakes + 1 } else s
      (.done, if fld v 1 0 = 0 then
        (s.setLin n { s.lin n with await := none, inSlot := false, idx := 0 }).wf (linA n 8) 1 0 0
        else { s with front := { s.front with linStandby := s.front.linStandby.filter (· != n) } })
  else if o = 4 then
    if rate < 1000 || 20000 < rate || (slope && 10400 < rate) then (.range, s) else (.done, s.plainWr (linA n o) v)
  else if o = 0x14 then s.putSched n v
  else if 0x100 ≤ o && o < 0x200 then
    if fld v 15 8 = 0 then (.range, s)
    else if (o - 0x100) / 0x80 = s.rf (linA n 0x14) 0 0 then (.conflict, s)
    else (.done, s.plainWr (linA n o) v)
  else if 0x200 ≤ o && o % 8 = 0 then
    if fld v 1 0 != 0 && (fld v 7 4 = 0 || 8 < fld v 7 4) then (.range, s) else (.done, s.plainWr (linA n o) v)
  else (.done, s.plainWr (linA n o) v)

/-- A party may read LINn's page (R395, R383). -/
def State.linMayRead (s : State) (t : Tags) (n : Nat) : Bool :=
  t.manager || [0x20, 0x24].any fun o => ownHeld (s.rd (linA n o)) && ownTags (s.rd (linA n o)) == t

/-- SCHED_CTL.ACT, the other fields as they stand. -/
def execLinSchedSwitch (a : Acc) (n : Lin) (act : Bool) (s : State) : Out :=
  s.cfgWrite a (linA n 0x14) (.linSchedSwitch a n act) fun t s => s.putLin t n 0x14 (setBit (s.rd (linA n 0x14)) 0 act)

/-- LIN_CTL.WAKE, the other fields as they stand. -/
def execLinWakeSend (a : Acc) (n : Lin) (s : State) : Out :=
  s.cfgWrite a (linA n 0) (.linWakeSend a n) fun t s => s.putLin t n 0 (setBit (setBit (s.rd (linA n 0)) 31 false) 12 true)

/-- A wake-up signal is received while the controller is awake (R394). -/
def execLinWakeReceive (n : Lin) (s : State) : Out :=
  .next (if s.logicOn && s.accepts 7 && s.linMode n != 0 then s.linEvt n 1 else s)

/-- LIN_CTL.CNT_RST, the other fields as they stand. -/
def execLinCntRst (a : Acc) (n : Lin) (s : State) : Out :=
  s.cfgWrite a (linA n 0) (.linCntRst a n) fun t s => s.putLin t n 0 (setBit (setBit (s.rd (linA n 0)) 12 false) 31 true)

/-- TXD dominant timeout, or the bus held dominant (`dom`): the transmitter is off. -/
def execLinTransceiverFault (n : Lin) (dom : Bool) (s : State) : Out :=
  .next (if !s.logicOn then s
    else
      let s := (s.wb (linA n 8) (if dom then 3 else 4) true).report 0x5042 n
      if dom then s.linEvt n 2 else s)

/-- The condition clears. -/
def execLinTransceiverRecover (n : Lin) (dom : Bool) (s : State) : Out :=
  .next (if s.logicOn then s.wb (linA n 8) (if dom then 3 else 4) false else s)

end Sys2Proof.Machine
end

