-- ==== Sys2Proof/Machine/EnginePorts.lean ====
section
/-!
DEFINITION. The engine instructions that reach the Cellar, frame ports, Casks and the cipher engine (R230–R237, R287–R296).
-/

namespace Sys2Proof.Machine

/-- Issue an instruction that crosses into another island: it waits at the boundary of one that does not accept
transactions, with its thread HELD (R16, R221). -/
def State.issueOut (s : State) (e t d island addr : Nat) (cmd : Instr) (w : Word) (f : State → State) : State :=
  s.issue e t w fun s =>
    if s.mustWait island then (s.park island cmd (.engine e t d addr)).setThState e t 3 else f s

/-- Write the registers and flags of a HELD instruction and complete it. -/
def State.heldDone (s : State) (e t : Nat) (ws : List (Nat × Word)) (flags : Word) : State :=
  ((ws.foldl (fun (s : State) x => s.setQreg e t x.1 x.2) s).setFlags e t (Fl.ofWord flags)).next1 e t

/-- A HELD instruction completes with a status in wd. -/
def State.heldStatus (s : State) (e t d : Nat) (st : Status) : State :=
  s.heldDone e t [(d, wd st.code)] ((s.flags e t).st (st = .done) false).word

/-- The instruction's results are back. -/
def execHeldInstructionComplete (e : Eng) (t : Thr) (s : State) : Out :=
  .next (match (s.thr e t).held with
    | some (.result ws fl) => if s.accepts 4 && s.thState e t = 3 then s.heldDone e t ws fl else s
    | _ => s)

/-! ### The Cellar (R287–R290) -/

/-- A Cellar read by a thread: the value or time, with its flags (R288, R289). -/
def State.qcrd (s : State) (e t d h : Nat) (time : Bool) : State :=
  let g := s.threadTags (e * 8 + t)
  let f := s.flags e t
  if !s.enMayRead g h then
    (s.deny g (enA h 0)).2.hold e t (.result [(d, 0)] { f with z := true, n := false, c := true, v := true : Fl }.word)
  else
    let v := if time then s.enTime h else s.enValue h
    s.hold e t (.result [(d, v)] { f.zn v with c := s.enReadStale h, v := false : Fl }.word)

/-- The date of a thread's write: now, or the frame slot's TIME (R290). -/
def State.qdate (s : State) (e t : Nat) (rx : Bool) : Word :=
  let a := dmA e (slotA t)
  let date := wd (s.ldLE (a + 0xC) 4)
  if rx && (s.ldLE (a + 2) 2).testBit 6 && !future date s.now then date else s.now

/-- A Cellar write by a thread. -/
def State.qcwr (s : State) (e t d h : Nat) (v : Word) (rx : Bool) : State :=
  let go (s : State) : State :=
    let r := s.enWrite (s.threadTags (e * 8 + t)) h v (s.qdate e t rx)
    r.2.holdSt e t d r.1
  if rx then s.dataAccess e t (slotA t) 16 1 true go else go s

/-- crd: immediate handle. -/
def execCrd (e : Eng) (t : Thr) (d : QReg) (handle : BitVec 16) (time : Bool) (s : State) : Out :=
  .next (s.issue e t (qS 0x28 d 0 time.toNat handle.toNat) fun s => s.qcrd e t d handle.toNat time)

/-- crdr: handle in a[15:0]. -/
def execCrdr (e : Eng) (t : Thr) (d a : QReg) (time : Bool) (s : State) : Out :=
  .next (s.issue e t (qA 0x2C d a 0 time.toNat) fun s => s.qcrd e t d (fld (s.qreg e t a) 15 0) time)

/-- cwr: immediate handle. -/
def execCwr (e : Eng) (t : Thr) (d a : QReg) (handle : BitVec 16) (rx : Bool) (s : State) : Out :=
  .next (s.issue e t (qS 0x29 d a rx.toNat handle.toNat) fun s => s.qcwr e t d handle.toNat (s.qreg e t a) rx)

/-- cwrr: handle in b[15:0]. -/
def execCwrr (e : Eng) (t : Thr) (d a b : QReg) (rx : Bool) (s : State) : Out :=
  .next (s.issue e t (qA 0x2D d a b rx.toNat) fun s => s.qcwr e t d (fld (s.qreg e t b) 15 0) (s.qreg e t a) rx)

/-! ### Frame ports (R231–R234) -/

/-- Ownership register of a frame port. -/
def portOwn (p : Nat) : Nat :=
  if p < 0x20 then canA (p / 2) (0x64 + p % 2 * 4)
  else if p < 0x30 then canA (p - 0x20) 0x60
  else if p < 0x38 then linA (p - 0x30) 0x20
  else if p < 0x40 then linA (p - 0x38) 0x24
  else eswBase + 0x40 + (p - 0x40) * 4
/-- Island of a frame port; it is a receive port. -/
def portIsland (p : Nat) : Nat := if p < 0x40 then 7 else 5
def isRxPort (p : Nat) : Bool := p < 0x20 || (0x30 ≤ p && p < 0x38) || (0x40 ≤ p && p < 0x50)

/-- Thread `t` of engine `e` may use the port (R232). -/
def State.portMay (s : State) (e t p : Nat) : Bool :=
  let o := s.rd (portOwn p)
  ownHeld o && ownTags o == s.threadTags (e * 8 + t) && fld o 23 16 == 0x40 + e

/-- ACCESS for a port the thread may not use, RANGE for one that does not exist or runs the other way (R231, R232). -/
def State.portGate (s : State) (e t p : Nat) (rx : Bool) : Option Ans :=
  if 0x60 ≤ p then some (.range, s)
  else if !s.portMay e t p then some (s.deny (s.threadTags (e * 8 + t)) (portOwn p))
  else if isRxPort p != rx then some (.range, s)
  else none

/-- Frames that a receive port holds, oldest first. -/
def State.portFrames (s : State) (p : Nat) : List Frame :=
  if p < 0x20 then (if p % 2 = 0 then (s.can (p / 2)).q0 else (s.can (p / 2)).q1)
  else if p < 0x40 then (s.lin (p - 0x30)).rx
  else s.rxq (p - 0x40)

/-- What is left in a receive port. -/
def State.setPortFrames (s : State) (p : Nat) (l : List Frame) : State :=
  if p < 0x20 then
    let i := s.can (p / 2)
    s.setCan (p / 2) (if p % 2 = 0 then { i with q0 := l } else { i with q1 := l })
  else if p < 0x40 then s.setLin (p - 0x30) { s.lin (p - 0x30) with rx := l }
  else s.setRxq (p - 0x40) l

/-- KIND fits the port's bus (R234, R366). -/
def State.portTakes (s : State) (p : Nat) (f : Frame) : Bool :=
  if p < 0x30 then s.canKind (p - 0x20) f else if p < 0x40 then f.kind == 4 else f.kind == 5

/-- LEN is one the port's bus carries, and the record fits the whole FIFO of a CAN port (R234, R366). -/
def State.portLen (s : State) (p : Nat) (f : Frame) (len : Nat) : Bool :=
  if f.kind = 1 || f.kind = 4 then decide (len ≤ 8) && (f.kind = 4 || recordSize f ≤ s.txCap (p - 0x20))
  else if f.kind = 2 then fdLen len && recordSize f ≤ s.txCap (p - 0x20)
  else decide (len ≤ 2048) && (f.kind != 3 || recordSize f ≤ s.txCap (p - 0x20))

/-- The port takes the frame; none while it is full. A frame that a transmit-at-time slot captures needs no room (R372). -/
def State.portSend (s : State) (p : Nat) (f : Frame) : Option State :=
  if p < 0x30 then if (s.capturer (p - 0x20) f).isSome || s.txFits (p - 0x20) f then some (s.txPush (p - 0x20) f none) else none
  else if p < 0x40 then some (s.linPut (p - 0x38) f)
  else if (s.txq (p - 0x50)).length < Config.engTxDepth then some (s.setTxq (p - 0x50) (s.txq (p - 0x50) ++ [f]))
  else none

/-- The frame in the slot of a thread, and its LEN. -/
def State.slotFrame (s : State) (e t : Nat) : Frame × Nat :=
  let b := s.ldBytes (dmA e (slotA t)) 0x840
  (Frame.ofBytes b, leNat (slice b 4 2))

/-- The parity of the transaction's tags fails at its target, register `x` of a thread's port or unit (R20). -/
def State.tagFault (s : State) (e t d x : Nat) : State :=
  (s.reportAt 0x0006 x (s.threadTags (e * 8 + t))).holdSt e t d .access

/-- frx: the oldest frame, or KIND 0 (R233). -/
def execFrx (e : Eng) (t : Thr) (d a : QReg) (s : State) (tagFail : Bool := false) : Out :=
  let p := fld (s.qreg e t a) 7 0
  let slot := dmA e (slotA t)
  let act (s : State) : State :=
    match s.portGate e t p true with
    | some r => r.2.holdSt e t d r.1
    | none =>
      match s.portFrames p with
      | [] => (s.memPut slot [0]).holdSt e t d .done true
      | f :: r => (((s.setPortFrames p r).memPut slot (f.header p)).memPut (slot + 0x40) f.data).holdSt e t d .done
  .next (if 0x60 ≤ p then s.issue e t (qA 0x2A d a 0 0) act
    else s.issueOut e t d (portIsland p) (portOwn p) (.frx e t d a tagFail) (qA 0x2A d a 0 0) fun s =>
      if tagFail then s.tagFault e t d (portOwn p) else act s)

/-- ftx: the slot's frame (R234). It reads the header up to INGRESS and the payload, and no byte of SCRATCH (R230). -/
def execFtx (e : Eng) (t : Thr) (d a : QReg) (s : State) (tagFail : Bool := false) : Out :=
  let p := fld (s.qreg e t a) 7 0
  let act (s : State) : State :=
    match s.portGate e t p false with
    | some r => r.2.holdSt e t d r.1
    | none =>
      s.dataAccess e t (slotA t) 0x19 1 true fun s =>
        let f := s.slotFrame e t
        if !s.portTakes p f.1 then s.holdSt e t d .range
        else if !s.portLen p f.1 f.2 then s.holdSt e t d .length
        else if f.2 = 0 && 3 ≤ f.1.kind then s.holdSt e t d .done
        else s.dataAccess e t (slotA t + 0x40) f.2 1 true fun s =>
          match s.portSend p f.1 with
          | some s => s.holdSt e t d .done
          | none => s.hold e t (.ftx d p f.1)
  .next (if 0x60 ≤ p then s.issue e t (qA 0x2B d a 0 0) act
    else s.issueOut e t d (portIsland p) (portOwn p) (.ftx e t d a tagFail) (qA 0x2B d a 0 0) fun s =>
      if tagFail then s.tagFault e t d (portOwn p) else act s)

/-- Room appears in the port: the frame goes there, if the thread may still use the port (R232). -/
def execFtxPortRoom (e : Eng) (t : Thr) (s : State) : Out :=
  .next (match (s.thr e t).held with
    | some (.ftx d p f) =>
      if !s.accepts 4 || !s.accepts (portIsland p) then s
      else if !s.portMay e t p then (s.deny (s.threadTags (e * 8 + t)) (portOwn p)).2.heldStatus e t d .access
      else match s.portSend p f with
        | some s => s.heldStatus e t d .done
        | none => s
    | _ => s)

/-- No room for 1 ms. -/
def execFtxTimeout (e : Eng) (t : Thr) (s : State) : Out :=
  .next (match (s.thr e t).held with
    | some (.ftx d _ _) => if s.accepts 4 then s.heldStatus e t d .timeout else s
    | _ => s)

/-! ### Casks (R291–R295) -/

/-- A Cask instruction on the Cask that register `a` names: RANGE above 511. -/
def State.qcask (s : State) (e t d a : Nat) (f : Tags → Nat → State → State) : State :=
  let n := (s.qreg e t a).toNat
  if 511 < n then s.holdSt e t d .range else f (s.threadTags (e * 8 + t)) n s

/-- Append the item at data-memory address `x`. -/
def State.qappend (s : State) (e n x : Nat) : Ans := s.ckAppend n (s.ldBytes (dmA e x) (s.ckItem n))

/-- qput: the waiting form holds its thread while there is no room. -/
def State.qput (s : State) (e t d a b : Nat) (nw : Bool) : State :=
  s.qcask e t d a fun g n s =>
    let x := (s.qreg e t b).toNat
    s.dataAccess e t x (s.ckItem n) 8 true fun s =>
      match s.ckGate g n with
      | some .access => (s.deny g (ckWinA n 0)).2.holdSt e t d .access
      | some st => s.holdSt e t d st
      | none =>
        if !s.ckProdSoft n then s.holdSt e t d .conflict
        else
          let s := s.ckServe n
          if s.ckRoom n then
            let r := s.qappend e n x
            r.2.holdSt e t d r.1
          else if nw then (s.ckFull n).holdSt e t d .length
          else s.hold e t (.qput d n x)

/-- qput. -/
def execQput (e : Eng) (t : Thr) (d a b : QReg) (s : State) : Out :=
  .next (s.issue e t (qA 0x30 d a b 0) fun s => s.qput e t d a b false)

/-- qput.nw. -/
def execQputNw (e : Eng) (t : Thr) (d a b : QReg) (s : State) : Out :=
  .next (s.issue e t (qA 0x30 d a b 1) fun s => s.qput e t d a b true)

/-- Room appears in the Cask. -/
def execQputRoom (e : Eng) (t : Thr) (s : State) : Out :=
  .next (match (s.thr e t).held with
    | some (.qput d n x) =>
      if !s.accepts 4 || !s.ckEn n then s
      else
        let s := s.ckServe n
        if !s.ckRoom n then s
        else
          let r := s.qappend e n x
          r.2.heldStatus e t d r.1
    | _ => s)

/-- No room for 1 ms. -/
def execQputTimeout (e : Eng) (t : Thr) (s : State) : Out :=
  .next (match (s.thr e t).held with
    | some (.qput d n _) => if s.accepts 4 then (s.ckFull n).heldStatus e t d .timeout else s
    | _ => s)

/-- qget: the next item, or the idle item with C set (R293). -/
def execQget (e : Eng) (t : Thr) (d a b : QReg) (s : State) : Out :=
  .next (s.issue e t (qA 0x31 d a b 0) fun s =>
    s.qcask e t d a fun g n s =>
      let x := (s.qreg e t b).toNat
      s.dataAccess e t x (s.ckItem n) 8 false fun s =>
        let idle := s.ckAvail n == 0
        let r := s.ckOp g n (ckWinA n 8) fun s =>
          if !s.ckConsSoft n then (.conflict, s)
          else
            let y := if idle then s.ckIdle n else s.ckTake n
            (y.1, if y.1 = .done then y.2.2.memPut (dmA e x) y.2.1 else y.2.2)
        r.2.holdSt e t d r.1 (idle && r.1 = .done))

/-- qmark. -/
def execQmark (e : Eng) (t : Thr) (d a : QReg) (s : State) : Out :=
  .next (s.issue e t (qA 0x32 d a 0 0) fun s =>
    s.qcask e t d a fun g n s => let r := s.ckSoftMark g n; r.2.holdSt e t d r.1)

/-- qrewind. -/
def execQrewind (e : Eng) (t : Thr) (d a : QReg) (s : State) : Out :=
  .next (s.issue e t (qA 0x33 d a 0 0) fun s =>
    s.qcask e t d a fun g n s => let r := s.ckSoftRewind g n; r.2.holdSt e t d r.1)

/-- qrel: the b oldest taken items. -/
def execQrel (e : Eng) (t : Thr) (d a b : QReg) (s : State) : Out :=
  .next (s.issue e t (qA 0x34 d a b 0) fun s =>
    s.qcask e t d a fun g n s => let r := s.ckSoftRel g n (s.qreg e t b).toNat; r.2.holdSt e t d r.1)

/-! ### Cipher jobs (R296, R611) -/

/-- csub: the descriptor lies in data memory at a; b names the completion Cask. -/
def execCsub (e : Eng) (t : Thr) (d a b : QReg) (s : State) (tagFail : Bool := false) : Out :=
  .next (s.issueOut e t d 8 cphBase (.csub e t d a b tagFail) (qA 0x35 d a b 0) fun s =>
    if tagFail then s.tagFault e t d cphBase else
    let x := (s.qreg e t a).toNat
    let n := (s.qreg e t b).toNat
    let g := s.threadTags (e * 8 + t)
    s.dataAccess e t x 64 8 true fun s =>
      let r : Ans :=
        if s.resetting g.tid then (.aborted, s)
        else if !s.tenantOn g.tid then (.access, s)
        else if 511 < n then (.range, s)
        else s.cphAccept g n x (dmA e x)
      r.2.holdSt e t d r.1)

end Sys2Proof.Machine
end

