-- ==== Sys2Proof/Machine/Storage.lean ====
section
/-!
DEFINITION. The storage controller: queue pairs, commands, write buffer, namespaces, encryption, wear, scrub and health
(R628–R658).
-/

namespace Sys2Proof.Machine

def StgCmd.tags (c : StgCmd) : Tags := ⟨c.tid, c.w⟩
def State.cmd (s : State) (k : Nat) : Option StgCmd := s.stg.cmds.find? fun c => c.entry == k
def State.setCmd (s : State) (c : StgCmd) : State :=
  { s with stg := { s.stg with cmds := s.stg.cmds.map fun x => if x.entry == c.entry then c else x } }
def State.dropCmd (s : State) (k : Nat) : State :=
  { s with stg := { s.stg with cmds := s.stg.cmds.filter fun c => c.entry != k } }
/-- A command ends; a denial is reported (R19). -/
def State.cmdEnd (s : State) (c : StgCmd) (st : Status) (info : Nat := 0) : State :=
  (if st = .access then s.reportAt 0x0003 c.addr c.tags else s).setCmd { c with ended := some (st, info), keyWait := none }

/-- A fault record of a command: namespace and queue pair, and a logical block (R658, R682). -/
def State.cmdReport (s : State) (id : Nat) (c : StgCmd) (lba : Nat) : State := s.report id (c.ns + c.qp * 256) lba c.tid c.w

/-- The namespace table (R630). -/
def State.ns (s : State) (n : Nat) : Option NsRec := (s.nand.table.find? fun p => p.1 == n).map (·.2)
def State.setNs (s : State) (n : Nat) (r : Option NsRec) : State :=
  let rest := smErase n s.nand.table
  { s with nand := { s.nand with table := match r with | some r => smInsert n r rest | none => rest } }

/-! ### Blocks (R637–R640, R643) -/

/-- Key of a logical block in the mapping. -/
def blkKey (ns lba : Nat) : Nat := ns * 2 ^ 40 + lba
def zeroBlock : List Byte := List.replicate 4096 0

/-- A block as it is stored: the newest buffered content, else the NAND's; none for a block never written or trimmed. -/
def State.storedBlock (s : State) (ns lba : Nat) : Option (List Byte) :=
  match s.stg.buf.reverse.find? fun b => b.ns == ns && b.lba ≤ lba && lba < b.lba + b.cnt with
  | some b => b.data
  | none => let d := smGet (fun _ => []) s.nand.blocks (blkKey ns lba); if d.isEmpty then none else some d

/-- The inline engine: a block under the namespace's key, its data unit number the LBA (R643). -/
def State.inline (s : State) (dec : Bool) (ns : Nat) (r : NsRec) (lba : Nat) (b : List Byte) : List Byte :=
  if r.enc = 0 then b else match s.nsKey ns r with
    | some k => xts dec k (leBytes 16 lba) b
    | none => b

/-- What a READ of a block gives. -/
def State.readBlock (s : State) (ns : Nat) (r : NsRec) (lba : Nat) : List Byte :=
  match s.storedBlock ns lba with | some b => s.inline true ns r lba b | none => zeroBlock

/-- Blocks of data in the write buffer, which holds 4 MiB (R639). -/
def State.bufUsed (s : State) : Nat := (s.stg.buf.filter fun b => b.data.isSome).length

/-- Put an entry into the write buffer. -/
def State.bufPut (s : State) (ns lba cnt : Nat) (data : Option (List Byte)) : State :=
  { s with stg := { s.stg with nextUid := s.stg.nextUid + 1, buf := s.stg.buf ++ [⟨s.stg.nextUid, ns, lba, cnt, data⟩] } }

/-- A buffered entry is durable (R640). -/
def State.bufDurable (s : State) (b : BufBlk) : State :=
  let d := match b.data with
    | some x => smSet (fun _ => []) s.nand.blocks (blkKey b.ns b.lba) x
    | none => s.nand.blocks.filter fun p => !(blkKey b.ns b.lba ≤ p.1 && p.1 < blkKey b.ns b.lba + b.cnt)
  { s with stg := { s.stg with buf := s.stg.buf.filter fun x => x.uid != b.uid }, nand := { s.nand with blocks := d } }

/-! ### Regions and health (R629, R649–R657) -/

def State.health (s : State) (data : Bool) : RegionHealth := if data then s.nand.dat else s.nand.sys
def State.setHealth (s : State) (data : Bool) (h : RegionHealth) : State :=
  { s with nand := if data then { s.nand with dat := h } else { s.nand with sys := h } }
/-- Blocks, rated cycles, spare at first format and usable 4 KiB blocks of a region (R629). -/
def regionBlocks (data : Bool) : Nat := if data then 2160 else 1440
def regionRated (data : Bool) : Nat := if data then 3000 else 20000
def regionSpare (data : Bool) : Nat := if data then 112 else 74
def regionUsable (data : Bool) : Nat := if data then 9437184 else 2097152
/-- Spare blocks left. -/
def State.spare (s : State) (data : Bool) : Nat := regionSpare data - (s.health data).grown
def State.avgPe (s : State) (data : Bool) : Nat := (s.health data).pe.foldl (fun n p => n + p.2) 0 / regionBlocks data
def State.life (s : State) (data : Bool) : Nat := min 255 (s.avgPe data * 100 / regionRated data)
/-- The region is read-only. -/
def State.regionRo (s : State) (data : Bool) : Bool := s.rb (stA 4) (if data then 3 else 2)
/-- Ticks above 105 °C so far. -/
def State.hotNow (s : State) : Nat := s.nand.hotTicks + match s.stg.hotSince with | some t => s.ticks - t | none => 0

/-! ### Retention and NAND slots (R650, R652–R654, R656) -/

/-- Retention time: powered time, time above 105 °C counted twice (R654). -/
def State.retNow (s : State) : Nat := s.nand.powered + s.ticks + s.hotNow

/-- Number of block `b` of a region among the programmed blocks. -/
def nandBlk (data : Bool) (b : Nat) : Nat := data.toNat * 65536 + b

/-- Retention age of a programmed block in days; 0 for an erased one. -/
def State.ageDays (s : State) (k : Nat) : Nat :=
  match s.nand.born.find? fun p => p.1 == k with
  | some p => (s.retNow - p.2) / 43200000000000
  | none => 0

/-- The refresh interval of a region in days (R653). -/
def State.refreshDays (s : State) (data : Bool) : Nat := (if data then 90 else 360) / (if 1680 < s.stg.temp then 2 else 1)

/-- The block's retention age exceeds the refresh interval. -/
def State.ageOver (s : State) (k : Nat) : Bool := decide (s.refreshDays (decide (65536 ≤ k)) < s.ageDays k)

/-- A block takes data: it is programmed from now on, unless it was already. -/
def State.blkProg (s : State) (k : Nat) : State :=
  if s.nand.born.any fun p => p.1 == k then s
  else { s with nand := { s.nand with born := smInsert k s.retNow s.nand.born } }

/-- A block holds no data any more. -/
def State.blkGone (s : State) (k : Nat) : State :=
  { s with nand := { s.nand with born := smErase k s.nand.born }, stg := { s.stg with due := s.stg.due.filter (· != k) } }

/-- Every programmed block is to be sampled. -/
def State.sampleAll (s : State) : State :=
  { s with stg := { s.stg with due := s.nand.born.map fun p => p.1, hostSlots := 0 } }

/-- A block is due: to be sampled since READY, or to be refreshed for its age. -/
def State.anyDue (s : State) : Bool := !s.stg.due.isEmpty || s.nand.born.any fun p => s.ageOver p.1

/-- Block `b` of a region exists and was not retired (R650). -/
def State.blkUsable (s : State) (data : Bool) (b : Nat) : Bool := decide (b < regionBlocks data) && !s.nand.bad.contains (nandBlk data b)

/-- Blocks of a region that are neither retired nor programmed. -/
def State.freeBlocks (s : State) (data : Bool) : Nat :=
  let here (k : Nat) : Bool := decide (65536 ≤ k) == data
  regionBlocks data - (s.nand.bad.filter here).length - (s.nand.born.filter fun p => here p.1).length

/-- Fewer than 8 free blocks in a region: garbage collection takes every second slot (R652). -/
def State.gcDue (s : State) : Bool := s.freeBlocks false < 8 || s.freeBlocks true < 8

/-- Programs are held to 1 slot in 2 above 130 °C (R656): none follows one directly, unless nothing else wants a slot. -/
def State.progMay (s : State) : Bool :=
  s.stg.temp ≤ 2080 || !s.stg.lastProg || !(s.anyDue || s.stg.cmds.any fun c => c.opc == 1 && c.ended.isNone)

/-- A host command may take the next NAND slot: 1 in 8 is scrub's while any block is due, and every second one is garbage
collection's while a region is short of free blocks and a program may start. -/
def State.hostMay (s : State) : Bool := (!s.anyDue || s.stg.hostSlots < 7) && (!s.gcDue || !s.stg.lastHost || !s.progMay)

/-- A host command takes a slot; scrub samples block `k` in one; garbage collection or an erase takes one. -/
def State.hostSlot (s : State) (prog : Bool) : State :=
  { s with stg := { s.stg with hostSlots := if s.anyDue then s.stg.hostSlots + 1 else 0, lastHost := true, lastProg := prog } }
def State.scrubSlot (s : State) (k : Nat) : State :=
  { s with stg := { s.stg with hostSlots := 0, due := s.stg.due.filter (· != k), lastHost := false, lastProg := false } }
def State.ownSlot (s : State) (prog : Bool) : State := { s with stg := { s.stg with lastHost := false, lastProg := prog } }

/-- Wear is spread: block `b` may be erased when its count then exceeds the region's average by no more than 5 % of the rated
cycles (R649). -/
def State.wearMay (s : State) (data : Bool) (b : Nat) : Bool :=
  let pe := (s.health data).pe
  let n := smGet (fun _ => 0) pe b + 1
  let sum := pe.foldl (fun n p => n + p.2) 1
  n * 20 * regionBlocks data ≤ 20 * sum + regionRated data * regionBlocks data

/-- Spare that is left decides RO_SYS and RO_DATA (R651). -/
def State.regionCheck (s : State) (data : Bool) : State :=
  if s.spare data = 0 then s.wb (stA 4) (if data then 3 else 2) true else s

def regionRecord (s : State) (data : Bool) : List Byte :=
  let h := s.health data
  leBytes 8 h.hostWr ++ leBytes 8 h.nandWr ++ leBytes 4 (s.avgPe data) ++ leBytes 4 (h.pe.foldl (fun n p => max n p.2) 0)
    ++ leBytes 4 (regionRated data) ++ leBytes 2 (s.spare data) ++ leBytes 2 h.grown

/-- A 16-bit two's-complement field. -/
def s16 (x : Int) : Nat := (x % 65536).toNat

/-- The health report at this moment (R657). -/
def State.healthReport (s : State) : List Byte :=
  let low (d : Bool) := decide (s.spare d * 10 < regionSpare d)
  let warn := (low false || low true).toNat + 2 * (decide (90 ≤ s.life false) || decide (90 ≤ s.life true)).toNat
    + 4 * (s.regionRo false).toNat + 8 * (s.regionRo true).toNat + 16 * (decide (2080 < s.stg.temp)).toNat
    + 32 * (decide (0 < s.nand.uncCnt)).toNat
  leBytes 2 1 ++ leBytes 2 warn ++ leBytes 2 (s16 s.stg.temp) ++ leBytes 2 (s16 s.nand.tempMax) ++ leBytes 8 s.nand.hostRd
    ++ leBytes 4 s.nand.uncCnt ++ leBytes 4 s.nand.refreshCnt ++ leBytes 4 s.nand.unsafeCnt
    ++ leBytes 4 (s.hotNow / 30000000000) ++ regionRecord s false ++ regionRecord s true
    ++ leBytes 1 (s.life false) ++ leBytes 1 (s.life true) ++ List.replicate 30 0

/-! ### Taking commands (R632–R634) -/

/-- The command a 64-byte item spells. -/
def cmdOf (b : List Byte) (entry q : Nat) (t : Tags) : StgCmd :=
  { entry, qp := q, tid := t.tid, w := t.w, opc := (byteAt b 0).toNat, ns := (byteAt b 1).toNat, flags := leNat (slice b 2 2)
    tag := leNat (slice b 4 4), lba := leNat (slice b 8 8), count := leNat (slice b 0x10 4), addr := leNat (slice b 0x18 8)
    param := slice b 0x20 32 }

/-- Take the next item of queue pair `q`, when it has one, an entry is free and the owner's slice admits it. Answers
whether it was taken. -/
def State.takeOne (s : State) (q : Nat) : Bool × State :=
  let cask := s.rf (qpA q 4) 8 0
  let t := ownTags (s.rd (qpA q 0))
  if !s.rb (qpA q 4) 31 || !ownHeld (s.rd (qpA q 0)) || !s.ckEn cask || s.ckAvail cask = 0 then (false, s)
  else match firstBelow 256 fun k => (s.cmd k).isNone with
    | none => (false, s)
    | some k =>
      if !s.sliceAdmits .stgCmd t.tid then (false, (s.sliceDeny t.tid t.w).wb (qpA q 8) 31 true)
      else match s.hwTake cask with
        | (none, s) => (false, s)
        | (some none, s) => (true, s)
        | (some (some b), s) =>
          let s := s.wb (qpA q 8) 31 false
          let c := { cmdOf b k q t with report := if byteAt b 0 = 6 then s.healthReport else [], mark := s.stg.nextUid }
          (true, { s with stg := { s.stg with cmds := s.stg.cmds ++ [c] } })

/-- Items are taken round robin, one per turn, until no queue pair gives one in a whole round. -/
def State.takeAll : Nat → Nat → State → State
  | 0, _, s => s
  | n + 1, idle, s =>
    if 16 ≤ idle then s
    else
      let r := s.takeOne s.stg.rr
      let s := { r.2 with stg := { r.2.stg with rr := (r.2.stg.rr + 1) % 16 } }
      s.takeAll n (if r.1 then 0 else idle + 1)

/-- The controller takes what it may. -/
def State.stgTake (s : State) : State := if s.stReady then s.takeAll 4352 0 else s

/-! ### Checks (R632, R637, R644, R647, R648) -/

/-- Block ranges of two commands overlap. A FLUSH, a HEALTH and a FORMAT_NS have none. -/
def cmdsOverlap (a b : StgCmd) : Bool :=
  a.ns == b.ns && a.lba < b.lba + b.count && b.lba < a.lba + a.count
    && [1, 2, 4].contains a.opc && [1, 2, 4].contains b.opc

/-- An earlier command that overlaps is still at work (R638). -/
def State.cmdBehind (s : State) (c : StgCmd) : Bool :=
  (s.stg.cmds.takeWhile fun x => x.entry != c.entry).any fun x => x.ended.isNone && cmdsOverlap x c

/-- The namespace's slot is PENDING. -/
def State.nsPending (s : State) (r : NsRec) : Bool := r.enc != 0 && !r.unit && s.slState r.slot == 2

/-- The key store that the namespace's key comes from takes no transactions (R40). -/
def State.nsNoKst (s : State) (r : NsRec) : Bool := r.enc != 0 && !s.accepts 8

/-- A command waits behind a pending key change or a key store that is being reset, at most 100 ms (R40, R648). -/
def State.keyWaits (s : State) (c : StgCmd) : State :=
  if c.keyWait.isNone then s.setCmd { c with keyWait := some s.ticks } else s

/-- The checks of a READ, WRITE, FLUSH or TRIM in the order of R42; none when it may go on, and `some .done` for
COUNT = 0. -/
def State.cmdCheck (s : State) (c : StgCmd) (buffer : Bool) : Option Status :=
  let n := c.count * 4096
  let inSram := decide (0x10000000 ≤ c.addr) && decide (c.addr < 0x12000000)
  let moves := c.opc != 3
  if 15 < c.ns then some .range
  else match s.ns c.ns with
    | none => if c.tags.manager then some .range else some .access
    | some r =>
      let beyond := buffer && (4096 < c.count || 0x12000000 < c.addr + n)
      let denied := buffer && inSram && !beyond
        && (if c.opc = 1 then !s.mayWrite c.tags c.addr n else !s.mayRead c.tags c.addr n)
      if !c.tags.manager && (c.tid != r.tid || c.w != r.w) then some .access
      else if moves && c.count = 0 then some .done
      else if denied then some .access
      else if (c.opc = 2 || c.opc = 4) && s.regionRo r.data then some .range
      else if moves && (r.size ≤ c.lba || (buffer && !inSram)) then some .range
      else if buffer && c.addr % 8 != 0 then some .align
      else if moves && (r.size < c.lba + c.count || beyond) then some .length
      else if s.stg.absent.contains c.ns then some .keyAbsent
      else none

/-- Run command `k` of operation `opc`: not behind an overlapping one, and not behind a pending key change. -/
def State.cmdRun (s : State) (k opc : Nat) (buffer : Bool) (f : StgCmd → NsRec → State → State) : State :=
  if !s.stReady then s
  else
    let s := s.stgTake
    match s.cmd k with
    | none => s
    | some c =>
      if c.opc != opc || c.ended.isSome || s.cmdBehind c then s
      else match if c.moved = 0 then s.cmdCheck c buffer else none with
        | some st => s.cmdEnd c st
        | none => match s.ns c.ns with
          | none => s
          | some r =>
            if ((s.nsPending r && c.moved = 0) || s.nsNoKst r) && opc != 3 then s.keyWaits c
            else f { c with keyWait := none } r s

/-- A datapath mismatch of the inline engine (R643). -/
def State.stgMismatch (s : State) (c : StgCmd) : State := (s.cmdEnd c .fault).cmdReport 0xB007 c c.lba

/-- The parity of the tags fails at system SRAM (R20). -/
def State.cmdParity (s : State) (c : StgCmd) : State := (s.reportAt 0x0006 c.addr c.tags).cmdEnd c .access

/-- READ; `bad` is the index of a block that stays beyond correction (R655). -/
def execStgRead (c : Fin 256) (bad : Option Nat) (mismatch : Bool) (s : State) (tagFail : Bool := false) : Out :=
  .next (s.cmdRun c 1 true fun c r s =>
    if !s.hostMay then s
    else
    let s := s.hostSlot false
    if tagFail then s.cmdParity c
    else match bad with
    | some i =>
      if i < c.count then
        ({ s with nand := { s.nand with uncCnt := s.nand.uncCnt + 1 } }.cmdEnd c .eccUncorr i).cmdReport 0xB001 c (c.lba + i)
      else s
    | none =>
      if mismatch && r.enc != 0 then s.stgMismatch c
      else
        let b := ((List.range c.count).map fun i => s.readBlock c.ns r (c.lba + i)).flatten
        ({ s.memPut c.addr b with nand := { s.nand with hostRd := s.nand.hostRd + c.count } }).cmdEnd c .done)

/-- Move blocks of a WRITE into the write buffer while it has room; answers how many are moved. -/
def State.writeBlocks (s : State) (c : StgCmd) (r : NsRec) : Nat → Nat × List Nat × State
  | 0 => (c.moved, c.fua, s)
  | n + 1 =>
    let p := s.writeBlocks c r n
    if p.1 = c.count || 1024 ≤ p.2.2.bufUsed || p.1 != c.moved + n then p
    else
      let b := s.ldBytes (c.addr + p.1 * 4096) 4096
      let h := p.2.2.health r.data
      let s1 := (p.2.2.setHealth r.data { h with hostWr := h.hostWr + 1 }).bufPut c.ns (c.lba + p.1) 1
        (some (s.inline false c.ns r (c.lba + p.1) b))
      (p.1 + 1, p.2.1 ++ [p.2.2.stg.nextUid], s1)

/-- WRITE: blocks move into the write buffer as room allows; with FUA it ends when all of them are durable. -/
def execStgWrite (c : Fin 256) (mismatch : Bool) (s : State) (tagFail : Bool := false) : Out :=
  .next (s.cmdRun c 2 true fun c r s =>
    if tagFail then s.cmdParity c
    else match (List.range (c.count * 512)).find? fun i => s.isBad (c.addr + i * 8) with
    | some i => (s.eccReport (c.addr + i * 8)).cmdEnd c .eccUncorr (i / 512)
    | none =>
      if mismatch && r.enc != 0 then s.stgMismatch c
      else
        let p := s.writeBlocks c r (c.count - c.moved)
        let c := { c with moved := p.1, fua := p.2.1 }
        let pendingFua := c.flags.testBit 0 && c.fua.any fun u => p.2.2.stg.buf.any fun b => b.uid == u
        if p.1 = c.count && !pendingFua then p.2.2.cmdEnd c .done else p.2.2.setCmd c)

/-- FLUSH: what the namespace had buffered when it was taken is durable. -/
def execStgFlush (c : Fin 256) (s : State) : Out :=
  .next (s.cmdRun c 3 false fun c _ s =>
    if s.stg.buf.any fun b => b.ns == c.ns && b.uid < c.mark then s.setCmd c else s.cmdEnd c .done)

/-- TRIM. -/
def execStgTrim (c : Fin 256) (s : State) : Out :=
  .next (s.cmdRun c 4 false fun c _ s => (s.bufPut c.ns c.lba c.count none).cmdEnd c .done)

/-! ### FORMAT_NS and HEALTH -/

/-- Every block of namespace `n` is dropped: buffered and stored. -/
def State.nsClear (s : State) (n : Nat) : State :=
  { s with stg := { s.stg with buf := s.stg.buf.filter fun b => b.ns != n }
           nand := { s.nand with blocks := s.nand.blocks.filter fun p => p.1 / 2 ^ 40 != n } }

/-- The record that FORMAT_NS asks for, from PARAM. -/
def StgCmd.ask (c : StgCmd) : NsRec :=
  let b (i : Nat) : Nat := (byteAt c.param i).toNat
  { size := leNat (slice c.param 0 8), data := b 8 == 1, enc := b 9, unit := b 10 == 1, slot := b 11
    tid := BitVec.ofNat 8 (b 12), w := b 13 % 2 == 1 }

/-- The check of the key source (R645): ACCESS first, the key statuses last. -/
def State.keySource (s : State) (r : NsRec) : Option Status :=
  match s.keyStatus r.slot 6 with
  | some st => some st
  | none => if s.slSize r.slot != r.enc + 1 then some .keyUsage else none

/-- Sizes of a region's namespaces other than `n`. -/
def State.regionTaken (s : State) (data : Bool) (n : Nat) : Nat :=
  s.nand.table.foldl (fun k p => if p.1 != n && p.2.data == data then k + p.2.size else k) 0

/-- The status FORMAT_NS ends with before anything changes; none when it may run. -/
def State.formatCheck (s : State) (c : StgCmd) : Option Status :=
  let r := c.ask
  let keyed := r.size != 0 && r.enc != 0 && !r.unit
  let ro := if c.ns = 0 then s.regionRo false
    else s.regionRo r.data || (match s.ns c.ns with | some o => s.regionRo o.data | none => false)
  let busy := s.stg.cmds.any fun x => x.entry != c.entry && x.ns == c.ns && x.opc != 6
  if !c.tags.manager || (c.ns != 0 && keyed && !s.slotMay ⟨r.tid, r.w⟩ r.slot) then some .access
  else if 15 < c.ns || ro then some .range
  else if c.ns = 0 then (if busy then some .conflict else none)
  else if 1 < (byteAt c.param 8).toNat || 2 < r.enc || 1 < (byteAt c.param 10).toNat then some .range
  else if regionUsable r.data < s.regionTaken r.data c.ns + r.size then some .length
  else if busy then some .conflict
  else if s.stg.absent.contains c.ns then some .keyAbsent
  else if keyed then s.keySource r else none

/-- The formatted namespace: contents zero, and but for namespace 0 a new record, with a fresh SALT and the KCV. -/
def State.format (s : State) (c : StgCmd) : State :=
  let s := s.nsClear c.ns
  if c.ns = 0 then s
  else
    let r := c.ask
    let s := { s with stg := { s.stg with absent := s.stg.absent.filter (· != c.ns) } }
    if r.size = 0 then s.setNs c.ns none
    else
      let a := s.fresh
      let b := a.2.fresh
      let r := if r.unit && r.enc != 0 then { r with salt := leBytes 8 a.1.toNat ++ leBytes 8 b.1.toNat } else r
      let s := if r.unit && r.enc != 0 then b.2 else s
      let k := if r.enc = 0 then [] else match s.nsKey c.ns r with | some k => kcvOf k | none => []
      s.setNs c.ns (some { r with kcv := k })

/-- FORMAT_NS. -/
def execStgFormatNs (c : Fin 256) (s : State) : Out :=
  .next (if !s.stReady then s
    else
      let s := s.stgTake
      match s.cmd c with
      | none => s
      | some c =>
        let keyed := c.ns != 0 && c.ask.size != 0
        if c.opc != 5 || c.ended.isSome then s
        else if c.tags.manager && keyed && c.ask.enc ≤ 2 && s.nsNoKst c.ask then s.keyWaits c
        else match s.formatCheck c with
          | some st => s.cmdEnd c st
          | none => if keyed && s.nsPending c.ask then s.keyWaits c else (s.format c).cmdEnd c .done)

/-- HEALTH. -/
def execStgHealth (c : Fin 256) (s : State) (tagFail : Bool := false) : Out :=
  .next (if !s.stReady then s
    else
      let s := s.stgTake
      match s.cmd c with
      | none => s
      | some c =>
        let start := decide (0x10000000 ≤ c.addr) && decide (c.addr < 0x12000000)
        if c.opc != 6 || c.ended.isSome then s
        else if start && sramSpan c.addr 128 && !s.mayWrite c.tags c.addr 128 then s.cmdEnd c .access
        else if !start then s.cmdEnd c .range
        else if c.addr % 8 != 0 then s.cmdEnd c .align
        else if !sramSpan c.addr 128 then s.cmdEnd c .length
        else if tagFail then s.cmdParity c
        else (s.memPut c.addr c.report).cmdEnd c .done 128)

/-! ### Completion (R635, R636) -/

/-- The completion item. -/
def StgCmd.item (c : StgCmd) (st : Status) (info : Nat) : List Byte :=
  leBytes 4 c.tag ++ leBytes 1 st.code ++ leBytes 1 c.opc ++ leBytes 1 c.ns ++ [0] ++ leBytes 4 info ++ leBytes 4 0

/-- The completion of command `c` is dropped and counted (R635). -/
def State.cmdLost (s : State) (c : StgCmd) : State :=
  ((s.bump (qpA c.qp 8) 23 16).dropCmd c.entry).cmdReport 0xB008 c c.lba

/-- Post the completion of a command that has ended. -/
def State.cmdPost (s : State) (c : StgCmd) : State :=
  match c.ended with
  | none => s
  | some e =>
    s.hwPut (s.rf (qpA c.qp 4) 26 18) (c.item e.1 e.2) (·.dropCmd c.entry) (·.cmdLost c)
      fun s => if c.posting.isNone then s.setCmd { c with posting := some s.ticks } else s

/-- A command ends: its completion is posted. An OPC that does not exist ends with RANGE. -/
def execStgCommandComplete (c : Fin 256) (s : State) : Out :=
  .next (if !s.stReady then s
    else
      let s := s.stgTake
      match s.cmd c with
      | none => s
      | some c => if c.opc = 0 || 6 < c.opc then s.cmdPost { c with ended := some (.range, 0) } else s.cmdPost c)

/-- A completion has found no room for 1 ms. -/
def execStgCompletionDrop (c : Fin 256) (s : State) : Out :=
  .next (match s.cmd c with
    | none => s
    | some c =>
      match c.posting with
      | none => s
      | some t =>
        if s.stReady && 500000 ≤ s.ticks - t && !(s.ckEn (s.rf (qpA c.qp 4) 26 18) && s.ckRoom (s.rf (qpA c.qp 4) 26 18))
        then s.cmdLost c else s)

/-- A command has waited 100 ms behind a pending key change (R648). -/
def execStgKeyPendingTimeout (c : Fin 256) (s : State) : Out :=
  .next (match s.cmd c with
    | none => s
    | some c =>
      match c.keyWait with
      | none => s
      | some t =>
        if s.stReady && 50000000 ≤ s.ticks - t then (s.cmdEnd c .timeout).cmdReport 0xB00C c c.lba else s)

/-- Commands that satisfy `p` are stopped with ABORTED. -/
def State.stgAbort (s : State) (p : StgCmd → Bool) : State :=
  let stop (c : StgCmd) : StgCmd :=
    if p c && c.ended.isNone then { c with ended := some (.aborted, 0), keyWait := none } else c
  { s with stg := { s.stg with cmds := s.stg.cmds.map stop } }
def State.stgPostAll (s : State) : State := s.stg.cmds.foldl State.cmdPost s

/-- QP_OWN is released: the pair's commands end, and it is disabled (R636). -/
def State.qpRelease (s : State) (q : Nat) : State :=
  ((s.stgAbort fun c => c.qp == q).stgPostAll).wr (qpA q 4) 0

/-! ### Start, keys, wear and scrub -/

/-- QP_CFG (R633). -/
def State.putQp (s : State) (t : Tags) (q : Nat) (v : Word) : Ans :=
  let sc := fld v 8 0
  let cc := fld v 26 18
  let own := s.rd (qpA q 0)
  let held (n : Nat) := ownHeld (s.rd (ckA n 0)) && ownHeld own && ownTags (s.rd (ckA n 0)) == ownTags own
  if !s.mayWriteOwned t (qpA q 0) then s.deny t (qpA q 4)
  else if bit v 31 && (s.ckItem sc != 64 || s.ckItem cc != 16) then (.length, s.wb (qpA q 4) 31 false)
  else if bit v 31 && (!held sc || !held cc || !s.ckConsIs sc 2 || !s.ckProdIs cc 2) then (.conflict, s.wb (qpA q 4) 31 false)
  else (.done, (s.plainWr (qpA q 4) v).wf (qpA q 8) 23 16 0)

/-- A write to offset `o` of the STG page. -/
def State.putStg (s : State) (t : Tags) (o : Nat) (v : Word) : Ans :=
  if 0x100 ≤ o && o < 0x200 && o % 0x10 = 4 then s.putQp t ((o - 0x100) / 0x10) v
  else if !t.manager then s.deny t (stA o)
  else if o = 0 && !bit v 0 && !s.stg.cmds.isEmpty then (.conflict, s)
  else if o = 0 && !bit v 0 then (.done, (s.plainWr (stA 0) v).wb (stA 4) 0 false)
  else (.done, s.plainWr (stA o) v)

/-- STG_CTL.EN. -/
def execStgEnable (a : Acc) (s : State) : Out :=
  s.cfgWrite a (stA 0) (.stgEnable a) fun t s => s.putStg t 0 1

/-- QP_CFG of queue pair `q`. -/
def execQpConfigWrite (a : Acc) (q : Fin 16) (v : Word) (s : State) : Out :=
  s.cfgWrite a (qpA q 4) (.qpConfigWrite a q v) fun t s => s.putQp t q v

/-- The journal is replayed: READY, UNCLEAN after an unclean shutdown, and the keys of all namespaces are checked (R641,
R647, R651). A NAND interface or controller region that fails leaves READY clear (0xB00B). -/
def execStgReady (nandOk : Bool) (s : State) : Out :=
  .next (if !s.stOn || s.stReady then s
    else if !nandOk then s.report 0xB00B
    else
      let s := if s.nand.unclean
        then (({ s with nand := { s.nand with unclean := false, unsafeCnt := s.nand.unsafeCnt + 1 } }).wb (stA 4) 1 true).report 0xB00A
        else s
      let s := ((s.wb (stA 4) 0 true).regionCheck false).regionCheck true
      let s := s.sampleAll
      (s.nand.table.map (·.1)).foldl State.nsCheck s)

/-- The key check of a namespace. -/
def execNamespaceKeyCheck (n : Fin 16) (s : State) : Out :=
  .next (if s.stReady then s.nsCheck n else s)

/-- A program or erase of block `k` of a region fails: the block is retired, its valid data moves elsewhere (R650, R651). -/
def execNandProgramFail (data : Bool) (k : Nat) (s : State) : Out :=
  .next (if !s.stReady || !s.blkUsable data k then s
    else
      let s := s.blkGone (nandBlk data k)
      let s := { s with nand := { s.nand with bad := nandBlk data k :: s.nand.bad } }
      let h := s.health data
      let before := s.spare data
      let s := (s.setHealth data { h with grown := h.grown + 1 }).report 0xB003 0 (nandBlk data k)
      let s := if regionSpare data ≤ before * 10 && s.spare data * 10 < regionSpare data then s.report 0xB004 else s
      if before != 0 && s.spare data = 0 then (s.regionCheck data).report 0xB005 else s)

/-- A block is refreshed when any condition of R653 holds. -/
def State.refreshDue (s : State) (x : ScrubSample) : Bool :=
  60 < x.corrections || 80 < x.hostCorrections || 100000 ≤ x.reads || s.ageOver (nandBlk x.data x.blk)

/-- No host command wants a NAND slot. -/
def State.hostIdle (s : State) : Bool := s.stg.buf.isEmpty && s.stg.cmds.all fun c => c.ended.isSome

/-- The controller samples a block in a slot that is its own or that host commands leave free, and refreshes it when that is
due; a refresh waits while no program may start. -/
def execScrubSample (x : ScrubSample) (s : State) : Out :=
  let k := nandBlk x.data x.blk
  .next (if !s.stReady || !(s.anyDue || s.hostIdle) then s
    else if !s.refreshDue x then s.scrubSlot k
    else if s.stg.stopped || !s.progMay || !s.blkUsable x.data x.dest then s
    else
      let s := (s.scrubSlot k).ownSlot true
      let h := s.health x.data
      let s := ((s.setHealth x.data { h with nandWr := h.nandWr + x.valid }).blkGone k).blkProg (nandBlk x.data x.dest)
      ({ s with nand := { s.nand with refreshCnt := s.nand.refreshCnt + 1 } }).report 0xB002 0 k)

/-- The NAND junction reads `t` in 0.0625 K (R653, R656, R657). -/
def execNandTempChange (t : Int) (s : State) : Out :=
  .next (if !s.stOn then s
    else
      let was := s.stg.temp
      let s := { s with
        nand := { s.nand with tempMax := max s.nand.tempMax t, hotTicks := s.hotNow }
        stg := { s.stg with temp := t, hotSince := if 1680 < t then some s.ticks else none
                            stopped := if 2160 ≤ t then true else if t < 2080 then false else s.stg.stopped } }
      if 2080 < t && was ≤ 2080 then s.report 0xB009 else s)

/-- A program or erase ends. Nothing ends while programs are stopped; blocks of one logical range become durable in order. -/
def execNandOperationComplete (op : NandOp) (s : State) : Out :=
  .next (if !s.stReady || s.stg.stopped then s
    else match op with
      | .program k x =>
        match (if s.hostMay && s.progMay then s.stg.buf[k]? else none) with
        | none => s
        | some b =>
          if (s.stg.buf.take k).any fun x => x.ns == b.ns && x.lba < b.lba + b.cnt && b.lba < x.lba + x.cnt then s
          else
            let data := match s.ns b.ns with | some r => r.data | none => false
            let h := s.health data
            if b.data.isNone then s.bufDurable b
            else if !s.blkUsable data x then s
            else (((s.setHealth data { h with nandWr := h.nandWr + 1 }).blkProg (nandBlk data x)).hostSlot true).bufDurable b
      | .move data n b =>
        let h := s.health data
        if !s.blkUsable data b || !s.progMay then s
        else ((s.setHealth data { h with nandWr := h.nandWr + n }).blkProg (nandBlk data b)).ownSlot true
      | .erase data b =>
        let h := s.health data
        if !s.blkUsable data b || !s.wearMay data b then s
        else ((s.blkGone (nandBlk data b)).setHealth data
          { h with pe := smSet (fun _ => 0) h.pe b (smGet (fun _ => 0) h.pe b + 1) }).ownSlot false)

end Sys2Proof.Machine
end

