-- ==== Sys2Proof/Machine/Owners.lean ====
section
/-!
DEFINITION. Ownership registers: where they lie, claims, and what a release of each resource does (R31–R39, R702).
-/

namespace Sys2Proof.Machine

/-- A shareable resource: DIN land, TB_EVT land, channel, sense input, drive line, frame port, event unit, decant schedule,
transmit-at-time slot, buffer reservation, Cask, volatile key slot, storage queue pair. -/
inductive Own where
  | din (k : Nat) | evt (k : Nat) | chan (c : Nat) | sense (n : Nat) | line (k : Nat) | port | evUnit (k : Nat)
  | decant (k : Nat) | tat (n k : Nat) | bres (r : Nat) | cask (n : Nat) | slot (n : Nat) | qp (q : Nat)
  deriving DecidableEq, Repr

/-- Ownership register `i` of an array at `base` of `n` registers, `step` bytes apart. -/
def arrIdx (base step n a : Nat) : Option Nat :=
  if base ≤ a && (a - base) % step = 0 && (a - base) / step < n then some ((a - base) / step) else none

/-- The logic-die resource whose ownership register lies at offset `o` of page `p` of configuration space. -/
def ownPage (p o : Nat) : Option Own :=
  if p = 2 then ((arrIdx 0x100 4 16 o).map .din) <|> ((arrIdx 0x140 4 4 o).map .evt)
  else if p = 6 then (arrIdx 0x2800 0x20 64 o).map fun i => .slot (192 + i)
  else if p = 7 then (arrIdx 0x1000 4 64 o).map fun i => .slot (192 + i)
  else if p = 9 then (arrIdx 0x200 0x20 4 o).map .evUnit
  else if p = 0xA then (arrIdx 0x1000 0x20 512 o).map .cask
  else if p = 0xB then (arrIdx 0x1000 0x20 256 o).map .decant
  else if p = 0xC then (arrIdx 0x40 0x10 4 (o % 0x1000)).map fun i => .line (o / 0x1000 * 4 + i)
  else if p = 0xD then
    ((arrIdx 0x60 4 3 (o % 0x1000)).map fun _ => .port) <|> ((arrIdx 0x200 0x80 8 (o % 0x1000)).map fun k => .tat (o / 0x1000) k)
  else if p = 0xE then if o < 0x2000 then (arrIdx 0x20 4 2 (o % 0x400)).map fun _ => .port else none
  else if p = 0xF then ((arrIdx 0x40 4 32 o).map fun _ => .port) <|> ((arrIdx 0x100 8 16 o).map .bres)
  else if p = 0x10 then (arrIdx 0x100 0x10 16 o).map .qp
  else none

/-- The resource whose ownership register lies at address `a`. -/
def ownAt (a : Nat) : Option Own :=
  if 0x40000000 ≤ a && a < 0x40110000 then ownPage ((a - 0x40000000) / 0x10000) (a % 0x10000)
  else if 0x80000000 ≤ a && a < 0x82000000 then
    (arrIdx 0x10000 0x100 32 (a % 0x1000000)).map fun i => .chan ((a - 0x80000000) / 0x1000000 * 32 + i)
  else if 0x82000000 ≤ a && a < 0x83000000 then (arrIdx 0x10000 0x20 32 (a % 0x1000000)).map .sense
  else none

/-- The register that an address names: a volatile slot's register also answers at its CPH alias (R592). -/
def ownCanon (a : Nat) : Nat :=
  match ownAt a with
  | some (.slot n) => slA n 0
  | _ => a

/-- FUNC codes of a resource (R39, R232, R246, R324, R370, R436, R498, R592, R633, R702). -/
def Own.takes (w : Own) (f : Nat) : Bool :=
  match w with
  | .sense _ => f == 1 || f == 3
  | .line _ => decide (0x80 ≤ f ∧ f < 0xC0)
  | .port => decide (0x40 ≤ f ∧ f < 0x50)
  | .evUnit _ => f == 1 || f == 2
  | _ => f == 1

/-- The channels whose source satisfies `p` lose it (R186): SRC becomes NONE, SRC_LOST, fault 0x8047 or 0x9047. -/
def State.sourceLost (s : State) (p : Nat → Nat → Bool) : State :=
  (List.range 64).foldl (fun s c =>
    let v := s.rd (chA c 4)
    if p (fld v 1 0) (fld v 13 8) then (((s.wf (chA c 4) 1 0 0).dgEvt c 6).chReport c 0x47).settle c else s) s

/-- After a change of CH_OWN: a drive line that the owner does not hold demands nothing (R246), and the channel settles. -/
def State.sourceCheck (s : State) (c : Nat) : State :=
  let v := s.rd (chA c 4)
  let bad := fld v 1 0 == 3 && !s.lineHeldBy (fld v 13 8) c (s.ownerOf (chA c 0))
  (s.setChI c { s.chI c with barred := bad }).settle c

/-- What a release of each resource does. -/
def State.releaseEffect (s : State) : Own → State
  | .din k => s.sourceLost fun src sel => src == 2 && sel == k
  | .line k => ((s.sourceLost fun src sel => src == 3 && sel == k).lineDiscard k true).wf (dlA k 8) 15 8 0
  | .chan c => (s.tasteAbort c).sourceCheck c
  | .evt _ => s
  | .sense _ => s
  | .port => s
  | .bres r => s.wr (eswBase + 0x104 + r * 8) 0
  | .evUnit k => s.evRelease k
  | .decant k => s.dsRelease k
  | .tat _ _ => s
  | .cask n => s.ckRelease n
  | .slot n => s.slotErase n
  | .qp q => s.qpRelease q

/-- The resource at canonical address `a` is released (R32). -/
def State.releaseOwn (s : State) (a : Nat) : State :=
  match ownAt a with
  | some w => (s.wr a 0).releaseEffect w
  | none => s

/-- The slice that a claim of the resource counts against (R498, R592). -/
def Own.slice : Own → Option Slice
  | .cask _ => some .casks
  | .slot _ => some .keyVol
  | _ => none

/-- A write of `v` to the ownership register at `a` (R32–R34); an allocation from a slice needs TN_CFG.EN (R510). -/
def State.putOwn (s : State) (t : Tags) (a : Nat) (v : Word) : Ans :=
  let r := ownCanon a
  let old := s.rd r
  let f := fld v 23 16
  match ownAt a with
  | none => (.range, s)
  | some w =>
    if bit v 31 then
      if s.resetting t.tid then (.aborted, s)
      else if w.slice.isSome && !s.tenantOn t.tid then (.access, s)
      else if !w.takes f then (.range, s)
      else if ownHeld old then
        if ownTags old == t && fld old 23 16 == f then (.done, s) else (.conflict, s.reportAt 0x0004 a t)
      else match w.slice with
        | some k => if s.sliceAdmits k t.tid then (.done, s.wr r (ownWord t f)) else (.conflict, s.sliceDeny t.tid t.w)
        | none => (.done, match w with | .chan c => (s.wr r (ownWord t f)).sourceCheck c | _ => s.wr r (ownWord t f))
    else if !ownHeld old then (.done, s)
    else if t.manager || ownTags old == t then (.done, s.releaseOwn r)
    else s.deny t a

/-- A write to an ownership register, on the logic die or through a bridge. -/
def State.ownWrite (s : State) (a : Acc) (addr : Nat) (v : Word) (cmd : Instr) : Out :=
  if isFar addr then
    s.farWrite a ((addr - 0x80000000) / 0x1000000) addr cmd fun t s => s.putOwn t addr v
  else s.cfgWrite a addr cmd fun t s => s.putOwn t addr v

/-- A write with HELD set. -/
def execOwnershipClaim (a : Acc) (addr : Addr) (func : BitVec 8) (s : State) : Out :=
  s.ownWrite a addr.toNat (wd (0x80000000 + func.toNat * 65536)) (.ownershipClaim a addr func)

/-- A write with HELD clear. -/
def execOwnershipRelease (a : Acc) (addr : Addr) (s : State) : Out :=
  s.ownWrite a addr.toNat 0 (.ownershipRelease a addr)

end Sys2Proof.Machine
end

