-- ==== Sys2Proof/Machine/Reset.lean ====
section
/-!
DEFINITION. Chip reset and power-on reset: what each keeps (chapter Start-up, table of reset classes).
-/

namespace Sys2Proof.Machine

/-- Registers that a chip reset keeps whole: those of the power dies and the front die (R180), and RST_CAUSE. -/
def keptByChipReset (a : Nat) : Bool := isFar a || a == rbcBase

/-- The transceiver modes, CAN_TRX.TMODE, as resets of the controllers keep them (R385). -/
def State.trxModes (s : State) : List (Nat × Word) :=
  (List.range 16).map fun n => let a := canBase + n * 0x1000 + 0x34; (a, s.rd a &&& 7)

/-- A hart in its reset state: PRESS_STAT.BROKEN is kept (R567), and halt-on-reset in the debug module (log 155). -/
def Hart.resetKeep (h : Hart) : Hart := { ({} : Hart).setCsr 0x7C1 (h.csr 0x7C1 &&& 2) with resetHalt := h.resetHalt }

/-- The NAND as a stop of the storage controller leaves it: the shutdown was clean when nothing was in flight and nothing
buffered (R641); time above 105 °C is counted up to now. -/
def State.nandDown (s : State) : Nand :=
  { s.nand with
    unclean := s.nand.unclean || !s.stg.cmds.isEmpty || !s.stg.buf.isEmpty
    hotTicks := s.nand.hotTicks + (match s.stg.hotSince with | some t => s.ticks - t | none => 0) }

/-- The NAND as a loss of the storage controller's power or clock leaves it: its powered time is kept (R654). -/
def State.nandOff (s : State) : Nand := { s.nandDown with powered := s.nand.powered + s.ticks }

/-- The logic die is held in reset and RSTN_OUT driven low: every register, queue and memory of the logic die returns to
its reset value, but for what the table of reset classes keeps. Reports of the far dies fall back into their buffers. -/
def State.logicDown (s : State) : State :=
  let kept := s.rd fcBase
  let t : State := { State.reset with
    regs := smSetAll regReset (smKeep keptByChipReset s.regs) s.trxModes
    mem := smKeep inMram s.mem
    eccBad := s.eccBad.filter inMram
    dieLogs := s.dieLogs
    free := s.free
    pwr := { s.pwr with held := true, rstnOut := false, vcoreGoal := 750, clk0 := 40, clk1 := 40 }
    links := s.links
    fuse := s.fuse
    boot := { s.boot with src := none, waitImage := false, migrating := false, provisioned := false, migrDone := [], phyFw := [], phyBad := 0 }
    chs := (s.chs.map fun p => (p.1, { p.2 with onAt := none })).filter fun p => decide (p.2 ≠ ({} : ChInt))
    dies := s.dies
    nand := s.nandOff
    lines := s.lines.map fun p => (p.1, ({ dieLevel := p.2.dieLevel } : LineInt))
    sins := s.sins
    front := s.front
    dinLand := s.dinLand
    harts := (s.harts.map fun p => (p.1, p.2.resetKeep)).filter fun p => decide (p.2 ≠ ({} : Hart))
    pending := s.pending }
  let t := { t with lines := t.lines.filter fun p => decide (p.2 ≠ ({} : LineInt)) }
  let t := t.wf fcBase 30 30 (fld kept 30 30)
  let t := t.wf fcBase 27 24 s.boot.rstCnt
  (s.reports.filter fun r => r.src != 0).foldl State.send t

/-- A chip reset with its cause bit of RST_CAUSE (R95, R121): 0 POR, 1 PIN, 2 SW, 3 RES_WDT, 4 FAULT, 5 PG_LOSS, 6 TRIAL,
7 JTAG. The logic die is held for 1.0 ms, but after a PG loss until the power-up sequence releases it (R57). -/
def State.chipReset (s : State) (cause : Nat) : State :=
  let t := s.logicDown.wb rbcBase cause true
  { t with pwr := { t.pwr with holdRuns := cause != 5 } }

/-- Registers that are kept while VBAT_AO is lost: those of power dies that VBAT_Px still supplies (R52, R180). -/
def State.dieKept (s : State) (a : Nat) : Bool :=
  (0x80000000 ≤ a && a < 0x81000000 && (s.die 0).supplied) || (0x81000000 ≤ a && a < 0x82000000 && (s.die 1).supplied)

/-- What a loss of VBAT_AO leaves: fuses, MRAM, NAND and the key store's persistent records, and the power dies that
VBAT_Px still supplies, whose links fall silent (R52, R13); any write in progress is cut (R97). -/
def State.supplyLost (s : State) : State :=
  { State.reset with
    regs := smKeep s.dieKept s.regs
    mem := smKeep inMram s.mem
    eccBad := s.eccBad.filter inMram
    free := s.free
    fuse := s.fuse
    boot := { s.boot with src := none, waitImage := false, migrating := false, provisioned := false, migrDone := [], phyFw := [], phyBad := 0 }
    chs := s.chs
    dies := s.dies
    nand := s.nandOff
    pwr := { phase := .off }
    links := (s.links.filter fun p => p.1 < 2 && (s.die p.1).supplied)
    dinLand := s.dinLand
    pending := s.pending }

/-- The always-on manager leaves power-on reset: everything starts from reset values but fuses, MRAM, NAND and the key
store's persistent records. A power die that is supplied starts in limp-home with its registers at reset values (R10,
R180, R200); the wire model of one whose control supply never failed goes on (R139). -/
def State.powerOn (s : State) : State :=
  let t : State := { s.supplyLost with
    regs := []
    chs := s.chs.filterMap fun p => if (s.die (p.1 / 32)).supplied && p.2.theta != 0
      then some (p.1, { theta := p.2.theta : ChInt }) else none
    links := []
    dies := (s.dies.filter fun p => p.2.supplied).map fun p => (p.1, { supplied := true })
    pwr := {} }
  let t := [0, 1].foldl (fun (t : State) d =>
    if (s.die d).supplied then (t.wb (dieBase d) 1 true).wf (dieBase d + 0x108) 15 0 s.dinLand.toNat else t) t
  t.wf fcBase 27 24 s.boot.rstCnt

end Sys2Proof.Machine
end

