-- ==== Sys2Proof/Machine/Signatures.lean ====
section
/-!
DEFINITION. The signatures of images and of attestation statements (R99, R590, R624): ECDSA P-384 with SHA-384 of FIPS 186-5,
and ML-DSA-65 of FIPS 204 in its pure form with an empty context, over SHAKE of FIPS 202. The spec names these standards and
gives none of their arithmetic (PRESUMED, log 4).
-/

namespace Sys2Proof.Machine

/-- `b` to the power `e` modulo `m`, for exponents below 2^512. -/
def powMod (m b e : Nat) : Nat :=
  (List.range 512).foldl (fun r i => let r := r * r % m; if e.testBit (511 - i) then r * b % m else r) 1

/-! ### ECDSA on P-384 -/

namespace P384

/-- The field, the order of the base point, the curve's coefficient b and its base point. -/
def p : Nat := 2 ^ 384 - 2 ^ 128 - 2 ^ 96 + 2 ^ 32 - 1
def n : Nat := 2 ^ 384 - 0x389cb27e0bc8d220a7e5f24db74f58851313e695333ad68d
def b : Nat := 0xb3312fa7e23ee7e4988e056be3f82d19181d9c6efe8141120314088f5013875ac656398d8a2ed19d2a85c8edd3ec2aef
def gx : Nat := 0xaa87ca22be8b05378eb1c71ef320ad746e1d3b628ba79b9859f741e082542a385502f25dbf55296c3a545e3872760ab7
def gy : Nat := 0x3617de4a96262c6f5d9e98bf9292dc29f8f41dbd289a147ce9da3113b5f0b8c00a60b1ce1d7e819d7a431d7c90ea0e5f

/-- A point, `none` the one at infinity. -/
abbrev Point := Option (Nat × Nat)

/-- The point is on the curve y² = x³ − 3x + b. -/
def onCurve (x y : Nat) : Bool := x < p && y < p && y * y % p == (x * x * x + (p - 3) * x + b) % p

/-- The third point of the line through two points with slope num / den, mirrored. -/
def chord (x1 y1 x2 num den : Nat) : Point :=
  let k := num % p * powMod p (den % p) (p - 2) % p
  let x := (k * k + 2 * p - x1 - x2) % p
  some (x, (k * (x1 + p - x) + p - y1) % p)

/-- The group law. -/
def sum : Point → Point → Point
  | none, q => q
  | q, none => q
  | some (x1, y1), some (x2, y2) =>
    if x1 = x2 then
      if (y1 + y2) % p = 0 then none else chord x1 y1 x2 (3 * x1 * x1 + p - 3) (2 * y1)
    else chord x1 y1 x2 (y2 + p - y1) (x2 + p - x1)

/-- `k` times a point. -/
def times (k : Nat) (q : Point) : Point :=
  (List.range 384).foldl (fun r i => let r := sum r r; if k.testBit (383 - i) then sum r q else r) none

/-- A point as its X and Y of 48 bytes. -/
def bytes : Point → List Byte
  | some (x, y) => beBytes 48 x ++ beBytes 48 y
  | none => List.replicate 96 0

/-- The SHA-384 of a message as a number. -/
def digest (m : List Byte) : Nat := (sha384 m).toNat

/-- The signature (r, s) of a message verifies under a public key. -/
def verify (key sig m : List Byte) : Bool :=
  let qx := beNat (slice key 0 48)
  let qy := beNat (slice key 48 48)
  let r := beNat (slice sig 0 48)
  let s := beNat (slice sig 48 48)
  let w := powMod n s (n - 2)
  onCurve qx qy && 0 < r && r < n && 0 < s && s < n &&
    match sum (times (digest m * w % n) (some (gx, gy))) (times (r * w % n) (some (qx, qy))) with
    | some (x, _) => x % n == r
    | none => false

/-- HMAC with SHA-384 (FIPS 198-1), for keys of at most one block. -/
def hmac (key m : List Byte) : List Byte :=
  let k := padTo 128 key
  let h (l : List Byte) : List Byte := beBytes 48 (sha384 l).toNat
  h (k.map (· ^^^ 0x5C) ++ h (k.map (· ^^^ 0x36) ++ m))

/-- One draw of the deterministic generator: the candidate and the generator after a refusal of it (FIPS 186-5, A.3.3). -/
def draw (kv : List Byte × List Byte) : Nat × List Byte × List Byte :=
  let v := hmac kv.1 kv.2
  let k := hmac kv.1 (v ++ [0])
  (beNat v, k, hmac k v)

/-- The per-message secrets of a secret key and a message, in the order they are tried. -/
def secrets (d : Nat) (m : List Byte) : List Nat :=
  let x := beBytes 48 d ++ beBytes 48 (digest m % n)
  let v := List.replicate 48 1
  let k := hmac (List.replicate 48 0) (v ++ [0] ++ x)
  let v := hmac k v
  let k := hmac k (v ++ [1] ++ x)
  let v := hmac k v
  ((List.range 8).foldl (fun (a : List Nat × List Byte × List Byte) _ => let y := draw a.2; (a.1 ++ [y.1], y.2)) ([], k, v)).1

/-- The signature that one per-message secret gives, none when it gives a zero. -/
def signWith (d : Nat) (m : List Byte) (k : Nat) : Option (List Byte) :=
  match times k (some (gx, gy)) with
  | none => none
  | some (x, _) =>
    let r := x % n
    let s := powMod n k (n - 2) * (digest m + r * d) % n
    if k = 0 || n ≤ k || r = 0 || s = 0 then none else some (beBytes 48 r ++ beBytes 48 s)

/-- The deterministic signature of a message. -/
def sign (d : Nat) (m : List Byte) : List Byte := ((secrets d m).findSome? (signWith d m)).getD []

/-- The secret key taken from 56 bytes (FIPS 186-5, A.2.1), and its public key. -/
def secret448 (c : List Byte) : Nat := beNat c % (n - 1) + 1
def public448 (c : List Byte) : List Byte := bytes (times (secret448 c) (some (gx, gy)))

end P384

/-! ### SHAKE (FIPS 202) -/

namespace Keccak

/-- Bit `t` of the round constants' generator x⁸ + x⁶ + x⁵ + x⁴ + 1. -/
def rcBit (t : Nat) : Bool :=
  ((List.range t).foldl (fun r _ => let r := 2 * r; if 256 ≤ r then r ^^^ 0x171 else r) 1).testBit 0

def roundConst (i : Nat) : DWord :=
  (List.range 7).foldl (fun w j => w ||| BitVec.ofNat 64 ((rcBit (j + 7 * i)).toNat * 2 ^ (2 ^ j - 1))) 0

/-- The rotation of lane (x, y): along the walk (x, y) → (y, 2x + 3y) from (1, 0), step t turns by (t + 1)(t + 2)/2. -/
def turns : List (Nat × Nat) :=
  ((List.range 24).foldl (fun (a : List (Nat × Nat) × Nat × Nat) t =>
    (a.1 ++ [(a.2.1 + 5 * a.2.2, (t + 1) * (t + 2) / 2 % 64)], a.2.2, (2 * a.2.1 + 3 * a.2.2) % 5)) ([], 1, 0)).1

def turn (i : Nat) : Nat := ((turns.find? fun p => p.1 == i).map (·.2)).getD 0

def lane (a : List DWord) (i : Nat) : DWord := a.getD i 0

/-- One round on the 25 lanes, lane (x, y) at x + 5y. -/
def round (a : List DWord) (i : Nat) : List DWord :=
  let c := (List.range 5).map fun x => (List.range 5).foldl (fun w y => w ^^^ lane a (x + 5 * y)) 0
  let a := (List.range 25).map fun k => lane a k ^^^ lane c ((k + 4) % 5) ^^^ (lane c ((k + 1) % 5)).rotateLeft 1
  let b := (List.range 25).map fun k =>
    let from_ := (k % 5 + 3 * (k / 5)) % 5 + 5 * (k % 5)
    (lane a from_).rotateLeft (turn from_)
  let a := (List.range 25).map fun k =>
    let at_ (d : Nat) : DWord := lane b ((k + d) % 5 + 5 * (k / 5))
    at_ 0 ^^^ (~~~(at_ 1) &&& at_ 2)
  (lane a 0 ^^^ roundConst i) :: a.drop 1

def permute (a : List DWord) : List DWord := (List.range 24).foldl round a

def bytes (a : List DWord) : List Byte := (a.map fun w => leBytes 8 w.toNat).flatten

/-- The sponge at a rate of `rate` bytes with the suffix of SHAKE: `n` bytes of output. -/
def shake (rate : Nat) (m : List Byte) (n : Nat) : List Byte :=
  let k := m.length / rate + 1
  let l := padTo (k * rate) (m ++ [0x1F])
  let l := l.take (k * rate - 1) ++ [byteAt l (k * rate - 1) ||| 0x80]
  let a := (List.range k).foldl (fun (a : List DWord) i => permute ((List.range 25).map fun j =>
    lane a j ^^^ (if 8 * j < rate then BitVec.ofNat 64 (leNat (slice l (i * rate + 8 * j) 8)) else 0)))
    (List.replicate 25 0)
  (((List.range ((n + rate - 1) / rate)).foldl (fun (x : List Byte × List DWord) _ =>
    (x.1 ++ (bytes x.2).take rate, permute x.2)) ([], a)).1).take n

end Keccak

/-! ### ML-DSA-65 (FIPS 204) -/

namespace MlDsa

def q : Nat := 8380417
def shake128 := Keccak.shake 168
/-- SHAKE256, the function H of FIPS 204. -/
def hash := Keccak.shake 136

/-- A polynomial of 256 coefficients modulo q; a vector of them. -/
abbrev Poly := List Nat
abbrev PVec := List Poly

def co (w : Poly) (i : Nat) : Nat := w.getD i 0
def plus (a b : Poly) : Poly := List.zipWith (fun x y => (x + y) % q) a b
def minus (a b : Poly) : Poly := List.zipWith (fun x y => (x + q - y) % q) a b
def mulP (a b : Poly) : Poly := List.zipWith (fun x y => x * y % q) a b

/-- The bits of an 8-bit number in reverse. -/
def rev8 (i : Nat) : Nat := (List.range 8).foldl (fun r k => r + (i.testBit k).toNat * 2 ^ (7 - k)) 0
/-- Powers of the 512th root of unity 1753. -/
def zeta (k : Nat) : Nat := powMod q 1753 (k % 512)
def evalAt (x : Nat) (w : Poly) : Nat := w.foldr (fun c r => (c + r * x) % q) 0

/-- The values at the odd powers of the root, in bit-reversed order, and back. -/
def ntt (w : Poly) : Poly := (List.range 256).map fun i => evalAt (zeta (2 * rev8 i + 1)) w
def unNtt (w : Poly) : Poly :=
  let v := (List.range 256).map fun e => co w (rev8 e)
  (List.range 256).map fun i => evalAt (zeta (1024 - 2 * i)) v * zeta (512 - i) % q * 8347681 % q

/-- A matrix of transformed polynomials times a transformed vector. -/
def matMul (a : List PVec) (v : PVec) : PVec :=
  a.map fun r => (List.zipWith mulP r v).foldl plus (List.replicate 256 0)

/-- Coefficients of `c` bits each in little-endian order, packed and unpacked. -/
def pack (c : Nat) (w : List Nat) : List Byte := leBytes (32 * c) (w.foldr (fun x r => x + r * 2 ^ c) 0)
def unpack (c : Nat) (l : List Byte) : List Nat := let v := leNat l; (List.range 256).map fun i => v >>> (c * i) % 2 ^ c

/-- Distance of a coefficient from 0, and the largest in a vector. -/
def dist (x : Nat) : Nat := min x (q - x)
def norm (v : PVec) : Nat := (v.flatten.map dist).foldl max 0

/-- Uniform coefficients from a byte stream, three bytes each. -/
def rejUniform : List Byte → List Nat
  | a :: b :: c :: r =>
    let z := a.toNat + b.toNat * 256 + c.toNat % 128 * 65536
    if z < q then z :: rejUniform r else rejUniform r
  | _ => []
/-- Coefficients of −4 … 4 from a byte stream, one of each half byte. -/
def rejSmall : List Byte → List Nat
  | [] => []
  | b :: r => ([b.toNat % 16, b.toNat / 16].filter (· < 9)).map (fun x => (q + 4 - x) % q) ++ rejSmall r

def expandA (rho : List Byte) : List PVec :=
  (List.range 6).map fun r => (List.range 5).map fun s =>
    (rejUniform (shake128 (rho ++ leBytes 1 s ++ leBytes 1 r) 1008)).take 256
def expandS (rho : List Byte) (r : Nat) : Poly := (rejSmall (hash (rho ++ leBytes 2 r) 544)).take 256
def expandMask (rho : List Byte) (k : Nat) : PVec :=
  (List.range 5).map fun r => (unpack 20 (hash (rho ++ leBytes 2 (k + r)) 640)).map fun x => (q + 2 ^ 19 - x) % q

/-- The challenge: 49 coefficients of ±1, placed by a byte stream from position 256 − 49 upwards. -/
def ballFrom (signs : Nat) : Nat → List Byte → Poly → Poly
  | _, [], c => c
  | i, j :: r, c =>
    if 256 ≤ i then c
    else if i < j.toNat then ballFrom signs i r c
    else ballFrom signs (i + 1) r ((c.set i (co c j.toNat)).set j.toNat (if signs.testBit (i - 207) then q - 1 else 1))
def ball (seed : List Byte) : Poly :=
  let b := hash seed 272
  ballFrom (leNat (b.take 8)) 207 (b.drop 8) (List.replicate 256 0)

/-- The high and low parts of a coefficient around multiples of 2γ₂ = 523,776. -/
def high (r : Nat) : Nat := (r + 261887) / 523776 % 16
def low (r : Nat) : Nat := (r + q - high r * 523776) % q
def useHint (h r : Nat) : Nat :=
  if h = 0 then high r else if 0 < low r && low r ≤ q / 2 then (high r + 1) % 16 else (high r + 15) % 16
def w1Bytes (w : PVec) : List Byte := (w.map (pack 4)).flatten

/-- The hint of a signature: 55 positions and, for each of the six polynomials, where its positions end. -/
def hintPoly (y : List Byte) (lo hi : Nat) : Option Poly :=
  let l := (List.range (hi - lo)).map fun k => (byteAt y (lo + k)).toNat
  if hi < lo || 55 < hi || (List.range (l.length - 1)).any (fun k => l.getD (k + 1) 0 ≤ l.getD k 0) then none
  else some ((List.range 256).map fun i => (l.contains i).toNat)
def hintEnd (y : List Byte) (i : Nat) : Nat := if i = 0 then 0 else (byteAt y (54 + i)).toNat
def hint (y : List Byte) : Option PVec :=
  if ((y.take 55).drop (hintEnd y 6)).any (· != 0) then none
  else (List.range 6).foldr (fun i r => match hintPoly y (hintEnd y i) (hintEnd y (i + 1)), r with
    | some a, some l => some (a :: l)
    | _, _ => none) (some [])
def hintBytes (h : PVec) : List Byte :=
  let at_ (w : Poly) : List Nat := (List.range 256).filter fun i => co w i == 1
  padTo 55 ((h.map at_).flatten.map fun i => BitVec.ofNat 8 i)
    ++ (List.range 6).map fun k => BitVec.ofNat 8 (((h.take (k + 1)).map at_).flatten.length)

/-- The message representative of a message in pure form with an empty context. -/
def represent (pk m : List Byte) : List Byte := hash (hash pk 64 ++ [0, 0] ++ m) 64

/-- The signature of a message verifies under a public key. -/
def verify (pk sig m : List Byte) : Bool :=
  let t1 := (List.range 6).map fun i => unpack 10 (slice pk (32 + 320 * i) 320)
  let c := slice sig 0 48
  let z := (List.range 5).map fun i => (unpack 20 (slice sig (48 + 640 * i) 640)).map fun x => (q + 2 ^ 19 - x) % q
  match hint (slice sig 3248 61) with
  | none => false
  | some h =>
    let a := matMul (expandA (slice pk 0 32)) (z.map ntt)
    let ch := ntt (ball c)
    let w := List.zipWith (fun x t => unNtt (minus x (mulP ch (ntt (t.map (· * 8192)))))) a t1
    norm z < 2 ^ 19 - 196
      && c == hash (represent pk m ++ w1Bytes (List.zipWith (List.zipWith useHint) h w)) 48

/-- What a seed gives: ρ, ρ′, K and the vectors s₁, s₂ and t. -/
structure Key where
  rho : List Byte
  k : List Byte
  s1 : PVec
  s2 : PVec
  t : PVec
  deriving DecidableEq, Repr

def keyGen (seed : List Byte) : Key :=
  let x := hash (seed ++ [6, 5]) 128
  let s1 := (List.range 5).map (expandS (slice x 32 64))
  let s2 := (List.range 6).map fun r => expandS (slice x 32 64) (r + 5)
  ⟨slice x 0 32, slice x 96 32, s1, s2,
    List.zipWith plus ((matMul (expandA (slice x 0 32)) (s1.map ntt)).map unNtt) s2⟩

/-- The rounded high part of t, and the rest. -/
def t1Of (r : Nat) : Nat := (r + 4095) / 8192
def t0Of (r : Nat) : Nat := (r + q - t1Of r * 8192) % q
def Key.pub (k : Key) : List Byte := k.rho ++ (k.t.map fun w => pack 10 (w.map t1Of)).flatten

/-- One attempt at a signature with the mask of counter `kappa`. -/
def attempt (key : Key) (mu rho : List Byte) (kappa : Nat) : Option (List Byte) :=
  let y := expandMask rho kappa
  let w := (matMul (expandA key.rho) (y.map ntt)).map unNtt
  let c := hash (mu ++ w1Bytes (w.map (·.map high))) 48
  let ch := ntt (ball c)
  let by_ (v : PVec) : PVec := v.map fun s => unNtt (mulP ch (ntt s))
  let z := List.zipWith plus y (by_ key.s1)
  let r := List.zipWith minus w (by_ key.s2)
  let ct := by_ (key.t.map (·.map t0Of))
  let h := List.zipWith (List.zipWith fun a b => (high a != high ((a + b) % q)).toNat) r ct
  if 2 ^ 19 - 196 ≤ norm z || 261888 - 196 ≤ norm (r.map (·.map low)) || 261888 ≤ norm ct || 55 < h.flatten.sum then none
  else some (c ++ (z.map fun v => pack 20 (v.map fun x => (q + 2 ^ 19 - x) % q)).flatten ++ hintBytes h)

/-- The deterministic signature of a message, by at most 814 attempts (FIPS 204, appendix C). -/
def sign (key : Key) (m : List Byte) : List Byte :=
  let mu := represent key.pub m
  let rho := hash (key.k ++ List.replicate 32 0 ++ mu) 64
  ((List.range 814).findSome? fun i => attempt key mu rho (5 * i)).getD []

end MlDsa

/-! ### Attestation keys (R590) -/

/-- The key derivation of a root under a label: `n` bytes. -/
def attSeed (root : BitVec 256) (label : String) (n : Nat) : List Byte := kdf (beBytes 32 root.toNat) (ascii label) [] n
def attEcSeed (root : BitVec 256) : List Byte := attSeed root "FZ9640-ATT-EC" 56
def attPqKey (root : BitVec 256) : MlDsa.Key := MlDsa.keyGen (attSeed root "FZ9640-ATT-PQ" 32)

/-- The attestation public keys, and the signatures over a statement (R624). -/
def attEcPub (root : BitVec 256) : List Byte := P384.public448 (attEcSeed root)
def attPqPub (root : BitVec 256) : List Byte := (attPqKey root).pub
def attEcSign (root : BitVec 256) (m : List Byte) : List Byte := P384.sign (P384.secret448 (attEcSeed root)) m
def attPqSign (root : BitVec 256) (m : List Byte) : List Byte := MlDsa.sign (attPqKey root) m

end Sys2Proof.Machine
end

