-- ==== Sys2Proof/Machine/Boot.lean ====
section
/-!
DEFINITION. The boot: image checks, bank selection, settings, loads and migration, as they come about within a logic-die
reset release (R86–R119).
-/

namespace Sys2Proof.Machine

/-! ### Image header and checks (R98–R101) -/

/-- A reader of image bytes by offset from the header. -/
abbrev Img := Nat → Byte

def imgLE (r : Img) (o n : Nat) : Nat := leNat ((List.range n).map fun i => r (o + i))
def imgBytes (r : Img) (o n : Nat) : List Byte := (List.range n).map fun i => r (o + i)

/-- A section entry: type, target, offset from the body, length, load address. -/
structure Section where
  typ : Nat
  target : Nat
  off : Nat
  len : Nat
  load : Nat
  deriving DecidableEq, Repr

def imgSection (r : Img) (i : Nat) : Section :=
  let o := 0x70 + i * 16
  ⟨imgLE r o 1, imgLE r (o + 2) 2, imgLE r (o + 4) 4, imgLE r (o + 8) 4, imgLE r (o + 12) 4⟩

/-- The section entries in use. -/
def imgSections (r : Img) : List Section := (List.range (imgLE r 0x2A 2)).map (imgSection r)

def imgBodyLen (r : Img) : Nat := imgLE r 0x24 4
def imgSecVer (r : Img) : Nat := imgLE r 0x0C 2
def imgSchema (r : Img) : Nat := imgLE r 0x0E 2
def imgVer (r : Img) : Nat := imgLE r 0x20 4

/-- SHA-384 of header and body (R103). -/
def imgDigest (r : Img) : BitVec 384 := sha384 (imgBytes r 0 (0x1700 + imgBodyLen r))

/-- Sections a bank or a stage-1 image must carry, and the type it may not (R98). -/
def sectionsPresent (stage1 : Bool) (l : List Section) : Bool :=
  let has (t g : Nat) := l.any fun x => x.typ == t && x.target == g
  if stage1 then l.any fun x => x.typ == 8
  else l.any (fun x => x.typ == 1) && has 3 0 && has 3 1 && l.any (fun x => x.typ == 4) && l.any (fun x => x.typ == 6)
    && !l.any fun x => x.typ == 8

/-- The destination of a section holds it: its limit by type, and system SRAM for what is loaded there. -/
def sectionFits (x : Section) : Bool :=
  let inSys := 0x10000000 ≤ x.load && x.load + x.len ≤ 0x12000000
  if x.typ = 1 || x.typ = 7 || x.typ = 8 then inSys
  else if x.typ = 2 then x.target < 16 && x.len ≤ 0x20000
  else if x.typ = 3 then x.target < 2 && x.len ≤ 0x8000
  else if x.typ = 4 then x.len ≤ 0x10000
  else if x.typ = 5 then x.target < 4 && x.len ≤ 0x40000
  else x.len ≤ 0x10000 - 16

/-- The fields of a section entry that its type fixes: TARGET 0 but for the types that name an engine, a die or a PHY class,
LOAD 0 but for those loaded into system SRAM, and OFFSET a multiple of 16 (R98). -/
def Section.formed (x : Section) : Bool :=
  x.off % 16 == 0
    && (x.typ == 2 || x.typ == 3 || x.typ == 5 || x.target == 0)
    && (x.typ == 1 || x.typ == 7 || x.typ == 8 || x.load == 0)

/-- Two sections do not overlap in the body. -/
def sectionsApart : List Section → Bool
  | [] => true
  | x :: r => (r.all fun y => x.off + x.len ≤ y.off || y.off + y.len ≤ x.off || x.len == 0 || y.len == 0) && sectionsApart r

/-- Check 1 of R101, which takes in the section entries' form (DEDUCED, log 116). -/
def headerOk (r : Img) (stage1 : Bool) : Bool :=
  imgLE r 0 4 == 0x96401A6E && imgLE r 4 2 == 1 && imgLE r 6 2 < 2
    && (1 ≤ imgLE r 0x2A 2 && imgLE r 0x2A 2 ≤ 16)
    && (imgBytes r 0x31 15).all (· == 0) && (imgBytes r 0x16BD 67).all (· == 0)
    && (imgSections r).all (fun x => 1 ≤ x.typ && x.typ ≤ 8)
    && ((List.range (imgLE r 0x2A 2)).all fun i => r (0x70 + i * 16 + 1) == 0)
    && (imgSections r).all Section.formed
    && sectionsPresent stage1 (imgSections r)

/-- Where execution of an image starts: ENTRY within its CORE_CODE or STAGE1 section (R98). -/
def imgEntry (r : Img) : Nat :=
  match (imgSections r).find? fun x => x.typ == 1 || x.typ == 8 with
  | some x => x.load + imgLE r 0x2C 4
  | none => 0

/-- A word of the image of header and body at `base` holds an uncorrectable error (check 11 of R101). -/
def State.imgBad (s : State) (base : Nat) : Bool :=
  let n := 0x1700 + leNat ((List.range 4).map fun i => s.ldb (base + 0x24 + i))
  s.eccBad.any fun a => base < a + 8 && a < base + n

/-- MRAM floor copy `k`: SEQ (4 bytes), the floor (2), zeros (2) and a CRC-32 over them (4); none when it does not verify.
The spec gives the copies' region, 0x21FC_2000, and no layout (DESIGN CHOICE, log 117). -/
def floorAt (k : Nat) : Nat := 0x21FC2000 + k * 0x10
def State.floorCopy (s : State) (k : Nat) : Option (Nat × Nat) :=
  if s.anyBad (floorAt k) 12 || crc32 (s.ldBytes (floorAt k) 8) != s.ldLE (floorAt k + 8) 4 then none
  else some (s.ldLE (floorAt k) 4, s.ldLE (floorAt k + 4) 2)

/-- Write floor copy `k`. -/
def State.putFloorCopy (s : State) (k seq v : Nat) : State :=
  let b := leBytes 4 seq ++ leBytes 4 (v % 65536)
  s.memPut (floorAt k) (b ++ leBytes 4 (crc32 b))

/-- The effective anti-rollback floor: the higher valid copy wins, over the fuses' (R109). -/
def State.mramFloor (s : State) : Nat :=
  max ((s.floorCopy 0).map (·.2) |>.getD 0) ((s.floorCopy 1).map (·.2) |>.getD 0)
def State.floor (s : State) : Nat := max s.mramFloor (1024 * s.fuse.floor)

/-- Checks 1 to 8 of R101 in order: 0 when all pass, else the reason of the first that fails. -/
def State.imageCheck8 (s : State) (r : Img) (cap : Nat) (stage1 : Bool) : Nat :=
  if !headerOk r stage1 then 1
  else if imgLE r 8 4 != 0x96400001 then 2
  else if s.fuse.stepMaj.toNat * 256 + s.fuse.stepMin.toNat < imgLE r 0x28 2 then 3
  else if imgLE r 0x10 16 != 0 && imgLE r 0x10 16 != s.fuse.unitId.toNat then 4
  else if cap < 0x1700 + imgBodyLen r || !((imgSections r).all fun x => x.off + x.len ≤ imgBodyLen r && sectionFits x)
      || !sectionsApart (imgSections r) then 5
  else if (let k := imgLE r 0x30 1
      !(k < 4 && !s.fuse.revoked.getD k true && s.fuse.anchors.getD k none == some (sha384 (imgBytes r 0x170 (96 + 1952))))) then 6
  else if imgSecVer r < s.floor then 7
  else if sha384 (imgBytes r 0x1700 (imgBodyLen r)) != BitVec.ofNat 384 (beNat (imgBytes r 0x40 48)) then 8
  else 0

/-- Checks 9 and 10: both signatures over header bytes 0x000–0x96F (R99). -/
def imageSigs (r : Img) : Nat :=
  let m := imgBytes r 0 0x970
  if !P384.verify (imgBytes r 0x170 96) (imgBytes r 0x970 96) m then 9
  else if !MlDsa.verify (imgBytes r 0x1D0 1952) (imgBytes r 0x9D0 3309) m then 10 else 0

/-- Every check of R101: 0 when the image is accepted, else the reason code. -/
def State.imageCheck (s : State) (r : Img) (cap : Nat) (stage1 ecc : Bool) : Nat :=
  let a := s.imageCheck8 r cap stage1
  if a != 0 then a else
  let b := imageSigs r
  if b != 0 then b else if ecc then 12 else 0

/-- Reader of an MRAM or SRAM image at `base`. -/
def State.img (s : State) (base : Nat) : Img := fun o => s.ldb (base + o)

def bankBase (b : Bool) : Nat := if b then 0x20C00000 else 0x20000000
def bankCap : Nat := 0xC00000
def s1Base (b : Bool) : Nat := if b then 0x21F80000 else 0x21F40000
def s1Cap : Nat := 0x40000

/-- The recovery image: the contents of namespace 0 (R631). -/
def State.recImg (s : State) : Img := fun o => byteAt (smGet (fun _ => []) s.nand.blocks (o / 4096)) (o % 4096)

def State.imgOf (s : State) : ImgSrc → Img
  | .bank b => s.img (bankBase b)
  | .recovery => s.recImg
  | .stage1 b => s.img (s1Base b)
  | .sram a => s.img a

/-! ### Boot state record (R97), floor copies (R109, R111) -/

/-- Boot state record copy `k`: SEQ (4 bytes), flags (4: bit 0 active bank, 1 pending, 2 pending bank, 3 trial,
4 CLOSE_NEXT, 5 a migrated image is recorded), its SHA-384 (48) and a CRC-32 over them (4). The spec gives the contents and
the place, and no layout (DESIGN CHOICE, log 117). -/
def recAt (k : Nat) : Nat := 0x21FC0000 + k * 0x1000

def BootRec.bytes (r : BootRec) : List Byte :=
  let b := leBytes 4 r.seq
    ++ leBytes 4 (r.active.toNat + 2 * r.pending.toNat + 4 * r.pendBank.toNat + 8 * r.trial.toNat + 16 * r.closeNext.toNat
        + 32 * r.migrated.isSome.toNat)
    ++ beBytes 48 ((r.migrated.map (·.toNat)).getD 0)
  b ++ leBytes 4 (crc32 b)

/-- The record that 60 bytes spell, none when the CRC-32 does not verify. -/
def BootRec.ofBytes (l : List Byte) : Option BootRec :=
  if crc32 (slice l 0 56) != leNat (slice l 56 4) then none
  else
    let f := leNat (slice l 4 4)
    some { seq := leNat (slice l 0 4), active := f.testBit 0, pending := f.testBit 1, pendBank := f.testBit 2
           trial := f.testBit 3, closeNext := f.testBit 4
           migrated := if f.testBit 5 then some (BitVec.ofNat 384 (beNat (slice l 8 48))) else none }

def State.bootCopy (s : State) (k : Nat) : Option BootRec :=
  if s.anyBad (recAt k) 60 then none else BootRec.ofBytes (s.ldBytes (recAt k) 60)

/-- The copy that holds the highest valid sequence, none when neither copy is valid. -/
def State.bootWinner (s : State) : Option Nat :=
  match s.bootCopy 0, s.bootCopy 1 with
  | some a, some b => some (if a.seq < b.seq then 1 else 0)
  | some _, none => some 0
  | none, some _ => some 1
  | none, none => none

/-- The boot state record: the winning copy; without a valid one bank A is active and nothing is requested (log 15). -/
def State.bootRec (s : State) : BootRec := (s.bootWinner.bind s.bootCopy).getD {}

/-- A change writes the copy that does not hold the highest valid sequence, with a 32-bit sequence one above it. -/
def State.putRecord (s : State) (f : BootRec → BootRec) : State :=
  let r := s.bootRec
  let n := { f r with seq := (r.seq + 1) % 2 ^ 32 }
  s.memPut (recAt (match s.bootWinner with | some k => 1 - k | none => 0)) n.bytes

/-- Write a new MRAM floor into both copies, the one that does not win first: whether CONFIRM writes both the spec does not
say (DESIGN CHOICE, log 118). -/
def State.putFloor (s : State) (v : Nat) : State :=
  let q (k : Nat) : Nat := ((s.floorCopy k).map (·.1)).getD 0
  let n := (max (q 0) (q 1) + 1) % 2 ^ 32
  (s.putFloorCopy 1 n v).putFloorCopy 0 n v

/-- Two valid floor copies that disagree: the lower is rewritten and fault 0xC009 reported (R111). -/
def State.floorRepair (s : State) : State :=
  match s.floorCopy 0, s.floorCopy 1 with
  | some a, some b =>
    if a.2 < b.2 then (s.putFloorCopy 0 b.1 b.2).report 0xC009
    else if b.2 < a.2 then (s.putFloorCopy 1 a.1 a.2).report 0xC009
    else s
  | _, _ => s

/-! ### Settings (R112–R114) -/

def guardBase (k : Nat) : Nat := 0x21800000 + k * 0x10000

/-- A guard settings copy: valid when its length fits and its CRC-32 over header and body verifies. -/
def State.guardValid (s : State) (k : Nat) : Bool :=
  let len := s.ldLE (guardBase k + 8) 4
  len ≤ 0x10000 - 16 &&
    crc32 (s.ldBytes (guardBase k) 12 ++ s.ldBytes (guardBase k + 16) len) == s.ldLE (guardBase k + 12) 4

/-- The winning guard copy: the valid one with the highest SEQ. -/
def State.guardWinner (s : State) : Option Nat :=
  let q (k : Nat) := s.ldLE (guardBase k) 4
  if s.guardValid 0 && (!s.guardValid 1 || q 1 ≤ q 0) then some 0 else if s.guardValid 1 then some 1 else none

/-- Write a guard copy with its header and CRC. -/
def State.putGuard (s : State) (k seq schema : Nat) (body : List Byte) : State :=
  let h := leBytes 4 seq ++ leBytes 2 schema ++ leBytes 2 0 ++ leBytes 4 body.length
  s.stBytes (guardBase k) (h ++ leBytes 4 (crc32 (h ++ body)) ++ body)

/-- The body of the winning guard copy. -/
def State.guardBody (s : State) : List Byte :=
  match s.guardWinner with
  | some k => s.ldBytes (guardBase k + 16) (s.ldLE (guardBase k + 8) 4)
  | none => []

/-- GUARD_SETTINGS_RESET (R113): a schema change, or no valid copy, makes stage 1 write the image's GUARD_DEF as a new copy. -/
def State.guardCheck (s : State) (r : Img) : State :=
  let defn := match (imgSections r).find? fun x => x.typ == 6 with
    | some x => imgBytes r (0x1700 + x.off) x.len
    | none => []
  match s.guardWinner with
  | none => (s.putGuard 0 1 (imgSchema r) defn).report 0xC008
  | some k =>
    if s.ldLE (guardBase k + 4) 2 = imgSchema r then s
    else (s.putGuard (1 - k) (s.ldLE (guardBase k) 4 + 1) (imgSchema r) defn).report 0xC005

/-- Ownership registers of the far dies: CH_OWN and SIN_OWN. -/
def isFarOwner (a : Nat) : Bool :=
  (0x80000000 ≤ a && a < 0x82000000 && 0x10000 ≤ a % 0x1000000 && a % 0x1000000 < 0x12000 && a % 0x100 == 0)
    || (frontBase + 0x10000 ≤ a && a < frontBase + 0x10400 && a % 0x20 == 0)

/-- T_CTL of a thread. -/
def isThreadCtl (a : Nat) : Bool :=
  secBase ≤ a && a < secBase + 0x10000 && 0x100 ≤ a % 0x1000 && a % 0x1000 < 0x500 && a % 0x80 == 0

/-- OWNERSHIP_RESTORE (R36): stage 1 writes the words the guard settings assign. A far-die ownership register that is held
stands as it is, and is reported when it differs; a word for T_CTL sets the thread's PC and starts nothing. -/
def State.guardApply (s : State) : State :=
  (Config.guardWords s.guardBody).foldl (fun s p =>
    if isFarOwner p.1 then
      if !ownHeld (s.rd p.1) then s.wr p.1 p.2
      else if s.rd p.1 == p.2 then s
      else s.report 0xC00A p.1
    else if isThreadCtl p.1 then
      s.setQpc ((p.1 - secBase) / 0x1000) ((p.1 % 0x1000 - 0x100) / 0x80) (fld p.2 29 16)
    else s.wr p.1 p.2) s

/-- Stage 1 starts the engine threads that own drive lines (R89): those that a valid DL_BIND names, with the tags of DL_OWN
(R248). Each runs from the PC its T_CTL holds. -/
def State.startLineThreads (s : State) : State :=
  (List.range 64).foldl (fun s k =>
    let b := s.rd (dlA k 4)
    let e := fld b 11 8
    let t := fld b 2 0
    let o := s.rd (dlA k 0)
    let g := s.threadTags (e * 8 + t)
    if bit b 31 && ownHeld o && BitVec.ofNat 8 (fld o 7 0) == g.tid && bit o 8 == g.w then s.thStart e t else s) s

/-! ### Tuning records (R114–R116) -/

/-- Whether the tuning record at `a` verifies: its CRC-32 covers bytes 0x0–0xB with FLAGS read as 0, then the payload. -/
def State.tuneValid (s : State) (a : Nat) : Bool :=
  let len := s.ldLE (a + 4) 4
  a + 16 + len ≤ 0x21900000 &&
    crc32 (s.ldBytes a 8 ++ [0, 0] ++ s.ldBytes (a + 10) 2 ++ s.ldBytes (a + 16) len) == s.ldLE (a + 12) 4

/-- The addresses of the tuning records from `a` upwards, to free space or the first that does not verify. -/
def State.tuneScan (s : State) : Nat → Nat → List Nat
  | 0, _ => []
  | n + 1, a =>
    if s.ldLE a 2 = 0xFFFF || !s.tuneValid a then [] else a :: s.tuneScan n (a + 16 + s.ldLE (a + 4) 4)

def State.tunes (s : State) : List Nat := s.tuneScan 0xE000 0x21820000

/-- SUPERSEDED of the record at `a`. -/
def State.superseded (s : State) (a : Nat) : Bool := bit (s.ldb (a + 8)) 0
def State.supersede (s : State) (a : Nat) : State := s.stb (a + 8) (s.ldb (a + 8) ||| 1)

/-- Of two unsuperseded records with one TAG the one at the higher offset wins, and SUPERSEDED is set on the other (R114). -/
def State.tuneRepair (s : State) : State :=
  s.tunes.foldl (fun s a =>
    if !s.superseded a && s.tunes.any (fun b => a < b && !s.superseded b && s.ldLE b 2 == s.ldLE a 2) then s.supersede a
    else s) s

/-- Where free space begins behind the tuning records. -/
def State.tuneEnd (s : State) : Nat :=
  match s.tunes.getLast? with
  | some a => a + 16 + s.ldLE (a + 4) 4
  | none => 0x21820000

/-- One conversion under R114 of an unsuperseded record: the new record in free space first, then SUPERSEDED on the old one.
Without room the record stays as it is. -/
def State.convert (s : State) (c : Conversion) : State :=
  let n := s.tuneEnd
  if s.tunes.contains c.oldAt && !s.superseded c.oldAt && n + 16 + c.payload.length ≤ 0x21900000 then
    let h := s.ldBytes c.oldAt 2 ++ leBytes 2 c.ver ++ leBytes 4 c.payload.length ++ [0, 0, 0, 0]
    let s := s.memPut n (h ++ leBytes 4 (crc32 (h ++ c.payload)) ++ c.payload)
    { s.supersede c.oldAt with boot := { s.boot with migrDone := s.boot.migrDone ++ [n] } }
  else s

/-- The tuning records that the routine has neither converted nor written. -/
def State.tunesLeft (s : State) : List Nat :=
  s.tunes.filter fun a => !s.superseded a && !s.boot.migrDone.contains a

/-- Report a record of unknown version that was kept (R115). -/
def State.tuneReport (s : State) (a : Nat) : State := s.report 0xC006 (s.ldLE a 2)

/-- The digest of the running image is recorded as migrated (R115). -/
def State.migrated (s : State) (r : Img) : State :=
  let s := s.putRecord fun b => { b with migrated := some (imgDigest r) }
  { s with boot := { s.boot with migrating := false } }

/-- TUNING_MIGRATION (R115): the MIGRATE section runs at the first start of an image whose SHA-384 differs from the recorded
one. An image that carries none converts nothing and is not recorded (DESIGN CHOICE, log 119). -/
def State.migrate (s : State) (r : Img) (m : Migration) : State :=
  if s.bootRec.migrated = some (imgDigest r) || !(imgSections r).any fun x => x.typ == 7 then s else
  match m with
  | .completed done unknown =>
    let s := done.foldl State.convert s
    ((s.tunesLeft.filter unknown.contains).foldl State.tuneReport s).migrated r
  | .running done =>
    let s := done.foldl State.convert s
    { s with boot := { s.boot with migrating := true } }

/-! ### Loads (R93, R94) -/

/-- A section's bytes go to their destination in the module. -/
def State.loadSection (s : State) (r : Img) (x : Section) : State :=
  let b := imgBytes r (0x1700 + x.off) x.len
  if x.typ = 1 || x.typ = 7 || x.typ = 8 then s.stBytes x.load b
  else if x.typ = 2 then s.stBytes (winBase + x.target * 0x20000) b
  else if x.typ = 5 then { s with boot := { s.boot with phyFw := s.boot.phyFw ++ [x.target] } }
  else s

/-- A supervisor or front-die manager load is retried once; a second failure reports fault 0xC007, and a power die then
stays in limp-home (R93). -/
def State.dieLoad (s : State) (die fails : Nat) : State :=
  let s := if die < 2 then s.setDie die { s.die die with loadFailed := decide (2 ≤ fails) } else s
  if 2 ≤ fails then s.report 0xC007 (if die < 2 then 3 else 4) die else s

/-- BOOT_STAT fields. -/
def bootStat : Nat := rbcBase + 4

/-- PHY firmware that fails to start keeps its port link-down (0x6008). -/
def State.phyStart (s : State) (fail : BitVec 15) : State :=
  let s := { s with boot := { s.boot with phyBad := fail } }
  ((List.range 15).filter fun p => bit fail p).foldl (fun s p => s.report 0x6008 p) s

/-- Core 0 starts an image: it runs from the entry, in the Reserve world and machine mode as at reset (R86, R98). -/
def State.startImage (s : State) (i : ImgSrc) : State :=
  let s := { s with boot := { s.boot with src := some i } }
  s.setHart 0 { s.hart 0 with pc := BitVec.ofNat 64 (imgEntry (s.imgOf i)) }

/-- A report of default severity SAFE_STATE travels to FC: it is made a record during this start. -/
def State.safePending (s : State) : Bool := s.reports.any fun r => defSev r.id == some 2

/-- The end of a start, once no migration runs (R87 steps 5 and 6): ownership from the guard settings, the threads that own
drive lines, the image, and SAFE_CLR, which releases FLT_N unless a SAFE_STATE fault is pending (R693). -/
def State.bootEnd (s : State) (i : ImgSrc) : State :=
  let s := (s.guardApply.startLineThreads).startImage i
  if s.safePending then s else (s.wf fcBase 15 0 0).wb fcBase 31 false

/-- Run a verified image: its loads, settings, ownership and migration. IM_LOCK is set in every engine that was loaded
(R262). -/
def State.runImage (s : State) (i : ImgSrc) (env : BootEnv) : State :=
  let r := s.imgOf i
  let s := (imgSections r).foldl (fun s x => s.loadSection r x) s
  let s := ((s.dieLoad 0 env.failP0).dieLoad 1 env.failP1).dieLoad 2 env.failF
  let s := s.phyStart env.phyFail
  let s := (s.guardCheck r).tuneRepair
  let s := { s with boot := { s.boot with src := some i } }
  let s := s.migrate r env.migration
  let s := ((imgSections r).filter fun x => x.typ == 2).foldl (fun s x => s.wb (secBase + x.target * 0x1000) 0 true) s
  if s.boot.migrating then s else s.bootEnd i

/-! ### Bank verification and selection (R103–R108) -/

/-- The sealed record of a bank: SHA-384 (48 bytes), SEC_VER (2) and the CMAC (16), the model's layout in the region that
the spec gives it (DESIGN CHOICE, log 117). -/
def sealAt (b : Bool) : Nat := 0x21FC2040 + b.toNat * 0x80
def State.sealOf (s : State) (b : Bool) : Sealed :=
  let a := sealAt b
  ⟨BitVec.ofNat 384 (beNat (s.ldBytes a 48)), s.ldLE (a + 48) 2, BitVec.ofNat 128 (beNat (s.ldBytes (a + 50) 16))⟩
def State.putSeal (s : State) (b : Bool) (x : Sealed) : State :=
  s.memPut (sealAt b) (beBytes 48 x.digest.toNat ++ leBytes 2 x.secVer ++ beBytes 16 x.tag.toNat)

/-- The tag a sealed record must carry (R103). -/
def State.sealMac (s : State) (d : BitVec 384) (sv : Nat) : BitVec 128 :=
  sealTag s.kst.testRoot (beBytes 48 d.toNat ++ leBytes 2 sv)

/-- The sealed record of the bank verifies for its present contents (R104). -/
def State.sealGood (s : State) (b : Bool) : Bool :=
  let r := s.img (bankBase b)
  let x := s.sealOf b
  !s.anyBad (sealAt b) 66 && x.digest == imgDigest r && x.secVer == imgSecVer r && x.tag == s.sealMac x.digest x.secVer

/-- BANK_VERIFY: checks 1–8 and the sealed record, or the full check, after which the bank is sealed anew; answers the
reason, whether this was the contents' first start, and the state with the sealed record (R103, R104). -/
def State.verifyBank (s : State) (b ecc : Bool) : Nat × Bool × State :=
  let r := s.img (bankBase b)
  let ecc := ecc || s.imgBad (bankBase b)
  if s.sealGood b then (let c := s.imageCheck8 r bankCap false; if c != 0 then c else if ecc then 12 else 0, false, s)
  else
    let c := s.imageCheck r bankCap false ecc
    if c != 0 then (c, false, s)
    else
      (0, (s.sealOf b).digest != imgDigest r,
        s.putSeal b ⟨imgDigest r, imgSecVer r, s.sealMac (imgDigest r) (imgSecVer r)⟩)

/-- Record a bank's reason code in FAIL_A or FAIL_B. -/
def State.bankFail (s : State) (b : Bool) (reason : Nat) : State :=
  if b then s.wf bootStat 15 12 reason else s.wf bootStat 11 8 reason

/-- Recovery mode (R117, R118): the recovery image runs when it passes R101; otherwise stage 1 waits. Which sections a
recovery image must carry the spec does not say: here those of a bank, and no STAGE1 (DESIGN CHOICE, log 120). -/
def State.recover (s : State) (env : BootEnv) : State :=
  if s.imageCheck s.recImg 0x4000000 false env.eccRec = 0 then (s.wb bootStat 6 true).runImage .recovery env
  else { s with boot := { s.boot with waitImage := true } }

/-- Run bank `b`. -/
def State.runBank (s : State) (b first trial : Bool) (env : BootEnv) : State :=
  let s := ((s.wb bootStat 2 b).wb bootStat 5 first).wb bootStat 3 trial
  s.runImage (.bank b) env

/-- The active bank, or the other when it fails, or recovery (R108). BOOT_STAT.MODE goes on reading the mode of the strap,
0b11, in a recovery entered so: the spec does not say (DESIGN CHOICE, log 121). -/
def State.runActive (s : State) (env : BootEnv) : State :=
  let b := s.bootRec.active
  let ecc (b : Bool) := if b then env.eccB else env.eccA
  let v := s.verifyBank b (ecc b)
  if v.1 = 0 then v.2.2.runBank b v.2.1 false env
  else
    let s := v.2.2.bankFail b v.1
    let w := s.verifyBank (!b) (ecc !b)
    if w.1 = 0 then
      let s := (w.2.2.putRecord fun r => { r with active := !b }).report 0xC002 v.1 b.toNat
      s.runBank (!b) w.2.1 false env
    else ((w.2.2.bankFail (!b) w.1).report 0xC003 w.1 (!b).toNat).recover env

/-- Normal boot of a bank: an unfinished trial is recorded (R107), a pending bank is tried (R105), else the active runs. -/
def State.bootBank (s : State) (env : BootEnv) : State :=
  let r := s.bootRec
  let s := if r.trial then
      ((s.putRecord fun r => { r with trial := false }).bankFail (!r.active) 11).report 0xC004 11 (!r.active).toNat
    else s
  if r.pending then
    let b := r.pendBank
    let s := s.wb (rbcBase + 8) 1 false
    let v := s.verifyBank b (if b then env.eccB else env.eccA)
    if v.1 = 0 then
      let s := v.2.2.putRecord fun r => { r with pending := false, trial := true }
      s.runBank b v.2.1 true env
    else ((v.2.2.bankFail b v.1).putRecord fun r => { r with pending := false }).runActive env
  else s.runActive env

/-- STAGE1_SELECT (R102): every check on both copies; of those that pass, the higher IMAGE_VER runs, copy A on a tie. A
rejected copy is reported; when both are, FAIL_S1 shows copy B's reason, which the spec leaves open (DESIGN CHOICE, log 122).
Answers the copy that runs. -/
def State.selectStage1 (s : State) (env : BootEnv) : Option Bool × State :=
  let ra := s.imageCheck (s.img (s1Base false)) s1Cap true (env.eccS1A || s.imgBad (s1Base false))
  let rb := s.imageCheck (s.img (s1Base true)) s1Cap true (env.eccS1B || s.imgBad (s1Base true))
  let s := if ra != 0 then (s.wf bootStat 19 16 ra).report 0xC001 ra 0 else s
  let s := if rb != 0 then (s.wf bootStat 19 16 rb).report 0xC001 rb 1 else s
  let pick : Option Bool :=
    if ra = 0 && rb = 0 then some (decide (imgVer (s.img (s1Base false)) < imgVer (s.img (s1Base true))))
    else if ra = 0 then some false else if rb = 0 then some true else none
  (pick, match pick with | some b => s.wb bootStat 4 b | none => s)

/-- The effective mode of BOOT_SEL (R74, R119): 3 normal, 2 recovery, 1 manufacturing. -/
def State.bootMode (s : State) (sel : BitVec 2) : Nat :=
  if sel = 3 then 3 else if sel = 1 && (s.fuse.dv || !s.fuse.mfgClosed) then 1 else 2

/-- The debug state of the start (R557). -/
def State.debugDecide (s : State) (mode : Nat) : State :=
  let isOpen := s.fuse.dv || (mode != 1 && !s.fuse.dbgLock && !s.bootRec.closeNext)
  let s := { s with dbg := { isOpen, load := !s.fuse.dv && mode == 1 } }
  if isOpen && !s.fuse.dv then s.report 0x1008 else s

/-- Buffered records of the far dies reach FC once their link carries flits; a buffer that overwrote some adds a record of
fault 0x2011 with the number lost (R400, R687). -/
def State.deliverLog (s : State) (src : Nat) : State :=
  if (s.link (src - 1)).up && s.logicOn then
    let l := s.dieLog src
    let lostRec := if l.lost = 0 then [] else [{ id := 0x2011, src, ctx0 := wd l.lost, time := s.now, fromLog := true : Report }]
    { s.setDieLog src {} with reports := s.reports ++ l.kept ++ lostRec }
  else s

/-- Entry `i` of the MRAM fault log: one above its LSEQ when its CRC verifies, else 0. -/
def State.logEntry (s : State) (i : Nat) : Nat :=
  let a := 0x21D40000 + i * 0x20
  if crc32 (s.ldBytes a 0x1C) = s.ldLE (a + 0x1C) 4 then s.ldLE (a + 0xC) 4 + 1 else 0

/-- One above the highest LSEQ in the MRAM fault log whose CRC verifies (R686). An entry without a written byte is all zeros,
and its CRC does not verify. -/
def State.logTop (s : State) : Nat :=
  (s.mem.foldl (fun (p : Nat × Nat) c =>
    let i := (c.1 - 0x21D40000) / 0x20
    if c.1 < 0x21D40000 || 65536 ≤ i || p.1 = i + 1 then p else (i + 1, max p.2 (s.logEntry i))) (0, 0)).2

/-- No beat command reached the front die while the logic die was held and booted: the pair role has lapsed (R660, R665). -/
def State.roleLapse (s : State) : State := if s.front.role = 0 then s else (s.setRole 0).reportF 0x7047

/-- The awake timer starts with MAX_AWAKE (R415). -/
def State.awakeStart (s : State) : State :=
  let m := s.rf (frontBase + 0xC) 16 0
  { s with front := { s.front with awakeRuns := true, awakeMax := m, awakeLeft := m * 500000000, forced := false } }

/-- The logic die and RSTN_OUT are released (R86): straps, debug state, core 0 in the boot ROM in the Reserve world with
TID 0, the Reserve watchdog at 500 ms, the time base at 0, the awake timer after a power-on reset or a start from SLEEP
(R415), and the boot. -/
def State.release (s : State) (env : BootEnv) : State :=
  let slept := s.pwr.fromSleep
  let fresh := s.pwr.fromPor || s.pwr.fromSleep
  let s := s.roleLapse
  let s : State := { s with
    pwr := { s.pwr with phase := .run, held := false, rstnOut := true, holdRuns := false, bootSel := env.bootSel
                        attempts := 0, fromPor := false, fromSleep := false, voutRead := false, capped := false }
    tb := { s.tb with acc := 0 }
    ticks := 0
    front := { s.front with linSlept := none } }
  let s := if s.rf (frontBase + 4) 2 0 = 4 then s.wf (frontBase + 4) 2 0 0 else s
  let s := s.wb (frontBase + 4) 11 slept
  let s := if slept then s.wr rbcBase 0 else s
  let s := if fresh then s.awakeStart else s
  let s := s.setHart 0 { s.hart 0 with held := false }
  let s := s.wf (wcuBase + 0x20) 31 31 1
  let s := { s with rwd := ⟨500, 0, 0, false, false⟩ }
  let s := s.wr (fcBase + 0x18) (wd s.logTop)
  let mode := s.bootMode env.bootSel
  let s := (s.wf bootStat 1 0 mode).debugDecide mode
  let s := s.kstStart env.attFail
  let s := [1, 2, 3].foldl State.deliverLog s
  let s := s.floorRepair
  let r := s.bootRec
  let s := s.wf (rbcBase + 8) 1 0 (r.pending.toNat * 2 + r.pendBank.toNat)
  if mode = 1 then { s with boot := { s.boot with waitImage := true } }
  else
    let p := s.selectStage1 env
    match p.1 with
    | none => { p.2 with boot := { p.2.boot with waitImage := true } }
    | some b =>
      let s1 := s.img (s1Base b)
      let s := ((imgSections s1).foldl (fun s x => s.loadSection s1 x) p.2).startImage (.stage1 b)
      if mode = 3 then s.bootBank env else s.recover env

end Sys2Proof.Machine
end

