-- ==== Sys2Proof/Machine/PowerSeq.lean ====
section
/-!
DEFINITION. Supplies, the power-up and power-down sequence, the core voltage, and resets of the whole module (R51–R62,
R72–R76, R83, R84, R95, R97), with the reset and boot control registers (R105–R110) and provisioning (R119).
-/

namespace Sys2Proof.Machine

/-- Whether a PG input is asserted. -/
def Power.pg (p : Power) : Rail → Bool
  | .core => p.pgCore | .sys => p.pgSys | .io => p.pgIo

def Power.setPg (p : Power) (b : Bool) : Rail → Power
  | .core => { p with pgCore := b } | .sys => { p with pgSys := b } | .io => { p with pgIo := b }

/-- Drive one REG_EN; an enable that falls takes its PG with it. -/
def Power.setEn (p : Power) (b : Bool) : Rail → Power
  | .core => { p with enCore := b, pgCore := p.pgCore && b }
  | .sys => { p with enSys := b, pgSys := p.pgSys && b }
  | .io => { p with enIo := b, pgIo := p.pgIo && b }

/-- Every REG_EN low. -/
def Power.dropAll (p : Power) : Power := ((p.setEn false .io).setEn false .sys).setEn false .core

/-- EXTEST is selected. -/
def Power.extest (p : Power) : Bool := p.jtag == .extest

def State.setPwr (s : State) (p : Power) : State := { s with pwr := p }

/-- VBAT_AO rises above 3.0 V (R55, step 1). -/
def execPowerOnReset (s : State) : Out := .next s.powerOn

/-- VBAT_AO is lost: the whole module loses power, but for the power dies that VBAT_Px supplies. -/
def execAlwaysOnSupplyLoss (s : State) : Out := .next s.supplyLost

/-- The 32.768 kHz crystal oscillates: the manager leaves its RC oscillator (R83). -/
def execXtal32kOscillationStart (s : State) : Out :=
  .next (if s.pwr.phase = .off then s else s.setPwr { s.pwr with xtal32k := true })

/-- REG_EN_CORE is asserted after a power-on reset, a wake or a retry; PAIR_SEL is sampled (R55 step 2, R73), the core
regulator starts at 0.75 V (R60), and after a power-on reset or a wake the manager is in POWER_UP (R397). -/
def execRegEnCoreAssert (pairSel : Bool) (s : State) : Out :=
  .next (if s.pwr.phase = .start then
    let t := s.setPwr { s.pwr.setEn true .core with
      phase := .waitPg .core, pairSel := pairSel, vcore := 750, vcoreGoal := 750 }
    if s.pwr.fromPor || s.pwr.fromSleep then t.wf (frontBase + 4) 2 0 4 else t
  else s)

/-- The awaited PG is asserted; the delay of the next step starts (R55). -/
def execPgInputAsserted (r : Rail) (s : State) : Out :=
  .next (if s.pwr.phase = .waitPg r then s.setPwr { s.pwr.setPg true r with phase := .delay r } else s)

/-- The delay ends: the next REG_EN is asserted or, after PG_IO, the logic die's release is due (R55). -/
def execPowerUpStepDelayExpiry (s : State) : Out :=
  .next (match s.pwr.phase with
    | .delay .core => s.setPwr { s.pwr.setEn true .sys with phase := .waitPg .sys }
    | .delay .sys => s.setPwr { s.pwr.setEn true .io with phase := .waitPg .io }
    | .delay .io => s.setPwr { s.pwr with phase := .release }
    | _ => s)

/-- The logic die and RSTN_OUT are released, and the boot runs (R55 step 8, R86), unless EXTEST holds the die (R84). -/
def execLogicResetRelease (env : BootEnv) (s : State) : Out :=
  .next (if s.pwr.phase = .release then
    if s.pwr.extest then s.setPwr { s.pwr with phase := .run, held := true, holdRuns := false } else s.release env
  else s)

/-- The 100 ms after a failed attempt, or the 10 ms after a PG loss, have passed: the sequence is run again (R56, R57). -/
def execPowerUpRetryExpiry (s : State) : Out :=
  .next (if s.pwr.phase = .retryWait || s.pwr.phase = .lossWait then s.setPwr { s.pwr with phase := .start } else s)

/-- The power-down of R58 runs or has ended. -/
def PwrPhase.down : PwrPhase → Bool
  | .sleepDrop _ => true | .dropped => true | .wakeWait => true | .asleep => true | _ => false

/-- An asserted PG is low for more than 20 µs: a chip reset with cause PG_LOSS, fault 0xA005 while awake, and
REG_EN_IO falls first (R57). The attempts that have failed before are forgotten: the spec does not say whether a power-up
that a PG loss ends counts (DESIGN CHOICE, log 115). In POWER_DOWN, which only the completion of R58 ends, the rails go on
falling (R397). -/
def execPgLoss (r : Rail) (s : State) : Out :=
  .next (if !s.pwr.pg r then s
    else if s.pwr.phase.down then s.setPwr (s.pwr.setPg false r)
    else
      let t := s.chipReset 5
      let t := if s.pwr.phase = .run then t.reportF 0xA005 else t
      t.setPwr { (t.pwr.setPg false r).setEn false .io with phase := .lossDrop .sys, attempts := 0 })

/-- The next enable of a power-down falls: SYS then CORE (R57, R58). -/
def execRegEnDropStep (s : State) : Out :=
  .next (match s.pwr.phase with
    | .lossDrop .sys => s.setPwr { s.pwr.setEn false .sys with phase := .lossDrop .core }
    | .lossDrop .core => s.setPwr { s.pwr.setEn false .core with phase := .lossWait }
    | .sleepDrop .sys => s.setPwr { s.pwr.setEn false .sys with phase := .sleepDrop .core }
    | .sleepDrop .core => s.setPwr { s.pwr.setEn false .core with phase := .dropped }
    | _ => s)

/-! ### Core voltage -/

/-- The clocks follow ISL_CTL.FREQ of both clusters, up to 1.5 GHz while the cap of R61 holds. -/
def State.clocksFollow (s : State) : State :=
  let top := if s.pwr.capped then 60 else 80
  s.setPwr { s.pwr with clk0 := min top (s.rf (icuBase + 0x40) 6 0), clk1 := min top (s.rf (icuBase + 0x44) 6 0) }

/-- The one read of VOUT_MODE after PG_IO: anything but ULINEAR16 leaves VCORE at 0.75 V and caps both clusters, whatever
FREQ asked for before (R61). -/
def execPmbusVoutModeRead (reply : VoutReply) (s : State) : Out :=
  .next (if s.logicOn && !s.pwr.voutRead then
    if reply = .ulinear16 then s.setPwr { s.pwr with voutRead := true }
    else (s.setPwr { s.pwr with voutRead := true, capped := true, vcoreGoal := 750 }).clocksFollow
  else s)

/-- One VCORE step of at most 25 mV towards its goal, by a PMBus transaction, of which none precedes the read of VOUT_MODE
(R61); a raised clock is set once VCORE has arrived (R62). -/
def execVcoreStep (s : State) : Out :=
  let p := s.pwr
  .next (if !p.voutRead then s
    else if p.vcore < p.vcoreGoal then
      let v := min p.vcoreGoal (p.vcore + 25)
      let s := s.setPwr { p with vcore := v }
      if v = p.vcoreGoal then s.clocksFollow else s
    else if p.vcoreGoal < p.vcore then s.setPwr { p with vcore := max p.vcoreGoal (p.vcore - 25) }
    else s)

/-! ### Chip resets -/

/-- RSTN low: 10 µs or more resets, under 1 µs is ignored, and between the two it either resets or is ignored (R75). -/
def execRstnPinReset (lowNs : Nat) (taken : Bool) (s : State) : Out :=
  .next (if s.pwr.phase = .run && (10000 ≤ lowNs || (1000 ≤ lowNs && taken)) then s.chipReset 1 else s)

/-- The 1.0 ms hold of a chip reset ends, VCORE having been stepped down to 0.75 V: the logic die is released unless EXTEST
still holds it (R62, R84, R86, R95). -/
def execChipResetRelease (env : BootEnv) (s : State) : Out :=
  .next (if s.pwr.phase = .run && s.pwr.held && s.pwr.holdRuns && s.pwr.vcore = 750 then
    if s.pwr.extest then s.setPwr { s.pwr with holdRuns := false } else s.release env
  else s)

/-- The VIO domain, and with it the JTAG port, is powered. -/
def Power.vio (p : Power) : Bool := p.phase == .run || p.pgIo

/-- EXTEST is selected: the logic die is held in chip reset with cause JTAG (R84). -/
def execJtagExtest (s : State) : Out :=
  .next (if s.pwr.vio && !s.pwr.extest then
    let s := s.chipReset 7
    s.setPwr { s.pwr with jtag := .extest, holdRuns := s.pwr.holdRuns && s.pwr.phase == .run }
  else s)

/-- What IDCODE reads (R85). -/
def State.idcode (s : State) : Word :=
  wd (s.fuse.stepMaj.toNat % 16 * 2 ^ 28 + 0x9640 * 2 ^ 12 + 0x5AD * 2 + 1)

/-- Another instruction is selected at the JTAG port: a chip reset that EXTEST held ends once its 1.0 ms hold is over, and
IDCODE is read by the instruction of that name (R84, R85). BYPASS and SAMPLE/PRELOAD leave the module as it is. -/
def execJtagExtestRelease (env : BootEnv) (s : State) (ir : JtagIr := .bypass) : Out :=
  .next (if !s.pwr.vio || ir = .extest then s
    else
      let t := s.setPwr { s.pwr with jtag := ir }
      let t := if s.pwr.extest && t.pwr.held && !t.pwr.holdRuns && t.pwr.phase = .run && t.pwr.vcore = 750
        then t.release env else t
      if ir = .idcode then { t with resp := ⟨.done, s.idcode.zeroExtend 64⟩ } else t)

/-- TDO and TB_EVT0–TB_EVT3 are high-impedance while the logic die is held in reset (R72). -/
def State.vioLandsFloat (s : State) : Bool := s.pwr.held

/-- Level of PAIR_HBO: high while a pulse lasts; a chip reset holds it without transitions (R72). -/
def State.hboHigh (s : State) : Bool := s.front.hboLeft != 0

/-! ### Reset and boot control -/

/-- The running bank, none while no bank runs. -/
def State.runningBank (s : State) : Option Bool :=
  match s.boot.src with
  | some (.bank b) => some b
  | _ => none

/-- BANK_CTL.CONFIRM during a trial (R106, R110): the trial bank becomes active, the trial ends and the floor rises to the
lowest SEC_VER among it and the stage-1 copies that pass R101; FUSE_FLOOR blows floor fuses to match. The floor never falls. -/
def State.confirm (s : State) : State :=
  if !s.rb bootStat 3 then s else
  let b := s.rb bootStat 2
  let r := s.img (bankBase b)
  let copies := ([false, true].filter fun k => s.imageCheck (s.img (s1Base k)) s1Cap true (s.imgBad (s1Base k)) = 0).map fun k =>
    imgSecVer (s.img (s1Base k))
  let low := copies.foldl min (imgSecVer r)
  let floor := max s.mramFloor low
  let fuses := if bit (wd (imgLE r 6 2)) 0 then min 64 (max s.fuse.floor (floor / 1024)) else s.fuse.floor
  let s := (s.putFloor floor).putRecord fun x => { x with active := b, trial := false }
  { s with fuse := { s.fuse with floor := fuses } }.wb bootStat 3 false

/-- The write rule of BANK_CTL (field table). -/
def State.putBankCtl (s : State) (t : Tags) (v : Word) : Ans :=
  let a := rbcBase + 8
  if !t.manager then s.deny t a
  else if fld v 15 8 = 0 then (.range, s)
  else if (s.rb a 1 || bit v 1) && s.runningBank == some (bit v 0) then (.conflict, s)
  else
    let s := (s.plainWr a v).wb a 1 (s.rb a 1 || bit v 1)
    let s := s.putRecord fun r => { r with pending := s.rb a 1, pendBank := bit v 0 }
    (.done, if bit v 2 then s.confirm else s)

/-- BANK_CTL.PENDING with PEND_BANK (R105). -/
def execBankPend (a : Acc) (bank : Bool) (s : State) : Out :=
  s.cfgWrite a (rbcBase + 8) (.bankPend a bank) fun t s =>
    s.putBankCtl t (setBit (setFld (s.rd (rbcBase + 8)) 2 1 1) 0 bank)

/-- BANK_CTL.CONFIRM (R106). -/
def execBankConfirm (a : Acc) (s : State) : Out :=
  s.cfgWrite a (rbcBase + 8) (.bankConfirm a) fun t s => s.putBankCtl t (setBit (s.rd (rbcBase + 8)) 2 true)

/-- TRIAL_WIN seconds without CONFIRM: a chip reset with cause TRIAL (R107). -/
def execTrialExpiry (s : State) : Out := .next (if s.logicOn && s.rb bootStat 3 then s.chipReset 6 else s)

/-- The write rule of SW_RESET: the KEY must be 0x9640 in the same write. -/
def State.putSwReset (s : State) (t : Tags) (v : Word) : Ans :=
  if !t.manager then s.deny t (rbcBase + 0xC)
  else if fld v 31 16 != 0x9640 then (.access, s)
  else (.done, if bit v 0 then s.chipReset 2 else s)

/-- SW_RESET.CHIP with a KEY (R95). -/
def execSwReset (a : Acc) (key : BitVec 16) (s : State) : Out :=
  s.cfgWrite a (rbcBase + 0xC) (.swReset a key) fun t s => s.putSwReset t (wd (key.toNat * 65536 + 1))

/-- The migration routine has run for 200 ms: stage 1 stops it, the records it has not converted are reported as kept, the
image is recorded as migrated, and the start goes on to its end (R116). -/
def execMigrationTimeout (s : State) : Out :=
  .next (match s.boot.src with
    | none => s
    | some i =>
      if s.logicOn && s.boot.migrating then ((s.tunesLeft.foldl State.tuneReport s).migrated (s.imgOf i)).bootEnd i else s)

/-- Program one fuse (R119): only an unprogrammed anchor takes a value. -/
def Fuses.provision (f : Fuses) : Provision → Fuses
  | .anchor i v => { f with anchors := modAt (fun o => match o with | none => some v | some w => some w) f.anchors i }
  | .revoke i => { f with revoked := modAt (fun _ => true) f.revoked i }
  | .mfgClosed => { f with mfgClosed := true }

/-- An image in system SRAM at `base`, written through the debug port, is checked and, once it passes R101, started: the
provisioning image in manufacturing mode, which may then program fuses, or, over an open debug port, the image that
stage 1 waits for (R118, R119). The image must lie in system SRAM whole. Its sections are loaded and core 0 runs it; stage 1
makes no settings, migration or ownership for it (DESIGN CHOICE, log 123). -/
def execMfgProvisionImage (base : Addr) (ecc : Bool) (prog : List Provision) (s : State) : Out :=
  .next (if s.logicOn && s.boot.waitImage && (s.rf bootStat 1 0 = 1 || s.dbg.isOpen) && inSram base.toNat then
    let r := s.img base.toNat
    let cap := 0x12000000 - base.toNat
    let ecc := ecc || s.imgBad base.toNat
    if s.imageCheck r cap false ecc = 0 || s.imageCheck r cap true ecc = 0 then
      let s := { s with boot := { s.boot with waitImage := false, provisioned := true } }
      let s : State := ((imgSections r).foldl (fun t x => t.loadSection r x) (s.startImage (.sram base.toNat)))
      if s.rf bootStat 1 0 = 1 then { s with fuse := prog.foldl Fuses.provision s.fuse } else s
    else s
  else s)

end Sys2Proof.Machine
end

