-- ==== Sys2Proof/Machine/Sleep.lean ====
section
/-!
DEFINITION. Sleep and wake: the always-on manager, its wake sources, selective wake and the maximum awake time (R397–R418).
-/

namespace Sys2Proof.Machine

/-- Register `off` of the always-on block. -/
def aoA (off : Nat) : Nat := frontBase + off
/-- Register `off` of CANn's selective-wake block. -/
def swA (n off : Nat) : Nat := frontBase + 0x1000 + n * 0x40 + off

/-- AO_STAT.STATE: 0 AWAKE, 1 SLEEP_PENDING, 2 POWER_DOWN, 3 SLEEP, 4 POWER_UP (R397). -/
def State.aoState (s : State) : Nat := s.rf (aoA 4) 2 0
def State.setAoState (s : State) (v : Nat) : State := s.wf (aoA 4) 2 0 v

def State.setFront (s : State) (f : FrontInt) : State := { s with front := f }

/-- WK_EN and WK_CAUSE hold one bit per source code: 0–31 in the low word, 32–44 in the high word (R407). -/
def State.wkEn (s : State) (code : Nat) : Bool := if code < 32 then s.rb (aoA 0x14) code else s.rb (aoA 0x18) (code - 32)
def State.setCause (s : State) (code : Nat) : State :=
  if code < 32 then s.wb (aoA 0x1C) code true else s.wb (aoA 0x20) (code - 32) true

/-- WK_CAUSE is wholly clear. -/
def State.noCause (s : State) : Bool := s.rd (aoA 0x1C) == 0 && s.rd (aoA 0x20) == 0

/-- Sense input `k` is held for wake use (R408). -/
def State.sinWakeHeld (s : State) (k : Nat) : Bool := ownHeld (s.rd (sinA k 0)) && s.rf (sinA k 0) 23 16 == 3

/-- The sources that can be armed: those whose WK_EN bit is set; a sense input only while it is held for wake use (R402,
R408). -/
def State.enabledSources (s : State) : List Nat :=
  (List.range 45).filter fun k => s.wkEn k && !(24 ≤ k && k < 32 && !s.sinWakeHeld (k - 24))

/-- How sense input `n` is wetted: 0 off, 1 continuously, 2 in pulses. From SLEEP_PENDING on an armed input is pulsed
whatever its MODE, and in sleep an unarmed one is not wetted (R408). -/
def State.wetting (s : State) (n : Nat) : Nat :=
  let st := s.aoState
  if 1 ≤ st && st ≤ 3 && s.front.armed.contains (24 + n) && n < 8 then 2
  else if st = 2 || st = 3 then 0 else s.rf (sinA n 4) 5 4

/-! ### Requesting sleep -/

/-- Entry to SLEEP_PENDING: the detector of every enabled source is armed, and every listening transceiver's frame error
counter starts at 0 (R402, R412). -/
def State.sleepPending (s : State) : State :=
  (s.setFront { s.front with armed := s.enabledSources, fec := [], deaf := [], decoding := [] }).setAoState 1

/-- The write rule of AO_CTL (R397, R401). -/
def State.putAoCtl (s : State) (v : Word) : Ans :=
  let st := s.aoState
  if st = 0 && bit v 0 then
    if s.rd (aoA 0x1C) &&& s.rd (aoA 0x14) != 0 || s.rd (aoA 0x20) &&& s.rd (aoA 0x18) != 0 then (.conflict, s)
    else (.done, s.sleepPending)
  else if st = 1 && bit v 1 then (.done, (s.setFront { s.front with armed := [] }).setAoState 0)
  else (.done, s)

/-- Range rules of the always-on and selective-wake registers. -/
def aoRangeOk (s : State) (off : Nat) (v : Word) : Bool :=
  if off = 0x08 then 1 ≤ fld v 15 8 && 1 ≤ fld v 7 0 && fld v 7 0 ≤ 200
  else if off = 0x0C then 1 ≤ fld v 16 0 && fld v 16 0 ≤ 86400
  else if off = 0x28 then (List.range 8).all fun k => fld v (2 * k + 1) (2 * k) != 3
  else if off = 0x30 then fld v 16 0 ≤ 86400 && !(fld v 16 0 == 0 && s.rb (aoA 0x18) 12)
  else if 0x1000 ≤ off && off < 0x1400 then
    let r := off % 0x40
    if r = 0 then 1 ≤ fld v 20 16 && fld v 11 8 ≤ 8
    else if r = 4 then bit v 29 || fld v 28 11 == 0 else true
  else true

/-- Registers that are locked while the module is going to sleep (R403). -/
def aoLocked (off : Nat) : Bool :=
  off = 0x14 || off = 0x18 || off = 0x28 || off = 0x30 || (0x1000 ≤ off && off < 0x1400)

/-- A write to the always-on or selective-wake registers: TID 0 with W = 1 alone; locked registers in SLEEP_PENDING and
POWER_DOWN; a sense input may be enabled only while its SIN_OWN is held for wake use (R408). -/
def State.putAo (s : State) (t : Tags) (off : Nat) (v : Word) : Ans :=
  if !t.manager then s.deny t (aoA off)
  else if !aoRangeOk s off v then (.range, s)
  else if aoLocked off && (s.aoState = 1 || s.aoState = 2) then (.conflict, s)
  else if off = 0 then s.putAoCtl v
  else if off = 0x14 && !((List.range 8).all fun k => !bit v (24 + k) || s.sinWakeHeld k) then (.conflict, s)
  else
    let s1 := s.plainWr (aoA off) v
    (.done, if (off = 0x1C || off = 0x20) && !s.noCause && s1.noCause then s1.wf (aoA 0x24) 5 0 0x3F else s1)

/-- AO_CTL.SLEEP_REQ (R401). -/
def execSleepReq (a : Acc) (s : State) : Out := s.farWrite a 2 (aoA 0) (.sleepReq a) fun t s => s.putAo t 0 1

/-- AO_CTL.CANCEL: SLEEP_PENDING returns to AWAKE without WAKE_IN_PENDING. -/
def execSleepCancel (a : Acc) (s : State) : Out := s.farWrite a 2 (aoA 0) (.sleepCancel a) fun t s => s.putAo t 0 2

/-- No PG within 10 ms: every REG_EN is dropped; after the third failed attempt the manager records the rail, reports
fault 0xA003 and stays asleep with its wake sources armed, before it waits 100 ms (R56). -/
def execPgTimeout (s : State) : Out :=
  .next (match s.pwr.phase with
    | .waitPg r =>
      let p := s.pwr.dropAll
      if s.pwr.attempts + 1 < 3 then s.setPwr { p with attempts := s.pwr.attempts + 1, phase := .retryWait }
      else
        let s := (s.setFront { s.front with armed := s.enabledSources }).setAoState 3
        (s.setPwr { p with attempts := 0, failRail := some r, phase := .asleep }).reportF 0xA003
    | _ => s)

/-! ### Waking -/

/-- The cause of source `code` is latched, and WK_FIRST takes it when WK_CAUSE was wholly clear. -/
def State.latchCause (s : State) (code : Nat) : State :=
  let first := s.noCause
  let s := s.setCause code
  if first then s.wf (aoA 0x24) 5 0 code else s

/-- A wake of source `code`: in SLEEP_PENDING it cancels sleep (R404); in POWER_DOWN it is latched and reported (R406); in
SLEEP, or after the manager gave up (R56), it starts the power-up; in any other state only the cause is latched. -/
def State.wake (s : State) (code : Nat) : State :=
  let s := s.latchCause code
  if s.aoState = 1 then
    let s := (s.setAoState 0).wb (aoA 4) 8 true
    (s.setFront { s.front with armed := [] }).reportF 0x5080 code
  else if s.aoState = 2 then (s.setFront { s.front with wakeLatched := true }).reportF 0xA004 code
  else if s.pwr.phase = .asleep then
    let s := s.setFront { s.front with detOff := [] }
    s.setPwr { s.pwr with phase := .start, fromSleep := true, failRail := none }
  else s

/-- The detector of a source is armed and on. -/
def State.armedOn (s : State) (code : Nat) : Bool :=
  s.front.armed.contains code && s.wkEn code && !s.front.detOff.contains code

/-- SW_STAT at a wake of CANn: WUP or WUF, neither after an overflow, and the frame error counter (R412). -/
def State.swStat (s : State) (n : Nat) (pattern frame : Bool) : State :=
  let w := setBit (setBit (s.rd (swA n 0x14)) 29 pattern) 30 frame
  s.wr (swA n 0x14) (setFld w 5 0 (smGet (fun _ => 0) s.front.fec n))

/-- CANn listens for wake-up frames: SW_CFG.EN is set and an overflow has not stopped its decoding (R411, R412). -/
def State.swListens (s : State) (n : Nat) : Bool := s.rb (swA n 0) 31 && !s.front.deaf.contains n

/-- CANn decodes frames: it listens for them, and a wake-up pattern has started decoding (R410). -/
def State.swDecodes (s : State) (n : Nat) : Bool := s.swListens n && s.front.decoding.contains n

/-- The debounced level of SINk meets WK_SIN.POL; a change meets it at either level (R407). -/
def State.sinMeets (s : State) (k : Nat) : Bool :=
  s.rf (aoA 0x28) (2 * k + 1) (2 * k) == 2 || s.sinAtWake k (s.rb (sinA k 0xC) 31)

/-- The condition of an armed wake source is met (R407). On a CAN bus whose transceiver listens for frames a wake-up pattern
only starts frame decoding (R410). -/
def execWakeCondition (src : Fin 44) (s : State) : Out :=
  .next (if !s.armedOn src then s
    else if src.val < 16 && s.swListens src then
      s.setFront { s.front with decoding := if s.front.decoding.contains src.val then s.front.decoding else s.front.decoding ++ [src.val] }
    else if src.val < 16 then (s.swStat src true false).wake src
    else if 24 ≤ src.val && src.val < 32 && !s.sinMeets (src.val - 24) then s
    else s.wake src)

/-- The frame meets the four conditions of R411 for CANn. -/
def State.wakeMatches (s : State) (n : Nat) (f : WakeFrame) : Bool :=
  let cfg := s.rd (swA n 0)
  let id := s.rd (swA n 4)
  !f.remote && f.ide == bit id 29
    && ((f.id.toNat ^^^ fld id 28 0) &&& ((2 ^ 29 - 1) ^^^ s.rf (swA n 8) 28 0)) == 0
    && f.dlc.toNat == fld cfg 11 8
    && (fld cfg 11 8 == 0 ||
      (f.data.toNat &&& ((s.rd (swA n 0xC)).toNat + (s.rd (swA n 0x10)).toNat * 2 ^ 32)) != 0)

/-- A listening transceiver decodes a matching wake-up frame (R411). -/
def execCanWakeFrame (n : Fin 16) (f : WakeFrame) (s : State) : Out :=
  .next (if s.armedOn n && s.swDecodes n && s.wakeMatches n f then
    let fec := smGet (fun _ => 0) s.front.fec n
    let s := s.setFront { s.front with fec := smSet (fun _ => 0) s.front.fec n (fec - 1) }
    (s.swStat n false true).wake n
  else s)

/-- The frame error counter of a listening transceiver moves on a frame that does not wake (R412). -/
def execSelectiveWakeFrameDecode (n : Fin 16) (f : SwFrame) (s : State) : Out :=
  .next (if s.armedOn n && s.swDecodes n then
    let fec := smGet (fun _ => 0) s.front.fec n
    let put (v : Nat) : State := s.setFront { s.front with fec := smSet (fun _ => 0) s.front.fec n v }
    match f with
    | .correct _ => put (fec - 1)
    | .errored => put (fec + 1)
    | .fdOrXl => if s.rb (swA n 0) 30 then s else put (fec + 1)
  else s)

/-- FEC exceeds FEC_TH: FEC_OVF and fault 0x5081; with ERR_WAKE it wakes the module, otherwise the transceiver stops
decoding and listens for patterns alone (R412). -/
def execCanSwFecOverflow (n : Fin 16) (s : State) : Out :=
  .next (if s.armedOn n && s.swDecodes n && s.rf (swA n 0) 20 16 < smGet (fun _ => 0) s.front.fec n then
    let s := (s.wb (swA n 0x14) 31 true).reportF 0x5081 n
    if s.rb (swA n 0) 29 then (s.swStat n false false).wake n else s.setFront { s.front with deaf := s.front.deaf ++ [n.val] }
  else s)

/-- WK_TMR seconds since entry to SLEEP (R407). -/
def execWakeTimerExpiry (s : State) : Out :=
  .next (if s.armedOn 44 && s.aoState = 3 then s.wake 44 else s)

/-! ### Going down -/

/-- Every CAN and LIN transceiver is put into STANDBY with its detector (R405). -/
def State.transceiversStandby (s : State) : State :=
  let s := (List.range 16).foldl (fun s n => s.wf (canBase + n * 0x1000 + 0x34) 2 0 0) s
  s.setFront { s.front with linStandby := List.range 8 }

/-- The pull-up of the land of LINn in ohms, 0 for none: 1 kΩ as a commander, 30 kΩ as a responder; in sleep a commander's is
30 kΩ (R387, R413). -/
def State.linPull (s : State) (n : Nat) : Nat :=
  match s.front.linSlept with
  | some l => if l.getD n 0 = 0 then 0 else 30000
  | none => let m := s.rf (linA n 0) 1 0; if m = 1 then 1000 else if m = 2 then 30000 else 0

/-- The manager enters POWER_DOWN: the logic die is held, the transceivers go to STANDBY, the awake and fail-safe timers
stop, and REG_EN_IO falls first (R58, R405). -/
def State.powerDown (s : State) : State :=
  let lins := (List.range 8).map fun n => s.rf (linA n 0) 1 0
  let s := s.logicDown.transceiversStandby.setAoState 2
  let s := s.setFront { s.front with awakeRuns := false, failSafeRuns := false, linSlept := some lins }
  s.setPwr { s.pwr.setEn false .io with phase := .sleepDrop .sys, holdRuns := false }

/-- PEND_WIN passes in SLEEP_PENDING (R405). -/
def execPendWindowExpiry (s : State) : Out := .next (if s.aoState = 1 then s.powerDown else s)

/-- The power-down of R58 completes without a latched wake: SLEEP (R397); SLEEP_ASK clears. -/
def execSleepEntry (s : State) : Out :=
  .next (if s.pwr.phase = .dropped && !s.front.wakeLatched then
    ((s.setAoState 3).wb (aoA 4) 9 false).setPwr { s.pwr with phase := .asleep } else s)

/-- 10 ms after the power-down with a wake latched in POWER_DOWN: the power-up starts at step 2 (R406). -/
def execWakePowerUpDelay (s : State) : Out :=
  .next (if s.pwr.phase = .dropped && s.front.wakeLatched then
    let s := s.setFront { s.front with wakeLatched := false, detOff := [] }
    (s.wb (aoA 4) 9 false).setPwr { s.pwr with phase := .start, fromSleep := true }
  else s)

/-! ### Maximum awake time -/

/-- The awake timer expires (R416): AW_HOLD takes the buses active in the last second, SLEEP_ASK and the front-die
interrupt are raised, fault 0xA001 is reported and the fail-safe timer starts. -/
def execAwakeTimerExpiry (can : BitVec 16) (lin : BitVec 8) (s : State) : Out :=
  .next (if s.front.awakeRuns && s.front.awakeLeft = 0 then
    let s := s.wr (aoA 0x2C) (wd (lin.toNat * 65536 + can.toNat))
    let s := s.wb (aoA 4) 9 true
    (s.setFront { s.front with awakeRuns := false, failSafeRuns := true }).reportF 0xA001
  else s)

/-- CANn listens for wake-up frames in the coming sleep. -/
def State.swArmed (s : State) (n : Nat) : Bool := s.rb (swA n 0) 31 && s.wkEn n

/-- The fail-safe timer expires before POWER_DOWN: sleep is forced (R417). Buses named in AW_HOLD have their detection off
unless they listen for frames; every other transceiver follows its WK_EN. -/
def execFailSafeTimerExpiry (s : State) : Out :=
  .next (if s.front.failSafeRuns then
    let hold := s.rd (aoA 0x2C)
    let off := (List.range 24).filter fun k => bit hold k && !(k < 16 && s.swArmed k)
    let s := s.setFront
      { s.front with armed := s.enabledSources, fec := [], deaf := [], decoding := (List.range 16).filter s.swArmed }
    let s := s.powerDown
    let s := s.setFront { s.front with detOff := off, forced := true }
    let s := (s.wb (aoA 4) 10 true).bump (aoA 4) 23 16
    s.reportF 0xA002 0 (s.rd (aoA 0x2C)).toNat
  else s)

end Sys2Proof.Machine
end

