-- ==== Sys2Proof/Machine/Far.lean ====
section
/-!
DEFINITION. The registers of the power dies and of the front die by address: who may read and write them (R178–R181, R194,
R397, R702).
-/

namespace Sys2Proof.Machine

/-- A reserved offset of a far die: TID 0 with W = 1 reads 0 there and changes nothing (R6, R7). -/
def State.farReserved (s : State) (t : Tags) (a : Nat) : Ans := if t.manager then (.done, s) else s.deny t a

/-- A 32-bit write to a register of a far die. -/
def State.putFar (s : State) (t : Tags) (a : Nat) (v : Word) : Ans :=
  let o := a % 0x1000000
  let d := (a - 0x80000000) / 0x1000000
  if d < 2 then
    if 0x10000 ≤ o && o < 0x12000 then
      if o % 0x100 = 0 then s.putOwn t a v else s.putCh t (d * 32 + (o - 0x10000) / 0x100) (o % 0x100) v
    else if o = 0x10 then s.putMeasCfg t d v
    else if o = 0x100 then s.putLimpCtl t d v
    else if o < 0x1000 then
      if !t.manager then s.deny t a
      else if o = 4 && (fld v 7 0 < 45 || 70 < fld v 7 0) then (.range, s)
      else (.done, s.plainWr a v)
    else if 0x20000 ≤ o && o < 0x21000 then s.deny t a
    else s.farReserved t a
  else if o < 0x2000 then s.putAo t o v
  else if o = 0x2000 then s.putFmeasCfg t v
  else if 0x10000 ≤ o && o < 0x10400 then
    let n := (o - 0x10000) / 0x20
    if o % 0x20 = 0 then s.putOwn t a v
    else if o % 0x20 = 4 then s.putSinCfg t n v
    else if o % 0x20 = 8 then s.putSinThr t n v
    else if s.mayWriteOwned t (sinA n 0) then (.done, s) else s.deny t a
  else s.farReserved t a

/-- A read by tags that are refused. -/
def State.denyRead (s : State) (t : Tags) (a : Nat) : Status × Word × State := (.access, 0, s.reportAt 0x0003 a t)

/-- A 32-bit read of a register of a far die. -/
def State.getFar (s : State) (t : Tags) (a : Nat) : Status × Word × State :=
  let o := a % 0x1000000
  let d := (a - 0x80000000) / 0x1000000
  let own (r : Nat) : Status × Word × State := if a = r || s.mayReadOwned t r then (.done, s.rd a, s) else s.denyRead t a
  if d < 2 then
    if 0x10000 ≤ o && o < 0x12000 then own (a - o % 0x100)
    else if o = 0x20000 then s.popDie t d
    else if o < 0x1000 && o != 0x10 then (if t.tid0 then (.done, s.rd a, s) else s.denyRead t a)
    else if t.manager then (.done, s.rd a, s) else s.denyRead t a
  else if 0x10000 ≤ o && o < 0x10400 then own (a - o % 0x20)
  else if o = 0x20000 then s.popFront t
  else if t.manager then (.done, if o = 0x10 then s.awakeRem else s.rd a, s) else s.denyRead t a

/-- A 64-bit access is two registers, the lower address first, indivisibly; what fails first gives the status (R519). -/
def State.farReadN (s : State) (t : Tags) (addr n : Nat) : Status × DWord × State := twoGets (fun s a => s.getFar t a) s addr n

/-- A write of 4 or 8 bytes. -/
def State.farWriteN (s : State) (t : Tags) (addr n : Nat) (v : DWord) : Ans := twoPuts (fun s a w => s.putFar t a w) s addr n v

/-- What an access of `n` bytes to a far die, of a width or alignment that its bridge does not carry, ends with: the
parity of its tags and the die's own refusal come before ALIGN (R20, R42, R519). -/
def State.farAlign (s : State) (a : Acc) (addr : Nat) (load : Bool) (v : DWord) : Ans :=
  let t := s.tagsOf a.who
  if a.tagFail then (.access, s.reportAt 0x0006 addr t)
  else if load then let r := narrowGet (s.getFar t (addr / 4 * 4)) s; (r.1, r.2.2)
  else narrowPut (s.putFar t (addr / 4 * 4) (wd v.toNat)) s

/-- Source `src` of bridge `b` is asserted (R538). -/
def State.farIrq (s : State) (b src : Nat) : Bool :=
  if b < 2 then
    if src < 32 then
      let c := b * 32 + src
      s.rd (chA c 0x28) &&& s.rd (chA c 0x2C) != 0 || s.rd (chA c 0x50) &&& s.rd (chA c 0x54) != 0
    else src = 32 && s.rd (dieA b 0) &&& s.rd (dieA b 0x14) != 0
  else src = 32 && (s.rb (aoA 4) 8 || s.rb (aoA 4) 9)

end Sys2Proof.Machine
end

