-- ==== Sys2Proof/Machine/Bridges.lean ====
section
/-!
DEFINITION. The inner bridges and the pair bridge: their accesses step by step, their registers, and far-die interrupts
(R516–R543).
-/

namespace Sys2Proof.Machine

/-- The bridge of an address, when it lies in a bridge's region. -/
def bridgeOf (a : Nat) : Option Nat :=
  if 0x80000000 ≤ a && a < 0x83000000 then some ((a - 0x80000000) / 0x1000000)
  else if 0x100000000 ≤ a && a < 0x200000000 then some 3 else none

/-! ### Arrival (R516, R519, R526, R539, R542) -/

/-- Why bridge `b` does not take an access to offset `off`, and what that leaves: a lost far side; then, in the order of
R42, ACCESS, RANGE and ALIGN. -/
def State.brBars (s : State) (a : Acc) (b addr bytes : Nat) (op : BrOp) (data : DWord) : Option Ans :=
  let off := addr - brRegion b
  let aligned := (bytes = 4 || bytes = 8 || (b == 3 && (bytes == 1 || bytes == 2))) && off % bytes = 0
  let t := s.tagsOf a.who
  if !s.brUp b then some (.farError, s)
  else if b = 3 then
    if a.tagFail then some (.access, s.reportAt 0x0006 addr t)
    else if (s.winAt b off).isNone || op.atomic then some (.range, s)
    else if !aligned then some (.align, s) else none
  else if op.atomic && inSide b off then
    let r := s.farAlign a addr true data
    some (if r.1 = .access then r else (.range, s))
  else if !aligned || (op.atomic && bytes != 4) then some (s.farAlign a addr op.load data)
  else none

/-- An access arrives at bridge `b`. -/
def State.brEnter (s : State) (a : Acc) (b addr bytes : Nat) (op : BrOp) (data : DWord) : State :=
  match s.brBars a b addr bytes op data with
  | some r => r.2.finish a addr r.1 0 op.load
  | none =>
    let off := addr - brRegion b
    let t := s.tagsOf a.who
    let s := if op.writes then (s.dropAtOff b off bytes).spoilLines b off bytes else s
    let x : BrTx := { tag := s.brTag b, acc := a, tid := t.tid, w := t.w, off, bytes, op
                      data, win := (s.winAt b off).getD 0 }
    let s := s.setBridge b { s.bridge b with nextTag := (x.tag + 1) % brTags b
                                             txs := (s.bridge b).txs ++ [x] }
    s.brRun b

/-- An access arrives at the bridge that its address names; outside every bridge's region there is none (R22). -/
def State.bridgeAccess (s : State) (a : Acc) (addr bytes : Nat) (op : BrOp) (data : DWord) : Out :=
  if !s.logicOn then .next s
  else match bridgeOf addr with
    | some b => .next (s.brEnter a b addr bytes op data)
    | none => .next ((s.reportAt 0x0002 addr (s.tagsOf a.who)).finish a addr .range 0 op.load)

/-- A write arrives: posted when its window posts writes. -/
def execBridgePostedWrite (a : Acc) (addr : Addr) (bytes : Fin 9) (data : DWord) (s : State) : Out :=
  s.bridgeAccess a addr.toNat bytes .write data

/-- A read, or a write to a window that does not post them, arrives. -/
def execBridgeNonpostedAccess (a : Acc) (write : Bool) (addr : Addr) (bytes : Fin 9) (data : DWord) (s : State) : Out :=
  s.bridgeAccess a addr.toNat bytes (if write then .write else .read) data

/-! ### The far side (R527–R531) -/

/-- The 16 words of a line, none for one that the die refuses. -/
def State.farLine (s : State) (t : Tags) (addr : Nat) : Nat → List (Option Word) × State
  | 0 => ([], s)
  | n + 1 =>
    let r := s.getFar t addr
    let q := State.farLine r.2.2 t (addr + 4) n
    ((if r.1 = .done then some r.2.1 else none) :: q.1, q.2)

/-- An unlocking write: updates that the die's own logic has made to the word since the locked read take effect after it
(R527). -/
def State.farUnlock (s : State) (m : BrSem) (t : Tags) (addr : Nat) (v : Word) : Ans :=
  let moved := s.rd addr ^^^ m.image
  let late := s.rd addr
  let r := s.putFar t addr v
  (r.1, if moved = 0 then r.2 else r.2.wr addr ((r.2.rd addr &&& ~~~moved) ||| (late &&& moved)))

/-- A locked read: the semaphore is taken when the die answers the read. -/
def State.farLocked (s : State) (b : Nat) (x : BrTx) (addr : Nat) : Status × DWord × State :=
  let r := s.getFar x.tags addr
  let s := r.2.2
  (r.1, r.2.1.signExtend 64, if r.1 = .done
    then s.setBridge b { s.bridge b with sem := some { who := x.acc.who, off := x.off, image := r.2.1 } } else s)

/-- The far die performs `x`, which the semaphore does not hold back, and answers. -/
def State.farPerform (s : State) (b : Nat) (x : BrTx) : State :=
  let addr := brRegion b + x.off
  let t := x.tags
  let mine := match (s.bridge b).sem with | some m => m.who == x.acc.who | none => false
  let held := match (s.bridge b).sem with | some m => if m.who == x.acc.who && m.off == x.off then some m else none | none => none
  let s := if mine then s.semFree b else s
  let r : Status × DWord × State :=
    if x.acc.tagFail then (.access, 0, s.reportAt 0x0006 addr t)
    else match x.op with
      | .read => s.farReadN t addr x.bytes
      | .line => (.done, 0, s)
      | .write => let r := s.farWriteN t addr x.bytes x.data; (r.1, 0, r.2)
      | .lr => s.farLocked b x addr
      | .amo _ => s.farLocked b x addr
      | .sc => match held with
        | some m => let r := s.farUnlock m t addr (wd x.data.toNat); (r.1, 0, r.2)
        | none => (.done, 1, s)
      | .amoWrite _ _ => match held with
        | some m => let r := s.farUnlock m t addr (wd x.data.toNat); (r.1, 0, r.2)
        | none => let r := s.putFar t addr (wd x.data.toNat); (r.1, 0, r.2)
  let line := x.op == .line && !x.acc.tagFail
  let q := if line then r.2.2.farLine t (brRegion b + x.off / 64 * 64) 16 else ([], r.2.2)
  let st := if line && (lineData q.1 (x.off / 64 * 64) x.off x.bytes).isNone then (r.2.2.farReadN t addr x.bytes).1 else r.1
  let s := q.2.brSet b { x with phase := .answered st r.2.1, words := q.1 }
  if x.op.writes then s.reReport b x.off else s

/-- A transaction that has been sent, has not been lost, and is not held back by another holder's lock (R527); a locked read
waits for any other holder. -/
def State.farReady (s : State) (b : Nat) (x : BrTx) : Bool :=
  x.phase == .sent && !x.lost &&
    (match x.op with
      | .lr => (match (s.bridge b).sem with | some m => m.who == x.acc.who | none => true)
      | .amo _ => (match (s.bridge b).sem with | some m => m.who == x.acc.who | none => true)
      | .line => !s.semBlocks b x.acc.who (x.off / 64 * 64) 64
      | _ => !s.semBlocks b x.acc.who x.off x.bytes)

/-- The oldest transaction that can be performed reaches the far die; the pair bridge's go to the partner in frames. -/
def execFarDieAccess (b : Fin 3) (s : State) : Out :=
  .next (if !s.logicOn || !(s.link b).up then s
    else match (s.bridge b).txs.find? (s.farReady b) with
      | some x => s.farPerform b x
      | none => s)

/-- The oldest answer of the far die reaches the bridge. -/
def execBridgeResponse (b : Fin 3) (s : State) : Out :=
  .next (if !s.logicOn || !(s.link b).up then s
    else match (s.bridge b).txs.find? BrTx.answered with
      | some x =>
        match x.phase with
        | .answered st d => State.brRun ((s.brDrop b x.tag).brBack b x st d) b
        | _ => s
      | none => s)

/-- TMO has passed since the oldest transaction without an answer was sent. -/
def execBridgeTimeout (b : Fin 4) (s : State) : Out := .next (if s.logicOn then s.brTimeout b else s)

/-- LR of 4 or, with `d`, 8 bytes. -/
def execBridgeLr (a : Acc) (addr : Addr) (d : Bool) (s : State) : Out :=
  s.bridgeAccess a addr.toNat (if d then 8 else 4) .lr 0

/-- SC; its data reads 0 on success and 1 on failure. -/
def execBridgeSc (a : Acc) (addr : Addr) (d : Bool) (v : DWord) (s : State) : Out :=
  s.bridgeAccess a addr.toNat (if d then 8 else 4) .sc v

/-- An AMO: 0 swap, 1 add, 2 and, 3 or, 4 xor, 5 min, 6 max, 7 minu, 8 maxu. -/
def execBridgeAmo (a : Acc) (addr : Addr) (d : Bool) (k : Fin 9) (v : DWord) (s : State) : Out :=
  s.bridgeAccess a addr.toNat (if d then 8 else 4) (.amo k) v

/-- The far semaphore has been held for 2 µs. -/
def execSemaphoreTimeout (b : Fin 3) (s : State) : Out := .next (if s.logicOn then s.semExpire b else s)

/-- The line fetched longest ago reaches its age of 2 µs. -/
def execPrefetchLineExpiry (b : Fin 4) (s : State) : Out :=
  let ls := (s.bridge b).lines
  .next (if !s.logicOn then s
    else match ls.find? fun l => ls.all fun m => l.uid ≤ m.uid with
      | some l => s.dropLines b fun m => m.uid == l.uid
      | none => s)

/-! ### Registers -/

/-- A posted write of window `k` is outstanding. -/
def State.postedOut (s : State) (b k : Nat) : Bool := (s.bridge b).txs.any fun x => x.posted && !x.dead && x.win == k

/-- Window `k` with this WIN_CFG and WIN_BASE overlaps another enabled one. -/
def State.winOverlaps (s : State) (b k base size : Nat) : Bool :=
  (List.range 16).any fun j =>
    let o := s.rf (winA b j 4) 15 0
    j != 0 && j != k && s.rb (winA b j 0) 31 && base ≤ o + s.rf (winA b j 0) 15 0 && o ≤ base + size

/-- Why window `k` may not take this WIN_CFG and WIN_BASE (R517). -/
def State.winRefuse (s : State) (b k : Nat) (cfg : Word) (base : Nat) : Option Status :=
  if k != 0 && bit cfg 31 && 0xFFFF < base + fld cfg 15 0 then some .range
  else if k != 0 && bit cfg 31 && s.winOverlaps b k base (fld cfg 15 0) then some .conflict
  else if s.postedOut b k then some .conflict
  else none

/-- WIN_CFG: POISON written with 1 clears; a change drops the window's lines (R517, R531, R537). Window 0 of an inner bridge
stays enabled. -/
def State.putWinCfg (s : State) (b k : Nat) (v : Word) : Ans :=
  match s.winRefuse b k v (s.rf (winA b k 4) 15 0) with
  | some st => (st, s)
  | none =>
    let v := if k = 0 && b != 3 then setBit v 31 true else v
    let s1 := s.plainWr (winA b k 0) v
    let s2 := if s1.rd (winA b k 0) = s.rd (winA b k 0) then s1 else s1.dropLines b fun l => l.win == k
    (.done, s2.brRun b)

/-- WIN_BASE. -/
def State.putWinBase (s : State) (b k : Nat) (v : Word) : Ans :=
  match s.winRefuse b k (s.rd (winA b k 0)) (fld v 15 0) with
  | some st => (st, s)
  | none => (.done, s.plainWr (winA b k 4) v)

/-- A write to offset `o` of bridge `b`'s block. -/
def State.putBrg (s : State) (t : Tags) (b o : Nat) (v : Word) : Ans :=
  let a := brA b o
  if !t.manager then s.deny t a
  else if 4 ≤ b then (.done, s)
  else if o = 0 then
    let ok := if b = 3 then 100 ≤ fld v 15 0 && fld v 15 0 ≤ 10000 else 5 ≤ fld v 15 0 && fld v 15 0 ≤ 1000
    if ok then (.done, s.plainWr a v) else (.range, s)
  else if o = 0x1C then
    let s := s.plainWr a v
    (.done, if bit v 0 then s.setBridge b { s.bridge b with errs := (s.bridge b).errs.drop 1 } else s)
  else if 0x100 ≤ o && o < 0x200 && o % 0x10 = 0 then s.putWinCfg b ((o - 0x100) / 0x10) v
  else if 0x100 ≤ o && o < 0x200 && o % 0x10 = 4 then s.putWinBase b ((o - 0x100) / 0x10) v
  else if 0x400 ≤ o && o < 0x500 && b < 3 then
    let src := (o - 0x400) / 4
    let valid := src = 32 || (src < 32 && b < 2)
    if bit v 31 && (!valid || fld v 26 16 = 0) then (.range, s) else (.done, s.plainWr a v)
  else (.done, s.plainWr a v)

/-- A read of offset `o` of bridge `b`'s block: link, lanes, outstanding transactions and the oldest record are as they stand. -/
def State.getBrg (s : State) (b o : Nat) : Word :=
  let x := s.bridge b
  let lanes := if b = 3 || !s.brUp b then 0 else (s.link b).lanes
  if 4 ≤ b then 0
  else if o = 4 then wd ((s.brUp b).toNat * 2 ^ 31 + lanes * 2 ^ 16 + s.inflight b)
  else if o = 0x1C then wd ((s.rb (brA b 0x1C) 8).toNat * 256 + x.errs.length)
  else match x.errs with
    | e :: _ =>
      if o = 0x10 then wd e.off
      else if o = 0x14 then wd (2 ^ 31 + e.win * 2 ^ 24 + e.st.code * 2 ^ 16 + e.tid.toNat * 256 + e.w.toNat * 128)
      else if o = 0x18 then e.time else s.rd (brA b o)
    | [] => s.rd (brA b o)

/-- A write of WIN_CFG or WIN_BASE of window `k`. -/
def execWindowConfigWrite (a : Acc) (b : Fin 4) (k : Fin 16) (base : Bool) (v : Word) (s : State) : Out :=
  s.cfgWrite a (winA b k (if base then 4 else 0)) (.windowConfigWrite a b k base v) fun t s =>
    s.putBrg t b (0x100 + k * 0x10 + if base then 4 else 0) v

/-- A write of 1 to WIN_CFG.POISON, the other fields as they stand. -/
def execPoisonClear (a : Acc) (b : Fin 4) (k : Fin 16) (s : State) : Out :=
  s.cfgWrite a (winA b k 0) (.poisonClear a b k) fun t s =>
    s.putBrg t b (0x100 + k * 0x10) (setBit (s.rd (winA b k 0)) 28 true)

/-- ERR_CTL.NEXT. -/
def execErrRecordNext (a : Acc) (b : Fin 4) (s : State) : Out :=
  s.cfgWrite a (brA b 0x1C) (.errRecordNext a b) fun t s => s.putBrg t b 0x1C 1

/-! ### Far-die interrupts (R538) -/

/-- The far die reports source `src`: a rise, or an assertion that stands after a write to one of its registers, sends the
entry's message while EN is set. -/
def execFarIrqRaise (b : Fin 3) (src : Fin 64) (s : State) : Out :=
  let x := s.bridge b
  let e := s.rd (brA b (0x400 + src * 4))
  .next (if !s.logicOn || !(s.link b).up then s
    else if !s.farIrq b src then s.setBridge b { x with told := x.told.filter fun k => k != src.val }
    else if x.told.contains src.val then s
    else
      let s := s.setBridge b { x with told := x.told ++ [src.val] }
      if bit e 31 then s.sendMsi (fld e 2 0) (1 + fld e 5 3) (fld e 26 16) else s)

end Sys2Proof.Machine
end

