-- ==== Sys2Proof/Machine/MacSec.lean ====
section
/-!
DEFINITION. MACsec on P0, P1 and P14: protection, verification, packet numbers and associations (R453–R458).
-/

namespace Sys2Proof.Machine

/-- The instance is in the path. -/
def State.msEn (s : State) (i : Nat) : Bool := s.rb (msA i 0) 31
/-- VALIDATE: 0 DISABLED, 1 CHECK, 2 STRICT. -/
def State.msValidate (s : State) (i : Nat) : Nat := s.rf (msA i 0) 30 29
/-- Confidentiality offset. -/
def State.msOffset (s : State) (i : Nat) : Nat := [0, 30, 50, 0].getD (s.rf (msA i 0) 23 22) 0

/-- The XPN initialisation vector: SSCI and packet number, XOR salt. -/
def xpnIv (ssci : Word) (pn salt : Nat) : List Byte := xorB (beBytes 4 ssci.toNat ++ beBytes 8 pn) (beBytes 12 salt)

/-- EAPOL frames keep off the controlled port (R453). -/
def isEapol (b : List Byte) : Bool := beNat (slice b 12 2) = 0x888E

/-! ### Transmit (R455, R458) -/

/-- The SecTAG of a frame of `n` bytes of user data. -/
def State.secTag (s : State) (i an pn n : Nat) : List Byte :=
  let c := s.rd (msA i 0)
  let sc := bit c 25
  let enc := bit c 27
  beBytes 2 0x88E5 ++ beBytes 1 ((bit c 24).toNat * 64 + sc.toNat * 32 + enc.toNat * 12 + an)
    ++ beBytes 1 (if n < 48 then n else 0) ++ beBytes 4 (pn % 2 ^ 32)
    ++ (if sc then beBytes 4 (s.rd (msA i 0xC)).toNat ++ beBytes 4 (s.rd (msA i 8)).toNat else [])

/-- A frame's bytes protected under association `a` with packet number `a.pn`. -/
def State.msProtect (s : State) (i an : Nat) (a : MsSa) (b : List Byte) : List Byte :=
  let user := b.drop 12
  let tag := s.secTag i an a.pn user.length
  let off := if s.rb (msA i 0) 27 then min (s.msOffset i) user.length else user.length
  let r := gcmSeal (s.slot a.slot).key (xpnIv a.ssci a.pn a.salt) (b.take 12 ++ tag ++ user.take off) (user.drop off)
  b.take 12 ++ tag ++ user.take off ++ r.1 ++ r.2

/-- What happens to a frame at the head of a queue of a MACsec port. -/
inductive MsTx where
  /-- It leaves as it is. -/
  | plain
  /-- It leaves protected under an association. -/
  | sa (i an : Nat)
  /-- It waits for a packet-number reservation or a pending key change. -/
  | wait (i an : Nat) (resv : Bool)
  /-- It is dropped and counted in MS counter `k`. -/
  | drop (i k : Nat)
  deriving DecidableEq, Repr

/-- Choose it (R455, R457, R458). -/
def State.msTx (s : State) (p : Nat) (f : EFrame) (b : List Byte) : MsTx :=
  match msOf p with
  | none => .plain
  | some i =>
    let an := s.rf (msA i 0) 1 0
    let a := s.sa (txSa i an)
    if !s.msEn i || !s.rb (msA i 0) 28 || (f.ingress = 15 && isEapol b) then .plain
    else if !a.en || !s.accepts 8 then .drop i 4
    else if a.exh then .drop i 6
    else if s.slState a.slot = 2 then .wait i an false
    else if persistent a.slot && (s.slot a.slot).pnResv ≤ a.pn then .wait i an true
    else .sa i an

/-- Word 6 and 7 of association `k` show its packet number. -/
def State.saPn (s : State) (k pn : Nat) : State := (s.wr (saA k + 24) (wd pn)).wr (saA k + 28) (wd (pn >>> 32))

/-- The packet number of transmit association `an` is used (R458). -/
def State.msUsed (s : State) (i an : Nat) : State :=
  let k := txSa i an
  let a := s.sa k
  let pn := (a.pn + 1) % 2 ^ 64
  let s := (s.setSlot a.slot { s.slot a.slot with hwm := a.pn + 1 }).msCnt i 5
  let s := (s.setSa k { a with pn := pn, exh := a.pn = 2 ^ 64 - 1 }).saPn k pn
  let s := if a.pn = 2 ^ 64 - 1 then ((s.wb (msA i 4) an true).wb (saA k) 30 true).report 0x600B (i * 4 + an) else s
  if (s.rd (msA i 0x14)).toNat ≤ pn / 2 ^ 32 && !s.rb (msA i 4) 31 then (s.wb (msA i 4) 31 true).report 0x600A (i * 4 + an) else s

/-- KST has committed PN_RESV + 2^20 for the slot of transmit association `an`, and its frame proceeds. -/
def execMsPnReserveCommit (i : Fin 3) (an : Fin 4) (s : State) : Out :=
  let k := txSa i an
  let a := s.sa k
  .next (if !s.swOn || !s.accepts 8 || !a.waits || !persistent a.slot || (s.slot a.slot).win.isNone then s
    else
      let v := min ((s.slot a.slot).pnResv + 2 ^ 20) (2 ^ 64)
      let s := s.recCommit a.slot (patch (s.recBody a.slot) 0x68 (leBytes 8 (min v (2 ^ 64 - 1))))
      (s.setSlot a.slot { s.slot a.slot with pnResv := v }).setSa k { a with waits := false })

/-! ### Receive (R454) -/

/-- The packet number that 32 received bits stand for beside the lowest acceptable one. -/
def xpnRecover (low pn : Nat) : Nat :=
  let hi := low / 2 ^ 32
  (if low.testBit 31 && !pn.testBit 31 then hi + 1 else hi) * 2 ^ 32 + pn

/-- A frame is verified: the bytes it goes on with, or none when it is dropped. -/
def State.msVerify (s : State) (i : Nat) (b : List Byte) : Option (List Byte) × State :=
  let strict := s.msValidate i = 2
  let tci := byteAt b 14
  let hd := if bit tci 5 then 28 else 20
  let c := bit tci 2
  let an := tci.toNat % 4
  let body := (b.drop hd).take (b.length - hd - 16)
  let open_ := b.take 12 ++ body
  if beNat (slice b 12 2) != 0x88E5 then
    if isEapol b then (some b, s) else if strict then (none, s.msCnt i 3) else (some b, s.msCnt i 3)
  else if b.length < hd + 16 || bit tci 7 then (none, s.msCnt i 1)
  else
    let sa := match s.msChannel i b with | some ch => some (rxSa i ch an) | none => none
    match sa with
    | none => if strict || c then (none, s.msCnt i 4) else (some open_, s.msCnt i 4)
    | some k =>
      let a := s.sa k
      if !a.en then (if strict || c then (none, s.msCnt i 4) else (some open_, s.msCnt i 4))
      else if !s.accepts 8 then (none, s.msCnt i 4)
      else
        let pn := xpnRecover a.pn (beNat (slice b 16 4))
        let off := if bit tci 3 then min (s.msOffset i) body.length else body.length
        if s.rb (msA i 0) 26 && pn < a.pn then (none, s.msCnt i 2)
        else match gcmOpen (s.slot a.slot).key (xpnIv a.ssci pn a.salt) (b.take hd ++ body.take off) (body.drop off)
            (b.drop (b.length - 16)) with
        | none => if strict || c then (none, s.msCnt i 1) else (some open_, s.msCnt i 1)
        | some pt =>
          let low := max a.pn (pn + 1 - (s.rd (msA i 0x10)).toNat)
          (some (b.take 12 ++ body.take off ++ pt), ((s.setSa k { a with pn := low }).saPn k low).msCnt i 0)

/-! ### Registers (R456, R458) -/

/-- Word `w` of the association that offset `o` of an instance names, and its key; none elsewhere. -/
def saAt (i o : Nat) : Option (Nat × Nat) :=
  if 0x80 ≤ o && o < 0x100 then some (txSa i ((o - 0x80) / 0x20), (o - 0x80) % 0x20 / 4)
  else if 0x100 ≤ o && o < 0x600 && 0x20 ≤ (o - 0x100) % 0xA0 then
    some (rxSa i ((o - 0x100) / 0xA0) (((o - 0x100) % 0xA0 - 0x20) / 0x20), ((o - 0x100) % 0xA0 - 0x20) % 0x20 / 4)
  else none

/-- The association that word 0 `v` and the staged words would commit. -/
def State.saStaged (s : State) (k : Nat) (v : Word) : MsSa :=
  let w (n : Nat) : Nat := (s.rd (stageA (saA k + n * 4))).toNat
  { en := bit v 31, slot := fld v 7 0, ssci := wd (w 1), salt := w 2 + w 3 * 2 ^ 32 + w 4 * 2 ^ 64, pn := w 6 + w 7 * 2 ^ 32 }

/-- Commit of an association (R456, R458, R591). -/
def State.saCommit (s : State) (t : Tags) (k : Nat) (v : Word) : Ans :=
  let n := s.saStaged k v
  let tx := k % 128 / 8 = 8
  let other := (List.range 3).any fun i => (List.range 4).any fun an =>
    txSa i an != k && (s.sa (txSa i an)).en && (s.sa (txSa i an)).slot == n.slot
  let s1 := if tx then s.wb (msA (k / 128) 4) (k % 8) false else s
  let store : State :=
    (((s1.setSa k n).wr (saA k) (v &&& 0x800000FF)).wr (saA k + 4) n.ssci).saPn k n.pn
  if !n.en then (.done, store)
  else if !s.slotMay t n.slot then s.deny t (saA k)
  else if tx && n.pn < (s.slot n.slot).hwm then (.range, s)
  else if tx && other then (.conflict, s)
  else match s.keyStatus n.slot 5 with
    | some st => (st, s)
    | none => if s.slSize n.slot != 2 then (.keyUsage, s) else (.done, store)

/-- A write to offset `o` of MACsec instance `i`: only W = 1. -/
def State.putMs (s : State) (t : Tags) (i o : Nat) (v : Word) : Ans :=
  if !t.w then s.deny t (msA i o)
  else if o = 0 && (fld v 30 29 = 3 || fld v 23 22 = 3) then (.range, s)
  else match saAt i o with
    | some (k, 0) => s.saCommit t k v
    | some (_, _) => (.done, s.wr (stageA (msA i o)) v)
    | none => (.done, s.plainWr (msA i o) v)

/-- A write to word 0 of association `an` of channel `ch`: 0 to 7 receive, 8 transmit. -/
def execMacsecSaCommit (a : Acc) (i : Fin 3) (ch : Fin 9) (an : Fin 4) (v : Word) (s : State) : Out :=
  let k := i.val * 128 + ch.val * 8 + an.val
  s.cfgWrite a (saA k) (.macsecSaCommit a i ch an v) fun t s => s.putMs t i (saA k - msA i 0) v

end Sys2Proof.Machine
end

