-- ==== Sys2Proof/Machine/Esw.lean ====
section
/-!
DEFINITION. The switch at work: reception, forwarding, tail marking, transmission selection, the host port and links
(R419–R448, R459–R460).
-/

namespace Sys2Proof.Machine

/-- The ten-gigabit ports, which alone carry a fraction in their stamps. -/
def isTenG (p : Nat) : Bool := p = 0 || p = 1 || p = 14

/-- A stamp of port `p` at this instant, `sub` sixteenths of a nanosecond on, with correction `cor` in ps (R471, R473). -/
def State.stampAt (p : Nat) (t : Word) (sub : Nat) (cor : Word) : Word × Nat :=
  let x := (t.toNat : Int) * 16 + (sub : Int) + sext cor.toNat 32 * 2 / 125
  (wd ((x / 16) % 2 ^ 32).toNat, if isTenG p then (x % 16).toNat else 0)

/-! ### Forwarding (R427, R433, R435, R438) -/

/-- The VLAN rules let a frame of this form in (R427). -/
def State.vlanOk (s : State) (f : EFrame) (form : Nat) : Bool :=
  let v := s.rd (portA f.ingress 4)
  let acc := fld v 30 29
  let e := s.rd (vlanA f.vid)
  !(acc = 1 && form != 2) && !(acc = 2 && form = 2) && !(bit v 31 && !bit e f.ingress) && f.vid != 0 && f.vid != 4095 && bit e 31

/-- MACsec leaves the frame free to start at once at port `q`. -/
def State.msReady (s : State) (q : Nat) (f : EFrame) : Bool :=
  match s.msTx q f (s.wireOf f q) with
  | .plain => true
  | .sa _ _ => true
  | .wait _ _ _ => false
  | .drop _ _ => false

/-- The conditions of R438 for a frame of class `c` from port `p` to port `q`. -/
def State.cutOk (s : State) (f : EFrame) (q c : Nat) : Bool :=
  let p := f.ingress
  s.rb (portA p 0) 30 && s.rb (portA q 0) 30 && s.portRate q ≤ s.portRate p && p != 15 && q != 15
    && (match msOf p with | some i => s.msValidate i == 0 | none => true)
    && s.maxFrame p ≤ s.maxFrame q && (s.queue q c).isEmpty && (s.port q).sending.isNone
    && (match s.openFor q c with | some n => decide (s.txTime q (s.maxFrame q) ≤ n) | none => true)
    && s.msReady q f

/-- ALPHA code of class `c` at port `q`. -/
def State.alpha (s : State) (q c : Nat) : Nat := s.rf (portA q 0xC) (4 * c + 3) (4 * c)

/-- A frame begins to leave port `q` from class `c`; `thru` while its tail is still to come. -/
def State.startSend (s : State) (q c : Nat) (f : EFrame) (thru : Bool) : State :=
  let b := s.wireOf f q
  let go (s : State) (wire : List Byte) (ms : Option Nat) : State :=
    s.setPort q { s.port q with sending := some { f, cls := c, wire, thru, open_ := thru, ms, at_ := s.now } }
  match s.msTx q f b with
  | .sa i an => go (s.msUsed i an) (s.msProtect i an (s.sa (txSa i an)) b) (some (s.sa (txSa i an)).slot)
  | .plain => go s b none
  | .wait _ _ _ => s
  | .drop _ _ => s

/-- Where a frame goes: admitted queues, cut-through ports (R424, R435, R438). -/
def State.place (s : State) (f : EFrame) (mayCut : Bool) : List Nat → List (Nat × Nat) × List Nat × State
  | [] => ([], [], s)
  | q :: r =>
    let c := s.classOf f
    let refuse (s : State) : State := ((s.pcnt q 0x78).reportSec q 0x6003).txLost q f
    if q = 15 then
      match s.hostDest f with
      | none => (s.pcnt f.ingress 0x48).place f mayCut r
      | some k =>
        if s.admits 15 k (s.alpha 15 c) then
          let x := s.place f mayCut r
          ((15, k) :: x.1, x.2)
        else (refuse s).place f mayCut r
    else if mayCut && s.cutOk f q c then
      let x := (s.startSend q c f true).place f mayCut r
      (x.1, q :: x.2.1, x.2.2)
    else if s.admits q c (s.alpha q c) then
      let x := s.place f mayCut r
      ((q, c) :: x.1, x.2)
    else (refuse s).place f mayCut r

/-- VLAN, stream filtering, lookup, admission and cut-through of the frame whose bytes are `b`: what its reception then
holds. -/
def State.takeIn (s : State) (p : Nat) (b : List Byte) (time : Word) (sub : Nat) (mayCut : Bool) : EthRx × State :=
  let x := s.parse p b time sub
  let f := x.1
  let s := { s with esw := { s.esw with nextUid := s.esw.nextUid + 1 } }
  let rx : EthRx := { f, raw := b, since := s.ticks }
  if !s.vlanOk f x.2 then (rx, s.pcnt p 0x38)
  else
    let y := s.psfp f
    match y.1 with
    | none => (rx, y.2)
    | some g =>
      let d := y.2.destSet g
      if d.isEmpty then ({ rx with f := g }, y.2.pcnt p 0x50)
      else
        let z := y.2.place g mayCut d
        ({ rx with f := g, admitted := z.1, cut := z.2.1 }, z.2.2)

/-- A frame's first 64 bytes arrive on an external port: `b` are the bytes it will have, without FCS; `sub` refines the
instant of its delimiter, in 62.5 ps. -/
def execEthFrameIngress (p : Fin 15) (b : List Byte) (sub : BitVec 4) (s : State) : Out :=
  .next (if !s.swOn || !s.rb eswBase 31 || !s.rb (portA p 0) 31 || !s.linkUp p || (s.port p).rx.isSome || b.length < 60 then s
    else
      let t := State.stampAt p s.now sub.toNat (s.rd (tsA p 4))
      let later := match msOf p with | some i => s.msEn i && s.msValidate i != 0 | none => false
      if later then
        s.setPort p { s.port p with rx := some {
          f := { ingress := p, time := t.1, sub := t.2, size := b.length + 4 }, raw := b, later, since := s.ticks } }
      else
        let r := s.takeIn p b t.1 t.2 true
        r.2.setPort p { r.2.port p with rx := some r.1 })

/-! ### The tail (R431, R437, R440–R442, R460) -/

/-- Cut-through port `q` ends the frame with a marked FCS after at most `n` bytes. -/
def State.markCut (s : State) (n q : Nat) : State :=
  let x := s.port q
  match x.sending with
  | some y =>
    if y.open_ then
      ((s.setPort q { x with sending := some { y with wire := y.wire.take n, open_ := false, marked := true } }).pcnt q 0x70).reportSec
        q 0x6005
    else s
  | none => s

/-- The tail has arrived good: cut-through port `q` ends the frame as it is. -/
def State.closeCut (s : State) (q : Nat) : State :=
  let x := s.port q
  match x.sending with
  | some y => s.setPort q { x with sending := some { y with open_ := false } }
  | none => s

/-- Learning of a valid frame (R431). -/
def State.learn (s : State) (f : EFrame) : State :=
  let e := s.rd (vlanA f.vid)
  if s.rb (portA f.ingress 0) 29 && !bit e 30 && !isGroup f.sa && !isLinkLocal f.da then s.fdbLearn f.sa (fld e 27 16) f.ingress
  else s

/-- A stored frame joins the queues that admitted it. -/
def State.queueUp (s : State) (f : EFrame) (l : List (Nat × Nat)) : State :=
  l.foldl (fun s k => s.setQueue k.1 k.2 (s.queue k.1 k.2 ++ [f])) s

/-- The frame, FCS included, is longer than its ingress port allows. -/
def State.tooLong (s : State) (r : EthRx) : Bool := decide (s.maxFrame r.f.ingress < r.raw.length + 4)

/-- A frame beyond MAX_FRAME, whatever its tail: counted, and ended early where it is cut through (R441). -/
def State.overrun (s : State) (r : EthRx) : State :=
  if s.tooLong r then
    r.cut.foldl (fun s q => s.markCut (s.maxFrame r.f.ingress - 4) q) (s.pcnt r.f.ingress 0x28)
  else s

/-- A frame goes no further: dropped where stored, tail-marked where it is still being cut through (R437, R440). -/
def State.rxEnd (s : State) (r : EthRx) : State :=
  r.cut.foldl (fun s q => s.markCut 9216 q)
    (r.admitted.foldl (fun s k => if k.1 = 15 then s else s.txLost k.1 r.f) s)

/-- A frame is good and whole: counted, learned, queued where its cells suffice (R431, R437, R441). -/
def State.tailGood (s : State) (r : EthRx) : State :=
  let p := r.f.ingress
  let s := ((s.pcnt p 0 (r.raw.length + 4)).pcnt p 8).overrun r
  if s.tooLong r then s.rxEnd r
  else
    let s := s.learn r.f
    let t := s.queueUp r.f r.admitted
    if !(r.admitted.isEmpty && r.cut.isEmpty) && 32768 < t.poolUsed then ((s.pcnt p 0x30).reportSec p 0x6004).rxEnd r
    else r.cut.foldl State.closeCut t

/-- A frame turns out bad at its tail, a fault counted at offset `off` of its ingress port. -/
def State.tailBad (s : State) (r : EthRx) (off : Nat) : State := ((s.overrun r).pcnt r.f.ingress off).rxEnd r

/-- A frame's tail arrives. An uncorrectable buffer error of a frame that is cut through counts in RX_FCSERR (R440, R460; DESIGN
CHOICE, log 150). -/
def execEthFrameTail (p : Fin 15) (t : EthTail) (s : State) : Out :=
  .next (match (s.port p).rx with
    | none => s
    | some r =>
      if !s.swOn then s
      else
        let s := s.setPort p { s.port p with rx := none }
        match t with
        | .fcs => s.tailBad r 0x10
        | .phy => s.tailBad r 0x18
        | .marked => s.tailBad r 0x20
        | .ecc => (if r.cut.isEmpty then (s.overrun r).rxEnd r else s.tailBad r 0x10).report 0x600D p
        | .good =>
          match msOf p with
          | none => s.tailGood r
          | some i =>
            if !r.later then s.tailGood r
            else if s.tooLong r then s.tailGood r
            else
              let v := s.msVerify i r.raw
              match v.1 with
              | none => (v.2.pcnt p 0 (r.raw.length + 4)).pcnt p 8
              | some b =>
                let d := v.2.takeIn p b r.f.time r.f.sub false
                d.2.tailGood d.1)

/-! ### Transmission (R444, R446, R448, R455) -/

/-- Choose from classes `l`, highest first: start a frame, or drop a head that can never leave. -/
def State.selectFrom (s : State) (p : Nat) : List Nat → State
  | [] => s
  | c :: r =>
    match s.queue p c with
    | [] => s.selectFrom p r
    | f :: rest =>
      let b := s.wireOf f p
      let ms := s.msTx p f b
      let n := b.length + 4 + (match ms with | .sa _ _ => 32 | .wait _ _ _ => 32 | .plain => 0 | .drop _ _ => 0)
      let drop (off : Nat) : State := ((s.setQueue p c rest).pcnt p off).txLost p f
      let shut := match s.openFor p c with | some t => decide (t < s.txTime p n) | none => false
      let debt := s.cbsOn p c && decide (smGet (fun _ => (0 : Int)) (s.port p).credit c < 0)
      if s.maxFrame p < n then drop 0x90
      else if (match s.openMax p c with | some t => decide (t < s.txTime p n) | none => false) then (drop 0x88).reportSec p 0x6006
      else if shut || debt then s.selectFrom p r
      else match ms with
        | .plain => (s.setQueue p c rest).startSend p c f false
        | .sa _ _ => (s.setQueue p c rest).startSend p c f false
        | .wait i an resv =>
          let k := txSa i an
          (if resv then s.setSa k { s.sa k with waits := true } else s).selectFrom p r
        | .drop i k => ((s.setQueue p c rest).msCnt i k).txLost p f

/-- PLCA runs on the port and its NODE_ID disables transmission. -/
def State.plcaMute (s : State) (p : Nat) : Bool :=
  (p == 12 || p == 13) && s.rb (portA p 0x14) 31 && s.rf (portA p 0x14) 7 0 == 255

/-- An idle port chooses its next frame, class 7 first. -/
def execEthTransmitSelect (p : Fin 15) (s : State) : Out :=
  .next (if !s.swOn || !s.linkUp p || (s.port p).sending.isSome || s.plcaMute p then s
    else (s.creditAll p).selectFrom p [7, 6, 5, 4, 3, 2, 1, 0])

/-- A frame has left port `p`; `sub` refines the instant at which its delimiter crossed the MDI. -/
def execEthTxComplete (p : Fin 15) (sub : BitVec 4) (s : State) : Out :=
  .next (match (s.port p).sending with
    | none => s
    | some x =>
      if !s.swOn || x.open_ then s
      else
        let n := x.wire.length + 4
        let t := State.stampAt p x.at_ sub.toNat (s.rd (tsA p 8))
        let s := (s.pcnt p 0x58 n).pcnt p (if x.marked then 0x58 else 0x60) (if x.marked then 0 else 1)
        let s := if x.thru then s.pcnt p 0x68 else s
        let s := s.setPort p { s.port p with sending := none, lastTx := some (x.wire, x.marked) }
        let s :=
          if s.cbsOn p x.cls then
            let paid : Int := (n * byteUnits * (s.portRate p - s.cbsSlope p x.cls) / max 1 (s.portRate p) : Nat)
            s.setCredit p x.cls (max (smGet (fun _ => (0 : Int)) (s.port p).credit x.cls - paid) (s.loCredit p x.cls))
          else s
        s.ptpRecord p x.f t.1 t.2 (if x.marked then 1 else 0))

/-- The credit of class `c` is back at 0 while it holds a frame. -/
def execCbsCreditZero (p : Fin 15) (c : Fin 8) (s : State) : Out :=
  .next (if s.swOn && s.cbsOn p c && !(s.queue p c).isEmpty && (s.port p).sending.isNone && decide (0 ≤ s.creditNow p c)
    then s.setCredit p c (s.creditNow p c) else s)

/-! ### The host port (R424–R426) -/

/-- Frame `f`, as it leaves the switch through P15. -/
def State.hostFrame (s : State) (f : EFrame) : Frame :=
  { kind := 5, data := s.wireOf f 15, time := f.time, sub := f.sub, ingress := f.ingress }

/-- A PDU that the tunnel unit takes, for receive tunnel `t`. -/
def State.tunGive (s : State) (t : Nat) (x : HostRx) : State :=
  { s with esw := { s.esw with tunIn := smSet (fun _ => []) s.esw.tunIn t (smGet (fun _ => []) s.esw.tunIn t ++ [x]) } }

/-- Deliver frame `f` to host destination `k`, a PDU to every receive tunnel that takes it (R345); what cannot be taken is dropped whole and counted. -/
def State.hostGive (s : State) (k : Nat) (f : EFrame) : State :=
  let h := s.hostFrame f
  let pdu := (afterTags 4 f.rest).drop 2
  let rx (b : List Byte) : HostRx := { bytes := b, time := f.time, sub := f.sub, ingress := f.ingress }
  if k = hostPair then { s with esw := { s.esw with pairIn := s.esw.pairIn ++ [rx (f.da ++ f.sa ++ f.rest)] } }
  else if k < 0x200 then
    let t := k - 0x100
    (t :: (s.tunnelsOf f).filter (· != t)).foldl (fun s t => s.tunGive t (rx pdu)) s
  else if 2048 < h.data.length then s.pcnt f.ingress 0x48
  else if k < 0x400 then
    s.hwPut (k - 0x200) (h.item 0) id (·.pcnt f.ingress 0x48) (·.pcnt f.ingress 0x48)
  else s.setRxq (k - 0x400) (s.rxq (k - 0x400) ++ [h])

/-- P15's next host queue, served round robin (R444). -/
def execHostPortDelivery (s : State) : Out :=
  let ks := ((s.port 15).queues.filter fun q => !q.2.isEmpty).map (·.1)
  .next (match ks.find? (fun k => decide (s.esw.hostRr < k)) <|> ks.head? with
    | none => s
    | some k =>
      if !s.swOn then s
      else match s.queue 15 k with
        | [] => s
        | f :: r => ({ s with esw := { s.esw with hostRr := k } }.setQueue 15 k r).hostGive k f)

/-- Receive tunnel `t` takes the oldest PDU delivered to it. -/
def execTunnelPduReceive (t : Fin 32) (s : State) : Out :=
  .next (match smGet (fun _ => []) s.esw.tunIn t with
    | [] => s
    | x :: r =>
      if !s.accepts 4 || !s.logicOn then s
      else ({ s with esw := { s.esw with tunIn := smSet (fun _ => []) s.esw.tunIn t.val r } }.tunTake t x.bytes
        { time := x.time, sub := x.sub, ingress := x.ingress }))

/-- A frame of an internal user enters on P15, whole and good. -/
def State.hostEnter (s : State) (b : List Byte) : State :=
  if !s.rb eswBase 31 then s
  else
    let r := s.takeIn 15 b s.now 0 false
    r.2.tailGood r.1

/-- Source `k` of the round robin, when it has something: the bytes it sends, or none for an item that is discarded. -/
def State.hostSource (s : State) (k : Nat) : Option (Option (List Byte) × State) :=
  if k < 8 then
    let v := s.rd (esA (0x180 + k * 4))
    if !bit v 31 || !s.ckConsIs (fld v 8 0) 3 then none
    else match s.hwTake (fld v 8 0) with
      | (none, _) => none
      | (some none, s) => some (none, s)
      | (some (some b), s) =>
        let len := leNat (slice b 4 2)
        some (if byteAt b 0 == 5 && 14 ≤ len && len ≤ 2048 && 0x40 + len ≤ b.length then some (slice b 0x40 len) else none, s)
  else if k < 24 then
    match s.txq (k - 8) with
    | [] => none
    | f :: r => some (some f.data, s.setTxq (k - 8) r)
  else match s.esw.hostIn with
    | [] => none
    | b :: r => some (some b, { s with esw := { s.esw with hostIn := r } })

/-- The host transmit Casks, the engine transmit queues and the internal frames are served one frame at a time. -/
def execHostTxServe (s : State) : Out :=
  let order := (List.range 25).map fun i => (s.esw.rr + i) % 25
  .next (if !s.swOn then s
    else match order.find? fun k => (s.hostSource k).isSome with
      | none => s
      | some k =>
        match s.hostSource k with
        | none => s
        | some (b, s) =>
          let s := { s with esw := { s.esw with rr := (k + 1) % 25 } }
          match b with
          | none => s.pcnt 15 0x98
          | some b => s.hostEnter b)

/-! ### Links (R420, R422, R423, R439) -/

/-- PHY class of a port: 0 10GBASE-T1, 1 1000BASE-T1, 2 100BASE-T1, 3 10BASE-T1S. -/
def phyClass (p : Nat) : Nat := if isTenG p then 0 else if p < 8 then 1 else if p < 12 then 2 else 3

/-- The RATE code at which a port can train. -/
def State.rateFits (s : State) (p r : Nat) : Bool :=
  let c := s.rd (portA p 0)
  match phyClass p with
  | 0 => if fld c 25 24 = 2 then 4 ≤ r && r ≤ 6 else r + fld c 23 22 == 6
  | 1 => r == 3
  | 2 => r == 2
  | _ => r == 1

/-- The role that a port can resolve. -/
def State.roleFits (s : State) (p : Nat) (m : Bool) : Bool :=
  if phyClass p = 3 then !m
  else match s.rf (portA p 0) 25 24 with | 0 => m | 1 => !m | _ => true

/-- The PHY of a port may train (R38, R94, R420, R422). -/
def State.mayTrain (s : State) (p : Nat) : Bool :=
  s.rb (portA p 0) 31 && s.boot.phyFw.contains (phyClass p) && !bit s.boot.phyBad p && !s.rb (icuBase + 0x80) p
    && !(p = 1 && s.rb eswBase 29) && !(p = 14 && !s.rb eswBase 29)

/-- A port finishes training. -/
def execPortLinkUp (p : Fin 15) (rate : Fin 7) (isMaster : Bool) (sqi : Fin 8) (s : State) : Out :=
  .next (if !s.swOn || s.linkUp p || !s.mayTrain p || !s.rateFits p rate || !s.roleFits p isMaster then s
    else
      let q := if phyClass p = 3 then 0 else sqi.val
      (((s.wb (portA p 8) 31 true).wf (portA p 8) 30 28 rate).wb (portA p 8) 27 isMaster).wf (portA p 8) 19 16 q)

/-- Port `q` leaves the destinations of every frame in reception. -/
def State.leaveRx (s : State) (q : Nat) : State :=
  let drop (r : EthRx) : EthRx := { r with admitted := r.admitted.filter (·.1 != q), cut := r.cut.filter (· != q) }
  { s with esw := { s.esw with ports := s.esw.ports.map fun x => (x.1, { x.2 with rx := x.2.rx.map drop }) } }

/-- An external port leaves the switch: its link has gone down, or its EN is cleared (R439). A frame in reception is cut short,
which its ingress port counts in RX_PHYERR (R440; DESIGN CHOICE, log 150). -/
def State.portDown (s : State) (p : Nat) : State :=
  let x := s.port p
  let q := (x.queues.map (·.2)).flatten
  let s := if s.linkUp p then s.bump (portA p 8) 15 0 else s
  let s := (s.wf (portA p 8) 31 27 0).wf (portA p 8) 19 16 0
  let s := match x.rx with | some r => (s.pcnt p 0x18).rxEnd r | none => s
  let s := q.foldl (fun s f => s.txLost p f) (s.pcnt p 0x80 q.length)
  let s := match x.sending with
    | some y => s.ptpRecord p y.f y.at_ 0 1
    | none => s
  let s := s.setPort p { s.port p with rx := none, queues := [], sending := none, tc10 := false }
  (((s.leaveRx p).fdbPort p).report 0x6001 p).pairLink

/-- The link of a port goes down. -/
def State.linkDown (s : State) (p : Nat) : State := if !s.linkUp p || p = 15 then s else s.portDown p

def execPortLinkDown (p : Fin 15) (s : State) : Out := .next (if s.swOn then s.linkDown p else s)

/-- The partner acknowledges the sleep request, and the port drops its link. -/
def execTc10SleepAck (p : Fin 15) (s : State) : Out := .next (if s.swOn && (s.port p).tc10 then s.linkDown p else s)

/-- The request is refused or unanswered. -/
def execTc10SleepTimeout (p : Fin 15) (s : State) : Out :=
  .next (if s.swOn && (s.port p).tc10 then (s.setPort p { s.port p with tc10 := false }).wb (portA p 8) 26 true else s)

/-! ### Sweeps, gates, recovery (R432, R434, R445, R447, R452) -/

/-- The ageing sweep. -/
def execFdbAgeSweep (s : State) : Out :=
  .next (if !s.swOn || s.rf eswBase 15 0 = 0 then s
    else
      let s1 := s.fdbDrop fun e => !s.rb (fdbA e) 30 && !s.rb (fdbA e) 29
      s1.fdbValid.foldl (fun s e => s.wb (fdbA e) 29 false) s1)

/-- The flush sweep ends: the filters are those written with GO. -/
def execFdbFlushDone (s : State) : Out :=
  let c := s.esw.flush
  .next (if !s.swOn || !s.rb (esA 8) 30 then s
    else (s.fdbDrop fun e =>
      !(bit c 29 && s.rb (fdbA e) 30) && !(bit c 28 && s.rf (fdbA e) 27 16 != fld c 27 16)
        && decide ((s.rd (fdbA e + 8) &&& c).toNat % 65536 ≠ 0)).wb (esA 8) 30 false)

/-- The pending list takes over at its instant. -/
def execTasListTakeover (p : Fin 15) (s : State) : Out :=
  let t := (s.port p).tas
  .next (if !s.swOn || !s.rb (portA p 0x2C) 31 || !reached t.due s.now then s
    else
      let s := s.creditAll p
      let s := s.wr (portA p 0x2C) (wd (t.newBank * 2 ^ 30 + t.newLen))
      s.setPort p { s.port p with tas := { t with idx := 0, start := t.due, cycle := t.newCycle } })

/-- The running entry's interval ends: the next entry, or entry 0 of the next cycle. -/
def execTasGateEvent (p : Fin 15) (s : State) : Out :=
  let t := (s.port p).tas
  let fin := ((s.gateList p).take (t.idx + 1)).foldl (fun n x => n + x.2) 0
  .next (if !s.swOn || !s.tasOn p || !reached (t.start + wd fin) s.now then s
    else
      let s := s.creditAll p
      s.setPort p { s.port p with
        tas := if t.idx + 1 < s.tasLen p && fin < t.cycle then { t with idx := t.idx + 1 }
          else { t with idx := 0, start := t.start + wd t.cycle } })

/-- No frame has been passed for RESET_MS. -/
def execFrerResetTimeout (r : Fin 256) (s : State) : Out :=
  .next (if s.swOn && s.rb (recvA r) 31 && (s.frer r).seq.isSome
      && decide (s.rf (recvA r) 15 0 * 500000 ≤ s.ticks - (s.frer r).passed) then (s.setFrer r {}).report 0x6007 r else s)

/-! ### Registers -/

/-- Cells of every held reservation but `r`. -/
def State.resOthers (s : State) (r : Nat) : Nat :=
  (List.range 16).foldl (fun n k =>
    if k != r && ownHeld (s.rd (esA (0x100 + k * 8))) then n + s.rf (esA (0x104 + k * 8)) 13 0 else n) 0

/-- A write of BRES_CFG (R436). -/
def State.putBres (s : State) (t : Tags) (r : Nat) (v : Word) : Ans :=
  let own (k : Nat) : Nat := esA (0x100 + k * 8)
  if !s.mayWriteOwned t (own r) then s.deny t (esA (0x104 + r * 8))
  else if 8192 < s.resOthers r + fld v 13 0 then (.range, s)
  else if (List.range 16).any fun k => k != r && ownHeld (s.rd (own k))
      && s.rf (esA (0x104 + k * 8)) 26 24 == fld v 26 24 && s.rf (esA (0x104 + k * 8)) 31 28 == fld v 31 28 then
    (.conflict, s)
  else (.done, s.plainWr (esA (0x104 + r * 8)) v)

/-- Highest rate of a port as configured, in kbit/s. -/
def State.speedOf (s : State) (p : Nat) : Nat :=
  if s.linkUp p then s.portRate p
  else match phyClass p with
    | 0 => rateOf (6 - s.rf (portA p 0) 23 22)
    | 1 => 1000000
    | 2 => 100000
    | _ => 10000

/-- PORT_CTL (R420, R423, R439). Fields that stay as they stand are in range. -/
def State.putPortCtl (s : State) (p : Nat) (v : Word) : Ans :=
  let role := fld v 25 24
  let tc := bit v 21 || bit v 20
  let bad := p != 15 && ((phyClass p != 3 && (role = 3 || (role = 2 && !isTenG p))) || (isTenG p && fld v 23 22 = 3))
  let new := (s.rd (portA p 0) ^^^ v) &&& 0x03C03FFF != 0
  if (new && (bad || fld v 13 0 < 64 || 9216 < fld v 13 0)) || (tc && !(2 ≤ p && p < 12)) then (.range, s)
  else
    let was := s.rb (portA p 0) 31
    let s := s.creditAll p
    let s := s.plainWr (portA p 0) (if p = 15 then setBit v 31 false else v)
    let s := if bit v 20 then s.setPort p { s.port p with wur := (s.port p).wur + 1 } else s
    let s := if bit v 21 && s.linkUp p then s.setPort p { s.port p with tc10 := true } else s
    (.done, if p != 15 && was && !bit v 31 then s.portDown p else s)

/-- TAS_CTL (R447). -/
def State.putTasCtl (s : State) (p : Nat) (v : Word) : Ans :=
  let change := bit v 30
  let bank := fld v 29 29
  let cyc := (s.rd (portA p 0x28)).toNat
  if fld v 8 0 = 0 || 256 < fld v 8 0 || (change && cyc < 1000) then (.range, s)
  else if change && (s.rb (portA p 0x2C) 31 || bank = s.tasBank p) then (.conflict, s)
  else
    let s := (s.creditAll p).plainWr (portA p 0x20) v
    if !change then (.done, s)
    else
      let x := s.port p
      (.done, (s.setPort p { x with tas := { x.tas with
        due := seriesNext (s.rd (portA p 0x24)) s.now cyc, newBank := bank, newLen := fld v 8 0, newCycle := cyc } }).wb
        (portA p 0x2C) 31 true)

/-- Some class code of a QCFG word is above 9. -/
def qcfgBad (v : Word) : Bool := (List.range 8).any fun c => 9 < fld v (4 * c + 3) (4 * c)

/-- CBSc: the enabled classes together take at most 75 % of the port rate (R448). -/
def State.putCbs (s : State) (p c : Nat) (v : Word) : Ans :=
  let others := (List.range 8).foldl (fun n k => if k != c && s.cbsOn p k then n + s.cbsSlope p k else n) 0
  if bit v 31 && s.speedOf p * 3 < (others + fld v 23 0) * 4 then (.range, s)
  else (.done, ((s.creditAll p).plainWr (portA p (0x40 + c * 4)) v).setCredit p c 0)

/-- Offset `o` of the port block of `p`. -/
def State.putPort (s : State) (p o : Nat) (v : Word) : Ans :=
  let plain : Ans := (.done, s.plainWr (portA p o) v)
  if o = 0 then s.putPortCtl p v
  else if o = 4 then if fld v 30 29 = 3 || fld v 11 0 = 0 || fld v 11 0 = 4095 then (.range, s) else plain
  else if o = 0xC then if qcfgBad v then (.range, s) else plain
  else if o = 0x14 then
    if !(p = 12 || p = 13) || fld v 23 16 = 0 || fld v 15 8 = 0 then (.range, s) else plain
  else if o = 0x20 then if p = 15 then (.range, s) else s.putTasCtl p v
  else if o = 0x28 then if v.toNat < 1000 || 1000000000 < v.toNat then (.range, s) else plain
  else if 0x40 ≤ o && o < 0x60 then if p = 15 then (.range, s) else s.putCbs p ((o - 0x40) / 4) v
  else plain

/-- ESW_CTL (R420, R432, R459). -/
def State.putEswCtl (s : State) (v : Word) : Ans :=
  let age := fld v 15 0
  if age != s.rf eswBase 15 0 && age != 0 && age < 10 then (.range, s)
  else if bit v 29 != s.rb eswBase 29 && (s.rb (portA 1 0) 31 || s.rb (portA 14 0) 31) then (.conflict, s)
  else
    let s := s.plainWr eswBase v
    (.done, if bit v 30 then
      { s with esw := { s.esw with ports := s.esw.ports.map fun x => (x.1, { x.2 with shadow := x.2.cnt }) } } else s)

/-- A write to offset `o` of the ESW page; BRES_CFG and the MACsec instances have their own rules. -/
def State.putEsw (s : State) (t : Tags) (o : Nat) (v : Word) : Ans :=
  if 0x8000 ≤ o && o < 0x9800 then s.putMs t ((o - 0x8000) / 0x800) (o % 0x800) v
  else if 0x100 ≤ o && o < 0x180 && o % 8 = 4 then s.putBres t ((o - 0x100) / 8) v
  else if !t.manager then s.deny t (esA o)
  else if o = 0 then s.putEswCtl v
  else if o = 8 then
    if bit v 31 && s.rb (esA 8) 30 then (.conflict, s)
    else
      let s := s.plainWr (esA 8) v
      (.done, if bit v 31 then { s with esw := { s.esw with flush := v } }.wb (esA 8) 30 true else s)
  else if 0x180 ≤ o && o < 0x1A0 then
    if bit v 31 && !s.ckConsIs (fld v 8 0) 3 then (.conflict, s) else (.done, s.plainWr (esA o) v)
  else if 0x1000 ≤ o && o < 0x3000 then s.putPort ((o - 0x1000) / 0x200) (o % 0x200) v
  else (.done, s.plainWr (esA o) v)

/-! ### Table entries (R430) -/

/-- Words per entry, first address, end and writable bits of each word of the staged tables. -/
def swtShape (o : Nat) : Option (Nat × List Word) :=
  if o < 0x20000 then some (16, [0xCFFFFFFF, 0xFFFFFFFF, 0x0000FFFF, 0])
  else if o < 0x28000 then some (8, [0xCFFFFFFF, 0x0000FFFF])
  else if 0x30000 ≤ o && o < 0x34000 then some (16, [0xCFFFFFFF, 0xFFFFFFFF, 0xE0FFFFFF, 0xFFFF0000])
  else if o < 0x35000 && 0x34000 ≤ o then some (16, [0xF0FFFFFF, 0x00FFFFFF, 0xFFFFFFFF, 0])
  else if o < 0x36000 && 0x35000 ≤ o then some (16, [0xC03FFFFF, 0, 0, 0])
  else if 0x37000 ≤ o && o < 0x37100 then some (8, [0xC000FFFF, 0x7FFF81FF])
  else none

/-- Word 0 `v` and the staged words replace the entry at address `a`; read-only bits stay. -/
def State.commitWords (s : State) (a : Nat) (masks : List Word) (v : Word) : State :=
  ((List.range masks.length).foldl (fun (s : State) i =>
    let m := masks.getD i 0
    let new := if i = 0 then v else s.rd (stageA (a + i * 4))
    s.wr (a + i * 4) ((s.rd (a + i * 4) &&& ~~~m) ||| (new &&& m))) s)

/-- A write to offset `o` of the switch tables. -/
def State.putSwt (s : State) (t : Tags) (o : Nat) (v : Word) : Ans :=
  let a := swtBase + o
  if !t.manager then s.deny t a
  else match swtShape o with
    | some (size, masks) =>
      if o % size != 0 then (.done, s.wr (stageA a) v)
      else
        let s1 := s.commitWords a masks v
        let w1 := s1.rd (a + 4)
        if 0x35000 ≤ o && o < 0x36000 then
          if fld v 21 16 = 0 || 32 < fld v 21 16 || fld v 15 0 = 0 then (.range, s)
          else (.done, s1.setFrer ((o - 0x35000) / 16) {})
        else if 0x37000 ≤ o && bit w1 15 && s.ckItem (fld w1 8 0) != 2112 then (.length, s)
        else if 0x37000 ≤ o && bit w1 15 && !s.ckProdIs (fld w1 8 0) 3 then (.conflict, s)
        else if 0x34000 ≤ o && o < 0x35000 then
          let w2 := s1.rd (a + 8)
          (.done, s1.setMeter ((o - 0x34000) / 16)
            { c := fld w2 15 0 * byteUnits, e := fld w2 31 16 * byteUnits, at_ := s1.ticks })
        else (.done, s1)
    | none =>
      if 0x36000 ≤ o && o < 0x36400 then (.done, s.wr a (v &&& 0xFFFF))
      else if 0x50000 ≤ o && o < 0x5F000 then
        let p := (o - 0x50000) / 0x1000
        let bank := o % 0x1000 / 0x800
        if o % 8 = 4 && (v.toNat < 100 || 1000000000 < v.toNat) then (.range, s)
        else if bank = s.tasBank p then (.conflict, s)
        else (.done, s.wr a (if o % 8 = 0 then v &&& 0xFF else v))
      else (.done, s)

/-! ### The rows that write -/

/-- A write of PORT_CTL that sets TC10_SLEEP, TC10_WUR. -/
def execTc10Sleep (a : Acc) (p : Fin 16) (s : State) : Out :=
  s.cfgWrite a (portA p 0) (.tc10Sleep a p) fun t s => s.putEsw t (portA p 0 - eswBase) (setBit (setBit (s.rd (portA p 0)) 20 false) 21 true)
def execTc10Wur (a : Acc) (p : Fin 16) (s : State) : Out :=
  s.cfgWrite a (portA p 0) (.tc10Wur a p) fun t s => s.putEsw t (portA p 0 - eswBase) (setBit (setBit (s.rd (portA p 0)) 21 false) 20 true)

/-- A write of FDB_CMD with GO. -/
def execFdbFlush (a : Acc) (v : Word) (s : State) : Out :=
  s.cfgWrite a (esA 8) (.fdbFlush a v) fun t s => s.putEsw t 8 (setBit v 31 true)

/-- A write to a switch table. -/
def execSwitchEntryCommit (a : Acc) (o : BitVec 20) (v : Word) (s : State) : Out :=
  s.cfgWrite a (swtBase + o.toNat / 4 * 4) (.switchEntryCommit a o v) fun t s => s.putSwt t (o.toNat / 4 * 4) v

def execBresCfgWrite (a : Acc) (r : Fin 16) (v : Word) (s : State) : Out :=
  s.cfgWrite a (esA (0x104 + r * 8)) (.bresCfgWrite a r v) fun t s => s.putBres t r v

/-- A write of TAS_CTL with CHANGE. -/
def execTasChange (a : Acc) (p : Fin 15) (v : Word) (s : State) : Out :=
  s.cfgWrite a (portA p 0x20) (.tasChange a p v) fun t s => s.putEsw t (portA p 0x20 - eswBase) (setBit v 30 true)

/-- A write of ESW_CTL with SNAP, its other fields as they stand. -/
def execCounterSnapshot (a : Acc) (s : State) : Out :=
  s.cfgWrite a eswBase (.counterSnapshot a) fun t s => s.putEsw t 0 (setBit (s.rd eswBase) 30 true)

end Sys2Proof.Machine
end

