-- ==== Sys2Proof/Machine/Pair.lean ====
section
/-!
DEFINITION. Paired operation: roles, heartbeats, claims, pair frames, vintages, standby health and hand-over (R659–R680).
-/

namespace Sys2Proof.Machine

/-! ### Vintages of the active (R673, R674) -/

def State.vinBusy (s : State) : Bool := s.prm.vin != .idle

/-- The vintage completes with `st` in VIN_STAT; any status but DONE counts and reports 0x7044. -/
def State.vinClose (s : State) (st : Status) : State :=
  let s := ((s.setPrm { s.prm with vin := .idle }).wf (prA 0x34) 23 16 st.code).wb (prA 0x34) 31 false
  if st = .done then s.wr (prA 0x38) (wd s.prm.vseq) else (s.bump (prA 0x34) 7 0).report 0x7044

/-- Bytes of the vintage that the registers ask for, header included. -/
def State.vinLen (s : State) : Nat :=
  0x40 + (s.rf (prA 0x24) 31 16 + 1 - s.rf (prA 0x24) 15 0) * 0x20 + (s.rd (prA 0x2C)).toNat

/-- It exceeds 2 MiB, or APP_LEN is no multiple of 8 (R673). -/
def State.vinTooLong (s : State) : Bool := decide (vinMax < s.vinLen) || (s.rd (prA 0x2C)).toNat % 8 != 0

/-- OUT_MAP: the demand of every channel with DUAL set (R673). -/
def State.outMap (s : State) : Nat :=
  (List.range 64).foldl (fun n c => if (s.chI c).dual && s.rb (chA c 0x24) 4 then n + 2 ^ c else n) 0

/-- A vintage starts with its cut: the Cellar snapshot, OUT_MAP and the application block (R674). A snapshot that is
refused ends it with that status. -/
def State.vinBegin (s : State) : State :=
  let first := s.rf (prA 0x24) 15 0
  let last := s.rf (prA 0x24) 31 16
  let n := (last + 1 - first) * 0x20
  let app := (s.rd (prA 0x2C)).toNat
  let stage := (s.rd (prA 0x30)).toNat
  let seq := (s.prm.vseq + 1) % 2 ^ 32
  let s := { s with prm := { s.prm with vseq := seq }, clr := { s.clr with pairEnd := none } }
  let s := (s.wf (prA 0x34) 31 30 2).wf (prA 0x34) 23 16 0
  let r : Ans :=
    if !s.accepts 4 then (.aborted, s)
    else if !sramSpan stage s.vinLen || (app != 0 && !sramSpan (s.rd (prA 0x28)).toNat app) then (.length, s)
    else s.snapTake first last (stage + 0x40) true
  if r.1 != .done then r.2.vinClose r.1
  else
    let s := r.2
    let head := leBytes 4 vinMagic ++ leBytes 4 seq ++ leBytes 4 s.vinLen ++ leBytes 4 s.now.toNat ++ leBytes 2 first
      ++ leBytes 2 last ++ leBytes 4 app ++ leBytes 8 s.outMap ++ leBytes 4 s.boot.startCount ++ List.replicate 24 0
    let s := s.memPut (stage + 0x40 + n) (s.ldBytes (s.rd (prA 0x28)).toNat app)
    ((s.setPrm { s.prm with vin := .copy, header := head }).wb (prA 0x34) 30 true).wr (prA 0x3C) s.now

/-- The staged vintage goes out: VIN_DATA frames in order of OFFSET, then VIN_COMMIT (R674). -/
def State.vinShip (s : State) : State :=
  let stage := (s.rd (prA 0x30)).toNat
  let head := s.prm.header
  let body := s.ldBytes (stage + 0x40) (vinFld head 8 4 - 0x40)
  let full := head ++ leBytes 4 (crc32 (head ++ body))
  let s := (s.memPut stage full).setPrm { s.prm with vin := .ack }
  let s := (List.range ((body.length + 1407) / 1408)).foldl (fun s k =>
    s.pairSend 2 (beBytes 4 s.prm.vseq ++ beBytes 4 (0x40 + k * 1408) ++ padTo 1408 (body.drop (k * 1408)))) s
  s.pairSend 3 full

/-- The hand-over goes on when no vintage runs: its final vintage starts, or has decided it (R679). -/
def State.handRun (s : State) : State :=
  if s.vinBusy then s
  else match s.prm.hand with
    | .wait =>
      if s.vinTooLong then
        let s := s.vinClose .length
        s.setPrm { s.prm with hand := .none }
      else
        let s := s.vinBegin
        s.setPrm { s.prm with hand := if s.vinBusy then .final else .none }
    | .final =>
      if s.rf (prA 0x34) 23 16 = 0 then
        let s := s.toStandby
        s.setPrm { s.prm with hand := .given }
      else s.setPrm { s.prm with hand := .none }
    | _ => s

/-- The running vintage ends. -/
def State.vinEnd (s : State) (st : Status) : State := (s.vinClose st).handRun

/-- What PRM does as soon as it can: ship a vintage whose snapshot has ended, send waiting frames, follow the partner's
reachability. -/
def State.pairPoll (s : State) : State :=
  let s := if s.prm.out.isEmpty then s else s.pairDrain s.prm.out
  let s := match s.prm.vin with
    | .copy =>
      match s.clr.pairEnd with
      | some st =>
        let s := { s with clr := { s.clr with pairEnd := none } }
        if st = Status.done then s.vinShip else s.vinEnd .aborted
      | none => if (match s.clr.snap with | some n => n.forPair | none => false) then s else s.vinEnd .aborted
    | _ => s
  s.pairLink

/-! ### The PRM page -/

/-- PRM_CTL: a write that asks for anything refused does nothing (R660, R670, R674, R679). -/
def State.putPrmCtl (s : State) (v : Word) : Ans :=
  let role := s.front.role
  let start := bit v 0 && role = 0 && s.prm.start == .idle
  if bit v 1 && s.vinTooLong then (.length, s)
  else if (bit v 1 && (role != 3 || s.vinBusy)) || (bit v 2 && (role != 3 || !s.rb (prA 8) 14)) then (.conflict, s)
  else if start && s.pairEn && (!persistent (s.rf (prA 0) 23 16) || !s.slAttr (s.rf (prA 0) 23 16) 2
      || s.slSize (s.rf (prA 0) 23 16) != 2) then (.keyUsage, s)
  else
    let s := if !start then s
      else if s.pairEn then s.setPrm { s.prm with start := .listen, heard := s.front.ownLow }
      else s.setRole 1
    let s := if bit v 3 then { s with front := { s.front with hbo := 1000, hboLeft := 500000 } } else s
    let s := if bit v 1 then s.vinBegin else s
    (.done, if bit v 2 then (s.setPrm { s.prm with hand := .wait }).handRun else s)

/-- A write to offset `o` of the PRM page. -/
def State.putPrm (s : State) (t : Tags) (o : Nat) (v : Word) : Ans :=
  let a := prA o
  if !t.manager then s.deny t a
  else if o = 0 then
    if fld v 23 16 < 16 || 191 < fld v 23 16 then (.range, s)
    else if s.front.role != 0 then (.conflict, s) else (.done, s.plainWr a v)
  else if o = 4 then s.putPrmCtl v
  else if o = 0x20 && (fld v 25 16 < 10 || 1000 < fld v 25 16) then (.range, s)
  else if o = 0x28 && (v.toNat % 8 != 0 || !inSram v.toNat) then (.range, s)
  else if o = 0x30 && (v.toNat % 32 != 0 || !sramSpan v.toNat vinMax) then (.range, s)
  else (.done, s.plainWr a v)

/-- A read of offset `o` of the PRM page. -/
def State.getPrm (s : State) (o : Nat) : Word :=
  if o = 8 then
    let v := s.rd (prA 8)
    setBit (setBit (setBit (setBit (setBit (setFld v 2 0 s.front.role) 3 s.posB) 6 s.homeReady) 10
      (s.front.ownLow)) 11 s.front.permit) 12 s.pairSync
  else if o = 0x4C then wd s.healthRun
  else s.rd (prA o)

/-- PRM_CTL.START. -/
def execPrmStart (a : Acc) (s : State) : Out := s.cfgWrite a (prA 4) (.prmStart a) fun t s => s.putPrm t 4 1
/-- PRM_CTL.GO. -/
def execVintageGo (a : Acc) (s : State) : Out := s.cfgWrite a (prA 4) (.vintageGo a) fun t s => s.putPrm t 4 2
/-- PRM_CTL.HANDOVER. -/
def execHandover (a : Acc) (s : State) : Out := s.cfgWrite a (prA 4) (.handover a) fun t s => s.putPrm t 4 4
/-- PRM_CTL.WAKE. -/
def execPairWake (a : Acc) (s : State) : Out := s.cfgWrite a (prA 4) (.pairWake a) fun t s => s.putPrm t 4 8

/-! ### Heartbeats and the partner's state (R663–R665, R669) -/

/-- The pulse of a role's heartbeat, in µs. -/
def beatCode (role : Nat) : Option Nat := if role = 2 then some 50 else if role = 3 then some 20 else none

/-- PRM commands a beat: the front die's pulse, and a HEARTBEAT frame while paired operation is configured. -/
def execBeatTick (s : State) : Out :=
  .next (if !s.logicOn || s.front.role = 0 then s
    else
      let s := s.pairPoll
      let s := match beatCode s.front.role with
        | some w => { s with front := { s.front with hbo := w, hboLeft := w * 500 } }
        | none => s
      if s.pairEn then s.pairSend 1 (beBytes 4 s.lastVseq ++ beBytes 4 s.healthRun) else s)

/-- An ACTIVE module at position B hears an ACTIVE partner (R669). -/
def State.yieldTo (s : State) (role : Nat) : State :=
  if role = 3 && s.front.role = 3 && s.posB then ((s.setPrm { s.prm with hand := .none }).toStandby).report 0x7043 else s

/-- A beat of an ACTIVE partner during the listen (R666). -/
def State.hear (s : State) (role : Nat) : State :=
  if role = 3 && s.prm.start == .listen then s.setPrm { s.prm with heard := true } else s

/-- A pulse of `us` µs on PAIR_HBI. -/
def execHeartbeatPulseReceive (us : Nat) (s : State) : Out :=
  let role := if 10 ≤ us && us ≤ 30 then 3 else if 40 ≤ us && us ≤ 60 then 2 else 0
  .next (if !s.logicOn || role = 0 then s
    else
      let s := (s.setPrm { s.prm with line := .delivering }).wf (prA 8) 18 16 role
      ((s.peerSync.hear role).yieldTo role).pairPoll)

/-- A path has delivered nothing for 5.2 ms: `frame` says which. Without paired operation there is no partner. -/
def execPeerPathSilent (frame : Bool) (s : State) : Out :=
  .next (if !s.logicOn then s
    else if !s.pairEn then (s.setPrm { s.prm with line := .unknown, frame := .unknown }).peerSync
    else if frame then
      let s := (s.setPrm { s.prm with frame := .silent }).peerSync
      (if s.vinBusy then s.vinEnd .farError else s).pairPoll
    else ((s.setPrm { s.prm with line := .silent }).peerSync).pairPoll)

/-- The role ends: OFFLINE, PAIR_OWN released, permit withdrawn. -/
def State.pairOff (s : State) : State :=
  (s.setRole 0).setPrm { s.prm with start := .idle, heard := false, armed := false, hand := .none }

/-- The front die has had no beat command for 5 ms. -/
def execBeatCommandAbsent (s : State) : Out :=
  .next (if s.front.role = 0 then s else s.pairOff.reportF 0x7047)

/-! ### Claims (R666–R668) -/

/-- The listen ends. -/
def execPairListenEnd (s : State) : Out :=
  .next (if !s.logicOn || s.prm.start != .listen then s
    else if s.prm.heard then s.toStandby
    else s.setPrm { s.prm with start := .guard })

/-- PAIR_OWN changes level. -/
def execPairOwnChange (low : Bool) (s : State) : Out :=
  let s := State.permitSync { s with front := { s.front with ownLow := low } }
  .next (if !s.logicOn then s
    else if !low then s.wb (prA 8) 13 false
    else match s.prm.start with
      | .listen => s.setPrm { s.prm with heard := true }
      | .guard => s.toStandby
      | .idle => s)

/-- The winning vintage's OUT_MAP sets SW_ON of every DUAL channel with the register source, as TID 0 with W = 1 (R678). -/
def State.applyOutMap (s : State) (m : Nat) : State :=
  (List.range 64).foldl (fun s c =>
    if (s.chI c).dual && s.rf (chA c 4) 1 0 == 1 then
      (s.brWrite (.carried 0 true) false (c / 32) (chA c 0xC) fun t s =>
        s.putCh t c 0xC (setBit (s.rd (chA c 0xC)) 0 (m.testBit c))).2
    else s) s

/-- A Cellar entry takes the 32 bytes at `a` as in restore mode (R352, R678). -/
def State.restoreEntry (s : State) (h a : Nat) : State :=
  let s := (List.range 8).foldl (fun s w =>
    let v := wd (s.ldLE (a + 4 * w) 4)
    if w < 4 then s.enRestoreWord h w v else s.plainWr (enA h w) v) (s.snapSave h true)
  (List.range 4).foldl (fun s k => s.mend (enA h (2 * k))) s

/-- The winning vintage is restored: Cellar entries and application block (R678). -/
def State.vinRestore (s : State) (v : Nat) : State :=
  let hd := s.ldBytes (vinA v) 64
  let first := vinFld hd 0x10 2
  let n := vinFld hd 0x12 2 + 1 - first
  let s := if s.accepts 4 then (List.range n).foldl (fun s i => s.restoreEntry (first + i) (vinA v + 0x40 + i * 0x20)) s else s
  let app := (s.rd (prA 0x28)).toNat
  let len := vinFld hd 0x14 4
  if sramSpan app len then s.memPut app (s.ldBytes (vinA v + 0x40 + n * 0x20) len) else s

/-- Claim the outputs: ACTIVE; vintages go on from the winning one. -/
def State.claim (s : State) : State :=
  let s := (s.setRole 3).wb (prA 8) 13 false
  s.setPrm { s.prm with start := .idle, heard := false, armed := false, runFrom := s.ticks
                        vseq := match s.vinWin with | some h => s.ldLE (vinA h + 4) 4 | none => s.prm.vseq }

/-- The standby takes over (R678). -/
def State.takeover (s : State) : State :=
  let s := s.claim
  let s := match s.vinWin with
    | some v => (s.applyOutMap (s.ldLE (vinA v + 0x18) 8)).vinRestore v
    | none => s
  s.wb (prA 8) 15 true

/-- PAIR_OWN has read high for the guard that applies. -/
def execPairClaim (s : State) : Out :=
  .next (if !s.logicOn || s.front.ownLow then s
    else if s.front.role = 0 && s.prm.start == .guard then s.claim
    else if s.front.role = 2 && (s.peer = 3 || s.prm.armed) && s.aoState != 1 then s.takeover
    else s)

/-- PAIR_OWN still reads low 10 ms after PEER became FAILED. -/
def execTakeoverBlocked (s : State) : Out :=
  .next (if s.logicOn && s.front.role = 2 && s.peer = 3 && s.front.ownLow && !s.rb (prA 8) 13
    then (s.wb (prA 8) 13 true).report 0x7042 else s)

/-! ### Pair frames received (R671) -/

/-- The oldest received frame, when it is accepted and of TYPE `typ`: it, and the state after what every accepted frame
does. -/
def State.pairTake (s : State) (typ : Nat) : Option (PairFrame × State) :=
  match s.esw.pairIn with
  | [] => none
  | x :: r =>
    match s.pairAccept x.bytes with
    | none => none
    | some f =>
      if f.typ != typ || !s.logicOn then none
      else
        let home := s.front.role = 3 && f.flags.testBit 0
        let s := { s with esw := { s.esw with pairIn := r } }
        let s := s.setPrm { s.prm with
          last := some (f.epoch, f.seq)
          armed := s.prm.armed || (s.front.role = 2 && s.rb (prA 0) 30 && f.flags.testBit 3)
          hand := if s.prm.hand = .given && f.role = 3 then .none else s.prm.hand }
        some (f, ((s.wf (prA 8) 18 16 f.role).wb (prA 8) 14 home))

/-- Act on the oldest received frame of TYPE `typ`. -/
def State.onPair (s : State) (typ : Nat) (g : PairFrame → State → State) : Out :=
  .next (match s.pairTake typ with
    | some (f, s) => (g f s).pairPoll
    | none => s)

def execPairHeartbeatFrame (s : State) : Out :=
  s.onPair 1 fun f s =>
    (((s.setPrm { s.prm with frame := .delivering }).peerSync).hear f.role).yieldTo f.role

/-- VIN_DATA is staged on the standby; another VSEQ starts a new vintage. -/
def execPairVinData (s : State) : Out :=
  s.onPair 2 fun f s =>
    let seq := beNat (slice f.payload 0 4)
    let off := beNat (slice f.payload 4 4)
    let stage := (s.rd (prA 0x30)).toNat
    if s.front.role != 2 || off < 0x40 || vinMax ≤ off || !sramSpan stage vinMax then s
    else
      let offs := if s.prm.rxSeq = some seq then s.prm.rxOffs else []
      let s := s.memPut (stage + off) ((slice f.payload 8 1408).take (vinMax - off))
      s.setPrm { s.prm with rxSeq := some seq, rxOffs := offs ++ [off] }

/-- The status codes other than DONE (R41). -/
def failCodes : List Nat :=
  [0x10, 0x11, 0x12, 0x20, 0x21, 0x30, 0x31, 0x32, 0x33, 0x34, 0x40, 0x41, 0x50, 0x51, 0x60, 0x61, 0x70]

/-- VIN_COMMIT: when every offset has arrived and the CRC matches, body and header go to the half that does not hold the
winner, and VIN_ACK carries DONE; otherwise it carries some other code, which the spec leaves open (log 2). -/
def execPairVinCommit (s : State) : Out :=
  s.onPair 3 fun f s =>
    let hd := f.payload
    let len := vinFld hd 8 4
    let seq := vinFld hd 4 4
    let stage := (s.rd (prA 0x30)).toNat
    let body := s.ldBytes (stage + 0x40) (len - 0x40)
    if s.front.role != 2 then s
    else if sramSpan stage vinMax && vinFld hd 0 4 == vinMagic && 0x40 ≤ len && len ≤ vinMax && s.prm.rxSeq == some seq
        && ((List.range ((len - 0x40 + 1407) / 1408)).all fun k => s.prm.rxOffs.contains (0x40 + k * 1408))
        && crc32 (hd.take 0x3C ++ body) == vinFld hd 0x3C 4 then
      let h := if s.vinWin = some 0 then 1 else 0
      let s := (s.memPut (vinA h + 0x40) body).memPut (vinA h) hd
      let s := s.setPrm { s.prm with rxSeq := none, rxOffs := [], vinAt := some s.ticks }
      s.pairSend 4 (beBytes 4 seq ++ [0, 0, 0, 0])
    else
      let r := s.fresh
      r.2.pairSend 4 (beBytes 4 seq ++ [BitVec.ofNat 8 (failCodes.getD (r.1.toNat % 17) 0x10), 0, 0, 0])

/-- VIN_ACK ends the vintage it names. -/
def execPairVinAck (s : State) : Out :=
  s.onPair 4 fun f s =>
    if s.prm.vin = .ack && beNat (slice f.payload 0 4) = s.prm.vseq
    then s.vinEnd (if byteAt f.payload 4 = 0 then .done else .farError) else s

/-- A health word is healthy (R676). -/
def State.healthy (s : State) (w : Nat) : Bool := wd w &&& s.rd (prA 0x44) == s.rd (prA 0x44)

/-- A HEALTH frame on the active (R677). -/
def execPairHealthFrame (s : State) : Out :=
  s.onPair 5 fun f s =>
    let w := beNat (slice f.payload 0 4)
    if s.front.role != 3 then s
    else
      let s := s.wr (prA 0x48) (wd w)
      if s.healthy w then s else (s.setPrm { s.prm with runFrom := s.ticks }).report 0x7045

/-- BR_RSP answers the transaction of the pair bridge that bears its TAG; a line fetch goes on until its 64 bytes are in. -/
def execPairBrRsp (s : State) : Out :=
  s.onPair 7 fun f s =>
    let tag := (byteAt f.payload 0).toNat
    let code := (byteAt f.payload 1).toNat
    let data := beNat (slice f.payload 4 8)
    let st := ([.done, .length, .align, .range, .access, .conflict, .keyAbsent, .keyUsage, .keyCorrupt, .keyRevoked,
      .keyExhausted, .fault, .eccUncorr, .aborted, .timeout, .stale, .markLost, .farError] : List Status).find?
        (fun x => x.code == code)
    match (s.bridge 3).txs.find? fun x => x.tag == tag && x.out with
    | none => s
    | some x =>
      let words := if st = some .done then x.words ++ [some (wd data), some (wd (data >>> 32))]
        else x.words ++ List.replicate (16 - x.words.length) none
      if x.op = .line && words.length < 16 then
        let y := { x with words := words }
        (s.brSet 3 y).pairSend 6 (s.brReq y)
      else
        let y := { x with words := words }
        State.brRun ((s.brDrop 3 tag).brBack 3 y (st.getD .farError) (BitVec.ofNat 64 (data % 2 ^ (8 * x.bytes)))) 3

/-- The oldest received frame fails its checks: it is dropped and counted, and reported at most once per second. -/
def execPairFrameReject (s : State) : Out :=
  .next (match s.esw.pairIn with
    | [] => s
    | x :: r =>
      if !s.logicOn || (s.pairAccept x.bytes).isSome then s
      else
        let s := ({ s with esw := { s.esw with pairIn := r } } : State).bump (prA 8) 31 24
        if s.prm.badSaid = 0 || 500000000 ≤ s.ticks + 1 - s.prm.badSaid
        then (s.setPrm { s.prm with badSaid := s.ticks + 1 }).report 0x7046 else s)

/-! ### Timers (R674, R676, R677, R679) -/

/-- Every PERIOD ms with AUTO set, on the active. -/
def execVintageAutoTick (s : State) : Out :=
  .next (if !s.logicOn || s.front.role != 3 || !s.rb (prA 0x20) 31 then s
    else
      let s := s.pairPoll
      if s.vinBusy then s.bump (prA 0x34) 15 8
      else if s.vinTooLong then s.vinClose .length
      else s.vinBegin)

/-- No VIN_ACK within 10 ms of VIN_COMMIT. -/
def execVintageAckTimeout (s : State) : Out :=
  .next (if s.logicOn && s.prm.vin == .ack then s.vinEnd .timeout else s)

/-- Each 100 ms a STANDBY module sends its health word. -/
def execHealthReportTick (s : State) : Out :=
  .next (if !s.logicOn || s.front.role != 2 then s
    else
      let s := s.pairPoll
      let w := s.healthWord
      let s := if s.healthy w then s else s.setPrm { s.prm with runFrom := s.ticks }
      s.pairSend 5 (beBytes 4 w ++ beBytes 4 s.lastVseq))

/-- Each 100 ms the standby pulses its permit line under the test strobe while every DUAL channel is OFF; `seen` says whether
both dies saw the pulse. No channel is permitted by it. -/
def execPermitSelfTest (seen : Bool) (s : State) : Out :=
  .next (if !s.logicOn || s.front.role != 2 then s
    else
      let allOff := (List.range 64).all fun c => !(s.chI c).dual || s.chState c == 0
      s.setPrm { s.prm with selfTest := allOff && seen })

/-- Three health reports are missing on the active. -/
def execPeerHealthMissing (s : State) : Out :=
  .next (if s.logicOn && s.front.role = 3 then (s.setPrm { s.prm with runFrom := s.ticks }).report 0x7045 else s)

/-- 100 ms since the last frame with HANDOVER. -/
def execHandoverArmExpiry (s : State) : Out := .next (s.setPrm { s.prm with armed := false })

end Sys2Proof.Machine
end

