-- ==== Sys2Proof/Machine/Worlds.lean ====
section
/-!
DEFINITION. The world control unit: fill lines, labels, Reserve-held blocks, denied Table-world requests and the Reserve
watchdog (R575–R586).
-/

namespace Sys2Proof.Machine

def wcA (off : Nat) : Nat := wcuBase + off

/-! ### Reserve-held islands (R580, R581) -/

/-- Configuration pages whose blocks stand in an island. -/
def islandPages (i : Nat) : List Nat :=
  if i = 2 then [1, 2, 3, 4, 5, 0x12] else if i = 4 then [0xA, 0xB, 0xC] else if i = 5 then [0xF]
  else if i = 6 then [9] else if i = 7 then [0xD, 0xE] else if i = 8 then [6, 7, 8] else if i = 9 then [0x10]
  else if i = 10 then [0x11] else []

/-- The island holds a Reserve-held block. -/
def State.islandHeld (s : State) (i : Nat) : Bool :=
  if i = 0 || i = 2 || i = 3 || i = 8 || i = 10 then true
  else if i = 1 then s.rb (wcA 0x18) 21
  else (islandPages i).any fun p => s.rb (wcA 0x18) p

/-- NSD_STAT.TARGET of an island. -/
def State.nsdTarget (s : State) (i : Nat) : Nat :=
  if i < 2 then 0x80 + i else if i = 3 then 0x82
  else ((islandPages i).find? fun p => s.rb (wcA 0x18) p).getD ((islandPages i).headD 0)

/-- A Table-world clock or power request of a kind is ignored: NSD_STAT, fault 0x3001 (R581). -/
def State.nsDenied (s : State) (t : Tags) (i kind : Nat) : State :=
  let a := wcA 0x30
  let n := satInc (s.rf a 15 8) 255
  (s.wr a (wd (t.tid.toNat * 2 ^ 24 + kind * 2 ^ 20 + n * 2 ^ 8 + s.nsdTarget i))).report 0x3001 0 0 t.tid t.w

/-! ### Reserve watchdog (R583–R585) -/

/-- RWD_CTL.EN. -/
def State.rwdEn (s : State) : Bool := s.rb (wcA 0x20) 31

/-- The watchdog does not count: debug is open, DBG_PAUSE is set and a hart is halted (R584). -/
def State.rwdPaused (s : State) : Bool := s.dbg.isOpen && s.rb (wcA 0x20) 30 && s.harts.any fun p => p.2.halted

/-- Milliseconds to expiry (RWD_STAT.REM), rounded up. -/
def State.rwdRem (s : State) : Nat :=
  if !s.rwdEn then s.rf (wcA 0x20) 15 0
  else if s.rwd.expired then 0
  else (s.rwd.tmo * 500000 - (s.ticks - s.rwd.since) + 499999) / 500000

/-- The watchdog expires: fault 0x3004 (R585). Its chip reset follows once the record's log write has ended. -/
def State.rwdExpire (s : State) : State :=
  { s with rwd := { s.rwd with expired := true } }.report 0x3004 s.rwd.tmo

/-- The count starts with the TMO and WMIN that RWD_CTL now holds. -/
def State.rwdStart (s : State) : State :=
  { s with rwd := ⟨s.rf (wcA 0x20) 15 0, s.rf (wcA 0x20) 28 16, s.ticks, false, false⟩ }

/-- A write to RWD_KICK with W = 1 (R583). -/
def State.kick (s : State) (key : Nat) : State :=
  if !s.rwdEn || s.rwd.expired then s
  else if key != 0x9640 || s.ticks - s.rwd.since < s.rwd.wmin * 500000 then s.rwdExpire
  else s.rwdStart

/-- RWD_CTL: TMO 1–10,000 and WMIN below it; EN, once set, stays set and starts the count. -/
def State.putRwd (s : State) (v : Word) : Ans :=
  let tmo := fld v 15 0
  if tmo = 0 || 10000 < tmo || tmo ≤ fld v 28 16 then (.range, s)
  else
    let was := s.rwdEn
    let s := s.plainWr (wcA 0x20) v
    (.done, if bit v 31 && !was then (s.wb (wcA 0x20) 31 true).rwdStart else s)

/-! ### Registers -/

/-- A write to a locked world setting: ACCESS, fault 0x3005 (R579). -/
def State.lockedSetting (s : State) (t : Tags) : Ans := (.access, s.report 0x3005 0 0 t.tid t.w)

/-- A 2-bit label of the word names no world: value 3. -/
def labelBad (v : Word) : Bool := (List.range 16).any fun j => fld v (2 * j + 1) (2 * j) == 3

/-- A write of `v` to offset `o` of the WCU page. -/
def State.putWcu (s : State) (t : Tags) (o : Nat) (v : Word) : Ans :=
  let a := wcA o
  let lock := s.rb wcuBase 31
  if o = 0x24 then if t.w then (.done, s.kick (fld v 15 0)) else s.deny t a
  else if !t.manager then s.deny t a
  else if o = 0 then
    if lock && bit v 0 != s.rb wcuBase 0 then s.lockedSetting t
    else (.done, (s.wb wcuBase 0 (bit v 0)).wb wcuBase 31 (lock || bit v 31))
  else if o = 0x10 || o = 0x14 then
    if lock then s.lockedSetting t
    else if (if o = 0x10 then 512 else 384) < fld v 9 0 then (.range, s)
    else (.done, s.plainWr a v)
  else if o = 0x18 then if lock then s.lockedSetting t else (.done, s.plainWr a v)
  else if o = 0x20 then s.putRwd v
  else if o = 0x30 then (.done, if fld v 15 8 = 0 then s else s.wf a 15 8 0)
  else if 0x8000 ≤ o && o < 0x8800 && labelBad v then (.range, s)
  else (.done, s.plainWr a v)

/-- A read of the WCU page, with W = 1 only. -/
def State.getWcu (s : State) (o : Nat) : Word :=
  if o = 0x28 then setFld (s.rd (wcA o)) 15 0 (s.rwdRem) else s.rd (wcA o)

/-- A write to the WCU page. -/
def State.wcuWrite (s : State) (a : Acc) (o : Nat) (v : Word) (cmd : Instr) : Out :=
  s.cfgWrite a (wcA o) cmd fun t s => s.putWcu t o v

/-- A fill line, LABEL_EN or a label word: every cluster copy has it when the write completes (R578). -/
def execFillLineWrite (a : Acc) (r : FillReg) (v : Word) (s : State) : Out :=
  match r with
  | .flSram => s.wcuWrite a 0x10 v (.fillLineWrite a r v)
  | .flMram => s.wcuWrite a 0x14 v (.fillLineWrite a r v)
  | .labelEn => s.wcuWrite a 0 (setBit (s.rd wcuBase) 0 (bit v 0)) (.fillLineWrite a r v)
  | .label n => s.wcuWrite a (0x8000 + n.val * 4) v (.fillLineWrite a r v)

/-- WCU_CTL.LOCK (R579). -/
def execWcuLock (a : Acc) (s : State) : Out :=
  s.wcuWrite a 0 (setBit (s.rd wcuBase) 31 true) (.wcuLock a)

/-- A write of RWD_CTL with EN. -/
def execRwdEnable (a : Acc) (v : Word) (s : State) : Out :=
  s.wcuWrite a 0x20 (setBit v 31 true) (.rwdEnable a v)

/-- A write of RWD_KICK, with KEY and the reserved half above it. -/
def execRwdKick (a : Acc) (key high : BitVec 16) (s : State) : Out :=
  s.wcuWrite a 0x24 (high ++ key) (.rwdKick a key high)

/-- The watchdog counts, and `n` / 2 of its timeout have passed (R584, R585). -/
def State.rwdPassed (s : State) (n : Nat) : Bool :=
  s.logicOn && s.rwdEn && !s.rwd.expired && !s.rwdPaused && n * s.rwd.tmo * 500000 ≤ 2 * (s.ticks - s.rwd.since)

/-- Half the timeout has passed: WARN, fault 0x3003. -/
def execRwdWarn (s : State) : Out :=
  .next (if s.rwdPassed 1 && !s.rwd.warned
    then ({ s with rwd := { s.rwd with warned := true } }.wb (wcA 0x28) 31 true).report 0x3003 s.rwd.tmo else s)

/-- The timeout has passed. -/
def execRwdExpiry (s : State) : Out := .next (if s.rwdPassed 2 then s.rwdExpire else s)

end Sys2Proof.Machine
end

