-- ==== Sys2Proof/Machine/Faults.lean ====
section
/-!
DEFINITION. The fault collector: records, ring and log, escalation, reactions, captures and memory scrubbing (R681–R699).
-/

namespace Sys2Proof.Machine

def fcA (off : Nat) : Nat := fcBase + off

/-! ### The ring (R681, R685) -/

/-- Word `k` of the ring place of record `q`. -/
def ringA (q k : Nat) : Nat := fcA (0x8000 + q % 256 * 0x20 + k * 4)

/-- Little-endian bytes of words. -/
def wordBytes (ws : List Word) : List Byte := ws.flatMap fun w => leBytes 4 w.toNat

/-- The CRC of the first seven words of a record (R97). -/
def recordCrc (ws : List Word) : Word := wd (crc32 (wordBytes (ws.take 7)))

/-- The eight words at the ring place of record `q`. -/
def State.ringRecord (s : State) (q : Nat) : List Word := (List.range 8).map fun k => s.rd (ringA q k)

/-- Put words from word `k` of the ring place of record `q` onwards. -/
def State.ringPut (s : State) (q k : Nat) : List Word → State
  | [] => s
  | w :: r => (s.wr (ringA q k) w).ringPut q (k + 1) r

/-- Change a word of a record in the ring and recompute its CRC. -/
def State.ringSet (s : State) (q k : Nat) (v : Word) : State :=
  let s := s.wr (ringA q k) v
  s.wr (ringA q 7) (recordCrc (s.ringRecord q))

/-- FC_WR and FC_RD. -/
def State.fcWr (s : State) : Nat := (s.rd (fcA 0x10)).toNat
def State.fcRd (s : State) : Nat := (s.rd (fcA 0x14)).toNat

/-! ### Escalation (R689) -/

def escA (k w : Nat) : Nat := fcA (0x400 + k * 8 + w * 4)
def State.esc (s : State) (k : Nat) : EscCnt := smGet (fun _ => {}) s.fc.esc k
def State.setEsc (s : State) (k : Nat) (v : EscCnt) : State :=
  { s with fc := { s.fc with esc := smSet (fun _ => {}) s.fc.esc k v } }

/-- WIN_MS of entry `k` has passed since the first report counted. -/
def State.escOver (s : State) (k : Nat) : Bool :=
  (s.esc k).count != 0 && s.rf (escA k 1) 23 0 * 500000 < s.ticks - (s.esc k).since

/-- Entry `k` counts a report of `id`: the severity it gives, 0 for none. -/
def State.escCount (s : State) (id k : Nat) : Nat × State :=
  let v := s.rd (escA k 0)
  if bit v 31 && fld v 15 0 == id then
    let e := s.esc k
    let n := if s.escOver k then 1 else e.count + 1
    if s.rf (escA k 1) 31 24 ≤ n then (fld v 29 28, s.setEsc k { e with count := 0 })
    else (0, s.setEsc k { e with count := n, since := if n = 1 then s.ticks else e.since })
  else (0, s)

/-- Every entry counts the report; the highest severity given. -/
def State.escalate (s : State) (id : Nat) : Nat × State :=
  (List.range 32).foldl (fun a k => let r := a.2.escCount id k; (max a.1 r.1, r.2)) (0, s)

/-- A commit of `v` to word 0 of entry `k`, with the staged word 1. -/
def State.escCommit (s : State) (k : Nat) (v : Word) : Ans :=
  let w := (s.esc k).staged
  let bad := match defSev (fld v 15 0) with
    | none => true
    | some d => fld v 29 28 ≤ d
  if bit v 31 && (bad || fld w 31 24 = 0 || fld w 23 0 = 0) then (.range, s)
  else
    let v := v &&& 0xB000FFFF
    (.done, ((s.wr (escA k 0) v).wr (escA k 1) w).setEsc k { s.esc k with count := 0 })

/-! ### Reactions (R690–R694) -/

/-- Steps 1, 4 and 5 of the entry to the safe state (R691). -/
def State.safeState (s : State) (id : Nat) : State :=
  let s := if s.rb fcBase 31 then s else (s.wf fcBase 15 0 id).wb fcBase 31 true
  let s := (List.range 2).foldl (fun s d => if s.rb (fcA 0xC) d && (s.die d).supplied then s.limpEnter d else s) s
  if s.rb (fcA 0xC) 2 && 2 ≤ s.front.role then s.pairOff else s

/-- The chip reset that a record causes: FAULT counts in RST_CNT (R694), RES_WDT does not (R585). -/
def State.faultReset (s : State) (cause : Nat) : State :=
  let s := if cause = 4 then { s with boot := { s.boot with rstAt := s.boot.rstAt ++ [s.powered] } } else s
  s.chipReset cause

/-- A chip reset is due once the log write of record `lseq` has ended; at once when it has (R694). -/
def State.resetAfter (s : State) (lseq cause : Nat) : State :=
  if s.fc.logWrites.any fun w => w.lseq == lseq then
    let mark (w : LogWrite) : LogWrite := if w.lseq = lseq then { w with reset := w.reset.or (some cause) } else w
    { s with fc := { s.fc with logWrites := s.fc.logWrites.map mark } }
  else s.faultReset cause

/-- The reaction of an accepted report of `id` with effective severity `sev`; `lseq` is its record's. -/
def State.react (s : State) (id sev lseq : Nat) : State :=
  if sev < 2 then s
  else if sev = 2 then s.safeState id
  else if id = 0x3004 then (if s.rwd.expired then s.resetAfter lseq 3 else s)
  else if s.rf (fcA 4) 19 16 ≤ s.boot.rstCnt then (s.safeState id).report 0x2013
  else s.resetAfter lseq 4

/-! ### Acceptance (R681, R684–R686) -/

/-- Words 0 and 6 of a report's record, REPEAT 0. -/
def reportWord0 (r : Report) (sev dflt : Nat) : Word :=
  wd (r.id % 65536 + (sev + dflt * 4 + (decide (dflt < sev)).toNat * 16 + r.fromLog.toNat * 32 + r.noTime.toNat * 64) * 65536
    + r.src * 16777216)
def reportWord6 (r : Report) : Word := wd (r.tid.toNat * 65536 + r.w.toNat * 16777216)

/-- The newest record has not been passed by FC_RD, and the report equals it (R684). -/
def State.mergesWith (s : State) (w0 w6 : Word) (r : Report) : Bool :=
  let q := s.fcWr - 1
  s.fcRd < s.fcWr && s.rd (ringA q 0) == w0 && s.rd (ringA q 4) == r.ctx0 && s.rd (ringA q 5) == r.ctx1
    && fld (s.rd (ringA q 6)) 31 16 == fld w6 31 16

/-- Room in the ring: a new record that would overwrite an unread one moves FC_RD on, counts, and reports 0x2010 once per
overwrite run (R685). -/
def State.ringRoom (s : State) : State :=
  if s.fcWr < s.fcRd + 256 then { s with fc := { s.fc with overrun := false } }
  else
    let said := s.fc.overrun
    let s := (s.wr (fcA 0x14) (wd (s.fcWr - 255))).bump fcBase 23 16
    let s := { s with fc := { s.fc with overrun := true } }
    if said then s else s.report 0x2010

/-- A new record, and its log write when its severity is DEGRADED or higher; the second component is its LSEQ. -/
def State.newRecord (s : State) (r : Report) (w0 w6 : Word) (sev : Nat) : Nat × State :=
  let s := s.ringRoom
  let q := s.fcWr
  let lseq := if 1 ≤ sev then (s.rd (fcA 0x18)).toNat else 0xFFFFFFFF
  let ws := [w0, r.time, wd q, wd lseq, r.ctx0, r.ctx1, w6]
  let ws := ws ++ [recordCrc ws]
  let s := (s.ringPut q 0 ws).wr (fcA 0x10) (wd (q + 1))
  if 1 ≤ sev then
    let s := s.wr (fcA 0x18) (wd (lseq + 1))
    (lseq, { s with fc := { s.fc with logWrites := s.fc.logWrites ++ [⟨lseq, q, wordBytes ws, none⟩] } })
  else (lseq, s)

/-- FC accepts a report. -/
def State.accept (s : State) (r : Report) : State :=
  let dflt := (defSev r.id).getD 0
  let e := s.escalate r.id
  let s := e.2
  let sev := max dflt e.1
  let w0 := reportWord0 r sev dflt
  let w6 := reportWord6 r
  if s.mergesWith w0 w6 r then
    let q := s.fcWr - 1
    let w := s.rd (ringA q 6)
    (s.ringSet q 6 (setFld w 15 0 (satInc (fld w 15 0) 65535))).react r.id sev (s.rd (ringA q 3)).toNat
  else
    let n := s.newRecord r w0 w6 sev
    n.2.react r.id sev n.1

/-- Report `k` of those in flight reaches FC. -/
def execFaultReport (k : Nat) (s : State) : Out :=
  .next (if !s.logicOn then s
    else match s.reports[k]? with
      | none => s
      | some r => ({ s with reports := dropAt s.reports k } : State).accept r)

/-- The oldest log write ends: durable, or failed, which reports 0x2012 and leaves the ring's record with LSEQ 0xFFFF_FFFF
(R686). -/
def execFaultLogWriteDone (ok : Bool) (s : State) : Out :=
  .next (match s.fc.logWrites with
    | [] => s
    | w :: rest =>
      let s : State := { s with fc := { s.fc with logWrites := rest } }
      let at_ := 0x21D40000 + w.lseq % 65536 * 0x20
      let s := if ok then
          s.memPut at_ w.record
        else
          let s := s.report 0x2012 at_ (at_ >>> 32)
          if s.fcWr ≤ w.seq + 256 then s.ringSet w.seq 3 0xFFFFFFFF else s
      match w.reset with
      | none => s
      | some c => s.faultReset c)

def execEscalationWindowExpiry (k : Fin 32) (s : State) : Out :=
  .next (if s.rf (escA k.val 1) 23 0 * 500000 ≤ s.ticks - (s.esc k.val).since
    then s.setEsc k.val { s.esc k.val with count := 0 } else s)

/-- Fault resets that are older than 60 s of powered time count no longer (R694). -/
def execRstCntAgeOut (s : State) : Out :=
  .next (let b := { s.boot with rstAt := s.boot.rstAt.filter fun t => s.powered - t < 30000000000 }
    ({ s with boot := b } : State).wf fcBase 27 24 b.rstCnt)

/-! ### Registers -/

/-- A SAFE_STATE record lies between FC_RD and FC_WR (R692). -/
def State.safeUnread (s : State) : Bool :=
  (List.range (s.fcWr - s.fcRd)).any fun k => fld (s.rd (ringA (s.fcRd + k) 0)) 17 16 == 2

/-- FC_INJ: a record at once (R697). -/
def State.inject (s : State) (id : Nat) : Ans :=
  if (defSev id).isNone then (.range, s) else (.done, s.accept { id, ctx0 := 0xFFFFFFFF, time := s.now })

/-- A write to FC_CTL. -/
def State.putFcCtl (s : State) (v : Word) : Ans :=
  if fld v 19 16 = 0 then (.range, s)
  else if bit v 31 && s.safeUnread then (.conflict, s)
  else
    let s := s.plainWr (fcA 4) v
    (.done, if bit v 31 then (s.wf fcBase 15 0 0).wb fcBase 31 false else s)

/-- A write to offset `o` of the FC page. -/
def State.putFc (s : State) (t : Tags) (o : Nat) (v : Word) : Ans :=
  if !t.manager then s.deny t (fcA o)
  else if o = 4 then s.putFcCtl v
  else if o = 0x14 then
    if s.fcWr < v.toNat || v.toNat + 256 < s.fcWr then (.range, s) else (.done, s.wr (fcA o) v)
  else if o = 0x1C then s.inject (fld v 15 0)
  else if 0x400 ≤ o && o < 0x500 then
    let k := (o - 0x400) / 8
    if o % 8 = 4 then (.done, s.setEsc k { s.esc k with staged := v }) else s.escCommit k v
  else (.done, s.plainWr (fcA o) v)

/-- Who reads the FC page: TID 0 with W = 1, and CAP_h the tenant and world of hart h (R695). -/
def State.fcReadable (s : State) (t : Tags) (o : Nat) : Bool :=
  t.manager || (0x100 ≤ o && o < 0x140 &&
    t == ⟨s.hartTid ((o - 0x100) / 8), (s.hart ((o - 0x100) / 8)).world⟩)

def execEscalationCommit (a : Acc) (k : Fin 32) (v : Word) (s : State) : Out :=
  s.cfgWrite a (escA k.val 0) (.escalationCommit a k v) fun t s => s.putFc t (0x400 + k.val * 8) v

/-- A write of FC_CTL with SAFE_CLR and RST_LIMIT as it stands. -/
def execSafeClr (a : Acc) (s : State) : Out :=
  s.cfgWrite a (fcA 4) (.safeClr a) fun t s => s.putFc t 4 (setBit (s.rd (fcA 4)) 31 true)

def execFcInj (a : Acc) (id : BitVec 16) (s : State) : Out :=
  s.cfgWrite a (fcA 0x1C) (.fcInj a id) fun t s => s.putFc t 0x1C (wd id.toNat)

/-! ### Memory scrubbing (R263, R698) -/

/-- Whether `a` lies in an engine memory window, and the SE_ECC register of its engine. -/
def engEccA (a : Nat) : Option Nat :=
  if 0x40200000 ≤ a && a < 0x40400000 then some (secBase + (a - 0x40200000) / 0x20000 * 0x1000 + 8) else none

/-- A word on the fabric is read by a scrubber or any other reader and its ECC has that result (R263, R317, R698). -/
def State.scrubWord (s : State) (a : Nat) (res : EccResult) : State :=
  let res := if s.isBad a then EccResult.uncorrectable else res
  if a < 0x10000 then (if res = .clean then s else s.report 0x2005 a)
  else if inSram a || inMram a then
    match res with
    | .clean => s
    | .corrected => s.report (if inSram a then 0x2001 else 0x2003) a
    | .uncorrectable => (s.spoil a).eccReport a
  else if cellarBase ≤ a && a < cellarBase + 0x200000 then
    let h := (a - cellarBase) / 0x20
    match res with
    | .clean => s
    | .corrected => s.bump (clA 0x28) 23 16
    | .uncorrectable => s.enUncorr h (a % 0x20 / 8)
  else match engEccA a with
    | none => s
    | some r =>
      match res with
      | .clean => s
      | .corrected => (s.bump r 15 0).report 0x4006 ((a - 0x40200000) / 0x20000 * 8)
      | .uncorrectable =>
        (s.spoil a).seEcc ((a - winBase) / 0x20000) a (decide ((a - winBase) % 0x20000 < 0x10000))

/-- An error in a cache line of system SRAM (R549): repaired by correction or refetch, or, in a dirty line, the line is poisoned
and every later reader of its words finds them uncorrectable until they are rewritten. -/
def State.scrubCache (s : State) (h a : Nat) (dirty : Bool) (res : EccResult) : State :=
  let pc := (s.hart h).pc.toNat
  if res = .clean || !inSram a then s
  else if res = .uncorrectable && dirty then
    ((List.range 8).foldl (fun s i => s.spoil (a / 64 * 64 + i * 8)) s).report 0x1007 h pc
  else s.report 0x1006 h pc

/-- The frame at the head of a CAN controller's FIFO or receive queue meets an uncorrectable error: it is dropped whole and
counted as its queue's or FIFO's drop (R698). -/
def State.scrubCan (s : State) (n q : Nat) (res : EccResult) : State :=
  let i := s.can n
  let any := match q with | 0 => !i.txf.isEmpty | 1 => !i.q0.isEmpty | _ => !i.q1.isEmpty
  if res != .uncorrectable || !any then s
  else
    let s := match q with
      | 0 =>
        let heads := match i.sending with | some (.head, _) => true | _ => false
        (s.setCan n { i with sending := if heads then none else i.sending }).canDiscard n .head
      | 1 => ((s.setCan n { i with q0 := i.q0.drop 1 }).canCnt n 2).canEvt n 4
      | _ => ((s.setCan n { i with q1 := i.q1.drop 1 }).canCnt n 3).canEvt n 4
    s.report 0x2006 n

/-- The frame at the head of a switch queue meets an error: a corrected one counts in CE_CNT, an uncorrectable one drops the
frame whole (R460). -/
def State.scrubBuffer (s : State) (p k : Nat) (res : EccResult) : State :=
  if !s.accepts 5 then s
  else match res, s.queue p k with
    | .clean, _ => s
    | .corrected, _ => s.bump (esA 4) 23 16
    | .uncorrectable, [] => s
    | .uncorrectable, f :: r =>
      let s := s.setQueue p k r
      (if p = 15 then s else s.txLost p f).report 0x600D p

/-- What a scrubber or any other reader finds. -/
def execMemoryScrub (site : EccSite) (res : EccResult) (s : State) : Out :=
  .next (if !s.logicOn then s
    else match site with
      | .word addr => s.scrubWord addr.toNat res
      | .cache h addr dirty => s.scrubCache h addr.toNat dirty res
      | .canRam n q => s.scrubCan n q res
      | .swBuffer p k => s.scrubBuffer p k res)

end Sys2Proof.Machine
end

