-- ==== Sys2Proof/Machine/Irq.lean ====
section
/-!
DEFINITION. Interrupts to the harts: the two APLIC domains in the register layout of the AIA specification, their sources,
and the delivery of MSIs (R550–R552). The layout and the behaviour of its registers are PRESUMED from that specification
(log 10).
-/

namespace Sys2Proof.Machine

/-- Register `off` of APLIC domain `d`: 0 machine level, 1 supervisor level. -/
def aplA (d off : Nat) : Nat := icuBase + 0x8000 + d * 0x4000 + off

/-- Level of source `i` where a chapter gives its condition (R552): an enabled event of a CAN or LIN controller, of the time
base, a tenant in TNM_PEND, an error record of a bridge, an unread record of a severity that FC_IEN enables, TAKEOVER or
PEER_HOME of PRM, WARN of the watchdog. None for ESW, STG, CPH, KST and PKE, whose conditions the spec does not give. -/
def State.srcLevel (s : State) (i : Nat) : Option Bool :=
  if 1 ≤ i && i ≤ 16 then some (s.rd (canBase + (i - 1) * 0x1000 + 0x38) &&& s.rd (canBase + (i - 1) * 0x1000 + 0x3C) != 0)
  else if 17 ≤ i && i ≤ 24 then some (s.rd (linBase + (i - 17) * 0x400 + 0xC) &&& s.rd (linBase + (i - 17) * 0x400 + 0x10) != 0)
  else if i = 25 then some (s.rd (tbuBase + 0x14) &&& s.rd (tbuBase + 0x18) != 0)
  else if i = 26 then some ((List.range 8).any fun k => s.rd (tnmBase + k * 4) != 0)
  else if 27 ≤ i && i ≤ 30 then some (!(s.bridge (i - 27)).errs.isEmpty)
  else if i = 31 then
    let rd := (s.rd (fcBase + 0x14)).toNat
    some ((List.range ((s.rd (fcBase + 0x10)).toNat - rd)).any fun k =>
      let sev := fld (s.rd (fcBase + 0x8000 + (rd + k) % 256 * 0x20)) 17 16
      sev < 3 && s.rb (fcBase + 8) sev)
  else if i = 37 then some (s.rb (prmBase + 8) 14 || s.rb (prmBase + 8) 15)
  else if i = 38 then some (s.rb (wcuBase + 0x28) 31 && s.rb (wcuBase + 0x20) 29)
  else none

/-- The domain that source `i` belongs to: delegated sources are the supervisor's. -/
def State.aplDom (s : State) (i : Nat) : Nat := if s.rb (aplA 0 (i * 4)) 10 then 1 else 0
/-- Source mode in domain `d`: 0 Inactive, 1 Detached, 6 Level1. -/
def State.aplMode (s : State) (d i : Nat) : Nat := if s.aplDom i = d then s.rf (aplA d (i * 4)) 2 0 else 0

def State.aplIp (s : State) (d i : Nat) : Bool := s.rb (aplA d (0x1C00 + i / 32 * 4)) (i % 32)
def State.setAplIp (s : State) (d i : Nat) (b : Bool) : State := s.wb (aplA d (0x1C00 + i / 32 * 4)) (i % 32) b
def State.aplIe (s : State) (d i : Nat) : Bool := s.rb (aplA d (0x1E00 + i / 32 * 4)) (i % 32)
def State.setAplIe (s : State) (d i : Nat) (b : Bool) : State := s.wb (aplA d (0x1E00 + i / 32 * 4)) (i % 32) b

/-- A pending and enabled source of an enabled domain is forwarded to its target, and is no longer pending. -/
def State.aplForward (s : State) (d i : Nat) : State :=
  if s.aplIp d i && s.aplIe d i && s.rb (aplA d 0) 8 then
    let t := s.rd (aplA d (0x3000 + i * 4))
    (s.setAplIp d i false).sendMsi (fld t 20 18) (if d = 0 then 0 else 1 + fld t 14 12) (fld t 10 0)
  else s

/-- Forward whatever may be. -/
def State.aplPump (s : State) (d : Nat) : State :=
  (List.range 38).foldl (fun s k => s.aplForward d (k + 1)) s

/-- A source becomes pending by a write: a Detached one always, a Level1 one while its input is high. -/
def State.aplSet (s : State) (d i : Nat) : State :=
  let m := s.aplMode d i
  if m = 1 || (m = 6 && s.aplic.contains i) then (s.setAplIp d i true).aplForward d i else s
def State.aplClr (s : State) (d i : Nat) : State := if s.aplMode d i = 0 then s else s.setAplIp d i false
def State.aplEn (s : State) (d i : Nat) (b : Bool) : State :=
  if s.aplMode d i = 0 then s else (s.setAplIe d i b).aplForward d i

/-- sourcecfg: D delegates a source of the machine domain; a mode that is not offered leaves it Inactive. A source that
becomes inactive in a domain loses its bits there; one that becomes Level1 with a high input is pending. -/
def State.putSourceCfg (s : State) (d i : Nat) (v : Word) : State :=
  if 38 < i || (d = 1 && s.aplDom i = 0) then s
  else
    let m := if [1, 6].contains (fld v 2 0) then fld v 2 0 else 0
    let w := if d = 0 && bit v 10 then 0x400 else m
    let drop (s : State) (d : Nat) : State := (s.setAplIp d i false).setAplIe d i false
    let was := s.aplMode d i
    let s := if d = 0 && bit v 10 != s.rb (aplA 0 (i * 4)) 10 then (drop (drop s 0) 1).wr (aplA 1 (i * 4)) 0 else s
    let s := s.wr (aplA d (i * 4)) (wd w)
    if s.aplMode d i = 0 then drop s d
    else if m = 6 && was != 6 && s.aplic.contains i then s.setAplIp d i true
    else s

/-- Apply `f` to every source whose bit is set in word `k` of a bit array. -/
def eachBit (v : Word) (k : Nat) (f : State → Nat → State) (s : State) : State :=
  (List.range 32).foldl (fun s j => if bit v j && 1 ≤ k * 32 + j && k * 32 + j ≤ 38 then f s (k * 32 + j) else s) s

/-- The source that a number names. -/
def aplNum (v : Word) : Nat := if v.toNat ≤ 38 then v.toNat else 0

/-- A write to register `off` of domain `d`. -/
def State.putAplic (s : State) (t : Tags) (d off : Nat) (v : Word) : Ans :=
  let num (v : Word) (f : State → Nat → State) : State := if aplNum v = 0 then s else f s (aplNum v)
  let be := wd (leNat (leBytes 4 v.toNat).reverse)
  if !(if d = 0 then t.manager else t.tid0) then s.deny t (aplA d off)
  else (.done,
    if off = 0 then (s.wb (aplA d 0) 8 (bit v 8)).aplPump d
    else if off < 0x1000 then (s.putSourceCfg d (off / 4) v).aplForward d (off / 4)
    else if 0x1C00 ≤ off && off < 0x1C80 then eachBit v ((off - 0x1C00) / 4) (fun s i => s.aplSet d i) s
    else if off = 0x1CDC || off = 0x2000 then num v fun s i => s.aplSet d i
    else if off = 0x2004 then num be fun s i => s.aplSet d i
    else if 0x1D00 ≤ off && off < 0x1D80 then eachBit v ((off - 0x1D00) / 4) (fun s i => s.aplClr d i) s
    else if off = 0x1DDC then num v fun s i => s.aplClr d i
    else if 0x1E00 ≤ off && off < 0x1E80 then eachBit v ((off - 0x1E00) / 4) (fun s i => s.aplEn d i true) s
    else if off = 0x1EDC then num v fun s i => s.aplEn d i true
    else if 0x1F00 ≤ off && off < 0x1F80 then eachBit v ((off - 0x1F00) / 4) (fun s i => s.aplEn d i false) s
    else if off = 0x1FDC then num v fun s i => s.aplEn d i false
    else if off = 0x3000 then s.sendMsi (fld v 20 18) d (fld v 10 0)
    else if 0x3004 ≤ off && off ≤ 0x3000 + 38 * 4 && s.aplMode d ((off - 0x3000) / 4) != 0 then
      s.wr (aplA d off) (v &&& (if d = 0 then 0x1C07FF else 0x1C77FF))
    else s)

/-- A read of register `off` of domain `d`. -/
def State.getAplic (s : State) (d off : Nat) : Word :=
  if off = 0 then s.rd (aplA d 0)
  else if off < 0x1000 then if d = 1 && s.aplDom (off / 4) = 0 then 0 else s.rd (aplA d off)
  else if 0x1C00 ≤ off && off < 0x1C80 then s.rd (aplA d off)
  else if 0x1D00 ≤ off && off < 0x1D80 then
    (List.range 32).foldl (fun (w : Word) j =>
      let i := (off - 0x1D00) / 4 * 32 + j
      if s.aplMode d i = 6 && s.aplic.contains i then setBit w j true else w) 0
  else if 0x1E00 ≤ off && off < 0x1E80 then s.rd (aplA d off)
  else if 0x3004 ≤ off && off ≤ 0x3000 + 38 * 4 && s.aplMode d ((off - 0x3000) / 4) != 0 then s.rd (aplA d off)
  else 0

/-- Keep a list without repeats, in rising order. -/
def insertNat (k : Nat) : List Nat → List Nat
  | [] => [k]
  | x :: r => if k < x then k :: x :: r else if k = x then x :: r else x :: insertNat k r

/-- A source changes its level as its block has it, and the APLIC acts on it. -/
def execAplicSourceChange (src : Fin 39) (level : Bool) (s : State) : Out :=
  let i := src.val
  let seen := s.aplic.contains i
  .next (if !s.logicOn || i = 0 || level = seen || (s.srcLevel i).getD level != level then s
    else
      let s := { s with aplic := if level then insertNat i s.aplic else s.aplic.filter (· != i) }
      let d := s.aplDom i
      if s.aplMode d i != 6 then s
      else if level then (s.setAplIp d i true).aplForward d i else s.setAplIp d i false)

/-- The `k`-th MSI in flight is pending in its file; identity 0 names none. -/
def execMsiDelivery (k : Nat) (s : State) : Out :=
  .next (match s.msis[k]? with
    | none => s
    | some m =>
      let s := { s with msis := dropAt s.msis k }
      if m.eiid = 0 || 2047 < m.eiid || 7 < m.hart || 8 < m.file then s
      else
        let h := s.hart m.hart
        let file := insertNat m.eiid (smGet (fun _ => []) h.imsic m.file)
        s.setHart m.hart { h with imsic := smSet (fun _ => []) h.imsic m.file file })

end Sys2Proof.Machine
end

