-- ==== Sys2Proof/Machine/Kst.lean ====
section
/-!
DEFINITION. Key store commands, key update messages, the integrity scan, pending rewrites, invocation counter reservations
and attestation (R595–R602, R605, R607, R621, R624–R626).
-/

namespace Sys2Proof.Machine

/-- A KST command ends with its status and reason. -/
def State.kstEnd (s : State) (st : Status) (reason : Nat) : State :=
  s.wr (kstBase + 0x10) (wd (st.code * 256 + reason))

/-- ATTR is valid under R593 and matches a key of `len` bytes. -/
def attrOk (attr : Word) (len : Nat) : Bool :=
  fld attr 31 10 == 0 && sizeOf len == fld attr 9 8
    && (!bit attr 7 || (fld attr 9 8 == 2 && fld attr 6 0 == 0))
    && (!bit attr 5 || fld attr 9 8 == 2)
    && (fld attr 9 8 != 3 || fld attr 5 2 == 0)

/-- The halves of a key that XTS may use differ. -/
def halvesDiffer (attr : Word) (key : List Byte) : Bool :=
  if key.length = 64 || (key.length = 32 && (bit attr 0 || bit attr 1 || bit attr 6))
  then key.take (key.length / 2) != key.drop (key.length / 2) else true

/-- Check 1 of R600. -/
def msgHeader (r : Img) : Bool :=
  let op := imgLE r 6 1
  let len := imgLE r 0x24 1
  imgLE r 0 4 == 0x96404B55 && imgLE r 4 2 == 1 && (op == 1 || op == 2) && persistent (imgLE r 7 1)
    && imgLE r 0x1E 2 == 0 && imgLE r 0x25 3 == 0 && imgLE r 0x3C 4 == 0 && imgLE r 0x15DD 3 == 0
    && (if op = 1 then sizeOf len != 4
        else len == 0 && imgLE r 0x1D 1 == 0 && imgLE r 0x20 4 == 0 && (imgBytes r 0x40 80).all (· == 0))

/-- The key an INSTALL message carries, when its transport slot opens it (check 9). -/
def State.msgKey (s : State) (r : Img) : Option (List Byte) :=
  let k := imgLE r 0x1D 1
  if s.slState k != 1 || !s.slAttr k 7 then none
  else gcmOpen (s.slot k).key (imgBytes r 0x28 12) (imgBytes r 0 0x40) (imgBytes r 0x40 64) (imgBytes r 0x80 16)

/-- The first failing check of R600, by its reason; 0 when all pass. -/
def State.msgCheck (s : State) (r : Img) : Nat :=
  let n := imgLE r 7 1
  let k := imgLE r 0x1C 1
  let m := imgBytes r 0 0x890
  let len := imgLE r 0x24 1
  let attr := wd (imgLE r 0x20 4)
  if !msgHeader r then 1
  else if imgLE r 8 16 != s.fuse.unitId.toNat || imgLE r 8 16 = 0 then 2
  else if s.slState n = 4 then 3
  else if !(k < 4 && !s.fuse.revoked.getD k true && s.fuse.anchors.getD k none == some (sha384 (imgBytes r 0x90 (96 + 1952)))) then 4
  else if !P384.verify (imgBytes r 0x90 96) (imgBytes r 0x890 96) m then 5
  else if !MlDsa.verify (imgBytes r 0xF0 1952) (imgBytes r 0x8F0 3309) m then 6
  else if s.rd (slA n 0x10) = 0xFFFFFFFF then 7
  else if imgLE r 0x18 4 ≤ (s.rd (slA n 0x10)).toNat then 8
  else if imgLE r 6 1 = 1 then
    match s.msgKey r with
    | none => 9
    | some pt => if attrOk attr len && (pt.drop len).all (· == 0) && halvesDiffer attr (pt.take len) then 0 else 10
  else 0

/-- KST_CMD APPLY (R600, R601): a rejected message changes nothing but the command's status; an accepted one's record goes
on its way to MRAM. -/
def State.kstApply (s : State) (addr : Nat) : State :=
  let r := s.img addr
  let n := imgLE r 7 1
  if !sramSpan addr 5600 then s.kstEnd .range 0
  else if s.anyBad addr 5600 then (s.eccReport addr).kstEnd .eccUncorr 0
  else
    let c := s.msgCheck r
    if c != 0 then (s.kstEnd .access c).report 0x3040 n
    else
      let ctr := imgLE r 0x18 4
      let f : SlotFill := {
        key := ((s.msgKey r).getD []).take (imgLE r 0x24 1), attr := wd (imgLE r 0x20 4)
        ivFixed := wd (imgLE r 0x34 4), grant := wd (imgLE r 0x38 4) }
      let k : KstCommit :=
        if imgLE r 6 1 = 1 then ⟨n, s.recOf n ctr f, some f⟩ else ⟨n, recErased n ctr f.grant, none⟩
      { s.wr (kstBase + 0x10) 0x80000000 with kst := { s.kst with commit := some k } }

/-- KST_CMD ERASE (R607): a persistent slot's record is committed without a key first. -/
def State.kstErase (s : State) (n : Nat) : State :=
  if n < 16 || s.slState n = 4 then s.kstEnd .access 0
  else
    let s := if persistent n
      then s.recCommit n (recErased n (s.rd (slA n 0x10)).toNat (s.rd (slA n 0xC))) else s
    (s.slotErase n).kstEnd .done 0

/-- KST_CMD LOAD_PLAIN (R602), from the block at `addr` into slot `n`. -/
def State.kstLoadPlain (s : State) (addr n : Nat) : State :=
  let r := s.img addr
  let len := imgLE r 4 1
  if !s.fuse.dv && s.fuse.mfgClosed then s.kstEnd .access 0
  else if persistent n && s.slState n = 4 then s.kstEnd .access 0
  else if !persistent n || !sramSpan addr 88 || imgLE r 5 1 != n || (len != 0 && sizeOf len = 4) then s.kstEnd .range 0
  else if s.anyBad addr 88 then (s.eccReport addr).kstEnd .eccUncorr 0
  else
    let ctr := (s.rd (slA n 0x10)).toNat
    let f : SlotFill := { key := (imgBytes r 0x18 64).take len, attr := wd (imgLE r 0 4) &&& 0x3FF, ivFixed := wd (imgLE r 8 4)
                          grant := wd (imgLE r 0xC 4) }
    if len = 0 then ((s.recCommit n (recErased n ctr f.grant)).slotErase n).kstEnd .done 0
    else ((s.recCommit n (s.recOf n ctr f)).slotStage n f).kstEnd .done 0

/-- The address in KST_ADDR. -/
def State.kstAddr (s : State) : Nat := (s.rd (kstBase + 8)).toNat + (s.rd (kstBase + 0xC)).toNat * 2 ^ 32

/-- A write of KST_CMD. -/
def State.putKstCmd (s : State) (v : Word) : Ans :=
  let op := fld v 2 0
  if op = 0 || 3 < op then (.range, s)
  else if !bit v 31 then (.done, s.plainWr kstBase v)
  else if s.rb (kstBase + 0x10) 31 then (.conflict, s)
  else
    let s := s.plainWr kstBase v
    (.done, if op = 1 then s.kstApply s.kstAddr else if op = 2 then s.kstErase (fld v 15 8)
      else s.kstLoadPlain s.kstAddr (fld v 15 8))

/-- A write of SLOT_GRANT commits a record with the grant (R626). -/
def State.putGrant (s : State) (n : Nat) (v : Word) : Ans :=
  if persistent n && s.slState n = 4 then (.access, s)
  else if !persistent n then (.range, s)
  else
    let g := v &&& grantMask
    let s := s.recCommit n (patch (s.recBody n) 0x14 (leBytes 4 g.toNat))
    let x := s.slot n
    (.done, (s.setSlot n { x with staged := x.staged.map fun f => { f with grant := g } }).wr (slA n 0xC) g)

/-- A write to offset `o` of the KST page; SLOT_OWN claims are the ownership rows' (R592, R626). -/
def State.putKst (s : State) (t : Tags) (o : Nat) (v : Word) : Ans :=
  if !t.manager then s.deny t (kstBase + o)
  else if o = 0 then s.putKstCmd v
  else if 0x1000 ≤ o && o < 0x3000 && o % 0x20 = 0xC then s.putGrant ((o - 0x1000) / 0x20) v
  else (.done, s.plainWr (kstBase + o) v)

/-- KST_CMD APPLY. -/
def execKstApply (a : Acc) (s : State) : Out :=
  s.cfgWrite a kstBase (.kstApply a) fun t s => s.putKst t 0 0x80000001

/-- KST_CMD ERASE. -/
def execKstErase (a : Acc) (n : BitVec 8) (s : State) : Out :=
  s.cfgWrite a kstBase (.kstErase a n) fun t s => s.putKst t 0 (wd (0x80000002 + n.toNat * 256))

/-- KST_CMD LOAD_PLAIN. -/
def execKstLoadPlain (a : Acc) (n : BitVec 8) (s : State) : Out :=
  s.cfgWrite a kstBase (.kstLoadPlain a n) fun t s => s.putKst t 0 (wd (0x80000003 + n.toNat * 256))

/-- A write of SLOT_GRANT of slot `n`. -/
def execSlotGrantWrite (a : Acc) (n : BitVec 8) (v : Word) (s : State) : Out :=
  s.cfgWrite a (slA n.toNat 0xC) (.slotGrantWrite a n v) fun t s => s.putKst t (0x100C + n.toNat * 0x20) v

/-- SC runs: the logic die is released and the island accepts transactions. -/
def State.scOn (s : State) : Bool := s.logicOn && s.accepts 8

/-- The record of an accepted message is durable, and the slot changes (R601). -/
def execKeyUpdateCommit (s : State) : Out :=
  .next (match s.kst.commit with
    | none => s
    | some k =>
      if !s.scOn then s
      else
        let s := ({ s with kst := { s.kst with commit := none } }).recCommit k.slot k.record
        let s := match k.fill with | some f => s.slotStage k.slot f | none => (s.wr (slA k.slot 0xC) (wd (leNat (slice k.record 0x14 4)) &&& grantMask)).slotErase k.slot
        s.kstEnd .done 0)

/-- The integrity scan visits slot `n` (R595). A persistent slot in use by no pending rewrite is reloaded from its winning
copy when that copy still verifies; every other mismatch marks the slot CORRUPT. -/
def execSlotIntegrityScan (n : BitVec 8) (mismatch : Bool) (s : State) : Out :=
  let k := n.toNat
  .next (if !s.scOn || !mismatch || s.slState k = 4 || s.slState k = 3 then s
    else if persistent k && (s.slot k).staged.isNone && (match (s.slot k).win with
        | some c => s.recValid s.kst.testRoot k c | none => false)
    then s.report 0x3042 k
    else s.slotCorrupt k)

/-- USE has reached 0 while a rewrite is pending (R605). -/
def execSlotRewriteEffect (n : BitVec 8) (s : State) : Out :=
  .next (if s.scOn then s.slotEffect n.toNat else s)

/-- The commit of INV_RESV + 65,536 of slot `n` ends; waiting messages proceed, or end with ECC_UNCORR (R621). The last
reservation covers the last value. -/
def execInvReserveCommit (n : BitVec 8) (ok : Bool) (s : State) : Out :=
  let k := n.toNat
  let waits (j : CphJob) : Bool := match j.phase with | .invWait => j.slot == k | _ => false
  .next (if !s.scOn || !s.cph.jobs.any waits then s
    else if ok then
      let v := min ((s.slot k).resv + 65536) (2 ^ 64)
      let s := s.recCommit k (patch (s.recBody k) 0x18 (leBytes 8 (min v (2 ^ 64 - 1))))
      let s := s.setSlot k { s.slot k with resv := v }
      { s with cph := { s.cph with jobs := s.cph.jobs.map fun j => if waits j then { j with phase := .active } else j } }
    else
      let jobs := s.cph.jobs.map fun j => if waits j then { j with phase := .ended .eccUncorr 0 0 } else j
      ({ s with cph := { s.cph with jobs := jobs } }).report 0x304B k)

/-! ### Attestation (R624, R625) -/

/-- Bytes 0x000–0x8FF of a statement made now. -/
def State.statement (s : State) : List Byte :=
  let bs := s.rd bootStat
  let recov := bit bs 6
  let img : Img := if recov then s.recImg else s.img (bankBase (bit bs 2))
  let press (h : Nat) : Bool := bit ((s.hart h).csr 0x7C1) 1
  let mask := (List.range 8).foldl (fun m h => m + (press h).toNat * 2 ^ h) 0
  let flags := s.kst.testRoot.toNat + 2 * s.fuse.dv.toNat + 4 * (s.rb fcBase 30).toNat + 8 * (!s.fuse.mfgClosed).toNat
    + 16 * (fld bs 1 0 != 3).toNat + 32 * (bit bs 3).toNat
  let words (a n : Nat) : List Byte := ((List.range n).map fun k => leBytes 4 (s.rd (a + k * 4)).toNat).flatten
  leBytes 4 0x9640A77E ++ leBytes 2 1 ++ leBytes 2 flags ++ leBytes 4 0x96400001
    ++ leBytes 2 (s.fuse.stepMaj.toNat * 256 + s.fuse.stepMin.toNat) ++ leBytes 2 s.floor ++ leBytes 16 s.fuse.unitId.toNat
    ++ words (pkeBase + 0x40) 8 ++ beBytes 48 (imgDigest (s.img (s1Base (bit bs 4)))).toNat ++ beBytes 48 (imgDigest img).toNat
    ++ leBytes 2 (imgSecVer img) ++ leBytes 1 mask ++ leBytes 1 0 ++ leBytes 4 s.kst.rstStart.toNat
    ++ leBytes 8 s.boot.startCount ++ leBytes 4 s.now.toNat ++ List.replicate 12 0 ++ words (pkeBase + 0x60) 12
    ++ List.replicate 16 0 ++ padTo 96 (attEcPub (activeRoot s.kst.testRoot))
    ++ padTo 1952 (attPqPub (activeRoot s.kst.testRoot))

/-- ATT_CTL: STATUS and BUSY. -/
def State.attEnd (s : State) (st : Status) : State :=
  ({ s with kst := { s.kst with signing := none } }).wr pkeBase (wd (st.code * 256))

/-- A write to offset `o` of the PKE page. After a failed derivation a statement ends with FAULT (R590). -/
def State.putPke (s : State) (t : Tags) (o : Nat) (v : Word) : Ans :=
  let dst := (s.rd (pkeBase + 8)).toNat + (s.rd (pkeBase + 0xC)).toNat * 2 ^ 32
  if !t.manager then s.deny t (pkeBase + o)
  else if o = 0 && bit v 31 then
    if !sramSpan dst 5712 then (.range, s)
    else if s.kst.signing.isSome then (.conflict, s)
    else if s.kst.attFail then (.done, s.attEnd .fault)
    else (.done, { s.wf pkeBase 7 0 1 with kst := { s.kst with signing := some (s.statement, dst) } })
  else (.done, s.plainWr (pkeBase + o) v)

/-- ATT_CTL.GO. -/
def execAttGo (a : Acc) (s : State) : Out :=
  s.cfgWrite a pkeBase (.attGo a) fun t s => s.putPke t 0 0x80000000

/-- Both signatures are done: the statement is written. -/
def execAttSignComplete (s : State) : Out :=
  .next (match s.kst.signing with
    | none => s
    | some x =>
      if !s.scOn then s
      else
        let root := activeRoot s.kst.testRoot
        let b := x.1 ++ padTo 96 (attEcSign root x.1) ++ padTo 3309 (attPqSign root x.1) ++ [0, 0, 0]
        (s.memPut x.2 b).attEnd .done)

/-- Signing has not ended within 50 ms. -/
def execAttTimeout (s : State) : Out :=
  .next (if s.kst.signing.isSome && s.scOn then (s.attEnd .timeout).report 0x304A else s)

end Sys2Proof.Machine
end

