-- ==== Sys2Proof/Machine/Islands.lean ====
section
/-!
DEFINITION. The island and clock unit: clock stop, gating, island resets, cluster clocks, PHY power; timeouts at island
boundaries, clock faults and the die-to-die links (R11–R17, R37–R40, R45, R120).
-/

namespace Sys2Proof.Machine

/-- ISL_CTL of island `i`. -/
def islA (i : Nat) : Nat := icuBase + 0x40 + i * 4

/-- Islands that a reset or a clock stop may be asked for (R38, R120). -/
def islStops (i : Nat) : Bool := [1, 4, 5, 7, 8, 9].contains i

/-- RUN follows whether the island accepts transactions. -/
def State.setIslRun (s : State) (i : Nat) (p : IslPhase) : State := (s.setIsl i p).wb (islA i) 28 (p = .running)

/-! ### Initiators of a reset island (R17) -/

/-- Registers that an initiator of island `i` carries: the status captures of harts 4–7, or the engines' pages. -/
def pastReg (i a : Nat) : Bool :=
  if i = 1 then fcBase + 0x120 ≤ a && a < fcBase + 0x140 else secBase ≤ a && a < secBase + 0x10000

/-- Engine memory. -/
def inWindows (a : Nat) : Bool := winBase ≤ a && a < swtBase

/-- What the initiators of island `i` hold. -/
def State.pastOf (s : State) (i : Nat) : Past :=
  { isl := i, regs := smKeep (pastReg i) s.regs
    harts := if i = 1 then smKeep (fun h => decide (4 ≤ h)) s.harts else []
    mem := if i = 1 then [] else smKeep inWindows s.mem
    thrs := if i = 1 then [] else s.thrs }

/-- The state with the initiators of an island as `p` has them. -/
def State.wear (s : State) (p : Past) : State :=
  let s := { s with regs := smSetAll regReset (smKeep (fun a => !pastReg p.isl a) s.regs) p.regs }
  if p.isl = 1 then
    { s with harts := smSetAll (fun _ => {}) (smKeep (fun h => decide (h < 4)) s.harts) p.harts }
  else { s with mem := smSetAll memReset (smKeep (fun a => !inWindows a) s.mem) p.mem, thrs := p.thrs }

/-- The issuer belongs to island `i`. -/
def whoOf (i : Nat) : Who → Bool
  | .hart h => i = 1 && 4 ≤ h.val
  | .thread _ _ => i = 4
  | _ => false

/-- What waits was issued by an initiator of island `i`. -/
def WaitBy.ofIsland (i : Nat) : WaitBy → Bool
  | .access a _ _ => whoOf i a.who
  | .engine _ _ _ _ => i = 4
  | .partner _ _ => false

/-- The tags of an initiator as its job carries them. -/
def State.carriedBy (s : State) (w : Who) : Who := .carried (s.tagsOf w).tid (s.tagsOf w).w

/-- A bridge whose transactions of island `i` answer nobody. -/
def BridgeInt.orphans (b : BridgeInt) (i : Nat) : BridgeInt :=
  { b with txs := b.txs.map fun y => if whoOf i y.acc.who then { y with orphan := true } else y }

/-- A waiting CK_PUT of an initiator of island `i` goes on with its tags alone. -/
def State.orphanPut (s : State) (i : Nat) (y : PutWait) : PutWait :=
  if whoOf i y.acc.who then { y with acc := { y.acc with who := s.carriedBy y.acc.who } } else y

/-- The transactions that initiators of island `i` have issued go on without them (R17). -/
def State.orphans (s : State) (i : Nat) : State :=
  let p := s.pastOf i
  { s with
    boundary := s.boundary.map fun w => if w.past.isNone && w.by_.ofIsland i then { w with past := some p } else w
    brg := s.brg.map fun x => (x.1, x.2.orphans i)
    casks := s.casks.map fun x => (x.1, { x.2 with waits := x.2.waits.map (s.orphanPut i) }) }

/-! ### Effects of island resets (R40) -/

/-- The island whose registers and tables a key of `regs` belongs to. -/
def islandOfReg (a : Nat) : Nat :=
  if tblBase + 0x100000000 ≤ a then islandOf (a - (tblBase + 0x100000000)) else if tblBase ≤ a then 4 else islandOf a

/-- Registers and tables of island `i` return to their reset values, but for the transceiver modes (R385). -/
def State.clearIsland (s : State) (i : Nat) : State :=
  let t := s.resetRegs fun a => islandOfReg a != i
  if i = 7 then { t with regs := smSetAll regReset t.regs s.trxModes } else t

/-- C1: harts 4–7 return to their reset state, held until they are released; PRESS_STAT.BROKEN is kept. -/
def State.resetC1 (s : State) : State :=
  [4, 5, 6, 7].foldl (fun s h => s.setHart h (s.hart h).resetKeep) (s.orphans 1)

/-- SE: engines, drive lines, the Cellar and the Casks (R266, R253). A held CK_PUT waits at the island's boundary again;
a snapshot for the pair manager ends ABORTED. -/
def State.resetSE (s : State) : State :=
  let s := s.orphans 4
  let held := ((List.range 512).map fun n => (s.cask n).waits.map fun w =>
    ({ island := 4, cmd := .ckPut w.acc (Fin.ofNat 512 n) (BitVec.ofNat 64 w.src), by_ := .access w.acc (ckWinA n 0) false } : Waiting)).flatten
  let s := (List.range 64).foldl (fun s k => s.lineDiscard k true) s
  let s := (List.range 64).foldl (fun s k =>
    if ownHeld (s.rd (dlA k 0)) then s.sourceLost fun src sel => src == 3 && sel == k else s) s
  let s := if s.clr.snap.isSome then s.snapEnd .aborted else s
  let s := s.clearIsland 4
  { s with
    mem := smKeep (fun a => !inWindows a) s.mem
    eccBad := s.eccBad.filter fun a => !inWindows a
    thrs := [], engs := [], mirror := [], measTx := [], casks := [], clr := { pairEnd := s.clr.pairEnd }
    boundary := s.boundary ++ held }

/-- SW: every link goes down, and registers, tables, queues and counters are cleared; PHY firmware is kept (R461). -/
def State.resetSW (s : State) : State :=
  let s := (List.range 15).foldl State.linkDown s
  ({ s.clearIsland 5 with esw := {} }).pairLink

/-- NW (R385). -/
def State.resetNW (s : State) : State := { s.clearIsland 7 with cans := [], lins := [] }

/-- SC, in the order of its list: work in progress ends ABORTED, contexts and tickets are zeroised, volatile slots erased
and released, START_COUNT advanced, slots filled again. -/
def State.resetSC (s : State) : State :=
  let busy := s.kst.commit.isSome
  let signing := s.kst.signing.isSome
  let s := (s.cphAbort fun _ => true).cphPostAll
  let s := { s with cph := { s.cph with ctxs := [], tickets := [] } }
  let s := ((List.range 64).map (192 + ·)).foldl (fun s n => if s.slState n = 0 then s else s.slotErase n) s
  let s := ((List.range 176).map (16 + ·)).foldl (fun s n => match (s.slot n).staged with
    | some f => s.slotFill n f | none => s) s
  let s := { s.clearIsland 8 with kst := { s.kst with commit := none, signing := none } }
  let s := if busy then s.kstEnd .aborted 0 else s
  let s := if signing then s.attEnd .aborted else s
  let att := s.kst.attFail
  let s := s.kstFill false
  { s with kst := { s.kst with attFail := att } }

/-- ST: registers and queues; the NAND keeps what was durable (R640, R641). -/
def State.resetST (s : State) : State := { s.clearIsland 9 with stg := {}, nand := s.nandDown }

/-- An island reset: the effects of its table row; the island is held (R38). -/
def State.islandReset (s : State) (i : Nat) : State :=
  let s := if i = 1 then s.resetC1 else if i = 4 then s.resetSE else if i = 5 then s.resetSW
    else if i = 7 then s.resetNW else if i = 8 then s.resetSC else if i = 9 then s.resetST else s
  s.setIslRun i .hold

/-! ### ISL_CTL and PHY_PWR -/

/-- FREQ of a cluster changes: a clock is lowered at once and VCORE lowered after it; VCORE is raised before a clock rises
(R62). While the cap of R61 holds, VCORE stays at 0.75 V. -/
def State.setFreq (s : State) (i f : Nat) : State :=
  let s := s.wf (islA i) 6 0 f
  let f0 := s.rf (islA 0) 6 0
  let f1 := s.rf (islA 1) 6 0
  let goal := if s.pwr.capped then 750 else Config.vcoreFor f0 f1
  let s := s.setPwr { s.pwr with vcoreGoal := goal, clk0 := min s.pwr.clk0 f0, clk1 := min s.pwr.clk1 f1 }
  if goal ≤ s.pwr.vcore then s.clocksFollow else s

/-- FREQ of island `i` accepts `f` (R38). -/
def State.freqOk (s : State) (i f : Nat) : Bool :=
  if i < 2 then 16 ≤ f && f ≤ (if s.pwr.capped then 60 else 80) else f == 0

/-- STOP of an island is set or cleared. -/
def State.setStop (s : State) (i : Nat) (b : Bool) : State :=
  let was := s.rb (islA i) 30
  let s := s.wb (islA i) 30 b
  if b && !was && s.islOf i != .hold then s.setIslRun i .stopped
  else if !b && was && s.islOf i == .stopped then s.setIslRun i .starting
  else s

/-- One of a Table-world write's requests on a Reserve-held island: ignored and recorded (R581). -/
def State.tableAsks (s : State) (t : Tags) (i kind : Nat) (asked : Bool) : Bool × State :=
  if asked && !t.w && s.islandHeld i then (false, s.nsDenied t i kind) else (asked, s)

/-- A write of `v` to ISL_CTL of island `i` (R38). -/
def State.putIsl (s : State) (t : Tags) (i : Nat) (v : Word) : Ans :=
  if !t.tid0 then s.deny t (islA i)
  else if (bit v 31 || bit v 30) && !islStops i then (.range, s)
  else if !s.freqOk i (fld v 6 0) then (.range, s)
  else
    let stop := s.tableAsks t i 1 (bit v 30 && !s.rb (islA i) 30)
    let gate := stop.2.tableAsks t i 2 (bit v 29 && !s.rb (islA i) 29)
    let rst := gate.2.tableAsks t i 3 (bit v 31)
    let s := rst.2
    let s := if !bit v 29 then s.wb (islA i) 29 false else if gate.1 then s.wb (islA i) 29 true else s
    let s := if i < 2 && fld v 6 0 != s.rf (islA i) 6 0 then s.setFreq i (fld v 6 0) else s
    let s := if !bit v 30 then s.setStop i false else if stop.1 then s.setStop i true else s
    (.done, if rst.1 then s.islandReset i else s)

/-- A write to PHY_PWR: ports that power down lose their link (R38); a Table-world power-down is ignored while the switch
is Reserve-held (R581). -/
def State.putPhyPwr (s : State) (t : Tags) (v : Word) : Ans :=
  let a := icuBase + 0x80
  let new (p : Nat) : Bool := bit v p && !s.rb a p
  if !t.tid0 then s.deny t a
  else
    let ask := s.tableAsks t 5 4 ((List.range 15).any new)
    let s := ask.2.plainWr a (if ask.1 then v else v &&& s.rd a)
    (.done, if ask.1 then ((List.range 15).filter new).foldl State.linkDown s else s)

def State.islWrite (s : State) (a : Acc) (i : Nat) (v : Word) (cmd : Instr) : Out :=
  s.cfgWrite a (islA i) cmd fun t s => s.putIsl t i v

/-- ISL_CTL as it stands, which a row's write changes in one field. -/
def State.islWord (s : State) (i : Nat) : Word := s.rd (islA i) &&& 0x6000007F

def execIslReset (a : Acc) (i : Island) (s : State) : Out :=
  s.islWrite a i (setBit (s.islWord i) 31 true) (.islReset a i)
def execIslStop (a : Acc) (i : Island) (stop : Bool) (s : State) : Out :=
  s.islWrite a i (setBit (s.islWord i) 30 stop) (.islStop a i stop)
def execIslGate (a : Acc) (i : Island) (gate : Bool) (s : State) : Out :=
  s.islWrite a i (setBit (s.islWord i) 29 gate) (.islGate a i gate)
def execIslFreq (a : Acc) (i : Island) (freq : BitVec 7) (s : State) : Out :=
  s.islWrite a i (setFld (s.islWord i) 6 0 freq.toNat) (.islFreq a i freq)
def execPhyPowerWrite (a : Acc) (pd : Word) (s : State) : Out :=
  s.cfgWrite a (icuBase + 0x80) (.phyPowerWrite a pd) fun t s => s.putPhyPwr t pd

/-- The 2 µs hold of an island reset ends: the island starts, unless its clock is stopped. -/
def execIslandResetRelease (i : Island) (s : State) : Out :=
  .next (if s.logicOn && s.islOf i == .hold then s.setIslRun i (if s.rb (islA i) 30 then .stopped else .starting) else s)

/-- The island accepts transactions again. -/
def execIslandReady (i : Island) (s : State) : Out :=
  .next (if s.logicOn && s.islOf i == .starting then s.setIslRun i .running else s)

/-! ### Boundaries and clocks -/

/-- Remove the first element that satisfies `p`. -/
def dropFirst {α : Type} (p : α → Bool) : List α → List α
  | [] => []
  | x :: r => if p x then r else x :: dropFirst p r

/-- LOCK of the island falls; fault 0x0007, of severity RESET (R45). -/
def execPllLockLost (i : Island) (s : State) : Out :=
  .next (if s.logicOn && i != 10 && s.rb icuBase i then (s.wb icuBase i false).report 0x0007 else s)

/-- The reference is lost: REF_LOST, fault 0x0008. -/
def execReferenceClockLost (s : State) : Out :=
  .next (if s.logicOn && !s.rb icuBase 31 then (s.wb icuBase 31 true).report 0x0008 else s)

def execReferenceClockRestored (s : State) : Out := .next (if s.logicOn then s.wb icuBase 31 false else s)

/-! ### Die-to-die links (R11–R13, R539) -/

/-- The flit is replayed; nothing else sees the error (R11). -/
def execFlitCrcError (k : Link) (s : State) : Out :=
  .next (if (s.link k).up then s.setLink k { s.link k with replays := (s.link k).replays + 1 } else s)

/-- The link goes on with fewer lanes; fault 0x0005 (R12). -/
def execLinkRetrain (k : Link) (lanes : Nat) (s : State) : Out :=
  .next (if (s.link k).up && [1, 2].contains lanes && lanes < (s.link k).lanes
    then (s.setLink k { s.link k with lanes := lanes }).report 0x0005 else s)

/-- No valid flit for 2 ms: a power die enters limp-home, and the bridge's link is lost (R13, R539). -/
def execLinkSilentTimeout (k : Link) (s : State) : Out :=
  .next (if !(s.link k).up then s
    else
      let s := s.setLink k { s.link k with up := false }
      let s := if k.val < 2 then s.limpEnter k else s
      if s.logicOn then s.brLost k else s)

/-- The link carries flits again, and the far die's buffered records are delivered (R400, R539, R687). -/
def execLinkRestored (k : Link) (s : State) : Out :=
  .next (if (s.link k).up || !s.logicOn || (k.val < 2 && !(s.die k).supplied) then s
    else (s.setLink k { s.link k with up := true }).deliverLog (k + 1))

end Sys2Proof.Machine
end

