-- ==== Sys2Proof/Machine/Tenancy.lean ====
section
/-!
DEFINITION. The tenancy manager: quotas, assignments, mailboxes and tenant reset (R501–R514).
-/

namespace Sys2Proof.Machine

/-- Register `off` of the mailbox of TID `t`. -/
def mbA (t off : Nat) : Nat := tnmBase + 0x8000 + t * 0x40 + off
/-- Offset in the TNM page of register `off` of the block of TID `t`. -/
def tnO (t off : Nat) : Nat := 0x1000 + t * 0x40 + off

/-- The manager interrupt shows tenant `t` (R508). -/
def State.tnPend (s : State) (t : Nat) : State :=
  let a := tnmBase + t / 32 * 4
  s.wb a (t % 32) true

/-! ### Quotas and assignments (R502, R505, R510) -/

/-- The slice of a quota register. -/
def quotaSlice (off : Nat) : Option Slice :=
  if off = 0x10 then some .casks else if off = 0x14 then some .cphJob else if off = 0x18 then some .stgCmd
  else if off = 0x1C then some .keyVol else if off = 0x28 then some .cphCtx else none

/-- A write of a quota register. -/
def State.putQuota (s : State) (t : Nat) (k : Slice) (v : Word) : Ans :=
  let q := if k = .cphCtx then fld v 6 0 else fld v 9 0
  let g := if k = .cphCtx then fld v 22 16 else fld v 25 16
  let gs := (List.range 255).foldl (fun n i => n + (if i + 1 = t then g else s.guar k (i + 1))) 0
  if k.cap < q || k.cap < g || q < g || k.cap < gs then (.range, s)
  else if s.guar k t < g && k.cap < s.use k 0 + s.reserved k (fun i => if i = t then g else s.guar k i) then (.conflict, s)
  else (.done, s.plainWr (tnA t k.reg) v)

/-- A write of TH_SLICE (R505). -/
def State.putSlice (s : State) (e t : Nat) (v : Word) : Ans :=
  let a := tnmBase + 0x200 + (e * 8 + t) * 4
  let tid : Tid := BitVec.ofNat 8 (fld v 7 0)
  let tags : Tags := if bit v 31 then ⟨tid, bit v 8⟩ else ⟨0, true⟩
  if s.thState e t != 0 then (.conflict, s)
  else if bit v 31 && (!s.tenantOn tid || s.resetting tid) then (.conflict, s)
  else if bit v 31 && tid != 0 && bit v 8 != s.rb (tnA tid.toNat 0) 8 then (.conflict, s)
  else if s.boundsMeet e t tags (s.rf (thA e t 0xC) 7 0) (s.rf (thA e t 0xC) 15 8) then (.conflict, s)
  else (.done, s.plainWr a v)

/-- A write of TN_CFG. -/
def State.putTenant (s : State) (t : Nat) (v : Word) : Ans :=
  let a := tnA t 0
  if s.rb a 31 && bit v 8 != s.rb a 8 then (.conflict, s)
  else
    let s := (s.plainWr a v).wf (tnA t 8) 31 16 0
    (.done, if s.rf (tnA t 8) 1 0 = 2 then s else s.wf (tnA t 8) 1 0 (bit v 31).toNat)

/-! ### Tenant reset (R509–R514) -/

/-- Tags of tenant `t`. -/
def State.tnTags (s : State) (t : Nat) : Tags := ⟨BitVec.ofNat 8 t, s.rb (tnA t 0) 8⟩

/-- The tenant's threads: those that waited end ABORTED; the number that did (R265, R253). -/
def State.tnThreads (s : State) (t : Nat) : Nat × State :=
  (List.range 128).foldl (fun (r : Nat × State) i =>
    let v := r.2.rd (tnmBase + 0x200 + i * 4)
    if bit v 31 && fld v 7 0 = t then
      let st := r.2.thState (i / 8) (i % 8)
      (r.1 + (st == 2 || st == 3).toNat, (r.2.threadGone (i / 8) (i % 8)).thWipe (i / 8) (i % 8))
    else r) (0, s)

/-- The tenant's cipher jobs end ABORTED and are posted, and its contexts are zeroised. A completion without room is
dropped and counted, so that the use falls to 0. -/
def State.tnCipher (s : State) (t : Nat) : Nat × State :=
  let mine (j : CphJob) : Bool := j.tid.toNat = t
  let live (j : CphJob) : Bool := match j.phase with | .ended _ _ _ => false | .posting _ _ _ _ => false | _ => true
  let n := (s.cph.jobs.filter fun j => mine j && live j).length
  let s := s.cphAbort mine
  let s := (s.cph.jobs.filter mine).foldl State.jobPost s
  let s := (s.cph.jobs.filter mine).foldl State.jobLost s
  let ours (c : Option CphCtx) : Bool := match c with | some x => decide (x.tid.toNat = t) | none => false
  (n, { s with cph := { s.cph with ctxs := s.cph.ctxs.filter fun p => !ours p.2 } })

/-- The tenant's storage commands end ABORTED and are posted, or dropped and counted. -/
def State.tnStorage (s : State) (t : Nat) : Nat × State :=
  let mine (c : StgCmd) : Bool := c.tid.toNat = t
  let n := (s.stg.cmds.filter fun c => mine c && c.ended.isNone).length
  let s := s.stgAbort mine
  let s := (s.stg.cmds.filter mine).foldl State.cmdPost s
  (n, (s.stg.cmds.filter mine).foldl State.cmdLost s)

/-- Held CK_PUT stores of the tenant end ABORTED. -/
def State.tnPuts (s : State) (t : Nat) : Nat × State :=
  (List.range 512).foldl (fun (r : Nat × State) n =>
    let mine (w : PutWait) : Bool := decide ((r.2.tagsOf w.acc.who).tid.toNat = t)
    let gone := (r.2.cask n).waits.filter mine
    if gone.isEmpty then r
    else
      let s1 := r.2.setCask n { r.2.cask n with waits := (r.2.cask n).waits.filter fun w => !mine w }
      (r.1 + gone.length, gone.foldl (fun s w => s.finish w.acc (ckWinA n 0) .aborted) s1)) (0, s)

/-- Everything the tenant owns is released (R36, R384). -/
def State.tnRelease (s : State) (t : Nat) : State :=
  let l := (s.regs.filter fun p => (ownAt p.1).isSome && ownHeld p.2 && fld p.2 7 0 = t).map (·.1)
  l.foldl (fun s a =>
    let s := s.releaseOwn a
    match ownAt a with
    | some (.tat n k) => s.tatWipe n k
    | _ => s) s

/-- Steps 1 to 6 of a tenant reset; the number of items ended ABORTED is kept for its record. -/
def State.tenantStop (s : State) (t : Nat) : State :=
  let s := s.wf (tnA t 8) 1 0 2
  let a := s.tnThreads t
  let b := a.2.tnCipher t
  let c := b.2.tnStorage t
  let d := c.2.tnPuts t
  let s := (d.2.tnRelease t).enTenant (BitVec.ofNat 8 t)
  { s with tnAborted := smSet (fun _ => 0) s.tnAborted t (a.1 + b.1 + c.1 + d.1) }

/-- Step 7: the DOWN direction is emptied, the record written, the manager interrupted, the tenant OFF (R511). -/
def State.tenantEnd (s : State) (t : Nat) (st : Status) : State :=
  let n := min (smGet (fun _ => 0) s.tnAborted t) 65535
  let s := { s with tnAborted := smSet (fun _ => 0) s.tnAborted t 0 }
  let s := (List.range 4).foldl (fun s i => s.wr (mbA t (i * 4)) 0) s
  let s := (s.wb (mbA t 0x20) 0 false).wr (mbA t 0x28) (wd (0x80000000 + n * 256 + st.code))
  ((s.tnPend t).wf (tnA t 8) 1 0 0).wb (tnA t 0) 31 false

/-- A tenant reset reaches step 7 in time. -/
def execTenantResetEnd (t : Tid) (s : State) : Out :=
  .next (if s.logicOn && s.resetting t then (s.tenantEnd t.toNat .done).report 0x4083 t.toNat 0 t else s)

/-- 20 µs have passed. -/
def execTenantResetTimeout (t : Tid) (s : State) : Out :=
  .next (if s.logicOn && s.resetting t then (s.tenantEnd t.toNat .timeout).report 0x4084 t.toNat 0 t else s)

/-! ### Mailboxes (R506–R508) -/

/-- Setting DOWN_FULL raises the MSI that MB_TGT names. -/
def State.mbRing (s : State) (t : Nat) : State :=
  let v := s.rd (mbA t 0x24)
  if fld v 26 16 = 0 then s else s.sendMsi (fld v 2 0) (1 + fld v 5 3) (fld v 26 16)

/-- MB_CTL: each party's own bits. -/
def State.putMbCtl (s : State) (g : Tags) (t : Nat) (v : Word) : Ans :=
  let a := mbA t 0x20
  let mgr := g.manager
  let ten := g == s.tnTags t
  if !mgr && !ten then s.deny g a
  else if (mgr && (bit v 4 || bit v 2)) || (ten && (bit v 1 || bit v 5)) then s.deny g a
  else if (bit v 1 && s.rb a 0) || (bit v 4 && s.rb a 3) then (.conflict, s)
  else
    let s := if bit v 1 then (s.wb a 0 true).mbRing t else s
    let s := if bit v 4 then (s.wb a 3 true).tnPend t else s
    let s := if bit v 2 then s.wb a 0 false else s
    (.done, if bit v 5 then s.wb a 3 false else s)

/-- A write to offset `o` of the mailbox of tenant `t`. -/
def State.putMb (s : State) (g : Tags) (t o : Nat) (v : Word) : Ans :=
  let a := mbA t o
  if s.resetting g.tid then (.aborted, s)
  else if o < 0x10 then
    if !g.manager then s.deny g a else if s.rb (mbA t 0x20) 0 then (.conflict, s) else (.done, s.plainWr a v)
  else if o < 0x20 then
    if g != s.tnTags t then s.deny g a else if s.rb (mbA t 0x20) 3 then (.conflict, s) else (.done, s.plainWr a v)
  else if o = 0x20 then s.putMbCtl g t v
  else if !g.manager then s.deny g a
  else (.done, s.plainWr a v)

/-! ### The TNM page -/

/-- A write to offset `o` of the TNM page. -/
def State.putTnm (s : State) (g : Tags) (o : Nat) (v : Word) : Ans :=
  let a := tnmBase + o
  let t := o % 0x4000 / 0x40
  if 0x8040 ≤ o && o < 0xC000 then s.putMb g ((o - 0x8000) / 0x40) (o % 0x40) v
  else if !g.manager then s.deny g a
  else if 0x200 ≤ o && o < 0x400 then s.putSlice ((o - 0x200) / 0x20) ((o - 0x200) / 4 % 8) v
  else if 0x1000 ≤ o && o < 0x5000 then
    let t := (o - 0x1000) / 0x40
    let r := o % 0x40
    if r = 4 then
      if !bit v 0 then (.done, s)
      else if t = 0 then (.range, s)
      else if s.resetting (BitVec.ofNat 8 t) then (.conflict, s)
      else (.done, s.tenantStop t)
    else if t = 0 then (.done, s)
    else if r = 0 then s.putTenant t v
    else match quotaSlice r with
      | some k => s.putQuota t k v
      | none => (.done, s.plainWr a v)
  else if t = 0 && 0x8000 ≤ o then (.done, s)
  else (.done, s.plainWr a v)

/-- A write of the TNM page at offset `o`. -/
def State.tnmWrite (s : State) (a : Acc) (o : Nat) (v : Word) (cmd : Instr) : Out :=
  s.cfgWrite a (tnmBase + o) cmd fun t s => s.putTnm t o v

/-- Quota register `r`: TN_Q_CASKS, TN_Q_CPH, TN_Q_STG, TN_Q_KEY, TN_Q_CTX. -/
def execQuotaWrite (a : Acc) (t : Tid) (r : Fin 5) (v : Word) (s : State) : Out :=
  s.tnmWrite a (tnO t.toNat (if r.val = 4 then 0x28 else 0x10 + r.val * 4)) v (.quotaWrite a t r v)

def execHartTidWrite (a : Acc) (h : HartId) (tid : Tid) (s : State) : Out :=
  s.tnmWrite a (0x100 + h * 4) (wd tid.toNat) (.hartTidWrite a h tid)

def execThSliceWrite (a : Acc) (e : Eng) (t : Thr) (v : Word) (s : State) : Out :=
  s.tnmWrite a (0x200 + (e.val * 8 + t.val) * 4) v (.thSliceWrite a e t v)

def execTenantConfigWrite (a : Acc) (t : Tid) (v : Word) (s : State) : Out :=
  s.tnmWrite a (tnO t.toNat 0) v (.tenantConfigWrite a t v)

def execMbDownSend (a : Acc) (t : Tid) (s : State) : Out := s.tnmWrite a (0x8020 + t.toNat * 0x40) 2 (.mbDownSend a t)
def execMbUpSend (a : Acc) (t : Tid) (s : State) : Out := s.tnmWrite a (0x8020 + t.toNat * 0x40) 16 (.mbUpSend a t)
def execMbDownAck (a : Acc) (t : Tid) (s : State) : Out := s.tnmWrite a (0x8020 + t.toNat * 0x40) 4 (.mbDownAck a t)
def execMbUpAck (a : Acc) (t : Tid) (s : State) : Out := s.tnmWrite a (0x8020 + t.toNat * 0x40) 32 (.mbUpAck a t)

/-- TN_CTL.RESET. -/
def execTenantReset (a : Acc) (t : Tid) (s : State) : Out := s.tnmWrite a (tnO t.toNat 4) 1 (.tenantReset a t)

end Sys2Proof.Machine
end

