-- ==== Sys2Proof/Machine/ConfRead.lean ====
section
/-!
DEFINITION. What a read of configuration space returns and who may read each page: fields that follow the state of their
block are read as they stand (R7, R19, R24).
-/

namespace Sys2Proof.Machine

/-! ### Fields that follow the state of their block -/

/-- DEV_STEP and UNIT_ID0–UNIT_ID3 as fused. -/
def State.devRead (s : State) (o : Nat) : Word :=
  if o = 4 then wd (s.fuse.dv.toNat * 65536 + s.fuse.stepMaj.toNat * 256 + s.fuse.stepMin.toNat)
  else if 0x10 ≤ o && o < 0x20 then wd (s.fuse.unitId.toNat >>> (8 * (o - 0x10)))
  else s.rd (devBase + o)

/-- Use above 0 and at or above quota in some slice (R503). -/
def State.tnOver (s : State) (t : Nat) : Bool :=
  t != 0 && [Slice.casks, .cphJob, .stgCmd, .keyVol, .cphCtx].any fun k => 0 < s.use k t && s.quota k t ≤ s.use k t

/-- TN_STAT, TN_USE0 and TN_USE1. -/
def State.tnRead (s : State) (o : Nat) : Word :=
  let v := s.rd (tnmBase + o)
  if o < 0x1000 || 0x5000 ≤ o then v
  else
    let t := (o - 0x1000) / 0x40
    let r := o % 0x40
    if r = 8 then setBit v 2 (s.tnOver t)
    else if r = 0x20 then wd (s.use .casks t + s.use .stgCmd t * 65536)
    else if r = 0x24 then wd (s.use .cphJob t * 256 + s.use .cphCtx t * 65536 + s.use .keyVol t * 16777216)
    else v

/-- SLOT_STAT.USE and INV. -/
def State.kstRead (s : State) (o : Nat) : Word :=
  let v := s.rd (kstBase + o)
  if o < 0x1000 || 0x3000 ≤ o then v
  else
    let n := (o - 0x1000) / 0x20
    let r := o % 0x20
    if r = 8 then setFld v 31 20 (min 4095 (s.slotUse n))
    else if r = 0x18 then wd (s.slot n).inv
    else if r = 0x1C then wd ((s.slot n).inv >>> 32)
    else v

/-- CPH_STAT.CTX and JOBS, and the SLOT_OWN aliases. -/
def State.cphRead (s : State) (o : Nat) : Word :=
  if o = 8 then setFld (setFld (s.rd (cphBase + 8)) 14 8 (s.cph.ctxs.filter fun p => p.2.isSome).length) 6 0 s.cph.jobs.length
  else s.rd (ownCanon (cphBase + o))

/-- TB_NOW, and TS_STAT.QFILL. -/
def State.tbuRead (s : State) (o : Nat) : Word :=
  if o = 0 then s.now
  else if 0x100 ≤ o && o < 0x1F0 && o % 0x10 = 0xC then setFld (s.rd (tbA o)) 4 0 (s.port ((o - 0x100) / 0x10)).txts.length
  else s.rd (tbA o)

/-- The threads of engine `e` whose state code satisfies `p`, as bits. -/
def State.thMask (s : State) (e : Nat) (p : Nat → Bool) : Nat :=
  (List.range 8).foldl (fun n t => n + (p (s.thState e t)).toNat * 2 ^ t) 0

/-- SE_STAT, DL_STAT.QCNT and LEVEL, MEAS_STAT.FILL. -/
def State.secRead (s : State) (e o : Nat) : Word :=
  let v := s.rd (secA e o)
  if o = 4 then wd (s.thMask e (· == 5) * 65536 + s.thMask e (fun k => 1 ≤ k && k ≤ 3) * 256 + s.thMask e (· == 4))
  else if 0x40 ≤ o && o < 0x80 && o % 0x10 = 8 then
    let x := s.line (e * 4 + (o - 0x40) / 0x10)
    setBit (setFld v 6 4 (min 4 x.queue.length)) 0 x.dieLevel
  else if o = 0x640 then setFld v 6 0 (smGet (fun _ => {}) s.engs e).fifo.length
  else v

/-- CAN_TXF, CAN_RXQ0 and CAN_RXQ1. -/
def State.canRead (s : State) (n o : Nat) : Word :=
  let fill (cap : Nat) (l : List Frame) : Word := wd (freeBytes cap l + l.length * 65536)
  if o = 0x24 then fill (s.txCap n) ((s.can n).txf.map (·.f))
  else if o = 0x28 then fill (s.q0Cap n) (s.can n).q0
  else if o = 0x2C then fill (s.q1Cap n) (s.can n).q1
  else s.rd (canA n o)

/-- ESW_STAT.FREE, the shadow of the port counters, and MS_STAT. -/
def State.eswRead (s : State) (o : Nat) : Word :=
  if o = 4 then setFld (s.rd (esA 4)) 15 0 s.freeCells
  else if 0x1000 ≤ o && o < 0x3000 && 0x60 ≤ o % 0x200 && o % 0x200 < 0x80 then
    wd (s.usedCells ((o - 0x1000) / 0x200) ((o % 0x200 - 0x60) / 4))
  else if 0x4000 ≤ o && o < 0x5000 then
    wd (smGet (fun _ => 0) (s.port ((o - 0x4000) / 0x100)).shadow (o % 0x100 / 8 * 8) >>> (32 * (o % 8 / 4)))
  else s.rd (esA o)

/-- STG_STAT.INFLIGHT, QP_STAT.INFLIGHT, and the namespace registers. -/
def State.stgRead (s : State) (o : Nat) : Word :=
  let v := s.rd (stA o)
  if o = 4 then setFld v 24 16 s.stg.cmds.length
  else if 0x100 ≤ o && o < 0x200 && o % 0x10 = 8 then setFld v 8 0 (s.stg.cmds.filter fun c => c.qp == (o - 0x100) / 0x10).length
  else if 0x400 ≤ o then
    let n := (o - 0x400) / 0x10
    match s.nand.table.find? fun p => p.1 == n with
    | none => 0
    | some (_, r) =>
      if o % 0x10 = 0 then wd r.size
      else if o % 0x10 = 4 then wd (r.size >>> 32)
      else if o % 0x10 = 8 then
        wd ((if s.stg.absent.contains n then 2 else 1) * 2 ^ 30 + r.enc * 2 ^ 24 + r.unit.toNat * 2 ^ 23 + r.data.toNat * 2 ^ 22
          + r.w.toNat * 2 ^ 16 + r.tid.toNat * 256 + r.slot)
      else 0
  else v

/-- The 32-bit word that a configuration-space register reads as. -/
def State.confWord (s : State) (a : Nat) : Word :=
  let p := (a - 0x40000000) / 0x10000
  let o := a % 0x10000
  if p = 0 then s.devRead o
  else if p = 2 && 0x8000 ≤ o then s.getAplic ((o - 0x8000) / 0x4000) (o % 0x4000)
  else if p = 3 && o = 0x10 then wd (s.fuse.floor * 65536 + s.mramFloor)
  else if p = 4 then s.tnRead o
  else if p = 5 then s.getWcu o
  else if p = 6 then s.kstRead o
  else if p = 7 then s.cphRead o
  else if p = 9 then s.tbuRead o
  else if p = 0xB && 0x8000 ≤ o then s.rd (s.tblAddr o)
  else if p = 0xC then s.secRead (o / 0x1000) (o % 0x1000)
  else if p = 0xD then s.canRead (o / 0x1000) (o % 0x1000)
  else if p = 0xF then s.eswRead o
  else if p = 0x10 then s.stgRead o
  else if p = 0x11 then s.getBrg (o / 0x1000) (o % 0x1000)
  else if p = 0x12 then s.getPrm o
  else s.rd a

/-! ### Who reads -/

/-- The reader rules of the configuration-space pages. -/
def State.confReadable (s : State) (t : Tags) (a : Nat) : Bool :=
  let p := (a - 0x40000000) / 0x10000
  let o := a % 0x10000
  if (ownAt a).isSome then true
  else if p = 1 then s.fcReadable t o
  else if p = 2 then if o < 0x8000 then true else if o < 0xC000 then t.manager else t.tid0
  else if p = 4 then
    if 0x8000 ≤ o && o < 0xC000 then t.manager || t == s.tnTags ((o - 0x8000) / 0x40)
    else t.tid0 || (0x1000 ≤ o && o < 0x5000 && t == s.tnTags ((o - 0x1000) / 0x40))
  else if p = 5 then t.w
  else if p = 0xA then
    if o < 0x1000 || 0x5000 ≤ o then t.tid0 else s.mayReadOwned t (ckA ((o - 0x1000) / 0x20) 0)
  else if p = 0xD then s.canMayRead t (o / 0x1000)
  else if p = 0xE then s.linMayRead t (o / 0x400)
  else if p = 0xF then (if 0x8000 ≤ o && o < 0x9800 then t.w else true)
  else if p = 0x10 || p = 0x11 || p = 0x12 then t.manager
  else true

/-- An access outside every region or to an unpopulated page (R22). -/
def State.unmapped (s : State) (t : Tags) (a : Nat) : Ans := (.range, s.reportAt 0x0002 a t)

/-- A 32-bit read of a configuration register. -/
def State.getConf (s : State) (t : Tags) (a : Nat) : Status × Word × State :=
  if !confPop a then let r := s.unmapped t a; (r.1, 0, r.2)
  else if !s.confReadable t a then let r := s.deny t a; (r.1, 0, r.2)
  else (.done, s.confWord a, s)

end Sys2Proof.Machine
end

