-- ==== Sys2Proof/Machine/EngineSys.lean ====
section
/-!
DEFINITION. Engine events and waits, drive-line, measurement, load and system instructions, thread control and the engine
memory windows (R238–R269, R297–R302).
-/

namespace Sys2Proof.Machine

/-! ### Events and waits (R238–R245) -/

/-- The condition of an event binding, for a thread that may use what it names (R239). -/
def State.evbHolds (s : State) (e t src i : Nat) : Bool :=
  let g := s.threadTags (e * 8 + t)
  match src with
  | 0 => i < 0x60 && isRxPort i && s.portMay e t i && !(s.portFrames i).isEmpty
  | 1 => i < 0x60 && !isRxPort i && s.portMay e t i
      && (if i < 0x30 then s.txFits (i - 0x20) {} else i < 0x40 || (s.txq (i - 0x50)).length < Config.engTxDepth)
  | 2 => s.ckMay g i && s.ckEn i && s.ckAvail i != 0
  | 3 => s.ckMay g i && s.ckEn i && s.ckRoom i
  | 4 => !(s.eng e).fifo.isEmpty
  | 5 => i < 64 && s.lineBound i e t && (s.line i).queue.length < 4
  | _ => false

/-- The event word of a thread (R238). -/
def State.eventWord (s : State) (e t : Nat) : Word :=
  wd ((s.rd (thA e t 0x10)).toNat % 256 + (List.range 8).foldl (fun n j =>
    let v := s.rd (thA e t (0x20 + j * 4))
    if bit v 31 && s.evbHolds e t (fld v 26 24) (fld v 8 0) then n + 2 ^ (16 + j) else n) 0)

/-- A wait for `mask` or a deadline has ended: the events it returns and whether the deadline is reached; none while it
lasts (R240, R241). The deadline is met by the engine's copy of the time base (R243). -/
def State.waitOver (s : State) (e t : Nat) (mask : Word) (dl : Option Word) : Option (Word × Bool) :=
  let ev := s.eventWord e t &&& mask
  let late := match dl with | some x => reached x (s.engNow e) | none => false
  if ev != 0 || late then some (ev, late) else none

/-- End a wait: the doorbells returned are cleared (R240). -/
def State.waitDone (s : State) (e t d : Nat) (ev : Word) (late : Bool) : State :=
  let s := s.wr (thA e t 0x10) (s.rd (thA e t 0x10) &&& ~~~ev)
  s.result e t d ev { s.flags e t with c := late }

/-- Begin a wait; one with no event and no deadline is ILLEGAL (R242). -/
def State.qwait (s : State) (e t d : Nat) (mask : Word) (dl : Option Word) : State :=
  if mask == 0 && dl.isNone then s.thFault e t 1
  else match s.waitOver e t mask dl with
    | some r => s.waitDone e t d r.1 r.2
    | none => (s.setThr e t { s.thr e t with held := some (.wait d mask dl) }).setThState e t 2

/-- wait without deadline. -/
def execWait (e : Eng) (t : Thr) (d a : QReg) (s : State) : Out :=
  .next (s.issue e t (qA 0x38 d a 0 0) fun s => s.qwait e t d (s.qreg e t a) none)

/-- wait with deadline wb. -/
def execWaitDeadline (e : Eng) (t : Thr) (d a b : QReg) (s : State) : Out :=
  .next (s.issue e t (qA 0x38 d a b 1) fun s => s.qwait e t d (s.qreg e t a) (some (s.qreg e t b)))

/-- The wait ends. -/
def execWaitEnd (e : Eng) (t : Thr) (s : State) : Out :=
  .next (match (s.thr e t).held with
    | some (.wait d mask dl) =>
      if !s.accepts 4 || s.thState e t != 2 then s
      else match s.waitOver e t mask dl with
        | some r => s.waitDone e t d r.1 r.2
        | none => s
    | _ => s)

/-- sev: doorbell `door` of thread wa[2:0] of this engine. -/
def execSev (e : Eng) (t : Thr) (a : QReg) (door : Fin 8) (s : State) : Out :=
  .next (s.issue e t (qI 0x39 0 a door) fun s =>
    let u := fld (s.qreg e t a) 2 0
    (s.wr (thA e u 0x10) (s.rd (thA e u 0x10) ||| wd (2 ^ door.val))).next1 e t)

/-! ### Drive lines (R247–R252, R298, R299) -/

/-- Queue an edge, wait for an entry, or refuse with LENGTH. -/
def State.qedge (s : State) (e t d ln : Nat) (at_ : Option Word) (level nw : Bool) : State :=
  match s.lineQueue ln e t at_ level with
  | some r => r.2.holdSt e t d r.1
  | none => if nw then s.holdSt e t d .length else s.hold e t (.edge d ln at_ level)

/-- sub of dedge and dset. -/
def edgeSub (ln : Nat) (level set nw : Bool) : Nat := ln + level.toNat * 64 + set.toNat * 128 + nw.toNat * 256

/-- dedge: at the instant in wa when `x` is 0. Field b is marked 0. -/
def execDedge (e : Eng) (t : Thr) (d a x : QReg) (ln : Line) (level : Bool) (s : State) : Out :=
  .next (s.issue e t (qA 0x3A d a x (edgeSub ln level false false)) fun s =>
    s.qedge e t d ln (some (s.qreg e t a)) level false)

/-- dedge.nw. -/
def execDedgeNw (e : Eng) (t : Thr) (d a x : QReg) (ln : Line) (level : Bool) (s : State) : Out :=
  .next (s.issue e t (qA 0x3A d a x (edgeSub ln level false true)) fun s =>
    s.qedge e t d ln (some (s.qreg e t a)) level true)

/-- dset: an immediate edge. -/
def execDset (e : Eng) (t : Thr) (d x : QReg) (ln : Line) (level : Bool) (s : State) : Out :=
  .next (s.issue e t (qA 0x3A d 0 x (edgeSub ln level true false)) fun s => s.qedge e t d ln none level false)

/-- dset.nw. -/
def execDsetNw (e : Eng) (t : Thr) (d x : QReg) (ln : Line) (level : Bool) (s : State) : Out :=
  .next (s.issue e t (qA 0x3A d 0 x (edgeSub ln level true true)) fun s => s.qedge e t d ln none level true)

/-- A queue entry frees. -/
def execDedgeQueueRoom (e : Eng) (t : Thr) (s : State) : Out :=
  .next (match (s.thr e t).held with
    | some (.edge d ln at_ level) =>
      if !s.accepts 4 then s
      else match s.lineQueue ln e t at_ level with
        | some r => r.2.heldStatus e t d r.1
        | none => s
    | _ => s)

/-- dlvl: level and queue count, for a thread whose TID and W equal OWN_TID and OWN_W. -/
def execDlvl (e : Eng) (t : Thr) (d : QReg) (ln : Line) (s : State) : Out :=
  .next (s.issue e t (qA 0x3B d 0 0 ln) fun s =>
    let o := s.rd (dlA ln 0)
    let l := s.line ln
    let v := if ownTags o == s.threadTags (e * 8 + t) then wd (l.dieLevel.toNat + l.queue.length * 16) else 0xFFFFFFFF
    s.hold e t (.result [(d, v)] (s.rd (thA e t 0x14))))

/-- dflush: the number of edges discarded. -/
def execDflush (e : Eng) (t : Thr) (d : QReg) (ln : Line) (s : State) : Out :=
  .next (s.issue e t (qA 0x3B d 0 0 (ln.val + 64)) fun s =>
    let fl := s.rd (thA e t 0x14)
    if !s.lineBound ln e t then s.hold e t (.result [(d, 0xFFFFFFFF)] fl)
    else (s.lineDiscard ln false).hold e t (.result [(d, wd (s.line ln).queue.length)] fl))

/-! ### Measurement and load (R254–R259, R300) -/

/-- A sample in wd and w(d + 1), C as given. -/
def State.qsample (s : State) (e t d : Nat) (x : Option Sample) : State :=
  let f := s.flags e t
  match x with
  | some y => s.hold e t (.result [(d, y.w0), (d + 1, y.w1)] { f with c := false : Fl }.word)
  | none => s.hold e t (.result [(d, emptySample), (d + 1, 0)] { f with c := true : Fl }.word)

/-- mget: pop the engine FIFO. -/
def execMget (e : Eng) (t : Thr) (d : QReg) (s : State) : Out :=
  .next (s.issue e t (qA 0x3C d 0 0 0) fun s =>
    let i := s.eng e
    (s.setEng e { i with fifo := i.fifo.drop 1 }).qsample e t d i.fifo.head?)

/-- mlat: the latest sample of a kind, for an owner of its source or TID 0. -/
def execMlat (e : Eng) (t : Thr) (d : QReg) (ch : Fin 64) (kind : Fin 8) (s : State) : Out :=
  .next (s.issue e t (qA 0x3C d 0 0 (0x2000 + kind.val * 64 + ch.val)) fun s =>
    let g := s.threadTags (e * 8 + t)
    let own := if kind.val = 5 then sinA ch 0 else chA ch 0
    if kind.val = 5 && 32 ≤ ch.val then s.qsample e t d none
    else if !s.mayReadOwned g own then (s.deny g own).2.qsample e t d none
    else s.qsample e t d (smGet (fun _ => none) s.mirror (ch.val * 8 + kind.val)))

/-- `m` is a sample of kind `kind` of channel or, at the front die, sense input `n` of die `d` (R175). -/
def MeasTx.isOf (m : MeasTx) (d n kind : Nat) : Bool :=
  measKey m.x == kind * 64 + (if d = 2 then n else d * 32 + n) && (d == 2) == (kind == 5)

/-- The sample of kind `kind` of channel or sense input `n` of die `d` that is under way reaches the mirror and the engine FIFOs
that subscribe to it (R254, R255); a stopped island takes none. -/
def execEngineMeasArrival (d : Link) (n : Fin 32) (kind : Fin 8) (s : State) : Out :=
  .next (match s.measTx.find? fun m => m.isOf d n kind with
    | none => s
    | some m => if s.logicOn && s.accepts 4
        then { s with measTx := s.measTx.filter fun y => measKey y.x != measKey m.x }.measArrive m else s)

/-- lcmd: wb to a channel register; the die's status comes back whether or not the window posts (R259). -/
def execLcmd (e : Eng) (t : Thr) (d a b : QReg) (s : State) (tagFail : Bool := false) : Out :=
  let v := s.qreg e t a
  let c := fld v 21 16
  let off := fld v 7 0
  .next (s.issueOut e t d (16 + c / 32) (chA c off) (.lcmd e t d a b tagFail) (qA 0x3D d a b 0) fun s =>
    let r : Ans :=
      if off < 0xC || 0x7C < off || off % 4 != 0 then (.range, s)
      else s.brWrite (.thread e t) tagFail (c / 32) (chA c off) (fun g s => s.putCh g c off (s.qreg e t b)) 4 true
    r.2.holdSt e t d r.1)

/-! ### Time and system (R243, R297, R301) -/

/-- tnow: the engine's copy of the time base (R243). -/
def execTnow (e : Eng) (t : Thr) (d : QReg) (s : State) : Out :=
  .next (s.issue e t (qA 0x3F d 0 0 1) fun s => (s.setQreg e t d (s.engNow e)).next1 e t)

/-- qclr: Q, then Q cleared. -/
def execQclr (e : Eng) (t : Thr) (d : QReg) (s : State) : Out :=
  .next (s.issue e t (qA 0x3F d 0 0 2) fun s =>
    let f := s.flags e t
    s.result e t d (wd f.q.toNat) { f with q := false })

/-- swp: exchange wb with the word at a. -/
def execSwp (e : Eng) (t : Thr) (d a b : QReg) (s : State) : Out :=
  .next (s.issue e t (qA 0x3F d a b 3) fun s =>
    let x := (s.qreg e t a).toNat
    s.dataAccess e t x 4 4 true fun s =>
      ((s.stLE (dmA e x) 4 (s.qreg e t b).toNat).setQreg e t d (wd (s.ldLE (dmA e x) 4))).next1 e t)

/-- brk: DEBUG, with FPC after it. -/
def execBrk (e : Eng) (t : Thr) (s : State) : Out :=
  .next (s.issue e t (qA 0x3F 0 0 0 4) fun s => (s.next1 e t).setThState e t 5)

/-- halt: HALTED. -/
def execHalt (e : Eng) (t : Thr) (s : State) : Out :=
  .next (s.issue e t (qA 0x3F 0 0 0 5) fun s => (s.next1 e t).setThState e t 0)

/-- An ILLEGAL word at the PC faults its thread. -/
def execIllegalInstruction (e : Eng) (t : Thr) (s : State) : Out :=
  .next (s.issue e t (wd (s.ldLE (imA e (s.qpc e t)) 4)) fun s => s)

/-- An enabled breakpoint matches before the issue (R267). -/
def execBreakpointHit (e : Eng) (t : Thr) (s : State) : Out :=
  .next (if s.accepts 4 && s.thState e t = 1 && s.breakpoint e t (s.qpc e t) && !(s.thr e t).stepping
    then (s.setQpc e t (s.qpc e t)).setThState e t 5 else s)

/-! ### SEC writes -/

/-- A write to offset `o` of engine `e`'s SEC page. -/
def State.secWrite (s : State) (a : Acc) (e o : Nat) (v : Word) (cmd : Instr) : Out :=
  s.cfgWrite a (secA e o) cmd fun t s => s.putSec t e o v

/-- T_CTL with START, HALT, STEP at `pc`. -/
def execThreadStart (a : Acc) (e : Eng) (t : Thr) (pc : BitVec 14) (s : State) : Out :=
  s.secWrite a e (0x100 + t * 0x80) (wd (pc.toNat * 65536 + 1)) (.threadStart a e t pc)
def execThreadHalt (a : Acc) (e : Eng) (t : Thr) (pc : BitVec 14) (s : State) : Out :=
  s.secWrite a e (0x100 + t * 0x80) (wd (pc.toNat * 65536 + 2)) (.threadHalt a e t pc)
def execThreadStep (a : Acc) (e : Eng) (t : Thr) (pc : BitVec 14) (s : State) : Out :=
  s.secWrite a e (0x100 + t * 0x80) (wd (pc.toNat * 65536 + 4)) (.threadStep a e t pc)

/-- SE_CTL.HALT_ALL, SE_CTL.IM_LOCK. -/
def execHaltAll (a : Acc) (e : Eng) (s : State) : Out := s.secWrite a e 0 2 (.haltAll a e)
def execImLock (a : Acc) (e : Eng) (s : State) : Out := s.secWrite a e 0 1 (.imLock a e)

def execTDoorWrite (a : Acc) (e : Eng) (t : Thr) (v : Word) (s : State) : Out :=
  s.secWrite a e (0x110 + t * 0x80) v (.tDoorWrite a e t v)

/-- A register of the thread block, by its word. -/
def execThreadStateWrite (a : Acc) (e : Eng) (t : Thr) (off : Fin 32) (v : Word) (s : State) : Out :=
  s.secWrite a e (0x100 + t * 0x80 + off * 4) v (.threadStateWrite a e t off v)

def execDlBindWrite (a : Acc) (ln : Line) (v : Word) (s : State) : Out :=
  s.secWrite a (ln.val / 4) (0x44 + ln.val % 4 * 0x10) v (.dlBindWrite a ln v)

def execMsubWrite (a : Acc) (e : Eng) (j : Fin 16) (v : Word) (s : State) : Out :=
  s.secWrite a e (0x600 + j * 4) v (.msubWrite a e j v)

/-- MEAS_STAT.OVF_RST. -/
def execEngineMeasOvfRst (a : Acc) (e : Eng) (s : State) : Out := s.secWrite a e 0x640 0x80000000 (.engineMeasOvfRst a e)

/-! ### Memory windows (R260, R261, R263) -/

/-- Width and alignment of a window access: 4 or 8 bytes in instruction memory, 1 to 8 in data memory. -/
def winAligned (x n : Nat) : Bool :=
  (if x % 0x20000 < 0x10000 then n = 4 || n = 8 else n = 1 || n = 2 || n = 4 || n = 8) && x % n = 0

/-- Data-memory bytes that tags `t` may reach: all for TID 0 with W = 1, else the bounds and slots of its own threads. -/
def State.winMay (s : State) (t : Tags) (e x n : Nat) : Bool :=
  t.manager || (List.range 8).any fun u => s.threadTags (e * 8 + u) == t && s.inBounds e u x n

/-- A window write of the low `n` bytes of `v` at offset `x` of the windows. -/
def State.putWindow (s : State) (t : Tags) (x n : Nat) (v : DWord) : Ans :=
  let e := x / 0x20000
  let a := winBase + x
  let b := leBytes n v.toNat
  if x % 0x20000 < 0x10000 then
    if !t.manager then s.deny t a
    else if s.rb (secA e 0) 0 then (.access, s)
    else if !winAligned x n then (.align, s)
    else if (List.range 8).any fun u => s.thState e u != 0 then (.conflict, s)
    else (.done, s.memPut a b)
  else if !s.winMay t e (x % 0x10000) n then s.deny t a
  else if !winAligned x n then (.align, s)
  else (.done, if n = 8 then s.memPut a b else s.stBytes a b)

/-- A window read. R261 grants no other party than TID 0 with W = 1 any access to instruction memory. -/
def State.getWindow (s : State) (t : Tags) (x n : Nat) : Status × DWord × State :=
  let e := x / 0x20000
  let a := winBase + x
  if (if x % 0x20000 < 0x10000 then !t.manager else !s.winMay t e (x % 0x10000) n) then
    let r := s.deny t a
    (r.1, 0, r.2)
  else if !winAligned x n then (.align, 0, s)
  else if s.anyBad a n then
    (.eccUncorr, 0, s.seEcc e (a + ((List.range n).find? fun i => s.isBad (a + i)).getD 0) (decide (x % 0x20000 < 0x10000)))
  else (.done, BitVec.ofNat 64 (s.ldLE a n), s)

/-- A window write: `addr` in the engine memory windows. -/
def execEngineMemWindowWrite (a : Acc) (addr : Addr) (bytes : Nat) (data : DWord) (s : State) : Out :=
  let x := addr.toNat - winBase
  if addr.toNat < winBase || winBase + 0x200000 ≤ addr.toNat then .next (s.finish a addr.toNat .range)
  else s.cfgWrite a addr.toNat (.engineMemWindowWrite a addr bytes data) fun t s => s.putWindow t x bytes data

end Sys2Proof.Machine
end

