-- ==== Sys2Proof/Machine/Bus.lean ====
section
/-!
DEFINITION. The address map as an access meets it: every region's own width, access and alignment rules (R16, R19–R25, R42,
R491, R545), and the rows that write or read by address (R24, R672).
-/

namespace Sys2Proof.Machine

/-! ### Configuration space, one register (R24, R42) -/

/-- A write to the ICU page but its ownership registers (R37). -/
def State.putIcu (s : State) (t : Tags) (o : Nat) (v : Word) : Ans :=
  if 0x8000 ≤ o then s.putAplic t ((o - 0x8000) / 0x4000) (o % 0x4000) v
  else if 0x40 ≤ o && o < 0x6C then s.putIsl t ((o - 0x40) / 4) v
  else if o = 0x80 then s.putPhyPwr t v
  else s.deny t (icuBase + o)

/-- A write to the RBC page: RST_CAUSE from any party. -/
def State.putRbc (s : State) (t : Tags) (o : Nat) (v : Word) : Ans :=
  if o = 0 then (.done, s.plainWr rbcBase v)
  else if o = 8 then s.putBankCtl t v
  else if o = 0xC then s.putSwReset t v
  else if t.manager then (.done, s) else s.deny t (rbcBase + o)

/-- A write to the CSK page but its ownership registers. -/
def State.putCsk (s : State) (t : Tags) (o : Nat) (v : Word) : Ans :=
  if 0x1000 ≤ o && o < 0x5000 then s.putCask t ((o - 0x1000) / 0x20) (o % 0x20) v
  else if o != 0 && t.manager then (.done, s)
  else s.deny t (cskBase + o)

/-- A 32-bit write of a configuration register. -/
def State.putConf (s : State) (t : Tags) (a : Nat) (v : Word) : Ans :=
  let p := (a - 0x40000000) / 0x10000
  let o := a % 0x10000
  if !confPop a then s.unmapped t a
  else if (ownAt a).isSome then s.putOwn t a v
  else if p = 0 then (.done, s)
  else if p = 1 then s.putFc t o v
  else if p = 2 then s.putIcu t o v
  else if p = 3 then s.putRbc t o v
  else if p = 4 then s.putTnm t o v
  else if p = 5 then s.putWcu t o v
  else if p = 6 then if 0x1000 ≤ o && o < 0x2800 && o % 0x20 = 0 then (.range, s) else s.putKst t o v
  else if p = 7 then s.deny t a
  else if p = 8 then s.putPke t o v
  else if p = 9 then s.putTbu t o v
  else if p = 0xA then s.putCsk t o v
  else if p = 0xB then s.putClr t o v
  else if p = 0xC then s.putSec t (o / 0x1000) (o % 0x1000) v
  else if p = 0xD then s.putCan t (o / 0x1000) (o % 0x1000) v
  else if p = 0xE then s.putLin t (o / 0x400) (o % 0x400) v
  else if p = 0xF then s.putEsw t o v
  else if p = 0x10 then s.putStg t o v
  else if p = 0x11 then s.putBrg t (o / 0x1000) (o % 0x1000) v
  else s.putPrm t o v

/-! ### Widths -/

/-- The two words of CPH_SUBMIT. -/
def atSubmit (a : Nat) : Bool := cphBase ≤ a && a < cphBase + 8

/-- A write of `n` bytes in configuration space; CPH_SUBMIT is one 64-bit register. -/
def State.confWrite (s : State) (t : Tags) (a n : Nat) (v : DWord) : Ans :=
  if a = cphBase && n = 8 then s.cphSubmit t v
  else if atSubmit a then (.align, s)
  else if wordAligned a n then twoPuts (fun s a v => s.putConf t a v) s a n v
  else narrowPut (s.putConf t (a / 4 * 4) (wd v.toNat)) s

/-- A read of `n` bytes in configuration space; a 64-bit read of TB_NOW carries the fraction (R463). -/
def State.confRead (s : State) (t : Tags) (a n : Nat) : Status × DWord × State :=
  if wordAligned a n then
    if a = tbA 0 && n = 8 then (.done, BitVec.ofNat 64 (s.now.toNat + s.tb.acc / 2 ^ 24 % 16 * 2 ^ 32), s)
    else twoGets (fun s a => s.getConf t a) s a n
  else narrowGet (s.getConf t (a / 4 * 4)) s

/-! ### Cask windows (R491) -/

/-- A store to a Cask window; the flag says that a CK_PUT is held (R494). A store of another width is no operation, so a
disabled Cask does not make it RANGE. -/
def State.caskWrite (s : State) (a : Acc) (t : Tags) (n off bytes : Nat) (v : DWord) : Ans × Bool :=
  let k := off / 8 * 8
  if bytes = 8 && off % 8 = 0 && k < 0x28 then
    if k = 0 then s.ckPutStore a t n v.toNat
    else (if k = 8 then s.ckGetStore t n v.toNat else if k = 0x10 then s.ckSoftMark t n
      else if k = 0x18 then s.ckSoftRewind t n else s.ckSoftRel t n v.toNat, false)
  else if s.resetting t.tid then ((.aborted, s), false)
  else if !s.ckMay t n then (s.deny t (ckWinA n off), false)
  else if 0x30 ≤ k then ((.range, s), false)
  else if bytes = 8 && off % 8 = 0 then ((.done, s), false)
  else ((.align, s), false)

/-- A load from a Cask window: CK_FILL, and 0 from the write-only offsets (R7). -/
def State.caskRead (s : State) (t : Tags) (n off bytes : Nat) : Status × DWord × State :=
  let k := off / 8 * 8
  if s.resetting t.tid then (.aborted, 0, s)
  else if !s.ckMay t n then let r := s.deny t (ckWinA n off); (r.1, 0, r.2)
  else if 0x30 ≤ k then (.range, 0, s)
  else if bytes != 8 || off % 8 != 0 then (.align, 0, s)
  else (.done, if k = 0x28 then s.ckFillWord n else 0, s)

/-! ### The Cellar window -/

def State.cellarWrite (s : State) (t : Tags) (x n : Nat) (v : DWord) : Ans :=
  let h := x / 0x20
  let w := x % 0x20 / 4
  if x % 4 = 0 && (n = 4 || n = 8) then s.putEntry t h w (n = 8) v
  else narrowPut (s.putEntry t h w false v) s

def State.cellarRead (s : State) (t : Tags) (x n : Nat) : Status × DWord × State :=
  let h := x / 0x20
  let w := x % 0x20 / 4
  if x % 4 = 0 && (n = 4 || n = 8) then s.getEntry t h w (n = 8)
  else if !s.enMayRead t h then let r := s.deny t (enA h w); (r.1, 0, r.2)
  else (.align, 0, s)

/-! ### Switch tables -/

def State.swtWrite (s : State) (t : Tags) (a n : Nat) (v : DWord) : Ans :=
  if wordAligned a n then twoPuts (fun s a v => s.putSwt t (a - swtBase) v) s a n v
  else narrowPut (s.putSwt t (a / 4 * 4 - swtBase) (wd v.toNat)) s

def State.swtRead (s : State) (a n : Nat) : Status × DWord × State :=
  if wordAligned a n then twoGets (fun s a => (.done, s.rd a, s)) s a n else (.align, 0, s)

/-! ### The whole map (R21, R22) -/

/-- `n` bytes at `a` lie wholly between `lo` and `hi`. -/
def within (a n lo hi : Nat) : Bool := lo ≤ a && a + n ≤ hi

/-- A write of `n` bytes to a target on the logic die by its own rules; the flag says that a CK_PUT is held. -/
def State.busPut (s : State) (a : Acc) (t : Tags) (addr n : Nat) (v : DWord) : Ans × Bool :=
  let plain (r : Ans) : Ans × Bool := (r, false)
  if within addr n 0 0x10000 then plain (.access, s)
  else if within addr n 0x10000000 0x12000000 || within addr n 0x20000000 0x22000000 then
    plain (if s.mayWrite t addr n then (.done, s.memPut addr (leBytes n v.toNat)) else s.deny t addr)
  else if within addr n 0x30000000 0x30200000 then plain (s.cellarWrite t (addr - 0x30000000) n v)
  else if within addr n 0x31000000 0x31200000 then
    s.caskWrite a t ((addr - 0x31000000) / 0x1000) (addr % 0x1000) n v
  else if within addr n 0x40000000 0x40200000 then plain (s.confWrite t addr n v)
  else if within addr n 0x40200000 0x40400000 then plain (s.putWindow t (addr - 0x40200000) n v)
  else if within addr n 0x40400000 0x40500000 then plain (s.swtWrite t addr n v)
  else plain (s.unmapped t addr)

/-- A write of `n` bytes by an initiator, all but those into the pair bridge window; the flag says that a CK_PUT is held. -/
def State.busWrite (s : State) (a : Acc) (addr n : Nat) (v : DWord) : Ans × Bool :=
  let t := s.tagsOf a.who
  if isFar addr then
    let b := (addr - 0x80000000) / 0x1000000
    if wordAligned addr n then (s.brWrite a.who a.tagFail b addr (fun t s => s.farWriteN t addr n v) n, false)
    else ((s.brBars a b addr n .write v).getD (.align, s), false)
  else if a.tagFail then ((.access, s.reportAt 0x0006 addr t), false)
  else if s.pageHeld addr && !t.w then (s.heldPage t addr (s.busPut a t addr n v).1, false)
  else s.busPut a t addr n v

/-- A read of memory: the world, then an uncorrectable error among its words (R698). -/
def State.memRead (s : State) (t : Tags) (addr n : Nat) : Status × DWord × State :=
  if !s.mayRead t addr n then let r := s.deny t addr; (r.1, 0, r.2)
  else if s.anyBad addr n then (.eccUncorr, 0, s.eccReport addr)
  else (.done, BitVec.ofNat 64 (s.ldLE addr n), s)

/-- A read of `n` bytes by an initiator, all but those from the pair bridge window. The boot ROM's contents, which the spec
does not give, read 0 (log 3). -/
def State.busRead (s : State) (a : Acc) (addr n : Nat) : Status × DWord × State :=
  let t := s.tagsOf a.who
  let no (r : Ans) : Status × DWord × State := (r.1, 0, r.2)
  if isFar addr then
    let b := (addr - 0x80000000) / 0x1000000
    if wordAligned addr n then s.brRead a.who a.tagFail b addr (fun t s => s.farReadN t addr n) n
    else no ((s.brBars a b addr n .read 0).getD (.align, s))
  else if a.tagFail then no (.access, s.reportAt 0x0006 addr t)
  else if s.pageHeld addr && !t.w then no (s.deny t addr)
  else if within addr n 0 0x10000 then (.done, BitVec.ofNat 64 (s.ldLE addr n), s)
  else if within addr n 0x10000000 0x12000000 || within addr n 0x20000000 0x22000000 then s.memRead t addr n
  else if within addr n 0x30000000 0x30200000 then s.cellarRead t (addr - 0x30000000) n
  else if within addr n 0x31000000 0x31200000 then s.caskRead t ((addr - 0x31000000) / 0x1000) (addr % 0x1000) n
  else if within addr n 0x40000000 0x40200000 then s.confRead t addr n
  else if within addr n 0x40200000 0x40400000 then s.getWindow t (addr - 0x40200000) n
  else if within addr n 0x40400000 0x40500000 then s.swtRead addr n
  else no (s.unmapped t addr)

/-- The place at which an access to `addr` may have to wait: an island, or the way through a bridge. -/
def waitPlace (addr : Nat) : Nat := if isFar addr then 16 + (addr - 0x80000000) / 0x1000000 else islandOf addr

/-- A write by address. -/
def execRegisterWrite (a : Acc) (addr : Addr) (bytes : Nat) (data : DWord) (s : State) : Out :=
  let x := addr.toNat
  if !s.logicOn then .next s
  else if 0x100000000 ≤ x && x < 0x200000000 then s.bridgeAccess a x bytes .write data
  else if s.mustWait (waitPlace x) then .next (s.park (waitPlace x) (.registerWrite a addr bytes data) (.access a x false))
  else
    let r := s.busWrite a x bytes data
    .next (if r.2 then r.1.2 else r.1.2.finish a x r.1.1)

/-! ### The partner's requests (R541, R672) -/

/-- The import entry that covers `n` bytes at `addr`. -/
def State.importOf (s : State) (addr n : Nat) : Option Nat :=
  firstBelow 16 fun k =>
    let b := (s.rd (prA (0x100 + k * 8))).toNat * 65536
    s.rb (prA (0x104 + k * 8)) 31 && within addr n b (b + (s.rf (prA (0x104 + k * 8)) 15 0 + 1) * 65536)

/-- What a BR_REQ asks for: tag, operation, width, address and data (R671). -/
structure BrAsk where
  tag : Nat
  op : Nat
  n : Nat
  addr : Nat
  v : DWord
  deriving DecidableEq, Repr

def PairFrame.ask (f : PairFrame) : BrAsk :=
  { tag := (byteAt f.payload 0).toNat, op := (byteAt f.payload 1).toNat, n := (byteAt f.payload 2).toNat
    addr := beNat (slice f.payload 4 8), v := BitVec.ofNat 64 (beNat (slice f.payload 12 8)) }

/-- The tags that the import mapping gives a request, or why it admits none (R541). -/
def State.importAcc (s : State) (q : BrAsk) (tagFail : Bool) : Status × Acc :=
  match s.importOf q.addr q.n with
  | none => (.range, ⟨.debug, false⟩)
  | some k =>
    let c := s.rd (prA (0x104 + k * 8))
    let a : Acc := ⟨.carried (BitVec.ofNat 8 (fld c 23 16)) (bit c 24), tagFail⟩
    if q.op != 1 && bit c 30 then (.access, a) else if 0x100000000 ≤ q.addr then (.range, a) else (.done, a)

/-- The BR_RSP that answers a request. -/
def State.brAnswer (s : State) (q : BrAsk) (st : Status) (v : DWord) : State :=
  s.pairSend 7 ([BitVec.ofNat 8 q.tag, BitVec.ofNat 8 st.code, 0, 0] ++ beBytes 8 (if st = .done then v.toNat else 0))

/-- The access that a BR_REQ asks for, and its answer. A CK_PUT without room answers LENGTH at once. -/
def State.pairServe (s : State) (q : BrAsk) (tagFail : Bool) : State :=
  let m := s.importAcc q tagFail
  let r : Status × DWord × State :=
    if m.1 != .done then (m.1, 0, s)
    else if q.op = 1 then s.busRead m.2 q.addr q.n
    else
      let w := s.busWrite m.2 q.addr q.n q.v
      if w.2 then (.length, 0, s) else (w.1.1, 0, w.1.2)
  r.2.2.brAnswer q r.1 r.2.1

/-- A BR_REQ waits at a boundary. -/
def State.brReqWaits (s : State) : Bool :=
  s.boundary.any fun w => match w.by_ with | .partner _ _ => true | _ => false

/-- The oldest received frame is a BR_REQ. One that the import mapping admits waits like any other transaction while the
island it addresses takes none (R16); the frame stays queued meanwhile. -/
def execPairBrReq (s : State) (tagFail : Bool := false) : Out :=
  match s.pairTake 6 with
  | some (f, _) =>
    let q := f.ask
    if s.brReqWaits then .next s
    else if (s.importAcc q tagFail).1 = .done && s.mustWait (waitPlace q.addr) then
      .next (s.park (waitPlace q.addr) (.pairBrReq tagFail) (.partner q.addr (q.op == 1)))
    else s.onPair 6 fun f s => s.pairServe f.ask tagFail
  | none => .next s

/-- A BR_REQ has waited 10 µs at an island's boundary: it is answered with TIMEOUT and zero data. -/
def State.brReqLate (s : State) : State :=
  match s.pairTake 6 with
  | some (f, s) => (State.brAnswer (s.reportAt 0x0001 f.ask.addr (s.tagsOf (s.importAcc f.ask false).2.who)) f.ask .timeout 0).pairPoll
  | none => s

/-! ### Timeouts at island boundaries (R16) -/

/-- The transaction that has waited longest at an island's boundary completes with TIMEOUT: a read with zero data, a write
not applied; fault 0x0001 (R16). -/
def execIslandTransactionTimeout (i : Island) (s : State) : Out :=
  .next (match s.boundary.find? fun w => w.island == i.val with
    | none => s
    | some w =>
      let s := { s with boundary := dropFirst (fun w => w.island == i.val) s.boundary }
      match w.past, w.by_ with
      | some p, .access a addr _ => s.reportAt 0x0001 addr ((s.wear p).tagsOf a.who)
      | some p, .engine e t _ addr => s.reportAt 0x0001 addr ((s.wear p).threadTags (e * 8 + t))
      | _, .partner _ _ => s.brReqLate
      | none, .access a addr load => (s.reportAt 0x0001 addr (s.tagsOf a.who)).finish a addr .timeout 0 load
      | none, .engine e t d addr =>
        let s := s.reportAt 0x0001 addr (s.threadTags (e * 8 + t))
        if s.thState e t = 3 && (s.thr e t).held.isNone then s.heldStatus e t d .timeout else s)

end Sys2Proof.Machine
end

