-- ==== Sys2Proof/Machine/Fpu.lean ====
section
/-!
DEFINITION. The floating-point unit of a hart: the computational instructions of the F and D extensions of RV64G, in the
binary32 and binary64 formats of IEEE 754 (R544, R561 class 7). Encodings, results of not-a-numbers and flags are those of
the RISC-V instruction set (PRESUMED, log 6).
-/

namespace Sys2Proof

/-- A computational floating-point operation. -/
inductive FpOp where
  | add | sub | mul | div | sqrt
  /-- a × b + c, a × b − c, −(a × b) + c, −(a × b) − c. -/
  | madd | msub | nmsub | nmadd
  | sgnj | sgnjn | sgnjx | min | max
  /-- To this format from the other one. -/
  | cvtF
  | le | lt | eq | classify
  /-- To and from W, WU, L, LU: 0 to 3. -/
  | toInt (k : Nat) | ofInt (k : Nat)
  /-- Bits as they stand, to and from an integer register. -/
  | mvX | mvF
  deriving DecidableEq, Repr

/-- Where the result of a floating-point instruction goes and where its first operand comes from. -/
inductive FpKind where
  | toF | toX | fromX
  deriving DecidableEq, Repr

end Sys2Proof

namespace Sys2Proof.Machine

/-! ### Encodings -/

/-- The operation that an OP-FP word or a fused one spells, and whether it is in double precision. -/
def fpDecode (w : BitVec 32) : Option (FpOp × Bool) :=
  let dbl := bit w 25
  let rm := fld w 14 12
  let rs2 := fld w 24 20
  let at_ (b : Bool) (op : FpOp) : Option (FpOp × Bool) := if b then some (op, dbl) else none
  if bit w 26 then none
  else match fld w 6 0 with
    | 0x43 => some (.madd, dbl) | 0x47 => some (.msub, dbl) | 0x4B => some (.nmsub, dbl) | 0x4F => some (.nmadd, dbl)
    | 0x53 =>
      match fld w 31 27 with
      | 0 => some (.add, dbl) | 1 => some (.sub, dbl) | 2 => some (.mul, dbl) | 3 => some (.div, dbl)
      | 0x0B => at_ (rs2 == 0) .sqrt
      | 4 => if rm = 0 then some (.sgnj, dbl) else if rm = 1 then some (.sgnjn, dbl) else at_ (rm == 2) .sgnjx
      | 5 => if rm = 0 then some (.min, dbl) else at_ (rm == 1) .max
      | 8 => at_ (rs2 == 1 - dbl.toNat) .cvtF
      | 0x14 => if rm = 0 then some (.le, dbl) else if rm = 1 then some (.lt, dbl) else at_ (rm == 2) .eq
      | 0x18 => at_ (decide (rs2 < 4)) (.toInt rs2)
      | 0x1A => at_ (decide (rs2 < 4)) (.ofInt rs2)
      | 0x1C => if rs2 != 0 then none else if rm = 0 then some (.mvX, dbl) else at_ (rm == 1) .classify
      | 0x1E => at_ (rs2 == 0 && rm == 0) .mvF
      | _ => none
    | _ => none

/-- The rm field of these names the operation, not a rounding mode. -/
def fpRounds : FpOp → Bool
  | .sgnj => false | .sgnjn => false | .sgnjx => false | .min => false | .max => false | .le => false | .lt => false
  | .eq => false | .classify => false | .mvX => false | .mvF => false | _ => true

def fpKind : FpOp → FpKind
  | .le => .toX | .lt => .toX | .eq => .toX | .classify => .toX | .toInt _ => .toX | .mvX => .toX
  | .ofInt _ => .fromX | .mvF => .fromX | _ => .toF

/-- The rounding mode of a word, frm where it is dynamic: 0 RNE, 1 RTZ, 2 RDN, 3 RUP, 4 RMM. -/
def fpRm (w : BitVec 32) (frm : Nat) : Nat := if fld w 14 12 = 7 then frm else fld w 14 12

/-- The word is an instruction of kind `k` with a rounding mode that exists. -/
def fpLegal (w : BitVec 32) (frm : Nat) (k : FpKind) : Bool :=
  match fpDecode w with
  | some (op, _) => fpKind op == k && (!fpRounds op || decide (fpRm w frm < 5))
  | none => false

/-! ### Numbers -/

/-- A format: bits of the significand, the hidden one included, and of the exponent. -/
structure FFmt where
  p : Nat
  e : Nat
  deriving DecidableEq, Repr

def fmtOf (dbl : Bool) : FFmt := if dbl then ⟨53, 11⟩ else ⟨24, 8⟩

namespace FFmt
def width (f : FFmt) : Nat := f.p + f.e
def bias (f : FFmt) : Int := 2 ^ (f.e - 1) - 1
/-- Exponent of the last place of a subnormal number. -/
def low (f : FFmt) : Int := 2 - f.bias - f.p
def inf (f : FFmt) (s : Bool) : Nat := (2 ^ f.e - 1) * 2 ^ (f.p - 1) + s.toNat * 2 ^ (f.width - 1)
def zero (f : FFmt) (s : Bool) : Nat := s.toNat * 2 ^ (f.width - 1)
/-- The canonical quiet not-a-number. -/
def nan (f : FFmt) : Nat := (2 ^ (f.e + 1) - 1) * 2 ^ (f.p - 2)
end FFmt

/-- What the bits of a format stand for: a not-a-number, quiet or signalling, an infinity, or ± m × 2^x. -/
inductive FVal where
  | nan (quiet : Bool) | inf (s : Bool) | num (s : Bool) (m : Nat) (x : Int)
  deriving DecidableEq, Repr

def FVal.isNan : FVal → Bool | .nan _ => true | _ => false
def FVal.signals : FVal → Bool | .nan q => !q | _ => false
def FVal.neg : FVal → FVal | .inf s => .inf !s | .num s m x => .num (!s) m x | v => v

def unpack (f : FFmt) (v : Nat) : FVal :=
  let s := v >>> (f.width - 1) % 2 = 1
  let e := v >>> (f.p - 1) % 2 ^ f.e
  let m := v % 2 ^ (f.p - 1)
  if e = 2 ^ f.e - 1 then (if m = 0 then .inf s else .nan (decide (2 ^ (f.p - 2) ≤ m)))
  else if e = 0 then .num s m f.low
  else .num s (m + 2 ^ (f.p - 1)) (f.low + (e - 1 : Nat))

/-- Result bits and the flags raised: 16 NV, 8 DZ, 4 OF, 2 UF, 1 NX. -/
abbrev FRes := Nat × Nat

/-- `m` loses its low `k` bits: the quotient as the mode rounds it, and whether anything but zeros was lost. -/
def roundBits (rm : Nat) (s : Bool) (m k : Nat) : Nat × Bool :=
  let q := m / 2 ^ k
  let r := m % 2 ^ k
  let up := match rm with
    | 0 => decide (2 ^ k < 2 * r) || (decide (2 * r = 2 ^ k) && q % 2 == 1 && r != 0)
    | 2 => s && r != 0
    | 3 => !s && r != 0
    | 4 => r != 0 && decide (2 ^ k ≤ 2 * r)
    | _ => false
  (q + up.toNat, r != 0)

/-- Round ± m × 2^x into the format; tininess is detected after rounding. -/
def roundTo (f : FFmt) (rm : Nat) (s : Bool) (m : Nat) (x : Int) : FRes :=
  if m = 0 then (f.zero s, 0)
  else
    let q := x + Nat.log2 m + 1 - f.p
    let free := roundBits rm s (m * 2 ^ (x - q).toNat) (q - x).toNat
    let tiny := decide (q + (if 2 ^ f.p ≤ free.1 then 1 else 0) < f.low)
    let at_ := max q f.low
    let r := roundBits rm s (m * 2 ^ (x - at_).toNat) (at_ - x).toNat
    let e := (at_ - f.low).toNat
    -- a carry out of the significand, also from a subnormal number, runs into the exponent field
    let mag := e * 2 ^ (f.p - 1) + r.1
    if 2 ^ f.e - 1 ≤ mag / 2 ^ (f.p - 1) then
      let toInf := rm = 0 || rm = 4 || (rm = 2 && s) || (rm = 3 && !s)
      (if toInf then f.inf s else f.inf s - 1, 5)
    else (mag + f.zero s, if r.2 then (if tiny then 3 else 1) else 0)

/-! ### Operations -/

/-- A not-a-number comes out canonical; a signalling one raises NV. -/
def nanOf (f : FFmt) (l : List FVal) : FRes := (f.nan, if l.any FVal.signals then 16 else 0)

/-- The sum of two numbers, exactly: sign, magnitude and place. -/
def exactSum (rm : Nat) (s t : Bool) (m n : Nat) (x y : Int) : Bool × Nat × Int :=
  let z := min x y
  let a : Int := (m * 2 ^ (x - z).toNat : Nat)
  let b : Int := (n * 2 ^ (y - z).toNat : Nat)
  let c := (if s then -a else a) + (if t then -b else b)
  if c = 0 then (if s == t then s else rm == 2, 0, z) else (decide (c < 0), c.natAbs, z)

def fAdd (f : FFmt) (rm : Nat) (a b : FVal) : FRes :=
  match a, b with
  | .inf s, .inf t => if s == t then (f.inf s, 0) else (f.nan, 16)
  | .inf s, .num _ _ _ => (f.inf s, 0)
  | .num _ _ _, .inf t => (f.inf t, 0)
  | .num s m x, .num t n y => let r := exactSum rm s t m n x y; roundTo f rm r.1 r.2.1 r.2.2
  | _, _ => nanOf f [a, b]

def fMul (f : FFmt) (rm : Nat) (a b : FVal) : FRes :=
  match a, b with
  | .inf s, .inf t => (f.inf (s != t), 0)
  | .inf s, .num t n _ => if n = 0 then (f.nan, 16) else (f.inf (s != t), 0)
  | .num s m _, .inf t => if m = 0 then (f.nan, 16) else (f.inf (s != t), 0)
  | .num s m x, .num t n y => roundTo f rm (s != t) (m * n) (x + y)
  | _, _ => nanOf f [a, b]

/-- a × b + c, rounded once; infinity times zero raises NV whatever c is. -/
def fMadd (f : FFmt) (rm : Nat) (a b c : FVal) : FRes :=
  let bad := match a, b with
    | .inf _, .num _ n _ => n == 0
    | .num _ m _, .inf _ => m == 0
    | _, _ => false
  if bad then (f.nan, 16)
  else if a.isNan || b.isNan || c.isNan then nanOf f [a, b, c]
  else match a, b, c with
    | .num s m x, .num t n y, .num u k z =>
      let r := exactSum rm (s != t) u (m * n) k (x + y) z
      roundTo f rm r.1 r.2.1 r.2.2
    | .num _ _ _, .num _ _ _, .inf u => (f.inf u, 0)
    | _, _, _ =>
      let sign (v : FVal) : Bool := match v with | .inf s => s | .num s _ _ => s | .nan _ => false
      fAdd f rm (.inf (sign a != sign b)) c

def fDiv (f : FFmt) (rm : Nat) (a b : FVal) : FRes :=
  match a, b with
  | .inf _, .inf _ => (f.nan, 16)
  | .inf s, .num t _ _ => (f.inf (s != t), 0)
  | .num s _ _, .inf t => (f.zero (s != t), 0)
  | .num s m x, .num t n y =>
    if n = 0 then (if m = 0 then (f.nan, 16) else (f.inf (s != t), 8))
    else
      let k := f.p + 3 + Nat.log2 n
      let q := m * 2 ^ k / n
      let rest := m * 2 ^ k % n != 0
      roundTo f rm (s != t) (2 * q + rest.toNat) (x - y - k - 1)
  | _, _ => nanOf f [a, b]

/-- The integer square root of a number below 2^(2n), its bits found from the top. -/
def isqrt (v n : Nat) : Nat :=
  (List.range n).foldl (fun r i => let b := r + 2 ^ (n - 1 - i); if b * b ≤ v then b else r) 0

def fSqrt (f : FFmt) (rm : Nat) (a : FVal) : FRes :=
  match a with
  | .nan _ => nanOf f [a]
  | .inf s => if s then (f.nan, 16) else (f.inf false, 0)
  | .num s m x =>
    if m = 0 then (f.zero s, 0)
    else if s then (f.nan, 16)
    else
      let k := 2 * (f.p + 2) + x.toNat % 2 + (-x).toNat % 2
      let v := m * 2 ^ k
      let r := isqrt v (f.p + f.p + 4)
      roundTo f rm false (2 * r + (r * r != v).toNat) ((x - k) / 2 - 1)

/-- The order of two values that are numbers or infinities: a < b, a = b. -/
def fOrder (a b : FVal) : Bool × Bool :=
  let key (v : FVal) : Int × Nat × Int := match v with
    | .num s m x => (if m = 0 then 0 else if s then -1 else 1, m, x)
    | .inf s => (if s then -2 else 2, 0, 0)
    | .nan _ => (0, 0, 0)
  let p := key a
  let q := key b
  if p.1 ≠ q.1 then (decide (p.1 < q.1), false)
  else
    let z := min p.2.2 q.2.2
    let m := p.2.1 * 2 ^ (p.2.2 - z).toNat
    let n := q.2.1 * 2 ^ (q.2.2 - z).toNat
    (if p.1 < 0 then decide (n < m) else decide (m < n), m == n)

/-- The lesser, or the greater, of two values: a number beats a not-a-number, and −0 lies below +0. -/
def fPick (f : FFmt) (greater : Bool) (va vb : Nat) (a b : FVal) : FRes :=
  let fl := if a.signals || b.signals then 16 else 0
  if a.isNan && b.isNan then (f.nan, fl)
  else if a.isNan then (vb, fl)
  else if b.isNan then (va, fl)
  else
    let o := fOrder a b
    let less := o.1 || (o.2 && decide (f.zero true ≤ va))
    (if less != greater then va else vb, fl)

def fCmp (op : FpOp) (a b : FVal) : FRes :=
  if a.isNan || b.isNan then (0, if op != .eq || a.signals || b.signals then 16 else 0)
  else
    let o := fOrder a b
    ((match op with | .eq => o.2 | .lt => o.1 | _ => o.1 || o.2).toNat, 0)

/-- The class word of FCLASS. -/
def fClass (f : FFmt) (a : FVal) : Nat :=
  match a with
  | .nan q => if q then 512 else 256
  | .inf s => if s then 1 else 128
  | .num s m x =>
    let k := if m = 0 then 3 else if m < 2 ^ (f.p - 1) && x = f.low then 2 else 1
    if s then 2 ^ k else 2 ^ (7 - k)

/-- A number as an integer of kind `k`, saturating; the low 32 bits of W and WU are extended by their sign. -/
def fToInt (rm k : Nat) (a : FVal) : FRes :=
  let w := if k < 2 then 32 else 64
  let signed := k % 2 = 0
  let hi : Int := if signed then 2 ^ (w - 1) - 1 else 2 ^ w - 1
  let lo : Int := if signed then -(2 ^ (w - 1)) else 0
  let out (v : Int) : Nat := (BitVec.ofInt 64 (if w = 32 then sext (v % 2 ^ 32).toNat 32 else v)).toNat
  match a with
  | .nan _ => (out hi, 16)
  | .inf s => (out (if s then lo else hi), 16)
  | .num s m x =>
    let r := roundBits rm s (m * 2 ^ x.toNat) (-x).toNat
    let v : Int := if s then -r.1 else r.1
    if v < lo then (out lo, 16) else if hi < v then (out hi, 16) else (out v, r.2.toNat)

/-- An integer register as a number of the format. -/
def fOfInt (f : FFmt) (rm k : Nat) (v : BitVec 64) : FRes :=
  let w := if k < 2 then 32 else 64
  let n : Int := if k % 2 = 0 then sext v.toNat w else v.toNat % 2 ^ w
  roundTo f rm (decide (n < 0)) n.natAbs 0

/-- A value of one format in another. -/
def fConvert (f : FFmt) (rm : Nat) (a : FVal) : FRes :=
  match a with
  | .nan _ => nanOf f [a]
  | .inf s => (f.inf s, 0)
  | .num s m x => roundTo f rm s m x

/-! ### The unit -/

/-- The bits of an operand: a single-precision one that is not boxed stands for the canonical not-a-number. -/
def fpBits (dbl : Bool) (v : BitVec 64) : Nat :=
  if dbl then v.toNat else if fld v 63 32 = 2 ^ 32 - 1 then fld v 31 0 else (fmtOf false).nan

/-- A single-precision result is boxed. -/
def fpBox (dbl : Bool) (v : Nat) : BitVec 64 := BitVec.ofNat 64 (if dbl then v else v + (2 ^ 32 - 1) * 2 ^ 32)

/-- Operation `op` on operands as the registers hold them, its result as the destination takes it. -/
def fpRun (op : FpOp) (dbl : Bool) (rm : Nat) (ra rb rc : BitVec 64) : FRes :=
  let f := fmtOf dbl
  let va := fpBits dbl ra
  let vb := fpBits dbl rb
  let a := unpack f va
  let b := unpack f vb
  let c := unpack f (fpBits dbl rc)
  let top := 2 ^ (f.width - 1)
  let sign (neg : Bool) : FRes := (va % top + neg.toNat * top, 0)
  let sa := top ≤ va
  let sb := top ≤ vb
  match op with
  | .add => fAdd f rm a b | .sub => fAdd f rm a b.neg | .mul => fMul f rm a b | .div => fDiv f rm a b | .sqrt => fSqrt f rm a
  | .madd => fMadd f rm a b c | .msub => fMadd f rm a b c.neg
  | .nmsub => fMadd f rm a.neg b c | .nmadd => fMadd f rm a.neg b c.neg
  | .sgnj => sign sb | .sgnjn => sign !sb | .sgnjx => sign (sa != sb)
  | .min => fPick f false va vb a b | .max => fPick f true va vb a b
  | .cvtF => fConvert f rm (unpack (fmtOf !dbl) (fpBits (!dbl) ra))
  | .le => fCmp .le a b | .lt => fCmp .lt a b | .eq => fCmp .eq a b
  | .classify => (fClass f a, 0)
  | .toInt k => fToInt rm k a
  | .ofInt k => fOfInt f rm k ra
  | .mvX => (if dbl then ra.toNat else ((ra.truncate 32).signExtend 64).toNat, 0)
  | .mvF => (if dbl then ra.toNat else fld ra 31 0, 0)

/-- The unit's result for an instruction word, and the flags it raises; 0 for a word that is none. -/
def fpuOf (w : BitVec 32) (frm : Nat) (a b c : BitVec 64) : BitVec 64 × BitVec 64 :=
  match fpDecode w with
  | none => (0, 0)
  | some (op, dbl) =>
    let r := fpRun op dbl (fpRm w frm) a b c
    (if fpKind op = .toX then BitVec.ofNat 64 r.1 else fpBox dbl r.1, BitVec.ofNat 64 r.2)

end Sys2Proof.Machine
end

