-- ==== Sys2Proof/Machine/HartAlu.lean ====
section
/-!
DEFINITION. The integer operations of a hart, its branch conditions and atomic operations (R544): RV64IM, Zba, Zbb, Zbs and
Zicond as the RISC-V instruction set gives them (PRESUMED, log 11), with the class of each under second pressing (R561).
-/

namespace Sys2Proof

/-- Class code of an integer operation (R561). -/
def AluOp.pressClass (op : AluOp) : Nat :=
  if [AluOp.sll, .srl, .sra, .sllw, .srlw, .sraw, .rol, .ror, .rolw, .rorw, .bset, .bclr, .binv, .bext, .rev8].contains op then 2
  else if [AluOp.mul, .mulh, .mulhu, .mulhsu, .mulw].contains op then 3
  else if [AluOp.div, .divu, .rem, .remu, .divw, .divuw, .remw, .remuw].contains op then 4
  else 1

/-- The number that a bridge transaction carries for an atomic operation (R526). -/
def AmoOp.num : AmoOp → Fin 9
  | .swap => 0 | .add => 1 | .and => 2 | .or => 3 | .xor => 4 | .min => 5 | .max => 6 | .minu => 7 | .maxu => 8

end Sys2Proof

namespace Sys2Proof.Machine

/-- A 32-bit result extended by its sign. -/
def extW (v : Word) : DWord := v.signExtend 64
/-- The low 32 bits. -/
def lowW (v : DWord) : Word := v.truncate 32

/-- Quotient and remainder as the instruction set fixes them, by zero and on overflow included. -/
def divS {n : Nat} (a b : BitVec n) : BitVec n := if b = 0 then BitVec.allOnes n else a.sdiv b
def divU {n : Nat} (a b : BitVec n) : BitVec n := if b = 0 then BitVec.allOnes n else a.udiv b
def remS {n : Nat} (a b : BitVec n) : BitVec n := if b = 0 then a else a.srem b
def remU {n : Nat} (a b : BitVec n) : BitVec n := if b = 0 then a else a.umod b

/-- Zeros above the highest 1, below the lowest 1, and ones. -/
def leadZeros {n : Nat} (v : BitVec n) : Nat := (firstBelow n fun i => v.getLsbD (n - 1 - i)).getD n
def tailZeros {n : Nat} (v : BitVec n) : Nat := (firstBelow n fun i => v.getLsbD i).getD n
def onesOf {n : Nat} (v : BitVec n) : Nat := countBelow n fun i => v.getLsbD i

def dwd (n : Nat) : DWord := BitVec.ofNat 64 n

/-- A single bit chosen by the low six bits of an operand. -/
def bitAt (b : DWord) : DWord := 1#64 <<< (b.toNat % 64)

/-- An integer operation. -/
def alu (op : AluOp) (a b : DWord) : DWord :=
  let sh := b.toNat % 64
  let shw := b.toNat % 32
  let uw : DWord := (lowW a).zeroExtend 64
  match op with
  | .add => a + b | .sub => a - b | .and => a &&& b | .or => a ||| b | .xor => a ^^^ b
  | .slt => if a.slt b then 1 else 0
  | .sltu => if a < b then 1 else 0
  | .addw => extW (lowW a + lowW b) | .subw => extW (lowW a - lowW b)
  | .andn => a &&& ~~~b | .orn => a ||| ~~~b | .xnor => ~~~(a ^^^ b)
  | .min => if a.slt b then a else b | .max => if a.slt b then b else a
  | .minu => if a < b then a else b | .maxu => if a < b then b else a
  | .sextb => (a.truncate 8).signExtend 64 | .sexth => (a.truncate 16).signExtend 64 | .zexth => (a.truncate 16).zeroExtend 64
  | .clz => dwd (leadZeros a) | .ctz => dwd (tailZeros a) | .cpop => dwd (onesOf a)
  | .clzw => dwd (leadZeros (lowW a)) | .ctzw => dwd (tailZeros (lowW a)) | .cpopw => dwd (onesOf (lowW a))
  | .sh1add => (a <<< 1) + b | .sh2add => (a <<< 2) + b | .sh3add => (a <<< 3) + b
  | .adduw => uw + b | .sh1adduw => (uw <<< 1) + b | .sh2adduw => (uw <<< 2) + b | .sh3adduw => (uw <<< 3) + b
  | .slliuw => uw <<< sh
  | .czeroeqz => if b = 0 then 0 else a
  | .czeronez => if b = 0 then a else 0
  | .sll => a <<< sh | .srl => a >>> sh | .sra => a.sshiftRight sh
  | .sllw => extW (lowW a <<< shw) | .srlw => extW (lowW a >>> shw) | .sraw => extW ((lowW a).sshiftRight shw)
  | .rol => a.rotateLeft sh | .ror => a.rotateRight sh
  | .rolw => extW ((lowW a).rotateLeft shw) | .rorw => extW ((lowW a).rotateRight shw)
  | .bset => a ||| bitAt b | .bclr => a &&& ~~~(bitAt b) | .binv => a ^^^ bitAt b
  | .bext => (a >>> sh) &&& 1
  | .rev8 => dwd (leNat (leBytes 8 a.toNat).reverse)
  | .mul => a * b
  | .mulh => BitVec.ofInt 64 (a.toInt * b.toInt / 2 ^ 64)
  | .mulhu => dwd (a.toNat * b.toNat / 2 ^ 64)
  | .mulhsu => BitVec.ofInt 64 (a.toInt * b.toNat / 2 ^ 64)
  | .mulw => extW (lowW a * lowW b)
  | .div => divS a b | .divu => divU a b | .rem => remS a b | .remu => remU a b
  | .divw => extW (divS (lowW a) (lowW b)) | .divuw => extW (divU (lowW a) (lowW b))
  | .remw => extW (remS (lowW a) (lowW b)) | .remuw => extW (remU (lowW a) (lowW b))

/-- orc.b: every byte with a 1 in it becomes 0xFF. -/
def orcb (a : DWord) : DWord := dwd (leNat ((leBytes 8 a.toNat).map fun b => if b = 0 then 0 else 0xFF))

/-- A branch condition. -/
def brTaken (c : BrCond) (a b : DWord) : Bool :=
  match c with
  | .eq => a == b | .ne => a != b | .lt => a.slt b | .ge => !a.slt b | .ltu => decide (a < b) | .geu => !decide (a < b)

/-- An atomic operation on a value of memory. -/
def amoVal {n : Nat} (op : AmoOp) (old v : BitVec n) : BitVec n :=
  match op with
  | .swap => v | .add => old + v | .and => old &&& v | .or => old ||| v | .xor => old ^^^ v
  | .min => if old.sle v then old else v | .max => if old.sle v then v else old
  | .minu => if old ≤ v then old else v | .maxu => if old ≤ v then v else old

end Sys2Proof.Machine
end

