-- ==== Sys2Proof/Machine/Press.lean ====
section
/-!
DEFINITION. The event counters of a hart, and second pressing: the mirror file, mismatches, enabling and disabling, and entry to
debug mode (R560–R567).
-/

namespace Sys2Proof.Machine

/-- The registers as one copy of an instruction reads them. -/
structure RegView where
  x : Nat → DWord
  f : Nat → DWord

/-- The first copy reads the register files. -/
def Hart.view (h : Hart) : RegView := ⟨h.xr, h.fr⟩

/-- The second copy reads the mirror rows. -/
def Hart.mirrorView (h : Hart) : RegView :=
  ⟨fun k => if k = 0 then 0 else mirrored (smGet (fun _ => 0) h.mx (31 - k)),
   fun k => mirrored (smGet (fun _ => 0) h.mf (31 - k))⟩

/-! ### Counters (R544, R582) -/

/-- mcycle, minstret and mhpmcounter3–10 hold: counting inhibited, or the Reserve world with CNTRUN clear; an event counter
also by its mode filters. -/
def Hart.held? (h : Hart) (k : Nat) : Bool :=
  let ev := h.csr (0x320 + k)
  let filt := match h.mode with | .m => bit ev 62 | .s => bit ev 61 | .u => bit ev 60 | .vs => bit ev 59 | .vu => bit ev 58
  bit (h.csr 0x320) k || (h.world && !bit (h.csr 0x7C2) 4) || (3 ≤ k && filt)

/-- The event an event counter counts; 0 for none. -/
def Hart.event (h : Hart) (k : Nat) : Nat := let e := fld (h.csr (0x320 + k)) 55 0; if e ≤ 8 then e else 0

/-- One event of number `ev` is counted; an overflow raises LCOFI once. -/
def Hart.countEvent (h : Hart) (ev : Nat) : Hart :=
  (List.range 8).foldl (fun h i =>
    let k := i + 3
    if h.event k != ev || h.held? k then h
    else
      let v := h.csr (0xB00 + k) + 1
      let h := h.setCsr (0xB00 + k) v
      if v = 0 && !bit (h.csr (0x320 + k)) 63 then
        let h := h.setCsr (0x320 + k) (setBit (h.csr (0x320 + k)) 63 true)
        h.setBank { h.bank with mip := setBit h.bank.mip 13 true }
      else h) h

/-- An instruction has retired in `before`: minstret, and event 8 in second pressing. -/
def Hart.retire (h before : Hart) : Hart :=
  let h := if before.held? 2 then h else h.setCsr 0xB02 (h.csr 0xB02 + 1)
  if before.active then h.countEvent 8 else h

/-! ### Pressing -/

/-- Copy every register into its mirror row (R563). -/
def Hart.fillMirror (h : Hart) : Hart :=
  (List.range 32).foldl (fun h k =>
    { h with mx := smSet (fun _ => 0) h.mx (31 - k) (mirrored (h.xr k))
             mf := smSet (fun _ => 0) h.mf (31 - k) (mirrored (h.fr k)) }) h

/-- A write of `v` to PRESS_CTL; `detects` says that the comparator detects the injected difference (R563). -/
def State.pressWrite (s : State) (h : Nat) (v : DWord) (detects : Bool) : State :=
  let x := s.hart h
  let was := x.pressEn
  let x := x.setCsr 0x7C0 (v &&& 3)
  if !bit v 0 then s.setHart h (x.setActive false)
  else if was then s.setHart h x
  else if detects then s.setHart h (x.fillMirror.setActive true)
  else (s.setHart h (x.fillMirror.setCsr 0x7C0 (v &&& 2))).report 0x1005 (coreCtx h 0) x.pc.toNat

/-- A mismatch of class `cls`: CNT, LAST_CLASS, and fault 0x1003 when it is the fourth within 1 ms (R566). -/
def State.mismatch (s : State) (h cls : Nat) : State :=
  let x := s.hart h
  let st := x.csr 0x7C1
  let l := (s.ticks :: x.mismatches.filter fun t => s.ticks - t ≤ 500000).take 4
  let four := decide (4 ≤ l.length)
  let x := x.setCsr 0x7C1 (setFld (setFld st 23 8 (satInc (fld st 23 8) 65535)) 7 4 cls)
  let s := s.setHart h { x with mismatches := if four then [] else l }
  if four then s.report 0x1003 (coreCtx h cls) x.pc.toNat else s

/-- Upset the first of the second copy's results. -/
def upsetBy (u : DWord) : List DWord → List DWord
  | [] => []
  | v :: r => (v ^^^ u) :: r

/-- The two copies of an instruction of class `cls` have given `one` and `two`, the second upset, or its own checks have
failed (none): whether the instruction completes, and the state with what the comparison sets off; every retry is an event
(R544, R564, R565). -/
def State.press (s : State) (h cls : Nat) (one : List DWord) (two : Option (List DWord)) (upset upsetRetry : DWord) : Bool × State :=
  let x := s.hart h
  let agrees (u : DWord) : Bool := two.map (upsetBy u) == some one
  if !x.active || agrees upset then (true, s)
  else
    let s := s.mismatch h cls
    let s := if x.pressRetry then s.setHart h ((s.hart h).countEvent 7) else s
    if x.pressRetry && agrees upsetRetry then (true, s.report 0x1002 (coreCtx h cls) x.pc.toNat)
    else (false, (s.trap h 24 0).report 0x1001 (coreCtx h cls) x.pc.toNat)

/-- The hart leaves debug mode. -/
def State.debugLeave (s : State) (h : Nat) : State :=
  let x := s.hart h
  if !x.halted then s
  else s.setHart h { x with
    halted := false
    mode := Mode.of (fld (x.csr 0x7B0) 1 0) (bit (x.csr 0x7B0) 5)
    pc := x.csr 0x7B1 }

/-- The hart's cluster runs. -/
def State.hartClock (s : State) (h : Nat) : Bool := s.logicOn && s.accepts (h / 4)

/-- The hart takes instructions. -/
def State.hartRuns (s : State) (h : Nat) : Bool := s.hartClock h && !(s.hart h).halted && (s.hart h).await.isNone

/-- A hart held in reset is released by the first instruction that it is given (log 84). -/
def State.released (s : State) (h : Nat) : State := s.setHart h { s.hart h with held := false }

/-- A debug halt of a running hart, while debug is open. -/
def execDebugHaltEntry (h : HartId) (s : State) : Out :=
  .next (if s.hartRuns h && s.dbg.isOpen then s.debugEnter h 3 else s)

end Sys2Proof.Machine
end

