-- ==== Sys2Proof/Machine/HartCsr.lean ====
section
/-!
DEFINITION. The CSRs of a hart: who may reach them, what a read returns and what a write changes (R544, R550, R551, R553–R558,
R569–R571, R574, R582). Numbers, fields and privileges of the standard CSRs are those of the RISC-V privileged, AIA, Sstc and
Sscofpmf specifications (PRESUMED, log 11).
-/

namespace Sys2Proof.Machine

/-! ### Time and interrupts pending -/

/-- The time CSR: periods of 40 ns since reset release (R553). -/
def State.timeCsr (s : State) : Nat := s.ticks / 20

/-- Identities of interrupt file `f`: 0 machine, 1 supervisor, 1 + g guest file g (R550). -/
def imsicKey (f sel : Nat) : Nat := 0x10000 + f * 0x100 + sel
def Hart.fileIds (h : Hart) (f : Nat) : List Nat := smGet (fun _ => []) h.imsic f
def Hart.setFile (h : Hart) (f : Nat) (l : List Nat) : Hart := { h with imsic := smSet (fun _ => []) h.imsic f l }

/-- The lowest pending and enabled identity below the threshold; 0 for none. -/
def Hart.topId (h : Hart) (f : Nat) : Nat :=
  let thr := fld (h.csr (imsicKey f 0x72)) 10 0
  ((h.fileIds f).find? fun i => bit (h.csr (imsicKey f (0xC0 + i / 64 * 2))) (i % 64) && (thr = 0 || i < thr)).getD 0

/-- The file delivers an interrupt to its hart. -/
def Hart.fileUp (h : Hart) (f : Nat) : Bool := fld (h.csr (imsicKey f 0x70)) 0 0 = 1 && h.topId f != 0

/-- hgeip: guest files that deliver. -/
def Hart.hgeip (h : Hart) : DWord := (List.range 7).foldl (fun w g => setBit w (g + 1) (h.fileUp (g + 2))) 0

/-- hstatus.VGEIN. -/
def Hart.vgein (h : Hart) : Nat := fld (h.csr 0x600) 17 12

/-- mip of a bank: `res` is the Reserve bank, to which MEIP and MTIP belong (R571). -/
def State.mipOf (s : State) (h : Hart) (res : Bool) : DWord :=
  let b := if res then h.bankR else h.bankT
  let t := s.timeCsr
  let v := b.mip &&& 0x2222
  let hv := h.csr 0x645 &&& 0x444
  let v := setBit v 11 (res && h.fileUp 0)
  let v := setBit v 7 (res && decide ((h.csr 0x7C3).toNat ≤ t))
  let v := setBit v 9 (bit v 9 || h.fileUp 1)
  let v := if bit (h.csr 0x30A) 63 then setBit v 5 (decide ((h.csr 0x14D).toNat ≤ t)) else v
  let vt := bit (h.csr 0x60A) 63 && decide ((h.csr 0x24D).toNat ≤ (t + (h.csr 0x605).toNat) % 2 ^ 64)
  let v := setBit v 2 (bit hv 2)
  let v := setBit v 6 (bit hv 6 || vt)
  let v := setBit v 10 (bit hv 10 || bit h.hgeip h.vgein)
  setBit v 12 (h.hgeip &&& h.csr 0x607 != 0)

/-- mideleg: the VS and guest-external bits read 1. -/
def Hart.mideleg (h : Hart) : DWord := h.csr 0x303 ||| 0x1444

/-- Interrupts in order of priority. -/
def intOrder : List Nat := [11, 3, 7, 9, 1, 5, 12, 10, 2, 6, 13]

/-- The first of them in a word; none when it is 0. -/
def topInt (w : DWord) : Option Nat := intOrder.find? fun i => bit w i

/-- Machine-level interrupts pending and enabled in a bank. -/
def State.mInts (s : State) (h : Hart) (res : Bool) : DWord :=
  let b := if res then h.bankR else h.bankT
  s.mipOf h res &&& b.mie &&& ~~~h.mideleg
/-- Those delegated to HS, and those of VS at their VS positions. -/
def State.sInts (s : State) (h : Hart) : DWord := s.mipOf h h.world &&& h.bank.mie &&& h.mideleg &&& ~~~(h.csr 0x603)
def State.vsInts (s : State) (h : Hart) : DWord := (s.mipOf h h.world &&& h.bank.mie &&& h.csr 0x603 &&& 0x444) >>> 1

/-! ### Counters (R544, R582) -/

/-- A counter whose value depends on timing reads as a free value, which it then holds (log 12). -/
def State.readCounter (s : State) (h k : Nat) : DWord × State :=
  let x := s.hart h
  let timed := k = 0 || (3 ≤ k && 1 ≤ x.event k && x.event k ≤ 6)
  if timed && !x.held? k then
    let r := s.fresh
    (r.1, r.2.setHart h ((r.2.hart h).setCsr (0xB00 + k) r.1))
  else (x.csr (0xB00 + k), s)

/-! ### Who may reach a CSR -/

/-- Numbers below 0x1000 that the profile has. -/
def csrKnown (n : Nat) : Bool :=
  (1 ≤ n && n ≤ 3) || (0xC00 ≤ n && n < 0xC20)
    || [0x100, 0x104, 0x105, 0x106, 0x10A, 0x14D, 0x150, 0x151, 0x15C, 0x180, 0xDA0, 0xDB0].contains n || (0x140 ≤ n && n ≤ 0x144)
    || [0x600, 0x602, 0x603, 0x604, 0x605, 0x606, 0x607, 0x608, 0x609, 0x60A, 0x643, 0x644, 0x645, 0x646, 0x647, 0x64A, 0x680,
        0xE12].contains n
    || [0x200, 0x204, 0x205, 0x24D, 0x250, 0x251, 0x25C, 0x280, 0xEB0].contains n || (0x240 ≤ n && n ≤ 0x244)
    || (0xF11 ≤ n && n ≤ 0xF15) || n = 0xFB0
    || [0x308, 0x309, 0x30A, 0x320, 0x34A, 0x34B, 0x350, 0x351, 0x35C, 0x3A0, 0x3A2].contains n || (0x300 ≤ n && n ≤ 0x306)
    || (0x323 ≤ n && n < 0x340) || (0x340 ≤ n && n ≤ 0x344) || (0x3B0 ≤ n && n < 0x3C0)
    || n = 0xB00 || (0xB02 ≤ n && n < 0xB20) || (0x7A0 ≤ n && n ≤ 0x7A4) || (0x7C0 ≤ n && n ≤ 0x7C5)

/-- In VS and VU a supervisor CSR stands for its VS copy. -/
def vsAlias (n : Nat) : Nat :=
  if [0x100, 0x104, 0x105, 0x14D, 0x150, 0x151, 0x15C, 0x180].contains n || (0x140 ≤ n && n ≤ 0x144) then n + 0x100
  else if n = 0xDB0 then 0xEB0 else n

/-- The interrupt file that an indirect or top register reaches; none for a guest file that VGEIN does not name. -/
def Hart.fileOf (h : Hart) (n : Nat) : Option Nat :=
  if n = 0x351 || n = 0x35C then some 0 else if n = 0x151 || n = 0x15C then some 1
  else if h.vgein = 0 then none else some (1 + h.vgein)

/-- The select values that an indirect register takes. -/
def selOk (file sel : Nat) : Bool :=
  (file < 2 && 0x30 ≤ sel && sel < 0x40 && sel % 2 = 0) || sel = 0x70 || sel = 0x72 || (0x80 ≤ sel && sel < 0x100 && sel % 2 = 0)

/-- The exception of an access to CSR `n` as it stands after `vsAlias`; none when it may be made. `asked` is the number in
the instruction. -/
def Hart.csrFault (h : Hart) (asked n : Nat) (write : Bool) : Option Nat :=
  let need := asked / 256 % 4
  let have_ := match h.mode with | .m => 3 | .s => 2 | .vs => 1 | .u => 0 | .vu => 0
  let virt (b : Bool) : Option Nat := some (if b then 22 else 2)
  let st := h.bank.mstatus
  let k := n % 32
  let inner : Option Nat :=
    if !csrKnown asked || (write && asked / 1024 = 3) then some 2
    else if have_ < need then virt (h.mode.virt && need < 3)
    else if (asked = 0x180 || asked = 0x680) && h.mode = .s && bit st 20 then some 2
    else if asked = 0x180 && h.mode = .vs && bit (h.csr 0x600) 20 then some 22
    else if n ≤ 3 && (fld st 14 13 = 0 || (h.mode.virt && fld (h.csr 0x200) 14 13 = 0)) then some 2
    else if 0xC00 ≤ n && n < 0xC20 && h.mode != .m then
      if !bit (h.csr 0x306) k then some 2
      else if h.mode.virt && !bit (h.csr 0x606) k then some 22
      else if have_ = 0 && !bit (h.csr 0x106) k then virt h.mode.virt else none
    else if asked = 0x14D && h.mode != .m then
      if !bit (h.csr 0x30A) 63 || !bit (h.csr 0x306) 1 then some 2
      else if h.mode.virt && (!bit (h.csr 0x60A) 63 || !bit (h.csr 0x606) 1) then some 22 else none
    else if n = 0x351 || n = 0x151 || n = 0x251 || n = 0x35C || n = 0x15C || n = 0x25C then
      match h.fileOf n with
      | none => virt h.mode.virt
      | some f => if n % 16 = 1 && !selOk f (fld (h.csr (n - 1)) 11 0) then some 2 else none
    else if write && !h.world && (n = 0x7C0 || n = 0x7C2 || n = 0x7C5) then some 2
    else none
  inner

/-! ### Reads -/

/-- mstatus and its views: UXL and SXL read 2, SD follows FS. -/
def statusRead (v mask : DWord) (fixed : Nat) : DWord :=
  (v &&& mask) ||| dwd fixed ||| (if fld v 14 13 = 3 then dwd (2 ^ 63) else 0)
def sstatusMask : DWord := 0xC6122
def mstatusMask : DWord := 0xC0007E79AA
def hstatusMask : DWord := 0x73F3C0

/-- An indirect register of an interrupt file: the priorities read 0. -/
def Hart.imsicRead (h : Hart) (f sel : Nat) : DWord :=
  if sel < 0x40 then 0
  else if 0x80 ≤ sel && sel < 0xC0 then
    (h.fileIds f).foldl (fun w i => if i / 64 * 2 + 0x80 = sel then setBit w (i % 64) true else w) 0
  else h.csr (imsicKey f sel)

/-- PMP address register `i`: with the 4 KiB granule its low bits read 0, or 1 under NAPOT. -/
def Hart.pmpCfg (h : Hart) (i : Nat) : Nat := fld (h.csr (if i < 8 then 0x3A0 else 0x3A2)) (i % 8 * 8 + 7) (i % 8 * 8)
def Hart.pmpAddr (h : Hart) (i : Nat) : Nat :=
  let v := fld (h.csr (0x3B0 + i)) 53 0
  if h.pmpCfg i / 8 % 4 = 3 then v / 512 * 512 + 511 else v / 1024 * 1024

/-- Number of an interrupt with priority 1, as the top registers give it. -/
def topWord (o : Option Nat) : DWord := match o with | some i => dwd (i * 65536 + 1) | none => 0

/-- Key of a trigger's register: tdata1–tdata3 of the selected one. -/
def Hart.trigKey (h : Hart) (n : Nat) : Nat := 0x20000 + fld (h.csr 0x7A0) 2 0 * 16 + n % 16

/-- A CSR read by hart `h`; only counters that depend on timing change the state. -/
def State.csrRead (s : State) (hn n : Nat) : DWord × State :=
  let h := s.hart hn
  let b := h.bank
  let pure (v : DWord) : DWord × State := (v, s)
  if n = 0xC01 then pure (dwd (s.timeCsr + if h.mode.virt then (h.csr 0x605).toNat else 0))
  else if 0xC00 ≤ n && n < 0xC20 || 0xB00 ≤ n && n < 0xB20 then
    if 10 < n % 32 then pure 0 else s.readCounter hn (n % 32)
  else if n = 1 then pure (h.csr 3 &&& 0x1F) else if n = 2 then pure ((h.csr 3 >>> 5) &&& 7)
  else if n = 0x300 then pure (statusRead b.mstatus mstatusMask (10 * 2 ^ 32))
  else if n = 0x100 then pure (statusRead b.mstatus sstatusMask (2 ^ 33))
  else if n = 0x200 then pure (statusRead (h.csr 0x200) sstatusMask (2 ^ 33))
  else if n = 0x600 then pure (statusRead (h.csr 0x600 &&& ~~~0x6000#64) hstatusMask (2 ^ 33))
  else if n = 0x303 then pure h.mideleg
  else if n = 0x304 then pure b.mie else if n = 0x305 then pure b.mtvec else if n = 0x340 then pure b.mscratch
  else if n = 0x341 then pure b.mepc else if n = 0x342 then pure b.mcause else if n = 0x343 then pure b.mtval
  else if n = 0x344 then pure (s.mipOf h h.world)
  else if n = 0x104 then pure (b.mie &&& h.mideleg &&& 0x2222)
  else if n = 0x144 then pure (s.mipOf h h.world &&& h.mideleg &&& 0x2222)
  else if n = 0x604 then pure (b.mie &&& 0x1444)
  else if n = 0x644 then pure (s.mipOf h h.world &&& 0x1444)
  else if n = 0x204 then pure ((b.mie &&& h.csr 0x603 &&& 0x444) >>> 1)
  else if n = 0x244 then pure ((s.mipOf h h.world &&& h.csr 0x603 &&& 0x444) >>> 1)
  else if n = 0xE12 then pure h.hgeip
  else if n = 0xF13 then pure (dwd (s.fuse.stepMaj.toNat * 256 + s.fuse.stepMin.toNat))
  else if n = 0xF14 then pure (dwd hn)
  else if n = 0xFB0 then pure (topWord (topInt (s.mInts h h.world)))
  else if n = 0xDB0 then pure (topWord (topInt (s.sInts h)))
  else if n = 0xEB0 then pure (topWord ([9, 1, 5].find? fun i => bit (s.vsInts h) i))
  else if n = 0xDA0 then pure ((List.range 8).foldl (fun w i => setBit w (i + 3) (bit (h.csr (0x323 + i)) 63)) 0)
  else if n = 0x351 || n = 0x151 || n = 0x251 then
    pure (match h.fileOf n with | some f => h.imsicRead f (fld (h.csr (n - 1)) 11 0) | none => 0)
  else if n = 0x35C || n = 0x15C || n = 0x25C then
    pure (match h.fileOf n with | some f => dwd (h.topId f * 65537) | none => 0)
  else if 0x3B0 ≤ n && n < 0x3C0 then pure (dwd (h.pmpAddr (n - 0x3B0)))
  else if n = 0x7A1 then pure (setFld (h.csr (h.trigKey n)) 63 60 (if fld (h.csr 0x7A0) 2 0 = 4 then 3 else 6))
  else if n = 0x7A2 || n = 0x7A3 then pure (h.csr (h.trigKey n))
  else if n = 0x7A4 then pure (if fld (h.csr 0x7A0) 2 0 = 4 then 8 else 64)
  else if n = 0x7C2 then pure (if h.world then h.csr 0x7C2 else 0)
  else if n = 0x7C4 then pure 0
  else if n = 0x7C5 then
    pure (dwd (s.dbg.isOpen.toNat + s.fuse.dbgLock.toNat * 2 + s.bootRec.closeNext.toNat * 4))
  else pure (h.csr n)

/-! ### Writes -/

/-- Replace the bits of a mask. -/
def under (mask old v : DWord) : DWord := (old &&& ~~~mask) ||| (v &&& mask)

/-- mstatus: the reserved MPP code keeps the old one. -/
def mstatusWrite (old v : DWord) : DWord :=
  let w := under mstatusMask old v
  if fld w 12 11 = 2 then setFld w 12 11 (fld old 12 11) else w

/-- A translation root register takes a mode that the profile has: 0, 8 or 9. -/
def atpWrite (mask old v : DWord) : DWord := if [0, 8, 9].contains (fld v 63 60) then v &&& mask else old

/-- A trap vector takes direct or vectored mode. -/
def tvecWrite (old v : DWord) : DWord := if 2 ≤ fld v 1 0 then setFld v 1 0 (fld old 1 0) else v

/-- A PMP configuration byte: locked ones stay; NA4 becomes OFF and write without read loses the write. -/
def pmpByte (old v : Nat) : Nat :=
  if old / 128 % 2 = 1 then old
  else
    let v := v % 256 / 128 * 128 + v % 32
    let v := if v / 8 % 4 = 2 then v - 16 else v
    if v % 4 = 2 then v - 2 else v

/-- Four or eight PMP configuration bytes. -/
def pmpCfgWrite (old v : DWord) : DWord :=
  (List.range 8).foldl (fun w i => setFld w (8 * i + 7) (8 * i) (pmpByte (fld old (8 * i + 7) (8 * i)) (fld v (8 * i + 7) (8 * i)))) 0

/-- PMP address register `i` is locked, by its own entry or as the base of a locked TOR range. -/
def Hart.pmpLocked (h : Hart) (i : Nat) : Bool :=
  128 ≤ h.pmpCfg i || (i < 15 && 128 ≤ h.pmpCfg (i + 1) && h.pmpCfg (i + 1) / 8 % 4 = 1)

/-- An indirect register of an interrupt file is written. -/
def Hart.imsicWrite (h : Hart) (f sel : Nat) (v : DWord) : Hart :=
  if sel < 0x40 then h
  else if 0x80 ≤ sel && sel < 0xC0 then
    let base := (sel - 0x80) * 32
    let old := h.fileIds f
    h.setFile f ((old.filter (· < base)) ++ ((List.range 64).filter fun j => bit v j && base + j != 0).map (base + ·)
      ++ old.filter (base + 64 ≤ ·))
  else if sel = 0x70 then h.setCsr (imsicKey f sel) (v &&& 1)
  else if sel = 0x72 then h.setCsr (imsicKey f sel) (v &&& 0x7FF)
  else h.setCsr (imsicKey f sel) (if sel = 0xC0 then setBit v 0 false else v)

/-- DBG_CTL: CLOSE_NEXT into the boot state record, FUSE with its KEY while MFG_CLOSED is blown; ignored on an FZ9640-DV
(R557, R558). -/
def State.dbgWrite (s : State) (v : DWord) : State :=
  if s.fuse.dv then s
  else if bit v 3 && (fld v 31 16 != 0x9640 || !s.fuse.mfgClosed) then s
  else
    let s := if bit v 3 then { s with fuse := { s.fuse with dbgLock := true } } else s
    if bit v 2 = s.bootRec.closeNext then s else s.putRecord fun r => { r with closeNext := bit v 2 }

/-- MSI_SEND (R551). -/
def State.msiWrite (s : State) (v : DWord) : State :=
  if fld v 10 0 = 0 then s else s.sendMsi (fld v 26 24) (if bit v 19 then 0 else 1 + fld v 18 16) (fld v 10 0)

/-- A floating-point state change marks FS dirty. -/
def Hart.fsDirty (h : Hart) : Hart :=
  let h := h.setBank { h.bank with mstatus := setFld h.bank.mstatus 14 13 3 }
  if h.mode.virt then h.setCsr 0x200 (setFld (h.csr 0x200) 14 13 3) else h

/-- What a CSR write changes in the hart alone. -/
def Hart.csrWrite (h : Hart) (n : Nat) (v : DWord) : Hart :=
  let b := h.bank
  let old := h.csr n
  if n = 1 then (h.setCsr 3 (under 0x1F (h.csr 3) v)).fsDirty
  else if n = 2 then (h.setCsr 3 (under 0xE0 (h.csr 3) (v <<< 5))).fsDirty
  else if n = 3 then (h.setCsr 3 (v &&& 0xFF)).fsDirty
  else if n = 0x300 then h.setBank { b with mstatus := mstatusWrite b.mstatus v }
  else if n = 0x100 then h.setBank { b with mstatus := under sstatusMask b.mstatus v }
  else if n = 0x200 then h.setCsr n (v &&& sstatusMask)
  else if n = 0x600 then
    let w := v &&& hstatusMask
    h.setCsr n (if 7 < fld w 17 12 then setFld w 17 12 (fld old 17 12) else w)
  else if n = 0x302 then h.setCsr n (v &&& 0xF0B7FF) else if n = 0x303 then h.setCsr n (v &&& 0x2222)
  else if n = 0x602 then h.setCsr n (v &&& 0xB1FF) else if n = 0x603 || n = 0x645 then h.setCsr n (v &&& 0x444)
  else if n = 0x607 then h.setCsr n (v &&& 0xFE)
  else if n = 0x304 then h.setBank { b with mie := v &&& 0x3EEE }
  else if n = 0x344 then (h.setBank { b with mip := under 0x2222 b.mip v }).setCsr 0x645 (setBit (h.csr 0x645) 2 (bit v 2))
  else if n = 0x104 then h.setBank { b with mie := under (h.mideleg &&& 0x2222) b.mie v }
  else if n = 0x144 then h.setBank { b with mip := under (h.mideleg &&& 0x2002) b.mip v }
  else if n = 0x604 then h.setBank { b with mie := under 0x1444 b.mie v }
  else if n = 0x644 then h.setCsr 0x645 (setBit (h.csr 0x645) 2 (bit v 2))
  else if n = 0x204 then h.setBank { b with mie := under (h.csr 0x603 &&& 0x444) b.mie (v <<< 1) }
  else if n = 0x244 then if bit (h.csr 0x603) 2 then h.setCsr 0x645 (setBit (h.csr 0x645) 2 (bit v 1)) else h
  else if n = 0x305 then h.setBank { b with mtvec := tvecWrite b.mtvec v }
  else if n = 0x105 || n = 0x205 then h.setCsr n (tvecWrite old v)
  else if n = 0x340 then h.setBank { b with mscratch := v } else if n = 0x341 then h.setBank { b with mepc := v &&& ~~~1#64 }
  else if n = 0x342 then h.setBank { b with mcause := v } else if n = 0x343 then h.setBank { b with mtval := v }
  else if n = 0x141 || n = 0x241 then h.setCsr n (v &&& ~~~1#64)
  else if n = 0x180 || n = 0x280 then h.setCsr n (atpWrite 0xFFFFFFFFFFFFFFFF old v)
  else if n = 0x680 then h.setCsr n (atpWrite 0xF3FFFFFFFFFFFFFC old v)
  else if n = 0x306 || n = 0x106 || n = 0x606 then h.setCsr n (v &&& 0x7FF)
  else if n = 0x320 then h.setCsr n (v &&& 0x7FD)
  else if n = 0x30A || n = 0x60A then h.setCsr n (v &&& 0x8000000000000001)
  else if n = 0x10A then h.setCsr n (v &&& 1)
  else if (0x32B ≤ n && n < 0x340) || (0xB0B ≤ n && n < 0xB20) || n = 0x301 then h
  else if n = 0x350 || n = 0x150 || n = 0x250 then h.setCsr n (v &&& 0xFFF)
  else if n = 0x351 || n = 0x151 || n = 0x251 then
    match h.fileOf n with | some f => h.imsicWrite f (fld (h.csr (n - 1)) 11 0) v | none => h
  else if n = 0x35C || n = 0x15C || n = 0x25C then
    match h.fileOf n with | some f => h.setFile f ((h.fileIds f).filter (· != h.topId f)) | none => h
  else if n = 0x3A0 || n = 0x3A2 then h.setCsr n (pmpCfgWrite old v)
  else if 0x3B0 ≤ n && n < 0x3C0 then
    if h.pmpLocked (n - 0x3B0) then h else h.setCsr n (v &&& 0x3FFFFFFFFFFFFF)
  else if n = 0x7A0 then if v.toNat ≤ 4 then h.setCsr n v else h
  else if 0x7A1 ≤ n && n ≤ 0x7A3 then
    -- only debug mode changes a trigger of the debugger, or makes one (dmode, bit 59)
    if bit (h.csr (h.trigKey 0x7A1)) 59 && !h.halted then h
    else h.setCsr (h.trigKey n) (if n = 0x7A1 then setBit (v &&& 0x0FFFFFFFFFFFFFFF) 59 (bit v 59 && h.halted) else v)
  else if n = 0x7A4 || n = 0x7C1 then h
  else if n = 0x7C2 then h.setCsr n (under 0x1C old v)
  else if n = 0x7C3 then h.setCsr n v
  else h.setCsr n v

/-- A CSR write by hart `hn`; `detects` as for `pressWrite`. -/
def State.csrWrite (s : State) (hn n : Nat) (v : DWord) (detects : Bool) : State :=
  if n = 0x7C0 then s.pressWrite hn v detects
  else if n = 0x7C4 then s.msiWrite v
  else if n = 0x7C5 then s.dbgWrite v
  else
    let s := s.setHart hn ((s.hart hn).csrWrite n v)
    if n = 0x7C3 then
      let x := s.hart hn
      s.setHart hn { x with bankR := { x.bankR with mip := setBit x.bankR.mip 7 (decide (v.toNat ≤ s.timeCsr)) } }
    else s

end Sys2Proof.Machine
end

