-- ==== Sys2Proof/Machine/HartMem.lean ====
section
/-!
DEFINITION. How a hart reaches memory: effective mode, translation, PMP, the attributes of each region, and its accesses
(R18, R43, R545, R569, R577, R695).
-/

namespace Sys2Proof.Machine

/-- The kind of a hart's access, as translation, PMP and exceptions tell them apart. -/
inductive HAcc where
  | fetch | load | hlvx | store | amo
  deriving DecidableEq, Repr

/-- Exception causes: access fault, page fault, guest-page fault. -/
def HAcc.accessFault : HAcc → Nat | .fetch => 1 | .load => 5 | .hlvx => 5 | _ => 7
def HAcc.pageFault : HAcc → Nat | .fetch => 12 | .load => 13 | .hlvx => 13 | _ => 15
def HAcc.guestFault : HAcc → Nat | .fetch => 20 | .load => 21 | .hlvx => 21 | _ => 23
def HAcc.num : HAcc → Nat | .fetch => 0 | .load => 1 | .hlvx => 2 | .store => 3 | .amo => 4

/-- The mode whose rights a load or store uses: HLV and HSV those of the guest, M-mode under MPRV those of MPP. -/
def Hart.effMode (h : Hart) (guest : Bool) : Mode :=
  let st := h.bank.mstatus
  if guest then (if bit (h.csr 0x600) 8 then .vs else .vu)
  else if h.mode = .m && bit st 17 then Mode.of (fld st 12 11) (bit st 39) else h.mode

/-- Translation is in force in a mode. -/
def Hart.translates (h : Hart) (md : Mode) : Bool :=
  let on (n : Nat) : Bool := fld (h.csr n) 63 60 != 0
  match md with | .m => false | .s => on 0x180 | .u => on 0x180 | _ => on 0x280 || on 0x680

/-! ### PMP (R544, R545) -/

/-- First byte and end of PMP entry `i`; none when it is off. -/
def Hart.pmpRange (h : Hart) (i : Nat) : Option (Nat × Nat) :=
  let a := h.pmpCfg i / 8 % 4
  let v := h.pmpAddr i
  if a = 1 then some (if i = 0 then 0 else h.pmpAddr (i - 1) / 1024 * 4096, v / 1024 * 4096)
  else if a = 3 then
    let t := tailZeros (dwd (v + 1))
    some (v / 2 ^ (t + 1) * 2 ^ (t + 1) * 4, v / 2 ^ (t + 1) * 2 ^ (t + 1) * 4 + 2 ^ (t + 3))
  else none

/-- PMP lets mode `m` make an access of `n` bytes at `a`. -/
def Hart.pmpOk (h : Hart) (md : Mode) (k : HAcc) (a n : Nat) : Bool :=
  let touches (i : Nat) : Bool := match h.pmpRange i with | some r => decide (r.1 < a + n ∧ a < r.2) | none => false
  match firstBelow 16 touches with
  | none => md == .m
  | some i =>
    let c := h.pmpCfg i
    let whole := match h.pmpRange i with | some r => decide (r.1 ≤ a ∧ a + n ≤ r.2) | none => false
    let r := c % 2 = 1
    let w := c / 2 % 2 = 1
    let x := c / 4 % 2 = 1
    whole && ((md == .m && c < 128) || (match k with | .fetch => x | .load => r | .hlvx => r | .store => w | .amo => r && w))

/-! ### Translation (R544) -/

/-- What translation makes of an address: a physical one, a page fault, a guest-page fault, or an access fault at a page
table entry. -/
inductive XOut where
  | page (pa : Nat) | pageFault | guestFault (g : GuestInfo) | noAccess (pte : Nat)
  deriving DecidableEq, Repr

/-- Memory that holds page tables and serves misaligned accesses in hardware (R545). -/
def plainMem (a n : Nat) : Bool := within a n 0 0x10000 || within a n 0x10000000 0x12000000 || within a n 0x20000000 0x22000000

/-- The tags of a hart's own accesses. -/
def State.hartTags (s : State) (hn : Nat) : Tags := ⟨s.hartTid hn, (s.hart hn).world⟩

/-- Hart `hn` can read the page table entry at `a`. -/
def State.pteMay (s : State) (hn a : Nat) : Bool :=
  plainMem a 8 && (s.hart hn).pmpOk .s .load a 8 && s.mayRead (s.hartTags hn) a 8 && !s.anyBad a 8

/-- Bit `k` of a page table entry: 0 V, 1 R, 2 W, 3 X, 4 U, 6 A, 7 D. -/
def pteBit (p k : Nat) : Bool := p / 2 ^ k % 2 = 1

/-- A leaf entry admits an access of kind `k` by user or supervisor rights. An entry with A clear, or with D clear for a
write, faults: no Svadu (log 83). -/
def leafOk (k : HAcc) (user sum mxr : Bool) (p : Nat) : Bool :=
  (if user then pteBit p 4 else !pteBit p 4 || (sum && k != .fetch)) && pteBit p 6 &&
    match k with
    | .fetch => pteBit p 3
    | .load => pteBit p 1 || (mxr && pteBit p 3)
    | .hlvx => pteBit p 3
    | .store => pteBit p 2 && pteBit p 7
    | .amo => pteBit p 2 && pteBit p 7

/-- Walk `n` levels of page tables from the one at `root`; `g` translates the address of each entry. -/
def State.walk (s : State) (hn : Nat) (g : Nat → XOut) (ok : Nat → Bool) : Nat → Nat → Nat → XOut
  | 0, _, _ => .pageFault
  | n + 1, root, va =>
    let span := 2 ^ (12 + 9 * n)
    match g (root + va / span * 8) with
    | .page a =>
      if !s.pteMay hn a then .noAccess a
      else
        let p := s.ldLE a 8
        let ppn := p / 1024 % 2 ^ 44
        if !pteBit p 0 || (!pteBit p 1 && pteBit p 2) || 2 ^ 54 ≤ p then .pageFault
        else if pteBit p 1 || pteBit p 3 then
          if ok p && ppn % 512 ^ n = 0 then .page (ppn * 4096 + va % span) else .pageFault
        else if pteBit p 4 || pteBit p 6 || pteBit p 7 then .pageFault
        else State.walk s hn g ok n (ppn * 4096) (va % span)
    | .guestFault x => .guestFault { x with walk := true }
    | r => r

/-- The G stage: a guest physical address through hgatp, with user rights. -/
def State.gStage (s : State) (hn : Nat) (k : HAcc) (mxr : Bool) (gpa : Nat) : XOut :=
  let v := (s.hart hn).csr 0x680
  let n := fld v 63 60 - 5
  if fld v 63 60 = 0 then .page gpa
  else if 2 ^ (14 + 9 * n) ≤ gpa then .guestFault { gpa }
  else match s.walk hn .page (leafOk k true false mxr) n (fld v 43 2 * 16384) gpa with
    | .pageFault => .guestFault { gpa }
    | r => r

/-- The first or only stage: a virtual address through the root register `v`. -/
def State.firstStage (s : State) (hn : Nat) (v : DWord) (g : Nat → XOut) (ok : Nat → Bool) (va : DWord) : XOut :=
  let n := fld v 63 60 - 5
  let b := 12 + 9 * n
  if fld v 63 60 = 0 then .page va.toNat
  else if sext va.toNat b ≠ va.toInt then .pageFault
  else s.walk hn g ok n (fld v 43 0 * 4096) (va.toNat % 2 ^ b)

/-- The page tables as they stand translate an access in mode `md`. -/
def State.translate (s : State) (hn : Nat) (md : Mode) (k : HAcc) (va : DWord) : XOut :=
  let h := s.hart hn
  let st := h.bank.mstatus
  let vs := h.csr 0x200
  match md with
  | .m => .page va.toNat
  | .s => s.firstStage hn (h.csr 0x180) .page (leafOk k false (bit st 18) (bit st 19)) va
  | .u => s.firstStage hn (h.csr 0x180) .page (leafOk k true (bit st 18) (bit st 19)) va
  | _ =>
    match s.firstStage hn (h.csr 0x280) (s.gStage hn .load false) (leafOk k (md == .vu) (bit vs 18) (bit vs 19 || bit st 19)) va with
    | .page gpa => s.gStage hn k (bit st 19) gpa
    | r => r

/-- All that a translation depends on beside the page tables. -/
def Hart.tlbKey (h : Hart) (md : Mode) (k : HAcc) : List Nat :=
  [h.world.toNat, md.code + 4 * md.virt.toNat, k.num, (h.csr (if md.virt then 0x280 else 0x180)).toNat, (h.csr 0x680).toNat,
    fld h.bank.mstatus 19 18, fld (h.csr 0x200) 19 18]

/-- The physical address at which the TLB has the page of `va`. -/
def Hart.tlbHit (h : Hart) (md : Mode) (k : HAcc) (va : DWord) : Option Nat :=
  (h.tlb.find? fun e => e.page == va.toNat / 4096 && e.key == h.tlbKey md k).map fun e => e.base + va.toNat % 4096

/-- The hart keeps a translation that it has made. -/
def Hart.tlbKeep (h : Hart) (md : Mode) (k : HAcc) (va : DWord) (pa : Nat) : Hart :=
  if !h.translates md then h
  else
    let e : TlbEnt := { key := h.tlbKey md k, page := va.toNat / 4096, base := pa / 4096 * 4096 }
    { h with tlb := e :: h.tlb.filter fun x => !(x.page == e.page && x.key == e.key) }

/-- The physical address of an access, from the TLB where it may be and is held there. -/
def State.xplace (s : State) (hn : Nat) (md : Mode) (k : HAcc) (va : DWord) (tr : Xlate) : XOut :=
  match (if tr = .tlb && (s.hart hn).translates md then (s.hart hn).tlbHit md k va else none) with
  | some a => .page a
  | none => s.translate hn md k va

/-- A fault of an access before it reaches its target: cause, trap value, what a guest-page fault adds, and the page table
entry that could not be read. -/
structure HFault where
  cause : Nat
  tval : DWord
  info : GuestInfo := {}
  pte : Option Nat := none
  deriving DecidableEq, Repr

def XOut.result (k : HAcc) (va : DWord) : XOut → Except HFault Nat
  | .page a => .ok a
  | .pageFault => .error { cause := k.pageFault, tval := va }
  | .guestFault g => .error { cause := k.guestFault, tval := va, info := g }
  | .noAccess p => .error { cause := k.accessFault, tval := va, pte := some p }

/-- Physical places of an access of `n` bytes, each with its length: translation of every page that it touches, then PMP. -/
def State.reach (s : State) (hn : Nat) (md : Mode) (k : HAcc) (va : DWord) (n : Nat) (tr : Xlate) :
    Except HFault (List (Nat × Nat)) :=
  let h := s.hart hn
  let n1 := min n (4096 - va.toNat % 4096)
  let vb := va + BitVec.ofNat 64 n1
  let parts : Except HFault (List (Nat × Nat)) :=
    match (s.xplace hn md k va tr).result k va with
    | .error f => .error f
    | .ok a =>
      if n1 = n || !h.translates md then .ok [(a, n)]
      else match (s.xplace hn md k vb tr).result k vb with
        | .error f => .error f
        | .ok b => .ok (if b = a + n1 then [(a, n)] else [(a, n1), (b, n - n1)])
  match parts with
  | .error f => .error f
  | .ok l => if l.all fun p => h.pmpOk md k p.1 p.2 then .ok l else .error { cause := k.accessFault, tval := va }

/-- Hart `hn` takes the exception of a fault; a target that denied it a page table entry has reported that (R19, R698). -/
def State.raise (s : State) (hn : Nat) (f : HFault) : State :=
  let s := match f.pte with
    | some a => if !plainMem a 8 then s else if !s.mayRead (s.hartTags hn) a 8 then (s.deny (s.hartTags hn) a).2
      else if s.anyBad a 8 then s.eccReport a else s
    | none => s
  s.trap hn f.cause f.tval f.info

/-- The TLB keeps the pages of an access that has reached its places. -/
def State.keepPages (s : State) (hn : Nat) (md : Mode) (k : HAcc) (va : DWord) (l : List (Nat × Nat)) : State :=
  let h := (l.headD (0, 0)).1
  let s := s.setHart hn ((s.hart hn).tlbKeep md k va h)
  match l with
  | [_, (b, _)] => s.setHart hn ((s.hart hn).tlbKeep md k (va + 4096) b)
  | _ => s

/-! ### Fetch (R545, R577) -/

/-- A fetch of `n` bytes: whether the instruction is there, and the state with what the fetch reports or the exception that
it takes. -/
def State.fetch (s : State) (hn n : Nat) (tr : Xlate) : Bool × State :=
  let h := s.hart hn
  let t := s.hartTags hn
  let no (s : State) : Bool × State := (false, s.trap hn 1 h.pc)
  match s.reach hn h.mode .fetch h.pc n tr with
  | .error f => (false, s.raise hn f)
  | .ok l =>
    let rom (p : Nat × Nat) : Bool := within p.1 p.2 0 0x10000
    match l.find? fun p => !rom p && !within p.1 p.2 0x10000000 0x12000000 with
    | some _ => no s
    | none =>
      let l := l.filter fun p => !rom p
      match l.find? fun p => h.world && (List.range p.2).any fun i => !s.reserveMem (p.1 + i) with
      | some _ => no (s.report 0x3002 0 0 t.tid t.w)
      | none => match l.find? fun p => !s.mayRead t p.1 p.2 with
        | some p => no (s.deny t p.1).2
        | none => match l.find? fun p => s.anyBad p.1 p.2 with
          | some p => no (s.eccReport p.1)
          | none => (true, if h.translates h.mode then s.keepPages hn h.mode .fetch h.pc l else s)

/-! ### Accesses -/

/-- What a hart's access does at its target: a load, a store, or an atomic operation. -/
inductive HReq where
  | load | hlvx | store (v : DWord) | lr | sc (v : DWord) | amo (op : AmoOp) (v : DWord)
  deriving DecidableEq, Repr

def HReq.kind : HReq → HAcc | .load => .load | .hlvx => .hlvx | .lr => .load | .store _ => .store | _ => .amo
def HReq.loads (r : HReq) : Bool := r.kind == .load || r.kind == .hlvx
def HReq.atomic : HReq → Bool | .load => false | .hlvx => false | .store _ => false | _ => true
/-- Its bridge transaction and data (R526). -/
def HReq.brOp : HReq → BrOp
  | .load => .read | .hlvx => .read | .store _ => .write | .lr => .lr | .sc _ => .sc | .amo op _ => .amo op.num
def HReq.data : HReq → DWord
  | .store v => v | .sc v => v | .amo _ v => v | _ => 0

/-- An atomic operation in system SRAM: its status, the value for the destination, and the state. -/
def State.sramAtomic (s : State) (a : Acc) (hn addr n : Nat) (r : HReq) : Status × DWord × State :=
  let put (s : State) (v : DWord) (out : DWord) : Status × DWord × State :=
    let w := (s.busWrite a addr n v).1
    (w.1, out, w.2)
  match r with
  | .lr =>
    let q := s.busRead a addr n
    (q.1, q.2.1, if q.1 = .done then q.2.2.setHart hn { q.2.2.hart hn with resv := some addr } else q.2.2)
  | .sc v =>
    let ok := (s.hart hn).resv == some addr
    let s := s.setHart hn { s.hart hn with resv := none }
    if ok then put s v 0 else (.done, 1, s)
  | .amo op v =>
    let q := s.busRead a addr n
    if q.1 != .done then q
    else put q.2.2 (if n = 4 then (amoVal op (lowW q.2.1) (lowW v)).zeroExtend 64 else amoVal op q.2.1 v) q.2.1
  | _ => (.done, 0, s)

/-- An atomic operation outside system SRAM and the far dies: RANGE; an unmapped address is reported (R22, R548). -/
def State.atomicRange (s : State) (a : Acc) (addr : Nat) (load : Bool) : State :=
  let t := s.tagsOf a.who
  if a.tagFail then (s.reportAt 0x0006 addr t).finish a addr .access 0 load
  else (if mapped addr then s else s.reportAt 0x0002 addr t).finish a addr .range 0 load

/-- A misaligned access to memory that lies in two pages apart: both parts, or neither (R43, R545). -/
def State.splitAccess (s : State) (a : Acc) (r : HReq) (p q : Nat × Nat) : Status × DWord × State :=
  match r with
  | .store v =>
    let z := s.busWrite a q.1 q.2 (v >>> (8 * p.2))
    if z.1.1 != .done then (z.1.1, 0, z.1.2)
    else
      let w := z.1.2.busWrite a p.1 p.2 (v &&& BitVec.ofNat 64 (2 ^ (8 * p.2) - 1))
      if w.1.1 != .done then let w := s.busWrite a p.1 p.2 v; (w.1.1, 0, w.1.2) else (.done, 0, w.1.2)
  | _ =>
    let z := s.busRead a p.1 p.2
    if z.1 != .done then z
    else let w := z.2.2.busRead a q.1 q.2; (w.1, z.2.1 ||| (w.2.1 <<< (8 * p.2)), w.2.2)

/-- Carry out a request at its physical place, in one or two parts; `cmd` spells the instruction if it has to wait. The
hart's wait `w` is ended by the completion. -/
def State.hartRequest (s : State) (a : Acc) (hn : Nat) (r : HReq) (w : HWait) (n : Nat) (cmd : Instr) (second : Option (Nat × Nat) := none) : State :=
  let s := s.setHart hn { s.hart hn with await := some w }
  let load := r.loads
  let two := match second with
    | some q => if plainMem w.addr (n - q.2) && plainMem q.1 q.2 then some q else none
    | none => none
  match bridgeOf w.addr with
  | some b => s.brEnter a b w.addr n r.brOp r.data
  | none =>
    if r.atomic && !within w.addr n 0x10000000 0x12000000 then s.atomicRange a w.addr load
    else if s.mustWait (islandOf w.addr) then s.park (islandOf w.addr) cmd (.access a w.addr load)
    else match two with
      | some q =>
        if s.mustWait (islandOf q.1) then s.park (islandOf q.1) cmd (.access a w.addr load)
        else let z := s.splitAccess a r (w.addr, n - q.2) q; z.2.2.finish a w.addr z.1 z.2.1 load
      | none =>
        match r with
        | .store v => let q := s.busWrite a w.addr n v; if q.2 then q.1.2 else q.1.2.finish a w.addr q.1.1
        | .load => let q := s.busRead a w.addr n; q.2.2.finish a w.addr q.1 q.2.1 true
        | .hlvx => let q := s.busRead a w.addr n; q.2.2.finish a w.addr q.1 q.2.1 true
        | _ => let q := s.sramAtomic a hn w.addr n r; q.2.2.finish a w.addr q.1 q.2.1 load

/-- A hart's data access: alignment of an atomic one, translation, PMP, and the request. -/
def State.hartAccess (s : State) (hn : Nat) (h8 : HartId) (tagFail guest : Bool) (r : HReq) (va : DWord) (n : Nat) (tr : Xlate)
    (w : HWait) (cmd : Instr) : State :=
  let md := (s.hart hn).effMode guest
  if r.atomic && va.toNat % n != 0 then s.trap hn (if r = .lr then 4 else 6) va
  else match s.reach hn md r.kind va n tr with
    | .error f => s.raise hn f
    | .ok l =>
      let s := if (s.hart hn).translates md then s.keepPages hn md r.kind va l else s
      s.hartRequest ⟨.hart h8, tagFail⟩ hn r { w with addr := (l.headD (0, 0)).1, va := va } n cmd
        (match l with | [_, q] => some q | _ => none)

end Sys2Proof.Machine
end

