-- ==== Sys2Proof/Machine/Lanes.lean ====
section
/-!
DEFINITION. The second copies of second pressing: each class of instructions computed again on transformed data (R561).
-/

namespace Sys2Proof.Machine

/-! ### Class 1: operands shifted left by 2 in a lane of 66 bits -/

abbrev Lane := BitVec 66

/-- An operand in its lane. -/
def lane (v : DWord) : Lane := v.zeroExtend 66 <<< 2
/-- The lane of a number, and one with its bits [65:2] set. -/
def laneNat (n : Nat) : Lane := BitVec.ofNat 66 (n * 4)
def laneOnes : Lane := BitVec.allOnes 66 <<< 2
/-- Complement of the bits that carry the operand. -/
def laneNot (b : Lane) : Lane := b ^^^ laneOnes
/-- A W form extends from lane bit 33. -/
def laneW (r : Lane) : Lane := (r.truncate 34).signExtend 66
/-- The low 32 bits of an operand. -/
def laneUw (a : Lane) : Lane := a &&& laneNat 0xFFFFFFFF

/-- An operation of class 1 on two lanes. -/
def laneAlu (op : AluOp) (a b : Lane) : Lane :=
  match op with
  | .add => a + b | .sub => a - b | .and => a &&& b | .or => a ||| b | .xor => a ^^^ b
  | .slt => if a.slt b then 4 else 0
  | .sltu => if a < b then 4 else 0
  | .addw => laneW (a + b) | .subw => laneW (a - b)
  | .andn => a &&& laneNot b | .orn => a ||| laneNot b | .xnor => laneNot (a ^^^ b)
  | .min => if a.slt b then a else b | .max => if a.slt b then b else a
  | .minu => if a < b then a else b | .maxu => if a < b then b else a
  | .sextb => (a.truncate 10).signExtend 66 | .sexth => (a.truncate 18).signExtend 66 | .zexth => (a.truncate 18).zeroExtend 66
  | .clz => laneNat ((firstBelow 64 fun i => a.getLsbD (65 - i)).getD 64)
  | .ctz => laneNat ((firstBelow 64 fun i => a.getLsbD (i + 2)).getD 64)
  | .cpop => laneNat (countBelow 64 fun i => a.getLsbD (i + 2))
  | .clzw => laneNat ((firstBelow 32 fun i => a.getLsbD (33 - i)).getD 32)
  | .ctzw => laneNat ((firstBelow 32 fun i => a.getLsbD (i + 2)).getD 32)
  | .cpopw => laneNat (countBelow 32 fun i => a.getLsbD (i + 2))
  | .sh1add => (a <<< 1) + b | .sh2add => (a <<< 2) + b | .sh3add => (a <<< 3) + b
  | .adduw => laneUw a + b | .sh1adduw => (laneUw a <<< 1) + b | .sh2adduw => (laneUw a <<< 2) + b
  | .sh3adduw => (laneUw a <<< 3) + b
  | .slliuw => laneUw a <<< ((b >>> 2).toNat % 64)
  | .czeroeqz => if b = 0 then 0 else a
  | .czeronez => if b = 0 then a else 0
  | _ => 0

/-- What a lane gives: its bits [65:2]; none when bits [1:0] are not 0. -/
def laneOut (r : Lane) : Option DWord := if r &&& 3 = 0 then some ((r >>> 2).truncate 64) else none

/-- A sum formed as class 1, as addresses, targets and link values are. -/
def laneSum (a b : DWord) : Option DWord := laneOut (lane a + lane b)

/-- A branch condition on two lanes. -/
def laneTaken (c : BrCond) (a b : Lane) : Bool :=
  match c with
  | .eq => a == b | .ne => a != b | .lt => a.slt b | .ge => !a.slt b | .ltu => decide (a < b) | .geu => !decide (a < b)

/-! ### Class 2: the operand complemented, and the result -/

/-- Shifts whose vacated positions take the complement of the normal fill. -/
def shlOnes {n : Nat} (v : BitVec n) (k : Nat) : BitVec n := (v <<< k) ||| ~~~(BitVec.allOnes n <<< k)
def shrOnes {n : Nat} (v : BitVec n) (k : Nat) : BitVec n := (v >>> k) ||| ~~~(BitVec.allOnes n >>> k)

/-- An operation of class 2; bset and bclr exchange roles, and bext complements bit 0 alone. -/
def notAlu (op : AluOp) (a b : DWord) : DWord :=
  let n := ~~~a
  let nw := ~~~(lowW a)
  let sh := b.toNat % 64
  let shw := b.toNat % 32
  match op with
  | .sll => ~~~(shlOnes n sh) | .srl => ~~~(shrOnes n sh) | .sra => ~~~(n.sshiftRight sh)
  | .sllw => extW (~~~(shlOnes nw shw)) | .srlw => extW (~~~(shrOnes nw shw)) | .sraw => extW (~~~(nw.sshiftRight shw))
  | .rol => ~~~(n.rotateLeft sh) | .ror => ~~~(n.rotateRight sh)
  | .rolw => extW (~~~(nw.rotateLeft shw)) | .rorw => extW (~~~(nw.rotateRight shw))
  | .bset => ~~~(n &&& ~~~(bitAt b)) | .bclr => ~~~(n ||| bitAt b) | .binv => ~~~(n ^^^ bitAt b)
  | .bext => ((n >>> sh) &&& 1) ^^^ 1
  | .rev8 => ~~~(dwd (leNat (leBytes 8 n.toNat).reverse))
  | _ => 0

/-! ### Class 3: the operands exchanged between the multiplier's ports -/

def swapMul (op : AluOp) (a b : DWord) : DWord :=
  match op with
  | .mulhsu => BitVec.ofInt 64 (b.toNat * a.toInt / 2 ^ 64)
  | _ => alu op b a

/-! ### Class 4: the multiplier checks the quotient and the remainder -/

/-- Dividend, divisor, quotient and remainder agree: n = q × d + r with |r| < |d| and r of the sign of n; by zero and on
overflow, the results that the instruction set fixes. -/
def divAgrees (signed : Bool) {w : Nat} (n d q r : BitVec w) : Bool :=
  let v (x : BitVec w) : Int := if signed then x.toInt else x.toNat
  if d = 0 then q == BitVec.allOnes w && r == n
  else if signed && n == BitVec.intMin w && d == BitVec.allOnes w then q == n && r == 0
  else v n == v q * v d + v r && decide ((v r).natAbs < (v d).natAbs) && (r == 0 || decide (v r < 0) == decide (v n < 0))

/-- The second copy of a division: the first's result where it stands the check against the mirrored operands. -/
def checkDiv (op : AluOp) (n d : DWord) (q r first : DWord) : Option DWord :=
  let ok := match op with
    | .div => divAgrees true n d q r | .rem => divAgrees true n d q r
    | .divu => divAgrees false n d q r | .remu => divAgrees false n d q r
    | .divw => divAgrees true (lowW n) (lowW d) (lowW q) (lowW r) | .remw => divAgrees true (lowW n) (lowW d) (lowW q) (lowW r)
    | _ => divAgrees false (lowW n) (lowW d) (lowW q) (lowW r)
  if ok then some first else none

/-- Quotient and remainder of the division that an operation belongs to. -/
def divPair (op : AluOp) (n d : DWord) : DWord × DWord :=
  match op with
  | .div => (alu .div n d, alu .rem n d) | .rem => (alu .div n d, alu .rem n d)
  | .divu => (alu .divu n d, alu .remu n d) | .remu => (alu .divu n d, alu .remu n d)
  | .divw => (alu .divw n d, alu .remw n d) | .remw => (alu .divw n d, alu .remw n d)
  | _ => (alu .divuw n d, alu .remuw n d)

/-- The second copy of an integer operation: its mirrored operands `a` and `b`, and the first copy's `n` and `d`. -/
def alu2 (op : AluOp) (a b n d : DWord) : Option DWord :=
  if op.pressClass = 1 then laneOut (laneAlu op (lane a) (lane b))
  else if op.pressClass = 2 then some (notAlu op a b)
  else if op.pressClass = 3 then some (swapMul op a b)
  else let p := divPair op n d; checkDiv op a b p.1 p.2 (alu op n d)

end Sys2Proof.Machine
end

