-- ==== Sys2Proof/Machine/Triggers.lean ====
section
/-!
DEFINITION. The triggers of a hart: four of type mcontrol6 and one of type icount (R556), with the fields and the firing rules
of the RISC-V External Debug Support specification (PRESUMED, log 11).
-/

namespace Sys2Proof.Machine

/-- tdata`r` of trigger `k`. -/
def Hart.tdata (h : Hart) (k r : Nat) : DWord := h.csr (0x20000 + k * 16 + r)
def Hart.setTdata1 (h : Hart) (k : Nat) (v : DWord) : Hart := h.setCsr (0x20000 + k * 16 + 1) v

/-- The addresses that an instruction accesses, as a load and as a store. -/
structure TrigAccess where
  load : Option DWord := none
  store : Option DWord := none
  deriving DecidableEq, Repr

/-- The access of an instruction, whose first compared value is `va`. -/
def trigAccess (op : HartOp) (va : DWord) : TrigAccess :=
  match op with
  | .load _ _ _ _ _ _ _ => { load := some va } | .hlvx _ _ _ _ => { load := some va } | .fload _ _ _ _ _ => { load := some va }
  | .lr _ _ _ _ => { load := some va } | .store _ _ _ _ _ _ => { store := some va } | .fstore _ _ _ _ _ => { store := some va }
  | .sc _ _ _ _ _ => { store := some va } | .amo _ _ _ _ _ _ => { load := some va, store := some va }
  | _ => {}

/-- A compare value by the match field: equal, NAPOT, at least, below, masked low and high half; from 8 on, the opposite. -/
def trigMatch (kind : Nat) (c v : DWord) : Bool :=
  let low (x : DWord) : Nat := fld x 31 0 &&& fld c 63 32
  let hit := match kind % 8 with
    | 0 => v == c
    | 1 => let k := 2 ^ (tailZeros (~~~c) + 1); v.toNat / k == c.toNat / k
    | 2 => decide (c ≤ v)
    | 3 => decide (v < c)
    | 4 => low v == fld c 31 0
    | 5 => low (v >>> 32) == fld c 31 0
    | _ => false
  hit != (8 ≤ kind : Bool)

/-- Trigger `k` of type mcontrol6 matches on its address, with the value that it matched. -/
def Hart.trigHit (h : Hart) (k : Nat) (x : TrigAccess) : Option DWord :=
  let d := h.tdata k 1
  let on := match h.mode with | .m => bit d 6 | .s => bit d 4 | .u => bit d 3 | .vs => bit d 24 | .vu => bit d 23
  let cands := (if bit d 2 then [h.pc] else []) ++ (if bit d 0 then x.load.toList else []) ++ (if bit d 1 then x.store.toList else [])
  if on && !bit d 21 then cands.find? (trigMatch (fld d 10 7) (h.tdata k 2)) else none

/-- Triggers chained up to `k` all match. -/
def Hart.chainHit (h : Hart) (x : TrigAccess) : Nat → Bool
  | 0 => (h.trigHit 0 x).isSome
  | k + 1 => (h.trigHit (k + 1) x).isSome && (!bit (h.tdata k 1) 11 || h.chainHit x k)

/-- An action may be taken: debug mode by a trigger of the debugger while debug is open, a breakpoint exception outside
M-mode or with MIE set. -/
def State.trigMay (s : State) (h : Hart) (d : DWord) (action : Nat) : Bool :=
  if action = 1 then bit d 59 && s.dbg.isOpen else action == 0 && (h.mode != .m || bit h.bank.mstatus 3)

/-- Action 1 enters debug mode, action 0 raises a breakpoint exception. -/
def State.trigAct (s : State) (hn action : Nat) (tval : DWord) : State :=
  if action = 1 then s.debugEnter hn 2 else s.trap hn 3 tval

/-- The mcontrol6 trigger that fires before an instruction: its state after that; none when none fires. -/
def State.trigBefore (s : State) (hn : Nat) (x : TrigAccess) : Option State :=
  let h := s.hart hn
  let fires (k : Nat) : Bool := !bit (h.tdata k 1) 11 && h.chainHit x k && s.trigMay h (h.tdata k 1) (fld (h.tdata k 1) 15 12)
  (firstBelow 4 fires).map fun k =>
    let d := h.tdata k 1
    (s.setHart hn (h.setTdata1 k (setBit d 22 true))).trigAct hn (fld d 15 12) ((h.trigHit k x).getD h.pc)

/-- The icount trigger counts in a mode. -/
def icountOn (d : DWord) : Mode → Bool | .m => bit d 9 | .s => bit d 7 | .u => bit d 6 | .vs => bit d 26 | .vu => bit d 25

/-- The icount trigger is pending and fires in place of the next instruction. -/
def State.icountFire (s : State) (hn : Nat) : Option State :=
  let h := s.hart hn
  let d := h.tdata 4 1
  if bit d 8 && icountOn d h.mode && s.trigMay h d (fld d 5 0) then
    some ((s.setHart hn (h.setTdata1 4 (setBit (setBit d 8 false) 24 true))).trigAct hn (fld d 5 0) h.pc)
  else none

/-- An instruction begun in the state `before` has ended: the count goes down, and from 1 to 0 the trigger is pending. -/
def Hart.icountStep (h before : Hart) : Hart :=
  let d := h.tdata 4 1
  let n := fld d 23 10
  if n = 0 || h.halted || !icountOn d before.mode then h
  else h.setTdata1 4 (setBit (setFld d 23 10 (n - 1)) 8 (bit d 8 || n == 1))

end Sys2Proof.Machine
end

