-- ==== Sys2Proof/Machine/Harts.lean ====
section
/-!
DEFINITION. What a hart executes: instructions, plainly or in second pressing, WCALL, MRET and monitor entry, interrupts, the
writes of its custom CSRs, and the debug module (R544–R574).
-/

namespace Sys2Proof

/-- The value of a second operand. -/
def Src2.val (v : Machine.RegView) : Src2 → DWord
  | .reg r => v.x r.val
  | .imm k => k

/-- Bytes of the instruction. -/
def HartStep.len (i : HartStep) : Nat := if i.compressed then 2 else 4

/-- Trap value of an illegal or virtual instruction: its word, where the operand gives it. -/
def HartOp.word : HartOp → DWord
  | .illegal w => w.zeroExtend 64
  | .fp w _ _ _ _ => w.zeroExtend 64
  | .fpToX w _ _ _ => w.zeroExtend 64
  | .xToFp w _ _ => w.zeroExtend 64
  | _ => 0

end Sys2Proof

namespace Sys2Proof.Machine

/-! ### Monitor entry and returns (R571–R574) -/

/-- Enter the monitor: PW holds the world left, W becomes 1, and the trap is made in the Reserve bank. -/
def Hart.monitorEntry (h : Hart) (cause : Nat) (isInt : Bool) : Hart :=
  (h.setCsr 0x7C2 (setFld (h.csr 0x7C2) 1 0 (1 + h.world.toNat * 2))).trapM cause isInt 0

/-- A return clears MPRV when it leaves M-mode. -/
def mprvAfter (st : DWord) (md : Mode) : DWord := if md = .m then st else setBit st 17 false

/-- MRET: through the bank active before it; in the Reserve world W then becomes RW. -/
def Hart.mret (h : Hart) : Hart :=
  let b := h.bank
  let md := Mode.of (fld b.mstatus 12 11) (bit b.mstatus 39)
  let st := setBit (setBit b.mstatus 3 (bit b.mstatus 7)) 7 true
  let st := mprvAfter (setBit (setFld st 12 11 0) 39 false) md
  let h1 := { h.setBank { b with mstatus := st } with mode := md, pc := b.mepc }
  if h.world then h1.setCsr 0x7C2 (setBit (h1.csr 0x7C2) 0 (bit (h1.csr 0x7C2) 2)) else h1

/-- SRET from M or HS, and from VS. -/
def Hart.sret (h : Hart) : Hart :=
  let back (st : DWord) : DWord := setBit (setBit (setBit st 1 (bit st 5)) 5 true) 8 false
  if h.mode.virt then
    let vs := h.csr 0x200
    { h.setCsr 0x200 (back vs) with mode := if bit vs 8 then .vs else .vu, pc := h.csr 0x241 }
  else
    let b := h.bank
    let md := Mode.of (if bit b.mstatus 8 then 1 else 0) (bit (h.csr 0x600) 7)
    let h1 := (h.setCsr 0x600 (setBit (h.csr 0x600) 7 false)).setBank { b with mstatus := mprvAfter (back b.mstatus) md }
    { h1 with mode := md, pc := h.csr 0x141 }

/-- Take the pending and enabled interrupt of the highest priority, if there is one: one of the Reserve bank enters the
monitor from the Table world. -/
def State.takeInterrupt (s : State) (hn : Nat) : State :=
  let h := s.hart hn
  let b := h.bank
  let mOn := h.mode != .m || bit b.mstatus 3
  let sOn := h.mode == .u || h.mode.virt || (h.mode == .s && bit b.mstatus 1)
  let vOn := h.mode == .vu || (h.mode == .vs && bit (h.csr 0x200) 1)
  match (if h.world then none else topInt (s.mInts h true)), topInt (s.mInts h h.world), topInt (s.sInts h),
      [9, 1, 5].find? fun i => bit (s.vsInts h) i with
  | some i, _, _, _ => s.setHart hn (h.monitorEntry i true)
  | none, some i, _, _ =>
    if mOn then s.setHart hn (h.trapM i true 0) else s
  | none, none, some i, _ => if sOn then s.setHart hn (h.trapS i true 0) else s
  | none, none, none, some i => if vOn then s.setHart hn (h.trapVS i true 0) else s
  | none, none, none, none => s

/-! ### What an instruction computes from its registers -/

/-- frm. -/
def Hart.frm (h : Hart) : Nat := fld (h.csr 3) 7 5

/-- The floating-point unit's result, and the flags it raises. -/
def Hart.fpu (h : Hart) (word : BitVec 32) (a b c : DWord) : DWord × DWord := fpuOf word h.frm a b c

/-- The unit with its operands exchanged, for the operations that do so in the second copy. -/
def Hart.fpu2 (h : Hart) (word : BitVec 32) (a b c : DWord) : DWord × DWord :=
  let swaps := match fpDecode word with
    | some (op, _) => [FpOp.add, .mul, .min, .max, .eq, .madd, .msub, .nmsub, .nmadd].contains op
    | none => false
  if swaps then h.fpu word b a c else h.fpu word a b c

/-- The class of an instruction and the values that second pressing compares, as one copy forms them (R561). -/
def Hart.copy (h : Hart) (i : HartStep) (v : RegView) : Nat × List DWord :=
  let link := h.pc + dwd i.len
  match i.op with
  | .int op _ rs1 b => (op.pressClass, [alu op (v.x rs1) (b.val v)])
  | .orcb _ rs1 => (8, [orcb (v.x rs1)])
  | .lui _ k => (1, [k])
  | .auipc _ k => (1, [h.pc + k])
  | .load _ rs1 off _ _ _ _ => (5, [v.x rs1 + off])
  | .hlvx _ rs1 _ _ => (5, [v.x rs1])
  | .fload _ rs1 off _ _ => (5, [v.x rs1 + off])
  | .store rs1 rs2 off _ _ _ => (5, [v.x rs1 + off, v.x rs2])
  | .fstore rs1 fs2 off _ _ => (5, [v.x rs1 + off, v.f fs2])
  | .lr _ rs1 _ _ => (5, [v.x rs1])
  | .sc _ rs1 rs2 _ _ => (5, [v.x rs1, v.x rs2])
  | .amo _ _ rs1 rs2 _ _ => (5, [v.x rs1, v.x rs2])
  | .branch c rs1 rs2 off => (6, [if brTaken c (v.x rs1) (v.x rs2) then h.pc + off else link])
  | .jal _ off => (6, [h.pc + off, link])
  | .jalr _ rs1 off => (6, [(v.x rs1 + off) &&& ~~~1#64, link])
  | .fp w _ a b c => let r := h.fpu w (v.f a) (v.f b) (v.f c); (7, [r.1, r.2])
  | .fpToX w _ a b => let r := h.fpu w (v.f a) (v.f b) 0; (7, [r.1, r.2])
  | .xToFp w _ a => let r := h.fpu w (v.x a) 0 0; (7, [r.1, r.2])
  | .csr _ _ _ src => (8, [src.val v])
  | _ => (8, [0])

/-- The second copy, on the mirrored registers `v`, with the transform of its class; none when a lane's low bits are not 0
or a division fails its check (R561). -/
def Hart.copy2 (h : Hart) (i : HartStep) (v : RegView) : Option (List DWord) :=
  let sum (a b : DWord) (rest : List DWord) : Option (List DWord) := (laneSum a b).map (· :: rest)
  let link := laneSum h.pc (dwd i.len)
  match i.op with
  | .int op _ rs1 b => (alu2 op (v.x rs1) (b.val v) (h.xr rs1) (b.val h.view)).map fun r => [r]
  | .lui _ k => sum k 0 []
  | .auipc _ k => sum h.pc k []
  | .load _ rs1 off _ _ _ _ => sum (v.x rs1) off []
  | .hlvx _ rs1 _ _ => sum (v.x rs1) 0 []
  | .fload _ rs1 off _ _ => sum (v.x rs1) off []
  | .store rs1 rs2 off _ _ _ => sum (v.x rs1) off [v.x rs2]
  | .fstore rs1 fs2 off _ _ => sum (v.x rs1) off [v.f fs2]
  | .lr _ rs1 _ _ => sum (v.x rs1) 0 []
  | .sc _ rs1 rs2 _ _ => sum (v.x rs1) 0 [v.x rs2]
  | .amo _ _ rs1 rs2 _ _ => sum (v.x rs1) 0 [v.x rs2]
  | .branch c rs1 rs2 off =>
    (if laneTaken c (lane (v.x rs1)) (lane (v.x rs2)) then laneSum h.pc off else link).map fun r => [r]
  | .jal _ off => link.bind fun l => sum h.pc off [l]
  | .jalr _ rs1 off => link.bind fun l => (laneSum (v.x rs1) off).map fun r => [r &&& ~~~1#64, l]
  | .fp w _ a b c => let r := h.fpu2 w (v.f a) (v.f b) (v.f c); some [r.1, r.2]
  | .fpToX w _ a b => let r := h.fpu2 w (v.f a) (v.f b) 0; some [r.1, r.2]
  | .xToFp w _ a => let r := h.fpu2 w (v.x a) 0 0; some [r.1, r.2]
  | _ => some (h.copy i v).2

/-! ### Legality -/

/-- Floating point is off. -/
def Hart.fpOff (h : Hart) : Bool :=
  fld h.bank.mstatus 14 13 = 0 || (h.mode.virt && fld (h.csr 0x200) 14 13 = 0)

/-- A virtual-instruction exception in VS or VU, else an illegal-instruction exception. -/
def Hart.badMode (h : Hart) : Option Nat := some (if h.mode.virt then 22 else 2)

/-- The exception that an instruction raises before it does anything; none when it may run. -/
def Hart.illegal? (h : Hart) (i : HartStep) : Option Nat :=
  let st := h.bank.mstatus
  let hs := h.csr 0x600
  let low := h.mode == .u || h.mode == .vu
  let fpBad (w : BitVec 32) (k : FpKind) : Bool := h.fpOff || !fpLegal w h.frm k
  let gl : Option Nat := if h.mode.virt then some 22 else if h.mode = .u && !bit hs 9 then some 2 else none
  match i.op with
  | .load _ _ _ _ _ g _ => if g then gl else none
  | .hlvx _ _ _ _ => gl
  | .store _ _ _ _ g _ => if g then gl else none
  | .fload _ _ _ _ _ => if h.fpOff then some 2 else none
  | .fstore _ _ _ _ _ => if h.fpOff then some 2 else none
  | .fp w _ _ _ _ => if fpBad w .toF then some 2 else none
  | .fpToX w _ _ _ => if fpBad w .toX then some 2 else none
  | .xToFp w _ _ => if fpBad w .fromX then some 2 else none
  | .csr op _ n src =>
    let w := op == .write || (match src with | .reg r => r.val != 0 | .imm k => k != 0)
    h.csrFault n.toNat (if h.mode.virt then vsAlias n.toNat else n.toNat) w
  | .wfi => if h.mode != .m && bit st 21 then some 2 else if h.mode = .vu || (h.mode = .vs && bit hs 21) then some 22
      else if h.mode = .u then some 2 else none
  | .mret => if h.mode = .m then none else some 2
  | .sret => if low then h.badMode else if h.mode = .s && bit st 22 then some 2
      else if h.mode = .vs && bit hs 22 then some 22 else none
  | .sfence => if low then h.badMode else if h.mode = .s && bit st 20 then some 2
      else if h.mode = .vs && bit hs 20 then some 22 else none
  | .hfence => if h.mode.virt then some 22 else if h.mode = .u then some 2 else none
  | .illegal _ => some 2
  | _ => none

/-- The cause of ECALL. -/
def Mode.ecall : Mode → Nat | .u => 8 | .vu => 8 | .s => 9 | .vs => 10 | .m => 11

/-- EBREAK enters debug mode: debug is open, and dcsr names the mode. -/
def State.ebreaks (s : State) (h : Hart) : Bool :=
  s.dbg.isOpen && bit (h.csr 0x7B0) (match h.mode with | .m => 15 | .s => 13 | .u => 12 | .vs => 17 | .vu => 16)

/-! ### Execution -/

/-- A CSR instruction. -/
def State.csrInstr (s : State) (hn : Nat) (op : CsrOp) (rd n : Nat) (src : Src2) (v : DWord) (detects : Bool) (next : DWord) :
    State :=
  let h := s.hart hn
  let n := if h.mode.virt then vsAlias n else n
  let r := s.csrRead hn n
  let old := r.1
  let hit := op == .write || (match src with | .reg k => k.val != 0 | .imm k => k != 0)
  let new := match op with | .write => v | .set => old ||| v | .clear => old &&& ~~~v
  let new := if n = 0x344 && op != .write then (if op == .set then h.bank.mip ||| v else h.bank.mip &&& ~~~v) else new
  let x := { (r.2.hart hn).setX rd old with pc := next }
  let x := if n = 0xB02 && hit then x else x.retire h
  let s := r.2.setHart hn x
  if hit then s.csrWrite hn n new detects else s

/-- An instruction that has been fetched, is legal and has passed its comparison. `cmd` spells it if an access must wait. -/
def State.perform (s : State) (h8 : HartId) (i : HartStep) (cmd : Instr) : State :=
  let hn := h8.val
  let h := s.hart hn
  let v := h.view
  let next := h.pc + dwd i.len
  let done (x : Hart) : State := s.setHart hn (x.retire h)
  let put (rd : Nat) (r : DWord) : State := done { h.setX rd r with pc := next }
  let flags (h : Hart) (f : DWord) : Hart := if f = 0 then h else h.setCsr 3 (h.csr 3 ||| f)
  let access (guest : Bool) (r : HReq) (va : DWord) (n : Nat) (tr : Xlate) (w : HWait) : State :=
    (s.setHart hn (h.retire h)).hartAccess hn h8 i.tagFail guest r va n tr w cmd
  let vals := (h.copy i v).2
  let r0 := vals.headD 0
  let r1 := vals.getD 1 0
  match i.op with
  | .int _ rd _ _ => put rd r0
  | .orcb rd _ => put rd r0
  | .lui rd _ => put rd r0
  | .auipc rd _ => put rd r0
  | .load rd _ _ l2 signed guest tr =>
    access guest .load r0 (2 ^ l2.val) tr { addr := 0, va := 0, rd := rd, bytes := 2 ^ l2.val, signed, load := true, next }
  | .hlvx rd _ wide tr =>
    let n := if wide then 4 else 2
    access true .hlvx r0 n tr { addr := 0, va := 0, rd := rd, bytes := n, load := true, next }
  | .fload fd _ _ wide tr =>
    let n := if wide then 8 else 4
    let s := s.setHart hn (h.retire h).fsDirty
    s.hartAccess hn h8 i.tagFail false .load r0 n tr
      { addr := 0, va := 0, rd := fd, fp := true, bytes := n, load := true, next } cmd
  | .store _ _ _ l2 guest tr => access guest (.store r1) r0 (2 ^ l2.val) tr { addr := 0, va := 0, next }
  | .fstore _ _ _ wide tr => access false (.store r1) r0 (if wide then 8 else 4) tr { addr := 0, va := 0, next }
  | .lr rd _ wide tr =>
    let n := if wide then 8 else 4
    access false .lr r0 n tr { addr := 0, va := 0, rd := rd, bytes := n, signed := true, load := true, next }
  | .sc rd _ _ wide tr => access false (.sc r1) r0 (if wide then 8 else 4) tr { addr := 0, va := 0, rd := rd, next }
  | .amo op rd _ _ wide tr =>
    let n := if wide then 8 else 4
    access false (.amo op r1) r0 n tr { addr := 0, va := 0, rd := rd, bytes := n, signed := true, next }
  | .branch _ _ _ _ => done { h with pc := r0 }
  | .jal rd _ => done { h.setX rd r1 with pc := r0 }
  | .jalr rd _ _ => done { h.setX rd r1 with pc := r0 }
  | .fp _ fd _ _ _ => done { (flags (h.setF fd r0) r1).fsDirty with pc := next }
  | .fpToX _ rd _ _ => done { (if r1 = 0 then h.setX rd r0 else (flags (h.setX rd r0) r1).fsDirty) with pc := next }
  | .xToFp _ fd _ => done { (flags (h.setF fd r0) r1).fsDirty with pc := next }
  | .csr op rd n src => s.csrInstr hn op rd n.toNat src r0 i.detects next
  | .ecall => s.trap hn h.mode.ecall 0
  | .ebreak => if s.ebreaks h then s.debugEnter hn 1 else s.trap hn 3 h.pc
  | .mret => done h.mret
  | .sret => done h.sret
  | .fence => done { h with pc := next }
  | .fenceI => done { h with pc := next }
  | .sfence => done { h with pc := next, tlb := [] }
  | .hfence => done { h with pc := next, tlb := [] }
  | .wfi => done { h with pc := next }
  | .illegal _ => s
  | .interrupt => s

/-- An instruction that has been fetched: triggers before it, the comparison of second pressing, legality, effect; after it
the count of the icount trigger. -/
def State.hartRun (s : State) (h8 : HartId) (i : HartStep) (cmd : Instr) : State :=
  let hn := h8.val
  let h := s.hart hn
  let one := h.copy i h.view
  match s.trigBefore hn (trigAccess i.op (one.2.headD 0)) with
  | some s => s
  | none =>
    let p := s.press hn one.1 one.2 (h.copy2 i h.mirrorView) i.upset i.upsetRetry
    if !p.1 then p.2
    else
      let t := match h.illegal? i with
        | some c => p.2.trap hn c i.op.word
        | none => p.2.perform h8 i cmd
      t.setHart hn ((t.hart hn).icountStep h)

/-- One instruction of a hart, or an interrupt in its place. -/
def State.hartStep (s : State) (h8 : HartId) (i : HartStep) (cmd : Instr) : State :=
  let hn := h8.val
  if i.op = .interrupt then s.takeInterrupt hn
  else match s.icountFire hn with
    | some s => s
    | none =>
      let f := s.fetch hn i.len i.fetch
      if !f.1 then f.2 else f.2.hartRun h8 i cmd

/-- A hart that has halt-on-reset set enters debug mode before its first instruction (R556). -/
def State.resetHalts (s : State) (h : Nat) : Bool := (s.hart h).held && (s.hart h).resetHalt && s.dbg.isOpen

/-- A hart runs `f`: one held in reset is released by its first instruction, and a single step ends in debug mode, at once
or when the access under way has ended. -/
def State.hartDo (s : State) (h : HartId) (f : State → State) : Out :=
  .next (if !s.hartRuns h then s
    else if s.resetHalts h then (s.released h).debugEnter h 5
    else
      let t := f (s.released h)
      if t.hartRuns h then t.stepEnd h else t)

/-- A hart executes an instruction. One that has waited at a boundary has been compared before. -/
def execHartInstruction (h : HartId) (i : HartStep) (s : State) : Out :=
  let s := if s.draining then s.setHart h { s.hart h with await := none } else s
  s.hartDo h fun s => s.hartStep h i (.hartInstruction h { i with upset := 0, upsetRetry := 0 })

/-- The outcome of WCALL in the hart's world and mode (R572). -/
def State.wcallDo (s : State) (hn : Nat) : State :=
  let h := s.hart hn
  let md := h.mode
  if h.world && md == .m then s.trap hn 2 0xB
  else if !h.world && md.virt && !bit (h.csr 0x7C2) 3 then s.trap hn 22 0xB
  else s.setHart hn ((h.retire h).monitorEntry 25 false)

/-- WCALL, an instruction of class 8. -/
def execWcall (h : HartId) (upset upsetRetry : DWord) (s : State) : Out :=
  s.hartDo h fun s =>
    let p := s.press h 8 [0] (some [0]) upset upsetRetry
    if p.1 then p.2.wcallDo h else p.2

/-- MRET in the Reserve world's M-mode. -/
def execMretReserve (h : HartId) (s : State) : Out :=
  let x := s.hart h
  if x.world && x.mode == .m then s.hartDo h fun s => s.setHart h ((s.hart h).mret.retire (s.hart h)) else .next s

/-- A pending Reserve interrupt enters the monitor from the Table world. -/
def execMonitorInterruptEntry (h : HartId) (s : State) : Out :=
  let x := s.hart h
  .next (if !s.hartRuns h || x.held || x.world then s
    else match topInt (s.mInts x true) with
      | some i => s.setHart h (x.monitorEntry i true)
      | none => s)

/-- The time CSR has reached MTIMECMP. -/
def execMachineTimerInterrupt (h : HartId) (s : State) : Out :=
  let x := s.hart h
  .next (if s.logicOn && (x.csr 0x7C3).toNat ≤ s.timeCsr
    then s.setHart h { x with bankR := { x.bankR with mip := setBit x.bankR.mip 7 true } } else s)

/-! ### The custom CSRs written by a row -/

/-- The write of a custom CSR as an instruction of hart `h` makes it, its program counter left alone. -/
def State.customWrite (s : State) (h n : Nat) (v : DWord) (detects : Bool) : Out :=
  .next (if !s.hartRuns h then s
    else
      let s := s.released h
      match (s.hart h).csrFault n n true with
      | some c => s.trap h c 0
      | none => s.csrWrite h n v detects)

def execPressEnable (h : HartId) (retry detects : Bool) (s : State) : Out :=
  s.customWrite h 0x7C0 (dwd (1 + retry.toNat * 2)) detects
def execPressDisable (h : HartId) (retry : Bool) (s : State) : Out := s.customWrite h 0x7C0 (dwd (retry.toNat * 2)) true
def execMsiSend (h : HartId) (v : DWord) (s : State) : Out := s.customWrite h 0x7C4 v true
/-- FUSE with a KEY, CLOSE_NEXT as it stands. -/
def execDebugFuse (h : HartId) (key : BitVec 16) (s : State) : Out :=
  s.customWrite h 0x7C5 (dwd (key.toNat * 65536 + 8 + s.bootRec.closeNext.toNat * 4)) true
def execDebugCloseNext (h : HartId) (close : Bool) (s : State) : Out := s.customWrite h 0x7C5 (dwd (close.toNat * 4)) true

/-! ### The debug module (R556, R557, R559) -/

/-- A DMI access ends with a response word. -/
def State.dmiEnd (s : State) (st : Status) (v : DWord) : State := { s with resp := ⟨st, v⟩ }

/-- An abstract register read or write: CSRs from 0, integer registers from 0x1000, floating-point ones from 0x1020. -/
def State.dmiReg (s : State) (h r : Nat) (v : Option DWord) : State :=
  let x := s.hart h
  if !x.halted then s.dmiEnd .conflict 0
  else if 0x1000 ≤ r && r < 0x1020 then
    match v with
    | none => s.dmiEnd .done (x.xr (r - 0x1000))
    | some v => (s.setHart h (x.setX (r - 0x1000) v)).dmiEnd .done 0
  else if 0x1020 ≤ r && r < 0x1040 then
    match v with
    | none => s.dmiEnd .done (x.fr (r - 0x1020))
    | some v => (s.setHart h (x.setF (r - 0x1020) v)).dmiEnd .done 0
  else if 0x7B0 ≤ r && r < 0x7B4 then
    match v with
    | none => s.dmiEnd .done (if r = 0x7B0 then x.csr r ||| 0x40000000 else x.csr r)
    | some v => (s.setHart h (x.setCsr r (if r = 0x7B0 then under 0x3F037 (x.csr r) v else v))).dmiEnd .done 0
  else match x.csrFault r r v.isSome with
    | some _ => s.dmiEnd .fault 0
    | none =>
      match v with
      | none => let q := s.csrRead h r; q.2.dmiEnd .done q.1
      | some v => (s.csrWrite h r v true).dmiEnd .done 0

/-- System bus access of 32 or 64 bits by `a`. -/
def State.dmiBus (s : State) (a : Acc) (addr n : Nat) (v : Option DWord) (cmd : Instr) : State :=
  let load := v.isNone
  if !wordAligned addr n then s.dmiEnd .align 0
  else if 0x100000000 ≤ addr && addr < 0x200000000 then s.brEnter a 3 addr n (if load then .read else .write) (v.getD 0)
  else if s.mustWait (waitPlace addr) then s.park (waitPlace addr) cmd (.access a addr load)
  else match v with
    | none => let q := s.busRead a addr n; q.2.2.finish a addr q.1 q.2.1 true
    | some v => let q := s.busWrite a addr n v; if q.2 then q.1.2 else q.1.2.finish a addr q.1.1

/-- An instruction run from the program buffer: one that traps leaves the hart's registers and CSRs as they were. -/
def State.dmiExec (s : State) (h : HartId) (i : HartStep) (cmd : Instr) : State :=
  let x := s.hart h
  if !x.halted || x.await.isSome then s.dmiEnd .conflict 0
  else match x.illegal? i with
    | some _ => s.dmiEnd .fault 0
    | none =>
      let s1 := s.perform h i cmd
      let y := s1.hart h
      if y.await.isNone && y.pc != x.pc + dwd i.len then (s1.setHart h x).dmiEnd .fault 0
      else (s1.setHart h { y with mode := .m, halted := true }).dmiEnd .done 0

/-- A DMI access. While debug is closed it fails and reaches nothing; in the LOAD state only writes of system SRAM pass,
until the provisioning image has passed. -/
def execDmiAccess (op : DmiOp) (s : State) : Out :=
  let cmd := Instr.dmiAccess op
  let fail := s.dmiEnd .access 2
  .next (if !s.logicOn then s
    else if !s.dbg.isOpen then
      match op with
      | .sbWrite addr n v tagFail =>
        if s.dbg.load && !s.boot.provisioned && sramSpan addr.toNat n
        then s.dmiBus ⟨.carried 0 true, tagFail⟩ addr.toNat n (some v) cmd else fail
      | _ => fail
    else match op with
      | .haltReq h => (if s.hartRuns h then s.debugEnter h 3 else s).dmiEnd .done 0
      | .resumeReq h => (s.debugLeave h).dmiEnd .done 0
      | .resetHalt h on => (s.setHart h { s.hart h with resetHalt := on }).dmiEnd .done 0
      | .readReg h r => s.dmiReg h r.toNat none
      | .writeReg h r v => s.dmiReg h r.toNat (some v)
      | .progWrite k v => ({ s with dbg := { s.dbg with prog := smSet (fun _ => 0) s.dbg.prog k.val v } } : State).dmiEnd .done 0
      | .progRead k => s.dmiEnd .done ((smGet (fun _ => 0) s.dbg.prog k.val).zeroExtend 64)
      | .progExec h i => s.dmiExec h i cmd
      | .sbRead addr n tagFail => s.dmiBus ⟨.debug, tagFail⟩ addr.toNat n none cmd
      | .sbWrite addr n v tagFail => s.dmiBus ⟨.debug, tagFail⟩ addr.toNat n (some v) cmd)

end Sys2Proof.Machine
end

