-- ==== Sys2Proof/Machine/Dispatch.lean ====
section
/-!
DEFINITION. One arm per command: the meaning it calls.
-/

namespace Sys2Proof.Machine

/-- The effect of a command on everything but the queue. -/
def exec (i : Instr) (s : State) : Host.Outcome State Fault Refusal :=
  match i with
  | .registerWrite a addr bytes data => Sys2Proof.Machine.execRegisterWrite a addr bytes data s
  | .ownershipClaim a addr func => Sys2Proof.Machine.execOwnershipClaim a addr func s
  | .ownershipRelease a addr => Sys2Proof.Machine.execOwnershipRelease a addr s
  | .islReset a i0 => Sys2Proof.Machine.execIslReset a i0 s
  | .islStop a i0 stop => Sys2Proof.Machine.execIslStop a i0 stop s
  | .islGate a i0 gate => Sys2Proof.Machine.execIslGate a i0 gate s
  | .islFreq a i0 freq => Sys2Proof.Machine.execIslFreq a i0 freq s
  | .phyPowerWrite a pd => Sys2Proof.Machine.execPhyPowerWrite a pd s
  | .bankPend a bank => Sys2Proof.Machine.execBankPend a bank s
  | .bankConfirm a => Sys2Proof.Machine.execBankConfirm a s
  | .swReset a key => Sys2Proof.Machine.execSwReset a key s
  | .chClear a c => Sys2Proof.Machine.execChClear a c s
  | .chEn a c en => Sys2Proof.Machine.execChEn a c en s
  | .chSwOn a c on => Sys2Proof.Machine.execChSwOn a c on s
  | .chCfgWrite a c v => Sys2Proof.Machine.execChCfgWrite a c v s
  | .measPop a d => Sys2Proof.Machine.execMeasPop a d s
  | .measOvfRst a d => Sys2Proof.Machine.execMeasOvfRst a d s
  | .measDecSet a d dec => Sys2Proof.Machine.execMeasDecSet a d dec s
  | .chDrvWrite a c v => Sys2Proof.Machine.execChDrvWrite a c v s
  | .sinCfgWrite a n v => Sys2Proof.Machine.execSinCfgWrite a n v s
  | .fmeasPop a => Sys2Proof.Machine.execFmeasPop a s
  | .fmeasOvfRst a => Sys2Proof.Machine.execFmeasOvfRst a s
  | .chLimpWrite a c v elapsed => Sys2Proof.Machine.execChLimpWrite a c v elapsed s
  | .limpAdopt a d => Sys2Proof.Machine.execLimpAdopt a d s
  | .tasteGo a c => Sys2Proof.Machine.execTasteGo a c s
  | .tasteAbort a c => Sys2Proof.Machine.execTasteAbort a c s
  | .frx e t d a tagFail => Sys2Proof.Machine.execFrx e t d a s tagFail
  | .ftx e t d a tagFail => Sys2Proof.Machine.execFtx e t d a s tagFail
  | .csub e t d a b tagFail => Sys2Proof.Machine.execCsub e t d a b s tagFail
  | .lcmd e t d a b tagFail => Sys2Proof.Machine.execLcmd e t d a b s tagFail
  | .threadStart a e t pc => Sys2Proof.Machine.execThreadStart a e t pc s
  | .threadHalt a e t pc => Sys2Proof.Machine.execThreadHalt a e t pc s
  | .threadStep a e t pc => Sys2Proof.Machine.execThreadStep a e t pc s
  | .haltAll a e => Sys2Proof.Machine.execHaltAll a e s
  | .imLock a e => Sys2Proof.Machine.execImLock a e s
  | .tDoorWrite a e t v => Sys2Proof.Machine.execTDoorWrite a e t v s
  | .threadStateWrite a e t off v => Sys2Proof.Machine.execThreadStateWrite a e t off v s
  | .dlBindWrite a ln v => Sys2Proof.Machine.execDlBindWrite a ln v s
  | .msubWrite a e j v => Sys2Proof.Machine.execMsubWrite a e j v s
  | .engineMeasOvfRst a e => Sys2Proof.Machine.execEngineMeasOvfRst a e s
  | .engineMemWindowWrite a addr bytes data => Sys2Proof.Machine.execEngineMemWindowWrite a addr bytes data s
  | .cellarWindowValueWrite a h wide v => Sys2Proof.Machine.execCellarWindowValueWrite a h wide v s
  | .cellarConfigWrite a h w wide v => Sys2Proof.Machine.execCellarConfigWrite a h w wide v s
  | .decantConfigWrite a k r v => Sys2Proof.Machine.execDecantConfigWrite a k r v s
  | .clrCntRst a => Sys2Proof.Machine.execClrCntRst a s
  | .routeEntryCommit a e v => Sys2Proof.Machine.execRouteEntryCommit a e v s
  | .nodeWatchCommit a e v => Sys2Proof.Machine.execNodeWatchCommit a e v s
  | .snapGo a => Sys2Proof.Machine.execSnapGo a s
  | .snapAbort a => Sys2Proof.Machine.execSnapAbort a s
  | .canModeSet a n mode cntRst => Sys2Proof.Machine.execCanModeSet a n mode cntRst s
  | .canCntRst a n => Sys2Proof.Machine.execCanCntRst a n s
  | .canConfigWrite a n r v => Sys2Proof.Machine.execCanConfigWrite a n r v s
  | .canRamWrite a n v => Sys2Proof.Machine.execCanRamWrite a n v s
  | .canRecover a n => Sys2Proof.Machine.execCanRecover a n s
  | .canTmodeWrite a n m => Sys2Proof.Machine.execCanTmodeWrite a n m s
  | .canFilterCommit a n e v => Sys2Proof.Machine.execCanFilterCommit a n e v s
  | .tatCommit a n k v => Sys2Proof.Machine.execTatCommit a n k v s
  | .tatTimeWrite a n k per v => Sys2Proof.Machine.execTatTimeWrite a n k per v s
  | .linSchedSwitch a n act => Sys2Proof.Machine.execLinSchedSwitch a n act s
  | .linWakeSend a n => Sys2Proof.Machine.execLinWakeSend a n s
  | .linCntRst a n => Sys2Proof.Machine.execLinCntRst a n s
  | .sleepReq a => Sys2Proof.Machine.execSleepReq a s
  | .sleepCancel a => Sys2Proof.Machine.execSleepCancel a s
  | .tc10Sleep a p => Sys2Proof.Machine.execTc10Sleep a p s
  | .tc10Wur a p => Sys2Proof.Machine.execTc10Wur a p s
  | .fdbFlush a v => Sys2Proof.Machine.execFdbFlush a v s
  | .switchEntryCommit a o v => Sys2Proof.Machine.execSwitchEntryCommit a o v s
  | .bresCfgWrite a r v => Sys2Proof.Machine.execBresCfgWrite a r v s
  | .tasChange a p v => Sys2Proof.Machine.execTasChange a p v s
  | .macsecSaCommit a i0 ch an v => Sys2Proof.Machine.execMacsecSaCommit a i0 ch an v s
  | .counterSnapshot a => Sys2Proof.Machine.execCounterSnapshot a s
  | .tbIncWrite a v => Sys2Proof.Machine.execTbIncWrite a v s
  | .tbStepWrite a v => Sys2Proof.Machine.execTbStepWrite a v s
  | .evtConfigWrite a k r v => Sys2Proof.Machine.execEvtConfigWrite a k r v s
  | .ckPut a n src => Sys2Proof.Machine.execCkPut a n src s
  | .ckGet a n dst => Sys2Proof.Machine.execCkGet a n dst s
  | .ckMark a n => Sys2Proof.Machine.execCkMark a n s
  | .ckRewind a n => Sys2Proof.Machine.execCkRewind a n s
  | .ckRel a n count => Sys2Proof.Machine.execCkRel a n count s
  | .ckFill a n => Sys2Proof.Machine.execCkFill a n s
  | .caskConfigWrite a n r v => Sys2Proof.Machine.execCaskConfigWrite a n r v s
  | .caskClear a n => Sys2Proof.Machine.execCaskClear a n s
  | .quotaWrite a t r v => Sys2Proof.Machine.execQuotaWrite a t r v s
  | .hartTidWrite a h tid => Sys2Proof.Machine.execHartTidWrite a h tid s
  | .thSliceWrite a e t v => Sys2Proof.Machine.execThSliceWrite a e t v s
  | .tenantConfigWrite a t v => Sys2Proof.Machine.execTenantConfigWrite a t v s
  | .mbDownSend a t => Sys2Proof.Machine.execMbDownSend a t s
  | .mbUpSend a t => Sys2Proof.Machine.execMbUpSend a t s
  | .mbDownAck a t => Sys2Proof.Machine.execMbDownAck a t s
  | .mbUpAck a t => Sys2Proof.Machine.execMbUpAck a t s
  | .tenantReset a t => Sys2Proof.Machine.execTenantReset a t s
  | .bridgePostedWrite a addr bytes data => Sys2Proof.Machine.execBridgePostedWrite a addr bytes data s
  | .bridgeNonpostedAccess a write addr bytes data => Sys2Proof.Machine.execBridgeNonpostedAccess a write addr bytes data s
  | .bridgeLr a addr d => Sys2Proof.Machine.execBridgeLr a addr d s
  | .bridgeSc a addr d v => Sys2Proof.Machine.execBridgeSc a addr d v s
  | .bridgeAmo a addr d k v => Sys2Proof.Machine.execBridgeAmo a addr d k v s
  | .windowConfigWrite a b k base v => Sys2Proof.Machine.execWindowConfigWrite a b k base v s
  | .poisonClear a b k => Sys2Proof.Machine.execPoisonClear a b k s
  | .errRecordNext a b => Sys2Proof.Machine.execErrRecordNext a b s
  | .hartInstruction h i0 => Sys2Proof.Machine.execHartInstruction h i0 s
  | .wcall h upset upsetRetry => Sys2Proof.Machine.execWcall h upset upsetRetry s
  | .dmiAccess op => Sys2Proof.Machine.execDmiAccess op s
  | .fillLineWrite a r v => Sys2Proof.Machine.execFillLineWrite a r v s
  | .wcuLock a => Sys2Proof.Machine.execWcuLock a s
  | .rwdEnable a v => Sys2Proof.Machine.execRwdEnable a v s
  | .rwdKick a key high => Sys2Proof.Machine.execRwdKick a key high s
  | .kstApply a => Sys2Proof.Machine.execKstApply a s
  | .kstErase a n => Sys2Proof.Machine.execKstErase a n s
  | .kstLoadPlain a n => Sys2Proof.Machine.execKstLoadPlain a n s
  | .slotGrantWrite a n v => Sys2Proof.Machine.execSlotGrantWrite a n v s
  | .attGo a => Sys2Proof.Machine.execAttGo a s
  | .stgEnable a => Sys2Proof.Machine.execStgEnable a s
  | .qpConfigWrite a q v => Sys2Proof.Machine.execQpConfigWrite a q v s
  | .prmStart a => Sys2Proof.Machine.execPrmStart a s
  | .pairWake a => Sys2Proof.Machine.execPairWake a s
  | .pairBrReq tagFail => Sys2Proof.Machine.execPairBrReq s tagFail
  | .vintageGo a => Sys2Proof.Machine.execVintageGo a s
  | .handover a => Sys2Proof.Machine.execHandover a s
  | .escalationCommit a k v => Sys2Proof.Machine.execEscalationCommit a k v s
  | .safeClr a => Sys2Proof.Machine.execSafeClr a s
  | .fcInj a id => Sys2Proof.Machine.execFcInj a id s
  | .cphSubmit a v => Sys2Proof.Machine.execCphSubmit a v s
  | .powerOnReset => Sys2Proof.Machine.execPowerOnReset s
  | .regEnCoreAssert pairSel => Sys2Proof.Machine.execRegEnCoreAssert pairSel s
  | .pgInputAsserted r => Sys2Proof.Machine.execPgInputAsserted r s
  | .powerUpStepDelayExpiry => Sys2Proof.Machine.execPowerUpStepDelayExpiry s
  | .logicResetRelease env => Sys2Proof.Machine.execLogicResetRelease env s
  | .pgTimeout => Sys2Proof.Machine.execPgTimeout s
  | .powerUpRetryExpiry => Sys2Proof.Machine.execPowerUpRetryExpiry s
  | .pgLoss r => Sys2Proof.Machine.execPgLoss r s
  | .regEnDropStep => Sys2Proof.Machine.execRegEnDropStep s
  | .pmbusVoutModeRead reply => Sys2Proof.Machine.execPmbusVoutModeRead reply s
  | .vcoreStep => Sys2Proof.Machine.execVcoreStep s
  | .rstnPinReset lowNs taken => Sys2Proof.Machine.execRstnPinReset lowNs taken s
  | .chipResetRelease env => Sys2Proof.Machine.execChipResetRelease env s
  | .jtagExtest => Sys2Proof.Machine.execJtagExtest s
  | .flitCrcError k => Sys2Proof.Machine.execFlitCrcError k s
  | .linkRetrain k lanes => Sys2Proof.Machine.execLinkRetrain k lanes s
  | .linkSilentTimeout k => Sys2Proof.Machine.execLinkSilentTimeout k s
  | .linkRestored k => Sys2Proof.Machine.execLinkRestored k s
  | .islandTransactionTimeout i0 => Sys2Proof.Machine.execIslandTransactionTimeout i0 s
  | .pllLockLost i0 => Sys2Proof.Machine.execPllLockLost i0 s
  | .referenceClockLost => Sys2Proof.Machine.execReferenceClockLost s
  | .islandResetRelease i0 => Sys2Proof.Machine.execIslandResetRelease i0 s
  | .migrationTimeout => Sys2Proof.Machine.execMigrationTimeout s
  | .mfgProvisionImage base ecc prog => Sys2Proof.Machine.execMfgProvisionImage base ecc prog s
  | .trialExpiry => Sys2Proof.Machine.execTrialExpiry s
  | .dinEdge k level => Sys2Proof.Machine.execDinEdge k level s
  | .softOnComplete c => Sys2Proof.Machine.execSoftOnComplete c s
  | .softTurnOnTimeout c also => Sys2Proof.Machine.execSoftTurnOnTimeout c s also
  | .inrushWindowClose c => Sys2Proof.Machine.execInrushWindowClose c s
  | .ocTrip c also => Sys2Proof.Machine.execOcTrip c also s
  | .hardLimitEntry c => Sys2Proof.Machine.execHardLimitEntry c s
  | .wireModelUpdate c mA => Sys2Proof.Machine.execWireModelUpdate c mA s
  | .thermalWarn c above => Sys2Proof.Machine.execThermalWarn c above s
  | .thermalShutdown c also => Sys2Proof.Machine.execThermalShutdown c s also
  | .thermalLatchClear c => Sys2Proof.Machine.execThermalLatchClear c s
  | .uvDetect d => Sys2Proof.Machine.execUvDetect d s
  | .uvClear d => Sys2Proof.Machine.execUvClear d s
  | .staggerSlot d => Sys2Proof.Machine.execStaggerSlot d s
  | .retryDelayExpiry c => Sys2Proof.Machine.execRetryDelayExpiry c s
  | .retryGoodExpiry c => Sys2Proof.Machine.execRetryGoodExpiry c s
  | .reverseCurrentBlock c => Sys2Proof.Machine.execReverseCurrentBlock c s
  | .reverseBlockRelease c => Sys2Proof.Machine.execReverseBlockRelease c s
  | .reverseBattery d => Sys2Proof.Machine.execReverseBattery d s
  | .parShareFault c => Sys2Proof.Machine.execParShareFault c s
  | .dieSupplyLoss d => Sys2Proof.Machine.execDieSupplyLoss d s
  | .converterHandover d => Sys2Proof.Machine.execConverterHandover d s
  | .calibrationComplete d slotB ok => Sys2Proof.Machine.execCalibrationComplete d slotB ok s
  | .measSample c kind value time => Sys2Proof.Machine.execMeasSample c kind value time s
  | .dieMonitorUpdate d iSum pEst => Sys2Proof.Machine.execDieMonitorUpdate d iSum pEst s
  | .driveEdgeReceive ln => Sys2Proof.Machine.execDriveEdgeReceive ln s
  | .driveEdgeApply ln => Sys2Proof.Machine.execDriveEdgeApply ln s
  | .driveLineTimeout ln => Sys2Proof.Machine.execDriveLineTimeout ln s
  | .sinSample n value time => Sys2Proof.Machine.execSinSample n value time s
  | .offDiagEvalStart c vout => Sys2Proof.Machine.execOffDiagEvalStart c vout s
  | .offDiagEvalCompare c vout => Sys2Proof.Machine.execOffDiagEvalCompare c vout s
  | .holdWindowExpiry d elapsed => Sys2Proof.Machine.execHoldWindowExpiry d elapsed s
  | .tasteStart d => Sys2Proof.Machine.execTasteStart d s
  | .tasteVoutCheck d vout => Sys2Proof.Machine.execTasteVoutCheck d vout s
  | .tasteVoutFault d high => Sys2Proof.Machine.execTasteVoutFault d high s
  | .tasteNoAnswer d => Sys2Proof.Machine.execTasteNoAnswer d s
  | .tasteFrame d f => Sys2Proof.Machine.execTasteFrame d f s
  | .tasteEnd d => Sys2Proof.Machine.execTasteEnd d s
  | .add e t d a b => Sys2Proof.Machine.execAdd e t d a b s
  | .adds e t d a b => Sys2Proof.Machine.execAdds e t d a b s
  | .addsu e t d a b => Sys2Proof.Machine.execAddsu e t d a b s
  | .sub e t d a b => Sys2Proof.Machine.execSub e t d a b s
  | .subs e t d a b => Sys2Proof.Machine.execSubs e t d a b s
  | .subsu e t d a b => Sys2Proof.Machine.execSubsu e t d a b s
  | .and e t d a b => Sys2Proof.Machine.execAnd e t d a b s
  | .andn e t d a b => Sys2Proof.Machine.execAndn e t d a b s
  | .or e t d a b => Sys2Proof.Machine.execOr e t d a b s
  | .orn e t d a b => Sys2Proof.Machine.execOrn e t d a b s
  | .xor e t d a b => Sys2Proof.Machine.execXor e t d a b s
  | .xnor e t d a b => Sys2Proof.Machine.execXnor e t d a b s
  | .sll e t d a b => Sys2Proof.Machine.execSll e t d a b s
  | .srl e t d a b => Sys2Proof.Machine.execSrl e t d a b s
  | .sra e t d a b => Sys2Proof.Machine.execSra e t d a b s
  | .ror e t d a b => Sys2Proof.Machine.execRor e t d a b s
  | .min e t d a b => Sys2Proof.Machine.execMin e t d a b s
  | .max e t d a b => Sys2Proof.Machine.execMax e t d a b s
  | .minu e t d a b => Sys2Proof.Machine.execMinu e t d a b s
  | .maxu e t d a b => Sys2Proof.Machine.execMaxu e t d a b s
  | .slt e t d a b => Sys2Proof.Machine.execSlt e t d a b s
  | .sltu e t d a b => Sys2Proof.Machine.execSltu e t d a b s
  | .mul e t d a b => Sys2Proof.Machine.execMul e t d a b s
  | .mulh e t d a b => Sys2Proof.Machine.execMulh e t d a b s
  | .mulhu e t d a b => Sys2Proof.Machine.execMulhu e t d a b s
  | .mulsh e t d a b sh => Sys2Proof.Machine.execMulsh e t d a b sh s
  | .div e t d a b => Sys2Proof.Machine.execDiv e t d a b s
  | .divu e t d a b => Sys2Proof.Machine.execDivu e t d a b s
  | .rem e t d a b => Sys2Proof.Machine.execRem e t d a b s
  | .remu e t d a b => Sys2Proof.Machine.execRemu e t d a b s
  | .neg e t d a => Sys2Proof.Machine.execNeg e t d a s
  | .negs e t d a => Sys2Proof.Machine.execNegs e t d a s
  | .abs e t d a => Sys2Proof.Machine.execAbs e t d a s
  | .abss e t d a => Sys2Proof.Machine.execAbss e t d a s
  | .clz e t d a => Sys2Proof.Machine.execClz e t d a s
  | .ctz e t d a => Sys2Proof.Machine.execCtz e t d a s
  | .popc e t d a => Sys2Proof.Machine.execPopc e t d a s
  | .rev8 e t d a => Sys2Proof.Machine.execRev8 e t d a s
  | .sextb e t d a => Sys2Proof.Machine.execSextb e t d a s
  | .sexth e t d a => Sys2Proof.Machine.execSexth e t d a s
  | .zexth e t d a => Sys2Proof.Machine.execZexth e t d a s
  | .sats e t d a n x => Sys2Proof.Machine.execSats e t d a n x s
  | .satu e t d a n x => Sys2Proof.Machine.execSatu e t d a n x s
  | .cmp e t a b => Sys2Proof.Machine.execCmp e t a b s
  | .tst e t a b => Sys2Proof.Machine.execTst e t a b s
  | .crcStep e t d a b poly n refl => Sys2Proof.Machine.execCrcStep e t d a b poly n refl s
  | .sel e t d a b cond => Sys2Proof.Machine.execSel e t d a b cond s
  | .addi e t d a imm => Sys2Proof.Machine.execAddi e t d a imm s
  | .andi e t d a imm => Sys2Proof.Machine.execAndi e t d a imm s
  | .ori e t d a imm => Sys2Proof.Machine.execOri e t d a imm s
  | .xori e t d a imm => Sys2Proof.Machine.execXori e t d a imm s
  | .slli e t d a k => Sys2Proof.Machine.execSlli e t d a k s
  | .srli e t d a k => Sys2Proof.Machine.execSrli e t d a k s
  | .srai e t d a k => Sys2Proof.Machine.execSrai e t d a k s
  | .rori e t d a k => Sys2Proof.Machine.execRori e t d a k s
  | .lui e t d imm => Sys2Proof.Machine.execLui e t d imm s
  | .cmpi e t a imm => Sys2Proof.Machine.execCmpi e t a imm s
  | .muli e t d a imm => Sys2Proof.Machine.execMuli e t d a imm s
  | .ldb e t d a imm => Sys2Proof.Machine.execLdb e t d a imm s
  | .ldh e t d a imm => Sys2Proof.Machine.execLdh e t d a imm s
  | .ldw e t d a imm => Sys2Proof.Machine.execLdw e t d a imm s
  | .stb e t d a imm => Sys2Proof.Machine.execStb e t d a imm s
  | .sth e t d a imm => Sys2Proof.Machine.execSth e t d a imm s
  | .stw e t d a imm => Sys2Proof.Machine.execStw e t d a imm s
  | .bfx e t d a pos len be => Sys2Proof.Machine.execBfx e t d a pos len be s
  | .bfxs e t d a pos len be => Sys2Proof.Machine.execBfxs e t d a pos len be s
  | .bfi e t d a pos len be => Sys2Proof.Machine.execBfi e t d a pos len be s
  | .bcond e t cond off => Sys2Proof.Machine.execBcond e t cond off s
  | .bl e t off => Sys2Proof.Machine.execBl e t off s
  | .jalr e t d a imm => Sys2Proof.Machine.execJalr e t d a imm s
  | .cbz e t d off => Sys2Proof.Machine.execCbz e t d off s
  | .cbnz e t d off => Sys2Proof.Machine.execCbnz e t d off s
  | .dbnz e t d off => Sys2Proof.Machine.execDbnz e t d off s
  | .crd e t d handle time => Sys2Proof.Machine.execCrd e t d handle time s
  | .crdr e t d a time => Sys2Proof.Machine.execCrdr e t d a time s
  | .cwr e t d a handle rx => Sys2Proof.Machine.execCwr e t d a handle rx s
  | .cwrr e t d a b rx => Sys2Proof.Machine.execCwrr e t d a b rx s
  | .ftxPortRoom e t => Sys2Proof.Machine.execFtxPortRoom e t s
  | .ftxTimeout e t => Sys2Proof.Machine.execFtxTimeout e t s
  | .qput e t d a b => Sys2Proof.Machine.execQput e t d a b s
  | .qputNw e t d a b => Sys2Proof.Machine.execQputNw e t d a b s
  | .qputRoom e t => Sys2Proof.Machine.execQputRoom e t s
  | .qputTimeout e t => Sys2Proof.Machine.execQputTimeout e t s
  | .qget e t d a b => Sys2Proof.Machine.execQget e t d a b s
  | .qmark e t d a => Sys2Proof.Machine.execQmark e t d a s
  | .qrewind e t d a => Sys2Proof.Machine.execQrewind e t d a s
  | .qrel e t d a b => Sys2Proof.Machine.execQrel e t d a b s
  | .wait e t d a => Sys2Proof.Machine.execWait e t d a s
  | .waitDeadline e t d a b => Sys2Proof.Machine.execWaitDeadline e t d a b s
  | .waitEnd e t => Sys2Proof.Machine.execWaitEnd e t s
  | .sev e t a door => Sys2Proof.Machine.execSev e t a door s
  | .dedge e t d a x ln level => Sys2Proof.Machine.execDedge e t d a x ln level s
  | .dedgeNw e t d a x ln level => Sys2Proof.Machine.execDedgeNw e t d a x ln level s
  | .dset e t d x ln level => Sys2Proof.Machine.execDset e t d x ln level s
  | .dsetNw e t d x ln level => Sys2Proof.Machine.execDsetNw e t d x ln level s
  | .dedgeQueueRoom e t => Sys2Proof.Machine.execDedgeQueueRoom e t s
  | .dlvl e t d ln => Sys2Proof.Machine.execDlvl e t d ln s
  | .dflush e t d ln => Sys2Proof.Machine.execDflush e t d ln s
  | .mget e t d => Sys2Proof.Machine.execMget e t d s
  | .mlat e t d ch kind => Sys2Proof.Machine.execMlat e t d ch kind s
  | .tnow e t d => Sys2Proof.Machine.execTnow e t d s
  | .qclr e t d => Sys2Proof.Machine.execQclr e t d s
  | .swp e t d a b => Sys2Proof.Machine.execSwp e t d a b s
  | .brk e t => Sys2Proof.Machine.execBrk e t s
  | .halt e t => Sys2Proof.Machine.execHalt e t s
  | .illegalInstruction e t => Sys2Proof.Machine.execIllegalInstruction e t s
  | .heldInstructionComplete e t => Sys2Proof.Machine.execHeldInstructionComplete e t s
  | .breakpointHit e t => Sys2Proof.Machine.execBreakpointHit e t s
  | .engineMeasArrival d n kind => Sys2Proof.Machine.execEngineMeasArrival d n kind s
  | .sweeperPass us => Sys2Proof.Machine.execSweeperPass us s
  | .sweepOverrun => Sys2Proof.Machine.execSweepOverrun s
  | .decantFire k => Sys2Proof.Machine.execDecantFire k s
  | .tunnelHoldExpiry t => Sys2Proof.Machine.execTunnelHoldExpiry t s
  | .tunnelPduReceive t => Sys2Proof.Machine.execTunnelPduReceive t s
  | .snapCopierEscalate => Sys2Proof.Machine.execSnapCopierEscalate s
  | .snapComplete => Sys2Proof.Machine.execSnapComplete s
  | .canBusIntegration n => Sys2Proof.Machine.execCanBusIntegration n s
  | .canFrameReceive n f => Sys2Proof.Machine.execCanFrameReceive n f s
  | .canProtocolException n => Sys2Proof.Machine.execCanProtocolException n s
  | .canArbitrationStart n => Sys2Proof.Machine.execCanArbitrationStart n s
  | .canFrameSent n => Sys2Proof.Machine.execCanFrameSent n s
  | .canArbitrationLost n => Sys2Proof.Machine.execCanArbitrationLost n s
  | .canBusError n lec late exempt => Sys2Proof.Machine.execCanBusError n lec late exempt s
  | .canBusoffRecoveryStart n => Sys2Proof.Machine.execCanBusoffRecoveryStart n s
  | .canBusoffRecovered n => Sys2Proof.Machine.execCanBusoffRecovered n s
  | .canTransceiverFault n cause => Sys2Proof.Machine.execCanTransceiverFault n cause s
  | .canTransceiverRecover n cause => Sys2Proof.Machine.execCanTransceiverRecover n cause s
  | .tatDue n k => Sys2Proof.Machine.execTatDue n k s
  | .tatWindowExpiry n k => Sys2Proof.Machine.execTatWindowExpiry n k s
  | .linHeader n fid time err clash => Sys2Proof.Machine.execLinHeader n fid time err clash s
  | .linResponseReceive n data err => Sys2Proof.Machine.execLinResponseReceive n data err s
  | .linScheduleSlot n => Sys2Proof.Machine.execLinScheduleSlot n s
  | .linWakeReceive n => Sys2Proof.Machine.execLinWakeReceive n s
  | .linTransceiverFault n dom => Sys2Proof.Machine.execLinTransceiverFault n dom s
  | .wakeCondition src => Sys2Proof.Machine.execWakeCondition src s
  | .canWakeFrame n f => Sys2Proof.Machine.execCanWakeFrame n f s
  | .canSwFecOverflow n => Sys2Proof.Machine.execCanSwFecOverflow n s
  | .wakeTimerExpiry => Sys2Proof.Machine.execWakeTimerExpiry s
  | .pendWindowExpiry => Sys2Proof.Machine.execPendWindowExpiry s
  | .sleepEntry => Sys2Proof.Machine.execSleepEntry s
  | .wakePowerUpDelay => Sys2Proof.Machine.execWakePowerUpDelay s
  | .awakeTimerExpiry can lin => Sys2Proof.Machine.execAwakeTimerExpiry can lin s
  | .failSafeTimerExpiry => Sys2Proof.Machine.execFailSafeTimerExpiry s
  | .ethFrameIngress p b sub => Sys2Proof.Machine.execEthFrameIngress p b sub s
  | .ethFrameTail p t => Sys2Proof.Machine.execEthFrameTail p t s
  | .ethTransmitSelect p => Sys2Proof.Machine.execEthTransmitSelect p s
  | .ethTxComplete p sub => Sys2Proof.Machine.execEthTxComplete p sub s
  | .hostPortDelivery => Sys2Proof.Machine.execHostPortDelivery s
  | .hostTxServe => Sys2Proof.Machine.execHostTxServe s
  | .portLinkUp p rate isMaster sqi => Sys2Proof.Machine.execPortLinkUp p rate isMaster sqi s
  | .portLinkDown p => Sys2Proof.Machine.execPortLinkDown p s
  | .tc10SleepAck p => Sys2Proof.Machine.execTc10SleepAck p s
  | .tc10SleepTimeout p => Sys2Proof.Machine.execTc10SleepTimeout p s
  | .fdbAgeSweep => Sys2Proof.Machine.execFdbAgeSweep s
  | .fdbFlushDone => Sys2Proof.Machine.execFdbFlushDone s
  | .tasListTakeover p => Sys2Proof.Machine.execTasListTakeover p s
  | .tasGateEvent p => Sys2Proof.Machine.execTasGateEvent p s
  | .frerResetTimeout r => Sys2Proof.Machine.execFrerResetTimeout r s
  | .msPnReserveCommit i0 an => Sys2Proof.Machine.execMsPnReserveCommit i0 an s
  | .tbWrap => Sys2Proof.Machine.execTbWrap s
  | .tbStepApply => Sys2Proof.Machine.execTbStepApply s
  | .tbCopyResync copy => Sys2Proof.Machine.execTbCopyResync copy s
  | .txtsRecordDrain p => Sys2Proof.Machine.execTxtsRecordDrain p s
  | .evtCaptureEdge k rising sub => Sys2Proof.Machine.execEvtCaptureEdge k rising sub s
  | .evtOutputEdge k => Sys2Proof.Machine.execEvtOutputEdge k s
  | .ckPutWaitEnd n => Sys2Proof.Machine.execCkPutWaitEnd n s
  | .tenantResetEnd t => Sys2Proof.Machine.execTenantResetEnd t s
  | .tenantResetTimeout t => Sys2Proof.Machine.execTenantResetTimeout t s
  | .farDieAccess b => Sys2Proof.Machine.execFarDieAccess b s
  | .bridgeResponse b => Sys2Proof.Machine.execBridgeResponse b s
  | .bridgeTimeout b => Sys2Proof.Machine.execBridgeTimeout b s
  | .semaphoreTimeout b => Sys2Proof.Machine.execSemaphoreTimeout b s
  | .prefetchLineExpiry b => Sys2Proof.Machine.execPrefetchLineExpiry b s
  | .farIrqRaise b src => Sys2Proof.Machine.execFarIrqRaise b src s
  | .mretReserve h => Sys2Proof.Machine.execMretReserve h s
  | .monitorInterruptEntry h => Sys2Proof.Machine.execMonitorInterruptEntry h s
  | .pressEnable h retry detects => Sys2Proof.Machine.execPressEnable h retry detects s
  | .pressDisable h retry => Sys2Proof.Machine.execPressDisable h retry s
  | .msiSend h v => Sys2Proof.Machine.execMsiSend h v s
  | .msiDelivery k => Sys2Proof.Machine.execMsiDelivery k s
  | .aplicSourceChange src level => Sys2Proof.Machine.execAplicSourceChange src level s
  | .machineTimerInterrupt h => Sys2Proof.Machine.execMachineTimerInterrupt h s
  | .debugFuse h key => Sys2Proof.Machine.execDebugFuse h key s
  | .debugCloseNext h close => Sys2Proof.Machine.execDebugCloseNext h close s
  | .debugHaltEntry h => Sys2Proof.Machine.execDebugHaltEntry h s
  | .rwdWarn => Sys2Proof.Machine.execRwdWarn s
  | .rwdExpiry => Sys2Proof.Machine.execRwdExpiry s
  | .keyUpdateCommit => Sys2Proof.Machine.execKeyUpdateCommit s
  | .slotIntegrityScan n mismatch => Sys2Proof.Machine.execSlotIntegrityScan n mismatch s
  | .slotRewriteEffect n => Sys2Proof.Machine.execSlotRewriteEffect n s
  | .cphCipher j mismatch tagFail => Sys2Proof.Machine.execCphCipher j mismatch s tagFail
  | .cphCmac j mismatch tagFail => Sys2Proof.Machine.execCphCmac j mismatch s tagFail
  | .cphDerive j mismatch tagFail => Sys2Proof.Machine.execCphDerive j mismatch s tagFail
  | .cphImport j mismatch tagFail => Sys2Proof.Machine.execCphImport j mismatch s tagFail
  | .cphSave j mismatch tagFail => Sys2Proof.Machine.execCphSave j mismatch s tagFail
  | .cphRestore j mismatch tagFail => Sys2Proof.Machine.execCphRestore j mismatch s tagFail
  | .cphErase j => Sys2Proof.Machine.execCphErase j s
  | .cphJobComplete j => Sys2Proof.Machine.execCphJobComplete j s
  | .cphPendingTimeout j => Sys2Proof.Machine.execCphPendingTimeout j s
  | .cphCompletionDrop j => Sys2Proof.Machine.execCphCompletionDrop j s
  | .invReserveCommit n ok => Sys2Proof.Machine.execInvReserveCommit n ok s
  | .attSignComplete => Sys2Proof.Machine.execAttSignComplete s
  | .attTimeout => Sys2Proof.Machine.execAttTimeout s
  | .stgReady nandOk => Sys2Proof.Machine.execStgReady nandOk s
  | .stgRead c bad mismatch tagFail => Sys2Proof.Machine.execStgRead c bad mismatch s tagFail
  | .stgWrite c mismatch tagFail => Sys2Proof.Machine.execStgWrite c mismatch s tagFail
  | .stgFlush c => Sys2Proof.Machine.execStgFlush c s
  | .stgTrim c => Sys2Proof.Machine.execStgTrim c s
  | .stgFormatNs c => Sys2Proof.Machine.execStgFormatNs c s
  | .stgHealth c tagFail => Sys2Proof.Machine.execStgHealth c s tagFail
  | .stgCommandComplete c => Sys2Proof.Machine.execStgCommandComplete c s
  | .stgCompletionDrop c => Sys2Proof.Machine.execStgCompletionDrop c s
  | .stgKeyPendingTimeout c => Sys2Proof.Machine.execStgKeyPendingTimeout c s
  | .namespaceKeyCheck n => Sys2Proof.Machine.execNamespaceKeyCheck n s
  | .nandProgramFail data k => Sys2Proof.Machine.execNandProgramFail data k s
  | .scrubSample x => Sys2Proof.Machine.execScrubSample x s
  | .nandTempChange t => Sys2Proof.Machine.execNandTempChange t s
  | .beatTick => Sys2Proof.Machine.execBeatTick s
  | .heartbeatPulseReceive us => Sys2Proof.Machine.execHeartbeatPulseReceive us s
  | .peerPathSilent frame => Sys2Proof.Machine.execPeerPathSilent frame s
  | .beatCommandAbsent => Sys2Proof.Machine.execBeatCommandAbsent s
  | .pairListenEnd => Sys2Proof.Machine.execPairListenEnd s
  | .pairOwnChange low => Sys2Proof.Machine.execPairOwnChange low s
  | .pairClaim => Sys2Proof.Machine.execPairClaim s
  | .takeoverBlocked => Sys2Proof.Machine.execTakeoverBlocked s
  | .pairHeartbeatFrame => Sys2Proof.Machine.execPairHeartbeatFrame s
  | .pairVinData => Sys2Proof.Machine.execPairVinData s
  | .pairVinCommit => Sys2Proof.Machine.execPairVinCommit s
  | .pairVinAck => Sys2Proof.Machine.execPairVinAck s
  | .pairHealthFrame => Sys2Proof.Machine.execPairHealthFrame s
  | .pairBrRsp => Sys2Proof.Machine.execPairBrRsp s
  | .pairFrameReject => Sys2Proof.Machine.execPairFrameReject s
  | .vintageAutoTick => Sys2Proof.Machine.execVintageAutoTick s
  | .vintageAckTimeout => Sys2Proof.Machine.execVintageAckTimeout s
  | .healthReportTick => Sys2Proof.Machine.execHealthReportTick s
  | .permitSelfTest seen => Sys2Proof.Machine.execPermitSelfTest seen s
  | .peerHealthMissing => Sys2Proof.Machine.execPeerHealthMissing s
  | .handoverArmExpiry => Sys2Proof.Machine.execHandoverArmExpiry s
  | .faultReport k => Sys2Proof.Machine.execFaultReport k s
  | .faultLogWriteDone ok => Sys2Proof.Machine.execFaultLogWriteDone ok s
  | .escalationWindowExpiry k => Sys2Proof.Machine.execEscalationWindowExpiry k s
  | .memoryScrub site res => Sys2Proof.Machine.execMemoryScrub site res s
  | .alwaysOnSupplyLoss => Sys2Proof.Machine.execAlwaysOnSupplyLoss s
  | .dieSupplyStart d => Sys2Proof.Machine.execDieSupplyStart d s
  | .referenceClockRestored => Sys2Proof.Machine.execReferenceClockRestored s
  | .xtal32kOscillationStart => Sys2Proof.Machine.execXtal32kOscillationStart s
  | .islandReady i0 => Sys2Proof.Machine.execIslandReady i0 s
  | .jtagExtestRelease env ir => Sys2Proof.Machine.execJtagExtestRelease env s ir
  | .hardLimitExit c => Sys2Proof.Machine.execHardLimitExit c s
  | .reverseBatteryEnd d => Sys2Proof.Machine.execReverseBatteryEnd d s
  | .tasteDelimiterSeen d => Sys2Proof.Machine.execTasteDelimiterSeen d s
  | .linTransceiverRecover n dom => Sys2Proof.Machine.execLinTransceiverRecover n dom s
  | .selectiveWakeFrameDecode n f => Sys2Proof.Machine.execSelectiveWakeFrameDecode n f s
  | .cbsCreditZero p c => Sys2Proof.Machine.execCbsCreditZero p c s
  | .nandOperationComplete op => Sys2Proof.Machine.execNandOperationComplete op s
  | .rstCntAgeOut => Sys2Proof.Machine.execRstCntAgeOut s

end Sys2Proof.Machine
end

