-- ==== Sys2Proof/Machine/Idle.lean ====
section
/-!
DEFINITION. What the module does while no command waits: it lets a transaction through that has waited at a boundary, or else
one 2 ns tick of the 500 MHz time-base clock passes (R16, R463, R348, R584).
-/

namespace Sys2Proof.Machine

/-- The oldest waiting transaction whose place now lets it through (R16, R521). -/
def State.ready (s : State) : Option Waiting := s.boundary.find? fun w => s.takes w.island

/-- A next state is no longer inside a transaction that has been let through. -/
def endDrain : Out → Out
  | .next s => .next { s with draining := false }
  | o => o

/-- A transaction is carried out at its target; one whose initiator has been reset since acts as it was issued, and its
response is discarded (R17). -/
def State.letThrough (s : State) (w : Waiting) : Out :=
  let s := { s with boundary := dropFirst (· == w) s.boundary, draining := true }
  match w.past with
  | none => endDrain (exec w.cmd s)
  | some p =>
    match exec w.cmd (s.wear p) with
    | .next t => .next { t.wear (s.pastOf p.isl) with resp := s.resp, draining := false }
    | o => o

/-- One tick: the time base counts, the snapshot copier takes one entry of each bank, the pair manager gets on,
and a paused Reserve watchdog stands still. -/
def State.tick (s : State) : State :=
  if !s.logicOn then s
  else
    let s := s.ticksOn 1
    let s := if s.rwdPaused then { s with rwd := { s.rwd with since := s.rwd.since + 1 } } else s
    let s := if s.accepts 4 then State.snapRun 16 s else s
    if s.accepts 10 then s.pairPoll else s

/-- The module without a command. -/
def idle (s : State) : Out :=
  match s.ready with
  | some w => s.letThrough w
  | none => .next s.tick

end Sys2Proof.Machine
end

