-- ==== Sys2Proof/WellFormed.lean ====
section
/-!
DEFINITION. Which commands a sender can form: the sizes of accesses, the payloads of bus frames, and operands that name one of
a few things (log 13).
-/

namespace Sys2Proof

/-- An access carries 1, 2, 4 or 8 bytes (R260, R519). -/
def accessBytes (n : Nat) : Bool := n == 1 || n == 2 || n == 4 || n == 8

/-- A CAN frame carries what its format admits: 8 bytes, 64 bytes, or 1 to 2048 bytes (R230). -/
def Frame.canWf (f : Frame) : Bool :=
  match f.kind with
  | 1 => f.data.length ≤ 8
  | 2 => f.data.length ≤ 64
  | 3 => 1 ≤ f.data.length && f.data.length ≤ 2048
  | _ => false

/-- Only an instruction of the C extension takes two bytes: the profile of
R544 gives none to fences, atomics, HLV and HSV, and the returns. -/
def HartStep.wf (i : HartStep) : Bool :=
  !i.compressed || (match i.op with
    | .lr .. | .sc .. | .amo .. | .fence | .fenceI | .wfi | .ecall | .mret | .sret | .sfence | .hfence | .csr .. => false
    | .load _ _ _ _ _ guest _ => !guest
    | .store _ _ _ _ guest _ => !guest
    | _ => true)

/-- System bus access of the debug module is 32 or 64 bits wide (R556). -/
def DmiOp.wf : DmiOp → Bool
  | .sbRead _ n _ => n == 4 || n == 8
  | .sbWrite _ n _ _ => n == 4 || n == 8
  | .progExec _ i => i.wf
  | .haltReq _ | .resumeReq _ | .resetHalt .. | .readReg .. | .writeReg .. | .progWrite .. | .progRead _ => true

/-- The command is well formed. -/
def Instr.wf : Instr → Bool
  | .registerWrite _ _ bytes _ => accessBytes bytes
  | .ownershipClaim .. | .ownershipRelease .. | .islReset .. | .islStop .. | .islGate .. | .islFreq .. | .phyPowerWrite .. => true
  | .bankPend .. | .bankConfirm .. | .swReset .. | .chClear .. | .chEn .. | .chSwOn .. | .chCfgWrite .. | .measPop .. => true
  | .measOvfRst .. | .measDecSet .. | .chDrvWrite .. | .sinCfgWrite .. | .fmeasPop .. | .fmeasOvfRst .. | .chLimpWrite .. => true
  | .limpAdopt .. | .tasteGo .. | .tasteAbort .. | .frx .. | .ftx .. | .csub .. | .lcmd .. | .threadStart .. | .threadHalt .. => true
  | .threadStep .. | .haltAll .. | .imLock .. | .tDoorWrite .. | .threadStateWrite .. | .dlBindWrite .. | .msubWrite .. => true
  | .engineMeasOvfRst .. => true
  | .engineMemWindowWrite _ _ bytes _ => accessBytes bytes
  | .cellarWindowValueWrite .. | .cellarConfigWrite .. | .decantConfigWrite .. | .clrCntRst .. | .routeEntryCommit .. => true
  | .nodeWatchCommit .. | .snapGo .. | .snapAbort .. | .canModeSet .. | .canCntRst .. | .canConfigWrite .. | .canRamWrite .. => true
  | .canRecover .. | .canTmodeWrite .. | .canFilterCommit .. | .tatCommit .. | .tatTimeWrite .. | .linSchedSwitch .. => true
  | .linWakeSend .. | .linCntRst .. | .sleepReq .. | .sleepCancel .. | .tc10Sleep .. | .tc10Wur .. | .fdbFlush .. | .switchEntryCommit .. => true
  | .bresCfgWrite .. | .tasChange .. | .macsecSaCommit .. | .counterSnapshot .. | .tbIncWrite .. | .tbStepWrite .. => true
  | .evtConfigWrite .. | .ckPut .. | .ckGet .. | .ckMark .. | .ckRewind .. | .ckRel .. | .ckFill .. | .caskConfigWrite .. => true
  | .caskClear .. | .quotaWrite .. | .hartTidWrite .. | .thSliceWrite .. | .tenantConfigWrite .. | .mbDownSend .. => true
  | .mbUpSend .. | .mbDownAck .. | .mbUpAck .. | .tenantReset .. => true
  | .bridgePostedWrite _ _ bytes _ => accessBytes bytes.val
  | .bridgeNonpostedAccess _ _ _ bytes _ => accessBytes bytes.val
  | .bridgeLr .. | .bridgeSc .. | .bridgeAmo .. | .windowConfigWrite .. | .poisonClear .. | .errRecordNext .. => true
  | .hartInstruction _ i => i.wf
  | .wcall .. => true
  | .dmiAccess op => op.wf
  | .fillLineWrite .. | .wcuLock .. | .rwdEnable .. | .rwdKick .. | .kstApply .. | .kstErase .. | .kstLoadPlain .. => true
  | .slotGrantWrite .. | .attGo .. | .stgEnable .. | .qpConfigWrite .. | .prmStart .. | .pairWake .. | .pairBrReq .. => true
  | .vintageGo .. | .handover .. | .escalationCommit .. | .safeClr .. | .fcInj .. | .cphSubmit .. | .powerOnReset => true
  | .regEnCoreAssert .. | .pgInputAsserted .. | .powerUpStepDelayExpiry | .logicResetRelease .. | .pgTimeout => true
  | .powerUpRetryExpiry | .pgLoss .. | .regEnDropStep | .pmbusVoutModeRead .. | .vcoreStep | .rstnPinReset .. => true
  | .chipResetRelease .. | .jtagExtest | .flitCrcError .. => true
  | .linkRetrain _ lanes => lanes == 1 || lanes == 2
  | .linkSilentTimeout .. | .linkRestored .. | .islandTransactionTimeout .. | .pllLockLost .. | .referenceClockLost => true
  | .islandResetRelease .. | .migrationTimeout | .mfgProvisionImage .. | .trialExpiry | .dinEdge .. | .softOnComplete .. => true
  | .softTurnOnTimeout .. | .inrushWindowClose .. => true
  | .ocTrip _ also => also.all fun k => 3 ≤ k && k ≤ 5
  | .hardLimitEntry .. | .wireModelUpdate .. | .thermalWarn .. | .thermalShutdown .. | .thermalLatchClear .. | .uvDetect .. => true
  | .uvClear .. | .staggerSlot .. | .retryDelayExpiry .. | .retryGoodExpiry .. | .reverseCurrentBlock .. | .reverseBlockRelease .. => true
  | .reverseBattery .. | .parShareFault .. | .dieSupplyLoss .. | .converterHandover .. | .calibrationComplete .. => true
  | .measSample .. | .dieMonitorUpdate .. | .driveEdgeReceive .. | .driveEdgeApply .. | .driveLineTimeout .. | .sinSample .. => true
  | .offDiagEvalStart .. | .offDiagEvalCompare .. | .holdWindowExpiry .. | .tasteStart .. | .tasteVoutCheck .. | .tasteVoutFault .. => true
  | .tasteNoAnswer .. | .tasteFrame .. | .tasteEnd .. | .add .. | .adds .. | .addsu .. | .sub .. | .subs .. | .subsu .. => true
  | .and .. | .andn .. | .or .. | .orn .. | .xor .. | .xnor .. | .sll .. | .srl .. | .sra .. | .ror .. | .min .. | .max .. => true
  | .minu .. | .maxu .. | .slt .. | .sltu .. | .mul .. | .mulh .. | .mulhu .. | .mulsh .. | .div .. | .divu .. | .rem .. => true
  | .remu .. | .neg .. | .negs .. | .abs .. | .abss .. | .clz .. | .ctz .. | .popc .. | .rev8 .. | .sextb .. | .sexth .. => true
  | .zexth .. | .sats .. | .satu .. | .cmp .. | .tst .. | .crcStep .. | .sel .. | .addi .. | .andi .. | .ori .. | .xori .. => true
  | .slli .. | .srli .. | .srai .. | .rori .. | .lui .. | .cmpi .. | .muli .. | .ldb .. | .ldh .. | .ldw .. | .stb .. | .sth .. => true
  | .stw .. | .bfx .. | .bfxs .. | .bfi .. | .bcond .. | .bl .. | .jalr .. | .cbz .. | .cbnz .. | .dbnz .. | .crd .. | .crdr .. => true
  | .cwr .. | .cwrr .. | .ftxPortRoom .. | .ftxTimeout .. | .qput .. | .qputNw .. | .qputRoom .. | .qputTimeout .. | .qget .. => true
  | .qmark .. | .qrewind .. | .qrel .. | .wait .. | .waitDeadline .. | .waitEnd .. | .sev .. | .dedge .. | .dedgeNw .. => true
  | .dset .. | .dsetNw .. | .dedgeQueueRoom .. | .dlvl .. | .dflush .. | .mget .. | .mlat .. | .tnow .. | .qclr .. | .swp .. => true
  | .brk .. | .halt .. | .illegalInstruction .. | .heldInstructionComplete .. | .breakpointHit .. | .engineMeasArrival .. => true
  | .sweeperPass us => 5 < us.val
  | .sweepOverrun | .decantFire .. | .tunnelHoldExpiry .. | .tunnelPduReceive .. | .snapCopierEscalate | .snapComplete => true
  | .canBusIntegration .. => true
  | .canFrameReceive _ f => f.canWf
  | .canProtocolException .. | .canArbitrationStart .. | .canFrameSent .. | .canArbitrationLost .. | .canBusError .. => true
  | .canBusoffRecoveryStart .. | .canBusoffRecovered .. | .canTransceiverFault .. | .canTransceiverRecover .. | .tatDue .. => true
  | .tatWindowExpiry .. | .linHeader .. => true
  | .linResponseReceive _ data _ => data.length ≤ 8
  | .linScheduleSlot .. | .linWakeReceive .. | .linTransceiverFault .. | .wakeCondition .. | .canWakeFrame .. | .canSwFecOverflow .. => true
  | .wakeTimerExpiry | .pendWindowExpiry | .sleepEntry | .wakePowerUpDelay | .awakeTimerExpiry .. => true
  | .failSafeTimerExpiry | .ethFrameIngress .. | .ethFrameTail .. | .ethTransmitSelect .. | .ethTxComplete .. => true
  | .hostPortDelivery | .hostTxServe | .portLinkUp .. | .portLinkDown .. | .tc10SleepAck .. | .tc10SleepTimeout .. => true
  | .fdbAgeSweep | .fdbFlushDone | .tasListTakeover .. | .tasGateEvent .. | .frerResetTimeout .. | .msPnReserveCommit .. => true
  | .tbWrap | .tbStepApply | .tbCopyResync .. | .txtsRecordDrain .. | .evtCaptureEdge .. | .evtOutputEdge .. => true
  | .ckPutWaitEnd .. | .tenantResetEnd .. | .tenantResetTimeout .. | .farDieAccess .. | .bridgeResponse .. | .bridgeTimeout .. => true
  | .semaphoreTimeout .. | .prefetchLineExpiry .. | .farIrqRaise .. | .mretReserve .. | .monitorInterruptEntry .. => true
  | .pressEnable .. | .pressDisable .. | .msiSend .. | .msiDelivery .. | .aplicSourceChange .. | .machineTimerInterrupt .. => true
  | .debugFuse .. | .debugCloseNext .. | .debugHaltEntry .. | .rwdWarn | .rwdExpiry | .keyUpdateCommit => true
  | .slotIntegrityScan .. | .slotRewriteEffect .. | .cphCipher .. | .cphCmac .. | .cphDerive .. | .cphImport .. | .cphSave .. => true
  | .cphRestore .. | .cphErase .. | .cphJobComplete .. | .cphPendingTimeout .. | .cphCompletionDrop .. | .invReserveCommit .. => true
  | .attSignComplete | .attTimeout | .stgReady .. | .stgRead .. | .stgWrite .. | .stgFlush .. | .stgTrim .. => true
  | .stgFormatNs .. | .stgHealth .. | .stgCommandComplete .. | .stgCompletionDrop .. | .stgKeyPendingTimeout .. | .namespaceKeyCheck .. => true
  | .nandProgramFail .. | .scrubSample .. | .nandTempChange .. | .beatTick | .heartbeatPulseReceive .. | .peerPathSilent .. => true
  | .beatCommandAbsent | .pairListenEnd | .pairOwnChange .. | .pairClaim | .takeoverBlocked | .pairHeartbeatFrame => true
  | .pairVinData | .pairVinCommit | .pairVinAck | .pairHealthFrame | .pairBrRsp | .pairFrameReject => true
  | .vintageAutoTick | .vintageAckTimeout | .healthReportTick | .permitSelfTest .. | .peerHealthMissing => true
  | .handoverArmExpiry | .faultReport .. | .faultLogWriteDone .. | .escalationWindowExpiry .. | .memoryScrub .. => true
  | .alwaysOnSupplyLoss | .dieSupplyStart .. | .referenceClockRestored | .xtal32kOscillationStart | .islandReady .. => true
  | .jtagExtestRelease .. | .hardLimitExit .. | .reverseBatteryEnd .. | .tasteDelimiterSeen .. | .linTransceiverRecover .. => true
  | .selectiveWakeFrameDecode .. | .cbsCreditZero .. | .nandOperationComplete .. | .rstCntAgeOut => true

end Sys2Proof
end

