-- ==== Sys2Proof/Safety.lean ====
section
/-!
DEFINITION. The terms in which statements speak: a command that answers a next state, an access that its target takes, what is
left unchanged, and what counts as a safe run.
-/

namespace Sys2Proof.Safety

open Sys2Proof.Machine

/-- The command answers a next state, and that state has the property. -/
def Gives (c : Instr) (s : State) (P : State → Prop) : Prop := ∃ t, exec c s = .next t ∧ P t

/-- The target of address `addr` takes an access of `a` at once: the logic die runs, the island serves transactions and none
waits before this one, the tags' parity holds, the page is not held against its world, and a hart that issues it awaits no
other access (R16, R20, R580). -/
abbrev Reaches (s : State) (a : Acc) (addr : Nat) : Prop :=
  s.logicOn = true ∧ s.mustWait (islandOf addr) = false ∧ a.tagFail = false
    ∧ (s.pageHeld addr = false ∨ (s.tagsOf a.who).w = true) ∧ ∀ h, a.who = .hart h → (s.hart h).await = none

/-- The access carries TID 0 with W = 1. -/
abbrev Manager (s : State) (a : Acc) : Prop := s.tagsOf a.who = ⟨0, true⟩

/-- The access carries TID 0, and the Table world asks nothing of a Reserve-held island `i` with it (R38, R581). -/
abbrev MayAsk (s : State) (a : Acc) (i : Nat) : Prop :=
  (s.tagsOf a.who).tid = 0 ∧ ((s.tagsOf a.who).w = true ∨ s.islandHeld i = false)

/-- The access comes from no hart: what fails is answered and traps nothing. -/
abbrev NoHart (a : Acc) : Prop := ∀ h, a.who ≠ .hart h

/-- Every register but those at the addresses listed reads as before. -/
def RegsBut (s t : State) (l : List Nat) : Prop := ∀ a, a ∉ l → t.rd a = s.rd a

/-- Every byte of memory reads as before. -/
def SameMem (s t : State) : Prop := ∀ a, t.ldb a = s.ldb a

/-- Every byte of memory outside the `n` bytes at `b` reads as before. -/
def MemBut (s t : State) (b n : Nat) : Prop := ∀ a, (a < b ∨ b + n ≤ a) → t.ldb a = s.ldb a

/-- The access has completed with a status and no data. -/
abbrev Answers (t : State) (st : Status) : Prop := t.resp = ⟨st, 0⟩

/-- The fault reports of the logic die that `t` has in flight beyond those of `s`: identifier and context words. -/
abbrev Reported (s t : State) (l : List (Nat × Nat × Nat)) : Prop :=
  t.reports.take s.reports.length = s.reports
    ∧ (t.reports.drop s.reports.length).map (fun r => (r.id, r.ctx0.toNat, r.ctx1.toNat)) = l

/-- A claim of the resource by these tags keeps within its slice, if it counts against one (R498, R510). -/
abbrev Allots (s : State) (t : Tags) (w : Own) : Prop :=
  ∀ k ∈ w.slice, s.tenantOn t.tid = true ∧ s.sliceAdmits k t.tid = true

/-- Quota `q` and guarantee `g` of tenant `t` fit slice `k`, beside the guarantees and the uses of all others (R501, R502). -/
abbrev QuotaFits (s : State) (t : Nat) (k : Slice) (q g : Nat) : Prop :=
  q ≤ k.cap ∧ g ≤ q ∧ (List.range 255).foldl (fun m i => m + (if i + 1 = t then g else s.guar k (i + 1))) 0 ≤ k.cap
    ∧ (g ≤ s.guar k t ∨ s.use k 0 + s.reserved k (fun i => if i = t then g else s.guar k i) ≤ k.cap)

/-- The tags that TH_SLICE gives a thread (R504). -/
abbrev sliceTags (v : Word) : Tags := if bit v 31 then ⟨BitVec.ofNat 8 (fld v 7 0), bit v 8⟩ else ⟨0, true⟩

/-- A release of the resource sets nothing else in motion. -/
def releaseOnly : Own → Bool
  | .port => true | .evt _ => true | _ => false

/-- A plain write of `v` to the register at `x` (R6) is all that happens, and it completes with DONE. -/
abbrev Writes (s t : State) (x : Nat) (v : Word) : Prop := t = { s.plainWr x v with resp := ⟨.done, 0⟩ }

/-- Nothing happens but the completion, with a status and no data. -/
abbrev Refuses (s t : State) (st : Status) : Prop := t = { s with resp := ⟨st, 0⟩ }

/-- The target denies the access (R19): ACCESS and fault 0x0003 with its address, and no effect. -/
abbrev Denies (s t : State) (addr : Nat) : Prop :=
  Answers t .access ∧ Reported s t [(0x0003, addr % 2 ^ 32, addr / 2 ^ 32 % 2 ^ 32)]
    ∧ { t with resp := s.resp, reports := s.reports } = s

/-- Bridge `b` lets an access of `a` to address `x` through at once: its link carries flits and nothing is under way (R516,
R521), no semaphore is held (R528), and the window is not poisoned (R533). -/
abbrev FarReaches (s : State) (a : Acc) (b x : Nat) : Prop :=
  s.logicOn = true ∧ s.mustWait (16 + b) = false ∧ a.tagFail = false ∧ s.brUp b = true ∧ (s.bridge b).sem = none
    ∧ s.rb (winA b ((s.winAt b (x - brRegion b)).getD 0) 0) 28 = false ∧ ∀ h, a.who = .hart h → (s.hart h).await = none

/-- That, and the window does not post: the status is the far die's own (R520). -/
abbrev FarAnswers (s : State) (a : Acc) (b x : Nat) : Prop :=
  FarReaches s a b x ∧ s.rb (winA b ((s.winAt b (x - brRegion b)).getD 0) 0) 30 = false

/-- The transactions of bridge `b` beside `x`. -/
abbrev brRest (s : State) (b : Nat) (x : BrTx) : List BrTx := (s.bridge b).txs.filter fun y => y.tag != x.tag

/-- None of the transactions waits within its bridge: each has its place and has been sent, or is dead (R520, R521). -/
abbrev BrSent (l : List BrTx) : Prop := ∀ y ∈ l, y.phase ≠ .queued ∧ (y.placed = true ∨ y.dead = true)

/-- The bridges other than `b` are as before. -/
abbrev BrBut (s t : State) (b : Nat) : Prop := ∀ i, i ≠ b → t.bridge i = s.bridge i

/-- Registers of channel `c` and its bit of ADOPT_DIFF apart, every register reads as before; beside them only the channels'
and the power dies' own state, the bridges' and reports change. -/
abbrev ChanFrame (s t : State) (c : Nat) : Prop :=
  (∀ x, (x < chA c 0 ∨ chA c 0x100 ≤ x) → x ≠ dieA (c / 32) 0x104 → t.rd x = s.rd x)
    ∧ { t with regs := s.regs, chs := s.chs, dies := s.dies, reports := s.reports, dieLogs := s.dieLogs, brg := s.brg
               resp := s.resp } = s

/-- Outside power die `d` every register reads as before; beside registers only the channels' and the power dies' own state,
the bridges', reports and the completion change. -/
abbrev DieFrame (s t : State) (d : Nat) : Prop :=
  (∀ x, inDie d x = false → t.rd x = s.rd x)
    ∧ { t with regs := s.regs, chs := s.chs, dies := s.dies, reports := s.reports, dieLogs := s.dieLogs, brg := s.brg
               resp := s.resp } = s

/-- A write of `a` reaches register `o` of channel `c`, by its owner or the manager (R179). -/
abbrev ChWrites (s : State) (a : Acc) (c o : Nat) : Prop :=
  FarReaches s a (c / 32) (chA c o) ∧ s.mayWriteOwned (s.tagsOf a.who) (chA c 0) = true

/-- Channel `c` is in no group, and nothing written to its CH_CFG still waits. -/
abbrev Alone (s : State) (c : Nat) : Prop := (s.chI c).parEn = false ∧ s.cfgWaits c = false

/-- A protective trip of channel `c` (R128, R154, R156): the event bits `evts` are set, LAST_TRIP is `last`, and every
conducting channel that switches with `c` is TRIPPED while the retry budget lasts, LOCKED after. -/
abbrev Trips (s t : State) (c last : Nat) (evts : List Nat) : Prop :=
  (∀ e ∈ evts, t.rb (chA c 0x28) e = true) ∧ t.rf (chA c 0x24) 22 20 = last
    ∧ (∀ k ∈ s.mates c, s.conducts k = true →
        t.chState k = if s.retryCnt (s.lead c) < s.retryMax (s.lead c) then 4 else 6)
    ∧ DieFrame s t (c / 32)
    ∧ (Alone s c → (t.chI c).dlyDone = false ∧ (t.chI c).goodRuns = false ∧ ChanFrame s t c)

/-- What a sample of kind `k` leaves in a latest-value register (R172): value, kind and clamp flag. -/
abbrev sampleOf (lLow : Bool) (k : Nat) (v : Int) : Nat × Bool :=
  (to16 (clampInt (kindRange lLow k).1 (kindRange lLow k).2 v).1, (clampInt (kindRange lLow k).1 (kindRange lLow k).2 v).2)

/-- The registers that a measurement sample of channel `c` may change. -/
abbrev sampleRegs (c : Nat) : List Nat :=
  [chA c 0x30, chA c 0x34, chA c 0x4C, chA c 0x50, dieA (c / 32) 0x10]

/-- What a measurement sample may change: of the far dies' registers those listed, the channels' and dies' own state, what the
engines keep of samples, and reports. -/
abbrev SampleFrame (s t : State) (l : List Nat) : Prop :=
  (∀ x, 0x80000000 ≤ x → x ∉ l → t.rd x = s.rd x)
    ∧ { t with regs := s.regs, chs := s.chs, dies := s.dies, measTx := s.measTx, measNo := s.measNo, engs := s.engs
               thrs := s.thrs, mirror := s.mirror, reports := s.reports, dieLogs := s.dieLogs } = s

/-- The link to the die that drive line `k` serves carries flits. -/
abbrev LineLink (s : State) (k : Nat) : Prop :=
  (∀ c ∈ s.lineCh k, (s.link (c / 32)).up = true) ∧ (s.lineCh k = none → (s.link 0).up = true)

/-- A sample of `z` × 8 mV lies beyond the threshold of the other state of sense input `n`, in units of 125 mV (R191). -/
abbrev sinBeyond (s : State) (n : Nat) (z : Int) : Prop :=
  if s.rb (sinA n 0xC) 31 then z * 8 < (s.rf (sinA n 8) 7 0 * 125 : Nat) else (s.rf (sinA n 8) 15 8 * 125 : Nat) < z * 8

/-- Entry `h` has accepted the value `v` dated `d` (R310, R312): it is VALID, its count has advanced, and STALE says whether
the value is too old already. -/
abbrev EnTook (s t : State) (h : Nat) (v d : Word) : Prop :=
  t.rd (enA h 0) = v ∧ t.rd (enA h 2) = d ∧ t.rd (enA h 3) = s.now
    ∧ t.rd (enA h 1) = setFld (setFld (s.rd (enA h 1)) 31 16 (s.rf (enA h 1) 31 16 + 1)) 9 8
      (2 + (decide (ageLimit (s.rd (enA h 5)) < (s.now - d).toNat)).toNat)

/-- The registers that an accepted value of entry `h` may change: its first four words, the status of a snapshot that loses its
old contents, and what a schedule that watches the entry fires. -/
abbrev enTookRegs (s : State) (h : Nat) : List Nat :=
  [enA h 0, enA h 1, enA h 2, enA h 3, clA 0x1C] ++ if s.rb (enA h 6) 24 then
    let c := s.rd (dsA (s.rf (enA h 6) 23 16) 4)
    [dsA (s.rf (enA h 6) 23 16) 0x14, dsA (s.rf (enA h 6) 23 16) 0x18, thA (fld c 29 26) (fld c 25 23) 0x10] else []

/-- Thread `u` of engine `e` issues the word `w` and nothing stops it (R263): the SE island runs, the thread is READY, no
breakpoint matches or the thread is being stepped (R267, R269), the PC lies within its bounds, and the word there is `w`,
without error. -/
abbrev Issues (s : State) (e u : Nat) (w : Word) : Prop :=
  s.accepts 4 = true ∧ s.thState e u = 1 ∧ (s.breakpoint e u (s.qpc e u) = false ∨ (s.thr e u).stepping = true)
    ∧ s.rf (thA e u 8) 13 0 ≤ s.qpc e u ∧ s.qpc e u < s.rf (thA e u 8) 30 16
    ∧ s.isBad (imA e (s.qpc e u)) = false ∧ wd (s.ldLE (imA e (s.qpc e u)) 4) = w

/-- The state in which a thread stands once its instruction has completed: HALTED by a HALT that it was held against, DEBUG
after a step, READY otherwise (R223, R269). -/
abbrev goesOn (s : State) (e u : Nat) : Nat := if (s.thr e u).haltReq then 0 else if (s.thr e u).stepping then 5 else 1

/-- Every thread but thread `u` of engine `e` is where it was within its instruction. -/
abbrev ThreadsBut (s t : State) (e u : Nat) : Prop := ∀ g h, g * 8 + h ≠ e * 8 + u → t.thr g h = s.thr g h

/-- The next word's PC, modulo the instruction memory (R274). -/
abbrev nextPc (s : State) (e u : Nat) : Nat := (s.qpc e u + 1) % 16384

/-- The thread's registers and flags after an instruction that has written wd: w0 discards, every other register but wd is
as before, the flags are `f`, the PC is `pc` and the thread goes on; no register of another thread or block changes. -/
abbrev ThreadHas (s t : State) (e u d : Nat) (v : Word) (f : Fl) (pc : Nat) : Prop :=
  (∀ i, i < 16 → t.qreg e u i = if i = d ∧ d ≠ 0 then v else s.qreg e u i)
    ∧ t.flags e u = f ∧ t.qpc e u = pc ∧ t.thState e u = goesOn s e u ∧ t.thr e u = {} ∧ ThreadsBut s t e u
    ∧ RegsBut s t ([thA e u 0, thA e u 4, thA e u 0x14] ++ if d = 0 then [] else [thA e u (0x40 + d * 4)])

/-- That, and nothing else changes. -/
abbrev Completes (s t : State) (e u d : Nat) (v : Word) (f : Fl) (pc : Nat) : Prop :=
  ThreadHas s t e u d v f pc ∧ { t with regs := s.regs, thrs := s.thrs } = s

/-- The thread is in state `st` with its instruction held at `h`; its registers, flags and PC are as before, and no register
changes but its STATE and those at the addresses `l`. -/
abbrev HeldAt (s t : State) (e u st : Nat) (h : Held) (l : List Nat) : Prop :=
  t.thr e u = { s.thr e u with held := some h } ∧ ThreadsBut s t e u
    ∧ t.rd (thA e u 4) = setFld (s.rd (thA e u 4)) 2 0 st ∧ RegsBut s t (thA e u 4 :: l)

/-- The thread is HELD, and its instruction is due to complete with `v` in wd and the flags `f` (R221). -/
abbrev Awaits (s t : State) (e u d : Nat) (v : Word) (f : Fl) (l : List Nat) : Prop :=
  HeldAt s t e u 3 (.result [(d, v)] f.word) l

/-- That, with a status in wd and its flags (R225). -/
abbrev AwaitsSt (s t : State) (e u d : Nat) (st : Status) (c : Bool) (l : List Nat) : Prop :=
  Awaits s t e u d (wd st.code) { s.flags e u with z := st = .done, n := false, c := c, v := false } l

/-- A HELD or WAITING instruction has completed: wd (w0 discards) and the flags are written, the thread goes on at the next
PC, and no register changes but these and those at the addresses `l`. -/
abbrev Wakes (s t : State) (e u d : Nat) (v : Word) (f : Fl) (l : List Nat) : Prop :=
  (∀ i, i < 16 → t.qreg e u i = if i = d ∧ d ≠ 0 then v else s.qreg e u i)
    ∧ t.flags e u = f ∧ t.qpc e u = nextPc s e u ∧ t.thState e u = goesOn s e u ∧ t.thr e u = {} ∧ ThreadsBut s t e u
    ∧ RegsBut s t ([thA e u 0, thA e u 4, thA e u 0x14] ++ (if d = 0 then [] else [thA e u (0x40 + d * 4)]) ++ l)

/-- That, with a status in wd and its flags. -/
abbrev WakesSt (s t : State) (e u d : Nat) (st : Status) (l : List Nat) : Prop :=
  Wakes s t e u d (wd st.code) { s.flags e u with z := st = .done, n := false, c := false, v := false } l

/-- What a store does beside its bytes: words that it covers lose their errors, harts may lose their reservations, and nothing
else of a hart changes. -/
abbrev StoreSide (s t : State) : Prop :=
  (∀ x, x ∈ t.eccBad → x ∈ s.eccBad)
    ∧ ∀ h, { t.hart h with resv := (s.hart h).resv } = s.hart h
      ∧ ((t.hart h).resv = (s.hart h).resv ∨ (t.hart h).resv = none)

/-- Every Cask but Cask `n` is where it was within its ring. -/
abbrev CasksBut (s t : State) (n : Nat) : Prop := ∀ m, m ≠ n → t.cask m = s.cask m

/-- Every CAN controller but CAN`n` is as before, and of the rest of the machine only registers. -/
abbrev CansBut (s t : State) (n : Nat) : Prop :=
  (∀ m, m ≠ n → t.can m = s.can m) ∧ { t with regs := s.regs, cans := s.cans, reports := s.reports, resp := s.resp } = s

/-- Of CAN`n`, only its slot `k` may have changed. -/
abbrev OnlySlot (s t : State) (n k : Nat) : Prop :=
  (∀ j, j ≠ k → t.tat n j = s.tat n j) ∧ { t.can n with tat := (s.can n).tat } = s.can n

/-- The counter at `x` has counted one event, saturating at its top. -/
abbrev Counts (s t : State) (x : Nat) : Prop := (t.rd x).toNat = min ((s.rd x).toNat + 1) (2 ^ 32 - 1)

/-- The counter at offset `o` of port `p` (R459). -/
abbrev cntOf (s : State) (p o : Nat) : Nat := smGet (fun _ => 0) (s.port p).cnt o

/-- Of the counters of port `p`, those of the list have counted what it says and the others stand. -/
abbrev PortCounts (s t : State) (p : Nat) (l : List (Nat × Nat)) : Prop :=
  (∀ x ∈ l, cntOf t p x.1 = (cntOf s p x.1 + x.2) % 2 ^ 64) ∧ ∀ o, o ∉ l.map (·.1) → cntOf t p o = cntOf s p o

/-- Every port of the switch but those listed is as before. -/
abbrev PortsBut (s t : State) (l : List Nat) : Prop := ∀ p, p ∉ l → t.port p = s.port p

/-- Of the switch, only its ports and the number of its next frame may have changed. -/
abbrev OnlyPorts (s t : State) : Prop := { t.esw with ports := s.esw.ports, nextUid := s.esw.nextUid } = s.esw

/-- Nothing has changed but the switch's own state. -/
abbrev OnlyEsw (s t : State) : Prop := { t with esw := s.esw } = s

/-- Queue `c` of port `q` has taken `f` at its end, and no other queue of the port has changed. -/
abbrev Queued (s t : State) (q c : Nat) (f : EFrame) : Prop :=
  t.queue q c = s.queue q c ++ [f] ∧ ∀ k, k ≠ c → t.queue q k = s.queue q k

/-- Hart `h`, no longer held in reset. -/
abbrev Freed (s : State) (h : Nat) : Hart := { s.hart h with held := false }

/-- Hart `h` runs, and debug neither halts it at its reset nor steps it (R544, R556). -/
abbrev Free (s : State) (h : HartId) : Prop :=
  s.hartRuns h = true ∧ s.resetHalts h = false ∧ (s.dbg.isOpen = false ∨ bit ((s.hart h).csr 0x7B0) 2 = false)

/-- Hart `h` fetches the instruction, and the state is then `u`, in which it is no longer held in reset and its TLB has the
page of the fetch; no trigger fires or counts (R545, R556). -/
abbrev Fetches (s : State) (h : HartId) (i : HartStep) (u : State) : Prop :=
  Free s h ∧ s.draining = false ∧ i.op ≠ .interrupt ∧ (s.released h).icountFire h = none ∧ fld ((s.hart h).tdata 4 1) 23 10 = 0
    ∧ (s.released h).fetch h i.len i.fetch = (true, u)
    ∧ u.trigBefore h (trigAccess i.op (((u.hart h).copy i (u.hart h).view).2.headD 0)) = none

/-- The two copies of the instruction agree, or second pressing compares none (R564). -/
abbrev Agrees (u : State) (h : HartId) (i : HartStep) : Prop :=
  (u.hart h).active = false
    ∨ ((u.hart h).copy2 i (u.hart h).mirrorView).map (upsetBy i.upset) = some ((u.hart h).copy i (u.hart h).view).2

/-- The instruction is fetched, passes its comparison and is legal in its mode. -/
abbrev Steps (s : State) (h : HartId) (i : HartStep) (u : State) : Prop :=
  Fetches s h i u ∧ Agrees u h i ∧ (u.hart h).illegal? i = none

/-- Every hart but hart `h` is as before. -/
abbrev HartsBut (s t : State) (h : Nat) : Prop := ∀ j, j ≠ h → t.hart j = s.hart j

/-- Hart `h` is as given, and nothing else has changed. -/
abbrev OnlyHart (s t : State) (h : Nat) (x : Hart) : Prop := t.hart h = x ∧ HartsBut s t h ∧ { t with harts := s.harts } = s

/-- Two states are the same, however they list their harts. -/
abbrev SameButHarts (u t : State) : Prop := (∀ j, t.hart j = u.hart j) ∧ { t with harts := u.harts } = u

/-- An access of hart `h` reaches the physical address `x`. -/
abbrev HartTo (s : State) (h : HartId) (guest : Bool) (k : HAcc) (va : DWord) (n : Nat) (tr : Xlate) (x : Nat) : Prop :=
  (s.reach h ((s.hart h).effMode guest) k va n tr).toOption = some [(x, n)]

/-- The fault of an access that reaches no place. -/
def faultOf {α : Type} : Except HFault α → Option HFault
  | .error f => some f
  | .ok _ => none

/-- That, which is served at once and is no bridge's (R18, R545). -/
abbrev HartAt (s : State) (h : HartId) (guest : Bool) (k : HAcc) (va : DWord) (n : Nat) (tr : Xlate) (x : Nat) : Prop :=
  HartTo s h guest k va n tr x ∧ bridgeOf x = none ∧ s.mustWait (islandOf x) = false

/-- That, in system SRAM that the hart's tags may read. -/
abbrev HartSram (s : State) (h : HartId) (guest : Bool) (k : HAcc) (va : DWord) (n : Nat) (tr : Xlate) (x : Nat) : Prop :=
  HartAt s h guest k va n tr x ∧ 0x10000000 ≤ x ∧ x + n ≤ 0x12000000 ∧ s.mayRead (s.tagsOf (.hart h)) x n = true

/-- A trap of hart `h` into M-mode in the bank of its world: the PC, the cause and the value are saved, MPP and MPV hold the
mode left, MPIE holds MIE, which clears, and the hart continues at mtvec. -/
abbrev TrapsM (s t : State) (h cause : Nat) (isInt : Bool) (tval : DWord) : Prop :=
  t.hart h = Hart.trapM (Freed s h) cause isInt tval ∧ (t.hart h).mode = .m ∧ (t.hart h).bank.mepc = (s.hart h).pc
    ∧ (t.hart h).bank.mcause = causeWord cause isInt ∧ (t.hart h).bank.mtval = tval
    ∧ (t.hart h).pc = tvecTarget (s.hart h).bank.mtvec cause isInt
    ∧ bit (t.hart h).bank.mstatus 3 = false ∧ bit (t.hart h).bank.mstatus 7 = bit (s.hart h).bank.mstatus 3
    ∧ fld (t.hart h).bank.mstatus 12 11 = (s.hart h).mode.code ∧ bit (t.hart h).bank.mstatus 39 = (s.hart h).mode.virt
    ∧ HartsBut s t h

/-- Nothing but cipher jobs and contexts depends on slot `n`: no key is derived from it, no MACsec frame or association and
no namespace uses it (R603, R608). -/
abbrev SlotAlone (s : State) (n : Nat) : Prop :=
  (∀ v, v < 64 → s.rb (slA (192 + v) 8) 16 = false ∨ s.rf (slA (192 + v) 8) 15 8 ≠ n)
    ∧ (∀ p ∈ s.esw.ports, ∀ x ∈ p.2.sending.toList, x.ms ≠ some n) ∧ (∀ p ∈ s.esw.sas, p.2.en = false ∨ p.2.slot ≠ n)
    ∧ s.nsOf n = []

/-- Entry `e` of the running cipher engine holds the active job `j`, the first of its context (R612). -/
abbrev JobRuns (s : State) (e : Nat) (j : CphJob) : Prop :=
  s.logicOn = true ∧ s.accepts 8 = true ∧ s.job e = some j ∧ j.phase = .active
    ∧ (j.ctx = 255 ∨ s.cph.jobs.find? (fun x => x.ctx == j.ctx && decide (x.phase = .active)) = some j)

/-- The job in `j`'s entry has become `j`, and no other job has changed. -/
abbrev JobIs (s t : State) (j : CphJob) : Prop := t.cph.jobs = s.cph.jobs.map fun x => if x.entry = j.entry then j else x

/-- Every key slot but slot `n` is as before, and of the key store only slots have changed. -/
abbrev SlotsBut (s t : State) (n : Nat) : Prop :=
  (∀ k, k ≠ n → t.slot k = s.slot k) ∧ { t.kst with slots := s.kst.slots } = s.kst

/-- A record of persistent slot `n` with body `b` has been committed (R598): it lies in the copy that did not win, its SEQ one
above the winner's, with its MAC; that copy wins, and no other byte of memory has changed. -/
abbrev Committed (s t : State) (n : Nat) (b : List Byte) : Prop :=
  (t.slot n).win = some ((s.slot n).win == some false)
    ∧ t.ldBytes (recA n ((s.slot n).win == some false)) 0x70 = patch b 0 (leBytes 4 (if (s.slot n).win = none then 1
      else s.ldLE (recA n ((s.slot n).win == some true)) 4 + 1))
    ∧ t.ldBytes (recA n ((s.slot n).win == some false) + 0x70) 16
      = cmac (fixedKey s.kst.testRoot 2) (t.ldBytes (recA n ((s.slot n).win == some false)) 0x70)
    ∧ MemBut s t (recA n ((s.slot n).win == some false)) 0x80 ∧ StoreSide s t

/-- Slot `n` holds `f`, READY, with its counters at the start of a new key (R605, R620, R621). -/
abbrev Filled (s t : State) (n : Nat) (f : SlotFill) : Prop :=
  { t.slot n with win := (s.slot n).win } = { s.slot n with
      key := f.key, ivFixed := f.ivFixed, inv := f.inv, gen := (s.slot n).gen + 1, resv := f.inv, hwm := 0, pnResv := 0
      staged := none }
    ∧ t.rd (slA n 4) = f.attr &&& 0x7FF ∧ t.slState n = 1

/-- Slot `n` holds nothing, its state `st`; jobs that held it have ended with KEY_REVOKED and its contexts are gone (R604,
R607). -/
abbrev Wiped (s t : State) (n st : Nat) : Prop :=
  { t.slot n with win := (s.slot n).win } = { gen := (s.slot n).gen + 1, win := (s.slot n).win }
    ∧ t.rd (slA n 4) = 0 ∧ t.rd (slA n 8) = wd st
    ∧ t.cph.jobs = s.cph.jobs.map (fun j => if j.slot = n then { j with phase := .ended .keyRevoked 0 0 } else j)
    ∧ t.cph.ctxs = s.cph.ctxs.filter (fun p => p.2.all fun c => c.slot != n)
    ∧ { t.cph with jobs := s.cph.jobs, ctxs := s.cph.ctxs } = s.cph

/-- Z and N of a result, C, V and Q as given (R276). -/
abbrev znFlags (r : Word) (c v q : Bool) : Fl := ⟨r == 0, r.msb, c, v, q⟩

/-- The controller is READY and takes what it may from its queue pairs; the state is then `u` (R632, R634). -/
abbrev StgTakes (s u : State) : Prop := s.stReady = true ∧ s.stgTake = u

/-- That, and entry `e` holds command `k` of operation `op`, which has not ended, waits for no earlier command (R638) and is of
namespace record `r`; at its start its checks pass, and no key change and no start of the key store holds it (R40, R632,
R648). -/
abbrev CmdRuns (s u : State) (e op : Nat) (buffer : Bool) (k : StgCmd) (r : NsRec) : Prop :=
  StgTakes s u ∧ u.cmd e = some k ∧ k.opc = op ∧ k.ended = none ∧ u.cmdBehind k = false ∧ u.ns k.ns = some r
    ∧ (k.moved = 0 → u.cmdCheck k buffer = none ∧ (op = 3 ∨ u.nsPending r = false)) ∧ (op = 3 ∨ u.nsNoKst r = false)

/-- The command in `k`'s entry has become `k`, and no other command has changed. -/
abbrev CmdIs (s t : State) (k : StgCmd) : Prop :=
  t.stg.cmds = s.stg.cmds.map fun x => if x.entry = k.entry then k else x

/-- Command `k` has ended with a status and INFO. -/
abbrev CmdEnds (s t : State) (k : StgCmd) (st : Status) (info : Nat) : Prop :=
  CmdIs s t { k with ended := some (st, info), keyWait := none }

/-- The front die has role `role` with PAIR_OWN at `low`, and the permit follows (R659, R661). While the permit stands, of
registers only those listed change; when it changes, the channels of both dies settle with their interlock. -/
abbrev PermitSets (s t : State) (role : Nat) (low : Bool) (l : List Nat) : Prop :=
  t.front = { s.front with role := role, ownLow := low, permit := permits role low }
    ∧ (s.front.permit = permits role low → RegsBut s t l ∧ t.chs = s.chs ∧ t.dies = s.dies)
    ∧ ∀ x, (x < 0x80000000 ∨ 0x82000000 ≤ x) → x ∉ l → t.rd x = s.rd x

/-- What a module that becomes STANDBY keeps of the pair manager's state. -/
abbrev standbyPrm (s : State) (p : PrmInt) : PrmInt :=
  { p with start := .idle, heard := false, armed := false, runFrom := s.ticks, selfTest := false }

/-- No pair frame waits, no vintage is being copied, and with a partner of role code `r` the pair bridge already knows whether
it is reachable. -/
abbrev PairQuiet (s : State) (r : Nat) : Prop :=
  s.prm.out = [] ∧ s.prm.vin ≠ .copy ∧ (s.bridge 3).pairUp = (r != 0 && s.linkUp 14 && s.swOn)

/-- PRM_STAT when its paths have become `line` and `frame` (R664, R668). -/
def pairStat (w : Word) (line frame : PrmPath) : Word :=
  let v := setFld (setBit (setBit w 4 (line == .delivering)) 5 (frame == .delivering)) 9 8 (peerOf line frame)
  if peerOf line frame = 3 then v else setBit v 13 false

/-- The fault of entering SUSPECT or FAILED. -/
def peerFaults (w : Word) (line frame : PrmPath) : List (Nat × Nat × Nat) :=
  if peerOf line frame = fld w 9 8 then []
  else if peerOf line frame = 2 then [(0x7040, 0, 0)] else if peerOf line frame = 3 then [(0x7041, 0, 0)] else []

/-- The pair frame that the module sends next (R670): TYPE `typ`, payload `p`, its tag under `key`, padded to 60 bytes. -/
def pairFrameOf (s : State) (key : List Byte) (typ : Nat) (p : List Byte) : List Byte :=
  let flags := s.homeReady.toNat + s.pairSync.toNat * 2 + s.posB.toNat * 4 + (s.prm.hand != .none).toNat * 8
  let m := s.mac48 (prA 0xC) ++ s.mac48 (prA 0x14) ++ [0x88, 0xB5, 1, BitVec.ofNat 8 typ] ++ beBytes 2 p.length
    ++ beBytes 2 (s.rf (prA 0) 15 0) ++ [BitVec.ofNat 8 s.front.role, BitVec.ofNat 8 flags] ++ beBytes 4 s.boot.startCount
    ++ beBytes 4 (s.prm.seq + 1) ++ beBytes 4 s.now.toNat ++ p
  m ++ cmac key m ++ List.replicate (60 - (m ++ cmac key m).length) 0

/-- That frame as the switch queues it. -/
def pairEFrame (s : State) (b : List Byte) : EFrame :=
  { uid := s.esw.nextUid, da := b.take 6, sa := slice b 6 6, rest := b.drop 12, pcp := 7, size := b.length + 4, ingress := 15
    time := s.now, plain := true }

/-- `t` as it was before it sent a pair frame: nothing of `s` had been sent, and `l` is received. -/
abbrev unsent (s t : State) (l : List HostRx) : State :=
  { t with esw := { s.esw with pairIn := l }, prm := { t.prm with seq := s.prm.seq, out := [] } }

/-- `u` sends a pair frame: it enters P14's class-7 queue, or waits for room there, or is lost without a link. -/
abbrev PairSends (u t : State) (key : List Byte) (typ : Nat) (p : List Byte) : Prop :=
  t.prm = { u.prm with seq := u.prm.seq + 1, out := t.prm.out }
    ∧ if u.swOn = false ∨ u.linkUp 14 = false then t.prm.out = [] ∧ t.esw = u.esw
      else if u.admits 14 7 (u.rf (portA 14 0xC) 31 28) = false then t.prm.out = [pairFrameOf u key typ p] ∧ t.esw = u.esw
      else t.prm.out = [] ∧ Queued u t 14 7 (pairEFrame u (pairFrameOf u key typ p)) ∧ PortsBut u t [14] ∧ OnlyPorts u t
        ∧ { t.port 14 with queues := (u.port 14).queues } = u.port 14 ∧ t.esw.nextUid = u.esw.nextUid + 1

/-- The oldest frame received is accepted and is `f`, of TYPE `typ`; behind it `l` have been received (R671). -/
abbrev PairGets (s : State) (f : PairFrame) (typ : Nat) (x : HostRx) (l : List HostRx) : Prop :=
  s.logicOn = true ∧ s.esw.pairIn = x :: l ∧ s.pairAccept x.bytes = some f ∧ f.typ = typ

/-- The pair manager after any accepted frame: its number is the last one accepted, HANDOVER arms a HOME module, and a partner
that has become ACTIVE ends the hand-over (R671, R679). -/
abbrev tookPrm (s : State) (f : PairFrame) : PrmInt :=
  { s.prm with
    last := some (f.epoch, f.seq)
    armed := s.prm.armed || (decide (s.front.role = 2) && s.rb (prA 0) 30 && f.flags.testBit 3)
    hand := if s.prm.hand = .given ∧ f.role = 3 then .none else s.prm.hand }

/-- PRM_STAT after any accepted frame: PEER_ROLE and PEER_HOME. -/
abbrev tookStat (s : State) (f : PairFrame) : Word :=
  setBit (setFld (s.rd (prA 8)) 18 16 f.role) 14 (decide (s.front.role = 3) && f.flags.testBit 0)

/-- The state after what every accepted frame does: it is taken, and `tookPrm` and `tookStat` hold. -/
abbrev took (s : State) (f : PairFrame) (l : List HostRx) : State :=
  ((({ s with esw := { s.esw with pairIn := l } } : State).setPrm (tookPrm s f)).wf (prA 8) 18 16 f.role).wb (prA 8) 14
    (decide (s.front.role = 3) && f.flags.testBit 0)

/-- The received frames are `l`, and of the switch nothing else has changed. -/
abbrev PairLeft (s t : State) (l : List HostRx) : Prop :=
  t.esw.pairIn = l ∧ { t.esw with pairIn := s.esw.pairIn } = s.esw

/-- The running vintage has failed with `st` (R674): VIN_STAT holds the status, BUSY is clear, FAILS has counted, and fault
0x7044 is reported; `w` is what VIN_STAT held before. -/
abbrev VinFailed (s t : State) (w : Word) (st : Status) (l : List (Nat × Nat × Nat)) : Prop :=
  t.rd (prA 0x34) = setFld (setBit (setFld w 23 16 st.code) 31 false) 7 0 (min (fld w 7 0 + 1) 255)
    ∧ Reported s t (l ++ [(0x7044, 0, 0)])

/-- VSEQ of the vintage that starts next, and its header without the CRC (R673). -/
abbrev nextVseq (s : State) : Nat := (s.prm.vseq + 1) % 2 ^ 32
def vinHeadOf (s : State) : List Byte :=
  leBytes 4 0x96405649 ++ leBytes 4 (nextVseq s) ++ leBytes 4 s.vinLen ++ leBytes 4 s.now.toNat
    ++ leBytes 2 (s.rf (prA 0x24) 15 0) ++ leBytes 2 (s.rf (prA 0x24) 31 16) ++ leBytes 4 (s.rd (prA 0x2C)).toNat
    ++ leBytes 8 s.outMap ++ leBytes 4 s.boot.startCount ++ List.replicate 24 0

/-- A vintage starts, and its staging area, application block and snapshot allow it (R349, R673, R674). -/
abbrev VinFits (s : State) : Prop :=
  s.accepts 4 = true ∧ sramSpan (s.rd (prA 0x30)).toNat s.vinLen = true
    ∧ ((s.rd (prA 0x2C)).toNat = 0 ∨ sramSpan (s.rd (prA 0x28)).toNat (s.rd (prA 0x2C)).toNat = true)
    ∧ s.rf (prA 0x24) 15 0 ≤ s.rf (prA 0x24) 31 16 ∧ (s.rd (prA 0x30)).toNat % 32 = 0 ∧ s.clr.snap = none

/-- The cut of a vintage: its snapshot runs, the application block lies behind the place of the Cellar entries, and VIN_STAT
and VIN_CUT say so. -/
abbrev VinCut (s t : State) (hand : HandPhase) : Prop :=
  let n := (s.rf (prA 0x24) 31 16 + 1 - s.rf (prA 0x24) 15 0) * 0x20
  let stage := (s.rd (prA 0x30)).toNat
  let app := (s.rd (prA 0x2C)).toNat
  t.prm = { s.prm with vseq := nextVseq s, vin := .copy, header := vinHeadOf s, hand := hand }
    ∧ t.clr = { s.clr with
        pairEnd := none
        snap := some { first := s.rf (prA 0x24) 15 0, last := s.rf (prA 0x24) 31 16, dst := stage + 0x40
                       done := s.rf (prA 0x24) 15 0, forPair := true } }
    ∧ t.ldBytes (stage + 0x40 + n) app = s.ldBytes (s.rd (prA 0x28)).toNat app ∧ MemBut s t (stage + 0x40 + n) app
    ∧ StoreSide s t ∧ t.rd (prA 0x34) = setBit (setFld (setFld (s.rd (prA 0x34)) 31 30 2) 23 16 0) 30 true
    ∧ t.rd (prA 0x3C) = s.now ∧ t.rd (clA 0x1C) = setBit (s.rd (clA 0x1C)) 8 true ∧ t.rd (clA 0x20) = s.now
    ∧ RegsBut s t [prA 0x34, prA 0x3C, clA 0x1C, clA 0x20]

/-- The words of a report's record before its CRC: severity `sev`, number `q`, log number `lseq` (R681). -/
abbrev recordWords (r : Report) (sev q lseq : Nat) : List Word :=
  [reportWord0 r sev ((defSev r.id).getD 0), r.time, wd q, wd lseq, r.ctx0, r.ctx1, reportWord6 r]

/-- LSEQ of the record that is made next with severity `sev` (R686). -/
abbrev nextLseq (s : State) (sev : Nat) : Nat := if 1 ≤ sev then (s.rd (fcA 0x18)).toNat else 0xFFFFFFFF

/-- The collector has made a new record of `r` with severity `sev`: it lies in the ring with its CRC, FC_WR has advanced, and
with severity DEGRADED or higher its log write begins, after which the chip reset `rst` is due, if any. -/
abbrev Recorded (s t : State) (r : Report) (sev : Nat) (rst : Option Nat) : Prop :=
  t.ringRecord s.fcWr = recordWords r sev s.fcWr (nextLseq s sev) ++ [recordCrc (recordWords r sev s.fcWr (nextLseq s sev))]
    ∧ t.rd (fcA 0x10) = wd (s.fcWr + 1) ∧ t.rd (fcA 0x18) = (if 1 ≤ sev then wd (nextLseq s sev + 1) else s.rd (fcA 0x18))
    ∧ t.fc.logWrites = s.fc.logWrites ++ (if 1 ≤ sev
        then [⟨nextLseq s sev, s.fcWr, wordBytes (t.ringRecord s.fcWr), rst⟩] else [])

/-- The registers that a new record changes. -/
abbrev recordRegs (s : State) : List Nat := (List.range 8).map (ringA s.fcWr) ++ [fcA 0x10, fcA 0x18]

/-- No escalation entry counts `id`; a report of it equals no unread newest record, so it makes a record of its own (R684,
R689). -/
abbrev OwnRecord (s : State) (r : Report) (sev : Nat) : Prop :=
  (∀ k ∈ List.range 32, s.rb (escA k 0) 31 = false ∨ s.rf (escA k 0) 15 0 ≠ r.id)
    ∧ s.mergesWith (reportWord0 r sev ((defSev r.id).getD 0)) (reportWord6 r) r = false

/-- FC_STAT when a SAFE_STATE record of `id` has been made (R691). -/
abbrev safeStat (s : State) (id : Nat) : Word :=
  if s.rb fcBase 31 then s.rd fcBase else setBit (setFld (s.rd fcBase) 15 0 id) 31 true

/-- Registers and the completion apart, the two states are the same. -/
abbrev RegsOnly (s t : State) : Prop := { t with regs := s.regs, resp := s.resp } = s

/-- Memory and registers list only what differs from reset, keys rising. -/
abbrev Canonical (s : State) : Prop := Memory.wf s.mem = true ∧ smWf regReset s.regs = true

/-- `n` steps from `s` each answer a next state, and every state on the way is canonical. -/
def SafeFor : Nat → State → Prop
  | 0, s => Canonical s
  | n + 1, s => Canonical s ∧ ∃ t, step s = .next t ∧ SafeFor n t

/-- What is programmed in the fuses of `s` is programmed in `t`: the debug lock, MFG_CLOSED, the revocations, the floor fuses,
and an anchor's value. -/
def FusesKept (s t : State) : Prop :=
  (s.fuse.dbgLock = true → t.fuse.dbgLock = true) ∧ (s.fuse.mfgClosed = true → t.fuse.mfgClosed = true)
    ∧ s.fuse.floor ≤ t.fuse.floor
    ∧ (∀ i, s.fuse.revoked.getD i false = true → t.fuse.revoked.getD i false = true)
    ∧ (∀ i v, s.fuse.anchors.getD i none = some v → t.fuse.anchors.getD i none = some v)

end Sys2Proof.Safety
end

