-- ==== Sys2Proof/Certificates/Slice0/Obligations.lean ====
section
/-!
DEFINITION. The statements for the provers.
-/

open Sys2Proof Sys2Proof.Machine Sys2Proof.Safety

/-- A step of a state whose queue holds a command is that command's meaning on the state with the queue's rest. On an empty
  queue the module idles: it lets the oldest boundary transaction through whose place takes it, and otherwise one tick
  passes (the model's choice, log 1). -/
def Obligations.StepRunsFront : Prop :=
  ∀ (c : Instr) (rest : List Instr) (s : State),
    (step { s with pending := c :: rest } = exec c { s with pending := rest })
    ∧ (s.pending = [] ∧ s.boundary = [] → step s = .next s.tick)

/-- No command stops the module: whatever the state, exec answers a next state, and what the spec refuses is a completion
  status (the model's choice of outcome, log 110). -/
def Obligations.EveryCommandGoes : Prop :=
  ∀ (c : Instr) (s : State),
    (Gives c s fun _ => True)

/-- At reset the lists that hold memory and registers are in their canonical form. -/
def Obligations.CanonicalAtReset : Prop :=
    (Canonical State.reset)

/-- From every state in which the memory and the register map are canonical (addresses strictly rising, no entry at its
  reset value), a step answers a state in which they are, so that equal contents stay equal data. -/
def Obligations.CanonicalKept : Prop :=
    ∀ s t : State, Canonical s → step s = .next t → Canonical t

/-- Whatever the state and the command, a step leaves every programmed fuse programmed: the debug lock, MFG_CLOSED,
  revocations and anchors, and FUSE_COUNT never falls (R100, R110, R119, R558). -/
def Obligations.FusesNeverClear : Prop :=
    ∀ s t : State, step s = .next t → FusesKept s t

/-- Right after reset the logic die is held and RSTN_OUT driven low, no command waits and memory is empty; RST_CAUSE has POR
  set, ISL_CTL0 the clock of 1.0 GHz running, FC_STAT the safe state, RWD_CTL a timeout of 500 ms, TB_INC 2^29, CAN_CTL,
  CH_CFG, CH_RETRY, CK_CFG and FL_SRAM the values of their field tables (R10, R693). -/
def Obligations.ResetValues : Prop :=
    (State.reset.pwr.held = true ∧ State.reset.pwr.rstnOut = false ∧ State.reset.pending = [] ∧ State.reset.mem = [])
    ∧ (State.reset.rd rbcBase = 1 ∧ State.reset.rd (islA 0) = 0x10000028 ∧ State.reset.rd fcBase = 0x80000000)
    ∧ (State.reset.rd (wcA 0x20) = 500 ∧ State.reset.rd (tbA 8) = 0x20000000 ∧ State.reset.rd (canA 3 0) = 0x40)
    ∧ (State.reset.rd (chA 9 0x10) = 0x14 ∧ State.reset.rd (chA 63 0x20) = 0x0A006403 ∧ State.reset.rd (ckA 511 4) = 1 ∧
      State.reset.rd (wcuBase + 0x10) = 512)

/-- REG_EN_CORE_ASSERT drives REG_EN_CORE, samples PAIR_SEL and starts VCORE at 0.75 V; after a power-on reset or a wake
  AO_STAT shows POWER_UP; an awaited PG starts the step's delay; its end drives REG_EN_SYS after PG_CORE, REG_EN_IO after
  PG_SYS, and makes the release due after PG_IO; nothing else changes (R55, R60, R73). A PG that stays away for 10 ms drops
  every enable and waits 100 ms, and the third failed attempt records the rail, reports 0xA003 and leaves the manager asleep
  with its enabled wake sources armed (R56); the wait's end starts over. -/
def Obligations.PowerUpSequence : Prop :=
  ∀ (s : State) (sel : Bool) (r : Rail),
    (s.pwr.phase = .start → Gives (.regEnCoreAssert sel) s fun t => t.pwr =
      { s.pwr with enCore := true, phase := .waitPg .core, pairSel := sel, vcore := 750, vcoreGoal := 750 } ∧
      ((s.pwr.fromPor = true ∨ s.pwr.fromSleep = true) → t.rf (aoA 4) 2 0 = 4) ∧ RegsBut s t [aoA 4] ∧
      { t with pwr := s.pwr, regs := s.regs } = s)
    ∧ (s.pwr.phase = .waitPg r → Gives (.pgInputAsserted r) s fun t => t.pwr.pg r = true ∧ t.pwr.phase = .delay r ∧
      (t.pwr.enCore, t.pwr.enSys, t.pwr.enIo) = (s.pwr.enCore, s.pwr.enSys, s.pwr.enIo) ∧ (∀ q, q ≠ r → t.pwr.pg q =
      s.pwr.pg q) ∧ { t with pwr := s.pwr } = s)
    ∧ (s.pwr.phase = .delay .core → Gives .powerUpStepDelayExpiry s fun t => t =
      { s with pwr := { s.pwr with enSys := true, phase := .waitPg .sys, pgSys := s.pwr.pgSys } })
    ∧ (s.pwr.phase = .delay .sys → Gives .powerUpStepDelayExpiry s fun t => t =
      { s with pwr := { s.pwr with enIo := true, phase := .waitPg .io } })
    ∧ (s.pwr.phase = .delay .io → Gives .powerUpStepDelayExpiry s fun t => t =
      { s with pwr := { s.pwr with phase := .release } })
    ∧ (s.pwr.phase = .waitPg r ∧ s.pwr.attempts < 2 → Gives .pgTimeout s fun t => (t.pwr.enCore, t.pwr.enSys, t.pwr.enIo) =
      (false, false, false) ∧ t.pwr.attempts = s.pwr.attempts + 1 ∧ t.pwr.phase = .retryWait ∧ { t with pwr := s.pwr } = s)
    ∧ (s.pwr.phase = .waitPg r ∧ 2 ≤ s.pwr.attempts → Gives .pgTimeout s fun t => (t.pwr.enCore, t.pwr.enSys, t.pwr.enIo) =
      (false, false, false) ∧ t.pwr.failRail = some r ∧ t.pwr.phase = .asleep ∧ t.rf (aoA 4) 2 0 = 3 ∧ t.front =
      { s.front with armed := s.enabledSources } ∧ RegsBut s t [aoA 4] ∧ SameMem s t)
    ∧ (s.pwr.phase = .retryWait ∨ s.pwr.phase = .lossWait → Gives .powerUpRetryExpiry s fun t => t =
      { s with pwr := { s.pwr with phase := .start } })

/-- PG_LOSS takes that PG away, drops REG_EN_IO and starts the drop; but while R58 already drops the rails it is a chip
  reset with cause PG_LOSS that holds the logic die (R57). Each REG_EN_DROP_STEP drops SYS, then CORE, after a PG loss and
  at power-down for sleep alike, and nothing else (R57, R58). The loss of VBAT_AO leaves the sequencer off with the fuses as
  they are, and POWER_ON_RESET starts it anew with registers of the logic die at reset (R10, R55). -/
def Obligations.PowerDownSequence : Prop :=
  ∀ (s : State) (r : Rail),
    (s.pwr.pg r = true ∧ s.pwr.phase.down = false → Gives (.pgLoss r) s fun t => t.pwr.pg r = false ∧ t.pwr.enIo = false ∧
      t.pwr.phase = .lossDrop .sys ∧ t.pwr.held = true ∧ t.pwr.rstnOut = false ∧ t.rb rbcBase 5 = true ∧ t.fuse = s.fuse ∧
      t.pending = s.pending ∧ (∀ a, inMram a = true → t.ldb a = s.ldb a))
    ∧ (s.pwr.phase = .lossDrop .sys → Gives .regEnDropStep s fun t => t =
      { s with pwr := { s.pwr with enSys := false, pgSys := false, phase := .lossDrop .core } })
    ∧ (s.pwr.phase = .lossDrop .core → Gives .regEnDropStep s fun t => t =
      { s with pwr := { s.pwr with enCore := false, pgCore := false, phase := .lossWait } })
    ∧ (s.pwr.phase = .sleepDrop .sys → Gives .regEnDropStep s fun t => t =
      { s with pwr := { s.pwr with enSys := false, pgSys := false, phase := .sleepDrop .core } })
    ∧ (s.pwr.phase = .sleepDrop .core → Gives .regEnDropStep s fun t => t =
      { s with pwr := { s.pwr with enCore := false, pgCore := false, phase := .dropped } })
    ∧ (Gives .alwaysOnSupplyLoss s fun t => t.pwr.phase = .off ∧ t.fuse = s.fuse ∧ (∀ a, t.ldb a = if inMram a then s.ldb a
      else memReset a) ∧ t.pending = s.pending)
    ∧ (Gives .powerOnReset s fun t => t.pwr = {} ∧ t.fuse = s.fuse ∧ (∀ a, t.ldb a = if inMram a then s.ldb a else memReset a)
      ∧ t.pending = s.pending ∧ (∀ a, a < 0x80000000 → a ≠ fcBase → t.rd a = regReset a))
    ∧ (s.pwr.phase ≠ .off → Gives .xtal32kOscillationStart s fun t => t = { s with pwr := { s.pwr with xtal32k := true } })

/-- RSTN low for 10 µs or more while the module is up (or for 1 µs to 10 µs, where the part takes it), SW_RESET with its
  key, a trial that expires and EXTEST are chip resets: the logic die is held, RSTN_OUT low, the cause's bit of RST_CAUSE
  set, and fuses, MRAM, queue and the sequencer's enables kept (R75, R84, R95, R107). RSTN low for less than 1 µs changes
  nothing, and SW_RESET with any other key answers ACCESS and changes nothing. An EXTEST that is still selected keeps the
  hold when its 1.0 ms is over (R84). Fault resets whose 60 s of powered time are over count no more in RST_CNT (R694). -/
def Obligations.ChipResets : Prop :=
  ∀ (s : State) (n : Nat) (taken : Bool) (a : Acc) (key : BitVec 16) (env : BootEnv),
    (s.pwr.phase = .run ∧ (10000 ≤ n ∨ 1000 ≤ n ∧ taken = true) → Gives (.rstnPinReset n taken) s fun t => t.pwr.held = true
      ∧ t.pwr.rstnOut = false ∧ t.rb rbcBase 1 = true ∧ t.fuse = s.fuse ∧ t.pending = s.pending ∧ t.pwr.enCore =
      s.pwr.enCore ∧ (∀ x, inMram x = true → t.ldb x = s.ldb x))
    ∧ (n < 1000 ∨ n < 10000 ∧ taken = false → Gives (.rstnPinReset n taken) s fun t => t = s)
    ∧ (Reaches s a (rbcBase + 0xC) ∧ Manager s a ∧ key = 0x9640 → Gives (.swReset a key) s fun t => t.pwr.held = true ∧
      t.pwr.rstnOut = false ∧ t.rb rbcBase 2 = true ∧ t.fuse = s.fuse ∧ t.pending = s.pending ∧ (∀ x, inMram x = true →
      t.ldb x = s.ldb x) ∧ Answers t .done)
    ∧ (Reaches s a (rbcBase + 0xC) ∧ Manager s a ∧ key ≠ 0x9640 ∧ NoHart a → Gives (.swReset a key) s fun t => Refuses s t
      .access)
    ∧ (s.logicOn = true ∧ s.rb bootStat 3 = true → Gives .trialExpiry s fun t => t.pwr.held = true ∧ t.pwr.rstnOut = false ∧
      t.rb rbcBase 6 = true ∧ t.fuse = s.fuse ∧ t.bootRec.active = s.bootRec.active)
    ∧ (s.pwr.vio = true ∧ s.pwr.extest = false → Gives .jtagExtest s fun t => t.pwr.held = true ∧ t.pwr.rstnOut = false ∧
      t.pwr.extest = true ∧ t.rb rbcBase 7 = true ∧ t.fuse = s.fuse ∧ t.pwr.phase = s.pwr.phase ∧ t.pwr.enCore =
      s.pwr.enCore)
    ∧ (s.pwr.phase = .run ∧ s.pwr.held = true ∧ s.pwr.holdRuns = true ∧ s.pwr.vcore = 750 ∧ s.pwr.extest = true → Gives
      (.chipResetRelease env) s fun t => t = { s with pwr := { s.pwr with holdRuns := false } })
    ∧ (Gives .rstCntAgeOut s fun t => t.boot.rstAt = s.boot.rstAt.filter (fun x => s.powered < x + 30000000000) ∧ t.rd fcBase
      = setFld (s.rd fcBase) 27 24 (min 15 t.boot.rstAt.length) ∧ { t.boot with rstAt := s.boot.rstAt } = s.boot ∧ RegsBut s
      t [fcBase] ∧ { t with boot := s.boot, regs := s.regs } = s)

/-- At the release of a power-up, at the end of a chip reset's hold once VCORE is back at 0.75 V, and when a deselected
  EXTEST was all that held it, the logic die and RSTN_OUT are released, the sequencer runs with its enables as they were,
  BOOT_SEL is sampled, the time base starts at 0 and the fuses are as before, whatever the images in MRAM are and whatever
  the start meets (R62, R73, R84, R86, R95, R464). Selecting another instruction while the JTAG port is powered and EXTEST
  holds nothing changes only the selection, and IDCODE reads the identification of the silicon step (R85). -/
def Obligations.StartReleases : Prop :=
  ∀ (s : State) (env : BootEnv) (ir : JtagIr),
    (s.pwr.phase = .release ∧ s.pwr.extest = false → Gives (.logicResetRelease env) s fun t => t.pwr.held = false ∧
      t.pwr.rstnOut = true ∧ t.pwr.phase = .run ∧ t.pwr.bootSel = env.bootSel ∧ t.pwr.enCore = s.pwr.enCore ∧ t.tb.acc = 0 ∧
      t.fuse = s.fuse ∧ t.pending = s.pending)
    ∧ (s.pwr.phase = .release ∧ s.pwr.extest = true → Gives (.logicResetRelease env) s fun t => t =
      { s with pwr := { s.pwr with phase := .run, held := true, holdRuns := false } })
    ∧ (s.pwr.phase = .run ∧ s.pwr.held = true ∧ s.pwr.holdRuns = true ∧ s.pwr.vcore = 750 ∧ s.pwr.extest = false → Gives
      (.chipResetRelease env) s fun t => t.pwr.held = false ∧ t.pwr.rstnOut = true ∧ t.pwr.phase = .run ∧ t.pwr.bootSel =
      env.bootSel ∧ t.pwr.enCore = s.pwr.enCore ∧ t.tb.acc = 0 ∧ t.fuse = s.fuse ∧ t.pending = s.pending)
    ∧ (s.pwr.extest = true ∧ s.pwr.phase = .run ∧ s.pwr.held = true ∧ s.pwr.holdRuns = false ∧ s.pwr.vcore = 750 ∧ ir ≠
      .extest → Gives (.jtagExtestRelease env ir) s fun t => t.pwr.held = false ∧ t.pwr.rstnOut = true ∧ t.pwr.phase = .run
      ∧ t.pwr.jtag = ir ∧ t.pwr.bootSel = env.bootSel ∧ t.tb.acc = 0 ∧ t.fuse = s.fuse ∧ t.pending = s.pending)
    ∧ (s.pwr.vio = true ∧ ir ≠ .extest ∧ (s.pwr.extest = false ∨ s.pwr.held = false ∨ s.pwr.holdRuns = true ∨ s.pwr.phase ≠
      .run ∨ s.pwr.vcore ≠ 750) → Gives (.jtagExtestRelease env ir) s fun t => t.pwr = { s.pwr with jtag := ir } ∧ t.resp =
      (if ir = .idcode then ⟨.done, (s.fuse.stepMaj ++ (0x9640 : BitVec 16) ++ (0x5AD : BitVec 11) ++ 1#1).zeroExtend 64⟩
      else s.resp) ∧ { t with pwr := s.pwr, resp := s.resp } = s)

/-- A flit with a CRC error is replayed and nothing else sees it (R11). A link that retrains goes on with fewer lanes and
  fault 0x0005 is reported (R12). A link without a valid flit for 2 ms is lost, and a power die behind it enters limp-home
  (R13); a link carries flits again only while the die behind it is supplied, and then its buffered reports are delivered
  (R400). The one VOUT_MODE read changes nothing else when the answer is ULINEAR16; any other answer sends VCORE back to
  0.75 V and caps both clusters at 1.5 GHz (R61). After it, a VCORE step moves VCORE towards its goal by at most 25 mV and
  never past it; a raised clock follows once VCORE has arrived, and a falling step changes nothing else (R62). -/
def Obligations.Links : Prop :=
  (∀ (s : State) (k : Link) (lanes : Nat),
    ((s.link k).up = true → Gives (.flitCrcError k) s fun t => (t.link k).replays = (s.link k).replays + 1 ∧ (t.link k).up =
      true ∧ (t.link k).lanes = (s.link k).lanes ∧ { t with links := s.links } = s)
    ∧ ((s.link k).up = true ∧ (lanes = 1 ∨ lanes = 2) ∧ lanes < (s.link k).lanes → Gives (.linkRetrain k lanes) s fun t =>
      (t.link k).lanes = lanes ∧ (t.link k).up = true ∧ Reported s t [(0x0005, 0, 0)] ∧
      { t with links := s.links, reports := s.reports } = s)
    ∧ ((s.link k).up = true → Gives (.linkSilentTimeout k) s fun t => (t.link k).up = false ∧ (k.val < 2 → t.rb (dieBase k) 1
      = true) ∧ t.pwr = s.pwr ∧ t.fuse = s.fuse ∧ SameMem s t)
    ∧ ((s.link k).up = false ∧ s.logicOn = true ∧ (k.val < 2 → (s.die k).supplied = true) → Gives (.linkRestored k) s fun t =>
      (t.link k).up = true ∧ t.dieLog (k + 1) = {} ∧ (∃ l, t.reports = s.reports ++ (s.dieLog (k + 1)).kept ++ l) ∧ t.regs =
      s.regs ∧ t.mem = s.mem ∧ t.pwr = s.pwr))
  ∧ (∀ (s : State) (reply : VoutReply),
    (s.logicOn = true ∧ s.pwr.voutRead = false ∧ reply = .ulinear16 → Gives (.pmbusVoutModeRead reply) s fun t => t =
      { s with pwr := { s.pwr with voutRead := true } })
    ∧ (s.logicOn = true ∧ s.pwr.voutRead = false ∧ reply ≠ .ulinear16 → Gives (.pmbusVoutModeRead reply) s fun t => t =
      { s with pwr := { s.pwr with voutRead := true, capped := true, vcoreGoal := 750, clk0 := min 60 (s.rf (islA 0) 6 0), clk1 := min 60 (s.rf (islA 1) 6 0) } })
    ∧ (s.pwr.voutRead = true ∧ s.pwr.vcore < s.pwr.vcoreGoal → Gives .vcoreStep s fun t => s.pwr.vcore < t.pwr.vcore ∧
      t.pwr.vcore ≤ s.pwr.vcore + 25 ∧ t.pwr.vcore ≤ t.pwr.vcoreGoal ∧ t.pwr.vcoreGoal = s.pwr.vcoreGoal ∧ (t.pwr.vcore <
      t.pwr.vcoreGoal → (t.pwr.clk0, t.pwr.clk1) = (s.pwr.clk0, s.pwr.clk1)) ∧ (t.pwr.vcore = t.pwr.vcoreGoal → t.pwr.clk0 =
      min (if s.pwr.capped then 60 else 80) (s.rf (islA 0) 6 0) ∧ t.pwr.clk1 = min (if s.pwr.capped then 60 else 80) (s.rf
      (islA 1) 6 0)) ∧ { t with pwr := s.pwr } = s)
    ∧ (s.pwr.voutRead = true ∧ s.pwr.vcoreGoal < s.pwr.vcore → Gives .vcoreStep s fun t => t.pwr.vcore < s.pwr.vcore ∧
      s.pwr.vcore ≤ t.pwr.vcore + 25 ∧ t.pwr.vcoreGoal ≤ t.pwr.vcore ∧ t =
      { s with pwr := { s.pwr with vcore := t.pwr.vcore } }))

/-- With TID 0, and W = 1 or an island that is not Reserve-held: STOP of an island that may stop takes its clock and RUN
  away and clearing it starts the island again; GATE takes the value written; FREQ of a cluster takes a value from 16 to its
  limit, of another island only 0, and nothing else; PHY_PWR takes its bits, and a port that powers down loses its link. A
  reset or stop of an island that has none, and a FREQ outside its range, answer RANGE; a TID other than 0 is denied (R38,
  R120, R19). -/
def Obligations.IslandControl : Prop :=
  ∀ (s : State) (a : Acc) (i : Island) (b : Bool) (f : BitVec 7) (pd : Word),
    (Reaches s a (islA i) ∧ MayAsk s a i ∧ (b = true → islStops i = true) ∧ s.freqOk i (s.rf (islA i) 6 0) = true → Gives
      (.islStop a i b) s fun t => t.rb (islA i) 30 = b ∧ t.islOf i = (if b = true ∧ s.rb (islA i) 30 = false ∧ s.islOf i ≠
      .hold then .stopped else if b = false ∧ s.rb (islA i) 30 = true ∧ s.islOf i = .stopped then .starting else s.islOf i)
      ∧ (t.islOf i ≠ s.islOf i → t.rb (islA i) 28 = false) ∧ t.rb (islA i) 29 = s.rb (islA i) 29 ∧ t.rf (islA i) 6 0 = s.rf
      (islA i) 6 0 ∧ RegsBut s t [islA i] ∧ (∀ j, j ≠ i.val → t.islOf j = s.islOf j) ∧ Answers t .done ∧
      { t with regs := s.regs, resp := s.resp, isl := s.isl } = s)
    ∧ (Reaches s a (islA i) ∧ MayAsk s a i ∧ (s.rb (islA i) 30 = true → islStops i = true) ∧ s.freqOk i (s.rf (islA i) 6 0) =
      true → Gives (.islGate a i b) s fun t => t.rd (islA i) = setBit (s.rd (islA i)) 29 b ∧ RegsBut s t [islA i] ∧ Answers
      t .done ∧ RegsOnly s t)
    ∧ (Reaches s a (islA i) ∧ MayAsk s a i ∧ (s.rb (islA i) 30 = true → islStops i = true) ∧ s.freqOk i f.toNat = true → Gives
      (.islFreq a i f) s fun t => t.rd (islA i) = (if i.val < 2 then setFld (s.rd (islA i)) 6 0 f.toNat else s.rd (islA i))
      ∧ RegsBut s t [islA i] ∧ Answers t .done ∧ { t with regs := s.regs, resp := s.resp, pwr := s.pwr } = s ∧
      { t.pwr with vcoreGoal := s.pwr.vcoreGoal, clk0 := s.pwr.clk0, clk1 := s.pwr.clk1 } = s.pwr)
    ∧ (Reaches s a (islA i) ∧ (s.tagsOf a.who).tid = 0 ∧ (s.freqOk i f.toNat = false ∨ islStops i = false ∧ s.rb (islA i) 30 =
      true) ∧ NoHart a → Gives (.islFreq a i f) s fun t => Refuses s t .range)
    ∧ (Reaches s a (islA i) ∧ (s.tagsOf a.who).tid = 0 ∧ islStops i = false ∧ NoHart a → Gives (.islReset a i) s fun t =>
      Refuses s t .range)
    ∧ (Reaches s a (islA i) ∧ (s.tagsOf a.who).tid = 0 ∧ islStops i = false ∧ NoHart a → Gives (.islStop a i true) s fun t =>
      Refuses s t .range)
    ∧ (Reaches s a (islA i) ∧ (s.tagsOf a.who).tid ≠ 0 ∧ NoHart a → Gives (.islReset a i) s fun t => Denies s t (islA i))
    ∧ (Reaches s a (icuBase + 0x80) ∧ MayAsk s a 5 → Gives (.phyPowerWrite a pd) s fun t => (∀ p, p < 15 → t.rb (icuBase +
      0x80) p = bit pd p) ∧ (∀ p, p < 15 → bit pd p = true → s.rb (icuBase + 0x80) p = false → t.linkUp p = false) ∧ (∀ x, x
      ≠ icuBase + 0x80 → islandOf x ≠ 5 → x < tblBase → t.rd x = s.rd x) ∧ SameMem s t ∧ Answers t .done ∧
      { t with regs := s.regs, mem := s.mem, esw := s.esw, brg := s.brg, prm := s.prm, reports := s.reports, resp := s.resp }
      = s)

/-- ISL_CTL.RESET of an island that has one, asked with TID 0 and W = 1 or of an island that is not Reserve-held, holds it
  with RUN clear, answers DONE and keeps fuses, power, links and the other islands (R38, R40). A reset of NW returns its
  registers and controllers and nothing outside to their reset values, a reset of C1 harts 4 to 7. The hold ends with the
  island starting, or stopped where STOP is set; a started island runs, RUN set (R38, R40). -/
def Obligations.IslandReset : Prop :=
  ∀ (s : State) (a : Acc) (i : Island),
    (Reaches s a (islA i) ∧ MayAsk s a i ∧ islStops i = true ∧ s.freqOk i (s.rf (islA i) 6 0) = true → Gives (.islReset a i)
      s fun t => t.islOf i = .hold ∧ t.rb (islA i) 28 = false ∧ (NoHart a → Answers t .done) ∧ t.fuse = s.fuse ∧ t.pwr =
      s.pwr ∧ t.links = s.links ∧ (∀ j, j ≠ i.val → t.islOf j = s.islOf j))
    ∧ (Reaches s a (islA 7) ∧ MayAsk s a 7 ∧ NoHart a ∧ s.freqOk 7 (s.rf (islA 7) 6 0) = true → Gives (.islReset a 7) s fun t
      => t.cans = [] ∧ t.lins = [] ∧ (∀ x, islandOfReg x = 7 → (∀ n, n < 16 → x ≠ canBase + n * 0x1000 + 0x34) → t.rd x =
      regReset x) ∧ (∀ n, n < 16 → t.rd (canBase + n * 0x1000 + 0x34) = s.rd (canBase + n * 0x1000 + 0x34) &&& 7) ∧ (∀ x,
      islandOfReg x ≠ 7 → x ≠ islA 7 → t.rd x = s.rd x) ∧
      { t with regs := s.regs, cans := s.cans, lins := s.lins, isl := s.isl, resp := s.resp } = s)
    ∧ (Reaches s a (islA 1) ∧ MayAsk s a 1 ∧ a.who = .carried 0 (s.tagsOf a.who).w ∧ s.boundary = [] ∧ s.brg = [] ∧ (∀ p ∈
      s.casks, p.2.waits = []) ∧ s.freqOk 1 (s.rf (islA 1) 6 0) = true → Gives (.islReset a 1) s fun t => (∀ h, h < 4 →
      t.hart h = s.hart h) ∧ (∀ h, 4 ≤ h → h < 8 → (t.hart h).held = true ∧ (t.hart h).pc = 0 ∧ t.hart h = (s.hart
      h).resetKeep) ∧ RegsBut s t [islA 1] ∧ { t with regs := s.regs, harts := s.harts, isl := s.isl, resp := s.resp } = s)
    ∧ (s.logicOn = true ∧ s.islOf i = .hold → Gives (.islandResetRelease i) s fun t => t.islOf i = (if s.rb (islA i) 30 then
      .stopped else .starting) ∧ t.rb (islA i) 28 = false ∧ RegsBut s t [islA i] ∧ { t with regs := s.regs, isl := s.isl } =
      s)
    ∧ (s.logicOn = true ∧ s.islOf i = .starting → Gives (.islandReady i) s fun t => t.islOf i = .running ∧ t.rb (islA i) 28 =
      true ∧ RegsBut s t [islA i] ∧ { t with regs := s.regs, isl := s.isl } = s)

/-- A PLL that loses lock clears LOCK of its island and reports 0x0007; a lost reference sets REF_LOST with fault 0x0008,
  and its return clears it (R45). A transaction that has waited longest at an island's boundary completes with TIMEOUT and
  no data, fault 0x0001 with its address, and takes no effect: a hart's ends so with its access, an engine thread's with the
  status in wd (R16). An access to an island that does not run waits there and changes nothing else (R16). -/
def Obligations.ClocksAndBoundaries : Prop :=
  ∀ (s : State) (i : Island) (a : Acc) (addr : Nat) (c : Instr) (load : Bool) (l : List Waiting) (v : Word) (l0 : List Waiting) (h : HartId) (e : Eng) (u : Thr) (d : Fin 16),
    (s.logicOn = true ∧ i ≠ 10 ∧ s.rb icuBase i = true → Gives (.pllLockLost i) s fun t => t.rd icuBase = setBit (s.rd
      icuBase) i false ∧ Reported s t [(0x0007, 0, 0)] ∧ RegsBut s t [icuBase] ∧
      { t with regs := s.regs, reports := s.reports } = s)
    ∧ (s.logicOn = true ∧ s.rb icuBase 31 = false → Gives .referenceClockLost s fun t => t.rd icuBase = setBit (s.rd icuBase)
      31 true ∧ Reported s t [(0x0008, 0, 0)] ∧ RegsBut s t [icuBase] ∧ { t with regs := s.regs, reports := s.reports } = s)
    ∧ (s.logicOn = true → Gives .referenceClockRestored s fun t => t = s.wr icuBase (setBit (s.rd icuBase) 31 false))
    ∧ (s.boundary = l0 ++ ⟨i, c, .access a addr load, none⟩ :: l ∧ (∀ y ∈ l0, y.island ≠ i.val) ∧ NoHart a → Gives
      (.islandTransactionTimeout i) s fun t => t.boundary = l0 ++ l ∧ Answers t .timeout ∧ Reported s t [(0x0001, addr % 2 ^
      32, addr / 2 ^ 32 % 2 ^ 32)] ∧ { t with boundary := s.boundary, resp := s.resp, reports := s.reports } = s)
    ∧ (s.boundary = l0 ++ ⟨i, c, .access a addr load, none⟩ :: l ∧ (∀ y ∈ l0, y.island ≠ i.val) ∧ a.who = .hart h → Gives
      (.islandTransactionTimeout i) s fun t => t = { s with boundary := l0 ++ l, reports := t.reports }.finish a addr
      .timeout 0 load ∧ Reported s t [(0x0001, addr % 2 ^ 32, addr / 2 ^ 32 % 2 ^ 32)])
    ∧ (s.boundary = l0 ++ ⟨i, c, .engine e u d addr, none⟩ :: l ∧ (∀ y ∈ l0, y.island ≠ i.val) ∧ s.thState e u = 3 ∧ (s.thr e
      u).held = none → Gives (.islandTransactionTimeout i) s fun t => t.boundary = l0 ++ l ∧ WakesSt s t e u d .timeout [] ∧
      Reported s t [(0x0001, addr % 2 ^ 32, addr / 2 ^ 32 % 2 ^ 32)] ∧
      { t with boundary := s.boundary, regs := s.regs, thrs := s.thrs, reports := s.reports } = s)
    ∧ (s.logicOn = true ∧ s.draining = false ∧ s.islOf (islandOf (wcA 0x20)) ≠ .running → Gives (.rwdEnable a v) s fun t => t
      = { s with boundary := s.boundary ++ [⟨islandOf (wcA 0x20), .rwdEnable a v, .access a (wcA 0x20) false, none⟩] })

/-- While unlocked, the manager's write sets FL_SRAM up to 512, FL_MRAM up to 384, LABEL_EN and a label word that names no
  world 3, and nothing else; LOCK stays set once set, and a locked setting answers ACCESS with fault 0x3005 (R575, R576,
  R578, R579). EN starts the Reserve watchdog with TMO and WMIN; a kick with its KEY no sooner than WMIN restarts it, and
  any other expires it with fault 0x3004; half the timeout is WARN, fault 0x3003 (R583, R585). -/
def Obligations.WorldSettings : Prop :=
  ∀ (s : State) (a : Acc) (v : Word) (n : Fin 512) (key hi : BitVec 16),
    (Reaches s a wcuBase ∧ Manager s a ∧ s.rb wcuBase 31 = false ∧ fld v 9 0 ≤ 512 → Gives (.fillLineWrite a .flSram v) s
      fun t => Writes s t (wcA 0x10) v)
    ∧ (Reaches s a wcuBase ∧ Manager s a ∧ s.rb wcuBase 31 = false ∧ fld v 9 0 ≤ 384 → Gives (.fillLineWrite a .flMram v) s
      fun t => Writes s t (wcA 0x14) v)
    ∧ (Reaches s a wcuBase ∧ Manager s a ∧ s.rb wcuBase 31 = false → Gives (.fillLineWrite a .labelEn v) s fun t => t.rb
      wcuBase 0 = bit v 0 ∧ t.rb wcuBase 31 = false ∧ RegsBut s t [wcuBase] ∧ RegsOnly s t ∧ Answers t .done)
    ∧ (Reaches s a wcuBase ∧ Manager s a ∧ (∀ j, j < 16 → fld v (2 * j + 1) (2 * j) ≠ 3) → Gives (.fillLineWrite a (.label n)
      v) s fun t => t.rd (wcA (0x8000 + n * 4)) = v ∧ RegsBut s t [wcA (0x8000 + n * 4)] ∧ RegsOnly s t ∧ Answers t .done)
    ∧ (Reaches s a wcuBase ∧ Manager s a ∧ NoHart a ∧ s.rb wcuBase 31 = true → Gives (.fillLineWrite a .flSram v) s fun t =>
      Answers t .access ∧ Reported s t [(0x3005, 0, 0)] ∧ { t with resp := s.resp, reports := s.reports } = s)
    ∧ (Reaches s a wcuBase ∧ Manager s a → Gives (.wcuLock a) s fun t => t.rb wcuBase 31 = true ∧ t.rb wcuBase 0 = s.rb
      wcuBase 0 ∧ RegsBut s t [wcuBase] ∧ RegsOnly s t ∧ Answers t .done)
    ∧ (Reaches s a wcuBase ∧ Manager s a ∧ 1 ≤ fld v 15 0 ∧ fld v 15 0 ≤ 10000 ∧ fld v 28 16 < fld v 15 0 → Gives (.rwdEnable
      a v) s fun t => t.rb (wcA 0x20) 31 = true ∧ t.rf (wcA 0x20) 15 0 = fld v 15 0 ∧ t.rf (wcA 0x20) 28 16 = fld v 28 16 ∧
      t.rb (wcA 0x20) 30 = bit v 30 ∧ t.rwd = (if s.rb (wcA 0x20) 31 then s.rwd else ⟨fld v 15 0, fld v 28 16, s.ticks,
      false, false⟩) ∧ RegsBut s t [wcA 0x20] ∧ Answers t .done ∧ { t with regs := s.regs, rwd := s.rwd, resp := s.resp } =
      s)
    ∧ (Reaches s a wcuBase ∧ (s.tagsOf a.who).w = true ∧ s.rb (wcA 0x20) 31 = true ∧ s.rwd.expired = false ∧ key = 0x9640 ∧
      s.rwd.wmin * 500000 ≤ s.ticks - s.rwd.since → Gives (.rwdKick a key hi) s fun t => t =
      { s with rwd := ⟨s.rf (wcA 0x20) 15 0, s.rf (wcA 0x20) 28 16, s.ticks, false, false⟩, resp := ⟨.done, 0⟩ })
    ∧ (Reaches s a wcuBase ∧ (s.tagsOf a.who).w = true ∧ s.rb (wcA 0x20) 31 = true ∧ s.rwd.expired = false ∧ (key ≠ 0x9640 ∨
      s.ticks - s.rwd.since < s.rwd.wmin * 500000) → Gives (.rwdKick a key hi) s fun t => t.rwd =
      { s.rwd with expired := true } ∧ Reported s t [(0x3004, s.rwd.tmo % 2 ^ 32, 0)] ∧ Answers t .done ∧
      { t with rwd := s.rwd, reports := s.reports, resp := s.resp } = s)
    ∧ (s.logicOn = true ∧ s.rb (wcA 0x20) 31 = true ∧ s.rwd.expired = false ∧ s.rwdPaused = false ∧ s.rwd.warned = false ∧
      s.rwd.tmo * 500000 ≤ 2 * (s.ticks - s.rwd.since) → Gives .rwdWarn s fun t => t.rd (wcA 0x28) = setBit (s.rd (wcA
      0x28)) 31 true ∧ t.rwd = { s.rwd with warned := true } ∧ Reported s t [(0x3003, s.rwd.tmo % 2 ^ 32, 0)] ∧ RegsBut s t
      [wcA 0x28] ∧ { t with regs := s.regs, rwd := s.rwd, reports := s.reports } = s)
    ∧ (s.logicOn = true ∧ s.rb (wcA 0x20) 31 = true ∧ s.rwd.expired = false ∧ s.rwdPaused = false ∧ s.rwd.tmo * 500000 ≤
      s.ticks - s.rwd.since → Gives .rwdExpiry s fun t => t.rwd = { s.rwd with expired := true } ∧ Reported s t [(0x3004,
      s.rwd.tmo % 2 ^ 32, 0)] ∧ { t with rwd := s.rwd, reports := s.reports } = s)

/-- A claim of a resource that nothing holds, by a tenant that is not in reset and with a FUNC the resource takes, records
  HELD, FUNC and the claimant's tags, and on the logic die changes nothing else; a Cask or a key slot counts against its
  slice; a claim of what another holds answers CONFLICT with fault 0x0004, and a FUNC it does not take RANGE; the recorded
  owner or the manager releases it, whereupon it reads 0, a buffer reservation with its BRES_CFG; another is denied (R31,
  R32, R33, R34, R436). A Cask or a key slot is an allocation, which a tenant whose EN is clear is refused with ACCESS
  (R510); a released Cask has CK_CFG at its reset value, every counter 0 and no mark (R499). -/
def Obligations.Ownership : Prop :=
  ∀ (s : State) (a : Acc) (addr : Addr) (f : BitVec 8) (w : Own) (n : Nat),
    (Reaches s a addr.toNat ∧ isFar addr.toNat = false ∧ ownAt addr.toNat = some w ∧ s.resetting (s.tagsOf a.who).tid =
      false ∧ w.takes f.toNat = true ∧ ownHeld (s.rd (ownCanon addr.toNat)) = false ∧ Allots s (s.tagsOf a.who) w → Gives
      (.ownershipClaim a addr f) s fun t => t =
      { s.wr (ownCanon addr.toNat) (ownWord (s.tagsOf a.who) f.toNat) with resp := ⟨.done, 0⟩ })
    ∧ (FarReaches s a (addr.toNat / 0x1000000 - 0x80) addr.toNat ∧ isFar addr.toNat = true ∧ ownAt addr.toNat = some w ∧
      s.resetting (s.tagsOf a.who).tid = false ∧ w.takes f.toNat = true ∧ ownHeld (s.rd addr.toNat) = false → Gives
      (.ownershipClaim a addr f) s fun t => t.rd addr.toNat = ownWord (s.tagsOf a.who) f.toNat ∧ (∀ x, x < 0x80000000 → t.rd
      x = s.rd x) ∧ SameMem s t ∧ t.front = s.front ∧ Answers t .done)
    ∧ (Reaches s a addr.toNat ∧ NoHart a ∧ isFar addr.toNat = false ∧ ownAt addr.toNat = some w ∧ s.resetting (s.tagsOf
      a.who).tid = false ∧ (w.slice = none ∨ s.tenantOn (s.tagsOf a.who).tid = true) ∧ w.takes f.toNat = true ∧ ownHeld
      (s.rd (ownCanon addr.toNat)) = true ∧ ownTags (s.rd (ownCanon addr.toNat)) ≠ s.tagsOf a.who → Gives (.ownershipClaim a
      addr f) s fun t => Answers t .conflict ∧ Reported s t [(0x0004, addr.toNat % 2 ^ 32, addr.toNat / 2 ^ 32)] ∧
      { t with resp := s.resp, reports := s.reports } = s)
    ∧ (Reaches s a addr.toNat ∧ NoHart a ∧ isFar addr.toNat = false ∧ ownAt addr.toNat = some w ∧ s.resetting (s.tagsOf
      a.who).tid = false ∧ (w.slice = none ∨ s.tenantOn (s.tagsOf a.who).tid = true) ∧ w.takes f.toNat = false → Gives
      (.ownershipClaim a addr f) s fun t => Refuses s t .range)
    ∧ (Reaches s a addr.toNat ∧ isFar addr.toNat = false ∧ ownAt addr.toNat = some w ∧ ownHeld (s.rd (ownCanon addr.toNat)) =
      true ∧ (Manager s a ∨ ownTags (s.rd (ownCanon addr.toNat)) = s.tagsOf a.who) → Gives (.ownershipRelease a addr) s fun
      t => t.rd (ownCanon addr.toNat) = 0 ∧ (releaseOnly w = true → t = { s.wr addr.toNat 0 with resp := ⟨.done, 0⟩ }) ∧ (∀
      i, w = .bres i → t = { (s.wr addr.toNat 0).wr (eswBase + 0x104 + i * 8) 0 with resp := ⟨.done, 0⟩ }) ∧ Answers t
      .done)
    ∧ (FarReaches s a (addr.toNat / 0x1000000 - 0x80) addr.toNat ∧ isFar addr.toNat = true ∧ ownAt addr.toNat = some w ∧
      ownHeld (s.rd addr.toNat) = true ∧ (Manager s a ∨ ownTags (s.rd addr.toNat) = s.tagsOf a.who) → Gives
      (.ownershipRelease a addr) s fun t => t.rd addr.toNat = 0 ∧ (∀ x, x < 0x80000000 → t.rd x = s.rd x) ∧ SameMem s t ∧
      t.front = s.front ∧ Answers t .done)
    ∧ (Reaches s a addr.toNat ∧ NoHart a ∧ isFar addr.toNat = false ∧ ownAt addr.toNat = some w ∧ ownHeld (s.rd (ownCanon
      addr.toNat)) = true ∧ ¬ Manager s a ∧ ownTags (s.rd (ownCanon addr.toNat)) ≠ s.tagsOf a.who → Gives (.ownershipRelease
      a addr) s fun t => Answers t .access ∧ (w.slice = none → Denies s t addr.toNat))
    ∧ (Reaches s a addr.toNat ∧ NoHart a ∧ isFar addr.toNat = false ∧ ownAt addr.toNat = some w ∧ w.slice ≠ none ∧ s.resetting
      (s.tagsOf a.who).tid = false ∧ s.tenantOn (s.tagsOf a.who).tid = false → Gives (.ownershipClaim a addr f) s fun t => t
      = { s with resp := ⟨.access, 0⟩ })
    ∧ (Reaches s a addr.toNat ∧ n < 512 ∧ addr.toNat = ckA n 0 ∧ ownHeld (s.rd (ckA n 0)) = true ∧ (Manager s a ∨ ownTags
      (s.rd (ckA n 0)) = s.tagsOf a.who) → Gives (.ownershipRelease a addr) s fun t => t.rd (ckA n 0) = 0 ∧ t.rd (ckA n 4) =
      1 ∧ t.rd (ckA n 0x10) = 0 ∧ t.rd (ckA n 0x14) = 0 ∧ t.rb (ckA n 0x18) 31 = false ∧ t.rf (ckA n 0x18) 15 0 = 0 ∧
      RegsBut s t [ckA n 0, ckA n 4, ckA n 0x10, ckA n 0x14, ckA n 0x18] ∧ t.cask n = {} ∧ Answers t .done)

/-- A write of 1, 2, 4 or 8 bytes that lies in system SRAM, or in MRAM above the boot records, by tags that may write there
  stores its bytes little-endian, mends the words it covers and changes no byte outside them (R3, R21, R577); one to Reserve
  memory from the Table world, or to a bank without TID 0 and W = 1, is denied (R96, R577); the boot ROM answers ACCESS; an
  address of no region answers RANGE with fault 0x0002 (R22); a page that BLK_RES holds is denied to the Table world (R580).
  -/
def Obligations.AddressedAccess : Prop :=
  ∀ (s : State) (a : Acc) (addr : Addr) (n : Nat) (v : DWord),
    (Reaches s a addr.toNat ∧ (n = 1 ∨ n = 2 ∨ n = 4 ∨ n = 8) ∧ (within addr.toNat n 0x10000000 0x12000000 = true ∨ within
      addr.toNat n 0x20000000 0x22000000 = true) ∧ s.mayWrite (s.tagsOf a.who) addr.toNat n = true → Gives (.registerWrite a
      addr n v) s fun t => (∀ i, i < n → t.ldb (addr.toNat + i) = BitVec.ofNat 8 (v.toNat >>> (8 * i))) ∧ MemBut s t
      addr.toNat n ∧ Answers t .done ∧ t.regs = s.regs ∧
      { t with mem := s.mem, eccBad := s.eccBad, harts := s.harts, resp := s.resp } = s)
    ∧ (Reaches s a addr.toNat ∧ NoHart a ∧ (n = 1 ∨ n = 2 ∨ n = 4 ∨ n = 8) ∧ (within addr.toNat n 0x10000000 0x12000000 = true
      ∨ within addr.toNat n 0x20000000 0x22000000 = true) ∧ s.mayWrite (s.tagsOf a.who) addr.toNat n = false → Gives
      (.registerWrite a addr n v) s fun t => Denies s t addr.toNat)
    ∧ (Reaches s a addr.toNat ∧ NoHart a ∧ addr.toNat + n ≤ 0x10000 → Gives (.registerWrite a addr n v) s fun t => Refuses s t
      .access)
    ∧ (Reaches s a addr.toNat ∧ NoHart a ∧ 0x50000000 ≤ addr.toNat ∧ addr.toNat < 0x80000000 → Gives (.registerWrite a addr n
      v) s fun t => Answers t .range ∧ Reported s t [(0x0002, addr.toNat, 0)] ∧
      { t with resp := s.resp, reports := s.reports } = s)
    ∧ (s.logicOn = true ∧ s.mustWait (islandOf addr.toNat) = false ∧ NoHart a ∧ a.tagFail = false ∧ s.pageHeld addr.toNat =
      true ∧ (s.tagsOf a.who).w = false → Gives (.registerWrite a addr n v) s fun t => Denies s t addr.toNat)

/-- The manager's write of a quota register takes effect when quota and guarantee fit the slice, the guarantee is no larger
  than the quota, and all guarantees and uses still fit (R501, R502). HART_TID takes its TID. TH_SLICE of a halted thread
  takes a tenant that is on, in its own world, or none, whose bounds meet those of no other tags (R504, R505). TN_CFG sets
  EN and, while EN is clear, the world; TN_STAT follows, and DENY_CNT restarts (R510). The manager sends DOWN when it is
  empty, which sets DOWN_FULL and raises the MSI that MB_TGT names; the tenant acknowledges it; the tenant sends UP when it
  is empty, which sets UP_FULL and the manager's pending bit; the manager acknowledges it (R506, R508). TN_CTL.RESET puts
  the tenant in RESETTING; its end in time, or after 20 µs, empties DOWN, leaves a record with its status, clears EN, makes
  the tenant OFF and interrupts the manager, with fault 0x4083 or 0x4084 (R509, R511, R512). -/
def Obligations.TenantRegisters : Prop :=
  (∀ (s : State) (a : Acc) (n : Tid) (r : Fin 5) (k : Slice) (h : HartId) (e : Eng) (th : Thr) (v : Word),
    (Reaches s a tnmBase ∧ Manager s a ∧ n ≠ 0 ∧ r.val < 4 ∧ quotaSlice (0x10 + r * 4) = some k ∧ QuotaFits s n.toNat k (fld
      v 9 0) (fld v 25 16) → Gives (.quotaWrite a n r v) s fun t => Writes s t (tnA n.toNat k.reg) v)
    ∧ (Reaches s a tnmBase ∧ Manager s a ∧ n ≠ 0 ∧ r.val = 4 ∧ QuotaFits s n.toNat .cphCtx (fld v 6 0) (fld v 22 16) → Gives
      (.quotaWrite a n r v) s fun t => Writes s t (tnA n.toNat 0x28) v)
    ∧ (Reaches s a tnmBase ∧ Manager s a ∧ NoHart a ∧ n ≠ 0 ∧ r.val < 4 ∧ fld v 9 0 < fld v 25 16 → Gives (.quotaWrite a n r
      v) s fun t => Refuses s t .range)
    ∧ (Reaches s a tnmBase ∧ Manager s a → Gives (.hartTidWrite a h n) s fun t => t.hartTid h = n ∧ RegsBut s t [tnmBase +
      0x100 + h * 4] ∧ RegsOnly s t ∧ Answers t .done)
    ∧ (Reaches s a tnmBase ∧ Manager s a ∧ s.thState e th = 0 ∧ (bit v 31 = true → s.tenantOn (BitVec.ofNat 8 (fld v 7 0)) =
      true ∧ s.resetting (BitVec.ofNat 8 (fld v 7 0)) = false ∧ (fld v 7 0 = 0 ∨ bit v 8 = s.rb (tnA (fld v 7 0) 0) 8)) ∧
      s.boundsMeet e th (sliceTags v) (s.rf (thA e th 0xC) 7 0) (s.rf (thA e th 0xC) 15 8) = false → Gives (.thSliceWrite a
      e th v) s fun t => t.threadTags (e * 8 + th) = sliceTags v ∧ Writes s t (tnmBase + 0x200 + (e * 8 + th) * 4) v)
    ∧ (Reaches s a tnmBase ∧ Manager s a ∧ NoHart a ∧ s.thState e th ≠ 0 → Gives (.thSliceWrite a e th v) s fun t => Refuses s
      t .conflict)
    ∧ (Reaches s a tnmBase ∧ Manager s a ∧ n ≠ 0 ∧ (s.rb (tnA n.toNat 0) 31 = true → bit v 8 = s.rb (tnA n.toNat 0) 8) → Gives
      (.tenantConfigWrite a n v) s fun t => t.rb (tnA n.toNat 0) 31 = bit v 31 ∧ t.rb (tnA n.toNat 0) 8 = bit v 8 ∧ t.rf
      (tnA n.toNat 8) 1 0 = (if s.resetting n then 2 else (bit v 31).toNat) ∧ t.rf (tnA n.toNat 8) 31 16 = 0 ∧ RegsBut s t
      [tnA n.toNat 0, tnA n.toNat 8] ∧ RegsOnly s t ∧ Answers t .done))
  ∧ (∀ (s : State) (a : Acc) (n : Tid),
    (Reaches s a tnmBase ∧ Manager s a ∧ n ≠ 0 ∧ s.rb (mbA n.toNat 0x20) 0 = false → Gives (.mbDownSend a n) s fun t => t.rb
      (mbA n.toNat 0x20) 0 = true ∧ t.msis = s.msis ++ (if s.rf (mbA n.toNat 0x24) 26 16 = 0 then [] else [⟨s.rf (mbA
      n.toNat 0x24) 2 0, 1 + s.rf (mbA n.toNat 0x24) 5 3, s.rf (mbA n.toNat 0x24) 26 16⟩]) ∧ RegsBut s t [mbA n.toNat 0x20]
      ∧ Answers t .done ∧ { t with regs := s.regs, msis := s.msis, resp := s.resp } = s)
    ∧ (Reaches s a tnmBase ∧ NoHart a ∧ Manager s a ∧ n ≠ 0 ∧ s.rb (mbA n.toNat 0x20) 0 = true → Gives (.mbDownSend a n) s fun
      t => Refuses s t .conflict)
    ∧ (Reaches s a tnmBase ∧ s.tagsOf a.who = s.tnTags n.toNat ∧ n ≠ 0 ∧ s.resetting n = false → Gives (.mbDownAck a n) s fun
      t => t = { s.wb (mbA n.toNat 0x20) 0 false with resp := ⟨.done, 0⟩ })
    ∧ (Reaches s a tnmBase ∧ s.tagsOf a.who = s.tnTags n.toNat ∧ n ≠ 0 ∧ s.resetting n = false ∧ s.rb (mbA n.toNat 0x20) 3 =
      false → Gives (.mbUpSend a n) s fun t => t.rb (mbA n.toNat 0x20) 3 = true ∧ t.rb (tnmBase + n.toNat / 32 * 4) (n.toNat
      % 32) = true ∧ RegsBut s t [mbA n.toNat 0x20, tnmBase + n.toNat / 32 * 4] ∧ RegsOnly s t ∧ Answers t .done)
    ∧ (Reaches s a tnmBase ∧ Manager s a ∧ n ≠ 0 → Gives (.mbUpAck a n) s fun t => t =
      { s.wb (mbA n.toNat 0x20) 3 false with resp := ⟨.done, 0⟩ })
    ∧ (Reaches s a tnmBase ∧ Manager s a ∧ n ≠ 0 ∧ s.resetting n = false → Gives (.tenantReset a n) s fun t => t.resetting n =
      true ∧ (NoHart a → Answers t .done) ∧ t.pwr = s.pwr ∧ t.fuse = s.fuse ∧ t.links = s.links)
    ∧ (Reaches s a tnmBase ∧ Manager s a ∧ NoHart a ∧ n ≠ 0 ∧ s.resetting n = true → Gives (.tenantReset a n) s fun t =>
      Refuses s t .conflict)
    ∧ (s.logicOn = true ∧ s.resetting n = true → Gives (.tenantResetEnd n) s fun t => t.rf (tnA n.toNat 8) 1 0 = 0 ∧ t.rb (tnA
      n.toNat 0) 31 = false ∧ t.rb (mbA n.toNat 0x20) 0 = false ∧ t.rf (mbA n.toNat 0x28) 7 0 = 0x00 ∧ t.rb (mbA n.toNat
      0x28) 31 = true ∧ t.rb (tnmBase + n.toNat / 32 * 4) (n.toNat % 32) = true ∧ Reported s t [(0x4083, n.toNat, 0)] ∧
      RegsBut s t [tnA n.toNat 0, tnA n.toNat 8, mbA n.toNat 0, mbA n.toNat 4, mbA n.toNat 8, mbA n.toNat 12, mbA n.toNat
      0x20, mbA n.toNat 0x28, tnmBase + n.toNat / 32 * 4] ∧
      { t with regs := s.regs, tnAborted := s.tnAborted, reports := s.reports } = s)
    ∧ (s.logicOn = true ∧ s.resetting n = true → Gives (.tenantResetTimeout n) s fun t => t.rf (tnA n.toNat 8) 1 0 = 0 ∧ t.rb
      (tnA n.toNat 0) 31 = false ∧ t.rb (mbA n.toNat 0x20) 0 = false ∧ t.rf (mbA n.toNat 0x28) 7 0 = 0x51 ∧ t.rb (mbA
      n.toNat 0x28) 31 = true ∧ t.rb (tnmBase + n.toNat / 32 * 4) (n.toNat % 32) = true ∧ Reported s t [(0x4084, n.toNat,
      0)] ∧ RegsBut s t [tnA n.toNat 0, tnA n.toNat 8, mbA n.toNat 0, mbA n.toNat 4, mbA n.toNat 8, mbA n.toNat 12, mbA
      n.toNat 0x20, mbA n.toNat 0x28, tnmBase + n.toNat / 32 * 4] ∧
      { t with regs := s.regs, tnAborted := s.tnAborted, reports := s.reports } = s))

/-- BANK_CTL.PENDING with a bank that does not run makes it the pending bank of the boot record, whose other copy takes the
  change under a 32-bit sequence one higher; the running bank is refused with CONFLICT (R97, R105). CONFIRM during a trial
  makes the trial bank active, ends the trial and never lowers the floor or a fuse (R106, R110); without a trial it changes
  nothing but that write. A migration that is stopped after 200 ms leaves the image recorded as migrated and running (R116).
  An image in system SRAM over the debug port starts if it passes R101, only in manufacturing mode do its fuses program, and
  any other image changes nothing (R118, R119). -/
def Obligations.BanksAndUpdate : Prop :=
  ∀ (s : State) (a : Acc) (b : Bool) (i : ImgSrc) (base : Addr) (ecc : Bool) (prog : List Provision),
    (Reaches s a rbcBase ∧ Manager s a ∧ s.rf (rbcBase + 8) 15 8 ≠ 0 ∧ s.runningBank ≠ some b → Gives (.bankPend a b) s fun
      t => t.rb (rbcBase + 8) 1 = true ∧ t.rb (rbcBase + 8) 0 = b ∧ (s.bootRec.seq + 1 < 2 ^ 32 → t.bootRec =
      { s.bootRec with seq := s.bootRec.seq + 1, pending := true, pendBank := b }) ∧ (∀ x, (x < 0x21FC0000 ∨ 0x21FC2000 ≤ x)
      → t.ldb x = s.ldb x) ∧ RegsBut s t [rbcBase + 8] ∧ Answers t .done ∧
      { t with regs := s.regs, mem := s.mem, eccBad := s.eccBad, harts := s.harts, resp := s.resp } = s)
    ∧ (Reaches s a rbcBase ∧ NoHart a ∧ Manager s a ∧ s.rf (rbcBase + 8) 15 8 ≠ 0 ∧ s.runningBank = some b → Gives (.bankPend
      a b) s fun t => Refuses s t .conflict)
    ∧ (Reaches s a rbcBase ∧ Manager s a ∧ s.rf (rbcBase + 8) 15 8 ≠ 0 ∧ (s.rb (rbcBase + 8) 1 = false ∨ s.runningBank ≠ some
      (s.rb (rbcBase + 8) 0)) ∧ s.rb bootStat 3 = true → Gives (.bankConfirm a) s fun t => (s.bootRec.seq + 2 < 2 ^ 32 →
      t.bootRec.active = s.rb bootStat 2 ∧ t.bootRec.trial = false) ∧ t.rb bootStat 3 = false ∧ s.mramFloor ≤ t.mramFloor ∧
      s.fuse.floor ≤ t.fuse.floor ∧ t.fuse.anchors = s.fuse.anchors ∧ t.fuse.revoked = s.fuse.revoked ∧ RegsBut s t [rbcBase
      + 8, bootStat] ∧ (∀ x, (x < 0x21FC0000 ∨ 0x21FC2020 ≤ x) → t.ldb x = s.ldb x) ∧ Answers t .done ∧
      { t with regs := s.regs, mem := s.mem, eccBad := s.eccBad, harts := s.harts, fuse := s.fuse, resp := s.resp } = s)
    ∧ (Reaches s a rbcBase ∧ Manager s a ∧ s.rf (rbcBase + 8) 15 8 ≠ 0 ∧ (s.rb (rbcBase + 8) 1 = false ∨ s.runningBank ≠ some
      (s.rb (rbcBase + 8) 0)) ∧ s.rb bootStat 3 = false → Gives (.bankConfirm a) s fun t => t.fuse = s.fuse ∧ t.mramFloor =
      s.mramFloor ∧ RegsBut s t [rbcBase + 8] ∧ Answers t .done)
    ∧ (s.logicOn = true ∧ s.boot.migrating = true ∧ s.boot.src = some i → Gives .migrationTimeout s fun t => t.boot.migrating
      = false ∧ t.boot.src = some i ∧ (s.bootRec.seq + 1 < 2 ^ 32 → t.bootRec.migrated = some (imgDigest (s.imgOf i))) ∧
      t.fuse = s.fuse ∧ t.pwr = s.pwr)
    ∧ (s.logicOn = true ∧ (s.boot.waitImage = false ∨ s.rf bootStat 1 0 ≠ 1 ∧ s.dbg.isOpen = false ∨ inSram base.toNat =
      false) → Gives (.mfgProvisionImage base ecc prog) s fun t => t = s)
    ∧ (s.logicOn = true ∧ s.boot.waitImage = true ∧ (s.rf bootStat 1 0 = 1 ∨ s.dbg.isOpen = true) ∧ inSram base.toNat = true →
      Gives (.mfgProvisionImage base ecc prog) s fun t => if s.imageCheck (s.img base.toNat) (0x12000000 - base.toNat) false
      (ecc || s.imgBad base.toNat) = 0 ∨ s.imageCheck (s.img base.toNat) (0x12000000 - base.toNat) true (ecc || s.imgBad
      base.toNat) = 0 then t.boot.waitImage = false ∧ t.boot.provisioned = true ∧ t.boot.src = some (.sram base.toNat) ∧
      t.fuse = (if s.rf bootStat 1 0 = 1 then prog.foldl Fuses.provision s.fuse else s.fuse) ∧ t.pwr = s.pwr else t = s)

/-- Written by its owner or the manager (R179): CLEAR, EN and SW_ON take effect in CH_CTL and complete with DONE whatever
  the channel's state and group, and of registers only the die's own change. For a channel outside any group: CLEAR moves a
  TRIPPED or LOCKED channel without demand to OFF with RETRY_CNT 0 (R128); EN or SW_ON completes the start condition and an
  OFF channel enters SOFT_ON, or withdraws it and a conducting channel enters OFF (R127, R128); only the channel's own
  registers and its bit of ADOPT_DIFF change. CH_CFG takes its fields, and a channel in OFF or LOCKED takes PAR_EN,
  PAR_MASTER and DUAL into effect at once (R166); a threshold outside its class answers RANGE with no effect (R181). -/
def Obligations.ChannelControl : Prop :=
  ∀ (s : State) (a : Acc) (c : Ch) (b : Bool) (v : Word),
    (ChWrites s a c 0xC → Gives (.chClear a c) s fun t => t.rb (chA c 0xC) 0 = s.rb (chA c 0xC) 0 ∧ t.rb (chA c 0xC) 1 =
      s.rb (chA c 0xC) 1 ∧ DieFrame s t (c / 32) ∧ Answers t .done)
    ∧ (ChWrites s a c 0xC ∧ (s.chState c = 4 ∨ s.chState c = 6) ∧ s.demand c = false ∧ Alone s c → Gives (.chClear a c) s fun
      t => t.chState c = 0 ∧ t.retryCnt c = 0 ∧ ChanFrame s t c)
    ∧ (ChWrites s a c 0xC → Gives (.chEn a c b) s fun t => t.rb (chA c 0xC) 1 = b ∧ t.rb (chA c 0xC) 0 = s.rb (chA c 0xC) 0 ∧
      DieFrame s t (c / 32) ∧ Answers t .done)
    ∧ (ChWrites s a c 0xC ∧ s.chState c = 0 ∧ (s.chI c).parEn = false ∧ s.uv (c / 32) = false ∧ s.limp (c / 32) = false ∧ s.rb
      (chA c 0x24) 8 = false ∧ s.rb (chA c 0x24) 9 = false ∧ s.demand c = true ∧ ownHeld (s.rd (chA c 0)) = true ∧
      s.interlock c = true ∧ (s.die (c / 32)).stagger = false → Gives (.chEn a c true) s fun t => t.chState c = 2 ∧
      ChanFrame s t c)
    ∧ (ChWrites s a c 0xC ∧ (s.chState c = 2 ∨ s.chState c = 3) ∧ Alone s c ∧ s.uv (c / 32) = false ∧ s.limp (c / 32) = false
      → Gives (.chEn a c false) s fun t => t.chState c = 0 ∧ ChanFrame s t c)
    ∧ (ChWrites s a c 0xC → Gives (.chSwOn a c b) s fun t => t.rb (chA c 0xC) 0 = b ∧ t.rb (chA c 0xC) 1 = s.rb (chA c 0xC) 1
      ∧ DieFrame s t (c / 32) ∧ Answers t .done)
    ∧ (ChWrites s a c 0xC ∧ s.chState c = 0 ∧ (s.chI c).parEn = false ∧ s.uv (c / 32) = false ∧ s.limp (c / 32) = false ∧ s.rb
      (chA c 0x24) 8 = false ∧ s.rb (chA c 0x24) 9 = false ∧ s.rf (chA c 4) 1 0 = 1 ∧ s.permit c = true ∧ s.interlock c =
      true ∧ (s.die (c / 32)).stagger = false → Gives (.chSwOn a c true) s fun t => t.chState c = 2 ∧ ChanFrame s t c)
    ∧ (ChWrites s a c 0xC ∧ (s.chState c = 2 ∨ s.chState c = 3) ∧ Alone s c ∧ s.uv (c / 32) = false ∧ s.limp (c / 32) = false
      ∧ s.rf (chA c 4) 1 0 = 1 → Gives (.chSwOn a c false) s fun t => t.chState c = 0 ∧ ChanFrame s t c)
    ∧ (ChWrites s a c 0x10 ∧ fld v 7 0 ≤ 200 ∧ (bit v 10 = true → chClass c ≠ 2) ∧ (bit v 17 = true → chClass c = 2) ∧ (bit v
      11 = true → s.ownerOf (chA c 0) = s.ownerOf (chA (c / 32 * 32 + fld v 16 12) 0)) → Gives (.chCfgWrite a c v) s fun t
      => t.rd (chA c 0x10) = maskedWrite (regDesc (chA c 0x10)) (s.rd (chA c 0x10)) v ∧ ((s.chState c = 0 ∨ s.chState c = 6)
      → (t.chI c).parEn = bit v 11 ∧ (t.chI c).parMaster = fld v 16 12 ∧ (t.chI c).dual = bit v 10) ∧ DieFrame s t (c / 32)
      ∧ Answers t .done)
    ∧ (FarAnswers s a (c / 32) (chA c 0x10) ∧ s.mayWriteOwned (s.tagsOf a.who) (chA c 0) = true ∧ NoHart a ∧ 200 < fld v 7 0 →
      Gives (.chCfgWrite a c v) s fun t => Answers t .range ∧ { t with resp := s.resp, brg := s.brg } = s)

/-- In SOFT_ON and ON: the filter time above the active threshold is INR inside the inrush window and OC outside it, a wire
  state at WIRE_I² is WIRE, a junction above T_SD is THERMAL, and a soft turn-on that takes too long is SOFT_TO, alone or
  together with what trips in the same 100 ns; each sets its event, LAST_TRIP is the lowest of the causes, and the channel,
  with all that switch with it, is TRIPPED while its retry budget lasts and LOCKED after (R128, R133, R135, R138, R140,
  R142, R154, R156). Elsewhere a latch sets with its event and no transition (R701). The wire state moves by R138 in every
  state, and its latch clears at half of WIRE_I² (R138, R139, R140). -/
def Obligations.ProtectiveTrips : Prop :=
  ∀ (s : State) (c : Ch) (l : List Nat) (mA : Int),
    (s.chState c = 2 → Gives (.softTurnOnTimeout c l) s fun t => Trips s t c (if 3 ∈ l ∧ s.rb (chA c 0x24) 9 = false then 3
      else if 4 ∈ l ∧ s.rb (chA c 0x24) 8 = false then 4 else 5) [10])
    ∧ (s.conducts c = true ∧ s.rb (chA c 0x24) 10 = false → Gives (.ocTrip c l) s fun t => Trips s t c 1 ([0] ++ (if 3 ∈ l
      then [2] else []) ++ (if 4 ∈ l then [3] else []) ++ (if 5 ∈ l then [10] else [])))
    ∧ (s.conducts c = true ∧ s.rb (chA c 0x24) 10 = true → Gives (.ocTrip c l) s fun t => Trips s t c 2 ([1] ++ (if 3 ∈ l then
      [2] else []) ++ (if 4 ∈ l then [3] else []) ++ (if 5 ∈ l then [10] else [])))
    ∧ (s.conducts c = true ∧ s.rb (chA c 0x24) 8 = false → Gives (.thermalShutdown c l) s fun t => t.rb (chA c 0x24) 8 = true
      ∧ Trips s t c (if 3 ∈ l ∧ s.rb (chA c 0x24) 9 = false then 3 else 4) [3])
    ∧ (s.conducts c = true ∧ s.rb (chA c 0x24) 9 = false ∧ s.rf (chA c 0x1C) 9 0 ≠ 0 ∧ wireAmps c (s.rf (chA c 0x1C) 9 0) *
      wireAmps c (s.rf (chA c 0x1C) 9 0) ≤ (s.chI c).theta + ((mA : Rat) / 1000 * ((mA : Rat) / 1000) - (s.chI c).theta) /
      (1000 * (s.rf (chA c 0x1C) 27 16 : Rat)) → Gives (.wireModelUpdate c mA) s fun t => t.rb (chA c 0x24) 9 = true ∧ Trips
      s t c 3 [2])
    ∧ (s.chState c ≠ 2 ∧ s.chState c ≠ 3 ∧ s.rb (chA c 0x24) 8 = false → Gives (.thermalShutdown c l) s fun t => t.chState c =
      s.chState c ∧ t.rb (chA c 0x24) 8 = true ∧ t.rb (chA c 0x28) 3 = true ∧ ChanFrame s t c)
    ∧ (Gives (.wireModelUpdate c mA) s fun t => (t.chI c).theta = (s.chI c).theta + ((mA : Rat) / 1000 * ((mA : Rat) / 1000) -
      (s.chI c).theta) / (1000 * (s.rf (chA c 0x1C) 27 16 : Rat)) ∧ t.rb (chA c 0x24) 9 = (if s.rf (chA c 0x1C) 9 0 = 0 then
      false else if s.rb (chA c 0x24) 9 then decide (wireAmps c (s.rf (chA c 0x1C) 9 0) * wireAmps c (s.rf (chA c 0x1C) 9 0)
      / 2 < (t.chI c).theta) else decide (wireAmps c (s.rf (chA c 0x1C) 9 0) * wireAmps c (s.rf (chA c 0x1C) 9 0) ≤ (t.chI
      c).theta)) ∧ DieFrame s t (c / 32))
    ∧ (s.rf (chA c 0x1C) 9 0 ≠ 0 ∧ s.rb (chA c 0x24) 9 = false ∧ (s.chI c).theta + ((mA : Rat) / 1000 * ((mA : Rat) / 1000) -
      (s.chI c).theta) / (1000 * (s.rf (chA c 0x1C) 27 16 : Rat)) < wireAmps c (s.rf (chA c 0x1C) 9 0) * wireAmps c (s.rf
      (chA c 0x1C) 9 0) → Gives (.wireModelUpdate c mA) s fun t => RegsBut s t [chA c 0x38] ∧
      { t with regs := s.regs, chs := s.chs } = s)

/-- SOFT_ON completes into ON, with every member of a group; the inrush window closes; the hard limit is entered with its
  event and left; T_WARN follows the junction; the thermal latch clears; a reverse current opens the blocking half of a
  heavy or medium channel that is ON, with its event, until it is released; RETRY_GOOD returns RETRY_CNT to 0; a member of a
  group whose share differs reports 0x10 of its domain; RETRY_DLY restarts a TRIPPED channel whose conditions hold,
  consuming one retry (R128, R134, R136, R141, R142, R151, R153, R155, R159, R165). -/
def Obligations.ChannelEvents : Prop :=
  ∀ (s : State) (c : Ch) (b : Bool),
    (s.chState c = 2 → Gives (.softOnComplete c) s fun t => (∀ k ∈ s.mates c, s.chState k = 2 → t.chState k = 3 ∧ (t.chI
      k).onAt = some s.ticks) ∧ RegsBut s t ((s.mates c).map (chA · 0x24)) ∧ { t with regs := s.regs, chs := s.chs } = s)
    ∧ (Gives (.inrushWindowClose c) s fun t => t = s.wb (chA c 0x24) 10 false)
    ∧ (s.conducts c = true ∧ s.rb (chA c 0x24) 11 = false → Gives (.hardLimitEntry c) s fun t => t.rb (chA c 0x24) 11 = true ∧
      t.rb (chA c 0x28) 8 = true ∧ t.chState c = s.chState c ∧ RegsBut s t [chA c 0x24, chA c 0x28] ∧
      { t with regs := s.regs } = s)
    ∧ (Gives (.hardLimitExit c) s fun t => t = s.wb (chA c 0x24) 11 false)
    ∧ (s.rb (chA c 0x24) 7 = false → Gives (.thermalWarn c b) s fun t => t.rb (chA c 0x24) 7 = b ∧ (b = true → t.rb (chA c
      0x28) 4 = true) ∧ t.chState c = s.chState c ∧ RegsBut s t (if b then [chA c 0x24, chA c 0x28] else []) ∧
      { t with regs := s.regs } = s)
    ∧ (s.rb (chA c 0x24) 7 = true → Gives (.thermalWarn c b) s fun t => t.rb (chA c 0x24) 7 = b ∧ t.chState c = s.chState c ∧
      RegsBut s t [chA c 0x24] ∧ { t with regs := s.regs } = s)
    ∧ (Gives (.thermalLatchClear c) s fun t => t.rb (chA c 0x24) 8 = false ∧ DieFrame s t (c / 32))
    ∧ ((s.chI c).parEn = false ∧ s.chState c = 4 ∧ s.rb (chA c 0x24) 9 = true → Gives (.thermalLatchClear c) s fun t => t.rb
      (chA c 0x24) 8 = false ∧ t.chState c = 4 ∧ ChanFrame s t c)
    ∧ (s.chState c = 3 ∧ chClass c ≠ 2 ∧ s.rb (chA c 0x24) 12 = false → Gives (.reverseCurrentBlock c) s fun t => t.rb (chA c
      0x24) 12 = true ∧ t.rb (chA c 0x28) 9 = true ∧ t.chState c = 3 ∧ RegsBut s t [chA c 0x24, chA c 0x28] ∧
      { t with regs := s.regs } = s)
    ∧ (Gives (.reverseBlockRelease c) s fun t => t = s.wb (chA c 0x24) 12 false)
    ∧ ((s.chI c).goodRuns = true → Gives (.retryGoodExpiry c) s fun t => t.retryCnt c = 0 ∧ (t.chI c).goodRuns = false ∧
      t.chState c = s.chState c ∧ RegsBut s t [chA c 0x24] ∧ { t with regs := s.regs, chs := s.chs } = s)
    ∧ (s.chState c = 3 ∧ 1 < (s.mates c).length → Gives (.parShareFault c) s fun t => ((s.link (c / 32)).up = true ∧ s.logicOn
      = true → Reported s t [(0x8010 + c / 32 * 0x1000, c, (s.rd (chA c 0x24)).toNat)]) ∧
      { t with reports := s.reports, dieLogs := s.dieLogs } = s)
    ∧ (s.chState c = 4 → Gives (.retryDelayExpiry c) s fun t => (t.chI (s.lead c)).dlyDone = true ∧ DieFrame s t (c / 32))
    ∧ ((s.chI c).parEn = false ∧ s.chState c = 4 ∧ s.startCond c = true ∧ s.retryCnt c < s.retryMax c ∧ (s.die (c /
      32)).stagger = false → Gives (.retryDelayExpiry c) s fun t => t.chState c = 2 ∧ t.retryCnt c = s.retryCnt c + 1 ∧ t.rb
      (chA c 0x28) 7 = true ∧ (t.chI c).goodRuns = true ∧ ChanFrame s t c)
    ∧ ((s.chI c).parEn = false ∧ s.chState c = 4 ∧ s.startCond c = false → Gives (.retryDelayExpiry c) s fun t => t.chState c
      = 4 ∧ ChanFrame s t c)

/-- Undervoltage is signalled, every conducting channel outside a group enters UV_OFF and a running stagger stops; its end
  starts the stagger, whose slots start at most eight eligible channels each, and which ends when a slot leaves none waiting
  (R144, R145, R147, R148, R149). Reverse battery is recorded until it ends, and while it lasts the light channels and no
  others are on (R161). A lost control supply returns the die's registers to their reset values and silences its link; a
  supply that comes up leaves the die in limp-home with the levels of the drive inputs (R180, R200). A drive input's level
  reaches every supplied die (R187). -/
def Obligations.PowerDieEvents : Prop :=
  ∀ (s : State) (d : PDie) (k : Fin 16) (b : Bool),
    (s.uv d = false → Gives (.uvDetect d) s fun t => t.uv d = true ∧ (t.die d).stagger = false ∧ (∀ c : Fin 64, c.val / 32 =
      d → (s.chI c).parEn = false → s.conducts c = true → t.chState c = 5) ∧ DieFrame s t d)
    ∧ (s.uv d = true → Gives (.uvClear d) s fun t => t.uv d = false ∧ t.die d =
      { s.die d with stagger := true, slotRan := false, started := [] } ∧ RegsBut s t [dieA d 0] ∧
      { t with regs := s.regs, dies := s.dies } = s)
    ∧ ((s.die d).stagger = true ∧ s.uv d = false ∧ ((s.die d).slotRan = false ∨ s.staggerOrder d ≠ []) → Gives (.staggerSlot
      d) s fun t => (t.die d).started.take (s.die d).started.length = (s.die d).started ∧ (t.die d).slotRan = true ∧ (t.die
      d).stagger = true ∧ ((t.die d).started.drop (s.die d).started.length).length ≤ 8 ∧ (∀ c ∈ (t.die d).started.drop
      (s.die d).started.length, s.eligible c = true ∧ ((s.chI c).parEn = false → t.chState c = 2)) ∧ DieFrame s t d)
    ∧ ((s.die d).stagger = true ∧ s.uv d = false ∧ (s.die d).slotRan = true ∧ s.staggerOrder d = [] → Gives (.staggerSlot d) s
      fun t => t.die d = { s.die d with stagger := false, slotRan := false } ∧ { t with dies := s.dies } = s)
    ∧ ((s.die d).reversed = false → Gives (.reverseBattery d) s fun t => t.rb (dieA d 0) 4 = true ∧ (t.die d).reversed = true
      ∧ (∀ c : Fin 64, c.val / 32 = d → t.switchOn c = (chClass c == 2)) ∧ ((s.link d).up = true ∧ s.logicOn = true →
      Reported s t [(0x800C + d * 0x1000, 0xFF, 0)]) ∧ RegsBut s t [dieA d 0] ∧
      { t with regs := s.regs, dies := s.dies, reports := s.reports, dieLogs := s.dieLogs } = s)
    ∧ (Gives (.reverseBatteryEnd d) s fun t => t.die d = { s.die d with reversed := false } ∧ (∀ c : Fin 64, c.val / 32 = d →
      t.switchOn c = (s.conducts c && !s.rb (chA c 0x24) 12)) ∧ { t with dies := s.dies } = s)
    ∧ (Gives (.dieSupplyLoss d) s fun t => (t.link d).up = false ∧ (t.die d).supplied = false ∧ (∀ x, inDie d x = true → t.rd
      x = regReset x) ∧ (∀ x, inDie d x = false → t.rd x = s.rd x) ∧ (∀ c : Fin 64, c.val / 32 = d → t.chI c = {}) ∧ (∀ c :
      Fin 64, c.val / 32 ≠ d → t.chI c = s.chI c) ∧ (∀ j ∈ s.linesOf d, (t.line j).dieLevel = false) ∧
      { t with regs := s.regs, chs := s.chs, dies := s.dies, links := s.links, lines := s.lines } = s)
    ∧ ((s.die d).supplied = false → Gives (.dieSupplyStart d) s fun t => (t.die d).supplied = true ∧ t.limp d = true ∧ t.rf
      (dieA d 0x108) 15 0 = s.dinLand.toNat ∧ (∀ x, inDie d x = false → t.rd x = s.rd x) ∧ t.links = s.links ∧ t.pwr = s.pwr
      ∧ SameMem s t)
    ∧ (Gives (.dinEdge k b) s fun t => bit (wd t.dinLand.toNat) k = b ∧ ((s.die d).supplied = true → t.rb (dieA d 0x108) k =
      b) ∧ (∀ j : Fin 16, j ≠ k → t.rb (dieA d 0x108) j = s.rb (dieA d 0x108) j) ∧ t.pwr = s.pwr ∧ SameMem s t ∧ (∀ x, x <
      0x80000000 → t.rd x = s.rd x))

/-- A read of MEAS_POP_LO answers the oldest sample and removes it, keeping its second word in MEAS_POP_HI, or KIND 7 when
  there is none; OVF_RST clears OVF_CNT and a write of DEC restarts the selection (R176). A current sample reaches CH_I with
  its kind and clamp bit, a voltage or temperature sample its half of CH_VT, and of the far dies' registers only the
  diagnostics' and OVF_CNT beside them; what the engines keep of samples may change (R172, R176, R192, R196). A calibrated
  converter takes over the next channel of the rotation; one that fails calibration is retired with fault 0x08 of the die's
  domain, and a second makes every sample UNCAL with fault 0x09 (R169, R170, R171). At the end of a tenth of a second I_SUM,
  where it is updated, is the mean of the last ten sums and P_EST this tenth's, saturating, with SUM_OVER above 100 A and
  P_OVER above 8 W (R177). -/
def Obligations.PowerDieMeasurement : Prop :=
  ∀ (s : State) (a : Acc) (d : PDie) (c : Ch) (x : Sample) (l : List Sample) (dec : BitVec 10) (kind : Fin 5) (v : Int) (m : Word) (b b2 : Bool),
    (FarReaches s a d (dieA d 0x20000) ∧ Manager s a ∧ (s.die d).fifo = x :: l → Gives (.measPop a d) s fun t => t.resp =
      ⟨.done, x.w0.zeroExtend 64⟩ ∧ (t.die d).fifo = l ∧ t.rd (dieA d 0x20004) = x.w1 ∧ RegsBut s t [dieA d 0x20004] ∧
      { t with regs := s.regs, dies := s.dies, brg := s.brg, resp := s.resp } = s)
    ∧ (FarReaches s a d (dieA d 0x20000) ∧ Manager s a ∧ (s.die d).fifo = [] → Gives (.measPop a d) s fun t => t.resp =
      ⟨.done, 0x01C00000⟩ ∧ { t with brg := s.brg, resp := s.resp } = s)
    ∧ (FarReaches s a d (dieA d 0x10) ∧ Manager s a → Gives (.measOvfRst a d) s fun t => t.rf (dieA d 0x10) 23 16 = 0 ∧ t.rf
      (dieA d 0x10) 9 0 = s.rf (dieA d 0x10) 9 0 ∧ RegsBut s t [dieA d 0x10] ∧ Answers t .done ∧
      { t with regs := s.regs, brg := s.brg, resp := s.resp } = s)
    ∧ (FarReaches s a d (dieA d 0x10) ∧ Manager s a ∧ dec.toNat ≤ 1000 → Gives (.measDecSet a d dec) s fun t => t.rf (dieA d
      0x10) 9 0 = dec.toNat ∧ t.rf (dieA d 0x10) 23 16 = s.rf (dieA d 0x10) 23 16 ∧ (t.die d).seen = [] ∧ (t.die d).fifo =
      (s.die d).fifo ∧ RegsBut s t [dieA d 0x10] ∧ Answers t .done ∧
      { t with regs := s.regs, dies := s.dies, brg := s.brg, resp := s.resp } = s)
    ∧ (kind.val < 2 → Gives (.measSample c kind v m) s fun t => t.rd (chA c 0x30) = wd ((sampleOf (s.rb (chA c 0x10) 17) (s.rb
      (chA c 0x10) 17).toNat v).1 + (s.rb (chA c 0x10) 17).toNat * 2 ^ 16 + (sampleOf (s.rb (chA c 0x10) 17) (s.rb (chA c
      0x10) 17).toNat v).2.toNat * 2 ^ 17) ∧ t.rd (chA c 0x34) = s.rd (chA c 0x34) ∧ (t.chI c).handover = false ∧
      SampleFrame s t (sampleRegs c))
    ∧ (2 ≤ kind.val → Gives (.measSample c kind v m) s fun t => t.rf (chA c 0x34) 15 0 = (if kind = 2 then (sampleOf false 2
      v).1 else s.rf (chA c 0x34) 15 0) ∧ t.rf (chA c 0x34) 31 16 = (if kind = 3 then (sampleOf false 3 v).1 else s.rf (chA
      c 0x34) 31 16) ∧ t.chs = s.chs ∧ SampleFrame s t [chA c 0x34, dieA (c / 32) 0x10])
    ∧ (s.rb (chA c 0x10) 17 = false ∧ 32000 < v → Gives (.measSample c 0 v m) s fun t => t.rf (chA c 0x30) 15 0 = 32000 ∧ t.rb
      (chA c 0x30) 17 = true)
    ∧ ((s.die d).calibrated = some b ∧ (s.die d).conv.length = 32 ∧ (s.die d).rotation < 32 → Gives (.converterHandover d) s
      fun t => (t.die d).conv[(s.die d).rotation]? = some (s.calSlot d b) ∧ t.calSlot d b = (s.die d).conv.getD (s.die
      d).rotation 0x3F % 64 ∧ t.calSlot d (!b) = s.calSlot d (!b) ∧ (t.die d).rotation = ((s.die d).rotation + 1) % 32 ∧
      (t.die d).calibrated = none ∧ (t.chI (d * 32 + (s.die d).rotation)).handover = true ∧ RegsBut s t [dieA d 0xC] ∧
      { t with regs := s.regs, dies := s.dies, chs := s.chs } = s)
    ∧ (s.calSlot d b ≠ 0x3F → Gives (.calibrationComplete d b true) s fun t => t.die d = { s.die d with calibrated := some b }
      ∧ { t with dies := s.dies } = s)
    ∧ (s.calSlot d b ≠ 0x3F → Gives (.calibrationComplete d b false) s fun t => (t.die d).retired = (s.die d).retired ++
      [s.calSlot d b] ∧ (t.die d).uncal = ((s.die d).uncal || !(s.die d).retired.isEmpty) ∧ t.calSlot d b = 0x3F ∧ t.rf
      (dieA d 0xC) 17 16 = (if (s.die d).retired = [] then 1 else 0) ∧ ((s.link d).up = true ∧ s.logicOn = true → Reported s
      t ([(0x8008 + d.val * 0x1000, 0xFF, 0)] ++ if (s.die d).retired = [] then [] else [(0x8009 + d.val * 0x1000, 0xFF,
      0)])) ∧ RegsBut s t [dieA d 0xC] ∧
      { t with regs := s.regs, dies := s.dies, reports := s.reports, dieLogs := s.dieLogs } = s)
    ∧ (Gives (.dieMonitorUpdate d b b2) s fun t => (t.die d).iTenths = (((chansOf d).map fun k => (s.monMean k).1).sum ::
      (s.die d).iTenths).take 10 ∧ t.rf (dieA d 8) 15 0 = (if b then min ((t.die d).iTenths.sum / (t.die d).iTenths.length /
      10000) 65535 else s.rf (dieA d 8) 15 0) ∧ t.rf (dieA d 8) 31 16 = (if b2 then min (((chansOf d).map fun k =>
      (s.monMean k).2).sum / (2000 * 10 ^ 15)) 65535 else s.rf (dieA d 8) 31 16) ∧ t.rb (dieA d 0) 2 = (if b then decide
      (100000000 < (t.die d).iTenths.sum / (t.die d).iTenths.length) else s.rb (dieA d 0) 2) ∧ t.rb (dieA d 0) 3 = (if b2
      then decide (8000 * (2000 * 10 ^ 15) < ((chansOf d).map fun k => (s.monMean k).2).sum) else s.rb (dieA d 0) 3) ∧ (s.rf
      (dieA d 0) 3 2 = 0 → (s.link d).up = true ∧ s.logicOn = true → Reported s t ((if t.rb (dieA d 0) 2 then [(0x800A +
      d.val * 0x1000, 0xFF, 0)] else []) ++ if t.rb (dieA d 0) 3 then [(0x800B + d.val * 0x1000, 0xFF, 0)] else [])) ∧
      RegsBut s t [dieA d 0, dieA d 8] ∧
      { t with regs := s.regs, chs := s.chs, dies := s.dies, reports := s.reports, dieLogs := s.dieLogs } = s)

/-- CH_DRV, written by the owner or the manager, selects a source that the owner holds, and answers CONFLICT for a line or
  input it does not hold (R184, R185); with a channel outside any group only the channel changes. Of the edges on their way
  to the die the oldest arrives: an immediate one and one less than 2 µs before its instant or after it are applied and
  leave the queue, the latter counted, any other waits; one that an edge of the same instant follows has no effect; an edge
  whose instant is reached sets the level, which starts a channel that follows the line and may start (R183, R188, R250). A
  line without an edge for TMO takes SAFE, with TMO_HIT and fault 0x4008 (R251). CH_LIMP sets the policy (R202). -/
def Obligations.DriveSources : Prop :=
  ∀ (s : State) (a : Acc) (c : Ch) (v : Word) (ln : Line) (e : Edge) (p q : List Edge) (n : Nat),
    (ChWrites s a c 4 ∧ (fld v 1 0 = 2 → fld v 13 8 < 16 ∧ s.dinHeldBy (fld v 13 8) (s.ownerOf (chA c 0)) = true) ∧ (fld v 1
      0 = 3 → s.lineHeldBy (fld v 13 8) c (s.ownerOf (chA c 0)) = true) → Gives (.chDrvWrite a c v) s fun t => t.rd (chA c
      4) = maskedWrite (regDesc (chA c 4)) (s.rd (chA c 4)) v ∧ (Alone s c → ChanFrame s t c) ∧ DieFrame s t (c / 32) ∧
      Answers t .done)
    ∧ (FarAnswers s a (c / 32) (chA c 4) ∧ s.mayWriteOwned (s.tagsOf a.who) (chA c 0) = true ∧ NoHart a ∧ fld v 1 0 = 3 ∧
      s.lineHeldBy (fld v 13 8) c (s.ownerOf (chA c 0)) = false → Gives (.chDrvWrite a c v) s fun t => Answers t .conflict ∧
      { t with resp := s.resp, brg := s.brg } = s)
    ∧ (LineLink s ln ∧ (s.line ln).queue = p ++ e :: q ∧ (∀ f ∈ p, f.arrived = true) ∧ e.arrived = false ∧ (∀ f ∈ q, f.at_ ≠
      e.at_) ∧ (e.now = true ∨ future e.at_ s.now = false ∨ (e.at_ - s.now).toNat < 2000) → Gives (.driveEdgeReceive ln) s
      fun t => (t.line ln).dieLevel = e.level ∧ (t.line ln).queue = p ++ q ∧ (t.line ln).timedOut = false ∧ t.rf (dlA ln 8)
      15 8 = (if e.now then s.rf (dlA ln 8) 15 8 else min (s.rf (dlA ln 8) 15 8 + 1) 255) ∧ (∀ x, x < 0x80000000 → x ≠ dlA
      ln 8 → t.rd x = s.rd x) ∧ t.front = s.front ∧ SameMem s t)
    ∧ (LineLink s ln ∧ (s.line ln).queue = p ++ e :: q ∧ (∀ f ∈ p, f.arrived = true) ∧ e.arrived = false ∧ (∀ f ∈ q, f.at_ ≠
      e.at_) ∧ e.now = false ∧ future e.at_ s.now = true ∧ 2000 ≤ (e.at_ - s.now).toNat → Gives (.driveEdgeReceive ln) s fun
      t => t.line ln = { s.line ln with queue := p ++ { e with arrived := true } :: q, timedOut := false } ∧
      { t with lines := s.lines } = s)
    ∧ (LineLink s ln ∧ (s.line ln).queue = p ++ e :: q ∧ (∀ f ∈ p, f.arrived = true) ∧ e.arrived = false ∧ (∃ f ∈ q, f.at_ =
      e.at_) → Gives (.driveEdgeReceive ln) s fun t => t.line ln = { s.line ln with queue := p ++ q, timedOut := false } ∧
      { t with lines := s.lines } = s)
    ∧ ((s.line ln).queue = e :: q ∧ e.arrived = true ∧ reached e.at_ s.now = true → Gives (.driveEdgeApply ln) s fun t =>
      (t.line ln).dieLevel = (if ∃ f ∈ q, f.at_ = e.at_ then (s.line ln).dieLevel else e.level) ∧ (t.line ln).queue = q ∧ (∀
      x, x < 0x80000000 → t.rd x = s.rd x) ∧ t.front = s.front ∧ SameMem s t)
    ∧ ((s.line ln).queue = e :: q ∧ e.arrived = true ∧ e.level = true ∧ reached e.at_ s.now = true ∧ (∀ f ∈ q, f.at_ ≠ e.at_)
      ∧ s.lineCh ln = some c.val ∧ (s.chI c).parEn = false ∧ (s.chI c).barred = false ∧ s.chState c = 0 ∧ s.rf (chA c 4) 1 0
      = 3 ∧ s.rf (chA c 4) 13 8 = ln ∧ s.rb (chA c 4) 16 = false ∧ s.uv (c / 32) = false ∧ s.limp (c / 32) = false ∧ s.rf
      (chA c 0x24) 9 8 = 0 ∧ s.permit c = true ∧ s.interlock c = true ∧ (s.die (c / 32)).stagger = false → Gives
      (.driveEdgeApply ln) s fun t => t.chState c = 2)
    ∧ (s.rf (dlA ln 4) 23 16 ≠ 0 ∧ (s.line ln).timedOut = false → Gives (.driveLineTimeout ln) s fun t => (t.line ln).dieLevel
      = s.rb (dlA ln 4) 24 ∧ (t.line ln).timedOut = true ∧ t.rb (dlA ln 8) 16 = (s.rb (dlA ln 8) 16 || (s.line ln).dieLevel
      != s.rb (dlA ln 4) 24) ∧ (∀ x, x < 0x80000000 → x ≠ dlA ln 8 → t.rd x = s.rd x) ∧ t.front = s.front ∧ SameMem s t ∧
      (s.lineCh ln = none → (s.line ln).dieLevel ≠ s.rb (dlA ln 4) 24 → Reported s t [(0x4008, ln, 0)]))
    ∧ (ChWrites s a c 8 ∧ fld v 28 16 ≤ 6000 ∧ (fld v 1 0 = 3 → s.dinHeldBy (fld v 7 4) (s.ownerOf (chA c 0)) = true) → Gives
      (.chLimpWrite a c v n) s fun t => t.rd (chA c 8) = maskedWrite (regDesc (chA c 8)) (s.rd (chA c 8)) v ∧ (Alone s c →
      ChanFrame s t c) ∧ DieFrame s t (c / 32) ∧ Answers t .done)

/-- SIN_CFG, written by the owner or the manager, takes fields in range and restarts a pulse series whose shape changes;
  MODE 3 answers RANGE (R192). A sample writes its clamped value and the debounced state: DEB samples in a row beyond the
  threshold of the other state change it (R191). FMEAS pop answers and removes the oldest sample, or KIND 7, and OVF_RST
  clears OVF_CNT (R194). -/
def Obligations.SenseInputs : Prop :=
  ∀ (s : State) (a : Acc) (n : Fin 32) (v : Word) (z : Int) (m : Word) (x : Sample) (l : List Sample),
    (FarReaches s a 2 (sinA n 4) ∧ s.mayWriteOwned (s.tagsOf a.who) (sinA n 0) = true ∧ fld v 5 4 < 3 ∧ fld v 2 0 ≠ 0 ∧ fld
      v 23 16 ≠ 0 ∧ 1 ≤ fld v 15 8 ∧ fld v 15 8 ≤ 200 → Gives (.sinCfgWrite a n v) s fun t => t.rd (sinA n 4) = maskedWrite
      (regDesc (sinA n 4)) (s.rd (sinA n 4)) v ∧ (fld v 5 4 = 2 → fld v 23 8 ≠ s.rf (sinA n 4) 23 8 → (t.sin n).restart =
      true) ∧ RegsBut s t [sinA n 4] ∧ Answers t .done ∧
      { t with regs := s.regs, sins := s.sins, front := s.front, brg := s.brg, resp := s.resp } = s ∧
      { t.front with seen := s.front.seen } = s.front)
    ∧ (FarAnswers s a 2 (sinA n 4) ∧ NoHart a ∧ s.mayWriteOwned (s.tagsOf a.who) (sinA n 0) = true ∧ fld v 5 4 = 3 → Gives
      (.sinCfgWrite a n v) s fun t => Answers t .range ∧ { t with resp := s.resp, brg := s.brg } = s)
    ∧ (Gives (.sinSample n z m) s fun t => t.rf (sinA n 0xC) 15 0 = (max 0 (min z 4000)).toNat ∧ t.rb (sinA n 0xC) 31 = (if
      sinBeyond s n z ∧ s.rf (sinA n 4) 31 24 ≤ (s.sin n).cnt + 1 then !s.rb (sinA n 0xC) 31 else s.rb (sinA n 0xC) 31) ∧
      t.sin n =
      { cnt := if sinBeyond s n z ∧ (s.sin n).cnt + 1 < s.rf (sinA n 4) 31 24 then (s.sin n).cnt + 1 else 0, restart := false }
      ∧ SampleFrame { s with sins := t.sins, front := t.front } t [sinA n 0xC, frontBase + 0x2000] ∧
      { t.front with fifo := s.front.fifo, seen := s.front.seen } = s.front)
    ∧ (FarReaches s a 2 (frontBase + 0x20000) ∧ Manager s a ∧ s.front.fifo = x :: l → Gives (.fmeasPop a) s fun t => t.resp =
      ⟨.done, x.w0.zeroExtend 64⟩ ∧ t.front = { s.front with fifo := l } ∧ t.rd (frontBase + 0x20004) = x.w1 ∧ RegsBut s t
      [frontBase + 0x20004] ∧ { t with regs := s.regs, front := s.front, brg := s.brg, resp := s.resp } = s)
    ∧ (FarReaches s a 2 (frontBase + 0x20000) ∧ Manager s a ∧ s.front.fifo = [] → Gives (.fmeasPop a) s fun t => t.resp =
      ⟨.done, 0x01C00000⟩ ∧ { t with brg := s.brg, resp := s.resp } = s)
    ∧ (FarReaches s a 2 (frontBase + 0x2000) ∧ Manager s a → Gives (.fmeasOvfRst a) s fun t => t.rf (frontBase + 0x2000) 23 16
      = 0 ∧ t.rf (frontBase + 0x2000) 9 0 = s.rf (frontBase + 0x2000) 9 0 ∧ RegsBut s t [frontBase + 0x2000] ∧ Answers t
      .done ∧ { t with regs := s.regs, brg := s.brg, resp := s.resp } = s)

/-- With the probe source free, an off-state evaluation of an OFF channel opens the sink and connects the pull-up; 500 µs
  later the counts follow VOUT against 5.6 V and 3.5 V and the pull-up opens again; where the pull-up may not connect
  SHORT_BAT is judged at once and the OPEN_OFF count stays (R197, R198, R700). A hold window that expires takes that
  channel's held demand away (R202). ADOPT ends limp-home and every channel of the die leaves its limp demand (R205). -/
def Obligations.OffDiagnosticsAndLimp : Prop :=
  ∀ (s : State) (a : Acc) (c : Ch) (d : PDie) (z : Int) (n : Nat),
    (s.rb (chA c 0x48) 0 = true ∧ s.chState c = 0 ∧ (s.die (c / 32)).probe = none → Gives (.offDiagEvalStart c z) s fun t =>
      t.chI c = { s.chI c with pullUp := true, sink := false } ∧ { t with chs := s.chs } = s)
    ∧ (s.rb (chA c 0x48) 0 = true ∧ (4 ≤ s.chState c ∧ s.chState c ≤ 6 ∨ s.chState c = 0 ∧ (s.die (c / 32)).probe ≠ none) →
      Gives (.offDiagEvalStart c z) s fun t => t.chI c =
      { s.chI c with shortCnt := if 2800 < z then min ((s.chI c).shortCnt + 1) 15 else 0 } ∧ RegsBut s t [chA c 0x4C, chA c
      0x50] ∧ { t with regs := s.regs, chs := s.chs, reports := s.reports, dieLogs := s.dieLogs } = s)
    ∧ ((s.chI c).pullUp = true ∧ s.chState c = 0 ∧ s.rb (chA c 0x48) 0 = true → Gives (.offDiagEvalCompare c z) s fun t =>
      t.chI c =
      { s.chI c with pullUp := false, sink := true, shortCnt := if 2800 < z then min ((s.chI c).shortCnt + 1) 15 else 0, openCnt := if 1750 < z ∧ z ≤ 2800 then min ((s.chI c).openCnt + 1) 15 else 0 }
      ∧ RegsBut s t [chA c 0x4C, chA c 0x50] ∧
      { t with regs := s.regs, chs := s.chs, reports := s.reports, dieLogs := s.dieLogs } = s)
    ∧ ((s.chI c).pullUp = true ∧ (s.chState c ≠ 0 ∨ s.rb (chA c 0x48) 0 = false) → Gives (.offDiagEvalCompare c z) s fun t =>
      t.chI c = { s.chI c with pullUp := false, sink := true } ∧ { t with chs := s.chs } = s)
    ∧ (s.limp d = true ∧ c.val / 32 = d.val ∧ s.rf (chA c 8) 1 0 = 1 ∧ s.rf (chA c 8) 28 16 ≠ 0 ∧ s.rf (chA c 8) 28 16 ≤ n ∧
      (s.chI c).holdOver = false → Gives (.holdWindowExpiry d n) s fun t => (t.chI c).holdOver = true ∧ (t.die
      d).holdReported = true ∧ t.limp d = true ∧ DieFrame s t d)
    ∧ (FarReaches s a d (dieA d 0x100) ∧ Manager s a ∧ s.limp d = true ∧ (s.die d).loadFailed = false → Gives (.limpAdopt a d)
      s fun t => t.limp d = false ∧ (∀ k : Ch, k.val / 32 = d → (t.chI k).held = false ∧ (t.chI k).holdOver = false) ∧
      Answers t .done ∧ DieFrame s t d)
    ∧ (FarReaches s a d (dieA d 0x100) ∧ Manager s a ∧ (s.limp d = false ∨ (s.die d).loadFailed = true) → Gives (.limpAdopt a
      d) s fun t => Answers t .done ∧ { t with brg := s.brg, resp := s.resp } = s)

/-- TS_CTL.GO queues an OFF channel without demand and answers CONFLICT for one that is on; ABORT takes it from the queue
  with ABORTED (R213, R214). The probe takes the next queued channel into TASTE (R215). VOUT below 4.5 V is LOW_Z and above
  5.5 V EXT_V; no delimiter in time is NO_ANSWER (R215). The first good frame is kept with VALID and decides against TS_EXP;
  a bad frame that uses up TRIES is CRC (R210, R212, R216). The end frees the probe, sets TASTE_DONE and the channel is OFF
  again (R215). -/
def Obligations.LoadTasting : Prop :=
  ∀ (s : State) (a : Acc) (c : Ch) (d : PDie) (l : List Nat) (z : Int) (hi : Bool) (f : TagFrame),
    (ChWrites s a c 0x60 ∧ s.rf (chA c 0x60) 3 2 ≠ 3 ∧ s.chState c = 0 ∧ s.demand c = false ∧ c.val ∉ (s.die (c /
      32)).tasteQ ∧ (s.die (c / 32)).probe ≠ some c.val → Gives (.tasteGo a c) s fun t => t.die (c / 32) =
      { s.die (c / 32) with tasteQ := (s.die (c / 32)).tasteQ ++ [c.val] } ∧ t.rb (chA c 0x64) 4 = true ∧ RegsBut s t [chA c
      0x60, chA c 0x64] ∧ Answers t .done ∧ { t with regs := s.regs, dies := s.dies, brg := s.brg, resp := s.resp } = s)
    ∧ (ChWrites s a c 0x60 ∧ s.rf (chA c 0x60) 3 2 ≠ 3 ∧ (c.val ∈ (s.die (c / 32)).tasteQ ∨ (s.die (c / 32)).probe = some
      c.val) → Gives (.tasteGo a c) s fun t => RegsBut s t [chA c 0x60] ∧ Answers t .done ∧
      { t with regs := s.regs, brg := s.brg, resp := s.resp } = s)
    ∧ (FarAnswers s a (c / 32) (chA c 0x60) ∧ s.mayWriteOwned (s.tagsOf a.who) (chA c 0) = true ∧ NoHart a ∧ (s.chState c ≠ 0
      ∨ s.demand c = true) ∧ s.rf (chA c 0x60) 3 2 ≠ 3 ∧ c.val ∉ (s.die (c / 32)).tasteQ ∧ (s.die (c / 32)).probe ≠ some
      c.val → Gives (.tasteGo a c) s fun t => Answers t .conflict ∧ { t with resp := s.resp, brg := s.brg } = s)
    ∧ (ChWrites s a c 0x60 ∧ s.rf (chA c 0x60) 3 2 ≠ 3 → Gives (.tasteAbort a c) s fun t => ((s.die (c / 32)).probe = some
      c.val → (s.die (c / 32)).tasteOver = false → t.rf (chA c 0x64) 3 0 = 10 ∧ (t.die (c / 32)).tasteOver = true) ∧ (c.val
      ∈ (s.die (c / 32)).tasteQ → (s.die (c / 32)).probe ≠ some c.val → c.val ∉ (t.die (c / 32)).tasteQ ∧ t.rf (chA c 0x64)
      3 0 = 10 ∧ t.rb (chA c 0x64) 4 = false) ∧ RegsBut s t [chA c 0x60, chA c 0x64] ∧ Answers t .done ∧
      { t with regs := s.regs, dies := s.dies, brg := s.brg, resp := s.resp } = s)
    ∧ (s.uv d = false ∧ (s.die d).probe = none ∧ (s.die d).tasteQ = c.val :: l ∧ s.chState c = 0 → Gives (.tasteStart d) s fun
      t => t.chState c = 1 ∧ (∀ k ∈ chansOf d, (t.chI k).pullUp = false) ∧ (t.die d).probe = some c.val ∧ (t.die d).tasteQ =
      l ∧ t.rf (chA c 0x64) 3 0 = 1 ∧ RegsBut s t [chA c 0x64, chA c 0x24] ∧
      { t with regs := s.regs, dies := s.dies, chs := s.chs } = s)
    ∧ ((s.die (c / 32)).probe = some c.val ∧ d.val = c.val / 32 ∧ (s.die d).tasteOver = false ∧ z < 2250 → Gives
      (.tasteVoutCheck d z) s fun t => (t.die d).tasteOver = true ∧ t.rf (chA c 0x64) 3 0 = 5 ∧ (t.die d).probe = some c.val
      ∧ RegsBut s t [chA c 0x64] ∧ { t with regs := s.regs, dies := s.dies } = s)
    ∧ ((s.die (c / 32)).probe = some c.val ∧ d.val = c.val / 32 ∧ (s.die d).tasteOver = false ∧ 2750 < z → Gives
      (.tasteVoutCheck d z) s fun t => (t.die d).tasteOver = true ∧ t.rf (chA c 0x64) 3 0 = 6 ∧ (t.die d).probe = some c.val
      ∧ RegsBut s t [chA c 0x64] ∧ { t with regs := s.regs, dies := s.dies } = s)
    ∧ (2250 ≤ z ∧ z ≤ 2750 → Gives (.tasteVoutCheck d z) s fun t => t = s)
    ∧ ((s.die (c / 32)).probe = some c.val ∧ d.val = c.val / 32 ∧ (s.die d).tasteOver = false → Gives (.tasteVoutFault d hi) s
      fun t => (t.die d).tasteOver = true ∧ t.rf (chA c 0x64) 3 0 = (if hi then 6 else 5) ∧ (t.die d).probe = some c.val ∧
      RegsBut s t [chA c 0x64] ∧ { t with regs := s.regs, dies := s.dies } = s)
    ∧ ((s.die (c / 32)).probe = some c.val ∧ d.val = c.val / 32 ∧ (s.die d).tasteOver = false ∧ (s.die d).delimiter = false →
      Gives (.tasteNoAnswer d) s fun t => (t.die d).tasteOver = true ∧ t.rf (chA c 0x64) 3 0 = 7 ∧ (t.die d).probe = some
      c.val ∧ RegsBut s t [chA c 0x64] ∧ { t with regs := s.regs, dies := s.dies } = s)
    ∧ ((s.die (c / 32)).probe = some c.val ∧ d.val = c.val / 32 ∧ (s.die d).tasteOver = false → Gives (.tasteDelimiterSeen d)
      s fun t => (t.die d).delimiter = true ∧ (t.die d).probe = some c.val ∧ { t with dies := s.dies } = s)
    ∧ ((s.die (c / 32)).probe = some c.val ∧ d.val = c.val / 32 ∧ (s.die d).tasteOver = false ∧ (s.die d).delimiter = true ∧
      s.rb (chA c 0x60) 5 = false ∧ f.runsOk = true ∧ tagCrc f = f.crc.toNat → Gives (.tasteFrame d f) s fun t => t.rd (chA
      c 0x68) = wd f.id.toNat ∧ t.rd (chA c 0x6C) = wd (f.id.toNat / 2 ^ 32) ∧ t.rd (chA c 0x70) = wd f.typ.toNat ∧ t.rf
      (chA c 0x64) 23 16 = f.crc.toNat ∧ t.rb (chA c 0x64) 5 = true ∧ t.rf (chA c 0x64) 3 0 = s.tasteMatch c f ∧ (t.die
      d).tasteOver = true ∧ RegsBut s t [chA c 0x64, chA c 0x68, chA c 0x6C, chA c 0x70] ∧
      { t with regs := s.regs, dies := s.dies } = s)
    ∧ ((s.die (c / 32)).probe = some c.val ∧ d.val = c.val / 32 ∧ (s.die d).tasteOver = false ∧ (s.die d).delimiter = true ∧
      tagCrc f ≠ f.crc.toNat ∧ s.rf (chA c 0x60) 9 8 ≤ s.rf (chA c 0x64) 15 8 ∧ s.rf (chA c 0x64) 15 8 < 255 → Gives
      (.tasteFrame d f) s fun t => t.rf (chA c 0x64) 15 8 = s.rf (chA c 0x64) 15 8 + 1 ∧ t.rf (chA c 0x64) 3 0 = 8 ∧ (t.die
      d).tasteOver = true ∧ RegsBut s t [chA c 0x64] ∧ { t with regs := s.regs, dies := s.dies, chs := s.chs } = s)
    ∧ ((s.die (c / 32)).probe = some c.val ∧ d.val = c.val / 32 ∧ (s.die d).tasteOver = false ∧ (s.die d).delimiter = true →
      Gives (.tasteFrame d f) s fun t => t.rf (chA c 0x64) 15 8 = min (s.rf (chA c 0x64) 15 8 + 1) 255 ∧ (s.rb (chA c 0x60)
      5 = true → f.runsOk = true → tagCrc f = f.crc.toNat → (s.chI c).prevGood = some (f.id, f.typ) → t.rf (chA c 0x64) 3 0
      = s.tasteMatch c f ∧ (t.die d).tasteOver = true) ∧ (s.rb (chA c 0x60) 5 = true → f.runsOk = true → tagCrc f =
      f.crc.toNat → (s.chI c).prevGood = none → (t.chI c).prevGood = some (f.id, f.typ)) ∧ RegsBut s t [chA c 0x64, chA c
      0x68, chA c 0x6C, chA c 0x70] ∧ { t with regs := s.regs, dies := s.dies, chs := s.chs } = s)
    ∧ ((s.die (c / 32)).probe = some c.val ∧ d.val = c.val / 32 ∧ (s.die d).tasteOver = true → Gives (.tasteEnd d) s fun t =>
      (t.die d).probe = none ∧ t.rb (chA c 0x50) 7 = true ∧ DieFrame s t d)
    ∧ ((s.die (c / 32)).probe = some c.val ∧ d.val = c.val / 32 ∧ (s.die d).tasteOver = true ∧ (s.chI c).parEn = false ∧
      s.cfgWaits c = false ∧ s.demand c = false → Gives (.tasteEnd d) s fun t => (t.die d).probe = none ∧ t.chState c = 0 ∧
      t.rb (chA c 0x50) 7 = true ∧ ChanFrame s t c)

/-- When thread u issues the instruction, wd takes the result the reference gives it, w0 nothing, Z and N follow the result,
  C and V are the carry or borrow and the signed overflow of sums and differences and of a division's corners, saturating
  forms set V and Q when they clamp, the PC advances and nothing else changes (R224, R276, R279). -/
def Obligations.EngineArithmetic : Prop :=
  ∀ (s : State) (e : Eng) (u : Thr) (d a b : QReg) (x y : Word),
    s.qreg e u a = x ∧ s.qreg e u b = y →
    (Issues s e u (qA 0 d a b 0) → Gives (.add e u d a b) s fun t => Completes s t e u d (x + y) (znFlags (x + y) (decide (2
      ^ 32 ≤ x.toNat + y.toNat)) (decide (x.toInt + y.toInt < -2147483648 ∨ 2147483647 < x.toInt + y.toInt)) (s.flags e
      u).q) (nextPc s e u))
    ∧ (Issues s e u (qA 0 d a b 1) → Gives (.adds e u d a b) s fun t => Completes s t e u d (BitVec.ofInt 32 (max
      ((-2147483648)) (min (2147483647) (x.toInt + y.toInt)))) (znFlags (BitVec.ofInt 32 (max ((-2147483648)) (min
      (2147483647) (x.toInt + y.toInt)))) false (decide (x.toInt + y.toInt < (-2147483648) ∨ 2147483647 < x.toInt +
      y.toInt)) ((s.flags e u).q || decide (x.toInt + y.toInt < (-2147483648) ∨ 2147483647 < x.toInt + y.toInt))) (nextPc s
      e u))
    ∧ (Issues s e u (qA 0 d a b 2) → Gives (.addsu e u d a b) s fun t => Completes s t e u d (BitVec.ofInt 32 (max (0) (min
      (4294967295) ((x.toNat : Int) + y.toNat)))) (znFlags (BitVec.ofInt 32 (max (0) (min (4294967295) ((x.toNat : Int) +
      y.toNat)))) false (decide ((x.toNat : Int) + y.toNat < 0 ∨ 4294967295 < (x.toNat : Int) + y.toNat)) ((s.flags e u).q
      || decide ((x.toNat : Int) + y.toNat < 0 ∨ 4294967295 < (x.toNat : Int) + y.toNat))) (nextPc s e u))
    ∧ (Issues s e u (qA 1 d a b 0) → Gives (.sub e u d a b) s fun t => Completes s t e u d (x - y) (znFlags (x - y) (decide
      (x.toNat < y.toNat)) (decide (x.toInt - y.toInt < -2147483648 ∨ 2147483647 < x.toInt - y.toInt)) (s.flags e u).q)
      (nextPc s e u))
    ∧ (Issues s e u (qA 1 d a b 1) → Gives (.subs e u d a b) s fun t => Completes s t e u d (BitVec.ofInt 32 (max
      ((-2147483648)) (min (2147483647) (x.toInt - y.toInt)))) (znFlags (BitVec.ofInt 32 (max ((-2147483648)) (min
      (2147483647) (x.toInt - y.toInt)))) false (decide (x.toInt - y.toInt < (-2147483648) ∨ 2147483647 < x.toInt -
      y.toInt)) ((s.flags e u).q || decide (x.toInt - y.toInt < (-2147483648) ∨ 2147483647 < x.toInt - y.toInt))) (nextPc s
      e u))
    ∧ (Issues s e u (qA 1 d a b 2) → Gives (.subsu e u d a b) s fun t => Completes s t e u d (BitVec.ofInt 32 (max (0) (min
      (4294967295) ((x.toNat : Int) - y.toNat)))) (znFlags (BitVec.ofInt 32 (max (0) (min (4294967295) ((x.toNat : Int) -
      y.toNat)))) false (decide ((x.toNat : Int) - y.toNat < 0 ∨ 4294967295 < (x.toNat : Int) - y.toNat)) ((s.flags e u).q
      || decide ((x.toNat : Int) - y.toNat < 0 ∨ 4294967295 < (x.toNat : Int) - y.toNat))) (nextPc s e u))
    ∧ (Issues s e u (qA 8 d a b 0) → Gives (.mul e u d a b) s fun t => Completes s t e u d (x * y) (znFlags (x * y) (false)
      (false) (s.flags e u).q) (nextPc s e u))
    ∧ (Issues s e u (qA 8 d a b 1) → Gives (.mulh e u d a b) s fun t => Completes s t e u d (BitVec.ofInt 32 ((x.toInt *
      y.toInt) / 4294967296)) (znFlags (BitVec.ofInt 32 ((x.toInt * y.toInt) / 4294967296)) (false) (false) (s.flags e u).q)
      (nextPc s e u))
    ∧ (Issues s e u (qA 8 d a b 2) → Gives (.mulhu e u d a b) s fun t => Completes s t e u d (BitVec.ofNat 32 (x.toNat *
      y.toNat / 4294967296)) (znFlags (BitVec.ofNat 32 (x.toNat * y.toNat / 4294967296)) (false) (false) (s.flags e u).q)
      (nextPc s e u))
    ∧ (Issues s e u (qA 9 d a b 0) → Gives (.div e u d a b) s fun t => Completes s t e u d (if y = 0 then 0xFFFFFFFF else if x
      = 0x80000000 ∧ y = 0xFFFFFFFF then 0x80000000 else BitVec.ofInt 32 (x.toInt.tdiv y.toInt)) (znFlags (if y = 0 then
      0xFFFFFFFF else if x = 0x80000000 ∧ y = 0xFFFFFFFF then 0x80000000 else BitVec.ofInt 32 (x.toInt.tdiv y.toInt))
      (false) (decide (y = 0 ∨ x = 0x80000000 ∧ y = 0xFFFFFFFF)) (s.flags e u).q) (nextPc s e u))
    ∧ (Issues s e u (qA 9 d a b 1) → Gives (.divu e u d a b) s fun t => Completes s t e u d (if y = 0 then 0xFFFFFFFF else x /
      y) (znFlags (if y = 0 then 0xFFFFFFFF else x / y) (false) (decide (y = 0)) (s.flags e u).q) (nextPc s e u))
    ∧ (Issues s e u (qA 9 d a b 2) → Gives (.rem e u d a b) s fun t => Completes s t e u d (if y = 0 then x else if x =
      0x80000000 ∧ y = 0xFFFFFFFF then 0 else BitVec.ofInt 32 (x.toInt.tmod y.toInt)) (znFlags (if y = 0 then x else if x =
      0x80000000 ∧ y = 0xFFFFFFFF then 0 else BitVec.ofInt 32 (x.toInt.tmod y.toInt)) (false) (decide (y = 0 ∨ x =
      0x80000000 ∧ y = 0xFFFFFFFF)) (s.flags e u).q) (nextPc s e u))
    ∧ (Issues s e u (qA 9 d a b 3) → Gives (.remu e u d a b) s fun t => Completes s t e u d (if y = 0 then x else x % y)
      (znFlags (if y = 0 then x else x % y) (false) (decide (y = 0)) (s.flags e u).q) (nextPc s e u))
    ∧ (Issues s e u (qA 0xA d a 0 0) → Gives (.neg e u d a) s fun t => Completes s t e u d (0 - x) (znFlags (0 - x) (decide (x
      ≠ 0)) (decide (x = 0x80000000)) (s.flags e u).q) (nextPc s e u))
    ∧ (Issues s e u (qA 0xA d a 0 1) → Gives (.negs e u d a) s fun t => Completes s t e u d (BitVec.ofInt 32 (max
      ((-2147483648)) (min (2147483647) (-x.toInt)))) (znFlags (BitVec.ofInt 32 (max ((-2147483648)) (min (2147483647)
      (-x.toInt)))) false (decide (-x.toInt < (-2147483648) ∨ 2147483647 < -x.toInt)) ((s.flags e u).q || decide (-x.toInt <
      (-2147483648) ∨ 2147483647 < -x.toInt))) (nextPc s e u))
    ∧ (Issues s e u (qA 0xA d a 0 2) → Gives (.abs e u d a) s fun t => Completes s t e u d (if x.toInt < 0 then 0 - x else x)
      (znFlags (if x.toInt < 0 then 0 - x else x) (false) (decide (x = 0x80000000)) (s.flags e u).q) (nextPc s e u))
    ∧ (Issues s e u (qA 0xA d a 0 3) → Gives (.abss e u d a) s fun t => Completes s t e u d (BitVec.ofInt 32 (max (0) (min
      (2147483647) ((x.toInt.natAbs : Int))))) (znFlags (BitVec.ofInt 32 (max (0) (min (2147483647) ((x.toInt.natAbs :
      Int))))) false (decide ((x.toInt.natAbs : Int) < 0 ∨ 2147483647 < (x.toInt.natAbs : Int))) ((s.flags e u).q || decide
      ((x.toInt.natAbs : Int) < 0 ∨ 2147483647 < (x.toInt.natAbs : Int)))) (nextPc s e u))

/-- When thread u issues the instruction, wd takes the bitwise, shifted, compared, counted or extended value the reference
  gives it, Z and N follow the result, C is the last bit shifted out, V is clear; cmp and tst set the flags of sub and and
  alone; the PC advances and nothing else changes (R224, R276, R279). -/
def Obligations.EngineLogic : Prop :=
  ∀ (s : State) (e : Eng) (u : Thr) (d a b : QReg) (x y : Word),
    s.qreg e u a = x ∧ s.qreg e u b = y →
    (Issues s e u (qA 2 d a b 0) → Gives (.and e u d a b) s fun t => Completes s t e u d (x &&& y) (znFlags (x &&& y)
      (false) (false) (s.flags e u).q) (nextPc s e u))
    ∧ (Issues s e u (qA 2 d a b 1) → Gives (.andn e u d a b) s fun t => Completes s t e u d (x &&& ~~~y) (znFlags (x &&& ~~~y)
      (false) (false) (s.flags e u).q) (nextPc s e u))
    ∧ (Issues s e u (qA 3 d a b 0) → Gives (.or e u d a b) s fun t => Completes s t e u d (x ||| y) (znFlags (x ||| y) (false)
      (false) (s.flags e u).q) (nextPc s e u))
    ∧ (Issues s e u (qA 3 d a b 1) → Gives (.orn e u d a b) s fun t => Completes s t e u d (x ||| ~~~y) (znFlags (x ||| ~~~y)
      (false) (false) (s.flags e u).q) (nextPc s e u))
    ∧ (Issues s e u (qA 4 d a b 0) → Gives (.xor e u d a b) s fun t => Completes s t e u d (x ^^^ y) (znFlags (x ^^^ y)
      (false) (false) (s.flags e u).q) (nextPc s e u))
    ∧ (Issues s e u (qA 4 d a b 1) → Gives (.xnor e u d a b) s fun t => Completes s t e u d (~~~(x ^^^ y)) (znFlags (~~~(x ^^^
      y)) (false) (false) (s.flags e u).q) (nextPc s e u))
    ∧ (Issues s e u (qA 6 d a b 0) → Gives (.min e u d a b) s fun t => Completes s t e u d (if x.toInt < y.toInt then x else
      y) (znFlags (if x.toInt < y.toInt then x else y) (false) (false) (s.flags e u).q) (nextPc s e u))
    ∧ (Issues s e u (qA 6 d a b 1) → Gives (.max e u d a b) s fun t => Completes s t e u d (if x.toInt < y.toInt then y else
      x) (znFlags (if x.toInt < y.toInt then y else x) (false) (false) (s.flags e u).q) (nextPc s e u))
    ∧ (Issues s e u (qA 6 d a b 2) → Gives (.minu e u d a b) s fun t => Completes s t e u d (if x.toNat < y.toNat then x else
      y) (znFlags (if x.toNat < y.toNat then x else y) (false) (false) (s.flags e u).q) (nextPc s e u))
    ∧ (Issues s e u (qA 6 d a b 3) → Gives (.maxu e u d a b) s fun t => Completes s t e u d (if x.toNat < y.toNat then y else
      x) (znFlags (if x.toNat < y.toNat then y else x) (false) (false) (s.flags e u).q) (nextPc s e u))
    ∧ (Issues s e u (qA 7 d a b 0) → Gives (.slt e u d a b) s fun t => Completes s t e u d (if x.toInt < y.toInt then 1 else
      0) (znFlags (if x.toInt < y.toInt then 1 else 0) (false) (false) (s.flags e u).q) (nextPc s e u))
    ∧ (Issues s e u (qA 7 d a b 1) → Gives (.sltu e u d a b) s fun t => Completes s t e u d (if x.toNat < y.toNat then 1 else
      0) (znFlags (if x.toNat < y.toNat then 1 else 0) (false) (false) (s.flags e u).q) (nextPc s e u))
    ∧ (Issues s e u (qA 5 d a b 0) → Gives (.sll e u d a b) s fun t => Completes s t e u d (x <<< (y.toNat % 32)) (znFlags (x
      <<< (y.toNat % 32)) (decide ((y.toNat % 32) ≠ 0) && x.getLsbD (32 - (y.toNat % 32))) (false) (s.flags e u).q) (nextPc
      s e u))
    ∧ (Issues s e u (qA 5 d a b 1) → Gives (.srl e u d a b) s fun t => Completes s t e u d (x >>> (y.toNat % 32)) (znFlags (x
      >>> (y.toNat % 32)) (decide ((y.toNat % 32) ≠ 0) && x.getLsbD ((y.toNat % 32) - 1)) (false) (s.flags e u).q) (nextPc s
      e u))
    ∧ (Issues s e u (qA 5 d a b 2) → Gives (.sra e u d a b) s fun t => Completes s t e u d (x.sshiftRight (y.toNat % 32))
      (znFlags (x.sshiftRight (y.toNat % 32)) (decide ((y.toNat % 32) ≠ 0) && x.getLsbD ((y.toNat % 32) - 1)) (false)
      (s.flags e u).q) (nextPc s e u))
    ∧ (Issues s e u (qA 5 d a b 3) → Gives (.ror e u d a b) s fun t => Completes s t e u d (x.rotateRight (y.toNat % 32))
      (znFlags (x.rotateRight (y.toNat % 32)) (decide ((y.toNat % 32) ≠ 0) && x.getLsbD ((y.toNat % 32) - 1)) (false)
      (s.flags e u).q) (nextPc s e u))
    ∧ (Issues s e u (qA 0xA d a 0 4) → Gives (.clz e u d a) s fun t => Completes s t e u d (wd (clzN x)) (znFlags (wd (clzN
      x)) (false) (false) (s.flags e u).q) (nextPc s e u))
    ∧ (Issues s e u (qA 0xA d a 0 5) → Gives (.ctz e u d a) s fun t => Completes s t e u d (wd (ctzN x)) (znFlags (wd (ctzN
      x)) (false) (false) (s.flags e u).q) (nextPc s e u))
    ∧ (Issues s e u (qA 0xA d a 0 6) → Gives (.popc e u d a) s fun t => Completes s t e u d (wd (popN x)) (znFlags (wd (popN
      x)) (false) (false) (s.flags e u).q) (nextPc s e u))
    ∧ (Issues s e u (qA 0xA d a 0 7) → Gives (.rev8 e u d a) s fun t => Completes s t e u d (Machine.rev8 x) (znFlags
      (Machine.rev8 x) (false) (false) (s.flags e u).q) (nextPc s e u))
    ∧ (Issues s e u (qA 0xA d a 0 8) → Gives (.sextb e u d a) s fun t => Completes s t e u d ((x.truncate 8).signExtend 32)
      (znFlags ((x.truncate 8).signExtend 32) (false) (false) (s.flags e u).q) (nextPc s e u))
    ∧ (Issues s e u (qA 0xA d a 0 9) → Gives (.sexth e u d a) s fun t => Completes s t e u d ((x.truncate 16).signExtend 32)
      (znFlags ((x.truncate 16).signExtend 32) (false) (false) (s.flags e u).q) (nextPc s e u))
    ∧ (Issues s e u (qA 0xA d a 0 10) → Gives (.zexth e u d a) s fun t => Completes s t e u d ((x.truncate 16).zeroExtend 32)
      (znFlags ((x.truncate 16).zeroExtend 32) (false) (false) (s.flags e u).q) (nextPc s e u))
    ∧ (Issues s e u (qA 0xC 0 a b 0) → Gives (.cmp e u a b) s fun t => Completes s t e u 0 0 (znFlags (x - y) (decide (x.toNat
      < y.toNat)) (decide (x.toInt - y.toInt < -2147483648 ∨ 2147483647 < x.toInt - y.toInt)) (s.flags e u).q) (nextPc s e
      u))
    ∧ (Issues s e u (qA 0xC 0 a b 1) → Gives (.tst e u a b) s fun t => Completes s t e u 0 0 (znFlags (x &&& y) (false)
      (false) (s.flags e u).q) (nextPc s e u))

/-- When thread u issues the instruction, wd takes the value of the register and the extended immediate, of the clamp to k +
  1 bits, of mulsh's rounded product, of the CRC step, or of the register that the condition selects; the flags follow as
  the reference gives them and lui, crc and sel leave them; the PC advances and nothing else changes (R276, R277, R279,
  R280, R281). -/
def Obligations.EngineImmediate : Prop :=
  ∀ (s : State) (e : Eng) (u : Thr) (d a b : QReg) (x y : Word) (k : Fin 32) (imm : BitVec 18) (p : Fin 4) (n : Fin 3) (c : Fin 15) (r : Bool),
    s.qreg e u a = x ∧ s.qreg e u b = y →
    (Issues s e u (qI 0x10 d a imm.toNat) → Gives (.addi e u d a imm) s fun t => Completes s t e u d (x + imm.signExtend 32)
      (znFlags (x + imm.signExtend 32) (decide (2 ^ 32 ≤ x.toNat + (imm.signExtend 32).toNat)) (decide (x.toInt + imm.toInt
      < -2147483648 ∨ 2147483647 < x.toInt + imm.toInt)) (s.flags e u).q) (nextPc s e u))
    ∧ (Issues s e u (qI 0x11 d a imm.toNat) → Gives (.andi e u d a imm) s fun t => Completes s t e u d (x &&& imm.zeroExtend
      32) (znFlags (x &&& imm.zeroExtend 32) (false) (false) (s.flags e u).q) (nextPc s e u))
    ∧ (Issues s e u (qI 0x12 d a imm.toNat) → Gives (.ori e u d a imm) s fun t => Completes s t e u d (x ||| imm.zeroExtend
      32) (znFlags (x ||| imm.zeroExtend 32) (false) (false) (s.flags e u).q) (nextPc s e u))
    ∧ (Issues s e u (qI 0x13 d a imm.toNat) → Gives (.xori e u d a imm) s fun t => Completes s t e u d (x ^^^ imm.zeroExtend
      32) (znFlags (x ^^^ imm.zeroExtend 32) (false) (false) (s.flags e u).q) (nextPc s e u))
    ∧ (Issues s e u (qI 0x14 d a (0 + k.val)) → Gives (.slli e u d a k) s fun t => Completes s t e u d (x <<< k.val) (znFlags
      (x <<< k.val) (decide (k.val ≠ 0) && x.getLsbD (32 - k.val)) (false) (s.flags e u).q) (nextPc s e u))
    ∧ (Issues s e u (qI 0x14 d a (32 + k.val)) → Gives (.srli e u d a k) s fun t => Completes s t e u d (x >>> k.val) (znFlags
      (x >>> k.val) (decide (k.val ≠ 0) && x.getLsbD (k.val - 1)) (false) (s.flags e u).q) (nextPc s e u))
    ∧ (Issues s e u (qI 0x14 d a (64 + k.val)) → Gives (.srai e u d a k) s fun t => Completes s t e u d (x.sshiftRight k.val)
      (znFlags (x.sshiftRight k.val) (decide (k.val ≠ 0) && x.getLsbD (k.val - 1)) (false) (s.flags e u).q) (nextPc s e u))
    ∧ (Issues s e u (qI 0x14 d a (96 + k.val)) → Gives (.rori e u d a k) s fun t => Completes s t e u d (x.rotateRight k.val)
      (znFlags (x.rotateRight k.val) (decide (k.val ≠ 0) && x.getLsbD (k.val - 1)) (false) (s.flags e u).q) (nextPc s e u))
    ∧ (Issues s e u (qI 0x15 d 0 imm.toNat) → Gives (.lui e u d imm) s fun t => Completes s t e u d (imm.zeroExtend 32 <<< 14)
      (s.flags e u) (nextPc s e u))
    ∧ (Issues s e u (qI 0x16 0 a imm.toNat) → Gives (.cmpi e u a imm) s fun t => Completes s t e u 0 (0) (znFlags (x -
      imm.signExtend 32) (decide (x.toNat < (imm.signExtend 32).toNat)) (decide (x.toInt - imm.toInt < -2147483648 ∨
      2147483647 < x.toInt - imm.toInt)) (s.flags e u).q) (nextPc s e u))
    ∧ (Issues s e u (qI 0x17 d a imm.toNat) → Gives (.muli e u d a imm) s fun t => Completes s t e u d (x * imm.signExtend 32)
      (znFlags (x * imm.signExtend 32) (false) (false) (s.flags e u).q) (nextPc s e u))
    ∧ (Issues s e u (qA 8 d a b (3 + k.val * 16)) → Gives (.mulsh e u d a b k) s fun t => Completes s t e u d (BitVec.ofInt 32
      (max ((-2147483648)) (min (2147483647) ((if k.val = 0 then x.toInt * y.toInt else (x.toInt * y.toInt + (2 ^ (k.val -
      1) : Nat)) / (2 ^ k.val : Nat)))))) (znFlags (BitVec.ofInt 32 (max ((-2147483648)) (min (2147483647) ((if k.val = 0
      then x.toInt * y.toInt else (x.toInt * y.toInt + (2 ^ (k.val - 1) : Nat)) / (2 ^ k.val : Nat)))))) false (decide ((if
      k.val = 0 then x.toInt * y.toInt else (x.toInt * y.toInt + (2 ^ (k.val - 1) : Nat)) / (2 ^ k.val : Nat)) <
      (-2147483648) ∨ 2147483647 < (if k.val = 0 then x.toInt * y.toInt else (x.toInt * y.toInt + (2 ^ (k.val - 1) : Nat)) /
      (2 ^ k.val : Nat)))) ((s.flags e u).q || decide ((if k.val = 0 then x.toInt * y.toInt else (x.toInt * y.toInt + (2 ^
      (k.val - 1) : Nat)) / (2 ^ k.val : Nat)) < (-2147483648) ∨ 2147483647 < (if k.val = 0 then x.toInt * y.toInt else
      (x.toInt * y.toInt + (2 ^ (k.val - 1) : Nat)) / (2 ^ k.val : Nat))))) (nextPc s e u))
    ∧ (Issues s e u (qA 0xB d a b (k.val * 16)) → Gives (.sats e u d a k b) s fun t => Completes s t e u d (BitVec.ofInt 32
      (max ((-(2 ^ k.val : Nat))) (min (((2 ^ k.val : Nat) - 1)) (x.toInt)))) (znFlags (BitVec.ofInt 32 (max ((-(2 ^ k.val :
      Nat))) (min (((2 ^ k.val : Nat) - 1)) (x.toInt)))) false (decide (x.toInt < (-(2 ^ k.val : Nat)) ∨ ((2 ^ k.val : Nat)
      - 1) < x.toInt)) ((s.flags e u).q || decide (x.toInt < (-(2 ^ k.val : Nat)) ∨ ((2 ^ k.val : Nat) - 1) < x.toInt)))
      (nextPc s e u))
    ∧ (Issues s e u (qA 0xB d a b (1 + k.val * 16)) → Gives (.satu e u d a k b) s fun t => Completes s t e u d (BitVec.ofInt
      32 (max (0) (min (((2 ^ (k.val + 1) : Nat) - 1)) (x.toInt)))) (znFlags (BitVec.ofInt 32 (max (0) (min (((2 ^ (k.val +
      1) : Nat) - 1)) (x.toInt)))) false (decide (x.toInt < 0 ∨ ((2 ^ (k.val + 1) : Nat) - 1) < x.toInt)) ((s.flags e u).q
      || decide (x.toInt < 0 ∨ ((2 ^ (k.val + 1) : Nat) - 1) < x.toInt))) (nextPc s e u))
    ∧ (Issues s e u (qA 0xD d a b (p.val + n.val * 4 + r.toNat * 16)) → Gives (.crcStep e u d a b p n r) s fun t => Completes
      s t e u d (qCrc p (2 ^ n.val) r x y) (s.flags e u) (nextPc s e u))
    ∧ (Issues s e u (qA 0xE d a b c.val) → Gives (.sel e u d a b c) s fun t => Completes s t e u d (if (s.flags e u).cond c
      then x else y) (s.flags e u) (nextPc s e u))

/-- Within its bounds and aligned, a load writes the zero-extended little-endian bytes at a + imm to wd, and a store writes
  the low bytes of its register there and changes no other byte; bfx and bfxs read the field of their span, bfi writes it
  and leaves every byte outside the span; no flag changes (R226, R227, R282, R283). Outside its bounds the thread is FAULTED
  with cause DBOUND, fault 0x4003, its registers as they were (R227, R264). -/
def Obligations.EngineMemory : Prop :=
  ∀ (s : State) (e : Eng) (u : Thr) (d a : QReg) (imm : BitVec 18) (p : Fin 2048) (l : Fin 32) (be : Bool),
    (Issues s e u (qI 0x18 d a imm.toNat) ∧ s.dataFault e u (s.qaddr e u a imm) 1 1 true = none → Gives (.ldb e u d a imm) s
      fun t => Completes s t e u d (wd (s.ldLE (dmA e (s.qaddr e u a imm)) 1)) (s.flags e u) (nextPc s e u))
    ∧ (Issues s e u (qI 0x19 d a imm.toNat) ∧ s.dataFault e u (s.qaddr e u a imm) 2 2 true = none → Gives (.ldh e u d a imm) s
      fun t => Completes s t e u d (wd (s.ldLE (dmA e (s.qaddr e u a imm)) 2)) (s.flags e u) (nextPc s e u))
    ∧ (Issues s e u (qI 0x1A d a imm.toNat) ∧ s.dataFault e u (s.qaddr e u a imm) 4 4 true = none → Gives (.ldw e u d a imm) s
      fun t => Completes s t e u d (wd (s.ldLE (dmA e (s.qaddr e u a imm)) 4)) (s.flags e u) (nextPc s e u))
    ∧ (Issues s e u (qI 0x1B d a imm.toNat) ∧ s.dataFault e u (s.qaddr e u a imm) 1 1 false = none → Gives (.stb e u d a imm)
      s fun t => t.ldLE (dmA e (s.qaddr e u a imm)) 1 = (s.qreg e u d).toNat % 2 ^ 8 ∧ MemBut s t (dmA e (s.qaddr e u a
      imm)) 1 ∧ ThreadHas s t e u 0 0 (s.flags e u) (nextPc s e u) ∧ { t with regs := s.regs, thrs := s.thrs, mem := s.mem }
      = s)
    ∧ (Issues s e u (qI 0x1C d a imm.toNat) ∧ s.dataFault e u (s.qaddr e u a imm) 2 2 false = none → Gives (.sth e u d a imm)
      s fun t => t.ldLE (dmA e (s.qaddr e u a imm)) 2 = (s.qreg e u d).toNat % 2 ^ 16 ∧ MemBut s t (dmA e (s.qaddr e u a
      imm)) 2 ∧ ThreadHas s t e u 0 0 (s.flags e u) (nextPc s e u) ∧ { t with regs := s.regs, thrs := s.thrs, mem := s.mem }
      = s)
    ∧ (Issues s e u (qI 0x1D d a imm.toNat) ∧ s.dataFault e u (s.qaddr e u a imm) 4 4 false = none → Gives (.stw e u d a imm)
      s fun t => t.ldLE (dmA e (s.qaddr e u a imm)) 4 = (s.qreg e u d).toNat % 2 ^ 32 ∧ MemBut s t (dmA e (s.qaddr e u a
      imm)) 4 ∧ ThreadHas s t e u 0 0 (s.flags e u) (nextPc s e u) ∧ { t with regs := s.regs, thrs := s.thrs, mem := s.mem }
      = s)
    ∧ (Issues s e u (qI 0x1E d a (bfImm p l be false)) ∧ s.dataFault e u (((s.qreg e u a).toNat + (bfSpan be p (l.val + 1)).1)
      % 2 ^ 32) ((bfSpan be p (l.val + 1)).2 + 1 - (bfSpan be p (l.val + 1)).1) 1 true = none → Gives (.bfx e u d a p l be)
      s fun t => Completes s t e u d (wd (s.bfValue e (((s.qreg e u a).toNat + (bfSpan be p (l.val + 1)).1) % 2 ^ 32) p l
      be)) (s.flags e u) (nextPc s e u))
    ∧ (Issues s e u (qI 0x1E d a (bfImm p l be true)) ∧ s.dataFault e u (((s.qreg e u a).toNat + (bfSpan be p (l.val + 1)).1)
      % 2 ^ 32) ((bfSpan be p (l.val + 1)).2 + 1 - (bfSpan be p (l.val + 1)).1) 1 true = none → Gives (.bfxs e u d a p l be)
      s fun t => Completes s t e u d (BitVec.ofInt 32 (sext (s.bfValue e (((s.qreg e u a).toNat + (bfSpan be p (l.val +
      1)).1) % 2 ^ 32) p l be) (l.val + 1))) (s.flags e u) (nextPc s e u))
    ∧ (Issues s e u (qI 0x1F d a (bfImm p l be false)) ∧ s.dataFault e u (((s.qreg e u a).toNat + (bfSpan be p (l.val + 1)).1)
      % 2 ^ 32) ((bfSpan be p (l.val + 1)).2 + 1 - (bfSpan be p (l.val + 1)).1) 1 true = none → Gives (.bfi e u d a p l be)
      s fun t => t.bfValue e (((s.qreg e u a).toNat + (bfSpan be p (l.val + 1)).1) % 2 ^ 32) p l be = (s.qreg e u d).toNat %
      2 ^ (l.val + 1) ∧ MemBut s t (dmA e (((s.qreg e u a).toNat + (bfSpan be p (l.val + 1)).1) % 2 ^ 32)) ((bfSpan be p
      (l.val + 1)).2 + 1 - (bfSpan be p (l.val + 1)).1) ∧ ThreadHas s t e u 0 0 (s.flags e u) (nextPc s e u) ∧
      { t with regs := s.regs, thrs := s.thrs, mem := s.mem } = s)
    ∧ (Issues s e u (qI 0x1A d a imm.toNat) ∧ s.inBounds e u (s.qaddr e u a imm) 4 = false → Gives (.ldw e u d a imm) s fun t
      => t.thState e u = 4 ∧ t.rf (thA e u 4) 7 4 = 3 ∧ t.rf (thA e u 4) 29 16 = s.qpc e u ∧ (∀ i, i < 16 → t.qreg e u i =
      s.qreg e u i) ∧ Reported s t [(0x4003, e * 8 + u, s.qpc e u)] ∧ t.mem = s.mem)

/-- A branch goes to the PC plus its signed offset modulo 16,384 when its condition or its register says so, and otherwise
  to the next word; bl and jalr write the next PC, jalr after reading its register; dbnz counts its register down and
  branches until it is 0; no flag changes (R274, R277, R285, R286). A PC outside its bounds makes the thread FAULTED with
  cause IFETCH and fault 0x4002 (R226, R264). -/
def Obligations.EngineBranches : Prop :=
  ∀ (s : State) (e : Eng) (u : Thr) (d a : QReg) (c : Fin 15) (off : BitVec 22) (imm : BitVec 18),
    (Issues s e u (qK 0x20 c off.toNat) → Gives (.bcond e u c off) s fun t => Completes s t e u 0 0 (s.flags e u) (if
      (s.flags e u).cond c then (((s.qpc e u : Int) + off.toInt) % 16384).toNat else nextPc s e u))
    ∧ (Issues s e u (qK 0x20 15 off.toNat) → Gives (.bl e u off) s fun t => Completes s t e u 15 (wd (nextPc s e u)) (s.flags
      e u) (((s.qpc e u : Int) + off.toInt) % 16384).toNat)
    ∧ (Issues s e u (qI 0x21 d a imm.toNat) → Gives (.jalr e u d a imm) s fun t => Completes s t e u d (wd (nextPc s e u))
      (s.flags e u) ((s.qreg e u a + imm.signExtend 32).toNat % 16384))
    ∧ (Issues s e u (qK 0x22 d off.toNat) → Gives (.cbz e u d off) s fun t => Completes s t e u 0 0 (s.flags e u) (if s.qreg e
      u d = 0 then (((s.qpc e u : Int) + off.toInt) % 16384).toNat else nextPc s e u))
    ∧ (Issues s e u (qK 0x23 d off.toNat) → Gives (.cbnz e u d off) s fun t => Completes s t e u 0 0 (s.flags e u) (if s.qreg
      e u d = 0 then nextPc s e u else (((s.qpc e u : Int) + off.toInt) % 16384).toNat))
    ∧ (d ≠ 0 ∧ Issues s e u (qK 0x24 d off.toNat) → Gives (.dbnz e u d off) s fun t => Completes s t e u d (s.qreg e u d - 1)
      (s.flags e u) (if s.qreg e u d = 1 then nextPc s e u else (((s.qpc e u : Int) + off.toInt) % 16384).toNat))
    ∧ (s.accepts 4 = true ∧ s.thState e u = 1 ∧ (s.breakpoint e u (s.qpc e u) = false ∨ (s.thr e u).stepping = true) ∧ s.rf
      (thA e u 8) 30 16 ≤ s.qpc e u → Gives (.bl e u off) s fun t => t.thState e u = 4 ∧ t.rf (thA e u 4) 7 4 = 2 ∧ t.qpc e
      u = s.qpc e u ∧ (∀ i, i < 16 → t.qreg e u i = s.qreg e u i) ∧ Reported s t [(0x4002, e * 8 + u, s.qpc e u)] ∧ t.mem =
      s.mem)

/-- crd and crdr of an entry that the thread's slice may read hold the thread and bring back the value or the time with Z
  and N, C set for a stale value, V clear; one it may not read brings 0 with Z, C and V and fault 0x0003 (R288, R289). cwr
  and cwrr of an entry that it may write store the value, its date and its arrival and count the update unless a newer valid
  value is there, which is DONE and counted in CNT0 (R290, R310, R312); another entry answers ACCESS (R307). A held
  instruction's results then enter wd and the flags, and the thread is READY at the next word (R221). -/
def Obligations.EngineCellar : Prop :=
  ∀ (s : State) (e : Eng) (u : Thr) (d a b : QReg) (h : BitVec 16) (m : Bool) (v fl : Word),
    (Issues s e u (qS 0x28 d 0 m.toNat h.toNat) ∧ s.enMayRead (s.threadTags (e * 8 + u)) h.toNat = true → Gives (.crd e u d
      h m) s fun t => Awaits s t e u d (if m then s.enTime h.toNat else s.enValue h.toNat)
      { (znFlags (if m then s.enTime h.toNat else s.enValue h.toNat) (s.enReadStale h.toNat) false (s.flags e u).q) with v := false }
      [] ∧ { t with regs := s.regs, thrs := s.thrs } = s)
    ∧ (Issues s e u (qS 0x28 d 0 m.toNat h.toNat) ∧ s.enMayRead (s.threadTags (e * 8 + u)) h.toNat = false → Gives (.crd e u d
      h m) s fun t => Awaits s t e u d 0 ⟨true, false, true, true, (s.flags e u).q⟩ [] ∧ Reported s t [(0x0003, enA h.toNat
      0, 0)] ∧ { t with regs := s.regs, thrs := s.thrs, reports := s.reports } = s)
    ∧ (Issues s e u (qA 0x2C d a 0 m.toNat) ∧ s.enMayRead (s.threadTags (e * 8 + u)) (fld (s.qreg e u a) 15 0) = true → Gives
      (.crdr e u d a m) s fun t => Awaits s t e u d (if m then s.enTime (fld (s.qreg e u a) 15 0) else s.enValue (fld
      (s.qreg e u a) 15 0))
      { (znFlags (if m then s.enTime (fld (s.qreg e u a) 15 0) else s.enValue (fld (s.qreg e u a) 15 0)) (s.enReadStale (fld (s.qreg e u a) 15 0)) false (s.flags e u).q) with v := false }
      [] ∧ { t with regs := s.regs, thrs := s.thrs } = s)
    ∧ (Issues s e u (qA 0x2C d a 0 m.toNat) ∧ s.enMayRead (s.threadTags (e * 8 + u)) (fld (s.qreg e u a) 15 0) = false → Gives
      (.crdr e u d a m) s fun t => Awaits s t e u d 0 ⟨true, false, true, true, (s.flags e u).q⟩ [] ∧ Reported s t [(0x0003,
      enA (fld (s.qreg e u a) 15 0) 0, 0)] ∧ { t with regs := s.regs, thrs := s.thrs, reports := s.reports } = s)
    ∧ (Issues s e u (qS 0x29 d a m.toNat h.toNat) ∧ s.enMayWrite (s.threadTags (e * 8 + u)) h.toNat = true ∧ s.enBare h.toNat
      = false ∧ s.enBad h.toNat 2 = false ∧ s.enBad h.toNat 3 = false ∧ (m = true → s.dataFault e u (slotA u) 16 1 true =
      none) ∧ (s.rb (enA h.toNat 1) 9 = false ∨ s.rb (enA h.toNat 1) 8 = true ∨ future (s.qdate e u m) (s.rd (enA h.toNat
      2)) = true) → Gives (.cwr e u d a h m) s fun t => AwaitsSt s t e u d .done false (enTookRegs s h.toNat) ∧ EnTook s t
      h.toNat (s.qreg e u a) (s.qdate e u m) ∧ (∀ y, y ∈ t.eccBad → y ∈ s.eccBad) ∧
      { t with regs := s.regs, thrs := s.thrs, eccBad := s.eccBad, clr := s.clr, reports := s.reports } = s)
    ∧ (Issues s e u (qS 0x29 d a m.toNat h.toNat) ∧ s.enMayWrite (s.threadTags (e * 8 + u)) h.toNat = true ∧ s.enBare h.toNat
      = false ∧ s.enBad h.toNat 2 = false ∧ s.enBad h.toNat 3 = false ∧ (m = true → s.dataFault e u (slotA u) 16 1 true =
      none) ∧ (s.rb (enA h.toNat 1) 9 = false ∨ s.rb (enA h.toNat 1) 8 = true ∨ future (s.qdate e u m) (s.rd (enA h.toNat
      2)) = true) ∧ s.clr.snap = none ∧ s.rb (enA h.toNat 6) 24 = false → Gives (.cwr e u d a h m) s fun t => AwaitsSt s t e
      u d .done false [enA h.toNat 0, enA h.toNat 1, enA h.toNat 2, enA h.toNat 3] ∧ t.rd (enA h.toNat 0) = s.qreg e u a ∧
      t.rd (enA h.toNat 1) = setFld (setFld (s.rd (enA h.toNat 1)) 31 16 (s.rf (enA h.toNat 1) 31 16 + 1)) 9 8 (2 + (decide
      (ageLimit (s.rd (enA h.toNat 5)) < (s.now - (s.qdate e u m)).toNat)).toNat) ∧ t.rd (enA h.toNat 2) = (s.qdate e u m) ∧
      t.rd (enA h.toNat 3) = s.now ∧ t.eccBad = (s.eccBad.filter (· != enA h.toNat 0)).filter (· != enA h.toNat 2) ∧
      { t with regs := s.regs, thrs := s.thrs, eccBad := s.eccBad } = s)
    ∧ (Issues s e u (qS 0x29 d a m.toNat h.toNat) ∧ s.enMayWrite (s.threadTags (e * 8 + u)) h.toNat = true ∧ s.enBare h.toNat
      = false ∧ s.enBad h.toNat 2 = false ∧ s.enBad h.toNat 3 = false ∧ (m = true → s.dataFault e u (slotA u) 16 1 true =
      none) ∧ s.rb (enA h.toNat 1) 9 = true ∧ s.rb (enA h.toNat 1) 8 = false ∧ future (s.qdate e u m) (s.rd (enA h.toNat 2))
      = false → Gives (.cwr e u d a h m) s fun t => AwaitsSt s t e u d .done false [clA 0x40] ∧ t.rd (clA 0x40) = (if s.rd
      (clA 0x40) = 0xFFFFFFFF then 0xFFFFFFFF else s.rd (clA 0x40) + 1) ∧ { t with regs := s.regs, thrs := s.thrs } = s)
    ∧ (Issues s e u (qS 0x29 d a m.toNat h.toNat) ∧ m = false ∧ s.enMayWrite (s.threadTags (e * 8 + u)) h.toNat = false →
      Gives (.cwr e u d a h m) s fun t => AwaitsSt s t e u d .access false [] ∧ Reported s t [(0x0003, enA h.toNat 0, 0)] ∧
      { t with regs := s.regs, thrs := s.thrs, reports := s.reports } = s)
    ∧ (Issues s e u (qA 0x2D d a b m.toNat) ∧ s.enMayWrite (s.threadTags (e * 8 + u)) (fld (s.qreg e u b) 15 0) = true ∧
      s.enBare (fld (s.qreg e u b) 15 0) = false ∧ s.enBad (fld (s.qreg e u b) 15 0) 2 = false ∧ s.enBad (fld (s.qreg e u b)
      15 0) 3 = false ∧ (m = true → s.dataFault e u (slotA u) 16 1 true = none) ∧ (s.rb (enA (fld (s.qreg e u b) 15 0) 1) 9
      = false ∨ s.rb (enA (fld (s.qreg e u b) 15 0) 1) 8 = true ∨ future (s.qdate e u m) (s.rd (enA (fld (s.qreg e u b) 15
      0) 2)) = true) → Gives (.cwrr e u d a b m) s fun t => AwaitsSt s t e u d .done false (enTookRegs s (fld (s.qreg e u b)
      15 0)) ∧ EnTook s t (fld (s.qreg e u b) 15 0) (s.qreg e u a) (s.qdate e u m) ∧ (∀ y, y ∈ t.eccBad → y ∈ s.eccBad) ∧
      { t with regs := s.regs, thrs := s.thrs, eccBad := s.eccBad, clr := s.clr, reports := s.reports } = s)
    ∧ (Issues s e u (qA 0x2D d a b m.toNat) ∧ s.enMayWrite (s.threadTags (e * 8 + u)) (fld (s.qreg e u b) 15 0) = true ∧
      s.enBare (fld (s.qreg e u b) 15 0) = false ∧ s.enBad (fld (s.qreg e u b) 15 0) 2 = false ∧ s.enBad (fld (s.qreg e u b)
      15 0) 3 = false ∧ (m = true → s.dataFault e u (slotA u) 16 1 true = none) ∧ (s.rb (enA (fld (s.qreg e u b) 15 0) 1) 9
      = false ∨ s.rb (enA (fld (s.qreg e u b) 15 0) 1) 8 = true ∨ future (s.qdate e u m) (s.rd (enA (fld (s.qreg e u b) 15
      0) 2)) = true) ∧ s.clr.snap = none ∧ s.rb (enA (fld (s.qreg e u b) 15 0) 6) 24 = false → Gives (.cwrr e u d a b m) s
      fun t => AwaitsSt s t e u d .done false [enA (fld (s.qreg e u b) 15 0) 0, enA (fld (s.qreg e u b) 15 0) 1, enA (fld
      (s.qreg e u b) 15 0) 2, enA (fld (s.qreg e u b) 15 0) 3] ∧ t.rd (enA (fld (s.qreg e u b) 15 0) 0) = s.qreg e u a ∧
      t.rd (enA (fld (s.qreg e u b) 15 0) 1) = setFld (setFld (s.rd (enA (fld (s.qreg e u b) 15 0) 1)) 31 16 (s.rf (enA (fld
      (s.qreg e u b) 15 0) 1) 31 16 + 1)) 9 8 (2 + (decide (ageLimit (s.rd (enA (fld (s.qreg e u b) 15 0) 5)) < (s.now -
      (s.qdate e u m)).toNat)).toNat) ∧ t.rd (enA (fld (s.qreg e u b) 15 0) 2) = (s.qdate e u m) ∧ t.rd (enA (fld (s.qreg e
      u b) 15 0) 3) = s.now ∧ t.eccBad = (s.eccBad.filter (· != enA (fld (s.qreg e u b) 15 0) 0)).filter (· != enA (fld
      (s.qreg e u b) 15 0) 2) ∧ { t with regs := s.regs, thrs := s.thrs, eccBad := s.eccBad } = s)
    ∧ (Issues s e u (qA 0x2D d a b m.toNat) ∧ s.enMayWrite (s.threadTags (e * 8 + u)) (fld (s.qreg e u b) 15 0) = true ∧
      s.enBare (fld (s.qreg e u b) 15 0) = false ∧ s.enBad (fld (s.qreg e u b) 15 0) 2 = false ∧ s.enBad (fld (s.qreg e u b)
      15 0) 3 = false ∧ (m = true → s.dataFault e u (slotA u) 16 1 true = none) ∧ s.rb (enA (fld (s.qreg e u b) 15 0) 1) 9 =
      true ∧ s.rb (enA (fld (s.qreg e u b) 15 0) 1) 8 = false ∧ future (s.qdate e u m) (s.rd (enA (fld (s.qreg e u b) 15 0)
      2)) = false → Gives (.cwrr e u d a b m) s fun t => AwaitsSt s t e u d .done false [clA 0x40] ∧ t.rd (clA 0x40) = (if
      s.rd (clA 0x40) = 0xFFFFFFFF then 0xFFFFFFFF else s.rd (clA 0x40) + 1) ∧ { t with regs := s.regs, thrs := s.thrs } =
      s)
    ∧ (Issues s e u (qA 0x2D d a b m.toNat) ∧ m = false ∧ s.enMayWrite (s.threadTags (e * 8 + u)) (fld (s.qreg e u b) 15 0) =
      false → Gives (.cwrr e u d a b m) s fun t => AwaitsSt s t e u d .access false [] ∧ Reported s t [(0x0003, enA (fld
      (s.qreg e u b) 15 0) 0, 0)] ∧ { t with regs := s.regs, thrs := s.thrs, reports := s.reports } = s)
    ∧ (s.accepts 4 = true ∧ s.thState e u = 3 ∧ (s.thr e u).held = some (.result [(d.val, v)] fl) → Gives
      (.heldInstructionComplete e u) s fun t => Wakes s t e u d v (Fl.ofWord fl) [] ∧
      { t with regs := s.regs, thrs := s.thrs } = s)

/-- frx of a port that the thread owns moves the oldest frame into the thread's slot, or writes KIND 0 with C set when there
  is none; a port owned otherwise answers ACCESS with fault 0x0003, one that does not exist RANGE (R231, R232, R233). ftx
  sends the slot's frame into the port's FIFO, queue or response buffer when its KIND and LEN fit, answers RANGE or LENGTH
  when they do not, and waits while the port is full; a transmit-at-time slot of its identifier captures it; room then ends
  it with DONE, if the thread still owns the port, and 1 ms without room with TIMEOUT (R232, R234, R235, R366, R372). Tags
  that fail their parity answer ACCESS with fault 0x0006 (R20). -/
def Obligations.EngineFrames : Prop :=
  ∀ (s : State) (e : Eng) (u : Thr) (d a : QReg) (p : Nat) (f : Frame) (r : List Frame) (n : Nat),
    (Issues s e u (qA 0x2A d a 0 0) ∧ fld (s.qreg e u a) 7 0 = p ∧ p < 0x60 ∧ s.mustWait (portIsland p) = false ∧ isRxPort p
      = true ∧ s.portMay e u p = true ∧ s.portFrames p = f :: r → Gives (.frx e u d a false) s fun t => AwaitsSt s t e u d
      .done false [] ∧ t.portFrames p = r ∧ (∀ q, q ≠ p → isRxPort q = true → t.portFrames q = s.portFrames q) ∧ t.ldBytes
      (dmA e (slotA u)) 0x19 = f.header p ∧ t.ldBytes ((dmA e (slotA u)) + 0x40) f.data.length = f.data ∧ (∀ x, x < (dmA e
      (slotA u)) ∨ ((dmA e (slotA u)) + 0x19 ≤ x ∧ x < (dmA e (slotA u)) + 0x40) ∨ (dmA e (slotA u)) + 0x40 + f.data.length
      ≤ x → t.ldb x = s.ldb x) ∧ StoreSide s t ∧
      { t with regs := s.regs, thrs := s.thrs, mem := s.mem, eccBad := s.eccBad, harts := s.harts, cans := s.cans, lins := s.lins, esw := s.esw }
      = s)
    ∧ (Issues s e u (qA 0x2A d a 0 0) ∧ fld (s.qreg e u a) 7 0 = p ∧ p < 0x60 ∧ s.mustWait (portIsland p) = false ∧ isRxPort p
      = true ∧ s.portMay e u p = true ∧ s.portFrames p = [] → Gives (.frx e u d a false) s fun t => AwaitsSt s t e u d .done
      true [] ∧ t.ldb (dmA e (slotA u)) = 0 ∧ MemBut s t (dmA e (slotA u)) 1 ∧ StoreSide s t ∧
      { t with regs := s.regs, thrs := s.thrs, mem := s.mem, eccBad := s.eccBad, harts := s.harts } = s)
    ∧ (Issues s e u (qA 0x2A d a 0 0) ∧ fld (s.qreg e u a) 7 0 = p ∧ p < 0x60 ∧ s.mustWait (portIsland p) = false → Gives
      (.frx e u d a true) s fun t => AwaitsSt s t e u d .access false [] ∧ Reported s t [(0x0006, portOwn p, 0)] ∧
      { t with regs := s.regs, thrs := s.thrs, reports := s.reports } = s)
    ∧ (Issues s e u (qA 0x2A d a 0 0) ∧ fld (s.qreg e u a) 7 0 = p ∧ p < 0x60 ∧ s.mustWait (portIsland p) = false ∧ s.portMay
      e u p = false → Gives (.frx e u d a false) s fun t => AwaitsSt s t e u d .access false [] ∧ Reported s t [(0x0003,
      portOwn p, 0)] ∧ { t with regs := s.regs, thrs := s.thrs, reports := s.reports } = s)
    ∧ (Issues s e u (qA 0x2A d a 0 0) ∧ fld (s.qreg e u a) 7 0 = p ∧ 0x60 ≤ p → Gives (.frx e u d a false) s fun t => AwaitsSt
      s t e u d .range false [] ∧ { t with regs := s.regs, thrs := s.thrs } = s)
    ∧ (Issues s e u (qA 0x2B d a 0 0) ∧ fld (s.qreg e u a) 7 0 = p ∧ p < 0x60 ∧ s.mustWait (portIsland p) = false ∧ s.portMay
      e u p = true ∧ isRxPort p = false ∧ s.dataFault e u (slotA u) 0x19 1 true = none ∧ s.portTakes p (s.slotFrame e u).1 =
      true ∧ s.portLen p (s.slotFrame e u).1 (s.slotFrame e u).2 = true ∧ s.dataFault e u (slotA u + 0x40) (s.slotFrame e
      u).2 1 true = none ∧ ¬ ((s.slotFrame e u).2 = 0 ∧ 3 ≤ (s.slotFrame e u).1.kind) ∧ p < 0x30 ∧ s.capturer (p - 0x20)
      (s.slotFrame e u).1 = none ∧ s.txFits (p - 0x20) (s.slotFrame e u).1 = true → Gives (.ftx e u d a false) s fun t =>
      AwaitsSt s t e u d .done false [] ∧ t.can (p - 0x20) =
      { s.can (p - 0x20) with txf := (s.can (p - 0x20)).txf ++ [⟨(s.slotFrame e u).1, none, s.ticks⟩], headSince := if (s.can (p - 0x20)).txf = [] then s.ticks else (s.can (p - 0x20)).headSince }
      ∧ (∀ n, n ≠ (p - 0x20) → t.can n = s.can n) ∧ { t with regs := s.regs, thrs := s.thrs, cans := s.cans } = s)
    ∧ (Issues s e u (qA 0x2B d a 0 0) ∧ fld (s.qreg e u a) 7 0 = p ∧ p < 0x60 ∧ s.mustWait (portIsland p) = false ∧ s.portMay
      e u p = true ∧ isRxPort p = false ∧ s.dataFault e u (slotA u) 0x19 1 true = none ∧ s.portTakes p (s.slotFrame e u).1 =
      true ∧ s.portLen p (s.slotFrame e u).1 (s.slotFrame e u).2 = true ∧ s.dataFault e u (slotA u + 0x40) (s.slotFrame e
      u).2 1 true = none ∧ ¬ ((s.slotFrame e u).2 = 0 ∧ 3 ≤ (s.slotFrame e u).1.kind) ∧ 0x50 ≤ p → Gives (.ftx e u d a
      false) s fun t => if (s.txq (p - 0x50)).length < Config.engTxDepth then AwaitsSt s t e u d .done false [] ∧ t.txq (p -
      0x50) = s.txq (p - 0x50) ++ [(s.slotFrame e u).1] ∧ (∀ q, q ≠ p - 0x50 → t.txq q = s.txq q) ∧
      { t with regs := s.regs, thrs := s.thrs, esw := s.esw } = s ∧ { t.esw with txq := s.esw.txq } = s.esw else HeldAt s t
      e u 3 (.ftx d p (s.slotFrame e u).1) [] ∧ { t with regs := s.regs, thrs := s.thrs } = s)
    ∧ (Issues s e u (qA 0x2B d a 0 0) ∧ fld (s.qreg e u a) 7 0 = p ∧ p < 0x60 ∧ s.mustWait (portIsland p) = false ∧ s.portMay
      e u p = true ∧ isRxPort p = false ∧ s.dataFault e u (slotA u) 0x19 1 true = none ∧ s.portTakes p (s.slotFrame e u).1 =
      true ∧ s.portLen p (s.slotFrame e u).1 (s.slotFrame e u).2 = true ∧ s.dataFault e u (slotA u + 0x40) (s.slotFrame e
      u).2 1 true = none ∧ ¬ ((s.slotFrame e u).2 = 0 ∧ 3 ≤ (s.slotFrame e u).1.kind) ∧ p < 0x30 ∧ n < 8 ∧ s.capturer (p -
      0x20) (s.slotFrame e u).1 = some n → Gives (.ftx e u d a false) s fun t => AwaitsSt s t e u d .done false [tatA (p -
      0x20) n 0x20, tatA (p - 0x20) n 0x18] ∧ (t.tat (p - 0x20) n).data = (s.slotFrame e u).1.data ∧ t.rd (tatA (p - 0x20) n
      0x18) = s.now ∧ OnlySlot s t (p - 0x20) n ∧ { t with regs := s.regs, thrs := s.thrs, cans := s.cans } = s)
    ∧ (Issues s e u (qA 0x2B d a 0 0) ∧ fld (s.qreg e u a) 7 0 = p ∧ p < 0x60 ∧ s.mustWait (portIsland p) = false ∧ s.portMay
      e u p = true ∧ isRxPort p = false ∧ s.dataFault e u (slotA u) 0x19 1 true = none ∧ s.portTakes p (s.slotFrame e u).1 =
      true ∧ s.portLen p (s.slotFrame e u).1 (s.slotFrame e u).2 = true ∧ s.dataFault e u (slotA u + 0x40) (s.slotFrame e
      u).2 1 true = none ∧ ¬ ((s.slotFrame e u).2 = 0 ∧ 3 ≤ (s.slotFrame e u).1.kind) ∧ 0x38 ≤ p ∧ p < 0x40 ∧ s.rf (rspA (p
      - 0x38) ((s.slotFrame e u).1.id.toNat % 64) 0) 1 0 = 3 → Gives (.ftx e u d a false) s fun t => AwaitsSt s t e u d
      .done false [] ∧ smGet (fun _ => []) (t.lin (p - 0x38)).bufs ((s.slotFrame e u).1.id.toNat % 64) = (s.slotFrame e
      u).1.data ∧ (∀ n, n ≠ (p - 0x38) → t.lin n = s.lin n) ∧ { t.lin (p - 0x38) with bufs := (s.lin (p - 0x38)).bufs } =
      s.lin (p - 0x38) ∧ { t with regs := s.regs, thrs := s.thrs, lins := s.lins } = s)
    ∧ (Issues s e u (qA 0x2B d a 0 0) ∧ fld (s.qreg e u a) 7 0 = p ∧ p < 0x60 ∧ s.mustWait (portIsland p) = false ∧ s.portMay
      e u p = true ∧ isRxPort p = false ∧ s.dataFault e u (slotA u) 0x19 1 true = none ∧ s.portTakes p (s.slotFrame e u).1 =
      true ∧ s.portLen p (s.slotFrame e u).1 (s.slotFrame e u).2 = true ∧ s.dataFault e u (slotA u + 0x40) (s.slotFrame e
      u).2 1 true = none ∧ ¬ ((s.slotFrame e u).2 = 0 ∧ 3 ≤ (s.slotFrame e u).1.kind) ∧ p < 0x30 ∧ s.capturer (p - 0x20)
      (s.slotFrame e u).1 = none ∧ s.txFits (p - 0x20) (s.slotFrame e u).1 = false → Gives (.ftx e u d a false) s fun t =>
      HeldAt s t e u 3 (.ftx d p (s.slotFrame e u).1) [] ∧ { t with regs := s.regs, thrs := s.thrs } = s)
    ∧ (Issues s e u (qA 0x2B d a 0 0) ∧ fld (s.qreg e u a) 7 0 = p ∧ p < 0x60 ∧ s.mustWait (portIsland p) = false ∧ s.portMay
      e u p = true ∧ isRxPort p = false ∧ s.dataFault e u (slotA u) 0x19 1 true = none ∧ s.portTakes p (s.slotFrame e u).1 =
      false → Gives (.ftx e u d a false) s fun t => AwaitsSt s t e u d .range false [] ∧
      { t with regs := s.regs, thrs := s.thrs } = s)
    ∧ (Issues s e u (qA 0x2B d a 0 0) ∧ fld (s.qreg e u a) 7 0 = p ∧ p < 0x60 ∧ s.mustWait (portIsland p) = false ∧ s.portMay
      e u p = true ∧ isRxPort p = false ∧ s.dataFault e u (slotA u) 0x19 1 true = none ∧ s.portTakes p (s.slotFrame e u).1 =
      true ∧ s.portLen p (s.slotFrame e u).1 (s.slotFrame e u).2 = false → Gives (.ftx e u d a false) s fun t => AwaitsSt s
      t e u d .length false [] ∧ { t with regs := s.regs, thrs := s.thrs } = s)
    ∧ (Issues s e u (qA 0x2B d a 0 0) ∧ fld (s.qreg e u a) 7 0 = p ∧ p < 0x60 ∧ s.mustWait (portIsland p) = false ∧ s.portMay
      e u p = true ∧ isRxPort p = false ∧ s.dataFault e u (slotA u) 0x19 1 true = none ∧ s.portTakes p (s.slotFrame e u).1 =
      true ∧ s.portLen p (s.slotFrame e u).1 (s.slotFrame e u).2 = true ∧ s.dataFault e u (slotA u + 0x40) (s.slotFrame e
      u).2 1 true = none ∧ ¬ ((s.slotFrame e u).2 = 0 ∧ 3 ≤ (s.slotFrame e u).1.kind) ∧ 0x38 ≤ p ∧ p < 0x40 ∧ s.rf (rspA (p
      - 0x38) ((s.slotFrame e u).1.id.toNat % 64) 0) 1 0 ≠ 3 → Gives (.ftx e u d a false) s fun t => AwaitsSt s t e u d
      .done false [linA (p - 0x38) 0x3C] ∧ Counts s t (linA (p - 0x38) 0x3C) ∧ { t with regs := s.regs, thrs := s.thrs } =
      s)
    ∧ (Issues s e u (qA 0x2B d a 0 0) ∧ fld (s.qreg e u a) 7 0 = p ∧ p < 0x60 ∧ s.mustWait (portIsland p) = false ∧ s.portMay
      e u p = true ∧ isRxPort p = false ∧ s.dataFault e u (slotA u) 0x19 1 true = none ∧ s.portTakes p (s.slotFrame e u).1 =
      true ∧ s.portLen p (s.slotFrame e u).1 (s.slotFrame e u).2 = true ∧ (s.slotFrame e u).2 = 0 ∧ 3 ≤ (s.slotFrame e
      u).1.kind → Gives (.ftx e u d a false) s fun t => AwaitsSt s t e u d .done false [] ∧
      { t with regs := s.regs, thrs := s.thrs } = s)
    ∧ (Issues s e u (qA 0x2B d a 0 0) ∧ fld (s.qreg e u a) 7 0 = p ∧ p < 0x60 ∧ s.mustWait (portIsland p) = false → Gives
      (.ftx e u d a true) s fun t => AwaitsSt s t e u d .access false [] ∧ Reported s t [(0x0006, portOwn p, 0)] ∧
      { t with regs := s.regs, thrs := s.thrs, reports := s.reports } = s)
    ∧ (s.accepts 4 = true ∧ s.thState e u = 3 ∧ (s.thr e u).held = some (.ftx d p f) ∧ s.accepts (portIsland p) = true ∧
      s.portMay e u p = false → Gives (.ftxPortRoom e u) s fun t => WakesSt s t e u d .access [] ∧ Reported s t [(0x0003,
      portOwn p, 0)] ∧ { t with regs := s.regs, thrs := s.thrs, reports := s.reports } = s)
    ∧ (s.accepts 4 = true ∧ s.thState e u = 3 ∧ (s.thr e u).held = some (.ftx d p f) ∧ s.accepts 5 = true ∧ s.portMay e u p =
      true ∧ 0x50 ≤ p → Gives (.ftxPortRoom e u) s fun t => if (s.txq (p - 0x50)).length < Config.engTxDepth then WakesSt s
      t e u d .done [] ∧ t.txq (p - 0x50) = s.txq (p - 0x50) ++ [f] ∧
      { t with regs := s.regs, thrs := s.thrs, esw := s.esw } = s else t = s)
    ∧ (s.accepts 4 = true ∧ s.thState e u = 3 ∧ (s.thr e u).held = some (.ftx d p f) ∧ 0x20 ≤ p ∧ s.accepts 7 = true ∧
      s.portMay e u p = true ∧ p < 0x30 ∧ s.capturer (p - 0x20) f = none ∧ s.txFits (p - 0x20) f = true → Gives
      (.ftxPortRoom e u) s fun t => WakesSt s t e u d .done [] ∧ t.can (p - 0x20) =
      { s.can (p - 0x20) with txf := (s.can (p - 0x20)).txf ++ [⟨f, none, s.ticks⟩], headSince := if (s.can (p - 0x20)).txf = [] then s.ticks else (s.can (p - 0x20)).headSince }
      ∧ (∀ n, n ≠ (p - 0x20) → t.can n = s.can n) ∧ { t with regs := s.regs, thrs := s.thrs, cans := s.cans } = s)
    ∧ (s.accepts 4 = true ∧ s.thState e u = 3 ∧ (s.thr e u).held = some (.ftx d p f) → Gives (.ftxTimeout e u) s fun t =>
      WakesSt s t e u d .timeout [] ∧ { t with regs := s.regs, thrs := s.thrs } = s)

/-- qput appends the item at wb to the ring and counts WR, waits while there is no room, and its other form answers LENGTH
  and counts the refusal; a hardware producer end answers CONFLICT; room then completes the waiting form and 1 ms ends it
  with TIMEOUT (R294). qget brings the next item, or the idle item with C set (R293); qmark marks RD, qrewind returns RD to
  a valid mark or answers MARK_LOST, qrel releases taken items and answers LENGTH beyond them (R291, R295, R495, R496); a
  number above 511 is RANGE; a store that waited there is served before (R494). csub places a job with the thread's tags,
  its descriptor and its completion Cask (R296, R611). -/
def Obligations.EngineCasks : Prop :=
  ∀ (s : State) (e : Eng) (u : Thr) (d a b : QReg) (n x : Nat) (r : State),
    (s.qreg e u a).toNat = n ∧ (s.qreg e u b).toNat = x →
    (Issues s e u (qA 0x30 d a b 0) ∧ n ≤ 511 ∧ s.dataFault e u x (s.ckItem n) 8 true = none ∧ s.ckGate (s.threadTags (e * 8
      + u)) n = none ∧ s.ckProdSoft n = true ∧ s.ckServe n = r ∧ r.ckRoom n = true ∧ r.mayWrite (r.ckOwner n) (r.ckPlace n
      (r.cask n).pw) (s.ckItem n) = true → Gives (.qput e u d a b) s fun t => AwaitsSt r t e u d .done false [ckA n 0x10] ∧
      t.ldBytes (r.ckPlace n (r.cask n).pw) (s.ckItem n) = r.ldBytes (dmA e x) (s.ckItem n) ∧ MemBut r t (r.ckPlace n
      (r.cask n).pw) (s.ckItem n) ∧ t.rd (ckA n 0x10) = setFld (r.rd (ckA n 0x10)) 31 16 (r.ckWr n + 1) ∧ t.cask n =
      { r.cask n with pw := r.ckAdv n (r.cask n).pw 1 } ∧ CasksBut r t n ∧ StoreSide r t ∧
      { t with regs := r.regs, thrs := r.thrs, casks := r.casks, mem := r.mem, eccBad := r.eccBad, harts := r.harts } = r)
    ∧ (Issues s e u (qA 0x30 d a b 0) ∧ n ≤ 511 ∧ s.dataFault e u x (s.ckItem n) 8 true = none ∧ s.ckGate (s.threadTags (e * 8
      + u)) n = none ∧ s.ckProdSoft n = true ∧ s.ckServe n = r ∧ r.ckRoom n = false → Gives (.qput e u d a b) s fun t =>
      HeldAt r t e u 3 (.qput d n x) [] ∧ { t with regs := r.regs, thrs := r.thrs } = r)
    ∧ (Issues s e u (qA 0x30 d a b 0) ∧ n ≤ 511 ∧ s.dataFault e u x (s.ckItem n) 8 true = none ∧ s.ckGate (s.threadTags (e * 8
      + u)) n = none ∧ s.ckProdSoft n = false → Gives (.qput e u d a b) s fun t => AwaitsSt s t e u d .conflict false [] ∧
      { t with regs := s.regs, thrs := s.thrs } = s)
    ∧ (Issues s e u (qA 0x30 d a b 1) ∧ n ≤ 511 ∧ s.dataFault e u x (s.ckItem n) 8 true = none ∧ s.ckGate (s.threadTags (e * 8
      + u)) n = none ∧ s.ckProdSoft n = true ∧ s.ckServe n = r ∧ r.ckRoom n = true ∧ r.mayWrite (r.ckOwner n) (r.ckPlace n
      (r.cask n).pw) (s.ckItem n) = true → Gives (.qputNw e u d a b) s fun t => AwaitsSt r t e u d .done false [ckA n 0x10]
      ∧ t.ldBytes (r.ckPlace n (r.cask n).pw) (s.ckItem n) = r.ldBytes (dmA e x) (s.ckItem n) ∧ MemBut r t (r.ckPlace n
      (r.cask n).pw) (s.ckItem n) ∧ t.rd (ckA n 0x10) = setFld (r.rd (ckA n 0x10)) 31 16 (r.ckWr n + 1) ∧ t.cask n =
      { r.cask n with pw := r.ckAdv n (r.cask n).pw 1 } ∧ CasksBut r t n ∧ StoreSide r t ∧
      { t with regs := r.regs, thrs := r.thrs, casks := r.casks, mem := r.mem, eccBad := r.eccBad, harts := r.harts } = r)
    ∧ (Issues s e u (qA 0x30 d a b 1) ∧ n ≤ 511 ∧ s.dataFault e u x (s.ckItem n) 8 true = none ∧ s.ckGate (s.threadTags (e * 8
      + u)) n = none ∧ s.ckProdSoft n = true ∧ s.ckServe n = r ∧ r.ckRoom n = false → Gives (.qputNw e u d a b) s fun t =>
      AwaitsSt r t e u d .length false [ckA n 0x18] ∧ t.rf (ckA n 0x18) 15 0 = min (r.rf (ckA n 0x18) 15 0 + 1) 0xFFFF ∧
      t.rf (ckA n 0x18) 31 16 = r.rf (ckA n 0x18) 31 16 ∧ { t with regs := r.regs, thrs := r.thrs } = r)
    ∧ (Issues s e u (qA 0x30 d a b 1) ∧ n ≤ 511 ∧ s.dataFault e u x (s.ckItem n) 8 true = none ∧ s.ckGate (s.threadTags (e * 8
      + u)) n = none ∧ s.ckProdSoft n = false → Gives (.qputNw e u d a b) s fun t => AwaitsSt s t e u d .conflict false [] ∧
      { t with regs := s.regs, thrs := s.thrs } = s)
    ∧ (s.accepts 4 = true ∧ s.thState e u = 3 ∧ (s.thr e u).held = some (.qput d n x) ∧ s.ckEn n = true ∧ s.ckServe n = r ∧
      r.ckRoom n = true ∧ r.mayWrite (r.ckOwner n) (r.ckPlace n (r.cask n).pw) (s.ckItem n) = true ∧ n ≤ 511 → Gives
      (.qputRoom e u) s fun t => WakesSt r t e u d .done [ckA n 0x10] ∧ t.ldBytes (r.ckPlace n (r.cask n).pw) (s.ckItem n) =
      r.ldBytes (dmA e x) (s.ckItem n) ∧ MemBut r t (r.ckPlace n (r.cask n).pw) (s.ckItem n) ∧ t.rd (ckA n 0x10) = setFld
      (r.rd (ckA n 0x10)) 31 16 (r.ckWr n + 1) ∧ t.cask n = { r.cask n with pw := r.ckAdv n (r.cask n).pw 1 } ∧ CasksBut r t
      n ∧ StoreSide r t ∧
      { t with regs := r.regs, thrs := r.thrs, casks := r.casks, mem := r.mem, eccBad := r.eccBad, harts := r.harts } = r)
    ∧ (s.accepts 4 = true ∧ s.thState e u = 3 ∧ (s.thr e u).held = some (.qput d n x) ∧ n ≤ 511 → Gives (.qputTimeout e u) s
      fun t => WakesSt s t e u d .timeout [ckA n 0x18] ∧ t.rf (ckA n 0x18) 15 0 = min (s.rf (ckA n 0x18) 15 0 + 1) 0xFFFF ∧
      t.rf (ckA n 0x18) 31 16 = s.rf (ckA n 0x18) 31 16 ∧ { t with regs := s.regs, thrs := s.thrs } = s)
    ∧ (Issues s e u (qA 0x31 d a b 0) ∧ n ≤ 511 ∧ s.dataFault e u x (s.ckItem n) 8 false = none ∧ s.ckGate (s.threadTags (e *
      8 + u)) n = none ∧ s.ckConsSoft n = true ∧ s.ckAvail n ≠ 0 ∧ s.mayRead (s.ckOwner n) (s.ckPlace n (s.cask n).pr)
      (s.ckItem n) = true ∧ s.anyBad (s.ckPlace n (s.cask n).pr) (s.ckItem n) = false → Gives (.qget e u d a b) s fun t =>
      AwaitsSt s t e u d .done false [ckA n 0x10] ∧ t.ldBytes (dmA e x) (s.ckItem n) = s.ldBytes (s.ckPlace n (s.cask n).pr)
      (s.ckItem n) ∧ MemBut s t (dmA e x) (s.ckItem n) ∧ t.rd (ckA n 0x10) = setFld (s.rd (ckA n 0x10)) 15 0 (s.ckRd n + 1)
      ∧ t.cask n = { s.cask n with pr := s.ckAdv n (s.cask n).pr 1 } ∧ CasksBut s t n ∧ StoreSide s t ∧
      { t with regs := s.regs, thrs := s.thrs, casks := s.casks, mem := s.mem, eccBad := s.eccBad, harts := s.harts } = s)
    ∧ (Issues s e u (qA 0x31 d a b 0) ∧ n ≤ 511 ∧ s.dataFault e u x (s.ckItem n) 8 false = none ∧ s.ckGate (s.threadTags (e *
      8 + u)) n = none ∧ s.ckConsSoft n = true ∧ s.ckAvail n = 0 ∧ s.mayRead (s.ckOwner n) (s.ckPlace n (s.ckDepth n))
      (s.ckItem n) = true ∧ s.anyBad (s.ckPlace n (s.ckDepth n)) (s.ckItem n) = false → Gives (.qget e u d a b) s fun t =>
      AwaitsSt s t e u d .done true [] ∧ t.ldBytes (dmA e x) (s.ckItem n) = s.ldBytes (s.ckPlace n (s.ckDepth n)) (s.ckItem
      n) ∧ MemBut s t (dmA e x) (s.ckItem n) ∧ StoreSide s t ∧
      { t with regs := s.regs, thrs := s.thrs, mem := s.mem, eccBad := s.eccBad, harts := s.harts } = s)
    ∧ (Issues s e u (qA 0x32 d a 0 0) ∧ n ≤ 511 ∧ s.ckGate (s.threadTags (e * 8 + u)) n = none ∧ s.ckConsSoft n = true → Gives
      (.qmark e u d a) s fun t => AwaitsSt s t e u d .done false [ckA n 0x14, ckA n 0x18] ∧ t.rd (ckA n 0x14) = setFld (s.rd
      (ckA n 0x14)) 31 16 (s.ckRd n) ∧ t.rd (ckA n 0x18) = setBit (s.rd (ckA n 0x18)) 31 true ∧ t.cask n =
      { s.cask n with pm := (s.cask n).pr } ∧ CasksBut s t n ∧ { t with regs := s.regs, thrs := s.thrs, casks := s.casks } =
      s)
    ∧ (Issues s e u (qA 0x33 d a 0 0) ∧ n ≤ 511 ∧ s.ckGate (s.threadTags (e * 8 + u)) n = none ∧ s.ckConsSoft n = true ∧
      s.ckMarked n = true → Gives (.qrewind e u d a) s fun t => AwaitsSt s t e u d .done false [ckA n 0x10] ∧ t.rd (ckA n
      0x10) = setFld (s.rd (ckA n 0x10)) 15 0 (s.ckMarkV n) ∧ t.cask n = { s.cask n with pr := (s.cask n).pm } ∧ CasksBut s
      t n ∧ { t with regs := s.regs, thrs := s.thrs, casks := s.casks } = s)
    ∧ (Issues s e u (qA 0x33 d a 0 0) ∧ n ≤ 511 ∧ s.ckGate (s.threadTags (e * 8 + u)) n = none ∧ s.ckConsSoft n = true ∧
      s.ckMarked n = false → Gives (.qrewind e u d a) s fun t => AwaitsSt s t e u d .markLost false [] ∧
      { t with regs := s.regs, thrs := s.thrs } = s)
    ∧ (Issues s e u (qA 0x34 d a b 0) ∧ n ≤ 511 ∧ s.ckGate (s.threadTags (e * 8 + u)) n = none ∧ s.ckConsSoft n = true ∧ x ≤
      sub16 (s.ckRd n) (s.ckRel n) → Gives (.qrel e u d a b) s fun t => AwaitsSt s t e u d .done false [ckA n 0x14, ckA n
      0x18] ∧ t.rd (ckA n 0x14) = setFld (s.rd (ckA n 0x14)) 15 0 (s.ckRel n + x) ∧ t.rd (ckA n 0x18) = (if sub16 (s.ckMarkV
      n) (s.ckRel n) < x then setBit (s.rd (ckA n 0x18)) 31 false else s.rd (ckA n 0x18)) ∧ t.cask n =
      { s.cask n with pl := s.ckAdv n (s.cask n).pl x } ∧ CasksBut s t n ∧
      { t with regs := s.regs, thrs := s.thrs, casks := s.casks } = s)
    ∧ (Issues s e u (qA 0x34 d a b 0) ∧ n ≤ 511 ∧ s.ckGate (s.threadTags (e * 8 + u)) n = none ∧ sub16 (s.ckRd n) (s.ckRel n)
      < x → Gives (.qrel e u d a b) s fun t => AwaitsSt s t e u d .length false [] ∧
      { t with regs := s.regs, thrs := s.thrs } = s)
    ∧ (Issues s e u (qA 0x32 d a 0 0) ∧ 511 < n → Gives (.qmark e u d a) s fun t => AwaitsSt s t e u d .range false [] ∧
      { t with regs := s.regs, thrs := s.thrs } = s)
    ∧ (Issues s e u (qA 0x35 d a b 0) ∧ s.mustWait 8 = false → Gives (.csub e u d a b true) s fun t => AwaitsSt s t e u d
      .access false [] ∧ Reported s t [(0x0006, cphBase, 0)] ∧
      { t with regs := s.regs, thrs := s.thrs, reports := s.reports } = s)
    ∧ (Issues s e u (qA 0x35 d a b 0) ∧ s.mustWait 8 = false ∧ x ≤ 511 ∧ s.dataFault e u n 64 8 true = none ∧ s.resetting
      (s.threadTags (e * 8 + u)).tid = false ∧ s.tenantOn (s.threadTags (e * 8 + u)).tid = true ∧ s.ckItem x = 16 ∧ s.ckEn x
      = true ∧ s.ckProdIs x 1 = true ∧ s.sliceAdmits .cphJob (s.threadTags (e * 8 + u)).tid = true ∧ (∃ k ∈ List.range 64, ∀
      j ∈ s.cph.jobs, j.entry ≠ k) → Gives (.csub e u d a b false) s fun t => AwaitsSt s t e u d .done false [] ∧
      t.cph.jobs.length = s.cph.jobs.length + 1 ∧ t.cph.jobs.take s.cph.jobs.length = s.cph.jobs ∧ (∀ j, j ∈ t.cph.jobs.drop
      s.cph.jobs.length → j.tags = (s.threadTags (e * 8 + u)) ∧ j.cask = x ∧ j.desc = n ∧ j.descAt = dmA e n ∧ j.op = leNat
      (s.ldBytes (dmA e n) 1) ∧ j.entry < 64 ∧ (∀ i, i ∈ s.cph.jobs → i.entry ≠ j.entry)) ∧
      { t with regs := s.regs, thrs := s.thrs, cph := s.cph } = s ∧ { t.cph with jobs := s.cph.jobs } = s.cph)

/-- wait returns the events of its mask that are up and clears the doorbells it returns, C when its deadline is reached, or
  leaves the thread WAITING until then; a wait without event or deadline is ILLEGAL (R238, R240, R241, R242). sev sets a
  doorbell of its engine; tnow reads the time base within 2 ns; qclr reads and clears Q; swp exchanges a word; brk stops in
  DEBUG and halt in HALTED with the next PC (R243, R297, R301). An ILLEGAL word faults its thread with 0x4001 and a
  breakpoint stops it before the word (R264, R267, R272). -/
def Obligations.EngineWaits : Prop :=
  ∀ (s : State) (e : Eng) (u : Thr) (d a b : QReg) (k : Fin 8) (m : Word) (dl : Option Word),
    (Issues s e u (qA 0x38 d a 0 0) ∧ s.eventWord e u &&& (s.qreg e u a) ≠ 0 → Gives (.wait e u d a) s fun t => Wakes s t e
      u d (s.eventWord e u &&& (s.qreg e u a)) { s.flags e u with c := false } [thA e u 0x10] ∧ t.rd (thA e u 0x10) = s.rd
      (thA e u 0x10) &&& ~~~(s.eventWord e u &&& (s.qreg e u a)) ∧ { t with regs := s.regs, thrs := s.thrs } = s)
    ∧ (Issues s e u (qA 0x38 d a 0 0) ∧ (s.qreg e u a) ≠ 0 ∧ s.eventWord e u &&& (s.qreg e u a) = 0 → Gives (.wait e u d a) s
      fun t => HeldAt s t e u 2 (.wait d (s.qreg e u a) none) [] ∧ { t with regs := s.regs, thrs := s.thrs } = s)
    ∧ (Issues s e u (qA 0x38 d a 0 0) ∧ (s.qreg e u a) = 0 → Gives (.wait e u d a) s fun t => t.thState e u = 4 ∧ t.rf (thA e
      u 4) 7 4 = 1 ∧ t.rf (thA e u 4) 29 16 = s.qpc e u ∧ (∀ i, i < 16 → t.qreg e u i = s.qreg e u i) ∧ Reported s t
      [(0x4001, e * 8 + u, s.qpc e u)] ∧ t.mem = s.mem)
    ∧ (Issues s e u (qA 0x38 d a b 1) → Gives (.waitDeadline e u d a b) s fun t => if s.eventWord e u &&& (s.qreg e u a) = 0 ∧
      reached (s.qreg e u b) (s.engNow e) = false then HeldAt s t e u 2 (.wait d (s.qreg e u a) (some (s.qreg e u b))) [] ∧
      { t with regs := s.regs, thrs := s.thrs } = s else Wakes s t e u d (s.eventWord e u &&& (s.qreg e u a))
      { s.flags e u with c := reached (s.qreg e u b) (s.engNow e) } [thA e u 0x10] ∧ t.rd (thA e u 0x10) = s.rd (thA e u
      0x10) &&& ~~~(s.eventWord e u &&& (s.qreg e u a)) ∧ { t with regs := s.regs, thrs := s.thrs } = s)
    ∧ (s.accepts 4 = true ∧ s.thState e u = 2 ∧ (s.thr e u).held = some (.wait d m dl) → Gives (.waitEnd e u) s fun t => if
      s.eventWord e u &&& m = 0 ∧ dl.any (reached · (s.engNow e)) = false then t = s else Wakes s t e u d (s.eventWord e u
      &&& m) { s.flags e u with c := dl.any (reached · (s.engNow e)) } [thA e u 0x10] ∧ t.rd (thA e u 0x10) = s.rd (thA e u
      0x10) &&& ~~~(s.eventWord e u &&& m) ∧ { t with regs := s.regs, thrs := s.thrs } = s)
    ∧ (Issues s e u (qI 0x39 0 a k) → Gives (.sev e u a k) s fun t => Wakes s t e u 0 0 (s.flags e u) [thA e (fld (s.qreg e u
      a) 2 0) 0x10] ∧ t.rd (thA e (fld (s.qreg e u a) 2 0) 0x10) = s.rd (thA e (fld (s.qreg e u a) 2 0) 0x10) ||| wd (2 ^
      k.val) ∧ { t with regs := s.regs, thrs := s.thrs } = s)
    ∧ (Issues s e u (qA 0x3F d 0 0 1) → Gives (.tnow e u d) s fun t => (∃ i ∈ List.range 5, s.engNow e = s.now + wd i - 2) ∧
      Wakes s t e u d (s.engNow e) (s.flags e u) [] ∧ { t with regs := s.regs, thrs := s.thrs } = s)
    ∧ (Issues s e u (qA 0x3F d 0 0 2) → Gives (.qclr e u d) s fun t => Wakes s t e u d (wd (s.flags e u).q.toNat)
      { s.flags e u with q := false } [] ∧ { t with regs := s.regs, thrs := s.thrs } = s)
    ∧ (Issues s e u (qA 0x3F d a b 3) ∧ s.dataFault e u (s.qreg e u a).toNat 4 4 true = none → Gives (.swp e u d a b) s fun t
      => Wakes s t e u d (wd (s.ldLE (dmA e (s.qreg e u a).toNat) 4)) (s.flags e u) [] ∧ t.ldLE (dmA e (s.qreg e u a).toNat)
      4 = (s.qreg e u b).toNat ∧ MemBut s t (dmA e (s.qreg e u a).toNat) 4 ∧
      { t with regs := s.regs, thrs := s.thrs, mem := s.mem } = s)
    ∧ (Issues s e u (qA 0x3F 0 0 0 4) → Gives (.brk e u) s fun t => t.thState e u = 5 ∧ t.qpc e u = nextPc s e u ∧ t.rf (thA e
      u 4) 29 16 = nextPc s e u ∧ t.thr e u = {} ∧ ThreadsBut s t e u ∧ RegsBut s t [thA e u 0, thA e u 4] ∧
      { t with regs := s.regs, thrs := s.thrs } = s)
    ∧ (Issues s e u (qA 0x3F 0 0 0 5) → Gives (.halt e u) s fun t => t.thState e u = 0 ∧ t.qpc e u = nextPc s e u ∧ t.rf (thA
      e u 4) 29 16 = nextPc s e u ∧ t.thr e u = {} ∧ ThreadsBut s t e u ∧ RegsBut s t [thA e u 0, thA e u 4] ∧
      { t with regs := s.regs, thrs := s.thrs } = s)
    ∧ (Issues s e u m ∧ qLegal m = false → Gives (.illegalInstruction e u) s fun t => t.thState e u = 4 ∧ t.rf (thA e u 4) 7 4
      = 1 ∧ t.rf (thA e u 4) 29 16 = s.qpc e u ∧ (∀ i, i < 16 → t.qreg e u i = s.qreg e u i) ∧ Reported s t [(0x4001, e * 8
      + u, s.qpc e u)] ∧ t.mem = s.mem)
    ∧ (s.accepts 4 = true ∧ s.thState e u = 1 ∧ (s.thr e u).stepping = false ∧ s.breakpoint e u (s.qpc e u) = true → Gives
      (.breakpointHit e u) s fun t => t.thState e u = 5 ∧ t.qpc e u = s.qpc e u ∧ t.rf (thA e u 4) 29 16 = s.qpc e u ∧
      RegsBut s t [thA e u 0, thA e u 4] ∧ { t with regs := s.regs } = s)

/-- For the thread that the line is bound to, dedge and dset queue an edge on the 2 ns grid when fewer than four wait, each
  instant after the one before it, else RANGE; while four wait the thread is held until an entry frees, or the other form
  answers LENGTH; a thread that is not bound answers ACCESS (R248, R249, R298). dlvl brings the line's level and count to a
  thread of the owning slice, dflush discards the queue and brings its length; both bring all ones otherwise and leave the
  flags (R252, R299). -/
def Obligations.EngineLines : Prop :=
  ∀ (s : State) (e : Eng) (u : Thr) (d a b : QReg) (n : Line) (l : Bool) (at_ : Option Word),
    (Issues s e u (qA 0x3A d a b (edgeSub n l false false)) ∧ s.lineBound n e u = true ∧ (s.line n).lastAt.all (future
      (onGrid (s.qreg e u a))) = true ∧ (s.line n).queue.length < 4 → Gives (.dedge e u d a b n l) s fun t => AwaitsSt s t e
      u d .done false [] ∧ t.line n =
      { s.line n with queue := (s.line n).queue ++ [{ at_ := onGrid (s.qreg e u a), level := l, now := false }], lastAt := some (onGrid (s.qreg e u a)) }
      ∧ (∀ k, k ≠ n.val → t.line k = s.line k) ∧ { t with regs := s.regs, thrs := s.thrs, lines := s.lines } = s)
    ∧ (Issues s e u (qA 0x3A d a b (edgeSub n l false false)) ∧ s.lineBound n e u = true ∧ (s.line n).lastAt.all (future
      (onGrid (s.qreg e u a))) = true ∧ 4 ≤ (s.line n).queue.length → Gives (.dedge e u d a b n l) s fun t => HeldAt s t e u
      3 (.edge d n (some (s.qreg e u a)) l) [] ∧ { t with regs := s.regs, thrs := s.thrs } = s)
    ∧ (Issues s e u (qA 0x3A d a b (edgeSub n l false false)) ∧ s.lineBound n e u = false → Gives (.dedge e u d a b n l) s fun
      t => AwaitsSt s t e u d .access false [] ∧ { t with regs := s.regs, thrs := s.thrs } = s)
    ∧ (Issues s e u (qA 0x3A d a b (edgeSub n l false false)) ∧ s.lineBound n e u = true ∧ (s.line n).lastAt.all (future
      (onGrid (s.qreg e u a))) = false → Gives (.dedge e u d a b n l) s fun t => AwaitsSt s t e u d .range false [] ∧
      { t with regs := s.regs, thrs := s.thrs } = s)
    ∧ (Issues s e u (qA 0x3A d a b (edgeSub n l false true)) ∧ s.lineBound n e u = true ∧ (s.line n).lastAt.all (future
      (onGrid (s.qreg e u a))) = true ∧ (s.line n).queue.length < 4 → Gives (.dedgeNw e u d a b n l) s fun t => AwaitsSt s t
      e u d .done false [] ∧ t.line n =
      { s.line n with queue := (s.line n).queue ++ [{ at_ := onGrid (s.qreg e u a), level := l, now := false }], lastAt := some (onGrid (s.qreg e u a)) }
      ∧ (∀ k, k ≠ n.val → t.line k = s.line k) ∧ { t with regs := s.regs, thrs := s.thrs, lines := s.lines } = s)
    ∧ (Issues s e u (qA 0x3A d a b (edgeSub n l false true)) ∧ s.lineBound n e u = true ∧ (s.line n).lastAt.all (future
      (onGrid (s.qreg e u a))) = true ∧ 4 ≤ (s.line n).queue.length → Gives (.dedgeNw e u d a b n l) s fun t => AwaitsSt s t
      e u d .length false [] ∧ { t with regs := s.regs, thrs := s.thrs } = s)
    ∧ (Issues s e u (qA 0x3A d a b (edgeSub n l false true)) ∧ s.lineBound n e u = false → Gives (.dedgeNw e u d a b n l) s
      fun t => AwaitsSt s t e u d .access false [] ∧ { t with regs := s.regs, thrs := s.thrs } = s)
    ∧ (Issues s e u (qA 0x3A d a b (edgeSub n l false true)) ∧ s.lineBound n e u = true ∧ (s.line n).lastAt.all (future
      (onGrid (s.qreg e u a))) = false → Gives (.dedgeNw e u d a b n l) s fun t => AwaitsSt s t e u d .range false [] ∧
      { t with regs := s.regs, thrs := s.thrs } = s)
    ∧ (Issues s e u (qA 0x3A d 0 b (edgeSub n l true false)) ∧ s.lineBound n e u = true ∧ (s.line n).lastAt.all (future
      (onGrid s.now)) = true ∧ (s.line n).queue.length < 4 → Gives (.dset e u d b n l) s fun t => AwaitsSt s t e u d .done
      false [] ∧ t.line n =
      { s.line n with queue := (s.line n).queue ++ [{ at_ := onGrid s.now, level := l, now := true }], lastAt := some (onGrid s.now) }
      ∧ (∀ k, k ≠ n.val → t.line k = s.line k) ∧ { t with regs := s.regs, thrs := s.thrs, lines := s.lines } = s)
    ∧ (Issues s e u (qA 0x3A d 0 b (edgeSub n l true false)) ∧ s.lineBound n e u = true ∧ (s.line n).lastAt.all (future
      (onGrid s.now)) = true ∧ 4 ≤ (s.line n).queue.length → Gives (.dset e u d b n l) s fun t => HeldAt s t e u 3 (.edge d
      n none l) [] ∧ { t with regs := s.regs, thrs := s.thrs } = s)
    ∧ (Issues s e u (qA 0x3A d 0 b (edgeSub n l true false)) ∧ s.lineBound n e u = false → Gives (.dset e u d b n l) s fun t
      => AwaitsSt s t e u d .access false [] ∧ { t with regs := s.regs, thrs := s.thrs } = s)
    ∧ (Issues s e u (qA 0x3A d 0 b (edgeSub n l true false)) ∧ s.lineBound n e u = true ∧ (s.line n).lastAt.all (future
      (onGrid s.now)) = false → Gives (.dset e u d b n l) s fun t => AwaitsSt s t e u d .range false [] ∧
      { t with regs := s.regs, thrs := s.thrs } = s)
    ∧ (Issues s e u (qA 0x3A d 0 b (edgeSub n l true true)) ∧ s.lineBound n e u = true ∧ (s.line n).lastAt.all (future (onGrid
      s.now)) = true ∧ (s.line n).queue.length < 4 → Gives (.dsetNw e u d b n l) s fun t => AwaitsSt s t e u d .done false
      [] ∧ t.line n =
      { s.line n with queue := (s.line n).queue ++ [{ at_ := onGrid s.now, level := l, now := true }], lastAt := some (onGrid s.now) }
      ∧ (∀ k, k ≠ n.val → t.line k = s.line k) ∧ { t with regs := s.regs, thrs := s.thrs, lines := s.lines } = s)
    ∧ (Issues s e u (qA 0x3A d 0 b (edgeSub n l true true)) ∧ s.lineBound n e u = true ∧ (s.line n).lastAt.all (future (onGrid
      s.now)) = true ∧ 4 ≤ (s.line n).queue.length → Gives (.dsetNw e u d b n l) s fun t => AwaitsSt s t e u d .length false
      [] ∧ { t with regs := s.regs, thrs := s.thrs } = s)
    ∧ (Issues s e u (qA 0x3A d 0 b (edgeSub n l true true)) ∧ s.lineBound n e u = false → Gives (.dsetNw e u d b n l) s fun t
      => AwaitsSt s t e u d .access false [] ∧ { t with regs := s.regs, thrs := s.thrs } = s)
    ∧ (Issues s e u (qA 0x3A d 0 b (edgeSub n l true true)) ∧ s.lineBound n e u = true ∧ (s.line n).lastAt.all (future (onGrid
      s.now)) = false → Gives (.dsetNw e u d b n l) s fun t => AwaitsSt s t e u d .range false [] ∧
      { t with regs := s.regs, thrs := s.thrs } = s)
    ∧ (s.accepts 4 = true ∧ s.thState e u = 3 ∧ (s.thr e u).held = some (.edge d n at_ l) ∧ s.lineBound n e u = true ∧ (s.line
      n).lastAt.all (future (onGrid (at_.getD s.now))) = true ∧ (s.line n).queue.length < 4 → Gives (.dedgeQueueRoom e u) s
      fun t => WakesSt s t e u d .done [] ∧ t.line n =
      { s.line n with queue := (s.line n).queue ++ [{ at_ := (onGrid (at_.getD s.now)), level := l, now := at_.isNone }], lastAt := some (onGrid (at_.getD s.now)) }
      ∧ (∀ k, k ≠ n.val → t.line k = s.line k) ∧ { t with regs := s.regs, thrs := s.thrs, lines := s.lines } = s)
    ∧ (Issues s e u (qA 0x3B d 0 0 n) ∧ ownTags (s.rd (dlA n 0)) = (s.threadTags (e * 8 + u)) → Gives (.dlvl e u d n) s fun t
      => HeldAt s t e u 3 (.result [(d.val, wd ((s.line n).dieLevel.toNat + (s.line n).queue.length * 16))] (s.rd (thA e u
      0x14))) [] ∧ { t with regs := s.regs, thrs := s.thrs } = s)
    ∧ (Issues s e u (qA 0x3B d 0 0 n) ∧ ¬ (ownTags (s.rd (dlA n 0)) = (s.threadTags (e * 8 + u))) → Gives (.dlvl e u d n) s
      fun t => HeldAt s t e u 3 (.result [(d.val, 0xFFFFFFFF)] (s.rd (thA e u 0x14))) [] ∧
      { t with regs := s.regs, thrs := s.thrs } = s)
    ∧ (Issues s e u (qA 0x3B d 0 0 (n + 64)) ∧ s.lineBound n e u = true → Gives (.dflush e u d n) s fun t => HeldAt s t e u 3
      (.result [(d.val, wd (s.line n).queue.length)] (s.rd (thA e u 0x14))) [] ∧ t.line n =
      { s.line n with queue := [], lastAt := none } ∧ (∀ k, k ≠ n.val → t.line k = s.line k) ∧
      { t with regs := s.regs, thrs := s.thrs, lines := s.lines } = s)
    ∧ (Issues s e u (qA 0x3B d 0 0 (n + 64)) ∧ s.lineBound n e u = false → Gives (.dflush e u d n) s fun t => HeldAt s t e u 3
      (.result [(d.val, 0xFFFFFFFF)] (s.rd (thA e u 0x14))) [] ∧ { t with regs := s.regs, thrs := s.thrs } = s)

/-- mget brings the oldest sample of the engine's FIFO, or the empty sample with C (R256, R300); mlat the latest sample of a
  source that the slice owns, and another answers empty with fault 0x0003; an arriving sample replaces its source's latest
  and enters the FIFOs whose subscription takes it, first those made since MSUB was written (R254, R255). lcmd writes a
  channel register through the die's bridge with the thread's tags, whose status comes back even through a window that
  posts, as a write of CH_CTL that turns the channel on shows, and answers RANGE for an offset it does not name (R259). -/
def Obligations.EngineMeasurement : Prop :=
  ∀ (s : State) (e : Eng) (u : Thr) (d a b : QReg) (n : Fin 64) (k : Fin 8) (x : Sample) (r : List Sample) (j : Fin 16) (c : Ch) (dl : Link) (sn : Fin 32) (n0 : Nat) (tf : Bool),
    (Issues s e u (qA 0x3C d 0 0 0) ∧ 0 < d.val ∧ d.val < 15 ∧ (s.eng e).fifo = x :: r → Gives (.mget e u d) s fun t =>
      HeldAt s t e u 3 (.result [(d.val, x.w0), (d.val + 1, x.w1)] ({ s.flags e u with c := false } : Fl).word) [] ∧ t.eng e
      = { s.eng e with fifo := r } ∧ (∀ g, g ≠ e.val → t.eng g = s.eng g) ∧
      { t with regs := s.regs, thrs := s.thrs, engs := s.engs } = s)
    ∧ (Issues s e u (qA 0x3C d 0 0 0) ∧ 0 < d.val ∧ d.val < 15 ∧ (s.eng e).fifo = [] → Gives (.mget e u d) s fun t => HeldAt s
      t e u 3 (.result [(d.val, 0x01C00000), (d.val + 1, 0)] ({ s.flags e u with c := true } : Fl).word) [] ∧ (∀ g, t.eng g
      = s.eng g) ∧ { t with regs := s.regs, thrs := s.thrs, engs := s.engs } = s)
    ∧ (Issues s e u (qA 0x3C d 0 0 (0x2000 + k.val * 64 + n.val)) ∧ 0 < d.val ∧ d.val < 15 ∧ k.val < 6 ∧ (k.val = 5 → n.val <
      32) ∧ s.mayReadOwned (s.threadTags (e * 8 + u)) (if k.val = 5 then sinA n 0 else chA n 0) = true ∧ smGet (fun _ =>
      none) s.mirror (n.val * 8 + k.val) = some x → Gives (.mlat e u d n k) s fun t => HeldAt s t e u 3 (.result [(d.val,
      x.w0), (d.val + 1, x.w1)] ({ s.flags e u with c := false } : Fl).word) [] ∧ { t with regs := s.regs, thrs := s.thrs }
      = s)
    ∧ (Issues s e u (qA 0x3C d 0 0 (0x2000 + k.val * 64 + n.val)) ∧ 0 < d.val ∧ d.val < 15 ∧ k.val < 6 ∧ (k.val = 5 → n.val <
      32) ∧ s.mayReadOwned (s.threadTags (e * 8 + u)) (if k.val = 5 then sinA n 0 else chA n 0) = true ∧ smGet (fun _ =>
      none) s.mirror (n.val * 8 + k.val) = none → Gives (.mlat e u d n k) s fun t => HeldAt s t e u 3 (.result [(d.val,
      0x01C00000), (d.val + 1, 0)] ({ s.flags e u with c := true } : Fl).word) [] ∧
      { t with regs := s.regs, thrs := s.thrs } = s)
    ∧ (Issues s e u (qA 0x3C d 0 0 (0x2000 + k.val * 64 + n.val)) ∧ 0 < d.val ∧ d.val < 15 ∧ k.val < 6 ∧ (k.val = 5 → n.val <
      32) ∧ s.mayReadOwned (s.threadTags (e * 8 + u)) (if k.val = 5 then sinA n 0 else chA n 0) = false → Gives (.mlat e u d
      n k) s fun t => HeldAt s t e u 3 (.result [(d.val, 0x01C00000), (d.val + 1, 0)] ({ s.flags e u with c := true } :
      Fl).word) [] ∧ Reported s t [(0x0003, if k.val = 5 then sinA n 0 else chA n 0, 0)] ∧
      { t with regs := s.regs, thrs := s.thrs, reports := s.reports } = s)
    ∧ (Issues s e u (qA 0x3C d 0 0 (0x2000 + k.val * 64 + n.val)) ∧ 0 < d.val ∧ d.val < 15 ∧ k.val < 6 ∧ k.val = 5 ∧ 32 ≤
      n.val → Gives (.mlat e u d n k) s fun t => HeldAt s t e u 3 (.result [(d.val, 0x01C00000), (d.val + 1, 0)]
      ({ s.flags e u with c := true } : Fl).word) [] ∧ { t with regs := s.regs, thrs := s.thrs } = s)
    ∧ (s.logicOn = true ∧ s.accepts 4 = true ∧ (dl.val = 2 ↔ k.val = 5) ∧ s.measTx.find? (fun y => fld y.x.w0 24 22 = k.val ∧
      fld y.x.w0 21 16 = if dl.val = 2 then sn.val else dl * 32 + sn) = some ⟨x, n0⟩ → Gives (.engineMeasArrival dl sn k) s
      fun t => t.measTx = s.measTx.filter (fun y => fld y.x.w0 24 16 ≠ fld x.w0 24 16) ∧ smGet (fun _ => none) t.mirror (fld
      x.w0 21 16 * 8 + fld x.w0 24 22) = some x ∧ (∀ y, y ≠ (fld x.w0 21 16 * 8 + fld x.w0 24 22) → smGet (fun _ => none)
      t.mirror y = smGet (fun _ => none) s.mirror y) ∧ (∀ g ∈ List.range 16, (t.eng g).fifo.take (s.eng g).fifo.length =
      (s.eng g).fifo ∧ (∀ y ∈ (t.eng g).fifo.drop (s.eng g).fifo.length, y = x) ∧ (t.eng g).since = (s.eng g).since) ∧
      RegsBut s t ((List.range 16).map fun g => secA g 0x640) ∧
      { t with regs := s.regs, mirror := s.mirror, engs := s.engs, measTx := s.measTx, reports := s.reports } = s)
    ∧ (s.logicOn = true ∧ s.accepts 4 = true ∧ (dl.val = 2 ↔ k.val = 5) ∧ s.measTx.find? (fun y => fld y.x.w0 24 22 = k.val ∧
      fld y.x.w0 21 16 = if dl.val = 2 then sn.val else dl * 32 + sn) = some ⟨x, n0⟩ ∧ (∀ g ∈ List.range 16, ∀ y ∈
      List.range 16, s.rb (secA g (0x600 + y * 4)) 31 = false) → Gives (.engineMeasArrival dl sn k) s fun t => t.measTx =
      s.measTx.filter (fun y => fld y.x.w0 24 16 ≠ fld x.w0 24 16) ∧ smGet (fun _ => none) t.mirror (fld x.w0 21 16 * 8 +
      fld x.w0 24 22) = some x ∧ (∀ y, y ≠ (fld x.w0 21 16 * 8 + fld x.w0 24 22) → smGet (fun _ => none) t.mirror y = smGet
      (fun _ => none) s.mirror y) ∧ { t with mirror := s.mirror, measTx := s.measTx } = s)
    ∧ (s.logicOn = true ∧ s.accepts 4 = true ∧ (dl.val = 2 ↔ k.val = 5) ∧ s.measTx.find? (fun y => fld y.x.w0 24 22 = k.val ∧
      fld y.x.w0 21 16 = if dl.val = 2 then sn.val else dl * 32 + sn) = some ⟨x, n0⟩ ∧ (∀ g ∈ List.range 16, ∀ y ∈
      List.range 16, (g = e ∧ y = j) ∨ s.rb (secA g (0x600 + y * 4)) 31 = false) ∧ bit (s.rd (secA e (0x600 + j * 4))) 31 =
      true ∧ fld (s.rd (secA e (0x600 + j * 4))) 26 24 = fld x.w0 24 22 ∧ fld (s.rd (secA e (0x600 + j * 4))) 21 16 = fld
      x.w0 21 16 ∧ smGet (fun _ => 0) (s.eng e).since j ≤ n0 ∧ smGet (fun _ => 0) (s.eng e).seen j = 0 ∧ (s.eng
      e).fifo.length < 64 → Gives (.engineMeasArrival dl sn k) s fun t => smGet (fun _ => none) t.mirror (fld x.w0 21 16 * 8
      + fld x.w0 24 22) = some x ∧ (∀ y, y ≠ (fld x.w0 21 16 * 8 + fld x.w0 24 22) → smGet (fun _ => none) t.mirror y =
      smGet (fun _ => none) s.mirror y) ∧ (t.eng e).fifo = (s.eng e).fifo ++ [x] ∧ smGet (fun _ => 0) (t.eng e).seen j = (if
      fld (s.rd (secA e (0x600 + j * 4))) 9 0 ≤ 1 then 0 else 1) ∧ (∀ y, y ≠ j.val → smGet (fun _ => 0) (t.eng e).seen y =
      smGet (fun _ => 0) (s.eng e).seen y) ∧ (t.eng e).since = (s.eng e).since ∧ (∀ g, g ≠ e.val → t.eng g = s.eng g) ∧
      { t with mirror := s.mirror, engs := s.engs, measTx := s.measTx } = s)
    ∧ (Issues s e u (qA 0x3D d a b 0) ∧ fld (s.qreg e u a) 21 16 = c.val ∧ 0xC ≤ (fld (s.qreg e u a) 7 0) ∧ (fld (s.qreg e u
      a) 7 0) ≤ 0x7C ∧ (fld (s.qreg e u a) 7 0) % 4 = 0 ∧ ChWrites s ⟨.thread e u, tf⟩ c (fld (s.qreg e u a) 7 0) → Gives
      (.lcmd e u d a b tf) s fun t => (∃ st ∈ [Status.done, .range, .conflict], t.thr e u =
      { s.thr e u with held := some (.result [(d.val, wd (st).code)] ({ s.flags e u with z := st = .done, n := false, c := false, v := false } : Fl).word) })
      ∧ ThreadsBut s t e u ∧ t.rd (thA e u 4) = setFld (s.rd (thA e u 4)) 2 0 3 ∧ (∀ x, inDie (c / 32) x = false → x ≠ thA e
      u 4 → t.rd x = s.rd x) ∧
      { t with regs := s.regs, thrs := s.thrs, chs := s.chs, dies := s.dies, reports := s.reports, dieLogs := s.dieLogs, brg := s.brg }
      = s)
    ∧ (Issues s e u (qA 0x3D d a b 0) ∧ fld (s.qreg e u a) 21 16 = c.val ∧ (fld (s.qreg e u a) 7 0) = 0xC ∧ ChWrites s
      ⟨.thread e u, tf⟩ c 0xC → Gives (.lcmd e u d a b tf) s fun t => t.thr e u =
      { s.thr e u with held := some (.result [(d.val, wd (Status.done).code)] ({ s.flags e u with z := Status.done = .done, n := false, c := false, v := false } : Fl).word) }
      ∧ t.rb (chA c 0xC) 0 = bit (s.qreg e u b) 0 ∧ t.rb (chA c 0xC) 1 = bit (s.qreg e u b) 1 ∧ ThreadsBut s t e u ∧ t.rd
      (thA e u 4) = setFld (s.rd (thA e u 4)) 2 0 3 ∧ (∀ x, inDie (c / 32) x = false → x ≠ thA e u 4 → t.rd x = s.rd x) ∧
      { t with regs := s.regs, thrs := s.thrs, chs := s.chs, dies := s.dies, reports := s.reports, dieLogs := s.dieLogs, brg := s.brg }
      = s)
    ∧ (Issues s e u (qA 0x3D d a b 0) ∧ fld (s.qreg e u a) 21 16 = c.val ∧ (fld (s.qreg e u a) 7 0) = 0xC ∧ ChWrites s
      ⟨.thread e u, tf⟩ c 0xC ∧ s.qreg e u b = 3 ∧ s.rf (chA c 4) 1 0 = 1 ∧ s.chState c = 0 ∧ (s.chI c).parEn = false ∧ s.uv
      (c / 32) = false ∧ s.limp (c / 32) = false ∧ s.rb (chA c 0x24) 8 = false ∧ s.rb (chA c 0x24) 9 = false ∧ ownHeld (s.rd
      (chA c 0)) = true ∧ s.interlock c = true ∧ (s.die (c / 32)).stagger = false → Gives (.lcmd e u d a b tf) s fun t =>
      AwaitsSt s t e u d .done false ((List.range 64).map (fun i => chA c (i * 4)) ++ [dieA (c / 32) 0x104]) ∧ t.chState c =
      2 ∧ t.rb (chA c 0xC) 1 = true ∧
      { t with regs := s.regs, thrs := s.thrs, chs := s.chs, dies := s.dies, reports := s.reports, dieLogs := s.dieLogs, brg := s.brg }
      = s)
    ∧ (Issues s e u (qA 0x3D d a b 0) ∧ fld (s.qreg e u a) 21 16 = c.val ∧ s.mustWait (16 + c / 32) = false ∧ ((fld (s.qreg e
      u a) 7 0) < 0xC ∨ 0x7C < (fld (s.qreg e u a) 7 0) ∨ (fld (s.qreg e u a) 7 0) % 4 ≠ 0) → Gives (.lcmd e u d a b tf) s
      fun t => AwaitsSt s t e u d .range false [] ∧ { t with regs := s.regs, thrs := s.thrs } = s)
    ∧ (Issues s e u (qA 0x3D d a b 0) ∧ fld (s.qreg e u a) 21 16 = c.val ∧ 0xC ≤ (fld (s.qreg e u a) 7 0) ∧ (fld (s.qreg e u
      a) 7 0) ≤ 0x7C ∧ (fld (s.qreg e u a) 7 0) % 4 = 0 ∧ FarReaches s ⟨.thread e u, false⟩ (c / 32) (chA c (fld (s.qreg e u
      a) 7 0)) ∧ s.mayWriteOwned (s.threadTags (e * 8 + u)) (chA c 0) = false → Gives (.lcmd e u d a b false) s fun t =>
      t.thr e u =
      { s.thr e u with held := some (.result [(d.val, wd (Status.access).code)] ({ s.flags e u with z := Status.access = .done, n := false, c := false, v := false } : Fl).word) }
      ∧ ThreadsBut s t e u ∧ t.rd (thA e u 4) = setFld (s.rd (thA e u 4)) 2 0 3 ∧ (∀ x, inDie (c / 32) x = false → x ≠ thA e
      u 4 → t.rd x = s.rd x) ∧
      { t with regs := s.regs, thrs := s.thrs, chs := s.chs, dies := s.dies, reports := s.reports, dieLogs := s.dieLogs, brg := s.brg }
      = s)

/-- The manager starts a stopped thread at a PC, halts it (at the end of its instruction when it is HELD) and steps it;
  HALT_ALL halts a whole engine and IM_LOCK locks its instruction memory (R223, R261, R268, R269). Bounds, event bindings,
  subscriptions and a stopped thread's flags and registers take their values, RANGE for one that does not fit, CONFLICT for
  a register of a thread that runs (R226, R227, R239, R254). Doorbells take the manager's writes and the slice's own (R238);
  DL_BIND the line owner's while its queue is empty (R247). The windows take aligned writes: instruction memory of halted,
  unlocked engines from the manager, data memory within the bounds of the writer's threads (R260, R261). -/
def Obligations.EngineControl : Prop :=
  ∀ (s : State) (a : Acc) (e : Eng) (u : Thr) (pc : BitVec 14) (off : Fin 32) (v : Word) (n : Line) (j : Fin 16) (addr : Addr) (k : Nat) (x : DWord),
    (Reaches s a (secA e 0) ∧ Manager s a ∧ (s.thState e u = 0 ∨ s.thState e u = 4 ∨ s.thState e u = 5) → Gives
      (.threadStart a e u pc) s fun t => t.thState e u = 1 ∧ t.rf (thA e u 4) 7 4 = 0 ∧ t.thr e u = {} ∧ t.qpc e u =
      pc.toNat ∧ t.rf (thA e u 4) 29 16 = pc.toNat ∧ ThreadsBut s t e u ∧ RegsBut s t [thA e u 0, thA e u 4] ∧ Answers t
      .done ∧ { t with regs := s.regs, thrs := s.thrs, resp := s.resp } = s)
    ∧ (Reaches s a (secA e 0) ∧ Manager s a ∧ NoHart a ∧ ¬ (s.thState e u = 0 ∨ s.thState e u = 4 ∨ s.thState e u = 5) → Gives
      (.threadStart a e u pc) s fun t => Refuses s t .conflict)
    ∧ (Reaches s a (secA e 0) ∧ Manager s a ∧ (s.thState e u = 1 ∨ s.thState e u = 2) → Gives (.threadHalt a e u pc) s fun t
      => t.thState e u = 0 ∧ t.thr e u = {} ∧ t.qpc e u = s.qpc e u ∧ t.rf (thA e u 4) 29 16 = s.qpc e u ∧ ThreadsBut s t e
      u ∧ RegsBut s t [thA e u 0, thA e u 4] ∧ Answers t .done ∧ { t with regs := s.regs, thrs := s.thrs, resp := s.resp } =
      s)
    ∧ (Reaches s a (secA e 0) ∧ Manager s a ∧ s.thState e u = 3 → Gives (.threadHalt a e u pc) s fun t => t.thr e u =
      { s.thr e u with haltReq := true } ∧ ThreadsBut s t e u ∧ Answers t .done ∧ { t with thrs := s.thrs, resp := s.resp }
      = s)
    ∧ (Reaches s a (secA e 0) ∧ Manager s a ∧ (s.thState e u = 0 ∨ s.thState e u = 4 ∨ s.thState e u = 5) → Gives (.threadHalt
      a e u pc) s fun t => t.thState e u = (if s.thState e u = 4 then 4 else 0) ∧ (∀ g h, t.thr g h = s.thr g h) ∧ t.qpc e u
      = pc.toNat ∧ t.rf (thA e u 4) 29 16 = pc.toNat ∧ ThreadsBut s t e u ∧ RegsBut s t [thA e u 0, thA e u 4] ∧ Answers t
      .done ∧ { t with regs := s.regs, thrs := s.thrs, resp := s.resp } = s)
    ∧ (Reaches s a (secA e 0) ∧ Manager s a ∧ (s.thState e u = 0 ∨ s.thState e u = 5) → Gives (.threadStep a e u pc) s fun t
      => t.thState e u = 1 ∧ t.thr e u = { stepping := true } ∧ t.qpc e u = pc.toNat ∧ t.rf (thA e u 4) 29 16 = pc.toNat ∧
      ThreadsBut s t e u ∧ RegsBut s t [thA e u 0, thA e u 4] ∧ Answers t .done ∧
      { t with regs := s.regs, thrs := s.thrs, resp := s.resp } = s)
    ∧ (Reaches s a (secA e 0) ∧ Manager s a ∧ s.thState e u = 4 → Gives (.threadStep a e u pc) s fun t => t.thState e u = 4 ∧
      (∀ g h, t.thr g h = s.thr g h) ∧ t.qpc e u = pc.toNat ∧ t.rf (thA e u 4) 29 16 = pc.toNat ∧ ThreadsBut s t e u ∧
      RegsBut s t [thA e u 0, thA e u 4] ∧ Answers t .done ∧ { t with regs := s.regs, thrs := s.thrs, resp := s.resp } = s)
    ∧ (Reaches s a (secA e 0) ∧ Manager s a ∧ NoHart a ∧ ¬ (s.thState e u = 0 ∨ s.thState e u = 4 ∨ s.thState e u = 5) → Gives
      (.threadStep a e u pc) s fun t => Refuses s t .conflict)
    ∧ (Reaches s a (secA e 0) ∧ Manager s a → Gives (.haltAll a e) s fun t => (∀ h, h < 8 → t.thState e h = (if s.thState e h
      = 1 ∨ s.thState e h = 2 ∨ s.thState e h = 5 then 0 else s.thState e h) ∧ t.qpc e h = s.qpc e h ∧ t.thr e h = (if
      s.thState e h = 3 then { s.thr e h with haltReq := true } else if s.thState e h = 1 ∨ s.thState e h = 2 then {} else
      s.thr e h)) ∧ RegsBut s t ((List.range 8).map (fun h => thA e h 0) ++ (List.range 8).map (fun h => thA e h 4)) ∧
      Answers t .done ∧ { t with regs := s.regs, thrs := s.thrs, resp := s.resp } = s)
    ∧ (Reaches s a (secA e 0) ∧ Manager s a → Gives (.imLock a e) s fun t => t.rd (secA e 0) = setBit (s.rd (secA e 0)) 0 true
      ∧ RegsBut s t [secA e 0] ∧ RegsOnly s t ∧ Answers t .done)
    ∧ (Reaches s a (secA e 0) ∧ (Manager s a ∨ s.tagsOf a.who = s.threadTags (e * 8 + u)) → Gives (.tDoorWrite a e u v) s fun
      t => t.rd (thA e u 0x10) = s.rd (thA e u 0x10) ||| (v &&& 0xFF) ∧ RegsBut s t [thA e u 0x10] ∧ RegsOnly s t ∧ Answers
      t .done)
    ∧ (Reaches s a (secA e 0) ∧ NoHart a ∧ ¬ Manager s a ∧ s.tagsOf a.who ≠ s.threadTags (e * 8 + u) → Gives (.tDoorWrite a e
      u v) s fun t => Denies s t (thA e u 0x10))
    ∧ (Reaches s a (secA e 0) ∧ Manager s a ∧ off.val = 2 ∧ fld v 13 0 < fld v 30 16 ∧ fld v 30 16 ≤ 16384 → Gives
      (.threadStateWrite a e u off v) s fun t => Writes s t (thA e u (off * 4)) v)
    ∧ (Reaches s a (secA e 0) ∧ Manager s a ∧ NoHart a ∧ off.val = 2 ∧ (fld v 30 16 ≤ fld v 13 0 ∨ 16384 < fld v 30 16) →
      Gives (.threadStateWrite a e u off v) s fun t => Refuses s t .range)
    ∧ (Reaches s a (secA e 0) ∧ Manager s a ∧ off.val = 3 ∧ fld v 7 0 ≤ fld v 15 8 ∧ fld v 15 8 ≤ 0xBE ∧ s.boundsMeet e u
      (s.threadTags (e * 8 + u)) (fld v 7 0) (fld v 15 8) = false → Gives (.threadStateWrite a e u off v) s fun t => Writes
      s t (thA e u (off * 4)) v)
    ∧ (Reaches s a (secA e 0) ∧ Manager s a ∧ 8 ≤ off.val ∧ off.val < 16 ∧ fld v 26 24 < 6 → Gives (.threadStateWrite a e u
      off v) s fun t => Writes s t (thA e u (off * 4)) v)
    ∧ (Reaches s a (secA e 0) ∧ Manager s a ∧ (off.val = 5 ∨ 16 ≤ off.val) ∧ (s.thState e u = 0 ∨ s.thState e u = 4 ∨
      s.thState e u = 5) → Gives (.threadStateWrite a e u off v) s fun t => Writes s t (thA e u (off * 4)) v)
    ∧ (Reaches s a (secA e 0) ∧ Manager s a ∧ NoHart a ∧ (off.val = 5 ∨ 16 ≤ off.val) ∧ ¬ (s.thState e u = 0 ∨ s.thState e u =
      4 ∨ s.thState e u = 5) → Gives (.threadStateWrite a e u off v) s fun t => Refuses s t .conflict)
    ∧ (Reaches s a (secA (n / 4) 0) ∧ s.mayWriteOwned (s.tagsOf a.who) (dlA n 0) = true ∧ (s.line n).queue = [] → Gives
      (.dlBindWrite a n v) s fun t => Writes s t (dlA n 4) v)
    ∧ (Reaches s a (secA (n / 4) 0) ∧ s.mayWriteOwned (s.tagsOf a.who) (dlA n 0) = true ∧ NoHart a ∧ (s.line n).queue ≠ [] →
      Gives (.dlBindWrite a n v) s fun t => Refuses s t .conflict)
    ∧ (Reaches s a (secA e 0) ∧ Manager s a ∧ fld v 26 24 < 6 ∧ 1 ≤ fld v 9 0 ∧ fld v 9 0 ≤ 1000 ∧ (fld v 26 24 = 5 → fld v 21
      16 < 32) → Gives (.msubWrite a e j v) s fun t => t.rd (secA e (0x600 + j * 4)) = maskedWrite (regDesc (secA e (0x600 +
      j * 4))) (s.rd (secA e (0x600 + j * 4))) v ∧ smGet (fun _ => 0) (t.eng e).seen j = 0 ∧ smGet (fun _ => 0) (t.eng
      e).since j = s.measNo ∧ (∀ i, i ≠ j.val → smGet (fun _ => 0) (t.eng e).seen i = smGet (fun _ => 0) (s.eng e).seen i ∧
      smGet (fun _ => 0) (t.eng e).since i = smGet (fun _ => 0) (s.eng e).since i) ∧ (t.eng e).fifo = (s.eng e).fifo ∧ (∀ g,
      g ≠ e.val → t.eng g = s.eng g) ∧ RegsBut s t [secA e (0x600 + j * 4)] ∧ Answers t .done ∧
      { t with regs := s.regs, engs := s.engs, resp := s.resp } = s)
    ∧ (Reaches s a (secA e 0) ∧ Manager s a ∧ NoHart a ∧ (fld v 9 0 = 0 ∨ 1000 < fld v 9 0 ∨ 6 ≤ fld v 26 24) → Gives
      (.msubWrite a e j v) s fun t => Refuses s t .range)
    ∧ (Reaches s a (secA e 0) ∧ Manager s a → Gives (.engineMeasOvfRst a e) s fun t => t.rd (secA e 0x640) = setFld (s.rd
      (secA e 0x640)) 23 16 0 ∧ RegsBut s t [secA e 0x640] ∧ RegsOnly s t ∧ Answers t .done)
    ∧ (winBase ≤ addr.toNat ∧ addr.toNat < winBase + 0x200000 ∧ Reaches s a addr.toNat ∧ (addr.toNat - winBase) % 0x20000 <
      0x10000 ∧ (k = 4 ∨ k = 8) ∧ (addr.toNat - winBase) % k = 0 ∧ Manager s a ∧ s.rb (secA ((addr.toNat - winBase) /
      0x20000) 0) 0 = false ∧ (∀ h, h < 8 → s.thState ((addr.toNat - winBase) / 0x20000) h = 0) → Gives
      (.engineMemWindowWrite a addr k x) s fun t => t.ldLE addr.toNat k = x.toNat % 2 ^ (8 * k) ∧ MemBut s t addr.toNat k ∧
      StoreSide s t ∧ Answers t .done ∧ { t with mem := s.mem, eccBad := s.eccBad, harts := s.harts, resp := s.resp } = s)
    ∧ (winBase ≤ addr.toNat ∧ addr.toNat < winBase + 0x200000 ∧ Reaches s a addr.toNat ∧ 0x10000 ≤ (addr.toNat - winBase) %
      0x20000 ∧ (k = 1 ∨ k = 2 ∨ k = 4 ∨ k = 8) ∧ (addr.toNat - winBase) % k = 0 ∧ (Manager s a ∨ ∃ h ∈ List.range 8,
      s.threadTags ((addr.toNat - winBase) / 0x20000 * 8 + h) = s.tagsOf a.who ∧ s.inBounds ((addr.toNat - winBase) /
      0x20000) h ((addr.toNat - winBase) % 0x10000) k = true) → Gives (.engineMemWindowWrite a addr k x) s fun t => t.ldLE
      addr.toNat k = x.toNat % 2 ^ (8 * k) ∧ MemBut s t addr.toNat k ∧ StoreSide s t ∧ Answers t .done ∧
      { t with mem := s.mem, eccBad := s.eccBad, harts := s.harts, resp := s.resp } = s)
    ∧ (winBase ≤ addr.toNat ∧ addr.toNat < winBase + 0x200000 ∧ Reaches s a addr.toNat ∧ NoHart a ∧ (addr.toNat - winBase) %
      0x20000 < 0x10000 ∧ (k = 4 ∨ k = 8) ∧ (addr.toNat - winBase) % k = 0 ∧ Manager s a ∧ s.rb (secA ((addr.toNat -
      winBase) / 0x20000) 0) 0 = false ∧ (∃ h ∈ List.range 8, s.thState ((addr.toNat - winBase) / 0x20000) h ≠ 0) → Gives
      (.engineMemWindowWrite a addr k x) s fun t => Refuses s t .conflict)
    ∧ (winBase ≤ addr.toNat ∧ addr.toNat < winBase + 0x200000 ∧ Reaches s a addr.toNat ∧ NoHart a ∧ (addr.toNat - winBase) %
      0x20000 < 0x10000 ∧ ¬ Manager s a → Gives (.engineMemWindowWrite a addr k x) s fun t => Denies s t addr.toNat)

/-- A value write by the recorded writer or the manager stores value, date, arrival and count leaves the entry VALID and
  fires the schedule that watches it, unless the entry holds a newer value, which CNT0 counts (R307, R310, R312, R326); in
  restore mode words 0 and 1 are stored as they are given (R352); an unconfigured entry answers RANGE (R308); configuration
  words take the manager's writes, an age limit above 2,000 ms RANGE (R309). Schedule writes restart the series, and a fire
  sets its doorbell, counts, and sets the next instant (R325, R327, R328). Table commits take the staged words (R333, R337).
  A snapshot is taken, refused while one is under way, aborted, or copied whole as its entries stand (R348, R350, R351). A
  sweep marks every stale entry and loses every silent node (R319, R339); a tunnel's hold ends with its messages in one PDU
  (R343). -/
def Obligations.Cellar : Prop :=
  ∀ (s : State) (a : Acc) (h : BitVec 16) (wide : Bool) (x : DWord) (v : Word) (w : Fin 4) (k : Fin 256) (r : Fin 2048) (e : Fin 4096) (us : Fin 82) (u : Fin 32) (n : Snap),
    (Reaches s a (enA h.toNat 0) ∧ s.enMayWrite (s.tagsOf a.who) h.toNat = true ∧ s.restoring (s.tagsOf a.who) = false ∧
      s.enBare h.toNat = false ∧ s.enBad h.toNat 2 = false ∧ s.enBad h.toNat 3 = false ∧ (s.rb (enA h.toNat 1) 9 = false ∨
      s.rb (enA h.toNat 1) 8 = true ∨ future s.now (s.rd (enA h.toNat 2)) = true) ∧ s.clr.snap = none ∧ s.rb (enA h.toNat 6)
      24 = false → Gives (.cellarWindowValueWrite a h wide x) s fun t => t.rd (enA h.toNat 0) = x.truncate 32 ∧ t.rd (enA
      h.toNat 1) = setFld (setFld (s.rd (enA h.toNat 1)) 31 16 (s.rf (enA h.toNat 1) 31 16 + 1)) 9 8 2 ∧ t.rd (enA h.toNat
      2) = s.now ∧ t.rd (enA h.toNat 3) = s.now ∧ t.eccBad = (s.eccBad.filter (· != (enA h.toNat 0))).filter (· != (enA
      h.toNat 2)) ∧ RegsBut s t [(enA h.toNat 0), (enA h.toNat 1), (enA h.toNat 2), (enA h.toNat 3)] ∧ Answers t .done ∧
      { t with regs := s.regs, eccBad := s.eccBad, resp := s.resp } = s)
    ∧ (Reaches s a (enA h.toNat 0) ∧ s.enMayWrite (s.tagsOf a.who) h.toNat = true ∧ s.restoring (s.tagsOf a.who) = false ∧
      s.enBare h.toNat = false ∧ s.enBad h.toNat 2 = false ∧ s.enBad h.toNat 3 = false ∧ (s.rb (enA h.toNat 1) 9 = false ∨
      s.rb (enA h.toNat 1) 8 = true ∨ future s.now (s.rd (enA h.toNat 2)) = true) → Gives (.cellarWindowValueWrite a h wide
      x) s fun t => EnTook s t h.toNat (x.truncate 32) s.now ∧ RegsBut s t (enTookRegs s h.toNat) ∧ (∀ y, y ∈ t.eccBad → y ∈
      s.eccBad) ∧ Answers t .done ∧
      { t with regs := s.regs, eccBad := s.eccBad, clr := s.clr, reports := s.reports, resp := s.resp } = s)
    ∧ (Reaches s a (enA h.toNat 0) ∧ s.enMayWrite (s.tagsOf a.who) h.toNat = true ∧ s.restoring (s.tagsOf a.who) = false ∧
      s.enBare h.toNat = false ∧ s.enBad h.toNat 2 = false ∧ s.enBad h.toNat 3 = false ∧ s.rb (enA h.toNat 1) 9 = true ∧
      s.rb (enA h.toNat 1) 8 = false ∧ future s.now (s.rd (enA h.toNat 2)) = false → Gives (.cellarWindowValueWrite a h wide
      x) s fun t => t.rd (clA 0x40) = (if s.rd (clA 0x40) = 0xFFFFFFFF then 0xFFFFFFFF else s.rd (clA 0x40) + 1) ∧ RegsBut s
      t [clA 0x40] ∧ RegsOnly s t ∧ Answers t .done)
    ∧ (Reaches s a (enA h.toNat 0) ∧ Manager s a ∧ s.rb (clA 0) 1 = true ∧ s.enBare h.toNat = false ∧ s.enBad h.toNat 2 =
      false ∧ s.enBad h.toNat 3 = false ∧ (wide = false → s.enBad h.toNat 0 = false) → Gives (.cellarWindowValueWrite a h
      wide x) s fun t => t.rd (enA h.toNat 0) = x.truncate 32 ∧ t.rd (enA h.toNat 1) = (if wide then ((x >>> 32).truncate
      32) &&& 0xFFFF0300 else s.rd (enA h.toNat 1)) ∧ RegsBut s t [(enA h.toNat 0), (enA h.toNat 1), clA 0x1C] ∧ (∀ y, y ∈
      t.eccBad → y ∈ s.eccBad) ∧ Answers t .done ∧
      { t with regs := s.regs, eccBad := s.eccBad, clr := s.clr, reports := s.reports, resp := s.resp } = s)
    ∧ (Reaches s a (enA h.toNat 0) ∧ NoHart a ∧ s.enMayWrite (s.tagsOf a.who) h.toNat = true ∧ s.restoring (s.tagsOf a.who) =
      false ∧ s.enBare h.toNat = true → Gives (.cellarWindowValueWrite a h wide x) s fun t => Refuses s t .range)
    ∧ (Reaches s a (enA h.toNat 0) ∧ NoHart a ∧ s.enMayWrite (s.tagsOf a.who) h.toNat = false → Gives (.cellarWindowValueWrite
      a h wide x) s fun t => Denies s t (enA h.toNat 0))
    ∧ (Reaches s a (enA h.toNat (4 + w)) ∧ Manager s a ∧ ¬ (w.val = 1 ∧ wide = false ∧ ageTooLong (x.truncate 32) = true) ∧ ¬
      (w.val = 0 ∧ wide = true ∧ ageTooLong ((x >>> 32).truncate 32) = true) ∧ (wide = true → w.val % 2 = 0) ∧ (wide = false
      → s.enBad h.toNat ((4 + w) / 2) = false) → Gives (.cellarConfigWrite a h w wide x) s fun t => t.rd (enA h.toNat (4 +
      w)) = maskedWrite (regDesc (enA h.toNat (4 + w))) (s.rd (enA h.toNat (4 + w))) (x.truncate 32) ∧ (wide = true → t.rd
      (enA h.toNat (5 + w)) = maskedWrite (regDesc (enA h.toNat (5 + w))) (s.rd (enA h.toNat (5 + w))) ((x >>> 32).truncate
      32)) ∧ RegsBut s t ([(enA h.toNat (4 + w)), clA 0x1C] ++ if wide then [(enA h.toNat (5 + w))] else []) ∧ (∀ y, y ∈
      t.eccBad → y ∈ s.eccBad) ∧ Answers t .done ∧
      { t with regs := s.regs, eccBad := s.eccBad, clr := s.clr, reports := s.reports, resp := s.resp } = s)
    ∧ (Reaches s a (enA h.toNat (4 + w)) ∧ Manager s a ∧ wide = false ∧ ¬ (w.val = 1 ∧ ageTooLong (x.truncate 32) = true) ∧
      s.enBad h.toNat ((4 + w) / 2) = false ∧ s.clr.snap = none → Gives (.cellarConfigWrite a h w wide x) s fun t => Writes
      s t (enA h.toNat (4 + w)) (x.truncate 32))
    ∧ (Reaches s a (enA h.toNat (4 + w)) ∧ Manager s a ∧ wide = true ∧ w.val % 2 = 0 ∧ ¬ (w.val = 0 ∧ ageTooLong ((x >>>
      32).truncate 32) = true) ∧ s.clr.snap = none → Gives (.cellarConfigWrite a h w wide x) s fun t => t =
      { ((s.plainWr (enA h.toNat (4 + w)) (x.truncate 32)).plainWr (enA h.toNat (5 + w)) ((x >>> 32).truncate 32)).mend (enA h.toNat (4 + w)) with resp := ⟨.done, 0⟩ })
    ∧ (Reaches s a (enA h.toNat (4 + w)) ∧ Manager s a ∧ NoHart a ∧ ((w.val = 1 ∧ wide = false ∧ ageTooLong (x.truncate 32) =
      true) ∨ (w.val = 0 ∧ wide = true ∧ ageTooLong ((x >>> 32).truncate 32) = true)) → Gives (.cellarConfigWrite a h w wide
      x) s fun t => Refuses s t .range)
    ∧ (Reaches s a (dsA k 0) ∧ s.mayWriteOwned (s.tagsOf a.who) (dsA k 0) = true ∧ w.val = 0 ∧ s.threadTags (fld v 29 26 * 8 +
      fld v 25 23) = s.ownerOf (dsA k 0) ∧ (fld v 31 30 = 3 → s.rf (dsA k 8) 19 0 < s.rf (dsA k 0xC) 19 0) → Gives
      (.decantConfigWrite a k w v) s fun t => t.rd (dsA k (4 + w * 4)) = (maskedWrite (regDesc (dsA k (4 + w * 4))) (s.rd
      (dsA k (4 + w * 4))) v) ∧ t.rd (dsA k 0x18) = setFld (s.rd (dsA k 0x18)) 15 0 0 ∧ (t.ds k).fresh = true ∧ (t.ds
      k).next = (if t.dsMode k = 1 then some (seriesNext (s.rd (dsA k 0x10)) s.now (s.rf (dsA k 8) 19 0 * 1000)) else if
      t.dsMode k = 3 ∧ (s.ds k).fired ≠ none then some (if s.dsWithin k (s.rf (dsA k 0xC) 19 0 * 1000) then s.rd (dsA k
      0x14) + wd (s.rf (dsA k 0xC) 19 0 * 1000) else s.now) else none) ∧ (t.ds k).fired = (s.ds k).fired ∧ RegsBut s t [(dsA
      k (4 + w * 4)), dsA k 0x18] ∧ Answers t .done ∧ (∀ i, i ≠ k.val → t.ds i = s.ds i) ∧
      { t with regs := s.regs, clr := s.clr, resp := s.resp } = s ∧ { t.clr with ds := s.clr.ds } = s.clr)
    ∧ (Reaches s a (dsA k 0) ∧ s.mayWriteOwned (s.tagsOf a.who) (dsA k 0) = true ∧ w.val = 1 ∧ 1 ≤ fld v 19 0 ∧ fld v 19 0 ≤
      1000000 ∧ (s.dsMode k = 3 → fld v 19 0 < s.rf (dsA k 0xC) 19 0) → Gives (.decantConfigWrite a k w v) s fun t => t.rd
      (dsA k (4 + w * 4)) = (maskedWrite (regDesc (dsA k (4 + w * 4))) (s.rd (dsA k (4 + w * 4))) v) ∧ (t.ds k).fresh =
      (s.ds k).fresh ∧ (t.ds k).next = (if s.dsMode k = 1 then some (seriesNext (s.rd (dsA k 0x10)) s.now (t.rf (dsA k 8) 19
      0 * 1000)) else if s.dsMode k = 3 ∧ (s.ds k).fired ≠ none then some (if s.dsWithin k (s.rf (dsA k 0xC) 19 0 * 1000)
      then s.rd (dsA k 0x14) + wd (s.rf (dsA k 0xC) 19 0 * 1000) else s.now) else none) ∧ (t.ds k).fired = (s.ds k).fired ∧
      RegsBut s t [(dsA k (4 + w * 4))] ∧ Answers t .done ∧ (∀ i, i ≠ k.val → t.ds i = s.ds i) ∧
      { t with regs := s.regs, clr := s.clr, resp := s.resp } = s ∧ { t.clr with ds := s.clr.ds } = s.clr)
    ∧ (Reaches s a (dsA k 0) ∧ s.mayWriteOwned (s.tagsOf a.who) (dsA k 0) = true ∧ (w.val = 2 ∧ (s.dsMode k = 3 → s.rf (dsA k
      8) 19 0 < fld v 19 0) ∨ w.val = 3) → Gives (.decantConfigWrite a k w v) s fun t => t.rd (dsA k (4 + w * 4)) =
      (maskedWrite (regDesc (dsA k (4 + w * 4))) (s.rd (dsA k (4 + w * 4))) v) ∧ (t.ds k).fresh = (s.ds k).fresh ∧ (t.ds
      k).next = (if s.dsMode k = 1 then some (seriesNext (t.rd (dsA k 0x10)) s.now (s.rf (dsA k 8) 19 0 * 1000)) else if
      s.dsMode k = 3 ∧ (s.ds k).fired ≠ none then some (if s.dsWithin k (t.rf (dsA k 0xC) 19 0 * 1000) then s.rd (dsA k
      0x14) + wd (t.rf (dsA k 0xC) 19 0 * 1000) else s.now) else none) ∧ (t.ds k).fired = (s.ds k).fired ∧ RegsBut s t [(dsA
      k (4 + w * 4))] ∧ Answers t .done ∧ (∀ i, i ≠ k.val → t.ds i = s.ds i) ∧
      { t with regs := s.regs, clr := s.clr, resp := s.resp } = s ∧ { t.clr with ds := s.clr.ds } = s.clr)
    ∧ (Reaches s a (dsA k 0) ∧ s.mayWriteOwned (s.tagsOf a.who) (dsA k 0) = true ∧ NoHart a ∧ w.val = 1 ∧ (fld v 19 0 = 0 ∨
      1000000 < fld v 19 0) → Gives (.decantConfigWrite a k w v) s fun t => Refuses s t .range)
    ∧ (Reaches s a (clA 0) ∧ Manager s a → Gives (.clrCntRst a) s fun t => (∀ i, i < 8 → t.rd (clA (0x40 + i * 4)) = 0) ∧
      RegsBut s t ((List.range 8).map (fun i => clA (0x40 + i * 4))) ∧ t.clr = { s.clr with abortSaid := false } ∧ Answers t
      .done ∧ { t with regs := s.regs, clr := s.clr, resp := s.resp } = s)
    ∧ (Reaches s a (clA 0x8000) ∧ Manager s a ∧ s.rf (clA 8) 1 0 < 2 ∧ (bit v 31 = true → rtDst (decide (0x10 ≤ fld (s.rd
      (rtStageA (s.rf (clA 8) 1 0 * 2048 + r.val) 1)) 31 24 ∧ fld (s.rd (rtStageA (s.rf (clA 8) 1 0 * 2048 + r.val) 1)) 31
      24 < 0x18)) (fld (s.rd (rtStageA (s.rf (clA 8) 1 0 * 2048 + r.val) 1)) 23 16) = true ∧ (fld (s.rd (rtStageA (s.rf (clA
      8) 1 0 * 2048 + r.val) 3)) 31 24 = 0xFF ∨ rtDst (decide (0x10 ≤ fld (s.rd (rtStageA (s.rf (clA 8) 1 0 * 2048 + r.val)
      1)) 31 24 ∧ fld (s.rd (rtStageA (s.rf (clA 8) 1 0 * 2048 + r.val) 1)) 31 24 < 0x18)) (fld (s.rd (rtStageA (s.rf (clA
      8) 1 0 * 2048 + r.val) 3)) 31 24) = true) ∧ fld (s.rd (rtStageA (s.rf (clA 8) 1 0 * 2048 + r.val) 3)) 23 16 ≠ 0 ∧ fld
      (s.rd (rtStageA (s.rf (clA 8) 1 0 * 2048 + r.val) 1)) 13 12 ≠ 3 ∧ ((0x10 ≤ fld (s.rd (rtStageA (s.rf (clA 8) 1 0 *
      2048 + r.val) 1)) 31 24 ∧ fld (s.rd (rtStageA (s.rf (clA 8) 1 0 * 2048 + r.val) 1)) 31 24 < 0x18) → fld (s.rd
      (rtStageA (s.rf (clA 8) 1 0 * 2048 + r.val) 1)) 13 12 ≠ 0)) → Gives (.routeEntryCommit a r v) s fun t => t.rd (rtA
      (s.rf (clA 8) 1 0 * 2048 + r.val) 0) = v &&& 0xDFFFFFFF ∧ t.rd (rtA (s.rf (clA 8) 1 0 * 2048 + r.val) 1) = (s.rd
      (rtStageA (s.rf (clA 8) 1 0 * 2048 + r.val) 1)) ∧ t.rd (rtA (s.rf (clA 8) 1 0 * 2048 + r.val) 2) = (s.rd (rtStageA
      (s.rf (clA 8) 1 0 * 2048 + r.val) 2)) ∧ t.rd (rtA (s.rf (clA 8) 1 0 * 2048 + r.val) 3) = (s.rd (rtStageA (s.rf (clA 8)
      1 0 * 2048 + r.val) 3)) ∧ RegsBut s t ((List.range 4).map (rtA (s.rf (clA 8) 1 0 * 2048 + r.val))) ∧ RegsOnly s t ∧
      Answers t .done)
    ∧ (Reaches s a (clA 0x8000) ∧ NoHart a ∧ Manager s a ∧ s.rf (clA 8) 1 0 < 2 ∧ bit v 31 = true ∧ fld (s.rd (rtStageA (s.rf
      (clA 8) 1 0 * 2048 + r.val) 3)) 23 16 = 0 → Gives (.routeEntryCommit a r v) s fun t => Refuses s t .range)
    ∧ (Reaches s a (clA 0x8000) ∧ Manager s a ∧ s.rf (clA 8) 1 0 = 2 ∧ fld (s.rd (nwStageA e.val)) 23 16 ≠ 0 → Gives
      (.nodeWatchCommit a e v) s fun t => t.rd (nwA e 0) = v ∧ t.rd (nwA e 1) = (s.rd (nwStageA e.val)) ∧ t.rd (nwSinceA e)
      = s.now ∧ t.rd (nwSeenA e) = 0 ∧ RegsBut s t [nwA e 0, nwA e 1, nwSinceA e, nwSeenA e] ∧ RegsOnly s t ∧ Answers t
      .done)
    ∧ (Reaches s a (clA 0x8000) ∧ NoHart a ∧ Manager s a ∧ s.rf (clA 8) 1 0 = 2 ∧ fld (s.rd (nwStageA e.val)) 23 16 = 0 →
      Gives (.nodeWatchCommit a e v) s fun t => Refuses s t .range)
    ∧ (Reaches s a (clA 0) ∧ Manager s a ∧ fld (s.rd (clA 0x14)) 15 0 ≤ fld (s.rd (clA 0x14)) 31 16 ∧ (s.rd (clA 0x18)).toNat
      % 32 = 0 ∧ 0x10000000 ≤ (s.rd (clA 0x18)).toNat ∧ (s.rd (clA 0x18)).toNat + (fld (s.rd (clA 0x14)) 31 16 + 1 - fld
      (s.rd (clA 0x14)) 15 0) * 32 ≤ 0x12000000 ∧ s.clr.snap = none → Gives (.snapGo a) s fun t => t.rd (clA 0x1C) = setBit
      (s.rd (clA 0x1C)) 8 true ∧ t.rd (clA 0x20) = s.now ∧ t.clr =
      { s.clr with snap := some { first := fld (s.rd (clA 0x14)) 15 0, last := fld (s.rd (clA 0x14)) 31 16, dst := (s.rd (clA 0x18)).toNat, done := fld (s.rd (clA 0x14)) 15 0, forPair := false } }
      ∧ RegsBut s t [clA 0x1C, clA 0x20] ∧ Answers t .done ∧ { t with regs := s.regs, clr := s.clr, resp := s.resp } = s)
    ∧ (Reaches s a (clA 0) ∧ Manager s a ∧ NoHart a ∧ fld (s.rd (clA 0x14)) 15 0 ≤ fld (s.rd (clA 0x14)) 31 16 ∧ (s.rd (clA
      0x18)).toNat % 32 = 0 ∧ 0x10000000 ≤ (s.rd (clA 0x18)).toNat ∧ (s.rd (clA 0x18)).toNat + (fld (s.rd (clA 0x14)) 31 16
      + 1 - fld (s.rd (clA 0x14)) 15 0) * 32 ≤ 0x12000000 ∧ s.clr.snap.isSome = true → Gives (.snapGo a) s fun t => Refuses
      s t .conflict)
    ∧ (Reaches s a (clA 0) ∧ Manager s a ∧ NoHart a ∧ fld (s.rd (clA 0x14)) 31 16 < fld (s.rd (clA 0x14)) 15 0 → Gives
      (.snapGo a) s fun t => Refuses s t .range)
    ∧ (Reaches s a (clA 0) ∧ Manager s a ∧ s.clr.snap = none → Gives (.snapAbort a) s fun t => Refuses s t .done)
    ∧ (Reaches s a (clA 0) ∧ Manager s a ∧ s.clr.snap = some n → Gives (.snapAbort a) s fun t => t.rd (clA 0x1C) = 0x50 ∧
      t.clr = { s.clr with snap := none, abortSaid := true, pairEnd := if n.forPair then some .aborted else s.clr.pairEnd }
      ∧ Reported s t (if s.clr.abortSaid then [] else [(0x4048, 0, 0)]) ∧ RegsBut s t [clA 0x1C] ∧ Answers t .done ∧
      { t with regs := s.regs, clr := s.clr, reports := s.reports, resp := s.resp } = s)
    ∧ (Canonical s ∧ s.logicOn = true ∧ s.accepts 4 = true → Gives (.sweeperPass us) s fun t => (∀ i ∈ List.range 65536, t.rd
      (enA i 1) = if s.rb (enA i 1) 9 = true ∧ s.enStale i = true then setBit (s.rd (enA i 1)) 8 true else s.rd (enA i 1)) ∧
      (∀ i ∈ List.range 4096, t.rf (nwA i 1) 15 14 = if s.rb (nwA i 0) 31 = true ∧ ((s.rf (nwA i 1) 15 14 = 1 ∧ (s.rf (nwA i
      1) 23 16 * 10000000) < (s.now - s.rd (nwSeenA i)).toNat) ∨ (s.rf (nwA i 1) 15 14 = 0 ∧ (s.rf (nwA i 1) 23 16 *
      10000000) ≤ (s.now - s.rd (nwSinceA i)).toNat)) then 2 else s.rf (nwA i 1) 15 14) ∧ t.rf (clA 4) 31 16 = max (s.rf
      (clA 4) 31 16) (max us 5) ∧ (∀ x, (x < cellarBase ∨ cellarBase + 0x200000 ≤ x ∨ x % 0x20 ≠ 4) → (x < cskBase ∨ cskBase
      + 0x5000 ≤ x) → (x < nwA 0 0 ∨ nwA 4096 0 ≤ x ∨ x % 8 ≠ 4) → x ≠ clA 4 → x ≠ clA 0x5C → t.rd x = s.rd x) ∧
      { t with regs := s.regs, clr := s.clr, casks := s.casks, mem := s.mem, eccBad := s.eccBad, harts := s.harts, reports := s.reports }
      = s)
    ∧ (Canonical s ∧ s.logicOn = true ∧ s.accepts 4 = true ∧ s.clr.snap = none ∧ s.nwValid = [] → Gives (.sweeperPass us) s
      fun t => (∀ i ∈ List.range 65536, t.rd (enA i 1) = if s.rb (enA i 1) 9 = true ∧ s.enStale i = true then setBit (s.rd
      (enA i 1)) 8 true else s.rd (enA i 1)) ∧ t.rf (clA 4) 31 16 = max (s.rf (clA 4) 31 16) (max us 5) ∧ (∀ x, (x <
      cellarBase ∨ cellarBase + 0x200000 ≤ x ∨ x % 0x20 ≠ 4) → x ≠ clA 4 → t.rd x = s.rd x) ∧
      { t with regs := s.regs, clr := s.clr } = s ∧ { t.clr with ds := s.clr.ds } = s.clr)
    ∧ (s.logicOn = true ∧ s.accepts 4 = true ∧ s.enValid = [] ∧ s.nwValid = [e.val] ∧ s.rb (clA 0xC) 30 = false ∧ ((s.rf (nwA
      e 1) 15 14 = 1 ∧ s.rf (nwA e 1) 23 16 * 10000000 < (s.now - s.rd (nwSeenA e)).toNat) ∨ (s.rf (nwA e 1) 15 14 = 0 ∧
      s.rf (nwA e 1) 23 16 * 10000000 ≤ (s.now - s.rd (nwSinceA e)).toNat)) → Gives (.sweeperPass us) s fun t => t.rf (nwA e
      1) 15 14 = 2 ∧ t.rf (nwA e 1) 7 0 = min (s.rf (nwA e 1) 7 0 + 1) 255 ∧ t.rf (nwA e 1) 31 16 = s.rf (nwA e 1) 31 16 ∧
      Reported s t [(0x4045, e.val, 0)] ∧ RegsBut s t [nwA e 1, clA 4] ∧
      { t with regs := s.regs, clr := s.clr, reports := s.reports } = s ∧ { t.clr with ds := s.clr.ds } = s.clr)
    ∧ (s.logicOn = true ∧ s.accepts 4 = true → Gives .sweepOverrun s fun t => t.rd (clA 4) = setBit (s.rd (clA 4)) 0 true ∧
      Reported s t [(0x4049, 0, 0)] ∧ RegsBut s t [clA 4] ∧ { t with regs := s.regs, reports := s.reports } = s)
    ∧ (s.accepts 4 = true ∧ s.dsMode k ≠ 0 ∧ (s.ds k).next = some v ∧ reached v s.now = true → Gives (.decantFire k) s fun t
      => t.rd (thA (fld (s.rd (dsA k 4)) 29 26) (fld (s.rd (dsA k 4)) 25 23) 0x10) = setBit (s.rd (thA (fld (s.rd (dsA k 4))
      29 26) (fld (s.rd (dsA k 4)) 25 23) 0x10)) (fld (s.rd (dsA k 4)) 22 20) true ∧ t.rd (dsA k 0x14) = v ∧ t.rf (dsA k
      0x18) 31 16 = (s.rf (dsA k 0x18) 31 16 + 1) % 65536 ∧ t.rf (dsA k 0x18) 15 0 = (if (s.rb (thA (fld (s.rd (dsA k 4)) 29
      26) (fld (s.rd (dsA k 4)) 25 23) 0x10) (fld (s.rd (dsA k 4)) 22 20)) then min (s.rf (dsA k 0x18) 15 0 + 1) 65535 else
      s.rf (dsA k 0x18) 15 0) ∧ (t.ds k).next = (if s.dsMode k = 1 then some (v + wd (s.rf (dsA k 8) 19 0 * 1000)) else if
      s.dsMode k = 3 then some (v + wd (s.rf (dsA k 0xC) 19 0 * 1000)) else none) ∧ (t.ds k).fired = some s.ticks ∧ Reported
      s t (if (s.rb (thA (fld (s.rd (dsA k 4)) 29 26) (fld (s.rd (dsA k 4)) 25 23) 0x10) (fld (s.rd (dsA k 4)) 22 20)) &&
      (s.ds k).fresh then [(0x404A, (fld (s.rd (dsA k 4)) 29 26) * 8 + fld (s.rd (dsA k 4)) 25 23, 0)] else []) ∧ RegsBut s
      t [thA (fld (s.rd (dsA k 4)) 29 26) (fld (s.rd (dsA k 4)) 25 23) 0x10, dsA k 0x14, dsA k 0x18] ∧ (∀ i, i ≠ k.val →
      t.ds i = s.ds i) ∧ { t with regs := s.regs, clr := s.clr, reports := s.reports } = s ∧ { t.clr with ds := s.clr.ds } =
      s.clr)
    ∧ (s.accepts 4 = true ∧ s.dsMode k ≠ 0 ∧ (s.ds k).next = some v ∧ reached v s.now = true ∧ s.rb (thA (fld (s.rd (dsA k 4))
      29 26) (fld (s.rd (dsA k 4)) 25 23) 0x10) (fld (s.rd (dsA k 4)) 22 20) = false → Gives (.decantFire k) s fun t => t.rd
      (thA (fld (s.rd (dsA k 4)) 29 26) (fld (s.rd (dsA k 4)) 25 23) 0x10) = setBit (s.rd (thA (fld (s.rd (dsA k 4)) 29 26)
      (fld (s.rd (dsA k 4)) 25 23) 0x10)) (fld (s.rd (dsA k 4)) 22 20) true ∧ t.rd (dsA k 0x14) = v ∧ t.rd (dsA k 0x18) =
      setFld (s.rd (dsA k 0x18)) 31 16 (s.rf (dsA k 0x18) 31 16 + 1) ∧ t.ds k =
      { next := if s.dsMode k = 1 then some (v + wd (s.rf (dsA k 8) 19 0 * 1000)) else if s.dsMode k = 3 then some (v + wd (s.rf (dsA k 0xC) 19 0 * 1000)) else none, fired := some s.ticks, fresh := (s.ds k).fresh }
      ∧ RegsBut s t [thA (fld (s.rd (dsA k 4)) 29 26) (fld (s.rd (dsA k 4)) 25 23) 0x10, dsA k 0x14, dsA k 0x18] ∧ (∀ i, i ≠
      k.val → t.ds i = s.ds i) ∧ { t with regs := s.regs, clr := s.clr } = s ∧ { t.clr with ds := s.clr.ds } = s.clr)
    ∧ (s.accepts 4 = true ∧ (s.txTun u).msgs = [] → Gives (.tunnelHoldExpiry u) s fun t => t = s)
    ∧ (s.accepts 4 = true ∧ (s.txTun u).msgs ≠ [] → Gives (.tunnelHoldExpiry u) s fun t => (t.txTun u).msgs = [] ∧ t.rf (clA
      (0x400 + u * 0x20 + 0x18)) 7 0 = (s.rf (clA (0x400 + u * 0x20 + 0x18)) 7 0 + 1) % 256 ∧ t.rf (clA (0x400 + u * 0x20 +
      0x18)) 31 8 = (s.rf (clA (0x400 + u * 0x20 + 0x18)) 31 8 + 1) % 16777216 ∧ t.esw.hostIn.dropLast = s.esw.hostIn ∧
      t.esw.hostIn.length = s.esw.hostIn.length + 1 ∧ (∀ f ∈ t.esw.hostIn.getLast?, f.drop (f.length - msgBytes (s.txTun
      u).msgs) = (s.txTun u).msgs.flatten) ∧ RegsBut s t [(clA (0x400 + u * 0x20 + 0x18))] ∧ (∀ i, i ≠ u.val → t.txTun i =
      s.txTun i) ∧ { t with regs := s.regs, clr := s.clr, esw := s.esw } = s ∧ { t.clr with txTun := s.clr.txTun } = s.clr ∧
      { t.esw with hostIn := s.esw.hostIn } = s.esw)
    ∧ (s.accepts 4 = true ∧ s.clr.snap = some n ∧ 5000000 ≤ (s.now - s.rd (clA 0x20)).toNat → Gives .snapCopierEscalate s fun
      t => t = { s with clr := { s.clr with snap := some { n with urgent := true } } })
    ∧ (s.accepts 4 = true ∧ s.clr.snap = some n ∧ n.first ≤ n.done ∧ (∀ p ∈ n.saved, p.2.length = 8) → Gives .snapComplete s
      fun t => (∀ i ∈ List.range 65536, n.done ≤ i → i ≤ n.last → t.ldBytes (n.dst + (i - n.first) * 32) 32 =
      (((n.saved.find? fun (p : Nat × List Word) => p.1 == i).elim (s.enWords i) Prod.snd).map fun (w : Word) => leBytes 4
      w.toNat).flatten) ∧ MemBut s t (n.dst + (n.done - n.first) * 32) ((n.last + 1 - n.done) * 32) ∧ t.rd (clA 0x1C) = 0 ∧
      t.clr = { s.clr with snap := none, pairEnd := if n.forPair then some .done else s.clr.pairEnd } ∧ StoreSide s t ∧
      RegsBut s t [clA 0x1C] ∧ { t with regs := s.regs, mem := s.mem, eccBad := s.eccBad, harts := s.harts, clr := s.clr } =
      s)
    ∧ (s.accepts 4 = true ∧ s.clr.snap = some n ∧ n.done = n.first ∧ n.saved = [] ∧ n.first ≤ n.last ∧ n.forPair = false →
      Gives .snapComplete s fun t => (∀ i, i ≤ n.last - n.first → ∀ j, j < 8 → t.ldLE (n.dst + i * 32 + j * 4) 4 = (if j = 1
      then s.rd (enA (n.first + i) 1) &&& 0xFFFFFF00 else s.rd (enA (n.first + i) j)).toNat) ∧ MemBut s t n.dst ((n.last + 1
      - n.first) * 32) ∧ t.rd (clA 0x1C) = 0 ∧ t.clr = { s.clr with snap := none } ∧ StoreSide s t ∧ RegsBut s t [clA 0x1C]
      ∧ { t with regs := s.regs, mem := s.mem, eccBad := s.eccBad, harts := s.harts, clr := s.clr } = s)

/-- The manager's writes change MODE: out of OFF the controller integrates, into OFF its activity ends, at the end of a
  frame in progress (R359, R360); CNT_RST clears the counters; control and timing take values in OFF alone, CONFLICT
  otherwise, RANGE outside their limits (R357, R359, R363); CAN_RAM empties and counts the FIFO and both queues (R364);
  RECOVER starts the recovery of a bus-off controller (R382); TMODE and filter commits take effect or answer RANGE (R356,
  R377). A slot's owner commits its frame and times, the series restarting (R371, R373). -/
def Obligations.CanControl : Prop :=
  ∀ (s : State) (a : Acc) (n : Can) (m : Fin 8) (b : Bool) (r : Fin 5) (v : Word) (e : Fin 64),
    (Reaches s a (canA n 0) ∧ Manager s a ∧ s.canMode n = 0 ∧ 1 ≤ m.val ∧ m.val ≤ 4 → Gives (.canModeSet a n m b) s fun t =>
      t.canMode n = m ∧ t.rb (canA n 0x20) 2 = true ∧ t.can n =
      { s.can n with offDue := false, holSaid := (s.can n).holSaid && !b, dropSaid := (s.can n).dropSaid && !b } ∧ (∀ i ∈
      List.range 32, 3 ≤ i → i ≠ 31 → t.rb (canA n 0) i = s.rb (canA n 0) i) ∧ (∀ i ∈ List.range 32, i ∉ ([2] : List Nat) →
      t.rb (canA n 0x20) i = s.rb (canA n 0x20) i) ∧ (b = true → ∀ i, i < 8 → t.rd (canA n (0x80 + i * 4)) = 0) ∧ RegsBut s
      t ([(canA n 0), canA n 0x20] ++ (if b then (List.range 8).map (fun i => canA n (0x80 + i * 4)) else [])) ∧ CansBut s t
      n ∧ t.reports = s.reports ∧ Answers t .done)
    ∧ (Reaches s a (canA n 0) ∧ Manager s a ∧ s.canMode n ≠ 0 ∧ 1 ≤ m.val ∧ m.val ≤ 4 → Gives (.canModeSet a n m b) s fun t =>
      t.canMode n = m ∧ t.can n =
      { s.can n with offDue := false, holSaid := (s.can n).holSaid && !b, dropSaid := (s.can n).dropSaid && !b } ∧ (∀ i ∈
      List.range 32, 3 ≤ i → i ≠ 31 → t.rb (canA n 0) i = s.rb (canA n 0) i) ∧ (b = true → ∀ i, i < 8 → t.rd (canA n (0x80 +
      i * 4)) = 0) ∧ RegsBut s t ([(canA n 0)] ++ (if b then (List.range 8).map (fun i => canA n (0x80 + i * 4)) else [])) ∧
      CansBut s t n ∧ t.reports = s.reports ∧ Answers t .done)
    ∧ (Reaches s a (canA n 0) ∧ Manager s a ∧ m.val = 0 ∧ s.canMode n ≠ 0 ∧ ((s.can n).inFrame = none ∨ s.canEst n = 2) →
      Gives (.canModeSet a n m b) s fun t => t.canMode n = 0 ∧ t.rf (canA n 0x20) 3 2 = 0 ∧ t.can n =
      { s.can n with sending := none, inFrame := none, offDue := false, recovering := false, holSaid := (s.can n).holSaid && !b, dropSaid := (s.can n).dropSaid && !b }
      ∧ (∀ i ∈ List.range 32, 3 ≤ i → i ≠ 31 → t.rb (canA n 0) i = s.rb (canA n 0) i) ∧ (∀ i ∈ List.range 32, i ∉ ([2, 3] :
      List Nat) → t.rb (canA n 0x20) i = s.rb (canA n 0x20) i) ∧ (b = true → ∀ i, i < 8 → t.rd (canA n (0x80 + i * 4)) = 0)
      ∧ RegsBut s t ([(canA n 0), canA n 0x20] ++ (if b then (List.range 8).map (fun i => canA n (0x80 + i * 4)) else [])) ∧
      CansBut s t n ∧ t.reports = s.reports ∧ Answers t .done)
    ∧ (Reaches s a (canA n 0) ∧ Manager s a ∧ m.val = 0 ∧ s.canMode n ≠ 0 ∧ (s.can n).inFrame ≠ none ∧ s.canEst n ≠ 2 → Gives
      (.canModeSet a n m b) s fun t => t.can n =
      { s.can n with offDue := true, holSaid := (s.can n).holSaid && !b, dropSaid := (s.can n).dropSaid && !b } ∧ t.canMode
      n = s.canMode n ∧ (∀ i ∈ List.range 32, 3 ≤ i → i ≠ 31 → t.rb (canA n 0) i = s.rb (canA n 0) i) ∧ (b = true → ∀ i, i <
      8 → t.rd (canA n (0x80 + i * 4)) = 0) ∧ RegsBut s t ([(canA n 0)] ++ (if b then (List.range 8).map (fun i => canA n
      (0x80 + i * 4)) else [])) ∧ CansBut s t n ∧ t.reports = s.reports ∧ Answers t .done)
    ∧ (Reaches s a (canA n 0) ∧ Manager s a ∧ m.val = 0 ∧ s.canMode n = 0 → Gives (.canModeSet a n m b) s fun t => t.can n =
      { s.can n with holSaid := (s.can n).holSaid && !b, dropSaid := (s.can n).dropSaid && !b } ∧ t.canMode n = 0 ∧ (∀ i ∈
      List.range 32, 3 ≤ i → i ≠ 31 → t.rb (canA n 0) i = s.rb (canA n 0) i) ∧ (b = true → ∀ i, i < 8 → t.rd (canA n (0x80 +
      i * 4)) = 0) ∧ RegsBut s t ([(canA n 0)] ++ (if b then (List.range 8).map (fun i => canA n (0x80 + i * 4)) else [])) ∧
      CansBut s t n ∧ t.reports = s.reports ∧ Answers t .done)
    ∧ (Reaches s a (canA n 0) ∧ Manager s a ∧ NoHart a ∧ s.canMode n < 5 ∧ 5 ≤ m.val → Gives (.canModeSet a n m b) s fun t =>
      Refuses s t .range)
    ∧ (Reaches s a (canA n 0) ∧ Manager s a → Gives (.canCntRst a n) s fun t => (∀ i, i < 8 → t.rd (canA n (0x80 + i * 4)) =
      0) ∧ (t.can n).holSaid = false ∧ (t.can n).dropSaid = false ∧
      { t.can n with holSaid := (s.can n).holSaid, dropSaid := (s.can n).dropSaid, offDue := (s.can n).offDue } = s.can n ∧
      RegsBut s t ((List.range 8).map (fun i => canA n (0x80 + i * 4)) ++ [(canA n 0)]) ∧ t.canMode n = s.canMode n ∧
      CansBut s t n ∧ t.reports = s.reports ∧ Answers t .done)
    ∧ (Reaches s a (canA n 0) ∧ Manager s a ∧ (r.val = 1 ∧ fld v 6 0 ≤ fld v 14 8 ∧ fld v 23 16 ≠ 0 ∨ (r.val = 2 ∨ r.val = 3)
      ∧ fld v 6 0 ≤ fld v 14 8 ∧ fld v 31 24 < 32 ∧ fld v 23 16 < 64 ∧ fld v 14 8 < 16 ∨ r.val = 4) ∧ s.canMode n = 0 →
      Gives (.canConfigWrite a n r v) s fun t => Writes s t (canA n (r * 4)) v)
    ∧ (Reaches s a (canA n 0) ∧ Manager s a ∧ NoHart a ∧ (r.val = 1 ∧ fld v 6 0 ≤ fld v 14 8 ∧ fld v 23 16 ≠ 0 ∨ (r.val = 2 ∨
      r.val = 3) ∧ fld v 6 0 ≤ fld v 14 8 ∧ fld v 31 24 < 32 ∧ fld v 23 16 < 64 ∧ fld v 14 8 < 16 ∨ r.val = 4) ∧ s.canMode n
      ≠ 0 → Gives (.canConfigWrite a n r v) s fun t => Refuses s t .conflict)
    ∧ (Reaches s a (canA n 0) ∧ Manager s a ∧ NoHart a ∧ (r.val = 1 ∨ r.val = 2 ∨ r.val = 3) ∧ fld v 14 8 < fld v 6 0 → Gives
      (.canConfigWrite a n r v) s fun t => Refuses s t .range)
    ∧ (Reaches s a (canA n 0) ∧ Manager s a ∧ r.val = 0 ∧ fld v 2 0 ≤ 4 ∧ ¬ (bit v 7 = true ∧ bit v 8 = false) ∧ ¬ (bit v 8 =
      true ∧ (bit v 4 = true ∨ bit v 5 = false)) ∧ (s.canMode n = 0 ∨ (s.rd (canA n 0) ^^^ v) &&& 0x3F0 = 0) → Gives
      (.canConfigWrite a n r v) s fun t => t.rd (canA n 0) &&& 0x3F0 = v &&& 0x3F0 ∧ t.canMode n = (if fld v 2 0 = 0 ∧
      s.canMode n ≠ 0 ∧ (s.can n).inFrame ≠ none ∧ s.canEst n ≠ 2 then s.canMode n else fld v 2 0) ∧ (bit v 31 = true → ∀ i,
      i < 8 → t.rd (canA n (0x80 + i * 4)) = 0) ∧ RegsBut s t ([(canA n 0), canA n 0x20] ++ if bit v 31 then (List.range
      8).map (fun i => canA n (0x80 + i * 4)) else []) ∧ (t.can n).txf = (s.can n).txf ∧ (t.can n).q0 = (s.can n).q0 ∧
      (t.can n).q1 = (s.can n).q1 ∧ (t.can n).tat = (s.can n).tat ∧ CansBut s t n ∧ t.reports = s.reports ∧ Answers t .done)
    ∧ (Reaches s a (canA n 0) ∧ Manager s a ∧ NoHart a ∧ r.val = 0 ∧ fld v 2 0 ≤ 4 ∧ ¬ (bit v 7 = true ∧ bit v 8 = false) ∧ ¬
      (bit v 8 = true ∧ (bit v 4 = true ∨ bit v 5 = false)) ∧ s.canMode n ≠ 0 ∧ (s.rd (canA n 0) ^^^ v) &&& 0x3F0 ≠ 0 →
      Gives (.canConfigWrite a n r v) s fun t => Refuses s t .conflict)
    ∧ (Reaches s a (canA n 0) ∧ Manager s a ∧ 1 ≤ fld v 5 0 ∧ fld v 5 0 ≤ 62 ∧ 1 ≤ fld v 13 8 ∧ fld v 13 8 ≤ 62 ∧ 1 ≤ fld v 21
      16 ∧ fld v 21 16 ≤ 62 ∧ fld v 5 0 + fld v 13 8 + fld v 21 16 ≤ 64 ∧ s.canMode n = 0 → Gives (.canRamWrite a n v) s fun
      t => t.rd (canA n 0x18) = maskedWrite (regDesc (canA n 0x18)) (s.rd (canA n 0x18)) v ∧ t.can n =
      { s.can n with txf := [], q0 := [], q1 := [] } ∧ (t.rd (canA n 0x90)).toNat = min ((s.rd (canA n 0x90)).toNat + (s.can
      n).txf.length) (2 ^ 32 - 1) ∧ (t.rd (canA n 0x88)).toNat = min ((s.rd (canA n 0x88)).toNat + (s.can n).q0.length) (2 ^
      32 - 1) ∧ (t.rd (canA n 0x8C)).toNat = min ((s.rd (canA n 0x8C)).toNat + (s.can n).q1.length) (2 ^ 32 - 1) ∧ RegsBut s
      t [canA n 0x18, canA n 0x90, canA n 0x88, canA n 0x8C] ∧ CansBut s t n ∧ t.reports = s.reports ∧ Answers t .done)
    ∧ (Reaches s a (canA n 0) ∧ Manager s a ∧ NoHart a ∧ (fld v 5 0 = 0 ∨ 64 < fld v 5 0 + fld v 13 8 + fld v 21 16) → Gives
      (.canRamWrite a n v) s fun t => Refuses s t .range)
    ∧ (Reaches s a (canA n 0) ∧ Manager s a ∧ NoHart a ∧ 1 ≤ fld v 5 0 ∧ fld v 5 0 ≤ 62 ∧ 1 ≤ fld v 13 8 ∧ fld v 13 8 ≤ 62 ∧ 1
      ≤ fld v 21 16 ∧ fld v 21 16 ≤ 62 ∧ fld v 5 0 + fld v 13 8 + fld v 21 16 ≤ 64 ∧ s.canMode n ≠ 0 → Gives (.canRamWrite a
      n v) s fun t => Refuses s t .conflict)
    ∧ (Reaches s a (canA n 0) ∧ Manager s a ∧ s.canEst n = 2 → Gives (.canRecover a n) s fun t => t.rf (canA n 0x20) 31 28 = 0
      ∧ t.canEst n = 2 ∧ (t.can n) = { s.can n with recovering := true } ∧ RegsBut s t [canA n 0x1C, canA n 0x20] ∧ t.rf
      (canA n 0x1C) 28 0 = s.rf (canA n 0x1C) 28 0 ∧ t.rf (canA n 0x1C) 31 30 = s.rf (canA n 0x1C) 31 30 ∧ CansBut s t n ∧
      t.reports = s.reports ∧ Answers t .done)
    ∧ (Reaches s a (canA n 0) ∧ Manager s a ∧ s.canEst n ≠ 2 → Gives (.canRecover a n) s fun t => RegsBut s t [canA n 0x1C] ∧
      t.rf (canA n 0x1C) 28 0 = s.rf (canA n 0x1C) 28 0 ∧ t.rf (canA n 0x1C) 31 30 = s.rf (canA n 0x1C) 31 30 ∧ RegsOnly s t
      ∧ Answers t .done)
    ∧ (Reaches s a (canA n 0) ∧ Manager s a ∧ m.val < 4 → Gives (.canTmodeWrite a n m) s fun t => Writes s t (canA n 0x34) (wd
      m))
    ∧ (Reaches s a (canA n 0) ∧ Manager s a ∧ NoHart a ∧ 4 ≤ m.val → Gives (.canTmodeWrite a n m) s fun t => Refuses s t
      .range)
    ∧ (Reaches s a (canA n 0) ∧ Manager s a ∧ fld (s.rd (stageA (fltA n e 1))) 31 30 ≠ 3 → Gives (.canFilterCommit a n e v) s
      fun t => t.rd (fltA n e 0) = v &&& 0xDFFFFFFF ∧ t.rd (fltA n e 1) = (s.rd (stageA (fltA n e 1))) ∧ t.rd (fltA n e 2) =
      s.rd (stageA (fltA n e 2)) ∧ RegsBut s t [fltA n e 0, fltA n e 1, fltA n e 2] ∧ RegsOnly s t ∧ Answers t .done)
    ∧ (Reaches s a (canA n 0) ∧ Manager s a ∧ NoHart a ∧ fld (s.rd (stageA (fltA n e 1))) 31 30 = 3 → Gives (.canFilterCommit
      a n e v) s fun t => Refuses s t .range)
    ∧ (Reaches s a (canA n 0) ∧ s.mayWriteOwned (s.tagsOf a.who) (tatA n m 0) = true ∧ (bit v 31 = true ∧ fdLen (s.rf (tatA n
      m 0x1C) 6 0) = true ∨ bit v 31 = false ∧ (s.rf (tatA n m 0x1C) 6 0) ≤ 8) ∧ (s.rb (tatA n m 4) 29 = true → s.tatClash n
      m v = false) → Gives (.tatCommit a n m v) s fun t => t.rd (tatA n m 0x20) = v ∧ t.rd (tatA n m 0x18) = s.now ∧ t.tat n
      m = { s.tat n m with data := s.tatStaged n m, date := s.ticks } ∧ OnlySlot s t n m ∧ RegsBut s t [tatA n m 0x20, tatA
      n m 0x18] ∧ CansBut s t n ∧ t.reports = s.reports ∧ Answers t .done)
    ∧ (Reaches s a (canA n 0) ∧ s.mayWriteOwned (s.tagsOf a.who) (tatA n m 0) = true ∧ NoHart a ∧ bit v 31 = false ∧ 8 < (s.rf
      (tatA n m 0x1C) 6 0) → Gives (.tatCommit a n m v) s fun t => Refuses s t .range)
    ∧ (Reaches s a (canA n 0) ∧ s.mayWriteOwned (s.tagsOf a.who) (tatA n m 0) = true ∧ b = false → Gives (.tatTimeWrite a n m
      b v) s fun t => t.rd (tatA n m 8) = maskedWrite (regDesc (tatA n m 8)) (s.rd (tatA n m 8)) v ∧ (t.tat n m).next = (if
      bit (s.rd (tatA n m 4)) 31 = false then none else if future v s.now = true then some v else if bit (s.rd (tatA n m 4))
      30 = true ∧ (s.rd (tatA n m 0xC)).toNat ≠ 0 then some (seriesNext v s.now ((s.rd (tatA n m 0xC)).toNat * 1000)) else
      none) ∧ { t.tat n m with next := (s.tat n m).next, due := (s.tat n m).due } = s.tat n m ∧ (t.tat n m).due = (if bit
      (s.rd (tatA n m 4)) 31 = true then (s.tat n m).due else none) ∧ OnlySlot s t n m ∧ RegsBut s t [tatA n m 8] ∧ CansBut
      s t n ∧ t.reports = s.reports ∧ Answers t .done)
    ∧ (Reaches s a (canA n 0) ∧ s.mayWriteOwned (s.tagsOf a.who) (tatA n m 0) = true ∧ b = true ∧ 100 ≤ v.toNat ∧ v.toNat ≤
      2000000 → Gives (.tatTimeWrite a n m b v) s fun t => t.rd (tatA n m 0xC) = maskedWrite (regDesc (tatA n m 0xC)) (s.rd
      (tatA n m 0xC)) v ∧ (t.tat n m).next = (if bit (s.rd (tatA n m 4)) 31 = false then none else if future (s.rd (tatA n m
      8)) s.now = true then some (s.rd (tatA n m 8)) else if bit (s.rd (tatA n m 4)) 30 = true ∧ v.toNat ≠ 0 then some
      (seriesNext (s.rd (tatA n m 8)) s.now (v.toNat * 1000)) else none) ∧
      { t.tat n m with next := (s.tat n m).next, due := (s.tat n m).due } = s.tat n m ∧ OnlySlot s t n m ∧ RegsBut s t [tatA
      n m 0xC] ∧ CansBut s t n ∧ t.reports = s.reports ∧ Answers t .done)
    ∧ (Reaches s a (canA n 0) ∧ s.mayWriteOwned (s.tagsOf a.who) (tatA n m 0) = true ∧ NoHart a ∧ b = true ∧ (v.toNat < 100 ∨
      2000000 < v.toNat) → Gives (.tatTimeWrite a n m b v) s fun t => Refuses s t .range)

/-- An arbitration offers the lowest due slot, else the FIFO head (R367, R374); a lost one keeps the frame, or discards and
  counts it under DAR or beyond HOL_LIM, with fault 0x5005 (R368, R369). A frame sent leaves the FIFO or the slot and is
  counted; one received goes to the queue that the filters name, is rejected, or is dropped whole and counted with fault
  0x5004 (R376, R378). Errors count and move TEC and REC, to BUS_OFF beyond 255 with fault 0x5002, and recovery returns both
  to 0 or has ended at BO_MAX with 0x5003 (R379, R380, R381). A slot falls due, is missed with 0x5008, or found too old with
  0x5009 (R373, R374, R375); transceiver faults latch with 0x5007 (R356). -/
def Obligations.CanBus : Prop :=
  ∀ (s : State) (n : Can) (k : Fin 8) (f : Frame) (x : Sending) (i : Fin 7) (c : Fin 3) (l m : Bool) (at_ : Word),
    (s.logicOn = true ∧ s.accepts 7 = true ∧ s.canMode n ≠ 0 ∧ s.rb (canA n 0x20) 2 = false ∧ s.canEst n ≠ 2 ∧ s.canMaySend
      n = false → Gives (.canArbitrationStart n) s fun t => t.can n = { s.can n with inFrame := some s.now } ∧ RegsBut s t
      [] ∧ CansBut s t n ∧ t.resp = s.resp ∧ t.reports = s.reports)
    ∧ (s.logicOn = true ∧ s.accepts 7 = true ∧ s.canMode n ≠ 0 ∧ s.rb (canA n 0x20) 2 = false ∧ s.canEst n ≠ 2 ∧ s.canMaySend
      n = true ∧ (∀ j, j < k.val → (s.tat n j).due = none) ∧ (s.tat n k).due = some at_ → Gives (.canArbitrationStart n) s
      fun t => t.tat n k = { s.tat n k with onBus := some at_ } ∧ (∀ j, j ≠ k.val → t.tat n j = s.tat n j) ∧ t.can n =
      { s.can n with sending := some (.slot k, s.tatFrame n k), inFrame := some s.now, tat := (t.can n).tat } ∧ t.rd (tatA n
      k 0x14) = s.now ∧ RegsBut s t [tatA n k 0x14] ∧ CansBut s t n ∧ t.resp = s.resp ∧ t.reports = s.reports)
    ∧ (s.logicOn = true ∧ s.accepts 7 = true ∧ s.canMode n ≠ 0 ∧ s.rb (canA n 0x20) 2 = false ∧ s.canEst n ≠ 2 ∧ s.canMaySend
      n = true ∧ (∀ j, j < 8 → (s.tat n j).due = none) → Gives (.canArbitrationStart n) s fun t => t.can n =
      { s.can n with txf := ((s.can n).txf.dropWhile s.txStale), sending := (((s.can n).txf.dropWhile s.txStale)).head?.map (fun x => (.head, x.f)), inFrame := some s.now, headSince := if s.txStale ((s.can n).txf.headD ⟨{}, none, 0⟩) then s.ticks else (s.can n).headSince }
      ∧ RegsBut s t [clA 0x4C] ∧ CansBut s t n ∧ t.resp = s.resp)
    ∧ ((s.can n).sending = some (x, f) ∧ s.rb (canA n 0) 9 = false ∧ ¬ (x = .head ∧ s.rf (canA n 0x1C) 7 0 ≠ 0 ∧ s.rf (canA n
      0x1C) 7 0 * 500000 < s.ticks - (s.can n).headSince) → Gives (.canArbitrationLost n) s fun t => t.can n =
      { s.can n with sending := none } ∧ RegsBut s t [] ∧ CansBut s t n ∧ t.resp = s.resp ∧ t.reports = s.reports)
    ∧ ((s.can n).sending = some (x, f) ∧ s.rb (canA n 0) 9 = true ∧ x = .head → Gives (.canArbitrationLost n) s fun t => t.can
      n = { s.can n with sending := none, txf := (s.can n).txf.drop 1, headSince := s.ticks } ∧ Counts s t (canA n 0x90) ∧
      t.rd (canA n 0x38) = setBit (s.rd (canA n 0x38)) 5 true ∧ RegsBut s t [canA n 0x90, (canA n 0x38)] ∧ CansBut s t n ∧
      t.resp = s.resp ∧ t.reports = s.reports)
    ∧ ((s.can n).sending = some (x, f) ∧ s.rb (canA n 0) 9 = true ∧ x = .slot k → Gives (.canArbitrationLost n) s fun t =>
      t.tat n k =
      { s.tat n k with due := if (s.tat n k).due = (s.tat n k).onBus then none else (s.tat n k).due, onBus := none } ∧ (∀ j,
      j ≠ k.val → t.tat n j = s.tat n j) ∧ { t.can n with tat := (s.can n).tat, sending := (s.can n).sending } = s.can n ∧
      (t.can n).sending = none ∧ Counts s t (canA n 0x90) ∧ t.rd (canA n 0x38) = setBit (s.rd (canA n 0x38)) 5 true ∧
      RegsBut s t [canA n 0x90, (canA n 0x38)] ∧ CansBut s t n ∧ t.resp = s.resp ∧ t.reports = s.reports)
    ∧ ((s.can n).sending = some (x, f) ∧ s.rb (canA n 0) 9 = false ∧ (x = .head ∧ s.rf (canA n 0x1C) 7 0 ≠ 0 ∧ s.rf (canA n
      0x1C) 7 0 * 500000 < s.ticks - (s.can n).headSince) → Gives (.canArbitrationLost n) s fun t => t.can n =
      { s.can n with sending := none, txf := (s.can n).txf.drop 1, headSince := s.ticks, holSaid := true } ∧ Reported s t
      (if (s.can n).holSaid then [] else [(0x5005, n.val, 0)]) ∧ Counts s t (canA n 0x90) ∧ t.rd (canA n 0x38) = setBit
      (s.rd (canA n 0x38)) 5 true ∧ RegsBut s t [canA n 0x90, (canA n 0x38)] ∧ CansBut s t n ∧ t.resp = s.resp)
    ∧ ((s.can n).sending = none → Gives (.canArbitrationLost n) s fun t => t = s)
    ∧ ((s.can n).sending = some (x, f) ∧ (s.canMode n = 4 ∨ (s.rf (canA n 0x34) 10 8 = 0 ∧ (s.canTmode n = 1 ∨ s.canTmode n =
      2))) → Gives (.canFrameSent n) s fun t => (t.can n).sending = none ∧ (t.can n).lastSent = some f ∧ Counts s t (canA n
      0x84) ∧ t.rf (canA n 0x20) 24 16 = s.rf (canA n 0x20) 24 16 - 1 ∧ t.rf (canA n 0x20) 15 8 = s.rf (canA n 0x20) 15 8 ∧
      t.rf (canA n 0x20) 31 28 = 0 ∧ t.canEst n = (if 255 < (s.rf (canA n 0x20) 24 16 - 1) then 2 else if 127 < (s.rf (canA
      n 0x20) 24 16 - 1) ∨ 127 < s.rf (canA n 0x20) 15 8 then 1 else 0) ∧ (x = .slot k → t.rf (tatA n k 0x10) 7 0 = (s.rf
      (tatA n k 0x10) 7 0 + 1) % 256) ∧ (s.canMode n ≠ 4 → (∀ x, (x < canA n 0 ∨ canA n 0x1000 ≤ x) → t.rd x = s.rd x) ∧
      CansBut s t n ∧ t.resp = s.resp ∧ (x = .head → (t.can n).txf = (s.can n).txf.drop 1 ∨ 256 < s.rf (canA n 0x20) 24 16)
      ∧ (x = .slot k → t.tat n k =
      { s.tat n k with due := if (s.tat n k).due = (s.tat n k).onBus then none else (s.tat n k).due, onBus := none } ∧ (∀ j,
      j ≠ k.val → t.tat n j = s.tat n j))))
    ∧ ((s.can n).sending = some (x, f) ∧ s.canEst n = 0 ∧ s.rf (canA n 0x20) 24 16 < 88 ∧ s.rf (canA n 0x20) 15 8 < 88 ∧
      (s.can n).offDue = false ∧ (s.canMode n = 4 ∨ (s.rf (canA n 0x34) 10 8 = 0 ∧ (s.canTmode n = 1 ∨ s.canTmode n = 2))) ∧
      s.canMode n ≠ 4 ∧ x = .head → Gives (.canFrameSent n) s fun t => t.can n =
      { s.can n with sending := none, inFrame := none, flagTx := true, lastSent := some f, txf := (s.can n).txf.drop 1, headSince := s.ticks }
      ∧ Counts s t (canA n 0x84) ∧ t.rf (canA n 0x20) 24 16 = s.rf (canA n 0x20) 24 16 - 1 ∧ t.rf (canA n 0x20) 31 28 = 0 ∧
      t.rf (canA n 0x20) 15 0 = s.rf (canA n 0x20) 15 0 ∧ RegsBut s t [canA n 0x84, (canA n 0x20)] ∧ CansBut s t n ∧ t.resp
      = s.resp ∧ t.reports = s.reports)
    ∧ (s.logicOn = true ∧ s.accepts 7 = true ∧ s.canMode n ≠ 0 ∧ s.rb (canA n 0x20) 2 = false ∧ s.canEst n ≠ 2 ∧ s.canKind n f
      = true ∧ (s.can n).sending = none ∧ s.canTmode n ≠ 0 → Gives (.canFrameReceive n f) s fun t => Counts s t (canA n
      0x80) ∧ t.rf (canA n 0x20) 24 16 = s.rf (canA n 0x20) 24 16 ∧ (if s.canMode n = 2 then t.rf (canA n 0x20) 15 8 = s.rf
      (canA n 0x20) 15 8 else if 127 < s.rf (canA n 0x20) 15 8 then 119 ≤ t.rf (canA n 0x20) 15 8 ∧ t.rf (canA n 0x20) 15 8
      ≤ 127 else t.rf (canA n 0x20) 15 8 = s.rf (canA n 0x20) 15 8 - 1) ∧ (s.rb (clA 0) 0 = false → (s.fltAction n
      { f with sub := 0, tsValid := true, ingress := 0, linClassic := false } = 0 → (if recordsSize (s.can n).q0 +
      recordSize f ≤ s.q0Cap n then (t.can n).q0 = (s.can n).q0 ++
      [{ f with sub := 0, tsValid := true, ingress := 0, linClassic := false }] else (t.can n).q0 = (s.can n).q0 ∧ Counts s
      t (canA n 0x88) ∧ t.rb (canA n 0x38) 4 = true) ∧ (t.can n).q1 = (s.can n).q1) ∧ (s.fltAction n
      { f with sub := 0, tsValid := true, ingress := 0, linClassic := false } = 1 → (if recordsSize (s.can n).q1 +
      recordSize f ≤ s.q1Cap n then (t.can n).q1 = (s.can n).q1 ++
      [{ f with sub := 0, tsValid := true, ingress := 0, linClassic := false }] else (t.can n).q1 = (s.can n).q1 ∧ Counts s
      t (canA n 0x8C) ∧ t.rb (canA n 0x38) 4 = true) ∧ (t.can n).q0 = (s.can n).q0) ∧ (2 ≤ s.fltAction n
      { f with sub := 0, tsValid := true, ingress := 0, linClassic := false } → (t.can n).q0 = (s.can n).q0 ∧ (t.can n).q1 =
      (s.can n).q1) ∧ (s.rb (clA 0xC) 31 = false → (∀ x, (x < canA n 0 ∨ canA n 0x1000 ≤ x) → t.rd x = s.rd x) ∧ (∀ m, m ≠
      n.val → t.can m = s.can m) ∧ { t with regs := s.regs, cans := s.cans, reports := s.reports, free := s.free } = s)))
    ∧ (s.logicOn = true ∧ s.accepts 7 = true ∧ s.canMode n ≠ 0 ∧ s.rb (canA n 0x20) 2 = false ∧ s.canEst n = 0 ∧ s.rf (canA n
      0x20) 24 16 < 88 ∧ s.rf (canA n 0x20) 15 8 < 88 ∧ (s.can n).offDue = false ∧ s.canKind n f = true ∧ (s.can n).sending
      = none ∧ s.canTmode n ≠ 0 ∧ s.canMode n ≠ 2 ∧ s.rb (clA 0xC) 31 = false ∧ s.rb (clA 0) 0 = false ∧ s.fltAction n
      { f with sub := 0, tsValid := true, ingress := 0, linClassic := false } = 0 ∧ recordsSize (s.can n).q0 + recordSize f
      ≤ s.q0Cap n → Gives (.canFrameReceive n f) s fun t => t.can n =
      { s.can n with q0 := (s.can n).q0 ++ [{ f with sub := 0, tsValid := true, ingress := 0, linClassic := false }], inFrame := none, flagTx := false }
      ∧ Counts s t (canA n 0x80) ∧ t.rf (canA n 0x20) 15 8 = s.rf (canA n 0x20) 15 8 - 1 ∧ (∀ j ∈ List.range 32, j ∉ ([8, 9,
      10, 11, 12, 13, 14, 15] : List Nat) → t.rb (canA n 0x20) j = s.rb (canA n 0x20) j) ∧ RegsBut s t [canA n 0x80, (canA n
      0x20)] ∧ CansBut s t n ∧ t.resp = s.resp ∧ t.reports = s.reports)
    ∧ (s.logicOn = true ∧ s.accepts 7 = true ∧ s.canMode n ≠ 0 ∧ s.rb (canA n 0x20) 2 = false ∧ s.canEst n = 0 ∧ s.rf (canA n
      0x20) 24 16 < 88 ∧ s.rf (canA n 0x20) 15 8 < 88 ∧ (s.can n).offDue = false ∧ s.canKind n f = true ∧ (s.can n).sending
      = none ∧ s.canTmode n ≠ 0 ∧ s.canMode n ≠ 2 ∧ s.rb (clA 0xC) 31 = false ∧ s.rb (clA 0) 0 = false ∧ s.fltAction n
      { f with sub := 0, tsValid := true, ingress := 0, linClassic := false } = 1 ∧ recordsSize (s.can n).q1 + recordSize f
      ≤ s.q1Cap n → Gives (.canFrameReceive n f) s fun t => t.can n =
      { s.can n with q1 := (s.can n).q1 ++ [{ f with sub := 0, tsValid := true, ingress := 0, linClassic := false }], inFrame := none, flagTx := false }
      ∧ Counts s t (canA n 0x80) ∧ t.rf (canA n 0x20) 15 8 = s.rf (canA n 0x20) 15 8 - 1 ∧ (∀ j ∈ List.range 32, j ∉ ([8, 9,
      10, 11, 12, 13, 14, 15] : List Nat) → t.rb (canA n 0x20) j = s.rb (canA n 0x20) j) ∧ RegsBut s t [canA n 0x80, (canA n
      0x20)] ∧ CansBut s t n ∧ t.resp = s.resp ∧ t.reports = s.reports)
    ∧ (s.logicOn = true ∧ s.accepts 7 = true ∧ s.canMode n ≠ 0 ∧ s.rb (canA n 0x20) 2 = false ∧ s.canEst n = 0 ∧ s.rf (canA n
      0x20) 24 16 < 88 ∧ s.rf (canA n 0x20) 15 8 < 88 ∧ (s.can n).offDue = false ∧ s.canKind n f = true ∧ (s.can n).sending
      = none ∧ s.canTmode n ≠ 0 ∧ s.canMode n ≠ 2 ∧ s.rb (clA 0xC) 31 = false ∧ s.rb (clA 0) 0 = false ∧ s.fltAction n
      { f with sub := 0, tsValid := true, ingress := 0, linClassic := false } = 2 → Gives (.canFrameReceive n f) s fun t =>
      t.can n = { s.can n with inFrame := none, flagTx := false } ∧ Counts s t (canA n 0x80) ∧ t.rf (canA n 0x20) 15 8 =
      s.rf (canA n 0x20) 15 8 - 1 ∧ (∀ j ∈ List.range 32, j ∉ ([8, 9, 10, 11, 12, 13, 14, 15] : List Nat) → t.rb (canA n
      0x20) j = s.rb (canA n 0x20) j) ∧ RegsBut s t [canA n 0x80, (canA n 0x20)] ∧ CansBut s t n ∧ t.resp = s.resp ∧
      t.reports = s.reports)
    ∧ (s.logicOn = true ∧ s.accepts 7 = true ∧ s.canMode n ≠ 0 ∧ s.rb (canA n 0x20) 2 = false ∧ s.canEst n = 0 ∧ s.rf (canA n
      0x20) 24 16 < 88 ∧ s.rf (canA n 0x20) 15 8 < 88 ∧ (s.can n).offDue = false ∧ s.canKind n f = true ∧ (s.can n).sending
      = none ∧ s.canTmode n ≠ 0 ∧ s.canMode n ≠ 2 ∧ s.rb (clA 0xC) 31 = false ∧ s.rb (clA 0) 0 = false ∧ s.fltAction n
      { f with sub := 0, tsValid := true, ingress := 0, linClassic := false } = 0 ∧ s.q0Cap n < recordsSize (s.can n).q0 +
      recordSize f → Gives (.canFrameReceive n f) s fun t => t.can n =
      { s.can n with dropSaid := true, inFrame := none, flagTx := false } ∧ Counts s t (canA n 0x88) ∧ t.rd (canA n 0x38) =
      setBit (s.rd (canA n 0x38)) 4 true ∧ Reported s t (if (s.can n).dropSaid then [] else [(0x5004, n.val, 0)]) ∧ Counts s
      t (canA n 0x80) ∧ t.rf (canA n 0x20) 15 8 = s.rf (canA n 0x20) 15 8 - 1 ∧ (∀ j ∈ List.range 32, j ∉ ([8, 9, 10, 11,
      12, 13, 14, 15] : List Nat) → t.rb (canA n 0x20) j = s.rb (canA n 0x20) j) ∧ RegsBut s t [canA n 0x80, canA n 0x88,
      (canA n 0x38), (canA n 0x20)] ∧ CansBut s t n ∧ t.resp = s.resp)
    ∧ (s.logicOn = true ∧ s.accepts 7 = true ∧ s.canMode n ≠ 0 ∧ s.rb (canA n 0x20) 2 = false ∧ s.canEst n ≠ 2 ∧ i.val ≠ 0 →
      Gives (.canBusError n i l m) s fun t => Counts s t (canA n 0x94) ∧ t.rf (canA n 0x20) 6 4 = i ∧ (t.can n).sending =
      none ∧ (if s.canMode n = 2 ∨ (((s.can n).sending ≠ none ∨ (l = true ∧ (s.can n).flagTx = true)) ∧ m = true) then t.rf
      (canA n 0x20) 24 16 = s.rf (canA n 0x20) 24 16 ∧ t.rf (canA n 0x20) 15 8 = s.rf (canA n 0x20) 15 8 ∧ t.canEst n =
      s.canEst n else if ((s.can n).sending ≠ none ∨ (l = true ∧ (s.can n).flagTx = true)) then t.rf (canA n 0x20) 24 16 =
      min (s.rf (canA n 0x20) 24 16 + 8) 511 ∧ t.rf (canA n 0x20) 15 8 = s.rf (canA n 0x20) 15 8 ∧ t.canEst n = (if 255 <
      (s.rf (canA n 0x20) 24 16 + 8) then 2 else if 127 < (s.rf (canA n 0x20) 24 16 + 8) ∨ 127 < s.rf (canA n 0x20) 15 8
      then 1 else 0) else t.rf (canA n 0x20) 24 16 = s.rf (canA n 0x20) 24 16 ∧ t.rf (canA n 0x20) 15 8 = min (s.rf (canA n
      0x20) 15 8 + if l then 8 else 1) 255 ∧ t.canEst n = (if 255 < s.rf (canA n 0x20) 24 16 then 2 else if 127 < s.rf (canA
      n 0x20) 24 16 ∨ 127 < (s.rf (canA n 0x20) 15 8 + if l then 8 else 1) then 1 else 0)) ∧ (∀ x, (x < canA n 0 ∨ canA n
      0x1000 ≤ x) → t.rd x = s.rd x) ∧ CansBut s t n ∧ t.resp = s.resp)
    ∧ (s.logicOn = true ∧ s.accepts 7 = true ∧ s.canMode n ≠ 0 ∧ s.rb (canA n 0x20) 2 = false ∧ s.canEst n ≠ 2 ∧ i.val ≠ 0 ∧
      s.canMode n ≠ 2 ∧ (s.can n).offDue = false ∧ s.canEst n = 0 ∧ s.rf (canA n 0x20) 24 16 < 88 ∧ s.rf (canA n 0x20) 15 8
      < 88 ∧ (s.can n).sending = none ∧ l = false → Gives (.canBusError n i l m) s fun t => t.can n =
      { s.can n with inFrame := none, flagTx := false } ∧ Counts s t (canA n 0x94) ∧ t.rf (canA n 0x20) 6 4 = i ∧ t.rf (canA
      n 0x20) 15 8 = s.rf (canA n 0x20) 15 8 + 1 ∧ t.rf (canA n 0x20) 24 16 = s.rf (canA n 0x20) 24 16 ∧ t.canEst n = 0 ∧
      RegsBut s t [canA n 0x94, (canA n 0x20)] ∧ CansBut s t n ∧ t.resp = s.resp ∧ t.reports = s.reports)
    ∧ (s.logicOn = true ∧ s.accepts 7 = true ∧ s.canMode n ≠ 0 ∧ s.rb (canA n 0x20) 2 = false ∧ s.canEst n ≠ 2 ∧ i.val ≠ 0 ∧
      s.canMode n ≠ 2 ∧ (s.can n).offDue = false ∧ (s.can n).sending = some (x, f) ∧ s.rb (canA n 0) 9 = false ∧ (x ≠ .head
      ∨ s.rf (canA n 0x1C) 7 0 = 0) ∧ s.canEst n = 0 ∧ s.rf (canA n 0x20) 24 16 < 88 ∧ s.rf (canA n 0x20) 15 8 < 88 ∧ m =
      false → Gives (.canBusError n i l m) s fun t => t.can n =
      { s.can n with sending := none, inFrame := none, flagTx := true } ∧ Counts s t (canA n 0x94) ∧ t.rf (canA n 0x20) 6 4
      = i ∧ t.rf (canA n 0x20) 24 16 = s.rf (canA n 0x20) 24 16 + 8 ∧ t.rf (canA n 0x20) 15 8 = s.rf (canA n 0x20) 15 8 ∧
      t.canEst n = 0 ∧ RegsBut s t [canA n 0x94, (canA n 0x20)] ∧ CansBut s t n ∧ t.resp = s.resp ∧ t.reports = s.reports)
    ∧ (s.logicOn = true ∧ s.accepts 7 = true ∧ s.canMode n ≠ 0 ∧ s.rb (canA n 0x20) 2 = false ∧ s.canEst n ≠ 2 ∧ i.val ≠ 0 ∧
      s.canMode n ≠ 2 ∧ (s.can n).offDue = false ∧ (s.can n).sending = some (x, f) ∧ s.rb (canA n 0) 9 = false ∧ (x ≠ .head
      ∨ s.rf (canA n 0x1C) 7 0 = 0) ∧ s.canEst n = 1 ∧ 248 ≤ s.rf (canA n 0x20) 24 16 ∧ s.rf (canA n 0x20) 24 16 < 256 ∧ 96
      ≤ s.rf (canA n 0x20) 15 8 ∧ m = false ∧ s.rb (canA n 0x1C) 30 = false → Gives (.canBusError n i l m) s fun t => t.can
      n = { s.can n with sending := none, recovering := false, decided := false, inFrame := none, flagTx := true } ∧ Counts
      s t (canA n 0x94) ∧ t.rf (canA n 0x20) 6 4 = i ∧ t.canEst n = 2 ∧ t.rf (canA n 0x20) 24 16 = s.rf (canA n 0x20) 24 16
      + 8 ∧ t.rf (canA n 0x20) 31 28 = min (s.rf (canA n 0x20) 31 28 + 1) 15 ∧ Counts s t (canA n 0x9C) ∧ t.rd (canA n 0x38)
      = setBit (s.rd (canA n 0x38)) 2 true ∧ Reported s t [(0x5002, n.val, 0)] ∧ RegsBut s t [canA n 0x94, canA n 0x9C,
      (canA n 0x38), (canA n 0x20)] ∧ CansBut s t n ∧ t.resp = s.resp)
    ∧ (s.logicOn = true ∧ s.accepts 7 = true ∧ s.canMode n ≠ 0 ∧ s.rb (canA n 0x20) 2 = false ∧ s.canEst n ≠ 2 ∧ s.rb (canA n
      0) 6 = true → Gives (.canProtocolException n) s fun t => t.rf (canA n 0x20) 3 2 = (if (s.can n).offDue then 0 else 3)
      ∧ (∀ j ∈ List.range 32, j ∉ ([2, 3] : List Nat) → t.rb (canA n 0x20) j = s.rb (canA n 0x20) j) ∧ Counts s t (canA n
      0x98) ∧ t.rd (canA n 0x38) = setBit (s.rd (canA n 0x38)) 6 true ∧ t.can n = (if (s.can n).offDue then
      { s.can n with sending := none, inFrame := none, offDue := false, recovering := false } else
      { s.can n with inFrame := none }) ∧ RegsBut s t ([canA n 0x98, (canA n 0x38), (canA n 0x20)] ++ if (s.can n).offDue
      then [canA n 0] else []) ∧ CansBut s t n ∧ t.resp = s.resp ∧ t.reports = s.reports)
    ∧ (s.logicOn = true ∧ s.accepts 7 = true ∧ s.canMode n ≠ 0 ∧ s.rb (canA n 0x20) 2 = false ∧ s.canEst n ≠ 2 ∧ s.rb (canA n
      0) 6 = false → Gives (.canProtocolException n) s fun t => Counts s t (canA n 0x94) ∧ t.rf (canA n 0x20) 6 4 = 2 ∧
      (t.can n).sending = none ∧ (∀ x, (x < canA n 0 ∨ canA n 0x1000 ≤ x) → t.rd x = s.rd x) ∧ CansBut s t n ∧ t.resp =
      s.resp)
    ∧ (s.logicOn = true ∧ s.accepts 7 = true ∧ s.canMode n ≠ 0 → Gives (.canBusIntegration n) s fun t => t.rf (canA n 0x20) 3
      2 = 0 ∧ (∀ j ∈ List.range 32, j ∉ ([2, 3] : List Nat) → t.rb (canA n 0x20) j = s.rb (canA n 0x20) j) ∧ t.can n = (if
      (s.can n).offDue then { s.can n with sending := none, inFrame := none, offDue := false, recovering := false } else
      { s.can n with inFrame := none }) ∧ RegsBut s t ([(canA n 0x20)] ++ if (s.can n).offDue then [canA n 0] else []) ∧
      CansBut s t n ∧ t.resp = s.resp ∧ t.reports = s.reports)
    ∧ (s.logicOn = true ∧ s.accepts 7 = true ∧ s.canEst n = 2 ∧ s.rb (canA n 0x1C) 31 = true ∧ (s.can n).decided = false ∧
      (s.can n).recovering = false ∧ (s.rf (canA n 0x1C) 27 24 = 0 ∨ s.rf (canA n 0x20) 31 28 < s.rf (canA n 0x1C) 27 24) →
      Gives (.canBusoffRecoveryStart n) s fun t => t.can n = { s.can n with recovering := true, decided := true } ∧ RegsBut
      s t [] ∧ CansBut s t n ∧ t.resp = s.resp ∧ t.reports = s.reports)
    ∧ (s.logicOn = true ∧ s.accepts 7 = true ∧ s.canEst n = 2 ∧ s.rb (canA n 0x1C) 31 = true ∧ (s.can n).decided = false ∧
      (s.can n).recovering = false ∧ s.rf (canA n 0x1C) 27 24 ≠ 0 ∧ s.rf (canA n 0x1C) 27 24 ≤ s.rf (canA n 0x20) 31 28 →
      Gives (.canBusoffRecoveryStart n) s fun t => t.can n = { s.can n with decided := true } ∧ Reported s t [(0x5003,
      n.val, 0)] ∧ RegsBut s t [] ∧ CansBut s t n ∧ t.resp = s.resp)
    ∧ (s.logicOn = true ∧ s.accepts 7 = true ∧ s.canEst n = 2 ∧ (s.can n).recovering = true → Gives (.canBusoffRecovered n) s
      fun t => t.can n = { s.can n with recovering := false } ∧ t.canEst n = 0 ∧ t.rf (canA n 0x20) 24 16 = 0 ∧ t.rf (canA n
      0x20) 15 8 = 0 ∧ t.rf (canA n 0x20) 31 28 = s.rf (canA n 0x20) 31 28 ∧ t.rd (canA n 0x38) = setBit (s.rd (canA n
      0x38)) 3 true ∧ RegsBut s t [(canA n 0x38), (canA n 0x20)] ∧ CansBut s t n ∧ t.resp = s.resp ∧ t.reports = s.reports)
    ∧ (s.logicOn = true → Gives (.canTransceiverFault n c) s fun t => t.rd (canA n 0x34) = setBit (s.rd (canA n 0x34)) (8 +
      c.val) true ∧ t.rd (canA n 0x38) = setBit (s.rd (canA n 0x38)) 7 true ∧ Reported s t [(0x5007, n.val, 0)] ∧ RegsBut s
      t [(canA n 0x34), (canA n 0x38)] ∧ { t with regs := s.regs, reports := s.reports } = s)
    ∧ (Gives (.canTransceiverRecover n c) s fun t => t.rd (canA n 0x34) = setBit (s.rd (canA n 0x34)) (8 + c.val) false ∧
      RegsBut s t [(canA n 0x34)] ∧ { t with regs := s.regs } = s)
    ∧ (s.logicOn = true ∧ s.accepts 7 = true ∧ (s.tat n k).next = some at_ ∧ reached at_ s.now = true ∧ bit (s.rd (tatA n k
      4)) 31 = true ∧ s.tatOld n k = false ∧ (s.tat n k).due = none → Gives (.tatDue n k) s fun t => t.tat n k =
      { s.tat n k with next := (if bit (s.rd (tatA n k 4)) 30 then some (at_ + wd ((s.rd (tatA n k 0xC)).toNat * 1000)) else none), due := some at_ }
      ∧ OnlySlot s t n k ∧ RegsBut s t [] ∧ CansBut s t n ∧ t.resp = s.resp ∧ t.reports = s.reports)
    ∧ (s.logicOn = true ∧ s.accepts 7 = true ∧ (s.tat n k).next = some at_ ∧ reached at_ s.now = true ∧ bit (s.rd (tatA n k
      4)) 31 = true ∧ s.tatOld n k = false ∧ (s.tat n k).due ≠ none → Gives (.tatDue n k) s fun t => t.tat n k =
      { s.tat n k with next := (if bit (s.rd (tatA n k 4)) 30 then some (at_ + wd ((s.rd (tatA n k 0xC)).toNat * 1000)) else none), due := some at_ }
      ∧ OnlySlot s t n k ∧ t.rf (tatA n k 0x10) 15 8 = min (s.rf (tatA n k 0x10) 15 8 + 1) 255 ∧ t.rd (canA n 0x38) = setBit
      (s.rd (canA n 0x38)) 8 true ∧ Reported s t [(0x5008, n.val, 0)] ∧ RegsBut s t [tatA n k 0x10, (canA n 0x38)] ∧ CansBut
      s t n ∧ t.resp = s.resp)
    ∧ (s.logicOn = true ∧ s.accepts 7 = true ∧ (s.tat n k).next = some at_ ∧ reached at_ s.now = true ∧ bit (s.rd (tatA n k
      4)) 31 = true ∧ s.tatOld n k = true → Gives (.tatDue n k) s fun t => t.tat n k =
      { s.tat n k with next := (if bit (s.rd (tatA n k 4)) 30 then some (at_ + wd ((s.rd (tatA n k 0xC)).toNat * 1000)) else none) }
      ∧ OnlySlot s t n k ∧ t.rf (tatA n k 0x10) 23 16 = min (s.rf (tatA n k 0x10) 23 16 + 1) 255 ∧ t.rd (canA n 0x38) =
      setBit (s.rd (canA n 0x38)) 9 true ∧ Reported s t [(0x5009, n.val, 0)] ∧ RegsBut s t [tatA n k 0x10, (canA n 0x38)] ∧
      CansBut s t n ∧ t.resp = s.resp)
    ∧ (s.logicOn = true ∧ s.accepts 7 = true ∧ (s.tat n k).due = some at_ ∧ ¬ ((s.can n).sending.map Prod.fst = some (.slot k)
      ∧ (s.tat n k).onBus = some at_) ∧ s.rf (tatA n k 4) 15 0 * 1000 ≤ (s.now - at_).toNat → Gives (.tatWindowExpiry n k) s
      fun t => t.tat n k = { s.tat n k with due := none } ∧ OnlySlot s t n k ∧ t.rf (tatA n k 0x10) 15 8 = min (s.rf (tatA n
      k 0x10) 15 8 + 1) 255 ∧ t.rd (canA n 0x38) = setBit (s.rd (canA n 0x38)) 8 true ∧ Reported s t [(0x5008, n.val, 0)] ∧
      RegsBut s t [tatA n k 0x10, (canA n 0x38)] ∧ CansBut s t n ∧ t.resp = s.resp)

/-- A header is counted and its identifier kept; by its response entry the controller waits for the response, sends the
  values of the Cellar or of the port buffer, which empties, with their checksum, or does nothing; a stale value counts,
  reports 0x5041 and may withhold the response (R387, R388, R389, R390). The response becomes a frame of KIND 4, or an error
  is counted with fault 0x5040 (R388). The schedule sends its next header at each slot, and a bank switch waits for the
  slot's end (R392, R393). WAKE sends a signal, received ones set their event (R394), CNT_RST clears the counters, and
  transceiver faults latch with 0x5042 (R396). -/
def Obligations.LinBus : Prop :=
  ∀ (s : State) (a : Acc) (n : Lin) (k : Fin 64) (x : Word) (i : LinErr) (b : Bool) (l : List Byte),
    (Reaches s a (linA n 0) ∧ Manager s a ∧ (s.lin n).inSlot = false → Gives (.linSchedSwitch a n b) s fun t => t.rb (linA n
      0x14) 0 = b ∧ t.rb (linA n 0x14) 1 = false ∧ (∀ j ∈ List.range 32, 2 ≤ j → t.rb (linA n 0x14) j = s.rb (linA n 0x14)
      j) ∧ RegsBut s t [(linA n 0x14)] ∧ RegsOnly s t ∧ Answers t .done)
    ∧ (Reaches s a (linA n 0) ∧ Manager s a ∧ (s.lin n).inSlot = true → Gives (.linSchedSwitch a n b) s fun t => t.rb (linA n
      0x14) 0 = s.rb (linA n 0x14) 0 ∧ t.rb (linA n 0x14) 1 = (b != s.rb (linA n 0x14) 0) ∧ (∀ j ∈ List.range 32, 2 ≤ j →
      t.rb (linA n 0x14) j = s.rb (linA n 0x14) j) ∧ RegsBut s t [(linA n 0x14)] ∧ RegsOnly s t ∧ Answers t .done)
    ∧ (Reaches s a (linA n 0) ∧ Manager s a → Gives (.linWakeSend a n) s fun t => t.lin n = (if s.linMode n = 0 then
      { { s.lin n with wakes := (s.lin n).wakes + 1 } with await := none, inSlot := false, idx := 0 } else
      { s.lin n with wakes := (s.lin n).wakes + 1 }) ∧ (∀ j ∈ List.range 31, j ≠ 12 → t.rb (linA n 0) j = s.rb (linA n 0) j)
      ∧ t.rd (linA n 8) = (if s.linMode n = 0 then setFld (s.rd (linA n 8)) 1 0 0 else s.rd (linA n 8)) ∧ RegsBut s t [(linA
      n 0), (linA n 8)] ∧ Answers t .done ∧ (∀ m, m ≠ n.val → t.lin m = s.lin m) ∧
      { t with regs := s.regs, lins := s.lins, front := s.front, resp := s.resp } = s ∧ t.front =
      { s.front with linStandby := if s.linMode n = 0 then s.front.linStandby else s.front.linStandby.filter (· != n.val) })
    ∧ (Reaches s a (linA n 0) ∧ Manager s a → Gives (.linCntRst a n) s fun t => (∀ j, j < 4 → t.rd (linA n (0x30 + j * 4)) =
      0) ∧ t.lin n = (if s.linMode n = 0 then { s.lin n with await := none, inSlot := false, idx := 0 } else s.lin n) ∧ (∀ j
      ∈ List.range 31, j ≠ 12 → t.rb (linA n 0) j = s.rb (linA n 0) j) ∧ t.rd (linA n 8) = (if s.linMode n = 0 then setFld
      (s.rd (linA n 8)) 1 0 0 else s.rd (linA n 8)) ∧ RegsBut s t ([(linA n 0), (linA n 8)] ++ (List.range 4).map (fun j =>
      linA n (0x30 + j * 4))) ∧ Answers t .done ∧ (∀ m, m ≠ n.val → t.lin m = s.lin m) ∧
      { t with regs := s.regs, lins := s.lins, front := s.front, resp := s.resp } = s ∧ t.front =
      { s.front with linStandby := if s.linMode n = 0 then s.front.linStandby else s.front.linStandby.filter (· != n.val) })
    ∧ (s.logicOn = true ∧ s.accepts 7 = true ∧ s.linMode n ≠ 0 ∧ i.val = 0 → Gives (.linHeader n k x i b) s fun t => t.rf
      (linA n 8) 13 8 = k.val ∧ Counts s t (linA n 48) ∧ (t.lin n).await = (if s.rf (rspA n k 0) 1 0 = 1 then some (k.val,
      x) else none) ∧ t.rf (linA n 8) 1 0 = (if s.rf (rspA n k 0) 1 0 = 1 then 2 else 0) ∧ RegsBut s t [(linA n 8), (linA n
      0xC), linA n 0x30, linA n 0x34, linA n 0x38, linA n 0x3c] ∧ (∀ m, m ≠ n.val → t.lin m = s.lin m) ∧
      { t with regs := s.regs, lins := s.lins, reports := s.reports } = s)
    ∧ (s.logicOn = true ∧ s.accepts 7 = true ∧ s.linMode n ≠ 0 ∧ s.rf (linA n 8) 4 3 = 0 ∧ i.val = 0 ∧ b = true ∧ s.rf (rspA n
      k 0) 1 0 = 3 ∧ smGet (fun _ => []) (s.lin n).bufs k ≠ [] → Gives (.linHeader n k x i b) s fun t => t.rf (linA n 8) 19
      16 = 1 ∧ Counts s t (linA n 56) ∧ t.rd (linA n 0xC) = setBit (s.rd (linA n 0xC)) 0 true ∧ Reported s t [(0x5040,
      n.val, 0)] ∧ (t.lin n).lastResp = (s.lin n).lastResp ∧ RegsBut s t [(linA n 8), (linA n 0xC), linA n 0x30, linA n
      0x34, linA n 0x38, linA n 0x3c] ∧ (∀ m, m ≠ n.val → t.lin m = s.lin m) ∧
      { t with regs := s.regs, lins := s.lins, reports := s.reports } = s)
    ∧ (s.logicOn = true ∧ s.accepts 7 = true ∧ s.linMode n ≠ 0 ∧ i.val = 0 ∧ s.rf (rspA n k 0) 1 0 = 0 → Gives (.linHeader n k
      x i b) s fun t => t.rf (linA n 8) 13 8 = k.val ∧ Counts s t (linA n 48) ∧ t.rf (linA n 8) 1 0 = 0 ∧ t.lin n =
      { s.lin n with await := none } ∧ (∀ j ∈ List.range 32, j ∉ ([0, 1, 8, 9, 10, 11, 12, 13] : List Nat) → t.rb (linA n 8)
      j = s.rb (linA n 8) j) ∧ RegsBut s t [(linA n 8), linA n 0x30] ∧ (∀ m, m ≠ n.val → t.lin m = s.lin m) ∧
      { t with regs := s.regs, lins := s.lins } = s)
    ∧ (s.logicOn = true ∧ s.accepts 7 = true ∧ s.linMode n ≠ 0 ∧ i.val = 0 ∧ s.rf (rspA n k 0) 1 0 = 1 → Gives (.linHeader n k
      x i b) s fun t => t.rf (linA n 8) 13 8 = k.val ∧ Counts s t (linA n 48) ∧ t.rf (linA n 8) 1 0 = 2 ∧ t.lin n =
      { s.lin n with await := some (k.val, x) } ∧ (∀ j ∈ List.range 32, j ∉ ([0, 1, 8, 9, 10, 11, 12, 13] : List Nat) → t.rb
      (linA n 8) j = s.rb (linA n 8) j) ∧ RegsBut s t [(linA n 8), linA n 0x30] ∧ (∀ m, m ≠ n.val → t.lin m = s.lin m) ∧
      { t with regs := s.regs, lins := s.lins } = s)
    ∧ (s.logicOn = true ∧ s.accepts 7 = true ∧ s.linMode n ≠ 0 ∧ s.rf (linA n 8) 4 3 = 0 ∧ i.val = 0 ∧ b = false ∧ s.rf (rspA
      n k 0) 1 0 = 3 ∧ smGet (fun _ => []) (s.lin n).bufs k = l ∧ l ≠ [] → Gives (.linHeader n k x i b) s fun t => t.rf
      (linA n 8) 13 8 = k.val ∧ Counts s t (linA n 48) ∧ t.rf (linA n 8) 1 0 = 0 ∧ (t.lin n).await = none ∧ (t.lin
      n).lastResp = some ((l) ++ [linChecksum (s.rb (rspA n k 0) 2) (linPid k) (l)]) ∧ smGet (fun _ => []) (t.lin n).bufs k
      = [] ∧ (∀ j, j ≠ k.val → smGet (fun _ => []) (t.lin n).bufs j = smGet (fun _ => []) (s.lin n).bufs j) ∧
      { t.lin n with await := (s.lin n).await, lastResp := (s.lin n).lastResp, bufs := (s.lin n).bufs } = s.lin n ∧ Counts s
      t (linA n 52) ∧ (∀ j ∈ List.range 32, j ∉ ([0, 1, 8, 9, 10, 11, 12, 13] : List Nat) → t.rb (linA n 8) j = s.rb (linA n
      8) j) ∧ RegsBut s t [(linA n 8), linA n 0x30, linA n 0x34] ∧ (∀ m, m ≠ n.val → t.lin m = s.lin m) ∧
      { t with regs := s.regs, lins := s.lins } = s)
    ∧ (s.logicOn = true ∧ s.accepts 7 = true ∧ s.linMode n ≠ 0 ∧ s.rf (linA n 8) 4 3 = 0 ∧ i.val = 0 ∧ b = false ∧ s.rf (rspA
      n k 0) 1 0 = 2 ∧ (s.enReadStale (s.rf (rspA n k 0) 31 16) || (s.rb (rspA n k 1) 16 && s.enReadStale (s.rf (rspA n k 1)
      15 0))) = false → Gives (.linHeader n k x i b) s fun t => t.rf (linA n 8) 13 8 = k.val ∧ Counts s t (linA n 48) ∧ t.rf
      (linA n 8) 1 0 = 0 ∧ t.lin n =
      { s.lin n with await := none, lastResp := some (((leBytes 4 (s.enValue (s.rf (rspA n k 0) 31 16)).toNat ++ leBytes 4 (if s.rb (rspA n k 1) 16 then s.enValue (s.rf (rspA n k 1) 15 0) else 0).toNat).take (s.rf (rspA n k 0) 7 4)) ++ [linChecksum (s.rb (rspA n k 0) 2) (linPid k) ((leBytes 4 (s.enValue (s.rf (rspA n k 0) 31 16)).toNat ++ leBytes 4 (if s.rb (rspA n k 1) 16 then s.enValue (s.rf (rspA n k 1) 15 0) else 0).toNat).take (s.rf (rspA n k 0) 7 4))]) }
      ∧ Counts s t (linA n 52) ∧ (∀ j ∈ List.range 32, j ∉ ([0, 1, 8, 9, 10, 11, 12, 13] : List Nat) → t.rb (linA n 8) j =
      s.rb (linA n 8) j) ∧ RegsBut s t [(linA n 8), linA n 0x30, linA n 0x34] ∧ (∀ m, m ≠ n.val → t.lin m = s.lin m) ∧
      { t with regs := s.regs, lins := s.lins } = s)
    ∧ (s.logicOn = true ∧ s.accepts 7 = true ∧ s.linMode n ≠ 0 ∧ i.val = 0 ∧ s.rf (rspA n k 0) 1 0 = 2 ∧ (s.enReadStale (s.rf
      (rspA n k 0) 31 16) || (s.rb (rspA n k 1) 16 && s.enReadStale (s.rf (rspA n k 1) 15 0))) = true ∧ s.rb (rspA n k 0) 3
      = true → Gives (.linHeader n k x i b) s fun t => t.rf (linA n 8) 13 8 = k.val ∧ Counts s t (linA n 48) ∧ t.rf (linA n
      8) 1 0 = 0 ∧ t.lin n = { s.lin n with await := none } ∧ Counts s t (linA n 60) ∧ t.rd (linA n 0xC) = setBit (s.rd
      (linA n 0xC)) 3 true ∧ Reported s t [(0x5041, n.val, 0)] ∧ (∀ j ∈ List.range 32, j ∉ ([0, 1, 8, 9, 10, 11, 12, 13] :
      List Nat) → t.rb (linA n 8) j = s.rb (linA n 8) j) ∧ RegsBut s t [(linA n 8), (linA n 0xC), linA n 0x30, linA n 0x3C]
      ∧ (∀ m, m ≠ n.val → t.lin m = s.lin m) ∧ { t with regs := s.regs, lins := s.lins, reports := s.reports } = s)
    ∧ (s.logicOn = true ∧ s.accepts 7 = true ∧ s.linMode n ≠ 0 ∧ i.val ≠ 0 → Gives (.linHeader n k x i b) s fun t => t.rf
      (linA n 8) 19 16 = i ∧ t.rf (linA n 8) 1 0 = 0 ∧ t.lin n = { s.lin n with await := none } ∧ Counts s t (linA n 56) ∧
      t.rd (linA n 0xC) = setBit (s.rd (linA n 0xC)) 0 true ∧ Reported s t [(0x5040, n.val, 0)] ∧ (∀ j ∈ List.range 32, j ∉
      ([0, 1, 16, 17, 18, 19] : List Nat) → t.rb (linA n 8) j = s.rb (linA n 8) j) ∧ RegsBut s t [(linA n 8), (linA n 0xC),
      linA n 0x38] ∧ (∀ m, m ≠ n.val → t.lin m = s.lin m) ∧ { t with regs := s.regs, lins := s.lins, reports := s.reports }
      = s)
    ∧ ((s.lin n).await = some (k.val, x) ∧ i.val = 0 ∧ l.length = s.rf (rspA n k 0) 7 4 → Gives (.linResponseReceive n l i) s
      fun t => (t.lin n).await = none ∧ t.rf (linA n 8) 1 0 = 0 ∧ (t.lin n).rx.take (s.lin n).rx.length = (s.lin n).rx ∧
      (s.rb (clA 0) 0 = false → (t.lin n).rx = (s.lin n).rx ++
      [{ kind := 4, id := wd (linPid k), data := l, time := x, linClassic := s.rb (rspA n k 0) 2 }]) ∧ (∀ m, m ≠ n.val →
      t.lin m = s.lin m))
    ∧ ((s.lin n).await = some (k.val, x) ∧ s.rb (clA 0xC) 31 = false ∧ s.rb (clA 0) 0 = false ∧ i.val = 0 ∧ l.length = s.rf
      (rspA n k 0) 7 4 → Gives (.linResponseReceive n l i) s fun t => t.lin n =
      { s.lin n with await := none, rx := (s.lin n).rx ++ [{ kind := 4, id := wd (linPid k), data := l, time := x, linClassic := s.rb (rspA n k 0) 2 }] }
      ∧ t.rf (linA n 8) 1 0 = 0 ∧ (∀ j ∈ List.range 32, j ∉ ([0, 1] : List Nat) → t.rb (linA n 8) j = s.rb (linA n 8) j) ∧
      RegsBut s t [(linA n 8)] ∧ (∀ m, m ≠ n.val → t.lin m = s.lin m) ∧ { t with regs := s.regs, lins := s.lins } = s)
    ∧ ((s.lin n).await = some (k.val, x) ∧ i.val ≠ 0 → Gives (.linResponseReceive n l i) s fun t => t.rf (linA n 8) 19 16 = i
      ∧ t.rf (linA n 8) 1 0 = 0 ∧ t.lin n = { s.lin n with await := none } ∧ Counts s t (linA n 56) ∧ t.rd (linA n 0xC) =
      setBit (s.rd (linA n 0xC)) 0 true ∧ Reported s t [(0x5040, n.val, 0)] ∧ (∀ j ∈ List.range 32, j ∉ ([0, 1, 16, 17, 18,
      19] : List Nat) → t.rb (linA n 8) j = s.rb (linA n 8) j) ∧ RegsBut s t [(linA n 8), (linA n 0xC), linA n 0x38] ∧ (∀ m,
      m ≠ n.val → t.lin m = s.lin m) ∧ { t with regs := s.regs, lins := s.lins, reports := s.reports } = s)
    ∧ ((s.lin n).await = some (k.val, x) ∧ i.val = 0 ∧ l.length ≠ s.rf (rspA n k 0) 7 4 → Gives (.linResponseReceive n l i) s
      fun t => t.rf (linA n 8) 19 16 = 4 ∧ t.rf (linA n 8) 1 0 = 0 ∧ t.lin n = { s.lin n with await := none } ∧ Counts s t
      (linA n 56) ∧ t.rd (linA n 0xC) = setBit (s.rd (linA n 0xC)) 0 true ∧ Reported s t [(0x5040, n.val, 0)] ∧ (∀ j ∈
      List.range 32, j ∉ ([0, 1, 16, 17, 18, 19] : List Nat) → t.rb (linA n 8) j = s.rb (linA n 8) j) ∧ RegsBut s t [(linA n
      8), (linA n 0xC), linA n 0x38] ∧ (∀ m, m ≠ n.val → t.lin m = s.lin m) ∧
      { t with regs := s.regs, lins := s.lins, reports := s.reports } = s)
    ∧ (s.logicOn = true ∧ s.accepts 7 = true ∧ s.linMode n = 1 ∧ s.rb (linA n 0x14) 31 = true ∧ s.rb (linA n 0x14) 1 = false →
      Gives (.linScheduleSlot n) s fun t => t.lin n =
      { s.lin n with inSlot := true, idx := if (if (s.rf (linA n 0x14) 0 0) = 0 then s.rf (linA n 0x14) 13 8 else s.rf (linA n 0x14) 21 16) ≤ (if (s.lin n).inSlot = false ∨ (if (s.rf (linA n 0x14) 0 0) = 0 then s.rf (linA n 0x14) 13 8 else s.rf (linA n 0x14) 21 16) ≤ (s.lin n).idx then 0 else (s.lin n).idx) + 1 then 0 else (if (s.lin n).inSlot = false ∨ (if (s.rf (linA n 0x14) 0 0) = 0 then s.rf (linA n 0x14) 13 8 else s.rf (linA n 0x14) 21 16) ≤ (s.lin n).idx then 0 else (s.lin n).idx) + 1, lastHeader := if s.rf (linA n 8) 4 3 = 0 then some (linPid (s.rf (schA n ((s.rf (linA n 0x14) 0 0) * 32 + (if (s.lin n).inSlot = false ∨ (if (s.rf (linA n 0x14) 0 0) = 0 then s.rf (linA n 0x14) 13 8 else s.rf (linA n 0x14) 21 16) ≤ (s.lin n).idx then 0 else (s.lin n).idx))) 5 0)) else (s.lin n).lastHeader }
      ∧ RegsBut s t [] ∧ (∀ m, m ≠ n.val → t.lin m = s.lin m) ∧ { t with regs := s.regs, lins := s.lins } = s)
    ∧ (s.logicOn = true ∧ s.accepts 7 = true ∧ s.linMode n = 1 ∧ s.rb (linA n 0x14) 31 = true ∧ s.rb (linA n 0x14) 1 = true →
      Gives (.linScheduleSlot n) s fun t => t.lin n =
      { s.lin n with inSlot := true, idx := if (if (s.rf (linA n 0x14) 0 0) = 1 then s.rf (linA n 0x14) 13 8 else s.rf (linA n 0x14) 21 16) ≤ 1 then 0 else 1, lastHeader := if s.rf (linA n 8) 4 3 = 0 then some (linPid (s.rf (schA n ((1 - (s.rf (linA n 0x14) 0 0)) * 32)) 5 0)) else (s.lin n).lastHeader }
      ∧ t.rf (linA n 0x14) 1 0 = 1 - (s.rf (linA n 0x14) 0 0) ∧ t.rd (linA n 0xC) = setBit (s.rd (linA n 0xC)) 4 true ∧ (∀ j
      ∈ List.range 32, 2 ≤ j → t.rb (linA n 0x14) j = s.rb (linA n 0x14) j) ∧ RegsBut s t [(linA n 0x14), (linA n 0xC)] ∧ (∀
      m, m ≠ n.val → t.lin m = s.lin m) ∧ { t with regs := s.regs, lins := s.lins } = s)
    ∧ (s.logicOn = true ∧ s.accepts 7 = true ∧ s.linMode n = 1 ∧ s.rb (linA n 0x14) 31 = false ∧ s.rb (linA n 0x14) 1 = false
      → Gives (.linScheduleSlot n) s fun t => t.lin n = { s.lin n with inSlot := false, idx := 0 } ∧ RegsBut s t [] ∧ (∀ m,
      m ≠ n.val → t.lin m = s.lin m) ∧ { t with regs := s.regs, lins := s.lins } = s)
    ∧ (s.logicOn = true ∧ s.accepts 7 = true ∧ s.linMode n = 1 ∧ s.rb (linA n 0x14) 31 = false ∧ s.rb (linA n 0x14) 1 = true →
      Gives (.linScheduleSlot n) s fun t => t.lin n = { s.lin n with inSlot := false, idx := 0 } ∧ t.rf (linA n 0x14) 1 0 =
      1 - (s.rf (linA n 0x14) 0 0) ∧ t.rd (linA n 0xC) = setBit (s.rd (linA n 0xC)) 4 true ∧ (∀ j ∈ List.range 32, 2 ≤ j →
      t.rb (linA n 0x14) j = s.rb (linA n 0x14) j) ∧ RegsBut s t [(linA n 0x14), (linA n 0xC)] ∧ (∀ m, m ≠ n.val → t.lin m =
      s.lin m) ∧ { t with regs := s.regs, lins := s.lins } = s)
    ∧ (s.logicOn = true ∧ s.accepts 7 = true ∧ s.linMode n ≠ 0 → Gives (.linWakeReceive n) s fun t => t.rd (linA n 0xC) =
      setBit (s.rd (linA n 0xC)) 1 true ∧ RegsBut s t [(linA n 0xC)] ∧ { t with regs := s.regs } = s)
    ∧ (s.logicOn = true → Gives (.linTransceiverFault n b) s fun t => t.rd (linA n 8) = setBit (s.rd (linA n 8)) (if b then 3
      else 4) true ∧ t.rd (linA n 0xC) = (if b then setBit (s.rd (linA n 0xC)) 2 true else s.rd (linA n 0xC)) ∧ Reported s t
      [(0x5042, n.val, 0)] ∧ RegsBut s t [(linA n 8), (linA n 0xC)] ∧ { t with regs := s.regs, reports := s.reports } = s)
    ∧ (s.logicOn = true → Gives (.linTransceiverRecover n b) s fun t => t.rd (linA n 8) = setBit (s.rd (linA n 8)) (if b then
      3 else 4) false ∧ RegsBut s t [(linA n 8)] ∧ { t with regs := s.regs } = s)

/-- SLEEP_REQ arms the enabled sources and enters SLEEP_PENDING, CONFLICT while an enabled cause is latched; CANCEL returns
  (R401, R402). An armed source latches its cause, WK_FIRST the first; it cancels a pending sleep with fault 0x5080, is
  latched in POWER_DOWN with 0xA004, and starts the power-up in SLEEP (R404, R406, R407). A listening transceiver wakes on a
  matching frame alone and counts the others, an overflow stopping it or waking (R410, R411, R412). PEND_WIN ends in
  POWER_DOWN, the power-down in SLEEP or, with a wake latched, in the power-up (R405, R406); the awake timer asks for sleep
  and the fail-safe timer forces it (R416, R417). -/
def Obligations.Sleep : Prop :=
  ∀ (s : State) (a : Acc) (i : Fin 44) (n : Fin 16) (f : WakeFrame) (g : SwFrame) (x : BitVec 16) (y : BitVec 8),
    (FarReaches s a 2 (aoA 0) ∧ Manager s a ∧ s.aoState = 0 ∧ s.rd (aoA 0x1C) &&& s.rd (aoA 0x14) = 0 ∧ s.rd (aoA 0x20) &&&
      s.rd (aoA 0x18) = 0 → Gives (.sleepReq a) s fun t => t.aoState = 1 ∧ t.front =
      { s.front with armed := s.enabledSources, fec := [], deaf := [], decoding := [] } ∧ RegsBut s t [(aoA 4)] ∧ t.rf (aoA
      4) 31 3 = s.rf (aoA 4) 31 3 ∧ Answers t .done ∧
      { t with regs := s.regs, front := s.front, brg := s.brg, reports := s.reports, resp := s.resp } = s)
    ∧ (FarReaches s a 2 (aoA 0) ∧ Manager s a ∧ NoHart a ∧ s.aoState = 0 ∧ s.rd (aoA 0x1C) &&& s.rd (aoA 0x14) ≠ 0 → Gives
      (.sleepReq a) s fun t => (s.rb (winA 2 ((s.winAt 2 (aoA 0 - brRegion 2)).getD 0) 0) 30 = false → Answers t .conflict)
      ∧ RegsBut s t [] ∧ t.front = s.front ∧
      { t with regs := s.regs, front := s.front, brg := s.brg, reports := s.reports, resp := s.resp } = s)
    ∧ (FarReaches s a 2 (aoA 0) ∧ Manager s a ∧ s.aoState ≠ 0 → Gives (.sleepReq a) s fun t => RegsBut s t [] ∧ t.front =
      s.front ∧ Answers t .done ∧
      { t with regs := s.regs, front := s.front, brg := s.brg, reports := s.reports, resp := s.resp } = s)
    ∧ (FarReaches s a 2 (aoA 0) ∧ Manager s a ∧ s.aoState ≠ 1 → Gives (.sleepCancel a) s fun t => RegsBut s t [] ∧ t.front =
      s.front ∧ Answers t .done ∧
      { t with regs := s.regs, front := s.front, brg := s.brg, reports := s.reports, resp := s.resp } = s)
    ∧ (FarReaches s a 2 (aoA 0) ∧ Manager s a ∧ s.aoState = 1 → Gives (.sleepCancel a) s fun t => t.aoState = 0 ∧ t.front =
      { s.front with armed := [] } ∧ RegsBut s t [(aoA 4)] ∧ t.rf (aoA 4) 31 3 = s.rf (aoA 4) 31 3 ∧ Answers t .done ∧
      { t with regs := s.regs, front := s.front, brg := s.brg, reports := s.reports, resp := s.resp } = s)
    ∧ (s.armedOn i.val = true ∧ 16 ≤ i.val ∧ (24 ≤ i.val ∧ i.val < 32 → s.sinMeets (i.val - 24) = true) ∧ s.aoState = 1 →
      Gives (.wakeCondition i) s fun t => t.rd (aoA 0x1C) = (if i.val < 32 then setBit (s.rd (aoA 0x1C)) (i.val) true else
      s.rd (aoA 0x1C)) ∧ t.rd (aoA 0x20) = (if i.val < 32 then s.rd (aoA 0x20) else setBit (s.rd (aoA 0x20)) (i.val - 32)
      true) ∧ t.rf (aoA 0x24) 5 0 = (if s.rd (aoA 0x1C) = 0 ∧ s.rd (aoA 0x20) = 0 then i.val else s.rf (aoA 0x24) 5 0) ∧
      t.aoState = 0 ∧ t.rb (aoA 4) 8 = true ∧ t.front = { s.front with armed := [] } ∧ ((s.link 2).up = true ∧ s.logicOn =
      true → t.reports.length = s.reports.length + 1 ∧ (∀ r ∈ t.reports.drop s.reports.length, r.id = 0x5080 ∧ r.src = 3 ∧
      r.ctx0 = wd i.val)) ∧ RegsBut s t ([aoA 0x1C, aoA 0x20, aoA 0x24, (aoA 4)] ++ ([] : List Nat)) ∧
      { t with reports := s.reports, dieLogs := s.dieLogs, regs := s.regs, front := s.front } = s)
    ∧ (s.armedOn i.val = true ∧ 16 ≤ i.val ∧ (24 ≤ i.val ∧ i.val < 32 → s.sinMeets (i.val - 24) = true) ∧ s.aoState = 2 →
      Gives (.wakeCondition i) s fun t => t.rd (aoA 0x1C) = (if i.val < 32 then setBit (s.rd (aoA 0x1C)) (i.val) true else
      s.rd (aoA 0x1C)) ∧ t.rd (aoA 0x20) = (if i.val < 32 then s.rd (aoA 0x20) else setBit (s.rd (aoA 0x20)) (i.val - 32)
      true) ∧ t.rf (aoA 0x24) 5 0 = (if s.rd (aoA 0x1C) = 0 ∧ s.rd (aoA 0x20) = 0 then i.val else s.rf (aoA 0x24) 5 0) ∧
      t.aoState = 2 ∧ t.front = { s.front with wakeLatched := true } ∧ ((s.link 2).up = true ∧ s.logicOn = true →
      t.reports.length = s.reports.length + 1 ∧ (∀ r ∈ t.reports.drop s.reports.length, r.id = 0xA004 ∧ r.src = 3 ∧ r.ctx0 =
      wd i.val)) ∧ RegsBut s t ([aoA 0x1C, aoA 0x20, aoA 0x24, (aoA 4)] ++ ([] : List Nat)) ∧
      { t with reports := s.reports, dieLogs := s.dieLogs, regs := s.regs, front := s.front } = s)
    ∧ (s.armedOn i.val = true ∧ 16 ≤ i.val ∧ (24 ≤ i.val ∧ i.val < 32 → s.sinMeets (i.val - 24) = true) ∧ s.aoState ≠ 1 ∧
      s.aoState ≠ 2 → Gives (.wakeCondition i) s fun t => t.rd (aoA 0x1C) = (if i.val < 32 then setBit (s.rd (aoA 0x1C))
      (i.val) true else s.rd (aoA 0x1C)) ∧ t.rd (aoA 0x20) = (if i.val < 32 then s.rd (aoA 0x20) else setBit (s.rd (aoA
      0x20)) (i.val - 32) true) ∧ t.rf (aoA 0x24) 5 0 = (if s.rd (aoA 0x1C) = 0 ∧ s.rd (aoA 0x20) = 0 then i.val else s.rf
      (aoA 0x24) 5 0) ∧ t.aoState = s.aoState ∧ t.front =
      { s.front with detOff := if s.pwr.phase = .asleep then [] else s.front.detOff } ∧ t.pwr = (if s.pwr.phase = .asleep
      then { s.pwr with phase := .start, fromSleep := true, failRail := none } else s.pwr) ∧ RegsBut s t ([aoA 0x1C, aoA
      0x20, aoA 0x24, (aoA 4)] ++ ([] : List Nat)) ∧ { t with regs := s.regs, front := s.front, pwr := s.pwr } = s)
    ∧ (s.armedOn i.val = true ∧ i.val < 16 ∧ (s.rb (swA i 0) 31 = false ∨ s.front.deaf.contains i.val = true) ∧ s.aoState = 1
      → Gives (.wakeCondition i) s fun t => t.rd (aoA 0x1C) = (if i.val < 32 then setBit (s.rd (aoA 0x1C)) (i.val) true else
      s.rd (aoA 0x1C)) ∧ t.rd (aoA 0x20) = (if i.val < 32 then s.rd (aoA 0x20) else setBit (s.rd (aoA 0x20)) (i.val - 32)
      true) ∧ t.rf (aoA 0x24) 5 0 = (if s.rd (aoA 0x1C) = 0 ∧ s.rd (aoA 0x20) = 0 then i.val else s.rf (aoA 0x24) 5 0) ∧
      t.rb (swA i 0x14) 29 = true ∧ t.rb (swA i 0x14) 30 = false ∧ t.rf (swA i 0x14) 5 0 = smGet (fun _ => 0) s.front.fec i
      % 64 ∧ t.aoState = 0 ∧ t.rb (aoA 4) 8 = true ∧ t.front = { s.front with armed := [] } ∧ ((s.link 2).up = true ∧
      s.logicOn = true → t.reports.length = s.reports.length + 1 ∧ (∀ r ∈ t.reports.drop s.reports.length, r.id = 0x5080 ∧
      r.src = 3 ∧ r.ctx0 = wd i.val)) ∧ RegsBut s t ([aoA 0x1C, aoA 0x20, aoA 0x24, (aoA 4)] ++ [swA i 0x14]) ∧
      { t with reports := s.reports, dieLogs := s.dieLogs, regs := s.regs, front := s.front } = s)
    ∧ (s.armedOn i.val = true ∧ i.val < 16 ∧ (s.rb (swA i 0) 31 = false ∨ s.front.deaf.contains i.val = true) ∧ s.aoState = 2
      → Gives (.wakeCondition i) s fun t => t.rd (aoA 0x1C) = (if i.val < 32 then setBit (s.rd (aoA 0x1C)) (i.val) true else
      s.rd (aoA 0x1C)) ∧ t.rd (aoA 0x20) = (if i.val < 32 then s.rd (aoA 0x20) else setBit (s.rd (aoA 0x20)) (i.val - 32)
      true) ∧ t.rf (aoA 0x24) 5 0 = (if s.rd (aoA 0x1C) = 0 ∧ s.rd (aoA 0x20) = 0 then i.val else s.rf (aoA 0x24) 5 0) ∧
      t.rb (swA i 0x14) 29 = true ∧ t.rb (swA i 0x14) 30 = false ∧ t.rf (swA i 0x14) 5 0 = smGet (fun _ => 0) s.front.fec i
      % 64 ∧ t.aoState = 2 ∧ t.front = { s.front with wakeLatched := true } ∧ ((s.link 2).up = true ∧ s.logicOn = true →
      t.reports.length = s.reports.length + 1 ∧ (∀ r ∈ t.reports.drop s.reports.length, r.id = 0xA004 ∧ r.src = 3 ∧ r.ctx0 =
      wd i.val)) ∧ RegsBut s t ([aoA 0x1C, aoA 0x20, aoA 0x24, (aoA 4)] ++ [swA i 0x14]) ∧
      { t with reports := s.reports, dieLogs := s.dieLogs, regs := s.regs, front := s.front } = s)
    ∧ (s.armedOn i.val = true ∧ i.val < 16 ∧ (s.rb (swA i 0) 31 = false ∨ s.front.deaf.contains i.val = true) ∧ s.aoState ≠ 1
      ∧ s.aoState ≠ 2 → Gives (.wakeCondition i) s fun t => t.rd (aoA 0x1C) = (if i.val < 32 then setBit (s.rd (aoA 0x1C))
      (i.val) true else s.rd (aoA 0x1C)) ∧ t.rd (aoA 0x20) = (if i.val < 32 then s.rd (aoA 0x20) else setBit (s.rd (aoA
      0x20)) (i.val - 32) true) ∧ t.rf (aoA 0x24) 5 0 = (if s.rd (aoA 0x1C) = 0 ∧ s.rd (aoA 0x20) = 0 then i.val else s.rf
      (aoA 0x24) 5 0) ∧ t.rb (swA i 0x14) 29 = true ∧ t.rb (swA i 0x14) 30 = false ∧ t.rf (swA i 0x14) 5 0 = smGet (fun _ =>
      0) s.front.fec i % 64 ∧ t.aoState = s.aoState ∧ t.front =
      { s.front with detOff := if s.pwr.phase = .asleep then [] else s.front.detOff } ∧ t.pwr = (if s.pwr.phase = .asleep
      then { s.pwr with phase := .start, fromSleep := true, failRail := none } else s.pwr) ∧ RegsBut s t ([aoA 0x1C, aoA
      0x20, aoA 0x24, (aoA 4)] ++ [swA i 0x14]) ∧ { t with regs := s.regs, front := s.front, pwr := s.pwr } = s)
    ∧ (s.armedOn i.val = true ∧ i.val < 16 ∧ s.rb (swA i 0) 31 = true ∧ s.front.deaf.contains i.val = false → Gives
      (.wakeCondition i) s fun t => t =
      { s with front := { s.front with decoding := if s.front.decoding.contains i.val then s.front.decoding else s.front.decoding ++ [i.val] } })
    ∧ (s.armedOn i.val = true ∧ 24 ≤ i.val ∧ i.val < 32 ∧ s.sinMeets (i.val - 24) = false → Gives (.wakeCondition i) s fun t
      => t = s)
    ∧ (s.armedOn n.val = true ∧ s.swDecodes n = true ∧ s.wakeMatches n f = true ∧ s.aoState = 1 → Gives (.canWakeFrame n f) s
      fun t => t.rd (aoA 0x1C) = (if n.val < 32 then setBit (s.rd (aoA 0x1C)) (n.val) true else s.rd (aoA 0x1C)) ∧ t.rd (aoA
      0x20) = (if n.val < 32 then s.rd (aoA 0x20) else setBit (s.rd (aoA 0x20)) (n.val - 32) true) ∧ t.rf (aoA 0x24) 5 0 =
      (if s.rd (aoA 0x1C) = 0 ∧ s.rd (aoA 0x20) = 0 then n.val else s.rf (aoA 0x24) 5 0) ∧ t.rb (swA n 0x14) 30 = true ∧
      t.rb (swA n 0x14) 29 = false ∧ t.rf (swA n 0x14) 5 0 = (smGet (fun _ => 0) s.front.fec n - 1) % 64 ∧ t.aoState = 0 ∧
      t.rb (aoA 4) 8 = true ∧ t.front =
      { { s.front with fec := smSet (fun _ => 0) s.front.fec n (smGet (fun _ => 0) s.front.fec n - 1) } with armed := [] } ∧
      ((s.link 2).up = true ∧ s.logicOn = true → t.reports.length = s.reports.length + 1 ∧ (∀ r ∈ t.reports.drop
      s.reports.length, r.id = 0x5080 ∧ r.src = 3 ∧ r.ctx0 = wd n.val)) ∧ RegsBut s t ([aoA 0x1C, aoA 0x20, aoA 0x24, (aoA
      4)] ++ [swA n 0x14]) ∧ { t with reports := s.reports, dieLogs := s.dieLogs, regs := s.regs, front := s.front } = s)
    ∧ (s.armedOn n.val = true ∧ s.swDecodes n = true ∧ s.wakeMatches n f = true ∧ s.aoState = 2 → Gives (.canWakeFrame n f) s
      fun t => t.rd (aoA 0x1C) = (if n.val < 32 then setBit (s.rd (aoA 0x1C)) (n.val) true else s.rd (aoA 0x1C)) ∧ t.rd (aoA
      0x20) = (if n.val < 32 then s.rd (aoA 0x20) else setBit (s.rd (aoA 0x20)) (n.val - 32) true) ∧ t.rf (aoA 0x24) 5 0 =
      (if s.rd (aoA 0x1C) = 0 ∧ s.rd (aoA 0x20) = 0 then n.val else s.rf (aoA 0x24) 5 0) ∧ t.rb (swA n 0x14) 30 = true ∧
      t.rb (swA n 0x14) 29 = false ∧ t.rf (swA n 0x14) 5 0 = (smGet (fun _ => 0) s.front.fec n - 1) % 64 ∧ t.aoState = 2 ∧
      t.front =
      { { s.front with fec := smSet (fun _ => 0) s.front.fec n (smGet (fun _ => 0) s.front.fec n - 1) } with wakeLatched := true }
      ∧ ((s.link 2).up = true ∧ s.logicOn = true → t.reports.length = s.reports.length + 1 ∧ (∀ r ∈ t.reports.drop
      s.reports.length, r.id = 0xA004 ∧ r.src = 3 ∧ r.ctx0 = wd n.val)) ∧ RegsBut s t ([aoA 0x1C, aoA 0x20, aoA 0x24, (aoA
      4)] ++ [swA n 0x14]) ∧ { t with reports := s.reports, dieLogs := s.dieLogs, regs := s.regs, front := s.front } = s)
    ∧ (s.armedOn n.val = true ∧ s.swDecodes n = true ∧ s.wakeMatches n f = true ∧ s.aoState ≠ 1 ∧ s.aoState ≠ 2 → Gives
      (.canWakeFrame n f) s fun t => t.rd (aoA 0x1C) = (if n.val < 32 then setBit (s.rd (aoA 0x1C)) (n.val) true else s.rd
      (aoA 0x1C)) ∧ t.rd (aoA 0x20) = (if n.val < 32 then s.rd (aoA 0x20) else setBit (s.rd (aoA 0x20)) (n.val - 32) true) ∧
      t.rf (aoA 0x24) 5 0 = (if s.rd (aoA 0x1C) = 0 ∧ s.rd (aoA 0x20) = 0 then n.val else s.rf (aoA 0x24) 5 0) ∧ t.rb (swA n
      0x14) 30 = true ∧ t.rb (swA n 0x14) 29 = false ∧ t.rf (swA n 0x14) 5 0 = (smGet (fun _ => 0) s.front.fec n - 1) % 64 ∧
      t.aoState = s.aoState ∧ t.front =
      { { s.front with fec := smSet (fun _ => 0) s.front.fec n (smGet (fun _ => 0) s.front.fec n - 1) } with detOff := if s.pwr.phase = .asleep then [] else s.front.detOff }
      ∧ t.pwr = (if s.pwr.phase = .asleep then { s.pwr with phase := .start, fromSleep := true, failRail := none } else
      s.pwr) ∧ RegsBut s t ([aoA 0x1C, aoA 0x20, aoA 0x24, (aoA 4)] ++ [swA n 0x14]) ∧
      { t with regs := s.regs, front := s.front, pwr := s.pwr } = s)
    ∧ (s.armedOn n.val = true ∧ s.swDecodes n = true ∧ s.wakeMatches n f = false → Gives (.canWakeFrame n f) s fun t => t = s)
    ∧ (s.armedOn n.val = true ∧ s.swDecodes n = true → Gives (.selectiveWakeFrameDecode n g) s fun t => smGet (fun _ => 0)
      t.front.fec n =
      (match g with | .correct _ => smGet (fun _ => 0) s.front.fec n - 1 | .errored => smGet (fun _ => 0) s.front.fec n + 1 | .fdOrXl => if s.rb (swA n 0) 30 then smGet (fun _ => 0) s.front.fec n else smGet (fun _ => 0) s.front.fec n + 1)
      ∧ (∀ j, j ≠ n.val → smGet (fun _ => 0) t.front.fec j = smGet (fun _ => 0) s.front.fec j) ∧
      { t.front with fec := s.front.fec } = s.front ∧ { t with front := s.front } = s)
    ∧ (s.armedOn n.val = true ∧ s.swDecodes n = true ∧ s.rf (swA n 0) 20 16 < smGet (fun _ => 0) s.front.fec n ∧ s.rb (swA n
      0) 29 = false → Gives (.canSwFecOverflow n) s fun t => t.rd (swA n 0x14) = setBit (s.rd (swA n 0x14)) 31 true ∧
      t.front = { s.front with deaf := s.front.deaf ++ [n.val] } ∧ ((s.link 2).up = true ∧ s.logicOn = true →
      t.reports.length = s.reports.length + 1 ∧ (∀ r ∈ t.reports.drop s.reports.length, r.id = 0x5081 ∧ r.src = 3 ∧ r.ctx0 =
      wd n.val)) ∧ RegsBut s t [swA n 0x14] ∧
      { t with reports := s.reports, dieLogs := s.dieLogs, regs := s.regs, front := s.front } = s)
    ∧ (s.armedOn n.val = true ∧ s.swDecodes n = true ∧ s.rf (swA n 0) 20 16 < smGet (fun _ => 0) s.front.fec n ∧ s.rb (swA n
      0) 29 = true → Gives (.canSwFecOverflow n) s fun t => t.rb (swA n 0x14) 31 = true ∧ t.rb (swA n 0x14) 30 = false ∧
      t.rb (swA n 0x14) 29 = false ∧ t.rf (swA n 0x14) 5 0 = smGet (fun _ => 0) s.front.fec n % 64 ∧ t.rd (aoA 0x1C) = (if
      n.val < 32 then setBit (s.rd (aoA 0x1C)) (n.val) true else s.rd (aoA 0x1C)) ∧ t.rd (aoA 0x20) = (if n.val < 32 then
      s.rd (aoA 0x20) else setBit (s.rd (aoA 0x20)) (n.val - 32) true) ∧ t.rf (aoA 0x24) 5 0 = (if s.rd (aoA 0x1C) = 0 ∧
      s.rd (aoA 0x20) = 0 then n.val else s.rf (aoA 0x24) 5 0) ∧ t.aoState = (if s.aoState = 1 then 0 else s.aoState) ∧
      (s.aoState = 2 → t.front.wakeLatched = true) ∧ t.pwr = (if s.aoState ≠ 1 ∧ s.aoState ≠ 2 ∧ s.pwr.phase = .asleep then
      { s.pwr with phase := .start, fromSleep := true, failRail := none } else s.pwr) ∧ RegsBut s t ([aoA 0x1C, aoA 0x20,
      aoA 0x24, (aoA 4)] ++ [swA n 0x14]) ∧
      { t with reports := s.reports, dieLogs := s.dieLogs, regs := s.regs, front := s.front, pwr := s.pwr } = s)
    ∧ (s.armedOn 44 = true ∧ s.aoState = 3 → Gives .wakeTimerExpiry s fun t => t.rd (aoA 0x1C) = (if 44 < 32 then setBit (s.rd
      (aoA 0x1C)) (44) true else s.rd (aoA 0x1C)) ∧ t.rd (aoA 0x20) = (if 44 < 32 then s.rd (aoA 0x20) else setBit (s.rd
      (aoA 0x20)) (44 - 32) true) ∧ t.rf (aoA 0x24) 5 0 = (if s.rd (aoA 0x1C) = 0 ∧ s.rd (aoA 0x20) = 0 then 44 else s.rf
      (aoA 0x24) 5 0) ∧ t.aoState = 3 ∧ t.front =
      { s.front with detOff := if s.pwr.phase = .asleep then [] else s.front.detOff } ∧ t.pwr = (if s.pwr.phase = .asleep
      then { s.pwr with phase := .start, fromSleep := true, failRail := none } else s.pwr) ∧ RegsBut s t ([aoA 0x1C, aoA
      0x20, aoA 0x24, (aoA 4)] ++ ([] : List Nat)) ∧ { t with regs := s.regs, front := s.front, pwr := s.pwr } = s)
    ∧ (s.aoState = 1 → Gives .pendWindowExpiry s fun t => t.front.linStandby = List.range 8 ∧ t.front.linSlept = some
      ((List.range 8).map s.linMode) ∧ t.pwr.phase = .sleepDrop .sys ∧ t.pwr.enIo = false ∧ t.pwr.enSys = s.pwr.enSys ∧
      t.pwr.enCore = s.pwr.enCore ∧ t.pwr.held = true ∧ t.pwr.holdRuns = false ∧ t.front.awakeRuns = false ∧
      t.front.failSafeRuns = false ∧ t.aoState = 2 ∧ (∀ j, j < 16 → t.rf (canA j 0x34) 2 0 = 0) ∧ t.front.armed =
      s.front.armed ∧ t.fuse = s.fuse)
    ∧ (s.pwr.phase = .dropped ∧ s.front.wakeLatched = false → Gives .sleepEntry s fun t => t.aoState = 3 ∧ t.rb (aoA 4) 9 =
      false ∧ t.pwr = { s.pwr with phase := .asleep } ∧ RegsBut s t [(aoA 4)] ∧ { t with regs := s.regs, pwr := s.pwr } = s)
    ∧ (s.pwr.phase = .dropped ∧ s.front.wakeLatched = true → Gives .wakePowerUpDelay s fun t => t.front =
      { s.front with wakeLatched := false, detOff := [] } ∧ t.rd (aoA 4) = setBit (s.rd (aoA 4)) 9 false ∧ t.pwr =
      { s.pwr with phase := .start, fromSleep := true } ∧ RegsBut s t [(aoA 4)] ∧
      { t with regs := s.regs, pwr := s.pwr, front := s.front } = s)
    ∧ (s.front.awakeRuns = true ∧ s.front.awakeLeft = 0 → Gives (.awakeTimerExpiry x y) s fun t => t.rd (aoA 0x2C) = wd
      (y.toNat * 65536 + x.toNat) ∧ t.rd (aoA 4) = setBit (s.rd (aoA 4)) 9 true ∧ t.front =
      { s.front with awakeRuns := false, failSafeRuns := true } ∧ ((s.link 2).up = true ∧ s.logicOn = true →
      t.reports.length = s.reports.length + 1 ∧ (∀ r ∈ t.reports.drop s.reports.length, r.id = 0xA001 ∧ r.src = 3 ∧ r.ctx0 =
      wd 0)) ∧ RegsBut s t [aoA 0x2C, (aoA 4)] ∧
      { t with reports := s.reports, dieLogs := s.dieLogs, regs := s.regs, front := s.front } = s)
    ∧ (s.front.failSafeRuns = true → Gives (.failSafeTimerExpiry) s fun t => t.front.linStandby = List.range 8 ∧
      t.front.linSlept = some ((List.range 8).map s.linMode) ∧ t.pwr.phase = .sleepDrop .sys ∧ t.pwr.enIo = false ∧
      t.pwr.enSys = s.pwr.enSys ∧ t.pwr.enCore = s.pwr.enCore ∧ t.pwr.held = true ∧ t.pwr.holdRuns = false ∧
      t.front.awakeRuns = false ∧ t.front.failSafeRuns = false ∧ t.aoState = 2 ∧ (∀ j, j < 16 → t.rf (canA j 0x34) 2 0 = 0)
      ∧ t.front.forced = true ∧ t.front.armed = s.enabledSources ∧ t.front.detOff = (List.range 24).filter (fun j => bit
      (s.rd (aoA 0x2C)) j && !(j < 16 && s.rb (swA j 0) 31 && s.wkEn j)) ∧ t.rb (aoA 4) 10 = true ∧ t.rf (aoA 4) 23 16 = min
      (s.rf (aoA 4) 23 16 + 1) 255 ∧ t.fuse = s.fuse)

/-- A frame that arrives is dropped and counted outside its VLAN or without destination (R427, R433), admitted to its class
  queue, cut through, or refused and counted (R435, R438); a MACsec port that validates decides at the tail (R454). A good
  tail counts the frame and queues it, a bad one is counted and drops it, or marks the frame it was cut through to with
  fault 0x6005 (R437, R440, R441, R442). An idle port sends the head of its highest class, drops one too long for it, and
  counts what it has sent (R444). Host queues, tunnels and host sources deliver and take one frame at a time (R424, R425,
  R345). -/
def Obligations.SwitchFrames : Prop :=
  ∀ (s : State) (p : Fin 15) (b : List Byte) (x : BitVec 4) (q c : Nat) (f : EFrame) (r : List EFrame) (y : EthSend) (z : EthRx) (k : Fin 32) (h : HostRx) (m : Frame) (l : List HostRx) (u : EthTail),
    (s.logicOn = true ∧ s.accepts 5 = true ∧ s.rb eswBase 31 = true ∧ s.rb (portA p 0) 31 = true ∧ s.linkUp p = true ∧
      (s.port p).rx = none ∧ 60 ≤ b.length → Gives (.ethFrameIngress p b x) s fun t => ((t.port p).rx.map fun (z : EthRx) =>
      (z.raw, z.f.ingress, z.f.time, z.f.sub)) = some (b, p.val, (State.stampAt p s.now x.toNat (s.rd (tsA p 4))).1,
      (State.stampAt p s.now x.toNat (s.rd (tsA p 4))).2) ∧ t.harts = s.harts ∧ t.cans = s.cans ∧ t.links = s.links ∧
      t.logicOn = s.logicOn)
    ∧ (s.logicOn = true ∧ s.accepts 5 = true ∧ s.rb eswBase 31 = true ∧ s.rb (portA p 0) 31 = true ∧ s.linkUp p = true ∧
      (s.port p).rx = none ∧ 60 ≤ b.length ∧ msOf p = none ∧ s.vlanOk (s.parse p b (State.stampAt p s.now x.toNat (s.rd (tsA
      p 4))).1 (State.stampAt p s.now x.toNat (s.rd (tsA p 4))).2).1 (s.parse p b (State.stampAt p s.now x.toNat (s.rd (tsA
      p 4))).1 (State.stampAt p s.now x.toNat (s.rd (tsA p 4))).2).2 = false → Gives (.ethFrameIngress p b x) s fun t =>
      (t.port p).rx = some
      { f := (s.parse p b (State.stampAt p s.now x.toNat (s.rd (tsA p 4))).1 (State.stampAt p s.now x.toNat (s.rd (tsA p 4))).2).1, raw := b, since := s.ticks }
      ∧ { t.port p with rx := none, cnt := (s.port p).cnt } = s.port p ∧ PortCounts s t p [(0x38, 1)] ∧ PortsBut s t [p] ∧
      t.esw.nextUid = s.esw.nextUid + 1 ∧ OnlyPorts s t ∧ OnlyEsw s t)
    ∧ (s.logicOn = true ∧ s.accepts 5 = true ∧ s.rb eswBase 31 = true ∧ s.rb (portA p 0) 31 = true ∧ s.linkUp p = true ∧
      (s.port p).rx = none ∧ 60 ≤ b.length ∧ msOf p = none ∧ s.vlanOk (s.parse p b (State.stampAt p s.now x.toNat (s.rd (tsA
      p 4))).1 (State.stampAt p s.now x.toNat (s.rd (tsA p 4))).2).1 (s.parse p b (State.stampAt p s.now x.toNat (s.rd (tsA
      p 4))).1 (State.stampAt p s.now x.toNat (s.rd (tsA p 4))).2).2 = true ∧ s.rb (esA 0) 28 = false ∧ s.destSet (s.parse p
      b (State.stampAt p s.now x.toNat (s.rd (tsA p 4))).1 (State.stampAt p s.now x.toNat (s.rd (tsA p 4))).2).1 = [] →
      Gives (.ethFrameIngress p b x) s fun t => (t.port p).rx = some
      { f := (s.parse p b (State.stampAt p s.now x.toNat (s.rd (tsA p 4))).1 (State.stampAt p s.now x.toNat (s.rd (tsA p 4))).2).1, raw := b, since := s.ticks }
      ∧ { t.port p with rx := none, cnt := (s.port p).cnt } = s.port p ∧ PortCounts s t p [(0x50, 1)] ∧ PortsBut s t [p] ∧
      t.esw.nextUid = s.esw.nextUid + 1 ∧ OnlyPorts s t ∧ OnlyEsw s t)
    ∧ (s.logicOn = true ∧ s.accepts 5 = true ∧ s.rb eswBase 31 = true ∧ s.rb (portA p 0) 31 = true ∧ s.linkUp p = true ∧
      (s.port p).rx = none ∧ 60 ≤ b.length ∧ msOf p = none ∧ s.vlanOk (s.parse p b (State.stampAt p s.now x.toNat (s.rd (tsA
      p 4))).1 (State.stampAt p s.now x.toNat (s.rd (tsA p 4))).2).1 (s.parse p b (State.stampAt p s.now x.toNat (s.rd (tsA
      p 4))).1 (State.stampAt p s.now x.toNat (s.rd (tsA p 4))).2).2 = true ∧ s.rb (esA 0) 28 = false ∧ s.destSet (s.parse p
      b (State.stampAt p s.now x.toNat (s.rd (tsA p 4))).1 (State.stampAt p s.now x.toNat (s.rd (tsA p 4))).2).1 = [q] ∧ q ≠
      15 ∧ s.classOf (s.parse p b (State.stampAt p s.now x.toNat (s.rd (tsA p 4))).1 (State.stampAt p s.now x.toNat (s.rd
      (tsA p 4))).2).1 = c ∧ s.cutOk (s.parse p b (State.stampAt p s.now x.toNat (s.rd (tsA p 4))).1 (State.stampAt p s.now
      x.toNat (s.rd (tsA p 4))).2).1 q c = false ∧ s.admits q c (s.alpha q c) = true → Gives (.ethFrameIngress p b x) s fun
      t => (t.port p).rx = some
      { f := (s.parse p b (State.stampAt p s.now x.toNat (s.rd (tsA p 4))).1 (State.stampAt p s.now x.toNat (s.rd (tsA p 4))).2).1, raw := b, since := s.ticks, admitted := [(q, c)] }
      ∧ { t.port p with rx := none, cnt := (s.port p).cnt } = s.port p ∧ PortCounts s t p [] ∧ PortsBut s t [p] ∧
      t.esw.nextUid = s.esw.nextUid + 1 ∧ OnlyPorts s t ∧ OnlyEsw s t)
    ∧ (s.logicOn = true ∧ s.accepts 5 = true ∧ s.rb eswBase 31 = true ∧ s.rb (portA p 0) 31 = true ∧ s.linkUp p = true ∧
      (s.port p).rx = none ∧ 60 ≤ b.length ∧ msOf p = none ∧ s.vlanOk (s.parse p b (State.stampAt p s.now x.toNat (s.rd (tsA
      p 4))).1 (State.stampAt p s.now x.toNat (s.rd (tsA p 4))).2).1 (s.parse p b (State.stampAt p s.now x.toNat (s.rd (tsA
      p 4))).1 (State.stampAt p s.now x.toNat (s.rd (tsA p 4))).2).2 = true ∧ s.rb (esA 0) 28 = false ∧ s.destSet (s.parse p
      b (State.stampAt p s.now x.toNat (s.rd (tsA p 4))).1 (State.stampAt p s.now x.toNat (s.rd (tsA p 4))).2).1 = [q] ∧ q ≠
      15 ∧ q ≠ p.val ∧ s.classOf (s.parse p b (State.stampAt p s.now x.toNat (s.rd (tsA p 4))).1 (State.stampAt p s.now
      x.toNat (s.rd (tsA p 4))).2).1 = c ∧ s.cutOk (s.parse p b (State.stampAt p s.now x.toNat (s.rd (tsA p 4))).1
      (State.stampAt p s.now x.toNat (s.rd (tsA p 4))).2).1 q c = true ∧ s.msTx q (s.parse p b (State.stampAt p s.now
      x.toNat (s.rd (tsA p 4))).1 (State.stampAt p s.now x.toNat (s.rd (tsA p 4))).2).1 (s.wireOf (s.parse p b
      (State.stampAt p s.now x.toNat (s.rd (tsA p 4))).1 (State.stampAt p s.now x.toNat (s.rd (tsA p 4))).2).1 q) = .plain →
      Gives (.ethFrameIngress p b x) s fun t => (t.port p).rx = some
      { f := (s.parse p b (State.stampAt p s.now x.toNat (s.rd (tsA p 4))).1 (State.stampAt p s.now x.toNat (s.rd (tsA p 4))).2).1, raw := b, since := s.ticks, cut := [q] }
      ∧ { t.port p with rx := none, cnt := (s.port p).cnt } = s.port p ∧ PortCounts s t p [] ∧ t.port q =
      { s.port q with sending := some { f := (s.parse p b (State.stampAt p s.now x.toNat (s.rd (tsA p 4))).1 (State.stampAt p s.now x.toNat (s.rd (tsA p 4))).2).1, cls := c, wire := s.wireOf (s.parse p b (State.stampAt p s.now x.toNat (s.rd (tsA p 4))).1 (State.stampAt p s.now x.toNat (s.rd (tsA p 4))).2).1 q, thru := true, open_ := true, at_ := s.now } }
      ∧ PortsBut s t [p, q] ∧ t.esw.nextUid = s.esw.nextUid + 1 ∧ OnlyPorts s t ∧ OnlyEsw s t)
    ∧ (s.logicOn = true ∧ s.accepts 5 = true ∧ s.rb eswBase 31 = true ∧ s.rb (portA p 0) 31 = true ∧ s.linkUp p = true ∧
      (s.port p).rx = none ∧ 60 ≤ b.length ∧ msOf p = none ∧ s.vlanOk (s.parse p b (State.stampAt p s.now x.toNat (s.rd (tsA
      p 4))).1 (State.stampAt p s.now x.toNat (s.rd (tsA p 4))).2).1 (s.parse p b (State.stampAt p s.now x.toNat (s.rd (tsA
      p 4))).1 (State.stampAt p s.now x.toNat (s.rd (tsA p 4))).2).2 = true ∧ s.rb (esA 0) 28 = false ∧ s.destSet (s.parse p
      b (State.stampAt p s.now x.toNat (s.rd (tsA p 4))).1 (State.stampAt p s.now x.toNat (s.rd (tsA p 4))).2).1 = [q] ∧ q ≠
      15 ∧ q ≠ p.val ∧ s.classOf (s.parse p b (State.stampAt p s.now x.toNat (s.rd (tsA p 4))).1 (State.stampAt p s.now
      x.toNat (s.rd (tsA p 4))).2).1 = c ∧ s.cutOk (s.parse p b (State.stampAt p s.now x.toNat (s.rd (tsA p 4))).1
      (State.stampAt p s.now x.toNat (s.rd (tsA p 4))).2).1 q c = false ∧ s.admits q c (s.alpha q c) = false ∧ (s.parse p b
      (State.stampAt p s.now x.toNat (s.rd (tsA p 4))).1 (State.stampAt p s.now x.toNat (s.rd (tsA p 4))).2).1.ptp = none →
      Gives (.ethFrameIngress p b x) s fun t => (t.port p).rx = some
      { f := (s.parse p b (State.stampAt p s.now x.toNat (s.rd (tsA p 4))).1 (State.stampAt p s.now x.toNat (s.rd (tsA p 4))).2).1, raw := b, since := s.ticks }
      ∧ { t.port p with rx := none, cnt := (s.port p).cnt } = s.port p ∧ PortCounts s t p [] ∧ PortCounts s t q [(0x78, 1)]
      ∧ { t.port q with cnt := (s.port q).cnt, said := (s.port q).said } = s.port q ∧ PortsBut s t [p, q] ∧ t.esw.nextUid =
      s.esw.nextUid + 1 ∧ OnlyPorts s t ∧ { t with esw := s.esw, reports := s.reports } = s)
    ∧ (s.logicOn = true ∧ s.accepts 5 = true ∧ s.rb eswBase 31 = true ∧ s.rb (portA p 0) 31 = true ∧ s.linkUp p = true ∧
      (s.port p).rx = none ∧ 60 ≤ b.length ∧ (∃ i ∈ (msOf p).toList, s.msEn i = true ∧ s.msValidate i ≠ 0) → Gives
      (.ethFrameIngress p b x) s fun t => t.port p =
      { s.port p with rx := some { f := { ingress := p, time := (State.stampAt p s.now x.toNat (s.rd (tsA p 4))).1, sub := (State.stampAt p s.now x.toNat (s.rd (tsA p 4))).2, size := b.length + 4 }, raw := b, later := true, since := s.ticks } }
      ∧ PortsBut s t [p] ∧ OnlyPorts s t ∧ t.esw.nextUid = s.esw.nextUid ∧ OnlyEsw s t)
    ∧ ((s.port p).rx = some z ∧ s.logicOn = true ∧ s.accepts 5 = true → Gives (.ethFrameTail p u) s fun t => (t.port p).rx =
      none)
    ∧ ((s.port p).rx = some z ∧ s.logicOn = true ∧ s.accepts 5 = true ∧ z.f.ingress = p.val ∧ p.val ∉ z.cut ∧ u ≠ .good →
      Gives (.ethFrameTail p u) s fun t => (t.port p).rx = none ∧ PortCounts s t p
      ((match u with | .fcs => [(0x10, 1)] | .phy => [(0x18, 1)] | .marked => [(0x20, 1)] | .ecc => if z.cut = [] then [] else [(0x10, 1)] | .good => [])
      ++ (if s.maxFrame p < z.raw.length + 4 then [(0x28, 1)] else [])) ∧ (∀ q, q ∉ p.val :: z.cut → q ≠ p.val →
      { t.port q with txts := (s.port q).txts, said := (s.port q).said, cnt := (s.port q).cnt } = s.port q))
    ∧ ((s.port p).rx = some z ∧ s.logicOn = true ∧ s.accepts 5 = true ∧ z.f.ingress = p.val ∧ z.admitted = [] ∧ z.cut = [] →
      Gives (.ethFrameTail p .fcs) s fun t => (t.port p).rx = none ∧ { t.port p with rx := some z, cnt := (s.port p).cnt } =
      s.port p ∧ PortCounts s t p [(0x10, 1)] ∧ PortsBut s t [p] ∧ OnlyPorts s t ∧ OnlyEsw s t)
    ∧ ((s.port p).rx = some z ∧ s.logicOn = true ∧ s.accepts 5 = true ∧ z.f.ingress = p.val ∧ z.admitted = [] ∧ z.cut = [] →
      Gives (.ethFrameTail p .phy) s fun t => (t.port p).rx = none ∧ { t.port p with rx := some z, cnt := (s.port p).cnt } =
      s.port p ∧ PortCounts s t p [(0x18, 1)] ∧ PortsBut s t [p] ∧ OnlyPorts s t ∧ OnlyEsw s t)
    ∧ ((s.port p).rx = some z ∧ s.logicOn = true ∧ s.accepts 5 = true ∧ z.f.ingress = p.val ∧ z.admitted = [] ∧ z.cut = [] →
      Gives (.ethFrameTail p .marked) s fun t => (t.port p).rx = none ∧
      { t.port p with rx := some z, cnt := (s.port p).cnt } = s.port p ∧ PortCounts s t p [(0x20, 1)] ∧ PortsBut s t [p] ∧
      OnlyPorts s t ∧ OnlyEsw s t)
    ∧ ((s.port p).rx = some z ∧ s.logicOn = true ∧ s.accepts 5 = true ∧ z.f.ingress = p.val ∧ z.admitted = [(q, c)] ∧ q ≠ 15 ∧
      z.cut = [] ∧ z.f.ptp = none → Gives (.ethFrameTail p .ecc) s fun t => (t.port p).rx = none ∧
      { t.port p with rx := some z } = s.port p ∧ PortsBut s t [p] ∧ OnlyPorts s t ∧ Reported s t [(0x600D, p.val, 0)] ∧
      { t with esw := s.esw, reports := s.reports } = s)
    ∧ ((s.port p).rx = some z ∧ s.logicOn = true ∧ s.accepts 5 = true ∧ z.f.ingress = p.val ∧ (msOf p = none ∨ z.later =
      false) ∧ p.val ∉ z.cut ∧ s.maxFrame p < (z.raw.length + 4) → Gives (.ethFrameTail p .good) s fun t => (t.port p).rx =
      none ∧ PortCounts s t p [(0, (z.raw.length + 4)), (8, 1), (0x28, 1)] ∧ (∀ j k, t.queue j k = s.queue j k))
    ∧ ((s.port p).rx = some z ∧ s.logicOn = true ∧ s.accepts 5 = true ∧ z.f.ingress = p.val ∧ (msOf p = none ∨ z.later =
      false) ∧ p.val ∉ z.cut ∧ (z.raw.length + 4) ≤ s.maxFrame p → Gives (.ethFrameTail p .good) s fun t => (t.port p).rx =
      none ∧ (((∀ k ∈ z.admitted, z.f ∈ t.queue k.1 k.2) ∧ PortCounts s t p [(0, (z.raw.length + 4)), (8, 1)] ∧ (∀ q ∈
      z.cut, ∀ y ∈ (s.port q).sending.toList, (t.port q).sending = some { y with open_ := false })) ∨ (z.admitted.all (fun k
      => (t.queue k.1 k.2).length == (s.queue k.1 k.2).length) = true ∧ PortCounts s t p [(0, (z.raw.length + 4)), (8, 1),
      (0x30, 1)])))
    ∧ ((s.port p).rx = some z ∧ s.logicOn = true ∧ s.accepts 5 = true ∧ z.f.ingress = p.val ∧ msOf p = none ∧ (z.raw.length +
      4) ≤ s.maxFrame p ∧ s.rb (portA p 0) 29 = false ∧ z.admitted = [(q, c)] ∧ q ≠ p.val ∧ z.cut = [] ∧ (s.setQueue q c
      (s.queue q c ++ [z.f])).poolUsed ≤ 32768 → Gives (.ethFrameTail p .good) s fun t => (t.port p).rx = none ∧
      { t.port p with rx := some z, cnt := (s.port p).cnt } = s.port p ∧ PortCounts s t p [(0, (z.raw.length + 4)), (8, 1)]
      ∧ Queued s t q c z.f ∧ { t.port q with queues := (s.port q).queues } = s.port q ∧ PortsBut s t [p, q] ∧ OnlyPorts s t
      ∧ OnlyEsw s t)
    ∧ ((s.port p).rx = some z ∧ s.logicOn = true ∧ s.accepts 5 = true ∧ z.f.ingress = p.val ∧ z.admitted = [] ∧ z.cut = [q] ∧
      q ≠ p.val ∧ (s.port q).sending = some y ∧ y.open_ = true ∧ smGet (fun _ => 0) (s.port q).said 0x6005 = 0 → Gives
      (.ethFrameTail p .fcs) s fun t => (t.port p).rx = none ∧ PortCounts s t p [(0x10, 1)] ∧ (t.port q).sending = some
      { y with wire := y.wire.take 9216, open_ := false, marked := true } ∧ PortCounts s t q [(0x70, 1)] ∧ Reported s t
      [(0x6005, q % 2 ^ 32, 0)] ∧ { t.port q with sending := some y, cnt := (s.port q).cnt, said := (s.port q).said } =
      s.port q ∧ PortsBut s t [p, q] ∧ OnlyPorts s t ∧ { t with esw := s.esw, reports := s.reports } = s)
    ∧ ((s.port p).rx = some z ∧ s.logicOn = true ∧ s.accepts 5 = true ∧ z.f.ingress = p.val ∧ msOf p = none ∧ (z.raw.length +
      4) ≤ s.maxFrame p ∧ s.rb (portA p 0) 29 = false ∧ z.admitted = [] ∧ z.cut = [q] ∧ q ≠ p.val ∧ (s.port q).sending =
      some y ∧ y.open_ = true → Gives (.ethFrameTail p .good) s fun t => (t.port p).rx = none ∧ PortCounts s t p [(0,
      (z.raw.length + 4)), (8, 1)] ∧ t.port q = { s.port q with sending := some { y with open_ := false } } ∧ PortsBut s t
      [p, q] ∧ OnlyPorts s t ∧ OnlyEsw s t)
    ∧ (s.logicOn = true ∧ s.accepts 5 = true ∧ s.linkUp p = true ∧ (s.port p).sending = none ∧ s.plcaMute p = false → Gives
      (.ethTransmitSelect p) s fun t => (∀ y ∈ (t.port p).sending.toList, y.cls < 8 ∧ (s.queue p y.cls).head? = some y.f ∧
      t.queue p y.cls = (s.queue p y.cls).drop 1 ∧ y.open_ = false ∧ y.thru = false ∧ y.at_ = s.now) ∧ (∀ j, t.queue p j =
      s.queue p j ∨ t.queue p j = (s.queue p j).drop 1) ∧ (∀ q, q ≠ p.val → (t.port q).queues = (s.port q).queues ∧ (t.port
      q).sending = (s.port q).sending ∧ (t.port q).rx = (s.port q).rx) ∧ (t.port p).rx = (s.port p).rx ∧ t.harts = s.harts ∧
      t.links = s.links)
    ∧ (s.logicOn = true ∧ s.accepts 5 = true ∧ s.linkUp p = true ∧ (s.port p).sending = none ∧ s.plcaMute p = false ∧ (∀ j, j
      < 8 → s.cbsOn p j = false) ∧ c < 8 ∧ (∀ j, j < 8 → c < j → s.queue p j = []) ∧ s.queue p c = f :: r ∧ s.tasOn p =
      false ∧ ((s.wireOf f p).length + 4) ≤ s.maxFrame p ∧ s.msTx p f (s.wireOf f p) = .plain → Gives (.ethTransmitSelect p)
      s fun t => (t.port p).sending = some { f := f, cls := c, wire := s.wireOf f p, at_ := s.now } ∧ t.queue p c = r ∧ (∀
      j, j ≠ c → t.queue p j = s.queue p j) ∧ { t.port p with sending := none, queues := (s.port p).queues } = s.port p ∧
      PortsBut s t [p] ∧ OnlyPorts s t ∧ OnlyEsw s t)
    ∧ (s.logicOn = true ∧ s.accepts 5 = true ∧ s.linkUp p = true ∧ (s.port p).sending = none ∧ s.plcaMute p = false ∧ (∀ j, j
      < 8 → s.cbsOn p j = false) ∧ c < 8 ∧ (∀ j, j < 8 → c < j → s.queue p j = []) ∧ s.queue p c = f :: r ∧ s.tasOn p =
      false ∧ s.maxFrame p < ((s.wireOf f p).length + 4) ∧ s.msTx p f (s.wireOf f p) = .plain ∧ f.ptp = none → Gives
      (.ethTransmitSelect p) s fun t => (t.port p).sending = none ∧ t.queue p c = r ∧ (∀ j, j ≠ c → t.queue p j = s.queue p
      j) ∧ PortCounts s t p [(0x90, 1)] ∧ { t.port p with queues := (s.port p).queues, cnt := (s.port p).cnt } = s.port p ∧
      PortsBut s t [p] ∧ OnlyPorts s t ∧ OnlyEsw s t)
    ∧ (s.logicOn = true ∧ s.accepts 5 = true ∧ s.linkUp p = true ∧ (s.port p).sending = none ∧ s.plcaMute p = false ∧ (∀ j, j
      < 8 → s.cbsOn p j = false) ∧ (∀ j, j < 8 → s.queue p j = []) → Gives (.ethTransmitSelect p) s fun t => t = s)
    ∧ ((s.port p).sending = some y ∧ s.logicOn = true ∧ s.accepts 5 = true ∧ y.open_ = false → Gives (.ethTxComplete p x) s
      fun t => (t.port p).sending = none ∧ (t.port p).lastTx = some (y.wire, y.marked) ∧ PortCounts s t p ([(0x58,
      y.wire.length + 4)] ++ (if y.marked then [] else [(0x60, 1)]) ++ if y.thru then [(0x68, 1)] else []) ∧
      { t.port p with sending := some y, lastTx := (s.port p).lastTx, cnt := (s.port p).cnt, credit := (s.port p).credit, creditAt := (s.port p).creditAt, txts := (s.port p).txts, said := (s.port p).said }
      = s.port p ∧ PortsBut s t [p])
    ∧ ((s.port p).sending = some y ∧ s.logicOn = true ∧ s.accepts 5 = true ∧ y.open_ = false ∧ s.cbsOn p y.cls = false ∧
      y.f.ptp = none → Gives (.ethTxComplete p x) s fun t => (t.port p).sending = none ∧ (t.port p).lastTx = some (y.wire,
      y.marked) ∧ PortCounts s t p ([(0x58, y.wire.length + 4)] ++ (if y.marked then [] else [(0x60, 1)]) ++ if y.thru then
      [(0x68, 1)] else []) ∧ { t.port p with sending := some y, lastTx := (s.port p).lastTx, cnt := (s.port p).cnt } =
      s.port p ∧ PortsBut s t [p] ∧ OnlyPorts s t ∧ OnlyEsw s t)
    ∧ (s.logicOn = true ∧ s.accepts 5 = true ∧ c < 8 ∧ s.cbsOn p c = true ∧ s.queue p c ≠ [] ∧ (s.port p).sending = none ∧ 0 ≤
      s.creditNow p c → Gives (.cbsCreditZero p (Fin.ofNat 8 c)) s fun t => smGet (fun _ => (0 : Int)) (t.port p).credit c =
      s.creditNow p c ∧ smGet (fun _ => 0) (t.port p).creditAt c = s.ticks ∧
      { t.port p with credit := (s.port p).credit, creditAt := (s.port p).creditAt } = s.port p ∧ (∀ j, j ≠ c → smGet (fun _
      => (0 : Int)) (t.port p).credit j = smGet (fun _ => (0 : Int)) (s.port p).credit j) ∧ PortsBut s t [p] ∧ OnlyPorts s t
      ∧ OnlyEsw s t)
    ∧ (s.logicOn = true ∧ s.accepts 5 = true ∧ ((((s.port 15).queues.filter fun (q : Nat × List EFrame) => !q.2.isEmpty).map
      (·.1)).find? (fun k => decide (s.esw.hostRr < k)) <|> (((s.port 15).queues.filter fun (q : Nat × List EFrame) =>
      !q.2.isEmpty).map (·.1)).head?) = some c ∧ s.queue 15 c = f :: r → Gives .hostPortDelivery s fun t => t.queue 15 c = r
      ∧ (∀ j, j ≠ c → t.queue 15 j = s.queue 15 j) ∧ t.esw.hostRr = c ∧ (c = 0x80 → t.esw.pairIn = s.esw.pairIn ++ ([⟨f.da
      ++ f.sa ++ f.rest, f.time, f.sub, f.ingress⟩] : List HostRx)) ∧ (0x100 ≤ c ∧ c < 0x120 → (smGet (fun _ => [])
      t.esw.tunIn (c - 0x100)).getLast? = some ⟨(afterTags 4 f.rest).drop 2, f.time, f.sub, f.ingress⟩ ∧ (smGet (fun _ =>
      []) t.esw.tunIn (c - 0x100)).length = (smGet (fun _ => []) s.esw.tunIn (c - 0x100)).length + 1) ∧ (0x400 ≤ c ∧
      (s.wireOf f 15).length ≤ 2048 → t.rxq (c - 0x400) = s.rxq (c - 0x400) ++ [s.hostFrame f]) ∧ (0x200 ≤ c ∧ 2048 <
      (s.wireOf f 15).length → cntOf t f.ingress 0x48 = (cntOf s f.ingress 0x48 + 1) % 2 ^ 64) ∧ (∀ q, q ≠ 15 → q ≠
      f.ingress → t.port q = s.port q))
    ∧ (s.logicOn = true ∧ s.accepts 5 = true ∧ (s.port 15).queues = [(c, f :: r)] ∧ 0x400 ≤ c ∧ (s.wireOf f 15).length ≤ 2048
      → Gives .hostPortDelivery s fun t => t.queue 15 c = r ∧ t.rxq (c - 0x400) = s.rxq (c - 0x400) ++ [s.hostFrame f] ∧ (∀
      j, j ≠ c - 0x400 → t.rxq j = s.rxq j) ∧ t.esw.hostRr = c ∧ PortsBut s t [15] ∧
      { t.port 15 with queues := (s.port 15).queues } = s.port 15 ∧
      { t.esw with ports := s.esw.ports, rxq := s.esw.rxq, hostRr := s.esw.hostRr } = s.esw ∧ OnlyEsw s t)
    ∧ (s.logicOn = true ∧ s.accepts 5 = true ∧ (s.port 15).queues = [(c, f :: r)] ∧ c = 0x80 → Gives .hostPortDelivery s fun t
      => t.queue 15 c = r ∧ t.esw.pairIn = s.esw.pairIn ++ [⟨f.da ++ f.sa ++ f.rest, f.time, f.sub, f.ingress⟩] ∧
      t.esw.hostRr = c ∧ PortsBut s t [15] ∧ { t.port 15 with queues := (s.port 15).queues } = s.port 15 ∧
      { t.esw with ports := s.esw.ports, pairIn := s.esw.pairIn, hostRr := s.esw.hostRr } = s.esw ∧ OnlyEsw s t)
    ∧ (smGet (fun _ => []) s.esw.tunIn k = h :: l ∧ s.accepts 4 = true ∧ s.logicOn = true → Gives (.tunnelPduReceive k) s fun
      t => smGet (fun _ => []) t.esw.tunIn k = l ∧ (∀ j, j ≠ k.val → smGet (fun _ => []) t.esw.tunIn j = smGet (fun _ => [])
      s.esw.tunIn j) ∧ t.rxTun k = { prevSeq := some (byteAt h.bytes 3).toNat } ∧ (∀ j, j ≠ k.val → t.rxTun j = s.rxTun j) ∧
      (t.rd (clA 0x54)).toNat = (if (s.rxTun k).prevSeq.any (fun v => (byteAt h.bytes 3).toNat != (v + 1) % 256) then min
      ((s.rd (clA 0x54)).toNat + 1) (2 ^ 32 - 1) else (s.rd (clA 0x54)).toNat) ∧ t.links = s.links ∧ t.esw.ports =
      s.esw.ports)
    ∧ (smGet (fun _ => []) s.esw.tunIn k = [h] ∧ s.accepts 4 = true ∧ s.logicOn = true ∧ (∀ v ∈ (s.rxTun k).prevSeq.toList,
      (byteAt h.bytes 3).toNat = (v + 1) % 256) ∧ (beNat (slice h.bytes 1 2) % 2048) = 0 → Gives (.tunnelPduReceive k) s fun
      t => { t.clr with rxTun := s.clr.rxTun } = s.clr ∧ (∀ j, j ≠ k.val → t.rxTun j = s.rxTun j) ∧ t.rxTun k =
      { prevSeq := some (byteAt h.bytes 3).toNat } ∧ smGet (fun _ => []) t.esw.tunIn k = [] ∧ (∀ j, j ≠ k.val → smGet (fun _
      => []) t.esw.tunIn j = smGet (fun _ => []) s.esw.tunIn j) ∧ { t with esw := s.esw, clr := s.clr } = s ∧
      { t.esw with tunIn := s.esw.tunIn } = s.esw)
    ∧ (smGet (fun _ => []) s.esw.tunIn k = [h] ∧ s.accepts 4 = true ∧ s.logicOn = true ∧ (∀ v ∈ (s.rxTun k).prevSeq.toList,
      (byteAt h.bytes 3).toNat = (v + 1) % 256) ∧ ((h.bytes.drop 12).take (beNat (slice h.bytes 1 2) % 2048)) ≠ [] ∧
      ((h.bytes.drop 12).take (beNat (slice h.bytes 1 2) % 2048)).length = beNat (((h.bytes.drop 12).take (beNat (slice
      h.bytes 1 2) % 2048)).take 2) % 512 * 4 ∧ s.acfFrame k ((h.bytes.drop 12).take (beNat (slice h.bytes 1 2) % 2048))
      ⟨h.time, h.sub, h.ingress⟩ = some m ∧ s.rb (clA 0xC) 31 = false ∧ s.rb (clA 0) 0 = false ∧ s.rb (clA (0x800 + k *
      0x10)) 29 = true ∧ s.eqRoom (s.rf (clA (0x800 + k * 0x10)) 19 16) = true → Gives (.tunnelPduReceive k) s fun t =>
      { t.clr with rxTun := s.clr.rxTun } = s.clr ∧ (∀ j, j ≠ k.val → t.rxTun j = s.rxTun j) ∧ t.rxTun k =
      { prevSeq := some (byteAt h.bytes 3).toNat } ∧ smGet (fun _ => []) t.esw.tunIn k = [] ∧ (∀ j, j ≠ k.val → smGet (fun _
      => []) t.esw.tunIn j = smGet (fun _ => []) s.esw.tunIn j) ∧ { t with esw := s.esw, clr := s.clr } = s ∧ t.rxq (s.rf
      (clA (0x800 + k * 0x10)) 19 16) = s.rxq (s.rf (clA (0x800 + k * 0x10)) 19 16) ++ [m] ∧ (∀ j, j ≠ (s.rf (clA (0x800 + k
      * 0x10)) 19 16) → t.rxq j = s.rxq j) ∧ { t.esw with tunIn := s.esw.tunIn, rxq := s.esw.rxq } = s.esw)
    ∧ (s.logicOn = true ∧ s.accepts 5 = true ∧ (((List.range 25).map fun i => (s.esw.rr + i) % 25).find? fun k =>
      (s.hostSource k).isSome) = some c → Gives .hostTxServe s fun t => t.esw.rr = (c + 1) % 25 ∧ (c = 24 → t.esw.hostIn =
      s.esw.hostIn.drop 1) ∧ (8 ≤ c ∧ c < 24 → t.txq (c - 8) = (s.txq (c - 8)).drop 1) ∧ ((s.hostSource c).map Prod.fst =
      some none → PortCounts s t 15 [(0x98, 1)] ∧ ∀ j k, t.queue j k = s.queue j k))
    ∧ (s.logicOn = true ∧ s.accepts 5 = true ∧ (((List.range 25).map fun i => (s.esw.rr + i) % 25).find? fun k =>
      (s.hostSource k).isSome) = none → Gives .hostTxServe s fun t => t = s)
    ∧ (s.logicOn = true ∧ s.accepts 5 = true ∧ s.esw.rr = 24 ∧ s.esw.hostIn.head? = some b ∧ s.rb eswBase 31 = false → Gives
      .hostTxServe s fun t => t.esw = { s.esw with hostIn := s.esw.hostIn.drop 1, rr := 0 } ∧ OnlyEsw s t)
    ∧ (s.logicOn = true ∧ s.accepts 5 = true ∧ s.esw.rr = 24 ∧ s.esw.hostIn.head? = some b ∧ s.rb eswBase 31 = true ∧ s.vlanOk
      (s.parse 15 b s.now 0).1 (s.parse 15 b s.now 0).2 = true ∧ s.rb (esA 0) 28 = false ∧ s.destSet (s.parse 15 b s.now
      0).1 = [q] ∧ q < 15 ∧ s.classOf (s.parse 15 b s.now 0).1 = c ∧ s.admits q c (s.alpha q c) = true ∧ b.length + 4 ≤
      s.maxFrame 15 ∧ s.rb (portA 15 0) 29 = false ∧ (s.setQueue q c (s.queue q c ++ [(s.parse 15 b s.now 0).1])).poolUsed ≤
      32768 → Gives .hostTxServe s fun t => Queued s t q c (s.parse 15 b s.now 0).1 ∧
      { t.port q with queues := (s.port q).queues } = s.port q ∧ PortCounts s t 15 [(0, b.length + 4), (8, 1)] ∧
      { t.port 15 with cnt := (s.port 15).cnt } = s.port 15 ∧ PortsBut s t [15, q] ∧
      { t.esw with ports := s.esw.ports, nextUid := s.esw.nextUid, hostIn := s.esw.hostIn, rr := s.esw.rr } = s.esw ∧
      t.esw.hostIn = s.esw.hostIn.drop 1 ∧ t.esw.rr = 0 ∧ OnlyEsw s t)

/-- A port that may train comes up with its rate, role and quality (R420, R422); a link that falls leaves its status cleared
  and counted, with fault 0x6001 (R439); TC10 requests are sent, acknowledged or time out (R423). The ageing sweep removes
  idle dynamic entries and a flush removes those it selects, being refused while one runs (R432, R434); a write of an
  entry's word 0 commits its staged words (R430). A gate list changes at its instant and its entries follow one another
  (R445, R447). A reservation fits the buffer and repeats no queue (R436); a silent recovery function resets with 0x6007
  (R452); SNAP copies every counter (R459). -/
def Obligations.SwitchControl : Prop :=
  ∀ (s : State) (a : Acc) (p : Fin 15) (q : Fin 16) (v : Word) (r : Fin 7) (m : Bool) (g : Fin 8) (o : BitVec 20) (k : Fin 256) (n : Nat) (l : List Word),
    (s.logicOn = true ∧ s.accepts 5 = true ∧ s.linkUp p = false ∧ s.mayTrain p = true ∧ s.rateFits p r = true ∧ s.roleFits p
      m = true → Gives (.portLinkUp p r m g) s fun t => t.linkUp p = true ∧ t.rf (portA p 8) 30 28 = r.val ∧ t.rb (portA p
      8) 27 = m ∧ t.rf (portA p 8) 19 16 = (if phyClass p = 3 then 0 else g.val) ∧ (∀ j ∈ List.range 32, j ∉ ([16, 17, 18,
      19, 27, 28, 29, 30, 31] : List Nat) → t.rb (portA p 8) j = s.rb (portA p 8) j) ∧ RegsBut s t [(portA p 8)] ∧
      { t with regs := s.regs } = s)
    ∧ (s.logicOn = true ∧ s.accepts 5 = true ∧ s.linkUp p = true → Gives (.portLinkDown p) s fun t => t.rf (portA p 8) 31 27 =
      0 ∧ t.rf (portA p 8) 19 16 = 0 ∧ t.rf (portA p 8) 15 0 = min (s.rf (portA p 8) 15 0 + 1) 65535 ∧ (t.port p).rx = none
      ∧ (t.port p).queues = [] ∧ (t.port p).sending = none ∧ (t.port p).tc10 = false ∧ cntOf t p 0x80 = (cntOf s p 0x80 +
      (((s.port p).queues.map (·.2)).flatten).length) % 2 ^ 64 ∧ (∀ x ∈ t.esw.ports, ∀ z ∈ x.2.rx.toList, p.val ∉ z.cut ∧ ∀
      k ∈ z.admitted, k.1 ≠ p.val) ∧ (∀ i ∈ List.range 8192, ¬ (t.rb (fdbA i) 31 = true ∧ t.rb (fdbA i) 30 = false ∧ t.rb
      (fdbA i + 8) p = true)) ∧ (∃ v ∈ t.reports, v.id = 0x6001 ∧ v.ctx0 = wd p.val) ∧ t.harts = s.harts)
    ∧ (s.logicOn = true ∧ s.accepts 5 = true ∧ s.linkUp p = false → Gives (.portLinkDown p) s fun t => t = s)
    ∧ (s.logicOn = true ∧ s.accepts 5 = true ∧ s.linkUp p = true ∧ (s.port p).tc10 = true → Gives (.tc10SleepAck p) s fun t =>
      t.rf (portA p 8) 31 27 = 0 ∧ t.rf (portA p 8) 19 16 = 0 ∧ t.rf (portA p 8) 15 0 = min (s.rf (portA p 8) 15 0 + 1)
      65535 ∧ (t.port p).rx = none ∧ (t.port p).queues = [] ∧ (t.port p).sending = none ∧ (t.port p).tc10 = false ∧ cntOf t
      p 0x80 = (cntOf s p 0x80 + (((s.port p).queues.map (·.2)).flatten).length) % 2 ^ 64 ∧ (∀ x ∈ t.esw.ports, ∀ z ∈
      x.2.rx.toList, p.val ∉ z.cut ∧ ∀ k ∈ z.admitted, k.1 ≠ p.val) ∧ (∀ i ∈ List.range 8192, ¬ (t.rb (fdbA i) 31 = true ∧
      t.rb (fdbA i) 30 = false ∧ t.rb (fdbA i + 8) p = true)) ∧ (∃ v ∈ t.reports, v.id = 0x6001 ∧ v.ctx0 = wd p.val) ∧
      t.harts = s.harts)
    ∧ (s.logicOn = true ∧ s.accepts 5 = true ∧ s.linkUp p = true ∧ p.val ≠ 1 ∧ p.val ≠ 14 ∧ (∀ x ∈ s.esw.ports, x.2.rx = none)
      ∧ (s.port p).queues = [] ∧ (s.port p).sending = none ∧ s.fdbValid = [] ∧ s.pairReach = (s.bridge 3).pairUp → Gives
      (.portLinkDown p) s fun t => t.rf (portA p 8) 31 27 = 0 ∧ t.rf (portA p 8) 19 16 = 0 ∧ t.rf (portA p 8) 15 0 = min
      (s.rf (portA p 8) 15 0 + 1) 65535 ∧ (∀ j ∈ List.range 32, j ∉ (([16, 17, 18, 19, 27, 28, 29, 30, 31] ++ List.range 16)
      : List Nat) → t.rb (portA p 8) j = s.rb (portA p 8) j) ∧ t.port p =
      { s.port p with tc10 := false, cnt := (t.port p).cnt } ∧ (∀ i, cntOf t p i % 2 ^ 64 = cntOf s p i % 2 ^ 64) ∧ PortsBut
      s t [p] ∧ Reported s t [(0x6001, p.val, 0)] ∧ RegsBut s t [(portA p 8)] ∧ OnlyPorts s t ∧
      { t with regs := s.regs, esw := s.esw, reports := s.reports } = s)
    ∧ (s.logicOn = true ∧ s.accepts 5 = true ∧ s.linkUp p = true ∧ p.val ≠ 1 ∧ p.val ≠ 14 ∧ (∀ x ∈ s.esw.ports, x.2.rx = none)
      ∧ (s.port p).queues = [] ∧ (s.port p).sending = none ∧ s.fdbValid = [] ∧ s.pairReach = (s.bridge 3).pairUp ∧ (s.port
      p).tc10 = true → Gives (.tc10SleepAck p) s fun t => t.rf (portA p 8) 31 27 = 0 ∧ t.rf (portA p 8) 19 16 = 0 ∧ t.rf
      (portA p 8) 15 0 = min (s.rf (portA p 8) 15 0 + 1) 65535 ∧ (∀ j ∈ List.range 32, j ∉ (([16, 17, 18, 19, 27, 28, 29,
      30, 31] ++ List.range 16) : List Nat) → t.rb (portA p 8) j = s.rb (portA p 8) j) ∧ t.port p =
      { s.port p with tc10 := false, cnt := (t.port p).cnt } ∧ (∀ i, cntOf t p i % 2 ^ 64 = cntOf s p i % 2 ^ 64) ∧ PortsBut
      s t [p] ∧ Reported s t [(0x6001, p.val, 0)] ∧ RegsBut s t [(portA p 8)] ∧ OnlyPorts s t ∧
      { t with regs := s.regs, esw := s.esw, reports := s.reports } = s)
    ∧ (s.logicOn = true ∧ s.accepts 5 = true ∧ (s.port p).tc10 = true → Gives (.tc10SleepTimeout p) s fun t => t.port p =
      { s.port p with tc10 := false } ∧ t.rd (portA p 8) = setBit (s.rd (portA p 8)) 26 true ∧ RegsBut s t [(portA p 8)] ∧
      PortsBut s t [p] ∧ OnlyPorts s t ∧ t.esw.nextUid = s.esw.nextUid ∧ { t with regs := s.regs, esw := s.esw } = s)
    ∧ (Canonical s ∧ s.logicOn = true ∧ s.accepts 5 = true ∧ s.rf eswBase 15 0 ≠ 0 → Gives .fdbAgeSweep s fun t => (∀ i ∈
      List.range 8192, if bit (s.rd (fdbA i)) 31 = true ∧ bit (s.rd (fdbA i)) 30 = false ∧ bit (s.rd (fdbA i)) 29 = false
      then t.rd (fdbA i) = 0 ∧ t.rd (fdbA i + 4) = 0 ∧ t.rd (fdbA i + 8) = 0 else t.rd (fdbA i + 4) = s.rd (fdbA i + 4) ∧
      t.rd (fdbA i + 8) = s.rd (fdbA i + 8) ∧ t.rd (fdbA i) = (if bit (s.rd (fdbA i)) 31 then setBit (s.rd (fdbA i)) 29
      false else (s.rd (fdbA i)))) ∧ (∀ x, (x < swtBase ∨ swtBase + 0x20000 ≤ x) → True → t.rd x = s.rd x) ∧
      { t with regs := s.regs } = s)
    ∧ (Canonical s ∧ s.logicOn = true ∧ s.accepts 5 = true ∧ bit (s.rd (esA 8)) 30 = true → Gives .fdbFlushDone s fun t => (∀
      i ∈ List.range 8192, if bit (s.rd (fdbA i)) 31 = true ∧ (bit s.esw.flush 29 = true → bit (s.rd (fdbA i)) 30 = false) ∧
      (bit s.esw.flush 28 = true → fld (s.rd (fdbA i)) 27 16 = fld s.esw.flush 27 16) ∧ (s.rd (fdbA i + 8) &&&
      s.esw.flush).toNat % 65536 ≠ 0 then t.rd (fdbA i) = 0 ∧ t.rd (fdbA i + 4) = 0 ∧ t.rd (fdbA i + 8) = 0 else t.rd (fdbA
      i + 4) = s.rd (fdbA i + 4) ∧ t.rd (fdbA i + 8) = s.rd (fdbA i + 8) ∧ t.rd (fdbA i) = (s.rd (fdbA i))) ∧ t.rd (esA 8) =
      setBit (s.rd (esA 8)) 30 false ∧ (∀ x, (x < swtBase ∨ swtBase + 0x20000 ≤ x) → x ≠ esA 8 → t.rd x = s.rd x) ∧
      { t with regs := s.regs } = s)
    ∧ (s.logicOn = true ∧ s.accepts 5 = true ∧ s.rb (portA p 0x2C) 31 = true ∧ reached (s.port p).tas.due s.now = true → Gives
      (.tasListTakeover p) s fun t => t.rd (portA p 0x2C) = wd ((s.port p).tas.newBank * 2 ^ 30 + (s.port p).tas.newLen) ∧
      (t.port p).tas = { (s.port p).tas with idx := 0, start := (s.port p).tas.due, cycle := (s.port p).tas.newCycle } ∧
      RegsBut s t [portA p 0x2C] ∧
      { t.port p with tas := (s.port p).tas, credit := (s.port p).credit, creditAt := (s.port p).creditAt } = s.port p ∧
      PortsBut s t [p] ∧ OnlyPorts s t ∧ t.esw.nextUid = s.esw.nextUid ∧ { t with regs := s.regs, esw := s.esw } = s)
    ∧ (s.logicOn = true ∧ s.accepts 5 = true ∧ s.tasOn p = true ∧ reached ((s.port p).tas.start + wd (((s.gateList p).take
      ((s.port p).tas.idx + 1)).map (·.2)).sum) s.now = true → Gives (.tasGateEvent p) s fun t => (t.port p).tas = (if
      (s.port p).tas.idx + 1 < s.tasLen p ∧ (((s.gateList p).take ((s.port p).tas.idx + 1)).map (·.2)).sum < (s.port
      p).tas.cycle then { (s.port p).tas with idx := (s.port p).tas.idx + 1 } else
      { (s.port p).tas with idx := 0, start := (s.port p).tas.start + wd (s.port p).tas.cycle }) ∧ RegsBut s t [] ∧
      { t.port p with tas := (s.port p).tas, credit := (s.port p).credit, creditAt := (s.port p).creditAt } = s.port p ∧
      PortsBut s t [p] ∧ OnlyPorts s t ∧ t.esw.nextUid = s.esw.nextUid ∧ { t with regs := s.regs, esw := s.esw } = s)
    ∧ (s.logicOn = true ∧ s.accepts 5 = true ∧ s.rb (recvA k) 31 = true ∧ (s.frer k).seq ≠ none ∧ s.rf (recvA k) 15 0 * 500000
      ≤ s.ticks - (s.frer k).passed → Gives (.frerResetTimeout k) s fun t => t.frer k = {} ∧ (∀ i, i ≠ k.val → t.frer i =
      s.frer i) ∧ Reported s t [(0x6007, k.val, 0)] ∧ { t.esw with frer := s.esw.frer } = s.esw ∧
      { t with esw := s.esw, reports := s.reports } = s)
    ∧ (Reaches s a (portA q 0) ∧ Manager s a ∧ 2 ≤ q.val ∧ q.val < 12 → Gives (.tc10Sleep a q) s fun t => (t.port q).tc10 =
      (s.linkUp q || (s.port q).tc10) ∧
      { t.port q with tc10 := (s.port q).tc10, credit := (s.port q).credit, creditAt := (s.port q).creditAt } = s.port q ∧
      (∀ j ∈ List.range 32, j ∉ ([20, 21] : List Nat) → t.rb (portA q 0) j = s.rb (portA q 0) j) ∧ PortsBut s t [q.val] ∧
      OnlyPorts s t ∧ RegsBut s t [portA q 0] ∧ Answers t .done ∧ { t with regs := s.regs, esw := s.esw, resp := s.resp } =
      s)
    ∧ (Reaches s a (portA q 0) ∧ Manager s a ∧ 2 ≤ q.val ∧ q.val < 12 → Gives (.tc10Wur a q) s fun t => (t.port q).wur =
      (s.port q).wur + 1 ∧
      { t.port q with wur := (s.port q).wur, credit := (s.port q).credit, creditAt := (s.port q).creditAt } = s.port q ∧ (∀
      j ∈ List.range 32, j ∉ ([20, 21] : List Nat) → t.rb (portA q 0) j = s.rb (portA q 0) j) ∧ PortsBut s t [q.val] ∧
      OnlyPorts s t ∧ RegsBut s t [portA q 0] ∧ Answers t .done ∧ { t with regs := s.regs, esw := s.esw, resp := s.resp } =
      s)
    ∧ (Reaches s a (portA q 0) ∧ NoHart a ∧ Manager s a ∧ (q.val < 2 ∨ 12 ≤ q.val) → Gives (.tc10Sleep a q) s fun t => Refuses
      s t .range)
    ∧ (Reaches s a eswBase ∧ Manager s a ∧ bit (s.rd (esA 8)) 30 = false → Gives (.fdbFlush a v) s fun t => t.rd (esA 8) =
      setBit (maskedWrite (regDesc (esA 8)) (s.rd (esA 8)) (setBit v 31 true)) 30 true ∧ t.esw =
      { s.esw with flush := setBit v 31 true } ∧ RegsBut s t [esA 8] ∧ Answers t .done ∧
      { t with regs := s.regs, esw := s.esw, resp := s.resp } = s)
    ∧ (Reaches s a eswBase ∧ Manager s a ∧ NoHart a ∧ bit (s.rd (esA 8)) 30 = true → Gives (.fdbFlush a v) s fun t => Refuses
      s t .conflict)
    ∧ (Reaches s a (swtBase + o.toNat / 4 * 4) ∧ Manager s a ∧ swtShape (o.toNat / 4 * 4) = some (n, l) ∧ (o.toNat / 4 * 4) %
      n = 0 ∧ (0x35000 ≤ (o.toNat / 4 * 4) ∧ (o.toNat / 4 * 4) < 0x36000 → 1 ≤ fld v 21 16 ∧ fld v 21 16 ≤ 32 ∧ fld v 15 0 ≠
      0) ∧ (0x37000 ≤ (o.toNat / 4 * 4) ∧ bit (s.rd (stageA ((swtBase + o.toNat / 4 * 4) + 4))) 15 = true → s.ckItem (fld
      (s.rd (stageA ((swtBase + o.toNat / 4 * 4) + 4))) 8 0) = 2112 ∧ s.ckProdIs (fld (s.rd (stageA ((swtBase + o.toNat / 4
      * 4) + 4))) 8 0) 3 = true) → Gives (.switchEntryCommit a o v) s fun t => (∀ i ∈ List.range l.length, t.rd ((swtBase +
      o.toNat / 4 * 4) + i * 4) = (s.rd ((swtBase + o.toNat / 4 * 4) + i * 4) &&& ~~~l.getD i 0) ||| ((if i = 0 then v else
      s.rd (stageA ((swtBase + o.toNat / 4 * 4) + i * 4))) &&& l.getD i 0)) ∧ RegsBut s t ((List.range l.length).map fun i
      => (swtBase + o.toNat / 4 * 4) + i * 4) ∧ (0x35000 ≤ (o.toNat / 4 * 4) ∧ (o.toNat / 4 * 4) < 0x36000 → t.frer
      (((o.toNat / 4 * 4) - 0x35000) / 16) = {}) ∧ Answers t .done ∧ { t with regs := s.regs, esw := s.esw, resp := s.resp }
      = s ∧ { t.esw with frer := s.esw.frer, meters := s.esw.meters } = s.esw)
    ∧ (Reaches s a (swtBase + o.toNat / 4 * 4) ∧ Manager s a ∧ swtShape (o.toNat / 4 * 4) = some (n, l) ∧ (o.toNat / 4 * 4) %
      n ≠ 0 → Gives (.switchEntryCommit a o v) s fun t => t.rd (stageA (swtBase + o.toNat / 4 * 4)) = v ∧ RegsBut s t
      [stageA (swtBase + o.toNat / 4 * 4)] ∧ RegsOnly s t ∧ Answers t .done)
    ∧ (Reaches s a (swtBase + o.toNat / 4 * 4) ∧ Manager s a ∧ 0x36000 ≤ (o.toNat / 4 * 4) ∧ (o.toNat / 4 * 4) < 0x36400 →
      Gives (.switchEntryCommit a o v) s fun t => t.rd (swtBase + o.toNat / 4 * 4) = v &&& 0xFFFF ∧ RegsBut s t [(swtBase +
      o.toNat / 4 * 4)] ∧ RegsOnly s t ∧ Answers t .done)
    ∧ (Reaches s a (swtBase + o.toNat / 4 * 4) ∧ Manager s a ∧ 0x50000 ≤ (o.toNat / 4 * 4) ∧ (o.toNat / 4 * 4) < 0x5F000 ∧
      ((o.toNat / 4 * 4) % 8 = 4 → 100 ≤ v.toNat ∧ v.toNat ≤ 1000000000) ∧ (o.toNat / 4 * 4) % 0x1000 / 0x800 ≠ s.tasBank
      (((o.toNat / 4 * 4) - 0x50000) / 0x1000) → Gives (.switchEntryCommit a o v) s fun t => t.rd (swtBase + o.toNat / 4 *
      4) = (if (o.toNat / 4 * 4) % 8 = 0 then v &&& 0xFF else v) ∧ RegsBut s t [(swtBase + o.toNat / 4 * 4)] ∧ RegsOnly s t
      ∧ Answers t .done)
    ∧ (Reaches s a (swtBase + o.toNat / 4 * 4) ∧ Manager s a ∧ NoHart a ∧ 0x50000 ≤ (o.toNat / 4 * 4) ∧ (o.toNat / 4 * 4) <
      0x5F000 ∧ (o.toNat / 4 * 4) % 8 = 0 ∧ (o.toNat / 4 * 4) % 0x1000 / 0x800 = s.tasBank (((o.toNat / 4 * 4) - 0x50000) /
      0x1000) → Gives (.switchEntryCommit a o v) s fun t => Refuses s t .conflict)
    ∧ (Reaches s a (swtBase + o.toNat) ∧ Manager s a ∧ o.toNat < 0x20000 ∧ o.toNat % 16 = 0 → Gives (.switchEntryCommit a o v)
      s fun t => t.rd ((swtBase + o.toNat) + 0) = (s.rd ((swtBase + o.toNat) + 0) &&& ~~~(0xCFFFFFFF : Word)) ||| (v &&&
      0xCFFFFFFF) ∧ t.rd ((swtBase + o.toNat) + 4) = s.rd (stageA ((swtBase + o.toNat) + 4)) ∧ t.rd ((swtBase + o.toNat) +
      8) = (s.rd ((swtBase + o.toNat) + 8) &&& ~~~(0x0000FFFF : Word)) ||| (s.rd (stageA ((swtBase + o.toNat) + 8)) &&&
      0x0000FFFF) ∧ RegsBut s t [(swtBase + o.toNat), (swtBase + o.toNat) + 4, (swtBase + o.toNat) + 8, (swtBase + o.toNat)
      + 12] ∧ t.rd ((swtBase + o.toNat) + 12) = s.rd ((swtBase + o.toNat) + 12) ∧ RegsOnly s t ∧ Answers t .done)
    ∧ (Reaches s a (swtBase + o.toNat) ∧ Manager s a ∧ o.toNat % 4 = 0 ∧ o.toNat < 0x28000 ∧ o.toNat % 8 ≠ 0 → Gives
      (.switchEntryCommit a o v) s fun t => t.rd (stageA (swtBase + o.toNat)) = v ∧ RegsBut s t [stageA (swtBase + o.toNat)]
      ∧ RegsOnly s t ∧ Answers t .done)
    ∧ (Reaches s a (swtBase + o.toNat) ∧ Manager s a ∧ 0x20000 ≤ o.toNat ∧ o.toNat < 0x28000 ∧ o.toNat % 8 = 0 → Gives
      (.switchEntryCommit a o v) s fun t => t.rd ((swtBase + o.toNat) + 0) = (s.rd ((swtBase + o.toNat) + 0) &&&
      ~~~(0xCFFFFFFF : Word)) ||| (v &&& 0xCFFFFFFF) ∧ t.rd ((swtBase + o.toNat) + 4) = (s.rd ((swtBase + o.toNat) + 4) &&&
      ~~~(0x0000FFFF : Word)) ||| (s.rd (stageA ((swtBase + o.toNat) + 4)) &&& 0x0000FFFF) ∧ RegsBut s t [(swtBase +
      o.toNat), (swtBase + o.toNat) + 4] ∧ RegsOnly s t ∧ Answers t .done)
    ∧ (Reaches s a eswBase ∧ s.mayWriteOwned (s.tagsOf a.who) (esA (0x100 + q * 8)) = true ∧ s.resOthers q + fld v 13 0 ≤ 8192
      ∧ (∀ i, i < 16 → i ≠ q.val → ownHeld (s.rd (esA (0x100 + i * 8))) = false ∨ s.rf (esA (0x104 + i * 8)) 31 28 ≠ fld v
      31 28 ∨ s.rf (esA (0x104 + i * 8)) 26 24 ≠ fld v 26 24) → Gives (.bresCfgWrite a q v) s fun t => Writes s t (esA
      (0x104 + q * 8)) v)
    ∧ (Reaches s a eswBase ∧ NoHart a ∧ s.mayWriteOwned (s.tagsOf a.who) (esA (0x100 + q * 8)) = true ∧ 8192 < s.resOthers q +
      fld v 13 0 → Gives (.bresCfgWrite a q v) s fun t => Refuses s t .range)
    ∧ (Reaches s a (portA p 0x20) ∧ Manager s a ∧ 1 ≤ fld v 8 0 ∧ fld v 8 0 ≤ 256 ∧ 1000 ≤ (s.rd (portA p 0x28)).toNat ∧ s.rb
      (portA p 0x2C) 31 = false ∧ fld v 29 29 ≠ s.tasBank p → Gives (.tasChange a p v) s fun t => t.rd (portA p 0x20) =
      maskedWrite (regDesc (portA p 0x20)) (s.rd (portA p 0x20)) (setBit v 30 true) ∧ t.rd (portA p 0x2C) = setBit (s.rd
      (portA p 0x2C)) 31 true ∧ (t.port p).tas =
      { (s.port p).tas with due := seriesNext (s.rd (portA p 0x24)) s.now (s.rd (portA p 0x28)).toNat, newBank := fld v 29 29, newLen := fld v 8 0, newCycle := (s.rd (portA p 0x28)).toNat }
      ∧ RegsBut s t [portA p 0x20, portA p 0x2C] ∧ Answers t .done ∧
      { t.port p with tas := (s.port p).tas, credit := (s.port p).credit, creditAt := (s.port p).creditAt } = s.port p ∧
      PortsBut s t [p] ∧ OnlyPorts s t ∧ t.esw.nextUid = s.esw.nextUid ∧
      { t with regs := s.regs, esw := s.esw, resp := s.resp } = s)
    ∧ (Reaches s a (portA p 0x20) ∧ Manager s a ∧ NoHart a ∧ 1 ≤ fld v 8 0 ∧ fld v 8 0 ≤ 256 ∧ 1000 ≤ (s.rd (portA p
      0x28)).toNat ∧ s.rb (portA p 0x2C) 31 = true → Gives (.tasChange a p v) s fun t => Refuses s t .conflict)
    ∧ (Reaches s a eswBase ∧ Manager s a → Gives (.counterSnapshot a) s fun t => (∀ i, t.port i =
      { s.port i with shadow := (s.port i).cnt }) ∧ OnlyPorts s t ∧ t.esw.nextUid = s.esw.nextUid ∧ (∀ j ∈ List.range 32, j
      ∉ ([30] : List Nat) → t.rb eswBase j = s.rb eswBase j) ∧ RegsBut s t [eswBase] ∧ Answers t .done ∧
      { t with regs := s.regs, esw := s.esw, resp := s.resp } = s)

/-- The time base runs on to its wrap, which moves the epoch (R463, R464); its rate takes values in range, and one step at a
  time waits and is applied, carrying the epoch (R465, R466). An output unit raises and drops its land at its series'
  instants, an input unit captures the edges it wants and counts those its Cask has no room for with 0x6082 (R478, R479); a
  configuration takes effect when its lands and widths allow it (R477, R480). A waiting transmit record enters its Cask
  (R476). An association commits its staged words when its slot is usable, its packet number not used and no other
  association sends with the slot (R456, R458); a reservation of packet numbers is committed to the slot's record (R458). -/
def Obligations.TimeAndMacsec : Prop :=
  ∀ (s : State) (a : Acc) (k : Fin 4) (r : Fin 4) (v : Word) (b : Bool) (x : BitVec 4) (c : Fin 7) (p : Fin 15) (l : List Byte) (m : List (List Byte)) (i : Fin 3) (ch : Fin 9),
    (s.logicOn = true ∧ (s.rd (tbA 8)).toNat ≠ 0 ∧ s.tb.acc < 2 ^ 60 → Gives .tbWrap s fun t => s.ticks < t.ticks ∧ s.tb.acc
      + ((t.ticks - s.ticks) - 1) * (s.rd (tbA 8)).toNat < 2 ^ 60 ∧ s.tb.acc + (t.ticks - s.ticks) * (s.rd (tbA 8)).toNat =
      2 ^ 60 + t.tb.acc ∧ t.tb.acc < 2 ^ 60 ∧ t.tb.step = s.tb.step ∧ t.rd (clA 0x24) = s.rd (clA 0x24) + 1 ∧ t.rd (tbA
      0x14) = setBit (s.rd (tbA 0x14)) 0 true ∧ RegsBut s t [clA 0x24, tbA 0x14] ∧
      { t.front with hboLeft := s.front.hboLeft, awakeLeft := s.front.awakeLeft } = s.front ∧
      { t with regs := s.regs, tb := s.tb, ticks := s.ticks, front := s.front } = s)
    ∧ (s.logicOn = true ∧ s.evOut k = true ∧ (s.ev k).level = false ∧ (s.evPer k ≠ 0 ∨ (s.ev k).k = 0) ∧ reached (s.evRise k
      (s.ev k).k) s.now = true → Gives (.evtOutputEdge k) s fun t => t.ev k = { level := true, k := (s.ev k).k + 1 } ∧ (∀ j,
      j ≠ k.val → t.ev j = s.ev j) ∧ { t with evs := s.evs } = s)
    ∧ (s.logicOn = true ∧ s.evOut k = true ∧ (s.ev k).level = true ∧ reached (s.evFall k ((s.ev k).k - 1)) s.now = true →
      Gives (.evtOutputEdge k) s fun t => t.ev k = { s.ev k with level := false } ∧ (∀ j, j ≠ k.val → t.ev j = s.ev j) ∧
      { t with evs := s.evs } = s)
    ∧ (s.logicOn = true ∧ s.rb (evA k 4) 31 = true ∧ s.rb (evA k 4) 0 = false ∧ ¬ (fld (s.rd (evA k 4)) 29 28 = 0 ∧ b = false)
      ∧ ¬ (fld (s.rd (evA k 4)) 29 28 = 1 ∧ b = true) ∧ s.rb (evA k 4) 30 = false → Gives (.evtCaptureEdge k b x) s fun t =>
      t.rd (evA k 0x14) = s.now ∧ t.rd (evA k 0x18) = wd x.toNat ∧ t.rf (evA k 0x1C) 15 0 = (s.rf (evA k 0x1C) 15 0 + 1) %
      65536 ∧ t.rf (evA k 0x1C) 31 16 = s.rf (evA k 0x1C) 31 16 ∧ RegsBut s t [evA k 0x14, evA k 0x18, evA k 0x1C] ∧
      { t with regs := s.regs } = s)
    ∧ (s.logicOn = true ∧ s.rb (evA k 4) 31 = true ∧ s.rb (evA k 4) 0 = false ∧ ¬ (fld (s.rd (evA k 4)) 29 28 = 0 ∧ b = false)
      ∧ ¬ (fld (s.rd (evA k 4)) 29 28 = 1 ∧ b = true) ∧ s.rb (evA k 4) 30 = true → Gives (.evtCaptureEdge k b x) s fun t =>
      t.rd (evA k 0x14) = s.now ∧ t.rd (evA k 0x18) = wd x.toNat ∧ t.rf (evA k 0x1C) 15 0 = (s.rf (evA k 0x1C) 15 0 + 1) %
      65536 ∧ RegsBut s t [evA k 0x14, evA k 0x18, evA k 0x1C, cskBase, ckA (s.rf (evA k 4) 9 1) 0x10] ∧ CasksBut s t (s.rf
      (evA k 4) 9 1) ∧ StoreSide s t ∧ MemBut s t (s.ckPlace (s.rf (evA k 4) 9 1) (s.cask (s.rf (evA k 4) 9 1)).pw)
      (s.ckItem (s.rf (evA k 4) 9 1)) ∧
      { t with regs := s.regs, mem := s.mem, eccBad := s.eccBad, harts := s.harts, casks := s.casks, reports := s.reports }
      = s)
    ∧ (s.logicOn = true ∧ s.rb (evA k 4) 31 = true ∧ s.rb (evA k 4) 0 = false ∧ ¬ (fld (s.rd (evA k 4)) 29 28 = 0 ∧ b = false)
      ∧ ¬ (fld (s.rd (evA k 4)) 29 28 = 1 ∧ b = true) ∧ s.rb (evA k 4) 30 = true ∧ ownHeld (s.rd (ckA (s.rf (evA k 4) 9 1)
      0)) = true ∧ (s.ckEn (s.rf (evA k 4) 9 1) = false ∨ s.ckRoom (s.rf (evA k 4) 9 1) = false) → Gives (.evtCaptureEdge k
      b x) s fun t => t.rd (evA k 0x14) = s.now ∧ t.rd (evA k 0x18) = wd x.toNat ∧ t.rf (evA k 0x1C) 15 0 = (s.rf (evA k
      0x1C) 15 0 + 1) % 65536 ∧ t.rf (evA k 0x1C) 23 16 = min (s.rf (evA k 0x1C) 23 16 + 1) 255 ∧ Reported s t [(0x6082,
      k.val, 0)] ∧ RegsBut s t [evA k 0x14, evA k 0x18, evA k 0x1C] ∧ { t with regs := s.regs, reports := s.reports } = s)
    ∧ (s.logicOn = true ∧ s.rb (evA k 4) 31 = true ∧ s.rb (evA k 4) 0 = false ∧ ¬ (fld (s.rd (evA k 4)) 29 28 = 0 ∧ b = false)
      ∧ ¬ (fld (s.rd (evA k 4)) 29 28 = 1 ∧ b = true) ∧ s.rb (evA k 4) 30 = true ∧ ownHeld (s.rd (ckA (s.rf (evA k 4) 9 1)
      0)) = false → Gives (.evtCaptureEdge k b x) s fun t => t.rd (evA k 0x14) = s.now ∧ t.rd (evA k 0x18) = wd x.toNat ∧
      t.rf (evA k 0x1C) 15 0 = (s.rf (evA k 0x1C) 15 0 + 1) % 65536 ∧ t.rf (evA k 0x1C) 23 16 = s.rf (evA k 0x1C) 23 16 ∧
      Counts s t cskBase ∧ Reported s t [(0x4080, (s.rf (evA k 4) 9 1), 0)] ∧ RegsBut s t [evA k 0x14, evA k 0x18, evA k
      0x1C, cskBase] ∧ { t with regs := s.regs, reports := s.reports } = s)
    ∧ (s.logicOn = true ∧ s.rb (evA k 4) 31 = true ∧ s.rb (evA k 4) 0 = false ∧ ¬ (fld (s.rd (evA k 4)) 29 28 = 0 ∧ b = false)
      ∧ ¬ (fld (s.rd (evA k 4)) 29 28 = 1 ∧ b = true) ∧ s.rb (evA k 4) 30 = true ∧ ownHeld (s.rd (ckA (s.rf (evA k 4) 9 1)
      0)) = true ∧ s.ckEn (s.rf (evA k 4) 9 1) = true ∧ s.ckRoom (s.rf (evA k 4) 9 1) = true ∧ s.mayWrite (s.ckOwner (s.rf
      (evA k 4) 9 1)) (s.ckPlace (s.rf (evA k 4) 9 1) (s.cask (s.rf (evA k 4) 9 1)).pw) (s.ckItem (s.rf (evA k 4) 9 1)) =
      true → Gives (.evtCaptureEdge k b x) s fun t => t.rd (evA k 0x14) = s.now ∧ t.rd (evA k 0x18) = wd x.toNat ∧ t.rf (evA
      k 0x1C) 15 0 = (s.rf (evA k 0x1C) 15 0 + 1) % 65536 ∧ t.rf (evA k 0x1C) 23 16 = s.rf (evA k 0x1C) 23 16 ∧ t.ldBytes
      (s.ckPlace (s.rf (evA k 4) 9 1) (s.cask (s.rf (evA k 4) 9 1)).pw) (s.ckItem (s.rf (evA k 4) 9 1)) = padTo (s.ckItem
      (s.rf (evA k 4) 9 1)) (leBytes 4 s.now.toNat ++ [BitVec.ofNat 8 x.toNat, BitVec.ofNat 8 k.val, BitVec.ofNat 8 b.toNat]
      ++ List.replicate 9 0) ∧ MemBut s t (s.ckPlace (s.rf (evA k 4) 9 1) (s.cask (s.rf (evA k 4) 9 1)).pw) (s.ckItem (s.rf
      (evA k 4) 9 1)) ∧ StoreSide s t ∧ t.rd (ckA (s.rf (evA k 4) 9 1) 0x10) = setFld (s.rd (ckA (s.rf (evA k 4) 9 1) 0x10))
      31 16 (s.ckWr (s.rf (evA k 4) 9 1) + 1) ∧ t.cask (s.rf (evA k 4) 9 1) =
      { s.cask (s.rf (evA k 4) 9 1) with pw := s.ckAdv (s.rf (evA k 4) 9 1) (s.cask (s.rf (evA k 4) 9 1)).pw 1 } ∧ CasksBut
      s t (s.rf (evA k 4) 9 1) ∧ RegsBut s t [evA k 0x14, evA k 0x18, evA k 0x1C, ckA (s.rf (evA k 4) 9 1) 0x10] ∧
      { t with regs := s.regs, mem := s.mem, eccBad := s.eccBad, harts := s.harts, casks := s.casks } = s)
    ∧ (Reaches s a tbuBase ∧ s.mayWriteOwned (s.tagsOf a.who) (evA k 0) = true ∧ r.val = 0 ∧ fld v 29 28 ≠ 3 ∧ (bit v 30 =
      true → s.ckItem (fld v 9 1) = 16 ∧ s.ckProdIs (fld v 9 1) 5 = true) ∧ (bit v 31 = true → (ownHeld (s.rd (evA k 0)) =
      true ∧ ownHeld (s.rd (evLandA k)) = true ∧ fld (s.rd (evLandA k)) 23 16 = 1 ∧ ownTags (s.rd (evLandA k)) = ownTags
      (s.rd (evA k 0)) ∧ fld (s.rd (evA k 0)) 23 16 = (if bit v 0 then 2 else 1)) ∧ (bit v 0 = true → 4 ≤ (s.rd (evA k
      0x10)).toNat ∧ (s.evPer k = 0 ∨ (s.rd (evA k 0x10)).toNat + 4 ≤ s.evPer k))) → Gives (.evtConfigWrite a k r v) s fun t
      => t.rd (evA k (4 + r * 4)) = (if ((bit v 31 = true ∧ bit v 0 = true) ∧ ¬ future (t.evRise k 0) s.now = true ∧ t.evPer
      k = 0) then setBit (maskedWrite (regDesc (evA k (4 + r * 4))) (s.rd (evA k (4 + r * 4))) v) 31 false else (maskedWrite
      (regDesc (evA k (4 + r * 4))) (s.rd (evA k (4 + r * 4))) v)) ∧ t.rd (evA k 0x1C) = setFld (s.rd (evA k 0x1C)) 23 16
      (if ((bit v 31 = true ∧ bit v 0 = true) ∧ ¬ future (t.evRise k 0) s.now = true ∧ t.evPer k = 0) then 1 else 0) ∧ t.ev
      k = (if (bit v 31 = true ∧ bit v 0 = true) ∧ ¬ future (t.evRise k 0) s.now = true ∧ t.evPer k ≠ 0 then
      { k := (s.now - t.rd (evA k 8)).toNat / t.evPer k + 1 } else {}) ∧ Reported s t (if ((bit v 31 = true ∧ bit v 0 =
      true) ∧ ¬ future (t.evRise k 0) s.now = true ∧ t.evPer k = 0) then [(0x6081, k.val, 0)] else []) ∧ RegsBut s t [(evA k
      (4 + r * 4)), evA k 0x1C] ∧ (∀ j, j ≠ k.val → t.ev j = s.ev j) ∧ Answers t .done ∧
      { t with regs := s.regs, evs := s.evs, reports := s.reports, resp := s.resp } = s)
    ∧ (Reaches s a tbuBase ∧ s.mayWriteOwned (s.tagsOf a.who) (evA k 0) = true ∧ NoHart a ∧ r.val = 0 ∧ (fld v 29 28 = 3 ∨
      (bit v 31 = true ∧ bit v 0 = true ∧ ¬ (4 ≤ (s.rd (evA k 0x10)).toNat ∧ (s.evPer k = 0 ∨ (s.rd (evA k 0x10)).toNat + 4
      ≤ s.evPer k)))) → Gives (.evtConfigWrite a k r v) s fun t => Refuses s t .range)
    ∧ (Reaches s a tbuBase ∧ s.mayWriteOwned (s.tagsOf a.who) (evA k 0) = true ∧ NoHart a ∧ r.val = 0 ∧ fld v 29 28 ≠ 3 ∧ (bit
      v 31 = true → bit v 0 = true → 4 ≤ (s.rd (evA k 0x10)).toNat ∧ (s.evPer k = 0 ∨ (s.rd (evA k 0x10)).toNat + 4 ≤
      s.evPer k)) ∧ bit v 30 = true ∧ s.ckItem (fld v 9 1) ≠ 16 → Gives (.evtConfigWrite a k r v) s fun t => Refuses s t
      .length)
    ∧ (Reaches s a tbuBase ∧ s.mayWriteOwned (s.tagsOf a.who) (evA k 0) = true ∧ NoHart a ∧ r.val = 0 ∧ fld v 29 28 ≠ 3 ∧ (bit
      v 31 = true → bit v 0 = true → 4 ≤ (s.rd (evA k 0x10)).toNat ∧ (s.evPer k = 0 ∨ (s.rd (evA k 0x10)).toNat + 4 ≤
      s.evPer k)) ∧ bit v 30 = true ∧ s.ckItem (fld v 9 1) = 16 ∧ s.ckProdIs (fld v 9 1) 5 = false → Gives (.evtConfigWrite
      a k r v) s fun t => Refuses s t .conflict)
    ∧ (Reaches s a tbuBase ∧ s.mayWriteOwned (s.tagsOf a.who) (evA k 0) = true ∧ NoHart a ∧ r.val = 0 ∧ fld v 29 28 ≠ 3 ∧ (bit
      v 30 = true → s.ckItem (fld v 9 1) = 16 ∧ s.ckProdIs (fld v 9 1) 5 = true) ∧ bit v 31 = true ∧ (bit v 0 = true → 4 ≤
      (s.rd (evA k 0x10)).toNat ∧ (s.evPer k = 0 ∨ (s.rd (evA k 0x10)).toNat + 4 ≤ s.evPer k)) ∧ ¬ (ownHeld (s.rd (evA k 0))
      = true ∧ ownHeld (s.rd (evLandA k)) = true ∧ fld (s.rd (evLandA k)) 23 16 = 1 ∧ ownTags (s.rd (evLandA k)) = ownTags
      (s.rd (evA k 0)) ∧ fld (s.rd (evA k 0)) 23 16 = (if bit v 0 then 2 else 1)) → Gives (.evtConfigWrite a k r v) s fun t
      => Refuses s t .conflict)
    ∧ (Reaches s a tbuBase ∧ s.mayWriteOwned (s.tagsOf a.who) (evA k 0) = true ∧ r.val ≠ 0 ∧ s.evOut k = false ∧ (r.val = 1 ∨
      r.val = 2 ∧ (if r.val = 3 then v.toNat else (s.rd (evA k 0x10)).toNat) = 0 ∨ (4 ≤ (if r.val = 3 then v.toNat else
      (s.rd (evA k 0x10)).toNat) ∧ ((if r.val = 2 then v.toNat else s.evPer k) = 0 ∨ (if r.val = 3 then v.toNat else (s.rd
      (evA k 0x10)).toNat) + 4 ≤ (if r.val = 2 then v.toNat else s.evPer k)))) → Gives (.evtConfigWrite a k r v) s fun t =>
      Writes s t (evA k (4 + r * 4)) v)
    ∧ (Reaches s a tbuBase ∧ s.mayWriteOwned (s.tagsOf a.who) (evA k 0) = true ∧ r.val ≠ 0 ∧ s.evOut k = true ∧ (r.val = 1 ∨
      r.val = 2 ∧ (if r.val = 3 then v.toNat else (s.rd (evA k 0x10)).toNat) = 0 ∨ (4 ≤ (if r.val = 3 then v.toNat else
      (s.rd (evA k 0x10)).toNat) ∧ ((if r.val = 2 then v.toNat else s.evPer k) = 0 ∨ (if r.val = 3 then v.toNat else (s.rd
      (evA k 0x10)).toNat) + 4 ≤ (if r.val = 2 then v.toNat else s.evPer k)))) → Gives (.evtConfigWrite a k r v) s fun t =>
      t.rd (evA k (4 + r * 4)) = (maskedWrite (regDesc (evA k (4 + r * 4))) (s.rd (evA k (4 + r * 4))) v) ∧ (((s.evOut k =
      true) ∧ ¬ future (t.evRise k 0) s.now = true ∧ t.evPer k = 0) → t.rd (evA k 4) = setBit (s.rd (evA k 4)) 31 false ∧
      t.rd (evA k 0x1C) = setFld (s.rd (evA k 0x1C)) 23 16 (min 255 (s.rf (evA k 0x1C) 23 16 + 1))) ∧ t.ev k = (if (s.evOut
      k = true) ∧ ¬ future (t.evRise k 0) s.now = true ∧ t.evPer k ≠ 0 then
      { k := (s.now - t.rd (evA k 8)).toNat / t.evPer k + 1 } else {}) ∧ Reported s t (if ((s.evOut k = true) ∧ ¬ future
      (t.evRise k 0) s.now = true ∧ t.evPer k = 0) then [(0x6081, k.val, 0)] else []) ∧ RegsBut s t (if ((s.evOut k = true)
      ∧ ¬ future (t.evRise k 0) s.now = true ∧ t.evPer k = 0) then [(evA k (4 + r * 4)), evA k 4, evA k 0x1C] else [(evA k
      (4 + r * 4))]) ∧ (∀ j, j ≠ k.val → t.ev j = s.ev j) ∧ Answers t .done ∧
      { t with regs := s.regs, evs := s.evs, reports := s.reports, resp := s.resp } = s)
    ∧ (Reaches s a tbuBase ∧ s.mayWriteOwned (s.tagsOf a.who) (evA k 0) = true ∧ NoHart a ∧ r.val ≠ 0 ∧ ¬ (r.val = 1 ∨ r.val =
      2 ∧ (if r.val = 3 then v.toNat else (s.rd (evA k 0x10)).toNat) = 0 ∨ (4 ≤ (if r.val = 3 then v.toNat else (s.rd (evA k
      0x10)).toNat) ∧ ((if r.val = 2 then v.toNat else s.evPer k) = 0 ∨ (if r.val = 3 then v.toNat else (s.rd (evA k
      0x10)).toNat) + 4 ≤ (if r.val = 2 then v.toNat else s.evPer k)))) → Gives (.evtConfigWrite a k r v) s fun t => Refuses
      s t .range)
    ∧ (s.logicOn = true ∧ s.tb.step = some v → Gives .tbStepApply s fun t => t.tb =
      { acc := (((s.now.toNat : Int) + v.toInt) % 2 ^ 32).toNat * 2 ^ 28 + s.tb.acc % 2 ^ 28, step := none } ∧ t.rd (tbA
      0x10) = setBit (s.rd (tbA 0x10)) 0 false ∧ t.rb (tbA 0x14) 1 = true ∧ t.rb (tbA 0x14) 0 = (s.rb (tbA 0x14) 0 || decide
      (((s.now.toNat : Int) + v.toInt) < 0 ∨ 2 ^ 32 ≤ ((s.now.toNat : Int) + v.toInt))) ∧ t.rd (clA 0x24) = (if
      ((s.now.toNat : Int) + v.toInt) < 0 then s.rd (clA 0x24) - 1 else if 2 ^ 32 ≤ ((s.now.toNat : Int) + v.toInt) then
      s.rd (clA 0x24) + 1 else s.rd (clA 0x24)) ∧ { t.clr with ds := s.clr.ds } = s.clr ∧
      { t.esw with ports := s.esw.ports } = s.esw ∧
      { t with regs := s.regs, tb := s.tb, clr := s.clr, cans := s.cans, lines := s.lines, evs := s.evs, esw := s.esw, chs := s.chs, dies := s.dies, brg := s.brg, reports := s.reports, dieLogs := s.dieLogs }
      = s)
    ∧ (s.logicOn = true ∧ s.tb.step = some v ∧ s.clr.ds = [] ∧ s.cans = [] ∧ (∀ j, j < 4 → s.evOut j = false) ∧ s.lines = [] ∧
      s.esw.ports = [] → Gives .tbStepApply s fun t => t.tb =
      { acc := (((s.now.toNat : Int) + v.toInt) % 2 ^ 32).toNat * 2 ^ 28 + s.tb.acc % 2 ^ 28, step := none } ∧ t.rd (tbA
      0x10) = setBit (s.rd (tbA 0x10)) 0 false ∧ t.rb (tbA 0x14) 1 = true ∧ t.rb (tbA 0x14) 0 = (s.rb (tbA 0x14) 0 || decide
      (((s.now.toNat : Int) + v.toInt) < 0 ∨ 2 ^ 32 ≤ ((s.now.toNat : Int) + v.toInt))) ∧ t.rd (clA 0x24) = (if
      ((s.now.toNat : Int) + v.toInt) < 0 then s.rd (clA 0x24) - 1 else if 2 ^ 32 ≤ ((s.now.toNat : Int) + v.toInt) then
      s.rd (clA 0x24) + 1 else s.rd (clA 0x24)) ∧ RegsBut s t [tbA 0x10, tbA 0x14, clA 0x24] ∧
      { t with regs := s.regs, tb := s.tb } = s)
    ∧ (s.logicOn = true → Gives (.tbCopyResync c) s fun t => Reported s t [(0x6083, c.val, 0)] ∧
      { t with reports := s.reports } = s)
    ∧ ((s.port p).txts = l :: m ∧ s.logicOn = true ∧ ownHeld (s.rd (ckA (s.rf (tsA p 0) 8 0) 0)) = true ∧ s.ckEn (s.rf (tsA p
      0) 8 0) = true ∧ s.ckRoom (s.rf (tsA p 0) 8 0) = true ∧ s.mayWrite (s.ckOwner (s.rf (tsA p 0) 8 0)) (s.ckPlace (s.rf
      (tsA p 0) 8 0) (s.cask (s.rf (tsA p 0) 8 0)).pw) (s.ckItem (s.rf (tsA p 0) 8 0)) = true → Gives (.txtsRecordDrain p) s
      fun t => t.port p = { s.port p with txts := m } ∧ PortsBut s t [p] ∧ OnlyPorts s t ∧ t.esw.nextUid = s.esw.nextUid ∧
      t.ldBytes (s.ckPlace (s.rf (tsA p 0) 8 0) (s.cask (s.rf (tsA p 0) 8 0)).pw) (s.ckItem (s.rf (tsA p 0) 8 0)) = padTo
      (s.ckItem (s.rf (tsA p 0) 8 0)) l ∧ MemBut s t (s.ckPlace (s.rf (tsA p 0) 8 0) (s.cask (s.rf (tsA p 0) 8 0)).pw)
      (s.ckItem (s.rf (tsA p 0) 8 0)) ∧ StoreSide s t ∧ t.rd (ckA (s.rf (tsA p 0) 8 0) 0x10) = setFld (s.rd (ckA (s.rf (tsA
      p 0) 8 0) 0x10)) 31 16 (s.ckWr (s.rf (tsA p 0) 8 0) + 1) ∧ t.cask (s.rf (tsA p 0) 8 0) =
      { s.cask (s.rf (tsA p 0) 8 0) with pw := s.ckAdv (s.rf (tsA p 0) 8 0) (s.cask (s.rf (tsA p 0) 8 0)).pw 1 } ∧ CasksBut
      s t (s.rf (tsA p 0) 8 0) ∧ RegsBut s t [ckA (s.rf (tsA p 0) 8 0) 0x10] ∧
      { t with regs := s.regs, mem := s.mem, eccBad := s.eccBad, harts := s.harts, casks := s.casks, esw := s.esw } = s)
    ∧ ((s.port p).txts = l :: m ∧ s.logicOn = true ∧ ownHeld (s.rd (ckA (s.rf (tsA p 0) 8 0) 0)) = false → Gives
      (.txtsRecordDrain p) s fun t => t.port p = { s.port p with txts := m } ∧ PortsBut s t [p] ∧ OnlyPorts s t ∧
      t.esw.nextUid = s.esw.nextUid ∧ Counts s t cskBase ∧ Reported s t [(0x4080, (s.rf (tsA p 0) 8 0), 0)] ∧ RegsBut s t
      [cskBase] ∧ { t with regs := s.regs, reports := s.reports, esw := s.esw } = s)
    ∧ ((s.port p).txts = l :: m ∧ s.logicOn = true ∧ ownHeld (s.rd (ckA (s.rf (tsA p 0) 8 0) 0)) = true ∧ (s.ckEn (s.rf (tsA p
      0) 8 0) = false ∨ s.ckRoom (s.rf (tsA p 0) 8 0) = false) → Gives (.txtsRecordDrain p) s fun t => t = s)
    ∧ ((s.port p).txts = l :: m ∧ s.logicOn = true ∧ ownHeld (s.rd (ckA (s.rf (tsA p 0) 8 0) 0)) = true ∧ s.ckEn (s.rf (tsA p
      0) 8 0) = true ∧ s.ckRoom (s.rf (tsA p 0) 8 0) = true ∧ s.mayWrite (s.ckOwner (s.rf (tsA p 0) 8 0)) (s.ckPlace (s.rf
      (tsA p 0) 8 0) (s.cask (s.rf (tsA p 0) 8 0)).pw) (s.ckItem (s.rf (tsA p 0) 8 0)) = false → Gives (.txtsRecordDrain p)
      s fun t => { t.port p with txtsSaid := (s.port p).txtsSaid } = { s.port p with txts := m } ∧ PortsBut s t [p] ∧
      OnlyPorts s t ∧ t.rf (tsA p 0xC) 15 8 = min (s.rf (tsA p 0xC) 15 8 + 1) 255 ∧ t.rb (tbA 0x14) 2 = true ∧ RegsBut s t
      [tsA p 0xC, tbA 0x14] ∧ { t with regs := s.regs, reports := s.reports, esw := s.esw } = s)
    ∧ (Reaches s a tbuBase ∧ Manager s a ∧ 0x1FF00000 ≤ v.toNat ∧ v.toNat ≤ 0x20100000 → Gives (.tbIncWrite a v) s fun t =>
      Writes s t (tbA 8) v)
    ∧ (Reaches s a tbuBase ∧ Manager s a ∧ NoHart a ∧ (v.toNat < 0x1FF00000 ∨ 0x20100000 < v.toNat) → Gives (.tbIncWrite a v)
      s fun t => Refuses s t .range)
    ∧ (Reaches s a tbuBase ∧ Manager s a ∧ s.tb.step = none → Gives (.tbStepWrite a v) s fun t => t.tb =
      { s.tb with step := some v } ∧ t.rd (tbA 0x10) = setBit (s.rd (tbA 0x10)) 0 true ∧ RegsBut s t [tbA 0x10] ∧ Answers t
      .done ∧ { t with regs := s.regs, tb := s.tb, resp := s.resp } = s)
    ∧ (Reaches s a tbuBase ∧ Manager s a ∧ NoHart a ∧ s.tb.step ≠ none → Gives (.tbStepWrite a v) s fun t => Refuses s t
      .conflict)
    ∧ (Reaches s a eswBase ∧ (s.tagsOf a.who).w = true ∧ bit v 31 = false → Gives (.macsecSaCommit a i ch k v) s fun t => t.sa
      (i.val * 128 + ch.val * 8 + k.val) = (s.saStaged (i.val * 128 + ch.val * 8 + k.val) v) ∧ (∀ j, j ≠ (i.val * 128 +
      ch.val * 8 + k.val) → t.sa j = s.sa j) ∧ t.rd (saA (i.val * 128 + ch.val * 8 + k.val)) = v &&& 0x800000FF ∧ t.rd (saA
      (i.val * 128 + ch.val * 8 + k.val) + 4) = (s.saStaged (i.val * 128 + ch.val * 8 + k.val) v).ssci ∧ t.rd (saA (i.val *
      128 + ch.val * 8 + k.val) + 24) = wd (s.saStaged (i.val * 128 + ch.val * 8 + k.val) v).pn ∧ t.rd (saA (i.val * 128 +
      ch.val * 8 + k.val) + 28) = wd ((s.saStaged (i.val * 128 + ch.val * 8 + k.val) v).pn / 2 ^ 32) ∧ (ch.val = 8 → t.rb
      (msA i 4) k = false) ∧ RegsBut s t (if ch.val = 8 then [saA (i.val * 128 + ch.val * 8 + k.val), saA (i.val * 128 +
      ch.val * 8 + k.val) + 4, saA (i.val * 128 + ch.val * 8 + k.val) + 24, saA (i.val * 128 + ch.val * 8 + k.val) + 28, msA
      i 4] else [saA (i.val * 128 + ch.val * 8 + k.val), saA (i.val * 128 + ch.val * 8 + k.val) + 4, saA (i.val * 128 +
      ch.val * 8 + k.val) + 24, saA (i.val * 128 + ch.val * 8 + k.val) + 28]) ∧ Answers t .done ∧
      { t with regs := s.regs, esw := s.esw, resp := s.resp } = s ∧ { t.esw with sas := s.esw.sas } = s.esw)
    ∧ (Reaches s a eswBase ∧ (s.tagsOf a.who).w = true ∧ bit v 31 = true ∧ s.slotMay (s.tagsOf a.who) (fld v 7 0) = true ∧
      s.keyStatus (fld v 7 0) 5 = none ∧ s.slSize (fld v 7 0) = 2 ∧ (ch.val = 8 → (s.slot (fld v 7 0)).hwm ≤ (s.saStaged
      (i.val * 128 + ch.val * 8 + k.val) v).pn ∧ (∀ j, j < 3 → ∀ n, n < 4 → txSa j n ≠ (i.val * 128 + ch.val * 8 + k.val) →
      (s.sa (txSa j n)).en = false ∨ (s.sa (txSa j n)).slot ≠ fld v 7 0)) → Gives (.macsecSaCommit a i ch k v) s fun t =>
      t.sa (i.val * 128 + ch.val * 8 + k.val) = (s.saStaged (i.val * 128 + ch.val * 8 + k.val) v) ∧ (∀ j, j ≠ (i.val * 128 +
      ch.val * 8 + k.val) → t.sa j = s.sa j) ∧ t.rd (saA (i.val * 128 + ch.val * 8 + k.val)) = v &&& 0x800000FF ∧ t.rd (saA
      (i.val * 128 + ch.val * 8 + k.val) + 4) = (s.saStaged (i.val * 128 + ch.val * 8 + k.val) v).ssci ∧ t.rd (saA (i.val *
      128 + ch.val * 8 + k.val) + 24) = wd (s.saStaged (i.val * 128 + ch.val * 8 + k.val) v).pn ∧ t.rd (saA (i.val * 128 +
      ch.val * 8 + k.val) + 28) = wd ((s.saStaged (i.val * 128 + ch.val * 8 + k.val) v).pn / 2 ^ 32) ∧ (ch.val = 8 → t.rb
      (msA i 4) k = false) ∧ RegsBut s t (if ch.val = 8 then [saA (i.val * 128 + ch.val * 8 + k.val), saA (i.val * 128 +
      ch.val * 8 + k.val) + 4, saA (i.val * 128 + ch.val * 8 + k.val) + 24, saA (i.val * 128 + ch.val * 8 + k.val) + 28, msA
      i 4] else [saA (i.val * 128 + ch.val * 8 + k.val), saA (i.val * 128 + ch.val * 8 + k.val) + 4, saA (i.val * 128 +
      ch.val * 8 + k.val) + 24, saA (i.val * 128 + ch.val * 8 + k.val) + 28]) ∧ Answers t .done ∧
      { t with regs := s.regs, esw := s.esw, resp := s.resp } = s ∧ { t.esw with sas := s.esw.sas } = s.esw)
    ∧ (Reaches s a eswBase ∧ (s.tagsOf a.who).w = true ∧ NoHart a ∧ bit v 31 = true ∧ s.slotMay (s.tagsOf a.who) (fld v 7 0) =
      true ∧ ch.val = 8 ∧ (s.saStaged (i.val * 128 + ch.val * 8 + k.val) v).pn < (s.slot (fld v 7 0)).hwm → Gives
      (.macsecSaCommit a i ch k v) s fun t => Refuses s t .range)
    ∧ (s.logicOn = true ∧ s.accepts 5 = true ∧ s.accepts 8 = true ∧ (s.sa (txSa i k)).waits = true ∧ persistent (s.sa (txSa i
      k)).slot = true ∧ (s.slot (s.sa (txSa i k)).slot).win = some b → Gives (.msPnReserveCommit i k) s fun t => t.sa (txSa
      i k) = { (s.sa (txSa i k)) with waits := false } ∧ (∀ j, j ≠ txSa i k → t.sa j = s.sa j) ∧ t.slot (s.sa (txSa i
      k)).slot =
      { s.slot (s.sa (txSa i k)).slot with pnResv := (min ((s.slot (s.sa (txSa i k)).slot).pnResv + 2 ^ 20) (2 ^ 64)), win := some (!b) }
      ∧ (∀ j, j ≠ (s.sa (txSa i k)).slot → t.slot j = s.slot j) ∧ t.ldLE (recA (s.sa (txSa i k)).slot (!b)) 4 = (s.ldLE
      (recA (s.sa (txSa i k)).slot b) 4 + 1) % 2 ^ 32 ∧ t.ldLE ((recA (s.sa (txSa i k)).slot (!b)) + 0x68) 8 = min (min
      ((s.slot (s.sa (txSa i k)).slot).pnResv + 2 ^ 20) (2 ^ 64)) (2 ^ 64 - 1) ∧ t.ldBytes ((recA (s.sa (txSa i k)).slot
      (!b)) + 0x70) 16 = cmac (fixedKey s.kst.testRoot 2) (t.ldBytes (recA (s.sa (txSa i k)).slot (!b)) 0x70) ∧ MemBut s t
      (recA (s.sa (txSa i k)).slot (!b)) 0x80 ∧ StoreSide s t ∧ RegsBut s t [slA (s.sa (txSa i k)).slot 0x10] ∧
      { t with regs := s.regs, mem := s.mem, eccBad := s.eccBad, harts := s.harts, esw := s.esw, kst := s.kst } = s ∧
      { t.esw with sas := s.esw.sas } = s.esw ∧ { t.kst with slots := s.kst.slots } = s.kst)

/-- A put copies its item to the ring place of WR (R482, R492) and waits while there is no room: it is appended when room
  appears, or ends with LENGTH (R494). A get delivers the next item, or the idle item behind the ring, with the trailer of
  R493; an item with an uncorrectable error counts as taken (R490). Marks, rewinds and releases move their counters and
  positions (R495-R497); CK_FILL tells the counts. A write of CK_CFG, CK_BASE or CK_DEPTH takes values in range, conflicts
  while items are held, and empties the Cask, as CLEAR does (R500). -/
def Obligations.Casks : Prop :=
  ∀ (s : State) (a : Acc) (n : Cask) (x : DWord) (r : Fin 3) (v : Word) (p : PutWait) (l : List PutWait) (q : State),
    (Reaches s a (ckWinA n 0) ∧ s.resetting (s.tagsOf a.who).tid = false ∧ s.ckMay (s.tagsOf a.who) n = true ∧ s.ckEn n =
      true ∧ copyStatus x.toNat (s.ckItem n) = none ∧ s.mayRead (s.tagsOf a.who) x.toNat (s.ckItem n) = true ∧ q = s.ckServe
      n ∧ q.ckProdSoft n = true ∧ q.ckRoom n = true ∧ q.anyBad x.toNat (q.ckItem n) = false ∧ q.mayWrite (q.ckOwner n)
      (q.ckPlace n (q.cask n).pw) (q.ckItem n) = true → Gives (.ckPut a n x) s fun t => t.ldBytes (q.ckPlace n (q.cask
      n).pw) (q.ckItem n) = q.ldBytes x.toNat (q.ckItem n) ∧ MemBut q t (q.ckPlace n (q.cask n).pw) (q.ckItem n) ∧ StoreSide
      q t ∧ t.rd (ckA n 0x10) = setFld (q.rd (ckA n 0x10)) 31 16 (q.ckWr n + 1) ∧ RegsBut q t [ckA n 0x10] ∧ CasksBut q t n
      ∧ t.cask n = { q.cask n with pw := q.ckAdv n (q.cask n).pw 1 } ∧ Answers t .done ∧
      { t with regs := q.regs, mem := q.mem, eccBad := q.eccBad, harts := q.harts, casks := q.casks, resp := q.resp } = q)
    ∧ (Reaches s a (ckWinA n 0) ∧ s.resetting (s.tagsOf a.who).tid = false ∧ s.ckMay (s.tagsOf a.who) n = true ∧ s.ckEn n =
      true ∧ copyStatus x.toNat (s.ckItem n) = none ∧ s.mayRead (s.tagsOf a.who) x.toNat (s.ckItem n) = true ∧ q = s.ckServe
      n ∧ q.ckProdSoft n = true ∧ q.ckRoom n = false → Gives (.ckPut a n x) s fun t => t.cask n =
      { q.cask n with waits := (q.cask n).waits ++ [⟨a, x.toNat⟩] } ∧ CasksBut q t n ∧ { t with casks := q.casks } = q)
    ∧ (Reaches s a (ckWinA n 0) ∧ NoHart a ∧ s.resetting (s.tagsOf a.who).tid = false ∧ s.ckMay (s.tagsOf a.who) n = true ∧
      s.ckEn n = true ∧ copyStatus x.toNat (s.ckItem n) = some .align ∧ s.mayRead (s.tagsOf a.who) x.toNat (s.ckItem n) =
      true → Gives (.ckPut a n x) s fun t => Refuses s t .align)
    ∧ (Reaches s a (ckWinA n 0) ∧ NoHart a ∧ s.resetting (s.tagsOf a.who).tid = false ∧ s.ckMay (s.tagsOf a.who) n = true ∧
      s.ckEn n = true ∧ copyStatus x.toNat (s.ckItem n) = some .range → Gives (.ckPut a n x) s fun t => Refuses s t .range)
    ∧ (Reaches s a (ckWinA n 0) ∧ NoHart a ∧ s.resetting (s.tagsOf a.who).tid = false ∧ s.ckMay (s.tagsOf a.who) n = true ∧
      s.ckEn n = true ∧ sramSpan x.toNat (s.ckItem n) = true ∧ s.mayRead (s.tagsOf a.who) x.toNat (s.ckItem n) = false →
      Gives (.ckPut a n x) s fun t => Denies s t x.toNat)
    ∧ (Reaches s a (ckWinA n 0) ∧ NoHart a ∧ s.resetting (s.tagsOf a.who).tid = false ∧ s.ckMay (s.tagsOf a.who) n = true ∧
      s.ckEn n = true ∧ copyStatus x.toNat (s.ckItem n) = none ∧ s.mayRead (s.tagsOf a.who) x.toNat (s.ckItem n) = true ∧ q
      = s.ckServe n ∧ q.ckProdSoft n = false → Gives (.ckPut a n x) s fun t => Refuses q t .conflict)
    ∧ (Reaches s a (ckWinA n 0) ∧ NoHart a ∧ s.resetting (s.tagsOf a.who).tid = false ∧ s.ckMay (s.tagsOf a.who) n = false →
      Gives (.ckPut a n x) s fun t => Denies s t (ckWinA n 0))
    ∧ (Reaches s a (ckWinA n 0) ∧ NoHart a ∧ s.resetting (s.tagsOf a.who).tid = true → Gives (.ckPut a n x) s fun t => Refuses
      s t .aborted)
    ∧ (Reaches s a (ckWinA n 0) ∧ NoHart a ∧ s.resetting (s.tagsOf a.who).tid = false ∧ s.ckMay (s.tagsOf a.who) n = true ∧
      s.ckEn n = false → Gives (.ckPut a n x) s fun t => Refuses s t .range)
    ∧ ((s.cask n).waits = p :: l ∧ (∀ h, p.acc.who = .hart h → (s.hart h).await = none) ∧ s.ckEn n = true ∧ s.ckRoom n = true
      ∧ s.anyBad p.src (s.ckItem n) = false ∧ s.mayWrite (s.ckOwner n) (s.ckPlace n (s.cask n).pw) (s.ckItem n) = true →
      Gives (.ckPutWaitEnd n) s fun t => t.ldBytes (s.ckPlace n (s.cask n).pw) (s.ckItem n) = s.ldBytes p.src (s.ckItem n) ∧
      MemBut s t (s.ckPlace n (s.cask n).pw) (s.ckItem n) ∧ StoreSide s t ∧ t.rd (ckA n 0x10) = setFld (s.rd (ckA n 0x10))
      31 16 (s.ckWr n + 1) ∧ RegsBut s t [ckA n 0x10] ∧ CasksBut s t n ∧ t.cask n =
      { s.cask n with waits := l, pw := s.ckAdv n (s.cask n).pw 1 } ∧ Answers t .done ∧
      { t with regs := s.regs, mem := s.mem, eccBad := s.eccBad, harts := s.harts, casks := s.casks, resp := s.resp } = s)
    ∧ ((s.cask n).waits = p :: l ∧ (∀ h, p.acc.who = .hart h → (s.hart h).await = none) ∧ (∀ h, p.acc.who ≠ .hart h) ∧ (s.ckEn
      n = false ∨ s.ckRoom n = false) → Gives (.ckPutWaitEnd n) s fun t => t.cask n = { s.cask n with waits := l } ∧
      CasksBut s t n ∧ t.rf (ckA n 0x18) 15 0 = min (s.rf (ckA n 0x18) 15 0 + 1) 65535 ∧ t.rf (ckA n 0x18) 31 16 = s.rf (ckA
      n 0x18) 31 16 ∧ RegsBut s t [ckA n 0x18] ∧ Answers t .length ∧
      { t with regs := s.regs, casks := s.casks, resp := s.resp } = s)
    ∧ ((s.cask n).waits = p :: l ∧ s.ckEn n = true ∧ s.ckRoom n = true ∧ s.anyBad p.src (s.ckItem n) = false ∧ s.mayWrite
      (s.ckOwner n) (s.ckPlace n (s.cask n).pw) (s.ckItem n) = true → Gives (.ckPutWaitEnd n) s fun t => t.ldBytes
      (s.ckPlace n (s.cask n).pw) (s.ckItem n) = s.ldBytes p.src (s.ckItem n) ∧ MemBut s t (s.ckPlace n (s.cask n).pw)
      (s.ckItem n) ∧ t.rd (ckA n 0x10) = setFld (s.rd (ckA n 0x10)) 31 16 (s.ckWr n + 1) ∧ RegsBut s t [ckA n 0x10, fcBase]
      ∧ CasksBut s t n ∧ t.cask n = { s.cask n with waits := l, pw := s.ckAdv n (s.cask n).pw 1 } ∧ Answers t .done ∧ (∀ h,
      p.acc.who = .hart h → (s.hart h).await.map (·.addr) = some (ckWinA n 0) → (t.hart h).await = none) ∧ (∀ j : HartId,
      p.acc.who ≠ .hart j → { t.hart j with resv := (s.hart j).resv } = s.hart j) ∧
      { t with regs := s.regs, mem := s.mem, eccBad := s.eccBad, harts := s.harts, casks := s.casks, reports := s.reports, resp := s.resp }
      = s)
    ∧ ((s.cask n).waits = p :: l ∧ (s.ckEn n = false ∨ s.ckRoom n = false) → Gives (.ckPutWaitEnd n) s fun t => t.cask n =
      { s.cask n with waits := l } ∧ CasksBut s t n ∧ t.rf (ckA n 0x18) 15 0 = min (s.rf (ckA n 0x18) 15 0 + 1) 65535 ∧ t.rf
      (ckA n 0x18) 31 16 = s.rf (ckA n 0x18) 31 16 ∧ Answers t .length ∧ (∀ h, p.acc.who = .hart h → (s.hart h).await.map
      (·.addr) = some (ckWinA n 0) → (t.hart h).await = none) ∧ (∀ j : HartId, p.acc.who ≠ .hart j →
      { t.hart j with resv := (s.hart j).resv } = s.hart j) ∧ (∀ h : HartId, p.acc.who = .hart h → RegsBut s t [ckA n 0x18,
      fcBase, fcBase + 0x100 + h * 8, fcBase + 0x104 + h * 8]) ∧
      { t with regs := s.regs, harts := s.harts, casks := s.casks, reports := s.reports, resp := s.resp } = s)
    ∧ (Reaches s a (ckWinA n 8) ∧ s.resetting (s.tagsOf a.who).tid = false ∧ s.ckMay (s.tagsOf a.who) n = true ∧ s.ckEn n =
      true ∧ copyStatus x.toNat ((s.ckItem n) + 8) = none ∧ s.mayWrite (s.tagsOf a.who) x.toNat ((s.ckItem n) + 8) = true ∧
      s.ckConsSoft n = true ∧ s.ckAvail n ≠ 0 ∧ s.mayRead (s.ckOwner n) (s.ckPlace n (s.cask n).pr) (s.ckItem n) = true ∧
      s.anyBad (s.ckPlace n (s.cask n).pr) (s.ckItem n) = false → Gives (.ckGet a n x) s fun t => t.ldBytes x.toNat
      (s.ckItem n) = s.ldBytes (s.ckPlace n (s.cask n).pr) (s.ckItem n) ∧ t.ldLE (x.toNat + (s.ckItem n)) 8 = s.ckRd n *
      65536 ∧ MemBut s t x.toNat ((s.ckItem n) + 8) ∧ StoreSide s t ∧ Answers t .done ∧ t.rd (ckA n 0x10) = setFld (s.rd
      (ckA n 0x10)) 15 0 (s.ckRd n + 1) ∧ t.cask n = { s.cask n with pr := s.ckAdv n (s.cask n).pr 1 } ∧ RegsBut s t [ckA n
      0x10] ∧ CasksBut s t n ∧
      { t with regs := s.regs, mem := s.mem, eccBad := s.eccBad, harts := s.harts, casks := s.casks, resp := s.resp } = s)
    ∧ (Reaches s a (ckWinA n 8) ∧ s.resetting (s.tagsOf a.who).tid = false ∧ s.ckMay (s.tagsOf a.who) n = true ∧ s.ckEn n =
      true ∧ copyStatus x.toNat ((s.ckItem n) + 8) = none ∧ s.mayWrite (s.tagsOf a.who) x.toNat ((s.ckItem n) + 8) = true ∧
      s.ckConsSoft n = true ∧ s.ckAvail n = 0 ∧ s.mayRead (s.ckOwner n) (s.ckPlace n (s.ckDepth n)) (s.ckItem n) = true ∧
      s.anyBad (s.ckPlace n (s.ckDepth n)) (s.ckItem n) = false → Gives (.ckGet a n x) s fun t => t.ldBytes x.toNat
      (s.ckItem n) = s.ldBytes (s.ckPlace n (s.ckDepth n)) (s.ckItem n) ∧ t.ldLE (x.toNat + (s.ckItem n)) 8 = 1 + s.ckRd n *
      65536 ∧ MemBut s t x.toNat ((s.ckItem n) + 8) ∧ StoreSide s t ∧ Answers t .done ∧
      { t with mem := s.mem, eccBad := s.eccBad, harts := s.harts, resp := s.resp } = s)
    ∧ (Reaches s a (ckWinA n 8) ∧ NoHart a ∧ s.resetting (s.tagsOf a.who).tid = false ∧ s.ckMay (s.tagsOf a.who) n = true ∧
      s.ckEn n = true ∧ copyStatus x.toNat ((s.ckItem n) + 8) = none ∧ s.mayWrite (s.tagsOf a.who) x.toNat ((s.ckItem n) +
      8) = true ∧ s.ckConsSoft n = true ∧ s.ckAvail n ≠ 0 ∧ s.mayRead (s.ckOwner n) (s.ckPlace n (s.cask n).pr) (s.ckItem n)
      = true ∧ s.anyBad (s.ckPlace n (s.cask n).pr) (s.ckItem n) = true → Gives (.ckGet a n x) s fun t => t.rd (ckA n 0x10)
      = setFld (s.rd (ckA n 0x10)) 15 0 (s.ckRd n + 1) ∧ t.cask n = { s.cask n with pr := s.ckAdv n (s.cask n).pr 1 } ∧
      RegsBut s t [ckA n 0x10] ∧ CasksBut s t n ∧ Reported s t [(0x2002, (s.ckPlace n (s.cask n).pr) % 2 ^ 32, (s.ckPlace n
      (s.cask n).pr) / 2 ^ 32 % 2 ^ 32), (0x4081, n.val, 0)] ∧ Answers t .eccUncorr ∧
      { t with regs := s.regs, casks := s.casks, reports := s.reports, resp := s.resp } = s)
    ∧ (Reaches s a (ckWinA n 8) ∧ NoHart a ∧ s.resetting (s.tagsOf a.who).tid = false ∧ s.ckMay (s.tagsOf a.who) n = true ∧
      s.ckEn n = true ∧ copyStatus x.toNat ((s.ckItem n) + 8) = none ∧ s.mayWrite (s.tagsOf a.who) x.toNat ((s.ckItem n) +
      8) = true ∧ s.ckConsSoft n = false → Gives (.ckGet a n x) s fun t => Refuses s t .conflict)
    ∧ (Reaches s a (ckWinA n 0x10) ∧ s.resetting (s.tagsOf a.who).tid = false ∧ s.ckMay (s.tagsOf a.who) n = true ∧ s.ckEn n =
      true ∧ s.ckConsSoft n = true → Gives (.ckMark a n) s fun t => t.rd (ckA n 0x14) = setFld (s.rd (ckA n 0x14)) 31 16
      (s.ckRd n) ∧ t.rd (ckA n 0x18) = setBit (s.rd (ckA n 0x18)) 31 true ∧ t.cask n = { s.cask n with pm := (s.cask n).pr }
      ∧ RegsBut s t [ckA n 0x14, ckA n 0x18] ∧ CasksBut s t n ∧ Answers t .done ∧
      { t with regs := s.regs, casks := s.casks, resp := s.resp } = s)
    ∧ (Reaches s a (ckWinA n 0x18) ∧ s.resetting (s.tagsOf a.who).tid = false ∧ s.ckMay (s.tagsOf a.who) n = true ∧ s.ckEn n =
      true ∧ s.ckConsSoft n = true ∧ s.ckMarked n = true → Gives (.ckRewind a n) s fun t => t.rd (ckA n 0x10) = setFld (s.rd
      (ckA n 0x10)) 15 0 (s.ckMarkV n) ∧ t.cask n = { s.cask n with pr := (s.cask n).pm } ∧ RegsBut s t [ckA n 0x10] ∧
      CasksBut s t n ∧ Answers t .done ∧ { t with regs := s.regs, casks := s.casks, resp := s.resp } = s)
    ∧ (Reaches s a (ckWinA n 0x18) ∧ NoHart a ∧ s.resetting (s.tagsOf a.who).tid = false ∧ s.ckMay (s.tagsOf a.who) n = true ∧
      s.ckEn n = true ∧ s.ckConsSoft n = true ∧ s.ckMarked n = false → Gives (.ckRewind a n) s fun t => Refuses s t
      .markLost)
    ∧ (Reaches s a (ckWinA n 0x20) ∧ s.resetting (s.tagsOf a.who).tid = false ∧ s.ckMay (s.tagsOf a.who) n = true ∧ s.ckEn n =
      true ∧ s.ckConsSoft n = true ∧ x.toNat ≤ sub16 (s.ckRd n) (s.ckRel n) → Gives (.ckRel a n x) s fun t => t.rd (ckA n
      0x14) = setFld (s.rd (ckA n 0x14)) 15 0 (s.ckRel n + x.toNat) ∧ t.rd (ckA n 0x18) = (if sub16 (s.ckMarkV n) (s.ckRel
      n) < x.toNat then setBit (s.rd (ckA n 0x18)) 31 false else s.rd (ckA n 0x18)) ∧ t.cask n =
      { s.cask n with pl := s.ckAdv n (s.cask n).pl x.toNat } ∧ RegsBut s t [ckA n 0x14, ckA n 0x18] ∧ CasksBut s t n ∧
      Answers t .done ∧ { t with regs := s.regs, casks := s.casks, resp := s.resp } = s)
    ∧ (Reaches s a (ckWinA n 0x20) ∧ NoHart a ∧ s.resetting (s.tagsOf a.who).tid = false ∧ s.ckMay (s.tagsOf a.who) n = true ∧
      s.ckEn n = true ∧ sub16 (s.ckRd n) (s.ckRel n) < x.toNat → Gives (.ckRel a n x) s fun t => Refuses s t .length)
    ∧ (Reaches s a (ckWinA n 0x28) ∧ s.resetting (s.tagsOf a.who).tid = false ∧ s.ckMay (s.tagsOf a.who) n = true → Gives
      (.ckFill a n) s fun t => fld t.resp.data 15 0 = sub16 (s.ckWr n) (s.ckRd n) ∧ fld t.resp.data 31 16 = sub16 (s.ckWr n)
      (s.ckRel n) ∧ bit t.resp.data 32 = s.ckMarked n ∧ fld t.resp.data 63 33 = 0 ∧ t.resp.status = .done ∧
      { t with resp := s.resp } = s)
    ∧ (Reaches s a (ckA n (4 + r * 4)) ∧ s.ckMay (s.tagsOf a.who) n = true ∧ r.val = 0 ∧ fld v 23 20 < 7 ∧ fld v 19 16 < 7 ∧ 1
      ≤ fld v 8 0 ∧ fld v 8 0 ≤ 264 ∧ ringFits (fld v 8 0 * 8) (s.ckDepth n) (s.rd (ckA n 8)).toNat = true ∧ s.ckWr n =
      s.ckRel n ∧ (bit v 31 = true → ownHeld (s.rd (ckA n 0)) = true) → Gives (.caskConfigWrite a n r v) s fun t => t.rd
      (ckA n (4 + r * 4)) = maskedWrite (regDesc (ckA n (4 + r * 4))) (s.rd (ckA n (4 + r * 4))) v ∧ RegsBut s t [(ckA n (4
      + r * 4)), ckA n 0x10, ckA n 0x14, ckA n 0x18] ∧ t.rd (ckA n 0x10) = 0 ∧ t.rd (ckA n 0x14) = 0 ∧ t.rd (ckA n 0x18) =
      setFld (setBit (s.rd (ckA n 0x18)) 31 false) 15 0 0 ∧ t.cask n = { s.cask n with pw := 0, pr := 0, pl := 0, pm := 0 }
      ∧ CasksBut s t n ∧ Answers t .done ∧ { t with regs := s.regs, casks := s.casks, resp := s.resp } = s)
    ∧ (Reaches s a (ckA n (4 + r * 4)) ∧ s.ckMay (s.tagsOf a.who) n = true ∧ r.val = 1 ∧ ringFits (s.ckItem n) (s.ckDepth n)
      (fld v 31 3 * 8) = true ∧ s.ckWr n = s.ckRel n → Gives (.caskConfigWrite a n r v) s fun t => t.rd (ckA n (4 + r * 4))
      = maskedWrite (regDesc (ckA n (4 + r * 4))) (s.rd (ckA n (4 + r * 4))) v ∧ RegsBut s t [(ckA n (4 + r * 4)), ckA n
      0x10, ckA n 0x14, ckA n 0x18] ∧ t.rd (ckA n 0x10) = 0 ∧ t.rd (ckA n 0x14) = 0 ∧ t.rd (ckA n 0x18) = setBit (s.rd (ckA
      n 0x18)) 31 false ∧ t.cask n = { s.cask n with pw := 0, pr := 0, pl := 0, pm := 0 } ∧ CasksBut s t n ∧ Answers t .done
      ∧ { t with regs := s.regs, casks := s.casks, resp := s.resp } = s)
    ∧ (Reaches s a (ckA n (4 + r * 4)) ∧ s.ckMay (s.tagsOf a.who) n = true ∧ r.val = 2 ∧ 1 ≤ fld v 15 0 ∧ fld v 15 0 ≤ 32768 ∧
      ringFits (s.ckItem n) (fld v 15 0) (s.rd (ckA n 8)).toNat = true ∧ s.ckWr n = s.ckRel n → Gives (.caskConfigWrite a n
      r v) s fun t => t.rd (ckA n (4 + r * 4)) = maskedWrite (regDesc (ckA n (4 + r * 4))) (s.rd (ckA n (4 + r * 4))) v ∧
      RegsBut s t [(ckA n (4 + r * 4)), ckA n 0x10, ckA n 0x14, ckA n 0x18] ∧ t.rd (ckA n 0x10) = 0 ∧ t.rd (ckA n 0x14) = 0
      ∧ t.rd (ckA n 0x18) = setBit (s.rd (ckA n 0x18)) 31 false ∧ t.cask n =
      { s.cask n with pw := 0, pr := 0, pl := 0, pm := 0 } ∧ CasksBut s t n ∧ Answers t .done ∧
      { t with regs := s.regs, casks := s.casks, resp := s.resp } = s)
    ∧ (Reaches s a (ckA n (4 + r * 4)) ∧ s.ckMay (s.tagsOf a.who) n = true ∧ NoHart a ∧ (r.val = 0 ∧ ¬ (fld v 23 20 < 7 ∧ fld
      v 19 16 < 7 ∧ 1 ≤ fld v 8 0 ∧ fld v 8 0 ≤ 264) ∨ r.val = 2 ∧ (fld v 15 0 = 0 ∨ 32768 < fld v 15 0) ∨ r.val = 1 ∧
      ringFits (s.ckItem n) (s.ckDepth n) (fld v 31 3 * 8) = false) → Gives (.caskConfigWrite a n r v) s fun t => Refuses s
      t .range)
    ∧ (Reaches s a (ckA n (4 + r * 4)) ∧ s.ckMay (s.tagsOf a.who) n = true ∧ NoHart a ∧ s.ckWr n ≠ s.ckRel n ∧ (r.val = 0 ∧
      fld v 23 20 < 7 ∧ fld v 19 16 < 7 ∧ 1 ≤ fld v 8 0 ∧ fld v 8 0 ≤ 264 ∧ ringFits (fld v 8 0 * 8) (s.ckDepth n) (s.rd
      (ckA n 8)).toNat = true ∨ r.val = 1 ∧ ringFits (s.ckItem n) (s.ckDepth n) (fld v 31 3 * 8) = true ∨ r.val = 2 ∧ 1 ≤
      fld v 15 0 ∧ fld v 15 0 ≤ 32768 ∧ ringFits (s.ckItem n) (fld v 15 0) (s.rd (ckA n 8)).toNat = true) → Gives
      (.caskConfigWrite a n r v) s fun t => Refuses s t .conflict)
    ∧ (Reaches s a (ckA n 0x1C) ∧ s.ckMay (s.tagsOf a.who) n = true → Gives (.caskClear a n) s fun t => RegsBut s t [ckA n
      0x10, ckA n 0x14, ckA n 0x18] ∧ t.rd (ckA n 0x10) = 0 ∧ t.rd (ckA n 0x14) = 0 ∧ t.rd (ckA n 0x18) = setBit (s.rd (ckA
      n 0x18)) 31 false ∧ t.cask n = { s.cask n with pw := 0, pr := 0, pl := 0, pm := 0 } ∧ CasksBut s t n ∧ Answers t .done
      ∧ { t with regs := s.regs, casks := s.casks, resp := s.resp } = s)

/-- An access that a bridge accepts is sent and stays outstanding, a posted write completes at once (R516, R519-R521); a
  poisoned window and a lost link answer FAR_ERROR (R536, R539, R542). The far die performs it under the semaphore
  (R527-R529); its answer completes the access, or poisons the window and makes a record (R533-R535). A transaction without
  an answer times out (R524). Prefetched lines answer reads and expire (R531, R532). Windows take settings that fit (R517,
  R537), and far-die interrupts send their entry's message (R538). -/
def Obligations.Bridges : Prop :=
  ∀ (s : State) (a : Acc) (b : Fin 3) (c : Fin 4) (k : Fin 16) (addr : Addr) (n : Fin 9) (wr : Bool) (v : DWord) (u : Word) (x : BrTx) (l : BrLine) (m : BrSem) (j : Fin 9) (st : Status) (r : Fin 64) (q : State),
    (s.logicOn = true ∧ bridgeOf addr.toNat = some c.val ∧ s.brUp c = true ∧ s.winAt c (addr.toNat - brRegion c) = some
      k.val ∧ (c.val < 3 ∧ (n.val = 4 ∨ n.val = 8) ∨ c = 3 ∧ (n.val = 1 ∨ n.val = 2 ∨ n.val = 4 ∨ n.val = 8) ∧ a.tagFail =
      false) ∧ (addr.toNat - brRegion c) % n.val = 0 ∧ q = (s.dropAtOff c (addr.toNat - brRegion c) n).spoilLines c
      (addr.toNat - brRegion c) n ∧ BrSent (s.bridge c).txs ∧ s.inflight c < 64 ∧ s.rb (winA c k 0) 30 = true ∧ s.rb (winA c
      k 0) 28 = false ∧ (∀ h, a.who = .hart h → (s.hart h).await = none) ∧ c ≠ 3 → Gives (.bridgePostedWrite a addr n v) s
      fun t => t.bridge c =
      { q.bridge c with nextTag := (s.brTag c + 1) % brTags c, txs := (q.bridge c).txs ++ [{ tag := s.brTag c, acc := a, tid := (s.tagsOf a.who).tid, w := (s.tagsOf a.who).w, off := (addr.toNat - brRegion c), bytes := n, op := .write, data := v, win := k, placed := true, posted := true, phase := .sent, sentAt := s.ticks }] }
      ∧ BrBut q t c ∧ Answers t .done ∧ { t with brg := q.brg, resp := q.resp } = q)
    ∧ (s.logicOn = true ∧ bridgeOf addr.toNat = some c.val ∧ s.brUp c = true ∧ s.winAt c (addr.toNat - brRegion c) = some
      k.val ∧ (c.val < 3 ∧ (n.val = 4 ∨ n.val = 8) ∨ c = 3 ∧ (n.val = 1 ∨ n.val = 2 ∨ n.val = 4 ∨ n.val = 8) ∧ a.tagFail =
      false) ∧ (addr.toNat - brRegion c) % n.val = 0 ∧ q = (s.dropAtOff c (addr.toNat - brRegion c) n).spoilLines c
      (addr.toNat - brRegion c) n ∧ BrSent (s.bridge c).txs ∧ s.inflight c < 64 ∧ s.rb (winA c k 0) 30 = true ∧ s.rb (winA c
      k 0) 28 = false ∧ (∀ h, a.who = .hart h → (s.hart h).await = none) ∧ c = 3 → Gives (.bridgePostedWrite a addr n v) s
      fun t => t = State.pairSend
      { q.setBridge c { q.bridge c with nextTag := (s.brTag c + 1) % brTags c, txs := (q.bridge c).txs ++ [{ tag := s.brTag c, acc := a, tid := (s.tagsOf a.who).tid, w := (s.tagsOf a.who).w, off := (addr.toNat - brRegion c), bytes := n, op := .write, data := v, win := k, placed := true, posted := true, phase := .sent, sentAt := s.ticks }] } with resp := ⟨.done, 0⟩ }
      6 (s.brReq
      { tag := s.brTag c, acc := a, tid := (s.tagsOf a.who).tid, w := (s.tagsOf a.who).w, off := (addr.toNat - brRegion c), bytes := n, op := .write, data := v, win := k, placed := true, posted := true, phase := .sent, sentAt := s.ticks }))
    ∧ (s.logicOn = true ∧ bridgeOf addr.toNat = some c.val ∧ s.brUp c = true ∧ s.winAt c (addr.toNat - brRegion c) = some
      k.val ∧ (c.val < 3 ∧ (n.val = 4 ∨ n.val = 8) ∨ c = 3 ∧ (n.val = 1 ∨ n.val = 2 ∨ n.val = 4 ∨ n.val = 8) ∧ a.tagFail =
      false) ∧ (addr.toNat - brRegion c) % n.val = 0 ∧ q = (s.dropAtOff c (addr.toNat - brRegion c) n).spoilLines c
      (addr.toNat - brRegion c) n ∧ BrSent (s.bridge c).txs ∧ 64 ≤ s.inflight c → Gives (.bridgePostedWrite a addr n v) s
      fun t => t.bridge c =
      { q.bridge c with nextTag := (s.brTag c + 1) % brTags c, txs := (q.bridge c).txs ++ [{ tag := s.brTag c, acc := a, tid := (s.tagsOf a.who).tid, w := (s.tagsOf a.who).w, off := (addr.toNat - brRegion c), bytes := n, op := .write, data := v, win := k, placed := false }] }
      ∧ BrBut q t c ∧ { t with brg := q.brg } = q)
    ∧ (s.logicOn = true ∧ bridgeOf addr.toNat = some c.val ∧ s.brUp c = true ∧ s.winAt c (addr.toNat - brRegion c) = some
      k.val ∧ (c.val < 3 ∧ (n.val = 4 ∨ n.val = 8) ∨ c = 3 ∧ (n.val = 1 ∨ n.val = 2 ∨ n.val = 4 ∨ n.val = 8) ∧ a.tagFail =
      false) ∧ (addr.toNat - brRegion c) % n.val = 0 ∧ q = (if wr then (s.dropAtOff c (addr.toNat - brRegion c)
      n).spoilLines c (addr.toNat - brRegion c) n else s) ∧ BrSent (s.bridge c).txs ∧ s.inflight c < 64 ∧ (∀ y ∈ (s.bridge
      c).txs, y.posted = true → y.dead = true ∨ y.win ≠ k) ∧ s.rb (winA c k 0) 28 = false ∧ (wr = true → s.rb (winA c k 0)
      30 = false) ∧ (wr = true ∨ s.rb (winA c k 0) 29 = false ∨ a.tagFail = true ∨ s.lineHit c
      { tag := s.brTag c, acc := a, tid := (s.tagsOf a.who).tid, w := (s.tagsOf a.who).w, off := (addr.toNat - brRegion c), bytes := n, op := .read, data := v, win := k, placed := true }
      = none) ∧ c ≠ 3 → Gives (.bridgeNonpostedAccess a wr addr n v) s fun t => t.bridge c =
      { q.bridge c with nextTag := (s.brTag c + 1) % brTags c, txs := (q.bridge c).txs ++ [{ tag := s.brTag c, acc := a, tid := (s.tagsOf a.who).tid, w := (s.tagsOf a.who).w, off := (addr.toNat - brRegion c), bytes := n, op := (if wr then .write else if s.rb (winA c k 0) 29 && !a.tagFail then .line else .read), data := v, win := k, placed := true, posted := false, phase := .sent, sentAt := s.ticks }] }
      ∧ BrBut q t c ∧ { t with brg := q.brg } = q)
    ∧ (s.logicOn = true ∧ bridgeOf addr.toNat = some c.val ∧ s.brUp c = true ∧ s.winAt c (addr.toNat - brRegion c) = some
      k.val ∧ (c.val < 3 ∧ (n.val = 4 ∨ n.val = 8) ∨ c = 3 ∧ (n.val = 1 ∨ n.val = 2 ∨ n.val = 4 ∨ n.val = 8) ∧ a.tagFail =
      false) ∧ (addr.toNat - brRegion c) % n.val = 0 ∧ q = (if wr then (s.dropAtOff c (addr.toNat - brRegion c)
      n).spoilLines c (addr.toNat - brRegion c) n else s) ∧ BrSent (s.bridge c).txs ∧ s.inflight c < 64 ∧ (∀ y ∈ (s.bridge
      c).txs, y.posted = true → y.dead = true ∨ y.win ≠ k) ∧ s.rb (winA c k 0) 28 = false ∧ (wr = true → s.rb (winA c k 0)
      30 = false) ∧ (wr = true ∨ s.rb (winA c k 0) 29 = false ∨ a.tagFail = true ∨ s.lineHit c
      { tag := s.brTag c, acc := a, tid := (s.tagsOf a.who).tid, w := (s.tagsOf a.who).w, off := (addr.toNat - brRegion c), bytes := n, op := .read, data := v, win := k, placed := true }
      = none) ∧ c = 3 → Gives (.bridgeNonpostedAccess a wr addr n v) s fun t => t = State.pairSend (q.setBridge c
      { q.bridge c with nextTag := (s.brTag c + 1) % brTags c, txs := (q.bridge c).txs ++ [{ tag := s.brTag c, acc := a, tid := (s.tagsOf a.who).tid, w := (s.tagsOf a.who).w, off := (addr.toNat - brRegion c), bytes := n, op := (if wr then .write else if s.rb (winA c k 0) 29 && !a.tagFail then .line else .read), data := v, win := k, placed := true, posted := false, phase := .sent, sentAt := s.ticks }] })
      6 (s.brReq
      { tag := s.brTag c, acc := a, tid := (s.tagsOf a.who).tid, w := (s.tagsOf a.who).w, off := (addr.toNat - brRegion c), bytes := n, op := (if wr then .write else if s.rb (winA c k 0) 29 && !a.tagFail then .line else .read), data := v, win := k, placed := true, posted := false, phase := .sent, sentAt := s.ticks }))
    ∧ (s.logicOn = true ∧ bridgeOf addr.toNat = some c.val ∧ s.brUp c = true ∧ s.winAt c (addr.toNat - brRegion c) = some
      k.val ∧ (c.val < 3 ∧ (n.val = 4 ∨ n.val = 8) ∨ c = 3 ∧ (n.val = 1 ∨ n.val = 2 ∨ n.val = 4 ∨ n.val = 8) ∧ a.tagFail =
      false) ∧ (addr.toNat - brRegion c) % n.val = 0 ∧ q = (if wr then (s.dropAtOff c (addr.toNat - brRegion c)
      n).spoilLines c (addr.toNat - brRegion c) n else s) ∧ BrSent (s.bridge c).txs ∧ 64 ≤ s.inflight c → Gives
      (.bridgeNonpostedAccess a wr addr n v) s fun t => t.bridge c =
      { q.bridge c with nextTag := (s.brTag c + 1) % brTags c, txs := (q.bridge c).txs ++ [{ tag := s.brTag c, acc := a, tid := (s.tagsOf a.who).tid, w := (s.tagsOf a.who).w, off := (addr.toNat - brRegion c), bytes := n, op := (if wr then .write else .read), data := v, win := k, placed := false }] }
      ∧ BrBut q t c ∧ { t with brg := q.brg } = q)
    ∧ (s.logicOn = true ∧ bridgeOf addr.toNat = some c.val ∧ s.brUp c = true ∧ s.winAt c (addr.toNat - brRegion c) = some
      k.val ∧ (c.val < 3 ∧ (n.val = 4 ∨ n.val = 8) ∨ c = 3 ∧ (n.val = 1 ∨ n.val = 2 ∨ n.val = 4 ∨ n.val = 8) ∧ a.tagFail =
      false) ∧ (addr.toNat - brRegion c) % n.val = 0 ∧ q = (if wr then (s.dropAtOff c (addr.toNat - brRegion c)
      n).spoilLines c (addr.toNat - brRegion c) n else s) ∧ BrSent (s.bridge c).txs ∧ s.inflight c < 64 ∧ (∃ y ∈ (s.bridge
      c).txs, y.posted = true ∧ y.dead = false ∧ y.win = k ∧ y.tag ≠ s.brTag c) ∧ (wr = true → s.rb (winA c k 0) 30 = false)
      → Gives (.bridgeNonpostedAccess a wr addr n v) s fun t => t.bridge c =
      { q.bridge c with nextTag := (s.brTag c + 1) % brTags c, txs := (q.bridge c).txs ++ [{ tag := s.brTag c, acc := a, tid := (s.tagsOf a.who).tid, w := (s.tagsOf a.who).w, off := (addr.toNat - brRegion c), bytes := n, op := (if wr then .write else .read), data := v, win := k, placed := true }] }
      ∧ BrBut q t c ∧ { t with brg := q.brg } = q)
    ∧ (s.logicOn = true ∧ bridgeOf addr.toNat = some c.val ∧ s.brUp c = true ∧ s.winAt c (addr.toNat - brRegion c) = some
      k.val ∧ (c.val < 3 ∧ (n.val = 4 ∨ n.val = 8) ∨ c = 3 ∧ (n.val = 1 ∨ n.val = 2 ∨ n.val = 4 ∨ n.val = 8) ∧ a.tagFail =
      false) ∧ (addr.toNat - brRegion c) % n.val = 0 ∧ q = (if wr then (s.dropAtOff c (addr.toNat - brRegion c)
      n).spoilLines c (addr.toNat - brRegion c) n else s) ∧ BrSent (s.bridge c).txs ∧ s.inflight c < 64 ∧ (∀ y ∈ (s.bridge
      c).txs, y.posted = true → y.dead = true ∨ y.win ≠ k) ∧ NoHart a ∧ s.rb (winA c k 0) 28 = true → Gives
      (.bridgeNonpostedAccess a wr addr n v) s fun t => t.bridge c =
      { q.bridge c with nextTag := (s.brTag c + 1) % brTags c } ∧ BrBut q t c ∧ Answers t .farError ∧
      { t with brg := q.brg, resp := q.resp } = q)
    ∧ (s.logicOn = true ∧ bridgeOf addr.toNat = some c.val ∧ NoHart a ∧ s.brUp c = false → (Gives (.bridgeNonpostedAccess a wr
      addr n v) s fun t => Refuses s t .farError) ∧ Gives (.bridgePostedWrite a addr n v) s fun t => Refuses s t .farError)
    ∧ (s.logicOn = true ∧ bridgeOf addr.toNat = some c.val ∧ NoHart a ∧ s.brUp c = true ∧ c = 3 ∧ a.tagFail = false ∧ s.winAt
      c (addr.toNat - brRegion c) = none → Gives (.bridgeNonpostedAccess a wr addr n v) s fun t => Refuses s t .range)
    ∧ (s.logicOn = true ∧ bridgeOf addr.toNat = some c.val ∧ NoHart a ∧ s.brUp c = true ∧ c ≠ 3 ∧ a.tagFail = false ∧ s.tagsOf
      a.who = ⟨0, true⟩ ∧ (n.val = 1 ∨ n.val = 2 ∨ n.val ≠ 0 ∧ (addr.toNat - brRegion c) % n.val ≠ 0) ∧ wr = false ∧
      (addr.toNat - brRegion c) / 4 * 4 < 0x1000 → Gives (.bridgeNonpostedAccess a wr addr n v) s fun t => Refuses s t
      .align)
    ∧ (s.logicOn = true ∧ bridgeOf addr.toNat = some c.val ∧ s.brUp c = true ∧ s.winAt c (addr.toNat - brRegion c) = some
      k.val ∧ (c.val < 3 ∧ (n.val = 4 ∨ n.val = 8) ∨ c = 3 ∧ (n.val = 1 ∨ n.val = 2 ∨ n.val = 4 ∨ n.val = 8) ∧ a.tagFail =
      false) ∧ (addr.toNat - brRegion c) % n.val = 0 ∧ BrSent (s.bridge c).txs ∧ s.inflight c < 64 ∧ (∀ y ∈ (s.bridge
      c).txs, y.posted = true → y.dead = true ∨ y.win ≠ k) ∧ (s.bridge c).lines = [l] ∧ l.base ≤ (addr.toNat - brRegion c) ∧
      (addr.toNat - brRegion c) < l.base + 64 ∧ l.tid = (s.tagsOf a.who).tid ∧ l.w = (s.tagsOf a.who).w ∧ l.win = k ∧
      l.words.getD (((addr.toNat - brRegion c) - l.base) / 4) none = some u ∧ n.val = 4 ∧ l.base % 4 = 0 ∧ s.rb (winA c k 0)
      28 = false ∧ s.rb (winA c k 0) 29 = true ∧ a.tagFail = false ∧ (∀ h, a.who = .hart h → (s.hart h).await = none) →
      Gives (.bridgeNonpostedAccess a false addr n v) s fun t => t.resp = ⟨.done, u.zeroExtend 64⟩ ∧ t.bridge c =
      { s.bridge c with nextTag := (s.brTag c + 1) % brTags c, lines := [{ l with given := l.given ++ if l.given.contains (((addr.toNat - brRegion c) - l.base) / 4) then [] else [((addr.toNat - brRegion c) - l.base) / 4] }] }
      ∧ (∀ i, i ≠ c.val → t.bridge i = s.bridge i) ∧ { t with brg := s.brg, resp := s.resp } = s)
    ∧ (s.logicOn = true ∧ bridgeOf addr.toNat = some c.val ∧ s.brUp c = true ∧ s.winAt c (addr.toNat - brRegion c) = some
      k.val ∧ (c.val < 3 ∧ (n.val = 4 ∨ n.val = 8) ∨ c = 3 ∧ (n.val = 1 ∨ n.val = 2 ∨ n.val = 4 ∨ n.val = 8) ∧ a.tagFail =
      false) ∧ (addr.toNat - brRegion c) % n.val = 0 ∧ q = (s.dropAtOff c (addr.toNat - brRegion c) n).spoilLines c
      (addr.toNat - brRegion c) n → (Gives (.bridgePostedWrite a addr n v) s fun t => t = State.brRun (q.setBridge c
      { q.bridge c with nextTag := (s.brTag c + 1) % brTags c, txs := (q.bridge c).txs ++ [{ tag := s.brTag c, acc := a, tid := (s.tagsOf a.who).tid, w := (s.tagsOf a.who).w, off := (addr.toNat - brRegion c), bytes := n, op := .write, data := v, win := k, placed := false }] })
      c) ∧ (Gives (.bridgeNonpostedAccess a true addr n v) s fun t => t = State.brRun (q.setBridge c
      { q.bridge c with nextTag := (s.brTag c + 1) % brTags c, txs := (q.bridge c).txs ++ [{ tag := s.brTag c, acc := a, tid := (s.tagsOf a.who).tid, w := (s.tagsOf a.who).w, off := (addr.toNat - brRegion c), bytes := n, op := .write, data := v, win := k, placed := false }] })
      c) ∧ Gives (.bridgeNonpostedAccess a false addr n v) s fun t => t = State.brRun (s.setBridge c
      { s.bridge c with nextTag := (s.brTag c + 1) % brTags c, txs := (s.bridge c).txs ++ [{ tag := s.brTag c, acc := a, tid := (s.tagsOf a.who).tid, w := (s.tagsOf a.who).w, off := (addr.toNat - brRegion c), bytes := n, op := .read, data := v, win := k, placed := false }] })
      c)
    ∧ (s.logicOn = true ∧ bridgeOf addr.toNat = some c.val ∧ s.brUp c = true ∧ c ≠ 3 ∧ inSide c (addr.toNat - brRegion c) =
      false ∧ s.winAt c (addr.toNat - brRegion c) = some k.val ∧ (addr.toNat - brRegion c) % 4 = 0 ∧ q = s ∧ BrSent
      (s.bridge c).txs ∧ s.inflight c < 64 ∧ (∀ y ∈ (s.bridge c).txs, y.posted = true → y.dead = true ∨ y.win ≠ k) ∧ s.rb
      (winA c k 0) 28 = false → Gives (.bridgeLr a addr false) s fun t => t.bridge c =
      { q.bridge c with nextTag := (s.brTag c + 1) % brTags c, txs := (q.bridge c).txs ++ [{ tag := s.brTag c, acc := a, tid := (s.tagsOf a.who).tid, w := (s.tagsOf a.who).w, off := (addr.toNat - brRegion c), bytes := 4, op := .lr, data := 0, win := k, placed := true, posted := false, phase := .sent, sentAt := s.ticks }] }
      ∧ BrBut q t c ∧ { t with brg := q.brg } = q)
    ∧ (s.logicOn = true ∧ bridgeOf addr.toNat = some c.val ∧ s.brUp c = true ∧ c ≠ 3 ∧ inSide c (addr.toNat - brRegion c) =
      false ∧ s.winAt c (addr.toNat - brRegion c) = some k.val ∧ (addr.toNat - brRegion c) % 4 = 0 ∧ q = s → Gives
      (.bridgeLr a addr false) s fun t => t = State.brRun (q.setBridge c
      { q.bridge c with nextTag := (s.brTag c + 1) % brTags c, txs := (q.bridge c).txs ++ [{ tag := s.brTag c, acc := a, tid := (s.tagsOf a.who).tid, w := (s.tagsOf a.who).w, off := (addr.toNat - brRegion c), bytes := 4, op := .lr, data := 0, win := k, placed := false }] })
      c)
    ∧ (s.logicOn = true ∧ bridgeOf addr.toNat = some c.val ∧ s.brUp c = true ∧ c ≠ 3 ∧ inSide c (addr.toNat - brRegion c) =
      false ∧ s.winAt c (addr.toNat - brRegion c) = some k.val ∧ (addr.toNat - brRegion c) % 4 = 0 ∧ q = (s.dropAtOff c
      (addr.toNat - brRegion c) 4).spoilLines c (addr.toNat - brRegion c) 4 ∧ BrSent (s.bridge c).txs ∧ s.inflight c < 64 ∧
      (∀ y ∈ (s.bridge c).txs, y.posted = true → y.dead = true ∨ y.win ≠ k) ∧ s.rb (winA c k 0) 28 = false → Gives
      (.bridgeSc a addr false v) s fun t => t.bridge c =
      { q.bridge c with nextTag := (s.brTag c + 1) % brTags c, txs := (q.bridge c).txs ++ [{ tag := s.brTag c, acc := a, tid := (s.tagsOf a.who).tid, w := (s.tagsOf a.who).w, off := (addr.toNat - brRegion c), bytes := 4, op := .sc, data := v, win := k, placed := true, posted := false, phase := .sent, sentAt := s.ticks }] }
      ∧ BrBut q t c ∧ { t with brg := q.brg } = q)
    ∧ (s.logicOn = true ∧ bridgeOf addr.toNat = some c.val ∧ s.brUp c = true ∧ c ≠ 3 ∧ inSide c (addr.toNat - brRegion c) =
      false ∧ s.winAt c (addr.toNat - brRegion c) = some k.val ∧ (addr.toNat - brRegion c) % 4 = 0 ∧ q = (s.dropAtOff c
      (addr.toNat - brRegion c) 4).spoilLines c (addr.toNat - brRegion c) 4 → Gives (.bridgeSc a addr false v) s fun t => t
      = State.brRun (q.setBridge c
      { q.bridge c with nextTag := (s.brTag c + 1) % brTags c, txs := (q.bridge c).txs ++ [{ tag := s.brTag c, acc := a, tid := (s.tagsOf a.who).tid, w := (s.tagsOf a.who).w, off := (addr.toNat - brRegion c), bytes := 4, op := .sc, data := v, win := k, placed := false }] })
      c)
    ∧ (s.logicOn = true ∧ bridgeOf addr.toNat = some c.val ∧ s.brUp c = true ∧ c ≠ 3 ∧ inSide c (addr.toNat - brRegion c) =
      false ∧ s.winAt c (addr.toNat - brRegion c) = some k.val ∧ (addr.toNat - brRegion c) % 4 = 0 ∧ q = (s.dropAtOff c
      (addr.toNat - brRegion c) 4).spoilLines c (addr.toNat - brRegion c) 4 ∧ BrSent (s.bridge c).txs ∧ s.inflight c < 64 ∧
      (∀ y ∈ (s.bridge c).txs, y.posted = true → y.dead = true ∨ y.win ≠ k) ∧ s.rb (winA c k 0) 28 = false → Gives
      (.bridgeAmo a addr false j v) s fun t => t.bridge c =
      { q.bridge c with nextTag := (s.brTag c + 1) % brTags c, txs := (q.bridge c).txs ++ [{ tag := s.brTag c, acc := a, tid := (s.tagsOf a.who).tid, w := (s.tagsOf a.who).w, off := (addr.toNat - brRegion c), bytes := 4, op := .amo j, data := v, win := k, placed := true, posted := false, phase := .sent, sentAt := s.ticks }] }
      ∧ BrBut q t c ∧ { t with brg := q.brg } = q)
    ∧ (s.logicOn = true ∧ bridgeOf addr.toNat = some c.val ∧ s.brUp c = true ∧ c ≠ 3 ∧ inSide c (addr.toNat - brRegion c) =
      false ∧ s.winAt c (addr.toNat - brRegion c) = some k.val ∧ (addr.toNat - brRegion c) % 4 = 0 ∧ q = (s.dropAtOff c
      (addr.toNat - brRegion c) 4).spoilLines c (addr.toNat - brRegion c) 4 → Gives (.bridgeAmo a addr false j v) s fun t =>
      t = State.brRun (q.setBridge c
      { q.bridge c with nextTag := (s.brTag c + 1) % brTags c, txs := (q.bridge c).txs ++ [{ tag := s.brTag c, acc := a, tid := (s.tagsOf a.who).tid, w := (s.tagsOf a.who).w, off := (addr.toNat - brRegion c), bytes := 4, op := .amo j, data := v, win := k, placed := false }] })
      c)
    ∧ (s.logicOn = true ∧ bridgeOf addr.toNat = some c.val ∧ s.brUp c = true ∧ c ≠ 3 ∧ inSide c (addr.toNat - brRegion c) =
      false ∧ s.winAt c (addr.toNat - brRegion c) = some k.val ∧ (addr.toNat - brRegion c) % 4 = 0 ∧ NoHart a ∧ a.tagFail =
      false ∧ s.tagsOf a.who = ⟨0, true⟩ ∧ (addr.toNat - brRegion c) < 0x1000 ∧ ((addr.toNat - brRegion c) < 0x10 ∨ 0x14 <
      (addr.toNat - brRegion c)) ∧ (addr.toNat - brRegion c) ≠ 4 ∧ (addr.toNat - brRegion c) ≠ 0x100 ∧ c.val < 2 → (Gives
      (.bridgeLr a addr true) s fun t => Refuses s t .align) ∧ (Gives (.bridgeSc a addr true v) s fun t => Refuses s t
      .align) ∧ (Gives (.bridgeAmo a addr true j v) s fun t => Refuses s t .align))
    ∧ (s.logicOn = true ∧ bridgeOf addr.toNat = some c.val ∧ s.brUp c = true ∧ NoHart a ∧ a.tagFail = false ∧ s.tagsOf a.who =
      ⟨0, true⟩ ∧ (c = 3 ∨ c.val < 2 ∧ inSide c (addr.toNat - brRegion c) = true) ∧ s.winAt c (addr.toNat - brRegion c) =
      some k.val → (Gives (.bridgeLr a addr wr) s fun t => Refuses s t .range) ∧ (Gives (.bridgeSc a addr wr v) s fun t =>
      Refuses s t .range) ∧ (Gives (.bridgeAmo a addr wr j v) s fun t => Refuses s t .range))
    ∧ (s.logicOn = true ∧ (s.link b).up = true ∧ (s.bridge b).txs.find? (s.farReady b) = some x → Gives (.farDieAccess b) s
      fun t => t = s.farPerform b x)
    ∧ (s.logicOn = true ∧ (s.link b).up = true ∧ (s.bridge b).txs.find? (s.farReady b) = none → Gives (.farDieAccess b) s fun
      t => t = s)
    ∧ (s.logicOn = true ∧ (s.link b).up = true ∧ (s.bridge b).txs.find? (s.farReady b) = some x ∧ x.acc.tagFail = false ∧
      (s.bridge b).sem = none ∧ x.op = .read → Gives (.farDieAccess b) s fun t => t = (s.farReadN x.tags (brRegion b +
      x.off) x.bytes).2.2.brSet b
      { x with phase := .answered (s.farReadN x.tags (brRegion b + x.off) x.bytes).1 (s.farReadN x.tags (brRegion b + x.off) x.bytes).2.1, words := [] })
    ∧ (s.logicOn = true ∧ (s.link b).up = true ∧ (s.bridge b).txs.find? (s.farReady b) = some x ∧ x.acc.tagFail = false ∧
      (s.bridge b).sem = none ∧ x.op = .write → Gives (.farDieAccess b) s fun t => t = ((s.farWriteN x.tags (brRegion b +
      x.off) x.bytes x.data).2.brSet b
      { x with phase := .answered (s.farWriteN x.tags (brRegion b + x.off) x.bytes x.data).1 0, words := [] }).reReport b
      x.off)
    ∧ (s.logicOn = true ∧ (s.link b).up = true ∧ (s.bridge b).txs.find? (s.farReady b) = some x ∧ x.acc.tagFail = true ∧
      (s.bridge b).sem = none ∧ x.op = .read → Gives (.farDieAccess b) s fun t => t = (s.reportAt 0x0006 (brRegion b +
      x.off) x.tags).brSet b { x with phase := .answered .access 0, words := [] })
    ∧ (s.logicOn = true ∧ (s.link b).up = true ∧ (s.bridge b).txs = [x] ∧ x.phase = .sent ∧ x.lost = false ∧ x.acc.tagFail =
      false ∧ b.val < 2 ∧ x.tid = 0 ∧ x.w = true ∧ x.off + 4 < 0x1000 ∧ x.off ≠ 0x10 ∧ x.off ≠ 0xC ∧ x.off ≠ 0x100 ∧ x.off ≠
      4 ∧ (s.bridge b).sem = none ∧ x.op = .read ∧ x.bytes = 4 → Gives (.farDieAccess b) s fun t => t.bridge b =
      { s.bridge b with txs := [{ x with phase := .answered .done ((s.rd (brRegion b + x.off)).zeroExtend 64), words := [] }] }
      ∧ (∀ i, i ≠ b.val → t.bridge i = s.bridge i) ∧ { t with brg := s.brg } = s)
    ∧ (s.logicOn = true ∧ (s.link b).up = true ∧ (s.bridge b).txs = [x] ∧ x.phase = .sent ∧ x.lost = false ∧ x.acc.tagFail =
      false ∧ b.val < 2 ∧ x.tid = 0 ∧ x.w = true ∧ x.off + 4 < 0x1000 ∧ x.off ≠ 0x10 ∧ x.off ≠ 0xC ∧ x.off ≠ 0x100 ∧ x.off ≠
      4 ∧ (s.bridge b).sem = none ∧ x.op = .read ∧ x.bytes = 8 → Gives (.farDieAccess b) s fun t => t.bridge b =
      { s.bridge b with txs := [{ x with phase := .answered .done (BitVec.ofNat 64 ((s.rd (brRegion b + x.off)).toNat + (s.rd ((brRegion b + x.off) + 4)).toNat * 2 ^ 32)), words := [] }] }
      ∧ (∀ i, i ≠ b.val → t.bridge i = s.bridge i) ∧ { t with brg := s.brg } = s)
    ∧ (s.logicOn = true ∧ (s.link b).up = true ∧ (s.bridge b).txs = [x] ∧ x.phase = .sent ∧ x.lost = false ∧ x.acc.tagFail =
      false ∧ b.val < 2 ∧ x.tid = 0 ∧ x.w = true ∧ x.off + 4 < 0x1000 ∧ x.off ≠ 0x10 ∧ x.off ≠ 0xC ∧ x.off ≠ 0x100 ∧ x.off ≠
      4 ∧ (s.bridge b).sem = none ∧ x.op = .write ∧ x.bytes = 4 → Gives (.farDieAccess b) s fun t => t.rd (brRegion b +
      x.off) = maskedWrite (regDesc (brRegion b + x.off)) (s.rd (brRegion b + x.off)) (wd x.data.toNat) ∧ RegsBut s t
      [(brRegion b + x.off)] ∧ t.bridge b =
      { s.bridge b with txs := [{ x with phase := .answered .done (0), words := [] }], told := (s.bridge b).told.filter fun i => i != 32 }
      ∧ (∀ i, i ≠ b.val → t.bridge i = s.bridge i) ∧ { t with regs := s.regs, brg := s.brg } = s)
    ∧ (s.logicOn = true ∧ (s.link b).up = true ∧ (s.bridge b).txs = [x] ∧ x.phase = .sent ∧ x.lost = false ∧ x.acc.tagFail =
      false ∧ b.val < 2 ∧ x.tid = 0 ∧ x.w = true ∧ x.off + 4 < 0x1000 ∧ x.off ≠ 0x10 ∧ x.off ≠ 0xC ∧ x.off ≠ 0x100 ∧ x.off ≠
      4 ∧ (s.bridge b).sem = none ∧ (x.op = .lr ∨ x.op = .amo j) → Gives (.farDieAccess b) s fun t => t.bridge b =
      { s.bridge b with txs := [{ x with phase := .answered .done ((s.rd (brRegion b + x.off)).signExtend 64), words := [] }], sem := some { who := x.acc.who, off := x.off, image := s.rd (brRegion b + x.off) }, told := if x.op = .lr then (s.bridge b).told else (s.bridge b).told.filter fun i => i != 32 }
      ∧ (∀ i, i ≠ b.val → t.bridge i = s.bridge i) ∧ { t with brg := s.brg } = s)
    ∧ (s.logicOn = true ∧ (s.link b).up = true ∧ (s.bridge b).txs = [x] ∧ x.phase = .sent ∧ x.lost = false ∧ x.acc.tagFail =
      false ∧ b.val < 2 ∧ x.tid = 0 ∧ x.w = true ∧ x.off + 4 < 0x1000 ∧ x.off ≠ 0x10 ∧ x.off ≠ 0xC ∧ x.off ≠ 0x100 ∧ x.off ≠
      4 ∧ (s.bridge b).sem = some m ∧ m.who = x.acc.who ∧ m.off = x.off ∧ m.image = s.rd (brRegion b + x.off) ∧ x.op = .sc →
      Gives (.farDieAccess b) s fun t => t.rd (brRegion b + x.off) = maskedWrite (regDesc (brRegion b + x.off)) (s.rd
      (brRegion b + x.off)) (wd x.data.toNat) ∧ RegsBut s t [(brRegion b + x.off)] ∧ t.bridge b =
      { s.bridge b with txs := [{ x with phase := .answered .done (0), words := [] }], sem := none, told := (s.bridge b).told.filter fun i => i != 32 }
      ∧ (∀ i, i ≠ b.val → t.bridge i = s.bridge i) ∧ { t with regs := s.regs, brg := s.brg } = s)
    ∧ (s.logicOn = true ∧ (s.link b).up = true ∧ (s.bridge b).txs = [x] ∧ x.phase = .sent ∧ x.lost = false ∧ x.acc.tagFail =
      false ∧ b.val < 2 ∧ x.tid = 0 ∧ x.w = true ∧ x.off + 4 < 0x1000 ∧ x.off ≠ 0x10 ∧ x.off ≠ 0xC ∧ x.off ≠ 0x100 ∧ x.off ≠
      4 ∧ (s.bridge b).sem = none ∧ x.op = .sc → Gives (.farDieAccess b) s fun t => t.bridge b =
      { s.bridge b with txs := [{ x with phase := .answered .done (1), words := [] }], told := (s.bridge b).told.filter fun i => i != 32 }
      ∧ (∀ i, i ≠ b.val → t.bridge i = s.bridge i) ∧ { t with brg := s.brg } = s)
    ∧ (s.logicOn = true ∧ (s.link b).up = true ∧ (s.bridge b).txs = [x] ∧ x.phase = .sent ∧ (s.bridge b).sem = some m ∧ m.who
      ≠ x.acc.who ∧ m.off = x.off ∧ x.bytes = 4 ∧ (x.op = .read ∨ x.op = .write ∨ x.op = .lr) → Gives (.farDieAccess b) s
      fun t => t = s)
    ∧ (s.logicOn = true ∧ (s.link b).up = true ∧ (s.bridge b).txs.find? BrTx.answered = some x ∧ x.phase = .answered st v ∧
      BrSent (brRest s b x) ∧ x.dead = false ∧ x.orphan = false ∧ x.posted = false ∧ (x.op = .read ∨ x.op = .write ∨ x.op =
      .lr ∨ x.op = .sc) → Gives (.bridgeResponse b) s fun t => t = (s.setTxs b (brRest s b x)).finish x.acc (brRegion b +
      x.off) st (v) x.op.load)
    ∧ (s.logicOn = true ∧ (s.link b).up = true ∧ (s.bridge b).txs.find? BrTx.answered = some x ∧ x.phase = .answered st v ∧
      BrSent (brRest s b x) ∧ x.dead = false ∧ x.orphan = false ∧ x.posted = false ∧ x.op = .amo j ∧ st = .done → Gives
      (.bridgeResponse b) s fun t => t = s.setTxs b (brRest s b x ++
      [{ x with op := .amoWrite j (wd v.toNat), data := (amoWord j (wd v.toNat) (wd x.data.toNat)).zeroExtend 64, phase := .sent, sentAt := s.ticks }]))
    ∧ (s.logicOn = true ∧ (s.link b).up = true ∧ (s.bridge b).txs.find? BrTx.answered = some x ∧ x.phase = .answered st v ∧
      BrSent (brRest s b x) ∧ x.dead = false ∧ x.orphan = false ∧ x.posted = false ∧ x.op = .amo j ∧ st ≠ .done → Gives
      (.bridgeResponse b) s fun t => t = (s.setTxs b (brRest s b x)).finish x.acc (brRegion b + x.off) st (0) x.op.load)
    ∧ (s.logicOn = true ∧ (s.link b).up = true ∧ (s.bridge b).txs.find? BrTx.answered = some x ∧ x.phase = .answered st v ∧
      BrSent (brRest s b x) ∧ x.dead = false ∧ x.orphan = false ∧ x.posted = false ∧ x.op = .amoWrite j u → Gives
      (.bridgeResponse b) s fun t => t = (s.setTxs b (brRest s b x)).finish x.acc (brRegion b + x.off) st (if st = .done
      then u.signExtend 64 else 0) x.op.load)
    ∧ (s.logicOn = true ∧ (s.link b).up = true ∧ (s.bridge b).txs.find? BrTx.answered = some x ∧ x.phase = .answered st v ∧
      BrSent (brRest s b x) ∧ x.dead = false ∧ x.orphan = false ∧ x.posted = false ∧ x.op = .line ∧ st ≠ .done → Gives
      (.bridgeResponse b) s fun t => t = (s.setTxs b (brRest s b x)).finish x.acc (brRegion b + x.off) st (0) x.op.load)
    ∧ (s.logicOn = true ∧ (s.link b).up = true ∧ (s.bridge b).txs.find? BrTx.answered = some x ∧ x.phase = .answered st v ∧
      BrSent (brRest s b x) ∧ x.dead = false ∧ x.orphan = false ∧ (∀ h, x.acc.who ≠ .hart h) ∧ x.posted = false ∧ x.op =
      .line ∧ st = .done ∧ lineData x.words (x.off / 64 * 64) x.off x.bytes ≠ none → Gives (.bridgeResponse b) s fun t =>
      t.resp = ⟨.done, BitVec.ofNat 64 ((lineData x.words (x.off / 64 * 64) x.off x.bytes).getD 0)⟩ ∧ (t.bridge b).txs =
      brRest s b x ∧ (∀ i, i ≠ b.val → t.bridge i = s.bridge i) ∧ RegsBut s t [brA b 0x20, brA b 0x24] ∧
      { t with regs := s.regs, brg := s.brg, reports := s.reports, resp := s.resp } = s)
    ∧ (s.logicOn = true ∧ (s.link b).up = true ∧ (s.bridge b).txs.find? BrTx.answered = some x ∧ x.phase = .answered st v ∧
      BrSent (brRest s b x) ∧ x.dead = false ∧ x.orphan = false ∧ x.posted = true → Gives (.bridgeResponse b) s fun t => t =
      (if st = .done then (s.setTxs b (brRest s b x)) else (s.setTxs b (brRest s b x)).brFail b x.win x.off x.tags st))
    ∧ (s.logicOn = true ∧ (s.link b).up = true ∧ (s.bridge b).txs.find? BrTx.answered = some x ∧ BrSent (brRest s b x) ∧
      x.dead = true → Gives (.bridgeResponse b) s fun t => t = (s.setTxs b (brRest s b x)))
    ∧ (s.logicOn = true ∧ (s.link b).up = true ∧ (s.bridge b).txs.find? BrTx.answered = some x ∧ x.phase = .answered st v →
      Gives (.bridgeResponse b) s fun t => t = State.brRun ((s.brDrop b x.tag).brBack b x st v) b)
    ∧ (s.logicOn = true ∧ (s.link b).up = true ∧ (s.bridge b).txs.find? BrTx.answered = some x ∧ x.phase = .answered st v ∧
      BrSent (brRest s b x) ∧ x.dead = false ∧ x.orphan = false ∧ (∀ h, x.acc.who ≠ .hart h) ∧ x.posted = false ∧ (x.op =
      .read ∨ x.op = .write ∨ x.op = .lr ∨ x.op = .sc) → Gives (.bridgeResponse b) s fun t => t.resp = ⟨st, v⟩ ∧ t.bridge b
      = { s.bridge b with txs := brRest s b x } ∧ (∀ i, i ≠ b.val → t.bridge i = s.bridge i) ∧
      { t with brg := s.brg, resp := s.resp } = s)
    ∧ (s.logicOn = true ∧ (s.link b).up = true ∧ (s.bridge b).txs.find? BrTx.answered = some x ∧ x.phase = .answered st v ∧
      BrSent (brRest s b x) ∧ x.dead = false ∧ x.orphan = false ∧ (∀ h, x.acc.who ≠ .hart h) ∧ x.posted = true ∧ st = .done
      → Gives (.bridgeResponse b) s fun t => t.bridge b = { s.bridge b with txs := brRest s b x } ∧ (∀ i, i ≠ b.val →
      t.bridge i = s.bridge i) ∧ { t with brg := s.brg } = s)
    ∧ (s.logicOn = true ∧ (s.link b).up = true ∧ (s.bridge b).txs.find? BrTx.answered = some x ∧ x.phase = .answered st v ∧
      BrSent (brRest s b x) ∧ x.dead = false ∧ x.orphan = false ∧ (∀ h, x.acc.who ≠ .hart h) ∧ x.posted = true ∧ st ≠ .done
      ∧ (s.bridge b).lines = [] ∧ (s.bridge b).errs.length < 16 ∧ x.win = k → Gives (.bridgeResponse b) s fun t => t.rd
      (winA b k 0) = setBit (s.rd (winA b k 0)) 28 true ∧ t.bridge b =
      { s.bridge b with txs := brRest s b x, errs := (s.bridge b).errs ++ [⟨x.off, k, x.tid, x.w, st, s.now⟩] } ∧ (∀ i, i ≠
      b.val → t.bridge i = s.bridge i) ∧ Reported s t [(0x7001, b * 16 + k, x.off % 2 ^ 32)] ∧ t.msis = s.msis ++ (if fld
      (s.rd (winA b k 8)) 26 16 = 0 then [] else [⟨fld (s.rd (winA b k 8)) 2 0, 1 + fld (s.rd (winA b k 8)) 5 3, fld (s.rd
      (winA b k 8)) 26 16⟩]) ∧ RegsBut s t [winA b k 0] ∧
      { t with regs := s.regs, brg := s.brg, reports := s.reports, msis := s.msis } = s)
    ∧ (s.logicOn = true ∧ (s.link b).up = true ∧ (s.bridge b).txs.find? BrTx.answered = some x ∧ x.phase = .answered st v ∧
      BrSent (brRest s b x) ∧ x.dead = false ∧ x.orphan = false ∧ (∀ h, x.acc.who ≠ .hart h) ∧ x.posted = true ∧ st ≠ .done
      ∧ (s.bridge b).lines = [] ∧ (s.bridge b).errs.length = 16 ∧ x.win = k ∧ fld (s.rd (winA b k 8)) 26 16 = 0 → Gives
      (.bridgeResponse b) s fun t => t.rd (winA b k 0) = setBit (s.rd (winA b k 0)) 28 true ∧ t.rd (brA b 0x1C) = setBit
      (s.rd (brA b 0x1C)) 8 true ∧ t.bridge b = { s.bridge b with txs := brRest s b x } ∧ (∀ i, i ≠ b.val → t.bridge i =
      s.bridge i) ∧ Reported s t [(0x7002, b * 16 + k, x.off % 2 ^ 32), (0x7001, b * 16 + k, x.off % 2 ^ 32)] ∧ RegsBut s t
      [winA b k 0, brA b 0x1C] ∧ { t with regs := s.regs, brg := s.brg, reports := s.reports } = s)
    ∧ (s.logicOn = true ∧ (s.link b).up = true ∧ (s.bridge b).txs.find? BrTx.answered = some x ∧ x.phase = .answered st v ∧
      BrSent (brRest s b x) ∧ x.dead = false ∧ x.orphan = false ∧ (∀ h, x.acc.who ≠ .hart h) ∧ x.posted = false ∧ x.op =
      .amo j ∧ st = .done → Gives (.bridgeResponse b) s fun t => t.bridge b =
      { s.bridge b with txs := brRest s b x ++ [{ x with op := .amoWrite j (wd v.toNat), data := (amoWord j (wd v.toNat) (wd x.data.toNat)).zeroExtend 64, phase := .sent, sentAt := s.ticks }] }
      ∧ (∀ i, i ≠ b.val → t.bridge i = s.bridge i) ∧ { t with brg := s.brg } = s)
    ∧ (s.logicOn = true ∧ (s.link b).up = true ∧ (s.bridge b).txs.find? BrTx.answered = some x ∧ x.phase = .answered st v ∧
      BrSent (brRest s b x) ∧ x.dead = false ∧ x.orphan = false ∧ (∀ h, x.acc.who ≠ .hart h) ∧ x.posted = false ∧ x.op =
      .amoWrite j u → Gives (.bridgeResponse b) s fun t => t.resp = ⟨st, if st = .done then u.signExtend 64 else 0⟩ ∧
      t.bridge b = { s.bridge b with txs := brRest s b x } ∧ (∀ i, i ≠ b.val → t.bridge i = s.bridge i) ∧
      { t with brg := s.brg, resp := s.resp } = s)
    ∧ (s.logicOn = true ∧ (s.link b).up = true ∧ (s.bridge b).txs.find? BrTx.answered = some x ∧ x.phase = .answered st v ∧
      BrSent (brRest s b x) ∧ x.dead = false ∧ x.orphan = false ∧ (∀ h, x.acc.who ≠ .hart h) ∧ x.posted = false ∧ x.op =
      .line ∧ st = .done ∧ x.bytes = 4 ∧ x.words.getD (x.off % 64 / 4) none = some u ∧ x.off % 4 = 0 ∧ x.win = k ∧ x.spoiled
      = false ∧ (s.bridge b).lines = [] ∧ s.rb (winA b k 0) 29 = true ∧ s.rb (winA b k 0) 28 = false → Gives
      (.bridgeResponse b) s fun t => t.resp = ⟨.done, u.zeroExtend 64⟩ ∧ t.bridge b =
      { s.bridge b with txs := brRest s b x, lines := [⟨x.tag, x.off / 64 * 64, x.tid, x.w, k, x.words, [x.off % 64 / 4]⟩] }
      ∧ (∀ i, i ≠ b.val → t.bridge i = s.bridge i) ∧ { t with brg := s.brg, resp := s.resp } = s)
    ∧ (s.logicOn = true ∧ (s.bridge c).txs.find? (fun y => y.out && s.brOverdue c y) = some x ∧ BrSent (brRest s c x) ∧
      x.orphan = false ∧ (x.placed = true ∨ c = 3 ∨ x.lost = true) ∧ x.phase ≠ .queued ∧ (∀ h, x.acc.who ≠ .hart h) ∧
      x.posted = false ∧ x.win = k → Gives (.bridgeTimeout c) s fun t => Answers t .timeout ∧ t.bridge c =
      { s.bridge c with txs := (if c = 3 ∨ x.lost = true then brRest s c x else (s.bridge c).txs.map fun y => if y.tag = x.tag then { x with dead := true } else y) }
      ∧ (∀ i, i ≠ c.val → t.bridge i = s.bridge i) ∧ Reported s t [(0x7003, c * 16 + k, x.off % 2 ^ 32)] ∧
      { t with brg := s.brg, reports := s.reports, resp := s.resp } = s)
    ∧ (s.logicOn = true ∧ (s.bridge c).txs.find? (fun y => y.out && s.brOverdue c y) = some x ∧ BrSent (brRest s c x) ∧
      x.orphan = false ∧ (x.placed = true ∨ c = 3 ∨ x.lost = true) ∧ x.phase ≠ .queued ∧ x.posted = false ∧ x.win = k →
      Gives (.bridgeTimeout c) s fun t => t = State.finish ((s.setTxs c (if c = 3 ∨ x.lost = true then brRest s c x else
      (s.bridge c).txs.map fun y => if y.tag = x.tag then { x with dead := true } else y)).report 0x7003 (c * 16 + k) x.off
      x.tid x.w) x.acc (brRegion c + x.off) .timeout 0 x.op.load)
    ∧ (s.logicOn = true ∧ (s.bridge c).txs.find? (fun y => y.out && s.brOverdue c y) = some x ∧ BrSent (brRest s c x) ∧
      x.orphan = false ∧ (x.placed = true ∨ c = 3 ∨ x.lost = true) ∧ x.phase ≠ .queued ∧ x.posted = true ∧ (s.bridge
      c).lines = [] ∧ (s.bridge c).errs.length < 16 ∧ x.win = k → Gives (.bridgeTimeout c) s fun t => t.rd (winA c k 0) =
      setBit (s.rd (winA c k 0)) 28 true ∧ t.bridge c =
      { s.bridge c with txs := (if c = 3 ∨ x.lost = true then brRest s c x else (s.bridge c).txs.map fun y => if y.tag = x.tag then { x with dead := true } else y), errs := (s.bridge c).errs ++ [⟨x.off, k, x.tid, x.w, .timeout, s.now⟩] }
      ∧ (∀ i, i ≠ c.val → t.bridge i = s.bridge i) ∧ Reported s t [(0x7001, c * 16 + k, x.off % 2 ^ 32)] ∧ t.msis = s.msis
      ++ (if fld (s.rd (winA c k 8)) 26 16 = 0 then [] else [⟨fld (s.rd (winA c k 8)) 2 0, 1 + fld (s.rd (winA c k 8)) 5 3,
      fld (s.rd (winA c k 8)) 26 16⟩]) ∧ RegsBut s t [winA c k 0] ∧
      { t with regs := s.regs, brg := s.brg, reports := s.reports, msis := s.msis } = s)
    ∧ (s.logicOn = true ∧ (s.bridge c).txs.find? (fun y => y.out && s.brOverdue c y) = some x ∧ BrSent (brRest s c x) ∧
      x.orphan = false ∧ (x.placed = true ∨ c = 3 ∨ x.lost = true) ∧ x.phase ≠ .queued ∧ x.posted = true → Gives
      (.bridgeTimeout c) s fun t => t = (s.setTxs c (if c = 3 ∨ x.lost = true then brRest s c x else (s.bridge c).txs.map
      fun y => if y.tag = x.tag then { x with dead := true } else y)).brFail c x.win x.off x.tags .timeout)
    ∧ (s.logicOn = true ∧ (s.bridge c).txs.find? (fun y => y.out && s.brOverdue c y) = none → Gives (.bridgeTimeout c) s fun t
      => t = s)
    ∧ (s.logicOn = true ∧ (s.bridge b).sem = some m → Gives (.semaphoreTimeout b) s fun t => t.bridge b =
      { s.bridge b with sem := none } ∧ (∀ i, i ≠ b.val → t.bridge i = s.bridge i) ∧ Reported s t [(0x7006, (b * 16 +
      (s.winAt b m.off).getD 0) % 2 ^ 32, m.off % 2 ^ 32)] ∧ { t with brg := s.brg, reports := s.reports } = s)
    ∧ (s.logicOn = true ∧ (s.bridge c).lines = [l] ∧ ∀ i, i < 16 → (l.words.getD i none).isSome = false ∨ l.given.contains i =
      true → Gives (.prefetchLineExpiry c) s fun t => t.bridge c = { s.bridge c with lines := [] } ∧ (∀ i, i ≠ c.val →
      t.bridge i = s.bridge i) ∧ { t with brg := s.brg } = s)
    ∧ (s.logicOn = true ∧ (s.bridge c).lines.find? (fun y => (s.bridge c).lines.all fun z => y.uid ≤ z.uid) = some l → Gives
      (.prefetchLineExpiry c) s fun t => t.bridge c =
      { s.bridge c with lines := (s.bridge c).lines.filter fun y => y.uid != l.uid } ∧ (∀ i, i ≠ c.val → t.bridge i =
      s.bridge i) ∧ RegsBut s t [brA c 0x20, brA c 0x24] ∧ { t with brg := s.brg, regs := s.regs, reports := s.reports } =
      s)
    ∧ (s.logicOn = true ∧ (s.bridge c).lines = [l] ∧ (∃ i ∈ List.range 16, (l.words.getD i none).isSome = true ∧
      l.given.contains i = false) ∧ (∀ i, i < 16 → inSide c (l.base + 4 * i) = false) → Gives (.prefetchLineExpiry c) s fun
      t => t.bridge c = { s.bridge c with lines := [] } ∧ (∀ i, i ≠ c.val → t.bridge i = s.bridge i) ∧ t.rd (brA c 0x20) =
      setFld (s.rd (brA c 0x20)) 15 0 (min (s.rf (brA c 0x20) 15 0 + 1) 65535) ∧ RegsBut s t [brA c 0x20] ∧
      { t with brg := s.brg, regs := s.regs } = s)
    ∧ (s.logicOn = true ∧ (s.bridge c).lines = [l] ∧ inSide c l.base = true ∧ (l.words.getD 0 none).isSome = true ∧
      l.given.contains 0 = false ∧ l.win = k → Gives (.prefetchLineExpiry c) s fun t => t.bridge c =
      { s.bridge c with lines := [] } ∧ (∀ i, i ≠ c.val → t.bridge i = s.bridge i) ∧ t.rd (brA c 0x20) = setFld (setFld
      (s.rd (brA c 0x20)) 15 0 (min (s.rf (brA c 0x20) 15 0 + 1) 65535)) 31 16 (min (s.rf (brA c 0x20) 31 16 + 1) 65535) ∧
      t.rd (brA c 0x24) = wd l.base ∧ Reported s t [(0x7004, c * 16 + k, l.base % 2 ^ 32)] ∧ RegsBut s t [brA c 0x20, brA c
      0x24] ∧ { t with brg := s.brg, regs := s.regs, reports := s.reports } = s)
    ∧ (Reaches s a (winA c k 0) ∧ Manager s a ∧ s.winRefuse c k u (s.rf (winA c k 4) 15 0) = none ∧ BrSent (s.bridge c).txs →
      Gives (.windowConfigWrite a c k false u) s fun t => t.rd (winA c k 0) = maskedWrite (regDesc (winA c k 0)) (s.rd (winA
      c k 0)) (if k = 0 then setBit u 31 (c != 3) else u) ∧ (t.bridge c).lines = (if t.rd (winA c k 0) = s.rd (winA c k 0)
      then (s.bridge c).lines else (s.bridge c).lines.filter fun y => y.win != k.val) ∧
      { t.bridge c with lines := (s.bridge c).lines } = s.bridge c ∧ (∀ i, i ≠ c.val → t.bridge i = s.bridge i) ∧ RegsBut s
      t [winA c k 0, brA c 0x20, brA c 0x24] ∧ Answers t .done ∧
      { t with regs := s.regs, brg := s.brg, reports := s.reports, resp := s.resp } = s)
    ∧ (Reaches s a (winA c k 0) ∧ Manager s a ∧ s.winRefuse c k u (s.rf (winA c k 4) 15 0) = none → Gives (.windowConfigWrite
      a c k false u) s fun t => t.rd (winA c k 0) = maskedWrite (regDesc (winA c k 0)) (s.rd (winA c k 0)) (if k = 0 then
      setBit u 31 (c != 3) else u) ∧ Answers t .done)
    ∧ (Reaches s a (winA c k 4) ∧ Manager s a ∧ s.winRefuse c k (s.rd (winA c k 0)) (fld u 15 0) = none → Gives
      (.windowConfigWrite a c k true u) s fun t => Writes s t (winA c k 4) u)
    ∧ (Reaches s a (winA c k 0) ∧ Manager s a ∧ NoHart a ∧ k ≠ 0 ∧ bit u 31 = true ∧ 0xFFFF < s.rf (winA c k 4) 15 0 + fld u
      15 0 → Gives (.windowConfigWrite a c k false u) s fun t => Refuses s t .range)
    ∧ (Reaches s a (winA c k 0) ∧ Manager s a ∧ NoHart a ∧ k ≠ 0 ∧ s.rf (winA c k 4) 15 0 + fld u 15 0 ≤ 0xFFFF ∧ bit u 31 =
      true ∧ (∃ i ∈ List.range 16, i ≠ 0 ∧ i ≠ k.val ∧ s.rb (winA c i 0) 31 = true ∧ s.rf (winA c k 4) 15 0 ≤ s.rf (winA c i
      4) 15 0 + s.rf (winA c i 0) 15 0 ∧ s.rf (winA c i 4) 15 0 ≤ s.rf (winA c k 4) 15 0 + fld u 15 0) → Gives
      (.windowConfigWrite a c k false u) s fun t => Refuses s t .conflict)
    ∧ (Reaches s a (winA c k 0) ∧ Manager s a ∧ s.winRefuse c k (setBit (s.rd (winA c k 0)) 28 true) (s.rf (winA c k 4) 15 0)
      = none ∧ BrSent (s.bridge c).txs → Gives (.poisonClear a c k) s fun t => t.rd (winA c k 0) = setBit (if k = 0 ∧ c ≠ 3
      then setBit (s.rd (winA c k 0)) 31 true else s.rd (winA c k 0)) 28 false ∧ (t.bridge c).lines = (if t.rd (winA c k 0)
      = s.rd (winA c k 0) then (s.bridge c).lines else (s.bridge c).lines.filter fun y => y.win != k.val) ∧
      { t.bridge c with lines := (s.bridge c).lines } = s.bridge c ∧ (∀ i, i ≠ c.val → t.bridge i = s.bridge i) ∧ RegsBut s
      t [winA c k 0, brA c 0x20, brA c 0x24] ∧ Answers t .done ∧
      { t with regs := s.regs, brg := s.brg, reports := s.reports, resp := s.resp } = s)
    ∧ (Reaches s a (winA c k 0) ∧ Manager s a ∧ s.winRefuse c k (setBit (s.rd (winA c k 0)) 28 true) (s.rf (winA c k 4) 15 0)
      = none → Gives (.poisonClear a c k) s fun t => t.rb (winA c k 0) 28 = false ∧ Answers t .done)
    ∧ (Reaches s a (winA c k 0) ∧ Manager s a ∧ NoHart a ∧ s.postedOut c k = true ∧ (k = 0 ∨ s.rb (winA c k 0) 31 = false) →
      Gives (.poisonClear a c k) s fun t => Refuses s t .conflict)
    ∧ (Reaches s a (brA c 0x1C) ∧ Manager s a → Gives (.errRecordNext a c) s fun t => (t.bridge c).errs = (s.bridge
      c).errs.drop 1 ∧ { t.bridge c with errs := (s.bridge c).errs } = s.bridge c ∧ (∀ i, i ≠ c.val → t.bridge i = s.bridge
      i) ∧ t.rd (brA c 0x1C) = maskedWrite (regDesc (brA c 0x1C)) (s.rd (brA c 0x1C)) 1 ∧ RegsBut s t [brA c 0x1C] ∧ Answers
      t .done ∧ { t with regs := s.regs, brg := s.brg, resp := s.resp } = s)
    ∧ (s.logicOn = true ∧ (s.link b).up = true ∧ s.farIrq b r = true ∧ (s.bridge b).told.contains r.val = false → Gives
      (.farIrqRaise b r) s fun t => t.bridge b = { s.bridge b with told := (s.bridge b).told ++ [r.val] } ∧ (∀ i, i ≠ b.val
      → t.bridge i = s.bridge i) ∧ t.msis = s.msis ++ (if bit (s.rd (brA b (0x400 + r * 4))) 31 then [⟨fld (s.rd (brA b
      (0x400 + r * 4))) 2 0, 1 + fld (s.rd (brA b (0x400 + r * 4))) 5 3, fld (s.rd (brA b (0x400 + r * 4))) 26 16⟩] else [])
      ∧ { t with brg := s.brg, msis := s.msis } = s)
    ∧ (s.logicOn = true ∧ (s.link b).up = true ∧ s.farIrq b r = true ∧ (s.bridge b).told.contains r.val = true → Gives
      (.farIrqRaise b r) s fun t => t = s)
    ∧ (s.logicOn = true ∧ (s.link b).up = true ∧ s.farIrq b r = false → Gives (.farIrqRaise b r) s fun t => t.bridge b =
      { s.bridge b with told := (s.bridge b).told.filter fun i => i != r.val } ∧ (∀ i, i ≠ b.val → t.bridge i = s.bridge i)
      ∧ { t with brg := s.brg } = s)

/-- An instruction of the profile writes its result and the hart goes on at the next instruction or at the branch's target;
  loads, stores and atomic operations act at their target with the hart's tags, and an access that cannot be served waits
  (R544, R545, R16, R18); CSR instructions exchange with their CSR; ECALL, EBREAK, an illegal instruction and an interrupt
  trap, MRET and SRET return; a difference between the two copies of second pressing traps with cause 24 (R564, R565). The
  integer operations, the traps and the CSR layout are presumed from the RISC-V specifications (log 11). -/
def Obligations.HartInstructions : Prop :=
  ∀ (s : State) (h : HartId) (i : HartStep) (p : AluOp) (rd rs1 rs2 rs3 : Fin 32) (b : Src2) (k v : DWord) (c : BrCond) (l : Fin 4) (sg g : Bool) (tr : Xlate) (x : Nat) (word : BitVec 32) (q : AmoOp) (op : CsrOp) (n : BitVec 12) (u : State),
    (Fetches s h i u → (∀ j, j ≠ h.val → u.hart j = s.hart j) ∧
      { u.hart h with held := (s.hart h).held, tlb := (s.hart h).tlb } = s.hart h ∧ (u.hart h).held = false ∧
      { u with harts := s.harts } = s)
    ∧ (Steps s h i u ∧ i.op = .int p rd rs1 b → Gives (.hartInstruction h i) s fun t => OnlyHart u t h (Hart.retire
      { ((u.hart h)).setX rd (alu p ((u.hart h).xr rs1) (b.val (u.hart h).view)) with pc := ((u.hart h).pc + dwd i.len) }
      (u.hart h)))
    ∧ (Steps s h i u ∧ i.op = .orcb rd rs1 → Gives (.hartInstruction h i) s fun t => OnlyHart u t h (Hart.retire
      { ((u.hart h)).setX rd (orcb ((u.hart h).xr rs1)) with pc := ((u.hart h).pc + dwd i.len) } (u.hart h)))
    ∧ (Steps s h i u ∧ i.op = .lui rd k → Gives (.hartInstruction h i) s fun t => OnlyHart u t h (Hart.retire
      { ((u.hart h)).setX rd (k) with pc := ((u.hart h).pc + dwd i.len) } (u.hart h)))
    ∧ (Steps s h i u ∧ i.op = .auipc rd k → Gives (.hartInstruction h i) s fun t => OnlyHart u t h (Hart.retire
      { ((u.hart h)).setX rd ((u.hart h).pc + k) with pc := ((u.hart h).pc + dwd i.len) } (u.hart h)))
    ∧ (Steps s h i u ∧ i.op = .jal rd k → Gives (.hartInstruction h i) s fun t => OnlyHart u t h (Hart.retire
      { ((u.hart h)).setX rd ((u.hart h).pc + dwd i.len) with pc := (u.hart h).pc + k } (u.hart h)))
    ∧ (Steps s h i u ∧ i.op = .jalr rd rs1 k → Gives (.hartInstruction h i) s fun t => OnlyHart u t h (Hart.retire
      { ((u.hart h)).setX rd ((u.hart h).pc + dwd i.len) with pc := (((u.hart h).xr rs1) + k) &&& ~~~1#64 } (u.hart h)))
    ∧ (Steps s h i u ∧ i.op = .branch c rs1 rs2 k → Gives (.hartInstruction h i) s fun t => OnlyHart u t h (Hart.retire
      { u.hart h with pc := if brTaken c ((u.hart h).xr rs1) ((u.hart h).xr rs2) then (u.hart h).pc + k else ((u.hart h).pc + dwd i.len) }
      (u.hart h)))
    ∧ (Steps s h i u ∧ i.op = .load rd rs1 k l sg g tr ∧ i.tagFail = false ∧ HartSram u h g .load (((u.hart h).xr rs1) + k) (2
      ^ l.val) tr x ∧ u.anyBad x (2 ^ l.val) = false → Gives (.hartInstruction h i) s fun t => t.resp = ⟨.done, BitVec.ofNat
      64 (u.ldLE x (2 ^ l.val))⟩ ∧ t.hart h =
      { Hart.setX (Hart.tlbKeep ((u.hart h).retire (u.hart h)) ((u.hart h).effMode g) .load (((u.hart h).xr rs1) + k) x) rd (loadValue false sg (2 ^ l.val) (BitVec.ofNat 64 (u.ldLE x (2 ^ l.val)))) with pc := ((u.hart h).pc + dwd i.len) }
      ∧ HartsBut u t h ∧ { t with harts := u.harts, resp := u.resp } = u)
    ∧ (Steps s h i u ∧ i.op = .store rs1 rs2 k l g tr ∧ i.tagFail = false ∧ HartSram u h g .store (((u.hart h).xr rs1) + k) (2
      ^ l.val) tr x ∧ u.mayWrite (u.tagsOf (.hart h)) x (2 ^ l.val) = true → Gives (.hartInstruction h i) s fun t =>
      t.ldBytes x (2 ^ l.val) = leBytes (2 ^ l.val) ((u.hart h).xr rs2).toNat ∧ MemBut u t x (2 ^ l.val) ∧ StoreSide
      { u with harts := t.harts } t ∧ (∀ j, j ≠ h.val → { t.hart j with resv := (u.hart j).resv } = u.hart j) ∧
      { t with harts := u.harts, mem := u.mem, eccBad := u.eccBad, resp := u.resp } = u ∧ Answers t .done ∧
      { t.hart h with resv := (u.hart h).resv } =
      { (Hart.tlbKeep ((u.hart h).retire (u.hart h)) ((u.hart h).effMode g) .store (((u.hart h).xr rs1) + k) x) with pc := ((u.hart h).pc + dwd i.len) })
    ∧ (Steps s h i u ∧ i.op = .fload rd rs1 k sg tr ∧ i.tagFail = false ∧ HartSram u h false .load (((u.hart h).xr rs1) + k)
      (if sg then 8 else 4) tr x ∧ u.anyBad x (if sg then 8 else 4) = false → Gives (.hartInstruction h i) s fun t => t.resp
      = ⟨.done, BitVec.ofNat 64 (u.ldLE x (if sg then 8 else 4))⟩ ∧ t.hart h =
      { (Hart.tlbKeep (Hart.fsDirty ((u.hart h).retire (u.hart h))) ((u.hart h).effMode false) .load (((u.hart h).xr rs1) + k) x).setF rd (loadValue true false (if sg then 8 else 4) (BitVec.ofNat 64 (u.ldLE x (if sg then 8 else 4)))) with pc := ((u.hart h).pc + dwd i.len) }
      ∧ HartsBut u t h ∧ { t with harts := u.harts, resp := u.resp } = u)
    ∧ (Steps s h i u ∧ i.op = .fstore rs1 rs2 k sg tr ∧ i.tagFail = false ∧ HartSram u h false .store (((u.hart h).xr rs1) +
      k) (if sg then 8 else 4) tr x ∧ u.mayWrite (u.tagsOf (.hart h)) x (if sg then 8 else 4) = true → Gives
      (.hartInstruction h i) s fun t => t.ldBytes x (if sg then 8 else 4) = leBytes (if sg then 8 else 4) ((u.hart h).fr
      rs2).toNat ∧ MemBut u t x (if sg then 8 else 4) ∧ StoreSide { u with harts := t.harts } t ∧ (∀ j, j ≠ h.val →
      { t.hart j with resv := (u.hart j).resv } = u.hart j) ∧
      { t with harts := u.harts, mem := u.mem, eccBad := u.eccBad, resp := u.resp } = u ∧ Answers t .done ∧
      { t.hart h with resv := (u.hart h).resv } =
      { (Hart.tlbKeep ((u.hart h).retire (u.hart h)) ((u.hart h).effMode false) .store (((u.hart h).xr rs1) + k) x) with pc := ((u.hart h).pc + dwd i.len) })
    ∧ (Steps s h i u ∧ i.op = .lr rd rs1 sg tr ∧ i.tagFail = false ∧ HartSram u h false .load ((u.hart h).xr rs1) (if sg then
      8 else 4) tr x ∧ u.anyBad x (if sg then 8 else 4) = false ∧ ((u.hart h).xr rs1).toNat % (if sg then 8 else 4) = 0 →
      Gives (.hartInstruction h i) s fun t => t.resp = ⟨.done, BitVec.ofNat 64 (u.ldLE x (if sg then 8 else 4))⟩ ∧ t.hart h
      =
      { Hart.setX (Hart.tlbKeep ((u.hart h).retire (u.hart h)) ((u.hart h).effMode false) .load ((u.hart h).xr rs1) x) rd (loadValue false true (if sg then 8 else 4) (BitVec.ofNat 64 (u.ldLE x (if sg then 8 else 4)))) with resv := some x, pc := ((u.hart h).pc + dwd i.len) }
      ∧ HartsBut u t h ∧ { t with harts := u.harts, resp := u.resp } = u)
    ∧ (Steps s h i u ∧ i.op = .sc rd rs1 rs2 sg tr ∧ i.tagFail = false ∧ HartSram u h false .amo ((u.hart h).xr rs1) (if sg
      then 8 else 4) tr x ∧ ((u.hart h).xr rs1).toNat % (if sg then 8 else 4) = 0 ∧ (u.hart h).resv = some x ∧ u.mayWrite
      (u.tagsOf (.hart h)) x (if sg then 8 else 4) = true → Gives (.hartInstruction h i) s fun t => t.ldBytes x (if sg then
      8 else 4) = leBytes (if sg then 8 else 4) ((u.hart h).xr rs2).toNat ∧ MemBut u t x (if sg then 8 else 4) ∧ StoreSide
      { u with harts := t.harts } t ∧ (∀ j, j ≠ h.val → { t.hart j with resv := (u.hart j).resv } = u.hart j) ∧
      { t with harts := u.harts, mem := u.mem, eccBad := u.eccBad, resp := u.resp } = u ∧ Answers t .done ∧ t.hart h =
      { Hart.setX (Hart.tlbKeep ((u.hart h).retire (u.hart h)) ((u.hart h).effMode false) .amo ((u.hart h).xr rs1) x) rd 0 with resv := none, pc := ((u.hart h).pc + dwd i.len) })
    ∧ (Steps s h i u ∧ i.op = .sc rd rs1 rs2 sg tr ∧ i.tagFail = false ∧ HartSram u h false .amo ((u.hart h).xr rs1) (if sg
      then 8 else 4) tr x ∧ ((u.hart h).xr rs1).toNat % (if sg then 8 else 4) = 0 ∧ (u.hart h).resv ≠ some x → Gives
      (.hartInstruction h i) s fun t => t.resp = ⟨.done, 1⟩ ∧ t.hart h =
      { Hart.setX (Hart.tlbKeep ((u.hart h).retire (u.hart h)) ((u.hart h).effMode false) .amo ((u.hart h).xr rs1) x) rd 1 with resv := none, pc := ((u.hart h).pc + dwd i.len) }
      ∧ HartsBut u t h ∧ { t with harts := u.harts, resp := u.resp } = u)
    ∧ (Steps s h i u ∧ i.op = .amo q rd rs1 rs2 sg tr ∧ i.tagFail = false ∧ HartSram u h false .amo ((u.hart h).xr rs1) (if sg
      then 8 else 4) tr x ∧ u.anyBad x (if sg then 8 else 4) = false ∧ ((u.hart h).xr rs1).toNat % (if sg then 8 else 4) = 0
      ∧ u.mayWrite (u.tagsOf (.hart h)) x (if sg then 8 else 4) = true → Gives (.hartInstruction h i) s fun t => t.ldBytes x
      (if sg then 8 else 4) = leBytes (if sg then 8 else 4) (if sg then (amoVal q (BitVec.ofNat 64 (u.ldLE x (if sg then 8
      else 4))) ((u.hart h).xr rs2)).toNat else (amoVal q (wd (u.ldLE x (if sg then 8 else 4))) (lowW ((u.hart h).xr
      rs2))).toNat) ∧ MemBut u t x (if sg then 8 else 4) ∧ StoreSide { u with harts := t.harts } t ∧ (∀ j, j ≠ h.val →
      { t.hart j with resv := (u.hart j).resv } = u.hart j) ∧
      { t with harts := u.harts, mem := u.mem, eccBad := u.eccBad, resp := u.resp } = u ∧ t.resp = ⟨.done, BitVec.ofNat 64
      (u.ldLE x (if sg then 8 else 4))⟩ ∧ { t.hart h with resv := none } =
      { Hart.setX (Hart.tlbKeep ((u.hart h).retire (u.hart h)) ((u.hart h).effMode false) .amo ((u.hart h).xr rs1) x) rd (loadValue false true (if sg then 8 else 4) (BitVec.ofNat 64 (u.ldLE x (if sg then 8 else 4)))) with resv := none, pc := ((u.hart h).pc + dwd i.len) })
    ∧ (Steps s h i u ∧ i.op = .load rd rs1 k l sg g tr ∧ HartAt u h g .load (((u.hart h).xr rs1) + k) (2 ^ l.val) tr x → Gives
      (.hartInstruction h i) s fun t => SameButHarts ((State.busRead (u.setHart h
      { (Hart.tlbKeep ((u.hart h).retire (u.hart h)) ((u.hart h).effMode g) .load (((u.hart h).xr rs1) + k) x) with await := some { addr := x, va := (((u.hart h).xr rs1) + k), rd := rd, bytes := (2 ^ l.val), signed := sg, load := true, next := ((u.hart h).pc + dwd i.len) } })
      ⟨.hart h, i.tagFail⟩ x (2 ^ l.val)).2.2.finish ⟨.hart h, i.tagFail⟩ x (State.busRead (u.setHart h
      { (Hart.tlbKeep ((u.hart h).retire (u.hart h)) ((u.hart h).effMode g) .load (((u.hart h).xr rs1) + k) x) with await := some { addr := x, va := (((u.hart h).xr rs1) + k), rd := rd, bytes := (2 ^ l.val), signed := sg, load := true, next := ((u.hart h).pc + dwd i.len) } })
      ⟨.hart h, i.tagFail⟩ x (2 ^ l.val)).1 (State.busRead (u.setHart h
      { (Hart.tlbKeep ((u.hart h).retire (u.hart h)) ((u.hart h).effMode g) .load (((u.hart h).xr rs1) + k) x) with await := some { addr := x, va := (((u.hart h).xr rs1) + k), rd := rd, bytes := (2 ^ l.val), signed := sg, load := true, next := ((u.hart h).pc + dwd i.len) } })
      ⟨.hart h, i.tagFail⟩ x (2 ^ l.val)).2.1 true) t)
    ∧ (Steps s h i u ∧ i.op = .hlvx rd rs1 sg tr ∧ HartAt u h true .hlvx ((u.hart h).xr rs1) (if sg then 4 else 2) tr x →
      Gives (.hartInstruction h i) s fun t => SameButHarts ((State.busRead (u.setHart h
      { (Hart.tlbKeep ((u.hart h).retire (u.hart h)) ((u.hart h).effMode true) .hlvx ((u.hart h).xr rs1) x) with await := some { addr := x, va := ((u.hart h).xr rs1), rd := rd, bytes := (if sg then 4 else 2), signed := false, load := true, next := ((u.hart h).pc + dwd i.len) } })
      ⟨.hart h, i.tagFail⟩ x (if sg then 4 else 2)).2.2.finish ⟨.hart h, i.tagFail⟩ x (State.busRead (u.setHart h
      { (Hart.tlbKeep ((u.hart h).retire (u.hart h)) ((u.hart h).effMode true) .hlvx ((u.hart h).xr rs1) x) with await := some { addr := x, va := ((u.hart h).xr rs1), rd := rd, bytes := (if sg then 4 else 2), signed := false, load := true, next := ((u.hart h).pc + dwd i.len) } })
      ⟨.hart h, i.tagFail⟩ x (if sg then 4 else 2)).1 (State.busRead (u.setHart h
      { (Hart.tlbKeep ((u.hart h).retire (u.hart h)) ((u.hart h).effMode true) .hlvx ((u.hart h).xr rs1) x) with await := some { addr := x, va := ((u.hart h).xr rs1), rd := rd, bytes := (if sg then 4 else 2), signed := false, load := true, next := ((u.hart h).pc + dwd i.len) } })
      ⟨.hart h, i.tagFail⟩ x (if sg then 4 else 2)).2.1 true) t)
    ∧ (Steps s h i u ∧ i.op = .store rs1 rs2 k l g tr ∧ HartAt u h g .store (((u.hart h).xr rs1) + k) (2 ^ l.val) tr x ∧
      (State.busWrite (u.setHart h
      { (Hart.tlbKeep ((u.hart h).retire (u.hart h)) ((u.hart h).effMode g) .store (((u.hart h).xr rs1) + k) x) with await := some { addr := x, va := (((u.hart h).xr rs1) + k), rd := 0, bytes := 8, signed := false, load := false, next := ((u.hart h).pc + dwd i.len) } })
      ⟨.hart h, i.tagFail⟩ x (2 ^ l.val) ((u.hart h).xr rs2)).2 = false → Gives (.hartInstruction h i) s fun t =>
      SameButHarts ((State.busWrite (u.setHart h
      { (Hart.tlbKeep ((u.hart h).retire (u.hart h)) ((u.hart h).effMode g) .store (((u.hart h).xr rs1) + k) x) with await := some { addr := x, va := (((u.hart h).xr rs1) + k), rd := 0, bytes := 8, signed := false, load := false, next := ((u.hart h).pc + dwd i.len) } })
      ⟨.hart h, i.tagFail⟩ x (2 ^ l.val) ((u.hart h).xr rs2)).1.2.finish ⟨.hart h, i.tagFail⟩ x (State.busWrite (u.setHart h
      { (Hart.tlbKeep ((u.hart h).retire (u.hart h)) ((u.hart h).effMode g) .store (((u.hart h).xr rs1) + k) x) with await := some { addr := x, va := (((u.hart h).xr rs1) + k), rd := 0, bytes := 8, signed := false, load := false, next := ((u.hart h).pc + dwd i.len) } })
      ⟨.hart h, i.tagFail⟩ x (2 ^ l.val) ((u.hart h).xr rs2)).1.1) t)
    ∧ (Steps s h i u ∧ (i.op = .load rd rs1 k l sg g tr ∨ i.op = .store rs1 rs2 k l g tr) ∧ HartTo u h g (if i.op = .store rs1
      rs2 k l g tr then .store else .load) (((u.hart h).xr rs1) + k) (2 ^ l.val) tr x ∧ bridgeOf x = none ∧ s.mustWait
      (islandOf x) = true → Gives (.hartInstruction h i) s fun t => t.boundary.length = s.boundary.length + 1 ∧ (t.hart
      h).await.isSome = true ∧ (t.hart h).pc = (u.hart h).pc ∧ HartsBut u t h ∧
      { t with harts := s.harts, boundary := s.boundary } = s)
    ∧ (Steps s h i u ∧ i.op = .load rd rs1 k l sg g tr ∧ HartTo u h g .load (((u.hart h).xr rs1) + k) (2 ^ l.val) tr x ∧
      bridgeOf x = some (word.toNat % 4) → Gives (.hartInstruction h i) s fun t => SameButHarts (State.brEnter (u.setHart h
      { (Hart.tlbKeep ((u.hart h).retire (u.hart h)) ((u.hart h).effMode g) .load (((u.hart h).xr rs1) + k) x) with await := some { addr := x, va := (((u.hart h).xr rs1) + k), rd := rd, bytes := (2 ^ l.val), signed := sg, load := true, next := ((u.hart h).pc + dwd i.len) } })
      ⟨.hart h, i.tagFail⟩ (word.toNat % 4) x (2 ^ l.val) .read 0) t)
    ∧ (Steps s h i u ∧ i.op = .store rs1 rs2 k l g tr ∧ HartTo u h g .store (((u.hart h).xr rs1) + k) (2 ^ l.val) tr x ∧
      bridgeOf x = some (word.toNat % 4) → Gives (.hartInstruction h i) s fun t => SameButHarts (State.brEnter (u.setHart h
      { (Hart.tlbKeep ((u.hart h).retire (u.hart h)) ((u.hart h).effMode g) .store (((u.hart h).xr rs1) + k) x) with await := some { addr := x, va := (((u.hart h).xr rs1) + k), rd := 0, bytes := 8, signed := false, load := false, next := ((u.hart h).pc + dwd i.len) } })
      ⟨.hart h, i.tagFail⟩ (word.toNat % 4) x (2 ^ l.val) .write ((u.hart h).xr rs2)) t)
    ∧ (Steps s h i u ∧ i.op = .load rd rs1 k l sg g tr ∧ faultOf (u.reach h ((u.hart h).effMode g) .load (((u.hart h).xr rs1)
      + k) (2 ^ l.val) tr) = some { cause := x, tval := v } → Gives (.hartInstruction h i) s fun t => OnlyHart u t h
      (Hart.trap ((u.hart h).retire (u.hart h)) x v))
    ∧ (Steps s h i u ∧ i.op = .store rs1 rs2 k l g tr ∧ faultOf (u.reach h ((u.hart h).effMode g) .store (((u.hart h).xr rs1)
      + k) (2 ^ l.val) tr) = some { cause := x, tval := v } → Gives (.hartInstruction h i) s fun t => OnlyHart u t h
      (Hart.trap ((u.hart h).retire (u.hart h)) x v))
    ∧ (Steps s h i u ∧ i.op = .fp word rd rs1 rs2 rs3 → Gives (.hartInstruction h i) s fun t => OnlyHart u t h (Hart.retire
      { (Hart.fsDirty (if (fpuOf word (u.hart h).frm ((u.hart h).fr rs1) ((u.hart h).fr rs2) ((u.hart h).fr rs3)).2 = 0 then (((u.hart h)).setF rd (fpuOf word (u.hart h).frm ((u.hart h).fr rs1) ((u.hart h).fr rs2) ((u.hart h).fr rs3)).1) else ((((u.hart h)).setF rd (fpuOf word (u.hart h).frm ((u.hart h).fr rs1) ((u.hart h).fr rs2) ((u.hart h).fr rs3)).1)).setCsr 3 ((((u.hart h)).setF rd (fpuOf word (u.hart h).frm ((u.hart h).fr rs1) ((u.hart h).fr rs2) ((u.hart h).fr rs3)).1).csr 3 ||| (fpuOf word (u.hart h).frm ((u.hart h).fr rs1) ((u.hart h).fr rs2) ((u.hart h).fr rs3)).2.zeroExtend 64))) with pc := ((u.hart h).pc + dwd i.len) }
      (u.hart h)))
    ∧ (Steps s h i u ∧ i.op = .xToFp word rd rs1 → Gives (.hartInstruction h i) s fun t => OnlyHart u t h (Hart.retire
      { (Hart.fsDirty (if (fpuOf word (u.hart h).frm ((u.hart h).xr rs1) 0 0).2 = 0 then (((u.hart h)).setF rd (fpuOf word (u.hart h).frm ((u.hart h).xr rs1) 0 0).1) else ((((u.hart h)).setF rd (fpuOf word (u.hart h).frm ((u.hart h).xr rs1) 0 0).1)).setCsr 3 ((((u.hart h)).setF rd (fpuOf word (u.hart h).frm ((u.hart h).xr rs1) 0 0).1).csr 3 ||| (fpuOf word (u.hart h).frm ((u.hart h).xr rs1) 0 0).2.zeroExtend 64))) with pc := ((u.hart h).pc + dwd i.len) }
      (u.hart h)))
    ∧ (Steps s h i u ∧ i.op = .fpToX word rd rs1 rs2 → Gives (.hartInstruction h i) s fun t => OnlyHart u t h (Hart.retire
      { (if (fpuOf word (u.hart h).frm ((u.hart h).fr rs1) ((u.hart h).fr rs2) 0).2 = 0 then (((u.hart h)).setX rd (fpuOf word (u.hart h).frm ((u.hart h).fr rs1) ((u.hart h).fr rs2) 0).1) else Hart.fsDirty (((((u.hart h)).setX rd (fpuOf word (u.hart h).frm ((u.hart h).fr rs1) ((u.hart h).fr rs2) 0).1)).setCsr 3 ((((u.hart h)).setX rd (fpuOf word (u.hart h).frm ((u.hart h).fr rs1) ((u.hart h).fr rs2) 0).1).csr 3 ||| (fpuOf word (u.hart h).frm ((u.hart h).fr rs1) ((u.hart h).fr rs2) 0).2.zeroExtend 64))) with pc := ((u.hart h).pc + dwd i.len) }
      (u.hart h)))
    ∧ (Steps s h i u ∧ i.op = .csr op rd n b → Gives (.hartInstruction h i) s fun t => SameButHarts ((u.csrInstr h op rd
      n.toNat b (b.val (u.hart h).view) i.detects ((u.hart h).pc + dwd i.len)).setHart h (((u.csrInstr h op rd n.toNat b
      (b.val (u.hart h).view) i.detects ((u.hart h).pc + dwd i.len)).hart h).icountStep (u.hart h))) t)
    ∧ (Steps s h i u ∧ i.op = .csr op rd n b ∧ n.toNat ∉ [0x344, 0xB02, 0x7A1] ∧ (u.hart h).mode.virt = false ∧ State.csrRead
      u h n.toNat = (v, u) → Gives (.hartInstruction h i) s fun t => SameButHarts (if (op = .write ∨ b ≠ .imm 0 ∧ b ≠ .reg
      0) then State.csrWrite (u.setHart h (Hart.retire { ((u.hart h)).setX rd v with pc := ((u.hart h).pc + dwd i.len) }
      (u.hart h))) h n.toNat (if op = .write then (b.val (u.hart h).view) else if op = .set then v ||| (b.val (u.hart
      h).view) else v &&& ~~~(b.val (u.hart h).view)) i.detects else (u.setHart h (Hart.retire
      { ((u.hart h)).setX rd v with pc := ((u.hart h).pc + dwd i.len) } (u.hart h)))) t)
    ∧ (Steps s h i u ∧ i.op = .csr op rd n b ∧ op = .write ∧ n = 0x340 → Gives (.hartInstruction h i) s fun t => (t.hart
      h).bank.mscratch = (b.val (u.hart h).view) ∧ (t.hart h).xr rd = (if rd = 0 then 0 else (u.hart h).bank.mscratch) ∧
      (t.hart h).pc = ((u.hart h).pc + dwd i.len) ∧ (∀ j, j ≠ rd.val → (t.hart h).xr j = (u.hart h).xr j) ∧ (t.hart h).mode
      = (u.hart h).mode ∧ HartsBut u t h ∧ { t with harts := u.harts } = u)
    ∧ (Steps s h i u ∧ i.op = .fence → Gives (.hartInstruction h i) s fun t => OnlyHart u t h (Hart.retire
      { u.hart h with pc := ((u.hart h).pc + dwd i.len) } (u.hart h)))
    ∧ (Steps s h i u ∧ i.op = .fenceI → Gives (.hartInstruction h i) s fun t => OnlyHart u t h (Hart.retire
      { u.hart h with pc := ((u.hart h).pc + dwd i.len) } (u.hart h)))
    ∧ (Steps s h i u ∧ i.op = .sfence → Gives (.hartInstruction h i) s fun t => OnlyHart u t h (Hart.retire
      { u.hart h with pc := ((u.hart h).pc + dwd i.len), tlb := [] } (u.hart h)))
    ∧ (Steps s h i u ∧ i.op = .hfence → Gives (.hartInstruction h i) s fun t => OnlyHart u t h (Hart.retire
      { u.hart h with pc := ((u.hart h).pc + dwd i.len), tlb := [] } (u.hart h)))
    ∧ (Steps s h i u ∧ i.op = .wfi → Gives (.hartInstruction h i) s fun t => OnlyHart u t h (Hart.retire
      { u.hart h with pc := ((u.hart h).pc + dwd i.len) } (u.hart h)))
    ∧ (Steps s h i u ∧ i.op = .ecall ∧ ((u.hart h).mode = .m ∨ bit ((u.hart h).csr 0x302) (u.hart h).mode.ecall = false) →
      Gives (.hartInstruction h i) s fun t => TrapsM u t h (u.hart h).mode.ecall false (0) ∧ { t with harts := u.harts } =
      u)
    ∧ (Steps s h i u ∧ i.op = .ecall → Gives (.hartInstruction h i) s fun t => OnlyHart u t h (Hart.trap (u.hart h) (u.hart
      h).mode.ecall 0))
    ∧ (Steps s h i u ∧ i.op = .ebreak → Gives (.hartInstruction h i) s fun t => SameButHarts (if u.ebreaks (u.hart h) then
      u.debugEnter h 1 else u.trap h 3 (u.hart h).pc) t)
    ∧ (Steps s h i u ∧ i.op = .ebreak ∧ u.ebreaks (u.hart h) = false ∧ ((u.hart h).mode = .m ∨ bit ((u.hart h).csr 0x302) 3 =
      false) → Gives (.hartInstruction h i) s fun t => TrapsM u t h 3 false ((u.hart h).pc) ∧ { t with harts := u.harts } =
      u)
    ∧ (Steps s h i u ∧ i.op = .mret → Gives (.hartInstruction h i) s fun t => OnlyHart u t h (Hart.retire ((u.hart h)).mret
      (u.hart h)))
    ∧ (Steps s h i u ∧ i.op = .sret → Gives (.hartInstruction h i) s fun t => OnlyHart u t h (Hart.retire ((u.hart h)).sret
      (u.hart h)))
    ∧ (Fetches s h i u ∧ Agrees u h i ∧ (u.hart h).illegal? i = some x ∧ ((u.hart h).mode = .m ∨ bit ((u.hart h).csr 0x302) x
      = false) → Gives (.hartInstruction h i) s fun t => TrapsM u t h x false (i.op.word) ∧ { t with harts := u.harts } = u)
    ∧ (Fetches s h i u ∧ Agrees u h i ∧ (u.hart h).illegal? i = some x → Gives (.hartInstruction h i) s fun t => OnlyHart u t
      h (Hart.trap (u.hart h) x i.op.word))
    ∧ (s.hartRuns h = true ∧ s.draining = false ∧ s.resetHalts h = false ∧ bit ((s.hart h).csr 0x7B0) 2 = false ∧ i.op =
      .interrupt ∧ topInt (s.mInts (s.hart h) (s.hart h).world) = some x ∧ ((s.hart h).world = true ∨ topInt (s.mInts
      (s.hart h) true) = none) ∧ ((s.hart h).mode ≠ .m ∨ bit (s.hart h).bank.mstatus 3 = true) → Gives (.hartInstruction h
      i) s fun t => TrapsM s t h x true 0 ∧ { t with harts := s.harts } = s)
    ∧ (s.hartRuns h = true ∧ s.draining = false ∧ s.resetHalts h = false ∧ bit ((s.hart h).csr 0x7B0) 2 = false ∧ i.op =
      .interrupt → Gives (.hartInstruction h i) s fun t => SameButHarts ((s.released h).takeInterrupt h) t)
    ∧ (Fetches s h i u ∧ (u.hart h).active = true ∧ ((Hart.copy2 (u.hart h) i (u.hart h).mirrorView).map (upsetBy i.upset)) ≠
      some (Hart.copy (u.hart h) i (u.hart h).view).2 ∧ ((u.hart h).pressRetry = false ∨ ((Hart.copy2 (u.hart h) i (u.hart
      h).mirrorView).map (upsetBy i.upsetRetry)) ≠ some (Hart.copy (u.hart h) i (u.hart h).view).2) → Gives
      (.hartInstruction h i) s fun t => (t.hart h).pc = tvecTarget (u.hart h).bank.mtvec 24 false ∧ (t.hart h).mode = .m ∧
      (t.hart h).bank.mepc = (u.hart h).pc ∧ (t.hart h).bank.mcause = 24 ∧ (t.hart h).bank.mtval = 0 ∧ (t.hart h).x =
      (u.hart h).x ∧ (t.hart h).f = (u.hart h).f ∧ fld ((t.hart h).csr 0x7C1) 23 8 = min (fld ((u.hart h).csr 0x7C1) 23 8 +
      1) 65535 ∧ fld ((t.hart h).csr 0x7C1) 7 4 = (Hart.copy (u.hart h) i (u.hart h).view).1 % 16 ∧ (t.hart h).mismatches =
      (if 3 ≤ ((u.hart h).mismatches.filter fun z => u.ticks - z ≤ 500000).length then [] else u.ticks :: ((u.hart
      h).mismatches.filter fun z => u.ticks - z ≤ 500000)) ∧ Reported u t ((if 3 ≤ ((u.hart h).mismatches.filter fun z =>
      u.ticks - z ≤ 500000).length then [(0x1003, (h.val + (Hart.copy (u.hart h) i (u.hart h).view).1 * 256) % 2 ^ 32,
      (u.hart h).pc.toNat % 2 ^ 32)] else []) ++ [(0x1001, (h.val + (Hart.copy (u.hart h) i (u.hart h).view).1 * 256) % 2 ^
      32, (u.hart h).pc.toNat % 2 ^ 32)]) ∧ HartsBut u t h ∧ { t with harts := u.harts, reports := u.reports } = u)
    ∧ (Fetches s h i u ∧ (u.hart h).active = true ∧ ((Hart.copy2 (u.hart h) i (u.hart h).mirrorView).map (upsetBy i.upset)) ≠
      some (Hart.copy (u.hart h) i (u.hart h).view).2 ∧ (u.hart h).pressRetry = true ∧ ((Hart.copy2 (u.hart h) i (u.hart
      h).mirrorView).map (upsetBy i.upsetRetry)) = some (Hart.copy (u.hart h) i (u.hart h).view).2 ∧ (u.hart h).illegal? i =
      none ∧ i.op = .int p rd rs1 b → Gives (.hartInstruction h i) s fun t => (t.hart h).pc = ((u.hart h).pc + dwd i.len) ∧
      (t.hart h).xr rd = (if rd = 0 then 0 else alu p ((u.hart h).xr rs1) (b.val (u.hart h).view)) ∧ (∀ j, j ≠ rd.val →
      (t.hart h).xr j = (u.hart h).xr j) ∧ (t.hart h).mode = (u.hart h).mode ∧ fld ((t.hart h).csr 0x7C1) 23 8 = min (fld
      ((u.hart h).csr 0x7C1) 23 8 + 1) 65535 ∧ Reported u t ((if 3 ≤ ((u.hart h).mismatches.filter fun z => u.ticks - z ≤
      500000).length then [(0x1003, (h.val + (Hart.copy (u.hart h) i (u.hart h).view).1 * 256) % 2 ^ 32, (u.hart h).pc.toNat
      % 2 ^ 32)] else []) ++ [(0x1002, (h.val + (Hart.copy (u.hart h) i (u.hart h).view).1 * 256) % 2 ^ 32, (u.hart
      h).pc.toNat % 2 ^ 32)]) ∧ HartsBut u t h ∧ { t with harts := u.harts, reports := u.reports } = u)

/-- WCALL and a Reserve interrupt enter the monitor, WCALL where its table allows it (R571-R573); MRET in the Reserve world
  returns to the world of RW (R574). A mismatch traps or is retried, and the fourth in 1 ms is reported (R564-R566).
  PRESS_CTL starts second pressing with the mirror file filled (R563); DBG_CTL blows the lock fuse with its key and keeps
  CLOSE_NEXT (R558); in the Table world both are illegal (R555). MSI_SEND sends (R551); an MSI becomes pending in its file
  (R550); an APLIC source is forwarded (R552); the machine timer is pending from MTIMECMP on (R553). Debug entry leaves
  second pressing (R567); the debug module reads and writes a halted hart, the program buffer and the bus, and fails while
  debug is closed (R556, R559). -/
def Obligations.HartControl : Prop :=
  ∀ (s : State) (h : HartId) (u u2 v : DWord) (x : Nat) (rt dt : Bool) (m : Msi) (r : Fin 39) (key : BitVec 16) (k : Fin 8) (wv : Word) (addr : Addr) (i : HartStep) (n : Nat) (q : Fin 32) (tf : Bool),
    (Free s h ∧ ((s.hart h).active = false ∨ u = 0) ∧ ((s.hart h).world = true ∧ (s.hart h).mode ≠ .m ∨ (s.hart h).world =
      false ∧ ((s.hart h).mode.virt = false ∨ bit ((s.hart h).csr 0x7C2) 3 = true)) → Gives (.wcall h u u2) s fun t =>
      (t.hart h).world = true ∧ bit ((t.hart h).csr 0x7C2) 1 = (s.hart h).world ∧ (t.hart h).mode = .m ∧ (t.hart h).pc =
      tvecTarget (s.hart h).bankR.mtvec 25 false ∧ (t.hart h).bankR.mepc = (s.hart h).pc ∧ (t.hart h).bankR.mcause =
      causeWord 25 false ∧ (t.hart h).bankR.mtval = 0 ∧ fld (t.hart h).bankR.mstatus 12 11 = (s.hart h).mode.code ∧ bit
      (t.hart h).bankR.mstatus 39 = (s.hart h).mode.virt ∧ bit (t.hart h).bankR.mstatus 3 = false ∧ (t.hart h).x = (s.hart
      h).x ∧ (t.hart h).f = (s.hart h).f ∧ HartsBut s t h ∧ { t with harts := s.harts } = s)
    ∧ (Free s h ∧ (s.hart h).active = false ∧ ((s.hart h).world = true ∧ (s.hart h).mode ≠ .m ∨ (s.hart h).world = false ∧
      ((s.hart h).mode.virt = false ∨ bit ((s.hart h).csr 0x7C2) 3 = true)) → Gives (.wcall h u u2) s fun t => (t.hart
      h).world = true ∧ bit ((t.hart h).csr 0x7C2) 1 = (s.hart h).world ∧ (t.hart h).mode = .m ∧ (t.hart h).pc = tvecTarget
      (s.hart h).bankR.mtvec 25 false ∧ (t.hart h).bankR.mepc = (s.hart h).pc ∧ (t.hart h).bankR.mcause = causeWord 25 false
      ∧ (t.hart h).bankR.mtval = 0 ∧ fld (t.hart h).bankR.mstatus 12 11 = (s.hart h).mode.code ∧ bit (t.hart
      h).bankR.mstatus 39 = (s.hart h).mode.virt ∧ bit (t.hart h).bankR.mstatus 3 = false ∧ (t.hart h).x = (s.hart h).x ∧
      (t.hart h).f = (s.hart h).f ∧ (t.hart h).bankT = (s.hart h).bankT ∧ (∀ j, j ≠ 0x7C2 → j ≠ 0x34A → j ≠ 0x34B → j ≠
      0xB02 → (t.hart h).csr j = (s.hart h).csr j) ∧ HartsBut s t h ∧ { t with harts := s.harts } = s)
    ∧ (Free s h ∧ ((s.hart h).active = false ∨ u = 0) ∧ (s.hart h).world = true ∧ (s.hart h).mode = .m → Gives (.wcall h u u2)
      s fun t => TrapsM s t h 2 false 0xB ∧ { t with harts := s.harts } = s)
    ∧ (Free s h ∧ ((s.hart h).active = false ∨ u = 0) ∧ (s.hart h).world = false ∧ (s.hart h).mode.virt = true ∧ bit ((s.hart
      h).csr 0x7C2) 3 = false ∧ bit ((s.hart h).csr 0x302) 22 = false → Gives (.wcall h u u2) s fun t => TrapsM s t h 22
      false 0xB ∧ { t with harts := s.harts } = s)
    ∧ (Free s h ∧ ((s.hart h).active = false ∨ u = 0) ∧ (s.hart h).world = false ∧ (s.hart h).mode.virt = true ∧ bit ((s.hart
      h).csr 0x7C2) 3 = false → Gives (.wcall h u u2) s fun t => OnlyHart s t h (Hart.trap (Freed s h) 22 0xB))
    ∧ (Free s h ∧ (s.hart h).active = true ∧ u ≠ 0 ∧ ((s.hart h).pressRetry = false ∨ u2 ≠ 0) → Gives (.wcall h u u2) s fun t
      => (t.hart h).pc = tvecTarget (s.hart h).bank.mtvec 24 false ∧ (t.hart h).mode = .m ∧ (t.hart h).bank.mepc = (s.hart
      h).pc ∧ (t.hart h).bank.mcause = 24 ∧ (t.hart h).mismatches = (if 3 ≤ ((s.hart h).mismatches.filter fun z => s.ticks -
      z ≤ 500000).length then [] else s.ticks :: ((s.hart h).mismatches.filter fun z => s.ticks - z ≤ 500000)) ∧ fld
      ((t.hart h).csr 0x7C1) 23 8 = min (fld ((s.hart h).csr 0x7C1) 23 8 + 1) 65535 ∧ fld ((t.hart h).csr 0x7C1) 7 4 = 8 ∧
      Reported s t ((if 3 ≤ ((s.hart h).mismatches.filter fun z => s.ticks - z ≤ 500000).length then [(0x1003, h.val + 2048,
      (s.hart h).pc.toNat % 2 ^ 32)] else []) ++ [(0x1001, h.val + 2048, (s.hart h).pc.toNat % 2 ^ 32)]) ∧ HartsBut s t h ∧
      { t with harts := s.harts, reports := s.reports } = s)
    ∧ (Free s h ∧ (s.hart h).active = true ∧ (s.hart h).pressRetry = true ∧ u ≠ 0 ∧ u2 = 0 ∧ ((s.hart h).world = true ∧
      (s.hart h).mode ≠ .m ∨ (s.hart h).world = false ∧ ((s.hart h).mode.virt = false ∨ bit ((s.hart h).csr 0x7C2) 3 =
      true)) → Gives (.wcall h u u2) s fun t => (t.hart h).world = true ∧ bit ((t.hart h).csr 0x7C2) 1 = (s.hart h).world ∧
      (t.hart h).mode = .m ∧ (t.hart h).pc = tvecTarget (s.hart h).bankR.mtvec 25 false ∧ (t.hart h).bankR.mepc = (s.hart
      h).pc ∧ (t.hart h).bankR.mcause = causeWord 25 false ∧ (t.hart h).bankR.mtval = 0 ∧ fld (t.hart h).bankR.mstatus 12 11
      = (s.hart h).mode.code ∧ bit (t.hart h).bankR.mstatus 39 = (s.hart h).mode.virt ∧ bit (t.hart h).bankR.mstatus 3 =
      false ∧ (t.hart h).x = (s.hart h).x ∧ (t.hart h).f = (s.hart h).f ∧ (t.hart h).mismatches = (if 3 ≤ ((s.hart
      h).mismatches.filter fun z => s.ticks - z ≤ 500000).length then [] else s.ticks :: ((s.hart h).mismatches.filter fun z
      => s.ticks - z ≤ 500000)) ∧ fld ((t.hart h).csr 0x7C1) 23 8 = min (fld ((s.hart h).csr 0x7C1) 23 8 + 1) 65535 ∧ fld
      ((t.hart h).csr 0x7C1) 7 4 = 8 ∧ Reported s t ((if 3 ≤ ((s.hart h).mismatches.filter fun z => s.ticks - z ≤
      500000).length then [(0x1003, h.val + 2048, (s.hart h).pc.toNat % 2 ^ 32)] else []) ++ [(0x1002, h.val + 2048, (s.hart
      h).pc.toNat % 2 ^ 32)]) ∧ HartsBut s t h ∧ { t with harts := s.harts, reports := s.reports } = s)
    ∧ (Free s h ∧ (s.hart h).world = true ∧ (s.hart h).mode = .m → Gives (.mretReserve h) s fun t => t.hart h = Hart.retire
      (Hart.mret (Freed s h)) (Freed s h) ∧ (t.hart h).pc = (s.hart h).bankR.mepc ∧ (t.hart h).mode = Mode.of (fld (s.hart
      h).bankR.mstatus 12 11) (bit (s.hart h).bankR.mstatus 39) ∧ (t.hart h).world = bit ((s.hart h).csr 0x7C2) 2 ∧ (t.hart
      h).bankR.mepc = (s.hart h).bankR.mepc ∧ HartsBut s t h ∧ { t with harts := s.harts } = s)
    ∧ (s.hartRuns h = true ∧ s.resetHalts h = true → (Gives (.wcall h u u2) s fun t => SameButHarts ((s.released h).debugEnter
      h 5) t) ∧ (Gives (.hartInstruction h i) s fun t => s.draining = true ∨ SameButHarts ((s.released h).debugEnter h 5)
      t))
    ∧ (s.hartRuns h = true ∧ (s.hart h).held = false ∧ (s.hart h).world = false ∧ topInt (s.mInts (s.hart h) true) = some x →
      Gives (.monitorInterruptEntry h) s fun t => (t.hart h).world = true ∧ bit ((t.hart h).csr 0x7C2) 1 = (s.hart h).world
      ∧ (t.hart h).mode = .m ∧ (t.hart h).pc = tvecTarget (s.hart h).bankR.mtvec x true ∧ (t.hart h).bankR.mepc = (s.hart
      h).pc ∧ (t.hart h).bankR.mcause = causeWord x true ∧ (t.hart h).bankR.mtval = 0 ∧ fld (t.hart h).bankR.mstatus 12 11 =
      (s.hart h).mode.code ∧ bit (t.hart h).bankR.mstatus 39 = (s.hart h).mode.virt ∧ bit (t.hart h).bankR.mstatus 3 = false
      ∧ (t.hart h).x = (s.hart h).x ∧ (t.hart h).f = (s.hart h).f ∧ (t.hart h).bankT = (s.hart h).bankT ∧ (∀ j, j ≠ 0x7C2 →
      j ≠ 0x34A → j ≠ 0x34B → j ≠ 0xB02 → (t.hart h).csr j = (s.hart h).csr j) ∧ HartsBut s t h ∧
      { t with harts := s.harts } = s)
    ∧ (s.hartRuns h = true ∧ (s.hart h).mode = .m ∧ (s.hart h).world = true ∧ (s.hart h).pressEn = false ∧ dt = true → Gives
      (.pressEnable h rt dt) s fun t => (t.hart h).csr 0x7C0 = BitVec.ofNat 64 (1 + rt.toNat * 2) ∧ (t.hart h).csr 0x7C1 =
      setBit ((s.hart h).csr 0x7C1) 0 true ∧ (∀ j, j < 32 → (t.hart h).mirrorView.x j = (t.hart h).xr j ∧ (t.hart
      h).mirrorView.f j = (t.hart h).fr j) ∧ (∀ j, j ∉ [0x7C0, 0x7C1] → (t.hart h).csr j = (s.hart h).csr j) ∧
      { t.hart h with csrs := (s.hart h).csrs, mx := (s.hart h).mx, mf := (s.hart h).mf, held := (s.hart h).held } = (s.hart
      h) ∧ (t.hart h).held = false ∧ HartsBut s t h ∧ { t with harts := s.harts } = s)
    ∧ (s.hartRuns h = true ∧ (s.hart h).mode = .m ∧ (s.hart h).world = true ∧ (s.hart h).pressEn = false ∧ dt = false → Gives
      (.pressEnable h rt dt) s fun t => (t.hart h).csr 0x7C0 = BitVec.ofNat 64 (0 + rt.toNat * 2) ∧ (∀ j, j ∉ [0x7C0] →
      (t.hart h).csr j = (s.hart h).csr j) ∧
      { t.hart h with csrs := (s.hart h).csrs, mx := (s.hart h).mx, mf := (s.hart h).mf, held := (s.hart h).held } = (s.hart
      h) ∧ (t.hart h).held = false ∧ Reported s t [(0x1005, h.val, (s.hart h).pc.toNat % 2 ^ 32)] ∧ HartsBut s t h ∧
      { t with harts := s.harts, reports := s.reports } = s)
    ∧ (s.hartRuns h = true ∧ (s.hart h).mode = .m ∧ (s.hart h).world = true ∧ (s.hart h).pressEn = true → Gives (.pressEnable
      h rt dt) s fun t => (t.hart h).csr 0x7C0 = BitVec.ofNat 64 (1 + rt.toNat * 2) ∧ (t.hart h).mx = (s.hart h).mx ∧
      (t.hart h).mf = (s.hart h).mf ∧ (∀ j, j ∉ [0x7C0] → (t.hart h).csr j = (s.hart h).csr j) ∧
      { t.hart h with csrs := (s.hart h).csrs, mx := (s.hart h).mx, mf := (s.hart h).mf, held := (s.hart h).held } = (s.hart
      h) ∧ (t.hart h).held = false ∧ HartsBut s t h ∧ { t with harts := s.harts } = s)
    ∧ (s.hartRuns h = true ∧ (s.hart h).mode = .m ∧ (s.hart h).world = true → Gives (.pressDisable h rt) s fun t => (t.hart
      h).csr 0x7C0 = BitVec.ofNat 64 (0 + rt.toNat * 2) ∧ (t.hart h).csr 0x7C1 = setBit ((s.hart h).csr 0x7C1) 0 false ∧
      (t.hart h).mx = (s.hart h).mx ∧ (t.hart h).mf = (s.hart h).mf ∧ (∀ j, j ∉ [0x7C0, 0x7C1] → (t.hart h).csr j = (s.hart
      h).csr j) ∧
      { t.hart h with csrs := (s.hart h).csrs, mx := (s.hart h).mx, mf := (s.hart h).mf, held := (s.hart h).held } = (s.hart
      h) ∧ (t.hart h).held = false ∧ HartsBut s t h ∧ { t with harts := s.harts } = s)
    ∧ (s.hartRuns h = true ∧ (s.hart h).mode = .m ∧ (s.hart h).world = false → (Gives (.pressEnable h rt dt) s fun t => TrapsM
      s t h 2 false 0 ∧ { t with harts := s.harts } = s) ∧ (Gives (.pressDisable h rt) s fun t => TrapsM s t h 2 false 0 ∧
      { t with harts := s.harts } = s) ∧ (Gives (.debugFuse h key) s fun t => TrapsM s t h 2 false 0 ∧
      { t with harts := s.harts } = s) ∧ (Gives (.debugCloseNext h rt) s fun t => TrapsM s t h 2 false 0 ∧
      { t with harts := s.harts } = s))
    ∧ (s.hartRuns h = true ∧ (s.hart h).mode = .m ∧ fld v 10 0 ≠ 0 → Gives (.msiSend h v) s fun t => t.hart h = (Freed s h) ∧
      HartsBut s t h ∧ t.msis = s.msis ++ [⟨fld v 26 24, if bit v 19 then 0 else 1 + fld v 18 16, fld v 10 0⟩] ∧
      { t with harts := s.harts, msis := s.msis } = s)
    ∧ (s.hartRuns h = true ∧ (s.hart h).mode = .m ∧ fld v 10 0 = 0 → Gives (.msiSend h v) s fun t => OnlyHart s t h (Freed s
      h))
    ∧ (s.hartRuns h = true ∧ (s.hart h).mode = .m ∧ (s.hart h).world = true ∧ s.fuse.dv = false ∧ s.fuse.mfgClosed = true ∧
      key = 0x9640 → Gives (.debugFuse h key) s fun t => t.fuse = { s.fuse with dbgLock := true } ∧ t.hart h = (Freed s h) ∧
      HartsBut s t h ∧ { t with harts := s.harts, fuse := s.fuse } = s)
    ∧ (s.hartRuns h = true ∧ (s.hart h).mode = .m ∧ (s.hart h).world = true ∧ (s.fuse.dv = true ∨ s.fuse.mfgClosed = false ∨
      key ≠ 0x9640) → Gives (.debugFuse h key) s fun t => OnlyHart s t h (Freed s h))
    ∧ (s.hartRuns h = true ∧ (s.hart h).mode = .m ∧ (s.hart h).world = true ∧ s.fuse.dv = false ∧ s.bootRec.closeNext ≠ rt →
      Gives (.debugCloseNext h rt) s fun t => t.ldBytes (recAt ((s.bootWinner.map (1 - ·)).getD 0)) 60 = BootRec.bytes
      { s.bootRec with seq := (s.bootRec.seq + 1) % 2 ^ 32, closeNext := rt } ∧ MemBut s t (recAt ((s.bootWinner.map (1 -
      ·)).getD 0)) 60 ∧ { t.hart h with resv := (s.hart h).resv } = (Freed s h) ∧ StoreSide { s with harts := t.harts } t ∧
      (∀ j, j ≠ h.val → { t.hart j with resv := (s.hart j).resv } = s.hart j) ∧
      { t with harts := s.harts, mem := s.mem, eccBad := s.eccBad } = s)
    ∧ (s.hartRuns h = true ∧ (s.hart h).mode = .m ∧ (s.hart h).world = true ∧ (s.fuse.dv = true ∨ s.bootRec.closeNext = rt) →
      Gives (.debugCloseNext h rt) s fun t => OnlyHart s t h (Freed s h))
    ∧ (s.logicOn = true ∧ ((s.hart h).csr 0x7C3).toNat ≤ s.timeCsr → Gives (.machineTimerInterrupt h) s fun t => OnlyHart s t
      h { s.hart h with bankR := { (s.hart h).bankR with mip := setBit (s.hart h).bankR.mip 7 true } })
    ∧ (s.logicOn = true ∧ s.timeCsr < ((s.hart h).csr 0x7C3).toNat → Gives (.machineTimerInterrupt h) s fun t => t = s)
    ∧ (s.msis[x]? = some m ∧ m.hart < 8 ∧ m.file < 9 ∧ 1 ≤ m.eiid ∧ m.eiid ≤ 2047 → Gives (.msiDelivery x) s fun t => (∀ j, j
      ∈ (t.hart m.hart).fileIds m.file ↔ j = m.eiid ∨ j ∈ (s.hart m.hart).fileIds m.file) ∧ (∀ j, j ≠ m.file → (t.hart
      m.hart).fileIds j = (s.hart m.hart).fileIds j) ∧ { t.hart m.hart with imsic := (s.hart m.hart).imsic } = s.hart m.hart
      ∧ HartsBut s t m.hart ∧ t.msis = dropAt s.msis x ∧ { t with harts := s.harts, msis := s.msis } = s)
    ∧ (s.logicOn = true ∧ r.val ≠ 0 ∧ (s.srcLevel r).getD rt = rt ∧ s.aplic.contains r.val ≠ rt ∧ s.aplMode (s.aplDom r) r ≠ 6
      → Gives (.aplicSourceChange r rt) s fun t => (∀ j, j ∈ t.aplic ↔ (j = r.val ∧ rt = true) ∨ (j ≠ r.val ∧ j ∈ s.aplic))
      ∧ { t with aplic := s.aplic } = s)
    ∧ (s.logicOn = true ∧ r.val ≠ 0 ∧ (s.srcLevel r).getD rt = rt ∧ s.aplic.contains r.val = false ∧ rt = true ∧ s.aplMode
      (s.aplDom r) r = 6 ∧ s.aplIe (s.aplDom r) r = true ∧ s.rb (aplA (s.aplDom r) 0) 8 = true → Gives (.aplicSourceChange r
      rt) s fun t => (∀ j, j ∈ t.aplic ↔ (j = r.val ∧ rt = true) ∨ (j ≠ r.val ∧ j ∈ s.aplic)) ∧ t.msis = s.msis ++ [⟨fld
      (s.rd (aplA (s.aplDom r) (0x3000 + r * 4))) 20 18, if (s.aplDom r) = 0 then 0 else 1 + fld (s.rd (aplA (s.aplDom r)
      (0x3000 + r * 4))) 14 12, fld (s.rd (aplA (s.aplDom r) (0x3000 + r * 4))) 10 0⟩] ∧ t.aplIp (s.aplDom r) r = false ∧
      RegsBut s t [aplA (s.aplDom r) (0x1C00 + r / 32 * 4)] ∧ { t with regs := s.regs, aplic := s.aplic, msis := s.msis } =
      s)
    ∧ (s.logicOn = true ∧ r.val ≠ 0 ∧ (s.srcLevel r).getD rt = rt ∧ s.aplic.contains r.val = false ∧ rt = true ∧ s.aplMode
      (s.aplDom r) r = 6 ∧ (s.aplIe (s.aplDom r) r = false ∨ s.rb (aplA (s.aplDom r) 0) 8 = false) → Gives
      (.aplicSourceChange r rt) s fun t => (∀ j, j ∈ t.aplic ↔ (j = r.val ∧ rt = true) ∨ (j ≠ r.val ∧ j ∈ s.aplic)) ∧
      t.aplIp (s.aplDom r) r = true ∧ RegsBut s t [aplA (s.aplDom r) (0x1C00 + r / 32 * 4)] ∧
      { t with regs := s.regs, aplic := s.aplic } = s)
    ∧ (s.logicOn = true ∧ r.val ≠ 0 ∧ (s.srcLevel r).getD rt = rt ∧ s.aplic.contains r.val = true ∧ rt = false ∧ s.aplMode
      (s.aplDom r) r = 6 → Gives (.aplicSourceChange r rt) s fun t => (∀ j, j ∈ t.aplic ↔ (j = r.val ∧ rt = true) ∨ (j ≠
      r.val ∧ j ∈ s.aplic)) ∧ t.aplIp (s.aplDom r) r = false ∧ RegsBut s t [aplA (s.aplDom r) (0x1C00 + r / 32 * 4)] ∧
      { t with regs := s.regs, aplic := s.aplic } = s)
    ∧ (s.hartRuns h = true ∧ s.dbg.isOpen = true ∧ (s.hart h).pressEn = false → Gives (.debugHaltEntry h) s fun t => (t.hart
      h).halted = true ∧ (t.hart h).mode = .m ∧ (t.hart h).pc = (s.hart h).pc ∧ (t.hart h).csr 0x7B1 = (s.hart h).pc ∧ fld
      ((t.hart h).csr 0x7B0) 8 6 = 3 ∧ fld ((t.hart h).csr 0x7B0) 1 0 = (s.hart h).mode.code ∧ bit ((t.hart h).csr 0x7B0) 5
      = (s.hart h).mode.virt ∧ (t.hart h).x = (s.hart h).x ∧ (∀ j, j ≠ 0x7B0 → j ≠ 0x7B1 → (t.hart h).csr j = (s.hart h).csr
      j) ∧ HartsBut s t h ∧ { t with harts := s.harts } = s)
    ∧ (s.hartRuns h = true ∧ s.dbg.isOpen = true ∧ (s.hart h).pressEn = true → Gives (.debugHaltEntry h) s fun t => (t.hart
      h).halted = true ∧ (t.hart h).mode = .m ∧ (t.hart h).pc = (s.hart h).pc ∧ (t.hart h).csr 0x7B1 = (s.hart h).pc ∧ fld
      ((t.hart h).csr 0x7B0) 8 6 = 3 ∧ fld ((t.hart h).csr 0x7B0) 1 0 = (s.hart h).mode.code ∧ bit ((t.hart h).csr 0x7B0) 5
      = (s.hart h).mode.virt ∧ (t.hart h).x = (s.hart h).x ∧ (t.hart h).csr 0x7C0 = (s.hart h).csr 0x7C0 &&& 2 ∧ (t.hart
      h).csr 0x7C1 = setBit ((s.hart h).csr 0x7C1) 0 false ||| 2 ∧ t.rb fcBase 30 = true ∧ Reported s t [(0x1004, h.val,
      (s.hart h).pc.toNat % 2 ^ 32)] ∧ RegsBut s t [fcBase] ∧ HartsBut s t h ∧
      { t with harts := s.harts, regs := s.regs, reports := s.reports } = s)
    ∧ (s.hartRuns h = true ∧ s.dbg.isOpen = true ∧ (s.hart h).pressEn = false → Gives (.dmiAccess (.haltReq h)) s fun t =>
      Answers t .done ∧ (t.hart h).halted = true ∧ (t.hart h).mode = .m ∧ (t.hart h).pc = (s.hart h).pc ∧ (t.hart h).csr
      0x7B1 = (s.hart h).pc ∧ fld ((t.hart h).csr 0x7B0) 8 6 = 3 ∧ fld ((t.hart h).csr 0x7B0) 1 0 = (s.hart h).mode.code ∧
      bit ((t.hart h).csr 0x7B0) 5 = (s.hart h).mode.virt ∧ (t.hart h).x = (s.hart h).x ∧ (∀ j, j ≠ 0x7B0 → j ≠ 0x7B1 →
      (t.hart h).csr j = (s.hart h).csr j) ∧ HartsBut s t h ∧ { t with harts := s.harts, resp := s.resp } = s)
    ∧ (s.hartRuns h = true ∧ s.dbg.isOpen = true ∧ (s.hart h).pressEn = true → Gives (.dmiAccess (.haltReq h)) s fun t =>
      Answers t .done ∧ (t.hart h).halted = true ∧ (t.hart h).mode = .m ∧ (t.hart h).pc = (s.hart h).pc ∧ (t.hart h).csr
      0x7B1 = (s.hart h).pc ∧ fld ((t.hart h).csr 0x7B0) 8 6 = 3 ∧ fld ((t.hart h).csr 0x7B0) 1 0 = (s.hart h).mode.code ∧
      bit ((t.hart h).csr 0x7B0) 5 = (s.hart h).mode.virt ∧ (t.hart h).x = (s.hart h).x ∧ (t.hart h).csr 0x7C0 = (s.hart
      h).csr 0x7C0 &&& 2 ∧ (t.hart h).csr 0x7C1 = setBit ((s.hart h).csr 0x7C1) 0 false ||| 2 ∧ t.rb fcBase 30 = true ∧
      Reported s t [(0x1004, h.val, (s.hart h).pc.toNat % 2 ^ 32)] ∧ RegsBut s t [fcBase] ∧ HartsBut s t h ∧
      { t with harts := s.harts, regs := s.regs, reports := s.reports, resp := s.resp } = s)
    ∧ (s.logicOn = true ∧ s.dbg.isOpen = true ∧ s.hartRuns h = false → Gives (.dmiAccess (.haltReq h)) s fun t => Refuses s t
      .done)
    ∧ (s.logicOn = true ∧ s.dbg.isOpen = true ∧ (s.hart h).halted = false → Gives (.dmiAccess (.resumeReq h)) s fun t =>
      Refuses s t .done)
    ∧ (s.logicOn = true ∧ s.dbg.isOpen = true → Gives (.dmiAccess (.resetHalt h rt)) s fun t => OnlyHart s
      { t with resp := s.resp } h { s.hart h with resetHalt := rt } ∧ Answers t .done)
    ∧ (s.logicOn = true ∧ s.dbg.isOpen = true ∧ (s.hart h).halted = true → Gives (.dmiAccess (.resumeReq h)) s fun t =>
      OnlyHart s { t with resp := s.resp } h
      { s.hart h with halted := false, mode := Mode.of (fld ((s.hart h).csr 0x7B0) 1 0) (bit ((s.hart h).csr 0x7B0) 5), pc := (s.hart h).csr 0x7B1 }
      ∧ Answers t .done)
    ∧ (s.logicOn = true ∧ s.dbg.isOpen = true ∧ (s.hart h).halted = true ∧ x = 0x1000 + q.val → Gives (.dmiAccess (.readReg h
      (BitVec.ofNat 16 x))) s fun t => t = { s with resp := ⟨.done, (s.hart h).xr q⟩ })
    ∧ (s.logicOn = true ∧ s.dbg.isOpen = true ∧ (s.hart h).halted = true ∧ x = 0x1000 + q.val → Gives (.dmiAccess (.writeReg h
      (BitVec.ofNat 16 x) v)) s fun t => OnlyHart s { t with resp := s.resp } h ((s.hart h).setX q v) ∧ Answers t .done)
    ∧ (s.logicOn = true ∧ s.dbg.isOpen = true ∧ (s.hart h).halted = true ∧ x = 0x1020 + q.val → Gives (.dmiAccess (.readReg h
      (BitVec.ofNat 16 x))) s fun t => t = { s with resp := ⟨.done, (s.hart h).fr q⟩ })
    ∧ (s.logicOn = true ∧ s.dbg.isOpen = true ∧ (s.hart h).halted = true ∧ x = 0x1020 + q.val → Gives (.dmiAccess (.writeReg h
      (BitVec.ofNat 16 x) v)) s fun t => OnlyHart s { t with resp := s.resp } h ((s.hart h).setF q v) ∧ Answers t .done)
    ∧ (s.logicOn = true ∧ s.dbg.isOpen = true ∧ (s.hart h).halted = true ∧ x = 0x340 ∧ (s.hart h).mode = .m → Gives
      (.dmiAccess (.writeReg h (BitVec.ofNat 16 x) v)) s fun t => OnlyHart s { t with resp := s.resp } h ((s.hart h).setBank
      { (s.hart h).bank with mscratch := v }) ∧ Answers t .done)
    ∧ (s.logicOn = true ∧ s.dbg.isOpen = true ∧ (s.hart h).halted = false → Gives (.dmiAccess (.readReg h (BitVec.ofNat 16
      x))) s fun t => Refuses s t .conflict)
    ∧ (s.logicOn = true ∧ s.dbg.isOpen = true → Gives (.dmiAccess (.progWrite k wv)) s fun t => (∀ j, smGet (fun _ => 0)
      t.dbg.prog j = if j = k.val then wv else smGet (fun _ => 0) s.dbg.prog j) ∧ { t.dbg with prog := s.dbg.prog } = s.dbg
      ∧ Answers t .done ∧ { t with dbg := s.dbg, resp := s.resp } = s)
    ∧ (s.logicOn = true ∧ s.dbg.isOpen = true → Gives (.dmiAccess (.progRead k)) s fun t => t =
      { s with resp := ⟨.done, (smGet (fun _ => 0) s.dbg.prog k.val).zeroExtend 64⟩ })
    ∧ (s.logicOn = true ∧ s.dbg.isOpen = true ∧ (s.hart h).halted = true ∧ (s.hart h).mode = .m ∧ (s.hart h).await = none ∧
      i.op = .int .add q q (.imm v) → Gives (.dmiAccess (.progExec h i)) s fun t => OnlyHart s { t with resp := s.resp } h
      { (Hart.retire ((s.hart h).setX q ((s.hart h).xr q + v)) (s.hart h)) with pc := (s.hart h).pc + BitVec.ofNat 64 i.len }
      ∧ Answers t .done)
    ∧ (s.logicOn = true ∧ s.dbg.isOpen = true ∧ (s.hart h).halted = true ∧ (s.hart h).await = none ∧ (s.hart h).illegal? i =
      none ∧ ((s.perform h i (.dmiAccess (.progExec h i))).hart h).await = none ∧ ((s.perform h i (.dmiAccess (.progExec h
      i))).hart h).pc = (s.hart h).pc + BitVec.ofNat 64 i.len → Gives (.dmiAccess (.progExec h i)) s fun t => t =
      { (s.perform h i (.dmiAccess (.progExec h i))).setHart h { (s.perform h i (.dmiAccess (.progExec h i))).hart h with mode := .m, halted := true } with resp := ⟨.done, 0⟩ })
    ∧ (s.logicOn = true ∧ s.dbg.isOpen = true ∧ (s.hart h).halted = true ∧ (s.hart h).await = none ∧ (s.hart h).illegal? i =
      some x → Gives (.dmiAccess (.progExec h i)) s fun t => Refuses s t .fault)
    ∧ (s.logicOn = true ∧ s.dbg.isOpen = true ∧ tf = false ∧ within addr.toNat n 0x10000000 0x12000000 = true ∧ (n = 4 ∨ n =
      8) ∧ addr.toNat % n = 0 ∧ s.mustWait 2 = false ∧ s.anyBad addr.toNat n = false → Gives (.dmiAccess (.sbRead addr n
      tf)) s fun t => t = { s with resp := ⟨.done, BitVec.ofNat 64 (s.ldLE addr.toNat n)⟩ })
    ∧ (s.logicOn = true ∧ s.dbg.isOpen = true ∧ wordAligned addr.toNat n = true ∧ (addr.toNat < 0x100000000 ∨ 0x200000000 ≤
      addr.toNat) ∧ s.mustWait (waitPlace addr.toNat) = false → Gives (.dmiAccess (.sbRead addr n tf)) s fun t => t =
      { (s.busRead ⟨.debug, tf⟩ addr.toNat n).2.2 with resp := ⟨(s.busRead ⟨.debug, tf⟩ addr.toNat n).1, (s.busRead ⟨.debug, tf⟩ addr.toNat n).2.1⟩ })
    ∧ (s.logicOn = true ∧ s.dbg.isOpen = true ∧ wordAligned addr.toNat n = true ∧ (addr.toNat < 0x100000000 ∨ 0x200000000 ≤
      addr.toNat) ∧ s.mustWait (waitPlace addr.toNat) = false ∧ (s.busWrite ⟨.debug, tf⟩ addr.toNat n v).2 = false → Gives
      (.dmiAccess (.sbWrite addr n v tf)) s fun t => t =
      { (s.busWrite ⟨.debug, tf⟩ addr.toNat n v).1.2 with resp := ⟨(s.busWrite ⟨.debug, tf⟩ addr.toNat n v).1.1, 0⟩ })
    ∧ (s.logicOn = true ∧ s.dbg.isOpen = true ∧ tf = false ∧ within addr.toNat n 0x10000000 0x12000000 = true ∧ (n = 4 ∨ n =
      8) ∧ addr.toNat % n = 0 ∧ s.mustWait 2 = false → Gives (.dmiAccess (.sbWrite addr n v tf)) s fun t => t.ldBytes
      addr.toNat n = leBytes n v.toNat ∧ MemBut s t addr.toNat n ∧ StoreSide s t ∧ Answers t .done ∧
      { t with mem := s.mem, eccBad := s.eccBad, harts := s.harts, resp := s.resp } = s)
    ∧ (s.logicOn = true ∧ s.dbg.isOpen = false ∧ s.dbg.load = true ∧ s.boot.provisioned = false ∧ tf = false ∧ within
      addr.toNat n 0x10000000 0x12000000 = true ∧ (n = 4 ∨ n = 8) ∧ addr.toNat % n = 0 ∧ s.mustWait 2 = false → Gives
      (.dmiAccess (.sbWrite addr n v tf)) s fun t => t.ldBytes addr.toNat n = leBytes n v.toNat ∧ MemBut s t addr.toNat n ∧
      StoreSide s t ∧ Answers t .done ∧ { t with mem := s.mem, eccBad := s.eccBad, harts := s.harts, resp := s.resp } = s)
    ∧ (s.logicOn = true ∧ s.dbg.isOpen = false → (Gives (.dmiAccess (.haltReq h)) s fun t => t =
      { s with resp := ⟨.access, 2⟩ }) ∧ (Gives (.dmiAccess (.resumeReq h)) s fun t => t = { s with resp := ⟨.access, 2⟩ })
      ∧ (Gives (.dmiAccess (.readReg h (BitVec.ofNat 16 x))) s fun t => t = { s with resp := ⟨.access, 2⟩ }) ∧ (Gives
      (.dmiAccess (.writeReg h (BitVec.ofNat 16 x) v)) s fun t => t = { s with resp := ⟨.access, 2⟩ }) ∧ (Gives (.dmiAccess
      (.progWrite k wv)) s fun t => t = { s with resp := ⟨.access, 2⟩ }) ∧ (Gives (.dmiAccess (.progRead k)) s fun t => t =
      { s with resp := ⟨.access, 2⟩ }) ∧ (Gives (.dmiAccess (.progExec h i)) s fun t => t = { s with resp := ⟨.access, 2⟩ })
      ∧ (Gives (.dmiAccess (.sbRead addr n tf)) s fun t => t = { s with resp := ⟨.access, 2⟩ }) ∧ (s.dbg.load = false ∨
      s.boot.provisioned = true → Gives (.dmiAccess (.sbWrite addr n v tf)) s fun t => t = { s with resp := ⟨.access, 2⟩ }))

/-- A key update message is checked in the order of R600 and changes nothing when rejected; an accepted one is committed and
  then fills or erases its slot (R600, R601). ERASE and LOAD_PLAIN commit a record and change the slot, a slot in use by
  staging (R602, R604, R607); SLOT_GRANT commits a record with the grant (R626). Every commit goes to the copy that did not
  win (R598). The integrity scan reloads a slot or marks it CORRUPT (R595); a pending rewrite takes effect when nothing uses
  the slot (R605); an invocation counter reservation is committed, or its message fails (R621). GO signs a statement of this
  moment, which is written when both signatures are done, or times out (R590, R625). -/
def Obligations.KeyStore : Prop :=
  ∀ (s : State) (a : Acc) (n : BitVec 8) (v : Word) (ok b : Bool) (c : Nat) (l : List Byte) (x : Nat) (k : KstCommit) (f : SlotFill) (j : CphJob) (r : List CphJob),
    (Reaches s a kstBase ∧ Manager s a ∧ s.rb (kstBase + 0x10) 31 = false ∧ sramSpan s.kstAddr 5600 = false → Gives
      (.kstApply a) s fun t => t.rd kstBase = maskedWrite (regDesc kstBase) (s.rd kstBase) 0x80000001 ∧ t.rd (kstBase +
      0x10) = wd (Status.code .range * 256 + 0) ∧ RegsBut s t [kstBase, (kstBase + 0x10)] ∧ Answers t .done ∧
      { t with regs := s.regs, resp := s.resp } = s)
    ∧ (Reaches s a kstBase ∧ Manager s a ∧ s.rb (kstBase + 0x10) 31 = false ∧ sramSpan s.kstAddr 5600 = true ∧ s.anyBad
      s.kstAddr 5600 = true → Gives (.kstApply a) s fun t => t.rd kstBase = maskedWrite (regDesc kstBase) (s.rd kstBase)
      0x80000001 ∧ t.rd (kstBase + 0x10) = wd (Status.code .eccUncorr * 256 + 0) ∧ RegsBut s t [kstBase, (kstBase + 0x10)] ∧
      Reported s t [(0x2002, s.kstAddr % 2 ^ 32, s.kstAddr / 2 ^ 32 % 2 ^ 32)] ∧ Answers t .done ∧
      { t with regs := s.regs, reports := s.reports, resp := s.resp } = s)
    ∧ (Reaches s a kstBase ∧ Manager s a ∧ s.rb (kstBase + 0x10) 31 = false ∧ sramSpan s.kstAddr 5600 = true ∧ s.anyBad
      s.kstAddr 5600 = false ∧ s.msgCheck (s.img s.kstAddr) = c ∧ c ≠ 0 → Gives (.kstApply a) s fun t => (t.rd kstBase =
      maskedWrite (regDesc kstBase) (s.rd kstBase) 0x80000001 ∧ t.rd (kstBase + 0x10) = wd (Status.code .access * 256 + c) ∧
      RegsBut s t [kstBase, (kstBase + 0x10)] ∧ Reported s t [(0x3040, imgLE (s.img s.kstAddr) 7 1 % 2 ^ 32, 0)] ∧ Answers t
      .done ∧ { t with regs := s.regs, reports := s.reports, resp := s.resp } = s))
    ∧ (Reaches s a kstBase ∧ Manager s a ∧ s.rb (kstBase + 0x10) 31 = false ∧ sramSpan s.kstAddr 5600 = true ∧ s.anyBad
      s.kstAddr 5600 = false ∧ msgHeader (s.img s.kstAddr) = true ∧ imgLE (s.img s.kstAddr) 8 16 = s.fuse.unitId.toNat ∧
      imgLE (s.img s.kstAddr) 8 16 ≠ 0 ∧ imgLE (s.img s.kstAddr) 7 1 = x ∧ s.slState x ≠ 4 ∧ imgLE (s.img s.kstAddr) 0x1C 1
      < 4 ∧ s.fuse.revoked.getD (imgLE (s.img s.kstAddr) 0x1C 1) true = false ∧ s.fuse.anchors.getD (imgLE (s.img s.kstAddr)
      0x1C 1) none = some (sha384 (imgBytes (s.img s.kstAddr) 0x90 (96 + 1952))) ∧ (s.rd (slA x 0x10)).toNat < imgLE (s.img
      s.kstAddr) 0x18 4 ∧ s.rd (slA x 0x10) ≠ 0xFFFFFFFF ∧ imgLE (s.img s.kstAddr) 6 1 = 2 → Gives (.kstApply a) s fun t =>
      if P384.verify (imgBytes (s.img s.kstAddr) 0x90 96) (imgBytes (s.img s.kstAddr) 0x890 96) (imgBytes (s.img s.kstAddr)
      0 0x890) = true then (if MlDsa.verify (imgBytes (s.img s.kstAddr) 0xF0 1952) (imgBytes (s.img s.kstAddr) 0x8F0 3309)
      (imgBytes (s.img s.kstAddr) 0 0x890) = true then (t.rd kstBase = maskedWrite (regDesc kstBase) (s.rd kstBase)
      0x80000001 ∧ t.rd (kstBase + 0x10) = 0x80000000 ∧ t.kst =
      { s.kst with commit := some ⟨x, recErased x (imgLE (s.img s.kstAddr) 0x18 4) (wd (imgLE (s.img s.kstAddr) 0x38 4)), none⟩ }
      ∧ RegsBut s t [kstBase, (kstBase + 0x10)] ∧ Answers t .done ∧ { t with regs := s.regs, kst := s.kst, resp := s.resp }
      = s) else (t.rd kstBase = maskedWrite (regDesc kstBase) (s.rd kstBase) 0x80000001 ∧ t.rd (kstBase + 0x10) = wd
      (Status.code .access * 256 + 6) ∧ RegsBut s t [kstBase, (kstBase + 0x10)] ∧ Reported s t [(0x3040, imgLE (s.img
      s.kstAddr) 7 1 % 2 ^ 32, 0)] ∧ Answers t .done ∧ { t with regs := s.regs, reports := s.reports, resp := s.resp } = s))
      else (t.rd kstBase = maskedWrite (regDesc kstBase) (s.rd kstBase) 0x80000001 ∧ t.rd (kstBase + 0x10) = wd (Status.code
      .access * 256 + 5) ∧ RegsBut s t [kstBase, (kstBase + 0x10)] ∧ Reported s t [(0x3040, imgLE (s.img s.kstAddr) 7 1 % 2
      ^ 32, 0)] ∧ Answers t .done ∧ { t with regs := s.regs, reports := s.reports, resp := s.resp } = s))
    ∧ (Reaches s a kstBase ∧ Manager s a ∧ s.rb (kstBase + 0x10) 31 = false ∧ sramSpan s.kstAddr 5600 = true ∧ s.anyBad
      s.kstAddr 5600 = false ∧ msgHeader (s.img s.kstAddr) = true ∧ imgLE (s.img s.kstAddr) 8 16 = s.fuse.unitId.toNat ∧
      imgLE (s.img s.kstAddr) 8 16 ≠ 0 ∧ imgLE (s.img s.kstAddr) 7 1 = x ∧ s.slState x ≠ 4 ∧ imgLE (s.img s.kstAddr) 0x1C 1
      < 4 ∧ s.fuse.revoked.getD (imgLE (s.img s.kstAddr) 0x1C 1) true = false ∧ s.fuse.anchors.getD (imgLE (s.img s.kstAddr)
      0x1C 1) none = some (sha384 (imgBytes (s.img s.kstAddr) 0x90 (96 + 1952))) ∧ (s.rd (slA x 0x10)).toNat < imgLE (s.img
      s.kstAddr) 0x18 4 ∧ s.rd (slA x 0x10) ≠ 0xFFFFFFFF ∧ imgLE (s.img s.kstAddr) 6 1 = 1 ∧ s.msgKey (s.img s.kstAddr) =
      some l ∧ attrOk (wd (imgLE (s.img s.kstAddr) 0x20 4)) (imgLE (s.img s.kstAddr) 0x24 1) = true ∧ (l.drop (imgLE (s.img
      s.kstAddr) 0x24 1)).all (· == 0) = true ∧ halvesDiffer (wd (imgLE (s.img s.kstAddr) 0x20 4)) (l.take (imgLE (s.img
      s.kstAddr) 0x24 1)) = true → Gives (.kstApply a) s fun t => if P384.verify (imgBytes (s.img s.kstAddr) 0x90 96)
      (imgBytes (s.img s.kstAddr) 0x890 96) (imgBytes (s.img s.kstAddr) 0 0x890) = true then (if MlDsa.verify (imgBytes
      (s.img s.kstAddr) 0xF0 1952) (imgBytes (s.img s.kstAddr) 0x8F0 3309) (imgBytes (s.img s.kstAddr) 0 0x890) = true then
      (t.rd kstBase = maskedWrite (regDesc kstBase) (s.rd kstBase) 0x80000001 ∧ t.rd (kstBase + 0x10) = 0x80000000 ∧ t.kst =
      { s.kst with commit := some ⟨x, s.recOf x (imgLE (s.img s.kstAddr) 0x18 4) { key := l.take (imgLE (s.img s.kstAddr) 0x24 1), attr := wd (imgLE (s.img s.kstAddr) 0x20 4), ivFixed := wd (imgLE (s.img s.kstAddr) 0x34 4), grant := (wd (imgLE (s.img s.kstAddr) 0x38 4)) }, some { key := l.take (imgLE (s.img s.kstAddr) 0x24 1), attr := wd (imgLE (s.img s.kstAddr) 0x20 4), ivFixed := wd (imgLE (s.img s.kstAddr) 0x34 4), grant := (wd (imgLE (s.img s.kstAddr) 0x38 4)) }⟩ }
      ∧ RegsBut s t [kstBase, (kstBase + 0x10)] ∧ Answers t .done ∧ { t with regs := s.regs, kst := s.kst, resp := s.resp }
      = s) else (t.rd kstBase = maskedWrite (regDesc kstBase) (s.rd kstBase) 0x80000001 ∧ t.rd (kstBase + 0x10) = wd
      (Status.code .access * 256 + 6) ∧ RegsBut s t [kstBase, (kstBase + 0x10)] ∧ Reported s t [(0x3040, imgLE (s.img
      s.kstAddr) 7 1 % 2 ^ 32, 0)] ∧ Answers t .done ∧ { t with regs := s.regs, reports := s.reports, resp := s.resp } = s))
      else (t.rd kstBase = maskedWrite (regDesc kstBase) (s.rd kstBase) 0x80000001 ∧ t.rd (kstBase + 0x10) = wd (Status.code
      .access * 256 + 5) ∧ RegsBut s t [kstBase, (kstBase + 0x10)] ∧ Reported s t [(0x3040, imgLE (s.img s.kstAddr) 7 1 % 2
      ^ 32, 0)] ∧ Answers t .done ∧ { t with regs := s.regs, reports := s.reports, resp := s.resp } = s))
    ∧ (Reaches s a kstBase ∧ Manager s a ∧ NoHart a ∧ s.rb (kstBase + 0x10) 31 = true → (Gives (.kstApply a) s fun t =>
      Refuses s t .conflict) ∧ (Gives (.kstErase a n) s fun t => Refuses s t .conflict) ∧ (Gives (.kstLoadPlain a n) s fun t
      => Refuses s t .conflict))
    ∧ (Reaches s a kstBase ∧ Manager s a ∧ s.rb (kstBase + 0x10) 31 = false ∧ sramSpan s.kstAddr 5600 = true ∧ s.anyBad
      s.kstAddr 5600 = false ∧ s.msgCheck (s.img s.kstAddr) = 0 ∧ imgLE (s.img s.kstAddr) 7 1 = x ∧ imgLE (s.img s.kstAddr)
      6 1 = 2 → Gives (.kstApply a) s fun t => t.rd kstBase = maskedWrite (regDesc kstBase) (s.rd kstBase) 0x80000001 ∧ t.rd
      (kstBase + 0x10) = 0x80000000 ∧ t.kst =
      { s.kst with commit := some ⟨x, recErased x (imgLE (s.img s.kstAddr) 0x18 4) (wd (imgLE (s.img s.kstAddr) 0x38 4)), none⟩ }
      ∧ RegsBut s t [kstBase, (kstBase + 0x10)] ∧ Answers t .done ∧ { t with regs := s.regs, kst := s.kst, resp := s.resp }
      = s)
    ∧ (Reaches s a kstBase ∧ Manager s a ∧ s.rb (kstBase + 0x10) 31 = false ∧ sramSpan s.kstAddr 5600 = true ∧ s.anyBad
      s.kstAddr 5600 = false ∧ s.msgCheck (s.img s.kstAddr) = 0 ∧ imgLE (s.img s.kstAddr) 7 1 = x ∧ imgLE (s.img s.kstAddr)
      6 1 = 1 ∧ s.msgKey (s.img s.kstAddr) = some l → Gives (.kstApply a) s fun t => t.rd kstBase = maskedWrite (regDesc
      kstBase) (s.rd kstBase) 0x80000001 ∧ t.rd (kstBase + 0x10) = 0x80000000 ∧ t.kst =
      { s.kst with commit := some ⟨x, s.recOf x (imgLE (s.img s.kstAddr) 0x18 4) { key := l.take (imgLE (s.img s.kstAddr) 0x24 1), attr := wd (imgLE (s.img s.kstAddr) 0x20 4), ivFixed := wd (imgLE (s.img s.kstAddr) 0x34 4), grant := (wd (imgLE (s.img s.kstAddr) 0x38 4)) }, some { key := l.take (imgLE (s.img s.kstAddr) 0x24 1), attr := wd (imgLE (s.img s.kstAddr) 0x20 4), ivFixed := wd (imgLE (s.img s.kstAddr) 0x34 4), grant := (wd (imgLE (s.img s.kstAddr) 0x38 4)) }⟩ }
      ∧ RegsBut s t [kstBase, (kstBase + 0x10)] ∧ Answers t .done ∧ { t with regs := s.regs, kst := s.kst, resp := s.resp }
      = s)
    ∧ (Reaches s a kstBase ∧ Manager s a ∧ s.rb (kstBase + 0x10) 31 = false ∧ 192 ≤ n.toNat ∧ SlotAlone s n.toNat ∧ (∀ j ∈
      s.cph.jobs, j.slot = n.toNat → j.holds = true) → Gives (.kstErase a n) s fun t => t.rd kstBase = maskedWrite (regDesc
      kstBase) (s.rd kstBase) (wd (0x80000002 + n.toNat * 256)) ∧ t.rd (kstBase + 0x10) = wd (Status.code .done * 256 + 0) ∧
      Wiped s t n.toNat 0 ∧ (t.slot n.toNat).win = (s.slot n.toNat).win ∧ SlotsBut s t n.toNat ∧ RegsBut s t [kstBase,
      (kstBase + 0x10), slA n.toNat 4, slA n.toNat 8] ∧ Answers t .done ∧
      { t with regs := s.regs, kst := s.kst, cph := s.cph, resp := s.resp } = s)
    ∧ (Reaches s a kstBase ∧ Manager s a ∧ s.rb (kstBase + 0x10) 31 = false ∧ 16 ≤ n.toNat ∧ s.slState n.toNat ≠ 4 → Gives
      (.kstErase a n) s fun t => t.rd kstBase = maskedWrite (regDesc kstBase) (s.rd kstBase) (wd (0x80000002 + n.toNat *
      256)) ∧ t.rd (kstBase + 0x10) = wd (Status.code .done * 256 + 0) ∧ (t.slot n.toNat).key = [] ∧ (t.slot n.toNat).staged
      = none ∧ t.rd (slA n.toNat 4) = 0 ∧ t.rd (slA n.toNat 8) = 0 ∧ (∀ q ∈ t.cph.ctxs, q.2.all (fun y => y.slot != n.toNat)
      = true) ∧ Answers t .done ∧
      { t with regs := s.regs, mem := s.mem, eccBad := s.eccBad, harts := s.harts, kst := s.kst, cph := s.cph, stg := s.stg, esw := s.esw, reports := s.reports, resp := s.resp }
      = s)
    ∧ (Reaches s a kstBase ∧ Manager s a ∧ s.rb (kstBase + 0x10) 31 = false ∧ persistent n.toNat = true ∧ s.slState n.toNat ≠
      4 ∧ SlotAlone s n.toNat ∧ (∀ j ∈ s.cph.jobs, j.slot = n.toNat → j.holds = true) → Gives (.kstErase a n) s fun t =>
      t.rd kstBase = maskedWrite (regDesc kstBase) (s.rd kstBase) (wd (0x80000002 + n.toNat * 256)) ∧ t.rd (kstBase + 0x10)
      = wd (Status.code .done * 256 + 0) ∧ Committed s t n.toNat (recErased n.toNat (s.rd (slA n.toNat 0x10)).toNat (s.rd
      (slA n.toNat 0xC))) ∧ Wiped s t n.toNat 0 ∧ SlotsBut s t n.toNat ∧ RegsBut s t [kstBase, (kstBase + 0x10), slA n.toNat
      4, slA n.toNat 8] ∧ Answers t .done ∧
      { t with regs := s.regs, mem := s.mem, eccBad := s.eccBad, harts := s.harts, kst := s.kst, cph := s.cph, resp := s.resp }
      = s)
    ∧ (Reaches s a kstBase ∧ Manager s a ∧ s.rb (kstBase + 0x10) 31 = false ∧ (n.toNat < 16 ∨ s.slState n.toNat = 4) → Gives
      (.kstErase a n) s fun t => t.rd kstBase = maskedWrite (regDesc kstBase) (s.rd kstBase) (wd (0x80000002 + n.toNat *
      256)) ∧ t.rd (kstBase + 0x10) = wd (Status.code .access * 256 + 0) ∧ RegsBut s t [kstBase, (kstBase + 0x10)] ∧ Answers
      t .done ∧ { t with regs := s.regs, resp := s.resp } = s)
    ∧ (Reaches s a kstBase ∧ Manager s a ∧ s.rb (kstBase + 0x10) 31 = false ∧ (s.fuse.dv = true ∨ s.fuse.mfgClosed = false) ∧
      persistent n.toNat = true ∧ s.slState n.toNat ≠ 4 ∧ sramSpan s.kstAddr 88 = true ∧ imgLE (s.img s.kstAddr) 5 1 =
      n.toNat ∧ s.anyBad s.kstAddr 88 = false ∧ Machine.sizeOf (imgLE (s.img s.kstAddr) 4 1) ≠ 4 → Gives (.kstLoadPlain a n)
      s fun t => t.rd kstBase = maskedWrite (regDesc kstBase) (s.rd kstBase) (wd (0x80000003 + n.toNat * 256)) ∧ t.rd
      (kstBase + 0x10) = wd (Status.code .done * 256 + 0) ∧ Committed s t n.toNat (s.recOf n.toNat (s.rd (slA n.toNat
      0x10)).toNat
      ({ key := (imgBytes (s.img s.kstAddr) 0x18 64).take (imgLE (s.img s.kstAddr) 4 1), attr := wd (imgLE (s.img s.kstAddr) 0 4) &&& 0x3FF, ivFixed := wd (imgLE (s.img s.kstAddr) 8 4), grant := wd (imgLE (s.img s.kstAddr) 0xC 4) }
      : SlotFill)) ∧ (if (State.slotUse
      { s with cph := { s.cph with jobs := s.cph.jobs.map fun y => if y.slot = n.toNat ∧ y.phase = .invWait then { y with phase := .waiting s.ticks } else y } }
      n.toNat) = 0 then (t.slot n.toNat).key =
      ({ key := (imgBytes (s.img s.kstAddr) 0x18 64).take (imgLE (s.img s.kstAddr) 4 1), attr := wd (imgLE (s.img s.kstAddr) 0 4) &&& 0x3FF, ivFixed := wd (imgLE (s.img s.kstAddr) 8 4), grant := wd (imgLE (s.img s.kstAddr) 0xC 4) }
      : SlotFill).key ∧ (t.slot n.toNat).staged = none ∧ t.slState n.toNat = 1 ∧ t.rd (slA n.toNat 4) =
      ({ key := (imgBytes (s.img s.kstAddr) 0x18 64).take (imgLE (s.img s.kstAddr) 4 1), attr := wd (imgLE (s.img s.kstAddr) 0 4) &&& 0x3FF, ivFixed := wd (imgLE (s.img s.kstAddr) 8 4), grant := wd (imgLE (s.img s.kstAddr) 0xC 4) }
      : SlotFill).attr &&& 0x7FF ∧ t.rd (slA n.toNat 0xC) =
      ({ key := (imgBytes (s.img s.kstAddr) 0x18 64).take (imgLE (s.img s.kstAddr) 4 1), attr := wd (imgLE (s.img s.kstAddr) 0 4) &&& 0x3FF, ivFixed := wd (imgLE (s.img s.kstAddr) 8 4), grant := wd (imgLE (s.img s.kstAddr) 0xC 4) }
      : SlotFill).grant &&& 0x800001FF else (t.slot n.toNat).staged = some
      ({ key := (imgBytes (s.img s.kstAddr) 0x18 64).take (imgLE (s.img s.kstAddr) 4 1), attr := wd (imgLE (s.img s.kstAddr) 0 4) &&& 0x3FF, ivFixed := wd (imgLE (s.img s.kstAddr) 8 4), grant := wd (imgLE (s.img s.kstAddr) 0xC 4) }
      : SlotFill) ∧ (t.slot n.toNat).key = (s.slot n.toNat).key ∧ t.slState n.toNat = 2 ∧ t.rd (slA n.toNat 4) = s.rd (slA
      n.toNat 4)) ∧ Answers t .done ∧
      { t with regs := s.regs, mem := s.mem, eccBad := s.eccBad, harts := s.harts, kst := s.kst, cph := s.cph, stg := s.stg, esw := s.esw, reports := s.reports, resp := s.resp }
      = s)
    ∧ (Reaches s a kstBase ∧ Manager s a ∧ s.rb (kstBase + 0x10) 31 = false ∧ (s.fuse.dv = true ∨ s.fuse.mfgClosed = false) ∧
      persistent n.toNat = true ∧ s.slState n.toNat ≠ 4 ∧ sramSpan s.kstAddr 88 = true ∧ imgLE (s.img s.kstAddr) 5 1 =
      n.toNat ∧ s.anyBad s.kstAddr 88 = false ∧ (imgLE (s.img s.kstAddr) 4 1) = 0 → Gives (.kstLoadPlain a n) s fun t =>
      t.rd kstBase = maskedWrite (regDesc kstBase) (s.rd kstBase) (wd (0x80000003 + n.toNat * 256)) ∧ t.rd (kstBase + 0x10)
      = wd (Status.code .done * 256 + 0) ∧ Committed s t n.toNat (recErased n.toNat (s.rd (slA n.toNat 0x10)).toNat (wd
      (imgLE (s.img s.kstAddr) 0xC 4))) ∧ (t.slot n.toNat).key = [] ∧ (t.slot n.toNat).staged = none ∧ t.rd (slA n.toNat 4)
      = 0 ∧ t.rd (slA n.toNat 8) = 0 ∧ (∀ q ∈ t.cph.ctxs, q.2.all (fun y => y.slot != n.toNat) = true) ∧ Answers t .done ∧
      { t with regs := s.regs, mem := s.mem, eccBad := s.eccBad, harts := s.harts, kst := s.kst, cph := s.cph, stg := s.stg, esw := s.esw, reports := s.reports, resp := s.resp }
      = s)
    ∧ (Reaches s a kstBase ∧ Manager s a ∧ s.rb (kstBase + 0x10) 31 = false ∧ (s.fuse.dv = true ∨ s.fuse.mfgClosed = false) ∧
      persistent n.toNat = true ∧ s.slState n.toNat ≠ 4 ∧ sramSpan s.kstAddr 88 = true ∧ imgLE (s.img s.kstAddr) 5 1 =
      n.toNat ∧ s.anyBad s.kstAddr 88 = false ∧ SlotAlone s n.toNat ∧ Machine.sizeOf (imgLE (s.img s.kstAddr) 4 1) ≠ 4 ∧ (∀
      j ∈ s.cph.jobs, j.slot ≠ n.toNat) ∧ s.slotUse n.toNat = 0 → Gives (.kstLoadPlain a n) s fun t => t.rd kstBase =
      maskedWrite (regDesc kstBase) (s.rd kstBase) (wd (0x80000003 + n.toNat * 256)) ∧ t.rd (kstBase + 0x10) = wd
      (Status.code .done * 256 + 0) ∧ Committed s t n.toNat (s.recOf n.toNat (s.rd (slA n.toNat 0x10)).toNat
      ({ key := (imgBytes (s.img s.kstAddr) 0x18 64).take (imgLE (s.img s.kstAddr) 4 1), attr := wd (imgLE (s.img s.kstAddr) 0 4) &&& 0x3FF, ivFixed := wd (imgLE (s.img s.kstAddr) 8 4), grant := wd (imgLE (s.img s.kstAddr) 0xC 4) }
      : SlotFill)) ∧ Filled s t n.toNat
      ({ key := (imgBytes (s.img s.kstAddr) 0x18 64).take (imgLE (s.img s.kstAddr) 4 1), attr := wd (imgLE (s.img s.kstAddr) 0 4) &&& 0x3FF, ivFixed := wd (imgLE (s.img s.kstAddr) 8 4), grant := wd (imgLE (s.img s.kstAddr) 0xC 4) }
      : SlotFill) ∧ t.rd (slA n.toNat 0xC) = wd (imgLE (s.img s.kstAddr) 0xC 4) &&& 0x800001FF ∧ SlotsBut s t n.toNat ∧
      RegsBut s t [kstBase, (kstBase + 0x10), slA n.toNat 4, slA n.toNat 8, slA n.toNat 0xC] ∧ Answers t .done ∧
      { t with regs := s.regs, mem := s.mem, eccBad := s.eccBad, harts := s.harts, kst := s.kst, cph := s.cph, resp := s.resp }
      = s)
    ∧ (Reaches s a kstBase ∧ Manager s a ∧ s.rb (kstBase + 0x10) 31 = false ∧ (s.fuse.dv = true ∨ s.fuse.mfgClosed = false) ∧
      persistent n.toNat = true ∧ s.slState n.toNat ≠ 4 ∧ sramSpan s.kstAddr 88 = true ∧ imgLE (s.img s.kstAddr) 5 1 =
      n.toNat ∧ s.anyBad s.kstAddr 88 = false ∧ SlotAlone s n.toNat ∧ Machine.sizeOf (imgLE (s.img s.kstAddr) 4 1) ≠ 4 ∧ (∀
      j ∈ s.cph.jobs, j.slot = n.toNat → j.phase = .active) ∧ s.slotUse n.toNat ≠ 0 → Gives (.kstLoadPlain a n) s fun t =>
      t.rd kstBase = maskedWrite (regDesc kstBase) (s.rd kstBase) (wd (0x80000003 + n.toNat * 256)) ∧ t.rd (kstBase + 0x10)
      = wd (Status.code .done * 256 + 0) ∧ Committed s t n.toNat (s.recOf n.toNat (s.rd (slA n.toNat 0x10)).toNat
      ({ key := (imgBytes (s.img s.kstAddr) 0x18 64).take (imgLE (s.img s.kstAddr) 4 1), attr := wd (imgLE (s.img s.kstAddr) 0 4) &&& 0x3FF, ivFixed := wd (imgLE (s.img s.kstAddr) 8 4), grant := wd (imgLE (s.img s.kstAddr) 0xC 4) }
      : SlotFill)) ∧ { t.slot n.toNat with win := (s.slot n.toNat).win } =
      { s.slot n.toNat with staged := some ({ key := (imgBytes (s.img s.kstAddr) 0x18 64).take (imgLE (s.img s.kstAddr) 4 1), attr := wd (imgLE (s.img s.kstAddr) 0 4) &&& 0x3FF, ivFixed := wd (imgLE (s.img s.kstAddr) 8 4), grant := wd (imgLE (s.img s.kstAddr) 0xC 4) } : SlotFill) }
      ∧ t.rd (slA n.toNat 8) = setFld (s.rd (slA n.toNat 8)) 2 0 2 ∧ SlotsBut s t n.toNat ∧ RegsBut s t [kstBase, (kstBase +
      0x10), slA n.toNat 8] ∧ Answers t .done ∧
      { t with regs := s.regs, mem := s.mem, eccBad := s.eccBad, harts := s.harts, kst := s.kst, cph := s.cph, resp := s.resp }
      = s ∧ t.cph = s.cph)
    ∧ (Reaches s a kstBase ∧ Manager s a ∧ s.rb (kstBase + 0x10) 31 = false ∧ (s.fuse.dv = true ∨ s.fuse.mfgClosed = false) ∧
      persistent n.toNat = true ∧ s.slState n.toNat ≠ 4 ∧ sramSpan s.kstAddr 88 = true ∧ imgLE (s.img s.kstAddr) 5 1 =
      n.toNat ∧ s.anyBad s.kstAddr 88 = false ∧ SlotAlone s n.toNat ∧ (imgLE (s.img s.kstAddr) 4 1) = 0 ∧ (∀ j ∈ s.cph.jobs,
      j.slot = n.toNat → j.holds = true) → Gives (.kstLoadPlain a n) s fun t => t.rd kstBase = maskedWrite (regDesc kstBase)
      (s.rd kstBase) (wd (0x80000003 + n.toNat * 256)) ∧ t.rd (kstBase + 0x10) = wd (Status.code .done * 256 + 0) ∧
      Committed s t n.toNat (recErased n.toNat (s.rd (slA n.toNat 0x10)).toNat (wd (imgLE (s.img s.kstAddr) 0xC 4))) ∧ Wiped
      s t n.toNat 0 ∧ SlotsBut s t n.toNat ∧ RegsBut s t [kstBase, (kstBase + 0x10), slA n.toNat 4, slA n.toNat 8] ∧ Answers
      t .done ∧
      { t with regs := s.regs, mem := s.mem, eccBad := s.eccBad, harts := s.harts, kst := s.kst, cph := s.cph, resp := s.resp }
      = s)
    ∧ (Reaches s a kstBase ∧ Manager s a ∧ s.rb (kstBase + 0x10) 31 = false ∧ s.fuse.dv = false ∧ s.fuse.mfgClosed = true →
      Gives (.kstLoadPlain a n) s fun t => t.rd kstBase = maskedWrite (regDesc kstBase) (s.rd kstBase) (wd (0x80000003 +
      n.toNat * 256)) ∧ t.rd (kstBase + 0x10) = wd (Status.code .access * 256 + 0) ∧ RegsBut s t [kstBase, (kstBase + 0x10)]
      ∧ Answers t .done ∧ { t with regs := s.regs, resp := s.resp } = s)
    ∧ (Reaches s a kstBase ∧ Manager s a ∧ s.rb (kstBase + 0x10) 31 = false ∧ (s.fuse.dv = true ∨ s.fuse.mfgClosed = false) ∧
      (persistent n.toNat = true → s.slState n.toNat ≠ 4) ∧ (persistent n.toNat = false ∨ sramSpan s.kstAddr 88 = false ∨
      imgLE (s.img s.kstAddr) 5 1 ≠ n.toNat ∨ (imgLE (s.img s.kstAddr) 4 1) ≠ 0 ∧ Machine.sizeOf (imgLE (s.img s.kstAddr) 4
      1) = 4) → Gives (.kstLoadPlain a n) s fun t => t.rd kstBase = maskedWrite (regDesc kstBase) (s.rd kstBase) (wd
      (0x80000003 + n.toNat * 256)) ∧ t.rd (kstBase + 0x10) = wd (Status.code .range * 256 + 0) ∧ RegsBut s t [kstBase,
      (kstBase + 0x10)] ∧ Answers t .done ∧ { t with regs := s.regs, resp := s.resp } = s)
    ∧ (Reaches s a (slA n.toNat 0xC) ∧ Manager s a ∧ persistent n.toNat = true ∧ s.slState n.toNat ≠ 4 → Gives
      (.slotGrantWrite a n v) s fun t => t.rd (slA n.toNat 0xC) = (v &&& 0x800001FF) ∧ Committed s t n.toNat (patch
      (s.recBody n.toNat) 0x14 (leBytes 4 (v &&& 0x800001FF).toNat)) ∧ { t.slot n.toNat with win := (s.slot n.toNat).win } =
      { s.slot n.toNat with staged := (s.slot n.toNat).staged.map fun f => { f with grant := (v &&& 0x800001FF) } } ∧ t.rd
      (slA n.toNat 0x10) = wd (leNat (slice (s.recBody n.toNat) 4 4)) ∧ SlotsBut s t n.toNat ∧ RegsBut s t [slA n.toNat 0xC,
      slA n.toNat 0x10] ∧ Answers t .done ∧
      { t with regs := s.regs, mem := s.mem, eccBad := s.eccBad, harts := s.harts, kst := s.kst, resp := s.resp } = s)
    ∧ (Reaches s a (slA n.toNat 0xC) ∧ Manager s a ∧ NoHart a ∧ persistent n.toNat = false → Gives (.slotGrantWrite a n v) s
      fun t => Refuses s t .range)
    ∧ (Reaches s a (slA n.toNat 0xC) ∧ Manager s a ∧ NoHart a ∧ persistent n.toNat = true ∧ s.slState n.toNat = 4 → Gives
      (.slotGrantWrite a n v) s fun t => Refuses s t .access)
    ∧ (s.logicOn = true ∧ s.accepts 8 = true ∧ s.kst.commit = some k ∧ k.fill = some f → Gives .keyUpdateCommit s fun t =>
      t.kst.commit = none ∧ t.rd (kstBase + 0x10) = wd (Status.code .done * 256 + 0) ∧ (if (State.slotUse
      { s with cph := { s.cph with jobs := s.cph.jobs.map fun y => if y.slot = k.slot ∧ y.phase = .invWait then { y with phase := .waiting s.ticks } else y } }
      k.slot) = 0 then (t.slot k.slot).key = f.key ∧ (t.slot k.slot).staged = none ∧ t.slState k.slot = 1 ∧ t.rd (slA k.slot
      4) = f.attr &&& 0x7FF ∧ (persistent k.slot = true → t.rd (slA k.slot 0xC) = f.grant &&& 0x800001FF) else (t.slot
      k.slot).staged = some f ∧ (t.slot k.slot).key = (s.slot k.slot).key ∧ t.slState k.slot = 2 ∧ t.rd (slA k.slot 4) =
      s.rd (slA k.slot 4)) ∧ t.rd (slA k.slot 0x10) = wd (leNat (slice k.record 4 4)) ∧
      { t with regs := s.regs, mem := s.mem, eccBad := s.eccBad, harts := s.harts, kst := s.kst, cph := s.cph, stg := s.stg, esw := s.esw, reports := s.reports }
      = s)
    ∧ (s.logicOn = true ∧ s.accepts 8 = true ∧ s.kst.commit = some k ∧ k.fill = none → Gives .keyUpdateCommit s fun t =>
      t.kst.commit = none ∧ t.rd (kstBase + 0x10) = wd (Status.code .done * 256 + 0) ∧ (t.slot k.slot).key = [] ∧ (t.slot
      k.slot).staged = none ∧ t.rd (slA k.slot 4) = 0 ∧ t.rd (slA k.slot 8) = 0 ∧ (∀ q ∈ t.cph.ctxs, q.2.all (fun y =>
      y.slot != k.slot) = true) ∧ t.rd (slA k.slot 0xC) = wd (leNat (slice k.record 0x14 4)) &&& 0x800001FF ∧ t.rd (slA
      k.slot 0x10) = wd (leNat (slice k.record 4 4)) ∧
      { t with regs := s.regs, mem := s.mem, eccBad := s.eccBad, harts := s.harts, kst := s.kst, cph := s.cph, stg := s.stg, esw := s.esw, reports := s.reports }
      = s)
    ∧ (s.logicOn = true ∧ s.accepts 8 = true ∧ s.kst.commit = some k ∧ k.fill = some f ∧ k.record.length = 0x70 ∧ persistent
      k.slot = true ∧ SlotAlone s k.slot ∧ (∀ j ∈ s.cph.jobs, j.slot ≠ k.slot) ∧ s.slotUse k.slot = 0 → Gives
      .keyUpdateCommit s fun t => { t.kst with slots := s.kst.slots } = { s.kst with commit := none } ∧ t.rd (kstBase +
      0x10) = wd (Status.code .done * 256 + 0) ∧ Committed s t k.slot k.record ∧ Filled s t k.slot f ∧ t.rd (slA k.slot 0xC)
      = f.grant &&& 0x800001FF ∧ t.rd (slA k.slot 0x10) = wd (leNat (slice k.record 4 4)) ∧ (∀ q, q ≠ k.slot → t.slot q =
      s.slot q) ∧ RegsBut s t [(kstBase + 0x10), slA k.slot 4, slA k.slot 8, slA k.slot 0xC, slA k.slot 0x10] ∧
      { t with regs := s.regs, mem := s.mem, eccBad := s.eccBad, harts := s.harts, kst := s.kst, cph := s.cph } = s)
    ∧ (s.logicOn = true ∧ s.accepts 8 = true ∧ s.kst.commit = some k ∧ k.fill = none ∧ k.record.length = 0x70 ∧ persistent
      k.slot = true ∧ SlotAlone s k.slot ∧ (∀ j ∈ s.cph.jobs, j.slot = k.slot → j.holds = true) → Gives .keyUpdateCommit s
      fun t => { t.kst with slots := s.kst.slots } = { s.kst with commit := none } ∧ t.rd (kstBase + 0x10) = wd (Status.code
      .done * 256 + 0) ∧ Committed s t k.slot k.record ∧ Wiped s t k.slot 0 ∧ t.rd (slA k.slot 0xC) = wd (leNat (slice
      k.record 0x14 4)) &&& 0x800001FF ∧ t.rd (slA k.slot 0x10) = wd (leNat (slice k.record 4 4)) ∧ (∀ q, q ≠ k.slot →
      t.slot q = s.slot q) ∧ RegsBut s t [(kstBase + 0x10), slA k.slot 4, slA k.slot 8, slA k.slot 0xC, slA k.slot 0x10] ∧
      { t with regs := s.regs, mem := s.mem, eccBad := s.eccBad, harts := s.harts, kst := s.kst, cph := s.cph } = s)
    ∧ (s.logicOn = true ∧ s.accepts 8 = true ∧ ok = true ∧ s.slState n.toNat ≠ 3 ∧ s.slState n.toNat ≠ 4 ∧ (persistent n.toNat
      = false ∨ (s.slot n.toNat).staged.isSome = true) ∧ SlotAlone s n.toNat ∧ (∀ j ∈ s.cph.jobs, j.slot = n.toNat → j.holds
      = true) → Gives (.slotIntegrityScan n ok) s fun t => Wiped s t n.toNat 3 ∧ (t.slot n.toNat).win = (s.slot n.toNat).win
      ∧ SlotsBut s t n.toNat ∧ Reported s t [(0x3043, n.toNat, 0)] ∧ RegsBut s t [slA n.toNat 4, slA n.toNat 8] ∧
      { t with regs := s.regs, kst := s.kst, cph := s.cph, reports := s.reports } = s)
    ∧ (s.logicOn = true ∧ s.accepts 8 = true ∧ ok = true ∧ s.slState n.toNat ≠ 3 ∧ s.slState n.toNat ≠ 4 ∧ persistent n.toNat
      = true ∧ (s.slot n.toNat).staged = none ∧ (s.slot n.toNat).win = some b ∧ SlotAlone s n.toNat ∧ (∀ j ∈ s.cph.jobs,
      j.slot = n.toNat → j.holds = true) → Gives (.slotIntegrityScan n ok) s fun t => if s.recValid s.kst.testRoot n.toNat b
      = true then Reported s t [(0x3042, n.toNat, 0)] ∧ { t with reports := s.reports } = s else Wiped s t n.toNat 3 ∧
      (t.slot n.toNat).win = (s.slot n.toNat).win ∧ SlotsBut s t n.toNat ∧ Reported s t [(0x3043, n.toNat, 0)] ∧ RegsBut s t
      [slA n.toNat 4, slA n.toNat 8] ∧ { t with regs := s.regs, kst := s.kst, cph := s.cph, reports := s.reports } = s)
    ∧ (s.logicOn = true ∧ s.accepts 8 = true ∧ ok = true ∧ s.slState n.toNat ≠ 3 ∧ s.slState n.toNat ≠ 4 → Gives
      (.slotIntegrityScan n ok) s fun t => if persistent n.toNat = true ∧ (s.slot n.toNat).staged = none ∧ (s.slot
      n.toNat).win.any (fun y => s.recValid s.kst.testRoot n.toNat y) = true then Reported s t [(0x3042, n.toNat, 0)] ∧
      { t with reports := s.reports } = s else ((t.slot n.toNat).key = [] ∧ (t.slot n.toNat).staged = none ∧ t.rd (slA
      n.toNat 4) = 0 ∧ t.rd (slA n.toNat 8) = 3 ∧ (∀ q ∈ t.cph.ctxs, q.2.all (fun y => y.slot != n.toNat) = true) ∧
      { t with regs := s.regs, mem := s.mem, eccBad := s.eccBad, harts := s.harts, kst := s.kst, cph := s.cph, stg := s.stg, esw := s.esw, reports := s.reports }
      = s))
    ∧ (ok = false ∨ s.slState n.toNat = 3 ∨ s.slState n.toNat = 4 → Gives (.slotIntegrityScan n ok) s fun t => t = s)
    ∧ (s.logicOn = true ∧ s.accepts 8 = true ∧ (s.slot n.toNat).staged = some f ∧ s.slotUse n.toNat = 0 → Gives
      (.slotRewriteEffect n) s fun t => (t.slot n.toNat).key = f.key ∧ (t.slot n.toNat).staged = none ∧ t.slState n.toNat =
      1 ∧ t.rd (slA n.toNat 4) = f.attr &&& 0x7FF ∧
      { t with regs := s.regs, mem := s.mem, eccBad := s.eccBad, harts := s.harts, kst := s.kst, cph := s.cph, stg := s.stg, esw := s.esw, reports := s.reports }
      = s)
    ∧ (s.logicOn = true ∧ s.accepts 8 = true ∧ (s.slot n.toNat).staged = some f ∧ s.slotUse n.toNat = 0 ∧ SlotAlone s n.toNat
      ∧ s.cph.jobs = j :: r ∧ j.slot = n.toNat ∧ j.phase = .waiting c ∧ (∀ q ∈ r, q.slot ≠ n.toNat) → Gives
      (.slotRewriteEffect n) s fun t => Filled s t n.toNat f ∧ (t.slot n.toNat).win = (s.slot n.toNat).win ∧ t.cph =
      { s.cph with jobs := { j with phase := .active } :: r } ∧ SlotsBut s t n.toNat ∧ RegsBut s t [slA n.toNat 4, slA
      n.toNat 8, slA n.toNat 0xC] ∧ { t with regs := s.regs, kst := s.kst, cph := s.cph } = s)
    ∧ (s.logicOn = true ∧ s.accepts 8 = true ∧ ((s.slot n.toNat).staged = none ∨ s.slotUse n.toNat ≠ 0) → Gives
      (.slotRewriteEffect n) s fun t => t = s)
    ∧ (s.logicOn = true ∧ s.accepts 8 = true ∧ (∃ y ∈ s.cph.jobs, (y.slot = n.toNat ∧ y.phase = .invWait)) ∧ ok = true → Gives
      (.invReserveCommit n ok) s fun t => { t.slot n.toNat with win := (s.slot n.toNat).win } =
      { s.slot n.toNat with resv := (min ((s.slot n.toNat).resv + 65536) (2 ^ 64)) } ∧ t.cph =
      { s.cph with jobs := s.cph.jobs.map fun y => if (y.slot = n.toNat ∧ y.phase = .invWait) then { y with phase := .active } else y }
      ∧ SlotsBut s t n.toNat ∧ RegsBut s t [slA n.toNat 0x10] ∧ MemBut s t (recA n.toNat ((s.slot n.toNat).win == some
      false)) 0x80 ∧
      { t with regs := s.regs, mem := s.mem, eccBad := s.eccBad, harts := s.harts, kst := s.kst, cph := s.cph } = s)
    ∧ (s.logicOn = true ∧ s.accepts 8 = true ∧ (∃ y ∈ s.cph.jobs, (y.slot = n.toNat ∧ y.phase = .invWait)) ∧ ok = false →
      Gives (.invReserveCommit n ok) s fun t => t.cph =
      { s.cph with jobs := s.cph.jobs.map fun y => if (y.slot = n.toNat ∧ y.phase = .invWait) then { y with phase := .ended .eccUncorr 0 0 } else y }
      ∧ Reported s t [(0x304B, n.toNat, 0)] ∧ { t with cph := s.cph, reports := s.reports } = s)
    ∧ (s.logicOn = true ∧ s.accepts 8 = true ∧ s.cph.jobs = j :: r ∧ j.slot = n.toNat ∧ j.phase = .invWait ∧ (∀ q ∈ r, q.slot
      ≠ n.toNat) ∧ ok = true ∧ (s.slot n.toNat).win = some b → Gives (.invReserveCommit n ok) s fun t => Committed s t
      n.toNat (patch (s.ldBytes (recA n.toNat b) 0x70) 0x18 (leBytes 8 (min (min ((s.slot n.toNat).resv + 65536) (2 ^ 64))
      (2 ^ 64 - 1)))) ∧ { t.slot n.toNat with win := (s.slot n.toNat).win } =
      { s.slot n.toNat with resv := (min ((s.slot n.toNat).resv + 65536) (2 ^ 64)) } ∧ t.cph =
      { s.cph with jobs := { j with phase := .active } :: r } ∧ SlotsBut s t n.toNat ∧ RegsBut s t [slA n.toNat 0x10] ∧
      { t with regs := s.regs, mem := s.mem, eccBad := s.eccBad, harts := s.harts, kst := s.kst, cph := s.cph } = s)
    ∧ (s.logicOn = true ∧ s.accepts 8 = true ∧ s.cph.jobs = j :: r ∧ j.slot = n.toNat ∧ j.phase = .invWait ∧ (∀ q ∈ r, q.slot
      ≠ n.toNat) ∧ ok = false → Gives (.invReserveCommit n ok) s fun t => t.cph =
      { s.cph with jobs := { j with phase := .ended .eccUncorr 0 0 } :: r } ∧ Reported s t [(0x304B, n.toNat, 0)] ∧
      { t with cph := s.cph, reports := s.reports } = s)
    ∧ (Reaches s a pkeBase ∧ Manager s a ∧ sramSpan ((s.rd (pkeBase + 8)).toNat + (s.rd (pkeBase + 0xC)).toNat * 2 ^ 32) 5712
      = true ∧ s.kst.signing = none ∧ s.kst.attFail = false → Gives (.attGo a) s fun t => t.kst =
      { s.kst with signing := some (s.statement, ((s.rd (pkeBase + 8)).toNat + (s.rd (pkeBase + 0xC)).toNat * 2 ^ 32)) } ∧
      t.rd pkeBase = setFld (s.rd pkeBase) 7 0 1 ∧ RegsBut s t [pkeBase] ∧ Answers t .done ∧
      { t with regs := s.regs, kst := s.kst, resp := s.resp } = s)
    ∧ (Reaches s a pkeBase ∧ Manager s a ∧ sramSpan ((s.rd (pkeBase + 8)).toNat + (s.rd (pkeBase + 0xC)).toNat * 2 ^ 32) 5712
      = true ∧ s.kst.signing = none ∧ s.kst.attFail = true → Gives (.attGo a) s fun t => t.rd pkeBase = 0x4000 ∧ RegsBut s t
      [pkeBase] ∧ Answers t .done ∧ { t with regs := s.regs, resp := s.resp } = s)
    ∧ (Reaches s a pkeBase ∧ Manager s a ∧ NoHart a ∧ sramSpan ((s.rd (pkeBase + 8)).toNat + (s.rd (pkeBase + 0xC)).toNat * 2
      ^ 32) 5712 = false → Gives (.attGo a) s fun t => Refuses s t .range)
    ∧ (Reaches s a pkeBase ∧ Manager s a ∧ NoHart a ∧ sramSpan ((s.rd (pkeBase + 8)).toNat + (s.rd (pkeBase + 0xC)).toNat * 2
      ^ 32) 5712 = true ∧ s.kst.signing.isSome = true → Gives (.attGo a) s fun t => Refuses s t .conflict)
    ∧ (s.logicOn = true ∧ s.accepts 8 = true ∧ s.kst.signing = some (l, x) → Gives .attSignComplete s fun t => t.ldBytes x
      (l.length + 3408) = l ++ padTo 96 (attEcSign (activeRoot s.kst.testRoot) l) ++ padTo 3309 (attPqSign (activeRoot
      s.kst.testRoot) l) ++ [0, 0, 0] ∧ MemBut s t x (l.length + 3408) ∧ StoreSide s t ∧ t.rd pkeBase = 0 ∧ t.kst =
      { s.kst with signing := none } ∧ RegsBut s t [pkeBase] ∧
      { t with regs := s.regs, mem := s.mem, eccBad := s.eccBad, harts := s.harts, kst := s.kst } = s)
    ∧ (s.logicOn = true ∧ s.accepts 8 = true ∧ s.kst.signing.isSome = true → Gives .attTimeout s fun t => t.rd pkeBase =
      0x5100 ∧ t.kst = { s.kst with signing := none } ∧ Reported s t [(0x304A, 0, 0)] ∧ RegsBut s t [pkeBase] ∧
      { t with regs := s.regs, kst := s.kst, reports := s.reports } = s)

/-- A submission is checked in the order of R611 and its job takes its place, waiting behind a pending slot change (R604). A
  CIPHER or CMAC job moves its data through its context and writes output, tag and AUTH (R612-R615); GCM encryption takes
  its IV from the slot and waits for its reservation (R620-R622). A mismatch of the datapaths ends a job with FAULT (R616).
  DERIVE, IMPORT and ERASE change the submitter's slot (R607, R609, R610). SAVE writes a context out and frees it, RESTORE
  brings one back (R617-R619). The completion goes to the job's Cask, waits for room, and is dropped after 1 ms (R611,
  R612); a job behind a pending change times out (R606). -/
def Obligations.CipherEngine : Prop :=
  ∀ (s : State) (a : Acc) (v : DWord) (e : Fin 64) (j : CphJob) (c : Nat) (q : CphCtx) (st : Status) (au ou : Nat) (u : Nat),
    (JobRuns s e.val j ∧ j.op = 1 ∧ j.flag 1 = true ∧ s.jobCtx j = some q ∧ s.jobCheck j q = none ∧ s.sliceAdmits .cphCtx
      j.tid = true ∧ firstBelow 64 (fun k => (s.ctx k).isNone) = some c ∧ s.jobKey q = none ∧ s.anyBad j.src (j.spans q).1 =
      false ∧ s.anyBad j.dst (j.spans q).2.1 = false ∧ s.anyBad j.aad (if q.mode = 4 ∧ j.flag 1 = true then j.aadLen else 0)
      = false ∧ c ≠ 255 ∧ q.mode ≤ 3 → Gives (.cphCipher e false false) s fun t => JobIs s t
      { j with ctx := c, phase := .ended .done (0) (j.srcLen) } ∧ t.ctx c = some (ctxStep (ctxStart q (s.slot q.slot).key
      j.iv (s.ldBytes j.aad (if q.mode = 4 then j.aadLen else 0))) (s.slot q.slot).key (s.ldBytes j.src j.srcLen)).2 ∧ (∀ i,
      i ≠ c → t.ctx i = s.ctx i) ∧ t.ldBytes j.dst (List.length ((ctxStep (ctxStart q (s.slot q.slot).key j.iv (s.ldBytes
      j.aad (if q.mode = 4 then j.aadLen else 0))) (s.slot q.slot).key (s.ldBytes j.src j.srcLen)).1)) = (ctxStep (ctxStart
      q (s.slot q.slot).key j.iv (s.ldBytes j.aad (if q.mode = 4 then j.aadLen else 0))) (s.slot q.slot).key (s.ldBytes
      j.src j.srcLen)).1 ∧ MemBut s t j.dst (List.length ((ctxStep (ctxStart q (s.slot q.slot).key j.iv (s.ldBytes j.aad (if
      q.mode = 4 then j.aadLen else 0))) (s.slot q.slot).key (s.ldBytes j.src j.srcLen)).1)) ∧ StoreSide s t ∧
      { t.cph with jobs := s.cph.jobs, ctxs := s.cph.ctxs } = s.cph ∧
      { t with cph := s.cph, mem := s.mem, eccBad := s.eccBad, harts := s.harts } = s)
    ∧ (JobRuns s e.val j ∧ j.op = 2 ∧ j.flag 1 = true ∧ s.jobCtx j = some q ∧ s.jobCheck j q = none ∧ s.sliceAdmits .cphCtx
      j.tid = true ∧ firstBelow 64 (fun k => (s.ctx k).isNone) = some c ∧ s.jobKey q = none ∧ s.anyBad j.src (j.spans q).1 =
      false ∧ s.anyBad j.dst (j.spans q).2.1 = false ∧ s.anyBad j.aad (if q.mode = 4 ∧ j.flag 1 = true then j.aadLen else 0)
      = false ∧ q.mode = 5 ∧ c ≠ 255 ∧ j.flag 2 = false → Gives (.cphCmac e false false) s fun t => JobIs s t
      { j with ctx := c, phase := .ended .done (0) (0) } ∧ t.ctx c = some (ctxStep (ctxStart q (s.slot q.slot).key j.iv
      (s.ldBytes j.aad (if q.mode = 4 then j.aadLen else 0))) (s.slot q.slot).key (s.ldBytes j.src j.srcLen)).2 ∧ (∀ i, i ≠
      c → t.ctx i = s.ctx i) ∧ { t.cph with jobs := s.cph.jobs, ctxs := s.cph.ctxs } = s.cph ∧ { t with cph := s.cph } = s)
    ∧ (JobRuns s e.val j ∧ j.op = 2 ∧ j.flag 1 = true ∧ s.jobCtx j = some q ∧ s.jobCheck j q = none ∧ s.sliceAdmits .cphCtx
      j.tid = true ∧ firstBelow 64 (fun k => (s.ctx k).isNone) = some c ∧ s.jobKey q = none ∧ s.anyBad j.src (j.spans q).1 =
      false ∧ s.anyBad j.dst (j.spans q).2.1 = false ∧ s.anyBad j.aad (if q.mode = 4 ∧ j.flag 1 = true then j.aadLen else 0)
      = false ∧ q.mode = 5 ∧ c ≠ 255 ∧ j.flag 2 = true ∧ q.flags.testBit 0 = false → Gives (.cphCmac e false false) s fun t
      => JobIs s t { j with ctx := c, phase := .ended .done (0) (j.tagLen) } ∧ t.ctx c = some (ctxStep (ctxStart q (s.slot
      q.slot).key j.iv (s.ldBytes j.aad (if q.mode = 4 then j.aadLen else 0))) (s.slot q.slot).key (s.ldBytes j.src
      j.srcLen)).2 ∧ (∀ i, i ≠ c → t.ctx i = s.ctx i) ∧ t.ldBytes j.dst (List.length ((ctxTag (ctxStep (ctxStart q (s.slot
      q.slot).key j.iv (s.ldBytes j.aad (if q.mode = 4 then j.aadLen else 0))) (s.slot q.slot).key (s.ldBytes j.src
      j.srcLen)).2 (s.slot q.slot).key j.tagLen))) = (ctxTag (ctxStep (ctxStart q (s.slot q.slot).key j.iv (s.ldBytes j.aad
      (if q.mode = 4 then j.aadLen else 0))) (s.slot q.slot).key (s.ldBytes j.src j.srcLen)).2 (s.slot q.slot).key j.tagLen)
      ∧ MemBut s t j.dst (List.length ((ctxTag (ctxStep (ctxStart q (s.slot q.slot).key j.iv (s.ldBytes j.aad (if q.mode = 4
      then j.aadLen else 0))) (s.slot q.slot).key (s.ldBytes j.src j.srcLen)).2 (s.slot q.slot).key j.tagLen))) ∧ StoreSide
      s t ∧ { t.cph with jobs := s.cph.jobs, ctxs := s.cph.ctxs } = s.cph ∧
      { t with cph := s.cph, mem := s.mem, eccBad := s.eccBad, harts := s.harts } = s)
    ∧ (JobRuns s e.val j ∧ j.op = 2 ∧ j.flag 1 = true ∧ s.jobCtx j = some q ∧ s.jobCheck j q = none ∧ s.sliceAdmits .cphCtx
      j.tid = true ∧ firstBelow 64 (fun k => (s.ctx k).isNone) = some c ∧ s.jobKey q = none ∧ s.anyBad j.src (j.spans q).1 =
      false ∧ s.anyBad j.dst (j.spans q).2.1 = false ∧ s.anyBad j.aad (if q.mode = 4 ∧ j.flag 1 = true then j.aadLen else 0)
      = false ∧ q.mode = 5 ∧ c ≠ 255 ∧ j.flag 2 = true ∧ q.flags.testBit 0 = true → Gives (.cphCmac e false false) s fun t
      => JobIs s t
      { j with ctx := c, phase := .ended .done (if (ctxTag (ctxStep (ctxStart q (s.slot q.slot).key j.iv (s.ldBytes j.aad (if q.mode = 4 then j.aadLen else 0))) (s.slot q.slot).key (s.ldBytes j.src j.srcLen)).2 (s.slot q.slot).key j.tagLen) = s.ldBytes j.dst j.tagLen then 1 else 2) (0) }
      ∧ t.ctx c = some (ctxStep (ctxStart q (s.slot q.slot).key j.iv (s.ldBytes j.aad (if q.mode = 4 then j.aadLen else 0)))
      (s.slot q.slot).key (s.ldBytes j.src j.srcLen)).2 ∧ (∀ i, i ≠ c → t.ctx i = s.ctx i) ∧
      { t.cph with jobs := s.cph.jobs, ctxs := s.cph.ctxs } = s.cph ∧ { t with cph := s.cph } = s)
    ∧ (JobRuns s e.val j ∧ j.op = 1 ∧ j.flag 1 = true ∧ s.jobCtx j = some q ∧ s.jobCheck j q = none ∧ s.sliceAdmits .cphCtx
      j.tid = true ∧ firstBelow 64 (fun k => (s.ctx k).isNone) = some c ∧ s.jobKey q = none ∧ s.anyBad j.src (j.spans q).1 =
      false ∧ s.anyBad j.dst (j.spans q).2.1 = false ∧ s.anyBad j.aad (if q.mode = 4 ∧ j.flag 1 = true then j.aadLen else 0)
      = false ∧ q.mode = 4 ∧ c ≠ 255 ∧ q.flags.testBit 0 = true ∧ j.flag 2 = false → Gives (.cphCipher e false false) s fun
      t => JobIs s t { j with ctx := c, phase := .ended .done (0) (j.srcLen) } ∧ t.ctx c = some (ctxStep (ctxStart q (s.slot
      q.slot).key j.iv (s.ldBytes j.aad (if q.mode = 4 then j.aadLen else 0))) (s.slot q.slot).key (s.ldBytes j.src
      j.srcLen)).2 ∧ (∀ i, i ≠ c → t.ctx i = s.ctx i) ∧ t.ldBytes j.dst (List.length ((ctxStep (ctxStart q (s.slot
      q.slot).key j.iv (s.ldBytes j.aad (if q.mode = 4 then j.aadLen else 0))) (s.slot q.slot).key (s.ldBytes j.src
      j.srcLen)).1)) = (ctxStep (ctxStart q (s.slot q.slot).key j.iv (s.ldBytes j.aad (if q.mode = 4 then j.aadLen else 0)))
      (s.slot q.slot).key (s.ldBytes j.src j.srcLen)).1 ∧ MemBut s t j.dst (List.length ((ctxStep (ctxStart q (s.slot
      q.slot).key j.iv (s.ldBytes j.aad (if q.mode = 4 then j.aadLen else 0))) (s.slot q.slot).key (s.ldBytes j.src
      j.srcLen)).1)) ∧ StoreSide s t ∧ { t.cph with jobs := s.cph.jobs, ctxs := s.cph.ctxs } = s.cph ∧
      { t with cph := s.cph, mem := s.mem, eccBad := s.eccBad, harts := s.harts } = s)
    ∧ (JobRuns s e.val j ∧ j.op = 1 ∧ j.flag 1 = true ∧ s.jobCtx j = some q ∧ s.jobCheck j q = none ∧ s.sliceAdmits .cphCtx
      j.tid = true ∧ firstBelow 64 (fun k => (s.ctx k).isNone) = some c ∧ s.jobKey q = none ∧ s.anyBad j.src (j.spans q).1 =
      false ∧ s.anyBad j.dst (j.spans q).2.1 = false ∧ s.anyBad j.aad (if q.mode = 4 ∧ j.flag 1 = true then j.aadLen else 0)
      = false ∧ q.mode = 4 ∧ c ≠ 255 ∧ q.flags.testBit 0 = true ∧ j.flag 2 = true → Gives (.cphCipher e false false) s fun t
      => JobIs s t
      { j with ctx := c, phase := .ended .done (if (ctxTag (ctxStep (ctxStart q (s.slot q.slot).key j.iv (s.ldBytes j.aad (if q.mode = 4 then j.aadLen else 0))) (s.slot q.slot).key (s.ldBytes j.src j.srcLen)).2 (s.slot q.slot).key j.tagLen) = s.ldBytes (j.src + j.srcLen) j.tagLen then 1 else 2) (j.srcLen) }
      ∧ t.ctx c = some (ctxStep (ctxStart q (s.slot q.slot).key j.iv (s.ldBytes j.aad (if q.mode = 4 then j.aadLen else 0)))
      (s.slot q.slot).key (s.ldBytes j.src j.srcLen)).2 ∧ (∀ i, i ≠ c → t.ctx i = s.ctx i) ∧ t.ldBytes j.dst (List.length
      ((if (ctxTag (ctxStep (ctxStart q (s.slot q.slot).key j.iv (s.ldBytes j.aad (if q.mode = 4 then j.aadLen else 0)))
      (s.slot q.slot).key (s.ldBytes j.src j.srcLen)).2 (s.slot q.slot).key j.tagLen) = s.ldBytes (j.src + j.srcLen)
      j.tagLen then (ctxStep (ctxStart q (s.slot q.slot).key j.iv (s.ldBytes j.aad (if q.mode = 4 then j.aadLen else 0)))
      (s.slot q.slot).key (s.ldBytes j.src j.srcLen)).1 else List.replicate j.srcLen 0))) = (if (ctxTag (ctxStep (ctxStart q
      (s.slot q.slot).key j.iv (s.ldBytes j.aad (if q.mode = 4 then j.aadLen else 0))) (s.slot q.slot).key (s.ldBytes j.src
      j.srcLen)).2 (s.slot q.slot).key j.tagLen) = s.ldBytes (j.src + j.srcLen) j.tagLen then (ctxStep (ctxStart q (s.slot
      q.slot).key j.iv (s.ldBytes j.aad (if q.mode = 4 then j.aadLen else 0))) (s.slot q.slot).key (s.ldBytes j.src
      j.srcLen)).1 else List.replicate j.srcLen 0) ∧ MemBut s t j.dst (List.length ((if (ctxTag (ctxStep (ctxStart q (s.slot
      q.slot).key j.iv (s.ldBytes j.aad (if q.mode = 4 then j.aadLen else 0))) (s.slot q.slot).key (s.ldBytes j.src
      j.srcLen)).2 (s.slot q.slot).key j.tagLen) = s.ldBytes (j.src + j.srcLen) j.tagLen then (ctxStep (ctxStart q (s.slot
      q.slot).key j.iv (s.ldBytes j.aad (if q.mode = 4 then j.aadLen else 0))) (s.slot q.slot).key (s.ldBytes j.src
      j.srcLen)).1 else List.replicate j.srcLen 0))) ∧ StoreSide s t ∧ { t.cph with jobs := s.cph.jobs, ctxs := s.cph.ctxs }
      = s.cph ∧ { t with cph := s.cph, mem := s.mem, eccBad := s.eccBad, harts := s.harts } = s)
    ∧ (JobRuns s e.val j ∧ j.op = 1 ∧ j.flag 1 = false ∧ j.ctx = c ∧ c ≠ 255 ∧ s.jobCtx j = some q ∧ s.jobCheck j q = none ∧
      s.jobKey q = none ∧ s.anyBad j.src (j.spans q).1 = false ∧ s.anyBad j.dst (j.spans q).2.1 = false ∧ s.anyBad j.aad (if
      q.mode = 4 ∧ j.flag 1 = true then j.aadLen else 0) = false ∧ c ≠ 255 ∧ q.mode ≤ 3 → Gives (.cphCipher e false false) s
      fun t => JobIs s t { j with ctx := c, phase := .ended .done (0) (j.srcLen) } ∧ t.ctx c = some (ctxStep q (s.slot
      q.slot).key (s.ldBytes j.src j.srcLen)).2 ∧ (∀ i, i ≠ c → t.ctx i = s.ctx i) ∧ t.ldBytes j.dst (List.length ((ctxStep
      q (s.slot q.slot).key (s.ldBytes j.src j.srcLen)).1)) = (ctxStep q (s.slot q.slot).key (s.ldBytes j.src j.srcLen)).1 ∧
      MemBut s t j.dst (List.length ((ctxStep q (s.slot q.slot).key (s.ldBytes j.src j.srcLen)).1)) ∧ StoreSide s t ∧
      { t.cph with jobs := s.cph.jobs, ctxs := s.cph.ctxs } = s.cph ∧
      { t with cph := s.cph, mem := s.mem, eccBad := s.eccBad, harts := s.harts } = s)
    ∧ (JobRuns s e.val j ∧ j.op = 2 ∧ j.flag 1 = false ∧ j.ctx = c ∧ c ≠ 255 ∧ s.jobCtx j = some q ∧ s.jobCheck j q = none ∧
      s.jobKey q = none ∧ s.anyBad j.src (j.spans q).1 = false ∧ s.anyBad j.dst (j.spans q).2.1 = false ∧ s.anyBad j.aad (if
      q.mode = 4 ∧ j.flag 1 = true then j.aadLen else 0) = false ∧ q.mode = 5 ∧ c ≠ 255 ∧ j.flag 2 = false → Gives (.cphCmac
      e false false) s fun t => JobIs s t { j with ctx := c, phase := .ended .done (0) (0) } ∧ t.ctx c = some (ctxStep q
      (s.slot q.slot).key (s.ldBytes j.src j.srcLen)).2 ∧ (∀ i, i ≠ c → t.ctx i = s.ctx i) ∧
      { t.cph with jobs := s.cph.jobs, ctxs := s.cph.ctxs } = s.cph ∧ { t with cph := s.cph } = s)
    ∧ (JobRuns s e.val j ∧ j.op = 2 ∧ j.flag 1 = false ∧ j.ctx = c ∧ c ≠ 255 ∧ s.jobCtx j = some q ∧ s.jobCheck j q = none ∧
      s.jobKey q = none ∧ s.anyBad j.src (j.spans q).1 = false ∧ s.anyBad j.dst (j.spans q).2.1 = false ∧ s.anyBad j.aad (if
      q.mode = 4 ∧ j.flag 1 = true then j.aadLen else 0) = false ∧ q.mode = 5 ∧ c ≠ 255 ∧ j.flag 2 = true ∧ q.flags.testBit
      0 = false → Gives (.cphCmac e false false) s fun t => JobIs s t
      { j with ctx := c, phase := .ended .done (0) (j.tagLen) } ∧ t.ctx c = some (ctxStep q (s.slot q.slot).key (s.ldBytes
      j.src j.srcLen)).2 ∧ (∀ i, i ≠ c → t.ctx i = s.ctx i) ∧ t.ldBytes j.dst (List.length ((ctxTag (ctxStep q (s.slot
      q.slot).key (s.ldBytes j.src j.srcLen)).2 (s.slot q.slot).key j.tagLen))) = (ctxTag (ctxStep q (s.slot q.slot).key
      (s.ldBytes j.src j.srcLen)).2 (s.slot q.slot).key j.tagLen) ∧ MemBut s t j.dst (List.length ((ctxTag (ctxStep q
      (s.slot q.slot).key (s.ldBytes j.src j.srcLen)).2 (s.slot q.slot).key j.tagLen))) ∧ StoreSide s t ∧
      { t.cph with jobs := s.cph.jobs, ctxs := s.cph.ctxs } = s.cph ∧
      { t with cph := s.cph, mem := s.mem, eccBad := s.eccBad, harts := s.harts } = s)
    ∧ (JobRuns s e.val j ∧ j.op = 2 ∧ j.flag 1 = false ∧ j.ctx = c ∧ c ≠ 255 ∧ s.jobCtx j = some q ∧ s.jobCheck j q = none ∧
      s.jobKey q = none ∧ s.anyBad j.src (j.spans q).1 = false ∧ s.anyBad j.dst (j.spans q).2.1 = false ∧ s.anyBad j.aad (if
      q.mode = 4 ∧ j.flag 1 = true then j.aadLen else 0) = false ∧ q.mode = 5 ∧ c ≠ 255 ∧ j.flag 2 = true ∧ q.flags.testBit
      0 = true → Gives (.cphCmac e false false) s fun t => JobIs s t
      { j with ctx := c, phase := .ended .done (if (ctxTag (ctxStep q (s.slot q.slot).key (s.ldBytes j.src j.srcLen)).2 (s.slot q.slot).key j.tagLen) = s.ldBytes j.dst j.tagLen then 1 else 2) (0) }
      ∧ t.ctx c = some (ctxStep q (s.slot q.slot).key (s.ldBytes j.src j.srcLen)).2 ∧ (∀ i, i ≠ c → t.ctx i = s.ctx i) ∧
      { t.cph with jobs := s.cph.jobs, ctxs := s.cph.ctxs } = s.cph ∧ { t with cph := s.cph } = s)
    ∧ (JobRuns s e.val j ∧ j.op = 1 ∧ j.flag 1 = false ∧ j.ctx = c ∧ c ≠ 255 ∧ s.jobCtx j = some q ∧ s.jobCheck j q = none ∧
      s.jobKey q = none ∧ s.anyBad j.src (j.spans q).1 = false ∧ s.anyBad j.dst (j.spans q).2.1 = false ∧ s.anyBad j.aad (if
      q.mode = 4 ∧ j.flag 1 = true then j.aadLen else 0) = false ∧ q.mode = 4 ∧ c ≠ 255 ∧ q.flags.testBit 0 = true ∧ j.flag
      2 = false → Gives (.cphCipher e false false) s fun t => JobIs s t
      { j with ctx := c, phase := .ended .done (0) (j.srcLen) } ∧ t.ctx c = some (ctxStep q (s.slot q.slot).key (s.ldBytes
      j.src j.srcLen)).2 ∧ (∀ i, i ≠ c → t.ctx i = s.ctx i) ∧ t.ldBytes j.dst (List.length ((ctxStep q (s.slot q.slot).key
      (s.ldBytes j.src j.srcLen)).1)) = (ctxStep q (s.slot q.slot).key (s.ldBytes j.src j.srcLen)).1 ∧ MemBut s t j.dst
      (List.length ((ctxStep q (s.slot q.slot).key (s.ldBytes j.src j.srcLen)).1)) ∧ StoreSide s t ∧
      { t.cph with jobs := s.cph.jobs, ctxs := s.cph.ctxs } = s.cph ∧
      { t with cph := s.cph, mem := s.mem, eccBad := s.eccBad, harts := s.harts } = s)
    ∧ (JobRuns s e.val j ∧ j.op = 1 ∧ j.flag 1 = false ∧ j.ctx = c ∧ c ≠ 255 ∧ s.jobCtx j = some q ∧ s.jobCheck j q = none ∧
      s.jobKey q = none ∧ s.anyBad j.src (j.spans q).1 = false ∧ s.anyBad j.dst (j.spans q).2.1 = false ∧ s.anyBad j.aad (if
      q.mode = 4 ∧ j.flag 1 = true then j.aadLen else 0) = false ∧ q.mode = 4 ∧ c ≠ 255 ∧ q.flags.testBit 0 = true ∧ j.flag
      2 = true → Gives (.cphCipher e false false) s fun t => JobIs s t
      { j with ctx := c, phase := .ended .done (if (ctxTag (ctxStep q (s.slot q.slot).key (s.ldBytes j.src j.srcLen)).2 (s.slot q.slot).key j.tagLen) = s.ldBytes (j.src + j.srcLen) j.tagLen then 1 else 2) (j.srcLen) }
      ∧ t.ctx c = some (ctxStep q (s.slot q.slot).key (s.ldBytes j.src j.srcLen)).2 ∧ (∀ i, i ≠ c → t.ctx i = s.ctx i) ∧
      t.ldBytes j.dst (List.length ((if (ctxTag (ctxStep q (s.slot q.slot).key (s.ldBytes j.src j.srcLen)).2 (s.slot
      q.slot).key j.tagLen) = s.ldBytes (j.src + j.srcLen) j.tagLen then (ctxStep q (s.slot q.slot).key (s.ldBytes j.src
      j.srcLen)).1 else List.replicate j.srcLen 0))) = (if (ctxTag (ctxStep q (s.slot q.slot).key (s.ldBytes j.src
      j.srcLen)).2 (s.slot q.slot).key j.tagLen) = s.ldBytes (j.src + j.srcLen) j.tagLen then (ctxStep q (s.slot q.slot).key
      (s.ldBytes j.src j.srcLen)).1 else List.replicate j.srcLen 0) ∧ MemBut s t j.dst (List.length ((if (ctxTag (ctxStep q
      (s.slot q.slot).key (s.ldBytes j.src j.srcLen)).2 (s.slot q.slot).key j.tagLen) = s.ldBytes (j.src + j.srcLen)
      j.tagLen then (ctxStep q (s.slot q.slot).key (s.ldBytes j.src j.srcLen)).1 else List.replicate j.srcLen 0))) ∧
      StoreSide s t ∧ { t.cph with jobs := s.cph.jobs, ctxs := s.cph.ctxs } = s.cph ∧
      { t with cph := s.cph, mem := s.mem, eccBad := s.eccBad, harts := s.harts } = s)
    ∧ (JobRuns s e.val j ∧ j.op = 1 ∧ j.flag 1 = true ∧ s.jobCtx j = some q ∧ s.jobCheck j q = none ∧ s.sliceAdmits .cphCtx
      j.tid = true ∧ firstBelow 64 (fun k => (s.ctx k).isNone) = some c ∧ s.jobKey q = none ∧ s.anyBad j.src (j.spans q).1 =
      false ∧ s.anyBad j.dst (j.spans q).2.1 = false ∧ s.anyBad j.aad (if q.mode = 4 ∧ j.flag 1 = true then j.aadLen else 0)
      = false ∧ q.mode = 4 ∧ c ≠ 255 ∧ q.flags.testBit 0 = false ∧ s.rb (slA j.slot 8) 3 = false ∧ (persistent j.slot = true
      → (s.slot j.slot).inv < (s.slot j.slot).resv) ∧ (s.slot j.slot).inv < 2 ^ 64 - 1 → Gives (.cphCipher e false false) s
      fun t => JobIs s t { j with ctx := c, phase := .ended .done (0) (j.srcLen + if j.flag 2 then j.tagLen else 0) } ∧
      t.ctx c = some (ctxStep (ctxStart q (s.slot q.slot).key (beBytes 4 (s.slot j.slot).ivFixed.toNat ++ beBytes 8 (s.slot
      j.slot).inv) (s.ldBytes j.aad (if q.mode = 4 then j.aadLen else 0))) (s.slot q.slot).key ((s.stBytes (j.descAt + 0x28)
      (beBytes 4 (s.slot j.slot).ivFixed.toNat ++ beBytes 8 (s.slot j.slot).inv)).ldBytes j.src j.srcLen)).2 ∧ (∀ i, i ≠ c →
      t.ctx i = s.ctx i) ∧ (∀ x, (x < j.descAt + 0x28 ∨ j.descAt + 0x34 ≤ x) → (x < j.dst ∨ j.dst + List.length ((ctxStep
      (ctxStart q (s.slot q.slot).key (beBytes 4 (s.slot j.slot).ivFixed.toNat ++ beBytes 8 (s.slot j.slot).inv) (s.ldBytes
      j.aad (if q.mode = 4 then j.aadLen else 0))) (s.slot q.slot).key ((s.stBytes (j.descAt + 0x28) (beBytes 4 (s.slot
      j.slot).ivFixed.toNat ++ beBytes 8 (s.slot j.slot).inv)).ldBytes j.src j.srcLen)).1 ++ if j.flag 2 then ctxTag
      (ctxStep (ctxStart q (s.slot q.slot).key (beBytes 4 (s.slot j.slot).ivFixed.toNat ++ beBytes 8 (s.slot j.slot).inv)
      (s.ldBytes j.aad (if q.mode = 4 then j.aadLen else 0))) (s.slot q.slot).key ((s.stBytes (j.descAt + 0x28) (beBytes 4
      (s.slot j.slot).ivFixed.toNat ++ beBytes 8 (s.slot j.slot).inv)).ldBytes j.src j.srcLen)).2 (s.slot q.slot).key
      j.tagLen else []) ≤ x) → t.ldb x = s.ldb x) ∧ t.ldBytes j.dst (List.length ((ctxStep (ctxStart q (s.slot q.slot).key
      (beBytes 4 (s.slot j.slot).ivFixed.toNat ++ beBytes 8 (s.slot j.slot).inv) (s.ldBytes j.aad (if q.mode = 4 then
      j.aadLen else 0))) (s.slot q.slot).key ((s.stBytes (j.descAt + 0x28) (beBytes 4 (s.slot j.slot).ivFixed.toNat ++
      beBytes 8 (s.slot j.slot).inv)).ldBytes j.src j.srcLen)).1 ++ if j.flag 2 then ctxTag (ctxStep (ctxStart q (s.slot
      q.slot).key (beBytes 4 (s.slot j.slot).ivFixed.toNat ++ beBytes 8 (s.slot j.slot).inv) (s.ldBytes j.aad (if q.mode = 4
      then j.aadLen else 0))) (s.slot q.slot).key ((s.stBytes (j.descAt + 0x28) (beBytes 4 (s.slot j.slot).ivFixed.toNat ++
      beBytes 8 (s.slot j.slot).inv)).ldBytes j.src j.srcLen)).2 (s.slot q.slot).key j.tagLen else [])) = ((ctxStep
      (ctxStart q (s.slot q.slot).key (beBytes 4 (s.slot j.slot).ivFixed.toNat ++ beBytes 8 (s.slot j.slot).inv) (s.ldBytes
      j.aad (if q.mode = 4 then j.aadLen else 0))) (s.slot q.slot).key ((s.stBytes (j.descAt + 0x28) (beBytes 4 (s.slot
      j.slot).ivFixed.toNat ++ beBytes 8 (s.slot j.slot).inv)).ldBytes j.src j.srcLen)).1 ++ if j.flag 2 then ctxTag
      (ctxStep (ctxStart q (s.slot q.slot).key (beBytes 4 (s.slot j.slot).ivFixed.toNat ++ beBytes 8 (s.slot j.slot).inv)
      (s.ldBytes j.aad (if q.mode = 4 then j.aadLen else 0))) (s.slot q.slot).key ((s.stBytes (j.descAt + 0x28) (beBytes 4
      (s.slot j.slot).ivFixed.toNat ++ beBytes 8 (s.slot j.slot).inv)).ldBytes j.src j.srcLen)).2 (s.slot q.slot).key
      j.tagLen else []) ∧ StoreSide s t ∧ t.slot j.slot = { s.slot j.slot with inv := ((s.slot j.slot).inv + 1) % 2 ^ 64 } ∧
      (∀ k, k ≠ j.slot → t.slot k = s.slot k) ∧ { t.kst with slots := s.kst.slots } = s.kst ∧
      { t.cph with jobs := s.cph.jobs, ctxs := s.cph.ctxs } = s.cph ∧
      { t with cph := s.cph, mem := s.mem, eccBad := s.eccBad, harts := s.harts, kst := s.kst } = s)
    ∧ (JobRuns s e.val j ∧ j.op = 1 ∧ j.flag 1 = true ∧ s.jobCtx j = some q ∧ s.jobCheck j q = none ∧ s.sliceAdmits .cphCtx
      j.tid = true ∧ firstBelow 64 (fun k => (s.ctx k).isNone) = some c ∧ s.jobKey q = none ∧ s.anyBad j.src (j.spans q).1 =
      false ∧ s.anyBad j.dst (j.spans q).2.1 = false ∧ s.anyBad j.aad (if q.mode = 4 ∧ j.flag 1 = true then j.aadLen else 0)
      = false ∧ q.mode = 4 ∧ c ≠ 255 ∧ q.flags.testBit 0 = false ∧ s.rb (slA j.slot 8) 3 = false ∧ (persistent j.slot = true
      → (s.slot j.slot).inv < (s.slot j.slot).resv) ∧ (s.slot j.slot).inv = 2 ^ 64 - 1 → Gives (.cphCipher e false false) s
      fun t => JobIs s t { j with ctx := c, phase := .ended .done (0) (j.srcLen + if j.flag 2 then j.tagLen else 0) } ∧ t.rb
      (slA j.slot 8) 3 = true ∧ (t.slot j.slot).inv = 0 ∧ Reported s t [(0x3046, j.slot % 2 ^ 32, j.desc % 2 ^ 32)])
    ∧ (JobRuns s e.val j ∧ j.op = 1 ∧ j.flag 1 = true ∧ s.jobCtx j = some q ∧ s.jobCheck j q = none ∧ s.sliceAdmits .cphCtx
      j.tid = true ∧ firstBelow 64 (fun k => (s.ctx k).isNone) = some c ∧ s.jobKey q = none ∧ s.anyBad j.src (j.spans q).1 =
      false ∧ s.anyBad j.dst (j.spans q).2.1 = false ∧ s.anyBad j.aad (if q.mode = 4 ∧ j.flag 1 = true then j.aadLen else 0)
      = false ∧ q.mode = 4 ∧ c ≠ 255 ∧ q.flags.testBit 0 = false ∧ s.rb (slA j.slot 8) 3 = false ∧ persistent j.slot = true
      ∧ (s.slot j.slot).resv ≤ (s.slot j.slot).inv → Gives (.cphCipher e false false) s fun t => JobIs s t
      { j with phase := .invWait } ∧ { t.cph with jobs := s.cph.jobs } = s.cph ∧ { t with cph := s.cph } = s)
    ∧ (JobRuns s e.val j ∧ j.op = 1 ∧ j.flag 1 = true ∧ s.jobCtx j = some q ∧ s.jobCheck j q = none ∧ s.sliceAdmits .cphCtx
      j.tid = true ∧ firstBelow 64 (fun k => (s.ctx k).isNone) = some c ∧ s.jobKey q = none ∧ q.mode = 4 ∧ c ≠ 255 ∧
      q.flags.testBit 0 = false ∧ s.rb (slA j.slot 8) 3 = true → Gives (.cphCipher e false false) s fun t => JobIs s t
      { j with ctx := c, phase := .ended .keyExhausted (0) (0) } ∧ t.ctx c = some q ∧ (∀ i, i ≠ c → t.ctx i = s.ctx i) ∧
      { t.cph with jobs := s.cph.jobs, ctxs := s.cph.ctxs } = s.cph ∧ { t with cph := s.cph } = s)
    ∧ (JobRuns s e.val j ∧ j.op = 1 ∧ j.flag 1 = true ∧ s.jobCtx j = some q ∧ s.jobCheck j q = none ∧ s.sliceAdmits .cphCtx
      j.tid = true ∧ firstBelow 64 (fun k => (s.ctx k).isNone) = some c ∧ s.jobKey q = none ∧ s.anyBad j.src (j.spans q).1 =
      false ∧ s.anyBad j.dst (j.spans q).2.1 = false ∧ s.anyBad j.aad (if q.mode = 4 ∧ j.flag 1 = true then j.aadLen else 0)
      = false ∧ (q.mode ≤ 3 ∨ q.mode = 5) ∧ c ≠ 255 → Gives (.cphCipher e true false) s fun t => JobIs s t
      { j with ctx := c, phase := .ended .fault (0) (0) } ∧ t.ctx c = some q ∧ (∀ i, i ≠ c → t.ctx i = s.ctx i) ∧ t.rf
      (cphBase + 8) 23 16 = min (s.rf (cphBase + 8) 23 16 + 1) 255 ∧ (∀ x, x ≠ cphBase + 8 → t.rd x = s.rd x) ∧
      t.cph.mismatches = ((s.ticks :: s.cph.mismatches.filter fun z => s.ticks - z < 500000000).take 3) ∧ Reported s t
      ((0x3044, j.obj % 2 ^ 32, j.desc % 2 ^ 32) :: (if List.length ((s.ticks :: s.cph.mismatches.filter fun z => s.ticks -
      z < 500000000).take 3) = 3 then [(0x3045, j.obj % 2 ^ 32, j.desc % 2 ^ 32)] else [])) ∧
      { t with cph := s.cph, regs := s.regs, reports := s.reports } = s)
    ∧ (JobRuns s e.val j ∧ j.op = 1 ∧ s.jobCtx j = none → Gives (.cphCipher e false false) s fun t => JobIs s t
      { j with ctx := 255, phase := .ended .access (0) (0) } ∧ Reported s t [(0x0003, j.desc % 2 ^ 32, j.desc / 2 ^ 32 % 2 ^
      32)] ∧ { t.cph with jobs := s.cph.jobs } = s.cph ∧ { t with cph := s.cph, reports := s.reports } = s)
    ∧ (JobRuns s e.val j ∧ j.op = 1 ∧ s.jobCtx j = some q ∧ s.jobCheck j q = some st ∧ st ≠ .access → Gives (.cphCipher e
      false false) s fun t => JobIs s t { j with ctx := j.ctx, phase := .ended st (0) (0) } ∧
      { t.cph with jobs := s.cph.jobs } = s.cph ∧ { t with cph := s.cph } = s)
    ∧ (JobRuns s e.val j ∧ j.op = 1 ∧ j.flag 1 = true ∧ s.jobCtx j = some q ∧ s.jobCheck j q = none ∧ s.sliceAdmits .cphCtx
      j.tid = true ∧ firstBelow 64 (fun k => (s.ctx k).isNone) = some c ∧ c ≠ 255 ∧ s.jobKey q = some st ∧ st ≠ .access →
      Gives (.cphCipher e false false) s fun t => JobIs s t { j with ctx := c, phase := .ended st (0) (0) } ∧ t.ctx c = some
      q ∧ (∀ i, i ≠ c → t.ctx i = s.ctx i) ∧ { t.cph with jobs := s.cph.jobs, ctxs := s.cph.ctxs } = s.cph ∧
      { t with cph := s.cph } = s)
    ∧ (JobRuns s e.val j ∧ j.op = 2 ∧ j.flag 1 = true ∧ s.jobCtx j = some q ∧ s.jobCheck j q = none ∧ s.sliceAdmits .cphCtx
      j.tid = true ∧ firstBelow 64 (fun k => (s.ctx k).isNone) = some c ∧ s.jobKey q = none ∧ s.anyBad j.src (j.spans q).1 =
      false ∧ s.anyBad j.dst (j.spans q).2.1 = false ∧ s.anyBad j.aad (if q.mode = 4 ∧ j.flag 1 = true then j.aadLen else 0)
      = false ∧ (q.mode ≤ 3 ∨ q.mode = 5) ∧ c ≠ 255 → Gives (.cphCmac e true false) s fun t => JobIs s t
      { j with ctx := c, phase := .ended .fault (0) (0) } ∧ t.ctx c = some q ∧ (∀ i, i ≠ c → t.ctx i = s.ctx i) ∧ t.rf
      (cphBase + 8) 23 16 = min (s.rf (cphBase + 8) 23 16 + 1) 255 ∧ (∀ x, x ≠ cphBase + 8 → t.rd x = s.rd x) ∧
      t.cph.mismatches = ((s.ticks :: s.cph.mismatches.filter fun z => s.ticks - z < 500000000).take 3) ∧ Reported s t
      ((0x3044, j.obj % 2 ^ 32, j.desc % 2 ^ 32) :: (if List.length ((s.ticks :: s.cph.mismatches.filter fun z => s.ticks -
      z < 500000000).take 3) = 3 then [(0x3045, j.obj % 2 ^ 32, j.desc % 2 ^ 32)] else [])) ∧
      { t with cph := s.cph, regs := s.regs, reports := s.reports } = s)
    ∧ (JobRuns s e.val j ∧ j.op = 2 ∧ s.jobCtx j = none → Gives (.cphCmac e false false) s fun t => JobIs s t
      { j with ctx := 255, phase := .ended .access (0) (0) } ∧ Reported s t [(0x0003, j.desc % 2 ^ 32, j.desc / 2 ^ 32 % 2 ^
      32)] ∧ { t.cph with jobs := s.cph.jobs } = s.cph ∧ { t with cph := s.cph, reports := s.reports } = s)
    ∧ (JobRuns s e.val j ∧ j.op = 2 ∧ s.jobCtx j = some q ∧ s.jobCheck j q = some st ∧ st ≠ .access → Gives (.cphCmac e false
      false) s fun t => JobIs s t { j with ctx := j.ctx, phase := .ended st (0) (0) } ∧ { t.cph with jobs := s.cph.jobs } =
      s.cph ∧ { t with cph := s.cph } = s)
    ∧ (JobRuns s e.val j ∧ j.op = 2 ∧ j.flag 1 = true ∧ s.jobCtx j = some q ∧ s.jobCheck j q = none ∧ s.sliceAdmits .cphCtx
      j.tid = true ∧ firstBelow 64 (fun k => (s.ctx k).isNone) = some c ∧ c ≠ 255 ∧ s.jobKey q = some st ∧ st ≠ .access →
      Gives (.cphCmac e false false) s fun t => JobIs s t { j with ctx := c, phase := .ended st (0) (0) } ∧ t.ctx c = some q
      ∧ (∀ i, i ≠ c → t.ctx i = s.ctx i) ∧ { t.cph with jobs := s.cph.jobs, ctxs := s.cph.ctxs } = s.cph ∧
      { t with cph := s.cph } = s)
    ∧ (Reaches s a cphBase ∧ s.resetting (s.tagsOf a.who).tid = false ∧ s.tenantOn (s.tagsOf a.who).tid = true ∧ sramSpan (fld
      v 47 0) 64 = true ∧ s.mayRead (s.tagsOf a.who) (fld v 47 0) 64 = true ∧ (fld v 47 0) % 8 = 0 ∧ s.ckItem (fld v 56 48)
      = 16 ∧ s.ckEn (fld v 56 48) = true ∧ s.ckProdIs (fld v 56 48) 1 = true ∧ s.sliceAdmits .cphJob (s.tagsOf a.who).tid =
      true ∧ firstBelow 64 (fun k => !s.cph.jobs.any fun x => x.entry == k) = some c ∧ s.anyBad (fld v 47 0) 64 = false ∧
      jobOf (s.ldBytes (fld v 47 0) 64) c (s.tagsOf a.who) (fld v 56 48) (fld v 47 0) (fld v 47 0) = j ∧ j.op ≠ 0 ∧ j.op ≤ 7
      ∧ j.continues = false ∧ j.op ≠ 6 ∧ j.op ≠ 7 ∧ s.slState j.slot ≠ 2 → Gives (.cphSubmit a v) s fun t => t.cph =
      { s.cph with jobs := s.cph.jobs ++ [{ j with ctx := 255, phase := .active }] } ∧ Answers t .done ∧
      { t with cph := s.cph, resp := s.resp } = s)
    ∧ (Reaches s a cphBase ∧ s.resetting (s.tagsOf a.who).tid = false ∧ s.tenantOn (s.tagsOf a.who).tid = true ∧ sramSpan (fld
      v 47 0) 64 = true ∧ s.mayRead (s.tagsOf a.who) (fld v 47 0) 64 = true ∧ (fld v 47 0) % 8 = 0 ∧ s.ckItem (fld v 56 48)
      = 16 ∧ s.ckEn (fld v 56 48) = true ∧ s.ckProdIs (fld v 56 48) 1 = true ∧ s.sliceAdmits .cphJob (s.tagsOf a.who).tid =
      true ∧ firstBelow 64 (fun k => !s.cph.jobs.any fun x => x.entry == k) = some c ∧ s.anyBad (fld v 47 0) 64 = false ∧
      jobOf (s.ldBytes (fld v 47 0) 64) c (s.tagsOf a.who) (fld v 56 48) (fld v 47 0) (fld v 47 0) = j ∧ j.op ≠ 0 ∧ j.op ≤ 7
      ∧ j.continues = false ∧ j.op ≠ 6 ∧ j.op ≠ 7 ∧ s.slState j.slot = 2 → Gives (.cphSubmit a v) s fun t => t.cph =
      { s.cph with jobs := s.cph.jobs ++ [{ j with ctx := 255, phase := .waiting s.ticks }] } ∧ Answers t .done ∧
      { t with cph := s.cph, resp := s.resp } = s)
    ∧ (Reaches s a cphBase ∧ s.resetting (s.tagsOf a.who).tid = false ∧ s.tenantOn (s.tagsOf a.who).tid = true ∧ sramSpan (fld
      v 47 0) 64 = true ∧ s.mayRead (s.tagsOf a.who) (fld v 47 0) 64 = true ∧ (fld v 47 0) % 8 = 0 ∧ s.ckItem (fld v 56 48)
      = 16 ∧ s.ckEn (fld v 56 48) = true ∧ s.ckProdIs (fld v 56 48) 1 = true ∧ s.sliceAdmits .cphJob (s.tagsOf a.who).tid =
      true ∧ firstBelow 64 (fun k => !s.cph.jobs.any fun x => x.entry == k) = some c ∧ s.anyBad (fld v 47 0) 64 = false ∧
      jobOf (s.ldBytes (fld v 47 0) 64) c (s.tagsOf a.who) (fld v 56 48) (fld v 47 0) (fld v 47 0) = j ∧ (j.op = 6 ∨ j.op =
      7) → Gives (.cphSubmit a v) s fun t => t.cph =
      { s.cph with jobs := s.cph.jobs ++ [{ j with slot := 256, ctx := 255, phase := .active }] } ∧ Answers t .done ∧
      { t with cph := s.cph, resp := s.resp } = s)
    ∧ (Reaches s a cphBase ∧ s.resetting (s.tagsOf a.who).tid = false ∧ s.tenantOn (s.tagsOf a.who).tid = true ∧ sramSpan (fld
      v 47 0) 64 = true ∧ s.mayRead (s.tagsOf a.who) (fld v 47 0) 64 = true ∧ (fld v 47 0) % 8 = 0 ∧ s.ckItem (fld v 56 48)
      = 16 ∧ s.ckEn (fld v 56 48) = true ∧ s.ckProdIs (fld v 56 48) 1 = true ∧ s.sliceAdmits .cphJob (s.tagsOf a.who).tid =
      true ∧ firstBelow 64 (fun k => !s.cph.jobs.any fun x => x.entry == k) = some c ∧ s.anyBad (fld v 47 0) 64 = false ∧
      jobOf (s.ldBytes (fld v 47 0) 64) c (s.tagsOf a.who) (fld v 56 48) (fld v 47 0) (fld v 47 0) = j ∧ j.continues = true
      ∧ s.ctxOf j j.ctx = some q → Gives (.cphSubmit a v) s fun t => t.cph =
      { s.cph with jobs := s.cph.jobs ++ [{ j with slot := q.slot, phase := .active }] } ∧ Answers t .done ∧
      { t with cph := s.cph, resp := s.resp } = s)
    ∧ (Reaches s a cphBase ∧ s.resetting (s.tagsOf a.who).tid = false ∧ s.tenantOn (s.tagsOf a.who).tid = true ∧ sramSpan (fld
      v 47 0) 64 = true ∧ s.mayRead (s.tagsOf a.who) (fld v 47 0) 64 = true ∧ (fld v 47 0) % 8 = 0 ∧ s.ckItem (fld v 56 48)
      = 16 ∧ s.ckEn (fld v 56 48) = true ∧ s.ckProdIs (fld v 56 48) 1 = true ∧ s.sliceAdmits .cphJob (s.tagsOf a.who).tid =
      true ∧ firstBelow 64 (fun k => !s.cph.jobs.any fun x => x.entry == k) = some c ∧ s.anyBad (fld v 47 0) 64 = false ∧
      jobOf (s.ldBytes (fld v 47 0) 64) c (s.tagsOf a.who) (fld v 56 48) (fld v 47 0) (fld v 47 0) = j ∧ j.continues = true
      ∧ s.ctxOf j j.ctx = none → Gives (.cphSubmit a v) s fun t => t.cph =
      { s.cph with jobs := s.cph.jobs ++ [{ j with slot := 256, phase := .active }] } ∧ Answers t .done ∧
      { t with cph := s.cph, resp := s.resp } = s)
    ∧ (Reaches s a cphBase ∧ s.resetting (s.tagsOf a.who).tid = false ∧ s.tenantOn (s.tagsOf a.who).tid = true ∧ sramSpan (fld
      v 47 0) 64 = true ∧ s.mayRead (s.tagsOf a.who) (fld v 47 0) 64 = true ∧ (fld v 47 0) % 8 = 0 ∧ s.ckItem (fld v 56 48)
      = 16 ∧ s.ckEn (fld v 56 48) = true ∧ s.ckProdIs (fld v 56 48) 1 = true ∧ s.sliceAdmits .cphJob (s.tagsOf a.who).tid =
      true ∧ firstBelow 64 (fun k => !s.cph.jobs.any fun x => x.entry == k) = some c ∧ s.anyBad (fld v 47 0) 64 = false ∧
      jobOf (s.ldBytes (fld v 47 0) 64) c (s.tagsOf a.who) (fld v 56 48) (fld v 47 0) (fld v 47 0) = j ∧ (j.op = 0 ∨ 7 <
      j.op) → Gives (.cphSubmit a v) s fun t => t.cph =
      { s.cph with jobs := s.cph.jobs ++ [{ j with ctx := 255, phase := .ended .range 0 0 }] } ∧ Answers t .done ∧
      { t with cph := s.cph, resp := s.resp } = s)
    ∧ (Reaches s a cphBase ∧ NoHart a ∧ s.resetting (s.tagsOf a.who).tid = true → Gives (.cphSubmit a v) s fun t => Refuses s
      t .aborted)
    ∧ (Reaches s a cphBase ∧ s.resetting (s.tagsOf a.who).tid = false ∧ s.tenantOn (s.tagsOf a.who).tid = true ∧ NoHart a ∧
      sramSpan (fld v 47 0) 64 = false → Gives (.cphSubmit a v) s fun t => Refuses s t .range)
    ∧ (Reaches s a cphBase ∧ s.resetting (s.tagsOf a.who).tid = false ∧ s.tenantOn (s.tagsOf a.who).tid = true ∧ NoHart a ∧
      sramSpan (fld v 47 0) 64 = true ∧ s.mayRead (s.tagsOf a.who) (fld v 47 0) 64 = true ∧ (fld v 47 0) % 8 ≠ 0 → Gives
      (.cphSubmit a v) s fun t => Refuses s t .align)
    ∧ (Reaches s a cphBase ∧ s.resetting (s.tagsOf a.who).tid = false ∧ s.tenantOn (s.tagsOf a.who).tid = true ∧ NoHart a ∧
      sramSpan (fld v 47 0) 64 = true ∧ s.mayRead (s.tagsOf a.who) (fld v 47 0) 64 = true ∧ (fld v 47 0) % 8 = 0 ∧ s.ckItem
      (fld v 56 48) ≠ 16 → Gives (.cphSubmit a v) s fun t => Refuses s t .length)
    ∧ (Reaches s a cphBase ∧ s.resetting (s.tagsOf a.who).tid = false ∧ s.tenantOn (s.tagsOf a.who).tid = true ∧ NoHart a ∧
      sramSpan (fld v 47 0) 64 = true ∧ s.mayRead (s.tagsOf a.who) (fld v 47 0) 64 = true ∧ (fld v 47 0) % 8 = 0 ∧ s.ckItem
      (fld v 56 48) = 16 ∧ (s.ckEn (fld v 56 48) = false ∨ s.ckProdIs (fld v 56 48) 1 = false) → Gives (.cphSubmit a v) s
      fun t => Refuses s t .conflict)
    ∧ (JobRuns s e.val j ∧ j.op = 3 ∧ s.slotMay ⟨j.tid, j.w⟩ j.slot = true ∧ s.dstHeld j = true ∧ j.slot ≠ j.dstSlot ∧
      j.dstSlot < 256 ∧ SlotAlone s j.dstSlot ∧ s.slotUse j.dstSlot = 0 ∧ Machine.sizeOf j.keyLen ≠ 4 ∧ s.busStatus ⟨j.tid,
      j.w⟩ j.aad j.aadLen false = none ∧ j.aadLen ≤ 64 ∧ s.keyStatus j.slot 3 = none ∧ s.slSize j.slot = 2 ∧ fillAttr j =
      true ∧ s.anyBad j.aad j.aadLen = false ∧ j.slot < 256 → Gives (.cphDerive e false false) s fun t => JobIs s t
      { j with ctx := j.ctx, phase := .ended .done (0) (0) } ∧ { t.cph with jobs := s.cph.jobs } = s.cph ∧ Filled s t
      j.dstSlot
      { key := (kdf (s.slot j.slot).key j.iv (s.ldBytes j.aad j.aadLen ++ if j.flag 3 then beBytes 8 s.boot.startCount ++ beBytes 8 ((s.kst.epochSeq + 1) % 2 ^ 64) else []) j.keyLen), attr := wd (fld j.attr 9 0 + if j.flag 3 then 1024 else 0), parent := some j.slot }
      ∧ t.rb (slA j.dstSlot 8) 16 = true ∧ t.rf (slA j.dstSlot 8) 15 8 = j.slot % 256 ∧ t.kst.epochSeq = (if j.flag 3 then
      ((s.kst.epochSeq + 1) % 2 ^ 64) else s.kst.epochSeq) ∧ (∀ k, k ≠ j.dstSlot → t.slot k = s.slot k) ∧
      { t.kst with slots := s.kst.slots, epochSeq := s.kst.epochSeq } = s.kst ∧ RegsBut s t [slA j.dstSlot 4, slA j.dstSlot
      8] ∧ { t with regs := s.regs, kst := s.kst, cph := s.cph } = s)
    ∧ (JobRuns s e.val j ∧ j.op = 3 ∧ s.slotMay ⟨j.tid, j.w⟩ j.slot = true ∧ s.dstHeld j = true ∧ Machine.sizeOf j.keyLen ≠ 4
      ∧ s.busStatus ⟨j.tid, j.w⟩ j.aad j.aadLen false = none ∧ j.aadLen ≤ 64 ∧ s.keyStatus j.slot 3 = none ∧ s.slSize j.slot
      = 2 ∧ fillAttr j = true ∧ s.anyBad j.aad j.aadLen = false → Gives (.cphDerive e false false) s fun t => t =
      State.slotStage
      { (s.setJob { j with phase := .ended .done 0 0 }) with kst := { s.kst with epochSeq := if j.flag 3 then ((s.kst.epochSeq + 1) % 2 ^ 64) else s.kst.epochSeq } }
      j.dstSlot
      { key := (kdf (s.slot j.slot).key j.iv (s.ldBytes j.aad j.aadLen ++ if j.flag 3 then beBytes 8 s.boot.startCount ++ beBytes 8 ((s.kst.epochSeq + 1) % 2 ^ 64) else []) j.keyLen), attr := wd (fld j.attr 9 0 + if j.flag 3 then 1024 else 0), parent := some j.slot })
    ∧ (JobRuns s e.val j ∧ j.op = 3 ∧ (s.slotMay ⟨j.tid, j.w⟩ j.slot = false ∨ s.dstHeld j = false) → Gives (.cphDerive e
      false false) s fun t => JobIs s t { j with ctx := j.ctx, phase := .ended .access (0) (0) } ∧ Reported s t [(0x0003,
      j.desc % 2 ^ 32, j.desc / 2 ^ 32 % 2 ^ 32)] ∧ { t.cph with jobs := s.cph.jobs } = s.cph ∧
      { t with cph := s.cph, reports := s.reports } = s)
    ∧ (JobRuns s e.val j ∧ j.op = 4 ∧ (s.slotMay ⟨j.tid, j.w⟩ j.slot = false ∨ s.dstHeld j = false) → Gives (.cphImport e
      false false) s fun t => JobIs s t { j with ctx := j.ctx, phase := .ended .access (0) (0) } ∧ Reported s t [(0x0003,
      j.desc % 2 ^ 32, j.desc / 2 ^ 32 % 2 ^ 32)] ∧ { t.cph with jobs := s.cph.jobs } = s.cph ∧
      { t with cph := s.cph, reports := s.reports } = s)
    ∧ (JobRuns s e.val j ∧ j.op = 4 ∧ s.slotMay ⟨j.tid, j.w⟩ j.slot = true ∧ s.dstHeld j = true ∧ j.slot ≠ j.dstSlot ∧
      j.dstSlot < 256 ∧ SlotAlone s j.dstSlot ∧ s.slotUse j.dstSlot = 0 ∧ Machine.sizeOf j.keyLen ≠ 4 ∧ s.busStatus ⟨j.tid,
      j.w⟩ j.src j.srcLen false = none ∧ j.srcLen = j.keyLen + 8 ∧ s.keyStatus j.slot 4 = none ∧ s.slSize j.slot ≠ 3 ∧
      fillAttr j = true ∧ s.anyBad j.src j.srcLen = false → Gives (.cphImport e false false) s fun t => if (kwUnwrap (s.slot
      j.slot).key (s.ldBytes j.src j.srcLen)) = none then (JobIs s t
      { j with ctx := j.ctx, phase := .ended .keyUsage (0) (0) } ∧ { t.cph with jobs := s.cph.jobs } = s.cph ∧
      { t with cph := s.cph } = s) else (JobIs s t { j with ctx := j.ctx, phase := .ended .done (0) (0) } ∧
      { t.cph with jobs := s.cph.jobs } = s.cph ∧ (∀ k ∈ (kwUnwrap (s.slot j.slot).key (s.ldBytes j.src j.srcLen)).toList,
      Filled s t j.dstSlot { key := k, attr := wd (fld j.attr 9 0) }) ∧ t.rd (slA j.dstSlot 8) = 1 ∧ (∀ k, k ≠ j.dstSlot →
      t.slot k = s.slot k) ∧ { t.kst with slots := s.kst.slots } = s.kst ∧ RegsBut s t [slA j.dstSlot 4, slA j.dstSlot 8] ∧
      { t with regs := s.regs, kst := s.kst, cph := s.cph } = s))
    ∧ (JobRuns s e.val j ∧ j.op = 4 ∧ s.slotMay ⟨j.tid, j.w⟩ j.slot = true ∧ s.dstHeld j = true ∧ Machine.sizeOf j.keyLen ≠ 4
      ∧ s.busStatus ⟨j.tid, j.w⟩ j.src j.srcLen false = none ∧ j.srcLen = j.keyLen + 8 ∧ s.keyStatus j.slot 4 = none ∧
      s.slSize j.slot ≠ 3 ∧ fillAttr j = true ∧ s.anyBad j.src j.srcLen = false → Gives (.cphImport e false false) s fun t
      => ∀ k ∈ (kwUnwrap (s.slot j.slot).key (s.ldBytes j.src j.srcLen)).toList, t = (s.setJob
      { j with phase := .ended .done 0 0 }).slotStage j.dstSlot { key := k, attr := wd (fld j.attr 9 0) })
    ∧ (JobRuns s e.val j ∧ j.op = 3 ∧ s.slotMay ⟨j.tid, j.w⟩ j.slot = true ∧ s.dstHeld j = true ∧ j.slot ≠ j.dstSlot ∧
      j.dstSlot < 256 ∧ SlotAlone s j.dstSlot ∧ s.slotUse j.dstSlot = 0 ∧ Machine.sizeOf j.keyLen ≠ 4 ∧ s.busStatus ⟨j.tid,
      j.w⟩ j.aad j.aadLen false = none ∧ j.aadLen ≤ 64 ∧ s.keyStatus j.slot 3 = none ∧ s.slSize j.slot = 2 ∧ fillAttr j =
      true ∧ s.anyBad j.aad j.aadLen = false ∧ j.flag 3 = false → Gives (.cphDerive e true false) s fun t => JobIs s t
      { j with ctx := j.ctx, phase := .ended .fault (0) (0) } ∧ t.rf (cphBase + 8) 23 16 = min (s.rf (cphBase + 8) 23 16 +
      1) 255 ∧ (∀ x, x ≠ cphBase + 8 → t.rd x = s.rd x) ∧ t.cph.mismatches = ((s.ticks :: s.cph.mismatches.filter fun z =>
      s.ticks - z < 500000000).take 3) ∧ Reported s t ((0x3044, j.obj % 2 ^ 32, j.desc % 2 ^ 32) :: (if List.length
      ((s.ticks :: s.cph.mismatches.filter fun z => s.ticks - z < 500000000).take 3) = 3 then [(0x3045, j.obj % 2 ^ 32,
      j.desc % 2 ^ 32)] else [])) ∧ { t with cph := s.cph, regs := s.regs, reports := s.reports } = s)
    ∧ (JobRuns s e.val j ∧ j.op = 7 ∧ s.dstHeld j = true ∧ j.slot ≠ j.dstSlot ∧ j.dstSlot < 256 ∧ SlotAlone s j.dstSlot →
      Gives (.cphErase e) s fun t => JobIs s t { j with ctx := j.ctx, phase := .ended .done (0) (0) } ∧ t.slot j.dstSlot =
      { gen := (s.slot j.dstSlot).gen + 1, win := (s.slot j.dstSlot).win } ∧ t.rd (slA j.dstSlot 4) = 0 ∧ t.rd (slA
      j.dstSlot 8) = 0 ∧ t.cph.ctxs = s.cph.ctxs.filter (fun p => p.2.all fun c => c.slot != j.dstSlot) ∧ (∀ k, k ≠
      j.dstSlot → t.slot k = s.slot k) ∧ { t.kst with slots := s.kst.slots } = s.kst ∧
      { t.cph with jobs := s.cph.jobs, ctxs := s.cph.ctxs } = s.cph ∧ RegsBut s t [slA j.dstSlot 4, slA j.dstSlot 8] ∧
      { t with regs := s.regs, kst := s.kst, cph := s.cph } = s)
    ∧ (JobRuns s e.val j ∧ j.op = 7 ∧ s.dstHeld j = false → Gives (.cphErase e) s fun t => JobIs s t
      { j with ctx := j.ctx, phase := .ended .access (0) (0) } ∧ Reported s t [(0x0003, j.desc % 2 ^ 32, j.desc / 2 ^ 32 % 2
      ^ 32)] ∧ { t.cph with jobs := s.cph.jobs } = s.cph ∧ { t with cph := s.cph, reports := s.reports } = s)
    ∧ (JobRuns s e.val j ∧ j.op = 7 ∧ s.dstHeld j = true → Gives (.cphErase e) s fun t => t = (s.setJob
      { j with phase := .ended .done 0 0 }).slotErase j.dstSlot)
    ∧ (JobRuns s e.val j ∧ j.op = 5 ∧ s.ctxOf j j.ctx = some q ∧ s.busStatus ⟨j.tid, j.w⟩ j.dst 96 true = none ∧ j.flag 4 =
      false ∧ q.mode ≠ 4 → Gives (.cphSave e false false) s fun t => JobIs s t
      { j with ctx := j.ctx, phase := .ended .done (0) (96) } ∧ t.ctx j.ctx = none ∧ (∀ i, i ≠ j.ctx → t.ctx i = s.ctx i) ∧
      t.ldBytes j.dst (List.length (q.bytesOf)) = q.bytesOf ∧ MemBut s t j.dst (List.length (q.bytesOf)) ∧ StoreSide s t ∧
      { t.cph with jobs := s.cph.jobs, ctxs := s.cph.ctxs } = s.cph ∧
      { t with cph := s.cph, mem := s.mem, eccBad := s.eccBad, harts := s.harts } = s)
    ∧ (JobRuns s e.val j ∧ j.op = 5 ∧ s.ctxOf j j.ctx = some q ∧ s.busStatus ⟨j.tid, j.w⟩ j.dst 96 true = none ∧ j.flag 4 =
      false ∧ q.mode = 4 ∧ (q.gcmEnc = true → s.cph.tickets.length < 256) → Gives (.cphSave e false false) s fun t => JobIs
      s t { j with ctx := 255, phase := .ended .keyUsage (0) (0) } ∧ { t.cph with jobs := s.cph.jobs } = s.cph ∧
      { t with cph := s.cph } = s)
    ∧ (JobRuns s e.val j ∧ j.op = 5 ∧ s.ctxOf j j.ctx = some q ∧ s.busStatus ⟨j.tid, j.w⟩ j.dst 120 true = none ∧ j.flag 4 =
      true ∧ (q.gcmEnc = true → s.cph.tickets.length < 256) → Gives (.cphSave e false false) s fun t => JobIs s t
      { j with ctx := j.ctx, phase := .ended .done (0) (120) } ∧ t.ctx j.ctx = none ∧ (∀ i, i ≠ j.ctx → t.ctx i = s.ctx i) ∧
      t.ldBytes j.dst (List.length ((kwWrap (s.slot 1).key (q.bytesOf ++ leBytes 8 s.boot.startCount ++ [j.tid, BitVec.ofNat
      8 j.w.toNat, 0, 0] ++ leBytes 4 (if q.gcmEnc then s.cph.nextTicket else 0))))) = (kwWrap (s.slot 1).key (q.bytesOf ++
      leBytes 8 s.boot.startCount ++ [j.tid, BitVec.ofNat 8 j.w.toNat, 0, 0] ++ leBytes 4 (if q.gcmEnc then s.cph.nextTicket
      else 0))) ∧ MemBut s t j.dst (List.length ((kwWrap (s.slot 1).key (q.bytesOf ++ leBytes 8 s.boot.startCount ++ [j.tid,
      BitVec.ofNat 8 j.w.toNat, 0, 0] ++ leBytes 4 (if q.gcmEnc then s.cph.nextTicket else 0))))) ∧ StoreSide s t ∧
      t.cph.tickets = s.cph.tickets ++ (if q.gcmEnc then [s.cph.nextTicket] else []) ∧ t.cph.nextTicket = (if q.gcmEnc then
      (s.cph.nextTicket + 1) % 2 ^ 32 else s.cph.nextTicket) ∧
      { t.cph with jobs := s.cph.jobs, ctxs := s.cph.ctxs, tickets := s.cph.tickets, nextTicket := s.cph.nextTicket } =
      s.cph ∧ { t with cph := s.cph, mem := s.mem, eccBad := s.eccBad, harts := s.harts } = s)
    ∧ (JobRuns s e.val j ∧ j.op = 5 ∧ s.ctxOf j j.ctx = some q ∧ s.busStatus ⟨j.tid, j.w⟩ j.dst 120 true = none ∧ j.flag 4 =
      true ∧ q.gcmEnc = true ∧ 256 ≤ s.cph.tickets.length → Gives (.cphSave e false false) s fun t => JobIs s t
      { j with ctx := 255, phase := .ended .conflict (0) (0) } ∧ { t.cph with jobs := s.cph.jobs } = s.cph ∧
      { t with cph := s.cph } = s)
    ∧ (JobRuns s e.val j ∧ j.op = 5 ∧ s.ctxOf j j.ctx = none → Gives (.cphSave e false false) s fun t => JobIs s t
      { j with ctx := 255, phase := .ended .access (0) (0) } ∧ Reported s t [(0x0003, j.desc % 2 ^ 32, j.desc / 2 ^ 32 % 2 ^
      32)] ∧ { t.cph with jobs := s.cph.jobs } = s.cph ∧ { t with cph := s.cph, reports := s.reports } = s)
    ∧ (JobRuns s e.val j ∧ j.op = 6 ∧ s.busStatus ⟨j.tid, j.w⟩ j.src 96 false = none ∧ j.srcLen = 96 ∧ s.anyBad j.src 96 =
      false ∧ j.flag 4 = false ∧ CphCtx.ofBytes (s.ldBytes j.src 96) ⟨j.tid, j.w⟩ = q ∧ q.mode ≠ 4 ∧ q.mode ≤ 5 ∧ s.slotMay
      ⟨j.tid, j.w⟩ q.slot = true ∧ (s.slot q.slot).gen % 2 ^ 32 = q.gen ∧ s.slState q.slot ≠ 2 ∧ s.sliceAdmits .cphCtx j.tid
      = true ∧ firstBelow 64 (fun k => (s.ctx k).isNone) = some c ∧ c ≠ 255 → Gives (.cphRestore e false false) s fun t =>
      JobIs s t { j with ctx := c, phase := .ended .done (0) (0) } ∧ t.ctx c = some { q with gen := (s.slot q.slot).gen } ∧
      (∀ i, i ≠ c → t.ctx i = s.ctx i) ∧ { t.cph with jobs := s.cph.jobs, ctxs := s.cph.ctxs } = s.cph ∧
      { t with cph := s.cph } = s)
    ∧ (JobRuns s e.val j ∧ j.op = 6 ∧ s.busStatus ⟨j.tid, j.w⟩ j.src 96 false = none ∧ j.srcLen = 96 ∧ s.anyBad j.src 96 =
      false ∧ j.flag 4 = false ∧ CphCtx.ofBytes (s.ldBytes j.src 96) ⟨j.tid, j.w⟩ = q ∧ q.mode ≠ 4 ∧ q.mode ≤ 5 ∧ s.slotMay
      ⟨j.tid, j.w⟩ q.slot = true ∧ (s.slot q.slot).gen % 2 ^ 32 ≠ q.gen → Gives (.cphRestore e false false) s fun t => JobIs
      s t { j with ctx := j.ctx, phase := .ended .keyRevoked (0) (0) } ∧ { t.cph with jobs := s.cph.jobs } = s.cph ∧
      { t with cph := s.cph } = s)
    ∧ (JobRuns s e.val j ∧ j.op = 6 ∧ s.busStatus ⟨j.tid, j.w⟩ j.src 96 false = none ∧ j.srcLen = 96 ∧ s.anyBad j.src 96 =
      false ∧ j.flag 4 = false ∧ CphCtx.ofBytes (s.ldBytes j.src 96) ⟨j.tid, j.w⟩ = q ∧ q.mode ≠ 4 ∧ q.mode ≤ 5 ∧ s.slotMay
      ⟨j.tid, j.w⟩ q.slot = true ∧ (s.slot q.slot).gen % 2 ^ 32 = q.gen ∧ s.slState q.slot = 2 → Gives (.cphRestore e false
      false) s fun t => JobIs s t { j with slot := q.slot, phase := .waiting s.ticks } ∧ { t.cph with jobs := s.cph.jobs } =
      s.cph ∧ { t with cph := s.cph } = s)
    ∧ (JobRuns s e.val j ∧ j.op = 6 ∧ s.busStatus ⟨j.tid, j.w⟩ j.src 96 false = none ∧ j.srcLen = 96 ∧ s.anyBad j.src 96 =
      false ∧ j.flag 4 = false ∧ (CphCtx.ofBytes (s.ldBytes j.src 96) ⟨j.tid, j.w⟩).mode = 4 → Gives (.cphRestore e false
      false) s fun t => JobIs s t { j with ctx := j.ctx, phase := .ended .keyUsage (0) (0) } ∧
      { t.cph with jobs := s.cph.jobs } = s.cph ∧ { t with cph := s.cph } = s)
    ∧ (JobRuns s e.val j ∧ j.op = 6 ∧ s.busStatus ⟨j.tid, j.w⟩ j.src 120 false = none ∧ j.srcLen = 120 ∧ s.anyBad j.src 120 =
      false ∧ j.flag 4 = true → Gives (.cphRestore e false false) s fun t => if (kwUnwrap (s.slot 1).key (s.ldBytes j.src
      120)) = none then (JobIs s t { j with ctx := j.ctx, phase := .ended .keyUsage (0) (0) } ∧
      { t.cph with jobs := s.cph.jobs } = s.cph ∧ { t with cph := s.cph } = s) else ∀ k ∈ (kwUnwrap (s.slot 1).key
      (s.ldBytes j.src 120)).toList, if byteAt k 0x68 ≠ j.tid ∨ byteAt k 0x69 ≠ BitVec.ofNat 8 j.w.toNat then t.cph.jobs =
      [{ j with phase := .ended .access 0 0 }] else if leNat (slice k 0x60 8) ≠ s.boot.startCount ∨ (CphCtx.ofBytes k
      ⟨j.tid, j.w⟩).gcmEnc = true ∧ s.cph.tickets.contains (leNat (slice k 0x6C 4)) = false then (JobIs s t
      { j with ctx := j.ctx, phase := .ended .keyUsage (0) (0) } ∧ { t.cph with jobs := s.cph.jobs } = s.cph ∧
      { t with cph := s.cph } = s) else (s.sliceAdmits .cphCtx j.tid = true ∧ firstBelow 64 (fun k => (s.ctx k).isNone) =
      some c ∧ c ≠ 255 ∧ s.slotMay ⟨j.tid, j.w⟩ (CphCtx.ofBytes k ⟨j.tid, j.w⟩).slot = true ∧ (s.slot (CphCtx.ofBytes k
      ⟨j.tid, j.w⟩).slot).gen % 2 ^ 32 = (CphCtx.ofBytes k ⟨j.tid, j.w⟩).gen ∧ s.slState (CphCtx.ofBytes k ⟨j.tid,
      j.w⟩).slot ≠ 2 → JobIs s t { j with ctx := c, phase := .ended .done (0) (0) } ∧ t.ctx c = some
      { (CphCtx.ofBytes k ⟨j.tid, j.w⟩) with gen := (s.slot (CphCtx.ofBytes k ⟨j.tid, j.w⟩).slot).gen } ∧ (∀ i, i ≠ c →
      t.ctx i = s.ctx i) ∧ { t.cph with jobs := s.cph.jobs, ctxs := s.cph.ctxs } =
      { s.cph with tickets := if (CphCtx.ofBytes k ⟨j.tid, j.w⟩).gcmEnc then s.cph.tickets.filter (· != leNat (slice k 0x6C 4)) else s.cph.tickets }
      ∧ { t with cph := s.cph } = s))
    ∧ (s.logicOn = true ∧ s.accepts 8 = true ∧ s.job e.val = some j ∧ j.phase = .ended st au ou ∧ ownHeld (s.rd (ckA j.cask
      0)) = true ∧ s.ckEn j.cask = true ∧ s.ckRoom j.cask = true ∧ s.ckItem j.cask = 16 ∧ s.mayWrite (s.ckOwner j.cask)
      (s.ckPlace j.cask (s.cask j.cask).pw) 16 = true → Gives (.cphJobComplete e) s fun t => t.cph.jobs = s.cph.jobs.filter
      (fun x => x.entry != e.val) ∧ t.ctx j.ctx = (if j.ctx ≠ 255 ∧ (j.flag 2 = true ∨ st ≠ .done) ∧ (j.op = 1 ∨ j.op = 2 ∨
      j.op = 5) then none else s.ctx j.ctx) ∧ (∀ i, i ≠ j.ctx → t.ctx i = s.ctx i) ∧
      { t.cph with jobs := s.cph.jobs, ctxs := s.cph.ctxs } = s.cph ∧ t.ldBytes (s.ckPlace j.cask (s.cask j.cask).pw) 16 =
      leBytes 8 j.desc ++ leBytes 1 st.code ++ leBytes 1 j.op ++ leBytes 1 j.ctx ++ leBytes 1 au ++ leBytes 4 ou ∧ MemBut s
      t (s.ckPlace j.cask (s.cask j.cask).pw) 16 ∧ StoreSide s t ∧ t.rd (ckA j.cask 0x10) = setFld (s.rd (ckA j.cask 0x10))
      31 16 (s.ckWr j.cask + 1) ∧ t.cask j.cask = { s.cask j.cask with pw := s.ckAdv j.cask (s.cask j.cask).pw 1 } ∧
      CasksBut s t j.cask ∧ RegsBut s t [ckA j.cask 0x10] ∧
      { t with regs := s.regs, mem := s.mem, eccBad := s.eccBad, harts := s.harts, casks := s.casks, cph := s.cph } = s)
    ∧ (s.logicOn = true ∧ s.accepts 8 = true ∧ s.job e.val = some j ∧ j.phase = .ended st au ou ∧ ownHeld (s.rd (ckA j.cask
      0)) = true ∧ s.ckRoom j.cask = false → Gives (.cphJobComplete e) s fun t => JobIs s t
      { j with phase := .posting st au ou s.ticks } ∧ t.ctx j.ctx = (if j.ctx ≠ 255 ∧ (j.flag 2 = true ∨ st ≠ .done) ∧ (j.op
      = 1 ∨ j.op = 2 ∨ j.op = 5) then none else s.ctx j.ctx) ∧ (∀ i, i ≠ j.ctx → t.ctx i = s.ctx i) ∧
      { t.cph with jobs := s.cph.jobs, ctxs := s.cph.ctxs } = s.cph ∧ { t with cph := s.cph } = s)
    ∧ (s.logicOn = true ∧ s.accepts 8 = true ∧ s.job e.val = some j ∧ j.phase = .ended st au ou ∧ ownHeld (s.rd (ckA j.cask
      0)) = false → Gives (.cphJobComplete e) s fun t => t.cph.jobs = s.cph.jobs.filter (fun x => x.entry != e.val) ∧ t.ctx
      j.ctx = (if j.ctx ≠ 255 ∧ (j.flag 2 = true ∨ st ≠ .done) ∧ (j.op = 1 ∨ j.op = 2 ∨ j.op = 5) then none else s.ctx
      j.ctx) ∧ (∀ i, i ≠ j.ctx → t.ctx i = s.ctx i) ∧ { t.cph with jobs := s.cph.jobs, ctxs := s.cph.ctxs } = s.cph ∧ Counts
      s t cskBase ∧ Reported s t [(0x4080, j.cask % 2 ^ 32, 0)] ∧ RegsBut s t [cskBase] ∧
      { t with cph := s.cph, regs := s.regs, reports := s.reports } = s)
    ∧ (s.logicOn = true ∧ s.accepts 8 = true ∧ s.job e.val = some j ∧ j.phase = .waiting u ∧ 5000000 ≤ s.ticks - u → Gives
      (.cphPendingTimeout e) s fun t => JobIs s t { j with phase := .ended .timeout 0 0 } ∧
      { t.cph with jobs := s.cph.jobs } = s.cph ∧ Reported s t [(0x3048, j.slot % 2 ^ 32, j.desc % 2 ^ 32)] ∧
      { t with cph := s.cph, reports := s.reports } = s)
    ∧ (s.logicOn = true ∧ s.accepts 8 = true ∧ s.job e.val = some j ∧ j.phase = .waiting u ∧ s.ticks - u < 5000000 → Gives
      (.cphPendingTimeout e) s fun t => t = s)
    ∧ (s.logicOn = true ∧ s.accepts 8 = true ∧ s.job e.val = some j ∧ j.phase = .posting st au ou u ∧ 500000 ≤ s.ticks - u ∧
      (s.ckEn j.cask = false ∨ s.ckRoom j.cask = false) → Gives (.cphCompletionDrop e) s fun t => t.cph.jobs =
      s.cph.jobs.filter (fun x => x.entry != e.val) ∧ { t.cph with jobs := s.cph.jobs } = s.cph ∧ t.rd (cphBase + 8) =
      setFld (s.rd (cphBase + 8)) 31 24 (min (s.rf (cphBase + 8) 31 24 + 1) 255) ∧ Reported s t [(0x3049, j.obj % 2 ^ 32,
      j.desc % 2 ^ 32)] ∧ RegsBut s t [cphBase + 8] ∧ { t with cph := s.cph, regs := s.regs, reports := s.reports } = s)

/-- An event of a command lets a READY controller take what it may from its queue pairs (R634), and then acts on the command
  of its entry and on no other: a READ puts the blocks' contents where ADDR points and counts them, a WRITE moves as many
  blocks into the write buffer as it has room for and ends when all are there, with FUA when all are durable, a FLUSH ends
  when nothing that was buffered of its namespace is left, a TRIM queues its range, FORMAT_NS clears the namespace and
  writes its new record, and HEALTH puts the report taken with the command; blocks beyond correction, words of bad ECC,
  datapath mismatches, failed checks, earlier overlapping commands and pending key changes end or hold a command as the
  chapter says, each with its report. A command that has ended posts its completion item in its queue pair's Cask and
  leaves; without an owner the item is an orphan, without room it waits and after 1 ms is dropped and counted; a command
  behind a key change ends with TIMEOUT after 100 ms. A queue pair that is enabled gives the controller its next item, which
  becomes a command. QP_CFG takes a pair of Casks that fit, or disables the pair; STG_CTL.EN, the replay of the journal, key
  checks, failed programs, refreshes, the junction's temperature and the NAND's operations change what the chapter gives
  them. Nothing else changes. -/
def Obligations.Storage : Prop :=
  ∀ (s : State) (a : Acc) (c : Fin 256) (q : Fin 16) (v : Word) (k : StgCmd) (r : NsRec) (n : Fin 16) (d : Bool) (x : Nat) (st : Status) (y : ScrubSample) (i : Int) (b : BufBlk) (m : Nat) (u : State) (e : Nat),
    (CmdRuns s u c.val 1 true k r ∧ u.hostMay = true ∧ (d = false ∨ r.enc = 0) → Gives (.stgRead c none d false) s fun t =>
      CmdEnds u t k .done 0 ∧ t.ldBytes k.addr (List.length (((List.range k.count).map fun j => u.readBlock k.ns r (k.lba +
      j)).flatten)) = ((List.range k.count).map fun j => u.readBlock k.ns r (k.lba + j)).flatten ∧ MemBut u t k.addr
      (List.length (((List.range k.count).map fun j => u.readBlock k.ns r (k.lba + j)).flatten)) ∧ StoreSide u t ∧ t.nand =
      { u.nand with hostRd := u.nand.hostRd + k.count } ∧ { t.stg with cmds := u.stg.cmds } = (u.hostSlot false).stg ∧
      { t with stg := u.stg, nand := u.nand, mem := u.mem, eccBad := u.eccBad, harts := u.harts } = u)
    ∧ (CmdRuns s u c.val 1 true k r ∧ u.hostMay = true ∧ x < k.count → Gives (.stgRead c (some x) d false) s fun t => CmdEnds
      u t k .eccUncorr x ∧ t.nand = { u.nand with uncCnt := u.nand.uncCnt + 1 } ∧ Reported u t [(0xB001, (k.ns + k.qp * 256)
      % 2 ^ 32, (k.lba + x) % 2 ^ 32)] ∧ { t.stg with cmds := u.stg.cmds } = (u.hostSlot false).stg ∧
      { t with stg := u.stg, nand := u.nand, reports := u.reports } = u)
    ∧ (CmdRuns s u c.val 1 true k r ∧ u.hostMay = true ∧ r.enc ≠ 0 → Gives (.stgRead c none true false) s fun t => CmdEnds u t
      k .fault 0 ∧ Reported u t [(0xB007, (k.ns + k.qp * 256) % 2 ^ 32, (k.lba) % 2 ^ 32)] ∧
      { t.stg with cmds := u.stg.cmds } = (u.hostSlot false).stg ∧ { t with stg := u.stg, reports := u.reports } = u)
    ∧ (CmdRuns s u c.val 1 true k r ∧ u.hostMay = false → Gives (.stgRead c none d false) s fun t => t = u)
    ∧ (CmdRuns s u c.val 2 true k r ∧ k.moved ≤ k.count ∧ (∀ j, j < k.count * 512 → u.isBad (k.addr + j * 8) = false) ∧ (d =
      false ∨ r.enc = 0) → Gives (.stgWrite c d false) s fun t => t.stg.buf = u.stg.buf ++ ((List.range (min (k.count -
      k.moved) (1024 - u.bufUsed))).map fun j =>
      { uid := u.stg.nextUid + j, ns := k.ns, lba := k.lba + k.moved + j, data := some (u.inline false k.ns r (k.lba + k.moved + j) (u.ldBytes (k.addr + (k.moved + j) * 4096) 4096)) })
      ∧ t.stg.nextUid = u.stg.nextUid + (min (k.count - k.moved) (1024 - u.bufUsed)) ∧ (if r.data then t.nand =
      { u.nand with dat := { u.nand.dat with hostWr := u.nand.dat.hostWr + (min (k.count - k.moved) (1024 - u.bufUsed)) } }
      else t.nand =
      { u.nand with sys := { u.nand.sys with hostWr := u.nand.sys.hostWr + (min (k.count - k.moved) (1024 - u.bufUsed)) } })
      ∧ (if k.moved + (min (k.count - k.moved) (1024 - u.bufUsed)) = k.count ∧ ¬ (k.flags.testBit 0 = true ∧ ∃ o ∈ (k.fua ++
      (List.range (min (k.count - k.moved) (1024 - u.bufUsed))).map fun j => u.stg.nextUid + j), ∃ z ∈ t.stg.buf, z.uid = o)
      then CmdIs u t
      { k with moved := k.moved + (min (k.count - k.moved) (1024 - u.bufUsed)), fua := (k.fua ++ (List.range (min (k.count - k.moved) (1024 - u.bufUsed))).map fun j => u.stg.nextUid + j), keyWait := none, ended := some (.done, 0) }
      else CmdIs u t
      { k with moved := k.moved + (min (k.count - k.moved) (1024 - u.bufUsed)), fua := (k.fua ++ (List.range (min (k.count - k.moved) (1024 - u.bufUsed))).map fun j => u.stg.nextUid + j), keyWait := none })
      ∧ { t.stg with cmds := u.stg.cmds, buf := u.stg.buf, nextUid := u.stg.nextUid } = u.stg ∧
      { t with stg := u.stg, nand := u.nand } = u)
    ∧ (CmdRuns s u c.val 2 true k r ∧ inSram k.addr = true ∧ x < k.count * 512 ∧ u.isBad (k.addr + x * 8) = true ∧ (∀ j, j < x
      → u.isBad (k.addr + j * 8) = false) ∧ k.addr + x * 8 < 0x12000000 → Gives (.stgWrite c d false) s fun t => CmdEnds u t
      k .eccUncorr (x / 512) ∧ Reported u t [(0x2002, (k.addr + x * 8) % 2 ^ 32, (k.addr + x * 8) / 2 ^ 32 % 2 ^ 32)] ∧
      { t.stg with cmds := u.stg.cmds } = u.stg ∧ { t with stg := u.stg, reports := u.reports } = u)
    ∧ (CmdRuns s u c.val 2 true k r ∧ k.moved ≤ k.count ∧ (∀ j, j < k.count * 512 → u.isBad (k.addr + j * 8) = false) ∧ r.enc
      ≠ 0 → Gives (.stgWrite c true false) s fun t => CmdEnds u t k .fault 0 ∧ Reported u t [(0xB007, (k.ns + k.qp * 256) %
      2 ^ 32, (k.lba) % 2 ^ 32)] ∧ { t.stg with cmds := u.stg.cmds } = u.stg ∧ { t with stg := u.stg, reports := u.reports }
      = u)
    ∧ (CmdRuns s u c.val 3 false k r ∧ (∀ z ∈ u.stg.buf, z.ns ≠ k.ns ∨ k.mark ≤ z.uid) → Gives (.stgFlush c) s fun t =>
      CmdEnds u t k .done 0 ∧ { t.stg with cmds := u.stg.cmds } = u.stg ∧ { t with stg := u.stg } = u)
    ∧ (CmdRuns s u c.val 3 false k r ∧ b ∈ u.stg.buf ∧ b.ns = k.ns ∧ b.uid < k.mark → Gives (.stgFlush c) s fun t => CmdIs u t
      { k with keyWait := none } ∧ { t.stg with cmds := u.stg.cmds } = u.stg ∧ { t with stg := u.stg } = u)
    ∧ (CmdRuns s u c.val 4 false k r → Gives (.stgTrim c) s fun t => CmdEnds u t k .done 0 ∧ t.stg.buf = u.stg.buf ++
      [⟨u.stg.nextUid, k.ns, k.lba, k.count, none⟩] ∧ t.stg.nextUid = u.stg.nextUid + 1 ∧
      { t.stg with cmds := u.stg.cmds, buf := u.stg.buf, nextUid := u.stg.nextUid } = u.stg ∧ { t with stg := u.stg } = u)
    ∧ (CmdRuns s u c.val 1 true k r ∧ u.hostMay = true → Gives (.stgRead c none d true) s fun t => CmdEnds u t k .access 0 ∧
      Reported u t [(0x0006, k.addr % 2 ^ 32, k.addr / 2 ^ 32 % 2 ^ 32), (0x0003, k.addr % 2 ^ 32, k.addr / 2 ^ 32 % 2 ^
      32)] ∧ { t.stg with cmds := u.stg.cmds } = (u.hostSlot false).stg ∧ { t with stg := u.stg, reports := u.reports } = u)
    ∧ (CmdRuns s u c.val 2 true k r → Gives (.stgWrite c d true) s fun t => CmdEnds u t k .access 0 ∧ Reported u t [(0x0006,
      k.addr % 2 ^ 32, k.addr / 2 ^ 32 % 2 ^ 32), (0x0003, k.addr % 2 ^ 32, k.addr / 2 ^ 32 % 2 ^ 32)] ∧
      { t.stg with cmds := u.stg.cmds } = u.stg ∧ { t with stg := u.stg, reports := u.reports } = u)
    ∧ (StgTakes s u ∧ u.cmd c.val = some k ∧ k.ended = none ∧ u.cmdBehind k = true ∧ k.opc = 1 → Gives (.stgRead c none false
      false) s fun t => t = u)
    ∧ (StgTakes s u ∧ u.cmd c.val = some k ∧ k.ended = none ∧ u.cmdBehind k = true ∧ k.opc = 2 → Gives (.stgWrite c false
      false) s fun t => t = u)
    ∧ (StgTakes s u ∧ u.cmd c.val = some k ∧ k.ended = none ∧ u.cmdBehind k = true ∧ k.opc = 4 → Gives (.stgTrim c) s fun t =>
      t = u)
    ∧ (StgTakes s u ∧ u.cmd c.val = some k ∧ k.ended = none ∧ u.cmdBehind k = false ∧ k.moved = 0 ∧ u.cmdCheck k true = some
      st ∧ st ≠ .access ∧ k.opc = 1 → Gives (.stgRead c none false false) s fun t => CmdEnds u t k st 0 ∧
      { t.stg with cmds := u.stg.cmds } = u.stg ∧ { t with stg := u.stg } = u)
    ∧ (StgTakes s u ∧ u.cmd c.val = some k ∧ k.ended = none ∧ u.cmdBehind k = false ∧ k.moved = 0 ∧ u.cmdCheck k true = some
      st ∧ st ≠ .access ∧ k.opc = 2 → Gives (.stgWrite c false false) s fun t => CmdEnds u t k st 0 ∧
      { t.stg with cmds := u.stg.cmds } = u.stg ∧ { t with stg := u.stg } = u)
    ∧ (StgTakes s u ∧ u.cmd c.val = some k ∧ k.ended = none ∧ u.cmdBehind k = false ∧ k.moved = 0 ∧ u.cmdCheck k false = some
      st ∧ st ≠ .access ∧ k.opc = 3 → Gives (.stgFlush c) s fun t => CmdEnds u t k st 0 ∧ { t.stg with cmds := u.stg.cmds }
      = u.stg ∧ { t with stg := u.stg } = u)
    ∧ (StgTakes s u ∧ u.cmd c.val = some k ∧ k.ended = none ∧ u.cmdBehind k = false ∧ k.moved = 0 ∧ u.cmdCheck k false = some
      st ∧ st ≠ .access ∧ k.opc = 4 → Gives (.stgTrim c) s fun t => CmdEnds u t k st 0 ∧ { t.stg with cmds := u.stg.cmds } =
      u.stg ∧ { t with stg := u.stg } = u)
    ∧ (StgTakes s u ∧ u.cmd c.val = some k ∧ k.ended = none ∧ u.cmdBehind k = false ∧ k.moved = 0 ∧ u.cmdCheck k true = some
      .access ∧ k.opc = 1 → Gives (.stgRead c none false false) s fun t => CmdEnds u t k .access 0 ∧ Reported u t [(0x0003,
      k.addr % 2 ^ 32, k.addr / 2 ^ 32 % 2 ^ 32)] ∧ { t.stg with cmds := u.stg.cmds } = u.stg ∧
      { t with stg := u.stg, reports := u.reports } = u)
    ∧ (StgTakes s u ∧ u.cmd c.val = some k ∧ k.ended = none ∧ u.cmdBehind k = false ∧ k.moved = 0 ∧ u.cmdCheck k true = some
      .access ∧ k.opc = 2 → Gives (.stgWrite c false false) s fun t => CmdEnds u t k .access 0 ∧ Reported u t [(0x0003,
      k.addr % 2 ^ 32, k.addr / 2 ^ 32 % 2 ^ 32)] ∧ { t.stg with cmds := u.stg.cmds } = u.stg ∧
      { t with stg := u.stg, reports := u.reports } = u)
    ∧ (StgTakes s u ∧ u.cmd c.val = some k ∧ k.ended = none ∧ u.cmdBehind k = false ∧ k.moved = 0 ∧ u.cmdCheck k false = some
      .access ∧ k.opc = 3 → Gives (.stgFlush c) s fun t => CmdEnds u t k .access 0 ∧ Reported u t [(0x0003, k.addr % 2 ^ 32,
      k.addr / 2 ^ 32 % 2 ^ 32)] ∧ { t.stg with cmds := u.stg.cmds } = u.stg ∧ { t with stg := u.stg, reports := u.reports }
      = u)
    ∧ (StgTakes s u ∧ u.cmd c.val = some k ∧ k.ended = none ∧ u.cmdBehind k = false ∧ k.moved = 0 ∧ u.cmdCheck k false = some
      .access ∧ k.opc = 4 → Gives (.stgTrim c) s fun t => CmdEnds u t k .access 0 ∧ Reported u t [(0x0003, k.addr % 2 ^ 32,
      k.addr / 2 ^ 32 % 2 ^ 32)] ∧ { t.stg with cmds := u.stg.cmds } = u.stg ∧ { t with stg := u.stg, reports := u.reports }
      = u)
    ∧ (StgTakes s u ∧ u.cmd c.val = some k ∧ k.ended = none ∧ u.cmdBehind k = false ∧ k.moved = 0 ∧ u.cmdCheck k true = none ∧
      u.ns k.ns = some r ∧ (u.nsPending r = true ∨ u.nsNoKst r = true) ∧ k.opc ≠ 3 ∧ k.opc = 1 → Gives (.stgRead c none
      false false) s fun t => (if k.keyWait = none then CmdIs u t { k with keyWait := some u.ticks } else t.stg.cmds =
      u.stg.cmds) ∧ { t.stg with cmds := u.stg.cmds } = u.stg ∧ { t with stg := u.stg } = u)
    ∧ (StgTakes s u ∧ u.cmd c.val = some k ∧ k.ended = none ∧ u.cmdBehind k = false ∧ k.moved = 0 ∧ u.cmdCheck k true = none ∧
      u.ns k.ns = some r ∧ (u.nsPending r = true ∨ u.nsNoKst r = true) ∧ k.opc ≠ 3 ∧ k.opc = 2 → Gives (.stgWrite c false
      false) s fun t => (if k.keyWait = none then CmdIs u t { k with keyWait := some u.ticks } else t.stg.cmds = u.stg.cmds)
      ∧ { t.stg with cmds := u.stg.cmds } = u.stg ∧ { t with stg := u.stg } = u)
    ∧ (StgTakes s u ∧ u.cmd c.val = some k ∧ k.ended = none ∧ u.cmdBehind k = false ∧ k.moved = 0 ∧ u.cmdCheck k false = none
      ∧ u.ns k.ns = some r ∧ (u.nsPending r = true ∨ u.nsNoKst r = true) ∧ k.opc ≠ 3 ∧ k.opc = 4 → Gives (.stgTrim c) s fun
      t => (if k.keyWait = none then CmdIs u t { k with keyWait := some u.ticks } else t.stg.cmds = u.stg.cmds) ∧
      { t.stg with cmds := u.stg.cmds } = u.stg ∧ { t with stg := u.stg } = u)
    ∧ (StgTakes s u ∧ u.cmd c.val = some k ∧ k.opc = 5 ∧ k.ended = none ∧ (k.ns = 0 ∨ k.ask.size = 0 ∨ u.nsNoKst k.ask =
      false) ∧ u.formatCheck k = none ∧ k.ns = 0 → Gives (.stgFormatNs c) s fun t => CmdEnds u t k .done 0 ∧ t.stg.buf =
      u.stg.buf.filter (fun z => z.ns != k.ns) ∧ t.nand.blocks = u.nand.blocks.filter (fun p => p.1 / 2 ^ 40 != k.ns) ∧
      { t.stg with cmds := u.stg.cmds, buf := u.stg.buf } = u.stg ∧ { t.nand with blocks := u.nand.blocks } = u.nand ∧
      { t with stg := u.stg, nand := u.nand } = u)
    ∧ (StgTakes s u ∧ u.cmd c.val = some k ∧ k.opc = 5 ∧ k.ended = none ∧ (k.ns = 0 ∨ k.ask.size = 0 ∨ u.nsNoKst k.ask =
      false) ∧ u.formatCheck k = none ∧ k.ns ≠ 0 ∧ k.ask.size = 0 → Gives (.stgFormatNs c) s fun t => CmdEnds u t k .done 0
      ∧ t.stg.buf = u.stg.buf.filter (fun z => z.ns != k.ns) ∧ t.nand.blocks = u.nand.blocks.filter (fun p => p.1 / 2 ^ 40
      != k.ns) ∧ t.stg.absent = u.stg.absent.filter (· != k.ns) ∧ t.ns k.ns = none ∧ (∀ z, z ≠ k.ns → t.ns z = u.ns z) ∧
      { t.stg with cmds := u.stg.cmds, buf := u.stg.buf, absent := u.stg.absent } = u.stg ∧
      { t.nand with table := u.nand.table, blocks := u.nand.blocks } = u.nand ∧ { t with stg := u.stg, nand := u.nand } = u)
    ∧ (StgTakes s u ∧ u.cmd c.val = some k ∧ k.opc = 5 ∧ k.ended = none ∧ (k.ns = 0 ∨ k.ask.size = 0 ∨ u.nsNoKst k.ask =
      false) ∧ u.formatCheck k = none ∧ k.ns ≠ 0 ∧ k.ask.size ≠ 0 ∧ (k.ask.unit = false ∨ k.ask.enc = 0) ∧ u.nsPending k.ask
      = false → Gives (.stgFormatNs c) s fun t => CmdEnds u t k .done 0 ∧ t.stg.buf = u.stg.buf.filter (fun z => z.ns !=
      k.ns) ∧ t.nand.blocks = u.nand.blocks.filter (fun p => p.1 / 2 ^ 40 != k.ns) ∧ t.stg.absent = u.stg.absent.filter (·
      != k.ns) ∧ t.ns k.ns = some { k.ask with kcv := if k.ask.enc = 0 then [] else (u.nsKey k.ns k.ask).elim [] kcvOf } ∧
      (∀ z, z ≠ k.ns → t.ns z = u.ns z) ∧ { t.stg with cmds := u.stg.cmds, buf := u.stg.buf, absent := u.stg.absent } =
      u.stg ∧ { t.nand with table := u.nand.table, blocks := u.nand.blocks } = u.nand ∧
      { t with stg := u.stg, nand := u.nand } = u)
    ∧ (StgTakes s u ∧ u.cmd c.val = some k ∧ k.opc = 5 ∧ k.ended = none ∧ k.tags.manager = true ∧ k.ns ≠ 0 ∧ k.ask.size ≠ 0 ∧
      k.ask.enc ≤ 2 ∧ (u.nsNoKst k.ask = true ∨ u.formatCheck k = none ∧ u.nsPending k.ask = true) ∧ k.keyWait = none →
      Gives (.stgFormatNs c) s fun t => CmdIs u t { k with keyWait := some u.ticks } ∧ { t.stg with cmds := u.stg.cmds } =
      u.stg ∧ { t with stg := u.stg } = u)
    ∧ (StgTakes s u ∧ u.cmd c.val = some k ∧ k.opc = 5 ∧ k.ended = none ∧ (k.ns = 0 ∨ k.ask.size = 0 ∨ u.nsNoKst k.ask =
      false) ∧ u.formatCheck k = none ∧ k.ns ≠ 0 ∧ k.ask.size ≠ 0 ∧ k.ask.unit = true ∧ k.ask.enc ≠ 0 → Gives (.stgFormatNs
      c) s fun t => CmdEnds u t k .done 0 ∧ t.stg.buf = u.stg.buf.filter (fun z => z.ns != k.ns) ∧ t.nand.blocks =
      u.nand.blocks.filter (fun p => p.1 / 2 ^ 40 != k.ns) ∧ t.stg.absent = u.stg.absent.filter (· != k.ns) ∧ t.ns k.ns =
      some
      { k.ask with salt := (leBytes 8 (Config.freeValue u.free).toNat ++ leBytes 8 (Config.freeValue (u.free + 1)).toNat), kcv := kcvOf (kdf (fixedKey u.kst.testRoot 4) (ascii "FZ9640-NS") (leBytes 1 k.ns ++ (leBytes 8 (Config.freeValue u.free).toNat ++ leBytes 8 (Config.freeValue (u.free + 1)).toNat)) (if k.ask.enc = 2 then 64 else 32)) }
      ∧ t.free = u.free + 2 ∧ (∀ z, z ≠ k.ns → t.ns z = u.ns z) ∧
      { t.stg with cmds := u.stg.cmds, buf := u.stg.buf, absent := u.stg.absent } = u.stg ∧
      { t.nand with table := u.nand.table, blocks := u.nand.blocks } = u.nand ∧
      { t with stg := u.stg, nand := u.nand, free := u.free } = u)
    ∧ (StgTakes s u ∧ u.cmd c.val = some k ∧ k.opc = 5 ∧ k.ended = none ∧ (k.ns = 0 ∨ k.ask.size = 0 ∨ u.nsNoKst k.ask =
      false) ∧ u.formatCheck k = some st ∧ st ≠ .access → Gives (.stgFormatNs c) s fun t => CmdEnds u t k st 0 ∧
      { t.stg with cmds := u.stg.cmds } = u.stg ∧ { t with stg := u.stg } = u)
    ∧ (StgTakes s u ∧ u.cmd c.val = some k ∧ k.opc = 5 ∧ k.ended = none ∧ (k.ns = 0 ∨ k.ask.size = 0 ∨ u.nsNoKst k.ask =
      false) ∧ u.formatCheck k = some .access → Gives (.stgFormatNs c) s fun t => CmdEnds u t k .access 0 ∧ Reported u t
      [(0x0003, k.addr % 2 ^ 32, k.addr / 2 ^ 32 % 2 ^ 32)] ∧ { t.stg with cmds := u.stg.cmds } = u.stg ∧
      { t with stg := u.stg, reports := u.reports } = u)
    ∧ (StgTakes s u ∧ u.cmd c.val = some k ∧ k.opc = 6 ∧ k.ended = none ∧ sramSpan k.addr 128 = true ∧ u.mayWrite ⟨k.tid, k.w⟩
      k.addr 128 = true ∧ k.addr % 8 = 0 ∧ k.report.length = 128 → Gives (.stgHealth c false) s fun t => CmdEnds u t k .done
      128 ∧ t.ldBytes k.addr 128 = k.report ∧ MemBut u t k.addr 128 ∧ StoreSide u t ∧ { t.stg with cmds := u.stg.cmds } =
      u.stg ∧ { t with stg := u.stg, mem := u.mem, eccBad := u.eccBad, harts := u.harts } = u)
    ∧ (StgTakes s u ∧ u.cmd c.val = some k ∧ k.opc = 6 ∧ k.ended = none ∧ sramSpan k.addr 128 = true ∧ u.mayWrite ⟨k.tid, k.w⟩
      k.addr 128 = false → Gives (.stgHealth c false) s fun t => CmdEnds u t k .access 0 ∧ Reported u t [(0x0003, k.addr % 2
      ^ 32, k.addr / 2 ^ 32 % 2 ^ 32)] ∧ { t.stg with cmds := u.stg.cmds } = u.stg ∧
      { t with stg := u.stg, reports := u.reports } = u)
    ∧ (StgTakes s u ∧ u.cmd c.val = some k ∧ k.opc = 6 ∧ k.ended = none ∧ (k.addr < 0x10000000 ∨ 0x12000000 ≤ k.addr) → Gives
      (.stgHealth c false) s fun t => CmdEnds u t k .range 0 ∧ { t.stg with cmds := u.stg.cmds } = u.stg ∧
      { t with stg := u.stg } = u)
    ∧ (StgTakes s u ∧ u.cmd c.val = some k ∧ k.opc = 6 ∧ k.ended = none ∧ 0x10000000 ≤ k.addr ∧ k.addr < 0x12000000 ∧
      (sramSpan k.addr 128 = false ∨ u.mayWrite ⟨k.tid, k.w⟩ k.addr 128 = true) ∧ k.addr % 8 ≠ 0 → Gives (.stgHealth c
      false) s fun t => CmdEnds u t k .align 0 ∧ { t.stg with cmds := u.stg.cmds } = u.stg ∧ { t with stg := u.stg } = u)
    ∧ (StgTakes s u ∧ u.cmd c.val = some k ∧ k.opc = 6 ∧ k.ended = none ∧ 0x10000000 ≤ k.addr ∧ k.addr < 0x12000000 ∧ k.addr %
      8 = 0 ∧ sramSpan k.addr 128 = false → Gives (.stgHealth c false) s fun t => CmdEnds u t k .length 0 ∧
      { t.stg with cmds := u.stg.cmds } = u.stg ∧ { t with stg := u.stg } = u)
    ∧ (StgTakes s u ∧ u.cmd c.val = some k ∧ (k.opc = 0 ∨ 6 < k.opc ∨ k.ended ≠ none) ∧ ownHeld (u.rd (ckA (u.rf (qpA k.qp 4)
      26 18) 0)) = true ∧ u.ckEn (u.rf (qpA k.qp 4) 26 18) = true ∧ u.ckRoom (u.rf (qpA k.qp 4) 26 18) = true ∧ u.mayWrite
      (u.ckOwner (u.rf (qpA k.qp 4) 26 18)) (u.ckPlace (u.rf (qpA k.qp 4) 26 18) (u.cask (u.rf (qpA k.qp 4) 26 18)).pw)
      (u.ckItem (u.rf (qpA k.qp 4) 26 18)) = true → Gives (.stgCommandComplete c) s fun t => t.stg.cmds = u.stg.cmds.filter
      (fun z => z.entry != k.entry) ∧ t.ldBytes (u.ckPlace (u.rf (qpA k.qp 4) 26 18) (u.cask (u.rf (qpA k.qp 4) 26 18)).pw)
      (u.ckItem (u.rf (qpA k.qp 4) 26 18)) = padTo (u.ckItem (u.rf (qpA k.qp 4) 26 18)) (leBytes 4 k.tag ++ leBytes 1 (if
      k.opc = 0 ∨ 6 < k.opc then (Status.range, 0) else k.ended.getD (.done, 0)).1.code ++ leBytes 1 k.opc ++ leBytes 1 k.ns
      ++ [0] ++ leBytes 4 (if k.opc = 0 ∨ 6 < k.opc then (Status.range, 0) else k.ended.getD (.done, 0)).2 ++ leBytes 4 0) ∧
      MemBut u t (u.ckPlace (u.rf (qpA k.qp 4) 26 18) (u.cask (u.rf (qpA k.qp 4) 26 18)).pw) (u.ckItem (u.rf (qpA k.qp 4) 26
      18)) ∧ StoreSide u t ∧ t.rd (ckA (u.rf (qpA k.qp 4) 26 18) 0x10) = setFld (u.rd (ckA (u.rf (qpA k.qp 4) 26 18) 0x10))
      31 16 (u.ckWr (u.rf (qpA k.qp 4) 26 18) + 1) ∧ t.cask (u.rf (qpA k.qp 4) 26 18) =
      { u.cask (u.rf (qpA k.qp 4) 26 18) with pw := u.ckAdv (u.rf (qpA k.qp 4) 26 18) (u.cask (u.rf (qpA k.qp 4) 26 18)).pw 1 }
      ∧ CasksBut u t (u.rf (qpA k.qp 4) 26 18) ∧ RegsBut u t [ckA (u.rf (qpA k.qp 4) 26 18) 0x10] ∧
      { t.stg with cmds := u.stg.cmds } = u.stg ∧
      { t with stg := u.stg, mem := u.mem, eccBad := u.eccBad, harts := u.harts, regs := u.regs, casks := u.casks } = u)
    ∧ (StgTakes s u ∧ u.cmd c.val = some k ∧ (k.opc = 0 ∨ 6 < k.opc ∨ k.ended ≠ none) ∧ ownHeld (u.rd (ckA (u.rf (qpA k.qp 4)
      26 18) 0)) = false → Gives (.stgCommandComplete c) s fun t => t.stg.cmds = u.stg.cmds.filter (fun z => z.entry !=
      k.entry) ∧ t.rf cskBase 31 0 = min (u.rf cskBase 31 0 + 1) (2 ^ 32 - 1) ∧ RegsBut u t [cskBase] ∧ Reported u t
      [(0x4080, (u.rf (qpA k.qp 4) 26 18), 0)] ∧ { t.stg with cmds := u.stg.cmds } = u.stg ∧
      { t with stg := u.stg, regs := u.regs, reports := u.reports } = u)
    ∧ (StgTakes s u ∧ u.cmd c.val = some k ∧ (k.opc = 0 ∨ 6 < k.opc ∨ k.ended ≠ none) ∧ ownHeld (u.rd (ckA (u.rf (qpA k.qp 4)
      26 18) 0)) = true ∧ (u.ckEn (u.rf (qpA k.qp 4) 26 18) = false ∨ u.ckRoom (u.rf (qpA k.qp 4) 26 18) = false) ∧
      k.posting = none → Gives (.stgCommandComplete c) s fun t => CmdIs u t
      { (if k.opc = 0 ∨ 6 < k.opc then { k with ended := some (.range, 0) } else k) with posting := some u.ticks } ∧
      { t.stg with cmds := u.stg.cmds } = u.stg ∧ { t with stg := u.stg } = u)
    ∧ (StgTakes s u ∧ u.cmd c.val = some k ∧ 1 ≤ k.opc ∧ k.opc ≤ 6 ∧ k.ended = none → Gives (.stgCommandComplete c) s fun t =>
      t = u)
    ∧ (StgTakes s u ∧ u.cmd c.val = none → Gives (.stgCommandComplete c) s fun t => t = u)
    ∧ (s.stReady = true ∧ s.stg.rr = q.val ∧ s.rb (qpA q 4) 31 = true ∧ (∀ j, j < 16 → j ≠ q.val → s.rb (qpA j 4) 31 = false)
      ∧ ownHeld (s.rd (qpA q 0)) = true ∧ s.rf (qpA q 4) 8 0 = x ∧ s.ckEn x = true ∧ s.ckAvail x = 1 ∧ s.ckItem x = 64 ∧
      firstBelow 256 (fun j => (s.cmd j).isNone) = some e ∧ s.cmd c.val = none ∧ e ≠ c.val ∧ s.sliceAdmits .stgCmd (ownTags
      (s.rd (qpA q 0))).tid = true ∧ s.mayRead (s.ckOwner x) (s.ckPlace x (s.cask x).pr) 64 = true ∧ s.anyBad (s.ckPlace x
      (s.cask x).pr) 64 = false → Gives (.stgCommandComplete c) s fun t => t.stg.cmds = s.stg.cmds ++
      [{ cmdOf (s.ldBytes (s.ckPlace x (s.cask x).pr) 64) e q (ownTags (s.rd (qpA q 0))) with report := if s.ldb (s.ckPlace x (s.cask x).pr) = 6 then s.healthReport else [], mark := s.stg.nextUid }]
      ∧ { t.stg with cmds := s.stg.cmds, rr := s.stg.rr } = s.stg ∧ t.rb (qpA q 8) 31 = false ∧ t.ckAvail x = 0 ∧ t.ckRel x
      = (s.ckRel x + 1) % 65536 ∧ RegsBut s t [qpA q 8, ckA x 0x10, ckA x 0x14, ckA x 0x18] ∧ CasksBut s t x ∧
      { t with stg := s.stg, regs := s.regs, casks := s.casks } = s)
    ∧ (s.cmd c.val = some k ∧ k.posting = some x ∧ s.stReady = true ∧ 500000 ≤ s.ticks - x ∧ (s.ckEn (s.rf (qpA k.qp 4) 26 18)
      = false ∨ s.ckRoom (s.rf (qpA k.qp 4) 26 18) = false) → Gives (.stgCompletionDrop c) s fun t => t.stg.cmds =
      s.stg.cmds.filter (fun z => z.entry != k.entry) ∧ t.rf (qpA k.qp 8) 23 16 = min (s.rf (qpA k.qp 8) 23 16 + 1) 255 ∧
      RegsBut s t [qpA k.qp 8] ∧ Reported s t [(0xB008, (k.ns + k.qp * 256) % 2 ^ 32, (k.lba) % 2 ^ 32)] ∧
      { t.stg with cmds := s.stg.cmds } = s.stg ∧ { t with stg := s.stg, regs := s.regs, reports := s.reports } = s)
    ∧ (s.cmd c.val = some k ∧ (k.posting = none ∨ (s.ckEn (s.rf (qpA k.qp 4) 26 18) = true ∧ s.ckRoom (s.rf (qpA k.qp 4) 26
      18) = true)) → Gives (.stgCompletionDrop c) s fun t => t = s)
    ∧ (s.cmd c.val = some k ∧ k.keyWait = some x ∧ s.stReady = true ∧ 50000000 ≤ s.ticks - x → Gives (.stgKeyPendingTimeout c)
      s fun t => CmdEnds s t k .timeout 0 ∧ Reported s t [(0xB00C, (k.ns + k.qp * 256) % 2 ^ 32, (k.lba) % 2 ^ 32)] ∧
      { t.stg with cmds := s.stg.cmds } = s.stg ∧ { t with stg := s.stg, reports := s.reports } = s)
    ∧ (s.cmd c.val = some k ∧ k.keyWait.all (fun z => s.ticks - z < 50000000) = true → Gives (.stgKeyPendingTimeout c) s fun t
      => t = s)
    ∧ (Reaches s a (stA 0) ∧ Manager s a → Gives (.stgEnable a) s fun t => t.rd (stA 0) = maskedWrite (regDesc (stA 0)) (s.rd
      (stA 0)) 1 ∧ t.rb (stA 0) 0 = true ∧ RegsBut s t [stA 0] ∧ Answers t .done ∧ RegsOnly s t)
    ∧ (Reaches s a (qpA q 4) ∧ s.mayWriteOwned (s.tagsOf a.who) (qpA q 0) = true ∧ (bit v 31 = true → (s.ckItem (fld v 8 0) =
      64 ∧ s.ckItem (fld v 26 18) = 16) ∧ (ownHeld (s.rd (ckA (fld v 8 0) 0)) = true ∧ ownHeld (s.rd (qpA q 0)) = true ∧
      ownTags (s.rd (ckA (fld v 8 0) 0)) = ownTags (s.rd (qpA q 0)) ∧ ownHeld (s.rd (ckA (fld v 26 18) 0)) = true ∧ ownHeld
      (s.rd (qpA q 0)) = true ∧ ownTags (s.rd (ckA (fld v 26 18) 0)) = ownTags (s.rd (qpA q 0)) ∧ s.ckConsIs (fld v 8 0) 2 =
      true ∧ s.ckProdIs (fld v 26 18) 2 = true)) → Gives (.qpConfigWrite a q v) s fun t => t.rd (qpA q 4) = maskedWrite
      (regDesc (qpA q 4)) (s.rd (qpA q 4)) v ∧ t.rd (qpA q 8) = setFld (s.rd (qpA q 8)) 23 16 0 ∧ RegsBut s t [qpA q 4, qpA
      q 8] ∧ Answers t .done ∧ RegsOnly s t)
    ∧ (Reaches s a (qpA q 4) ∧ s.mayWriteOwned (s.tagsOf a.who) (qpA q 0) = true ∧ NoHart a ∧ bit v 31 = true ∧ ¬ (s.ckItem
      (fld v 8 0) = 64 ∧ s.ckItem (fld v 26 18) = 16) → Gives (.qpConfigWrite a q v) s fun t => t.rd (qpA q 4) = setBit
      (s.rd (qpA q 4)) 31 false ∧ RegsBut s t [qpA q 4] ∧ Answers t .length ∧ RegsOnly s t)
    ∧ (Reaches s a (qpA q 4) ∧ s.mayWriteOwned (s.tagsOf a.who) (qpA q 0) = true ∧ NoHart a ∧ bit v 31 = true ∧ (s.ckItem (fld
      v 8 0) = 64 ∧ s.ckItem (fld v 26 18) = 16) ∧ ¬ (ownHeld (s.rd (ckA (fld v 8 0) 0)) = true ∧ ownHeld (s.rd (qpA q 0)) =
      true ∧ ownTags (s.rd (ckA (fld v 8 0) 0)) = ownTags (s.rd (qpA q 0)) ∧ ownHeld (s.rd (ckA (fld v 26 18) 0)) = true ∧
      ownHeld (s.rd (qpA q 0)) = true ∧ ownTags (s.rd (ckA (fld v 26 18) 0)) = ownTags (s.rd (qpA q 0)) ∧ s.ckConsIs (fld v
      8 0) 2 = true ∧ s.ckProdIs (fld v 26 18) 2 = true) → Gives (.qpConfigWrite a q v) s fun t => t.rd (qpA q 4) = setBit
      (s.rd (qpA q 4)) 31 false ∧ RegsBut s t [qpA q 4] ∧ Answers t .conflict ∧ RegsOnly s t)
    ∧ (Reaches s a (qpA q 4) ∧ NoHart a ∧ s.mayWriteOwned (s.tagsOf a.who) (qpA q 0) = false → Gives (.qpConfigWrite a q v) s
      fun t => Denies s t (qpA q 4))
    ∧ (Reaches s a (stA 0) ∧ NoHart a ∧ ¬ Manager s a → Gives (.stgEnable a) s fun t => Denies s t (stA 0))
    ∧ (s.stOn = true ∧ s.stReady = false ∧ (s.nand.table.map (·.1)).Nodup → Gives (.stgReady true) s fun t => (t.rb (stA 4) 0
      = true ∧ ((s.rb (stA 4) 2 = true ∨ s.spare false = 0) ↔ t.rb (stA 4) 2 = true) ∧ ((s.rb (stA 4) 3 = true ∨ s.spare
      true = 0) ↔ t.rb (stA 4) 3 = true) ∧ (t.rb (stA 4) 1 = true ↔ s.nand.unclean = true ∨ s.rb (stA 4) 1 = true) ∧ fld
      (t.rd (stA 4)) 31 4 = fld (s.rd (stA 4)) 31 4 ∧ RegsBut s t [stA 4] ∧
      { t.nand with unclean := s.nand.unclean, unsafeCnt := s.nand.unsafeCnt } = s.nand ∧ t.nand.unclean = false ∧
      t.nand.unsafeCnt = s.nand.unsafeCnt + s.nand.unclean.toNat) ∧ (∀ z, z ∈ t.stg.absent ↔ (∃ e ∈ (s.ns z).toList, e.enc ≠
      0 ∧ ¬ ∃ g ∈ (s.nsKey z e).toList, kcvOf g = e.kcv) ∨ (z ∈ s.stg.absent ∧ s.ns z = none)) ∧
      { t.stg with absent := s.stg.absent } = { s.stg with due := s.nand.born.map fun p => p.1, hostSlots := 0 } ∧ Reported
      s t ((if s.nand.unclean then [(0xB00A, 0, 0)] else []) ++ ((s.nand.table.map (·.1)).filter fun z => decide ((∃ e ∈
      (s.ns z).toList, e.enc ≠ 0 ∧ ¬ ∃ g ∈ (s.nsKey z e).toList, kcvOf g = e.kcv) ∧ z ∉ s.stg.absent)).map fun z => (0xB006,
      z % 2 ^ 32, 0)) ∧ { t with stg := s.stg, nand := s.nand, regs := s.regs, reports := s.reports } = s)
    ∧ (s.stOn = true ∧ s.stReady = false ∧ s.nand.table = [(x, r)] ∧ (r.enc = 0 ∨ ∃ g ∈ (s.nsKey x r).toList, kcvOf g = r.kcv)
      → Gives (.stgReady true) s fun t => (t.rb (stA 4) 0 = true ∧ ((s.rb (stA 4) 2 = true ∨ s.spare false = 0) ↔ t.rb (stA
      4) 2 = true) ∧ ((s.rb (stA 4) 3 = true ∨ s.spare true = 0) ↔ t.rb (stA 4) 3 = true) ∧ (t.rb (stA 4) 1 = true ↔
      s.nand.unclean = true ∨ s.rb (stA 4) 1 = true) ∧ fld (t.rd (stA 4)) 31 4 = fld (s.rd (stA 4)) 31 4 ∧ RegsBut s t [stA
      4] ∧ { t.nand with unclean := s.nand.unclean, unsafeCnt := s.nand.unsafeCnt } = s.nand ∧ t.nand.unclean = false ∧
      t.nand.unsafeCnt = s.nand.unsafeCnt + s.nand.unclean.toNat) ∧ t.stg =
      { s.stg with due := s.nand.born.map fun p => p.1, hostSlots := 0, absent := s.stg.absent.filter (· != x) } ∧ Reported
      s t (if s.nand.unclean then [(0xB00A, 0, 0)] else []) ∧
      { t with stg := s.stg, nand := s.nand, regs := s.regs, reports := s.reports } = s)
    ∧ (s.stOn = true ∧ s.stReady = false ∧ s.nand.table = [(x, r)] ∧ ¬ (r.enc = 0 ∨ ∃ g ∈ (s.nsKey x r).toList, kcvOf g =
      r.kcv) ∧ x ∉ s.stg.absent ∧ x < 16 → Gives (.stgReady true) s fun t => (t.rb (stA 4) 0 = true ∧ ((s.rb (stA 4) 2 =
      true ∨ s.spare false = 0) ↔ t.rb (stA 4) 2 = true) ∧ ((s.rb (stA 4) 3 = true ∨ s.spare true = 0) ↔ t.rb (stA 4) 3 =
      true) ∧ (t.rb (stA 4) 1 = true ↔ s.nand.unclean = true ∨ s.rb (stA 4) 1 = true) ∧ fld (t.rd (stA 4)) 31 4 = fld (s.rd
      (stA 4)) 31 4 ∧ RegsBut s t [stA 4] ∧ { t.nand with unclean := s.nand.unclean, unsafeCnt := s.nand.unsafeCnt } =
      s.nand ∧ t.nand.unclean = false ∧ t.nand.unsafeCnt = s.nand.unsafeCnt + s.nand.unclean.toNat) ∧ t.stg =
      { s.stg with due := s.nand.born.map fun p => p.1, hostSlots := 0, absent := s.stg.absent ++ [x] } ∧ Reported s t ((if
      s.nand.unclean then [(0xB00A, 0, 0)] else []) ++ [(0xB006, x, 0)]) ∧
      { t with stg := s.stg, nand := s.nand, regs := s.regs, reports := s.reports } = s)
    ∧ (s.stOn = true ∧ s.stReady = false → Gives (.stgReady false) s fun t => Reported s t [(0xB00B, 0, 0)] ∧
      { t with reports := s.reports } = s)
    ∧ ((s.stOn = false ∨ s.stReady = true) → Gives (.stgReady d) s fun t => t = s)
    ∧ (s.stReady = true ∧ s.ns n.val = some r ∧ (r.enc = 0 ∨ ∃ g ∈ (s.nsKey n.val r).toList, kcvOf g = r.kcv) → Gives
      (.namespaceKeyCheck n) s fun t => t = { s with stg := { s.stg with absent := s.stg.absent.filter (· != n.val) } })
    ∧ (s.stReady = true ∧ s.ns n.val = some r ∧ ¬ (r.enc = 0 ∨ ∃ g ∈ (s.nsKey n.val r).toList, kcvOf g = r.kcv) ∧ n.val ∉
      s.stg.absent → Gives (.namespaceKeyCheck n) s fun t => t.stg = { s.stg with absent := s.stg.absent ++ [n.val] } ∧
      Reported s t [(0xB006, n.val, 0)] ∧ { t with stg := s.stg, reports := s.reports } = s)
    ∧ ((s.stReady = false ∨ s.ns n.val = none) → Gives (.namespaceKeyCheck n) s fun t => t = s)
    ∧ (s.stReady = true ∧ s.blkUsable d x = true → Gives (.nandProgramFail d x) s fun t => (if d then t.nand =
      { s.nand with dat := { s.nand.dat with grown := s.nand.dat.grown + 1 }, born := smErase (nandBlk d x) s.nand.born, bad := nandBlk d x :: s.nand.bad }
      else t.nand =
      { s.nand with sys := { s.nand.sys with grown := s.nand.sys.grown + 1 }, born := smErase (nandBlk d x) s.nand.born, bad := nandBlk d x :: s.nand.bad })
      ∧ t.stg = { s.stg with due := s.stg.due.filter (· != nandBlk d x) } ∧ Reported s t ([(0xB003, 0, nandBlk d x % 2 ^
      32)] ++ (if regionSpare d ≤ (s.spare d) * 10 ∧ t.spare d * 10 < regionSpare d then [(0xB004, 0, 0)] else []) ++ (if
      (s.spare d) ≠ 0 ∧ t.spare d = 0 then [(0xB005, 0, 0)] else [])) ∧ (if (s.spare d) ≠ 0 ∧ t.spare d = 0 then t.rd (stA
      4) = setBit (s.rd (stA 4)) (if d then 3 else 2) true else t.rd (stA 4) = s.rd (stA 4)) ∧ t.spare d = (s.spare d) - 1 ∧
      RegsBut s t [stA 4] ∧ { t with nand := s.nand, stg := s.stg, regs := s.regs, reports := s.reports } = s)
    ∧ ((s.stReady = false ∨ s.blkUsable d x = false) → Gives (.nandProgramFail d x) s fun t => t = s)
    ∧ (s.stReady = true ∧ (s.anyDue = true ∨ s.hostIdle = true) ∧ s.stg.stopped = false ∧ s.progMay = true ∧ s.blkUsable
      y.data y.dest = true ∧ (60 < y.corrections ∨ 80 < y.hostCorrections ∨ 100000 ≤ y.reads ∨ s.refreshDays (decide (65536
      ≤ (nandBlk y.data y.blk))) < s.ageDays (nandBlk y.data y.blk)) → Gives (.scrubSample y) s fun t => (if y.data then
      t.nand =
      { s.nand with dat := { s.nand.dat with nandWr := s.nand.dat.nandWr + y.valid }, refreshCnt := s.nand.refreshCnt + 1, born := t.nand.born }
      else t.nand =
      { s.nand with sys := { s.nand.sys with nandWr := s.nand.sys.nandWr + y.valid }, refreshCnt := s.nand.refreshCnt + 1, born := t.nand.born })
      ∧ t.stg =
      { s.stg with hostSlots := 0, due := s.stg.due.filter (· != (nandBlk y.data y.blk)), lastHost := false, lastProg := true }
      ∧ t.nand.born = (if (smErase (nandBlk y.data y.blk) s.nand.born).any (fun p => p.1 == (nandBlk y.data y.dest)) then
      smErase (nandBlk y.data y.blk) s.nand.born else smInsert (nandBlk y.data y.dest) s.retNow (smErase (nandBlk y.data
      y.blk) s.nand.born)) ∧ Reported s t [(0xB002, 0, (nandBlk y.data y.blk) % 2 ^ 32)] ∧
      { t with nand := s.nand, stg := s.stg, reports := s.reports } = s)
    ∧ (s.stReady = true ∧ (s.anyDue = true ∨ s.hostIdle = true) ∧ ¬ (60 < y.corrections ∨ 80 < y.hostCorrections ∨ 100000 ≤
      y.reads ∨ s.refreshDays (decide (65536 ≤ (nandBlk y.data y.blk))) < s.ageDays (nandBlk y.data y.blk)) → Gives
      (.scrubSample y) s fun t => t.stg =
      { s.stg with hostSlots := 0, due := s.stg.due.filter (· != (nandBlk y.data y.blk)), lastHost := false, lastProg := false }
      ∧ { t with stg := s.stg } = s)
    ∧ ((s.stReady = false ∨ (s.anyDue = false ∧ s.hostIdle = false) ∨ ((60 < y.corrections ∨ 80 < y.hostCorrections ∨ 100000 ≤
      y.reads ∨ s.refreshDays (decide (65536 ≤ (nandBlk y.data y.blk))) < s.ageDays (nandBlk y.data y.blk)) ∧ (s.stg.stopped
      = true ∨ s.progMay = false ∨ s.blkUsable y.data y.dest = false))) → Gives (.scrubSample y) s fun t => t = s)
    ∧ (s.stOn = true → Gives (.nandTempChange i) s fun t => t.nand =
      { s.nand with tempMax := max s.nand.tempMax i, hotTicks := (s.nand.hotTicks + (s.stg.hotSince).elim 0 (fun u => s.ticks - u)) }
      ∧ t.stg =
      { s.stg with temp := i, hotSince := if 1680 < i then some s.ticks else none, stopped := if 2160 ≤ i then true else if i < 2080 then false else s.stg.stopped }
      ∧ Reported s t (if 2080 < i ∧ s.stg.temp ≤ 2080 then [(0xB009, 0, 0)] else []) ∧
      { t with nand := s.nand, stg := s.stg, reports := s.reports } = s)
    ∧ (s.stReady = true ∧ s.stg.stopped = false ∧ s.hostMay = true ∧ s.progMay = true ∧ s.stg.buf[x]? = some b ∧ (∀ z ∈
      s.stg.buf.take x, z.ns ≠ b.ns ∨ b.lba + b.cnt ≤ z.lba ∨ z.lba + z.cnt ≤ b.lba) ∧ b.data ≠ none ∧ s.blkUsable ((s.ns
      b.ns).elim false (fun u => u.data)) m = true → Gives (.nandOperationComplete (.program x m)) s fun t => t.stg =
      { s.stg with buf := s.stg.buf.filter (fun z => z.uid != b.uid), hostSlots := if (s.blkProg (nandBlk ((s.ns b.ns).elim false (fun u => u.data)) m)).anyDue then s.stg.hostSlots + 1 else 0, lastHost := true, lastProg := true }
      ∧ (∀ z, smGet (fun _ => []) t.nand.blocks z = if z = blkKey b.ns b.lba then b.data.getD [] else smGet (fun _ => [])
      s.nand.blocks z) ∧ (if ((s.ns b.ns).elim false (fun u => u.data)) then t.nand =
      { s.nand with dat := { s.nand.dat with nandWr := s.nand.dat.nandWr + 1 }, blocks := t.nand.blocks, born := (s.blkProg (nandBlk ((s.ns b.ns).elim false (fun u => u.data)) m)).nand.born }
      else t.nand =
      { s.nand with sys := { s.nand.sys with nandWr := s.nand.sys.nandWr + 1 }, blocks := t.nand.blocks, born := (s.blkProg (nandBlk ((s.ns b.ns).elim false (fun u => u.data)) m)).nand.born })
      ∧ { t with stg := s.stg, nand := s.nand } = s)
    ∧ (s.stReady = true ∧ s.stg.stopped = false ∧ s.hostMay = true ∧ s.progMay = true ∧ s.stg.buf[x]? = some b ∧ (∀ z ∈
      s.stg.buf.take x, z.ns ≠ b.ns ∨ b.lba + b.cnt ≤ z.lba ∨ z.lba + z.cnt ≤ b.lba) ∧ b.data = none → Gives
      (.nandOperationComplete (.program x m)) s fun t => t.stg =
      { s.stg with buf := s.stg.buf.filter (fun z => z.uid != b.uid) } ∧ t.nand =
      { s.nand with blocks := s.nand.blocks.filter (fun p => ¬ (blkKey b.ns b.lba ≤ p.1 ∧ p.1 < blkKey b.ns b.lba + b.cnt)) }
      ∧ { t with stg := s.stg, nand := s.nand } = s)
    ∧ (s.stReady = true ∧ s.stg.stopped = false ∧ (s.hostMay = false ∨ s.progMay = false ∨ s.stg.buf[x]? = none ∨ (∃ b ∈
      (s.stg.buf[x]?).toList, ∃ z ∈ s.stg.buf.take x, z.ns = b.ns ∧ z.lba < b.lba + b.cnt ∧ b.lba < z.lba + z.cnt) ∨ (∃ b ∈
      (s.stg.buf[x]?).toList, b.data ≠ none ∧ s.blkUsable ((s.ns b.ns).elim false (fun u => u.data)) m = false)) → Gives
      (.nandOperationComplete (.program x m)) s fun t => t = s)
    ∧ (s.stReady = true ∧ s.stg.stopped = false ∧ s.progMay = true ∧ s.blkUsable d m = true → Gives (.nandOperationComplete
      (.move d x m)) s fun t => (if d then t.nand =
      { s.nand with dat := { s.nand.dat with nandWr := s.nand.dat.nandWr + x }, born := (s.blkProg (nandBlk d m)).nand.born }
      else t.nand =
      { s.nand with sys := { s.nand.sys with nandWr := s.nand.sys.nandWr + x }, born := (s.blkProg (nandBlk d m)).nand.born })
      ∧ t.stg = { s.stg with lastHost := false, lastProg := true } ∧ { t with stg := s.stg, nand := s.nand } = s)
    ∧ (s.stReady = true ∧ s.stg.stopped = false ∧ s.blkUsable d x = true ∧ s.wearMay d x = true → Gives
      (.nandOperationComplete (.erase d x)) s fun t => (∀ z, smGet (fun _ => 0) (t.health d).pe z = smGet (fun _ => 0)
      (s.health d).pe z + if z = x then 1 else 0) ∧ (if d then t.nand =
      { s.nand with dat := { s.nand.dat with pe := (t.health d).pe }, born := smErase (nandBlk d x) s.nand.born } else
      t.nand = { s.nand with sys := { s.nand.sys with pe := (t.health d).pe }, born := smErase (nandBlk d x) s.nand.born })
      ∧ t.stg = { s.stg with due := s.stg.due.filter (· != nandBlk d x), lastHost := false, lastProg := false } ∧
      { t with stg := s.stg, nand := s.nand } = s)
    ∧ (s.stReady = true ∧ s.stg.stopped = false ∧ s.blkUsable d m = false → (Gives (.nandOperationComplete (.move d x m)) s
      fun t => t = s) ∧ (Gives (.nandOperationComplete (.erase d m)) s fun t => t = s))
    ∧ ((s.stReady = false ∨ s.stg.stopped = true) → (Gives (.nandOperationComplete (.program x m)) s fun t => t = s) ∧ (Gives
      (.nandOperationComplete (.move d x m)) s fun t => t = s) ∧ (Gives (.nandOperationComplete (.erase d x)) s fun t => t =
      s))

/-- PRM_CTL.START makes the module SOLO, or begins the listen when paired operation is configured with a usable key slot; GO
  starts a vintage with its cut or is refused, HANDOVER starts the final one, WAKE sends the long pulse. A vintage whose
  snapshot has ended gets its CRC and is sent; one that fails leaves its status, counts and is reported. Every beat sends
  the pulse of the role and, when configured, a HEARTBEAT frame; a valid pulse or a silent path moves PEER, and an ACTIVE
  module at position B yields to an ACTIVE beat. Without beat commands the role ends, and PAIR_OWN and the permit with it. A
  claim makes the module ACTIVE with PAIR_OWN low; a standby claims only while its partner is FAILED or it is armed, never
  in SLEEP_PENDING or while PAIR_OWN reads low, and then applies OUT_MAP and restores Cellar entries and application block
  of the winning vintage. The standby sends its health word and tests its permit line; missing reports are reported. Nothing
  else changes but, when the permit changes, the channels that settle with it. -/
def Obligations.PairRoles : Prop :=
  ∀ (s : State) (a : Acc) (us : Nat) (r : Nat) (key : List Byte) (b : Bool) (st : Status) (n : Nat) (c : Nat) (m : Snap) (u : State),
    (Reaches s a (prA 4) ∧ Manager s a ∧ (s.front.role ≠ 0 ∨ s.prm.start ≠ .idle) → Gives (.prmStart a) s fun t => Refuses s
      t .done)
    ∧ (Reaches s a (prA 4) ∧ Manager s a ∧ s.front.role = 0 ∧ s.prm.start = .idle ∧ s.pairEn = false → Gives (.prmStart a) s
      fun t => PermitSets s t 1 s.front.ownLow [] ∧ t.prm = s.prm ∧ Answers t .done ∧
      { t with front := s.front, prm := s.prm, regs := s.regs, chs := s.chs, dies := s.dies, resp := s.resp } = s)
    ∧ (Reaches s a (prA 4) ∧ Manager s a ∧ s.front.role = 0 ∧ s.prm.start = .idle ∧ s.pairEn = true ∧ (persistent (s.rf (prA
      0) 23 16) = true ∧ s.slAttr (s.rf (prA 0) 23 16) 2 = true ∧ s.slSize (s.rf (prA 0) 23 16) = 2) → Gives (.prmStart a) s
      fun t => t = { s with prm := { s.prm with start := .listen, heard := s.front.ownLow }, resp := ⟨.done, 0⟩ })
    ∧ (Reaches s a (prA 4) ∧ Manager s a ∧ NoHart a ∧ s.front.role = 0 ∧ s.prm.start = .idle ∧ s.pairEn = true ∧ ¬ (persistent
      (s.rf (prA 0) 23 16) = true ∧ s.slAttr (s.rf (prA 0) 23 16) 2 = true ∧ s.slSize (s.rf (prA 0) 23 16) = 2) → Gives
      (.prmStart a) s fun t => Refuses s t .keyUsage)
    ∧ (Reaches s a (prA 4) ∧ NoHart a ∧ ¬ Manager s a → (Gives (.prmStart a) s fun t => Denies s t (prA 4)) ∧ (Gives
      (.vintageGo a) s fun t => Denies s t (prA 4)) ∧ (Gives (.handover a) s fun t => Denies s t (prA 4)) ∧ (Gives
      (.pairWake a) s fun t => Denies s t (prA 4)))
    ∧ (Reaches s a (prA 4) ∧ Manager s a → Gives (.pairWake a) s fun t => t =
      { s with front := { s.front with hbo := 1000, hboLeft := 500000 }, resp := ⟨.done, 0⟩ })
    ∧ (Reaches s a (prA 4) ∧ Manager s a ∧ s.front.role = 3 ∧ s.prm.vin = .idle ∧ s.vinTooLong = false ∧ VinFits s → Gives
      (.vintageGo a) s fun t => VinCut s t s.prm.hand ∧ Answers t .done ∧
      { t with prm := s.prm, clr := s.clr, mem := s.mem, eccBad := s.eccBad, harts := s.harts, regs := s.regs, resp := s.resp }
      = s)
    ∧ (Reaches s a (prA 4) ∧ Manager s a ∧ NoHart a ∧ s.vinTooLong = true → Gives (.vintageGo a) s fun t => Refuses s t
      .length)
    ∧ (Reaches s a (prA 4) ∧ Manager s a ∧ NoHart a ∧ s.vinTooLong = false ∧ (s.front.role ≠ 3 ∨ s.prm.vin ≠ .idle) → Gives
      (.vintageGo a) s fun t => Refuses s t .conflict)
    ∧ (Reaches s a (prA 4) ∧ Manager s a ∧ s.front.role = 3 ∧ s.prm.vin = .idle ∧ s.vinTooLong = false ∧ s.accepts 4 = false →
      Gives (.vintageGo a) s fun t => VinFailed s t (setFld (setFld (s.rd (prA 0x34)) 31 30 2) 23 16 0) .aborted [] ∧ t.prm
      = { s.prm with vseq := nextVseq s, vin := .idle } ∧ t.clr = { s.clr with pairEnd := none } ∧ RegsBut s t [prA 0x34] ∧
      Answers t .done ∧ { t with prm := s.prm, clr := s.clr, regs := s.regs, reports := s.reports, resp := s.resp } = s)
    ∧ (Reaches s a (prA 4) ∧ Manager s a ∧ s.front.role = 3 ∧ s.prm.vin = .idle ∧ s.vinTooLong = false ∧ s.accepts 4 = true ∧
      (sramSpan (s.rd (prA 0x30)).toNat s.vinLen = false ∨ (s.rd (prA 0x2C)).toNat ≠ 0 ∧ sramSpan (s.rd (prA 0x28)).toNat
      (s.rd (prA 0x2C)).toNat = false) → Gives (.vintageGo a) s fun t => VinFailed s t (setFld (setFld (s.rd (prA 0x34)) 31
      30 2) 23 16 0) .length [] ∧ t.prm = { s.prm with vseq := nextVseq s, vin := .idle } ∧ t.clr =
      { s.clr with pairEnd := none } ∧ RegsBut s t [prA 0x34] ∧ Answers t .done ∧
      { t with prm := s.prm, clr := s.clr, regs := s.regs, reports := s.reports, resp := s.resp } = s)
    ∧ (Reaches s a (prA 4) ∧ Manager s a ∧ s.front.role = 3 ∧ s.prm.vin = .idle ∧ s.vinTooLong = false ∧ s.accepts 4 = true ∧
      sramSpan (s.rd (prA 0x30)).toNat s.vinLen = true ∧ ((s.rd (prA 0x2C)).toNat = 0 ∨ sramSpan (s.rd (prA 0x28)).toNat
      (s.rd (prA 0x2C)).toNat = true) ∧ s.rf (prA 0x24) 15 0 ≤ s.rf (prA 0x24) 31 16 ∧ (s.rd (prA 0x30)).toNat % 32 = 0 ∧
      s.clr.snap = some m → Gives (.vintageGo a) s fun t => VinFailed s t (setFld (setFld (s.rd (prA 0x34)) 31 30 2) 23 16
      0) .conflict [] ∧ t.prm = { s.prm with vseq := nextVseq s, vin := .idle } ∧ t.clr = { s.clr with pairEnd := none } ∧
      RegsBut s t [prA 0x34] ∧ Answers t .done ∧
      { t with prm := s.prm, clr := s.clr, regs := s.regs, reports := s.reports, resp := s.resp } = s)
    ∧ (Reaches s a (prA 4) ∧ Manager s a ∧ NoHart a ∧ (s.front.role ≠ 3 ∨ s.rb (prA 8) 14 = false) → Gives (.handover a) s fun
      t => Refuses s t .conflict)
    ∧ (Reaches s a (prA 4) ∧ Manager s a ∧ s.front.role = 3 ∧ s.rb (prA 8) 14 = true ∧ s.prm.vin ≠ .idle → Gives (.handover a)
      s fun t => t = { s with prm := { s.prm with hand := .wait }, resp := ⟨.done, 0⟩ })
    ∧ (Reaches s a (prA 4) ∧ Manager s a ∧ s.front.role = 3 ∧ s.rb (prA 8) 14 = true ∧ s.prm.vin = .idle ∧ s.vinTooLong =
      false ∧ VinFits s → Gives (.handover a) s fun t => VinCut s t .final ∧ Answers t .done ∧
      { t with prm := s.prm, clr := s.clr, mem := s.mem, eccBad := s.eccBad, harts := s.harts, regs := s.regs, resp := s.resp }
      = s)
    ∧ (Reaches s a (prA 4) ∧ Manager s a ∧ s.front.role = 3 ∧ s.rb (prA 8) 14 = true ∧ s.prm.vin = .idle ∧ s.vinTooLong = true
      → Gives (.handover a) s fun t => VinFailed s t (s.rd (prA 0x34)) .length [] ∧ t.prm = { s.prm with hand := .none } ∧
      RegsBut s t [prA 0x34] ∧ Answers t .done ∧
      { t with prm := s.prm, regs := s.regs, reports := s.reports, resp := s.resp } = s)
    ∧ (s.logicOn = true ∧ s.front.role = 3 ∧ s.rb (prA 0x20) 31 = true ∧ s.pairPoll = u ∧ u.prm.vin = .ack → Gives
      .vintageAutoTick s fun t => t.rf (prA 0x34) 15 8 = min (u.rf (prA 0x34) 15 8 + 1) 255 ∧ (∀ i, i < 32 → ¬ (8 ≤ i ∧ i ≤
      15) → bit (t.rd (prA 0x34)) i = bit (u.rd (prA 0x34)) i) ∧ RegsBut u t [prA 0x34] ∧ { t with regs := u.regs } = u)
    ∧ (s.logicOn = true ∧ s.front.role = 3 ∧ s.rb (prA 0x20) 31 = true ∧ s.pairPoll = u ∧ u.prm.vin = .idle ∧ u.vinTooLong =
      false ∧ VinFits u → Gives .vintageAutoTick s fun t => VinCut u t u.prm.hand ∧
      { t with prm := u.prm, clr := u.clr, mem := u.mem, eccBad := u.eccBad, harts := u.harts, regs := u.regs } = u)
    ∧ (s.logicOn = true ∧ s.front.role = 3 ∧ s.rb (prA 0x20) 31 = true ∧ s.pairPoll = u ∧ u.prm.vin = .idle ∧ u.vinTooLong =
      true → Gives .vintageAutoTick s fun t => VinFailed u t (u.rd (prA 0x34)) .length [] ∧ RegsBut u t [prA 0x34] ∧
      { t with regs := u.regs, reports := u.reports } = u)
    ∧ ((s.logicOn = false ∨ s.front.role ≠ 3 ∨ s.rb (prA 0x20) 31 = false) → Gives .vintageAutoTick s fun t => t = s)
    ∧ (s.logicOn = true ∧ s.prm.vin = .ack ∧ s.prm.hand ≠ .wait → Gives .vintageAckTimeout s fun t => VinFailed s t (s.rd (prA
      0x34)) .timeout [] ∧ RegsBut s t [prA 0x34] ∧ t.prm =
      { s.prm with vin := .idle, hand := if s.prm.hand = .final then .none else s.prm.hand } ∧
      { t with prm := s.prm, regs := s.regs, reports := s.reports } = s)
    ∧ (s.logicOn = true ∧ s.prm.vin = .ack → Gives .vintageAckTimeout s fun t => t = (s.vinClose .timeout).handRun)
    ∧ ((s.logicOn = false ∨ s.prm.vin ≠ .ack) → Gives .vintageAckTimeout s fun t => t = s)
    ∧ ((s.logicOn = false ∨ s.front.role = 0) → Gives .beatTick s fun t => t = s)
    ∧ (s.logicOn = true ∧ s.front.role ≠ 0 ∧ s.pairPoll = u ∧ u.pairEn = false → Gives .beatTick s fun t => t =
      { u with front := { u.front with hbo := (if u.front.role = 2 then 50 else if u.front.role = 3 then 20 else u.front.hbo), hboLeft := if u.front.role = 2 then 25000 else if u.front.role = 3 then 10000 else u.front.hboLeft } })
    ∧ (s.logicOn = true ∧ s.front.role ≠ 0 ∧ s.pairPoll = u ∧ u.pairEn = true ∧ u.pairKey = some key ∧ u.prm.out = [] → Gives
      .beatTick s fun t => t.front =
      { u.front with hbo := (if u.front.role = 2 then 50 else if u.front.role = 3 then 20 else u.front.hbo), hboLeft := if u.front.role = 2 then 25000 else if u.front.role = 3 then 10000 else u.front.hboLeft }
      ∧ PairSends (unsent u t u.esw.pairIn) t key 1 (beBytes 4 u.lastVseq ++ beBytes 4 u.healthRun) ∧
      { t.prm with seq := u.prm.seq, out := [] } = u.prm ∧ { t with front := u.front, prm := u.prm, esw := u.esw } = u)
    ∧ (s.logicOn = true ∧ s.front.role ≠ 0 ∧ s.pairPoll = u ∧ u.pairEn = true ∧ u.pairKey = none → Gives .beatTick s fun t =>
      t =
      { u with front := { u.front with hbo := (if u.front.role = 2 then 50 else if u.front.role = 3 then 20 else u.front.hbo), hboLeft := if u.front.role = 2 then 25000 else if u.front.role = 3 then 10000 else u.front.hboLeft } })
    ∧ (s.logicOn = true ∧ s.front.role ≠ 0 ∧ s.pairPoll = u ∧ u.pairEn = true → Gives .beatTick s fun t => t = State.pairSend
      { u with front := { u.front with hbo := (if u.front.role = 2 then 50 else if u.front.role = 3 then 20 else u.front.hbo), hboLeft := if u.front.role = 2 then 25000 else if u.front.role = 3 then 10000 else u.front.hboLeft } }
      1 (beBytes 4 u.lastVseq ++ beBytes 4 u.healthRun))
    ∧ (s.logicOn = true ∧ s.pairEn = true ∧ s.prm.out = [] ∧ s.prm.vin = .copy ∧ s.prm.line ≠ .unknown ∧ s.prm.frame ≠
      .unknown ∧ s.prm.header.length = 60 ∧ (s.bridge 3).pairUp = (s.rf (prA 8) 18 16 != 0 && s.linkUp 14 && s.swOn) ∧
      s.clr.pairEnd = some .done ∧ s.pairKey = some key → Gives (.peerPathSilent false) s fun t => t.rd (prA 8) = pairStat
      (s.rd (prA 8)) .silent s.prm.frame ∧ t.prm =
      { s.prm with line := .silent, vin := .ack, seq := s.prm.seq + ((vinFld s.prm.header 8 4 - 0x40) + 1407) / 1408 + 1, out := t.prm.out }
      ∧ t.clr = { s.clr with pairEnd := none } ∧ t.ldBytes (s.rd (prA 0x30)).toNat 64 = (s.prm.header ++ leBytes 4 (crc32
      (s.prm.header ++ s.ldBytes ((s.rd (prA 0x30)).toNat + 0x40) (vinFld s.prm.header 8 4 - 0x40)))) ∧ MemBut s t (s.rd
      (prA 0x30)).toNat 64 ∧ StoreSide s t ∧ Reported s t (peerFaults (s.rd (prA 8)) .silent s.prm.frame) ∧ RegsBut s t [prA
      8] ∧ { t.esw with ports := s.esw.ports, nextUid := s.esw.nextUid } = s.esw ∧
      { t with prm := s.prm, clr := s.clr, mem := s.mem, eccBad := s.eccBad, harts := s.harts, regs := s.regs, reports := s.reports, esw := s.esw }
      = s)
    ∧ (s.logicOn = true ∧ s.pairEn = true ∧ s.prm.out = [] ∧ s.prm.vin = .copy ∧ s.prm.line ≠ .unknown ∧ s.prm.frame ≠
      .unknown ∧ s.prm.header.length = 60 ∧ (s.bridge 3).pairUp = (s.rf (prA 8) 18 16 != 0 && s.linkUp 14 && s.swOn) ∧
      s.clr.pairEnd = some st ∧ st ≠ .done ∧ s.prm.hand ≠ .wait → Gives (.peerPathSilent false) s fun t => t.rd (prA 8) =
      pairStat (s.rd (prA 8)) .silent s.prm.frame ∧ VinFailed s t (s.rd (prA 0x34)) .aborted (peerFaults (s.rd (prA 8))
      .silent s.prm.frame) ∧ RegsBut s t [prA 0x34, prA 8] ∧ t.prm =
      { s.prm with line := .silent, vin := .idle, hand := if s.prm.hand = .final then .none else s.prm.hand } ∧ t.clr =
      { s.clr with pairEnd := none } ∧ { t with prm := s.prm, clr := s.clr, regs := s.regs, reports := s.reports } = s)
    ∧ (s.logicOn = true ∧ (10 ≤ us ∧ us ≤ 30 ∧ r = 3 ∨ 40 ≤ us ∧ us ≤ 60 ∧ r = 2) ∧ PairQuiet s r ∧ ¬ (r = 3 ∧ s.front.role =
      3 ∧ s.posB = true) → Gives (.heartbeatPulseReceive us) s fun t => t.rd (prA 8) = pairStat (setFld (s.rd (prA 8)) 18 16
      r) .delivering s.prm.frame ∧ t.prm =
      { s.prm with line := .delivering, heard := if r = 3 ∧ s.prm.start = .listen then true else s.prm.heard } ∧ Reported s
      t (peerFaults (s.rd (prA 8)) .delivering s.prm.frame) ∧ RegsBut s t [prA 8] ∧
      { t with prm := s.prm, regs := s.regs, reports := s.reports } = s)
    ∧ (s.logicOn = true ∧ (10 ≤ us ∧ us ≤ 30 ∧ r = 3 ∨ 40 ≤ us ∧ us ≤ 60 ∧ r = 2) ∧ PairQuiet s r ∧ r = 3 ∧ s.front.role = 3 ∧
      s.posB = true → Gives (.heartbeatPulseReceive us) s fun t => PermitSets s t 2 false [prA 8] ∧ t.rd (prA 8) = pairStat
      (setFld (s.rd (prA 8)) 18 16 r) .delivering s.prm.frame ∧ t.prm = standbyPrm s
      { s.prm with line := .delivering, hand := .none } ∧ Reported s t (peerFaults (s.rd (prA 8)) .delivering s.prm.frame ++
      [(0x7043, 0, 0)]) ∧
      { t with front := s.front, prm := s.prm, regs := s.regs, chs := s.chs, dies := s.dies, reports := s.reports } = s)
    ∧ (s.logicOn = true ∧ (10 ≤ us ∧ us ≤ 30 ∧ r = 3 ∨ 40 ≤ us ∧ us ≤ 60 ∧ r = 2) ∧ s.prm.out = [] ∧ s.prm.vin ≠ .copy ∧
      (s.bridge 3).pairUp = false ∧ s.linkUp 14 = true ∧ s.swOn = true ∧ s.front.role ≠ 3 → Gives (.heartbeatPulseReceive
      us) s fun t => t.bridge 3 = { s.bridge 3 with pairUp := true } ∧ (∀ i, i ≠ 3 → t.bridge i = s.bridge i) ∧ t.rf (prA 8)
      18 16 = r ∧ RegsBut s t [prA 8] ∧ { t with prm := s.prm, regs := s.regs, reports := s.reports, brg := s.brg } = s)
    ∧ (s.logicOn = true ∧ (10 ≤ us ∧ us ≤ 30 ∧ r = 3 ∨ 40 ≤ us ∧ us ≤ 60 ∧ r = 2) → Gives (.heartbeatPulseReceive us) s fun t
      => t = State.pairPoll (((((s.setPrm { s.prm with line := .delivering }).wf (prA 8) 18 16 r).peerSync).hear r).yieldTo
      r))
    ∧ ((us < 10 ∨ 30 < us ∧ us < 40 ∨ 60 < us) → Gives (.heartbeatPulseReceive us) s fun t => t = s)
    ∧ (s.logicOn = true ∧ s.pairEn = true ∧ PairQuiet s (s.rf (prA 8) 18 16) ∧ b = false → Gives (.peerPathSilent b) s fun t
      => t.rd (prA 8) = pairStat (s.rd (prA 8)) .silent s.prm.frame ∧ t.prm = { s.prm with line := .silent } ∧ Reported s t
      (peerFaults (s.rd (prA 8)) .silent s.prm.frame) ∧ RegsBut s t [prA 8] ∧
      { t with prm := s.prm, regs := s.regs, reports := s.reports } = s)
    ∧ (s.logicOn = true ∧ s.pairEn = true ∧ PairQuiet s (s.rf (prA 8) 18 16) ∧ b = true ∧ s.prm.vin = .idle → Gives
      (.peerPathSilent b) s fun t => t.rd (prA 8) = pairStat (s.rd (prA 8)) s.prm.line .silent ∧ t.prm =
      { s.prm with frame := .silent } ∧ Reported s t (peerFaults (s.rd (prA 8)) s.prm.line .silent) ∧ RegsBut s t [prA 8] ∧
      { t with prm := s.prm, regs := s.regs, reports := s.reports } = s)
    ∧ (s.logicOn = true ∧ s.pairEn = true ∧ PairQuiet s (s.rf (prA 8) 18 16) ∧ b = true ∧ s.prm.vin = .ack ∧ s.prm.hand ≠
      .wait → Gives (.peerPathSilent b) s fun t => t.rd (prA 8) = pairStat (s.rd (prA 8)) s.prm.line .silent ∧ VinFailed s t
      (s.rd (prA 0x34)) .farError (peerFaults (s.rd (prA 8)) s.prm.line .silent) ∧ RegsBut s t [prA 0x34, prA 8] ∧ t.prm =
      { s.prm with frame := .silent, vin := .idle, hand := if s.prm.hand = .final then .none else s.prm.hand } ∧
      { t with prm := s.prm, regs := s.regs, reports := s.reports } = s)
    ∧ (s.logicOn = true ∧ s.pairEn = true ∧ b = false → Gives (.peerPathSilent b) s fun t => t = State.pairPoll ((s.setPrm
      { s.prm with line := .silent }).peerSync))
    ∧ (s.logicOn = true ∧ s.pairEn = true ∧ b = true → Gives (.peerPathSilent b) s fun t => t = State.pairPoll (if s.prm.vin ≠
      .idle then (((s.setPrm { s.prm with frame := .silent }).peerSync).vinClose .farError).handRun else ((s.setPrm
      { s.prm with frame := .silent }).peerSync)))
    ∧ (s.logicOn = true ∧ s.pairEn = false → Gives (.peerPathSilent b) s fun t => t.rd (prA 8) = pairStat (s.rd (prA 8))
      .unknown .unknown ∧ t.prm = { s.prm with line := .unknown, frame := .unknown } ∧ RegsBut s t [prA 8] ∧
      { t with prm := s.prm, regs := s.regs } = s)
    ∧ (s.logicOn = false → Gives (.peerPathSilent b) s fun t => t = s)
    ∧ (s.front.role ≠ 0 ∧ (s.link 2).up = true ∧ s.logicOn = true → Gives .beatCommandAbsent s fun t => PermitSets s t 0 (if
      s.front.role = 3 then false else s.front.ownLow) [] ∧ t.prm =
      { s.prm with start := .idle, heard := false, armed := false, hand := .none } ∧ Reported s t [(0x7047, 0, 0)] ∧
      { t with front := s.front, prm := s.prm, regs := s.regs, chs := s.chs, dies := s.dies, reports := s.reports } = s)
    ∧ (s.front.role ≠ 0 ∧ ((s.link 2).up = false ∨ s.logicOn = false) → Gives .beatCommandAbsent s fun t => PermitSets s t 0
      (if s.front.role = 3 then false else s.front.ownLow) [] ∧ t.prm =
      { s.prm with start := .idle, heard := false, armed := false, hand := .none } ∧ (t.dieLog 3).kept.getLast?.map (fun x
      => (x.id, x.noTime)) = some (0x7047, !s.logicOn) ∧ t.dieLog 1 = s.dieLog 1 ∧ t.dieLog 2 = s.dieLog 2 ∧
      { t with front := s.front, prm := s.prm, regs := s.regs, chs := s.chs, dies := s.dies, dieLogs := s.dieLogs } = s)
    ∧ (s.front.role = 0 → Gives .beatCommandAbsent s fun t => t = s)
    ∧ (s.logicOn = true ∧ s.prm.start = .listen ∧ s.prm.heard = true → Gives .pairListenEnd s fun t => PermitSets s t 2 (if
      s.front.role = 3 then false else s.front.ownLow) [] ∧ t.prm = standbyPrm s s.prm ∧
      { t with front := s.front, prm := s.prm, regs := s.regs, chs := s.chs, dies := s.dies } = s)
    ∧ (s.logicOn = true ∧ s.prm.start = .listen ∧ s.prm.heard = false → Gives .pairListenEnd s fun t => t =
      { s with prm := { s.prm with start := .guard } })
    ∧ ((s.logicOn = false ∨ s.prm.start ≠ .listen) → Gives .pairListenEnd s fun t => t = s)
    ∧ (s.logicOn = true ∧ b = false → Gives (.pairOwnChange b) s fun t => PermitSets s t s.front.role false [prA 8] ∧ t.rd
      (prA 8) = setBit (s.rd (prA 8)) 13 false ∧ t.prm = s.prm ∧
      { t with front := s.front, prm := s.prm, regs := s.regs, chs := s.chs, dies := s.dies } = s)
    ∧ (s.logicOn = true ∧ b = true ∧ s.prm.start = .idle → Gives (.pairOwnChange b) s fun t => PermitSets s t s.front.role
      true [] ∧ t.prm = s.prm ∧ { t with front := s.front, prm := s.prm, regs := s.regs, chs := s.chs, dies := s.dies } = s)
    ∧ (s.logicOn = true ∧ b = true ∧ s.prm.start = .listen → Gives (.pairOwnChange b) s fun t => PermitSets s t s.front.role
      true [] ∧ t.prm = { s.prm with heard := true } ∧
      { t with front := s.front, prm := s.prm, regs := s.regs, chs := s.chs, dies := s.dies } = s)
    ∧ (s.logicOn = true ∧ b = true ∧ s.prm.start = .guard ∧ s.front.role = 0 ∧ s.front.permit = false → Gives (.pairOwnChange
      b) s fun t => t = { s with front := { s.front with role := 2, ownLow := true }, prm := standbyPrm s s.prm })
    ∧ (s.logicOn = false → Gives (.pairOwnChange b) s fun t => PermitSets s t s.front.role b [] ∧ t.prm = s.prm ∧
      { t with front := s.front, prm := s.prm, regs := s.regs, chs := s.chs, dies := s.dies } = s)
    ∧ (s.logicOn = true ∧ s.front.ownLow = false ∧ s.front.role = 0 ∧ s.prm.start = .guard → Gives .pairClaim s fun t =>
      PermitSets s t 3 true [prA 8] ∧ t.rd (prA 8) = setBit (s.rd (prA 8)) 13 false ∧ t.prm =
      { s.prm with start := .idle, heard := false, armed := false, runFrom := s.ticks, vseq := s.vinWin.elim s.prm.vseq (fun h => s.ldLE (vinA h + 4) 4) }
      ∧ { t with front := s.front, prm := s.prm, regs := s.regs, chs := s.chs, dies := s.dies } = s)
    ∧ (s.logicOn = true ∧ s.front.ownLow = false ∧ s.front.role = 2 ∧ (s.peer = 3 ∨ s.prm.armed = true) ∧ s.aoState ≠ 1 ∧
      s.vinWin = none → Gives .pairClaim s fun t => PermitSets s t 3 true [prA 8] ∧ t.rd (prA 8) = setBit (setBit (s.rd (prA
      8)) 13 false) 15 true ∧ t.prm =
      { s.prm with start := .idle, heard := false, armed := false, runFrom := s.ticks, vseq := s.vinWin.elim s.prm.vseq (fun h => s.ldLE (vinA h + 4) 4) }
      ∧ { t with front := s.front, prm := s.prm, regs := s.regs, chs := s.chs, dies := s.dies } = s)
    ∧ (s.logicOn = true ∧ (s.front.ownLow = true ∨ s.front.role = 2 ∧ (s.peer = 1 ∨ s.peer = 2) ∧ s.prm.armed = false ∨
      s.front.role = 2 ∧ s.aoState = 1) → Gives .pairClaim s fun t => t = s)
    ∧ (s.logicOn = true ∧ s.front.ownLow = false ∧ s.front.role = 2 ∧ (s.peer = 3 ∨ s.prm.armed = true) ∧ s.aoState ≠ 1 ∧
      s.vinWin = some n ∧ (∀ k, k < 64 → (s.chI k).dual = false) ∧ s.accepts 4 = true ∧ s.clr.snap = none ∧ (s.ldLE (vinA n
      + 0x12) 2) < 65536 ∧ sramSpan (s.rd (prA 0x28)).toNat (s.ldLE (vinA n + 0x14) 4) = true → Gives .pairClaim s fun t =>
      t.front = { s.front with role := 3, ownLow := true, permit := true } ∧ t.rd (prA 8) = setBit (setBit (s.rd (prA 8)) 13
      false) 15 true ∧ t.prm =
      { s.prm with start := .idle, heard := false, armed := false, runFrom := s.ticks, vseq := s.vinWin.elim s.prm.vseq (fun h => s.ldLE (vinA h + 4) 4) }
      ∧ (∀ i ∈ List.range ((s.ldLE (vinA n + 0x12) 2) + 1 - (s.ldLE (vinA n + 0x10) 2)), ∀ k ∈ List.range 8, t.rd (enA
      ((s.ldLE (vinA n + 0x10) 2) + i) k) = if k = 1 then wd (s.ldLE (vinA n + 0x40 + i * 0x20 + 4 * 1) 4) &&& 0xFFFF0300
      else if k < 4 then wd (s.ldLE (vinA n + 0x40 + i * 0x20 + 4 * k) 4) else maskedWrite (regDesc (enA ((s.ldLE (vinA n +
      0x10) 2) + i) k)) (s.rd (enA ((s.ldLE (vinA n + 0x10) 2) + i) k)) (wd (s.ldLE (vinA n + 0x40 + i * 0x20 + 4 * k) 4)))
      ∧ t.ldBytes (s.rd (prA 0x28)).toNat (s.ldLE (vinA n + 0x14) 4) = s.ldBytes (vinA n + 0x40 + ((s.ldLE (vinA n + 0x12)
      2) + 1 - (s.ldLE (vinA n + 0x10) 2)) * 0x20) (s.ldLE (vinA n + 0x14) 4) ∧ MemBut s t (s.rd (prA 0x28)).toNat (s.ldLE
      (vinA n + 0x14) 4) ∧ StoreSide s t ∧ (∀ x, (x < 0x80000000 ∨ 0x82000000 ≤ x) → x ≠ prA 8 → (∀ i ∈ List.range ((s.ldLE
      (vinA n + 0x12) 2) + 1 - (s.ldLE (vinA n + 0x10) 2)), x < enA ((s.ldLE (vinA n + 0x10) 2) + i) 0 ∨ enA ((s.ldLE (vinA
      n + 0x10) 2) + i) 7 < x) → t.rd x = s.rd x) ∧
      { t with front := s.front, prm := s.prm, regs := s.regs, chs := s.chs, dies := s.dies, mem := s.mem, eccBad := s.eccBad, harts := s.harts }
      = s)
    ∧ (s.logicOn = true ∧ s.front.ownLow = false ∧ s.front.role = 2 ∧ (s.peer = 3 ∨ s.prm.armed = true) ∧ s.aoState ≠ 1 ∧
      s.vinWin = some n → Gives .pairClaim s fun t => t = (((s.claim).applyOutMap (s.ldLE (vinA n + 0x18) 8)).vinRestore
      n).wb (prA 8) 15 true)
    ∧ (s.logicOn = true ∧ s.front.ownLow = false ∧ s.front.role = 2 ∧ (s.peer = 3 ∨ s.prm.armed = true) ∧ s.aoState ≠ 1 ∧
      s.vinWin = some n ∧ c < 64 ∧ (s.chI c).dual = true ∧ (∀ k, k < 64 → (s.chI k).parEn = false ∧ (k ≠ c → (s.chI k).dual
      = false)) ∧ s.rf (chA c 4) 1 0 = 1 ∧ (∀ k, k < 16 → s.rb (winA (c / 32) k 0) 28 = false ∧ s.rb (winA (c / 32) k 0) 30
      = false) ∧ s.brUp (c / 32) = true ∧ s.bridge (c / 32) = {} → Gives .pairClaim s fun t => t.rb (chA c 0xC) 0 = (s.ldLE
      (vinA n + 0x18) 8).testBit c ∧ t.rb (chA c 0xC) 1 = s.rb (chA c 0xC) 1 ∧ t.front.role = 3)
    ∧ (s.logicOn = true ∧ s.front.role = 2 ∧ s.peer = 3 ∧ s.front.ownLow = true ∧ s.rb (prA 8) 13 = false → Gives
      .takeoverBlocked s fun t => t.rd (prA 8) = setBit (s.rd (prA 8)) 13 true ∧ RegsBut s t [prA 8] ∧ Reported s t
      [(0x7042, 0, 0)] ∧ { t with regs := s.regs, reports := s.reports } = s)
    ∧ ((s.front.role ≠ 2 ∨ s.peer ≠ 3 ∨ s.front.ownLow = false) → Gives .takeoverBlocked s fun t => t = s)
    ∧ (s.logicOn = true ∧ s.front.role = 2 ∧ s.pairPoll = u ∧ u.pairKey = some key ∧ u.prm.out = [] → Gives .healthReportTick
      s fun t => PairSends (unsent u t u.esw.pairIn) t key 5 (beBytes 4 u.healthWord ++ beBytes 4 u.lastVseq) ∧
      t.prm.runFrom = (if wd u.healthWord &&& u.rd (prA 0x44) = u.rd (prA 0x44) then u.prm.runFrom else u.ticks) ∧
      { t.prm with seq := u.prm.seq, out := [], runFrom := u.prm.runFrom } = u.prm ∧ { t with prm := u.prm, esw := u.esw } =
      u)
    ∧ (s.logicOn = true ∧ s.front.role = 2 ∧ s.pairPoll = u → Gives .healthReportTick s fun t => t = (u.setPrm
      { u.prm with runFrom := if wd u.healthWord &&& u.rd (prA 0x44) = u.rd (prA 0x44) then u.prm.runFrom else u.ticks }).pairSend
      5 (beBytes 4 u.healthWord ++ beBytes 4 u.lastVseq))
    ∧ ((s.logicOn = false ∨ s.front.role ≠ 2) → (Gives .healthReportTick s fun t => t = s) ∧ (Gives (.permitSelfTest b) s fun
      t => t = s))
    ∧ (s.logicOn = true ∧ s.front.role = 2 → Gives (.permitSelfTest b) s fun t => t =
      { s with prm := { s.prm with selfTest := b && (List.range 64).all fun k => !(s.chI k).dual || s.chState k == 0 } })
    ∧ (s.logicOn = true ∧ s.front.role = 3 → Gives .peerHealthMissing s fun t => t.prm = { s.prm with runFrom := s.ticks } ∧
      Reported s t [(0x7045, 0, 0)] ∧ { t with prm := s.prm, reports := s.reports } = s)
    ∧ ((s.logicOn = false ∨ s.front.role ≠ 3) → Gives .peerHealthMissing s fun t => t = s)
    ∧ (Gives .handoverArmExpiry s fun t => t = { s with prm := { s.prm with armed := false } })

/-- A frame that fails its checks is dropped and counted, and reported at most once a second. An accepted one advances the
  last number accepted and the partner's role, arms a HOME module and ends a hand-over as its flags and role say, and then:
  a HEARTBEAT makes the frame path deliver and may make an ACTIVE module at position B yield; VIN_DATA is staged; VIN_COMMIT
  of a whole vintage writes it into the half that does not hold the winner and is acknowledged with DONE, any other is
  acknowledged with another status (which one is the model's free value, log 2); VIN_ACK ends the vintage it names, and a
  hand-over with it; HEALTH is kept and an unhealthy word reported; BR_RSP answers the transaction that bears its tag;
  BR_REQ runs its access under the import entry that covers it and is answered with one BR_RSP. Nothing else changes. -/
def Obligations.PairFrames : Prop :=
  ∀ (s : State) (f : PairFrame) (x : HostRx) (l : List HostRx) (key : List Byte) (n : Nat) (y : BrTx) (st : Status) (b : Bool),
    (PairGets s f 1 x l ∧ PairQuiet s f.role ∧ ¬ (f.role = 3 ∧ s.front.role = 3 ∧ s.posB = true) → Gives .pairHeartbeatFrame
      s fun t => PairLeft s t l ∧ t.rd (prA 8) = pairStat (tookStat s f) s.prm.line .delivering ∧ t.prm =
      { tookPrm s f with frame := .delivering, heard := if f.role = 3 ∧ s.prm.start = .listen then true else s.prm.heard } ∧
      Reported s t (peerFaults (tookStat s f) s.prm.line .delivering) ∧ RegsBut s t [prA 8] ∧
      { t with prm := s.prm, esw := s.esw, regs := s.regs, reports := s.reports } = s)
    ∧ (PairGets s f 1 x l ∧ PairQuiet s f.role ∧ f.role = 3 ∧ s.front.role = 3 ∧ s.posB = true → Gives .pairHeartbeatFrame s
      fun t => PairLeft s t l ∧ PermitSets s t 2 false [prA 8] ∧ t.rd (prA 8) = pairStat (tookStat s f) s.prm.line
      .delivering ∧ t.prm = standbyPrm s { tookPrm s f with frame := .delivering } ∧ Reported s t (peerFaults (tookStat s f)
      s.prm.line .delivering ++ [(0x7043, 0, 0)]) ∧
      { t with front := s.front, prm := s.prm, esw := s.esw, regs := s.regs, chs := s.chs, dies := s.dies, reports := s.reports }
      = s)
    ∧ (PairGets s f 1 x l → Gives .pairHeartbeatFrame s fun t => t = State.pairPoll (State.yieldTo (State.hear (State.peerSync
      ((took s f l).setPrm { tookPrm s f with frame := .delivering })) f.role) f.role))
    ∧ (PairGets s f 2 x l ∧ PairQuiet s f.role ∧ s.front.role = 2 ∧ 0x40 ≤ (beNat (slice f.payload 4 4)) ∧ (beNat (slice
      f.payload 4 4)) < 0x200000 ∧ sramSpan (s.rd (prA 0x30)).toNat 0x200000 = true → Gives .pairVinData s fun t => PairLeft
      s t l ∧ t.rd (prA 8) = tookStat s f ∧ t.ldBytes ((s.rd (prA 0x30)).toNat + (beNat (slice f.payload 4 4))) (List.length
      ((slice f.payload 8 1408).take (0x200000 - (beNat (slice f.payload 4 4))))) = ((slice f.payload 8 1408).take (0x200000
      - (beNat (slice f.payload 4 4)))) ∧ MemBut s t ((s.rd (prA 0x30)).toNat + (beNat (slice f.payload 4 4))) (List.length
      ((slice f.payload 8 1408).take (0x200000 - (beNat (slice f.payload 4 4))))) ∧ StoreSide s t ∧ t.prm =
      { tookPrm s f with rxSeq := some (beNat (slice f.payload 0 4)), rxOffs := (if s.prm.rxSeq = some (beNat (slice f.payload 0 4)) then s.prm.rxOffs else []) ++ [(beNat (slice f.payload 4 4))] }
      ∧ RegsBut s t [prA 8] ∧
      { t with prm := s.prm, esw := s.esw, regs := s.regs, mem := s.mem, eccBad := s.eccBad, harts := s.harts } = s)
    ∧ (PairGets s f 2 x l ∧ PairQuiet s f.role ∧ (s.front.role ≠ 2 ∨ (beNat (slice f.payload 4 4)) < 0x40 ∨ 0x200000 ≤ (beNat
      (slice f.payload 4 4))) → Gives .pairVinData s fun t => PairLeft s t l ∧ t.rd (prA 8) = tookStat s f ∧ t.prm = tookPrm
      s f ∧ RegsBut s t [prA 8] ∧ { t with prm := s.prm, esw := s.esw, regs := s.regs } = s)
    ∧ (PairGets s f 2 x l → Gives .pairVinData s fun t => t = State.pairPoll (if s.front.role = 2 ∧ 0x40 ≤ (beNat (slice
      f.payload 4 4)) ∧ (beNat (slice f.payload 4 4)) < 0x200000 ∧ sramSpan (s.rd (prA 0x30)).toNat 0x200000 = true then
      ((took s f l).memPut ((s.rd (prA 0x30)).toNat + (beNat (slice f.payload 4 4))) ((slice f.payload 8 1408).take
      (0x200000 - (beNat (slice f.payload 4 4))))).setPrm
      { tookPrm s f with rxSeq := some (beNat (slice f.payload 0 4)), rxOffs := (if s.prm.rxSeq = some (beNat (slice f.payload 0 4)) then s.prm.rxOffs else []) ++ [(beNat (slice f.payload 4 4))] }
      else (took s f l)))
    ∧ (PairGets s f 3 x l ∧ PairQuiet s f.role ∧ s.front.role = 2 ∧ s.pairKey = some key ∧ sramSpan (s.rd (prA 0x30)).toNat
      0x200000 = true ∧ leNat (slice f.payload 0 4) = 0x96405649 ∧ 0x40 ≤ (leNat (slice f.payload 8 4)) ∧ (leNat (slice
      f.payload 8 4)) ≤ 0x200000 ∧ s.prm.rxSeq = some (leNat (slice f.payload 4 4)) ∧ (∀ k ∈ List.range (((leNat (slice
      f.payload 8 4)) - 0x40 + 1407) / 1408), 0x40 + k * 1408 ∈ s.prm.rxOffs) ∧ crc32 (f.payload.take 0x3C ++ (s.ldBytes
      ((s.rd (prA 0x30)).toNat + 0x40) ((leNat (slice f.payload 8 4)) - 0x40))) = leNat (slice f.payload 0x3C 4) ∧
      f.payload.length = 64 → Gives .pairVinCommit s fun t => PairSends (unsent s t l) t key 4 (beBytes 4 (leNat (slice
      f.payload 4 4)) ++ [0, 0, 0, 0]) ∧ t.rd (prA 8) = tookStat s f ∧ t.ldBytes (vinA (if s.vinWin = some 0 then 1 else 0))
      64 = f.payload.take 64 ∧ t.ldBytes ((vinA (if s.vinWin = some 0 then 1 else 0)) + 0x40) ((leNat (slice f.payload 8 4))
      - 0x40) = (s.ldBytes ((s.rd (prA 0x30)).toNat + 0x40) ((leNat (slice f.payload 8 4)) - 0x40)) ∧ MemBut s t (vinA (if
      s.vinWin = some 0 then 1 else 0)) (leNat (slice f.payload 8 4)) ∧ StoreSide s t ∧ t.prm =
      { tookPrm s f with rxSeq := none, rxOffs := [], vinAt := some s.ticks, seq := t.prm.seq, out := t.prm.out } ∧ RegsBut
      s t [prA 8] ∧
      { t with prm := s.prm, esw := s.esw, regs := s.regs, mem := s.mem, eccBad := s.eccBad, harts := s.harts } = s)
    ∧ (PairGets s f 3 x l ∧ PairQuiet s f.role ∧ s.front.role = 2 ∧ s.pairKey = some key ∧ (s.prm.rxSeq ≠ some (leNat (slice
      f.payload 4 4)) ∨ ¬ (∀ k ∈ List.range (((leNat (slice f.payload 8 4)) - 0x40 + 1407) / 1408), 0x40 + k * 1408 ∈
      s.prm.rxOffs) ∨ crc32 (f.payload.take 0x3C ++ (s.ldBytes ((s.rd (prA 0x30)).toNat + 0x40) ((leNat (slice f.payload 8
      4)) - 0x40))) ≠ leNat (slice f.payload 0x3C 4)) → Gives .pairVinCommit s fun t => (∃ z ∈ failCodes, PairSends (unsent
      s t l) t key 4 (beBytes 4 (leNat (slice f.payload 4 4)) ++ [BitVec.ofNat 8 z, 0, 0, 0])) ∧ t.rd (prA 8) = tookStat s f
      ∧ t.prm = { tookPrm s f with seq := t.prm.seq, out := t.prm.out } ∧ t.free = s.free + 1 ∧ RegsBut s t [prA 8] ∧
      { t with prm := s.prm, esw := s.esw, regs := s.regs, free := s.free } = s)
    ∧ (PairGets s f 3 x l ∧ PairQuiet s f.role ∧ s.front.role ≠ 2 → Gives .pairVinCommit s fun t => PairLeft s t l ∧ t.rd (prA
      8) = tookStat s f ∧ t.prm = tookPrm s f ∧ RegsBut s t [prA 8] ∧ { t with prm := s.prm, esw := s.esw, regs := s.regs }
      = s)
    ∧ (PairGets s f 3 x l ∧ s.front.role = 2 ∧ sramSpan (s.rd (prA 0x30)).toNat 0x200000 = true ∧ leNat (slice f.payload 0 4)
      = 0x96405649 ∧ 0x40 ≤ (leNat (slice f.payload 8 4)) ∧ (leNat (slice f.payload 8 4)) ≤ 0x200000 ∧ s.prm.rxSeq = some
      (leNat (slice f.payload 4 4)) ∧ (∀ k ∈ List.range (((leNat (slice f.payload 8 4)) - 0x40 + 1407) / 1408), 0x40 + k *
      1408 ∈ s.prm.rxOffs) ∧ crc32 (f.payload.take 0x3C ++ (s.ldBytes ((s.rd (prA 0x30)).toNat + 0x40) ((leNat (slice
      f.payload 8 4)) - 0x40))) = leNat (slice f.payload 0x3C 4) → Gives .pairVinCommit s fun t => t = State.pairPoll
      (((((took s f l).memPut ((vinA (if s.vinWin = some 0 then 1 else 0)) + 0x40) (s.ldBytes ((s.rd (prA 0x30)).toNat +
      0x40) ((leNat (slice f.payload 8 4)) - 0x40))).memPut (vinA (if s.vinWin = some 0 then 1 else 0)) f.payload).setPrm
      { tookPrm s f with rxSeq := none, rxOffs := [], vinAt := some s.ticks }).pairSend 4 (beBytes 4 (leNat (slice f.payload
      4 4)) ++ [0, 0, 0, 0])))
    ∧ (PairGets s f 3 x l ∧ s.front.role = 2 ∧ ¬ (sramSpan (s.rd (prA 0x30)).toNat 0x200000 = true ∧ leNat (slice f.payload 0
      4) = 0x96405649 ∧ 0x40 ≤ (leNat (slice f.payload 8 4)) ∧ (leNat (slice f.payload 8 4)) ≤ 0x200000 ∧ s.prm.rxSeq = some
      (leNat (slice f.payload 4 4)) ∧ (∀ k ∈ List.range (((leNat (slice f.payload 8 4)) - 0x40 + 1407) / 1408), 0x40 + k *
      1408 ∈ s.prm.rxOffs) ∧ crc32 (f.payload.take 0x3C ++ (s.ldBytes ((s.rd (prA 0x30)).toNat + 0x40) ((leNat (slice
      f.payload 8 4)) - 0x40))) = leNat (slice f.payload 0x3C 4)) → Gives .pairVinCommit s fun t => ∃ z ∈ failCodes, t =
      State.pairPoll (State.pairSend { (took s f l) with free := s.free + 1 } 4 (beBytes 4 (leNat (slice f.payload 4 4)) ++
      [BitVec.ofNat 8 z, 0, 0, 0])))
    ∧ (PairGets s f 3 x l ∧ s.front.role ≠ 2 → Gives .pairVinCommit s fun t => t = State.pairPoll (took s f l))
    ∧ (PairGets s f 4 x l ∧ PairQuiet s f.role ∧ s.prm.vin = .ack ∧ (beNat (slice f.payload 0 4)) = s.prm.vseq ∧ byteAt
      f.payload 4 = 0 ∧ s.prm.hand ≠ .wait ∧ s.prm.hand ≠ .final → Gives .pairVinAck s fun t => PairLeft s t l ∧ t.rd (prA
      8) = tookStat s f ∧ t.rd (prA 0x34) = setBit (setFld (s.rd (prA 0x34)) 23 16 0) 31 false ∧ t.rd (prA 0x38) = wd
      s.prm.vseq ∧ t.prm = { tookPrm s f with vin := .idle } ∧ RegsBut s t [prA 8, prA 0x34, prA 0x38] ∧
      { t with prm := s.prm, esw := s.esw, regs := s.regs } = s)
    ∧ (PairGets s f 4 x l ∧ PairQuiet s f.role ∧ s.prm.vin = .ack ∧ (beNat (slice f.payload 0 4)) = s.prm.vseq ∧ byteAt
      f.payload 4 = 0 ∧ s.prm.hand = .final → Gives .pairVinAck s fun t => PairLeft s t l ∧ PermitSets s t 2 (if
      s.front.role = 3 then false else s.front.ownLow) [prA 8, prA 0x34, prA 0x38] ∧ t.rd (prA 8) = tookStat s f ∧ t.rd (prA
      0x34) = setBit (setFld (s.rd (prA 0x34)) 23 16 0) 31 false ∧ t.rd (prA 0x38) = wd s.prm.vseq ∧ t.prm = standbyPrm s
      { tookPrm s f with vin := .idle, hand := .given } ∧
      { t with front := s.front, prm := s.prm, esw := s.esw, regs := s.regs, chs := s.chs, dies := s.dies } = s)
    ∧ (PairGets s f 4 x l ∧ PairQuiet s f.role ∧ s.prm.vin = .ack ∧ (beNat (slice f.payload 0 4)) = s.prm.vseq ∧ byteAt
      f.payload 4 ≠ 0 ∧ s.prm.hand ≠ .wait ∧ s.prm.hand ≠ .final → Gives .pairVinAck s fun t => PairLeft s t l ∧ t.rd (prA
      8) = tookStat s f ∧ VinFailed s t (s.rd (prA 0x34)) .farError [] ∧ t.prm = { tookPrm s f with vin := .idle } ∧ RegsBut
      s t [prA 8, prA 0x34] ∧ { t with prm := s.prm, esw := s.esw, regs := s.regs, reports := s.reports } = s)
    ∧ (PairGets s f 4 x l ∧ PairQuiet s f.role ∧ s.prm.vin = .ack ∧ (beNat (slice f.payload 0 4)) = s.prm.vseq ∧ byteAt
      f.payload 4 ≠ 0 ∧ s.prm.hand = .final → Gives .pairVinAck s fun t => PairLeft s t l ∧ t.rd (prA 8) = tookStat s f ∧
      VinFailed s t (s.rd (prA 0x34)) .farError [] ∧ t.prm = { tookPrm s f with vin := .idle, hand := .none } ∧ RegsBut s t
      [prA 8, prA 0x34] ∧ { t with prm := s.prm, esw := s.esw, regs := s.regs, reports := s.reports } = s)
    ∧ (PairGets s f 4 x l ∧ PairQuiet s f.role ∧ (s.prm.vin ≠ .ack ∨ (beNat (slice f.payload 0 4)) ≠ s.prm.vseq) → Gives
      .pairVinAck s fun t => PairLeft s t l ∧ t.rd (prA 8) = tookStat s f ∧ t.prm = tookPrm s f ∧ RegsBut s t [prA 8] ∧
      { t with prm := s.prm, esw := s.esw, regs := s.regs } = s)
    ∧ (PairGets s f 4 x l → Gives .pairVinAck s fun t => t = State.pairPoll (if s.prm.vin = .ack ∧ (beNat (slice f.payload 0
      4)) = s.prm.vseq then State.handRun (State.vinClose (took s f l) (if byteAt f.payload 4 = 0 then .done else
      .farError)) else (took s f l)))
    ∧ (PairGets s f 5 x l ∧ PairQuiet s f.role ∧ s.front.role = 3 ∧ (wd (beNat (slice f.payload 0 4))) &&& s.rd (prA 0x44) =
      s.rd (prA 0x44) → Gives .pairHealthFrame s fun t => PairLeft s t l ∧ t.rd (prA 8) = tookStat s f ∧ t.rd (prA 0x48) =
      (wd (beNat (slice f.payload 0 4))) ∧ t.prm = tookPrm s f ∧ RegsBut s t [prA 8, prA 0x48] ∧
      { t with prm := s.prm, esw := s.esw, regs := s.regs } = s)
    ∧ (PairGets s f 5 x l ∧ PairQuiet s f.role ∧ s.front.role = 3 ∧ ¬ (wd (beNat (slice f.payload 0 4))) &&& s.rd (prA 0x44) =
      s.rd (prA 0x44) → Gives .pairHealthFrame s fun t => PairLeft s t l ∧ t.rd (prA 8) = tookStat s f ∧ t.rd (prA 0x48) =
      (wd (beNat (slice f.payload 0 4))) ∧ t.prm = { tookPrm s f with runFrom := s.ticks } ∧ Reported s t [(0x7045, 0, 0)] ∧
      RegsBut s t [prA 8, prA 0x48] ∧ { t with prm := s.prm, esw := s.esw, regs := s.regs, reports := s.reports } = s)
    ∧ (PairGets s f 5 x l ∧ PairQuiet s f.role ∧ s.front.role ≠ 3 → Gives .pairHealthFrame s fun t => PairLeft s t l ∧ t.rd
      (prA 8) = tookStat s f ∧ t.prm = tookPrm s f ∧ RegsBut s t [prA 8] ∧
      { t with prm := s.prm, esw := s.esw, regs := s.regs } = s)
    ∧ (PairGets s f 5 x l → Gives .pairHealthFrame s fun t => t = State.pairPoll (if s.front.role ≠ 3 then (took s f l) else
      if (wd (beNat (slice f.payload 0 4))) &&& s.rd (prA 0x44) = s.rd (prA 0x44) then (took s f l).wr (prA 0x48) (wd (beNat
      (slice f.payload 0 4))) else State.report (((took s f l).wr (prA 0x48) (wd (beNat (slice f.payload 0 4)))).setPrm
      { tookPrm s f with runFrom := s.ticks }) 0x7045))
    ∧ (PairGets s f 7 x l ∧ PairQuiet s f.role ∧ (s.bridge 3).txs = [y] ∧ y.tag = (byteAt f.payload 0).toNat ∧ y.phase = .sent
      ∧ y.dead = false ∧ y.posted = false ∧ (∀ h, y.acc.who ≠ .hart h) ∧ st.code = (byteAt f.payload 1).toNat ∧ y.op = .read
      → Gives .pairBrRsp s fun t => PairLeft s t l ∧ t.rd (prA 8) = tookStat s f ∧ t.bridge 3 =
      { s.bridge 3 with txs := [] } ∧ (∀ i, i ≠ 3 → t.bridge i = s.bridge i) ∧ t.resp = ⟨st, BitVec.ofNat 64 ((beNat (slice
      f.payload 4 8)) % 2 ^ (8 * y.bytes))⟩ ∧ t.prm = tookPrm s f ∧ RegsBut s t [prA 8] ∧
      { t with prm := s.prm, esw := s.esw, regs := s.regs, brg := s.brg, resp := s.resp } = s)
    ∧ (PairGets s f 7 x l ∧ PairQuiet s f.role ∧ (s.bridge 3).txs = [y] ∧ y.tag = (byteAt f.payload 0).toNat ∧ y.phase = .sent
      ∧ y.dead = false ∧ y.posted = false ∧ (∀ h, y.acc.who ≠ .hart h) ∧ st.code = (byteAt f.payload 1).toNat ∧ y.op =
      .write → Gives .pairBrRsp s fun t => PairLeft s t l ∧ t.rd (prA 8) = tookStat s f ∧ t.bridge 3 =
      { s.bridge 3 with txs := [] } ∧ (∀ i, i ≠ 3 → t.bridge i = s.bridge i) ∧ t.resp = ⟨st, BitVec.ofNat 64 ((beNat (slice
      f.payload 4 8)) % 2 ^ (8 * y.bytes))⟩ ∧ t.prm = tookPrm s f ∧ RegsBut s t [prA 8] ∧
      { t with prm := s.prm, esw := s.esw, regs := s.regs, brg := s.brg, resp := s.resp } = s)
    ∧ (PairGets s f 7 x l ∧ PairQuiet s f.role ∧ (s.bridge 3).txs = [y] ∧ y.tag = (byteAt f.payload 0).toNat ∧ y.phase = .sent
      ∧ y.dead = false ∧ y.posted = true ∧ (byteAt f.payload 1).toNat = 0 → Gives .pairBrRsp s fun t => PairLeft s t l ∧
      t.rd (prA 8) = tookStat s f ∧ t.bridge 3 = { s.bridge 3 with txs := [] } ∧ (∀ i, i ≠ 3 → t.bridge i = s.bridge i) ∧
      t.prm = tookPrm s f ∧ RegsBut s t [prA 8] ∧ { t with prm := s.prm, esw := s.esw, regs := s.regs, brg := s.brg } = s)
    ∧ (PairGets s f 7 x l ∧ PairQuiet s f.role ∧ (∀ z ∈ (s.bridge 3).txs, z.tag ≠ (byteAt f.payload 0).toNat) → Gives
      .pairBrRsp s fun t => PairLeft s t l ∧ t.rd (prA 8) = tookStat s f ∧ t.prm = tookPrm s f ∧ RegsBut s t [prA 8] ∧
      { t with prm := s.prm, esw := s.esw, regs := s.regs } = s)
    ∧ (PairGets s f 7 x l ∧ (s.bridge 3).txs.find? (fun z => z.tag == (byteAt f.payload 0).toNat && z.out) = some y ∧ st.code
      = (byteAt f.payload 1).toNat ∧ (y.op ≠ .line ∨ 16 ≤ List.length (if st = .done then y.words ++ [some (wd (beNat (slice
      f.payload 4 8))), some (wd ((beNat (slice f.payload 4 8)) >>> 32))] else y.words ++ List.replicate (16 -
      y.words.length) none)) → Gives .pairBrRsp s fun t => t = State.pairPoll (State.brRun (((took s f l).brDrop 3 (byteAt
      f.payload 0).toNat).brBack 3
      { y with words := (if st = .done then y.words ++ [some (wd (beNat (slice f.payload 4 8))), some (wd ((beNat (slice f.payload 4 8)) >>> 32))] else y.words ++ List.replicate (16 - y.words.length) none) }
      st (BitVec.ofNat 64 ((beNat (slice f.payload 4 8)) % 2 ^ (8 * y.bytes)))) 3))
    ∧ (PairGets s f 7 x l ∧ (s.bridge 3).txs.find? (fun z => z.tag == (byteAt f.payload 0).toNat && z.out) = some y ∧ st.code
      = (byteAt f.payload 1).toNat ∧ y.op = .line ∧ List.length (if st = .done then y.words ++ [some (wd (beNat (slice
      f.payload 4 8))), some (wd ((beNat (slice f.payload 4 8)) >>> 32))] else y.words ++ List.replicate (16 -
      y.words.length) none) < 16 → Gives .pairBrRsp s fun t => t = State.pairPoll (((took s f l).brSet 3
      { y with words := (if st = .done then y.words ++ [some (wd (beNat (slice f.payload 4 8))), some (wd ((beNat (slice f.payload 4 8)) >>> 32))] else y.words ++ List.replicate (16 - y.words.length) none) }).pairSend
      6 (State.brReq (took s f l)
      { y with words := (if st = .done then y.words ++ [some (wd (beNat (slice f.payload 4 8))), some (wd ((beNat (slice f.payload 4 8)) >>> 32))] else y.words ++ List.replicate (16 - y.words.length) none) })))
    ∧ (PairGets s f 6 x l ∧ PairQuiet s f.role ∧ s.brReqWaits = false ∧ s.mustWait (waitPlace (beNat (slice f.payload 4 8))) =
      false ∧ s.pairKey = some key ∧ s.importOf (beNat (slice f.payload 4 8)) (byteAt f.payload 2).toNat = some n ∧ (byteAt
      f.payload 1).toNat = 1 ∧ (byteAt f.payload 2).toNat ≤ 8 ∧ 0x10000000 ≤ (beNat (slice f.payload 4 8)) ∧ (beNat (slice
      f.payload 4 8)) + (byteAt f.payload 2).toNat ≤ 0x12000000 ∧ s.mayRead ⟨BitVec.ofNat 8 (fld (s.rd (prA (0x104 + n *
      8))) 23 16), bit (s.rd (prA (0x104 + n * 8))) 24⟩ (beNat (slice f.payload 4 8)) (byteAt f.payload 2).toNat = true ∧
      s.anyBad (beNat (slice f.payload 4 8)) (byteAt f.payload 2).toNat = false → Gives (.pairBrReq false) s fun t =>
      PairSends (unsent s t l) t key 7 ([byteAt f.payload 0, 0, 0, 0] ++ beBytes 8 (s.ldLE (beNat (slice f.payload 4 8))
      (byteAt f.payload 2).toNat)) ∧ t.rd (prA 8) = tookStat s f ∧ t.prm =
      { tookPrm s f with seq := t.prm.seq, out := t.prm.out } ∧ RegsBut s t [prA 8] ∧
      { t with prm := s.prm, esw := s.esw, regs := s.regs } = s)
    ∧ (PairGets s f 6 x l ∧ PairQuiet s f.role ∧ s.brReqWaits = false ∧ s.mustWait (waitPlace (beNat (slice f.payload 4 8))) =
      false ∧ s.pairKey = some key ∧ s.importOf (beNat (slice f.payload 4 8)) (byteAt f.payload 2).toNat = some n ∧ (byteAt
      f.payload 1).toNat ≠ 1 ∧ bit (s.rd (prA (0x104 + n * 8))) 30 = false ∧ 0x10000000 ≤ (beNat (slice f.payload 4 8)) ∧
      (beNat (slice f.payload 4 8)) + (byteAt f.payload 2).toNat ≤ 0x12000000 ∧ s.mayWrite ⟨BitVec.ofNat 8 (fld (s.rd (prA
      (0x104 + n * 8))) 23 16), bit (s.rd (prA (0x104 + n * 8))) 24⟩ (beNat (slice f.payload 4 8)) (byteAt f.payload
      2).toNat = true → Gives (.pairBrReq false) s fun t => PairSends (unsent s t l) t key 7 ([byteAt f.payload 0, 0, 0, 0]
      ++ beBytes 8 (0)) ∧ t.rd (prA 8) = tookStat s f ∧ t.prm = { tookPrm s f with seq := t.prm.seq, out := t.prm.out } ∧
      RegsBut s t [prA 8] ∧ t.ldLE (beNat (slice f.payload 4 8)) (byteAt f.payload 2).toNat = (beNat (slice f.payload 12 8))
      % 2 ^ 64 % 2 ^ (8 * (byteAt f.payload 2).toNat) ∧ MemBut s t (beNat (slice f.payload 4 8)) (byteAt f.payload 2).toNat
      ∧ StoreSide s t ∧
      { t with prm := s.prm, esw := s.esw, regs := s.regs, mem := s.mem, eccBad := s.eccBad, harts := s.harts } = s)
    ∧ (PairGets s f 6 x l ∧ PairQuiet s f.role ∧ s.brReqWaits = false ∧ s.mustWait (waitPlace (beNat (slice f.payload 4 8))) =
      false ∧ s.pairKey = some key ∧ s.importOf (beNat (slice f.payload 4 8)) (byteAt f.payload 2).toNat = some n ∧ (byteAt
      f.payload 1).toNat ≠ 1 ∧ bit (s.rd (prA (0x104 + n * 8))) 30 = true → Gives (.pairBrReq false) s fun t => PairSends
      (unsent s t l) t key 7 ([byteAt f.payload 0, 0x20, 0, 0] ++ beBytes 8 (0)) ∧ t.rd (prA 8) = tookStat s f ∧ t.prm =
      { tookPrm s f with seq := t.prm.seq, out := t.prm.out } ∧ RegsBut s t [prA 8] ∧
      { t with prm := s.prm, esw := s.esw, regs := s.regs } = s)
    ∧ (PairGets s f 6 x l ∧ PairQuiet s f.role ∧ s.brReqWaits = false ∧ s.mustWait (waitPlace (beNat (slice f.payload 4 8))) =
      false ∧ s.pairKey = some key ∧ s.importOf (beNat (slice f.payload 4 8)) (byteAt f.payload 2).toNat = none → Gives
      (.pairBrReq false) s fun t => PairSends (unsent s t l) t key 7 ([byteAt f.payload 0, 0x12, 0, 0] ++ beBytes 8 (0)) ∧
      t.rd (prA 8) = tookStat s f ∧ t.prm = { tookPrm s f with seq := t.prm.seq, out := t.prm.out } ∧ RegsBut s t [prA 8] ∧
      { t with prm := s.prm, esw := s.esw, regs := s.regs } = s)
    ∧ (PairGets s f 6 x l ∧ s.brReqWaits = false ∧ (s.importAcc f.ask b).1 = .done ∧ s.mustWait (waitPlace (beNat (slice
      f.payload 4 8))) = true → Gives (.pairBrReq b) s fun t => t =
      { s with boundary := s.boundary ++ [{ island := waitPlace (beNat (slice f.payload 4 8)), cmd := .pairBrReq b, by_ := .partner (beNat (slice f.payload 4 8)) (f.ask.op == 1) }] })
    ∧ (PairGets s f 6 x l ∧ s.brReqWaits = true → Gives (.pairBrReq b) s fun t => t = s)
    ∧ (PairGets s f 6 x l ∧ s.brReqWaits = false ∧ ((s.importAcc f.ask b).1 ≠ .done ∨ s.mustWait (waitPlace (beNat (slice
      f.payload 4 8))) = false) → Gives (.pairBrReq b) s fun t => t = State.pairPoll ((took s f l).pairServe f.ask b))
    ∧ (s.logicOn = true ∧ s.esw.pairIn = x :: l ∧ s.pairAccept x.bytes = none ∧ (s.prm.badSaid = 0 ∨ 500000000 ≤ s.ticks + 1 -
      s.prm.badSaid) → Gives .pairFrameReject s fun t => PairLeft s t l ∧ t.rf (prA 8) 31 24 = min (s.rf (prA 8) 31 24 + 1)
      255 ∧ (∀ i, i < 24 → bit (t.rd (prA 8)) i = bit (s.rd (prA 8)) i) ∧ t.prm = { s.prm with badSaid := s.ticks + 1 } ∧
      Reported s t [(0x7046, 0, 0)] ∧ RegsBut s t [prA 8] ∧
      { t with prm := s.prm, esw := s.esw, regs := s.regs, reports := s.reports } = s)
    ∧ (s.logicOn = true ∧ s.esw.pairIn = x :: l ∧ s.pairAccept x.bytes = none ∧ s.prm.badSaid ≠ 0 ∧ s.ticks + 1 -
      s.prm.badSaid < 500000000 → Gives .pairFrameReject s fun t => PairLeft s t l ∧ t.rf (prA 8) 31 24 = min (s.rf (prA 8)
      31 24 + 1) 255 ∧ (∀ i, i < 24 → bit (t.rd (prA 8)) i = bit (s.rd (prA 8)) i) ∧ RegsBut s t [prA 8] ∧
      { t with esw := s.esw, regs := s.regs } = s)
    ∧ (s.logicOn = true ∧ s.esw.pairIn = x :: l ∧ s.pairAccept x.bytes = some f → Gives .pairFrameReject s fun t => t = s)
    ∧ ((s.esw.pairIn = [] ∨ s.logicOn = false) → (Gives .pairHeartbeatFrame s fun t => t = s) ∧ (Gives .pairVinData s fun t =>
      t = s) ∧ (Gives .pairVinCommit s fun t => t = s) ∧ (Gives .pairVinAck s fun t => t = s) ∧ (Gives .pairHealthFrame s
      fun t => t = s) ∧ (Gives (.pairBrReq b) s fun t => t = s) ∧ (Gives .pairBrRsp s fun t => t = s))
    ∧ (s.esw.pairIn = x :: l ∧ (s.pairAccept x.bytes = none ∨ s.pairAccept x.bytes = some f ∧ f.typ ≠ 1) → Gives
      .pairHeartbeatFrame s fun t => t = s)
    ∧ (s.esw.pairIn = x :: l ∧ (s.pairAccept x.bytes = none ∨ s.pairAccept x.bytes = some f ∧ f.typ ≠ 2) → Gives .pairVinData
      s fun t => t = s)
    ∧ (s.esw.pairIn = x :: l ∧ (s.pairAccept x.bytes = none ∨ s.pairAccept x.bytes = some f ∧ f.typ ≠ 3) → Gives
      .pairVinCommit s fun t => t = s)
    ∧ (s.esw.pairIn = x :: l ∧ (s.pairAccept x.bytes = none ∨ s.pairAccept x.bytes = some f ∧ f.typ ≠ 4) → Gives .pairVinAck s
      fun t => t = s)
    ∧ (s.esw.pairIn = x :: l ∧ (s.pairAccept x.bytes = none ∨ s.pairAccept x.bytes = some f ∧ f.typ ≠ 5) → Gives
      .pairHealthFrame s fun t => t = s)
    ∧ (s.esw.pairIn = x :: l ∧ (s.pairAccept x.bytes = none ∨ s.pairAccept x.bytes = some f ∧ f.typ ≠ 6) → Gives (.pairBrReq
      b) s fun t => t = s)
    ∧ (s.esw.pairIn = x :: l ∧ (s.pairAccept x.bytes = none ∨ s.pairAccept x.bytes = some f ∧ f.typ ≠ 7) → Gives .pairBrRsp s
      fun t => t = s)

/-- A report that arrives makes a record in the ring, or counts in the newest unread one that it equals; a record that would
  overwrite an unread one moves FC_RD on, counts and is reported once per run. An escalation entry that counts the report
  raises its severity when its count is full. A SAFE_STATE record sets SAFE, and as SAFE_CFG says takes the power dies into
  limp-home and ends the pair role; a RESET record makes a chip reset due once its log write has ended, or acts as
  SAFE_STATE when RST_CNT has reached its limit; a Reserve watchdog record makes one due only when the watchdog has expired
  twice. A log write that ends is durable, or is reported and leaves LSEQ 0xFFFFFFFF in the ring. ESC commits, SAFE_CLR and
  FC_INJ take what the chapter allows. Scrubbers and readers report corrected and uncorrectable words, engine memories,
  cache lines and CAN memories as their kind asks. Nothing else changes. -/
def Obligations.FaultCollector : Prop :=
  ∀ (s : State) (a : Acc) (v : Word) (k : Fin 32) (n : Nat) (r : Report) (id : BitVec 16) (y : LogWrite) (l : List LogWrite) (e : EccResult) (x : Addr) (h : Fin 8) (d : Bool) (c : Fin 16) (g m : Nat) (f : EFrame) (qs : List EFrame),
    (s.logicOn = true ∧ s.reports[n]? = some r ∧ OwnRecord s r ((defSev r.id).getD 0) ∧ s.fcWr < s.fcRd + 256 ∧ ((defSev
      r.id).getD 0) ≤ 1 → Gives (.faultReport n) s fun t => Recorded s t r ((defSev r.id).getD 0) none ∧ t.reports = dropAt
      s.reports n ∧ { t.fc with logWrites := s.fc.logWrites, overrun := s.fc.overrun } = s.fc ∧ t.fc.overrun = false ∧
      RegsBut s t (recordRegs s) ∧ { t with regs := s.regs, reports := s.reports, fc := s.fc } = s)
    ∧ (s.logicOn = true ∧ s.reports[n]? = some r ∧ OwnRecord s r ((defSev r.id).getD 0) ∧ s.fcRd + 256 ≤ s.fcWr ∧ ((defSev
      r.id).getD 0) ≤ 1 → Gives (.faultReport n) s fun t => Recorded s t r ((defSev r.id).getD 0) none ∧ t.rd (fcA 0x14) =
      wd (s.fcWr - 255) ∧ t.rf fcBase 23 16 = min (s.rf fcBase 23 16 + 1) 255 ∧ t.fc.overrun = true ∧ (if s.fc.overrun then
      t.reports = dropAt s.reports n else Reported { s with reports := dropAt s.reports n } t [(0x2010, 0, 0)]) ∧ RegsBut s
      t (fcA 0x14 :: fcBase :: recordRegs s) ∧ { t with regs := s.regs, reports := s.reports, fc := s.fc } = s)
    ∧ (s.logicOn = true ∧ s.reports[n]? = some r ∧ (∀ i ∈ List.range 32, s.rb (escA i 0) 31 = false ∨ s.rf (escA i 0) 15 0 ≠
      r.id) ∧ s.mergesWith (reportWord0 r ((defSev r.id).getD 0) ((defSev r.id).getD 0)) (reportWord6 r) r = true ∧ ((defSev
      r.id).getD 0) ≤ 1 → Gives (.faultReport n) s fun t => t.rd (ringA (s.fcWr - 1) 6) = setFld (s.rd (ringA (s.fcWr - 1)
      6)) 15 0 (min (fld (s.rd (ringA (s.fcWr - 1) 6)) 15 0 + 1) 65535) ∧ t.rd (ringA (s.fcWr - 1) 7) = recordCrc
      (t.ringRecord (s.fcWr - 1)) ∧ t.reports = dropAt s.reports n ∧ RegsBut s t [(ringA (s.fcWr - 1) 6), (ringA (s.fcWr -
      1) 7)] ∧ { t with regs := s.regs, reports := s.reports } = s)
    ∧ (s.logicOn = true ∧ s.reports[n]? = some r → Gives (.faultReport n) s fun t => t = State.accept
      { s with reports := dropAt s.reports n } r)
    ∧ (s.logicOn = true ∧ s.reports[n]? = some r ∧ g < 32 ∧ s.rb (escA g 0) 31 = true ∧ s.rf (escA g 0) 15 0 = r.id ∧ (∀ i ∈
      List.range 32, i = g ∨ s.rb (escA i 0) 31 = false ∨ s.rf (escA i 0) 15 0 ≠ r.id) ∧ s.mergesWith (reportWord0 r
      ((defSev r.id).getD 0) ((defSev r.id).getD 0)) (reportWord6 r) r = false ∧ s.fcWr < s.fcRd + 256 ∧ ((defSev r.id).getD
      0) ≤ 1 ∧ (if s.escOver g then 1 else (s.esc g).count + 1) < s.rf (escA g 1) 31 24 → Gives (.faultReport n) s fun t =>
      Recorded s t r ((defSev r.id).getD 0) none ∧ t.esc g =
      { s.esc g with count := (if s.escOver g then 1 else (s.esc g).count + 1), since := if (if s.escOver g then 1 else (s.esc g).count + 1) = 1 then s.ticks else (s.esc g).since }
      ∧ (∀ i, i ≠ g → t.esc i = s.esc i) ∧ t.reports = dropAt s.reports n ∧
      { t.fc with logWrites := s.fc.logWrites, overrun := s.fc.overrun, esc := s.fc.esc } = s.fc ∧ t.fc.overrun = false ∧
      RegsBut s t (recordRegs s) ∧ { t with regs := s.regs, reports := s.reports, fc := s.fc } = s)
    ∧ (s.logicOn = true ∧ s.reports[n]? = some r ∧ g < 32 ∧ s.rb (escA g 0) 31 = true ∧ s.rf (escA g 0) 15 0 = r.id ∧ (∀ i ∈
      List.range 32, i = g ∨ s.rb (escA i 0) 31 = false ∨ s.rf (escA i 0) 15 0 ≠ r.id) ∧ s.mergesWith (reportWord0 r 1
      ((defSev r.id).getD 0)) (reportWord6 r) r = false ∧ s.fcWr < s.fcRd + 256 ∧ s.rf (escA g 0) 29 28 = 1 ∧ ((defSev
      r.id).getD 0) = 0 ∧ s.rf (escA g 1) 31 24 ≤ (if s.escOver g then 1 else (s.esc g).count + 1) → Gives (.faultReport n)
      s fun t => Recorded s t r 1 none ∧ t.esc g = { s.esc g with count := 0 } ∧ (∀ i, i ≠ g → t.esc i = s.esc i) ∧
      t.reports = dropAt s.reports n ∧ { t.fc with logWrites := s.fc.logWrites, overrun := s.fc.overrun, esc := s.fc.esc } =
      s.fc ∧ t.fc.overrun = false ∧ RegsBut s t (recordRegs s) ∧ { t with regs := s.regs, reports := s.reports, fc := s.fc }
      = s)
    ∧ (s.logicOn = true ∧ s.reports[n]? = some r ∧ g < 32 ∧ s.rb (escA g 0) 31 = true ∧ s.rf (escA g 0) 15 0 = r.id ∧ (∀ i ∈
      List.range 32, i = g ∨ s.rb (escA i 0) 31 = false ∨ s.rf (escA i 0) 15 0 ≠ r.id) ∧ s.mergesWith (reportWord0 r 2
      ((defSev r.id).getD 0)) (reportWord6 r) r = false ∧ s.fcWr < s.fcRd + 256 ∧ s.rf (fcA 0xC) 2 0 = 0 ∧ s.rf (escA g 0)
      29 28 = 2 ∧ ((defSev r.id).getD 0) ≤ 1 ∧ s.rf (escA g 1) 31 24 ≤ (if s.escOver g then 1 else (s.esc g).count + 1) →
      Gives (.faultReport n) s fun t => Recorded s t r 2 none ∧ t.rd fcBase = safeStat s r.id ∧ t.esc g =
      { s.esc g with count := 0 } ∧ (∀ i, i ≠ g → t.esc i = s.esc i) ∧ t.reports = dropAt s.reports n ∧
      { t.fc with logWrites := s.fc.logWrites, overrun := s.fc.overrun, esc := s.fc.esc } = s.fc ∧ t.fc.overrun = false ∧
      RegsBut s t (fcBase :: recordRegs s) ∧ { t with regs := s.regs, reports := s.reports, fc := s.fc } = s)
    ∧ (s.logicOn = true ∧ s.reports[n]? = some r ∧ OwnRecord s r 2 ∧ s.fcWr < s.fcRd + 256 ∧ ((defSev r.id).getD 0) = 2 ∧ s.rf
      (fcA 0xC) 2 0 = 0 → Gives (.faultReport n) s fun t => Recorded s t r 2 none ∧ t.rd fcBase = safeStat s r.id ∧
      t.reports = dropAt s.reports n ∧ { t.fc with logWrites := s.fc.logWrites, overrun := s.fc.overrun } = s.fc ∧
      t.fc.overrun = false ∧ RegsBut s t (fcBase :: recordRegs s) ∧
      { t with regs := s.regs, reports := s.reports, fc := s.fc } = s)
    ∧ (s.logicOn = true ∧ s.reports[n]? = some r ∧ OwnRecord s r 2 ∧ s.fcWr < s.fcRd + 256 ∧ ((defSev r.id).getD 0) = 2 ∧ s.rf
      (fcA 0xC) 1 0 = 0 ∧ s.rb (fcA 0xC) 2 = true ∧ 2 ≤ s.front.role → Gives (.faultReport n) s fun t => Recorded s t r 2
      none ∧ t.rd fcBase = safeStat s r.id ∧ PermitSets s t 0 (if s.front.role = 3 then false else s.front.ownLow) (fcBase
      :: recordRegs s) ∧ t.prm = { s.prm with start := .idle, heard := false, armed := false, hand := .none } ∧ t.reports =
      dropAt s.reports n ∧ { t.fc with logWrites := s.fc.logWrites, overrun := s.fc.overrun } = s.fc ∧ t.fc.overrun = false
      ∧
      { t with regs := s.regs, reports := s.reports, fc := s.fc, front := s.front, prm := s.prm, chs := s.chs, dies := s.dies }
      = s)
    ∧ (s.logicOn = true ∧ s.reports[n]? = some r ∧ OwnRecord s r 2 ∧ s.fcWr < s.fcRd + 256 ∧ ((defSev r.id).getD 0) = 2 ∧ g <
      2 ∧ s.rf (fcA 0xC) 2 0 = 2 ^ g ∧ (s.die g).supplied = true ∧ s.limp g = false ∧ (s.link g).up = true → Gives
      (.faultReport n) s fun t => Recorded s t r 2 none ∧ t.rd fcBase = safeStat s r.id ∧ t.limp g = true ∧ t.limp (1 - g) =
      s.limp (1 - g) ∧ Reported { s with reports := dropAt s.reports n } t [(0x8044 + g * 0x1000, 0xFF, 0)] ∧ t.front =
      s.front ∧ (∀ z, (z < 0x80000000 ∨ 0x82000000 ≤ z) → z ∉ fcBase :: recordRegs s → t.rd z = s.rd z) ∧
      { t.fc with logWrites := s.fc.logWrites, overrun := s.fc.overrun } = s.fc ∧ t.fc.overrun = false ∧
      { t with regs := s.regs, reports := s.reports, fc := s.fc, chs := s.chs, dies := s.dies, lines := s.lines } = s)
    ∧ (s.logicOn = true ∧ s.reports[n]? = some r ∧ OwnRecord s r 3 ∧ s.fcWr < s.fcRd + 256 ∧ ((defSev r.id).getD 0) = 3 ∧ (∀ w
      ∈ s.fc.logWrites, w.lseq ≠ nextLseq s 3) ∧ r.id ≠ 0x3004 ∧ s.boot.rstCnt < s.rf (fcA 4) 19 16 → Gives (.faultReport n)
      s fun t => Recorded s t r 3 (some 4) ∧ t.reports = dropAt s.reports n ∧
      { t.fc with logWrites := s.fc.logWrites, overrun := s.fc.overrun } = s.fc ∧ t.fc.overrun = false ∧ RegsBut s t
      (recordRegs s) ∧ { t with regs := s.regs, reports := s.reports, fc := s.fc } = s)
    ∧ (s.logicOn = true ∧ s.reports[n]? = some r ∧ OwnRecord s r 3 ∧ s.fcWr < s.fcRd + 256 ∧ ((defSev r.id).getD 0) = 3 ∧ r.id
      ≠ 0x3004 ∧ s.rf (fcA 4) 19 16 ≤ s.boot.rstCnt ∧ s.rf (fcA 0xC) 2 0 = 0 → Gives (.faultReport n) s fun t => Recorded s
      t r 3 none ∧ t.rd fcBase = safeStat s r.id ∧ Reported { s with reports := dropAt s.reports n } t [(0x2013, 0, 0)] ∧
      { t.fc with logWrites := s.fc.logWrites, overrun := s.fc.overrun } = s.fc ∧ t.fc.overrun = false ∧ RegsBut s t (fcBase
      :: recordRegs s) ∧ { t with regs := s.regs, reports := s.reports, fc := s.fc } = s)
    ∧ (s.logicOn = true ∧ s.reports[n]? = some r ∧ OwnRecord s r 3 ∧ s.fcWr < s.fcRd + 256 ∧ ((defSev r.id).getD 0) = 3 ∧ (∀ w
      ∈ s.fc.logWrites, w.lseq ≠ nextLseq s 3) ∧ r.id = 0x3004 ∧ s.rwd.expired = true → Gives (.faultReport n) s fun t =>
      Recorded s t r 3 (some 3) ∧ t.reports = dropAt s.reports n ∧
      { t.fc with logWrites := s.fc.logWrites, overrun := s.fc.overrun } = s.fc ∧ t.fc.overrun = false ∧ RegsBut s t
      (recordRegs s) ∧ { t with regs := s.regs, reports := s.reports, fc := s.fc } = s)
    ∧ (s.logicOn = true ∧ s.reports[n]? = some r ∧ OwnRecord s r 3 ∧ s.fcWr < s.fcRd + 256 ∧ ((defSev r.id).getD 0) = 3 ∧ r.id
      = 0x3004 ∧ s.rwd.expired = false → Gives (.faultReport n) s fun t => Recorded s t r 3 none ∧ t.reports = dropAt
      s.reports n ∧ { t.fc with logWrites := s.fc.logWrites, overrun := s.fc.overrun } = s.fc ∧ t.fc.overrun = false ∧
      RegsBut s t (recordRegs s) ∧ { t with regs := s.regs, reports := s.reports, fc := s.fc } = s)
    ∧ ((s.logicOn = false ∨ s.reports[n]? = none) → Gives (.faultReport n) s fun t => t = s)
    ∧ (s.fc.logWrites = y :: l ∧ y.reset = none → Gives (.faultLogWriteDone true) s fun t => t.ldBytes (0x21D40000 + y.lseq %
      65536 * 0x20) y.record.length = y.record ∧ MemBut s t (0x21D40000 + y.lseq % 65536 * 0x20) y.record.length ∧ StoreSide
      s t ∧ t.fc = { s.fc with logWrites := l } ∧ { t with fc := s.fc, mem := s.mem, eccBad := s.eccBad, harts := s.harts }
      = s)
    ∧ (s.fc.logWrites = y :: l ∧ y.reset = none ∧ s.fcWr ≤ y.seq + 256 → Gives (.faultLogWriteDone false) s fun t => Reported
      s t [(0x2012, (0x21D40000 + y.lseq % 65536 * 0x20) % 2 ^ 32, 0)] ∧ t.fc = { s.fc with logWrites := l } ∧ t.rd (ringA
      y.seq 3) = 0xFFFFFFFF ∧ t.rd (ringA y.seq 7) = recordCrc (t.ringRecord y.seq) ∧ RegsBut s t [(ringA y.seq 3), (ringA
      y.seq 7)] ∧ { t with regs := s.regs, reports := s.reports, fc := s.fc } = s)
    ∧ (s.fc.logWrites = y :: l ∧ y.reset = none ∧ y.seq + 256 < s.fcWr → Gives (.faultLogWriteDone false) s fun t => Reported
      s t [(0x2012, (0x21D40000 + y.lseq % 65536 * 0x20) % 2 ^ 32, 0)] ∧ t.fc = { s.fc with logWrites := l } ∧
      { t with reports := s.reports, fc := s.fc } = s)
    ∧ (s.fc.logWrites = y :: l ∧ y.reset = some g ∧ (g = 3 ∨ g = 4) ∧ y.record.length = 32 → Gives (.faultLogWriteDone true) s
      fun t => t.pwr.held = true ∧ t.pwr.rstnOut = false ∧ t.rb rbcBase g = true ∧ t.boot.rstAt = (if g = 4 then
      s.boot.rstAt ++ [s.powered] else s.boot.rstAt) ∧ t.fuse = s.fuse ∧ t.pending = s.pending ∧ t.ldBytes (0x21D40000 +
      y.lseq % 65536 * 0x20) y.record.length = y.record)
    ∧ (s.fc.logWrites = y :: l ∧ y.reset = some g ∧ (g = 3 ∨ g = 4) → Gives (.faultLogWriteDone false) s fun t => t.pwr.held =
      true ∧ t.pwr.rstnOut = false ∧ t.rb rbcBase g = true ∧ t.boot.rstAt = (if g = 4 then s.boot.rstAt ++ [s.powered] else
      s.boot.rstAt) ∧ t.fuse = s.fuse ∧ t.pending = s.pending)
    ∧ (s.fc.logWrites = [] → Gives (.faultLogWriteDone d) s fun t => t = s)
    ∧ (¬ s.rf (escA k 1) 23 0 * 500000 ≤ s.ticks - (s.esc k).since → Gives (.escalationWindowExpiry k) s fun t => t = s)
    ∧ (s.rf (escA k 1) 23 0 * 500000 ≤ s.ticks - (s.esc k).since → Gives (.escalationWindowExpiry k) s fun t => t.esc k =
      { s.esc k with count := 0 } ∧ (∀ i, i ≠ k.val → t.esc i = s.esc i) ∧ { t.fc with esc := s.fc.esc } = s.fc ∧
      { t with fc := s.fc } = s)
    ∧ (Reaches s a (escA k 0) ∧ Manager s a ∧ (bit v 31 = true → (∃ z ∈ (defSev (fld v 15 0)).toList, z < fld v 29 28) ∧ fld
      (s.esc k).staged 31 24 ≠ 0 ∧ fld (s.esc k).staged 23 0 ≠ 0) → Gives (.escalationCommit a k v) s fun t => t.rd (escA k
      0) = v &&& 0xB000FFFF ∧ t.rd (escA k 1) = (s.esc k).staged ∧ t.esc k = { s.esc k with count := 0 } ∧ (∀ i, i ≠ k.val →
      t.esc i = s.esc i) ∧ { t.fc with esc := s.fc.esc } = s.fc ∧ RegsBut s t [escA k 0, escA k 1] ∧ Answers t .done ∧
      { t with regs := s.regs, fc := s.fc, resp := s.resp } = s)
    ∧ (Reaches s a (escA k 0) ∧ Manager s a ∧ NoHart a ∧ bit v 31 = true ∧ ¬ ((∃ z ∈ (defSev (fld v 15 0)).toList, z < fld v
      29 28) ∧ fld (s.esc k).staged 31 24 ≠ 0 ∧ fld (s.esc k).staged 23 0 ≠ 0) → Gives (.escalationCommit a k v) s fun t =>
      Refuses s t .range)
    ∧ (Reaches s a (fcA 4) ∧ Manager s a ∧ s.rf (fcA 4) 19 16 ≠ 0 ∧ ¬ (∃ q ∈ List.range (s.fcWr - s.fcRd), fld (s.rd (ringA
      (s.fcRd + q) 0)) 17 16 = 2) → Gives (.safeClr a) s fun t => t.rd fcBase = setBit (setFld (s.rd fcBase) 15 0 0) 31
      false ∧ RegsBut s t [fcBase, fcA 4] ∧ t.rd (fcA 4) = maskedWrite (regDesc (fcA 4)) (s.rd (fcA 4)) (setBit (s.rd (fcA
      4)) 31 true) ∧ Answers t .done ∧ RegsOnly s t)
    ∧ (Reaches s a (fcA 4) ∧ Manager s a ∧ NoHart a ∧ s.rf (fcA 4) 19 16 ≠ 0 ∧ (∃ q ∈ List.range (s.fcWr - s.fcRd), fld (s.rd
      (ringA (s.fcRd + q) 0)) 17 16 = 2) → Gives (.safeClr a) s fun t => Refuses s t .conflict)
    ∧ (NoHart a ∧ ¬ Manager s a ∧ Reaches s a (escA k 0) ∧ Reaches s a (fcA 4) ∧ Reaches s a (fcA 0x1C) → (Gives
      (.escalationCommit a k v) s fun t => Denies s t (escA k 0)) ∧ (Gives (.safeClr a) s fun t => Denies s t (fcA 4)) ∧
      (Gives (.fcInj a id) s fun t => Denies s t (fcA 0x1C)))
    ∧ (Reaches s a (fcA 0x1C) ∧ Manager s a ∧ defSev id.toNat ≠ none ∧ ((defSev id.toNat).getD 0) ≤ 1 ∧ OwnRecord s
      { id := id.toNat, ctx0 := 0xFFFFFFFF, time := s.now } ((defSev id.toNat).getD 0) ∧ s.fcWr < s.fcRd + 256 → Gives
      (.fcInj a id) s fun t => Recorded s t { id := id.toNat, ctx0 := 0xFFFFFFFF, time := s.now } ((defSev id.toNat).getD 0)
      none ∧ Answers t .done ∧ { t.fc with logWrites := s.fc.logWrites, overrun := s.fc.overrun } = s.fc ∧ t.fc.overrun =
      false ∧ RegsBut s t (recordRegs s) ∧ { t with regs := s.regs, fc := s.fc, resp := s.resp } = s)
    ∧ (Reaches s a (fcA 0x1C) ∧ Manager s a ∧ defSev id.toNat ≠ none → Gives (.fcInj a id) s fun t => t =
      { State.accept s { id := id.toNat, ctx0 := 0xFFFFFFFF, time := s.now } with resp := ⟨.done, 0⟩ })
    ∧ (Reaches s a (fcA 0x1C) ∧ Manager s a ∧ NoHart a ∧ defSev id.toNat = none → Gives (.fcInj a id) s fun t => Refuses s t
      .range)
    ∧ (s.logicOn = true ∧ x.toNat < 0x10000 ∧ (e ≠ .clean ∨ s.isBad x.toNat = true) → Gives (.memoryScrub (.word x) e) s fun t
      => Reported s t [(0x2005, x.toNat, 0)] ∧ { t with reports := s.reports } = s)
    ∧ (s.logicOn = true ∧ (inSram x.toNat = true ∨ inMram x.toNat = true) ∧ s.isBad x.toNat = false ∧ e = .corrected → Gives
      (.memoryScrub (.word x) e) s fun t => Reported s t [(if inSram x.toNat then 0x2001 else 0x2003, x.toNat, 0)] ∧
      { t with reports := s.reports } = s)
    ∧ (s.logicOn = true ∧ (inSram x.toNat = true ∨ inMram x.toNat = true) ∧ (s.isBad x.toNat = true ∨ e = .uncorrectable) →
      Gives (.memoryScrub (.word x) e) s fun t => Reported s t [(if inSram x.toNat then 0x2002 else 0x2004, x.toNat % 2 ^
      32, x.toNat / 2 ^ 32 % 2 ^ 32)] ∧ (∀ z, t.isBad z = (s.isBad z || z / 8 == x.toNat / 8)) ∧
      { t with reports := s.reports, eccBad := s.eccBad } = s)
    ∧ (s.logicOn = true ∧ 0x40200000 ≤ x.toNat ∧ x.toNat < 0x40400000 ∧ s.isBad x.toNat = false ∧ e = .corrected → Gives
      (.memoryScrub (.word x) e) s fun t => t.rf (secBase + (x.toNat - 0x40200000) / 0x20000 * 0x1000 + 8) 15 0 = min (s.rf
      (secBase + (x.toNat - 0x40200000) / 0x20000 * 0x1000 + 8) 15 0 + 1) 65535 ∧ t.rf (secBase + (x.toNat - 0x40200000) /
      0x20000 * 0x1000 + 8) 31 16 = s.rf (secBase + (x.toNat - 0x40200000) / 0x20000 * 0x1000 + 8) 31 16 ∧ RegsBut s t
      [(secBase + (x.toNat - 0x40200000) / 0x20000 * 0x1000 + 8)] ∧ Reported s t [(0x4006, (x.toNat - 0x40200000) / 0x20000
      * 8, 0)] ∧ { t with regs := s.regs, reports := s.reports } = s)
    ∧ (s.logicOn = true ∧ 0x40200000 ≤ x.toNat ∧ x.toNat < 0x40400000 ∧ (s.isBad x.toNat = true ∨ e = .uncorrectable) → Gives
      (.memoryScrub (.word x) e) s fun t => (∀ z, t.isBad z = (s.isBad z || z / 8 == x.toNat / 8)) ∧ t.rd (secBase +
      (x.toNat - 0x40200000) / 0x20000 * 0x1000 + 8) = setFld (setBit (setBit (s.rd (secBase + (x.toNat - 0x40200000) /
      0x20000 * 0x1000 + 8)) 31 true) 30 (decide ((x.toNat - 0x40200000) % 0x20000 < 0x10000))) 28 16 ((x.toNat -
      0x40200000) % 0x10000 / 8) ∧ RegsBut s t [(secBase + (x.toNat - 0x40200000) / 0x20000 * 0x1000 + 8)] ∧
      { t with eccBad := s.eccBad, regs := s.regs } = s)
    ∧ (s.logicOn = true ∧ 0x30000000 ≤ x.toNat ∧ x.toNat < 0x30200000 ∧ s.isBad x.toNat = false ∧ e = .corrected → Gives
      (.memoryScrub (.word x) e) s fun t => t.rf (clA 0x28) 23 16 = min (s.rf (clA 0x28) 23 16 + 1) 255 ∧ RegsBut s t [clA
      0x28] ∧ { t with regs := s.regs } = s)
    ∧ (s.logicOn = true ∧ 0x30000000 ≤ x.toNat ∧ x.toNat < 0x30200000 ∧ (s.isBad x.toNat = true ∨ e = .uncorrectable) ∧
      s.clr.snap = none → Gives (.memoryScrub (.word x) e) s fun t => t.rb (enA ((x.toNat - 0x30000000) / 0x20) 1) 8 = true
      ∧ t.rd (clA 0x28) = setFld (setFld (setBit (s.rd (clA 0x28)) 31 true) 25 24 (x.toNat % 0x20 / 8)) 15 0 ((x.toNat -
      0x30000000) / 0x20) ∧ Reported s t [(0x4040, ((x.toNat - 0x30000000) / 0x20) % 2 ^ 32, 0)] ∧ (∀ z, t.isBad z =
      (s.isBad z || z / 8 == enA ((x.toNat - 0x30000000) / 0x20) (2 * (x.toNat % 0x20 / 8)) / 8)) ∧ RegsBut s t [enA
      ((x.toNat - 0x30000000) / 0x20) 1, clA 0x28] ∧ { t with regs := s.regs, reports := s.reports, eccBad := s.eccBad } =
      s)
    ∧ (s.logicOn = true ∧ 0x30000000 ≤ x.toNat ∧ x.toNat < 0x30200000 ∧ (s.isBad x.toNat = true ∨ e = .uncorrectable) → Gives
      (.memoryScrub (.word x) e) s fun t => t = s.enUncorr ((x.toNat - 0x30000000) / 0x20) (x.toNat % 0x20 / 8))
    ∧ (s.logicOn = true ∧ s.isBad x.toNat = false ∧ e = .clean → Gives (.memoryScrub (.word x) e) s fun t => t = s)
    ∧ (s.logicOn = true ∧ inSram x.toNat = true ∧ e ≠ .clean ∧ (e = .corrected ∨ d = false) → Gives (.memoryScrub (.cache h x
      d) e) s fun t => Reported s t [(0x1006, h.val, (s.hart h).pc.toNat % 2 ^ 32)] ∧ { t with reports := s.reports } = s)
    ∧ (s.logicOn = true ∧ inSram x.toNat = true ∧ e = .uncorrectable ∧ d = true → Gives (.memoryScrub (.cache h x d) e) s fun
      t => Reported s t [(0x1007, h.val, (s.hart h).pc.toNat % 2 ^ 32)] ∧ (∀ z, t.isBad z = (s.isBad z || z / 64 == x.toNat
      / 64)) ∧ { t with reports := s.reports, eccBad := s.eccBad } = s)
    ∧ (s.logicOn = true ∧ (e = .clean ∨ inSram x.toNat = false) → Gives (.memoryScrub (.cache h x d) e) s fun t => t = s)
    ∧ (s.logicOn = true ∧ e = .uncorrectable ∧ (s.can c).q0 ≠ [] → Gives (.memoryScrub (.canRam c 1) e) s fun t => t.can c =
      { s.can c with q0 := (s.can c).q0.drop 1 } ∧ (∀ i, i ≠ c.val → t.can i = s.can i) ∧ t.rf (canA c 0x88) 31 0 = min
      (s.rf (canA c 0x88) 31 0 + 1) (2 ^ 32 - 1) ∧ t.rd (canA c 0x38) = setBit (s.rd (canA c 0x38)) 4 true ∧ RegsBut s t
      [canA c 0x88, canA c 0x38] ∧ Reported s t [(0x2006, c.val, 0)] ∧
      { t with regs := s.regs, cans := s.cans, reports := s.reports } = s)
    ∧ (s.logicOn = true ∧ e = .uncorrectable ∧ (s.can c).q1 ≠ [] → Gives (.memoryScrub (.canRam c 2) e) s fun t => t.can c =
      { s.can c with q1 := (s.can c).q1.drop 1 } ∧ (∀ i, i ≠ c.val → t.can i = s.can i) ∧ t.rf (canA c 0x8C) 31 0 = min
      (s.rf (canA c 0x8C) 31 0 + 1) (2 ^ 32 - 1) ∧ t.rd (canA c 0x38) = setBit (s.rd (canA c 0x38)) 4 true ∧ RegsBut s t
      [canA c 0x8C, canA c 0x38] ∧ Reported s t [(0x2006, c.val, 0)] ∧
      { t with regs := s.regs, cans := s.cans, reports := s.reports } = s)
    ∧ (s.logicOn = true ∧ e = .uncorrectable ∧ (s.can c).txf ≠ [] → Gives (.memoryScrub (.canRam c 0) e) s fun t => t.can c =
      { s.can c with txf := (s.can c).txf.drop 1, headSince := s.ticks, sending := if ∃ z ∈ (s.can c).sending.toList, z.1 = .head then none else (s.can c).sending }
      ∧ (∀ i, i ≠ c.val → t.can i = s.can i) ∧ t.rf (canA c 0x90) 31 0 = min (s.rf (canA c 0x90) 31 0 + 1) (2 ^ 32 - 1) ∧
      t.rd (canA c 0x38) = setBit (s.rd (canA c 0x38)) 5 true ∧ RegsBut s t [canA c 0x90, canA c 0x38] ∧ Reported s t
      [(0x2006, c.val, 0)] ∧ { t with regs := s.regs, cans := s.cans, reports := s.reports } = s)
    ∧ (s.logicOn = true ∧ (e ≠ .uncorrectable ∨ (s.can c).txf = [] ∧ (s.can c).q0 = [] ∧ (s.can c).q1 = []) → (Gives
      (.memoryScrub (.canRam c 0) e) s fun t => t = s) ∧ (Gives (.memoryScrub (.canRam c 1) e) s fun t => t = s) ∧ (Gives
      (.memoryScrub (.canRam c 2) e) s fun t => t = s))
    ∧ (s.logicOn = true ∧ s.accepts 5 = true ∧ e = .corrected → Gives (.memoryScrub (.swBuffer c m) e) s fun t => t.rf (esA 4)
      23 16 = min (s.rf (esA 4) 23 16 + 1) 255 ∧ RegsBut s t [esA 4] ∧ { t with regs := s.regs } = s)
    ∧ (s.logicOn = true ∧ s.accepts 5 = true ∧ e = .uncorrectable ∧ s.queue c m = f :: qs → Gives (.memoryScrub (.swBuffer c
      m) e) s fun t => t.queue c m = qs ∧ (∀ i, i ≠ m → t.queue c i = s.queue c i) ∧ PortsBut s t [c.val] ∧ (if c.val = 15
      then { t with esw := s.esw, reports := s.reports } = s else t.regs = ((s.setQueue c m qs).txLost c f).regs ∧ t.esw =
      ((s.setQueue c m qs).txLost c f).esw) ∧ (∃ z ∈ t.reports.getLast?.toList, z.id = 0x600D ∧ z.ctx0.toNat = c.val))
    ∧ (s.logicOn = true ∧ s.accepts 5 = true ∧ (e = .clean ∨ e = .uncorrectable ∧ s.queue c m = []) → Gives (.memoryScrub
      (.swBuffer c m) e) s fun t => t = s)
    ∧ (s.logicOn = false → Gives (.memoryScrub (.word x) e) s fun t => t = s)

/-- A write of ADOPT to a power die outside limp-home is ignored and completes with DONE, whichever command writes it. A
  return of a die link leaves every power die that is in limp-home in limp-home. (05_drive_inputs_and_tasting.md R206.) -/
def Obligations.AdoptOutsideLimpHome : Prop :=
  ∀ (s : State) (a : Acc) (d : PDie) (v : DWord) (k : Link),
    (FarReaches s a d (dieA d.val 0x100) ∧ Manager s a ∧ s.limp d.val = false → Gives (.limpAdopt a d) s fun t => Answers t
      .done ∧ (∀ i, t.bridge i = s.bridge i) ∧ { t with brg := s.brg, resp := s.resp } = s)
    ∧ (FarReaches s a d (dieA d.val 0x100) ∧ Manager s a ∧ s.limp d.val = false ∧ bit v 0 = true → Gives (.registerWrite a
      (BitVec.ofNat 48 (dieA d.val 0x100)) 4 v) s fun t => Answers t .done ∧ (∀ i, t.bridge i = s.bridge i) ∧
      { t with brg := s.brg, resp := s.resp } = s)
    ∧ (Gives (.linkRestored k) s fun t => ∀ j : PDie, s.limp j = true → t.limp j = true)

/-- Whatever the command, a STANDBY module that it makes ACTIVE has a partner that is neither OK nor SUSPECT or is armed for
  a hand-over, its always-on manager is not in SLEEP_PENDING, and PAIR_OWN does not read low. (19_pair.md R667.) -/
def Obligations.StandbyHeldBack : Prop :=
    ∀ (c : Instr) (s t : State), exec c s = .next t → s.front.role = 2 → t.front.role = 3 →
      ((s.peer = 1 ∨ s.peer = 2) → s.prm.armed = true) ∧ s.aoState ≠ 1 ∧ s.front.ownLow = false
end

