-- ==== Sys2Proof/Laws/Memory.lean ====
section
/-!
SUPPORT. Sparse maps and byte memory: reads after writes, and the canonical form, which every memory operation keeps.
-/

namespace Sys2Proof.Machine

/-! ### Sparse maps -/

section Maps

variable {α : Type} (d : Nat → α)

theorem smGet_smErase (m : List (Nat × α)) (k j : Nat) : smGet d (smErase k m) j = if j = k then d k else smGet d m j := by
  induction m with
  | nil => by_cases h : j = k <;> simp [smErase, smGet, h]
  | cons p r ih =>
    by_cases hp : p.1 = k
    · simp only [smErase, hp, ↓reduceIte, ih, smGet]
      by_cases h : j = k
      · simp [h]
      · simp [h, Ne.symm h]
    · simp only [smErase, hp, ↓reduceIte, smGet, ih]
      by_cases h : p.1 = j
      · simp [h, show ¬ j = k from h ▸ hp]
      · simp [h]

theorem smGet_smInsert (m : List (Nat × α)) (k j : Nat) (v : α) (hk : ∀ p ∈ m, p.1 ≠ k) :
    smGet d (smInsert k v m) j = if j = k then v else smGet d m j := by
  induction m with
  | nil =>
    by_cases h : j = k
    · simp [smInsert, smGet, h]
    · simp [smInsert, smGet, h, Ne.symm h]
  | cons p r ih =>
    have hp : p.1 ≠ k := hk p (by simp)
    have ih := ih fun q hq => hk q (by simp [hq])
    unfold smInsert
    split
    · by_cases h : j = k
      · simp [smGet, h]
      · simp [smGet, h, Ne.symm h]
    · simp only [smGet, ih]
      by_cases h : p.1 = j
      · simp [h, show ¬ j = k from h ▸ hp]
      · simp [h]

theorem mem_smErase (m : List (Nat × α)) (k : Nat) (p : Nat × α) : p ∈ smErase k m ↔ p ∈ m ∧ p.1 ≠ k := by
  induction m with
  | nil => simp [smErase]
  | cons q r ih =>
    by_cases hq : q.1 = k
    · simp only [smErase, hq, ↓reduceIte, ih, List.mem_cons]
      constructor
      · rintro ⟨h, hk⟩; exact ⟨.inr h, hk⟩
      · rintro ⟨rfl | h, hk⟩
        · exact absurd hq hk
        · exact ⟨h, hk⟩
    · simp only [smErase, hq, ↓reduceIte, List.mem_cons, ih]
      constructor
      · rintro (rfl | ⟨h, hk⟩)
        · exact ⟨.inl rfl, hq⟩
        · exact ⟨.inr h, hk⟩
      · rintro ⟨rfl | h, hk⟩
        · exact .inl rfl
        · exact .inr ⟨h, hk⟩

/-- A read after a write of a sparse map. -/
theorem smGet_smSet [DecidableEq α] (m : List (Nat × α)) (k j : Nat) (v : α) :
    smGet d (smSet d m k v) j = if j = k then v else smGet d m j := by
  unfold smSet
  split
  · next h => rw [smGet_smErase, h]
  · rw [smGet_smInsert _ _ _ _ _ (fun p hp => ((mem_smErase m k p).1 hp).2), smGet_smErase]
    by_cases h : j = k <;> simp [h]

theorem mem_smInsert (m : List (Nat × α)) (k : Nat) (v : α) (p : Nat × α) : p ∈ smInsert k v m ↔ p = (k, v) ∨ p ∈ m := by
  induction m with
  | nil => simp [smInsert]
  | cons q r ih =>
    unfold smInsert
    split
    · simp
    · simp only [List.mem_cons, ih]
      exact ⟨fun h => h.elim (.inr ∘ .inl) (·.elim .inl (.inr ∘ .inr)), fun h => h.elim (.inr ∘ .inl) (·.elim .inl (.inr ∘ .inr))⟩

variable [DecidableEq α]

/-- The canonical form says: keys strictly rise, and no entry holds its default. -/
theorem smWf_iff (m : List (Nat × α)) :
    smWf d m = true ↔ m.Pairwise (·.1 < ·.1) ∧ ∀ p ∈ m, p.2 ≠ d p.1 := by
  induction m with
  | nil => simp [smWf]
  | cons p r ih =>
    cases r with
    | nil => simp [smWf]
    | cons q r =>
      simp only [smWf, Bool.and_eq_true, decide_eq_true_eq, ih]
      constructor
      · rintro ⟨⟨h1, h2⟩, h3, h4⟩
        refine ⟨List.pairwise_cons.2 ⟨fun x hx => ?_, h3⟩, fun x hx => ?_⟩
        · rcases List.mem_cons.1 hx with rfl | hx
          · exact h2
          · exact Nat.lt_trans h2 ((List.pairwise_cons.1 h3).1 x hx)
        · rcases List.mem_cons.1 hx with rfl | hx
          · exact h1
          · exact h4 x hx
      · rintro ⟨h1, h2⟩
        have hc := List.pairwise_cons.1 h1
        exact ⟨⟨h2 p (by simp), hc.1 q (by simp)⟩, hc.2, fun x hx => h2 x (by simp [hx])⟩

omit [DecidableEq α] in
theorem smErase_sublist (m : List (Nat × α)) (k : Nat) : (smErase k m).Sublist m := by
  induction m with
  | nil => simp [smErase]
  | cons p r ih =>
    by_cases h : p.1 = k
    · simpa [smErase, h] using ih.cons p
    · simpa [smErase, h] using ih.cons_cons p

theorem smWf_smErase (m : List (Nat × α)) (k : Nat) (h : smWf d m = true) : smWf d (smErase k m) = true := by
  rw [smWf_iff] at *
  exact ⟨h.1.sublist (smErase_sublist m k), fun p hp => h.2 p ((mem_smErase m k p).1 hp).1⟩

theorem smWf_smInsert (m : List (Nat × α)) (k : Nat) (v : α) (h : smWf d m = true) (hk : ∀ p ∈ m, p.1 ≠ k) (hv : v ≠ d k) :
    smWf d (smInsert k v m) = true := by
  rw [smWf_iff] at *
  refine ⟨?_, fun p hp => ?_⟩
  · have h1 := h.1
    clear h
    induction m with
    | nil => simp [smInsert]
    | cons q r ih =>
      have hc := List.pairwise_cons.1 h1
      unfold smInsert
      split
      · next hlt =>
        refine List.pairwise_cons.2 ⟨fun x hx => ?_, h1⟩
        rcases List.mem_cons.1 hx with rfl | hx
        · exact hlt
        · exact Nat.lt_trans hlt (hc.1 x hx)
      · next hge =>
        refine List.pairwise_cons.2 ⟨fun x hx => ?_, ih (fun p hp => hk p (by simp [hp])) hc.2⟩
        rcases (mem_smInsert r k v x).1 hx with rfl | hx
        · have := hk q (by simp)
          simp only
          omega
        · exact hc.1 x hx
  · rcases (mem_smInsert m k v p).1 hp with rfl | hp
    · exact hv
    · exact h.2 p hp

/-- A write keeps the canonical form. -/
theorem smWf_smSet (m : List (Nat × α)) (k : Nat) (v : α) (h : smWf d m = true) : smWf d (smSet d m k v) = true := by
  unfold smSet
  split
  · exact smWf_smErase d m k h
  · next hv =>
    exact smWf_smInsert d _ k v (smWf_smErase d m k h) (fun p hp => ((mem_smErase m k p).1 hp).2) hv

/-- So does a reset of the keys that `keep` does not hold. -/
theorem smWf_smKeep (m : List (Nat × α)) (keep : Nat → Bool) (h : smWf d m = true) : smWf d (smKeep keep m) = true := by
  rw [smWf_iff] at *
  exact ⟨h.1.sublist List.filter_sublist, fun p hp => h.2 p (List.mem_filter.1 hp).1⟩

omit [DecidableEq α] in
theorem smGet_smKeep (m : List (Nat × α)) (keep : Nat → Bool) (j : Nat) :
    smGet d (smKeep keep m) j = if keep j then smGet d m j else d j := by
  induction m with
  | nil => simp [smKeep, smGet]
  | cons p r ih =>
    simp only [smKeep] at ih
    by_cases hk : keep p.1 = true
    · simp only [smKeep, List.filter_cons, hk, ↓reduceIte, smGet, ih]
      by_cases h : p.1 = j
      · simp [← h, hk]
      · simp [h]
    · simp only [smKeep, List.filter_cons, hk, smGet, ih, Bool.false_eq_true, ↓reduceIte]
      by_cases h : p.1 = j
      · simp [← h, hk]
      · simp [h]

end Maps

/-! ### Registers -/

theorem State.rd_wr (s : State) (a b : Nat) (v : Word) : (s.wr a v).rd b = if b = a then v else s.rd b :=
  smGet_smSet regReset s.regs a b v

@[simp] theorem State.rd_wr_self (s : State) (a : Nat) (v : Word) : (s.wr a v).rd a = v := by simp [rd_wr]

theorem State.rd_wr_ne (s : State) (a b : Nat) (v : Word) (h : b ≠ a) : (s.wr a v).rd b = s.rd b := by simp [rd_wr, h]

theorem State.rd_resetRegs (s : State) (keep : Nat → Bool) (a : Nat) :
    (s.resetRegs keep).rd a = if keep a then s.rd a else regReset a := smGet_smKeep regReset s.regs keep a

/-! ### Bytes -/

theorem State.ldb_stb (s : State) (a b : Nat) (v : Byte) : (s.stb a v).ldb b = if b = a then v else s.ldb b :=
  smGet_smSet memReset s.mem a b v

@[simp] theorem State.stBytes_nil (s : State) (a : Nat) : s.stBytes a [] = s := rfl
theorem State.stBytes_cons (s : State) (a : Nat) (b : Byte) (r : List Byte) :
    s.stBytes a (b :: r) = (s.stb a b).stBytes (a + 1) r := rfl

/-- A store leaves every byte outside it alone. -/
theorem State.ldb_stBytes_ne (s : State) (a : Nat) (l : List Byte) (b : Nat) (h : b < a ∨ a + l.length ≤ b) :
    (s.stBytes a l).ldb b = s.ldb b := by
  induction l generalizing s a with
  | nil => rfl
  | cons x r ih =>
    have hl : (x :: r).length = r.length + 1 := rfl
    rw [stBytes_cons, ih _ _ (by omega), ldb_stb, if_neg (by omega)]

/-- A byte of a store reads as stored. -/
theorem State.ldb_stBytes (s : State) (a : Nat) (l : List Byte) (i : Nat) (h : i < l.length) :
    (s.stBytes a l).ldb (a + i) = l[i] := by
  induction l generalizing s a i with
  | nil => simp at h
  | cons x r ih =>
    rw [stBytes_cons]
    cases i with
    | zero => rw [ldb_stBytes_ne _ _ _ _ (by omega), ldb_stb]; simp
    | succ i =>
      have hi : i < r.length := by simpa using h
      rw [show a + (i + 1) = a + 1 + i by omega, ih _ _ _ hi]
      rfl

theorem State.ldBytes_stBytes (s : State) (a : Nat) (l : List Byte) : (s.stBytes a l).ldBytes a l.length = l := by
  refine List.ext_getElem (by simp [ldBytes]) fun i h1 h2 => ?_
  simp [ldBytes, ldb_stBytes _ _ _ _ h2]

/-- A store changes nothing but byte memory. -/
theorem State.stBytes_mem (s : State) (a : Nat) (l : List Byte) : s.stBytes a l = { s with mem := (s.stBytes a l).mem } := by
  induction l generalizing s a with
  | nil => rfl
  | cons x r ih => rw [stBytes_cons, ih]; rfl

/-! ### The canonical form of byte memory -/

theorem memory_wf_reset : Memory.wf State.reset.mem = true := rfl

theorem memory_wf_stb (s : State) (a : Nat) (v : Byte) (h : Memory.wf s.mem = true) : Memory.wf (s.stb a v).mem = true :=
  smWf_smSet memReset s.mem a v h

theorem memory_wf_stBytes (s : State) (a : Nat) (l : List Byte) (h : Memory.wf s.mem = true) :
    Memory.wf (s.stBytes a l).mem = true := by
  induction l generalizing s a with
  | nil => exact h
  | cons x r ih => exact ih _ _ (memory_wf_stb s a x h)

theorem memory_wf_stLE (s : State) (a n v : Nat) (h : Memory.wf s.mem = true) : Memory.wf (s.stLE a n v).mem = true :=
  memory_wf_stBytes s a _ h

theorem memory_wf_smKeep (m : List Host.Cell) (keep : Nat → Bool) (h : Memory.wf m = true) : Memory.wf (smKeep keep m) = true :=
  smWf_smKeep memReset m keep h

/-- A walk whose every step keeps a property of the state keeps it. -/
theorem foldl_keeps {β γ : Type} (f : State → β → State) (g : State → γ) (hf : ∀ s x, g (f s x) = g s) (l : List β) (s : State) :
    g (l.foldl f s) = g s := by
  induction l generalizing s with
  | nil => rfl
  | cons x r ih => rw [List.foldl_cons, ih, hf]

/-- Ending reservations touches no byte of memory. -/
theorem State.dropResv_mem (s : State) (a n : Nat) : (s.dropResv a n).mem = s.mem :=
  foldl_keeps _ State.mem (fun s x => by dsimp only; repeat' split <;> rfl) _ s

theorem State.memPut_mem (s : State) (a : Nat) (b : List Byte) : (s.memPut a b).mem = (s.stBytes a b).mem := by
  rw [memPut, dropResv_mem]; rfl

theorem memory_wf_memPut (s : State) (a : Nat) (b : List Byte) (h : Memory.wf s.mem = true) :
    Memory.wf (s.memPut a b).mem = true := by
  rw [State.memPut_mem]; exact memory_wf_stBytes s a b h

end Sys2Proof.Machine
end

