-- ==== Sys2Proof/Laws/Witness.lean ====
section
/-!
SUPPORT. Small states and issuers that the tests use: a module whose logic die runs, and what they put into it.
-/

namespace Sys2Proof.Laws

open Sys2Proof.Machine Sys2Proof.Safety

/-- The logic die runs with every rail up. -/
def wOn : State :=
  { State.reset with pwr := { phase := .run, held := false, rstnOut := true, enCore := true, enSys := true, enIo := true,
                              pgCore := true, pgSys := true, pgIo := true } }

/-- The power sequencer at a phase. -/
def wPhase (p : PwrPhase) : State := { State.reset with pwr := { phase := p } }

/-- TID 0 with W = 1. -/
def mgr : Acc := ⟨.carried 0 true, false⟩

/-- Tenant 5 of the Table world. -/
def ten : Acc := ⟨.carried 5 false, false⟩

/-- The debug module. -/
def wDbg : Acc := ⟨.debug, false⟩

/-- The logic die runs and every link carries flits. -/
def wLink : State := { wOn with links := [(0, { up := true }), (1, { up := true }), (2, { up := true })] }

/-- The logic die and both power dies run and are adopted; channel `c` is in state `st` of R126. -/
def wCh (c st : Nat) : State :=
  ((wLink.setDie 0 { supplied := true }).setDie 1 { supplied := true }).wf (chA c 0x24) 2 0 st

/-- Channel `c` in state `st`, held by the manager with EN set, its register source demanding `on`. -/
def wChOwned (c st : Nat) (on : Bool) : State :=
  (((wCh c st).wr (chA c 0) 0x80010100).wr (chA c 4) 1).wr (chA c 0xC) (if on then 3 else 2)

/-- Thread 2 of engine 3 is READY at the word `w`, with `x` in w1 and `y` in w2 and all data memory in its bounds. -/
def wThr (w x y : Word) : State :=
  (((((wOn.wf (thA 3 2 4) 2 0 1).wr (thA 3 2 8) 0x40000000).wr (thA 3 2 0xC) 0xBE00).setQreg 3 2 1 x).setQreg 3 2 2 y).stLE
    (imA 3 0) 4 w.toNat

/-- A start in which nothing fails. -/
def wEnv : BootEnv :=
  { bootSel := 3, eccS1A := false, eccS1B := false, eccA := false, eccB := false, eccRec := false, failP0 := 0, failP1 := 0,
    failF := 0, phyFail := 0, attFail := false, migration := .completed [] [] }

/-- Hart 2 runs at `pc` in mode `md` of the Reserve world, with 5 in x1, an address of system SRAM in x2 and 7 in x3. -/
def wHart (md : Mode) (pc : DWord) : State :=
  { wOn with harts := [(2, { held := false, mode := md, pc, x := [(1, 5), (2, 0x10000100), (3, 7)] })] }

/-- A module of role `role` in paired operation at position A, its pair key in slot 20 and P14 linked, partner reachable. -/
def wPair (role : Nat) : State :=
  { ((((((wLink.wr (prA 0) 0x80140A51).wr (prA 8) 0x20000).wr (slA 20 4) 0x2FF).wr (slA 20 8) 1).wr (portA 14 8) 0xB0000000).wr
      (portA 14 0xC) 0x70000000).setSlot 20 { key := List.replicate 32 7 } with
    front := { role, ownLow := role == 3, permit := role == 1 || role == 3 }
    brg := [(3, { pairUp := true })] }

/-- A pair frame of TYPE `typ` from a partner of role `role`, as P14 delivers it. -/
def wRx (role typ : Nat) (p : List Byte) (hand : HandPhase := .none) : HostRx :=
  ⟨pairFrameOf { wPair role with boot := { startCopies := (7, 0) }, prm := { seq := 4, hand } } (List.replicate 32 7) typ p, 0, 0, 14⟩

/-- That frame as it is accepted. -/
def wFrame (role typ : Nat) (p : List Byte) (flags : Nat := 4) : PairFrame :=
  { typ, role, flags, epoch := 7, seq := 5, time := 0, payload := p }

/-- The bytes before that frame's payload. -/
def wHdr (role typ n : Nat) (hand : HandPhase := .none) : List Byte :=
  let s := { wPair role with boot := { startCopies := (7, 0) }, prm := { seq := 4, hand } }
  let flags := s.homeReady.toNat + s.pairSync.toNat * 2 + s.posB.toNat * 4 + (s.prm.hand != .none).toNat * 8
  s.mac48 (prA 0xC) ++ s.mac48 (prA 0x14) ++ [0x88, 0xB5, 1, BitVec.ofNat 8 typ] ++ beBytes 2 n
    ++ beBytes 2 (s.rf (prA 0) 15 0) ++ [BitVec.ofNat 8 s.front.role, BitVec.ofNat 8 flags] ++ beBytes 4 s.boot.startCount
    ++ beBytes 4 (s.prm.seq + 1) ++ beBytes 4 s.now.toNat

/-- The bytes of that frame that its tag covers. -/
def wHead (role typ : Nat) (p : List Byte) (hand : HandPhase := .none) : List Byte := wHdr role typ p.length hand ++ p

theorem wRx_bytes (role typ : Nat) (p : List Byte) (hand : HandPhase) :
    (wRx role typ p hand).bytes = wHead role typ p hand ++ (cmac (List.replicate 32 7) (wHead role typ p hand)
      ++ List.replicate (60 - (wHead role typ p hand ++ cmac (List.replicate 32 7) (wHead role typ p hand)).length) 0) := by
  rw [← List.append_assoc]; rfl

theorem byteAt_front (a b : List Byte) (i : Nat) (h : i < a.length) : byteAt (a ++ b) i = byteAt a i := by
  unfold byteAt
  simp [List.getElem?_append_left h]

theorem slice_front (a b : List Byte) (i n : Nat) (h : i + n ≤ a.length) : slice (a ++ b) i n = slice a i n := by
  unfold slice
  exact List.map_congr_left fun k hk => byteAt_front a b _ (by have := List.mem_range.1 hk; omega)

/-- A frame with its tag is accepted when what its tag covers passes the other checks. -/
theorem accept_built (s : State) (key m c : List Byte) (f : PairFrame) (hk : s.pairKey = some key)
    (hl : (cmac key m).length = 16) (hm : m.length = 34 + f.payload.length)
    (hd : s.pairEn = true ∧ byteAt (m.drop 14) 0 = 1 ∧ pairLen f.typ = some f.payload.length
      ∧ beNat (slice (m.drop 14) 2 2) = f.payload.length ∧ (byteAt (m.drop 14) 1).toNat = f.typ
      ∧ beNat (slice (m.drop 14) 4 2) = s.rf (prA 0) 15 0
      ∧ (∀ l ∈ s.prm.last.toList, l.1 < f.epoch ∨ l.1 = f.epoch ∧ l.2 < f.seq)
      ∧ beNat (slice (m.drop 14) 8 4) = f.epoch ∧ beNat (slice (m.drop 14) 12 4) = f.seq
      ∧ (byteAt (m.drop 14) 6).toNat = f.role ∧ (byteAt (m.drop 14) 7).toNat = f.flags
      ∧ beNat (slice (m.drop 14) 16 4) = f.time ∧ slice (m.drop 14) 20 f.payload.length = f.payload) :
    s.pairAccept (m ++ (cmac key m ++ c)) = some f := by
  obtain ⟨h1, h2, h3, h4, h5, h6, h7, h8, h9, h10, h11, h12, h13⟩ := hd
  have hlen : (m.drop 14).length = 20 + f.payload.length := by simp; omega
  have hdrop : (m ++ (cmac key m ++ c)).drop 14 = m.drop 14 ++ (cmac key m ++ c) := by
    rw [List.drop_append_of_le_length (by omega)]
  have ht : (m ++ (cmac key m ++ c)).take (34 + f.payload.length) = m := by
    rw [← hm]; simp
  have hs : slice (m ++ (cmac key m ++ c)) (34 + f.payload.length) 16 = cmac key m := by
    refine List.ext_getElem (by simp [slice, hl]) fun i h1 h2 => ?_
    have hi : i < 16 := by simpa [slice] using h1
    have hg : (m ++ (cmac key m ++ c))[34 + f.payload.length + i]? = some (cmac key m)[i] := by
      rw [← hm, List.getElem?_append_right (Nat.le_add_right _ _), Nat.add_sub_cancel_left,
        List.getElem?_append_left h2, List.getElem?_eq_getElem h2]
    simp [slice, byteAt, hg]
  have b0 : ∀ i, i < 20 → byteAt (m.drop 14 ++ (cmac key m ++ c)) i = byteAt (m.drop 14) i :=
    fun i hi => byteAt_front _ _ _ (by omega)
  have s0 : ∀ i n, i + n ≤ 20 + f.payload.length →
      slice (m.drop 14 ++ (cmac key m ++ c)) i n = slice (m.drop 14) i n :=
    fun i n hi => slice_front _ _ _ _ (by omega)
  have hb : 34 + f.payload.length + 16 ≤ (m ++ (cmac key m ++ c)).length := by
    simp [hl]; omega
  unfold State.pairAccept
  simp only [hdrop, hk]
  rw [s0 2 2 (by omega), b0 1 (by omega), s0 8 4 (by omega), s0 12 4 (by omega), b0 0 (by omega), s0 4 2 (by omega),
    b0 6 (by omega), b0 7 (by omega), s0 16 4 (by omega), h2, h4, h5, h6, h8, h9, h10, h11, h12, s0 20 f.payload.length (by omega), h13]
  simp only [h1, h3, ht, hs, hb]
  cases hlast : s.prm.last with
  | none => simp
  | some l =>
    have := h7 l (by simp [hlast])
    simp [this]

/-- A tag is one block long. -/
theorem wTag_length (m : List Byte) : (cmac (List.replicate 32 7) m).length = 16 := by
  have h : ((aesKeys (List.replicate 32 7)).getD ((aesKeys (List.replicate 32 7)).length - 1) []).length = 16 := by
    decide +kernel
  simp only [cmac, cmacEnd, aesEnc, xorB, shiftRows, List.length_zipWith, List.length_map, List.length_range, h]
  rfl

/-- `wRx` is accepted as `f` where the bytes before its payload pass the other checks. -/
theorem accept_wRx (s : State) (role typ : Nat) (p : List Byte) (hand : HandPhase) (f : PairFrame)
    (hk : s.pairKey = some (List.replicate 32 7)) (hp : f.payload = p) (hm : (wHdr role typ p.length hand).length = 34)
    (hd : s.pairEn = true ∧ byteAt ((wHdr role typ p.length hand).drop 14) 0 = 1 ∧ pairLen f.typ = some p.length
      ∧ beNat (slice ((wHdr role typ p.length hand).drop 14) 2 2) = p.length
      ∧ (byteAt ((wHdr role typ p.length hand).drop 14) 1).toNat = f.typ
      ∧ beNat (slice ((wHdr role typ p.length hand).drop 14) 4 2) = s.rf (prA 0) 15 0
      ∧ (∀ l ∈ s.prm.last.toList, l.1 < f.epoch ∨ l.1 = f.epoch ∧ l.2 < f.seq)
      ∧ beNat (slice ((wHdr role typ p.length hand).drop 14) 8 4) = f.epoch
      ∧ beNat (slice ((wHdr role typ p.length hand).drop 14) 12 4) = f.seq
      ∧ (byteAt ((wHdr role typ p.length hand).drop 14) 6).toNat = f.role
      ∧ (byteAt ((wHdr role typ p.length hand).drop 14) 7).toNat = f.flags
      ∧ beNat (slice ((wHdr role typ p.length hand).drop 14) 16 4) = f.time) :
    s.pairAccept (wRx role typ p hand).bytes = some f := by
  subst hp
  have hdrop : (wHead role typ f.payload hand).drop 14 = (wHdr role typ f.payload.length hand).drop 14 ++ f.payload := by
    rw [wHead, List.drop_append_of_le_length (by omega)]
  have hl : ((wHdr role typ f.payload.length hand).drop 14).length = 20 := by simp [hm]
  have b0 : ∀ i, i < 20 → byteAt ((wHead role typ f.payload hand).drop 14) i
      = byteAt ((wHdr role typ f.payload.length hand).drop 14) i :=
    fun i hi => by rw [hdrop]; exact byteAt_front _ _ _ (by omega)
  have s0 : ∀ i n, i + n ≤ 20 → slice ((wHead role typ f.payload hand).drop 14) i n
      = slice ((wHdr role typ f.payload.length hand).drop 14) i n :=
    fun i n hi => by rw [hdrop]; exact slice_front _ _ _ _ (by omega)
  have hp : slice ((wHead role typ f.payload hand).drop 14) 20 f.payload.length = f.payload := by
    rw [hdrop]
    refine List.ext_getElem (by simp [slice]) fun i h1 h2 => ?_
    have hg : ((wHdr role typ f.payload.length hand).drop 14 ++ f.payload)[20 + i]? = some f.payload[i] := by
      rw [← hl, List.getElem?_append_right (Nat.le_add_right _ _), Nat.add_sub_cancel_left, List.getElem?_eq_getElem h2]
    simp [slice, byteAt, hg]
  rw [wRx_bytes]
  refine accept_built s _ _ _ f hk (wTag_length _) (by simp [wHead, hm]) ?_
  rw [s0 2 2 (by omega), b0 1 (by omega), s0 8 4 (by omega), s0 12 4 (by omega), b0 0 (by omega), s0 4 2 (by omega),
    b0 6 (by omega), b0 7 (by omega), s0 16 4 (by omega), hp]
  obtain ⟨h1, h2, h3, h4, h5, h6, h7, h8, h9, h10, h11, h12⟩ := hd
  exact ⟨h1, h2, h3, h4, h5, h6, h7, h8, h9, h10, h11, h12, rfl⟩

end Sys2Proof.Laws
end

