-- ==== Sys2Proof/Laws/Message.lean ====
section
/-!
SUPPORT. Counter mode undone by counter mode, GCM opened where it was sealed, and a message as memory holds it: what the witnesses
about key messages need, without an evaluation of AES.
-/

namespace Sys2Proof.Laws

open Sys2Proof.Machine Sys2Proof.Safety

/-! ### Whole blocks -/

/-- Counter mode over a list of blocks. -/
def ctrBlocks (gcm : Bool) (key : List Byte) : List (List Byte) → List Byte → List (List Byte)
  | [], _ => []
  | b :: r, c => xorB b ((aesEnc key c).take b.length) :: ctrBlocks gcm key r (ctrInc gcm c)

theorem ctr_fold (gcm : Bool) (key : List Byte) (bs : List (List Byte)) (acc c : List Byte) :
    (bs.foldl (fun p b => (p.1 ++ xorB b ((aesEnc key p.2).take b.length), ctrInc gcm p.2)) (acc, c)).1
      = acc ++ (ctrBlocks gcm key bs c).flatten := by
  induction bs generalizing acc c with
  | nil => simp [ctrBlocks]
  | cons b r ih => rw [List.foldl_cons, ih]; simp [ctrBlocks]

theorem ctr_eq (gcm : Bool) (key c l : List Byte) : (ctr gcm key c l).1 = (ctrBlocks gcm key (blocks l) c).flatten :=
  ctr_fold gcm key (blocks l) [] c

theorem xorB_cancel (a b : List Byte) (h : a.length ≤ b.length) : xorB (xorB a b) b = a := by
  induction a generalizing b with
  | nil => rfl
  | cons x r ih =>
    cases b with
    | nil => simp at h
    | cons y q =>
      have h : r.length ≤ q.length := by simpa using h
      have hx : (x ^^^ y) ^^^ y = x := by rw [BitVec.xor_assoc, BitVec.xor_self, BitVec.xor_zero]
      have := ih q h
      simp only [xorB] at this
      simp [xorB, hx, this]

theorem ctrBlocks_length (gcm : Bool) (key : List Byte) (hk : ∀ x, (aesEnc key x).length = 16) (bs : List (List Byte))
    (hb : ∀ b ∈ bs, b.length = 16) (c : List Byte) : ∀ b ∈ ctrBlocks gcm key bs c, b.length = 16 := by
  induction bs generalizing c with
  | nil => simp [ctrBlocks]
  | cons b r ih =>
    intro x hx
    rcases List.mem_cons.1 hx with rfl | hx
    · have := hb b (by simp)
      simp [xorB, hk, this]
    · exact ih (fun y hy => hb y (by simp [hy])) _ x hx

theorem ctrBlocks_twice (gcm : Bool) (key : List Byte) (hk : ∀ x, (aesEnc key x).length = 16) (bs : List (List Byte))
    (hb : ∀ b ∈ bs, b.length = 16) (c : List Byte) : ctrBlocks gcm key (ctrBlocks gcm key bs c) c = bs := by
  induction bs generalizing c with
  | nil => rfl
  | cons b r ih =>
    have h16 : b.length = 16 := hb b (by simp)
    have hx : (xorB b ((aesEnc key c).take b.length)).length = b.length := by simp [xorB, hk, h16]
    simp only [ctrBlocks, hx, ih fun y hy => hb y (by simp [hy])]
    rw [xorB_cancel _ _ (by simp [hk, h16])]

theorem flatten_length (bs : List (List Byte)) (hb : ∀ b ∈ bs, b.length = 16) : bs.flatten.length = 16 * bs.length := by
  induction bs with
  | nil => rfl
  | cons b r ih =>
    have := hb b (by simp)
    have := ih fun y hy => hb y (by simp [hy])
    simp only [List.flatten_cons, List.length_append, List.length_cons]
    omega

theorem blocks_flatten (bs : List (List Byte)) (hb : ∀ b ∈ bs, b.length = 16) : blocks bs.flatten = bs := by
  unfold blocks
  rw [flatten_length bs hb, show (16 * bs.length + 15) / 16 = bs.length by omega]
  induction bs with
  | nil => rfl
  | cons b r ih =>
    have h16 : b.length = 16 := hb b (by simp)
    rw [List.length_cons, List.range_succ_eq_map, List.map_cons, List.map_map]
    congr 1
    · simp [h16]
    · refine Eq.trans (List.map_congr_left fun i _ => ?_) (ih fun y hy => hb y (by simp [hy]))
      simp only [Function.comp, List.flatten_cons]
      rw [show 16 * (i + 1) = b.length + 16 * i by omega, List.drop_append, List.drop_eq_nil_of_le (by omega)]
      simp

/-- Counter mode undoes counter mode on whole blocks. -/
theorem ctr_twice (gcm : Bool) (key : List Byte) (hk : ∀ x, (aesEnc key x).length = 16) (bs : List (List Byte))
    (hb : ∀ b ∈ bs, b.length = 16) (c : List Byte) : (ctr gcm key c (ctr gcm key c bs.flatten).1).1 = bs.flatten := by
  rw [ctr_eq gcm key c bs.flatten, blocks_flatten bs hb, ctr_eq, blocks_flatten _ (ctrBlocks_length gcm key hk bs hb c),
    ctrBlocks_twice gcm key hk bs hb]

/-- What GCM has sealed opens. -/
theorem gcmOpen_seal (key iv aad : List Byte) (hk : ∀ x, (aesEnc key x).length = 16) (bs : List (List Byte))
    (hb : ∀ b ∈ bs, b.length = 16) :
    gcmOpen key iv aad (gcmSeal key iv aad bs.flatten).1 (gcmSeal key iv aad bs.flatten).2 = some bs.flatten := by
  unfold gcmOpen gcmSeal
  simp only [List.take_length, ↓reduceIte, ctr_twice true key hk bs hb]

theorem leBytes_length (n v : Nat) : (leBytes n v).length = n := by
  induction n generalizing v with
  | zero => rfl
  | succ n ih => simp [leBytes, ih]

theorem gcmTag_length (key j0 : List Byte) (hk : ∀ x, (aesEnc key x).length = 16) (acc a n : Nat) :
    (gcmTag key j0 acc a n).length = 16 := by
  unfold gcmTag xorB beBytes
  rw [List.length_zipWith, List.length_reverse, leBytes_length, hk]
  rfl

/-- A seal of whole blocks is as long as they are, and its tag is one block. -/
theorem gcmSeal_length (key iv aad : List Byte) (hk : ∀ x, (aesEnc key x).length = 16) (bs : List (List Byte))
    (hb : ∀ b ∈ bs, b.length = 16) :
    (gcmSeal key iv aad bs.flatten).1.length = 16 * (blocks bs.flatten).length
      ∧ (gcmSeal key iv aad bs.flatten).2.length = 16 := by
  refine ⟨?_, gcmTag_length _ _ hk _ _ _⟩
  have h := ctrBlocks_length true key hk bs hb (ctrInc true (gcmJ0 iv))
  have hl : ∀ (l : List (List Byte)) c, (ctrBlocks true key l c).length = l.length := by
    intro l
    induction l with
    | nil => exact fun _ => rfl
    | cons b r ih => intro c; simp [ctrBlocks, ih]
  show (ctr true key (ctrInc true (gcmJ0 iv)) bs.flatten).1.length = _
  rw [ctr_eq, blocks_flatten bs hb, flatten_length _ h, hl]

/-! ### A message in memory -/

theorem imgBytes_stBytes (s : State) (a : Nat) (m : List Byte) (o n : Nat) (h : o + n ≤ m.length) :
    imgBytes ((s.stBytes a m).img a) o n = slice m o n := by
  unfold imgBytes slice
  refine List.map_congr_left fun i hi => ?_
  have hi : o + i < m.length := by have := List.mem_range.1 hi; omega
  show (s.stBytes a m).ldb (a + (o + i)) = _
  rw [State.ldb_stBytes _ _ _ _ hi]
  simp [byteAt, List.getElem?_eq_getElem hi]

theorem imgBytes_past (s : State) (a : Nat) (m : List Byte) (o n : Nat) (h : m.length ≤ o) (hs : s.mem = []) :
    imgBytes ((s.stBytes a m).img a) o n = List.replicate n 0 := by
  rw [List.eq_replicate_iff]
  refine ⟨by simp [imgBytes], fun b hb => ?_⟩
  obtain ⟨i, -, rfl⟩ := List.mem_map.1 hb
  show (s.stBytes a m).ldb (a + (o + i)) = _
  rw [State.ldb_stBytes_ne _ _ _ _ (by omega)]
  simp [State.ldb, hs, smGet, memReset]

end Sys2Proof.Laws
end

