-- ==== Sys2Proof/Laws/State.lean ====
section
/-!
SUPPORT. What each plain update of the state leaves in each field, one lemma per field per update.
-/

namespace Sys2Proof.Machine

/-! `State.wr` -/
@[simp] theorem State.wr_regs (s : State) (a : Nat) (v : Word) : (s.wr a v).regs = smSet regReset s.regs a v := rfl
@[simp] theorem State.wr_mem (s : State) (a : Nat) (v : Word) : (s.wr a v).mem = s.mem := rfl
@[simp] theorem State.wr_eccBad (s : State) (a : Nat) (v : Word) : (s.wr a v).eccBad = s.eccBad := rfl
@[simp] theorem State.wr_resp (s : State) (a : Nat) (v : Word) : (s.wr a v).resp = s.resp := rfl
@[simp] theorem State.wr_reports (s : State) (a : Nat) (v : Word) : (s.wr a v).reports = s.reports := rfl
@[simp] theorem State.wr_dieLogs (s : State) (a : Nat) (v : Word) : (s.wr a v).dieLogs = s.dieLogs := rfl
@[simp] theorem State.wr_boundary (s : State) (a : Nat) (v : Word) : (s.wr a v).boundary = s.boundary := rfl
@[simp] theorem State.wr_draining (s : State) (a : Nat) (v : Word) : (s.wr a v).draining = s.draining := rfl
@[simp] theorem State.wr_free (s : State) (a : Nat) (v : Word) : (s.wr a v).free = s.free := rfl
@[simp] theorem State.wr_pwr (s : State) (a : Nat) (v : Word) : (s.wr a v).pwr = s.pwr := rfl
@[simp] theorem State.wr_links (s : State) (a : Nat) (v : Word) : (s.wr a v).links = s.links := rfl
@[simp] theorem State.wr_isl (s : State) (a : Nat) (v : Word) : (s.wr a v).isl = s.isl := rfl
@[simp] theorem State.wr_fuse (s : State) (a : Nat) (v : Word) : (s.wr a v).fuse = s.fuse := rfl
@[simp] theorem State.wr_boot (s : State) (a : Nat) (v : Word) : (s.wr a v).boot = s.boot := rfl
@[simp] theorem State.wr_dbg (s : State) (a : Nat) (v : Word) : (s.wr a v).dbg = s.dbg := rfl
@[simp] theorem State.wr_chs (s : State) (a : Nat) (v : Word) : (s.wr a v).chs = s.chs := rfl
@[simp] theorem State.wr_dies (s : State) (a : Nat) (v : Word) : (s.wr a v).dies = s.dies := rfl
@[simp] theorem State.wr_lines (s : State) (a : Nat) (v : Word) : (s.wr a v).lines = s.lines := rfl
@[simp] theorem State.wr_sins (s : State) (a : Nat) (v : Word) : (s.wr a v).sins = s.sins := rfl
@[simp] theorem State.wr_front (s : State) (a : Nat) (v : Word) : (s.wr a v).front = s.front := rfl
@[simp] theorem State.wr_dinLand (s : State) (a : Nat) (v : Word) : (s.wr a v).dinLand = s.dinLand := rfl
@[simp] theorem State.wr_harts (s : State) (a : Nat) (v : Word) : (s.wr a v).harts = s.harts := rfl
@[simp] theorem State.wr_msis (s : State) (a : Nat) (v : Word) : (s.wr a v).msis = s.msis := rfl
@[simp] theorem State.wr_aplic (s : State) (a : Nat) (v : Word) : (s.wr a v).aplic = s.aplic := rfl
@[simp] theorem State.wr_ticks (s : State) (a : Nat) (v : Word) : (s.wr a v).ticks = s.ticks := rfl
@[simp] theorem State.wr_rwd (s : State) (a : Nat) (v : Word) : (s.wr a v).rwd = s.rwd := rfl
@[simp] theorem State.wr_fc (s : State) (a : Nat) (v : Word) : (s.wr a v).fc = s.fc := rfl
@[simp] theorem State.wr_tb (s : State) (a : Nat) (v : Word) : (s.wr a v).tb = s.tb := rfl
@[simp] theorem State.wr_thrs (s : State) (a : Nat) (v : Word) : (s.wr a v).thrs = s.thrs := rfl
@[simp] theorem State.wr_engs (s : State) (a : Nat) (v : Word) : (s.wr a v).engs = s.engs := rfl
@[simp] theorem State.wr_mirror (s : State) (a : Nat) (v : Word) : (s.wr a v).mirror = s.mirror := rfl
@[simp] theorem State.wr_measTx (s : State) (a : Nat) (v : Word) : (s.wr a v).measTx = s.measTx := rfl
@[simp] theorem State.wr_measNo (s : State) (a : Nat) (v : Word) : (s.wr a v).measNo = s.measNo := rfl
@[simp] theorem State.wr_casks (s : State) (a : Nat) (v : Word) : (s.wr a v).casks = s.casks := rfl
@[simp] theorem State.wr_tnResets (s : State) (a : Nat) (v : Word) : (s.wr a v).tnResets = s.tnResets := rfl
@[simp] theorem State.wr_cans (s : State) (a : Nat) (v : Word) : (s.wr a v).cans = s.cans := rfl
@[simp] theorem State.wr_lins (s : State) (a : Nat) (v : Word) : (s.wr a v).lins = s.lins := rfl
@[simp] theorem State.wr_clr (s : State) (a : Nat) (v : Word) : (s.wr a v).clr = s.clr := rfl
@[simp] theorem State.wr_esw (s : State) (a : Nat) (v : Word) : (s.wr a v).esw = s.esw := rfl
@[simp] theorem State.wr_kst (s : State) (a : Nat) (v : Word) : (s.wr a v).kst = s.kst := rfl
@[simp] theorem State.wr_cph (s : State) (a : Nat) (v : Word) : (s.wr a v).cph = s.cph := rfl
@[simp] theorem State.wr_stg (s : State) (a : Nat) (v : Word) : (s.wr a v).stg = s.stg := rfl
@[simp] theorem State.wr_nand (s : State) (a : Nat) (v : Word) : (s.wr a v).nand = s.nand := rfl
@[simp] theorem State.wr_tnSaid (s : State) (a : Nat) (v : Word) : (s.wr a v).tnSaid = s.tnSaid := rfl
@[simp] theorem State.wr_tnAborted (s : State) (a : Nat) (v : Word) : (s.wr a v).tnAborted = s.tnAborted := rfl
@[simp] theorem State.wr_evs (s : State) (a : Nat) (v : Word) : (s.wr a v).evs = s.evs := rfl
@[simp] theorem State.wr_brg (s : State) (a : Nat) (v : Word) : (s.wr a v).brg = s.brg := rfl
@[simp] theorem State.wr_prm (s : State) (a : Nat) (v : Word) : (s.wr a v).prm = s.prm := rfl
@[simp] theorem State.wr_pending (s : State) (a : Nat) (v : Word) : (s.wr a v).pending = s.pending := rfl

/-! `State.stb` -/
@[simp] theorem State.stb_regs (s : State) (a : Nat) (v : Byte) : (s.stb a v).regs = s.regs := rfl
@[simp] theorem State.stb_mem (s : State) (a : Nat) (v : Byte) : (s.stb a v).mem = smSet memReset s.mem a v := rfl
@[simp] theorem State.stb_eccBad (s : State) (a : Nat) (v : Byte) : (s.stb a v).eccBad = s.eccBad := rfl
@[simp] theorem State.stb_resp (s : State) (a : Nat) (v : Byte) : (s.stb a v).resp = s.resp := rfl
@[simp] theorem State.stb_reports (s : State) (a : Nat) (v : Byte) : (s.stb a v).reports = s.reports := rfl
@[simp] theorem State.stb_dieLogs (s : State) (a : Nat) (v : Byte) : (s.stb a v).dieLogs = s.dieLogs := rfl
@[simp] theorem State.stb_boundary (s : State) (a : Nat) (v : Byte) : (s.stb a v).boundary = s.boundary := rfl
@[simp] theorem State.stb_draining (s : State) (a : Nat) (v : Byte) : (s.stb a v).draining = s.draining := rfl
@[simp] theorem State.stb_free (s : State) (a : Nat) (v : Byte) : (s.stb a v).free = s.free := rfl
@[simp] theorem State.stb_pwr (s : State) (a : Nat) (v : Byte) : (s.stb a v).pwr = s.pwr := rfl
@[simp] theorem State.stb_links (s : State) (a : Nat) (v : Byte) : (s.stb a v).links = s.links := rfl
@[simp] theorem State.stb_isl (s : State) (a : Nat) (v : Byte) : (s.stb a v).isl = s.isl := rfl
@[simp] theorem State.stb_fuse (s : State) (a : Nat) (v : Byte) : (s.stb a v).fuse = s.fuse := rfl
@[simp] theorem State.stb_boot (s : State) (a : Nat) (v : Byte) : (s.stb a v).boot = s.boot := rfl
@[simp] theorem State.stb_dbg (s : State) (a : Nat) (v : Byte) : (s.stb a v).dbg = s.dbg := rfl
@[simp] theorem State.stb_chs (s : State) (a : Nat) (v : Byte) : (s.stb a v).chs = s.chs := rfl
@[simp] theorem State.stb_dies (s : State) (a : Nat) (v : Byte) : (s.stb a v).dies = s.dies := rfl
@[simp] theorem State.stb_lines (s : State) (a : Nat) (v : Byte) : (s.stb a v).lines = s.lines := rfl
@[simp] theorem State.stb_sins (s : State) (a : Nat) (v : Byte) : (s.stb a v).sins = s.sins := rfl
@[simp] theorem State.stb_front (s : State) (a : Nat) (v : Byte) : (s.stb a v).front = s.front := rfl
@[simp] theorem State.stb_dinLand (s : State) (a : Nat) (v : Byte) : (s.stb a v).dinLand = s.dinLand := rfl
@[simp] theorem State.stb_harts (s : State) (a : Nat) (v : Byte) : (s.stb a v).harts = s.harts := rfl
@[simp] theorem State.stb_msis (s : State) (a : Nat) (v : Byte) : (s.stb a v).msis = s.msis := rfl
@[simp] theorem State.stb_aplic (s : State) (a : Nat) (v : Byte) : (s.stb a v).aplic = s.aplic := rfl
@[simp] theorem State.stb_ticks (s : State) (a : Nat) (v : Byte) : (s.stb a v).ticks = s.ticks := rfl
@[simp] theorem State.stb_rwd (s : State) (a : Nat) (v : Byte) : (s.stb a v).rwd = s.rwd := rfl
@[simp] theorem State.stb_fc (s : State) (a : Nat) (v : Byte) : (s.stb a v).fc = s.fc := rfl
@[simp] theorem State.stb_tb (s : State) (a : Nat) (v : Byte) : (s.stb a v).tb = s.tb := rfl
@[simp] theorem State.stb_thrs (s : State) (a : Nat) (v : Byte) : (s.stb a v).thrs = s.thrs := rfl
@[simp] theorem State.stb_engs (s : State) (a : Nat) (v : Byte) : (s.stb a v).engs = s.engs := rfl
@[simp] theorem State.stb_mirror (s : State) (a : Nat) (v : Byte) : (s.stb a v).mirror = s.mirror := rfl
@[simp] theorem State.stb_measTx (s : State) (a : Nat) (v : Byte) : (s.stb a v).measTx = s.measTx := rfl
@[simp] theorem State.stb_measNo (s : State) (a : Nat) (v : Byte) : (s.stb a v).measNo = s.measNo := rfl
@[simp] theorem State.stb_casks (s : State) (a : Nat) (v : Byte) : (s.stb a v).casks = s.casks := rfl
@[simp] theorem State.stb_tnResets (s : State) (a : Nat) (v : Byte) : (s.stb a v).tnResets = s.tnResets := rfl
@[simp] theorem State.stb_cans (s : State) (a : Nat) (v : Byte) : (s.stb a v).cans = s.cans := rfl
@[simp] theorem State.stb_lins (s : State) (a : Nat) (v : Byte) : (s.stb a v).lins = s.lins := rfl
@[simp] theorem State.stb_clr (s : State) (a : Nat) (v : Byte) : (s.stb a v).clr = s.clr := rfl
@[simp] theorem State.stb_esw (s : State) (a : Nat) (v : Byte) : (s.stb a v).esw = s.esw := rfl
@[simp] theorem State.stb_kst (s : State) (a : Nat) (v : Byte) : (s.stb a v).kst = s.kst := rfl
@[simp] theorem State.stb_cph (s : State) (a : Nat) (v : Byte) : (s.stb a v).cph = s.cph := rfl
@[simp] theorem State.stb_stg (s : State) (a : Nat) (v : Byte) : (s.stb a v).stg = s.stg := rfl
@[simp] theorem State.stb_nand (s : State) (a : Nat) (v : Byte) : (s.stb a v).nand = s.nand := rfl
@[simp] theorem State.stb_tnSaid (s : State) (a : Nat) (v : Byte) : (s.stb a v).tnSaid = s.tnSaid := rfl
@[simp] theorem State.stb_tnAborted (s : State) (a : Nat) (v : Byte) : (s.stb a v).tnAborted = s.tnAborted := rfl
@[simp] theorem State.stb_evs (s : State) (a : Nat) (v : Byte) : (s.stb a v).evs = s.evs := rfl
@[simp] theorem State.stb_brg (s : State) (a : Nat) (v : Byte) : (s.stb a v).brg = s.brg := rfl
@[simp] theorem State.stb_prm (s : State) (a : Nat) (v : Byte) : (s.stb a v).prm = s.prm := rfl
@[simp] theorem State.stb_pending (s : State) (a : Nat) (v : Byte) : (s.stb a v).pending = s.pending := rfl

/-! `State.resetRegs` -/
@[simp] theorem State.resetRegs_regs (s : State) (keep : Nat → Bool) : (s.resetRegs keep).regs = smKeep keep s.regs := rfl
@[simp] theorem State.resetRegs_mem (s : State) (keep : Nat → Bool) : (s.resetRegs keep).mem = s.mem := rfl
@[simp] theorem State.resetRegs_eccBad (s : State) (keep : Nat → Bool) : (s.resetRegs keep).eccBad = s.eccBad := rfl
@[simp] theorem State.resetRegs_resp (s : State) (keep : Nat → Bool) : (s.resetRegs keep).resp = s.resp := rfl
@[simp] theorem State.resetRegs_reports (s : State) (keep : Nat → Bool) : (s.resetRegs keep).reports = s.reports := rfl
@[simp] theorem State.resetRegs_dieLogs (s : State) (keep : Nat → Bool) : (s.resetRegs keep).dieLogs = s.dieLogs := rfl
@[simp] theorem State.resetRegs_boundary (s : State) (keep : Nat → Bool) : (s.resetRegs keep).boundary = s.boundary := rfl
@[simp] theorem State.resetRegs_draining (s : State) (keep : Nat → Bool) : (s.resetRegs keep).draining = s.draining := rfl
@[simp] theorem State.resetRegs_free (s : State) (keep : Nat → Bool) : (s.resetRegs keep).free = s.free := rfl
@[simp] theorem State.resetRegs_pwr (s : State) (keep : Nat → Bool) : (s.resetRegs keep).pwr = s.pwr := rfl
@[simp] theorem State.resetRegs_links (s : State) (keep : Nat → Bool) : (s.resetRegs keep).links = s.links := rfl
@[simp] theorem State.resetRegs_isl (s : State) (keep : Nat → Bool) : (s.resetRegs keep).isl = s.isl := rfl
@[simp] theorem State.resetRegs_fuse (s : State) (keep : Nat → Bool) : (s.resetRegs keep).fuse = s.fuse := rfl
@[simp] theorem State.resetRegs_boot (s : State) (keep : Nat → Bool) : (s.resetRegs keep).boot = s.boot := rfl
@[simp] theorem State.resetRegs_dbg (s : State) (keep : Nat → Bool) : (s.resetRegs keep).dbg = s.dbg := rfl
@[simp] theorem State.resetRegs_chs (s : State) (keep : Nat → Bool) : (s.resetRegs keep).chs = s.chs := rfl
@[simp] theorem State.resetRegs_dies (s : State) (keep : Nat → Bool) : (s.resetRegs keep).dies = s.dies := rfl
@[simp] theorem State.resetRegs_lines (s : State) (keep : Nat → Bool) : (s.resetRegs keep).lines = s.lines := rfl
@[simp] theorem State.resetRegs_sins (s : State) (keep : Nat → Bool) : (s.resetRegs keep).sins = s.sins := rfl
@[simp] theorem State.resetRegs_front (s : State) (keep : Nat → Bool) : (s.resetRegs keep).front = s.front := rfl
@[simp] theorem State.resetRegs_dinLand (s : State) (keep : Nat → Bool) : (s.resetRegs keep).dinLand = s.dinLand := rfl
@[simp] theorem State.resetRegs_harts (s : State) (keep : Nat → Bool) : (s.resetRegs keep).harts = s.harts := rfl
@[simp] theorem State.resetRegs_msis (s : State) (keep : Nat → Bool) : (s.resetRegs keep).msis = s.msis := rfl
@[simp] theorem State.resetRegs_aplic (s : State) (keep : Nat → Bool) : (s.resetRegs keep).aplic = s.aplic := rfl
@[simp] theorem State.resetRegs_ticks (s : State) (keep : Nat → Bool) : (s.resetRegs keep).ticks = s.ticks := rfl
@[simp] theorem State.resetRegs_rwd (s : State) (keep : Nat → Bool) : (s.resetRegs keep).rwd = s.rwd := rfl
@[simp] theorem State.resetRegs_fc (s : State) (keep : Nat → Bool) : (s.resetRegs keep).fc = s.fc := rfl
@[simp] theorem State.resetRegs_tb (s : State) (keep : Nat → Bool) : (s.resetRegs keep).tb = s.tb := rfl
@[simp] theorem State.resetRegs_thrs (s : State) (keep : Nat → Bool) : (s.resetRegs keep).thrs = s.thrs := rfl
@[simp] theorem State.resetRegs_engs (s : State) (keep : Nat → Bool) : (s.resetRegs keep).engs = s.engs := rfl
@[simp] theorem State.resetRegs_mirror (s : State) (keep : Nat → Bool) : (s.resetRegs keep).mirror = s.mirror := rfl
@[simp] theorem State.resetRegs_measTx (s : State) (keep : Nat → Bool) : (s.resetRegs keep).measTx = s.measTx := rfl
@[simp] theorem State.resetRegs_measNo (s : State) (keep : Nat → Bool) : (s.resetRegs keep).measNo = s.measNo := rfl
@[simp] theorem State.resetRegs_casks (s : State) (keep : Nat → Bool) : (s.resetRegs keep).casks = s.casks := rfl
@[simp] theorem State.resetRegs_tnResets (s : State) (keep : Nat → Bool) : (s.resetRegs keep).tnResets = s.tnResets := rfl
@[simp] theorem State.resetRegs_cans (s : State) (keep : Nat → Bool) : (s.resetRegs keep).cans = s.cans := rfl
@[simp] theorem State.resetRegs_lins (s : State) (keep : Nat → Bool) : (s.resetRegs keep).lins = s.lins := rfl
@[simp] theorem State.resetRegs_clr (s : State) (keep : Nat → Bool) : (s.resetRegs keep).clr = s.clr := rfl
@[simp] theorem State.resetRegs_esw (s : State) (keep : Nat → Bool) : (s.resetRegs keep).esw = s.esw := rfl
@[simp] theorem State.resetRegs_kst (s : State) (keep : Nat → Bool) : (s.resetRegs keep).kst = s.kst := rfl
@[simp] theorem State.resetRegs_cph (s : State) (keep : Nat → Bool) : (s.resetRegs keep).cph = s.cph := rfl
@[simp] theorem State.resetRegs_stg (s : State) (keep : Nat → Bool) : (s.resetRegs keep).stg = s.stg := rfl
@[simp] theorem State.resetRegs_nand (s : State) (keep : Nat → Bool) : (s.resetRegs keep).nand = s.nand := rfl
@[simp] theorem State.resetRegs_tnSaid (s : State) (keep : Nat → Bool) : (s.resetRegs keep).tnSaid = s.tnSaid := rfl
@[simp] theorem State.resetRegs_tnAborted (s : State) (keep : Nat → Bool) : (s.resetRegs keep).tnAborted = s.tnAborted := rfl
@[simp] theorem State.resetRegs_evs (s : State) (keep : Nat → Bool) : (s.resetRegs keep).evs = s.evs := rfl
@[simp] theorem State.resetRegs_brg (s : State) (keep : Nat → Bool) : (s.resetRegs keep).brg = s.brg := rfl
@[simp] theorem State.resetRegs_prm (s : State) (keep : Nat → Bool) : (s.resetRegs keep).prm = s.prm := rfl
@[simp] theorem State.resetRegs_pending (s : State) (keep : Nat → Bool) : (s.resetRegs keep).pending = s.pending := rfl

/-! `State.setHart` -/
@[simp] theorem State.setHart_regs (s : State) (h : Nat) (v : Hart) : (s.setHart h v).regs = s.regs := rfl
@[simp] theorem State.setHart_mem (s : State) (h : Nat) (v : Hart) : (s.setHart h v).mem = s.mem := rfl
@[simp] theorem State.setHart_eccBad (s : State) (h : Nat) (v : Hart) : (s.setHart h v).eccBad = s.eccBad := rfl
@[simp] theorem State.setHart_resp (s : State) (h : Nat) (v : Hart) : (s.setHart h v).resp = s.resp := rfl
@[simp] theorem State.setHart_reports (s : State) (h : Nat) (v : Hart) : (s.setHart h v).reports = s.reports := rfl
@[simp] theorem State.setHart_dieLogs (s : State) (h : Nat) (v : Hart) : (s.setHart h v).dieLogs = s.dieLogs := rfl
@[simp] theorem State.setHart_boundary (s : State) (h : Nat) (v : Hart) : (s.setHart h v).boundary = s.boundary := rfl
@[simp] theorem State.setHart_draining (s : State) (h : Nat) (v : Hart) : (s.setHart h v).draining = s.draining := rfl
@[simp] theorem State.setHart_free (s : State) (h : Nat) (v : Hart) : (s.setHart h v).free = s.free := rfl
@[simp] theorem State.setHart_pwr (s : State) (h : Nat) (v : Hart) : (s.setHart h v).pwr = s.pwr := rfl
@[simp] theorem State.setHart_links (s : State) (h : Nat) (v : Hart) : (s.setHart h v).links = s.links := rfl
@[simp] theorem State.setHart_isl (s : State) (h : Nat) (v : Hart) : (s.setHart h v).isl = s.isl := rfl
@[simp] theorem State.setHart_fuse (s : State) (h : Nat) (v : Hart) : (s.setHart h v).fuse = s.fuse := rfl
@[simp] theorem State.setHart_boot (s : State) (h : Nat) (v : Hart) : (s.setHart h v).boot = s.boot := rfl
@[simp] theorem State.setHart_dbg (s : State) (h : Nat) (v : Hart) : (s.setHart h v).dbg = s.dbg := rfl
@[simp] theorem State.setHart_chs (s : State) (h : Nat) (v : Hart) : (s.setHart h v).chs = s.chs := rfl
@[simp] theorem State.setHart_dies (s : State) (h : Nat) (v : Hart) : (s.setHart h v).dies = s.dies := rfl
@[simp] theorem State.setHart_lines (s : State) (h : Nat) (v : Hart) : (s.setHart h v).lines = s.lines := rfl
@[simp] theorem State.setHart_sins (s : State) (h : Nat) (v : Hart) : (s.setHart h v).sins = s.sins := rfl
@[simp] theorem State.setHart_front (s : State) (h : Nat) (v : Hart) : (s.setHart h v).front = s.front := rfl
@[simp] theorem State.setHart_dinLand (s : State) (h : Nat) (v : Hart) : (s.setHart h v).dinLand = s.dinLand := rfl
@[simp] theorem State.setHart_harts (s : State) (h : Nat) (v : Hart) : (s.setHart h v).harts = smSet (fun _ => {}) s.harts h v := rfl
@[simp] theorem State.setHart_msis (s : State) (h : Nat) (v : Hart) : (s.setHart h v).msis = s.msis := rfl
@[simp] theorem State.setHart_aplic (s : State) (h : Nat) (v : Hart) : (s.setHart h v).aplic = s.aplic := rfl
@[simp] theorem State.setHart_ticks (s : State) (h : Nat) (v : Hart) : (s.setHart h v).ticks = s.ticks := rfl
@[simp] theorem State.setHart_rwd (s : State) (h : Nat) (v : Hart) : (s.setHart h v).rwd = s.rwd := rfl
@[simp] theorem State.setHart_fc (s : State) (h : Nat) (v : Hart) : (s.setHart h v).fc = s.fc := rfl
@[simp] theorem State.setHart_tb (s : State) (h : Nat) (v : Hart) : (s.setHart h v).tb = s.tb := rfl
@[simp] theorem State.setHart_thrs (s : State) (h : Nat) (v : Hart) : (s.setHart h v).thrs = s.thrs := rfl
@[simp] theorem State.setHart_engs (s : State) (h : Nat) (v : Hart) : (s.setHart h v).engs = s.engs := rfl
@[simp] theorem State.setHart_mirror (s : State) (h : Nat) (v : Hart) : (s.setHart h v).mirror = s.mirror := rfl
@[simp] theorem State.setHart_measTx (s : State) (h : Nat) (v : Hart) : (s.setHart h v).measTx = s.measTx := rfl
@[simp] theorem State.setHart_measNo (s : State) (h : Nat) (v : Hart) : (s.setHart h v).measNo = s.measNo := rfl
@[simp] theorem State.setHart_casks (s : State) (h : Nat) (v : Hart) : (s.setHart h v).casks = s.casks := rfl
@[simp] theorem State.setHart_tnResets (s : State) (h : Nat) (v : Hart) : (s.setHart h v).tnResets = s.tnResets := rfl
@[simp] theorem State.setHart_cans (s : State) (h : Nat) (v : Hart) : (s.setHart h v).cans = s.cans := rfl
@[simp] theorem State.setHart_lins (s : State) (h : Nat) (v : Hart) : (s.setHart h v).lins = s.lins := rfl
@[simp] theorem State.setHart_clr (s : State) (h : Nat) (v : Hart) : (s.setHart h v).clr = s.clr := rfl
@[simp] theorem State.setHart_esw (s : State) (h : Nat) (v : Hart) : (s.setHart h v).esw = s.esw := rfl
@[simp] theorem State.setHart_kst (s : State) (h : Nat) (v : Hart) : (s.setHart h v).kst = s.kst := rfl
@[simp] theorem State.setHart_cph (s : State) (h : Nat) (v : Hart) : (s.setHart h v).cph = s.cph := rfl
@[simp] theorem State.setHart_stg (s : State) (h : Nat) (v : Hart) : (s.setHart h v).stg = s.stg := rfl
@[simp] theorem State.setHart_nand (s : State) (h : Nat) (v : Hart) : (s.setHart h v).nand = s.nand := rfl
@[simp] theorem State.setHart_tnSaid (s : State) (h : Nat) (v : Hart) : (s.setHart h v).tnSaid = s.tnSaid := rfl
@[simp] theorem State.setHart_tnAborted (s : State) (h : Nat) (v : Hart) : (s.setHart h v).tnAborted = s.tnAborted := rfl
@[simp] theorem State.setHart_evs (s : State) (h : Nat) (v : Hart) : (s.setHart h v).evs = s.evs := rfl
@[simp] theorem State.setHart_brg (s : State) (h : Nat) (v : Hart) : (s.setHart h v).brg = s.brg := rfl
@[simp] theorem State.setHart_prm (s : State) (h : Nat) (v : Hart) : (s.setHart h v).prm = s.prm := rfl
@[simp] theorem State.setHart_pending (s : State) (h : Nat) (v : Hart) : (s.setHart h v).pending = s.pending := rfl

/-! `State.setBridge` -/
@[simp] theorem State.setBridge_regs (s : State) (b : Nat) (v : BridgeInt) : (s.setBridge b v).regs = s.regs := rfl
@[simp] theorem State.setBridge_mem (s : State) (b : Nat) (v : BridgeInt) : (s.setBridge b v).mem = s.mem := rfl
@[simp] theorem State.setBridge_eccBad (s : State) (b : Nat) (v : BridgeInt) : (s.setBridge b v).eccBad = s.eccBad := rfl
@[simp] theorem State.setBridge_resp (s : State) (b : Nat) (v : BridgeInt) : (s.setBridge b v).resp = s.resp := rfl
@[simp] theorem State.setBridge_reports (s : State) (b : Nat) (v : BridgeInt) : (s.setBridge b v).reports = s.reports := rfl
@[simp] theorem State.setBridge_dieLogs (s : State) (b : Nat) (v : BridgeInt) : (s.setBridge b v).dieLogs = s.dieLogs := rfl
@[simp] theorem State.setBridge_boundary (s : State) (b : Nat) (v : BridgeInt) : (s.setBridge b v).boundary = s.boundary := rfl
@[simp] theorem State.setBridge_draining (s : State) (b : Nat) (v : BridgeInt) : (s.setBridge b v).draining = s.draining := rfl
@[simp] theorem State.setBridge_free (s : State) (b : Nat) (v : BridgeInt) : (s.setBridge b v).free = s.free := rfl
@[simp] theorem State.setBridge_pwr (s : State) (b : Nat) (v : BridgeInt) : (s.setBridge b v).pwr = s.pwr := rfl
@[simp] theorem State.setBridge_links (s : State) (b : Nat) (v : BridgeInt) : (s.setBridge b v).links = s.links := rfl
@[simp] theorem State.setBridge_isl (s : State) (b : Nat) (v : BridgeInt) : (s.setBridge b v).isl = s.isl := rfl
@[simp] theorem State.setBridge_fuse (s : State) (b : Nat) (v : BridgeInt) : (s.setBridge b v).fuse = s.fuse := rfl
@[simp] theorem State.setBridge_boot (s : State) (b : Nat) (v : BridgeInt) : (s.setBridge b v).boot = s.boot := rfl
@[simp] theorem State.setBridge_dbg (s : State) (b : Nat) (v : BridgeInt) : (s.setBridge b v).dbg = s.dbg := rfl
@[simp] theorem State.setBridge_chs (s : State) (b : Nat) (v : BridgeInt) : (s.setBridge b v).chs = s.chs := rfl
@[simp] theorem State.setBridge_dies (s : State) (b : Nat) (v : BridgeInt) : (s.setBridge b v).dies = s.dies := rfl
@[simp] theorem State.setBridge_lines (s : State) (b : Nat) (v : BridgeInt) : (s.setBridge b v).lines = s.lines := rfl
@[simp] theorem State.setBridge_sins (s : State) (b : Nat) (v : BridgeInt) : (s.setBridge b v).sins = s.sins := rfl
@[simp] theorem State.setBridge_front (s : State) (b : Nat) (v : BridgeInt) : (s.setBridge b v).front = s.front := rfl
@[simp] theorem State.setBridge_dinLand (s : State) (b : Nat) (v : BridgeInt) : (s.setBridge b v).dinLand = s.dinLand := rfl
@[simp] theorem State.setBridge_harts (s : State) (b : Nat) (v : BridgeInt) : (s.setBridge b v).harts = s.harts := rfl
@[simp] theorem State.setBridge_msis (s : State) (b : Nat) (v : BridgeInt) : (s.setBridge b v).msis = s.msis := rfl
@[simp] theorem State.setBridge_aplic (s : State) (b : Nat) (v : BridgeInt) : (s.setBridge b v).aplic = s.aplic := rfl
@[simp] theorem State.setBridge_ticks (s : State) (b : Nat) (v : BridgeInt) : (s.setBridge b v).ticks = s.ticks := rfl
@[simp] theorem State.setBridge_rwd (s : State) (b : Nat) (v : BridgeInt) : (s.setBridge b v).rwd = s.rwd := rfl
@[simp] theorem State.setBridge_fc (s : State) (b : Nat) (v : BridgeInt) : (s.setBridge b v).fc = s.fc := rfl
@[simp] theorem State.setBridge_tb (s : State) (b : Nat) (v : BridgeInt) : (s.setBridge b v).tb = s.tb := rfl
@[simp] theorem State.setBridge_thrs (s : State) (b : Nat) (v : BridgeInt) : (s.setBridge b v).thrs = s.thrs := rfl
@[simp] theorem State.setBridge_engs (s : State) (b : Nat) (v : BridgeInt) : (s.setBridge b v).engs = s.engs := rfl
@[simp] theorem State.setBridge_mirror (s : State) (b : Nat) (v : BridgeInt) : (s.setBridge b v).mirror = s.mirror := rfl
@[simp] theorem State.setBridge_measTx (s : State) (b : Nat) (v : BridgeInt) : (s.setBridge b v).measTx = s.measTx := rfl
@[simp] theorem State.setBridge_measNo (s : State) (b : Nat) (v : BridgeInt) : (s.setBridge b v).measNo = s.measNo := rfl
@[simp] theorem State.setBridge_casks (s : State) (b : Nat) (v : BridgeInt) : (s.setBridge b v).casks = s.casks := rfl
@[simp] theorem State.setBridge_tnResets (s : State) (b : Nat) (v : BridgeInt) : (s.setBridge b v).tnResets = s.tnResets := rfl
@[simp] theorem State.setBridge_cans (s : State) (b : Nat) (v : BridgeInt) : (s.setBridge b v).cans = s.cans := rfl
@[simp] theorem State.setBridge_lins (s : State) (b : Nat) (v : BridgeInt) : (s.setBridge b v).lins = s.lins := rfl
@[simp] theorem State.setBridge_clr (s : State) (b : Nat) (v : BridgeInt) : (s.setBridge b v).clr = s.clr := rfl
@[simp] theorem State.setBridge_esw (s : State) (b : Nat) (v : BridgeInt) : (s.setBridge b v).esw = s.esw := rfl
@[simp] theorem State.setBridge_kst (s : State) (b : Nat) (v : BridgeInt) : (s.setBridge b v).kst = s.kst := rfl
@[simp] theorem State.setBridge_cph (s : State) (b : Nat) (v : BridgeInt) : (s.setBridge b v).cph = s.cph := rfl
@[simp] theorem State.setBridge_stg (s : State) (b : Nat) (v : BridgeInt) : (s.setBridge b v).stg = s.stg := rfl
@[simp] theorem State.setBridge_nand (s : State) (b : Nat) (v : BridgeInt) : (s.setBridge b v).nand = s.nand := rfl
@[simp] theorem State.setBridge_tnSaid (s : State) (b : Nat) (v : BridgeInt) : (s.setBridge b v).tnSaid = s.tnSaid := rfl
@[simp] theorem State.setBridge_tnAborted (s : State) (b : Nat) (v : BridgeInt) : (s.setBridge b v).tnAborted = s.tnAborted := rfl
@[simp] theorem State.setBridge_evs (s : State) (b : Nat) (v : BridgeInt) : (s.setBridge b v).evs = s.evs := rfl
@[simp] theorem State.setBridge_brg (s : State) (b : Nat) (v : BridgeInt) : (s.setBridge b v).brg = smSet (fun _ => {}) s.brg b v := rfl
@[simp] theorem State.setBridge_prm (s : State) (b : Nat) (v : BridgeInt) : (s.setBridge b v).prm = s.prm := rfl
@[simp] theorem State.setBridge_pending (s : State) (b : Nat) (v : BridgeInt) : (s.setBridge b v).pending = s.pending := rfl

/-! `State.park` -/
@[simp] theorem State.park_regs (s : State) (i : Nat) (cmd : Instr) (w : WaitBy) : (s.park i cmd w).regs = s.regs := rfl
@[simp] theorem State.park_mem (s : State) (i : Nat) (cmd : Instr) (w : WaitBy) : (s.park i cmd w).mem = s.mem := rfl
@[simp] theorem State.park_eccBad (s : State) (i : Nat) (cmd : Instr) (w : WaitBy) : (s.park i cmd w).eccBad = s.eccBad := rfl
@[simp] theorem State.park_resp (s : State) (i : Nat) (cmd : Instr) (w : WaitBy) : (s.park i cmd w).resp = s.resp := rfl
@[simp] theorem State.park_reports (s : State) (i : Nat) (cmd : Instr) (w : WaitBy) : (s.park i cmd w).reports = s.reports := rfl
@[simp] theorem State.park_dieLogs (s : State) (i : Nat) (cmd : Instr) (w : WaitBy) : (s.park i cmd w).dieLogs = s.dieLogs := rfl
@[simp] theorem State.park_boundary (s : State) (i : Nat) (cmd : Instr) (w : WaitBy) : (s.park i cmd w).boundary = s.boundary ++ [{ island := i, cmd, by_ := w }] := rfl
@[simp] theorem State.park_draining (s : State) (i : Nat) (cmd : Instr) (w : WaitBy) : (s.park i cmd w).draining = s.draining := rfl
@[simp] theorem State.park_free (s : State) (i : Nat) (cmd : Instr) (w : WaitBy) : (s.park i cmd w).free = s.free := rfl
@[simp] theorem State.park_pwr (s : State) (i : Nat) (cmd : Instr) (w : WaitBy) : (s.park i cmd w).pwr = s.pwr := rfl
@[simp] theorem State.park_links (s : State) (i : Nat) (cmd : Instr) (w : WaitBy) : (s.park i cmd w).links = s.links := rfl
@[simp] theorem State.park_isl (s : State) (i : Nat) (cmd : Instr) (w : WaitBy) : (s.park i cmd w).isl = s.isl := rfl
@[simp] theorem State.park_fuse (s : State) (i : Nat) (cmd : Instr) (w : WaitBy) : (s.park i cmd w).fuse = s.fuse := rfl
@[simp] theorem State.park_boot (s : State) (i : Nat) (cmd : Instr) (w : WaitBy) : (s.park i cmd w).boot = s.boot := rfl
@[simp] theorem State.park_dbg (s : State) (i : Nat) (cmd : Instr) (w : WaitBy) : (s.park i cmd w).dbg = s.dbg := rfl
@[simp] theorem State.park_chs (s : State) (i : Nat) (cmd : Instr) (w : WaitBy) : (s.park i cmd w).chs = s.chs := rfl
@[simp] theorem State.park_dies (s : State) (i : Nat) (cmd : Instr) (w : WaitBy) : (s.park i cmd w).dies = s.dies := rfl
@[simp] theorem State.park_lines (s : State) (i : Nat) (cmd : Instr) (w : WaitBy) : (s.park i cmd w).lines = s.lines := rfl
@[simp] theorem State.park_sins (s : State) (i : Nat) (cmd : Instr) (w : WaitBy) : (s.park i cmd w).sins = s.sins := rfl
@[simp] theorem State.park_front (s : State) (i : Nat) (cmd : Instr) (w : WaitBy) : (s.park i cmd w).front = s.front := rfl
@[simp] theorem State.park_dinLand (s : State) (i : Nat) (cmd : Instr) (w : WaitBy) : (s.park i cmd w).dinLand = s.dinLand := rfl
@[simp] theorem State.park_harts (s : State) (i : Nat) (cmd : Instr) (w : WaitBy) : (s.park i cmd w).harts = s.harts := rfl
@[simp] theorem State.park_msis (s : State) (i : Nat) (cmd : Instr) (w : WaitBy) : (s.park i cmd w).msis = s.msis := rfl
@[simp] theorem State.park_aplic (s : State) (i : Nat) (cmd : Instr) (w : WaitBy) : (s.park i cmd w).aplic = s.aplic := rfl
@[simp] theorem State.park_ticks (s : State) (i : Nat) (cmd : Instr) (w : WaitBy) : (s.park i cmd w).ticks = s.ticks := rfl
@[simp] theorem State.park_rwd (s : State) (i : Nat) (cmd : Instr) (w : WaitBy) : (s.park i cmd w).rwd = s.rwd := rfl
@[simp] theorem State.park_fc (s : State) (i : Nat) (cmd : Instr) (w : WaitBy) : (s.park i cmd w).fc = s.fc := rfl
@[simp] theorem State.park_tb (s : State) (i : Nat) (cmd : Instr) (w : WaitBy) : (s.park i cmd w).tb = s.tb := rfl
@[simp] theorem State.park_thrs (s : State) (i : Nat) (cmd : Instr) (w : WaitBy) : (s.park i cmd w).thrs = s.thrs := rfl
@[simp] theorem State.park_engs (s : State) (i : Nat) (cmd : Instr) (w : WaitBy) : (s.park i cmd w).engs = s.engs := rfl
@[simp] theorem State.park_mirror (s : State) (i : Nat) (cmd : Instr) (w : WaitBy) : (s.park i cmd w).mirror = s.mirror := rfl
@[simp] theorem State.park_measTx (s : State) (i : Nat) (cmd : Instr) (w : WaitBy) : (s.park i cmd w).measTx = s.measTx := rfl
@[simp] theorem State.park_measNo (s : State) (i : Nat) (cmd : Instr) (w : WaitBy) : (s.park i cmd w).measNo = s.measNo := rfl
@[simp] theorem State.park_casks (s : State) (i : Nat) (cmd : Instr) (w : WaitBy) : (s.park i cmd w).casks = s.casks := rfl
@[simp] theorem State.park_tnResets (s : State) (i : Nat) (cmd : Instr) (w : WaitBy) : (s.park i cmd w).tnResets = s.tnResets := rfl
@[simp] theorem State.park_cans (s : State) (i : Nat) (cmd : Instr) (w : WaitBy) : (s.park i cmd w).cans = s.cans := rfl
@[simp] theorem State.park_lins (s : State) (i : Nat) (cmd : Instr) (w : WaitBy) : (s.park i cmd w).lins = s.lins := rfl
@[simp] theorem State.park_clr (s : State) (i : Nat) (cmd : Instr) (w : WaitBy) : (s.park i cmd w).clr = s.clr := rfl
@[simp] theorem State.park_esw (s : State) (i : Nat) (cmd : Instr) (w : WaitBy) : (s.park i cmd w).esw = s.esw := rfl
@[simp] theorem State.park_kst (s : State) (i : Nat) (cmd : Instr) (w : WaitBy) : (s.park i cmd w).kst = s.kst := rfl
@[simp] theorem State.park_cph (s : State) (i : Nat) (cmd : Instr) (w : WaitBy) : (s.park i cmd w).cph = s.cph := rfl
@[simp] theorem State.park_stg (s : State) (i : Nat) (cmd : Instr) (w : WaitBy) : (s.park i cmd w).stg = s.stg := rfl
@[simp] theorem State.park_nand (s : State) (i : Nat) (cmd : Instr) (w : WaitBy) : (s.park i cmd w).nand = s.nand := rfl
@[simp] theorem State.park_tnSaid (s : State) (i : Nat) (cmd : Instr) (w : WaitBy) : (s.park i cmd w).tnSaid = s.tnSaid := rfl
@[simp] theorem State.park_tnAborted (s : State) (i : Nat) (cmd : Instr) (w : WaitBy) : (s.park i cmd w).tnAborted = s.tnAborted := rfl
@[simp] theorem State.park_evs (s : State) (i : Nat) (cmd : Instr) (w : WaitBy) : (s.park i cmd w).evs = s.evs := rfl
@[simp] theorem State.park_brg (s : State) (i : Nat) (cmd : Instr) (w : WaitBy) : (s.park i cmd w).brg = s.brg := rfl
@[simp] theorem State.park_prm (s : State) (i : Nat) (cmd : Instr) (w : WaitBy) : (s.park i cmd w).prm = s.prm := rfl
@[simp] theorem State.park_pending (s : State) (i : Nat) (cmd : Instr) (w : WaitBy) : (s.park i cmd w).pending = s.pending := rfl

/-! `State.setDieLog` -/
@[simp] theorem State.setDieLog_regs (s : State) (d : Nat) (v : DieLog) : (s.setDieLog d v).regs = s.regs := rfl
@[simp] theorem State.setDieLog_mem (s : State) (d : Nat) (v : DieLog) : (s.setDieLog d v).mem = s.mem := rfl
@[simp] theorem State.setDieLog_eccBad (s : State) (d : Nat) (v : DieLog) : (s.setDieLog d v).eccBad = s.eccBad := rfl
@[simp] theorem State.setDieLog_resp (s : State) (d : Nat) (v : DieLog) : (s.setDieLog d v).resp = s.resp := rfl
@[simp] theorem State.setDieLog_reports (s : State) (d : Nat) (v : DieLog) : (s.setDieLog d v).reports = s.reports := rfl
@[simp] theorem State.setDieLog_dieLogs (s : State) (d : Nat) (v : DieLog) : (s.setDieLog d v).dieLogs = smSet (fun _ => {}) s.dieLogs d v := rfl
@[simp] theorem State.setDieLog_boundary (s : State) (d : Nat) (v : DieLog) : (s.setDieLog d v).boundary = s.boundary := rfl
@[simp] theorem State.setDieLog_draining (s : State) (d : Nat) (v : DieLog) : (s.setDieLog d v).draining = s.draining := rfl
@[simp] theorem State.setDieLog_free (s : State) (d : Nat) (v : DieLog) : (s.setDieLog d v).free = s.free := rfl
@[simp] theorem State.setDieLog_pwr (s : State) (d : Nat) (v : DieLog) : (s.setDieLog d v).pwr = s.pwr := rfl
@[simp] theorem State.setDieLog_links (s : State) (d : Nat) (v : DieLog) : (s.setDieLog d v).links = s.links := rfl
@[simp] theorem State.setDieLog_isl (s : State) (d : Nat) (v : DieLog) : (s.setDieLog d v).isl = s.isl := rfl
@[simp] theorem State.setDieLog_fuse (s : State) (d : Nat) (v : DieLog) : (s.setDieLog d v).fuse = s.fuse := rfl
@[simp] theorem State.setDieLog_boot (s : State) (d : Nat) (v : DieLog) : (s.setDieLog d v).boot = s.boot := rfl
@[simp] theorem State.setDieLog_dbg (s : State) (d : Nat) (v : DieLog) : (s.setDieLog d v).dbg = s.dbg := rfl
@[simp] theorem State.setDieLog_chs (s : State) (d : Nat) (v : DieLog) : (s.setDieLog d v).chs = s.chs := rfl
@[simp] theorem State.setDieLog_dies (s : State) (d : Nat) (v : DieLog) : (s.setDieLog d v).dies = s.dies := rfl
@[simp] theorem State.setDieLog_lines (s : State) (d : Nat) (v : DieLog) : (s.setDieLog d v).lines = s.lines := rfl
@[simp] theorem State.setDieLog_sins (s : State) (d : Nat) (v : DieLog) : (s.setDieLog d v).sins = s.sins := rfl
@[simp] theorem State.setDieLog_front (s : State) (d : Nat) (v : DieLog) : (s.setDieLog d v).front = s.front := rfl
@[simp] theorem State.setDieLog_dinLand (s : State) (d : Nat) (v : DieLog) : (s.setDieLog d v).dinLand = s.dinLand := rfl
@[simp] theorem State.setDieLog_harts (s : State) (d : Nat) (v : DieLog) : (s.setDieLog d v).harts = s.harts := rfl
@[simp] theorem State.setDieLog_msis (s : State) (d : Nat) (v : DieLog) : (s.setDieLog d v).msis = s.msis := rfl
@[simp] theorem State.setDieLog_aplic (s : State) (d : Nat) (v : DieLog) : (s.setDieLog d v).aplic = s.aplic := rfl
@[simp] theorem State.setDieLog_ticks (s : State) (d : Nat) (v : DieLog) : (s.setDieLog d v).ticks = s.ticks := rfl
@[simp] theorem State.setDieLog_rwd (s : State) (d : Nat) (v : DieLog) : (s.setDieLog d v).rwd = s.rwd := rfl
@[simp] theorem State.setDieLog_fc (s : State) (d : Nat) (v : DieLog) : (s.setDieLog d v).fc = s.fc := rfl
@[simp] theorem State.setDieLog_tb (s : State) (d : Nat) (v : DieLog) : (s.setDieLog d v).tb = s.tb := rfl
@[simp] theorem State.setDieLog_thrs (s : State) (d : Nat) (v : DieLog) : (s.setDieLog d v).thrs = s.thrs := rfl
@[simp] theorem State.setDieLog_engs (s : State) (d : Nat) (v : DieLog) : (s.setDieLog d v).engs = s.engs := rfl
@[simp] theorem State.setDieLog_mirror (s : State) (d : Nat) (v : DieLog) : (s.setDieLog d v).mirror = s.mirror := rfl
@[simp] theorem State.setDieLog_measTx (s : State) (d : Nat) (v : DieLog) : (s.setDieLog d v).measTx = s.measTx := rfl
@[simp] theorem State.setDieLog_measNo (s : State) (d : Nat) (v : DieLog) : (s.setDieLog d v).measNo = s.measNo := rfl
@[simp] theorem State.setDieLog_casks (s : State) (d : Nat) (v : DieLog) : (s.setDieLog d v).casks = s.casks := rfl
@[simp] theorem State.setDieLog_tnResets (s : State) (d : Nat) (v : DieLog) : (s.setDieLog d v).tnResets = s.tnResets := rfl
@[simp] theorem State.setDieLog_cans (s : State) (d : Nat) (v : DieLog) : (s.setDieLog d v).cans = s.cans := rfl
@[simp] theorem State.setDieLog_lins (s : State) (d : Nat) (v : DieLog) : (s.setDieLog d v).lins = s.lins := rfl
@[simp] theorem State.setDieLog_clr (s : State) (d : Nat) (v : DieLog) : (s.setDieLog d v).clr = s.clr := rfl
@[simp] theorem State.setDieLog_esw (s : State) (d : Nat) (v : DieLog) : (s.setDieLog d v).esw = s.esw := rfl
@[simp] theorem State.setDieLog_kst (s : State) (d : Nat) (v : DieLog) : (s.setDieLog d v).kst = s.kst := rfl
@[simp] theorem State.setDieLog_cph (s : State) (d : Nat) (v : DieLog) : (s.setDieLog d v).cph = s.cph := rfl
@[simp] theorem State.setDieLog_stg (s : State) (d : Nat) (v : DieLog) : (s.setDieLog d v).stg = s.stg := rfl
@[simp] theorem State.setDieLog_nand (s : State) (d : Nat) (v : DieLog) : (s.setDieLog d v).nand = s.nand := rfl
@[simp] theorem State.setDieLog_tnSaid (s : State) (d : Nat) (v : DieLog) : (s.setDieLog d v).tnSaid = s.tnSaid := rfl
@[simp] theorem State.setDieLog_tnAborted (s : State) (d : Nat) (v : DieLog) : (s.setDieLog d v).tnAborted = s.tnAborted := rfl
@[simp] theorem State.setDieLog_evs (s : State) (d : Nat) (v : DieLog) : (s.setDieLog d v).evs = s.evs := rfl
@[simp] theorem State.setDieLog_brg (s : State) (d : Nat) (v : DieLog) : (s.setDieLog d v).brg = s.brg := rfl
@[simp] theorem State.setDieLog_prm (s : State) (d : Nat) (v : DieLog) : (s.setDieLog d v).prm = s.prm := rfl
@[simp] theorem State.setDieLog_pending (s : State) (d : Nat) (v : DieLog) : (s.setDieLog d v).pending = s.pending := rfl

/-! `State.setLink` -/
@[simp] theorem State.setLink_regs (s : State) (k : Nat) (v : LinkSt) : (s.setLink k v).regs = s.regs := rfl
@[simp] theorem State.setLink_mem (s : State) (k : Nat) (v : LinkSt) : (s.setLink k v).mem = s.mem := rfl
@[simp] theorem State.setLink_eccBad (s : State) (k : Nat) (v : LinkSt) : (s.setLink k v).eccBad = s.eccBad := rfl
@[simp] theorem State.setLink_resp (s : State) (k : Nat) (v : LinkSt) : (s.setLink k v).resp = s.resp := rfl
@[simp] theorem State.setLink_reports (s : State) (k : Nat) (v : LinkSt) : (s.setLink k v).reports = s.reports := rfl
@[simp] theorem State.setLink_dieLogs (s : State) (k : Nat) (v : LinkSt) : (s.setLink k v).dieLogs = s.dieLogs := rfl
@[simp] theorem State.setLink_boundary (s : State) (k : Nat) (v : LinkSt) : (s.setLink k v).boundary = s.boundary := rfl
@[simp] theorem State.setLink_draining (s : State) (k : Nat) (v : LinkSt) : (s.setLink k v).draining = s.draining := rfl
@[simp] theorem State.setLink_free (s : State) (k : Nat) (v : LinkSt) : (s.setLink k v).free = s.free := rfl
@[simp] theorem State.setLink_pwr (s : State) (k : Nat) (v : LinkSt) : (s.setLink k v).pwr = s.pwr := rfl
@[simp] theorem State.setLink_links (s : State) (k : Nat) (v : LinkSt) : (s.setLink k v).links = smSet (fun _ => {}) s.links k v := rfl
@[simp] theorem State.setLink_isl (s : State) (k : Nat) (v : LinkSt) : (s.setLink k v).isl = s.isl := rfl
@[simp] theorem State.setLink_fuse (s : State) (k : Nat) (v : LinkSt) : (s.setLink k v).fuse = s.fuse := rfl
@[simp] theorem State.setLink_boot (s : State) (k : Nat) (v : LinkSt) : (s.setLink k v).boot = s.boot := rfl
@[simp] theorem State.setLink_dbg (s : State) (k : Nat) (v : LinkSt) : (s.setLink k v).dbg = s.dbg := rfl
@[simp] theorem State.setLink_chs (s : State) (k : Nat) (v : LinkSt) : (s.setLink k v).chs = s.chs := rfl
@[simp] theorem State.setLink_dies (s : State) (k : Nat) (v : LinkSt) : (s.setLink k v).dies = s.dies := rfl
@[simp] theorem State.setLink_lines (s : State) (k : Nat) (v : LinkSt) : (s.setLink k v).lines = s.lines := rfl
@[simp] theorem State.setLink_sins (s : State) (k : Nat) (v : LinkSt) : (s.setLink k v).sins = s.sins := rfl
@[simp] theorem State.setLink_front (s : State) (k : Nat) (v : LinkSt) : (s.setLink k v).front = s.front := rfl
@[simp] theorem State.setLink_dinLand (s : State) (k : Nat) (v : LinkSt) : (s.setLink k v).dinLand = s.dinLand := rfl
@[simp] theorem State.setLink_harts (s : State) (k : Nat) (v : LinkSt) : (s.setLink k v).harts = s.harts := rfl
@[simp] theorem State.setLink_msis (s : State) (k : Nat) (v : LinkSt) : (s.setLink k v).msis = s.msis := rfl
@[simp] theorem State.setLink_aplic (s : State) (k : Nat) (v : LinkSt) : (s.setLink k v).aplic = s.aplic := rfl
@[simp] theorem State.setLink_ticks (s : State) (k : Nat) (v : LinkSt) : (s.setLink k v).ticks = s.ticks := rfl
@[simp] theorem State.setLink_rwd (s : State) (k : Nat) (v : LinkSt) : (s.setLink k v).rwd = s.rwd := rfl
@[simp] theorem State.setLink_fc (s : State) (k : Nat) (v : LinkSt) : (s.setLink k v).fc = s.fc := rfl
@[simp] theorem State.setLink_tb (s : State) (k : Nat) (v : LinkSt) : (s.setLink k v).tb = s.tb := rfl
@[simp] theorem State.setLink_thrs (s : State) (k : Nat) (v : LinkSt) : (s.setLink k v).thrs = s.thrs := rfl
@[simp] theorem State.setLink_engs (s : State) (k : Nat) (v : LinkSt) : (s.setLink k v).engs = s.engs := rfl
@[simp] theorem State.setLink_mirror (s : State) (k : Nat) (v : LinkSt) : (s.setLink k v).mirror = s.mirror := rfl
@[simp] theorem State.setLink_measTx (s : State) (k : Nat) (v : LinkSt) : (s.setLink k v).measTx = s.measTx := rfl
@[simp] theorem State.setLink_measNo (s : State) (k : Nat) (v : LinkSt) : (s.setLink k v).measNo = s.measNo := rfl
@[simp] theorem State.setLink_casks (s : State) (k : Nat) (v : LinkSt) : (s.setLink k v).casks = s.casks := rfl
@[simp] theorem State.setLink_tnResets (s : State) (k : Nat) (v : LinkSt) : (s.setLink k v).tnResets = s.tnResets := rfl
@[simp] theorem State.setLink_cans (s : State) (k : Nat) (v : LinkSt) : (s.setLink k v).cans = s.cans := rfl
@[simp] theorem State.setLink_lins (s : State) (k : Nat) (v : LinkSt) : (s.setLink k v).lins = s.lins := rfl
@[simp] theorem State.setLink_clr (s : State) (k : Nat) (v : LinkSt) : (s.setLink k v).clr = s.clr := rfl
@[simp] theorem State.setLink_esw (s : State) (k : Nat) (v : LinkSt) : (s.setLink k v).esw = s.esw := rfl
@[simp] theorem State.setLink_kst (s : State) (k : Nat) (v : LinkSt) : (s.setLink k v).kst = s.kst := rfl
@[simp] theorem State.setLink_cph (s : State) (k : Nat) (v : LinkSt) : (s.setLink k v).cph = s.cph := rfl
@[simp] theorem State.setLink_stg (s : State) (k : Nat) (v : LinkSt) : (s.setLink k v).stg = s.stg := rfl
@[simp] theorem State.setLink_nand (s : State) (k : Nat) (v : LinkSt) : (s.setLink k v).nand = s.nand := rfl
@[simp] theorem State.setLink_tnSaid (s : State) (k : Nat) (v : LinkSt) : (s.setLink k v).tnSaid = s.tnSaid := rfl
@[simp] theorem State.setLink_tnAborted (s : State) (k : Nat) (v : LinkSt) : (s.setLink k v).tnAborted = s.tnAborted := rfl
@[simp] theorem State.setLink_evs (s : State) (k : Nat) (v : LinkSt) : (s.setLink k v).evs = s.evs := rfl
@[simp] theorem State.setLink_brg (s : State) (k : Nat) (v : LinkSt) : (s.setLink k v).brg = s.brg := rfl
@[simp] theorem State.setLink_prm (s : State) (k : Nat) (v : LinkSt) : (s.setLink k v).prm = s.prm := rfl
@[simp] theorem State.setLink_pending (s : State) (k : Nat) (v : LinkSt) : (s.setLink k v).pending = s.pending := rfl

/-! `State.setIsl` -/
@[simp] theorem State.setIsl_regs (s : State) (i : Nat) (v : IslPhase) : (s.setIsl i v).regs = s.regs := rfl
@[simp] theorem State.setIsl_mem (s : State) (i : Nat) (v : IslPhase) : (s.setIsl i v).mem = s.mem := rfl
@[simp] theorem State.setIsl_eccBad (s : State) (i : Nat) (v : IslPhase) : (s.setIsl i v).eccBad = s.eccBad := rfl
@[simp] theorem State.setIsl_resp (s : State) (i : Nat) (v : IslPhase) : (s.setIsl i v).resp = s.resp := rfl
@[simp] theorem State.setIsl_reports (s : State) (i : Nat) (v : IslPhase) : (s.setIsl i v).reports = s.reports := rfl
@[simp] theorem State.setIsl_dieLogs (s : State) (i : Nat) (v : IslPhase) : (s.setIsl i v).dieLogs = s.dieLogs := rfl
@[simp] theorem State.setIsl_boundary (s : State) (i : Nat) (v : IslPhase) : (s.setIsl i v).boundary = s.boundary := rfl
@[simp] theorem State.setIsl_draining (s : State) (i : Nat) (v : IslPhase) : (s.setIsl i v).draining = s.draining := rfl
@[simp] theorem State.setIsl_free (s : State) (i : Nat) (v : IslPhase) : (s.setIsl i v).free = s.free := rfl
@[simp] theorem State.setIsl_pwr (s : State) (i : Nat) (v : IslPhase) : (s.setIsl i v).pwr = s.pwr := rfl
@[simp] theorem State.setIsl_links (s : State) (i : Nat) (v : IslPhase) : (s.setIsl i v).links = s.links := rfl
@[simp] theorem State.setIsl_isl (s : State) (i : Nat) (v : IslPhase) : (s.setIsl i v).isl = smSet (fun _ => .running) s.isl i v := rfl
@[simp] theorem State.setIsl_fuse (s : State) (i : Nat) (v : IslPhase) : (s.setIsl i v).fuse = s.fuse := rfl
@[simp] theorem State.setIsl_boot (s : State) (i : Nat) (v : IslPhase) : (s.setIsl i v).boot = s.boot := rfl
@[simp] theorem State.setIsl_dbg (s : State) (i : Nat) (v : IslPhase) : (s.setIsl i v).dbg = s.dbg := rfl
@[simp] theorem State.setIsl_chs (s : State) (i : Nat) (v : IslPhase) : (s.setIsl i v).chs = s.chs := rfl
@[simp] theorem State.setIsl_dies (s : State) (i : Nat) (v : IslPhase) : (s.setIsl i v).dies = s.dies := rfl
@[simp] theorem State.setIsl_lines (s : State) (i : Nat) (v : IslPhase) : (s.setIsl i v).lines = s.lines := rfl
@[simp] theorem State.setIsl_sins (s : State) (i : Nat) (v : IslPhase) : (s.setIsl i v).sins = s.sins := rfl
@[simp] theorem State.setIsl_front (s : State) (i : Nat) (v : IslPhase) : (s.setIsl i v).front = s.front := rfl
@[simp] theorem State.setIsl_dinLand (s : State) (i : Nat) (v : IslPhase) : (s.setIsl i v).dinLand = s.dinLand := rfl
@[simp] theorem State.setIsl_harts (s : State) (i : Nat) (v : IslPhase) : (s.setIsl i v).harts = s.harts := rfl
@[simp] theorem State.setIsl_msis (s : State) (i : Nat) (v : IslPhase) : (s.setIsl i v).msis = s.msis := rfl
@[simp] theorem State.setIsl_aplic (s : State) (i : Nat) (v : IslPhase) : (s.setIsl i v).aplic = s.aplic := rfl
@[simp] theorem State.setIsl_ticks (s : State) (i : Nat) (v : IslPhase) : (s.setIsl i v).ticks = s.ticks := rfl
@[simp] theorem State.setIsl_rwd (s : State) (i : Nat) (v : IslPhase) : (s.setIsl i v).rwd = s.rwd := rfl
@[simp] theorem State.setIsl_fc (s : State) (i : Nat) (v : IslPhase) : (s.setIsl i v).fc = s.fc := rfl
@[simp] theorem State.setIsl_tb (s : State) (i : Nat) (v : IslPhase) : (s.setIsl i v).tb = s.tb := rfl
@[simp] theorem State.setIsl_thrs (s : State) (i : Nat) (v : IslPhase) : (s.setIsl i v).thrs = s.thrs := rfl
@[simp] theorem State.setIsl_engs (s : State) (i : Nat) (v : IslPhase) : (s.setIsl i v).engs = s.engs := rfl
@[simp] theorem State.setIsl_mirror (s : State) (i : Nat) (v : IslPhase) : (s.setIsl i v).mirror = s.mirror := rfl
@[simp] theorem State.setIsl_measTx (s : State) (i : Nat) (v : IslPhase) : (s.setIsl i v).measTx = s.measTx := rfl
@[simp] theorem State.setIsl_measNo (s : State) (i : Nat) (v : IslPhase) : (s.setIsl i v).measNo = s.measNo := rfl
@[simp] theorem State.setIsl_casks (s : State) (i : Nat) (v : IslPhase) : (s.setIsl i v).casks = s.casks := rfl
@[simp] theorem State.setIsl_tnResets (s : State) (i : Nat) (v : IslPhase) : (s.setIsl i v).tnResets = s.tnResets := rfl
@[simp] theorem State.setIsl_cans (s : State) (i : Nat) (v : IslPhase) : (s.setIsl i v).cans = s.cans := rfl
@[simp] theorem State.setIsl_lins (s : State) (i : Nat) (v : IslPhase) : (s.setIsl i v).lins = s.lins := rfl
@[simp] theorem State.setIsl_clr (s : State) (i : Nat) (v : IslPhase) : (s.setIsl i v).clr = s.clr := rfl
@[simp] theorem State.setIsl_esw (s : State) (i : Nat) (v : IslPhase) : (s.setIsl i v).esw = s.esw := rfl
@[simp] theorem State.setIsl_kst (s : State) (i : Nat) (v : IslPhase) : (s.setIsl i v).kst = s.kst := rfl
@[simp] theorem State.setIsl_cph (s : State) (i : Nat) (v : IslPhase) : (s.setIsl i v).cph = s.cph := rfl
@[simp] theorem State.setIsl_stg (s : State) (i : Nat) (v : IslPhase) : (s.setIsl i v).stg = s.stg := rfl
@[simp] theorem State.setIsl_nand (s : State) (i : Nat) (v : IslPhase) : (s.setIsl i v).nand = s.nand := rfl
@[simp] theorem State.setIsl_tnSaid (s : State) (i : Nat) (v : IslPhase) : (s.setIsl i v).tnSaid = s.tnSaid := rfl
@[simp] theorem State.setIsl_tnAborted (s : State) (i : Nat) (v : IslPhase) : (s.setIsl i v).tnAborted = s.tnAborted := rfl
@[simp] theorem State.setIsl_evs (s : State) (i : Nat) (v : IslPhase) : (s.setIsl i v).evs = s.evs := rfl
@[simp] theorem State.setIsl_brg (s : State) (i : Nat) (v : IslPhase) : (s.setIsl i v).brg = s.brg := rfl
@[simp] theorem State.setIsl_prm (s : State) (i : Nat) (v : IslPhase) : (s.setIsl i v).prm = s.prm := rfl
@[simp] theorem State.setIsl_pending (s : State) (i : Nat) (v : IslPhase) : (s.setIsl i v).pending = s.pending := rfl

/-! `State.setChI` -/
@[simp] theorem State.setChI_regs (s : State) (c : Nat) (v : ChInt) : (s.setChI c v).regs = s.regs := rfl
@[simp] theorem State.setChI_mem (s : State) (c : Nat) (v : ChInt) : (s.setChI c v).mem = s.mem := rfl
@[simp] theorem State.setChI_eccBad (s : State) (c : Nat) (v : ChInt) : (s.setChI c v).eccBad = s.eccBad := rfl
@[simp] theorem State.setChI_resp (s : State) (c : Nat) (v : ChInt) : (s.setChI c v).resp = s.resp := rfl
@[simp] theorem State.setChI_reports (s : State) (c : Nat) (v : ChInt) : (s.setChI c v).reports = s.reports := rfl
@[simp] theorem State.setChI_dieLogs (s : State) (c : Nat) (v : ChInt) : (s.setChI c v).dieLogs = s.dieLogs := rfl
@[simp] theorem State.setChI_boundary (s : State) (c : Nat) (v : ChInt) : (s.setChI c v).boundary = s.boundary := rfl
@[simp] theorem State.setChI_draining (s : State) (c : Nat) (v : ChInt) : (s.setChI c v).draining = s.draining := rfl
@[simp] theorem State.setChI_free (s : State) (c : Nat) (v : ChInt) : (s.setChI c v).free = s.free := rfl
@[simp] theorem State.setChI_pwr (s : State) (c : Nat) (v : ChInt) : (s.setChI c v).pwr = s.pwr := rfl
@[simp] theorem State.setChI_links (s : State) (c : Nat) (v : ChInt) : (s.setChI c v).links = s.links := rfl
@[simp] theorem State.setChI_isl (s : State) (c : Nat) (v : ChInt) : (s.setChI c v).isl = s.isl := rfl
@[simp] theorem State.setChI_fuse (s : State) (c : Nat) (v : ChInt) : (s.setChI c v).fuse = s.fuse := rfl
@[simp] theorem State.setChI_boot (s : State) (c : Nat) (v : ChInt) : (s.setChI c v).boot = s.boot := rfl
@[simp] theorem State.setChI_dbg (s : State) (c : Nat) (v : ChInt) : (s.setChI c v).dbg = s.dbg := rfl
@[simp] theorem State.setChI_chs (s : State) (c : Nat) (v : ChInt) : (s.setChI c v).chs = smSet (fun _ => {}) s.chs c v := rfl
@[simp] theorem State.setChI_dies (s : State) (c : Nat) (v : ChInt) : (s.setChI c v).dies = s.dies := rfl
@[simp] theorem State.setChI_lines (s : State) (c : Nat) (v : ChInt) : (s.setChI c v).lines = s.lines := rfl
@[simp] theorem State.setChI_sins (s : State) (c : Nat) (v : ChInt) : (s.setChI c v).sins = s.sins := rfl
@[simp] theorem State.setChI_front (s : State) (c : Nat) (v : ChInt) : (s.setChI c v).front = s.front := rfl
@[simp] theorem State.setChI_dinLand (s : State) (c : Nat) (v : ChInt) : (s.setChI c v).dinLand = s.dinLand := rfl
@[simp] theorem State.setChI_harts (s : State) (c : Nat) (v : ChInt) : (s.setChI c v).harts = s.harts := rfl
@[simp] theorem State.setChI_msis (s : State) (c : Nat) (v : ChInt) : (s.setChI c v).msis = s.msis := rfl
@[simp] theorem State.setChI_aplic (s : State) (c : Nat) (v : ChInt) : (s.setChI c v).aplic = s.aplic := rfl
@[simp] theorem State.setChI_ticks (s : State) (c : Nat) (v : ChInt) : (s.setChI c v).ticks = s.ticks := rfl
@[simp] theorem State.setChI_rwd (s : State) (c : Nat) (v : ChInt) : (s.setChI c v).rwd = s.rwd := rfl
@[simp] theorem State.setChI_fc (s : State) (c : Nat) (v : ChInt) : (s.setChI c v).fc = s.fc := rfl
@[simp] theorem State.setChI_tb (s : State) (c : Nat) (v : ChInt) : (s.setChI c v).tb = s.tb := rfl
@[simp] theorem State.setChI_thrs (s : State) (c : Nat) (v : ChInt) : (s.setChI c v).thrs = s.thrs := rfl
@[simp] theorem State.setChI_engs (s : State) (c : Nat) (v : ChInt) : (s.setChI c v).engs = s.engs := rfl
@[simp] theorem State.setChI_mirror (s : State) (c : Nat) (v : ChInt) : (s.setChI c v).mirror = s.mirror := rfl
@[simp] theorem State.setChI_measTx (s : State) (c : Nat) (v : ChInt) : (s.setChI c v).measTx = s.measTx := rfl
@[simp] theorem State.setChI_measNo (s : State) (c : Nat) (v : ChInt) : (s.setChI c v).measNo = s.measNo := rfl
@[simp] theorem State.setChI_casks (s : State) (c : Nat) (v : ChInt) : (s.setChI c v).casks = s.casks := rfl
@[simp] theorem State.setChI_tnResets (s : State) (c : Nat) (v : ChInt) : (s.setChI c v).tnResets = s.tnResets := rfl
@[simp] theorem State.setChI_cans (s : State) (c : Nat) (v : ChInt) : (s.setChI c v).cans = s.cans := rfl
@[simp] theorem State.setChI_lins (s : State) (c : Nat) (v : ChInt) : (s.setChI c v).lins = s.lins := rfl
@[simp] theorem State.setChI_clr (s : State) (c : Nat) (v : ChInt) : (s.setChI c v).clr = s.clr := rfl
@[simp] theorem State.setChI_esw (s : State) (c : Nat) (v : ChInt) : (s.setChI c v).esw = s.esw := rfl
@[simp] theorem State.setChI_kst (s : State) (c : Nat) (v : ChInt) : (s.setChI c v).kst = s.kst := rfl
@[simp] theorem State.setChI_cph (s : State) (c : Nat) (v : ChInt) : (s.setChI c v).cph = s.cph := rfl
@[simp] theorem State.setChI_stg (s : State) (c : Nat) (v : ChInt) : (s.setChI c v).stg = s.stg := rfl
@[simp] theorem State.setChI_nand (s : State) (c : Nat) (v : ChInt) : (s.setChI c v).nand = s.nand := rfl
@[simp] theorem State.setChI_tnSaid (s : State) (c : Nat) (v : ChInt) : (s.setChI c v).tnSaid = s.tnSaid := rfl
@[simp] theorem State.setChI_tnAborted (s : State) (c : Nat) (v : ChInt) : (s.setChI c v).tnAborted = s.tnAborted := rfl
@[simp] theorem State.setChI_evs (s : State) (c : Nat) (v : ChInt) : (s.setChI c v).evs = s.evs := rfl
@[simp] theorem State.setChI_brg (s : State) (c : Nat) (v : ChInt) : (s.setChI c v).brg = s.brg := rfl
@[simp] theorem State.setChI_prm (s : State) (c : Nat) (v : ChInt) : (s.setChI c v).prm = s.prm := rfl
@[simp] theorem State.setChI_pending (s : State) (c : Nat) (v : ChInt) : (s.setChI c v).pending = s.pending := rfl

/-! `State.setDie` -/
@[simp] theorem State.setDie_regs (s : State) (d : Nat) (v : DieInt) : (s.setDie d v).regs = s.regs := rfl
@[simp] theorem State.setDie_mem (s : State) (d : Nat) (v : DieInt) : (s.setDie d v).mem = s.mem := rfl
@[simp] theorem State.setDie_eccBad (s : State) (d : Nat) (v : DieInt) : (s.setDie d v).eccBad = s.eccBad := rfl
@[simp] theorem State.setDie_resp (s : State) (d : Nat) (v : DieInt) : (s.setDie d v).resp = s.resp := rfl
@[simp] theorem State.setDie_reports (s : State) (d : Nat) (v : DieInt) : (s.setDie d v).reports = s.reports := rfl
@[simp] theorem State.setDie_dieLogs (s : State) (d : Nat) (v : DieInt) : (s.setDie d v).dieLogs = s.dieLogs := rfl
@[simp] theorem State.setDie_boundary (s : State) (d : Nat) (v : DieInt) : (s.setDie d v).boundary = s.boundary := rfl
@[simp] theorem State.setDie_draining (s : State) (d : Nat) (v : DieInt) : (s.setDie d v).draining = s.draining := rfl
@[simp] theorem State.setDie_free (s : State) (d : Nat) (v : DieInt) : (s.setDie d v).free = s.free := rfl
@[simp] theorem State.setDie_pwr (s : State) (d : Nat) (v : DieInt) : (s.setDie d v).pwr = s.pwr := rfl
@[simp] theorem State.setDie_links (s : State) (d : Nat) (v : DieInt) : (s.setDie d v).links = s.links := rfl
@[simp] theorem State.setDie_isl (s : State) (d : Nat) (v : DieInt) : (s.setDie d v).isl = s.isl := rfl
@[simp] theorem State.setDie_fuse (s : State) (d : Nat) (v : DieInt) : (s.setDie d v).fuse = s.fuse := rfl
@[simp] theorem State.setDie_boot (s : State) (d : Nat) (v : DieInt) : (s.setDie d v).boot = s.boot := rfl
@[simp] theorem State.setDie_dbg (s : State) (d : Nat) (v : DieInt) : (s.setDie d v).dbg = s.dbg := rfl
@[simp] theorem State.setDie_chs (s : State) (d : Nat) (v : DieInt) : (s.setDie d v).chs = s.chs := rfl
@[simp] theorem State.setDie_dies (s : State) (d : Nat) (v : DieInt) : (s.setDie d v).dies = smSet (fun _ => {}) s.dies d v := rfl
@[simp] theorem State.setDie_lines (s : State) (d : Nat) (v : DieInt) : (s.setDie d v).lines = s.lines := rfl
@[simp] theorem State.setDie_sins (s : State) (d : Nat) (v : DieInt) : (s.setDie d v).sins = s.sins := rfl
@[simp] theorem State.setDie_front (s : State) (d : Nat) (v : DieInt) : (s.setDie d v).front = s.front := rfl
@[simp] theorem State.setDie_dinLand (s : State) (d : Nat) (v : DieInt) : (s.setDie d v).dinLand = s.dinLand := rfl
@[simp] theorem State.setDie_harts (s : State) (d : Nat) (v : DieInt) : (s.setDie d v).harts = s.harts := rfl
@[simp] theorem State.setDie_msis (s : State) (d : Nat) (v : DieInt) : (s.setDie d v).msis = s.msis := rfl
@[simp] theorem State.setDie_aplic (s : State) (d : Nat) (v : DieInt) : (s.setDie d v).aplic = s.aplic := rfl
@[simp] theorem State.setDie_ticks (s : State) (d : Nat) (v : DieInt) : (s.setDie d v).ticks = s.ticks := rfl
@[simp] theorem State.setDie_rwd (s : State) (d : Nat) (v : DieInt) : (s.setDie d v).rwd = s.rwd := rfl
@[simp] theorem State.setDie_fc (s : State) (d : Nat) (v : DieInt) : (s.setDie d v).fc = s.fc := rfl
@[simp] theorem State.setDie_tb (s : State) (d : Nat) (v : DieInt) : (s.setDie d v).tb = s.tb := rfl
@[simp] theorem State.setDie_thrs (s : State) (d : Nat) (v : DieInt) : (s.setDie d v).thrs = s.thrs := rfl
@[simp] theorem State.setDie_engs (s : State) (d : Nat) (v : DieInt) : (s.setDie d v).engs = s.engs := rfl
@[simp] theorem State.setDie_mirror (s : State) (d : Nat) (v : DieInt) : (s.setDie d v).mirror = s.mirror := rfl
@[simp] theorem State.setDie_measTx (s : State) (d : Nat) (v : DieInt) : (s.setDie d v).measTx = s.measTx := rfl
@[simp] theorem State.setDie_measNo (s : State) (d : Nat) (v : DieInt) : (s.setDie d v).measNo = s.measNo := rfl
@[simp] theorem State.setDie_casks (s : State) (d : Nat) (v : DieInt) : (s.setDie d v).casks = s.casks := rfl
@[simp] theorem State.setDie_tnResets (s : State) (d : Nat) (v : DieInt) : (s.setDie d v).tnResets = s.tnResets := rfl
@[simp] theorem State.setDie_cans (s : State) (d : Nat) (v : DieInt) : (s.setDie d v).cans = s.cans := rfl
@[simp] theorem State.setDie_lins (s : State) (d : Nat) (v : DieInt) : (s.setDie d v).lins = s.lins := rfl
@[simp] theorem State.setDie_clr (s : State) (d : Nat) (v : DieInt) : (s.setDie d v).clr = s.clr := rfl
@[simp] theorem State.setDie_esw (s : State) (d : Nat) (v : DieInt) : (s.setDie d v).esw = s.esw := rfl
@[simp] theorem State.setDie_kst (s : State) (d : Nat) (v : DieInt) : (s.setDie d v).kst = s.kst := rfl
@[simp] theorem State.setDie_cph (s : State) (d : Nat) (v : DieInt) : (s.setDie d v).cph = s.cph := rfl
@[simp] theorem State.setDie_stg (s : State) (d : Nat) (v : DieInt) : (s.setDie d v).stg = s.stg := rfl
@[simp] theorem State.setDie_nand (s : State) (d : Nat) (v : DieInt) : (s.setDie d v).nand = s.nand := rfl
@[simp] theorem State.setDie_tnSaid (s : State) (d : Nat) (v : DieInt) : (s.setDie d v).tnSaid = s.tnSaid := rfl
@[simp] theorem State.setDie_tnAborted (s : State) (d : Nat) (v : DieInt) : (s.setDie d v).tnAborted = s.tnAborted := rfl
@[simp] theorem State.setDie_evs (s : State) (d : Nat) (v : DieInt) : (s.setDie d v).evs = s.evs := rfl
@[simp] theorem State.setDie_brg (s : State) (d : Nat) (v : DieInt) : (s.setDie d v).brg = s.brg := rfl
@[simp] theorem State.setDie_prm (s : State) (d : Nat) (v : DieInt) : (s.setDie d v).prm = s.prm := rfl
@[simp] theorem State.setDie_pending (s : State) (d : Nat) (v : DieInt) : (s.setDie d v).pending = s.pending := rfl

/-! `State.setLine` -/
@[simp] theorem State.setLine_regs (s : State) (k : Nat) (v : LineInt) : (s.setLine k v).regs = s.regs := rfl
@[simp] theorem State.setLine_mem (s : State) (k : Nat) (v : LineInt) : (s.setLine k v).mem = s.mem := rfl
@[simp] theorem State.setLine_eccBad (s : State) (k : Nat) (v : LineInt) : (s.setLine k v).eccBad = s.eccBad := rfl
@[simp] theorem State.setLine_resp (s : State) (k : Nat) (v : LineInt) : (s.setLine k v).resp = s.resp := rfl
@[simp] theorem State.setLine_reports (s : State) (k : Nat) (v : LineInt) : (s.setLine k v).reports = s.reports := rfl
@[simp] theorem State.setLine_dieLogs (s : State) (k : Nat) (v : LineInt) : (s.setLine k v).dieLogs = s.dieLogs := rfl
@[simp] theorem State.setLine_boundary (s : State) (k : Nat) (v : LineInt) : (s.setLine k v).boundary = s.boundary := rfl
@[simp] theorem State.setLine_draining (s : State) (k : Nat) (v : LineInt) : (s.setLine k v).draining = s.draining := rfl
@[simp] theorem State.setLine_free (s : State) (k : Nat) (v : LineInt) : (s.setLine k v).free = s.free := rfl
@[simp] theorem State.setLine_pwr (s : State) (k : Nat) (v : LineInt) : (s.setLine k v).pwr = s.pwr := rfl
@[simp] theorem State.setLine_links (s : State) (k : Nat) (v : LineInt) : (s.setLine k v).links = s.links := rfl
@[simp] theorem State.setLine_isl (s : State) (k : Nat) (v : LineInt) : (s.setLine k v).isl = s.isl := rfl
@[simp] theorem State.setLine_fuse (s : State) (k : Nat) (v : LineInt) : (s.setLine k v).fuse = s.fuse := rfl
@[simp] theorem State.setLine_boot (s : State) (k : Nat) (v : LineInt) : (s.setLine k v).boot = s.boot := rfl
@[simp] theorem State.setLine_dbg (s : State) (k : Nat) (v : LineInt) : (s.setLine k v).dbg = s.dbg := rfl
@[simp] theorem State.setLine_chs (s : State) (k : Nat) (v : LineInt) : (s.setLine k v).chs = s.chs := rfl
@[simp] theorem State.setLine_dies (s : State) (k : Nat) (v : LineInt) : (s.setLine k v).dies = s.dies := rfl
@[simp] theorem State.setLine_lines (s : State) (k : Nat) (v : LineInt) : (s.setLine k v).lines = smSet (fun _ => {}) s.lines k v := rfl
@[simp] theorem State.setLine_sins (s : State) (k : Nat) (v : LineInt) : (s.setLine k v).sins = s.sins := rfl
@[simp] theorem State.setLine_front (s : State) (k : Nat) (v : LineInt) : (s.setLine k v).front = s.front := rfl
@[simp] theorem State.setLine_dinLand (s : State) (k : Nat) (v : LineInt) : (s.setLine k v).dinLand = s.dinLand := rfl
@[simp] theorem State.setLine_harts (s : State) (k : Nat) (v : LineInt) : (s.setLine k v).harts = s.harts := rfl
@[simp] theorem State.setLine_msis (s : State) (k : Nat) (v : LineInt) : (s.setLine k v).msis = s.msis := rfl
@[simp] theorem State.setLine_aplic (s : State) (k : Nat) (v : LineInt) : (s.setLine k v).aplic = s.aplic := rfl
@[simp] theorem State.setLine_ticks (s : State) (k : Nat) (v : LineInt) : (s.setLine k v).ticks = s.ticks := rfl
@[simp] theorem State.setLine_rwd (s : State) (k : Nat) (v : LineInt) : (s.setLine k v).rwd = s.rwd := rfl
@[simp] theorem State.setLine_fc (s : State) (k : Nat) (v : LineInt) : (s.setLine k v).fc = s.fc := rfl
@[simp] theorem State.setLine_tb (s : State) (k : Nat) (v : LineInt) : (s.setLine k v).tb = s.tb := rfl
@[simp] theorem State.setLine_thrs (s : State) (k : Nat) (v : LineInt) : (s.setLine k v).thrs = s.thrs := rfl
@[simp] theorem State.setLine_engs (s : State) (k : Nat) (v : LineInt) : (s.setLine k v).engs = s.engs := rfl
@[simp] theorem State.setLine_mirror (s : State) (k : Nat) (v : LineInt) : (s.setLine k v).mirror = s.mirror := rfl
@[simp] theorem State.setLine_measTx (s : State) (k : Nat) (v : LineInt) : (s.setLine k v).measTx = s.measTx := rfl
@[simp] theorem State.setLine_measNo (s : State) (k : Nat) (v : LineInt) : (s.setLine k v).measNo = s.measNo := rfl
@[simp] theorem State.setLine_casks (s : State) (k : Nat) (v : LineInt) : (s.setLine k v).casks = s.casks := rfl
@[simp] theorem State.setLine_tnResets (s : State) (k : Nat) (v : LineInt) : (s.setLine k v).tnResets = s.tnResets := rfl
@[simp] theorem State.setLine_cans (s : State) (k : Nat) (v : LineInt) : (s.setLine k v).cans = s.cans := rfl
@[simp] theorem State.setLine_lins (s : State) (k : Nat) (v : LineInt) : (s.setLine k v).lins = s.lins := rfl
@[simp] theorem State.setLine_clr (s : State) (k : Nat) (v : LineInt) : (s.setLine k v).clr = s.clr := rfl
@[simp] theorem State.setLine_esw (s : State) (k : Nat) (v : LineInt) : (s.setLine k v).esw = s.esw := rfl
@[simp] theorem State.setLine_kst (s : State) (k : Nat) (v : LineInt) : (s.setLine k v).kst = s.kst := rfl
@[simp] theorem State.setLine_cph (s : State) (k : Nat) (v : LineInt) : (s.setLine k v).cph = s.cph := rfl
@[simp] theorem State.setLine_stg (s : State) (k : Nat) (v : LineInt) : (s.setLine k v).stg = s.stg := rfl
@[simp] theorem State.setLine_nand (s : State) (k : Nat) (v : LineInt) : (s.setLine k v).nand = s.nand := rfl
@[simp] theorem State.setLine_tnSaid (s : State) (k : Nat) (v : LineInt) : (s.setLine k v).tnSaid = s.tnSaid := rfl
@[simp] theorem State.setLine_tnAborted (s : State) (k : Nat) (v : LineInt) : (s.setLine k v).tnAborted = s.tnAborted := rfl
@[simp] theorem State.setLine_evs (s : State) (k : Nat) (v : LineInt) : (s.setLine k v).evs = s.evs := rfl
@[simp] theorem State.setLine_brg (s : State) (k : Nat) (v : LineInt) : (s.setLine k v).brg = s.brg := rfl
@[simp] theorem State.setLine_prm (s : State) (k : Nat) (v : LineInt) : (s.setLine k v).prm = s.prm := rfl
@[simp] theorem State.setLine_pending (s : State) (k : Nat) (v : LineInt) : (s.setLine k v).pending = s.pending := rfl

/-! `State.setSin` -/
@[simp] theorem State.setSin_regs (s : State) (n : Nat) (v : SinInt) : (s.setSin n v).regs = s.regs := rfl
@[simp] theorem State.setSin_mem (s : State) (n : Nat) (v : SinInt) : (s.setSin n v).mem = s.mem := rfl
@[simp] theorem State.setSin_eccBad (s : State) (n : Nat) (v : SinInt) : (s.setSin n v).eccBad = s.eccBad := rfl
@[simp] theorem State.setSin_resp (s : State) (n : Nat) (v : SinInt) : (s.setSin n v).resp = s.resp := rfl
@[simp] theorem State.setSin_reports (s : State) (n : Nat) (v : SinInt) : (s.setSin n v).reports = s.reports := rfl
@[simp] theorem State.setSin_dieLogs (s : State) (n : Nat) (v : SinInt) : (s.setSin n v).dieLogs = s.dieLogs := rfl
@[simp] theorem State.setSin_boundary (s : State) (n : Nat) (v : SinInt) : (s.setSin n v).boundary = s.boundary := rfl
@[simp] theorem State.setSin_draining (s : State) (n : Nat) (v : SinInt) : (s.setSin n v).draining = s.draining := rfl
@[simp] theorem State.setSin_free (s : State) (n : Nat) (v : SinInt) : (s.setSin n v).free = s.free := rfl
@[simp] theorem State.setSin_pwr (s : State) (n : Nat) (v : SinInt) : (s.setSin n v).pwr = s.pwr := rfl
@[simp] theorem State.setSin_links (s : State) (n : Nat) (v : SinInt) : (s.setSin n v).links = s.links := rfl
@[simp] theorem State.setSin_isl (s : State) (n : Nat) (v : SinInt) : (s.setSin n v).isl = s.isl := rfl
@[simp] theorem State.setSin_fuse (s : State) (n : Nat) (v : SinInt) : (s.setSin n v).fuse = s.fuse := rfl
@[simp] theorem State.setSin_boot (s : State) (n : Nat) (v : SinInt) : (s.setSin n v).boot = s.boot := rfl
@[simp] theorem State.setSin_dbg (s : State) (n : Nat) (v : SinInt) : (s.setSin n v).dbg = s.dbg := rfl
@[simp] theorem State.setSin_chs (s : State) (n : Nat) (v : SinInt) : (s.setSin n v).chs = s.chs := rfl
@[simp] theorem State.setSin_dies (s : State) (n : Nat) (v : SinInt) : (s.setSin n v).dies = s.dies := rfl
@[simp] theorem State.setSin_lines (s : State) (n : Nat) (v : SinInt) : (s.setSin n v).lines = s.lines := rfl
@[simp] theorem State.setSin_sins (s : State) (n : Nat) (v : SinInt) : (s.setSin n v).sins = smSet (fun _ => {}) s.sins n v := rfl
@[simp] theorem State.setSin_front (s : State) (n : Nat) (v : SinInt) : (s.setSin n v).front = s.front := rfl
@[simp] theorem State.setSin_dinLand (s : State) (n : Nat) (v : SinInt) : (s.setSin n v).dinLand = s.dinLand := rfl
@[simp] theorem State.setSin_harts (s : State) (n : Nat) (v : SinInt) : (s.setSin n v).harts = s.harts := rfl
@[simp] theorem State.setSin_msis (s : State) (n : Nat) (v : SinInt) : (s.setSin n v).msis = s.msis := rfl
@[simp] theorem State.setSin_aplic (s : State) (n : Nat) (v : SinInt) : (s.setSin n v).aplic = s.aplic := rfl
@[simp] theorem State.setSin_ticks (s : State) (n : Nat) (v : SinInt) : (s.setSin n v).ticks = s.ticks := rfl
@[simp] theorem State.setSin_rwd (s : State) (n : Nat) (v : SinInt) : (s.setSin n v).rwd = s.rwd := rfl
@[simp] theorem State.setSin_fc (s : State) (n : Nat) (v : SinInt) : (s.setSin n v).fc = s.fc := rfl
@[simp] theorem State.setSin_tb (s : State) (n : Nat) (v : SinInt) : (s.setSin n v).tb = s.tb := rfl
@[simp] theorem State.setSin_thrs (s : State) (n : Nat) (v : SinInt) : (s.setSin n v).thrs = s.thrs := rfl
@[simp] theorem State.setSin_engs (s : State) (n : Nat) (v : SinInt) : (s.setSin n v).engs = s.engs := rfl
@[simp] theorem State.setSin_mirror (s : State) (n : Nat) (v : SinInt) : (s.setSin n v).mirror = s.mirror := rfl
@[simp] theorem State.setSin_measTx (s : State) (n : Nat) (v : SinInt) : (s.setSin n v).measTx = s.measTx := rfl
@[simp] theorem State.setSin_measNo (s : State) (n : Nat) (v : SinInt) : (s.setSin n v).measNo = s.measNo := rfl
@[simp] theorem State.setSin_casks (s : State) (n : Nat) (v : SinInt) : (s.setSin n v).casks = s.casks := rfl
@[simp] theorem State.setSin_tnResets (s : State) (n : Nat) (v : SinInt) : (s.setSin n v).tnResets = s.tnResets := rfl
@[simp] theorem State.setSin_cans (s : State) (n : Nat) (v : SinInt) : (s.setSin n v).cans = s.cans := rfl
@[simp] theorem State.setSin_lins (s : State) (n : Nat) (v : SinInt) : (s.setSin n v).lins = s.lins := rfl
@[simp] theorem State.setSin_clr (s : State) (n : Nat) (v : SinInt) : (s.setSin n v).clr = s.clr := rfl
@[simp] theorem State.setSin_esw (s : State) (n : Nat) (v : SinInt) : (s.setSin n v).esw = s.esw := rfl
@[simp] theorem State.setSin_kst (s : State) (n : Nat) (v : SinInt) : (s.setSin n v).kst = s.kst := rfl
@[simp] theorem State.setSin_cph (s : State) (n : Nat) (v : SinInt) : (s.setSin n v).cph = s.cph := rfl
@[simp] theorem State.setSin_stg (s : State) (n : Nat) (v : SinInt) : (s.setSin n v).stg = s.stg := rfl
@[simp] theorem State.setSin_nand (s : State) (n : Nat) (v : SinInt) : (s.setSin n v).nand = s.nand := rfl
@[simp] theorem State.setSin_tnSaid (s : State) (n : Nat) (v : SinInt) : (s.setSin n v).tnSaid = s.tnSaid := rfl
@[simp] theorem State.setSin_tnAborted (s : State) (n : Nat) (v : SinInt) : (s.setSin n v).tnAborted = s.tnAborted := rfl
@[simp] theorem State.setSin_evs (s : State) (n : Nat) (v : SinInt) : (s.setSin n v).evs = s.evs := rfl
@[simp] theorem State.setSin_brg (s : State) (n : Nat) (v : SinInt) : (s.setSin n v).brg = s.brg := rfl
@[simp] theorem State.setSin_prm (s : State) (n : Nat) (v : SinInt) : (s.setSin n v).prm = s.prm := rfl
@[simp] theorem State.setSin_pending (s : State) (n : Nat) (v : SinInt) : (s.setSin n v).pending = s.pending := rfl

/-! `State.setThr` -/
@[simp] theorem State.setThr_regs (s : State) (e t : Nat) (v : ThrInt) : (s.setThr e t v).regs = s.regs := rfl
@[simp] theorem State.setThr_mem (s : State) (e t : Nat) (v : ThrInt) : (s.setThr e t v).mem = s.mem := rfl
@[simp] theorem State.setThr_eccBad (s : State) (e t : Nat) (v : ThrInt) : (s.setThr e t v).eccBad = s.eccBad := rfl
@[simp] theorem State.setThr_resp (s : State) (e t : Nat) (v : ThrInt) : (s.setThr e t v).resp = s.resp := rfl
@[simp] theorem State.setThr_reports (s : State) (e t : Nat) (v : ThrInt) : (s.setThr e t v).reports = s.reports := rfl
@[simp] theorem State.setThr_dieLogs (s : State) (e t : Nat) (v : ThrInt) : (s.setThr e t v).dieLogs = s.dieLogs := rfl
@[simp] theorem State.setThr_boundary (s : State) (e t : Nat) (v : ThrInt) : (s.setThr e t v).boundary = s.boundary := rfl
@[simp] theorem State.setThr_draining (s : State) (e t : Nat) (v : ThrInt) : (s.setThr e t v).draining = s.draining := rfl
@[simp] theorem State.setThr_free (s : State) (e t : Nat) (v : ThrInt) : (s.setThr e t v).free = s.free := rfl
@[simp] theorem State.setThr_pwr (s : State) (e t : Nat) (v : ThrInt) : (s.setThr e t v).pwr = s.pwr := rfl
@[simp] theorem State.setThr_links (s : State) (e t : Nat) (v : ThrInt) : (s.setThr e t v).links = s.links := rfl
@[simp] theorem State.setThr_isl (s : State) (e t : Nat) (v : ThrInt) : (s.setThr e t v).isl = s.isl := rfl
@[simp] theorem State.setThr_fuse (s : State) (e t : Nat) (v : ThrInt) : (s.setThr e t v).fuse = s.fuse := rfl
@[simp] theorem State.setThr_boot (s : State) (e t : Nat) (v : ThrInt) : (s.setThr e t v).boot = s.boot := rfl
@[simp] theorem State.setThr_dbg (s : State) (e t : Nat) (v : ThrInt) : (s.setThr e t v).dbg = s.dbg := rfl
@[simp] theorem State.setThr_chs (s : State) (e t : Nat) (v : ThrInt) : (s.setThr e t v).chs = s.chs := rfl
@[simp] theorem State.setThr_dies (s : State) (e t : Nat) (v : ThrInt) : (s.setThr e t v).dies = s.dies := rfl
@[simp] theorem State.setThr_lines (s : State) (e t : Nat) (v : ThrInt) : (s.setThr e t v).lines = s.lines := rfl
@[simp] theorem State.setThr_sins (s : State) (e t : Nat) (v : ThrInt) : (s.setThr e t v).sins = s.sins := rfl
@[simp] theorem State.setThr_front (s : State) (e t : Nat) (v : ThrInt) : (s.setThr e t v).front = s.front := rfl
@[simp] theorem State.setThr_dinLand (s : State) (e t : Nat) (v : ThrInt) : (s.setThr e t v).dinLand = s.dinLand := rfl
@[simp] theorem State.setThr_harts (s : State) (e t : Nat) (v : ThrInt) : (s.setThr e t v).harts = s.harts := rfl
@[simp] theorem State.setThr_msis (s : State) (e t : Nat) (v : ThrInt) : (s.setThr e t v).msis = s.msis := rfl
@[simp] theorem State.setThr_aplic (s : State) (e t : Nat) (v : ThrInt) : (s.setThr e t v).aplic = s.aplic := rfl
@[simp] theorem State.setThr_ticks (s : State) (e t : Nat) (v : ThrInt) : (s.setThr e t v).ticks = s.ticks := rfl
@[simp] theorem State.setThr_rwd (s : State) (e t : Nat) (v : ThrInt) : (s.setThr e t v).rwd = s.rwd := rfl
@[simp] theorem State.setThr_fc (s : State) (e t : Nat) (v : ThrInt) : (s.setThr e t v).fc = s.fc := rfl
@[simp] theorem State.setThr_tb (s : State) (e t : Nat) (v : ThrInt) : (s.setThr e t v).tb = s.tb := rfl
@[simp] theorem State.setThr_thrs (s : State) (e t : Nat) (v : ThrInt) : (s.setThr e t v).thrs = smSet (fun _ => {}) s.thrs (e * 8 + t) v := rfl
@[simp] theorem State.setThr_engs (s : State) (e t : Nat) (v : ThrInt) : (s.setThr e t v).engs = s.engs := rfl
@[simp] theorem State.setThr_mirror (s : State) (e t : Nat) (v : ThrInt) : (s.setThr e t v).mirror = s.mirror := rfl
@[simp] theorem State.setThr_measTx (s : State) (e t : Nat) (v : ThrInt) : (s.setThr e t v).measTx = s.measTx := rfl
@[simp] theorem State.setThr_measNo (s : State) (e t : Nat) (v : ThrInt) : (s.setThr e t v).measNo = s.measNo := rfl
@[simp] theorem State.setThr_casks (s : State) (e t : Nat) (v : ThrInt) : (s.setThr e t v).casks = s.casks := rfl
@[simp] theorem State.setThr_tnResets (s : State) (e t : Nat) (v : ThrInt) : (s.setThr e t v).tnResets = s.tnResets := rfl
@[simp] theorem State.setThr_cans (s : State) (e t : Nat) (v : ThrInt) : (s.setThr e t v).cans = s.cans := rfl
@[simp] theorem State.setThr_lins (s : State) (e t : Nat) (v : ThrInt) : (s.setThr e t v).lins = s.lins := rfl
@[simp] theorem State.setThr_clr (s : State) (e t : Nat) (v : ThrInt) : (s.setThr e t v).clr = s.clr := rfl
@[simp] theorem State.setThr_esw (s : State) (e t : Nat) (v : ThrInt) : (s.setThr e t v).esw = s.esw := rfl
@[simp] theorem State.setThr_kst (s : State) (e t : Nat) (v : ThrInt) : (s.setThr e t v).kst = s.kst := rfl
@[simp] theorem State.setThr_cph (s : State) (e t : Nat) (v : ThrInt) : (s.setThr e t v).cph = s.cph := rfl
@[simp] theorem State.setThr_stg (s : State) (e t : Nat) (v : ThrInt) : (s.setThr e t v).stg = s.stg := rfl
@[simp] theorem State.setThr_nand (s : State) (e t : Nat) (v : ThrInt) : (s.setThr e t v).nand = s.nand := rfl
@[simp] theorem State.setThr_tnSaid (s : State) (e t : Nat) (v : ThrInt) : (s.setThr e t v).tnSaid = s.tnSaid := rfl
@[simp] theorem State.setThr_tnAborted (s : State) (e t : Nat) (v : ThrInt) : (s.setThr e t v).tnAborted = s.tnAborted := rfl
@[simp] theorem State.setThr_evs (s : State) (e t : Nat) (v : ThrInt) : (s.setThr e t v).evs = s.evs := rfl
@[simp] theorem State.setThr_brg (s : State) (e t : Nat) (v : ThrInt) : (s.setThr e t v).brg = s.brg := rfl
@[simp] theorem State.setThr_prm (s : State) (e t : Nat) (v : ThrInt) : (s.setThr e t v).prm = s.prm := rfl
@[simp] theorem State.setThr_pending (s : State) (e t : Nat) (v : ThrInt) : (s.setThr e t v).pending = s.pending := rfl

/-! `State.setEng` -/
@[simp] theorem State.setEng_regs (s : State) (e : Nat) (v : EngInt) : (s.setEng e v).regs = s.regs := rfl
@[simp] theorem State.setEng_mem (s : State) (e : Nat) (v : EngInt) : (s.setEng e v).mem = s.mem := rfl
@[simp] theorem State.setEng_eccBad (s : State) (e : Nat) (v : EngInt) : (s.setEng e v).eccBad = s.eccBad := rfl
@[simp] theorem State.setEng_resp (s : State) (e : Nat) (v : EngInt) : (s.setEng e v).resp = s.resp := rfl
@[simp] theorem State.setEng_reports (s : State) (e : Nat) (v : EngInt) : (s.setEng e v).reports = s.reports := rfl
@[simp] theorem State.setEng_dieLogs (s : State) (e : Nat) (v : EngInt) : (s.setEng e v).dieLogs = s.dieLogs := rfl
@[simp] theorem State.setEng_boundary (s : State) (e : Nat) (v : EngInt) : (s.setEng e v).boundary = s.boundary := rfl
@[simp] theorem State.setEng_draining (s : State) (e : Nat) (v : EngInt) : (s.setEng e v).draining = s.draining := rfl
@[simp] theorem State.setEng_free (s : State) (e : Nat) (v : EngInt) : (s.setEng e v).free = s.free := rfl
@[simp] theorem State.setEng_pwr (s : State) (e : Nat) (v : EngInt) : (s.setEng e v).pwr = s.pwr := rfl
@[simp] theorem State.setEng_links (s : State) (e : Nat) (v : EngInt) : (s.setEng e v).links = s.links := rfl
@[simp] theorem State.setEng_isl (s : State) (e : Nat) (v : EngInt) : (s.setEng e v).isl = s.isl := rfl
@[simp] theorem State.setEng_fuse (s : State) (e : Nat) (v : EngInt) : (s.setEng e v).fuse = s.fuse := rfl
@[simp] theorem State.setEng_boot (s : State) (e : Nat) (v : EngInt) : (s.setEng e v).boot = s.boot := rfl
@[simp] theorem State.setEng_dbg (s : State) (e : Nat) (v : EngInt) : (s.setEng e v).dbg = s.dbg := rfl
@[simp] theorem State.setEng_chs (s : State) (e : Nat) (v : EngInt) : (s.setEng e v).chs = s.chs := rfl
@[simp] theorem State.setEng_dies (s : State) (e : Nat) (v : EngInt) : (s.setEng e v).dies = s.dies := rfl
@[simp] theorem State.setEng_lines (s : State) (e : Nat) (v : EngInt) : (s.setEng e v).lines = s.lines := rfl
@[simp] theorem State.setEng_sins (s : State) (e : Nat) (v : EngInt) : (s.setEng e v).sins = s.sins := rfl
@[simp] theorem State.setEng_front (s : State) (e : Nat) (v : EngInt) : (s.setEng e v).front = s.front := rfl
@[simp] theorem State.setEng_dinLand (s : State) (e : Nat) (v : EngInt) : (s.setEng e v).dinLand = s.dinLand := rfl
@[simp] theorem State.setEng_harts (s : State) (e : Nat) (v : EngInt) : (s.setEng e v).harts = s.harts := rfl
@[simp] theorem State.setEng_msis (s : State) (e : Nat) (v : EngInt) : (s.setEng e v).msis = s.msis := rfl
@[simp] theorem State.setEng_aplic (s : State) (e : Nat) (v : EngInt) : (s.setEng e v).aplic = s.aplic := rfl
@[simp] theorem State.setEng_ticks (s : State) (e : Nat) (v : EngInt) : (s.setEng e v).ticks = s.ticks := rfl
@[simp] theorem State.setEng_rwd (s : State) (e : Nat) (v : EngInt) : (s.setEng e v).rwd = s.rwd := rfl
@[simp] theorem State.setEng_fc (s : State) (e : Nat) (v : EngInt) : (s.setEng e v).fc = s.fc := rfl
@[simp] theorem State.setEng_tb (s : State) (e : Nat) (v : EngInt) : (s.setEng e v).tb = s.tb := rfl
@[simp] theorem State.setEng_thrs (s : State) (e : Nat) (v : EngInt) : (s.setEng e v).thrs = s.thrs := rfl
@[simp] theorem State.setEng_engs (s : State) (e : Nat) (v : EngInt) : (s.setEng e v).engs = smSet (fun _ => {}) s.engs e v := rfl
@[simp] theorem State.setEng_mirror (s : State) (e : Nat) (v : EngInt) : (s.setEng e v).mirror = s.mirror := rfl
@[simp] theorem State.setEng_measTx (s : State) (e : Nat) (v : EngInt) : (s.setEng e v).measTx = s.measTx := rfl
@[simp] theorem State.setEng_measNo (s : State) (e : Nat) (v : EngInt) : (s.setEng e v).measNo = s.measNo := rfl
@[simp] theorem State.setEng_casks (s : State) (e : Nat) (v : EngInt) : (s.setEng e v).casks = s.casks := rfl
@[simp] theorem State.setEng_tnResets (s : State) (e : Nat) (v : EngInt) : (s.setEng e v).tnResets = s.tnResets := rfl
@[simp] theorem State.setEng_cans (s : State) (e : Nat) (v : EngInt) : (s.setEng e v).cans = s.cans := rfl
@[simp] theorem State.setEng_lins (s : State) (e : Nat) (v : EngInt) : (s.setEng e v).lins = s.lins := rfl
@[simp] theorem State.setEng_clr (s : State) (e : Nat) (v : EngInt) : (s.setEng e v).clr = s.clr := rfl
@[simp] theorem State.setEng_esw (s : State) (e : Nat) (v : EngInt) : (s.setEng e v).esw = s.esw := rfl
@[simp] theorem State.setEng_kst (s : State) (e : Nat) (v : EngInt) : (s.setEng e v).kst = s.kst := rfl
@[simp] theorem State.setEng_cph (s : State) (e : Nat) (v : EngInt) : (s.setEng e v).cph = s.cph := rfl
@[simp] theorem State.setEng_stg (s : State) (e : Nat) (v : EngInt) : (s.setEng e v).stg = s.stg := rfl
@[simp] theorem State.setEng_nand (s : State) (e : Nat) (v : EngInt) : (s.setEng e v).nand = s.nand := rfl
@[simp] theorem State.setEng_tnSaid (s : State) (e : Nat) (v : EngInt) : (s.setEng e v).tnSaid = s.tnSaid := rfl
@[simp] theorem State.setEng_tnAborted (s : State) (e : Nat) (v : EngInt) : (s.setEng e v).tnAborted = s.tnAborted := rfl
@[simp] theorem State.setEng_evs (s : State) (e : Nat) (v : EngInt) : (s.setEng e v).evs = s.evs := rfl
@[simp] theorem State.setEng_brg (s : State) (e : Nat) (v : EngInt) : (s.setEng e v).brg = s.brg := rfl
@[simp] theorem State.setEng_prm (s : State) (e : Nat) (v : EngInt) : (s.setEng e v).prm = s.prm := rfl
@[simp] theorem State.setEng_pending (s : State) (e : Nat) (v : EngInt) : (s.setEng e v).pending = s.pending := rfl

/-! `State.setCask` -/
@[simp] theorem State.setCask_regs (s : State) (n : Nat) (v : CaskInt) : (s.setCask n v).regs = s.regs := rfl
@[simp] theorem State.setCask_mem (s : State) (n : Nat) (v : CaskInt) : (s.setCask n v).mem = s.mem := rfl
@[simp] theorem State.setCask_eccBad (s : State) (n : Nat) (v : CaskInt) : (s.setCask n v).eccBad = s.eccBad := rfl
@[simp] theorem State.setCask_resp (s : State) (n : Nat) (v : CaskInt) : (s.setCask n v).resp = s.resp := rfl
@[simp] theorem State.setCask_reports (s : State) (n : Nat) (v : CaskInt) : (s.setCask n v).reports = s.reports := rfl
@[simp] theorem State.setCask_dieLogs (s : State) (n : Nat) (v : CaskInt) : (s.setCask n v).dieLogs = s.dieLogs := rfl
@[simp] theorem State.setCask_boundary (s : State) (n : Nat) (v : CaskInt) : (s.setCask n v).boundary = s.boundary := rfl
@[simp] theorem State.setCask_draining (s : State) (n : Nat) (v : CaskInt) : (s.setCask n v).draining = s.draining := rfl
@[simp] theorem State.setCask_free (s : State) (n : Nat) (v : CaskInt) : (s.setCask n v).free = s.free := rfl
@[simp] theorem State.setCask_pwr (s : State) (n : Nat) (v : CaskInt) : (s.setCask n v).pwr = s.pwr := rfl
@[simp] theorem State.setCask_links (s : State) (n : Nat) (v : CaskInt) : (s.setCask n v).links = s.links := rfl
@[simp] theorem State.setCask_isl (s : State) (n : Nat) (v : CaskInt) : (s.setCask n v).isl = s.isl := rfl
@[simp] theorem State.setCask_fuse (s : State) (n : Nat) (v : CaskInt) : (s.setCask n v).fuse = s.fuse := rfl
@[simp] theorem State.setCask_boot (s : State) (n : Nat) (v : CaskInt) : (s.setCask n v).boot = s.boot := rfl
@[simp] theorem State.setCask_dbg (s : State) (n : Nat) (v : CaskInt) : (s.setCask n v).dbg = s.dbg := rfl
@[simp] theorem State.setCask_chs (s : State) (n : Nat) (v : CaskInt) : (s.setCask n v).chs = s.chs := rfl
@[simp] theorem State.setCask_dies (s : State) (n : Nat) (v : CaskInt) : (s.setCask n v).dies = s.dies := rfl
@[simp] theorem State.setCask_lines (s : State) (n : Nat) (v : CaskInt) : (s.setCask n v).lines = s.lines := rfl
@[simp] theorem State.setCask_sins (s : State) (n : Nat) (v : CaskInt) : (s.setCask n v).sins = s.sins := rfl
@[simp] theorem State.setCask_front (s : State) (n : Nat) (v : CaskInt) : (s.setCask n v).front = s.front := rfl
@[simp] theorem State.setCask_dinLand (s : State) (n : Nat) (v : CaskInt) : (s.setCask n v).dinLand = s.dinLand := rfl
@[simp] theorem State.setCask_harts (s : State) (n : Nat) (v : CaskInt) : (s.setCask n v).harts = s.harts := rfl
@[simp] theorem State.setCask_msis (s : State) (n : Nat) (v : CaskInt) : (s.setCask n v).msis = s.msis := rfl
@[simp] theorem State.setCask_aplic (s : State) (n : Nat) (v : CaskInt) : (s.setCask n v).aplic = s.aplic := rfl
@[simp] theorem State.setCask_ticks (s : State) (n : Nat) (v : CaskInt) : (s.setCask n v).ticks = s.ticks := rfl
@[simp] theorem State.setCask_rwd (s : State) (n : Nat) (v : CaskInt) : (s.setCask n v).rwd = s.rwd := rfl
@[simp] theorem State.setCask_fc (s : State) (n : Nat) (v : CaskInt) : (s.setCask n v).fc = s.fc := rfl
@[simp] theorem State.setCask_tb (s : State) (n : Nat) (v : CaskInt) : (s.setCask n v).tb = s.tb := rfl
@[simp] theorem State.setCask_thrs (s : State) (n : Nat) (v : CaskInt) : (s.setCask n v).thrs = s.thrs := rfl
@[simp] theorem State.setCask_engs (s : State) (n : Nat) (v : CaskInt) : (s.setCask n v).engs = s.engs := rfl
@[simp] theorem State.setCask_mirror (s : State) (n : Nat) (v : CaskInt) : (s.setCask n v).mirror = s.mirror := rfl
@[simp] theorem State.setCask_measTx (s : State) (n : Nat) (v : CaskInt) : (s.setCask n v).measTx = s.measTx := rfl
@[simp] theorem State.setCask_measNo (s : State) (n : Nat) (v : CaskInt) : (s.setCask n v).measNo = s.measNo := rfl
@[simp] theorem State.setCask_casks (s : State) (n : Nat) (v : CaskInt) : (s.setCask n v).casks = smSet (fun _ => {}) s.casks n v := rfl
@[simp] theorem State.setCask_tnResets (s : State) (n : Nat) (v : CaskInt) : (s.setCask n v).tnResets = s.tnResets := rfl
@[simp] theorem State.setCask_cans (s : State) (n : Nat) (v : CaskInt) : (s.setCask n v).cans = s.cans := rfl
@[simp] theorem State.setCask_lins (s : State) (n : Nat) (v : CaskInt) : (s.setCask n v).lins = s.lins := rfl
@[simp] theorem State.setCask_clr (s : State) (n : Nat) (v : CaskInt) : (s.setCask n v).clr = s.clr := rfl
@[simp] theorem State.setCask_esw (s : State) (n : Nat) (v : CaskInt) : (s.setCask n v).esw = s.esw := rfl
@[simp] theorem State.setCask_kst (s : State) (n : Nat) (v : CaskInt) : (s.setCask n v).kst = s.kst := rfl
@[simp] theorem State.setCask_cph (s : State) (n : Nat) (v : CaskInt) : (s.setCask n v).cph = s.cph := rfl
@[simp] theorem State.setCask_stg (s : State) (n : Nat) (v : CaskInt) : (s.setCask n v).stg = s.stg := rfl
@[simp] theorem State.setCask_nand (s : State) (n : Nat) (v : CaskInt) : (s.setCask n v).nand = s.nand := rfl
@[simp] theorem State.setCask_tnSaid (s : State) (n : Nat) (v : CaskInt) : (s.setCask n v).tnSaid = s.tnSaid := rfl
@[simp] theorem State.setCask_tnAborted (s : State) (n : Nat) (v : CaskInt) : (s.setCask n v).tnAborted = s.tnAborted := rfl
@[simp] theorem State.setCask_evs (s : State) (n : Nat) (v : CaskInt) : (s.setCask n v).evs = s.evs := rfl
@[simp] theorem State.setCask_brg (s : State) (n : Nat) (v : CaskInt) : (s.setCask n v).brg = s.brg := rfl
@[simp] theorem State.setCask_prm (s : State) (n : Nat) (v : CaskInt) : (s.setCask n v).prm = s.prm := rfl
@[simp] theorem State.setCask_pending (s : State) (n : Nat) (v : CaskInt) : (s.setCask n v).pending = s.pending := rfl

/-! `State.setCan` -/
@[simp] theorem State.setCan_regs (s : State) (n : Nat) (v : CanInt) : (s.setCan n v).regs = s.regs := rfl
@[simp] theorem State.setCan_mem (s : State) (n : Nat) (v : CanInt) : (s.setCan n v).mem = s.mem := rfl
@[simp] theorem State.setCan_eccBad (s : State) (n : Nat) (v : CanInt) : (s.setCan n v).eccBad = s.eccBad := rfl
@[simp] theorem State.setCan_resp (s : State) (n : Nat) (v : CanInt) : (s.setCan n v).resp = s.resp := rfl
@[simp] theorem State.setCan_reports (s : State) (n : Nat) (v : CanInt) : (s.setCan n v).reports = s.reports := rfl
@[simp] theorem State.setCan_dieLogs (s : State) (n : Nat) (v : CanInt) : (s.setCan n v).dieLogs = s.dieLogs := rfl
@[simp] theorem State.setCan_boundary (s : State) (n : Nat) (v : CanInt) : (s.setCan n v).boundary = s.boundary := rfl
@[simp] theorem State.setCan_draining (s : State) (n : Nat) (v : CanInt) : (s.setCan n v).draining = s.draining := rfl
@[simp] theorem State.setCan_free (s : State) (n : Nat) (v : CanInt) : (s.setCan n v).free = s.free := rfl
@[simp] theorem State.setCan_pwr (s : State) (n : Nat) (v : CanInt) : (s.setCan n v).pwr = s.pwr := rfl
@[simp] theorem State.setCan_links (s : State) (n : Nat) (v : CanInt) : (s.setCan n v).links = s.links := rfl
@[simp] theorem State.setCan_isl (s : State) (n : Nat) (v : CanInt) : (s.setCan n v).isl = s.isl := rfl
@[simp] theorem State.setCan_fuse (s : State) (n : Nat) (v : CanInt) : (s.setCan n v).fuse = s.fuse := rfl
@[simp] theorem State.setCan_boot (s : State) (n : Nat) (v : CanInt) : (s.setCan n v).boot = s.boot := rfl
@[simp] theorem State.setCan_dbg (s : State) (n : Nat) (v : CanInt) : (s.setCan n v).dbg = s.dbg := rfl
@[simp] theorem State.setCan_chs (s : State) (n : Nat) (v : CanInt) : (s.setCan n v).chs = s.chs := rfl
@[simp] theorem State.setCan_dies (s : State) (n : Nat) (v : CanInt) : (s.setCan n v).dies = s.dies := rfl
@[simp] theorem State.setCan_lines (s : State) (n : Nat) (v : CanInt) : (s.setCan n v).lines = s.lines := rfl
@[simp] theorem State.setCan_sins (s : State) (n : Nat) (v : CanInt) : (s.setCan n v).sins = s.sins := rfl
@[simp] theorem State.setCan_front (s : State) (n : Nat) (v : CanInt) : (s.setCan n v).front = s.front := rfl
@[simp] theorem State.setCan_dinLand (s : State) (n : Nat) (v : CanInt) : (s.setCan n v).dinLand = s.dinLand := rfl
@[simp] theorem State.setCan_harts (s : State) (n : Nat) (v : CanInt) : (s.setCan n v).harts = s.harts := rfl
@[simp] theorem State.setCan_msis (s : State) (n : Nat) (v : CanInt) : (s.setCan n v).msis = s.msis := rfl
@[simp] theorem State.setCan_aplic (s : State) (n : Nat) (v : CanInt) : (s.setCan n v).aplic = s.aplic := rfl
@[simp] theorem State.setCan_ticks (s : State) (n : Nat) (v : CanInt) : (s.setCan n v).ticks = s.ticks := rfl
@[simp] theorem State.setCan_rwd (s : State) (n : Nat) (v : CanInt) : (s.setCan n v).rwd = s.rwd := rfl
@[simp] theorem State.setCan_fc (s : State) (n : Nat) (v : CanInt) : (s.setCan n v).fc = s.fc := rfl
@[simp] theorem State.setCan_tb (s : State) (n : Nat) (v : CanInt) : (s.setCan n v).tb = s.tb := rfl
@[simp] theorem State.setCan_thrs (s : State) (n : Nat) (v : CanInt) : (s.setCan n v).thrs = s.thrs := rfl
@[simp] theorem State.setCan_engs (s : State) (n : Nat) (v : CanInt) : (s.setCan n v).engs = s.engs := rfl
@[simp] theorem State.setCan_mirror (s : State) (n : Nat) (v : CanInt) : (s.setCan n v).mirror = s.mirror := rfl
@[simp] theorem State.setCan_measTx (s : State) (n : Nat) (v : CanInt) : (s.setCan n v).measTx = s.measTx := rfl
@[simp] theorem State.setCan_measNo (s : State) (n : Nat) (v : CanInt) : (s.setCan n v).measNo = s.measNo := rfl
@[simp] theorem State.setCan_casks (s : State) (n : Nat) (v : CanInt) : (s.setCan n v).casks = s.casks := rfl
@[simp] theorem State.setCan_tnResets (s : State) (n : Nat) (v : CanInt) : (s.setCan n v).tnResets = s.tnResets := rfl
@[simp] theorem State.setCan_cans (s : State) (n : Nat) (v : CanInt) : (s.setCan n v).cans = smSet (fun _ => {}) s.cans n v := rfl
@[simp] theorem State.setCan_lins (s : State) (n : Nat) (v : CanInt) : (s.setCan n v).lins = s.lins := rfl
@[simp] theorem State.setCan_clr (s : State) (n : Nat) (v : CanInt) : (s.setCan n v).clr = s.clr := rfl
@[simp] theorem State.setCan_esw (s : State) (n : Nat) (v : CanInt) : (s.setCan n v).esw = s.esw := rfl
@[simp] theorem State.setCan_kst (s : State) (n : Nat) (v : CanInt) : (s.setCan n v).kst = s.kst := rfl
@[simp] theorem State.setCan_cph (s : State) (n : Nat) (v : CanInt) : (s.setCan n v).cph = s.cph := rfl
@[simp] theorem State.setCan_stg (s : State) (n : Nat) (v : CanInt) : (s.setCan n v).stg = s.stg := rfl
@[simp] theorem State.setCan_nand (s : State) (n : Nat) (v : CanInt) : (s.setCan n v).nand = s.nand := rfl
@[simp] theorem State.setCan_tnSaid (s : State) (n : Nat) (v : CanInt) : (s.setCan n v).tnSaid = s.tnSaid := rfl
@[simp] theorem State.setCan_tnAborted (s : State) (n : Nat) (v : CanInt) : (s.setCan n v).tnAborted = s.tnAborted := rfl
@[simp] theorem State.setCan_evs (s : State) (n : Nat) (v : CanInt) : (s.setCan n v).evs = s.evs := rfl
@[simp] theorem State.setCan_brg (s : State) (n : Nat) (v : CanInt) : (s.setCan n v).brg = s.brg := rfl
@[simp] theorem State.setCan_prm (s : State) (n : Nat) (v : CanInt) : (s.setCan n v).prm = s.prm := rfl
@[simp] theorem State.setCan_pending (s : State) (n : Nat) (v : CanInt) : (s.setCan n v).pending = s.pending := rfl

/-! `State.setLin` -/
@[simp] theorem State.setLin_regs (s : State) (n : Nat) (v : LinInt) : (s.setLin n v).regs = s.regs := rfl
@[simp] theorem State.setLin_mem (s : State) (n : Nat) (v : LinInt) : (s.setLin n v).mem = s.mem := rfl
@[simp] theorem State.setLin_eccBad (s : State) (n : Nat) (v : LinInt) : (s.setLin n v).eccBad = s.eccBad := rfl
@[simp] theorem State.setLin_resp (s : State) (n : Nat) (v : LinInt) : (s.setLin n v).resp = s.resp := rfl
@[simp] theorem State.setLin_reports (s : State) (n : Nat) (v : LinInt) : (s.setLin n v).reports = s.reports := rfl
@[simp] theorem State.setLin_dieLogs (s : State) (n : Nat) (v : LinInt) : (s.setLin n v).dieLogs = s.dieLogs := rfl
@[simp] theorem State.setLin_boundary (s : State) (n : Nat) (v : LinInt) : (s.setLin n v).boundary = s.boundary := rfl
@[simp] theorem State.setLin_draining (s : State) (n : Nat) (v : LinInt) : (s.setLin n v).draining = s.draining := rfl
@[simp] theorem State.setLin_free (s : State) (n : Nat) (v : LinInt) : (s.setLin n v).free = s.free := rfl
@[simp] theorem State.setLin_pwr (s : State) (n : Nat) (v : LinInt) : (s.setLin n v).pwr = s.pwr := rfl
@[simp] theorem State.setLin_links (s : State) (n : Nat) (v : LinInt) : (s.setLin n v).links = s.links := rfl
@[simp] theorem State.setLin_isl (s : State) (n : Nat) (v : LinInt) : (s.setLin n v).isl = s.isl := rfl
@[simp] theorem State.setLin_fuse (s : State) (n : Nat) (v : LinInt) : (s.setLin n v).fuse = s.fuse := rfl
@[simp] theorem State.setLin_boot (s : State) (n : Nat) (v : LinInt) : (s.setLin n v).boot = s.boot := rfl
@[simp] theorem State.setLin_dbg (s : State) (n : Nat) (v : LinInt) : (s.setLin n v).dbg = s.dbg := rfl
@[simp] theorem State.setLin_chs (s : State) (n : Nat) (v : LinInt) : (s.setLin n v).chs = s.chs := rfl
@[simp] theorem State.setLin_dies (s : State) (n : Nat) (v : LinInt) : (s.setLin n v).dies = s.dies := rfl
@[simp] theorem State.setLin_lines (s : State) (n : Nat) (v : LinInt) : (s.setLin n v).lines = s.lines := rfl
@[simp] theorem State.setLin_sins (s : State) (n : Nat) (v : LinInt) : (s.setLin n v).sins = s.sins := rfl
@[simp] theorem State.setLin_front (s : State) (n : Nat) (v : LinInt) : (s.setLin n v).front = s.front := rfl
@[simp] theorem State.setLin_dinLand (s : State) (n : Nat) (v : LinInt) : (s.setLin n v).dinLand = s.dinLand := rfl
@[simp] theorem State.setLin_harts (s : State) (n : Nat) (v : LinInt) : (s.setLin n v).harts = s.harts := rfl
@[simp] theorem State.setLin_msis (s : State) (n : Nat) (v : LinInt) : (s.setLin n v).msis = s.msis := rfl
@[simp] theorem State.setLin_aplic (s : State) (n : Nat) (v : LinInt) : (s.setLin n v).aplic = s.aplic := rfl
@[simp] theorem State.setLin_ticks (s : State) (n : Nat) (v : LinInt) : (s.setLin n v).ticks = s.ticks := rfl
@[simp] theorem State.setLin_rwd (s : State) (n : Nat) (v : LinInt) : (s.setLin n v).rwd = s.rwd := rfl
@[simp] theorem State.setLin_fc (s : State) (n : Nat) (v : LinInt) : (s.setLin n v).fc = s.fc := rfl
@[simp] theorem State.setLin_tb (s : State) (n : Nat) (v : LinInt) : (s.setLin n v).tb = s.tb := rfl
@[simp] theorem State.setLin_thrs (s : State) (n : Nat) (v : LinInt) : (s.setLin n v).thrs = s.thrs := rfl
@[simp] theorem State.setLin_engs (s : State) (n : Nat) (v : LinInt) : (s.setLin n v).engs = s.engs := rfl
@[simp] theorem State.setLin_mirror (s : State) (n : Nat) (v : LinInt) : (s.setLin n v).mirror = s.mirror := rfl
@[simp] theorem State.setLin_measTx (s : State) (n : Nat) (v : LinInt) : (s.setLin n v).measTx = s.measTx := rfl
@[simp] theorem State.setLin_measNo (s : State) (n : Nat) (v : LinInt) : (s.setLin n v).measNo = s.measNo := rfl
@[simp] theorem State.setLin_casks (s : State) (n : Nat) (v : LinInt) : (s.setLin n v).casks = s.casks := rfl
@[simp] theorem State.setLin_tnResets (s : State) (n : Nat) (v : LinInt) : (s.setLin n v).tnResets = s.tnResets := rfl
@[simp] theorem State.setLin_cans (s : State) (n : Nat) (v : LinInt) : (s.setLin n v).cans = s.cans := rfl
@[simp] theorem State.setLin_lins (s : State) (n : Nat) (v : LinInt) : (s.setLin n v).lins = smSet (fun _ => {}) s.lins n v := rfl
@[simp] theorem State.setLin_clr (s : State) (n : Nat) (v : LinInt) : (s.setLin n v).clr = s.clr := rfl
@[simp] theorem State.setLin_esw (s : State) (n : Nat) (v : LinInt) : (s.setLin n v).esw = s.esw := rfl
@[simp] theorem State.setLin_kst (s : State) (n : Nat) (v : LinInt) : (s.setLin n v).kst = s.kst := rfl
@[simp] theorem State.setLin_cph (s : State) (n : Nat) (v : LinInt) : (s.setLin n v).cph = s.cph := rfl
@[simp] theorem State.setLin_stg (s : State) (n : Nat) (v : LinInt) : (s.setLin n v).stg = s.stg := rfl
@[simp] theorem State.setLin_nand (s : State) (n : Nat) (v : LinInt) : (s.setLin n v).nand = s.nand := rfl
@[simp] theorem State.setLin_tnSaid (s : State) (n : Nat) (v : LinInt) : (s.setLin n v).tnSaid = s.tnSaid := rfl
@[simp] theorem State.setLin_tnAborted (s : State) (n : Nat) (v : LinInt) : (s.setLin n v).tnAborted = s.tnAborted := rfl
@[simp] theorem State.setLin_evs (s : State) (n : Nat) (v : LinInt) : (s.setLin n v).evs = s.evs := rfl
@[simp] theorem State.setLin_brg (s : State) (n : Nat) (v : LinInt) : (s.setLin n v).brg = s.brg := rfl
@[simp] theorem State.setLin_prm (s : State) (n : Nat) (v : LinInt) : (s.setLin n v).prm = s.prm := rfl
@[simp] theorem State.setLin_pending (s : State) (n : Nat) (v : LinInt) : (s.setLin n v).pending = s.pending := rfl

/-! `State.setEv` -/
@[simp] theorem State.setEv_regs (s : State) (k : Nat) (v : EvInt) : (s.setEv k v).regs = s.regs := rfl
@[simp] theorem State.setEv_mem (s : State) (k : Nat) (v : EvInt) : (s.setEv k v).mem = s.mem := rfl
@[simp] theorem State.setEv_eccBad (s : State) (k : Nat) (v : EvInt) : (s.setEv k v).eccBad = s.eccBad := rfl
@[simp] theorem State.setEv_resp (s : State) (k : Nat) (v : EvInt) : (s.setEv k v).resp = s.resp := rfl
@[simp] theorem State.setEv_reports (s : State) (k : Nat) (v : EvInt) : (s.setEv k v).reports = s.reports := rfl
@[simp] theorem State.setEv_dieLogs (s : State) (k : Nat) (v : EvInt) : (s.setEv k v).dieLogs = s.dieLogs := rfl
@[simp] theorem State.setEv_boundary (s : State) (k : Nat) (v : EvInt) : (s.setEv k v).boundary = s.boundary := rfl
@[simp] theorem State.setEv_draining (s : State) (k : Nat) (v : EvInt) : (s.setEv k v).draining = s.draining := rfl
@[simp] theorem State.setEv_free (s : State) (k : Nat) (v : EvInt) : (s.setEv k v).free = s.free := rfl
@[simp] theorem State.setEv_pwr (s : State) (k : Nat) (v : EvInt) : (s.setEv k v).pwr = s.pwr := rfl
@[simp] theorem State.setEv_links (s : State) (k : Nat) (v : EvInt) : (s.setEv k v).links = s.links := rfl
@[simp] theorem State.setEv_isl (s : State) (k : Nat) (v : EvInt) : (s.setEv k v).isl = s.isl := rfl
@[simp] theorem State.setEv_fuse (s : State) (k : Nat) (v : EvInt) : (s.setEv k v).fuse = s.fuse := rfl
@[simp] theorem State.setEv_boot (s : State) (k : Nat) (v : EvInt) : (s.setEv k v).boot = s.boot := rfl
@[simp] theorem State.setEv_dbg (s : State) (k : Nat) (v : EvInt) : (s.setEv k v).dbg = s.dbg := rfl
@[simp] theorem State.setEv_chs (s : State) (k : Nat) (v : EvInt) : (s.setEv k v).chs = s.chs := rfl
@[simp] theorem State.setEv_dies (s : State) (k : Nat) (v : EvInt) : (s.setEv k v).dies = s.dies := rfl
@[simp] theorem State.setEv_lines (s : State) (k : Nat) (v : EvInt) : (s.setEv k v).lines = s.lines := rfl
@[simp] theorem State.setEv_sins (s : State) (k : Nat) (v : EvInt) : (s.setEv k v).sins = s.sins := rfl
@[simp] theorem State.setEv_front (s : State) (k : Nat) (v : EvInt) : (s.setEv k v).front = s.front := rfl
@[simp] theorem State.setEv_dinLand (s : State) (k : Nat) (v : EvInt) : (s.setEv k v).dinLand = s.dinLand := rfl
@[simp] theorem State.setEv_harts (s : State) (k : Nat) (v : EvInt) : (s.setEv k v).harts = s.harts := rfl
@[simp] theorem State.setEv_msis (s : State) (k : Nat) (v : EvInt) : (s.setEv k v).msis = s.msis := rfl
@[simp] theorem State.setEv_aplic (s : State) (k : Nat) (v : EvInt) : (s.setEv k v).aplic = s.aplic := rfl
@[simp] theorem State.setEv_ticks (s : State) (k : Nat) (v : EvInt) : (s.setEv k v).ticks = s.ticks := rfl
@[simp] theorem State.setEv_rwd (s : State) (k : Nat) (v : EvInt) : (s.setEv k v).rwd = s.rwd := rfl
@[simp] theorem State.setEv_fc (s : State) (k : Nat) (v : EvInt) : (s.setEv k v).fc = s.fc := rfl
@[simp] theorem State.setEv_tb (s : State) (k : Nat) (v : EvInt) : (s.setEv k v).tb = s.tb := rfl
@[simp] theorem State.setEv_thrs (s : State) (k : Nat) (v : EvInt) : (s.setEv k v).thrs = s.thrs := rfl
@[simp] theorem State.setEv_engs (s : State) (k : Nat) (v : EvInt) : (s.setEv k v).engs = s.engs := rfl
@[simp] theorem State.setEv_mirror (s : State) (k : Nat) (v : EvInt) : (s.setEv k v).mirror = s.mirror := rfl
@[simp] theorem State.setEv_measTx (s : State) (k : Nat) (v : EvInt) : (s.setEv k v).measTx = s.measTx := rfl
@[simp] theorem State.setEv_measNo (s : State) (k : Nat) (v : EvInt) : (s.setEv k v).measNo = s.measNo := rfl
@[simp] theorem State.setEv_casks (s : State) (k : Nat) (v : EvInt) : (s.setEv k v).casks = s.casks := rfl
@[simp] theorem State.setEv_tnResets (s : State) (k : Nat) (v : EvInt) : (s.setEv k v).tnResets = s.tnResets := rfl
@[simp] theorem State.setEv_cans (s : State) (k : Nat) (v : EvInt) : (s.setEv k v).cans = s.cans := rfl
@[simp] theorem State.setEv_lins (s : State) (k : Nat) (v : EvInt) : (s.setEv k v).lins = s.lins := rfl
@[simp] theorem State.setEv_clr (s : State) (k : Nat) (v : EvInt) : (s.setEv k v).clr = s.clr := rfl
@[simp] theorem State.setEv_esw (s : State) (k : Nat) (v : EvInt) : (s.setEv k v).esw = s.esw := rfl
@[simp] theorem State.setEv_kst (s : State) (k : Nat) (v : EvInt) : (s.setEv k v).kst = s.kst := rfl
@[simp] theorem State.setEv_cph (s : State) (k : Nat) (v : EvInt) : (s.setEv k v).cph = s.cph := rfl
@[simp] theorem State.setEv_stg (s : State) (k : Nat) (v : EvInt) : (s.setEv k v).stg = s.stg := rfl
@[simp] theorem State.setEv_nand (s : State) (k : Nat) (v : EvInt) : (s.setEv k v).nand = s.nand := rfl
@[simp] theorem State.setEv_tnSaid (s : State) (k : Nat) (v : EvInt) : (s.setEv k v).tnSaid = s.tnSaid := rfl
@[simp] theorem State.setEv_tnAborted (s : State) (k : Nat) (v : EvInt) : (s.setEv k v).tnAborted = s.tnAborted := rfl
@[simp] theorem State.setEv_evs (s : State) (k : Nat) (v : EvInt) : (s.setEv k v).evs = smSet (fun _ => {}) s.evs k v := rfl
@[simp] theorem State.setEv_brg (s : State) (k : Nat) (v : EvInt) : (s.setEv k v).brg = s.brg := rfl
@[simp] theorem State.setEv_prm (s : State) (k : Nat) (v : EvInt) : (s.setEv k v).prm = s.prm := rfl
@[simp] theorem State.setEv_pending (s : State) (k : Nat) (v : EvInt) : (s.setEv k v).pending = s.pending := rfl

/-! `State.setPwr` -/
@[simp] theorem State.setPwr_regs (s : State) (p : Power) : (s.setPwr p).regs = s.regs := rfl
@[simp] theorem State.setPwr_mem (s : State) (p : Power) : (s.setPwr p).mem = s.mem := rfl
@[simp] theorem State.setPwr_eccBad (s : State) (p : Power) : (s.setPwr p).eccBad = s.eccBad := rfl
@[simp] theorem State.setPwr_resp (s : State) (p : Power) : (s.setPwr p).resp = s.resp := rfl
@[simp] theorem State.setPwr_reports (s : State) (p : Power) : (s.setPwr p).reports = s.reports := rfl
@[simp] theorem State.setPwr_dieLogs (s : State) (p : Power) : (s.setPwr p).dieLogs = s.dieLogs := rfl
@[simp] theorem State.setPwr_boundary (s : State) (p : Power) : (s.setPwr p).boundary = s.boundary := rfl
@[simp] theorem State.setPwr_draining (s : State) (p : Power) : (s.setPwr p).draining = s.draining := rfl
@[simp] theorem State.setPwr_free (s : State) (p : Power) : (s.setPwr p).free = s.free := rfl
@[simp] theorem State.setPwr_pwr (s : State) (p : Power) : (s.setPwr p).pwr = p := rfl
@[simp] theorem State.setPwr_links (s : State) (p : Power) : (s.setPwr p).links = s.links := rfl
@[simp] theorem State.setPwr_isl (s : State) (p : Power) : (s.setPwr p).isl = s.isl := rfl
@[simp] theorem State.setPwr_fuse (s : State) (p : Power) : (s.setPwr p).fuse = s.fuse := rfl
@[simp] theorem State.setPwr_boot (s : State) (p : Power) : (s.setPwr p).boot = s.boot := rfl
@[simp] theorem State.setPwr_dbg (s : State) (p : Power) : (s.setPwr p).dbg = s.dbg := rfl
@[simp] theorem State.setPwr_chs (s : State) (p : Power) : (s.setPwr p).chs = s.chs := rfl
@[simp] theorem State.setPwr_dies (s : State) (p : Power) : (s.setPwr p).dies = s.dies := rfl
@[simp] theorem State.setPwr_lines (s : State) (p : Power) : (s.setPwr p).lines = s.lines := rfl
@[simp] theorem State.setPwr_sins (s : State) (p : Power) : (s.setPwr p).sins = s.sins := rfl
@[simp] theorem State.setPwr_front (s : State) (p : Power) : (s.setPwr p).front = s.front := rfl
@[simp] theorem State.setPwr_dinLand (s : State) (p : Power) : (s.setPwr p).dinLand = s.dinLand := rfl
@[simp] theorem State.setPwr_harts (s : State) (p : Power) : (s.setPwr p).harts = s.harts := rfl
@[simp] theorem State.setPwr_msis (s : State) (p : Power) : (s.setPwr p).msis = s.msis := rfl
@[simp] theorem State.setPwr_aplic (s : State) (p : Power) : (s.setPwr p).aplic = s.aplic := rfl
@[simp] theorem State.setPwr_ticks (s : State) (p : Power) : (s.setPwr p).ticks = s.ticks := rfl
@[simp] theorem State.setPwr_rwd (s : State) (p : Power) : (s.setPwr p).rwd = s.rwd := rfl
@[simp] theorem State.setPwr_fc (s : State) (p : Power) : (s.setPwr p).fc = s.fc := rfl
@[simp] theorem State.setPwr_tb (s : State) (p : Power) : (s.setPwr p).tb = s.tb := rfl
@[simp] theorem State.setPwr_thrs (s : State) (p : Power) : (s.setPwr p).thrs = s.thrs := rfl
@[simp] theorem State.setPwr_engs (s : State) (p : Power) : (s.setPwr p).engs = s.engs := rfl
@[simp] theorem State.setPwr_mirror (s : State) (p : Power) : (s.setPwr p).mirror = s.mirror := rfl
@[simp] theorem State.setPwr_measTx (s : State) (p : Power) : (s.setPwr p).measTx = s.measTx := rfl
@[simp] theorem State.setPwr_measNo (s : State) (p : Power) : (s.setPwr p).measNo = s.measNo := rfl
@[simp] theorem State.setPwr_casks (s : State) (p : Power) : (s.setPwr p).casks = s.casks := rfl
@[simp] theorem State.setPwr_tnResets (s : State) (p : Power) : (s.setPwr p).tnResets = s.tnResets := rfl
@[simp] theorem State.setPwr_cans (s : State) (p : Power) : (s.setPwr p).cans = s.cans := rfl
@[simp] theorem State.setPwr_lins (s : State) (p : Power) : (s.setPwr p).lins = s.lins := rfl
@[simp] theorem State.setPwr_clr (s : State) (p : Power) : (s.setPwr p).clr = s.clr := rfl
@[simp] theorem State.setPwr_esw (s : State) (p : Power) : (s.setPwr p).esw = s.esw := rfl
@[simp] theorem State.setPwr_kst (s : State) (p : Power) : (s.setPwr p).kst = s.kst := rfl
@[simp] theorem State.setPwr_cph (s : State) (p : Power) : (s.setPwr p).cph = s.cph := rfl
@[simp] theorem State.setPwr_stg (s : State) (p : Power) : (s.setPwr p).stg = s.stg := rfl
@[simp] theorem State.setPwr_nand (s : State) (p : Power) : (s.setPwr p).nand = s.nand := rfl
@[simp] theorem State.setPwr_tnSaid (s : State) (p : Power) : (s.setPwr p).tnSaid = s.tnSaid := rfl
@[simp] theorem State.setPwr_tnAborted (s : State) (p : Power) : (s.setPwr p).tnAborted = s.tnAborted := rfl
@[simp] theorem State.setPwr_evs (s : State) (p : Power) : (s.setPwr p).evs = s.evs := rfl
@[simp] theorem State.setPwr_brg (s : State) (p : Power) : (s.setPwr p).brg = s.brg := rfl
@[simp] theorem State.setPwr_prm (s : State) (p : Power) : (s.setPwr p).prm = s.prm := rfl
@[simp] theorem State.setPwr_pending (s : State) (p : Power) : (s.setPwr p).pending = s.pending := rfl

/-! `State.setFront` -/
@[simp] theorem State.setFront_regs (s : State) (f : FrontInt) : (s.setFront f).regs = s.regs := rfl
@[simp] theorem State.setFront_mem (s : State) (f : FrontInt) : (s.setFront f).mem = s.mem := rfl
@[simp] theorem State.setFront_eccBad (s : State) (f : FrontInt) : (s.setFront f).eccBad = s.eccBad := rfl
@[simp] theorem State.setFront_resp (s : State) (f : FrontInt) : (s.setFront f).resp = s.resp := rfl
@[simp] theorem State.setFront_reports (s : State) (f : FrontInt) : (s.setFront f).reports = s.reports := rfl
@[simp] theorem State.setFront_dieLogs (s : State) (f : FrontInt) : (s.setFront f).dieLogs = s.dieLogs := rfl
@[simp] theorem State.setFront_boundary (s : State) (f : FrontInt) : (s.setFront f).boundary = s.boundary := rfl
@[simp] theorem State.setFront_draining (s : State) (f : FrontInt) : (s.setFront f).draining = s.draining := rfl
@[simp] theorem State.setFront_free (s : State) (f : FrontInt) : (s.setFront f).free = s.free := rfl
@[simp] theorem State.setFront_pwr (s : State) (f : FrontInt) : (s.setFront f).pwr = s.pwr := rfl
@[simp] theorem State.setFront_links (s : State) (f : FrontInt) : (s.setFront f).links = s.links := rfl
@[simp] theorem State.setFront_isl (s : State) (f : FrontInt) : (s.setFront f).isl = s.isl := rfl
@[simp] theorem State.setFront_fuse (s : State) (f : FrontInt) : (s.setFront f).fuse = s.fuse := rfl
@[simp] theorem State.setFront_boot (s : State) (f : FrontInt) : (s.setFront f).boot = s.boot := rfl
@[simp] theorem State.setFront_dbg (s : State) (f : FrontInt) : (s.setFront f).dbg = s.dbg := rfl
@[simp] theorem State.setFront_chs (s : State) (f : FrontInt) : (s.setFront f).chs = s.chs := rfl
@[simp] theorem State.setFront_dies (s : State) (f : FrontInt) : (s.setFront f).dies = s.dies := rfl
@[simp] theorem State.setFront_lines (s : State) (f : FrontInt) : (s.setFront f).lines = s.lines := rfl
@[simp] theorem State.setFront_sins (s : State) (f : FrontInt) : (s.setFront f).sins = s.sins := rfl
@[simp] theorem State.setFront_front (s : State) (f : FrontInt) : (s.setFront f).front = f := rfl
@[simp] theorem State.setFront_dinLand (s : State) (f : FrontInt) : (s.setFront f).dinLand = s.dinLand := rfl
@[simp] theorem State.setFront_harts (s : State) (f : FrontInt) : (s.setFront f).harts = s.harts := rfl
@[simp] theorem State.setFront_msis (s : State) (f : FrontInt) : (s.setFront f).msis = s.msis := rfl
@[simp] theorem State.setFront_aplic (s : State) (f : FrontInt) : (s.setFront f).aplic = s.aplic := rfl
@[simp] theorem State.setFront_ticks (s : State) (f : FrontInt) : (s.setFront f).ticks = s.ticks := rfl
@[simp] theorem State.setFront_rwd (s : State) (f : FrontInt) : (s.setFront f).rwd = s.rwd := rfl
@[simp] theorem State.setFront_fc (s : State) (f : FrontInt) : (s.setFront f).fc = s.fc := rfl
@[simp] theorem State.setFront_tb (s : State) (f : FrontInt) : (s.setFront f).tb = s.tb := rfl
@[simp] theorem State.setFront_thrs (s : State) (f : FrontInt) : (s.setFront f).thrs = s.thrs := rfl
@[simp] theorem State.setFront_engs (s : State) (f : FrontInt) : (s.setFront f).engs = s.engs := rfl
@[simp] theorem State.setFront_mirror (s : State) (f : FrontInt) : (s.setFront f).mirror = s.mirror := rfl
@[simp] theorem State.setFront_measTx (s : State) (f : FrontInt) : (s.setFront f).measTx = s.measTx := rfl
@[simp] theorem State.setFront_measNo (s : State) (f : FrontInt) : (s.setFront f).measNo = s.measNo := rfl
@[simp] theorem State.setFront_casks (s : State) (f : FrontInt) : (s.setFront f).casks = s.casks := rfl
@[simp] theorem State.setFront_tnResets (s : State) (f : FrontInt) : (s.setFront f).tnResets = s.tnResets := rfl
@[simp] theorem State.setFront_cans (s : State) (f : FrontInt) : (s.setFront f).cans = s.cans := rfl
@[simp] theorem State.setFront_lins (s : State) (f : FrontInt) : (s.setFront f).lins = s.lins := rfl
@[simp] theorem State.setFront_clr (s : State) (f : FrontInt) : (s.setFront f).clr = s.clr := rfl
@[simp] theorem State.setFront_esw (s : State) (f : FrontInt) : (s.setFront f).esw = s.esw := rfl
@[simp] theorem State.setFront_kst (s : State) (f : FrontInt) : (s.setFront f).kst = s.kst := rfl
@[simp] theorem State.setFront_cph (s : State) (f : FrontInt) : (s.setFront f).cph = s.cph := rfl
@[simp] theorem State.setFront_stg (s : State) (f : FrontInt) : (s.setFront f).stg = s.stg := rfl
@[simp] theorem State.setFront_nand (s : State) (f : FrontInt) : (s.setFront f).nand = s.nand := rfl
@[simp] theorem State.setFront_tnSaid (s : State) (f : FrontInt) : (s.setFront f).tnSaid = s.tnSaid := rfl
@[simp] theorem State.setFront_tnAborted (s : State) (f : FrontInt) : (s.setFront f).tnAborted = s.tnAborted := rfl
@[simp] theorem State.setFront_evs (s : State) (f : FrontInt) : (s.setFront f).evs = s.evs := rfl
@[simp] theorem State.setFront_brg (s : State) (f : FrontInt) : (s.setFront f).brg = s.brg := rfl
@[simp] theorem State.setFront_prm (s : State) (f : FrontInt) : (s.setFront f).prm = s.prm := rfl
@[simp] theorem State.setFront_pending (s : State) (f : FrontInt) : (s.setFront f).pending = s.pending := rfl

/-! `State.setPrm` -/
@[simp] theorem State.setPrm_regs (s : State) (p : PrmInt) : (s.setPrm p).regs = s.regs := rfl
@[simp] theorem State.setPrm_mem (s : State) (p : PrmInt) : (s.setPrm p).mem = s.mem := rfl
@[simp] theorem State.setPrm_eccBad (s : State) (p : PrmInt) : (s.setPrm p).eccBad = s.eccBad := rfl
@[simp] theorem State.setPrm_resp (s : State) (p : PrmInt) : (s.setPrm p).resp = s.resp := rfl
@[simp] theorem State.setPrm_reports (s : State) (p : PrmInt) : (s.setPrm p).reports = s.reports := rfl
@[simp] theorem State.setPrm_dieLogs (s : State) (p : PrmInt) : (s.setPrm p).dieLogs = s.dieLogs := rfl
@[simp] theorem State.setPrm_boundary (s : State) (p : PrmInt) : (s.setPrm p).boundary = s.boundary := rfl
@[simp] theorem State.setPrm_draining (s : State) (p : PrmInt) : (s.setPrm p).draining = s.draining := rfl
@[simp] theorem State.setPrm_free (s : State) (p : PrmInt) : (s.setPrm p).free = s.free := rfl
@[simp] theorem State.setPrm_pwr (s : State) (p : PrmInt) : (s.setPrm p).pwr = s.pwr := rfl
@[simp] theorem State.setPrm_links (s : State) (p : PrmInt) : (s.setPrm p).links = s.links := rfl
@[simp] theorem State.setPrm_isl (s : State) (p : PrmInt) : (s.setPrm p).isl = s.isl := rfl
@[simp] theorem State.setPrm_fuse (s : State) (p : PrmInt) : (s.setPrm p).fuse = s.fuse := rfl
@[simp] theorem State.setPrm_boot (s : State) (p : PrmInt) : (s.setPrm p).boot = s.boot := rfl
@[simp] theorem State.setPrm_dbg (s : State) (p : PrmInt) : (s.setPrm p).dbg = s.dbg := rfl
@[simp] theorem State.setPrm_chs (s : State) (p : PrmInt) : (s.setPrm p).chs = s.chs := rfl
@[simp] theorem State.setPrm_dies (s : State) (p : PrmInt) : (s.setPrm p).dies = s.dies := rfl
@[simp] theorem State.setPrm_lines (s : State) (p : PrmInt) : (s.setPrm p).lines = s.lines := rfl
@[simp] theorem State.setPrm_sins (s : State) (p : PrmInt) : (s.setPrm p).sins = s.sins := rfl
@[simp] theorem State.setPrm_front (s : State) (p : PrmInt) : (s.setPrm p).front = s.front := rfl
@[simp] theorem State.setPrm_dinLand (s : State) (p : PrmInt) : (s.setPrm p).dinLand = s.dinLand := rfl
@[simp] theorem State.setPrm_harts (s : State) (p : PrmInt) : (s.setPrm p).harts = s.harts := rfl
@[simp] theorem State.setPrm_msis (s : State) (p : PrmInt) : (s.setPrm p).msis = s.msis := rfl
@[simp] theorem State.setPrm_aplic (s : State) (p : PrmInt) : (s.setPrm p).aplic = s.aplic := rfl
@[simp] theorem State.setPrm_ticks (s : State) (p : PrmInt) : (s.setPrm p).ticks = s.ticks := rfl
@[simp] theorem State.setPrm_rwd (s : State) (p : PrmInt) : (s.setPrm p).rwd = s.rwd := rfl
@[simp] theorem State.setPrm_fc (s : State) (p : PrmInt) : (s.setPrm p).fc = s.fc := rfl
@[simp] theorem State.setPrm_tb (s : State) (p : PrmInt) : (s.setPrm p).tb = s.tb := rfl
@[simp] theorem State.setPrm_thrs (s : State) (p : PrmInt) : (s.setPrm p).thrs = s.thrs := rfl
@[simp] theorem State.setPrm_engs (s : State) (p : PrmInt) : (s.setPrm p).engs = s.engs := rfl
@[simp] theorem State.setPrm_mirror (s : State) (p : PrmInt) : (s.setPrm p).mirror = s.mirror := rfl
@[simp] theorem State.setPrm_measTx (s : State) (p : PrmInt) : (s.setPrm p).measTx = s.measTx := rfl
@[simp] theorem State.setPrm_measNo (s : State) (p : PrmInt) : (s.setPrm p).measNo = s.measNo := rfl
@[simp] theorem State.setPrm_casks (s : State) (p : PrmInt) : (s.setPrm p).casks = s.casks := rfl
@[simp] theorem State.setPrm_tnResets (s : State) (p : PrmInt) : (s.setPrm p).tnResets = s.tnResets := rfl
@[simp] theorem State.setPrm_cans (s : State) (p : PrmInt) : (s.setPrm p).cans = s.cans := rfl
@[simp] theorem State.setPrm_lins (s : State) (p : PrmInt) : (s.setPrm p).lins = s.lins := rfl
@[simp] theorem State.setPrm_clr (s : State) (p : PrmInt) : (s.setPrm p).clr = s.clr := rfl
@[simp] theorem State.setPrm_esw (s : State) (p : PrmInt) : (s.setPrm p).esw = s.esw := rfl
@[simp] theorem State.setPrm_kst (s : State) (p : PrmInt) : (s.setPrm p).kst = s.kst := rfl
@[simp] theorem State.setPrm_cph (s : State) (p : PrmInt) : (s.setPrm p).cph = s.cph := rfl
@[simp] theorem State.setPrm_stg (s : State) (p : PrmInt) : (s.setPrm p).stg = s.stg := rfl
@[simp] theorem State.setPrm_nand (s : State) (p : PrmInt) : (s.setPrm p).nand = s.nand := rfl
@[simp] theorem State.setPrm_tnSaid (s : State) (p : PrmInt) : (s.setPrm p).tnSaid = s.tnSaid := rfl
@[simp] theorem State.setPrm_tnAborted (s : State) (p : PrmInt) : (s.setPrm p).tnAborted = s.tnAborted := rfl
@[simp] theorem State.setPrm_evs (s : State) (p : PrmInt) : (s.setPrm p).evs = s.evs := rfl
@[simp] theorem State.setPrm_brg (s : State) (p : PrmInt) : (s.setPrm p).brg = s.brg := rfl
@[simp] theorem State.setPrm_prm (s : State) (p : PrmInt) : (s.setPrm p).prm = p := rfl
@[simp] theorem State.setPrm_pending (s : State) (p : PrmInt) : (s.setPrm p).pending = s.pending := rfl

/-! `State.wf` -/
@[simp] theorem State.wf_mem (s : State) (a hi lo v : Nat) : (s.wf a hi lo v).mem = s.mem := rfl
@[simp] theorem State.wf_eccBad (s : State) (a hi lo v : Nat) : (s.wf a hi lo v).eccBad = s.eccBad := rfl
@[simp] theorem State.wf_resp (s : State) (a hi lo v : Nat) : (s.wf a hi lo v).resp = s.resp := rfl
@[simp] theorem State.wf_reports (s : State) (a hi lo v : Nat) : (s.wf a hi lo v).reports = s.reports := rfl
@[simp] theorem State.wf_dieLogs (s : State) (a hi lo v : Nat) : (s.wf a hi lo v).dieLogs = s.dieLogs := rfl
@[simp] theorem State.wf_boundary (s : State) (a hi lo v : Nat) : (s.wf a hi lo v).boundary = s.boundary := rfl
@[simp] theorem State.wf_draining (s : State) (a hi lo v : Nat) : (s.wf a hi lo v).draining = s.draining := rfl
@[simp] theorem State.wf_free (s : State) (a hi lo v : Nat) : (s.wf a hi lo v).free = s.free := rfl
@[simp] theorem State.wf_pwr (s : State) (a hi lo v : Nat) : (s.wf a hi lo v).pwr = s.pwr := rfl
@[simp] theorem State.wf_links (s : State) (a hi lo v : Nat) : (s.wf a hi lo v).links = s.links := rfl
@[simp] theorem State.wf_isl (s : State) (a hi lo v : Nat) : (s.wf a hi lo v).isl = s.isl := rfl
@[simp] theorem State.wf_fuse (s : State) (a hi lo v : Nat) : (s.wf a hi lo v).fuse = s.fuse := rfl
@[simp] theorem State.wf_boot (s : State) (a hi lo v : Nat) : (s.wf a hi lo v).boot = s.boot := rfl
@[simp] theorem State.wf_dbg (s : State) (a hi lo v : Nat) : (s.wf a hi lo v).dbg = s.dbg := rfl
@[simp] theorem State.wf_chs (s : State) (a hi lo v : Nat) : (s.wf a hi lo v).chs = s.chs := rfl
@[simp] theorem State.wf_dies (s : State) (a hi lo v : Nat) : (s.wf a hi lo v).dies = s.dies := rfl
@[simp] theorem State.wf_lines (s : State) (a hi lo v : Nat) : (s.wf a hi lo v).lines = s.lines := rfl
@[simp] theorem State.wf_sins (s : State) (a hi lo v : Nat) : (s.wf a hi lo v).sins = s.sins := rfl
@[simp] theorem State.wf_front (s : State) (a hi lo v : Nat) : (s.wf a hi lo v).front = s.front := rfl
@[simp] theorem State.wf_dinLand (s : State) (a hi lo v : Nat) : (s.wf a hi lo v).dinLand = s.dinLand := rfl
@[simp] theorem State.wf_harts (s : State) (a hi lo v : Nat) : (s.wf a hi lo v).harts = s.harts := rfl
@[simp] theorem State.wf_msis (s : State) (a hi lo v : Nat) : (s.wf a hi lo v).msis = s.msis := rfl
@[simp] theorem State.wf_aplic (s : State) (a hi lo v : Nat) : (s.wf a hi lo v).aplic = s.aplic := rfl
@[simp] theorem State.wf_ticks (s : State) (a hi lo v : Nat) : (s.wf a hi lo v).ticks = s.ticks := rfl
@[simp] theorem State.wf_rwd (s : State) (a hi lo v : Nat) : (s.wf a hi lo v).rwd = s.rwd := rfl
@[simp] theorem State.wf_fc (s : State) (a hi lo v : Nat) : (s.wf a hi lo v).fc = s.fc := rfl
@[simp] theorem State.wf_tb (s : State) (a hi lo v : Nat) : (s.wf a hi lo v).tb = s.tb := rfl
@[simp] theorem State.wf_thrs (s : State) (a hi lo v : Nat) : (s.wf a hi lo v).thrs = s.thrs := rfl
@[simp] theorem State.wf_engs (s : State) (a hi lo v : Nat) : (s.wf a hi lo v).engs = s.engs := rfl
@[simp] theorem State.wf_mirror (s : State) (a hi lo v : Nat) : (s.wf a hi lo v).mirror = s.mirror := rfl
@[simp] theorem State.wf_measTx (s : State) (a hi lo v : Nat) : (s.wf a hi lo v).measTx = s.measTx := rfl
@[simp] theorem State.wf_measNo (s : State) (a hi lo v : Nat) : (s.wf a hi lo v).measNo = s.measNo := rfl
@[simp] theorem State.wf_casks (s : State) (a hi lo v : Nat) : (s.wf a hi lo v).casks = s.casks := rfl
@[simp] theorem State.wf_tnResets (s : State) (a hi lo v : Nat) : (s.wf a hi lo v).tnResets = s.tnResets := rfl
@[simp] theorem State.wf_cans (s : State) (a hi lo v : Nat) : (s.wf a hi lo v).cans = s.cans := rfl
@[simp] theorem State.wf_lins (s : State) (a hi lo v : Nat) : (s.wf a hi lo v).lins = s.lins := rfl
@[simp] theorem State.wf_clr (s : State) (a hi lo v : Nat) : (s.wf a hi lo v).clr = s.clr := rfl
@[simp] theorem State.wf_esw (s : State) (a hi lo v : Nat) : (s.wf a hi lo v).esw = s.esw := rfl
@[simp] theorem State.wf_kst (s : State) (a hi lo v : Nat) : (s.wf a hi lo v).kst = s.kst := rfl
@[simp] theorem State.wf_cph (s : State) (a hi lo v : Nat) : (s.wf a hi lo v).cph = s.cph := rfl
@[simp] theorem State.wf_stg (s : State) (a hi lo v : Nat) : (s.wf a hi lo v).stg = s.stg := rfl
@[simp] theorem State.wf_nand (s : State) (a hi lo v : Nat) : (s.wf a hi lo v).nand = s.nand := rfl
@[simp] theorem State.wf_tnSaid (s : State) (a hi lo v : Nat) : (s.wf a hi lo v).tnSaid = s.tnSaid := rfl
@[simp] theorem State.wf_tnAborted (s : State) (a hi lo v : Nat) : (s.wf a hi lo v).tnAborted = s.tnAborted := rfl
@[simp] theorem State.wf_evs (s : State) (a hi lo v : Nat) : (s.wf a hi lo v).evs = s.evs := rfl
@[simp] theorem State.wf_brg (s : State) (a hi lo v : Nat) : (s.wf a hi lo v).brg = s.brg := rfl
@[simp] theorem State.wf_prm (s : State) (a hi lo v : Nat) : (s.wf a hi lo v).prm = s.prm := rfl
@[simp] theorem State.wf_pending (s : State) (a hi lo v : Nat) : (s.wf a hi lo v).pending = s.pending := rfl

/-! `State.wb` -/
@[simp] theorem State.wb_mem (s : State) (a i : Nat) (b : Bool) : (s.wb a i b).mem = s.mem := rfl
@[simp] theorem State.wb_eccBad (s : State) (a i : Nat) (b : Bool) : (s.wb a i b).eccBad = s.eccBad := rfl
@[simp] theorem State.wb_resp (s : State) (a i : Nat) (b : Bool) : (s.wb a i b).resp = s.resp := rfl
@[simp] theorem State.wb_reports (s : State) (a i : Nat) (b : Bool) : (s.wb a i b).reports = s.reports := rfl
@[simp] theorem State.wb_dieLogs (s : State) (a i : Nat) (b : Bool) : (s.wb a i b).dieLogs = s.dieLogs := rfl
@[simp] theorem State.wb_boundary (s : State) (a i : Nat) (b : Bool) : (s.wb a i b).boundary = s.boundary := rfl
@[simp] theorem State.wb_draining (s : State) (a i : Nat) (b : Bool) : (s.wb a i b).draining = s.draining := rfl
@[simp] theorem State.wb_free (s : State) (a i : Nat) (b : Bool) : (s.wb a i b).free = s.free := rfl
@[simp] theorem State.wb_pwr (s : State) (a i : Nat) (b : Bool) : (s.wb a i b).pwr = s.pwr := rfl
@[simp] theorem State.wb_links (s : State) (a i : Nat) (b : Bool) : (s.wb a i b).links = s.links := rfl
@[simp] theorem State.wb_isl (s : State) (a i : Nat) (b : Bool) : (s.wb a i b).isl = s.isl := rfl
@[simp] theorem State.wb_fuse (s : State) (a i : Nat) (b : Bool) : (s.wb a i b).fuse = s.fuse := rfl
@[simp] theorem State.wb_boot (s : State) (a i : Nat) (b : Bool) : (s.wb a i b).boot = s.boot := rfl
@[simp] theorem State.wb_dbg (s : State) (a i : Nat) (b : Bool) : (s.wb a i b).dbg = s.dbg := rfl
@[simp] theorem State.wb_chs (s : State) (a i : Nat) (b : Bool) : (s.wb a i b).chs = s.chs := rfl
@[simp] theorem State.wb_dies (s : State) (a i : Nat) (b : Bool) : (s.wb a i b).dies = s.dies := rfl
@[simp] theorem State.wb_lines (s : State) (a i : Nat) (b : Bool) : (s.wb a i b).lines = s.lines := rfl
@[simp] theorem State.wb_sins (s : State) (a i : Nat) (b : Bool) : (s.wb a i b).sins = s.sins := rfl
@[simp] theorem State.wb_front (s : State) (a i : Nat) (b : Bool) : (s.wb a i b).front = s.front := rfl
@[simp] theorem State.wb_dinLand (s : State) (a i : Nat) (b : Bool) : (s.wb a i b).dinLand = s.dinLand := rfl
@[simp] theorem State.wb_harts (s : State) (a i : Nat) (b : Bool) : (s.wb a i b).harts = s.harts := rfl
@[simp] theorem State.wb_msis (s : State) (a i : Nat) (b : Bool) : (s.wb a i b).msis = s.msis := rfl
@[simp] theorem State.wb_aplic (s : State) (a i : Nat) (b : Bool) : (s.wb a i b).aplic = s.aplic := rfl
@[simp] theorem State.wb_ticks (s : State) (a i : Nat) (b : Bool) : (s.wb a i b).ticks = s.ticks := rfl
@[simp] theorem State.wb_rwd (s : State) (a i : Nat) (b : Bool) : (s.wb a i b).rwd = s.rwd := rfl
@[simp] theorem State.wb_fc (s : State) (a i : Nat) (b : Bool) : (s.wb a i b).fc = s.fc := rfl
@[simp] theorem State.wb_tb (s : State) (a i : Nat) (b : Bool) : (s.wb a i b).tb = s.tb := rfl
@[simp] theorem State.wb_thrs (s : State) (a i : Nat) (b : Bool) : (s.wb a i b).thrs = s.thrs := rfl
@[simp] theorem State.wb_engs (s : State) (a i : Nat) (b : Bool) : (s.wb a i b).engs = s.engs := rfl
@[simp] theorem State.wb_mirror (s : State) (a i : Nat) (b : Bool) : (s.wb a i b).mirror = s.mirror := rfl
@[simp] theorem State.wb_measTx (s : State) (a i : Nat) (b : Bool) : (s.wb a i b).measTx = s.measTx := rfl
@[simp] theorem State.wb_measNo (s : State) (a i : Nat) (b : Bool) : (s.wb a i b).measNo = s.measNo := rfl
@[simp] theorem State.wb_casks (s : State) (a i : Nat) (b : Bool) : (s.wb a i b).casks = s.casks := rfl
@[simp] theorem State.wb_tnResets (s : State) (a i : Nat) (b : Bool) : (s.wb a i b).tnResets = s.tnResets := rfl
@[simp] theorem State.wb_cans (s : State) (a i : Nat) (b : Bool) : (s.wb a i b).cans = s.cans := rfl
@[simp] theorem State.wb_lins (s : State) (a i : Nat) (b : Bool) : (s.wb a i b).lins = s.lins := rfl
@[simp] theorem State.wb_clr (s : State) (a i : Nat) (b : Bool) : (s.wb a i b).clr = s.clr := rfl
@[simp] theorem State.wb_esw (s : State) (a i : Nat) (b : Bool) : (s.wb a i b).esw = s.esw := rfl
@[simp] theorem State.wb_kst (s : State) (a i : Nat) (b : Bool) : (s.wb a i b).kst = s.kst := rfl
@[simp] theorem State.wb_cph (s : State) (a i : Nat) (b : Bool) : (s.wb a i b).cph = s.cph := rfl
@[simp] theorem State.wb_stg (s : State) (a i : Nat) (b : Bool) : (s.wb a i b).stg = s.stg := rfl
@[simp] theorem State.wb_nand (s : State) (a i : Nat) (b : Bool) : (s.wb a i b).nand = s.nand := rfl
@[simp] theorem State.wb_tnSaid (s : State) (a i : Nat) (b : Bool) : (s.wb a i b).tnSaid = s.tnSaid := rfl
@[simp] theorem State.wb_tnAborted (s : State) (a i : Nat) (b : Bool) : (s.wb a i b).tnAborted = s.tnAborted := rfl
@[simp] theorem State.wb_evs (s : State) (a i : Nat) (b : Bool) : (s.wb a i b).evs = s.evs := rfl
@[simp] theorem State.wb_brg (s : State) (a i : Nat) (b : Bool) : (s.wb a i b).brg = s.brg := rfl
@[simp] theorem State.wb_prm (s : State) (a i : Nat) (b : Bool) : (s.wb a i b).prm = s.prm := rfl
@[simp] theorem State.wb_pending (s : State) (a i : Nat) (b : Bool) : (s.wb a i b).pending = s.pending := rfl

/-! `State.bump` -/
@[simp] theorem State.bump_mem (s : State) (a hi lo : Nat) : (s.bump a hi lo).mem = s.mem := rfl
@[simp] theorem State.bump_eccBad (s : State) (a hi lo : Nat) : (s.bump a hi lo).eccBad = s.eccBad := rfl
@[simp] theorem State.bump_resp (s : State) (a hi lo : Nat) : (s.bump a hi lo).resp = s.resp := rfl
@[simp] theorem State.bump_reports (s : State) (a hi lo : Nat) : (s.bump a hi lo).reports = s.reports := rfl
@[simp] theorem State.bump_dieLogs (s : State) (a hi lo : Nat) : (s.bump a hi lo).dieLogs = s.dieLogs := rfl
@[simp] theorem State.bump_boundary (s : State) (a hi lo : Nat) : (s.bump a hi lo).boundary = s.boundary := rfl
@[simp] theorem State.bump_draining (s : State) (a hi lo : Nat) : (s.bump a hi lo).draining = s.draining := rfl
@[simp] theorem State.bump_free (s : State) (a hi lo : Nat) : (s.bump a hi lo).free = s.free := rfl
@[simp] theorem State.bump_pwr (s : State) (a hi lo : Nat) : (s.bump a hi lo).pwr = s.pwr := rfl
@[simp] theorem State.bump_links (s : State) (a hi lo : Nat) : (s.bump a hi lo).links = s.links := rfl
@[simp] theorem State.bump_isl (s : State) (a hi lo : Nat) : (s.bump a hi lo).isl = s.isl := rfl
@[simp] theorem State.bump_fuse (s : State) (a hi lo : Nat) : (s.bump a hi lo).fuse = s.fuse := rfl
@[simp] theorem State.bump_boot (s : State) (a hi lo : Nat) : (s.bump a hi lo).boot = s.boot := rfl
@[simp] theorem State.bump_dbg (s : State) (a hi lo : Nat) : (s.bump a hi lo).dbg = s.dbg := rfl
@[simp] theorem State.bump_chs (s : State) (a hi lo : Nat) : (s.bump a hi lo).chs = s.chs := rfl
@[simp] theorem State.bump_dies (s : State) (a hi lo : Nat) : (s.bump a hi lo).dies = s.dies := rfl
@[simp] theorem State.bump_lines (s : State) (a hi lo : Nat) : (s.bump a hi lo).lines = s.lines := rfl
@[simp] theorem State.bump_sins (s : State) (a hi lo : Nat) : (s.bump a hi lo).sins = s.sins := rfl
@[simp] theorem State.bump_front (s : State) (a hi lo : Nat) : (s.bump a hi lo).front = s.front := rfl
@[simp] theorem State.bump_dinLand (s : State) (a hi lo : Nat) : (s.bump a hi lo).dinLand = s.dinLand := rfl
@[simp] theorem State.bump_harts (s : State) (a hi lo : Nat) : (s.bump a hi lo).harts = s.harts := rfl
@[simp] theorem State.bump_msis (s : State) (a hi lo : Nat) : (s.bump a hi lo).msis = s.msis := rfl
@[simp] theorem State.bump_aplic (s : State) (a hi lo : Nat) : (s.bump a hi lo).aplic = s.aplic := rfl
@[simp] theorem State.bump_ticks (s : State) (a hi lo : Nat) : (s.bump a hi lo).ticks = s.ticks := rfl
@[simp] theorem State.bump_rwd (s : State) (a hi lo : Nat) : (s.bump a hi lo).rwd = s.rwd := rfl
@[simp] theorem State.bump_fc (s : State) (a hi lo : Nat) : (s.bump a hi lo).fc = s.fc := rfl
@[simp] theorem State.bump_tb (s : State) (a hi lo : Nat) : (s.bump a hi lo).tb = s.tb := rfl
@[simp] theorem State.bump_thrs (s : State) (a hi lo : Nat) : (s.bump a hi lo).thrs = s.thrs := rfl
@[simp] theorem State.bump_engs (s : State) (a hi lo : Nat) : (s.bump a hi lo).engs = s.engs := rfl
@[simp] theorem State.bump_mirror (s : State) (a hi lo : Nat) : (s.bump a hi lo).mirror = s.mirror := rfl
@[simp] theorem State.bump_measTx (s : State) (a hi lo : Nat) : (s.bump a hi lo).measTx = s.measTx := rfl
@[simp] theorem State.bump_measNo (s : State) (a hi lo : Nat) : (s.bump a hi lo).measNo = s.measNo := rfl
@[simp] theorem State.bump_casks (s : State) (a hi lo : Nat) : (s.bump a hi lo).casks = s.casks := rfl
@[simp] theorem State.bump_tnResets (s : State) (a hi lo : Nat) : (s.bump a hi lo).tnResets = s.tnResets := rfl
@[simp] theorem State.bump_cans (s : State) (a hi lo : Nat) : (s.bump a hi lo).cans = s.cans := rfl
@[simp] theorem State.bump_lins (s : State) (a hi lo : Nat) : (s.bump a hi lo).lins = s.lins := rfl
@[simp] theorem State.bump_clr (s : State) (a hi lo : Nat) : (s.bump a hi lo).clr = s.clr := rfl
@[simp] theorem State.bump_esw (s : State) (a hi lo : Nat) : (s.bump a hi lo).esw = s.esw := rfl
@[simp] theorem State.bump_kst (s : State) (a hi lo : Nat) : (s.bump a hi lo).kst = s.kst := rfl
@[simp] theorem State.bump_cph (s : State) (a hi lo : Nat) : (s.bump a hi lo).cph = s.cph := rfl
@[simp] theorem State.bump_stg (s : State) (a hi lo : Nat) : (s.bump a hi lo).stg = s.stg := rfl
@[simp] theorem State.bump_nand (s : State) (a hi lo : Nat) : (s.bump a hi lo).nand = s.nand := rfl
@[simp] theorem State.bump_tnSaid (s : State) (a hi lo : Nat) : (s.bump a hi lo).tnSaid = s.tnSaid := rfl
@[simp] theorem State.bump_tnAborted (s : State) (a hi lo : Nat) : (s.bump a hi lo).tnAborted = s.tnAborted := rfl
@[simp] theorem State.bump_evs (s : State) (a hi lo : Nat) : (s.bump a hi lo).evs = s.evs := rfl
@[simp] theorem State.bump_brg (s : State) (a hi lo : Nat) : (s.bump a hi lo).brg = s.brg := rfl
@[simp] theorem State.bump_prm (s : State) (a hi lo : Nat) : (s.bump a hi lo).prm = s.prm := rfl
@[simp] theorem State.bump_pending (s : State) (a hi lo : Nat) : (s.bump a hi lo).pending = s.pending := rfl

/-! `State.plainWr` -/
@[simp] theorem State.plainWr_mem (s : State) (a : Nat) (v : Word) : (s.plainWr a v).mem = s.mem := rfl
@[simp] theorem State.plainWr_eccBad (s : State) (a : Nat) (v : Word) : (s.plainWr a v).eccBad = s.eccBad := rfl
@[simp] theorem State.plainWr_resp (s : State) (a : Nat) (v : Word) : (s.plainWr a v).resp = s.resp := rfl
@[simp] theorem State.plainWr_reports (s : State) (a : Nat) (v : Word) : (s.plainWr a v).reports = s.reports := rfl
@[simp] theorem State.plainWr_dieLogs (s : State) (a : Nat) (v : Word) : (s.plainWr a v).dieLogs = s.dieLogs := rfl
@[simp] theorem State.plainWr_boundary (s : State) (a : Nat) (v : Word) : (s.plainWr a v).boundary = s.boundary := rfl
@[simp] theorem State.plainWr_draining (s : State) (a : Nat) (v : Word) : (s.plainWr a v).draining = s.draining := rfl
@[simp] theorem State.plainWr_free (s : State) (a : Nat) (v : Word) : (s.plainWr a v).free = s.free := rfl
@[simp] theorem State.plainWr_pwr (s : State) (a : Nat) (v : Word) : (s.plainWr a v).pwr = s.pwr := rfl
@[simp] theorem State.plainWr_links (s : State) (a : Nat) (v : Word) : (s.plainWr a v).links = s.links := rfl
@[simp] theorem State.plainWr_isl (s : State) (a : Nat) (v : Word) : (s.plainWr a v).isl = s.isl := rfl
@[simp] theorem State.plainWr_fuse (s : State) (a : Nat) (v : Word) : (s.plainWr a v).fuse = s.fuse := rfl
@[simp] theorem State.plainWr_boot (s : State) (a : Nat) (v : Word) : (s.plainWr a v).boot = s.boot := rfl
@[simp] theorem State.plainWr_dbg (s : State) (a : Nat) (v : Word) : (s.plainWr a v).dbg = s.dbg := rfl
@[simp] theorem State.plainWr_chs (s : State) (a : Nat) (v : Word) : (s.plainWr a v).chs = s.chs := rfl
@[simp] theorem State.plainWr_dies (s : State) (a : Nat) (v : Word) : (s.plainWr a v).dies = s.dies := rfl
@[simp] theorem State.plainWr_lines (s : State) (a : Nat) (v : Word) : (s.plainWr a v).lines = s.lines := rfl
@[simp] theorem State.plainWr_sins (s : State) (a : Nat) (v : Word) : (s.plainWr a v).sins = s.sins := rfl
@[simp] theorem State.plainWr_front (s : State) (a : Nat) (v : Word) : (s.plainWr a v).front = s.front := rfl
@[simp] theorem State.plainWr_dinLand (s : State) (a : Nat) (v : Word) : (s.plainWr a v).dinLand = s.dinLand := rfl
@[simp] theorem State.plainWr_harts (s : State) (a : Nat) (v : Word) : (s.plainWr a v).harts = s.harts := rfl
@[simp] theorem State.plainWr_msis (s : State) (a : Nat) (v : Word) : (s.plainWr a v).msis = s.msis := rfl
@[simp] theorem State.plainWr_aplic (s : State) (a : Nat) (v : Word) : (s.plainWr a v).aplic = s.aplic := rfl
@[simp] theorem State.plainWr_ticks (s : State) (a : Nat) (v : Word) : (s.plainWr a v).ticks = s.ticks := rfl
@[simp] theorem State.plainWr_rwd (s : State) (a : Nat) (v : Word) : (s.plainWr a v).rwd = s.rwd := rfl
@[simp] theorem State.plainWr_fc (s : State) (a : Nat) (v : Word) : (s.plainWr a v).fc = s.fc := rfl
@[simp] theorem State.plainWr_tb (s : State) (a : Nat) (v : Word) : (s.plainWr a v).tb = s.tb := rfl
@[simp] theorem State.plainWr_thrs (s : State) (a : Nat) (v : Word) : (s.plainWr a v).thrs = s.thrs := rfl
@[simp] theorem State.plainWr_engs (s : State) (a : Nat) (v : Word) : (s.plainWr a v).engs = s.engs := rfl
@[simp] theorem State.plainWr_mirror (s : State) (a : Nat) (v : Word) : (s.plainWr a v).mirror = s.mirror := rfl
@[simp] theorem State.plainWr_measTx (s : State) (a : Nat) (v : Word) : (s.plainWr a v).measTx = s.measTx := rfl
@[simp] theorem State.plainWr_measNo (s : State) (a : Nat) (v : Word) : (s.plainWr a v).measNo = s.measNo := rfl
@[simp] theorem State.plainWr_casks (s : State) (a : Nat) (v : Word) : (s.plainWr a v).casks = s.casks := rfl
@[simp] theorem State.plainWr_tnResets (s : State) (a : Nat) (v : Word) : (s.plainWr a v).tnResets = s.tnResets := rfl
@[simp] theorem State.plainWr_cans (s : State) (a : Nat) (v : Word) : (s.plainWr a v).cans = s.cans := rfl
@[simp] theorem State.plainWr_lins (s : State) (a : Nat) (v : Word) : (s.plainWr a v).lins = s.lins := rfl
@[simp] theorem State.plainWr_clr (s : State) (a : Nat) (v : Word) : (s.plainWr a v).clr = s.clr := rfl
@[simp] theorem State.plainWr_esw (s : State) (a : Nat) (v : Word) : (s.plainWr a v).esw = s.esw := rfl
@[simp] theorem State.plainWr_kst (s : State) (a : Nat) (v : Word) : (s.plainWr a v).kst = s.kst := rfl
@[simp] theorem State.plainWr_cph (s : State) (a : Nat) (v : Word) : (s.plainWr a v).cph = s.cph := rfl
@[simp] theorem State.plainWr_stg (s : State) (a : Nat) (v : Word) : (s.plainWr a v).stg = s.stg := rfl
@[simp] theorem State.plainWr_nand (s : State) (a : Nat) (v : Word) : (s.plainWr a v).nand = s.nand := rfl
@[simp] theorem State.plainWr_tnSaid (s : State) (a : Nat) (v : Word) : (s.plainWr a v).tnSaid = s.tnSaid := rfl
@[simp] theorem State.plainWr_tnAborted (s : State) (a : Nat) (v : Word) : (s.plainWr a v).tnAborted = s.tnAborted := rfl
@[simp] theorem State.plainWr_evs (s : State) (a : Nat) (v : Word) : (s.plainWr a v).evs = s.evs := rfl
@[simp] theorem State.plainWr_brg (s : State) (a : Nat) (v : Word) : (s.plainWr a v).brg = s.brg := rfl
@[simp] theorem State.plainWr_prm (s : State) (a : Nat) (v : Word) : (s.plainWr a v).prm = s.prm := rfl
@[simp] theorem State.plainWr_pending (s : State) (a : Nat) (v : Word) : (s.plainWr a v).pending = s.pending := rfl

/-! `State.trap` -/
@[simp] theorem State.trap_regs (s : State) (h cause : Nat) (tval : DWord) (g : GuestInfo := {}) : (s.trap h cause tval g).regs = s.regs := rfl
@[simp] theorem State.trap_mem (s : State) (h cause : Nat) (tval : DWord) (g : GuestInfo := {}) : (s.trap h cause tval g).mem = s.mem := rfl
@[simp] theorem State.trap_eccBad (s : State) (h cause : Nat) (tval : DWord) (g : GuestInfo := {}) : (s.trap h cause tval g).eccBad = s.eccBad := rfl
@[simp] theorem State.trap_resp (s : State) (h cause : Nat) (tval : DWord) (g : GuestInfo := {}) : (s.trap h cause tval g).resp = s.resp := rfl
@[simp] theorem State.trap_reports (s : State) (h cause : Nat) (tval : DWord) (g : GuestInfo := {}) : (s.trap h cause tval g).reports = s.reports := rfl
@[simp] theorem State.trap_dieLogs (s : State) (h cause : Nat) (tval : DWord) (g : GuestInfo := {}) : (s.trap h cause tval g).dieLogs = s.dieLogs := rfl
@[simp] theorem State.trap_boundary (s : State) (h cause : Nat) (tval : DWord) (g : GuestInfo := {}) : (s.trap h cause tval g).boundary = s.boundary := rfl
@[simp] theorem State.trap_draining (s : State) (h cause : Nat) (tval : DWord) (g : GuestInfo := {}) : (s.trap h cause tval g).draining = s.draining := rfl
@[simp] theorem State.trap_free (s : State) (h cause : Nat) (tval : DWord) (g : GuestInfo := {}) : (s.trap h cause tval g).free = s.free := rfl
@[simp] theorem State.trap_pwr (s : State) (h cause : Nat) (tval : DWord) (g : GuestInfo := {}) : (s.trap h cause tval g).pwr = s.pwr := rfl
@[simp] theorem State.trap_links (s : State) (h cause : Nat) (tval : DWord) (g : GuestInfo := {}) : (s.trap h cause tval g).links = s.links := rfl
@[simp] theorem State.trap_isl (s : State) (h cause : Nat) (tval : DWord) (g : GuestInfo := {}) : (s.trap h cause tval g).isl = s.isl := rfl
@[simp] theorem State.trap_fuse (s : State) (h cause : Nat) (tval : DWord) (g : GuestInfo := {}) : (s.trap h cause tval g).fuse = s.fuse := rfl
@[simp] theorem State.trap_boot (s : State) (h cause : Nat) (tval : DWord) (g : GuestInfo := {}) : (s.trap h cause tval g).boot = s.boot := rfl
@[simp] theorem State.trap_dbg (s : State) (h cause : Nat) (tval : DWord) (g : GuestInfo := {}) : (s.trap h cause tval g).dbg = s.dbg := rfl
@[simp] theorem State.trap_chs (s : State) (h cause : Nat) (tval : DWord) (g : GuestInfo := {}) : (s.trap h cause tval g).chs = s.chs := rfl
@[simp] theorem State.trap_dies (s : State) (h cause : Nat) (tval : DWord) (g : GuestInfo := {}) : (s.trap h cause tval g).dies = s.dies := rfl
@[simp] theorem State.trap_lines (s : State) (h cause : Nat) (tval : DWord) (g : GuestInfo := {}) : (s.trap h cause tval g).lines = s.lines := rfl
@[simp] theorem State.trap_sins (s : State) (h cause : Nat) (tval : DWord) (g : GuestInfo := {}) : (s.trap h cause tval g).sins = s.sins := rfl
@[simp] theorem State.trap_front (s : State) (h cause : Nat) (tval : DWord) (g : GuestInfo := {}) : (s.trap h cause tval g).front = s.front := rfl
@[simp] theorem State.trap_dinLand (s : State) (h cause : Nat) (tval : DWord) (g : GuestInfo := {}) : (s.trap h cause tval g).dinLand = s.dinLand := rfl
@[simp] theorem State.trap_msis (s : State) (h cause : Nat) (tval : DWord) (g : GuestInfo := {}) : (s.trap h cause tval g).msis = s.msis := rfl
@[simp] theorem State.trap_aplic (s : State) (h cause : Nat) (tval : DWord) (g : GuestInfo := {}) : (s.trap h cause tval g).aplic = s.aplic := rfl
@[simp] theorem State.trap_ticks (s : State) (h cause : Nat) (tval : DWord) (g : GuestInfo := {}) : (s.trap h cause tval g).ticks = s.ticks := rfl
@[simp] theorem State.trap_rwd (s : State) (h cause : Nat) (tval : DWord) (g : GuestInfo := {}) : (s.trap h cause tval g).rwd = s.rwd := rfl
@[simp] theorem State.trap_fc (s : State) (h cause : Nat) (tval : DWord) (g : GuestInfo := {}) : (s.trap h cause tval g).fc = s.fc := rfl
@[simp] theorem State.trap_tb (s : State) (h cause : Nat) (tval : DWord) (g : GuestInfo := {}) : (s.trap h cause tval g).tb = s.tb := rfl
@[simp] theorem State.trap_thrs (s : State) (h cause : Nat) (tval : DWord) (g : GuestInfo := {}) : (s.trap h cause tval g).thrs = s.thrs := rfl
@[simp] theorem State.trap_engs (s : State) (h cause : Nat) (tval : DWord) (g : GuestInfo := {}) : (s.trap h cause tval g).engs = s.engs := rfl
@[simp] theorem State.trap_mirror (s : State) (h cause : Nat) (tval : DWord) (g : GuestInfo := {}) : (s.trap h cause tval g).mirror = s.mirror := rfl
@[simp] theorem State.trap_measTx (s : State) (h cause : Nat) (tval : DWord) (g : GuestInfo := {}) : (s.trap h cause tval g).measTx = s.measTx := rfl
@[simp] theorem State.trap_measNo (s : State) (h cause : Nat) (tval : DWord) (g : GuestInfo := {}) : (s.trap h cause tval g).measNo = s.measNo := rfl
@[simp] theorem State.trap_casks (s : State) (h cause : Nat) (tval : DWord) (g : GuestInfo := {}) : (s.trap h cause tval g).casks = s.casks := rfl
@[simp] theorem State.trap_tnResets (s : State) (h cause : Nat) (tval : DWord) (g : GuestInfo := {}) : (s.trap h cause tval g).tnResets = s.tnResets := rfl
@[simp] theorem State.trap_cans (s : State) (h cause : Nat) (tval : DWord) (g : GuestInfo := {}) : (s.trap h cause tval g).cans = s.cans := rfl
@[simp] theorem State.trap_lins (s : State) (h cause : Nat) (tval : DWord) (g : GuestInfo := {}) : (s.trap h cause tval g).lins = s.lins := rfl
@[simp] theorem State.trap_clr (s : State) (h cause : Nat) (tval : DWord) (g : GuestInfo := {}) : (s.trap h cause tval g).clr = s.clr := rfl
@[simp] theorem State.trap_esw (s : State) (h cause : Nat) (tval : DWord) (g : GuestInfo := {}) : (s.trap h cause tval g).esw = s.esw := rfl
@[simp] theorem State.trap_kst (s : State) (h cause : Nat) (tval : DWord) (g : GuestInfo := {}) : (s.trap h cause tval g).kst = s.kst := rfl
@[simp] theorem State.trap_cph (s : State) (h cause : Nat) (tval : DWord) (g : GuestInfo := {}) : (s.trap h cause tval g).cph = s.cph := rfl
@[simp] theorem State.trap_stg (s : State) (h cause : Nat) (tval : DWord) (g : GuestInfo := {}) : (s.trap h cause tval g).stg = s.stg := rfl
@[simp] theorem State.trap_nand (s : State) (h cause : Nat) (tval : DWord) (g : GuestInfo := {}) : (s.trap h cause tval g).nand = s.nand := rfl
@[simp] theorem State.trap_tnSaid (s : State) (h cause : Nat) (tval : DWord) (g : GuestInfo := {}) : (s.trap h cause tval g).tnSaid = s.tnSaid := rfl
@[simp] theorem State.trap_tnAborted (s : State) (h cause : Nat) (tval : DWord) (g : GuestInfo := {}) : (s.trap h cause tval g).tnAborted = s.tnAborted := rfl
@[simp] theorem State.trap_evs (s : State) (h cause : Nat) (tval : DWord) (g : GuestInfo := {}) : (s.trap h cause tval g).evs = s.evs := rfl
@[simp] theorem State.trap_brg (s : State) (h cause : Nat) (tval : DWord) (g : GuestInfo := {}) : (s.trap h cause tval g).brg = s.brg := rfl
@[simp] theorem State.trap_prm (s : State) (h cause : Nat) (tval : DWord) (g : GuestInfo := {}) : (s.trap h cause tval g).prm = s.prm := rfl
@[simp] theorem State.trap_pending (s : State) (h cause : Nat) (tval : DWord) (g : GuestInfo := {}) : (s.trap h cause tval g).pending = s.pending := rfl

end Sys2Proof.Machine
end

