-- ==== Sys2Proof/Laws/Ops.lean ====
section
/-!
SUPPORT. What the shared operations do, one lemma each: reports, completion, the front checks of an access, bit fields.
-/

namespace Sys2Proof.Machine

open Sys2Proof.Safety

/-! ### Reports -/

/-- A report of the logic die joins those in flight, and nothing else changes. -/
theorem State.report_eq (s : State) (id c0 c1 : Nat) (tid : BitVec 8) (w : Bool) :
    s.report id c0 c1 tid w
      = { s with reports := s.reports ++ [{ id, ctx0 := wd c0, ctx1 := wd c1, tid, w, time := s.now }] } := rfl

theorem State.reportAt_eq (s : State) (id addr : Nat) (t : Tags) :
    s.reportAt id addr t
      = { s with reports := s.reports
            ++ [{ id, ctx0 := wd addr, ctx1 := wd (addr >>> 32), tid := t.tid, w := t.w, time := s.now }] } := rfl

/-- A report of any die touches only the reports in flight and the dies' buffers. -/
theorem State.send_frame (s : State) (r : Report) :
    s.send r = { s with reports := (s.send r).reports, dieLogs := (s.send r).dieLogs } := by
  unfold send
  split
  · rfl
  · split <;> rfl

theorem State.deny_eq (s : State) (t : Tags) (addr : Nat) : s.deny t addr = (.access, s.reportAt 0x0003 addr t) := rfl

/-! ### Completion -/

/-- An access that no hart issued is answered, and nothing else happens. -/
theorem State.finish_noHart (s : State) (a : Acc) (addr : Nat) (st : Status) (data : DWord) (load : Bool)
    (h : ∀ n, a.who ≠ .hart n) : s.finish a addr st data load = { s with resp := ⟨st, data⟩ } := by
  unfold finish
  cases hw : a.who with
  | hart n => exact absurd hw (h n)
  | _ => rfl

/-- An access that completes with DONE for a hart that awaits none is answered, and nothing else happens. -/
theorem State.finish_done (s : State) (a : Acc) (addr : Nat) (data : DWord) (load : Bool)
    (h : ∀ n, a.who = .hart n → (s.hart n).await = none) :
    s.finish a addr .done data load = { s with resp := ⟨.done, data⟩ } := by
  unfold finish
  cases hw : a.who with
  | hart n =>
    have hn : (({ s with resp := ⟨.done, data⟩ } : State).hart n).await = none := h n hw
    simp [hn]
  | _ => rfl

/-- The end of a single step touches only the hart, FC's registers and the reports in flight. -/
theorem State.stepEnd_frame (s : State) (h : Nat) :
    s.stepEnd h = { s with harts := (s.stepEnd h).harts, regs := (s.stepEnd h).regs, reports := (s.stepEnd h).reports } := by
  unfold stepEnd debugEnter
  split
  · dsimp only
    split <;> rfl
  · rfl

/-- A completion touches only the answer, the hart that issued the access, the registers of FC that capture it, and the
reports in flight where it ends a single step. -/
theorem State.finish_frame (s : State) (a : Acc) (addr : Nat) (st : Status) (data : DWord) (load : Bool) :
    s.finish a addr st data load = { s with
      resp := ⟨st, data⟩
      harts := (s.finish a addr st data load).harts
      regs := (s.finish a addr st data load).regs
      reports := (s.finish a addr st data load).reports } := by
  unfold finish
  cases hw : a.who with
  | hart n =>
    dsimp only
    split
    · rfl
    · rw [stepEnd_frame]; rfl
    · rfl
    · rw [stepEnd_frame]; rfl
  | _ => rfl

@[simp] theorem State.finish_mem (s : State) (a : Acc) (addr : Nat) (st : Status) (data : DWord) (load : Bool) :
    (s.finish a addr st data load).mem = s.mem := by rw [finish_frame]

@[simp] theorem State.finish_fuse (s : State) (a : Acc) (addr : Nat) (st : Status) (data : DWord) (load : Bool) :
    (s.finish a addr st data load).fuse = s.fuse := by rw [finish_frame]

@[simp] theorem State.finish_pending (s : State) (a : Acc) (addr : Nat) (st : Status) (data : DWord) (load : Bool) :
    (s.finish a addr st data load).pending = s.pending := by rw [finish_frame]

/-! ### The front checks of an access -/

theorem State.cfgWrite_off (s : State) (a : Acc) (addr : Nat) (cmd : Instr) (f : Tags → State → Ans)
    (h : s.logicOn = false) : s.cfgWrite a addr cmd f = .next s := by simp [cfgWrite, h]

/-- A write that reaches its target is answered by the block's own rule. -/
theorem State.cfgWrite_reaches (s : State) (a : Acc) (addr : Nat) (cmd : Instr) (f : Tags → State → Ans)
    (h : Reaches s a addr) :
    s.cfgWrite a addr cmd f = .next ((f (s.tagsOf a.who) s).2.finish a addr (f (s.tagsOf a.who) s).1) := by
  obtain ⟨h1, h2, h3, h4, -⟩ := h
  rcases h4 with h4 | h4 <;> simp [cfgWrite, h1, h2, h3, h4]

/-- A page held against the Table world answers ACCESS with a report, or ABORTED as the block does (R510, R580). -/
theorem State.heldPage_cases (s : State) (t : Tags) (addr : Nat) (r : Ans) :
    s.heldPage t addr r = r ∨ s.heldPage t addr r = (.access, s.reportAt 0x0003 addr t) := by
  unfold heldPage
  split
  · exact .inl rfl
  · exact .inr rfl

/-- A read that reaches its target is answered by the block's own rule. -/
theorem State.cfgRead_reaches (s : State) (a : Acc) (addr : Nat) (cmd : Instr) (f : Tags → State → Status × DWord × State)
    (h : Reaches s a addr) :
    s.cfgRead a addr cmd f = .next ((f (s.tagsOf a.who) s).2.2.finish a addr (f (s.tagsOf a.who) s).1
      (f (s.tagsOf a.who) s).2.1 true) := by
  obtain ⟨h1, h2, h3, h4, -⟩ := h
  rcases h4 with h4 | h4 <;> simp [cfgRead, h1, h2, h3, h4]

/-- Everything a write can do: nothing while the logic die is held, wait, be denied with a report, or the block's rule. -/
theorem State.cfgWrite_cases (s : State) (a : Acc) (addr : Nat) (cmd : Instr) (f : Tags → State → Ans) :
    s.cfgWrite a addr cmd f = .next s
    ∨ s.cfgWrite a addr cmd f = .next (s.park (islandOf addr) cmd (.access a addr false))
    ∨ (∃ id, s.cfgWrite a addr cmd f = .next ((s.reportAt id addr (s.tagsOf a.who)).finish a addr .access))
    ∨ s.cfgWrite a addr cmd f = .next ((f (s.tagsOf a.who) s).2.finish a addr (f (s.tagsOf a.who) s).1) := by
  unfold cfgWrite
  split
  · exact .inl rfl
  · split
    · exact .inr (.inl rfl)
    · dsimp only
      split
      · exact .inr (.inr (.inl ⟨_, rfl⟩))
      · split
        · rcases s.heldPage_cases (s.tagsOf a.who) addr (f (s.tagsOf a.who) s) with h | h
          · exact .inr (.inr (.inr (by rw [h])))
          · exact .inr (.inr (.inl ⟨_, by rw [h]⟩))
        · exact .inr (.inr (.inr rfl))

/-- Everything a read can do. -/
theorem State.cfgRead_cases (s : State) (a : Acc) (addr : Nat) (cmd : Instr) (f : Tags → State → Status × DWord × State) :
    s.cfgRead a addr cmd f = .next s
    ∨ s.cfgRead a addr cmd f = .next (s.park (islandOf addr) cmd (.access a addr true))
    ∨ (∃ id, s.cfgRead a addr cmd f = .next ((s.reportAt id addr (s.tagsOf a.who)).finish a addr .access 0 true))
    ∨ s.cfgRead a addr cmd f = .next ((f (s.tagsOf a.who) s).2.2.finish a addr (f (s.tagsOf a.who) s).1
        (f (s.tagsOf a.who) s).2.1 true) := by
  unfold cfgRead
  split
  · exact .inl rfl
  · split
    · exact .inr (.inl rfl)
    · dsimp only
      split
      · exact .inr (.inr (.inl ⟨_, rfl⟩))
      · split
        · exact .inr (.inr (.inl ⟨_, rfl⟩))
        · exact .inr (.inr (.inr rfl))

/-! ### Bit fields -/

/-- Bit `i` after a field is replaced: the new value's bit inside the field, the old word's outside it. -/
theorem bit_setFld {n : Nat} (w : BitVec n) (hi lo v i : Nat) (h : lo ≤ hi + 1) :
    bit (setFld w hi lo v) i = if lo ≤ i ∧ i ≤ hi then decide (i < n) && v.testBit (i - lo) else bit w i := by
  unfold bit setFld
  simp only [BitVec.getLsbD_or, BitVec.getLsbD_and, BitVec.getLsbD_not, BitVec.getLsbD_ofNat, Nat.testBit_shiftLeft,
    Nat.testBit_two_pow_sub_one]
  by_cases hn : i < n
  · by_cases hl : lo ≤ i
    · by_cases hh : i ≤ hi
      · simp [hn, hl, hh, show i - lo < hi + 1 - lo by omega]
      · simp [hn, hl, hh, show ¬ i - lo < hi + 1 - lo by omega]
    · simp [hn, hl]
  · simp [hn, BitVec.getLsbD_of_ge w i (by omega)]

theorem bit_setFld_ne {n : Nat} (w : BitVec n) (hi lo v i : Nat) (h : lo ≤ hi + 1) (hi' : i < lo ∨ hi < i) :
    bit (setFld w hi lo v) i = bit w i := by
  rw [bit_setFld _ _ _ _ _ h, if_neg (by omega)]

theorem bit_setBit {n : Nat} (w : BitVec n) (k i : Nat) (b : Bool) :
    bit (setBit w k b) i = if i = k then decide (i < n) && b else bit w i := by
  rw [setBit, bit_setFld _ _ _ _ _ (by omega)]
  by_cases h : i = k
  · subst h
    cases b <;> simp
  · rw [if_neg (by omega), if_neg h]

end Sys2Proof.Machine
end

