-- ==== Sys2Proof/Tests/Slice0.lean ====
section
/-!
SUPPORT. Small tests: what `WellFormed` refuses, and one step each on small states, against the spec's own worked examples.
-/

namespace Sys2Proof.Tests

open Sys2Proof.Machine Sys2Proof.Safety Sys2Proof.Laws

-- One theorem after the other: side by side they ask for more memory than a check has.
set_option Elab.async false

/-- The command answers a next state of which `p` is true. -/
def gives (c : Instr) (s : State) (p : State → Bool) : Bool :=
  match exec c s with
  | .next t => p t
  | _ => false

/-! ### Commands that no sender forms -/

/-- A frame of `n` bytes in format `kind`. -/
def wFr (kind : Fin 4) (n : Nat) : Frame := { kind, data := List.replicate n 0 }

theorem test_wf_access : Instr.wf (.registerWrite mgr 0x4005000C 3 0) = false ∧ Instr.wf (.registerWrite mgr 0x4005000C 4 0) := by
  decide
theorem test_wf_window : Instr.wf (.engineMemWindowWrite mgr 0x40200000 5 0) = false
    ∧ Instr.wf (.engineMemWindowWrite mgr 0x40200000 4 0) := by decide
theorem test_wf_bridge : Instr.wf (.bridgePostedWrite mgr 0x8001140C 6 3) = false
    ∧ Instr.wf (.bridgeNonpostedAccess mgr false 0x8001140C 0 3) = false
    ∧ Instr.wf (.bridgePostedWrite mgr 0x8001140C 4 3) := by decide
theorem test_wf_hart : Instr.wf (.hartInstruction 2 { op := .ecall, compressed := true }) = false
    ∧ Instr.wf (.hartInstruction 2 { op := .ecall }) := by decide
theorem test_wf_dmi : Instr.wf (.dmiAccess (.sbRead 0 2 false)) = false ∧ Instr.wf (.dmiAccess (.sbRead 0 8 false)) := by decide
theorem test_wf_link : Instr.wf (.linkRetrain 0 3) = false ∧ Instr.wf (.linkRetrain 0 1) := by decide
theorem test_wf_trip : Instr.wf (.ocTrip 9 [2]) = false ∧ Instr.wf (.ocTrip 9 [3, 5]) := by decide
theorem test_wf_sweeper : Instr.wf (.sweeperPass 5) = false ∧ Instr.wf (.sweeperPass 6) := by decide
theorem test_wf_can : Instr.wf (.canFrameReceive 4 (wFr 1 9)) = false ∧ Instr.wf (.canFrameReceive 4 (wFr 2 65)) = false
    ∧ Instr.wf (.canFrameReceive 4 (wFr 3 0)) = false ∧ Instr.wf (.canFrameReceive 4 (wFr 0 1)) = false
    ∧ Instr.wf (.canFrameReceive 4 (wFr 1 8)) := by decide
theorem test_wf_lin : Instr.wf (.linResponseReceive 2 (List.replicate 9 0) 0) = false
    ∧ Instr.wf (.linResponseReceive 2 (List.replicate 8 0) 0) := by decide

/-- The table gives its rows no bits: no word spells a command. -/
theorem test_no_words : decodeTableWord 32 0 = none ∧ State.reset.withFetchWord 32 0 = State.reset := by decide

/-! ### Bits and checks -/

/-- The CRC-32 of R5 over "123456789": the check value of that polynomial. -/
theorem test_crc32 : crc32 ((List.range 9).map fun i => BitVec.ofNat 8 (0x31 + i)) = 0xCBF43926 := by decide +kernel

/-- The example of R4: an instant 512 ns ahead lies in the future though it is numerically smaller. -/
theorem test_future : future 0x00000100 0xFFFFFF00 = true ∧ future 0xFFFFFF00 0x00000100 = false := by decide

/-- The S-box, the column mix and the first expanded word of FIPS 197's own examples (5.1.1, 5.1.3, A.1). -/
theorem test_aes : sbox 0x53 = 0xED ∧ invSbox 0xED = 0x53
    ∧ (mixCols [2, 3, 1, 1] [0xDB, 0x13, 0x53, 0x45]).take 4 = [0x8E, 0x4D, 0xA1, 0xBC]
    ∧ (aesWords 4 5 [[0x2B, 0x7E, 0x15, 0x16], [0x28, 0xAE, 0xD2, 0xA6], [0xAB, 0xF7, 0x15, 0x88],
      [0x09, 0xCF, 0x4F, 0x3C]]).getD 4 [] = [0xA0, 0xFA, 0xFE, 0x17] := by decide +kernel

/-! ### The heater thread's words (the example of 07_engine_instructions.md) -/

/-- Thread 2 of engine 3 at the word `w`, its w8 and w10 as the heater thread has them. -/
def wHeat (w : Word) : State := ((wThr w 0 0).setQreg 3 2 8 0x100).setQreg 3 2 10 0x05F5E100

theorem test_ldw : gives (.ldw 3 2 10 0 0x1000) ((wHeat 0x6A801000).stLE (dmA 3 0x1000) 4 0x05F5E100) (fun t =>
    t.qreg 3 2 10 == 0x05F5E100 && t.qpc 3 2 == 1) := by decide +kernel
theorem test_add : gives (.add 3 2 9 0 0) (wHeat 0x02400000) (fun t => t.qreg 3 2 9 == 0 && t.qpc 3 2 == 1) := by decide +kernel
/-- The word is `wait w1, w0, w8`. -/
theorem test_wait : ((wHeat 0xE0420001).issue 3 2 (qA 0x38 1 0 8 1) fun s => s.setQreg 3 2 1 7).qreg 3 2 1 = 7 := by decide +kernel
theorem test_andi : gives (.andi 3 2 2 2 0xFFFF) ((wHeat 0x4488FFFF).setQreg 3 2 2 0x12345678) (fun t =>
    t.qreg 3 2 2 == 0x5678 && t.qpc 3 2 == 1) := by decide +kernel
/-- The Q15 product of the example of R279 in its word (op 0x08, d 3, a 1, b 2, sub 3, sh 15), and the clamped one. -/
theorem test_mulsh : gives (.mulsh 3 2 3 1 2 15) (wThr 0x20C480F3 0x6000 0x5000) (fun t =>
    t.thr 3 2 == { held := some (.result [(3, 0x3C00)] (t.flags 3 2).word) } || t.qreg 3 2 3 == 0x3C00) := by decide +kernel
theorem test_mulsh_clamp : gives (.mulsh 3 2 3 1 2 0) (wThr 0x20C48003 0x7FFFFFFF 0x10000) (fun t =>
    t.qreg 3 2 3 == 0x7FFFFFFF && (t.flags 3 2).v && (t.flags 3 2).q) := by decide +kernel

/-- `bfxs w5, w4, 13, 12, be` on the bytes 12 AB CD (the example of R283). -/
theorem test_bfxs : gives (.bfxs 3 2 5 4 13 11 true)
    (((wHeat 0x7953580D).setQreg 3 2 4 0x700).stBytes (dmA 3 0x700) [0x12, 0xAB, 0xCD]) (fun t =>
    t.qreg 3 2 5 == 0xFFFFFAF3) := by decide +kernel

/-- The same bytes in the le order (the example of R283). -/
theorem test_bfx_le : bfRead (fun o => byteAt [0x12, 0xAB, 0xCD] o) false 12 12 = 0xCDA := by decide +kernel

/-- A reserved op faults the thread (R264). -/
theorem test_illegal : gives (.illegalInstruction 3 2) (wThr 0xFC000000 0 0) (fun t => t.thState 3 2 == 4) := by decide +kernel

/-! ### Worlds (the example of R577) -/

/-- The fill line and labels of the example. -/
def wLabels : State :=
  ((((wOn.wr (wcuBase + 0x10) 0x40).wr (wcuBase + 0x8000) 0x20).wr (wcuBase + 0x8140) 1).wr wcuBase 1)

theorem test_labels : wLabels.mayRead ⟨5, false⟩ 0x10002040 4 = true ∧ wLabels.mayRead ⟨5, false⟩ 0x10003000 4 = false
    ∧ wLabels.mayWrite ⟨5, false⟩ 0x10500010 4 = false ∧ wLabels.mayRead ⟨0, true⟩ 0x10500010 4 = true := by decide +kernel

/-! ### LIN (the example of R391) -/

theorem test_lin : linPid 0x21 = 0x61 ∧ linChecksum false 0x61 [0xC3, 0x05] = 0xD5 ∧ linChecksum false 0x61 [0xFF, 0x0F] = 0x8F := by
  decide

/-! ### Casks (the example of R497) -/

/-- Cask 40 after step 4 of the example: five items appended, three taken, MARK at 0. -/
def wCask : State :=
  (((wOn.wr (ckA 40 4) 0x80000008).wr (ckA 40 0xC) 8).wr (ckA 40 0x10) 0x00050003).wr (ckA 40 0x18) 0x80000000

theorem test_rel : (wCask.ckDoRelease 40 2).1 = .done ∧ (wCask.ckDoRelease 40 2).2.ckRel 40 = 2
    ∧ (wCask.ckDoRelease 40 2).2.ckMarked 40 = false ∧ (wCask.ckDoRelease 40 2).2.ckHeld 40 = 3 := by decide +kernel
theorem test_rewind : ((wCask.ckDoRelease 40 2).2.ckDoRewind 40).1 = .markLost
    ∧ ((wCask.ckDoRelease 40 2).2.ckDoRelease 40 2).1 = .length ∧ (wCask.ckDoRewind 40).2.ckRd 40 = 0 := by decide +kernel

/-! ### The anti-rollback floor (the example of R111) -/

theorem test_floor : (({ wOn with fuse := { floor := 1 } } : State).putFloorCopy 0 1 0x0412).floor = 0x0412
    ∧ ({ wOn with fuse := { floor := 2 } } : State).floor = 0x0800 := by decide +kernel

/-! ### Bridges (the example of R537) -/

/-- The record of a posted write of tenant 5 to CH20 through window 3 that P0 has refused. -/
theorem test_record : (wOn.brFail 0 3 0x1140C ⟨5, false⟩ .access).getBrg 0 0x10 = 0x0001140C
    ∧ (wOn.brFail 0 3 0x1140C ⟨5, false⟩ .access).getBrg 0 0x14 = 0x83200500
    ∧ (wOn.brFail 0 3 0x1140C ⟨5, false⟩ .access).rb (winA 0 3 0) 28 = true
    ∧ ((wOn.wr (winA 0 3 8) 0x0028050A).brFail 0 3 0x1140C ⟨5, false⟩ .access).msis = [⟨2, 2, 40⟩] := by decide +kernel

/-! ### Second pressing (the example of R567) -/

theorem test_mirror : mirrored 0xF0 = 0x0F00000000000000 ∧ mirrored 0x10 = 0x0800000000000000
    ∧ mirrored 0x100 = 0x0080000000000000 := by decide +kernel

/-! ### The time base (the example of 12_time.md) -/

theorem test_tb_inc : gives (.tbIncWrite mgr 0x1FFFE6D6) wOn (fun t => t.rd (tbA 8) == 0x1FFFE6D6 && t.resp.status == .done) := by
  decide +kernel
theorem test_tb_step : gives (.tbStepWrite ten 0xFFFFFA24) wOn (fun t => t.resp.status == .access && t.reports.length == 1) := by
  decide +kernel

/-! ### Escalation (the example of 20_faults.md) -/

theorem test_escalation : gives (.escalationCommit mgr 0 0xA0008004) { wOn with fc := { esc := [(0, { staged := 0x03002710 })] } } (fun t =>
    t.rd (escA 0 0) == 0xA0008004 && t.resp.status == .done) := by decide +kernel

/-! ### Channels (the examples of 04_load_switching.md) -/

theorem test_ch_oc : gives (.chCfgWrite mgr 6 0x0000000A) (wChOwned 6 0 false) (fun t =>
    t.rd (chA 6 0x10) == 0xA && t.resp.status == .done) := by decide +kernel

/-! ### Witnesses of statements that need more than an evaluation -/

/-- The 64 header bytes of a key message for slot 20: operation `op`, a key of `len` bytes with attributes `attr`. -/
def wKmHead (op len attr : Nat) : List Byte :=
  leBytes 4 0x96404B55 ++ leBytes 2 1 ++ [BitVec.ofNat 8 op, 20] ++ leBytes 16 1 ++ leBytes 4 1
    ++ [0, if op = 1 then 21 else 0] ++ leBytes 2 0 ++ leBytes 4 attr ++ [BitVec.ofNat 8 len, 0, 0, 0]
    ++ List.replicate 12 (if op = 1 then 1 else 0) ++ leBytes 4 0x5A170C03 ++ leBytes 4 0x305 ++ leBytes 4 0

/-- The plaintext of a 16-byte key in its four blocks. -/
def wPlain : List (List Byte) := [List.replicate 16 9, List.replicate 16 0, List.replicate 16 0, List.replicate 16 0]

/-- Its seal under the transport key in slot 21. -/
def wSeal : List Byte × List Byte :=
  gcmSeal (List.replicate 32 7) (slice (wKmHead 1 16 1) 0x28 12) (wKmHead 1 16 1) wPlain.flatten

/-- A whole message: header, sealed key and tag. -/
def wKm (op len attr : Nat) (sealed tag : List Byte) : List Byte := wKmHead op len attr ++ (sealed ++ tag)

/-- The module to which a message comes, at 0x1000_0000. -/
def wKmTo : State :=
  { (((wOn.wr (kstBase + 8) 0x10000000).wr (slA 21 4) 0x280).wr (slA 21 8) 1).setSlot 21 { key := List.replicate 32 7 } with
    fuse := { unitId := 1, anchors := [some (sha384 (List.replicate 2048 0)), none, none, none] } }
def wWith (m : List Byte) : State := wKmTo.stBytes 0x10000000 m

theorem wKey_length (x : List Byte) : (aesEnc (List.replicate 32 7) x).length = 16 := by
  have h : ((aesKeys (List.replicate 32 7)).getD ((aesKeys (List.replicate 32 7)).length - 1) []).length = 16 := by
    decide +kernel
  simp only [aesEnc, xorB, shiftRows, List.length_zipWith, List.length_map, List.length_range, h]
  rfl

theorem wSeal_length : wSeal.1.length = 64 ∧ wSeal.2.length = 16 :=
  gcmSeal_length _ _ _ wKey_length wPlain (by decide)

/-- The module with the INSTALL message, and with an ERASE message. -/
def wInstall : State := wWith (wKm 1 16 1 wSeal.1 wSeal.2)
def wErase : State := wWith (wKm 2 0 0 (List.replicate 64 0) (List.replicate 16 0))

theorem wWith_eq (m : List Byte) : wWith m = { wKmTo with mem := (wWith m).mem } := State.stBytes_mem _ _ _

theorem wWith_addr (m : List Byte) : (wWith m).kstAddr = 0x10000000 := by
  rw [wWith_eq]
  show wKmTo.kstAddr = _
  decide +kernel

theorem wKm_head (op len attr : Nat) (c g : List Byte) (hh : (wKmHead op len attr).length = 64) (o n : Nat) (h : o + n ≤ 64) :
    imgBytes ((wWith (wKm op len attr c g)).img (wWith (wKm op len attr c g)).kstAddr) o n
      = slice (wKmHead op len attr) o n := by
  rw [wWith_addr, wWith, imgBytes_stBytes _ _ _ _ _ (by simp [wKm, hh]; omega)]
  exact slice_front _ _ _ _ (by omega)

theorem wKm_past (op len attr : Nat) (c g : List Byte) (hh : (wKmHead op len attr).length = 64) (hc : c.length + g.length = 80)
    (o n : Nat) (h : 0x90 ≤ o) :
    imgBytes ((wWith (wKm op len attr c g)).img (wWith (wKm op len attr c g)).kstAddr) o n = List.replicate n 0 := by
  rw [wWith_addr, wWith]
  exact imgBytes_past _ _ _ _ _ (by simp [wKm, hh]; omega) rfl

theorem wKm_anchor (op len attr : Nat) (c g : List Byte) (hh : (wKmHead op len attr).length = 64)
    (hc : c.length + g.length = 80) :
    (wWith (wKm op len attr c g)).fuse.anchors.getD 0 none = some (sha384 (imgBytes
      ((wWith (wKm op len attr c g)).img (wWith (wKm op len attr c g)).kstAddr) 0x90 (96 + 1952))) := by
  rw [wKm_past _ _ _ _ _ hh hc _ _ (by omega), wWith_eq]
  rfl

theorem wKm_field (op len attr : Nat) (c g : List Byte) (hh : (wKmHead op len attr).length = 64) (o n : Nat) (h : o + n ≤ 64) :
    imgLE ((wWith (wKm op len attr c g)).img (wWith (wKm op len attr c g)).kstAddr) o n
      = leNat (slice (wKmHead op len attr) o n) := congrArg leNat (wKm_head op len attr c g hh o n h)

theorem wKm_tail (op len attr : Nat) (c g : List Byte) (hh : (wKmHead op len attr).length = 64) (hc : c.length + g.length = 80)
    (o n : Nat) (h : 0x90 ≤ o) :
    imgLE ((wWith (wKm op len attr c g)).img (wWith (wKm op len attr c g)).kstAddr) o n = leNat (List.replicate n 0) :=
  congrArg leNat (wKm_past op len attr c g hh hc o n h)

theorem wWith_fuse (m : List Byte) : (wWith m).fuse = wKmTo.fuse := by rw [wWith_eq]
theorem wWith_rd (m : List Byte) (a : Nat) : (wWith m).rd a = wKmTo.rd a := by rw [wWith_eq]; rfl
theorem wWith_slot (m : List Byte) (n : Nat) : (wWith m).slot n = wKmTo.slot n := by rw [wWith_eq]; rfl
theorem wWith_ready (m : List Byte) : Reaches (wWith m) mgr kstBase ∧ Manager (wWith m) mgr ∧ (wWith m).rb (kstBase + 0x10) 31 = false
    ∧ (wWith m).anyBad 0x10000000 5600 = false := by
  rw [wWith_eq]
  exact (by decide +kernel : Reaches wKmTo mgr kstBase ∧ Manager wKmTo mgr ∧ wKmTo.rb (kstBase + 0x10) 31 = false
    ∧ wKmTo.anyBad 0x10000000 5600 = false)

/-- States and operands that meet the hypotheses of the clause of `Obligations.KeyStore` about accepted ERASE messages. -/
theorem meets_KeyStore_erase :
    ∃ (s : State) (a : Acc) (x : Nat), Reaches s a kstBase ∧ Manager s a ∧ s.rb (kstBase + 0x10) 31 = false ∧ sramSpan
      s.kstAddr 5600 = true ∧ s.anyBad s.kstAddr 5600 = false ∧ msgHeader (s.img s.kstAddr) = true ∧ imgLE (s.img s.kstAddr)
      8 16 = s.fuse.unitId.toNat ∧ imgLE (s.img s.kstAddr) 8 16 ≠ 0 ∧ imgLE (s.img s.kstAddr) 7 1 = x ∧ s.slState x ≠ 4 ∧
      imgLE (s.img s.kstAddr) 0x1C 1 < 4 ∧ s.fuse.revoked.getD (imgLE (s.img s.kstAddr) 0x1C 1) true = false ∧
      s.fuse.anchors.getD (imgLE (s.img s.kstAddr) 0x1C 1) none = some (sha384 (imgBytes (s.img s.kstAddr) 0x90 (96 +
      1952))) ∧ (s.rd (slA x 0x10)).toNat < imgLE (s.img s.kstAddr) 0x18 4 ∧ s.rd (slA x 0x10) ≠ 0xFFFFFFFF ∧ imgLE (s.img
      s.kstAddr) 6 1 = 2 := by
  have hh : (wKmHead 2 0 0).length = 64 := by decide
  have hf := wKm_field 2 0 0 (List.replicate 64 0) (List.replicate 16 0) hh
  have ht := wKm_tail 2 0 0 (List.replicate 64 0) (List.replicate 16 0) hh (by decide)
  have ha := wKm_anchor 2 0 0 (List.replicate 64 0) (List.replicate 16 0) hh (by decide)
  have hz : imgBytes (wErase.img wErase.kstAddr) 0x40 80 = List.replicate 80 0 := by
    rw [wErase, wWith_addr, wWith, imgBytes_stBytes _ _ _ _ _ (by simp [wKm, hh])]
    decide +kernel
  obtain ⟨h1, h2, h3, h4⟩ := wWith_ready (wKm 2 0 0 (List.replicate 64 0) (List.replicate 16 0))
  refine ⟨wErase, mgr, 20, h1, h2, h3, ?_, ?_, ?_, ?_, ?_, ?_, ?_, ?_, ?_, ?_, ?_, ?_, ?_⟩
  · rw [wErase, wWith_addr]; decide
  · rw [wErase, wWith_addr]; exact h4
  · unfold msgHeader
    rw [hz]
    unfold wErase
    simp (disch := decide) only [hf, ht]
    decide +kernel
  all_goals unfold wErase
  · rw [hf _ _ (by decide), wWith_fuse]; decide +kernel
  · rw [hf _ _ (by decide)]; decide +kernel
  · rw [hf _ _ (by decide)]; decide +kernel
  · unfold State.slState State.rf; rw [wWith_rd]; decide +kernel
  · rw [hf _ _ (by decide)]; decide +kernel
  · rw [hf _ _ (by decide), wWith_fuse]; decide +kernel
  · rw [hf _ _ (by decide), show leNat (slice (wKmHead 2 0 0) 0x1C 1) = 0 by decide +kernel]; exact ha
  · rw [hf _ _ (by decide), wWith_rd]; decide +kernel
  · rw [wWith_rd]; decide +kernel
  · rw [hf _ _ (by decide)]; decide +kernel

/-- The transport key opens the INSTALL message. -/
theorem wInstall_key : wInstall.msgKey (wInstall.img wInstall.kstAddr) = some wPlain.flatten := by
  have hh : (wKmHead 1 16 1).length = 64 := by decide
  have hb := wKm_head 1 16 1 wSeal.1 wSeal.2 hh
  have hf := wKm_field 1 16 1 wSeal.1 wSeal.2 hh
  have hl : (wKm 1 16 1 wSeal.1 wSeal.2).length = 144 := by
    simp [wKm, hh, wSeal_length]
  have hc : imgBytes (wInstall.img wInstall.kstAddr) 0x40 64 = wSeal.1 := by
    rw [wInstall, wWith_addr, wWith, imgBytes_stBytes _ _ _ _ _ (by omega)]
    refine List.ext_getElem (by simp [slice, wSeal_length]) fun i h1 h2 => ?_
    have hi : i < wSeal.1.length := h2
    have hg : (wKm 1 16 1 wSeal.1 wSeal.2)[0x40 + i]? = some wSeal.1[i] := by
      rw [wKm, ← hh, List.getElem?_append_right (Nat.le_add_right _ _), Nat.add_sub_cancel_left,
        List.getElem?_append_left hi, List.getElem?_eq_getElem hi]
    simp [slice, byteAt, hg]
  have ht : imgBytes (wInstall.img wInstall.kstAddr) 0x80 16 = wSeal.2 := by
    rw [wInstall, wWith_addr, wWith, imgBytes_stBytes _ _ _ _ _ (by omega)]
    refine List.ext_getElem (by simp [slice, wSeal_length]) fun i h1 h2 => ?_
    have hi : i < wSeal.2.length := h2
    have hg : (wKm 1 16 1 wSeal.1 wSeal.2)[0x80 + i]? = some wSeal.2[i] := by
      rw [wKm, ← List.append_assoc, show 0x80 = (wKmHead 1 16 1 ++ wSeal.1).length by simp [hh, wSeal_length],
        List.getElem?_append_right (Nat.le_add_right _ _), Nat.add_sub_cancel_left, List.getElem?_eq_getElem hi]
    simp [slice, byteAt, hg]
  unfold State.msgKey
  rw [hc, ht]
  unfold wInstall
  simp only [hf 0x1D 1 (by decide), hb 0x28 12 (by decide), hb 0 0x40 (by decide)]
  rw [show leNat (slice (wKmHead 1 16 1) 0x1D 1) = 21 by decide +kernel,
    show slice (wKmHead 1 16 1) 0 0x40 = wKmHead 1 16 1 by decide +kernel, if_neg, wWith_slot,
    show (wKmTo.slot 21).key = List.replicate 32 7 by decide +kernel]
  · exact gcmOpen_seal _ _ _ wKey_length wPlain (by decide)
  · unfold State.slState State.slAttr State.rf State.rb
    rw [wWith_rd, wWith_rd]
    decide +kernel

/-- States and operands that meet the hypotheses of the clause of `Obligations.KeyStore` about accepted INSTALL messages. -/
theorem meets_KeyStore_install :
    ∃ (s : State) (a : Acc) (x : Nat) (l : List Byte), Reaches s a kstBase ∧ Manager s a ∧ s.rb (kstBase + 0x10) 31 = false
      ∧ sramSpan s.kstAddr 5600 = true ∧ s.anyBad s.kstAddr 5600 = false ∧ msgHeader (s.img s.kstAddr) = true ∧ imgLE (s.img
      s.kstAddr) 8 16 = s.fuse.unitId.toNat ∧ imgLE (s.img s.kstAddr) 8 16 ≠ 0 ∧ imgLE (s.img s.kstAddr) 7 1 = x ∧ s.slState
      x ≠ 4 ∧ imgLE (s.img s.kstAddr) 0x1C 1 < 4 ∧ s.fuse.revoked.getD (imgLE (s.img s.kstAddr) 0x1C 1) true = false ∧
      s.fuse.anchors.getD (imgLE (s.img s.kstAddr) 0x1C 1) none = some (sha384 (imgBytes (s.img s.kstAddr) 0x90 (96 +
      1952))) ∧ (s.rd (slA x 0x10)).toNat < imgLE (s.img s.kstAddr) 0x18 4 ∧ s.rd (slA x 0x10) ≠ 0xFFFFFFFF ∧ imgLE (s.img
      s.kstAddr) 6 1 = 1 ∧ s.msgKey (s.img s.kstAddr) = some l ∧ attrOk (wd (imgLE (s.img s.kstAddr) 0x20 4)) (imgLE (s.img
      s.kstAddr) 0x24 1) = true ∧ (l.drop (imgLE (s.img s.kstAddr) 0x24 1)).all (· == 0) = true ∧ halvesDiffer (wd (imgLE
      (s.img s.kstAddr) 0x20 4)) (l.take (imgLE (s.img s.kstAddr) 0x24 1)) = true := by
  have hh : (wKmHead 1 16 1).length = 64 := by decide
  have hc : wSeal.1.length + wSeal.2.length = 80 := by simp [wSeal_length]
  have hf := wKm_field 1 16 1 wSeal.1 wSeal.2 hh
  have ht := wKm_tail 1 16 1 wSeal.1 wSeal.2 hh hc
  have ha := wKm_anchor 1 16 1 wSeal.1 wSeal.2 hh hc
  obtain ⟨h1, h2, h3, h4⟩ := wWith_ready (wKm 1 16 1 wSeal.1 wSeal.2)
  refine ⟨wInstall, mgr, 20, wPlain.flatten, h1, h2, h3, ?_, ?_, ?_, ?_, ?_, ?_, ?_, ?_, ?_, ?_, ?_, ?_, ?_, wInstall_key, ?_, ?_, ?_⟩
  · rw [wInstall, wWith_addr]; decide
  · rw [wInstall, wWith_addr]; exact h4
  · unfold msgHeader wInstall
    simp (disch := decide) only [hf, ht]
    decide +kernel
  all_goals unfold wInstall
  · rw [hf _ _ (by decide), wWith_fuse]; decide +kernel
  · rw [hf _ _ (by decide)]; decide +kernel
  · rw [hf _ _ (by decide)]; decide +kernel
  · unfold State.slState State.rf; rw [wWith_rd]; decide +kernel
  · rw [hf _ _ (by decide)]; decide +kernel
  · rw [hf _ _ (by decide), wWith_fuse]; decide +kernel
  · rw [hf _ _ (by decide), show leNat (slice (wKmHead 1 16 1) 0x1C 1) = 0 by decide +kernel]; exact ha
  · rw [hf _ _ (by decide), wWith_rd]; decide +kernel
  · rw [wWith_rd]; decide +kernel
  · rw [hf _ _ (by decide)]; decide +kernel
  · rw [hf _ _ (by decide), hf _ _ (by decide)]; decide +kernel
  · rw [hf _ _ (by decide)]; decide +kernel
  · rw [hf _ _ (by decide), hf _ _ (by decide)]; decide +kernel

/-- A STANDBY module whose partner has fallen silent claims (`Obligations.StandbyHeldBack`). -/
theorem meets_StandbyHeldBack : ∃ (c : Instr) (s t : State), exec c s = .next t ∧ s.front.role = 2 ∧ t.front.role = 3 :=
  ⟨.pairClaim, (wPair 2).wf (prA 8) 9 8 3, _, rfl, by decide +kernel, by decide +kernel⟩

/-- A state with canonical lists and a step from it (`Obligations.CanonicalKept`, `Obligations.FusesNeverClear`). -/
theorem meets_CanonicalKept : ∃ s t : State, Canonical s ∧ step s = .next t :=
  ⟨{ (wOn.wr fcBase 7).stb 0x10000000 5 with pending := [.powerOnReset] }, _, by decide +kernel, rfl⟩

theorem meets_FusesNeverClear : ∃ s t : State, step s = .next t :=
  let ⟨s, t, _, h⟩ := meets_CanonicalKept
  ⟨s, t, h⟩

end Sys2Proof.Tests
end

