-- ==== Sys2Proof/Tests/Witness.lean ====
section
/-!
SUPPORT. For every statement with hypotheses, states and operands that meet them, clause by clause.
-/

namespace Sys2Proof.Tests

open Sys2Proof.Machine Sys2Proof.Safety Sys2Proof.Laws

-- One theorem after the other: side by side they ask for more memory than a check has.
set_option Elab.async false

/-- States and operands that meet the hypotheses of `Obligations.StepRunsFront`. -/
theorem meets_StepRunsFront :
    (∃ (s : State), s.pending = [] ∧ s.boundary = []) :=
  ⟨wOn, by decide⟩

/-- States and operands that meet the hypotheses of `Obligations.PowerUpSequence`. -/
theorem meets_PowerUpSequence :
    (∃ (s : State), s.pwr.phase = .start)
    ∧ (∃ (s : State) (r : Rail), s.pwr.phase = .waitPg r)
    ∧ (∃ (s : State), s.pwr.phase = .delay .core)
    ∧ (∃ (s : State), s.pwr.phase = .delay .sys)
    ∧ (∃ (s : State), s.pwr.phase = .delay .io)
    ∧ (∃ (s : State) (r : Rail), s.pwr.phase = .waitPg r ∧ s.pwr.attempts < 2)
    ∧ (∃ (s : State) (r : Rail), s.pwr.phase = .waitPg r ∧ 2 ≤ s.pwr.attempts)
    ∧ (∃ (s : State), s.pwr.phase = .retryWait ∨ s.pwr.phase = .lossWait) :=
  ⟨⟨(wPhase .start), by decide⟩,
   ⟨(wPhase (.waitPg .core)), .core, by decide⟩,
   ⟨(wPhase (.delay .core)), by decide⟩,
   ⟨(wPhase (.delay .sys)), by decide⟩,
   ⟨(wPhase (.delay .io)), by decide⟩,
   ⟨(State.setPwr State.reset { phase := .waitPg .sys, enCore := true, enSys := true, attempts := 1 }), .sys, by decide⟩,
   ⟨((State.setPwr State.reset { phase := .waitPg .io, enCore := true, enSys := true, enIo := true, attempts := 2 }).wr (aoA
     0x14) 0x21), .io, by decide⟩,
   ⟨(wPhase .retryWait), by decide⟩⟩

/-- States and operands that meet the hypotheses of `Obligations.PowerDownSequence`. -/
theorem meets_PowerDownSequence :
    (∃ (s : State) (r : Rail), s.pwr.pg r = true ∧ s.pwr.phase.down = false)
    ∧ (∃ (s : State), s.pwr.phase = .lossDrop .sys)
    ∧ (∃ (s : State), s.pwr.phase = .lossDrop .core)
    ∧ (∃ (s : State), s.pwr.phase = .sleepDrop .sys)
    ∧ (∃ (s : State), s.pwr.phase = .sleepDrop .core)
    ∧ (∃ (s : State), s.pwr.phase ≠ .off) :=
  ⟨⟨wOn, .sys, by decide⟩,
   ⟨(wPhase (.lossDrop .sys)), by decide⟩,
   ⟨(wPhase (.lossDrop .core)), by decide⟩,
   ⟨(wPhase (.sleepDrop .sys)), by decide⟩,
   ⟨(wPhase (.sleepDrop .core)), by decide⟩,
   ⟨wOn, by decide⟩⟩

/-- States and operands that meet the hypotheses of `Obligations.ChipResets`. -/
theorem meets_ChipResets :
    (∃ (s : State) (n : Nat) (taken : Bool), s.pwr.phase = .run ∧ (10000 ≤ n ∨ 1000 ≤ n ∧ taken = true))
    ∧ (∃ (n : Nat) (taken : Bool), n < 1000 ∨ n < 10000 ∧ taken = false)
    ∧ (∃ (s : State) (a : Acc) (key : BitVec 16), Reaches s a (rbcBase + 0xC) ∧ Manager s a ∧ key = 0x9640)
    ∧ (∃ (s : State) (a : Acc) (key : BitVec 16), Reaches s a (rbcBase + 0xC) ∧ Manager s a ∧ key ≠ 0x9640 ∧ NoHart a)
    ∧ (∃ (s : State), s.logicOn = true ∧ s.rb bootStat 3 = true)
    ∧ (∃ (s : State), s.pwr.vio = true ∧ s.pwr.extest = false)
    ∧ (∃ (s : State), s.pwr.phase = .run ∧ s.pwr.held = true ∧ s.pwr.holdRuns = true ∧ s.pwr.vcore = 750 ∧ s.pwr.extest =
      true) :=
  ⟨⟨wOn, 10000, false, by decide⟩,
   ⟨999, true, by decide⟩,
   ⟨wOn, mgr, 0x9640, by decide⟩,
   ⟨{ wOn with dbg := { isOpen := true } }, wDbg, 0x9641, by decide⟩,
   ⟨(wOn.wb bootStat 3 true), by decide⟩,
   ⟨wOn, by decide⟩,
   ⟨(wOn.setPwr { phase := .run, holdRuns := true, jtag := .extest }), by decide⟩⟩

/-- States and operands that meet the hypotheses of `Obligations.StartReleases`. -/
theorem meets_StartReleases :
    (∃ (s : State), s.pwr.phase = .release ∧ s.pwr.extest = false)
    ∧ (∃ (s : State), s.pwr.phase = .release ∧ s.pwr.extest = true)
    ∧ (∃ (s : State), s.pwr.phase = .run ∧ s.pwr.held = true ∧ s.pwr.holdRuns = true ∧ s.pwr.vcore = 750 ∧ s.pwr.extest =
      false)
    ∧ (∃ (s : State) (ir : JtagIr), s.pwr.extest = true ∧ s.pwr.phase = .run ∧ s.pwr.held = true ∧ s.pwr.holdRuns = false ∧
      s.pwr.vcore = 750 ∧ ir ≠ .extest)
    ∧ (∃ (s : State) (ir : JtagIr), s.pwr.vio = true ∧ ir ≠ .extest ∧ (s.pwr.extest = false ∨ s.pwr.held = false ∨
      s.pwr.holdRuns = true ∨ s.pwr.phase ≠ .run ∨ s.pwr.vcore ≠ 750)) :=
  ⟨⟨(wPhase .release), by decide⟩,
   ⟨(State.setPwr State.reset { phase := .release, jtag := .extest }), by decide⟩,
   ⟨(wOn.setPwr { phase := .run, holdRuns := true }), by decide⟩,
   ⟨(wOn.setPwr { phase := .run, jtag := .extest }), .sample, by decide⟩,
   ⟨wOn, .idcode, by decide⟩⟩

/-- States and operands that meet the hypotheses of `Obligations.CoreVoltage`. -/
theorem meets_CoreVoltage :
    (∃ (s : State) (reply : VoutReply), s.logicOn = true ∧ s.pwr.voutRead = false ∧ reply = .ulinear16)
    ∧ (∃ (s : State) (reply : VoutReply), s.logicOn = true ∧ s.pwr.voutRead = false ∧ reply ≠ .ulinear16)
    ∧ (∃ (s : State), s.pwr.voutRead = true ∧ s.pwr.vcore < s.pwr.vcoreGoal)
    ∧ (∃ (s : State), s.pwr.voutRead = true ∧ s.pwr.vcoreGoal < s.pwr.vcore) :=
  ⟨⟨wOn, .ulinear16, by decide⟩,
   ⟨wOn, .noAnswer, by decide⟩,
   ⟨(wOn.setPwr { voutRead := true, vcore := 750, vcoreGoal := 760 }), by decide⟩,
   ⟨(wOn.setPwr { voutRead := true, vcore := 800, vcoreGoal := 760 }), by decide⟩⟩

/-- States and operands that meet the hypotheses of `Obligations.Links`. -/
theorem meets_Links :
    (∃ (s : State) (k : Link), (s.link k).up = true)
    ∧ (∃ (s : State) (k : Link) (lanes : Nat), (s.link k).up = true ∧ (lanes = 1 ∨ lanes = 2) ∧ lanes < (s.link k).lanes)
    ∧ (∃ (s : State) (k : Link), (s.link k).up = true)
    ∧ (∃ (s : State) (k : Link), (s.link k).up = false ∧ s.logicOn = true ∧ (k.val < 2 → (s.die k).supplied = true)) :=
  ⟨⟨wLink, 0, by decide⟩,
   ⟨wLink, 1, 2, by decide⟩,
   ⟨wLink, 2, by decide⟩,
   ⟨wOn, 2, by decide⟩⟩

/-- States and operands that meet the hypotheses of `Obligations.IslandControl`. -/
theorem meets_IslandControl :
    (∃ (s : State) (a : Acc) (i : Island) (b : Bool), Reaches s a (islA i) ∧ MayAsk s a i ∧ (b = true → islStops i = true) ∧
      s.freqOk i (s.rf (islA i) 6 0) = true)
    ∧ (∃ (s : State) (a : Acc) (i : Island), Reaches s a (islA i) ∧ MayAsk s a i ∧ (s.rb (islA i) 30 = true → islStops i =
      true) ∧ s.freqOk i (s.rf (islA i) 6 0) = true)
    ∧ (∃ (s : State) (a : Acc) (i : Island) (f : BitVec 7), Reaches s a (islA i) ∧ MayAsk s a i ∧ (s.rb (islA i) 30 = true →
      islStops i = true) ∧ s.freqOk i f.toNat = true)
    ∧ (∃ (s : State) (a : Acc) (i : Island) (f : BitVec 7), Reaches s a (islA i) ∧ (s.tagsOf a.who).tid = 0 ∧ (s.freqOk i
      f.toNat = false ∨ islStops i = false ∧ s.rb (islA i) 30 = true) ∧ NoHart a)
    ∧ (∃ (s : State) (a : Acc) (i : Island), Reaches s a (islA i) ∧ (s.tagsOf a.who).tid = 0 ∧ islStops i = false ∧ NoHart
      a)
    ∧ (∃ (s : State) (a : Acc) (i : Island), Reaches s a (islA i) ∧ (s.tagsOf a.who).tid = 0 ∧ islStops i = false ∧ NoHart
      a)
    ∧ (∃ (s : State) (a : Acc) (i : Island), Reaches s a (islA i) ∧ (s.tagsOf a.who).tid ≠ 0 ∧ NoHart a)
    ∧ (∃ (s : State) (a : Acc), Reaches s a (icuBase + 0x80) ∧ MayAsk s a 5) :=
  ⟨⟨wOn, mgr, 7, true, by decide⟩,
   ⟨wOn, mgr, 3, by decide⟩,
   ⟨wOn, mgr, 0, 16, by decide⟩,
   ⟨wOn, mgr, 0, 15, by decide⟩,
   ⟨{ wOn with dbg := { isOpen := true } }, wDbg, 3, by decide⟩,
   ⟨wOn, mgr, 2, by decide⟩,
   ⟨(wOn.wr (wcA 0x18) 0), ten, 7, by decide⟩,
   ⟨wOn, mgr, by decide⟩⟩

/-- States and operands that meet the hypotheses of `Obligations.IslandReset`. -/
theorem meets_IslandReset :
    (∃ (s : State) (a : Acc) (i : Island), Reaches s a (islA i) ∧ MayAsk s a i ∧ islStops i = true ∧ s.freqOk i (s.rf (islA
      i) 6 0) = true)
    ∧ (∃ (s : State) (a : Acc), Reaches s a (islA 7) ∧ MayAsk s a 7 ∧ NoHart a ∧ s.freqOk 7 (s.rf (islA 7) 6 0) = true)
    ∧ (∃ (s : State) (a : Acc), Reaches s a (islA 1) ∧ MayAsk s a 1 ∧ a.who = .carried 0 (s.tagsOf a.who).w ∧ s.boundary =
      [] ∧ s.brg = [] ∧ (∀ p ∈ s.casks, p.2.waits = []) ∧ s.freqOk 1 (s.rf (islA 1) 6 0) = true)
    ∧ (∃ (s : State) (i : Island), s.logicOn = true ∧ s.islOf i = .hold)
    ∧ (∃ (s : State) (i : Island), s.logicOn = true ∧ s.islOf i = .starting) :=
  ⟨⟨wOn, mgr, 1, by decide⟩,
   ⟨(wOn.wr (canA 3 0) 0x41), mgr, by decide⟩,
   ⟨(wOn.setHart 5 { held := false, pc := 64 }), mgr, by decide⟩,
   ⟨(wOn.setIsl 5 .hold), 5, by decide⟩,
   ⟨(wOn.setIsl 4 .starting), 4, by decide⟩⟩

/-- States and operands that meet the hypotheses of `Obligations.ClocksAndBoundaries`. -/
theorem meets_ClocksAndBoundaries :
    (∃ (s : State) (i : Island), s.logicOn = true ∧ i ≠ 10 ∧ s.rb icuBase i = true)
    ∧ (∃ (s : State), s.logicOn = true ∧ s.rb icuBase 31 = false)
    ∧ (∃ (s : State), s.logicOn = true)
    ∧ (∃ (s : State) (i : Island) (a : Acc) (addr : Nat) (c : Instr) (load : Bool) (l : List Waiting) (l0 : List Waiting),
      s.boundary = l0 ++ ⟨i, c, .access a addr load, none⟩ :: l ∧ (∀ y ∈ l0, y.island ≠ i.val) ∧ NoHart a)
    ∧ (∃ (s : State) (i : Island) (a : Acc) (addr : Nat) (c : Instr) (load : Bool) (l : List Waiting) (l0 : List Waiting) (h
      : HartId), s.boundary = l0 ++ ⟨i, c, .access a addr load, none⟩ :: l ∧ (∀ y ∈ l0, y.island ≠ i.val) ∧ a.who = .hart h)
    ∧ (∃ (s : State) (i : Island) (addr : Nat) (c : Instr) (l : List Waiting) (l0 : List Waiting) (e : Eng) (u : Thr) (d :
      Fin 16), s.boundary = l0 ++ ⟨i, c, .engine e u d addr, none⟩ :: l ∧ (∀ y ∈ l0, y.island ≠ i.val) ∧ s.thState e u = 3 ∧
      (s.thr e u).held = none)
    ∧ (∃ (s : State), s.logicOn = true ∧ s.draining = false ∧ s.islOf (islandOf (wcA 0x20)) ≠ .running) :=
  ⟨⟨wOn, 5, by decide⟩,
   ⟨wOn, by decide⟩,
   ⟨(wOn.wb icuBase 31 true), by decide⟩,
   ⟨{ wOn with boundary := [⟨5, .tbWrap, .access ten 0x400F0000 true, none⟩] }, 5, ten, 0x400F0000, .tbWrap, true, [], [],
     by decide⟩,
   ⟨{ (wOn.setHart 2 { held := false, await := some { addr := 0x400F0000, va := 0x400F0000, next := 4 } }) with boundary := [⟨5, .tbWrap, .access ⟨.hart 2, false⟩ 0x400F0000 true, none⟩] },
     5, ⟨.hart 2, false⟩, 0x400F0000, .tbWrap, true, [], [], 2, by decide⟩,
   ⟨{ (wOn.wf (thA 3 2 4) 2 0 3) with boundary := [⟨5, .tbWrap, .engine 3 2 5 0x400F0000, none⟩] }, 5, 0x400F0000, .tbWrap,
     [], [], 3, 2, 5, by decide⟩,
   ⟨(wOn.setIsl 2 .stopped), by decide⟩⟩

/-- States and operands that meet the hypotheses of `Obligations.WorldSettings`, part 1. -/
theorem meets_WorldSettings_1 :
    (∃ (s : State) (a : Acc) (v : Word), Reaches s a wcuBase ∧ Manager s a ∧ s.rb wcuBase 31 = false ∧ fld v 9 0 ≤ 512)
    ∧ (∃ (s : State) (a : Acc) (v : Word), Reaches s a wcuBase ∧ Manager s a ∧ s.rb wcuBase 31 = false ∧ fld v 9 0 ≤ 384)
    ∧ (∃ (s : State) (a : Acc), Reaches s a wcuBase ∧ Manager s a ∧ s.rb wcuBase 31 = false)
    ∧ (∃ (s : State) (a : Acc) (v : Word), Reaches s a wcuBase ∧ Manager s a ∧ (∀ j, j < 16 → fld v (2 * j + 1) (2 * j) ≠
      3))
    ∧ (∃ (s : State) (a : Acc), Reaches s a wcuBase ∧ Manager s a ∧ NoHart a ∧ s.rb wcuBase 31 = true)
    ∧ (∃ (s : State) (a : Acc), Reaches s a wcuBase ∧ Manager s a)
    ∧ (∃ (s : State) (a : Acc) (v : Word), Reaches s a wcuBase ∧ Manager s a ∧ 1 ≤ fld v 15 0 ∧ fld v 15 0 ≤ 10000 ∧ fld v
      28 16 < fld v 15 0)
    ∧ (∃ (s : State) (a : Acc) (key : BitVec 16), Reaches s a wcuBase ∧ (s.tagsOf a.who).w = true ∧ s.rb (wcA 0x20) 31 =
      true ∧ s.rwd.expired = false ∧ key = 0x9640 ∧ s.rwd.wmin * 500000 ≤ s.ticks - s.rwd.since)
    ∧ (∃ (s : State) (a : Acc) (key : BitVec 16), Reaches s a wcuBase ∧ (s.tagsOf a.who).w = true ∧ s.rb (wcA 0x20) 31 =
      true ∧ s.rwd.expired = false ∧ (key ≠ 0x9640 ∨ s.ticks - s.rwd.since < s.rwd.wmin * 500000))
    ∧ (∃ (s : State), s.logicOn = true ∧ s.rb (wcA 0x20) 31 = true ∧ s.rwd.expired = false ∧ s.rwdPaused = false ∧
      s.rwd.warned = false ∧ s.rwd.tmo * 500000 ≤ 2 * (s.ticks - s.rwd.since)) :=
  ⟨⟨wOn, mgr, 512, by decide⟩,
   ⟨wOn, mgr, 384, by decide⟩,
   ⟨wOn, mgr, by decide⟩,
   ⟨wOn, mgr, 0xAAAAAAA9, by decide⟩,
   ⟨(wOn.wb wcuBase 31 true), mgr, by decide⟩,
   ⟨wOn, mgr, by decide⟩,
   ⟨wOn, mgr, 1, by decide⟩,
   ⟨(wOn.wr (wcA 0x20) 0x800001F4), ⟨.hart 0, false⟩, 0x9640, by decide⟩,
   ⟨(wOn.wr (wcA 0x20) 0x800001F4), mgr, 0x9641, by decide⟩,
   ⟨{ wOn.wr (wcA 0x20) 0x800001F4 with rwd := { since := 7 }, ticks := 125000007 }, by decide⟩⟩

/-- States and operands that meet the hypotheses of `Obligations.WorldSettings`, part 2. -/
theorem meets_WorldSettings_2 :
    (∃ (s : State), s.logicOn = true ∧ s.rb (wcA 0x20) 31 = true ∧ s.rwd.expired = false ∧ s.rwdPaused = false ∧ s.rwd.tmo *
      500000 ≤ s.ticks - s.rwd.since) :=
  ⟨{ wOn.wr (wcA 0x20) 0x800001F4 with rwd := { since := 7 }, ticks := 250000007 }, by decide⟩

/-- States and operands that meet the hypotheses of `Obligations.Ownership`. -/
theorem meets_Ownership :
    (∃ (s : State) (a : Acc) (addr : Addr) (f : BitVec 8) (w : Own), Reaches s a addr.toNat ∧ isFar addr.toNat = false ∧
      ownAt addr.toNat = some w ∧ s.resetting (s.tagsOf a.who).tid = false ∧ w.takes f.toNat = true ∧ ownHeld (s.rd
      (ownCanon addr.toNat)) = false ∧ Allots s (s.tagsOf a.who) w)
    ∧ (∃ (s : State) (a : Acc) (addr : Addr) (f : BitVec 8) (w : Own), FarReaches s a (addr.toNat / 0x1000000 - 0x80)
      addr.toNat ∧ isFar addr.toNat = true ∧ ownAt addr.toNat = some w ∧ s.resetting (s.tagsOf a.who).tid = false ∧ w.takes
      f.toNat = true ∧ ownHeld (s.rd addr.toNat) = false)
    ∧ (∃ (s : State) (a : Acc) (addr : Addr) (f : BitVec 8) (w : Own), Reaches s a addr.toNat ∧ NoHart a ∧ isFar addr.toNat
      = false ∧ ownAt addr.toNat = some w ∧ s.resetting (s.tagsOf a.who).tid = false ∧ (w.slice = none ∨ s.tenantOn
      (s.tagsOf a.who).tid = true) ∧ w.takes f.toNat = true ∧ ownHeld (s.rd (ownCanon addr.toNat)) = true ∧ ownTags (s.rd
      (ownCanon addr.toNat)) ≠ s.tagsOf a.who)
    ∧ (∃ (s : State) (a : Acc) (addr : Addr) (f : BitVec 8) (w : Own), Reaches s a addr.toNat ∧ NoHart a ∧ isFar addr.toNat
      = false ∧ ownAt addr.toNat = some w ∧ s.resetting (s.tagsOf a.who).tid = false ∧ (w.slice = none ∨ s.tenantOn
      (s.tagsOf a.who).tid = true) ∧ w.takes f.toNat = false)
    ∧ (∃ (s : State) (a : Acc) (addr : Addr) (w : Own), Reaches s a addr.toNat ∧ isFar addr.toNat = false ∧ ownAt addr.toNat
      = some w ∧ ownHeld (s.rd (ownCanon addr.toNat)) = true ∧ (Manager s a ∨ ownTags (s.rd (ownCanon addr.toNat)) =
      s.tagsOf a.who))
    ∧ (∃ (s : State) (a : Acc) (addr : Addr) (w : Own), FarReaches s a (addr.toNat / 0x1000000 - 0x80) addr.toNat ∧ isFar
      addr.toNat = true ∧ ownAt addr.toNat = some w ∧ ownHeld (s.rd addr.toNat) = true ∧ (Manager s a ∨ ownTags (s.rd
      addr.toNat) = s.tagsOf a.who))
    ∧ (∃ (s : State) (a : Acc) (addr : Addr) (w : Own), Reaches s a addr.toNat ∧ NoHart a ∧ isFar addr.toNat = false ∧ ownAt
      addr.toNat = some w ∧ ownHeld (s.rd (ownCanon addr.toNat)) = true ∧ ¬ Manager s a ∧ ownTags (s.rd (ownCanon
      addr.toNat)) ≠ s.tagsOf a.who)
    ∧ (∃ (s : State) (a : Acc) (addr : Addr) (w : Own), Reaches s a addr.toNat ∧ NoHart a ∧ isFar addr.toNat = false ∧ ownAt
      addr.toNat = some w ∧ w.slice ≠ none ∧ s.resetting (s.tagsOf a.who).tid = false ∧ s.tenantOn (s.tagsOf a.who).tid =
      false)
    ∧ (∃ (s : State) (a : Acc) (addr : Addr) (n : Nat), Reaches s a addr.toNat ∧ n < 512 ∧ addr.toNat = ckA n 0 ∧ ownHeld
      (s.rd (ckA n 0)) = true ∧ (Manager s a ∨ ownTags (s.rd (ckA n 0)) = s.tagsOf a.who)) :=
  ⟨⟨(wOn.wr (wcA 0x18) 0), mgr, 0x40020100, 1, (.din 0), by decide⟩,
   ⟨(wCh 5 0), ten, 0x80010500, 1, (.chan 5), by decide⟩,
   ⟨(wOn.wr 0x40020100 0x80010105), mgr, 0x40020100, 1, (.din 0), by decide⟩,
   ⟨wOn, mgr, 0x40020100, 2, (.din 0), by decide⟩,
   ⟨(wOn.wr 0x400D0060 0x80400105), mgr, 0x400D0060, .port, by decide⟩,
   ⟨((wChOwned 5 2 true).wr 0x80010500 0x80010005), ten, 0x80010500, (.chan 5), by decide⟩,
   ⟨((wOn.wr 0x40020100 0x80010106).wr (wcA 0x18) 0), ten, 0x40020100, (.din 0), by decide⟩,
   ⟨(wOn.wr (wcA 0x18) 0), ten, 0x400A1000, (.cask 0), by decide⟩,
   ⟨((((wOn.wr (ckA 0 0) 0x80010105).wr (ckA 0 4) 0x80000002).wr (ckA 0 0x10) 0x00050003).wr (ckA 0 0x18) 0x80000007), mgr,
     0x400A1000, 0, by decide⟩⟩

/-- States and operands that meet the hypotheses of `Obligations.AddressedAccess`. -/
theorem meets_AddressedAccess :
    (∃ (s : State) (a : Acc) (addr : Addr) (n : Nat), Reaches s a addr.toNat ∧ (n = 1 ∨ n = 2 ∨ n = 4 ∨ n = 8) ∧ (within
      addr.toNat n 0x10000000 0x12000000 = true ∨ within addr.toNat n 0x20000000 0x22000000 = true) ∧ s.mayWrite (s.tagsOf
      a.who) addr.toNat n = true)
    ∧ (∃ (s : State) (a : Acc) (addr : Addr) (n : Nat), Reaches s a addr.toNat ∧ NoHart a ∧ (n = 1 ∨ n = 2 ∨ n = 4 ∨ n = 8)
      ∧ (within addr.toNat n 0x10000000 0x12000000 = true ∨ within addr.toNat n 0x20000000 0x22000000 = true) ∧ s.mayWrite
      (s.tagsOf a.who) addr.toNat n = false)
    ∧ (∃ (s : State) (a : Acc) (addr : Addr) (n : Nat), Reaches s a addr.toNat ∧ NoHart a ∧ addr.toNat + n ≤ 0x10000)
    ∧ (∃ (s : State) (a : Acc) (addr : Addr), Reaches s a addr.toNat ∧ NoHart a ∧ 0x50000000 ≤ addr.toNat ∧ addr.toNat <
      0x80000000)
    ∧ (∃ (s : State) (a : Acc) (addr : Addr), s.logicOn = true ∧ s.mustWait (islandOf addr.toNat) = false ∧ NoHart a ∧
      a.tagFail = false ∧ s.pageHeld addr.toNat = true ∧ (s.tagsOf a.who).w = false) :=
  ⟨⟨wOn, mgr, 0x10000004, 4, by decide⟩,
   ⟨wOn, ten, 0x10000004, 4, by decide⟩,
   ⟨wOn, mgr, 0xFFF8, 8, by decide⟩,
   ⟨wOn, mgr, 0x60000000, by decide⟩,
   ⟨wOn, ten, 0x40050000, by decide⟩⟩

/-- States and operands that meet the hypotheses of `Obligations.TenantRegisters`. -/
theorem meets_TenantRegisters :
    (∃ (s : State) (a : Acc) (n : Tid) (r : Fin 5) (k : Slice) (v : Word), Reaches s a tnmBase ∧ Manager s a ∧ n ≠ 0 ∧ r.val
      < 4 ∧ quotaSlice (0x10 + r * 4) = some k ∧ QuotaFits s n.toNat k (fld v 9 0) (fld v 25 16))
    ∧ (∃ (s : State) (a : Acc) (n : Tid) (r : Fin 5) (v : Word), Reaches s a tnmBase ∧ Manager s a ∧ n ≠ 0 ∧ r.val = 4 ∧
      QuotaFits s n.toNat .cphCtx (fld v 6 0) (fld v 22 16))
    ∧ (∃ (s : State) (a : Acc) (n : Tid) (r : Fin 5) (v : Word), Reaches s a tnmBase ∧ Manager s a ∧ NoHart a ∧ n ≠ 0 ∧
      r.val < 4 ∧ fld v 9 0 < fld v 25 16)
    ∧ (∃ (s : State) (a : Acc), Reaches s a tnmBase ∧ Manager s a)
    ∧ (∃ (s : State) (a : Acc) (e : Eng) (th : Thr) (v : Word), Reaches s a tnmBase ∧ Manager s a ∧ s.thState e th = 0 ∧
      (bit v 31 = true → s.tenantOn (BitVec.ofNat 8 (fld v 7 0)) = true ∧ s.resetting (BitVec.ofNat 8 (fld v 7 0)) = false ∧
      (fld v 7 0 = 0 ∨ bit v 8 = s.rb (tnA (fld v 7 0) 0) 8)) ∧ s.boundsMeet e th (sliceTags v) (s.rf (thA e th 0xC) 7 0)
      (s.rf (thA e th 0xC) 15 8) = false)
    ∧ (∃ (s : State) (a : Acc) (e : Eng) (th : Thr), Reaches s a tnmBase ∧ Manager s a ∧ NoHart a ∧ s.thState e th ≠ 0)
    ∧ (∃ (s : State) (a : Acc) (n : Tid) (v : Word), Reaches s a tnmBase ∧ Manager s a ∧ n ≠ 0 ∧ (s.rb (tnA n.toNat 0) 31 =
      true → bit v 8 = s.rb (tnA n.toNat 0) 8) ) :=
  ⟨⟨wOn, mgr, 5, 0, .casks, 0x00100020, by decide +kernel⟩,
   ⟨wOn, mgr, 5, 4, 0x40, by decide +kernel⟩,
   ⟨wOn, mgr, 5, 0, 0x00210020, by decide⟩,
   ⟨wOn, mgr, by decide⟩,
   ⟨(wOn.wb (tnA 5 0) 31 true), mgr, 15, 7, 0x80000005, by decide⟩,
   ⟨(wOn.wf (thA 2 3 4) 2 0 1), mgr, 2, 3, by decide⟩,
   ⟨wOn, mgr, 5, 0x80000100, by decide⟩⟩

/-- States and operands that meet the hypotheses of `Obligations.TenantMailboxAndReset`. -/
theorem meets_TenantMailboxAndReset :
    (∃ (s : State) (a : Acc) (n : Tid), Reaches s a tnmBase ∧ Manager s a ∧ n ≠ 0 ∧ s.rb (mbA n.toNat 0x20) 0 = false)
    ∧ (∃ (s : State) (a : Acc) (n : Tid), Reaches s a tnmBase ∧ NoHart a ∧ Manager s a ∧ n ≠ 0 ∧ s.rb (mbA n.toNat 0x20) 0 =
      true)
    ∧ (∃ (s : State) (a : Acc) (n : Tid), Reaches s a tnmBase ∧ s.tagsOf a.who = s.tnTags n.toNat ∧ n ≠ 0 ∧ s.resetting n =
      false)
    ∧ (∃ (s : State) (a : Acc) (n : Tid), Reaches s a tnmBase ∧ s.tagsOf a.who = s.tnTags n.toNat ∧ n ≠ 0 ∧ s.resetting n =
      false ∧ s.rb (mbA n.toNat 0x20) 3 = false)
    ∧ (∃ (s : State) (a : Acc) (n : Tid), Reaches s a tnmBase ∧ Manager s a ∧ n ≠ 0)
    ∧ (∃ (s : State) (a : Acc) (n : Tid), Reaches s a tnmBase ∧ Manager s a ∧ n ≠ 0 ∧ s.resetting n = false)
    ∧ (∃ (s : State) (a : Acc) (n : Tid), Reaches s a tnmBase ∧ Manager s a ∧ NoHart a ∧ n ≠ 0 ∧ s.resetting n = true)
    ∧ (∃ (s : State) (n : Tid), s.logicOn = true ∧ s.resetting n = true)
    ∧ (∃ (s : State) (n : Tid), s.logicOn = true ∧ s.resetting n = true) :=
  ⟨⟨wOn, mgr, 5, by decide⟩,
   ⟨(wOn.wb (mbA 5 0x20) 0 true), mgr, 5, by decide⟩,
   ⟨((wOn.wr (wcA 0x18) 0).wb (mbA 5 0x20) 0 true), ten, 5, by decide⟩,
   ⟨(wOn.wr (wcA 0x18) 0), ten, 5, by decide⟩,
   ⟨(wOn.wb (mbA 5 0x20) 3 true), mgr, 5, by decide⟩,
   ⟨(wOn.wr (tnA 5 0) 0x80000000), mgr, 5, by decide⟩,
   ⟨(wOn.wf (tnA 5 8) 1 0 2), mgr, 5, by decide⟩,
   ⟨(wOn.wf (tnA 5 8) 1 0 2), 5, by decide⟩,
   ⟨(wOn.wf (tnA 255 8) 1 0 2), 255, by decide⟩⟩

/-- States and operands that meet the hypotheses of `Obligations.BanksAndUpdate`. -/
theorem meets_BanksAndUpdate :
    (∃ (s : State) (a : Acc) (b : Bool), Reaches s a rbcBase ∧ Manager s a ∧ s.rf (rbcBase + 8) 15 8 ≠ 0 ∧ s.runningBank ≠
      some b)
    ∧ (∃ (s : State) (a : Acc) (b : Bool), Reaches s a rbcBase ∧ NoHart a ∧ Manager s a ∧ s.rf (rbcBase + 8) 15 8 ≠ 0 ∧
      s.runningBank = some b)
    ∧ (∃ (s : State) (a : Acc), Reaches s a rbcBase ∧ Manager s a ∧ s.rf (rbcBase + 8) 15 8 ≠ 0 ∧ (s.rb (rbcBase + 8) 1 =
      false ∨ s.runningBank ≠ some (s.rb (rbcBase + 8) 0)) ∧ s.rb bootStat 3 = true)
    ∧ (∃ (s : State) (a : Acc), Reaches s a rbcBase ∧ Manager s a ∧ s.rf (rbcBase + 8) 15 8 ≠ 0 ∧ (s.rb (rbcBase + 8) 1 =
      false ∨ s.runningBank ≠ some (s.rb (rbcBase + 8) 0)) ∧ s.rb bootStat 3 = false)
    ∧ (∃ (s : State) (i : ImgSrc), s.logicOn = true ∧ s.boot.migrating = true ∧ s.boot.src = some i)
    ∧ (∃ (s : State) (base : Addr), s.logicOn = true ∧ (s.boot.waitImage = false ∨ s.rf bootStat 1 0 ≠ 1 ∧ s.dbg.isOpen =
      false ∨ inSram base.toNat = false))
    ∧ (∃ (s : State) (base : Addr), s.logicOn = true ∧ s.boot.waitImage = true ∧ (s.rf bootStat 1 0 = 1 ∨ s.dbg.isOpen =
      true) ∧ inSram base.toNat = true) :=
  ⟨⟨(wOn.wb rbcBase 5 true), mgr, true, by decide⟩,
   ⟨{ wOn with boot := { src := some (.bank false) } }, mgr, false, by decide⟩,
   ⟨(wOn.wb bootStat 3 true), mgr, by decide⟩,
   ⟨(wOn.wr (rbcBase + 8) 0x102), mgr, by decide⟩,
   ⟨{ wOn with boot := { migrating := true, src := some (.bank false) } }, (.bank false), by decide⟩,
   ⟨{ wOn with boot := { waitImage := true } }, 0x10000000, by decide⟩,
   ⟨{ wOn.wf bootStat 1 0 1 with boot := { waitImage := true } }, 0x10000000, by decide⟩⟩

/-- States and operands that meet the hypotheses of `Obligations.ChannelControl`. -/
theorem meets_ChannelControl :
    (∃ (s : State) (a : Acc) (c : Ch), ChWrites s a c 0xC)
    ∧ (∃ (s : State) (a : Acc) (c : Ch), ChWrites s a c 0xC ∧ (s.chState c = 4 ∨ s.chState c = 6) ∧ s.demand c = false ∧
      Alone s c)
    ∧ (∃ (s : State) (a : Acc) (c : Ch), ChWrites s a c 0xC)
    ∧ (∃ (s : State) (a : Acc) (c : Ch), ChWrites s a c 0xC ∧ s.chState c = 0 ∧ (s.chI c).parEn = false ∧ s.uv (c / 32) =
      false ∧ s.limp (c / 32) = false ∧ s.rb (chA c 0x24) 8 = false ∧ s.rb (chA c 0x24) 9 = false ∧ s.demand c = true ∧
      ownHeld (s.rd (chA c 0)) = true ∧ s.interlock c = true ∧ (s.die (c / 32)).stagger = false)
    ∧ (∃ (s : State) (a : Acc) (c : Ch), ChWrites s a c 0xC ∧ (s.chState c = 2 ∨ s.chState c = 3) ∧ Alone s c ∧ s.uv (c /
      32) = false ∧ s.limp (c / 32) = false)
    ∧ (∃ (s : State) (a : Acc) (c : Ch), ChWrites s a c 0xC)
    ∧ (∃ (s : State) (a : Acc) (c : Ch), ChWrites s a c 0xC ∧ s.chState c = 0 ∧ (s.chI c).parEn = false ∧ s.uv (c / 32) =
      false ∧ s.limp (c / 32) = false ∧ s.rb (chA c 0x24) 8 = false ∧ s.rb (chA c 0x24) 9 = false ∧ s.rf (chA c 4) 1 0 = 1 ∧
      s.permit c = true ∧ s.interlock c = true ∧ (s.die (c / 32)).stagger = false)
    ∧ (∃ (s : State) (a : Acc) (c : Ch), ChWrites s a c 0xC ∧ (s.chState c = 2 ∨ s.chState c = 3) ∧ Alone s c ∧ s.uv (c /
      32) = false ∧ s.limp (c / 32) = false ∧ s.rf (chA c 4) 1 0 = 1)
    ∧ (∃ (s : State) (a : Acc) (c : Ch) (v : Word), ChWrites s a c 0x10 ∧ fld v 7 0 ≤ 200 ∧ (bit v 10 = true → chClass c ≠
      2) ∧ (bit v 17 = true → chClass c = 2) ∧ (bit v 11 = true → s.ownerOf (chA c 0) = s.ownerOf (chA (c / 32 * 32 + fld v
      16 12) 0)))
    ∧ (∃ (s : State) (a : Acc) (c : Ch) (v : Word), FarAnswers s a (c / 32) (chA c 0x10) ∧ s.mayWriteOwned (s.tagsOf a.who)
      (chA c 0) = true ∧ NoHart a ∧ 200 < fld v 7 0) :=
  ⟨⟨(wCh 7 4), mgr, 7, by decide⟩,
   ⟨(wCh 7 4), mgr, 7, by decide⟩,
   ⟨(wCh 7 3), mgr, 7, by decide⟩,
   ⟨(wChOwned 3 0 true), mgr, 3, by decide⟩,
   ⟨(wChOwned 63 3 true), mgr, 63, by decide⟩,
   ⟨(wChOwned 3 0 false), mgr, 3, by decide⟩,
   ⟨(wChOwned 3 0 false), mgr, 3, by decide⟩,
   ⟨(wChOwned 31 3 true), mgr, 31, by decide⟩,
   ⟨(wCh 5 0), mgr, 5, 0x400C8, by decide⟩,
   ⟨(wCh 5 0), mgr, 5, 201, by decide⟩⟩

/-- States and operands that meet the hypotheses of `Obligations.ProtectiveTrips`. -/
theorem meets_ProtectiveTrips :
    (∃ (s : State) (c : Ch), s.chState c = 2)
    ∧ (∃ (s : State) (c : Ch), s.conducts c = true ∧ s.rb (chA c 0x24) 10 = false)
    ∧ (∃ (s : State) (c : Ch), s.conducts c = true ∧ s.rb (chA c 0x24) 10 = true)
    ∧ (∃ (s : State) (c : Ch), s.conducts c = true ∧ s.rb (chA c 0x24) 8 = false)
    ∧ (∃ (s : State) (c : Ch) (mA : Int), s.conducts c = true ∧ s.rb (chA c 0x24) 9 = false ∧ s.rf (chA c 0x1C) 9 0 ≠ 0 ∧
      wireAmps c (s.rf (chA c 0x1C) 9 0) * wireAmps c (s.rf (chA c 0x1C) 9 0) ≤ (s.chI c).theta + ((mA : Rat) / 1000 * ((mA
      : Rat) / 1000) - (s.chI c).theta) / (1000 * (s.rf (chA c 0x1C) 27 16 : Rat)))
    ∧ (∃ (s : State) (c : Ch), s.chState c ≠ 2 ∧ s.chState c ≠ 3 ∧ s.rb (chA c 0x24) 8 = false)
    ∧ (∃ (s : State) (c : Ch) (mA : Int), s.rf (chA c 0x1C) 9 0 ≠ 0 ∧ s.rb (chA c 0x24) 9 = false ∧ (s.chI c).theta + ((mA :
      Rat) / 1000 * ((mA : Rat) / 1000) - (s.chI c).theta) / (1000 * (s.rf (chA c 0x1C) 27 16 : Rat)) < wireAmps c (s.rf
      (chA c 0x1C) 9 0) * wireAmps c (s.rf (chA c 0x1C) 9 0)) :=
  ⟨⟨(wCh 3 2), 3, by decide⟩,
   ⟨(wCh 63 3), 63, by decide⟩,
   ⟨((wCh 8 2).wb (chA 8 0x24) 10 true), 8, by decide⟩,
   ⟨(wCh 8 3), 8, by decide⟩,
   ⟨(wCh 0 3), 0, 20000000, by decide +kernel⟩,
   ⟨(wCh 8 0), 8, by decide⟩,
   ⟨(wCh 8 3), 8, 1000, by decide +kernel⟩⟩

/-- States and operands that meet the hypotheses of `Obligations.ChannelEvents`, part 1. -/
theorem meets_ChannelEvents_1 :
    (∃ (s : State) (c : Ch), s.chState c = 2)
    ∧ (∃ (s : State) (c : Ch), s.conducts c = true ∧ s.rb (chA c 0x24) 11 = false)
    ∧ (∃ (s : State) (c : Ch), s.rb (chA c 0x24) 7 = false)
    ∧ (∃ (s : State) (c : Ch), s.rb (chA c 0x24) 7 = true)
    ∧ (∃ (s : State) (c : Ch), (s.chI c).parEn = false ∧ s.chState c = 4 ∧ s.rb (chA c 0x24) 9 = true)
    ∧ (∃ (s : State) (c : Ch), s.chState c = 3 ∧ chClass c ≠ 2 ∧ s.rb (chA c 0x24) 12 = false)
    ∧ (∃ (s : State) (c : Ch), (s.chI c).goodRuns = true)
    ∧ (∃ (s : State) (c : Ch), s.chState c = 3 ∧ 1 < (s.mates c).length)
    ∧ (∃ (s : State) (c : Ch), s.chState c = 4)
    ∧ (∃ (s : State) (c : Ch), (s.chI c).parEn = false ∧ s.chState c = 4 ∧ s.startCond c = true ∧ s.retryCnt c < s.retryMax
      c ∧ (s.die (c / 32)).stagger = false) :=
  ⟨⟨(wCh 3 2), 3, by decide⟩,
   ⟨(wCh 3 2), 3, by decide⟩,
   ⟨(wCh 3 2), 3, by decide⟩,
   ⟨((wCh 3 2).wb (chA 3 0x24) 7 true), 3, by decide⟩,
   ⟨(((wCh 3 4).wf (chA 3 0x24) 9 8 3).wb (dieA 0 0) 1 true), 3, by decide⟩,
   ⟨(wCh 0 3), 0, by decide⟩,
   ⟨((wCh 0 3).setChI 0 { goodRuns := true }), 0, by decide⟩,
   ⟨((((wCh 5 3).setChI 4 { parEn := true, parMaster := 4 }).setChI 5 { parEn := true, parMaster := 4 })), 5, by decide⟩,
   ⟨(wChOwned 3 4 true), 3, by decide⟩,
   ⟨(wChOwned 3 4 true), 3, by decide⟩⟩

/-- States and operands that meet the hypotheses of `Obligations.ChannelEvents`, part 2. -/
theorem meets_ChannelEvents_2 :
    (∃ (s : State) (c : Ch), (s.chI c).parEn = false ∧ s.chState c = 4 ∧ s.startCond c = false) :=
  ⟨(wChOwned 3 4 false), 3, by decide⟩

/-- States and operands that meet the hypotheses of `Obligations.PowerDieEvents`. -/
theorem meets_PowerDieEvents :
    (∃ (s : State) (d : PDie), s.uv d = false)
    ∧ (∃ (s : State) (d : PDie), s.uv d = true)
    ∧ (∃ (s : State) (d : PDie), (s.die d).stagger = true ∧ s.uv d = false ∧ ((s.die d).slotRan = false ∨ s.staggerOrder d ≠
      []))
    ∧ (∃ (s : State) (d : PDie), (s.die d).stagger = true ∧ s.uv d = false ∧ (s.die d).slotRan = true ∧ s.staggerOrder d =
      [])
    ∧ (∃ (s : State) (d : PDie), (s.die d).reversed = false)
    ∧ (∃ (s : State) (d : PDie), (s.die d).supplied = false) :=
  ⟨⟨(wCh 40 3), 1, by decide⟩,
   ⟨((wCh 40 5).wb (dieA 1 0) 0 true), 1, by decide⟩,
   ⟨((wChOwned 40 5 true).setDie 1 { supplied := true, stagger := true, started := [33] }), 1, by decide⟩,
   ⟨(wLink.setDie 0 { stagger := true, slotRan := true, started := [2] }), 0, by decide⟩,
   ⟨wLink, 0, by decide⟩,
   ⟨{ wLink with dinLand := 0x8001 }, 1, by decide⟩⟩

/-- States and operands that meet the hypotheses of `Obligations.PowerDieMeasurement`. -/
theorem meets_PowerDieMeasurement :
    (∃ (s : State) (a : Acc) (d : PDie) (x : Sample) (l : List Sample), FarReaches s a d (dieA d 0x20000) ∧ Manager s a ∧
      (s.die d).fifo = x :: l)
    ∧ (∃ (s : State) (a : Acc) (d : PDie), FarReaches s a d (dieA d 0x20000) ∧ Manager s a ∧ (s.die d).fifo = [])
    ∧ (∃ (s : State) (a : Acc) (d : PDie), FarReaches s a d (dieA d 0x10) ∧ Manager s a)
    ∧ (∃ (s : State) (a : Acc) (d : PDie) (dec : BitVec 10), FarReaches s a d (dieA d 0x10) ∧ Manager s a ∧ dec.toNat ≤
      1000)
    ∧ (∃ (kind : Fin 5), kind.val < 2)
    ∧ (∃ (kind : Fin 5), 2 ≤ kind.val)
    ∧ (∃ (s : State) (c : Ch) (v : Int), s.rb (chA c 0x10) 17 = false ∧ 32000 < v)
    ∧ (∃ (s : State) (d : PDie) (b : Bool), (s.die d).calibrated = some b ∧ (s.die d).conv.length = 32 ∧ (s.die d).rotation
      < 32)
    ∧ (∃ (s : State) (d : PDie) (b : Bool), s.calSlot d b ≠ 0x3F)
    ∧ (∃ (s : State) (d : PDie) (b : Bool), s.calSlot d b ≠ 0x3F) :=
  ⟨⟨((wCh 3 0).setDie 0 { supplied := true, fifo := [⟨0x80000001, 7⟩, ⟨2, 8⟩] }), mgr, 0, ⟨0x80000001, 7⟩, [⟨2, 8⟩],
    by decide⟩,
   ⟨(wCh 3 0), mgr, 1, by decide⟩,
   ⟨((wCh 3 0).wr (dieA 1 0x10) 0x00550003), mgr, 1, by decide⟩,
   ⟨((wCh 3 0).wr (dieA 1 0x10) 0x00550003), mgr, 1, 1000, by decide⟩,
   ⟨0, by decide⟩,
   ⟨2, by decide⟩,
   ⟨(wCh 3 3), 3, 32001, by decide⟩,
   ⟨((wCh 3 3).setDie 1 { calibrated := some false }), 1, false, by decide⟩,
   ⟨(wCh 3 3), 1, true, by decide⟩,
   ⟨(wCh 3 3), 1, true, by decide⟩⟩

/-- States and operands that meet the hypotheses of `Obligations.DriveSources`. -/
theorem meets_DriveSources :
    (∃ (s : State) (a : Acc) (c : Ch) (v : Word), ChWrites s a c 4 ∧ (fld v 1 0 = 2 → fld v 13 8 < 16 ∧ s.dinHeldBy (fld v
      13 8) (s.ownerOf (chA c 0)) = true) ∧ (fld v 1 0 = 3 → s.lineHeldBy (fld v 13 8) c (s.ownerOf (chA c 0)) = true))
    ∧ (∃ (s : State) (a : Acc) (c : Ch) (v : Word), FarAnswers s a (c / 32) (chA c 4) ∧ s.mayWriteOwned (s.tagsOf a.who)
      (chA c 0) = true ∧ NoHart a ∧ fld v 1 0 = 3 ∧ s.lineHeldBy (fld v 13 8) c (s.ownerOf (chA c 0)) = false)
    ∧ (∃ (s : State) (ln : Line) (e : Edge) (p q : List Edge), LineLink s ln ∧ (s.line ln).queue = p ++ e :: q ∧ (∀ f ∈ p,
      f.arrived = true) ∧ e.arrived = false ∧ (∀ f ∈ q, f.at_ ≠ e.at_) ∧ (e.now = true ∨ future e.at_ s.now = false ∨ (e.at_
      - s.now).toNat < 2000))
    ∧ (∃ (s : State) (ln : Line) (e : Edge) (p q : List Edge), LineLink s ln ∧ (s.line ln).queue = p ++ e :: q ∧ (∀ f ∈ p,
      f.arrived = true) ∧ e.arrived = false ∧ (∀ f ∈ q, f.at_ ≠ e.at_) ∧ e.now = false ∧ future e.at_ s.now = true ∧ 2000 ≤
      (e.at_ - s.now).toNat)
    ∧ (∃ (s : State) (ln : Line) (e : Edge) (p q : List Edge), LineLink s ln ∧ (s.line ln).queue = p ++ e :: q ∧ (∀ f ∈ p,
      f.arrived = true) ∧ e.arrived = false ∧ (∃ f ∈ q, f.at_ = e.at_))
    ∧ (∃ (s : State) (ln : Line) (e : Edge) (q : List Edge), (s.line ln).queue = e :: q ∧ e.arrived = true ∧ reached e.at_
      s.now = true)
    ∧ (∃ (s : State) (c : Ch) (ln : Line) (e : Edge) (q : List Edge), (s.line ln).queue = e :: q ∧ e.arrived = true ∧
      e.level = true ∧ reached e.at_ s.now = true ∧ (∀ f ∈ q, f.at_ ≠ e.at_) ∧ s.lineCh ln = some c.val ∧ (s.chI c).parEn =
      false ∧ (s.chI c).barred = false ∧ s.chState c = 0 ∧ s.rf (chA c 4) 1 0 = 3 ∧ s.rf (chA c 4) 13 8 = ln ∧ s.rb (chA c
      4) 16 = false ∧ s.uv (c / 32) = false ∧ s.limp (c / 32) = false ∧ s.rf (chA c 0x24) 9 8 = 0 ∧ s.permit c = true ∧
      s.interlock c = true ∧ (s.die (c / 32)).stagger = false)
    ∧ (∃ (s : State) (ln : Line), s.rf (dlA ln 4) 23 16 ≠ 0 ∧ (s.line ln).timedOut = false)
    ∧ (∃ (s : State) (a : Acc) (c : Ch) (v : Word), ChWrites s a c 8 ∧ fld v 28 16 ≤ 6000 ∧ (fld v 1 0 = 3 → s.dinHeldBy
      (fld v 7 4) (s.ownerOf (chA c 0)) = true)) :=
  ⟨⟨(wChOwned 3 0 true), mgr, 3, 1, by decide⟩,
   ⟨(wChOwned 3 0 true), mgr, 3, 0x903, by decide⟩,
   ⟨(wLink.setLine 9 { queue := [⟨0, true, true, false⟩] }), 9, ⟨0, true, true, false⟩, [], [], by decide⟩,
   ⟨(wLink.setLine 9 { queue := [⟨2000, true, false, false⟩] }), 9, ⟨2000, true, false, false⟩, [], [], by decide⟩,
   ⟨(wLink.setLine 9 { queue := [⟨2000, true, false, false⟩, ⟨2000, false, false, false⟩] }), 9, ⟨2000, true, false, false⟩,
     [], [⟨2000, false, false, false⟩], by decide⟩,
   ⟨(wLink.setLine 9 { queue := [⟨0, true, false, true⟩] }), 9, ⟨0, true, false, true⟩, [], by decide⟩,
   ⟨((((wChOwned 35 0 true).wr (dlA 9 0) 0x80A30100).wr (chA 35 4) 0x903).setLine 9 { queue := [⟨0, true, false, true⟩] }),
     35, 9, ⟨0, true, false, true⟩, [], by decide⟩,
   ⟨(wLink.wr (dlA 9 4) 0x81050000), 9, by decide⟩,
   ⟨(wChOwned 3 0 true), mgr, 3, 0x17700002, by decide⟩⟩

/-- States and operands that meet the hypotheses of `Obligations.SenseInputs`. -/
theorem meets_SenseInputs :
    (∃ (s : State) (a : Acc) (n : Fin 32) (v : Word), FarReaches s a 2 (sinA n 4) ∧ s.mayWriteOwned (s.tagsOf a.who) (sinA n
      0) = true ∧ fld v 5 4 < 3 ∧ fld v 2 0 ≠ 0 ∧ fld v 23 16 ≠ 0 ∧ 1 ≤ fld v 15 8 ∧ fld v 15 8 ≤ 200)
    ∧ (∃ (s : State) (a : Acc) (n : Fin 32) (v : Word), FarAnswers s a 2 (sinA n 4) ∧ NoHart a ∧ s.mayWriteOwned (s.tagsOf
      a.who) (sinA n 0) = true ∧ fld v 5 4 = 3)
    ∧ (∃ (s : State) (a : Acc) (x : Sample) (l : List Sample), FarReaches s a 2 (frontBase + 0x20000) ∧ Manager s a ∧
      s.front.fifo = x :: l)
    ∧ (∃ (s : State) (a : Acc), FarReaches s a 2 (frontBase + 0x20000) ∧ Manager s a ∧ s.front.fifo = [])
    ∧ (∃ (s : State) (a : Acc), FarReaches s a 2 (frontBase + 0x2000) ∧ Manager s a) :=
  ⟨⟨wLink, mgr, 9, 0x05140123, by decide⟩,
   ⟨wLink, mgr, 9, 0x05140233, by decide⟩,
   ⟨{ wLink with front := { fifo := [⟨5, 6⟩] } }, mgr, ⟨5, 6⟩, [], by decide⟩,
   ⟨wLink, mgr, by decide⟩,
   ⟨(wLink.wr (frontBase + 0x2000) 0x00FF0007), mgr, by decide⟩⟩

/-- States and operands that meet the hypotheses of `Obligations.OffDiagnosticsAndLimp`. -/
theorem meets_OffDiagnosticsAndLimp :
    (∃ (s : State) (c : Ch), s.rb (chA c 0x48) 0 = true ∧ s.chState c = 0 ∧ (s.die (c / 32)).probe = none)
    ∧ (∃ (s : State) (c : Ch), s.rb (chA c 0x48) 0 = true ∧ (4 ≤ s.chState c ∧ s.chState c ≤ 6 ∨ s.chState c = 0 ∧ (s.die (c
      / 32)).probe ≠ none))
    ∧ (∃ (s : State) (c : Ch), (s.chI c).pullUp = true ∧ s.chState c = 0 ∧ s.rb (chA c 0x48) 0 = true)
    ∧ (∃ (s : State) (c : Ch), (s.chI c).pullUp = true ∧ (s.chState c ≠ 0 ∨ s.rb (chA c 0x48) 0 = false))
    ∧ (∃ (s : State) (c : Ch) (d : PDie) (n : Nat), s.limp d = true ∧ c.val / 32 = d.val ∧ s.rf (chA c 8) 1 0 = 1 ∧ s.rf
      (chA c 8) 28 16 ≠ 0 ∧ s.rf (chA c 8) 28 16 ≤ n ∧ (s.chI c).holdOver = false)
    ∧ (∃ (s : State) (a : Acc) (d : PDie), FarReaches s a d (dieA d 0x100) ∧ Manager s a ∧ s.limp d = true ∧ (s.die
      d).loadFailed = false)
    ∧ (∃ (s : State) (a : Acc) (d : PDie), FarReaches s a d (dieA d 0x100) ∧ Manager s a ∧ (s.limp d = false ∨ (s.die
      d).loadFailed = true)) :=
  ⟨⟨((wCh 3 0).wr (chA 3 0x48) 1), 3, by decide⟩,
   ⟨((wCh 3 4).wr (chA 3 0x48) 0x10001), 3, by decide⟩,
   ⟨(((wCh 3 0).wr (chA 3 0x48) 0x10001).setChI 3 { pullUp := true, sink := false, shortCnt := 15 }), 3, by decide⟩,
   ⟨((wCh 3 1).setChI 3 { pullUp := true, openCnt := 2 }), 3, by decide⟩,
   ⟨((((wCh 40 3).wb (dieA 1 0) 1 true).wr (chA 40 8) 0x00640001).setChI 40 { held := true }), 40, 1, 100, by decide⟩,
   ⟨((((wCh 40 3).wb (dieA 1 0) 1 true).setChI 40 { held := true })), mgr, 1, by decide⟩,
   ⟨(wCh 40 3), mgr, 1, by decide⟩⟩

/-- States and operands that meet the hypotheses of `Obligations.LoadTasting`, part 1. -/
theorem meets_LoadTasting_1 :
    (∃ (s : State) (a : Acc) (c : Ch), ChWrites s a c 0x60 ∧ s.rf (chA c 0x60) 3 2 ≠ 3 ∧ s.chState c = 0 ∧ s.demand c =
      false ∧ c.val ∉ (s.die (c / 32)).tasteQ ∧ (s.die (c / 32)).probe ≠ some c.val)
    ∧ (∃ (s : State) (a : Acc) (c : Ch), ChWrites s a c 0x60 ∧ s.rf (chA c 0x60) 3 2 ≠ 3 ∧ (c.val ∈ (s.die (c / 32)).tasteQ
      ∨ (s.die (c / 32)).probe = some c.val))
    ∧ (∃ (s : State) (a : Acc) (c : Ch), FarAnswers s a (c / 32) (chA c 0x60) ∧ s.mayWriteOwned (s.tagsOf a.who) (chA c 0) =
      true ∧ NoHart a ∧ (s.chState c ≠ 0 ∨ s.demand c = true) ∧ s.rf (chA c 0x60) 3 2 ≠ 3 ∧ c.val ∉ (s.die (c / 32)).tasteQ
      ∧ (s.die (c / 32)).probe ≠ some c.val)
    ∧ (∃ (s : State) (a : Acc) (c : Ch), ChWrites s a c 0x60 ∧ s.rf (chA c 0x60) 3 2 ≠ 3)
    ∧ (∃ (s : State) (c : Ch) (d : PDie) (l : List Nat), s.uv d = false ∧ (s.die d).probe = none ∧ (s.die d).tasteQ = c.val
      :: l ∧ s.chState c = 0)
    ∧ (∃ (s : State) (c : Ch) (d : PDie) (z : Int), (s.die (c / 32)).probe = some c.val ∧ d.val = c.val / 32 ∧ (s.die
      d).tasteOver = false ∧ z < 2250)
    ∧ (∃ (s : State) (c : Ch) (d : PDie) (z : Int), (s.die (c / 32)).probe = some c.val ∧ d.val = c.val / 32 ∧ (s.die
      d).tasteOver = false ∧ 2750 < z)
    ∧ (∃ (z : Int), 2250 ≤ z ∧ z ≤ 2750)
    ∧ (∃ (s : State) (c : Ch) (d : PDie), (s.die (c / 32)).probe = some c.val ∧ d.val = c.val / 32 ∧ (s.die d).tasteOver =
      false)
    ∧ (∃ (s : State) (c : Ch) (d : PDie), (s.die (c / 32)).probe = some c.val ∧ d.val = c.val / 32 ∧ (s.die d).tasteOver =
      false ∧ (s.die d).delimiter = false) :=
  ⟨⟨(wCh 3 0), mgr, 3, by decide⟩,
   ⟨((wCh 3 0).setDie 0 { supplied := true, tasteQ := [2, 3] }), mgr, 3, by decide⟩,
   ⟨(wCh 3 3), mgr, 3, by decide⟩,
   ⟨((wCh 3 0).setDie 0 { supplied := true, tasteQ := [2, 3] }), mgr, 3, by decide⟩,
   ⟨(((wCh 3 0).setChI 9 { pullUp := true }).setDie 0 { supplied := true, tasteQ := [3, 4] }), 3, 0, [4], by decide⟩,
   ⟨((wCh 3 1).setDie 0 { supplied := true, probe := some 3 }), 3, 0, 2249, by decide⟩,
   ⟨((wCh 3 1).setDie 0 { supplied := true, probe := some 3 }), 3, 0, 2751, by decide⟩,
   ⟨2250, by decide⟩,
   ⟨((wCh 3 1).setDie 0 { supplied := true, probe := some 3 }), 3, 0, by decide⟩,
   ⟨((wCh 3 1).setDie 0 { supplied := true, probe := some 3 }), 3, 0, by decide⟩⟩

/-- States and operands that meet the hypotheses of `Obligations.LoadTasting`, part 2. -/
theorem meets_LoadTasting_2 :
    (∃ (s : State) (c : Ch) (d : PDie), (s.die (c / 32)).probe = some c.val ∧ d.val = c.val / 32 ∧ (s.die d).tasteOver =
      false)
    ∧ (∃ (s : State) (c : Ch) (d : PDie) (f : TagFrame), (s.die (c / 32)).probe = some c.val ∧ d.val = c.val / 32 ∧ (s.die
      d).tasteOver = false ∧ (s.die d).delimiter = true ∧ s.rb (chA c 0x60) 5 = false ∧ f.runsOk = true ∧ tagCrc f =
      f.crc.toNat)
    ∧ (∃ (s : State) (c : Ch) (d : PDie) (f : TagFrame), (s.die (c / 32)).probe = some c.val ∧ d.val = c.val / 32 ∧ (s.die
      d).tasteOver = false ∧ (s.die d).delimiter = true ∧ tagCrc f ≠ f.crc.toNat ∧ s.rf (chA c 0x60) 9 8 ≤ s.rf (chA c 0x64)
      15 8 ∧ s.rf (chA c 0x64) 15 8 < 255)
    ∧ (∃ (s : State) (c : Ch) (d : PDie), (s.die (c / 32)).probe = some c.val ∧ d.val = c.val / 32 ∧ (s.die d).tasteOver =
      false ∧ (s.die d).delimiter = true)
    ∧ (∃ (s : State) (c : Ch) (d : PDie), (s.die (c / 32)).probe = some c.val ∧ d.val = c.val / 32 ∧ (s.die d).tasteOver =
      true)
    ∧ (∃ (s : State) (c : Ch) (d : PDie), (s.die (c / 32)).probe = some c.val ∧ d.val = c.val / 32 ∧ (s.die d).tasteOver =
      true ∧ (s.chI c).parEn = false ∧ s.cfgWaits c = false ∧ s.demand c = false) :=
  ⟨⟨((wCh 3 1).setDie 0 { supplied := true, probe := some 3 }), 3, 0, by decide +kernel⟩,
   ⟨((wCh 3 1).setDie 0 { supplied := true, probe := some 3, delimiter := true }), 3, 0, ⟨0x1122334455667788, 0x1234,
     BitVec.ofNat 8 (tagCrc ⟨0x1122334455667788, 0x1234, 0, true⟩), true⟩, by decide +kernel⟩,
   ⟨(((wCh 3 1).wf (chA 3 0x64) 15 8 1).setDie 0 { supplied := true, probe := some 3, delimiter := true }), 3, 0,
     ⟨0x1122334455667788, 0x1234, BitVec.ofNat 8 (tagCrc ⟨0x1122334455667788, 0x1234, 0, true⟩ + 1), true⟩,
     by decide +kernel⟩,
   ⟨((((wCh 3 1).wb (chA 3 0x60) 5 true).setChI 3 { prevGood := some (0x1122334455667788, 0x1234) }).setDie 0
     { supplied := true, probe := some 3, delimiter := true }), 3, 0, by decide⟩,
   ⟨((wCh 3 1).setDie 0 { supplied := true, probe := some 3, tasteOver := true }), 3, 0, by decide⟩,
   ⟨((wCh 3 1).setDie 0 { supplied := true, probe := some 3, tasteOver := true }), 3, 0, by decide⟩⟩

/-- States and operands that meet the hypotheses of `Obligations.EngineArithmetic`, part 1. -/
theorem meets_EngineArithmetic_1 :
    (∃ (s : State) (e : Eng) (u : Thr) (d a b : QReg) (x y : Word), (s.qreg e u a = x ∧ s.qreg e u b = y) ∧ (Issues s e u
      (qA 0 d a b 0)))
    ∧ (∃ (s : State) (e : Eng) (u : Thr) (d a b : QReg) (x y : Word), (s.qreg e u a = x ∧ s.qreg e u b = y) ∧ (Issues s e u
      (qA 0 d a b 1)))
    ∧ (∃ (s : State) (e : Eng) (u : Thr) (d a b : QReg) (x y : Word), (s.qreg e u a = x ∧ s.qreg e u b = y) ∧ (Issues s e u
      (qA 0 d a b 2)))
    ∧ (∃ (s : State) (e : Eng) (u : Thr) (d a b : QReg) (x y : Word), (s.qreg e u a = x ∧ s.qreg e u b = y) ∧ (Issues s e u
      (qA 1 d a b 0)))
    ∧ (∃ (s : State) (e : Eng) (u : Thr) (d a b : QReg) (x y : Word), (s.qreg e u a = x ∧ s.qreg e u b = y) ∧ (Issues s e u
      (qA 1 d a b 1)))
    ∧ (∃ (s : State) (e : Eng) (u : Thr) (d a b : QReg) (x y : Word), (s.qreg e u a = x ∧ s.qreg e u b = y) ∧ (Issues s e u
      (qA 1 d a b 2)))
    ∧ (∃ (s : State) (e : Eng) (u : Thr) (d a b : QReg) (x y : Word), (s.qreg e u a = x ∧ s.qreg e u b = y) ∧ (Issues s e u
      (qA 8 d a b 0)))
    ∧ (∃ (s : State) (e : Eng) (u : Thr) (d a b : QReg) (x y : Word), (s.qreg e u a = x ∧ s.qreg e u b = y) ∧ (Issues s e u
      (qA 8 d a b 1)))
    ∧ (∃ (s : State) (e : Eng) (u : Thr) (d a b : QReg) (x y : Word), (s.qreg e u a = x ∧ s.qreg e u b = y) ∧ (Issues s e u
      (qA 8 d a b 2)))
    ∧ (∃ (s : State) (e : Eng) (u : Thr) (d a b : QReg) (x y : Word), (s.qreg e u a = x ∧ s.qreg e u b = y) ∧ (Issues s e u
      (qA 9 d a b 0))) :=
  ⟨⟨(wThr (qA 0 5 1 2 0) 7 5), 3, 2, 5, 1, 2, 7, 5, by decide⟩,
   ⟨(wThr (qA 0 5 1 2 1) 7 5), 3, 2, 5, 1, 2, 7, 5, by decide⟩,
   ⟨(wThr (qA 0 5 1 2 2) 7 5), 3, 2, 5, 1, 2, 7, 5, by decide⟩,
   ⟨(wThr (qA 1 5 1 2 0) 7 5), 3, 2, 5, 1, 2, 7, 5, by decide⟩,
   ⟨(wThr (qA 1 5 1 2 1) 7 5), 3, 2, 5, 1, 2, 7, 5, by decide⟩,
   ⟨(wThr (qA 1 5 1 2 2) 7 5), 3, 2, 5, 1, 2, 7, 5, by decide⟩,
   ⟨(wThr (qA 8 5 1 2 0) 7 5), 3, 2, 5, 1, 2, 7, 5, by decide⟩,
   ⟨(wThr (qA 8 5 1 2 1) 0xFFFFFFFF 2), 3, 2, 5, 1, 2, 0xFFFFFFFF, 2, by decide⟩,
   ⟨(wThr (qA 8 5 1 2 2) 0xFFFFFFFF 0xFFFFFFFF), 3, 2, 5, 1, 2, 0xFFFFFFFF, 0xFFFFFFFF, by decide⟩,
   ⟨(wThr (qA 9 5 1 2 0) 7 5), 3, 2, 5, 1, 2, 7, 5, by decide⟩⟩

/-- States and operands that meet the hypotheses of `Obligations.EngineArithmetic`, part 2. -/
theorem meets_EngineArithmetic_2 :
    (∃ (s : State) (e : Eng) (u : Thr) (d a b : QReg) (x y : Word), (s.qreg e u a = x ∧ s.qreg e u b = y) ∧ (Issues s e u
      (qA 9 d a b 1)))
    ∧ (∃ (s : State) (e : Eng) (u : Thr) (d a b : QReg) (x y : Word), (s.qreg e u a = x ∧ s.qreg e u b = y) ∧ (Issues s e u
      (qA 9 d a b 2)))
    ∧ (∃ (s : State) (e : Eng) (u : Thr) (d a b : QReg) (x y : Word), (s.qreg e u a = x ∧ s.qreg e u b = y) ∧ (Issues s e u
      (qA 9 d a b 3)))
    ∧ (∃ (s : State) (e : Eng) (u : Thr) (d a b : QReg) (x y : Word), (s.qreg e u a = x ∧ s.qreg e u b = y) ∧ (Issues s e u
      (qA 0xA d a 0 0)))
    ∧ (∃ (s : State) (e : Eng) (u : Thr) (d a b : QReg) (x y : Word), (s.qreg e u a = x ∧ s.qreg e u b = y) ∧ (Issues s e u
      (qA 0xA d a 0 1)))
    ∧ (∃ (s : State) (e : Eng) (u : Thr) (d a b : QReg) (x y : Word), (s.qreg e u a = x ∧ s.qreg e u b = y) ∧ (Issues s e u
      (qA 0xA d a 0 2)))
    ∧ (∃ (s : State) (e : Eng) (u : Thr) (d a b : QReg) (x y : Word), (s.qreg e u a = x ∧ s.qreg e u b = y) ∧ (Issues s e u
      (qA 0xA d a 0 3))) :=
  ⟨⟨(wThr (qA 9 5 1 2 1) 7 5), 3, 2, 5, 1, 2, 7, 5, by decide⟩,
   ⟨(wThr (qA 9 5 1 2 2) 7 5), 3, 2, 5, 1, 2, 7, 5, by decide⟩,
   ⟨(wThr (qA 9 5 1 2 3) 7 5), 3, 2, 5, 1, 2, 7, 5, by decide⟩,
   ⟨(wThr (qA 0xA 5 1 0 0) 7 5), 3, 2, 5, 1, 2, 7, 5, by decide⟩,
   ⟨(wThr (qA 0xA 5 1 0 1) 7 5), 3, 2, 5, 1, 2, 7, 5, by decide⟩,
   ⟨(wThr (qA 0xA 5 1 0 2) 7 5), 3, 2, 5, 1, 2, 7, 5, by decide⟩,
   ⟨(wThr (qA 0xA 5 1 0 3) 7 5), 3, 2, 5, 1, 2, 7, 5, by decide⟩⟩

/-- States and operands that meet the hypotheses of `Obligations.EngineLogic`, part 1. -/
theorem meets_EngineLogic_1 :
    (∃ (s : State) (e : Eng) (u : Thr) (d a b : QReg) (x y : Word), (s.qreg e u a = x ∧ s.qreg e u b = y) ∧ (Issues s e u
      (qA 2 d a b 0)))
    ∧ (∃ (s : State) (e : Eng) (u : Thr) (d a b : QReg) (x y : Word), (s.qreg e u a = x ∧ s.qreg e u b = y) ∧ (Issues s e u
      (qA 2 d a b 1)))
    ∧ (∃ (s : State) (e : Eng) (u : Thr) (d a b : QReg) (x y : Word), (s.qreg e u a = x ∧ s.qreg e u b = y) ∧ (Issues s e u
      (qA 3 d a b 0)))
    ∧ (∃ (s : State) (e : Eng) (u : Thr) (d a b : QReg) (x y : Word), (s.qreg e u a = x ∧ s.qreg e u b = y) ∧ (Issues s e u
      (qA 3 d a b 1)))
    ∧ (∃ (s : State) (e : Eng) (u : Thr) (d a b : QReg) (x y : Word), (s.qreg e u a = x ∧ s.qreg e u b = y) ∧ (Issues s e u
      (qA 4 d a b 0)))
    ∧ (∃ (s : State) (e : Eng) (u : Thr) (d a b : QReg) (x y : Word), (s.qreg e u a = x ∧ s.qreg e u b = y) ∧ (Issues s e u
      (qA 4 d a b 1)))
    ∧ (∃ (s : State) (e : Eng) (u : Thr) (d a b : QReg) (x y : Word), (s.qreg e u a = x ∧ s.qreg e u b = y) ∧ (Issues s e u
      (qA 6 d a b 0)))
    ∧ (∃ (s : State) (e : Eng) (u : Thr) (d a b : QReg) (x y : Word), (s.qreg e u a = x ∧ s.qreg e u b = y) ∧ (Issues s e u
      (qA 6 d a b 1)))
    ∧ (∃ (s : State) (e : Eng) (u : Thr) (d a b : QReg) (x y : Word), (s.qreg e u a = x ∧ s.qreg e u b = y) ∧ (Issues s e u
      (qA 6 d a b 2)))
    ∧ (∃ (s : State) (e : Eng) (u : Thr) (d a b : QReg) (x y : Word), (s.qreg e u a = x ∧ s.qreg e u b = y) ∧ (Issues s e u
      (qA 6 d a b 3))) :=
  ⟨⟨(wThr (qA 2 5 1 2 0) 7 5), 3, 2, 5, 1, 2, 7, 5, by decide⟩,
   ⟨(wThr (qA 2 5 1 2 1) 7 5), 3, 2, 5, 1, 2, 7, 5, by decide⟩,
   ⟨(wThr (qA 3 5 1 2 0) 7 5), 3, 2, 5, 1, 2, 7, 5, by decide⟩,
   ⟨(wThr (qA 3 5 1 2 1) 7 5), 3, 2, 5, 1, 2, 7, 5, by decide⟩,
   ⟨(wThr (qA 4 5 1 2 0) 7 5), 3, 2, 5, 1, 2, 7, 5, by decide⟩,
   ⟨(wThr (qA 4 5 1 2 1) 7 5), 3, 2, 5, 1, 2, 7, 5, by decide⟩,
   ⟨(wThr (qA 6 5 1 2 0) 7 5), 3, 2, 5, 1, 2, 7, 5, by decide⟩,
   ⟨(wThr (qA 6 5 1 2 1) 7 5), 3, 2, 5, 1, 2, 7, 5, by decide⟩,
   ⟨(wThr (qA 6 5 1 2 2) 7 5), 3, 2, 5, 1, 2, 7, 5, by decide⟩,
   ⟨(wThr (qA 6 5 1 2 3) 7 5), 3, 2, 5, 1, 2, 7, 5, by decide⟩⟩

/-- States and operands that meet the hypotheses of `Obligations.EngineLogic`, part 2. -/
theorem meets_EngineLogic_2 :
    (∃ (s : State) (e : Eng) (u : Thr) (d a b : QReg) (x y : Word), (s.qreg e u a = x ∧ s.qreg e u b = y) ∧ (Issues s e u
      (qA 7 d a b 0)))
    ∧ (∃ (s : State) (e : Eng) (u : Thr) (d a b : QReg) (x y : Word), (s.qreg e u a = x ∧ s.qreg e u b = y) ∧ (Issues s e u
      (qA 7 d a b 1)))
    ∧ (∃ (s : State) (e : Eng) (u : Thr) (d a b : QReg) (x y : Word), (s.qreg e u a = x ∧ s.qreg e u b = y) ∧ (Issues s e u
      (qA 5 d a b 0)))
    ∧ (∃ (s : State) (e : Eng) (u : Thr) (d a b : QReg) (x y : Word), (s.qreg e u a = x ∧ s.qreg e u b = y) ∧ (Issues s e u
      (qA 5 d a b 1)))
    ∧ (∃ (s : State) (e : Eng) (u : Thr) (d a b : QReg) (x y : Word), (s.qreg e u a = x ∧ s.qreg e u b = y) ∧ (Issues s e u
      (qA 5 d a b 2)))
    ∧ (∃ (s : State) (e : Eng) (u : Thr) (d a b : QReg) (x y : Word), (s.qreg e u a = x ∧ s.qreg e u b = y) ∧ (Issues s e u
      (qA 5 d a b 3)))
    ∧ (∃ (s : State) (e : Eng) (u : Thr) (d a b : QReg) (x y : Word), (s.qreg e u a = x ∧ s.qreg e u b = y) ∧ (Issues s e u
      (qA 0xA d a 0 4)))
    ∧ (∃ (s : State) (e : Eng) (u : Thr) (d a b : QReg) (x y : Word), (s.qreg e u a = x ∧ s.qreg e u b = y) ∧ (Issues s e u
      (qA 0xA d a 0 5)))
    ∧ (∃ (s : State) (e : Eng) (u : Thr) (d a b : QReg) (x y : Word), (s.qreg e u a = x ∧ s.qreg e u b = y) ∧ (Issues s e u
      (qA 0xA d a 0 6)))
    ∧ (∃ (s : State) (e : Eng) (u : Thr) (d a b : QReg) (x y : Word), (s.qreg e u a = x ∧ s.qreg e u b = y) ∧ (Issues s e u
      (qA 0xA d a 0 7))) :=
  ⟨⟨(wThr (qA 7 5 1 2 0) 7 5), 3, 2, 5, 1, 2, 7, 5, by decide⟩,
   ⟨(wThr (qA 7 5 1 2 1) 7 5), 3, 2, 5, 1, 2, 7, 5, by decide⟩,
   ⟨(wThr (qA 5 5 1 2 0) 7 5), 3, 2, 5, 1, 2, 7, 5, by decide⟩,
   ⟨(wThr (qA 5 5 1 2 1) 7 5), 3, 2, 5, 1, 2, 7, 5, by decide⟩,
   ⟨(wThr (qA 5 5 1 2 2) 7 5), 3, 2, 5, 1, 2, 7, 5, by decide⟩,
   ⟨(wThr (qA 5 5 1 2 3) 7 5), 3, 2, 5, 1, 2, 7, 5, by decide⟩,
   ⟨(wThr (qA 0xA 5 1 0 4) 7 5), 3, 2, 5, 1, 2, 7, 5, by decide⟩,
   ⟨(wThr (qA 0xA 5 1 0 5) 7 5), 3, 2, 5, 1, 2, 7, 5, by decide⟩,
   ⟨(wThr (qA 0xA 5 1 0 6) 7 5), 3, 2, 5, 1, 2, 7, 5, by decide⟩,
   ⟨(wThr (qA 0xA 5 1 0 7) 7 5), 3, 2, 5, 1, 2, 7, 5, by decide⟩⟩

/-- States and operands that meet the hypotheses of `Obligations.EngineLogic`, part 3. -/
theorem meets_EngineLogic_3 :
    (∃ (s : State) (e : Eng) (u : Thr) (d a b : QReg) (x y : Word), (s.qreg e u a = x ∧ s.qreg e u b = y) ∧ (Issues s e u
      (qA 0xA d a 0 8)))
    ∧ (∃ (s : State) (e : Eng) (u : Thr) (d a b : QReg) (x y : Word), (s.qreg e u a = x ∧ s.qreg e u b = y) ∧ (Issues s e u
      (qA 0xA d a 0 9)))
    ∧ (∃ (s : State) (e : Eng) (u : Thr) (d a b : QReg) (x y : Word), (s.qreg e u a = x ∧ s.qreg e u b = y) ∧ (Issues s e u
      (qA 0xA d a 0 10)))
    ∧ (∃ (s : State) (e : Eng) (u : Thr) (a b : QReg) (x y : Word), (s.qreg e u a = x ∧ s.qreg e u b = y) ∧ (Issues s e u
      (qA 0xC 0 a b 0)))
    ∧ (∃ (s : State) (e : Eng) (u : Thr) (a b : QReg) (x y : Word), (s.qreg e u a = x ∧ s.qreg e u b = y) ∧ (Issues s e u
      (qA 0xC 0 a b 1))) :=
  ⟨⟨(wThr (qA 0xA 5 1 0 8) 7 5), 3, 2, 5, 1, 2, 7, 5, by decide⟩,
   ⟨(wThr (qA 0xA 5 1 0 9) 7 5), 3, 2, 5, 1, 2, 7, 5, by decide⟩,
   ⟨(wThr (qA 0xA 5 1 0 10) 7 5), 3, 2, 5, 1, 2, 7, 5, by decide⟩,
   ⟨(wThr (qA 0xC 0 1 2 0) 3 4), 3, 2, 1, 2, 3, 4, by decide⟩,
   ⟨(wThr (qA 0xC 0 1 2 1) 3 4), 3, 2, 1, 2, 3, 4, by decide⟩⟩

/-- States and operands that meet the hypotheses of `Obligations.EngineImmediate`, part 1. -/
theorem meets_EngineImmediate_1 :
    (∃ (s : State) (e : Eng) (u : Thr) (d a b : QReg) (x y : Word) (imm : BitVec 18), (s.qreg e u a = x ∧ s.qreg e u b = y)
      ∧ (Issues s e u (qI 0x10 d a imm.toNat)))
    ∧ (∃ (s : State) (e : Eng) (u : Thr) (d a b : QReg) (x y : Word) (imm : BitVec 18), (s.qreg e u a = x ∧ s.qreg e u b =
      y) ∧ (Issues s e u (qI 0x11 d a imm.toNat)))
    ∧ (∃ (s : State) (e : Eng) (u : Thr) (d a b : QReg) (x y : Word) (imm : BitVec 18), (s.qreg e u a = x ∧ s.qreg e u b =
      y) ∧ (Issues s e u (qI 0x12 d a imm.toNat)))
    ∧ (∃ (s : State) (e : Eng) (u : Thr) (d a b : QReg) (x y : Word) (imm : BitVec 18), (s.qreg e u a = x ∧ s.qreg e u b =
      y) ∧ (Issues s e u (qI 0x13 d a imm.toNat)))
    ∧ (∃ (s : State) (e : Eng) (u : Thr) (d a b : QReg) (x y : Word) (k : Fin 32), (s.qreg e u a = x ∧ s.qreg e u b = y) ∧
      (Issues s e u (qI 0x14 d a (0 + k.val))))
    ∧ (∃ (s : State) (e : Eng) (u : Thr) (d a b : QReg) (x y : Word) (k : Fin 32), (s.qreg e u a = x ∧ s.qreg e u b = y) ∧
      (Issues s e u (qI 0x14 d a (32 + k.val))))
    ∧ (∃ (s : State) (e : Eng) (u : Thr) (d a b : QReg) (x y : Word) (k : Fin 32), (s.qreg e u a = x ∧ s.qreg e u b = y) ∧
      (Issues s e u (qI 0x14 d a (64 + k.val))))
    ∧ (∃ (s : State) (e : Eng) (u : Thr) (d a b : QReg) (x y : Word) (k : Fin 32), (s.qreg e u a = x ∧ s.qreg e u b = y) ∧
      (Issues s e u (qI 0x14 d a (96 + k.val))))
    ∧ (∃ (s : State) (e : Eng) (u : Thr) (d a b : QReg) (x y : Word) (imm : BitVec 18), (s.qreg e u a = x ∧ s.qreg e u b =
      y) ∧ (Issues s e u (qI 0x15 d 0 imm.toNat)))
    ∧ (∃ (s : State) (e : Eng) (u : Thr) (a b : QReg) (x y : Word) (imm : BitVec 18), (s.qreg e u a = x ∧ s.qreg e u b = y)
      ∧ (Issues s e u (qI 0x16 0 a imm.toNat))) :=
  ⟨⟨(wThr (qI 0x10 5 1 0x3FFFF) 7 5), 3, 2, 5, 1, 2, 7, 5, 0x3FFFF, by decide⟩,
   ⟨(wThr (qI 0x11 5 1 0x3FFFF) 7 5), 3, 2, 5, 1, 2, 7, 5, 0x3FFFF, by decide⟩,
   ⟨(wThr (qI 0x12 5 1 0x3FFFF) 7 5), 3, 2, 5, 1, 2, 7, 5, 0x3FFFF, by decide⟩,
   ⟨(wThr (qI 0x13 5 1 0x3FFFF) 7 5), 3, 2, 5, 1, 2, 7, 5, 0x3FFFF, by decide⟩,
   ⟨(wThr (qI 0x14 5 1 2) 7 5), 3, 2, 5, 1, 2, 7, 5, 2, by decide⟩,
   ⟨(wThr (qI 0x14 5 1 34) 7 5), 3, 2, 5, 1, 2, 7, 5, 2, by decide⟩,
   ⟨(wThr (qI 0x14 5 1 66) 7 5), 3, 2, 5, 1, 2, 7, 5, 2, by decide⟩,
   ⟨(wThr (qI 0x14 5 1 98) 7 5), 3, 2, 5, 1, 2, 7, 5, 2, by decide⟩,
   ⟨(wThr (qI 0x15 5 0 0x2ABCD) 7 5), 3, 2, 5, 1, 2, 7, 5, 0x2ABCD, by decide⟩,
   ⟨(wThr (qI 0x16 0 1 0x3FFFF) 7 5), 3, 2, 1, 2, 7, 5, 0x3FFFF, by decide⟩⟩

/-- States and operands that meet the hypotheses of `Obligations.EngineImmediate`, part 2. -/
theorem meets_EngineImmediate_2 :
    (∃ (s : State) (e : Eng) (u : Thr) (d a b : QReg) (x y : Word) (imm : BitVec 18), (s.qreg e u a = x ∧ s.qreg e u b = y)
      ∧ (Issues s e u (qI 0x17 d a imm.toNat)))
    ∧ (∃ (s : State) (e : Eng) (u : Thr) (d a b : QReg) (x y : Word) (k : Fin 32), (s.qreg e u a = x ∧ s.qreg e u b = y) ∧
      (Issues s e u (qA 8 d a b (3 + k.val * 16))))
    ∧ (∃ (s : State) (e : Eng) (u : Thr) (d a b : QReg) (x y : Word) (k : Fin 32), (s.qreg e u a = x ∧ s.qreg e u b = y) ∧
      (Issues s e u (qA 0xB d a b (k.val * 16))))
    ∧ (∃ (s : State) (e : Eng) (u : Thr) (d a b : QReg) (x y : Word) (k : Fin 32), (s.qreg e u a = x ∧ s.qreg e u b = y) ∧
      (Issues s e u (qA 0xB d a b (1 + k.val * 16))))
    ∧ (∃ (s : State) (e : Eng) (u : Thr) (d a b : QReg) (x y : Word) (p : Fin 4) (n : Fin 3) (r : Bool), (s.qreg e u a = x ∧
      s.qreg e u b = y) ∧ (Issues s e u (qA 0xD d a b (p.val + n.val * 4 + r.toNat * 16))))
    ∧ (∃ (s : State) (e : Eng) (u : Thr) (d a b : QReg) (x y : Word) (c : Fin 15), (s.qreg e u a = x ∧ s.qreg e u b = y) ∧
      (Issues s e u (qA 0xE d a b c.val))) :=
  ⟨⟨(wThr (qI 0x17 5 1 0x3FFFF) 7 5), 3, 2, 5, 1, 2, 7, 5, 0x3FFFF, by decide⟩,
   ⟨(wThr (qA 8 5 1 2 147) 7 5), 3, 2, 5, 1, 2, 7, 5, 9, by decide⟩,
   ⟨(wThr (qA 0xB 5 1 2 48) 200 0), 3, 2, 5, 1, 2, 200, 0, 3, by decide⟩,
   ⟨(wThr (qA 0xB 5 1 2 49) 200 0), 3, 2, 5, 1, 2, 200, 0, 3, by decide⟩,
   ⟨(wThr (qA 0xD 5 1 2 23) 0xFFFFFFFF 0x1234), 3, 2, 5, 1, 2, 0xFFFFFFFF, 0x1234, 3, 1, true, by decide⟩,
   ⟨(wThr (qA 0xE 5 1 2 0) 7 5), 3, 2, 5, 1, 2, 7, 5, 0, by decide⟩⟩

/-- States and operands that meet the hypotheses of `Obligations.EngineMemory`. -/
theorem meets_EngineMemory :
    (∃ (s : State) (e : Eng) (u : Thr) (d a : QReg) (imm : BitVec 18), Issues s e u (qI 0x18 d a imm.toNat) ∧ s.dataFault e
      u (s.qaddr e u a imm) 1 1 true = none)
    ∧ (∃ (s : State) (e : Eng) (u : Thr) (d a : QReg) (imm : BitVec 18), Issues s e u (qI 0x19 d a imm.toNat) ∧ s.dataFault
      e u (s.qaddr e u a imm) 2 2 true = none)
    ∧ (∃ (s : State) (e : Eng) (u : Thr) (d a : QReg) (imm : BitVec 18), Issues s e u (qI 0x1A d a imm.toNat) ∧ s.dataFault
      e u (s.qaddr e u a imm) 4 4 true = none)
    ∧ (∃ (s : State) (e : Eng) (u : Thr) (d a : QReg) (imm : BitVec 18), Issues s e u (qI 0x1B d a imm.toNat) ∧ s.dataFault
      e u (s.qaddr e u a imm) 1 1 false = none)
    ∧ (∃ (s : State) (e : Eng) (u : Thr) (d a : QReg) (imm : BitVec 18), Issues s e u (qI 0x1C d a imm.toNat) ∧ s.dataFault
      e u (s.qaddr e u a imm) 2 2 false = none)
    ∧ (∃ (s : State) (e : Eng) (u : Thr) (d a : QReg) (imm : BitVec 18), Issues s e u (qI 0x1D d a imm.toNat) ∧ s.dataFault
      e u (s.qaddr e u a imm) 4 4 false = none)
    ∧ (∃ (s : State) (e : Eng) (u : Thr) (d a : QReg) (p : Fin 2048) (l : Fin 32) (be : Bool), Issues s e u (qI 0x1E d a
      (bfImm p l be false)) ∧ s.dataFault e u (((s.qreg e u a).toNat + (bfSpan be p (l.val + 1)).1) % 2 ^ 32) ((bfSpan be p
      (l.val + 1)).2 + 1 - (bfSpan be p (l.val + 1)).1) 1 true = none)
    ∧ (∃ (s : State) (e : Eng) (u : Thr) (d a : QReg) (p : Fin 2048) (l : Fin 32) (be : Bool), Issues s e u (qI 0x1E d a
      (bfImm p l be true)) ∧ s.dataFault e u (((s.qreg e u a).toNat + (bfSpan be p (l.val + 1)).1) % 2 ^ 32) ((bfSpan be p
      (l.val + 1)).2 + 1 - (bfSpan be p (l.val + 1)).1) 1 true = none)
    ∧ (∃ (s : State) (e : Eng) (u : Thr) (d a : QReg) (p : Fin 2048) (l : Fin 32) (be : Bool), Issues s e u (qI 0x1F d a
      (bfImm p l be false)) ∧ s.dataFault e u (((s.qreg e u a).toNat + (bfSpan be p (l.val + 1)).1) % 2 ^ 32) ((bfSpan be p
      (l.val + 1)).2 + 1 - (bfSpan be p (l.val + 1)).1) 1 true = none)
    ∧ (∃ (s : State) (e : Eng) (u : Thr) (d a : QReg) (imm : BitVec 18), Issues s e u (qI 0x1A d a imm.toNat) ∧ s.inBounds e
      u (s.qaddr e u a imm) 4 = false) :=
  ⟨⟨((wThr (qI 0x18 2 1 4) 0x1000 0xA1B2C3D4)), 3, 2, 2, 1, 4, by decide⟩,
   ⟨((wThr (qI 0x19 2 1 4) 0x1000 0xA1B2C3D4)), 3, 2, 2, 1, 4, by decide⟩,
   ⟨((wThr (qI 0x1A 2 1 4) 0x1000 0xA1B2C3D4)), 3, 2, 2, 1, 4, by decide⟩,
   ⟨((wThr (qI 0x1B 2 1 4) 0x1000 0xA1B2C3D4)), 3, 2, 2, 1, 4, by decide⟩,
   ⟨((wThr (qI 0x1C 2 1 4) 0x1000 0xA1B2C3D4)), 3, 2, 2, 1, 4, by decide⟩,
   ⟨((wThr (qI 0x1D 2 1 4) 0x1000 0xA1B2C3D4)), 3, 2, 2, 1, 4, by decide⟩,
   ⟨((wThr (qI 0x1E 2 1 (bfImm 13 9 true false)) 0x1000 0xA1B2C3D4)), 3, 2, 2, 1, 13, 9, true, by decide⟩,
   ⟨((wThr (qI 0x1E 2 1 (bfImm 13 9 false true)) 0x1000 0xA1B2C3D4)), 3, 2, 2, 1, 13, 9, false, by decide⟩,
   ⟨((wThr (qI 0x1F 2 1 (bfImm 13 9 true false)) 0x1000 0xA1B2C3D4)), 3, 2, 2, 1, 13, 9, true, by decide⟩,
   ⟨((wThr (qI 0x1A 2 1 0) 0xBE00 0xA1B2C3D4).wr (thA 3 2 0xC) 0x1000), 3, 2, 2, 1, 0, by decide⟩⟩

/-- States and operands that meet the hypotheses of `Obligations.EngineBranches`. -/
theorem meets_EngineBranches :
    (∃ (s : State) (e : Eng) (u : Thr) (c : Fin 15) (off : BitVec 22), Issues s e u (qK 0x20 c off.toNat))
    ∧ (∃ (s : State) (e : Eng) (u : Thr) (off : BitVec 22), Issues s e u (qK 0x20 15 off.toNat))
    ∧ (∃ (s : State) (e : Eng) (u : Thr) (d a : QReg) (imm : BitVec 18), Issues s e u (qI 0x21 d a imm.toNat))
    ∧ (∃ (s : State) (e : Eng) (u : Thr) (d : QReg) (off : BitVec 22), Issues s e u (qK 0x22 d off.toNat))
    ∧ (∃ (s : State) (e : Eng) (u : Thr) (d : QReg) (off : BitVec 22), Issues s e u (qK 0x23 d off.toNat))
    ∧ (∃ (s : State) (e : Eng) (u : Thr) (d : QReg) (off : BitVec 22), d ≠ 0 ∧ Issues s e u (qK 0x24 d off.toNat))
    ∧ (∃ (s : State) (e : Eng) (u : Thr), s.accepts 4 = true ∧ s.thState e u = 1 ∧ (s.breakpoint e u (s.qpc e u) = false ∨
      (s.thr e u).stepping = true) ∧ s.rf (thA e u 8) 30 16 ≤ s.qpc e u) :=
  ⟨⟨(wThr (qK 0x20 0 0x3FFFFF) 1 5), 3, 2, 0, 0x3FFFFF, by decide⟩,
   ⟨(wThr (qK 0x20 15 0x3FFFFF) 1 5), 3, 2, 0x3FFFFF, by decide⟩,
   ⟨(wThr (qI 0x21 1 1 0x3FFFF) 1 5), 3, 2, 1, 1, 0x3FFFF, by decide⟩,
   ⟨(wThr (qK 0x22 1 8) 1 5), 3, 2, 1, 8, by decide⟩,
   ⟨(wThr (qK 0x23 1 8) 1 5), 3, 2, 1, 8, by decide⟩,
   ⟨(wThr (qK 0x24 1 8) 1 5), 3, 2, 1, 8, by decide⟩,
   ⟨((wThr 0 0 0).wr (thA 3 2 8) 0), 3, 2, by decide⟩⟩

/-- States and operands that meet the hypotheses of `Obligations.EngineCellar`, part 1. -/
theorem meets_EngineCellar_1 :
    (∃ (s : State) (e : Eng) (u : Thr) (d : QReg) (h : BitVec 16) (m : Bool), Issues s e u (qS 0x28 d 0 m.toNat h.toNat) ∧
      s.enMayRead (s.threadTags (e * 8 + u)) h.toNat = true)
    ∧ (∃ (s : State) (e : Eng) (u : Thr) (d : QReg) (h : BitVec 16) (m : Bool), Issues s e u (qS 0x28 d 0 m.toNat h.toNat) ∧
      s.enMayRead (s.threadTags (e * 8 + u)) h.toNat = false)
    ∧ (∃ (s : State) (e : Eng) (u : Thr) (d a : QReg) (m : Bool), Issues s e u (qA 0x2C d a 0 m.toNat) ∧ s.enMayRead
      (s.threadTags (e * 8 + u)) (fld (s.qreg e u a) 15 0) = true)
    ∧ (∃ (s : State) (e : Eng) (u : Thr) (d a : QReg) (m : Bool), Issues s e u (qA 0x2C d a 0 m.toNat) ∧ s.enMayRead
      (s.threadTags (e * 8 + u)) (fld (s.qreg e u a) 15 0) = false)
    ∧ (∃ (s : State) (e : Eng) (u : Thr) (d a : QReg) (h : BitVec 16) (m : Bool), Issues s e u (qS 0x29 d a m.toNat h.toNat)
      ∧ s.enMayWrite (s.threadTags (e * 8 + u)) h.toNat = true ∧ s.enBare h.toNat = false ∧ s.enBad h.toNat 2 = false ∧
      s.enBad h.toNat 3 = false ∧ (m = true → s.dataFault e u (slotA u) 16 1 true = none) ∧ (s.rb (enA h.toNat 1) 9 = false
      ∨ s.rb (enA h.toNat 1) 8 = true ∨ future (s.qdate e u m) (s.rd (enA h.toNat 2)) = true))
    ∧ (∃ (s : State) (e : Eng) (u : Thr) (d a : QReg) (h : BitVec 16) (m : Bool), Issues s e u (qS 0x29 d a m.toNat h.toNat)
      ∧ s.enMayWrite (s.threadTags (e * 8 + u)) h.toNat = true ∧ s.enBare h.toNat = false ∧ s.enBad h.toNat 2 = false ∧
      s.enBad h.toNat 3 = false ∧ (m = true → s.dataFault e u (slotA u) 16 1 true = none) ∧ (s.rb (enA h.toNat 1) 9 = false
      ∨ s.rb (enA h.toNat 1) 8 = true ∨ future (s.qdate e u m) (s.rd (enA h.toNat 2)) = true) ∧ s.clr.snap = none ∧ s.rb
      (enA h.toNat 6) 24 = false)
    ∧ (∃ (s : State) (e : Eng) (u : Thr) (d a : QReg) (h : BitVec 16) (m : Bool), Issues s e u (qS 0x29 d a m.toNat h.toNat)
      ∧ s.enMayWrite (s.threadTags (e * 8 + u)) h.toNat = true ∧ s.enBare h.toNat = false ∧ s.enBad h.toNat 2 = false ∧
      s.enBad h.toNat 3 = false ∧ (m = true → s.dataFault e u (slotA u) 16 1 true = none) ∧ s.rb (enA h.toNat 1) 9 = true ∧
      s.rb (enA h.toNat 1) 8 = false ∧ future (s.qdate e u m) (s.rd (enA h.toNat 2)) = false)
    ∧ (∃ (s : State) (e : Eng) (u : Thr) (d a : QReg) (h : BitVec 16) (m : Bool), Issues s e u (qS 0x29 d a m.toNat h.toNat)
      ∧ m = false ∧ s.enMayWrite (s.threadTags (e * 8 + u)) h.toNat = false)
    ∧ (∃ (s : State) (e : Eng) (u : Thr) (d a b : QReg) (m : Bool), Issues s e u (qA 0x2D d a b m.toNat) ∧ s.enMayWrite
      (s.threadTags (e * 8 + u)) (fld (s.qreg e u b) 15 0) = true ∧ s.enBare (fld (s.qreg e u b) 15 0) = false ∧ s.enBad
      (fld (s.qreg e u b) 15 0) 2 = false ∧ s.enBad (fld (s.qreg e u b) 15 0) 3 = false ∧ (m = true → s.dataFault e u (slotA
      u) 16 1 true = none) ∧ (s.rb (enA (fld (s.qreg e u b) 15 0) 1) 9 = false ∨ s.rb (enA (fld (s.qreg e u b) 15 0) 1) 8 =
      true ∨ future (s.qdate e u m) (s.rd (enA (fld (s.qreg e u b) 15 0) 2)) = true))
    ∧ (∃ (s : State) (e : Eng) (u : Thr) (d a b : QReg) (m : Bool), Issues s e u (qA 0x2D d a b m.toNat) ∧ s.enMayWrite
      (s.threadTags (e * 8 + u)) (fld (s.qreg e u b) 15 0) = true ∧ s.enBare (fld (s.qreg e u b) 15 0) = false ∧ s.enBad
      (fld (s.qreg e u b) 15 0) 2 = false ∧ s.enBad (fld (s.qreg e u b) 15 0) 3 = false ∧ (m = true → s.dataFault e u (slotA
      u) 16 1 true = none) ∧ (s.rb (enA (fld (s.qreg e u b) 15 0) 1) 9 = false ∨ s.rb (enA (fld (s.qreg e u b) 15 0) 1) 8 =
      true ∨ future (s.qdate e u m) (s.rd (enA (fld (s.qreg e u b) 15 0) 2)) = true) ∧ s.clr.snap = none ∧ s.rb (enA (fld
      (s.qreg e u b) 15 0) 6) 24 = false) :=
  ⟨⟨((((wThr (qS 0x28 5 0 0 7) 0 0).wr (enA 7 5) 0x64).wr (enA 7 0) 0x80001234).wr (enA 7 1) 0x200), 3, 2, 5, 7, false,
    by decide⟩,
   ⟨((wThr (qS 0x28 5 0 0 7) 0 0).wr (tnmBase + 0x200 + 26 * 4) 0x80000005), 3, 2, 5, 7, false, by decide⟩,
   ⟨((((wThr (qA 0x2C 5 1 0 0) 0x10007 0).wr (enA 7 5) 0x64).wr (enA 7 0) 0x80001234).wr (enA 7 1) 0x200), 3, 2, 5, 1,
     false, by decide⟩,
   ⟨((wThr (qA 0x2C 5 1 0 0) 0x10007 0).wr (tnmBase + 0x200 + 26 * 4) 0x80000005), 3, 2, 5, 1, false, by decide⟩,
   ⟨((wThr (qS 0x29 5 1 0 7) 0x99 0).wr (enA 7 5) 0x64), 3, 2, 5, 1, 7, false, by decide⟩,
   ⟨((wThr (qS 0x29 5 1 0 7) 0x99 0).wr (enA 7 5) 0x64), 3, 2, 5, 1, 7, false, by decide⟩,
   ⟨((((wThr (qS 0x29 5 1 0 7) 0x99 0).wr (enA 7 5) 0x64).wr (enA 7 2) 1).wr (enA 7 1) 0x200), 3, 2, 5, 1, 7, false,
     by decide⟩,
   ⟨((wThr (qS 0x29 5 1 0 7) 0x99 0).wr (tnmBase + 0x200 + 26 * 4) 0x80000005), 3, 2, 5, 1, 7, false, by decide⟩,
   ⟨((wThr (qA 0x2D 5 1 2 0) 0x99 7).wr (enA 7 5) 0x64), 3, 2, 5, 1, 2, false, by decide⟩,
   ⟨((wThr (qA 0x2D 5 1 2 0) 0x99 7).wr (enA 7 5) 0x64), 3, 2, 5, 1, 2, false, by decide⟩⟩

/-- States and operands that meet the hypotheses of `Obligations.EngineCellar`, part 2. -/
theorem meets_EngineCellar_2 :
    (∃ (s : State) (e : Eng) (u : Thr) (d a b : QReg) (m : Bool), Issues s e u (qA 0x2D d a b m.toNat) ∧ s.enMayWrite
      (s.threadTags (e * 8 + u)) (fld (s.qreg e u b) 15 0) = true ∧ s.enBare (fld (s.qreg e u b) 15 0) = false ∧ s.enBad
      (fld (s.qreg e u b) 15 0) 2 = false ∧ s.enBad (fld (s.qreg e u b) 15 0) 3 = false ∧ (m = true → s.dataFault e u (slotA
      u) 16 1 true = none) ∧ s.rb (enA (fld (s.qreg e u b) 15 0) 1) 9 = true ∧ s.rb (enA (fld (s.qreg e u b) 15 0) 1) 8 =
      false ∧ future (s.qdate e u m) (s.rd (enA (fld (s.qreg e u b) 15 0) 2)) = false)
    ∧ (∃ (s : State) (e : Eng) (u : Thr) (d a b : QReg) (m : Bool), Issues s e u (qA 0x2D d a b m.toNat) ∧ m = false ∧
      s.enMayWrite (s.threadTags (e * 8 + u)) (fld (s.qreg e u b) 15 0) = false)
    ∧ (∃ (s : State) (e : Eng) (u : Thr) (d : QReg) (v fl : Word), s.accepts 4 = true ∧ s.thState e u = 3 ∧ (s.thr e u).held
      = some (.result [(d.val, v)] fl)) :=
  ⟨⟨((((wThr (qA 0x2D 5 1 2 0) 0x99 7).wr (enA 7 5) 0x64).wr (enA 7 2) 1).wr (enA 7 1) 0x200), 3, 2, 5, 1, 2, false,
    by decide⟩,
   ⟨((wThr (qA 0x2D 5 1 2 0) 0x99 7).wr (tnmBase + 0x200 + 26 * 4) 0x80000005), 3, 2, 5, 1, 2, false, by decide⟩,
   ⟨((wThr 0 7 5).hold 3 2 (.result [(5, 9)] 3)), 3, 2, 5, 9, 3, by decide⟩⟩

/-- States and operands that meet the hypotheses of `Obligations.EngineFrames`, part 1. -/
theorem meets_EngineFrames_1 :
    (∃ (s : State) (e : Eng) (u : Thr) (d a : QReg) (p : Nat) (f : Frame) (r : List Frame), Issues s e u (qA 0x2A d a 0 0) ∧
      fld (s.qreg e u a) 7 0 = p ∧ p < 0x60 ∧ s.mustWait (portIsland p) = false ∧ isRxPort p = true ∧ s.portMay e u p = true
      ∧ s.portFrames p = f :: r)
    ∧ (∃ (s : State) (e : Eng) (u : Thr) (d a : QReg) (p : Nat), Issues s e u (qA 0x2A d a 0 0) ∧ fld (s.qreg e u a) 7 0 = p
      ∧ p < 0x60 ∧ s.mustWait (portIsland p) = false ∧ isRxPort p = true ∧ s.portMay e u p = true ∧ s.portFrames p = [])
    ∧ (∃ (s : State) (e : Eng) (u : Thr) (d a : QReg) (p : Nat), Issues s e u (qA 0x2A d a 0 0) ∧ fld (s.qreg e u a) 7 0 = p
      ∧ p < 0x60 ∧ s.mustWait (portIsland p) = false)
    ∧ (∃ (s : State) (e : Eng) (u : Thr) (d a : QReg) (p : Nat), Issues s e u (qA 0x2A d a 0 0) ∧ fld (s.qreg e u a) 7 0 = p
      ∧ p < 0x60 ∧ s.mustWait (portIsland p) = false ∧ s.portMay e u p = false)
    ∧ (∃ (s : State) (e : Eng) (u : Thr) (d a : QReg) (p : Nat), Issues s e u (qA 0x2A d a 0 0) ∧ fld (s.qreg e u a) 7 0 = p
      ∧ 0x60 ≤ p)
    ∧ (∃ (s : State) (e : Eng) (u : Thr) (d a : QReg) (p : Nat), Issues s e u (qA 0x2B d a 0 0) ∧ fld (s.qreg e u a) 7 0 = p
      ∧ p < 0x60 ∧ s.mustWait (portIsland p) = false ∧ s.portMay e u p = true ∧ isRxPort p = false ∧ s.dataFault e u (slotA
      u) 0x19 1 true = none ∧ s.portTakes p (s.slotFrame e u).1 = true ∧ s.portLen p (s.slotFrame e u).1 (s.slotFrame e u).2
      = true ∧ s.dataFault e u (slotA u + 0x40) (s.slotFrame e u).2 1 true = none ∧ ¬ ((s.slotFrame e u).2 = 0 ∧ 3 ≤
      (s.slotFrame e u).1.kind) ∧ p < 0x30 ∧ s.capturer (p - 0x20) (s.slotFrame e u).1 = none ∧ s.txFits (p - 0x20)
      (s.slotFrame e u).1 = true)
    ∧ (∃ (s : State) (e : Eng) (u : Thr) (d a : QReg) (p : Nat), Issues s e u (qA 0x2B d a 0 0) ∧ fld (s.qreg e u a) 7 0 = p
      ∧ p < 0x60 ∧ s.mustWait (portIsland p) = false ∧ s.portMay e u p = true ∧ isRxPort p = false ∧ s.dataFault e u (slotA
      u) 0x19 1 true = none ∧ s.portTakes p (s.slotFrame e u).1 = true ∧ s.portLen p (s.slotFrame e u).1 (s.slotFrame e u).2
      = true ∧ s.dataFault e u (slotA u + 0x40) (s.slotFrame e u).2 1 true = none ∧ ¬ ((s.slotFrame e u).2 = 0 ∧ 3 ≤
      (s.slotFrame e u).1.kind) ∧ 0x50 ≤ p)
    ∧ (∃ (s : State) (e : Eng) (u : Thr) (d a : QReg) (p : Nat) (n : Nat), Issues s e u (qA 0x2B d a 0 0) ∧ fld (s.qreg e u
      a) 7 0 = p ∧ p < 0x60 ∧ s.mustWait (portIsland p) = false ∧ s.portMay e u p = true ∧ isRxPort p = false ∧ s.dataFault
      e u (slotA u) 0x19 1 true = none ∧ s.portTakes p (s.slotFrame e u).1 = true ∧ s.portLen p (s.slotFrame e u).1
      (s.slotFrame e u).2 = true ∧ s.dataFault e u (slotA u + 0x40) (s.slotFrame e u).2 1 true = none ∧ ¬ ((s.slotFrame e
      u).2 = 0 ∧ 3 ≤ (s.slotFrame e u).1.kind) ∧ p < 0x30 ∧ n < 8 ∧ s.capturer (p - 0x20) (s.slotFrame e u).1 = some n)
    ∧ (∃ (s : State) (e : Eng) (u : Thr) (d a : QReg) (p : Nat), Issues s e u (qA 0x2B d a 0 0) ∧ fld (s.qreg e u a) 7 0 = p
      ∧ p < 0x60 ∧ s.mustWait (portIsland p) = false ∧ s.portMay e u p = true ∧ isRxPort p = false ∧ s.dataFault e u (slotA
      u) 0x19 1 true = none ∧ s.portTakes p (s.slotFrame e u).1 = true ∧ s.portLen p (s.slotFrame e u).1 (s.slotFrame e u).2
      = true ∧ s.dataFault e u (slotA u + 0x40) (s.slotFrame e u).2 1 true = none ∧ ¬ ((s.slotFrame e u).2 = 0 ∧ 3 ≤
      (s.slotFrame e u).1.kind) ∧ 0x38 ≤ p ∧ p < 0x40 ∧ s.rf (rspA (p - 0x38) ((s.slotFrame e u).1.id.toNat % 64) 0) 1 0 =
      3)
    ∧ (∃ (s : State) (e : Eng) (u : Thr) (d a : QReg) (p : Nat), Issues s e u (qA 0x2B d a 0 0) ∧ fld (s.qreg e u a) 7 0 = p
      ∧ p < 0x60 ∧ s.mustWait (portIsland p) = false ∧ s.portMay e u p = true ∧ isRxPort p = false ∧ s.dataFault e u (slotA
      u) 0x19 1 true = none ∧ s.portTakes p (s.slotFrame e u).1 = true ∧ s.portLen p (s.slotFrame e u).1 (s.slotFrame e u).2
      = true ∧ s.dataFault e u (slotA u + 0x40) (s.slotFrame e u).2 1 true = none ∧ ¬ ((s.slotFrame e u).2 = 0 ∧ 3 ≤
      (s.slotFrame e u).1.kind) ∧ p < 0x30 ∧ s.capturer (p - 0x20) (s.slotFrame e u).1 = none ∧ s.txFits (p - 0x20)
      (s.slotFrame e u).1 = false) :=
  ⟨⟨(((wThr (qA 0x2A 5 1 0 0) 4 0).wr (portOwn 4) (ownWord ⟨0, true⟩ 0x43)).setCan 2
    { q0 := [{ kind := 2, ide := true, id := 0x12345, data := [1, 2, 3], time := 77, sub := 5 }, {}] }), 3, 2, 5, 1, 4,
    { kind := 2, ide := true, id := 0x12345, data := [1, 2, 3], time := 77, sub := 5 }, [{}], by decide⟩,
   ⟨((wThr (qA 0x2A 5 1 0 0) 5 0).wr (portOwn 5) (ownWord ⟨0, true⟩ 0x43)), 3, 2, 5, 1, 5, by decide⟩,
   ⟨(wThr (qA 0x2A 5 1 0 0) 4 0), 3, 2, 5, 1, 4, by decide⟩,
   ⟨(wThr (qA 0x2A 5 1 0 0) 4 0), 3, 2, 5, 1, 4, by decide⟩,
   ⟨(wThr (qA 0x2A 5 1 0 0) 0x60 0), 3, 2, 5, 1, 0x60, by decide +kernel⟩,
   ⟨(((((wThr (qA 0x2B 5 1 0 0) 0x22 0).wr (portOwn 0x22) (ownWord ⟨0, true⟩ 0x43)).wr (canA 2 0x18) 0x00000001).stLE (dmA 3
     (slotA 2)) 8 34359738369).stLE (dmA 3 (slotA 2) + 8) 4 291), 3, 2, 5, 1, 0x22, by decide +kernel⟩,
   ⟨((((wThr (qA 0x2B 5 1 0 0) 0x53 0).wr (portOwn 0x53) (ownWord ⟨0, true⟩ 0x43)).stLE (dmA 3 (slotA 2)) 8
     274877906949).stLE (dmA 3 (slotA 2) + 8) 4 291), 3, 2, 5, 1, 0x53, by decide +kernel⟩,
   ⟨(((((((wThr (qA 0x2B 5 1 0 0) 0x22 0).wr (portOwn 0x22) (ownWord ⟨0, true⟩ 0x43)).wr (canA 2 0x18) 0x00000001).stLE (dmA
     3 (slotA 2)) 8 34359738369).stLE (dmA 3 (slotA 2) + 8) 4 291).wr (tatA 2 3 4) 0x20000000).wr (tatA 2 3 0x20) 0x123), 3,
     2, 5, 1, 0x22, 3, by decide +kernel⟩,
   ⟨(((((wThr (qA 0x2B 5 1 0 0) 0x39 0).wr (portOwn 0x39) (ownWord ⟨0, true⟩ 0x43)).stLE (dmA 3 (slotA 2)) 8
     34359738372).stLE (dmA 3 (slotA 2) + 8) 4 291).wr (rspA 1 0x23 0) 3), 3, 2, 5, 1, 0x39, by decide +kernel⟩,
   ⟨((((((wThr (qA 0x2B 5 1 0 0) 0x22 0).wr (portOwn 0x22) (ownWord ⟨0, true⟩ 0x43)).wr (canA 2 0x18) 0x00000001).stLE (dmA
     3 (slotA 2)) 8 34359738369).stLE (dmA 3 (slotA 2) + 8) 4 291).setCan 2
     { txf := List.replicate 31 ⟨{ data := [1, 2, 3, 4, 5, 6, 7, 8] }, none, 0⟩ ++ [⟨{}, none, 0⟩] }), 3, 2, 5, 1, 0x22,
     by decide +kernel⟩⟩

/-- States and operands that meet the hypotheses of `Obligations.EngineFrames`, part 2. -/
theorem meets_EngineFrames_2 :
    (∃ (s : State) (e : Eng) (u : Thr) (d a : QReg) (p : Nat), Issues s e u (qA 0x2B d a 0 0) ∧ fld (s.qreg e u a) 7 0 = p ∧
      p < 0x60 ∧ s.mustWait (portIsland p) = false ∧ s.portMay e u p = true ∧ isRxPort p = false ∧ s.dataFault e u (slotA u)
      0x19 1 true = none ∧ s.portTakes p (s.slotFrame e u).1 = false)
    ∧ (∃ (s : State) (e : Eng) (u : Thr) (d a : QReg) (p : Nat), Issues s e u (qA 0x2B d a 0 0) ∧ fld (s.qreg e u a) 7 0 = p
      ∧ p < 0x60 ∧ s.mustWait (portIsland p) = false ∧ s.portMay e u p = true ∧ isRxPort p = false ∧ s.dataFault e u (slotA
      u) 0x19 1 true = none ∧ s.portTakes p (s.slotFrame e u).1 = true ∧ s.portLen p (s.slotFrame e u).1 (s.slotFrame e u).2
      = false)
    ∧ (∃ (s : State) (e : Eng) (u : Thr) (d a : QReg) (p : Nat), Issues s e u (qA 0x2B d a 0 0) ∧ fld (s.qreg e u a) 7 0 = p
      ∧ p < 0x60 ∧ s.mustWait (portIsland p) = false ∧ s.portMay e u p = true ∧ isRxPort p = false ∧ s.dataFault e u (slotA
      u) 0x19 1 true = none ∧ s.portTakes p (s.slotFrame e u).1 = true ∧ s.portLen p (s.slotFrame e u).1 (s.slotFrame e u).2
      = true ∧ s.dataFault e u (slotA u + 0x40) (s.slotFrame e u).2 1 true = none ∧ ¬ ((s.slotFrame e u).2 = 0 ∧ 3 ≤
      (s.slotFrame e u).1.kind) ∧ 0x38 ≤ p ∧ p < 0x40 ∧ s.rf (rspA (p - 0x38) ((s.slotFrame e u).1.id.toNat % 64) 0) 1 0 ≠
      3)
    ∧ (∃ (s : State) (e : Eng) (u : Thr) (d a : QReg) (p : Nat), Issues s e u (qA 0x2B d a 0 0) ∧ fld (s.qreg e u a) 7 0 = p
      ∧ p < 0x60 ∧ s.mustWait (portIsland p) = false ∧ s.portMay e u p = true ∧ isRxPort p = false ∧ s.dataFault e u (slotA
      u) 0x19 1 true = none ∧ s.portTakes p (s.slotFrame e u).1 = true ∧ s.portLen p (s.slotFrame e u).1 (s.slotFrame e u).2
      = true ∧ (s.slotFrame e u).2 = 0 ∧ 3 ≤ (s.slotFrame e u).1.kind)
    ∧ (∃ (s : State) (e : Eng) (u : Thr) (d a : QReg) (p : Nat), Issues s e u (qA 0x2B d a 0 0) ∧ fld (s.qreg e u a) 7 0 = p
      ∧ p < 0x60 ∧ s.mustWait (portIsland p) = false)
    ∧ (∃ (s : State) (e : Eng) (u : Thr) (d : QReg) (p : Nat) (f : Frame), s.accepts 4 = true ∧ s.thState e u = 3 ∧ (s.thr e
      u).held = some (.ftx d p f) ∧ s.accepts (portIsland p) = true ∧ s.portMay e u p = false)
    ∧ (∃ (s : State) (e : Eng) (u : Thr) (d : QReg) (p : Nat) (f : Frame), s.accepts 4 = true ∧ s.thState e u = 3 ∧ (s.thr e
      u).held = some (.ftx d p f) ∧ s.accepts 5 = true ∧ s.portMay e u p = true ∧ 0x50 ≤ p)
    ∧ (∃ (s : State) (e : Eng) (u : Thr) (d : QReg) (p : Nat) (f : Frame), s.accepts 4 = true ∧ s.thState e u = 3 ∧ (s.thr e
      u).held = some (.ftx d p f) ∧ 0x20 ≤ p ∧ s.accepts 7 = true ∧ s.portMay e u p = true ∧ p < 0x30 ∧ s.capturer (p -
      0x20) f = none ∧ s.txFits (p - 0x20) f = true)
    ∧ (∃ (s : State) (e : Eng) (u : Thr) (d : QReg) (p : Nat) (f : Frame), s.accepts 4 = true ∧ s.thState e u = 3 ∧ (s.thr e
      u).held = some (.ftx d p f)) :=
  ⟨⟨((((wThr (qA 0x2B 5 1 0 0) 0x22 0).wr (portOwn 0x22) (ownWord ⟨0, true⟩ 0x43)).stLE (dmA 3 (slotA 2)) 8
    34359738372).stLE (dmA 3 (slotA 2) + 8) 4 291), 3, 2, 5, 1, 0x22, by decide +kernel⟩,
   ⟨(((((wThr (qA 0x2B 5 1 0 0) 0x22 0).wr (portOwn 0x22) (ownWord ⟨0, true⟩ 0x43)).wr (canA 2 0x18) 0x00000001).stLE (dmA 3
     (slotA 2)) 8 38654705665).stLE (dmA 3 (slotA 2) + 8) 4 291), 3, 2, 5, 1, 0x22, by decide +kernel⟩,
   ⟨((((wThr (qA 0x2B 5 1 0 0) 0x39 0).wr (portOwn 0x39) (ownWord ⟨0, true⟩ 0x43)).stLE (dmA 3 (slotA 2)) 8
     34359738372).stLE (dmA 3 (slotA 2) + 8) 4 291), 3, 2, 5, 1, 0x39, by decide +kernel⟩,
   ⟨((((wThr (qA 0x2B 5 1 0 0) 0x53 0).wr (portOwn 0x53) (ownWord ⟨0, true⟩ 0x43)).stLE (dmA 3 (slotA 2)) 8 5).stLE (dmA 3
     (slotA 2) + 8) 4 291), 3, 2, 5, 1, 0x53, by decide +kernel⟩,
   ⟨(((((wThr (qA 0x2B 5 1 0 0) 0x22 0).wr (portOwn 0x22) (ownWord ⟨0, true⟩ 0x43)).wr (canA 2 0x18) 0x00000001).stLE (dmA 3
     (slotA 2)) 8 38654705665).stLE (dmA 3 (slotA 2) + 8) 4 291), 3, 2, 5, 1, 0x22, by decide⟩,
   ⟨((wThr 0 7 5).hold 3 2 (.ftx 5 0x22 { id := 0x123, data := [1, 2, 3] })), 3, 2, 5, 0x22,
     { id := 0x123, data := [1, 2, 3] }, by decide⟩,
   ⟨(((wThr 0 7 5).wr (portOwn 0x53) (ownWord ⟨0, true⟩ 0x43)).hold 3 2 (.ftx 5 0x53 { id := 0x123, data := [1, 2, 3] })),
     3, 2, 5, 0x53, { id := 0x123, data := [1, 2, 3] }, by decide⟩,
   ⟨((((wThr 0 7 5).wr (portOwn 0x22) (ownWord ⟨0, true⟩ 0x43)).wr (canA 2 0x18) 0x00000001).hold 3 2 (.ftx 5 0x22
     { id := 0x123, data := [1, 2, 3] })), 3, 2, 5, 0x22, { id := 0x123, data := [1, 2, 3] }, by decide⟩,
   ⟨((wThr 0 7 5).hold 3 2 (.ftx 5 0x22 { id := 0x123, data := [1, 2, 3] })), 3, 2, 5, 0x22,
     { id := 0x123, data := [1, 2, 3] }, by decide⟩⟩

/-- States and operands that meet the hypotheses of `Obligations.EngineCasks`, part 1. -/
theorem meets_EngineCasks_1 :
    (∃ (s : State) (e : Eng) (u : Thr) (d a b : QReg) (n x : Nat) (r : State), ((s.qreg e u a).toNat = n ∧ (s.qreg e u
      b).toNat = x) ∧ (Issues s e u (qA 0x30 d a b 0) ∧ n ≤ 511 ∧ s.dataFault e u x (s.ckItem n) 8 true = none ∧ s.ckGate
      (s.threadTags (e * 8 + u)) n = none ∧ s.ckProdSoft n = true ∧ s.ckServe n = r ∧ r.ckRoom n = true ∧ r.mayWrite
      (r.ckOwner n) (r.ckPlace n (r.cask n).pw) (s.ckItem n) = true))
    ∧ (∃ (s : State) (e : Eng) (u : Thr) (d a b : QReg) (n x : Nat) (r : State), ((s.qreg e u a).toNat = n ∧ (s.qreg e u
      b).toNat = x) ∧ (Issues s e u (qA 0x30 d a b 0) ∧ n ≤ 511 ∧ s.dataFault e u x (s.ckItem n) 8 true = none ∧ s.ckGate
      (s.threadTags (e * 8 + u)) n = none ∧ s.ckProdSoft n = true ∧ s.ckServe n = r ∧ r.ckRoom n = false))
    ∧ (∃ (s : State) (e : Eng) (u : Thr) (d a b : QReg) (n x : Nat), ((s.qreg e u a).toNat = n ∧ (s.qreg e u b).toNat = x) ∧
      (Issues s e u (qA 0x30 d a b 0) ∧ n ≤ 511 ∧ s.dataFault e u x (s.ckItem n) 8 true = none ∧ s.ckGate (s.threadTags (e *
      8 + u)) n = none ∧ s.ckProdSoft n = false))
    ∧ (∃ (s : State) (e : Eng) (u : Thr) (d a b : QReg) (n x : Nat) (r : State), ((s.qreg e u a).toNat = n ∧ (s.qreg e u
      b).toNat = x) ∧ (Issues s e u (qA 0x30 d a b 1) ∧ n ≤ 511 ∧ s.dataFault e u x (s.ckItem n) 8 true = none ∧ s.ckGate
      (s.threadTags (e * 8 + u)) n = none ∧ s.ckProdSoft n = true ∧ s.ckServe n = r ∧ r.ckRoom n = true ∧ r.mayWrite
      (r.ckOwner n) (r.ckPlace n (r.cask n).pw) (s.ckItem n) = true))
    ∧ (∃ (s : State) (e : Eng) (u : Thr) (d a b : QReg) (n x : Nat) (r : State), ((s.qreg e u a).toNat = n ∧ (s.qreg e u
      b).toNat = x) ∧ (Issues s e u (qA 0x30 d a b 1) ∧ n ≤ 511 ∧ s.dataFault e u x (s.ckItem n) 8 true = none ∧ s.ckGate
      (s.threadTags (e * 8 + u)) n = none ∧ s.ckProdSoft n = true ∧ s.ckServe n = r ∧ r.ckRoom n = false))
    ∧ (∃ (s : State) (e : Eng) (u : Thr) (d a b : QReg) (n x : Nat), ((s.qreg e u a).toNat = n ∧ (s.qreg e u b).toNat = x) ∧
      (Issues s e u (qA 0x30 d a b 1) ∧ n ≤ 511 ∧ s.dataFault e u x (s.ckItem n) 8 true = none ∧ s.ckGate (s.threadTags (e *
      8 + u)) n = none ∧ s.ckProdSoft n = false))
    ∧ (∃ (s : State) (e : Eng) (u : Thr) (d a b : QReg) (n x : Nat) (r : State), ((s.qreg e u a).toNat = n ∧ (s.qreg e u
      b).toNat = x) ∧ (s.accepts 4 = true ∧ s.thState e u = 3 ∧ (s.thr e u).held = some (.qput d n x) ∧ s.ckEn n = true ∧
      s.ckServe n = r ∧ r.ckRoom n = true ∧ r.mayWrite (r.ckOwner n) (r.ckPlace n (r.cask n).pw) (s.ckItem n) = true ∧ n ≤
      511))
    ∧ (∃ (s : State) (e : Eng) (u : Thr) (d a b : QReg) (n x : Nat), ((s.qreg e u a).toNat = n ∧ (s.qreg e u b).toNat = x) ∧
      (s.accepts 4 = true ∧ s.thState e u = 3 ∧ (s.thr e u).held = some (.qput d n x) ∧ n ≤ 511))
    ∧ (∃ (s : State) (e : Eng) (u : Thr) (d a b : QReg) (n x : Nat), ((s.qreg e u a).toNat = n ∧ (s.qreg e u b).toNat = x) ∧
      (Issues s e u (qA 0x31 d a b 0) ∧ n ≤ 511 ∧ s.dataFault e u x (s.ckItem n) 8 false = none ∧ s.ckGate (s.threadTags (e
      * 8 + u)) n = none ∧ s.ckConsSoft n = true ∧ s.ckAvail n ≠ 0 ∧ s.mayRead (s.ckOwner n) (s.ckPlace n (s.cask n).pr)
      (s.ckItem n) = true ∧ s.anyBad (s.ckPlace n (s.cask n).pr) (s.ckItem n) = false))
    ∧ (∃ (s : State) (e : Eng) (u : Thr) (d a b : QReg) (n x : Nat), ((s.qreg e u a).toNat = n ∧ (s.qreg e u b).toNat = x) ∧
      (Issues s e u (qA 0x31 d a b 0) ∧ n ≤ 511 ∧ s.dataFault e u x (s.ckItem n) 8 false = none ∧ s.ckGate (s.threadTags (e
      * 8 + u)) n = none ∧ s.ckConsSoft n = true ∧ s.ckAvail n = 0 ∧ s.mayRead (s.ckOwner n) (s.ckPlace n (s.ckDepth n))
      (s.ckItem n) = true ∧ s.anyBad (s.ckPlace n (s.ckDepth n)) (s.ckItem n) = false)) :=
  ⟨⟨(((((((((wThr (qA 0x30 5 1 2 0) 7 0x100).wr (ckA 7 0) 0x80000100).wr (ckA 7 4) 0x80000002).wr (ckA 7 8) 0x10001000).wr
    (ckA 7 0xC) 3).wr (ckA 7 0x10) 0x00020001).wr (ckA 7 0x14) 0).wr (ckA 7 0x18) 0).setCask 7
    { pw := 1, pr := 2, pm := 1 }), 3, 2, 5, 1, 2, 7, 0x100, ((((((((((wThr (qA 0x30 5 1 2 0) 7 0x100).wr (ckA 7 0)
    0x80000100).wr (ckA 7 4) 0x80000002).wr (ckA 7 8) 0x10001000).wr (ckA 7 0xC) 3).wr (ckA 7 0x10) 0x00020001).wr (ckA 7
    0x14) 0).wr (ckA 7 0x18) 0).setCask 7 { pw := 1, pr := 2, pm := 1 }).ckServe 7), by decide⟩,
   ⟨(((((((((wThr (qA 0x30 5 1 2 0) 7 0x100).wr (ckA 7 0) 0x80000100).wr (ckA 7 4) 0x80000002).wr (ckA 7 8) 0x10001000).wr
     (ckA 7 0xC) 3).wr (ckA 7 0x10) 0x00030001).wr (ckA 7 0x14) 0x00010000).wr (ckA 7 0x18) 0xFFFF).setCask 7
     { pw := 1, pr := 2, pm := 1 }), 3, 2, 5, 1, 2, 7, 0x100, ((((((((((wThr (qA 0x30 5 1 2 0) 7 0x100).wr (ckA 7 0)
     0x80000100).wr (ckA 7 4) 0x80000002).wr (ckA 7 8) 0x10001000).wr (ckA 7 0xC) 3).wr (ckA 7 0x10) 0x00030001).wr (ckA 7
     0x14) 0x00010000).wr (ckA 7 0x18) 0xFFFF).setCask 7 { pw := 1, pr := 2, pm := 1 }).ckServe 7), by decide⟩,
   ⟨(((((((((wThr (qA 0x30 5 1 2 0) 7 0x100).wr (ckA 7 0) 0x80000100).wr (ckA 7 4) 0x80010002).wr (ckA 7 8) 0x10001000).wr
     (ckA 7 0xC) 3).wr (ckA 7 0x10) 0x00020001).wr (ckA 7 0x14) 0).wr (ckA 7 0x18) 0).setCask 7
     { pw := 1, pr := 2, pm := 1 }), 3, 2, 5, 1, 2, 7, 0x100, by decide⟩,
   ⟨(((((((((wThr (qA 0x30 5 1 2 1) 7 0x100).wr (ckA 7 0) 0x80000100).wr (ckA 7 4) 0x80000002).wr (ckA 7 8) 0x10001000).wr
     (ckA 7 0xC) 3).wr (ckA 7 0x10) 0x00020001).wr (ckA 7 0x14) 0).wr (ckA 7 0x18) 0).setCask 7
     { pw := 1, pr := 2, pm := 1 }), 3, 2, 5, 1, 2, 7, 0x100, ((((((((((wThr (qA 0x30 5 1 2 1) 7 0x100).wr (ckA 7 0)
     0x80000100).wr (ckA 7 4) 0x80000002).wr (ckA 7 8) 0x10001000).wr (ckA 7 0xC) 3).wr (ckA 7 0x10) 0x00020001).wr (ckA 7
     0x14) 0).wr (ckA 7 0x18) 0).setCask 7 { pw := 1, pr := 2, pm := 1 }).ckServe 7), by decide⟩,
   ⟨(((((((((wThr (qA 0x30 5 1 2 1) 7 0x100).wr (ckA 7 0) 0x80000100).wr (ckA 7 4) 0x80000002).wr (ckA 7 8) 0x10001000).wr
     (ckA 7 0xC) 3).wr (ckA 7 0x10) 0x00030001).wr (ckA 7 0x14) 0x00010000).wr (ckA 7 0x18) 0xFFFF).setCask 7
     { pw := 1, pr := 2, pm := 1 }), 3, 2, 5, 1, 2, 7, 0x100, ((((((((((wThr (qA 0x30 5 1 2 1) 7 0x100).wr (ckA 7 0)
     0x80000100).wr (ckA 7 4) 0x80000002).wr (ckA 7 8) 0x10001000).wr (ckA 7 0xC) 3).wr (ckA 7 0x10) 0x00030001).wr (ckA 7
     0x14) 0x00010000).wr (ckA 7 0x18) 0xFFFF).setCask 7 { pw := 1, pr := 2, pm := 1 }).ckServe 7), by decide⟩,
   ⟨(((((((((wThr (qA 0x30 5 1 2 1) 7 0x100).wr (ckA 7 0) 0x80000100).wr (ckA 7 4) 0x80010002).wr (ckA 7 8) 0x10001000).wr
     (ckA 7 0xC) 3).wr (ckA 7 0x10) 0x00020001).wr (ckA 7 0x14) 0).wr (ckA 7 0x18) 0).setCask 7
     { pw := 1, pr := 2, pm := 1 }), 3, 2, 5, 1, 2, 7, 0x100, by decide⟩,
   ⟨((((((((((wThr (0) 7 0x100).wr (ckA 7 0) 0x80000100).wr (ckA 7 4) 0x80000002).wr (ckA 7 8) 0x10001000).wr (ckA 7 0xC)
     3).wr (ckA 7 0x10) 0x00020001).wr (ckA 7 0x14) 0).wr (ckA 7 0x18) 0).setCask 7 { pw := 1, pr := 2, pm := 1 }).hold 3 2
     (.qput 5 7 0x100)), 3, 2, 5, 1, 2, 7, 0x100, (((((((((((wThr (0) 7 0x100).wr (ckA 7 0) 0x80000100).wr (ckA 7 4)
     0x80000002).wr (ckA 7 8) 0x10001000).wr (ckA 7 0xC) 3).wr (ckA 7 0x10) 0x00020001).wr (ckA 7 0x14) 0).wr (ckA 7 0x18)
     0).setCask 7 { pw := 1, pr := 2, pm := 1 }).hold 3 2 (.qput 5 7 0x100)).ckServe 7), by decide⟩,
   ⟨((((((((((wThr (0) 7 0x100).wr (ckA 7 0) 0x80000100).wr (ckA 7 4) 0x80000002).wr (ckA 7 8) 0x10001000).wr (ckA 7 0xC)
     3).wr (ckA 7 0x10) 0x00030001).wr (ckA 7 0x14) 0x00010000).wr (ckA 7 0x18) 0xFFFF).setCask 7
     { pw := 1, pr := 2, pm := 1 }).hold 3 2 (.qput 5 7 0x100)), 3, 2, 5, 1, 2, 7, 0x100, by decide⟩,
   ⟨(((((((((wThr (qA 0x31 5 1 2 0) 7 0x100).wr (ckA 7 0) 0x80000100).wr (ckA 7 4) 0x80000002).wr (ckA 7 8) 0x10001000).wr
     (ckA 7 0xC) 3).wr (ckA 7 0x10) 0x00020001).wr (ckA 7 0x14) 0).wr (ckA 7 0x18) 0).setCask 7
     { pw := 1, pr := 2, pm := 1 }), 3, 2, 5, 1, 2, 7, 0x100, by decide⟩,
   ⟨(((((((((wThr (qA 0x31 5 1 2 0) 7 0x100).wr (ckA 7 0) 0x80000100).wr (ckA 7 4) 0x80000002).wr (ckA 7 8) 0x10001000).wr
     (ckA 7 0xC) 3).wr (ckA 7 0x10) 0x00020002).wr (ckA 7 0x14) 0).wr (ckA 7 0x18) 0).setCask 7
     { pw := 1, pr := 2, pm := 1 }), 3, 2, 5, 1, 2, 7, 0x100, by decide⟩⟩

/-- States and operands that meet the hypotheses of `Obligations.EngineCasks`, part 2. -/
theorem meets_EngineCasks_2 :
    (∃ (s : State) (e : Eng) (u : Thr) (d a b : QReg) (n x : Nat), ((s.qreg e u a).toNat = n ∧ (s.qreg e u b).toNat = x) ∧
      (Issues s e u (qA 0x32 d a 0 0) ∧ n ≤ 511 ∧ s.ckGate (s.threadTags (e * 8 + u)) n = none ∧ s.ckConsSoft n = true))
    ∧ (∃ (s : State) (e : Eng) (u : Thr) (d a b : QReg) (n x : Nat), ((s.qreg e u a).toNat = n ∧ (s.qreg e u b).toNat = x) ∧
      (Issues s e u (qA 0x33 d a 0 0) ∧ n ≤ 511 ∧ s.ckGate (s.threadTags (e * 8 + u)) n = none ∧ s.ckConsSoft n = true ∧
      s.ckMarked n = true))
    ∧ (∃ (s : State) (e : Eng) (u : Thr) (d a b : QReg) (n x : Nat), ((s.qreg e u a).toNat = n ∧ (s.qreg e u b).toNat = x) ∧
      (Issues s e u (qA 0x33 d a 0 0) ∧ n ≤ 511 ∧ s.ckGate (s.threadTags (e * 8 + u)) n = none ∧ s.ckConsSoft n = true ∧
      s.ckMarked n = false))
    ∧ (∃ (s : State) (e : Eng) (u : Thr) (d a b : QReg) (n x : Nat), ((s.qreg e u a).toNat = n ∧ (s.qreg e u b).toNat = x) ∧
      (Issues s e u (qA 0x34 d a b 0) ∧ n ≤ 511 ∧ s.ckGate (s.threadTags (e * 8 + u)) n = none ∧ s.ckConsSoft n = true ∧ x ≤
      sub16 (s.ckRd n) (s.ckRel n)))
    ∧ (∃ (s : State) (e : Eng) (u : Thr) (d a b : QReg) (n x : Nat), ((s.qreg e u a).toNat = n ∧ (s.qreg e u b).toNat = x) ∧
      (Issues s e u (qA 0x34 d a b 0) ∧ n ≤ 511 ∧ s.ckGate (s.threadTags (e * 8 + u)) n = none ∧ sub16 (s.ckRd n) (s.ckRel
      n) < x))
    ∧ (∃ (s : State) (e : Eng) (u : Thr) (d a b : QReg) (n x : Nat), ((s.qreg e u a).toNat = n ∧ (s.qreg e u b).toNat = x) ∧
      (Issues s e u (qA 0x32 d a 0 0) ∧ 511 < n))
    ∧ (∃ (s : State) (e : Eng) (u : Thr) (d a b : QReg) (n x : Nat), ((s.qreg e u a).toNat = n ∧ (s.qreg e u b).toNat = x) ∧
      (Issues s e u (qA 0x35 d a b 0) ∧ s.mustWait 8 = false))
    ∧ (∃ (s : State) (e : Eng) (u : Thr) (d a b : QReg) (n x : Nat), ((s.qreg e u a).toNat = n ∧ (s.qreg e u b).toNat = x) ∧
      (Issues s e u (qA 0x35 d a b 0) ∧ s.mustWait 8 = false ∧ x ≤ 511 ∧ s.dataFault e u n 64 8 true = none ∧ s.resetting
      (s.threadTags (e * 8 + u)).tid = false ∧ s.tenantOn (s.threadTags (e * 8 + u)).tid = true ∧ s.ckItem x = 16 ∧ s.ckEn x
      = true ∧ s.ckProdIs x 1 = true ∧ s.sliceAdmits .cphJob (s.threadTags (e * 8 + u)).tid = true ∧ (∃ k ∈ List.range 64, ∀
      j ∈ s.cph.jobs, j.entry ≠ k))) :=
  ⟨⟨(((((((((wThr (qA 0x32 5 1 0 0) 7 0x100).wr (ckA 7 0) 0x80000100).wr (ckA 7 4) 0x80000002).wr (ckA 7 8) 0x10001000).wr
    (ckA 7 0xC) 3).wr (ckA 7 0x10) 0x00020001).wr (ckA 7 0x14) 0).wr (ckA 7 0x18) 0).setCask 7
    { pw := 1, pr := 2, pm := 1 }), 3, 2, 5, 1, 2, 7, 0x100, by decide⟩,
   ⟨(((((((((wThr (qA 0x33 5 1 0 0) 7 0x100).wr (ckA 7 0) 0x80000100).wr (ckA 7 4) 0x80000002).wr (ckA 7 8) 0x10001000).wr
     (ckA 7 0xC) 3).wr (ckA 7 0x10) 0x00020001).wr (ckA 7 0x14) 0x00010000).wr (ckA 7 0x18) 0x80000000).setCask 7
     { pw := 1, pr := 2, pm := 1 }), 3, 2, 5, 1, 2, 7, 0x100, by decide⟩,
   ⟨(((((((((wThr (qA 0x33 5 1 0 0) 7 0x100).wr (ckA 7 0) 0x80000100).wr (ckA 7 4) 0x80000002).wr (ckA 7 8) 0x10001000).wr
     (ckA 7 0xC) 3).wr (ckA 7 0x10) 0x00020001).wr (ckA 7 0x14) 0).wr (ckA 7 0x18) 0).setCask 7
     { pw := 1, pr := 2, pm := 1 }), 3, 2, 5, 1, 2, 7, 0x100, by decide⟩,
   ⟨(((((((((wThr (qA 0x34 5 1 2 0) 7 1).wr (ckA 7 0) 0x80000100).wr (ckA 7 4) 0x80000002).wr (ckA 7 8) 0x10001000).wr (ckA
     7 0xC) 3).wr (ckA 7 0x10) 0x00020001).wr (ckA 7 0x14) 0).wr (ckA 7 0x18) 0).setCask 7 { pw := 1, pr := 2, pm := 1 }),
     3, 2, 5, 1, 2, 7, 1, by decide⟩,
   ⟨(((((((((wThr (qA 0x34 5 1 2 0) 7 2).wr (ckA 7 0) 0x80000100).wr (ckA 7 4) 0x80000002).wr (ckA 7 8) 0x10001000).wr (ckA
     7 0xC) 3).wr (ckA 7 0x10) 0x00020001).wr (ckA 7 0x14) 0).wr (ckA 7 0x18) 0).setCask 7 { pw := 1, pr := 2, pm := 1 }),
     3, 2, 5, 1, 2, 7, 2, by decide⟩,
   ⟨(wThr (qA 0x32 5 1 0 0) 512 0), 3, 2, 5, 1, 2, 512, 0, by decide⟩,
   ⟨(wThr (qA 0x35 5 1 2 0) 0x100 9), 3, 2, 5, 1, 2, 0x100, 9, by decide +kernel⟩,
   ⟨((wThr (qA 0x35 5 1 2 0) 0x100 9).wr (ckA 9 4) 0x80010002), 3, 2, 5, 1, 2, 0x100, 9, by decide +kernel⟩⟩

/-- States and operands that meet the hypotheses of `Obligations.EngineWaits`, part 1. -/
theorem meets_EngineWaits_1 :
    (∃ (s : State) (e : Eng) (u : Thr) (d a : QReg), Issues s e u (qA 0x38 d a 0 0) ∧ s.eventWord e u &&& (s.qreg e u a) ≠
      0)
    ∧ (∃ (s : State) (e : Eng) (u : Thr) (d a : QReg), Issues s e u (qA 0x38 d a 0 0) ∧ (s.qreg e u a) ≠ 0 ∧ s.eventWord e u
      &&& (s.qreg e u a) = 0)
    ∧ (∃ (s : State) (e : Eng) (u : Thr) (d a : QReg), Issues s e u (qA 0x38 d a 0 0) ∧ (s.qreg e u a) = 0)
    ∧ (∃ (s : State) (e : Eng) (u : Thr) (d a b : QReg), Issues s e u (qA 0x38 d a b 1))
    ∧ (∃ (s : State) (e : Eng) (u : Thr) (d : QReg) (m : Word) (dl : Option Word), s.accepts 4 = true ∧ s.thState e u = 2 ∧
      (s.thr e u).held = some (.wait d m dl))
    ∧ (∃ (s : State) (e : Eng) (u : Thr) (a : QReg) (k : Fin 8), Issues s e u (qI 0x39 0 a k))
    ∧ (∃ (s : State) (e : Eng) (u : Thr) (d : QReg), Issues s e u (qA 0x3F d 0 0 1))
    ∧ (∃ (s : State) (e : Eng) (u : Thr) (d : QReg), Issues s e u (qA 0x3F d 0 0 2))
    ∧ (∃ (s : State) (e : Eng) (u : Thr) (d a b : QReg), Issues s e u (qA 0x3F d a b 3) ∧ s.dataFault e u (s.qreg e u
      a).toNat 4 4 true = none)
    ∧ (∃ (s : State) (e : Eng) (u : Thr), Issues s e u (qA 0x3F 0 0 0 4)) :=
  ⟨⟨((wThr (qA 0x38 5 1 0 0) 0x1 0).wr (thA 3 2 0x10) 0x05), 3, 2, 5, 1, by decide⟩,
   ⟨((wThr (qA 0x38 5 1 0 0) 0x2 0).wr (thA 3 2 0x10) 0x05), 3, 2, 5, 1, by decide⟩,
   ⟨(wThr (qA 0x38 5 1 0 0) 0 0), 3, 2, 5, 1, by decide⟩,
   ⟨(wThr (qA 0x38 5 1 2 1) 0 0), 3, 2, 5, 1, 2, by decide⟩,
   ⟨((((wThr 0 0 0).wr (thA 3 2 0x10) 5).hold 3 2 (.wait 5 4 none)).setThState 3 2 2), 3, 2, 5, 4, none, by decide⟩,
   ⟨(wThr (qI 0x39 0 1 3) 0xC 0), 3, 2, 1, 3, by decide⟩,
   ⟨(wThr (qA 0x3F 5 0 0 1) 0 0), 3, 2, 5, by decide⟩,
   ⟨((wThr (qA 0x3F 5 0 0 2) 0 0).wr (thA 3 2 0x14) 0x1F), 3, 2, 5, by decide⟩,
   ⟨((wThr (qA 0x3F 5 1 2 3) 0x100 0x12345678).stLE (dmA 3 0x100) 4 0xAABBCCDD), 3, 2, 5, 1, 2, by decide⟩,
   ⟨(wThr (qA 0x3F 0 0 0 4) 0 0), 3, 2, by decide⟩⟩

/-- States and operands that meet the hypotheses of `Obligations.EngineWaits`, part 2. -/
theorem meets_EngineWaits_2 :
    (∃ (s : State) (e : Eng) (u : Thr), Issues s e u (qA 0x3F 0 0 0 5))
    ∧ (∃ (s : State) (e : Eng) (u : Thr) (m : Word), Issues s e u m ∧ qLegal m = false)
    ∧ (∃ (s : State) (e : Eng) (u : Thr), s.accepts 4 = true ∧ s.thState e u = 1 ∧ (s.thr e u).stepping = false ∧
      s.breakpoint e u (s.qpc e u) = true) :=
  ⟨⟨(wThr (qA 0x3F 0 0 0 5) 0 0), 3, 2, by decide⟩,
   ⟨(wThr (0x3C000000) 0 0), 3, 2, 0x3C000000, by decide⟩,
   ⟨((wThr 0 0 0).wr (secA 3 0x504) 0x80040000), 3, 2, by decide⟩⟩

/-- States and operands that meet the hypotheses of `Obligations.EngineLines`, part 1. -/
theorem meets_EngineLines_1 :
    (∃ (s : State) (e : Eng) (u : Thr) (d a b : QReg) (n : Line) (l : Bool), Issues s e u (qA 0x3A d a b (edgeSub n l false
      false)) ∧ s.lineBound n e u = true ∧ (s.line n).lastAt.all (future (onGrid (s.qreg e u a))) = true ∧ (s.line
      n).queue.length < 4)
    ∧ (∃ (s : State) (e : Eng) (u : Thr) (d a b : QReg) (n : Line) (l : Bool), Issues s e u (qA 0x3A d a b (edgeSub n l
      false false)) ∧ s.lineBound n e u = true ∧ (s.line n).lastAt.all (future (onGrid (s.qreg e u a))) = true ∧ 4 ≤ (s.line
      n).queue.length)
    ∧ (∃ (s : State) (e : Eng) (u : Thr) (d a b : QReg) (n : Line) (l : Bool), Issues s e u (qA 0x3A d a b (edgeSub n l
      false false)) ∧ s.lineBound n e u = false)
    ∧ (∃ (s : State) (e : Eng) (u : Thr) (d a b : QReg) (n : Line) (l : Bool), Issues s e u (qA 0x3A d a b (edgeSub n l
      false false)) ∧ s.lineBound n e u = true ∧ (s.line n).lastAt.all (future (onGrid (s.qreg e u a))) = false)
    ∧ (∃ (s : State) (e : Eng) (u : Thr) (d a b : QReg) (n : Line) (l : Bool), Issues s e u (qA 0x3A d a b (edgeSub n l
      false true)) ∧ s.lineBound n e u = true ∧ (s.line n).lastAt.all (future (onGrid (s.qreg e u a))) = true ∧ (s.line
      n).queue.length < 4)
    ∧ (∃ (s : State) (e : Eng) (u : Thr) (d a b : QReg) (n : Line) (l : Bool), Issues s e u (qA 0x3A d a b (edgeSub n l
      false true)) ∧ s.lineBound n e u = true ∧ (s.line n).lastAt.all (future (onGrid (s.qreg e u a))) = true ∧ 4 ≤ (s.line
      n).queue.length)
    ∧ (∃ (s : State) (e : Eng) (u : Thr) (d a b : QReg) (n : Line) (l : Bool), Issues s e u (qA 0x3A d a b (edgeSub n l
      false true)) ∧ s.lineBound n e u = false)
    ∧ (∃ (s : State) (e : Eng) (u : Thr) (d a b : QReg) (n : Line) (l : Bool), Issues s e u (qA 0x3A d a b (edgeSub n l
      false true)) ∧ s.lineBound n e u = true ∧ (s.line n).lastAt.all (future (onGrid (s.qreg e u a))) = false)
    ∧ (∃ (s : State) (e : Eng) (u : Thr) (d b : QReg) (n : Line) (l : Bool), Issues s e u (qA 0x3A d 0 b (edgeSub n l true
      false)) ∧ s.lineBound n e u = true ∧ (s.line n).lastAt.all (future (onGrid s.now)) = true ∧ (s.line n).queue.length <
      4)
    ∧ (∃ (s : State) (e : Eng) (u : Thr) (d b : QReg) (n : Line) (l : Bool), Issues s e u (qA 0x3A d 0 b (edgeSub n l true
      false)) ∧ s.lineBound n e u = true ∧ (s.line n).lastAt.all (future (onGrid s.now)) = true ∧ 4 ≤ (s.line
      n).queue.length) :=
  ⟨⟨(((wThr (qA 0x3A 5 1 0 (edgeSub 9 true false false)) 7 0).wr (dlA 9 4) 0x80000302).wr (dlA 9 0) (ownWord ⟨0, true⟩
    0x43)), 3, 2, 5, 1, 0, 9, true, by decide⟩,
   ⟨((((wThr (qA 0x3A 5 1 0 (edgeSub 9 true false false)) 7 0).wr (dlA 9 4) 0x80000302).wr (dlA 9 0) (ownWord ⟨0, true⟩
     0x43)).setLine 9 { queue := List.replicate 4 { at_ := 0, level := true } }), 3, 2, 5, 1, 0, 9, true, by decide⟩,
   ⟨(wThr (qA 0x3A 5 1 0 (edgeSub 9 true false false)) 7 0), 3, 2, 5, 1, 0, 9, true, by decide⟩,
   ⟨((((wThr (qA 0x3A 5 1 0 (edgeSub 9 true false false)) 5 0).wr (dlA 9 4) 0x80000302).wr (dlA 9 0) (ownWord ⟨0, true⟩
     0x43)).setLine 9 { queue := [{ at_ := 8, level := true }], lastAt := some 8 }), 3, 2, 5, 1, 0, 9, true, by decide⟩,
   ⟨(((wThr (qA 0x3A 5 1 0 (edgeSub 9 true false true)) 7 0).wr (dlA 9 4) 0x80000302).wr (dlA 9 0) (ownWord ⟨0, true⟩
     0x43)), 3, 2, 5, 1, 0, 9, true, by decide⟩,
   ⟨((((wThr (qA 0x3A 5 1 0 (edgeSub 9 true false true)) 7 0).wr (dlA 9 4) 0x80000302).wr (dlA 9 0) (ownWord ⟨0, true⟩
     0x43)).setLine 9 { queue := List.replicate 4 { at_ := 0, level := true } }), 3, 2, 5, 1, 0, 9, true, by decide⟩,
   ⟨(wThr (qA 0x3A 5 1 0 (edgeSub 9 true false true)) 7 0), 3, 2, 5, 1, 0, 9, true, by decide⟩,
   ⟨((((wThr (qA 0x3A 5 1 0 (edgeSub 9 true false true)) 5 0).wr (dlA 9 4) 0x80000302).wr (dlA 9 0) (ownWord ⟨0, true⟩
     0x43)).setLine 9 { queue := [{ at_ := 8, level := true }], lastAt := some 8 }), 3, 2, 5, 1, 0, 9, true, by decide⟩,
   ⟨(((wThr (qA 0x3A 5 0 0 (edgeSub 9 true true false)) 7 0).wr (dlA 9 4) 0x80000302).wr (dlA 9 0) (ownWord ⟨0, true⟩
     0x43)), 3, 2, 5, 0, 9, true, by decide⟩,
   ⟨((((wThr (qA 0x3A 5 0 0 (edgeSub 9 true true false)) 7 0).wr (dlA 9 4) 0x80000302).wr (dlA 9 0) (ownWord ⟨0, true⟩
     0x43)).setLine 9 { queue := List.replicate 4 { at_ := 0, level := true } }), 3, 2, 5, 0, 9, true, by decide⟩⟩

/-- States and operands that meet the hypotheses of `Obligations.EngineLines`, part 2. -/
theorem meets_EngineLines_2 :
    (∃ (s : State) (e : Eng) (u : Thr) (d b : QReg) (n : Line) (l : Bool), Issues s e u (qA 0x3A d 0 b (edgeSub n l true
      false)) ∧ s.lineBound n e u = false)
    ∧ (∃ (s : State) (e : Eng) (u : Thr) (d b : QReg) (n : Line) (l : Bool), Issues s e u (qA 0x3A d 0 b (edgeSub n l true
      false)) ∧ s.lineBound n e u = true ∧ (s.line n).lastAt.all (future (onGrid s.now)) = false)
    ∧ (∃ (s : State) (e : Eng) (u : Thr) (d b : QReg) (n : Line) (l : Bool), Issues s e u (qA 0x3A d 0 b (edgeSub n l true
      true)) ∧ s.lineBound n e u = true ∧ (s.line n).lastAt.all (future (onGrid s.now)) = true ∧ (s.line n).queue.length <
      4)
    ∧ (∃ (s : State) (e : Eng) (u : Thr) (d b : QReg) (n : Line) (l : Bool), Issues s e u (qA 0x3A d 0 b (edgeSub n l true
      true)) ∧ s.lineBound n e u = true ∧ (s.line n).lastAt.all (future (onGrid s.now)) = true ∧ 4 ≤ (s.line
      n).queue.length)
    ∧ (∃ (s : State) (e : Eng) (u : Thr) (d b : QReg) (n : Line) (l : Bool), Issues s e u (qA 0x3A d 0 b (edgeSub n l true
      true)) ∧ s.lineBound n e u = false)
    ∧ (∃ (s : State) (e : Eng) (u : Thr) (d b : QReg) (n : Line) (l : Bool), Issues s e u (qA 0x3A d 0 b (edgeSub n l true
      true)) ∧ s.lineBound n e u = true ∧ (s.line n).lastAt.all (future (onGrid s.now)) = false)
    ∧ (∃ (s : State) (e : Eng) (u : Thr) (d : QReg) (n : Line) (l : Bool) (at_ : Option Word), s.accepts 4 = true ∧
      s.thState e u = 3 ∧ (s.thr e u).held = some (.edge d n at_ l) ∧ s.lineBound n e u = true ∧ (s.line n).lastAt.all
      (future (onGrid (at_.getD s.now))) = true ∧ (s.line n).queue.length < 4)
    ∧ (∃ (s : State) (e : Eng) (u : Thr) (d : QReg) (n : Line), Issues s e u (qA 0x3B d 0 0 n) ∧ ownTags (s.rd (dlA n 0)) =
      (s.threadTags (e * 8 + u)))
    ∧ (∃ (s : State) (e : Eng) (u : Thr) (d : QReg) (n : Line), Issues s e u (qA 0x3B d 0 0 n) ∧ ¬ (ownTags (s.rd (dlA n 0))
      = (s.threadTags (e * 8 + u))))
    ∧ (∃ (s : State) (e : Eng) (u : Thr) (d : QReg) (n : Line), Issues s e u (qA 0x3B d 0 0 (n + 64)) ∧ s.lineBound n e u =
      true) :=
  ⟨⟨(wThr (qA 0x3A 5 0 0 (edgeSub 9 true true false)) 7 0), 3, 2, 5, 0, 9, true, by decide⟩,
   ⟨((((wThr (qA 0x3A 5 0 0 (edgeSub 9 true true false)) 5 0).wr (dlA 9 4) 0x80000302).wr (dlA 9 0) (ownWord ⟨0, true⟩
     0x43)).setLine 9 { queue := [{ at_ := 8, level := true }], lastAt := some 8 }), 3, 2, 5, 0, 9, true, by decide⟩,
   ⟨(((wThr (qA 0x3A 5 0 0 (edgeSub 9 true true true)) 7 0).wr (dlA 9 4) 0x80000302).wr (dlA 9 0) (ownWord ⟨0, true⟩ 0x43)),
     3, 2, 5, 0, 9, true, by decide⟩,
   ⟨((((wThr (qA 0x3A 5 0 0 (edgeSub 9 true true true)) 7 0).wr (dlA 9 4) 0x80000302).wr (dlA 9 0) (ownWord ⟨0, true⟩
     0x43)).setLine 9 { queue := List.replicate 4 { at_ := 0, level := true } }), 3, 2, 5, 0, 9, true, by decide⟩,
   ⟨(wThr (qA 0x3A 5 0 0 (edgeSub 9 true true true)) 7 0), 3, 2, 5, 0, 9, true, by decide⟩,
   ⟨((((wThr (qA 0x3A 5 0 0 (edgeSub 9 true true true)) 5 0).wr (dlA 9 4) 0x80000302).wr (dlA 9 0) (ownWord ⟨0, true⟩
     0x43)).setLine 9 { queue := [{ at_ := 8, level := true }], lastAt := some 8 }), 3, 2, 5, 0, 9, true, by decide⟩,
   ⟨(((((wThr (0) 0 0).wr (dlA 9 4) 0x80000302).wr (dlA 9 0) (ownWord ⟨0, true⟩ 0x43)).hold 3 2 (.edge 5 9 (some 33)
     true))), 3, 2, 5, 9, true, (some 33), by decide⟩,
   ⟨((((wThr (qA 0x3B 5 0 0 9) 0 0).wr (dlA 9 4) 0x80000302).wr (dlA 9 0) (ownWord ⟨0, true⟩ 0x43)).setLine 9
     { queue := List.replicate 4 { at_ := 0, level := true } }), 3, 2, 5, 9, by decide⟩,
   ⟨(wThr (qA 0x3B 5 0 0 9) 0 0), 3, 2, 5, 9, by decide⟩,
   ⟨((((wThr (qA 0x3B 5 0 0 73) 0 0).wr (dlA 9 4) 0x80000302).wr (dlA 9 0) (ownWord ⟨0, true⟩ 0x43)).setLine 9
     { queue := List.replicate 4 { at_ := 0, level := true } }), 3, 2, 5, 9, by decide⟩⟩

/-- States and operands that meet the hypotheses of `Obligations.EngineLines`, part 3. -/
theorem meets_EngineLines_3 :
    (∃ (s : State) (e : Eng) (u : Thr) (d : QReg) (n : Line), Issues s e u (qA 0x3B d 0 0 (n + 64)) ∧ s.lineBound n e u =
      false) :=
  ⟨((wThr (qA 0x3B 5 0 0 73) 0 0).setLine 9 { queue := List.replicate 4 { at_ := 0, level := true } }), 3, 2, 5, 9,
    by decide⟩

/-- States and operands that meet the hypotheses of `Obligations.EngineMeasurement`, part 1. -/
theorem meets_EngineMeasurement_1 :
    (∃ (s : State) (e : Eng) (u : Thr) (d : QReg) (x : Sample) (r : List Sample), Issues s e u (qA 0x3C d 0 0 0) ∧ 0 < d.val
      ∧ d.val < 15 ∧ (s.eng e).fifo = x :: r)
    ∧ (∃ (s : State) (e : Eng) (u : Thr) (d : QReg), Issues s e u (qA 0x3C d 0 0 0) ∧ 0 < d.val ∧ d.val < 15 ∧ (s.eng
      e).fifo = [])
    ∧ (∃ (s : State) (e : Eng) (u : Thr) (d : QReg) (n : Fin 64) (k : Fin 8) (x : Sample), Issues s e u (qA 0x3C d 0 0
      (0x2000 + k.val * 64 + n.val)) ∧ 0 < d.val ∧ d.val < 15 ∧ k.val < 6 ∧ (k.val = 5 → n.val < 32) ∧ s.mayReadOwned
      (s.threadTags (e * 8 + u)) (if k.val = 5 then sinA n 0 else chA n 0) = true ∧ smGet (fun _ => none) s.mirror (n.val *
      8 + k.val) = some x)
    ∧ (∃ (s : State) (e : Eng) (u : Thr) (d : QReg) (n : Fin 64) (k : Fin 8), Issues s e u (qA 0x3C d 0 0 (0x2000 + k.val *
      64 + n.val)) ∧ 0 < d.val ∧ d.val < 15 ∧ k.val < 6 ∧ (k.val = 5 → n.val < 32) ∧ s.mayReadOwned (s.threadTags (e * 8 +
      u)) (if k.val = 5 then sinA n 0 else chA n 0) = true ∧ smGet (fun _ => none) s.mirror (n.val * 8 + k.val) = none)
    ∧ (∃ (s : State) (e : Eng) (u : Thr) (d : QReg) (n : Fin 64) (k : Fin 8), Issues s e u (qA 0x3C d 0 0 (0x2000 + k.val *
      64 + n.val)) ∧ 0 < d.val ∧ d.val < 15 ∧ k.val < 6 ∧ (k.val = 5 → n.val < 32) ∧ s.mayReadOwned (s.threadTags (e * 8 +
      u)) (if k.val = 5 then sinA n 0 else chA n 0) = false)
    ∧ (∃ (s : State) (e : Eng) (u : Thr) (d : QReg) (n : Fin 64) (k : Fin 8), Issues s e u (qA 0x3C d 0 0 (0x2000 + k.val *
      64 + n.val)) ∧ 0 < d.val ∧ d.val < 15 ∧ k.val < 6 ∧ k.val = 5 ∧ 32 ≤ n.val)
    ∧ (∃ (s : State) (k : Fin 8) (x : Sample) (dl : Link) (sn : Fin 32) (n0 : Nat), s.logicOn = true ∧ s.accepts 4 = true ∧
      (dl.val = 2 ↔ k.val = 5) ∧ s.measTx.find? (fun y => fld y.x.w0 24 22 = k.val ∧ fld y.x.w0 21 16 = if dl.val = 2 then
      sn.val else dl * 32 + sn) = some ⟨x, n0⟩)
    ∧ (∃ (s : State) (k : Fin 8) (x : Sample) (dl : Link) (sn : Fin 32) (n0 : Nat), s.logicOn = true ∧ s.accepts 4 = true ∧
      (dl.val = 2 ↔ k.val = 5) ∧ s.measTx.find? (fun y => fld y.x.w0 24 22 = k.val ∧ fld y.x.w0 21 16 = if dl.val = 2 then
      sn.val else dl * 32 + sn) = some ⟨x, n0⟩ ∧ (∀ g ∈ List.range 16, ∀ y ∈ List.range 16, s.rb (secA g (0x600 + y * 4)) 31
      = false))
    ∧ (∃ (s : State) (e : Eng) (k : Fin 8) (x : Sample) (j : Fin 16) (dl : Link) (sn : Fin 32) (n0 : Nat), s.logicOn = true
      ∧ s.accepts 4 = true ∧ (dl.val = 2 ↔ k.val = 5) ∧ s.measTx.find? (fun y => fld y.x.w0 24 22 = k.val ∧ fld y.x.w0 21 16
      = if dl.val = 2 then sn.val else dl * 32 + sn) = some ⟨x, n0⟩ ∧ (∀ g ∈ List.range 16, ∀ y ∈ List.range 16, (g = e ∧ y
      = j) ∨ s.rb (secA g (0x600 + y * 4)) 31 = false) ∧ bit (s.rd (secA e (0x600 + j * 4))) 31 = true ∧ fld (s.rd (secA e
      (0x600 + j * 4))) 26 24 = fld x.w0 24 22 ∧ fld (s.rd (secA e (0x600 + j * 4))) 21 16 = fld x.w0 21 16 ∧ smGet (fun _
      => 0) (s.eng e).since j ≤ n0 ∧ smGet (fun _ => 0) (s.eng e).seen j = 0 ∧ (s.eng e).fifo.length < 64)
    ∧ (∃ (s : State) (e : Eng) (u : Thr) (d a b : QReg) (c : Ch) (tf : Bool), Issues s e u (qA 0x3D d a b 0) ∧ fld (s.qreg e
      u a) 21 16 = c.val ∧ 0xC ≤ (fld (s.qreg e u a) 7 0) ∧ (fld (s.qreg e u a) 7 0) ≤ 0x7C ∧ (fld (s.qreg e u a) 7 0) % 4 =
      0 ∧ ChWrites s ⟨.thread e u, tf⟩ c (fld (s.qreg e u a) 7 0)) :=
  ⟨⟨((wThr (qA 0x3C 5 0 0 0) 0 0).setEng 3 { fifo := [⟨1, 2⟩, ⟨3, 4⟩] }), 3, 2, 5, ⟨1, 2⟩, [⟨3, 4⟩], by decide⟩,
   ⟨(wThr (qA 0x3C 5 0 0 0) 0 0), 3, 2, 5, by decide⟩,
   ⟨{ (wThr (qA 0x3C 5 0 0 (0x2000 + 2 * 64 + 9)) 0 0) with mirror := [(74, some ⟨7, 8⟩)] }, 3, 2, 5, 9, 2, ⟨7, 8⟩,
     by decide⟩,
   ⟨(wThr (qA 0x3C 5 0 0 (0x2000 + 5 * 64 + 31)) 0 0), 3, 2, 5, 31, 5, by decide⟩,
   ⟨((wThr (qA 0x3C 5 0 0 (0x2000 + 2 * 64 + 9)) 0 0).wr (tnmBase + 0x200 + 26 * 4) 0x80000005), 3, 2, 5, 9, 2, by decide⟩,
   ⟨(wThr (qA 0x3C 5 0 0 (0x2000 + 5 * 64 + 32)) 0 0), 3, 2, 5, 32, 5, by decide⟩,
   ⟨({ ((wThr (0) 0 0)) with measTx := [⟨⟨1, 1⟩, 6⟩, ⟨⟨0x01490007, 5⟩, 7⟩, ⟨⟨2, 2⟩, 8⟩] }), 5, ⟨0x01490007, 5⟩, 2, 9, 7,
     by decide⟩,
   ⟨({ ((wThr (0) 0 0)) with measTx := [⟨⟨1, 1⟩, 6⟩, ⟨⟨0x01490007, 5⟩, 7⟩, ⟨⟨2, 2⟩, 8⟩] }), 5, ⟨0x01490007, 5⟩, 2, 9, 7,
     by decide⟩,
   ⟨({ ((((wThr (0) 0 0).wr (secA 3 0x60C) 0x85090001).setEng 3 { since := [(3, 7)] })) with measTx := [⟨⟨1, 1⟩, 6⟩, ⟨⟨0x01490007, 5⟩, 7⟩, ⟨⟨2, 2⟩, 8⟩] }),
     3, 5, ⟨0x01490007, 5⟩, 3, 2, 9, 7, by decide⟩,
   ⟨(((((((((wChOwned 7 0 true).wf (thA 3 2 4) 2 0 1).wr (thA 3 2 8) 0x40000000).wr (thA 3 2 0xC) 0xBE00).setQreg 3 2 1
     0x0007000C).setQreg 3 2 2 2).stLE (imA 3 0) 4 (qA 0x3D 5 1 2 0).toNat).wr (chA 7 0xC) 0)), 3, 2, 5, 1, 2, 7, false,
     by decide⟩⟩

/-- States and operands that meet the hypotheses of `Obligations.EngineMeasurement`, part 2. -/
theorem meets_EngineMeasurement_2 :
    (∃ (s : State) (e : Eng) (u : Thr) (d a b : QReg) (c : Ch) (tf : Bool), Issues s e u (qA 0x3D d a b 0) ∧ fld (s.qreg e u
      a) 21 16 = c.val ∧ (fld (s.qreg e u a) 7 0) = 0xC ∧ ChWrites s ⟨.thread e u, tf⟩ c 0xC)
    ∧ (∃ (s : State) (e : Eng) (u : Thr) (d a b : QReg) (c : Ch) (tf : Bool), Issues s e u (qA 0x3D d a b 0) ∧ fld (s.qreg e
      u a) 21 16 = c.val ∧ (fld (s.qreg e u a) 7 0) = 0xC ∧ ChWrites s ⟨.thread e u, tf⟩ c 0xC ∧ s.qreg e u b = 3 ∧ s.rf
      (chA c 4) 1 0 = 1 ∧ s.chState c = 0 ∧ (s.chI c).parEn = false ∧ s.uv (c / 32) = false ∧ s.limp (c / 32) = false ∧ s.rb
      (chA c 0x24) 8 = false ∧ s.rb (chA c 0x24) 9 = false ∧ ownHeld (s.rd (chA c 0)) = true ∧ s.interlock c = true ∧ (s.die
      (c / 32)).stagger = false)
    ∧ (∃ (s : State) (e : Eng) (u : Thr) (d a b : QReg) (c : Ch), Issues s e u (qA 0x3D d a b 0) ∧ fld (s.qreg e u a) 21 16
      = c.val ∧ s.mustWait (16 + c / 32) = false ∧ ((fld (s.qreg e u a) 7 0) < 0xC ∨ 0x7C < (fld (s.qreg e u a) 7 0) ∨ (fld
      (s.qreg e u a) 7 0) % 4 ≠ 0))
    ∧ (∃ (s : State) (e : Eng) (u : Thr) (d a b : QReg) (c : Ch), Issues s e u (qA 0x3D d a b 0) ∧ fld (s.qreg e u a) 21 16
      = c.val ∧ 0xC ≤ (fld (s.qreg e u a) 7 0) ∧ (fld (s.qreg e u a) 7 0) ≤ 0x7C ∧ (fld (s.qreg e u a) 7 0) % 4 = 0 ∧
      FarReaches s ⟨.thread e u, false⟩ (c / 32) (chA c (fld (s.qreg e u a) 7 0)) ∧ s.mayWriteOwned (s.threadTags (e * 8 +
      u)) (chA c 0) = false) :=
  ⟨⟨(((((((((wChOwned 7 0 true).wf (thA 3 2 4) 2 0 1).wr (thA 3 2 8) 0x40000000).wr (thA 3 2 0xC) 0xBE00).setQreg 3 2 1
    0x0007000C).setQreg 3 2 2 2).stLE (imA 3 0) 4 (qA 0x3D 5 1 2 0).toNat).wr (chA 7 0xC) 0)), 3, 2, 5, 1, 2, 7, false,
    by decide⟩,
   ⟨(((((((((wChOwned 7 0 true).wf (thA 3 2 4) 2 0 1).wr (thA 3 2 8) 0x40000000).wr (thA 3 2 0xC) 0xBE00).setQreg 3 2 1
     0x0007000C).setQreg 3 2 2 3).stLE (imA 3 0) 4 (qA 0x3D 5 1 2 0).toNat).wr (chA 7 0xC) 0)), 3, 2, 5, 1, 2, 7, false,
     by decide⟩,
   ⟨(wThr (qA 0x3D 5 1 2 0) 0x00070008 0), 3, 2, 5, 1, 2, 7, by decide⟩,
   ⟨((((((((((wChOwned 7 0 true).wf (thA 3 2 4) 2 0 1).wr (thA 3 2 8) 0x40000000).wr (thA 3 2 0xC) 0xBE00).setQreg 3 2 1
     0x0007000C).setQreg 3 2 2 3).stLE (imA 3 0) 4 (qA 0x3D 5 1 2 0).toNat).wr (chA 7 0xC) 0)).wr (tnmBase + 0x200 + 26 * 4)
     0x80000005), 3, 2, 5, 1, 2, 7, by decide⟩⟩

/-- States and operands that meet the hypotheses of `Obligations.EngineControl`, part 1. -/
theorem meets_EngineControl_1 :
    (∃ (s : State) (a : Acc) (e : Eng) (u : Thr), Reaches s a (secA e 0) ∧ Manager s a ∧ (s.thState e u = 0 ∨ s.thState e u
      = 4 ∨ s.thState e u = 5))
    ∧ (∃ (s : State) (a : Acc) (e : Eng) (u : Thr), Reaches s a (secA e 0) ∧ Manager s a ∧ NoHart a ∧ ¬ (s.thState e u = 0 ∨
      s.thState e u = 4 ∨ s.thState e u = 5))
    ∧ (∃ (s : State) (a : Acc) (e : Eng) (u : Thr), Reaches s a (secA e 0) ∧ Manager s a ∧ (s.thState e u = 1 ∨ s.thState e
      u = 2))
    ∧ (∃ (s : State) (a : Acc) (e : Eng) (u : Thr), Reaches s a (secA e 0) ∧ Manager s a ∧ s.thState e u = 3)
    ∧ (∃ (s : State) (a : Acc) (e : Eng) (u : Thr), Reaches s a (secA e 0) ∧ Manager s a ∧ (s.thState e u = 0 ∨ s.thState e
      u = 4 ∨ s.thState e u = 5))
    ∧ (∃ (s : State) (a : Acc) (e : Eng) (u : Thr), Reaches s a (secA e 0) ∧ Manager s a ∧ (s.thState e u = 0 ∨ s.thState e
      u = 5))
    ∧ (∃ (s : State) (a : Acc) (e : Eng) (u : Thr), Reaches s a (secA e 0) ∧ Manager s a ∧ s.thState e u = 4)
    ∧ (∃ (s : State) (a : Acc) (e : Eng) (u : Thr), Reaches s a (secA e 0) ∧ Manager s a ∧ NoHart a ∧ ¬ (s.thState e u = 0 ∨
      s.thState e u = 4 ∨ s.thState e u = 5))
    ∧ (∃ (s : State) (a : Acc) (e : Eng), Reaches s a (secA e 0) ∧ Manager s a)
    ∧ (∃ (s : State) (a : Acc) (e : Eng), Reaches s a (secA e 0) ∧ Manager s a) :=
  ⟨⟨(wOn.wf (thA 3 2 4) 7 0 0), mgr, 3, 2, by decide⟩,
   ⟨(wOn.wf (thA 3 2 4) 7 0 1), mgr, 3, 2, by decide⟩,
   ⟨(wThr 0 0 0), mgr, 3, 2, by decide⟩,
   ⟨((wThr 0 0 0).setThState 3 2 3), mgr, 3, 2, by decide⟩,
   ⟨wOn, mgr, 3, 2, by decide⟩,
   ⟨wOn, mgr, 3, 2, by decide⟩,
   ⟨(wOn.wf (thA 3 2 4) 7 0 0x34), mgr, 3, 2, by decide⟩,
   ⟨(wThr 0 0 0), mgr, 3, 2, by decide⟩,
   ⟨(((wThr 0 0 0).setThState 3 4 3).setThState 3 5 2), mgr, 3, by decide⟩,
   ⟨wOn, mgr, 3, by decide⟩⟩

/-- States and operands that meet the hypotheses of `Obligations.EngineControl`, part 2. -/
theorem meets_EngineControl_2 :
    (∃ (s : State) (a : Acc) (e : Eng) (u : Thr), Reaches s a (secA e 0) ∧ (Manager s a ∨ s.tagsOf a.who = s.threadTags (e *
      8 + u)))
    ∧ (∃ (s : State) (a : Acc) (e : Eng) (u : Thr), Reaches s a (secA e 0) ∧ NoHart a ∧ ¬ Manager s a ∧ s.tagsOf a.who ≠
      s.threadTags (e * 8 + u))
    ∧ (∃ (s : State) (a : Acc) (e : Eng) (off : Fin 32) (v : Word), Reaches s a (secA e 0) ∧ Manager s a ∧ off.val = 2 ∧ fld
      v 13 0 < fld v 30 16 ∧ fld v 30 16 ≤ 16384)
    ∧ (∃ (s : State) (a : Acc) (e : Eng) (off : Fin 32) (v : Word), Reaches s a (secA e 0) ∧ Manager s a ∧ NoHart a ∧
      off.val = 2 ∧ (fld v 30 16 ≤ fld v 13 0 ∨ 16384 < fld v 30 16))
    ∧ (∃ (s : State) (a : Acc) (e : Eng) (u : Thr) (off : Fin 32) (v : Word), Reaches s a (secA e 0) ∧ Manager s a ∧ off.val
      = 3 ∧ fld v 7 0 ≤ fld v 15 8 ∧ fld v 15 8 ≤ 0xBE ∧ s.boundsMeet e u (s.threadTags (e * 8 + u)) (fld v 7 0) (fld v 15
      8) = false)
    ∧ (∃ (s : State) (a : Acc) (e : Eng) (off : Fin 32) (v : Word), Reaches s a (secA e 0) ∧ Manager s a ∧ 8 ≤ off.val ∧
      off.val < 16 ∧ fld v 26 24 < 6)
    ∧ (∃ (s : State) (a : Acc) (e : Eng) (u : Thr) (off : Fin 32), Reaches s a (secA e 0) ∧ Manager s a ∧ (off.val = 5 ∨ 16
      ≤ off.val) ∧ (s.thState e u = 0 ∨ s.thState e u = 4 ∨ s.thState e u = 5))
    ∧ (∃ (s : State) (a : Acc) (e : Eng) (u : Thr) (off : Fin 32), Reaches s a (secA e 0) ∧ Manager s a ∧ NoHart a ∧
      (off.val = 5 ∨ 16 ≤ off.val) ∧ ¬ (s.thState e u = 0 ∨ s.thState e u = 4 ∨ s.thState e u = 5))
    ∧ (∃ (s : State) (a : Acc) (n : Line), Reaches s a (secA (n / 4) 0) ∧ s.mayWriteOwned (s.tagsOf a.who) (dlA n 0) = true
      ∧ (s.line n).queue = [])
    ∧ (∃ (s : State) (a : Acc) (n : Line), Reaches s a (secA (n / 4) 0) ∧ s.mayWriteOwned (s.tagsOf a.who) (dlA n 0) = true
      ∧ NoHart a ∧ (s.line n).queue ≠ []) :=
  ⟨⟨(wOn.wr (thA 3 2 0x10) 1), mgr, 3, 2, by decide⟩,
   ⟨(wOn.wr (wcA 0x18) 0), ten, 3, 2, by decide⟩,
   ⟨wOn, mgr, 3, 2, 0x40003FFF, by decide⟩,
   ⟨wOn, mgr, 3, 2, 0x00050005, by decide⟩,
   ⟨wOn, mgr, 3, 2, 3, 0xBE00, by decide⟩,
   ⟨wOn, mgr, 3, 15, 0x850001FF, by decide⟩,
   ⟨wOn, mgr, 3, 2, 5, by decide⟩,
   ⟨(wThr 0 0 0), mgr, 3, 2, 17, by decide⟩,
   ⟨wOn, mgr, 9, by decide⟩,
   ⟨(wOn.setLine 9 { queue := [⟨0, true, false, false⟩] }), mgr, 9, by decide⟩⟩

/-- States and operands that meet the hypotheses of `Obligations.EngineControl`, part 3. -/
theorem meets_EngineControl_3 :
    (∃ (s : State) (a : Acc) (e : Eng) (v : Word), Reaches s a (secA e 0) ∧ Manager s a ∧ fld v 26 24 < 6 ∧ 1 ≤ fld v 9 0 ∧
      fld v 9 0 ≤ 1000 ∧ (fld v 26 24 = 5 → fld v 21 16 < 32))
    ∧ (∃ (s : State) (a : Acc) (e : Eng) (v : Word), Reaches s a (secA e 0) ∧ Manager s a ∧ NoHart a ∧ (fld v 9 0 = 0 ∨ 1000
      < fld v 9 0 ∨ 6 ≤ fld v 26 24))
    ∧ (∃ (s : State) (a : Acc) (e : Eng), Reaches s a (secA e 0) ∧ Manager s a)
    ∧ (∃ (s : State) (a : Acc) (addr : Addr) (k : Nat), winBase ≤ addr.toNat ∧ addr.toNat < winBase + 0x200000 ∧ Reaches s a
      addr.toNat ∧ (addr.toNat - winBase) % 0x20000 < 0x10000 ∧ (k = 4 ∨ k = 8) ∧ (addr.toNat - winBase) % k = 0 ∧ Manager s
      a ∧ s.rb (secA ((addr.toNat - winBase) / 0x20000) 0) 0 = false ∧ (∀ h, h < 8 → s.thState ((addr.toNat - winBase) /
      0x20000) h = 0))
    ∧ (∃ (s : State) (a : Acc) (addr : Addr) (k : Nat), winBase ≤ addr.toNat ∧ addr.toNat < winBase + 0x200000 ∧ Reaches s a
      addr.toNat ∧ 0x10000 ≤ (addr.toNat - winBase) % 0x20000 ∧ (k = 1 ∨ k = 2 ∨ k = 4 ∨ k = 8) ∧ (addr.toNat - winBase) % k
      = 0 ∧ (Manager s a ∨ ∃ h ∈ List.range 8, s.threadTags ((addr.toNat - winBase) / 0x20000 * 8 + h) = s.tagsOf a.who ∧
      s.inBounds ((addr.toNat - winBase) / 0x20000) h ((addr.toNat - winBase) % 0x10000) k = true))
    ∧ (∃ (s : State) (a : Acc) (addr : Addr) (k : Nat), winBase ≤ addr.toNat ∧ addr.toNat < winBase + 0x200000 ∧ Reaches s a
      addr.toNat ∧ NoHart a ∧ (addr.toNat - winBase) % 0x20000 < 0x10000 ∧ (k = 4 ∨ k = 8) ∧ (addr.toNat - winBase) % k = 0
      ∧ Manager s a ∧ s.rb (secA ((addr.toNat - winBase) / 0x20000) 0) 0 = false ∧ (∃ h ∈ List.range 8, s.thState
      ((addr.toNat - winBase) / 0x20000) h ≠ 0))
    ∧ (∃ (s : State) (a : Acc) (addr : Addr), winBase ≤ addr.toNat ∧ addr.toNat < winBase + 0x200000 ∧ Reaches s a
      addr.toNat ∧ NoHart a ∧ (addr.toNat - winBase) % 0x20000 < 0x10000 ∧ ¬ Manager s a) :=
  ⟨⟨wOn, mgr, 3, 0x851F03E8, by decide⟩,
   ⟨wOn, mgr, 3, 0x851F0000, by decide⟩,
   ⟨(wOn.wr (secA 3 0x640) 0x00FF0001), mgr, 3, by decide⟩,
   ⟨wOn, mgr, 0x40260010, 8, by decide⟩,
   ⟨wOn, mgr, 0x40270010, 8, by decide⟩,
   ⟨(wThr 0 0 0), mgr, 0x40260010, 8, by decide⟩,
   ⟨(wOn.wr (wcA 0x18) 0), ten, 0x40260010, by decide⟩⟩

/-- States and operands that meet the hypotheses of `Obligations.Cellar`, part 1. -/
theorem meets_Cellar_1 :
    (∃ (s : State) (a : Acc) (h : BitVec 16), Reaches s a (enA h.toNat 0) ∧ s.enMayWrite (s.tagsOf a.who) h.toNat = true ∧
      s.restoring (s.tagsOf a.who) = false ∧ s.enBare h.toNat = false ∧ s.enBad h.toNat 2 = false ∧ s.enBad h.toNat 3 =
      false ∧ (s.rb (enA h.toNat 1) 9 = false ∨ s.rb (enA h.toNat 1) 8 = true ∨ future s.now (s.rd (enA h.toNat 2)) = true)
      ∧ s.clr.snap = none ∧ s.rb (enA h.toNat 6) 24 = false)
    ∧ (∃ (s : State) (a : Acc) (h : BitVec 16), Reaches s a (enA h.toNat 0) ∧ s.enMayWrite (s.tagsOf a.who) h.toNat = true ∧
      s.restoring (s.tagsOf a.who) = false ∧ s.enBare h.toNat = false ∧ s.enBad h.toNat 2 = false ∧ s.enBad h.toNat 3 =
      false ∧ (s.rb (enA h.toNat 1) 9 = false ∨ s.rb (enA h.toNat 1) 8 = true ∨ future s.now (s.rd (enA h.toNat 2)) = true))
    ∧ (∃ (s : State) (a : Acc) (h : BitVec 16), Reaches s a (enA h.toNat 0) ∧ s.enMayWrite (s.tagsOf a.who) h.toNat = true ∧
      s.restoring (s.tagsOf a.who) = false ∧ s.enBare h.toNat = false ∧ s.enBad h.toNat 2 = false ∧ s.enBad h.toNat 3 =
      false ∧ s.rb (enA h.toNat 1) 9 = true ∧ s.rb (enA h.toNat 1) 8 = false ∧ future s.now (s.rd (enA h.toNat 2)) = false)
    ∧ (∃ (s : State) (a : Acc) (h : BitVec 16) (wide : Bool), Reaches s a (enA h.toNat 0) ∧ Manager s a ∧ s.rb (clA 0) 1 =
      true ∧ s.enBare h.toNat = false ∧ s.enBad h.toNat 2 = false ∧ s.enBad h.toNat 3 = false ∧ (wide = false → s.enBad
      h.toNat 0 = false))
    ∧ (∃ (s : State) (a : Acc) (h : BitVec 16), Reaches s a (enA h.toNat 0) ∧ NoHart a ∧ s.enMayWrite (s.tagsOf a.who)
      h.toNat = true ∧ s.restoring (s.tagsOf a.who) = false ∧ s.enBare h.toNat = true)
    ∧ (∃ (s : State) (a : Acc) (h : BitVec 16), Reaches s a (enA h.toNat 0) ∧ NoHart a ∧ s.enMayWrite (s.tagsOf a.who)
      h.toNat = false)
    ∧ (∃ (s : State) (a : Acc) (h : BitVec 16) (wide : Bool) (x : DWord) (w : Fin 4), Reaches s a (enA h.toNat (4 + w)) ∧
      Manager s a ∧ ¬ (w.val = 1 ∧ wide = false ∧ ageTooLong (x.truncate 32) = true) ∧ ¬ (w.val = 0 ∧ wide = true ∧
      ageTooLong ((x >>> 32).truncate 32) = true) ∧ (wide = true → w.val % 2 = 0) ∧ (wide = false → s.enBad h.toNat ((4 + w)
      / 2) = false))
    ∧ (∃ (s : State) (a : Acc) (h : BitVec 16) (wide : Bool) (x : DWord) (w : Fin 4), Reaches s a (enA h.toNat (4 + w)) ∧
      Manager s a ∧ wide = false ∧ ¬ (w.val = 1 ∧ ageTooLong (x.truncate 32) = true) ∧ s.enBad h.toNat ((4 + w) / 2) = false
      ∧ s.clr.snap = none)
    ∧ (∃ (s : State) (a : Acc) (h : BitVec 16) (wide : Bool) (x : DWord) (w : Fin 4), Reaches s a (enA h.toNat (4 + w)) ∧
      Manager s a ∧ wide = true ∧ w.val % 2 = 0 ∧ ¬ (w.val = 0 ∧ ageTooLong ((x >>> 32).truncate 32) = true) ∧ s.clr.snap =
      none)
    ∧ (∃ (s : State) (a : Acc) (h : BitVec 16) (wide : Bool) (x : DWord) (w : Fin 4), Reaches s a (enA h.toNat (4 + w)) ∧
      Manager s a ∧ NoHart a ∧ ((w.val = 1 ∧ wide = false ∧ ageTooLong (x.truncate 32) = true) ∨ (w.val = 0 ∧ wide = true ∧
      ageTooLong ((x >>> 32).truncate 32) = true))) :=
  ⟨⟨(wOn.wr (enA 7 5) 0x64), mgr, 7, by decide⟩,
   ⟨((((((wOn.wr (enA 7 5) 0x64).wr (enA 7 6) 0x1090000).wr (dsA 9 4) 0x8D300000).wr (dsA 9 8) 100).wr (thA 3 2 0x10)
     8).setDs 9 { fired := some 0 }), mgr, 7, by decide⟩,
   ⟨(((wOn.wr (enA 7 5) 0x64).wr (enA 7 1) 0x200).wr (enA 7 2) 5), mgr, 7, by decide⟩,
   ⟨((wOn.wr (enA 7 5) 0x64).wr (clA 0) 2), mgr, 7, false, by decide⟩,
   ⟨wOn, mgr, 7, by decide⟩,
   ⟨(wOn.wr (wcA 0x18) 0), ten, 7, by decide⟩,
   ⟨wOn, mgr, 7, false, 0x200007D0, 1, by decide⟩,
   ⟨wOn, mgr, 7, false, 0x200007D0, 1, by decide⟩,
   ⟨wOn, mgr, 7, true, 0x64000000FF, 0, by decide⟩,
   ⟨wOn, mgr, 7, false, 0x3FFFF, 1, by decide⟩⟩

/-- States and operands that meet the hypotheses of `Obligations.Cellar`, part 2. -/
theorem meets_Cellar_2 :
    (∃ (s : State) (a : Acc) (v : Word) (w : Fin 4) (k : Fin 256), Reaches s a (dsA k 0) ∧ s.mayWriteOwned (s.tagsOf a.who)
      (dsA k 0) = true ∧ w.val = 0 ∧ s.threadTags (fld v 29 26 * 8 + fld v 25 23) = s.ownerOf (dsA k 0) ∧ (fld v 31 30 = 3 →
      s.rf (dsA k 8) 19 0 < s.rf (dsA k 0xC) 19 0))
    ∧ (∃ (s : State) (a : Acc) (v : Word) (w : Fin 4) (k : Fin 256), Reaches s a (dsA k 0) ∧ s.mayWriteOwned (s.tagsOf
      a.who) (dsA k 0) = true ∧ w.val = 1 ∧ 1 ≤ fld v 19 0 ∧ fld v 19 0 ≤ 1000000 ∧ (s.dsMode k = 3 → fld v 19 0 < s.rf (dsA
      k 0xC) 19 0))
    ∧ (∃ (s : State) (a : Acc) (v : Word) (w : Fin 4) (k : Fin 256), Reaches s a (dsA k 0) ∧ s.mayWriteOwned (s.tagsOf
      a.who) (dsA k 0) = true ∧ (w.val = 2 ∧ (s.dsMode k = 3 → s.rf (dsA k 8) 19 0 < fld v 19 0) ∨ w.val = 3))
    ∧ (∃ (s : State) (a : Acc) (v : Word) (w : Fin 4) (k : Fin 256), Reaches s a (dsA k 0) ∧ s.mayWriteOwned (s.tagsOf
      a.who) (dsA k 0) = true ∧ NoHart a ∧ w.val = 1 ∧ (fld v 19 0 = 0 ∨ 1000000 < fld v 19 0))
    ∧ (∃ (s : State) (a : Acc), Reaches s a (clA 0) ∧ Manager s a)
    ∧ (∃ (s : State) (a : Acc) (v : Word) (r : Fin 2048), Reaches s a (clA 0x8000) ∧ Manager s a ∧ s.rf (clA 8) 1 0 < 2 ∧
      (bit v 31 = true → rtDst (decide (0x10 ≤ fld (s.rd (rtStageA (s.rf (clA 8) 1 0 * 2048 + r.val) 1)) 31 24 ∧ fld (s.rd
      (rtStageA (s.rf (clA 8) 1 0 * 2048 + r.val) 1)) 31 24 < 0x18)) (fld (s.rd (rtStageA (s.rf (clA 8) 1 0 * 2048 + r.val)
      1)) 23 16) = true ∧ (fld (s.rd (rtStageA (s.rf (clA 8) 1 0 * 2048 + r.val) 3)) 31 24 = 0xFF ∨ rtDst (decide (0x10 ≤
      fld (s.rd (rtStageA (s.rf (clA 8) 1 0 * 2048 + r.val) 1)) 31 24 ∧ fld (s.rd (rtStageA (s.rf (clA 8) 1 0 * 2048 +
      r.val) 1)) 31 24 < 0x18)) (fld (s.rd (rtStageA (s.rf (clA 8) 1 0 * 2048 + r.val) 3)) 31 24) = true) ∧ fld (s.rd
      (rtStageA (s.rf (clA 8) 1 0 * 2048 + r.val) 3)) 23 16 ≠ 0 ∧ fld (s.rd (rtStageA (s.rf (clA 8) 1 0 * 2048 + r.val) 1))
      13 12 ≠ 3 ∧ ((0x10 ≤ fld (s.rd (rtStageA (s.rf (clA 8) 1 0 * 2048 + r.val) 1)) 31 24 ∧ fld (s.rd (rtStageA (s.rf (clA
      8) 1 0 * 2048 + r.val) 1)) 31 24 < 0x18) → fld (s.rd (rtStageA (s.rf (clA 8) 1 0 * 2048 + r.val) 1)) 13 12 ≠ 0)))
    ∧ (∃ (s : State) (a : Acc) (v : Word) (r : Fin 2048), Reaches s a (clA 0x8000) ∧ NoHart a ∧ Manager s a ∧ s.rf (clA 8) 1
      0 < 2 ∧ bit v 31 = true ∧ fld (s.rd (rtStageA (s.rf (clA 8) 1 0 * 2048 + r.val) 3)) 23 16 = 0)
    ∧ (∃ (s : State) (a : Acc) (e : Fin 4096), Reaches s a (clA 0x8000) ∧ Manager s a ∧ s.rf (clA 8) 1 0 = 2 ∧ fld (s.rd
      (nwStageA e.val)) 23 16 ≠ 0)
    ∧ (∃ (s : State) (a : Acc) (e : Fin 4096), Reaches s a (clA 0x8000) ∧ NoHart a ∧ Manager s a ∧ s.rf (clA 8) 1 0 = 2 ∧
      fld (s.rd (nwStageA e.val)) 23 16 = 0)
    ∧ (∃ (s : State) (a : Acc), Reaches s a (clA 0) ∧ Manager s a ∧ fld (s.rd (clA 0x14)) 15 0 ≤ fld (s.rd (clA 0x14)) 31 16
      ∧ (s.rd (clA 0x18)).toNat % 32 = 0 ∧ 0x10000000 ≤ (s.rd (clA 0x18)).toNat ∧ (s.rd (clA 0x18)).toNat + (fld (s.rd (clA
      0x14)) 31 16 + 1 - fld (s.rd (clA 0x14)) 15 0) * 32 ≤ 0x12000000 ∧ s.clr.snap = none) :=
  ⟨⟨(wOn.wr (dsA 9 8) 100), mgr, 0x4D300000, 0, 9, by decide⟩,
   ⟨(wOn.wr (dsA 9 4) 0x40000000), mgr, 1000000, 1, 9, by decide⟩,
   ⟨(wOn.wr (dsA 9 4) 0x40000000), mgr, 500, 2, 9, by decide⟩,
   ⟨wOn, mgr, 0, 1, 9, by decide⟩,
   ⟨(((wOn.wr (clA 0x40) 7).wr (clA 0x5C) 8).wr (clA 0) 3), mgr, by decide⟩,
   ⟨((wOn.wr (rtStageA 5 1) 0x013F1000).wr (rtStageA 5 3) 0xFF010000), mgr, 0x80000123, 5, by decide⟩,
   ⟨wOn, mgr, 0x80000123, 5, by decide⟩,
   ⟨((wOn.wr (clA 8) 2).wr (nwStageA 4095) 0x05FF0000), mgr, 4095, by decide⟩,
   ⟨(wOn.wr (clA 8) 2), mgr, 9, by decide⟩,
   ⟨((wOn.wr (clA 0x14) 0xFFFF0000).wr (clA 0x18) 0x10000000), mgr, by decide⟩⟩

/-- States and operands that meet the hypotheses of `Obligations.Cellar`, part 3. -/
theorem meets_Cellar_3 :
    (∃ (s : State) (a : Acc), Reaches s a (clA 0) ∧ Manager s a ∧ NoHart a ∧ fld (s.rd (clA 0x14)) 15 0 ≤ fld (s.rd (clA
      0x14)) 31 16 ∧ (s.rd (clA 0x18)).toNat % 32 = 0 ∧ 0x10000000 ≤ (s.rd (clA 0x18)).toNat ∧ (s.rd (clA 0x18)).toNat +
      (fld (s.rd (clA 0x14)) 31 16 + 1 - fld (s.rd (clA 0x14)) 15 0) * 32 ≤ 0x12000000 ∧ s.clr.snap.isSome = true)
    ∧ (∃ (s : State) (a : Acc), Reaches s a (clA 0) ∧ Manager s a ∧ NoHart a ∧ fld (s.rd (clA 0x14)) 31 16 < fld (s.rd (clA
      0x14)) 15 0)
    ∧ (∃ (s : State) (a : Acc), Reaches s a (clA 0) ∧ Manager s a ∧ s.clr.snap = none)
    ∧ (∃ (s : State) (a : Acc) (n : Snap), Reaches s a (clA 0) ∧ Manager s a ∧ s.clr.snap = some n)
    ∧ (∃ (s : State), Canonical s ∧ s.logicOn = true ∧ s.accepts 4 = true)
    ∧ (∃ (s : State), Canonical s ∧ s.logicOn = true ∧ s.accepts 4 = true ∧ s.clr.snap = none ∧ s.nwValid = [])
    ∧ (∃ (s : State) (e : Fin 4096), s.logicOn = true ∧ s.accepts 4 = true ∧ s.enValid = [] ∧ s.nwValid = [e.val] ∧ s.rb
      (clA 0xC) 30 = false ∧ ((s.rf (nwA e 1) 15 14 = 1 ∧ s.rf (nwA e 1) 23 16 * 10000000 < (s.now - s.rd (nwSeenA
      e)).toNat) ∨ (s.rf (nwA e 1) 15 14 = 0 ∧ s.rf (nwA e 1) 23 16 * 10000000 ≤ (s.now - s.rd (nwSinceA e)).toNat)))
    ∧ (∃ (s : State), s.logicOn = true ∧ s.accepts 4 = true)
    ∧ (∃ (s : State) (v : Word) (k : Fin 256), s.accepts 4 = true ∧ s.dsMode k ≠ 0 ∧ (s.ds k).next = some v ∧ reached v
      s.now = true)
    ∧ (∃ (s : State) (v : Word) (k : Fin 256), s.accepts 4 = true ∧ s.dsMode k ≠ 0 ∧ (s.ds k).next = some v ∧ reached v
      s.now = true ∧ s.rb (thA (fld (s.rd (dsA k 4)) 29 26) (fld (s.rd (dsA k 4)) 25 23) 0x10) (fld (s.rd (dsA k 4)) 22 20)
      = false) :=
  ⟨⟨{ ((wOn.wr (clA 0x14) 0xFFFF0000).wr (clA 0x18) 0x10000000) with clr := { snap := some { first := 0, last := 0, dst := 0, done := 0, forPair := false } } },
    mgr, by decide⟩,
   ⟨(wOn.wr (clA 0x14) 1), mgr, by decide⟩,
   ⟨wOn, mgr, by decide⟩,
   ⟨{ wOn with clr := { snap := some { first := 2, last := 4, dst := 0x10000000, done := 2, forPair := false } } }, mgr,
     ({ first := 2, last := 4, dst := 0x10000000, done := 2, forPair := false }), by decide⟩,
   ⟨{ (((((wOn.wr (enA 7 5) 0x64).wr (enA 7 1) 0x200).wr (nwA 9 0) 0x80000123).wr (nwA 9 1) 0x050140FF).wr (clA 0xC) 0x40000005) with tb := { acc := 0x100000000000000 } },
     by decide⟩,
   ⟨((wOn.wr (enA 7 5) 0x64).wr (enA 7 1) 0x200), by decide⟩,
   ⟨{ ((wOn.wr (nwA 9 0) 0x80000123).wr (nwA 9 1) 0x050140FF) with tb := { acc := 0x100000000000000 } }, 9, by decide⟩,
   ⟨wOn, by decide⟩,
   ⟨((((wOn.wr (dsA 9 4) 0x4D300000).wr (dsA 9 8) 100).wr (thA 3 2 0x10) 0xFF).setDs 9 { next := some 0 }), 0, 9,
     by decide⟩,
   ⟨(((wOn.wr (dsA 9 4) 0x4D300000).wr (dsA 9 8) 100).setDs 9 { next := some 0 }), 0, 9, by decide⟩⟩

/-- States and operands that meet the hypotheses of `Obligations.Cellar`, part 4. -/
theorem meets_Cellar_4 :
    (∃ (s : State) (u : Fin 32), s.accepts 4 = true ∧ (s.txTun u).msgs = [])
    ∧ (∃ (s : State) (u : Fin 32), s.accepts 4 = true ∧ (s.txTun u).msgs ≠ [])
    ∧ (∃ (s : State) (n : Snap), s.accepts 4 = true ∧ s.clr.snap = some n ∧ 5000000 ≤ (s.now - s.rd (clA 0x20)).toNat)
    ∧ (∃ (s : State) (n : Snap), s.accepts 4 = true ∧ s.clr.snap = some n ∧ n.first ≤ n.done ∧ (∀ p ∈ n.saved, p.2.length =
      8))
    ∧ (∃ (s : State) (n : Snap), s.accepts 4 = true ∧ s.clr.snap = some n ∧ n.done = n.first ∧ n.saved = [] ∧ n.first ≤
      n.last ∧ n.forPair = false) :=
  ⟨⟨wOn, 0, by decide⟩,
   ⟨(wOn.setTxTun 31 { msgs := [[1, 2, 3], [4]] }), 31, by decide⟩,
   ⟨{ wOn with clr := { snap := some { first := 2, last := 4, dst := 0x10000000, done := 2, forPair := false } }, tb := { acc := 0x100000000000000 } },
     ({ first := 2, last := 4, dst := 0x10000000, done := 2, forPair := false }), by decide⟩,
   ⟨{ ((wOn.wr (enA 3 0) 0x12345678).wr (enA 4 1) 0x3FF) with clr := { snap := some { first := 2, last := 5, dst := 0x10000000, done := 3, forPair := true, saved := [(4, [1, 2, 3, 4, 5, 6, 7, 8])], used := [4] } } },
     ({ first := 2, last := 5, dst := 0x10000000, done := 3, forPair := true, saved := [(4, [1, 2, 3, 4, 5, 6, 7, 8])], used := [4] }),
     by decide⟩,
   ⟨{ ((wOn.wr (enA 3 0) 0x12345678).wr (enA 4 1) 0x3FF) with clr := { snap := some { first := 2, last := 4, dst := 0x10000000, done := 2, forPair := false } } },
     ({ first := 2, last := 4, dst := 0x10000000, done := 2, forPair := false }), by decide⟩⟩

/-- States and operands that meet the hypotheses of `Obligations.CanControl`, part 1. -/
theorem meets_CanControl_1 :
    (∃ (s : State) (a : Acc) (n : Can) (m : Fin 8), Reaches s a (canA n 0) ∧ Manager s a ∧ s.canMode n = 0 ∧ 1 ≤ m.val ∧
      m.val ≤ 4)
    ∧ (∃ (s : State) (a : Acc) (n : Can) (m : Fin 8), Reaches s a (canA n 0) ∧ Manager s a ∧ s.canMode n ≠ 0 ∧ 1 ≤ m.val ∧
      m.val ≤ 4)
    ∧ (∃ (s : State) (a : Acc) (n : Can) (m : Fin 8), Reaches s a (canA n 0) ∧ Manager s a ∧ m.val = 0 ∧ s.canMode n ≠ 0 ∧
      ((s.can n).inFrame = none ∨ s.canEst n = 2))
    ∧ (∃ (s : State) (a : Acc) (n : Can) (m : Fin 8), Reaches s a (canA n 0) ∧ Manager s a ∧ m.val = 0 ∧ s.canMode n ≠ 0 ∧
      (s.can n).inFrame ≠ none ∧ s.canEst n ≠ 2)
    ∧ (∃ (s : State) (a : Acc) (n : Can) (m : Fin 8), Reaches s a (canA n 0) ∧ Manager s a ∧ m.val = 0 ∧ s.canMode n = 0)
    ∧ (∃ (s : State) (a : Acc) (n : Can) (m : Fin 8), Reaches s a (canA n 0) ∧ Manager s a ∧ NoHart a ∧ s.canMode n < 5 ∧ 5
      ≤ m.val)
    ∧ (∃ (s : State) (a : Acc) (n : Can), Reaches s a (canA n 0) ∧ Manager s a)
    ∧ (∃ (s : State) (a : Acc) (n : Can) (r : Fin 5) (v : Word), Reaches s a (canA n 0) ∧ Manager s a ∧ (r.val = 1 ∧ fld v 6
      0 ≤ fld v 14 8 ∧ fld v 23 16 ≠ 0 ∨ (r.val = 2 ∨ r.val = 3) ∧ fld v 6 0 ≤ fld v 14 8 ∧ fld v 31 24 < 32 ∧ fld v 23 16 <
      64 ∧ fld v 14 8 < 16 ∨ r.val = 4) ∧ s.canMode n = 0)
    ∧ (∃ (s : State) (a : Acc) (n : Can) (r : Fin 5) (v : Word), Reaches s a (canA n 0) ∧ Manager s a ∧ NoHart a ∧ (r.val =
      1 ∧ fld v 6 0 ≤ fld v 14 8 ∧ fld v 23 16 ≠ 0 ∨ (r.val = 2 ∨ r.val = 3) ∧ fld v 6 0 ≤ fld v 14 8 ∧ fld v 31 24 < 32 ∧
      fld v 23 16 < 64 ∧ fld v 14 8 < 16 ∨ r.val = 4) ∧ s.canMode n ≠ 0)
    ∧ (∃ (s : State) (a : Acc) (n : Can) (r : Fin 5) (v : Word), Reaches s a (canA n 0) ∧ Manager s a ∧ NoHart a ∧ (r.val =
      1 ∨ r.val = 2 ∨ r.val = 3) ∧ fld v 14 8 < fld v 6 0) :=
  ⟨⟨(wOn.wr (canA 2 0) 0x30), mgr, 2, 1, by decide⟩,
   ⟨(wOn.wr (canA 2 0) 0x31), mgr, 2, 4, by decide⟩,
   ⟨(wOn.wr (canA 2 0) 0x31), mgr, 2, 0, by decide⟩,
   ⟨((wOn.wr (canA 2 0) 0x31).setCan 2 { inFrame := some 4 }), mgr, 2, 0, by decide⟩,
   ⟨wOn, mgr, 2, 0, by decide⟩,
   ⟨wOn, mgr, 2, 5, by decide⟩,
   ⟨((wOn.wr (canA 2 0x80) 9).setCan 2 { holSaid := true }), mgr, 2, by decide⟩,
   ⟨wOn, mgr, 2, 1, 0x01012704, by decide⟩,
   ⟨(wOn.wr (canA 2 0) 1), mgr, 2, 1, 0x01012704, by decide⟩,
   ⟨wOn, mgr, 2, 3, 0x00010405, by decide⟩⟩

/-- States and operands that meet the hypotheses of `Obligations.CanControl`, part 2. -/
theorem meets_CanControl_2 :
    (∃ (s : State) (a : Acc) (n : Can) (r : Fin 5) (v : Word), Reaches s a (canA n 0) ∧ Manager s a ∧ r.val = 0 ∧ fld v 2 0
      ≤ 4 ∧ ¬ (bit v 7 = true ∧ bit v 8 = false) ∧ ¬ (bit v 8 = true ∧ (bit v 4 = true ∨ bit v 5 = false)) ∧ (s.canMode n =
      0 ∨ (s.rd (canA n 0) ^^^ v) &&& 0x3F0 = 0))
    ∧ (∃ (s : State) (a : Acc) (n : Can) (r : Fin 5) (v : Word), Reaches s a (canA n 0) ∧ Manager s a ∧ NoHart a ∧ r.val = 0
      ∧ fld v 2 0 ≤ 4 ∧ ¬ (bit v 7 = true ∧ bit v 8 = false) ∧ ¬ (bit v 8 = true ∧ (bit v 4 = true ∨ bit v 5 = false)) ∧
      s.canMode n ≠ 0 ∧ (s.rd (canA n 0) ^^^ v) &&& 0x3F0 ≠ 0)
    ∧ (∃ (s : State) (a : Acc) (n : Can) (v : Word), Reaches s a (canA n 0) ∧ Manager s a ∧ 1 ≤ fld v 5 0 ∧ fld v 5 0 ≤ 62 ∧
      1 ≤ fld v 13 8 ∧ fld v 13 8 ≤ 62 ∧ 1 ≤ fld v 21 16 ∧ fld v 21 16 ≤ 62 ∧ fld v 5 0 + fld v 13 8 + fld v 21 16 ≤ 64 ∧
      s.canMode n = 0)
    ∧ (∃ (s : State) (a : Acc) (n : Can) (v : Word), Reaches s a (canA n 0) ∧ Manager s a ∧ NoHart a ∧ (fld v 5 0 = 0 ∨ 64 <
      fld v 5 0 + fld v 13 8 + fld v 21 16))
    ∧ (∃ (s : State) (a : Acc) (n : Can) (v : Word), Reaches s a (canA n 0) ∧ Manager s a ∧ NoHart a ∧ 1 ≤ fld v 5 0 ∧ fld v
      5 0 ≤ 62 ∧ 1 ≤ fld v 13 8 ∧ fld v 13 8 ≤ 62 ∧ 1 ≤ fld v 21 16 ∧ fld v 21 16 ≤ 62 ∧ fld v 5 0 + fld v 13 8 + fld v 21
      16 ≤ 64 ∧ s.canMode n ≠ 0)
    ∧ (∃ (s : State) (a : Acc) (n : Can), Reaches s a (canA n 0) ∧ Manager s a ∧ s.canEst n = 2)
    ∧ (∃ (s : State) (a : Acc) (n : Can), Reaches s a (canA n 0) ∧ Manager s a ∧ s.canEst n ≠ 2)
    ∧ (∃ (s : State) (a : Acc) (n : Can) (m : Fin 8), Reaches s a (canA n 0) ∧ Manager s a ∧ m.val < 4)
    ∧ (∃ (s : State) (a : Acc) (n : Can) (m : Fin 8), Reaches s a (canA n 0) ∧ Manager s a ∧ NoHart a ∧ 4 ≤ m.val)
    ∧ (∃ (s : State) (a : Acc) (n : Can) (e : Fin 64), Reaches s a (canA n 0) ∧ Manager s a ∧ fld (s.rd (stageA (fltA n e
      1))) 31 30 ≠ 3) :=
  ⟨⟨wOn, mgr, 2, 0, 0x270, by decide⟩,
   ⟨(wOn.wr (canA 2 0) 0x31), mgr, 2, 0, 0x71, by decide⟩,
   ⟨((wOn.setCan 2 { txf := [⟨{}, none, 0⟩], q0 := [{}, {}], q1 := [{}] }).wr (canA 2 0x88) 0xFFFFFFFE), mgr, 2, 0x3E0101,
     by decide⟩,
   ⟨wOn, mgr, 2, 0x010100, by decide⟩,
   ⟨(wOn.wr (canA 2 0) 1), mgr, 2, 0x101010, by decide⟩,
   ⟨((wOn.wr (canA 2 0x20) 0x30000002).wr (canA 2 0x1C) 0x80000064), mgr, 2, by decide⟩,
   ⟨(wOn.wr (canA 2 0x1C) 0x80000064), mgr, 2, by decide⟩,
   ⟨wOn, mgr, 2, 3, by decide⟩,
   ⟨wOn, mgr, 2, 4, by decide⟩,
   ⟨(wOn.wr (stageA (fltA 2 63 1)) 0x5FFFFFFF), mgr, 2, 63, by decide⟩⟩

/-- States and operands that meet the hypotheses of `Obligations.CanControl`, part 3. -/
theorem meets_CanControl_3 :
    (∃ (s : State) (a : Acc) (n : Can) (e : Fin 64), Reaches s a (canA n 0) ∧ Manager s a ∧ NoHart a ∧ fld (s.rd (stageA
      (fltA n e 1))) 31 30 = 3)
    ∧ (∃ (s : State) (a : Acc) (n : Can) (m : Fin 8) (v : Word), Reaches s a (canA n 0) ∧ s.mayWriteOwned (s.tagsOf a.who)
      (tatA n m 0) = true ∧ (bit v 31 = true ∧ fdLen (s.rf (tatA n m 0x1C) 6 0) = true ∨ bit v 31 = false ∧ (s.rf (tatA n m
      0x1C) 6 0) ≤ 8) ∧ (s.rb (tatA n m 4) 29 = true → s.tatClash n m v = false))
    ∧ (∃ (s : State) (a : Acc) (n : Can) (m : Fin 8) (v : Word), Reaches s a (canA n 0) ∧ s.mayWriteOwned (s.tagsOf a.who)
      (tatA n m 0) = true ∧ NoHart a ∧ bit v 31 = false ∧ 8 < (s.rf (tatA n m 0x1C) 6 0))
    ∧ (∃ (s : State) (a : Acc) (n : Can) (m : Fin 8) (b : Bool), Reaches s a (canA n 0) ∧ s.mayWriteOwned (s.tagsOf a.who)
      (tatA n m 0) = true ∧ b = false)
    ∧ (∃ (s : State) (a : Acc) (n : Can) (m : Fin 8) (b : Bool) (v : Word), Reaches s a (canA n 0) ∧ s.mayWriteOwned
      (s.tagsOf a.who) (tatA n m 0) = true ∧ b = true ∧ 100 ≤ v.toNat ∧ v.toNat ≤ 2000000)
    ∧ (∃ (s : State) (a : Acc) (n : Can) (m : Fin 8) (b : Bool) (v : Word), Reaches s a (canA n 0) ∧ s.mayWriteOwned
      (s.tagsOf a.who) (tatA n m 0) = true ∧ NoHart a ∧ b = true ∧ (v.toNat < 100 ∨ 2000000 < v.toNat)) :=
  ⟨⟨(wOn.wr (stageA (fltA 2 63 1)) 0xDFFFFFFF), mgr, 2, 63, by decide⟩,
   ⟨((wOn.wr (tatA 2 7 0x1C) 5).wr (tatA 2 7 0x40) 0x44332211), mgr, 2, 7, 0x00000123, by decide⟩,
   ⟨(wOn.wr (tatA 2 7 0x1C) 9), mgr, 2, 7, 0x00000123, by decide⟩,
   ⟨((wOn.wr (tatA 2 7 4) 0xC0000001).wr (tatA 2 7 0xC) 1000), mgr, 2, 7, false, by decide⟩,
   ⟨((wOn.wr (tatA 2 7 4) 0xC0000001).wr (tatA 2 7 0xC) 1000), mgr, 2, 7, true, 2000000, by decide⟩,
   ⟨wOn, mgr, 2, 7, true, 99, by decide⟩⟩

/-- States and operands that meet the hypotheses of `Obligations.CanBus`, part 1. -/
theorem meets_CanBus_1 :
    (∃ (s : State) (n : Can), s.logicOn = true ∧ s.accepts 7 = true ∧ s.canMode n ≠ 0 ∧ s.rb (canA n 0x20) 2 = false ∧
      s.canEst n ≠ 2 ∧ s.canMaySend n = false)
    ∧ (∃ (s : State) (n : Can) (k : Fin 8) (at_ : Word), s.logicOn = true ∧ s.accepts 7 = true ∧ s.canMode n ≠ 0 ∧ s.rb
      (canA n 0x20) 2 = false ∧ s.canEst n ≠ 2 ∧ s.canMaySend n = true ∧ (∀ j, j < k.val → (s.tat n j).due = none) ∧ (s.tat
      n k).due = some at_)
    ∧ (∃ (s : State) (n : Can), s.logicOn = true ∧ s.accepts 7 = true ∧ s.canMode n ≠ 0 ∧ s.rb (canA n 0x20) 2 = false ∧
      s.canEst n ≠ 2 ∧ s.canMaySend n = true ∧ (∀ j, j < 8 → (s.tat n j).due = none))
    ∧ (∃ (s : State) (n : Can) (f : Frame) (x : Sending), (s.can n).sending = some (x, f) ∧ s.rb (canA n 0) 9 = false ∧ ¬ (x
      = .head ∧ s.rf (canA n 0x1C) 7 0 ≠ 0 ∧ s.rf (canA n 0x1C) 7 0 * 500000 < s.ticks - (s.can n).headSince))
    ∧ (∃ (s : State) (n : Can) (f : Frame) (x : Sending), (s.can n).sending = some (x, f) ∧ s.rb (canA n 0) 9 = true ∧ x =
      .head)
    ∧ (∃ (s : State) (n : Can) (k : Fin 8) (f : Frame) (x : Sending), (s.can n).sending = some (x, f) ∧ s.rb (canA n 0) 9 =
      true ∧ x = .slot k)
    ∧ (∃ (s : State) (n : Can) (f : Frame) (x : Sending), (s.can n).sending = some (x, f) ∧ s.rb (canA n 0) 9 = false ∧ (x =
      .head ∧ s.rf (canA n 0x1C) 7 0 ≠ 0 ∧ s.rf (canA n 0x1C) 7 0 * 500000 < s.ticks - (s.can n).headSince))
    ∧ (∃ (s : State) (n : Can), (s.can n).sending = none)
    ∧ (∃ (s : State) (n : Can) (f : Frame) (x : Sending), (s.can n).sending = some (x, f) ∧ (s.canMode n = 4 ∨ (s.rf (canA n
      0x34) 10 8 = 0 ∧ (s.canTmode n = 1 ∨ s.canTmode n = 2))))
    ∧ (∃ (s : State) (n : Can) (f : Frame) (x : Sending), (s.can n).sending = some (x, f) ∧ s.canEst n = 0 ∧ s.rf (canA n
      0x20) 24 16 < 88 ∧ s.rf (canA n 0x20) 15 8 < 88 ∧ (s.can n).offDue = false ∧ (s.canMode n = 4 ∨ (s.rf (canA n 0x34) 10
      8 = 0 ∧ (s.canTmode n = 1 ∨ s.canTmode n = 2))) ∧ s.canMode n ≠ 4 ∧ x = .head) :=
  ⟨⟨((wOn.wr (canA 2 0) 2).setCan 2 { txf := [⟨{ id := 7 }, none, 0⟩] }), 2, by decide⟩,
   ⟨((((wOn.wr (canA 2 0) 1).wr (tatA 2 3 0x20) 0x2000ABCD).setTat 2 3 { due := some 5, data := [9] }).setTat 2 7
     { due := some 4 }), 2, 3, 5, by decide⟩,
   ⟨((wOn.wr (canA 2 0) 4).setCan 2 { txf := [⟨{ id := 7 }, none, 0⟩, ⟨{}, none, 0⟩] }), 2, by decide⟩,
   ⟨(wOn.setCan 2 { sending := some (.slot 3, {}) }), 2, ({}), (.slot 3), by decide⟩,
   ⟨((wOn.setCan 2 { sending := some (.head, {}), txf := [⟨{}, none, 0⟩, ⟨{}, none, 0⟩] }).wr (canA 2 0) 0x201), 2, ({}),
     (.head), by decide⟩,
   ⟨(((wOn.setCan 2 { sending := some (.slot 3, {}) }).setTat 2 3 { due := some 6, onBus := some 6 }).wr (canA 2 0) 0x201),
     2, 3, ({}), (.slot 3), by decide⟩,
   ⟨{ ((wOn.setCan 2 { sending := some (.head, {}), txf := [⟨{}, none, 0⟩] }).wr (canA 2 0x1C) 1) with ticks := 500001 }, 2,
     ({}), (.head), by decide⟩,
   ⟨wOn, 2, by decide⟩,
   ⟨((((wOn.setCan 2
     { sending := some (.head, { id := 3 }), txf := [⟨{ id := 3 }, none, 0⟩, ⟨{}, none, 0⟩], offDue := true }).wr (canA 2 0)
     1).wr (canA 2 0x20) 0x20808001).wr (canA 2 0x34) 1), 2, ({ id := 3 }), (.head), by decide⟩,
   ⟨((((wOn.setCan 2 { sending := some (.head, { id := 3 }), txf := [⟨{ id := 3 }, none, 0⟩, ⟨{}, none, 0⟩] }).wr (canA 2 0)
     1).wr (canA 2 0x20) 0x20080200).wr (canA 2 0x34) 1), 2, ({ id := 3 }), (.head), by decide⟩⟩

/-- States and operands that meet the hypotheses of `Obligations.CanBus`, part 2. -/
theorem meets_CanBus_2 :
    (∃ (s : State) (n : Can) (f : Frame), s.logicOn = true ∧ s.accepts 7 = true ∧ s.canMode n ≠ 0 ∧ s.rb (canA n 0x20) 2 =
      false ∧ s.canEst n ≠ 2 ∧ s.canKind n f = true ∧ (s.can n).sending = none ∧ s.canTmode n ≠ 0)
    ∧ (∃ (s : State) (n : Can) (f : Frame), s.logicOn = true ∧ s.accepts 7 = true ∧ s.canMode n ≠ 0 ∧ s.rb (canA n 0x20) 2 =
      false ∧ s.canEst n = 0 ∧ s.rf (canA n 0x20) 24 16 < 88 ∧ s.rf (canA n 0x20) 15 8 < 88 ∧ (s.can n).offDue = false ∧
      s.canKind n f = true ∧ (s.can n).sending = none ∧ s.canTmode n ≠ 0 ∧ s.canMode n ≠ 2 ∧ s.rb (clA 0xC) 31 = false ∧
      s.rb (clA 0) 0 = false ∧ s.fltAction n { f with sub := 0, tsValid := true, ingress := 0, linClassic := false } = 0 ∧
      recordsSize (s.can n).q0 + recordSize f ≤ s.q0Cap n)
    ∧ (∃ (s : State) (n : Can) (f : Frame), s.logicOn = true ∧ s.accepts 7 = true ∧ s.canMode n ≠ 0 ∧ s.rb (canA n 0x20) 2 =
      false ∧ s.canEst n = 0 ∧ s.rf (canA n 0x20) 24 16 < 88 ∧ s.rf (canA n 0x20) 15 8 < 88 ∧ (s.can n).offDue = false ∧
      s.canKind n f = true ∧ (s.can n).sending = none ∧ s.canTmode n ≠ 0 ∧ s.canMode n ≠ 2 ∧ s.rb (clA 0xC) 31 = false ∧
      s.rb (clA 0) 0 = false ∧ s.fltAction n { f with sub := 0, tsValid := true, ingress := 0, linClassic := false } = 1 ∧
      recordsSize (s.can n).q1 + recordSize f ≤ s.q1Cap n)
    ∧ (∃ (s : State) (n : Can) (f : Frame), s.logicOn = true ∧ s.accepts 7 = true ∧ s.canMode n ≠ 0 ∧ s.rb (canA n 0x20) 2 =
      false ∧ s.canEst n = 0 ∧ s.rf (canA n 0x20) 24 16 < 88 ∧ s.rf (canA n 0x20) 15 8 < 88 ∧ (s.can n).offDue = false ∧
      s.canKind n f = true ∧ (s.can n).sending = none ∧ s.canTmode n ≠ 0 ∧ s.canMode n ≠ 2 ∧ s.rb (clA 0xC) 31 = false ∧
      s.rb (clA 0) 0 = false ∧ s.fltAction n { f with sub := 0, tsValid := true, ingress := 0, linClassic := false } = 2)
    ∧ (∃ (s : State) (n : Can) (f : Frame), s.logicOn = true ∧ s.accepts 7 = true ∧ s.canMode n ≠ 0 ∧ s.rb (canA n 0x20) 2 =
      false ∧ s.canEst n = 0 ∧ s.rf (canA n 0x20) 24 16 < 88 ∧ s.rf (canA n 0x20) 15 8 < 88 ∧ (s.can n).offDue = false ∧
      s.canKind n f = true ∧ (s.can n).sending = none ∧ s.canTmode n ≠ 0 ∧ s.canMode n ≠ 2 ∧ s.rb (clA 0xC) 31 = false ∧
      s.rb (clA 0) 0 = false ∧ s.fltAction n { f with sub := 0, tsValid := true, ingress := 0, linClassic := false } = 0 ∧
      s.q0Cap n < recordsSize (s.can n).q0 + recordSize f)
    ∧ (∃ (s : State) (n : Can) (i : Fin 7), s.logicOn = true ∧ s.accepts 7 = true ∧ s.canMode n ≠ 0 ∧ s.rb (canA n 0x20) 2 =
      false ∧ s.canEst n ≠ 2 ∧ i.val ≠ 0)
    ∧ (∃ (s : State) (n : Can) (i : Fin 7) (l : Bool), s.logicOn = true ∧ s.accepts 7 = true ∧ s.canMode n ≠ 0 ∧ s.rb (canA
      n 0x20) 2 = false ∧ s.canEst n ≠ 2 ∧ i.val ≠ 0 ∧ s.canMode n ≠ 2 ∧ (s.can n).offDue = false ∧ s.canEst n = 0 ∧ s.rf
      (canA n 0x20) 24 16 < 88 ∧ s.rf (canA n 0x20) 15 8 < 88 ∧ (s.can n).sending = none ∧ l = false)
    ∧ (∃ (s : State) (n : Can) (f : Frame) (x : Sending) (i : Fin 7) (m : Bool), s.logicOn = true ∧ s.accepts 7 = true ∧
      s.canMode n ≠ 0 ∧ s.rb (canA n 0x20) 2 = false ∧ s.canEst n ≠ 2 ∧ i.val ≠ 0 ∧ s.canMode n ≠ 2 ∧ (s.can n).offDue =
      false ∧ (s.can n).sending = some (x, f) ∧ s.rb (canA n 0) 9 = false ∧ (x ≠ .head ∨ s.rf (canA n 0x1C) 7 0 = 0) ∧
      s.canEst n = 0 ∧ s.rf (canA n 0x20) 24 16 < 88 ∧ s.rf (canA n 0x20) 15 8 < 88 ∧ m = false)
    ∧ (∃ (s : State) (n : Can) (f : Frame) (x : Sending) (i : Fin 7) (m : Bool), s.logicOn = true ∧ s.accepts 7 = true ∧
      s.canMode n ≠ 0 ∧ s.rb (canA n 0x20) 2 = false ∧ s.canEst n ≠ 2 ∧ i.val ≠ 0 ∧ s.canMode n ≠ 2 ∧ (s.can n).offDue =
      false ∧ (s.can n).sending = some (x, f) ∧ s.rb (canA n 0) 9 = false ∧ (x ≠ .head ∨ s.rf (canA n 0x1C) 7 0 = 0) ∧
      s.canEst n = 1 ∧ 248 ≤ s.rf (canA n 0x20) 24 16 ∧ s.rf (canA n 0x20) 24 16 < 256 ∧ 96 ≤ s.rf (canA n 0x20) 15 8 ∧ m =
      false ∧ s.rb (canA n 0x1C) 30 = false)
    ∧ (∃ (s : State) (n : Can), s.logicOn = true ∧ s.accepts 7 = true ∧ s.canMode n ≠ 0 ∧ s.rb (canA n 0x20) 2 = false ∧
      s.canEst n ≠ 2 ∧ s.rb (canA n 0) 6 = true) :=
  ⟨⟨(((((wOn.wr (canA 2 0) 1).wr (canA 2 0x18) 0x10101).wr (canA 2 0x20) 0x00050300).wr (canA 2 0x30) 0).wr (canA 2 0x34)
    1), 2, ({ id := 3, data := [1] }), by decide⟩,
   ⟨(((((wOn.wr (canA 2 0) 1).wr (canA 2 0x18) 0x10101).wr (canA 2 0x20) 0x00050300).wr (canA 2 0x30) 0).wr (canA 2 0x34)
     1), 2, ({ id := 3, data := [1] }), by decide⟩,
   ⟨((((((wOn.wr (canA 2 0) 1).wr (canA 2 0x18) 0x10101).wr (fltA 2 5 0) 0x80000003).wr (fltA 2 5 1) 0x5FFFFFFF).wr (canA 2
     0x30) 2).wr (canA 2 0x34) 1), 2, ({ id := 3, data := [1] }), by decide⟩,
   ⟨(((wOn.wr (canA 2 0) 1).wr (canA 2 0x30) 2).wr (canA 2 0x34) 1), 2, ({ id := 3, data := [1] }), by decide⟩,
   ⟨((((wOn.wr (canA 2 0) 1).wr (canA 2 0x18) 0x10000).wr (canA 2 0x30) 0).wr (canA 2 0x34) 1), 2,
     ({ id := 3, data := [1] }), by decide⟩,
   ⟨((wOn.wr (canA 2 0) 1).wr (canA 2 0x20) 0x0005FF01), 2, 3, by decide⟩,
   ⟨((wOn.wr (canA 2 0) 1).wr (canA 2 0x20) 0x00050300), 2, 3, false, by decide⟩,
   ⟨(((wOn.wr (canA 2 0) 1).wr (canA 2 0x20) 0x00050300).setCan 2 { sending := some (.slot 3, {}) }), 2, ({}), (.slot 3), 3,
     false, by decide⟩,
   ⟨(((wOn.wr (canA 2 0) 1).wr (canA 2 0x20) 0xF0FF6001).setCan 2 { sending := some (.head, {}), recovering := true }), 2,
     ({}), (.head), 3, false, by decide⟩,
   ⟨(wOn.wr (canA 2 0) 0x61), 2, by decide⟩⟩

/-- States and operands that meet the hypotheses of `Obligations.CanBus`, part 3. -/
theorem meets_CanBus_3 :
    (∃ (s : State) (n : Can), s.logicOn = true ∧ s.accepts 7 = true ∧ s.canMode n ≠ 0 ∧ s.rb (canA n 0x20) 2 = false ∧
      s.canEst n ≠ 2 ∧ s.rb (canA n 0) 6 = false)
    ∧ (∃ (s : State) (n : Can), s.logicOn = true ∧ s.accepts 7 = true ∧ s.canMode n ≠ 0)
    ∧ (∃ (s : State) (n : Can), s.logicOn = true ∧ s.accepts 7 = true ∧ s.canEst n = 2 ∧ s.rb (canA n 0x1C) 31 = true ∧
      (s.can n).decided = false ∧ (s.can n).recovering = false ∧ (s.rf (canA n 0x1C) 27 24 = 0 ∨ s.rf (canA n 0x20) 31 28 <
      s.rf (canA n 0x1C) 27 24))
    ∧ (∃ (s : State) (n : Can), s.logicOn = true ∧ s.accepts 7 = true ∧ s.canEst n = 2 ∧ s.rb (canA n 0x1C) 31 = true ∧
      (s.can n).decided = false ∧ (s.can n).recovering = false ∧ s.rf (canA n 0x1C) 27 24 ≠ 0 ∧ s.rf (canA n 0x1C) 27 24 ≤
      s.rf (canA n 0x20) 31 28)
    ∧ (∃ (s : State) (n : Can), s.logicOn = true ∧ s.accepts 7 = true ∧ s.canEst n = 2 ∧ (s.can n).recovering = true)
    ∧ (∃ (s : State), s.logicOn = true)
    ∧ (∃ (s : State) (n : Can) (k : Fin 8) (at_ : Word), s.logicOn = true ∧ s.accepts 7 = true ∧ (s.tat n k).next = some at_
      ∧ reached at_ s.now = true ∧ bit (s.rd (tatA n k 4)) 31 = true ∧ s.tatOld n k = false ∧ (s.tat n k).due = none)
    ∧ (∃ (s : State) (n : Can) (k : Fin 8) (at_ : Word), s.logicOn = true ∧ s.accepts 7 = true ∧ (s.tat n k).next = some at_
      ∧ reached at_ s.now = true ∧ bit (s.rd (tatA n k 4)) 31 = true ∧ s.tatOld n k = false ∧ (s.tat n k).due ≠ none)
    ∧ (∃ (s : State) (n : Can) (k : Fin 8) (at_ : Word), s.logicOn = true ∧ s.accepts 7 = true ∧ (s.tat n k).next = some at_
      ∧ reached at_ s.now = true ∧ bit (s.rd (tatA n k 4)) 31 = true ∧ s.tatOld n k = true)
    ∧ (∃ (s : State) (n : Can) (k : Fin 8) (at_ : Word), s.logicOn = true ∧ s.accepts 7 = true ∧ (s.tat n k).due = some at_
      ∧ ¬ ((s.can n).sending.map Prod.fst = some (.slot k) ∧ (s.tat n k).onBus = some at_) ∧ s.rf (tatA n k 4) 15 0 * 1000 ≤
      (s.now - at_).toNat) :=
  ⟨⟨((wOn.wr (canA 2 0) 1).setCan 2 { sending := some (.head, {}) }), 2, by decide⟩,
   ⟨((wOn.wr (canA 2 0) 0x61).wr (canA 2 0x20) 0xC), 2, by decide⟩,
   ⟨((wOn.wr (canA 2 0x1C) 0x83000000).wr (canA 2 0x20) 0x20000002), 2, by decide⟩,
   ⟨((wOn.wr (canA 2 0x1C) 0x82000000).wr (canA 2 0x20) 0x20000002), 2, by decide⟩,
   ⟨((wOn.setCan 2 { recovering := true }).wr (canA 2 0x20) 0x21070002), 2, by decide⟩,
   ⟨wOn, by decide⟩,
   ⟨(((wOn.wr (tatA 2 3 4) 0xC0050001).wr (tatA 2 3 0xC) 1000).setTat 2 3 { next := some 0 }), 2, 3, 0, by decide⟩,
   ⟨((wOn.wr (tatA 2 3 4) 0x80050001).setTat 2 3 { next := some 0, due := some 0xFFFFFFF0 }), 2, 3, 0, by decide⟩,
   ⟨{ ((wOn.wr (tatA 2 3 4) 0x80050001).setTat 2 3 { next := some 0 }) with ticks := 2500001 }, 2, 3, 0, by decide⟩,
   ⟨((wOn.wr (tatA 2 3 4) 0x80050001).setTat 2 3 { due := some 0xFFFF0000 }), 2, 3, 0xFFFF0000, by decide⟩⟩

/-- States and operands that meet the hypotheses of `Obligations.LinBus`, part 1. -/
theorem meets_LinBus_1 :
    (∃ (s : State) (a : Acc) (n : Lin), Reaches s a (linA n 0) ∧ Manager s a ∧ (s.lin n).inSlot = false)
    ∧ (∃ (s : State) (a : Acc) (n : Lin), Reaches s a (linA n 0) ∧ Manager s a ∧ (s.lin n).inSlot = true)
    ∧ (∃ (s : State) (a : Acc) (n : Lin), Reaches s a (linA n 0) ∧ Manager s a)
    ∧ (∃ (s : State) (a : Acc) (n : Lin), Reaches s a (linA n 0) ∧ Manager s a)
    ∧ (∃ (s : State) (n : Lin) (i : LinErr), s.logicOn = true ∧ s.accepts 7 = true ∧ s.linMode n ≠ 0 ∧ i.val = 0)
    ∧ (∃ (s : State) (n : Lin) (k : Fin 64) (i : LinErr) (b : Bool), s.logicOn = true ∧ s.accepts 7 = true ∧ s.linMode n ≠ 0
      ∧ s.rf (linA n 8) 4 3 = 0 ∧ i.val = 0 ∧ b = true ∧ s.rf (rspA n k 0) 1 0 = 3 ∧ smGet (fun _ => []) (s.lin n).bufs k ≠
      [])
    ∧ (∃ (s : State) (n : Lin) (k : Fin 64) (i : LinErr), s.logicOn = true ∧ s.accepts 7 = true ∧ s.linMode n ≠ 0 ∧ i.val =
      0 ∧ s.rf (rspA n k 0) 1 0 = 0)
    ∧ (∃ (s : State) (n : Lin) (k : Fin 64) (i : LinErr), s.logicOn = true ∧ s.accepts 7 = true ∧ s.linMode n ≠ 0 ∧ i.val =
      0 ∧ s.rf (rspA n k 0) 1 0 = 1)
    ∧ (∃ (s : State) (n : Lin) (k : Fin 64) (i : LinErr) (b : Bool) (l : List Byte), s.logicOn = true ∧ s.accepts 7 = true ∧
      s.linMode n ≠ 0 ∧ s.rf (linA n 8) 4 3 = 0 ∧ i.val = 0 ∧ b = false ∧ s.rf (rspA n k 0) 1 0 = 3 ∧ smGet (fun _ => [])
      (s.lin n).bufs k = l ∧ l ≠ [])
    ∧ (∃ (s : State) (n : Lin) (k : Fin 64) (i : LinErr) (b : Bool), s.logicOn = true ∧ s.accepts 7 = true ∧ s.linMode n ≠ 0
      ∧ s.rf (linA n 8) 4 3 = 0 ∧ i.val = 0 ∧ b = false ∧ s.rf (rspA n k 0) 1 0 = 2 ∧ (s.enReadStale (s.rf (rspA n k 0) 31
      16) || (s.rb (rspA n k 1) 16 && s.enReadStale (s.rf (rspA n k 1) 15 0))) = false) :=
  ⟨⟨(wOn.wr (linA 2 0x14) 0x80010103), mgr, 2, by decide⟩,
   ⟨((wOn.wr (linA 2 0x14) 0x80010101).setLin 2 { inSlot := true }), mgr, 2, by decide⟩,
   ⟨{ (wOn.wr (linA 2 0) 1) with front := { linStandby := [1, 2, 3] } }, mgr, 2, by decide⟩,
   ⟨(((wOn.wr (linA 2 0) 2).wr (linA 2 0x30) 9).wr (linA 2 0x3C) 1), mgr, 2, by decide⟩,
   ⟨((wOn.wr (linA 2 0) 1).wr (linA 2 8) 0x18), 2, 0, by decide⟩,
   ⟨(((wOn.wr (linA 2 0) 1).wr (rspA 2 9 0) 0x23).setLin 2 { bufs := [(9, [1, 2])] }), 2, 9, 0, true, by decide⟩,
   ⟨((wOn.wr (linA 2 0) 1).setLin 2 { await := some (3, 4) }), 2, 63, 0, by decide⟩,
   ⟨((wOn.wr (linA 2 0) 1).wr (rspA 2 63 0) 0x21), 2, 63, 0, by decide⟩,
   ⟨(((wOn.wr (linA 2 0) 1).wr (rspA 2 9 0) 0x23).setLin 2 { bufs := [(9, [1, 2])] }), 2, 9, 0, false, [1, 2], by decide⟩,
   ⟨(((((wOn.wr (linA 2 0) 1).wr (rspA 2 9 0) 0x70042).wr (enA 7 5) 0x64).wr (enA 7 1) 0x200).wr (enA 7 0) 0x11223344), 2,
     9, 0, false, by decide⟩⟩

/-- States and operands that meet the hypotheses of `Obligations.LinBus`, part 2. -/
theorem meets_LinBus_2 :
    (∃ (s : State) (n : Lin) (k : Fin 64) (i : LinErr), s.logicOn = true ∧ s.accepts 7 = true ∧ s.linMode n ≠ 0 ∧ i.val = 0
      ∧ s.rf (rspA n k 0) 1 0 = 2 ∧ (s.enReadStale (s.rf (rspA n k 0) 31 16) || (s.rb (rspA n k 1) 16 && s.enReadStale (s.rf
      (rspA n k 1) 15 0))) = true ∧ s.rb (rspA n k 0) 3 = true)
    ∧ (∃ (s : State) (n : Lin) (i : LinErr), s.logicOn = true ∧ s.accepts 7 = true ∧ s.linMode n ≠ 0 ∧ i.val ≠ 0)
    ∧ (∃ (s : State) (n : Lin) (k : Fin 64) (x : Word) (i : LinErr) (l : List Byte), (s.lin n).await = some (k.val, x) ∧
      i.val = 0 ∧ l.length = s.rf (rspA n k 0) 7 4)
    ∧ (∃ (s : State) (n : Lin) (k : Fin 64) (x : Word) (i : LinErr) (l : List Byte), (s.lin n).await = some (k.val, x) ∧
      s.rb (clA 0xC) 31 = false ∧ s.rb (clA 0) 0 = false ∧ i.val = 0 ∧ l.length = s.rf (rspA n k 0) 7 4)
    ∧ (∃ (s : State) (n : Lin) (k : Fin 64) (x : Word) (i : LinErr), (s.lin n).await = some (k.val, x) ∧ i.val ≠ 0)
    ∧ (∃ (s : State) (n : Lin) (k : Fin 64) (x : Word) (i : LinErr) (l : List Byte), (s.lin n).await = some (k.val, x) ∧
      i.val = 0 ∧ l.length ≠ s.rf (rspA n k 0) 7 4)
    ∧ (∃ (s : State) (n : Lin), s.logicOn = true ∧ s.accepts 7 = true ∧ s.linMode n = 1 ∧ s.rb (linA n 0x14) 31 = true ∧
      s.rb (linA n 0x14) 1 = false)
    ∧ (∃ (s : State) (n : Lin), s.logicOn = true ∧ s.accepts 7 = true ∧ s.linMode n = 1 ∧ s.rb (linA n 0x14) 31 = true ∧
      s.rb (linA n 0x14) 1 = true)
    ∧ (∃ (s : State) (n : Lin), s.logicOn = true ∧ s.accepts 7 = true ∧ s.linMode n = 1 ∧ s.rb (linA n 0x14) 31 = false ∧
      s.rb (linA n 0x14) 1 = false)
    ∧ (∃ (s : State) (n : Lin), s.logicOn = true ∧ s.accepts 7 = true ∧ s.linMode n = 1 ∧ s.rb (linA n 0x14) 31 = false ∧
      s.rb (linA n 0x14) 1 = true) :=
  ⟨⟨((wOn.wr (linA 2 0) 1).wr (rspA 2 9 0) 0x7004A), 2, 9, 0, by decide⟩,
   ⟨(wOn.wr (linA 2 0) 1), 2, 3, by decide⟩,
   ⟨(((wOn.wr (rspA 2 9 0) 0x25).wr (clA 0xC) 0x80000000).setLin 2 { await := some (9, 5) }), 2, 9, 5, 0, [1, 2],
     by decide⟩,
   ⟨((wOn.wr (rspA 2 9 0) 0x25).setLin 2 { await := some (9, 5) }), 2, 9, 5, 0, [1, 2], by decide⟩,
   ⟨(wOn.setLin 2 { await := some (9, 5) }), 2, 9, 5, 2, by decide⟩,
   ⟨(wOn.setLin 2 { await := some (9, 5) }), 2, 9, 5, 0, [1], by decide⟩,
   ⟨((((wOn.wr (linA 2 0) 1).wr (linA 2 0x14) 0x80010200).setLin 2 { inSlot := true, idx := 1 }).wr (schA 2 1) 0x3C), 2,
     by decide⟩,
   ⟨((((wOn.wr (linA 2 0) 1).wr (linA 2 0x14) 0x80030202).setLin 2 { inSlot := true, idx := 1 }).wr (schA 2 32) 0x3C), 2,
     by decide⟩,
   ⟨((wOn.wr (linA 2 0) 1).setLin 2 { inSlot := true, idx := 1 }), 2, by decide⟩,
   ⟨(((wOn.wr (linA 2 0) 1).wr (linA 2 0x14) 0x10102).setLin 2 { inSlot := true, idx := 1 }), 2, by decide⟩⟩

/-- States and operands that meet the hypotheses of `Obligations.LinBus`, part 3. -/
theorem meets_LinBus_3 :
    (∃ (s : State) (n : Lin), s.logicOn = true ∧ s.accepts 7 = true ∧ s.linMode n ≠ 0)
    ∧ (∃ (s : State), s.logicOn = true)
    ∧ (∃ (s : State), s.logicOn = true) :=
  ⟨⟨(wOn.wr (linA 2 0) 2), 2, by decide⟩,
   ⟨wOn, by decide⟩,
   ⟨(wOn.wr (linA 2 8) 0x18), by decide⟩⟩

/-- States and operands that meet the hypotheses of `Obligations.Sleep`, part 1. -/
theorem meets_Sleep_1 :
    (∃ (s : State) (a : Acc), FarReaches s a 2 (aoA 0) ∧ Manager s a ∧ s.aoState = 0 ∧ s.rd (aoA 0x1C) &&& s.rd (aoA 0x14) =
      0 ∧ s.rd (aoA 0x20) &&& s.rd (aoA 0x18) = 0)
    ∧ (∃ (s : State) (a : Acc), FarReaches s a 2 (aoA 0) ∧ Manager s a ∧ NoHart a ∧ s.aoState = 0 ∧ s.rd (aoA 0x1C) &&& s.rd
      (aoA 0x14) ≠ 0)
    ∧ (∃ (s : State) (a : Acc), FarReaches s a 2 (aoA 0) ∧ Manager s a ∧ s.aoState ≠ 0)
    ∧ (∃ (s : State) (a : Acc), FarReaches s a 2 (aoA 0) ∧ Manager s a ∧ s.aoState ≠ 1)
    ∧ (∃ (s : State) (a : Acc), FarReaches s a 2 (aoA 0) ∧ Manager s a ∧ s.aoState = 1)
    ∧ (∃ (s : State) (i : Fin 44), s.armedOn i.val = true ∧ 16 ≤ i.val ∧ (24 ≤ i.val ∧ i.val < 32 → s.sinMeets (i.val - 24)
      = true) ∧ s.aoState = 1)
    ∧ (∃ (s : State) (i : Fin 44), s.armedOn i.val = true ∧ 16 ≤ i.val ∧ (24 ≤ i.val ∧ i.val < 32 → s.sinMeets (i.val - 24)
      = true) ∧ s.aoState = 2)
    ∧ (∃ (s : State) (i : Fin 44), s.armedOn i.val = true ∧ 16 ≤ i.val ∧ (24 ≤ i.val ∧ i.val < 32 → s.sinMeets (i.val - 24)
      = true) ∧ s.aoState ≠ 1 ∧ s.aoState ≠ 2)
    ∧ (∃ (s : State) (i : Fin 44), s.armedOn i.val = true ∧ i.val < 16 ∧ (s.rb (swA i 0) 31 = false ∨ s.front.deaf.contains
      i.val = true) ∧ s.aoState = 1)
    ∧ (∃ (s : State) (i : Fin 44), s.armedOn i.val = true ∧ i.val < 16 ∧ (s.rb (swA i 0) 31 = false ∨ s.front.deaf.contains
      i.val = true) ∧ s.aoState = 2) :=
  ⟨⟨(wLink.wr (aoA 0x14) 0x00100004), mgr, by decide⟩,
   ⟨((wLink.wr (aoA 0x14) 4).wr (aoA 0x1C) 4), mgr, by decide⟩,
   ⟨(wLink.setAoState 1), mgr, by decide⟩,
   ⟨wLink, mgr, by decide⟩,
   ⟨(wLink.setAoState 1), mgr, by decide⟩,
   ⟨({ (wLink.wr (aoA 0x18) 0x100) with front := { armed := [40] } }.setAoState 1), 40, by decide⟩,
   ⟨({ (wLink.wr (aoA 0x18) 0x100) with front := { armed := [40] } }.setAoState 2), 40, by decide⟩,
   ⟨{ { (wLink.wr (aoA 0x18) 0x100) with front := { armed := [40] } }.setAoState 3 with pwr := { phase := .asleep } }, 40,
     by decide⟩,
   ⟨({ (wLink.wr (aoA 0x14) 0x8) with front := { armed := [3] } }.setAoState 1), 3, by decide⟩,
   ⟨({ (wLink.wr (aoA 0x14) 0x8) with front := { armed := [3] } }.setAoState 2), 3, by decide⟩⟩

/-- States and operands that meet the hypotheses of `Obligations.Sleep`, part 2. -/
theorem meets_Sleep_2 :
    (∃ (s : State) (i : Fin 44), s.armedOn i.val = true ∧ i.val < 16 ∧ (s.rb (swA i 0) 31 = false ∨ s.front.deaf.contains
      i.val = true) ∧ s.aoState ≠ 1 ∧ s.aoState ≠ 2)
    ∧ (∃ (s : State) (i : Fin 44), s.armedOn i.val = true ∧ i.val < 16 ∧ s.rb (swA i 0) 31 = true ∧ s.front.deaf.contains
      i.val = false)
    ∧ (∃ (s : State) (i : Fin 44), s.armedOn i.val = true ∧ 24 ≤ i.val ∧ i.val < 32 ∧ s.sinMeets (i.val - 24) = false)
    ∧ (∃ (s : State) (n : Fin 16) (f : WakeFrame), s.armedOn n.val = true ∧ s.swDecodes n = true ∧ s.wakeMatches n f = true
      ∧ s.aoState = 1)
    ∧ (∃ (s : State) (n : Fin 16) (f : WakeFrame), s.armedOn n.val = true ∧ s.swDecodes n = true ∧ s.wakeMatches n f = true
      ∧ s.aoState = 2)
    ∧ (∃ (s : State) (n : Fin 16) (f : WakeFrame), s.armedOn n.val = true ∧ s.swDecodes n = true ∧ s.wakeMatches n f = true
      ∧ s.aoState ≠ 1 ∧ s.aoState ≠ 2)
    ∧ (∃ (s : State) (n : Fin 16) (f : WakeFrame), s.armedOn n.val = true ∧ s.swDecodes n = true ∧ s.wakeMatches n f =
      false)
    ∧ (∃ (s : State) (n : Fin 16), s.armedOn n.val = true ∧ s.swDecodes n = true)
    ∧ (∃ (s : State) (n : Fin 16), s.armedOn n.val = true ∧ s.swDecodes n = true ∧ s.rf (swA n 0) 20 16 < smGet (fun _ => 0)
      s.front.fec n ∧ s.rb (swA n 0) 29 = false)
    ∧ (∃ (s : State) (n : Fin 16), s.armedOn n.val = true ∧ s.swDecodes n = true ∧ s.rf (swA n 0) 20 16 < smGet (fun _ => 0)
      s.front.fec n ∧ s.rb (swA n 0) 29 = true) :=
  ⟨⟨{ { (wLink.wr (aoA 0x14) 0x8) with front := { armed := [3] } }.setAoState 3 with pwr := { phase := .asleep } }, 3,
    by decide⟩,
   ⟨({ (wLink.wr (aoA 0x14) 0x8) with front := { armed := [3] } }.wr (swA 3 0) 0x80010000), 3, by decide⟩,
   ⟨({ (wLink.wr (aoA 0x14) 0x4000000) with front := { armed := [26] } }.wr (aoA 0x28) 0), 26, by decide⟩,
   ⟨(((({ (wLink.wr (aoA 0x14) 0x4) with front := { armed := [2], decoding := [2], fec := [(2, 5), (3, 1)] } }.wr (swA 2 0)
     0x80010100).wr (swA 2 4) (0x123)).wr (swA 2 0xC) 0x10).setAoState 1), 2,
     ({ ide := false, id := 0x123, remote := false, dlc := 1, data := 0xFF }), by decide⟩,
   ⟨(((({ (wLink.wr (aoA 0x14) 0x4) with front := { armed := [2], decoding := [2], fec := [(2, 5), (3, 1)] } }.wr (swA 2 0)
     0x80010100).wr (swA 2 4) (0x123)).wr (swA 2 0xC) 0x10).setAoState 2), 2,
     ({ ide := false, id := 0x123, remote := false, dlc := 1, data := 0xFF }), by decide⟩,
   ⟨{ ((({ (wLink.wr (aoA 0x14) 0x4) with front := { armed := [2], decoding := [2], fec := [(2, 5), (3, 1)] } }.wr (swA 2 0) 0x80010100).wr (swA 2 4) (0x123)).wr (swA 2 0xC) 0x10).setAoState 3 with pwr := { phase := .asleep } },
     2, ({ ide := false, id := 0x123, remote := false, dlc := 1, data := 0xFF }), by decide⟩,
   ⟨((({ (wLink.wr (aoA 0x14) 0x4) with front := { armed := [2], decoding := [2], fec := [(2, 5), (3, 1)] } }.wr (swA 2 0)
     0x80010100).wr (swA 2 4) (0x124)).wr (swA 2 0xC) 0x10), 2,
     ({ ide := false, id := 0x123, remote := false, dlc := 1, data := 0xFF }), by decide⟩,
   ⟨({ (wLink.wr (aoA 0x14) 0x4) with front := { armed := [2], decoding := [2], fec := [(2, 5), (3, 1)] } }.wr (swA 2 0)
     0x80010100), 2, by decide⟩,
   ⟨({ (wLink.wr (aoA 0x14) 0x4) with front := { armed := [2], decoding := [2], fec := [(2, 5), (3, 1)] } }.wr (swA 2 0)
     0x80040100), 2, by decide⟩,
   ⟨(({ (wLink.wr (aoA 0x14) 0x4) with front := { armed := [2], decoding := [2], fec := [(2, 5), (3, 1)] } }.wr (swA 2 0)
     0xA0040100).setAoState 0), 2, by decide⟩⟩

/-- States and operands that meet the hypotheses of `Obligations.Sleep`, part 3. -/
theorem meets_Sleep_3 :
    (∃ (s : State), s.armedOn 44 = true ∧ s.aoState = 3)
    ∧ (∃ (s : State), s.aoState = 1)
    ∧ (∃ (s : State), s.pwr.phase = .dropped ∧ s.front.wakeLatched = false)
    ∧ (∃ (s : State), s.pwr.phase = .dropped ∧ s.front.wakeLatched = true)
    ∧ (∃ (s : State), s.front.awakeRuns = true ∧ s.front.awakeLeft = 0)
    ∧ (∃ (s : State), s.front.failSafeRuns = true) :=
  ⟨⟨{ { (wLink.wr (aoA 0x18) 0x1000) with front := { armed := [44] } }.setAoState 3 with pwr := { phase := .asleep } },
    by decide⟩,
   ⟨(wLink.setAoState 1), by decide⟩,
   ⟨((wPhase .dropped).setAoState 2), by decide⟩,
   ⟨{ wPhase .dropped with front := { wakeLatched := true } }, by decide⟩,
   ⟨{ wLink with front := { awakeRuns := true, awakeLeft := 0 } }, by decide⟩,
   ⟨{ (wLink.wr (aoA 0x2C) 0x810001).wr (swA 0 0) 0x80000000 with front := { failSafeRuns := true } }, by decide⟩⟩

/-- States and operands that meet the hypotheses of `Obligations.SwitchFrames`, part 1. -/
theorem meets_SwitchFrames_1 :
    (∃ (s : State) (p : Fin 15) (b : List Byte), s.logicOn = true ∧ s.accepts 5 = true ∧ s.rb eswBase 31 = true ∧ s.rb
      (portA p 0) 31 = true ∧ s.linkUp p = true ∧ (s.port p).rx = none ∧ 60 ≤ b.length)
    ∧ (∃ (s : State) (p : Fin 15) (b : List Byte) (x : BitVec 4), s.logicOn = true ∧ s.accepts 5 = true ∧ s.rb eswBase 31 =
      true ∧ s.rb (portA p 0) 31 = true ∧ s.linkUp p = true ∧ (s.port p).rx = none ∧ 60 ≤ b.length ∧ msOf p = none ∧
      s.vlanOk (s.parse p b (State.stampAt p s.now x.toNat (s.rd (tsA p 4))).1 (State.stampAt p s.now x.toNat (s.rd (tsA p
      4))).2).1 (s.parse p b (State.stampAt p s.now x.toNat (s.rd (tsA p 4))).1 (State.stampAt p s.now x.toNat (s.rd (tsA p
      4))).2).2 = false)
    ∧ (∃ (s : State) (p : Fin 15) (b : List Byte) (x : BitVec 4), s.logicOn = true ∧ s.accepts 5 = true ∧ s.rb eswBase 31 =
      true ∧ s.rb (portA p 0) 31 = true ∧ s.linkUp p = true ∧ (s.port p).rx = none ∧ 60 ≤ b.length ∧ msOf p = none ∧
      s.vlanOk (s.parse p b (State.stampAt p s.now x.toNat (s.rd (tsA p 4))).1 (State.stampAt p s.now x.toNat (s.rd (tsA p
      4))).2).1 (s.parse p b (State.stampAt p s.now x.toNat (s.rd (tsA p 4))).1 (State.stampAt p s.now x.toNat (s.rd (tsA p
      4))).2).2 = true ∧ s.rb (esA 0) 28 = false ∧ s.destSet (s.parse p b (State.stampAt p s.now x.toNat (s.rd (tsA p 4))).1
      (State.stampAt p s.now x.toNat (s.rd (tsA p 4))).2).1 = [])
    ∧ (∃ (s : State) (p : Fin 15) (b : List Byte) (x : BitVec 4) (q c : Nat), s.logicOn = true ∧ s.accepts 5 = true ∧ s.rb
      eswBase 31 = true ∧ s.rb (portA p 0) 31 = true ∧ s.linkUp p = true ∧ (s.port p).rx = none ∧ 60 ≤ b.length ∧ msOf p =
      none ∧ s.vlanOk (s.parse p b (State.stampAt p s.now x.toNat (s.rd (tsA p 4))).1 (State.stampAt p s.now x.toNat (s.rd
      (tsA p 4))).2).1 (s.parse p b (State.stampAt p s.now x.toNat (s.rd (tsA p 4))).1 (State.stampAt p s.now x.toNat (s.rd
      (tsA p 4))).2).2 = true ∧ s.rb (esA 0) 28 = false ∧ s.destSet (s.parse p b (State.stampAt p s.now x.toNat (s.rd (tsA p
      4))).1 (State.stampAt p s.now x.toNat (s.rd (tsA p 4))).2).1 = [q] ∧ q ≠ 15 ∧ s.classOf (s.parse p b (State.stampAt p
      s.now x.toNat (s.rd (tsA p 4))).1 (State.stampAt p s.now x.toNat (s.rd (tsA p 4))).2).1 = c ∧ s.cutOk (s.parse p b
      (State.stampAt p s.now x.toNat (s.rd (tsA p 4))).1 (State.stampAt p s.now x.toNat (s.rd (tsA p 4))).2).1 q c = false ∧
      s.admits q c (s.alpha q c) = true)
    ∧ (∃ (s : State) (p : Fin 15) (b : List Byte) (x : BitVec 4) (q c : Nat), s.logicOn = true ∧ s.accepts 5 = true ∧ s.rb
      eswBase 31 = true ∧ s.rb (portA p 0) 31 = true ∧ s.linkUp p = true ∧ (s.port p).rx = none ∧ 60 ≤ b.length ∧ msOf p =
      none ∧ s.vlanOk (s.parse p b (State.stampAt p s.now x.toNat (s.rd (tsA p 4))).1 (State.stampAt p s.now x.toNat (s.rd
      (tsA p 4))).2).1 (s.parse p b (State.stampAt p s.now x.toNat (s.rd (tsA p 4))).1 (State.stampAt p s.now x.toNat (s.rd
      (tsA p 4))).2).2 = true ∧ s.rb (esA 0) 28 = false ∧ s.destSet (s.parse p b (State.stampAt p s.now x.toNat (s.rd (tsA p
      4))).1 (State.stampAt p s.now x.toNat (s.rd (tsA p 4))).2).1 = [q] ∧ q ≠ 15 ∧ q ≠ p.val ∧ s.classOf (s.parse p b
      (State.stampAt p s.now x.toNat (s.rd (tsA p 4))).1 (State.stampAt p s.now x.toNat (s.rd (tsA p 4))).2).1 = c ∧ s.cutOk
      (s.parse p b (State.stampAt p s.now x.toNat (s.rd (tsA p 4))).1 (State.stampAt p s.now x.toNat (s.rd (tsA p 4))).2).1
      q c = true ∧ s.msTx q (s.parse p b (State.stampAt p s.now x.toNat (s.rd (tsA p 4))).1 (State.stampAt p s.now x.toNat
      (s.rd (tsA p 4))).2).1 (s.wireOf (s.parse p b (State.stampAt p s.now x.toNat (s.rd (tsA p 4))).1 (State.stampAt p
      s.now x.toNat (s.rd (tsA p 4))).2).1 q) = .plain)
    ∧ (∃ (s : State) (p : Fin 15) (b : List Byte) (x : BitVec 4) (q c : Nat), s.logicOn = true ∧ s.accepts 5 = true ∧ s.rb
      eswBase 31 = true ∧ s.rb (portA p 0) 31 = true ∧ s.linkUp p = true ∧ (s.port p).rx = none ∧ 60 ≤ b.length ∧ msOf p =
      none ∧ s.vlanOk (s.parse p b (State.stampAt p s.now x.toNat (s.rd (tsA p 4))).1 (State.stampAt p s.now x.toNat (s.rd
      (tsA p 4))).2).1 (s.parse p b (State.stampAt p s.now x.toNat (s.rd (tsA p 4))).1 (State.stampAt p s.now x.toNat (s.rd
      (tsA p 4))).2).2 = true ∧ s.rb (esA 0) 28 = false ∧ s.destSet (s.parse p b (State.stampAt p s.now x.toNat (s.rd (tsA p
      4))).1 (State.stampAt p s.now x.toNat (s.rd (tsA p 4))).2).1 = [q] ∧ q ≠ 15 ∧ q ≠ p.val ∧ s.classOf (s.parse p b
      (State.stampAt p s.now x.toNat (s.rd (tsA p 4))).1 (State.stampAt p s.now x.toNat (s.rd (tsA p 4))).2).1 = c ∧ s.cutOk
      (s.parse p b (State.stampAt p s.now x.toNat (s.rd (tsA p 4))).1 (State.stampAt p s.now x.toNat (s.rd (tsA p 4))).2).1
      q c = false ∧ s.admits q c (s.alpha q c) = false ∧ (s.parse p b (State.stampAt p s.now x.toNat (s.rd (tsA p 4))).1
      (State.stampAt p s.now x.toNat (s.rd (tsA p 4))).2).1.ptp = none)
    ∧ (∃ (s : State) (p : Fin 15) (b : List Byte), s.logicOn = true ∧ s.accepts 5 = true ∧ s.rb eswBase 31 = true ∧ s.rb
      (portA p 0) 31 = true ∧ s.linkUp p = true ∧ (s.port p).rx = none ∧ 60 ≤ b.length ∧ (∃ i ∈ (msOf p).toList, s.msEn i =
      true ∧ s.msValidate i ≠ 0))
    ∧ (∃ (s : State) (p : Fin 15) (z : EthRx), (s.port p).rx = some z ∧ s.logicOn = true ∧ s.accepts 5 = true)
    ∧ (∃ (s : State) (p : Fin 15) (z : EthRx) (u : EthTail), (s.port p).rx = some z ∧ s.logicOn = true ∧ s.accepts 5 = true
      ∧ z.f.ingress = p.val ∧ p.val ∉ z.cut ∧ u ≠ .good)
    ∧ (∃ (s : State) (p : Fin 15) (z : EthRx), (s.port p).rx = some z ∧ s.logicOn = true ∧ s.accepts 5 = true ∧ z.f.ingress
      = p.val ∧ z.admitted = [] ∧ z.cut = []) :=
  ⟨⟨((((wOn.wr eswBase 0x80000000).wr (portA 3 0) 0x800005DC).wr (portA 3 8) 0xB0000000).wr (portA 3 4) 1), 3, (([0xFF,
    0xFF, 0xFF, 0xFF, 0xFF, 0xFF, 2, 0, 0, 0, 0, 9, 8, 0] ++ List.replicate 46 7)), by decide⟩,
   ⟨((((wOn.wr eswBase 0x80000000).wr (portA 3 0) 0x800005DC).wr (portA 3 8) 0xB0000000).wr (portA 3 4) 1), 3, (([0xFF,
     0xFF, 0xFF, 0xFF, 0xFF, 0xFF, 2, 0, 0, 0, 0, 9, 8, 0] ++ List.replicate 46 7)), 0, by decide +kernel⟩,
   ⟨(((((wOn.wr eswBase 0x80000000).wr (portA 3 0) 0x800005DC).wr (portA 3 8) 0xB0000000).wr (portA 3 4) 1).wr (vlanA 1)
     0x80000028), 3, (([0xFF, 0xFF, 0xFF, 0xFF, 0xFF, 0xFF, 2, 0, 0, 0, 0, 9, 8, 0] ++ List.replicate 46 7)), 0,
     by decide +kernel⟩,
   ⟨((((((((wOn.wr eswBase 0x80000000).wr (portA 3 0) 0x800005DC).wr (portA 3 8) 0xB0000000).wr (portA 3 4) 1).wr (portA 5
     0) 0x800005DC).wr (portA 5 8) 0xB0000000).wr (portA 5 4) 1).wr (vlanA 1) 0x80000028), 3, (([0xFF, 0xFF, 0xFF, 0xFF,
     0xFF, 0xFF, 2, 0, 0, 0, 0, 9, 8, 0] ++ List.replicate 46 7)), 0, 5, 0, by decide +kernel⟩,
   ⟨((((((((((wOn.wr eswBase 0x80000000).wr (portA 3 0) 0x800005DC).wr (portA 3 8) 0xB0000000).wr (portA 3 4) 1).wr (portA 5
     0) 0x800005DC).wr (portA 5 8) 0xB0000000).wr (portA 5 4) 1).wr (vlanA 1) 0x80000028).wr (portA 3 0) 0xC00005DC).wr
     (portA 5 0) 0xC00005DC), 3, (([0xFF, 0xFF, 0xFF, 0xFF, 0xFF, 0xFF, 2, 0, 0, 0, 0, 9, 8, 0] ++ List.replicate 46 7)), 0,
     5, 0, by decide +kernel⟩,
   ⟨(((((((((wOn.wr eswBase 0x80000000).wr (portA 3 0) 0x800005DC).wr (portA 3 8) 0xB0000000).wr (portA 3 4) 1).wr (portA 5
     0) 0x800005DC).wr (portA 5 8) 0xB0000000).wr (portA 5 4) 1).wr (vlanA 1) 0x80000028).setQueue 5 0 [{ size := 1280000 },
     { uid := 7, size := 1280000 }]), 3, (([0xFF, 0xFF, 0xFF, 0xFF, 0xFF, 0xFF, 2, 0, 0, 0, 0, 9, 8, 0] ++ List.replicate 46
     7)), 0, 5, 0, by decide +kernel⟩,
   ⟨((((((wOn.wr eswBase 0x80000000).wr (portA 0 0) 0x800005DC).wr (portA 0 8) 0xB0000000).wr (portA 0 4) 1)).wr (esA
     0x8000) 0xC0000000), 0, (([0xFF, 0xFF, 0xFF, 0xFF, 0xFF, 0xFF, 2, 0, 0, 0, 0, 9, 8, 0] ++ List.replicate 46 7)),
     by decide⟩,
   ⟨((wOn.setPort 3 { rx := some { f := { ingress := 3 }, admitted := [(5, 0), (15, 0x401)], cut := [6, 7] } }).setPort 6
     { sending := some { f := {}, cls := 0, open_ := true } }), 3,
     ({ f := { ingress := 3 }, admitted := [(5, 0), (15, 0x401)], cut := [6, 7] }), by decide⟩,
   ⟨((wOn.setPort 3 { rx := some { f := { ingress := 3 }, admitted := [(5, 0), (15, 0x401)], cut := [6, 7] } }).setPort 6
     { sending := some { f := {}, cls := 0, open_ := true } }), 3,
     ({ f := { ingress := 3 }, admitted := [(5, 0), (15, 0x401)], cut := [6, 7] }), .fcs, by decide⟩,
   ⟨(wOn.setPort 3 { rx := some { f := { ingress := 3 } } }), 3, ({ f := { ingress := 3 } }), by decide⟩⟩

/-- States and operands that meet the hypotheses of `Obligations.SwitchFrames`, part 2. -/
theorem meets_SwitchFrames_2 :
    (∃ (s : State) (p : Fin 15) (z : EthRx), (s.port p).rx = some z ∧ s.logicOn = true ∧ s.accepts 5 = true ∧ z.f.ingress =
      p.val ∧ z.admitted = [] ∧ z.cut = [])
    ∧ (∃ (s : State) (p : Fin 15) (z : EthRx), (s.port p).rx = some z ∧ s.logicOn = true ∧ s.accepts 5 = true ∧ z.f.ingress
      = p.val ∧ z.admitted = [] ∧ z.cut = [])
    ∧ (∃ (s : State) (p : Fin 15) (q c : Nat) (z : EthRx), (s.port p).rx = some z ∧ s.logicOn = true ∧ s.accepts 5 = true ∧
      z.f.ingress = p.val ∧ z.admitted = [(q, c)] ∧ q ≠ 15 ∧ z.cut = [] ∧ z.f.ptp = none)
    ∧ (∃ (s : State) (p : Fin 15) (z : EthRx), (s.port p).rx = some z ∧ s.logicOn = true ∧ s.accepts 5 = true ∧ z.f.ingress
      = p.val ∧ (msOf p = none ∨ z.later = false) ∧ p.val ∉ z.cut ∧ s.maxFrame p < (z.raw.length + 4))
    ∧ (∃ (s : State) (p : Fin 15) (z : EthRx), (s.port p).rx = some z ∧ s.logicOn = true ∧ s.accepts 5 = true ∧ z.f.ingress
      = p.val ∧ (msOf p = none ∨ z.later = false) ∧ p.val ∉ z.cut ∧ (z.raw.length + 4) ≤ s.maxFrame p)
    ∧ (∃ (s : State) (p : Fin 15) (q c : Nat) (z : EthRx), (s.port p).rx = some z ∧ s.logicOn = true ∧ s.accepts 5 = true ∧
      z.f.ingress = p.val ∧ msOf p = none ∧ (z.raw.length + 4) ≤ s.maxFrame p ∧ s.rb (portA p 0) 29 = false ∧ z.admitted =
      [(q, c)] ∧ q ≠ p.val ∧ z.cut = [] ∧ (s.setQueue q c (s.queue q c ++ [z.f])).poolUsed ≤ 32768)
    ∧ (∃ (s : State) (p : Fin 15) (q : Nat) (y : EthSend) (z : EthRx), (s.port p).rx = some z ∧ s.logicOn = true ∧ s.accepts
      5 = true ∧ z.f.ingress = p.val ∧ z.admitted = [] ∧ z.cut = [q] ∧ q ≠ p.val ∧ (s.port q).sending = some y ∧ y.open_ =
      true ∧ smGet (fun _ => 0) (s.port q).said 0x6005 = 0)
    ∧ (∃ (s : State) (p : Fin 15) (q : Nat) (y : EthSend) (z : EthRx), (s.port p).rx = some z ∧ s.logicOn = true ∧ s.accepts
      5 = true ∧ z.f.ingress = p.val ∧ msOf p = none ∧ (z.raw.length + 4) ≤ s.maxFrame p ∧ s.rb (portA p 0) 29 = false ∧
      z.admitted = [] ∧ z.cut = [q] ∧ q ≠ p.val ∧ (s.port q).sending = some y ∧ y.open_ = true)
    ∧ (∃ (s : State) (p : Fin 15), s.logicOn = true ∧ s.accepts 5 = true ∧ s.linkUp p = true ∧ (s.port p).sending = none ∧
      s.plcaMute p = false)
    ∧ (∃ (s : State) (p : Fin 15) (c : Nat) (f : EFrame) (r : List EFrame), s.logicOn = true ∧ s.accepts 5 = true ∧ s.linkUp
      p = true ∧ (s.port p).sending = none ∧ s.plcaMute p = false ∧ (∀ j, j < 8 → s.cbsOn p j = false) ∧ c < 8 ∧ (∀ j, j < 8
      → c < j → s.queue p j = []) ∧ s.queue p c = f :: r ∧ s.tasOn p = false ∧ ((s.wireOf f p).length + 4) ≤ s.maxFrame p ∧
      s.msTx p f (s.wireOf f p) = .plain) :=
  ⟨⟨(wOn.setPort 3 { rx := some { f := { ingress := 3 } } }), 3, ({ f := { ingress := 3 } }), by decide⟩,
   ⟨(wOn.setPort 3 { rx := some { f := { ingress := 3 } } }), 3, ({ f := { ingress := 3 } }), by decide⟩,
   ⟨(wOn.setPort 3 { rx := some { f := { ingress := 3 }, admitted := [(5, 0)] } }), 3, 5, 0,
     ({ f := { ingress := 3 }, admitted := [(5, 0)] }), by decide⟩,
   ⟨(((wOn.wr (portA 3 0) 3).setPort 3
     { rx := some { f := { ingress := 3 }, admitted := [(5, 0), (15, 0x401)], cut := [6, 7] } }).setPort 6
     { sending := some { f := {}, cls := 0, open_ := true } }), 3,
     ({ f := { ingress := 3 }, admitted := [(5, 0), (15, 0x401)], cut := [6, 7] }), by decide⟩,
   ⟨((wOn.wr (portA 3 0) 0x5DC).setPort 3
     { rx := some { f := { ingress := 3, size := 64 }, raw := [1, 2], admitted := [(5, 4), (6, 1)], cut := [7] } }), 3,
     ({ f := { ingress := 3, size := 64 }, raw := [1, 2], admitted := [(5, 4), (6, 1)], cut := [7] }), by decide⟩,
   ⟨((wOn.wr (portA 3 0) 0x5DC).setPort 3
     { rx := some { f := { ingress := 3, size := 64 }, raw := [1, 2], admitted := [(5, 4)] } }), 3, 5, 4,
     ({ f := { ingress := 3, size := 64 }, raw := [1, 2], admitted := [(5, 4)] }), by decide⟩,
   ⟨((wOn.setPort 3 { rx := some { f := { ingress := 3 }, cut := [5] } }).setPort 5
     { sending := some { f := {}, cls := 0, wire := [1], open_ := true } }), 3, 5,
     ({ f := {}, cls := 0, wire := [1], open_ := true }), ({ f := { ingress := 3 }, cut := [5] }), by decide⟩,
   ⟨(((wOn.wr (portA 3 0) 0x5DC).setPort 3 { rx := some { f := { ingress := 3 }, cut := [5] } }).setPort 5
     { sending := some { f := {}, cls := 0, wire := [1], open_ := true } }), 3, 5,
     ({ f := {}, cls := 0, wire := [1], open_ := true }), ({ f := { ingress := 3 }, cut := [5] }), by decide⟩,
   ⟨((((((((((wOn.wr eswBase 0x80000000).wr (portA 3 0) 0x800005DC).wr (portA 3 8) 0xB0000000).wr (portA 3 4) 1).wr (portA 5
     0) 0x800005DC).wr (portA 5 8) 0xB0000000).wr (portA 5 4) 1).wr (vlanA 1) 0x80000028).setQueue 3 6
     [{ vid := 5, pcp := 6 }, {}]).wr (portA 3 0x58) 0x80000100), 3, by decide⟩,
   ⟨(((((((((wOn.wr eswBase 0x80000000).wr (portA 3 0) 0x800005DC).wr (portA 3 8) 0xB0000000).wr (portA 3 4) 1).wr (portA 5
     0) 0x800005DC).wr (portA 5 8) 0xB0000000).wr (portA 5 4) 1).wr (vlanA 1) 0x80000028).setQueue 3 6
     [{ vid := 5, pcp := 6 }, {}]), 3, 6, ({ vid := 5, pcp := 6 }), ([{}]), by decide⟩⟩

/-- States and operands that meet the hypotheses of `Obligations.SwitchFrames`, part 3. -/
theorem meets_SwitchFrames_3 :
    (∃ (s : State) (p : Fin 15) (c : Nat) (f : EFrame) (r : List EFrame), s.logicOn = true ∧ s.accepts 5 = true ∧ s.linkUp p
      = true ∧ (s.port p).sending = none ∧ s.plcaMute p = false ∧ (∀ j, j < 8 → s.cbsOn p j = false) ∧ c < 8 ∧ (∀ j, j < 8 →
      c < j → s.queue p j = []) ∧ s.queue p c = f :: r ∧ s.tasOn p = false ∧ s.maxFrame p < ((s.wireOf f p).length + 4) ∧
      s.msTx p f (s.wireOf f p) = .plain ∧ f.ptp = none)
    ∧ (∃ (s : State) (p : Fin 15), s.logicOn = true ∧ s.accepts 5 = true ∧ s.linkUp p = true ∧ (s.port p).sending = none ∧
      s.plcaMute p = false ∧ (∀ j, j < 8 → s.cbsOn p j = false) ∧ (∀ j, j < 8 → s.queue p j = []))
    ∧ (∃ (s : State) (p : Fin 15) (y : EthSend), (s.port p).sending = some y ∧ s.logicOn = true ∧ s.accepts 5 = true ∧
      y.open_ = false)
    ∧ (∃ (s : State) (p : Fin 15) (y : EthSend), (s.port p).sending = some y ∧ s.logicOn = true ∧ s.accepts 5 = true ∧
      y.open_ = false ∧ s.cbsOn p y.cls = false ∧ y.f.ptp = none)
    ∧ (∃ (s : State) (p : Fin 15) (c : Nat), s.logicOn = true ∧ s.accepts 5 = true ∧ c < 8 ∧ s.cbsOn p c = true ∧ s.queue p
      c ≠ [] ∧ (s.port p).sending = none ∧ 0 ≤ s.creditNow p c)
    ∧ (∃ (s : State) (c : Nat) (f : EFrame) (r : List EFrame), s.logicOn = true ∧ s.accepts 5 = true ∧ ((((s.port
      15).queues.filter fun (q : Nat × List EFrame) => !q.2.isEmpty).map (·.1)).find? (fun k => decide (s.esw.hostRr < k))
      <|> (((s.port 15).queues.filter fun (q : Nat × List EFrame) => !q.2.isEmpty).map (·.1)).head?) = some c ∧ s.queue 15 c
      = f :: r)
    ∧ (∃ (s : State) (c : Nat) (f : EFrame) (r : List EFrame), s.logicOn = true ∧ s.accepts 5 = true ∧ (s.port 15).queues =
      [(c, f :: r)] ∧ 0x400 ≤ c ∧ (s.wireOf f 15).length ≤ 2048)
    ∧ (∃ (s : State) (c : Nat) (f : EFrame) (r : List EFrame), s.logicOn = true ∧ s.accepts 5 = true ∧ (s.port 15).queues =
      [(c, f :: r)] ∧ c = 0x80)
    ∧ (∃ (s : State) (k : Fin 32) (h : HostRx) (l : List HostRx), smGet (fun _ => []) s.esw.tunIn k = h :: l ∧ s.accepts 4 =
      true ∧ s.logicOn = true)
    ∧ (∃ (s : State) (k : Fin 32) (h : HostRx), smGet (fun _ => []) s.esw.tunIn k = [h] ∧ s.accepts 4 = true ∧ s.logicOn =
      true ∧ (∀ v ∈ (s.rxTun k).prevSeq.toList, (byteAt h.bytes 3).toNat = (v + 1) % 256) ∧ (beNat (slice h.bytes 1 2) %
      2048) = 0) :=
  ⟨⟨((((((((((wOn.wr eswBase 0x80000000).wr (portA 3 0) 0x800005DC).wr (portA 3 8) 0xB0000000).wr (portA 3 4) 1).wr (portA 5
    0) 0x800005DC).wr (portA 5 8) 0xB0000000).wr (portA 5 4) 1).wr (vlanA 1) 0x80000028).wr (portA 3 0) 0x80000040).setQueue
    3 6 [{ rest := List.replicate 70 0 }, {}]), 3, 6, ({ rest := List.replicate 70 0 }), ([{}]), by decide⟩,
   ⟨((((((((wOn.wr eswBase 0x80000000).wr (portA 3 0) 0x800005DC).wr (portA 3 8) 0xB0000000).wr (portA 3 4) 1).wr (portA 5
     0) 0x800005DC).wr (portA 5 8) 0xB0000000).wr (portA 5 4) 1).wr (vlanA 1) 0x80000028), 3, by decide⟩,
   ⟨((wOn.wr (portA 3 0x44) 0x80000100).setPort 3
     { sending := some { f := {}, cls := 1, wire := [1, 2], thru := true, marked := true } }), 3,
     ({ f := {}, cls := 1, wire := [1, 2], thru := true, marked := true }), by decide⟩,
   ⟨(wOn.setPort 3 { sending := some { f := {}, cls := 1, wire := [1, 2], thru := true } }), 3,
     ({ f := {}, cls := 1, wire := [1, 2], thru := true }), by decide +kernel⟩,
   ⟨((((((((((wOn.wr eswBase 0x80000000).wr (portA 3 0) 0x800005DC).wr (portA 3 8) 0xB0000000).wr (portA 3 4) 1).wr (portA 5
     0) 0x800005DC).wr (portA 5 8) 0xB0000000).wr (portA 5 4) 1).wr (vlanA 1) 0x80000028).wr (portA 3 0x58)
     0x80000100).setQueue 3 6 [{}]), 3, 6, by decide⟩,
   ⟨(wOn.setPort 15 { queues := [(0x401, [{ ingress := 3, time := 5 }]), (0x407, [{ ingress := 3, time := 5 }, {}])] }),
     0x401, ({ ingress := 3, time := 5 }), ([]), by decide⟩,
   ⟨(wOn.setQueue 15 0x407 [{ ingress := 3, time := 5 }, {}]), 0x407, ({ ingress := 3, time := 5 }), ([{}]), by decide⟩,
   ⟨(wOn.setQueue 15 0x80 [{ ingress := 3, time := 5, da := [1, 2] }]), 0x80, ({ ingress := 3, time := 5, da := [1, 2] }),
     ([]), by decide⟩,
   ⟨{ wOn with esw := { tunIn := [(9, [⟨[0x82, 0x80, 0, 7], 1, 0, 3⟩, ⟨[1], 1, 0, 3⟩])] }, clr := { rxTun := [(9, { prevSeq := some 5 })] } },
     9, (⟨[0x82, 0x80, 0, 7], 1, 0, 3⟩), [⟨[1], 1, 0, 3⟩], by decide⟩,
   ⟨{ wOn with esw := { tunIn := [(9, [⟨[0x82, 0x80, 0, 7], 1, 0, 3⟩])] }, clr := { rxTun := [(9, { prevSeq := some 6 })] } },
     9, (⟨[0x82, 0x80, 0, 7], 1, 0, 3⟩), by decide⟩⟩

/-- States and operands that meet the hypotheses of `Obligations.SwitchFrames`, part 4. -/
theorem meets_SwitchFrames_4 :
    (∃ (s : State) (k : Fin 32) (h : HostRx) (m : Frame), smGet (fun _ => []) s.esw.tunIn k = [h] ∧ s.accepts 4 = true ∧
      s.logicOn = true ∧ (∀ v ∈ (s.rxTun k).prevSeq.toList, (byteAt h.bytes 3).toNat = (v + 1) % 256) ∧ ((h.bytes.drop
      12).take (beNat (slice h.bytes 1 2) % 2048)) ≠ [] ∧ ((h.bytes.drop 12).take (beNat (slice h.bytes 1 2) % 2048)).length
      = beNat (((h.bytes.drop 12).take (beNat (slice h.bytes 1 2) % 2048)).take 2) % 512 * 4 ∧ s.acfFrame k ((h.bytes.drop
      12).take (beNat (slice h.bytes 1 2) % 2048)) ⟨h.time, h.sub, h.ingress⟩ = some m ∧ s.rb (clA 0xC) 31 = false ∧ s.rb
      (clA 0) 0 = false ∧ s.rb (clA (0x800 + k * 0x10)) 29 = true ∧ s.eqRoom (s.rf (clA (0x800 + k * 0x10)) 19 16) = true)
    ∧ (∃ (s : State) (c : Nat), s.logicOn = true ∧ s.accepts 5 = true ∧ (((List.range 25).map fun i => (s.esw.rr + i) %
      25).find? fun k => (s.hostSource k).isSome) = some c)
    ∧ (∃ (s : State), s.logicOn = true ∧ s.accepts 5 = true ∧ (((List.range 25).map fun i => (s.esw.rr + i) % 25).find? fun
      k => (s.hostSource k).isSome) = none)
    ∧ (∃ (s : State) (b : List Byte), s.logicOn = true ∧ s.accepts 5 = true ∧ s.esw.rr = 24 ∧ s.esw.hostIn.head? = some b ∧
      s.rb eswBase 31 = false)
    ∧ (∃ (s : State) (b : List Byte) (q c : Nat), s.logicOn = true ∧ s.accepts 5 = true ∧ s.esw.rr = 24 ∧ s.esw.hostIn.head?
      = some b ∧ s.rb eswBase 31 = true ∧ s.vlanOk (s.parse 15 b s.now 0).1 (s.parse 15 b s.now 0).2 = true ∧ s.rb (esA 0)
      28 = false ∧ s.destSet (s.parse 15 b s.now 0).1 = [q] ∧ q < 15 ∧ s.classOf (s.parse 15 b s.now 0).1 = c ∧ s.admits q c
      (s.alpha q c) = true ∧ b.length + 4 ≤ s.maxFrame 15 ∧ s.rb (portA 15 0) 29 = false ∧ (s.setQueue q c (s.queue q c ++
      [(s.parse 15 b s.now 0).1])).poolUsed ≤ 32768) :=
  ⟨⟨({ wOn with esw := { tunIn := [(9, [⟨[0x82, 0x80, 0xC, 7, 0, 0, 0, 0, 0, 0, 0, 0, 4, 3, 0x40, 5, 0, 0, 1, 0x23, 1, 2, 3, 0], 1, 0, 3⟩])] } }.wr
    (clA (0x800 + 9 * 0x10)) 0xA0070500), 9, (⟨[0x82, 0x80, 0xC, 7, 0, 0, 0, 0, 0, 0, 0, 0, 4, 3, 0x40, 5, 0, 0, 1, 0x23, 1,
    2, 3, 0], 1, 0, 3⟩), ({ id := 0x123, data := [1, 2, 3], time := 1, ingress := 3 }), by decide⟩,
   ⟨{ wOn.wr eswBase 0 with esw := { rr := 20, hostIn := [[1], [2]] } }, 24, by decide⟩,
   ⟨wOn, by decide⟩,
   ⟨{ wOn.wr eswBase 0 with esw := { rr := 24, hostIn := [[1], [2]] } }, ([1]), by decide⟩,
   ⟨{ (((((((wOn.wr eswBase 0x80000000).wr (portA 5 0) 0x800005DC).wr (portA 5 8) 0xB0000000).wr (portA 5 4) 1).wr (vlanA 1) 0x80000028).wr (portA 15 0) 0x800005DC).wr (portA 15 4) 1) with esw := { rr := 24, hostIn := [([0xFF, 0xFF, 0xFF, 0xFF, 0xFF, 0xFF, 2, 0, 0, 0, 0, 9, 8, 0] ++ List.replicate 46 7)] } },
     (([0xFF, 0xFF, 0xFF, 0xFF, 0xFF, 0xFF, 2, 0, 0, 0, 0, 9, 8, 0] ++ List.replicate 46 7)), 5, 0, by decide +kernel⟩⟩

/-- States and operands that meet the hypotheses of `Obligations.SwitchControl`, part 1. -/
theorem meets_SwitchControl_1 :
    (∃ (s : State) (p : Fin 15) (r : Fin 7) (m : Bool), s.logicOn = true ∧ s.accepts 5 = true ∧ s.linkUp p = false ∧
      s.mayTrain p = true ∧ s.rateFits p r = true ∧ s.roleFits p m = true)
    ∧ (∃ (s : State) (p : Fin 15), s.logicOn = true ∧ s.accepts 5 = true ∧ s.linkUp p = true)
    ∧ (∃ (s : State) (p : Fin 15), s.logicOn = true ∧ s.accepts 5 = true ∧ s.linkUp p = false)
    ∧ (∃ (s : State) (p : Fin 15), s.logicOn = true ∧ s.accepts 5 = true ∧ s.linkUp p = true ∧ (s.port p).tc10 = true)
    ∧ (∃ (s : State) (p : Fin 15), s.logicOn = true ∧ s.accepts 5 = true ∧ s.linkUp p = true ∧ p.val ≠ 1 ∧ p.val ≠ 14 ∧ (∀ x
      ∈ s.esw.ports, x.2.rx = none) ∧ (s.port p).queues = [] ∧ (s.port p).sending = none ∧ s.fdbValid = [] ∧ s.pairReach =
      (s.bridge 3).pairUp)
    ∧ (∃ (s : State) (p : Fin 15), s.logicOn = true ∧ s.accepts 5 = true ∧ s.linkUp p = true ∧ p.val ≠ 1 ∧ p.val ≠ 14 ∧ (∀ x
      ∈ s.esw.ports, x.2.rx = none) ∧ (s.port p).queues = [] ∧ (s.port p).sending = none ∧ s.fdbValid = [] ∧ s.pairReach =
      (s.bridge 3).pairUp ∧ (s.port p).tc10 = true)
    ∧ (∃ (s : State) (p : Fin 15), s.logicOn = true ∧ s.accepts 5 = true ∧ (s.port p).tc10 = true)
    ∧ (∃ (s : State), Canonical s ∧ s.logicOn = true ∧ s.accepts 5 = true ∧ s.rf eswBase 15 0 ≠ 0)
    ∧ (∃ (s : State), Canonical s ∧ s.logicOn = true ∧ s.accepts 5 = true ∧ bit (s.rd (esA 8)) 30 = true)
    ∧ (∃ (s : State) (p : Fin 15), s.logicOn = true ∧ s.accepts 5 = true ∧ s.rb (portA p 0x2C) 31 = true ∧ reached (s.port
      p).tas.due s.now = true) :=
  ⟨⟨{ wOn.wr (portA 3 0) 0x800005DC with boot := { phyFw := [0, 1, 2, 3] } }, 3, 3, true, by decide⟩,
   ⟨(wOn.wr (portA 3 8) 0xF8051234), 3, by decide⟩,
   ⟨wOn, 3, by decide⟩,
   ⟨((((((wOn.wr (portA 3 8) 0xF8051234).setPort 3
     { rx := some { f := {}, admitted := [(5, 0)], cut := [6] }, queues := [(2, [{}, {}])], sending := some { f := {}, cls := 0 }, tc10 := true }).setPort
     4 { rx := some { f := {}, admitted := [(3, 0), (6, 1)], cut := [3] } }).wr (fdbA 5) 0x80001122).wr (fdbA 5 + 8) 8).wr
     (portA 3 8) 0xF805FFFF), 3, by decide⟩,
   ⟨(wOn.wr (portA 3 8) 0xF8051234), 3, by decide⟩,
   ⟨((wOn.wr (portA 3 8) 0xF8051234).setPort 3 { tc10 := true }), 3, by decide⟩,
   ⟨((wOn.wr (portA 3 8) 0xF8051234).setPort 3 { tc10 := true }), 3, by decide⟩,
   ⟨((((wOn.wr eswBase 0x8000012C).wr (fdbA 5) 0xA0001122).wr (fdbA 9) 0x80003344).wr (fdbA 9 + 4) 7), by decide⟩,
   ⟨((((({ wOn with esw := { flush := 0xA0000028 } }.wr (esA 8) 0x60000000).wr (fdbA 5) 0xE0001122).wr (fdbA 5 + 8) 8).wr
     (fdbA 9) 0x80003344).wr (fdbA 9 + 8) 8), by decide⟩,
   ⟨((wOn.wr (portA 3 0x2C) 0x80000001).setPort 3 { tas := { newBank := 1, newLen := 2, newCycle := 5000, due := 0 } }), 3,
     by decide⟩⟩

/-- States and operands that meet the hypotheses of `Obligations.SwitchControl`, part 2. -/
theorem meets_SwitchControl_2 :
    (∃ (s : State) (p : Fin 15), s.logicOn = true ∧ s.accepts 5 = true ∧ s.tasOn p = true ∧ reached ((s.port p).tas.start +
      wd (((s.gateList p).take ((s.port p).tas.idx + 1)).map (·.2)).sum) s.now = true)
    ∧ (∃ (s : State) (k : Fin 256), s.logicOn = true ∧ s.accepts 5 = true ∧ s.rb (recvA k) 31 = true ∧ (s.frer k).seq ≠ none
      ∧ s.rf (recvA k) 15 0 * 500000 ≤ s.ticks - (s.frer k).passed)
    ∧ (∃ (s : State) (a : Acc) (q : Fin 16), Reaches s a (portA q 0) ∧ Manager s a ∧ 2 ≤ q.val ∧ q.val < 12)
    ∧ (∃ (s : State) (a : Acc) (q : Fin 16), Reaches s a (portA q 0) ∧ Manager s a ∧ 2 ≤ q.val ∧ q.val < 12)
    ∧ (∃ (s : State) (a : Acc) (q : Fin 16), Reaches s a (portA q 0) ∧ NoHart a ∧ Manager s a ∧ (q.val < 2 ∨ 12 ≤ q.val))
    ∧ (∃ (s : State) (a : Acc), Reaches s a eswBase ∧ Manager s a ∧ bit (s.rd (esA 8)) 30 = false)
    ∧ (∃ (s : State) (a : Acc), Reaches s a eswBase ∧ Manager s a ∧ NoHart a ∧ bit (s.rd (esA 8)) 30 = true)
    ∧ (∃ (s : State) (a : Acc) (v : Word) (o : BitVec 20) (n : Nat) (l : List Word), Reaches s a (swtBase + o.toNat / 4 * 4)
      ∧ Manager s a ∧ swtShape (o.toNat / 4 * 4) = some (n, l) ∧ (o.toNat / 4 * 4) % n = 0 ∧ (0x35000 ≤ (o.toNat / 4 * 4) ∧
      (o.toNat / 4 * 4) < 0x36000 → 1 ≤ fld v 21 16 ∧ fld v 21 16 ≤ 32 ∧ fld v 15 0 ≠ 0) ∧ (0x37000 ≤ (o.toNat / 4 * 4) ∧
      bit (s.rd (stageA ((swtBase + o.toNat / 4 * 4) + 4))) 15 = true → s.ckItem (fld (s.rd (stageA ((swtBase + o.toNat / 4
      * 4) + 4))) 8 0) = 2112 ∧ s.ckProdIs (fld (s.rd (stageA ((swtBase + o.toNat / 4 * 4) + 4))) 8 0) 3 = true))
    ∧ (∃ (s : State) (a : Acc) (o : BitVec 20) (n : Nat) (l : List Word), Reaches s a (swtBase + o.toNat / 4 * 4) ∧ Manager
      s a ∧ swtShape (o.toNat / 4 * 4) = some (n, l) ∧ (o.toNat / 4 * 4) % n ≠ 0)
    ∧ (∃ (s : State) (a : Acc) (o : BitVec 20), Reaches s a (swtBase + o.toNat / 4 * 4) ∧ Manager s a ∧ 0x36000 ≤ (o.toNat /
      4 * 4) ∧ (o.toNat / 4 * 4) < 0x36400) :=
  ⟨⟨((((wOn.wr (portA 3 0x20) 0x80000002).wr (portA 3 0x2C) 2).setPort 3
    { tas := { cycle := 5000, start := 0xFFFFE000 } }).wr (gateA 3 0 0 + 4) 1000), 3, by decide⟩,
   ⟨{ ((wOn.wr (recvA 9) 0x80040001).setFrer 9 { seq := some 4, hist := [true] }) with ticks := 500000 }, 9, by decide⟩,
   ⟨((wOn.wr (portA 3 8) 0xF8051234).wr (portA 3 0) 0x800005DC), mgr, 3, by decide⟩,
   ⟨(wOn.wr (portA 3 0) 0x800005DC), mgr, 3, by decide⟩,
   ⟨wOn, mgr, 1, by decide⟩,
   ⟨wOn, mgr, by decide⟩,
   ⟨(wOn.wr (esA 8) 0x40000000), mgr, by decide⟩,
   ⟨((wOn.wr (stageA (swtBase + 0x54)) 0x11223344).wr (stageA (swtBase + 0x58)) 0xFFFF0028), mgr, 0xFFFF5566, 0x50, 16,
     ([0xCFFFFFFF, 0xFFFFFFFF, 0x0000FFFF, 0]), by decide⟩,
   ⟨wOn, mgr, 0x3405C, 16, ([0xF0FFFFFF, 0x00FFFFFF, 0xFFFFFFFF, 0]), by decide⟩,
   ⟨wOn, mgr, 0x36014, by decide⟩⟩

/-- States and operands that meet the hypotheses of `Obligations.SwitchControl`, part 3. -/
theorem meets_SwitchControl_3 :
    (∃ (s : State) (a : Acc) (v : Word) (o : BitVec 20), Reaches s a (swtBase + o.toNat / 4 * 4) ∧ Manager s a ∧ 0x50000 ≤
      (o.toNat / 4 * 4) ∧ (o.toNat / 4 * 4) < 0x5F000 ∧ ((o.toNat / 4 * 4) % 8 = 4 → 100 ≤ v.toNat ∧ v.toNat ≤ 1000000000) ∧
      (o.toNat / 4 * 4) % 0x1000 / 0x800 ≠ s.tasBank (((o.toNat / 4 * 4) - 0x50000) / 0x1000))
    ∧ (∃ (s : State) (a : Acc) (o : BitVec 20), Reaches s a (swtBase + o.toNat / 4 * 4) ∧ Manager s a ∧ NoHart a ∧ 0x50000 ≤
      (o.toNat / 4 * 4) ∧ (o.toNat / 4 * 4) < 0x5F000 ∧ (o.toNat / 4 * 4) % 8 = 0 ∧ (o.toNat / 4 * 4) % 0x1000 / 0x800 =
      s.tasBank (((o.toNat / 4 * 4) - 0x50000) / 0x1000))
    ∧ (∃ (s : State) (a : Acc) (o : BitVec 20), Reaches s a (swtBase + o.toNat) ∧ Manager s a ∧ o.toNat < 0x20000 ∧ o.toNat
      % 16 = 0)
    ∧ (∃ (s : State) (a : Acc) (o : BitVec 20), Reaches s a (swtBase + o.toNat) ∧ Manager s a ∧ o.toNat % 4 = 0 ∧ o.toNat <
      0x28000 ∧ o.toNat % 8 ≠ 0)
    ∧ (∃ (s : State) (a : Acc) (o : BitVec 20), Reaches s a (swtBase + o.toNat) ∧ Manager s a ∧ 0x20000 ≤ o.toNat ∧ o.toNat
      < 0x28000 ∧ o.toNat % 8 = 0)
    ∧ (∃ (s : State) (a : Acc) (q : Fin 16) (v : Word), Reaches s a eswBase ∧ s.mayWriteOwned (s.tagsOf a.who) (esA (0x100 +
      q * 8)) = true ∧ s.resOthers q + fld v 13 0 ≤ 8192 ∧ (∀ i, i < 16 → i ≠ q.val → ownHeld (s.rd (esA (0x100 + i * 8))) =
      false ∨ s.rf (esA (0x104 + i * 8)) 31 28 ≠ fld v 31 28 ∨ s.rf (esA (0x104 + i * 8)) 26 24 ≠ fld v 26 24))
    ∧ (∃ (s : State) (a : Acc) (q : Fin 16) (v : Word), Reaches s a eswBase ∧ NoHart a ∧ s.mayWriteOwned (s.tagsOf a.who)
      (esA (0x100 + q * 8)) = true ∧ 8192 < s.resOthers q + fld v 13 0)
    ∧ (∃ (s : State) (a : Acc) (p : Fin 15) (v : Word), Reaches s a (portA p 0x20) ∧ Manager s a ∧ 1 ≤ fld v 8 0 ∧ fld v 8 0
      ≤ 256 ∧ 1000 ≤ (s.rd (portA p 0x28)).toNat ∧ s.rb (portA p 0x2C) 31 = false ∧ fld v 29 29 ≠ s.tasBank p)
    ∧ (∃ (s : State) (a : Acc) (p : Fin 15) (v : Word), Reaches s a (portA p 0x20) ∧ Manager s a ∧ NoHart a ∧ 1 ≤ fld v 8 0
      ∧ fld v 8 0 ≤ 256 ∧ 1000 ≤ (s.rd (portA p 0x28)).toNat ∧ s.rb (portA p 0x2C) 31 = true)
    ∧ (∃ (s : State) (a : Acc), Reaches s a eswBase ∧ Manager s a) :=
  ⟨⟨wOn, mgr, 0x5566, 0x53804, by decide⟩,
   ⟨wOn, mgr, 0x53008, by decide⟩,
   ⟨((wOn.wr (stageA (swtBase + 0x54)) 0x11223344).wr (stageA (swtBase + 0x58)) 0xFFFF0028), mgr, 0x50, by decide⟩,
   ⟨wOn, mgr, 0x54, by decide⟩,
   ⟨(wOn.wr (stageA (swtBase + 0x2000C)) 0xFFFF0028), mgr, 0x20008, by decide⟩,
   ⟨wOn, mgr, 15, 0x53002000, by decide⟩,
   ⟨wOn, mgr, 3, 0x2001, by decide⟩,
   ⟨((wOn.wr (portA 3 0x28) 1000).wr (portA 3 0x24) 77), mgr, 3, 0xA0000100, by decide⟩,
   ⟨((wOn.wr (portA 3 0x28) 1000).wr (portA 3 0x2C) 0x80000001), mgr, 3, 0xA0000100, by decide⟩,
   ⟨((wOn.wr eswBase 0x8000012C).setPort 3 { cnt := [(8, 7)] }), mgr, by decide⟩⟩

/-- States and operands that meet the hypotheses of `Obligations.TimeAndMacsec`, part 1. -/
theorem meets_TimeAndMacsec_1 :
    (∃ (s : State), s.logicOn = true ∧ (s.rd (tbA 8)).toNat ≠ 0 ∧ s.tb.acc < 2 ^ 60)
    ∧ (∃ (s : State) (k : Fin 4), s.logicOn = true ∧ s.evOut k = true ∧ (s.ev k).level = false ∧ (s.evPer k ≠ 0 ∨ (s.ev k).k
      = 0) ∧ reached (s.evRise k (s.ev k).k) s.now = true)
    ∧ (∃ (s : State) (k : Fin 4), s.logicOn = true ∧ s.evOut k = true ∧ (s.ev k).level = true ∧ reached (s.evFall k ((s.ev
      k).k - 1)) s.now = true)
    ∧ (∃ (s : State) (k : Fin 4) (b : Bool), s.logicOn = true ∧ s.rb (evA k 4) 31 = true ∧ s.rb (evA k 4) 0 = false ∧ ¬ (fld
      (s.rd (evA k 4)) 29 28 = 0 ∧ b = false) ∧ ¬ (fld (s.rd (evA k 4)) 29 28 = 1 ∧ b = true) ∧ s.rb (evA k 4) 30 = false)
    ∧ (∃ (s : State) (k : Fin 4) (b : Bool), s.logicOn = true ∧ s.rb (evA k 4) 31 = true ∧ s.rb (evA k 4) 0 = false ∧ ¬ (fld
      (s.rd (evA k 4)) 29 28 = 0 ∧ b = false) ∧ ¬ (fld (s.rd (evA k 4)) 29 28 = 1 ∧ b = true) ∧ s.rb (evA k 4) 30 = true)
    ∧ (∃ (s : State) (k : Fin 4) (b : Bool), s.logicOn = true ∧ s.rb (evA k 4) 31 = true ∧ s.rb (evA k 4) 0 = false ∧ ¬ (fld
      (s.rd (evA k 4)) 29 28 = 0 ∧ b = false) ∧ ¬ (fld (s.rd (evA k 4)) 29 28 = 1 ∧ b = true) ∧ s.rb (evA k 4) 30 = true ∧
      ownHeld (s.rd (ckA (s.rf (evA k 4) 9 1) 0)) = true ∧ (s.ckEn (s.rf (evA k 4) 9 1) = false ∨ s.ckRoom (s.rf (evA k 4) 9
      1) = false))
    ∧ (∃ (s : State) (k : Fin 4) (b : Bool), s.logicOn = true ∧ s.rb (evA k 4) 31 = true ∧ s.rb (evA k 4) 0 = false ∧ ¬ (fld
      (s.rd (evA k 4)) 29 28 = 0 ∧ b = false) ∧ ¬ (fld (s.rd (evA k 4)) 29 28 = 1 ∧ b = true) ∧ s.rb (evA k 4) 30 = true ∧
      ownHeld (s.rd (ckA (s.rf (evA k 4) 9 1) 0)) = false)
    ∧ (∃ (s : State) (k : Fin 4) (b : Bool), s.logicOn = true ∧ s.rb (evA k 4) 31 = true ∧ s.rb (evA k 4) 0 = false ∧ ¬ (fld
      (s.rd (evA k 4)) 29 28 = 0 ∧ b = false) ∧ ¬ (fld (s.rd (evA k 4)) 29 28 = 1 ∧ b = true) ∧ s.rb (evA k 4) 30 = true ∧
      ownHeld (s.rd (ckA (s.rf (evA k 4) 9 1) 0)) = true ∧ s.ckEn (s.rf (evA k 4) 9 1) = true ∧ s.ckRoom (s.rf (evA k 4) 9
      1) = true ∧ s.mayWrite (s.ckOwner (s.rf (evA k 4) 9 1)) (s.ckPlace (s.rf (evA k 4) 9 1) (s.cask (s.rf (evA k 4) 9
      1)).pw) (s.ckItem (s.rf (evA k 4) 9 1)) = true)
    ∧ (∃ (s : State) (a : Acc) (k : Fin 4) (r : Fin 4) (v : Word), Reaches s a tbuBase ∧ s.mayWriteOwned (s.tagsOf a.who)
      (evA k 0) = true ∧ r.val = 0 ∧ fld v 29 28 ≠ 3 ∧ (bit v 30 = true → s.ckItem (fld v 9 1) = 16 ∧ s.ckProdIs (fld v 9 1)
      5 = true) ∧ (bit v 31 = true → (ownHeld (s.rd (evA k 0)) = true ∧ ownHeld (s.rd (evLandA k)) = true ∧ fld (s.rd
      (evLandA k)) 23 16 = 1 ∧ ownTags (s.rd (evLandA k)) = ownTags (s.rd (evA k 0)) ∧ fld (s.rd (evA k 0)) 23 16 = (if bit
      v 0 then 2 else 1)) ∧ (bit v 0 = true → 4 ≤ (s.rd (evA k 0x10)).toNat ∧ (s.evPer k = 0 ∨ (s.rd (evA k 0x10)).toNat + 4
      ≤ s.evPer k))))
    ∧ (∃ (s : State) (a : Acc) (k : Fin 4) (r : Fin 4) (v : Word), Reaches s a tbuBase ∧ s.mayWriteOwned (s.tagsOf a.who)
      (evA k 0) = true ∧ NoHart a ∧ r.val = 0 ∧ (fld v 29 28 = 3 ∨ (bit v 31 = true ∧ bit v 0 = true ∧ ¬ (4 ≤ (s.rd (evA k
      0x10)).toNat ∧ (s.evPer k = 0 ∨ (s.rd (evA k 0x10)).toNat + 4 ≤ s.evPer k))))) :=
  ⟨⟨{ (wOn.wr (clA 0x24) 0xFFFFFFFF) with tb := { acc := 2 ^ 60 - 5 } }, by decide⟩,
   ⟨((wOn.wr (evA 2 4) 0x80000001).wr (evA 2 0xC) 1000), 2, by decide⟩,
   ⟨((((wOn.wr (evA 2 4) 0x80000001).wr (evA 2 8) 0xFFFFFF00).wr (evA 2 0x10) 100).setEv 2 { level := true, k := 1 }), 2,
     by decide⟩,
   ⟨((wOn.wr (evA 2 4) 0xA0000000).wr (evA 2 0x1C) 0xFFFFF), 2, false, by decide⟩,
   ⟨(((wOn.wr (evA 2 4) 0xC000000E).wr (ckA 7 0) 0x80000100).wr (ckA 7 0x10) 0xFFFF0000), 2, true, by decide⟩,
   ⟨(((wOn.wr (evA 2 4) 0xC000000E).wr (ckA 7 0) 0x80000100).wr (ckA 7 0x10) 0xFFFF0000), 2, true, by decide⟩,
   ⟨(wOn.wr (evA 2 4) 0xC000000E), 2, true, by decide⟩,
   ⟨(((((wOn.wr (evA 2 4) 0xC000000E).wr (ckA 7 0) 0x80000100).wr (ckA 7 4) 0x80050002).wr (ckA 7 8) 0x10001000).wr (ckA 7
     0xC) 3), 2, true, by decide⟩,
   ⟨(wOn.setEv 2 { k := 3 }), mgr, 2, 0, 0x10000000, by decide⟩,
   ⟨wOn, mgr, 2, 0, 0x30000000, by decide⟩⟩

/-- States and operands that meet the hypotheses of `Obligations.TimeAndMacsec`, part 2. -/
theorem meets_TimeAndMacsec_2 :
    (∃ (s : State) (a : Acc) (k : Fin 4) (r : Fin 4) (v : Word), Reaches s a tbuBase ∧ s.mayWriteOwned (s.tagsOf a.who) (evA
      k 0) = true ∧ NoHart a ∧ r.val = 0 ∧ fld v 29 28 ≠ 3 ∧ (bit v 31 = true → bit v 0 = true → 4 ≤ (s.rd (evA k
      0x10)).toNat ∧ (s.evPer k = 0 ∨ (s.rd (evA k 0x10)).toNat + 4 ≤ s.evPer k)) ∧ bit v 30 = true ∧ s.ckItem (fld v 9 1) ≠
      16)
    ∧ (∃ (s : State) (a : Acc) (k : Fin 4) (r : Fin 4) (v : Word), Reaches s a tbuBase ∧ s.mayWriteOwned (s.tagsOf a.who)
      (evA k 0) = true ∧ NoHart a ∧ r.val = 0 ∧ fld v 29 28 ≠ 3 ∧ (bit v 31 = true → bit v 0 = true → 4 ≤ (s.rd (evA k
      0x10)).toNat ∧ (s.evPer k = 0 ∨ (s.rd (evA k 0x10)).toNat + 4 ≤ s.evPer k)) ∧ bit v 30 = true ∧ s.ckItem (fld v 9 1) =
      16 ∧ s.ckProdIs (fld v 9 1) 5 = false)
    ∧ (∃ (s : State) (a : Acc) (k : Fin 4) (r : Fin 4) (v : Word), Reaches s a tbuBase ∧ s.mayWriteOwned (s.tagsOf a.who)
      (evA k 0) = true ∧ NoHart a ∧ r.val = 0 ∧ fld v 29 28 ≠ 3 ∧ (bit v 30 = true → s.ckItem (fld v 9 1) = 16 ∧ s.ckProdIs
      (fld v 9 1) 5 = true) ∧ bit v 31 = true ∧ (bit v 0 = true → 4 ≤ (s.rd (evA k 0x10)).toNat ∧ (s.evPer k = 0 ∨ (s.rd
      (evA k 0x10)).toNat + 4 ≤ s.evPer k)) ∧ ¬ (ownHeld (s.rd (evA k 0)) = true ∧ ownHeld (s.rd (evLandA k)) = true ∧ fld
      (s.rd (evLandA k)) 23 16 = 1 ∧ ownTags (s.rd (evLandA k)) = ownTags (s.rd (evA k 0)) ∧ fld (s.rd (evA k 0)) 23 16 =
      (if bit v 0 then 2 else 1)))
    ∧ (∃ (s : State) (a : Acc) (k : Fin 4) (r : Fin 4) (v : Word), Reaches s a tbuBase ∧ s.mayWriteOwned (s.tagsOf a.who)
      (evA k 0) = true ∧ r.val ≠ 0 ∧ s.evOut k = false ∧ (r.val = 1 ∨ r.val = 2 ∧ (if r.val = 3 then v.toNat else (s.rd (evA
      k 0x10)).toNat) = 0 ∨ (4 ≤ (if r.val = 3 then v.toNat else (s.rd (evA k 0x10)).toNat) ∧ ((if r.val = 2 then v.toNat
      else s.evPer k) = 0 ∨ (if r.val = 3 then v.toNat else (s.rd (evA k 0x10)).toNat) + 4 ≤ (if r.val = 2 then v.toNat else
      s.evPer k)))))
    ∧ (∃ (s : State) (a : Acc) (k : Fin 4) (r : Fin 4) (v : Word), Reaches s a tbuBase ∧ s.mayWriteOwned (s.tagsOf a.who)
      (evA k 0) = true ∧ r.val ≠ 0 ∧ s.evOut k = true ∧ (r.val = 1 ∨ r.val = 2 ∧ (if r.val = 3 then v.toNat else (s.rd (evA
      k 0x10)).toNat) = 0 ∨ (4 ≤ (if r.val = 3 then v.toNat else (s.rd (evA k 0x10)).toNat) ∧ ((if r.val = 2 then v.toNat
      else s.evPer k) = 0 ∨ (if r.val = 3 then v.toNat else (s.rd (evA k 0x10)).toNat) + 4 ≤ (if r.val = 2 then v.toNat else
      s.evPer k)))))
    ∧ (∃ (s : State) (a : Acc) (k : Fin 4) (r : Fin 4) (v : Word), Reaches s a tbuBase ∧ s.mayWriteOwned (s.tagsOf a.who)
      (evA k 0) = true ∧ NoHart a ∧ r.val ≠ 0 ∧ ¬ (r.val = 1 ∨ r.val = 2 ∧ (if r.val = 3 then v.toNat else (s.rd (evA k
      0x10)).toNat) = 0 ∨ (4 ≤ (if r.val = 3 then v.toNat else (s.rd (evA k 0x10)).toNat) ∧ ((if r.val = 2 then v.toNat else
      s.evPer k) = 0 ∨ (if r.val = 3 then v.toNat else (s.rd (evA k 0x10)).toNat) + 4 ≤ (if r.val = 2 then v.toNat else
      s.evPer k)))))
    ∧ (∃ (s : State) (v : Word), s.logicOn = true ∧ s.tb.step = some v)
    ∧ (∃ (s : State) (v : Word), s.logicOn = true ∧ s.tb.step = some v ∧ s.clr.ds = [] ∧ s.cans = [] ∧ (∀ j, j < 4 → s.evOut
      j = false) ∧ s.lines = [] ∧ s.esw.ports = [])
    ∧ (∃ (s : State), s.logicOn = true)
    ∧ (∃ (s : State) (p : Fin 15) (l : List Byte) (m : List (List Byte)), (s.port p).txts = l :: m ∧ s.logicOn = true ∧
      ownHeld (s.rd (ckA (s.rf (tsA p 0) 8 0) 0)) = true ∧ s.ckEn (s.rf (tsA p 0) 8 0) = true ∧ s.ckRoom (s.rf (tsA p 0) 8
      0) = true ∧ s.mayWrite (s.ckOwner (s.rf (tsA p 0) 8 0)) (s.ckPlace (s.rf (tsA p 0) 8 0) (s.cask (s.rf (tsA p 0) 8
      0)).pw) (s.ckItem (s.rf (tsA p 0) 8 0)) = true) :=
  ⟨⟨(wOn.wr (ckA 7 4) 0x50003), mgr, 2, 0, 0x4000000E, by decide⟩,
   ⟨(wOn.wr (ckA 7 4) 0x40002), mgr, 2, 0, 0x4000000E, by decide⟩,
   ⟨(wOn.wr (evA 2 0) 0x80010100), mgr, 2, 0, 0x80000000, by decide⟩,
   ⟨wOn, mgr, 2, 1, 0x1234, by decide⟩,
   ⟨((((wOn.wr (evA 2 4) 0x80000001).wr (evA 2 8) 0xFFFFFF00).wr (evA 2 0x10) 50).wr (evA 2 0xC) 0), mgr, 2, 1, 0x1234,
     by decide⟩,
   ⟨wOn, mgr, 2, 3, 3, by decide⟩,
   ⟨{ (wOn.wr (tbA 0x10) 1) with tb := { acc := 5, step := some 0xFFFFFFFF } }, 0xFFFFFFFF, by decide⟩,
   ⟨{ (wOn.wr (tbA 0x10) 1) with tb := { acc := 5, step := some 0xFFFFFFFF } }, 0xFFFFFFFF, by decide⟩,
   ⟨wOn, by decide⟩,
   ⟨((((((wOn.setPort 3 { txts := [List.replicate 16 7, []] }).wr (tsA 3 0) 9).wr (ckA 9 0) 0x80000100).wr (ckA 9 4)
     0x80050002).wr (ckA 9 8) 0x10001000).wr (ckA 9 0xC) 3), 3, (List.replicate 16 7), ([[]]), by decide⟩⟩

/-- States and operands that meet the hypotheses of `Obligations.TimeAndMacsec`, part 3. -/
theorem meets_TimeAndMacsec_3 :
    (∃ (s : State) (p : Fin 15) (l : List Byte) (m : List (List Byte)), (s.port p).txts = l :: m ∧ s.logicOn = true ∧
      ownHeld (s.rd (ckA (s.rf (tsA p 0) 8 0) 0)) = false)
    ∧ (∃ (s : State) (p : Fin 15) (l : List Byte) (m : List (List Byte)), (s.port p).txts = l :: m ∧ s.logicOn = true ∧
      ownHeld (s.rd (ckA (s.rf (tsA p 0) 8 0) 0)) = true ∧ (s.ckEn (s.rf (tsA p 0) 8 0) = false ∨ s.ckRoom (s.rf (tsA p 0) 8
      0) = false))
    ∧ (∃ (s : State) (p : Fin 15) (l : List Byte) (m : List (List Byte)), (s.port p).txts = l :: m ∧ s.logicOn = true ∧
      ownHeld (s.rd (ckA (s.rf (tsA p 0) 8 0) 0)) = true ∧ s.ckEn (s.rf (tsA p 0) 8 0) = true ∧ s.ckRoom (s.rf (tsA p 0) 8
      0) = true ∧ s.mayWrite (s.ckOwner (s.rf (tsA p 0) 8 0)) (s.ckPlace (s.rf (tsA p 0) 8 0) (s.cask (s.rf (tsA p 0) 8
      0)).pw) (s.ckItem (s.rf (tsA p 0) 8 0)) = false)
    ∧ (∃ (s : State) (a : Acc) (v : Word), Reaches s a tbuBase ∧ Manager s a ∧ 0x1FF00000 ≤ v.toNat ∧ v.toNat ≤ 0x20100000)
    ∧ (∃ (s : State) (a : Acc) (v : Word), Reaches s a tbuBase ∧ Manager s a ∧ NoHart a ∧ (v.toNat < 0x1FF00000 ∨ 0x20100000
      < v.toNat))
    ∧ (∃ (s : State) (a : Acc), Reaches s a tbuBase ∧ Manager s a ∧ s.tb.step = none)
    ∧ (∃ (s : State) (a : Acc), Reaches s a tbuBase ∧ Manager s a ∧ NoHart a ∧ s.tb.step ≠ none)
    ∧ (∃ (s : State) (a : Acc) (v : Word), Reaches s a eswBase ∧ (s.tagsOf a.who).w = true ∧ bit v 31 = false)
    ∧ (∃ (s : State) (a : Acc) (k : Fin 4) (v : Word) (i : Fin 3) (ch : Fin 9), Reaches s a eswBase ∧ (s.tagsOf a.who).w =
      true ∧ bit v 31 = true ∧ s.slotMay (s.tagsOf a.who) (fld v 7 0) = true ∧ s.keyStatus (fld v 7 0) 5 = none ∧ s.slSize
      (fld v 7 0) = 2 ∧ (ch.val = 8 → (s.slot (fld v 7 0)).hwm ≤ (s.saStaged (i.val * 128 + ch.val * 8 + k.val) v).pn ∧ (∀
      j, j < 3 → ∀ n, n < 4 → txSa j n ≠ (i.val * 128 + ch.val * 8 + k.val) → (s.sa (txSa j n)).en = false ∨ (s.sa (txSa j
      n)).slot ≠ fld v 7 0)))
    ∧ (∃ (s : State) (a : Acc) (k : Fin 4) (v : Word) (i : Fin 3) (ch : Fin 9), Reaches s a eswBase ∧ (s.tagsOf a.who).w =
      true ∧ NoHart a ∧ bit v 31 = true ∧ s.slotMay (s.tagsOf a.who) (fld v 7 0) = true ∧ ch.val = 8 ∧ (s.saStaged (i.val *
      128 + ch.val * 8 + k.val) v).pn < (s.slot (fld v 7 0)).hwm) :=
  ⟨⟨((wOn.setPort 3 { txts := [[1]] }).wr (tsA 3 0) 9), 3, [1], ([]), by decide⟩,
   ⟨((wOn.setPort 3 { txts := [[1]] }).wr (ckA 0 0) 0x80000100), 3, [1], ([]), by decide⟩,
   ⟨(((((wOn.setPort 3 { txts := [List.replicate 16 7, []] }).wr (tsA 3 0) 9).wr (ckA 9 0) 0x80000000).wr (ckA 9 4)
     0x80050002).wr (ckA 9 8) 0x21FC0000 |>.wr (ckA 9 0xC) 3 |>.wr (tnmBase + 0x200) 1), 3, (List.replicate 16 7), ([[]]),
     by decide⟩,
   ⟨wOn, mgr, 0x1FF00000, by decide⟩,
   ⟨wOn, mgr, 0x1FEFFFFF, by decide⟩,
   ⟨wOn, mgr, by decide⟩,
   ⟨{ wOn with tb := { step := some 1 } }, mgr, by decide⟩,
   ⟨wOn, mgr, 7, by decide⟩,
   ⟨((wOn.wr (slA 20 4) 0x220).wr (slA 20 8) 1), mgr, 3, 0x80000014, 2, 8, by decide⟩,
   ⟨(wOn.setSlot 20 { hwm := 5 }), mgr, 3, 0x80000014, 2, 8, by decide⟩⟩

/-- States and operands that meet the hypotheses of `Obligations.TimeAndMacsec`, part 4. -/
theorem meets_TimeAndMacsec_4 :
    (∃ (s : State) (k : Fin 4) (b : Bool) (i : Fin 3), s.logicOn = true ∧ s.accepts 5 = true ∧ s.accepts 8 = true ∧ (s.sa
      (txSa i k)).waits = true ∧ persistent (s.sa (txSa i k)).slot = true ∧ (s.slot (s.sa (txSa i k)).slot).win = some b) :=
  ⟨((wOn.setSa (txSa 2 1) { en := true, slot := 20, waits := true }).setSlot 20 { win := some false }), 1, false, 2,
    by decide⟩

/-- States and operands that meet the hypotheses of `Obligations.Casks`, part 1. -/
theorem meets_Casks_1 :
    (∃ (s : State) (a : Acc) (n : Cask) (x : DWord) (q : State), Reaches s a (ckWinA n 0) ∧ s.resetting (s.tagsOf a.who).tid
      = false ∧ s.ckMay (s.tagsOf a.who) n = true ∧ s.ckEn n = true ∧ copyStatus x.toNat (s.ckItem n) = none ∧ s.mayRead
      (s.tagsOf a.who) x.toNat (s.ckItem n) = true ∧ q = s.ckServe n ∧ q.ckProdSoft n = true ∧ q.ckRoom n = true ∧ q.anyBad
      x.toNat (q.ckItem n) = false ∧ q.mayWrite (q.ckOwner n) (q.ckPlace n (q.cask n).pw) (q.ckItem n) = true)
    ∧ (∃ (s : State) (a : Acc) (n : Cask) (x : DWord) (q : State), Reaches s a (ckWinA n 0) ∧ s.resetting (s.tagsOf
      a.who).tid = false ∧ s.ckMay (s.tagsOf a.who) n = true ∧ s.ckEn n = true ∧ copyStatus x.toNat (s.ckItem n) = none ∧
      s.mayRead (s.tagsOf a.who) x.toNat (s.ckItem n) = true ∧ q = s.ckServe n ∧ q.ckProdSoft n = true ∧ q.ckRoom n = false)
    ∧ (∃ (s : State) (a : Acc) (n : Cask) (x : DWord), Reaches s a (ckWinA n 0) ∧ NoHart a ∧ s.resetting (s.tagsOf
      a.who).tid = false ∧ s.ckMay (s.tagsOf a.who) n = true ∧ s.ckEn n = true ∧ copyStatus x.toNat (s.ckItem n) = some
      .align ∧ s.mayRead (s.tagsOf a.who) x.toNat (s.ckItem n) = true)
    ∧ (∃ (s : State) (a : Acc) (n : Cask) (x : DWord), Reaches s a (ckWinA n 0) ∧ NoHart a ∧ s.resetting (s.tagsOf
      a.who).tid = false ∧ s.ckMay (s.tagsOf a.who) n = true ∧ s.ckEn n = true ∧ copyStatus x.toNat (s.ckItem n) = some
      .range)
    ∧ (∃ (s : State) (a : Acc) (n : Cask) (x : DWord), Reaches s a (ckWinA n 0) ∧ NoHart a ∧ s.resetting (s.tagsOf
      a.who).tid = false ∧ s.ckMay (s.tagsOf a.who) n = true ∧ s.ckEn n = true ∧ sramSpan x.toNat (s.ckItem n) = true ∧
      s.mayRead (s.tagsOf a.who) x.toNat (s.ckItem n) = false)
    ∧ (∃ (s : State) (a : Acc) (n : Cask) (x : DWord) (q : State), Reaches s a (ckWinA n 0) ∧ NoHart a ∧ s.resetting
      (s.tagsOf a.who).tid = false ∧ s.ckMay (s.tagsOf a.who) n = true ∧ s.ckEn n = true ∧ copyStatus x.toNat (s.ckItem n) =
      none ∧ s.mayRead (s.tagsOf a.who) x.toNat (s.ckItem n) = true ∧ q = s.ckServe n ∧ q.ckProdSoft n = false)
    ∧ (∃ (s : State) (a : Acc) (n : Cask), Reaches s a (ckWinA n 0) ∧ NoHart a ∧ s.resetting (s.tagsOf a.who).tid = false ∧
      s.ckMay (s.tagsOf a.who) n = false)
    ∧ (∃ (s : State) (a : Acc) (n : Cask), Reaches s a (ckWinA n 0) ∧ NoHart a ∧ s.resetting (s.tagsOf a.who).tid = true)
    ∧ (∃ (s : State) (a : Acc) (n : Cask), Reaches s a (ckWinA n 0) ∧ NoHart a ∧ s.resetting (s.tagsOf a.who).tid = false ∧
      s.ckMay (s.tagsOf a.who) n = true ∧ s.ckEn n = false)
    ∧ (∃ (s : State) (n : Cask) (p : PutWait) (l : List PutWait), (s.cask n).waits = p :: l ∧ (∀ h, p.acc.who = .hart h →
      (s.hart h).await = none) ∧ s.ckEn n = true ∧ s.ckRoom n = true ∧ s.anyBad p.src (s.ckItem n) = false ∧ s.mayWrite
      (s.ckOwner n) (s.ckPlace n (s.cask n).pw) (s.ckItem n) = true) :=
  ⟨⟨((((((((wOn.wr (ckA 9 0) 0x80000100).wr (ckA 9 4) 0x80000002).wr (ckA 9 8) 0x10001000).wr (ckA 9 0xC) 4).wr (ckA 9 0x10)
    0).wr (ckA 9 0x14) 0).wr (ckA 9 0x18) 0).stLE 0x10002000 16 0x41000000000000000000001122334455), mgr, 9, 0x10002000,
    (((((((((wOn.wr (ckA 9 0) 0x80000100).wr (ckA 9 4) 0x80000002).wr (ckA 9 8) 0x10001000).wr (ckA 9 0xC) 4).wr (ckA 9
    0x10) 0).wr (ckA 9 0x14) 0).wr (ckA 9 0x18) 0).stLE 0x10002000 16 0x41000000000000000000001122334455).ckServe 9),
    by decide⟩,
   ⟨(((((((wOn.wr (ckA 9 0) 0x80000100).wr (ckA 9 4) 0x80000002).wr (ckA 9 8) 0x10001000).wr (ckA 9 0xC) 4).wr (ckA 9 0x10)
     0x00040000).wr (ckA 9 0x14) 0).wr (ckA 9 0x18) 0), mgr, 9, 0x10002000, ((((((((wOn.wr (ckA 9 0) 0x80000100).wr (ckA 9
     4) 0x80000002).wr (ckA 9 8) 0x10001000).wr (ckA 9 0xC) 4).wr (ckA 9 0x10) 0x00040000).wr (ckA 9 0x14) 0).wr (ckA 9
     0x18) 0).ckServe 9), by decide⟩,
   ⟨(((((((wOn.wr (ckA 9 0) 0x80000100).wr (ckA 9 4) 0x80000002).wr (ckA 9 8) 0x10001000).wr (ckA 9 0xC) 4).wr (ckA 9 0x10)
     0).wr (ckA 9 0x14) 0).wr (ckA 9 0x18) 0), mgr, 9, 0x10002004, by decide⟩,
   ⟨(((((((wOn.wr (ckA 9 0) 0x80000100).wr (ckA 9 4) 0x80000002).wr (ckA 9 8) 0x10001000).wr (ckA 9 0xC) 4).wr (ckA 9 0x10)
     0).wr (ckA 9 0x14) 0).wr (ckA 9 0x18) 0), mgr, 9, 0x11FFFFF8, by decide⟩,
   ⟨(((((((wOn.wr (ckA 9 0) 0x80000005).wr (ckA 9 4) 0x80000002).wr (ckA 9 8) 0x10001000).wr (ckA 9 0xC) 4).wr (ckA 9 0x10)
     0).wr (ckA 9 0x14) 0).wr (ckA 9 0x18) 0), ten, 9, 0x10002004, by decide⟩,
   ⟨((((((((wOn.wr (ckA 9 0) 0x80000100).wr (ckA 9 4) 0x80000002).wr (ckA 9 8) 0x10001000).wr (ckA 9 0xC) 4).wr (ckA 9 0x10)
     0).wr (ckA 9 0x14) 0).wr (ckA 9 0x18) 0).wr (ckA 9 4) 0x80010002), mgr, 9, 0x10002000, (((((((((wOn.wr (ckA 9 0)
     0x80000100).wr (ckA 9 4) 0x80000002).wr (ckA 9 8) 0x10001000).wr (ckA 9 0xC) 4).wr (ckA 9 0x10) 0).wr (ckA 9 0x14)
     0).wr (ckA 9 0x18) 0).wr (ckA 9 4) 0x80010002).ckServe 9), by decide⟩,
   ⟨(((((((wOn.wr (ckA 9 0) 0x80000100).wr (ckA 9 4) 0x80000002).wr (ckA 9 8) 0x10001000).wr (ckA 9 0xC) 4).wr (ckA 9 0x10)
     0).wr (ckA 9 0x14) 0).wr (ckA 9 0x18) 0), ten, 9, by decide⟩,
   ⟨((((((((wOn.wr (ckA 9 0) 0x80000100).wr (ckA 9 4) 0x80000002).wr (ckA 9 8) 0x10001000).wr (ckA 9 0xC) 4).wr (ckA 9 0x10)
     0).wr (ckA 9 0x14) 0).wr (ckA 9 0x18) 0).wr (tnA 5 8) 2), ten, 9, by decide⟩,
   ⟨((((((((wOn.wr (ckA 9 0) 0x80000100).wr (ckA 9 4) 0x80000002).wr (ckA 9 8) 0x10001000).wr (ckA 9 0xC) 4).wr (ckA 9 0x10)
     0).wr (ckA 9 0x14) 0).wr (ckA 9 0x18) 0).wr (ckA 9 4) 2), mgr, 9, by decide⟩,
   ⟨(((((((((wOn.wr (ckA 9 0) 0x80000100).wr (ckA 9 4) 0x80000002).wr (ckA 9 8) 0x10001000).wr (ckA 9 0xC) 4).wr (ckA 9
     0x10) 0).wr (ckA 9 0x14) 0).wr (ckA 9 0x18) 0).stLE 0x10002000 16 0x41000000000000000000001122334455).setCask 9
     { waits := [⟨mgr, 0x10002000⟩, ⟨ten, 0x10003000⟩] }), 9, ⟨mgr, 0x10002000⟩, [⟨ten, 0x10003000⟩], by decide⟩⟩

/-- States and operands that meet the hypotheses of `Obligations.Casks`, part 2. -/
theorem meets_Casks_2 :
    (∃ (s : State) (n : Cask) (p : PutWait) (l : List PutWait), (s.cask n).waits = p :: l ∧ (∀ h, p.acc.who = .hart h →
      (s.hart h).await = none) ∧ (∀ h, p.acc.who ≠ .hart h) ∧ (s.ckEn n = false ∨ s.ckRoom n = false))
    ∧ (∃ (s : State) (n : Cask) (p : PutWait) (l : List PutWait), (s.cask n).waits = p :: l ∧ s.ckEn n = true ∧ s.ckRoom n =
      true ∧ s.anyBad p.src (s.ckItem n) = false ∧ s.mayWrite (s.ckOwner n) (s.ckPlace n (s.cask n).pw) (s.ckItem n) = true)
    ∧ (∃ (s : State) (n : Cask) (p : PutWait) (l : List PutWait), (s.cask n).waits = p :: l ∧ (s.ckEn n = false ∨ s.ckRoom n
      = false))
    ∧ (∃ (s : State) (a : Acc) (n : Cask) (x : DWord), Reaches s a (ckWinA n 8) ∧ s.resetting (s.tagsOf a.who).tid = false ∧
      s.ckMay (s.tagsOf a.who) n = true ∧ s.ckEn n = true ∧ copyStatus x.toNat ((s.ckItem n) + 8) = none ∧ s.mayWrite
      (s.tagsOf a.who) x.toNat ((s.ckItem n) + 8) = true ∧ s.ckConsSoft n = true ∧ s.ckAvail n ≠ 0 ∧ s.mayRead (s.ckOwner n)
      (s.ckPlace n (s.cask n).pr) (s.ckItem n) = true ∧ s.anyBad (s.ckPlace n (s.cask n).pr) (s.ckItem n) = false)
    ∧ (∃ (s : State) (a : Acc) (n : Cask) (x : DWord), Reaches s a (ckWinA n 8) ∧ s.resetting (s.tagsOf a.who).tid = false ∧
      s.ckMay (s.tagsOf a.who) n = true ∧ s.ckEn n = true ∧ copyStatus x.toNat ((s.ckItem n) + 8) = none ∧ s.mayWrite
      (s.tagsOf a.who) x.toNat ((s.ckItem n) + 8) = true ∧ s.ckConsSoft n = true ∧ s.ckAvail n = 0 ∧ s.mayRead (s.ckOwner n)
      (s.ckPlace n (s.ckDepth n)) (s.ckItem n) = true ∧ s.anyBad (s.ckPlace n (s.ckDepth n)) (s.ckItem n) = false)
    ∧ (∃ (s : State) (a : Acc) (n : Cask) (x : DWord), Reaches s a (ckWinA n 8) ∧ NoHart a ∧ s.resetting (s.tagsOf
      a.who).tid = false ∧ s.ckMay (s.tagsOf a.who) n = true ∧ s.ckEn n = true ∧ copyStatus x.toNat ((s.ckItem n) + 8) =
      none ∧ s.mayWrite (s.tagsOf a.who) x.toNat ((s.ckItem n) + 8) = true ∧ s.ckConsSoft n = true ∧ s.ckAvail n ≠ 0 ∧
      s.mayRead (s.ckOwner n) (s.ckPlace n (s.cask n).pr) (s.ckItem n) = true ∧ s.anyBad (s.ckPlace n (s.cask n).pr)
      (s.ckItem n) = true)
    ∧ (∃ (s : State) (a : Acc) (n : Cask) (x : DWord), Reaches s a (ckWinA n 8) ∧ NoHart a ∧ s.resetting (s.tagsOf
      a.who).tid = false ∧ s.ckMay (s.tagsOf a.who) n = true ∧ s.ckEn n = true ∧ copyStatus x.toNat ((s.ckItem n) + 8) =
      none ∧ s.mayWrite (s.tagsOf a.who) x.toNat ((s.ckItem n) + 8) = true ∧ s.ckConsSoft n = false)
    ∧ (∃ (s : State) (a : Acc) (n : Cask), Reaches s a (ckWinA n 0x10) ∧ s.resetting (s.tagsOf a.who).tid = false ∧ s.ckMay
      (s.tagsOf a.who) n = true ∧ s.ckEn n = true ∧ s.ckConsSoft n = true)
    ∧ (∃ (s : State) (a : Acc) (n : Cask), Reaches s a (ckWinA n 0x18) ∧ s.resetting (s.tagsOf a.who).tid = false ∧ s.ckMay
      (s.tagsOf a.who) n = true ∧ s.ckEn n = true ∧ s.ckConsSoft n = true ∧ s.ckMarked n = true)
    ∧ (∃ (s : State) (a : Acc) (n : Cask), Reaches s a (ckWinA n 0x18) ∧ NoHart a ∧ s.resetting (s.tagsOf a.who).tid = false
      ∧ s.ckMay (s.tagsOf a.who) n = true ∧ s.ckEn n = true ∧ s.ckConsSoft n = true ∧ s.ckMarked n = false) :=
  ⟨⟨((((((((wOn.wr (ckA 9 0) 0x80000100).wr (ckA 9 4) 0x80000002).wr (ckA 9 8) 0x10001000).wr (ckA 9 0xC) 4).wr (ckA 9 0x10)
    0x00040000).wr (ckA 9 0x14) 0).wr (ckA 9 0x18) 0x8000FFFF).setCask 9 { waits := [⟨mgr, 0x10002000⟩] }), 9, ⟨mgr,
    0x10002000⟩, [], by decide⟩,
   ⟨(((((((((wOn.wr (ckA 9 0) 0x80000100).wr (ckA 9 4) 0x80000002).wr (ckA 9 8) 0x10001000).wr (ckA 9 0xC) 4).wr (ckA 9
     0x10) 0).wr (ckA 9 0x14) 0).wr (ckA 9 0x18) 0).setHart 2
     { await := some { addr := ckWinA 9 0, va := 0, next := 0x10000004 } }).setCask 9
     { waits := [⟨⟨.hart 2, false⟩, 0x10002000⟩, ⟨ten, 0x10003000⟩] }), 9, ⟨⟨.hart 2, false⟩, 0x10002000⟩, [⟨ten,
     0x10003000⟩], by decide⟩,
   ⟨(((((((((wOn.wr (ckA 9 0) 0x80000100).wr (ckA 9 4) 0x80000002).wr (ckA 9 8) 0x10001000).wr (ckA 9 0xC) 4).wr (ckA 9
     0x10) 0x00040000).wr (ckA 9 0x14) 0).wr (ckA 9 0x18) 0x8000FFFF).setHart 2
     { await := some { addr := ckWinA 9 0, va := 0, next := 0x10000004 } }).setCask 9
     { waits := [⟨⟨.hart 2, false⟩, 0x10002000⟩, ⟨ten, 0x10003000⟩] }), 9, ⟨⟨.hart 2, false⟩, 0x10002000⟩, [⟨ten,
     0x10003000⟩], by decide⟩,
   ⟨((((((((wOn.wr (ckA 9 0) 0x80000100).wr (ckA 9 4) 0x80000002).wr (ckA 9 8) 0x10001000).wr (ckA 9 0xC) 4).wr (ckA 9 0x10)
     0x00020000).wr (ckA 9 0x14) 0).wr (ckA 9 0x18) 0).stLE 0x10001000 16 0x41000000000000000000001122334455), mgr, 9,
     0x10003000, by decide⟩,
   ⟨((((((((wOn.wr (ckA 9 0) 0x80000100).wr (ckA 9 4) 0x80000002).wr (ckA 9 8) 0x10001000).wr (ckA 9 0xC) 4).wr (ckA 9 0x10)
     0x00050005).wr (ckA 9 0x14) 5).wr (ckA 9 0x18) 0).stLE 0x10001040 16 0x41000000000000000000001122334455), mgr, 9,
     0x10003000, by decide⟩,
   ⟨({ ((((((wOn.wr (ckA 9 0) 0x80000100).wr (ckA 9 4) 0x80000002).wr (ckA 9 8) 0x10001000).wr (ckA 9 0xC) 4).wr (ckA 9 0x10) 0x00020000).wr (ckA 9 0x14) 0).wr (ckA 9 0x18) 0 with eccBad := [0x10001008] }),
     mgr, 9, 0x10003000, by decide⟩,
   ⟨((((((((wOn.wr (ckA 9 0) 0x80000100).wr (ckA 9 4) 0x80000002).wr (ckA 9 8) 0x10001000).wr (ckA 9 0xC) 4).wr (ckA 9 0x10)
     0).wr (ckA 9 0x14) 0).wr (ckA 9 0x18) 0).wr (ckA 9 4) 0x80100002), mgr, 9, 0x10002000, by decide⟩,
   ⟨((((((((wOn.wr (ckA 9 0) 0x80000100).wr (ckA 9 4) 0x80000002).wr (ckA 9 8) 0x10001000).wr (ckA 9 0xC) 4).wr (ckA 9 0x10)
     0x00040002).wr (ckA 9 0x14) 1).wr (ckA 9 0x18) 0).setCask 9 { pr := 2 }), mgr, 9, by decide⟩,
   ⟨((((((((wOn.wr (ckA 9 0) 0x80000100).wr (ckA 9 4) 0x80000002).wr (ckA 9 8) 0x10001000).wr (ckA 9 0xC) 4).wr (ckA 9 0x10)
     0x00040003).wr (ckA 9 0x14) 0x00010000).wr (ckA 9 0x18) 0x80000000).setCask 9 { pr := 3, pm := 1 }), mgr, 9,
     by decide⟩,
   ⟨(((((((wOn.wr (ckA 9 0) 0x80000100).wr (ckA 9 4) 0x80000002).wr (ckA 9 8) 0x10001000).wr (ckA 9 0xC) 4).wr (ckA 9 0x10)
     0x00040003).wr (ckA 9 0x14) 0).wr (ckA 9 0x18) 0), mgr, 9, by decide⟩⟩

/-- States and operands that meet the hypotheses of `Obligations.Casks`, part 3. -/
theorem meets_Casks_3 :
    (∃ (s : State) (a : Acc) (n : Cask) (x : DWord), Reaches s a (ckWinA n 0x20) ∧ s.resetting (s.tagsOf a.who).tid = false
      ∧ s.ckMay (s.tagsOf a.who) n = true ∧ s.ckEn n = true ∧ s.ckConsSoft n = true ∧ x.toNat ≤ sub16 (s.ckRd n) (s.ckRel
      n))
    ∧ (∃ (s : State) (a : Acc) (n : Cask) (x : DWord), Reaches s a (ckWinA n 0x20) ∧ NoHart a ∧ s.resetting (s.tagsOf
      a.who).tid = false ∧ s.ckMay (s.tagsOf a.who) n = true ∧ s.ckEn n = true ∧ sub16 (s.ckRd n) (s.ckRel n) < x.toNat)
    ∧ (∃ (s : State) (a : Acc) (n : Cask), Reaches s a (ckWinA n 0x28) ∧ s.resetting (s.tagsOf a.who).tid = false ∧ s.ckMay
      (s.tagsOf a.who) n = true)
    ∧ (∃ (s : State) (a : Acc) (n : Cask) (r : Fin 3) (v : Word), Reaches s a (ckA n (4 + r * 4)) ∧ s.ckMay (s.tagsOf a.who)
      n = true ∧ r.val = 0 ∧ fld v 23 20 < 7 ∧ fld v 19 16 < 7 ∧ 1 ≤ fld v 8 0 ∧ fld v 8 0 ≤ 264 ∧ ringFits (fld v 8 0 * 8)
      (s.ckDepth n) (s.rd (ckA n 8)).toNat = true ∧ s.ckWr n = s.ckRel n ∧ (bit v 31 = true → ownHeld (s.rd (ckA n 0)) =
      true))
    ∧ (∃ (s : State) (a : Acc) (n : Cask) (r : Fin 3) (v : Word), Reaches s a (ckA n (4 + r * 4)) ∧ s.ckMay (s.tagsOf a.who)
      n = true ∧ r.val = 1 ∧ ringFits (s.ckItem n) (s.ckDepth n) (fld v 31 3 * 8) = true ∧ s.ckWr n = s.ckRel n)
    ∧ (∃ (s : State) (a : Acc) (n : Cask) (r : Fin 3) (v : Word), Reaches s a (ckA n (4 + r * 4)) ∧ s.ckMay (s.tagsOf a.who)
      n = true ∧ r.val = 2 ∧ 1 ≤ fld v 15 0 ∧ fld v 15 0 ≤ 32768 ∧ ringFits (s.ckItem n) (fld v 15 0) (s.rd (ckA n 8)).toNat
      = true ∧ s.ckWr n = s.ckRel n)
    ∧ (∃ (s : State) (a : Acc) (n : Cask) (r : Fin 3) (v : Word), Reaches s a (ckA n (4 + r * 4)) ∧ s.ckMay (s.tagsOf a.who)
      n = true ∧ NoHart a ∧ (r.val = 0 ∧ ¬ (fld v 23 20 < 7 ∧ fld v 19 16 < 7 ∧ 1 ≤ fld v 8 0 ∧ fld v 8 0 ≤ 264) ∨ r.val = 2
      ∧ (fld v 15 0 = 0 ∨ 32768 < fld v 15 0) ∨ r.val = 1 ∧ ringFits (s.ckItem n) (s.ckDepth n) (fld v 31 3 * 8) = false))
    ∧ (∃ (s : State) (a : Acc) (n : Cask) (r : Fin 3) (v : Word), Reaches s a (ckA n (4 + r * 4)) ∧ s.ckMay (s.tagsOf a.who)
      n = true ∧ NoHart a ∧ s.ckWr n ≠ s.ckRel n ∧ (r.val = 0 ∧ fld v 23 20 < 7 ∧ fld v 19 16 < 7 ∧ 1 ≤ fld v 8 0 ∧ fld v 8
      0 ≤ 264 ∧ ringFits (fld v 8 0 * 8) (s.ckDepth n) (s.rd (ckA n 8)).toNat = true ∨ r.val = 1 ∧ ringFits (s.ckItem n)
      (s.ckDepth n) (fld v 31 3 * 8) = true ∨ r.val = 2 ∧ 1 ≤ fld v 15 0 ∧ fld v 15 0 ≤ 32768 ∧ ringFits (s.ckItem n) (fld v
      15 0) (s.rd (ckA n 8)).toNat = true))
    ∧ (∃ (s : State) (a : Acc) (n : Cask), Reaches s a (ckA n 0x1C) ∧ s.ckMay (s.tagsOf a.who) n = true) :=
  ⟨⟨(((((((wOn.wr (ckA 9 0) 0x80000100).wr (ckA 9 4) 0x80000002).wr (ckA 9 8) 0x10001000).wr (ckA 9 0xC) 4).wr (ckA 9 0x10)
    0x00040003).wr (ckA 9 0x14) 0x00020000).wr (ckA 9 0x18) 0x80000000), mgr, 9, 2, by decide⟩,
   ⟨(((((((wOn.wr (ckA 9 0) 0x80000100).wr (ckA 9 4) 0x80000002).wr (ckA 9 8) 0x10001000).wr (ckA 9 0xC) 4).wr (ckA 9 0x10)
     0x00040003).wr (ckA 9 0x14) 0).wr (ckA 9 0x18) 0), mgr, 9, 4, by decide⟩,
   ⟨((((((((wOn.wr (ckA 9 0) 0x80000100).wr (ckA 9 4) 0x80000002).wr (ckA 9 8) 0x10001000).wr (ckA 9 0xC) 4).wr (ckA 9 0x10)
     0x00010003).wr (ckA 9 0x14) 0xFFFF).wr (ckA 9 0x18) 0x80000000).wr (ckA 9 4) 2), mgr, 9, by decide⟩,
   ⟨((((((((wOn.wr (ckA 9 0) 0x80000100).wr (ckA 9 4) 0x80000002).wr (ckA 9 8) 0x10001000).wr (ckA 9 0xC) 4).wr (ckA 9 0x10)
     0x00060005).wr (ckA 9 0x14) 6).wr (ckA 9 0x18) 0x80000007).setCask 9 { pw := 2, pr := 1, waits := [⟨mgr, 4⟩] }), mgr,
     9, 0, 0x80660108, by decide⟩,
   ⟨((((((((wOn.wr (ckA 9 0) 0x80000100).wr (ckA 9 4) 0x80000002).wr (ckA 9 8) 0x10001000).wr (ckA 9 0xC) 4).wr (ckA 9 0x10)
     0x00060005).wr (ckA 9 0x14) 6).wr (ckA 9 0x18) 0x80000007).setCask 9 { pw := 2, pr := 1 }), mgr, 9, 1, 0x11FFFFB5,
     by decide⟩,
   ⟨(((((((wOn.wr (ckA 9 0) 0x80000100).wr (ckA 9 4) 0x80000002).wr (ckA 9 8) 0x10001000).wr (ckA 9 0xC) 4).wr (ckA 9 0x10)
     0x00060005).wr (ckA 9 0x14) 6).wr (ckA 9 0x18) 0x80000007), mgr, 9, 2, 32768, by decide⟩,
   ⟨(((((((wOn.wr (ckA 9 0) 0x80000100).wr (ckA 9 4) 0x80000002).wr (ckA 9 8) 0x10001000).wr (ckA 9 0xC) 4).wr (ckA 9 0x10)
     0).wr (ckA 9 0x14) 0).wr (ckA 9 0x18) 0), mgr, 9, 0, 0x700002, by decide⟩,
   ⟨(((((((wOn.wr (ckA 9 0) 0x80000100).wr (ckA 9 4) 0x80000002).wr (ckA 9 8) 0x10001000).wr (ckA 9 0xC) 4).wr (ckA 9 0x10)
     0x10000).wr (ckA 9 0x14) 0).wr (ckA 9 0x18) 0), mgr, 9, 0, 1, by decide⟩,
   ⟨((((((((wOn.wr (ckA 9 0) 0x80000100).wr (ckA 9 4) 0x80000002).wr (ckA 9 8) 0x10001000).wr (ckA 9 0xC) 4).wr (ckA 9 0x10)
     0x00060005).wr (ckA 9 0x14) 3).wr (ckA 9 0x18) 0x80000007).setCask 9 { pw := 2, pr := 1 }), mgr, 9, by decide⟩⟩

/-- States and operands that meet the hypotheses of `Obligations.Bridges`, part 1. -/
theorem meets_Bridges_1 :
    (∃ (s : State) (a : Acc) (c : Fin 4) (k : Fin 16) (addr : Addr) (n : Fin 9) (q : State), s.logicOn = true ∧ bridgeOf
      addr.toNat = some c.val ∧ s.brUp c = true ∧ s.winAt c (addr.toNat - brRegion c) = some k.val ∧ (c.val < 3 ∧ (n.val = 4
      ∨ n.val = 8) ∨ c = 3 ∧ (n.val = 1 ∨ n.val = 2 ∨ n.val = 4 ∨ n.val = 8) ∧ a.tagFail = false) ∧ (addr.toNat - brRegion
      c) % n.val = 0 ∧ q = (s.dropAtOff c (addr.toNat - brRegion c) n).spoilLines c (addr.toNat - brRegion c) n ∧ BrSent
      (s.bridge c).txs ∧ s.inflight c < 64 ∧ s.rb (winA c k 0) 30 = true ∧ s.rb (winA c k 0) 28 = false ∧ (∀ h, a.who =
      .hart h → (s.hart h).await = none) ∧ c ≠ 3)
    ∧ (∃ (s : State) (a : Acc) (c : Fin 4) (k : Fin 16) (addr : Addr) (n : Fin 9) (q : State), s.logicOn = true ∧ bridgeOf
      addr.toNat = some c.val ∧ s.brUp c = true ∧ s.winAt c (addr.toNat - brRegion c) = some k.val ∧ (c.val < 3 ∧ (n.val = 4
      ∨ n.val = 8) ∨ c = 3 ∧ (n.val = 1 ∨ n.val = 2 ∨ n.val = 4 ∨ n.val = 8) ∧ a.tagFail = false) ∧ (addr.toNat - brRegion
      c) % n.val = 0 ∧ q = (s.dropAtOff c (addr.toNat - brRegion c) n).spoilLines c (addr.toNat - brRegion c) n ∧ BrSent
      (s.bridge c).txs ∧ s.inflight c < 64 ∧ s.rb (winA c k 0) 30 = true ∧ s.rb (winA c k 0) 28 = false ∧ (∀ h, a.who =
      .hart h → (s.hart h).await = none) ∧ c = 3)
    ∧ (∃ (s : State) (a : Acc) (c : Fin 4) (k : Fin 16) (addr : Addr) (n : Fin 9) (q : State), s.logicOn = true ∧ bridgeOf
      addr.toNat = some c.val ∧ s.brUp c = true ∧ s.winAt c (addr.toNat - brRegion c) = some k.val ∧ (c.val < 3 ∧ (n.val = 4
      ∨ n.val = 8) ∨ c = 3 ∧ (n.val = 1 ∨ n.val = 2 ∨ n.val = 4 ∨ n.val = 8) ∧ a.tagFail = false) ∧ (addr.toNat - brRegion
      c) % n.val = 0 ∧ q = (s.dropAtOff c (addr.toNat - brRegion c) n).spoilLines c (addr.toNat - brRegion c) n ∧ BrSent
      (s.bridge c).txs ∧ 64 ≤ s.inflight c)
    ∧ (∃ (s : State) (a : Acc) (c : Fin 4) (k : Fin 16) (addr : Addr) (n : Fin 9) (wr : Bool) (v : DWord) (q : State),
      s.logicOn = true ∧ bridgeOf addr.toNat = some c.val ∧ s.brUp c = true ∧ s.winAt c (addr.toNat - brRegion c) = some
      k.val ∧ (c.val < 3 ∧ (n.val = 4 ∨ n.val = 8) ∨ c = 3 ∧ (n.val = 1 ∨ n.val = 2 ∨ n.val = 4 ∨ n.val = 8) ∧ a.tagFail =
      false) ∧ (addr.toNat - brRegion c) % n.val = 0 ∧ q = (if wr then (s.dropAtOff c (addr.toNat - brRegion c)
      n).spoilLines c (addr.toNat - brRegion c) n else s) ∧ BrSent (s.bridge c).txs ∧ s.inflight c < 64 ∧ (∀ y ∈ (s.bridge
      c).txs, y.posted = true → y.dead = true ∨ y.win ≠ k) ∧ s.rb (winA c k 0) 28 = false ∧ (wr = true → s.rb (winA c k 0)
      30 = false) ∧ (wr = true ∨ s.rb (winA c k 0) 29 = false ∨ a.tagFail = true ∨ s.lineHit c
      { tag := s.brTag c, acc := a, tid := (s.tagsOf a.who).tid, w := (s.tagsOf a.who).w, off := (addr.toNat - brRegion c), bytes := n, op := .read, data := v, win := k, placed := true }
      = none) ∧ c ≠ 3)
    ∧ (∃ (s : State) (a : Acc) (c : Fin 4) (k : Fin 16) (addr : Addr) (n : Fin 9) (wr : Bool) (v : DWord) (q : State),
      s.logicOn = true ∧ bridgeOf addr.toNat = some c.val ∧ s.brUp c = true ∧ s.winAt c (addr.toNat - brRegion c) = some
      k.val ∧ (c.val < 3 ∧ (n.val = 4 ∨ n.val = 8) ∨ c = 3 ∧ (n.val = 1 ∨ n.val = 2 ∨ n.val = 4 ∨ n.val = 8) ∧ a.tagFail =
      false) ∧ (addr.toNat - brRegion c) % n.val = 0 ∧ q = (if wr then (s.dropAtOff c (addr.toNat - brRegion c)
      n).spoilLines c (addr.toNat - brRegion c) n else s) ∧ BrSent (s.bridge c).txs ∧ s.inflight c < 64 ∧ (∀ y ∈ (s.bridge
      c).txs, y.posted = true → y.dead = true ∨ y.win ≠ k) ∧ s.rb (winA c k 0) 28 = false ∧ (wr = true → s.rb (winA c k 0)
      30 = false) ∧ (wr = true ∨ s.rb (winA c k 0) 29 = false ∨ a.tagFail = true ∨ s.lineHit c
      { tag := s.brTag c, acc := a, tid := (s.tagsOf a.who).tid, w := (s.tagsOf a.who).w, off := (addr.toNat - brRegion c), bytes := n, op := .read, data := v, win := k, placed := true }
      = none) ∧ c = 3)
    ∧ (∃ (s : State) (a : Acc) (c : Fin 4) (k : Fin 16) (addr : Addr) (n : Fin 9) (wr : Bool) (q : State), s.logicOn = true
      ∧ bridgeOf addr.toNat = some c.val ∧ s.brUp c = true ∧ s.winAt c (addr.toNat - brRegion c) = some k.val ∧ (c.val < 3 ∧
      (n.val = 4 ∨ n.val = 8) ∨ c = 3 ∧ (n.val = 1 ∨ n.val = 2 ∨ n.val = 4 ∨ n.val = 8) ∧ a.tagFail = false) ∧ (addr.toNat -
      brRegion c) % n.val = 0 ∧ q = (if wr then (s.dropAtOff c (addr.toNat - brRegion c) n).spoilLines c (addr.toNat -
      brRegion c) n else s) ∧ BrSent (s.bridge c).txs ∧ 64 ≤ s.inflight c)
    ∧ (∃ (s : State) (a : Acc) (c : Fin 4) (k : Fin 16) (addr : Addr) (n : Fin 9) (wr : Bool) (q : State), s.logicOn = true
      ∧ bridgeOf addr.toNat = some c.val ∧ s.brUp c = true ∧ s.winAt c (addr.toNat - brRegion c) = some k.val ∧ (c.val < 3 ∧
      (n.val = 4 ∨ n.val = 8) ∨ c = 3 ∧ (n.val = 1 ∨ n.val = 2 ∨ n.val = 4 ∨ n.val = 8) ∧ a.tagFail = false) ∧ (addr.toNat -
      brRegion c) % n.val = 0 ∧ q = (if wr then (s.dropAtOff c (addr.toNat - brRegion c) n).spoilLines c (addr.toNat -
      brRegion c) n else s) ∧ BrSent (s.bridge c).txs ∧ s.inflight c < 64 ∧ (∃ y ∈ (s.bridge c).txs, y.posted = true ∧
      y.dead = false ∧ y.win = k ∧ y.tag ≠ s.brTag c) ∧ (wr = true → s.rb (winA c k 0) 30 = false))
    ∧ (∃ (s : State) (a : Acc) (c : Fin 4) (k : Fin 16) (addr : Addr) (n : Fin 9) (wr : Bool) (q : State), s.logicOn = true
      ∧ bridgeOf addr.toNat = some c.val ∧ s.brUp c = true ∧ s.winAt c (addr.toNat - brRegion c) = some k.val ∧ (c.val < 3 ∧
      (n.val = 4 ∨ n.val = 8) ∨ c = 3 ∧ (n.val = 1 ∨ n.val = 2 ∨ n.val = 4 ∨ n.val = 8) ∧ a.tagFail = false) ∧ (addr.toNat -
      brRegion c) % n.val = 0 ∧ q = (if wr then (s.dropAtOff c (addr.toNat - brRegion c) n).spoilLines c (addr.toNat -
      brRegion c) n else s) ∧ BrSent (s.bridge c).txs ∧ s.inflight c < 64 ∧ (∀ y ∈ (s.bridge c).txs, y.posted = true →
      y.dead = true ∨ y.win ≠ k) ∧ NoHart a ∧ s.rb (winA c k 0) 28 = true)
    ∧ (∃ (s : State) (a : Acc) (c : Fin 4) (addr : Addr), s.logicOn = true ∧ bridgeOf addr.toNat = some c.val ∧ NoHart a ∧
      s.brUp c = false)
    ∧ (∃ (s : State) (a : Acc) (c : Fin 4) (addr : Addr), s.logicOn = true ∧ bridgeOf addr.toNat = some c.val ∧ NoHart a ∧
      s.brUp c = true ∧ c = 3 ∧ a.tagFail = false ∧ s.winAt c (addr.toNat - brRegion c) = none) :=
  ⟨⟨(((wLink.wr (winA 1 3 4) 0x100).wr (winA 1 3 0) 0xC0000003).setBridge 1 { nextTag := 9 }), mgr, 1, 3, 0x81010044, 4,
    (State.spoilLines (State.dropAtOff (((wLink.wr (winA 1 3 4) 0x100).wr (winA 1 3 0) 0xC0000003).setBridge 1
    { nextTag := 9 }) 1 (BitVec.toNat (0x81010044 : Addr) - brRegion 1) 4) 1 (BitVec.toNat (0x81010044 : Addr) - brRegion 1)
    4), by decide⟩,
   ⟨{ (((((wOn.setBridge 3 { pairUp := true }).wr (winA 3 3 4) 2).wr (winA 3 3 0) 0xC0000003).wr (winA 3 3 0xC) 0x40)) with esw := {} },
     mgr, 3, 3, 0x100020001, 1, (State.spoilLines (State.dropAtOff
     { (((((wOn.setBridge 3 { pairUp := true }).wr (winA 3 3 4) 2).wr (winA 3 3 0) 0xC0000003).wr (winA 3 3 0xC) 0x40)) with esw := {} }
     3 (BitVec.toNat (0x100020001 : Addr) - brRegion 3) 1) 3 (BitVec.toNat (0x100020001 : Addr) - brRegion 3) 1),
     by decide⟩,
   ⟨(((((wLink.wr (winA 1 3 4) 0x100).wr (winA 1 3 0) 0xC0000003).setBridge 1 { nextTag := 9 })).setBridge 1
     { nextTag := 9, txs := List.replicate 64 { tag := 7, acc := mgr, tid := 0, w := true, off := 0x30, bytes := 4, op := .read, win := 3, placed := true, posted := false, phase := .sent } }),
     mgr, 1, 3, 0x81010044, 4, (State.spoilLines (State.dropAtOff (((((wLink.wr (winA 1 3 4) 0x100).wr (winA 1 3 0)
     0xC0000003).setBridge 1 { nextTag := 9 })).setBridge 1
     { nextTag := 9, txs := List.replicate 64 { tag := 7, acc := mgr, tid := 0, w := true, off := 0x30, bytes := 4, op := .read, win := 3, placed := true, posted := false, phase := .sent } })
     1 (BitVec.toNat (0x81010044 : Addr) - brRegion 1) 4) 1 (BitVec.toNat (0x81010044 : Addr) - brRegion 1) 4), by decide⟩,
   ⟨(((wLink.wr (winA 1 3 4) 0x100).wr (winA 1 3 0) 0xC0000003).setBridge 1 { nextTag := 9 }), mgr, 1, 3, 0x81010044, 4,
     false, 0, (((wLink.wr (winA 1 3 4) 0x100).wr (winA 1 3 0) 0xC0000003).setBridge 1 { nextTag := 9 }), by decide⟩,
   ⟨{ (((((wOn.setBridge 3 { pairUp := true }).wr (winA 3 3 4) 2).wr (winA 3 3 0) 0x80000003).wr (winA 3 3 0xC) 0x40)) with esw := {} },
     mgr, 3, 3, 0x100020002, 2, false, 0,
     { (((((wOn.setBridge 3 { pairUp := true }).wr (winA 3 3 4) 2).wr (winA 3 3 0) 0x80000003).wr (winA 3 3 0xC) 0x40)) with esw := {} },
     by decide⟩,
   ⟨(((((wLink.wr (winA 1 3 4) 0x100).wr (winA 1 3 0) 0xC0000003).setBridge 1 { nextTag := 9 })).setBridge 1
     { nextTag := 9, txs := List.replicate 64 { tag := 7, acc := mgr, tid := 0, w := true, off := 0x30, bytes := 4, op := .read, win := 3, placed := true, posted := false, phase := .sent } }),
     mgr, 1, 3, 0x81010044, 4, false, (((((wLink.wr (winA 1 3 4) 0x100).wr (winA 1 3 0) 0xC0000003).setBridge 1
     { nextTag := 9 })).setBridge 1
     { nextTag := 9, txs := List.replicate 64 { tag := 7, acc := mgr, tid := 0, w := true, off := 0x30, bytes := 4, op := .read, win := 3, placed := true, posted := false, phase := .sent } }),
     by decide⟩,
   ⟨(((((wLink.wr (winA 1 3 4) 0x100).wr (winA 1 3 0) 0x80000003).setBridge 1 { nextTag := 9 })).setBridge 1
     { nextTag := 9, txs := [{ tag := 7, acc := mgr, tid := 0, w := true, off := 0x30, bytes := 4, op := .line, win := 3, placed := true, posted := false, phase := .sent }, { tag := 7, acc := mgr, tid := 0, w := true, off := 0x30, bytes := 4, op := .write, win := 3, placed := true, posted := true, phase := .sent }], lines := [{ uid := 4, base := 0x10040, tid := 0, w := true, win := 3, words := List.replicate 16 (some 0x77) }] }),
     mgr, 1, 3, 0x81010044, 4, false, (((((wLink.wr (winA 1 3 4) 0x100).wr (winA 1 3 0) 0x80000003).setBridge 1
     { nextTag := 9 })).setBridge 1
     { nextTag := 9, txs := [{ tag := 7, acc := mgr, tid := 0, w := true, off := 0x30, bytes := 4, op := .line, win := 3, placed := true, posted := false, phase := .sent }, { tag := 7, acc := mgr, tid := 0, w := true, off := 0x30, bytes := 4, op := .write, win := 3, placed := true, posted := true, phase := .sent }], lines := [{ uid := 4, base := 0x10040, tid := 0, w := true, win := 3, words := List.replicate 16 (some 0x77) }] }),
     by decide⟩,
   ⟨(((wLink.wr (winA 1 3 4) 0x100).wr (winA 1 3 0) 0x90000003).setBridge 1 { nextTag := 9 }), mgr, 1, 3, 0x81010044, 4,
     false, (((wLink.wr (winA 1 3 4) 0x100).wr (winA 1 3 0) 0x90000003).setBridge 1 { nextTag := 9 }), by decide⟩,
   ⟨wOn, mgr, 1, 0x81010044, by decide⟩,
   ⟨(wOn.setBridge 3 { pairUp := true }), mgr, 3, 0x100000000, by decide⟩⟩

/-- States and operands that meet the hypotheses of `Obligations.Bridges`, part 2. -/
theorem meets_Bridges_2 :
    (∃ (s : State) (a : Acc) (c : Fin 4) (addr : Addr) (n : Fin 9) (wr : Bool), s.logicOn = true ∧ bridgeOf addr.toNat =
      some c.val ∧ NoHart a ∧ s.brUp c = true ∧ c ≠ 3 ∧ a.tagFail = false ∧ s.tagsOf a.who = ⟨0, true⟩ ∧ (n.val = 1 ∨ n.val
      = 2 ∨ n.val ≠ 0 ∧ (addr.toNat - brRegion c) % n.val ≠ 0) ∧ wr = false ∧ (addr.toNat - brRegion c) / 4 * 4 < 0x1000)
    ∧ (∃ (s : State) (a : Acc) (c : Fin 4) (k : Fin 16) (addr : Addr) (n : Fin 9) (u : Word) (l : BrLine), s.logicOn = true
      ∧ bridgeOf addr.toNat = some c.val ∧ s.brUp c = true ∧ s.winAt c (addr.toNat - brRegion c) = some k.val ∧ (c.val < 3 ∧
      (n.val = 4 ∨ n.val = 8) ∨ c = 3 ∧ (n.val = 1 ∨ n.val = 2 ∨ n.val = 4 ∨ n.val = 8) ∧ a.tagFail = false) ∧ (addr.toNat -
      brRegion c) % n.val = 0 ∧ BrSent (s.bridge c).txs ∧ s.inflight c < 64 ∧ (∀ y ∈ (s.bridge c).txs, y.posted = true →
      y.dead = true ∨ y.win ≠ k) ∧ (s.bridge c).lines = [l] ∧ l.base ≤ (addr.toNat - brRegion c) ∧ (addr.toNat - brRegion c)
      < l.base + 64 ∧ l.tid = (s.tagsOf a.who).tid ∧ l.w = (s.tagsOf a.who).w ∧ l.win = k ∧ l.words.getD (((addr.toNat -
      brRegion c) - l.base) / 4) none = some u ∧ n.val = 4 ∧ l.base % 4 = 0 ∧ s.rb (winA c k 0) 28 = false ∧ s.rb (winA c k
      0) 29 = true ∧ a.tagFail = false ∧ (∀ h, a.who = .hart h → (s.hart h).await = none))
    ∧ (∃ (s : State) (a : Acc) (c : Fin 4) (k : Fin 16) (addr : Addr) (n : Fin 9) (q : State), s.logicOn = true ∧ bridgeOf
      addr.toNat = some c.val ∧ s.brUp c = true ∧ s.winAt c (addr.toNat - brRegion c) = some k.val ∧ (c.val < 3 ∧ (n.val = 4
      ∨ n.val = 8) ∨ c = 3 ∧ (n.val = 1 ∨ n.val = 2 ∨ n.val = 4 ∨ n.val = 8) ∧ a.tagFail = false) ∧ (addr.toNat - brRegion
      c) % n.val = 0 ∧ q = (s.dropAtOff c (addr.toNat - brRegion c) n).spoilLines c (addr.toNat - brRegion c) n)
    ∧ (∃ (s : State) (c : Fin 4) (k : Fin 16) (addr : Addr) (q : State), s.logicOn = true ∧ bridgeOf addr.toNat = some c.val
      ∧ s.brUp c = true ∧ c ≠ 3 ∧ inSide c (addr.toNat - brRegion c) = false ∧ s.winAt c (addr.toNat - brRegion c) = some
      k.val ∧ (addr.toNat - brRegion c) % 4 = 0 ∧ q = s ∧ BrSent (s.bridge c).txs ∧ s.inflight c < 64 ∧ (∀ y ∈ (s.bridge
      c).txs, y.posted = true → y.dead = true ∨ y.win ≠ k) ∧ s.rb (winA c k 0) 28 = false)
    ∧ (∃ (s : State) (c : Fin 4) (k : Fin 16) (addr : Addr) (q : State), s.logicOn = true ∧ bridgeOf addr.toNat = some c.val
      ∧ s.brUp c = true ∧ c ≠ 3 ∧ inSide c (addr.toNat - brRegion c) = false ∧ s.winAt c (addr.toNat - brRegion c) = some
      k.val ∧ (addr.toNat - brRegion c) % 4 = 0 ∧ q = s)
    ∧ (∃ (s : State) (c : Fin 4) (k : Fin 16) (addr : Addr) (q : State), s.logicOn = true ∧ bridgeOf addr.toNat = some c.val
      ∧ s.brUp c = true ∧ c ≠ 3 ∧ inSide c (addr.toNat - brRegion c) = false ∧ s.winAt c (addr.toNat - brRegion c) = some
      k.val ∧ (addr.toNat - brRegion c) % 4 = 0 ∧ q = (s.dropAtOff c (addr.toNat - brRegion c) 4).spoilLines c (addr.toNat -
      brRegion c) 4 ∧ BrSent (s.bridge c).txs ∧ s.inflight c < 64 ∧ (∀ y ∈ (s.bridge c).txs, y.posted = true → y.dead = true
      ∨ y.win ≠ k) ∧ s.rb (winA c k 0) 28 = false)
    ∧ (∃ (s : State) (c : Fin 4) (k : Fin 16) (addr : Addr) (q : State), s.logicOn = true ∧ bridgeOf addr.toNat = some c.val
      ∧ s.brUp c = true ∧ c ≠ 3 ∧ inSide c (addr.toNat - brRegion c) = false ∧ s.winAt c (addr.toNat - brRegion c) = some
      k.val ∧ (addr.toNat - brRegion c) % 4 = 0 ∧ q = (s.dropAtOff c (addr.toNat - brRegion c) 4).spoilLines c (addr.toNat -
      brRegion c) 4)
    ∧ (∃ (s : State) (c : Fin 4) (k : Fin 16) (addr : Addr) (q : State), s.logicOn = true ∧ bridgeOf addr.toNat = some c.val
      ∧ s.brUp c = true ∧ c ≠ 3 ∧ inSide c (addr.toNat - brRegion c) = false ∧ s.winAt c (addr.toNat - brRegion c) = some
      k.val ∧ (addr.toNat - brRegion c) % 4 = 0 ∧ q = (s.dropAtOff c (addr.toNat - brRegion c) 4).spoilLines c (addr.toNat -
      brRegion c) 4 ∧ BrSent (s.bridge c).txs ∧ s.inflight c < 64 ∧ (∀ y ∈ (s.bridge c).txs, y.posted = true → y.dead = true
      ∨ y.win ≠ k) ∧ s.rb (winA c k 0) 28 = false)
    ∧ (∃ (s : State) (c : Fin 4) (k : Fin 16) (addr : Addr) (q : State), s.logicOn = true ∧ bridgeOf addr.toNat = some c.val
      ∧ s.brUp c = true ∧ c ≠ 3 ∧ inSide c (addr.toNat - brRegion c) = false ∧ s.winAt c (addr.toNat - brRegion c) = some
      k.val ∧ (addr.toNat - brRegion c) % 4 = 0 ∧ q = (s.dropAtOff c (addr.toNat - brRegion c) 4).spoilLines c (addr.toNat -
      brRegion c) 4)
    ∧ (∃ (s : State) (a : Acc) (c : Fin 4) (k : Fin 16) (addr : Addr), s.logicOn = true ∧ bridgeOf addr.toNat = some c.val ∧
      s.brUp c = true ∧ c ≠ 3 ∧ inSide c (addr.toNat - brRegion c) = false ∧ s.winAt c (addr.toNat - brRegion c) = some
      k.val ∧ (addr.toNat - brRegion c) % 4 = 0 ∧ NoHart a ∧ a.tagFail = false ∧ s.tagsOf a.who = ⟨0, true⟩ ∧ (addr.toNat -
      brRegion c) < 0x1000 ∧ ((addr.toNat - brRegion c) < 0x10 ∨ 0x14 < (addr.toNat - brRegion c)) ∧ (addr.toNat - brRegion
      c) ≠ 4 ∧ (addr.toNat - brRegion c) ≠ 0x100 ∧ c.val < 2) :=
  ⟨⟨wLink, mgr, 1, 0x81000024, 8, false, by decide⟩,
   ⟨(((((wLink.wr (winA 1 3 4) 0x100).wr (winA 1 3 0) 0xA0000003).setBridge 1 { nextTag := 9 })).setBridge 1
     { lines := [{ uid := 4, base := 0x10040, tid := 0, w := true, win := 3, words := List.replicate 16 (some 0x77) }] }),
     mgr, 1, 3, 0x81010044, 4, 0x77,
     ({ uid := 4, base := 0x10040, tid := 0, w := true, win := 3, words := List.replicate 16 (some 0x77) }), by decide⟩,
   ⟨(((((wLink.wr (winA 1 3 4) 0x100).wr (winA 1 3 0) 0xA0000003).setBridge 1 { nextTag := 9 })).setBridge 1
     { nextTag := 9, txs := [{ tag := 7, acc := mgr, tid := 0, w := true, off := 0x30, bytes := 4, op := .line, win := 3, placed := true, posted := false, phase := .sent }, { tag := 7, acc := mgr, tid := 0, w := true, off := 0x30, bytes := 4, op := .write, win := 3, placed := true, posted := true, phase := .sent }], lines := [{ uid := 4, base := 0x10040, tid := 0, w := true, win := 3, words := List.replicate 16 (some 0x77) }] }),
     mgr, 1, 3, 0x81010044, 4, (State.spoilLines (State.dropAtOff (((((wLink.wr (winA 1 3 4) 0x100).wr (winA 1 3 0)
     0xA0000003).setBridge 1 { nextTag := 9 })).setBridge 1
     { nextTag := 9, txs := [{ tag := 7, acc := mgr, tid := 0, w := true, off := 0x30, bytes := 4, op := .line, win := 3, placed := true, posted := false, phase := .sent }, { tag := 7, acc := mgr, tid := 0, w := true, off := 0x30, bytes := 4, op := .write, win := 3, placed := true, posted := true, phase := .sent }], lines := [{ uid := 4, base := 0x10040, tid := 0, w := true, win := 3, words := List.replicate 16 (some 0x77) }] })
     1 (BitVec.toNat (0x81010044 : Addr) - brRegion 1) 4) 1 (BitVec.toNat (0x81010044 : Addr) - brRegion 1) 4), by decide⟩,
   ⟨(((wLink.wr (winA 1 3 4) 0x100).wr (winA 1 3 0) 0xE0000003).setBridge 1 { nextTag := 9 }), 1, 3, 0x81010044, (((wLink.wr
     (winA 1 3 4) 0x100).wr (winA 1 3 0) 0xE0000003).setBridge 1 { nextTag := 9 }), by decide⟩,
   ⟨(((((wLink.wr (winA 1 3 4) 0x100).wr (winA 1 3 0) 0xE0000003).setBridge 1 { nextTag := 9 })).setBridge 1
     { nextTag := 9, txs := [{ tag := 7, acc := mgr, tid := 0, w := true, off := 0x30, bytes := 4, op := .line, win := 3, placed := true, posted := false, phase := .sent }, { tag := 7, acc := mgr, tid := 0, w := true, off := 0x30, bytes := 4, op := .write, win := 3, placed := true, posted := true, phase := .sent }], lines := [{ uid := 4, base := 0x10040, tid := 0, w := true, win := 3, words := List.replicate 16 (some 0x77) }] }),
     1, 3, 0x81010044, (((((wLink.wr (winA 1 3 4) 0x100).wr (winA 1 3 0) 0xE0000003).setBridge 1
     { nextTag := 9 })).setBridge 1
     { nextTag := 9, txs := [{ tag := 7, acc := mgr, tid := 0, w := true, off := 0x30, bytes := 4, op := .line, win := 3, placed := true, posted := false, phase := .sent }, { tag := 7, acc := mgr, tid := 0, w := true, off := 0x30, bytes := 4, op := .write, win := 3, placed := true, posted := true, phase := .sent }], lines := [{ uid := 4, base := 0x10040, tid := 0, w := true, win := 3, words := List.replicate 16 (some 0x77) }] }),
     by decide⟩,
   ⟨(((wLink.wr (winA 1 3 4) 0x100).wr (winA 1 3 0) 0xE0000003).setBridge 1 { nextTag := 9 }), 1, 3, 0x81010044,
     (State.spoilLines (State.dropAtOff (((wLink.wr (winA 1 3 4) 0x100).wr (winA 1 3 0) 0xE0000003).setBridge 1
     { nextTag := 9 }) 1 (BitVec.toNat (0x81010044 : Addr) - brRegion 1) 4) 1 (BitVec.toNat (0x81010044 : Addr) - brRegion
     1) 4), by decide⟩,
   ⟨(((((wLink.wr (winA 1 3 4) 0x100).wr (winA 1 3 0) 0xE0000003).setBridge 1 { nextTag := 9 })).setBridge 1
     { nextTag := 9, txs := [{ tag := 7, acc := mgr, tid := 0, w := true, off := 0x30, bytes := 4, op := .line, win := 3, placed := true, posted := false, phase := .sent }, { tag := 7, acc := mgr, tid := 0, w := true, off := 0x30, bytes := 4, op := .write, win := 3, placed := true, posted := true, phase := .sent }], lines := [{ uid := 4, base := 0x10040, tid := 0, w := true, win := 3, words := List.replicate 16 (some 0x77) }] }),
     1, 3, 0x81010044, (State.spoilLines (State.dropAtOff (((((wLink.wr (winA 1 3 4) 0x100).wr (winA 1 3 0)
     0xE0000003).setBridge 1 { nextTag := 9 })).setBridge 1
     { nextTag := 9, txs := [{ tag := 7, acc := mgr, tid := 0, w := true, off := 0x30, bytes := 4, op := .line, win := 3, placed := true, posted := false, phase := .sent }, { tag := 7, acc := mgr, tid := 0, w := true, off := 0x30, bytes := 4, op := .write, win := 3, placed := true, posted := true, phase := .sent }], lines := [{ uid := 4, base := 0x10040, tid := 0, w := true, win := 3, words := List.replicate 16 (some 0x77) }] })
     1 (BitVec.toNat (0x81010044 : Addr) - brRegion 1) 4) 1 (BitVec.toNat (0x81010044 : Addr) - brRegion 1) 4), by decide⟩,
   ⟨(((wLink.wr (winA 1 3 4) 0x100).wr (winA 1 3 0) 0xE0000003).setBridge 1 { nextTag := 9 }), 1, 3, 0x81010044,
     (State.spoilLines (State.dropAtOff (((wLink.wr (winA 1 3 4) 0x100).wr (winA 1 3 0) 0xE0000003).setBridge 1
     { nextTag := 9 }) 1 (BitVec.toNat (0x81010044 : Addr) - brRegion 1) 4) 1 (BitVec.toNat (0x81010044 : Addr) - brRegion
     1) 4), by decide⟩,
   ⟨(((((wLink.wr (winA 1 3 4) 0x100).wr (winA 1 3 0) 0xE0000003).setBridge 1 { nextTag := 9 })).setBridge 1
     { nextTag := 9, txs := [{ tag := 7, acc := mgr, tid := 0, w := true, off := 0x30, bytes := 4, op := .line, win := 3, placed := true, posted := false, phase := .sent }, { tag := 7, acc := mgr, tid := 0, w := true, off := 0x30, bytes := 4, op := .write, win := 3, placed := true, posted := true, phase := .sent }], lines := [{ uid := 4, base := 0x10040, tid := 0, w := true, win := 3, words := List.replicate 16 (some 0x77) }] }),
     1, 3, 0x81010044, (State.spoilLines (State.dropAtOff (((((wLink.wr (winA 1 3 4) 0x100).wr (winA 1 3 0)
     0xE0000003).setBridge 1 { nextTag := 9 })).setBridge 1
     { nextTag := 9, txs := [{ tag := 7, acc := mgr, tid := 0, w := true, off := 0x30, bytes := 4, op := .line, win := 3, placed := true, posted := false, phase := .sent }, { tag := 7, acc := mgr, tid := 0, w := true, off := 0x30, bytes := 4, op := .write, win := 3, placed := true, posted := true, phase := .sent }], lines := [{ uid := 4, base := 0x10040, tid := 0, w := true, win := 3, words := List.replicate 16 (some 0x77) }] })
     1 (BitVec.toNat (0x81010044 : Addr) - brRegion 1) 4) 1 (BitVec.toNat (0x81010044 : Addr) - brRegion 1) 4), by decide⟩,
   ⟨(((wLink.wr (winA 1 3 4) 0x100).wr (winA 1 3 0) 0xE0000003).setBridge 1 { nextTag := 9 }), mgr, 1, 0, 0x81000020,
     by decide⟩⟩

/-- States and operands that meet the hypotheses of `Obligations.Bridges`, part 3. -/
theorem meets_Bridges_3 :
    (∃ (s : State) (a : Acc) (c : Fin 4) (k : Fin 16) (addr : Addr), s.logicOn = true ∧ bridgeOf addr.toNat = some c.val ∧
      s.brUp c = true ∧ NoHart a ∧ a.tagFail = false ∧ s.tagsOf a.who = ⟨0, true⟩ ∧ (c = 3 ∨ c.val < 2 ∧ inSide c
      (addr.toNat - brRegion c) = true) ∧ s.winAt c (addr.toNat - brRegion c) = some k.val)
    ∧ (∃ (s : State) (b : Fin 3) (x : BrTx), s.logicOn = true ∧ (s.link b).up = true ∧ (s.bridge b).txs.find? (s.farReady b)
      = some x)
    ∧ (∃ (s : State) (b : Fin 3), s.logicOn = true ∧ (s.link b).up = true ∧ (s.bridge b).txs.find? (s.farReady b) = none)
    ∧ (∃ (s : State) (b : Fin 3) (x : BrTx), s.logicOn = true ∧ (s.link b).up = true ∧ (s.bridge b).txs.find? (s.farReady b)
      = some x ∧ x.acc.tagFail = false ∧ (s.bridge b).sem = none ∧ x.op = .read)
    ∧ (∃ (s : State) (b : Fin 3) (x : BrTx), s.logicOn = true ∧ (s.link b).up = true ∧ (s.bridge b).txs.find? (s.farReady b)
      = some x ∧ x.acc.tagFail = false ∧ (s.bridge b).sem = none ∧ x.op = .write)
    ∧ (∃ (s : State) (b : Fin 3) (x : BrTx), s.logicOn = true ∧ (s.link b).up = true ∧ (s.bridge b).txs.find? (s.farReady b)
      = some x ∧ x.acc.tagFail = true ∧ (s.bridge b).sem = none ∧ x.op = .read)
    ∧ (∃ (s : State) (b : Fin 3) (x : BrTx), s.logicOn = true ∧ (s.link b).up = true ∧ (s.bridge b).txs = [x] ∧ x.phase =
      .sent ∧ x.lost = false ∧ x.acc.tagFail = false ∧ b.val < 2 ∧ x.tid = 0 ∧ x.w = true ∧ x.off + 4 < 0x1000 ∧ x.off ≠
      0x10 ∧ x.off ≠ 0xC ∧ x.off ≠ 0x100 ∧ x.off ≠ 4 ∧ (s.bridge b).sem = none ∧ x.op = .read ∧ x.bytes = 4)
    ∧ (∃ (s : State) (b : Fin 3) (x : BrTx), s.logicOn = true ∧ (s.link b).up = true ∧ (s.bridge b).txs = [x] ∧ x.phase =
      .sent ∧ x.lost = false ∧ x.acc.tagFail = false ∧ b.val < 2 ∧ x.tid = 0 ∧ x.w = true ∧ x.off + 4 < 0x1000 ∧ x.off ≠
      0x10 ∧ x.off ≠ 0xC ∧ x.off ≠ 0x100 ∧ x.off ≠ 4 ∧ (s.bridge b).sem = none ∧ x.op = .read ∧ x.bytes = 8)
    ∧ (∃ (s : State) (b : Fin 3) (x : BrTx), s.logicOn = true ∧ (s.link b).up = true ∧ (s.bridge b).txs = [x] ∧ x.phase =
      .sent ∧ x.lost = false ∧ x.acc.tagFail = false ∧ b.val < 2 ∧ x.tid = 0 ∧ x.w = true ∧ x.off + 4 < 0x1000 ∧ x.off ≠
      0x10 ∧ x.off ≠ 0xC ∧ x.off ≠ 0x100 ∧ x.off ≠ 4 ∧ (s.bridge b).sem = none ∧ x.op = .write ∧ x.bytes = 4)
    ∧ (∃ (s : State) (b : Fin 3) (x : BrTx) (j : Fin 9), s.logicOn = true ∧ (s.link b).up = true ∧ (s.bridge b).txs = [x] ∧
      x.phase = .sent ∧ x.lost = false ∧ x.acc.tagFail = false ∧ b.val < 2 ∧ x.tid = 0 ∧ x.w = true ∧ x.off + 4 < 0x1000 ∧
      x.off ≠ 0x10 ∧ x.off ≠ 0xC ∧ x.off ≠ 0x100 ∧ x.off ≠ 4 ∧ (s.bridge b).sem = none ∧ (x.op = .lr ∨ x.op = .amo j)) :=
  ⟨⟨wLink, mgr, 1, 0, 0x81020000, by decide⟩,
   ⟨((wLink.wr (dieA 1 0x20) 0x1234).setBridge 1
     { txs := [{ tag := 4, acc := mgr, tid := 0, w := true, off := 0x20, bytes := 4, op := .read, win := 0, placed := true, phase := .sent }, { tag := 5, acc := mgr, tid := 0, w := true, off := 0x20, bytes := 4, op := .read, win := 0, placed := true, phase := .sent }], told := [3, 32] }),
     1,
     ({ tag := 4, acc := mgr, tid := 0, w := true, off := 0x20, bytes := 4, op := .read, win := 0, placed := true, phase := .sent }),
     by decide⟩,
   ⟨wLink, 1, by decide⟩,
   ⟨((wLink.wr (dieA 1 0x20) 0x1234).setBridge 1
     { txs := [{ tag := 4, acc := mgr, tid := 0, w := true, off := 0x11404, bytes := 4, op := .read, win := 0, placed := true, phase := .sent }, { tag := 5, acc := mgr, tid := 0, w := true, off := 0x20, bytes := 4, op := .read, win := 0, placed := true, phase := .sent }], told := [3, 32] }),
     1,
     ({ tag := 4, acc := mgr, tid := 0, w := true, off := 0x11404, bytes := 4, op := .read, win := 0, placed := true, phase := .sent }),
     by decide⟩,
   ⟨((wLink.wr (dieA 1 0x20) 0x1234).setBridge 1
     { txs := [{ tag := 4, acc := mgr, tid := 0, w := true, off := 0x11404, bytes := 4, op := .write, win := 0, placed := true, phase := .sent, data := 0x700 }, { tag := 5, acc := mgr, tid := 0, w := true, off := 0x20, bytes := 4, op := .read, win := 0, placed := true, phase := .sent }], told := [3, 32] }),
     1,
     ({ tag := 4, acc := mgr, tid := 0, w := true, off := 0x11404, bytes := 4, op := .write, win := 0, placed := true, phase := .sent, data := 0x700 }),
     by decide⟩,
   ⟨((wLink.wr (dieA 1 0x20) 0x1234).setBridge 1
     { txs := [{ tag := 4, acc := ⟨.debug, true⟩, tid := 0, w := true, off := 0x20, bytes := 4, op := .read, win := 0, placed := true, phase := .sent }], told := [3, 32] }),
     1,
     ({ tag := 4, acc := ⟨.debug, true⟩, tid := 0, w := true, off := 0x20, bytes := 4, op := .read, win := 0, placed := true, phase := .sent }),
     by decide⟩,
   ⟨((wLink.wr (dieA 1 0x20) 0x1234).setBridge 1
     { txs := [{ tag := 4, acc := mgr, tid := 0, w := true, off := 0x20, bytes := 4, op := .read, win := 0, placed := true, phase := .sent }], told := [3, 32] }),
     1,
     ({ tag := 4, acc := mgr, tid := 0, w := true, off := 0x20, bytes := 4, op := .read, win := 0, placed := true, phase := .sent }),
     by decide⟩,
   ⟨((wLink.wr (dieA 1 0x20) 0x1234).setBridge 1
     { txs := [{ tag := 4, acc := mgr, tid := 0, w := true, off := 0x20, bytes := 8, op := .read, win := 0, placed := true, phase := .sent }], told := [3, 32] }),
     1,
     ({ tag := 4, acc := mgr, tid := 0, w := true, off := 0x20, bytes := 8, op := .read, win := 0, placed := true, phase := .sent }),
     by decide⟩,
   ⟨((wLink.wr (dieA 1 0x20) 0x1234).setBridge 1
     { txs := [{ tag := 4, acc := mgr, tid := 0, w := true, off := 0x14, bytes := 4, op := .write, win := 0, placed := true, phase := .sent, data := 0xFFFF0055 }], told := [3, 32] }),
     1,
     ({ tag := 4, acc := mgr, tid := 0, w := true, off := 0x14, bytes := 4, op := .write, win := 0, placed := true, phase := .sent, data := 0xFFFF0055 }),
     by decide⟩,
   ⟨((wLink.wr (dieA 1 0x20) 0x1234).setBridge 1
     { txs := [{ tag := 4, acc := mgr, tid := 0, w := true, off := 0x20, bytes := 4, op := .lr, win := 0, placed := true, phase := .sent }], told := [3, 32] }),
     1,
     ({ tag := 4, acc := mgr, tid := 0, w := true, off := 0x20, bytes := 4, op := .lr, win := 0, placed := true, phase := .sent }),
     1, by decide⟩⟩

/-- States and operands that meet the hypotheses of `Obligations.Bridges`, part 4. -/
theorem meets_Bridges_4 :
    (∃ (s : State) (b : Fin 3) (x : BrTx) (m : BrSem), s.logicOn = true ∧ (s.link b).up = true ∧ (s.bridge b).txs = [x] ∧
      x.phase = .sent ∧ x.lost = false ∧ x.acc.tagFail = false ∧ b.val < 2 ∧ x.tid = 0 ∧ x.w = true ∧ x.off + 4 < 0x1000 ∧
      x.off ≠ 0x10 ∧ x.off ≠ 0xC ∧ x.off ≠ 0x100 ∧ x.off ≠ 4 ∧ (s.bridge b).sem = some m ∧ m.who = x.acc.who ∧ m.off = x.off
      ∧ m.image = s.rd (brRegion b + x.off) ∧ x.op = .sc)
    ∧ (∃ (s : State) (b : Fin 3) (x : BrTx), s.logicOn = true ∧ (s.link b).up = true ∧ (s.bridge b).txs = [x] ∧ x.phase =
      .sent ∧ x.lost = false ∧ x.acc.tagFail = false ∧ b.val < 2 ∧ x.tid = 0 ∧ x.w = true ∧ x.off + 4 < 0x1000 ∧ x.off ≠
      0x10 ∧ x.off ≠ 0xC ∧ x.off ≠ 0x100 ∧ x.off ≠ 4 ∧ (s.bridge b).sem = none ∧ x.op = .sc)
    ∧ (∃ (s : State) (b : Fin 3) (x : BrTx) (m : BrSem), s.logicOn = true ∧ (s.link b).up = true ∧ (s.bridge b).txs = [x] ∧
      x.phase = .sent ∧ (s.bridge b).sem = some m ∧ m.who ≠ x.acc.who ∧ m.off = x.off ∧ x.bytes = 4 ∧ (x.op = .read ∨ x.op =
      .write ∨ x.op = .lr))
    ∧ (∃ (s : State) (b : Fin 3) (v : DWord) (x : BrTx) (st : Status), s.logicOn = true ∧ (s.link b).up = true ∧ (s.bridge
      b).txs.find? BrTx.answered = some x ∧ x.phase = .answered st v ∧ BrSent (brRest s b x) ∧ x.dead = false ∧ x.orphan =
      false ∧ x.posted = false ∧ (x.op = .read ∨ x.op = .write ∨ x.op = .lr ∨ x.op = .sc))
    ∧ (∃ (s : State) (b : Fin 3) (v : DWord) (x : BrTx) (j : Fin 9) (st : Status), s.logicOn = true ∧ (s.link b).up = true ∧
      (s.bridge b).txs.find? BrTx.answered = some x ∧ x.phase = .answered st v ∧ BrSent (brRest s b x) ∧ x.dead = false ∧
      x.orphan = false ∧ x.posted = false ∧ x.op = .amo j ∧ st = .done)
    ∧ (∃ (s : State) (b : Fin 3) (v : DWord) (x : BrTx) (j : Fin 9) (st : Status), s.logicOn = true ∧ (s.link b).up = true ∧
      (s.bridge b).txs.find? BrTx.answered = some x ∧ x.phase = .answered st v ∧ BrSent (brRest s b x) ∧ x.dead = false ∧
      x.orphan = false ∧ x.posted = false ∧ x.op = .amo j ∧ st ≠ .done)
    ∧ (∃ (s : State) (b : Fin 3) (v : DWord) (u : Word) (x : BrTx) (j : Fin 9) (st : Status), s.logicOn = true ∧ (s.link
      b).up = true ∧ (s.bridge b).txs.find? BrTx.answered = some x ∧ x.phase = .answered st v ∧ BrSent (brRest s b x) ∧
      x.dead = false ∧ x.orphan = false ∧ x.posted = false ∧ x.op = .amoWrite j u)
    ∧ (∃ (s : State) (b : Fin 3) (v : DWord) (x : BrTx) (st : Status), s.logicOn = true ∧ (s.link b).up = true ∧ (s.bridge
      b).txs.find? BrTx.answered = some x ∧ x.phase = .answered st v ∧ BrSent (brRest s b x) ∧ x.dead = false ∧ x.orphan =
      false ∧ x.posted = false ∧ x.op = .line ∧ st ≠ .done)
    ∧ (∃ (s : State) (b : Fin 3) (v : DWord) (x : BrTx) (st : Status), s.logicOn = true ∧ (s.link b).up = true ∧ (s.bridge
      b).txs.find? BrTx.answered = some x ∧ x.phase = .answered st v ∧ BrSent (brRest s b x) ∧ x.dead = false ∧ x.orphan =
      false ∧ (∀ h, x.acc.who ≠ .hart h) ∧ x.posted = false ∧ x.op = .line ∧ st = .done ∧ lineData x.words (x.off / 64 * 64)
      x.off x.bytes ≠ none)
    ∧ (∃ (s : State) (b : Fin 3) (v : DWord) (x : BrTx) (st : Status), s.logicOn = true ∧ (s.link b).up = true ∧ (s.bridge
      b).txs.find? BrTx.answered = some x ∧ x.phase = .answered st v ∧ BrSent (brRest s b x) ∧ x.dead = false ∧ x.orphan =
      false ∧ x.posted = true) :=
  ⟨⟨((wLink.wr (dieA 1 0x20) 0x1234).setBridge 1
    { txs := [{ tag := 4, acc := mgr, tid := 0, w := true, off := 0x14, bytes := 4, op := .sc, win := 0, placed := true, phase := .sent, data := 0xFFFF0055 }], told := [3, 32], sem := some { who := mgr.who, off := 0x14, image := wLink.rd (dieA 1 0x14) } }),
    1,
    ({ tag := 4, acc := mgr, tid := 0, w := true, off := 0x14, bytes := 4, op := .sc, win := 0, placed := true, phase := .sent, data := 0xFFFF0055 }),
    ({ who := mgr.who, off := 0x14, image := wLink.rd (dieA 1 0x14) }), by decide⟩,
   ⟨((wLink.wr (dieA 1 0x20) 0x1234).setBridge 1
     { txs := [{ tag := 4, acc := mgr, tid := 0, w := true, off := 0x14, bytes := 4, op := .sc, win := 0, placed := true, phase := .sent, data := 0xFFFF0055 }], told := [3, 32] }),
     1,
     ({ tag := 4, acc := mgr, tid := 0, w := true, off := 0x14, bytes := 4, op := .sc, win := 0, placed := true, phase := .sent, data := 0xFFFF0055 }),
     by decide⟩,
   ⟨((wLink.wr (dieA 1 0x20) 0x1234).setBridge 1
     { txs := [{ tag := 4, acc := mgr, tid := 0, w := true, off := 0x20, bytes := 4, op := .read, win := 0, placed := true, phase := .sent }], told := [3, 32], sem := some { who := .debug, off := 0x20, image := 0 } }),
     1,
     ({ tag := 4, acc := mgr, tid := 0, w := true, off := 0x20, bytes := 4, op := .read, win := 0, placed := true, phase := .sent }),
     ({ who := .debug, off := 0x20, image := 0 }), by decide⟩,
   ⟨((wLink.setHart 2
     { await := some { addr := 0x81000020, va := 0x81000020, rd := 5, bytes := 4, next := 0x10000004 } }).setBridge 1
     { txs := [{ tag := 9, acc := mgr, tid := 0, w := true, off := 0x20, bytes := 4, op := .read, win := 0, placed := true, phase := .sent }, { tag := 4, acc := ⟨.hart 2, false⟩, tid := 0, w := true, off := 0x20, bytes := 4, op := .read, win := 0, placed := true, phase := .answered .done 5 }] }),
     1, 5,
     ({ tag := 4, acc := ⟨.hart 2, false⟩, tid := 0, w := true, off := 0x20, bytes := 4, op := .read, win := 0, placed := true, phase := .answered .done 5 }),
     .done, by decide⟩,
   ⟨((wLink.setHart 2
     { await := some { addr := 0x81000020, va := 0x81000020, rd := 5, bytes := 4, next := 0x10000004 } }).setBridge 1
     { txs := [{ tag := 9, acc := mgr, tid := 0, w := true, off := 0x20, bytes := 4, op := .read, win := 0, placed := true, phase := .sent }, { tag := 4, acc := mgr, tid := 0, w := true, off := 0x20, bytes := 4, op := .amo 1, win := 0, placed := true, phase := .answered .done 5, data := 7 }] }),
     1, 5,
     ({ tag := 4, acc := mgr, tid := 0, w := true, off := 0x20, bytes := 4, op := .amo 1, win := 0, placed := true, phase := .answered .done 5, data := 7 }),
     1, .done, by decide⟩,
   ⟨((wLink.setHart 2
     { await := some { addr := 0x81000020, va := 0x81000020, rd := 5, bytes := 4, next := 0x10000004 } }).setBridge 1
     { txs := [{ tag := 9, acc := mgr, tid := 0, w := true, off := 0x20, bytes := 4, op := .read, win := 0, placed := true, phase := .sent }, { tag := 4, acc := mgr, tid := 0, w := true, off := 0x20, bytes := 4, op := .amo 1, win := 0, placed := true, phase := .answered .fault 5, data := 7 }] }),
     1, 5,
     ({ tag := 4, acc := mgr, tid := 0, w := true, off := 0x20, bytes := 4, op := .amo 1, win := 0, placed := true, phase := .answered .fault 5, data := 7 }),
     1, .fault, by decide⟩,
   ⟨((wLink.setHart 2
     { await := some { addr := 0x81000020, va := 0x81000020, rd := 5, bytes := 4, next := 0x10000004 } }).setBridge 1
     { txs := [{ tag := 9, acc := mgr, tid := 0, w := true, off := 0x20, bytes := 4, op := .read, win := 0, placed := true, phase := .sent }, { tag := 4, acc := mgr, tid := 0, w := true, off := 0x20, bytes := 4, op := .amoWrite 1 0, win := 0, placed := true, phase := .answered .done 0, data := 7 }] }),
     1, 0, 0,
     ({ tag := 4, acc := mgr, tid := 0, w := true, off := 0x20, bytes := 4, op := .amoWrite 1 0, win := 0, placed := true, phase := .answered .done 0, data := 7 }),
     1, .done, by decide⟩,
   ⟨((wLink.setHart 2
     { await := some { addr := 0x81000020, va := 0x81000020, rd := 5, bytes := 4, next := 0x10000004 } }).setBridge 1
     { txs := [{ tag := 9, acc := mgr, tid := 0, w := true, off := 0x20, bytes := 4, op := .read, win := 0, placed := true, phase := .sent }, { tag := 4, acc := mgr, tid := 0, w := true, off := 0x20, bytes := 4, op := .line, win := 0, placed := true, phase := .answered .fault 0 }] }),
     1, 0,
     ({ tag := 4, acc := mgr, tid := 0, w := true, off := 0x20, bytes := 4, op := .line, win := 0, placed := true, phase := .answered .fault 0 }),
     .fault, by decide⟩,
   ⟨((wLink.wr (winA 1 3 0) 0x20000000).setBridge 1
     { txs := [{ tag := 4, acc := mgr, tid := 0, w := true, off := 0x1140C, bytes := 4, op := .line, win := 3, placed := true, phase := .answered .done 0, words := List.replicate 16 (some 0) }] }),
     1, 0,
     ({ tag := 4, acc := mgr, tid := 0, w := true, off := 0x1140C, bytes := 4, op := .line, win := 3, placed := true, phase := .answered .done 0, words := List.replicate 16 (some 0) }),
     .done, by decide⟩,
   ⟨((wLink.setHart 2
     { await := some { addr := 0x81000020, va := 0x81000020, rd := 5, bytes := 4, next := 0x10000004 } }).setBridge 1
     { txs := [{ tag := 9, acc := mgr, tid := 0, w := true, off := 0x20, bytes := 4, op := .read, win := 0, placed := true, phase := .sent }, { tag := 4, acc := mgr, tid := 0, w := true, off := 0x20, bytes := 4, op := .write, win := 0, placed := true, phase := .answered .done 0, posted := true }] }),
     1, 0,
     ({ tag := 4, acc := mgr, tid := 0, w := true, off := 0x20, bytes := 4, op := .write, win := 0, placed := true, phase := .answered .done 0, posted := true }),
     .done, by decide⟩⟩

/-- States and operands that meet the hypotheses of `Obligations.Bridges`, part 5. -/
theorem meets_Bridges_5 :
    (∃ (s : State) (b : Fin 3) (x : BrTx), s.logicOn = true ∧ (s.link b).up = true ∧ (s.bridge b).txs.find? BrTx.answered =
      some x ∧ BrSent (brRest s b x) ∧ x.dead = true)
    ∧ (∃ (s : State) (b : Fin 3) (v : DWord) (x : BrTx) (st : Status), s.logicOn = true ∧ (s.link b).up = true ∧ (s.bridge
      b).txs.find? BrTx.answered = some x ∧ x.phase = .answered st v)
    ∧ (∃ (s : State) (b : Fin 3) (v : DWord) (x : BrTx) (st : Status), s.logicOn = true ∧ (s.link b).up = true ∧ (s.bridge
      b).txs.find? BrTx.answered = some x ∧ x.phase = .answered st v ∧ BrSent (brRest s b x) ∧ x.dead = false ∧ x.orphan =
      false ∧ (∀ h, x.acc.who ≠ .hart h) ∧ x.posted = false ∧ (x.op = .read ∨ x.op = .write ∨ x.op = .lr ∨ x.op = .sc))
    ∧ (∃ (s : State) (b : Fin 3) (v : DWord) (x : BrTx) (st : Status), s.logicOn = true ∧ (s.link b).up = true ∧ (s.bridge
      b).txs.find? BrTx.answered = some x ∧ x.phase = .answered st v ∧ BrSent (brRest s b x) ∧ x.dead = false ∧ x.orphan =
      false ∧ (∀ h, x.acc.who ≠ .hart h) ∧ x.posted = true ∧ st = .done)
    ∧ (∃ (s : State) (b : Fin 3) (k : Fin 16) (v : DWord) (x : BrTx) (st : Status), s.logicOn = true ∧ (s.link b).up = true
      ∧ (s.bridge b).txs.find? BrTx.answered = some x ∧ x.phase = .answered st v ∧ BrSent (brRest s b x) ∧ x.dead = false ∧
      x.orphan = false ∧ (∀ h, x.acc.who ≠ .hart h) ∧ x.posted = true ∧ st ≠ .done ∧ (s.bridge b).lines = [] ∧ (s.bridge
      b).errs.length < 16 ∧ x.win = k)
    ∧ (∃ (s : State) (b : Fin 3) (k : Fin 16) (v : DWord) (x : BrTx) (st : Status), s.logicOn = true ∧ (s.link b).up = true
      ∧ (s.bridge b).txs.find? BrTx.answered = some x ∧ x.phase = .answered st v ∧ BrSent (brRest s b x) ∧ x.dead = false ∧
      x.orphan = false ∧ (∀ h, x.acc.who ≠ .hart h) ∧ x.posted = true ∧ st ≠ .done ∧ (s.bridge b).lines = [] ∧ (s.bridge
      b).errs.length = 16 ∧ x.win = k ∧ fld (s.rd (winA b k 8)) 26 16 = 0)
    ∧ (∃ (s : State) (b : Fin 3) (v : DWord) (x : BrTx) (j : Fin 9) (st : Status), s.logicOn = true ∧ (s.link b).up = true ∧
      (s.bridge b).txs.find? BrTx.answered = some x ∧ x.phase = .answered st v ∧ BrSent (brRest s b x) ∧ x.dead = false ∧
      x.orphan = false ∧ (∀ h, x.acc.who ≠ .hart h) ∧ x.posted = false ∧ x.op = .amo j ∧ st = .done)
    ∧ (∃ (s : State) (b : Fin 3) (v : DWord) (u : Word) (x : BrTx) (j : Fin 9) (st : Status), s.logicOn = true ∧ (s.link
      b).up = true ∧ (s.bridge b).txs.find? BrTx.answered = some x ∧ x.phase = .answered st v ∧ BrSent (brRest s b x) ∧
      x.dead = false ∧ x.orphan = false ∧ (∀ h, x.acc.who ≠ .hart h) ∧ x.posted = false ∧ x.op = .amoWrite j u)
    ∧ (∃ (s : State) (b : Fin 3) (k : Fin 16) (v : DWord) (u : Word) (x : BrTx) (st : Status), s.logicOn = true ∧ (s.link
      b).up = true ∧ (s.bridge b).txs.find? BrTx.answered = some x ∧ x.phase = .answered st v ∧ BrSent (brRest s b x) ∧
      x.dead = false ∧ x.orphan = false ∧ (∀ h, x.acc.who ≠ .hart h) ∧ x.posted = false ∧ x.op = .line ∧ st = .done ∧
      x.bytes = 4 ∧ x.words.getD (x.off % 64 / 4) none = some u ∧ x.off % 4 = 0 ∧ x.win = k ∧ x.spoiled = false ∧ (s.bridge
      b).lines = [] ∧ s.rb (winA b k 0) 29 = true ∧ s.rb (winA b k 0) 28 = false)
    ∧ (∃ (s : State) (c : Fin 4) (k : Fin 16) (x : BrTx), s.logicOn = true ∧ (s.bridge c).txs.find? (fun y => y.out &&
      s.brOverdue c y) = some x ∧ BrSent (brRest s c x) ∧ x.orphan = false ∧ (x.placed = true ∨ c = 3 ∨ x.lost = true) ∧
      x.phase ≠ .queued ∧ (∀ h, x.acc.who ≠ .hart h) ∧ x.posted = false ∧ x.win = k) :=
  ⟨⟨((wLink.setHart 2
    { await := some { addr := 0x81000020, va := 0x81000020, rd := 5, bytes := 4, next := 0x10000004 } }).setBridge 1
    { txs := [{ tag := 9, acc := mgr, tid := 0, w := true, off := 0x20, bytes := 4, op := .read, win := 0, placed := true, phase := .sent }, { tag := 4, acc := mgr, tid := 0, w := true, off := 0x20, bytes := 4, op := .write, win := 0, placed := true, phase := .answered .done 0, dead := true }] }),
    1,
    ({ tag := 4, acc := mgr, tid := 0, w := true, off := 0x20, bytes := 4, op := .write, win := 0, placed := true, phase := .answered .done 0, dead := true }),
    by decide⟩,
   ⟨((wLink.setHart 2
     { await := some { addr := 0x81000020, va := 0x81000020, rd := 5, bytes := 4, next := 0x10000004 } }).setBridge 1
     { txs := [{ tag := 9, acc := mgr, tid := 0, w := true, off := 0x20, bytes := 4, op := .read, win := 0, placed := true, phase := .sent }, { tag := 4, acc := mgr, tid := 0, w := true, off := 0x20, bytes := 4, op := .write, win := 0, placed := true, phase := .answered .done 0, dead := true }] }),
     1, 0,
     ({ tag := 4, acc := mgr, tid := 0, w := true, off := 0x20, bytes := 4, op := .write, win := 0, placed := true, phase := .answered .done 0, dead := true }),
     .done, by decide⟩,
   ⟨((wLink.wr (dieA 1 0x20) 0x1234).setBridge 1
     { txs := [{ tag := 4, acc := mgr, tid := 0, w := true, off := 0x20, bytes := 4, op := .read, win := 0, placed := true, phase := .answered .done 5 }], told := [3, 32] }),
     1, 5,
     ({ tag := 4, acc := mgr, tid := 0, w := true, off := 0x20, bytes := 4, op := .read, win := 0, placed := true, phase := .answered .done 5 }),
     .done, by decide⟩,
   ⟨((wLink.wr (dieA 1 0x20) 0x1234).setBridge 1
     { txs := [{ tag := 4, acc := mgr, tid := 0, w := true, off := 0x20, bytes := 4, op := .write, win := 0, placed := true, phase := .answered .done 0, posted := true }], told := [3, 32] }),
     1, 0,
     ({ tag := 4, acc := mgr, tid := 0, w := true, off := 0x20, bytes := 4, op := .write, win := 0, placed := true, phase := .answered .done 0, posted := true }),
     .done, by decide⟩,
   ⟨((wLink.wr (winA 1 3 8) 0x0028050A).setBridge 1
     { txs := [{ tag := 4, acc := mgr, tid := 5, w := false, off := 0x1140C, bytes := 4, op := .write, win := 3, placed := true, phase := .answered .access 0, posted := true }] }),
     1, 3, 0,
     ({ tag := 4, acc := mgr, tid := 5, w := false, off := 0x1140C, bytes := 4, op := .write, win := 3, placed := true, phase := .answered .access 0, posted := true }),
     .access, by decide⟩,
   ⟨(wLink.setBridge 1
     { txs := [{ tag := 4, acc := mgr, tid := 0, w := true, off := 0x20, bytes := 4, op := .write, win := 3, placed := true, phase := .answered .fault 0, posted := true }], errs := List.replicate 16 ⟨0, 0, 0, true, .access, 0⟩ }),
     1, 3, 0,
     ({ tag := 4, acc := mgr, tid := 0, w := true, off := 0x20, bytes := 4, op := .write, win := 3, placed := true, phase := .answered .fault 0, posted := true }),
     .fault, by decide⟩,
   ⟨((wLink.wr (dieA 1 0x20) 0x1234).setBridge 1
     { txs := [{ tag := 4, acc := mgr, tid := 0, w := true, off := 0x20, bytes := 4, op := .amo 1, win := 0, placed := true, phase := .answered .done 5, data := 7 }], told := [3, 32] }),
     1, 5,
     ({ tag := 4, acc := mgr, tid := 0, w := true, off := 0x20, bytes := 4, op := .amo 1, win := 0, placed := true, phase := .answered .done 5, data := 7 }),
     1, .done, by decide⟩,
   ⟨((wLink.wr (dieA 1 0x20) 0x1234).setBridge 1
     { txs := [{ tag := 4, acc := mgr, tid := 0, w := true, off := 0x20, bytes := 4, op := .amoWrite 1 0, win := 0, placed := true, phase := .answered .done 0, data := 7 }], told := [3, 32] }),
     1, 0, 0,
     ({ tag := 4, acc := mgr, tid := 0, w := true, off := 0x20, bytes := 4, op := .amoWrite 1 0, win := 0, placed := true, phase := .answered .done 0, data := 7 }),
     1, .done, by decide⟩,
   ⟨((wLink.wr (winA 1 3 0) 0x20000000).setBridge 1
     { txs := [{ tag := 4, acc := mgr, tid := 0, w := true, off := 0x1140C, bytes := 4, op := .line, win := 3, placed := true, phase := .answered .done 0, words := List.replicate 16 (some 0) }] }),
     1, 3, 0, 0,
     ({ tag := 4, acc := mgr, tid := 0, w := true, off := 0x1140C, bytes := 4, op := .line, win := 3, placed := true, phase := .answered .done 0, words := List.replicate 16 (some 0) }),
     .done, by decide⟩,
   ⟨{ ((wLink.wr (dieA 1 0x20) 0x1234).setBridge 1 { txs := [{ tag := 4, acc := mgr, tid := 0, w := true, off := 0x20, bytes := 4, op := .read, win := 0, placed := true, phase := .sent }], told := [3, 32] }) with ticks := 5000000 },
     1, 0,
     ({ tag := 4, acc := mgr, tid := 0, w := true, off := 0x20, bytes := 4, op := .read, win := 0, placed := true, phase := .sent }),
     by decide⟩⟩

/-- States and operands that meet the hypotheses of `Obligations.Bridges`, part 6. -/
theorem meets_Bridges_6 :
    (∃ (s : State) (c : Fin 4) (k : Fin 16) (x : BrTx), s.logicOn = true ∧ (s.bridge c).txs.find? (fun y => y.out &&
      s.brOverdue c y) = some x ∧ BrSent (brRest s c x) ∧ x.orphan = false ∧ (x.placed = true ∨ c = 3 ∨ x.lost = true) ∧
      x.phase ≠ .queued ∧ x.posted = false ∧ x.win = k)
    ∧ (∃ (s : State) (c : Fin 4) (k : Fin 16) (x : BrTx), s.logicOn = true ∧ (s.bridge c).txs.find? (fun y => y.out &&
      s.brOverdue c y) = some x ∧ BrSent (brRest s c x) ∧ x.orphan = false ∧ (x.placed = true ∨ c = 3 ∨ x.lost = true) ∧
      x.phase ≠ .queued ∧ x.posted = true ∧ (s.bridge c).lines = [] ∧ (s.bridge c).errs.length < 16 ∧ x.win = k)
    ∧ (∃ (s : State) (c : Fin 4) (x : BrTx), s.logicOn = true ∧ (s.bridge c).txs.find? (fun y => y.out && s.brOverdue c y) =
      some x ∧ BrSent (brRest s c x) ∧ x.orphan = false ∧ (x.placed = true ∨ c = 3 ∨ x.lost = true) ∧ x.phase ≠ .queued ∧
      x.posted = true)
    ∧ (∃ (s : State) (c : Fin 4), s.logicOn = true ∧ (s.bridge c).txs.find? (fun y => y.out && s.brOverdue c y) = none)
    ∧ (∃ (s : State) (b : Fin 3) (m : BrSem), s.logicOn = true ∧ (s.bridge b).sem = some m)
    ∧ (∃ (s : State) (c : Fin 4) (l : BrLine), s.logicOn = true ∧ (s.bridge c).lines = [l] ∧ ∀ i, i < 16 → (l.words.getD i
      none).isSome = false ∨ l.given.contains i = true)
    ∧ (∃ (s : State) (c : Fin 4) (l : BrLine), s.logicOn = true ∧ (s.bridge c).lines.find? (fun y => (s.bridge c).lines.all
      fun z => y.uid ≤ z.uid) = some l)
    ∧ (∃ (s : State) (c : Fin 4) (l : BrLine), s.logicOn = true ∧ (s.bridge c).lines = [l] ∧ (∃ i ∈ List.range 16,
      (l.words.getD i none).isSome = true ∧ l.given.contains i = false) ∧ (∀ i, i < 16 → inSide c (l.base + 4 * i) = false))
    ∧ (∃ (s : State) (c : Fin 4) (k : Fin 16) (l : BrLine), s.logicOn = true ∧ (s.bridge c).lines = [l] ∧ inSide c l.base =
      true ∧ (l.words.getD 0 none).isSome = true ∧ l.given.contains 0 = false ∧ l.win = k)
    ∧ (∃ (s : State) (a : Acc) (c : Fin 4) (k : Fin 16) (u : Word), Reaches s a (winA c k 0) ∧ Manager s a ∧ s.winRefuse c k
      u (s.rf (winA c k 4) 15 0) = none ∧ BrSent (s.bridge c).txs) :=
  ⟨⟨{ ((((wLink.wr (dieA 1 0x20) 0x1234).setBridge 1 { txs := [{ tag := 4, acc := ⟨.hart 2, false⟩, tid := 0, w := true, off := 0x20, bytes := 4, op := .read, win := 0, placed := true, phase := .sent }], told := [3, 32] })).setHart 2 { await := some { addr := 0x81000020, va := 0x81000020, rd := 5, bytes := 4, next := 0x10000004 } }) with ticks := 5000000 },
    1, 0,
    ({ tag := 4, acc := ⟨.hart 2, false⟩, tid := 0, w := true, off := 0x20, bytes := 4, op := .read, win := 0, placed := true, phase := .sent }),
    by decide⟩,
   ⟨{ ((wOn.wr (winA 1 3 8) 0x0028050A).setBridge 1 { txs := [{ tag := 4, acc := mgr, tid := 0, w := true, off := 0x20, bytes := 4, op := .write, win := 3, placed := true, phase := .sent, posted := true }] }) with ticks := 5000000 },
     1, 3,
     ({ tag := 4, acc := mgr, tid := 0, w := true, off := 0x20, bytes := 4, op := .write, win := 3, placed := true, phase := .sent, posted := true }),
     by decide⟩,
   ⟨{ ((wOn.wr (winA 1 3 8) 0x0028050A).setBridge 1 { txs := [{ tag := 4, acc := mgr, tid := 0, w := true, off := 0x20, bytes := 4, op := .write, win := 3, placed := true, phase := .sent, posted := true }, { tag := 5, acc := mgr, tid := 0, w := true, off := 0x20, bytes := 4, op := .read, win := 0, placed := true, phase := .sent }] }) with ticks := 5000000 },
     1,
     ({ tag := 4, acc := mgr, tid := 0, w := true, off := 0x20, bytes := 4, op := .write, win := 3, placed := true, phase := .sent, posted := true }),
     by decide⟩,
   ⟨((wLink.wr (dieA 1 0x20) 0x1234).setBridge 1
     { txs := [{ tag := 4, acc := mgr, tid := 0, w := true, off := 0x20, bytes := 4, op := .read, win := 0, placed := true, phase := .sent }], told := [3, 32] }),
     1, by decide⟩,
   ⟨(wLink.setBridge 1 { sem := some { who := mgr.who, off := 0x20, image := 0 } }), 1,
     ({ who := mgr.who, off := 0x20, image := 0 }), by decide⟩,
   ⟨((wLink.wr (brA 1 0x20) 0xFFFFFFFE).setBridge 1
     { lines := [{ uid := 4, base := 0x10040, tid := 0, w := true, win := 3, words := List.replicate 16 (some 0x77), given := List.range 16 }] }),
     1,
     ({ uid := 4, base := 0x10040, tid := 0, w := true, win := 3, words := List.replicate 16 (some 0x77), given := List.range 16 }),
     by decide⟩,
   ⟨(wLink.setBridge 1
     { lines := [{ uid := 4, base := 0x10040, tid := 0, w := true, win := 3, words := List.replicate 16 (some 0x77) }, { uid := 9, base := 0x10040, tid := 0, w := true, win := 3, words := List.replicate 16 (some 0x77) }] }),
     1, ({ uid := 4, base := 0x10040, tid := 0, w := true, win := 3, words := List.replicate 16 (some 0x77) }), by decide⟩,
   ⟨((wLink.wr (brA 1 0x20) 0xFFFFFFFE).setBridge 1
     { lines := [{ uid := 4, base := 0x10040, tid := 0, w := true, win := 3, words := List.replicate 16 (some 0x77), given := [1] }] }),
     1,
     ({ uid := 4, base := 0x10040, tid := 0, w := true, win := 3, words := List.replicate 16 (some 0x77), given := [1] }),
     by decide⟩,
   ⟨((wLink.wr (brA 1 0x20) 0xFFFFFFFE).setBridge 1
     { lines := [{ uid := 4, base := 0x20000, tid := 0, w := true, win := 3, words := List.replicate 16 (some 0x77), given := [1] }] }),
     1, 3,
     ({ uid := 4, base := 0x20000, tid := 0, w := true, win := 3, words := List.replicate 16 (some 0x77), given := [1] }),
     by decide⟩,
   ⟨(wOn.wr (winA 1 3 4) 0x114), mgr, 1, 3, 0xC0000003, by decide⟩⟩

/-- States and operands that meet the hypotheses of `Obligations.Bridges`, part 7. -/
theorem meets_Bridges_7 :
    (∃ (s : State) (a : Acc) (c : Fin 4) (k : Fin 16) (u : Word), Reaches s a (winA c k 0) ∧ Manager s a ∧ s.winRefuse c k u
      (s.rf (winA c k 4) 15 0) = none)
    ∧ (∃ (s : State) (a : Acc) (c : Fin 4) (k : Fin 16) (u : Word), Reaches s a (winA c k 4) ∧ Manager s a ∧ s.winRefuse c k
      (s.rd (winA c k 0)) (fld u 15 0) = none)
    ∧ (∃ (s : State) (a : Acc) (c : Fin 4) (k : Fin 16) (u : Word), Reaches s a (winA c k 0) ∧ Manager s a ∧ NoHart a ∧ k ≠
      0 ∧ bit u 31 = true ∧ 0xFFFF < s.rf (winA c k 4) 15 0 + fld u 15 0)
    ∧ (∃ (s : State) (a : Acc) (c : Fin 4) (k : Fin 16) (u : Word), Reaches s a (winA c k 0) ∧ Manager s a ∧ NoHart a ∧ k ≠
      0 ∧ s.rf (winA c k 4) 15 0 + fld u 15 0 ≤ 0xFFFF ∧ bit u 31 = true ∧ (∃ i ∈ List.range 16, i ≠ 0 ∧ i ≠ k.val ∧ s.rb
      (winA c i 0) 31 = true ∧ s.rf (winA c k 4) 15 0 ≤ s.rf (winA c i 4) 15 0 + s.rf (winA c i 0) 15 0 ∧ s.rf (winA c i 4)
      15 0 ≤ s.rf (winA c k 4) 15 0 + fld u 15 0))
    ∧ (∃ (s : State) (a : Acc) (c : Fin 4) (k : Fin 16), Reaches s a (winA c k 0) ∧ Manager s a ∧ s.winRefuse c k (setBit
      (s.rd (winA c k 0)) 28 true) (s.rf (winA c k 4) 15 0) = none ∧ BrSent (s.bridge c).txs)
    ∧ (∃ (s : State) (a : Acc) (c : Fin 4) (k : Fin 16), Reaches s a (winA c k 0) ∧ Manager s a ∧ s.winRefuse c k (setBit
      (s.rd (winA c k 0)) 28 true) (s.rf (winA c k 4) 15 0) = none)
    ∧ (∃ (s : State) (a : Acc) (c : Fin 4) (k : Fin 16), Reaches s a (winA c k 0) ∧ Manager s a ∧ NoHart a ∧ s.postedOut c k
      = true ∧ (k = 0 ∨ s.rb (winA c k 0) 31 = false))
    ∧ (∃ (s : State) (a : Acc) (c : Fin 4), Reaches s a (brA c 0x1C) ∧ Manager s a)
    ∧ (∃ (s : State) (b : Fin 3) (r : Fin 64), s.logicOn = true ∧ (s.link b).up = true ∧ s.farIrq b r = true ∧ (s.bridge
      b).told.contains r.val = false)
    ∧ (∃ (s : State) (b : Fin 3) (r : Fin 64), s.logicOn = true ∧ (s.link b).up = true ∧ s.farIrq b r = true ∧ (s.bridge
      b).told.contains r.val = true) :=
  ⟨⟨((wOn.wr (winA 1 3 0) 0xF0000003).setBridge 1
    { txs := [{ tag := 7, acc := mgr, tid := 0, w := true, off := 0x30, bytes := 4, op := .line, win := 3, placed := true, posted := false, phase := .sent }], lines := [{ uid := 4, base := 0x10040, tid := 0, w := true, win := 3, words := List.replicate 16 (some 0x77) }] }),
    mgr, 1, 3, 0x80000002, by decide⟩,
   ⟨wOn, mgr, 1, 3, 0x114, by decide⟩,
   ⟨(wOn.wr (winA 1 3 4) 0xFFFD), mgr, 1, 3, 0x80000003, by decide⟩,
   ⟨(((wOn.wr (winA 1 3 4) 0x114).wr (winA 1 5 4) 0x117).wr (winA 1 5 0) 0x80000000), mgr, 1, 3, 0x80000003, by decide⟩,
   ⟨(wOn.wr (winA 1 3 0) 0xD0000003), mgr, 1, 3, by decide⟩,
   ⟨((wOn.wr (winA 1 3 0) 0xF0000003).setBridge 1
     { txs := [{ tag := 7, acc := mgr, tid := 0, w := true, off := 0x30, bytes := 4, op := .line, win := 3, placed := true, posted := false, phase := .sent }], lines := [{ uid := 4, base := 0x10040, tid := 0, w := true, win := 3, words := List.replicate 16 (some 0x77) }] }),
     mgr, 1, 3, by decide⟩,
   ⟨((wOn.wr (winA 1 3 0) 0x50000003).setBridge 1
     { txs := [{ tag := 4, acc := mgr, tid := 0, w := true, off := 0x20, bytes := 4, op := .write, win := 3, placed := true, phase := .sent, posted := true }] }),
     mgr, 1, 3, by decide⟩,
   ⟨(wOn.setBridge 1 { errs := [⟨0, 0, 0, true, .access, 0⟩, ⟨4, 0, 0, true, .access, 0⟩] }), mgr, 1, by decide⟩,
   ⟨(((wLink.wr (dieA 1 0) 4).wr (dieA 1 0x14) 4).wr (brA 1 0x480) 0x80280009), 1, 32, by decide⟩,
   ⟨(((wLink.wr (dieA 1 0) 4).wr (dieA 1 0x14) 4).setBridge 1 { told := [32] }), 1, 32, by decide⟩⟩

/-- States and operands that meet the hypotheses of `Obligations.Bridges`, part 8. -/
theorem meets_Bridges_8 :
    (∃ (s : State) (b : Fin 3) (r : Fin 64), s.logicOn = true ∧ (s.link b).up = true ∧ s.farIrq b r = false) :=
  ⟨(wLink.setBridge 1 { told := [3, 32] }), 1, 32, by decide⟩

/-- States and operands that meet the hypotheses of `Obligations.HartInstructions`, part 1. -/
theorem meets_HartInstructions_1 :
    (∃ (s : State) (h : HartId) (i : HartStep) (u : State), Fetches s h i u)
    ∧ (∃ (s : State) (h : HartId) (i : HartStep) (p : AluOp) (rd rs1 : Fin 32) (b : Src2) (u : State), Steps s h i u ∧ i.op
      = .int p rd rs1 b)
    ∧ (∃ (s : State) (h : HartId) (i : HartStep) (rd rs1 : Fin 32) (u : State), Steps s h i u ∧ i.op = .orcb rd rs1)
    ∧ (∃ (s : State) (h : HartId) (i : HartStep) (rd : Fin 32) (k : DWord) (u : State), Steps s h i u ∧ i.op = .lui rd k)
    ∧ (∃ (s : State) (h : HartId) (i : HartStep) (rd : Fin 32) (k : DWord) (u : State), Steps s h i u ∧ i.op = .auipc rd k)
    ∧ (∃ (s : State) (h : HartId) (i : HartStep) (rd : Fin 32) (k : DWord) (u : State), Steps s h i u ∧ i.op = .jal rd k)
    ∧ (∃ (s : State) (h : HartId) (i : HartStep) (rd rs1 : Fin 32) (k : DWord) (u : State), Steps s h i u ∧ i.op = .jalr rd
      rs1 k)
    ∧ (∃ (s : State) (h : HartId) (i : HartStep) (rs1 rs2 : Fin 32) (k : DWord) (c : BrCond) (u : State), Steps s h i u ∧
      i.op = .branch c rs1 rs2 k)
    ∧ (∃ (s : State) (h : HartId) (i : HartStep) (rd rs1 : Fin 32) (k : DWord) (l : Fin 4) (sg g : Bool) (tr : Xlate) (x :
      Nat) (u : State), Steps s h i u ∧ i.op = .load rd rs1 k l sg g tr ∧ i.tagFail = false ∧ HartSram u h g .load (((u.hart
      h).xr rs1) + k) (2 ^ l.val) tr x ∧ u.anyBad x (2 ^ l.val) = false)
    ∧ (∃ (s : State) (h : HartId) (i : HartStep) (rs1 rs2 : Fin 32) (k : DWord) (l : Fin 4) (g : Bool) (tr : Xlate) (x :
      Nat) (u : State), Steps s h i u ∧ i.op = .store rs1 rs2 k l g tr ∧ i.tagFail = false ∧ HartSram u h g .store (((u.hart
      h).xr rs1) + k) (2 ^ l.val) tr x ∧ u.mayWrite (u.tagsOf (.hart h)) x (2 ^ l.val) = true) :=
  ⟨⟨(wHart .m 0x100), 2, { op := .fence }, (State.fetch (State.released (wHart .m 0x100) 2) 2 (HartStep.len
    { op := .fence }) (HartStep.fetch { op := .fence })).2, by decide⟩,
   ⟨(wHart .m 0x100), 2, { op := .int .add 4 1 (.imm 9) }, .add, 4, 1, (.imm 9), (State.fetch (State.released (wHart .m
     0x100) 2) 2 (HartStep.len { op := .int .add 4 1 (.imm 9) }) (HartStep.fetch { op := .int .add 4 1 (.imm 9) })).2,
     by decide⟩,
   ⟨(wHart .m 0x100), 2, { op := .orcb 4 1 }, 4, 1, (State.fetch (State.released (wHart .m 0x100) 2) 2 (HartStep.len
     { op := .orcb 4 1 }) (HartStep.fetch { op := .orcb 4 1 })).2, by decide⟩,
   ⟨(wHart .m 0x100), 2, { op := .lui 4 8 }, 4, 8, (State.fetch (State.released (wHart .m 0x100) 2) 2 (HartStep.len
     { op := .lui 4 8 }) (HartStep.fetch { op := .lui 4 8 })).2, by decide⟩,
   ⟨(wHart .m 0x100), 2, { op := .auipc 4 8 }, 4, 8, (State.fetch (State.released (wHart .m 0x100) 2) 2 (HartStep.len
     { op := .auipc 4 8 }) (HartStep.fetch { op := .auipc 4 8 })).2, by decide⟩,
   ⟨(wHart .m 0x100), 2, { op := .jal 4 8 }, 4, 8, (State.fetch (State.released (wHart .m 0x100) 2) 2 (HartStep.len
     { op := .jal 4 8 }) (HartStep.fetch { op := .jal 4 8 })).2, by decide⟩,
   ⟨(wHart .m 0x100), 2, { op := .jalr 4 1 8 }, 4, 1, 8, (State.fetch (State.released (wHart .m 0x100) 2) 2 (HartStep.len
     { op := .jalr 4 1 8 }) (HartStep.fetch { op := .jalr 4 1 8 })).2, by decide⟩,
   ⟨(wHart .m 0x100), 2, { op := .branch .eq 1 3 8 }, 1, 3, 8, .eq, (State.fetch (State.released (wHart .m 0x100) 2) 2
     (HartStep.len { op := .branch .eq 1 3 8 }) (HartStep.fetch { op := .branch .eq 1 3 8 })).2, by decide⟩,
   ⟨((wHart .m 0x100).stLE 0x10000100 16 0x8877665544332211), 2, { op := .load 4 2 8 3 true false .walk }, 4, 2, 8, 3, true,
     false, .walk, 0x10000108, (State.fetch (State.released ((wHart .m 0x100).stLE 0x10000100 16 0x8877665544332211) 2) 2
     (HartStep.len { op := .load 4 2 8 3 true false .walk }) (HartStep.fetch { op := .load 4 2 8 3 true false .walk })).2,
     by decide⟩,
   ⟨(wHart .m 0x100), 2, { op := .store 2 3 8 3 false .walk }, 2, 3, 8, 3, false, .walk, 0x10000108, (State.fetch
     (State.released (wHart .m 0x100) 2) 2 (HartStep.len { op := .store 2 3 8 3 false .walk }) (HartStep.fetch
     { op := .store 2 3 8 3 false .walk })).2, by decide⟩⟩

/-- States and operands that meet the hypotheses of `Obligations.HartInstructions`, part 2. -/
theorem meets_HartInstructions_2 :
    (∃ (s : State) (h : HartId) (i : HartStep) (rd rs1 : Fin 32) (k : DWord) (sg : Bool) (tr : Xlate) (x : Nat) (u : State),
      Steps s h i u ∧ i.op = .fload rd rs1 k sg tr ∧ i.tagFail = false ∧ HartSram u h false .load (((u.hart h).xr rs1) + k)
      (if sg then 8 else 4) tr x ∧ u.anyBad x (if sg then 8 else 4) = false)
    ∧ (∃ (s : State) (h : HartId) (i : HartStep) (rs1 rs2 : Fin 32) (k : DWord) (sg : Bool) (tr : Xlate) (x : Nat) (u :
      State), Steps s h i u ∧ i.op = .fstore rs1 rs2 k sg tr ∧ i.tagFail = false ∧ HartSram u h false .store (((u.hart h).xr
      rs1) + k) (if sg then 8 else 4) tr x ∧ u.mayWrite (u.tagsOf (.hart h)) x (if sg then 8 else 4) = true)
    ∧ (∃ (s : State) (h : HartId) (i : HartStep) (rd rs1 : Fin 32) (sg : Bool) (tr : Xlate) (x : Nat) (u : State), Steps s h
      i u ∧ i.op = .lr rd rs1 sg tr ∧ i.tagFail = false ∧ HartSram u h false .load ((u.hart h).xr rs1) (if sg then 8 else 4)
      tr x ∧ u.anyBad x (if sg then 8 else 4) = false ∧ ((u.hart h).xr rs1).toNat % (if sg then 8 else 4) = 0)
    ∧ (∃ (s : State) (h : HartId) (i : HartStep) (rd rs1 rs2 : Fin 32) (sg : Bool) (tr : Xlate) (x : Nat) (u : State), Steps
      s h i u ∧ i.op = .sc rd rs1 rs2 sg tr ∧ i.tagFail = false ∧ HartSram u h false .amo ((u.hart h).xr rs1) (if sg then 8
      else 4) tr x ∧ ((u.hart h).xr rs1).toNat % (if sg then 8 else 4) = 0 ∧ (u.hart h).resv = some x ∧ u.mayWrite (u.tagsOf
      (.hart h)) x (if sg then 8 else 4) = true)
    ∧ (∃ (s : State) (h : HartId) (i : HartStep) (rd rs1 rs2 : Fin 32) (sg : Bool) (tr : Xlate) (x : Nat) (u : State), Steps
      s h i u ∧ i.op = .sc rd rs1 rs2 sg tr ∧ i.tagFail = false ∧ HartSram u h false .amo ((u.hart h).xr rs1) (if sg then 8
      else 4) tr x ∧ ((u.hart h).xr rs1).toNat % (if sg then 8 else 4) = 0 ∧ (u.hart h).resv ≠ some x)
    ∧ (∃ (s : State) (h : HartId) (i : HartStep) (rd rs1 rs2 : Fin 32) (sg : Bool) (tr : Xlate) (x : Nat) (q : AmoOp) (u :
      State), Steps s h i u ∧ i.op = .amo q rd rs1 rs2 sg tr ∧ i.tagFail = false ∧ HartSram u h false .amo ((u.hart h).xr
      rs1) (if sg then 8 else 4) tr x ∧ u.anyBad x (if sg then 8 else 4) = false ∧ ((u.hart h).xr rs1).toNat % (if sg then 8
      else 4) = 0 ∧ u.mayWrite (u.tagsOf (.hart h)) x (if sg then 8 else 4) = true)
    ∧ (∃ (s : State) (h : HartId) (i : HartStep) (rd rs1 : Fin 32) (k : DWord) (l : Fin 4) (sg g : Bool) (tr : Xlate) (x :
      Nat) (u : State), Steps s h i u ∧ i.op = .load rd rs1 k l sg g tr ∧ HartAt u h g .load (((u.hart h).xr rs1) + k) (2 ^
      l.val) tr x)
    ∧ (∃ (s : State) (h : HartId) (i : HartStep) (rd rs1 : Fin 32) (sg : Bool) (tr : Xlate) (x : Nat) (u : State), Steps s h
      i u ∧ i.op = .hlvx rd rs1 sg tr ∧ HartAt u h true .hlvx ((u.hart h).xr rs1) (if sg then 4 else 2) tr x)
    ∧ (∃ (s : State) (h : HartId) (i : HartStep) (rs1 rs2 : Fin 32) (k : DWord) (l : Fin 4) (g : Bool) (tr : Xlate) (x :
      Nat) (u : State), Steps s h i u ∧ i.op = .store rs1 rs2 k l g tr ∧ HartAt u h g .store (((u.hart h).xr rs1) + k) (2 ^
      l.val) tr x ∧ (State.busWrite (u.setHart h
      { (Hart.tlbKeep ((u.hart h).retire (u.hart h)) ((u.hart h).effMode g) .store (((u.hart h).xr rs1) + k) x) with await := some { addr := x, va := (((u.hart h).xr rs1) + k), rd := 0, bytes := 8, signed := false, load := false, next := ((u.hart h).pc + dwd i.len) } })
      ⟨.hart h, i.tagFail⟩ x (2 ^ l.val) ((u.hart h).xr rs2)).2 = false)
    ∧ (∃ (s : State) (h : HartId) (i : HartStep) (rd rs1 rs2 : Fin 32) (k : DWord) (l : Fin 4) (sg g : Bool) (tr : Xlate) (x
      : Nat) (u : State), Steps s h i u ∧ (i.op = .load rd rs1 k l sg g tr ∨ i.op = .store rs1 rs2 k l g tr) ∧ HartTo u h g
      (if i.op = .store rs1 rs2 k l g tr then .store else .load) (((u.hart h).xr rs1) + k) (2 ^ l.val) tr x ∧ bridgeOf x =
      none ∧ s.mustWait (islandOf x) = true) :=
  ⟨⟨(((wHart .m 0x100).stLE 0x10000100 16 0x8877665544332211).setHart 2
    { ((wHart .m 0x100).stLE 0x10000100 16 0x8877665544332211).hart 2 with bankR := { mstatus := 0x2000 } }), 2,
    { op := .fload 4 2 8 true .walk }, 4, 2, 8, true, .walk, 0x10000108, (State.fetch (State.released (((wHart .m
    0x100).stLE 0x10000100 16 0x8877665544332211).setHart 2
    { ((wHart .m 0x100).stLE 0x10000100 16 0x8877665544332211).hart 2 with bankR := { mstatus := 0x2000 } }) 2) 2
    (HartStep.len { op := .fload 4 2 8 true .walk }) (HartStep.fetch { op := .fload 4 2 8 true .walk })).2, by decide⟩,
   ⟨(((wHart .m 0x100).stLE 0x10000100 16 0x8877665544332211).setHart 2
     { ((wHart .m 0x100).stLE 0x10000100 16 0x8877665544332211).hart 2 with bankR := { mstatus := 0x2000 }, f := [(3, 0x55)] }),
     2, { op := .fstore 2 3 8 true .walk }, 2, 3, 8, true, .walk, 0x10000108, (State.fetch (State.released (((wHart .m
     0x100).stLE 0x10000100 16 0x8877665544332211).setHart 2
     { ((wHart .m 0x100).stLE 0x10000100 16 0x8877665544332211).hart 2 with bankR := { mstatus := 0x2000 }, f := [(3, 0x55)] })
     2) 2 (HartStep.len { op := .fstore 2 3 8 true .walk }) (HartStep.fetch { op := .fstore 2 3 8 true .walk })).2,
     by decide⟩,
   ⟨((wHart .m 0x100).stLE 0x10000100 16 0x8877665544332211), 2, { op := .lr 4 2 true .walk }, 4, 2, true, .walk,
     0x10000100, (State.fetch (State.released ((wHart .m 0x100).stLE 0x10000100 16 0x8877665544332211) 2) 2 (HartStep.len
     { op := .lr 4 2 true .walk }) (HartStep.fetch { op := .lr 4 2 true .walk })).2, by decide⟩,
   ⟨(((wHart .m 0x100).stLE 0x10000100 16 0x8877665544332211).setHart 2
     { ((wHart .m 0x100).stLE 0x10000100 16 0x8877665544332211).hart 2 with resv := some 0x10000100 }), 2,
     { op := .sc 4 2 3 false .walk }, 4, 2, 3, false, .walk, 0x10000100, (State.fetch (State.released (((wHart .m
     0x100).stLE 0x10000100 16 0x8877665544332211).setHart 2
     { ((wHart .m 0x100).stLE 0x10000100 16 0x8877665544332211).hart 2 with resv := some 0x10000100 }) 2) 2 (HartStep.len
     { op := .sc 4 2 3 false .walk }) (HartStep.fetch { op := .sc 4 2 3 false .walk })).2, by decide⟩,
   ⟨(((wHart .m 0x100).stLE 0x10000100 16 0x8877665544332211).setHart 2
     { ((wHart .m 0x100).stLE 0x10000100 16 0x8877665544332211).hart 2 with resv := some 0x10000108 }), 2,
     { op := .sc 4 2 3 true .walk }, 4, 2, 3, true, .walk, 0x10000100, (State.fetch (State.released (((wHart .m 0x100).stLE
     0x10000100 16 0x8877665544332211).setHart 2
     { ((wHart .m 0x100).stLE 0x10000100 16 0x8877665544332211).hart 2 with resv := some 0x10000108 }) 2) 2 (HartStep.len
     { op := .sc 4 2 3 true .walk }) (HartStep.fetch { op := .sc 4 2 3 true .walk })).2, by decide⟩,
   ⟨((wHart .m 0x100).stLE 0x10000100 16 0x8877665544332211), 2, { op := .amo .add 4 2 3 true .walk }, 4, 2, 3, true, .walk,
     0x10000100, .add, (State.fetch (State.released ((wHart .m 0x100).stLE 0x10000100 16 0x8877665544332211) 2) 2
     (HartStep.len { op := .amo .add 4 2 3 true .walk }) (HartStep.fetch { op := .amo .add 4 2 3 true .walk })).2,
     by decide⟩,
   ⟨(wHart .m 0x100), 2, { op := .load 4 1 0x40020003 2 true false .walk }, 4, 1, 0x40020003, 2, true, false, .walk,
     0x40020008, (State.fetch (State.released (wHart .m 0x100) 2) 2 (HartStep.len
     { op := .load 4 1 0x40020003 2 true false .walk }) (HartStep.fetch
     { op := .load 4 1 0x40020003 2 true false .walk })).2, by decide⟩,
   ⟨((((wHart .m 0x100).stLE 0x10000100 16 0x8877665544332211).setHart 2
     { ((wHart .m 0x100).stLE 0x10000100 16 0x8877665544332211).hart 2 with mode := .s, csrs := [(0x3A0, 0x1F), (0x3B0, 0x3FFFFFFFFFFFFF)] })),
     2, { op := .hlvx 4 2 true .walk }, 4, 2, true, .walk, 0x10000100, (State.fetch (State.released ((((wHart .m 0x100).stLE
     0x10000100 16 0x8877665544332211).setHart 2
     { ((wHart .m 0x100).stLE 0x10000100 16 0x8877665544332211).hart 2 with mode := .s, csrs := [(0x3A0, 0x1F), (0x3B0, 0x3FFFFFFFFFFFFF)] }))
     2) 2 (HartStep.len { op := .hlvx 4 2 true .walk }) (HartStep.fetch { op := .hlvx 4 2 true .walk })).2, by decide⟩,
   ⟨(wHart .m 0x100), 2, { op := .store 1 3 0x40020083 2 false .walk }, 1, 3, 0x40020083, 2, false, .walk, 0x40020088,
     (State.fetch (State.released (wHart .m 0x100) 2) 2 (HartStep.len { op := .store 1 3 0x40020083 2 false .walk })
     (HartStep.fetch { op := .store 1 3 0x40020083 2 false .walk })).2, by decide⟩,
   ⟨((wHart .m 0x100).setIsl 4 .hold), 2, { op := .load 4 1 0x30000003 3 true false .walk }, 4, 1, 3, 0x30000003, 3, true,
     false, .walk, 0x30000008, (State.fetch (State.released ((wHart .m 0x100).setIsl 4 .hold) 2) 2 (HartStep.len
     { op := .load 4 1 0x30000003 3 true false .walk }) (HartStep.fetch
     { op := .load 4 1 0x30000003 3 true false .walk })).2, by decide⟩⟩

/-- States and operands that meet the hypotheses of `Obligations.HartInstructions`, part 3. -/
theorem meets_HartInstructions_3 :
    (∃ (s : State) (h : HartId) (i : HartStep) (rd rs1 : Fin 32) (k : DWord) (l : Fin 4) (sg g : Bool) (tr : Xlate) (x :
      Nat) (word : BitVec 32) (u : State), Steps s h i u ∧ i.op = .load rd rs1 k l sg g tr ∧ HartTo u h g .load (((u.hart
      h).xr rs1) + k) (2 ^ l.val) tr x ∧ bridgeOf x = some (word.toNat % 4))
    ∧ (∃ (s : State) (h : HartId) (i : HartStep) (rs1 rs2 : Fin 32) (k : DWord) (l : Fin 4) (g : Bool) (tr : Xlate) (x :
      Nat) (word : BitVec 32) (u : State), Steps s h i u ∧ i.op = .store rs1 rs2 k l g tr ∧ HartTo u h g .store (((u.hart
      h).xr rs1) + k) (2 ^ l.val) tr x ∧ bridgeOf x = some (word.toNat % 4))
    ∧ (∃ (s : State) (h : HartId) (i : HartStep) (rd rs1 : Fin 32) (k v : DWord) (l : Fin 4) (sg g : Bool) (tr : Xlate) (x :
      Nat) (u : State), Steps s h i u ∧ i.op = .load rd rs1 k l sg g tr ∧ faultOf (u.reach h ((u.hart h).effMode g) .load
      (((u.hart h).xr rs1) + k) (2 ^ l.val) tr) = some { cause := x, tval := v })
    ∧ (∃ (s : State) (h : HartId) (i : HartStep) (rs1 rs2 : Fin 32) (k v : DWord) (l : Fin 4) (g : Bool) (tr : Xlate) (x :
      Nat) (u : State), Steps s h i u ∧ i.op = .store rs1 rs2 k l g tr ∧ faultOf (u.reach h ((u.hart h).effMode g) .store
      (((u.hart h).xr rs1) + k) (2 ^ l.val) tr) = some { cause := x, tval := v })
    ∧ (∃ (s : State) (h : HartId) (i : HartStep) (rd rs1 rs2 rs3 : Fin 32) (word : BitVec 32) (u : State), Steps s h i u ∧
      i.op = .fp word rd rs1 rs2 rs3)
    ∧ (∃ (s : State) (h : HartId) (i : HartStep) (rd rs1 : Fin 32) (word : BitVec 32) (u : State), Steps s h i u ∧ i.op =
      .xToFp word rd rs1)
    ∧ (∃ (s : State) (h : HartId) (i : HartStep) (rd rs1 rs2 : Fin 32) (word : BitVec 32) (u : State), Steps s h i u ∧ i.op
      = .fpToX word rd rs1 rs2)
    ∧ (∃ (s : State) (h : HartId) (i : HartStep) (rd : Fin 32) (b : Src2) (op : CsrOp) (n : BitVec 12) (u : State), Steps s
      h i u ∧ i.op = .csr op rd n b)
    ∧ (∃ (s : State) (h : HartId) (i : HartStep) (rd : Fin 32) (b : Src2) (v : DWord) (op : CsrOp) (n : BitVec 12) (u :
      State), Steps s h i u ∧ i.op = .csr op rd n b ∧ n.toNat ∉ [0x344, 0xB02, 0x7A1] ∧ (u.hart h).mode.virt = false ∧
      State.csrRead u h n.toNat = (v, u))
    ∧ (∃ (s : State) (h : HartId) (i : HartStep) (rd : Fin 32) (b : Src2) (op : CsrOp) (n : BitVec 12) (u : State), Steps s
      h i u ∧ i.op = .csr op rd n b ∧ op = .write ∧ n = 0x340) :=
  ⟨⟨{ (wHart .m 0x100) with links := wLink.links }, 2, { op := .load 4 1 0x8100001B 2 true false .walk }, 4, 1, 0x8100001B,
    2, true, false, .walk, 0x81000020, 1, (State.fetch (State.released { (wHart .m 0x100) with links := wLink.links } 2) 2
    (HartStep.len { op := .load 4 1 0x8100001B 2 true false .walk }) (HartStep.fetch
    { op := .load 4 1 0x8100001B 2 true false .walk })).2, by decide⟩,
   ⟨{ (wHart .m 0x100) with links := wLink.links }, 2, { op := .store 1 3 0x8100001B 2 false .walk }, 1, 3, 0x8100001B, 2,
     false, .walk, 0x81000020, 1, (State.fetch (State.released { (wHart .m 0x100) with links := wLink.links } 2) 2
     (HartStep.len { op := .store 1 3 0x8100001B 2 false .walk }) (HartStep.fetch
     { op := .store 1 3 0x8100001B 2 false .walk })).2, by decide⟩,
   ⟨((wHart .u 0x100).setHart 2 { (wHart .u 0x100).hart 2 with csrs := [(0x3A0, 0x1C), (0x3B0, 0x3FFFFFFFFFFFFF)] }), 2,
     { op := .load 4 1 8 3 true false .walk }, 4, 1, 8, (((wHart .u 0x100).hart 2).xr 1 + 8), 3, true, false, .walk, 5,
     (State.fetch (State.released ((wHart .u 0x100).setHart 2
     { (wHart .u 0x100).hart 2 with csrs := [(0x3A0, 0x1C), (0x3B0, 0x3FFFFFFFFFFFFF)] }) 2) 2 (HartStep.len
     { op := .load 4 1 8 3 true false .walk }) (HartStep.fetch { op := .load 4 1 8 3 true false .walk })).2, by decide⟩,
   ⟨((wHart .u 0x100).setHart 2 { (wHart .u 0x100).hart 2 with csrs := [(0x3A0, 0x1C), (0x3B0, 0x3FFFFFFFFFFFFF)] }), 2,
     { op := .store 1 3 8 3 false .walk }, 1, 3, 8, (((wHart .u 0x100).hart 2).xr 1 + 8), 3, false, .walk, 7, (State.fetch
     (State.released ((wHart .u 0x100).setHart 2
     { (wHart .u 0x100).hart 2 with csrs := [(0x3A0, 0x1C), (0x3B0, 0x3FFFFFFFFFFFFF)] }) 2) 2 (HartStep.len
     { op := .store 1 3 8 3 false .walk }) (HartStep.fetch { op := .store 1 3 8 3 false .walk })).2, by decide⟩,
   ⟨((wHart .m 0x100).setHart 2 { (wHart .m 0x100).hart 2 with bankR := { mstatus := 0x2000 } }), 2,
     { op := .fp 0x0220F053 4 1 3 0 }, 4, 1, 3, 0, 0x0220F053, (State.fetch (State.released ((wHart .m 0x100).setHart 2
     { (wHart .m 0x100).hart 2 with bankR := { mstatus := 0x2000 } }) 2) 2 (HartStep.len { op := .fp 0x0220F053 4 1 3 0 })
     (HartStep.fetch { op := .fp 0x0220F053 4 1 3 0 })).2, by decide⟩,
   ⟨((wHart .m 0x100).setHart 2 { (wHart .m 0x100).hart 2 with bankR := { mstatus := 0x2000 } }), 2,
     { op := .xToFp 0xF2008053 4 1 }, 4, 1, 0xF2008053, (State.fetch (State.released ((wHart .m 0x100).setHart 2
     { (wHart .m 0x100).hart 2 with bankR := { mstatus := 0x2000 } }) 2) 2 (HartStep.len { op := .xToFp 0xF2008053 4 1 })
     (HartStep.fetch { op := .xToFp 0xF2008053 4 1 })).2, by decide⟩,
   ⟨((wHart .m 0x100).setHart 2 { (wHart .m 0x100).hart 2 with bankR := { mstatus := 0x2000 } }), 2,
     { op := .fpToX 0xE2008053 4 1 3 }, 4, 1, 3, 0xE2008053, (State.fetch (State.released ((wHart .m 0x100).setHart 2
     { (wHart .m 0x100).hart 2 with bankR := { mstatus := 0x2000 } }) 2) 2 (HartStep.len { op := .fpToX 0xE2008053 4 1 3 })
     (HartStep.fetch { op := .fpToX 0xE2008053 4 1 3 })).2, by decide⟩,
   ⟨(wHart .m 0x100), 2, { op := .csr .write 4 0xB00 (.imm 9) }, 4, (.imm 9), .write, 0xB00, (State.fetch (State.released
     (wHart .m 0x100) 2) 2 (HartStep.len { op := .csr .write 4 0xB00 (.imm 9) }) (HartStep.fetch
     { op := .csr .write 4 0xB00 (.imm 9) })).2, by decide⟩,
   ⟨((wHart .m 0x100).setHart 2 { (wHart .m 0x100).hart 2 with bankR := { mscratch := 0x1234 } }), 2,
     { op := .csr .write 4 0x340 (.imm 9) }, 4, (.imm 9), 0x1234, .write, 0x340, (State.fetch (State.released ((wHart .m
     0x100).setHart 2 { (wHart .m 0x100).hart 2 with bankR := { mscratch := 0x1234 } }) 2) 2 (HartStep.len
     { op := .csr .write 4 0x340 (.imm 9) }) (HartStep.fetch { op := .csr .write 4 0x340 (.imm 9) })).2, by decide⟩,
   ⟨(wHart .m 0x100), 2, { op := .csr .write 4 0x340 (.reg 3) }, 4, (.reg 3), .write, 0x340, (State.fetch (State.released
     (wHart .m 0x100) 2) 2 (HartStep.len { op := .csr .write 4 0x340 (.reg 3) }) (HartStep.fetch
     { op := .csr .write 4 0x340 (.reg 3) })).2, by decide⟩⟩

/-- States and operands that meet the hypotheses of `Obligations.HartInstructions`, part 4. -/
theorem meets_HartInstructions_4 :
    (∃ (s : State) (h : HartId) (i : HartStep) (u : State), Steps s h i u ∧ i.op = .fence)
    ∧ (∃ (s : State) (h : HartId) (i : HartStep) (u : State), Steps s h i u ∧ i.op = .fenceI)
    ∧ (∃ (s : State) (h : HartId) (i : HartStep) (u : State), Steps s h i u ∧ i.op = .sfence)
    ∧ (∃ (s : State) (h : HartId) (i : HartStep) (u : State), Steps s h i u ∧ i.op = .hfence)
    ∧ (∃ (s : State) (h : HartId) (i : HartStep) (u : State), Steps s h i u ∧ i.op = .wfi)
    ∧ (∃ (s : State) (h : HartId) (i : HartStep) (u : State), Steps s h i u ∧ i.op = .ecall ∧ ((u.hart h).mode = .m ∨ bit
      ((u.hart h).csr 0x302) (u.hart h).mode.ecall = false))
    ∧ (∃ (s : State) (h : HartId) (i : HartStep) (u : State), Steps s h i u ∧ i.op = .ecall)
    ∧ (∃ (s : State) (h : HartId) (i : HartStep) (u : State), Steps s h i u ∧ i.op = .ebreak)
    ∧ (∃ (s : State) (h : HartId) (i : HartStep) (u : State), Steps s h i u ∧ i.op = .ebreak ∧ u.ebreaks (u.hart h) = false
      ∧ ((u.hart h).mode = .m ∨ bit ((u.hart h).csr 0x302) 3 = false))
    ∧ (∃ (s : State) (h : HartId) (i : HartStep) (u : State), Steps s h i u ∧ i.op = .mret) :=
  ⟨⟨(wHart .m 0x100), 2, { op := .fence }, (State.fetch (State.released (wHart .m 0x100) 2) 2 (HartStep.len
    { op := .fence }) (HartStep.fetch { op := .fence })).2, by decide⟩,
   ⟨(wHart .m 0x100), 2, { op := .fenceI }, (State.fetch (State.released (wHart .m 0x100) 2) 2 (HartStep.len
     { op := .fenceI }) (HartStep.fetch { op := .fenceI })).2, by decide⟩,
   ⟨(wHart .m 0x100), 2, { op := .sfence }, (State.fetch (State.released (wHart .m 0x100) 2) 2 (HartStep.len
     { op := .sfence }) (HartStep.fetch { op := .sfence })).2, by decide⟩,
   ⟨(wHart .m 0x100), 2, { op := .hfence }, (State.fetch (State.released (wHart .m 0x100) 2) 2 (HartStep.len
     { op := .hfence }) (HartStep.fetch { op := .hfence })).2, by decide⟩,
   ⟨(wHart .m 0x100), 2, { op := .wfi }, (State.fetch (State.released (wHart .m 0x100) 2) 2 (HartStep.len { op := .wfi })
     (HartStep.fetch { op := .wfi })).2, by decide⟩,
   ⟨(wHart .m 0x100), 2, { op := .ecall }, (State.fetch (State.released (wHart .m 0x100) 2) 2 (HartStep.len
     { op := .ecall }) (HartStep.fetch { op := .ecall })).2, by decide⟩,
   ⟨((wHart .u 0).setHart 2
     { (wHart .u 0).hart 2 with csrs := [(0x3A0, 0x1F), (0x3B0, 0x3FFFFFFFFFFFFF), (0x302, 0x100)] }), 2, { op := .ecall },
     (State.fetch (State.released ((wHart .u 0).setHart 2
     { (wHart .u 0).hart 2 with csrs := [(0x3A0, 0x1F), (0x3B0, 0x3FFFFFFFFFFFFF), (0x302, 0x100)] }) 2) 2 (HartStep.len
     { op := .ecall }) (HartStep.fetch { op := .ecall })).2, by decide +kernel⟩,
   ⟨(wHart .m 0x100), 2, { op := .ebreak }, (State.fetch (State.released (wHart .m 0x100) 2) 2 (HartStep.len
     { op := .ebreak }) (HartStep.fetch { op := .ebreak })).2, by decide⟩,
   ⟨(wHart .m 0x100), 2, { op := .ebreak }, (State.fetch (State.released (wHart .m 0x100) 2) 2 (HartStep.len
     { op := .ebreak }) (HartStep.fetch { op := .ebreak })).2, by decide⟩,
   ⟨((wHart .m 0x100).setHart 2 { (wHart .m 0x100).hart 2 with bankR := { mepc := 0x400, mstatus := 0x80 } }), 2,
     { op := .mret }, (State.fetch (State.released ((wHart .m 0x100).setHart 2
     { (wHart .m 0x100).hart 2 with bankR := { mepc := 0x400, mstatus := 0x80 } }) 2) 2 (HartStep.len { op := .mret })
     (HartStep.fetch { op := .mret })).2, by decide⟩⟩

/-- States and operands that meet the hypotheses of `Obligations.HartInstructions`, part 5. -/
theorem meets_HartInstructions_5 :
    (∃ (s : State) (h : HartId) (i : HartStep) (u : State), Steps s h i u ∧ i.op = .sret)
    ∧ (∃ (s : State) (h : HartId) (i : HartStep) (x : Nat) (u : State), Fetches s h i u ∧ Agrees u h i ∧ (u.hart h).illegal?
      i = some x ∧ ((u.hart h).mode = .m ∨ bit ((u.hart h).csr 0x302) x = false))
    ∧ (∃ (s : State) (h : HartId) (i : HartStep) (x : Nat) (u : State), Fetches s h i u ∧ Agrees u h i ∧ (u.hart h).illegal?
      i = some x)
    ∧ (∃ (s : State) (h : HartId) (i : HartStep) (x : Nat), s.hartRuns h = true ∧ s.draining = false ∧ s.resetHalts h =
      false ∧ bit ((s.hart h).csr 0x7B0) 2 = false ∧ i.op = .interrupt ∧ topInt (s.mInts (s.hart h) (s.hart h).world) = some
      x ∧ ((s.hart h).world = true ∨ topInt (s.mInts (s.hart h) true) = none) ∧ ((s.hart h).mode ≠ .m ∨ bit (s.hart
      h).bank.mstatus 3 = true))
    ∧ (∃ (s : State) (h : HartId) (i : HartStep), s.hartRuns h = true ∧ s.draining = false ∧ s.resetHalts h = false ∧ bit
      ((s.hart h).csr 0x7B0) 2 = false ∧ i.op = .interrupt)
    ∧ (∃ (s : State) (h : HartId) (i : HartStep) (u : State), Fetches s h i u ∧ (u.hart h).active = true ∧ ((Hart.copy2
      (u.hart h) i (u.hart h).mirrorView).map (upsetBy i.upset)) ≠ some (Hart.copy (u.hart h) i (u.hart h).view).2 ∧
      ((u.hart h).pressRetry = false ∨ ((Hart.copy2 (u.hart h) i (u.hart h).mirrorView).map (upsetBy i.upsetRetry)) ≠ some
      (Hart.copy (u.hart h) i (u.hart h).view).2))
    ∧ (∃ (s : State) (h : HartId) (i : HartStep) (p : AluOp) (rd rs1 : Fin 32) (b : Src2) (u : State), Fetches s h i u ∧
      (u.hart h).active = true ∧ ((Hart.copy2 (u.hart h) i (u.hart h).mirrorView).map (upsetBy i.upset)) ≠ some (Hart.copy
      (u.hart h) i (u.hart h).view).2 ∧ (u.hart h).pressRetry = true ∧ ((Hart.copy2 (u.hart h) i (u.hart h).mirrorView).map
      (upsetBy i.upsetRetry)) = some (Hart.copy (u.hart h) i (u.hart h).view).2 ∧ (u.hart h).illegal? i = none ∧ i.op = .int
      p rd rs1 b) :=
  ⟨⟨((wHart .m 0x100).setHart 2 { (wHart .m 0x100).hart 2 with csrs := [(0x141, 0x400)] }), 2, { op := .sret }, (State.fetch
    (State.released ((wHart .m 0x100).setHart 2 { (wHart .m 0x100).hart 2 with csrs := [(0x141, 0x400)] }) 2) 2
    (HartStep.len { op := .sret }) (HartStep.fetch { op := .sret })).2, by decide⟩,
   ⟨(wHart .m 0x100), 2, { op := .illegal 0x0000100B }, 2, (State.fetch (State.released (wHart .m 0x100) 2) 2 (HartStep.len
     { op := .illegal 0x0000100B }) (HartStep.fetch { op := .illegal 0x0000100B })).2, by decide⟩,
   ⟨((wHart .u 0).setHart 2 { (wHart .u 0).hart 2 with csrs := [(0x3A0, 0x1F), (0x3B0, 0x3FFFFFFFFFFFFF), (0x302, 4)] }), 2,
     { op := .mret }, 2, (State.fetch (State.released ((wHart .u 0).setHart 2
     { (wHart .u 0).hart 2 with csrs := [(0x3A0, 0x1F), (0x3B0, 0x3FFFFFFFFFFFFF), (0x302, 4)] }) 2) 2 (HartStep.len
     { op := .mret }) (HartStep.fetch { op := .mret })).2, by decide⟩,
   ⟨((wHart .m 0x100).setHart 2 { (wHart .m 0x100).hart 2 with bankR := { mstatus := 8, mie := 0x200, mip := 0x200 } }), 2,
     { op := .interrupt }, 9, by decide⟩,
   ⟨((wHart .m 0x100).setHart 2
     { (wHart .m 0x100).hart 2 with mode := .s, bankR := { mstatus := 2, mie := 0x200, mip := 0x200 }, csrs := [(0x303, 0x200)] }),
     2, { op := .interrupt }, by decide⟩,
   ⟨((wHart .m 0x100).setHart 2 { ((wHart .m 0x100).hart 2).fillMirror with csrs := [(0x7C1, 1)], mismatches := [] }), 2,
     { op := .int .add 4 1 (.imm 9), upset := 4 }, (State.fetch (State.released ((wHart .m 0x100).setHart 2
     { ((wHart .m 0x100).hart 2).fillMirror with csrs := [(0x7C1, 1)], mismatches := [] }) 2) 2 (HartStep.len
     { op := .int .add 4 1 (.imm 9), upset := 4 }) (HartStep.fetch { op := .int .add 4 1 (.imm 9), upset := 4 })).2,
     by decide +kernel⟩,
   ⟨((wHart .m 0x100).setHart 2
     { ((wHart .m 0x100).hart 2).fillMirror with csrs := [(0x7C1, 1), (0x7C0, 3)], mismatches := [] }), 2,
     { op := .int .add 4 1 (.imm 9), upset := 4 }, .add, 4, 1, (.imm 9), (State.fetch (State.released ((wHart .m
     0x100).setHart 2 { ((wHart .m 0x100).hart 2).fillMirror with csrs := [(0x7C1, 1), (0x7C0, 3)], mismatches := [] }) 2) 2
     (HartStep.len { op := .int .add 4 1 (.imm 9), upset := 4 }) (HartStep.fetch
     { op := .int .add 4 1 (.imm 9), upset := 4 })).2, by decide +kernel⟩⟩

/-- States and operands that meet the hypotheses of `Obligations.HartControl`, part 1. -/
theorem meets_HartControl_1 :
    (∃ (s : State) (h : HartId) (u : DWord), Free s h ∧ ((s.hart h).active = false ∨ u = 0) ∧ ((s.hart h).world = true ∧
      (s.hart h).mode ≠ .m ∨ (s.hart h).world = false ∧ ((s.hart h).mode.virt = false ∨ bit ((s.hart h).csr 0x7C2) 3 =
      true)))
    ∧ (∃ (s : State) (h : HartId), Free s h ∧ (s.hart h).active = false ∧ ((s.hart h).world = true ∧ (s.hart h).mode ≠ .m ∨
      (s.hart h).world = false ∧ ((s.hart h).mode.virt = false ∨ bit ((s.hart h).csr 0x7C2) 3 = true)))
    ∧ (∃ (s : State) (h : HartId) (u : DWord), Free s h ∧ ((s.hart h).active = false ∨ u = 0) ∧ (s.hart h).world = true ∧
      (s.hart h).mode = .m)
    ∧ (∃ (s : State) (h : HartId) (u : DWord), Free s h ∧ ((s.hart h).active = false ∨ u = 0) ∧ (s.hart h).world = false ∧
      (s.hart h).mode.virt = true ∧ bit ((s.hart h).csr 0x7C2) 3 = false ∧ bit ((s.hart h).csr 0x302) 22 = false)
    ∧ (∃ (s : State) (h : HartId) (u : DWord), Free s h ∧ ((s.hart h).active = false ∨ u = 0) ∧ (s.hart h).world = false ∧
      (s.hart h).mode.virt = true ∧ bit ((s.hart h).csr 0x7C2) 3 = false)
    ∧ (∃ (s : State) (h : HartId) (u u2 : DWord), Free s h ∧ (s.hart h).active = true ∧ u ≠ 0 ∧ ((s.hart h).pressRetry =
      false ∨ u2 ≠ 0))
    ∧ (∃ (s : State) (h : HartId) (u u2 : DWord), Free s h ∧ (s.hart h).active = true ∧ (s.hart h).pressRetry = true ∧ u ≠ 0
      ∧ u2 = 0 ∧ ((s.hart h).world = true ∧ (s.hart h).mode ≠ .m ∨ (s.hart h).world = false ∧ ((s.hart h).mode.virt = false
      ∨ bit ((s.hart h).csr 0x7C2) 3 = true)))
    ∧ (∃ (s : State) (h : HartId), Free s h ∧ (s.hart h).world = true ∧ (s.hart h).mode = .m)
    ∧ (∃ (s : State) (h : HartId), s.hartRuns h = true ∧ s.resetHalts h = true)
    ∧ (∃ (s : State) (h : HartId) (x : Nat), s.hartRuns h = true ∧ (s.hart h).held = false ∧ (s.hart h).world = false ∧
      topInt (s.mInts (s.hart h) true) = some x) :=
  ⟨⟨((wHart .m 0x100).setHart 2
    { (wHart .m 0x100).hart 2 with mode := .s, bankR := { mtvec := 0x401, mstatus := 8 }, csrs := [(0x7C1, 1), (0x323, 8)] }),
    2, 0, by decide⟩,
   ⟨((wHart .m 0x100).setHart 2 { (wHart .m 0x100).hart 2 with mode := .s, bankR := { mtvec := 0x401, mstatus := 8 } }), 2,
     by decide⟩,
   ⟨(wHart .m 0x100), 2, 0, by decide⟩,
   ⟨((wHart .m 0x100).setHart 2 { (wHart .m 0x100).hart 2 with mode := .vs, csrs := [(0x7C2, 4)] }), 2, 0, by decide⟩,
   ⟨((wHart .m 0x100).setHart 2 { (wHart .m 0x100).hart 2 with mode := .vs, csrs := [(0x7C2, 4), (0x302, 0x400000)] }), 2,
     0, by decide⟩,
   ⟨{ ((wHart .m 0x100).setHart 2 { (wHart .m 0x100).hart 2 with mode := .s, csrs := [(0x7C0, 3), (0x7C1, 0xFFFF01)], mismatches := [] }) with ticks := 600000 },
     2, 1, 4, by decide⟩,
   ⟨{ ((wHart .m 0x100).setHart 2 { (wHart .m 0x100).hart 2 with mode := .s, csrs := [(0x7C0, 3), (0x7C1, 0xFFFF01)], mismatches := [] }) with ticks := 600000 },
     2, 1, 0, by decide⟩,
   ⟨((wHart .m 0x100).setHart 2
     { (wHart .m 0x100).hart 2 with bankR := { mepc := 0x444, mstatus := 0x880 }, csrs := [(0x7C2, 3)] }), 2, by decide⟩,
   ⟨{ ((wHart .m 0x100).setHart 2 { (wHart .m 0x100).hart 2 with held := true, resetHalt := true }) with dbg := { isOpen := true } },
     2, by decide⟩,
   ⟨((wHart .m 0x100).setHart 2
     { (wHart .m 0x100).hart 2 with mode := .vs, bankR := { mtvec := 0x401, mie := 0x80 }, bankT := { mstatus := 8 }, csrs := [(0x7C2, 4), (0x7C3, 0)] }),
     2, 7, by decide⟩⟩

/-- States and operands that meet the hypotheses of `Obligations.HartControl`, part 2. -/
theorem meets_HartControl_2 :
    (∃ (s : State) (h : HartId) (dt : Bool), s.hartRuns h = true ∧ (s.hart h).mode = .m ∧ (s.hart h).world = true ∧ (s.hart
      h).pressEn = false ∧ dt = true)
    ∧ (∃ (s : State) (h : HartId) (dt : Bool), s.hartRuns h = true ∧ (s.hart h).mode = .m ∧ (s.hart h).world = true ∧
      (s.hart h).pressEn = false ∧ dt = false)
    ∧ (∃ (s : State) (h : HartId), s.hartRuns h = true ∧ (s.hart h).mode = .m ∧ (s.hart h).world = true ∧ (s.hart h).pressEn
      = true)
    ∧ (∃ (s : State) (h : HartId), s.hartRuns h = true ∧ (s.hart h).mode = .m ∧ (s.hart h).world = true)
    ∧ (∃ (s : State) (h : HartId), s.hartRuns h = true ∧ (s.hart h).mode = .m ∧ (s.hart h).world = false)
    ∧ (∃ (s : State) (h : HartId) (v : DWord), s.hartRuns h = true ∧ (s.hart h).mode = .m ∧ fld v 10 0 ≠ 0)
    ∧ (∃ (s : State) (h : HartId) (v : DWord), s.hartRuns h = true ∧ (s.hart h).mode = .m ∧ fld v 10 0 = 0)
    ∧ (∃ (s : State) (h : HartId) (key : BitVec 16), s.hartRuns h = true ∧ (s.hart h).mode = .m ∧ (s.hart h).world = true ∧
      s.fuse.dv = false ∧ s.fuse.mfgClosed = true ∧ key = 0x9640)
    ∧ (∃ (s : State) (h : HartId) (key : BitVec 16), s.hartRuns h = true ∧ (s.hart h).mode = .m ∧ (s.hart h).world = true ∧
      (s.fuse.dv = true ∨ s.fuse.mfgClosed = false ∨ key ≠ 0x9640))
    ∧ (∃ (s : State) (h : HartId) (rt : Bool), s.hartRuns h = true ∧ (s.hart h).mode = .m ∧ (s.hart h).world = true ∧
      s.fuse.dv = false ∧ s.bootRec.closeNext ≠ rt) :=
  ⟨⟨((wHart .m 0x100).setHart 2 { (wHart .m 0x100).hart 2 with f := [(7, 0x8000000000000001)] }), 2, true, by decide⟩,
   ⟨(wHart .m 0x100), 2, false, by decide⟩,
   ⟨((wHart .m 0x100).setHart 2 { (wHart .m 0x100).hart 2 with csrs := [(0x7C0, 1), (0x7C1, 1)] }), 2, by decide⟩,
   ⟨((wHart .m 0x100).setHart 2 { (wHart .m 0x100).hart 2 with csrs := [(0x7C0, 3), (0x7C1, 0xFF03)] }), 2, by decide⟩,
   ⟨((wHart .m 0x100).setHart 2 { (wHart .m 0x100).hart 2 with csrs := [(0x7C2, 4)], bankT := { mtvec := 0x800 } }), 2,
     by decide⟩,
   ⟨(wHart .m 0x100), 2, 0x5030409, by decide⟩,
   ⟨(wHart .m 0x100), 2, 0x5030000, by decide⟩,
   ⟨{ (wHart .m 0x100) with fuse := { mfgClosed := true } }, 2, 0x9640, by decide⟩,
   ⟨(wHart .m 0x100), 2, 0x9640, by decide⟩,
   ⟨(wHart .m 0x100), 2, true, by decide +kernel⟩⟩

/-- States and operands that meet the hypotheses of `Obligations.HartControl`, part 3. -/
theorem meets_HartControl_3 :
    (∃ (s : State) (h : HartId) (rt : Bool), s.hartRuns h = true ∧ (s.hart h).mode = .m ∧ (s.hart h).world = true ∧
      (s.fuse.dv = true ∨ s.bootRec.closeNext = rt))
    ∧ (∃ (s : State) (h : HartId), s.logicOn = true ∧ ((s.hart h).csr 0x7C3).toNat ≤ s.timeCsr)
    ∧ (∃ (s : State) (h : HartId), s.logicOn = true ∧ s.timeCsr < ((s.hart h).csr 0x7C3).toNat)
    ∧ (∃ (s : State) (x : Nat) (m : Msi), s.msis[x]? = some m ∧ m.hart < 8 ∧ m.file < 9 ∧ 1 ≤ m.eiid ∧ m.eiid ≤ 2047)
    ∧ (∃ (s : State) (rt : Bool) (r : Fin 39), s.logicOn = true ∧ r.val ≠ 0 ∧ (s.srcLevel r).getD rt = rt ∧ s.aplic.contains
      r.val ≠ rt ∧ s.aplMode (s.aplDom r) r ≠ 6)
    ∧ (∃ (s : State) (rt : Bool) (r : Fin 39), s.logicOn = true ∧ r.val ≠ 0 ∧ (s.srcLevel r).getD rt = rt ∧ s.aplic.contains
      r.val = false ∧ rt = true ∧ s.aplMode (s.aplDom r) r = 6 ∧ s.aplIe (s.aplDom r) r = true ∧ s.rb (aplA (s.aplDom r) 0)
      8 = true)
    ∧ (∃ (s : State) (rt : Bool) (r : Fin 39), s.logicOn = true ∧ r.val ≠ 0 ∧ (s.srcLevel r).getD rt = rt ∧ s.aplic.contains
      r.val = false ∧ rt = true ∧ s.aplMode (s.aplDom r) r = 6 ∧ (s.aplIe (s.aplDom r) r = false ∨ s.rb (aplA (s.aplDom r)
      0) 8 = false))
    ∧ (∃ (s : State) (rt : Bool) (r : Fin 39), s.logicOn = true ∧ r.val ≠ 0 ∧ (s.srcLevel r).getD rt = rt ∧ s.aplic.contains
      r.val = true ∧ rt = false ∧ s.aplMode (s.aplDom r) r = 6)
    ∧ (∃ (s : State) (h : HartId), s.hartRuns h = true ∧ s.dbg.isOpen = true ∧ (s.hart h).pressEn = false)
    ∧ (∃ (s : State) (h : HartId), s.hartRuns h = true ∧ s.dbg.isOpen = true ∧ (s.hart h).pressEn = true) :=
  ⟨⟨(wHart .m 0x100), 2, false, by decide +kernel⟩,
   ⟨{ ((wHart .m 0x100).setHart 2 { (wHart .m 0x100).hart 2 with csrs := [(0x7C3, 20)] }) with ticks := 400 }, 2,
     by decide⟩,
   ⟨{ ((wHart .m 0x100).setHart 2 { (wHart .m 0x100).hart 2 with csrs := [(0x7C3, 20)] }) with ticks := 399 }, 2,
     by decide⟩,
   ⟨{ (wHart .m 0x100) with msis := [⟨1, 0, 5⟩, ⟨2, 8, 2047⟩] }, 1, ⟨2, 8, 2047⟩, by decide⟩,
   ⟨(wHart .m 0x100), true, 32, by decide⟩,
   ⟨(((((wHart .m 0x100).wr (aplA 0 0) 0x100).wr (aplA 0 (32 * 4)) 6).wr (aplA 0 0x1E04) 1).wr (aplA 0 (0x3000 + 128))
     0x80009), true, 32, by decide⟩,
   ⟨((wHart .m 0x100).wr (aplA 0 (32 * 4)) 6), true, 32, by decide⟩,
   ⟨{ (((wHart .m 0x100).wr (aplA 0 (32 * 4)) 6).wr (aplA 0 0x1C04) 1) with aplic := [32] }, false, 32, by decide⟩,
   ⟨{ ((wHart .m 0x100).setHart 2 { (wHart .m 0x100).hart 2 with mode := .vs }) with dbg := { isOpen := true } }, 2,
     by decide⟩,
   ⟨{ ((wHart .m 0x100).setHart 2 { (wHart .m 0x100).hart 2 with csrs := [(0x7C0, 3), (0x7C1, 1)] }) with dbg := { isOpen := true } },
     2, by decide⟩⟩

/-- States and operands that meet the hypotheses of `Obligations.HartControl`, part 4. -/
theorem meets_HartControl_4 :
    (∃ (s : State) (h : HartId), s.hartRuns h = true ∧ s.dbg.isOpen = true ∧ (s.hart h).pressEn = false)
    ∧ (∃ (s : State) (h : HartId), s.hartRuns h = true ∧ s.dbg.isOpen = true ∧ (s.hart h).pressEn = true)
    ∧ (∃ (s : State) (h : HartId), s.logicOn = true ∧ s.dbg.isOpen = true ∧ s.hartRuns h = false)
    ∧ (∃ (s : State) (h : HartId), s.logicOn = true ∧ s.dbg.isOpen = true ∧ (s.hart h).halted = false)
    ∧ (∃ (s : State), s.logicOn = true ∧ s.dbg.isOpen = true)
    ∧ (∃ (s : State) (h : HartId), s.logicOn = true ∧ s.dbg.isOpen = true ∧ (s.hart h).halted = true)
    ∧ (∃ (s : State) (h : HartId) (x : Nat) (q : Fin 32), s.logicOn = true ∧ s.dbg.isOpen = true ∧ (s.hart h).halted = true
      ∧ x = 0x1000 + q.val)
    ∧ (∃ (s : State) (h : HartId) (x : Nat) (q : Fin 32), s.logicOn = true ∧ s.dbg.isOpen = true ∧ (s.hart h).halted = true
      ∧ x = 0x1000 + q.val)
    ∧ (∃ (s : State) (h : HartId) (x : Nat) (q : Fin 32), s.logicOn = true ∧ s.dbg.isOpen = true ∧ (s.hart h).halted = true
      ∧ x = 0x1020 + q.val)
    ∧ (∃ (s : State) (h : HartId) (x : Nat) (q : Fin 32), s.logicOn = true ∧ s.dbg.isOpen = true ∧ (s.hart h).halted = true
      ∧ x = 0x1020 + q.val) :=
  ⟨⟨{ ((wHart .m 0x100).setHart 2 { (wHart .m 0x100).hart 2 with mode := .vs }) with dbg := { isOpen := true } }, 2,
    by decide⟩,
   ⟨{ ((wHart .m 0x100).setHart 2 { (wHart .m 0x100).hart 2 with csrs := [(0x7C0, 3), (0x7C1, 1)] }) with dbg := { isOpen := true } },
     2, by decide⟩,
   ⟨{ ((wHart .m 0x100).setHart 2 { (wHart .m 0x100).hart 2 with halted := true }) with dbg := { isOpen := true } }, 2,
     by decide⟩,
   ⟨{ (wHart .m 0x100) with dbg := { isOpen := true } }, 2, by decide⟩,
   ⟨{ (wHart .m 0x100) with dbg := { isOpen := true } }, by decide⟩,
   ⟨{ ((wHart .m 0x100).setHart 2 { (wHart .m 0x100).hart 2 with halted := true, csrs := [(0x7B0, 0x21), (0x7B1, 0x500)] }) with dbg := { isOpen := true } },
     2, by decide⟩,
   ⟨{ ((wHart .m 0x100).setHart 2 { (wHart .m 0x100).hart 2 with halted := true, csrs := [(0x7B0, 0x21), (0x7B1, 0x500)] }) with dbg := { isOpen := true } },
     2, 0x1003, 3, by decide⟩,
   ⟨{ ((wHart .m 0x100).setHart 2 { (wHart .m 0x100).hart 2 with halted := true, csrs := [(0x7B0, 0x21), (0x7B1, 0x500)] }) with dbg := { isOpen := true } },
     2, 0x1003, 3, by decide⟩,
   ⟨{ ((wHart .m 0x100).setHart 2 { (wHart .m 0x100).hart 2 with halted := true, csrs := [(0x7B0, 0x21), (0x7B1, 0x500)] }) with dbg := { isOpen := true } },
     2, 0x1023, 3, by decide⟩,
   ⟨{ ((wHart .m 0x100).setHart 2 { (wHart .m 0x100).hart 2 with halted := true, csrs := [(0x7B0, 0x21), (0x7B1, 0x500)] }) with dbg := { isOpen := true } },
     2, 0x1023, 3, by decide⟩⟩

/-- States and operands that meet the hypotheses of `Obligations.HartControl`, part 5. -/
theorem meets_HartControl_5 :
    (∃ (s : State) (h : HartId) (x : Nat), s.logicOn = true ∧ s.dbg.isOpen = true ∧ (s.hart h).halted = true ∧ x = 0x340 ∧
      (s.hart h).mode = .m)
    ∧ (∃ (s : State) (h : HartId), s.logicOn = true ∧ s.dbg.isOpen = true ∧ (s.hart h).halted = false)
    ∧ (∃ (s : State), s.logicOn = true ∧ s.dbg.isOpen = true)
    ∧ (∃ (s : State), s.logicOn = true ∧ s.dbg.isOpen = true)
    ∧ (∃ (s : State) (h : HartId) (v : DWord) (i : HartStep) (q : Fin 32), s.logicOn = true ∧ s.dbg.isOpen = true ∧ (s.hart
      h).halted = true ∧ (s.hart h).mode = .m ∧ (s.hart h).await = none ∧ i.op = .int .add q q (.imm v))
    ∧ (∃ (s : State) (h : HartId) (i : HartStep), s.logicOn = true ∧ s.dbg.isOpen = true ∧ (s.hart h).halted = true ∧
      (s.hart h).await = none ∧ (s.hart h).illegal? i = none ∧ ((s.perform h i (.dmiAccess (.progExec h i))).hart h).await =
      none ∧ ((s.perform h i (.dmiAccess (.progExec h i))).hart h).pc = (s.hart h).pc + BitVec.ofNat 64 i.len)
    ∧ (∃ (s : State) (h : HartId) (x : Nat) (i : HartStep), s.logicOn = true ∧ s.dbg.isOpen = true ∧ (s.hart h).halted =
      true ∧ (s.hart h).await = none ∧ (s.hart h).illegal? i = some x)
    ∧ (∃ (s : State) (addr : Addr) (n : Nat) (tf : Bool), s.logicOn = true ∧ s.dbg.isOpen = true ∧ tf = false ∧ within
      addr.toNat n 0x10000000 0x12000000 = true ∧ (n = 4 ∨ n = 8) ∧ addr.toNat % n = 0 ∧ s.mustWait 2 = false ∧ s.anyBad
      addr.toNat n = false)
    ∧ (∃ (s : State) (addr : Addr) (n : Nat), s.logicOn = true ∧ s.dbg.isOpen = true ∧ wordAligned addr.toNat n = true ∧
      (addr.toNat < 0x100000000 ∨ 0x200000000 ≤ addr.toNat) ∧ s.mustWait (waitPlace addr.toNat) = false)
    ∧ (∃ (s : State) (v : DWord) (addr : Addr) (n : Nat) (tf : Bool), s.logicOn = true ∧ s.dbg.isOpen = true ∧ wordAligned
      addr.toNat n = true ∧ (addr.toNat < 0x100000000 ∨ 0x200000000 ≤ addr.toNat) ∧ s.mustWait (waitPlace addr.toNat) =
      false ∧ (s.busWrite ⟨.debug, tf⟩ addr.toNat n v).2 = false) :=
  ⟨⟨{ ((wHart .m 0x100).setHart 2 { (wHart .m 0x100).hart 2 with halted := true, csrs := [(0x7B0, 0x21), (0x7B1, 0x500)] }) with dbg := { isOpen := true } },
    2, 0x340, by decide⟩,
   ⟨{ (wHart .m 0x100) with dbg := { isOpen := true } }, 2, by decide⟩,
   ⟨{ (wHart .m 0x100) with dbg := { isOpen := true } }, by decide⟩,
   ⟨{ wOn with dbg := { isOpen := true, prog := [(3, 0x13)] } }, by decide⟩,
   ⟨{ ((wHart .m 0x100).setHart 2 { (wHart .m 0x100).hart 2 with halted := true, csrs := [(0x7B0, 0x21), (0x7B1, 0x500)] }) with dbg := { isOpen := true } },
     2, 5, ({ op := .int .add 3 3 (.imm 5), compressed := true }), 3, by decide⟩,
   ⟨{ ((wHart .m 0x100).setHart 2 { (wHart .m 0x100).hart 2 with halted := true, mode := .m, pc := 0x100 }) with dbg := { isOpen := true } },
     2, ({ op := .csr .write 3 0x340 (.imm 5) }), by decide⟩,
   ⟨{ ((wHart .m 0x100).setHart 2 { (wHart .m 0x100).hart 2 with halted := true, csrs := [(0x7B0, 0x21), (0x7B1, 0x500)] }) with dbg := { isOpen := true } },
     2, 2, ({ op := .illegal 0 }), by decide⟩,
   ⟨{ (wOn.stLE 0x10000008 8 0x1122334455667788) with dbg := { isOpen := true } }, 0x10000008, 8, false, by decide⟩,
   ⟨{ wOn with dbg := { isOpen := true } }, 0x40020008, 4, by decide⟩,
   ⟨{ wOn with dbg := { isOpen := true } }, 5, 0x40020008, 4, false, by decide⟩⟩

/-- States and operands that meet the hypotheses of `Obligations.HartControl`, part 6. -/
theorem meets_HartControl_6 :
    (∃ (s : State) (addr : Addr) (n : Nat) (tf : Bool), s.logicOn = true ∧ s.dbg.isOpen = true ∧ tf = false ∧ within
      addr.toNat n 0x10000000 0x12000000 = true ∧ (n = 4 ∨ n = 8) ∧ addr.toNat % n = 0 ∧ s.mustWait 2 = false)
    ∧ (∃ (s : State) (addr : Addr) (n : Nat) (tf : Bool), s.logicOn = true ∧ s.dbg.isOpen = false ∧ s.dbg.load = true ∧
      s.boot.provisioned = false ∧ tf = false ∧ within addr.toNat n 0x10000000 0x12000000 = true ∧ (n = 4 ∨ n = 8) ∧
      addr.toNat % n = 0 ∧ s.mustWait 2 = false)
    ∧ (∃ (s : State), s.logicOn = true ∧ s.dbg.isOpen = false) :=
  ⟨⟨{ wOn with dbg := { isOpen := true } }, 0x10000008, 8, false, by decide⟩,
   ⟨{ wOn with dbg := { load := true } }, 0x10000008, 4, false, by decide⟩,
   ⟨wOn, by decide⟩⟩

/-- States and operands that meet the hypotheses of `Obligations.KeyStore`, part 1. -/
theorem meets_KeyStore_1 :
    (∃ (s : State) (a : Acc), Reaches s a kstBase ∧ Manager s a ∧ s.rb (kstBase + 0x10) 31 = false ∧ sramSpan s.kstAddr 5600
      = false)
    ∧ (∃ (s : State) (a : Acc), Reaches s a kstBase ∧ Manager s a ∧ s.rb (kstBase + 0x10) 31 = false ∧ sramSpan s.kstAddr
      5600 = true ∧ s.anyBad s.kstAddr 5600 = true)
    ∧ (∃ (s : State) (a : Acc) (c : Nat), Reaches s a kstBase ∧ Manager s a ∧ s.rb (kstBase + 0x10) 31 = false ∧ sramSpan
      s.kstAddr 5600 = true ∧ s.anyBad s.kstAddr 5600 = false ∧ s.msgCheck (s.img s.kstAddr) = c ∧ c ≠ 0)
    ∧ (∃ (s : State) (a : Acc), Reaches s a kstBase ∧ Manager s a ∧ NoHart a ∧ s.rb (kstBase + 0x10) 31 = true)
    ∧ (∃ (s : State) (a : Acc) (n : BitVec 8), Reaches s a kstBase ∧ Manager s a ∧ s.rb (kstBase + 0x10) 31 = false ∧ 192 ≤
      n.toNat ∧ SlotAlone s n.toNat ∧ (∀ j ∈ s.cph.jobs, j.slot = n.toNat → j.holds = true))
    ∧ (∃ (s : State) (a : Acc) (n : BitVec 8), Reaches s a kstBase ∧ Manager s a ∧ s.rb (kstBase + 0x10) 31 = false ∧ 16 ≤
      n.toNat ∧ s.slState n.toNat ≠ 4)
    ∧ (∃ (s : State) (a : Acc) (n : BitVec 8), Reaches s a kstBase ∧ Manager s a ∧ s.rb (kstBase + 0x10) 31 = false ∧
      persistent n.toNat = true ∧ s.slState n.toNat ≠ 4 ∧ SlotAlone s n.toNat ∧ (∀ j ∈ s.cph.jobs, j.slot = n.toNat →
      j.holds = true))
    ∧ (∃ (s : State) (a : Acc) (n : BitVec 8), Reaches s a kstBase ∧ Manager s a ∧ s.rb (kstBase + 0x10) 31 = false ∧
      (n.toNat < 16 ∨ s.slState n.toNat = 4))
    ∧ (∃ (s : State) (a : Acc) (n : BitVec 8), Reaches s a kstBase ∧ Manager s a ∧ s.rb (kstBase + 0x10) 31 = false ∧
      (s.fuse.dv = true ∨ s.fuse.mfgClosed = false) ∧ persistent n.toNat = true ∧ s.slState n.toNat ≠ 4 ∧ sramSpan s.kstAddr
      88 = true ∧ imgLE (s.img s.kstAddr) 5 1 = n.toNat ∧ s.anyBad s.kstAddr 88 = false ∧ Machine.sizeOf (imgLE (s.img
      s.kstAddr) 4 1) ≠ 4)
    ∧ (∃ (s : State) (a : Acc) (n : BitVec 8), Reaches s a kstBase ∧ Manager s a ∧ s.rb (kstBase + 0x10) 31 = false ∧
      (s.fuse.dv = true ∨ s.fuse.mfgClosed = false) ∧ persistent n.toNat = true ∧ s.slState n.toNat ≠ 4 ∧ sramSpan s.kstAddr
      88 = true ∧ imgLE (s.img s.kstAddr) 5 1 = n.toNat ∧ s.anyBad s.kstAddr 88 = false ∧ (imgLE (s.img s.kstAddr) 4 1) = 0)
      :=
  ⟨⟨wOn, mgr, by decide⟩,
   ⟨{ (wOn.wr (kstBase + 8) 0x10000000) with eccBad := [0x10000008] }, mgr, by decide +kernel⟩,
   ⟨(wOn.wr (kstBase + 8) 0x10000000), mgr, 1, by decide +kernel⟩,
   ⟨(wOn.wr (kstBase + 0x10) 0x80000000), mgr, by decide⟩,
   ⟨{ ((wOn.wr (slA 200 4) 0x201).wr (slA 200 8) 1).setSlot 200 { key := [1], gen := 4 } with cph := { jobs := [{ entry := 3, tid := 5, w := false, cask := 9, desc := 0, descAt := 0, op := 1, mode := 4, slot := 200, flags := 0, ctx := 0, dstSlot := 0, keyLen := 0, tagLen := 0, srcLen := 0, aadLen := 0, src := 0, dst := 0, aad := 0, iv := [], attr := 0, phase := .active }, { entry := 3, tid := 5, w := false, cask := 9, desc := 0, descAt := 0, op := 1, mode := 4, slot := 20, flags := 0, ctx := 0, dstSlot := 0, keyLen := 0, tagLen := 0, srcLen := 0, aadLen := 0, src := 0, dst := 0, aad := 0, iv := [], attr := 0, phase := .active }], ctxs := [(0, some { tid := 5, w := false, mode := 4, flags := 0, slot := 200, gen := 4 })] } },
     mgr, 200, by decide⟩,
   ⟨{ ((((wOn.wr (slA 20 4) 0x208).wr (slA 20 8) 1).wr (slA 200 4) 0x201).wr (slA 200 8) 0x11401) with cph := { jobs := [{ entry := 3, tid := 5, w := false, cask := 9, desc := 0, descAt := 0, op := 1, mode := 4, slot := 20, flags := 0, ctx := 0, dstSlot := 0, keyLen := 0, tagLen := 0, srcLen := 0, aadLen := 0, src := 0, dst := 0, aad := 0, iv := [], attr := 0, phase := .active }, { entry := 3, tid := 5, w := false, cask := 9, desc := 0, descAt := 0, op := 1, mode := 4, slot := 21, flags := 0, ctx := 0, dstSlot := 0, keyLen := 0, tagLen := 0, srcLen := 0, aadLen := 0, src := 0, dst := 0, aad := 0, iv := [], attr := 0, phase := .active }], ctxs := [(0, some { tid := 5, w := false, mode := 4, flags := 0, slot := 20, gen := 4 })] }, esw := { sas := [(64, { en := true, slot := 20 })] } },
     mgr, 20, by decide⟩,
   ⟨(((wOn.wr (slA 20 4) 0x201).wr (slA 20 8) 1).setSlot 20 { key := [1], gen := 4, win := some true }), mgr, 20,
     by decide⟩,
   ⟨wOn, mgr, 15, by decide⟩,
   ⟨(((wOn.wr (kstBase + 8) 0x10000000).stLE 0x10000000 6 0x142000000201).stLE 0x10000018 8 0x1122334455667788), mgr, 20,
     by decide⟩,
   ⟨{ ((wOn.wr (kstBase + 8) 0x10000000).stLE 0x10000000 6 0x140000000201) with cph := { jobs := [{ entry := 3, tid := 5, w := false, cask := 9, desc := 0, descAt := 0, op := 1, mode := 4, slot := 20, flags := 0, ctx := 0, dstSlot := 0, keyLen := 0, tagLen := 0, srcLen := 0, aadLen := 0, src := 0, dst := 0, aad := 0, iv := [], attr := 0, phase := .active }] } },
     mgr, 20, by decide⟩⟩

/-- States and operands that meet the hypotheses of `Obligations.KeyStore`, part 2. -/
theorem meets_KeyStore_2 :
    (∃ (s : State) (a : Acc) (n : BitVec 8), Reaches s a kstBase ∧ Manager s a ∧ s.rb (kstBase + 0x10) 31 = false ∧
      (s.fuse.dv = true ∨ s.fuse.mfgClosed = false) ∧ persistent n.toNat = true ∧ s.slState n.toNat ≠ 4 ∧ sramSpan s.kstAddr
      88 = true ∧ imgLE (s.img s.kstAddr) 5 1 = n.toNat ∧ s.anyBad s.kstAddr 88 = false ∧ SlotAlone s n.toNat ∧
      Machine.sizeOf (imgLE (s.img s.kstAddr) 4 1) ≠ 4 ∧ (∀ j ∈ s.cph.jobs, j.slot ≠ n.toNat) ∧ s.slotUse n.toNat = 0)
    ∧ (∃ (s : State) (a : Acc) (n : BitVec 8), Reaches s a kstBase ∧ Manager s a ∧ s.rb (kstBase + 0x10) 31 = false ∧
      (s.fuse.dv = true ∨ s.fuse.mfgClosed = false) ∧ persistent n.toNat = true ∧ s.slState n.toNat ≠ 4 ∧ sramSpan s.kstAddr
      88 = true ∧ imgLE (s.img s.kstAddr) 5 1 = n.toNat ∧ s.anyBad s.kstAddr 88 = false ∧ SlotAlone s n.toNat ∧
      Machine.sizeOf (imgLE (s.img s.kstAddr) 4 1) ≠ 4 ∧ (∀ j ∈ s.cph.jobs, j.slot = n.toNat → j.phase = .active) ∧
      s.slotUse n.toNat ≠ 0)
    ∧ (∃ (s : State) (a : Acc) (n : BitVec 8), Reaches s a kstBase ∧ Manager s a ∧ s.rb (kstBase + 0x10) 31 = false ∧
      (s.fuse.dv = true ∨ s.fuse.mfgClosed = false) ∧ persistent n.toNat = true ∧ s.slState n.toNat ≠ 4 ∧ sramSpan s.kstAddr
      88 = true ∧ imgLE (s.img s.kstAddr) 5 1 = n.toNat ∧ s.anyBad s.kstAddr 88 = false ∧ SlotAlone s n.toNat ∧ (imgLE
      (s.img s.kstAddr) 4 1) = 0 ∧ (∀ j ∈ s.cph.jobs, j.slot = n.toNat → j.holds = true))
    ∧ (∃ (s : State) (a : Acc), Reaches s a kstBase ∧ Manager s a ∧ s.rb (kstBase + 0x10) 31 = false ∧ s.fuse.dv = false ∧
      s.fuse.mfgClosed = true)
    ∧ (∃ (s : State) (a : Acc) (n : BitVec 8), Reaches s a kstBase ∧ Manager s a ∧ s.rb (kstBase + 0x10) 31 = false ∧
      (s.fuse.dv = true ∨ s.fuse.mfgClosed = false) ∧ (persistent n.toNat = true → s.slState n.toNat ≠ 4) ∧ (persistent
      n.toNat = false ∨ sramSpan s.kstAddr 88 = false ∨ imgLE (s.img s.kstAddr) 5 1 ≠ n.toNat ∨ (imgLE (s.img s.kstAddr) 4
      1) ≠ 0 ∧ Machine.sizeOf (imgLE (s.img s.kstAddr) 4 1) = 4))
    ∧ (∃ (s : State) (a : Acc) (n : BitVec 8), Reaches s a (slA n.toNat 0xC) ∧ Manager s a ∧ persistent n.toNat = true ∧
      s.slState n.toNat ≠ 4)
    ∧ (∃ (s : State) (a : Acc) (n : BitVec 8), Reaches s a (slA n.toNat 0xC) ∧ Manager s a ∧ NoHart a ∧ persistent n.toNat =
      false)
    ∧ (∃ (s : State) (a : Acc) (n : BitVec 8), Reaches s a (slA n.toNat 0xC) ∧ Manager s a ∧ NoHart a ∧ persistent n.toNat =
      true ∧ s.slState n.toNat = 4)
    ∧ (∃ (s : State) (k : KstCommit) (f : SlotFill), s.logicOn = true ∧ s.accepts 8 = true ∧ s.kst.commit = some k ∧ k.fill
      = some f)
    ∧ (∃ (s : State) (k : KstCommit), s.logicOn = true ∧ s.accepts 8 = true ∧ s.kst.commit = some k ∧ k.fill = none) :=
  ⟨⟨(((wOn.wr (kstBase + 8) 0x10000000).stLE 0x10000000 6 0x142000000201).stLE 0x10000018 8 0x1122334455667788), mgr, 20,
    by decide⟩,
   ⟨{ ((((wOn.wr (kstBase + 8) 0x10000000).stLE 0x10000000 6 0x142000000201).stLE 0x10000018 8 0x1122334455667788).wr (slA 20 8) 1) with cph := { jobs := [{ entry := 3, tid := 5, w := false, cask := 9, desc := 0, descAt := 0, op := 1, mode := 4, slot := 20, flags := 0, ctx := 0, dstSlot := 0, keyLen := 0, tagLen := 0, srcLen := 0, aadLen := 0, src := 0, dst := 0, aad := 0, iv := [], attr := 0, phase := .active }] } },
     mgr, 20, by decide⟩,
   ⟨((wOn.wr (kstBase + 8) 0x10000000).stLE 0x10000000 6 0x140000000201), mgr, 20, by decide⟩,
   ⟨{ (((wOn.wr (kstBase + 8) 0x10000000).stLE 0x10000000 6 0x142000000201).stLE 0x10000018 8 0x1122334455667788) with fuse := { mfgClosed := true } },
     mgr, by decide⟩,
   ⟨(((wOn.wr (kstBase + 8) 0x10000000).stLE 0x10000000 6 0x142000000201).stLE 0x10000018 8 0x1122334455667788), mgr, 21,
     by decide⟩,
   ⟨(wOn.setSlot 20 { win := some true, staged := some { key := [1], attr := 0 } }), mgr, 20, by decide⟩,
   ⟨wOn, mgr, 15, by decide⟩,
   ⟨(wOn.wr (slA 20 8) 4), mgr, 20, by decide⟩,
   ⟨{ wOn with kst := { commit := some ⟨20, List.replicate 0x70 1, some { key := [1], attr := 0x201, grant := 0xFFFFFFFF }⟩ }, cph := { jobs := [{ entry := 3, tid := 5, w := false, cask := 9, desc := 0, descAt := 0, op := 1, mode := 4, slot := 20, flags := 0, ctx := 0, dstSlot := 0, keyLen := 0, tagLen := 0, srcLen := 0, aadLen := 0, src := 0, dst := 0, aad := 0, iv := [], attr := 0, phase := .active }] } },
     ⟨20, List.replicate 0x70 1, some { key := [1], attr := 0x201, grant := 0xFFFFFFFF }⟩,
     ({ key := [1], attr := 0x201, grant := 0xFFFFFFFF }), by decide⟩,
   ⟨{ wOn with kst := { commit := some ⟨20, recErased 20 7 0x80000005, none⟩ }, cph := { jobs := [{ entry := 3, tid := 5, w := false, cask := 9, desc := 0, descAt := 0, op := 1, mode := 4, slot := 20, flags := 0, ctx := 0, dstSlot := 0, keyLen := 0, tagLen := 0, srcLen := 0, aadLen := 0, src := 0, dst := 0, aad := 0, iv := [], attr := 0, phase := .invWait }] } },
     ⟨20, recErased 20 7 0x80000005, none⟩, by decide⟩⟩

/-- States and operands that meet the hypotheses of `Obligations.KeyStore`, part 3. -/
theorem meets_KeyStore_3 :
    (∃ (s : State) (k : KstCommit) (f : SlotFill), s.logicOn = true ∧ s.accepts 8 = true ∧ s.kst.commit = some k ∧ k.fill =
      some f ∧ k.record.length = 0x70 ∧ persistent k.slot = true ∧ SlotAlone s k.slot ∧ (∀ j ∈ s.cph.jobs, j.slot ≠ k.slot)
      ∧ s.slotUse k.slot = 0)
    ∧ (∃ (s : State) (k : KstCommit), s.logicOn = true ∧ s.accepts 8 = true ∧ s.kst.commit = some k ∧ k.fill = none ∧
      k.record.length = 0x70 ∧ persistent k.slot = true ∧ SlotAlone s k.slot ∧ (∀ j ∈ s.cph.jobs, j.slot = k.slot → j.holds
      = true))
    ∧ (∃ (s : State) (n : BitVec 8) (ok : Bool), s.logicOn = true ∧ s.accepts 8 = true ∧ ok = true ∧ s.slState n.toNat ≠ 3 ∧
      s.slState n.toNat ≠ 4 ∧ (persistent n.toNat = false ∨ (s.slot n.toNat).staged.isSome = true) ∧ SlotAlone s n.toNat ∧
      (∀ j ∈ s.cph.jobs, j.slot = n.toNat → j.holds = true))
    ∧ (∃ (s : State) (n : BitVec 8) (ok b : Bool), s.logicOn = true ∧ s.accepts 8 = true ∧ ok = true ∧ s.slState n.toNat ≠ 3
      ∧ s.slState n.toNat ≠ 4 ∧ persistent n.toNat = true ∧ (s.slot n.toNat).staged = none ∧ (s.slot n.toNat).win = some b ∧
      SlotAlone s n.toNat ∧ (∀ j ∈ s.cph.jobs, j.slot = n.toNat → j.holds = true))
    ∧ (∃ (s : State) (n : BitVec 8) (ok : Bool), s.logicOn = true ∧ s.accepts 8 = true ∧ ok = true ∧ s.slState n.toNat ≠ 3 ∧
      s.slState n.toNat ≠ 4)
    ∧ (∃ (s : State) (n : BitVec 8) (ok : Bool), ok = false ∨ s.slState n.toNat = 3 ∨ s.slState n.toNat = 4)
    ∧ (∃ (s : State) (n : BitVec 8) (f : SlotFill), s.logicOn = true ∧ s.accepts 8 = true ∧ (s.slot n.toNat).staged = some f
      ∧ s.slotUse n.toNat = 0)
    ∧ (∃ (s : State) (n : BitVec 8) (c : Nat) (f : SlotFill) (j : CphJob) (r : List CphJob), s.logicOn = true ∧ s.accepts 8
      = true ∧ (s.slot n.toNat).staged = some f ∧ s.slotUse n.toNat = 0 ∧ SlotAlone s n.toNat ∧ s.cph.jobs = j :: r ∧ j.slot
      = n.toNat ∧ j.phase = .waiting c ∧ (∀ q ∈ r, q.slot ≠ n.toNat))
    ∧ (∃ (s : State) (n : BitVec 8), s.logicOn = true ∧ s.accepts 8 = true ∧ ((s.slot n.toNat).staged = none ∨ s.slotUse
      n.toNat ≠ 0))
    ∧ (∃ (s : State) (n : BitVec 8) (ok : Bool), s.logicOn = true ∧ s.accepts 8 = true ∧ (∃ y ∈ s.cph.jobs, (y.slot =
      n.toNat ∧ y.phase = .invWait)) ∧ ok = true) :=
  ⟨⟨{ wOn with kst := { commit := some ⟨20, List.replicate 0x70 1, some { key := [1], attr := 0x201 }⟩ } }, ⟨20,
    List.replicate 0x70 1, some { key := [1], attr := 0x201 }⟩, ({ key := [1], attr := 0x201 }), by decide⟩,
   ⟨{ wOn with kst := { commit := some ⟨20, recErased 20 7 0x80000005, none⟩ }, cph := { jobs := [{ entry := 3, tid := 5, w := false, cask := 9, desc := 0, descAt := 0, op := 1, mode := 4, slot := 20, flags := 0, ctx := 0, dstSlot := 0, keyLen := 0, tagLen := 0, srcLen := 0, aadLen := 0, src := 0, dst := 0, aad := 0, iv := [], attr := 0, phase := .invWait }] } },
     ⟨20, recErased 20 7 0x80000005, none⟩, by decide⟩,
   ⟨{ ((wOn.wr (slA 200 4) 0x201).wr (slA 200 8) 1) with cph := { jobs := [{ entry := 3, tid := 5, w := false, cask := 9, desc := 0, descAt := 0, op := 1, mode := 4, slot := 200, flags := 0, ctx := 0, dstSlot := 0, keyLen := 0, tagLen := 0, srcLen := 0, aadLen := 0, src := 0, dst := 0, aad := 0, iv := [], attr := 0, phase := .active }] } },
     200, true, by decide⟩,
   ⟨((wOn.wr (slA 20 8) 1).setSlot 20 { win := some true }), 20, true, true, by decide⟩,
   ⟨{ ((((wOn.wr (slA 20 4) 0x208).wr (slA 20 8) 1).wr (slA 200 4) 0x201).wr (slA 200 8) 0x11401) with cph := { jobs := [{ entry := 3, tid := 5, w := false, cask := 9, desc := 0, descAt := 0, op := 1, mode := 4, slot := 20, flags := 0, ctx := 0, dstSlot := 0, keyLen := 0, tagLen := 0, srcLen := 0, aadLen := 0, src := 0, dst := 0, aad := 0, iv := [], attr := 0, phase := .active }, { entry := 3, tid := 5, w := false, cask := 9, desc := 0, descAt := 0, op := 1, mode := 4, slot := 21, flags := 0, ctx := 0, dstSlot := 0, keyLen := 0, tagLen := 0, srcLen := 0, aadLen := 0, src := 0, dst := 0, aad := 0, iv := [], attr := 0, phase := .active }], ctxs := [(0, some { tid := 5, w := false, mode := 4, flags := 0, slot := 20, gen := 4 })] }, esw := { sas := [(64, { en := true, slot := 20 })] } },
     20, true, by decide⟩,
   ⟨wOn, 20, false, by decide⟩,
   ⟨{ (((wOn.wr (slA 20 8) 2).wr (slA 200 8) 0x11401).setSlot 20 { staged := some { key := [7], attr := 0x201, inv := 9, grant := 5 } }) with cph := { jobs := [{ entry := 3, tid := 5, w := false, cask := 9, desc := 0, descAt := 0, op := 1, mode := 4, slot := 20, flags := 0, ctx := 0, dstSlot := 0, keyLen := 0, tagLen := 0, srcLen := 0, aadLen := 0, src := 0, dst := 0, aad := 0, iv := [], attr := 0, phase := .waiting 8 }, { entry := 3, tid := 5, w := false, cask := 9, desc := 0, descAt := 0, op := 1, mode := 4, slot := 200, flags := 0, ctx := 0, dstSlot := 0, keyLen := 0, tagLen := 0, srcLen := 0, aadLen := 0, src := 0, dst := 0, aad := 0, iv := [], attr := 0, phase := .active }] } },
     20, ({ key := [7], attr := 0x201, inv := 9, grant := 5 }), by decide⟩,
   ⟨{ ((wOn.wr (slA 20 8) 2).setSlot 20 { staged := some { key := [7], attr := 0x201, inv := 9, grant := 5 } }) with cph := { jobs := [{ entry := 3, tid := 5, w := false, cask := 9, desc := 0, descAt := 0, op := 1, mode := 4, slot := 20, flags := 0, ctx := 0, dstSlot := 0, keyLen := 0, tagLen := 0, srcLen := 0, aadLen := 0, src := 0, dst := 0, aad := 0, iv := [], attr := 0, phase := .waiting 8 }, { entry := 3, tid := 5, w := false, cask := 9, desc := 0, descAt := 0, op := 1, mode := 4, slot := 21, flags := 0, ctx := 0, dstSlot := 0, keyLen := 0, tagLen := 0, srcLen := 0, aadLen := 0, src := 0, dst := 0, aad := 0, iv := [], attr := 0, phase := .active }] } },
     20, 8, ({ key := [7], attr := 0x201, inv := 9, grant := 5 }),
     ({ entry := 3, tid := 5, w := false, cask := 9, desc := 0, descAt := 0, op := 1, mode := 4, slot := 20, flags := 0, ctx := 0, dstSlot := 0, keyLen := 0, tagLen := 0, srcLen := 0, aadLen := 0, src := 0, dst := 0, aad := 0, iv := [], attr := 0, phase := .waiting 8 }),
     ([{ entry := 3, tid := 5, w := false, cask := 9, desc := 0, descAt := 0, op := 1, mode := 4, slot := 21, flags := 0, ctx := 0, dstSlot := 0, keyLen := 0, tagLen := 0, srcLen := 0, aadLen := 0, src := 0, dst := 0, aad := 0, iv := [], attr := 0, phase := .active }]),
     by decide⟩,
   ⟨wOn, 20, by decide +kernel⟩,
   ⟨{ (wOn.setSlot 20 { win := some true, resv := 2 ^ 64 - 5 }) with cph := { jobs := [{ entry := 3, tid := 5, w := false, cask := 9, desc := 0, descAt := 0, op := 1, mode := 4, slot := 20, flags := 0, ctx := 0, dstSlot := 0, keyLen := 0, tagLen := 0, srcLen := 0, aadLen := 0, src := 0, dst := 0, aad := 0, iv := [], attr := 0, phase := .invWait }, { entry := 3, tid := 5, w := false, cask := 9, desc := 0, descAt := 0, op := 1, mode := 4, slot := 21, flags := 0, ctx := 0, dstSlot := 0, keyLen := 0, tagLen := 0, srcLen := 0, aadLen := 0, src := 0, dst := 0, aad := 0, iv := [], attr := 0, phase := .invWait }] } },
     20, true, by decide⟩⟩

/-- States and operands that meet the hypotheses of `Obligations.KeyStore`, part 4. -/
theorem meets_KeyStore_4 :
    (∃ (s : State) (n : BitVec 8) (ok : Bool), s.logicOn = true ∧ s.accepts 8 = true ∧ (∃ y ∈ s.cph.jobs, (y.slot = n.toNat
      ∧ y.phase = .invWait)) ∧ ok = false)
    ∧ (∃ (s : State) (n : BitVec 8) (ok b : Bool) (j : CphJob) (r : List CphJob), s.logicOn = true ∧ s.accepts 8 = true ∧
      s.cph.jobs = j :: r ∧ j.slot = n.toNat ∧ j.phase = .invWait ∧ (∀ q ∈ r, q.slot ≠ n.toNat) ∧ ok = true ∧ (s.slot
      n.toNat).win = some b)
    ∧ (∃ (s : State) (n : BitVec 8) (ok : Bool) (j : CphJob) (r : List CphJob), s.logicOn = true ∧ s.accepts 8 = true ∧
      s.cph.jobs = j :: r ∧ j.slot = n.toNat ∧ j.phase = .invWait ∧ (∀ q ∈ r, q.slot ≠ n.toNat) ∧ ok = false)
    ∧ (∃ (s : State) (a : Acc), Reaches s a pkeBase ∧ Manager s a ∧ sramSpan ((s.rd (pkeBase + 8)).toNat + (s.rd (pkeBase +
      0xC)).toNat * 2 ^ 32) 5712 = true ∧ s.kst.signing = none ∧ s.kst.attFail = false)
    ∧ (∃ (s : State) (a : Acc), Reaches s a pkeBase ∧ Manager s a ∧ sramSpan ((s.rd (pkeBase + 8)).toNat + (s.rd (pkeBase +
      0xC)).toNat * 2 ^ 32) 5712 = true ∧ s.kst.signing = none ∧ s.kst.attFail = true)
    ∧ (∃ (s : State) (a : Acc), Reaches s a pkeBase ∧ Manager s a ∧ NoHart a ∧ sramSpan ((s.rd (pkeBase + 8)).toNat + (s.rd
      (pkeBase + 0xC)).toNat * 2 ^ 32) 5712 = false)
    ∧ (∃ (s : State) (a : Acc), Reaches s a pkeBase ∧ Manager s a ∧ NoHart a ∧ sramSpan ((s.rd (pkeBase + 8)).toNat + (s.rd
      (pkeBase + 0xC)).toNat * 2 ^ 32) 5712 = true ∧ s.kst.signing.isSome = true)
    ∧ (∃ (s : State) (l : List Byte) (x : Nat), s.logicOn = true ∧ s.accepts 8 = true ∧ s.kst.signing = some (l, x))
    ∧ (∃ (s : State), s.logicOn = true ∧ s.accepts 8 = true ∧ s.kst.signing.isSome = true) :=
  ⟨⟨{ (wOn.setSlot 20 { win := some true, resv := 2 ^ 64 - 5 }) with cph := { jobs := [{ entry := 3, tid := 5, w := false, cask := 9, desc := 0, descAt := 0, op := 1, mode := 4, slot := 20, flags := 0, ctx := 0, dstSlot := 0, keyLen := 0, tagLen := 0, srcLen := 0, aadLen := 0, src := 0, dst := 0, aad := 0, iv := [], attr := 0, phase := .invWait }, { entry := 3, tid := 5, w := false, cask := 9, desc := 0, descAt := 0, op := 1, mode := 4, slot := 21, flags := 0, ctx := 0, dstSlot := 0, keyLen := 0, tagLen := 0, srcLen := 0, aadLen := 0, src := 0, dst := 0, aad := 0, iv := [], attr := 0, phase := .invWait }] } },
    20, false, by decide⟩,
   ⟨{ (wOn.setSlot 20 { win := some true, resv := 2 ^ 64 - 5 }) with cph := { jobs := [{ entry := 3, tid := 5, w := false, cask := 9, desc := 0, descAt := 0, op := 1, mode := 4, slot := 20, flags := 0, ctx := 0, dstSlot := 0, keyLen := 0, tagLen := 0, srcLen := 0, aadLen := 0, src := 0, dst := 0, aad := 0, iv := [], attr := 0, phase := .invWait }, { entry := 3, tid := 5, w := false, cask := 9, desc := 0, descAt := 0, op := 1, mode := 4, slot := 21, flags := 0, ctx := 0, dstSlot := 0, keyLen := 0, tagLen := 0, srcLen := 0, aadLen := 0, src := 0, dst := 0, aad := 0, iv := [], attr := 0, phase := .invWait }] } },
     20, true, true,
     ({ entry := 3, tid := 5, w := false, cask := 9, desc := 0, descAt := 0, op := 1, mode := 4, slot := 20, flags := 0, ctx := 0, dstSlot := 0, keyLen := 0, tagLen := 0, srcLen := 0, aadLen := 0, src := 0, dst := 0, aad := 0, iv := [], attr := 0, phase := .invWait }),
     ([{ entry := 3, tid := 5, w := false, cask := 9, desc := 0, descAt := 0, op := 1, mode := 4, slot := 21, flags := 0, ctx := 0, dstSlot := 0, keyLen := 0, tagLen := 0, srcLen := 0, aadLen := 0, src := 0, dst := 0, aad := 0, iv := [], attr := 0, phase := .invWait }]),
     by decide⟩,
   ⟨{ (wOn.setSlot 20 { win := some true, resv := 2 ^ 64 - 5 }) with cph := { jobs := [{ entry := 3, tid := 5, w := false, cask := 9, desc := 0, descAt := 0, op := 1, mode := 4, slot := 20, flags := 0, ctx := 0, dstSlot := 0, keyLen := 0, tagLen := 0, srcLen := 0, aadLen := 0, src := 0, dst := 0, aad := 0, iv := [], attr := 0, phase := .invWait }, { entry := 3, tid := 5, w := false, cask := 9, desc := 0, descAt := 0, op := 1, mode := 4, slot := 21, flags := 0, ctx := 0, dstSlot := 0, keyLen := 0, tagLen := 0, srcLen := 0, aadLen := 0, src := 0, dst := 0, aad := 0, iv := [], attr := 0, phase := .invWait }] } },
     20, false,
     ({ entry := 3, tid := 5, w := false, cask := 9, desc := 0, descAt := 0, op := 1, mode := 4, slot := 20, flags := 0, ctx := 0, dstSlot := 0, keyLen := 0, tagLen := 0, srcLen := 0, aadLen := 0, src := 0, dst := 0, aad := 0, iv := [], attr := 0, phase := .invWait }),
     ([{ entry := 3, tid := 5, w := false, cask := 9, desc := 0, descAt := 0, op := 1, mode := 4, slot := 21, flags := 0, ctx := 0, dstSlot := 0, keyLen := 0, tagLen := 0, srcLen := 0, aadLen := 0, src := 0, dst := 0, aad := 0, iv := [], attr := 0, phase := .invWait }]),
     by decide⟩,
   ⟨(wOn.wr (pkeBase + 8) 0x10000000), mgr, by decide⟩,
   ⟨{ (wOn.wr (pkeBase + 8) 0x10000000) with kst := { attFail := true } }, mgr, by decide⟩,
   ⟨(wOn.wr (pkeBase + 8) 0x11FFE9B8), mgr, by decide⟩,
   ⟨{ (wOn.wr (pkeBase + 8) 0x10000000) with kst := { signing := some ([], 0) } }, mgr, by decide⟩,
   ⟨{ (wOn.wr pkeBase 1) with kst := { signing := some (List.replicate 0x900 0, 0x10000000) } }, (List.replicate 0x900 0),
     0x10000000, by decide +kernel⟩,
   ⟨{ (wOn.wr pkeBase 1) with kst := { signing := some ([], 0) } }, by decide⟩⟩

/-- States and operands that meet the hypotheses of `Obligations.CipherEngine`, part 1. -/
theorem meets_CipherEngine_1 :
    (∃ (s : State) (e : Fin 64) (j : CphJob) (c : Nat) (q : CphCtx), JobRuns s e.val j ∧ j.op = 1 ∧ j.flag 1 = true ∧
      s.jobCtx j = some q ∧ s.jobCheck j q = none ∧ s.sliceAdmits .cphCtx j.tid = true ∧ firstBelow 64 (fun k => (s.ctx
      k).isNone) = some c ∧ s.jobKey q = none ∧ s.anyBad j.src (j.spans q).1 = false ∧ s.anyBad j.dst (j.spans q).2.1 =
      false ∧ s.anyBad j.aad (if q.mode = 4 ∧ j.flag 1 = true then j.aadLen else 0) = false ∧ c ≠ 255 ∧ q.mode ≤ 3)
    ∧ (∃ (s : State) (e : Fin 64) (j : CphJob) (c : Nat) (q : CphCtx), JobRuns s e.val j ∧ j.op = 2 ∧ j.flag 1 = true ∧
      s.jobCtx j = some q ∧ s.jobCheck j q = none ∧ s.sliceAdmits .cphCtx j.tid = true ∧ firstBelow 64 (fun k => (s.ctx
      k).isNone) = some c ∧ s.jobKey q = none ∧ s.anyBad j.src (j.spans q).1 = false ∧ s.anyBad j.dst (j.spans q).2.1 =
      false ∧ s.anyBad j.aad (if q.mode = 4 ∧ j.flag 1 = true then j.aadLen else 0) = false ∧ q.mode = 5 ∧ c ≠ 255 ∧ j.flag
      2 = false)
    ∧ (∃ (s : State) (e : Fin 64) (j : CphJob) (c : Nat) (q : CphCtx), JobRuns s e.val j ∧ j.op = 2 ∧ j.flag 1 = true ∧
      s.jobCtx j = some q ∧ s.jobCheck j q = none ∧ s.sliceAdmits .cphCtx j.tid = true ∧ firstBelow 64 (fun k => (s.ctx
      k).isNone) = some c ∧ s.jobKey q = none ∧ s.anyBad j.src (j.spans q).1 = false ∧ s.anyBad j.dst (j.spans q).2.1 =
      false ∧ s.anyBad j.aad (if q.mode = 4 ∧ j.flag 1 = true then j.aadLen else 0) = false ∧ q.mode = 5 ∧ c ≠ 255 ∧ j.flag
      2 = true ∧ q.flags.testBit 0 = false)
    ∧ (∃ (s : State) (e : Fin 64) (j : CphJob) (c : Nat) (q : CphCtx), JobRuns s e.val j ∧ j.op = 2 ∧ j.flag 1 = true ∧
      s.jobCtx j = some q ∧ s.jobCheck j q = none ∧ s.sliceAdmits .cphCtx j.tid = true ∧ firstBelow 64 (fun k => (s.ctx
      k).isNone) = some c ∧ s.jobKey q = none ∧ s.anyBad j.src (j.spans q).1 = false ∧ s.anyBad j.dst (j.spans q).2.1 =
      false ∧ s.anyBad j.aad (if q.mode = 4 ∧ j.flag 1 = true then j.aadLen else 0) = false ∧ q.mode = 5 ∧ c ≠ 255 ∧ j.flag
      2 = true ∧ q.flags.testBit 0 = true)
    ∧ (∃ (s : State) (e : Fin 64) (j : CphJob) (c : Nat) (q : CphCtx), JobRuns s e.val j ∧ j.op = 1 ∧ j.flag 1 = true ∧
      s.jobCtx j = some q ∧ s.jobCheck j q = none ∧ s.sliceAdmits .cphCtx j.tid = true ∧ firstBelow 64 (fun k => (s.ctx
      k).isNone) = some c ∧ s.jobKey q = none ∧ s.anyBad j.src (j.spans q).1 = false ∧ s.anyBad j.dst (j.spans q).2.1 =
      false ∧ s.anyBad j.aad (if q.mode = 4 ∧ j.flag 1 = true then j.aadLen else 0) = false ∧ q.mode = 4 ∧ c ≠ 255 ∧
      q.flags.testBit 0 = true ∧ j.flag 2 = false)
    ∧ (∃ (s : State) (e : Fin 64) (j : CphJob) (c : Nat) (q : CphCtx), JobRuns s e.val j ∧ j.op = 1 ∧ j.flag 1 = true ∧
      s.jobCtx j = some q ∧ s.jobCheck j q = none ∧ s.sliceAdmits .cphCtx j.tid = true ∧ firstBelow 64 (fun k => (s.ctx
      k).isNone) = some c ∧ s.jobKey q = none ∧ s.anyBad j.src (j.spans q).1 = false ∧ s.anyBad j.dst (j.spans q).2.1 =
      false ∧ s.anyBad j.aad (if q.mode = 4 ∧ j.flag 1 = true then j.aadLen else 0) = false ∧ q.mode = 4 ∧ c ≠ 255 ∧
      q.flags.testBit 0 = true ∧ j.flag 2 = true)
    ∧ (∃ (s : State) (e : Fin 64) (j : CphJob) (c : Nat) (q : CphCtx), JobRuns s e.val j ∧ j.op = 1 ∧ j.flag 1 = false ∧
      j.ctx = c ∧ c ≠ 255 ∧ s.jobCtx j = some q ∧ s.jobCheck j q = none ∧ s.jobKey q = none ∧ s.anyBad j.src (j.spans q).1 =
      false ∧ s.anyBad j.dst (j.spans q).2.1 = false ∧ s.anyBad j.aad (if q.mode = 4 ∧ j.flag 1 = true then j.aadLen else 0)
      = false ∧ c ≠ 255 ∧ q.mode ≤ 3)
    ∧ (∃ (s : State) (e : Fin 64) (j : CphJob) (c : Nat) (q : CphCtx), JobRuns s e.val j ∧ j.op = 2 ∧ j.flag 1 = false ∧
      j.ctx = c ∧ c ≠ 255 ∧ s.jobCtx j = some q ∧ s.jobCheck j q = none ∧ s.jobKey q = none ∧ s.anyBad j.src (j.spans q).1 =
      false ∧ s.anyBad j.dst (j.spans q).2.1 = false ∧ s.anyBad j.aad (if q.mode = 4 ∧ j.flag 1 = true then j.aadLen else 0)
      = false ∧ q.mode = 5 ∧ c ≠ 255 ∧ j.flag 2 = false)
    ∧ (∃ (s : State) (e : Fin 64) (j : CphJob) (c : Nat) (q : CphCtx), JobRuns s e.val j ∧ j.op = 2 ∧ j.flag 1 = false ∧
      j.ctx = c ∧ c ≠ 255 ∧ s.jobCtx j = some q ∧ s.jobCheck j q = none ∧ s.jobKey q = none ∧ s.anyBad j.src (j.spans q).1 =
      false ∧ s.anyBad j.dst (j.spans q).2.1 = false ∧ s.anyBad j.aad (if q.mode = 4 ∧ j.flag 1 = true then j.aadLen else 0)
      = false ∧ q.mode = 5 ∧ c ≠ 255 ∧ j.flag 2 = true ∧ q.flags.testBit 0 = false)
    ∧ (∃ (s : State) (e : Fin 64) (j : CphJob) (c : Nat) (q : CphCtx), JobRuns s e.val j ∧ j.op = 2 ∧ j.flag 1 = false ∧
      j.ctx = c ∧ c ≠ 255 ∧ s.jobCtx j = some q ∧ s.jobCheck j q = none ∧ s.jobKey q = none ∧ s.anyBad j.src (j.spans q).1 =
      false ∧ s.anyBad j.dst (j.spans q).2.1 = false ∧ s.anyBad j.aad (if q.mode = 4 ∧ j.flag 1 = true then j.aadLen else 0)
      = false ∧ q.mode = 5 ∧ c ≠ 255 ∧ j.flag 2 = true ∧ q.flags.testBit 0 = true) :=
  ⟨⟨{ (((wOn.wr (slA 20 4) 0x2FF).wr (slA 20 8) 1).setSlot 20 { key := List.replicate 32 7 }) with cph := { jobs := [{ entry := 3, tid := 0, w := true, cask := 9, desc := 0x10000800, descAt := 0x10000800, op := 1, mode := 0, slot := 20, flags := 3, ctx := 255, dstSlot := 200, keyLen := 32, tagLen := 16, srcLen := 16, aadLen := 0, src := 0x10000000, dst := 0x10000100, aad := 0x10000200, iv := List.replicate 16 1, attr := 0x201, phase := .active }], ctxs := [] } },
    3,
    ({ entry := 3, tid := 0, w := true, cask := 9, desc := 0x10000800, descAt := 0x10000800, op := 1, mode := 0, slot := 20, flags := 3, ctx := 255, dstSlot := 200, keyLen := 32, tagLen := 16, srcLen := 16, aadLen := 0, src := 0x10000000, dst := 0x10000100, aad := 0x10000200, iv := List.replicate 16 1, attr := 0x201, phase := .active }),
    0, ({ tid := 0, w := true, mode := 0, flags := 3, slot := 20, gen := 0 }), by decide +kernel⟩,
   ⟨{ (((wOn.wr (slA 20 4) 0x2FF).wr (slA 20 8) 1).setSlot 20 { key := List.replicate 32 7 }) with cph := { jobs := [{ entry := 3, tid := 0, w := true, cask := 9, desc := 0x10000800, descAt := 0x10000800, op := 2, mode := 0, slot := 20, flags := 2, ctx := 255, dstSlot := 200, keyLen := 32, tagLen := 16, srcLen := 16, aadLen := 0, src := 0x10000000, dst := 0x10000100, aad := 0x10000200, iv := List.replicate 16 1, attr := 0x201, phase := .active }], ctxs := [] } },
     3,
     ({ entry := 3, tid := 0, w := true, cask := 9, desc := 0x10000800, descAt := 0x10000800, op := 2, mode := 0, slot := 20, flags := 2, ctx := 255, dstSlot := 200, keyLen := 32, tagLen := 16, srcLen := 16, aadLen := 0, src := 0x10000000, dst := 0x10000100, aad := 0x10000200, iv := List.replicate 16 1, attr := 0x201, phase := .active }),
     0, ({ tid := 0, w := true, mode := 5, flags := 2, slot := 20, gen := 0 }), by decide +kernel⟩,
   ⟨{ (((wOn.wr (slA 20 4) 0x2FF).wr (slA 20 8) 1).setSlot 20 { key := List.replicate 32 7 }) with cph := { jobs := [{ entry := 3, tid := 0, w := true, cask := 9, desc := 0x10000800, descAt := 0x10000800, op := 2, mode := 0, slot := 20, flags := 6, ctx := 255, dstSlot := 200, keyLen := 32, tagLen := 16, srcLen := 16, aadLen := 0, src := 0x10000000, dst := 0x10000100, aad := 0x10000200, iv := List.replicate 16 1, attr := 0x201, phase := .active }], ctxs := [] } },
     3,
     ({ entry := 3, tid := 0, w := true, cask := 9, desc := 0x10000800, descAt := 0x10000800, op := 2, mode := 0, slot := 20, flags := 6, ctx := 255, dstSlot := 200, keyLen := 32, tagLen := 16, srcLen := 16, aadLen := 0, src := 0x10000000, dst := 0x10000100, aad := 0x10000200, iv := List.replicate 16 1, attr := 0x201, phase := .active }),
     0, ({ tid := 0, w := true, mode := 5, flags := 6, slot := 20, gen := 0 }), by decide +kernel⟩,
   ⟨{ (((wOn.wr (slA 20 4) 0x2FF).wr (slA 20 8) 1).setSlot 20 { key := List.replicate 32 7 }) with cph := { jobs := [{ entry := 3, tid := 0, w := true, cask := 9, desc := 0x10000800, descAt := 0x10000800, op := 2, mode := 0, slot := 20, flags := 7, ctx := 255, dstSlot := 200, keyLen := 32, tagLen := 16, srcLen := 16, aadLen := 0, src := 0x10000000, dst := 0x10000100, aad := 0x10000200, iv := List.replicate 16 1, attr := 0x201, phase := .active }], ctxs := [] } },
     3,
     ({ entry := 3, tid := 0, w := true, cask := 9, desc := 0x10000800, descAt := 0x10000800, op := 2, mode := 0, slot := 20, flags := 7, ctx := 255, dstSlot := 200, keyLen := 32, tagLen := 16, srcLen := 16, aadLen := 0, src := 0x10000000, dst := 0x10000100, aad := 0x10000200, iv := List.replicate 16 1, attr := 0x201, phase := .active }),
     0, ({ tid := 0, w := true, mode := 5, flags := 7, slot := 20, gen := 0 }), by decide +kernel⟩,
   ⟨{ (((wOn.wr (slA 20 4) 0x2FF).wr (slA 20 8) 1).setSlot 20 { key := List.replicate 32 7 }) with cph := { jobs := [{ entry := 3, tid := 0, w := true, cask := 9, desc := 0x10000800, descAt := 0x10000800, op := 1, mode := 4, slot := 20, flags := 3, ctx := 255, dstSlot := 200, keyLen := 32, tagLen := 16, srcLen := 16, aadLen := 0, src := 0x10000000, dst := 0x10000100, aad := 0x10000200, iv := List.replicate 16 1, attr := 0x201, phase := .active }], ctxs := [] } },
     3,
     ({ entry := 3, tid := 0, w := true, cask := 9, desc := 0x10000800, descAt := 0x10000800, op := 1, mode := 4, slot := 20, flags := 3, ctx := 255, dstSlot := 200, keyLen := 32, tagLen := 16, srcLen := 16, aadLen := 0, src := 0x10000000, dst := 0x10000100, aad := 0x10000200, iv := List.replicate 16 1, attr := 0x201, phase := .active }),
     0, ({ tid := 0, w := true, mode := 4, flags := 3, slot := 20, gen := 0 }), by decide +kernel⟩,
   ⟨{ (((wOn.wr (slA 20 4) 0x2FF).wr (slA 20 8) 1).setSlot 20 { key := List.replicate 32 7 }) with cph := { jobs := [{ entry := 3, tid := 0, w := true, cask := 9, desc := 0x10000800, descAt := 0x10000800, op := 1, mode := 4, slot := 20, flags := 7, ctx := 255, dstSlot := 200, keyLen := 32, tagLen := 16, srcLen := 16, aadLen := 0, src := 0x10000000, dst := 0x10000100, aad := 0x10000200, iv := List.replicate 16 1, attr := 0x201, phase := .active }], ctxs := [] } },
     3,
     ({ entry := 3, tid := 0, w := true, cask := 9, desc := 0x10000800, descAt := 0x10000800, op := 1, mode := 4, slot := 20, flags := 7, ctx := 255, dstSlot := 200, keyLen := 32, tagLen := 16, srcLen := 16, aadLen := 0, src := 0x10000000, dst := 0x10000100, aad := 0x10000200, iv := List.replicate 16 1, attr := 0x201, phase := .active }),
     0, ({ tid := 0, w := true, mode := 4, flags := 7, slot := 20, gen := 0 }), by decide +kernel⟩,
   ⟨{ (((wOn.wr (slA 20 4) 0x2FF).wr (slA 20 8) 1).setSlot 20 { key := List.replicate 32 7 }) with cph := { jobs := [{ entry := 3, tid := 0, w := true, cask := 9, desc := 0x10000800, descAt := 0x10000800, op := 1, mode := 2, slot := 20, flags := 0, ctx := 0, dstSlot := 200, keyLen := 32, tagLen := 16, srcLen := 16, aadLen := 0, src := 0x10000000, dst := 0x10000100, aad := 0x10000200, iv := List.replicate 16 1, attr := 0x201, phase := .active }], ctxs := [(0, some { tid := 0, w := true, mode := 2, flags := 2, slot := 20, gen := 0, chain := List.replicate 16 1 })] } },
     3,
     ({ entry := 3, tid := 0, w := true, cask := 9, desc := 0x10000800, descAt := 0x10000800, op := 1, mode := 2, slot := 20, flags := 0, ctx := 0, dstSlot := 200, keyLen := 32, tagLen := 16, srcLen := 16, aadLen := 0, src := 0x10000000, dst := 0x10000100, aad := 0x10000200, iv := List.replicate 16 1, attr := 0x201, phase := .active }),
     0, ({ tid := 0, w := true, mode := 2, flags := 2, slot := 20, gen := 0, chain := List.replicate 16 1 }), by decide⟩,
   ⟨{ (((wOn.wr (slA 20 4) 0x2FF).wr (slA 20 8) 1).setSlot 20 { key := List.replicate 32 7 }) with cph := { jobs := [{ entry := 3, tid := 0, w := true, cask := 9, desc := 0x10000800, descAt := 0x10000800, op := 2, mode := 0, slot := 20, flags := 0, ctx := 0, dstSlot := 200, keyLen := 32, tagLen := 16, srcLen := 16, aadLen := 0, src := 0x10000000, dst := 0x10000100, aad := 0x10000200, iv := List.replicate 16 1, attr := 0x201, phase := .active }], ctxs := [(0, some { tid := 0, w := true, mode := 5, flags := 2, slot := 20, gen := 0, chain := List.replicate 16 0 })] } },
     3,
     ({ entry := 3, tid := 0, w := true, cask := 9, desc := 0x10000800, descAt := 0x10000800, op := 2, mode := 0, slot := 20, flags := 0, ctx := 0, dstSlot := 200, keyLen := 32, tagLen := 16, srcLen := 16, aadLen := 0, src := 0x10000000, dst := 0x10000100, aad := 0x10000200, iv := List.replicate 16 1, attr := 0x201, phase := .active }),
     0, ({ tid := 0, w := true, mode := 5, flags := 2, slot := 20, gen := 0, chain := List.replicate 16 0 }), by decide⟩,
   ⟨{ (((wOn.wr (slA 20 4) 0x2FF).wr (slA 20 8) 1).setSlot 20 { key := List.replicate 32 7 }) with cph := { jobs := [{ entry := 3, tid := 0, w := true, cask := 9, desc := 0x10000800, descAt := 0x10000800, op := 2, mode := 0, slot := 20, flags := 4, ctx := 0, dstSlot := 200, keyLen := 32, tagLen := 16, srcLen := 16, aadLen := 0, src := 0x10000000, dst := 0x10000100, aad := 0x10000200, iv := List.replicate 16 1, attr := 0x201, phase := .active }], ctxs := [(0, some { tid := 0, w := true, mode := 5, flags := 4, slot := 20, gen := 0, chain := List.replicate 16 0 })] } },
     3,
     ({ entry := 3, tid := 0, w := true, cask := 9, desc := 0x10000800, descAt := 0x10000800, op := 2, mode := 0, slot := 20, flags := 4, ctx := 0, dstSlot := 200, keyLen := 32, tagLen := 16, srcLen := 16, aadLen := 0, src := 0x10000000, dst := 0x10000100, aad := 0x10000200, iv := List.replicate 16 1, attr := 0x201, phase := .active }),
     0, ({ tid := 0, w := true, mode := 5, flags := 4, slot := 20, gen := 0, chain := List.replicate 16 0 }), by decide⟩,
   ⟨{ (((wOn.wr (slA 20 4) 0x2FF).wr (slA 20 8) 1).setSlot 20 { key := List.replicate 32 7 }) with cph := { jobs := [{ entry := 3, tid := 0, w := true, cask := 9, desc := 0x10000800, descAt := 0x10000800, op := 2, mode := 0, slot := 20, flags := 4, ctx := 0, dstSlot := 200, keyLen := 32, tagLen := 16, srcLen := 16, aadLen := 0, src := 0x10000000, dst := 0x10000100, aad := 0x10000200, iv := List.replicate 16 1, attr := 0x201, phase := .active }], ctxs := [(0, some { tid := 0, w := true, mode := 5, flags := 3, slot := 20, gen := 0, chain := List.replicate 16 0 })] } },
     3,
     ({ entry := 3, tid := 0, w := true, cask := 9, desc := 0x10000800, descAt := 0x10000800, op := 2, mode := 0, slot := 20, flags := 4, ctx := 0, dstSlot := 200, keyLen := 32, tagLen := 16, srcLen := 16, aadLen := 0, src := 0x10000000, dst := 0x10000100, aad := 0x10000200, iv := List.replicate 16 1, attr := 0x201, phase := .active }),
     0, ({ tid := 0, w := true, mode := 5, flags := 3, slot := 20, gen := 0, chain := List.replicate 16 0 }), by decide⟩⟩

/-- States and operands that meet the hypotheses of `Obligations.CipherEngine`, part 2. -/
theorem meets_CipherEngine_2 :
    (∃ (s : State) (e : Fin 64) (j : CphJob) (c : Nat) (q : CphCtx), JobRuns s e.val j ∧ j.op = 1 ∧ j.flag 1 = false ∧ j.ctx
      = c ∧ c ≠ 255 ∧ s.jobCtx j = some q ∧ s.jobCheck j q = none ∧ s.jobKey q = none ∧ s.anyBad j.src (j.spans q).1 = false
      ∧ s.anyBad j.dst (j.spans q).2.1 = false ∧ s.anyBad j.aad (if q.mode = 4 ∧ j.flag 1 = true then j.aadLen else 0) =
      false ∧ q.mode = 4 ∧ c ≠ 255 ∧ q.flags.testBit 0 = true ∧ j.flag 2 = false)
    ∧ (∃ (s : State) (e : Fin 64) (j : CphJob) (c : Nat) (q : CphCtx), JobRuns s e.val j ∧ j.op = 1 ∧ j.flag 1 = false ∧
      j.ctx = c ∧ c ≠ 255 ∧ s.jobCtx j = some q ∧ s.jobCheck j q = none ∧ s.jobKey q = none ∧ s.anyBad j.src (j.spans q).1 =
      false ∧ s.anyBad j.dst (j.spans q).2.1 = false ∧ s.anyBad j.aad (if q.mode = 4 ∧ j.flag 1 = true then j.aadLen else 0)
      = false ∧ q.mode = 4 ∧ c ≠ 255 ∧ q.flags.testBit 0 = true ∧ j.flag 2 = true)
    ∧ (∃ (s : State) (e : Fin 64) (j : CphJob) (c : Nat) (q : CphCtx), JobRuns s e.val j ∧ j.op = 1 ∧ j.flag 1 = true ∧
      s.jobCtx j = some q ∧ s.jobCheck j q = none ∧ s.sliceAdmits .cphCtx j.tid = true ∧ firstBelow 64 (fun k => (s.ctx
      k).isNone) = some c ∧ s.jobKey q = none ∧ s.anyBad j.src (j.spans q).1 = false ∧ s.anyBad j.dst (j.spans q).2.1 =
      false ∧ s.anyBad j.aad (if q.mode = 4 ∧ j.flag 1 = true then j.aadLen else 0) = false ∧ q.mode = 4 ∧ c ≠ 255 ∧
      q.flags.testBit 0 = false ∧ s.rb (slA j.slot 8) 3 = false ∧ (persistent j.slot = true → (s.slot j.slot).inv < (s.slot
      j.slot).resv) ∧ (s.slot j.slot).inv < 2 ^ 64 - 1)
    ∧ (∃ (s : State) (e : Fin 64) (j : CphJob) (c : Nat) (q : CphCtx), JobRuns s e.val j ∧ j.op = 1 ∧ j.flag 1 = true ∧
      s.jobCtx j = some q ∧ s.jobCheck j q = none ∧ s.sliceAdmits .cphCtx j.tid = true ∧ firstBelow 64 (fun k => (s.ctx
      k).isNone) = some c ∧ s.jobKey q = none ∧ s.anyBad j.src (j.spans q).1 = false ∧ s.anyBad j.dst (j.spans q).2.1 =
      false ∧ s.anyBad j.aad (if q.mode = 4 ∧ j.flag 1 = true then j.aadLen else 0) = false ∧ q.mode = 4 ∧ c ≠ 255 ∧
      q.flags.testBit 0 = false ∧ s.rb (slA j.slot 8) 3 = false ∧ (persistent j.slot = true → (s.slot j.slot).inv < (s.slot
      j.slot).resv) ∧ (s.slot j.slot).inv = 2 ^ 64 - 1)
    ∧ (∃ (s : State) (e : Fin 64) (j : CphJob) (c : Nat) (q : CphCtx), JobRuns s e.val j ∧ j.op = 1 ∧ j.flag 1 = true ∧
      s.jobCtx j = some q ∧ s.jobCheck j q = none ∧ s.sliceAdmits .cphCtx j.tid = true ∧ firstBelow 64 (fun k => (s.ctx
      k).isNone) = some c ∧ s.jobKey q = none ∧ s.anyBad j.src (j.spans q).1 = false ∧ s.anyBad j.dst (j.spans q).2.1 =
      false ∧ s.anyBad j.aad (if q.mode = 4 ∧ j.flag 1 = true then j.aadLen else 0) = false ∧ q.mode = 4 ∧ c ≠ 255 ∧
      q.flags.testBit 0 = false ∧ s.rb (slA j.slot 8) 3 = false ∧ persistent j.slot = true ∧ (s.slot j.slot).resv ≤ (s.slot
      j.slot).inv)
    ∧ (∃ (s : State) (e : Fin 64) (j : CphJob) (c : Nat) (q : CphCtx), JobRuns s e.val j ∧ j.op = 1 ∧ j.flag 1 = true ∧
      s.jobCtx j = some q ∧ s.jobCheck j q = none ∧ s.sliceAdmits .cphCtx j.tid = true ∧ firstBelow 64 (fun k => (s.ctx
      k).isNone) = some c ∧ s.jobKey q = none ∧ q.mode = 4 ∧ c ≠ 255 ∧ q.flags.testBit 0 = false ∧ s.rb (slA j.slot 8) 3 =
      true)
    ∧ (∃ (s : State) (e : Fin 64) (j : CphJob) (c : Nat) (q : CphCtx), JobRuns s e.val j ∧ j.op = 1 ∧ j.flag 1 = true ∧
      s.jobCtx j = some q ∧ s.jobCheck j q = none ∧ s.sliceAdmits .cphCtx j.tid = true ∧ firstBelow 64 (fun k => (s.ctx
      k).isNone) = some c ∧ s.jobKey q = none ∧ s.anyBad j.src (j.spans q).1 = false ∧ s.anyBad j.dst (j.spans q).2.1 =
      false ∧ s.anyBad j.aad (if q.mode = 4 ∧ j.flag 1 = true then j.aadLen else 0) = false ∧ (q.mode ≤ 3 ∨ q.mode = 5) ∧ c
      ≠ 255)
    ∧ (∃ (s : State) (e : Fin 64) (j : CphJob), JobRuns s e.val j ∧ j.op = 1 ∧ s.jobCtx j = none)
    ∧ (∃ (s : State) (e : Fin 64) (j : CphJob) (q : CphCtx) (st : Status), JobRuns s e.val j ∧ j.op = 1 ∧ s.jobCtx j = some
      q ∧ s.jobCheck j q = some st ∧ st ≠ .access)
    ∧ (∃ (s : State) (e : Fin 64) (j : CphJob) (c : Nat) (q : CphCtx) (st : Status), JobRuns s e.val j ∧ j.op = 1 ∧ j.flag 1
      = true ∧ s.jobCtx j = some q ∧ s.jobCheck j q = none ∧ s.sliceAdmits .cphCtx j.tid = true ∧ firstBelow 64 (fun k =>
      (s.ctx k).isNone) = some c ∧ c ≠ 255 ∧ s.jobKey q = some st ∧ st ≠ .access) :=
  ⟨⟨{ (((wOn.wr (slA 20 4) 0x2FF).wr (slA 20 8) 1).setSlot 20 { key := List.replicate 32 7 }) with cph := { jobs := [{ entry := 3, tid := 0, w := true, cask := 9, desc := 0x10000800, descAt := 0x10000800, op := 1, mode := 4, slot := 20, flags := 0, ctx := 0, dstSlot := 200, keyLen := 32, tagLen := 16, srcLen := 16, aadLen := 0, src := 0x10000000, dst := 0x10000100, aad := 0x10000200, iv := List.replicate 16 1, attr := 0x201, phase := .active }], ctxs := [(0, some { tid := 0, w := true, mode := 4, flags := 3, slot := 20, gen := 0, chain := List.replicate 16 0 })] } },
    3,
    ({ entry := 3, tid := 0, w := true, cask := 9, desc := 0x10000800, descAt := 0x10000800, op := 1, mode := 4, slot := 20, flags := 0, ctx := 0, dstSlot := 200, keyLen := 32, tagLen := 16, srcLen := 16, aadLen := 0, src := 0x10000000, dst := 0x10000100, aad := 0x10000200, iv := List.replicate 16 1, attr := 0x201, phase := .active }),
    0, ({ tid := 0, w := true, mode := 4, flags := 3, slot := 20, gen := 0, chain := List.replicate 16 0 }), by decide⟩,
   ⟨{ (((wOn.wr (slA 20 4) 0x2FF).wr (slA 20 8) 1).setSlot 20 { key := List.replicate 32 7 }) with cph := { jobs := [{ entry := 3, tid := 0, w := true, cask := 9, desc := 0x10000800, descAt := 0x10000800, op := 1, mode := 4, slot := 20, flags := 4, ctx := 0, dstSlot := 200, keyLen := 32, tagLen := 16, srcLen := 16, aadLen := 0, src := 0x10000000, dst := 0x10000100, aad := 0x10000200, iv := List.replicate 16 1, attr := 0x201, phase := .active }], ctxs := [(0, some { tid := 0, w := true, mode := 4, flags := 3, slot := 20, gen := 0, chain := List.replicate 16 0 })] } },
     3,
     ({ entry := 3, tid := 0, w := true, cask := 9, desc := 0x10000800, descAt := 0x10000800, op := 1, mode := 4, slot := 20, flags := 4, ctx := 0, dstSlot := 200, keyLen := 32, tagLen := 16, srcLen := 16, aadLen := 0, src := 0x10000000, dst := 0x10000100, aad := 0x10000200, iv := List.replicate 16 1, attr := 0x201, phase := .active }),
     0, ({ tid := 0, w := true, mode := 4, flags := 3, slot := 20, gen := 0, chain := List.replicate 16 0 }), by decide⟩,
   ⟨{ (((wOn.wr (slA 20 4) 0x2FF).wr (slA 20 8) 1).setSlot 20 { key := List.replicate 32 7, inv := 5, resv := 9 }) with cph := { jobs := [{ entry := 3, tid := 0, w := true, cask := 9, desc := 0x10000800, descAt := 0x10000800, op := 1, mode := 4, slot := 20, flags := 6, ctx := 255, dstSlot := 200, keyLen := 32, tagLen := 16, srcLen := 16, aadLen := 20, src := 0x10000000, dst := 0x10000100, aad := 0x10000200, iv := List.replicate 16 1, attr := 0x201, phase := .active }], ctxs := [] } },
     3,
     ({ entry := 3, tid := 0, w := true, cask := 9, desc := 0x10000800, descAt := 0x10000800, op := 1, mode := 4, slot := 20, flags := 6, ctx := 255, dstSlot := 200, keyLen := 32, tagLen := 16, srcLen := 16, aadLen := 20, src := 0x10000000, dst := 0x10000100, aad := 0x10000200, iv := List.replicate 16 1, attr := 0x201, phase := .active }),
     0, ({ tid := 0, w := true, mode := 4, flags := 6, slot := 20, gen := 0 }), by decide +kernel⟩,
   ⟨{ (((wOn.wr (slA 20 4) 0x2FF).wr (slA 20 8) 1).setSlot 20 { key := List.replicate 32 7, inv := 2 ^ 64 - 1, resv := 2 ^ 64 }) with cph := { jobs := [{ entry := 3, tid := 0, w := true, cask := 9, desc := 0x10000800, descAt := 0x10000800, op := 1, mode := 4, slot := 20, flags := 6, ctx := 255, dstSlot := 200, keyLen := 32, tagLen := 16, srcLen := 16, aadLen := 20, src := 0x10000000, dst := 0x10000100, aad := 0x10000200, iv := List.replicate 16 1, attr := 0x201, phase := .active }], ctxs := [] } },
     3,
     ({ entry := 3, tid := 0, w := true, cask := 9, desc := 0x10000800, descAt := 0x10000800, op := 1, mode := 4, slot := 20, flags := 6, ctx := 255, dstSlot := 200, keyLen := 32, tagLen := 16, srcLen := 16, aadLen := 20, src := 0x10000000, dst := 0x10000100, aad := 0x10000200, iv := List.replicate 16 1, attr := 0x201, phase := .active }),
     0, ({ tid := 0, w := true, mode := 4, flags := 6, slot := 20, gen := 0 }), by decide +kernel⟩,
   ⟨{ (((wOn.wr (slA 20 4) 0x2FF).wr (slA 20 8) 1).setSlot 20 { key := List.replicate 32 7, inv := 5, resv := 5 }) with cph := { jobs := [{ entry := 3, tid := 0, w := true, cask := 9, desc := 0x10000800, descAt := 0x10000800, op := 1, mode := 4, slot := 20, flags := 6, ctx := 255, dstSlot := 200, keyLen := 32, tagLen := 16, srcLen := 16, aadLen := 20, src := 0x10000000, dst := 0x10000100, aad := 0x10000200, iv := List.replicate 16 1, attr := 0x201, phase := .active }], ctxs := [] } },
     3,
     ({ entry := 3, tid := 0, w := true, cask := 9, desc := 0x10000800, descAt := 0x10000800, op := 1, mode := 4, slot := 20, flags := 6, ctx := 255, dstSlot := 200, keyLen := 32, tagLen := 16, srcLen := 16, aadLen := 20, src := 0x10000000, dst := 0x10000100, aad := 0x10000200, iv := List.replicate 16 1, attr := 0x201, phase := .active }),
     0, ({ tid := 0, w := true, mode := 4, flags := 6, slot := 20, gen := 0 }), by decide +kernel⟩,
   ⟨{ (((wOn.wr (slA 20 4) 0x2FF).wr (slA 20 8) 9).setSlot 20 { key := List.replicate 32 7 }) with cph := { jobs := [{ entry := 3, tid := 0, w := true, cask := 9, desc := 0x10000800, descAt := 0x10000800, op := 1, mode := 4, slot := 20, flags := 6, ctx := 255, dstSlot := 200, keyLen := 32, tagLen := 16, srcLen := 16, aadLen := 20, src := 0x10000000, dst := 0x10000100, aad := 0x10000200, iv := List.replicate 16 1, attr := 0x201, phase := .active }], ctxs := [] } },
     3,
     ({ entry := 3, tid := 0, w := true, cask := 9, desc := 0x10000800, descAt := 0x10000800, op := 1, mode := 4, slot := 20, flags := 6, ctx := 255, dstSlot := 200, keyLen := 32, tagLen := 16, srcLen := 16, aadLen := 20, src := 0x10000000, dst := 0x10000100, aad := 0x10000200, iv := List.replicate 16 1, attr := 0x201, phase := .active }),
     0, ({ tid := 0, w := true, mode := 4, flags := 6, slot := 20, gen := 0 }), by decide +kernel⟩,
   ⟨{ ((((wOn.wr (slA 20 4) 0x2FF).wr (slA 20 8) 1).setSlot 20 { key := List.replicate 32 7 }).wr (cphBase + 8) 0xFF0000) with cph := { jobs := [{ entry := 3, tid := 0, w := true, cask := 9, desc := 0x10000800, descAt := 0x10000800, op := 1, mode := 0, slot := 20, flags := 6, ctx := 255, dstSlot := 200, keyLen := 32, tagLen := 16, srcLen := 16, aadLen := 0, src := 0x10000000, dst := 0x10000100, aad := 0x10000200, iv := List.replicate 16 1, attr := 0x201, phase := .active }], ctxs := [] } },
     3,
     ({ entry := 3, tid := 0, w := true, cask := 9, desc := 0x10000800, descAt := 0x10000800, op := 1, mode := 0, slot := 20, flags := 6, ctx := 255, dstSlot := 200, keyLen := 32, tagLen := 16, srcLen := 16, aadLen := 0, src := 0x10000000, dst := 0x10000100, aad := 0x10000200, iv := List.replicate 16 1, attr := 0x201, phase := .active }),
     0, ({ tid := 0, w := true, mode := 0, flags := 6, slot := 20, gen := 0 }), by decide +kernel⟩,
   ⟨{ (((wOn.wr (slA 20 4) 0x2FF).wr (slA 20 8) 1).setSlot 20 { key := List.replicate 32 7 }) with cph := { jobs := [{ entry := 3, tid := 0, w := true, cask := 9, desc := 0x10000800, descAt := 0x10000800, op := 1, mode := 0, slot := 20, flags := 0, ctx := 7, dstSlot := 200, keyLen := 32, tagLen := 16, srcLen := 16, aadLen := 0, src := 0x10000000, dst := 0x10000100, aad := 0x10000200, iv := List.replicate 16 1, attr := 0x201, phase := .active }], ctxs := [] } },
     3,
     ({ entry := 3, tid := 0, w := true, cask := 9, desc := 0x10000800, descAt := 0x10000800, op := 1, mode := 0, slot := 20, flags := 0, ctx := 7, dstSlot := 200, keyLen := 32, tagLen := 16, srcLen := 16, aadLen := 0, src := 0x10000000, dst := 0x10000100, aad := 0x10000200, iv := List.replicate 16 1, attr := 0x201, phase := .active }),
     by decide⟩,
   ⟨{ (((wOn.wr (slA 20 4) 0x2FF).wr (slA 20 8) 1).setSlot 20 { key := List.replicate 32 7 }) with cph := { jobs := [{ entry := 3, tid := 0, w := true, cask := 9, desc := 0x10000800, descAt := 0x10000800, op := 1, mode := 1, slot := 20, flags := 6, ctx := 255, dstSlot := 200, keyLen := 32, tagLen := 16, srcLen := 15, aadLen := 0, src := 0x10000000, dst := 0x10000100, aad := 0x10000200, iv := List.replicate 16 1, attr := 0x201, phase := .active }], ctxs := [] } },
     3,
     ({ entry := 3, tid := 0, w := true, cask := 9, desc := 0x10000800, descAt := 0x10000800, op := 1, mode := 1, slot := 20, flags := 6, ctx := 255, dstSlot := 200, keyLen := 32, tagLen := 16, srcLen := 15, aadLen := 0, src := 0x10000000, dst := 0x10000100, aad := 0x10000200, iv := List.replicate 16 1, attr := 0x201, phase := .active }),
     ({ tid := 0, w := true, mode := 1, flags := 6, slot := 20, gen := 0 }), .length, by decide⟩,
   ⟨{ (((wOn.wr (slA 20 4) 0x208).wr (slA 20 8) 1).setSlot 20 { key := List.replicate 32 7 }) with cph := { jobs := [{ entry := 3, tid := 0, w := true, cask := 9, desc := 0x10000800, descAt := 0x10000800, op := 1, mode := 0, slot := 20, flags := 2, ctx := 255, dstSlot := 200, keyLen := 32, tagLen := 16, srcLen := 16, aadLen := 0, src := 0x10000000, dst := 0x10000100, aad := 0x10000200, iv := List.replicate 16 1, attr := 0x201, phase := .active }], ctxs := [] } },
     3,
     ({ entry := 3, tid := 0, w := true, cask := 9, desc := 0x10000800, descAt := 0x10000800, op := 1, mode := 0, slot := 20, flags := 2, ctx := 255, dstSlot := 200, keyLen := 32, tagLen := 16, srcLen := 16, aadLen := 0, src := 0x10000000, dst := 0x10000100, aad := 0x10000200, iv := List.replicate 16 1, attr := 0x201, phase := .active }),
     0, ({ tid := 0, w := true, mode := 0, flags := 2, slot := 20, gen := 0 }), .keyUsage, by decide +kernel⟩⟩

/-- States and operands that meet the hypotheses of `Obligations.CipherEngine`, part 3. -/
theorem meets_CipherEngine_3 :
    (∃ (s : State) (e : Fin 64) (j : CphJob) (c : Nat) (q : CphCtx), JobRuns s e.val j ∧ j.op = 2 ∧ j.flag 1 = true ∧
      s.jobCtx j = some q ∧ s.jobCheck j q = none ∧ s.sliceAdmits .cphCtx j.tid = true ∧ firstBelow 64 (fun k => (s.ctx
      k).isNone) = some c ∧ s.jobKey q = none ∧ s.anyBad j.src (j.spans q).1 = false ∧ s.anyBad j.dst (j.spans q).2.1 =
      false ∧ s.anyBad j.aad (if q.mode = 4 ∧ j.flag 1 = true then j.aadLen else 0) = false ∧ (q.mode ≤ 3 ∨ q.mode = 5) ∧ c
      ≠ 255)
    ∧ (∃ (s : State) (e : Fin 64) (j : CphJob), JobRuns s e.val j ∧ j.op = 2 ∧ s.jobCtx j = none)
    ∧ (∃ (s : State) (e : Fin 64) (j : CphJob) (q : CphCtx) (st : Status), JobRuns s e.val j ∧ j.op = 2 ∧ s.jobCtx j = some
      q ∧ s.jobCheck j q = some st ∧ st ≠ .access)
    ∧ (∃ (s : State) (e : Fin 64) (j : CphJob) (c : Nat) (q : CphCtx) (st : Status), JobRuns s e.val j ∧ j.op = 2 ∧ j.flag 1
      = true ∧ s.jobCtx j = some q ∧ s.jobCheck j q = none ∧ s.sliceAdmits .cphCtx j.tid = true ∧ firstBelow 64 (fun k =>
      (s.ctx k).isNone) = some c ∧ c ≠ 255 ∧ s.jobKey q = some st ∧ st ≠ .access)
    ∧ (∃ (s : State) (a : Acc) (v : DWord) (j : CphJob) (c : Nat), Reaches s a cphBase ∧ s.resetting (s.tagsOf a.who).tid =
      false ∧ s.tenantOn (s.tagsOf a.who).tid = true ∧ sramSpan (fld v 47 0) 64 = true ∧ s.mayRead (s.tagsOf a.who) (fld v
      47 0) 64 = true ∧ (fld v 47 0) % 8 = 0 ∧ s.ckItem (fld v 56 48) = 16 ∧ s.ckEn (fld v 56 48) = true ∧ s.ckProdIs (fld v
      56 48) 1 = true ∧ s.sliceAdmits .cphJob (s.tagsOf a.who).tid = true ∧ firstBelow 64 (fun k => !s.cph.jobs.any fun x =>
      x.entry == k) = some c ∧ s.anyBad (fld v 47 0) 64 = false ∧ jobOf (s.ldBytes (fld v 47 0) 64) c (s.tagsOf a.who) (fld
      v 56 48) (fld v 47 0) (fld v 47 0) = j ∧ j.op ≠ 0 ∧ j.op ≤ 7 ∧ j.continues = false ∧ j.op ≠ 6 ∧ j.op ≠ 7 ∧ s.slState
      j.slot ≠ 2)
    ∧ (∃ (s : State) (a : Acc) (v : DWord) (j : CphJob) (c : Nat), Reaches s a cphBase ∧ s.resetting (s.tagsOf a.who).tid =
      false ∧ s.tenantOn (s.tagsOf a.who).tid = true ∧ sramSpan (fld v 47 0) 64 = true ∧ s.mayRead (s.tagsOf a.who) (fld v
      47 0) 64 = true ∧ (fld v 47 0) % 8 = 0 ∧ s.ckItem (fld v 56 48) = 16 ∧ s.ckEn (fld v 56 48) = true ∧ s.ckProdIs (fld v
      56 48) 1 = true ∧ s.sliceAdmits .cphJob (s.tagsOf a.who).tid = true ∧ firstBelow 64 (fun k => !s.cph.jobs.any fun x =>
      x.entry == k) = some c ∧ s.anyBad (fld v 47 0) 64 = false ∧ jobOf (s.ldBytes (fld v 47 0) 64) c (s.tagsOf a.who) (fld
      v 56 48) (fld v 47 0) (fld v 47 0) = j ∧ j.op ≠ 0 ∧ j.op ≤ 7 ∧ j.continues = false ∧ j.op ≠ 6 ∧ j.op ≠ 7 ∧ s.slState
      j.slot = 2)
    ∧ (∃ (s : State) (a : Acc) (v : DWord) (j : CphJob) (c : Nat), Reaches s a cphBase ∧ s.resetting (s.tagsOf a.who).tid =
      false ∧ s.tenantOn (s.tagsOf a.who).tid = true ∧ sramSpan (fld v 47 0) 64 = true ∧ s.mayRead (s.tagsOf a.who) (fld v
      47 0) 64 = true ∧ (fld v 47 0) % 8 = 0 ∧ s.ckItem (fld v 56 48) = 16 ∧ s.ckEn (fld v 56 48) = true ∧ s.ckProdIs (fld v
      56 48) 1 = true ∧ s.sliceAdmits .cphJob (s.tagsOf a.who).tid = true ∧ firstBelow 64 (fun k => !s.cph.jobs.any fun x =>
      x.entry == k) = some c ∧ s.anyBad (fld v 47 0) 64 = false ∧ jobOf (s.ldBytes (fld v 47 0) 64) c (s.tagsOf a.who) (fld
      v 56 48) (fld v 47 0) (fld v 47 0) = j ∧ (j.op = 6 ∨ j.op = 7))
    ∧ (∃ (s : State) (a : Acc) (v : DWord) (j : CphJob) (c : Nat) (q : CphCtx), Reaches s a cphBase ∧ s.resetting (s.tagsOf
      a.who).tid = false ∧ s.tenantOn (s.tagsOf a.who).tid = true ∧ sramSpan (fld v 47 0) 64 = true ∧ s.mayRead (s.tagsOf
      a.who) (fld v 47 0) 64 = true ∧ (fld v 47 0) % 8 = 0 ∧ s.ckItem (fld v 56 48) = 16 ∧ s.ckEn (fld v 56 48) = true ∧
      s.ckProdIs (fld v 56 48) 1 = true ∧ s.sliceAdmits .cphJob (s.tagsOf a.who).tid = true ∧ firstBelow 64 (fun k =>
      !s.cph.jobs.any fun x => x.entry == k) = some c ∧ s.anyBad (fld v 47 0) 64 = false ∧ jobOf (s.ldBytes (fld v 47 0) 64)
      c (s.tagsOf a.who) (fld v 56 48) (fld v 47 0) (fld v 47 0) = j ∧ j.continues = true ∧ s.ctxOf j j.ctx = some q)
    ∧ (∃ (s : State) (a : Acc) (v : DWord) (j : CphJob) (c : Nat), Reaches s a cphBase ∧ s.resetting (s.tagsOf a.who).tid =
      false ∧ s.tenantOn (s.tagsOf a.who).tid = true ∧ sramSpan (fld v 47 0) 64 = true ∧ s.mayRead (s.tagsOf a.who) (fld v
      47 0) 64 = true ∧ (fld v 47 0) % 8 = 0 ∧ s.ckItem (fld v 56 48) = 16 ∧ s.ckEn (fld v 56 48) = true ∧ s.ckProdIs (fld v
      56 48) 1 = true ∧ s.sliceAdmits .cphJob (s.tagsOf a.who).tid = true ∧ firstBelow 64 (fun k => !s.cph.jobs.any fun x =>
      x.entry == k) = some c ∧ s.anyBad (fld v 47 0) 64 = false ∧ jobOf (s.ldBytes (fld v 47 0) 64) c (s.tagsOf a.who) (fld
      v 56 48) (fld v 47 0) (fld v 47 0) = j ∧ j.continues = true ∧ s.ctxOf j j.ctx = none)
    ∧ (∃ (s : State) (a : Acc) (v : DWord) (j : CphJob) (c : Nat), Reaches s a cphBase ∧ s.resetting (s.tagsOf a.who).tid =
      false ∧ s.tenantOn (s.tagsOf a.who).tid = true ∧ sramSpan (fld v 47 0) 64 = true ∧ s.mayRead (s.tagsOf a.who) (fld v
      47 0) 64 = true ∧ (fld v 47 0) % 8 = 0 ∧ s.ckItem (fld v 56 48) = 16 ∧ s.ckEn (fld v 56 48) = true ∧ s.ckProdIs (fld v
      56 48) 1 = true ∧ s.sliceAdmits .cphJob (s.tagsOf a.who).tid = true ∧ firstBelow 64 (fun k => !s.cph.jobs.any fun x =>
      x.entry == k) = some c ∧ s.anyBad (fld v 47 0) 64 = false ∧ jobOf (s.ldBytes (fld v 47 0) 64) c (s.tagsOf a.who) (fld
      v 56 48) (fld v 47 0) (fld v 47 0) = j ∧ (j.op = 0 ∨ 7 < j.op)) :=
  ⟨⟨{ ((((wOn.wr (slA 20 4) 0x2FF).wr (slA 20 8) 1).setSlot 20 { key := List.replicate 32 7 }).wr (cphBase + 8) 0xFF0000) with cph := { jobs := [{ entry := 3, tid := 0, w := true, cask := 9, desc := 0x10000800, descAt := 0x10000800, op := 2, mode := 0, slot := 20, flags := 6, ctx := 255, dstSlot := 200, keyLen := 32, tagLen := 16, srcLen := 16, aadLen := 0, src := 0x10000000, dst := 0x10000100, aad := 0x10000200, iv := List.replicate 16 1, attr := 0x201, phase := .active }], ctxs := [] } },
    3,
    ({ entry := 3, tid := 0, w := true, cask := 9, desc := 0x10000800, descAt := 0x10000800, op := 2, mode := 0, slot := 20, flags := 6, ctx := 255, dstSlot := 200, keyLen := 32, tagLen := 16, srcLen := 16, aadLen := 0, src := 0x10000000, dst := 0x10000100, aad := 0x10000200, iv := List.replicate 16 1, attr := 0x201, phase := .active }),
    0, ({ tid := 0, w := true, mode := 5, flags := 6, slot := 20, gen := 0 }), by decide +kernel⟩,
   ⟨{ (((wOn.wr (slA 20 4) 0x2FF).wr (slA 20 8) 1).setSlot 20 { key := List.replicate 32 7 }) with cph := { jobs := [{ entry := 3, tid := 0, w := true, cask := 9, desc := 0x10000800, descAt := 0x10000800, op := 2, mode := 0, slot := 20, flags := 0, ctx := 7, dstSlot := 200, keyLen := 32, tagLen := 16, srcLen := 16, aadLen := 0, src := 0x10000000, dst := 0x10000100, aad := 0x10000200, iv := List.replicate 16 1, attr := 0x201, phase := .active }], ctxs := [] } },
     3,
     ({ entry := 3, tid := 0, w := true, cask := 9, desc := 0x10000800, descAt := 0x10000800, op := 2, mode := 0, slot := 20, flags := 0, ctx := 7, dstSlot := 200, keyLen := 32, tagLen := 16, srcLen := 16, aadLen := 0, src := 0x10000000, dst := 0x10000100, aad := 0x10000200, iv := List.replicate 16 1, attr := 0x201, phase := .active }),
     by decide⟩,
   ⟨{ (((wOn.wr (slA 20 4) 0x2FF).wr (slA 20 8) 1).setSlot 20 { key := List.replicate 32 7 }) with cph := { jobs := [{ entry := 3, tid := 0, w := true, cask := 9, desc := 0x10000800, descAt := 0x10000800, op := 2, mode := 0, slot := 20, flags := 2, ctx := 255, dstSlot := 200, keyLen := 32, tagLen := 16, srcLen := 15, aadLen := 0, src := 0x10000000, dst := 0x10000100, aad := 0x10000200, iv := List.replicate 16 1, attr := 0x201, phase := .active }], ctxs := [] } },
     3,
     ({ entry := 3, tid := 0, w := true, cask := 9, desc := 0x10000800, descAt := 0x10000800, op := 2, mode := 0, slot := 20, flags := 2, ctx := 255, dstSlot := 200, keyLen := 32, tagLen := 16, srcLen := 15, aadLen := 0, src := 0x10000000, dst := 0x10000100, aad := 0x10000200, iv := List.replicate 16 1, attr := 0x201, phase := .active }),
     ({ tid := 0, w := true, mode := 5, flags := 2, slot := 20, gen := 0 }), .length, by decide⟩,
   ⟨{ (((wOn.wr (slA 20 4) 0x208).wr (slA 20 8) 1).setSlot 20 { key := List.replicate 32 7 }) with cph := { jobs := [{ entry := 3, tid := 0, w := true, cask := 9, desc := 0x10000800, descAt := 0x10000800, op := 2, mode := 0, slot := 20, flags := 2, ctx := 255, dstSlot := 200, keyLen := 32, tagLen := 16, srcLen := 16, aadLen := 0, src := 0x10000000, dst := 0x10000100, aad := 0x10000200, iv := List.replicate 16 1, attr := 0x201, phase := .active }], ctxs := [] } },
     3,
     ({ entry := 3, tid := 0, w := true, cask := 9, desc := 0x10000800, descAt := 0x10000800, op := 2, mode := 0, slot := 20, flags := 2, ctx := 255, dstSlot := 200, keyLen := 32, tagLen := 16, srcLen := 16, aadLen := 0, src := 0x10000000, dst := 0x10000100, aad := 0x10000200, iv := List.replicate 16 1, attr := 0x201, phase := .active }),
     0, ({ tid := 0, w := true, mode := 5, flags := 2, slot := 20, gen := 0 }), .keyUsage, by decide +kernel⟩,
   ⟨(((((((wOn.wr (ckA 9 0) 0x80000100).wr (ckA 9 4) 0x80010002).wr (ckA 9 8) 0x10001000).wr (ckA 9 0xC) 4)).stLE 0x10000800
     8 0x302140101)), mgr, 0x9000010000800, (jobOf ([1, 1, 20, 2, 3, 0, 0, 0] ++ List.replicate 56 0) 0 ⟨0, true⟩ 9
     0x10000800 0x10000800), 0, by decide +kernel⟩,
   ⟨(((((((wOn.wr (ckA 9 0) 0x80000100).wr (ckA 9 4) 0x80010002).wr (ckA 9 8) 0x10001000).wr (ckA 9 0xC) 4)).stLE 0x10000800
     8 0x302140101).wr (slA 20 8) 2), mgr, 0x9000010000800, (jobOf ([1, 1, 20, 2, 3, 0, 0, 0] ++ List.replicate 56 0) 0 ⟨0,
     true⟩ 9 0x10000800 0x10000800), 0, by decide +kernel⟩,
   ⟨(((((((wOn.wr (ckA 9 0) 0x80000100).wr (ckA 9 4) 0x80010002).wr (ckA 9 8) 0x10001000).wr (ckA 9 0xC) 4)).stLE 0x10000800
     8 0xc80000000007)), mgr, 0x9000010000800, (jobOf ([7, 0, 0, 0, 0, 200, 0, 0] ++ List.replicate 56 0) 0 ⟨0, true⟩ 9
     0x10000800 0x10000800), 0, by decide +kernel⟩,
   ⟨{ (((((((wOn.wr (ckA 9 0) 0x80000100).wr (ckA 9 4) 0x80010002).wr (ckA 9 8) 0x10001000).wr (ckA 9 0xC) 4)).stLE 0x10000800 8 0x500140101)) with cph := { ctxs := [(5, some { tid := 0, w := true, mode := 0, flags := 2, slot := 20, gen := 0 })] } },
     mgr, 0x9000010000800, (jobOf ([1, 1, 20, 0, 5, 0, 0, 0] ++ List.replicate 56 0) 0 ⟨0, true⟩ 9 0x10000800 0x10000800),
     0, ({ tid := 0, w := true, mode := 0, flags := 2, slot := 20, gen := 0 }), by decide +kernel⟩,
   ⟨(((((((wOn.wr (ckA 9 0) 0x80000100).wr (ckA 9 4) 0x80010002).wr (ckA 9 8) 0x10001000).wr (ckA 9 0xC) 4)).stLE 0x10000800
     8 0x500140101)), mgr, 0x9000010000800, (jobOf ([1, 1, 20, 0, 5, 0, 0, 0] ++ List.replicate 56 0) 0 ⟨0, true⟩ 9
     0x10000800 0x10000800), 0, by decide +kernel⟩,
   ⟨(((((((wOn.wr (ckA 9 0) 0x80000100).wr (ckA 9 4) 0x80010002).wr (ckA 9 8) 0x10001000).wr (ckA 9 0xC) 4)).stLE 0x10000800
     8 0x8)), mgr, 0x9000010000800, (jobOf ([8, 0, 0, 0, 0, 0, 0, 0] ++ List.replicate 56 0) 0 ⟨0, true⟩ 9 0x10000800
     0x10000800), 0, by decide +kernel⟩⟩

/-- States and operands that meet the hypotheses of `Obligations.CipherEngine`, part 4. -/
theorem meets_CipherEngine_4 :
    (∃ (s : State) (a : Acc), Reaches s a cphBase ∧ NoHart a ∧ s.resetting (s.tagsOf a.who).tid = true)
    ∧ (∃ (s : State) (a : Acc) (v : DWord), Reaches s a cphBase ∧ s.resetting (s.tagsOf a.who).tid = false ∧ s.tenantOn
      (s.tagsOf a.who).tid = true ∧ NoHart a ∧ sramSpan (fld v 47 0) 64 = false)
    ∧ (∃ (s : State) (a : Acc) (v : DWord), Reaches s a cphBase ∧ s.resetting (s.tagsOf a.who).tid = false ∧ s.tenantOn
      (s.tagsOf a.who).tid = true ∧ NoHart a ∧ sramSpan (fld v 47 0) 64 = true ∧ s.mayRead (s.tagsOf a.who) (fld v 47 0) 64
      = true ∧ (fld v 47 0) % 8 ≠ 0)
    ∧ (∃ (s : State) (a : Acc) (v : DWord), Reaches s a cphBase ∧ s.resetting (s.tagsOf a.who).tid = false ∧ s.tenantOn
      (s.tagsOf a.who).tid = true ∧ NoHart a ∧ sramSpan (fld v 47 0) 64 = true ∧ s.mayRead (s.tagsOf a.who) (fld v 47 0) 64
      = true ∧ (fld v 47 0) % 8 = 0 ∧ s.ckItem (fld v 56 48) ≠ 16)
    ∧ (∃ (s : State) (a : Acc) (v : DWord), Reaches s a cphBase ∧ s.resetting (s.tagsOf a.who).tid = false ∧ s.tenantOn
      (s.tagsOf a.who).tid = true ∧ NoHart a ∧ sramSpan (fld v 47 0) 64 = true ∧ s.mayRead (s.tagsOf a.who) (fld v 47 0) 64
      = true ∧ (fld v 47 0) % 8 = 0 ∧ s.ckItem (fld v 56 48) = 16 ∧ (s.ckEn (fld v 56 48) = false ∨ s.ckProdIs (fld v 56 48)
      1 = false))
    ∧ (∃ (s : State) (e : Fin 64) (j : CphJob), JobRuns s e.val j ∧ j.op = 3 ∧ s.slotMay ⟨j.tid, j.w⟩ j.slot = true ∧
      s.dstHeld j = true ∧ j.slot ≠ j.dstSlot ∧ j.dstSlot < 256 ∧ SlotAlone s j.dstSlot ∧ s.slotUse j.dstSlot = 0 ∧
      Machine.sizeOf j.keyLen ≠ 4 ∧ s.busStatus ⟨j.tid, j.w⟩ j.aad j.aadLen false = none ∧ j.aadLen ≤ 64 ∧ s.keyStatus
      j.slot 3 = none ∧ s.slSize j.slot = 2 ∧ fillAttr j = true ∧ s.anyBad j.aad j.aadLen = false ∧ j.slot < 256)
    ∧ (∃ (s : State) (e : Fin 64) (j : CphJob), JobRuns s e.val j ∧ j.op = 3 ∧ s.slotMay ⟨j.tid, j.w⟩ j.slot = true ∧
      s.dstHeld j = true ∧ Machine.sizeOf j.keyLen ≠ 4 ∧ s.busStatus ⟨j.tid, j.w⟩ j.aad j.aadLen false = none ∧ j.aadLen ≤
      64 ∧ s.keyStatus j.slot 3 = none ∧ s.slSize j.slot = 2 ∧ fillAttr j = true ∧ s.anyBad j.aad j.aadLen = false)
    ∧ (∃ (s : State) (e : Fin 64) (j : CphJob), JobRuns s e.val j ∧ j.op = 3 ∧ (s.slotMay ⟨j.tid, j.w⟩ j.slot = false ∨
      s.dstHeld j = false))
    ∧ (∃ (s : State) (e : Fin 64) (j : CphJob), JobRuns s e.val j ∧ j.op = 4 ∧ (s.slotMay ⟨j.tid, j.w⟩ j.slot = false ∨
      s.dstHeld j = false))
    ∧ (∃ (s : State) (e : Fin 64) (j : CphJob), JobRuns s e.val j ∧ j.op = 4 ∧ s.slotMay ⟨j.tid, j.w⟩ j.slot = true ∧
      s.dstHeld j = true ∧ j.slot ≠ j.dstSlot ∧ j.dstSlot < 256 ∧ SlotAlone s j.dstSlot ∧ s.slotUse j.dstSlot = 0 ∧
      Machine.sizeOf j.keyLen ≠ 4 ∧ s.busStatus ⟨j.tid, j.w⟩ j.src j.srcLen false = none ∧ j.srcLen = j.keyLen + 8 ∧
      s.keyStatus j.slot 4 = none ∧ s.slSize j.slot ≠ 3 ∧ fillAttr j = true ∧ s.anyBad j.src j.srcLen = false) :=
  ⟨⟨((wOn.wr (tnA 5 8) 2).wr (wcA 0x18) 0), ten, by decide⟩,
   ⟨wOn, mgr, 0x11FFFFC8, by decide⟩,
   ⟨wOn, mgr, 0x10000004, by decide⟩,
   ⟨wOn, mgr, 0x10000000, by decide⟩,
   ⟨(wOn.wr (ckA 0 4) 0x80000002), mgr, 0x10000000, by decide⟩,
   ⟨{ ((((wOn.wr (slA 20 4) 0x2FF).wr (slA 20 8) 1).setSlot 20 { key := List.replicate 32 7 }).wr (slA 200 0) 0x80010100) with cph := { jobs := [{ entry := 3, tid := 0, w := true, cask := 9, desc := 0x10000800, descAt := 0x10000800, op := 3, mode := 0, slot := 20, flags := 0, ctx := 255, dstSlot := 200, keyLen := 32, tagLen := 16, srcLen := 16, aadLen := 0, src := 0x10000000, dst := 0x10000100, aad := 0x10000200, iv := List.replicate 16 1, attr := 0x201, phase := .active }], ctxs := [] } },
     3,
     ({ entry := 3, tid := 0, w := true, cask := 9, desc := 0x10000800, descAt := 0x10000800, op := 3, mode := 0, slot := 20, flags := 0, ctx := 255, dstSlot := 200, keyLen := 32, tagLen := 16, srcLen := 16, aadLen := 0, src := 0x10000000, dst := 0x10000100, aad := 0x10000200, iv := List.replicate 16 1, attr := 0x201, phase := .active }),
     by decide⟩,
   ⟨{ ((((wOn.wr (slA 20 4) 0x2FF).wr (slA 20 8) 1).setSlot 20 { key := List.replicate 32 7 }).wr (slA 200 0) 0x80010100) with cph := { jobs := [{ entry := 3, tid := 0, w := true, cask := 9, desc := 0x10000800, descAt := 0x10000800, op := 3, mode := 0, slot := 20, flags := 0, ctx := 255, dstSlot := 200, keyLen := 32, tagLen := 16, srcLen := 16, aadLen := 0, src := 0x10000000, dst := 0x10000100, aad := 0x10000200, iv := List.replicate 16 1, attr := 0x201, phase := .active }], ctxs := [] } },
     3,
     ({ entry := 3, tid := 0, w := true, cask := 9, desc := 0x10000800, descAt := 0x10000800, op := 3, mode := 0, slot := 20, flags := 0, ctx := 255, dstSlot := 200, keyLen := 32, tagLen := 16, srcLen := 16, aadLen := 0, src := 0x10000000, dst := 0x10000100, aad := 0x10000200, iv := List.replicate 16 1, attr := 0x201, phase := .active }),
     by decide⟩,
   ⟨{ (((wOn.wr (slA 20 4) 0x2FF).wr (slA 20 8) 1).setSlot 20 { key := List.replicate 32 7 }) with cph := { jobs := [{ entry := 3, tid := 0, w := true, cask := 9, desc := 0x10000800, descAt := 0x10000800, op := 3, mode := 0, slot := 20, flags := 0, ctx := 255, dstSlot := 200, keyLen := 32, tagLen := 16, srcLen := 16, aadLen := 0, src := 0x10000000, dst := 0x10000100, aad := 0x10000200, iv := List.replicate 16 1, attr := 0x201, phase := .active }], ctxs := [] } },
     3,
     ({ entry := 3, tid := 0, w := true, cask := 9, desc := 0x10000800, descAt := 0x10000800, op := 3, mode := 0, slot := 20, flags := 0, ctx := 255, dstSlot := 200, keyLen := 32, tagLen := 16, srcLen := 16, aadLen := 0, src := 0x10000000, dst := 0x10000100, aad := 0x10000200, iv := List.replicate 16 1, attr := 0x201, phase := .active }),
     by decide⟩,
   ⟨{ (((wOn.wr (slA 20 4) 0x2FF).wr (slA 20 8) 1).setSlot 20 { key := List.replicate 32 7 }) with cph := { jobs := [{ entry := 3, tid := 0, w := true, cask := 9, desc := 0x10000800, descAt := 0x10000800, op := 4, mode := 0, slot := 20, flags := 0, ctx := 255, dstSlot := 200, keyLen := 32, tagLen := 16, srcLen := 16, aadLen := 0, src := 0x10000000, dst := 0x10000100, aad := 0x10000200, iv := List.replicate 16 1, attr := 0x201, phase := .active }], ctxs := [] } },
     3,
     ({ entry := 3, tid := 0, w := true, cask := 9, desc := 0x10000800, descAt := 0x10000800, op := 4, mode := 0, slot := 20, flags := 0, ctx := 255, dstSlot := 200, keyLen := 32, tagLen := 16, srcLen := 16, aadLen := 0, src := 0x10000000, dst := 0x10000100, aad := 0x10000200, iv := List.replicate 16 1, attr := 0x201, phase := .active }),
     by decide⟩,
   ⟨{ ((((wOn.wr (slA 20 4) 0x2FF).wr (slA 20 8) 1).setSlot 20 { key := List.replicate 32 7 }).wr (slA 200 0) 0x80010100) with cph := { jobs := [{ entry := 3, tid := 0, w := true, cask := 9, desc := 0x10000800, descAt := 0x10000800, op := 4, mode := 0, slot := 20, flags := 0, ctx := 255, dstSlot := 200, keyLen := 32, tagLen := 16, srcLen := 40, aadLen := 0, src := 0x10000000, dst := 0x10000100, aad := 0x10000200, iv := List.replicate 16 1, attr := 0x201, phase := .active }], ctxs := [] } },
     3,
     ({ entry := 3, tid := 0, w := true, cask := 9, desc := 0x10000800, descAt := 0x10000800, op := 4, mode := 0, slot := 20, flags := 0, ctx := 255, dstSlot := 200, keyLen := 32, tagLen := 16, srcLen := 40, aadLen := 0, src := 0x10000000, dst := 0x10000100, aad := 0x10000200, iv := List.replicate 16 1, attr := 0x201, phase := .active }),
     by decide⟩⟩

/-- States and operands that meet the hypotheses of `Obligations.CipherEngine`, part 5. -/
theorem meets_CipherEngine_5 :
    (∃ (s : State) (e : Fin 64) (j : CphJob), JobRuns s e.val j ∧ j.op = 4 ∧ s.slotMay ⟨j.tid, j.w⟩ j.slot = true ∧
      s.dstHeld j = true ∧ Machine.sizeOf j.keyLen ≠ 4 ∧ s.busStatus ⟨j.tid, j.w⟩ j.src j.srcLen false = none ∧ j.srcLen =
      j.keyLen + 8 ∧ s.keyStatus j.slot 4 = none ∧ s.slSize j.slot ≠ 3 ∧ fillAttr j = true ∧ s.anyBad j.src j.srcLen =
      false)
    ∧ (∃ (s : State) (e : Fin 64) (j : CphJob), JobRuns s e.val j ∧ j.op = 3 ∧ s.slotMay ⟨j.tid, j.w⟩ j.slot = true ∧
      s.dstHeld j = true ∧ j.slot ≠ j.dstSlot ∧ j.dstSlot < 256 ∧ SlotAlone s j.dstSlot ∧ s.slotUse j.dstSlot = 0 ∧
      Machine.sizeOf j.keyLen ≠ 4 ∧ s.busStatus ⟨j.tid, j.w⟩ j.aad j.aadLen false = none ∧ j.aadLen ≤ 64 ∧ s.keyStatus
      j.slot 3 = none ∧ s.slSize j.slot = 2 ∧ fillAttr j = true ∧ s.anyBad j.aad j.aadLen = false ∧ j.flag 3 = false)
    ∧ (∃ (s : State) (e : Fin 64) (j : CphJob), JobRuns s e.val j ∧ j.op = 7 ∧ s.dstHeld j = true ∧ j.slot ≠ j.dstSlot ∧
      j.dstSlot < 256 ∧ SlotAlone s j.dstSlot)
    ∧ (∃ (s : State) (e : Fin 64) (j : CphJob), JobRuns s e.val j ∧ j.op = 7 ∧ s.dstHeld j = false)
    ∧ (∃ (s : State) (e : Fin 64) (j : CphJob), JobRuns s e.val j ∧ j.op = 7 ∧ s.dstHeld j = true)
    ∧ (∃ (s : State) (e : Fin 64) (j : CphJob) (q : CphCtx), JobRuns s e.val j ∧ j.op = 5 ∧ s.ctxOf j j.ctx = some q ∧
      s.busStatus ⟨j.tid, j.w⟩ j.dst 96 true = none ∧ j.flag 4 = false ∧ q.mode ≠ 4)
    ∧ (∃ (s : State) (e : Fin 64) (j : CphJob) (q : CphCtx), JobRuns s e.val j ∧ j.op = 5 ∧ s.ctxOf j j.ctx = some q ∧
      s.busStatus ⟨j.tid, j.w⟩ j.dst 96 true = none ∧ j.flag 4 = false ∧ q.mode = 4 ∧ (q.gcmEnc = true →
      s.cph.tickets.length < 256))
    ∧ (∃ (s : State) (e : Fin 64) (j : CphJob) (q : CphCtx), JobRuns s e.val j ∧ j.op = 5 ∧ s.ctxOf j j.ctx = some q ∧
      s.busStatus ⟨j.tid, j.w⟩ j.dst 120 true = none ∧ j.flag 4 = true ∧ (q.gcmEnc = true → s.cph.tickets.length < 256))
    ∧ (∃ (s : State) (e : Fin 64) (j : CphJob) (q : CphCtx), JobRuns s e.val j ∧ j.op = 5 ∧ s.ctxOf j j.ctx = some q ∧
      s.busStatus ⟨j.tid, j.w⟩ j.dst 120 true = none ∧ j.flag 4 = true ∧ q.gcmEnc = true ∧ 256 ≤ s.cph.tickets.length)
    ∧ (∃ (s : State) (e : Fin 64) (j : CphJob), JobRuns s e.val j ∧ j.op = 5 ∧ s.ctxOf j j.ctx = none) :=
  ⟨⟨{ (((((wOn.wr (slA 20 4) 0x2FF).wr (slA 20 8) 1).setSlot 20 { key := List.replicate 32 7 }).wr (slA 200 0) 0x80010100).stBytes 0x10000000 (kwWrap (List.replicate 32 7) (List.replicate 32 7))) with cph := { jobs := [{ entry := 3, tid := 0, w := true, cask := 9, desc := 0x10000800, descAt := 0x10000800, op := 4, mode := 0, slot := 20, flags := 0, ctx := 255, dstSlot := 200, keyLen := 32, tagLen := 16, srcLen := 40, aadLen := 0, src := 0x10000000, dst := 0x10000100, aad := 0x10000200, iv := List.replicate 16 1, attr := 0x201, phase := .active }], ctxs := [] } },
    3,
    ({ entry := 3, tid := 0, w := true, cask := 9, desc := 0x10000800, descAt := 0x10000800, op := 4, mode := 0, slot := 20, flags := 0, ctx := 255, dstSlot := 200, keyLen := 32, tagLen := 16, srcLen := 40, aadLen := 0, src := 0x10000000, dst := 0x10000100, aad := 0x10000200, iv := List.replicate 16 1, attr := 0x201, phase := .active }),
    by decide⟩,
   ⟨{ ((((wOn.wr (slA 20 4) 0x2FF).wr (slA 20 8) 1).setSlot 20 { key := List.replicate 32 7 }).wr (slA 200 0) 0x80010100) with cph := { jobs := [{ entry := 3, tid := 0, w := true, cask := 9, desc := 0x10000800, descAt := 0x10000800, op := 3, mode := 0, slot := 20, flags := 0, ctx := 255, dstSlot := 200, keyLen := 32, tagLen := 16, srcLen := 16, aadLen := 0, src := 0x10000000, dst := 0x10000100, aad := 0x10000200, iv := List.replicate 16 1, attr := 0x201, phase := .active }], ctxs := [] } },
     3,
     ({ entry := 3, tid := 0, w := true, cask := 9, desc := 0x10000800, descAt := 0x10000800, op := 3, mode := 0, slot := 20, flags := 0, ctx := 255, dstSlot := 200, keyLen := 32, tagLen := 16, srcLen := 16, aadLen := 0, src := 0x10000000, dst := 0x10000100, aad := 0x10000200, iv := List.replicate 16 1, attr := 0x201, phase := .active }),
     by decide⟩,
   ⟨{ ((((wOn.wr (slA 200 4) 0x2FF).wr (slA 200 8) 1).setSlot 200 { key := List.replicate 32 7 }).wr (slA 200 0) 0x80010100) with cph := { jobs := [{ entry := 3, tid := 0, w := true, cask := 9, desc := 0x10000800, descAt := 0x10000800, op := 7, mode := 0, slot := 256, flags := 0, ctx := 255, dstSlot := 200, keyLen := 32, tagLen := 16, srcLen := 16, aadLen := 0, src := 0x10000000, dst := 0x10000100, aad := 0x10000200, iv := List.replicate 16 1, attr := 0x201, phase := .active }], ctxs := [(4, some { tid := 0, w := true, mode := 0, flags := 2, slot := 200, gen := 0 }), (5, some { tid := 0, w := true, mode := 0, flags := 2, slot := 20, gen := 0 })] } },
     3,
     ({ entry := 3, tid := 0, w := true, cask := 9, desc := 0x10000800, descAt := 0x10000800, op := 7, mode := 0, slot := 256, flags := 0, ctx := 255, dstSlot := 200, keyLen := 32, tagLen := 16, srcLen := 16, aadLen := 0, src := 0x10000000, dst := 0x10000100, aad := 0x10000200, iv := List.replicate 16 1, attr := 0x201, phase := .active }),
     by decide⟩,
   ⟨{ (((wOn.wr (slA 20 4) 0x2FF).wr (slA 20 8) 1).setSlot 20 { key := List.replicate 32 7 }) with cph := { jobs := [{ entry := 3, tid := 0, w := true, cask := 9, desc := 0x10000800, descAt := 0x10000800, op := 7, mode := 0, slot := 256, flags := 0, ctx := 255, dstSlot := 200, keyLen := 32, tagLen := 16, srcLen := 16, aadLen := 0, src := 0x10000000, dst := 0x10000100, aad := 0x10000200, iv := List.replicate 16 1, attr := 0x201, phase := .active }], ctxs := [] } },
     3,
     ({ entry := 3, tid := 0, w := true, cask := 9, desc := 0x10000800, descAt := 0x10000800, op := 7, mode := 0, slot := 256, flags := 0, ctx := 255, dstSlot := 200, keyLen := 32, tagLen := 16, srcLen := 16, aadLen := 0, src := 0x10000000, dst := 0x10000100, aad := 0x10000200, iv := List.replicate 16 1, attr := 0x201, phase := .active }),
     by decide⟩,
   ⟨{ ((((wOn.wr (slA 200 4) 0x2FF).wr (slA 200 8) 1).setSlot 200 { key := List.replicate 32 7 }).wr (slA 200 0) 0x80010100) with cph := { jobs := [{ entry := 3, tid := 0, w := true, cask := 9, desc := 0x10000800, descAt := 0x10000800, op := 7, mode := 0, slot := 256, flags := 0, ctx := 255, dstSlot := 200, keyLen := 32, tagLen := 16, srcLen := 16, aadLen := 0, src := 0x10000000, dst := 0x10000100, aad := 0x10000200, iv := List.replicate 16 1, attr := 0x201, phase := .active }], ctxs := [(4, some { tid := 0, w := true, mode := 0, flags := 2, slot := 200, gen := 0 }), (5, some { tid := 0, w := true, mode := 0, flags := 2, slot := 20, gen := 0 })] } },
     3,
     ({ entry := 3, tid := 0, w := true, cask := 9, desc := 0x10000800, descAt := 0x10000800, op := 7, mode := 0, slot := 256, flags := 0, ctx := 255, dstSlot := 200, keyLen := 32, tagLen := 16, srcLen := 16, aadLen := 0, src := 0x10000000, dst := 0x10000100, aad := 0x10000200, iv := List.replicate 16 1, attr := 0x201, phase := .active }),
     by decide +kernel⟩,
   ⟨{ (((wOn.wr (slA 20 4) 0x2FF).wr (slA 20 8) 1).setSlot 20 { key := List.replicate 32 7 }) with cph := { jobs := [{ entry := 3, tid := 0, w := true, cask := 9, desc := 0x10000800, descAt := 0x10000800, op := 5, mode := 0, slot := 20, flags := 0, ctx := 7, dstSlot := 200, keyLen := 32, tagLen := 16, srcLen := 16, aadLen := 0, src := 0x10000000, dst := 0x10000100, aad := 0x10000200, iv := List.replicate 16 1, attr := 0x201, phase := .active }], ctxs := [(7, some { tid := 0, w := true, mode := 2, flags := 2, slot := 20, gen := 0, chain := List.replicate 16 9 })] } },
     3,
     ({ entry := 3, tid := 0, w := true, cask := 9, desc := 0x10000800, descAt := 0x10000800, op := 5, mode := 0, slot := 20, flags := 0, ctx := 7, dstSlot := 200, keyLen := 32, tagLen := 16, srcLen := 16, aadLen := 0, src := 0x10000000, dst := 0x10000100, aad := 0x10000200, iv := List.replicate 16 1, attr := 0x201, phase := .active }),
     ({ tid := 0, w := true, mode := 2, flags := 2, slot := 20, gen := 0, chain := List.replicate 16 9 }), by decide⟩,
   ⟨{ (((wOn.wr (slA 20 4) 0x2FF).wr (slA 20 8) 1).setSlot 20 { key := List.replicate 32 7 }) with cph := { jobs := [{ entry := 3, tid := 0, w := true, cask := 9, desc := 0x10000800, descAt := 0x10000800, op := 5, mode := 0, slot := 20, flags := 0, ctx := 7, dstSlot := 200, keyLen := 32, tagLen := 16, srcLen := 16, aadLen := 0, src := 0x10000000, dst := 0x10000100, aad := 0x10000200, iv := List.replicate 16 1, attr := 0x201, phase := .active }], ctxs := [(7, some { tid := 0, w := true, mode := 4, flags := 2, slot := 20, gen := 0 })] } },
     3,
     ({ entry := 3, tid := 0, w := true, cask := 9, desc := 0x10000800, descAt := 0x10000800, op := 5, mode := 0, slot := 20, flags := 0, ctx := 7, dstSlot := 200, keyLen := 32, tagLen := 16, srcLen := 16, aadLen := 0, src := 0x10000000, dst := 0x10000100, aad := 0x10000200, iv := List.replicate 16 1, attr := 0x201, phase := .active }),
     ({ tid := 0, w := true, mode := 4, flags := 2, slot := 20, gen := 0 }), by decide +kernel⟩,
   ⟨{ (((wOn.wr (slA 1 4) 0x2FF).wr (slA 1 8) 1).setSlot 1 { key := List.replicate 32 7 }) with cph := { jobs := [{ entry := 3, tid := 0, w := true, cask := 9, desc := 0x10000800, descAt := 0x10000800, op := 5, mode := 0, slot := 20, flags := 16, ctx := 7, dstSlot := 200, keyLen := 32, tagLen := 16, srcLen := 16, aadLen := 0, src := 0x10000000, dst := 0x10000100, aad := 0x10000200, iv := List.replicate 16 1, attr := 0x201, phase := .active }], ctxs := [(7, some { tid := 0, w := true, mode := 4, flags := 2, slot := 20, gen := 0 })] } },
     3,
     ({ entry := 3, tid := 0, w := true, cask := 9, desc := 0x10000800, descAt := 0x10000800, op := 5, mode := 0, slot := 20, flags := 16, ctx := 7, dstSlot := 200, keyLen := 32, tagLen := 16, srcLen := 16, aadLen := 0, src := 0x10000000, dst := 0x10000100, aad := 0x10000200, iv := List.replicate 16 1, attr := 0x201, phase := .active }),
     ({ tid := 0, w := true, mode := 4, flags := 2, slot := 20, gen := 0 }), by decide⟩,
   ⟨{ (((wOn.wr (slA 20 4) 0x2FF).wr (slA 20 8) 1).setSlot 20 { key := List.replicate 32 7 }) with cph := { jobs := [{ entry := 3, tid := 0, w := true, cask := 9, desc := 0x10000800, descAt := 0x10000800, op := 5, mode := 0, slot := 20, flags := 16, ctx := 7, dstSlot := 200, keyLen := 32, tagLen := 16, srcLen := 16, aadLen := 0, src := 0x10000000, dst := 0x10000100, aad := 0x10000200, iv := List.replicate 16 1, attr := 0x201, phase := .active }], ctxs := [(7, some { tid := 0, w := true, mode := 4, flags := 2, slot := 20, gen := 0 })], tickets := List.range 256 } },
     3,
     ({ entry := 3, tid := 0, w := true, cask := 9, desc := 0x10000800, descAt := 0x10000800, op := 5, mode := 0, slot := 20, flags := 16, ctx := 7, dstSlot := 200, keyLen := 32, tagLen := 16, srcLen := 16, aadLen := 0, src := 0x10000000, dst := 0x10000100, aad := 0x10000200, iv := List.replicate 16 1, attr := 0x201, phase := .active }),
     ({ tid := 0, w := true, mode := 4, flags := 2, slot := 20, gen := 0 }), by decide +kernel⟩,
   ⟨{ (((wOn.wr (slA 20 4) 0x2FF).wr (slA 20 8) 1).setSlot 20 { key := List.replicate 32 7 }) with cph := { jobs := [{ entry := 3, tid := 0, w := true, cask := 9, desc := 0x10000800, descAt := 0x10000800, op := 5, mode := 0, slot := 20, flags := 0, ctx := 7, dstSlot := 200, keyLen := 32, tagLen := 16, srcLen := 16, aadLen := 0, src := 0x10000000, dst := 0x10000100, aad := 0x10000200, iv := List.replicate 16 1, attr := 0x201, phase := .active }], ctxs := [(7, some { tid := 9, w := true, mode := 0, flags := 2, slot := 20, gen := 0 })] } },
     3,
     ({ entry := 3, tid := 0, w := true, cask := 9, desc := 0x10000800, descAt := 0x10000800, op := 5, mode := 0, slot := 20, flags := 0, ctx := 7, dstSlot := 200, keyLen := 32, tagLen := 16, srcLen := 16, aadLen := 0, src := 0x10000000, dst := 0x10000100, aad := 0x10000200, iv := List.replicate 16 1, attr := 0x201, phase := .active }),
     by decide⟩⟩

/-- States and operands that meet the hypotheses of `Obligations.CipherEngine`, part 6. -/
theorem meets_CipherEngine_6 :
    (∃ (s : State) (e : Fin 64) (j : CphJob) (c : Nat) (q : CphCtx), JobRuns s e.val j ∧ j.op = 6 ∧ s.busStatus ⟨j.tid, j.w⟩
      j.src 96 false = none ∧ j.srcLen = 96 ∧ s.anyBad j.src 96 = false ∧ j.flag 4 = false ∧ CphCtx.ofBytes (s.ldBytes j.src
      96) ⟨j.tid, j.w⟩ = q ∧ q.mode ≠ 4 ∧ q.mode ≤ 5 ∧ s.slotMay ⟨j.tid, j.w⟩ q.slot = true ∧ (s.slot q.slot).gen % 2 ^ 32 =
      q.gen ∧ s.slState q.slot ≠ 2 ∧ s.sliceAdmits .cphCtx j.tid = true ∧ firstBelow 64 (fun k => (s.ctx k).isNone) = some c
      ∧ c ≠ 255)
    ∧ (∃ (s : State) (e : Fin 64) (j : CphJob) (q : CphCtx), JobRuns s e.val j ∧ j.op = 6 ∧ s.busStatus ⟨j.tid, j.w⟩ j.src
      96 false = none ∧ j.srcLen = 96 ∧ s.anyBad j.src 96 = false ∧ j.flag 4 = false ∧ CphCtx.ofBytes (s.ldBytes j.src 96)
      ⟨j.tid, j.w⟩ = q ∧ q.mode ≠ 4 ∧ q.mode ≤ 5 ∧ s.slotMay ⟨j.tid, j.w⟩ q.slot = true ∧ (s.slot q.slot).gen % 2 ^ 32 ≠
      q.gen)
    ∧ (∃ (s : State) (e : Fin 64) (j : CphJob) (q : CphCtx), JobRuns s e.val j ∧ j.op = 6 ∧ s.busStatus ⟨j.tid, j.w⟩ j.src
      96 false = none ∧ j.srcLen = 96 ∧ s.anyBad j.src 96 = false ∧ j.flag 4 = false ∧ CphCtx.ofBytes (s.ldBytes j.src 96)
      ⟨j.tid, j.w⟩ = q ∧ q.mode ≠ 4 ∧ q.mode ≤ 5 ∧ s.slotMay ⟨j.tid, j.w⟩ q.slot = true ∧ (s.slot q.slot).gen % 2 ^ 32 =
      q.gen ∧ s.slState q.slot = 2)
    ∧ (∃ (s : State) (e : Fin 64) (j : CphJob), JobRuns s e.val j ∧ j.op = 6 ∧ s.busStatus ⟨j.tid, j.w⟩ j.src 96 false =
      none ∧ j.srcLen = 96 ∧ s.anyBad j.src 96 = false ∧ j.flag 4 = false ∧ (CphCtx.ofBytes (s.ldBytes j.src 96) ⟨j.tid,
      j.w⟩).mode = 4)
    ∧ (∃ (s : State) (e : Fin 64) (j : CphJob), JobRuns s e.val j ∧ j.op = 6 ∧ s.busStatus ⟨j.tid, j.w⟩ j.src 120 false =
      none ∧ j.srcLen = 120 ∧ s.anyBad j.src 120 = false ∧ j.flag 4 = true)
    ∧ (∃ (s : State) (e : Fin 64) (j : CphJob) (st : Status) (au ou : Nat), s.logicOn = true ∧ s.accepts 8 = true ∧ s.job
      e.val = some j ∧ j.phase = .ended st au ou ∧ ownHeld (s.rd (ckA j.cask 0)) = true ∧ s.ckEn j.cask = true ∧ s.ckRoom
      j.cask = true ∧ s.ckItem j.cask = 16 ∧ s.mayWrite (s.ckOwner j.cask) (s.ckPlace j.cask (s.cask j.cask).pw) 16 = true)
    ∧ (∃ (s : State) (e : Fin 64) (j : CphJob) (st : Status) (au ou : Nat), s.logicOn = true ∧ s.accepts 8 = true ∧ s.job
      e.val = some j ∧ j.phase = .ended st au ou ∧ ownHeld (s.rd (ckA j.cask 0)) = true ∧ s.ckRoom j.cask = false)
    ∧ (∃ (s : State) (e : Fin 64) (j : CphJob) (st : Status) (au ou : Nat), s.logicOn = true ∧ s.accepts 8 = true ∧ s.job
      e.val = some j ∧ j.phase = .ended st au ou ∧ ownHeld (s.rd (ckA j.cask 0)) = false)
    ∧ (∃ (s : State) (e : Fin 64) (j : CphJob) (u : Nat), s.logicOn = true ∧ s.accepts 8 = true ∧ s.job e.val = some j ∧
      j.phase = .waiting u ∧ 5000000 ≤ s.ticks - u)
    ∧ (∃ (s : State) (e : Fin 64) (j : CphJob) (u : Nat), s.logicOn = true ∧ s.accepts 8 = true ∧ s.job e.val = some j ∧
      j.phase = .waiting u ∧ s.ticks - u < 5000000) :=
  ⟨⟨{ ((((wOn.wr (slA 20 4) 0x2FF).wr (slA 20 8) 1).setSlot 20 { key := List.replicate 32 7 }).stBytes 0x10000000 [2, 2, 20]) with cph := { jobs := [{ entry := 3, tid := 0, w := true, cask := 9, desc := 0x10000800, descAt := 0x10000800, op := 6, mode := 0, slot := 256, flags := 0, ctx := 255, dstSlot := 200, keyLen := 32, tagLen := 16, srcLen := 96, aadLen := 0, src := 0x10000000, dst := 0x10000100, aad := 0x10000200, iv := List.replicate 16 1, attr := 0x201, phase := .active }], ctxs := [] } },
    3,
    ({ entry := 3, tid := 0, w := true, cask := 9, desc := 0x10000800, descAt := 0x10000800, op := 6, mode := 0, slot := 256, flags := 0, ctx := 255, dstSlot := 200, keyLen := 32, tagLen := 16, srcLen := 96, aadLen := 0, src := 0x10000000, dst := 0x10000100, aad := 0x10000200, iv := List.replicate 16 1, attr := 0x201, phase := .active }),
    0, (CphCtx.ofBytes ([2, 2, 20] ++ List.replicate 93 0) ⟨0, true⟩), by decide +kernel⟩,
   ⟨{ (((((wOn.wr (slA 20 4) 0x2FF).wr (slA 20 8) 1).setSlot 20 { key := List.replicate 32 7 }).stBytes 0x10000000 [2, 2, 20]).setSlot 20 { gen := 1 }) with cph := { jobs := [{ entry := 3, tid := 0, w := true, cask := 9, desc := 0x10000800, descAt := 0x10000800, op := 6, mode := 0, slot := 256, flags := 0, ctx := 255, dstSlot := 200, keyLen := 32, tagLen := 16, srcLen := 96, aadLen := 0, src := 0x10000000, dst := 0x10000100, aad := 0x10000200, iv := List.replicate 16 1, attr := 0x201, phase := .active }], ctxs := [] } },
     3,
     ({ entry := 3, tid := 0, w := true, cask := 9, desc := 0x10000800, descAt := 0x10000800, op := 6, mode := 0, slot := 256, flags := 0, ctx := 255, dstSlot := 200, keyLen := 32, tagLen := 16, srcLen := 96, aadLen := 0, src := 0x10000000, dst := 0x10000100, aad := 0x10000200, iv := List.replicate 16 1, attr := 0x201, phase := .active }),
     (CphCtx.ofBytes ([2, 2, 20] ++ List.replicate 93 0) ⟨0, true⟩), by decide⟩,
   ⟨{ (((((wOn.wr (slA 20 4) 0x2FF).wr (slA 20 8) 1).setSlot 20 { key := List.replicate 32 7 }).stBytes 0x10000000 [2, 2, 20]).wr (slA 20 8) 2) with cph := { jobs := [{ entry := 3, tid := 0, w := true, cask := 9, desc := 0x10000800, descAt := 0x10000800, op := 6, mode := 0, slot := 256, flags := 0, ctx := 255, dstSlot := 200, keyLen := 32, tagLen := 16, srcLen := 96, aadLen := 0, src := 0x10000000, dst := 0x10000100, aad := 0x10000200, iv := List.replicate 16 1, attr := 0x201, phase := .active }], ctxs := [] } },
     3,
     ({ entry := 3, tid := 0, w := true, cask := 9, desc := 0x10000800, descAt := 0x10000800, op := 6, mode := 0, slot := 256, flags := 0, ctx := 255, dstSlot := 200, keyLen := 32, tagLen := 16, srcLen := 96, aadLen := 0, src := 0x10000000, dst := 0x10000100, aad := 0x10000200, iv := List.replicate 16 1, attr := 0x201, phase := .active }),
     (CphCtx.ofBytes ([2, 2, 20] ++ List.replicate 93 0) ⟨0, true⟩), by decide⟩,
   ⟨{ ((((wOn.wr (slA 20 4) 0x2FF).wr (slA 20 8) 1).setSlot 20 { key := List.replicate 32 7 }).stBytes 0x10000000 [4, 2, 20]) with cph := { jobs := [{ entry := 3, tid := 0, w := true, cask := 9, desc := 0x10000800, descAt := 0x10000800, op := 6, mode := 0, slot := 256, flags := 0, ctx := 255, dstSlot := 200, keyLen := 32, tagLen := 16, srcLen := 96, aadLen := 0, src := 0x10000000, dst := 0x10000100, aad := 0x10000200, iv := List.replicate 16 1, attr := 0x201, phase := .active }], ctxs := [] } },
     3,
     ({ entry := 3, tid := 0, w := true, cask := 9, desc := 0x10000800, descAt := 0x10000800, op := 6, mode := 0, slot := 256, flags := 0, ctx := 255, dstSlot := 200, keyLen := 32, tagLen := 16, srcLen := 96, aadLen := 0, src := 0x10000000, dst := 0x10000100, aad := 0x10000200, iv := List.replicate 16 1, attr := 0x201, phase := .active }),
     by decide⟩,
   ⟨{ (((wOn.wr (slA 1 4) 0x2FF).wr (slA 1 8) 1).setSlot 1 { key := List.replicate 32 7 }) with cph := { jobs := [{ entry := 3, tid := 0, w := true, cask := 9, desc := 0x10000800, descAt := 0x10000800, op := 6, mode := 0, slot := 256, flags := 16, ctx := 255, dstSlot := 200, keyLen := 32, tagLen := 16, srcLen := 120, aadLen := 0, src := 0x10000000, dst := 0x10000100, aad := 0x10000200, iv := List.replicate 16 1, attr := 0x201, phase := .active }], ctxs := [] } },
     3,
     ({ entry := 3, tid := 0, w := true, cask := 9, desc := 0x10000800, descAt := 0x10000800, op := 6, mode := 0, slot := 256, flags := 16, ctx := 255, dstSlot := 200, keyLen := 32, tagLen := 16, srcLen := 120, aadLen := 0, src := 0x10000000, dst := 0x10000100, aad := 0x10000200, iv := List.replicate 16 1, attr := 0x201, phase := .active }),
     by decide⟩,
   ⟨{ (((((wOn.wr (ckA 9 0) 0x80000100).wr (ckA 9 4) 0x80010002).wr (ckA 9 8) 0x10001000).wr (ckA 9 0xC) 4)) with cph := { jobs := [{ entry := 3, tid := 0, w := true, cask := 9, desc := 0x10000800, descAt := 0x10000800, op := 1, mode := 0, slot := 20, flags := 4, ctx := 5, dstSlot := 200, keyLen := 32, tagLen := 16, srcLen := 16, aadLen := 0, src := 0x10000000, dst := 0x10000100, aad := 0x10000200, iv := List.replicate 16 1, attr := 0x201, phase := .ended .done 1 16 }, { entry := 4, tid := 0, w := true, cask := 9, desc := 0x10000800, descAt := 0x10000800, op := 1, mode := 0, slot := 20, flags := 2, ctx := 255, dstSlot := 200, keyLen := 32, tagLen := 16, srcLen := 16, aadLen := 0, src := 0x10000000, dst := 0x10000100, aad := 0x10000200, iv := List.replicate 16 1, attr := 0x201, phase := .active }], ctxs := [(5, some { tid := 0, w := true, mode := 0, flags := 2, slot := 20, gen := 0 }), (6, some { tid := 0, w := true, mode := 0, flags := 2, slot := 20, gen := 0 })] } },
     3,
     ({ entry := 3, tid := 0, w := true, cask := 9, desc := 0x10000800, descAt := 0x10000800, op := 1, mode := 0, slot := 20, flags := 4, ctx := 5, dstSlot := 200, keyLen := 32, tagLen := 16, srcLen := 16, aadLen := 0, src := 0x10000000, dst := 0x10000100, aad := 0x10000200, iv := List.replicate 16 1, attr := 0x201, phase := .ended .done 1 16 }),
     .done, 1, 16, by decide⟩,
   ⟨{ ((((((wOn.wr (ckA 9 0) 0x80000100).wr (ckA 9 4) 0x80010002).wr (ckA 9 8) 0x10001000).wr (ckA 9 0xC) 4)).wr (ckA 9 0x10) 0x40000) with cph := { jobs := [{ entry := 3, tid := 0, w := true, cask := 9, desc := 0x10000800, descAt := 0x10000800, op := 1, mode := 0, slot := 20, flags := 4, ctx := 5, dstSlot := 200, keyLen := 32, tagLen := 16, srcLen := 16, aadLen := 0, src := 0x10000000, dst := 0x10000100, aad := 0x10000200, iv := List.replicate 16 1, attr := 0x201, phase := .ended .done 1 16 }], ctxs := [(5, some { tid := 0, w := true, mode := 0, flags := 2, slot := 20, gen := 0 }), (6, some { tid := 0, w := true, mode := 0, flags := 2, slot := 20, gen := 0 })] } },
     3,
     ({ entry := 3, tid := 0, w := true, cask := 9, desc := 0x10000800, descAt := 0x10000800, op := 1, mode := 0, slot := 20, flags := 4, ctx := 5, dstSlot := 200, keyLen := 32, tagLen := 16, srcLen := 16, aadLen := 0, src := 0x10000000, dst := 0x10000100, aad := 0x10000200, iv := List.replicate 16 1, attr := 0x201, phase := .ended .done 1 16 }),
     .done, 1, 16, by decide⟩,
   ⟨{ wOn with cph := { jobs := [{ entry := 3, tid := 0, w := true, cask := 9, desc := 0x10000800, descAt := 0x10000800, op := 1, mode := 0, slot := 20, flags := 4, ctx := 5, dstSlot := 200, keyLen := 32, tagLen := 16, srcLen := 16, aadLen := 0, src := 0x10000000, dst := 0x10000100, aad := 0x10000200, iv := List.replicate 16 1, attr := 0x201, phase := .ended .done 1 16 }], ctxs := [(5, some { tid := 0, w := true, mode := 0, flags := 2, slot := 20, gen := 0 }), (6, some { tid := 0, w := true, mode := 0, flags := 2, slot := 20, gen := 0 })] } },
     3,
     ({ entry := 3, tid := 0, w := true, cask := 9, desc := 0x10000800, descAt := 0x10000800, op := 1, mode := 0, slot := 20, flags := 4, ctx := 5, dstSlot := 200, keyLen := 32, tagLen := 16, srcLen := 16, aadLen := 0, src := 0x10000000, dst := 0x10000100, aad := 0x10000200, iv := List.replicate 16 1, attr := 0x201, phase := .ended .done 1 16 }),
     .done, 1, 16, by decide⟩,
   ⟨{ wOn with ticks := 6000000, cph := { jobs := [{ entry := 3, tid := 0, w := true, cask := 9, desc := 0x10000800, descAt := 0x10000800, op := 1, mode := 0, slot := 20, flags := 2, ctx := 255, dstSlot := 200, keyLen := 32, tagLen := 16, srcLen := 16, aadLen := 0, src := 0x10000000, dst := 0x10000100, aad := 0x10000200, iv := List.replicate 16 1, attr := 0x201, phase := .waiting 0 }] } },
     3,
     ({ entry := 3, tid := 0, w := true, cask := 9, desc := 0x10000800, descAt := 0x10000800, op := 1, mode := 0, slot := 20, flags := 2, ctx := 255, dstSlot := 200, keyLen := 32, tagLen := 16, srcLen := 16, aadLen := 0, src := 0x10000000, dst := 0x10000100, aad := 0x10000200, iv := List.replicate 16 1, attr := 0x201, phase := .waiting 0 }),
     0, by decide⟩,
   ⟨{ wOn with cph := { jobs := [{ entry := 3, tid := 0, w := true, cask := 9, desc := 0x10000800, descAt := 0x10000800, op := 1, mode := 0, slot := 20, flags := 2, ctx := 255, dstSlot := 200, keyLen := 32, tagLen := 16, srcLen := 16, aadLen := 0, src := 0x10000000, dst := 0x10000100, aad := 0x10000200, iv := List.replicate 16 1, attr := 0x201, phase := .waiting 0 }] } },
     3,
     ({ entry := 3, tid := 0, w := true, cask := 9, desc := 0x10000800, descAt := 0x10000800, op := 1, mode := 0, slot := 20, flags := 2, ctx := 255, dstSlot := 200, keyLen := 32, tagLen := 16, srcLen := 16, aadLen := 0, src := 0x10000000, dst := 0x10000100, aad := 0x10000200, iv := List.replicate 16 1, attr := 0x201, phase := .waiting 0 }),
     0, by decide⟩⟩

/-- States and operands that meet the hypotheses of `Obligations.CipherEngine`, part 7. -/
theorem meets_CipherEngine_7 :
    (∃ (s : State) (e : Fin 64) (j : CphJob) (st : Status) (au ou : Nat) (u : Nat), s.logicOn = true ∧ s.accepts 8 = true ∧
      s.job e.val = some j ∧ j.phase = .posting st au ou u ∧ 500000 ≤ s.ticks - u ∧ (s.ckEn j.cask = false ∨ s.ckRoom j.cask
      = false)) :=
  ⟨{ ((((((wOn.wr (ckA 9 0) 0x80000100).wr (ckA 9 4) 0x80010002).wr (ckA 9 8) 0x10001000).wr (ckA 9 0xC) 4)).wr (ckA 9 0x10) 0x40000) with ticks := 6000000, cph := { jobs := [{ entry := 3, tid := 0, w := true, cask := 9, desc := 0x10000800, descAt := 0x10000800, op := 1, mode := 0, slot := 20, flags := 2, ctx := 255, dstSlot := 200, keyLen := 32, tagLen := 16, srcLen := 16, aadLen := 0, src := 0x10000000, dst := 0x10000100, aad := 0x10000200, iv := List.replicate 16 1, attr := 0x201, phase := .posting .done 0 16 0 }] } },
    3,
    ({ entry := 3, tid := 0, w := true, cask := 9, desc := 0x10000800, descAt := 0x10000800, op := 1, mode := 0, slot := 20, flags := 2, ctx := 255, dstSlot := 200, keyLen := 32, tagLen := 16, srcLen := 16, aadLen := 0, src := 0x10000000, dst := 0x10000100, aad := 0x10000200, iv := List.replicate 16 1, attr := 0x201, phase := .posting .done 0 16 0 }),
    .done, 0, 16, 0, by decide⟩

/-- States and operands that meet the hypotheses of `Obligations.Storage`, part 1. -/
theorem meets_Storage_1 :
    (∃ (s : State) (c : Fin 256) (k : StgCmd) (r : NsRec) (d : Bool) (u : State), CmdRuns s u c.val 1 true k r ∧ u.hostMay =
      true ∧ (d = false ∨ r.enc = 0))
    ∧ (∃ (s : State) (c : Fin 256) (k : StgCmd) (r : NsRec) (x : Nat) (u : State), CmdRuns s u c.val 1 true k r ∧ u.hostMay
      = true ∧ x < k.count)
    ∧ (∃ (s : State) (c : Fin 256) (k : StgCmd) (r : NsRec) (u : State), CmdRuns s u c.val 1 true k r ∧ u.hostMay = true ∧
      r.enc ≠ 0)
    ∧ (∃ (s : State) (c : Fin 256) (k : StgCmd) (r : NsRec) (u : State), CmdRuns s u c.val 1 true k r ∧ u.hostMay = false)
    ∧ (∃ (s : State) (c : Fin 256) (k : StgCmd) (r : NsRec) (d : Bool) (u : State), CmdRuns s u c.val 2 true k r ∧ k.moved ≤
      k.count ∧ (∀ j, j < k.count * 512 → u.isBad (k.addr + j * 8) = false) ∧ (d = false ∨ r.enc = 0))
    ∧ (∃ (s : State) (c : Fin 256) (k : StgCmd) (r : NsRec) (x : Nat) (u : State), CmdRuns s u c.val 2 true k r ∧ inSram
      k.addr = true ∧ x < k.count * 512 ∧ u.isBad (k.addr + x * 8) = true ∧ (∀ j, j < x → u.isBad (k.addr + j * 8) = false)
      ∧ k.addr + x * 8 < 0x12000000)
    ∧ (∃ (s : State) (c : Fin 256) (k : StgCmd) (r : NsRec) (u : State), CmdRuns s u c.val 2 true k r ∧ k.moved ≤ k.count ∧
      (∀ j, j < k.count * 512 → u.isBad (k.addr + j * 8) = false) ∧ r.enc ≠ 0)
    ∧ (∃ (s : State) (c : Fin 256) (k : StgCmd) (r : NsRec) (u : State), CmdRuns s u c.val 3 false k r ∧ (∀ z ∈ u.stg.buf,
      z.ns ≠ k.ns ∨ k.mark ≤ z.uid))
    ∧ (∃ (s : State) (c : Fin 256) (k : StgCmd) (r : NsRec) (b : BufBlk) (u : State), CmdRuns s u c.val 3 false k r ∧ b ∈
      u.stg.buf ∧ b.ns = k.ns ∧ b.uid < k.mark)
    ∧ (∃ (s : State) (c : Fin 256) (k : StgCmd) (r : NsRec) (u : State), CmdRuns s u c.val 4 false k r) :=
  ⟨⟨{ ((wOn.wr (stA 0) 1).wr (stA 4) 1) with stg := { cmds := [{ entry := 3, qp := 2, tid := 0, w := true, opc := 1, ns := 1, flags := 0, tag := 0xABCD1234, lba := 5, count := 1, addr := 0x10000000, param := [] }], buf := [⟨4, 1, 5, 1, some [9, 8]⟩] }, nand := { table := [(1, { size := 100, data := true, enc := 0, unit := false, slot := 20, tid := 0, w := true })] } },
    3,
    ({ entry := 3, qp := 2, tid := 0, w := true, opc := 1, ns := 1, flags := 0, tag := 0xABCD1234, lba := 5, count := 1, addr := 0x10000000, param := [] }),
    ({ size := 100, data := true, enc := 0, unit := false, slot := 20, tid := 0, w := true }), true, (State.stgTake
    { ((wOn.wr (stA 0) 1).wr (stA 4) 1) with stg := { cmds := [{ entry := 3, qp := 2, tid := 0, w := true, opc := 1, ns := 1, flags := 0, tag := 0xABCD1234, lba := 5, count := 1, addr := 0x10000000, param := [] }], buf := [⟨4, 1, 5, 1, some [9, 8]⟩] }, nand := { table := [(1, { size := 100, data := true, enc := 0, unit := false, slot := 20, tid := 0, w := true })] } }),
    by decide +kernel⟩,
   ⟨{ ((wOn.wr (stA 0) 1).wr (stA 4) 1) with stg := { cmds := [{ entry := 3, qp := 2, tid := 0, w := true, opc := 1, ns := 1, flags := 0, tag := 0xABCD1234, lba := 5, count := 2, addr := 0x10000000, param := [] }] }, nand := { table := [(1, { size := 100, data := true, enc := 0, unit := false, slot := 20, tid := 0, w := true })] } },
     3,
     ({ entry := 3, qp := 2, tid := 0, w := true, opc := 1, ns := 1, flags := 0, tag := 0xABCD1234, lba := 5, count := 2, addr := 0x10000000, param := [] }),
     ({ size := 100, data := true, enc := 0, unit := false, slot := 20, tid := 0, w := true }), 1, (State.stgTake
     { ((wOn.wr (stA 0) 1).wr (stA 4) 1) with stg := { cmds := [{ entry := 3, qp := 2, tid := 0, w := true, opc := 1, ns := 1, flags := 0, tag := 0xABCD1234, lba := 5, count := 2, addr := 0x10000000, param := [] }] }, nand := { table := [(1, { size := 100, data := true, enc := 0, unit := false, slot := 20, tid := 0, w := true })] } }),
     by decide⟩,
   ⟨{ (((((wOn.wr (stA 0) 1).wr (stA 4) 1).wr (slA 20 4) 0x601).wr (slA 20 8) 1).setSlot 20 { key := List.replicate 32 7 }) with stg := { cmds := [{ entry := 3, qp := 2, tid := 0, w := true, opc := 1, ns := 1, flags := 0, tag := 0xABCD1234, lba := 5, count := 2, addr := 0x10000000, param := [] }] }, nand := { table := [(1, { size := 100, data := true, enc := 1, unit := false, slot := 20, tid := 0, w := true })] } },
     3,
     ({ entry := 3, qp := 2, tid := 0, w := true, opc := 1, ns := 1, flags := 0, tag := 0xABCD1234, lba := 5, count := 2, addr := 0x10000000, param := [] }),
     ({ size := 100, data := true, enc := 1, unit := false, slot := 20, tid := 0, w := true }), (State.stgTake
     { (((((wOn.wr (stA 0) 1).wr (stA 4) 1).wr (slA 20 4) 0x601).wr (slA 20 8) 1).setSlot 20 { key := List.replicate 32 7 }) with stg := { cmds := [{ entry := 3, qp := 2, tid := 0, w := true, opc := 1, ns := 1, flags := 0, tag := 0xABCD1234, lba := 5, count := 2, addr := 0x10000000, param := [] }] }, nand := { table := [(1, { size := 100, data := true, enc := 1, unit := false, slot := 20, tid := 0, w := true })] } }),
     by decide⟩,
   ⟨{ ((wOn.wr (stA 0) 1).wr (stA 4) 1) with stg := { cmds := [{ entry := 3, qp := 2, tid := 0, w := true, opc := 1, ns := 1, flags := 0, tag := 0xABCD1234, lba := 5, count := 2, addr := 0x10000000, param := [] }], due := [5], hostSlots := 7 }, nand := { table := [(1, { size := 100, data := true, enc := 0, unit := false, slot := 20, tid := 0, w := true })] } },
     3,
     ({ entry := 3, qp := 2, tid := 0, w := true, opc := 1, ns := 1, flags := 0, tag := 0xABCD1234, lba := 5, count := 2, addr := 0x10000000, param := [] }),
     ({ size := 100, data := true, enc := 0, unit := false, slot := 20, tid := 0, w := true }), (State.stgTake
     { ((wOn.wr (stA 0) 1).wr (stA 4) 1) with stg := { cmds := [{ entry := 3, qp := 2, tid := 0, w := true, opc := 1, ns := 1, flags := 0, tag := 0xABCD1234, lba := 5, count := 2, addr := 0x10000000, param := [] }], due := [5], hostSlots := 7 }, nand := { table := [(1, { size := 100, data := true, enc := 0, unit := false, slot := 20, tid := 0, w := true })] } }),
     by decide +kernel⟩,
   ⟨{ ((wOn.wr (stA 0) 1).wr (stA 4) 1) with stg := { cmds := [{ entry := 3, qp := 2, tid := 0, w := true, opc := 2, ns := 1, flags := 0, tag := 0xABCD1234, lba := 5, count := 1, addr := 0x10000000, param := [] }] }, nand := { table := [(1, { size := 100, data := true, enc := 0, unit := false, slot := 20, tid := 0, w := true })] } },
     3,
     ({ entry := 3, qp := 2, tid := 0, w := true, opc := 2, ns := 1, flags := 0, tag := 0xABCD1234, lba := 5, count := 1, addr := 0x10000000, param := [] }),
     ({ size := 100, data := true, enc := 0, unit := false, slot := 20, tid := 0, w := true }), true, (State.stgTake
     { ((wOn.wr (stA 0) 1).wr (stA 4) 1) with stg := { cmds := [{ entry := 3, qp := 2, tid := 0, w := true, opc := 2, ns := 1, flags := 0, tag := 0xABCD1234, lba := 5, count := 1, addr := 0x10000000, param := [] }] }, nand := { table := [(1, { size := 100, data := true, enc := 0, unit := false, slot := 20, tid := 0, w := true })] } }),
     by decide +kernel⟩,
   ⟨{ { ((wOn.wr (stA 0) 1).wr (stA 4) 1) with stg := { cmds := [{ entry := 3, qp := 2, tid := 0, w := true, opc := 2, ns := 1, flags := 0, tag := 0xABCD1234, lba := 5, count := 2, addr := 0x10000000, param := [] }] }, nand := { table := [(1, { size := 100, data := true, enc := 0, unit := false, slot := 20, tid := 0, w := true })] } } with eccBad := [0x10001008] },
     3,
     ({ entry := 3, qp := 2, tid := 0, w := true, opc := 2, ns := 1, flags := 0, tag := 0xABCD1234, lba := 5, count := 2, addr := 0x10000000, param := [] }),
     ({ size := 100, data := true, enc := 0, unit := false, slot := 20, tid := 0, w := true }), 513, (State.stgTake
     { { ((wOn.wr (stA 0) 1).wr (stA 4) 1) with stg := { cmds := [{ entry := 3, qp := 2, tid := 0, w := true, opc := 2, ns := 1, flags := 0, tag := 0xABCD1234, lba := 5, count := 2, addr := 0x10000000, param := [] }] }, nand := { table := [(1, { size := 100, data := true, enc := 0, unit := false, slot := 20, tid := 0, w := true })] } } with eccBad := [0x10001008] }),
     by decide +kernel⟩,
   ⟨{ (((((wOn.wr (stA 0) 1).wr (stA 4) 1).wr (slA 20 4) 0x601).wr (slA 20 8) 1).setSlot 20 { key := List.replicate 32 7 }) with stg := { cmds := [{ entry := 3, qp := 2, tid := 0, w := true, opc := 2, ns := 1, flags := 0, tag := 0xABCD1234, lba := 5, count := 1, addr := 0x10000000, param := [] }] }, nand := { table := [(1, { size := 100, data := true, enc := 1, unit := false, slot := 20, tid := 0, w := true })] } },
     3,
     ({ entry := 3, qp := 2, tid := 0, w := true, opc := 2, ns := 1, flags := 0, tag := 0xABCD1234, lba := 5, count := 1, addr := 0x10000000, param := [] }),
     ({ size := 100, data := true, enc := 1, unit := false, slot := 20, tid := 0, w := true }), (State.stgTake
     { (((((wOn.wr (stA 0) 1).wr (stA 4) 1).wr (slA 20 4) 0x601).wr (slA 20 8) 1).setSlot 20 { key := List.replicate 32 7 }) with stg := { cmds := [{ entry := 3, qp := 2, tid := 0, w := true, opc := 2, ns := 1, flags := 0, tag := 0xABCD1234, lba := 5, count := 1, addr := 0x10000000, param := [] }] }, nand := { table := [(1, { size := 100, data := true, enc := 1, unit := false, slot := 20, tid := 0, w := true })] } }),
     by decide +kernel⟩,
   ⟨{ ((wOn.wr (stA 0) 1).wr (stA 4) 1) with stg := { cmds := [{ entry := 3, qp := 2, tid := 0, w := true, opc := 3, ns := 1, flags := 0, tag := 0xABCD1234, lba := 5, count := 2, addr := 0x10000000, param := [], mark := 7 }], buf := [⟨7, 1, 5, 1, none⟩, ⟨4, 2, 5, 1, none⟩] }, nand := { table := [(1, { size := 100, data := true, enc := 0, unit := false, slot := 20, tid := 0, w := true })] } },
     3,
     ({ entry := 3, qp := 2, tid := 0, w := true, opc := 3, ns := 1, flags := 0, tag := 0xABCD1234, lba := 5, count := 2, addr := 0x10000000, param := [], mark := 7 }),
     ({ size := 100, data := true, enc := 0, unit := false, slot := 20, tid := 0, w := true }), (State.stgTake
     { ((wOn.wr (stA 0) 1).wr (stA 4) 1) with stg := { cmds := [{ entry := 3, qp := 2, tid := 0, w := true, opc := 3, ns := 1, flags := 0, tag := 0xABCD1234, lba := 5, count := 2, addr := 0x10000000, param := [], mark := 7 }], buf := [⟨7, 1, 5, 1, none⟩, ⟨4, 2, 5, 1, none⟩] }, nand := { table := [(1, { size := 100, data := true, enc := 0, unit := false, slot := 20, tid := 0, w := true })] } }),
     by decide⟩,
   ⟨{ ((wOn.wr (stA 0) 1).wr (stA 4) 1) with stg := { cmds := [{ entry := 3, qp := 2, tid := 0, w := true, opc := 3, ns := 1, flags := 0, tag := 0xABCD1234, lba := 5, count := 2, addr := 0x10000000, param := [], mark := 7 }], buf := [⟨6, 1, 5, 1, none⟩] }, nand := { table := [(1, { size := 100, data := true, enc := 0, unit := false, slot := 20, tid := 0, w := true })] } },
     3,
     ({ entry := 3, qp := 2, tid := 0, w := true, opc := 3, ns := 1, flags := 0, tag := 0xABCD1234, lba := 5, count := 2, addr := 0x10000000, param := [], mark := 7 }),
     ({ size := 100, data := true, enc := 0, unit := false, slot := 20, tid := 0, w := true }), (⟨6, 1, 5, 1, none⟩),
     (State.stgTake
     { ((wOn.wr (stA 0) 1).wr (stA 4) 1) with stg := { cmds := [{ entry := 3, qp := 2, tid := 0, w := true, opc := 3, ns := 1, flags := 0, tag := 0xABCD1234, lba := 5, count := 2, addr := 0x10000000, param := [], mark := 7 }], buf := [⟨6, 1, 5, 1, none⟩] }, nand := { table := [(1, { size := 100, data := true, enc := 0, unit := false, slot := 20, tid := 0, w := true })] } }),
     by decide⟩,
   ⟨{ ((wOn.wr (stA 0) 1).wr (stA 4) 1) with stg := { cmds := [{ entry := 3, qp := 2, tid := 0, w := true, opc := 4, ns := 1, flags := 0, tag := 0xABCD1234, lba := 5, count := 2, addr := 0x10000000, param := [] }] }, nand := { table := [(1, { size := 100, data := true, enc := 0, unit := false, slot := 20, tid := 0, w := true })] } },
     3,
     ({ entry := 3, qp := 2, tid := 0, w := true, opc := 4, ns := 1, flags := 0, tag := 0xABCD1234, lba := 5, count := 2, addr := 0x10000000, param := [] }),
     ({ size := 100, data := true, enc := 0, unit := false, slot := 20, tid := 0, w := true }), (State.stgTake
     { ((wOn.wr (stA 0) 1).wr (stA 4) 1) with stg := { cmds := [{ entry := 3, qp := 2, tid := 0, w := true, opc := 4, ns := 1, flags := 0, tag := 0xABCD1234, lba := 5, count := 2, addr := 0x10000000, param := [] }] }, nand := { table := [(1, { size := 100, data := true, enc := 0, unit := false, slot := 20, tid := 0, w := true })] } }),
     by decide⟩⟩

/-- States and operands that meet the hypotheses of `Obligations.Storage`, part 2. -/
theorem meets_Storage_2 :
    (∃ (s : State) (c : Fin 256) (k : StgCmd) (r : NsRec) (u : State), CmdRuns s u c.val 1 true k r ∧ u.hostMay = true)
    ∧ (∃ (s : State) (c : Fin 256) (k : StgCmd) (r : NsRec) (u : State), CmdRuns s u c.val 2 true k r)
    ∧ (∃ (s : State) (c : Fin 256) (k : StgCmd) (u : State), StgTakes s u ∧ u.cmd c.val = some k ∧ k.ended = none ∧
      u.cmdBehind k = true ∧ k.opc = 1)
    ∧ (∃ (s : State) (c : Fin 256) (k : StgCmd) (u : State), StgTakes s u ∧ u.cmd c.val = some k ∧ k.ended = none ∧
      u.cmdBehind k = true ∧ k.opc = 2)
    ∧ (∃ (s : State) (c : Fin 256) (k : StgCmd) (u : State), StgTakes s u ∧ u.cmd c.val = some k ∧ k.ended = none ∧
      u.cmdBehind k = true ∧ k.opc = 4)
    ∧ (∃ (s : State) (c : Fin 256) (k : StgCmd) (st : Status) (u : State), StgTakes s u ∧ u.cmd c.val = some k ∧ k.ended =
      none ∧ u.cmdBehind k = false ∧ k.moved = 0 ∧ u.cmdCheck k true = some st ∧ st ≠ .access ∧ k.opc = 1)
    ∧ (∃ (s : State) (c : Fin 256) (k : StgCmd) (st : Status) (u : State), StgTakes s u ∧ u.cmd c.val = some k ∧ k.ended =
      none ∧ u.cmdBehind k = false ∧ k.moved = 0 ∧ u.cmdCheck k true = some st ∧ st ≠ .access ∧ k.opc = 2)
    ∧ (∃ (s : State) (c : Fin 256) (k : StgCmd) (st : Status) (u : State), StgTakes s u ∧ u.cmd c.val = some k ∧ k.ended =
      none ∧ u.cmdBehind k = false ∧ k.moved = 0 ∧ u.cmdCheck k false = some st ∧ st ≠ .access ∧ k.opc = 3)
    ∧ (∃ (s : State) (c : Fin 256) (k : StgCmd) (st : Status) (u : State), StgTakes s u ∧ u.cmd c.val = some k ∧ k.ended =
      none ∧ u.cmdBehind k = false ∧ k.moved = 0 ∧ u.cmdCheck k false = some st ∧ st ≠ .access ∧ k.opc = 4)
    ∧ (∃ (s : State) (c : Fin 256) (k : StgCmd) (u : State), StgTakes s u ∧ u.cmd c.val = some k ∧ k.ended = none ∧
      u.cmdBehind k = false ∧ k.moved = 0 ∧ u.cmdCheck k true = some .access ∧ k.opc = 1) :=
  ⟨⟨{ ((wOn.wr (stA 0) 1).wr (stA 4) 1) with stg := { cmds := [{ entry := 3, qp := 2, tid := 0, w := true, opc := 1, ns := 1, flags := 0, tag := 0xABCD1234, lba := 5, count := 2, addr := 0x10000000, param := [] }] }, nand := { table := [(1, { size := 100, data := true, enc := 0, unit := false, slot := 20, tid := 0, w := true })] } },
    3,
    ({ entry := 3, qp := 2, tid := 0, w := true, opc := 1, ns := 1, flags := 0, tag := 0xABCD1234, lba := 5, count := 2, addr := 0x10000000, param := [] }),
    ({ size := 100, data := true, enc := 0, unit := false, slot := 20, tid := 0, w := true }), (State.stgTake
    { ((wOn.wr (stA 0) 1).wr (stA 4) 1) with stg := { cmds := [{ entry := 3, qp := 2, tid := 0, w := true, opc := 1, ns := 1, flags := 0, tag := 0xABCD1234, lba := 5, count := 2, addr := 0x10000000, param := [] }] }, nand := { table := [(1, { size := 100, data := true, enc := 0, unit := false, slot := 20, tid := 0, w := true })] } }),
    by decide⟩,
   ⟨{ ((wOn.wr (stA 0) 1).wr (stA 4) 1) with stg := { cmds := [{ entry := 3, qp := 2, tid := 0, w := true, opc := 2, ns := 1, flags := 0, tag := 0xABCD1234, lba := 5, count := 2, addr := 0x10000000, param := [] }] }, nand := { table := [(1, { size := 100, data := true, enc := 0, unit := false, slot := 20, tid := 0, w := true })] } },
     3,
     ({ entry := 3, qp := 2, tid := 0, w := true, opc := 2, ns := 1, flags := 0, tag := 0xABCD1234, lba := 5, count := 2, addr := 0x10000000, param := [] }),
     ({ size := 100, data := true, enc := 0, unit := false, slot := 20, tid := 0, w := true }), (State.stgTake
     { ((wOn.wr (stA 0) 1).wr (stA 4) 1) with stg := { cmds := [{ entry := 3, qp := 2, tid := 0, w := true, opc := 2, ns := 1, flags := 0, tag := 0xABCD1234, lba := 5, count := 2, addr := 0x10000000, param := [] }] }, nand := { table := [(1, { size := 100, data := true, enc := 0, unit := false, slot := 20, tid := 0, w := true })] } }),
     by decide⟩,
   ⟨{ ((wOn.wr (stA 0) 1).wr (stA 4) 1) with stg := { cmds := [{ entry := 9, qp := 2, tid := 0, w := true, opc := 2, ns := 1, flags := 0, tag := 0xABCD1234, lba := 6, count := 2, addr := 0x10000000, param := [] }, { entry := 3, qp := 2, tid := 0, w := true, opc := 1, ns := 1, flags := 0, tag := 0xABCD1234, lba := 5, count := 2, addr := 0x10000000, param := [] }] } },
     3,
     ({ entry := 3, qp := 2, tid := 0, w := true, opc := 1, ns := 1, flags := 0, tag := 0xABCD1234, lba := 5, count := 2, addr := 0x10000000, param := [] }),
     (State.stgTake
     { ((wOn.wr (stA 0) 1).wr (stA 4) 1) with stg := { cmds := [{ entry := 9, qp := 2, tid := 0, w := true, opc := 2, ns := 1, flags := 0, tag := 0xABCD1234, lba := 6, count := 2, addr := 0x10000000, param := [] }, { entry := 3, qp := 2, tid := 0, w := true, opc := 1, ns := 1, flags := 0, tag := 0xABCD1234, lba := 5, count := 2, addr := 0x10000000, param := [] }] } }),
     by decide⟩,
   ⟨{ ((wOn.wr (stA 0) 1).wr (stA 4) 1) with stg := { cmds := [{ entry := 9, qp := 2, tid := 0, w := true, opc := 2, ns := 1, flags := 0, tag := 0xABCD1234, lba := 6, count := 2, addr := 0x10000000, param := [] }, { entry := 3, qp := 2, tid := 0, w := true, opc := 2, ns := 1, flags := 0, tag := 0xABCD1234, lba := 5, count := 2, addr := 0x10000000, param := [] }] } },
     3,
     ({ entry := 3, qp := 2, tid := 0, w := true, opc := 2, ns := 1, flags := 0, tag := 0xABCD1234, lba := 5, count := 2, addr := 0x10000000, param := [] }),
     (State.stgTake
     { ((wOn.wr (stA 0) 1).wr (stA 4) 1) with stg := { cmds := [{ entry := 9, qp := 2, tid := 0, w := true, opc := 2, ns := 1, flags := 0, tag := 0xABCD1234, lba := 6, count := 2, addr := 0x10000000, param := [] }, { entry := 3, qp := 2, tid := 0, w := true, opc := 2, ns := 1, flags := 0, tag := 0xABCD1234, lba := 5, count := 2, addr := 0x10000000, param := [] }] } }),
     by decide⟩,
   ⟨{ ((wOn.wr (stA 0) 1).wr (stA 4) 1) with stg := { cmds := [{ entry := 9, qp := 2, tid := 0, w := true, opc := 2, ns := 1, flags := 0, tag := 0xABCD1234, lba := 6, count := 2, addr := 0x10000000, param := [] }, { entry := 3, qp := 2, tid := 0, w := true, opc := 4, ns := 1, flags := 0, tag := 0xABCD1234, lba := 5, count := 2, addr := 0x10000000, param := [] }] } },
     3,
     ({ entry := 3, qp := 2, tid := 0, w := true, opc := 4, ns := 1, flags := 0, tag := 0xABCD1234, lba := 5, count := 2, addr := 0x10000000, param := [] }),
     (State.stgTake
     { ((wOn.wr (stA 0) 1).wr (stA 4) 1) with stg := { cmds := [{ entry := 9, qp := 2, tid := 0, w := true, opc := 2, ns := 1, flags := 0, tag := 0xABCD1234, lba := 6, count := 2, addr := 0x10000000, param := [] }, { entry := 3, qp := 2, tid := 0, w := true, opc := 4, ns := 1, flags := 0, tag := 0xABCD1234, lba := 5, count := 2, addr := 0x10000000, param := [] }] } }),
     by decide⟩,
   ⟨{ ((wOn.wr (stA 0) 1).wr (stA 4) 1) with stg := { cmds := [{ entry := 3, qp := 2, tid := 0, w := true, opc := 1, ns := 1, flags := 0, tag := 0xABCD1234, lba := 5, count := 0, addr := 0x10000000, param := [] }] }, nand := { table := [(1, { size := 100, data := true, enc := 0, unit := false, slot := 20, tid := 0, w := true })] } },
     3,
     ({ entry := 3, qp := 2, tid := 0, w := true, opc := 1, ns := 1, flags := 0, tag := 0xABCD1234, lba := 5, count := 0, addr := 0x10000000, param := [] }),
     .done, (State.stgTake
     { ((wOn.wr (stA 0) 1).wr (stA 4) 1) with stg := { cmds := [{ entry := 3, qp := 2, tid := 0, w := true, opc := 1, ns := 1, flags := 0, tag := 0xABCD1234, lba := 5, count := 0, addr := 0x10000000, param := [] }] }, nand := { table := [(1, { size := 100, data := true, enc := 0, unit := false, slot := 20, tid := 0, w := true })] } }),
     by decide⟩,
   ⟨{ ((wOn.wr (stA 0) 1).wr (stA 4) 1) with stg := { cmds := [{ entry := 3, qp := 2, tid := 0, w := true, opc := 2, ns := 1, flags := 0, tag := 0xABCD1234, lba := 5, count := 0, addr := 0x10000000, param := [] }] }, nand := { table := [(1, { size := 100, data := true, enc := 0, unit := false, slot := 20, tid := 0, w := true })] } },
     3,
     ({ entry := 3, qp := 2, tid := 0, w := true, opc := 2, ns := 1, flags := 0, tag := 0xABCD1234, lba := 5, count := 0, addr := 0x10000000, param := [] }),
     .done, (State.stgTake
     { ((wOn.wr (stA 0) 1).wr (stA 4) 1) with stg := { cmds := [{ entry := 3, qp := 2, tid := 0, w := true, opc := 2, ns := 1, flags := 0, tag := 0xABCD1234, lba := 5, count := 0, addr := 0x10000000, param := [] }] }, nand := { table := [(1, { size := 100, data := true, enc := 0, unit := false, slot := 20, tid := 0, w := true })] } }),
     by decide⟩,
   ⟨{ ((wOn.wr (stA 0) 1).wr (stA 4) 1) with stg := { cmds := [{ entry := 3, qp := 2, tid := 0, w := true, opc := 3, ns := 16, flags := 0, tag := 0xABCD1234, lba := 5, count := 2, addr := 0x10000000, param := [] }] }, nand := { table := [(1, { size := 100, data := true, enc := 0, unit := false, slot := 20, tid := 0, w := true })] } },
     3,
     ({ entry := 3, qp := 2, tid := 0, w := true, opc := 3, ns := 16, flags := 0, tag := 0xABCD1234, lba := 5, count := 2, addr := 0x10000000, param := [] }),
     .range, (State.stgTake
     { ((wOn.wr (stA 0) 1).wr (stA 4) 1) with stg := { cmds := [{ entry := 3, qp := 2, tid := 0, w := true, opc := 3, ns := 16, flags := 0, tag := 0xABCD1234, lba := 5, count := 2, addr := 0x10000000, param := [] }] }, nand := { table := [(1, { size := 100, data := true, enc := 0, unit := false, slot := 20, tid := 0, w := true })] } }),
     by decide⟩,
   ⟨{ ((wOn.wr (stA 0) 1).wr (stA 4) 1) with stg := { cmds := [{ entry := 3, qp := 2, tid := 0, w := true, opc := 4, ns := 1, flags := 0, tag := 0xABCD1234, lba := 5, count := 0, addr := 0x10000000, param := [] }] }, nand := { table := [(1, { size := 100, data := true, enc := 0, unit := false, slot := 20, tid := 0, w := true })] } },
     3,
     ({ entry := 3, qp := 2, tid := 0, w := true, opc := 4, ns := 1, flags := 0, tag := 0xABCD1234, lba := 5, count := 0, addr := 0x10000000, param := [] }),
     .done, (State.stgTake
     { ((wOn.wr (stA 0) 1).wr (stA 4) 1) with stg := { cmds := [{ entry := 3, qp := 2, tid := 0, w := true, opc := 4, ns := 1, flags := 0, tag := 0xABCD1234, lba := 5, count := 0, addr := 0x10000000, param := [] }] }, nand := { table := [(1, { size := 100, data := true, enc := 0, unit := false, slot := 20, tid := 0, w := true })] } }),
     by decide⟩,
   ⟨{ ((wOn.wr (stA 0) 1).wr (stA 4) 1) with stg := { cmds := [{ entry := 3, qp := 2, tid := 5, w := false, opc := 1, ns := 1, flags := 0, tag := 0xABCD1234, lba := 5, count := 2, addr := 0x10000000, param := [] }] }, nand := { table := [(1, { size := 100, data := true, enc := 0, unit := false, slot := 20, tid := 0, w := true })] } },
     3,
     ({ entry := 3, qp := 2, tid := 5, w := false, opc := 1, ns := 1, flags := 0, tag := 0xABCD1234, lba := 5, count := 2, addr := 0x10000000, param := [] }),
     (State.stgTake
     { ((wOn.wr (stA 0) 1).wr (stA 4) 1) with stg := { cmds := [{ entry := 3, qp := 2, tid := 5, w := false, opc := 1, ns := 1, flags := 0, tag := 0xABCD1234, lba := 5, count := 2, addr := 0x10000000, param := [] }] }, nand := { table := [(1, { size := 100, data := true, enc := 0, unit := false, slot := 20, tid := 0, w := true })] } }),
     by decide⟩⟩

/-- States and operands that meet the hypotheses of `Obligations.Storage`, part 3. -/
theorem meets_Storage_3 :
    (∃ (s : State) (c : Fin 256) (k : StgCmd) (u : State), StgTakes s u ∧ u.cmd c.val = some k ∧ k.ended = none ∧
      u.cmdBehind k = false ∧ k.moved = 0 ∧ u.cmdCheck k true = some .access ∧ k.opc = 2)
    ∧ (∃ (s : State) (c : Fin 256) (k : StgCmd) (u : State), StgTakes s u ∧ u.cmd c.val = some k ∧ k.ended = none ∧
      u.cmdBehind k = false ∧ k.moved = 0 ∧ u.cmdCheck k false = some .access ∧ k.opc = 3)
    ∧ (∃ (s : State) (c : Fin 256) (k : StgCmd) (u : State), StgTakes s u ∧ u.cmd c.val = some k ∧ k.ended = none ∧
      u.cmdBehind k = false ∧ k.moved = 0 ∧ u.cmdCheck k false = some .access ∧ k.opc = 4)
    ∧ (∃ (s : State) (c : Fin 256) (k : StgCmd) (r : NsRec) (u : State), StgTakes s u ∧ u.cmd c.val = some k ∧ k.ended =
      none ∧ u.cmdBehind k = false ∧ k.moved = 0 ∧ u.cmdCheck k true = none ∧ u.ns k.ns = some r ∧ (u.nsPending r = true ∨
      u.nsNoKst r = true) ∧ k.opc ≠ 3 ∧ k.opc = 1)
    ∧ (∃ (s : State) (c : Fin 256) (k : StgCmd) (r : NsRec) (u : State), StgTakes s u ∧ u.cmd c.val = some k ∧ k.ended =
      none ∧ u.cmdBehind k = false ∧ k.moved = 0 ∧ u.cmdCheck k true = none ∧ u.ns k.ns = some r ∧ (u.nsPending r = true ∨
      u.nsNoKst r = true) ∧ k.opc ≠ 3 ∧ k.opc = 2)
    ∧ (∃ (s : State) (c : Fin 256) (k : StgCmd) (r : NsRec) (u : State), StgTakes s u ∧ u.cmd c.val = some k ∧ k.ended =
      none ∧ u.cmdBehind k = false ∧ k.moved = 0 ∧ u.cmdCheck k false = none ∧ u.ns k.ns = some r ∧ (u.nsPending r = true ∨
      u.nsNoKst r = true) ∧ k.opc ≠ 3 ∧ k.opc = 4)
    ∧ (∃ (s : State) (c : Fin 256) (k : StgCmd) (u : State), StgTakes s u ∧ u.cmd c.val = some k ∧ k.opc = 5 ∧ k.ended =
      none ∧ (k.ns = 0 ∨ k.ask.size = 0 ∨ u.nsNoKst k.ask = false) ∧ u.formatCheck k = none ∧ k.ns = 0)
    ∧ (∃ (s : State) (c : Fin 256) (k : StgCmd) (u : State), StgTakes s u ∧ u.cmd c.val = some k ∧ k.opc = 5 ∧ k.ended =
      none ∧ (k.ns = 0 ∨ k.ask.size = 0 ∨ u.nsNoKst k.ask = false) ∧ u.formatCheck k = none ∧ k.ns ≠ 0 ∧ k.ask.size = 0)
    ∧ (∃ (s : State) (c : Fin 256) (k : StgCmd) (u : State), StgTakes s u ∧ u.cmd c.val = some k ∧ k.opc = 5 ∧ k.ended =
      none ∧ (k.ns = 0 ∨ k.ask.size = 0 ∨ u.nsNoKst k.ask = false) ∧ u.formatCheck k = none ∧ k.ns ≠ 0 ∧ k.ask.size ≠ 0 ∧
      (k.ask.unit = false ∨ k.ask.enc = 0) ∧ u.nsPending k.ask = false)
    ∧ (∃ (s : State) (c : Fin 256) (k : StgCmd) (u : State), StgTakes s u ∧ u.cmd c.val = some k ∧ k.opc = 5 ∧ k.ended =
      none ∧ k.tags.manager = true ∧ k.ns ≠ 0 ∧ k.ask.size ≠ 0 ∧ k.ask.enc ≤ 2 ∧ (u.nsNoKst k.ask = true ∨ u.formatCheck k =
      none ∧ u.nsPending k.ask = true) ∧ k.keyWait = none) :=
  ⟨⟨{ ((wOn.wr (stA 0) 1).wr (stA 4) 1) with stg := { cmds := [{ entry := 3, qp := 2, tid := 5, w := false, opc := 2, ns := 4, flags := 0, tag := 0xABCD1234, lba := 5, count := 2, addr := 0x10000000, param := [] }] }, nand := { table := [(1, { size := 100, data := true, enc := 0, unit := false, slot := 20, tid := 0, w := true })] } },
    3,
    ({ entry := 3, qp := 2, tid := 5, w := false, opc := 2, ns := 4, flags := 0, tag := 0xABCD1234, lba := 5, count := 2, addr := 0x10000000, param := [] }),
    (State.stgTake
    { ((wOn.wr (stA 0) 1).wr (stA 4) 1) with stg := { cmds := [{ entry := 3, qp := 2, tid := 5, w := false, opc := 2, ns := 4, flags := 0, tag := 0xABCD1234, lba := 5, count := 2, addr := 0x10000000, param := [] }] }, nand := { table := [(1, { size := 100, data := true, enc := 0, unit := false, slot := 20, tid := 0, w := true })] } }),
    by decide⟩,
   ⟨{ ((wOn.wr (stA 0) 1).wr (stA 4) 1) with stg := { cmds := [{ entry := 3, qp := 2, tid := 5, w := false, opc := 3, ns := 1, flags := 0, tag := 0xABCD1234, lba := 5, count := 2, addr := 0x10000000, param := [] }] }, nand := { table := [(1, { size := 100, data := true, enc := 0, unit := false, slot := 20, tid := 0, w := true })] } },
     3,
     ({ entry := 3, qp := 2, tid := 5, w := false, opc := 3, ns := 1, flags := 0, tag := 0xABCD1234, lba := 5, count := 2, addr := 0x10000000, param := [] }),
     (State.stgTake
     { ((wOn.wr (stA 0) 1).wr (stA 4) 1) with stg := { cmds := [{ entry := 3, qp := 2, tid := 5, w := false, opc := 3, ns := 1, flags := 0, tag := 0xABCD1234, lba := 5, count := 2, addr := 0x10000000, param := [] }] }, nand := { table := [(1, { size := 100, data := true, enc := 0, unit := false, slot := 20, tid := 0, w := true })] } }),
     by decide⟩,
   ⟨{ ((wOn.wr (stA 0) 1).wr (stA 4) 1) with stg := { cmds := [{ entry := 3, qp := 2, tid := 5, w := false, opc := 4, ns := 4, flags := 0, tag := 0xABCD1234, lba := 5, count := 2, addr := 0x10000000, param := [] }] }, nand := { table := [(1, { size := 100, data := true, enc := 0, unit := false, slot := 20, tid := 0, w := true })] } },
     3,
     ({ entry := 3, qp := 2, tid := 5, w := false, opc := 4, ns := 4, flags := 0, tag := 0xABCD1234, lba := 5, count := 2, addr := 0x10000000, param := [] }),
     (State.stgTake
     { ((wOn.wr (stA 0) 1).wr (stA 4) 1) with stg := { cmds := [{ entry := 3, qp := 2, tid := 5, w := false, opc := 4, ns := 4, flags := 0, tag := 0xABCD1234, lba := 5, count := 2, addr := 0x10000000, param := [] }] }, nand := { table := [(1, { size := 100, data := true, enc := 0, unit := false, slot := 20, tid := 0, w := true })] } }),
     by decide⟩,
   ⟨{ ((((((wOn.wr (stA 0) 1).wr (stA 4) 1).wr (slA 20 4) 0x601).wr (slA 20 8) 1).setSlot 20 { key := List.replicate 32 7 }).wr (slA 20 8) 2) with stg := { cmds := [{ entry := 3, qp := 2, tid := 0, w := true, opc := 1, ns := 1, flags := 0, tag := 0xABCD1234, lba := 5, count := 2, addr := 0x10000000, param := [] }] }, nand := { table := [(1, { size := 100, data := true, enc := 1, unit := false, slot := 20, tid := 0, w := true })] } },
     3,
     ({ entry := 3, qp := 2, tid := 0, w := true, opc := 1, ns := 1, flags := 0, tag := 0xABCD1234, lba := 5, count := 2, addr := 0x10000000, param := [] }),
     ({ size := 100, data := true, enc := 1, unit := false, slot := 20, tid := 0, w := true }), (State.stgTake
     { ((((((wOn.wr (stA 0) 1).wr (stA 4) 1).wr (slA 20 4) 0x601).wr (slA 20 8) 1).setSlot 20 { key := List.replicate 32 7 }).wr (slA 20 8) 2) with stg := { cmds := [{ entry := 3, qp := 2, tid := 0, w := true, opc := 1, ns := 1, flags := 0, tag := 0xABCD1234, lba := 5, count := 2, addr := 0x10000000, param := [] }] }, nand := { table := [(1, { size := 100, data := true, enc := 1, unit := false, slot := 20, tid := 0, w := true })] } }),
     by decide⟩,
   ⟨{ ((((((wOn.wr (stA 0) 1).wr (stA 4) 1).wr (slA 20 4) 0x601).wr (slA 20 8) 1).setSlot 20 { key := List.replicate 32 7 }).wr (slA 20 8) 2) with stg := { cmds := [{ entry := 3, qp := 2, tid := 0, w := true, opc := 2, ns := 1, flags := 0, tag := 0xABCD1234, lba := 5, count := 2, addr := 0x10000000, param := [] }] }, nand := { table := [(1, { size := 100, data := true, enc := 1, unit := false, slot := 20, tid := 0, w := true })] } },
     3,
     ({ entry := 3, qp := 2, tid := 0, w := true, opc := 2, ns := 1, flags := 0, tag := 0xABCD1234, lba := 5, count := 2, addr := 0x10000000, param := [] }),
     ({ size := 100, data := true, enc := 1, unit := false, slot := 20, tid := 0, w := true }), (State.stgTake
     { ((((((wOn.wr (stA 0) 1).wr (stA 4) 1).wr (slA 20 4) 0x601).wr (slA 20 8) 1).setSlot 20 { key := List.replicate 32 7 }).wr (slA 20 8) 2) with stg := { cmds := [{ entry := 3, qp := 2, tid := 0, w := true, opc := 2, ns := 1, flags := 0, tag := 0xABCD1234, lba := 5, count := 2, addr := 0x10000000, param := [] }] }, nand := { table := [(1, { size := 100, data := true, enc := 1, unit := false, slot := 20, tid := 0, w := true })] } }),
     by decide⟩,
   ⟨{ ((((((wOn.wr (stA 0) 1).wr (stA 4) 1).wr (slA 20 4) 0x601).wr (slA 20 8) 1).setSlot 20 { key := List.replicate 32 7 }).wr (slA 20 8) 2) with stg := { cmds := [{ entry := 3, qp := 2, tid := 0, w := true, opc := 4, ns := 1, flags := 0, tag := 0xABCD1234, lba := 5, count := 2, addr := 0x10000000, param := [] }] }, nand := { table := [(1, { size := 100, data := true, enc := 1, unit := false, slot := 20, tid := 0, w := true })] } },
     3,
     ({ entry := 3, qp := 2, tid := 0, w := true, opc := 4, ns := 1, flags := 0, tag := 0xABCD1234, lba := 5, count := 2, addr := 0x10000000, param := [] }),
     ({ size := 100, data := true, enc := 1, unit := false, slot := 20, tid := 0, w := true }), (State.stgTake
     { ((((((wOn.wr (stA 0) 1).wr (stA 4) 1).wr (slA 20 4) 0x601).wr (slA 20 8) 1).setSlot 20 { key := List.replicate 32 7 }).wr (slA 20 8) 2) with stg := { cmds := [{ entry := 3, qp := 2, tid := 0, w := true, opc := 4, ns := 1, flags := 0, tag := 0xABCD1234, lba := 5, count := 2, addr := 0x10000000, param := [] }] }, nand := { table := [(1, { size := 100, data := true, enc := 1, unit := false, slot := 20, tid := 0, w := true })] } }),
     by decide⟩,
   ⟨{ ((wOn.wr (stA 0) 1).wr (stA 4) 1) with stg := { cmds := [{ entry := 3, qp := 2, tid := 0, w := true, opc := 5, ns := 0, flags := 0, tag := 0xABCD1234, lba := 5, count := 2, addr := 0x10000000, param := [] }], buf := [⟨4, 0, 1, 1, none⟩, ⟨5, 1, 1, 1, none⟩] }, nand := { table := [(1, { size := 100, data := true, enc := 0, unit := false, slot := 20, tid := 0, w := true })], blocks := [(3, [1]), (2 ^ 40 + 3, [1])] } },
     3,
     ({ entry := 3, qp := 2, tid := 0, w := true, opc := 5, ns := 0, flags := 0, tag := 0xABCD1234, lba := 5, count := 2, addr := 0x10000000, param := [] }),
     (State.stgTake
     { ((wOn.wr (stA 0) 1).wr (stA 4) 1) with stg := { cmds := [{ entry := 3, qp := 2, tid := 0, w := true, opc := 5, ns := 0, flags := 0, tag := 0xABCD1234, lba := 5, count := 2, addr := 0x10000000, param := [] }], buf := [⟨4, 0, 1, 1, none⟩, ⟨5, 1, 1, 1, none⟩] }, nand := { table := [(1, { size := 100, data := true, enc := 0, unit := false, slot := 20, tid := 0, w := true })], blocks := [(3, [1]), (2 ^ 40 + 3, [1])] } }),
     by decide⟩,
   ⟨{ ((wOn.wr (stA 0) 1).wr (stA 4) 1) with stg := { cmds := [{ entry := 3, qp := 2, tid := 0, w := true, opc := 5, ns := 2, flags := 0, tag := 0xABCD1234, lba := 5, count := 2, addr := 0x10000000, param := leBytes 8 0 ++ [0, 0, 0, 0, 0, 0, 0, 0] ++ List.replicate 16 0 }] }, nand := { table := [(1, { size := 100, data := true, enc := 0, unit := false, slot := 20, tid := 0, w := true }), (2, { size := 100, data := true, enc := 0, unit := false, slot := 20, tid := 0, w := true })] } },
     3,
     ({ entry := 3, qp := 2, tid := 0, w := true, opc := 5, ns := 2, flags := 0, tag := 0xABCD1234, lba := 5, count := 2, addr := 0x10000000, param := leBytes 8 0 ++ [0, 0, 0, 0, 0, 0, 0, 0] ++ List.replicate 16 0 }),
     (State.stgTake
     { ((wOn.wr (stA 0) 1).wr (stA 4) 1) with stg := { cmds := [{ entry := 3, qp := 2, tid := 0, w := true, opc := 5, ns := 2, flags := 0, tag := 0xABCD1234, lba := 5, count := 2, addr := 0x10000000, param := leBytes 8 0 ++ [0, 0, 0, 0, 0, 0, 0, 0] ++ List.replicate 16 0 }] }, nand := { table := [(1, { size := 100, data := true, enc := 0, unit := false, slot := 20, tid := 0, w := true }), (2, { size := 100, data := true, enc := 0, unit := false, slot := 20, tid := 0, w := true })] } }),
     by decide⟩,
   ⟨{ ((wOn.wr (stA 0) 1).wr (stA 4) 1) with stg := { cmds := [{ entry := 3, qp := 2, tid := 0, w := true, opc := 5, ns := 2, flags := 0, tag := 0xABCD1234, lba := 5, count := 2, addr := 0x10000000, param := leBytes 8 50 ++ [1, 0, 0, 20, 5, 0, 0, 0] ++ List.replicate 16 0 }], absent := [5] }, nand := { table := [(1, { size := 100, data := true, enc := 0, unit := false, slot := 20, tid := 0, w := true })] } },
     3,
     ({ entry := 3, qp := 2, tid := 0, w := true, opc := 5, ns := 2, flags := 0, tag := 0xABCD1234, lba := 5, count := 2, addr := 0x10000000, param := leBytes 8 50 ++ [1, 0, 0, 20, 5, 0, 0, 0] ++ List.replicate 16 0 }),
     (State.stgTake
     { ((wOn.wr (stA 0) 1).wr (stA 4) 1) with stg := { cmds := [{ entry := 3, qp := 2, tid := 0, w := true, opc := 5, ns := 2, flags := 0, tag := 0xABCD1234, lba := 5, count := 2, addr := 0x10000000, param := leBytes 8 50 ++ [1, 0, 0, 20, 5, 0, 0, 0] ++ List.replicate 16 0 }], absent := [5] }, nand := { table := [(1, { size := 100, data := true, enc := 0, unit := false, slot := 20, tid := 0, w := true })] } }),
     by decide⟩,
   ⟨{ ((((((((wOn.wr (stA 0) 1).wr (stA 4) 1).wr (slA 20 4) 0x601).wr (slA 20 8) 1).setSlot 20 { key := List.replicate 32 7 }).wr (slA 20 0) 0).wr (slA 20 4) 0x640).wr (slA 20 8) 2) with stg := { cmds := [{ entry := 3, qp := 2, tid := 0, w := true, opc := 5, ns := 2, flags := 0, tag := 0xABCD1234, lba := 5, count := 2, addr := 0x10000000, param := leBytes 8 50 ++ [0, 1, 0, 20, 0, 1, 0, 0] ++ List.replicate 16 0 }] }, nand := { table := [(1, { size := 100, data := true, enc := 0, unit := false, slot := 20, tid := 0, w := true })] } },
     3,
     ({ entry := 3, qp := 2, tid := 0, w := true, opc := 5, ns := 2, flags := 0, tag := 0xABCD1234, lba := 5, count := 2, addr := 0x10000000, param := leBytes 8 50 ++ [0, 1, 0, 20, 0, 1, 0, 0] ++ List.replicate 16 0 }),
     (State.stgTake
     { ((((((((wOn.wr (stA 0) 1).wr (stA 4) 1).wr (slA 20 4) 0x601).wr (slA 20 8) 1).setSlot 20 { key := List.replicate 32 7 }).wr (slA 20 0) 0).wr (slA 20 4) 0x640).wr (slA 20 8) 2) with stg := { cmds := [{ entry := 3, qp := 2, tid := 0, w := true, opc := 5, ns := 2, flags := 0, tag := 0xABCD1234, lba := 5, count := 2, addr := 0x10000000, param := leBytes 8 50 ++ [0, 1, 0, 20, 0, 1, 0, 0] ++ List.replicate 16 0 }] }, nand := { table := [(1, { size := 100, data := true, enc := 0, unit := false, slot := 20, tid := 0, w := true })] } }),
     by decide⟩⟩

/-- States and operands that meet the hypotheses of `Obligations.Storage`, part 4. -/
theorem meets_Storage_4 :
    (∃ (s : State) (c : Fin 256) (k : StgCmd) (u : State), StgTakes s u ∧ u.cmd c.val = some k ∧ k.opc = 5 ∧ k.ended = none
      ∧ (k.ns = 0 ∨ k.ask.size = 0 ∨ u.nsNoKst k.ask = false) ∧ u.formatCheck k = none ∧ k.ns ≠ 0 ∧ k.ask.size ≠ 0 ∧
      k.ask.unit = true ∧ k.ask.enc ≠ 0)
    ∧ (∃ (s : State) (c : Fin 256) (k : StgCmd) (st : Status) (u : State), StgTakes s u ∧ u.cmd c.val = some k ∧ k.opc = 5 ∧
      k.ended = none ∧ (k.ns = 0 ∨ k.ask.size = 0 ∨ u.nsNoKst k.ask = false) ∧ u.formatCheck k = some st ∧ st ≠ .access)
    ∧ (∃ (s : State) (c : Fin 256) (k : StgCmd) (u : State), StgTakes s u ∧ u.cmd c.val = some k ∧ k.opc = 5 ∧ k.ended =
      none ∧ (k.ns = 0 ∨ k.ask.size = 0 ∨ u.nsNoKst k.ask = false) ∧ u.formatCheck k = some .access)
    ∧ (∃ (s : State) (c : Fin 256) (k : StgCmd) (u : State), StgTakes s u ∧ u.cmd c.val = some k ∧ k.opc = 6 ∧ k.ended =
      none ∧ sramSpan k.addr 128 = true ∧ u.mayWrite ⟨k.tid, k.w⟩ k.addr 128 = true ∧ k.addr % 8 = 0 ∧ k.report.length =
      128)
    ∧ (∃ (s : State) (c : Fin 256) (k : StgCmd) (u : State), StgTakes s u ∧ u.cmd c.val = some k ∧ k.opc = 6 ∧ k.ended =
      none ∧ sramSpan k.addr 128 = true ∧ u.mayWrite ⟨k.tid, k.w⟩ k.addr 128 = false)
    ∧ (∃ (s : State) (c : Fin 256) (k : StgCmd) (u : State), StgTakes s u ∧ u.cmd c.val = some k ∧ k.opc = 6 ∧ k.ended =
      none ∧ (k.addr < 0x10000000 ∨ 0x12000000 ≤ k.addr))
    ∧ (∃ (s : State) (c : Fin 256) (k : StgCmd) (u : State), StgTakes s u ∧ u.cmd c.val = some k ∧ k.opc = 6 ∧ k.ended =
      none ∧ 0x10000000 ≤ k.addr ∧ k.addr < 0x12000000 ∧ (sramSpan k.addr 128 = false ∨ u.mayWrite ⟨k.tid, k.w⟩ k.addr 128 =
      true) ∧ k.addr % 8 ≠ 0)
    ∧ (∃ (s : State) (c : Fin 256) (k : StgCmd) (u : State), StgTakes s u ∧ u.cmd c.val = some k ∧ k.opc = 6 ∧ k.ended =
      none ∧ 0x10000000 ≤ k.addr ∧ k.addr < 0x12000000 ∧ k.addr % 8 = 0 ∧ sramSpan k.addr 128 = false)
    ∧ (∃ (s : State) (c : Fin 256) (k : StgCmd) (u : State), StgTakes s u ∧ u.cmd c.val = some k ∧ (k.opc = 0 ∨ 6 < k.opc ∨
      k.ended ≠ none) ∧ ownHeld (u.rd (ckA (u.rf (qpA k.qp 4) 26 18) 0)) = true ∧ u.ckEn (u.rf (qpA k.qp 4) 26 18) = true ∧
      u.ckRoom (u.rf (qpA k.qp 4) 26 18) = true ∧ u.mayWrite (u.ckOwner (u.rf (qpA k.qp 4) 26 18)) (u.ckPlace (u.rf (qpA
      k.qp 4) 26 18) (u.cask (u.rf (qpA k.qp 4) 26 18)).pw) (u.ckItem (u.rf (qpA k.qp 4) 26 18)) = true)
    ∧ (∃ (s : State) (c : Fin 256) (k : StgCmd) (u : State), StgTakes s u ∧ u.cmd c.val = some k ∧ (k.opc = 0 ∨ 6 < k.opc ∨
      k.ended ≠ none) ∧ ownHeld (u.rd (ckA (u.rf (qpA k.qp 4) 26 18) 0)) = false) :=
  ⟨⟨{ ((wOn.wr (stA 0) 1).wr (stA 4) 1) with stg := { cmds := [{ entry := 3, qp := 2, tid := 0, w := true, opc := 5, ns := 2, flags := 0, tag := 0xABCD1234, lba := 5, count := 2, addr := 0x10000000, param := leBytes 8 50 ++ [0, 2, 1, 0, 0, 1, 0, 0] ++ List.replicate 16 0 }] }, nand := { table := [(1, { size := 100, data := true, enc := 0, unit := false, slot := 20, tid := 0, w := true })] } },
    3,
    ({ entry := 3, qp := 2, tid := 0, w := true, opc := 5, ns := 2, flags := 0, tag := 0xABCD1234, lba := 5, count := 2, addr := 0x10000000, param := leBytes 8 50 ++ [0, 2, 1, 0, 0, 1, 0, 0] ++ List.replicate 16 0 }),
    (State.stgTake
    { ((wOn.wr (stA 0) 1).wr (stA 4) 1) with stg := { cmds := [{ entry := 3, qp := 2, tid := 0, w := true, opc := 5, ns := 2, flags := 0, tag := 0xABCD1234, lba := 5, count := 2, addr := 0x10000000, param := leBytes 8 50 ++ [0, 2, 1, 0, 0, 1, 0, 0] ++ List.replicate 16 0 }] }, nand := { table := [(1, { size := 100, data := true, enc := 0, unit := false, slot := 20, tid := 0, w := true })] } }),
    by decide +kernel⟩,
   ⟨{ ((wOn.wr (stA 0) 1).wr (stA 4) 1) with stg := { cmds := [{ entry := 3, qp := 2, tid := 0, w := true, opc := 5, ns := 16, flags := 0, tag := 0xABCD1234, lba := 5, count := 2, addr := 0x10000000, param := leBytes 8 50 ++ [0, 0, 0, 0, 0, 0, 0, 0] ++ List.replicate 16 0 }] }, nand := { table := [(1, { size := 100, data := true, enc := 0, unit := false, slot := 20, tid := 0, w := true })] } },
     3,
     ({ entry := 3, qp := 2, tid := 0, w := true, opc := 5, ns := 16, flags := 0, tag := 0xABCD1234, lba := 5, count := 2, addr := 0x10000000, param := leBytes 8 50 ++ [0, 0, 0, 0, 0, 0, 0, 0] ++ List.replicate 16 0 }),
     .range, (State.stgTake
     { ((wOn.wr (stA 0) 1).wr (stA 4) 1) with stg := { cmds := [{ entry := 3, qp := 2, tid := 0, w := true, opc := 5, ns := 16, flags := 0, tag := 0xABCD1234, lba := 5, count := 2, addr := 0x10000000, param := leBytes 8 50 ++ [0, 0, 0, 0, 0, 0, 0, 0] ++ List.replicate 16 0 }] }, nand := { table := [(1, { size := 100, data := true, enc := 0, unit := false, slot := 20, tid := 0, w := true })] } }),
     by decide⟩,
   ⟨{ ((wOn.wr (stA 0) 1).wr (stA 4) 1) with stg := { cmds := [{ entry := 3, qp := 2, tid := 5, w := false, opc := 5, ns := 2, flags := 0, tag := 0xABCD1234, lba := 5, count := 2, addr := 0x10000000, param := leBytes 8 50 ++ [0, 0, 0, 0, 0, 0, 0, 0] ++ List.replicate 16 0 }] }, nand := { table := [(1, { size := 100, data := true, enc := 0, unit := false, slot := 20, tid := 0, w := true })] } },
     3,
     ({ entry := 3, qp := 2, tid := 5, w := false, opc := 5, ns := 2, flags := 0, tag := 0xABCD1234, lba := 5, count := 2, addr := 0x10000000, param := leBytes 8 50 ++ [0, 0, 0, 0, 0, 0, 0, 0] ++ List.replicate 16 0 }),
     (State.stgTake
     { ((wOn.wr (stA 0) 1).wr (stA 4) 1) with stg := { cmds := [{ entry := 3, qp := 2, tid := 5, w := false, opc := 5, ns := 2, flags := 0, tag := 0xABCD1234, lba := 5, count := 2, addr := 0x10000000, param := leBytes 8 50 ++ [0, 0, 0, 0, 0, 0, 0, 0] ++ List.replicate 16 0 }] }, nand := { table := [(1, { size := 100, data := true, enc := 0, unit := false, slot := 20, tid := 0, w := true })] } }),
     by decide⟩,
   ⟨{ ((wOn.wr (stA 0) 1).wr (stA 4) 1) with stg := { cmds := [{ entry := 3, qp := 2, tid := 0, w := true, opc := 6, ns := 1, flags := 0, tag := 0xABCD1234, lba := 5, count := 2, addr := 0x11FFFF80, param := [], report := List.replicate 128 0xA5 }] }, nand := { table := [(1, { size := 100, data := true, enc := 0, unit := false, slot := 20, tid := 0, w := true })] } },
     3,
     ({ entry := 3, qp := 2, tid := 0, w := true, opc := 6, ns := 1, flags := 0, tag := 0xABCD1234, lba := 5, count := 2, addr := 0x11FFFF80, param := [], report := List.replicate 128 0xA5 }),
     (State.stgTake
     { ((wOn.wr (stA 0) 1).wr (stA 4) 1) with stg := { cmds := [{ entry := 3, qp := 2, tid := 0, w := true, opc := 6, ns := 1, flags := 0, tag := 0xABCD1234, lba := 5, count := 2, addr := 0x11FFFF80, param := [], report := List.replicate 128 0xA5 }] }, nand := { table := [(1, { size := 100, data := true, enc := 0, unit := false, slot := 20, tid := 0, w := true })] } }),
     by decide +kernel⟩,
   ⟨{ ((wOn.wr (stA 0) 1).wr (stA 4) 1) with stg := { cmds := [{ entry := 3, qp := 2, tid := 5, w := false, opc := 6, ns := 1, flags := 0, tag := 0xABCD1234, lba := 5, count := 2, addr := 0x10000000, param := [], report := List.replicate 128 0xA5 }] }, nand := { table := [(1, { size := 100, data := true, enc := 0, unit := false, slot := 20, tid := 0, w := true })] } },
     3,
     ({ entry := 3, qp := 2, tid := 5, w := false, opc := 6, ns := 1, flags := 0, tag := 0xABCD1234, lba := 5, count := 2, addr := 0x10000000, param := [], report := List.replicate 128 0xA5 }),
     (State.stgTake
     { ((wOn.wr (stA 0) 1).wr (stA 4) 1) with stg := { cmds := [{ entry := 3, qp := 2, tid := 5, w := false, opc := 6, ns := 1, flags := 0, tag := 0xABCD1234, lba := 5, count := 2, addr := 0x10000000, param := [], report := List.replicate 128 0xA5 }] }, nand := { table := [(1, { size := 100, data := true, enc := 0, unit := false, slot := 20, tid := 0, w := true })] } }),
     by decide⟩,
   ⟨{ ((wOn.wr (stA 0) 1).wr (stA 4) 1) with stg := { cmds := [{ entry := 3, qp := 2, tid := 0, w := true, opc := 6, ns := 1, flags := 0, tag := 0xABCD1234, lba := 5, count := 2, addr := 0x12000000, param := [], report := List.replicate 128 0xA5 }] }, nand := { table := [(1, { size := 100, data := true, enc := 0, unit := false, slot := 20, tid := 0, w := true })] } },
     3,
     ({ entry := 3, qp := 2, tid := 0, w := true, opc := 6, ns := 1, flags := 0, tag := 0xABCD1234, lba := 5, count := 2, addr := 0x12000000, param := [], report := List.replicate 128 0xA5 }),
     (State.stgTake
     { ((wOn.wr (stA 0) 1).wr (stA 4) 1) with stg := { cmds := [{ entry := 3, qp := 2, tid := 0, w := true, opc := 6, ns := 1, flags := 0, tag := 0xABCD1234, lba := 5, count := 2, addr := 0x12000000, param := [], report := List.replicate 128 0xA5 }] }, nand := { table := [(1, { size := 100, data := true, enc := 0, unit := false, slot := 20, tid := 0, w := true })] } }),
     by decide⟩,
   ⟨{ ((wOn.wr (stA 0) 1).wr (stA 4) 1) with stg := { cmds := [{ entry := 3, qp := 2, tid := 0, w := true, opc := 6, ns := 1, flags := 0, tag := 0xABCD1234, lba := 5, count := 2, addr := 0x11FFFF84, param := [], report := List.replicate 128 0xA5 }] }, nand := { table := [(1, { size := 100, data := true, enc := 0, unit := false, slot := 20, tid := 0, w := true })] } },
     3,
     ({ entry := 3, qp := 2, tid := 0, w := true, opc := 6, ns := 1, flags := 0, tag := 0xABCD1234, lba := 5, count := 2, addr := 0x11FFFF84, param := [], report := List.replicate 128 0xA5 }),
     (State.stgTake
     { ((wOn.wr (stA 0) 1).wr (stA 4) 1) with stg := { cmds := [{ entry := 3, qp := 2, tid := 0, w := true, opc := 6, ns := 1, flags := 0, tag := 0xABCD1234, lba := 5, count := 2, addr := 0x11FFFF84, param := [], report := List.replicate 128 0xA5 }] }, nand := { table := [(1, { size := 100, data := true, enc := 0, unit := false, slot := 20, tid := 0, w := true })] } }),
     by decide⟩,
   ⟨{ ((wOn.wr (stA 0) 1).wr (stA 4) 1) with stg := { cmds := [{ entry := 3, qp := 2, tid := 0, w := true, opc := 6, ns := 1, flags := 0, tag := 0xABCD1234, lba := 5, count := 2, addr := 0x11FFFF88, param := [], report := List.replicate 128 0xA5 }] }, nand := { table := [(1, { size := 100, data := true, enc := 0, unit := false, slot := 20, tid := 0, w := true })] } },
     3,
     ({ entry := 3, qp := 2, tid := 0, w := true, opc := 6, ns := 1, flags := 0, tag := 0xABCD1234, lba := 5, count := 2, addr := 0x11FFFF88, param := [], report := List.replicate 128 0xA5 }),
     (State.stgTake
     { ((wOn.wr (stA 0) 1).wr (stA 4) 1) with stg := { cmds := [{ entry := 3, qp := 2, tid := 0, w := true, opc := 6, ns := 1, flags := 0, tag := 0xABCD1234, lba := 5, count := 2, addr := 0x11FFFF88, param := [], report := List.replicate 128 0xA5 }] }, nand := { table := [(1, { size := 100, data := true, enc := 0, unit := false, slot := 20, tid := 0, w := true })] } }),
     by decide⟩,
   ⟨{ ((((((((wOn.wr (stA 0) 1).wr (stA 4) 1).wr (qpA 2 4) 0x00240000).wr (ckA 9 0) 0x80000100).wr (ckA 9 4) 0x80020002).wr (ckA 9 8) 0x10001000).wr (ckA 9 0xC) 4).wr (ckA 9 0x10) 0) with stg := { cmds := [{ entry := 3, qp := 2, tid := 0, w := true, opc := 1, ns := 1, flags := 0, tag := 0xABCD1234, lba := 5, count := 2, addr := 0x10000000, param := [], ended := some (.eccUncorr, 7) }] }, nand := { table := [(1, { size := 100, data := true, enc := 0, unit := false, slot := 20, tid := 0, w := true })] } },
     3,
     ({ entry := 3, qp := 2, tid := 0, w := true, opc := 1, ns := 1, flags := 0, tag := 0xABCD1234, lba := 5, count := 2, addr := 0x10000000, param := [], ended := some (.eccUncorr, 7) }),
     (State.stgTake
     { ((((((((wOn.wr (stA 0) 1).wr (stA 4) 1).wr (qpA 2 4) 0x00240000).wr (ckA 9 0) 0x80000100).wr (ckA 9 4) 0x80020002).wr (ckA 9 8) 0x10001000).wr (ckA 9 0xC) 4).wr (ckA 9 0x10) 0) with stg := { cmds := [{ entry := 3, qp := 2, tid := 0, w := true, opc := 1, ns := 1, flags := 0, tag := 0xABCD1234, lba := 5, count := 2, addr := 0x10000000, param := [], ended := some (.eccUncorr, 7) }] }, nand := { table := [(1, { size := 100, data := true, enc := 0, unit := false, slot := 20, tid := 0, w := true })] } }),
     by decide⟩,
   ⟨{ ((((((((wOn.wr (stA 0) 1).wr (stA 4) 1).wr (qpA 2 4) 0x00240000).wr (ckA 9 0) 0).wr (ckA 9 4) 0x80020002).wr (ckA 9 8) 0x10001000).wr (ckA 9 0xC) 4).wr (ckA 9 0x10) 0) with stg := { cmds := [{ entry := 3, qp := 2, tid := 0, w := true, opc := 1, ns := 1, flags := 0, tag := 0xABCD1234, lba := 5, count := 2, addr := 0x10000000, param := [], ended := some (.eccUncorr, 7) }] }, nand := { table := [(1, { size := 100, data := true, enc := 0, unit := false, slot := 20, tid := 0, w := true })] } },
     3,
     ({ entry := 3, qp := 2, tid := 0, w := true, opc := 1, ns := 1, flags := 0, tag := 0xABCD1234, lba := 5, count := 2, addr := 0x10000000, param := [], ended := some (.eccUncorr, 7) }),
     (State.stgTake
     { ((((((((wOn.wr (stA 0) 1).wr (stA 4) 1).wr (qpA 2 4) 0x00240000).wr (ckA 9 0) 0).wr (ckA 9 4) 0x80020002).wr (ckA 9 8) 0x10001000).wr (ckA 9 0xC) 4).wr (ckA 9 0x10) 0) with stg := { cmds := [{ entry := 3, qp := 2, tid := 0, w := true, opc := 1, ns := 1, flags := 0, tag := 0xABCD1234, lba := 5, count := 2, addr := 0x10000000, param := [], ended := some (.eccUncorr, 7) }] }, nand := { table := [(1, { size := 100, data := true, enc := 0, unit := false, slot := 20, tid := 0, w := true })] } }),
     by decide +kernel⟩⟩

/-- States and operands that meet the hypotheses of `Obligations.Storage`, part 5. -/
theorem meets_Storage_5 :
    (∃ (s : State) (c : Fin 256) (k : StgCmd) (u : State), StgTakes s u ∧ u.cmd c.val = some k ∧ (k.opc = 0 ∨ 6 < k.opc ∨
      k.ended ≠ none) ∧ ownHeld (u.rd (ckA (u.rf (qpA k.qp 4) 26 18) 0)) = true ∧ (u.ckEn (u.rf (qpA k.qp 4) 26 18) = false
      ∨ u.ckRoom (u.rf (qpA k.qp 4) 26 18) = false) ∧ k.posting = none)
    ∧ (∃ (s : State) (c : Fin 256) (k : StgCmd) (u : State), StgTakes s u ∧ u.cmd c.val = some k ∧ 1 ≤ k.opc ∧ k.opc ≤ 6 ∧
      k.ended = none)
    ∧ (∃ (s : State) (c : Fin 256) (u : State), StgTakes s u ∧ u.cmd c.val = none)
    ∧ (∃ (s : State) (c : Fin 256) (q : Fin 16) (x : Nat) (e : Nat), s.stReady = true ∧ s.stg.rr = q.val ∧ s.rb (qpA q 4) 31
      = true ∧ (∀ j, j < 16 → j ≠ q.val → s.rb (qpA j 4) 31 = false) ∧ ownHeld (s.rd (qpA q 0)) = true ∧ s.rf (qpA q 4) 8 0
      = x ∧ s.ckEn x = true ∧ s.ckAvail x = 1 ∧ s.ckItem x = 64 ∧ firstBelow 256 (fun j => (s.cmd j).isNone) = some e ∧
      s.cmd c.val = none ∧ e ≠ c.val ∧ s.sliceAdmits .stgCmd (ownTags (s.rd (qpA q 0))).tid = true ∧ s.mayRead (s.ckOwner x)
      (s.ckPlace x (s.cask x).pr) 64 = true ∧ s.anyBad (s.ckPlace x (s.cask x).pr) 64 = false)
    ∧ (∃ (s : State) (c : Fin 256) (k : StgCmd) (x : Nat), s.cmd c.val = some k ∧ k.posting = some x ∧ s.stReady = true ∧
      500000 ≤ s.ticks - x ∧ (s.ckEn (s.rf (qpA k.qp 4) 26 18) = false ∨ s.ckRoom (s.rf (qpA k.qp 4) 26 18) = false))
    ∧ (∃ (s : State) (c : Fin 256) (k : StgCmd), s.cmd c.val = some k ∧ (k.posting = none ∨ (s.ckEn (s.rf (qpA k.qp 4) 26
      18) = true ∧ s.ckRoom (s.rf (qpA k.qp 4) 26 18) = true)))
    ∧ (∃ (s : State) (c : Fin 256) (k : StgCmd) (x : Nat), s.cmd c.val = some k ∧ k.keyWait = some x ∧ s.stReady = true ∧
      50000000 ≤ s.ticks - x)
    ∧ (∃ (s : State) (c : Fin 256) (k : StgCmd), s.cmd c.val = some k ∧ k.keyWait.all (fun z => s.ticks - z < 50000000) =
      true)
    ∧ (∃ (s : State) (a : Acc), Reaches s a (stA 0) ∧ Manager s a)
    ∧ (∃ (s : State) (a : Acc) (q : Fin 16) (v : Word), Reaches s a (qpA q 4) ∧ s.mayWriteOwned (s.tagsOf a.who) (qpA q 0) =
      true ∧ (bit v 31 = true → (s.ckItem (fld v 8 0) = 64 ∧ s.ckItem (fld v 26 18) = 16) ∧ (ownHeld (s.rd (ckA (fld v 8 0)
      0)) = true ∧ ownHeld (s.rd (qpA q 0)) = true ∧ ownTags (s.rd (ckA (fld v 8 0) 0)) = ownTags (s.rd (qpA q 0)) ∧ ownHeld
      (s.rd (ckA (fld v 26 18) 0)) = true ∧ ownHeld (s.rd (qpA q 0)) = true ∧ ownTags (s.rd (ckA (fld v 26 18) 0)) = ownTags
      (s.rd (qpA q 0)) ∧ s.ckConsIs (fld v 8 0) 2 = true ∧ s.ckProdIs (fld v 26 18) 2 = true))) :=
  ⟨⟨{ ((((((((wOn.wr (stA 0) 1).wr (stA 4) 1).wr (qpA 2 4) 0x00240000).wr (ckA 9 0) 0x80000100).wr (ckA 9 4) 0x80020002).wr (ckA 9 8) 0x10001000).wr (ckA 9 0xC) 4).wr (ckA 9 0x10) 0x40000) with stg := { cmds := [{ entry := 3, qp := 2, tid := 0, w := true, opc := 1, ns := 1, flags := 0, tag := 0xABCD1234, lba := 5, count := 2, addr := 0x10000000, param := [], ended := some (.eccUncorr, 7) }] }, nand := { table := [(1, { size := 100, data := true, enc := 0, unit := false, slot := 20, tid := 0, w := true })] } },
    3,
    ({ entry := 3, qp := 2, tid := 0, w := true, opc := 1, ns := 1, flags := 0, tag := 0xABCD1234, lba := 5, count := 2, addr := 0x10000000, param := [], ended := some (.eccUncorr, 7) }),
    (State.stgTake
    { ((((((((wOn.wr (stA 0) 1).wr (stA 4) 1).wr (qpA 2 4) 0x00240000).wr (ckA 9 0) 0x80000100).wr (ckA 9 4) 0x80020002).wr (ckA 9 8) 0x10001000).wr (ckA 9 0xC) 4).wr (ckA 9 0x10) 0x40000) with stg := { cmds := [{ entry := 3, qp := 2, tid := 0, w := true, opc := 1, ns := 1, flags := 0, tag := 0xABCD1234, lba := 5, count := 2, addr := 0x10000000, param := [], ended := some (.eccUncorr, 7) }] }, nand := { table := [(1, { size := 100, data := true, enc := 0, unit := false, slot := 20, tid := 0, w := true })] } }),
    by decide⟩,
   ⟨{ ((wOn.wr (stA 0) 1).wr (stA 4) 1) with stg := { cmds := [{ entry := 3, qp := 2, tid := 0, w := true, opc := 1, ns := 1, flags := 0, tag := 0xABCD1234, lba := 5, count := 2, addr := 0x10000000, param := [] }] }, nand := { table := [(1, { size := 100, data := true, enc := 0, unit := false, slot := 20, tid := 0, w := true })] } },
     3,
     ({ entry := 3, qp := 2, tid := 0, w := true, opc := 1, ns := 1, flags := 0, tag := 0xABCD1234, lba := 5, count := 2, addr := 0x10000000, param := [] }),
     (State.stgTake
     { ((wOn.wr (stA 0) 1).wr (stA 4) 1) with stg := { cmds := [{ entry := 3, qp := 2, tid := 0, w := true, opc := 1, ns := 1, flags := 0, tag := 0xABCD1234, lba := 5, count := 2, addr := 0x10000000, param := [] }] }, nand := { table := [(1, { size := 100, data := true, enc := 0, unit := false, slot := 20, tid := 0, w := true })] } }),
     by decide⟩,
   ⟨((wOn.wr (stA 0) 1).wr (stA 4) 1), 3, (State.stgTake ((wOn.wr (stA 0) 1).wr (stA 4) 1)), by decide⟩,
   ⟨{ (((((((((wOn.wr (stA 0) 1).wr (stA 4) 1).wr (qpA 2 0) 0x80000100).wr (qpA 2 4) 0x80240009).wr (ckA 9 0) 0x80000100).wr (ckA 9 4) 0x80200008).wr (ckA 9 8) 0x10001000).wr (ckA 9 0xC) 4).wr (ckA 9 0x10) 0x10000).stLE 0x10001000 16 0x0000000000000005ABCD123400010106 with stg := { rr := 2 } },
     3, 2, 9, 0, by decide +kernel⟩,
   ⟨{ { (((((((((wOn.wr (stA 0) 1).wr (stA 4) 1).wr (qpA 2 4) 0x00240000).wr (ckA 9 0) 0x80000100).wr (ckA 9 4) 0x80020002).wr (ckA 9 8) 0x10001000).wr (ckA 9 0xC) 4).wr (ckA 9 0x10) 0x40000).wr (qpA 2 8) 0xFE0000) with stg := { cmds := [{ entry := 3, qp := 2, tid := 0, w := true, opc := 1, ns := 1, flags := 0, tag := 0xABCD1234, lba := 5, count := 2, addr := 0x10000000, param := [], ended := some (.eccUncorr, 7), posting := some 0 }] }, nand := { table := [(1, { size := 100, data := true, enc := 0, unit := false, slot := 20, tid := 0, w := true })] } } with ticks := 600000 },
     3,
     ({ entry := 3, qp := 2, tid := 0, w := true, opc := 1, ns := 1, flags := 0, tag := 0xABCD1234, lba := 5, count := 2, addr := 0x10000000, param := [], ended := some (.eccUncorr, 7), posting := some 0 }),
     0, by decide⟩,
   ⟨{ ((wOn.wr (stA 0) 1).wr (stA 4) 1) with stg := { cmds := [{ entry := 3, qp := 2, tid := 0, w := true, opc := 1, ns := 1, flags := 0, tag := 0xABCD1234, lba := 5, count := 2, addr := 0x10000000, param := [] }] }, nand := { table := [(1, { size := 100, data := true, enc := 0, unit := false, slot := 20, tid := 0, w := true })] } },
     3,
     ({ entry := 3, qp := 2, tid := 0, w := true, opc := 1, ns := 1, flags := 0, tag := 0xABCD1234, lba := 5, count := 2, addr := 0x10000000, param := [] }),
     by decide⟩,
   ⟨{ { ((wOn.wr (stA 0) 1).wr (stA 4) 1) with stg := { cmds := [{ entry := 3, qp := 2, tid := 0, w := true, opc := 1, ns := 1, flags := 0, tag := 0xABCD1234, lba := 5, count := 2, addr := 0x10000000, param := [], keyWait := some 0 }] }, nand := { table := [(1, { size := 100, data := true, enc := 0, unit := false, slot := 20, tid := 0, w := true })] } } with ticks := 60000000 },
     3,
     ({ entry := 3, qp := 2, tid := 0, w := true, opc := 1, ns := 1, flags := 0, tag := 0xABCD1234, lba := 5, count := 2, addr := 0x10000000, param := [], keyWait := some 0 }),
     0, by decide⟩,
   ⟨{ ((wOn.wr (stA 0) 1).wr (stA 4) 1) with stg := { cmds := [{ entry := 3, qp := 2, tid := 0, w := true, opc := 1, ns := 1, flags := 0, tag := 0xABCD1234, lba := 5, count := 2, addr := 0x10000000, param := [], keyWait := some 0 }] }, nand := { table := [(1, { size := 100, data := true, enc := 0, unit := false, slot := 20, tid := 0, w := true })] } },
     3,
     ({ entry := 3, qp := 2, tid := 0, w := true, opc := 1, ns := 1, flags := 0, tag := 0xABCD1234, lba := 5, count := 2, addr := 0x10000000, param := [], keyWait := some 0 }),
     by decide⟩,
   ⟨wOn, mgr, by decide⟩,
   ⟨(((((((wOn.wr (qpA 2 0) 0x80000100).wr (ckA 9 0) 0x80000100).wr (ckA 9 4) 0x80200008).wr (ckA 10 0) 0x80000100).wr (ckA
     10 4) 0x80020002)).wr (qpA 2 8) 0xFF0000), mgr, 2, 0x80280009, by decide⟩⟩

/-- States and operands that meet the hypotheses of `Obligations.Storage`, part 6. -/
theorem meets_Storage_6 :
    (∃ (s : State) (a : Acc) (q : Fin 16) (v : Word), Reaches s a (qpA q 4) ∧ s.mayWriteOwned (s.tagsOf a.who) (qpA q 0) =
      true ∧ NoHart a ∧ bit v 31 = true ∧ ¬ (s.ckItem (fld v 8 0) = 64 ∧ s.ckItem (fld v 26 18) = 16))
    ∧ (∃ (s : State) (a : Acc) (q : Fin 16) (v : Word), Reaches s a (qpA q 4) ∧ s.mayWriteOwned (s.tagsOf a.who) (qpA q 0) =
      true ∧ NoHart a ∧ bit v 31 = true ∧ (s.ckItem (fld v 8 0) = 64 ∧ s.ckItem (fld v 26 18) = 16) ∧ ¬ (ownHeld (s.rd (ckA
      (fld v 8 0) 0)) = true ∧ ownHeld (s.rd (qpA q 0)) = true ∧ ownTags (s.rd (ckA (fld v 8 0) 0)) = ownTags (s.rd (qpA q
      0)) ∧ ownHeld (s.rd (ckA (fld v 26 18) 0)) = true ∧ ownHeld (s.rd (qpA q 0)) = true ∧ ownTags (s.rd (ckA (fld v 26 18)
      0)) = ownTags (s.rd (qpA q 0)) ∧ s.ckConsIs (fld v 8 0) 2 = true ∧ s.ckProdIs (fld v 26 18) 2 = true))
    ∧ (∃ (s : State) (a : Acc) (q : Fin 16), Reaches s a (qpA q 4) ∧ NoHart a ∧ s.mayWriteOwned (s.tagsOf a.who) (qpA q 0) =
      false)
    ∧ (∃ (s : State) (a : Acc), Reaches s a (stA 0) ∧ NoHart a ∧ ¬ Manager s a)
    ∧ (∃ (s : State), s.stOn = true ∧ s.stReady = false ∧ (s.nand.table.map (·.1)).Nodup)
    ∧ (∃ (s : State) (r : NsRec) (x : Nat), s.stOn = true ∧ s.stReady = false ∧ s.nand.table = [(x, r)] ∧ (r.enc = 0 ∨ ∃ g ∈
      (s.nsKey x r).toList, kcvOf g = r.kcv))
    ∧ (∃ (s : State) (r : NsRec) (x : Nat), s.stOn = true ∧ s.stReady = false ∧ s.nand.table = [(x, r)] ∧ ¬ (r.enc = 0 ∨ ∃ g
      ∈ (s.nsKey x r).toList, kcvOf g = r.kcv) ∧ x ∉ s.stg.absent ∧ x < 16)
    ∧ (∃ (s : State), s.stOn = true ∧ s.stReady = false)
    ∧ (∃ (s : State), (s.stOn = false ∨ s.stReady = true))
    ∧ (∃ (s : State) (r : NsRec) (n : Fin 16), s.stReady = true ∧ s.ns n.val = some r ∧ (r.enc = 0 ∨ ∃ g ∈ (s.nsKey n.val
      r).toList, kcvOf g = r.kcv)) :=
  ⟨⟨(wOn.wr (qpA 2 4) 0x80000000), mgr, 2, 0x80280009, by decide⟩,
   ⟨((((((wOn.wr (qpA 2 0) 0x80000100).wr (ckA 9 0) 0x80000100).wr (ckA 9 4) 0x80200008).wr (ckA 10 0) 0x80000100).wr (ckA
     10 4) 0x80000002)), mgr, 2, 0x80280009, by decide⟩,
   ⟨(wOn.wr (wcA 0x18) 0), ten, 2, by decide⟩,
   ⟨(wOn.wr (wcA 0x18) 0), ten, by decide⟩,
   ⟨{ (wOn.wr (stA 0) 1) with nand := { unclean := true, table := [(1, { size := 100, data := true, enc := 0, unit := false, slot := 20, tid := 0, w := true }), (2, { size := 100, data := true, enc := 1, unit := false, slot := 20, tid := 0, w := true })], born := [(3, 0)] }, stg := { absent := [1, 5] } },
     by decide⟩,
   ⟨{ (wOn.wr (stA 0) 1) with nand := { unclean := true, table := [(1, { size := 100, data := true, enc := 0, unit := false, slot := 20, tid := 0, w := true })] }, stg := { absent := [1, 2] } },
     ({ size := 100, data := true, enc := 0, unit := false, slot := 20, tid := 0, w := true }), 1, by decide⟩,
   ⟨{ (wOn.wr (stA 0) 1) with nand := { unclean := true, table := [(1, { size := 100, data := true, enc := 1, unit := false, slot := 20, tid := 0, w := true })] } },
     ({ size := 100, data := true, enc := 1, unit := false, slot := 20, tid := 0, w := true }), 1, by decide⟩,
   ⟨(wOn.wr (stA 0) 1), by decide⟩,
   ⟨wOn, by decide⟩,
   ⟨{ ((wOn.wr (stA 0) 1).wr (stA 4) 1) with stg := { cmds := [{ entry := 3, qp := 2, tid := 0, w := true, opc := 1, ns := 1, flags := 0, tag := 0xABCD1234, lba := 5, count := 2, addr := 0x10000000, param := [] }], absent := [1, 2] }, nand := { table := [(1, { size := 100, data := true, enc := 0, unit := false, slot := 20, tid := 0, w := true })] } },
     ({ size := 100, data := true, enc := 0, unit := false, slot := 20, tid := 0, w := true }), 1, by decide⟩⟩

/-- States and operands that meet the hypotheses of `Obligations.Storage`, part 7. -/
theorem meets_Storage_7 :
    (∃ (s : State) (r : NsRec) (n : Fin 16), s.stReady = true ∧ s.ns n.val = some r ∧ ¬ (r.enc = 0 ∨ ∃ g ∈ (s.nsKey n.val
      r).toList, kcvOf g = r.kcv) ∧ n.val ∉ s.stg.absent)
    ∧ (∃ (s : State) (n : Fin 16), (s.stReady = false ∨ s.ns n.val = none))
    ∧ (∃ (s : State) (d : Bool) (x : Nat), s.stReady = true ∧ s.blkUsable d x = true)
    ∧ (∃ (s : State) (d : Bool) (x : Nat), (s.stReady = false ∨ s.blkUsable d x = false))
    ∧ (∃ (s : State) (y : ScrubSample), s.stReady = true ∧ (s.anyDue = true ∨ s.hostIdle = true) ∧ s.stg.stopped = false ∧
      s.progMay = true ∧ s.blkUsable y.data y.dest = true ∧ (60 < y.corrections ∨ 80 < y.hostCorrections ∨ 100000 ≤ y.reads
      ∨ s.refreshDays (decide (65536 ≤ (nandBlk y.data y.blk))) < s.ageDays (nandBlk y.data y.blk)))
    ∧ (∃ (s : State) (y : ScrubSample), s.stReady = true ∧ (s.anyDue = true ∨ s.hostIdle = true) ∧ ¬ (60 < y.corrections ∨
      80 < y.hostCorrections ∨ 100000 ≤ y.reads ∨ s.refreshDays (decide (65536 ≤ (nandBlk y.data y.blk))) < s.ageDays
      (nandBlk y.data y.blk)))
    ∧ (∃ (s : State) (y : ScrubSample), (s.stReady = false ∨ (s.anyDue = false ∧ s.hostIdle = false) ∨ ((60 < y.corrections
      ∨ 80 < y.hostCorrections ∨ 100000 ≤ y.reads ∨ s.refreshDays (decide (65536 ≤ (nandBlk y.data y.blk))) < s.ageDays
      (nandBlk y.data y.blk)) ∧ (s.stg.stopped = true ∨ s.progMay = false ∨ s.blkUsable y.data y.dest = false))))
    ∧ (∃ (s : State), s.stOn = true)
    ∧ (∃ (s : State) (x : Nat) (b : BufBlk) (m : Nat), s.stReady = true ∧ s.stg.stopped = false ∧ s.hostMay = true ∧
      s.progMay = true ∧ s.stg.buf[x]? = some b ∧ (∀ z ∈ s.stg.buf.take x, z.ns ≠ b.ns ∨ b.lba + b.cnt ≤ z.lba ∨ z.lba +
      z.cnt ≤ b.lba) ∧ b.data ≠ none ∧ s.blkUsable ((s.ns b.ns).elim false (fun u => u.data)) m = true)
    ∧ (∃ (s : State) (x : Nat) (b : BufBlk), s.stReady = true ∧ s.stg.stopped = false ∧ s.hostMay = true ∧ s.progMay = true
      ∧ s.stg.buf[x]? = some b ∧ (∀ z ∈ s.stg.buf.take x, z.ns ≠ b.ns ∨ b.lba + b.cnt ≤ z.lba ∨ z.lba + z.cnt ≤ b.lba) ∧
      b.data = none) :=
  ⟨⟨{ ((wOn.wr (stA 0) 1).wr (stA 4) 1) with stg := { cmds := [{ entry := 3, qp := 2, tid := 0, w := true, opc := 1, ns := 1, flags := 0, tag := 0xABCD1234, lba := 5, count := 2, addr := 0x10000000, param := [] }] }, nand := { table := [(1, { size := 100, data := true, enc := 1, unit := false, slot := 20, tid := 0, w := true, kcv := [1] })] } },
    ({ size := 100, data := true, enc := 1, unit := false, slot := 20, tid := 0, w := true, kcv := [1] }), 1, by decide⟩,
   ⟨wOn, 0, by decide⟩,
   ⟨{ ((wOn.wr (stA 0) 1).wr (stA 4) 1) with stg := { cmds := [{ entry := 3, qp := 2, tid := 0, w := true, opc := 1, ns := 1, flags := 0, tag := 0xABCD1234, lba := 5, count := 2, addr := 0x10000000, param := [] }] }, nand := { table := [(1, { size := 100, data := true, enc := 0, unit := false, slot := 20, tid := 0, w := true })], dat := { grown := 0 } } },
     true, 2159, by decide⟩,
   ⟨{ ((wOn.wr (stA 0) 1).wr (stA 4) 1) with stg := { cmds := [{ entry := 3, qp := 2, tid := 0, w := true, opc := 1, ns := 1, flags := 0, tag := 0xABCD1234, lba := 5, count := 2, addr := 0x10000000, param := [] }] }, nand := { table := [(1, { size := 100, data := true, enc := 0, unit := false, slot := 20, tid := 0, w := true })] } },
     true, 2160, by decide⟩,
   ⟨{ ((wOn.wr (stA 0) 1).wr (stA 4) 1) with stg := { cmds := [] }, nand := { table := [(1, { size := 100, data := true, enc := 0, unit := false, slot := 20, tid := 0, w := true })] } },
     { data := true, corrections := 61, hostCorrections := 0, reads := 0, valid := 200, blk := 9, dest := 10 }, by decide⟩,
   ⟨{ ((wOn.wr (stA 0) 1).wr (stA 4) 1) with stg := { cmds := [] }, nand := { table := [(1, { size := 100, data := true, enc := 0, unit := false, slot := 20, tid := 0, w := true })] } },
     { data := true, corrections := 60, hostCorrections := 0, reads := 0, valid := 200, blk := 9, dest := 10 }, by decide⟩,
   ⟨{ ((wOn.wr (stA 0) 1).wr (stA 4) 1) with stg := { cmds := [{ entry := 3, qp := 2, tid := 0, w := true, opc := 1, ns := 1, flags := 0, tag := 0xABCD1234, lba := 5, count := 2, addr := 0x10000000, param := [] }] }, nand := { table := [(1, { size := 100, data := true, enc := 0, unit := false, slot := 20, tid := 0, w := true })] } },
     { data := true, corrections := 0, hostCorrections := 0, reads := 0, valid := 200, blk := 9, dest := 10 }, by decide⟩,
   ⟨{ ((wOn.wr (stA 0) 1).wr (stA 4) 1) with stg := { cmds := [{ entry := 3, qp := 2, tid := 0, w := true, opc := 1, ns := 1, flags := 0, tag := 0xABCD1234, lba := 5, count := 2, addr := 0x10000000, param := [] }] }, nand := { table := [(1, { size := 100, data := true, enc := 0, unit := false, slot := 20, tid := 0, w := true })] } },
     by decide⟩,
   ⟨{ ((wOn.wr (stA 0) 1).wr (stA 4) 1) with stg := { cmds := [], buf := [⟨3, 1, 6, 2, none⟩, ⟨4, 1, 5, 1, some [1, 2]⟩] }, nand := { table := [(1, { size := 100, data := true, enc := 0, unit := false, slot := 20, tid := 0, w := true })] } },
     1, (⟨4, 1, 5, 1, some [1, 2]⟩), 12, by decide⟩,
   ⟨{ ((wOn.wr (stA 0) 1).wr (stA 4) 1) with stg := { cmds := [], buf := [⟨3, 1, 6, 2, none⟩] }, nand := { table := [(1, { size := 100, data := true, enc := 0, unit := false, slot := 20, tid := 0, w := true })], blocks := [(2 ^ 40 + 5, [1]), (2 ^ 40 + 7, [2]), (2 ^ 40 + 8, [3])] } },
     0, (⟨3, 1, 6, 2, none⟩), by decide⟩⟩

/-- States and operands that meet the hypotheses of `Obligations.Storage`, part 8. -/
theorem meets_Storage_8 :
    (∃ (s : State) (x : Nat) (m : Nat), s.stReady = true ∧ s.stg.stopped = false ∧ (s.hostMay = false ∨ s.progMay = false ∨
      s.stg.buf[x]? = none ∨ (∃ b ∈ (s.stg.buf[x]?).toList, ∃ z ∈ s.stg.buf.take x, z.ns = b.ns ∧ z.lba < b.lba + b.cnt ∧
      b.lba < z.lba + z.cnt) ∨ (∃ b ∈ (s.stg.buf[x]?).toList, b.data ≠ none ∧ s.blkUsable ((s.ns b.ns).elim false (fun u =>
      u.data)) m = false)))
    ∧ (∃ (s : State) (d : Bool) (m : Nat), s.stReady = true ∧ s.stg.stopped = false ∧ s.progMay = true ∧ s.blkUsable d m =
      true)
    ∧ (∃ (s : State) (d : Bool) (x : Nat), s.stReady = true ∧ s.stg.stopped = false ∧ s.blkUsable d x = true ∧ s.wearMay d x
      = true)
    ∧ (∃ (s : State) (d : Bool) (m : Nat), s.stReady = true ∧ s.stg.stopped = false ∧ s.blkUsable d m = false)
    ∧ (∃ (s : State), (s.stReady = false ∨ s.stg.stopped = true)) :=
  ⟨⟨{ ((wOn.wr (stA 0) 1).wr (stA 4) 1) with stg := { cmds := [{ entry := 3, qp := 2, tid := 0, w := true, opc := 1, ns := 1, flags := 0, tag := 0xABCD1234, lba := 5, count := 2, addr := 0x10000000, param := [] }], buf := [⟨3, 1, 6, 2, none⟩, ⟨4, 1, 7, 1, some [1, 2]⟩] }, nand := { table := [(1, { size := 100, data := true, enc := 0, unit := false, slot := 20, tid := 0, w := true })] } },
    1, 0, by decide⟩,
   ⟨{ ((wOn.wr (stA 0) 1).wr (stA 4) 1) with stg := { cmds := [{ entry := 3, qp := 2, tid := 0, w := true, opc := 1, ns := 1, flags := 0, tag := 0xABCD1234, lba := 5, count := 2, addr := 0x10000000, param := [] }] }, nand := { table := [(1, { size := 100, data := true, enc := 0, unit := false, slot := 20, tid := 0, w := true })] } },
     true, 2159, by decide⟩,
   ⟨{ ((wOn.wr (stA 0) 1).wr (stA 4) 1) with stg := { cmds := [{ entry := 3, qp := 2, tid := 0, w := true, opc := 1, ns := 1, flags := 0, tag := 0xABCD1234, lba := 5, count := 2, addr := 0x10000000, param := [] }] }, nand := { table := [(1, { size := 100, data := true, enc := 0, unit := false, slot := 20, tid := 0, w := true })] } },
     true, 2159, by decide⟩,
   ⟨{ ((wOn.wr (stA 0) 1).wr (stA 4) 1) with stg := { cmds := [{ entry := 3, qp := 2, tid := 0, w := true, opc := 1, ns := 1, flags := 0, tag := 0xABCD1234, lba := 5, count := 2, addr := 0x10000000, param := [] }] }, nand := { table := [(1, { size := 100, data := true, enc := 0, unit := false, slot := 20, tid := 0, w := true })] } },
     true, 2160, by decide⟩,
   ⟨wOn, by decide⟩⟩

/-- States and operands that meet the hypotheses of `Obligations.PairRoles`, part 1. -/
theorem meets_PairRoles_1 :
    (∃ (s : State) (a : Acc), Reaches s a (prA 4) ∧ Manager s a ∧ (s.front.role ≠ 0 ∨ s.prm.start ≠ .idle))
    ∧ (∃ (s : State) (a : Acc), Reaches s a (prA 4) ∧ Manager s a ∧ s.front.role = 0 ∧ s.prm.start = .idle ∧ s.pairEn =
      false)
    ∧ (∃ (s : State) (a : Acc), Reaches s a (prA 4) ∧ Manager s a ∧ s.front.role = 0 ∧ s.prm.start = .idle ∧ s.pairEn = true
      ∧ (persistent (s.rf (prA 0) 23 16) = true ∧ s.slAttr (s.rf (prA 0) 23 16) 2 = true ∧ s.slSize (s.rf (prA 0) 23 16) =
      2))
    ∧ (∃ (s : State) (a : Acc), Reaches s a (prA 4) ∧ Manager s a ∧ NoHart a ∧ s.front.role = 0 ∧ s.prm.start = .idle ∧
      s.pairEn = true ∧ ¬ (persistent (s.rf (prA 0) 23 16) = true ∧ s.slAttr (s.rf (prA 0) 23 16) 2 = true ∧ s.slSize (s.rf
      (prA 0) 23 16) = 2))
    ∧ (∃ (s : State) (a : Acc), Reaches s a (prA 4) ∧ NoHart a ∧ ¬ Manager s a)
    ∧ (∃ (s : State) (a : Acc), Reaches s a (prA 4) ∧ Manager s a)
    ∧ (∃ (s : State) (a : Acc), Reaches s a (prA 4) ∧ Manager s a ∧ s.front.role = 3 ∧ s.prm.vin = .idle ∧ s.vinTooLong =
      false ∧ VinFits s)
    ∧ (∃ (s : State) (a : Acc), Reaches s a (prA 4) ∧ Manager s a ∧ NoHart a ∧ s.vinTooLong = true)
    ∧ (∃ (s : State) (a : Acc), Reaches s a (prA 4) ∧ Manager s a ∧ NoHart a ∧ s.vinTooLong = false ∧ (s.front.role ≠ 3 ∨
      s.prm.vin ≠ .idle))
    ∧ (∃ (s : State) (a : Acc), Reaches s a (prA 4) ∧ Manager s a ∧ s.front.role = 3 ∧ s.prm.vin = .idle ∧ s.vinTooLong =
      false ∧ s.accepts 4 = false) :=
  ⟨⟨(wPair 2), mgr, by decide⟩,
   ⟨((wPair 0).wr (prA 0) 0), mgr, by decide⟩,
   ⟨(wPair 0), mgr, by decide⟩,
   ⟨((wPair 0).wr (slA 20 4) 0x2FB), mgr, by decide⟩,
   ⟨((wPair 0).wr (wcA 0x18) 0), ten, by decide⟩,
   ⟨(wPair 2), mgr, by decide⟩,
   ⟨(((((((wPair 3).wr (prA 8) 0x24300).wr (prA 0x24) 0x00030002).wr (prA 0x28) 0x10000100).wr (prA 0x2C) 0x10).wr (prA
     0x30) 0x10001000)), mgr, by decide⟩,
   ⟨(((((((wPair 3).wr (prA 8) 0x24300).wr (prA 0x24) 0x00030002).wr (prA 0x28) 0x10000100).wr (prA 0x2C) 0xC).wr (prA 0x30)
     0x10001000)), mgr, by decide⟩,
   ⟨(wPair 2), mgr, by decide⟩,
   ⟨{ (((((((wPair 3).wr (prA 8) 0x24300).wr (prA 0x24) 0x00030002).wr (prA 0x28) 0x10000100).wr (prA 0x2C) 0x10).wr (prA 0x30) 0x10001000)) with isl := [(4, .stopped)] },
     mgr, by decide⟩⟩

/-- States and operands that meet the hypotheses of `Obligations.PairRoles`, part 2. -/
theorem meets_PairRoles_2 :
    (∃ (s : State) (a : Acc), Reaches s a (prA 4) ∧ Manager s a ∧ s.front.role = 3 ∧ s.prm.vin = .idle ∧ s.vinTooLong =
      false ∧ s.accepts 4 = true ∧ (sramSpan (s.rd (prA 0x30)).toNat s.vinLen = false ∨ (s.rd (prA 0x2C)).toNat ≠ 0 ∧
      sramSpan (s.rd (prA 0x28)).toNat (s.rd (prA 0x2C)).toNat = false))
    ∧ (∃ (s : State) (a : Acc) (m : Snap), Reaches s a (prA 4) ∧ Manager s a ∧ s.front.role = 3 ∧ s.prm.vin = .idle ∧
      s.vinTooLong = false ∧ s.accepts 4 = true ∧ sramSpan (s.rd (prA 0x30)).toNat s.vinLen = true ∧ ((s.rd (prA
      0x2C)).toNat = 0 ∨ sramSpan (s.rd (prA 0x28)).toNat (s.rd (prA 0x2C)).toNat = true) ∧ s.rf (prA 0x24) 15 0 ≤ s.rf (prA
      0x24) 31 16 ∧ (s.rd (prA 0x30)).toNat % 32 = 0 ∧ s.clr.snap = some m)
    ∧ (∃ (s : State) (a : Acc), Reaches s a (prA 4) ∧ Manager s a ∧ NoHart a ∧ (s.front.role ≠ 3 ∨ s.rb (prA 8) 14 = false))
    ∧ (∃ (s : State) (a : Acc), Reaches s a (prA 4) ∧ Manager s a ∧ s.front.role = 3 ∧ s.rb (prA 8) 14 = true ∧ s.prm.vin ≠
      .idle)
    ∧ (∃ (s : State) (a : Acc), Reaches s a (prA 4) ∧ Manager s a ∧ s.front.role = 3 ∧ s.rb (prA 8) 14 = true ∧ s.prm.vin =
      .idle ∧ s.vinTooLong = false ∧ VinFits s)
    ∧ (∃ (s : State) (a : Acc), Reaches s a (prA 4) ∧ Manager s a ∧ s.front.role = 3 ∧ s.rb (prA 8) 14 = true ∧ s.prm.vin =
      .idle ∧ s.vinTooLong = true)
    ∧ (∃ (s : State) (u : State), s.logicOn = true ∧ s.front.role = 3 ∧ s.rb (prA 0x20) 31 = true ∧ s.pairPoll = u ∧
      u.prm.vin = .ack)
    ∧ (∃ (s : State) (u : State), s.logicOn = true ∧ s.front.role = 3 ∧ s.rb (prA 0x20) 31 = true ∧ s.pairPoll = u ∧
      u.prm.vin = .idle ∧ u.vinTooLong = false ∧ VinFits u)
    ∧ (∃ (s : State) (u : State), s.logicOn = true ∧ s.front.role = 3 ∧ s.rb (prA 0x20) 31 = true ∧ s.pairPoll = u ∧
      u.prm.vin = .idle ∧ u.vinTooLong = true)
    ∧ (∃ (s : State), (s.logicOn = false ∨ s.front.role ≠ 3 ∨ s.rb (prA 0x20) 31 = false)) :=
  ⟨⟨(((((((wPair 3).wr (prA 8) 0x24300).wr (prA 0x24) 0x00030002).wr (prA 0x28) 0x10000100).wr (prA 0x2C) 0x10).wr (prA
    0x30) 0x11FFFFC0)), mgr, by decide⟩,
   ⟨{ (((((((wPair 3).wr (prA 8) 0x24300).wr (prA 0x24) 0x00030002).wr (prA 0x28) 0x10000100).wr (prA 0x2C) 0x10).wr (prA 0x30) 0x10001000)) with clr := { snap := some ⟨0, 0, 0, 0, [], [], false, true⟩ } },
     mgr, (⟨0, 0, 0, 0, [], [], false, true⟩), by decide⟩,
   ⟨(wPair 2), mgr, by decide⟩,
   ⟨{ (((((((wPair 3).wr (prA 8) 0x24300).wr (prA 0x24) 0x00030002).wr (prA 0x28) 0x10000100).wr (prA 0x2C) 0x10).wr (prA 0x30) 0x10001000)) with prm := { vin := .ack } },
     mgr, by decide⟩,
   ⟨(((((((wPair 3).wr (prA 8) 0x24300).wr (prA 0x24) 0x00030002).wr (prA 0x28) 0x10000100).wr (prA 0x2C) 0x10).wr (prA
     0x30) 0x10001000)), mgr, by decide⟩,
   ⟨(((((((wPair 3).wr (prA 8) 0x24300).wr (prA 0x24) 0x00030002).wr (prA 0x28) 0x10000100).wr (prA 0x2C) 4).wr (prA 0x30)
     0x10001000)), mgr, by decide⟩,
   ⟨{ (((((((wPair 3).wr (prA 8) 0x24300).wr (prA 0x24) 0x00030002).wr (prA 0x28) 0x10000100).wr (prA 0x2C) 0x10).wr (prA 0x30) 0x10001000).wr (prA 0x20) 0x80640000) with prm := { vin := .ack } },
     (State.pairPoll
     { (((((((wPair 3).wr (prA 8) 0x24300).wr (prA 0x24) 0x00030002).wr (prA 0x28) 0x10000100).wr (prA 0x2C) 0x10).wr (prA 0x30) 0x10001000).wr (prA 0x20) 0x80640000) with prm := { vin := .ack } }),
     by decide⟩,
   ⟨(((((((wPair 3).wr (prA 8) 0x24300).wr (prA 0x24) 0x00030002).wr (prA 0x28) 0x10000100).wr (prA 0x2C) 0x10).wr (prA
     0x30) 0x10001000).wr (prA 0x20) 0x80640000), (State.pairPoll (((((((wPair 3).wr (prA 8) 0x24300).wr (prA 0x24)
     0x00030002).wr (prA 0x28) 0x10000100).wr (prA 0x2C) 0x10).wr (prA 0x30) 0x10001000).wr (prA 0x20) 0x80640000)),
     by decide⟩,
   ⟨(((((((wPair 3).wr (prA 8) 0x24300).wr (prA 0x24) 0x00030002).wr (prA 0x28) 0x10000100).wr (prA 0x2C) 4).wr (prA 0x30)
     0x10001000).wr (prA 0x20) 0x80640000), (State.pairPoll (((((((wPair 3).wr (prA 8) 0x24300).wr (prA 0x24) 0x00030002).wr
     (prA 0x28) 0x10000100).wr (prA 0x2C) 4).wr (prA 0x30) 0x10001000).wr (prA 0x20) 0x80640000)), by decide⟩,
   ⟨(((((((wPair 3).wr (prA 8) 0x24300).wr (prA 0x24) 0x00030002).wr (prA 0x28) 0x10000100).wr (prA 0x2C) 0x10).wr (prA
     0x30) 0x10001000)), by decide⟩⟩

/-- States and operands that meet the hypotheses of `Obligations.PairRoles`, part 3. -/
theorem meets_PairRoles_3 :
    (∃ (s : State), s.logicOn = true ∧ s.prm.vin = .ack ∧ s.prm.hand ≠ .wait)
    ∧ (∃ (s : State), s.logicOn = true ∧ s.prm.vin = .ack)
    ∧ (∃ (s : State), (s.logicOn = false ∨ s.prm.vin ≠ .ack))
    ∧ (∃ (s : State), (s.logicOn = false ∨ s.front.role = 0))
    ∧ (∃ (s : State) (u : State), s.logicOn = true ∧ s.front.role ≠ 0 ∧ s.pairPoll = u ∧ u.pairEn = false)
    ∧ (∃ (s : State) (key : List Byte) (u : State), s.logicOn = true ∧ s.front.role ≠ 0 ∧ s.pairPoll = u ∧ u.pairEn = true ∧
      u.pairKey = some key ∧ u.prm.out = [])
    ∧ (∃ (s : State) (u : State), s.logicOn = true ∧ s.front.role ≠ 0 ∧ s.pairPoll = u ∧ u.pairEn = true ∧ u.pairKey = none)
    ∧ (∃ (s : State) (u : State), s.logicOn = true ∧ s.front.role ≠ 0 ∧ s.pairPoll = u ∧ u.pairEn = true)
    ∧ (∃ (s : State) (key : List Byte), s.logicOn = true ∧ s.pairEn = true ∧ s.prm.out = [] ∧ s.prm.vin = .copy ∧ s.prm.line
      ≠ .unknown ∧ s.prm.frame ≠ .unknown ∧ s.prm.header.length = 60 ∧ (s.bridge 3).pairUp = (s.rf (prA 8) 18 16 != 0 &&
      s.linkUp 14 && s.swOn) ∧ s.clr.pairEnd = some .done ∧ s.pairKey = some key)
    ∧ (∃ (s : State) (st : Status), s.logicOn = true ∧ s.pairEn = true ∧ s.prm.out = [] ∧ s.prm.vin = .copy ∧ s.prm.line ≠
      .unknown ∧ s.prm.frame ≠ .unknown ∧ s.prm.header.length = 60 ∧ (s.bridge 3).pairUp = (s.rf (prA 8) 18 16 != 0 &&
      s.linkUp 14 && s.swOn) ∧ s.clr.pairEnd = some st ∧ st ≠ .done ∧ s.prm.hand ≠ .wait) :=
  ⟨⟨{ (((((((wPair 3).wr (prA 8) 0x24300).wr (prA 0x24) 0x00030002).wr (prA 0x28) 0x10000100).wr (prA 0x2C) 0x10).wr (prA 0x30) 0x10001000).wr (prA 0x34) 0xC00002FF) with prm := { vin := .ack } },
    by decide⟩,
   ⟨{ (((((((wPair 3).wr (prA 8) 0x24300).wr (prA 0x24) 0x00030002).wr (prA 0x28) 0x10000100).wr (prA 0x2C) 0x10).wr (prA 0x30) 0x10001000).wr (prA 0x34) 0xC00002FF) with prm := { vin := .ack, hand := .wait } },
     by decide⟩,
   ⟨(((((((wPair 3).wr (prA 8) 0x24300).wr (prA 0x24) 0x00030002).wr (prA 0x28) 0x10000100).wr (prA 0x2C) 0x10).wr (prA
     0x30) 0x10001000)), by decide⟩,
   ⟨(wPair 0), by decide⟩,
   ⟨((wPair 1).wr (prA 0) 0), (State.pairPoll ((wPair 1).wr (prA 0) 0)), by decide⟩,
   ⟨{ wPair 3 with ticks := 3000000000 }, (List.replicate 32 7), (State.pairPoll { wPair 3 with ticks := 3000000000 }),
     by decide⟩,
   ⟨((wPair 3).wr (slA 20 8) 0), (State.pairPoll ((wPair 3).wr (slA 20 8) 0)), by decide⟩,
   ⟨{ wPair 3 with prm := { out := [[1, 2]] } }, (State.pairPoll { wPair 3 with prm := { out := [[1, 2]] } }), by decide⟩,
   ⟨{ (((((((wPair 3).wr (prA 8) 0x24300).wr (prA 0x24) 0x00030002).wr (prA 0x28) 0x10000100).wr (prA 0x2C) 0x10).wr (prA 0x30) 0x10001000)) with prm := { vin := .copy, header := (vinHeadOf (((((((wPair 3).wr (prA 8) 0x24300).wr (prA 0x24) 0x00030002).wr (prA 0x28) 0x10000100).wr (prA 0x2C) 0x10).wr (prA 0x30) 0x10001000))), line := .delivering, frame := .delivering, vseq := 1 }, clr := { pairEnd := some .done }, esw := {} },
     (List.replicate 32 7), by decide⟩,
   ⟨{ (((((((wPair 3).wr (prA 8) 0x24300).wr (prA 0x24) 0x00030002).wr (prA 0x28) 0x10000100).wr (prA 0x2C) 0x10).wr (prA 0x30) 0x10001000)) with prm := { vin := .copy, header := (vinHeadOf (((((((wPair 3).wr (prA 8) 0x24300).wr (prA 0x24) 0x00030002).wr (prA 0x28) 0x10000100).wr (prA 0x2C) 0x10).wr (prA 0x30) 0x10001000))), line := .delivering, frame := .delivering, vseq := 1 }, clr := { pairEnd := some .aborted }, esw := {} },
     .aborted, by decide⟩⟩

/-- States and operands that meet the hypotheses of `Obligations.PairRoles`, part 4. -/
theorem meets_PairRoles_4 :
    (∃ (s : State) (us : Nat) (r : Nat), s.logicOn = true ∧ (10 ≤ us ∧ us ≤ 30 ∧ r = 3 ∨ 40 ≤ us ∧ us ≤ 60 ∧ r = 2) ∧
      PairQuiet s r ∧ ¬ (r = 3 ∧ s.front.role = 3 ∧ s.posB = true))
    ∧ (∃ (s : State) (us : Nat) (r : Nat), s.logicOn = true ∧ (10 ≤ us ∧ us ≤ 30 ∧ r = 3 ∨ 40 ≤ us ∧ us ≤ 60 ∧ r = 2) ∧
      PairQuiet s r ∧ r = 3 ∧ s.front.role = 3 ∧ s.posB = true)
    ∧ (∃ (s : State) (us : Nat) (r : Nat), s.logicOn = true ∧ (10 ≤ us ∧ us ≤ 30 ∧ r = 3 ∨ 40 ≤ us ∧ us ≤ 60 ∧ r = 2) ∧
      s.prm.out = [] ∧ s.prm.vin ≠ .copy ∧ (s.bridge 3).pairUp = false ∧ s.linkUp 14 = true ∧ s.swOn = true ∧ s.front.role ≠
      3)
    ∧ (∃ (s : State) (us : Nat) (r : Nat), s.logicOn = true ∧ (10 ≤ us ∧ us ≤ 30 ∧ r = 3 ∨ 40 ≤ us ∧ us ≤ 60 ∧ r = 2))
    ∧ (∃ (us : Nat), (us < 10 ∨ 30 < us ∧ us < 40 ∨ 60 < us))
    ∧ (∃ (s : State) (b : Bool), s.logicOn = true ∧ s.pairEn = true ∧ PairQuiet s (s.rf (prA 8) 18 16) ∧ b = false)
    ∧ (∃ (s : State) (b : Bool), s.logicOn = true ∧ s.pairEn = true ∧ PairQuiet s (s.rf (prA 8) 18 16) ∧ b = true ∧
      s.prm.vin = .idle)
    ∧ (∃ (s : State) (b : Bool), s.logicOn = true ∧ s.pairEn = true ∧ PairQuiet s (s.rf (prA 8) 18 16) ∧ b = true ∧
      s.prm.vin = .ack ∧ s.prm.hand ≠ .wait)
    ∧ (∃ (s : State) (b : Bool), s.logicOn = true ∧ s.pairEn = true ∧ b = false)
    ∧ (∃ (s : State) (b : Bool), s.logicOn = true ∧ s.pairEn = true ∧ b = true) :=
  ⟨⟨(wPair 2), 10, 3, by decide⟩,
   ⟨{ wPair 3 with pwr := { (wPair 3).pwr with pairSel := true } }, 20, 3, by decide⟩,
   ⟨{ wPair 2 with brg := [] }, 50, 2, by decide⟩,
   ⟨{ wPair 3 with prm := { out := [[1, 2]] }, pwr := { (wPair 3).pwr with pairSel := true } }, 20, 3, by decide⟩,
   ⟨9, by decide⟩,
   ⟨{ (wPair 2).wr (prA 8) 0x20110 with prm := { line := .delivering, frame := .silent } }, false, by decide⟩,
   ⟨{ (wPair 2).wr (prA 8) 0x20130 with prm := { line := .delivering, frame := .delivering } }, true, by decide⟩,
   ⟨{ (wPair 3) with prm := { line := .silent, frame := .delivering, vin := .ack } }, true, by decide⟩,
   ⟨{ (wPair 3) with prm := { line := .delivering, frame := .delivering, vin := .ack, hand := .wait } }, false, by decide⟩,
   ⟨{ (wPair 3) with prm := { line := .delivering, frame := .delivering, vin := .ack, hand := .wait } }, true, by decide⟩⟩

/-- States and operands that meet the hypotheses of `Obligations.PairRoles`, part 5. -/
theorem meets_PairRoles_5 :
    (∃ (s : State), s.logicOn = true ∧ s.pairEn = false)
    ∧ (∃ (s : State), s.logicOn = false)
    ∧ (∃ (s : State), s.front.role ≠ 0 ∧ (s.link 2).up = true ∧ s.logicOn = true)
    ∧ (∃ (s : State), s.front.role ≠ 0 ∧ ((s.link 2).up = false ∨ s.logicOn = false))
    ∧ (∃ (s : State), s.front.role = 0)
    ∧ (∃ (s : State), s.logicOn = true ∧ s.prm.start = .listen ∧ s.prm.heard = true)
    ∧ (∃ (s : State), s.logicOn = true ∧ s.prm.start = .listen ∧ s.prm.heard = false)
    ∧ (∃ (s : State), (s.logicOn = false ∨ s.prm.start ≠ .listen))
    ∧ (∃ (s : State) (b : Bool), s.logicOn = true ∧ b = false)
    ∧ (∃ (s : State) (b : Bool), s.logicOn = true ∧ b = true ∧ s.prm.start = .idle) :=
  ⟨⟨{ ((wPair 2).wr (prA 0) 0) with prm := { line := .silent, frame := .delivering } }, by decide⟩,
   ⟨{ wPair 2 with pwr := { held := true } }, by decide⟩,
   ⟨{ wPair 3 with prm := { hand := .wait } }, by decide⟩,
   ⟨{ wPair 3 with links := [] }, by decide⟩,
   ⟨(wPair 0), by decide⟩,
   ⟨{ wPair 0 with prm := { start := .listen, heard := true }, ticks := 77 }, by decide⟩,
   ⟨{ wPair 0 with prm := { start := .listen } }, by decide⟩,
   ⟨(wPair 0), by decide⟩,
   ⟨((wPair 3).wr (prA 8) 0x2300), false, by decide⟩,
   ⟨(wPair 2), true, by decide⟩⟩

/-- States and operands that meet the hypotheses of `Obligations.PairRoles`, part 6. -/
theorem meets_PairRoles_6 :
    (∃ (s : State) (b : Bool), s.logicOn = true ∧ b = true ∧ s.prm.start = .listen)
    ∧ (∃ (s : State) (b : Bool), s.logicOn = true ∧ b = true ∧ s.prm.start = .guard ∧ s.front.role = 0 ∧ s.front.permit =
      false)
    ∧ (∃ (s : State), s.logicOn = false)
    ∧ (∃ (s : State), s.logicOn = true ∧ s.front.ownLow = false ∧ s.front.role = 0 ∧ s.prm.start = .guard)
    ∧ (∃ (s : State), s.logicOn = true ∧ s.front.ownLow = false ∧ s.front.role = 2 ∧ (s.peer = 3 ∨ s.prm.armed = true) ∧
      s.aoState ≠ 1 ∧ s.vinWin = none)
    ∧ (∃ (s : State), s.logicOn = true ∧ (s.front.ownLow = true ∨ s.front.role = 2 ∧ (s.peer = 1 ∨ s.peer = 2) ∧ s.prm.armed
      = false ∨ s.front.role = 2 ∧ s.aoState = 1))
    ∧ (∃ (s : State) (n : Nat), s.logicOn = true ∧ s.front.ownLow = false ∧ s.front.role = 2 ∧ (s.peer = 3 ∨ s.prm.armed =
      true) ∧ s.aoState ≠ 1 ∧ s.vinWin = some n ∧ (∀ k, k < 64 → (s.chI k).dual = false) ∧ s.accepts 4 = true ∧ s.clr.snap =
      none ∧ (s.ldLE (vinA n + 0x12) 2) < 65536 ∧ sramSpan (s.rd (prA 0x28)).toNat (s.ldLE (vinA n + 0x14) 4) = true)
    ∧ (∃ (s : State) (n : Nat), s.logicOn = true ∧ s.front.ownLow = false ∧ s.front.role = 2 ∧ (s.peer = 3 ∨ s.prm.armed =
      true) ∧ s.aoState ≠ 1 ∧ s.vinWin = some n)
    ∧ (∃ (s : State) (n : Nat) (c : Nat), s.logicOn = true ∧ s.front.ownLow = false ∧ s.front.role = 2 ∧ (s.peer = 3 ∨
      s.prm.armed = true) ∧ s.aoState ≠ 1 ∧ s.vinWin = some n ∧ c < 64 ∧ (s.chI c).dual = true ∧ (∀ k, k < 64 → (s.chI
      k).parEn = false ∧ (k ≠ c → (s.chI k).dual = false)) ∧ s.rf (chA c 4) 1 0 = 1 ∧ (∀ k, k < 16 → s.rb (winA (c / 32) k
      0) 28 = false ∧ s.rb (winA (c / 32) k 0) 30 = false) ∧ s.brUp (c / 32) = true ∧ s.bridge (c / 32) = {})
    ∧ (∃ (s : State), s.logicOn = true ∧ s.front.role = 2 ∧ s.peer = 3 ∧ s.front.ownLow = true ∧ s.rb (prA 8) 13 = false) :=
  ⟨⟨{ wPair 0 with prm := { start := .listen } }, true, by decide +kernel⟩,
   ⟨{ wPair 0 with prm := { start := .guard } }, true, by decide +kernel⟩,
   ⟨State.reset, by decide⟩,
   ⟨{ wPair 0 with prm := { start := .guard, vseq := 3 } }, by decide⟩,
   ⟨((wPair 2).wr (prA 8) 0x2300), by decide⟩,
   ⟨{ ((wPair 2).wr (prA 8) 0x300) with front := { role := 2, ownLow := true } }, by decide⟩,
   ⟨((((wPair 2).wr (prA 8) 0x300).wr (prA 0x28) 0x10000200).stBytes (vinA 1) ((leBytes 4 0x96405649 ++ leBytes 4 9 ++
     leBytes 4 0x68 ++ leBytes 4 0 ++ leBytes 2 2 ++ leBytes 2 2 ++ leBytes 4 8 ++ leBytes 8 4 ++ leBytes 4 7 ++
     List.replicate 24 0) ++ leBytes 4 (crc32 ((leBytes 4 0x96405649 ++ leBytes 4 9 ++ leBytes 4 0x68 ++ leBytes 4 0 ++
     leBytes 2 2 ++ leBytes 2 2 ++ leBytes 4 8 ++ leBytes 8 4 ++ leBytes 4 7 ++ List.replicate 24 0) ++ (List.range 40
     |>.map fun i => BitVec.ofNat 8 (i + 1)))) ++ (List.range 40 |>.map fun i => BitVec.ofNat 8 (i + 1)))), 1,
     by decide +kernel⟩,
   ⟨((((wPair 2).wr (prA 8) 0x300).wr (prA 0x28) 0x10000200).stBytes (vinA 1) ((leBytes 4 0x96405649 ++ leBytes 4 9 ++
     leBytes 4 0x68 ++ leBytes 4 0 ++ leBytes 2 2 ++ leBytes 2 2 ++ leBytes 4 8 ++ leBytes 8 4 ++ leBytes 4 7 ++
     List.replicate 24 0) ++ leBytes 4 (crc32 ((leBytes 4 0x96405649 ++ leBytes 4 9 ++ leBytes 4 0x68 ++ leBytes 4 0 ++
     leBytes 2 2 ++ leBytes 2 2 ++ leBytes 4 8 ++ leBytes 8 4 ++ leBytes 4 7 ++ List.replicate 24 0) ++ (List.range 40
     |>.map fun i => BitVec.ofNat 8 (i + 1)))) ++ (List.range 40 |>.map fun i => BitVec.ofNat 8 (i + 1)))), 1,
     by decide +kernel⟩,
   ⟨((((((wPair 2).wr (prA 8) 0x300).wr (prA 0x28) 0x10000200).stBytes (vinA 1) ((leBytes 4 0x96405649 ++ leBytes 4 9 ++
     leBytes 4 0x68 ++ leBytes 4 0 ++ leBytes 2 2 ++ leBytes 2 2 ++ leBytes 4 8 ++ leBytes 8 4 ++ leBytes 4 7 ++
     List.replicate 24 0) ++ leBytes 4 (crc32 ((leBytes 4 0x96405649 ++ leBytes 4 9 ++ leBytes 4 0x68 ++ leBytes 4 0 ++
     leBytes 2 2 ++ leBytes 2 2 ++ leBytes 4 8 ++ leBytes 8 4 ++ leBytes 4 7 ++ List.replicate 24 0) ++ (List.range 40
     |>.map fun i => BitVec.ofNat 8 (i + 1)))) ++ (List.range 40 |>.map fun i => BitVec.ofNat 8 (i + 1)))).setChI 2
     { dual := true }).wr (chA 2 4) 1), 1, 2, by decide +kernel⟩,
   ⟨{ ((wPair 2).wr (prA 8) 0x300) with front := { role := 2, ownLow := true } }, by decide⟩⟩

/-- States and operands that meet the hypotheses of `Obligations.PairRoles`, part 7. -/
theorem meets_PairRoles_7 :
    (∃ (s : State), (s.front.role ≠ 2 ∨ s.peer ≠ 3 ∨ s.front.ownLow = false))
    ∧ (∃ (s : State) (key : List Byte) (u : State), s.logicOn = true ∧ s.front.role = 2 ∧ s.pairPoll = u ∧ u.pairKey = some
      key ∧ u.prm.out = [])
    ∧ (∃ (s : State) (u : State), s.logicOn = true ∧ s.front.role = 2 ∧ s.pairPoll = u)
    ∧ (∃ (s : State), (s.logicOn = false ∨ s.front.role ≠ 2))
    ∧ (∃ (s : State), s.logicOn = true ∧ s.front.role = 2)
    ∧ (∃ (s : State), s.logicOn = true ∧ s.front.role = 3)
    ∧ (∃ (s : State), (s.logicOn = false ∨ s.front.role ≠ 3)) :=
  ⟨⟨(wPair 2), by decide⟩,
   ⟨{ wPair 2 with ticks := 40 }, (List.replicate 32 7), (State.pairPoll { wPair 2 with ticks := 40 }), by decide⟩,
   ⟨{ wPair 2 with ticks := 40, prm := { out := [[1, 2]] } }, (State.pairPoll
     { wPair 2 with ticks := 40, prm := { out := [[1, 2]] } }), by decide⟩,
   ⟨(wPair 3), by decide⟩,
   ⟨(wPair 2), by decide⟩,
   ⟨(wPair 3), by decide⟩,
   ⟨(wPair 2), by decide⟩⟩

/-- States and operands that meet the hypotheses of `Obligations.PairFrames`, part 1. -/
theorem meets_PairFrames_1 :
    (∃ (s : State) (f : PairFrame) (x : HostRx) (l : List HostRx), PairGets s f 1 x l ∧ PairQuiet s f.role ∧ ¬ (f.role = 3 ∧
      s.front.role = 3 ∧ s.posB = true))
    ∧ (∃ (s : State) (f : PairFrame) (x : HostRx) (l : List HostRx), PairGets s f 1 x l ∧ PairQuiet s f.role ∧ f.role = 3 ∧
      s.front.role = 3 ∧ s.posB = true)
    ∧ (∃ (s : State) (f : PairFrame) (x : HostRx) (l : List HostRx), PairGets s f 1 x l) :=
  ⟨⟨{ ((wPair 2).wr (prA 0) 0xC0140A51) with esw := { pairIn := [wRx 2 1 (leBytes 8 0) .wait] } }, (wFrame 2 1 (leBytes 8 0)
    12), (wRx 2 1 (leBytes 8 0) .wait), [], ⟨⟨by decide, rfl, accept_wRx _ _ _ _ _ _ (by decide +kernel) rfl
    (by decide +kernel) (by decide +kernel), rfl⟩, by decide +kernel⟩⟩,
   ⟨{ { wPair 3 with pwr := { (wPair 3).pwr with pairSel := true } } with esw := { pairIn := [wRx 3 1 (leBytes 8 0)] } },
     (wFrame 3 1 (leBytes 8 0) 4), (wRx 3 1 (leBytes 8 0)), [], ⟨⟨by decide, rfl, accept_wRx _ _ _ _ _ _ (by decide +kernel)
     rfl (by decide +kernel) (by decide +kernel), rfl⟩, by decide +kernel⟩⟩,
   ⟨{ { wPair 3 with pwr := { (wPair 3).pwr with pairSel := true } } with esw := { pairIn := [wRx 3 1 (leBytes 8 0)] }, prm := { out := [[1, 2]] } },
     (wFrame 3 1 (leBytes 8 0) 4), (wRx 3 1 (leBytes 8 0)), [], ⟨by decide, rfl, accept_wRx _ _ _ _ _ _ (by decide +kernel)
     rfl (by decide +kernel) (by decide +kernel), rfl⟩⟩⟩

/-- States and operands that meet the hypotheses of `Obligations.PairFrames`, part 2. -/
theorem meets_PairFrames_2 :
    (∃ (s : State) (f : PairFrame) (x : HostRx) (l : List HostRx), PairGets s f 2 x l ∧ PairQuiet s f.role ∧ s.front.role =
      2 ∧ 0x40 ≤ (beNat (slice f.payload 4 4)) ∧ (beNat (slice f.payload 4 4)) < 0x200000 ∧ sramSpan (s.rd (prA 0x30)).toNat
      0x200000 = true)
    ∧ (∃ (s : State) (f : PairFrame) (x : HostRx) (l : List HostRx), PairGets s f 2 x l ∧ PairQuiet s f.role ∧ (s.front.role
      ≠ 2 ∨ (beNat (slice f.payload 4 4)) < 0x40 ∨ 0x200000 ≤ (beNat (slice f.payload 4 4))))
    ∧ (∃ (s : State) (f : PairFrame) (x : HostRx) (l : List HostRx), PairGets s f 2 x l) :=
  ⟨⟨{ ((wPair 2).wr (prA 0x30) 0x10001000) with esw := { pairIn := [wRx 3 2 ((beBytes 4 3 ++ beBytes 4 0x40 ++ List.replicate 1408 0xA5))] }, prm := { rxSeq := some 2, rxOffs := [0x40] } },
    (wFrame 3 2 ((beBytes 4 3 ++ beBytes 4 0x40 ++ List.replicate 1408 0xA5)) 4), (wRx 3 2 ((beBytes 4 3 ++ beBytes 4 0x40
    ++ List.replicate 1408 0xA5))), [], ⟨⟨by decide, rfl, accept_wRx _ _ _ _ _ _ (by decide +kernel) rfl (by decide +kernel)
    (by decide +kernel), rfl⟩, by decide +kernel⟩⟩,
   ⟨{ (wPair 3) with esw := { pairIn := [wRx 3 2 ((beBytes 4 3 ++ beBytes 4 0x40 ++ List.replicate 1408 0xA5))] } }, (wFrame
     3 2 ((beBytes 4 3 ++ beBytes 4 0x40 ++ List.replicate 1408 0xA5)) 4), (wRx 3 2 ((beBytes 4 3 ++ beBytes 4 0x40 ++
     List.replicate 1408 0xA5))), [], ⟨⟨by decide, rfl, accept_wRx _ _ _ _ _ _ (by decide +kernel) rfl (by decide +kernel)
     (by decide +kernel), rfl⟩, by decide +kernel⟩⟩,
   ⟨{ ((wPair 2).wr (prA 0x30) 0x10001000) with esw := { pairIn := [wRx 3 2 ((beBytes 4 3 ++ beBytes 4 0x3F ++ List.replicate 1408 0xA5))] }, prm := { out := [[1, 2]] } },
     (wFrame 3 2 ((beBytes 4 3 ++ beBytes 4 0x3F ++ List.replicate 1408 0xA5)) 4), (wRx 3 2 ((beBytes 4 3 ++ beBytes 4 0x3F
     ++ List.replicate 1408 0xA5))), [], ⟨by decide, rfl, accept_wRx _ _ _ _ _ _ (by decide +kernel) rfl (by decide +kernel)
     (by decide +kernel), rfl⟩⟩⟩

/-- States and operands that meet the hypotheses of `Obligations.PairFrames`, part 3. -/
theorem meets_PairFrames_3 :
    (∃ (s : State) (f : PairFrame) (x : HostRx) (l : List HostRx) (key : List Byte), PairGets s f 3 x l ∧ PairQuiet s f.role
      ∧ s.front.role = 2 ∧ s.pairKey = some key ∧ sramSpan (s.rd (prA 0x30)).toNat 0x200000 = true ∧ leNat (slice f.payload
      0 4) = 0x96405649 ∧ 0x40 ≤ (leNat (slice f.payload 8 4)) ∧ (leNat (slice f.payload 8 4)) ≤ 0x200000 ∧ s.prm.rxSeq =
      some (leNat (slice f.payload 4 4)) ∧ (∀ k ∈ List.range (((leNat (slice f.payload 8 4)) - 0x40 + 1407) / 1408), 0x40 +
      k * 1408 ∈ s.prm.rxOffs) ∧ crc32 (f.payload.take 0x3C ++ (s.ldBytes ((s.rd (prA 0x30)).toNat + 0x40) ((leNat (slice
      f.payload 8 4)) - 0x40))) = leNat (slice f.payload 0x3C 4) ∧ f.payload.length = 64)
    ∧ (∃ (s : State) (f : PairFrame) (x : HostRx) (l : List HostRx) (key : List Byte), PairGets s f 3 x l ∧ PairQuiet s
      f.role ∧ s.front.role = 2 ∧ s.pairKey = some key ∧ (s.prm.rxSeq ≠ some (leNat (slice f.payload 4 4)) ∨ ¬ (∀ k ∈
      List.range (((leNat (slice f.payload 8 4)) - 0x40 + 1407) / 1408), 0x40 + k * 1408 ∈ s.prm.rxOffs) ∨ crc32
      (f.payload.take 0x3C ++ (s.ldBytes ((s.rd (prA 0x30)).toNat + 0x40) ((leNat (slice f.payload 8 4)) - 0x40))) ≠ leNat
      (slice f.payload 0x3C 4)))
    ∧ (∃ (s : State) (f : PairFrame) (x : HostRx) (l : List HostRx), PairGets s f 3 x l ∧ PairQuiet s f.role ∧ s.front.role
      ≠ 2) :=
  ⟨⟨{ (((wPair 2).wr (prA 0x30) 0x10001000).stBytes 0x10001040 (List.replicate 32 6)) with esw := { pairIn := [wRx 3 3 (((leBytes 4 0x96405649 ++ leBytes 4 3 ++ leBytes 4 0x60 ++ leBytes 4 0 ++ leBytes 2 2 ++ leBytes 2 2 ++ leBytes 4 0 ++ leBytes 8 4 ++ leBytes 4 7 ++ List.replicate 24 0) ++ leBytes 4 (crc32 ((leBytes 4 0x96405649 ++ leBytes 4 3 ++ leBytes 4 0x60 ++ leBytes 4 0 ++ leBytes 2 2 ++ leBytes 2 2 ++ leBytes 4 0 ++ leBytes 8 4 ++ leBytes 4 7 ++ List.replicate 24 0) ++ List.replicate 32 6))))] }, prm := { rxSeq := some 3, rxOffs := [0x40] }, ticks := 8 },
    (wFrame 3 3 (((leBytes 4 0x96405649 ++ leBytes 4 3 ++ leBytes 4 0x60 ++ leBytes 4 0 ++ leBytes 2 2 ++ leBytes 2 2 ++
    leBytes 4 0 ++ leBytes 8 4 ++ leBytes 4 7 ++ List.replicate 24 0) ++ leBytes 4 (crc32 ((leBytes 4 0x96405649 ++ leBytes
    4 3 ++ leBytes 4 0x60 ++ leBytes 4 0 ++ leBytes 2 2 ++ leBytes 2 2 ++ leBytes 4 0 ++ leBytes 8 4 ++ leBytes 4 7 ++
    List.replicate 24 0) ++ List.replicate 32 6)))) 4), (wRx 3 3 (((leBytes 4 0x96405649 ++ leBytes 4 3 ++ leBytes 4 0x60 ++
    leBytes 4 0 ++ leBytes 2 2 ++ leBytes 2 2 ++ leBytes 4 0 ++ leBytes 8 4 ++ leBytes 4 7 ++ List.replicate 24 0) ++
    leBytes 4 (crc32 ((leBytes 4 0x96405649 ++ leBytes 4 3 ++ leBytes 4 0x60 ++ leBytes 4 0 ++ leBytes 2 2 ++ leBytes 2 2 ++
    leBytes 4 0 ++ leBytes 8 4 ++ leBytes 4 7 ++ List.replicate 24 0) ++ List.replicate 32 6))))), [], (List.replicate 32
    7), ⟨⟨by decide, rfl, accept_wRx _ _ _ _ _ _ (by decide +kernel) rfl (by decide +kernel) (by decide +kernel), rfl⟩,
    by decide +kernel⟩⟩,
   ⟨{ ((wPair 2).wr (prA 0x30) 0x10001000) with esw := { pairIn := [wRx 3 3 (((leBytes 4 0x96405649 ++ leBytes 4 3 ++ leBytes 4 0x60 ++ leBytes 4 0 ++ leBytes 2 2 ++ leBytes 2 2 ++ leBytes 4 0 ++ leBytes 8 4 ++ leBytes 4 7 ++ List.replicate 24 0) ++ leBytes 4 (crc32 ((leBytes 4 0x96405649 ++ leBytes 4 3 ++ leBytes 4 0x60 ++ leBytes 4 0 ++ leBytes 2 2 ++ leBytes 2 2 ++ leBytes 4 0 ++ leBytes 8 4 ++ leBytes 4 7 ++ List.replicate 24 0) ++ List.replicate 32 6))))] }, prm := { rxSeq := some 3, rxOffs := [0x40] } },
     (wFrame 3 3 (((leBytes 4 0x96405649 ++ leBytes 4 3 ++ leBytes 4 0x60 ++ leBytes 4 0 ++ leBytes 2 2 ++ leBytes 2 2 ++
     leBytes 4 0 ++ leBytes 8 4 ++ leBytes 4 7 ++ List.replicate 24 0) ++ leBytes 4 (crc32 ((leBytes 4 0x96405649 ++ leBytes
     4 3 ++ leBytes 4 0x60 ++ leBytes 4 0 ++ leBytes 2 2 ++ leBytes 2 2 ++ leBytes 4 0 ++ leBytes 8 4 ++ leBytes 4 7 ++
     List.replicate 24 0) ++ List.replicate 32 6)))) 4), (wRx 3 3 (((leBytes 4 0x96405649 ++ leBytes 4 3 ++ leBytes 4 0x60
     ++ leBytes 4 0 ++ leBytes 2 2 ++ leBytes 2 2 ++ leBytes 4 0 ++ leBytes 8 4 ++ leBytes 4 7 ++ List.replicate 24 0) ++
     leBytes 4 (crc32 ((leBytes 4 0x96405649 ++ leBytes 4 3 ++ leBytes 4 0x60 ++ leBytes 4 0 ++ leBytes 2 2 ++ leBytes 2 2
     ++ leBytes 4 0 ++ leBytes 8 4 ++ leBytes 4 7 ++ List.replicate 24 0) ++ List.replicate 32 6))))), [], (List.replicate
     32 7), ⟨⟨by decide, rfl, accept_wRx _ _ _ _ _ _ (by decide +kernel) rfl (by decide +kernel) (by decide +kernel), rfl⟩,
     by decide +kernel⟩⟩,
   ⟨{ (wPair 3) with esw := { pairIn := [wRx 3 3 (((leBytes 4 0x96405649 ++ leBytes 4 3 ++ leBytes 4 0x60 ++ leBytes 4 0 ++ leBytes 2 2 ++ leBytes 2 2 ++ leBytes 4 0 ++ leBytes 8 4 ++ leBytes 4 7 ++ List.replicate 24 0) ++ leBytes 4 (crc32 ((leBytes 4 0x96405649 ++ leBytes 4 3 ++ leBytes 4 0x60 ++ leBytes 4 0 ++ leBytes 2 2 ++ leBytes 2 2 ++ leBytes 4 0 ++ leBytes 8 4 ++ leBytes 4 7 ++ List.replicate 24 0) ++ List.replicate 32 6))))] } },
     (wFrame 3 3 (((leBytes 4 0x96405649 ++ leBytes 4 3 ++ leBytes 4 0x60 ++ leBytes 4 0 ++ leBytes 2 2 ++ leBytes 2 2 ++
     leBytes 4 0 ++ leBytes 8 4 ++ leBytes 4 7 ++ List.replicate 24 0) ++ leBytes 4 (crc32 ((leBytes 4 0x96405649 ++ leBytes
     4 3 ++ leBytes 4 0x60 ++ leBytes 4 0 ++ leBytes 2 2 ++ leBytes 2 2 ++ leBytes 4 0 ++ leBytes 8 4 ++ leBytes 4 7 ++
     List.replicate 24 0) ++ List.replicate 32 6)))) 4), (wRx 3 3 (((leBytes 4 0x96405649 ++ leBytes 4 3 ++ leBytes 4 0x60
     ++ leBytes 4 0 ++ leBytes 2 2 ++ leBytes 2 2 ++ leBytes 4 0 ++ leBytes 8 4 ++ leBytes 4 7 ++ List.replicate 24 0) ++
     leBytes 4 (crc32 ((leBytes 4 0x96405649 ++ leBytes 4 3 ++ leBytes 4 0x60 ++ leBytes 4 0 ++ leBytes 2 2 ++ leBytes 2 2
     ++ leBytes 4 0 ++ leBytes 8 4 ++ leBytes 4 7 ++ List.replicate 24 0) ++ List.replicate 32 6))))), [], ⟨⟨by decide, rfl,
     accept_wRx _ _ _ _ _ _ (by decide +kernel) rfl (by decide +kernel) (by decide +kernel), rfl⟩, by decide +kernel⟩⟩⟩

/-- States and operands that meet the hypotheses of `Obligations.PairFrames`, part 4. -/
theorem meets_PairFrames_4 :
    (∃ (s : State) (f : PairFrame) (x : HostRx) (l : List HostRx), PairGets s f 3 x l ∧ s.front.role = 2 ∧ sramSpan (s.rd
      (prA 0x30)).toNat 0x200000 = true ∧ leNat (slice f.payload 0 4) = 0x96405649 ∧ 0x40 ≤ (leNat (slice f.payload 8 4)) ∧
      (leNat (slice f.payload 8 4)) ≤ 0x200000 ∧ s.prm.rxSeq = some (leNat (slice f.payload 4 4)) ∧ (∀ k ∈ List.range
      (((leNat (slice f.payload 8 4)) - 0x40 + 1407) / 1408), 0x40 + k * 1408 ∈ s.prm.rxOffs) ∧ crc32 (f.payload.take 0x3C
      ++ (s.ldBytes ((s.rd (prA 0x30)).toNat + 0x40) ((leNat (slice f.payload 8 4)) - 0x40))) = leNat (slice f.payload 0x3C
      4))
    ∧ (∃ (s : State) (f : PairFrame) (x : HostRx) (l : List HostRx), PairGets s f 3 x l ∧ s.front.role = 2 ∧ ¬ (sramSpan
      (s.rd (prA 0x30)).toNat 0x200000 = true ∧ leNat (slice f.payload 0 4) = 0x96405649 ∧ 0x40 ≤ (leNat (slice f.payload 8
      4)) ∧ (leNat (slice f.payload 8 4)) ≤ 0x200000 ∧ s.prm.rxSeq = some (leNat (slice f.payload 4 4)) ∧ (∀ k ∈ List.range
      (((leNat (slice f.payload 8 4)) - 0x40 + 1407) / 1408), 0x40 + k * 1408 ∈ s.prm.rxOffs) ∧ crc32 (f.payload.take 0x3C
      ++ (s.ldBytes ((s.rd (prA 0x30)).toNat + 0x40) ((leNat (slice f.payload 8 4)) - 0x40))) = leNat (slice f.payload 0x3C
      4)))
    ∧ (∃ (s : State) (f : PairFrame) (x : HostRx) (l : List HostRx), PairGets s f 3 x l ∧ s.front.role ≠ 2) :=
  ⟨⟨{ (((wPair 2).wr (prA 0x30) 0x10001000).stBytes 0x10001040 (List.replicate 32 6)) with esw := { pairIn := [wRx 3 3 (((leBytes 4 0x96405649 ++ leBytes 4 3 ++ leBytes 4 0x60 ++ leBytes 4 0 ++ leBytes 2 2 ++ leBytes 2 2 ++ leBytes 4 0 ++ leBytes 8 4 ++ leBytes 4 7 ++ List.replicate 24 0) ++ leBytes 4 (crc32 ((leBytes 4 0x96405649 ++ leBytes 4 3 ++ leBytes 4 0x60 ++ leBytes 4 0 ++ leBytes 2 2 ++ leBytes 2 2 ++ leBytes 4 0 ++ leBytes 8 4 ++ leBytes 4 7 ++ List.replicate 24 0) ++ List.replicate 32 6))))] }, prm := { rxSeq := some 3, rxOffs := [0x40], out := [[1, 2]] }, ticks := 8 },
    (wFrame 3 3 (((leBytes 4 0x96405649 ++ leBytes 4 3 ++ leBytes 4 0x60 ++ leBytes 4 0 ++ leBytes 2 2 ++ leBytes 2 2 ++
    leBytes 4 0 ++ leBytes 8 4 ++ leBytes 4 7 ++ List.replicate 24 0) ++ leBytes 4 (crc32 ((leBytes 4 0x96405649 ++ leBytes
    4 3 ++ leBytes 4 0x60 ++ leBytes 4 0 ++ leBytes 2 2 ++ leBytes 2 2 ++ leBytes 4 0 ++ leBytes 8 4 ++ leBytes 4 7 ++
    List.replicate 24 0) ++ List.replicate 32 6)))) 4), (wRx 3 3 (((leBytes 4 0x96405649 ++ leBytes 4 3 ++ leBytes 4 0x60 ++
    leBytes 4 0 ++ leBytes 2 2 ++ leBytes 2 2 ++ leBytes 4 0 ++ leBytes 8 4 ++ leBytes 4 7 ++ List.replicate 24 0) ++
    leBytes 4 (crc32 ((leBytes 4 0x96405649 ++ leBytes 4 3 ++ leBytes 4 0x60 ++ leBytes 4 0 ++ leBytes 2 2 ++ leBytes 2 2 ++
    leBytes 4 0 ++ leBytes 8 4 ++ leBytes 4 7 ++ List.replicate 24 0) ++ List.replicate 32 6))))), [], ⟨⟨by decide, rfl,
    accept_wRx _ _ _ _ _ _ (by decide +kernel) rfl (by decide +kernel) (by decide +kernel), rfl⟩, by decide +kernel⟩⟩,
   ⟨{ ((wPair 2).wr (prA 0x30) 0x10001000) with esw := { pairIn := [wRx 3 3 (((leBytes 4 0x96405649 ++ leBytes 4 3 ++ leBytes 4 0x60 ++ leBytes 4 0 ++ leBytes 2 2 ++ leBytes 2 2 ++ leBytes 4 0 ++ leBytes 8 4 ++ leBytes 4 7 ++ List.replicate 24 0) ++ leBytes 4 (crc32 ((leBytes 4 0x96405649 ++ leBytes 4 3 ++ leBytes 4 0x60 ++ leBytes 4 0 ++ leBytes 2 2 ++ leBytes 2 2 ++ leBytes 4 0 ++ leBytes 8 4 ++ leBytes 4 7 ++ List.replicate 24 0) ++ List.replicate 32 6))))] }, prm := { rxSeq := some 3, rxOffs := [0x40] } },
     (wFrame 3 3 (((leBytes 4 0x96405649 ++ leBytes 4 3 ++ leBytes 4 0x60 ++ leBytes 4 0 ++ leBytes 2 2 ++ leBytes 2 2 ++
     leBytes 4 0 ++ leBytes 8 4 ++ leBytes 4 7 ++ List.replicate 24 0) ++ leBytes 4 (crc32 ((leBytes 4 0x96405649 ++ leBytes
     4 3 ++ leBytes 4 0x60 ++ leBytes 4 0 ++ leBytes 2 2 ++ leBytes 2 2 ++ leBytes 4 0 ++ leBytes 8 4 ++ leBytes 4 7 ++
     List.replicate 24 0) ++ List.replicate 32 6)))) 4), (wRx 3 3 (((leBytes 4 0x96405649 ++ leBytes 4 3 ++ leBytes 4 0x60
     ++ leBytes 4 0 ++ leBytes 2 2 ++ leBytes 2 2 ++ leBytes 4 0 ++ leBytes 8 4 ++ leBytes 4 7 ++ List.replicate 24 0) ++
     leBytes 4 (crc32 ((leBytes 4 0x96405649 ++ leBytes 4 3 ++ leBytes 4 0x60 ++ leBytes 4 0 ++ leBytes 2 2 ++ leBytes 2 2
     ++ leBytes 4 0 ++ leBytes 8 4 ++ leBytes 4 7 ++ List.replicate 24 0) ++ List.replicate 32 6))))), [], ⟨⟨by decide, rfl,
     accept_wRx _ _ _ _ _ _ (by decide +kernel) rfl (by decide +kernel) (by decide +kernel), rfl⟩, by decide +kernel⟩⟩,
   ⟨{ (wPair 3) with esw := { pairIn := [wRx 3 3 (((leBytes 4 0x96405649 ++ leBytes 4 3 ++ leBytes 4 0x60 ++ leBytes 4 0 ++ leBytes 2 2 ++ leBytes 2 2 ++ leBytes 4 0 ++ leBytes 8 4 ++ leBytes 4 7 ++ List.replicate 24 0) ++ leBytes 4 (crc32 ((leBytes 4 0x96405649 ++ leBytes 4 3 ++ leBytes 4 0x60 ++ leBytes 4 0 ++ leBytes 2 2 ++ leBytes 2 2 ++ leBytes 4 0 ++ leBytes 8 4 ++ leBytes 4 7 ++ List.replicate 24 0) ++ List.replicate 32 6))))] } },
     (wFrame 3 3 (((leBytes 4 0x96405649 ++ leBytes 4 3 ++ leBytes 4 0x60 ++ leBytes 4 0 ++ leBytes 2 2 ++ leBytes 2 2 ++
     leBytes 4 0 ++ leBytes 8 4 ++ leBytes 4 7 ++ List.replicate 24 0) ++ leBytes 4 (crc32 ((leBytes 4 0x96405649 ++ leBytes
     4 3 ++ leBytes 4 0x60 ++ leBytes 4 0 ++ leBytes 2 2 ++ leBytes 2 2 ++ leBytes 4 0 ++ leBytes 8 4 ++ leBytes 4 7 ++
     List.replicate 24 0) ++ List.replicate 32 6)))) 4), (wRx 3 3 (((leBytes 4 0x96405649 ++ leBytes 4 3 ++ leBytes 4 0x60
     ++ leBytes 4 0 ++ leBytes 2 2 ++ leBytes 2 2 ++ leBytes 4 0 ++ leBytes 8 4 ++ leBytes 4 7 ++ List.replicate 24 0) ++
     leBytes 4 (crc32 ((leBytes 4 0x96405649 ++ leBytes 4 3 ++ leBytes 4 0x60 ++ leBytes 4 0 ++ leBytes 2 2 ++ leBytes 2 2
     ++ leBytes 4 0 ++ leBytes 8 4 ++ leBytes 4 7 ++ List.replicate 24 0) ++ List.replicate 32 6))))), [], ⟨⟨by decide, rfl,
     accept_wRx _ _ _ _ _ _ (by decide +kernel) rfl (by decide +kernel) (by decide +kernel), rfl⟩, by decide +kernel⟩⟩⟩

/-- States and operands that meet the hypotheses of `Obligations.PairFrames`, part 5. -/
theorem meets_PairFrames_5 :
    (∃ (s : State) (f : PairFrame) (x : HostRx) (l : List HostRx), PairGets s f 4 x l ∧ PairQuiet s f.role ∧ s.prm.vin =
      .ack ∧ (beNat (slice f.payload 0 4)) = s.prm.vseq ∧ byteAt f.payload 4 = 0 ∧ s.prm.hand ≠ .wait ∧ s.prm.hand ≠ .final)
    ∧ (∃ (s : State) (f : PairFrame) (x : HostRx) (l : List HostRx), PairGets s f 4 x l ∧ PairQuiet s f.role ∧ s.prm.vin =
      .ack ∧ (beNat (slice f.payload 0 4)) = s.prm.vseq ∧ byteAt f.payload 4 = 0 ∧ s.prm.hand = .final)
    ∧ (∃ (s : State) (f : PairFrame) (x : HostRx) (l : List HostRx), PairGets s f 4 x l ∧ PairQuiet s f.role ∧ s.prm.vin =
      .ack ∧ (beNat (slice f.payload 0 4)) = s.prm.vseq ∧ byteAt f.payload 4 ≠ 0 ∧ s.prm.hand ≠ .wait ∧ s.prm.hand ≠ .final)
      :=
  ⟨⟨{ ((wPair 3).wr (prA 0x34) 0xC0330201) with esw := { pairIn := [wRx 2 4 ((beBytes 4 5 ++ [0, 0, 0, 0]))] }, prm := { vin := .ack, vseq := 5 } },
    (wFrame 2 4 ((beBytes 4 5 ++ [0, 0, 0, 0])) 4), (wRx 2 4 ((beBytes 4 5 ++ [0, 0, 0, 0]))), [], ⟨⟨by decide, rfl,
    accept_wRx _ _ _ _ _ _ (by decide +kernel) rfl (by decide +kernel) (by decide +kernel), rfl⟩, by decide +kernel⟩⟩,
   ⟨{ ((wPair 3).wr (prA 0x34) 0xC0330201) with esw := { pairIn := [wRx 2 4 ((beBytes 4 5 ++ [0, 0, 0, 0]))] }, prm := { vin := .ack, vseq := 5, hand := .final } },
     (wFrame 2 4 ((beBytes 4 5 ++ [0, 0, 0, 0])) 4), (wRx 2 4 ((beBytes 4 5 ++ [0, 0, 0, 0]))), [], ⟨⟨by decide, rfl,
     accept_wRx _ _ _ _ _ _ (by decide +kernel) rfl (by decide +kernel) (by decide +kernel), rfl⟩, by decide +kernel⟩⟩,
   ⟨{ ((wPair 3).wr (prA 0x34) 0xC0330201) with esw := { pairIn := [wRx 2 4 ((beBytes 4 5 ++ [0x50, 0, 0, 0]))] }, prm := { vin := .ack, vseq := 5 } },
     (wFrame 2 4 ((beBytes 4 5 ++ [0x50, 0, 0, 0])) 4), (wRx 2 4 ((beBytes 4 5 ++ [0x50, 0, 0, 0]))), [], ⟨⟨by decide, rfl,
     accept_wRx _ _ _ _ _ _ (by decide +kernel) rfl (by decide +kernel) (by decide +kernel), rfl⟩, by decide +kernel⟩⟩⟩

/-- States and operands that meet the hypotheses of `Obligations.PairFrames`, part 6. -/
theorem meets_PairFrames_6 :
    (∃ (s : State) (f : PairFrame) (x : HostRx) (l : List HostRx), PairGets s f 4 x l ∧ PairQuiet s f.role ∧ s.prm.vin =
      .ack ∧ (beNat (slice f.payload 0 4)) = s.prm.vseq ∧ byteAt f.payload 4 ≠ 0 ∧ s.prm.hand = .final)
    ∧ (∃ (s : State) (f : PairFrame) (x : HostRx) (l : List HostRx), PairGets s f 4 x l ∧ PairQuiet s f.role ∧ (s.prm.vin ≠
      .ack ∨ (beNat (slice f.payload 0 4)) ≠ s.prm.vseq))
    ∧ (∃ (s : State) (f : PairFrame) (x : HostRx) (l : List HostRx), PairGets s f 4 x l) :=
  ⟨⟨{ ((wPair 3).wr (prA 0x34) 0xC0330201) with esw := { pairIn := [wRx 2 4 ((beBytes 4 5 ++ [0x50, 0, 0, 0]))] }, prm := { vin := .ack, vseq := 5, hand := .final } },
    (wFrame 2 4 ((beBytes 4 5 ++ [0x50, 0, 0, 0])) 4), (wRx 2 4 ((beBytes 4 5 ++ [0x50, 0, 0, 0]))), [], ⟨⟨by decide, rfl,
    accept_wRx _ _ _ _ _ _ (by decide +kernel) rfl (by decide +kernel) (by decide +kernel), rfl⟩, by decide +kernel⟩⟩,
   ⟨{ ((wPair 3).wr (prA 0x34) 0xC0330201) with esw := { pairIn := [wRx 2 4 ((beBytes 4 5 ++ [0, 0, 0, 0]))] }, prm := { vin := .ack, vseq := 6 } },
     (wFrame 2 4 ((beBytes 4 5 ++ [0, 0, 0, 0])) 4), (wRx 2 4 ((beBytes 4 5 ++ [0, 0, 0, 0]))), [], ⟨⟨by decide, rfl,
     accept_wRx _ _ _ _ _ _ (by decide +kernel) rfl (by decide +kernel) (by decide +kernel), rfl⟩, by decide +kernel⟩⟩,
   ⟨{ ((wPair 3).wr (prA 0x34) 0xC0330201) with esw := { pairIn := [wRx 2 4 ((beBytes 4 5 ++ [0x50, 0, 0, 0]))] }, prm := { vin := .ack, vseq := 5, hand := .wait } },
     (wFrame 2 4 ((beBytes 4 5 ++ [0x50, 0, 0, 0])) 4), (wRx 2 4 ((beBytes 4 5 ++ [0x50, 0, 0, 0]))), [], ⟨by decide, rfl,
     accept_wRx _ _ _ _ _ _ (by decide +kernel) rfl (by decide +kernel) (by decide +kernel), rfl⟩⟩⟩

/-- States and operands that meet the hypotheses of `Obligations.PairFrames`, part 7. -/
theorem meets_PairFrames_7 :
    (∃ (s : State) (f : PairFrame) (x : HostRx) (l : List HostRx), PairGets s f 5 x l ∧ PairQuiet s f.role ∧ s.front.role =
      3 ∧ (wd (beNat (slice f.payload 0 4))) &&& s.rd (prA 0x44) = s.rd (prA 0x44))
    ∧ (∃ (s : State) (f : PairFrame) (x : HostRx) (l : List HostRx), PairGets s f 5 x l ∧ PairQuiet s f.role ∧ s.front.role
      = 3 ∧ ¬ (wd (beNat (slice f.payload 0 4))) &&& s.rd (prA 0x44) = s.rd (prA 0x44))
    ∧ (∃ (s : State) (f : PairFrame) (x : HostRx) (l : List HostRx), PairGets s f 5 x l ∧ PairQuiet s f.role ∧ s.front.role
      ≠ 3) :=
  ⟨⟨{ (wPair 3) with esw := { pairIn := [wRx 2 5 (beBytes 4 0x4F ++ beBytes 4 0)] } }, (wFrame 2 5 (beBytes 4 0x4F ++
    beBytes 4 0) 4), (wRx 2 5 (beBytes 4 0x4F ++ beBytes 4 0)), [], ⟨⟨by decide, rfl, accept_wRx _ _ _ _ _ _
    (by decide +kernel) rfl (by decide +kernel) (by decide +kernel), rfl⟩, by decide +kernel⟩⟩,
   ⟨{ (wPair 3) with esw := { pairIn := [wRx 2 5 (beBytes 4 0x47 ++ beBytes 4 0)] }, ticks := 5 }, (wFrame 2 5 (beBytes 4
     0x47 ++ beBytes 4 0) 4), (wRx 2 5 (beBytes 4 0x47 ++ beBytes 4 0)), [], ⟨⟨by decide, rfl, accept_wRx _ _ _ _ _ _
     (by decide +kernel) rfl (by decide +kernel) (by decide +kernel), rfl⟩, by decide +kernel⟩⟩,
   ⟨{ (wPair 2) with esw := { pairIn := [wRx 2 5 (beBytes 4 0x47 ++ beBytes 4 0)] } }, (wFrame 2 5 (beBytes 4 0x47 ++
     beBytes 4 0) 4), (wRx 2 5 (beBytes 4 0x47 ++ beBytes 4 0)), [], ⟨⟨by decide, rfl, accept_wRx _ _ _ _ _ _
     (by decide +kernel) rfl (by decide +kernel) (by decide +kernel), rfl⟩, by decide +kernel⟩⟩⟩

/-- States and operands that meet the hypotheses of `Obligations.PairFrames`, part 8. -/
theorem meets_PairFrames_8 :
    (∃ (s : State) (f : PairFrame) (x : HostRx) (l : List HostRx), PairGets s f 5 x l)
    ∧ (∃ (s : State) (f : PairFrame) (x : HostRx) (l : List HostRx) (y : BrTx) (st : Status), PairGets s f 7 x l ∧ PairQuiet
      s f.role ∧ (s.bridge 3).txs = [y] ∧ y.tag = (byteAt f.payload 0).toNat ∧ y.phase = .sent ∧ y.dead = false ∧ y.posted =
      false ∧ (∀ h, y.acc.who ≠ .hart h) ∧ st.code = (byteAt f.payload 1).toNat ∧ y.op = .read)
    ∧ (∃ (s : State) (f : PairFrame) (x : HostRx) (l : List HostRx) (y : BrTx) (st : Status), PairGets s f 7 x l ∧ PairQuiet
      s f.role ∧ (s.bridge 3).txs = [y] ∧ y.tag = (byteAt f.payload 0).toNat ∧ y.phase = .sent ∧ y.dead = false ∧ y.posted =
      false ∧ (∀ h, y.acc.who ≠ .hart h) ∧ st.code = (byteAt f.payload 1).toNat ∧ y.op = .write) :=
  ⟨⟨{ (wPair 3) with esw := { pairIn := [wRx 2 5 (beBytes 4 0x47 ++ beBytes 4 0)] }, ticks := 5, prm := { out := [[1, 2]] } },
    (wFrame 2 5 (beBytes 4 0x47 ++ beBytes 4 0) 4), (wRx 2 5 (beBytes 4 0x47 ++ beBytes 4 0)), [], ⟨by decide, rfl,
    accept_wRx _ _ _ _ _ _ (by decide +kernel) rfl (by decide +kernel) (by decide +kernel), rfl⟩⟩,
   ⟨{ ({ wPair 2 with brg := [(3, { pairUp := true, txs := [{ tag := 9, acc := mgr, tid := 0, w := true, off := 0x20008, bytes := 4, op := .read, win := 1, placed := true, phase := .sent }] })] }) with esw := { pairIn := [wRx 2 7 ([9, 0, 0, 0] ++ beBytes 8 0x1122334455667788)] } },
     (wFrame 2 7 ([9, 0, 0, 0] ++ beBytes 8 0x1122334455667788) 4), (wRx 2 7 ([9, 0, 0, 0] ++ beBytes 8
     0x1122334455667788)), [],
     ({ tag := 9, acc := mgr, tid := 0, w := true, off := 0x20008, bytes := 4, op := .read, win := 1, placed := true, phase := .sent }),
     .done, ⟨⟨by decide, rfl, accept_wRx _ _ _ _ _ _ (by decide +kernel) rfl (by decide +kernel) (by decide +kernel), rfl⟩,
     by decide +kernel⟩⟩,
   ⟨{ ({ wPair 2 with brg := [(3, { pairUp := true, txs := [{ tag := 9, acc := mgr, tid := 0, w := true, off := 0x20008, bytes := 4, op := .write, win := 1, placed := true, phase := .sent }] })] }) with esw := { pairIn := [wRx 2 7 ([9, 0, 0, 0] ++ beBytes 8 0x1122334455667788)] } },
     (wFrame 2 7 ([9, 0, 0, 0] ++ beBytes 8 0x1122334455667788) 4), (wRx 2 7 ([9, 0, 0, 0] ++ beBytes 8
     0x1122334455667788)), [],
     ({ tag := 9, acc := mgr, tid := 0, w := true, off := 0x20008, bytes := 4, op := .write, win := 1, placed := true, phase := .sent }),
     .done, ⟨⟨by decide, rfl, accept_wRx _ _ _ _ _ _ (by decide +kernel) rfl (by decide +kernel) (by decide +kernel), rfl⟩,
     by decide +kernel⟩⟩⟩

/-- States and operands that meet the hypotheses of `Obligations.PairFrames`, part 9. -/
theorem meets_PairFrames_9 :
    (∃ (s : State) (f : PairFrame) (x : HostRx) (l : List HostRx) (y : BrTx), PairGets s f 7 x l ∧ PairQuiet s f.role ∧
      (s.bridge 3).txs = [y] ∧ y.tag = (byteAt f.payload 0).toNat ∧ y.phase = .sent ∧ y.dead = false ∧ y.posted = true ∧
      (byteAt f.payload 1).toNat = 0)
    ∧ (∃ (s : State) (f : PairFrame) (x : HostRx) (l : List HostRx), PairGets s f 7 x l ∧ PairQuiet s f.role ∧ (∀ z ∈
      (s.bridge 3).txs, z.tag ≠ (byteAt f.payload 0).toNat))
    ∧ (∃ (s : State) (f : PairFrame) (x : HostRx) (l : List HostRx) (y : BrTx) (st : Status), PairGets s f 7 x l ∧ (s.bridge
      3).txs.find? (fun z => z.tag == (byteAt f.payload 0).toNat && z.out) = some y ∧ st.code = (byteAt f.payload 1).toNat ∧
      (y.op ≠ .line ∨ 16 ≤ List.length (if st = .done then y.words ++ [some (wd (beNat (slice f.payload 4 8))), some (wd
      ((beNat (slice f.payload 4 8)) >>> 32))] else y.words ++ List.replicate (16 - y.words.length) none))) :=
  ⟨⟨{ ({ wPair 2 with brg := [(3, { pairUp := true, txs := [{ tag := 9, acc := mgr, tid := 0, w := true, off := 0x20008, bytes := 4, op := .write, win := 1, placed := true, phase := .sent, posted := true }] })] }) with esw := { pairIn := [wRx 2 7 ([9, 0, 0, 0] ++ beBytes 8 0x1122334455667788)] } },
    (wFrame 2 7 ([9, 0, 0, 0] ++ beBytes 8 0x1122334455667788) 4), (wRx 2 7 ([9, 0, 0, 0] ++ beBytes 8 0x1122334455667788)),
    [],
    ({ tag := 9, acc := mgr, tid := 0, w := true, off := 0x20008, bytes := 4, op := .write, win := 1, placed := true, phase := .sent, posted := true }),
    ⟨⟨by decide, rfl, accept_wRx _ _ _ _ _ _ (by decide +kernel) rfl (by decide +kernel) (by decide +kernel), rfl⟩,
    by decide +kernel⟩⟩,
   ⟨{ ({ wPair 2 with brg := [(3, { pairUp := true, txs := [{ tag := 8, acc := mgr, tid := 0, w := true, off := 0x20008, bytes := 4, op := .read, win := 1, placed := true, phase := .sent }] })] }) with esw := { pairIn := [wRx 2 7 ([9, 0, 0, 0] ++ beBytes 8 0x1122334455667788)] } },
     (wFrame 2 7 ([9, 0, 0, 0] ++ beBytes 8 0x1122334455667788) 4), (wRx 2 7 ([9, 0, 0, 0] ++ beBytes 8
     0x1122334455667788)), [], ⟨⟨by decide, rfl, accept_wRx _ _ _ _ _ _ (by decide +kernel) rfl (by decide +kernel)
     (by decide +kernel), rfl⟩, by decide +kernel⟩⟩,
   ⟨{ ({ wPair 2 with brg := [(3, { pairUp := true, txs := [{ tag := 9, acc := mgr, tid := 0, w := true, off := 0x20008, bytes := 4, op := .read, win := 1, placed := true, phase := .sent }, { tag := 8, acc := mgr, tid := 0, w := true, off := 0x20008, bytes := 4, op := .read, win := 1, placed := true, phase := .sent }, { tag := 7, acc := mgr, tid := 0, w := true, off := 0x20008, bytes := 4, op := .read, win := 1, placed := false, phase := .queued }] })] }) with esw := { pairIn := [wRx 2 7 ([9, 0, 0, 0] ++ beBytes 8 0x1122334455667788)] } },
     (wFrame 2 7 ([9, 0, 0, 0] ++ beBytes 8 0x1122334455667788) 4), (wRx 2 7 ([9, 0, 0, 0] ++ beBytes 8
     0x1122334455667788)), [],
     ({ tag := 9, acc := mgr, tid := 0, w := true, off := 0x20008, bytes := 4, op := .read, win := 1, placed := true, phase := .sent }),
     .done, ⟨⟨by decide, rfl, accept_wRx _ _ _ _ _ _ (by decide +kernel) rfl (by decide +kernel) (by decide +kernel), rfl⟩,
     by decide +kernel⟩⟩⟩

/-- States and operands that meet the hypotheses of `Obligations.PairFrames`, part 10. -/
theorem meets_PairFrames_10 :
    (∃ (s : State) (f : PairFrame) (x : HostRx) (l : List HostRx) (y : BrTx) (st : Status), PairGets s f 7 x l ∧ (s.bridge
      3).txs.find? (fun z => z.tag == (byteAt f.payload 0).toNat && z.out) = some y ∧ st.code = (byteAt f.payload 1).toNat ∧
      y.op = .line ∧ List.length (if st = .done then y.words ++ [some (wd (beNat (slice f.payload 4 8))), some (wd ((beNat
      (slice f.payload 4 8)) >>> 32))] else y.words ++ List.replicate (16 - y.words.length) none) < 16)
    ∧ (∃ (s : State) (f : PairFrame) (x : HostRx) (l : List HostRx) (key : List Byte) (n : Nat), PairGets s f 6 x l ∧
      PairQuiet s f.role ∧ s.brReqWaits = false ∧ s.mustWait (waitPlace (beNat (slice f.payload 4 8))) = false ∧ s.pairKey =
      some key ∧ s.importOf (beNat (slice f.payload 4 8)) (byteAt f.payload 2).toNat = some n ∧ (byteAt f.payload 1).toNat =
      1 ∧ (byteAt f.payload 2).toNat ≤ 8 ∧ 0x10000000 ≤ (beNat (slice f.payload 4 8)) ∧ (beNat (slice f.payload 4 8)) +
      (byteAt f.payload 2).toNat ≤ 0x12000000 ∧ s.mayRead ⟨BitVec.ofNat 8 (fld (s.rd (prA (0x104 + n * 8))) 23 16), bit
      (s.rd (prA (0x104 + n * 8))) 24⟩ (beNat (slice f.payload 4 8)) (byteAt f.payload 2).toNat = true ∧ s.anyBad (beNat
      (slice f.payload 4 8)) (byteAt f.payload 2).toNat = false)
    ∧ (∃ (s : State) (f : PairFrame) (x : HostRx) (l : List HostRx) (key : List Byte) (n : Nat), PairGets s f 6 x l ∧
      PairQuiet s f.role ∧ s.brReqWaits = false ∧ s.mustWait (waitPlace (beNat (slice f.payload 4 8))) = false ∧ s.pairKey =
      some key ∧ s.importOf (beNat (slice f.payload 4 8)) (byteAt f.payload 2).toNat = some n ∧ (byteAt f.payload 1).toNat ≠
      1 ∧ bit (s.rd (prA (0x104 + n * 8))) 30 = false ∧ 0x10000000 ≤ (beNat (slice f.payload 4 8)) ∧ (beNat (slice f.payload
      4 8)) + (byteAt f.payload 2).toNat ≤ 0x12000000 ∧ s.mayWrite ⟨BitVec.ofNat 8 (fld (s.rd (prA (0x104 + n * 8))) 23 16),
      bit (s.rd (prA (0x104 + n * 8))) 24⟩ (beNat (slice f.payload 4 8)) (byteAt f.payload 2).toNat = true) :=
  ⟨⟨{ ({ wPair 2 with brg := [(3, { pairUp := true, txs := [{ tag := 9, acc := mgr, tid := 0, w := true, off := 0x20008, bytes := 4, op := .line, win := 1, placed := true, phase := .sent }, { tag := 8, acc := mgr, tid := 0, w := true, off := 0x20008, bytes := 4, op := .read, win := 1, placed := true, phase := .sent }] })] }) with esw := { pairIn := [wRx 2 7 ([9, 0, 0, 0] ++ beBytes 8 0x1122334455667788)] } },
    (wFrame 2 7 ([9, 0, 0, 0] ++ beBytes 8 0x1122334455667788) 4), (wRx 2 7 ([9, 0, 0, 0] ++ beBytes 8 0x1122334455667788)),
    [],
    ({ tag := 9, acc := mgr, tid := 0, w := true, off := 0x20008, bytes := 4, op := .line, win := 1, placed := true, phase := .sent }),
    .done, ⟨⟨by decide, rfl, accept_wRx _ _ _ _ _ _ (by decide +kernel) rfl (by decide +kernel) (by decide +kernel), rfl⟩,
    by decide +kernel⟩⟩,
   ⟨{ ((((wPair 2).wr (prA 0x108) 0x1000).wr (prA 0x10C) 0x81000001).stLE 0x10000108 8 0x1122334455667788) with esw := { pairIn := [wRx 3 6 ([4, 1, 4, 0] ++ beBytes 8 0x10000108 ++ beBytes 8 0x55)] } },
     (wFrame 3 6 ([4, 1, 4, 0] ++ beBytes 8 0x10000108 ++ beBytes 8 0x55) 4), (wRx 3 6 ([4, 1, 4, 0] ++ beBytes 8 0x10000108
     ++ beBytes 8 0x55)), [], (List.replicate 32 7), 1, ⟨⟨by decide, rfl, accept_wRx _ _ _ _ _ _ (by decide +kernel) rfl
     (by decide +kernel) (by decide +kernel), rfl⟩, by decide +kernel⟩⟩,
   ⟨{ ((((wPair 2).wr (prA 0x108) 0x1000).wr (prA 0x10C) 0x81000001).stLE 0x10000108 8 0x1122334455667788) with esw := { pairIn := [wRx 3 6 ([4, 2, 8, 0] ++ beBytes 8 0x10000108 ++ beBytes 8 0x55)] } },
     (wFrame 3 6 ([4, 2, 8, 0] ++ beBytes 8 0x10000108 ++ beBytes 8 0x55) 4), (wRx 3 6 ([4, 2, 8, 0] ++ beBytes 8 0x10000108
     ++ beBytes 8 0x55)), [], (List.replicate 32 7), 1, ⟨⟨by decide, rfl, accept_wRx _ _ _ _ _ _ (by decide +kernel) rfl
     (by decide +kernel) (by decide +kernel), rfl⟩, by decide +kernel⟩⟩⟩

/-- States and operands that meet the hypotheses of `Obligations.PairFrames`, part 11. -/
theorem meets_PairFrames_11 :
    (∃ (s : State) (f : PairFrame) (x : HostRx) (l : List HostRx) (key : List Byte) (n : Nat), PairGets s f 6 x l ∧
      PairQuiet s f.role ∧ s.brReqWaits = false ∧ s.mustWait (waitPlace (beNat (slice f.payload 4 8))) = false ∧ s.pairKey =
      some key ∧ s.importOf (beNat (slice f.payload 4 8)) (byteAt f.payload 2).toNat = some n ∧ (byteAt f.payload 1).toNat ≠
      1 ∧ bit (s.rd (prA (0x104 + n * 8))) 30 = true)
    ∧ (∃ (s : State) (f : PairFrame) (x : HostRx) (l : List HostRx) (key : List Byte), PairGets s f 6 x l ∧ PairQuiet s
      f.role ∧ s.brReqWaits = false ∧ s.mustWait (waitPlace (beNat (slice f.payload 4 8))) = false ∧ s.pairKey = some key ∧
      s.importOf (beNat (slice f.payload 4 8)) (byteAt f.payload 2).toNat = none)
    ∧ (∃ (s : State) (f : PairFrame) (x : HostRx) (l : List HostRx) (b : Bool), PairGets s f 6 x l ∧ s.brReqWaits = false ∧
      (s.importAcc f.ask b).1 = .done ∧ s.mustWait (waitPlace (beNat (slice f.payload 4 8))) = true) :=
  ⟨⟨{ (((((wPair 2).wr (prA 0x108) 0x1000).wr (prA 0x10C) 0x81000001).stLE 0x10000108 8 0x1122334455667788).wr (prA 0x10C) 0xC1000001) with esw := { pairIn := [wRx 3 6 ([4, 2, 8, 0] ++ beBytes 8 0x10000108 ++ beBytes 8 0x55)] } },
    (wFrame 3 6 ([4, 2, 8, 0] ++ beBytes 8 0x10000108 ++ beBytes 8 0x55) 4), (wRx 3 6 ([4, 2, 8, 0] ++ beBytes 8 0x10000108
    ++ beBytes 8 0x55)), [], (List.replicate 32 7), 1, ⟨⟨by decide, rfl, accept_wRx _ _ _ _ _ _ (by decide +kernel) rfl
    (by decide +kernel) (by decide +kernel), rfl⟩, by decide +kernel⟩⟩,
   ⟨{ (wPair 2) with esw := { pairIn := [wRx 3 6 ([4, 2, 8, 0] ++ beBytes 8 0x10000108 ++ beBytes 8 0x55)] } }, (wFrame 3 6
     ([4, 2, 8, 0] ++ beBytes 8 0x10000108 ++ beBytes 8 0x55) 4), (wRx 3 6 ([4, 2, 8, 0] ++ beBytes 8 0x10000108 ++ beBytes
     8 0x55)), [], (List.replicate 32 7), ⟨⟨by decide, rfl, accept_wRx _ _ _ _ _ _ (by decide +kernel) rfl
     (by decide +kernel) (by decide +kernel), rfl⟩, by decide +kernel⟩⟩,
   ⟨{ { ((((wPair 2).wr (prA 0x108) 0x1000).wr (prA 0x10C) 0x81000001).stLE 0x10000108 8 0x1122334455667788) with isl := [(2, .stopped)] } with esw := { pairIn := [wRx 3 6 ([4, 2, 8, 0] ++ beBytes 8 0x10000108 ++ beBytes 8 0x55)] } },
     (wFrame 3 6 ([4, 2, 8, 0] ++ beBytes 8 0x10000108 ++ beBytes 8 0x55) 4), (wRx 3 6 ([4, 2, 8, 0] ++ beBytes 8 0x10000108
     ++ beBytes 8 0x55)), [], false, ⟨⟨by decide, rfl, accept_wRx _ _ _ _ _ _ (by decide +kernel) rfl (by decide +kernel)
     (by decide +kernel), rfl⟩, by decide +kernel⟩⟩⟩

/-- States and operands that meet the hypotheses of `Obligations.PairFrames`, part 12. -/
theorem meets_PairFrames_12 :
    (∃ (s : State) (f : PairFrame) (x : HostRx) (l : List HostRx), PairGets s f 6 x l ∧ s.brReqWaits = true)
    ∧ (∃ (s : State) (f : PairFrame) (x : HostRx) (l : List HostRx) (b : Bool), PairGets s f 6 x l ∧ s.brReqWaits = false ∧
      ((s.importAcc f.ask b).1 ≠ .done ∨ s.mustWait (waitPlace (beNat (slice f.payload 4 8))) = false))
    ∧ (∃ (s : State) (x : HostRx) (l : List HostRx), s.logicOn = true ∧ s.esw.pairIn = x :: l ∧ s.pairAccept x.bytes = none
      ∧ (s.prm.badSaid = 0 ∨ 500000000 ≤ s.ticks + 1 - s.prm.badSaid)) :=
  ⟨⟨{ ((((wPair 2).wr (prA 0x108) 0x1000).wr (prA 0x10C) 0x81000001).stLE 0x10000108 8 0x1122334455667788) with esw := { pairIn := [wRx 3 6 ([4, 2, 8, 0] ++ beBytes 8 0x10000108 ++ beBytes 8 0x55)] }, boundary := [⟨2, .pairBrReq false, .partner 0 true, none⟩] },
    (wFrame 3 6 ([4, 2, 8, 0] ++ beBytes 8 0x10000108 ++ beBytes 8 0x55) 4), (wRx 3 6 ([4, 2, 8, 0] ++ beBytes 8 0x10000108
    ++ beBytes 8 0x55)), [], ⟨⟨by decide, rfl, accept_wRx _ _ _ _ _ _ (by decide +kernel) rfl (by decide +kernel)
    (by decide +kernel), rfl⟩, by decide +kernel⟩⟩,
   ⟨{ ((((wPair 2).wr (prA 0x108) 0x1000).wr (prA 0x10C) 0x81000001).stLE 0x10000108 8 0x1122334455667788) with esw := { pairIn := [wRx 3 6 ([4, 2, 8, 0] ++ beBytes 8 0x10000108 ++ beBytes 8 0x55)] }, prm := { out := [[1, 2]] } },
     (wFrame 3 6 ([4, 2, 8, 0] ++ beBytes 8 0x10000108 ++ beBytes 8 0x55) 4), (wRx 3 6 ([4, 2, 8, 0] ++ beBytes 8 0x10000108
     ++ beBytes 8 0x55)), [], false, ⟨⟨by decide, rfl, accept_wRx _ _ _ _ _ _ (by decide +kernel) rfl (by decide +kernel)
     (by decide +kernel), rfl⟩, by decide +kernel⟩⟩,
   ⟨{ ((wPair 2).wr (prA 8) 0xFF020000) with esw := { pairIn := [⟨[1, 2, 3], 0, 0, 14⟩] }, prm := { last := some (7, 5), badSaid := 1 }, ticks := 500000000 },
     (⟨[1, 2, 3], 0, 0, 14⟩), [], by decide⟩⟩

/-- States and operands that meet the hypotheses of `Obligations.PairFrames`, part 13. -/
theorem meets_PairFrames_13 :
    (∃ (s : State) (x : HostRx) (l : List HostRx), s.logicOn = true ∧ s.esw.pairIn = x :: l ∧ s.pairAccept x.bytes = none ∧
      s.prm.badSaid ≠ 0 ∧ s.ticks + 1 - s.prm.badSaid < 500000000)
    ∧ (∃ (s : State) (f : PairFrame) (x : HostRx) (l : List HostRx), s.logicOn = true ∧ s.esw.pairIn = x :: l ∧ s.pairAccept
      x.bytes = some f)
    ∧ (∃ (s : State), (s.esw.pairIn = [] ∨ s.logicOn = false)) :=
  ⟨⟨{ (wPair 2) with esw := { pairIn := [⟨[1, 2, 3], 0, 0, 14⟩] }, prm := { badSaid := 1 }, ticks := 499999999 }, (⟨[1, 2,
    3], 0, 0, 14⟩), [], by decide⟩,
   ⟨{ (wPair 2) with esw := { pairIn := [wRx 3 1 (leBytes 8 0)] } }, (wFrame 3 1 (leBytes 8 0) 4), (wRx 3 1 (leBytes 8 0)),
     [], ⟨by decide, rfl, accept_wRx _ _ _ _ _ _ (by decide) rfl (by decide) (by decide)⟩⟩,
   ⟨(wPair 2), by decide⟩⟩

/-- States and operands that meet the hypotheses of `Obligations.PairFrames`, part 14. -/
theorem meets_PairFrames_14 :
    (∃ (s : State) (f : PairFrame) (x : HostRx) (l : List HostRx), s.esw.pairIn = x :: l ∧ (s.pairAccept x.bytes = none ∨
      s.pairAccept x.bytes = some f ∧ f.typ ≠ 1))
    ∧ (∃ (s : State) (f : PairFrame) (x : HostRx) (l : List HostRx), s.esw.pairIn = x :: l ∧ (s.pairAccept x.bytes = none ∨
      s.pairAccept x.bytes = some f ∧ f.typ ≠ 2))
    ∧ (∃ (s : State) (f : PairFrame) (x : HostRx) (l : List HostRx), s.esw.pairIn = x :: l ∧ (s.pairAccept x.bytes = none ∨
      s.pairAccept x.bytes = some f ∧ f.typ ≠ 3)) :=
  ⟨⟨{ (wPair 2) with esw := { pairIn := [⟨[1, 2, 3], 0, 0, 14⟩] } }, (wFrame 3 5 (leBytes 8 0) 4), (⟨[1, 2, 3], 0, 0, 14⟩),
    [], by decide⟩,
   ⟨{ (wPair 2) with esw := { pairIn := [⟨[1, 2, 3], 0, 0, 14⟩] } }, (wFrame 3 1 (leBytes 8 0) 4), (⟨[1, 2, 3], 0, 0, 14⟩),
     [], by decide⟩,
   ⟨{ (wPair 2) with esw := { pairIn := [⟨[1, 2, 3], 0, 0, 14⟩] } }, (wFrame 3 1 (leBytes 8 0) 4), (⟨[1, 2, 3], 0, 0, 14⟩),
     [], by decide⟩⟩

/-- States and operands that meet the hypotheses of `Obligations.PairFrames`, part 15. -/
theorem meets_PairFrames_15 :
    (∃ (s : State) (f : PairFrame) (x : HostRx) (l : List HostRx), s.esw.pairIn = x :: l ∧ (s.pairAccept x.bytes = none ∨
      s.pairAccept x.bytes = some f ∧ f.typ ≠ 4))
    ∧ (∃ (s : State) (f : PairFrame) (x : HostRx) (l : List HostRx), s.esw.pairIn = x :: l ∧ (s.pairAccept x.bytes = none ∨
      s.pairAccept x.bytes = some f ∧ f.typ ≠ 5))
    ∧ (∃ (s : State) (f : PairFrame) (x : HostRx) (l : List HostRx), s.esw.pairIn = x :: l ∧ (s.pairAccept x.bytes = none ∨
      s.pairAccept x.bytes = some f ∧ f.typ ≠ 6)) :=
  ⟨⟨{ (wPair 2) with esw := { pairIn := [⟨[1, 2, 3], 0, 0, 14⟩] } }, (wFrame 3 1 (leBytes 8 0) 4), (⟨[1, 2, 3], 0, 0, 14⟩),
    [], by decide⟩,
   ⟨{ (wPair 2) with esw := { pairIn := [⟨[1, 2, 3], 0, 0, 14⟩] } }, (wFrame 3 1 (leBytes 8 0) 4), (⟨[1, 2, 3], 0, 0, 14⟩),
     [], by decide⟩,
   ⟨{ (wPair 2) with esw := { pairIn := [⟨[1, 2, 3], 0, 0, 14⟩] } }, (wFrame 3 1 (leBytes 8 0) 4), (⟨[1, 2, 3], 0, 0, 14⟩),
     [], by decide⟩⟩

/-- States and operands that meet the hypotheses of `Obligations.PairFrames`, part 16. -/
theorem meets_PairFrames_16 :
    (∃ (s : State) (f : PairFrame) (x : HostRx) (l : List HostRx), s.esw.pairIn = x :: l ∧ (s.pairAccept x.bytes = none ∨
      s.pairAccept x.bytes = some f ∧ f.typ ≠ 7)) :=
  ⟨{ (wPair 2) with esw := { pairIn := [⟨[1, 2, 3], 0, 0, 14⟩] } }, (wFrame 3 1 (leBytes 8 0) 4), (⟨[1, 2, 3], 0, 0, 14⟩),
    [], by decide⟩

/-- States and operands that meet the hypotheses of `Obligations.FaultCollector`, part 1. -/
theorem meets_FaultCollector_1 :
    (∃ (s : State) (n : Nat) (r : Report), s.logicOn = true ∧ s.reports[n]? = some r ∧ OwnRecord s r ((defSev r.id).getD 0)
      ∧ s.fcWr < s.fcRd + 256 ∧ ((defSev r.id).getD 0) ≤ 1)
    ∧ (∃ (s : State) (n : Nat) (r : Report), s.logicOn = true ∧ s.reports[n]? = some r ∧ OwnRecord s r ((defSev r.id).getD
      0) ∧ s.fcRd + 256 ≤ s.fcWr ∧ ((defSev r.id).getD 0) ≤ 1)
    ∧ (∃ (s : State) (n : Nat) (r : Report), s.logicOn = true ∧ s.reports[n]? = some r ∧ (∀ i ∈ List.range 32, s.rb (escA i
      0) 31 = false ∨ s.rf (escA i 0) 15 0 ≠ r.id) ∧ s.mergesWith (reportWord0 r ((defSev r.id).getD 0) ((defSev r.id).getD
      0)) (reportWord6 r) r = true ∧ ((defSev r.id).getD 0) ≤ 1)
    ∧ (∃ (s : State) (n : Nat) (r : Report), s.logicOn = true ∧ s.reports[n]? = some r)
    ∧ (∃ (s : State) (n : Nat) (r : Report) (g : Nat), s.logicOn = true ∧ s.reports[n]? = some r ∧ g < 32 ∧ s.rb (escA g 0)
      31 = true ∧ s.rf (escA g 0) 15 0 = r.id ∧ (∀ i ∈ List.range 32, i = g ∨ s.rb (escA i 0) 31 = false ∨ s.rf (escA i 0)
      15 0 ≠ r.id) ∧ s.mergesWith (reportWord0 r ((defSev r.id).getD 0) ((defSev r.id).getD 0)) (reportWord6 r) r = false ∧
      s.fcWr < s.fcRd + 256 ∧ ((defSev r.id).getD 0) ≤ 1 ∧ (if s.escOver g then 1 else (s.esc g).count + 1) < s.rf (escA g
      1) 31 24)
    ∧ (∃ (s : State) (n : Nat) (r : Report) (g : Nat), s.logicOn = true ∧ s.reports[n]? = some r ∧ g < 32 ∧ s.rb (escA g 0)
      31 = true ∧ s.rf (escA g 0) 15 0 = r.id ∧ (∀ i ∈ List.range 32, i = g ∨ s.rb (escA i 0) 31 = false ∨ s.rf (escA i 0)
      15 0 ≠ r.id) ∧ s.mergesWith (reportWord0 r 1 ((defSev r.id).getD 0)) (reportWord6 r) r = false ∧ s.fcWr < s.fcRd + 256
      ∧ s.rf (escA g 0) 29 28 = 1 ∧ ((defSev r.id).getD 0) = 0 ∧ s.rf (escA g 1) 31 24 ≤ (if s.escOver g then 1 else (s.esc
      g).count + 1))
    ∧ (∃ (s : State) (n : Nat) (r : Report) (g : Nat), s.logicOn = true ∧ s.reports[n]? = some r ∧ g < 32 ∧ s.rb (escA g 0)
      31 = true ∧ s.rf (escA g 0) 15 0 = r.id ∧ (∀ i ∈ List.range 32, i = g ∨ s.rb (escA i 0) 31 = false ∨ s.rf (escA i 0)
      15 0 ≠ r.id) ∧ s.mergesWith (reportWord0 r 2 ((defSev r.id).getD 0)) (reportWord6 r) r = false ∧ s.fcWr < s.fcRd + 256
      ∧ s.rf (fcA 0xC) 2 0 = 0 ∧ s.rf (escA g 0) 29 28 = 2 ∧ ((defSev r.id).getD 0) ≤ 1 ∧ s.rf (escA g 1) 31 24 ≤ (if
      s.escOver g then 1 else (s.esc g).count + 1))
    ∧ (∃ (s : State) (n : Nat) (r : Report), s.logicOn = true ∧ s.reports[n]? = some r ∧ OwnRecord s r 2 ∧ s.fcWr < s.fcRd +
      256 ∧ ((defSev r.id).getD 0) = 2 ∧ s.rf (fcA 0xC) 2 0 = 0)
    ∧ (∃ (s : State) (n : Nat) (r : Report), s.logicOn = true ∧ s.reports[n]? = some r ∧ OwnRecord s r 2 ∧ s.fcWr < s.fcRd +
      256 ∧ ((defSev r.id).getD 0) = 2 ∧ s.rf (fcA 0xC) 1 0 = 0 ∧ s.rb (fcA 0xC) 2 = true ∧ 2 ≤ s.front.role)
    ∧ (∃ (s : State) (n : Nat) (r : Report) (g : Nat), s.logicOn = true ∧ s.reports[n]? = some r ∧ OwnRecord s r 2 ∧ s.fcWr
      < s.fcRd + 256 ∧ ((defSev r.id).getD 0) = 2 ∧ g < 2 ∧ s.rf (fcA 0xC) 2 0 = 2 ^ g ∧ (s.die g).supplied = true ∧ s.limp
      g = false ∧ (s.link g).up = true) :=
  ⟨⟨{ wOn with reports := [{ id := 1, ctx0 := 7, time := 5 }, { id := 0x4080, ctx0 := 7, time := 5 }, { id := 2, ctx0 := 7, time := 5 }] },
    1, ({ id := 0x4080, ctx0 := 7, time := 5 }), by decide⟩,
   ⟨{ ((wOn.wr (fcA 0x10) 0x1FF).wr (fcA 0x14) 0xFF) with reports := [{ id := 1, ctx0 := 7, time := 5 }, { id := 0x4080, ctx0 := 7, time := 5 }, { id := 2, ctx0 := 7, time := 5 }] },
     1, ({ id := 0x4080, ctx0 := 7, time := 5 }), by decide⟩,
   ⟨{ (((((wOn.wr (fcA 0x10) 4).wr (fcA 0x14) 3).wr (ringA 3 0) (reportWord0 ({ id := 0x4080, ctx0 := 7, time := 5 }) 0 0)).wr (ringA 3 4) 7).wr (ringA 3 6) 0x0) with reports := [{ id := 1, ctx0 := 7, time := 5 }, { id := 0x4080, ctx0 := 7, time := 5 }, { id := 2, ctx0 := 7, time := 5 }] },
     1, ({ id := 0x4080, ctx0 := 7, time := 5 }), by decide⟩,
   ⟨{ (((wPair 3).wr fcBase 0).wr (fcA 0xC) 7) with reports := [{ id := 1, ctx0 := 7, time := 5 }, { id := 0x2005, ctx0 := 7, time := 5 }, { id := 2, ctx0 := 7, time := 5 }] },
     1, ({ id := 0x2005, ctx0 := 7, time := 5 }), by decide⟩,
   ⟨{ ((wOn.wr (escA 3 0) 0xA0008004).wr (escA 3 1) 0x03002710) with reports := [{ id := 1, ctx0 := 7, time := 5 }, { id := 0x8004, ctx0 := 7, time := 5 }, { id := 2, ctx0 := 7, time := 5 }], fc := { esc := [(3, { count := 1 })] } },
     1, ({ id := 0x8004, ctx0 := 7, time := 5 }), 3, by decide⟩,
   ⟨{ ((wOn.wr (escA 3 0) 0x90004080).wr (escA 3 1) 0x03002710) with reports := [{ id := 1, ctx0 := 7, time := 5 }, { id := 0x4080, ctx0 := 7, time := 5 }, { id := 2, ctx0 := 7, time := 5 }], fc := { esc := [(3, { count := 2 })] } },
     1, ({ id := 0x4080, ctx0 := 7, time := 5 }), 3, by decide⟩,
   ⟨{ ((((wOn.wr (escA 3 0) 0xA0008004).wr (escA 3 1) 0x03002710).wr fcBase 0).wr (fcA 0xC) 0) with reports := [{ id := 1, ctx0 := 7, time := 5 }, { id := 0x8004, ctx0 := 7, time := 5 }, { id := 2, ctx0 := 7, time := 5 }], fc := { esc := [(3, { count := 2 })] } },
     1, ({ id := 0x8004, ctx0 := 7, time := 5 }), 3, by decide⟩,
   ⟨{ ((wOn.wr fcBase 0).wr (fcA 0xC) 0) with reports := [{ id := 1, ctx0 := 7, time := 5 }, { id := 0x2005, ctx0 := 7, time := 5 }, { id := 2, ctx0 := 7, time := 5 }] },
     1, ({ id := 0x2005, ctx0 := 7, time := 5 }), by decide⟩,
   ⟨{ (((wPair 3).wr fcBase 0).wr (fcA 0xC) 4) with reports := [{ id := 1, ctx0 := 7, time := 5 }, { id := 0x2005, ctx0 := 7, time := 5 }, { id := 2, ctx0 := 7, time := 5 }] },
     1, ({ id := 0x2005, ctx0 := 7, time := 5 }), by decide⟩,
   ⟨{ (((wCh 2 0).wr fcBase 0).wr (fcA 0xC) 1) with reports := [{ id := 1, ctx0 := 7, time := 5 }, { id := 0x2005, ctx0 := 7, time := 5 }, { id := 2, ctx0 := 7, time := 5 }] },
     1, ({ id := 0x2005, ctx0 := 7, time := 5 }), 0, by decide⟩⟩

/-- States and operands that meet the hypotheses of `Obligations.FaultCollector`, part 2. -/
theorem meets_FaultCollector_2 :
    (∃ (s : State) (n : Nat) (r : Report), s.logicOn = true ∧ s.reports[n]? = some r ∧ OwnRecord s r 3 ∧ s.fcWr < s.fcRd +
      256 ∧ ((defSev r.id).getD 0) = 3 ∧ (∀ w ∈ s.fc.logWrites, w.lseq ≠ nextLseq s 3) ∧ r.id ≠ 0x3004 ∧ s.boot.rstCnt <
      s.rf (fcA 4) 19 16)
    ∧ (∃ (s : State) (n : Nat) (r : Report), s.logicOn = true ∧ s.reports[n]? = some r ∧ OwnRecord s r 3 ∧ s.fcWr < s.fcRd +
      256 ∧ ((defSev r.id).getD 0) = 3 ∧ r.id ≠ 0x3004 ∧ s.rf (fcA 4) 19 16 ≤ s.boot.rstCnt ∧ s.rf (fcA 0xC) 2 0 = 0)
    ∧ (∃ (s : State) (n : Nat) (r : Report), s.logicOn = true ∧ s.reports[n]? = some r ∧ OwnRecord s r 3 ∧ s.fcWr < s.fcRd +
      256 ∧ ((defSev r.id).getD 0) = 3 ∧ (∀ w ∈ s.fc.logWrites, w.lseq ≠ nextLseq s 3) ∧ r.id = 0x3004 ∧ s.rwd.expired =
      true)
    ∧ (∃ (s : State) (n : Nat) (r : Report), s.logicOn = true ∧ s.reports[n]? = some r ∧ OwnRecord s r 3 ∧ s.fcWr < s.fcRd +
      256 ∧ ((defSev r.id).getD 0) = 3 ∧ r.id = 0x3004 ∧ s.rwd.expired = false)
    ∧ (∃ (s : State) (n : Nat), (s.logicOn = false ∨ s.reports[n]? = none))
    ∧ (∃ (s : State) (y : LogWrite) (l : List LogWrite), s.fc.logWrites = y :: l ∧ y.reset = none)
    ∧ (∃ (s : State) (y : LogWrite) (l : List LogWrite), s.fc.logWrites = y :: l ∧ y.reset = none ∧ s.fcWr ≤ y.seq + 256)
    ∧ (∃ (s : State) (y : LogWrite) (l : List LogWrite), s.fc.logWrites = y :: l ∧ y.reset = none ∧ y.seq + 256 < s.fcWr)
    ∧ (∃ (s : State) (y : LogWrite) (l : List LogWrite) (g : Nat), s.fc.logWrites = y :: l ∧ y.reset = some g ∧ (g = 3 ∨ g =
      4) ∧ y.record.length = 32)
    ∧ (∃ (s : State) (y : LogWrite) (l : List LogWrite) (g : Nat), s.fc.logWrites = y :: l ∧ y.reset = some g ∧ (g = 3 ∨ g =
      4)) :=
  ⟨⟨{ wOn with reports := [{ id := 1, ctx0 := 7, time := 5 }, { id := 0x0007, ctx0 := 7, time := 5 }, { id := 2, ctx0 := 7, time := 5 }], fc := { logWrites := [{ lseq := 0x10002, seq := 3, record := List.replicate 32 9, reset := none }] } },
    1, ({ id := 0x0007, ctx0 := 7, time := 5 }), by decide⟩,
   ⟨{ ((wOn.wr fcBase 0).wr (fcA 0xC) 0) with reports := [{ id := 1, ctx0 := 7, time := 5 }, { id := 0x1003, ctx0 := 7, time := 5 }, { id := 2, ctx0 := 7, time := 5 }], boot := { rstAt := List.replicate 15 3 } },
     1, ({ id := 0x1003, ctx0 := 7, time := 5 }), by decide⟩,
   ⟨{ wOn with reports := [{ id := 1, ctx0 := 7, time := 5 }, { id := 0x3004, ctx0 := 7, time := 5 }, { id := 2, ctx0 := 7, time := 5 }], rwd := { expired := true } },
     1, ({ id := 0x3004, ctx0 := 7, time := 5 }), by decide⟩,
   ⟨{ wOn with reports := [{ id := 1, ctx0 := 7, time := 5 }, { id := 0x3004, ctx0 := 7, time := 5 }, { id := 2, ctx0 := 7, time := 5 }] },
     1, ({ id := 0x3004, ctx0 := 7, time := 5 }), by decide⟩,
   ⟨wOn, 1, by decide⟩,
   ⟨{ wOn with fc := { logWrites := [{ lseq := 0x10002, seq := 3, record := List.replicate 32 9, reset := none }, { lseq := 7, seq := 3, record := List.replicate 32 9, reset := none }] } },
     ({ lseq := 0x10002, seq := 3, record := List.replicate 32 9, reset := none }),
     [{ lseq := 7, seq := 3, record := List.replicate 32 9, reset := none }], by decide⟩,
   ⟨{ wOn with fc := { logWrites := [{ lseq := 0x10002, seq := 3, record := List.replicate 32 9, reset := none }] } },
     ({ lseq := 0x10002, seq := 3, record := List.replicate 32 9, reset := none }), [], by decide⟩,
   ⟨{ wOn.wr (fcA 0x10) 260 with fc := { logWrites := [{ lseq := 0x10002, seq := 3, record := List.replicate 32 9, reset := none }] } },
     ({ lseq := 0x10002, seq := 3, record := List.replicate 32 9, reset := none }), [], by decide⟩,
   ⟨{ wOn with fc := { logWrites := [{ lseq := 0x10002, seq := 3, record := List.replicate 32 9, reset := some 4 }] }, boot := { rstAt := List.replicate 15 3 } },
     ({ lseq := 0x10002, seq := 3, record := List.replicate 32 9, reset := some 4 }), [], 4, by decide⟩,
   ⟨{ wOn with fc := { logWrites := [{ lseq := 0x10002, seq := 3, record := List.replicate 32 9, reset := some 4 }] } },
     ({ lseq := 0x10002, seq := 3, record := List.replicate 32 9, reset := some 4 }), [], 4, by decide⟩⟩

/-- States and operands that meet the hypotheses of `Obligations.FaultCollector`, part 3. -/
theorem meets_FaultCollector_3 :
    (∃ (s : State), s.fc.logWrites = [])
    ∧ (∃ (s : State) (k : Fin 32), ¬ s.rf (escA k 1) 23 0 * 500000 ≤ s.ticks - (s.esc k).since)
    ∧ (∃ (s : State) (k : Fin 32), s.rf (escA k 1) 23 0 * 500000 ≤ s.ticks - (s.esc k).since)
    ∧ (∃ (s : State) (a : Acc) (v : Word) (k : Fin 32), Reaches s a (escA k 0) ∧ Manager s a ∧ (bit v 31 = true → (∃ z ∈
      (defSev (fld v 15 0)).toList, z < fld v 29 28) ∧ fld (s.esc k).staged 31 24 ≠ 0 ∧ fld (s.esc k).staged 23 0 ≠ 0))
    ∧ (∃ (s : State) (a : Acc) (v : Word) (k : Fin 32), Reaches s a (escA k 0) ∧ Manager s a ∧ NoHart a ∧ bit v 31 = true ∧
      ¬ ((∃ z ∈ (defSev (fld v 15 0)).toList, z < fld v 29 28) ∧ fld (s.esc k).staged 31 24 ≠ 0 ∧ fld (s.esc k).staged 23 0
      ≠ 0))
    ∧ (∃ (s : State) (a : Acc), Reaches s a (fcA 4) ∧ Manager s a ∧ s.rf (fcA 4) 19 16 ≠ 0 ∧ ¬ (∃ q ∈ List.range (s.fcWr -
      s.fcRd), fld (s.rd (ringA (s.fcRd + q) 0)) 17 16 = 2))
    ∧ (∃ (s : State) (a : Acc), Reaches s a (fcA 4) ∧ Manager s a ∧ NoHart a ∧ s.rf (fcA 4) 19 16 ≠ 0 ∧ (∃ q ∈ List.range
      (s.fcWr - s.fcRd), fld (s.rd (ringA (s.fcRd + q) 0)) 17 16 = 2))
    ∧ (∃ (s : State) (a : Acc) (k : Fin 32), NoHart a ∧ ¬ Manager s a ∧ Reaches s a (escA k 0) ∧ Reaches s a (fcA 4) ∧
      Reaches s a (fcA 0x1C))
    ∧ (∃ (s : State) (a : Acc) (id : BitVec 16), Reaches s a (fcA 0x1C) ∧ Manager s a ∧ defSev id.toNat ≠ none ∧ ((defSev
      id.toNat).getD 0) ≤ 1 ∧ OwnRecord s { id := id.toNat, ctx0 := 0xFFFFFFFF, time := s.now } ((defSev id.toNat).getD 0) ∧
      s.fcWr < s.fcRd + 256)
    ∧ (∃ (s : State) (a : Acc) (id : BitVec 16), Reaches s a (fcA 0x1C) ∧ Manager s a ∧ defSev id.toNat ≠ none) :=
  ⟨⟨wOn, by decide⟩,
   ⟨{ (wOn.wr (escA 3 1) 0x0300000A) with fc := { esc := [(3, { count := 2, since := 1 })] }, ticks := 5000000 }, 3,
     by decide⟩,
   ⟨{ wOn with fc := { esc := [(3, { count := 2 }), (4, { count := 1 })] } }, 3, by decide⟩,
   ⟨{ wOn with fc := { esc := [(3, { count := 2, staged := 0x03002710 })] } }, mgr, 0xFFFF8004, 3, by decide⟩,
   ⟨{ wOn with fc := { esc := [(3, { count := 2, staged := 0x03002710 })] } }, mgr, 0x90008004, 3, by decide⟩,
   ⟨(wOn.wr fcBase 0xC0FF1234), mgr, by decide⟩,
   ⟨((wOn.wr (fcA 0x10) 2).wr (ringA 1 0) 0x20000), mgr, by decide⟩,
   ⟨(wOn.wr (wcA 0x18) 0), ten, 3, by decide⟩,
   ⟨wOn, mgr, 0x2002, by decide⟩,
   ⟨((wPair 3).wr fcBase 0), mgr, 0x2005, by decide⟩⟩

/-- States and operands that meet the hypotheses of `Obligations.FaultCollector`, part 4. -/
theorem meets_FaultCollector_4 :
    (∃ (s : State) (a : Acc) (id : BitVec 16), Reaches s a (fcA 0x1C) ∧ Manager s a ∧ NoHart a ∧ defSev id.toNat = none)
    ∧ (∃ (s : State) (e : EccResult) (x : Addr), s.logicOn = true ∧ x.toNat < 0x10000 ∧ (e ≠ .clean ∨ s.isBad x.toNat =
      true))
    ∧ (∃ (s : State) (e : EccResult) (x : Addr), s.logicOn = true ∧ (inSram x.toNat = true ∨ inMram x.toNat = true) ∧
      s.isBad x.toNat = false ∧ e = .corrected)
    ∧ (∃ (s : State) (e : EccResult) (x : Addr), s.logicOn = true ∧ (inSram x.toNat = true ∨ inMram x.toNat = true) ∧
      (s.isBad x.toNat = true ∨ e = .uncorrectable))
    ∧ (∃ (s : State) (e : EccResult) (x : Addr), s.logicOn = true ∧ 0x40200000 ≤ x.toNat ∧ x.toNat < 0x40400000 ∧ s.isBad
      x.toNat = false ∧ e = .corrected)
    ∧ (∃ (s : State) (e : EccResult) (x : Addr), s.logicOn = true ∧ 0x40200000 ≤ x.toNat ∧ x.toNat < 0x40400000 ∧ (s.isBad
      x.toNat = true ∨ e = .uncorrectable))
    ∧ (∃ (s : State) (e : EccResult) (x : Addr), s.logicOn = true ∧ 0x30000000 ≤ x.toNat ∧ x.toNat < 0x30200000 ∧ s.isBad
      x.toNat = false ∧ e = .corrected)
    ∧ (∃ (s : State) (e : EccResult) (x : Addr), s.logicOn = true ∧ 0x30000000 ≤ x.toNat ∧ x.toNat < 0x30200000 ∧ (s.isBad
      x.toNat = true ∨ e = .uncorrectable) ∧ s.clr.snap = none)
    ∧ (∃ (s : State) (e : EccResult) (x : Addr), s.logicOn = true ∧ 0x30000000 ≤ x.toNat ∧ x.toNat < 0x30200000 ∧ (s.isBad
      x.toNat = true ∨ e = .uncorrectable))
    ∧ (∃ (s : State) (e : EccResult) (x : Addr), s.logicOn = true ∧ s.isBad x.toNat = false ∧ e = .clean) :=
  ⟨⟨wOn, mgr, 0x0009, by decide⟩,
   ⟨wOn, .corrected, 0xFFFF, by decide⟩,
   ⟨wOn, .corrected, 0x10000008, by decide⟩,
   ⟨wOn, .uncorrectable, 0x1000000C, by decide⟩,
   ⟨(wOn.wr (secBase + 0x1008) 0x1FFFF), .corrected, 0x40220004, by decide⟩,
   ⟨wOn, .uncorrectable, 0x40210000, by decide⟩,
   ⟨wOn, .corrected, 0x30000028, by decide⟩,
   ⟨wOn, .uncorrectable, 0x3000002C, by decide⟩,
   ⟨wOn, .uncorrectable, 0x3000002C, by decide⟩,
   ⟨wOn, .clean, 0x10000000, by decide⟩⟩

/-- States and operands that meet the hypotheses of `Obligations.FaultCollector`, part 5. -/
theorem meets_FaultCollector_5 :
    (∃ (s : State) (e : EccResult) (x : Addr) (d : Bool), s.logicOn = true ∧ inSram x.toNat = true ∧ e ≠ .clean ∧ (e =
      .corrected ∨ d = false))
    ∧ (∃ (s : State) (e : EccResult) (x : Addr) (d : Bool), s.logicOn = true ∧ inSram x.toNat = true ∧ e = .uncorrectable ∧
      d = true)
    ∧ (∃ (s : State) (e : EccResult) (x : Addr), s.logicOn = true ∧ (e = .clean ∨ inSram x.toNat = false))
    ∧ (∃ (s : State) (e : EccResult) (c : Fin 16), s.logicOn = true ∧ e = .uncorrectable ∧ (s.can c).q0 ≠ [])
    ∧ (∃ (s : State) (e : EccResult) (c : Fin 16), s.logicOn = true ∧ e = .uncorrectable ∧ (s.can c).q1 ≠ [])
    ∧ (∃ (s : State) (e : EccResult) (c : Fin 16), s.logicOn = true ∧ e = .uncorrectable ∧ (s.can c).txf ≠ [])
    ∧ (∃ (s : State) (e : EccResult) (c : Fin 16), s.logicOn = true ∧ (e ≠ .uncorrectable ∨ (s.can c).txf = [] ∧ (s.can
      c).q0 = [] ∧ (s.can c).q1 = []))
    ∧ (∃ (s : State) (e : EccResult), s.logicOn = true ∧ s.accepts 5 = true ∧ e = .corrected)
    ∧ (∃ (s : State) (e : EccResult) (c : Fin 16) (m : Nat) (f : EFrame) (qs : List EFrame), s.logicOn = true ∧ s.accepts 5
      = true ∧ e = .uncorrectable ∧ s.queue c m = f :: qs)
    ∧ (∃ (s : State) (e : EccResult) (c : Fin 16) (m : Nat), s.logicOn = true ∧ s.accepts 5 = true ∧ (e = .clean ∨ e =
      .uncorrectable ∧ s.queue c m = [])) :=
  ⟨⟨wOn, .corrected, 0x10000000, true, by decide⟩,
   ⟨wOn, .uncorrectable, 0x10000040, true, by decide⟩,
   ⟨wOn, .uncorrectable, 0x20000000, by decide⟩,
   ⟨(wOn.setCan 5 { q0 := [default, default] }), .uncorrectable, 5, by decide⟩,
   ⟨(wOn.setCan 5 { q1 := [default, default] }), .uncorrectable, 5, by decide⟩,
   ⟨(wOn.setCan 5 { txf := [⟨default, none, 0⟩], sending := some (.head, default) }), .uncorrectable, 5, by decide⟩,
   ⟨(wOn.setCan 5 { q0 := [default] }), .corrected, 5, by decide⟩,
   ⟨(wOn.wr (esA 4) 0xFF0000), .corrected, by decide⟩,
   ⟨(wOn.setPort 5 { queues := [(2, [{ uid := 1 }, { uid := 2 }])] }), .uncorrectable, 5, 2, ({ uid := 1 }), [{ uid := 2 }],
     by decide⟩,
   ⟨wOn, .uncorrectable, 5, 2, by decide⟩⟩

/-- States and operands that meet the hypotheses of `Obligations.FaultCollector`, part 6. -/
theorem meets_FaultCollector_6 :
    (∃ (s : State), s.logicOn = false) :=
  ⟨State.reset, by decide⟩

/-- States and operands that meet the hypotheses of `Obligations.AdoptOutsideLimpHome`. -/
theorem meets_AdoptOutsideLimpHome :
    (∃ (s : State) (a : Acc) (d : PDie), FarReaches s a d (dieA d.val 0x100) ∧ Manager s a ∧ s.limp d.val = false)
    ∧ (∃ (s : State) (a : Acc) (d : PDie) (v : DWord), FarReaches s a d (dieA d.val 0x100) ∧ Manager s a ∧ s.limp d.val =
      false ∧ bit v 0 = true) :=
  ⟨⟨(wCh 2 0), mgr, 0, by decide⟩,
   ⟨(wCh 2 0), mgr, 0, 1, by decide⟩⟩

end Sys2Proof.Tests
end

section
/-!
PROOFS. Writes that their far die ignores, and LIMP_CTL outside limp-home.
-/

namespace Sys2Proof.Machine
open Sys2Proof.Safety

/-! ### Far-die writes that their die ignores -/

theorem State.bridge_setBridge (s : State) (b i : Nat) (v : BridgeInt) :
    (s.setBridge b v).bridge i = if i = b then v else s.bridge i :=
  smGet_smSet (fun _ => ({} : BridgeInt)) s.brg b i v

/-- A dropped line touches its bridge's PF_STAT and PF_ADDR and the reports in flight, and nothing else (R532). -/
theorem State.lineGone_frame (s : State) (b : Nat) (l : BrLine) :
    s.lineGone b l = { s with regs := (s.lineGone b l).regs, reports := (s.lineGone b l).reports } := by
  unfold lineGone
  dsimp only
  split
  · rfl
  · split <;> rfl

/-- PF_STAT and PF_ADDR of its bridge apart, a dropped line changes no register. -/
theorem State.lineGone_rd (s : State) (b : Nat) (l : BrLine) (x : Nat) (h1 : x ≠ brA b 0x20) (h2 : x ≠ brA b 0x24) :
    (s.lineGone b l).rd x = s.rd x := by
  have hb : ∀ (s : State) (hi lo : Nat), (s.bump (brA b 0x20) hi lo).rd x = s.rd x := fun s _ _ => s.rd_wr_ne _ _ _ h1
  unfold lineGone
  dsimp only
  split
  · rfl
  · split
    · exact hb ..
    · exact (State.rd_wr_ne _ _ _ _ h2).trans ((hb ..).trans (hb ..))

theorem State.dropLines_harts (s : State) (b : Nat) (p : BrLine → Bool) : (s.dropLines b p).harts = s.harts :=
  foldl_keeps _ State.harts (fun s l => by rw [s.lineGone_frame]) _ _

theorem State.dropLines_rd (s : State) (b : Nat) (p : BrLine → Bool) (x : Nat) (h1 : x ≠ brA b 0x20)
    (h2 : x ≠ brA b 0x24) : (s.dropLines b p).rd x = s.rd x :=
  foldl_keeps _ (fun s => s.rd x) (fun s l => s.lineGone_rd b l x h1 h2) _ _

/-- Bridge `b` loses the lines that satisfy `p`, and no bridge anything else. -/
theorem State.dropLines_bridge (s : State) (b i : Nat) (p : BrLine → Bool) :
    (s.dropLines b p).bridge i
      = if i = b then { s.bridge b with lines := (s.bridge b).lines.filter fun l => !p l } else s.bridge i :=
  (foldl_keeps _ (fun s => s.bridge i) (fun s l => by rw [s.lineGone_frame]; rfl) _ _).trans (s.bridge_setBridge ..)

/-- A write of `n` bytes that its far die answers DONE and ignores: the bridge still drops the lines of those bytes (R531),
and the die reports the source that they belong to again (R538). -/
def State.writeIgnored (s : State) (b off n : Nat) : State := (s.dropAtOff b off n).reReport b off

theorem State.writeIgnored_harts (s : State) (b off n : Nat) : (s.writeIgnored b off n).harts = s.harts :=
  s.dropLines_harts b _

theorem State.brWrite_ignored (s : State) (who : Who) (b addr n : Nat) (f : Tags → State → Ans) (waits : Bool)
    (hup : s.brUp b = true) (hsem : (s.bridge b).sem = none)
    (hok : s.rb (winA b ((s.winAt b (addr - brRegion b)).getD 0) 0) 28 = false)
    (hf : f (s.tagsOf who) (s.dropAtOff b (addr - brRegion b) n) = (.done, s.dropAtOff b (addr - brRegion b) n)) :
    s.brWrite who false b addr f n waits = (.done, s.writeIgnored b (addr - brRegion b) n) := by
  have hpass : (s.dropAtOff b (addr - brRegion b) n).semPass b who (addr - brRegion b) n
      = s.dropAtOff b (addr - brRegion b) n := by
    simp [semPass, dropAtOff, dropLines_bridge, hsem]
  simp [brWrite, hup, hok, hpass, hf, writeIgnored]

/-- A write that reaches its far die, and that the die ignores, completes with DONE. -/
theorem State.farWrite_ignored (s : State) (a : Acc) (b addr : Nat) (cmd : Instr) (f : Tags → State → Ans)
    (h : FarReaches s a b addr)
    (hf : f (s.tagsOf a.who) (s.dropAtOff b (addr - brRegion b) 4) = (.done, s.dropAtOff b (addr - brRegion b) 4)) :
    s.farWrite a b addr cmd f = .next { s.writeIgnored b (addr - brRegion b) 4 with resp := ⟨.done, 0⟩ } := by
  obtain ⟨hon, hwait, htag, hup, hsem, hok, hhart⟩ := h
  have hdone := (s.writeIgnored b (addr - brRegion b) 4).finish_done a addr 0 false fun n hn => by
    rw [hart, writeIgnored_harts]
    exact hhart n hn
  simp only [farWrite, hon, hwait, htag, s.brWrite_ignored a.who b addr 4 f false hup hsem hok hf, Bool.not_true,
    Bool.false_eq_true, ↓reduceIte]
  exact congrArg Host.Outcome.next hdone

/-! ### LIMP_CTL outside limp-home -/

/-- LIMP_CTL ignores what the manager writes outside limp-home (R206). -/
theorem State.putLimpCtl_outside (s : State) (d : Nat) (v : Word) (hl : s.limp d = false) :
    s.putLimpCtl ⟨0, true⟩ d v = (.done, s) := by
  simp [putLimpCtl, Tags.manager, hl]

/-- The registers of a bridge that drops lines lie apart from its die's DIE_STAT. -/
theorem State.dropAtOff_limp (s : State) (d : PDie) (off n : Nat) : (s.dropAtOff d off n).limp d = s.limp d := by
  unfold limp rb dropAtOff
  rw [dropLines_rd] <;> simp only [dieA, dieBase, brA, brgBase] <;> omega

theorem limpCtl_offset (d : PDie) : dieA d 0x100 - brRegion d = 0x100 := by
  have : d.val ≠ 3 := by omega
  simp [dieA, dieBase, brRegion, this]

/-- ADOPT outside limp-home completes with DONE and leaves what any ignored write leaves. -/
theorem exec_limpAdopt_outside (s : State) (a : Acc) (d : PDie) (h : FarReaches s a d (dieA d 0x100)) (hm : Manager s a)
    (hl : s.limp d = false) :
    exec (.limpAdopt a d) s = .next { s.writeIgnored d 0x100 4 with resp := ⟨.done, 0⟩ } := by
  have hf := State.putLimpCtl_outside (s.dropAtOff d 0x100 4) d 1 ((s.dropAtOff_limp d _ _).trans hl)
  have := s.farWrite_ignored a d _ (.limpAdopt a d) (fun t s => s.putLimpCtl t d 1) h (by rw [limpCtl_offset, hm, hf])
  rwa [limpCtl_offset] at this

/-- LIMP_CTL belongs to source 32 of its die's bridge, which is reported again after a write to it (R538). -/
theorem State.writeIgnored_limpCtl_told (s : State) (d : PDie) :
    ((s.writeIgnored d 0x100 4).bridge d).told = (s.bridge d).told.filter fun k => k != 32 := by
  simp [writeIgnored, reReport, bridge_setBridge, dropAtOff, dropLines_bridge]

end Sys2Proof.Machine

namespace Sys2Proof.Safety

open Sys2Proof.Machine Sys2Proof.Laws

/-- Refutes O59: an ignored ADOPT is still a write to a register of its die, so the bridge's record of interrupt source 32
as already acted on falls (R538), while the statement leaves every bridge as it was. In the counterexample die 0's SUM_OVER
is set and enabled, and its interrupt has been acted on. -/
theorem not_adoptOutsideLimpHome : ¬ Obligations.AdoptOutsideLimpHome := by
  unfold Obligations.AdoptOutsideLimpHome
  intro h
  obtain ⟨s, hreach, hmgr, hlimp, -, htold⟩ : ∃ s : State, FarReaches s mgr (0 : PDie) (dieA (0 : PDie) 0x100)
      ∧ Manager s mgr ∧ s.limp (0 : PDie) = false ∧ s.farIrq 0 32 = true ∧ (s.bridge (0 : PDie)).told = [32] :=
    ⟨(((wCh 2 0).wr (dieA 0 0) 4).wr (dieA 0 0x14) 4).setBridge 0 { told := [32] }, by decide⟩
  obtain ⟨t, ht, -, hsame, -⟩ := (h s mgr 0 0 0).1 ⟨hreach, hmgr, hlimp⟩
  obtain rfl := Host.Outcome.next.inj ((exec_limpAdopt_outside s mgr 0 hreach hmgr hlimp).symm.trans ht)
  have hreported := (s.writeIgnored_limpCtl_told 0).symm.trans (congrArg BridgeInt.told (hsame _))
  rw [htold] at hreported
  exact absurd hreported (by decide)

end Sys2Proof.Safety
end

section
/-!
PROOFS. The pair role: only PAIR_CLAIM makes a module ACTIVE, and a STANDBY module only when R667 lets it.

Every operation and every command either keeps the role (`_role`) or at least leaves a module that is not ACTIVE so
(`_inactive`); the exception is PAIR_CLAIM, whose guard is R667's.
-/

namespace Sys2Proof.Machine

/-- The pair role (R659): 0 OFFLINE, 1 SOLO, 2 STANDBY, 3 ACTIVE. -/
def State.role (s : State) : Nat := s.front.role

/-- The role that an answer with a status leaves. -/
def ansRole {α : Type} (r : α × State) : Nat := r.2.role

/-- The role that an answer with a status and data leaves. -/
def dataRole {α β : Type} (r : α × β × State) : Nat := r.2.2.role

/-- The role in the state that a command answers. -/
def outRole (o : Out) : Nat :=
  match o with
  | .next t => t.role
  | _ => 0

/-! ### Role and constructors -/

section Constructors

variable {α β : Type} (c : Prop) [Decidable c]

@[simp] theorem State.front_role (s : State) : s.front.role = s.role := by simp only [role]

@[simp] theorem State.role_mk regs mem eccBad resp reports dieLogs boundary draining free pwr links isl fuse boot dbg chs
    dies lines sins front dinLand harts msis aplic ticks rwd fc tb thrs engs mirror measTx measNo casks tnResets cans lins
    clr esw kst cph stg nand tnSaid tnAborted evs brg prm pending :
    (State.mk regs mem eccBad resp reports dieLogs boundary draining free pwr links isl fuse boot dbg chs dies lines sins
      front dinLand harts msis aplic ticks rwd fc tb thrs engs mirror measTx measNo casks tnResets cans lins clr esw kst cph
      stg nand tnSaid tnAborted evs brg prm pending).role = front.role := by
  simp only [role]

@[simp] theorem ansRole_mk (x : α) (s : State) : ansRole (x, s) = s.role := by simp only [ansRole]
@[simp] theorem dataRole_mk (x : α) (r : β × State) : dataRole (x, r) = ansRole r := by simp only [ansRole, dataRole]
@[simp] theorem snd_role (r : α × State) : r.2.role = ansRole r := by simp only [ansRole]
@[simp] theorem snd_snd_role (r : α × β × State) : r.2.2.role = dataRole r := by simp only [dataRole]
@[simp] theorem ansRole_snd (r : α × β × State) : ansRole r.2 = dataRole r := by simp only [ansRole, dataRole]
@[simp] theorem outRole_next (t : State) : outRole (.next t) = t.role := by simp only [outRole]

@[simp] theorem State.role_ite (s t : State) : (if c then s else t).role = if c then s.role else t.role :=
  apply_ite State.role c s t
@[simp] theorem ansRole_ite (r q : α × State) : ansRole (if c then r else q) = if c then ansRole r else ansRole q :=
  apply_ite ansRole c r q
@[simp] theorem dataRole_ite (r q : α × β × State) :
    dataRole (if c then r else q) = if c then dataRole r else dataRole q :=
  apply_ite dataRole c r q
@[simp] theorem outRole_ite (o p : Out) : outRole (if c then o else p) = if c then outRole o else outRole p :=
  apply_ite outRole c o p

end Constructors

@[simp] theorem foldl_role {α : Type} (f : State → α → State) (l : List α) (s : State)
    (hf : ∀ s x, (f s x).role = s.role) : (l.foldl f s).role = s.role := by
  induction l generalizing s with
  | nil => rfl
  | cons x r ih => rw [List.foldl_cons, ih, hf]

/-! ### Writes of one field, and a trap, keep the role -/

section Fields

variable (s : State)

@[simp] theorem State.wr_role (a : Nat) (v : Word) : (s.wr a v).role = s.role :=
  congrArg FrontInt.role (wr_front s a v)
@[simp] theorem State.stb_role (a : Nat) (v : Byte) : (s.stb a v).role = s.role :=
  congrArg FrontInt.role (stb_front s a v)
@[simp] theorem State.resetRegs_role (keep : Nat → Bool) : (s.resetRegs keep).role = s.role :=
  congrArg FrontInt.role (resetRegs_front s keep)
@[simp] theorem State.setHart_role (h : Nat) (v : Hart) : (s.setHart h v).role = s.role :=
  congrArg FrontInt.role (setHart_front s h v)
@[simp] theorem State.setBridge_role (b : Nat) (v : BridgeInt) : (s.setBridge b v).role = s.role :=
  congrArg FrontInt.role (setBridge_front s b v)
@[simp] theorem State.park_role (i : Nat) (cmd : Instr) (w : WaitBy) : (s.park i cmd w).role = s.role :=
  congrArg FrontInt.role (park_front s i cmd w)
@[simp] theorem State.setDieLog_role (d : Nat) (v : DieLog) : (s.setDieLog d v).role = s.role :=
  congrArg FrontInt.role (setDieLog_front s d v)
@[simp] theorem State.setLink_role (k : Nat) (v : LinkSt) : (s.setLink k v).role = s.role :=
  congrArg FrontInt.role (setLink_front s k v)
@[simp] theorem State.setIsl_role (i : Nat) (v : IslPhase) : (s.setIsl i v).role = s.role :=
  congrArg FrontInt.role (setIsl_front s i v)
@[simp] theorem State.setChI_role (c : Nat) (v : ChInt) : (s.setChI c v).role = s.role :=
  congrArg FrontInt.role (setChI_front s c v)
@[simp] theorem State.setDie_role (d : Nat) (v : DieInt) : (s.setDie d v).role = s.role :=
  congrArg FrontInt.role (setDie_front s d v)
@[simp] theorem State.setLine_role (k : Nat) (v : LineInt) : (s.setLine k v).role = s.role :=
  congrArg FrontInt.role (setLine_front s k v)
@[simp] theorem State.setSin_role (n : Nat) (v : SinInt) : (s.setSin n v).role = s.role :=
  congrArg FrontInt.role (setSin_front s n v)
@[simp] theorem State.setThr_role (e t : Nat) (v : ThrInt) : (s.setThr e t v).role = s.role :=
  congrArg FrontInt.role (setThr_front s e t v)
@[simp] theorem State.setEng_role (e : Nat) (v : EngInt) : (s.setEng e v).role = s.role :=
  congrArg FrontInt.role (setEng_front s e v)
@[simp] theorem State.setCask_role (n : Nat) (v : CaskInt) : (s.setCask n v).role = s.role :=
  congrArg FrontInt.role (setCask_front s n v)
@[simp] theorem State.setCan_role (n : Nat) (v : CanInt) : (s.setCan n v).role = s.role :=
  congrArg FrontInt.role (setCan_front s n v)
@[simp] theorem State.setLin_role (n : Nat) (v : LinInt) : (s.setLin n v).role = s.role :=
  congrArg FrontInt.role (setLin_front s n v)
@[simp] theorem State.setEv_role (k : Nat) (v : EvInt) : (s.setEv k v).role = s.role :=
  congrArg FrontInt.role (setEv_front s k v)
@[simp] theorem State.setPwr_role (p : Power) : (s.setPwr p).role = s.role :=
  congrArg FrontInt.role (setPwr_front s p)
@[simp] theorem State.setFront_role (f : FrontInt) : (s.setFront f).role = f.role :=
  congrArg FrontInt.role (setFront_front s f)
@[simp] theorem State.setPrm_role (p : PrmInt) : (s.setPrm p).role = s.role :=
  congrArg FrontInt.role (setPrm_front s p)
@[simp] theorem State.wf_role (a hi lo v : Nat) : (s.wf a hi lo v).role = s.role :=
  congrArg FrontInt.role (wf_front s a hi lo v)
@[simp] theorem State.wb_role (a i : Nat) (b : Bool) : (s.wb a i b).role = s.role :=
  congrArg FrontInt.role (wb_front s a i b)
@[simp] theorem State.bump_role (a hi lo : Nat) : (s.bump a hi lo).role = s.role :=
  congrArg FrontInt.role (bump_front s a hi lo)
@[simp] theorem State.plainWr_role (a : Nat) (v : Word) : (s.plainWr a v).role = s.role :=
  congrArg FrontInt.role (plainWr_front s a v)
@[simp] theorem State.trap_role (h cause : Nat) (tval : DWord) (g : GuestInfo) : (s.trap h cause tval g).role = s.role :=
  congrArg FrontInt.role (trap_front s h cause tval g)

end Fields

/-! ### Operations and commands that keep the role -/

section Neutral

variable (s : State)

/-! #### Reports and common writes -/

@[simp] theorem State.stBytes_role (s : State) (a : Nat) (l : List Byte) : (s.stBytes a l).role = s.role := by
  induction l generalizing s a with
  | nil => rfl
  | cons b r ih => simp [stBytes, ih]
@[simp] theorem State.stLE_role (a n v) : (s.stLE a n v).role = s.role := by simp [stLE]
@[simp] theorem State.fresh_role : ansRole (s.fresh) = s.role := by simp [fresh]
@[simp] theorem State.send_role (r) : (s.send r).role = s.role := by simp [send]
@[simp] theorem State.report_role (id ctx0 ctx1 tid w) : (s.report id ctx0 ctx1 tid w).role = s.role := by
  simp [report]
@[simp] theorem State.reportF_role (id ctx0 ctx1) : (s.reportF id ctx0 ctx1).role = s.role := by simp [reportF]
@[simp] theorem State.reportAt_role (id addr t) : (s.reportAt id addr t).role = s.role := by simp [reportAt]
@[simp] theorem State.capture_role (h addr st) : (s.capture h addr st).role = s.role := by simp [capture]
@[simp] theorem State.debugEnter_role (h cause) : (s.debugEnter h cause).role = s.role := by simp [debugEnter]
@[simp] theorem State.stepEnd_role (h) : (s.stepEnd h).role = s.role := by simp [stepEnd]
@[simp] theorem State.finish_role (s : State) (a addr st data load) :
    (s.finish a addr st data load).role = s.role := by
  unfold finish; dsimp only
  cases a.who with
  | hart h => dsimp only; split <;> simp
  | _ => simp
@[simp] theorem State.deny_role (t addr) : ansRole (s.deny t addr) = s.role := by simp [deny]
@[simp] theorem State.heldPage_role (s : State) (t a) (r : Ans) (hr : ansRole r = s.role) :
    ansRole (s.heldPage t a r) = s.role := by
  simp [heldPage, hr]
@[simp] theorem State.cfgWrite_role (s : State) (a addr cmd) (f : Tags → State → Ans)
    (hf : ∀ t s, ansRole (f t s) = s.role) : outRole (s.cfgWrite a addr cmd f) = s.role := by
  simp [cfgWrite, hf]
@[simp] theorem State.cfgRead_role (s : State) (a addr cmd) (f : Tags → State → Status × DWord × State)
    (hf : ∀ t s, dataRole (f t s) = s.role) : outRole (s.cfgRead a addr cmd f) = s.role := by
  simp [cfgRead, hf]
@[simp] theorem twoPuts_role (f : State → Nat → Word → Ans) (s : State) (a n v)
    (hf : ∀ s a v, ansRole (f s a v) = s.role) : ansRole (twoPuts f s a n v) = s.role := by
  simp [twoPuts, hf]
@[simp] theorem twoGets_role (f : State → Nat → Status × Word × State) (s : State) (a n)
    (hf : ∀ s a, dataRole (f s a) = s.role) : dataRole (twoGets f s a n) = s.role := by
  simp [twoGets, hf]
@[simp] theorem narrowPut_role (r : Ans) (s : State) (hr : ansRole r = s.role) :
    ansRole (narrowPut r s) = s.role := by
  simp [narrowPut, hr]
@[simp] theorem narrowGet_role (r : Status × Word × State) (s : State) (hr : dataRole r = s.role) :
    dataRole (narrowGet r s) = s.role := by
  simp [narrowGet, hr]

/-! #### Memory -/

@[simp] theorem State.spoil_role (a) : (s.spoil a).role = s.role := by simp [spoil]
@[simp] theorem State.mend_role (a) : (s.mend a).role = s.role := by simp [mend]
@[simp] theorem State.mendSpan_role (a n) : (s.mendSpan a n).role = s.role := by simp [mendSpan]
@[simp] theorem State.eccReport_role (a) : (s.eccReport a).role = s.role := by simp [eccReport]
@[simp] theorem State.dropResv_role (a n) : (s.dropResv a n).role = s.role := by simp [dropResv]
@[simp] theorem State.memPut_role (a b) : (s.memPut a b).role = s.role := by simp [memPut]
@[simp] theorem State.sendMsi_role (hart file eiid) : (s.sendMsi hart file eiid).role = s.role := by simp [sendMsi]

/-! #### Frames -/

@[simp] theorem State.canCnt_role (n k) : (s.canCnt n k).role = s.role := by simp [canCnt]
@[simp] theorem State.canEvt_role (n b) : (s.canEvt n b).role = s.role := by simp [canEvt]
@[simp] theorem State.setTat_role (n k v) : (s.setTat n k v).role = s.role := by simp [setTat]
@[simp] theorem State.capture1_role (n k f) : (s.capture1 n k f).role = s.role := by simp [capture1]
@[simp] theorem State.txPush_role (n f maxAge) : (s.txPush n f maxAge).role = s.role := by
  unfold txPush; split <;> simp
@[simp] theorem State.txPop_role (n) : (s.txPop n).role = s.role := by simp [txPop]
@[simp] theorem State.setPort_role (p v) : (s.setPort p v).role = s.role := by simp [setPort]
@[simp] theorem State.pcnt_role (p off k) : (s.pcnt p off k).role = s.role := by simp [pcnt]
@[simp] theorem State.reportSec_role (p id) : (s.reportSec p id).role = s.role := by simp [reportSec]
@[simp] theorem State.setRxq_role (q l) : (s.setRxq q l).role = s.role := by simp [setRxq]
@[simp] theorem State.setTxq_role (q l) : (s.setTxq q l).role = s.role := by simp [setTxq]
@[simp] theorem State.setQueue_role (p k l) : (s.setQueue p k l).role = s.role := by simp [setQueue]

/-! #### Casks -/

@[simp] theorem State.ckZero_role (n) : (s.ckZero n).role = s.role := by simp [ckZero]
@[simp] theorem State.ckAppend_role (n b) : ansRole (s.ckAppend n b) = s.role := by simp [ckAppend]
@[simp] theorem State.ckTake_role (n) : dataRole (s.ckTake n) = s.role := by simp [ckTake]
@[simp] theorem State.ckIdle_role (n) : dataRole (s.ckIdle n) = s.role := by simp [ckIdle]
@[simp] theorem State.ckDoMark_role (n) : (s.ckDoMark n).role = s.role := by simp [ckDoMark]
@[simp] theorem State.ckDoRewind_role (n) : ansRole (s.ckDoRewind n) = s.role := by simp [ckDoRewind]
@[simp] theorem State.ckDoRelease_role (n k) : ansRole (s.ckDoRelease n k) = s.role := by simp [ckDoRelease]
@[simp] theorem State.ckOp_role (s : State) (t n x) (f : State → Ans) (hf : ansRole (f s) = s.role) :
    ansRole (s.ckOp t n x f) = s.role := by
  unfold ckOp; split <;> simp [hf]
@[simp] theorem State.ckFull_role (n) : (s.ckFull n).role = s.role := by simp [ckFull]
@[simp] theorem State.hwPut_role (s : State) (n b) (f g h : State → State) (hf : ∀ s, (f s).role = s.role)
    (hg : ∀ s, (g s).role = s.role) (hh : ∀ s, (h s).role = s.role) :
    (s.hwPut n b f g h).role = s.role := by
  simp [hwPut, hf, hg, hh]
@[simp] theorem State.hwTake_role (n) : ansRole (s.hwTake n) = s.role := by simp [hwTake]
@[simp] theorem State.ckPutFrom_role (n src) : ansRole (s.ckPutFrom n src) = s.role := by simp [ckPutFrom]
@[simp] theorem State.ckServe_role (n) : (s.ckServe n).role = s.role := by simp [ckServe]
@[simp] theorem State.ckPutStore_role (s : State) (a t n src) : ansRole (s.ckPutStore a t n src).1 = s.role := by
  unfold ckPutStore; dsimp only
  (repeat' split) <;> simp
@[simp] theorem execCkPut_role (a n src) : outRole (execCkPut a n src s) = s.role := by simp [execCkPut]
@[simp] theorem execCkPutWaitEnd_role (n) : outRole (execCkPutWaitEnd n s) = s.role := by
  unfold execCkPutWaitEnd; split <;> simp
@[simp] theorem State.ckGetStore_role (s : State) (t n dst) : ansRole (s.ckGetStore t n dst) = s.role := by
  unfold ckGetStore; dsimp only
  (repeat' split) <;> simp
@[simp] theorem execCkGet_role (a n dst) : outRole (execCkGet a n dst s) = s.role := by simp [execCkGet]
@[simp] theorem State.ckSoftMark_role (t n) : ansRole (s.ckSoftMark t n) = s.role := by simp [ckSoftMark]
@[simp] theorem State.ckSoftRewind_role (t n) : ansRole (s.ckSoftRewind t n) = s.role := by simp [ckSoftRewind]
@[simp] theorem State.ckSoftRel_role (t n k) : ansRole (s.ckSoftRel t n k) = s.role := by simp [ckSoftRel]
@[simp] theorem execCkMark_role (a n) : outRole (execCkMark a n s) = s.role := by simp [execCkMark]
@[simp] theorem execCkRewind_role (a n) : outRole (execCkRewind a n s) = s.role := by simp [execCkRewind]
@[simp] theorem execCkRel_role (a n count) : outRole (execCkRel a n count s) = s.role := by simp [execCkRel]
@[simp] theorem execCkFill_role (a n) : outRole (execCkFill a n s) = s.role := by simp [execCkFill]
@[simp] theorem State.ckRelease_role (n) : (s.ckRelease n).role = s.role := by simp [ckRelease]
@[simp] theorem State.putCask_role (t n off v) : ansRole (s.putCask t n off v) = s.role := by simp [putCask]
@[simp] theorem execCaskConfigWrite_role (a n r v) : outRole (execCaskConfigWrite a n r v s) = s.role := by
  simp [execCaskConfigWrite]
@[simp] theorem execCaskClear_role (a n) : outRole (execCaskClear a n s) = s.role := by simp [execCaskClear]

/-! #### Slices -/

@[simp] theorem State.sliceDeny_role (t w) : (s.sliceDeny t w).role = s.role := by simp [sliceDeny]

/-! #### Key slots -/

@[simp] theorem State.setSlot_role (n v) : (s.setSlot n v).role = s.role := by simp [setSlot]
@[simp] theorem State.setSlState_role (n v) : (s.setSlState n v).role = s.role := by simp [setSlState]
@[simp] theorem State.recCommit_role (n body) : (s.recCommit n body).role = s.role := by simp [recCommit]
@[simp] theorem State.setCtx_role (k c) : (s.setCtx k c).role = s.role := by simp [setCtx]
@[simp] theorem State.nsCheck_role (ns) : (s.nsCheck ns).role = s.role := by unfold nsCheck; (repeat' split) <;> simp
@[simp] theorem State.msCnt_role (i k) : (s.msCnt i k).role = s.role := by simp [msCnt]
@[simp] theorem State.setSa_role (k v) : (s.setSa k v).role = s.role := by simp [setSa]
@[simp] theorem State.msKeyLost_role (s : State) (n) : (s.msKeyLost n).role = s.role := by
  unfold msKeyLost; dsimp only
  rw [foldl_role, foldl_role, foldl_role]
  · intro s p; split <;> simp
  · intro s p; split <;> simp
  · intro s p; simp
@[simp] theorem State.slotWipe_role (n st) : (s.slotWipe n st).role = s.role := by simp [slotWipe]
@[simp] theorem State.slotCascade_role (n) : (s.slotCascade n).role = s.role := by simp [slotCascade]
@[simp] theorem State.slotErase_role (n) : (s.slotErase n).role = s.role := by simp [slotErase]
@[simp] theorem State.slotCorrupt_role (n) : (s.slotCorrupt n).role = s.role := by simp [slotCorrupt]
@[simp] theorem State.slotFill_role (n f) : (s.slotFill n f).role = s.role := by simp [slotFill]
@[simp] theorem State.slotStage_role (n f) : (s.slotStage n f).role = s.role := by simp [slotStage]
@[simp] theorem State.slotEffect_role (n) : (s.slotEffect n).role = s.role := by unfold slotEffect; split <;> simp
@[simp] theorem State.slotLoad_role (n) : (s.slotLoad n).role = s.role := by unfold slotLoad; split <;> simp
@[simp] theorem State.slotDerive_role (k) : (s.slotDerive k).role = s.role := by simp [slotDerive]
@[simp] theorem State.kstFill_role (attFail) : (s.kstFill attFail).role = s.role := by simp [kstFill]
@[simp] theorem State.kstStart_role (attFail) : (s.kstStart attFail).role = s.role := by simp [kstStart]

/-! #### Far registers -/

@[simp] theorem State.lineGone_role (b l) : (s.lineGone b l).role = s.role := by
  unfold lineGone; dsimp only; (repeat' split) <;> simp
@[simp] theorem State.dropLines_role (b p) : (s.dropLines b p).role = s.role := by simp [dropLines]
@[simp] theorem State.dropAtOff_role (b off n) : (s.dropAtOff b off n).role = s.role := by simp [dropAtOff]
@[simp] theorem State.spoilLines_role (b off n) : (s.spoilLines b off n).role = s.role := by simp [spoilLines]
@[simp] theorem State.brFail_role (b win off t st) : (s.brFail b win off t st).role = s.role := by simp [brFail]
@[simp] theorem State.semFree_role (b) : (s.semFree b).role = s.role := by simp [semFree]
@[simp] theorem State.semExpire_role (b) : (s.semExpire b).role = s.role := by unfold semExpire; split <;> simp
@[simp] theorem State.semPass_role (b who off n) : (s.semPass b who off n).role = s.role := by
  unfold semPass; split <;> simp
@[simp] theorem State.reReport_role (b off) : (s.reReport b off).role = s.role := by simp [reReport]
@[simp] theorem State.brWrite_role (s : State) (who tagFail b addr) (f : Tags → State → Ans) (n waits)
    (hf : ∀ t s, ansRole (f t s) = s.role) :
    ansRole (s.brWrite who tagFail b addr f n waits) = s.role := by
  simp [brWrite, hf]
@[simp] theorem State.farWrite_role (s : State) (a link addr cmd) (f : Tags → State → Ans)
    (hf : ∀ t s, ansRole (f t s) = s.role) : outRole (s.farWrite a link addr cmd f) = s.role := by
  simp [farWrite, hf]
@[simp] theorem State.brRead_role {w : Nat} (s : State) (who tagFail b addr) (f : Tags → State → Status × BitVec w × State)
    (n) (hf : ∀ t s, dataRole (f t s) = s.role) :
    dataRole (s.brRead who tagFail b addr f n) = s.role := by
  simp [brRead, hf]
@[simp] theorem State.farRead_role (s : State) (a link addr cmd) (f : Tags → State → Status × Word × State)
    (hf : ∀ t s, dataRole (f t s) = s.role) : outRole (s.farRead a link addr cmd f) = s.role := by
  simp [farRead, hf]

/-! #### Channel registers -/

@[simp] theorem State.setChState_role (c v) : (s.setChState c v).role = s.role := by simp [setChState]
@[simp] theorem State.setRetryCnt_role (c v) : (s.setRetryCnt c v).role = s.role := by simp [setRetryCnt]
@[simp] theorem State.chEvt_role (c b) : (s.chEvt c b).role = s.role := by simp [chEvt]
@[simp] theorem State.dgEvt_role (c b) : (s.dgEvt c b).role = s.role := by simp [dgEvt]
@[simp] theorem State.dieReport_role (d idx) : (s.dieReport d idx).role = s.role := by simp [dieReport]
@[simp] theorem State.chReport_role (c idx) : (s.chReport c idx).role = s.role := by simp [chReport]
@[simp] theorem State.applyCfg_role (c) : (s.applyCfg c).role = s.role := by simp [applyCfg]
@[simp] theorem State.refresh_role (c) : (s.refresh c).role = s.role := by simp [refresh]
@[simp] theorem State.switchOff_role (v c) : (s.switchOff v c).role = s.role := by simp [switchOff]
@[simp] theorem State.toOff_role (l) : (s.toOff l).role = s.role := by simp [toOff]
@[simp] theorem State.softOn1_role (c) : (s.softOn1 c).role = s.role := by simp [softOn1]
@[simp] theorem State.toSoftOn_role (c) : (s.toSoftOn c).role = s.role := by simp [toSoftOn]
@[simp] theorem State.restart_role (c) : (s.restart c).role = s.role := by simp [restart]
@[simp] theorem State.tasteResult_role (c r) : (s.tasteResult c r).role = s.role := by simp [tasteResult]
@[simp] theorem State.tasteDecide_role (c r) : (s.tasteDecide c r).role = s.role := by simp [tasteDecide]
@[simp] theorem State.tasteAbort_role (c) : (s.tasteAbort c).role = s.role := by simp [tasteAbort]
@[simp] theorem State.settle1_role (c0) : (s.settle1 c0).role = s.role := by
  unfold settle1; dsimp only; split <;> simp
@[simp] theorem State.settlePasses_role (n : Nat) (s : State) (d : Nat) : (settlePasses n s d).role = s.role := by
  induction n generalizing s with
  | zero => rfl
  | succ n ih => simp [settlePasses, ih]
@[simp] theorem State.settleDie_role (d) : (s.settleDie d).role = s.role := by simp [settleDie]
@[simp] theorem State.regroup_role (old d) : (s.regroup old d).role = s.role := by simp [regroup]
@[simp] theorem State.settle_role (c) : (s.settle c).role = s.role := by simp [settle]
@[simp] theorem State.tripMark_role (c cause) : (s.tripMark c cause).role = s.role := by simp [tripMark]
@[simp] theorem State.tripCh_role (c causes) : (s.tripCh c causes).role = s.role := by simp [tripCh]
@[simp] theorem State.latchOnly_role (c cause) : (s.latchOnly c cause).role = s.role := by simp [latchOnly]
@[simp] theorem State.linesOff_role (d) : (s.linesOff d).role = s.role := by simp [linesOff]
@[simp] theorem State.limpEnter_role (d) : (s.limpEnter d).role = s.role := by simp [limpEnter]
@[simp] theorem State.putCtl_role (c v) : (s.putCtl c v).role = s.role := by simp [putCtl]
@[simp] theorem State.putCfg_role (c v) : ansRole (s.putCfg c v) = s.role := by simp [putCfg]
@[simp] theorem State.putDrv_role (c v) : ansRole (s.putDrv c v) = s.role := by simp [putDrv]
@[simp] theorem State.holdReport_role (d) : (s.holdReport d).role = s.role := by simp [holdReport]
@[simp] theorem State.putLimp_role (c v elapsed) : ansRole (s.putLimp c v elapsed) = s.role := by simp [putLimp]
@[simp] theorem State.putTaste_role (c v) : ansRole (s.putTaste c v) = s.role := by simp [putTaste]
@[simp] theorem State.putCh_role (t c off v elapsed) : ansRole (s.putCh t c off v elapsed) = s.role := by simp [putCh]

/-! #### Engine threads -/

@[simp] theorem State.setQreg_role (e t i v) : (s.setQreg e t i v).role = s.role := by simp [setQreg]
@[simp] theorem State.setFlags_role (e t f) : (s.setFlags e t f).role = s.role := by simp [setFlags]
@[simp] theorem State.setThState_role (e t v) : (s.setThState e t v).role = s.role := by simp [setThState]
@[simp] theorem State.setQpc_role (e t pc) : (s.setQpc e t pc).role = s.role := by simp [setQpc]
@[simp] theorem State.thFault_role (e t cause) : (s.thFault e t cause).role = s.role := by simp [thFault]
@[simp] theorem State.retire_role (e t pc) : (s.retire e t pc).role = s.role := by simp [retire]
@[simp] theorem State.next1_role (e t) : (s.next1 e t).role = s.role := by simp [next1]
@[simp] theorem State.result_role (e t d v f) : (s.result e t d v f).role = s.role := by simp [result]
@[simp] theorem State.hold_role (e t h) : (s.hold e t h).role = s.role := by simp [hold]
@[simp] theorem State.holdSt_role (e t d st c) : (s.holdSt e t d st c).role = s.role := by simp [holdSt]
@[simp] theorem State.seEcc_role (e a im) : (s.seEcc e a im).role = s.role := by simp [seEcc]
@[simp] theorem State.issue_role (s : State) (e t w) (f : State → State) (hf : ∀ s, (f s).role = s.role) :
    (s.issue e t w f).role = s.role := by
  simp [issue, hf]
@[simp] theorem State.dataAccess_role (s : State) (e t x n align reads) (f : State → State)
    (hf : (f s).role = s.role) : (s.dataAccess e t x n align reads f).role = s.role := by
  unfold dataAccess; split <;> simp [hf]
@[simp] theorem State.lineDiscard_role (k rep) : (s.lineDiscard k rep).role = s.role := by simp [lineDiscard]
theorem State.lineQueue_role {s : State} {k e t at_ level r} (h : s.lineQueue k e t at_ level = some r) :
    ansRole r = s.role := by
  unfold lineQueue at h; dsimp only at h
  (repeat' split at h) <;> cases h <;> simp
@[simp] theorem State.threadGone_role (e t) : (s.threadGone e t).role = s.role := by simp [threadGone]
@[simp] theorem State.thHalt_role (e t) : (s.thHalt e t).role = s.role := by simp [thHalt]
@[simp] theorem State.thStart_role (e t) : (s.thStart e t).role = s.role := by simp [thStart]
@[simp] theorem State.thStep_role (e t) : (s.thStep e t).role = s.role := by simp [thStep]
@[simp] theorem State.thWipe_role (e t) : (s.thWipe e t).role = s.role := by simp [thWipe]
@[simp] theorem State.putTctl_role (e t v) : ansRole (s.putTctl e t v) = s.role := by simp [putTctl]
@[simp] theorem State.putThread_role (e t r v) : ansRole (s.putThread e t r v) = s.role := by simp [putThread]
@[simp] theorem State.putDoor_role (g e t v) : ansRole (s.putDoor g e t v) = s.role := by simp [putDoor]
@[simp] theorem State.putBind_role (g k v) : ansRole (s.putBind g k v) = s.role := by simp [putBind]
@[simp] theorem State.putMsub_role (e j v) : ansRole (s.putMsub e j v) = s.role := by simp [putMsub]
@[simp] theorem State.putSec_role (g e o v) : ansRole (s.putSec g e o v) = s.role := by simp [putSec]
@[simp] theorem State.engTake_role (e x) : (s.engTake e x).role = s.role := by simp [engTake]
@[simp] theorem State.subscribe_role (e j m) : (s.subscribe e j m).role = s.role := by simp [subscribe]
@[simp] theorem State.measArrive_role (m) : (s.measArrive m).role = s.role := by simp [measArrive]
@[simp] theorem State.measSend_role (d x) : (s.measSend d x).role = s.role := by simp [measSend]

/-! #### The Cellar -/

@[simp] theorem State.clrCnt_role (k) : (s.clrCnt k).role = s.role := by simp [clrCnt]
@[simp] theorem State.snapEnd_role (st) : (s.snapEnd st).role = s.role := by simp [snapEnd]
@[simp] theorem State.snapSave_role (h write) : (s.snapSave h write).role = s.role := by
  unfold snapSave; split <;> simp
@[simp] theorem State.setDs_role (k v) : (s.setDs k v).role = s.role := by simp [setDs]
@[simp] theorem State.dsFire_role (k at_) : (s.dsFire k at_).role = s.role := by simp [dsFire]
@[simp] theorem State.dsWrite_role (k) : (s.dsWrite k).role = s.role := by simp [dsWrite]
@[simp] theorem State.dsRestart_role (k) : (s.dsRestart k).role = s.role := by simp [dsRestart]
@[simp] theorem State.dsRelease_role (k) : (s.dsRelease k).role = s.role := by simp [dsRelease]
@[simp] theorem State.putDs_role (t k r v) : ansRole (s.putDs t k r v) = s.role := by simp [putDs]
@[simp] theorem execDecantConfigWrite_role (a k r v) : outRole (execDecantConfigWrite a k r v s) = s.role := by
  simp [execDecantConfigWrite]
@[simp] theorem execDecantFire_role (k) : outRole (execDecantFire k s) = s.role := by
  unfold execDecantFire; split <;> simp
@[simp] theorem State.enMend_role (h) : (s.enMend h).role = s.role := by simp [enMend]
@[simp] theorem State.enAccept_role (h v date) : (s.enAccept h v date).role = s.role := by simp [enAccept]
@[simp] theorem State.enWrite_role (t h v date) : ansRole (s.enWrite t h v date) = s.role := by simp [enWrite]
@[simp] theorem State.enStore_role (s : State) (h w wide v) (f : State → Nat → Word → State)
    (hf : ∀ s n v, (f s n v).role = s.role) : ansRole (s.enStore h w wide v f) = s.role := by
  simp [enStore, hf]
@[simp] theorem State.enRestoreWord_role (h w v) : (s.enRestoreWord h w v).role = s.role := by simp [enRestoreWord]
@[simp] theorem State.putEntry_role (t h w wide v) : ansRole (s.putEntry t h w wide v) = s.role := by simp [putEntry]
@[simp] theorem State.getEntry_role (t h w wide) : dataRole (s.getEntry t h w wide) = s.role := by simp [getEntry]
@[simp] theorem execCellarWindowValueWrite_role (a h wide v) :
    outRole (execCellarWindowValueWrite a h wide v s) = s.role := by
  simp [execCellarWindowValueWrite]
@[simp] theorem execCellarConfigWrite_role (a h w wide v) :
    outRole (execCellarConfigWrite a h w wide v s) = s.role := by
  simp [execCellarConfigWrite]
@[simp] theorem State.enUncorr_role (h k) : (s.enUncorr h k).role = s.role := by simp [enUncorr]
@[simp] theorem State.enTenant_role (t) : (s.enTenant t).role = s.role := by simp [enTenant]
@[simp] theorem State.nwState_role (e st) : (s.nwState e st).role = s.role := by simp [nwState]
@[simp] theorem State.nodeWatch_role (src f) : (s.nodeWatch src f).role = s.role := by
  unfold nodeWatch; (repeat' split) <;> simp
@[simp] theorem State.setTxTun_role (t v) : (s.setTxTun t v).role = s.role := by simp [setTxTun]
@[simp] theorem State.tunSend_role (t) : (s.tunSend t).role = s.role := by simp [tunSend]
@[simp] theorem State.tunPack_role (t f) : (s.tunPack t f).role = s.role := by simp [tunPack]
@[simp] theorem State.routeTo_role (dst f w1 w2 w3) : (s.routeTo dst f w1 w2 w3).role = s.role := by
  unfold routeTo; dsimp only; split <;> simp
@[simp] theorem State.route_role (s : State) (src f) : (s.route src f).1.role = s.role := by
  unfold route; dsimp only
  split
  · simp
  · split <;> simp
@[simp] theorem State.putRoute_role (e w v) : ansRole (s.putRoute e w v) = s.role := by simp [putRoute]
@[simp] theorem State.putNode_role (e w v) : ansRole (s.putNode e w v) = s.role := by simp [putNode]
@[simp] theorem State.putTable_role (o v) : ansRole (s.putTable o v) = s.role := by simp [putTable]
@[simp] theorem State.snapTake_role (first last dst forPair) :
    ansRole (s.snapTake first last dst forPair) = s.role := by
  simp [snapTake]
@[simp] theorem State.snapGo_role : ansRole (s.snapGo) = s.role := by simp [snapGo]
@[simp] theorem State.snapCopy_role (n) : (s.snapCopy n).role = s.role := by simp [snapCopy]
@[simp] theorem State.snapRun_role (k : Nat) (s : State) : (snapRun k s).role = s.role := by
  induction k generalizing s with
  | zero => rfl
  | succ n ih => unfold snapRun; split <;> simp [ih]
@[simp] theorem execSnapComplete_role : outRole (execSnapComplete s) = s.role := by
  unfold execSnapComplete; split <;> simp
@[simp] theorem execSnapCopierEscalate_role : outRole (execSnapCopierEscalate s) = s.role := by
  unfold execSnapCopierEscalate; split <;> simp
@[simp] theorem State.clrCntRst_role : (s.clrCntRst).role = s.role := by simp [clrCntRst]
@[simp] theorem State.putClr_role (t o v) : ansRole (s.putClr t o v) = s.role := by simp [putClr]
@[simp] theorem execClrCntRst_role (a) : outRole (execClrCntRst a s) = s.role := by simp [execClrCntRst]
@[simp] theorem execRouteEntryCommit_role (a e v) : outRole (execRouteEntryCommit a e v s) = s.role := by
  simp [execRouteEntryCommit]
@[simp] theorem execNodeWatchCommit_role (a e v) : outRole (execNodeWatchCommit a e v s) = s.role := by
  simp [execNodeWatchCommit]
@[simp] theorem execSnapGo_role (a) : outRole (execSnapGo a s) = s.role := by simp [execSnapGo]
@[simp] theorem execSnapAbort_role (a) : outRole (execSnapAbort a s) = s.role := by simp [execSnapAbort]
@[simp] theorem State.sweepEntry_role (h) : (s.sweepEntry h).role = s.role := by simp [sweepEntry]
@[simp] theorem State.sweepNode_role (e) : (s.sweepNode e).role = s.role := by simp [sweepNode]
@[simp] theorem execSweeperPass_role (us) : outRole (execSweeperPass us s) = s.role := by simp [execSweeperPass]
@[simp] theorem execSweepOverrun_role : outRole (execSweepOverrun s) = s.role := by simp [execSweepOverrun]
@[simp] theorem execTunnelHoldExpiry_role (t) : outRole (execTunnelHoldExpiry t s) = s.role := by
  simp [execTunnelHoldExpiry]
@[simp] theorem State.tunDeliver_role (t f) : (s.tunDeliver t f).role = s.role := by simp [tunDeliver]
@[simp] theorem State.tunMsgs_role (s : State) (t at_) (n : Nat) (l) : (s.tunMsgs t at_ n l).role = s.role := by
  induction n generalizing s l with
  | zero => rfl
  | succ n ih => unfold tunMsgs; dsimp only; (repeat' split) <;> simp [ih]
@[simp] theorem State.tunTake_role (t pdu at_) : (s.tunTake t pdu at_).role = s.role := by simp [tunTake]

/-! #### CAN -/

@[simp] theorem State.canOff_role (n) : (s.canOff n).role = s.role := by simp [canOff]
@[simp] theorem State.canFrameEnd_role (n) : (s.canFrameEnd n).role = s.role := by simp [canFrameEnd]
@[simp] theorem State.canSetMode_role (n m) : (s.canSetMode n m).role = s.role := by simp [canSetMode]
@[simp] theorem State.canCntRst_role (n) : (s.canCntRst n).role = s.role := by simp [canCntRst]
@[simp] theorem State.canAdd_role (n i k) : (s.canAdd n i k).role = s.role := by simp [canAdd]
@[simp] theorem State.tatRestart_role (n k) : (s.tatRestart n k).role = s.role := by simp [tatRestart]
@[simp] theorem State.putTat_role (t n k r v) : ansRole (s.putTat t n k r v) = s.role := by simp [putTat]
@[simp] theorem State.tatWipe_role (n k) : (s.tatWipe n k).role = s.role := by simp [tatWipe]
@[simp] theorem State.tatMissed_role (n k) : (s.tatMissed n k).role = s.role := by simp [tatMissed]
@[simp] theorem execTatDue_role (n k) : outRole (execTatDue n k s) = s.role := by unfold execTatDue; split <;> simp
@[simp] theorem execTatWindowExpiry_role (n k) : outRole (execTatWindowExpiry n k s) = s.role := by
  unfold execTatWindowExpiry; split <;> simp
@[simp] theorem State.tatDone_role (n k) : (s.tatDone n k).role = s.role := by simp [tatDone]
@[simp] theorem State.canDiscard_role (n w) : (s.canDiscard n w).role = s.role := by unfold canDiscard; split <;> simp
@[simp] theorem State.canRetry_role (n) : (s.canRetry n).role = s.role := by unfold canRetry; split <;> simp
@[simp] theorem State.dropStale_role (s : State) (n k : Nat) : (s.dropStale n k).role = s.role := by
  induction k generalizing s with
  | zero => rfl
  | succ n ih => unfold dropStale; split <;> simp [ih]
@[simp] theorem State.canOffer_role (s : State) (n) : (s.canOffer n).role = s.role := by
  unfold canOffer; split
  · rfl
  · split
    · simp
    · dsimp only; split <;> simp
@[simp] theorem execCanArbitrationStart_role (n) : outRole (execCanArbitrationStart n s) = s.role := by
  simp [execCanArbitrationStart]
@[simp] theorem execCanArbitrationLost_role (n) : outRole (execCanArbitrationLost n s) = s.role := by
  simp [execCanArbitrationLost]
@[simp] theorem State.canCounters_role (n tec rec) : (s.canCounters n tec rec).role = s.role := by simp [canCounters]
@[simp] theorem State.canError_role (n lec late exempt) : (s.canError n lec late exempt).role = s.role := by
  simp [canError]
@[simp] theorem execCanBusError_role (n lec late exempt) :
    outRole (execCanBusError n lec late exempt s) = s.role := by
  simp [execCanBusError]
@[simp] theorem execCanProtocolException_role (n) : outRole (execCanProtocolException n s) = s.role := by
  simp [execCanProtocolException]
@[simp] theorem execCanBusIntegration_role (n) : outRole (execCanBusIntegration n s) = s.role := by
  simp [execCanBusIntegration]
@[simp] theorem execCanBusoffRecoveryStart_role (n) : outRole (execCanBusoffRecoveryStart n s) = s.role := by
  simp [execCanBusoffRecoveryStart]
@[simp] theorem execCanBusoffRecovered_role (n) : outRole (execCanBusoffRecovered n s) = s.role := by
  simp [execCanBusoffRecovered]
@[simp] theorem State.canStore_role (n q f) : (s.canStore n q f).role = s.role := by simp [canStore]
@[simp] theorem State.canAccept_role (n f time) : (s.canAccept n f time).role = s.role := by simp [canAccept]
@[simp] theorem State.recAfterFrame_role (rec) : ansRole (s.recAfterFrame rec) = s.role := by simp [recAfterFrame]
@[simp] theorem execCanFrameReceive_role (n f) : outRole (execCanFrameReceive n f s) = s.role := by
  simp [execCanFrameReceive]
@[simp] theorem execCanFrameSent_role (s : State) (n) : outRole (execCanFrameSent n s) = s.role := by
  unfold execCanFrameSent; dsimp only
  split
  · simp
  · next w f _ => cases w <;> simp
@[simp] theorem execCanTransceiverFault_role (n cause) : outRole (execCanTransceiverFault n cause s) = s.role := by
  simp [execCanTransceiverFault]
@[simp] theorem execCanTransceiverRecover_role (n cause) :
    outRole (execCanTransceiverRecover n cause s) = s.role := by
  simp [execCanTransceiverRecover]
@[simp] theorem State.putCanCtl_role (n v) : ansRole (s.putCanCtl n v) = s.role := by simp [putCanCtl]
@[simp] theorem State.putCanRam_role (n v) : ansRole (s.putCanRam n v) = s.role := by simp [putCanRam]
@[simp] theorem State.putFilter_role (n e w v) : ansRole (s.putFilter n e w v) = s.role := by simp [putFilter]
@[simp] theorem State.putCanTxc_role (n v) : (s.putCanTxc n v).role = s.role := by simp [putCanTxc]
@[simp] theorem State.putCan_role (t n o v) : ansRole (s.putCan t n o v) = s.role := by simp [putCan]
@[simp] theorem execCanModeSet_role (a n mode cntRst) : outRole (execCanModeSet a n mode cntRst s) = s.role := by
  simp [execCanModeSet]
@[simp] theorem execCanCntRst_role (a n) : outRole (execCanCntRst a n s) = s.role := by simp [execCanCntRst]
@[simp] theorem execCanConfigWrite_role (a n r v) : outRole (execCanConfigWrite a n r v s) = s.role := by
  simp [execCanConfigWrite]
@[simp] theorem execCanRamWrite_role (a n v) : outRole (execCanRamWrite a n v s) = s.role := by simp [execCanRamWrite]
@[simp] theorem execCanRecover_role (a n) : outRole (execCanRecover a n s) = s.role := by simp [execCanRecover]
@[simp] theorem execCanTmodeWrite_role (a n m) : outRole (execCanTmodeWrite a n m s) = s.role := by
  simp [execCanTmodeWrite]
@[simp] theorem execCanFilterCommit_role (a n e v) : outRole (execCanFilterCommit a n e v s) = s.role := by
  simp [execCanFilterCommit]
@[simp] theorem execTatCommit_role (a n k v) : outRole (execTatCommit a n k v s) = s.role := by simp [execTatCommit]
@[simp] theorem execTatTimeWrite_role (a n k per v) : outRole (execTatTimeWrite a n k per v s) = s.role := by
  simp [execTatTimeWrite]

/-! #### Channels -/

@[simp] theorem execChClear_role (a c) : outRole (execChClear a c s) = s.role := by simp [execChClear]
@[simp] theorem execChEn_role (a c en) : outRole (execChEn a c en s) = s.role := by simp [execChEn]
@[simp] theorem execChSwOn_role (a c on) : outRole (execChSwOn a c on s) = s.role := by simp [execChSwOn]
@[simp] theorem execChCfgWrite_role (a c v) : outRole (execChCfgWrite a c v s) = s.role := by simp [execChCfgWrite]
@[simp] theorem execDinEdge_role (k level) : outRole (execDinEdge k level s) = s.role := by simp [execDinEdge]
@[simp] theorem execSoftOnComplete_role (c) : outRole (execSoftOnComplete c s) = s.role := by
  simp [execSoftOnComplete]
@[simp] theorem execSoftTurnOnTimeout_role (c also) : outRole (execSoftTurnOnTimeout c s also) = s.role := by
  simp [execSoftTurnOnTimeout]
@[simp] theorem execInrushWindowClose_role (c) : outRole (execInrushWindowClose c s) = s.role := by
  simp [execInrushWindowClose]
@[simp] theorem execOcTrip_role (c also) : outRole (execOcTrip c also s) = s.role := by simp [execOcTrip]
@[simp] theorem execHardLimitEntry_role (c) : outRole (execHardLimitEntry c s) = s.role := by
  simp [execHardLimitEntry]
@[simp] theorem execHardLimitExit_role (c) : outRole (execHardLimitExit c s) = s.role := by simp [execHardLimitExit]
@[simp] theorem execWireModelUpdate_role (c mA) : outRole (execWireModelUpdate c mA s) = s.role := by
  simp [execWireModelUpdate]
@[simp] theorem execThermalWarn_role (c above) : outRole (execThermalWarn c above s) = s.role := by
  simp [execThermalWarn]
@[simp] theorem execThermalShutdown_role (c also) : outRole (execThermalShutdown c s also) = s.role := by
  simp [execThermalShutdown]
@[simp] theorem execThermalLatchClear_role (c) : outRole (execThermalLatchClear c s) = s.role := by
  simp [execThermalLatchClear]
@[simp] theorem execUvDetect_role (d) : outRole (execUvDetect d s) = s.role := by
  unfold execUvDetect; dsimp only; (repeat' split) <;> simp
@[simp] theorem execUvClear_role (d) : outRole (execUvClear d s) = s.role := by simp [execUvClear]
@[simp] theorem State.staggerStart_role (c) : (s.staggerStart c).role = s.role := by simp [staggerStart]
@[simp] theorem execStaggerSlot_role (d) : outRole (execStaggerSlot d s) = s.role := by simp [execStaggerSlot]
@[simp] theorem execRetryDelayExpiry_role (c) : outRole (execRetryDelayExpiry c s) = s.role := by
  simp [execRetryDelayExpiry]
@[simp] theorem execRetryGoodExpiry_role (c) : outRole (execRetryGoodExpiry c s) = s.role := by
  simp [execRetryGoodExpiry]
@[simp] theorem execReverseCurrentBlock_role (c) : outRole (execReverseCurrentBlock c s) = s.role := by
  simp [execReverseCurrentBlock]
@[simp] theorem execReverseBlockRelease_role (c) : outRole (execReverseBlockRelease c s) = s.role := by
  simp [execReverseBlockRelease]
@[simp] theorem execReverseBattery_role (d) : outRole (execReverseBattery d s) = s.role := by
  simp [execReverseBattery]
@[simp] theorem execReverseBatteryEnd_role (d) : outRole (execReverseBatteryEnd d s) = s.role := by
  simp [execReverseBatteryEnd]
@[simp] theorem execParShareFault_role (c) : outRole (execParShareFault c s) = s.role := by simp [execParShareFault]
@[simp] theorem State.dieReset_role (d) : (s.dieReset d).role = s.role := by simp [dieReset]
@[simp] theorem execDieSupplyLoss_role (d) : outRole (execDieSupplyLoss d s) = s.role := by simp [execDieSupplyLoss]
@[simp] theorem execDieSupplyStart_role (d) : outRole (execDieSupplyStart d s) = s.role := by
  simp [execDieSupplyStart]
@[simp] theorem State.setCalSlot_role (d slotB v) : (s.setCalSlot d slotB v).role = s.role := by simp [setCalSlot]
@[simp] theorem execConverterHandover_role (d) : outRole (execConverterHandover d s) = s.role := by
  unfold execConverterHandover; dsimp only; split <;> simp
@[simp] theorem execCalibrationComplete_role (d slotB ok) :
    outRole (execCalibrationComplete d slotB ok s) = s.role := by
  simp [execCalibrationComplete]
@[simp] theorem State.onDiag_role (c v) : (s.onDiag c v).role = s.role := by simp [onDiag]
@[simp] theorem State.fifoTake_role (d x) : (s.fifoTake d x).role = s.role := by simp [fifoTake]
@[simp] theorem State.monTake_role (c k v) : (s.monTake c k v).role = s.role := by simp [monTake]
@[simp] theorem execMeasSample_role (c kind value time) : outRole (execMeasSample c kind value time s) = s.role := by
  simp [execMeasSample]
@[simp] theorem State.popDie_role (t d) : dataRole (s.popDie t d) = s.role := by
  unfold popDie; (repeat' split) <;> simp
@[simp] theorem execMeasPop_role (a d) : outRole (execMeasPop a d s) = s.role := by simp [execMeasPop]
@[simp] theorem State.putMeasCfg_role (t d v) : ansRole (s.putMeasCfg t d v) = s.role := by simp [putMeasCfg]
@[simp] theorem execMeasOvfRst_role (a d) : outRole (execMeasOvfRst a d s) = s.role := by simp [execMeasOvfRst]
@[simp] theorem execMeasDecSet_role (a d dec) : outRole (execMeasDecSet a d dec s) = s.role := by
  simp [execMeasDecSet]
@[simp] theorem execDieMonitorUpdate_role (d iSum pEst) : outRole (execDieMonitorUpdate d iSum pEst s) = s.role := by
  simp [execDieMonitorUpdate]

/-! #### Drive sources -/

@[simp] theorem execChDrvWrite_role (a c v) : outRole (execChDrvWrite a c v s) = s.role := by simp [execChDrvWrite]
@[simp] theorem execChLimpWrite_role (a c v elapsed) : outRole (execChLimpWrite a c v elapsed s) = s.role := by
  simp [execChLimpWrite]
@[simp] theorem State.lineApply_role (k level) : (s.lineApply k level).role = s.role := by
  unfold lineApply; dsimp only; split <;> simp
@[simp] theorem State.lineLate_role (k) : (s.lineLate k).role = s.role := by unfold lineLate; split <;> simp
@[simp] theorem execDriveEdgeReceive_role (s : State) (ln) : outRole (execDriveEdgeReceive ln s) = s.role := by
  unfold execDriveEdgeReceive; dsimp only
  (repeat' split) <;> simp
@[simp] theorem execDriveEdgeApply_role (ln) : outRole (execDriveEdgeApply ln s) = s.role := by
  unfold execDriveEdgeApply; split <;> simp
@[simp] theorem execDriveLineTimeout_role (ln) : outRole (execDriveLineTimeout ln s) = s.role := by
  simp [execDriveLineTimeout]
@[simp] theorem State.putSinCfg_role (t n v) : ansRole (s.putSinCfg t n v) = s.role := by simp [putSinCfg]
@[simp] theorem State.putSinThr_role (t n v) : ansRole (s.putSinThr t n v) = s.role := by simp [putSinThr]
@[simp] theorem execSinCfgWrite_role (a n v) : outRole (execSinCfgWrite a n v s) = s.role := by simp [execSinCfgWrite]
@[simp] theorem State.frontTake_role (x) : (s.frontTake x).role = s.role := by simp [frontTake]
@[simp] theorem execSinSample_role (s : State) (n v t) : outRole (execSinSample n v t s) = s.role := by
  unfold execSinSample
  split
  extract_lets cfg thr
  split
  refine (State.role_ite _ _ _).trans ?_
  split
  · split
    rw [State.measSend_role, State.role_ite, State.frontTake_role, ite_self, State.role_mk, State.front_role,
      State.wr_role, State.setSin_role]
  · simp
@[simp] theorem State.popFront_role (t) : dataRole (s.popFront t) = s.role := by
  unfold popFront; (repeat' split) <;> simp
@[simp] theorem execFmeasPop_role (a) : outRole (execFmeasPop a s) = s.role := by simp [execFmeasPop]
@[simp] theorem State.putFmeasCfg_role (t v) : ansRole (s.putFmeasCfg t v) = s.role := by simp [putFmeasCfg]
@[simp] theorem execFmeasOvfRst_role (a) : outRole (execFmeasOvfRst a s) = s.role := by simp [execFmeasOvfRst]
@[simp] theorem State.offStatus_role (c b fault n) : (s.offStatus c b fault n).role = s.role := by simp [offStatus]
@[simp] theorem execOffDiagEvalStart_role (c vout) : outRole (execOffDiagEvalStart c vout s) = s.role := by
  simp [execOffDiagEvalStart]
@[simp] theorem execOffDiagEvalCompare_role (c vout) : outRole (execOffDiagEvalCompare c vout s) = s.role := by
  simp [execOffDiagEvalCompare]
@[simp] theorem execHoldWindowExpiry_role (d elapsed) : outRole (execHoldWindowExpiry d elapsed s) = s.role := by
  simp [execHoldWindowExpiry]
@[simp] theorem State.putLimpCtl_role (t d v) : ansRole (s.putLimpCtl t d v) = s.role := by simp [putLimpCtl]
@[simp] theorem execLimpAdopt_role (a d) : outRole (execLimpAdopt a d s) = s.role := by simp [execLimpAdopt]
@[simp] theorem execTasteGo_role (a c) : outRole (execTasteGo a c s) = s.role := by simp [execTasteGo]
@[simp] theorem execTasteAbort_role (a c) : outRole (execTasteAbort a c s) = s.role := by simp [execTasteAbort]
@[simp] theorem execTasteStart_role (d) : outRole (execTasteStart d s) = s.role := by
  unfold execTasteStart; dsimp only; (repeat' split) <;> simp
@[simp] theorem State.onTaste_role (s : State) (d) (f : Nat → State) (hf : ∀ c, (f c).role = s.role) :
    (s.onTaste d f).role = s.role := by
  unfold onTaste; split <;> simp [hf]
@[simp] theorem execTasteVoutCheck_role (d vout) : outRole (execTasteVoutCheck d vout s) = s.role := by
  simp [execTasteVoutCheck]
@[simp] theorem execTasteVoutFault_role (d high) : outRole (execTasteVoutFault d high s) = s.role := by
  simp [execTasteVoutFault]
@[simp] theorem execTasteNoAnswer_role (d) : outRole (execTasteNoAnswer d s) = s.role := by simp [execTasteNoAnswer]
@[simp] theorem execTasteDelimiterSeen_role (d) : outRole (execTasteDelimiterSeen d s) = s.role := by
  simp [execTasteDelimiterSeen]
@[simp] theorem State.tasteKeep_role (c f) : (s.tasteKeep c f).role = s.role := by simp [tasteKeep]
@[simp] theorem execTasteFrame_role (s : State) (d f) : outRole (execTasteFrame d f s) = s.role := by
  simp only [execTasteFrame, outRole_next]
  refine s.onTaste_role _ _ fun c => ?_
  (repeat' split) <;> simp
@[simp] theorem execTasteEnd_role (d) : outRole (execTasteEnd d s) = s.role := by
  unfold execTasteEnd; dsimp only; split <;> simp

/-! #### The time base -/

@[simp] theorem State.epochMove_role (up) : (s.epochMove up).role = s.role := by simp [epochMove]
@[simp] theorem State.frontTicks_role (n) : (s.frontTicks n).role = s.role := by simp [frontTicks]
@[simp] theorem State.ticksOn_role (n) : (s.ticksOn n).role = s.role := by simp [ticksOn]
@[simp] theorem execTbWrap_role : outRole (execTbWrap s) = s.role := by simp [execTbWrap]
@[simp] theorem State.evMissed_role (k n) : (s.evMissed k n).role = s.role := by simp [evMissed]
@[simp] theorem State.evRestart_role (k) : (s.evRestart k).role = s.role := by simp [evRestart]
@[simp] theorem State.evStep_role (before d k) : (s.evStep before d k).role = s.role := by simp [evStep]
@[simp] theorem execEvtOutputEdge_role (k) : outRole (execEvtOutputEdge k s) = s.role := by simp [execEvtOutputEdge]
@[simp] theorem execEvtCaptureEdge_role (k rising sub) : outRole (execEvtCaptureEdge k rising sub s) = s.role := by
  simp [execEvtCaptureEdge]
@[simp] theorem State.putEv_role (t k r v) : ansRole (s.putEv t k r v) = s.role := by simp [putEv]
@[simp] theorem execEvtConfigWrite_role (a k r v) : outRole (execEvtConfigWrite a k r v s) = s.role := by
  simp [execEvtConfigWrite]
@[simp] theorem State.evRelease_role (k) : (s.evRelease k).role = s.role := by simp [evRelease]
@[simp] theorem State.dsStep_role (k) : (s.dsStep k).role = s.role := by unfold dsStep; split <;> simp
@[simp] theorem State.tatStep_role (n k) : (s.tatStep n k).role = s.role := by unfold tatStep; split <;> simp
@[simp] theorem State.lineStep_role (s : State) (before k) (n : Nat) : (s.lineStep before k n).role = s.role := by
  induction n generalizing s with
  | zero => rfl
  | succ n ih => unfold lineStep; split <;> simp [ih]
@[simp] theorem State.stepTime_role (v) : (s.stepTime v).role = s.role := by simp [stepTime]
@[simp] theorem execTbCopyResync_role (copy) : outRole (execTbCopyResync copy s) = s.role := by
  simp [execTbCopyResync]
@[simp] theorem State.tsLost_role (p) : (s.tsLost p).role = s.role := by simp [tsLost]
@[simp] theorem State.tsWait_role (p r) : (s.tsWait p r).role = s.role := by simp [tsWait]
@[simp] theorem State.tsRecord_role (p r) : (s.tsRecord p r).role = s.role := by simp [tsRecord]
@[simp] theorem execTxtsRecordDrain_role (p) : outRole (execTxtsRecordDrain p s) = s.role := by
  unfold execTxtsRecordDrain; dsimp only; split <;> simp
@[simp] theorem State.putTbu_role (t o v) : ansRole (s.putTbu t o v) = s.role := by simp [putTbu]
@[simp] theorem execTbIncWrite_role (a v) : outRole (execTbIncWrite a v s) = s.role := by simp [execTbIncWrite]
@[simp] theorem execTbStepWrite_role (a v) : outRole (execTbStepWrite a v s) = s.role := by simp [execTbStepWrite]

/-! #### Switch ports -/

@[simp] theorem State.fdbLearn_role (mac fid p) : (s.fdbLearn mac fid p).role = s.role := by
  unfold fdbLearn; (repeat' split) <;> simp
@[simp] theorem State.fdbDrop_role (q) : (s.fdbDrop q).role = s.role := by simp [fdbDrop]
@[simp] theorem State.fdbPort_role (p) : (s.fdbPort p).role = s.role := by simp [fdbPort]
@[simp] theorem State.setMeter_role (m v) : (s.setMeter m v).role = s.role := by simp [setMeter]
@[simp] theorem State.meterTake_role (m f) : ansRole (s.meterTake m f) = s.role := by simp [meterTake]
@[simp] theorem State.setFrer_role (r v) : (s.setFrer r v).role = s.role := by simp [setFrer]
@[simp] theorem State.frerCnt_role (r w) : (s.frerCnt r w).role = s.role := by simp [frerCnt]
@[simp] theorem State.frerPassed_role (r) : ansRole (s.frerPassed r) = s.role := by simp [frerPassed]
@[simp] theorem State.frerPass_role (r seq h) : ansRole (s.frerPass r seq h) = s.role := by simp [frerPass]
@[simp] theorem State.frerTake_role (r seq) : ansRole (s.frerTake r seq) = s.role := by
  unfold frerTake; dsimp only; (repeat' split) <;> simp
@[simp] theorem State.strDrop_role (f) : ansRole (s.strDrop f) = s.role := by simp [strDrop]
@[simp] theorem State.strSeq_role (h f) : ansRole (s.strSeq h f) = s.role := by simp [strSeq]
@[simp] theorem State.psfp_role (f) : ansRole (s.psfp f) = s.role := by unfold psfp; split <;> simp
@[simp] theorem State.tasStep_role (p) : (s.tasStep p).role = s.role := by simp [tasStep]
@[simp] theorem State.setCredit_role (p c v) : (s.setCredit p c v).role = s.role := by simp [setCredit]
@[simp] theorem State.creditAll_role (p) : (s.creditAll p).role = s.role := by simp [creditAll]
@[simp] theorem execTbStepApply_role : outRole (execTbStepApply s) = s.role := by
  unfold execTbStepApply; split <;> simp
@[simp] theorem State.ptpRecord_role (p f time sub status) : (s.ptpRecord p f time sub status).role = s.role := by
  unfold ptpRecord; split <;> simp
@[simp] theorem State.txLost_role (p f) : (s.txLost p f).role = s.role := by simp [txLost]

/-! #### The partner -/

@[simp] theorem State.permitSync_role : (s.permitSync).role = s.role := by simp [permitSync]
@[simp] theorem State.peerSync_role : (s.peerSync).role = s.role := by simp [peerSync]
@[simp] theorem State.pairDrain_role (s : State) (l) : (s.pairDrain l).role = s.role := by
  induction l generalizing s with
  | nil => rfl
  | cons b r ih => simp [pairDrain, ih]
@[simp] theorem State.pairSend_role (typ payload) : (s.pairSend typ payload).role = s.role := by
  unfold pairSend; split <;> simp

/-! #### Bridge registers -/

@[simp] theorem State.setTxs_role (b l) : (s.setTxs b l).role = s.role := by simp [setTxs]
@[simp] theorem State.brDrop_role (b tag) : (s.brDrop b tag).role = s.role := by simp [brDrop]
@[simp] theorem State.brSet_role (b x) : (s.brSet b x).role = s.role := by simp [brSet]
@[simp] theorem State.brDone_role (b x st data) : (s.brDone b x st data).role = s.role := by simp [brDone]
@[simp] theorem State.lineUse_role (b l ws) : (s.lineUse b l ws).role = s.role := by simp [lineUse]
@[simp] theorem State.lineKeep_role (b l) : (s.lineKeep b l).role = s.role := by
  unfold lineKeep; dsimp only; split <;> simp
@[simp] theorem State.brSend_role (b x) : (s.brSend b x).role = s.role := by simp [brSend]
@[simp] theorem State.brPlace_role (s : State) (b n : Nat) : (s.brPlace b n).role = s.role := by
  induction n generalizing s with
  | zero => rfl
  | succ n ih => unfold brPlace; split <;> simp [ih]
@[simp] theorem State.brPump_role (s : State) (b n : Nat) : (s.brPump b n).role = s.role := by
  induction n generalizing s with
  | zero => rfl
  | succ n ih => unfold brPump; dsimp only; (repeat' split) <;> simp [ih]
@[simp] theorem State.brRun_role (b) : (s.brRun b).role = s.role := by simp [brRun]
@[simp] theorem State.brBack_role (s : State) (b x st data) : (s.brBack b x st data).role = s.role := by
  rw [brBack]
  split
  · rfl
  split
  · split <;> simp
  cases x.op with
  | amo k => dsimp only; split <;> simp
  | line => dsimp only; split <;> simp
  | _ => simp
@[simp] theorem State.brTimeout_role (b) : (s.brTimeout b).role = s.role := by unfold brTimeout; split <;> simp
@[simp] theorem State.brLost_role (b) : (s.brLost b).role = s.role := by simp [brLost]
@[simp] theorem State.pairLink_role : (s.pairLink).role = s.role := by simp [pairLink]

/-! #### The fabric -/

@[simp] theorem State.busEcc_role (a) : (s.busEcc a).role = s.role := by simp [busEcc]

/-! #### The cipher engine -/

@[simp] theorem State.setJob_role (j) : (s.setJob j).role = s.role := by simp [setJob]
@[simp] theorem State.jobEnd_role (j st auth out) : (s.jobEnd j st auth out).role = s.role := by simp [jobEnd]
@[simp] theorem State.jobPlace_role (j) : (s.jobPlace j).role = s.role := by simp [jobPlace]
@[simp] theorem State.cphAccept_role (t cask desc at_) : ansRole (s.cphAccept t cask desc at_) = s.role := by
  unfold cphAccept; (repeat' split) <;> simp
@[simp] theorem State.cphSubmit_role (t v) : ansRole (s.cphSubmit t v) = s.role := by simp [cphSubmit]
@[simp] theorem execCphSubmit_role (a v) : outRole (execCphSubmit a v s) = s.role := by simp [execCphSubmit]
@[simp] theorem State.cphMismatch_role (j) : (s.cphMismatch j).role = s.role := by simp [cphMismatch]
@[simp] theorem State.jobRun_role (s : State) (k op) (f : CphJob → State → State)
    (hf : ∀ j s, (f j s).role = s.role) : (s.jobRun k op f).role = s.role := by
  unfold jobRun; dsimp only; (repeat' split) <;> simp [hf]
@[simp] theorem State.ctxAlloc_role (j c) : ansRole (s.ctxAlloc j c) = s.role := by
  unfold ctxAlloc; (repeat' split) <;> simp
@[simp] theorem State.takeIv_role (j) : ansRole (s.takeIv j) = s.role := by simp [takeIv]
@[simp] theorem State.jobMove_role (j c) : (s.jobMove j c).role = s.role := by simp [jobMove]
@[simp] theorem State.jobParity_role (j a) : (s.jobParity j a).role = s.role := by simp [jobParity]
@[simp] theorem State.runCipher_role (s : State) (j m tf) : (s.runCipher j m tf).role = s.role := by
  unfold runCipher; dsimp only
  (repeat' split) <;> simp
@[simp] theorem execCphCipher_role (j mismatch tagFail) : outRole (execCphCipher j mismatch s tagFail) = s.role := by
  simp [execCphCipher]
@[simp] theorem execCphCmac_role (j mismatch tagFail) : outRole (execCphCmac j mismatch s tagFail) = s.role := by
  simp [execCphCmac]
@[simp] theorem State.runDerive_role (j mismatch tagFail) : (s.runDerive j mismatch tagFail).role = s.role := by
  unfold runDerive; (repeat' split) <;> simp
@[simp] theorem execCphDerive_role (j mismatch tagFail) : outRole (execCphDerive j mismatch s tagFail) = s.role := by
  simp [execCphDerive]
@[simp] theorem State.runImport_role (j mismatch tagFail) : (s.runImport j mismatch tagFail).role = s.role := by
  unfold runImport; (repeat' split) <;> simp
@[simp] theorem execCphImport_role (j mismatch tagFail) : outRole (execCphImport j mismatch s tagFail) = s.role := by
  simp [execCphImport]
@[simp] theorem execCphErase_role (j) : outRole (execCphErase j s) = s.role := by simp [execCphErase]
@[simp] theorem State.runSave_role (s : State) (j m tf) : (s.runSave j m tf).role = s.role := by
  unfold runSave; dsimp only
  (repeat' split) <;> simp
@[simp] theorem execCphSave_role (j mismatch tagFail) : outRole (execCphSave j mismatch s tagFail) = s.role := by
  simp [execCphSave]
@[simp] theorem State.rebind_role (s : State) (j c ticket) : (s.rebind j c ticket).role = s.role := by
  unfold rebind; dsimp only
  (repeat' split) <;> simp
@[simp] theorem State.runRestore_role (s : State) (j m tf) : (s.runRestore j m tf).role = s.role := by
  unfold runRestore; dsimp only
  (repeat' split) <;> simp
@[simp] theorem execCphRestore_role (j mismatch tagFail) :
    outRole (execCphRestore j mismatch s tagFail) = s.role := by
  simp [execCphRestore]
@[simp] theorem State.dropJob_role (k) : (s.dropJob k).role = s.role := by simp [dropJob]
@[simp] theorem State.jobLost_role (j) : (s.jobLost j).role = s.role := by simp [jobLost]
@[simp] theorem State.jobPost_role (j) : (s.jobPost j).role = s.role := by unfold jobPost; split <;> simp
@[simp] theorem execCphJobComplete_role (j) : outRole (execCphJobComplete j s) = s.role := by
  unfold execCphJobComplete; split <;> simp
@[simp] theorem execCphPendingTimeout_role (j) : outRole (execCphPendingTimeout j s) = s.role := by
  unfold execCphPendingTimeout; (repeat' split) <;> simp
@[simp] theorem execCphCompletionDrop_role (j) : outRole (execCphCompletionDrop j s) = s.role := by
  unfold execCphCompletionDrop; (repeat' split) <;> simp
@[simp] theorem State.cphAbort_role (p) : (s.cphAbort p).role = s.role := by simp [cphAbort]
@[simp] theorem State.cphPostAll_role : (s.cphPostAll).role = s.role := by simp [cphPostAll]

/-! #### Engine arithmetic -/

@[simp] theorem State.alu2_role (e t w d a b f) : (s.alu2 e t w d a b f).role = s.role := by simp [alu2]
@[simp] theorem State.alu1_role (e t w d a f) : (s.alu1 e t w d a f).role = s.role := by simp [alu1]
@[simp] theorem execAdd_role (e t d a b) : outRole (execAdd e t d a b s) = s.role := by simp [execAdd]
@[simp] theorem execAdds_role (e t d a b) : outRole (execAdds e t d a b s) = s.role := by simp [execAdds]
@[simp] theorem execAddsu_role (e t d a b) : outRole (execAddsu e t d a b s) = s.role := by simp [execAddsu]
@[simp] theorem execSub_role (e t d a b) : outRole (execSub e t d a b s) = s.role := by simp [execSub]
@[simp] theorem execSubs_role (e t d a b) : outRole (execSubs e t d a b s) = s.role := by simp [execSubs]
@[simp] theorem execSubsu_role (e t d a b) : outRole (execSubsu e t d a b s) = s.role := by simp [execSubsu]
@[simp] theorem execAnd_role (e t d a b) : outRole (execAnd e t d a b s) = s.role := by simp [execAnd]
@[simp] theorem execAndn_role (e t d a b) : outRole (execAndn e t d a b s) = s.role := by simp [execAndn]
@[simp] theorem execOr_role (e t d a b) : outRole (execOr e t d a b s) = s.role := by simp [execOr]
@[simp] theorem execOrn_role (e t d a b) : outRole (execOrn e t d a b s) = s.role := by simp [execOrn]
@[simp] theorem execXor_role (e t d a b) : outRole (execXor e t d a b s) = s.role := by simp [execXor]
@[simp] theorem execXnor_role (e t d a b) : outRole (execXnor e t d a b s) = s.role := by simp [execXnor]
@[simp] theorem execSll_role (e t d a b) : outRole (execSll e t d a b s) = s.role := by simp [execSll]
@[simp] theorem execSrl_role (e t d a b) : outRole (execSrl e t d a b s) = s.role := by simp [execSrl]
@[simp] theorem execSra_role (e t d a b) : outRole (execSra e t d a b s) = s.role := by simp [execSra]
@[simp] theorem execRor_role (e t d a b) : outRole (execRor e t d a b s) = s.role := by simp [execRor]
@[simp] theorem execMin_role (e t d a b) : outRole (execMin e t d a b s) = s.role := by simp [execMin]
@[simp] theorem execMax_role (e t d a b) : outRole (execMax e t d a b s) = s.role := by simp [execMax]
@[simp] theorem execMinu_role (e t d a b) : outRole (execMinu e t d a b s) = s.role := by simp [execMinu]
@[simp] theorem execMaxu_role (e t d a b) : outRole (execMaxu e t d a b s) = s.role := by simp [execMaxu]
@[simp] theorem execSlt_role (e t d a b) : outRole (execSlt e t d a b s) = s.role := by simp [execSlt]
@[simp] theorem execSltu_role (e t d a b) : outRole (execSltu e t d a b s) = s.role := by simp [execSltu]
@[simp] theorem execMul_role (e t d a b) : outRole (execMul e t d a b s) = s.role := by simp [execMul]
@[simp] theorem execMulh_role (e t d a b) : outRole (execMulh e t d a b s) = s.role := by simp [execMulh]
@[simp] theorem execMulhu_role (e t d a b) : outRole (execMulhu e t d a b s) = s.role := by simp [execMulhu]
@[simp] theorem execMulsh_role (e t d a b sh) : outRole (execMulsh e t d a b sh s) = s.role := by simp [execMulsh]
@[simp] theorem execDiv_role (e t d a b) : outRole (execDiv e t d a b s) = s.role := by simp [execDiv]
@[simp] theorem execDivu_role (e t d a b) : outRole (execDivu e t d a b s) = s.role := by simp [execDivu]
@[simp] theorem execRem_role (e t d a b) : outRole (execRem e t d a b s) = s.role := by simp [execRem]
@[simp] theorem execRemu_role (e t d a b) : outRole (execRemu e t d a b s) = s.role := by simp [execRemu]
@[simp] theorem execNeg_role (e t d a) : outRole (execNeg e t d a s) = s.role := by simp [execNeg]
@[simp] theorem execNegs_role (e t d a) : outRole (execNegs e t d a s) = s.role := by simp [execNegs]
@[simp] theorem execAbs_role (e t d a) : outRole (execAbs e t d a s) = s.role := by simp [execAbs]
@[simp] theorem execAbss_role (e t d a) : outRole (execAbss e t d a s) = s.role := by simp [execAbss]
@[simp] theorem execClz_role (e t d a) : outRole (execClz e t d a s) = s.role := by simp [execClz]
@[simp] theorem execCtz_role (e t d a) : outRole (execCtz e t d a s) = s.role := by simp [execCtz]
@[simp] theorem execPopc_role (e t d a) : outRole (execPopc e t d a s) = s.role := by simp [execPopc]
@[simp] theorem execRev8_role (e t d a) : outRole (execRev8 e t d a s) = s.role := by simp [execRev8]
@[simp] theorem execSextb_role (e t d a) : outRole (execSextb e t d a s) = s.role := by simp [execSextb]
@[simp] theorem execSexth_role (e t d a) : outRole (execSexth e t d a s) = s.role := by simp [execSexth]
@[simp] theorem execZexth_role (e t d a) : outRole (execZexth e t d a s) = s.role := by simp [execZexth]
@[simp] theorem execSats_role (e t d a n x) : outRole (execSats e t d a n x s) = s.role := by simp [execSats]
@[simp] theorem execSatu_role (e t d a n x) : outRole (execSatu e t d a n x s) = s.role := by simp [execSatu]
@[simp] theorem execCmp_role (e t a b) : outRole (execCmp e t a b s) = s.role := by simp [execCmp]
@[simp] theorem execTst_role (e t a b) : outRole (execTst e t a b s) = s.role := by simp [execTst]
@[simp] theorem execCrcStep_role (e t d a b poly n refl) :
    outRole (execCrcStep e t d a b poly n refl s) = s.role := by
  simp [execCrcStep]
@[simp] theorem execSel_role (e t d a b cond) : outRole (execSel e t d a b cond s) = s.role := by simp [execSel]
@[simp] theorem execAddi_role (e t d a imm) : outRole (execAddi e t d a imm s) = s.role := by simp [execAddi]
@[simp] theorem execAndi_role (e t d a imm) : outRole (execAndi e t d a imm s) = s.role := by simp [execAndi]
@[simp] theorem execOri_role (e t d a imm) : outRole (execOri e t d a imm s) = s.role := by simp [execOri]
@[simp] theorem execXori_role (e t d a imm) : outRole (execXori e t d a imm s) = s.role := by simp [execXori]
@[simp] theorem execSlli_role (e t d a k) : outRole (execSlli e t d a k s) = s.role := by simp [execSlli]
@[simp] theorem execSrli_role (e t d a k) : outRole (execSrli e t d a k s) = s.role := by simp [execSrli]
@[simp] theorem execSrai_role (e t d a k) : outRole (execSrai e t d a k s) = s.role := by simp [execSrai]
@[simp] theorem execRori_role (e t d a k) : outRole (execRori e t d a k s) = s.role := by simp [execRori]
@[simp] theorem execLui_role (e t d imm) : outRole (execLui e t d imm s) = s.role := by simp [execLui]
@[simp] theorem execCmpi_role (e t a imm) : outRole (execCmpi e t a imm s) = s.role := by simp [execCmpi]
@[simp] theorem execMuli_role (e t d a imm) : outRole (execMuli e t d a imm s) = s.role := by simp [execMuli]
@[simp] theorem State.qload_role (e t w d a imm n) : (s.qload e t w d a imm n).role = s.role := by simp [qload]
@[simp] theorem State.qstore_role (e t w d a imm n) : (s.qstore e t w d a imm n).role = s.role := by simp [qstore]
@[simp] theorem execLdb_role (e t d a imm) : outRole (execLdb e t d a imm s) = s.role := by simp [execLdb]
@[simp] theorem execLdh_role (e t d a imm) : outRole (execLdh e t d a imm s) = s.role := by simp [execLdh]
@[simp] theorem execLdw_role (e t d a imm) : outRole (execLdw e t d a imm s) = s.role := by simp [execLdw]
@[simp] theorem execStb_role (e t d a imm) : outRole (execStb e t d a imm s) = s.role := by simp [execStb]
@[simp] theorem execSth_role (e t d a imm) : outRole (execSth e t d a imm s) = s.role := by simp [execSth]
@[simp] theorem execStw_role (e t d a imm) : outRole (execStw e t d a imm s) = s.role := by simp [execStw]
@[simp] theorem State.bfAccess_role (s : State) (e t a pos len be) (f : Nat → State → State)
    (hf : ∀ x s, (f x s).role = s.role) : (s.bfAccess e t a pos len be f).role = s.role := by
  simp [bfAccess, hf]
@[simp] theorem execBfx_role (e t d a pos len be) : outRole (execBfx e t d a pos len be s) = s.role := by
  simp [execBfx]
@[simp] theorem execBfxs_role (e t d a pos len be) : outRole (execBfxs e t d a pos len be s) = s.role := by
  simp [execBfxs]
@[simp] theorem execBfi_role (e t d a pos len be) : outRole (execBfi e t d a pos len be s) = s.role := by
  simp [execBfi]
@[simp] theorem State.branch_role (e t off taken) : (s.branch e t off taken).role = s.role := by simp [branch]
@[simp] theorem execBcond_role (e t cond off) : outRole (execBcond e t cond off s) = s.role := by simp [execBcond]
@[simp] theorem execBl_role (e t off) : outRole (execBl e t off s) = s.role := by simp [execBl]
@[simp] theorem execJalr_role (e t d a imm) : outRole (execJalr e t d a imm s) = s.role := by simp [execJalr]
@[simp] theorem execCbz_role (e t d off) : outRole (execCbz e t d off s) = s.role := by simp [execCbz]
@[simp] theorem execCbnz_role (e t d off) : outRole (execCbnz e t d off s) = s.role := by simp [execCbnz]
@[simp] theorem execDbnz_role (e t d off) : outRole (execDbnz e t d off s) = s.role := by simp [execDbnz]

/-! #### LIN -/

@[simp] theorem State.linEvt_role (n b) : (s.linEvt n b).role = s.role := by simp [linEvt]
@[simp] theorem State.linCnt_role (n k) : (s.linCnt n k).role = s.role := by simp [linCnt]
@[simp] theorem State.linError_role (n err) : (s.linError n err).role = s.role := by simp [linError]
@[simp] theorem State.linRespond_role (n fid data clash) : (s.linRespond n fid data clash).role = s.role := by
  simp [linRespond]
@[simp] theorem State.linCellar_role (n fid clash) : (s.linCellar n fid clash).role = s.role := by simp [linCellar]
@[simp] theorem State.linPort_role (n fid clash) : (s.linPort n fid clash).role = s.role := by
  unfold linPort; split <;> simp
@[simp] theorem execLinHeader_role (n fid time err clash) :
    outRole (execLinHeader n fid time err clash s) = s.role := by
  simp [execLinHeader]
@[simp] theorem execLinResponseReceive_role (n data err) :
    outRole (execLinResponseReceive n data err s) = s.role := by
  unfold execLinResponseReceive; split <;> simp
@[simp] theorem State.linPut_role (n f) : (s.linPut n f).role = s.role := by simp [linPut]
@[simp] theorem execLinScheduleSlot_role (n) : outRole (execLinScheduleSlot n s) = s.role := by
  simp [execLinScheduleSlot]
@[simp] theorem State.putSched_role (n v) : ansRole (s.putSched n v) = s.role := by simp [putSched]
@[simp] theorem State.putLin_role (t n o v) : ansRole (s.putLin t n o v) = s.role := by simp [putLin]
@[simp] theorem execLinSchedSwitch_role (a n act) : outRole (execLinSchedSwitch a n act s) = s.role := by
  simp [execLinSchedSwitch]
@[simp] theorem execLinWakeSend_role (a n) : outRole (execLinWakeSend a n s) = s.role := by simp [execLinWakeSend]
@[simp] theorem execLinWakeReceive_role (n) : outRole (execLinWakeReceive n s) = s.role := by
  simp [execLinWakeReceive]
@[simp] theorem execLinCntRst_role (a n) : outRole (execLinCntRst a n s) = s.role := by simp [execLinCntRst]
@[simp] theorem execLinTransceiverFault_role (n dom) : outRole (execLinTransceiverFault n dom s) = s.role := by
  simp [execLinTransceiverFault]
@[simp] theorem execLinTransceiverRecover_role (n dom) : outRole (execLinTransceiverRecover n dom s) = s.role := by
  simp [execLinTransceiverRecover]

/-! #### Engine ports -/

@[simp] theorem State.issueOut_role (s : State) (e t d i a c w) (f : State → State)
    (hf : ∀ s, (f s).role = s.role) : (s.issueOut e t d i a c w f).role = s.role := by
  simp [issueOut, hf]
@[simp] theorem State.heldDone_role (e t ws flags) : (s.heldDone e t ws flags).role = s.role := by simp [heldDone]
@[simp] theorem State.heldStatus_role (e t d st) : (s.heldStatus e t d st).role = s.role := by simp [heldStatus]
@[simp] theorem execHeldInstructionComplete_role (e t) : outRole (execHeldInstructionComplete e t s) = s.role := by
  unfold execHeldInstructionComplete; split <;> simp
@[simp] theorem State.qcrd_role (e t d h time) : (s.qcrd e t d h time).role = s.role := by simp [qcrd]
@[simp] theorem State.qcwr_role (e t d h v rx) : (s.qcwr e t d h v rx).role = s.role := by simp [qcwr]
@[simp] theorem execCrd_role (e t d handle time) : outRole (execCrd e t d handle time s) = s.role := by simp [execCrd]
@[simp] theorem execCrdr_role (e t d a time) : outRole (execCrdr e t d a time s) = s.role := by simp [execCrdr]
@[simp] theorem execCwr_role (e t d a handle rx) : outRole (execCwr e t d a handle rx s) = s.role := by simp [execCwr]
@[simp] theorem execCwrr_role (e t d a b rx) : outRole (execCwrr e t d a b rx s) = s.role := by simp [execCwrr]
theorem State.portGate_role {s : State} {e t p rx r} (h : s.portGate e t p rx = some r) : ansRole r = s.role := by
  unfold portGate at h
  (repeat' split at h) <;> cases h <;> simp
@[simp] theorem State.setPortFrames_role (p l) : (s.setPortFrames p l).role = s.role := by simp [setPortFrames]
theorem State.portSend_role {s t : State} {p f} (h : s.portSend p f = some t) : t.role = s.role := by
  unfold portSend at h
  (repeat' split at h) <;> cases h <;> simp
@[simp] theorem State.tagFault_role (e t d x) : (s.tagFault e t d x).role = s.role := by simp [tagFault]
@[simp] theorem execFrx_role (s : State) (e t d a tf) : outRole (execFrx e t d a s tf) = s.role := by
  unfold execFrx
  extract_lets p slot act
  have hact : ∀ s, (act s).role = s.role := by
    intro s
    dsimp only [act]
    split
    · next h => simp [State.portGate_role h]
    · split <;> simp
  simp [hact]
@[simp] theorem execFtx_role (s : State) (e t d a tf) : outRole (execFtx e t d a s tf) = s.role := by
  unfold execFtx
  extract_lets p act
  have hact : ∀ s, (act s).role = s.role := by
    intro s
    dsimp only [act]
    split
    · next h => simp [State.portGate_role h]
    · refine s.dataAccess_role _ _ _ _ _ _ _ ?_
      simp only [State.role_ite, State.holdSt_role]
      rw [State.dataAccess_role]
      · simp
      · split
        · next h => simp [State.portSend_role h]
        · simp
  simp [hact]
@[simp] theorem execFtxPortRoom_role (s : State) (e t) : outRole (execFtxPortRoom e t s) = s.role := by
  unfold execFtxPortRoom
  split
  · (repeat' split)
    · simp
    · simp
    · next h => simp [State.portSend_role h]
    · simp
  · simp
@[simp] theorem execFtxTimeout_role (e t) : outRole (execFtxTimeout e t s) = s.role := by
  unfold execFtxTimeout; split <;> simp
@[simp] theorem State.qcask_role (s : State) (e t d a) (f : Tags → Nat → State → State)
    (hf : ∀ x n s, (f x n s).role = s.role) : (s.qcask e t d a f).role = s.role := by
  simp [qcask, hf]
@[simp] theorem State.qappend_role (e n x) : ansRole (s.qappend e n x) = s.role := by simp [qappend]
@[simp] theorem State.qput_role (s : State) (e t d a b nw) : (s.qput e t d a b nw).role = s.role := by
  refine s.qcask_role _ _ _ _ _ fun g n s => s.dataAccess_role _ _ _ _ _ _ _ ?_
  split <;> simp
@[simp] theorem execQput_role (e t d a b) : outRole (execQput e t d a b s) = s.role := by simp [execQput]
@[simp] theorem execQputNw_role (e t d a b) : outRole (execQputNw e t d a b s) = s.role := by simp [execQputNw]
@[simp] theorem execQputRoom_role (e t) : outRole (execQputRoom e t s) = s.role := by
  unfold execQputRoom; split <;> simp
@[simp] theorem execQputTimeout_role (e t) : outRole (execQputTimeout e t s) = s.role := by
  unfold execQputTimeout; split <;> simp
@[simp] theorem execQget_role (s : State) (e t d a b) : outRole (execQget e t d a b s) = s.role := by
  refine s.issue_role _ _ _ _ fun s => s.qcask_role _ _ _ _ _ fun g n s => s.dataAccess_role _ _ _ _ _ _ _ ?_
  dsimp only
  rw [State.holdSt_role, snd_role, State.ckOp_role]
  simp
@[simp] theorem execQmark_role (e t d a) : outRole (execQmark e t d a s) = s.role := by simp [execQmark]
@[simp] theorem execQrewind_role (e t d a) : outRole (execQrewind e t d a s) = s.role := by simp [execQrewind]
@[simp] theorem execQrel_role (e t d a b) : outRole (execQrel e t d a b s) = s.role := by simp [execQrel]
@[simp] theorem execCsub_role (e t d a b tagFail) : outRole (execCsub e t d a b s tagFail) = s.role := by
  simp [execCsub]

/-! #### Storage -/

@[simp] theorem State.setCmd_role (c) : (s.setCmd c).role = s.role := by simp [setCmd]
@[simp] theorem State.dropCmd_role (k) : (s.dropCmd k).role = s.role := by simp [dropCmd]
@[simp] theorem State.cmdEnd_role (c st info) : (s.cmdEnd c st info).role = s.role := by simp [cmdEnd]
@[simp] theorem State.cmdReport_role (id c lba) : (s.cmdReport id c lba).role = s.role := by simp [cmdReport]
@[simp] theorem State.setNs_role (n r) : (s.setNs n r).role = s.role := by simp [setNs]
@[simp] theorem State.bufPut_role (ns lba cnt data) : (s.bufPut ns lba cnt data).role = s.role := by simp [bufPut]
@[simp] theorem State.bufDurable_role (b) : (s.bufDurable b).role = s.role := by simp [bufDurable]
@[simp] theorem State.setHealth_role (data h) : (s.setHealth data h).role = s.role := by simp [setHealth]
@[simp] theorem State.blkProg_role (k) : (s.blkProg k).role = s.role := by simp [blkProg]
@[simp] theorem State.blkGone_role (k) : (s.blkGone k).role = s.role := by simp [blkGone]
@[simp] theorem State.sampleAll_role : (s.sampleAll).role = s.role := by simp [sampleAll]
@[simp] theorem State.hostSlot_role (prog) : (s.hostSlot prog).role = s.role := by simp [hostSlot]
@[simp] theorem State.scrubSlot_role (k) : (s.scrubSlot k).role = s.role := by simp [scrubSlot]
@[simp] theorem State.ownSlot_role (prog) : (s.ownSlot prog).role = s.role := by simp [ownSlot]
@[simp] theorem State.regionCheck_role (data) : (s.regionCheck data).role = s.role := by simp [regionCheck]
@[simp] theorem State.takeOne_role (s : State) (q) : ansRole (s.takeOne q) = s.role := by
  have := s.hwTake_role (s.rf (qpA q 4) 8 0)
  unfold takeOne; dsimp only
  (repeat' split) <;> simp_all
@[simp] theorem State.takeAll_role (n idle : Nat) (s : State) : (takeAll n idle s).role = s.role := by
  induction n generalizing s idle with
  | zero => rfl
  | succ n ih => simp [takeAll, ih]
@[simp] theorem State.stgTake_role : (s.stgTake).role = s.role := by simp [stgTake]
@[simp] theorem State.keyWaits_role (c) : (s.keyWaits c).role = s.role := by simp [keyWaits]
@[simp] theorem State.cmdRun_role (s : State) (k opc buffer) (f : StgCmd → NsRec → State → State)
    (hf : ∀ c r s, (f c r s).role = s.role) : (s.cmdRun k opc buffer f).role = s.role := by
  unfold cmdRun; dsimp only; (repeat' split) <;> simp [hf]
@[simp] theorem State.stgMismatch_role (c) : (s.stgMismatch c).role = s.role := by simp [stgMismatch]
@[simp] theorem State.cmdParity_role (c) : (s.cmdParity c).role = s.role := by simp [cmdParity]
@[simp] theorem execStgRead_role (c bad mismatch tagFail) :
    outRole (execStgRead c bad mismatch s tagFail) = s.role := by
  unfold execStgRead; (repeat' split) <;> simp
@[simp] theorem State.writeBlocks_role (s : State) (c r) (n : Nat) : dataRole (s.writeBlocks c r n) = s.role := by
  induction n with
  | zero => rfl
  | succ n ih => simp [writeBlocks, ih]
@[simp] theorem execStgWrite_role (s : State) (c m tf) : outRole (execStgWrite c m s tf) = s.role := by
  simp only [execStgWrite, outRole_next]
  refine s.cmdRun_role _ _ _ _ fun c r s => ?_
  split
  · simp
  · split <;> simp
@[simp] theorem execStgFlush_role (c) : outRole (execStgFlush c s) = s.role := by simp [execStgFlush]
@[simp] theorem execStgTrim_role (c) : outRole (execStgTrim c s) = s.role := by simp [execStgTrim]
@[simp] theorem State.nsClear_role (n) : (s.nsClear n).role = s.role := by simp [nsClear]
@[simp] theorem State.format_role (c) : (s.format c).role = s.role := by simp [format]
@[simp] theorem execStgFormatNs_role (s : State) (c) : outRole (execStgFormatNs c s) = s.role := by
  unfold execStgFormatNs; dsimp only
  (repeat' split) <;> simp
@[simp] theorem execStgHealth_role (c tagFail) : outRole (execStgHealth c s tagFail) = s.role := by
  unfold execStgHealth; dsimp only; (repeat' split) <;> simp
@[simp] theorem State.cmdLost_role (c) : (s.cmdLost c).role = s.role := by simp [cmdLost]
@[simp] theorem State.cmdPost_role (c) : (s.cmdPost c).role = s.role := by unfold cmdPost; split <;> simp
@[simp] theorem execStgCommandComplete_role (c) : outRole (execStgCommandComplete c s) = s.role := by
  unfold execStgCommandComplete; dsimp only; (repeat' split) <;> simp
@[simp] theorem execStgCompletionDrop_role (c) : outRole (execStgCompletionDrop c s) = s.role := by
  unfold execStgCompletionDrop; (repeat' split) <;> simp
@[simp] theorem execStgKeyPendingTimeout_role (c) : outRole (execStgKeyPendingTimeout c s) = s.role := by
  unfold execStgKeyPendingTimeout; (repeat' split) <;> simp
@[simp] theorem State.stgAbort_role (p) : (s.stgAbort p).role = s.role := by simp [stgAbort]
@[simp] theorem State.stgPostAll_role : (s.stgPostAll).role = s.role := by simp [stgPostAll]
@[simp] theorem State.qpRelease_role (q) : (s.qpRelease q).role = s.role := by simp [qpRelease]
@[simp] theorem State.putQp_role (t q v) : ansRole (s.putQp t q v) = s.role := by simp [putQp]
@[simp] theorem State.putStg_role (t o v) : ansRole (s.putStg t o v) = s.role := by simp [putStg]
@[simp] theorem execStgEnable_role (a) : outRole (execStgEnable a s) = s.role := by simp [execStgEnable]
@[simp] theorem execQpConfigWrite_role (a q v) : outRole (execQpConfigWrite a q v s) = s.role := by
  simp [execQpConfigWrite]
@[simp] theorem execStgReady_role (nandOk) : outRole (execStgReady nandOk s) = s.role := by simp [execStgReady]
@[simp] theorem execNamespaceKeyCheck_role (n) : outRole (execNamespaceKeyCheck n s) = s.role := by
  simp [execNamespaceKeyCheck]
@[simp] theorem execNandProgramFail_role (data k) : outRole (execNandProgramFail data k s) = s.role := by
  simp [execNandProgramFail]
@[simp] theorem execScrubSample_role (x) : outRole (execScrubSample x s) = s.role := by simp [execScrubSample]
@[simp] theorem execNandTempChange_role (t) : outRole (execNandTempChange t s) = s.role := by
  simp [execNandTempChange]
@[simp] theorem execNandOperationComplete_role (op) : outRole (execNandOperationComplete op s) = s.role := by
  unfold execNandOperationComplete; (repeat' split) <;> simp

/-! #### Owners -/

@[simp] theorem State.sourceLost_role (p) : (s.sourceLost p).role = s.role := by simp [sourceLost]
@[simp] theorem State.sourceCheck_role (c) : (s.sourceCheck c).role = s.role := by simp [sourceCheck]
@[simp] theorem State.releaseEffect_role (x) : (s.releaseEffect x).role = s.role := by
  unfold releaseEffect; split <;> simp
@[simp] theorem State.releaseOwn_role (a) : (s.releaseOwn a).role = s.role := by unfold releaseOwn; split <;> simp
@[simp] theorem State.putOwn_role (t a v) : ansRole (s.putOwn t a v) = s.role := by
  unfold putOwn; (repeat' split) <;> simp
@[simp] theorem State.ownWrite_role (a addr v cmd) : outRole (s.ownWrite a addr v cmd) = s.role := by simp [ownWrite]
@[simp] theorem execOwnershipClaim_role (a addr func) : outRole (execOwnershipClaim a addr func s) = s.role := by
  simp [execOwnershipClaim]
@[simp] theorem execOwnershipRelease_role (a addr) : outRole (execOwnershipRelease a addr s) = s.role := by
  simp [execOwnershipRelease]

/-! #### Resets -/

@[simp] theorem State.logicDown_role : (s.logicDown).role = s.role := by simp [logicDown]
@[simp] theorem State.chipReset_role (cause) : (s.chipReset cause).role = s.role := by simp [chipReset]

/-! #### Boot -/

@[simp] theorem State.putFloorCopy_role (k seq v) : (s.putFloorCopy k seq v).role = s.role := by simp [putFloorCopy]
@[simp] theorem State.putRecord_role (f) : (s.putRecord f).role = s.role := by simp [putRecord]
@[simp] theorem State.putFloor_role (v) : (s.putFloor v).role = s.role := by simp [putFloor]
@[simp] theorem State.floorRepair_role : (s.floorRepair).role = s.role := by unfold floorRepair; split <;> simp
@[simp] theorem State.putGuard_role (k seq schema body) : (s.putGuard k seq schema body).role = s.role := by
  simp [putGuard]
@[simp] theorem State.guardCheck_role (r) : (s.guardCheck r).role = s.role := by
  unfold guardCheck; dsimp only; split <;> simp
@[simp] theorem State.guardApply_role : (s.guardApply).role = s.role := by simp [guardApply]
@[simp] theorem State.startLineThreads_role : (s.startLineThreads).role = s.role := by simp [startLineThreads]
@[simp] theorem State.supersede_role (a) : (s.supersede a).role = s.role := by simp [supersede]
@[simp] theorem State.tuneRepair_role : (s.tuneRepair).role = s.role := by simp [tuneRepair]
@[simp] theorem State.convert_role (c) : (s.convert c).role = s.role := by simp [convert]
@[simp] theorem State.tuneReport_role (a) : (s.tuneReport a).role = s.role := by simp [tuneReport]
@[simp] theorem State.migrated_role (r) : (s.migrated r).role = s.role := by simp [migrated]
@[simp] theorem State.migrate_role (r m) : (s.migrate r m).role = s.role := by
  unfold migrate; (repeat' split) <;> simp
@[simp] theorem State.loadSection_role (r x) : (s.loadSection r x).role = s.role := by simp [loadSection]
@[simp] theorem State.dieLoad_role (die fails) : (s.dieLoad die fails).role = s.role := by simp [dieLoad]
@[simp] theorem State.phyStart_role (fail) : (s.phyStart fail).role = s.role := by simp [phyStart]
@[simp] theorem State.startImage_role (i) : (s.startImage i).role = s.role := by simp [startImage]
@[simp] theorem State.bootEnd_role (i) : (s.bootEnd i).role = s.role := by simp [bootEnd]
@[simp] theorem State.runImage_role (i env) : (s.runImage i env).role = s.role := by simp [runImage]
@[simp] theorem State.putSeal_role (b x) : (s.putSeal b x).role = s.role := by simp [putSeal]
@[simp] theorem State.verifyBank_role (b ecc) : dataRole (s.verifyBank b ecc) = s.role := by simp [verifyBank]
@[simp] theorem State.bankFail_role (b reason) : (s.bankFail b reason).role = s.role := by simp [bankFail]
@[simp] theorem State.recover_role (env) : (s.recover env).role = s.role := by simp [recover]
@[simp] theorem State.runBank_role (b first trial env) : (s.runBank b first trial env).role = s.role := by
  simp [runBank]
@[simp] theorem State.runActive_role (env) : (s.runActive env).role = s.role := by simp [runActive]
@[simp] theorem State.bootBank_role (env) : (s.bootBank env).role = s.role := by simp [bootBank]
@[simp] theorem State.selectStage1_role (env) : ansRole (s.selectStage1 env) = s.role := by
  unfold selectStage1; dsimp only; (repeat' split) <;> simp
@[simp] theorem State.debugDecide_role (mode) : (s.debugDecide mode).role = s.role := by simp [debugDecide]
@[simp] theorem State.deliverLog_role (src) : (s.deliverLog src).role = s.role := by simp [deliverLog]
@[simp] theorem State.awakeStart_role : (s.awakeStart).role = s.role := by simp [awakeStart]

/-! #### Power sequence -/

@[simp] theorem execXtal32kOscillationStart_role : outRole (execXtal32kOscillationStart s) = s.role := by
  simp [execXtal32kOscillationStart]
@[simp] theorem execRegEnCoreAssert_role (pairSel) : outRole (execRegEnCoreAssert pairSel s) = s.role := by
  simp [execRegEnCoreAssert]
@[simp] theorem execPgInputAsserted_role (r) : outRole (execPgInputAsserted r s) = s.role := by
  simp [execPgInputAsserted]
@[simp] theorem execPowerUpStepDelayExpiry_role : outRole (execPowerUpStepDelayExpiry s) = s.role := by
  unfold execPowerUpStepDelayExpiry; split <;> simp
@[simp] theorem execPowerUpRetryExpiry_role : outRole (execPowerUpRetryExpiry s) = s.role := by
  simp [execPowerUpRetryExpiry]
@[simp] theorem execPgLoss_role (r) : outRole (execPgLoss r s) = s.role := by simp [execPgLoss]
@[simp] theorem execRegEnDropStep_role : outRole (execRegEnDropStep s) = s.role := by
  unfold execRegEnDropStep; split <;> simp
@[simp] theorem State.clocksFollow_role : (s.clocksFollow).role = s.role := by simp [clocksFollow]
@[simp] theorem execPmbusVoutModeRead_role (reply) : outRole (execPmbusVoutModeRead reply s) = s.role := by
  simp [execPmbusVoutModeRead]
@[simp] theorem execVcoreStep_role : outRole (execVcoreStep s) = s.role := by simp [execVcoreStep]
@[simp] theorem execRstnPinReset_role (lowNs taken) : outRole (execRstnPinReset lowNs taken s) = s.role := by
  simp [execRstnPinReset]
@[simp] theorem execJtagExtest_role : outRole (execJtagExtest s) = s.role := by simp [execJtagExtest]
@[simp] theorem State.confirm_role : (s.confirm).role = s.role := by simp [confirm]
@[simp] theorem State.putBankCtl_role (t v) : ansRole (s.putBankCtl t v) = s.role := by simp [putBankCtl]
@[simp] theorem execBankPend_role (a bank) : outRole (execBankPend a bank s) = s.role := by simp [execBankPend]
@[simp] theorem execBankConfirm_role (a) : outRole (execBankConfirm a s) = s.role := by simp [execBankConfirm]
@[simp] theorem execTrialExpiry_role : outRole (execTrialExpiry s) = s.role := by simp [execTrialExpiry]
@[simp] theorem State.putSwReset_role (t v) : ansRole (s.putSwReset t v) = s.role := by simp [putSwReset]
@[simp] theorem execSwReset_role (a key) : outRole (execSwReset a key s) = s.role := by simp [execSwReset]
@[simp] theorem execMigrationTimeout_role : outRole (execMigrationTimeout s) = s.role := by
  unfold execMigrationTimeout; split <;> simp
@[simp] theorem execMfgProvisionImage_role (base ecc prog) :
    outRole (execMfgProvisionImage base ecc prog s) = s.role := by
  simp [execMfgProvisionImage]

/-! #### Sleep and wake -/

@[simp] theorem State.setAoState_role (v) : (s.setAoState v).role = s.role := by simp [setAoState]
@[simp] theorem State.setCause_role (code) : (s.setCause code).role = s.role := by simp [setCause]
@[simp] theorem State.sleepPending_role : (s.sleepPending).role = s.role := by simp [sleepPending]
@[simp] theorem State.putAoCtl_role (v) : ansRole (s.putAoCtl v) = s.role := by simp [putAoCtl]
@[simp] theorem State.putAo_role (t off v) : ansRole (s.putAo t off v) = s.role := by simp [putAo]
@[simp] theorem execSleepReq_role (a) : outRole (execSleepReq a s) = s.role := by simp [execSleepReq]
@[simp] theorem execSleepCancel_role (a) : outRole (execSleepCancel a s) = s.role := by simp [execSleepCancel]
@[simp] theorem execPgTimeout_role : outRole (execPgTimeout s) = s.role := by unfold execPgTimeout; split <;> simp
@[simp] theorem State.latchCause_role (code) : (s.latchCause code).role = s.role := by simp [latchCause]
@[simp] theorem State.wake_role (code) : (s.wake code).role = s.role := by simp [wake]
@[simp] theorem State.swStat_role (n pattern frame) : (s.swStat n pattern frame).role = s.role := by simp [swStat]
@[simp] theorem execWakeCondition_role (src) : outRole (execWakeCondition src s) = s.role := by
  simp [execWakeCondition]
@[simp] theorem execCanWakeFrame_role (n f) : outRole (execCanWakeFrame n f s) = s.role := by simp [execCanWakeFrame]
@[simp] theorem execSelectiveWakeFrameDecode_role (n f) : outRole (execSelectiveWakeFrameDecode n f s) = s.role := by
  unfold execSelectiveWakeFrameDecode; (repeat' split) <;> simp
@[simp] theorem execCanSwFecOverflow_role (n) : outRole (execCanSwFecOverflow n s) = s.role := by
  simp [execCanSwFecOverflow]
@[simp] theorem execWakeTimerExpiry_role : outRole (execWakeTimerExpiry s) = s.role := by simp [execWakeTimerExpiry]
@[simp] theorem State.transceiversStandby_role : (s.transceiversStandby).role = s.role := by
  simp [transceiversStandby]
@[simp] theorem State.powerDown_role (s : State) : s.powerDown.role = s.role := by
  unfold powerDown; dsimp only
  rw [setPwr_role, setFront_role]
  simp
@[simp] theorem execPendWindowExpiry_role : outRole (execPendWindowExpiry s) = s.role := by
  unfold execPendWindowExpiry; split <;> simp
@[simp] theorem execSleepEntry_role : outRole (execSleepEntry s) = s.role := by simp [execSleepEntry]
@[simp] theorem execWakePowerUpDelay_role : outRole (execWakePowerUpDelay s) = s.role := by
  simp [execWakePowerUpDelay]
@[simp] theorem execAwakeTimerExpiry_role (can lin) : outRole (execAwakeTimerExpiry can lin s) = s.role := by
  simp [execAwakeTimerExpiry]
@[simp] theorem execFailSafeTimerExpiry_role : outRole (execFailSafeTimerExpiry s) = s.role := by
  unfold execFailSafeTimerExpiry; split <;> simp

/-! #### Far dies -/

@[simp] theorem State.farReserved_role (t a) : ansRole (s.farReserved t a) = s.role := by simp [farReserved]
@[simp] theorem State.putFar_role (t a v) : ansRole (s.putFar t a v) = s.role := by simp [putFar]
@[simp] theorem State.denyRead_role (t a) : dataRole (s.denyRead t a) = s.role := by simp [denyRead]
@[simp] theorem State.getFar_role (t a) : dataRole (s.getFar t a) = s.role := by simp [getFar]
@[simp] theorem State.farReadN_role (t addr n) : dataRole (s.farReadN t addr n) = s.role := by simp [farReadN]
@[simp] theorem State.farWriteN_role (t addr n v) : ansRole (s.farWriteN t addr n v) = s.role := by simp [farWriteN]
@[simp] theorem State.farAlign_role (a addr load v) : ansRole (s.farAlign a addr load v) = s.role := by
  simp [farAlign]

/-! #### Bridges -/

theorem State.brBars_role {s : State} {a b addr bytes op data r} (h : s.brBars a b addr bytes op data = some r) :
    ansRole r = s.role := by
  unfold brBars at h; dsimp only at h
  (repeat' split at h) <;> cases h <;> simp
@[simp] theorem State.brBars_getD_role (s : State) (a b addr bytes op data st) :
    ansRole ((s.brBars a b addr bytes op data).getD (st, s)) = s.role := by
  cases h : s.brBars a b addr bytes op data with
  | none => simp
  | some r => exact brBars_role h
@[simp] theorem State.brEnter_role (s : State) (a b addr bytes op data) :
    (s.brEnter a b addr bytes op data).role = s.role := by
  unfold brEnter; split
  · next h => simp [brBars_role h]
  · simp
@[simp] theorem State.bridgeAccess_role (a addr bytes op data) :
    outRole (s.bridgeAccess a addr bytes op data) = s.role := by
  unfold bridgeAccess; (repeat' split) <;> simp
@[simp] theorem execBridgePostedWrite_role (a addr bytes data) :
    outRole (execBridgePostedWrite a addr bytes data s) = s.role := by
  simp [execBridgePostedWrite]
@[simp] theorem execBridgeNonpostedAccess_role (a write addr bytes data) :
    outRole (execBridgeNonpostedAccess a write addr bytes data s) = s.role := by
  simp [execBridgeNonpostedAccess]
@[simp] theorem State.farLine_role (s : State) (t addr) (n : Nat) : ansRole (s.farLine t addr n) = s.role := by
  induction n generalizing s addr with
  | zero => rfl
  | succ n ih => simp [farLine, ih]
@[simp] theorem State.farUnlock_role (m t addr v) : ansRole (s.farUnlock m t addr v) = s.role := by simp [farUnlock]
@[simp] theorem State.farLocked_role (b x addr) : dataRole (s.farLocked b x addr) = s.role := by simp [farLocked]
@[simp] theorem State.farPerform_role (s : State) (b x) : (s.farPerform b x).role = s.role := by
  unfold farPerform; dsimp only
  rw [role_ite, reReport_role, ite_self, brSet_role, snd_role, ansRole_ite, farLine_role, ansRole_mk, ite_self, snd_snd_role]
  (repeat' split) <;> simp
@[simp] theorem execFarDieAccess_role (b) : outRole (execFarDieAccess b s) = s.role := by
  unfold execFarDieAccess; (repeat' split) <;> simp
@[simp] theorem execBridgeResponse_role (b) : outRole (execBridgeResponse b s) = s.role := by
  unfold execBridgeResponse; (repeat' split) <;> simp
@[simp] theorem execBridgeTimeout_role (b) : outRole (execBridgeTimeout b s) = s.role := by simp [execBridgeTimeout]
@[simp] theorem execBridgeLr_role (a addr d) : outRole (execBridgeLr a addr d s) = s.role := by simp [execBridgeLr]
@[simp] theorem execBridgeSc_role (a addr d v) : outRole (execBridgeSc a addr d v s) = s.role := by
  simp [execBridgeSc]
@[simp] theorem execBridgeAmo_role (a addr d k v) : outRole (execBridgeAmo a addr d k v s) = s.role := by
  simp [execBridgeAmo]
@[simp] theorem execSemaphoreTimeout_role (b) : outRole (execSemaphoreTimeout b s) = s.role := by
  simp [execSemaphoreTimeout]
@[simp] theorem execPrefetchLineExpiry_role (b) : outRole (execPrefetchLineExpiry b s) = s.role := by
  unfold execPrefetchLineExpiry; dsimp only; (repeat' split) <;> simp
@[simp] theorem State.putWinCfg_role (b k v) : ansRole (s.putWinCfg b k v) = s.role := by
  unfold putWinCfg; split <;> simp
@[simp] theorem State.putWinBase_role (b k v) : ansRole (s.putWinBase b k v) = s.role := by
  unfold putWinBase; split <;> simp
@[simp] theorem State.putBrg_role (t b o v) : ansRole (s.putBrg t b o v) = s.role := by simp [putBrg]
@[simp] theorem execWindowConfigWrite_role (a b k base v) :
    outRole (execWindowConfigWrite a b k base v s) = s.role := by
  simp [execWindowConfigWrite]
@[simp] theorem execPoisonClear_role (a b k) : outRole (execPoisonClear a b k s) = s.role := by simp [execPoisonClear]
@[simp] theorem execErrRecordNext_role (a b) : outRole (execErrRecordNext a b s) = s.role := by
  simp [execErrRecordNext]
@[simp] theorem execFarIrqRaise_role (b src) : outRole (execFarIrqRaise b src s) = s.role := by simp [execFarIrqRaise]

/-! #### MACsec -/

@[simp] theorem State.saPn_role (k pn) : (s.saPn k pn).role = s.role := by simp [saPn]
@[simp] theorem State.msUsed_role (i an) : (s.msUsed i an).role = s.role := by simp [msUsed]
@[simp] theorem execMsPnReserveCommit_role (i an) : outRole (execMsPnReserveCommit i an s) = s.role := by
  simp [execMsPnReserveCommit]
@[simp] theorem State.msVerify_role (s : State) (i b) : ansRole (s.msVerify i b) = s.role := by
  unfold msVerify; dsimp only
  (repeat' split) <;> simp
@[simp] theorem State.saCommit_role (t k v) : ansRole (s.saCommit t k v) = s.role := by
  unfold saCommit; dsimp only; (repeat' split) <;> simp
@[simp] theorem State.putMs_role (t i o v) : ansRole (s.putMs t i o v) = s.role := by
  unfold putMs; (repeat' split) <;> simp
@[simp] theorem execMacsecSaCommit_role (a i ch an v) : outRole (execMacsecSaCommit a i ch an v s) = s.role := by
  simp [execMacsecSaCommit]

/-! #### The switch -/

@[simp] theorem State.startSend_role (q c f thru) : (s.startSend q c f thru).role = s.role := by
  unfold startSend; dsimp only; split <;> simp
@[simp] theorem State.place_role (s : State) (f m l) : dataRole (s.place f m l) = s.role := by
  induction l generalizing s with
  | nil => simp [place]
  | cons q r ih => unfold place; dsimp only; (repeat' split) <;> simp [ih]
@[simp] theorem State.takeIn_role (p b time sub mayCut) : ansRole (s.takeIn p b time sub mayCut) = s.role := by
  unfold takeIn; dsimp only; (repeat' split) <;> simp
@[simp] theorem execEthFrameIngress_role (p b sub) : outRole (execEthFrameIngress p b sub s) = s.role := by
  simp [execEthFrameIngress]
@[simp] theorem State.markCut_role (n q) : (s.markCut n q).role = s.role := by
  unfold markCut; dsimp only; split <;> simp
@[simp] theorem State.closeCut_role (q) : (s.closeCut q).role = s.role := by
  unfold closeCut; dsimp only; split <;> simp
@[simp] theorem State.learn_role (f) : (s.learn f).role = s.role := by simp [learn]
@[simp] theorem State.queueUp_role (f l) : (s.queueUp f l).role = s.role := by simp [queueUp]
@[simp] theorem State.overrun_role (r) : (s.overrun r).role = s.role := by simp [overrun]
@[simp] theorem State.rxEnd_role (r) : (s.rxEnd r).role = s.role := by simp [rxEnd]
@[simp] theorem State.tailGood_role (r) : (s.tailGood r).role = s.role := by simp [tailGood]
@[simp] theorem State.tailBad_role (r off) : (s.tailBad r off).role = s.role := by simp [tailBad]
@[simp] theorem execEthFrameTail_role (s : State) (p t) : outRole (execEthFrameTail p t s) = s.role := by
  unfold execEthFrameTail; dsimp only
  (repeat' split) <;> simp
@[simp] theorem State.selectFrom_role (s : State) (p l) : (s.selectFrom p l).role = s.role := by
  induction l generalizing s with
  | nil => rfl
  | cons q r ih =>
    unfold selectFrom
    split
    · exact ih s
    · dsimp only
      generalize s.msTx p _ _ = ms
      cases ms <;> simp [ih]
@[simp] theorem execEthTransmitSelect_role (p) : outRole (execEthTransmitSelect p s) = s.role := by
  simp [execEthTransmitSelect]
@[simp] theorem execEthTxComplete_role (p sub) : outRole (execEthTxComplete p sub s) = s.role := by
  unfold execEthTxComplete; split <;> simp
@[simp] theorem execCbsCreditZero_role (p c) : outRole (execCbsCreditZero p c s) = s.role := by
  simp [execCbsCreditZero]
@[simp] theorem State.tunGive_role (t x) : (s.tunGive t x).role = s.role := by simp [tunGive]
@[simp] theorem State.hostGive_role (k f) : (s.hostGive k f).role = s.role := by simp [hostGive]
@[simp] theorem execHostPortDelivery_role (s : State) : outRole (execHostPortDelivery s) = s.role := by
  unfold execHostPortDelivery; dsimp only
  (repeat' split) <;> simp
@[simp] theorem execTunnelPduReceive_role (t) : outRole (execTunnelPduReceive t s) = s.role := by
  unfold execTunnelPduReceive; split <;> simp
@[simp] theorem State.hostEnter_role (b) : (s.hostEnter b).role = s.role := by simp [hostEnter]
theorem State.hostSource_role {s : State} {k r} (h : s.hostSource k = some r) : ansRole r = s.role := by
  unfold hostSource at h; dsimp only at h
  have := s.hwTake_role (fld (s.rd (esA (0x180 + k * 4))) 8 0)
  (repeat' split at h) <;> cases h <;> simp_all
@[simp] theorem execHostTxServe_role (s : State) : outRole (execHostTxServe s) = s.role := by
  unfold execHostTxServe; dsimp only
  split
  · simp
  · split
    · simp
    · split
      · simp
      · next h => split <;> simpa using State.hostSource_role h
@[simp] theorem execPortLinkUp_role (p rate isMaster sqi) :
    outRole (execPortLinkUp p rate isMaster sqi s) = s.role := by
  simp [execPortLinkUp]
@[simp] theorem State.leaveRx_role (q) : (s.leaveRx q).role = s.role := by simp [leaveRx]
@[simp] theorem State.portDown_role (s : State) (p) : (s.portDown p).role = s.role := by
  unfold portDown; dsimp only
  cases (s.port p).rx <;> cases (s.port p).sending <;> simp
@[simp] theorem State.linkDown_role (p) : (s.linkDown p).role = s.role := by simp [linkDown]
@[simp] theorem execPortLinkDown_role (p) : outRole (execPortLinkDown p s) = s.role := by simp [execPortLinkDown]
@[simp] theorem execTc10SleepAck_role (p) : outRole (execTc10SleepAck p s) = s.role := by simp [execTc10SleepAck]
@[simp] theorem execTc10SleepTimeout_role (p) : outRole (execTc10SleepTimeout p s) = s.role := by
  simp [execTc10SleepTimeout]
@[simp] theorem execFdbAgeSweep_role : outRole (execFdbAgeSweep s) = s.role := by simp [execFdbAgeSweep]
@[simp] theorem execFdbFlushDone_role : outRole (execFdbFlushDone s) = s.role := by simp [execFdbFlushDone]
@[simp] theorem execTasListTakeover_role (p) : outRole (execTasListTakeover p s) = s.role := by
  simp [execTasListTakeover]
@[simp] theorem execTasGateEvent_role (p) : outRole (execTasGateEvent p s) = s.role := by simp [execTasGateEvent]
@[simp] theorem execFrerResetTimeout_role (r) : outRole (execFrerResetTimeout r s) = s.role := by
  simp [execFrerResetTimeout]
@[simp] theorem State.putBres_role (t r v) : ansRole (s.putBres t r v) = s.role := by simp [putBres]
@[simp] theorem State.putPortCtl_role (p v) : ansRole (s.putPortCtl p v) = s.role := by simp [putPortCtl]
@[simp] theorem State.putTasCtl_role (p v) : ansRole (s.putTasCtl p v) = s.role := by simp [putTasCtl]
@[simp] theorem State.putCbs_role (p c v) : ansRole (s.putCbs p c v) = s.role := by simp [putCbs]
@[simp] theorem State.putPort_role (p o v) : ansRole (s.putPort p o v) = s.role := by simp [putPort]
@[simp] theorem State.putEswCtl_role (v) : ansRole (s.putEswCtl v) = s.role := by simp [putEswCtl]
@[simp] theorem State.putEsw_role (t o v) : ansRole (s.putEsw t o v) = s.role := by simp [putEsw]
@[simp] theorem State.commitWords_role (a masks v) : (s.commitWords a masks v).role = s.role := by simp [commitWords]
@[simp] theorem State.putSwt_role (t o v) : ansRole (s.putSwt t o v) = s.role := by
  unfold putSwt; (repeat' split) <;> simp
@[simp] theorem execTc10Sleep_role (a p) : outRole (execTc10Sleep a p s) = s.role := by simp [execTc10Sleep]
@[simp] theorem execTc10Wur_role (a p) : outRole (execTc10Wur a p s) = s.role := by simp [execTc10Wur]
@[simp] theorem execFdbFlush_role (a v) : outRole (execFdbFlush a v s) = s.role := by simp [execFdbFlush]
@[simp] theorem execSwitchEntryCommit_role (a o v) : outRole (execSwitchEntryCommit a o v s) = s.role := by
  simp [execSwitchEntryCommit]
@[simp] theorem execBresCfgWrite_role (a r v) : outRole (execBresCfgWrite a r v s) = s.role := by
  simp [execBresCfgWrite]
@[simp] theorem execTasChange_role (a p v) : outRole (execTasChange a p v s) = s.role := by simp [execTasChange]
@[simp] theorem execCounterSnapshot_role (a) : outRole (execCounterSnapshot a s) = s.role := by
  simp [execCounterSnapshot]

/-! #### The pair -/

@[simp] theorem State.vinClose_role (st) : (s.vinClose st).role = s.role := by simp [vinClose]
@[simp] theorem State.vinBegin_role : (s.vinBegin).role = s.role := by simp [vinBegin]
@[simp] theorem State.vinShip_role : (s.vinShip).role = s.role := by simp [vinShip]
@[simp] theorem State.hear_role (role) : (s.hear role).role = s.role := by simp [hear]
@[simp] theorem execTakeoverBlocked_role : outRole (execTakeoverBlocked s) = s.role := by simp [execTakeoverBlocked]
@[simp] theorem execPairFrameReject_role : outRole (execPairFrameReject s) = s.role := by
  unfold execPairFrameReject; split <;> simp
@[simp] theorem execPermitSelfTest_role (seen) : outRole (execPermitSelfTest seen s) = s.role := by
  simp [execPermitSelfTest]
@[simp] theorem execPeerHealthMissing_role : outRole (execPeerHealthMissing s) = s.role := by
  simp [execPeerHealthMissing]
@[simp] theorem execHandoverArmExpiry_role : outRole (execHandoverArmExpiry s) = s.role := by
  simp [execHandoverArmExpiry]

/-! #### Worlds -/

@[simp] theorem State.nsDenied_role (t i kind) : (s.nsDenied t i kind).role = s.role := by simp [nsDenied]
@[simp] theorem State.rwdExpire_role : (s.rwdExpire).role = s.role := by simp [rwdExpire]
@[simp] theorem State.rwdStart_role : (s.rwdStart).role = s.role := by simp [rwdStart]
@[simp] theorem State.kick_role (key) : (s.kick key).role = s.role := by simp [kick]
@[simp] theorem State.putRwd_role (v) : ansRole (s.putRwd v) = s.role := by simp [putRwd]
@[simp] theorem State.lockedSetting_role (t) : ansRole (s.lockedSetting t) = s.role := by simp [lockedSetting]
@[simp] theorem State.putWcu_role (t o v) : ansRole (s.putWcu t o v) = s.role := by simp [putWcu]
@[simp] theorem State.wcuWrite_role (a o v cmd) : outRole (s.wcuWrite a o v cmd) = s.role := by simp [wcuWrite]
@[simp] theorem execFillLineWrite_role (a r v) : outRole (execFillLineWrite a r v s) = s.role := by
  unfold execFillLineWrite; split <;> simp
@[simp] theorem execWcuLock_role (a) : outRole (execWcuLock a s) = s.role := by simp [execWcuLock]
@[simp] theorem execRwdEnable_role (a v) : outRole (execRwdEnable a v s) = s.role := by simp [execRwdEnable]
@[simp] theorem execRwdKick_role (a key high) : outRole (execRwdKick a key high s) = s.role := by simp [execRwdKick]
@[simp] theorem execRwdWarn_role : outRole (execRwdWarn s) = s.role := by simp [execRwdWarn]
@[simp] theorem execRwdExpiry_role : outRole (execRwdExpiry s) = s.role := by simp [execRwdExpiry]

/-! #### Faults -/

@[simp] theorem State.ringPut_role (s : State) (q k : Nat) (l : List Word) :
    (s.ringPut q k l).role = s.role := by
  induction l generalizing s k with
  | nil => rfl
  | cons w r ih => simp [ringPut, ih]
@[simp] theorem State.ringSet_role (q k v) : (s.ringSet q k v).role = s.role := by simp [ringSet]
@[simp] theorem State.setEsc_role (k v) : (s.setEsc k v).role = s.role := by simp [setEsc]
@[simp] theorem State.escCount_role (id k) : ansRole (s.escCount id k) = s.role := by simp [escCount]
@[simp] theorem State.escalate_role (s : State) (id) : ansRole (s.escalate id) = s.role := by
  unfold escalate
  exact List.foldlRecOn (motive := fun a => ansRole a = s.role) _ _ (by simp) fun a ha k _ => by simp [ha]
@[simp] theorem State.escCommit_role (k v) : ansRole (s.escCommit k v) = s.role := by simp [escCommit]
@[simp] theorem State.faultReset_role (cause) : (s.faultReset cause).role = s.role := by simp [faultReset]
@[simp] theorem State.resetAfter_role (lseq cause) : (s.resetAfter lseq cause).role = s.role := by simp [resetAfter]
@[simp] theorem State.ringRoom_role : (s.ringRoom).role = s.role := by simp [ringRoom]
@[simp] theorem State.newRecord_role (r w0 w6 sev) : ansRole (s.newRecord r w0 w6 sev) = s.role := by simp [newRecord]
@[simp] theorem execFaultLogWriteDone_role (ok) : outRole (execFaultLogWriteDone ok s) = s.role := by
  unfold execFaultLogWriteDone; (repeat' split) <;> simp
@[simp] theorem execEscalationWindowExpiry_role (k) : outRole (execEscalationWindowExpiry k s) = s.role := by
  simp [execEscalationWindowExpiry]
@[simp] theorem execRstCntAgeOut_role : outRole (execRstCntAgeOut s) = s.role := by simp [execRstCntAgeOut]
@[simp] theorem State.putFcCtl_role (v) : ansRole (s.putFcCtl v) = s.role := by simp [putFcCtl]
@[simp] theorem State.scrubWord_role (s : State) (a res) : (s.scrubWord a res).role = s.role := by
  unfold scrubWord; dsimp only
  (repeat' split) <;> simp
@[simp] theorem State.scrubCache_role (h a dirty res) : (s.scrubCache h a dirty res).role = s.role := by
  simp [scrubCache]
@[simp] theorem State.scrubCan_role (n q res) : (s.scrubCan n q res).role = s.role := by
  unfold scrubCan; split <;> simp
@[simp] theorem State.scrubBuffer_role (p k res) : (s.scrubBuffer p k res).role = s.role := by
  unfold scrubBuffer; (repeat' split) <;> simp
@[simp] theorem execMemoryScrub_role (site res) : outRole (execMemoryScrub site res s) = s.role := by
  unfold execMemoryScrub; (repeat' split) <;> simp

/-! #### Interrupts -/

@[simp] theorem State.setAplIp_role (d i b) : (s.setAplIp d i b).role = s.role := by simp [setAplIp]
@[simp] theorem State.setAplIe_role (d i b) : (s.setAplIe d i b).role = s.role := by simp [setAplIe]
@[simp] theorem State.aplForward_role (d i) : (s.aplForward d i).role = s.role := by simp [aplForward]
@[simp] theorem State.aplPump_role (d) : (s.aplPump d).role = s.role := by simp [aplPump]
@[simp] theorem State.aplSet_role (d i) : (s.aplSet d i).role = s.role := by simp [aplSet]
@[simp] theorem State.aplClr_role (d i) : (s.aplClr d i).role = s.role := by simp [aplClr]
@[simp] theorem State.aplEn_role (d i b) : (s.aplEn d i b).role = s.role := by simp [aplEn]
@[simp] theorem State.putSourceCfg_role (d i v) : (s.putSourceCfg d i v).role = s.role := by simp [putSourceCfg]
@[simp] theorem eachBit_role (v k) (f : State → Nat → State) (s : State) (hf : ∀ s n, (f s n).role = s.role) :
    (eachBit v k f s).role = s.role := by
  simp [eachBit, hf]
@[simp] theorem State.putAplic_role (t d off v) : ansRole (s.putAplic t d off v) = s.role := by simp [putAplic]
@[simp] theorem execAplicSourceChange_role (src level) : outRole (execAplicSourceChange src level s) = s.role := by
  simp [execAplicSourceChange]
@[simp] theorem execMsiDelivery_role (k) : outRole (execMsiDelivery k s) = s.role := by
  unfold execMsiDelivery; split <;> simp

/-! #### The key store -/

@[simp] theorem State.kstEnd_role (st reason) : (s.kstEnd st reason).role = s.role := by simp [kstEnd]
@[simp] theorem State.kstApply_role (addr) : (s.kstApply addr).role = s.role := by simp [kstApply]
@[simp] theorem State.kstErase_role (n) : (s.kstErase n).role = s.role := by simp [kstErase]
@[simp] theorem State.kstLoadPlain_role (addr n) : (s.kstLoadPlain addr n).role = s.role := by simp [kstLoadPlain]
@[simp] theorem State.putKstCmd_role (v) : ansRole (s.putKstCmd v) = s.role := by simp [putKstCmd]
@[simp] theorem State.putGrant_role (n v) : ansRole (s.putGrant n v) = s.role := by simp [putGrant]
@[simp] theorem State.putKst_role (t o v) : ansRole (s.putKst t o v) = s.role := by simp [putKst]
@[simp] theorem execKstApply_role (a) : outRole (execKstApply a s) = s.role := by simp [execKstApply]
@[simp] theorem execKstErase_role (a n) : outRole (execKstErase a n s) = s.role := by simp [execKstErase]
@[simp] theorem execKstLoadPlain_role (a n) : outRole (execKstLoadPlain a n s) = s.role := by simp [execKstLoadPlain]
@[simp] theorem execSlotGrantWrite_role (a n v) : outRole (execSlotGrantWrite a n v s) = s.role := by
  simp [execSlotGrantWrite]
@[simp] theorem execKeyUpdateCommit_role : outRole (execKeyUpdateCommit s) = s.role := by
  unfold execKeyUpdateCommit; (repeat' split) <;> simp
@[simp] theorem execSlotIntegrityScan_role (n mismatch) : outRole (execSlotIntegrityScan n mismatch s) = s.role := by
  simp [execSlotIntegrityScan]
@[simp] theorem execSlotRewriteEffect_role (n) : outRole (execSlotRewriteEffect n s) = s.role := by
  simp [execSlotRewriteEffect]
@[simp] theorem execInvReserveCommit_role (n ok) : outRole (execInvReserveCommit n ok s) = s.role := by
  simp [execInvReserveCommit]
@[simp] theorem State.attEnd_role (st) : (s.attEnd st).role = s.role := by simp [attEnd]
@[simp] theorem State.putPke_role (t o v) : ansRole (s.putPke t o v) = s.role := by simp [putPke]
@[simp] theorem execAttGo_role (a) : outRole (execAttGo a s) = s.role := by simp [execAttGo]
@[simp] theorem execAttSignComplete_role : outRole (execAttSignComplete s) = s.role := by
  unfold execAttSignComplete; split <;> simp
@[simp] theorem execAttTimeout_role : outRole (execAttTimeout s) = s.role := by simp [execAttTimeout]

/-! #### Islands -/

@[simp] theorem State.setIslRun_role (i p) : (s.setIslRun i p).role = s.role := by simp [setIslRun]
@[simp] theorem State.orphans_role (i) : (s.orphans i).role = s.role := by simp [orphans]
@[simp] theorem State.clearIsland_role (i) : (s.clearIsland i).role = s.role := by simp [clearIsland]
@[simp] theorem State.resetC1_role : (s.resetC1).role = s.role := by simp [resetC1]
@[simp] theorem State.resetSE_role : (s.resetSE).role = s.role := by simp [resetSE]
@[simp] theorem State.resetSW_role : (s.resetSW).role = s.role := by simp [resetSW]
@[simp] theorem State.resetNW_role : (s.resetNW).role = s.role := by simp [resetNW]
@[simp] theorem State.resetSC_role (s : State) : s.resetSC.role = s.role := by
  unfold resetSC; dsimp only
  simp only [role_mk, front_role, kstFill_role, role_ite, attEnd_role, kstEnd_role, clearIsland_role, ite_self]
  rw [foldl_role, foldl_role]
  · simp
  · intro s n; simp
  · intro s n; split <;> simp
@[simp] theorem State.resetST_role : (s.resetST).role = s.role := by simp [resetST]
@[simp] theorem State.islandReset_role (i) : (s.islandReset i).role = s.role := by simp [islandReset]
@[simp] theorem State.setFreq_role (s : State) (i f) : (s.setFreq i f).role = s.role := by
  unfold setFreq; dsimp only
  rw [role_ite]; simp
@[simp] theorem State.setStop_role (i b) : (s.setStop i b).role = s.role := by simp [setStop]
@[simp] theorem State.tableAsks_role (t i kind asked) : ansRole (s.tableAsks t i kind asked) = s.role := by
  simp [tableAsks]
@[simp] theorem State.putIsl_role (t i v) : ansRole (s.putIsl t i v) = s.role := by simp [putIsl]
@[simp] theorem State.putPhyPwr_role (t v) : ansRole (s.putPhyPwr t v) = s.role := by simp [putPhyPwr]
@[simp] theorem State.islWrite_role (a i v cmd) : outRole (s.islWrite a i v cmd) = s.role := by simp [islWrite]
@[simp] theorem execIslReset_role (a i) : outRole (execIslReset a i s) = s.role := by simp [execIslReset]
@[simp] theorem execIslStop_role (a i stop) : outRole (execIslStop a i stop s) = s.role := by simp [execIslStop]
@[simp] theorem execIslGate_role (a i gate) : outRole (execIslGate a i gate s) = s.role := by simp [execIslGate]
@[simp] theorem execIslFreq_role (a i freq) : outRole (execIslFreq a i freq s) = s.role := by simp [execIslFreq]
@[simp] theorem execPhyPowerWrite_role (a pd) : outRole (execPhyPowerWrite a pd s) = s.role := by
  simp [execPhyPowerWrite]
@[simp] theorem execIslandResetRelease_role (i) : outRole (execIslandResetRelease i s) = s.role := by
  simp [execIslandResetRelease]
@[simp] theorem execIslandReady_role (i) : outRole (execIslandReady i s) = s.role := by simp [execIslandReady]
@[simp] theorem execPllLockLost_role (i) : outRole (execPllLockLost i s) = s.role := by simp [execPllLockLost]
@[simp] theorem execReferenceClockLost_role : outRole (execReferenceClockLost s) = s.role := by
  simp [execReferenceClockLost]
@[simp] theorem execReferenceClockRestored_role : outRole (execReferenceClockRestored s) = s.role := by
  simp [execReferenceClockRestored]
@[simp] theorem execFlitCrcError_role (k) : outRole (execFlitCrcError k s) = s.role := by simp [execFlitCrcError]
@[simp] theorem execLinkRetrain_role (k lanes) : outRole (execLinkRetrain k lanes s) = s.role := by
  simp [execLinkRetrain]
@[simp] theorem execLinkSilentTimeout_role (k) : outRole (execLinkSilentTimeout k s) = s.role := by
  simp [execLinkSilentTimeout]
@[simp] theorem execLinkRestored_role (k) : outRole (execLinkRestored k s) = s.role := by simp [execLinkRestored]

/-! #### Tenancy -/

@[simp] theorem State.tnPend_role (t) : (s.tnPend t).role = s.role := by simp [tnPend]
@[simp] theorem State.putQuota_role (t k v) : ansRole (s.putQuota t k v) = s.role := by simp [putQuota]
@[simp] theorem State.putSlice_role (e t v) : ansRole (s.putSlice e t v) = s.role := by simp [putSlice]
@[simp] theorem State.putTenant_role (t v) : ansRole (s.putTenant t v) = s.role := by simp [putTenant]
@[simp] theorem State.tnThreads_role (s : State) (t) : ansRole (s.tnThreads t) = s.role := by
  unfold tnThreads
  refine List.foldlRecOn (motive := fun a => ansRole a = s.role) _ _ (by simp) fun a ha n _ => ?_
  dsimp only; split <;> simp [ha]
@[simp] theorem State.tnCipher_role (t) : ansRole (s.tnCipher t) = s.role := by simp [tnCipher]
@[simp] theorem State.tnStorage_role (t) : ansRole (s.tnStorage t) = s.role := by simp [tnStorage]
@[simp] theorem State.tnPuts_role (s : State) (t) : ansRole (s.tnPuts t) = s.role := by
  unfold tnPuts
  refine List.foldlRecOn (motive := fun a => ansRole a = s.role) _ _ (by simp) fun a ha n _ => ?_
  dsimp only; split <;> simp [ha]
@[simp] theorem State.tnRelease_role (s : State) (t) : (s.tnRelease t).role = s.role := by
  unfold tnRelease
  exact foldl_role _ _ _ fun s a => by dsimp only; split <;> simp
@[simp] theorem State.tenantStop_role (t) : (s.tenantStop t).role = s.role := by simp [tenantStop]
@[simp] theorem State.tenantEnd_role (t st) : (s.tenantEnd t st).role = s.role := by simp [tenantEnd]
@[simp] theorem execTenantResetEnd_role (t) : outRole (execTenantResetEnd t s) = s.role := by
  simp [execTenantResetEnd]
@[simp] theorem execTenantResetTimeout_role (t) : outRole (execTenantResetTimeout t s) = s.role := by
  simp [execTenantResetTimeout]
@[simp] theorem State.mbRing_role (t) : (s.mbRing t).role = s.role := by simp [mbRing]
@[simp] theorem State.putMbCtl_role (g t v) : ansRole (s.putMbCtl g t v) = s.role := by simp [putMbCtl]
@[simp] theorem State.putMb_role (g t o v) : ansRole (s.putMb g t o v) = s.role := by simp [putMb]
@[simp] theorem State.putTnm_role (g o v) : ansRole (s.putTnm g o v) = s.role := by
  unfold putTnm; dsimp only; (repeat' split) <;> simp
@[simp] theorem State.tnmWrite_role (a o v cmd) : outRole (s.tnmWrite a o v cmd) = s.role := by simp [tnmWrite]
@[simp] theorem execQuotaWrite_role (a t r v) : outRole (execQuotaWrite a t r v s) = s.role := by
  simp [execQuotaWrite]
@[simp] theorem execHartTidWrite_role (a h tid) : outRole (execHartTidWrite a h tid s) = s.role := by
  simp [execHartTidWrite]
@[simp] theorem execThSliceWrite_role (a e t v) : outRole (execThSliceWrite a e t v s) = s.role := by
  simp [execThSliceWrite]
@[simp] theorem execTenantConfigWrite_role (a t v) : outRole (execTenantConfigWrite a t v s) = s.role := by
  simp [execTenantConfigWrite]
@[simp] theorem execMbDownSend_role (a t) : outRole (execMbDownSend a t s) = s.role := by simp [execMbDownSend]
@[simp] theorem execMbUpSend_role (a t) : outRole (execMbUpSend a t s) = s.role := by simp [execMbUpSend]
@[simp] theorem execMbDownAck_role (a t) : outRole (execMbDownAck a t s) = s.role := by simp [execMbDownAck]
@[simp] theorem execMbUpAck_role (a t) : outRole (execMbUpAck a t s) = s.role := by simp [execMbUpAck]
@[simp] theorem execTenantReset_role (a t) : outRole (execTenantReset a t s) = s.role := by simp [execTenantReset]

/-! #### Configuration reads -/

@[simp] theorem State.unmapped_role (t a) : ansRole (s.unmapped t a) = s.role := by simp [unmapped]
@[simp] theorem State.getConf_role (t a) : dataRole (s.getConf t a) = s.role := by simp [getConf]

/-! #### Engine system instructions -/

@[simp] theorem State.waitDone_role (e t d ev late) : (s.waitDone e t d ev late).role = s.role := by simp [waitDone]
@[simp] theorem State.qwait_role (e t d mask dl) : (s.qwait e t d mask dl).role = s.role := by
  unfold qwait; (repeat' split) <;> simp
@[simp] theorem execWait_role (e t d a) : outRole (execWait e t d a s) = s.role := by simp [execWait]
@[simp] theorem execWaitDeadline_role (e t d a b) : outRole (execWaitDeadline e t d a b s) = s.role := by
  simp [execWaitDeadline]
@[simp] theorem execWaitEnd_role (e t) : outRole (execWaitEnd e t s) = s.role := by
  unfold execWaitEnd; (repeat' split) <;> simp
@[simp] theorem execSev_role (e t a door) : outRole (execSev e t a door s) = s.role := by simp [execSev]
@[simp] theorem State.qedge_role (s : State) (e t d ln at_ level nw) :
    (s.qedge e t d ln at_ level nw).role = s.role := by
  unfold qedge; split
  · next h => simp [lineQueue_role h]
  · simp
@[simp] theorem execDedge_role (e t d a x ln level) : outRole (execDedge e t d a x ln level s) = s.role := by
  simp [execDedge]
@[simp] theorem execDedgeNw_role (e t d a x ln level) : outRole (execDedgeNw e t d a x ln level s) = s.role := by
  simp [execDedgeNw]
@[simp] theorem execDset_role (e t d x ln level) : outRole (execDset e t d x ln level s) = s.role := by
  simp [execDset]
@[simp] theorem execDsetNw_role (e t d x ln level) : outRole (execDsetNw e t d x ln level s) = s.role := by
  simp [execDsetNw]
@[simp] theorem execDedgeQueueRoom_role (s : State) (e t) : outRole (execDedgeQueueRoom e t s) = s.role := by
  unfold execDedgeQueueRoom
  split
  · split
    · simp
    · split
      · next h => simp [State.lineQueue_role h]
      · simp
  · simp
@[simp] theorem execDlvl_role (e t d ln) : outRole (execDlvl e t d ln s) = s.role := by simp [execDlvl]
@[simp] theorem execDflush_role (e t d ln) : outRole (execDflush e t d ln s) = s.role := by simp [execDflush]
@[simp] theorem State.qsample_role (e t d x) : (s.qsample e t d x).role = s.role := by unfold qsample; split <;> simp
@[simp] theorem execMget_role (e t d) : outRole (execMget e t d s) = s.role := by simp [execMget]
@[simp] theorem execMlat_role (e t d ch kind) : outRole (execMlat e t d ch kind s) = s.role := by simp [execMlat]
@[simp] theorem execEngineMeasArrival_role (d n kind) : outRole (execEngineMeasArrival d n kind s) = s.role := by
  unfold execEngineMeasArrival; split <;> simp
@[simp] theorem execLcmd_role (e t d a b tagFail) : outRole (execLcmd e t d a b s tagFail) = s.role := by
  simp [execLcmd]
@[simp] theorem execTnow_role (e t d) : outRole (execTnow e t d s) = s.role := by simp [execTnow]
@[simp] theorem execQclr_role (e t d) : outRole (execQclr e t d s) = s.role := by simp [execQclr]
@[simp] theorem execSwp_role (e t d a b) : outRole (execSwp e t d a b s) = s.role := by simp [execSwp]
@[simp] theorem execBrk_role (e t) : outRole (execBrk e t s) = s.role := by simp [execBrk]
@[simp] theorem execHalt_role (e t) : outRole (execHalt e t s) = s.role := by simp [execHalt]
@[simp] theorem execIllegalInstruction_role (e t) : outRole (execIllegalInstruction e t s) = s.role := by
  simp [execIllegalInstruction]
@[simp] theorem execBreakpointHit_role (e t) : outRole (execBreakpointHit e t s) = s.role := by
  simp [execBreakpointHit]
@[simp] theorem State.secWrite_role (a e o v cmd) : outRole (s.secWrite a e o v cmd) = s.role := by simp [secWrite]
@[simp] theorem execThreadStart_role (a e t pc) : outRole (execThreadStart a e t pc s) = s.role := by
  simp [execThreadStart]
@[simp] theorem execThreadHalt_role (a e t pc) : outRole (execThreadHalt a e t pc s) = s.role := by
  simp [execThreadHalt]
@[simp] theorem execThreadStep_role (a e t pc) : outRole (execThreadStep a e t pc s) = s.role := by
  simp [execThreadStep]
@[simp] theorem execHaltAll_role (a e) : outRole (execHaltAll a e s) = s.role := by simp [execHaltAll]
@[simp] theorem execImLock_role (a e) : outRole (execImLock a e s) = s.role := by simp [execImLock]
@[simp] theorem execTDoorWrite_role (a e t v) : outRole (execTDoorWrite a e t v s) = s.role := by
  simp [execTDoorWrite]
@[simp] theorem execThreadStateWrite_role (a e t off v) : outRole (execThreadStateWrite a e t off v s) = s.role := by
  simp [execThreadStateWrite]
@[simp] theorem execDlBindWrite_role (a ln v) : outRole (execDlBindWrite a ln v s) = s.role := by
  simp [execDlBindWrite]
@[simp] theorem execMsubWrite_role (a e j v) : outRole (execMsubWrite a e j v s) = s.role := by simp [execMsubWrite]
@[simp] theorem execEngineMeasOvfRst_role (a e) : outRole (execEngineMeasOvfRst a e s) = s.role := by
  simp [execEngineMeasOvfRst]
@[simp] theorem State.putWindow_role (t x n v) : ansRole (s.putWindow t x n v) = s.role := by simp [putWindow]
@[simp] theorem State.getWindow_role (t x n) : dataRole (s.getWindow t x n) = s.role := by simp [getWindow]
@[simp] theorem execEngineMemWindowWrite_role (a addr bytes data) :
    outRole (execEngineMemWindowWrite a addr bytes data s) = s.role := by
  simp [execEngineMemWindowWrite]

/-! #### The crossbar -/

@[simp] theorem State.putIcu_role (t o v) : ansRole (s.putIcu t o v) = s.role := by simp [putIcu]
@[simp] theorem State.putRbc_role (t o v) : ansRole (s.putRbc t o v) = s.role := by simp [putRbc]
@[simp] theorem State.putCsk_role (t o v) : ansRole (s.putCsk t o v) = s.role := by simp [putCsk]
@[simp] theorem State.confRead_role (t a n) : dataRole (s.confRead t a n) = s.role := by simp [confRead]
@[simp] theorem State.caskWrite_role (s : State) (a t n off bytes v) :
    ansRole (s.caskWrite a t n off bytes v).1 = s.role := by
  unfold caskWrite; dsimp only
  (repeat' split) <;> simp
@[simp] theorem State.caskRead_role (t n off bytes) : dataRole (s.caskRead t n off bytes) = s.role := by
  simp [caskRead]
@[simp] theorem State.cellarWrite_role (t x n v) : ansRole (s.cellarWrite t x n v) = s.role := by simp [cellarWrite]
@[simp] theorem State.cellarRead_role (t x n) : dataRole (s.cellarRead t x n) = s.role := by simp [cellarRead]
@[simp] theorem State.swtWrite_role (t a n v) : ansRole (s.swtWrite t a n v) = s.role := by simp [swtWrite]
@[simp] theorem State.swtRead_role (a n) : dataRole (s.swtRead a n) = s.role := by simp [swtRead]
@[simp] theorem State.memRead_role (t addr n) : dataRole (s.memRead t addr n) = s.role := by simp [memRead]
@[simp] theorem State.busRead_role (s : State) (a addr n) : dataRole (s.busRead a addr n) = s.role := by
  simp [busRead]
@[simp] theorem State.brAnswer_role (q st v) : (s.brAnswer q st v).role = s.role := by simp [brAnswer]

/-! #### Press -/

@[simp] theorem State.pressWrite_role (h v detects) : (s.pressWrite h v detects).role = s.role := by simp [pressWrite]
@[simp] theorem State.mismatch_role (h cls) : (s.mismatch h cls).role = s.role := by simp [mismatch]
@[simp] theorem State.press_role (h cls one two upset upsetRetry) :
    ansRole (s.press h cls one two upset upsetRetry) = s.role := by
  simp [press]
@[simp] theorem State.debugLeave_role (h) : (s.debugLeave h).role = s.role := by simp [debugLeave]
@[simp] theorem State.released_role (h) : (s.released h).role = s.role := by simp [released]
@[simp] theorem execDebugHaltEntry_role (h) : outRole (execDebugHaltEntry h s) = s.role := by
  simp [execDebugHaltEntry]

/-! #### Hart CSRs -/

@[simp] theorem State.readCounter_role (h k) : ansRole (s.readCounter h k) = s.role := by simp [readCounter]
@[simp] theorem State.csrRead_role (hn n) : ansRole (s.csrRead hn n) = s.role := by simp [csrRead]
@[simp] theorem State.dbgWrite_role (v) : (s.dbgWrite v).role = s.role := by simp [dbgWrite]
@[simp] theorem State.msiWrite_role (v) : (s.msiWrite v).role = s.role := by simp [msiWrite]
@[simp] theorem State.csrWrite_role (hn n v detects) : (s.csrWrite hn n v detects).role = s.role := by simp [csrWrite]

/-! #### Hart memory -/

@[simp] theorem State.raise_role (hn f) : (s.raise hn f).role = s.role := by unfold raise; split <;> simp
@[simp] theorem State.keepPages_role (hn md k va l) : (s.keepPages hn md k va l).role = s.role := by
  unfold keepPages; split <;> simp
@[simp] theorem State.fetch_role (s : State) (hn n tr) : ansRole (s.fetch hn n tr) = s.role := by
  unfold fetch; dsimp only
  (repeat' split) <;> simp
@[simp] theorem State.atomicRange_role (a addr load) : (s.atomicRange a addr load).role = s.role := by
  simp [atomicRange]

/-! #### Triggers -/

@[simp] theorem State.trigAct_role (hn action tval) : (s.trigAct hn action tval).role = s.role := by simp [trigAct]
theorem State.trigBefore_role {s t : State} {hn x} (h : s.trigBefore hn x = some t) : t.role = s.role := by
  unfold trigBefore at h
  obtain ⟨k, -, rfl⟩ := Option.map_eq_some_iff.1 h
  simp
theorem State.icountFire_role {s t : State} {hn} (h : s.icountFire hn = some t) : t.role = s.role := by
  unfold icountFire at h; dsimp only at h
  split at h <;> cases h
  simp

/-! #### Harts -/

@[simp] theorem State.takeInterrupt_role (hn) : (s.takeInterrupt hn).role = s.role := by
  unfold takeInterrupt; dsimp only; split <;> simp
@[simp] theorem State.csrInstr_role (hn op rd n src v detects next) :
    (s.csrInstr hn op rd n src v detects next).role = s.role := by
  simp [csrInstr]
@[simp] theorem State.hartDo_role (s : State) (h) (f : State → State) (hf : ∀ s, (f s).role = s.role) :
    outRole (s.hartDo h f) = s.role := by
  simp [hartDo, hf]
@[simp] theorem State.wcallDo_role (hn) : (s.wcallDo hn).role = s.role := by simp [wcallDo]
@[simp] theorem execWcall_role (h upset upsetRetry) : outRole (execWcall h upset upsetRetry s) = s.role := by
  simp [execWcall]
@[simp] theorem execMretReserve_role (h) : outRole (execMretReserve h s) = s.role := by simp [execMretReserve]
@[simp] theorem execMonitorInterruptEntry_role (h) : outRole (execMonitorInterruptEntry h s) = s.role := by
  unfold execMonitorInterruptEntry; dsimp only; (repeat' split) <;> simp
@[simp] theorem execMachineTimerInterrupt_role (h) : outRole (execMachineTimerInterrupt h s) = s.role := by
  simp [execMachineTimerInterrupt]
@[simp] theorem State.customWrite_role (h n v detects) : outRole (s.customWrite h n v detects) = s.role := by
  unfold customWrite; dsimp only; (repeat' split) <;> simp
@[simp] theorem execPressEnable_role (h retry detects) : outRole (execPressEnable h retry detects s) = s.role := by
  simp [execPressEnable]
@[simp] theorem execPressDisable_role (h retry) : outRole (execPressDisable h retry s) = s.role := by
  simp [execPressDisable]
@[simp] theorem execMsiSend_role (h v) : outRole (execMsiSend h v s) = s.role := by simp [execMsiSend]
@[simp] theorem execDebugFuse_role (h key) : outRole (execDebugFuse h key s) = s.role := by simp [execDebugFuse]
@[simp] theorem execDebugCloseNext_role (h close) : outRole (execDebugCloseNext h close s) = s.role := by
  simp [execDebugCloseNext]
@[simp] theorem State.dmiEnd_role (st v) : (s.dmiEnd st v).role = s.role := by simp [dmiEnd]
@[simp] theorem State.dmiReg_role (s : State) (h r v) : (s.dmiReg h r v).role = s.role := by
  unfold dmiReg; dsimp only
  (repeat' split) <;> simp

end Neutral

/-! ### Operations that end or start a role (R660, R661, R665, R669) -/

@[simp] theorem State.setRole_role (s : State) (r : Nat) : (s.setRole r).role = r := by simp [setRole]
@[simp] theorem State.toStandby_role (s : State) : s.toStandby.role = 2 := by simp [toStandby]
@[simp] theorem State.pairOff_role (s : State) : s.pairOff.role = 0 := by simp [pairOff]
@[simp] theorem State.roleLapse_role (s : State) : s.roleLapse.role = 0 := by
  unfold roleLapse; split <;> simp_all

@[simp] theorem State.release_role (s : State) (env) : (s.release env).role = 0 := by
  unfold release
  extract_lets slept fresh s1 _ _ _ s2 s3 s4 s5 s6 _ s7 s8 s9 s10 mode s11 s12 s13 s14 r s15 _ p
  have h2 : s2.role = 0 := (role_mk ..).trans (s.roleLapse_role)
  have h6 : s6.role = 0 := by simp only [s6, s5, s4, s3, role_ite, wf_role, wb_role, wr_role, awakeStart_role, h2, ite_self]
  have h10 : s10.role = 0 := by simp only [s10, s9, s8, s7, setHart_role, wf_role, wr_role, role_mk, front_role, h6]
  have h15 : s15.role = 0 := by simp [s15, s14, s13, s12, s11, h10]
  have hp : p.2.role = 0 := by simp [p, h15]
  clear_value p s15
  rw [role_ite, role_mk]
  split
  · exact h15
  · split
    · exact (role_mk ..).trans hp
    · simp [hp]

@[simp] theorem State.supplyLost_role (s : State) : s.supplyLost.role = 0 := rfl

@[simp] theorem State.powerOn_role (s : State) : s.powerOn.role = 0 := by
  simp only [powerOn, wf_role]
  rw [foldl_role, role_mk]
  · rfl
  · intro s d; split <;> simp

/-! ### Operations that leave a module that is not ACTIVE so -/

theorem ite_inactive {c : Prop} [Decidable c] {r q : Nat} (hr : r ≠ 3) (hq : q ≠ 3) : (if c then r else q) ≠ 3 := by
  split <;> assumption

@[simp] theorem State.handRun_inactive (s : State) (hs : s.role ≠ 3) : s.handRun.role ≠ 3 := by
  unfold handRun
  (repeat' split) <;> simp [hs]

@[simp] theorem State.vinEnd_inactive (s : State) (st) (hs : s.role ≠ 3) : (s.vinEnd st).role ≠ 3 := by
  simp [vinEnd, hs]
@[simp] theorem State.yieldTo_inactive (s : State) (r) (hs : s.role ≠ 3) : (s.yieldTo r).role ≠ 3 := by
  unfold yieldTo; split <;> simp [hs]

@[simp] theorem State.pairPoll_inactive (s : State) (hs : s.role ≠ 3) : s.pairPoll.role ≠ 3 := by
  unfold pairPoll; dsimp only
  rw [pairLink_role]
  (repeat' split) <;> simp [hs]

@[simp] theorem State.safeState_inactive (s : State) (id) (hs : s.role ≠ 3) : (s.safeState id).role ≠ 3 := by
  unfold safeState
  extract_lets s1 s2
  have h2 : s2.role ≠ 3 := by simpa [s2, s1] using hs
  clear_value s2
  split
  · simp
  · exact h2

@[simp] theorem State.react_inactive (s : State) (id sev lseq) (hs : s.role ≠ 3) :
    (s.react id sev lseq).role ≠ 3 := by
  unfold react
  (repeat' split) <;> simp [hs]

@[simp] theorem State.accept_inactive (s : State) (r) (hs : s.role ≠ 3) : (s.accept r).role ≠ 3 := by
  unfold accept; dsimp only
  split <;> simp [hs]

@[simp] theorem State.inject_inactive (s : State) (id) (hs : s.role ≠ 3) : ansRole (s.inject id) ≠ 3 := by
  unfold inject; split <;> simp [hs]

@[simp] theorem State.putFc_inactive (s : State) (t o v) (hs : s.role ≠ 3) : ansRole (s.putFc t o v) ≠ 3 := by
  unfold putFc; dsimp only
  (repeat' split) <;> simp [hs]

@[simp] theorem State.putPrmCtl_inactive (s : State) (v) (hs : s.role ≠ 3) : ansRole (s.putPrmCtl v) ≠ 3 := by
  unfold putPrmCtl; dsimp only
  (repeat' split) <;> simp [hs]

@[simp] theorem State.putPrm_inactive (s : State) (t o v) (hs : s.role ≠ 3) : ansRole (s.putPrm t o v) ≠ 3 := by
  unfold putPrm; dsimp only
  (repeat' split) <;> simp [hs]

theorem ansRole_ite_inactive {c : Prop} [Decidable c] {r q : Status × State} (hr : ansRole r ≠ 3) (hq : ansRole q ≠ 3) :
    ansRole (if c then r else q) ≠ 3 := by
  split <;> assumption

@[simp] theorem State.putConf_inactive (s : State) (t a v) (hs : s.role ≠ 3) : ansRole (s.putConf t a v) ≠ 3 := by
  unfold putConf; dsimp only
  repeat' with_reducible refine ansRole_ite_inactive ?_ ?_
  all_goals simp [hs]

/-! ### Writes on the crossbar, and what a partner or a debugger makes of them -/

theorem twoPuts_inactive (f : State → Nat → Word → Ans) (s : State) (a n v) (hs : s.role ≠ 3)
    (hf : ∀ s a v, s.role ≠ 3 → ansRole (f s a v) ≠ 3) : ansRole (twoPuts f s a n v) ≠ 3 := by
  have hlo := hf s a (wd v.toNat) hs
  have hhi := hf (f s a (wd v.toNat)).2 (a + 4) (wd (v.toNat >>> 32)) (by simpa only [snd_role])
  have halone := hf s (a + 4) (wd (v.toNat >>> 32)) hs
  unfold twoPuts; dsimp only
  split
  · exact hlo
  · split
    · exact hhi
    · rw [ansRole_mk]; split
      · simpa only [snd_role]
      · exact hs

theorem narrowPut_inactive (r : Ans) (s : State) (hs : s.role ≠ 3) (hr : ansRole r ≠ 3) :
    ansRole (narrowPut r s) ≠ 3 := by
  unfold narrowPut; split <;> simp [hs, hr]

theorem State.heldPage_inactive (s : State) (t a) (r : Ans) (hs : s.role ≠ 3) (hr : ansRole r ≠ 3) :
    ansRole (s.heldPage t a r) ≠ 3 := by
  unfold heldPage; split <;> simp [hs, hr]

theorem State.cfgWrite_inactive (s : State) (a addr cmd) (f : Tags → State → Ans) (hs : s.role ≠ 3)
    (hf : ∀ t s, s.role ≠ 3 → ansRole (f t s) ≠ 3) : outRole (s.cfgWrite a addr cmd f) ≠ 3 := by
  have h1 := hf (s.tagsOf a.who) s hs
  have h2 := s.heldPage_inactive (s.tagsOf a.who) addr _ hs h1
  unfold cfgWrite; dsimp only
  (repeat' split) <;> simp [hs, h1, h2]

@[simp] theorem State.confWrite_inactive (s : State) (t a n v) (hs : s.role ≠ 3) :
    ansRole (s.confWrite t a n v) ≠ 3 := by
  unfold confWrite
  split
  · simp [hs]
  · split
    · simp [hs]
    · split
      · exact twoPuts_inactive _ s a n v hs fun s a v hs => s.putConf_inactive t a v hs
      · exact narrowPut_inactive _ s hs (s.putConf_inactive t _ _ hs)

@[simp] theorem State.busPut_inactive (s : State) (a t addr n v) (hs : s.role ≠ 3) :
    ansRole (s.busPut a t addr n v).1 ≠ 3 := by
  unfold busPut; dsimp only
  (repeat' split) <;> simp [hs]

@[simp] theorem State.busWrite_inactive (s : State) (a addr n v) (hs : s.role ≠ 3) :
    ansRole (s.busWrite a addr n v).1 ≠ 3 := by
  unfold busWrite; dsimp only
  split
  · split <;> simp [hs]
  · split
    · simp [hs]
    · split
      · exact heldPage_inactive _ _ _ _ hs (s.busPut_inactive a _ addr n v hs)
      · exact s.busPut_inactive a _ addr n v hs

theorem State.pairTake_role {s t : State} {typ f} (h : s.pairTake typ = some (f, t)) : t.role = s.role := by
  unfold pairTake at h
  split at h
  · cases h
  · split at h
    · cases h
    · split at h
      · cases h
      · cases h; simp

@[simp] theorem State.brReqLate_inactive (s : State) (hs : s.role ≠ 3) : s.brReqLate.role ≠ 3 := by
  unfold brReqLate
  split
  · next h => simp [pairTake_role h, hs]
  · exact hs

theorem State.onPair_inactive (s : State) (typ) (g : PairFrame → State → State) (hs : s.role ≠ 3)
    (hg : ∀ f s, s.role ≠ 3 → (g f s).role ≠ 3) : outRole (s.onPair typ g) ≠ 3 := by
  unfold onPair
  rw [outRole_next]
  split
  · next h => exact pairPoll_inactive _ (hg _ _ (by rwa [pairTake_role h]))
  · exact hs

@[simp] theorem State.pairServe_inactive (s : State) (q tagFail) (hs : s.role ≠ 3) :
    (s.pairServe q tagFail).role ≠ 3 := by
  unfold pairServe; dsimp only
  rw [brAnswer_role, snd_snd_role]
  (repeat' split) <;> simp [hs]

@[simp] theorem State.dmiBus_inactive (s : State) (a addr n v cmd) (hs : s.role ≠ 3) :
    (s.dmiBus a addr n v cmd).role ≠ 3 := by
  unfold dmiBus; dsimp only
  (repeat' split) <;> simp [hs]

/-! ### Harts -/

@[simp] theorem State.splitAccess_inactive (s : State) (a r p q) (hs : s.role ≠ 3) :
    dataRole (s.splitAccess a r p q) ≠ 3 := by
  unfold splitAccess; dsimp only
  (repeat' split) <;> simp [hs]

@[simp] theorem State.sramAtomic_inactive (s : State) (a hn addr n r) (hs : s.role ≠ 3) :
    dataRole (s.sramAtomic a hn addr n r) ≠ 3 := by
  unfold sramAtomic; dsimp only
  (repeat' split) <;> simp [hs]

@[simp] theorem State.hartRequest_inactive (s : State) (a hn r w n cmd second) (hs : s.role ≠ 3) :
    (s.hartRequest a hn r w n cmd second).role ≠ 3 := by
  unfold hartRequest
  extract_lets _ s1 load two
  have h1 : s1.role ≠ 3 := by simpa [s1] using hs
  clear_value s1 two
  split
  · simp [h1]
  · split
    · simp [h1]
    · split
      · simp [h1]
      · split
        · split <;> simp [h1]
        · cases r with
          | store v => dsimp only; split <;> simp +zetaDelta [h1]
          | _ => simp +zetaDelta [h1]

@[simp] theorem State.hartAccess_inactive (s : State) (hn h8 tagFail guest r va n tr w cmd) (hs : s.role ≠ 3) :
    (s.hartAccess hn h8 tagFail guest r va n tr w cmd).role ≠ 3 := by
  unfold hartAccess; dsimp only
  (repeat' split) <;> simp [hs]

@[simp] theorem State.perform_inactive (s : State) (h8 i cmd) (hs : s.role ≠ 3) : (s.perform h8 i cmd).role ≠ 3 := by
  unfold perform; dsimp only
  cases i.op with
  | ebreak => dsimp only; split <;> simp [hs]
  | _ => simp [hs]

@[simp] theorem State.hartRun_inactive (s : State) (h8 i cmd) (hs : s.role ≠ 3) : (s.hartRun h8 i cmd).role ≠ 3 := by
  unfold hartRun; dsimp only
  split
  · next h => rwa [trigBefore_role h]
  · split
    · simp [hs]
    · rw [setHart_role]
      split <;> simp [hs]

@[simp] theorem State.hartStep_inactive (s : State) (h8 i cmd) (hs : s.role ≠ 3) :
    (s.hartStep h8 i cmd).role ≠ 3 := by
  unfold hartStep; dsimp only
  split
  · simp [hs]
  · split
    · next h => rwa [icountFire_role h]
    · split <;> simp [hs]

@[simp] theorem State.dmiExec_inactive (s : State) (h i cmd) (hs : s.role ≠ 3) : (s.dmiExec h i cmd).role ≠ 3 := by
  unfold dmiExec; dsimp only
  (repeat' split) <;> simp [hs]

theorem State.hartDo_inactive (s : State) (h) (f : State → State) (hs : s.role ≠ 3)
    (hf : ∀ s, s.role ≠ 3 → (f s).role ≠ 3) : outRole (s.hartDo h f) ≠ 3 := by
  have hreleased := hf (s.released h) (by simpa using hs)
  unfold hartDo; dsimp only
  rw [outRole_next]
  (repeat' split) <;> simp [hs, hreleased]

/-! ### Commands that reach one of these operations -/

@[simp] theorem execPowerOnReset_inactive (s : State) : outRole (execPowerOnReset s) ≠ 3 := by simp [execPowerOnReset]
@[simp] theorem execAlwaysOnSupplyLoss_inactive (s : State) : outRole (execAlwaysOnSupplyLoss s) ≠ 3 := by
  simp [execAlwaysOnSupplyLoss]

@[simp] theorem execLogicResetRelease_inactive (env) (s : State) (hs : s.role ≠ 3) :
    outRole (execLogicResetRelease env s) ≠ 3 := by
  simp [execLogicResetRelease, ite_inactive, hs]

@[simp] theorem execChipResetRelease_inactive (env) (s : State) (hs : s.role ≠ 3) :
    outRole (execChipResetRelease env s) ≠ 3 := by
  simp [execChipResetRelease, ite_inactive, hs]

@[simp] theorem execJtagExtestRelease_inactive (env) (s : State) (ir) (hs : s.role ≠ 3) :
    outRole (execJtagExtestRelease env s ir) ≠ 3 := by
  simp [execJtagExtestRelease, ite_inactive, hs]

@[simp] theorem execFaultReport_inactive (k) (s : State) (hs : s.role ≠ 3) : outRole (execFaultReport k s) ≠ 3 := by
  unfold execFaultReport
  rw [outRole_next]
  (repeat' split) <;> simp [hs]

@[simp] theorem execFcInj_inactive (a id) (s : State) (hs : s.role ≠ 3) : outRole (execFcInj a id s) ≠ 3 :=
  s.cfgWrite_inactive _ _ _ _ hs fun t s hs => s.putFc_inactive t _ _ hs

@[simp] theorem execEscalationCommit_inactive (a k v) (s : State) (hs : s.role ≠ 3) :
    outRole (execEscalationCommit a k v s) ≠ 3 :=
  s.cfgWrite_inactive _ _ _ _ hs fun t s hs => s.putFc_inactive t _ _ hs

@[simp] theorem execSafeClr_inactive (a) (s : State) (hs : s.role ≠ 3) : outRole (execSafeClr a s) ≠ 3 :=
  s.cfgWrite_inactive _ _ _ _ hs fun t s hs => s.putFc_inactive t _ _ hs
@[simp] theorem execPrmStart_inactive (a) (s : State) (hs : s.role ≠ 3) : outRole (execPrmStart a s) ≠ 3 :=
  s.cfgWrite_inactive _ _ _ _ hs fun t s hs => s.putPrm_inactive t _ _ hs
@[simp] theorem execVintageGo_inactive (a) (s : State) (hs : s.role ≠ 3) : outRole (execVintageGo a s) ≠ 3 :=
  s.cfgWrite_inactive _ _ _ _ hs fun t s hs => s.putPrm_inactive t _ _ hs
@[simp] theorem execHandover_inactive (a) (s : State) (hs : s.role ≠ 3) : outRole (execHandover a s) ≠ 3 :=
  s.cfgWrite_inactive _ _ _ _ hs fun t s hs => s.putPrm_inactive t _ _ hs
@[simp] theorem execPairWake_inactive (a) (s : State) (hs : s.role ≠ 3) : outRole (execPairWake a s) ≠ 3 :=
  s.cfgWrite_inactive _ _ _ _ hs fun t s hs => s.putPrm_inactive t _ _ hs

@[simp] theorem execRegisterWrite_inactive (a addr bytes data) (s : State) (hs : s.role ≠ 3) :
    outRole (execRegisterWrite a addr bytes data s) ≠ 3 := by
  unfold execRegisterWrite; dsimp only
  (repeat' split) <;> simp [hs]

@[simp] theorem execIslandTransactionTimeout_inactive (i) (s : State) (hs : s.role ≠ 3) :
    outRole (execIslandTransactionTimeout i s) ≠ 3 := by
  unfold execIslandTransactionTimeout; dsimp only
  rw [outRole_next]
  (repeat' split) <;> simp [hs]

@[simp] theorem execHartInstruction_inactive (h i) (s : State) (hs : s.role ≠ 3) :
    outRole (execHartInstruction h i s) ≠ 3 := by
  unfold execHartInstruction
  extract_lets _ s1
  have h1 : s1.role ≠ 3 := by simpa [s1] using hs
  exact s1.hartDo_inactive h _ h1 fun s hs => s.hartStep_inactive h i _ hs

@[simp] theorem execDmiAccess_inactive (op) (s : State) (hs : s.role ≠ 3) : outRole (execDmiAccess op s) ≠ 3 := by
  unfold execDmiAccess; dsimp only
  rw [outRole_next]
  split
  · exact hs
  · split
    · cases op with
      | sbWrite addr n v tagFail => dsimp only; split <;> simp [hs]
      | _ => simp [hs]
    · cases op with
      | haltReq h => dsimp only; rw [State.dmiEnd_role]; split <;> simp [hs]
      | _ => simp [hs]

@[simp] theorem execBeatCommandAbsent_inactive (s : State) (hs : s.role ≠ 3) :
    outRole (execBeatCommandAbsent s) ≠ 3 := by
  simp [execBeatCommandAbsent, ite_inactive, hs]

@[simp] theorem execBeatTick_inactive (s : State) (hs : s.role ≠ 3) : outRole (execBeatTick s) ≠ 3 := by
  unfold execBeatTick; dsimp only
  rw [outRole_next]
  (repeat' split) <;> simp [hs]

@[simp] theorem execHealthReportTick_inactive (s : State) (hs : s.role ≠ 3) :
    outRole (execHealthReportTick s) ≠ 3 := by
  unfold execHealthReportTick; dsimp only
  rw [outRole_next]
  (repeat' split) <;> simp [hs]

@[simp] theorem execHeartbeatPulseReceive_inactive (us) (s : State) (hs : s.role ≠ 3) :
    outRole (execHeartbeatPulseReceive us s) ≠ 3 := by
  unfold execHeartbeatPulseReceive
  extract_lets role _ s1
  have h1 : s1.role ≠ 3 := by simpa [s1] using hs
  clear_value role s1
  rw [outRole_next]
  split
  · exact hs
  · simp [h1]

@[simp] theorem execPeerPathSilent_inactive (frame) (s : State) (hs : s.role ≠ 3) :
    outRole (execPeerPathSilent frame s) ≠ 3 := by
  unfold execPeerPathSilent; dsimp only
  rw [outRole_next]
  (repeat' split) <;> simp [hs]

@[simp] theorem execPairListenEnd_inactive (s : State) (hs : s.role ≠ 3) : outRole (execPairListenEnd s) ≠ 3 := by
  simp [execPairListenEnd, ite_inactive, hs]

@[simp] theorem execPairOwnChange_inactive (low) (s : State) (hs : s.role ≠ 3) :
    outRole (execPairOwnChange low s) ≠ 3 := by
  unfold execPairOwnChange; dsimp only
  rw [outRole_next]
  (repeat' split) <;> simp [hs]

@[simp] theorem execVintageAckTimeout_inactive (s : State) (hs : s.role ≠ 3) :
    outRole (execVintageAckTimeout s) ≠ 3 := by
  simp [execVintageAckTimeout, ite_inactive, hs]

@[simp] theorem execVintageAutoTick_inactive (s : State) (hs : s.role ≠ 3) : outRole (execVintageAutoTick s) ≠ 3 := by
  unfold execVintageAutoTick; dsimp only
  rw [outRole_next]
  (repeat' split) <;> simp [hs]

@[simp] theorem execPairHeartbeatFrame_inactive (s : State) (hs : s.role ≠ 3) :
    outRole (execPairHeartbeatFrame s) ≠ 3 :=
  s.onPair_inactive _ _ hs fun _ _ hs => by simp [hs]

@[simp] theorem execPairVinData_inactive (s : State) (hs : s.role ≠ 3) : outRole (execPairVinData s) ≠ 3 :=
  s.onPair_inactive _ _ hs fun _ _ hs => by simp [hs]
@[simp] theorem execPairVinCommit_inactive (s : State) (hs : s.role ≠ 3) : outRole (execPairVinCommit s) ≠ 3 :=
  s.onPair_inactive _ _ hs fun _ _ hs => by simp [hs]
@[simp] theorem execPairVinAck_inactive (s : State) (hs : s.role ≠ 3) : outRole (execPairVinAck s) ≠ 3 :=
  s.onPair_inactive _ _ hs fun _ _ hs => by simp [ite_inactive, hs]
@[simp] theorem execPairHealthFrame_inactive (s : State) (hs : s.role ≠ 3) : outRole (execPairHealthFrame s) ≠ 3 :=
  s.onPair_inactive _ _ hs fun _ _ hs => by simp [hs]

@[simp] theorem execPairBrReq_inactive (s : State) (tagFail) (hs : s.role ≠ 3) :
    outRole (execPairBrReq s tagFail) ≠ 3 := by
  unfold execPairBrReq; dsimp only
  split
  · split
    · simpa using hs
    · split
      · simpa using hs
      · exact s.onPair_inactive _ _ hs fun f s hs => s.pairServe_inactive f.ask tagFail hs
  · simpa using hs

@[simp] theorem execPairBrRsp_inactive (s : State) (hs : s.role ≠ 3) : outRole (execPairBrRsp s) ≠ 3 := by
  refine s.onPair_inactive _ _ hs fun f s hs => ?_
  dsimp only
  (repeat' split) <;> simp [hs]

/-! ### PAIR_CLAIM, and every other command -/

/-- PAIR_CLAIM apart, no command makes a module ACTIVE that was not. -/
theorem exec_inactive (c : Instr) (s : State) (hc : c ≠ .pairClaim) (hs : s.role ≠ 3) : outRole (exec c s) ≠ 3 := by
  cases c with
  | pairClaim => exact absurd rfl hc
  | _ => simp [exec, hs]

/-- PAIR_CLAIM makes a STANDBY module ACTIVE only through a takeover, under its guard (R667). -/
theorem execPairClaim_takesOver (s : State) (hs : s.role = 2) (h : outRole (execPairClaim s) = 3) :
    s.front.ownLow = false ∧ (s.peer = 3 ∨ s.prm.armed = true) ∧ s.aoState ≠ 1 := by
  unfold execPairClaim at h
  rw [State.front_role, hs, outRole_next] at h
  split at h
  · omega
  · next hfree =>
    split at h
    · next hsolo => simp at hsolo
    · split at h
      · next hguard => simp_all
      · omega

end Sys2Proof.Machine

namespace Sys2Proof.Safety

open Sys2Proof.Machine Sys2Proof.Laws

/-- Settles O60. Only a claim sets the role to ACTIVE, and a STANDBY module claims only in PAIR_CLAIM, whose guard asks
for a FAILED partner or a hand-over that it is armed for. -/
theorem standbyHeldBack : Obligations.StandbyHeldBack := by
  unfold Obligations.StandbyHeldBack
  intro c s t ht hs hrole
  rw [State.front_role] at hs hrole
  have hout : outRole (exec c s) = 3 := by rw [ht, outRole_next, hrole]
  obtain rfl : c = .pairClaim :=
    Decidable.byContradiction fun hc => exec_inactive c s hc (by omega) hout
  obtain ⟨hlow, hpeer, hao⟩ := execPairClaim_takesOver s hs hout
  exact ⟨fun hok => hpeer.resolve_left (by omega), hao, hlow⟩

end Sys2Proof.Safety
end
